-- ==== Sys2Proof/Word.lean ====
section
/-!
DEFINITION. The word types of the device and the one sparse map type that State is built from.
A sparse map is a list of (key, value) pairs with rising keys; a key that is not listed has the map's default value.
-/

namespace Sys2Proof

/-- A byte of tile SRAM, the Cistern, flash or a packet. -/
abbrev Byte := BitVec 8

/-- A 32-bit word: a command word, a dictionary word, a sync count. -/
abbrev Word := BitVec 32

/-- A 64-bit word: the value of a dictionary object (a narrower object uses its low bits). -/
abbrev DWord := BitVec 64

/-- A sparse map from numbers: keys strictly rising, no entry equal to the default. -/
abbrev SMap (α : Type) := List (Nat × α)

/-- Bytes at offsets, in the same canonical form, the unlisted byte being the page's base. -/
abbrev Cells := SMap Byte

end Sys2Proof
end

