-- ==== Sys2Proof/Syntax.lean ====
section
/-!
DEFINITION. The commands of the device: one constructor per row of the table of operations and events.
Operands name the instance concerned and carry the physical facts that the device meets from outside: readings, training results, ECC verdicts, image bytes, descriptor words in host memory, and the master of an access (0 CAN FD, 1 and 2 the PCIe ports, 3 Rill, 4 Weir).
-/

namespace Sys2Proof

/-- What is fixed in a part and its board (R435, R475, R479, R550, R558, R563): grade 0 HK-9420, 1 HK-9418, 2 HK-9410; stepping; serial number; strapped node ID; the four key digests and the revoke bits; factory defect entries (words 0 and 1); factory row repairs (site, bank, row); and the flash contents as delivered, in runs of bytes. -/
structure Board where
  grade : Nat
  stepping : Nat
  serial : Nat
  nodeId : Nat
  digests : List (List Byte)
  revoked : Nat
  factory : List (Nat × Nat)
  repairs : List (Nat × Nat × Nat)
  flash : List (Nat × List Byte)
deriving DecidableEq, Repr

/-- No part: before power good. -/
def Board.blank : Board :=
  { grade := 0, stepping := 0, serial := 0, nodeId := 0, digests := [], revoked := 0, factory := [], repairs := [], flash := [] }

/-- What a run of the alignment step meets (R529): the PLL lock word, the round trip of each hub link in use, the final move of the trims of each link (link, up, down), the link that does not agree in four rounds, and the link that misses in phase 6. -/
structure AlignFacts where
  plls : Nat
  trips : List (Nat × Nat)
  moves : List (Nat × Int × Int)
  disagree : Option Nat
  miss : Option Nat
deriving DecidableEq, Repr

/-- What the ECC of a line read finds (R198): no error, a corrected symbol, or more than it can correct. The Bool says whether another member of the stripe is unreadable too. -/
inductive LineVerdict where
  | clean
  | corrected
  | bad (second : Bool)
deriving DecidableEq, Repr

/-- A bus access of a PCIe port to an address of BAR0 or BAR2: a read of so many bytes, or a write with its byte enables and data (R341, R453, R461). -/
inductive BusOp where
  | read (bytes : Nat)
  | write (bytes enables value : Nat)
deriving DecidableEq, Repr

/-- How an access reaches the object dictionary: a word that a master writes to an object, or a PCIe access by BAR and offset (R425, R453). -/
inductive ObjAccess where
  | word (value : Nat)
  | bus (op : BusOp)
deriving DecidableEq, Repr

/-- An acknowledgement that reaches a command's slot: which of its writes, and whether the Cistern write was not ready by its cycle (R167, R353). -/
structure WriteAck where
  slot : Nat
  k : Nat
  late : Bool
deriving DecidableEq, Repr

/-- A lane that fails, and whether DET traffic is rerouted then (R169, R356). -/
structure LaneLoss where
  lane : Nat
  det : Bool
deriving DecidableEq, Repr

/-- A link that slips, and whether DET traffic is rerouted then (R356, R530). -/
structure SlippedLink where
  link : Nat
  det : Bool
deriving DecidableEq, Repr

/-- For whom a line is read: whether for a DET partition, and whether the data was not ready by its cycle (R353, R356). -/
structure LineUse where
  det : Bool
  late : Bool
deriving DecidableEq, Repr

/-- A port without credits, and the bytes of its next band that left before (R431). -/
structure StalledPort where
  port : Nat
  sent : Nat
deriving DecidableEq, Repr

/-- A segment as an input port receives it (R371 to R374): header fields, whether its crc matches, and its data bytes. -/
structure SegmentData where
  kind : Nat
  flags : Nat
  line : Nat
  offset : Nat
  frame : Nat
  crc : Nat
  damaged : Bool
  bytes : List Byte
deriving DecidableEq, Repr

/-- A descriptor as it stands in host memory when it is posted (R427, words 0 to 3). -/
structure HostDesc where
  address : Nat
  length : Nat
  irq : Bool
deriving DecidableEq, Repr

/-- The commands and events of the device, one constructor per row of the table. -/
inductive Instr where
  /-- POWER_GOOD_AND_WEIR_BOOT (R477). -/
  | powerGood (board : Board) (elapsed : Nat)
  /-- PWRGOOD_LOW (R506). -/
  | pwrgoodLow
  /-- FUSE_READ (R550). -/
  | fuseRead (m elapsed verdict : Nat)
  /-- DEFECT_MAP_LOAD (R558). -/
  | defectMapLoad (m elapsed : Nat)
  /-- UZOQUIN_LINK_TRAINING (R561). -/
  | linkTraining (m elapsed : Nat) (bad : List (Nat × Nat × Nat × Nat))
  /-- HBM_TRAINING (R562). -/
  | hbmTraining (m elapsed : Nat) (badStacks : List Nat) (badPcs : List (Nat × Nat))
  /-- NETWORK_MAP_APPLY (R559). -/
  | networkMapApply (m elapsed : Nat)
  /-- TILE_SELF_TEST (R563). -/
  | tileSelfTest (m elapsed : Nat) (rows : List (Nat × Nat × Nat)) (fails : List Nat)
  /-- RESET_ALIGNMENT (R529). -/
  | resetAlignment (m elapsed : Nat) (facts : AlignFacts)
  /-- RILL_LOAD (R550). -/
  | rillLoad (m elapsed : Nat)
  /-- PARTITION_CONFIGURATION (R560). -/
  | partitionConfiguration (m elapsed : Nat)
  /-- DEFECT_DATA_ACCESS (R569). -/
  | defectDataAccess (m : Nat) (wr : Option Nat)
  /-- TAIL_WRITE (R80). -/
  | tailWrite (m eng q value : Nat)
  /-- DISPATCH (R82). -/
  | dispatch (eng q : Nat)
  /-- RETIRE_REFUSED (R78). -/
  | retireRefused (eng q sl : Nat)
  /-- KILL_COMPLETE (R89). -/
  | killComplete (eng q sl : Nat)
  /-- MATRIX_MULTIPLY (R67). -/
  | matrixMultiply (eng q sl : Nat)
  /-- SLIDING_WINDOW (R101). -/
  | slidingWindow (eng q sl : Nat)
  /-- FENCE (R73). -/
  | fence (eng q sl : Nat)
  /-- ELEMENT_ADD (R126). -/
  | elementAdd (eng q sl : Nat)
  /-- ELEMENT_SUBTRACT (R126). -/
  | elementSubtract (eng q sl : Nat)
  /-- ELEMENT_MULTIPLY (R126). -/
  | elementMultiply (eng q sl : Nat)
  /-- ELEMENT_MAX (R126). -/
  | elementMax (eng q sl : Nat)
  /-- ELEMENT_MIN (R126). -/
  | elementMin (eng q sl : Nat)
  /-- ELEMENT_SCALE_ADD (R126). -/
  | elementScaleAdd (eng q sl : Nat)
  /-- ELEMENT_AFFINE (R126). -/
  | elementAffine (eng q sl : Nat)
  /-- RECTIFIER (R126). -/
  | rectifier (eng q sl : Nat)
  /-- LEAKY_RECTIFIER (R126). -/
  | leakyRectifier (eng q sl : Nat)
  /-- ELEMENT_CLAMP (R126). -/
  | elementClamp (eng q sl : Nat)
  /-- PIECEWISE_LINEAR_TABLE (R127). -/
  | piecewiseLinearTable (eng q sl : Nat)
  /-- ELEMENT_CONVERT (R126). -/
  | elementConvert (eng q sl : Nat)
  /-- ROW_SUM (R128). -/
  | rowSum (eng q sl : Nat)
  /-- ROW_MAXIMUM (R128). -/
  | rowMaximum (eng q sl : Nat)
  /-- ROW_SUM_OF_SQUARES (R128). -/
  | rowSumOfSquares (eng q sl : Nat)
  /-- ROW_MINIMUM (R128). -/
  | rowMinimum (eng q sl : Nat)
  /-- MAX_POOLING (R131). -/
  | maxPooling (eng q sl : Nat)
  /-- AVERAGE_POOLING_WINDOW (R131). -/
  | averagePoolingWindow (eng q sl : Nat)
  /-- AVERAGE_POOLING_INPUT (R131). -/
  | averagePoolingInput (eng q sl : Nat)
  /-- BILINEAR_RESAMPLING (R133). -/
  | bilinearResampling (eng q sl : Nat)
  /-- BICUBIC_RESAMPLING (R133). -/
  | bicubicResampling (eng q sl : Nat)
  /-- PIXEL_SHUFFLE (R134). -/
  | pixelShuffle (eng q sl : Nat)
  /-- PIXEL_UNSHUFFLE (R134). -/
  | pixelUnshuffle (eng q sl : Nat)
  /-- PER_PIXEL_ARGMAX (R135). -/
  | perPixelArgmax (eng q sl : Nat)
  /-- ZERO_RUN_COMPRESSION (R138). -/
  | zeroRunCompression (eng q sl : Nat)
  /-- ZERO_RUN_EXPANSION (R138). -/
  | zeroRunExpansion (eng q sl : Nat)
  /-- GROUPED_SLIDING_WINDOW (R118). -/
  | groupedSlidingWindow (eng q sl : Nat)
  /-- CONVOLUTION_2D_TRANSFORM (R115). -/
  | convolution2dTransform (eng q sl : Nat)
  /-- CONVOLUTION_ALONG_LINES (R115). -/
  | convolutionAlongLines (eng q sl : Nat)
  /-- CONVOLUTION_ALONG_COLUMNS (R115). -/
  | convolutionAlongColumns (eng q sl : Nat)
  /-- REGION_COPY (R110). -/
  | regionCopy (eng q sl : Nat)
  /-- CISTERN_LOAD (R173). -/
  | cisternLoad (eng q sl : Nat)
  /-- CISTERN_STORE (R173). -/
  | cisternStore (eng q sl : Nat)
  /-- MULTICAST_COPY (R174). -/
  | multicastCopy (eng q sl : Nat)
  /-- STEM (R144). -/
  | stem (eng q sl : Nat)
  /-- HEAD (R145). -/
  | head (eng q sl : Nat)
  /-- SCALE_AND_SHARPEN (R148). -/
  | scaleAndSharpen (eng q sl : Nat)
  /-- GATHER (R220). -/
  | gather (eng q sl : Nat)
  /-- ADVANCE (R223). -/
  | advance (eng q sl : Nat)
  /-- RELEASE (R224). -/
  | release (eng q sl : Nat)
  /-- PYRAMID_BUILD (R248). -/
  | pyramidBuild (eng q sl : Nat)
  /-- ESTIMATE (R251). -/
  | estimate (eng q sl : Nat)
  /-- CORNERS (R257). -/
  | corners (eng q sl : Nat)
  /-- MATCH (R260). -/
  | matchCorners (eng q sl : Nat)
  /-- WARP_AND_BLEND (R262). -/
  | warpAndBlend (eng q sl : Nat)
  /-- COPY_A (R262). -/
  | copyA (eng q sl : Nat)
  /-- REMOTE_WRITE (R88). -/
  | remoteWrite (eng q sl k : Nat)
  /-- WRITE_ACKNOWLEDGEMENT (R167). -/
  | writeAcknowledgement (eng q : Nat) (a : WriteAck)
  /-- COMMIT_GRANT (R86). -/
  | commitGrant (eng q sl : Nat)
  /-- REMOTE_COMMIT_MESSAGE (R88). -/
  | remoteCommitMessage (eng q sl tile : Nat)
  /-- COMMIT_SIGNAL (R86). -/
  | commitSignal (eng q sl : Nat)
  /-- SYNC_UPDATE_APPLY (R335). -/
  | syncUpdateApply (bank : Nat)
  /-- WATCH_NOTIFICATION (R332). -/
  | watchNotification (eng q : Nat)
  /-- CMD_DATA_READ (R95). -/
  | cmdDataRead (m eng : Nat)
  /-- CMD_DATA_WRITE (R95). -/
  | cmdDataWrite (m eng value : Nat)
  /-- QUEUE_BINDING_WRITE (R96). -/
  | queueBindingWrite (m eng q value : Nat)
  /-- BANK_OWNER_WRITE (R96). -/
  | bankOwnerWrite (m tile : Nat) (high valid : Bool) (value : Nat)
  /-- LOAD (R185). -/
  | load (m : Nat) (image : List Byte)
  /-- LOAD_COMPLETE (R186, R192): the phase that the load engine reaches, 5 when it finishes. -/
  | loadComplete (phase : Nat)
  /-- UNLOAD (R188). -/
  | unload (m : Nat)
  /-- ABORT_LOAD (R188). -/
  | abortLoad (m : Nat)
  /-- FLIT_CHECK_FAILURE (R169). -/
  | flitCheckFailure (link : Nat) (det : Bool)
  /-- LANE_FAILURE (R564). -/
  | laneFailure (link dir group : Nat) (lost : LaneLoss)
  /-- GROUP_RETRAIN_COMPLETE (R169). -/
  | groupRetrainComplete (link dir group : Nat)
  /-- LINK_RETRAIN (R564). -/
  | linkRetrain (link : Nat) (det : Bool)
  /-- LINK_RETRAIN_COMPLETE (R564). -/
  | linkRetrainComplete (link : Nat) (bad : List (Nat × Nat × Nat)) (agree : Bool)
  /-- LINK_RETRAIN_RETRY (R564). -/
  | linkRetrainRetry (link : Nat)
  /-- LINK_SLIP (R530). -/
  | linkSlip (x : SlippedLink)
  /-- CISTERN_LINE_READ (R198). -/
  | cisternLineRead (slot line : Nat) (verdict : LineVerdict) (use : LineUse)
  /-- SCRUB_READ (R199). -/
  | scrubRead (slot line : Nat) (verdict : LineVerdict)
  /-- PARITY_UPDATE (R200). -/
  | parityUpdate (eng q sl k : Nat)
  /-- TAG_SETTLE (R210). -/
  | tagSettle (tag : Nat)
  /-- RETIRED_SLOT_FREE (R211). -/
  | retiredSlotFree (slot : Nat)
  /-- MIGRATE_START (R232). -/
  | migrateStart (m : Nat)
  /-- MIGRATE_ABORT (R236). -/
  | migrateAbort (m : Nat)
  /-- PAGE_MIGRATION_SWITCH (R231, R232). -/
  | pageMigrationSwitch
  /-- RETIRE_STACK (R229). -/
  | retireStack (m value : Nat)
  /-- PC_RETRAIN_START (R565). -/
  | pcRetrainStart (stack ch : Nat)
  /-- PC_RETRAIN_COMPLETE (R229). -/
  | pcRetrainComplete (stack ch : Nat) (ok : Bool)
  /-- STACK_LOST (R230). -/
  | stackLost (stack : Nat)
  /-- REBUILD_COMPLETE (R231). -/
  | rebuildComplete
  /-- REGION_WRITE (R239). -/
  | regionWrite (m p sub value : Nat)
  /-- SOURCE_GAP (R287). -/
  | sourceGap (k : Nat)
  /-- PUBLISH_STEP (R282). -/
  | publishStep (k : Nat)
  /-- STREAM_START (R295). -/
  | streamStart (m k : Nat)
  /-- STREAM_STOP (R290). -/
  | streamStop (m k : Nat)
  /-- STOP_COMPLETE (R290). -/
  | stopComplete (k : Nat)
  /-- FORCE_CUT (R286). -/
  | forceCut (m k : Nat)
  /-- CHECKPOINT (R310). -/
  | checkpoint (k : Nat)
  /-- FALLBACK_PUBLISH_STEP (R312). -/
  | fallbackPublishStep (k : Nat)
  /-- ABANDONED_RETIRE (R314). -/
  | abandonedRetire (eng q sl : Nat)
  /-- LATE_CHECK (R315). -/
  | lateCheck (k : Nat)
  /-- OUTPUT_FRAME_BOUNDARY (R532). -/
  | outputFrameBoundary (output : Nat)
  /-- PARTITION_CONFIGURE (R297). -/
  | partitionConfigure (m p : Nat)
  /-- PARTITION_START (R298). -/
  | partitionStart (m p : Nat)
  /-- PARTITION_STOP (R298). -/
  | partitionStop (m p : Nat)
  /-- PARTITION_RESET (R318). -/
  | partitionReset (m p : Nat)
  /-- RESET_QUEUE_CLEAR (R318). -/
  | resetQueueClear (p : Nat)
  /-- LEND (R304). -/
  | lend (m p : Nat)
  /-- RECLAIM_TILE (R306). -/
  | reclaimTile (m p : Nat)
  /-- RECLAIM_ALL (R306). -/
  | reclaimAll (m p : Nat)
  /-- RECLAIM_COMPLETE (R306). -/
  | reclaimComplete (p : Nat)
  /-- ACCT_WITHDRAW (R307). -/
  | acctWithdraw (m p value : Nat)
  /-- ACCT_RESTORE (R307). -/
  | acctRestore (m p value : Nat)
  /-- WITHDRAW_HEAD (R307). -/
  | withdrawHead (eng q : Nat)
  /-- WITHDRAWAL_LIST_RETIRE (R307). -/
  | withdrawalListRetire (p : Nat)
  /-- ACCT_CLEAR (R328). -/
  | acctClear (m p value : Nat)
  /-- ACCT_DATA_READ (R328). -/
  | acctDataRead (m p : Nat)
  /-- SYNC_DATA_READ (R339). -/
  | syncDataRead (m : Nat)
  /-- SYNC_DATA_WRITE (R339). -/
  | syncDataWrite (m value : Nat)
  /-- SYNC_ADD (R339). -/
  | syncAdd (m value : Nat)
  /-- SYNC_FILL (R340). -/
  | syncFill (m : Nat)
  /-- SYNC_FILL_COMPLETE (R340). -/
  | syncFillComplete
  /-- APERTURE_ADD (R341). -/
  | apertureAdd (port offset : Nat) (a : BusOp)
  /-- APERTURE_SET (R341). -/
  | apertureSet (port offset : Nat) (a : BusOp)
  /-- HOST_WATCH_ARM (R342). -/
  | hostWatchArm (m w value : Nat)
  /-- HOST_WATCH_DISARM (R346). -/
  | hostWatchDisarm (m w value : Nat)
  /-- ADMISSION_POINT (R354). -/
  | admissionPoint
  /-- PEEK_DATA_READ (R361). -/
  | peekDataRead (m p : Nat)
  /-- LANE_BLOCK_LOCK (R370). -/
  | laneBlockLock (port lane seq : Nat)
  /-- LANE_LOCK_LOSS (R370). -/
  | laneLockLoss (port lane : Nat)
  /-- INPUT_SEGMENT (R373). -/
  | inputSegment (port lane : Nat) (seg : SegmentData)
  /-- LINE_SLOT (R376). -/
  | lineSlot (port : Nat)
  /-- LINE_FETCH (R383). -/
  | lineFetch (port : Nat)
  /-- LINE_FETCH_COMPLETE (R385). -/
  | lineFetchComplete (port line : Nat)
  /-- STATIC_COMPARE_COMPLETE (R389). -/
  | staticCompareComplete (port : Nat)
  /-- GENLOCK_PULSE (R534). -/
  | genlockPulse
  /-- GENLOCK_LOSS (R535). -/
  | genlockLoss
  /-- MUTE_REQUEST (R396). -/
  | muteRequest
  /-- MUTE_RELEASE (R396). -/
  | muteRelease
  /-- MUTE_HOLD_EXPIRY (R396). -/
  | muteHoldExpiry
  /-- BINNING_START (R410). -/
  | binningStart (k : Nat)
  /-- BINNING_DEADLINE (R410). -/
  | binningDeadline (k : Nat)
  /-- BIN_ROW_RENDER (R413). -/
  | binRowRender (k row : Nat)
  /-- DOORBELL_WRITE (R426). -/
  | doorbellWrite (port ring tail : Nat) (descs : List HostDesc)
  /-- OUTPUT_BAND_WRITE (R429). -/
  | outputBandWrite (port : Nat)
  /-- INPUT_READ_COMPLETION (R430). -/
  | inputReadCompletion (ring : Nat) (data : List Byte)
  /-- STALL_LIMIT_EXPIRY (R431). -/
  | stallLimitExpiry (x : StalledPort)
  /-- LATE_ABANDON (R431). -/
  | lateAbandon (ring : Nat)
  /-- PCIE_LINK_DOWN (R433). -/
  | pcieLinkDown (port : Nat)
  /-- FUNCTION_LEVEL_RESET (R433). -/
  | functionLevelReset (port : Nat)
  /-- PCIE_FLIT_RETRY (R424). -/
  | pcieFlitRetry (port : Nat)
  /-- NMT_RESET_NODE (R436). -/
  | nmtResetNode
  /-- NMT_RESET_COMMUNICATION (R436). -/
  | nmtResetCommunication
  /-- NMT_START (R436). -/
  | nmtStart
  /-- NMT_STOP (R436). -/
  | nmtStop
  /-- NMT_PRE_OPERATIONAL (R436). -/
  | nmtPreOperational
  /-- USDO_DOWNLOAD (R454). -/
  | usdoDownload (index sub : Nat) (data : List Byte)
  /-- USDO_UPLOAD (R454). -/
  | usdoUpload (index sub : Nat) (len : Option Nat)
  /-- SYNC_MESSAGE (R436). -/
  | syncMessage (cobId : Nat)
  /-- TPDO_EVENT_TIMER (R436). -/
  | tpdoEventTimer (t : Nat)
  /-- HEARTBEAT_TIMER (R436). -/
  | heartbeatTimer
  /-- I2C_START (R439). -/
  | i2cStart (m : Nat)
  /-- I2C_TRANSACTION_COMPLETE (R439). -/
  | i2cTransactionComplete (result : Nat) (data : List Byte)
  /-- I2C_STRETCH_TIMEOUT (R439). -/
  | i2cStretchTimeout
  /-- I2C_DATA_ACCESS (R444). -/
  | i2cDataAccess (m : Nat) (wr : Option Nat)
  /-- PIN_FUNCTION_SWITCH (R441). -/
  | pinFunctionSwitch (m land value : Nat)
  /-- PPS_EDGE (R540). -/
  | ppsEdge
  /-- PPS_LOSS (R540). -/
  | ppsLoss
  /-- LOW_HALF_WRITE (R460). -/
  | lowHalfWrite (m index sub value : Nat)
  /-- HIGH_HALF_WRITE (R460). -/
  | highHalfWrite (m index sub value : Nat)
  /-- LOW_HALF_READ (R459). -/
  | lowHalfRead (m index sub : Nat)
  /-- ABSENT_ACCESS (R447). -/
  | absentAccess (m index sub : Nat) (wr : Option Nat)
  /-- OBJECT_WRITE (R451, R453): a word to object `x`:`y`, or a PCIe access at offset `y` of BAR `x`. -/
  | objectWrite (m x y : Nat) (a : ObjAccess)
  /-- COMPAT_DATA_READ (R471). -/
  | compatDataRead (m : Nat)
  /-- FW_DATA_ACCESS (R495). -/
  | fwDataAccess (m : Nat) (wr : Option Nat)
  /-- START_RILL (R480). -/
  | startRill (m : Nat)
  /-- RILL_IMAGE_READ_COMPLETE (R480). -/
  | rillImageReadComplete
  /-- STOP_RILL (R482). -/
  | stopRill (m : Nat)
  /-- PROGRAM_BLOCK (R492). -/
  | programBlock (m : Nat)
  /-- COPY_FROM_HOST (R492). -/
  | copyFromHost (m : Nat) (data : Option (List Byte))
  /-- ACTIVATE (R493). -/
  | activate (m : Nat)
  /-- VERIFY (R493). -/
  | verify (m : Nat)
  /-- FLASH_COMMAND_COMPLETE (R621). -/
  | flashCommandComplete (same : Bool)
  /-- RILL_KICK (R483). -/
  | rillKick (m value : Nat)
  /-- RILL_WATCHDOG_EXPIRY (R483). -/
  | rillWatchdogExpiry
  /-- RILL_EXCEPTION (R483). -/
  | rillException
  /-- PASSTHRU_START (R488). -/
  | passthruStart (m j : Nat)
  /-- PASSTHRU_STOP (R488). -/
  | passthruStop (m j : Nat)
  /-- SENSOR_SAMPLE (R511). -/
  | sensorSample (readings : List (Option Int))
  /-- TRIP_CLOCK_STOP (R515). -/
  | tripClockStop
  /-- HUB_TRIP_CLOCK_STOP (R517). -/
  | hubTripClockStop
  /-- LOCKSTEP_MISMATCH (R584). -/
  | lockstepMismatch
  /-- TILE_FAULT (R581). -/
  | tileFault (site : Nat) (compute : Bool)
  /-- TILE_MOVE_COMPLETE (R581). -/
  | tileMoveComplete (site : Nat)
  /-- UNCORRECTABLE_SRAM_ERROR (R575). -/
  | uncorrectableSramError (kind address unit : Nat)
  /-- SRAM_SCRUB (R574). -/
  | sramScrub (kind unit : Nat) (corrected : Bool)
  /-- MOTION_ENGINE_FAULT (R583). -/
  | motionEngineFault (engine : Nat)
  /-- RECORD_APPEND (R592). -/
  | recordAppend
  /-- MIRROR_PROGRAM (R595). -/
  | mirrorProgram (same : Bool)
  /-- MIRROR_REGION_ERASE_COMPLETE (R596). -/
  | mirrorRegionEraseComplete (region : Nat)
  /-- ALMANAC_DATA_READ (R597). -/
  | almanacDataRead (m : Nat)
  /-- FREEZE (R598). -/
  | freeze (m : Nat)
  /-- THAW (R598). -/
  | thaw (m : Nat)
  /-- CLEAR_CIRCULATING (R598). -/
  | clearCirculating (m : Nat)
  /-- CLEAR_PERMANENT (R598). -/
  | clearPermanent (m : Nat)
  /-- PERF_SAMPLE (R614). -/
  | perfSample (m : Nat)
  /-- PERF_CLEAR (R614). -/
  | perfClear (m : Nat)
  /-- PERF_EVENT_WRITE (R613). -/
  | perfEventWrite (m c value : Nat)
  /-- INPUT_SLOT_GRID_FRAME_START (R380). -/
  | inputSlotGridFrameStart (port : Nat)
  /-- PCIE_LINK_UP (R433). -/
  | pcieLinkUp (port width speed : Nat)
  /-- COMPLETION_TIMEOUT (R430). -/
  | completionTimeout (kind unit : Nat)
  /-- MSIX_VECTOR_UNMASK (R346). -/
  | msixVectorUnmask (port vector : Nat)
  /-- PCIE_POWER_STATE_WRITE (R424). -/
  | pciePowerStateWrite (port : Nat) (d3 : Bool)
  /-- CAN_BUS_ERROR (R444). -/
  | canBusError (tec rec : Nat) (busOff : Bool)
  /-- WEIR_RESTART_COMPLETE (R584). -/
  | weirRestartComplete
  /-- COMPUTE_DIE_FAULT (R571). -/
  | computeDieFault (die : Nat)
  /-- HUB_PLL_LOCK_LOSS (R531). -/
  | hubPllLockLoss
deriving DecidableEq, Repr

end Sys2Proof
end

