-- ==== Sys2Proof/Config.lean ====
section
/-!
DEFINITION. What the spec leaves open: constants with no body, of which nothing can be proved but that they are functions of their arguments.
-/

namespace Sys2Proof

/-- The `n`-th free value, of `w` bits. -/
opaque Config.freeBits (w n : Nat) : BitVec w

/-- The bytes of a page whose contents the spec leaves undefined, by the page's token and the offset (R90, R107, R205; DESIGN CHOICE, log entry 2). -/
opaque Config.freeByte (token offset : Nat) : Byte

/-- Byte offset in the region of partition p at which buffer b of the source ring of stream k starts (R272, R274 give no place; DESIGN CHOICE, log entry 6). -/
opaque Config.ringOffset (k b : Nat) : Nat

/-- The FP32 result of a piecewise-linear table at x = α when the FP32 value of 256 / (β − α) is infinite, for which R127 states none (DESIGN CHOICE, log entry 10). -/
opaque Config.tableEdge (alpha beta : Word) : Word

/-- A butterfly of a transform (R115): the positions that it reads and then writes, and for each position written the exponents of the root of unity by which it weighs what it read. -/
structure Butterfly where
  at_ : List Nat
  exps : List (List Nat)
deriving DecidableEq, Repr

/-- The butterflies of the transform of a block of 2^lx columns and 2^ly lines, forward or inverse, in the order in which they run, and the position at which each result then stands. R115 gives every butterfly's rounding and the twiddle factors and not the butterflies' order (DESIGN CHOICE, log entry 11). The model uses the order only where it computes the transform (`netOk`). -/
opaque Config.butterflies (inverse : Bool) (lx ly : Nat) : List Butterfly × List Nat

/-- The INT32 that pads a pooling input of code 0x8 and integer kind in constant mode, by the pad value: R104 gives none for that format (DESIGN CHOICE, log entry 91). -/
opaque Config.padInt32 (padValue : Nat) : Word

/-- Whether a 4:4:4 picture of full range counts as R, G, B when a rim engine sharpens it: R142 and R148 let the range field say, and 0 says neither (DESIGN CHOICE, log entry 12). -/
opaque Config.fullRangeRgb : Bool

/-- Whether the tokens of the history table at an offset of a partition's region have 16 bits: R217 has no field for it, and expansion needs it (DESIGN CHOICE, log entry 13). -/
opaque Config.wideTokens (part offset : Nat) : Bool

end Sys2Proof
end

