-- ==== Sys2Proof/Machine/Bits.lean ====
section
/-!
DEFINITION. Bit fields of numbers (R6), two's complement, little-endian bytes (R7), and the CRC-32C of R178.
-/

namespace Sys2Proof.Machine

/-- Field [msb:lsb] of a value (R6). -/
def bits (v msb lsb : Nat) : Nat := (v / 2 ^ lsb) % 2 ^ (msb + 1 - lsb)

/-- Bit [n] of a value (R6). -/
def bit (v n : Nat) : Bool := (v / 2 ^ n) % 2 == 1

/-- The value with field [msb:lsb] replaced by `x` (R6). -/
def setBits (v msb lsb x : Nat) : Nat :=
  v - (bits v msb lsb) * 2 ^ lsb + (x % 2 ^ (msb + 1 - lsb)) * 2 ^ lsb

/-- The value with bit [n] replaced. -/
def setBit (v n : Nat) (b : Bool) : Nat := setBits v n n (if b then 1 else 0)

/-- A Bool as a one-bit number. -/
def b2n (b : Bool) : Nat := if b then 1 else 0

/-- Two's-complement reading of the low `w` bits. -/
def toSigned (w v : Nat) : Int :=
  let u := v % 2 ^ w
  if u < 2 ^ (w - 1) then (u : Int) else (u : Int) - (2 ^ w : Nat)

/-- Two's-complement encoding in `w` bits (modulo 2^w). -/
def ofSigned (w : Nat) (x : Int) : Nat := (x % ((2 ^ w : Nat) : Int)).toNat

/-- Ceiling of a / b. -/
def ceilDiv (a b : Nat) : Nat := (a + b - 1) / b

/-- The number of set bits among bits 0 to n-1. -/
def popcount (v : Nat) : Nat → Nat
  | 0 => 0
  | n + 1 => popcount v n + b2n (bit v n)

/-- The set bits among bits 0 to n-1, ascending. -/
def bitsSet (v : Nat) (n : Nat) : List Nat := (List.range n).filter fun i => bit v i

/-- Sum of a list of numbers. -/
def sumNat (l : List Nat) : Nat := l.foldl (· + ·) 0

/-- The little-endian number of a list of bytes (R7). -/
def leNat : List Byte → Nat
  | [] => 0
  | b :: bs => b.toNat + 256 * leNat bs

/-- The `n` little-endian bytes of a number (R7). -/
def leBytes : Nat → Nat → List Byte
  | 0, _ => []
  | n + 1, v => BitVec.ofNat 8 (v % 256) :: leBytes n (v / 256)

/-- One bit step of the reflected CRC-32C register (R178). -/
def crcStep (c : Nat) : Nat := if c % 2 = 1 then (c / 2) ^^^ 0x82F63B78 else c / 2

/-- The register after one byte (R178). -/
def crcByte (c : Nat) (b : Byte) : Nat :=
  crcStep (crcStep (crcStep (crcStep (crcStep (crcStep (crcStep (crcStep (c ^^^ b.toNat))))))))

/-- CRC-32C of a byte string: reflected, initial and final 0xFFFFFFFF (R178). -/
def crc32c (bs : List Byte) : Nat := (bs.foldl crcByte 0xFFFFFFFF) ^^^ 0xFFFFFFFF

/-- The text of `n` consecutive bytes read by `rd` from address `a`. -/
def readBytes (rd : Nat → Byte) (a : Nat) : Nat → List Byte
  | 0 => []
  | n + 1 => rd a :: readBytes rd (a + 1) n

/-- A little-endian number of `n` bytes read by `rd` from address `a`. -/
def readNat (rd : Nat → Byte) (a n : Nat) : Nat := leNat (readBytes rd a n)

end Sys2Proof.Machine
end

