-- ==== Sys2Proof/Machine/Dict.lean ====
section
/-!
DEFINITION. The object dictionary's tables: every object of the chapters' object tables, with its index, subindex, width, access and default (R15, R446 to R449, R467 and the tables cited at each function).
An object's key is index × 256 + subindex; a 64-bit pair is kept under its low subindex (R458). A default that the spec gives as "fuse" is 0 here (R16).
-/

namespace Sys2Proof.Machine

/-- Access codes (R15). -/
inductive Acc where
  | ro
  | rw
  | w1c
  | wo
deriving DecidableEq, Repr

/-- One row of an object table: subindices `sub`, `sub + step`, … (`count` of them), its width in bits, access and default. -/
structure DictRow where
  sub : Nat
  count : Nat
  step : Nat
  width : Nat
  acc : Acc
  dflt : Nat
  /-- A BOOLEAN or INTEGER32 has its own USDO range rule (R448). -/
  isBool : Bool
deriving DecidableEq, Repr

/-- One function: its instances `first` to `first + count - 1` at index `base + step × instance`. -/
structure DictFn where
  base : Nat
  step : Nat
  first : Nat
  count : Nat
  rows : List DictRow
deriving DecidableEq, Repr

/-- A table row of width `w` at subindex `s`. -/
def dRow (s w : Nat) (a : Acc) (d : Nat) : DictRow :=
  { sub := s, count := 1, step := 1, width := w, acc := a, dflt := d, isBool := false }

/-- A BOOLEAN row. -/
def dBool (s : Nat) (a : Acc) (d : Nat) : DictRow :=
  { sub := s, count := 1, step := 1, width := 1, acc := a, dflt := d, isBool := true }

/-- A row of `c` subindices spaced by `st`. -/
def dArr (s c st w : Nat) (a : Acc) (d : Nat) : DictRow :=
  { sub := s, count := c, step := st, width := w, acc := a, dflt := d, isBool := false }

/-- Index 0x2C00: 02_number_formats.md R58. -/
def fn2C00 : DictFn :=
  { base := 0x2C00, step := 1, first := 0, count := 1, rows := [
    dBool 0x01 .rw 0,
    dBool 0x02 .rw 1,
    dRow 0x03 32 .w1c 0x00000000,
    dRow 0x1F 8 .ro 0x00] }

/-- Index 0x2900: 03_tensor_tile.md R93. -/
def fn2900 : DictFn :=
  { base := 0x2900, step := 1, first := 0, count := 32, rows := [
    dRow 0x01 8 .ro 0x00,
    dRow 0x02 8 .ro 0,
    dRow 0x03 8 .ro 0,
    dArr 0x04 4 1 16 .rw 0x0000,
    dArr 0x08 4 1 32 .ro 0x00000000,
    dArr 0x0C 4 1 16 .rw 0x0000,
    dRow 0x10 64 .rw 0x0000000000000000,
    dRow 0x12 16 .rw 0x0000,
    dRow 0x13 8 .rw 0x00,
    dRow 0x14 32 .ro 0x00000030,
    dRow 0x15 32 .rw 0x00000000,
    dRow 0x16 32 .rw 0x00000000,
    dRow 0x17 32 .ro 0x00000000,
    dRow 0x1F 8 .ro 0x00,
    dRow 0x20 8 .rw 0x08,
    dRow 0x21 8 .rw 0x04,
    dRow 0x22 8 .rw 0x04] }

/-- Index 0x29C0: 05_vector_and_rim_engines.md R154. -/
def fn29C0 : DictFn :=
  { base := 0x29C0, step := 1, first := 0, count := 4, rows := [
    dRow 0x01 8 .ro 0x00,
    dRow 0x02 8 .ro 0,
    dArr 0x04 4 1 16 .rw 0x0000,
    dArr 0x08 4 1 32 .ro 0x00000000,
    dArr 0x0C 4 1 16 .rw 0x0000,
    dRow 0x10 32 .ro 0x00000000,
    dRow 0x11 32 .rw 0x00000000,
    dRow 0x12 32 .rw 0x00000000,
    dRow 0x13 32 .ro 0x00000000,
    dRow 0x1F 8 .ro 0x00,
    dRow 0x20 8 .rw 0x08] }

/-- Index 0x2980: 06_spatial_pipelines.md R191. -/
def fn2980 : DictFn :=
  { base := 0x2980, step := 1, first := 0, count := 1, rows := [
    dRow 0x01 8 .ro 0,
    dRow 0x02 8 .ro 0x20,
    dRow 0x03 32 .ro 0x00000000,
    dRow 0x04 8 .rw 0x00,
    dRow 0x05 8 .rw 0x00,
    dRow 0x06 8 .wo 0x00,
    dRow 0x07 32 .ro 0xFEFFFF80,
    dRow 0x08 32 .ro 0x00000000,
    dRow 0x09 64 .ro 0x0000000000000000,
    dRow 0x1F 8 .ro 0x00,
    dRow 0x20 8 .rw 0x00,
    dRow 0x21 8 .rw 0x09] }

/-- Index 0x2A00: 07_cistern.md R236. -/
def fn2A00 : DictFn :=
  { base := 0x2A00, step := 1, first := 0, count := 1, rows := [
    dRow 0x01 8 .ro 0x00,
    dRow 0x02 8 .ro 0,
    dRow 0x03 32 .ro 0x00000000,
    dRow 0x04 32 .ro 0x00000000,
    dRow 0x05 32 .ro 0x00000000,
    dRow 0x06 32 .ro 0x00000000,
    dRow 0x07 32 .rw 0x00005000,
    dRow 0x08 8 .rw 0x00,
    dRow 0x09 32 .rw 0x00000000,
    dRow 0x0A 32 .rw 0x00000000,
    dRow 0x0B 8 .rw 0x00,
    dRow 0x0C 8 .wo 0x00,
    dRow 0x0D 32 .ro 0xFE000000,
    dRow 0x0E 8 .wo 0x00,
    dRow 0x0F 32 .ro 0x00000000,
    dRow 0x1F 8 .ro 0x00,
    dRow 0x20 8 .rw 0x01,
    dRow 0x21 64 .rw 0x00006E0331D50000] }

/-- Index 0x2A10: 07_cistern.md R238. -/
def fn2A10 : DictFn :=
  { base := 0x2A10, step := 1, first := 0, count := 4, rows := [
    dRow 0x01 8 .ro 0x00,
    dRow 0x02 8 .ro 0,
    dArr 0x04 4 1 16 .rw 0x0000,
    dArr 0x08 4 1 32 .ro 0x00000000,
    dArr 0x0C 4 1 16 .rw 0x0000,
    dRow 0x10 32 .rw 0x00000000,
    dRow 0x11 32 .rw 0x00000000,
    dRow 0x12 32 .ro 0x00000000,
    dRow 0x1F 8 .ro 0x00,
    dRow 0x20 8 .rw 0x10] }

/-- Index 0x2A20: 07_cistern.md R239. -/
def fn2A20 : DictFn :=
  { base := 0x2A20, step := 1, first := 0, count := 16, rows := [
    dRow 0x01 32 .rw 0x00000000,
    dRow 0x02 32 .rw 0x00000000,
    dRow 0x03 8 .rw 0x00,
    dRow 0x04 32 .ro 0x00000000,
    dRow 0x05 32 .ro 0x00000000,
    dRow 0x06 32 .ro 0x00000000,
    dRow 0x07 16 .ro 0x0000,
    dRow 0x1F 8 .ro 0x00] }

/-- Index 0x2800: 08_motion_engines.md R268. -/
def fn2800 : DictFn :=
  { base := 0x2800, step := 1, first := 0, count := 1, rows := [
    dRow 0x01 8 .ro 0,
    dRow 0x02 32 .ro 0x00000000,
    dRow 0x1F 8 .ro 0x00] }

/-- Index 0x2810: 08_motion_engines.md R269. -/
def fn2810 : DictFn :=
  { base := 0x2810, step := 1, first := 0, count := 8, rows := [
    dRow 0x01 8 .ro 0x00,
    dRow 0x02 8 .ro 0,
    dRow 0x03 8 .ro 0x00,
    dArr 0x04 4 1 16 .rw 0x0000,
    dArr 0x08 4 1 32 .ro 0x00000000,
    dArr 0x0C 4 1 16 .rw 0x0000,
    dRow 0x10 32 .ro 0x00000000,
    dRow 0x11 32 .rw 0x00000000,
    dRow 0x12 32 .rw 0x00000000,
    dRow 0x13 32 .ro 0x00000000,
    dRow 0x14 32 .ro 0x00000000,
    dRow 0x1F 8 .ro 0x00,
    dRow 0x20 8 .rw 0x04] }

/-- Index 0x2B00: 09_frame_generation.md R293. -/
def fn2B00 : DictFn :=
  { base := 0x2B00, step := 1, first := 0, count := 128, rows := [
    dRow 0x01 8 .ro 0x00,
    dRow 0x02 8 .rw 0x00,
    dRow 0x03 8 .rw 0x00,
    dRow 0x04 16 .rw 0x0000,
    dRow 0x05 16 .rw 0x0000,
    dRow 0x06 8 .rw 0x00,
    dRow 0x07 8 .rw 0x08,
    dRow 0x08 16 .rw 0x0000,
    dRow 0x09 16 .rw 0x0000,
    dRow 0x0A 8 .rw 0x04,
    dRow 0x0B 16 .rw 0x0000,
    dRow 0x0C 8 .rw 0x01,
    dRow 0x0D 64 .rw 0x0000000000000000,
    dRow 0x0F 8 .wo 0x00,
    dRow 0x10 32 .ro 0xFEFFFFFF,
    dRow 0x11 32 .ro 0x00000000,
    dRow 0x12 32 .ro 0x00000000,
    dRow 0x13 32 .ro 0x00000000,
    dRow 0x14 32 .ro 0x00000000,
    dRow 0x15 32 .ro 0x00000000,
    dRow 0x16 32 .ro 0x00000000,
    dRow 0x17 32 .ro 0x00000000,
    dRow 0x1F 8 .ro 0x00] }

/-- Index 0x3000: 10_partitions_and_scheduling.md R325. -/
def fn3000 : DictFn :=
  { base := 0x3000, step := 16, first := 0, count := 16, rows := [
    dRow 0x01 8 .ro 0x00,
    dRow 0x02 16 .rw 0x0004,
    dRow 0x03 32 .rw 0x00000000,
    dRow 0x04 16 .rw 0x0000,
    dRow 0x05 32 .rw 0x00000000,
    dRow 0x06 8 .rw 0x00,
    dRow 0x07 8 .wo 0x00,
    dRow 0x08 32 .ro 0xFE000000,
    dRow 0x09 32 .ro 0x00000000,
    dRow 0x0A 16 .ro 0x0100,
    dRow 0x0B 8 .ro 0x00,
    dRow 0x1F 8 .ro 0x00] }

/-- Index 0x3001: 10_partitions_and_scheduling.md R327. -/
def fn3001 : DictFn :=
  { base := 0x3001, step := 16, first := 0, count := 16, rows := [
    dRow 0x01 8 .rw 0x00,
    dRow 0x02 16 .rw 0x0000,
    dRow 0x03 8 .rw 0x00,
    dRow 0x04 8 .rw 0x00,
    dRow 0x05 8 .wo 0x00,
    dRow 0x06 32 .ro 0xFE000000,
    dRow 0x07 32 .ro 0x00000000,
    dRow 0x08 32 .ro 0x00000000,
    dRow 0x1F 8 .ro 0x00] }

/-- Index 0x3002: 10_partitions_and_scheduling.md R328. -/
def fn3002 : DictFn :=
  { base := 0x3002, step := 16, first := 0, count := 16, rows := [
    dRow 0x01 32 .rw 0x00000000,
    dRow 0x02 32 .ro 0x00000000,
    dRow 0x03 16 .wo 0x0000,
    dRow 0x04 16 .wo 0x0000,
    dRow 0x05 16 .wo 0x0000,
    dRow 0x06 16 .ro 0x0000,
    dRow 0x07 16 .ro 0x0000,
    dRow 0x1F 8 .ro 0x00] }

/-- Index 0x3100: 10_partitions_and_scheduling.md R329. -/
def fn3100 : DictFn :=
  { base := 0x3100, step := 1, first := 0, count := 1, rows := [
    dRow 0x01 32 .ro 0x00000000,
    dRow 0x02 32 .ro 0x00000000,
    dRow 0x03 16 .ro 0x0000,
    dRow 0x1F 8 .ro 0x00] }

/-- Index 0x3180: 10_partitions_and_scheduling.md R329. -/
def fn3180 : DictFn :=
  { base := 0x3180, step := 1, first := 0, count := 128, rows := [
    dRow 0x01 16 .rw 0x07D0,
    dRow 0x02 32 .ro 0x00000000,
    dRow 0x03 32 .ro 0x00000000,
    dRow 0x04 32 .ro 0x00000000,
    dRow 0x05 32 .ro 0x7FFFFFFF,
    dRow 0x1F 8 .ro 0x00] }

/-- Index 0x4000: 11_sync_objects.md R345. -/
def fn4000 : DictFn :=
  { base := 0x4000, step := 1, first := 0, count := 1, rows := [
    dRow 0x01 32 .rw 0x00000000,
    dRow 0x02 32 .rw 0x00000000,
    dRow 0x03 32 .wo 0x00000000,
    dRow 0x04 32 .rw 0x00000000,
    dRow 0x05 32 .rw 0x00000000,
    dRow 0x06 8 .wo 0x00,
    dRow 0x07 32 .ro 0xFE000000,
    dRow 0x1F 8 .ro 0x00] }

/-- Index 0x4010: 11_sync_objects.md R346. -/
def fn4010 : DictFn :=
  { base := 0x4010, step := 1, first := 0, count := 16, rows := [
    dRow 0x01 16 .rw 0x0000,
    dRow 0x02 32 .rw 0x00000000,
    dRow 0x03 16 .rw 0x0000,
    dRow 0x04 32 .ro 0x00000000,
    dRow 0x1F 8 .ro 0x00] }

/-- Index 0x2C01: 12_determinism.md R365. -/
def fn2C01 : DictFn :=
  { base := 0x2C01, step := 1, first := 0, count := 1, rows := [
    dBool 0x01 .ro 0,
    dRow 0x02 32 .rw 0x00001000,
    dRow 0x03 16 .rw 0x0400,
    dRow 0x04 16 .rw 0x0800,
    dRow 0x05 8 .rw 0x06,
    dRow 0x06 32 .ro 0x00000000,
    dRow 0x1F 8 .ro 0x00] }

/-- Index 0x2C10: 12_determinism.md R366. -/
def fn2C10 : DictFn :=
  { base := 0x2C10, step := 1, first := 0, count := 16, rows := [
    dRow 0x01 64 .rw 0xFFFFFFFFFFFFFFFF,
    dRow 0x03 8 .rw 0x00,
    dRow 0x04 8 .ro 0x00,
    dRow 0x05 64 .rw 0x0000000000000000,
    dRow 0x07 32 .ro 0x00000000,
    dRow 0x1F 8 .ro 0x00] }

/-- Index 0x2500: 13_raster_ports.md R399. -/
def fn2500 : DictFn :=
  { base := 0x2500, step := 16, first := 0, count := 8, rows := [
    dRow 0x01 8 .ro 0x00,
    dRow 0x02 32 .rw 0x00000000,
    dRow 0x03 32 .rw 0x00000000,
    dRow 0x04 16 .ro 0x0000,
    dRow 0x05 32 .ro 0x00000000,
    dRow 0x06 32 .ro 0xFE000000,
    dRow 0x1F 8 .ro 0x00] }

/-- Index 0x2501: 13_raster_ports.md R399. -/
def fn2501 : DictFn :=
  { base := 0x2501, step := 16, first := 0, count := 8, rows := [
    dRow 0x01 16 .rw 0x1000,
    dRow 0x02 32 .ro 0x00000000,
    dRow 0x03 32 .ro 0x00000000,
    dRow 0x04 32 .ro 0x00000000,
    dRow 0x05 32 .ro 0x00000000,
    dRow 0x1F 8 .ro 0x00] }

/-- Index 0x2502: 13_raster_ports.md R399. -/
def fn2502 : DictFn :=
  { base := 0x2502, step := 16, first := 0, count := 8, rows := [
    dRow 0x01 8 .ro 0x00,
    dRow 0x02 8 .ro 0x10,
    dRow 0x03 8 .ro 0x00,
    dRow 0x04 32 .ro 0x00000000,
    dRow 0x1F 8 .ro 0x00,
    dRow 0x20 8 .rw 0x08,
    dRow 0x21 8 .rw 0x04] }

/-- Index 0x2503: 13_raster_ports.md R399. -/
def fn2503 : DictFn :=
  { base := 0x2503, step := 16, first := 0, count := 8, rows := [
    dBool 0x01 .rw 0,
    dBool 0x02 .rw 0,
    dRow 0x03 16 .rw 0x0078,
    dRow 0x04 16 .ro 0x0000,
    dRow 0x05 8 .rw 0x18,
    dRow 0x06 32 .ro 0x00000000,
    dRow 0x07 8 .ro 0x00,
    dRow 0x1F 8 .ro 0x00] }

/-- Index 0x2700: 13_raster_ports.md R401. -/
def fn2700 : DictFn :=
  { base := 0x2700, step := 1, first := 0, count := 1, rows := [
    dRow 0x01 32 .ro 0x00400000,
    dRow 0x02 32 .ro 0x00400000,
    dRow 0x03 8 .rw 0xFF,
    dRow 0x04 16 .rw 0x01F4,
    dRow 0x05 8 .ro 0x00,
    dRow 0x06 32 .ro 0x00000000,
    dRow 0x1F 8 .ro 0x00] }

/-- Index 0x2780: 13_raster_ports.md R401. -/
def fn2780 : DictFn :=
  { base := 0x2780, step := 1, first := 0, count := 128, rows := [
    dRow 0x01 8 .rw 0x00,
    dRow 0x02 16 .rw 0x0000,
    dRow 0x03 8 .ro 0x00,
    dRow 0x04 32 .ro 0x00000000,
    dRow 0x05 32 .ro 0x00000000,
    dRow 0x06 32 .ro 0x00000000,
    dRow 0x1F 8 .ro 0x00] }

/-- Index 0x2600: 14_overlay_rasteriser.md R422. -/
def fn2600 : DictFn :=
  { base := 0x2600, step := 1, first := 0, count := 1, rows := [
    dRow 0x01 8 .ro 0,
    dRow 0x02 32 .ro 0x00000000,
    dRow 0x03 32 .ro 0x00000000,
    dRow 0x1F 8 .ro 0x00] }

/-- Index 0x2610: 14_overlay_rasteriser.md R422. -/
def fn2610 : DictFn :=
  { base := 0x2610, step := 1, first := 0, count := 8, rows := [
    dRow 0x01 8 .ro 0x00,
    dRow 0x02 32 .ro 0x00000000,
    dRow 0x03 8 .ro 0x00,
    dRow 0x1F 8 .ro 0x00] }

/-- Index 0x2680: 14_overlay_rasteriser.md R423. -/
def fn2680 : DictFn :=
  { base := 0x2680, step := 1, first := 0, count := 128, rows := [
    dRow 0x01 8 .rw 0xFF,
    dRow 0x02 32 .rw 0x00000000,
    dRow 0x03 8 .rw 0x01,
    dRow 0x04 16 .rw 0x0FA0,
    dRow 0x05 32 .ro 0x00000000,
    dRow 0x06 32 .ro 0x00000000,
    dRow 0x07 32 .ro 0x00000000,
    dArr 0x08 4 4 32 .rw 0x00000000,
    dArr 0x09 4 4 16 .rw 0x0000,
    dArr 0x0A 4 4 64 .rw 0x0000000000000000,
    dRow 0x1F 8 .ro 0x00] }

/-- Index 0x5100: 15_host_and_field_interfaces.md R444. -/
def fn5100 : DictFn :=
  { base := 0x5100, step := 1, first := 0, count := 2, rows := [
    dRow 0x01 16 .ro 0x0000,
    dRow 0x02 32 .rw 0x000007D0,
    dRow 0x03 32 .ro 0x00000000,
    dRow 0x04 32 .ro 0x00000000,
    dRow 0x1F 8 .ro 0x00] }

/-- Index 0x5102: 15_host_and_field_interfaces.md R444. -/
def fn5102 : DictFn :=
  { base := 0x5102, step := 1, first := 0, count := 1, rows := [
    dRow 0x01 8 .ro 0,
    dRow 0x02 8 .rw 0x22,
    dRow 0x03 32 .ro 0x00000000,
    dRow 0x04 32 .ro 0x00000000,
    dRow 0x1F 8 .ro 0x00] }

/-- Index 0x5103: 15_host_and_field_interfaces.md R444. -/
def fn5103 : DictFn :=
  { base := 0x5103, step := 1, first := 0, count := 1, rows := [
    dRow 0x01 8 .ro 0x00,
    dRow 0x02 32 .ro 0x00000000,
    dRow 0x03 32 .ro 0x00000000,
    dRow 0x1F 8 .ro 0x00] }

/-- Index 0x5104: 15_host_and_field_interfaces.md R444. -/
def fn5104 : DictFn :=
  { base := 0x5104, step := 1, first := 0, count := 1, rows := [
    dRow 0x01 8 .rw 0x00,
    dRow 0x02 8 .rw 0x00,
    dRow 0x03 8 .rw 0x00,
    dRow 0x04 8 .rw 0x01,
    dRow 0x05 8 .rw 0x00,
    dRow 0x06 8 .rw 0x00,
    dRow 0x07 8 .wo 0x00,
    dRow 0x08 8 .ro 0xFE,
    dRow 0x1F 8 .ro 0x00] }

/-- Index 0x5106: 15_host_and_field_interfaces.md R444. -/
def fn5106 : DictFn :=
  { base := 0x5106, step := 1, first := 0, count := 1, rows := [
    dRow 0x01 32 .ro 0x00000000,
    dRow 0x02 32 .rw 0x00000000,
    dRow 0x03 8 .rw 0x00,
    dRow 0x1F 8 .ro 0x00] }

/-- Index 0x5108: 15_host_and_field_interfaces.md R444. -/
def fn5108 : DictFn :=
  { base := 0x5108, step := 1, first := 0, count := 1, rows := [
    dArr 0x01 16 1 8 .rw 0x00,
    dRow 0x1F 8 .ro 0x00] }

/-- Index 0x5109: 15_host_and_field_interfaces.md R444. -/
def fn5109 : DictFn :=
  { base := 0x5109, step := 1, first := 0, count := 1, rows := [
    dArr 0x01 16 1 8 .rw 0x00,
    dRow 0x1F 8 .ro 0x00] }

/-- Index 0x5180: 15_host_and_field_interfaces.md R444. -/
def fn5180 : DictFn :=
  { base := 0x5180, step := 1, first := 0, count := 128, rows := [
    dRow 0x01 8 .ro 0x00,
    dRow 0x02 32 .rw 0x00000000,
    dRow 0x03 64 .rw 0x0000000000000000,
    dRow 0x05 8 .rw 0x04,
    dRow 0x06 32 .rw 0x00000000,
    dRow 0x07 16 .rw 0x0000,
    dRow 0x08 32 .ro 0x00000000,
    dRow 0x09 32 .ro 0x00000000,
    dRow 0x0A 32 .ro 0x00000000,
    dRow 0x0B 32 .ro 0x00000000,
    dRow 0x1F 8 .ro 0x00] }

/-- Index 0x1000: 16_object_dictionary.md R468. -/
def fn1000 : DictFn :=
  { base := 0x1000, step := 1, first := 0, count := 1, rows := [
    dRow 0x00 32 .ro 0] }

/-- Index 0x1001: 16_object_dictionary.md R468. -/
def fn1001 : DictFn :=
  { base := 0x1001, step := 1, first := 0, count := 1, rows := [
    dRow 0x00 8 .ro 0x00] }

/-- Index 0x1003: 16_object_dictionary.md R468. -/
def fn1003 : DictFn :=
  { base := 0x1003, step := 1, first := 0, count := 1, rows := [
    dRow 0x00 8 .rw 0x00,
    dArr 0x01 8 1 32 .ro 0x00000000] }

/-- Index 0x1005: 16_object_dictionary.md R468. -/
def fn1005 : DictFn :=
  { base := 0x1005, step := 1, first := 0, count := 1, rows := [
    dRow 0x00 32 .rw 0x00000080] }

/-- Index 0x1014: 16_object_dictionary.md R468. -/
def fn1014 : DictFn :=
  { base := 0x1014, step := 1, first := 0, count := 1, rows := [
    dRow 0x00 32 .rw 0x80] }

/-- Index 0x1015: 16_object_dictionary.md R468. -/
def fn1015 : DictFn :=
  { base := 0x1015, step := 1, first := 0, count := 1, rows := [
    dRow 0x00 16 .rw 0x0000] }

/-- Index 0x1017: 16_object_dictionary.md R468. -/
def fn1017 : DictFn :=
  { base := 0x1017, step := 1, first := 0, count := 1, rows := [
    dRow 0x00 16 .rw 0x03E8] }

/-- Index 0x1018: 16_object_dictionary.md R468. -/
def fn1018 : DictFn :=
  { base := 0x1018, step := 1, first := 0, count := 1, rows := [
    dRow 0x00 8 .ro 0x04,
    dRow 0x01 32 .ro 0x00000D3B,
    dRow 0x02 32 .ro 0,
    dRow 0x03 32 .ro 0,
    dRow 0x04 32 .ro 0] }

/-- Index 0x1800: 16_object_dictionary.md R468. -/
def fn1800 : DictFn :=
  { base := 0x1800, step := 1, first := 0, count := 8, rows := [
    dRow 0x01 32 .rw 0x80000180,
    dRow 0x02 8 .rw 0xFE,
    dRow 0x03 16 .rw 0x0000,
    dRow 0x05 16 .rw 0x0000] }

/-- Index 0x1A00: 16_object_dictionary.md R468. -/
def fn1A00 : DictFn :=
  { base := 0x1A00, step := 1, first := 0, count := 8, rows := [
    dRow 0x00 8 .rw 0x00,
    dArr 0x01 16 1 32 .rw 0x00000000] }

/-- Index 0x2000: 16_object_dictionary.md R469. -/
def fn2000 : DictFn :=
  { base := 0x2000, step := 1, first := 0, count := 1, rows := [
    dRow 0x01 32 .ro 0x00000D3B,
    dRow 0x02 32 .ro 0,
    dRow 0x03 8 .ro 0,
    dRow 0x04 16 .ro 0,
    dRow 0x05 64 .ro 0,
    dRow 0x07 32 .ro 0x00000000,
    dRow 0x08 32 .ro 0x00000000,
    dRow 0x09 32 .ro 0x00010000,
    dRow 0x0A 16 .ro 0x0000,
    dRow 0x0B 32 .rw 0x00000000,
    dRow 0x0C 32 .ro 0x00000000,
    dRow 0x0D 8 .ro 0x00,
    dRow 0x0E 32 .ro 0x00000000,
    dRow 0x0F 8 .ro 0xFE,
    dRow 0x10 32 .ro 0x00000000,
    dRow 0x11 32 .ro 0x00000000,
    dRow 0x1F 8 .ro 0x00] }

/-- Index 0x5000: 17_weir_and_rill.md R495. -/
def fn5000 : DictFn :=
  { base := 0x5000, step := 1, first := 0, count := 1, rows := [
    dRow 0x01 8 .ro 0x00,
    dRow 0x02 8 .ro 0x00,
    dRow 0x03 8 .ro 0x00,
    dRow 0x04 32 .ro 0x00000000,
    dRow 0x05 32 .wo 0x00000000,
    dRow 0x06 8 .wo 0x00,
    dRow 0x07 8 .rw 0x00,
    dRow 0x08 16 .rw 0x0000,
    dRow 0x09 32 .rw 0x00000000,
    dRow 0x0A 32 .rw 0x00000000,
    dRow 0x0B 8 .rw 0x00,
    dRow 0x0C 64 .rw 0x0000000000000000,
    dRow 0x0E 32 .rw 0x00000000,
    dRow 0x0F 32 .ro 0xFE000000,
    dRow 0x10 16 .ro 0x0000,
    dRow 0x11 32 .ro 0x00000000,
    dRow 0x1F 8 .ro 0x00,
    dRow 0x20 16 .rw 0x0064,
    dRow 0x21 8 .rw 0x03] }

/-- Index 0x5001: 17_weir_and_rill.md R497. -/
def fn5001 : DictFn :=
  { base := 0x5001, step := 1, first := 0, count := 4, rows := [
    dRow 0x01 8 .ro 0x00,
    dRow 0x02 8 .rw 0x00,
    dRow 0x03 8 .rw 0x00,
    dRow 0x04 8 .rw 0x08,
    dRow 0x05 8 .wo 0x00,
    dRow 0x06 32 .ro 0xFE000000,
    dRow 0x1F 8 .ro 0x00] }

/-- Index 0x5010: 17_weir_and_rill.md R498. -/
def fn5010 : DictFn :=
  { base := 0x5010, step := 1, first := 4, count := 12, rows := [
    dRow 0x01 8 .rw 0x00,
    dRow 0x02 64 .rw 0x0000000000000000,
    dRow 0x04 64 .rw 0x0000000000000000,
    dRow 0x1F 8 .ro 0x00] }

/-- Index 0x2400: 18_package_power_coolant.md R522. -/
def fn2400 : DictFn :=
  { base := 0x2400, step := 1, first := 0, count := 1, rows := [
    dRow 0x01 8 .rw 0x00,
    dRow 0x02 8 .rw 0x00,
    dRow 0x03 8 .rw 0x00,
    dBool 0x04 .rw 0,
    dRow 0x05 8 .ro 0x00,
    dRow 0x06 8 .rw 0x00,
    dRow 0x07 32 .ro 0x00000000,
    dRow 0x08 32 .ro 0x00000000,
    dRow 0x09 32 .ro 0x00000000,
    dRow 0x0A 32 .ro 0x00000000,
    dRow 0x0B 32 .ro 0x00000000,
    dRow 0x0C 32 .ro 0x00000000,
    dRow 0x1F 8 .ro 0x00,
    dRow 0x20 8 .rw 0x64,
    dRow 0x21 8 .rw 0x5F] }

/-- Index 0x2200: 19_clocks_and_reset_alignment.md R546. -/
def fn2200 : DictFn :=
  { base := 0x2200, step := 1, first := 0, count := 1, rows := [
    dRow 0x01 64 .ro 0x0000000000000000,
    dBool 0x03 .rw 0,
    dRow 0x04 32 .ro 0x00000000,
    dRow 0x05 8 .ro 0x00,
    dRow 0x06 32 .ro 0xFE000000,
    dRow 0x07 64 .ro 0x0000000000000000,
    dRow 0x09 16 .ro 0x0000,
    dRow 0x0A 16 .ro 0x0000,
    dRow 0x1F 8 .ro 0x00,
    dRow 0x20 16 .rw 0x0064] }

/-- Index 0x2201: 19_clocks_and_reset_alignment.md R548. -/
def fn2201 : DictFn :=
  { base := 0x2201, step := 1, first := 0, count := 1, rows := [
    dRow 0x01 64 .rw 0x0000000000000000,
    dBool 0x03 .rw 0,
    dRow 0x04 32 .rw 0x00000000,
    dRow 0x05 8 .ro 0x00,
    dRow 0x06 32 .ro 0x00000000,
    dRow 0x07 32 .ro 0x00000000,
    dRow 0x08 32 .ro 0x00000000,
    dRow 0x09 32 .ro 0x00000000,
    dRow 0x1F 8 .ro 0x00,
    dRow 0x20 16 .rw 0x01F4] }

/-- Index 0x2210: 19_clocks_and_reset_alignment.md R549. -/
def fn2210 : DictFn :=
  { base := 0x2210, step := 1, first := 0, count := 16, rows := [
    dRow 0x01 64 .rw 0x0000000000000000,
    dRow 0x03 64 .ro 0x0000000000000000,
    dRow 0x05 64 .ro 0x0000000000000000,
    dRow 0x07 64 .rw 0x0000000000000000,
    dRow 0x1F 8 .ro 0x00] }

/-- Index 0x2100: 20_bring_up.md R568. -/
def fn2100 : DictFn :=
  { base := 0x2100, step := 1, first := 0, count := 1, rows := [
    dRow 0x01 8 .ro 0x01,
    dRow 0x02 8 .ro 0x00,
    dRow 0x03 32 .ro 0x00000000,
    dRow 0x1F 8 .ro 0x00] }

/-- Index 0x2100: 20_bring_up.md R568. -/
def fn2100i : DictFn :=
  { base := 0x2100, step := 1, first := 1, count := 10, rows := [
    dRow 0x01 32 .ro 0xFDFF0000,
    dRow 0x02 8 .wo 0x00,
    dRow 0x03 32 .ro 0x00000000,
    dRow 0x1F 8 .ro 0x00] }

/-- Index 0x2300: 20_bring_up.md R569. -/
def fn2300 : DictFn :=
  { base := 0x2300, step := 1, first := 0, count := 1, rows := [
    dRow 0x01 16 .ro 0,
    dRow 0x02 16 .ro 0,
    dRow 0x03 16 .rw 0x0000,
    dRow 0x04 32 .rw 0x00000000,
    dRow 0x05 32 .rw 0x00000000,
    dRow 0x06 32 .ro 0x00000000,
    dRow 0x07 8 .ro 0x00,
    dRow 0x08 8 .ro 0x00,
    dRow 0x09 32 .ro 0x00000000,
    dRow 0x1F 8 .ro 0x00,
    dRow 0x20 16 .rw 0x0010,
    dRow 0x21 16 .rw 0x0040,
    dRow 0x22 16 .rw 0x0100] }

/-- Index 0x4800: 22_almanac.md R604. -/
def fn4800 : DictFn :=
  { base := 0x4800, step := 1, first := 0, count := 1, rows := [
    dRow 0x01 32 .rw 0x00000000,
    dRow 0x02 32 .ro 0x00000000,
    dRow 0x03 8 .wo 0x00,
    dRow 0x04 16 .ro 0x0000,
    dRow 0x05 16 .ro 0x0000,
    dRow 0x06 16 .ro 0x0000,
    dRow 0x07 16 .ro 0x1000,
    dRow 0x08 32 .ro 0x00000000,
    dRow 0x09 32 .ro 0x00000000,
    dRow 0x0A 32 .ro 0x00000000,
    dRow 0x0B 32 .ro 0x00000000,
    dRow 0x0C 8 .ro 0x00,
    dRow 0x0D 16 .ro 0x0000,
    dRow 0x0E 8 .rw 0x00,
    dRow 0x1F 8 .ro 0x00] }

/-- Index 0x4A00: 23_long_run_behaviour.md R617. -/
def fn4A00 : DictFn :=
  { base := 0x4A00, step := 1, first := 0, count := 1, rows := [
    dArr 0x01 16 1 32 .ro 0x00000000,
    dRow 0x11 8 .ro 0x40,
    dRow 0x12 8 .wo 0x00,
    dRow 0x13 64 .ro 0x0000000000000000,
    dRow 0x1F 8 .ro 0x00] }

/-- Index 0x4A40: 23_long_run_behaviour.md R618. -/
def fn4A40 : DictFn :=
  { base := 0x4A40, step := 1, first := 0, count := 64, rows := [
    dRow 0x01 16 .rw 0x0000,
    dRow 0x02 64 .rw 0x0000000000000000,
    dRow 0x04 64 .ro 0x0000000000000000,
    dRow 0x1F 8 .ro 0x00] }

/-- Every function of the manufacturer area and the communication area (R467, R468). -/
def dictFns : List DictFn :=
  [fn2C00, fn2900, fn29C0, fn2980, fn2A00, fn2A10, fn2A20, fn2800, fn2810, fn2B00] ++
  [fn3000, fn3001, fn3002, fn3100, fn3180, fn4000, fn4010, fn2C01, fn2C10, fn2500] ++
  [fn2501, fn2502, fn2503, fn2700, fn2780, fn2600, fn2610, fn2680, fn5100, fn5102] ++
  [fn5103, fn5104, fn5106, fn5108, fn5109, fn5180, fn1000, fn1001, fn1003, fn1005] ++
  [fn1014, fn1015, fn1017, fn1018, fn1800, fn1A00, fn2000, fn5000, fn5001, fn5010] ++
  [fn2400, fn2200, fn2201, fn2210, fn2100, fn2100i, fn2300, fn4800, fn4A00, fn4A40]

/-- numfmt.det (R58). -/
def oNumfmtDet : Nat := 0x2C00 * 256 + 0x01
/-- numfmt.stochastic_enable (R58). -/
def oNumfmtStochasticEnable : Nat := 0x2C00 * 256 + 0x02
/-- numfmt.flags (R58). -/
def oNumfmtFlags : Nat := 0x2C00 * 256 + 0x03
/-- numfmt.mode (R58). -/
def oNumfmtMode : Nat := 0x2C00 * 256 + 0x1F
/-- tile[n].state (R93). -/
def oTileState (i : Nat) : Nat := (0x2900 + i) * 256 + 0x01
/-- tile[n].physical (R93). -/
def oTilePhysical (i : Nat) : Nat := (0x2900 + i) * 256 + 0x02
/-- tile[n].fold (R93). -/
def oTileFold (i : Nat) : Nat := (0x2900 + i) * 256 + 0x03
/-- tile[n].queue[q].binding (R93). -/
def oTileQueueBinding (i q : Nat) : Nat := (0x2900 + i) * 256 + (0x04 + q)
/-- tile[n].queue[q].pointers (R93). -/
def oTileQueuePointers (i q : Nat) : Nat := (0x2900 + i) * 256 + (0x08 + q)
/-- tile[n].queue[q].tail (R93). -/
def oTileQueueTail (i q : Nat) : Nat := (0x2900 + i) * 256 + (0x0C + q)
/-- tile[n].bank_owner (R93). -/
def oTileBankOwner (i : Nat) : Nat := (0x2900 + i) * 256 + 0x10
/-- tile[n].bank_valid (R93). -/
def oTileBankValid (i : Nat) : Nat := (0x2900 + i) * 256 + 0x12
/-- tile[n].book_select (R93). -/
def oTileBookSelect (i : Nat) : Nat := (0x2900 + i) * 256 + 0x13
/-- tile[n].book (R93). -/
def oTileBook (i : Nat) : Nat := (0x2900 + i) * 256 + 0x14
/-- tile[n].cmd_cursor (R93). -/
def oTileCmdCursor (i : Nat) : Nat := (0x2900 + i) * 256 + 0x15
/-- tile[n].cmd_data (R93). -/
def oTileCmdData (i : Nat) : Nat := (0x2900 + i) * 256 + 0x16
/-- tile[n].last_refusal (R93). -/
def oTileLastRefusal (i : Nat) : Nat := (0x2900 + i) * 256 + 0x17
/-- tile[n].mode (R93). -/
def oTileMode (i : Nat) : Nat := (0x2900 + i) * 256 + 0x1F
/-- tile[n].vector_bank_slots (R93). -/
def oTileVectorBankSlots (i : Nat) : Nat := (0x2900 + i) * 256 + 0x20
/-- tile[n].transform_bank_slots (R93). -/
def oTileTransformBankSlots (i : Nat) : Nat := (0x2900 + i) * 256 + 0x21
/-- tile[n].network_bank_slots (R93). -/
def oTileNetworkBankSlots (i : Nat) : Nat := (0x2900 + i) * 256 + 0x22
/-- rim[e].state (R154). -/
def oRimState (i : Nat) : Nat := (0x29C0 + i) * 256 + 0x01
/-- rim[e].die (R154). -/
def oRimDie (i : Nat) : Nat := (0x29C0 + i) * 256 + 0x02
/-- rim[e].queue[q].binding (R154). -/
def oRimQueueBinding (i q : Nat) : Nat := (0x29C0 + i) * 256 + (0x04 + q)
/-- rim[e].queue[q].pointers (R154). -/
def oRimQueuePointers (i q : Nat) : Nat := (0x29C0 + i) * 256 + (0x08 + q)
/-- rim[e].queue[q].tail (R154). -/
def oRimQueueTail (i q : Nat) : Nat := (0x29C0 + i) * 256 + (0x0C + q)
/-- rim[e].fallback.pointers (R154). -/
def oRimFallbackPointers (i : Nat) : Nat := (0x29C0 + i) * 256 + 0x10
/-- rim[e].cmd_cursor (R154). -/
def oRimCmdCursor (i : Nat) : Nat := (0x29C0 + i) * 256 + 0x11
/-- rim[e].cmd_data (R154). -/
def oRimCmdData (i : Nat) : Nat := (0x29C0 + i) * 256 + 0x12
/-- rim[e].last_refusal (R154). -/
def oRimLastRefusal (i : Nat) : Nat := (0x29C0 + i) * 256 + 0x13
/-- rim[e].mode (R154). -/
def oRimMode (i : Nat) : Nat := (0x29C0 + i) * 256 + 0x1F
/-- rim[e].read_share (R154). -/
def oRimReadShare (i : Nat) : Nat := (0x29C0 + i) * 256 + 0x20
/-- fabric.physical_tiles (R191). -/
def oFabricPhysicalTiles : Nat := 0x2980 * 256 + 0x01
/-- fabric.logical_tiles (R191). -/
def oFabricLogicalTiles : Nat := 0x2980 * 256 + 0x02
/-- fabric.links (R191). -/
def oFabricLinks : Nat := 0x2980 * 256 + 0x03
/-- fabric.load_partition (R191). -/
def oFabricLoadPartition : Nat := 0x2980 * 256 + 0x04
/-- fabric.load_slot (R191). -/
def oFabricLoadSlot : Nat := 0x2980 * 256 + 0x05
/-- fabric.load_command (R191). -/
def oFabricLoadCommand : Nat := 0x2980 * 256 + 0x06
/-- fabric.load_status (R191). -/
def oFabricLoadStatus : Nat := 0x2980 * 256 + 0x07
/-- fabric.load_progress (R191). -/
def oFabricLoadProgress : Nat := 0x2980 * 256 + 0x08
/-- fabric.load_image_id (R191). -/
def oFabricLoadImageId : Nat := 0x2980 * 256 + 0x09
/-- fabric.mode (R191). -/
def oFabricMode : Nat := 0x2980 * 256 + 0x1F
/-- fabric.diag_route (R191). -/
def oFabricDiagRoute : Nat := 0x2980 * 256 + 0x20
/-- fabric.load_rate (R191). -/
def oFabricLoadRate : Nat := 0x2980 * 256 + 0x21
/-- cistern.state (R236). -/
def oCisternState : Nat := 0x2A00 * 256 + 0x01
/-- cistern.stacks (R236). -/
def oCisternStacks : Nat := 0x2A00 * 256 + 0x02
/-- cistern.stack_state (R236). -/
def oCisternStackState : Nat := 0x2A00 * 256 + 0x03
/-- cistern.allocatable (R236). -/
def oCisternAllocatable : Nat := 0x2A00 * 256 + 0x04
/-- cistern.free (R236). -/
def oCisternFree : Nat := 0x2A00 * 256 + 0x05
/-- cistern.reserved_total (R236). -/
def oCisternReservedTotal : Nat := 0x2A00 * 256 + 0x06
/-- cistern.fallback_margin (R236). -/
def oCisternFallbackMargin : Nat := 0x2A00 * 256 + 0x07
/-- cistern.migrate_partition (R236). -/
def oCisternMigratePartition : Nat := 0x2A00 * 256 + 0x08
/-- cistern.migrate_first (R236). -/
def oCisternMigrateFirst : Nat := 0x2A00 * 256 + 0x09
/-- cistern.migrate_count (R236). -/
def oCisternMigrateCount : Nat := 0x2A00 * 256 + 0x0A
/-- cistern.migrate_target (R236). -/
def oCisternMigrateTarget : Nat := 0x2A00 * 256 + 0x0B
/-- cistern.migrate_command (R236). -/
def oCisternMigrateCommand : Nat := 0x2A00 * 256 + 0x0C
/-- cistern.migrate_status (R236). -/
def oCisternMigrateStatus : Nat := 0x2A00 * 256 + 0x0D
/-- cistern.retire_stack (R236). -/
def oCisternRetireStack : Nat := 0x2A00 * 256 + 0x0E
/-- cistern.last_error (R236). -/
def oCisternLastError : Nat := 0x2A00 * 256 + 0x0F
/-- cistern.mode (R236). -/
def oCisternMode : Nat := 0x2A00 * 256 + 0x1F
/-- cistern.rebuild_share (R236). -/
def oCisternRebuildShare : Nat := 0x2A00 * 256 + 0x20
/-- cistern.scrub_period (R236). -/
def oCisternScrubPeriod : Nat := 0x2A00 * 256 + 0x21
/-- gather[g].state (R238). -/
def oGatherState (i : Nat) : Nat := (0x2A10 + i) * 256 + 0x01
/-- gather[g].die (R238). -/
def oGatherDie (i : Nat) : Nat := (0x2A10 + i) * 256 + 0x02
/-- gather[g].queue[q].binding (R238). -/
def oGatherQueueBinding (i q : Nat) : Nat := (0x2A10 + i) * 256 + (0x04 + q)
/-- gather[g].queue[q].pointers (R238). -/
def oGatherQueuePointers (i q : Nat) : Nat := (0x2A10 + i) * 256 + (0x08 + q)
/-- gather[g].queue[q].tail (R238). -/
def oGatherQueueTail (i q : Nat) : Nat := (0x2A10 + i) * 256 + (0x0C + q)
/-- gather[g].cmd_cursor (R238). -/
def oGatherCmdCursor (i : Nat) : Nat := (0x2A10 + i) * 256 + 0x10
/-- gather[g].cmd_data (R238). -/
def oGatherCmdData (i : Nat) : Nat := (0x2A10 + i) * 256 + 0x11
/-- gather[g].last_refusal (R238). -/
def oGatherLastRefusal (i : Nat) : Nat := (0x2A10 + i) * 256 + 0x12
/-- gather[g].mode (R238). -/
def oGatherMode (i : Nat) : Nat := (0x2A10 + i) * 256 + 0x1F
/-- gather[g].read_share (R238). -/
def oGatherReadShare (i : Nat) : Nat := (0x2A10 + i) * 256 + 0x20
/-- region[p].span (R239). -/
def oRegionSpan (i : Nat) : Nat := (0x2A20 + i) * 256 + 0x01
/-- region[p].reserve (R239). -/
def oRegionReserve (i : Nat) : Nat := (0x2A20 + i) * 256 + 0x02
/-- region[p].placement (R239). -/
def oRegionPlacement (i : Nat) : Nat := (0x2A20 + i) * 256 + 0x03
/-- region[p].mapped (R239). -/
def oRegionMapped (i : Nat) : Nat := (0x2A20 + i) * 256 + 0x04
/-- region[p].shadow (R239). -/
def oRegionShadow (i : Nat) : Nat := (0x2A20 + i) * 256 + 0x05
/-- region[p].retired (R239). -/
def oRegionRetired (i : Nat) : Nat := (0x2A20 + i) * 256 + 0x06
/-- region[p].tags (R239). -/
def oRegionTags (i : Nat) : Nat := (0x2A20 + i) * 256 + 0x07
/-- region[p].mode (R239). -/
def oRegionMode (i : Nat) : Nat := (0x2A20 + i) * 256 + 0x1F
/-- motion.engines (R268). -/
def oMotionEngines : Nat := 0x2800 * 256 + 0x01
/-- motion.cuts_total (R268). -/
def oMotionCutsTotal : Nat := 0x2800 * 256 + 0x02
/-- motion.mode (R268). -/
def oMotionMode : Nat := 0x2800 * 256 + 0x1F
/-- motion[m].state (R269). -/
def oMotionState (i : Nat) : Nat := (0x2810 + i) * 256 + 0x01
/-- motion[m].die (R269). -/
def oMotionDie (i : Nat) : Nat := (0x2810 + i) * 256 + 0x02
/-- motion[m].busy (R269). -/
def oMotionBusy (i : Nat) : Nat := (0x2810 + i) * 256 + 0x03
/-- motion[m].queue[q].binding (R269). -/
def oMotionQueueBinding (i q : Nat) : Nat := (0x2810 + i) * 256 + (0x04 + q)
/-- motion[m].queue[q].pointers (R269). -/
def oMotionQueuePointers (i q : Nat) : Nat := (0x2810 + i) * 256 + (0x08 + q)
/-- motion[m].queue[q].tail (R269). -/
def oMotionQueueTail (i q : Nat) : Nat := (0x2810 + i) * 256 + (0x0C + q)
/-- motion[m].fallback.pointers (R269). -/
def oMotionFallbackPointers (i : Nat) : Nat := (0x2810 + i) * 256 + 0x10
/-- motion[m].cmd_cursor (R269). -/
def oMotionCmdCursor (i : Nat) : Nat := (0x2810 + i) * 256 + 0x11
/-- motion[m].cmd_data (R269). -/
def oMotionCmdData (i : Nat) : Nat := (0x2810 + i) * 256 + 0x12
/-- motion[m].last_refusal (R269). -/
def oMotionLastRefusal (i : Nat) : Nat := (0x2810 + i) * 256 + 0x13
/-- motion[m].cuts (R269). -/
def oMotionCuts (i : Nat) : Nat := (0x2810 + i) * 256 + 0x14
/-- motion[m].mode (R269). -/
def oMotionModeI (i : Nat) : Nat := (0x2810 + i) * 256 + 0x1F
/-- motion[m].read_share (R269). -/
def oMotionReadShare (i : Nat) : Nat := (0x2810 + i) * 256 + 0x20
/-- seq[k].state (R293). -/
def oSeqState (i : Nat) : Nat := (0x2B00 + i) * 256 + 0x01
/-- seq[k].partition (R293). -/
def oSeqPartition (i : Nat) : Nat := (0x2B00 + i) * 256 + 0x02
/-- seq[k].slot (R293). -/
def oSeqSlot (i : Nat) : Nat := (0x2B00 + i) * 256 + 0x03
/-- seq[k].family (R293). -/
def oSeqFamily (i : Nat) : Nat := (0x2B00 + i) * 256 + 0x04
/-- seq[k].rates (R293). -/
def oSeqRates (i : Nat) : Nat := (0x2B00 + i) * 256 + 0x05
/-- seq[k].latency (R293). -/
def oSeqLatency (i : Nat) : Nat := (0x2B00 + i) * 256 + 0x06
/-- seq[k].src_ring (R293). -/
def oSeqSrcRing (i : Nat) : Nat := (0x2B00 + i) * 256 + 0x07
/-- seq[k].input (R293). -/
def oSeqInput (i : Nat) : Nat := (0x2B00 + i) * 256 + 0x08
/-- seq[k].output (R293). -/
def oSeqOutput (i : Nat) : Nat := (0x2B00 + i) * 256 + 0x09
/-- seq[k].chunk_rate (R293). -/
def oSeqChunkRate (i : Nat) : Nat := (0x2B00 + i) * 256 + 0x0A
/-- seq[k].cut_object (R293). -/
def oSeqCutObject (i : Nat) : Nat := (0x2B00 + i) * 256 + 0x0B
/-- seq[k].options (R293). -/
def oSeqOptions (i : Nat) : Nat := (0x2B00 + i) * 256 + 0x0C
/-- seq[k].grain_seed (R293). -/
def oSeqGrainSeed (i : Nat) : Nat := (0x2B00 + i) * 256 + 0x0D
/-- seq[k].command (R293). -/
def oSeqCommand (i : Nat) : Nat := (0x2B00 + i) * 256 + 0x0F
/-- seq[k].status (R293). -/
def oSeqStatus (i : Nat) : Nat := (0x2B00 + i) * 256 + 0x10
/-- seq[k].src_frame (R293). -/
def oSeqSrcFrame (i : Nat) : Nat := (0x2B00 + i) * 256 + 0x11
/-- seq[k].out_frame (R293). -/
def oSeqOutFrame (i : Nat) : Nat := (0x2B00 + i) * 256 + 0x12
/-- seq[k].fallback_frames (R293). -/
def oSeqFallbackFrames (i : Nat) : Nat := (0x2B00 + i) * 256 + 0x13
/-- seq[k].gaps (R293). -/
def oSeqGaps (i : Nat) : Nat := (0x2B00 + i) * 256 + 0x14
/-- seq[k].drops (R293). -/
def oSeqDrops (i : Nat) : Nat := (0x2B00 + i) * 256 + 0x15
/-- seq[k].warmup (R293). -/
def oSeqWarmup (i : Nat) : Nat := (0x2B00 + i) * 256 + 0x16
/-- seq[k].latency_actual (R293). -/
def oSeqLatencyActual (i : Nat) : Nat := (0x2B00 + i) * 256 + 0x17
/-- seq[k].mode (R293). -/
def oSeqMode (i : Nat) : Nat := (0x2B00 + i) * 256 + 0x1F
/-- partition[p].state (R325). -/
def oPartitionState (i : Nat) : Nat := (0x3000 + 16 * i) * 256 + 0x01
/-- partition[p].config (R325). -/
def oPartitionConfig (i : Nat) : Nat := (0x3000 + 16 * i) * 256 + 0x02
/-- partition[p].tiles (R325). -/
def oPartitionTiles (i : Nat) : Nat := (0x3000 + 16 * i) * 256 + 0x03
/-- partition[p].sync_base (R325). -/
def oPartitionSyncBase (i : Nat) : Nat := (0x3000 + 16 * i) * 256 + 0x04
/-- partition[p].sync_count (R325). -/
def oPartitionSyncCount (i : Nat) : Nat := (0x3000 + 16 * i) * 256 + 0x05
/-- partition[p].bw_share (R325). -/
def oPartitionBwShare (i : Nat) : Nat := (0x3000 + 16 * i) * 256 + 0x06
/-- partition[p].command (R325). -/
def oPartitionCommand (i : Nat) : Nat := (0x3000 + 16 * i) * 256 + 0x07
/-- partition[p].status (R325). -/
def oPartitionStatus (i : Nat) : Nat := (0x3000 + 16 * i) * 256 + 0x08
/-- partition[p].resets (R325). -/
def oPartitionResets (i : Nat) : Nat := (0x3000 + 16 * i) * 256 + 0x09
/-- partition[p].worst_slowdown (R325). -/
def oPartitionWorstSlowdown (i : Nat) : Nat := (0x3000 + 16 * i) * 256 + 0x0A
/-- partition[p].latched (R325). -/
def oPartitionLatched (i : Nat) : Nat := (0x3000 + 16 * i) * 256 + 0x0B
/-- partition[p].mode (R325). -/
def oPartitionMode (i : Nat) : Nat := (0x3000 + 16 * i) * 256 + 0x1F
/-- loan[p].tile (R327). -/
def oLoanTile (i : Nat) : Nat := (0x3001 + 16 * i) * 256 + 0x01
/-- loan[p].banks (R327). -/
def oLoanBanks (i : Nat) : Nat := (0x3001 + 16 * i) * 256 + 0x02
/-- loan[p].queues (R327). -/
def oLoanQueues (i : Nat) : Nat := (0x3001 + 16 * i) * 256 + 0x03
/-- loan[p].borrower (R327). -/
def oLoanBorrower (i : Nat) : Nat := (0x3001 + 16 * i) * 256 + 0x04
/-- loan[p].command (R327). -/
def oLoanCommand (i : Nat) : Nat := (0x3001 + 16 * i) * 256 + 0x05
/-- loan[p].status (R327). -/
def oLoanStatus (i : Nat) : Nat := (0x3001 + 16 * i) * 256 + 0x06
/-- loan[p].lent_tiles (R327). -/
def oLoanLentTiles (i : Nat) : Nat := (0x3001 + 16 * i) * 256 + 0x07
/-- loan[p].borrowed_tiles (R327). -/
def oLoanBorrowedTiles (i : Nat) : Nat := (0x3001 + 16 * i) * 256 + 0x08
/-- loan[p].mode (R327). -/
def oLoanMode (i : Nat) : Nat := (0x3001 + 16 * i) * 256 + 0x1F
/-- acct[p].cursor (R328). -/
def oAcctCursor (i : Nat) : Nat := (0x3002 + 16 * i) * 256 + 0x01
/-- acct[p].data (R328). -/
def oAcctData (i : Nat) : Nat := (0x3002 + 16 * i) * 256 + 0x02
/-- acct[p].clear (R328). -/
def oAcctClear (i : Nat) : Nat := (0x3002 + 16 * i) * 256 + 0x03
/-- acct[p].withdraw (R328). -/
def oAcctWithdraw (i : Nat) : Nat := (0x3002 + 16 * i) * 256 + 0x04
/-- acct[p].restore (R328). -/
def oAcctRestore (i : Nat) : Nat := (0x3002 + 16 * i) * 256 + 0x05
/-- acct[p].withdrawn_jobs (R328). -/
def oAcctWithdrawnJobs (i : Nat) : Nat := (0x3002 + 16 * i) * 256 + 0x06
/-- acct[p].withdraw_list (R328). -/
def oAcctWithdrawList (i : Nat) : Nat := (0x3002 + 16 * i) * 256 + 0x07
/-- acct[p].mode (R328). -/
def oAcctMode (i : Nat) : Nat := (0x3002 + 16 * i) * 256 + 0x1F
/-- dlm.switches_total (R329). -/
def oDlmSwitchesTotal : Nat := 0x3100 * 256 + 0x01
/-- dlm.late_total (R329). -/
def oDlmLateTotal : Nat := 0x3100 * 256 + 0x02
/-- dlm.pending (R329). -/
def oDlmPending : Nat := 0x3100 * 256 + 0x03
/-- dlm.mode (R329). -/
def oDlmMode : Nat := 0x3100 * 256 + 0x1F
/-- dlm[k].margin (R329). -/
def oDlmMargin (i : Nat) : Nat := (0x3180 + i) * 256 + 0x01
/-- dlm[k].switches (R329). -/
def oDlmSwitches (i : Nat) : Nat := (0x3180 + i) * 256 + 0x02
/-- dlm[k].late (R329). -/
def oDlmLate (i : Nat) : Nat := (0x3180 + i) * 256 + 0x03
/-- dlm[k].last_switch (R329). -/
def oDlmLastSwitch (i : Nat) : Nat := (0x3180 + i) * 256 + 0x04
/-- dlm[k].min_slack (R329). -/
def oDlmMinSlack (i : Nat) : Nat := (0x3180 + i) * 256 + 0x05
/-- dlm[k].mode (R329). -/
def oDlmModeI (i : Nat) : Nat := (0x3180 + i) * 256 + 0x1F
/-- sync.cursor (R345). -/
def oSyncCursor : Nat := 0x4000 * 256 + 0x01
/-- sync.data (R345). -/
def oSyncData : Nat := 0x4000 * 256 + 0x02
/-- sync.add (R345). -/
def oSyncAdd : Nat := 0x4000 * 256 + 0x03
/-- sync.fill_count (R345). -/
def oSyncFillCount : Nat := 0x4000 * 256 + 0x04
/-- sync.fill_value (R345). -/
def oSyncFillValue : Nat := 0x4000 * 256 + 0x05
/-- sync.fill_command (R345). -/
def oSyncFillCommand : Nat := 0x4000 * 256 + 0x06
/-- sync.status (R345). -/
def oSyncStatus : Nat := 0x4000 * 256 + 0x07
/-- sync.mode (R345). -/
def oSyncMode : Nat := 0x4000 * 256 + 0x1F
/-- host_watch[w].object (R346). -/
def oHostWatchObject (i : Nat) : Nat := (0x4010 + i) * 256 + 0x01
/-- host_watch[w].value (R346). -/
def oHostWatchValue (i : Nat) : Nat := (0x4010 + i) * 256 + 0x02
/-- host_watch[w].control (R346). -/
def oHostWatchControl (i : Nat) : Nat := (0x4010 + i) * 256 + 0x03
/-- host_watch[w].fired (R346). -/
def oHostWatchFired (i : Nat) : Nat := (0x4010 + i) * 256 + 0x04
/-- host_watch[w].mode (R346). -/
def oHostWatchMode (i : Nat) : Nat := (0x4010 + i) * 256 + 0x1F
/-- det.active (R365). -/
def oDetActive : Nat := 0x2C01 * 256 + 0x01
/-- det.quantum (R365). -/
def oDetQuantum : Nat := 0x2C01 * 256 + 0x02
/-- det.read_latency (R365). -/
def oDetReadLatency : Nat := 0x2C01 * 256 + 0x03
/-- det.write_latency (R365). -/
def oDetWriteLatency : Nat := 0x2C01 * 256 + 0x04
/-- det.cistern_slots (R365). -/
def oDetCisternSlots : Nat := 0x2C01 * 256 + 0x05
/-- det.perturbations (R365). -/
def oDetPerturbations : Nat := 0x2C01 * 256 + 0x06
/-- det.mode (R365). -/
def oDetMode : Nat := 0x2C01 * 256 + 0x1F
/-- replay[p].stop_step (R366). -/
def oReplayStopStep (i : Nat) : Nat := (0x2C10 + i) * 256 + 0x01
/-- replay[p].control (R366). -/
def oReplayControl (i : Nat) : Nat := (0x2C10 + i) * 256 + 0x03
/-- replay[p].state (R366). -/
def oReplayState (i : Nat) : Nat := (0x2C10 + i) * 256 + 0x04
/-- replay[p].peek_cursor (R366). -/
def oReplayPeekCursor (i : Nat) : Nat := (0x2C10 + i) * 256 + 0x05
/-- replay[p].peek_data (R366). -/
def oReplayPeekData (i : Nat) : Nat := (0x2C10 + i) * 256 + 0x07
/-- replay[p].mode (R366). -/
def oReplayMode (i : Nat) : Nat := (0x2C10 + i) * 256 + 0x1F
/-- raster[p].state (R399). -/
def oRasterState (i : Nat) : Nat := (0x2500 + 16 * i) * 256 + 0x01
/-- raster[p].config (R399). -/
def oRasterConfig (i : Nat) : Nat := (0x2500 + 16 * i) * 256 + 0x02
/-- raster[p].phase (R399). -/
def oRasterPhase (i : Nat) : Nat := (0x2500 + 16 * i) * 256 + 0x03
/-- raster[p].lanes (R399). -/
def oRasterLanes (i : Nat) : Nat := (0x2500 + 16 * i) * 256 + 0x04
/-- raster[p].frames (R399). -/
def oRasterFrames (i : Nat) : Nat := (0x2500 + 16 * i) * 256 + 0x05
/-- raster[p].status (R399). -/
def oRasterStatus (i : Nat) : Nat := (0x2500 + 16 * i) * 256 + 0x06
/-- raster[p].mode (R399). -/
def oRasterMode (i : Nat) : Nat := (0x2500 + 16 * i) * 256 + 0x1F
/-- raster[p].conceal_limit (R399). -/
def oRasterConcealLimit (i : Nat) : Nat := (0x2501 + 16 * i) * 256 + 0x01
/-- raster[p].concealed (R399). -/
def oRasterConcealed (i : Nat) : Nat := (0x2501 + 16 * i) * 256 + 0x02
/-- raster[p].crc_errors (R399). -/
def oRasterCrcErrors (i : Nat) : Nat := (0x2501 + 16 * i) * 256 + 0x03
/-- raster[p].lock_losses (R399). -/
def oRasterLockLosses (i : Nat) : Nat := (0x2501 + 16 * i) * 256 + 0x04
/-- raster[p].frames_failed (R399). -/
def oRasterFramesFailed (i : Nat) : Nat := (0x2501 + 16 * i) * 256 + 0x05
/-- raster[p].input_mode (R399). -/
def oRasterInputMode (i : Nat) : Nat := (0x2501 + 16 * i) * 256 + 0x1F
/-- raster[p].fill (R399). -/
def oRasterFill (i : Nat) : Nat := (0x2502 + 16 * i) * 256 + 0x01
/-- raster[p].min_fill (R399). -/
def oRasterMinFill (i : Nat) : Nat := (0x2502 + 16 * i) * 256 + 0x02
/-- raster[p].level (R399). -/
def oRasterLevel (i : Nat) : Nat := (0x2502 + 16 * i) * 256 + 0x03
/-- raster[p].underruns (R399). -/
def oRasterUnderruns (i : Nat) : Nat := (0x2502 + 16 * i) * 256 + 0x04
/-- raster[p].scan_mode (R399). -/
def oRasterScanMode (i : Nat) : Nat := (0x2502 + 16 * i) * 256 + 0x1F
/-- raster[p].low_watermark (R399). -/
def oRasterLowWatermark (i : Nat) : Nat := (0x2502 + 16 * i) * 256 + 0x20
/-- raster[p].critical_watermark (R399). -/
def oRasterCriticalWatermark (i : Nat) : Nat := (0x2502 + 16 * i) * 256 + 0x21
/-- raster[p].vt_declared (R399). -/
def oRasterVtDeclared (i : Nat) : Nat := (0x2503 + 16 * i) * 256 + 0x01
/-- raster[p].vt_enable (R399). -/
def oRasterVtEnable (i : Nat) : Nat := (0x2503 + 16 * i) * 256 + 0x02
/-- raster[p].static_frames (R399). -/
def oRasterStaticFrames (i : Nat) : Nat := (0x2503 + 16 * i) * 256 + 0x03
/-- raster[p].static_count (R399). -/
def oRasterStaticCount (i : Nat) : Nat := (0x2503 + 16 * i) * 256 + 0x04
/-- raster[p].refresh_floor (R399). -/
def oRasterRefreshFloor (i : Nat) : Nat := (0x2503 + 16 * i) * 256 + 0x05
/-- raster[p].held_frames (R399). -/
def oRasterHeldFrames (i : Nat) : Nat := (0x2503 + 16 * i) * 256 + 0x06
/-- raster[p].vt_state (R399). -/
def oRasterVtState (i : Nat) : Nat := (0x2503 + 16 * i) * 256 + 0x07
/-- raster[p].vt_mode (R399). -/
def oRasterVtMode (i : Nat) : Nat := (0x2503 + 16 * i) * 256 + 0x1F
/-- audio.sram_words (R401). -/
def oAudioSramWords : Nat := 0x2700 * 256 + 0x01
/-- audio.free_words (R401). -/
def oAudioFreeWords : Nat := 0x2700 * 256 + 0x02
/-- audio.mute_ports (R401). -/
def oAudioMutePorts : Nat := 0x2700 * 256 + 0x03
/-- audio.mute_hold (R401). -/
def oAudioMuteHold : Nat := 0x2700 * 256 + 0x04
/-- audio.mute_state (R401). -/
def oAudioMuteState : Nat := 0x2700 * 256 + 0x05
/-- audio.mute_events (R401). -/
def oAudioMuteEvents : Nat := 0x2700 * 256 + 0x06
/-- audio.mode (R401). -/
def oAudioMode : Nat := 0x2700 * 256 + 0x1F
/-- audio[k].channels (R401). -/
def oAudioChannels (i : Nat) : Nat := (0x2780 + i) * 256 + 0x01
/-- audio[k].depth (R401). -/
def oAudioDepth (i : Nat) : Nat := (0x2780 + i) * 256 + 0x02
/-- audio[k].state (R401). -/
def oAudioState (i : Nat) : Nat := (0x2780 + i) * 256 + 0x03
/-- audio[k].delay (R401). -/
def oAudioDelay (i : Nat) : Nat := (0x2780 + i) * 256 + 0x04
/-- audio[k].slips (R401). -/
def oAudioSlips (i : Nat) : Nat := (0x2780 + i) * 256 + 0x05
/-- audio[k].concealed (R401). -/
def oAudioConcealed (i : Nat) : Nat := (0x2780 + i) * 256 + 0x06
/-- audio[k].mode (R401). -/
def oAudioModeI (i : Nat) : Nat := (0x2780 + i) * 256 + 0x1F
/-- overlay.engines (R422). -/
def oOverlayEngines : Nat := 0x2600 * 256 + 0x01
/-- overlay.frames_total (R422). -/
def oOverlayFramesTotal : Nat := 0x2600 * 256 + 0x02
/-- overlay.overflows_total (R422). -/
def oOverlayOverflowsTotal : Nat := 0x2600 * 256 + 0x03
/-- overlay.mode (R422). -/
def oOverlayMode : Nat := 0x2600 * 256 + 0x1F
/-- overlay_engine[e].state (R422). -/
def oOverlayEngineState (i : Nat) : Nat := (0x2610 + i) * 256 + 0x01
/-- overlay_engine[e].alloc_used (R422). -/
def oOverlayEngineAllocUsed (i : Nat) : Nat := (0x2610 + i) * 256 + 0x02
/-- overlay_engine[e].share_used (R422). -/
def oOverlayEngineShareUsed (i : Nat) : Nat := (0x2610 + i) * 256 + 0x03
/-- overlay_engine[e].mode (R422). -/
def oOverlayEngineMode (i : Nat) : Nat := (0x2610 + i) * 256 + 0x1F
/-- overlay[k].engine (R423). -/
def oOverlayEngine (i : Nat) : Nat := (0x2680 + i) * 256 + 0x01
/-- overlay[k].alloc (R423). -/
def oOverlayAlloc (i : Nat) : Nat := (0x2680 + i) * 256 + 0x02
/-- overlay[k].share (R423). -/
def oOverlayShare (i : Nat) : Nat := (0x2680 + i) * 256 + 0x03
/-- overlay[k].lead (R423). -/
def oOverlayLead (i : Nat) : Nat := (0x2680 + i) * 256 + 0x04
/-- overlay[k].overflows (R423). -/
def oOverlayOverflows (i : Nat) : Nat := (0x2680 + i) * 256 + 0x05
/-- overlay[k].last_overflow (R423). -/
def oOverlayLastOverflow (i : Nat) : Nat := (0x2680 + i) * 256 + 0x06
/-- overlay[k].discarded (R423). -/
def oOverlayDiscarded (i : Nat) : Nat := (0x2680 + i) * 256 + 0x07
/-- overlay[k].layer[l].control (R423). -/
def oOverlayLayerControl (i q : Nat) : Nat := (0x2680 + i) * 256 + (0x08 + 4 * q)
/-- overlay[k].layer[l].object (R423). -/
def oOverlayLayerObject (i q : Nat) : Nat := (0x2680 + i) * 256 + (0x09 + 4 * q)
/-- overlay[k].layer[l].ring_base (R423). -/
def oOverlayLayerRingBase (i q : Nat) : Nat := (0x2680 + i) * 256 + (0x0A + 4 * q)
/-- overlay[k].mode (R423). -/
def oOverlayModeI (i : Nat) : Nat := (0x2680 + i) * 256 + 0x1F
/-- pcie[i].link (R444). -/
def oPcieLink (i : Nat) : Nat := (0x5100 + i) * 256 + 0x01
/-- pcie[i].stall_limit (R444). -/
def oPcieStallLimit (i : Nat) : Nat := (0x5100 + i) * 256 + 0x02
/-- pcie[i].stalls (R444). -/
def oPcieStalls (i : Nat) : Nat := (0x5100 + i) * 256 + 0x03
/-- pcie[i].link_downs (R444). -/
def oPcieLinkDowns (i : Nat) : Nat := (0x5100 + i) * 256 + 0x04
/-- can.node_id (R444). -/
def oCanNodeId : Nat := 0x5102 * 256 + 0x01
/-- can.bitrate (R444). -/
def oCanBitrate : Nat := 0x5102 * 256 + 0x02
/-- can.timestamp (R444). -/
def oCanTimestamp : Nat := 0x5102 * 256 + 0x03
/-- can.errors (R444). -/
def oCanErrors : Nat := 0x5102 * 256 + 0x04
/-- timing.genlock_state (R444). -/
def oTimingGenlockState : Nat := 0x5103 * 256 + 0x01
/-- timing.genlock_period (R444). -/
def oTimingGenlockPeriod : Nat := 0x5103 * 256 + 0x02
/-- timing.pps_count (R444). -/
def oTimingPpsCount : Nat := 0x5103 * 256 + 0x03
/-- i2c.address (R444). -/
def oI2cAddress : Nat := 0x5104 * 256 + 0x01
/-- i2c.write_len (R444). -/
def oI2cWriteLen : Nat := 0x5104 * 256 + 0x02
/-- i2c.read_len (R444). -/
def oI2cReadLen : Nat := 0x5104 * 256 + 0x03
/-- i2c.speed (R444). -/
def oI2cSpeed : Nat := 0x5104 * 256 + 0x04
/-- i2c.cursor (R444). -/
def oI2cCursor : Nat := 0x5104 * 256 + 0x05
/-- i2c.data (R444). -/
def oI2cData : Nat := 0x5104 * 256 + 0x06
/-- i2c.command (R444). -/
def oI2cCommand : Nat := 0x5104 * 256 + 0x07
/-- i2c.status (R444). -/
def oI2cStatus : Nat := 0x5104 * 256 + 0x08
/-- gpio.in (R444). -/
def oGpioIn : Nat := 0x5106 * 256 + 0x01
/-- gpio.out (R444). -/
def oGpioOut : Nat := 0x5106 * 256 + 0x02
/-- gpio.pulse_port (R444). -/
def oGpioPulsePort : Nat := 0x5106 * 256 + 0x03
/-- pinmux[l].function (R444). -/
def oPinmuxFunction (q : Nat) : Nat := 0x5108 * 256 + (0x01 + q)
/-- pinmux_hi.function (R444). -/
def oPinmuxHiFunction (q : Nat) : Nat := 0x5109 * 256 + (0x01 + q)
/-- dma[r].state (R444). -/
def oDmaState (i : Nat) : Nat := (0x5180 + i) * 256 + 0x01
/-- dma[r].config (R444). -/
def oDmaConfig (i : Nat) : Nat := (0x5180 + i) * 256 + 0x02
/-- dma[r].ring_base (R444). -/
def oDmaRingBase (i : Nat) : Nat := (0x5180 + i) * 256 + 0x03
/-- dma[r].ring_log2 (R444). -/
def oDmaRingLog2 (i : Nat) : Nat := (0x5180 + i) * 256 + 0x05
/-- dma[r].phase (R444). -/
def oDmaPhase (i : Nat) : Nat := (0x5180 + i) * 256 + 0x06
/-- dma[r].vector (R444). -/
def oDmaVector (i : Nat) : Nat := (0x5180 + i) * 256 + 0x07
/-- dma[r].pointers (R444). -/
def oDmaPointers (i : Nat) : Nat := (0x5180 + i) * 256 + 0x08
/-- dma[r].frames (R444). -/
def oDmaFrames (i : Nat) : Nat := (0x5180 + i) * 256 + 0x09
/-- dma[r].abandoned (R444). -/
def oDmaAbandoned (i : Nat) : Nat := (0x5180 + i) * 256 + 0x0A
/-- dma[r].skipped (R444). -/
def oDmaSkipped (i : Nat) : Nat := (0x5180 + i) * 256 + 0x0B
/-- comm.device_type (R468). -/
def oCommDeviceType : Nat := 0x1000 * 256 + 0x00
/-- comm.error_register (R468). -/
def oCommErrorRegister : Nat := 0x1001 * 256 + 0x00
/-- comm.error_count (R468). -/
def oCommErrorCount : Nat := 0x1003 * 256 + 0x00
/-- comm.error_history (R468). -/
def oCommErrorHistory (q : Nat) : Nat := 0x1003 * 256 + (0x01 + q)
/-- comm.cob_sync (R468). -/
def oCommCobSync : Nat := 0x1005 * 256 + 0x00
/-- comm.cob_emcy (R468). -/
def oCommCobEmcy : Nat := 0x1014 * 256 + 0x00
/-- comm.emcy_inhibit (R468). -/
def oCommEmcyInhibit : Nat := 0x1015 * 256 + 0x00
/-- comm.heartbeat (R468). -/
def oCommHeartbeat : Nat := 0x1017 * 256 + 0x00
/-- comm.ident_highest (R468). -/
def oCommIdentHighest : Nat := 0x1018 * 256 + 0x00
/-- comm.vendor (R468). -/
def oCommVendor : Nat := 0x1018 * 256 + 0x01
/-- comm.product (R468). -/
def oCommProduct : Nat := 0x1018 * 256 + 0x02
/-- comm.revision (R468). -/
def oCommRevision : Nat := 0x1018 * 256 + 0x03
/-- comm.serial (R468). -/
def oCommSerial : Nat := 0x1018 * 256 + 0x04
/-- comm.tpdo[t].cob (R468). -/
def oCommTpdoCob (i : Nat) : Nat := (0x1800 + i) * 256 + 0x01
/-- comm.tpdo[t].transmission (R468). -/
def oCommTpdoTransmission (i : Nat) : Nat := (0x1800 + i) * 256 + 0x02
/-- comm.tpdo[t].inhibit (R468). -/
def oCommTpdoInhibit (i : Nat) : Nat := (0x1800 + i) * 256 + 0x03
/-- comm.tpdo[t].timer (R468). -/
def oCommTpdoTimer (i : Nat) : Nat := (0x1800 + i) * 256 + 0x05
/-- comm.tpdo[t].mapped (R468). -/
def oCommTpdoMapped (i : Nat) : Nat := (0x1A00 + i) * 256 + 0x00
/-- comm.tpdo[t].mapping (R468). -/
def oCommTpdoMapping (i q : Nat) : Nat := (0x1A00 + i) * 256 + (0x01 + q)
/-- ident.vendor (R469). -/
def oIdentVendor : Nat := 0x2000 * 256 + 0x01
/-- ident.product (R469). -/
def oIdentProduct : Nat := 0x2000 * 256 + 0x02
/-- ident.grade (R469). -/
def oIdentGrade : Nat := 0x2000 * 256 + 0x03
/-- ident.stepping (R469). -/
def oIdentStepping : Nat := 0x2000 * 256 + 0x04
/-- ident.serial (R469). -/
def oIdentSerial : Nat := 0x2000 * 256 + 0x05
/-- ident.weir_version (R469). -/
def oIdentWeirVersion : Nat := 0x2000 * 256 + 0x07
/-- ident.rill_version (R469). -/
def oIdentRillVersion : Nat := 0x2000 * 256 + 0x08
/-- ident.od_version (R469). -/
def oIdentOdVersion : Nat := 0x2000 * 256 + 0x09
/-- compat.count (R469). -/
def oCompatCount : Nat := 0x2000 * 256 + 0x0A
/-- compat.cursor (R469). -/
def oCompatCursor : Nat := 0x2000 * 256 + 0x0B
/-- compat.data (R469). -/
def oCompatData : Nat := 0x2000 * 256 + 0x0C
/-- compat.state (R469). -/
def oCompatState : Nat := 0x2000 * 256 + 0x0D
/-- compat.last_image (R469). -/
def oCompatLastImage : Nat := 0x2000 * 256 + 0x0E
/-- compat.last_result (R469). -/
def oCompatLastResult : Nat := 0x2000 * 256 + 0x0F
/-- od.bad_access (R469). -/
def oOdBadAccess : Nat := 0x2000 * 256 + 0x10
/-- od.last_refused (R469). -/
def oOdLastRefused : Nat := 0x2000 * 256 + 0x11
/-- ident.mode (R469). -/
def oIdentMode : Nat := 0x2000 * 256 + 0x1F
/-- fw.weir_slot (R495). -/
def oFwWeirSlot : Nat := 0x5000 * 256 + 0x01
/-- fw.rill_slot (R495). -/
def oFwRillSlot : Nat := 0x5000 * 256 + 0x02
/-- fw.rill_state (R495). -/
def oFwRillState : Nat := 0x5000 * 256 + 0x03
/-- fw.rill_restarts (R495). -/
def oFwRillRestarts : Nat := 0x5000 * 256 + 0x04
/-- fw.rill_kick (R495). -/
def oFwRillKick : Nat := 0x5000 * 256 + 0x05
/-- fw.command (R495). -/
def oFwCommand : Nat := 0x5000 * 256 + 0x06
/-- fw.target (R495). -/
def oFwTarget : Nat := 0x5000 * 256 + 0x07
/-- fw.block (R495). -/
def oFwBlock : Nat := 0x5000 * 256 + 0x08
/-- fw.cursor (R495). -/
def oFwCursor : Nat := 0x5000 * 256 + 0x09
/-- fw.data (R495). -/
def oFwData : Nat := 0x5000 * 256 + 0x0A
/-- fw.source_port (R495). -/
def oFwSourcePort : Nat := 0x5000 * 256 + 0x0B
/-- fw.source_address (R495). -/
def oFwSourceAddress : Nat := 0x5000 * 256 + 0x0C
/-- fw.source_length (R495). -/
def oFwSourceLength : Nat := 0x5000 * 256 + 0x0E
/-- fw.status (R495). -/
def oFwStatus : Nat := 0x5000 * 256 + 0x0F
/-- fw.slot_state (R495). -/
def oFwSlotState : Nat := 0x5000 * 256 + 0x10
/-- fw.rill_image_version (R495). -/
def oFwRillImageVersion : Nat := 0x5000 * 256 + 0x11
/-- fw.mode (R495). -/
def oFwMode : Nat := 0x5000 * 256 + 0x1F
/-- fw.watchdog_ms (R495). -/
def oFwWatchdogMs : Nat := 0x5000 * 256 + 0x20
/-- fw.restart_limit (R495). -/
def oFwRestartLimit : Nat := 0x5000 * 256 + 0x21
/-- passthru[j].state (R497). -/
def oPassthruState (i : Nat) : Nat := (0x5001 + i) * 256 + 0x01
/-- passthru[j].in (R497). -/
def oPassthruIn (i : Nat) : Nat := (0x5001 + i) * 256 + 0x02
/-- passthru[j].out (R497). -/
def oPassthruOut (i : Nat) : Nat := (0x5001 + i) * 256 + 0x03
/-- passthru[j].delay_lines (R497). -/
def oPassthruDelayLines (i : Nat) : Nat := (0x5001 + i) * 256 + 0x04
/-- passthru[j].command (R497). -/
def oPassthruCommand (i : Nat) : Nat := (0x5001 + i) * 256 + 0x05
/-- passthru[j].status (R497). -/
def oPassthruStatus (i : Nat) : Nat := (0x5001 + i) * 256 + 0x06
/-- passthru[j].mode (R497). -/
def oPassthruMode (i : Nat) : Nat := (0x5001 + i) * 256 + 0x1F
/-- img[s].port (R498). -/
def oImgPort (i : Nat) : Nat := (0x5010 + i) * 256 + 0x01
/-- img[s].address (R498). -/
def oImgAddress (i : Nat) : Nat := (0x5010 + i) * 256 + 0x02
/-- img[s].length (R498). -/
def oImgLength (i : Nat) : Nat := (0x5010 + i) * 256 + 0x04
/-- img[s].mode (R498). -/
def oImgMode (i : Nat) : Nat := (0x5010 + i) * 256 + 0x1F
/-- env.inlet_max (R522). -/
def oEnvInletMax : Nat := 0x2400 * 256 + 0x01
/-- env.flow_min (R522). -/
def oEnvFlowMin : Nat := 0x2400 * 256 + 0x02
/-- env.glycol (R522). -/
def oEnvGlycol : Nat := 0x2400 * 256 + 0x03
/-- env.rails (R522). -/
def oEnvRails : Nat := 0x2400 * 256 + 0x04
/-- env.state (R522). -/
def oEnvState : Nat := 0x2400 * 256 + 0x05
/-- env.sensor_select (R522). -/
def oEnvSensorSelect : Nat := 0x2400 * 256 + 0x06
/-- env.sensor (R522). -/
def oEnvSensor : Nat := 0x2400 * 256 + 0x07
/-- env.hottest (R522). -/
def oEnvHottest : Nat := 0x2400 * 256 + 0x08
/-- env.peak (R522). -/
def oEnvPeak : Nat := 0x2400 * 256 + 0x09
/-- env.trip_cause (R522). -/
def oEnvTripCause : Nat := 0x2400 * 256 + 0x0A
/-- env.warnings (R522). -/
def oEnvWarnings : Nat := 0x2400 * 256 + 0x0B
/-- env.trips (R522). -/
def oEnvTrips : Nat := 0x2400 * 256 + 0x0C
/-- env.mode (R522). -/
def oEnvMode : Nat := 0x2400 * 256 + 0x1F
/-- env.warn_threshold (R522). -/
def oEnvWarnThreshold : Nat := 0x2400 * 256 + 0x20
/-- env.trip_release (R522). -/
def oEnvTripRelease : Nat := 0x2400 * 256 + 0x21
/-- clock.cycle (R546). -/
def oClockCycle : Nat := 0x2200 * 256 + 0x01
/-- clock.ref_declared (R546). -/
def oClockRefDeclared : Nat := 0x2200 * 256 + 0x03
/-- clock.pll_lock (R546). -/
def oClockPllLock : Nat := 0x2200 * 256 + 0x04
/-- clock.align_state (R546). -/
def oClockAlignState : Nat := 0x2200 * 256 + 0x05
/-- clock.align_status (R546). -/
def oClockAlignStatus : Nat := 0x2200 * 256 + 0x06
/-- clock.link_trim (R546). -/
def oClockLinkTrim : Nat := 0x2200 * 256 + 0x07
/-- clock.outputs_slewing (R546). -/
def oClockOutputsSlewing : Nat := 0x2200 * 256 + 0x09
/-- clock.outputs_holdover (R546). -/
def oClockOutputsHoldover : Nat := 0x2200 * 256 + 0x0A
/-- clock.mode (R546). -/
def oClockMode : Nat := 0x2200 * 256 + 0x1F
/-- clock.genlock_slew (R546). -/
def oClockGenlockSlew : Nat := 0x2200 * 256 + 0x20
/-- time.now (R548). -/
def oTimeNow : Nat := 0x2201 * 256 + 0x01
/-- time.pps_enable (R548). -/
def oTimePpsEnable : Nat := 0x2201 * 256 + 0x03
/-- time.pps_offset (R548). -/
def oTimePpsOffset : Nat := 0x2201 * 256 + 0x04
/-- time.pps_state (R548). -/
def oTimePpsState : Nat := 0x2201 * 256 + 0x05
/-- time.pps_error (R548). -/
def oTimePpsError : Nat := 0x2201 * 256 + 0x06
/-- time.rate_adjust (R548). -/
def oTimeRateAdjust : Nat := 0x2201 * 256 + 0x07
/-- time.steps (R548). -/
def oTimeSteps : Nat := 0x2201 * 256 + 0x08
/-- time.pps_rejects (R548). -/
def oTimePpsRejects : Nat := 0x2201 * 256 + 0x09
/-- time.mode (R548). -/
def oTimeMode : Nat := 0x2201 * 256 + 0x1F
/-- time.max_slew (R548). -/
def oTimeMaxSlew : Nat := 0x2201 * 256 + 0x20
/-- step[p].counter (R549). -/
def oStepCounter (i : Nat) : Nat := (0x2210 + i) * 256 + 0x01
/-- step[p].fallback (R549). -/
def oStepFallback (i : Nat) : Nat := (0x2210 + i) * 256 + 0x03
/-- step[p].allocator (R549). -/
def oStepAllocator (i : Nat) : Nat := (0x2210 + i) * 256 + 0x05
/-- step[p].seed (R549). -/
def oStepSeed (i : Nat) : Nat := (0x2210 + i) * 256 + 0x07
/-- step[p].mode (R549). -/
def oStepMode (i : Nat) : Nat := (0x2210 + i) * 256 + 0x1F
/-- bringup.next (R568). -/
def oBringupNext : Nat := 0x2100 * 256 + 0x01
/-- bringup.service (R568). -/
def oBringupService : Nat := 0x2100 * 256 + 0x02
/-- bringup.runs (R568). -/
def oBringupRuns : Nat := 0x2100 * 256 + 0x03
/-- bringup.mode (R568). -/
def oBringupMode : Nat := 0x2100 * 256 + 0x1F
/-- bring[i].status (R568). -/
def oBringStatus (i : Nat) : Nat := (0x2100 + i) * 256 + 0x01
/-- bring[i].command (R568). -/
def oBringCommand (i : Nat) : Nat := (0x2100 + i) * 256 + 0x02
/-- bring[i].elapsed (R568). -/
def oBringElapsed (i : Nat) : Nat := (0x2100 + i) * 256 + 0x03
/-- bring[i].mode (R568). -/
def oBringMode (i : Nat) : Nat := (0x2100 + i) * 256 + 0x1F
/-- defect.count (R569). -/
def oDefectCount : Nat := 0x2300 * 256 + 0x01
/-- defect.factory_count (R569). -/
def oDefectFactoryCount : Nat := 0x2300 * 256 + 0x02
/-- defect.field_count (R569). -/
def oDefectFieldCount : Nat := 0x2300 * 256 + 0x03
/-- defect.cursor (R569). -/
def oDefectCursor : Nat := 0x2300 * 256 + 0x04
/-- defect.data (R569). -/
def oDefectData : Nat := 0x2300 * 256 + 0x05
/-- defect.unrecorded (R569). -/
def oDefectUnrecorded : Nat := 0x2300 * 256 + 0x06
/-- map.dies (R569). -/
def oMapDies : Nat := 0x2300 * 256 + 0x07
/-- map.stacks (R569). -/
def oMapStacks : Nat := 0x2300 * 256 + 0x08
/-- map.retraining (R569). -/
def oMapRetraining : Nat := 0x2300 * 256 + 0x09
/-- defect.mode (R569). -/
def oDefectMode : Nat := 0x2300 * 256 + 0x1F
/-- defect.lane_error_limit (R569). -/
def oDefectLaneErrorLimit : Nat := 0x2300 * 256 + 0x20
/-- defect.link_replay_limit (R569). -/
def oDefectLinkReplayLimit : Nat := 0x2300 * 256 + 0x21
/-- defect.pc_error_limit (R569). -/
def oDefectPcErrorLimit : Nat := 0x2300 * 256 + 0x22
/-- almanac.cursor (R604). -/
def oAlmanacCursor : Nat := 0x4800 * 256 + 0x01
/-- almanac.data (R604). -/
def oAlmanacData : Nat := 0x4800 * 256 + 0x02
/-- almanac.command (R604). -/
def oAlmanacCommand : Nat := 0x4800 * 256 + 0x03
/-- almanac.state (R604). -/
def oAlmanacState : Nat := 0x4800 * 256 + 0x04
/-- almanac.perm_used (R604). -/
def oAlmanacPermUsed : Nat := 0x4800 * 256 + 0x05
/-- almanac.newest (R604). -/
def oAlmanacNewest : Nat := 0x4800 * 256 + 0x06
/-- almanac.oldest (R604). -/
def oAlmanacOldest : Nat := 0x4800 * 256 + 0x07
/-- almanac.next_seq (R604). -/
def oAlmanacNextSeq : Nat := 0x4800 * 256 + 0x08
/-- almanac.lost (R604). -/
def oAlmanacLost : Nat := 0x4800 * 256 + 0x09
/-- almanac.kept_lost (R604). -/
def oAlmanacKeptLost : Nat := 0x4800 * 256 + 0x0A
/-- almanac.wraps (R604). -/
def oAlmanacWraps : Nat := 0x4800 * 256 + 0x0B
/-- almanac.epoch (R604). -/
def oAlmanacEpoch : Nat := 0x4800 * 256 + 0x0C
/-- almanac.mirror_pending (R604). -/
def oAlmanacMirrorPending : Nat := 0x4800 * 256 + 0x0D
/-- almanac.autofreeze (R604). -/
def oAlmanacAutofreeze : Nat := 0x4800 * 256 + 0x0E
/-- almanac.mode (R604). -/
def oAlmanacMode : Nat := 0x4800 * 256 + 0x1F
/-- damage[p].pages (R617). -/
def oDamagePages (q : Nat) : Nat := 0x4A00 * 256 + (0x01 + q)
/-- perf.counters (R617). -/
def oPerfCounters : Nat := 0x4A00 * 256 + 0x11
/-- perf.command (R617). -/
def oPerfCommand : Nat := 0x4A00 * 256 + 0x12
/-- perf.sample_time (R617). -/
def oPerfSampleTime : Nat := 0x4A00 * 256 + 0x13
/-- perf.mode (R617). -/
def oPerfMode : Nat := 0x4A00 * 256 + 0x1F
/-- perf[c].event (R618). -/
def oPerfEvent (i : Nat) : Nat := (0x4A40 + i) * 256 + 0x01
/-- perf[c].value (R618). -/
def oPerfValue (i : Nat) : Nat := (0x4A40 + i) * 256 + 0x02
/-- perf[c].sample (R618). -/
def oPerfSample (i : Nat) : Nat := (0x4A40 + i) * 256 + 0x04
/-- perf[c].mode (R618). -/
def oPerfModeI (i : Nat) : Nat := (0x4A40 + i) * 256 + 0x1F

end Sys2Proof.Machine
end

