-- ==== Sys2Proof/Machine/Maps.lean ====
section
/-!
DEFINITION. Reading and writing sparse maps. A write keeps the canonical form: keys rising, no entry equal to the default.
-/

namespace Sys2Proof.Machine

/-- The value at key `i`, the default `d` where no entry is listed. -/
def mapGet {α : Type} (d : α) : SMap α → Nat → α
  | [], _ => d
  | (k, v) :: m, i => if i = k then v else mapGet d m i

/-- The entry at key `i`, if one is listed. -/
def mapFind {α : Type} : SMap α → Nat → Option α
  | [], _ => none
  | (k, v) :: m, i => if i = k then some v else mapFind m i

/-- Insert or replace the entry at key `i`, keeping keys rising. -/
def mapPut {α : Type} (m : SMap α) (i : Nat) (v : α) : SMap α :=
  match m with
  | [] => [(i, v)]
  | (k, w) :: m' => if i < k then (i, v) :: (k, w) :: m'
                    else if i = k then (i, v) :: m'
                    else (k, w) :: mapPut m' i v

/-- Remove the entry at key `i`. -/
def mapErase {α : Type} (m : SMap α) (i : Nat) : SMap α := m.filter fun e => !(e.1 == i)

/-- Write key `i`: writing the default removes the entry. -/
def mapSet {α : Type} [DecidableEq α] (d : α) (m : SMap α) (i : Nat) (v : α) : SMap α :=
  if v = d then mapErase m i else mapPut m i v

/-- Apply `f` to the value at key `i`. -/
def mapUpd {α : Type} [DecidableEq α] (d : α) (m : SMap α) (i : Nat) (f : α → α) : SMap α :=
  mapSet d m i (f (mapGet d m i))

/-- Keys strictly rising. -/
abbrev Rising {α : Type} (m : SMap α) : Prop := m.Pairwise fun a b => a.1 < b.1

/-- The canonical form: keys strictly rising and no entry equal to the default. -/
abbrev Tidy {α : Type} (d : α) (m : SMap α) : Prop := Rising m ∧ ∀ e ∈ m, e.2 ≠ d

/-- The keys of the listed entries. -/
def mapKeys {α : Type} (m : SMap α) : List Nat := m.map (·.1)

end Sys2Proof.Machine
end

