-- ==== Sys2Proof/Machine/Flags.lean ====
section
/-!
DEFINITION. The four arithmetic flags of a command (R57) and their places in a completion record (R77).
-/

namespace Sys2Proof.Machine

/-- The four sticky arithmetic flags of a command (R57). -/
structure Flags where
  invalid : Bool
  overflow : Bool
  saturation : Bool
  nanToInt : Bool
deriving DecidableEq, Repr

/-- No flag set. -/
def noFlags : Flags := { invalid := false, overflow := false, saturation := false, nanToInt := false }

/-- Both commands' flags. -/
def orFlags (a b : Flags) : Flags :=
  { invalid := a.invalid || b.invalid, overflow := a.overflow || b.overflow,
    saturation := a.saturation || b.saturation, nanToInt := a.nanToInt || b.nanToInt }

/-- The flags as bits [3:0] of completion word 0 (R77): nan_to_int, saturation, overflow, invalid. -/
def flagBits (f : Flags) : Nat :=
  8 * b2n f.nanToInt + 4 * b2n f.saturation + 2 * b2n f.overflow + b2n f.invalid

/-- Flag helpers. -/
def flagInvalid : Flags := { noFlags with invalid := true }
def flagOverflow : Flags := { noFlags with overflow := true }
def flagSaturation : Flags := { noFlags with saturation := true }
def flagNanToInt : Flags := { noFlags with nanToInt := true }

end Sys2Proof.Machine
end

