-- ==== Sys2Proof/Machine/Arith.lean ====
section
/-!
DEFINITION. Numbers, formats, rounding and conversion (02_number_formats.md).
A finite value is a sign and an exact rational magnitude, so that sums and products are exact and every rounding is explicit.
-/

namespace Sys2Proof.Machine

/-- A value of a number format: NaN, an infinity or a signed finite magnitude (the sign of a zero is kept). -/
inductive Num where
  | nan
  | inf (neg : Bool)
  | fin (neg : Bool) (mag : Rat)
deriving DecidableEq, Repr

/-- How a rounding chooses: to nearest even, or stochastically with the 16 random bits u (R50, R51). -/
inductive Rounding where
  | rne
  | stochastic (u : Nat)
deriving DecidableEq, Repr

/-- 2^e as a rational. -/
def pow2 (e : Int) : Rat :=
  if 0 ≤ e then mkRat ((2 ^ e.toNat : Nat) : Int) 1 else mkRat 1 (2 ^ (-e).toNat)

/-- floor(log2 m) of a positive rational. -/
def floorLog2 (m : Rat) : Int :=
  let e : Int := (Nat.log2 m.num.toNat : Int) - (Nat.log2 m.den : Int)
  if m < pow2 e then e - 1 else e

/-- The signed rational of a finite value; 0 for the others. -/
def Num.toRat : Num → Rat
  | .fin neg m => if neg then -m else m
  | _ => 0

/-- A finite value of a rational; `negZero` gives the sign of a zero. -/
def numOfRat (q : Rat) (negZero : Bool) : Num :=
  if q = 0 then .fin negZero 0 else .fin (decide (q < 0)) (if q < 0 then -q else q)

/-- A finite value of an integer; zero is +0. -/
def numOfInt (i : Int) : Num := numOfRat (i : Rat) false

/-- Is the value a zero of either sign? -/
def Num.isZero : Num → Bool
  | .fin _ m => decide (m = 0)
  | _ => false

/-- Negative value (sign bit set, zeros included). -/
def Num.isNeg : Num → Bool
  | .nan => false
  | .inf n => n
  | .fin n _ => n

/-- Negation. -/
def Num.neg : Num → Num
  | .nan => .nan
  | .inf n => .inf (!n)
  | .fin n m => .fin (!n) m

/-- Absolute value. -/
def Num.abs : Num → Num
  | .nan => .nan
  | .inf _ => .inf false
  | .fin _ m => .fin false m

/-- Comparison a < b of non-NaN values; zeros of both signs are equal. -/
def Num.lt : Num → Num → Bool
  | .nan, _ => false
  | _, .nan => false
  | .inf a, .inf b => a && !b
  | .inf a, .fin _ _ => a
  | .fin _ _, .inf b => !b
  | .fin a x, .fin b y => decide ((Num.fin a x).toRat < (Num.fin b y).toRat)

/-- Round a non-negative magnitude to an integer count of `q` (R50, R51), f being the fraction. -/
def roundCount (r : Rounding) (x : Rat) : Nat :=
  let n := x.floor.toNat
  let f := x - (n : Rat)
  match r with
  | .rne => if f < mkRat 1 2 then n else if mkRat 1 2 < f then n + 1 else if n % 2 = 0 then n else n + 1
  | .stochastic u => if 65536 ≤ (f * 65536).floor.toNat + u then n + 1 else n

/-- Round a rational to an integer (R50, R51): RNE is symmetric; stochastic rounding takes n = floor(v). -/
def roundInt (r : Rounding) (v : Rat) : Int :=
  let n := v.floor
  let f := v - (n : Rat)
  match r with
  | .rne => if f < mkRat 1 2 then n else if mkRat 1 2 < f then n + 1 else if n % 2 = 0 then n else n + 1
  | .stochastic u => if 65536 ≤ (f * 65536).floor.toNat + u then n + 1 else n

/-- The 64-bit word of R52's generator for a seed, a step and an element index. -/
def rand64 (seed step index : Nat) : Nat :=
  let M := 2 ^ 64
  let r0 := (seed % M) ^^^ ((step * 0x9E3779B97F4A7C15) % M) ^^^ ((index * 0xD1B54A32D192ED03) % M)
  let r1 := ((r0 ^^^ (r0 / 2 ^ 30)) * 0xBF58476D1CE4E5B9) % M
  let r2 := ((r1 ^^^ (r1 / 2 ^ 27)) * 0x94D049BB133111EB) % M
  r2 ^^^ (r2 / 2 ^ 31)

/-- The draw u of R52: the top 16 bits. -/
def rand16 (seed step index : Nat) : Nat := rand64 seed step index / 2 ^ 48

/-- The parameters of a floating-point format (R36). -/
structure FloatFmt where
  expBits : Nat
  manBits : Nat
  bias : Nat
  /-- E4M3 has no infinity and one NaN mantissa in the top exponent. -/
  ieee : Bool
  canonicalNan : Nat
  maxCode : Nat
deriving DecidableEq, Repr

/-- FP8 E4M3 (R36, R38). -/
def fmtE4M3 : FloatFmt := { expBits := 4, manBits := 3, bias := 7, ieee := false, canonicalNan := 0x7F, maxCode := 0x7E }
/-- FP8 E5M2. -/
def fmtE5M2 : FloatFmt := { expBits := 5, manBits := 2, bias := 15, ieee := true, canonicalNan := 0x7F, maxCode := 0x7B }
/-- BF16. -/
def fmtBF16 : FloatFmt := { expBits := 8, manBits := 7, bias := 127, ieee := true, canonicalNan := 0x7FC0, maxCode := 0x7F7F }
/-- FP16. -/
def fmtFP16 : FloatFmt := { expBits := 5, manBits := 10, bias := 15, ieee := true, canonicalNan := 0x7E00, maxCode := 0x7BFF }
/-- FP32. -/
def fmtFP32 : FloatFmt := { expBits := 8, manBits := 23, bias := 127, ieee := true, canonicalNan := 0x7FC00000, maxCode := 0x7F7FFFFF }

/-- The value of an encoding (R36); subnormals are values (R37). -/
def decodeFloat (f : FloatFmt) (w : Nat) : Num :=
  let neg := bit w (f.expBits + f.manBits)
  let e := bits w (f.expBits + f.manBits - 1) f.manBits
  let m := w % 2 ^ f.manBits
  let top := 2 ^ f.expBits - 1
  if f.ieee && e == top then (if m = 0 then .inf neg else .nan)
  else if !f.ieee && e == top && m == 2 ^ f.manBits - 1 then .nan
  else if e = 0 then .fin neg ((m : Rat) * pow2 (1 - (f.bias : Int) - f.manBits))
  else .fin neg (((2 ^ f.manBits + m : Nat) : Rat) * pow2 ((e : Int) - f.bias - f.manBits))

/-- Round a finite magnitude to the format's grid: its code without sign, which may lie above `maxCode` (R50). -/
def roundMag (f : FloatFmt) (r : Rounding) (m : Rat) : Nat :=
  if m = 0 then 0 else
  let emin : Int := 1 - (f.bias : Int)
  let e := max (floorLog2 m) emin
  let n := roundCount r (m * pow2 (f.manBits - e))
  (e - emin).toNat * 2 ^ f.manBits + n

/-- The sign bit of an encoding. -/
def signBit (f : FloatFmt) (neg : Bool) : Nat := if neg then 2 ^ (f.expBits + f.manBits) else 0

/-- The infinity of the format. -/
def infCode (f : FloatFmt) : Nat := (2 ^ f.expBits - 1) * 2 ^ f.manBits

/-- Convert a value to a float encoding with the rounding and the saturation bit of an output (R38, R50, R53, R54). Where R53's table and R54's row of wider formats differ for an infinity with the saturation bit set, it is clamped and sets the saturation flag, as R53 says of any format (DEDUCED, log entry 86). -/
def encodeFloat (f : FloatFmt) (sat : Bool) (r : Rounding) (v : Num) : Nat × Flags :=
  match v with
  | .nan => (f.canonicalNan, noFlags)
  | .inf neg =>
    if sat then (signBit f neg + f.maxCode, flagSaturation)
    else if f.ieee then (signBit f neg + infCode f, noFlags)
    else (f.canonicalNan, flagOverflow)
  | .fin neg m =>
    let c := roundMag f r m
    if c ≤ f.maxCode then (signBit f neg + c, noFlags)
    else if sat then (signBit f neg + f.maxCode, flagSaturation)
    else if f.ieee then (signBit f neg + infCode f, flagOverflow)
    else (f.canonicalNan, flagOverflow)

/-- Fit an integer into `w` bits by the saturation bit (R53): the stored bits and the flags. -/
def fitInt (w : Nat) (sat : Bool) (x : Int) : Nat × Flags :=
  let lo : Int := -((2 ^ (w - 1) : Nat) : Int)
  let hi : Int := ((2 ^ (w - 1) : Nat) : Int) - 1
  if lo ≤ x ∧ x ≤ hi then (ofSigned w x, noFlags)
  else if sat then (ofSigned w (if x < lo then lo else hi), flagSaturation)
  else (ofSigned w x, flagOverflow)

/-- A float value converted to a `w`-bit integer (R53, R54). -/
def floatToInt (w : Nat) (sat : Bool) (r : Rounding) (v : Num) : Nat × Flags :=
  match v with
  | .nan => (0, flagNanToInt)
  | .inf neg => (ofSigned w (if neg then -((2 ^ (w - 1) : Nat) : Int) else ((2 ^ (w - 1) : Nat) : Int) - 1), flagSaturation)
  | .fin neg m => fitInt w sat (roundInt r (Num.fin neg m).toRat)

/-- Rounding to FP32 with RNE inside a command (R47, R50): the FP32 value and whether finite values overflowed. -/
def roundFP32 (v : Num) : Num × Flags :=
  match v with
  | .fin neg m =>
    let c := roundMag fmtFP32 .rne m
    if c ≤ fmtFP32.maxCode then (decodeFloat fmtFP32 (signBit fmtFP32 neg + c), noFlags)
    else (.inf neg, flagOverflow)
  | v => (v, noFlags)

/-- Exact product; 0 × infinity is NaN and raises invalid. -/
def mulNum (a b : Num) : Num × Flags :=
  match a, b with
  | .nan, _ => (.nan, noFlags)
  | _, .nan => (.nan, noFlags)
  | .inf x, .inf y => (.inf (xor x y), noFlags)
  | .inf x, .fin y m => if m = 0 then (.nan, flagInvalid) else (.inf (xor x y), noFlags)
  | .fin x m, .inf y => if m = 0 then (.nan, flagInvalid) else (.inf (xor x y), noFlags)
  | .fin x m, .fin y n => (.fin (xor x y) (m * n), noFlags)

/-- Exact sum of terms (R47, R48): NaN if any term is NaN or both infinities are present; an infinity if any; else the
rational sum, a zero sum being −0 only when every term is −0. -/
def sumNum (ts : List Num) : Num × Flags :=
  if ts.any (fun t => t == .nan) then (.nan, noFlags)
  else if ts.any (fun t => t == .inf false) && ts.any (fun t => t == .inf true) then (.nan, flagInvalid)
  else if ts.any (fun t => t == .inf false) then (.inf false, noFlags)
  else if ts.any (fun t => t == .inf true) then (.inf true, noFlags)
  else (numOfRat (ts.foldl (fun a t => a + t.toRat) 0) (!ts.isEmpty && ts.all fun t => t == .fin true 0), noFlags)

/-- Exact sum of two values. -/
def addNum (a b : Num) : Num × Flags := sumNum [a, b]

/-- a × b + c exactly, before the one rounding (R43). -/
def fmaNum (a b c : Num) : Num × Flags :=
  let p := mulNum a b
  let t := sumNum [p.1, c]
  (t.1, orFlags p.2 t.2)

/-- The format codes (R34). -/
abbrev FmtCode := Nat

/-- Width in bits of a format code (R34). -/
def fmtWidth (c : FmtCode) : Nat :=
  match c with
  | 0 => 4
  | 1 => 8
  | 2 => 16
  | 3 => 8
  | 4 => 8
  | 5 => 16
  | 6 => 16
  | _ => 32

/-- INT4, INT8 and INT16. -/
def fmtIsInt (c : FmtCode) : Bool := decide (c ≤ 2)

/-- The float parameters of a float code; codes that are not floats answer FP32. -/
def fmtFloat (c : FmtCode) : FloatFmt :=
  match c with
  | 3 => fmtE4M3
  | 4 => fmtE5M2
  | 5 => fmtBF16
  | 6 => fmtFP16
  | _ => fmtFP32

/-- A type descriptor accepted by R34: code and modifier. -/
def fmtAccepted (ty : Nat) : Bool := decide (ty % 16 ≤ 8) && !(bit ty 4 && decide (7 ≤ ty % 16))

/-- Value of an unscaled element with code `c` from its raw bits (R35, R36, R40 under the modifier). -/
def elemValue (c : FmtCode) (mx : Bool) (raw : Nat) : Num :=
  if fmtIsInt c then
    let i := toSigned (fmtWidth c) raw
    if mx then numOfRat ((i : Rat) * pow2 (-((fmtWidth c : Int) - 2))) false else numOfInt i
  else decodeFloat (fmtFloat c) raw

/-- The block scale of a scale byte (R39): none stands for NaN. -/
def scaleValue (e : Nat) : Option Rat := if e = 0xFF then none else some (pow2 ((e : Int) - 127))

/-- An element multiplied by its block scale (R40): a scale byte 0xFF makes it NaN and raises invalid. -/
def scaledElem (c : FmtCode) (raw e : Nat) : Num × Flags :=
  match scaleValue e with
  | none => (.nan, if elemValue c true raw == .nan then noFlags else flagInvalid)
  | some q =>
    match elemValue c true raw with
    | .fin n m => (.fin n (m * q), noFlags)
    | v => (v, noFlags)

/-- Convert a value to an unscaled element of code `c` (R53, R54). Code 0x8 stores FP32 bits. -/
def encodeElem (c : FmtCode) (sat : Bool) (r : Rounding) (v : Num) : Nat × Flags :=
  if fmtIsInt c then floatToInt (fmtWidth c) sat r v
  else encodeFloat (fmtFloat c) sat r v

/-- emax of an element format under the modifier (R56). -/
def fmtEmax (c : FmtCode) : Int :=
  match c with
  | 3 => 8
  | 4 => 15
  | 6 => 15
  | 5 => 127
  | _ => 0

/-- The largest magnitude of a block, if every element is finite. -/
def blockAmax : List Num → Option Rat
  | [] => some 0
  | .fin _ m :: vs => (blockAmax vs).map fun a => max m a
  | _ :: _ => none

/-- A block of an output with the modifier (R56): its scale byte and its elements, rounded by `r i` for the i-th element. A block whose NaN or infinity gives it the scale byte 0xFF sets no flag: the flag table's "a scale byte 0xFF" is taken of a byte that is read (DEDUCED, log entry 86). -/
def encodeBlock (c : FmtCode) (rs : List Rounding) (vs : List Num) : Nat × List Nat × Flags :=
  match blockAmax vs with
  | none => (0xFF, vs.map fun _ => 0, noFlags)
  | some amax =>
    if amax = 0 then
      (0x00, vs.map fun v => if fmtIsInt c then 0 else signBit (fmtFloat c) v.isNeg, noFlags)
    else
      let X : Int := max (-127) (min 127 (floorLog2 amax - fmtEmax c))
      let one (v : Num) (r : Rounding) : Nat × Flags :=
        let q := v.toRat * pow2 (-X)
        if fmtIsInt c then fitInt (fmtWidth c) true (roundInt r (q * pow2 ((fmtWidth c : Int) - 2)))
        else encodeFloat (fmtFloat c) true r (numOfRat q v.isNeg)
      let es := List.zipWith one vs rs
      ((X + 127).toNat, es.map (·.1), es.foldl (fun a e => orFlags a e.2) noFlags)

/-- The integer output conversion of R55 (multiplier, shift, offset), fitted to `w` bits. -/
def intConv (w : Nat) (sat : Bool) (r : Rounding) (acc : Int) (M : Int) (S : Nat) (Z : Int) : Nat × Flags :=
  let y := if S = 0 then acc * M else roundInt r (mkRat (acc * M) (2 ^ S))
  fitInt w sat (y + Z)

/-- Saturating INT32 accumulation of R46. -/
def satInt32 (x : Int) : Int × Flags :=
  if x < -2147483648 then (-2147483648, flagOverflow)
  else if 2147483647 < x then (2147483647, flagOverflow) else (x, noFlags)

end Sys2Proof.Machine
end

