-- ==== Sys2Proof/Machine/State.lean ====
section
/-!
DEFINITION. The state of the device: every object, queue, page, buffer, engine and pin the spec gives it, as plain data, and the queue of waiting commands.
Sparse maps list only what differs from the default named beside each field; keys of nested numbering are the products named there.
-/

namespace Sys2Proof.Machine

/-- Why the machine can stop. No rule of the spec stops the whole machine, so nothing of this model raises it (safe). -/
inductive Fault where
  /-- Raised by no command: kept so that the type has a member (safe). -/
  | none
deriving DecidableEq, Repr

/-- Why a command can have no meaning. -/
inductive Refusal where
  /-- Raised by an arm of `exec` whose command has no meaning in this model yet (safe). -/
  | notModelled (mnemonic : String)
deriving DecidableEq, Repr

/-- What the device sends outside, newest first in `State.out`. -/
inductive Emission where
  /-- A dictionary, aperture or window read answers a master (R456). -/
  | readData (master value : Nat)
  /-- A USDO upload's confirmed bytes (R436, R454). -/
  | usdoData (bytes : List Byte)
  /-- A USDO download is confirmed (R436). -/
  | usdoDone
  /-- A USDO transfer is aborted with a code (R451, R452). -/
  | usdoAbort (code : Nat)
  /-- An MSI-X message of a vector on a PCIe port (R342, R429). -/
  | msix (port vector : Nat)
  /-- A CAN FD frame (R436). -/
  | can (cobId : Nat) (bytes : List Byte)
  /-- A posted write to host memory (R428, R429). -/
  | hostWrite (port address : Nat) (bytes : List Byte)
  /-- A segment leaves an output raster port: port, line slot, kind, header and data bytes (R371 to R376). -/
  | segment (port lane : Nat) (header : List Nat) (bytes : List Byte)
  /-- An I2C transaction goes out: address, bytes written and bytes to read (R439). -/
  | i2c (address : Nat) (bytes : List Byte) (readLen : Nat)
  /-- 9 clocks and a stop on the I2C bus, which clear it (R439). -/
  | i2cClear
  /-- The mask ROM prints a failure code on the UART (R477). -/
  | uart (code : Nat)
  /-- A land of the package changes its driven level (R440, R515). -/
  | pin (land : Nat) (level : Bool)
deriving DecidableEq, Repr

/-- The contents of a 64 KiB page: bytes not listed are zero, or free values of token `base` (R107, R205). -/
structure Page where
  base : Option Nat
  cells : Cells
deriving DecidableEq, Repr

/-- The page of zeros. -/
def Page.zero : Page := { base := none, cells := [] }

/-- The four states of a physical page (R64). -/
inductive PageState where
  | free
  | mapped
  | shadow
  | retired
deriving DecidableEq, Repr

/-- A physical tile page: its state, its pin count (R87) and its contents. -/
structure Frame where
  st : PageState
  pins : Nat
  page : Page
deriving DecidableEq, Repr

/-- A free frame. -/
def Frame.init : Frame := { st := .free, pins := 0, page := Page.zero }

/-- A data slot of the Cistern: state, region it serves, whether it is charged to the fallback margin (R207), contents, and for a retired slot the step and serial of the commit that replaced it (R211). -/
structure CSlot where
  st : PageState
  part : Nat
  /-- The region page it serves. -/
  rpage : Nat
  margin : Bool
  page : Page
  /-- The partition's step counter, or none for a fallback commit, at which the slot was replaced. -/
  replStep : Option Nat
  replSerial : Nat
  /-- What its command has written of it, while shadow: offsets and lengths. -/
  written : List (Nat × Nat)
deriving DecidableEq, Repr

/-- A free data slot: it holds zero (R197). -/
def CSlot.init : CSlot := { st := .free, part := 0, rpage := 0, margin := false, page := Page.zero, replStep := none, replSerial := 0, written := [] }

/-- A version of a region page: the slot (none: unmapped), the step of the commit that made it (none for a fallback commit or a load) and the serial of that commit. -/
structure Version where
  slot : Option Nat
  step : Option Nat
  serial : Nat
deriving DecidableEq, Repr

/-- What a transaction tag waits for (R206 to R210). -/
inductive TagState where
  | live
  | committed
  | killed
deriving DecidableEq, Repr

/-- A Cistern transaction tag: its partition, whether it is a fallback command's, its state, its footprint and need of slots (R206), and its entries (region page, shadow slot). -/
structure Tag where
  part : Nat
  fallback : Bool
  st : TagState
  step : Nat
  first : Nat
  last : Nat
  need : Nat
  entries : List (Nat × Nat)
deriving DecidableEq, Repr

/-- A read epoch of a reader outside the command system: its partition, c_d and serial (R211). -/
structure Epoch where
  part : Nat
  cd : Nat
  serial : Nat
deriving DecidableEq, Repr

/-- A queue: its pointers, the watch armed for its head (object, value), whether its notification is on its way, the latch of R332 for its head, the slots of latched commands that a kill has left behind the head, the slots of commands that a full withdrawal list keeps from being withdrawn (R307), whether a reclaim has stopped it (R306), and whether a command killed after enable was cleared stays published in it (R96). -/
structure Queue where
  commit : Nat
  head : Nat
  tail : Nat
  watch : Option (Nat × Nat)
  notified : Bool
  latched : Bool
  woken : List Nat
  doomed : List Nat
  stopped : Bool
  rerun : Bool
deriving DecidableEq, Repr

/-- An empty queue. -/
def Queue.init : Queue :=
  { commit := 0, head := 0, tail := 0, watch := none, notified := false, latched := false, woken := [], doomed := [], stopped := false, rerun := false }

/-- Where a published command stands. -/
inductive Phase where
  /-- Not dispatched. -/
  | waiting
  /-- Dispatched; its unit computes. -/
  | running
  /-- Its unit is done; writes are outstanding. -/
  | finished
  /-- A kill is signalled (R89): charged as a kill or not, and what follows: 0 it waits again, 1 it is withdrawn, 2 it is abandoned. -/
  | killing (charged : Bool) (then_ : Nat)
  /-- Its commit request is sent (R86): it can no longer be killed. -/
  | requested
  /-- Granted; remote flips or acknowledgements are outstanding. -/
  | granted
  /-- Refused with a reason; waits for its step (R78). -/
  | refused (reason : Nat)
  /-- Abandoned by the monitor; waits for its step (R314). -/
  | abandoned
  /-- Withdrawn: its step is in the withdrawal list (R307). -/
  | withdrawn
  /-- Committed or retired: the commit pointer passes over it. -/
  | done
deriving DecidableEq, Repr

/-- A pinned page: tile, logical page and frame key (R87). -/
structure Pin where
  tile : Nat
  page : Nat
  frame : Nat
deriving DecidableEq, Repr

/-- A write on its way: to a tile's page or to a region page (tile none), an offset in the page and the bytes. -/
structure Write where
  tile : Option Nat
  page : Nat
  off : Nat
  bytes : List Byte
deriving DecidableEq, Repr

/-- What a dispatched command holds. -/
structure Run where
  /-- The unit key it occupies; 0 when it occupies none (a fence). -/
  unit : Nat
  dispatched : Nat
  finishedAt : Nat
  pins : List Pin
  shadows : List Pin
  /-- c_d of R204 and the commit serial at dispatch. -/
  cd : Nat
  serial : Nat
  readsCistern : Bool
  tag : Option Nat
  outbox : List Write
  /-- Writes sent and not yet acknowledged, each with the data slot it goes to, if it goes to the Cistern. -/
  acks : List (Option Nat)
  /-- Remote tiles whose flip is outstanding after the grant. -/
  flips : List Nat
  flags : Flags
  cut : Bool
  cutScore : Nat
  /-- Region pages a release unmaps at commit (first, count). -/
  unmap : Option (Nat × Nat)
deriving DecidableEq, Repr

/-- A command not dispatched holds nothing. -/
def Run.init : Run :=
  { unit := 0, dispatched := 0, finishedAt := 0, pins := [], shadows := [], cd := 0, serial := 0, readsCistern := false, tag := none,
    outbox := [], acks := [], flips := [], flags := noFlags, cut := false, cutScore := 0, unmap := none }

/-- A command slot: 16 words (R72), the completion record (R77), the step stamp (R81) and the command's standing. -/
structure Slot where
  words : List Word
  rec0 : Word
  rec1 : Word
  /-- The partition it was published for. -/
  part : Nat
  step : Nat
  /-- Stamped from the fallback counter (R313). -/
  fallback : Bool
  phase : Phase
  run : Run
deriving DecidableEq, Repr

/-- A cleared slot. -/
def Slot.init : Slot :=
  { words := List.replicate 16 0, rec0 := 0, rec1 := 0, part := 0, step := 0, fallback := false, phase := .waiting, run := Run.init }

/-- An accounting record (R308): 48-bit counts with wrap flags. -/
structure Acct where
  exec : Nat
  execWrap : Bool
  wait : Nat
  waitWrap : Bool
  lost : Nat
  lostWrap : Bool
  kills : Nat
  withdrawals : Nat
deriving DecidableEq, Repr

/-- A cleared record. -/
def Acct.init : Acct :=
  { exec := 0, execWrap := false, wait := 0, waitWrap := false, lost := 0, lostWrap := false, kills := 0, withdrawals := 0 }

/-- An entry of a withdrawal list (R307): step, signal object and increment. -/
structure Withdrawn where
  step : Nat
  object : Nat
  increment : Nat
deriving DecidableEq, Repr

/-- An outside event that a DET partition has not yet admitted (R354). -/
inductive DetEvent where
  | command (value master : Nat)
  | sync (object : Nat) (set : Bool) (value master : Nat)
  | tail (eng q value master : Nat)
  | mark (job : Nat) (set : Bool)
  | frameIn (k : Nat)
deriving DecidableEq, Repr

/-- A lent tile: tile, banks, queues and borrower (R304). -/
structure Loan where
  tile : Nat
  banks : Nat
  queues : Nat
  borrower : Nat
deriving DecidableEq, Repr

/-- What a load leaves in a partition (R185): the relocated graphs, and what the device keeps of the image. -/
structure Loaded where
  imageId : Nat
  /-- Image tile t runs on logical tile `binding[t]`. -/
  binding : List Nat
  /-- The rim engine of each rim stream (R182). -/
  rims : List Nat
  /-- Resident and working pages of each bank of each image tile, added (R162, R181). -/
  plan : List (List Nat)
  /-- Resident pages: image tile, page, and the length and weights offset of their bytes (R183). -/
  resident : List (Nat × Nat × Nat × Nat)
  /-- Bytes of the weights section, of which the region holds two copies (R212, R213). -/
  weights : Nat
  templates : List Byte
  fallbacks : List Byte
deriving DecidableEq, Repr

/-- The hidden side of a partition: what configure latched, and the machinery of commits, loans, withdrawals and resets. -/
structure Part where
  /-- Tiles, sync range and share in force since the last configure (R297, R325). -/
  tiles : Nat
  syncBase : Nat
  syncCount : Nat
  share : Nat
  latencyCritical : Bool
  faultAction : Nat
  fbAllocator : Nat
  withdrawals : List Withdrawn
  marks : List Nat
  loans : List Loan
  loaded : Option Loaded
  /-- State entered at cycle 69 of R318 and the cause recorded with it. -/
  resetTo : Nat
  resetCause : Nat
  held : Bool
  detPending : List DetEvent
  /-- A reclaim in progress: the tiles still to return (R306). -/
  reclaiming : List Nat
  /-- Commit grants held during a tile move (R581). -/
  grantsHeld : Bool
  /-- Logical tiles halted by its job faults, lent tiles among them (R317). -/
  halted : List Nat
deriving DecidableEq, Repr

/-- An unconfigured partition. -/
def Part.init : Part :=
  { tiles := 0, syncBase := 0, syncCount := 0, share := 0, latencyCritical := false, faultAction := 1, fbAllocator := 0, withdrawals := [], marks := [], loans := [],
    loaded := none, resetTo := 0, resetCause := 0, held := false, detPending := [], reclaiming := [], grantsHeld := false, halted := [] }

/-- Who sends an update to the sync store (R333): an engine that commits, the commit unit of a partition that retires, the watch register of a queue, a host watch, a software master, or a fill that a master started. While a source holds an update it sends no other (R320). -/
inductive Source where
  | engine (eng : Nat)
  | retire (p : Nat)
  | watch (eng q : Nat)
  | hostWatch (w : Nat)
  | master (m : Nat)
  | fill (m : Nat)
deriving DecidableEq, Repr

/-- An update of a sync count on its way (R333): its source, and the partition that sends it, 16 for software (R323). -/
structure Update where
  object : Nat
  set : Bool
  value : Nat
  source : Source
  part : Nat
deriving DecidableEq, Repr

/-- The queue of a bank that an update takes (R320, R352). -/
inductive BankClass where
  | lc
  | be
  | det
deriving DecidableEq, Repr

/-- The update queues of a sync-store bank: latency-critical, best-effort and DET (R320, R352). -/
structure Bank where
  lc : List Update
  be : List Update
  det : List Update
deriving DecidableEq, Repr

/-- Empty queues. -/
def Bank.init : Bank := { lc := [], be := [], det := [] }

/-- A fill in progress: next object, objects left, value and the master that started it (R340). -/
structure Fill where
  next : Nat
  left : Nat
  value : Nat
  master : Nat
deriving DecidableEq, Repr

/-- A captured event (R590). -/
structure Capture where
  code : Nat
  part : Nat
  inst : Nat
  p0 : Nat
  p1 : Nat
  p2 : Nat
  time : Nat
deriving DecidableEq, Repr

/-- The Almanac (R589 to R599). -/
structure Almanac where
  /-- Slots 0 to 65,535 as 32-byte values; an unlisted slot is all zero. -/
  slots : SMap (List Word)
  /-- Permanent slots in which a record has been placed since the last clear. -/
  used : List Nat
  queue : List Capture
  /-- Captures discarded since the last record of code 0x0701. -/
  discarded : Nat
  /-- The last circulating slot written, if any. -/
  lastCirc : Option Nat
  frozen : Bool
  snapshot : List Word
  /-- Permanent slots whose mirror write is pending, those with mark K marked. -/
  pending : List (Nat × Bool)
  region : Nat
  /-- Regions being erased (R596, R598). -/
  erasing : List Nat
  mirrorFailed : Bool
deriving DecidableEq, Repr

/-- The recorder before Weir restores it. -/
def Almanac.init : Almanac :=
  { slots := [], used := [], queue := [], discarded := 0, lastCirc := none, frozen := false,
    snapshot := List.replicate 8 0, pending := [], region := 0, erasing := [], mirrorFailed := false }

/-- The latches of a dictionary master (R459, R460): object key and half-word. -/
structure Latches where
  read : Option (Nat × Nat)
  write : Option (Nat × Nat)
deriving DecidableEq, Repr

/-- Both latches empty. -/
def Latches.init : Latches := { read := none, write := none }

/-- A published step of a graph instance: where its command stands, its step number, and whether the monitor may abandon it (R277, R283). -/
structure PubStep where
  eng : Nat
  q : Nat
  slot : Nat
  step : Nat
  output : Bool
deriving DecidableEq, Repr

/-- A graph instance (R281, R285, R288): its graph's kind (0 source, 1 output, 2 warm-up, 3 fallback) and descriptor, its frame counters and phase, the chunk it publishes (warm-up), its next step and what it has published. -/
structure Inst where
  kind : Nat
  graph : Nat
  o : Nat
  m : Nat
  t8 : Nat
  chunk : Nat
  next : Nat
  steps : List PubStep
  /-- The step number of its finish step, or of a warm-up chunk's last step, once published. -/
  finish : Option Nat
  /-- That step has committed (R286). -/
  passed : Bool
  /-- The count of cut_object when a source graph's publication began (R286). -/
  cutCount : Nat
  /-- A fallback instance in its copy variant (R285). -/
  copy : Bool
  /-- The first advance of a warm-up is in this instance (patch kind 0x5). -/
  firstAdvance : Bool
  /-- Its output steps are abandoned: those not yet published are published as abandoned, in their place of the commit order (R314). -/
  dropped : Bool
deriving DecidableEq, Repr

/-- A frame in a stream's source ring (R274): its number and its ancillary bytes. Frame m stands in buffer m mod src_ring. -/
structure RingFrame where
  m : Nat
  anc : List Byte
deriving DecidableEq, Repr

/-- A warm-up (R288): its first frame, the frames still to rebuild, the next chunk of the oldest, whether its first advance is taken, and the last frame of which every chunk is taken. -/
structure Warm where
  first : Nat
  frames : List Nat
  chunk : Nat
  advanced : Bool
  last : Nat
  /-- Step number of the last step of it that is published. -/
  lastStep : Option Nat
deriving DecidableEq, Repr

/-- The machinery of a frame sequencer (R270 to R291). -/
structure Seq where
  /-- Instances with steps still to publish, in order. -/
  pending : List Inst
  /-- The chunk in publication (R288). -/
  chunk : Option Inst
  /-- Instances fully published whose steps are still watched. -/
  live : List Inst
  ring : List RingFrame
  /-- The next source frame expected; before the start, the frames counted so far (R274). -/
  mNext : Nat
  /-- Source frames admitted of late. -/
  admitted : List Nat
  /-- The timeline (R273): the stream's latency in compute cycles, the first output frame, and the number of its boundary in the output's timing generator. -/
  lat : Nat
  oBase : Nat
  nBase : Nat
  /-- Arrival start of a frame that waits for an admission point (R354). -/
  waits : Option Nat
  /-- A force cut that the next admission takes (R286). -/
  force : Bool
  /-- Frames before which a cut was declared. -/
  cuts : List Nat
  /-- Source frames whose source graph is complete (R285). -/
  sourceDone : List Nat
  /-- The last period was a gap: the next admission starts a warm-up (R287). -/
  gapBefore : Bool
  warm : Option Warm
  /-- The cycle in which the last advance of the warm-up committed with no chunk left (R288, R291). -/
  endedAt : Option Nat
  /-- Chunks published in the present output period. -/
  chunksThis : Nat
  /-- Nothing is published until the next admission (R585). -/
  paused : Bool
  stopReq : Bool
  /-- The next output frame whose D(o) has not come, and the first frame not yet instantiated or handed over. -/
  oNext : Nat
  oTop : Nat
deriving DecidableEq, Repr

/-- A stopped sequencer. -/
def Seq.init : Seq :=
  { pending := [], chunk := none, live := [], ring := [], mNext := 0, admitted := [], lat := 0, oBase := 0, nBase := 0,
    waits := none, force := false, cuts := [], sourceDone := [], gapBefore := false, warm := none, endedAt := none, chunksThis := 0,
    paused := false, stopReq := false, oNext := 0, oTop := 0 }

/-- A picture in a partition's region: its region, byte offset of line 0, line stride, picture code and size. -/
structure Picture where
  part : Nat
  offset : Nat
  stride : Nat
  code : Nat
  w : Nat
  h : Nat
deriving DecidableEq, Repr

/-- An output frame the deadline monitor watches (R283, R310 to R315). -/
structure Watched where
  o : Nat
  /-- Step number of the finish step; none until it is published, and for a frame handed over as a fallback frame. -/
  finish : Option Nat
  /-- The cycle in which the step counter passed the finish step. -/
  finishedAt : Option Nat
  /-- none: undecided; some false: primary; some true: fallback. -/
  fallback : Option Bool
  /-- Switched at its checkpoint, not handed over (R311). -/
  switched : Bool
  /-- Fallback step number of the last step of the fallback instance, once published. -/
  fbLast : Option Nat
  /-- The picture that the primary graph, and the one that the fallback graph, writes. -/
  primary : Option Picture
  fb : Option Picture
  presented : Bool
deriving DecidableEq, Repr

/-- A present (R284): the frame, its stream, its picture, its read epoch, and the overlay half attached to it. -/
structure Present where
  k : Nat
  o : Nat
  /-- D(o) in compute cycles when the frame was presented. -/
  d : Nat
  pic : Picture
  fallback : Bool
  late : Bool
  cd : Nat
  serial : Nat
  half : Option Nat
  /-- Its read epoch is open. -/
  reading : Bool
deriving DecidableEq, Repr

/-- The states of a line-buffer entry (R383). -/
inductive EntryState where
  | fetching
  | filled
  | sending
deriving DecidableEq, Repr

/-- A line-buffer entry that is not free: its line, its state and its bytes. -/
structure LineEntry where
  line : Nat
  st : EntryState
  bytes : List Byte
deriving DecidableEq, Repr

/-- A timing generator (R382, R532 to R535): the number of its next frame boundary since the enable, and that boundary's exact time and the frame period in units of 1/(5 hz) compute cycle, hz being the integer rate. -/
structure Gen where
  next : Nat
  exact : Nat
  period : Nat
  /-- Corrections of the frames that follow, in the same units (R534). -/
  corr : List Int
  /-- What each of them would be without the limit of clock.genlock_slew (R534, R544). -/
  error : Int
  /-- It runs without an accepted reference that it should have. -/
  holdover : Bool
  /-- It has taken the phase of a pulse. -/
  aligned : Bool
deriving DecidableEq, Repr

/-- The input frame a port is receiving (R379 to R381): its counter, its number in each stream that takes it, its start, the line and byte offset expected next, what has been concealed, and its ancillary bytes. -/
structure InFrame where
  counter : Nat
  targets : List (Nat × Nat)
  start : Nat
  line : Nat
  off : Nat
  concealed : Nat
  crcs : Nat
  anc : List Byte
deriving DecidableEq, Repr

/-- A segment on its way out, or as a pass-through path holds it: line slot, header block and data bytes (R372, R489). -/
structure Segment where
  slot : Nat
  header : Nat
  bytes : List Byte
deriving DecidableEq, Repr

/-- The machinery of a raster port (R367 to R397). -/
structure Port where
  gen : Option Gen
  entries : List LineEntry
  nextFetch : Nat
  /-- The next line slot of the frame being sent, and the frame's D. -/
  slotLine : Nat
  start : Nat
  current : Option Present
  /-- The present whose lines are being fetched ahead of its D. -/
  loading : Option Present
  waiting : List Present
  lastLine : List Byte
  lastFull : Option Present
  /-- Frames since the last one sent in full (R390), and whether the present frame is held. -/
  sinceFull : Nat
  held : Bool
  /-- The frame that the compare found equal (R389). -/
  equalFor : Option Nat
  underrunThis : Bool
  /-- Segments of the blanking that are still to be sent, and whether the audio frame in transmission is muted (R396). -/
  blank : List Segment
  mutedNow : Bool
  /-- Sample sets sent for the next frame. -/
  setsNext : Nat
  inFrame : Option InFrame
  lastStart : Nat
  lastCounter : Nat
  /-- Ancillary bytes and sample sets received for the next input frame. -/
  nextAnc : List Byte
  nextSets : Nat
  /-- Segments concealed, and crc failures among them, that belong to the next input frame; and whether its timing segment is one of them (R380, R381). -/
  nextConcealed : Nat
  nextCrcs : Nat
  timingBad : Bool
  /-- The audio frame of 64 sets in transmission, plus 1; 0 for none of this video frame (R396). -/
  audioNo : Nat
  /-- Alignment sequence numbers seen on each lane. -/
  alignSeq : List Nat
deriving DecidableEq, Repr

/-- A disabled port. -/
def Port.init : Port :=
  { gen := none, entries := [], nextFetch := 0, slotLine := 0, start := 0, current := none, loading := none, waiting := [], lastLine := [],
    lastFull := none, sinceFull := 0, held := false, equalFor := none, underrunThis := false, blank := [], mutedNow := false, setsNext := 0, inFrame := none,
    lastStart := 0, lastCounter := 0xFFFFFFFF, nextAnc := [], nextSets := 0,
    nextConcealed := 0, nextCrcs := 0, timingBad := false, audioNo := 0, alignSeq := [0, 0, 0, 0] }

/-- A sample set in the delay line (R391 to R393): the compute cycle of its output instant and its words. -/
structure SampleSet where
  instant : Nat
  words : List Word
deriving DecidableEq, Repr

/-- The audio of a stream (R391 to R395): its delayed sets, the last good sample of each channel, the input instant of the first set, the sets arrived since, the sets repeated less those dropped (R395), the sets sent, and those that left the line unsent: the line was full, or their frame had passed (R398). -/
structure Audio where
  sets : List SampleSet
  lastGood : List Word
  first : Option Nat
  arrived : Nat
  adjust : Int
  sent : Nat
  lost : Nat
deriving DecidableEq, Repr

/-- No audio. -/
def Audio.init : Audio := { sets := [], lastGood := [], first := none, arrived := 0, adjust := 0, sent := 0, lost := 0 }

/-- A texture copied into bin memory (R409). -/
structure Texture where
  rgba : Bool
  w : Nat
  h : Nat
  bytes : List Byte
deriving DecidableEq, Repr

/-- A primitive in bin memory: its layer, the state record in force, its texture, and its vertices (x, y, z, colours, u, v). -/
structure Prim where
  layer : Nat
  rect : Bool
  state : Nat
  texture : Option Texture
  vertices : List (List Int)
deriving DecidableEq, Repr

/-- The clip and clear depth of a layer's list (R405). -/
structure LayerHead where
  layer : Nat
  x0 : Nat
  y0 : Nat
  x1 : Nat
  y1 : Nat
  clear : Nat
deriving DecidableEq, Repr

/-- A half of a stream's bin memory: the frame it was built for, layer headers and primitives in drawing order. -/
structure Half where
  id : Nat
  o : Nat
  w : Nat
  h : Nat
  heads : List LayerHead
  prims : List Prim
deriving DecidableEq, Repr

/-- The overlay of a stream (R402 to R420). -/
structure Overlay where
  current : Option Half
  /-- The half that a binning has built for the next frame. -/
  building : Option Half
  /-- A half that is no longer current and that a DMA frame still uses (R417). -/
  held : Option Half
  /-- What the running binning found wrong: reason, layer, row. -/
  fail : Option (Nat × Nat × Nat)
  /-- The frame whose binning has started, and the frame whose deadline has passed last. -/
  binned : Option Nat
  frame : Option Nat
  /-- D of the frame whose binning has started (R410, R420). -/
  due : Nat
  /-- Strips 0 and 1: the frame and row each holds and its pixels (c0, c1, c2, a), line by line. -/
  strips : SMap (Nat × Nat × List (List Nat))
  epochs : List Epoch
  nextId : Nat
deriving DecidableEq, Repr

/-- No overlay. -/
def Overlay.init : Overlay :=
  { current := none, building := none, held := none, fail := none, binned := none, frame := none, due := 0, strips := [], epochs := [], nextId := 1 }

/-- An output frame that a DMA ring has begun (R429): its descriptor's ring position, its present, the next band to write and the bytes already sent. -/
structure DmaFrame where
  index : Nat
  desc : HostDesc
  present : Present
  d : Nat
  band : Nat
  sent : Nat
deriving DecidableEq, Repr

/-- A DMA ring (R426 to R432): descriptors held by the device from the head on, frames in flight oldest first, frames skipped since the last completed descriptor, and its output timing generator. -/
structure Ring where
  held : List HostDesc
  frames : List DmaFrame
  skips : Nat
  gen : Option Gen
deriving DecidableEq, Repr

/-- A disabled ring. -/
def Ring.init : Ring := { held := [], frames := [], skips := 0, gen := none }

/-- A descriptor of an abandoned output frame that still has to be written: its ring, result, bytes and frame counter, and the cycle from which it waits (R431). -/
structure Owed where
  ring : Nat
  result : Nat
  bytes : Nat
  frame : Nat
  since : Nat
deriving DecidableEq, Repr

/-- A PCIe port: power state D3hot (R424), the MSI-X vectors that are not masked and those pending (R425); the cycle in which it last sent a posted write, and the descriptor writes that wait for credits (R431). -/
structure Pcie where
  d3 : Bool
  unmasked : List Nat
  msixPending : List Nat
  lastSent : Nat
  owed : List Owed
deriving DecidableEq, Repr

/-- A port in D0 with every vector masked. -/
def Pcie.init : Pcie := { d3 := false, unmasked := [], msixPending := [], lastSent := 0, owed := [] }

/-- The CAN node (R436): NMT state 0 initialising, 4 stopped, 5 operational, 127 pre-operational; SYNCs since each TPDO was last sent; last times in µs of can.timestamp. -/
structure Can where
  nmt : Nat
  busOff : Bool
  bitrate : Nat
  syncs : SMap Nat
  tpdoAt : SMap Nat
  heartbeatAt : Nat
  emcyAt : Option Nat
  /-- EMCY data held by the inhibit time, oldest first. -/
  emcyQueue : List (List Byte)
deriving DecidableEq, Repr

/-- The node before power good. -/
def Can.init : Can := { nmt := 0, busOff := false, bitrate := 0x22, syncs := [], tpdoAt := [], heartbeatAt := 0, emcyAt := none, emcyQueue := [] }

/-- The low-speed lands (R438 to R441): the I2C buffer, switches in progress (land to the tick of their start), and the levels that pins drive. -/
structure Lands where
  i2cBuf : Cells
  switching : SMap Nat
  driven : SMap Bool
  /-- The mute request as sampled, and the cycle at which its release takes effect (R396). -/
  muteLevel : Bool
  muteHold : Option Nat
  /-- The tick at which a running frame pulse of function 0x5 ends (R440). -/
  pulseEnd : Option Nat
deriving DecidableEq, Repr

/-- Idle lands. -/
def Lands.init : Lands := { i2cBuf := [], switching := [], driven := [], muteLevel := false, muteHold := none, pulseEnd := none }

/-- Clocks and calendar (R524 to R541): whether clocks run, ticks of the compute clock since power-on, whether clock.cycle counts, the calendar remainder in units of 1/(7 × 10^9) ns, and the 1PPS and genlock disciplines. -/
structure Clocks where
  running : Bool
  ticks : Nat
  started : Bool
  /-- The alignment step has completed since power-on (R528, R546, R622). -/
  aligned : Bool
  calFrac : Nat
  /-- Tick of the last accepted 1PPS edge; frequency errors of the last 8 edges in ppb; consecutive good edges. -/
  ppsEdge : Option Nat
  ppsErrors : List Int
  ppsGood : Nat
  /-- The tick from which no edge has been accepted, and time.steps at the last accepted edge. -/
  ppsFrom : Nat
  ppsSteps : Nat
  /-- Tick of the last pulse, agreeing periods so far, and the last 16 accepted periods in cycles. -/
  pulse : Option Nat
  pulses : Nat
  periods : List Nat
deriving DecidableEq, Repr

/-- Clocks at power-on. -/
def Clocks.init : Clocks :=
  { running := false, ticks := 0, started := false, aligned := false, calFrac := 0, ppsEdge := none, ppsErrors := [], ppsGood := 0, ppsFrom := 0, ppsSteps := 0,
    pulse := none, pulses := 0, periods := [] }

/-- A temperature sensor (R511 to R514): latest reading in 0.25 °C, failed, and whether the latest sample was at 110 °C or above. -/
structure Sensor where
  seen : Bool
  reading : Int
  failed : Bool
  hot : Bool
deriving DecidableEq, Repr

/-- A sensor not sampled yet. -/
def Sensor.init : Sensor := { seen := false, reading := 0, failed := false, hot := false }

/-- Power and trips (R505 to R517): PWRGOOD, the TRIP_N level, sensors, the tick of a compute trip whose clocks still run, and of a hub trip. -/
structure Power where
  pwrgood : Bool
  tripN : Bool
  sensors : SMap Sensor
  computeTrip : Option Nat
  hubTrip : Option Nat
  /-- Compute clocks and HBM are stopped (R515). -/
  computeOff : Bool
  /-- The declarations are no longer writable (R518). -/
  declLocked : Bool
deriving DecidableEq, Repr

/-- Power off. -/
def Power.init : Power := { pwrgood := false, tripN := true, sensors := [], computeTrip := none, hubTrip := none, computeOff := true, declLocked := false }

/-- A running firmware command that takes time (R492, R493): its code, target, the bytes to program and the block it starts at. -/
structure FwCmd where
  code : Nat
  target : Nat
  block : Nat
  bytes : List Byte
  failed : Option Nat
deriving DecidableEq, Repr

/-- Weir and Rill (R475 to R486). -/
structure Firmware where
  weirUp : Bool
  /-- Weir restarts after a lockstep mismatch: captures lost meanwhile (R584). -/
  weirRestart : Option Nat
  activeWeir : Nat
  /-- The Rill slot that a start or restart is reading: slot, restart (R484) or start. -/
  reading : Option (Nat × Bool)
  /-- Tick of release of the cores, and tick of the last kick. -/
  released : Option Nat
  kicked : Option Nat
  /-- Ticks of the restarts made (R486). -/
  restarts : List Nat
  cmd : Option FwCmd
  staging : SMap Word
  compat : List (List Word)
deriving DecidableEq, Repr

/-- No firmware runs. -/
def Firmware.init : Firmware :=
  { weirUp := false, weirRestart := none, activeWeir := 0, reading := none, released := none, kicked := none, restarts := [], cmd := none,
    staging := [], compat := [] }

/-- A pass-through path (R489): the segments it holds, oldest first, the bytes of the line before and of the line in progress, and the words of the last good audio segment. -/
structure Path where
  segs : List Segment
  prev : List Byte
  cur : List Byte
  last : List Byte
deriving DecidableEq, Repr

/-- A stopped path. -/
def Path.init : Path := { segs := [], prev := [], cur := [], last := [] }

/-- A Uzoquin link (R168, R169, R564): lanes out of service by direction and group; groups retraining onto their spare; the tick at which a retrain failed, whether the second attempt is made, and the ticks of the last replays. -/
structure Link where
  /-- (direction, group, lane) of lanes that take no data. -/
  out : List (Nat × Nat × Nat)
  groups : List (Nat × Nat)
  failedAt : Option Nat
  retried : Bool
  replays : List Nat
deriving DecidableEq, Repr

/-- A link that has not been trained. -/
def Link.init : Link := { out := [], groups := [], failedAt := none, retried := false, replays := [] }

/-- A running load (R185): partition, slot, its phase (R192: 1 checking, 2 weights, 3 pages, 4 relocation), and the bytes that the host read gives (none for a flash slot). -/
structure LoadRun where
  part : Nat
  slot : Nat
  phase : Nat
  image : List Byte
deriving DecidableEq, Repr

/-- A tile move (R581): failed site, target site, cycle of detection, and the owning partition. -/
structure Evac where
  site : Nat
  target : Nat
  start : Nat
  part : Nat
deriving DecidableEq, Repr

/-- The fabric (R157 to R192, R557 to R565): the part's board record, defect entries, row repairs, links, loads and evacuations. -/
structure Fabric where
  board : Board
  /-- The defect map: entry to its two words (R557). -/
  defects : SMap (Nat × Nat)
  /-- Learned entries that found the map full: the unit is hidden all the same (R557). -/
  unlisted : List (Nat × Nat)
  /-- The entries that the running step from 4 to 7 reads: those that stood when it started (R552, R566). -/
  stepMap : Option (List (Nat × Nat))
  /-- Rows that a spare row replaces: site, bank, row (R563). -/
  repairs : List (Nat × Nat × Nat)
  links : SMap Link
  load : Option LoadRun
  evac : List Evac
  /-- Physical site of each logical tile, plus one; 0 when none carries it (R157, R556). -/
  siteOf : SMap Nat
  /-- Motion engines whose units are served by their partner (R583). -/
  motionFailed : List Nat
  /-- Partitions whose reset waits for an evacuation (R587). -/
  resetWaits : List Nat
  /-- Sites whose tile fault waits for the end of a restart of Weir (R584). -/
  faultWaits : List Nat
deriving DecidableEq, Repr

/-- Queues, slots, units and memory of tiles and engines (R62 to R96, R139, R217, R241). Engines: tiles 0 to 31, rim 32 to 35, gather 36 to 39, motion 40 to 47.
Keys: queue eng × 8 + q; slot (eng × 8 + q) × 256 + slot; unit as `Ops`; tile page tile × 768 + page; frame site × 768 + frame. -/
structure Tiles where
  queues : SMap Queue
  slots : SMap Slot
  units : SMap Nat
  pageMap : SMap Nat
  frames : SMap Frame
  /-- Rotation of arbitration among best-effort partitions (R300, R301), by unit. -/
  turns : SMap Nat
  /-- The idle weight buffer of each rim engine: the slot key, plus one, of the command whose weights it loads (R139, R140). -/
  loads : SMap Nat
deriving DecidableEq, Repr

/-- The page that a migration or a rebuild is moving (R231, R232): its region page, its new slot once that is allocated, charged as a shadow, and whether a command has since taken a shadow of the page, so that it is skipped. -/
structure PageMove where
  part : Nat
  page : Nat
  slot : Option Nat
  skip : Bool
deriving DecidableEq, Repr

/-- The Cistern (R193 to R239): data slots, page versions, tags, epochs, lost and retraining pseudo-channels, stale lines, migration, rebuild and damaged pages. -/
structure Cistern where
  slots : SMap CSlot
  pages : SMap (List Version)
  tags : SMap Tag
  /-- Serial of the next commit of any partition's region. -/
  serial : Nat
  lostPcs : List (Nat × Nat)
  pcRetrain : Option (Nat × Nat)
  pcWaiting : List (Nat × Nat)
  /-- Data lines left stale while their channel is out: slot key and line (R229). -/
  stale : List (Nat × Nat)
  /-- A running migration (R232): partition, next region page, pages left, target. -/
  migrate : Option (Nat × Nat × Nat × Nat)
  /-- The page that the migration is moving, and the one that the rebuild is moving. -/
  moving : Option PageMove
  rebuilding : Option PageMove
  damaged : List Nat
deriving DecidableEq, Repr

/-- What waits behind a read of a master that its own earlier update of the object keeps waiting (R335, R456): the read's answer, over the bus or as a USDO upload, or a later access. -/
inductive Parked where
  | answer (object : Nat) (usdo : Bool)
  | access (c : Instr)
deriving DecidableEq, Repr

/-- The sync store (R320, R330 to R346): counts that are not 0, bank queues, fill, host watches armed. -/
structure SyncStore where
  counts : SMap Word
  banks : SMap Bank
  /-- Updates that their sources hold, because a queue is full, in the order of sending (R320). -/
  held : List Update
  /-- The notification queue of each compute die: queues whose watches have notified, in order (R320). -/
  notices : SMap (List (Nat × Nat))
  /-- Reads that wait, and the accesses behind them, of each master (R335, R456). -/
  parked : SMap (List Parked)
  fill : Option Fill
  /-- Host watches armed: the object and value in effect at the arming (R346). -/
  hostArmed : SMap (Nat × Nat)
deriving DecidableEq, Repr

/-- Partitions, accounting and determinism (R297 to R366). -/
structure Parts where
  parts : SMap Part
  accts : SMap Acct
  acctLatch : SMap Nat
  /-- The first perturbation since det.active last changed is recorded (R356). -/
  perturbed : Bool
deriving DecidableEq, Repr

/-- Streams: sequencers, watched frames, presents, overlays and audio (R270 to R316, R391 to R420). -/
structure Streams where
  seqs : SMap Seq
  watched : SMap (List Watched)
  overlays : SMap Overlay
  audio : SMap Audio
  /-- Fallback instances that wait for the monitor's publication port, in order, each with its sequencer (R312). -/
  fallback : List (Nat × Inst)
  /-- The sequencer that the publication port served last (R282). -/
  served : Nat
deriving DecidableEq, Repr

/-- Raster and host interfaces (R367 to R445, R488). -/
structure Ports where
  raster : SMap Port
  rings : SMap Ring
  pcie : SMap Pcie
  paths : SMap Path
  /-- The words of the MSI-X tables (R425): by port × 8192 + entry × 4 + word. -/
  msixTable : SMap Nat
  can : Can
  lands : Lands
deriving DecidableEq, Repr

/-- What the present compute cycle has seen, for the rules that say how events of one cycle meet (R18, R19, R81, R91, R234, R343): a tick of the clock clears it. -/
structure Now where
  /-- Bits of numfmt.flags that commits of this cycle set (R18, R60). -/
  numfmt : Nat
  /-- Counts that this cycle's events added to performance counters, newest first: counter, amount, and the value before (R19, R609, R616). -/
  perf : List (Nat × Nat × Nat)
  /-- Counters whose event was written in this cycle: the new event counts from the next (R613). -/
  perfNew : List Nat
  /-- Execution cycles charged by this cycle's commits: accounting record, cycles (R616). -/
  charged : List (Nat × Nat)
  /-- Commands stamped in this cycle from their partition's step allocator: engine, queue, slot, in the order of their steps (R81). -/
  stamped : List (Nat × Nat × Nat)
  /-- Commands published in this cycle: engine, queue, slot (R91). -/
  published : List (Nat × Nat × Nat)
  /-- Commands granted, or whose pages flipped on a remote tile, in this cycle: their signal leaves in a later one (R86). -/
  landed : List (Nat × Nat × Nat)
  /-- Pages replaced in this cycle: tile, page, and the frame that served them before (R91, R92). -/
  flipped : List (Nat × Nat × Nat)
  /-- The commit serial before the first commit of this cycle, if there was one, and the partitions whose step counter moved, each with its earlier value (R234). -/
  serial : Option Nat
  steps : List (Nat × Nat)
  /-- Region pages that a migration or a rebuild switched in this cycle: partition, page, the old slot and the new (R234). -/
  switched : List (Nat × Nat × Nat × Nat)
  /-- Set updates that entered a queue of the sync store in this cycle: the queue's class and the object (R343). -/
  sets : List (BankClass × Nat)
  /-- Selection points at which a command was dispatched in this cycle (R300, R308). -/
  won : List Nat
  /-- Source frames admitted in this cycle: sequencer and frame (R291). -/
  admitted : List (Nat × Nat)
  /-- Partitions to which an outside event came in this cycle, one entry for each event (R354, R363). -/
  arrived : List Nat
  /-- The hold of R360 as it stood before a write of this cycle: partition, hold enable, stop_step (R363). -/
  holds : List (Nat × Bool × Nat)
  /-- The muted ports before a mute request of this cycle (R397). -/
  mute : Option Nat
  /-- The clocks and time.pps_state before the accepted 1PPS edge of this cycle (R544). -/
  pps : Option (Clocks × Nat)
  /-- Captures of this cycle, at the end of the event queue (R590). -/
  captures : Nat
deriving DecidableEq, Repr

/-- A cycle in which nothing has happened yet. -/
def Now.init : Now := { numfmt := 0, perf := [], perfNew := [], charged := [], stamped := [], published := [], landed := [], flipped := [], serial := none, steps := [], switched := [], sets := [], won := [], admitted := [], arrived := [], holds := [], mute := none, pps := none, captures := 0 }

/-- The state of the device. -/
structure State where
  /-- The commands that wait, first in, first out (the model's own queue). -/
  pending : List Instr
  /-- What has been sent outside, newest first (the model's own log). -/
  out : List Emission
  /-- The number of free values used so far (the model's own counter). -/
  free : Nat
  /-- The object dictionary: index × 256 + subindex to value; an unlisted object holds its default (R15, R450). -/
  objs : SMap DWord
  latches : SMap Latches
  flash : Cells
  clk : Clocks
  pw : Power
  fw : Firmware
  fab : Fabric
  tl : Tiles
  ci : Cistern
  pt : Parts
  sy : SyncStore
  st : Streams
  io : Ports
  alm : Almanac
  /-- The events of the present compute cycle (the model's own; log entry 84). -/
  now : Now
deriving DecidableEq, Repr

/-- No fabric is trained. -/
def Fabric.init : Fabric :=
  { board := Board.blank, defects := [], unlisted := [], stepMap := none, repairs := [], links := [], load := none, evac := [], siteOf := [], motionFailed := [], resetWaits := [], faultWaits := [] }

/-- Empty queues and free pages. -/
def Tiles.init : Tiles := { queues := [], slots := [], units := [], pageMap := [], frames := [], turns := [], loads := [] }

/-- An unused Cistern. -/
def Cistern.init : Cistern :=
  { slots := [], pages := [], tags := [], serial := 0, lostPcs := [], pcRetrain := none, pcWaiting := [], stale := [],
    migrate := none, moving := none, rebuilding := none, damaged := [] }

/-- Every count zero. -/
def SyncStore.init : SyncStore := { counts := [], banks := [], held := [], notices := [], parked := [], fill := none, hostArmed := [] }

/-- Every partition unconfigured. -/
def Parts.init : Parts := { parts := [], accts := [], acctLatch := [], perturbed := false }

/-- No stream runs. -/
def Streams.init : Streams := { seqs := [], watched := [], overlays := [], audio := [], fallback := [], served := 127 }

/-- Interfaces idle. -/
def Ports.init : Ports := { raster := [], rings := [], pcie := [], paths := [], msixTable := [], can := Can.init, lands := Lands.init }

/-- The machine right after reset: power is off, every object holds its default, and the queue is empty. -/
def State.reset : State :=
  { pending := [], out := [], free := 0, objs := [], latches := [], flash := [], clk := Clocks.init, pw := Power.init, fw := Firmware.init,
    fab := Fabric.init, tl := Tiles.init, ci := Cistern.init, pt := Parts.init, sy := SyncStore.init, st := Streams.init, io := Ports.init,
    alm := Almanac.init, now := Now.init }

end Sys2Proof.Machine
end

