-- ==== Sys2Proof/WellFormed.lean ====
section
/-!
DEFINITION. The ranges of a command's operands: an instance number that the spec's tables give, a master of R456, a position in a queue.
-/

namespace Sys2Proof

/-- Slots per queue: 256 on a tile, 64 on the other engines (R72, R139, R217, R242). -/
def slotsOf (eng : Nat) : Nat := if eng < 32 then 256 else 64

/-- Queues per engine: 4 on a tile and a gather engine, 5 on a rim or motion engine (R72, R139, R217, R241). -/
def queuesOf (eng : Nat) : Nat := if eng < 32 then 4 else if eng < 36 then 5 else if eng < 40 then 4 else 5

/-- An engine and one of its queues. -/
def wfQueue (eng q : Nat) : Bool := decide (eng < 48) && decide (q < queuesOf eng)

/-- A slot of a queue. -/
def wfSlot (eng q sl : Nat) : Bool := wfQueue eng q && decide (sl < slotsOf eng)

/-- A dictionary master: 0 CAN FD, 1 and 2 the PCIe ports, 3 Rill, 4 Weir (R456). -/
def wfMaster (m : Nat) : Bool := decide (m < 5)

/-- A lane of a link: direction, group and lane, the spare among them (R168, R169). -/
def wfLane (link dir group lane : Nat) : Bool := decide (link < 8) && decide (dir < 2) && decide (group < 16) && decide (lane < 17)

/-- The word of a write, or none for a read. -/
def wfWord (wr : Option Nat) : Bool := wr.all fun v => decide (v < 2 ^ 32)

/-- A bus access of 1, 2, 4 or 8 bytes. -/
def wfBus : BusOp → Bool
  | .read n => [1, 2, 4, 8].contains n
  | .write n enables v => [1, 2, 4, 8].contains n && decide (enables < 2 ^ n) && decide (v < 2 ^ (8 * n))

/-- An access to the dictionary: a word of object `x`:`y`, or a PCIe port's bus access at offset `y` of BAR0, of 16 MiB, or BAR2, of 8 MiB (R425). -/
def wfAccess (m x y : Nat) : ObjAccess → Bool
  | .word value => wfMaster m && decide (x < 65536) && decide (y < 256) && decide (value < 2 ^ 32)
  | .bus op => (m == 1 || m == 2) && ((x == 0 && decide (y < 0x1000000)) || (x == 2 && decide (y < 0x800000))) && wfBus op

/-- A command whose operands are in range. -/
def Instr.wellFormed : Instr → Bool
  | .powerGood board elapsed => decide (board.grade < 3) && decide (board.nodeId < 128) && decide (elapsed < 2 ^ 32)
  | .pwrgoodLow => true
  | .fuseRead m elapsed verdict => wfMaster m && decide (elapsed < 2 ^ 32) && decide (verdict < 3)
  | .defectMapLoad m elapsed => wfMaster m && decide (elapsed < 2 ^ 32)
  | .linkTraining m elapsed bad => wfMaster m && decide (elapsed < 2 ^ 32) && bad.all fun e => wfLane e.1 e.2.1 e.2.2.1 e.2.2.2
  | .hbmTraining m elapsed badStacks badPcs =>
    wfMaster m && decide (elapsed < 2 ^ 32) && badStacks.all (fun k => decide (k < 8)) && badPcs.all fun e => decide (e.1 < 8) && decide (e.2 < 64)
  | .networkMapApply m elapsed => wfMaster m && decide (elapsed < 2 ^ 32)
  | .tileSelfTest m elapsed rows fails =>
    wfMaster m && decide (elapsed < 2 ^ 32) && fails.all (fun x => decide (x < 32)) &&
      rows.all fun e => decide (e.1 < 32) && decide (e.2.1 < 16) && decide (e.2.2 < 3072)
  | .resetAlignment m elapsed _ => wfMaster m && decide (elapsed < 2 ^ 32)
  | .rillLoad m elapsed => wfMaster m && decide (elapsed < 2 ^ 32)
  | .partitionConfiguration m elapsed => wfMaster m && decide (elapsed < 2 ^ 32)
  | .defectDataAccess m wr => wfMaster m && wfWord wr
  | .tailWrite m eng q value => wfQueue eng q && wfMaster m && decide (value < 2 ^ 32)
  | .dispatch eng q => wfQueue eng q
  | .retireRefused eng q sl => wfSlot eng q sl
  | .killComplete eng q sl => wfSlot eng q sl
  | .matrixMultiply eng q sl => wfSlot eng q sl
  | .slidingWindow eng q sl => wfSlot eng q sl
  | .fence eng q sl => wfSlot eng q sl
  | .elementAdd eng q sl => wfSlot eng q sl
  | .elementSubtract eng q sl => wfSlot eng q sl
  | .elementMultiply eng q sl => wfSlot eng q sl
  | .elementMax eng q sl => wfSlot eng q sl
  | .elementMin eng q sl => wfSlot eng q sl
  | .elementScaleAdd eng q sl => wfSlot eng q sl
  | .elementAffine eng q sl => wfSlot eng q sl
  | .rectifier eng q sl => wfSlot eng q sl
  | .leakyRectifier eng q sl => wfSlot eng q sl
  | .elementClamp eng q sl => wfSlot eng q sl
  | .piecewiseLinearTable eng q sl => wfSlot eng q sl
  | .elementConvert eng q sl => wfSlot eng q sl
  | .rowSum eng q sl => wfSlot eng q sl
  | .rowMaximum eng q sl => wfSlot eng q sl
  | .rowSumOfSquares eng q sl => wfSlot eng q sl
  | .rowMinimum eng q sl => wfSlot eng q sl
  | .maxPooling eng q sl => wfSlot eng q sl
  | .averagePoolingWindow eng q sl => wfSlot eng q sl
  | .averagePoolingInput eng q sl => wfSlot eng q sl
  | .bilinearResampling eng q sl => wfSlot eng q sl
  | .bicubicResampling eng q sl => wfSlot eng q sl
  | .pixelShuffle eng q sl => wfSlot eng q sl
  | .pixelUnshuffle eng q sl => wfSlot eng q sl
  | .perPixelArgmax eng q sl => wfSlot eng q sl
  | .zeroRunCompression eng q sl => wfSlot eng q sl
  | .zeroRunExpansion eng q sl => wfSlot eng q sl
  | .groupedSlidingWindow eng q sl => wfSlot eng q sl
  | .convolution2dTransform eng q sl => wfSlot eng q sl
  | .convolutionAlongLines eng q sl => wfSlot eng q sl
  | .convolutionAlongColumns eng q sl => wfSlot eng q sl
  | .regionCopy eng q sl => wfSlot eng q sl
  | .cisternLoad eng q sl => wfSlot eng q sl
  | .cisternStore eng q sl => wfSlot eng q sl
  | .multicastCopy eng q sl => wfSlot eng q sl
  | .stem eng q sl => wfSlot eng q sl
  | .head eng q sl => wfSlot eng q sl
  | .scaleAndSharpen eng q sl => wfSlot eng q sl
  | .gather eng q sl => wfSlot eng q sl
  | .advance eng q sl => wfSlot eng q sl
  | .release eng q sl => wfSlot eng q sl
  | .pyramidBuild eng q sl => wfSlot eng q sl
  | .estimate eng q sl => wfSlot eng q sl
  | .corners eng q sl => wfSlot eng q sl
  | .matchCorners eng q sl => wfSlot eng q sl
  | .warpAndBlend eng q sl => wfSlot eng q sl
  | .copyA eng q sl => wfSlot eng q sl
  | .remoteWrite eng q sl _ => wfSlot eng q sl
  | .writeAcknowledgement eng q a => wfSlot eng q a.slot
  | .commitGrant eng q sl => wfSlot eng q sl
  | .remoteCommitMessage eng q sl tile => wfSlot eng q sl && decide (tile < 32)
  | .commitSignal eng q sl => wfSlot eng q sl
  | .syncUpdateApply bank => decide (bank < 16)
  | .watchNotification eng q => wfQueue eng q
  | .cmdDataRead m eng => decide (eng < 48) && wfMaster m
  | .cmdDataWrite m eng value => decide (eng < 48) && wfMaster m && decide (value < 2 ^ 32)
  | .queueBindingWrite m eng q value => wfQueue eng q && wfMaster m && decide (value < 2 ^ 32)
  | .bankOwnerWrite m tile _ _ value => wfMaster m && decide (tile < 32) && decide (value < 2 ^ 32)
  | .load m _ => wfMaster m
  | .loadComplete phase => decide (2 ≤ phase) && decide (phase ≤ 5)
  | .unload m => wfMaster m
  | .abortLoad m => wfMaster m
  | .flitCheckFailure link _ => decide (link < 8)
  | .laneFailure link dir group lost => wfLane link dir group lost.lane
  | .groupRetrainComplete link dir group => decide (link < 8) && decide (dir < 2) && decide (group < 16)
  | .linkRetrain link _ => decide (link < 8)
  | .linkRetrainComplete link bad _ => decide (link < 8) && bad.all fun e => wfLane link e.1 e.2.1 e.2.2
  | .linkRetrainRetry link => decide (link < 8)
  | .linkSlip x => decide (x.link < 8)
  | .cisternLineRead slot line _ _ => decide (slot < 8 * 732421) && decide (line < 1024)
  | .scrubRead slot line _ => decide (slot < 8 * 732421) && decide (line < 1024)
  | .parityUpdate eng q sl _ => wfSlot eng q sl
  | .tagSettle tag => decide (tag < 4096)
  | .retiredSlotFree slot => decide (slot < 8 * 732421)
  | .migrateStart m => wfMaster m
  | .migrateAbort m => wfMaster m
  | .pageMigrationSwitch => true
  | .retireStack m value => wfMaster m && decide (value < 2 ^ 32)
  | .pcRetrainStart stack ch => decide (stack < 8) && decide (ch < 64)
  | .pcRetrainComplete stack ch _ => decide (stack < 8) && decide (ch < 64)
  | .stackLost stack => decide (stack < 8)
  | .rebuildComplete => true
  | .regionWrite m p sub value => wfMaster m && decide (p < 16) && decide (sub < 256) && decide (value < 2 ^ 32)
  | .sourceGap k => decide (k < 128)
  | .publishStep k => decide (k < 128)
  | .streamStart m k => wfMaster m && decide (k < 128)
  | .streamStop m k => wfMaster m && decide (k < 128)
  | .stopComplete k => decide (k < 128)
  | .forceCut m k => wfMaster m && decide (k < 128)
  | .checkpoint k => decide (k < 128)
  | .fallbackPublishStep k => decide (k < 128)
  | .abandonedRetire eng q sl => wfSlot eng q sl
  | .lateCheck k => decide (k < 128)
  | .outputFrameBoundary output => decide (output < 136)
  | .partitionConfigure m p => wfMaster m && decide (p < 16)
  | .partitionStart m p => wfMaster m && decide (p < 16)
  | .partitionStop m p => wfMaster m && decide (p < 16)
  | .partitionReset m p => wfMaster m && decide (p < 16)
  | .resetQueueClear p => decide (p < 16)
  | .lend m p => wfMaster m && decide (p < 16)
  | .reclaimTile m p => wfMaster m && decide (p < 16)
  | .reclaimAll m p => wfMaster m && decide (p < 16)
  | .reclaimComplete p => decide (p < 16)
  | .acctWithdraw m p value => wfMaster m && decide (p < 16) && decide (value < 2 ^ 32)
  | .acctRestore m p value => wfMaster m && decide (p < 16) && decide (value < 2 ^ 32)
  | .withdrawHead eng q => wfQueue eng q
  | .withdrawalListRetire p => decide (p < 16)
  | .acctClear m p value => wfMaster m && decide (p < 16) && decide (value < 2 ^ 32)
  | .acctDataRead m p => wfMaster m && decide (p < 16)
  | .syncDataRead m => wfMaster m
  | .syncDataWrite m value => wfMaster m && decide (value < 2 ^ 32)
  | .syncAdd m value => wfMaster m && decide (value < 2 ^ 32)
  | .syncFill m => wfMaster m
  | .syncFillComplete => true
  | .apertureAdd port offset a => decide (port < 2) && decide (offset < 0x40000) && wfBus a
  | .apertureSet port offset a => decide (port < 2) && decide (offset < 0x40000) && wfBus a
  | .hostWatchArm m w value => wfMaster m && decide (w < 16) && decide (value < 2 ^ 32)
  | .hostWatchDisarm m w value => wfMaster m && decide (w < 16) && decide (value < 2 ^ 32)
  | .admissionPoint => true
  | .peekDataRead m p => wfMaster m && decide (p < 16)
  | .laneBlockLock port lane seq => decide (port < 8) && decide (lane < 4) && decide (seq < 65536)
  | .laneLockLoss port lane => decide (port < 8) && decide (lane < 4)
  | .inputSegment port lane seg => decide (port < 8) && decide (lane < 4) && decide (seg.kind < 16) && decide (0 < seg.bytes.length) && decide (seg.bytes.length ≤ 1024)
  | .lineSlot port => decide (port < 8)
  | .lineFetch port => decide (port < 8)
  | .lineFetchComplete port line => decide (port < 8) && decide (line < 65536)
  | .staticCompareComplete port => decide (port < 8)
  | .genlockPulse => true
  | .genlockLoss => true
  | .muteRequest => true
  | .muteRelease => true
  | .muteHoldExpiry => true
  | .binningStart k => decide (k < 128)
  | .binningDeadline k => decide (k < 128)
  | .binRowRender k row => decide (k < 128) && decide (row < 135)
  | .doorbellWrite port ring tail _ => decide (port < 2) && decide (ring < 128) && decide (tail < 65536)
  | .outputBandWrite port => decide (port < 2)
  | .inputReadCompletion ring _ => decide (ring < 128)
  | .stallLimitExpiry x => decide (x.port < 2)
  | .lateAbandon ring => decide (ring < 128)
  | .pcieLinkDown port => decide (port < 2)
  | .functionLevelReset port => decide (port < 2)
  | .pcieFlitRetry port => decide (port < 2)
  | .nmtResetNode => true
  | .nmtResetCommunication => true
  | .nmtStart => true
  | .nmtStop => true
  | .nmtPreOperational => true
  | .usdoDownload index sub _ => decide (index < 65536) && decide (sub < 256)
  | .usdoUpload index sub _ => decide (index < 65536) && decide (sub < 256)
  | .syncMessage cobId => decide (cobId < 2 ^ 11)
  | .tpdoEventTimer t => decide (t < 8)
  | .heartbeatTimer => true
  | .i2cStart m => wfMaster m
  | .i2cTransactionComplete result _ => decide (result ≤ 3)
  | .i2cStretchTimeout => true
  | .i2cDataAccess m wr => wfMaster m && wfWord wr
  | .pinFunctionSwitch m land value => wfMaster m && decide (land < 32) && decide (value < 2 ^ 32)
  | .ppsEdge => true
  | .ppsLoss => true
  | .lowHalfWrite m index sub value => wfMaster m && decide (index < 65536) && decide (sub < 256) && decide (value < 2 ^ 32)
  | .highHalfWrite m index sub value => wfMaster m && decide (index < 65536) && decide (sub < 256) && decide (value < 2 ^ 32)
  | .lowHalfRead m index sub => wfMaster m && decide (index < 65536) && decide (sub < 256)
  | .absentAccess m index sub wr => wfMaster m && wfWord wr && decide (index < 65536) && decide (sub < 256)
  | .objectWrite m x y a => wfAccess m x y a
  | .compatDataRead m => wfMaster m
  | .fwDataAccess m wr => wfMaster m && wfWord wr
  | .startRill m => wfMaster m
  | .rillImageReadComplete => true
  | .stopRill m => wfMaster m
  | .programBlock m => wfMaster m
  | .copyFromHost m _ => wfMaster m
  | .activate m => wfMaster m
  | .verify m => wfMaster m
  | .flashCommandComplete _ => true
  | .rillKick m value => wfMaster m && decide (value < 2 ^ 32)
  | .rillWatchdogExpiry => true
  | .rillException => true
  | .passthruStart m j => wfMaster m && decide (j < 4)
  | .passthruStop m j => wfMaster m && decide (j < 4)
  | .sensorSample readings => decide (readings.length ≤ 64)
  | .tripClockStop => true
  | .hubTripClockStop => true
  | .lockstepMismatch => true
  | .tileFault site _ => decide (site < 32)
  | .tileMoveComplete site => decide (site < 32)
  | .uncorrectableSramError kind _ _ => decide (kind < 8)
  | .sramScrub kind _ _ => decide (kind < 8)
  | .motionEngineFault engine => decide (engine < 8)
  | .recordAppend => true
  | .mirrorProgram _ => true
  | .mirrorRegionEraseComplete region => decide (region < 3)
  | .almanacDataRead m => wfMaster m
  | .freeze m => wfMaster m
  | .thaw m => wfMaster m
  | .clearCirculating m => wfMaster m
  | .clearPermanent m => wfMaster m
  | .perfSample m => wfMaster m
  | .perfClear m => wfMaster m
  | .perfEventWrite m c value => wfMaster m && decide (c < 64) && decide (value < 2 ^ 32)
  | .inputSlotGridFrameStart port => decide (port < 8)
  | .pcieLinkUp port _ _ => decide (port < 2)
  | .completionTimeout kind _ => decide (kind < 3)
  | .msixVectorUnmask port vector => decide (port < 2) && decide (vector < 2048)
  | .pciePowerStateWrite port _ => decide (port < 2)
  | .canBusError tec rec _ => decide (tec < 65536) && decide (rec < 65536)
  | .weirRestartComplete => true
  | .computeDieFault die => decide (die < 4)
  | .hubPllLockLoss => true

end Sys2Proof
end

