-- ==== Sys2Proof/Machine/Ops.lean ====
section
/-!
DEFINITION. The named operations over the state: objects of the dictionary, captures of the Almanac, messages outside, free values, pages of tile SRAM, queues and slots.
-/

namespace Sys2Proof.Machine

/-- The outcome of a command. -/
abbrev Out := Host.Outcome State Fault Refusal

/-- An event of the running device: with every clock stopped, by R506 or R517, nothing happens. -/
def whenLive (s : State) (f : State → State) : Out := .next (if s.clk.running then f s else s)

/-! ### Objects -/

/-- The row of a function's table that holds a subindex, the high half of a pair included (R458). -/
def rowOf (rows : List DictRow) (sub : Nat) : Option DictRow :=
  rows.find? fun r => (List.range r.count).any fun i =>
    sub == r.sub + i * r.step || (r.width == 64 && sub == r.sub + i * r.step + 1)

/-- The function at an index and the instance (R467). -/
def fnOf (index : Nat) : Option (DictFn × Nat) :=
  (dictFns.find? fun f => (List.range f.count).any fun i => index == f.base + f.step * (f.first + i)).map fun f =>
    (f, if f.step = 0 then f.first else (index - f.base) / f.step)

/-- The row of an object's table, if the map assigns one (R446, R467). -/
def objRow (key : Nat) : Option DictRow :=
  match fnOf (key / 256) with
  | some (f, _) => rowOf f.rows (key % 256)
  | none => none

/-- Width in bits of an object; an unassigned key has 64. -/
def objWidth (key : Nat) : Nat :=
  match objRow key with
  | some r => min r.width 64
  | none => 64

/-- Default of an object (R450). -/
def objDefault (key : Nat) : Nat :=
  match objRow key with
  | some r => r.dflt
  | none => 0

/-- The value of an object. -/
def getObj (s : State) (key : Nat) : Nat :=
  match mapFind s.objs key with
  | some v => v.toNat
  | none => objDefault key

/-- An object set to a value, cut to its width (R448, R606 kind 3). -/
def setObj (key v : Nat) (s : State) : State :=
  { s with objs := mapPut s.objs key (BitVec.ofNat 64 (v % 2 ^ objWidth key)) }

/-- A count increased, modulo its width (R606). -/
def addObj (key n : Nat) (s : State) : State := setObj key (getObj s key + n) s

/-- A saturating count increased (R606 kind 4). -/
def satAddObj (key n : Nat) (s : State) : State := setObj key (min (getObj s key + n) (2 ^ objWidth key - 1)) s

/-- Field [msb:lsb] of an object set. -/
def setField (key msb lsb v : Nat) (s : State) : State := setObj key (setBits (getObj s key) msb lsb v) s

/-- Field [msb:lsb] of an object. -/
def getField (s : State) (key msb lsb : Nat) : Nat := bits (getObj s key) msb lsb

/-- Bit [n] of an object. -/
def objBit (s : State) (key n : Nat) : Bool := bit (getObj s key) n

/-- Objects whose key satisfies `f` return to their defaults. -/
def dropObjs (f : Nat → Bool) (s : State) : State := { s with objs := s.objs.filter fun e => !(f e.1) }

/-- Objects with index `a` to `b`. -/
def inIndex (a b : Nat) (key : Nat) : Bool := decide (a * 256 ≤ key) && decide (key < (b + 1) * 256)

/-- Grade 0 HK-9420, 1 HK-9418, 2 HK-9410. -/
def grade (s : State) : Nat := s.fab.board.grade

/-- Functions absent on HK-9410 (R447). -/
def absentOnGrade (g index : Nat) : Bool :=
  g == 2 && ((decide (0x29C2 ≤ index) && decide (index ≤ 0x29C3)) || (decide (0x2A12 ≤ index) && decide (index ≤ 0x2A13)) ||
    (decide (0x2814 ≤ index) && decide (index ≤ 0x2817)) || (decide (0x2614 ≤ index) && decide (index ≤ 0x2617)) ||
    (decide (0x2540 ≤ index) && decide (index ≤ 0x257F)))

/-- An object exists: assigned index, listed subindex, instance of the grade (R447). Subindex 0 of a manufacturer index exists (R446). -/
def objExists (s : State) (index sub : Nat) : Bool :=
  !(absentOnGrade (grade s) index) &&
    match fnOf index with
    | some (f, _) => (rowOf f.rows sub).isSome || (sub == 0 && decide (0x2000 ≤ index))
    | none => false

/-- The highest subindex of a function's table (R446). -/
def highestSub (rows : List DictRow) : Nat :=
  rows.foldl (fun m r => max m (r.sub + (r.count - 1) * r.step + (if r.width = 64 then 1 else 0))) 0

/-- A function has expert subindices (R465). -/
def hasExpert (rows : List DictRow) : Bool := rows.any fun r => decide (0x20 ≤ r.sub)

/-- A basic write took effect: basic mode, expert values derived again, that is their defaults (R465, R466). -/
def basicWrite (index : Nat) (s : State) : State :=
  dropObjs (fun k => k / 256 == index && decide (0x1F ≤ k % 256)) s

/-- An expert write took effect (R465). -/
def expertWrite (index : Nat) (s : State) : State := setObj (index * 256 + 0x1F) 1 s

/-- A write of an object took effect (R465). -/
def touch (key : Nat) (s : State) : State :=
  if 0x20 ≤ key % 256 then expertWrite (key / 256) s else basicWrite (key / 256) s

/-! ### Outside and free values -/

/-- A message to the outside. -/
def emit (e : Emission) (s : State) : State := { s with out := e :: s.out }

/-- A master's latches. -/
def getLatches (s : State) (m : Nat) : Latches := mapGet Latches.init s.latches m

/-- A master's latches set. -/
def setLatches (m : Nat) (l : Latches) (s : State) : State := { s with latches := mapSet Latches.init s.latches m l }

/-- A dictionary read is answered; the master's read latch, loaded by an earlier low-half read, no longer answers (R459). -/
def answer (m v : Nat) (s : State) : State := emit (.readData m v) (setLatches m { getLatches s m with read := none } s)

/-- A read that reaches no object: all ones, and the access is counted (R447). -/
def absentRead (m : Nat) (s : State) : State := answer m 0xFFFFFFFF (addObj oOdBadAccess 1 s)

/-- The next free value of `w` bits, as a number. -/
def freeNat (s : State) (w : Nat) : Nat := (Config.freeBits w s.free).toNat

/-- A free value has been used. -/
def useFree (s : State) : State := { s with free := s.free + 1 }

/-- Compute ticks per microsecond. -/
def usTicks : Nat := 1400

/-- The compute cycle number (R528). -/
def cycle (s : State) : Nat := getObj s oClockCycle

/-- Ticks of the compute clock since power-on. -/
def ticks (s : State) : Nat := s.clk.ticks

/-- Calendar time in ns (R538). -/
def calendar (s : State) : Nat := getObj s oTimeNow

/-- Units of 1/(7 × 10^9) ns by which calendar time advances in a compute cycle, with the rate adjustment (R538). -/
def calendarRate (s : State) : Nat := (5 * (1000000000 + toSigned 32 (getObj s oTimeRateAdjust))).toNat

/-- A span of compute cycles in ns of calendar time, at the present rate (R538); a remainder below 1 ns is dropped (DESIGN CHOICE, log entry 89). -/
def calendarSpan (s : State) (n : Nat) : Nat := n * calendarRate s / 7000000000

/-- A PCIe port of the state. -/
def getPcie (s : State) (i : Nat) : Pcie := mapGet Pcie.init s.io.pcie i

/-- A PCIe port set. -/
def setPcie (i : Nat) (p : Pcie) (s : State) : State := { s with io := { s.io with pcie := mapSet Pcie.init s.io.pcie i p } }

/-- A port sends a posted write: its stall timer returns to 0 (R431). -/
def notePosted (port : Nat) (s : State) : State := setPcie port { getPcie s port with lastSent := cycle s } s

/-- An MSI-X message: sent, or held pending while its entry is masked (R346). -/
def sendMsix (port vector : Nat) (s : State) : State :=
  let p := getPcie s port
  if p.unmasked.contains vector then emit (.msix port vector) (notePosted port s)
  else if p.msixPending.contains vector then s
  else setPcie port { p with msixPending := vector :: p.msixPending } s

/-! ### Lands (R440, R441) -/

/-- Key of a land's mux object. -/
def oPinmux (land : Nat) : Nat := if land < 16 then oPinmuxFunction land else oPinmuxHiFunction (land - 16)

/-- Function of a land; during a switch it has none (R441). -/
def landFunction (s : State) (land : Nat) : Nat :=
  if (mapFind s.io.lands.switching land).isSome then 0 else getField s (oPinmux land) 3 0

/-- The alarm of function 0x4 (R440). -/
def alarm (s : State) : Bool :=
  [2, 3, 5].contains (getObj s oCisternState) || (List.range 8).any fun p => getObj s (oRasterState p) == 4

/-- The level that an output function drives on a land; none where it drives nothing (R440). -/
def landLevel (s : State) (land : Nat) : Option Bool :=
  match landFunction s land with
  | 2 => some (objBit s oGpioOut land)
  | 4 => some (alarm s)
  | 5 => some (s.io.lands.pulseEnd.isSome)
  | _ => none

/-- A land's driven level follows its function; a change of level is seen outside. -/
def refreshPin (land : Nat) (s : State) : State :=
  let l := s.io.lands
  match landLevel s land with
  | none => { s with io := { s.io with lands := { l with driven := mapErase l.driven land } } }
  | some v =>
    if mapFind l.driven land = some v then s
    else emit (.pin land v) { s with io := { s.io with lands := { l with driven := mapPut l.driven land v } } }

/-- Every land follows its function. -/
def refreshPins (s : State) : State := (List.range 32).foldl (fun s l => refreshPin l s) s

/-- cistern.state set; an alarm land follows (R440). -/
def setCisternState (v : Nat) (s : State) : State := refreshPins (setObj oCisternState v s)

/-! ### Captures -/

/-- A capture among those of its cycle: in ascending code, then in ascending instance (R590). -/
def placeCapture (c : Capture) : List Capture → List Capture
  | [] => [c]
  | x :: xs => if c.code < x.code ∨ (c.code = x.code ∧ c.inst < x.inst) then c :: x :: xs else x :: placeCapture c xs

/-- The captures of earlier cycles, and those of this one. -/
def queuedBefore (s : State) : Nat := s.alm.queue.length - s.now.captures

/-- A capture enters the event queue. -/
def enterCapture (c : Capture) (s : State) : State :=
  let n := queuedBefore s
  { s with alm := { s.alm with queue := s.alm.queue.take n ++ placeCapture c (s.alm.queue.drop n) }, now := { s.now with captures := s.now.captures + 1 } }

/-- A unit captures an event; a full queue of 256 discards and counts it (R590, R584). Partition 31 stands for none. -/
def capture (code part inst p0 p1 p2 : Nat) (s : State) : State :=
  if s.alm.queue.length < 256 then
    enterCapture { code := code, part := part, inst := inst, p0 := p0 % 2 ^ 32, p1 := p1 % 2 ^ 32, p2 := p2 % 2 ^ 32, time := calendar s } s
  else
    let s := addObj oAlmanacLost 1 s
    { s with alm := { s.alm with discarded := s.alm.discarded + 1 },
             fw := { s.fw with weirRestart := s.fw.weirRestart.map (· + 1) } }

/-- The captures of this cycle carry the calendar time that a load of the cycle sets (R590). -/
def restampCaptures (s : State) : State :=
  let n := queuedBefore s
  { s with alm := { s.alm with queue := s.alm.queue.take n ++ (s.alm.queue.drop n).map fun c => { c with time := calendar s } } }

/-- How a write ended. -/
inductive Ack where
  /-- It took effect. -/
  | done
  /-- No effect and no record: a read-only object, a low half, an absent object. -/
  | quiet
  /-- Refused with a reason of R451. -/
  | refused (reason : Nat)
deriving DecidableEq, Repr

/-- A write that took effect sets the mode of its function (R465). -/
def ackWrite (key : Nat) (r : State × Ack) : State × Ack := (if r.2 = .done then touch key r.1 else r.1, r.2)

/-- The word of od.last_refused (R470). -/
def refusalWord (key reason : Nat) : Nat := (key / 256) * 65536 + (key % 256) * 256 + reason

/-- A refused write is recorded as 0x0303 and in od.last_refused (R451). -/
def refuse (m key reason value : Nat) (s : State) : State :=
  let s := setObj oOdLastRefused (refusalWord key reason) s
  capture 0x0303 31 0 (refusalWord key reason) value m s

/-- A refused write of a queue, slot, binding or cursor object of an engine is recorded as 0x0302 (R451, R600). -/
def refuseEngine (eng key reason value : Nat) (s : State) : State :=
  let s := setObj oOdLastRefused (refusalWord key reason) s
  capture 0x0302 31 eng ((key / 256) * 65536 + (key % 256) * 256) value 0 s

/-- A refused fw or load command makes only its own command's record (R451). -/
def refuseQuiet (key reason : Nat) (s : State) : State := setObj oOdLastRefused (refusalWord key reason) s

/-! ### Performance counters -/

/-- A 48-bit count with its flag in bit 63, increased (R607). -/
def count48 (v n : Nat) : Nat :=
  let c := v % 2 ^ 48 + n
  (c % 2 ^ 48) + (if bit v 63 || decide (2 ^ 48 ≤ c) then 2 ^ 63 else 0)

/-- A performance counter counts `n` events; a write of its value in the same cycle comes before them, and a newly written event counts from the next cycle (R607, R609, R613). -/
def perfAdd (c n : Nat) (s : State) : State :=
  if s.now.perfNew.contains c then s
  else
    let v := getObj s (oPerfValue c)
    setObj (oPerfValue c) (count48 v n) { s with now := { s.now with perf := (c, n, v) :: s.now.perf } }

/-- What a counter has counted in the present cycle. -/
def perfNow (s : State) (c : Nat) : Nat := sumNat ((s.now.perf.filter fun e => e.1 == c).map (·.2.1))

/-- The value of a counter before the increments of the present cycle (R616). -/
def perfBefore (s : State) (c : Nat) : Nat :=
  match (s.now.perf.filter fun e => e.1 == c).getLast? with
  | some e => e.2.2
  | none => getObj s (oPerfValue c)

/-- What a read of a counter's value shows: in the cycle in which it wraps, the value before (R616). -/
def perfShown (s : State) (c : Nat) : Nat :=
  if 2 ^ 48 ≤ perfBefore s c % 2 ^ 48 + perfNow s c then perfBefore s c else getObj s (oPerfValue c)

/-- A counter's value is written: the count of this cycle is applied to what is written (R19, R609, R614). -/
def perfLoad (c v : Nat) (s : State) : State := setObj (oPerfValue c) (count48 v (perfNow s c)) s

/-- Every performance counter that counts `n` events of a code at an instance (R612). -/
def perfCount (code inst n : Nat) (s : State) : State :=
  (List.range 64).foldl (fun s c =>
    let e := getObj s (oPerfEvent c)
    if e / 256 = code ∧ (e % 256 = inst ∨ code = 1) ∧ code ≠ 0 then perfAdd c n s else s) s

/-! ### Partitions -/

/-- A partition's hidden side. -/
def getPart (s : State) (p : Nat) : Part := mapGet Part.init s.pt.parts p

/-- A partition's hidden side set. -/
def setPart (p : Nat) (x : Part) (s : State) : State := { s with pt := { s.pt with parts := mapSet Part.init s.pt.parts p x } }

/-- A partition's hidden side changed. -/
def updPart (p : Nat) (f : Part → Part) (s : State) : State := setPart p (f (getPart s p)) s

/-- partition[p].state. -/
def pState (s : State) (p : Nat) : Nat := getObj s (oPartitionState p)

/-- Whether p runs in the global DET mode (R301). -/
def isDet (s : State) (p : Nat) : Bool := objBit s (oPartitionLatched p) 0

/-- Whether p is latency-critical (R299). -/
def isLc (s : State) (p : Nat) : Bool := (getPart s p).latencyCritical

/-- The partition whose configured sync range holds an object (R334). -/
def syncOwner (s : State) (o : Nat) : Option Nat :=
  (List.range 16).find? fun p => decide (pState s p ≠ 0) && decide ((getPart s p).syncBase ≤ o) &&
    decide (o < (getPart s p).syncBase + (getPart s p).syncCount)

/-- A logical tile is in a partition's mask in force (R296). -/
def inMask (s : State) (p t : Nat) : Bool := bit (getPart s p).tiles t

/-! ### Streams and outputs -/

/-- seq[k].state. -/
def seqState (s : State) (k : Nat) : Nat := getObj s (oSeqState k)

/-- A sequencer of the state. -/
def getSeq (s : State) (k : Nat) : Seq := mapGet Seq.init s.st.seqs k

/-- A sequencer set. -/
def setSeq (k : Nat) (x : Seq) (s : State) : State := { s with st := { s.st with seqs := mapSet Seq.init s.st.seqs k x } }

/-- The frames a sequencer has under watch. -/
def getWatched (s : State) (k : Nat) : List Watched := mapGet [] s.st.watched k

/-- The frames under watch set. -/
def setWatched (k : Nat) (ws : List Watched) (s : State) : State := { s with st := { s.st with watched := mapSet [] s.st.watched k ws } }

/-- A raster port of the state. -/
def getPort (s : State) (p : Nat) : Port := mapGet Port.init s.io.raster p

/-- A raster port set. -/
def setPort (p : Nat) (x : Port) (s : State) : State := { s with io := { s.io with raster := mapSet Port.init s.io.raster p x } }

/-- A DMA ring of the state. -/
def getRing (s : State) (r : Nat) : Ring := mapGet Ring.init s.io.rings r

/-- A DMA ring set. -/
def setRing (r : Nat) (x : Ring) (s : State) : State := { s with io := { s.io with rings := mapSet Ring.init s.io.rings r x } }

/-- The running stream whose input (false) or output (true) is a raster port (kind 1) or DMA ring (kind 2) (R294). -/
def streamOf (s : State) (output : Bool) (kind index : Nat) : Option Nat :=
  (List.range 128).find? fun k =>
    let v := getObj s (if output then oSeqOutput k else oSeqInput k)
    decide (seqState s k ≠ 0) && v / 4096 == kind && v % 256 == index

/-! ### Queues and slots -/

/-- Key of a queue. -/
def qKey (eng q : Nat) : Nat := eng * 8 + q

/-- Key of a slot. -/
def sKey (eng q sl : Nat) : Nat := (eng * 8 + q) * 256 + sl

/-- A queue of the state. -/
def getQueue (s : State) (eng q : Nat) : Queue := mapGet Queue.init s.tl.queues (qKey eng q)

/-- A queue set. -/
def setQueue (eng q : Nat) (x : Queue) (s : State) : State :=
  { s with tl := { s.tl with queues := mapSet Queue.init s.tl.queues (qKey eng q) x } }

/-- A slot of the state. -/
def getSlot (s : State) (eng q sl : Nat) : Slot := mapGet Slot.init s.tl.slots (sKey eng q sl)

/-- A slot set. -/
def setSlot (eng q sl : Nat) (x : Slot) (s : State) : State :=
  { s with tl := { s.tl with slots := mapSet Slot.init s.tl.slots (sKey eng q sl) x } }

/-- A slot changed. -/
def updSlot (eng q sl : Nat) (f : Slot → Slot) (s : State) : State := setSlot eng q sl (f (getSlot s eng q sl)) s

/-- Pointers count modulo twice the slots (R79). -/
def ptrMod (eng : Nat) : Nat := 2 * slotsOf eng

/-- Commands a queue holds (R79). -/
def queueHeld (eng : Nat) (x : Queue) : Nat := (x.tail + ptrMod eng - x.commit) % ptrMod eng

/-- Slots from pointer `a` up to pointer `b`, in order. -/
def slotsBetween (eng a b : Nat) : List Nat :=
  (List.range ((b + ptrMod eng - a) % ptrMod eng)).map fun i => (a + i) % slotsOf eng

/-- The engine of dictionary index 0x2900, 0x29C0, 0x2A10 or 0x2810 plus an instance. -/
def engIndex (eng : Nat) : Nat :=
  if eng < 32 then 0x2900 + eng else if eng < 36 then 0x29C0 + (eng - 32) else if eng < 40 then 0x2A10 + (eng - 36) else 0x2810 + (eng - 40)

/-- The engine's number in Almanac records 0x0301 and 0x0302 (R600). -/
def engRecord (eng : Nat) : Nat :=
  if eng < 32 then eng else if eng < 36 then 0x100 + (eng - 32) else if eng < 40 then 0x200 + (eng - 36) else 0x300 + (eng - 40)

/-- Key of a queue's binding; queue 4 has none. -/
def oBinding (eng q : Nat) : Nat := engIndex eng * 256 + (0x04 + q)

/-- Key of a queue's tail. -/
def oTail (eng q : Nat) : Nat := engIndex eng * 256 + (0x0C + q)

/-- Key of an engine's last_refusal. -/
def oLastRefusal (eng : Nat) : Nat :=
  if eng < 32 then oTileLastRefusal eng else if eng < 36 then oRimLastRefusal (eng - 32)
  else if eng < 40 then oGatherLastRefusal (eng - 36) else oMotionLastRefusal (eng - 40)

/-- Key of an engine's command cursor. -/
def oCmdCursor (eng : Nat) : Nat :=
  if eng < 32 then oTileCmdCursor eng else if eng < 36 then oRimCmdCursor (eng - 32)
  else if eng < 40 then oGatherCmdCursor (eng - 36) else oMotionCmdCursor (eng - 40)

/-- Key of an engine's state object. -/
def oEngState (eng : Nat) : Nat := engIndex eng * 256 + 1

/-- The partition a queue is bound to. -/
def queuePart (s : State) (eng q : Nat) : Nat := getField s (oBinding eng q) 3 0

/-- A queue's binding has enable set. -/
def queueEnabled (s : State) (eng q : Nat) : Bool := objBit s (oBinding eng q) 15

/-- Every engine and queue. -/
def allQueues : List (Nat × Nat) :=
  (List.range 48).flatMap fun e => (List.range (queuesOf e)).map fun q => (e, q)

/-- Word `i` of a command. -/
def cw (x : Slot) (i : Nat) : Nat := (x.words.getD i 0).toNat

/-- The step number of a slot, as its record keeps it. -/
def slotStep (x : Slot) : Nat := x.step

/-! ### Pages -/

/-- The byte of a page at an offset. -/
def pageByte (p : Page) (off : Nat) : Byte :=
  match mapFind p.cells off with
  | some b => b
  | none => match p.base with
    | none => 0
    | some t => Config.freeByte t off

/-- One byte of a page written. -/
def pageWrite1 (p : Page) (off : Nat) (b : Byte) : Page :=
  { p with cells := if p.base = none then mapSet 0 p.cells off b else mapPut p.cells off b }

/-- Bytes of a page written from an offset on. -/
def pageWrite (p : Page) (off : Nat) : List Byte → Page
  | [] => p
  | b :: bs => pageWrite (pageWrite1 p off b) (off + 1) bs

/-- A page's cells keep the canonical form of its base. -/
abbrev PageWf (p : Page) : Prop := Rising p.cells ∧ (p.base = none → ∀ e ∈ p.cells, e.2 ≠ 0)

/-- Key of a frame. -/
def fKey (site fr : Nat) : Nat := site * 768 + fr

/-- Key of a logical page. -/
def pKey (tile lp : Nat) : Nat := tile * 768 + lp

/-- The physical site that carries a logical tile. -/
def siteOf (s : State) (tile : Nat) : Option Nat :=
  match mapGet 0 s.fab.siteOf tile with
  | 0 => none
  | v + 1 => some v

/-- A frame of the state. -/
def getFrame (s : State) (k : Nat) : Frame := mapGet Frame.init s.tl.frames k

/-- A frame set. -/
def setFrame (k : Nat) (f : Frame) (s : State) : State :=
  { s with tl := { s.tl with frames := mapSet Frame.init s.tl.frames k f } }

/-- The frame that a logical page is mapped to (R63). -/
def mappedFrame (s : State) (tile lp : Nat) : Option Nat :=
  match siteOf s tile, mapGet 0 s.tl.pageMap (pKey tile lp) with
  | some site, v + 1 => some (fKey site v)
  | _, _ => none

/-- A logical page mapped to a frame of its site, or unmapped (0). -/
def setPageMap (tile lp v : Nat) (s : State) : State :=
  { s with tl := { s.tl with pageMap := mapSet 0 s.tl.pageMap (pKey tile lp) v } }

/-- The lowest free frame of a bank of a site (R63, R64). -/
def freeFrame (s : State) (site bank : Nat) : Option Nat :=
  ((List.range 48).map fun i => fKey site (bank * 48 + i)).find? fun k => (getFrame s k).st == .free

/-- Frames of a bank in a state. -/
def countFrames (s : State) (site bank : Nat) (st : PageState) : Nat :=
  ((List.range 48).filter fun i => (getFrame s (fKey site (bank * 48 + i))).st == st).length

/-- Owner of a bank of a logical tile, if it has one (R65). -/
def bankOwner (s : State) (tile bank : Nat) : Option Nat :=
  if objBit s (oTileBankValid tile) bank then some (getField s (oTileBankOwner tile) (4 * bank + 3) (4 * bank)) else none

/-- Bank of a logical page. -/
def bankOf (lp : Nat) : Nat := lp / 48

/-- A frame becomes free: its contents are gone. -/
def freeFrameAt (k : Nat) (s : State) : State := setFrame k Frame.init s

/-- A frame was replaced by a flip of the present cycle: a dispatch of this cycle may still pin it (R91). -/
def justReplaced (s : State) (k : Nat) : Bool := s.now.flipped.any fun e => e.2.2 == k + 1

/-- One pin less; a retired frame without pins becomes free (R64). -/
def unpinFrame (k : Nat) (s : State) : State :=
  let f := getFrame s k
  if f.st = .retired ∧ f.pins ≤ 1 ∧ justReplaced s k = false then freeFrameAt k s else setFrame k { f with pins := f.pins - 1 } s

/-- The frame that served a page before a flip of the present cycle, plus one (0: none) (R91). -/
def noteFlip (tile lp old : Nat) (s : State) : State := { s with now := { s.now with flipped := s.now.flipped ++ [(tile, lp, old)] } }

/-- A frame replaced at a commit is retired; where nothing pins it, it is free one cycle after the flip (R64, R86, R92). -/
def retireFrame (k : Nat) (s : State) : State := setFrame k { getFrame s k with st := .retired } s

/-- The frame of a page that is unmapped outside a commit: retired while pinned, else free (R64). -/
def dropPage (k : Nat) (s : State) : State := if (getFrame s k).pins = 0 then freeFrameAt k s else retireFrame k s

/-- Frames replaced in the cycle that ends are free, unless they are pinned (R64, R86). -/
def settleFlips (s : State) : State :=
  s.now.flipped.foldl (fun s e => match e.2.2 with
    | 0 => s
    | k + 1 => if (getFrame s k).st = .retired ∧ (getFrame s k).pins = 0 then freeFrameAt k s else s) s

/-- det.active follows the latched bits; a change ends the record of perturbations (R351, R356). -/
def updateActive (s : State) : State :=
  let a := b2n ((List.range 16).any fun p => isDet s p)
  if getObj s oDetActive = a then s else setObj oDetActive a { s with pt := { s.pt with perturbed := false } }

/-- The cycle is over: what was replaced in it is gone, det.active takes what this cycle's configures latched (R363), and nothing of it meets what follows (log entry 84). -/
def passCycle (s : State) : State := updateActive { settleFlips s with now := Now.init }

/-- An outside event of a DET partition waits for the first admission point after this cycle (R354, R363). -/
def deferEvent (p : Nat) (e : DetEvent) (s : State) : State :=
  updPart p (fun x => { x with detPending := x.detPending ++ [e] }) { s with now := { s.now with arrived := p :: s.now.arrived } }

/-- Reads that wait, and the accesses behind them, of a master (R335, R456). -/
def parkedOf (s : State) (m : Nat) : List Parked := mapGet [] s.sy.parked m

/-- They are set. -/
def setParked (m : Nat) (l : List Parked) (s : State) : State := { s with sy := { s.sy with parked := mapSet [] s.sy.parked m l } }

/-- A master is a PCIe port in D3hot, which decodes no BAR (R424). -/
def asleep (s : State) (m : Nat) : Bool := (m == 1 || m == 2) && (getPcie s (m - 1)).d3

/-- An access of a master: a port in D3hot takes none; it waits behind a read of the same master that waits (R335, R424, R456). -/
def whenFree (m : Nat) (c : Instr) (s : State) (f : State → State) : Out :=
  whenLive s fun s => if asleep s m then s else if parkedOf s m = [] then f s else setParked m (parkedOf s m ++ [.access c]) s

/-- The frame that a command dispatched in this cycle sees behind a logical page: the one mapped before the flips of this cycle (R87, R91). -/
def seenFrame (s : State) (tile lp : Nat) : Option Nat :=
  match s.now.flipped.find? fun e => e.1 == tile && e.2.1 == lp with
  | some (_, _, k + 1) => some k
  | some (_, _, 0) => none
  | none => mappedFrame s tile lp

/-- The canonical form of every addressed memory: the flash, the pages of tile SRAM and the slots of the Cistern. -/
abbrev Memory.wf (s : State) : Prop :=
  Tidy (0xFF : Byte) s.flash ∧ (Tidy Frame.init s.tl.frames ∧ ∀ e ∈ s.tl.frames, PageWf e.2.page) ∧
    (Tidy CSlot.init s.ci.slots ∧ ∀ e ∈ s.ci.slots, PageWf e.2.page)

end Sys2Proof.Machine
end

