-- ==== Sys2Proof/Machine/Store.lean ====
section
/-!
DEFINITION. The operations of the Cistern store (07_cistern.md): stripes and slots, placement, page versions, shadow slots, tags.
-/

namespace Sys2Proof.Machine

/-- Slots per stack (R194). -/
def stackSlots : Nat := 732421

/-- Stripes that regions may use (R194). -/
def regionStripes : Nat := 732293

/-- State of a stack in cistern.stack_state (R237). -/
def stackState (s : State) (k : Nat) : Nat := getField s oCisternStackState (4 * k + 3) (4 * k)

/-- A stack's state set. -/
def setStackState (k v : Nat) (s : State) : State := setField oCisternStackState (4 * k + 3) (4 * k) v s

/-- Stacks present since the HBM training, ascending (R555). -/
def presentStacks (s : State) : List Nat := (List.range 8).filter fun k => stackState s k != 0

/-- A stack is lost, rebuilt or not. -/
def stackLost (s : State) (k : Nat) : Bool := decide (4 ≤ stackState s k)

/-- Stacks that take new slots. -/
def upStacks (s : State) : List Nat := (presentStacks s).filter fun k => !(stackLost s k)

/-- The member position of a stack among those present (R555). -/
def stackPos (s : State) (k : Nat) : Nat := (presentStacks s).idxOf k

/-- Slot `j` of a stack is a data slot that a region may use: not the parity member, and after a loss not the member that took its place (R194, R231). -/
def isDataSlot (s : State) (k j : Nat) : Bool :=
  let n := (presentStacks s).length
  let pos := stackPos s k
  let par := j % n
  let parLost := stackLost s ((presentStacks s).getD par 0) && decide (3 ≤ getObj s oCisternState)
  decide (j < regionStripes) && pos != par && !(parLost && pos == (j + n - 1) % n)

/-- Key of a slot. -/
def cKey (k j : Nat) : Nat := k * stackSlots + j

/-- Stack and number of a slot key. -/
def slotParts (k : Nat) : Nat × Nat := (k / stackSlots, k % stackSlots)

/-! ### Lines and channels (R194, R195, R198, R200, R229) -/

/-- The pseudo-channel of a line of a slot (R195). -/
def lineChannel (k line : Nat) : Nat := (line + (slotParts k).2) % 64

/-- A pseudo-channel serves no reads: it retrains or is lost (R229). -/
def channelOut (s : State) (stack ch : Nat) : Bool := s.ci.pcRetrain == some (stack, ch) || s.ci.lostPcs.contains (stack, ch)

/-- A line cannot be read where it lies: its stack or its channel does not serve it (R198, R229, R230). -/
def lineOut (s : State) (k line : Nat) : Bool := stackLost s (slotParts k).1 || channelOut s (slotParts k).1 (lineChannel k line)

/-- The other members of the stripe of a slot; a rebuilt stripe has none on the lost stack (R194, R231). -/
def otherMembers (s : State) (k : Nat) : List Nat :=
  ((presentStacks s).filter fun m => m != (slotParts k).1 && stackState s m != 5).map fun m => cKey m (slotParts k).2

/-- Another member of the stripe cannot deliver its line (R198). -/
def memberOut (s : State) (k line : Nat) : Bool := (otherMembers s k).any fun m => lineOut s m line

/-- The parity member of the stripe of a slot: on stack j mod S, and after the loss of that one in the slot of the last data member (R194, R231). -/
def paritySlot (s : State) (k : Nat) : Nat :=
  let all := presentStacks s
  let n := all.length
  let j := (slotParts k).2
  let par := all.getD (j % n) 0
  if stackLost s par && decide (3 ≤ getObj s oCisternState) then cKey (all.getD ((j + n - 1) % n) 0) j else cKey par j

/-- Line reads and writes counted at a stack (R612). -/
def countLines (stack reads writes : Nat) (s : State) : State :=
  let s := if reads = 0 then s else perfCount 0x08 stack reads s
  if writes = 0 then s else perfCount 0x09 stack writes s

/-- The other members of a stripe are read for a reconstruction (R198). -/
def readMembers (k line : Nat) (s : State) : State :=
  (otherMembers s k).foldl (fun s m => if lineOut s m line then s else countLines (slotParts m).1 1 0 s) s

/-- A write of a line: old line and parity line are read and written (R200). A line that is out is reconstructed and left stale, and a parity line that is out is not updated (R229, R230). -/
def writeLine (k line : Nat) (s : State) : State :=
  let s := if lineOut s k line then
      let s := readMembers k line s
      { s with ci := { s.ci with stale := if s.ci.stale.contains (k, line) then s.ci.stale else (k, line) :: s.ci.stale } }
    else countLines (slotParts k).1 1 1 s
  let p := paritySlot s k
  if lineOut s p line then s else countLines (slotParts p).1 1 1 s

/-- The lines that bytes at an offset of a slot touch. -/
def linesOfBytes (off len : Nat) : List Nat := if len = 0 then [] else (List.range ((off + len - 1) / 64 + 1 - off / 64)).map (off / 64 + ·)

/-- A slot lies on a lost stack, or on one with a channel out or lost (R213). -/
def slotImpaired (s : State) (k : Nat) : Bool := stackState s (slotParts k).1 != 1

/-- A write of lines of a slot; with its stack and that of the parity up, it is counted in one sum. -/
def writeLines (k : Nat) (lines : List Nat) (s : State) : State :=
  let p := paritySlot s k
  if slotImpaired s k || slotImpaired s p then lines.foldl (fun s l => writeLine k l s) s
  else countLines (slotParts p).1 lines.length lines.length (countLines (slotParts k).1 lines.length lines.length s)

/-- A read of lines of a slot, those that are out by way of the other members. -/
def readLines (k : Nat) (lines : List Nat) (s : State) : State :=
  if slotImpaired s k then lines.foldl (fun s l => if lineOut s k l then readMembers k l s else countLines (slotParts k).1 1 0 s) s
  else countLines (slotParts k).1 lines.length 0 s

/-- The copy that fills a shadow slot: 1,024 line reads and 1,024 line writes (R205). -/
def copyLines (old new : Nat) (s : State) : State := writeLines new (List.range 1024) (readLines old (List.range 1024) s)

/-- A slot of the state. -/
def getC (s : State) (key : Nat) : CSlot := mapGet CSlot.init s.ci.slots key

/-- A slot set. -/
def setC (key : Nat) (c : CSlot) (s : State) : State := { s with ci := { s.ci with slots := mapSet CSlot.init s.ci.slots key c } }

/-- The lowest free data slot of a stack at or after `j` (R203). -/
def firstFree (s : State) (k : Nat) : Nat → Nat → Option Nat
  | 0, _ => none
  | n + 1, j => if isDataSlot s k j ∧ (getC s (cKey k j)).st = .free then some (cKey k j) else firstFree s k n (j + 1)

/-- The order in which stacks are tried: the writer's die, or spread (R203). -/
def placementOrder (s : State) (spread : Bool) (die q : Nat) : List Nat :=
  let up := upStacks s
  if spread then
    let all := presentStacks s
    let n := all.length
    ((List.range n).map fun i => all.getD ((q + i) % n) 0).filter fun k => !(stackLost s k)
  else
    let a := 2 * die + q % 2
    let b := 2 * die + (1 - q % 2)
    ([a, b].filter fun k => up.contains k) ++ (up.filter fun k => k != a && k != b)

/-- The slot for region page `q`, written from die `die`, on the stacks in an order (R203). -/
def placeOn (s : State) : List Nat → Option Nat
  | [] => none
  | k :: ks => match firstFree s k regionStripes 0 with
    | some j => some j
    | none => placeOn s ks

/-- The slot that R203 gives a region page of partition `p`. -/
def placeSlot (s : State) (p die q : Nat) : Option Nat :=
  placeOn s (placementOrder s (getObj s (oRegionPlacement p) == 1) die q)

/-- Key of a region page. -/
def rKey (p q : Nat) : Nat := p * 2 ^ 23 + q

/-- The versions of a region page, newest first. -/
def versions (s : State) (p q : Nat) : List Version := mapGet [] s.ci.pages (rKey p q)

/-- Oldest versions that say "unmapped" say nothing. -/
def trimVersions (vs : List Version) : List Version := (vs.reverse.dropWhile fun v => v.slot.isNone).reverse

/-- The versions of a region page set. -/
def setVersions (p q : Nat) (vs : List Version) (s : State) : State :=
  { s with ci := { s.ci with pages := mapSet [] s.ci.pages (rKey p q) (trimVersions vs) } }

/-- The version that a reader of a serial sees: the newest commit before it (R204, R207). -/
def versionAt (vs : List Version) (serial : Nat) : Option Nat :=
  match vs.find? fun v => decide (v.serial < serial) with
  | some v => v.slot
  | none => none

/-- The slot of a region page that a reader sees. -/
def slotAt (s : State) (p q serial : Nat) : Option Nat := versionAt (versions s p q) serial

/-- The slot a region page is mapped to now. -/
def slotNow (s : State) (p q : Nat) : Option Nat := slotAt s p q s.ci.serial

/-- Pages of each of the two copies of a partition's weights (R212). -/
def weightPages (s : State) (p : Nat) : Nat :=
  match (getPart s p).loaded with
  | some l => (l.weights + 65535) / 65536
  | none => 0

/-- The region page that a read of page `q` reads: that of copy 2 for a page of copy 1 of the weights that is impaired (R213). -/
def weightPage (s : State) (p serial q : Nat) : Nat :=
  match slotAt s p q serial with
  | some k => if decide (q < weightPages s p) && slotImpaired s k then q + weightPages s p else q
  | none => q

/-- One byte of a region as a reader sees it; an unmapped page reads zero, and an impaired page of the weights is read from their second copy (R204, R213). -/
def regionByte (s : State) (p serial off : Nat) : Byte :=
  match slotAt s p (weightPage s p serial (off / 65536)) serial with
  | some k => pageByte (getC s k).page (off % 65536)
  | none => 0

/-- Slots of a partition's region in a state, those of the margin left out (R207, R239). -/
def countSlots (s : State) (p : Nat) (st : PageState) : Nat :=
  (s.ci.slots.filter fun e => e.2.st == st && e.2.part == p && !e.2.margin).length

/-- Slots charged to the fallback margin (R207). -/
def marginUse (s : State) : Nat := (s.ci.slots.filter fun e => e.2.margin).length

/-- Mapped, shadow and retired slots of a region (R202). -/
def regionUse (s : State) (p : Nat) : Nat :=
  (s.ci.slots.filter fun e => e.2.part == p && !e.2.margin).length

/-- Stripes that regions may use whose number has remainder `r` modulo `n`. -/
def stripesAt (n r : Nat) : Nat := (regionStripes + n - 1 - r) / n

/-- Data slots of a stack that regions may use: the stripes of which it holds neither the parity member nor, from a rebuild on, the member that takes its place (R194, R231). -/
def dataSlots (s : State) (k : Nat) : Nat :=
  let all := presentStacks s
  let n := all.length
  let pos := stackPos s k
  regionStripes - stripesAt n pos -
    sumNat (((List.range n).filter fun r => stackLost s (all.getD r 0) && decide (3 ≤ getObj s oCisternState) && pos == (r + n - 1) % n).map (stripesAt n ·))

/-- cistern.free: data slots that are free; the free slots of a lost stack are lost (R230, R235, R236). -/
def freeSlots (s : State) : Nat :=
  sumNat ((upStacks s).map (dataSlots s)) -
    (s.ci.slots.filter fun e => e.2.st != .free && (upStacks s).contains (slotParts e.1).1 && isDataSlot s (slotParts e.1).1 (slotParts e.1).2).length

/-- cistern.reserved_total (R236). -/
def reservedTotal (s : State) : Nat := sumNat ((List.range 16).map fun p => getObj s (oRegionReserve p))

/-- The die of an engine's writes: where its logical tile or engine sits (R203). -/
def engineDie (s : State) (eng : Nat) : Nat :=
  if eng < 32 then (match siteOf s eng with
    | some k => k / 8
    | none => eng / 8)
  else if eng < 36 then eng - 32 else if eng < 40 then eng - 36 else (eng - 40) / 2

/-! ### Tags -/

/-- A tag of the state. -/
def getTag (s : State) (t : Nat) : Option Tag := mapFind s.ci.tags t

/-- A tag set. -/
def setTag (t : Nat) (x : Tag) (s : State) : State := { s with ci := { s.ci with tags := mapPut s.ci.tags t x } }

/-- A tag returned to the free pool. -/
def freeTag (t : Nat) (s : State) : State := { s with ci := { s.ci with tags := mapErase s.ci.tags t } }

/-- The tag a command takes: the lowest free one of its kind, 64 of the 4,096 being kept for fallback commands (R207). -/
def pickTag (s : State) (fallback : Bool) : Option Nat :=
  let used := mapKeys s.ci.tags
  ((List.range (if fallback then 64 else 4032)).map fun i => if fallback then 4032 + i else i).find? fun t => !(used.contains t)

/-- The shadow slot of a tag's region page, if it has one. -/
def tagShadow (t : Tag) (q : Nat) : Option Nat := (t.entries.find? fun e => e.1 == q).map (·.2)

/-- The version entry of a commit with a fresh serial. -/
def pushVersion (p q : Nat) (slot step : Option Nat) (s : State) : State :=
  setVersions p q ({ slot := slot, step := step, serial := s.ci.serial } :: versions s p q) s

/-- A slot replaced by a commit becomes retired (R210, R211). -/
def retireSlot (k : Nat) (step : Option Nat) (serial : Nat) (s : State) : State :=
  let c := getC s k
  if c.st = .mapped then setC k { c with st := .retired, replStep := step, replSerial := serial } s else s

/-- A slot freed: it leaves every version list (R211). -/
def freeSlotAt (k : Nat) (s : State) : State :=
  let c := getC s k
  let s := setVersions c.part c.rpage ((versions s c.part c.rpage).filter fun v => v.slot != some k) s
  setC k CSlot.init s

/-- Intervals cover [pos, n). -/
def covers (n : Nat) : Nat → Nat → List (Nat × Nat) → Bool
  | 0, pos, _ => decide (n ≤ pos)
  | f + 1, pos, ivs =>
    if n ≤ pos then true
    else match ivs.find? fun e => decide (e.1 ≤ pos) && decide (pos < e.1 + e.2) with
      | some e => covers n f (e.1 + e.2) ivs
      | none => false

/-- A command wrote every byte of its shadow page (R205, R586). -/
def wroteAll (c : CSlot) : Bool := covers 65536 c.written.length 0 c.written

/-- The version before the newest one that holds slot `k`. -/
def replacedBy (vs : List Version) (k : Nat) : Option (Nat × Version) :=
  match vs.dropWhile fun v => v.slot != some k with
  | v :: w :: _ => w.slot.map fun r => (r, v)
  | _ => none

/-- One entry of a tag settled: mapped with the replaced slot retired, or freed (R209, R210). -/
def settleEntry (tag : Tag) (e : Nat × Nat) (s : State) : State :=
  match tag.st with
  | .live => s
  | .killed => freeSlotAt e.2 s
  | .committed =>
    let c := getC s e.2
    let s := setC e.2 { c with st := .mapped, written := [] } s
    match replacedBy (versions s tag.part e.1) e.2 with
    | some (r, v) => retireSlot r v.step v.serial s
    | none => s

/-- The committed, unsettled entries of a region page settled first (R210). -/
def settlePage (p q : Nat) (s : State) : State :=
  (mapKeys s.ci.tags).foldl (fun s t =>
    match getTag s t with
    | some tag =>
      if tag.part = p ∧ tag.st = .committed ∧ (tagShadow tag q).isSome then
        let s := (tag.entries.filter (·.1 == q)).foldl (fun s e => settleEntry tag e s) s
        let rest := tag.entries.filter (·.1 != q)
        if rest = [] then freeTag t s else setTag t { tag with entries := rest } s
      else s
    | none => s) s

/-- The shadow slot filled from the page's mapped version, or with undefined bytes where it is unmapped (R205). -/
def shadowFill (s : State) (p q : Nat) : Page × State :=
  match slotNow s p q with
  | some k => ((getC s k).page, s)
  | none => ({ base := some s.free, cells := [] }, useFree s)

/-- A page that is being moved is written: its new slot is free again, and the page is skipped (R232). -/
def skipMove (p q : Nat) (m : Option PageMove) (s : State) : Option PageMove × State :=
  match m with
  | some x =>
    if x.part = p ∧ x.page = q then
      (some { x with slot := none, skip := true }, match x.slot with
        | some k => setC k CSlot.init s
        | none => s)
    else (m, s)
  | none => (m, s)

/-- A switch of this cycle is undone: the allocation wins (R234). -/
def undoSwitch (p q : Nat) (s : State) : State :=
  match s.now.switched.find? fun e => e.1 == p && e.2.1 == q && (getC s e.2.2.1).st == .retired with
  | some (_, _, old, new) =>
    let s := setVersions p q ((versions s p q).drop 1) s
    let c := getC s old
    let s := setC new CSlot.init (setC old { c with st := .mapped, replStep := none, replSerial := 0 } s)
    { s with now := { s.now with switched := s.now.switched.filter fun e => !(e.1 == p && e.2.1 == q) } }
  | none => s

/-- A writer takes a shadow of a region page: a migration or a rebuild skips the page (R232, R234). -/
def skipMoves (p q : Nat) (s : State) : State :=
  let s := undoSwitch p q s
  let a := skipMove p q s.ci.moving s
  let s := { a.2 with ci := { a.2.ci with moving := a.1 } }
  let b := skipMove p q s.ci.rebuilding s
  { b.2 with ci := { b.2.ci with rebuilding := b.1 } }

/-- The shadow slot of a region page of a command's tag, allocated at the first write; none while no slot or no margin is free (R203, R205, R207). -/
def ensureShadow (t : Nat) (die q : Nat) (s : State) : Option (Nat × State) :=
  match getTag s t with
  | none => none
  | some tag =>
    match tagShadow tag q with
    | some k => some (k, s)
    | none =>
      let s := skipMoves tag.part q (settlePage tag.part q s)
      if tag.fallback ∧ getObj s oCisternFallbackMargin ≤ marginUse s then none
      else match placeSlot s tag.part die q with
        | none => none
        | some k =>
          let (pg, s) := shadowFill s tag.part q
          let c : CSlot := { CSlot.init with st := .shadow, part := tag.part, rpage := q, margin := tag.fallback, page := pg }
          some (k, setTag t { tag with entries := (q, k) :: tag.entries } (setC k c s))

/-- Bytes written into a shadow slot. -/
def writeShadowSlot (k off : Nat) (bs : List Byte) (s : State) : State :=
  let c := getC s k
  setC k { c with page := pageWrite c.page off bs, written := (off, bs.length) :: c.written } s

/-- A commit of a tag: reads from now on see its shadows; damage ends where it wrote every byte (R204, R208, R586). -/
def commitTag (t : Nat) (step : Option Nat) (s : State) : State :=
  match getTag s t with
  | none => s
  | some tag =>
    let s := tag.entries.foldl (fun s e =>
      let s := pushVersion tag.part e.1 (some e.2) step s
      if wroteAll (getC s e.2) then { s with ci := { s.ci with damaged := s.ci.damaged.filter (· != rKey tag.part e.1) } } else s) s
    let s := setTag t { tag with st := .committed, step := step.getD 0 } s
    { s with ci := { s.ci with serial := s.ci.serial + 1 } }

/-- Pages of a range unmapped by a release's commit; their slots retire (R224). -/
def unmapRange (p first count : Nat) (step : Option Nat) (s : State) : State :=
  let keys := (mapKeys s.ci.pages).filter fun k => decide (rKey p first ≤ k) && decide (k < rKey p (first + count)) && decide (k < rKey (p + 1) 0)
  let serial := s.ci.serial
  let s := keys.foldl (fun s k =>
    let q := k - rKey p 0
    let s := settlePage p q s
    match slotNow s p q with
    | some c =>
      let s := pushVersion p q none step s
      let s := retireSlot c step serial s
      { s with ci := { s.ci with damaged := s.ci.damaged.filter (· != k) } }
    | none => s) s
  { s with ci := { s.ci with serial := s.ci.serial + 1 } }

/-- A tag settled: every entry, then the tag returns to the pool (R210). -/
def settleTag (t : Nat) (s : State) : State :=
  match getTag s t with
  | none => s
  | some tag =>
    if tag.st = .live then s
    else freeTag t (tag.entries.foldl (fun s e => settleEntry tag e s) s)

/-- A killed command's tag (R209). -/
def killTag (t : Nat) (s : State) : State :=
  match getTag s t with
  | none => s
  | some tag => setTag t { tag with st := .killed } s

end Sys2Proof.Machine
end

