-- ==== Sys2Proof/Machine/Route.lean ====
section
/-!
DEFINITION. Routes over the on-package network (R156, R163, R164, R166, R168, R169): the dies a flit passes, the Uzoquin links it crosses and the mesh hops it makes.
-/

namespace Sys2Proof.Machine

/-- The two ends of a link; the hub counts as die 4 (R168). -/
def linkEnds (k : Nat) : Nat × Nat := [(0, 1), (2, 3), (0, 2), (1, 3), (0, 4), (1, 4), (2, 4), (3, 4)].getD k (0, 0)

/-- The link that joins two dies. -/
def linkBetween (a b : Nat) : Option Nat := (List.range 8).find? fun k => linkEnds k == (a, b) || linkEnds k == (b, a)

/-- link_state[k] (R192). -/
def linkState (s : State) (k : Nat) : Nat := getField s oFabricLinks (4 * k + 3) (4 * k)

/-- link_state[k] set. -/
def setLinkState (k v : Nat) (s : State) : State := setField oFabricLinks (4 * k + 3) (4 * k) v s

/-- The link carries traffic. -/
def linkUp (s : State) (k : Nat) : Bool := (linkState s k == 1 || linkState s k == 2) && !s.pw.computeOff

/-- The links that a path over these dies crosses, in order. -/
def linksOf : List Nat → List Nat
  | a :: b :: rest => (linkBetween a b).toList ++ linksOf (b :: rest)
  | _ => []

/-- Every link of a path carries traffic. -/
def pathUp (s : State) (path : List Nat) : Bool := (linksOf path).all (linkUp s)

/-- fabric.diag_route: diagonal traffic passes through die a XOR 2 (R164). -/
def diagRoute (s : State) : Bool := objBit s oFabricDiagRoute 0

/-- The dies that a flit from die `a` to die `b` passes while every link is up (R164). -/
def plainPath (s : State) (a b : Nat) : List Nat :=
  if a = b then [a] else if b = a ^^^ 3 then [a, a ^^^ (if diagRoute s then 2 else 1), b] else [a, b]

/-- The path that R169 gives in place of one with a link that does not carry traffic. -/
def otherPath (s : State) (a b : Nat) : List Nat :=
  if a = 4 then [4, b ^^^ 1, b]
  else if b = 4 then [a, a ^^^ 1, 4]
  else if grade s = 2 then [a, 4, b]
  else if b = a ^^^ 3 then [a, a ^^^ (if diagRoute s then 1 else 2), b]
  else
    let side := (a ^^^ b) ^^^ 3
    [a, a ^^^ side, b ^^^ side, b]

/-- The dies that a flit passes, the hub counting as die 4 (R164, R169). -/
def pathOf (s : State) (a b : Nat) : List Nat := if pathUp s (plainPath s a b) then plainPath s a b else otherPath s a b

/-- The position where a flit at (column, row) of die `a` leaves it for die `b`: the attach router of R163 that R164 names. -/
def exitAt (a b : Nat) (c : Nat × Nat) : Nat × Nat :=
  if b = a ^^^ 1 then (if a % 2 = 0 then 3 else 0, c.2)
  else (if c.1 < 2 then 1 else 2, if (b == 4) == decide (a < 2) then 0 else 1)

/-- The position where it enters die `b`: the facing column of its row, or the facing row of its column (R163). -/
def entryAt (a b : Nat) (e : Nat × Nat) : Nat × Nat := if b = a ^^^ 1 then (3 - e.1, e.2) else (e.1, 1 - e.2)

/-- Mesh hops between two positions of a die: column first, then row (R164). -/
def hopsBetween (c d : Nat × Nat) : Nat := (c.1 - d.1) + (d.1 - c.1) + (c.2 - d.2) + (d.2 - c.2)

/-- Mesh hops along a path over compute dies, from one position to another. -/
def hopsAlong (dest : Nat × Nat) : List Nat → Nat × Nat → Nat
  | a :: b :: rest, c => hopsBetween c (exitAt a b c) + hopsAlong dest (b :: rest) (entryAt a b (exitAt a b c))
  | _, c => hopsBetween c dest

/-- The position of a physical tile on its die: column and row (R156). -/
def meshAt (site : Nat) : Nat × Nat := (site % 8 % 4, site % 8 / 4)

/-- T_path of R166 for `bytes` bytes between two physical tiles, with no other traffic. -/
def pathTime (s : State) (a b bytes : Nat) : Nat :=
  let path := pathOf s (a / 8) (b / 8)
  ceilDiv bytes 256 + 2 * (4 * hopsAlong (meshAt b) path (meshAt a) + 22 * (linksOf path).length) + 8

/-- A transfer of data from die `a` to die `b`: its flits of 256 bytes cross the links of its path and are counted there (R163, R612). The flits of requests, acknowledgements and commit messages have no stated number and are not counted (DESIGN CHOICE, log entry 88). -/
def crossLinks (a b bytes : Nat) (s : State) : State :=
  (linksOf (pathOf s a b)).foldl (fun s k => perfCount 0x06 k (ceilDiv bytes 256) s) s

end Sys2Proof.Machine
end

