-- ==== Sys2Proof/Machine/Queues.lean ====
section
/-!
DEFINITION. Command queues of every engine (03_tensor_tile.md): publication, watches, kills, commit requests, refusals, withdrawals, and the reset sequence of R318 as far as queues take part in it.
-/

namespace Sys2Proof.Machine

/-! ### Fields of a command (R72, R73) -/

/-- Unit field. -/
def cUnit (x : Slot) : Nat := bits (cw x 0) 31 28
/-- Opcode field. -/
def cOpcode (x : Slot) : Nat := bits (cw x 0) 27 20
/-- Signal increment. -/
def cIncrement (x : Slot) : Nat := bits (cw x 0) 19 12
/-- Wait enable. -/
def cWaits (x : Slot) : Bool := bit (cw x 0) 11
/-- Wait object. -/
def cWaitObject (x : Slot) : Nat := bits (cw x 1) 31 16
/-- Signal object. -/
def cSignalObject (x : Slot) : Nat := bits (cw x 1) 15 0
/-- Wait value. -/
def cWaitValue (x : Slot) : Nat := cw x 2
/-- Job number. -/
def cJob (x : Slot) : Nat := bits (cw x 3) 31 16

/-! ### Sync updates (R330 to R336) -/

/-- A count. -/
def syncCount (s : State) (i : Nat) : Nat := (mapGet 0 s.sy.counts i).toNat

/-- A count set. -/
def setSyncCount (i v : Nat) (s : State) : State :=
  { s with sy := { s.sy with counts := mapSet 0 s.sy.counts i (BitVec.ofNat 32 v) } }

/-- The wait condition (R331). -/
def waitHolds (count value : Nat) : Bool := decide ((count + 2 ^ 32 - value % 2 ^ 32) % 2 ^ 32 < 2 ^ 31)

/-- A bank of the store. -/
def getBank (s : State) (b : Nat) : Bank := mapGet Bank.init s.sy.banks b

/-- A bank set. -/
def setBank (b : Nat) (x : Bank) (s : State) : State := { s with sy := { s.sy with banks := mapSet Bank.init s.sy.banks b x } }

/-- The class of an update: that of the partition whose range holds the object; a fill's updates are best-effort (R334, R352). -/
def updateClass (s : State) (u : Update) : BankClass :=
  match u.source with
  | .fill _ => .be
  | _ => match syncOwner s u.object with
    | none => .be
    | some p => if isDet s p then .det else if isLc s p then .lc else .be

/-- The updates of a bank in one of its queues. -/
def classQueue (k : Bank) : BankClass → List Update
  | .lc => k.lc
  | .be => k.be
  | .det => k.det

/-- A queue of a bank set. -/
def setClassQueue (k : Bank) (l : List Update) : BankClass → Bank
  | .lc => { k with lc := l }
  | .be => { k with be := l }
  | .det => { k with det := l }

/-- Entries of a queue of a bank (R320, R344, R364). -/
def classSize : BankClass → Nat
  | .lc => 464
  | .be => 256
  | .det => 64

/-- The queue of an update has room. -/
def updateRoom (s : State) (u : Update) : Bool :=
  let c := updateClass s u
  decide ((classQueue (getBank s (u.object % 16)) c).length < classSize c)

/-- A source holds an update: it sends no other (R320). -/
def sourceHolds (s : State) (x : Source) : Bool := s.sy.held.any fun u => u.source == x

/-- The update comes from commands, not from software (R333). -/
def isSignal (u : Update) : Bool :=
  match u.source with
  | .engine _ | .retire _ => true
  | _ => false

/-- A list with an update before the `n` last sets of its object. -/
def beforeSets (n : Nat) (u : Update) (l : List Update) : List Update :=
  let at_ := (List.range l.length).filter fun i => match l[i]? with
    | some v => v.set && v.object == u.object
    | none => false
  let i := (at_.drop (at_.length - n)).headD l.length
  l.take i ++ [u] ++ l.drop i

/-- An update enters its queue: at its end, a signal before the software sets of its object that entered in this cycle (R343). -/
def enterUpdate (u : Update) (s : State) : State :=
  let c := updateClass s u
  let b := u.object % 16
  let k := getBank s b
  let l := classQueue k c
  let n := if isSignal u then s.now.sets.count (c, u.object) else 0
  let l := if n = 0 then l ++ [u] else beforeSets n u l
  setBank b (setClassQueue k l c) (if u.set then { s with now := { s.now with sets := (c, u.object) :: s.now.sets } } else s)

/-- An update is sent: it enters its queue, or its source holds it while the queue is full, or while it holds another (R320). -/
def sendUpdate (u : Update) (s : State) : State :=
  if sourceHolds s u.source || !(updateRoom s u) then { s with sy := { s.sy with held := s.sy.held ++ [u] } } else enterUpdate u s

/-- The held updates that can enter their queues: each the oldest of its source. -/
def enterable (s : State) : List Update :=
  s.sy.held.filter fun u => updateRoom s u && (s.sy.held.find? fun v => v.source == u.source) == some u

/-- Held updates enter as their queues have room: of several, the one of the lowest partition first (R320, R323). -/
def enterHeld : Nat → State → State
  | 0, s => s
  | n + 1, s =>
    match enterable s with
    | [] => s
    | u :: us =>
      let v := us.foldl (fun a b => if b.part < a.part then b else a) u
      enterHeld n (enterUpdate v { s with sy := { s.sy with held := s.sy.held.erase v } })

/-- A signal, retirement or cut (R333). -/
def sendSignal (source : Source) (part object increment : Nat) (s : State) : State :=
  if increment = 0 then s else sendUpdate { object := object, set := false, value := increment, source := source, part := part } s

/-- A probe (R336). -/
def sendProbe (source : Source) (part object : Nat) (s : State) : State :=
  sendUpdate { object := object, set := false, value := 0, source := source, part := part } s

/-- The notification queue of a compute die (R320). -/
def getNotices (s : State) (d : Nat) : List (Nat × Nat) := mapGet [] s.sy.notices d

/-- It is set. -/
def setNotices (d : Nat) (l : List (Nat × Nat)) (s : State) : State := { s with sy := { s.sy with notices := mapSet [] s.sy.notices d l } }

/-- A notification to a queue that no command waits for any more is gone (R336). -/
def dropNotice (eng q : Nat) (s : State) : State :=
  setNotices (engineDie s eng) ((getNotices s (engineDie s eng)).erase (eng, q)) s

/-- The watches of queue heads that an applied update satisfies send a notification, through the queue of their die, and disarm (R320, R336). -/
def notifyQueues (object : Nat) (s : State) : State :=
  allQueues.foldl (fun s e =>
    let x := getQueue s e.1 e.2
    match x.watch with
    | some (o, v) =>
      if o = object ∧ waitHolds (syncCount s o) v = true then
        setNotices (engineDie s e.1) (getNotices s (engineDie s e.1) ++ [e]) (setQueue e.1 e.2 { x with watch := none, notified := true } s)
      else s
    | none => s) s

/-- A host watch sends its message and disarms (R342, R346). -/
def fireHostWatch (w : Nat) (s : State) : State :=
  let c := getObj s (oHostWatchControl w)
  let s := { s with sy := { s.sy with hostArmed := mapErase s.sy.hostArmed w } }
  let s := setObj (oHostWatchControl w) (setBit c 15 false) s
  let s := addObj (oHostWatchFired w) 1 s
  sendMsix (bits c 11 11) (bits c 10 0) s

/-- Armed host watches compare every update of their object (R342). -/
def notifyHosts (object : Nat) (s : State) : State :=
  (List.range 16).foldl (fun s w =>
    match mapFind s.sy.hostArmed w with
    | some (o, v) => if o = object ∧ waitHolds (syncCount s o) v = true then fireHostWatch w s else s
    | none => s) s

/-- An update is applied and compared with every watch (R333, R335, R336). -/
def applyUpdate (u : Update) (s : State) : State :=
  let s := setSyncCount u.object (if u.set then u.value % 2 ^ 32 else (syncCount s u.object + u.value) % 2 ^ 32) s
  let s := perfCount 0x0C (u.object % 16) 1 s
  notifyHosts u.object (notifyQueues u.object s)

/-- The first update of a queue of a bank is applied; a held one may take its place (R320). -/
def applyFrom (b : Nat) (c : BankClass) (s : State) : State :=
  let k := getBank s b
  match classQueue k c with
  | u :: rest =>
    let s := applyUpdate u (setBank b (setClassQueue k rest c) s)
    enterHeld s.sy.held.length s
  | [] => s

/-- The class that a bank serves next outside the DET slots: the latency-critical queue first (R320). What scheduled mode has left in the DET queue goes before both once it has ended (R343, R351: the updates keep the class they entered with; the place is a DESIGN CHOICE, log entry 19). -/
def nextClass (s : State) (b : Nat) : BankClass :=
  let k := getBank s b
  if getObj s oDetActive = 0 ∧ k.det ≠ [] then .det else if k.lc = [] then .be else .lc

/-! ### The head of a queue -/

/-- The slot at the head of a queue, if a command stands there. -/
def headSlot (s : State) (eng q : Nat) : Option Nat :=
  let x := getQueue s eng q
  if x.head = x.tail then none else some (x.head % slotsOf eng)

/-- The head pointer passes over a command in this standing (R78, R89, R307, R314). -/
def headPasses : Phase → Bool
  | .requested | .granted | .refused _ | .abandoned | .withdrawn | .done => true
  | .waiting | .running | .finished | .killing _ _ => false

/-- The head pointer moved past the commands it passes over. -/
def passedHead (s : State) (eng q tail : Nat) : Nat → Nat → Nat
  | 0, h => h
  | n + 1, h =>
    if h = tail then h
    else if headPasses (getSlot s eng q (h % slotsOf eng)).phase then passedHead s eng q tail n ((h + 1) % ptrMod eng) else h

/-- The head command arms its queue's watch and sends its probe (R336). -/
def armHead (eng q : Nat) (s : State) : State :=
  match headSlot s eng q with
  | none => s
  | some sl =>
    let x := getQueue s eng q
    let c := getSlot s eng q sl
    if c.phase = .waiting ∧ cWaits c = true ∧ x.watch = none ∧ x.notified = false ∧ x.latched = false then
      sendProbe (.watch eng q) c.part (cWaitObject c) (setQueue eng q { x with watch := some (cWaitObject c, cWaitValue c) } s)
    else s

/-! ### The weight store of a rim engine (R139, R140, R152, R153) -/

/-- The command reads weights from operand B: a stem or a head. -/
def usesWeights (x : Slot) : Bool := cUnit x == 5 && (cOpcode x == 1 || cOpcode x == 2)

/-- The slot key, plus one, of the command whose weights a rim engine's idle buffer loads; 0 when it loads none. -/
def weightLoad (s : State) (eng : Nat) : Nat := mapGet 0 s.tl.loads eng

/-- The idle buffer of a rim engine loads for a command, or for none. -/
def setWeightLoad (eng v : Nat) (s : State) : State := { s with tl := { s.tl with loads := mapSet 0 s.tl.loads eng v } }

/-- The slot key, plus one, of the command that holds a rim engine; 0 when it is idle. -/
def rimHolder (s : State) (eng : Nat) : Nat := mapGet 0 s.tl.units (512 + (eng - 32))

/-- The command of a slot key. -/
def keySlot (s : State) (k : Nat) : Slot := getSlot s (k / 256 / 8) (k / 256 % 8) (k % 256)

/-- A waiting head of a rim queue that has weights to load: its slot key, plus one. -/
def weightHead (s : State) (eng q : Nat) : Option Nat :=
  (headSlot s eng q).bind fun sl =>
    let x := getSlot s eng q sl
    if x.phase == .waiting && usesWeights x then some (sKey eng q sl + 1) else none

/-- The command whose weights the idle buffer loads: the one it loads already, while that waits at its queue's head; else, while a command runs, the next head, fallback first (R140; which of several waiting heads it loads for is not stated: DESIGN CHOICE, log entry 87). -/
def nextLoad (s : State) (eng : Nat) : Nat :=
  let waiting := [4, 0, 1, 2, 3].filterMap (weightHead s eng)
  if waiting.contains (weightLoad s eng) then weightLoad s eng
  else if rimHolder s eng = 0 then 0 else waiting.headD 0

/-- A rim engine's idle buffer follows its queues. -/
def refreshLoad (eng : Nat) (s : State) : State := if 32 ≤ eng ∧ eng < 36 then setWeightLoad eng (nextLoad s eng) s else s

/-- What the idle buffer has loaded for a command is discarded (R152). -/
def dropLoad (eng q sl : Nat) (s : State) : State := if weightLoad s eng = sKey eng q sl + 1 then setWeightLoad eng 0 s else s

/-- The two weight buffers of a rim engine: in use, loading and idle (R153). -/
def weightBooks (s : State) (eng : Nat) : Nat × Nat × Nat :=
  let used := if rimHolder s eng ≠ 0 ∧ usesWeights (keySlot s (rimHolder s eng - 1)) = true then 1 else 0
  let loading := if weightLoad s eng ≠ 0 then 1 else 0
  (used, loading, 2 - used - loading)

/-- A command that leaves its queue undispatched, or is killed, loses its latch, the weights loaded for it, and its place among those that wait to be withdrawn (R152, R307, R332). -/
def dropWaiting (eng q sl : Nat) (s : State) : State :=
  let x := getQueue s eng q
  dropLoad eng q sl (if x.woken.contains sl || x.doomed.contains sl then
    setQueue eng q { x with woken := x.woken.filter (· != sl), doomed := x.doomed.filter (· != sl) } s else s)

/-- The head pointer set: the watch of the head it leaves is released, and the new head arms its own (R336). A latch goes with a dispatch, a withdrawal or the reset of R318; of a head that still waits, because a kill moved the pointer back, it stays with the command (R332). -/
def moveHead (eng q h : Nat) (s : State) : State :=
  let x := getQueue s eng q
  let h := passedHead s eng q x.tail (ptrMod eng) h
  if h = x.head then armHead eng q (refreshLoad eng s)
  else
    let old := x.head % slotsOf eng
    let new := h % slotsOf eng
    let woken := if x.latched && (getSlot s eng q old).phase == .waiting then old :: x.woken else x.woken
    let s := if x.notified then dropNotice eng q s else s
    armHead eng q (refreshLoad eng (setQueue eng q { x with head := h, watch := none, notified := false, latched := woken.contains new, woken := woken.filter (· != new) } s))

/-- The head moves on past what has left it. -/
def settleHead (eng q : Nat) (s : State) : State := moveHead eng q (getQueue s eng q).head s

/-- The commit pointer moved past finished commands. -/
def passedCommit (s : State) (eng q head : Nat) : Nat → Nat → Nat
  | 0, c => c
  | n + 1, c =>
    if c = head then c
    else match (getSlot s eng q (c % slotsOf eng)).phase with
      | .done | .withdrawn => passedCommit s eng q head n ((c + 1) % ptrMod eng)
      | _ => c

/-- Slots that the commit pointer has passed are free (R79). -/
def advanceCommit (eng q : Nat) (s : State) : State :=
  let x := getQueue s eng q
  let c := passedCommit s eng q x.head (ptrMod eng) x.commit
  let gone := slotsBetween eng x.commit c
  let s := gone.foldl (fun s sl => updSlot eng q sl (fun y => { y with phase := .waiting, run := Run.init }) s) s
  setQueue eng q { x with commit := c, doomed := x.doomed.filter fun sl => !(gone.contains sl) } s

/-- The notification of a queue is the one that its die serves: the first, or in scheduled mode the first of its kind, those of DET partitions in even cycles (R320, R352). -/
def noticeTurn (s : State) (eng q : Nat) : Bool :=
  let det (e : Nat × Nat) : Bool := isDet s (queuePart s e.1 e.2)
  let l := getNotices s (engineDie s eng)
  if getObj s oDetActive = 1 then
    (l.filter fun e => det e == det (eng, q)).head? == some (eng, q) && decide (cycle s % 2 = 0) == det (eng, q)
  else l.head? == some (eng, q)

/-- WATCH_NOTIFICATION: a notification leaves its die's queue and reaches its front end, which latches the wait condition (R320, R332). -/
def execWatchNotification (eng q : Nat) (s : State) : Out := whenLive s fun s =>
  if noticeTurn s eng q then
    let s := dropNotice eng q s
    let x := getQueue s eng q
    if x.notified then setQueue eng q { x with notified := false, latched := true } s else s
  else s

/-! ### Publication (R79 to R81) -/

/-- The partition a command of a queue runs for. -/
def pubPart (s : State) (eng q : Nat) : Nat := queuePart s eng q

/-- The commands of a partition that were stamped in this cycle and still hold their step, in the order of their steps (R81). -/
def stampedNow (s : State) (p : Nat) : List (Nat × Nat × Nat) :=
  s.now.stamped.filter fun e => (getSlot s e.1 e.2.1 e.2.2).part == p && decide (getObj s (oStepCounter p) ≤ (getSlot s e.1 e.2.1 e.2.2).step)

/-- A command takes its place among those stamped in its cycle: behind every command of its own or an earlier queue, tiles before rim, gather and motion engines, then by queue (R81, R139, R214, R242). -/
def placeStamp (e : Nat × Nat × Nat) : List (Nat × Nat × Nat) → List (Nat × Nat × Nat)
  | [] => [e]
  | f :: fs => if qKey f.1 f.2.1 ≤ qKey e.1 e.2.1 then f :: placeStamp e fs else e :: f :: fs

/-- The step that a command has once those of its cycle stand in the order `new`, where `first` is the first of their steps and `old` the order in which they were stamped. -/
def restamped (first : Nat) (old new : List (Nat × Nat × Nat)) (step : Nat) : Nat :=
  match old[step - first]? with
  | some e => if first ≤ step then first + new.idxOf e else step
  | none => step

/-- The step numbers that a frame sequencer keeps of what it published follow (R81, R283). -/
def restampSeq (f : Nat → Nat) (x : Seq) : Seq :=
  let inst (i : Inst) : Inst := { i with steps := i.steps.map fun st => { st with step := f st.step }, finish := i.finish.map f }
  { x with pending := x.pending.map inst, chunk := x.chunk.map inst, live := x.live.map inst, warm := x.warm.map fun w => { w with lastStep := w.lastStep.map f } }

/-- The commands stamped in this cycle for a partition take the steps of a new order, and with them everything that keeps their steps (R81). -/
def restamp (p first : Nat) (old new : List (Nat × Nat × Nat)) (s : State) : State :=
  let f := restamped first old new
  let s := new.foldl (fun s e => updSlot e.1 e.2.1 e.2.2 (fun y => { y with step := f y.step }) s) s
  let s := updPart p (fun x => { x with withdrawals := x.withdrawals.map fun w => { w with step := f w.step } }) s
  let mine (k : Nat) : Bool := getField s (oSeqPartition k) 3 0 == p && seqState s k != 0
  let s := (s.st.seqs.filter fun e => mine e.1).foldl (fun s e => setSeq e.1 (restampSeq f e.2) s) s
  (s.st.watched.filter fun e => mine e.1).foldl (fun s e => setWatched e.1 (e.2.map fun w => { w with finish := w.finish.map f }) s) s

/-- A newly published command is stamped from the partition's allocator; with commands of other queues stamped in the same cycle it takes the order of tiles and queues (R81). -/
def stampStep (eng q p sl : Nat) (s : State) : State :=
  let step := getObj s (oStepAllocator p)
  let e := (eng, q, sl)
  let old := stampedNow s p
  let s := updSlot eng q sl (fun y => { y with part := p, step := step, fallback := false, phase := .waiting, run := Run.init }) s
  let s := addObj (oStepAllocator p) 1 s
  let new := placeStamp e old
  let s := { s with now := { s.now with stamped := s.now.stamped.filter (fun x => !(new.contains x)) ++ new } }
  if new = old ++ [e] then s else restamp p (step - old.length) (old ++ [e]) new s

/-- Published commands are stamped in slot order, those of the monitor from the fallback counter (R81, R313). -/
def stampSlots (eng q p : Nat) (fallback : Bool) (sls : List Nat) (s : State) : State :=
  sls.foldl (fun s sl =>
    if fallback then
      let s := updSlot eng q sl (fun y => { y with part := p, step := (getPart s p).fbAllocator, fallback := true, phase := .waiting, run := Run.init }) s
      updPart p (fun x => { x with fbAllocator := x.fbAllocator + 1 }) s
    else stampStep eng q p sl s) s

/-- A tail moved: the commands before it are published for a partition, and can dispatch from the next cycle (R91). -/
def publishTail (eng q p tail : Nat) (fallback : Bool) (s : State) : State :=
  let x := getQueue s eng q
  let sls := slotsBetween eng x.tail tail
  let s := stampSlots eng q p fallback sls s
  let s := setQueue eng q { x with tail := tail } { s with now := { s.now with published := s.now.published ++ sls.map fun sl => (eng, q, sl) } }
  settleHead eng q s

/-- A tail write is accepted (R80). -/
def tailOk (s : State) (eng q tail : Nat) : Bool :=
  let x := getQueue s eng q
  decide (queueHeld eng { x with tail := tail } ≤ slotsOf eng) && decide (queueHeld eng x ≤ queueHeld eng { x with tail := tail })

/-- A tail write takes effect or is refused (R80). -/
def applyTail (eng q value : Nat) (s : State) : State × Ack :=
  let tail := value % ptrMod eng
  if tailOk s eng q tail then (publishTail eng q (pubPart s eng q) tail false s, .done)
  else (refuseEngine (engRecord eng) (oTail eng q) 2 value s, .refused 2)

/-- A write of a queue's tail. A DET partition sees it at the next admission point (R354). -/
def wTail (m eng q value : Nat) (s : State) : State × Ack :=
  let p := queuePart s eng q
  if isDet s p then (deferEvent p (.tail eng q value m) s, .done)
  else applyTail eng q value s

/-- TAIL_WRITE (R80). Queue 4 takes no tail write from software: it has no tail object (R154, R269). -/
def execTailWrite (m eng q value : Nat) (s : State) : Out := whenFree m (.tailWrite m eng q value) s fun s =>
  if q < 4 ∧ objExists s (engIndex eng) (0x0C + q) = true then (ackWrite (oTail eng q) (wTail m eng q (value % 65536) s)).1
  else addObj oOdBadAccess 1 s

/-! ### Accounting (R308) -/

/-- Key of a job's accounting record. -/
def acctKey (p job : Nat) : Nat := p * 1024 + min job 1023

/-- An accounting record. -/
def getAcct (s : State) (k : Nat) : Acct := mapGet Acct.init s.pt.accts k

/-- An accounting record set. -/
def setAcct (k : Nat) (a : Acct) (s : State) : State := { s with pt := { s.pt with accts := mapSet Acct.init s.pt.accts k a } }

/-- A 48-bit count and its wrap flag, increased (R607). -/
def wrap48 (c : Nat) (w : Bool) (n : Nat) : Nat × Bool := ((c + n) % 2 ^ 48, w || decide (2 ^ 48 ≤ c + n))

/-- Execution cycles charged. -/
def chargeExec (k n : Nat) (s : State) : State :=
  let a := getAcct s k
  let r := wrap48 a.exec a.execWrap n
  setAcct k { a with exec := r.1, execWrap := r.2 } s

/-- Execution cycles charged by a commit; a clear of the record in the same cycle comes before them (R308, R616). -/
def chargeCommit (k n : Nat) (s : State) : State := chargeExec k n { s with now := { s.now with charged := (k, n) :: s.now.charged } }

/-- Execution cycles charged by commits of this cycle. -/
def chargedNow (s : State) (k : Nat) : Nat := sumNat ((s.now.charged.filter fun e => e.1 == k).map (·.2))

/-- Waiting cycles charged. -/
def chargeWait (k n : Nat) (s : State) : State :=
  let a := getAcct s k
  let r := wrap48 a.wait a.waitWrap n
  setAcct k { a with wait := r.1, waitWrap := r.2 } s

/-- Lost cycles charged. -/
def chargeLost (k n : Nat) (s : State) : State :=
  let a := getAcct s k
  let r := wrap48 a.lost a.lostWrap n
  setAcct k { a with lost := r.1, lostWrap := r.2 } s

/-- A kill charged. -/
def chargeKill (k : Nat) (s : State) : State :=
  let a := getAcct s k
  setAcct k { a with kills := (a.kills + 1) % 2 ^ 32 } s

/-- A withdrawal charged, saturating. -/
def chargeWithdrawal (k : Nat) (s : State) : State :=
  let a := getAcct s k
  setAcct k { a with withdrawals := min (a.withdrawals + 1) 65535 } s

/-! ### Units, pins and shadows -/

/-- The slot key plus one that holds a unit; 0 when it is free. -/
def unitHolder (s : State) (u : Nat) : Nat := mapGet 0 s.tl.units u

/-- A unit given to a slot, or freed (0). -/
def setUnit (u v : Nat) (s : State) : State := { s with tl := { s.tl with units := mapSet 0 s.tl.units u v } }

/-- A command's unit is free, if it holds it. -/
def freeUnit (eng q sl : Nat) (s : State) : State :=
  let u := (getSlot s eng q sl).run.unit
  if unitHolder s u = sKey eng q sl + 1 then setUnit u 0 s else s

/-- A perturbation of the scheduled mode is counted; the first since det.active changed is recorded (R356). -/
def perturb (s : State) : State :=
  if getObj s oDetActive = 1 then
    let s := addObj oDetPerturbations 1 s
    if s.pt.perturbed then s
    else capture 0x060A 31 0 (getObj s oDetPerturbations) 0 0 { s with pt := { s.pt with perturbed := true } }
  else s

/-- A page is pinned (R87). -/
def pinFrame (k : Nat) (s : State) : State :=
  let f := getFrame s k
  setFrame k { f with pins := f.pins + 1 } s

/-- A command's pins are released (R87). -/
def releasePins (eng q sl : Nat) (s : State) : State :=
  let r := (getSlot s eng q sl).run
  let s := r.pins.foldl (fun s p => unpinFrame p.frame s) s
  updSlot eng q sl (fun y => { y with run := { y.run with pins := [] } }) s

/-- A killed command's shadows become free (R64, R89, R209). -/
def releaseShadows (eng q sl : Nat) (s : State) : State :=
  let r := (getSlot s eng q sl).run
  let s := r.shadows.foldl (fun s p => freeFrameAt p.frame s) s
  match r.tag with
  | some t => killTag t s
  | none => s

/-- The shadow frame of a page that a command holds. -/
def shadowOf (r : Run) (tile lp : Nat) : Option Nat := (r.shadows.find? fun p => p.tile == tile && p.page == lp).map (·.frame)

/-- The contents of a new tile shadow page: the mapped version, or undefined bytes (R107). -/
def tileFill (s : State) (tile lp : Nat) : Page × State :=
  match mappedFrame s tile lp with
  | some k => ((getFrame s k).page, s)
  | none => ({ base := some s.free, cells := [] }, useFree s)

/-- A shadow page allocated for a command, filled by R107; none while its bank has no free page. -/
def allocShadow (eng q sl tile lp : Nat) (s : State) : Option (Nat × State) :=
  match siteOf s tile with
  | none => none
  | some site =>
    match freeFrame s site (bankOf lp) with
    | none => none
    | some k =>
      let (pg, s) := tileFill s tile lp
      let s := setFrame k { st := .shadow, pins := 0, page := pg } s
      some (k, updSlot eng q sl (fun y => { y with run := { y.run with shadows := y.run.shadows ++ [{ tile := tile, page := lp, frame := k }] } }) s)

/-- Bytes written into a frame. -/
def writeFrame (k off : Nat) (bs : List Byte) (s : State) : State :=
  let f := getFrame s k
  setFrame k { f with page := pageWrite f.page off bs } s

/-- A shadow page of a tile becomes the mapped page (R63, R64, R86). -/
def flipPin (p : Pin) (s : State) : State :=
  let old := mappedFrame s p.tile p.page
  let s := setPageMap p.tile p.page (p.frame % 768 + 1) s
  let f := getFrame s p.frame
  let s := setFrame p.frame { f with st := .mapped } s
  match old with
  | some k => retireFrame k (noteFlip p.tile p.page (k + 1) s)
  | none => noteFlip p.tile p.page 0 s

/-! ### Finishing and commit requests (R86) -/

/-- A command whose every write is acknowledged sends its commit request. -/
def requestCommit (eng q sl : Nat) (s : State) : State :=
  let y := getSlot s eng q sl
  if y.phase = .finished ∧ y.run.outbox = [] ∧ y.run.acks = [] then setSlot eng q sl { y with phase := .requested } s else s

/-- A running command finishes executing: its unit is free, its writes go out, and its flags wait for its commit (R85, R86). -/
def finishCommand (eng q sl : Nat) (writes : List Write) (f : Flags) (s : State) : State :=
  let s := freeUnit eng q sl s
  let s := updSlot eng q sl (fun y => { y with phase := .finished, run := { y.run with finishedAt := cycle s, outbox := writes, flags := f } }) s
  requestCommit eng q sl s

/-- The entries of a list but the one at `k`. -/
def dropAt {α : Type} : List α → Nat → List α
  | [], _ => []
  | _ :: xs, 0 => xs
  | x :: xs, n + 1 => x :: dropAt xs n

/-- The die that carries a logical tile. -/
def tileDie (s : State) (t : Nat) : Nat := (siteOf s t).getD t / 8

/-- A write has left the outbox and waits for its acknowledgement, from a tile or from the controller of a data slot. -/
def sentWrite (eng q sl k : Nat) (dst : Option Nat) (s : State) : State :=
  updSlot eng q sl (fun y => { y with run := { y.run with outbox := dropAt y.run.outbox k, acks := y.run.acks ++ [dst] } }) s

/-- A command's writes can still land. -/
def writesLive (y : Slot) : Bool := y.phase == .finished

/-- REMOTE_WRITE: write `k` of a command's outbox lands in a shadow page of its destination tile, which allocates and fills it at the first write, or holds the write until a page is free (R88, R107); its flits cross the links of its path (R164, R612). -/
def execRemoteWrite (eng q sl k : Nat) (s : State) : Out := whenLive s fun s =>
  let y := getSlot s eng q sl
  match writesLive y, y.run.outbox[k]? with
  | true, some w =>
    match w.tile with
    | none => s
    | some t =>
      match shadowOf y.run t w.page with
      | some f => sentWrite eng q sl k none (writeFrame f w.off w.bytes (crossLinks (engineDie s eng) (tileDie s t) w.bytes.length s))
      | none =>
        match allocShadow eng q sl t w.page s with
        | some (f, s) => sentWrite eng q sl k none (writeFrame f w.off w.bytes (crossLinks (engineDie s eng) (tileDie s t) w.bytes.length s))
        | none => s
  | _, _ => s

/-- The die of the stack of a data slot (R193). -/
def slotDie (k : Nat) : Nat := (slotParts k).1 / 2

/-- A command's writes cover a region page, so that its shadow needs no copy (R205). -/
def coversPage (y : Slot) (q : Nat) : Bool :=
  let ws := (y.run.outbox.filter fun w => w.tile.isNone && w.page == q).map fun w => (w.off, w.bytes.length)
  covers 65536 ws.length 0 ws

/-- The copy that fills a new shadow of a mapped page (R205). -/
def fillShadow (y : Slot) (q c : Nat) (old : Option Nat) (s : State) : State :=
  match old with
  | some k => if coversPage y q then s else copyLines k c s
  | none => s

/-- PARITY_UPDATE: write `k` of a command's outbox lands in the shadow slot of its region page and its parity line; the controller will acknowledge it (R200, R205). Its first write to a page takes the shadow and its copy; its flits cross the links of its path (R164, R612). -/
def execParityUpdate (eng q sl k : Nat) (s : State) : Out := whenLive s fun s =>
  let y := getSlot s eng q sl
  match writesLive y, y.run.outbox[k]?, y.run.tag with
  | true, some w, some t =>
    match w.tile with
    | some _ => s
    | none =>
      let held := (getTag s t).bind fun tag => tagShadow tag w.page
      match ensureShadow t (engineDie s eng) w.page s with
      | some (c, s) =>
        let s := if held.isSome then s else fillShadow y w.page c (slotNow s y.part w.page) s
        let s := crossLinks (engineDie s eng) (slotDie c) w.bytes.length s
        sentWrite eng q sl k (some c) (writeShadowSlot c w.off w.bytes (writeLines c (linesOfBytes w.off w.bytes.length) s))
      | none => s
  | _, _, _ => s

/-- WRITE_ACKNOWLEDGEMENT: one of the writes sent is acknowledged; after the last, the commit request goes out (R86, R167). A Cistern write of a DET partition that was not ready by its cycle counts as a perturbation (R353). -/
def execWriteAcknowledgement (eng q : Nat) (a : WriteAck) (s : State) : Out := whenLive s fun s =>
  let y := getSlot s eng q a.slot
  match y.phase, y.run.acks[a.k]? with
  | .finished, some dst =>
    let s := requestCommit eng q a.slot (setSlot eng q a.slot { y with run := { y.run with acks := dropAt y.run.acks a.k } } s)
    if a.late && dst.isSome && isDet s y.part then perturb s else s
  | _, _ => s

/-! ### Kills (R89) -/

/-- A command can be killed: dispatched and its commit request not sent. A reset also discards a request that has no grant (R318). -/
def killable (asReset : Bool) : Phase → Bool
  | .running | .finished | .killing _ _ => true
  | .requested => asReset
  | _ => false

/-- What follows a kill that has two causes: withdrawal wins over abandonment (R323). -/
def mergeThen (a b : Nat) : Nat := if a = 1 ∨ b = 1 then 1 else max a b

/-- A kill is signalled to one command. -/
def killOne (asReset charged : Bool) (then_ : Nat) (eng q sl : Nat) (s : State) : State :=
  let y := getSlot s eng q sl
  if killable asReset y.phase then
    match y.phase with
    | .killing c t => setSlot eng q sl { y with phase := .killing (c || charged) (mergeThen t then_) } s
    | _ =>
      let s := dropWaiting eng q sl (setSlot eng q sl { y with phase := .killing charged then_ } s)
      chargeLost (acctKey y.part (cJob y)) (cycle s - y.run.dispatched) s
  else s

/-- A kill is signalled to a command, and in the same cycle to every later command of its queue that has dispatched and has not sent its commit request (R89). -/
def startKill (asReset charged : Bool) (then_ : Nat) (eng q sl : Nat) (s : State) : State :=
  let x := getQueue s eng q
  if killable asReset (getSlot s eng q sl).phase then
    let later := (slotsBetween eng x.commit x.tail).dropWhile (· != sl)
    let s := killOne asReset charged then_ eng q sl s
    (later.drop 1).foldl (fun s l => killOne asReset false 0 eng q l s) s
  else s

/-- A command is withdrawn: its record, its entry in the withdrawal list, its charge (R307). The list must have room. -/
def withdrawSlot (eng q sl : Nat) (s : State) : State :=
  let y := getSlot s eng q sl
  let s := dropWaiting eng q sl (setSlot eng q sl { y with phase := .withdrawn, run := Run.init, rec0 := BitVec.ofNat 32 0x20000000, rec1 := BitVec.ofNat 32 y.step } s)
  let s := updPart y.part (fun x => { x with withdrawals := x.withdrawals ++ [{ step := y.step, object := cSignalObject y, increment := cIncrement y }] }) s
  chargeWithdrawal (acctKey y.part (cJob y)) s

/-- The withdrawal list of a partition has room (R307). -/
def listRoom (s : State) (p : Nat) : Bool := decide ((getPart s p).withdrawals.length < 1024)

/-- A command that the full list keeps from being withdrawn stays in its queue and dispatches no further (R307). -/
def doomSlot (eng q sl : Nat) (s : State) : State :=
  let x := getQueue s eng q
  if x.doomed.contains sl then s else setQueue eng q { x with doomed := x.doomed ++ [sl] } s

/-- A command is withdrawn, or waits for room in the list (R307). -/
def withdrawOrDoom (eng q sl : Nat) (s : State) : State :=
  if listRoom s (getSlot s eng q sl).part then withdrawSlot eng q sl s else doomSlot eng q sl s

/-- An abandoned command's record; it stays in the commit order (R314). -/
def abandonSlot (eng q sl : Nat) (s : State) : State :=
  dropWaiting eng q sl (updSlot eng q sl (fun y => { y with phase := .abandoned, run := Run.init, rec0 := BitVec.ofNat 32 0x30000000, rec1 := BitVec.ofNat 32 y.step }) s)

/-- The kill of one command completes: pins, shadows and unit are given back (R89). -/
def completeKill (eng q sl : Nat) (s : State) : State :=
  let y := getSlot s eng q sl
  match y.phase with
  | .killing charged then_ =>
    let s := freeUnit eng q sl s
    let s := releaseShadows eng q sl (releasePins eng q sl s)
    let s := if charged then chargeKill (acctKey y.part (cJob y)) s else s
    let s := updSlot eng q sl (fun y => { y with phase := .waiting, run := Run.init }) s
    if then_ = 1 then withdrawOrDoom eng q sl s
    else if then_ = 2 then abandonSlot eng q sl s
    else s
  | _ => s

/-- Slots of a queue whose kill is under way, in order. A command that had sent its request may stand beyond a head that a kill moved back (R89). -/
def killingSlots (s : State) (eng q : Nat) : List Nat :=
  let x := getQueue s eng q
  (slotsBetween eng x.commit x.tail).filter fun sl => match (getSlot s eng q sl).phase with
    | .killing _ _ => true
    | _ => false

/-- The pointer of a slot that lies between commit and tail. -/
def ptrOf (eng : Nat) (x : Queue) (sl : Nat) : Nat :=
  (x.commit + (sl + slotsOf eng - x.commit % slotsOf eng) % slotsOf eng) % ptrMod eng

/-- A killed command of a disabled queue stays published: enable may then be set again (R96). -/
def noteRerun (eng q : Nat) (sls : List Nat) (s : State) : State :=
  if q < 4 ∧ queueEnabled s eng q = false ∧ (sls.any fun l => (getSlot s eng q l).phase == .waiting) = true then
    setQueue eng q { getQueue s eng q with rerun := true } s
  else s

/-- Every kill of a queue completes, and the head moves back to the earliest command killed (R89). -/
def completeKills (eng q : Nat) (s : State) : State :=
  match killingSlots s eng q with
  | [] => s
  | sl :: rest =>
    let x := getQueue s eng q
    let s := (sl :: rest).foldl (fun s l => completeKill eng q l s) s
    noteRerun eng q (sl :: rest) (moveHead eng q (ptrOf eng x sl) s)

/-- KILL_COMPLETE: within 64 cycles of its signal a kill completes (R89). -/
def execKillComplete (eng q sl : Nat) (s : State) : Out := whenLive s fun s =>
  if (killingSlots s eng q).contains sl then advanceCommit eng q (completeKills eng q s) else s

/-! ### Job faults and the reset sequence (R317, R318) -/

/-- Queues 0 to 3 bound to a partition. -/
def queuesOfPart (s : State) (p : Nat) : List (Nat × Nat) :=
  allQueues.filter fun e => decide (e.2 < 4) && queuePart s e.1 e.2 == p

/-- Every dispatched, uncommitted command of a partition in queues 0 to 3 is killed (R318, cycle 3). -/
def killPart (p : Nat) (s : State) : State :=
  (queuesOfPart s p).foldl (fun s e =>
    let x := getQueue s e.1 e.2
    (slotsBetween e.1 x.commit x.tail).foldl (fun s sl => startKill true false 0 e.1 e.2 sl s) s) s

/-- A tile of the partition is being evacuated (R581). -/
def evacuating (s : State) (p : Nat) : Bool := s.fab.evac.any fun e => e.part == p

/-- A reclaim takes banks or queues back from the partition (R306, R323). -/
def returning (s : State) (p : Nat) : Bool :=
  s.pt.parts.any fun e => e.2.loans.any fun l => l.borrower == p && e.2.reclaiming.contains l.tile

/-- The reset sequence starts; during an evacuation it waits, and a fault's also while a reclaim runs (R318, R323, R587). -/
def startReset (p dest cause : Nat) (s : State) : State :=
  let s := updPart p (fun x => { x with resetTo := dest, resetCause := cause }) s
  if evacuating s p || (returning s p && cause != 0) then { s with fab := { s.fab with resetWaits := if s.fab.resetWaits.contains p then s.fab.resetWaits else s.fab.resetWaits ++ [p] } }
  else killPart p (setObj (oPartitionState p) 4 s)

/-- Resets that waited start, where nothing holds them any more (R323, R587). -/
def releaseResets (s : State) : State :=
  let go := s.fab.resetWaits.filter fun p => !(evacuating s p) && !(returning s p)
  let s := { s with fab := { s.fab with resetWaits := s.fab.resetWaits.filter fun p => !(go.contains p) } }
  go.foldl (fun s p => killPart p (setObj (oPartitionState p) 4 s)) s

/-- The state a fault action names (R298, R317). -/
def faultState (s : State) (p : Nat) : Nat := if (getPart s p).faultAction = 2 then 3 else 2

/-- A job fault of a partition halts a logical tile, its own or a lent one (R317). -/
def haltTile (p t : Nat) (s : State) : State :=
  if getObj s (oTileState t) = 3 then s
  else setObj (oTileState t) 2 (updPart p (fun x => { x with halted := if x.halted.contains t then x.halted else t :: x.halted }) s)

/-- Another partition's job fault halts the tile as well. -/
def haltedElsewhere (s : State) (p t : Nat) : Bool := (List.range 16).any fun r => r != p && (getPart s r).halted.contains t

/-- Cycle 68 of p's reset: the tiles that its job faults halted return to idle (R93, R317, R318). -/
def unhaltTiles (p : Nat) (s : State) : State :=
  let s := (getPart s p).halted.foldl (fun s t =>
    if getObj s (oTileState t) = 2 ∧ haltedElsewhere s p t = false then setObj (oTileState t) 0 s else s) s
  updPart p (fun x => { x with halted := [] }) s

/-- A job fault of a partition on logical tiles; action 0 of a hardware fault that R582 raises is treated as 1 (R317, R582). -/
def jobFault (p cause : Nat) (tiles : List Nat) (always : Bool) (s : State) : State :=
  if pState s p = 2 ∨ pState s p = 3 then
    if (getPart s p).faultAction = 0 ∧ always = false then s
    else
      let s := tiles.foldl (fun s t => haltTile p t s) s
      startReset p (faultState s p) cause s
  else s

/-- The word of last_refusal (R93, R154, R238, R269). -/
def lastRefusal (q sl reason : Nat) : Nat := q * 2 ^ 24 + sl * 2 ^ 16 + reason

/-- A command is refused at the head of its queue: recorded, passed over, and a job fault of its partition in queues 0 to 3 (R78, R317). -/
def refuseCommand (eng q sl reason : Nat) (s : State) : State :=
  let y := getSlot s eng q sl
  let s := dropWaiting eng q sl (setSlot eng q sl { y with phase := .refused reason, run := Run.init } s)
  let s := setObj (oLastRefusal eng) (lastRefusal q sl reason) s
  let s := capture 0x0301 y.part (engRecord eng) (lastRefusal q sl reason) y.step 0 s
  let s := settleHead eng q s
  if q < 4 then jobFault y.part 1 (if eng < 32 then [eng] else []) false s else s

/-- One queue emptied at cycle 68: tail and head are set to commit, the latch and the watch are released (R318, R332, R336). -/
def clearQueue (eng q : Nat) (s : State) : State :=
  let s := advanceCommit eng q s
  let x := getQueue s eng q
  let s := (slotsBetween eng x.commit x.tail).foldl (fun s sl => updSlot eng q sl (fun y => { y with phase := .waiting, run := Run.init }) s) s
  let s := if x.notified then dropNotice eng q s else s
  refreshLoad eng (setQueue eng q { x with head := x.commit, tail := x.commit, watch := none, notified := false, latched := false, woken := [], doomed := [], rerun := false } s)

/-- A reset can clear the queues: no kill and no granted commit of the partition is outstanding (R91, R318). -/
def resetReady (s : State) (p : Nat) : Bool :=
  (queuesOfPart s p).all fun e =>
    let x := getQueue s e.1 e.2
    (slotsBetween e.1 x.commit x.tail).all fun sl => match (getSlot s e.1 e.2 sl).phase with
      | .killing _ _ | .granted | .running | .finished | .requested => false
      | _ => true

/-- Cycle 68 of R318: queues, withdrawal list, step allocator, halted tiles. -/
def clearQueues (p : Nat) (s : State) : State :=
  let s := (queuesOfPart s p).foldl (fun s e => clearQueue e.1 e.2 s) s
  let s := { s with now := { s.now with stamped := s.now.stamped.filter fun e => (getSlot s e.1 e.2.1 e.2.2).part != p } }
  let s := updPart p (fun x => { x with withdrawals := [] }) s
  unhaltTiles p (setObj (oStepAllocator p) (getObj s (oStepCounter p)) s)

/-- Cycle 69 of R318: the new state, the count and the record. -/
def endReset (p : Nat) (s : State) : State :=
  let x := getPart s p
  let s := setObj (oPartitionState p) x.resetTo s
  let s := addObj (oPartitionResets p) 1 s
  capture 0x0304 p p x.resetCause (getObj s (oStepCounter p)) (getObj s (oPartitionResets p)) s

/-! ### Commit order (R85, R86, R313) -/

/-- Hold enable and stop_step as this cycle compares them: a write takes effect from the next (R360, R363). -/
def holdNow (s : State) (p : Nat) : Bool × Nat :=
  match s.now.holds.find? fun e => e.1 == p with
  | some e => e.2
  | none => (objBit s (oReplayControl p) 0, getObj s (oReplayStopStep p))

/-- The hold of R360 stands. -/
def replayHeld (s : State) (p : Nat) : Bool := (holdNow s p).1 && decide ((holdNow s p).2 ≤ getObj s (oStepCounter p))

/-- A write of replay[p].control or stop_step: this cycle still compares what stood before (R363). -/
def noteHold (p : Nat) (s : State) : State :=
  if s.now.holds.any fun e => e.1 == p then s else { s with now := { s.now with holds := (p, holdNow s p) :: s.now.holds } }

/-- A command's step is the next of its commit sequence, and the commit unit serves it. -/
def stepTurn (s : State) (y : Slot) : Bool :=
  if y.fallback then decide (getObj s (oStepFallback y.part) = y.step)
  else decide (getObj s (oStepCounter y.part) = y.step) && !(replayHeld s y.part) && !((getPart s y.part).grantsHeld) && pState s y.part != 4

/-- The counter of a command's commit sequence goes on by one. -/
def bumpStep (y : Slot) (s : State) : State := if y.fallback then addObj (oStepFallback y.part) 1 s else addObj (oStepCounter y.part) 1 s

/-- The bits of numfmt.flags that a partition's command sets (R60). -/
def numfmtBits (p : Nat) (f : Flags) : Nat := flagBits f * 2 ^ 16 ||| 2 ^ p

/-- numfmt.flags with a command's flags ORed in; a clear written in the same cycle does not undo it (R18, R57, R60). -/
def orNumfmt (p : Nat) (f : Flags) (s : State) : State :=
  if f = noFlags then s
  else setObj oNumfmtFlags (getObj s oNumfmtFlags ||| numfmtBits p f) { s with now := { s.now with numfmt := s.now.numfmt ||| numfmtBits p f } }

/-- The completion record of a commit (R77, R245). -/
def commitRecord (y : Slot) : Nat := flagBits y.run.flags + y.run.cutScore * 2 ^ 12 + (if y.run.cut then 2 ^ 11 else 0)

/-- Whether an engine's own tile flips a shadow at the grant. -/
def isLocal (eng : Nat) (p : Pin) : Bool := decide (eng < 32) && p.tile == eng

/-- Destination tiles of a list of shadows, each once. -/
def tilesOf (ps : List Pin) : List Nat := (ps.map (·.tile)).eraseDups

/-- The commit serial and the step counter as they stood before this cycle's first commit (R234). -/
def noteCommit (y : Slot) (s : State) : State :=
  let n := s.now
  { s with now := { n with serial := some (n.serial.getD s.ci.serial),
                           steps := if y.fallback || n.steps.any (fun e => e.1 == y.part) then n.steps else (y.part, getObj s (oStepCounter y.part)) :: n.steps } }

/-- The commit serial that a command dispatched in this cycle sees (R204, R234). -/
def seenSerial (s : State) : Nat := s.now.serial.getD s.ci.serial

/-- The step counter that a command dispatched in this cycle takes as c_d (R204, R234). -/
def seenStep (s : State) (p : Nat) : Nat :=
  match s.now.steps.find? fun e => e.1 == p with
  | some e => e.2
  | none => getObj s (oStepCounter p)

/-- The pages of a command flip in this cycle: its signal leaves in a later one (R86). -/
def noteLanded (eng q sl : Nat) (s : State) : State := { s with now := { s.now with landed := (eng, q, sl) :: s.now.landed } }

/-- A grant reaches a command: the counter goes on, local pages flip, tags commit, the record and the flags are written, pins are released (R86, R87, R208, R308). -/
def grantCommit (eng q sl : Nat) (s : State) : State :=
  let y := getSlot s eng q sl
  let r := y.run
  let stepOf := if y.fallback then none else some y.step
  let s := bumpStep y (noteCommit y (noteLanded eng q sl s))
  let s := perfCount (if y.fallback then 0x03 else 0x02) y.part 1 s
  let s := (r.shadows.filter (isLocal eng)).foldl (fun s p => flipPin p s) s
  let far := r.shadows.filter fun p => !(isLocal eng p)
  let s := match r.tag with
    | some t => commitTag t stepOf s
    | none => s
  let s := match r.unmap with
    | some (a, n) => unmapRange y.part a n stepOf s
    | none => s
  let s := orNumfmt y.part r.flags s
  let s := releasePins eng q sl s
  let s := chargeCommit (acctKey y.part (cJob y)) (if cUnit y = 4 then 1 else r.finishedAt - r.dispatched) s
  updSlot eng q sl (fun z => { z with phase := .granted, rec0 := BitVec.ofNat 32 (commitRecord y), rec1 := BitVec.ofNat 32 y.step, run := { z.run with shadows := far, flips := tilesOf far } }) s

/-- REMOTE_COMMIT_MESSAGE: a destination tile flips the command's pages in one cycle and acknowledges (R86, R88). -/
def execRemoteCommitMessage (eng q sl tile : Nat) (s : State) : Out := whenLive s fun s =>
  let y := getSlot s eng q sl
  if y.phase = .granted ∧ y.run.flips.contains tile = true then
    let s := (y.run.shadows.filter (·.tile == tile)).foldl (fun s p => flipPin p s) (noteLanded eng q sl s)
    updSlot eng q sl (fun z => { z with run := { z.run with flips := z.run.flips.filter (· != tile), shadows := z.run.shadows.filter (·.tile != tile) } }) s
  else s

/-- The updates a commit sends: one when the cut object is the signal object, else the signal first (R333). -/
def sendCommitSignals (eng : Nat) (y : Slot) (s : State) : State :=
  let cutObj := bits (cw y 15) 31 16
  let cutInc := if y.run.cut then bits (cw y 15) 15 8 else 0
  if y.run.cut = true ∧ cutObj = cSignalObject y then sendSignal (.engine eng) y.part (cSignalObject y) (cIncrement y + cutInc) s
  else sendSignal (.engine eng) y.part cutObj cutInc (sendSignal (.engine eng) y.part (cSignalObject y) (cIncrement y) s)

/-! ### Withdrawal (R307) -/

/-- A job of a partition is marked. -/
def jobMarked (s : State) (p job : Nat) : Bool := (getPart s p).marks.contains job

/-- A waiting command of a marked job is withdrawn, or waits for room in the list; a dispatched one is killed at once. -/
def withdrawOne (eng q sl : Nat) (s : State) : State :=
  let y := getSlot s eng q sl
  match y.phase with
  | .waiting | .abandoned => withdrawOrDoom eng q sl s
  | .running | .finished | .killing _ _ => startKill false false 1 eng q sl s
  | _ => s

/-- Every command of a job in queues 0 to 3 of its partition is withdrawn (R307). -/
def withdrawJob (p job : Nat) (s : State) : State :=
  (queuesOfPart s p).foldl (fun s e =>
    let x := getQueue s e.1 e.2
    let s := (slotsBetween e.1 x.commit x.tail).foldl (fun s sl =>
      if cJob (getSlot s e.1 e.2 sl) = job ∧ (getSlot s e.1 e.2 sl).part = p then withdrawOne e.1 e.2 sl s else s) s
    advanceCommit e.1 e.2 (settleHead e.1 e.2 s)) s

/-- An entry of a full list has retired: commands that wait to be withdrawn leave in slot order while there is room (R307). -/
def withdrawDoomed (p : Nat) (s : State) : State :=
  (queuesOfPart s p).foldl (fun s e =>
    let x := getQueue s e.1 e.2
    if x.doomed = [] then s
    else
      let s := (slotsBetween e.1 x.commit x.tail).foldl (fun s sl =>
        let y := getSlot s e.1 e.2 sl
        if x.doomed.contains sl && y.part == p && (y.phase == .waiting || y.phase == .abandoned) && listRoom s p then withdrawSlot e.1 e.2 sl s else s) s
      advanceCommit e.1 e.2 (settleHead e.1 e.2 s)) s

/-- A job is marked withdrawn (R307). -/
def markJob (p job : Nat) (s : State) : State :=
  let s := if jobMarked s p job then s else updPart p (fun x => { x with marks := x.marks ++ [job] }) s
  withdrawJob p job s

/-- WITHDRAW_HEAD: a command of a marked job at the head of its queue is withdrawn, whatever its wait condition; with the list full it waits for room (R307). -/
def execWithdrawHead (eng q : Nat) (s : State) : Out := whenLive s fun s =>
  match headSlot s eng q with
  | some sl =>
    let y := getSlot s eng q sl
    if q < 4 ∧ y.phase = .waiting ∧ jobMarked s y.part (cJob y) = true then
      advanceCommit eng q (settleHead eng q (withdrawOrDoom eng q sl s))
    else s
  | none => s

/-- A write of acct[p].withdraw (R307); a DET partition sees it at its admission point (R354). -/
def wAcctWithdraw (p job : Nat) (s : State) : State × Ack :=
  if isDet s p then (deferEvent p (.mark job true) s, .done)
  else (markJob p job s, .done)

/-- A mark is cleared (R307). -/
def unmarkJob (p job : Nat) (s : State) : State := updPart p (fun x => { x with marks := x.marks.filter (· != job) }) s

/-- A write of acct[p].restore. -/
def wAcctRestore (p job : Nat) (s : State) : State × Ack :=
  if isDet s p then (deferEvent p (.mark job false) s, .done)
  else (unmarkJob p job s, .done)

/-- ACCT_WITHDRAW. -/
def execAcctWithdraw (m p value : Nat) (s : State) : Out := whenFree m (.acctWithdraw m p value) s fun s => (ackWrite (oAcctWithdraw p) (wAcctWithdraw p (value % 65536) s)).1

/-- ACCT_RESTORE. -/
def execAcctRestore (m p value : Nat) (s : State) : Out := whenFree m (.acctRestore m p value) s fun s => (ackWrite (oAcctRestore p) (wAcctRestore p (value % 65536) s)).1

end Sys2Proof.Machine
end

