-- ==== Sys2Proof/Machine/Operands.lean ====
section
/-!
DEFINITION. Operands of every command form: tile descriptors (R74), rim, gather and motion descriptors (R141), element and scale access (R71), images and padding (R98 to R104), pictures (R142, R146), and what a command reads and writes (R62, R65, R206).
-/

namespace Sys2Proof.Machine

/-! ### Descriptors -/

/-- A tile operand descriptor (R74); the stride is in bytes. -/
structure TOp where
  ty : Nat
  valid : Bool
  addr : Nat
  remote : Bool
  tile : Nat
  stride : Nat
deriving DecidableEq, Repr

/-- The tile descriptor in words `i` and `i + 1`. -/
def tOp (x : Slot) (i : Nat) : TOp :=
  let lo := cw x i
  let hi := cw x (i + 1)
  { ty := bits lo 31 27, valid := bit lo 26, addr := bits lo 25 0, remote := bit hi 31, tile := bits hi 30 26, stride := bits hi 25 13 * 32 }

/-- Format code. -/
def TOp.code (o : TOp) : Nat := o.ty % 16
/-- Microscaling modifier. -/
def TOp.mx (o : TOp) : Bool := bit o.ty 4
/-- Operand A. -/
def opA (x : Slot) : TOp := tOp x 4
/-- Operand B. -/
def opB (x : Slot) : TOp := tOp x 6
/-- Output C. -/
def opC (x : Slot) : TOp := tOp x 8
/-- Auxiliary operand. -/
def opX (x : Slot) : TOp := tOp x 10
/-- Initial-accumulator operand of a matrix multiply (R75). -/
def opInit (x : Slot) : TOp := tOp x 14

/-- A rim, gather or motion operand descriptor (R141); the stride is in bytes. -/
structure ROp where
  space : Nat
  fmt : Nat
  addr : Nat
  stride : Nat
  tile : Nat
  high : Nat
deriving DecidableEq, Repr

/-- The descriptor in words `i` and `i + 1`. -/
def rOp (x : Slot) (i : Nat) : ROp :=
  let lo := cw x i
  let hi := cw x (i + 1)
  { space := bits lo 31 30, fmt := bits lo 29 26, addr := bits lo 25 0, stride := bits hi 31 18 * 32, tile := bits hi 17 13, high := bits hi 7 0 }

/-- Byte offset of a Cistern operand: bits [30:5] and [38:31]. -/
def ROp.offset (o : ROp) : Nat := o.addr * 32 + o.high * 2 ^ 31

/-- Operand A. -/
def rA (x : Slot) : ROp := rOp x 4
/-- Operand B. -/
def rB (x : Slot) : ROp := rOp x 6
/-- Output C. -/
def rC (x : Slot) : ROp := rOp x 8
/-- Auxiliary operand. -/
def rX (x : Slot) : ROp := rOp x 10

/-! ### What a command reads and writes -/

/-- A tile-SRAM footprint: tile, first byte, bytes, whether it is written, and whether its descriptor is well placed. -/
structure Use where
  tile : Nat
  addr : Nat
  bytes : Nat
  write : Bool
  ok : Bool
deriving DecidableEq, Repr

/-- A Cistern footprint. -/
structure CUse where
  off : Nat
  bytes : Nat
  write : Bool
deriving DecidableEq, Repr

/-- What a command needs, and the reasons that its own fields meet. -/
structure Plan where
  reasons : List Nat
  uses : List Use
  cuses : List CUse
  /-- The reason of a Cistern footprint outside the region. -/
  spanReason : Nat
  /-- Region pages that a release unmaps. -/
  unmap : Option (Nat × Nat)
deriving DecidableEq, Repr

/-- A command that needs nothing. -/
def Plan.none : Plan := { reasons := [], uses := [], cuses := [], spanReason := 0x0E, unmap := .none }

/-- A reason when a condition holds. -/
def why (b : Bool) (reason : Nat) : List Nat := if b then [reason] else []

/-- Rounded up to a multiple of 32. -/
def up32 (n : Nat) : Nat := ceilDiv n 32 * 32

/-- Bytes of a row of `len` elements. -/
def rowBytes (code len : Nat) : Nat := ceilDiv (len * fmtWidth code) 8

/-- Bytes of a scale row (R71). -/
def scaleRow (len : Nat) : Nat := up32 (ceilDiv len 32)

/-- Footprint of an operand of `rows` rows of `len` elements (R71, R74). -/
def TOp.foot (o : TOp) (rows len : Nat) : Nat := rows * o.stride + (if o.mx then rows * scaleRow len else 0)

/-- The use of a strided operand; output C may be remote (R74). -/
def TOp.use (o : TOp) (own rows len : Nat) (write : Bool) : Use :=
  { tile := if write && o.remote then o.tile else own, addr := o.addr, bytes := o.foot rows len, write := write,
    ok := decide (o.addr % 32 = 0) && decide (rowBytes o.code len ≤ o.stride) && decide (0 < o.stride) && (write || !o.remote) }

/-- The use of a packed table of `n` bytes, in which the row stride plays no part (R76, R127, R138). -/
def TOp.usePacked (o : TOp) (own n : Nat) (write : Bool) (isC : Bool) : Use :=
  { tile := if isC && o.remote then o.tile else own, addr := o.addr, bytes := n, write := write,
    ok := decide (o.addr % 32 = 0) && (isC || !o.remote) }

/-- Pages of a byte interval. -/
def pagesOf (addr n : Nat) : List Nat :=
  if n = 0 then [] else (List.range ((addr + n - 1) / 65536 + 1 - addr / 65536)).map (· + addr / 65536)

/-! ### Reading -/

/-- A byte of tile SRAM as a running command reads it: the frame it pinned at dispatch (R87). -/
def rdTile (s : State) (y : Slot) (tile a : Nat) : Byte :=
  match y.run.pins.find? fun p => p.tile == tile && p.page == a / 65536 with
  | some p => pageByte (getFrame s p.frame).page (a % 65536)
  | none => 0

/-- A byte of tile SRAM as mapped now. -/
def rdTileNow (s : State) (tile a : Nat) : Byte :=
  match mappedFrame s tile (a / 65536) with
  | some k => pageByte (getFrame s k).page (a % 65536)
  | none => 0

/-- A byte of the partition's region as a running command reads it (R204). -/
def rdCist (s : State) (y : Slot) (off : Nat) : Byte := regionByte s y.part y.run.serial off

/-- A byte of a region as mapped now. -/
def rdCistNow (s : State) (p off : Nat) : Byte := regionByte s p s.ci.serial off

/-- A byte of a rim, gather or motion operand as a running command reads it. -/
def rdOp (s : State) (y : Slot) (o : ROp) (i : Nat) : Byte := if o.space = 1 then rdTile s y o.tile (o.addr + i) else rdCist s y (o.offset + i)

/-- The same at dispatch. -/
def rdOpNow (s : State) (y : Slot) (o : ROp) (i : Nat) : Byte := if o.space = 1 then rdTileNow s o.tile (o.addr + i) else rdCistNow s y.part (o.offset + i)

/-- Raw bits of element `i` of a run of elements of a code that starts at byte `base` (R35). -/
def readElem (rd : Nat → Byte) (code base i : Nat) : Nat :=
  if fmtWidth code = 4 then bits (rd (base + i / 2)).toNat (4 * (i % 2) + 3) (4 * (i % 2))
  else readNat rd (base + i * (fmtWidth code / 8)) (fmtWidth code / 8)

/-- The value of element `i` of row `r` of a tile operand of `rows` rows of `len` elements; a code-0x8 element is INT32 or FP32 by its kind (R40, R71, R124). -/
def elemAt (rd : Nat → Byte) (o : TOp) (accInt : Bool) (rows len r i : Nat) : Num × Flags :=
  let raw := readElem rd o.code (o.addr + r * o.stride) i
  if o.mx then scaledElem o.code raw (rd (o.addr + rows * o.stride + r * scaleRow len + i / 32)).toNat
  else if o.code = 8 ∧ accInt = true then (numOfInt (toSigned 32 raw), noFlags)
  else (elemValue o.code false raw, noFlags)

/-- The scale byte of element `i` of row `r`. -/
def scaleAt (rd : Nat → Byte) (o : TOp) (rows len r i : Nat) : Nat := (rd (o.addr + rows * o.stride + r * scaleRow len + i / 32)).toNat

/-! ### Writing -/

/-- Bytes at an address of a tile (some) or of the region (none). -/
structure Piece where
  tile : Option Nat
  addr : Nat
  bytes : List Byte
deriving DecidableEq, Repr

/-- Nibbles packed two to a byte; an odd last one leaves bits [7:4] 0 (R35). -/
def packNibbles : List Nat → List Byte
  | [] => []
  | [a] => [BitVec.ofNat 8 (a % 16)]
  | a :: b :: rest => BitVec.ofNat 8 (a % 16 + 16 * (b % 16)) :: packNibbles rest

/-- Raw elements of a code packed into bytes. -/
def packElems (code : Nat) (es : List Nat) : List Byte :=
  if fmtWidth code = 4 then packNibbles es else es.flatMap fun e => leBytes (fmtWidth code / 8) e

/-- A run of bytes cut at page boundaries. -/
def cutPages (tile : Option Nat) : Nat → Nat → List Byte → List Write
  | 0, _, _ => []
  | n + 1, a, bs =>
    if bs = [] then []
    else
      let room := 65536 - a % 65536
      { tile := tile, page := a / 65536, off := a % 65536, bytes := bs.take room } :: cutPages tile n (a + room) (bs.drop room)

/-- The writes of a piece. -/
def pieceWrites (p : Piece) : List Write := cutPages p.tile (p.bytes.length / 65536 + 2) p.addr p.bytes

/-- The output is done: bytes of the own tile go into its shadow pages, the others go out (R86, R88). -/
def deliver (eng q sl : Nat) (ps : List Piece) (f : Flags) (s : State) : State :=
  let r := (getSlot s eng q sl).run
  let ws := ps.flatMap pieceWrites
  let local? (w : Write) : Option Nat := if eng < 32 ∧ w.tile = some eng then shadowOf r eng w.page else none
  let s := ws.foldl (fun s w => match local? w with
    | some k => writeFrame k w.off w.bytes s
    | none => s) s
  finishCommand eng q sl (ws.filter fun w => (local? w).isNone) f s

/-- A running command of an engine whose header names this unit and opcode. -/
def runs (s : State) (eng q sl unit opcode : Nat) : Bool :=
  let y := getSlot s eng q sl
  y.phase == .running && cUnit y == unit && cOpcode y == opcode

/-! ### Rounding of outputs (R50 to R52, R59) -/

/-- The rounding of output element `i` of a command. -/
def outRounding (s : State) (y : Slot) (round : Bool) (i : Nat) : Rounding :=
  if round && objBit s (oPartitionLatched y.part) 1 then .stochastic (rand16 (getObj s (oStepSeed y.part)) y.step i) else .rne

/-- A value converted to an unscaled output element; a code-0x8 output holds INT32 or FP32 by its kind (R53, R54). -/
def encodeOut (code : Nat) (accInt sat : Bool) (r : Rounding) (v : Num) : Nat × Flags :=
  if code = 8 ∧ accInt = true then floatToInt 32 sat r v else encodeElem code sat r v

/-! ### Images and padding (R98 to R104) -/

/-- The geometry of a window command (R99, R100). -/
structure Geom where
  wOut : Nat
  hOut : Nat
  cOut : Nat
  cIn : Nat
  kh : Nat
  kw : Nat
  sy : Nat
  sx : Nat
  dy : Nat
  dx : Nat
  pt : Nat
  pb : Nat
  pl : Nat
  pr : Nat
  padValue : Nat
  padMode : Nat
  groups : Nat
deriving DecidableEq, Repr

/-- Input width (R100). -/
def Geom.wIn (g : Geom) : Int := ((g.wOut - 1) * g.sx : Nat) + ((g.kw - 1) * g.dx + 1 : Nat) - (g.pl : Int) - g.pr
/-- Input height (R100). -/
def Geom.hIn (g : Geom) : Int := ((g.hOut - 1) * g.sy : Nat) + ((g.kh - 1) * g.dy + 1 : Nat) - (g.pt : Int) - g.pb

/-- The geometry is refused by R100 or R103. -/
def Geom.bad (g : Geom) : Bool :=
  decide (g.wIn < 1) || decide (g.hIn < 1) || g.padMode == 3 ||
    (g.padMode == 2 && (decide (g.wIn - 1 < g.pl) || decide (g.wIn - 1 < g.pr) || decide (g.hIn - 1 < g.pt) || decide (g.hIn - 1 < g.pb)))

/-- The input position read for position `u` of an axis of `n` positions; none: the pad value (R103). -/
def padIndex (mode n : Nat) (u : Int) : Option Nat :=
  if 0 ≤ u ∧ u < n then some u.toNat
  else match mode with
    | 1 => some (if u < 0 then 0 else n - 1)
    | 2 => some (if u < 0 then (-u).toNat else (2 * ((n : Int) - 1) - u).toNat)
    | _ => none

/-- The value of a padded position in constant mode (R104): a BF16 value for FP32, of code 0x7 or 0x8; a free INT32 for an integer of code 0x8, for which R104 names no bits (DESIGN CHOICE, log entry 91); block scale 1.0 under the modifier. -/
def padConst (code : Nat) (accInt mx : Bool) (v : Nat) : Num × Flags :=
  if code = 8 ∧ accInt = true then (numOfInt (toSigned 32 (Config.padInt32 v).toNat), noFlags)
  else if code = 7 ∨ code = 8 then (decodeFloat fmtBF16 v, noFlags)
  else if mx then scaledElem code (v % 2 ^ fmtWidth code) 0x7F else (elemValue code false (v % 2 ^ fmtWidth code), noFlags)

/-- The value that position (u, v), channel c of an image operand holds, padding included (R98, R103, R104). -/
def imageAt (rd : Nat → Byte) (o : TOp) (accInt : Bool) (g : Geom) (u v : Int) (c : Nat) : Num × Flags :=
  let w := g.wIn.toNat
  let h := g.hIn.toNat
  match padIndex g.padMode w u, padIndex g.padMode h v with
  | some x, some y => elemAt rd o accInt h (w * g.cIn) y (x * g.cIn + c)
  | _, _ => padConst o.code accInt o.mx g.padValue

/-- Whether position (u, v) lies inside the input. -/
def Geom.inside (g : Geom) (u v : Int) : Bool := decide (0 ≤ u) && decide (u < g.wIn) && decide (0 ≤ v) && decide (v < g.hIn)

/-! ### Pictures (R142, R146) -/

/-- Sample width of a picture code. -/
def picBits (code : Nat) : Nat := if code ≤ 1 then 8 else if code ≤ 3 then 10 else if code = 4 then 12 else 16

/-- A 4:2:2 format. -/
def pic422 (code : Nat) : Bool := code == 2 || code == 4

/-- Channels of a picture code. -/
def picChannels (code : Nat) : Nat := if code = 1 ∨ code = 5 then 4 else 3

/-- Bytes of a line of `w` pixels. -/
def picLine (code w : Nat) : Nat :=
  match code with
  | 0 => 3 * w
  | 1 => 4 * w
  | 2 => ceilDiv (5 * w) 2
  | 3 => ceilDiv (15 * w) 4
  | 4 => 3 * w
  | _ => 8 * w

/-- The width suits the format; codes 0x6 to 0xF are refused. -/
def picOk (code w : Nat) : Bool := decide (code ≤ 5) && (!(pic422 code) || w % 2 == 0) && (code != 3 || w % 4 == 0)

/-- Index in the line of the sample of channel `c` at pixel `x`; a 4:2:2 chroma sample belongs to the pixel pair. -/
def sampleIndex (code x c : Nat) : Nat :=
  if pic422 code then (x / 2) * 4 + (if c = 0 then 1 + 2 * (x % 2) else if c = 1 then 0 else 2)
  else x * picChannels code + c

/-- Bits [b(k+1) − 1 : b k] of a line's bit string (R142). -/
def lineSample (rd : Nat → Byte) (base b k : Nat) : Nat :=
  let lo := b * k
  bits (readNat rd (base + lo / 8) ((lo + b - 1) / 8 + 1 - lo / 8)) (lo % 8 + b - 1) (lo % 8)

/-- A stored sample of a picture whose line 0 starts at `base`. -/
def storedSample (rd : Nat → Byte) (base stride code x y c : Nat) : Nat := lineSample rd (base + y * stride) (picBits code) (sampleIndex code x c)

/-- Rounding half to even of a / b for integers (R145, R146). -/
def rne (a : Int) (b : Nat) : Int := roundInt .rne (mkRat a b)

/-- A sample at full width: odd chroma columns of 4:2:2 are interpolated (R146). -/
def fullSample (rd : Nat → Byte) (base stride code w x y c : Nat) : Int :=
  if pic422 code && c != 0 && x % 2 == 1 then
    let a := storedSample rd base stride code (x - 1) y c
    let b := if x + 1 < w then storedSample rd base stride code (x + 1) y c else a
    rne ((a + b : Nat) : Int) 2
  else (storedSample rd base stride code x y c : Nat)

/-- Samples of `b` bits packed into the bytes of a line (R142). -/
def packBits (b : Nat) (vs : List Nat) : List Byte :=
  let n := vs.foldr (fun v a => v % 2 ^ b + 2 ^ b * a) 0
  leBytes (ceilDiv (b * vs.length) 8) n

/-- A line of a picture from its channel values at every pixel, chroma of 4:2:2 filtered (R146). -/
def packLine (code w : Nat) (px : Nat → Nat → Int) : List Byte :=
  let b := picBits code
  if pic422 code then
    let cf (x c : Nat) : Nat :=
      let l := px (if x = 0 then 0 else x - 1) c
      let r := px (if x + 1 < w then x + 1 else w - 1) c
      (rne (l + 2 * px x c + r) 4).toNat
    packBits b ((List.range (w / 2)).flatMap fun i => [cf (2 * i) 1, (px (2 * i) 0).toNat, cf (2 * i) 2, (px (2 * i + 1) 0).toNat])
  else packBits b ((List.range w).flatMap fun x => (List.range (picChannels code)).map fun c => (px x c).toNat)

/-! ### The order of refusal reasons (R620) -/

/-- Reasons in the order in which the checks run. -/
def reasonOrder : List Nat :=
  [0x12, 0x03, 0x01, 0x02, 0x07, 0x09, 0x0A, 0x0B, 0x0C, 0x0D, 0x0E, 0x0F, 0x11, 0x04, 0x05, 0x06, 0x10, 0x08]

/-- The one reason of a command that meets several. -/
def firstReason (rs : List Nat) : Option Nat := reasonOrder.find? fun r => rs.contains r

end Sys2Proof.Machine
end

