-- ==== Sys2Proof/Machine/Matrix.lean ====
section
/-!
DEFINITION. The matrix array: matrix multiply (R67 to R76), the sliding window (R97 to R105), and the reductions and output stage that the grouped window of the vector engine shares.
-/

namespace Sys2Proof.Machine

/-! ### Accumulation (R44 to R48) -/

/-- A list cut into runs of `w`. -/
def chunks {α : Type} (w : Nat) : Nat → List α → List (List α)
  | 0, _ => []
  | n + 1, l => if l.length ≤ w then [l] else l.take w :: chunks w n (l.drop w)

/-- The runs of a reduction of `w` positions each (R44, R68). -/
def passesOf {α : Type} (w : Nat) (l : List α) : List (List α) := if l.isEmpty then [] else chunks w (l.length + 1) l

/-- Exact integer value of a finite number that is an integer. -/
def Num.toInt (v : Num) : Int := v.toRat.num

/-- An INT32 accumulator over passes of exact products (R46). -/
def accInt (w : Nat) (init : Int) (ps : List Int) : Int × Flags :=
  (passesOf w ps).foldl (fun a p =>
    let r := satInt32 (a.1 + p.foldl (· + ·) 0)
    (r.1, orFlags a.2 r.2)) (init, noFlags)

/-- One fused pass into an FP32 accumulator (R47, R48). -/
def fusedPass (acc : Num) (ps : List Num) : Num × Flags :=
  let t := sumNum (acc :: ps)
  let r := roundFP32 t.1
  (r.1, orFlags t.2 r.2)

/-- An FP32 accumulator over fused passes. -/
def accFloat (w : Nat) (init : Num) (ps : List Num) : Num × Flags :=
  (passesOf w ps).foldl (fun a p =>
    let r := fusedPass a.1 p
    (r.1, orFlags a.2 r.2)) (init, noFlags)

/-- The union of flags. -/
def allFlags (fs : List Flags) : Flags := fs.foldl orFlags noFlags

/-- Products of a reduction with the flags they raise; elements are pairs of A and B with their own flags. -/
def products (ps : List ((Num × Flags) × (Num × Flags))) : List Num × Flags :=
  let rs := ps.map fun p =>
    let m := mulNum p.1.1 p.2.1
    (m.1, orFlags m.2 (orFlags p.1.2 p.2.2))
  (rs.map (·.1), allFlags (rs.map (·.2)))

/-- An accumulator: INT32, or FP32 when `isInt` is false (R45). -/
def accumulate (isInt : Bool) (w : Nat) (init : Num) (ps : List ((Num × Flags) × (Num × Flags))) : Num × Flags :=
  let p := products ps
  if isInt then
    let r := accInt w init.toInt (p.1.map Num.toInt)
    (numOfInt r.1, orFlags p.2 r.2)
  else
    let r := accFloat w init p.1
    (r.1, orFlags p.2 r.2)

/-! ### The output stage (R54 to R56, R70, R76) -/

/-- A conversion entry of R76, in the two readings. -/
structure Conv where
  m : Int
  s : Nat
  z : Int
  scale : Num
deriving DecidableEq, Repr

/-- The entry of a channel without an auxiliary operand. -/
def Conv.unit : Conv := { m := 1, s := 0, z := 0, scale := .fin false 1 }

/-- The entry of channel `i` in a packed table. -/
def convAt (rd : Nat → Byte) (base i : Nat) : Conv :=
  let v := readNat rd (base + 8 * i) 8
  { m := toSigned 16 (bits v 15 0), s := bits v 23 16, z := toSigned 16 (bits v 47 32), scale := decodeFloat fmtFP32 (bits v 31 0) }

/-- The exact value that a conversion would round (R54 to R56). -/
def preRound (isInt : Bool) (code : Nat) (e : Conv) (acc : Num) : Num × Flags :=
  if isInt && fmtIsInt code then (numOfRat (mkRat (acc.toInt * e.m) (2 ^ e.s) + (e.z : Rat)) false, noFlags)
  else mulNum acc e.scale

/-- One unscaled output element from an accumulator (R54, R55). -/
def convertAcc (isInt : Bool) (code : Nat) (sat : Bool) (r : Rounding) (e : Conv) (acc : Num) : Nat × Flags :=
  if code = 8 then (if isInt then (ofSigned 32 acc.toInt, noFlags) else encodeFloat fmtFP32 false .rne acc)
  else if isInt && fmtIsInt code then intConv (fmtWidth code) sat r acc.toInt e.m e.s e.z
  else
    let p := preRound isInt code e acc
    let q := encodeElem code sat r p.1
    (q.1, orFlags p.2 q.2)

/-- A row of an output: its element codes, its scale bytes under the modifier, and its flags (R54 to R56). -/
def outRow (isInt : Bool) (o : TOp) (sat : Bool) (rs : List Rounding) (row : List (Conv × Num)) : List Nat × List Nat × Flags :=
  if o.mx then
    let vs := row.map fun e => preRound isInt o.code e.1 e.2
    let bs := List.zipWith (fun b r => encodeBlock o.code r b) (passesOf 32 (vs.map (·.1))) (passesOf 32 rs)
    (bs.flatMap (·.2.1), bs.map (·.1), orFlags (allFlags (vs.map (·.2))) (allFlags (bs.map (·.2.2))))
  else
    let es := List.zipWith (fun e r => convertAcc isInt o.code sat r e.1 e.2) row rs
    (es.map (·.1), [], allFlags (es.map (·.2)))

/-- The pieces of an output of `n` rows: data rows, and scale rows behind them under the modifier (R71). -/
def rowPieces (tile : Nat) (o : TOp) (rows : List (List Nat × List Nat × Flags)) (len : Nat) : List Piece :=
  let n := rows.length
  (List.range n).flatMap fun r =>
    let e := rows.getD r ([], [], noFlags)
    let data : Piece := { tile := some tile, addr := o.addr + r * o.stride, bytes := packElems o.code e.1 }
    if o.mx then [data, { tile := some tile, addr := o.addr + n * o.stride + r * scaleRow len, bytes := e.2.1.map fun b => BitVec.ofNat 8 b }] else [data]

/-- The tile of output C. -/
def destTile (eng : Nat) (o : TOp) : Nat := if o.remote then o.tile else eng

/-! ### Matrix multiply (R67, R68, R75) -/

/-- M, N and K. -/
def mmM (x : Slot) : Nat := bits (cw x 12) 31 21 + 1
/-- Columns of C. -/
def mmN (x : Slot) : Nat := bits (cw x 12) 20 11 + 1
/-- Reduction length. -/
def mmK (x : Slot) : Nat := bits (cw x 13) 31 16 + 1

/-- An operand pair of R42. -/
def pairOk (a b : Nat) : Bool :=
  (decide (a ≤ 1) && decide (b ≤ 1)) || ((a == 3 || a == 4) && (b == 3 || b == 4)) || (a == b && (a == 2 || a == 5 || a == 6))

/-- The accumulator of a pair is INT32 (R45). -/
def accIsInt (a b : TOp) : Bool := fmtIsInt a.code && fmtIsInt b.code && !a.mx && !b.mx

/-- Positions of a pass (R44). -/
def passWidth (a b : TOp) : Nat := if a.code = 0 ∧ b.code = 0 then 512 else 256

/-- The conversion table applies: valid, and the output is not raw (R76). -/
def convUsed (x : Slot) : Bool := (opX x).valid && (opC x).code != 8

/-- The conversion entry of a channel. -/
def convOf (rd : Nat → Byte) (x : Slot) (i : Nat) : Conv := if convUsed x then convAt rd (opX x).addr i else Conv.unit

/-- Some entry of the first `n` has S above 47 (R76). -/
def shiftBad (rd : Nat → Byte) (x : Slot) (isInt : Bool) (n : Nat) : Bool :=
  convUsed x && isInt && fmtIsInt (opC x).code && (List.range n).any fun i => decide (47 < (convAt rd (opX x).addr i).s)

/-- Types of valid operands that R34 refuses. -/
def typesBad (os : List TOp) : Bool := os.any fun o => o.valid && !(fmtAccepted o.ty)

/-- The initial-accumulator operand disagrees with acc_init: R75 refuses a valid one while acc_init is 0, and acc_init needs a valid one; the reason is the one of required operands (0x04; DEDUCED, log entry 85). -/
def initBad (x : Slot) : Bool := (opInit x).valid != bit (cw x 13) 7

/-- The plan of a matrix multiply (R74 to R76, R78). An auxiliary operand whose type R34 refuses is refused also where R76 ignores the operand (DEDUCED, log entry 85). -/
def planMatrix (s : State) (eng : Nat) (x : Slot) : Plan :=
  let a := opA x
  let b := opB x
  let c := opC x
  let i := opInit x
  let useConv := convUsed x
  { Plan.none with
    reasons := why (typesBad [a, b, c, opX x, i]) 1 ++ why (a.valid && b.valid && !(pairOk a.code b.code)) 2 ++
      why (decide (2048 < mmM x * ceilDiv (mmN x) 256)) 7 ++ why (shiftBad (rdTileNow s eng) x (accIsInt a b) (mmN x)) 7 ++
      why (i.valid && i.code != 8) 9 ++ why (!(a.valid && b.valid && c.valid) || initBad x) 4,
    uses := [a.use eng (mmM x) (mmK x) false, b.use eng (mmN x) (mmK x) false, c.use eng (mmM x) (mmN x) true] ++
      (if i.valid then [i.use eng (mmM x) (mmN x) false] else []) ++
      (if useConv then [(opX x).usePacked eng (8 * mmN x) false false] else []) }

/-- The accumulator of row `r` and column `c` (R67, R68, R75). -/
def mmAcc (rd : Nat → Byte) (x : Slot) (r c : Nat) : Num × Flags :=
  let a := opA x
  let b := opB x
  let i := opInit x
  let isInt := accIsInt a b
  let init := if bit (cw x 13) 7 then (elemAt rd { i with ty := 8 } isInt (mmM x) (mmN x) r c).1 else .fin false 0
  accumulate isInt (passWidth a b) init
    ((List.range (mmK x)).map fun k => (elemAt rd a isInt (mmM x) (mmK x) r k, elemAt rd b isInt (mmN x) (mmK x) c k))

/-- Rows of accumulators converted and written (R70). -/
def writeRows (s : State) (y : Slot) (isInt : Bool) (eng : Nat) (rows len : Nat) (round sat : Bool) (acc : Nat → Nat → Num × Flags) (ch : Nat → Nat) : List Piece × Flags :=
  let rd := rdTile s y eng
  let o := opC y
  let rs := (List.range rows).map fun r =>
    let as := (List.range len).map fun c => acc r c
    let e := outRow isInt o sat ((List.range len).map fun c => outRounding s y round (r * len + c))
      (List.zipWith (fun c a => (convOf rd y (ch c), a.1)) (List.range len) as)
    (e.1, e.2.1, orFlags e.2.2 (allFlags (as.map (·.2))))
  (rowPieces (destTile eng o) o rs len, allFlags (rs.map (·.2.2)))

/-- MATRIX_MULTIPLY (R67 to R76). -/
def execMatrixMultiply (eng q sl : Nat) (s : State) : Out := whenLive s fun s =>
  if eng < 32 ∧ runs s eng q sl 0 1 = true then
    let y := getSlot s eng q sl
    let rd := rdTile s y eng
    let o := writeRows s y (accIsInt (opA y) (opB y)) eng (mmM y) (mmN y) (bit (cw y 13) 6) (bit (cw y 13) 5) (mmAcc rd y) id
    deliver eng q sl o.1 o.2 s
  else s

/-! ### Windows (R97 to R105, R118, R119) -/

/-- The geometry of a window command (R99). -/
def winGeom (x : Slot) : Geom :=
  let a := cw x 12
  let b := cw x 13
  let c := cw x 14
  let d := cw x 15
  { wOut := bits a 31 20 + 1, hOut := bits a 19 9 + 1, cOut := bits b 31 22 + 1, cIn := bits b 21 10 + 1, kh := bits b 9 6 + 1, kw := bits b 5 2 + 1,
    sy := bits c 31 29 + 1, sx := bits c 28 26 + 1, dy := bits c 25 23 + 1, dx := bits c 22 20 + 1, pt := bits c 19 15, pb := bits c 14 10, pl := bits c 9 5, pr := bits c 4 0,
    padValue := bits d 31 16, padMode := bits d 15 14, groups := bits d 11 0 + 1 }

/-- Reduction length of a group (R101). -/
def Geom.kg (g : Geom) : Nat := g.kh * g.kw * (g.cIn / g.groups)

/-- The uses of a window command. -/
def winUses (eng : Nat) (x : Slot) (g : Geom) : List Use :=
  [(opA x).use eng g.hIn.toNat (g.wIn.toNat * g.cIn) false, (opB x).use eng g.cOut g.kg false, (opC x).use eng g.hOut (g.wOut * g.cOut) true] ++
    (if convUsed x then [(opX x).usePacked eng (8 * g.cOut) false false] else [])

/-- The plan of the matrix sliding window (R99 to R103, R121). -/
def planWindow (s : State) (eng : Nat) (x : Slot) : Plan :=
  let a := opA x
  let b := opB x
  let c := opC x
  let g := winGeom x
  let G := g.groups
  let split := g.cIn % G == 0 && g.cOut % G == 0
  let nb := G * ceilDiv (g.cOut / G) 256
  { Plan.none with
    reasons := why (typesBad [a, b, c, opX x]) 1 ++ why (a.valid && b.valid && !(pairOk a.code b.code)) 2 ++
      why (shiftBad (rdTileNow s eng) x (accIsInt a b) g.cOut) 7 ++
      why (g.bad || !split || decide (65536 < g.kg) || decide (2048 < g.wOut * g.hOut * nb) ||
        (a.valid && a.code == 0 && g.cIn % 2 == 1) || (c.valid && c.code == 0 && g.cOut % 2 == 1) ||
        (a.valid && a.mx && (g.cIn / G) % 32 != 0) || (c.valid && c.mx && g.cOut % 32 != 0)) 0x0A ++
      why (!(a.valid && b.valid && c.valid)) 4,
    uses := winUses eng x g }

/-- A valid operand of the grouped window carries the modifier or code 0x8 (R118; reason 0x0A for both, the code being unnamed in R121: DEDUCED, log entry 85). -/
def groupedTypeBad (x : Slot) : Bool :=
  [opA x, opB x, opC x].any (fun o => o.valid && (o.mx || o.code == 8)) || ((opX x).valid && (opX x).mx)

/-- The plan of the grouped sliding window (R118, R121, R124). -/
def planGrouped (s : State) (eng : Nat) (x : Slot) : Plan :=
  let a := opA x
  let b := opB x
  let c := opC x
  let g := winGeom x
  let G := g.groups
  { Plan.none with
    reasons := why (typesBad [a, b, c, opX x]) 1 ++ why (shiftBad (rdTileNow s eng) x (accIsInt a b) g.cOut) 7 ++
      why (g.bad || g.cIn % G != 0 || g.cOut % G != 0 || decide (16 < g.cIn / G) || decide (16 < g.cOut / G) ||
        groupedTypeBad x) 0x0A ++
      why (a.valid && b.valid && fmtIsInt a.code != fmtIsInt b.code) 0x0C ++ why (!(a.valid && b.valid && c.valid)) 4,
    uses := winUses eng x g }

/-- The pairs of input and weight that reduce to output pixel (x, y), channel o, in order of tap row, tap column and channel (R100, R101). -/
def winPairs (rd : Nat → Byte) (a b : TOp) (isInt : Bool) (g : Geom) (x y o : Nat) : List ((Num × Flags) × (Num × Flags)) :=
  let per := g.cIn / g.groups
  let grp := o / (g.cOut / g.groups)
  (List.range g.kg).map fun k =>
    let i := k / (g.kw * per)
    let j := k / per % g.kw
    let c := k % per
    let u : Int := ((x * g.sx + j * g.dx : Nat) : Int) - g.pl
    let v : Int := ((y * g.sy + i * g.dy : Nat) : Int) - g.pt
    (imageAt rd a isInt g u v (grp * per + c), elemAt rd b isInt g.cOut g.kg o k)

/-- SLIDING_WINDOW (R97 to R105): the reduction of R101 in the passes of R44. -/
def execSlidingWindow (eng q sl : Nat) (s : State) : Out := whenLive s fun s =>
  if eng < 32 ∧ runs s eng q sl 0 2 = true then
    let y := getSlot s eng q sl
    let g := winGeom y
    let isInt := accIsInt (opA y) (opB y)
    let rd := rdTile s y eng
    let acc (r c : Nat) : Num × Flags :=
      accumulate isInt (passWidth (opA y) (opB y)) (.fin false 0) (winPairs rd (opA y) (opB y) isInt g (c / g.cOut) r (c % g.cOut))
    let o := writeRows s y isInt eng g.hOut (g.wOut * g.cOut) (bit (cw y 15) 13) (bit (cw y 15) 12) acc (· % g.cOut)
    deliver eng q sl o.1 o.2 s
  else s

/-- GROUPED_SLIDING_WINDOW (R118, R119): tap by tap, an INT32 accumulation or FP32 with one rounding per tap. A lane has no passes, so the saturation of R46 acts after each tap, as on passes of one position (DEDUCED, log entry 86). -/
def execGroupedSlidingWindow (eng q sl : Nat) (s : State) : Out := whenLive s fun s =>
  if eng < 32 ∧ runs s eng q sl 1 0x30 = true then
    let y := getSlot s eng q sl
    let g := winGeom y
    let isInt := fmtIsInt (opA y).code
    let rd := rdTile s y eng
    let acc (r c : Nat) : Num × Flags :=
      accumulate isInt 1 (.fin false 0) (winPairs rd (opA y) (opB y) isInt g (c / g.cOut) r (c % g.cOut))
    let o := writeRows s y isInt eng g.hOut (g.wOut * g.cOut) (bit (cw y 15) 13) (bit (cw y 15) 12) acc (· % g.cOut)
    deliver eng q sl o.1 o.2 s
  else s

end Sys2Proof.Machine
end

