-- ==== Sys2Proof/Machine/Vector.lean ====
section
/-!
DEFINITION. The vector engine (R123 to R138): element-wise operations, reductions, pooling, resampling, pixel shuffle, argmax and the zero-run format.
-/

namespace Sys2Proof.Machine

/-! ### Kinds and values -/

/-- An operand counts as integer; a code-0x8 operand by its kind (R124). -/
def kindInt (o : TOp) (accInt : Bool) : Bool := if o.code = 8 then accInt else fmtIsInt o.code

/-- The kind of a code-0x8 operand of the other opcodes: that of the other of A and C; INT32 is true (R124). -/
def otherKind (x : Slot) : Bool := if (opA x).code = 8 then fmtIsInt (opC x).code else fmtIsInt (opA x).code

/-- An operand has a format of its own. -/
def ownFormat (o : TOp) : Bool := o.valid && o.code != 8

/-- Limits that every vector command of opcodes other than 0x01 and 0x02 shares: no modifier, and a decided kind (R124). -/
def otherBad (x : Slot) : Bool :=
  [opA x, opB x, opC x, opX x].any (fun o => o.valid && o.mx) ||
    ((opA x).valid && (opA x).code == 8 && !(ownFormat (opC x))) || ((opC x).valid && (opC x).code == 8 && !(ownFormat (opA x)))

/-- Valid operands A and B are not both integer or both float (R124). -/
def kindsDiffer (x : Slot) (accInt : Bool) : Bool :=
  (opA x).valid && (opB x).valid && kindInt (opA x) accInt != kindInt (opB x) accInt

/-- The larger value; NaN wins, and max(−0, +0) is +0 (R126). -/
def maxNum (a b : Num) : Num :=
  match a, b with
  | .nan, _ => .nan
  | _, .nan => .nan
  | a, b => if a.lt b then b else if b.lt a then a else if a.isNeg then b else a

/-- The smaller value; NaN wins, and min(−0, +0) is −0 (R126). -/
def minNum (a b : Num) : Num :=
  match a, b with
  | .nan, _ => .nan
  | _, .nan => .nan
  | a, b => if a.lt b then a else if b.lt a then b else if a.isNeg then a else b

/-- +0. -/
def numZero : Num := .fin false 0

/-- A raw FP32 word as a number. -/
def numFP32 (w : Nat) : Num := decodeFloat fmtFP32 w

/-- An output row of a vector command: block scales by R56 under the modifier, else one conversion per element. -/
def vecRow (o : TOp) (accInt sat : Bool) (rs : List Rounding) (row : List Num) : List Nat × List Nat × Flags :=
  if o.mx then outRow false o sat rs (row.map fun v => (Conv.unit, v))
  else
    let es := List.zipWith (fun v r => encodeOut o.code accInt sat r v) row rs
    (es.map (·.1), [], allFlags (es.map (·.2)))

/-- Rows of exact values converted and written. -/
def vecRows (s : State) (y : Slot) (eng rows len : Nat) (accInt round sat : Bool) (val : Nat → Nat → Num × Flags) : List Piece × Flags :=
  let o := opC y
  let rs := (List.range rows).map fun r =>
    let vs := (List.range len).map fun c => val r c
    let e := vecRow o accInt sat ((List.range len).map fun c => outRounding s y round (r * len + c)) (vs.map (·.1))
    (e.1, e.2.1, orFlags e.2.2 (allFlags (vs.map (·.2))))
  (rowPieces (destTile eng o) o rs len, allFlags (rs.map (·.2.2)))

/-! ### Element-wise operations and reductions (R125 to R128) -/

/-- Rows. -/
def vRows (x : Slot) : Nat := bits (cw x 12) 31 20 + 1
/-- Elements per row. -/
def vLen (x : Slot) : Nat := bits (cw x 12) 19 0 + 1
/-- The op. -/
def vOp (x : Slot) : Nat := bits (cw x 13) 31 28
/-- The shape of B. -/
def vBcast (x : Slot) : Nat := bits (cw x 13) 27 26
/-- Code-0x8 operands are INT32. -/
def vAccInt (x : Slot) : Bool := !(bit (cw x 13) 23)
/-- α. -/
def vAlpha (x : Slot) : Num := numFP32 (cw x 14)
/-- β. -/
def vBeta (x : Slot) : Num := numFP32 (cw x 15)

/-- Rows and elements of B (R125). -/
def vShapeB (x : Slot) : Nat × Nat :=
  match vBcast x with
  | 0 => (vRows x, vLen x)
  | 1 => (1, vLen x)
  | 2 => (vRows x, 1)
  | _ => (1, 1)

/-- The op takes operand B. -/
def vTakesB (x : Slot) : Bool := decide (vOp x ≤ 5)

/-- α and β are finite and β is above α, or for a clamp neither is NaN and α is not above β (R126). -/
def alphaBad (x : Slot) : Bool :=
  if vOp x = 9 then vAlpha x == .nan || vBeta x == .nan || (vBeta x).lt (vAlpha x)
  else if vOp x = 10 then
    match vAlpha x, vBeta x with
    | .fin a m, .fin b n => !((Num.fin a m).lt (.fin b n))
    | _, _ => true
  else false

/-- Code 0x8 or the modifier on a valid operand where R124 and R126 do not allow it. -/
def elementTypeBad (x : Slot) : Bool :=
  let op := vOp x
  let a := opA x
  let b := opB x
  let c := opC x
  (a.valid && a.code == 8 && !(op == 0 || op == 1 || op == 11)) || (b.valid && b.code == 8 && !(op == 0 || op == 1)) ||
    (c.valid && c.code == 8 && op != 0) || (a.valid && a.mx && op != 11) || (c.valid && c.mx && op != 11) || (b.valid && b.mx)

/-- The plan of an element-wise operation (R123 to R127). -/
def planElement (eng : Nat) (x : Slot) : Plan :=
  let a := opA x
  let b := opB x
  let c := opC x
  let k := opX x
  let sb := vShapeB x
  { Plan.none with
    reasons := why (typesBad [a, b, c, k]) 1 ++
      why (decide (11 < vOp x) || alphaBad x || elementTypeBad x || kindsDiffer x (vAccInt x) ||
        (b.valid && (vOp x == 6 || vOp x == 11)) || (k.valid && vOp x != 10) || (vOp x == 10 && k.valid && k.ty != 7)) 0x0C ++
      why (!(a.valid && c.valid) || (vTakesB x && !b.valid) || (vOp x == 10 && !k.valid)) 4,
    uses := [a.use eng (vRows x) (vLen x) false, c.use eng (vRows x) (vLen x) true] ++
      (if vTakesB x then [b.use eng sb.1 sb.2 false] else []) ++ (if vOp x = 10 then [k.usePacked eng 1028 false false] else []) }

/-- The plan of a reduction (R123, R124, R128). -/
def planReduce (eng : Nat) (x : Slot) : Plan :=
  let a := opA x
  let c := opC x
  { Plan.none with
    reasons := why (typesBad [a, opB x, c, opX x]) 1 ++ why (decide (3 < vOp x) || [a, opB x, c].any (fun o => o.valid && o.mx) || kindsDiffer x (vAccInt x) || (opX x).valid) 0x0C ++ why (!(a.valid && c.valid)) 4,
    uses := [a.use eng (vRows x) (vLen x) false, c.use eng (vRows x) 1 true] }

/-- Element (r, i) of operand A. -/
def vA (rd : Nat → Byte) (x : Slot) (r i : Nat) : Num × Flags := elemAt rd (opA x) (vAccInt x) (vRows x) (vLen x) r i

/-- The element of operand B that meets element (r, i) (R125). -/
def vB (rd : Nat → Byte) (x : Slot) (r i : Nat) : Num × Flags :=
  let sb := vShapeB x
  elemAt rd (opB x) (vAccInt x) sb.1 sb.2 (if sb.1 = 1 then 0 else r) (if sb.2 = 1 then 0 else i)

/-- A result with the flags of its inputs. -/
def withFlags (f : Flags) (r : Num × Flags) : Num × Flags := (r.1, orFlags f r.2)

/-- An element-wise operation of one or two inputs, on every element. -/
def execElement (op eng q sl : Nat) (f : (Nat → Byte) → Slot → Num → Num → Num × Flags) (s : State) : State :=
  let y := getSlot s eng q sl
  if eng < 32 ∧ runs s eng q sl 1 1 = true ∧ vOp y = op then
    let rd := rdTile s y eng
    let val (r i : Nat) : Num × Flags :=
      let a := vA rd y r i
      let b := if vTakesB y then vB rd y r i else (numZero, noFlags)
      withFlags (orFlags a.2 b.2) (f rd y a.1 b.1)
    let o := vecRows s y eng (vRows y) (vLen y) (vAccInt y) (bit (cw y 13) 25) (bit (cw y 13) 24) val
    deliver eng q sl o.1 o.2 s
  else s

/-- The sum of op 0x0; two INT32 partials saturate (R126). -/
def partialSum (y : Slot) (a b : Num) : Num × Flags :=
  let t := addNum a b
  if (opA y).code = 8 ∧ (opB y).code = 8 ∧ vAccInt y = true then
    let r := satInt32 t.1.toInt
    (numOfInt r.1, orFlags t.2 r.2)
  else t

/-- ELEMENT_ADD. -/
def execElementAdd (eng q sl : Nat) (s : State) : Out := whenLive s (execElement 0 eng q sl fun _ y a b => partialSum y a b)

/-- ELEMENT_SUBTRACT. -/
def execElementSubtract (eng q sl : Nat) (s : State) : Out := whenLive s (execElement 1 eng q sl fun _ _ a b => addNum a b.neg)

/-- The product of op 0x2; a product of integers that is zero has no sign (R126). -/
def productOf (y : Slot) (a b : Num) : Num × Flags :=
  let p := mulNum a b
  if kindInt (opA y) (vAccInt y) = true ∧ p.1.isZero = true then (numZero, p.2) else p

/-- ELEMENT_MULTIPLY. -/
def execElementMultiply (eng q sl : Nat) (s : State) : Out := whenLive s (execElement 2 eng q sl fun _ y a b => productOf y a b)

/-- ELEMENT_MAX. -/
def execElementMax (eng q sl : Nat) (s : State) : Out := whenLive s (execElement 3 eng q sl fun _ _ a b => (maxNum a b, noFlags))

/-- ELEMENT_MIN. -/
def execElementMin (eng q sl : Nat) (s : State) : Out := whenLive s (execElement 4 eng q sl fun _ _ a b => (minNum a b, noFlags))

/-- ELEMENT_SCALE_ADD: α × A + B. -/
def execElementScaleAdd (eng q sl : Nat) (s : State) : Out := whenLive s (execElement 5 eng q sl fun _ y a b => fmaNum (vAlpha y) a b)

/-- ELEMENT_AFFINE: α × A + β. -/
def execElementAffine (eng q sl : Nat) (s : State) : Out := whenLive s (execElement 6 eng q sl fun _ y a _ => fmaNum (vAlpha y) a (vBeta y))

/-- A if A > 0, else +0; NaN stays NaN. -/
def rectify (a : Num) : Num := if a = .nan then .nan else if numZero.lt a then a else numZero

/-- RECTIFIER. -/
def execRectifier (eng q sl : Nat) (s : State) : Out := whenLive s (execElement 7 eng q sl fun _ _ a _ => (rectify a, noFlags))

/-- A if A ≥ 0, else α × A. -/
def leaky (y : Slot) (a : Num) : Num × Flags := if a.lt numZero then mulNum (vAlpha y) a else (a, noFlags)

/-- LEAKY_RECTIFIER. -/
def execLeakyRectifier (eng q sl : Nat) (s : State) : Out := whenLive s (execElement 8 eng q sl fun _ y a _ => leaky y a)

/-- ELEMENT_CLAMP: max(α, min(A, β)). -/
def execElementClamp (eng q sl : Nat) (s : State) : Out :=
  whenLive s (execElement 9 eng q sl fun _ y a _ => (maxNum (vAlpha y) (minNum a (vBeta y)), noFlags))

/-- Knot `i` of the table. -/
def knotAt (rd : Nat → Byte) (y : Slot) (i : Nat) : Num := numFP32 (readElem rd 7 (opX y).addr i)

/-- The interval and the fraction of the table position u; u is not NaN (R127). -/
def tablePlace (u : Num) : Nat × Num :=
  if u.lt numZero then (0, numZero)
  else if u.lt (numOfInt 256) then (u.toRat.floor.toNat, numOfRat (u.toRat - (u.toRat.floor : Rat)) false)
  else (255, numOfInt 1)

/-- The piecewise-linear table at x (R127). -/
def tableValue (rd : Nat → Byte) (y : Slot) (x : Num) : Num × Flags :=
  if x = .nan then (.nan, noFlags)
  else
    let g := (roundFP32 (numOfRat (256 / ((vBeta y).toRat - (vAlpha y).toRat)) false)).1
    let d := addNum x (vAlpha y).neg
    let m := mulNum d.1 g
    let u := roundFP32 m.1
    if u.1 = .nan then (numFP32 (Config.tableEdge (y.words.getD 14 0) (y.words.getD 15 0)).toNat, noFlags)
    else
      let p := tablePlace u.1
      let k := knotAt rd y p.1
      let e := addNum (knotAt rd y (p.1 + 1)) k.neg
      withFlags e.2 (fmaNum p.2 e.1 k)

/-- PIECEWISE_LINEAR_TABLE. -/
def execPiecewiseLinearTable (eng q sl : Nat) (s : State) : Out := whenLive s (execElement 10 eng q sl fun rd y a _ => tableValue rd y a)

/-- ELEMENT_CONVERT. -/
def execElementConvert (eng q sl : Nat) (s : State) : Out := whenLive s (execElement 11 eng q sl fun _ _ a _ => (a, noFlags))

/-- A running value over the elements of a row, in ascending order (R128). -/
def reduceRow (isInt square : Bool) (vs : List Num) : Num × Flags :=
  let one (v : Num) : Num × Flags := if square then mulNum v v else (v, noFlags)
  match vs with
  | [] => (numZero, noFlags)
  | v :: rest =>
    if isInt then
      let r := accInt 1 0 ((v :: rest).map fun v => (one v).1.toInt)
      (numOfInt r.1, r.2)
    else
      let a := one v
      let b := roundFP32 a.1
      rest.foldl (fun acc v =>
        let m := one v
        let t := fusedPass acc.1 [m.1]
        (t.1, orFlags acc.2 (orFlags m.2 t.2))) (b.1, orFlags a.2 b.2)

/-- A reduction of every row. -/
def execReduce (op eng q sl : Nat) (f : Slot → List Num → Num × Flags) (s : State) : State :=
  let y := getSlot s eng q sl
  if eng < 32 ∧ runs s eng q sl 1 2 = true ∧ vOp y = op then
    let rd := rdTile s y eng
    let val (r _i : Nat) : Num × Flags :=
      let vs := (List.range (vLen y)).map fun i => vA rd y r i
      withFlags (allFlags (vs.map (·.2))) (f y (vs.map (·.1)))
    let o := vecRows s y eng (vRows y) 1 (vAccInt y) (bit (cw y 13) 25) (bit (cw y 13) 24) val
    deliver eng q sl o.1 o.2 s
  else s

/-- The extreme of a row by a choice of two. -/
def extreme (pick : Num → Num → Num) (vs : List Num) : Num × Flags :=
  match vs with
  | [] => (numZero, noFlags)
  | v :: rest => (rest.foldl pick v, noFlags)

/-- ROW_SUM. -/
def execRowSum (eng q sl : Nat) (s : State) : Out :=
  whenLive s (execReduce 0 eng q sl fun y vs => reduceRow (kindInt (opA y) (vAccInt y)) false vs)

/-- ROW_MAXIMUM. -/
def execRowMaximum (eng q sl : Nat) (s : State) : Out := whenLive s (execReduce 1 eng q sl fun _ vs => extreme maxNum vs)

/-- ROW_SUM_OF_SQUARES. -/
def execRowSumOfSquares (eng q sl : Nat) (s : State) : Out :=
  whenLive s (execReduce 2 eng q sl fun y vs => reduceRow (kindInt (opA y) (vAccInt y)) true vs)

/-- ROW_MINIMUM. -/
def execRowMinimum (eng q sl : Nat) (s : State) : Out := whenLive s (execReduce 3 eng q sl fun _ vs => extreme minNum vs)

/-! ### Pooling (R130, R131) -/

/-- The geometry of a pooling command: dilation 1, C channels in and out. -/
def poolGeom (x : Slot) : Geom :=
  let a := cw x 12
  let b := cw x 13
  let c := cw x 14
  let d := cw x 15
  { wOut := bits a 31 20 + 1, hOut := bits a 19 9 + 1, cOut := bits b 31 20 + 1, cIn := bits b 31 20 + 1, kh := bits b 19 17 + 1, kw := bits b 16 14 + 1,
    sy := bits b 13 10 + 1, sx := bits b 9 6 + 1, dy := 1, dx := 1, pt := bits c 19 15, pb := bits c 14 10, pl := bits c 9 5, pr := bits c 4 0,
    padValue := bits d 31 16, padMode := bits d 15 14, groups := 1 }

/-- The plan of a pooling command. -/
def planPool (eng : Nat) (x : Slot) : Plan :=
  let a := opA x
  let c := opC x
  let g := poolGeom x
  { Plan.none with
    reasons := why (typesBad [a, opB x, c, opX x]) 1 ++
      why (bits (cw x 13) 5 4 == 3 || g.bad || otherBad x || (opB x).valid || (opX x).valid) 0x0C ++ why (!(a.valid && c.valid)) 4,
    uses := [a.use eng g.hIn.toNat (g.wIn.toNat * g.cIn) false, c.use eng g.hOut (g.wOut * g.cOut) true] }

/-- The taps of output pixel (x, y), channel c, by rows and then columns; `inside` keeps only positions of the input. -/
def poolTaps (rd : Nat → Byte) (a : TOp) (accInt : Bool) (g : Geom) (inside : Bool) (x y c : Nat) : List (Num × Flags) :=
  (List.range (g.kh * g.kw)).filterMap fun k =>
    let u : Int := ((x * g.sx + k % g.kw : Nat) : Int) - g.pl
    let v : Int := ((y * g.sy + k / g.kw : Nat) : Int) - g.pt
    if inside && !(g.inside u v) then none else some (imageAt rd a accInt g u v c)

/-- A value divided by a positive count, exactly. -/
def divNum (v : Num) (n : Nat) : Num :=
  match v with
  | .fin neg m => .fin neg (m / (n : Rat))
  | v => v

/-- The average of taps: the sum of R131 divided by n; +0 of none. R131 does not say from which value a float sum starts: it starts from the first tap, as the running value of R128 does, so that taps of −0 give −0; and it does not say what becomes of an INT32 sum of code-0x8 taps that leaves INT32: it saturates after each tap, as R46 and R128 have it (DEDUCED, log entry 86). -/
def poolMean (isInt : Bool) (vs : List Num) (n : Nat) : Num × Flags :=
  if n = 0 then (numZero, noFlags)
  else
    let t := reduceRow isInt false vs
    (divNum t.1 n, t.2)

/-- A pooling command of one mode. -/
def execPool (mode eng q sl : Nat) (f : Bool → List Num → Nat → Num × Flags) (s : State) : State :=
  let y := getSlot s eng q sl
  if eng < 32 ∧ runs s eng q sl 1 0x10 = true ∧ bits (cw y 13) 5 4 = mode then
    let rd := rdTile s y eng
    let g := poolGeom y
    let k := otherKind y
    let val (r c : Nat) : Num × Flags :=
      let ts := poolTaps rd (opA y) k g (mode == 2) (c / g.cOut) r (c % g.cOut)
      withFlags (allFlags (ts.map (·.2))) (f (kindInt (opA y) k) (ts.map (·.1)) ts.length)
    let o := vecRows s y eng g.hOut (g.wOut * g.cOut) k (bit (cw y 13) 3) (bit (cw y 13) 2) val
    deliver eng q sl o.1 o.2 s
  else s

/-- MAX_POOLING. -/
def execMaxPooling (eng q sl : Nat) (s : State) : Out := whenLive s (execPool 0 eng q sl fun _ vs _ => extreme maxNum vs)

/-- AVERAGE_POOLING_WINDOW: over every position of the window. -/
def execAveragePoolingWindow (eng q sl : Nat) (s : State) : Out := whenLive s (execPool 1 eng q sl poolMean)

/-- AVERAGE_POOLING_INPUT: over the positions inside the input. -/
def execAveragePoolingInput (eng q sl : Nat) (s : State) : Out := whenLive s (execPool 2 eng q sl poolMean)

/-! ### Resampling and pixel shuffle (R132 to R134) -/

/-- Output width. -/
def rsW (x : Slot) : Nat := bits (cw x 12) 31 20 + 1
/-- Output height. -/
def rsH (x : Slot) : Nat := bits (cw x 12) 19 9 + 1
/-- Output channels. -/
def rsC (x : Slot) : Nat := bits (cw x 13) 31 20 + 1
/-- Mode. -/
def rsMode (x : Slot) : Nat := bits (cw x 13) 19 18
/-- Factor r. -/
def rsR (x : Slot) : Nat := bits (cw x 13) 17 16 + 1
/-- Input width. -/
def rsWIn (x : Slot) : Nat := bits (cw x 14) 31 20 + 1
/-- Input height. -/
def rsHIn (x : Slot) : Nat := bits (cw x 14) 19 9 + 1
/-- Input channels (R133, R134). -/
def rsCIn (x : Slot) : Nat :=
  match rsMode x with
  | 2 => rsC x * rsR x * rsR x
  | 3 => rsC x / (rsR x * rsR x)
  | _ => rsC x

/-- The extents or channels break R134. -/
def shuffleBad (x : Slot) : Bool :=
  let r := rsR x
  match rsMode x with
  | 2 => r == 1 || rsW x != r * rsWIn x || rsH x != r * rsHIn x || ((opA x).valid && (opC x).valid && (opA x).ty != (opC x).ty)
  | 3 => r == 1 || rsWIn x != r * rsW x || rsHIn x != r * rsH x || rsC x % (r * r) != 0 || ((opA x).valid && (opC x).valid && (opA x).ty != (opC x).ty)
  | _ => false

/-- The plan of opcode 0x11. -/
def planResample (eng : Nat) (x : Slot) : Plan :=
  let a := opA x
  let c := opC x
  { Plan.none with
    reasons := why (typesBad [a, opB x, c, opX x]) 1 ++ why (shuffleBad x || otherBad x || (opB x).valid || (opX x).valid) 0x0C ++
      why (!(a.valid && c.valid)) 4,
    uses := [a.use eng (rsHIn x) (rsWIn x * rsCIn x) false, c.use eng (rsH x) (rsW x * rsC x) true] }

/-- The source position of an output column: integer part and 16-bit fraction (R133). -/
def sourcePos (align : Bool) (n nIn x : Nat) : Int × Nat :=
  let p : Int :=
    if align then (if n = 1 then 0 else ((x * (nIn - 1) * 65536 / (n - 1) : Nat) : Int))
    else ((((2 * x + 1) * nIn : Nat) : Int) - n) * 32768 / n
  (p / 65536, (p % 65536).toNat)

/-- The Catmull-Rom weight at a distance (R133). -/
def catmullRom (t : Rat) : Rat :=
  let a := if t < 0 then -t else t
  if a ≤ 1 then mkRat 3 2 * a * a * a - mkRat 5 2 * a * a + 1
  else if a < 2 then mkRat (-1) 2 * a * a * a + mkRat 5 2 * a * a - 4 * a + 2
  else 0

/-- Taps of an axis with their exact weights: bilinear by the fraction, bicubic by the phase (R133). -/
def axisTaps (cubic : Bool) (i : Int) (f : Nat) : List (Int × Rat) :=
  if cubic then
    let t := mkRat ((f / 256 : Nat) : Int) 256
    [(i - 1, catmullRom (t + 1)), (i, catmullRom t), (i + 1, catmullRom (t - 1)), (i + 2, catmullRom (t - 2))]
  else [(i, mkRat ((65536 - f : Nat) : Int) 65536), (i + 1, mkRat (f : Int) 65536)]

/-- An index clamped to an axis. -/
def clampIndex (n : Nat) (i : Int) : Nat := if i < 0 then 0 else min i.toNat (n - 1)

/-- The taps of an output position of one axis, clamped. -/
def resampleTaps (cubic align : Bool) (n nIn x : Nat) : List (Nat × Rat) :=
  let p := sourcePos align n nIn x
  (axisTaps cubic p.1 p.2).map fun t => (clampIndex nIn t.1, t.2)

/-- A weight as FP32. -/
def fp32Weight (w : Rat) : Num := (roundFP32 (numOfRat w false)).1

/-- One output value of modes 0 and 1: the taps, vertical index slowest, each one fused step (R133). -/
def resampleValue (rd : Nat → Byte) (y : Slot) (cubic : Bool) (r c : Nat) : Num × Flags :=
  let align := bit (cw y 13) 15
  let ch := c % rsC y
  let hs := resampleTaps cubic align (rsW y) (rsWIn y) (c / rsC y)
  (resampleTaps cubic align (rsH y) (rsHIn y) r).foldl (fun acc v =>
    hs.foldl (fun acc h =>
      let e := elemAt rd (opA y) (otherKind y) (rsHIn y) (rsWIn y * rsCIn y) v.1 (h.1 * rsC y + ch)
      let w := mulNum (fp32Weight v.2) (fp32Weight h.2)
      let m := mulNum w.1 e.1
      let t := fusedPass acc.1 [m.1]
      (t.1, orFlags (orFlags acc.2 e.2) (orFlags m.2 t.2))) acc) (numZero, noFlags)

/-- A resampling of one mode. -/
def execResample (mode eng q sl : Nat) (s : State) : State :=
  let y := getSlot s eng q sl
  if eng < 32 ∧ runs s eng q sl 1 0x11 = true ∧ rsMode y = mode then
    let o := vecRows s y eng (rsH y) (rsW y * rsC y) (otherKind y) (bit (cw y 13) 14) (bit (cw y 13) 13) (resampleValue (rdTile s y eng) y (mode == 1))
    deliver eng q sl o.1 o.2 s
  else s

/-- BILINEAR_RESAMPLING. -/
def execBilinearResampling (eng q sl : Nat) (s : State) : Out := whenLive s (execResample 0 eng q sl)

/-- BICUBIC_RESAMPLING. -/
def execBicubicResampling (eng q sl : Nat) (s : State) : Out := whenLive s (execResample 1 eng q sl)

/-- The input position and channel of an output element (R134). -/
def shuffleFrom (y : Slot) (x r c : Nat) : Nat × Nat × Nat :=
  let f := rsR y
  if rsMode y = 2 then (x / f, r / f, c * f * f + (r % f) * f + x % f)
  else (x * f + (c % (f * f)) % f, r * f + (c % (f * f)) / f, c / (f * f))

/-- A shuffle copies bits. -/
def execShuffle (mode eng q sl : Nat) (s : State) : State :=
  let y := getSlot s eng q sl
  if eng < 32 ∧ runs s eng q sl 1 0x11 = true ∧ rsMode y = mode then
    let rd := rdTile s y eng
    let rs := (List.range (rsH y)).map fun r =>
      ((List.range (rsW y * rsC y)).map fun c =>
        let p := shuffleFrom y (c / rsC y) r (c % rsC y)
        readElem rd (opA y).code ((opA y).addr + p.2.1 * (opA y).stride) (p.1 * rsCIn y + p.2.2), ([] : List Nat), noFlags)
    deliver eng q sl (rowPieces (destTile eng (opC y)) (opC y) rs (rsW y * rsC y)) noFlags s
  else s

/-- PIXEL_SHUFFLE. -/
def execPixelShuffle (eng q sl : Nat) (s : State) : Out := whenLive s (execShuffle 2 eng q sl)

/-- PIXEL_UNSHUFFLE. -/
def execPixelUnshuffle (eng q sl : Nat) (s : State) : Out := whenLive s (execShuffle 3 eng q sl)

/-! ### Argmax (R135) -/

/-- The plan of opcode 0x12. -/
def planArgmax (eng : Nat) (x : Slot) : Plan :=
  let a := opA x
  let c := opC x
  let k := opX x
  { Plan.none with
    reasons := why (typesBad [a, opB x, c, k]) 1 ++
      why (otherBad x || (opB x).valid || (k.valid && a.valid && k.ty != a.ty) || (c.valid && !(c.ty == 2 || (c.ty == 1 && decide (rsC x ≤ 128))))) 0x0C ++
      why (!(a.valid && c.valid)) 4,
    uses := [a.use eng (rsH x) (rsW x * rsC x) false, c.use eng (rsH x) (rsW x) true] ++ (if k.valid then [{ k.use eng (rsH x) (rsW x) true with tile := eng, ok := (k.use eng (rsH x) (rsW x) false).ok }] else []) }

/-- A value ranks strictly above another: NaN above every number. -/
def ranksAbove (a b : Num) : Bool := if b == .nan then false else if a == .nan then true else b.lt a

/-- The channel of the largest value; equal values go to the lowest channel. -/
def argmaxOf (vs : List Num) : Nat :=
  ((List.range vs.length).foldl (fun (b : Nat × Num) i =>
    let v := vs.getD i numZero
    if i = 0 ∨ ranksAbove v b.2 = true then (i, v) else b) (0, numZero)).1

/-- PER_PIXEL_ARGMAX. -/
def execPerPixelArgmax (eng q sl : Nat) (s : State) : Out := whenLive s fun s =>
  let y := getSlot s eng q sl
  if eng < 32 ∧ runs s eng q sl 1 0x12 = true then
    let rd := rdTile s y eng
    let w := rsW y
    let h := rsH y
    let ch := rsC y
    let win (r x : Nat) : Nat := argmaxOf ((List.range ch).map fun c => (elemAt rd (opA y) true h (w * ch) r (x * ch + c)).1)
    let ws := (List.range h).map fun r => (List.range w).map fun x => win r x
    let is_ := rowPieces (destTile eng (opC y)) (opC y) (ws.map fun l => (l, [], noFlags)) w
    let vs := (List.range h).map fun r => (List.zipWith (fun x i => readElem rd (opA y).code ((opA y).addr + r * (opA y).stride) (x * ch + i)) (List.range w) (ws.getD r []), ([] : List Nat), noFlags)
    deliver eng q sl (is_ ++ (if (opX y).valid then rowPieces eng (opX y) vs w else [])) noFlags s
  else s

/-! ### Zero runs (R136 to R138) -/

/-- Segments of a command. -/
def zrSegments (x : Slot) : Nat := bits (cw x 12) 31 12 + 1
/-- Bytes of an element. -/
def zrWidth (x : Slot) : Nat := if bit (cw x 12) 11 then 2 else 1

/-- Elements of a segment of bytes. -/
def zrElems (w : Nat) (bs : List Byte) : List (List Byte) := chunks w 256 bs

/-- An element is zero. -/
def zrZero (e : List Byte) : Bool := e.all fun b => b == 0

/-- The canonical encoding of elements (R136). -/
def zrEncode : Nat → List (List Byte) → List Byte
  | 0, _ => []
  | _, [] => []
  | n + 1, e :: es =>
    let z := zrZero e
    let run := ((e :: es).takeWhile fun x => zrZero x == z).take 128
    BitVec.ofNat 8 ((if z then 128 else 0) + (run.length - 1)) :: ((if z then [] else run.flatten) ++ zrEncode n ((e :: es).drop run.length))

/-- Length code and stored bytes of a segment (R137). -/
def zrSegment (w : Nat) (bs : List Byte) : Nat × List Byte :=
  let es := zrElems w bs
  if es.all zrZero then (0, [])
  else
    let e := zrEncode 256 es
    if 224 < e.length then (8, bs)
    else
      let k := ceilDiv e.length 32
      (k, e ++ List.replicate (32 * k - e.length) 0)

/-- Decoding of runs into `left` elements of width w; none when an encoding does not cover its segment exactly or runs past its granules. -/
def zrDecode : Nat → Nat → Nat → List Byte → Option (List Byte)
  | 0, _, _, _ => none
  | _, _, 0, _ => some []
  | _, _, _, [] => none
  | f + 1, w, left, b :: bs =>
    let n := b.toNat % 128 + 1
    if left < n then none
    else if 128 ≤ b.toNat then (zrDecode f w (left - n) bs).map fun r => List.replicate (n * w) 0 ++ r
    else if bs.length < n * w then none
    else (zrDecode f w (left - n) (bs.drop (n * w))).map fun r => bs.take (n * w) ++ r

/-- The 256 bytes of a segment from its code and slot, and whether it was valid. -/
def zrExpand (w code : Nat) (slot : List Byte) : List Byte × Bool :=
  if code = 0 then (List.replicate 256 0, true)
  else if code = 8 then (slot.take 256, true)
  else if 8 < code then (List.replicate 256 0, false)
  else match zrDecode 257 w (256 / w) (slot.take (32 * code)) with
    | some bs => (bs, true)
    | none => (List.replicate 256 0, false)

/-- The plan of opcodes 0x20 and 0x21. -/
def planZeroRun (eng : Nat) (x : Slot) (compress : Bool) : Plan :=
  let a := opA x
  let c := opC x
  let k := opX x
  let n := zrSegments x
  { Plan.none with
    reasons := why (typesBad [a, opB x, c, k]) 1 ++ why ([a, opB x, c, k].any fun o => o.valid && o.ty != 1) 0x0C ++ why (!(a.valid && c.valid && k.valid)) 4,
    uses := [a.usePacked eng (256 * n) false false, c.usePacked eng (256 * n) true true, { k.usePacked eng (ceilDiv n 2) compress false with write := compress }] }

/-- ZERO_RUN_COMPRESSION: the unused half of an odd table's last byte is a free value. -/
def execZeroRunCompression (eng q sl : Nat) (s : State) : Out := whenLive s fun s =>
  let y := getSlot s eng q sl
  if eng < 32 ∧ runs s eng q sl 1 0x20 = true then
    let rd := rdTile s y eng
    let n := zrSegments y
    let segs := (List.range n).map fun i => zrSegment (zrWidth y) (readBytes rd ((opA y).addr + 256 * i) 256)
    let ps := (List.range n).map fun i => ({ tile := some (destTile eng (opC y)), addr := (opC y).addr + 256 * i, bytes := (segs.getD i (0, [])).2 } : Piece)
    let codes := segs.map (·.1) ++ (if n % 2 = 1 then [freeNat s 4] else [])
    let s := if n % 2 = 1 then useFree s else s
    deliver eng q sl (ps ++ [{ tile := some eng, addr := (opX y).addr, bytes := packNibbles codes }]) noFlags s
  else s

/-- ZERO_RUN_EXPANSION. -/
def execZeroRunExpansion (eng q sl : Nat) (s : State) : Out := whenLive s fun s =>
  let y := getSlot s eng q sl
  if eng < 32 ∧ runs s eng q sl 1 0x21 = true then
    let rd := rdTile s y eng
    let segs := (List.range (zrSegments y)).map fun i => zrExpand (zrWidth y) (readElem rd 0 (opX y).addr i) (readBytes rd ((opA y).addr + 256 * i) 256)
    let ps := (List.range (zrSegments y)).map fun i => ({ tile := some (destTile eng (opC y)), addr := (opC y).addr + 256 * i, bytes := (segs.getD i ([], true)).1 } : Piece)
    deliver eng q sl ps (if segs.all (·.2) then noFlags else flagInvalid) s
  else s

end Sys2Proof.Machine
end

