-- ==== Sys2Proof/Machine/Transform.lean ====
section
/-!
DEFINITION. The transform unit (R111 to R117) and the transfers of the network interface (R109, R110, R171 to R176).
-/

namespace Sys2Proof.Machine

/-! ### Geometry of a transform (R112, R113) -/

/-- log₂ of the block's columns, for an opcode. -/
def trLx (x : Slot) : Nat := if cOpcode x = 3 then 0 else bits (cw x 12) 31 28
/-- log₂ of the block's lines. -/
def trLy (x : Slot) : Nat := if cOpcode x = 2 then 0 else bits (cw x 12) 31 28
/-- Columns of a block. -/
def trNx (x : Slot) : Nat := 2 ^ trLx x
/-- Lines of a block. -/
def trNy (x : Slot) : Nat := 2 ^ trLy x
/-- Kernel height. -/
def trKh (x : Slot) : Nat := bits (cw x 12) 27 22 + 1
/-- Kernel width. -/
def trKw (x : Slot) : Nat := bits (cw x 12) 21 16 + 1
/-- Blocks across (columns for opcode 0x03). -/
def trBx (x : Slot) : Nat := bits (cw x 12) 15 8 + 1
/-- Blocks down (lines for opcode 0x02). -/
def trBy (x : Slot) : Nat := bits (cw x 12) 7 0 + 1
/-- Output channels. -/
def trCOut (x : Slot) : Nat := bits (cw x 13) 31 24 + 1
/-- Input channels. -/
def trCIn (x : Slot) : Nat := bits (cw x 13) 23 16 + 1
/-- Valid columns of a block. -/
def trVx (x : Slot) : Nat := trNx x + 1 - trKw x
/-- Valid lines of a block. -/
def trVy (x : Slot) : Nat := trNy x + 1 - trKh x
/-- Valid columns of the last block column. -/
def trLastW (x : Slot) : Nat := bits (cw x 14) 31 20 + 1
/-- Valid lines of the last block row. -/
def trLastH (x : Slot) : Nat := bits (cw x 15) 11 0 + 1
/-- Frequencies of a spectrum (R114). -/
def trBins (x : Slot) : Nat := if cOpcode x = 1 then trNx x * (trNx x / 2 + 1) else trNx x * trNy x / 2 + 1
/-- Output width. -/
def trWOut (x : Slot) : Nat := if cOpcode x = 3 then trBx x else (trBx x - 1) * trVx x + trLastW x
/-- Output height. -/
def trHOut (x : Slot) : Nat := if cOpcode x = 2 then trBy x else (trBy x - 1) * trVy x + trLastH x

/-- The geometry of R100 with strides and dilations of 1. -/
def trGeom (x : Slot) : Geom :=
  let c := cw x 14
  let d := cw x 15
  { wOut := trWOut x, hOut := trHOut x, cOut := trCOut x, cIn := trCIn x, kh := trKh x, kw := trKw x, sy := 1, sx := 1, dy := 1, dx := 1,
    pt := bits c 19 15, pb := bits c 14 10, pl := bits c 9 5, pr := bits c 4 0, padValue := bits d 31 16, padMode := bits d 15 14, groups := 1 }

/-- The fields that R121 refuses with 0x0B. R121 names no code for a transform's pad_mode 3, mirror pads beyond R103, an input extent below 1, or an operand A of code 0x8; the model takes 0x0B for each, as for the other limits of the transform (DEDUCED, log entry 85). -/
def transformBad (x : Slot) : Bool :=
  let l := bits (cw x 12) 31 28
  let op := cOpcode x
  (if op = 1 then !(decide (4 ≤ l) && decide (l ≤ 6)) || decide (33 < trKh x) || decide (33 < trKw x)
   else !(decide (6 ≤ l) && decide (l ≤ 12)) || (if op = 2 then trKh x != 1 || decide (63 < trKw x) else trKw x != 1 || decide (63 < trKh x))) ||
  decide (trNx x < trKw x) || decide (trNy x < trKh x) ||
  (if op = 3 then trLastW x != 1 else decide (trVx x < trLastW x)) || (if op = 2 then trLastH x != 1 else decide (trVy x < trLastH x)) ||
  decide (2097152 < trCIn x * trBins x * 8) || (trGeom x).bad ||
  ((opA x).valid && ((opA x).mx || (opA x).code == 8)) || ((opC x).valid && (opC x).mx) || ((opB x).valid && (opB x).ty != 7)

/-- The plan of a transform command. -/
def planTransform (eng : Nat) (x : Slot) : Plan :=
  let a := opA x
  let b := opB x
  let c := opC x
  let g := trGeom x
  { Plan.none with
    reasons := why (typesBad [a, b, c, opX x]) 1 ++ why (transformBad x) 0x0B ++ why (!(a.valid && b.valid && c.valid)) 4,
    uses := [a.use eng g.hIn.toNat (g.wIn.toNat * g.cIn) false, b.use eng (trCOut x * trCIn x) (2 * trBins x) false,
      c.use eng g.hOut (g.wOut * g.cOut) true] ++ (if convUsed x then [(opX x).usePacked eng (8 * trCOut x) false false] else []) }

/-! ### The convolution (R113 to R115) -/

/-- The input value at grid position (u, v): padding inside the pads, zero beyond them (R113). -/
def trInput (rd : Nat → Byte) (x : Slot) (g : Geom) (u v : Int) (c : Nat) : Num × Flags :=
  if -(g.pl : Int) ≤ u ∧ u < g.wIn + g.pr ∧ -(g.pt : Int) ≤ v ∧ v < g.hIn + g.pb then imageAt rd (opA x) false g u v c else (numZero, noFlags)

/-- The values of block (a, b) of a channel, line by line. -/
def trBlock (rd : Nat → Byte) (x : Slot) (a b c : Nat) : List Num :=
  let g := trGeom x
  (List.range (trNx x * trNy x)).map fun i =>
    (trInput rd x g (((a * trVx x + i % trNx x : Nat) : Int) - g.pl) (((b * trVy x + i / trNx x : Nat) : Int) - g.pt) c).1

/-- A number is finite. -/
def Num.finite : Num → Bool
  | .fin _ _ => true
  | _ => false

/-- One step of the pointwise stage: an exact complex product added with one rounding per part (R115). -/
def pointwise (acc x b : Num × Num) : (Num × Num) × Flags :=
  let rr := mulNum x.1 b.1
  let ii := mulNum x.2 b.2
  let ri := mulNum x.1 b.2
  let ir := mulNum x.2 b.1
  let re := fusedPass acc.1 [rr.1, ii.1.neg]
  let im := fusedPass acc.2 [ri.1, ir.1]
  ((re.1, im.1), allFlags [rr.2, ii.2, ri.2, ir.2, re.2, im.2])

/-! ### Twiddle factors (R115) -/

/-- π in units of 2^-192, rounded down. -/
def piFix : Nat := 19720096697726538562396133364228268891463450865190089732560

/-- The terms of order m, m + 2, … of the series of sine or cosine, from the term `t`; `x2` is the square of the angle in units of 2^-384. -/
def trigSeries (x2 : Nat) : Nat → Nat → Int → Int
  | 0, _, _ => 0
  | n + 1, m, t => t + trigSeries x2 n (m + 2) (-(t * (x2 : Int)) / ((2 ^ 384 * ((m + 1) * (m + 2)) : Nat) : Int))

/-- Cosine and sine of 2πk/2^l, for an angle up to π/4, in units of 2^-192. -/
def trigFix (l k : Nat) : Int × Int :=
  let x := 2 * piFix * k / 2 ^ l
  (trigSeries (x * x) 40 0 ((2 ^ 192 : Nat) : Int), trigSeries (x * x) 40 1 (x : Int))

/-- The FP32 value nearest to a number in units of 2^-192. -/
def nearFP32 (v : Int) : Num := (roundFP32 (numOfRat (mkRat v (2 ^ 192)) false)).1

/-- The ROM's values nearest to cos (2πk/2^l) and sin (2πk/2^l), by the octant of the angle (R115). -/
def trigRom (l k : Nat) : Num × Num :=
  let n := 2 ^ l
  let k := k % n
  let o := 8 * k / n
  let r := trigFix l (if o % 2 = 0 then k - o * n / 8 else (o + 1) * n / 8 - k)
  let c := nearFP32 r.1
  let s := nearFP32 r.2
  match o with
  | 0 => (c, s)
  | 1 => (s, c)
  | 2 => (s.neg, c)
  | 3 => (c.neg, s)
  | 4 => (c.neg, s.neg)
  | 5 => (s.neg, c.neg)
  | 6 => (s, c.neg)
  | _ => (c, s.neg)

/-! ### Butterflies (R115) -/

/-- A complex FP32 value. -/
abbrev Cplx := Num × Num

/-- A twiddle part times a value; a part that is zero contributes no term. -/
def weighPart (w a : Num) : List (Num × Flags) := if w.isZero then [] else [mulNum w a]

/-- The exact terms of the real and the imaginary part of a value times the root to the power `e`: exp (−2πi/2^l), its conjugate in the inverse transform. -/
def weigh (inverse : Bool) (l : Nat) (z : Cplx) (e : Nat) : List (Num × Flags) × List (Num × Flags) :=
  let t := trigRom l e
  let s := if inverse then t.2 else t.2.neg
  (weighPart t.1 z.1 ++ weighPart s.neg z.2, weighPart t.1 z.2 ++ weighPart s z.1)

/-- Exact terms added and rounded once to FP32. -/
def sumOnce (ts : List (Num × Flags)) : Num × Flags :=
  let a := sumNum (ts.map (·.1))
  let r := roundFP32 a.1
  (r.1, allFlags (a.2 :: r.2 :: ts.map (·.2)))

/-- One result of a butterfly: its parts are rounded once each (R115). -/
def butterflyOut (inverse : Bool) (l : Nat) (zs : List Cplx) (es : List Nat) : Cplx × Flags :=
  let ts := List.zipWith (weigh inverse l) zs es
  let re := sumOnce (ts.flatMap (·.1))
  let im := sumOnce (ts.flatMap (·.2))
  ((re.1, im.1), orFlags re.2 im.2)

/-- Values written at positions. -/
def setAll {α : Type} : List α → List (Nat × α) → List α
  | v, [] => v
  | v, (p, x) :: ps => setAll (v.set p x) ps

/-- One butterfly on the working buffer. -/
def runButterfly (inverse : Bool) (l : Nat) (v : List Cplx × Flags) (b : Butterfly) : List Cplx × Flags :=
  let zs := b.at_.map fun p => v.1.getD p (numZero, numZero)
  let os := b.exps.map (butterflyOut inverse l zs)
  (setAll v.1 (b.at_.zip (os.map (·.1))), orFlags v.2 (allFlags (os.map (·.2))))

/-- What a butterfly makes of formal sums: at each position a list of inputs, each with the exponent that weighs it. -/
def traceButterfly (l : Nat) (v : List (List (Nat × Nat))) (b : Butterfly) : List (List (Nat × Nat)) :=
  let zs := b.at_.map fun p => v.getD p []
  setAll v (b.at_.zip (b.exps.map fun es => (List.zipWith (fun z e => z.map fun t => (t.1, (t.2 + e) % 2 ^ l)) zs es).flatten))

/-- The exponent with which input `n` enters result `f` of the transform of a block of 2^lx by 2^ly. -/
def fourierExp (lx ly f n : Nat) : Nat :=
  let l := max lx ly
  (f % 2 ^ lx * (n % 2 ^ lx) * 2 ^ (l - lx) + f / 2 ^ lx * (n / 2 ^ lx) * 2 ^ (l - ly)) % 2 ^ l

/-- Butterflies compute the Fourier transform of the block: every result is the sum of all inputs, each weighed once by its root. -/
def netOk (lx ly : Nat) (net : List Butterfly × List Nat) : Bool :=
  let n := 2 ^ (lx + ly)
  let v := net.1.foldl (traceButterfly (max lx ly)) ((List.range n).map fun i => [(i, 0)])
  net.2.length == n && (List.range n).all fun f =>
    let ts := v.getD (net.2.getD f 0) []
    ts.length == n && (List.range n).all fun i => ts.contains (i, fourierExp lx ly f i)

/-- The low `n` bits of a number in reverse order. -/
def bitrev : Nat → Nat → Nat
  | 0, _ => 0
  | n + 1, v => v % 2 * 2 ^ n + bitrev n (v / 2)

/-- Radix-2 butterflies along one axis of 2^a positions, `step` apart from `base` on, roots of order 2^l. -/
def axisNet (l a step base : Nat) : List Butterfly :=
  (List.range a).flatMap fun j =>
    let h := 2 ^ (a - 1 - j)
    (List.range (2 ^ j)).flatMap fun b => (List.range h).map fun k =>
      let e := k * 2 ^ (l - 1) / h
      { at_ := [base + (b * 2 * h + k) * step, base + (b * 2 * h + k + h) * step], exps := [[0, 0], [e, e + 2 ^ (l - 1)]] }

/-- One order that computes the transform: lines first, then columns. -/
def plainNet (lx ly : Nat) : List Butterfly × List Nat :=
  let l := max lx ly
  ((List.range (2 ^ ly)).flatMap (fun y => axisNet l lx 1 (y * 2 ^ lx)) ++ (List.range (2 ^ lx)).flatMap (fun x => axisNet l ly (2 ^ lx) x),
   (List.range (2 ^ (lx + ly))).map fun f => bitrev lx (f % 2 ^ lx) + bitrev ly (f / 2 ^ lx) * 2 ^ lx)

/-- The order of the unit's butterflies: the free one, where it computes the transform (log entry 11). -/
def trNet (inverse : Bool) (lx ly : Nat) : List Butterfly × List Nat :=
  if netOk lx ly (Config.butterflies inverse lx ly) then Config.butterflies inverse lx ly else plainNet lx ly

/-- A transform of a block, forward or inverse, before the inverse's last multiplication (R115). -/
def fourier (inverse : Bool) (lx ly : Nat) (v : List Cplx) : List Cplx × Flags :=
  let net := trNet inverse lx ly
  let r := net.1.foldl (runButterfly inverse (max lx ly)) (v, noFlags)
  (net.2.map fun p => r.1.getD p (numZero, numZero), r.2)

/-- The frequency at place `i` of a row of operand B, laid out line by line (R114). -/
def binFreq (x : Slot) (i : Nat) : Nat :=
  let w := trNx x / 2 + 1
  if cOpcode x = 1 then i / w * trNx x + i % w else i

/-- The full spectrum of a real block from its stored half: the conjugates of the other half. -/
def fullSpectrum (x : Slot) (bins : List Cplx) : List Cplx :=
  let nx := trNx x
  let ny := trNy x
  (List.range (nx * ny)).map fun f =>
    let fx := f % nx
    let fy := f / nx
    let at_ (gx gy : Nat) : Cplx := bins.getD (if cOpcode x = 1 then gy * (nx / 2 + 1) + gx else gx + gy) (numZero, numZero)
    let conj (z : Cplx) : Cplx := (z.1, z.2.neg)
    if cOpcode x = 3 then (if fy ≤ ny / 2 then at_ 0 fy else conj (at_ 0 (ny - fy)))
    else if fx ≤ nx / 2 then at_ fx fy else conj (at_ (nx - fx) ((ny - fy) % ny))

/-- The accumulators of one block: per output channel its positions, and the flags. The accumulator of the pointwise stage starts at +0, which R115 does not say (DEDUCED, log entry 86); a transform's output is the real part of its inverse. -/
def trOutputs (rd : Nat → Byte) (x : Slot) (a b : Nat) : List (List Num) × Flags :=
  let lx := trLx x
  let ly := trLy x
  let blocks := (List.range (trCIn x)).map fun c => trBlock rd x a b c
  let n := trNx x * trNy x
  if blocks.all fun bl => bl.all Num.finite then
    let fwd := blocks.map fun bl => fourier false lx ly (bl.map fun v => (v, numZero))
    let outs := (List.range (trCOut x)).map fun o =>
      let bins := (List.range (trBins x)).map fun i =>
        (List.range (trCIn x)).foldl (fun (acc : Cplx × Flags) c =>
          let z := (fwd.getD c ([], noFlags)).1.getD (binFreq x i) (numZero, numZero)
          let row := (opB x).addr + (o * trCIn x + c) * (opB x).stride
          let w := (numFP32 (readElem rd 7 row (2 * i)), numFP32 (readElem rd 7 row (2 * i + 1)))
          let p := pointwise acc.1 z w
          (p.1, orFlags acc.2 p.2)) ((numZero, numZero), noFlags)
      let inv := fourier true lx ly (fullSpectrum x (bins.map (·.1)))
      let vs := inv.1.map fun z => (roundFP32 (mulNum z.1 (.fin false (pow2 (-((lx + ly : Nat) : Int))))).1).1
      (vs, orFlags (allFlags (bins.map (·.2))) inv.2)
    (outs.map (·.1), orFlags (allFlags (fwd.map (·.2))) (allFlags (outs.map (·.2))))
  else ((List.range (trCOut x)).map fun _ => List.replicate n .nan, flagInvalid)

/-- A transform command of one opcode: the first Vx by Vy positions of every block are its outputs. -/
def execTransform (opcode eng q sl : Nat) (s : State) : State :=
  let y := getSlot s eng q sl
  if eng < 32 ∧ runs s eng q sl 2 opcode = true then
    let rd := rdTile s y eng
    let nbx := if opcode = 3 then trWOut y else trBx y
    let nby := if opcode = 2 then trHOut y else trBy y
    let blocks := (List.range (nbx * nby)).map fun i => trOutputs rd y (i % nbx) (i / nbx)
    let acc (r c : Nat) : Num × Flags :=
      let px := c / trCOut y
      let i := r / trVy y * nbx + px / trVx y
      let bl := match blocks[i]? with
        | some b => b
        | none => trOutputs rd y (i % nbx) (i / nbx)
      ((bl.1.getD (c % trCOut y) []).getD (r % trVy y * trNx y + px % trVx y) .nan, noFlags)
    let o := writeRows s y false eng (trHOut y) (trWOut y * trCOut y) (bit (cw y 15) 13) (bit (cw y 15) 12) acc (· % trCOut y)
    deliver eng q sl o.1 (orFlags o.2 (allFlags (blocks.map (·.2)))) s
  else s

/-- CONVOLUTION_2D_TRANSFORM. -/
def execConvolution2dTransform (eng q sl : Nat) (s : State) : Out := whenLive s (execTransform 1 eng q sl)

/-- CONVOLUTION_ALONG_LINES. -/
def execConvolutionAlongLines (eng q sl : Nat) (s : State) : Out := whenLive s (execTransform 2 eng q sl)

/-- CONVOLUTION_ALONG_COLUMNS. -/
def execConvolutionAlongColumns (eng q sl : Nat) (s : State) : Out := whenLive s (execTransform 3 eng q sl)

/-! ### Transfers (R109, R110, R171 to R176) -/

/-- Rows. -/
def xfRows (x : Slot) : Nat := bits (cw x 12) 31 20 + 1
/-- Bytes of a row. -/
def xfBytes (x : Slot) : Nat := (bits (cw x 12) 19 6 + 1) * 32
/-- Offset in the region. -/
def xfOffset (x : Slot) : Nat := cw x 13 * 32 + bits (cw x 14) 31 30 * 2 ^ 37
/-- Bytes from one Cistern row to the next. -/
def xfStride (x : Slot) : Nat := bits (cw x 14) 29 10 * 32
/-- Tiles of a multicast. -/
def xfTiles (x : Slot) : List Nat := bitsSet (cw x 13) 32

/-- A footprint of transfer rows. -/
def xfUse (o : TOp) (x : Slot) (tile : Nat) (write remoteOk : Bool) : Use :=
  { tile := tile, addr := o.addr, bytes := xfRows x * o.stride, write := write,
    ok := decide (o.addr % 32 = 0) && decide (xfBytes x ≤ o.stride) && (remoteOk || !o.remote) }

/-- The plan of a transfer. -/
def planTransfer (eng : Nat) (x : Slot) : Plan :=
  let a := opA x
  let c := opC x
  let op := cOpcode x
  let reason := if op = 1 then 0x0A else 0x0E
  let types := [a, opB x, c, opX x].any fun o => o.valid && o.ty != 1
  let extra := (opB x).valid || (opX x).valid || (op == 2 && a.valid) || (op == 3 && c.valid)
  let missing := (op != 2 && !a.valid) || (op != 3 && !c.valid)
  { Plan.none with
    reasons := why (typesBad [a, opB x, c, opX x]) 1 ++ why (types || extra) reason ++ why missing (if op = 1 then 4 else 0x0E) ++
      why ((op == 2 || op == 3) && decide (xfStride x < xfBytes x)) 0x0E ++ why (op == 4 && cw x 13 == 0) 0x0E,
    uses := (if op = 2 then [] else [xfUse a x eng false false]) ++
      (if op = 3 then [] else if op = 4 then (xfTiles x).map fun t => xfUse c x t true true else [xfUse c x (destTile eng c) true true]),
    cuses := if op = 2 ∨ op = 3 then [{ off := xfOffset x, bytes := (xfRows x - 1) * xfStride x + xfBytes x, write := op == 3 }] else [],
    spanReason := 0x0E }

/-- The rows of a tile source. -/
def xfSource (s : State) (eng : Nat) (y : Slot) (i : Nat) : List Byte :=
  readBytes (rdTile s y eng) ((opA y).addr + i * (opA y).stride) (xfBytes y)

/-- The pieces of rows written to a tile. -/
def xfPieces (y : Slot) (tile : Nat) (row : Nat → List Byte) : List Piece :=
  (List.range (xfRows y)).map fun i => { tile := some tile, addr := (opC y).addr + i * (opC y).stride, bytes := row i }

/-- REGION_COPY (R109, R110). -/
def execRegionCopy (eng q sl : Nat) (s : State) : Out := whenLive s fun s =>
  if eng < 32 ∧ runs s eng q sl 3 1 = true then
    let y := getSlot s eng q sl
    deliver eng q sl (xfPieces y (destTile eng (opC y)) (xfSource s eng y)) noFlags s
  else s

/-- CISTERN_LOAD (R173). -/
def execCisternLoad (eng q sl : Nat) (s : State) : Out := whenLive s fun s =>
  if eng < 32 ∧ runs s eng q sl 3 2 = true then
    let y := getSlot s eng q sl
    deliver eng q sl (xfPieces y (destTile eng (opC y)) fun i => readBytes (rdCist s y) (xfOffset y + i * xfStride y) (xfBytes y)) noFlags s
  else s

/-- CISTERN_STORE (R173). -/
def execCisternStore (eng q sl : Nat) (s : State) : Out := whenLive s fun s =>
  if eng < 32 ∧ runs s eng q sl 3 3 = true then
    let y := getSlot s eng q sl
    deliver eng q sl ((List.range (xfRows y)).map fun i => { tile := none, addr := xfOffset y + i * xfStride y, bytes := xfSource s eng y i }) noFlags s
  else s

/-- MULTICAST_COPY (R174). -/
def execMulticastCopy (eng q sl : Nat) (s : State) : Out := whenLive s fun s =>
  if eng < 32 ∧ runs s eng q sl 3 4 = true then
    let y := getSlot s eng q sl
    deliver eng q sl ((xfTiles y).flatMap fun t => xfPieces y t (xfSource s eng y)) noFlags s
  else s

end Sys2Proof.Machine
end

