-- ==== Sys2Proof/Machine/Rim.lean ====
section
/-!
DEFINITION. The rim engine (R139 to R151, R623): stem, head, and scale-and-sharpen, in exact integer arithmetic.
-/

namespace Sys2Proof.Machine

/-! ### Operands of rim, gather and motion commands -/

/-- The operand is used. -/
def ROp.valid (o : ROp) : Bool := o.space != 0

/-- A used operand's descriptor keeps R141: a known space, a stride, and in tile SRAM an address of whole 32-byte units without high bits. -/
def ROp.fieldsOk (o : ROp) : Bool := !(o.space == 3) && (!(o.valid) || (o.stride != 0 && !(o.space == 1 && (o.high != 0 || o.addr % 32 != 0))))

/-- The tile-SRAM use of `rows` lines of `len` bytes. -/
def ROp.use (o : ROp) (rows len : Nat) (write : Bool) : List Use :=
  if o.space = 1 then [{ tile := o.tile, addr := o.addr, bytes := rows * o.stride, write := write, ok := decide (o.addr % 32 = 0) && decide (len ≤ o.stride) }] else []

/-- The Cistern use of `rows` lines of `len` bytes. -/
def ROp.cuse (o : ROp) (rows len : Nat) (write : Bool) : List CUse :=
  if o.space = 2 then [{ off := o.offset, bytes := if rows = 0 then 0 else (rows - 1) * o.stride + len, write := write }] else []

/-- The use of `n` contiguous bytes. -/
def ROp.usePacked (o : ROp) (n : Nat) (write : Bool) : List Use :=
  if o.space = 1 then [{ tile := o.tile, addr := o.addr, bytes := n, write := write, ok := decide (o.addr % 32 = 0) }] else []

/-- The Cistern use of `n` contiguous bytes. -/
def ROp.cusePacked (o : ROp) (n : Nat) (write : Bool) : List CUse := if o.space = 2 then [{ off := o.offset, bytes := n, write := write }] else []

/-- Bytes at an offset of an operand. -/
def ROp.piece (o : ROp) (at_ : Nat) (bs : List Byte) : Piece :=
  if o.space = 1 then { tile := some o.tile, addr := o.addr + at_, bytes := bs } else { tile := none, addr := o.offset + at_, bytes := bs }

/-! ### Fields (R143, R148) -/

/-- Output width. -/
def rmW (x : Slot) : Nat := bits (cw x 12) 31 19 + 1
/-- Lines of the band. -/
def rmH (x : Slot) : Nat := bits (cw x 12) 18 6 + 1
/-- First output line. -/
def rmY0 (x : Slot) : Nat := bits (cw x 13) 31 19
/-- Output picture height. -/
def rmPicH (x : Slot) : Nat := bits (cw x 13) 18 6 + 1
/-- Input grid line in line 0 of A. -/
def rmInY0 (x : Slot) : Nat := bits (cw x 14) 31 19
/-- Input channels. -/
def rmCIn (x : Slot) : Nat := bits (cw x 14) 18 13 + 1
/-- Output channels. -/
def rmCOut (x : Slot) : Nat := bits (cw x 14) 12 7 + 1
/-- Half of the kernel's height. -/
def rmKhHalf (x : Slot) : Nat := bits (cw x 14) 6 5
/-- Half of the kernel's width. -/
def rmKwHalf (x : Slot) : Nat := bits (cw x 14) 4 3
/-- Kernel height. -/
def rmKh (x : Slot) : Nat := 2 * rmKhHalf x + 1
/-- Kernel width. -/
def rmKw (x : Slot) : Nat := 2 * rmKwHalf x + 1
/-- Stride or depth-to-space factor. -/
def rmFactor (x : Slot) : Nat := bits (cw x 14) 2 2 + 1
/-- Padding. -/
def rmPad (x : Slot) : Nat := bits (cw x 14) 1 0
/-- Range of a head. -/
def rmRange (x : Slot) : Nat := bits (cw x 15) 31 30
/-- The command is a head. -/
def isHead (x : Slot) : Bool := cOpcode x == 2
/-- The head adds a skip picture; no other opcode has one (R143, R623). -/
def rmSkip (x : Slot) : Bool := isHead x && bit (cw x 15) 29
/-- The skip's filter is bicubic. -/
def rmSkipCubic (x : Slot) : Bool := bit (cw x 15) 28
/-- Skip width. -/
def rmSkipW (x : Slot) : Nat := bits (cw x 15) 27 15 + 1
/-- Skip height. -/
def rmSkipH (x : Slot) : Nat := bits (cw x 15) 14 2 + 1
/-- Input width of a scale. -/
def ssW (x : Slot) : Nat := bits (cw x 14) 31 19 + 1
/-- Input height of a scale. -/
def ssH (x : Slot) : Nat := bits (cw x 14) 18 6 + 1
/-- A scale's filter is bicubic. -/
def ssCubic (x : Slot) : Bool := bit (cw x 14) 5
/-- Gain. -/
def ssGain (x : Slot) : Nat := bits (cw x 15) 31 24
/-- Coring threshold. -/
def ssCoring (x : Slot) : Nat := bits (cw x 15) 23 16
/-- Range of a scale. -/
def ssRange (x : Slot) : Nat := bits (cw x 15) 15 14

/-! ### Grids and lines -/

/-- Width of the input grid of a stem or head. -/
def gridW (x : Slot) : Nat := if isHead x then rmW x else rmW x * rmFactor x
/-- Height of the input grid. -/
def gridH (x : Slot) : Nat := if isHead x then rmPicH x else rmPicH x * rmFactor x
/-- Step of the grid per output pixel. -/
def gridStep (x : Slot) : Nat := if isHead x then 1 else rmFactor x
/-- Channels of a grid pixel. -/
def gridC (x : Slot) : Nat := if isHead x then rmCIn x / (rmFactor x * rmFactor x) else rmCIn x

/-- Grid lines inside the picture that the band's taps reach (R623). -/
def gridLines (x : Slot) : List Nat :=
  ((List.range (rmH x)).flatMap fun j => (List.range (rmKh x)).filterMap fun i =>
    let v := (rmY0 x + j) * gridStep x + i
    if rmKhHalf x ≤ v ∧ v - rmKhHalf x < gridH x then some (v - rmKhHalf x) else none).eraseDups

/-- Lines of operand A that hold them, counted from the picture's first. -/
def inputLines (x : Slot) : List Nat := if isHead x then ((gridLines x).map (· / rmFactor x)).eraseDups else gridLines x

/-- Bytes of a line of operand A. -/
def inputLine (x : Slot) : Nat :=
  if isHead x then rmW x / rmFactor x * rmCIn x * (rA x).fmt else picLine (rA x).fmt (gridW x)

/-- Bytes of a line of output C. -/
def outputLine (x : Slot) : Nat := if cOpcode x = 1 then rmW x * rmCOut x * (rC x).fmt else picLine (rC x).fmt (rmW x)

/-- Number of weights. -/
def rmWeights (x : Slot) : Nat := rmCOut x * rmKh x * rmKw x * gridC x

/-- Bytes of weights and entries (R144). -/
def rmBytesB (x : Slot) : Nat := up32 (2 * rmWeights x) + 16 * rmCOut x

/-- Picture lines that the filter taps of output lines reach, clamped, each once (R133, R623). -/
def tapLines (cubic : Bool) (n nIn first count : Nat) : List Nat :=
  ((List.range count).flatMap fun j => (resampleTaps cubic false n nIn (first + j)).map (·.1)).eraseDups

/-- Skip lines of a head's band; a stem and a scale have none (R623). -/
def skipLines (x : Slot) : List Nat := if rmSkip x then tapLines (rmSkipCubic x) (rmPicH x) (rmSkipH x) (rmY0 x) (rmH x) else []

/-- Lines of A that a scale-and-sharpen band reaches, with the lines next to the band. -/
def scaleLines (x : Slot) : List Nat :=
  let first := rmY0 x - 1
  let last := min (rmY0 x + rmH x) (rmPicH x - 1)
  tapLines (ssCubic x) (rmPicH x) (ssH x) first (last + 1 - first)

/-- T0 of R149. -/
def rimTime (x : Slot) : Nat :=
  let op := cOpcode x
  let f := if op = 3 then (if ssCubic x then 5 else 3) else rmKh x - 1
  let wg := if op = 3 then ssW x else gridW x
  let lines := if op = 3 then (scaleLines x).length * picLine (rA x).fmt (ssW x) else (inputLines x).length * inputLine x
  let bt := if (rA x).space = 1 then lines else 0
  let br := lines + (if op = 3 then 0 else rmBytesB x) + (skipLines x).length * picLine (rX x).fmt (rmSkipW x)
  let bw := rmH x * outputLine x
  let bwt := if (rC x).space = 1 then bw else 0
  96 + f * ceilDiv wg 16 + (max (ceilDiv (rmW x * rmH x) 16) (max (ceilDiv bt 256) (max (ceilDiv br 1024) (max (ceilDiv bw 1024) (ceilDiv bwt 256)))))

/-- The largest of a list. -/
def maxNat (l : List Nat) : Nat := l.foldl max 0

/-- Conversion entry `o` of operand B: bias, multiplier, shift and offset (R145). -/
def rimEntry (rd : Nat → Byte) (x : Slot) (o : Nat) : Int × Int × Nat × Int :=
  let v := readNat rd (up32 (2 * rmWeights x) + 16 * o) 16
  (toSigned 32 (bits v 31 0), toSigned 16 (bits v 47 32), bits v 55 48, toSigned 16 (bits v 79 64))

/-- Each axis scales by 1 to 6. -/
def ratioBad (n nIn : Nat) : Bool := decide (n < nIn) || decide (6 * nIn < n)

/-- Limits shared by all three opcodes. -/
def rimBandBad (x : Slot) : Bool :=
  decide (7680 < rmW x) || decide (4320 < rmPicH x) || decide (rmPicH x < rmY0 x + rmH x) ||
    [rA x, rB x, rC x, rX x].any (fun o => !(o.fieldsOk)) || decide (131072 < rimTime x)

/-- Limits of stem and head. -/
def convBad (s : State) (x : Slot) : Bool :=
  let rdB := rdOpNow s x (rB x)
  let c := isHead x
  rimBandBad x || !((rB x).valid) || (rB x).fmt != 2 || rmPad x == 3 || decide (32768 < rmBytesB x) ||
    (rmPad x == 2 && (decide (gridH x < rmKhHalf x + 1) || decide (gridW x < rmKwHalf x + 1))) ||
    (inputLines x).any (fun v => decide (v < rmInY0 x)) ||
    (List.range (rmCOut x)).any (fun o => decide (47 < (rimEntry rdB x o).2.2.1)) ||
    (if c then
      !((rA x).valid) || !((rA x).fmt == 1 || (rA x).fmt == 2) || (rC x).space != 2 || !(picOk (rC x).fmt (rmW x)) ||
        rmCOut x != picChannels (rC x).fmt || rmCIn x % (rmFactor x * rmFactor x) != 0 || rmW x % rmFactor x != 0 || rmPicH x % rmFactor x != 0 ||
        rmRange x == 3 ||
        (if rmSkip x then (rX x).space != 2 || !(picOk (rX x).fmt (rmSkipW x)) || picChannels (rX x).fmt != rmCOut x ||
            decide (picBits (rC x).fmt < picBits (rX x).fmt) || ratioBad (rmW x) (rmSkipW x) || ratioBad (rmPicH x) (rmSkipH x)
          else (rX x).valid)
    else
      (rA x).space != 2 || !(picOk (rA x).fmt (gridW x)) || decide (4 < rmCIn x) || decide (picChannels (rA x).fmt < rmCIn x) ||
        !((rC x).valid) || !((rC x).fmt == 1 || (rC x).fmt == 2) || rmRange x != 0 || (rX x).valid)

/-- Limits of scale-and-sharpen. -/
def scaleBad (x : Slot) : Bool :=
  rimBandBad x || (rA x).space != 2 || (rC x).space != 2 || (rB x).valid || (rX x).valid || !(picOk (rA x).fmt (ssW x)) || !(picOk (rC x).fmt (rmW x)) ||
    ratioBad (rmW x) (ssW x) || ratioBad (rmPicH x) (ssH x) || ssRange x == 3

/-- The plan of a rim command (R151): a field outside the limits of R141 to R149 gives 0x0D; a line longer than its tile-SRAM stride is a footprint error and keeps 0x04. -/
def planRim (s : State) (x : Slot) : Plan :=
  let c := rC x
  if cOpcode x = 3 then
    { Plan.none with
      reasons := why (scaleBad x) 0x0D,
      cuses := (rA x).cuse (maxNat (scaleLines x) + 1) (picLine (rA x).fmt (ssW x)) false ++ c.cuse (rmH x) (outputLine x) true,
      spanReason := 0x0D }
  else
    let rows := maxNat (inputLines x) + 1 - rmInY0 x
    { Plan.none with
      reasons := why (convBad s x) 0x0D,
      uses := (rA x).use rows (inputLine x) false ++ (rB x).usePacked (rmBytesB x) false ++ c.use (rmH x) (outputLine x) true,
      cuses := (rA x).cuse rows (inputLine x) false ++ (rB x).cusePacked (rmBytesB x) false ++ c.cuse (rmH x) (outputLine x) true ++
        (if rmSkip x then (rX x).cuse (maxNat (skipLines x) + 1) (picLine (rX x).fmt (rmSkipW x)) false else []),
      spanReason := 0x0D }

/-! ### Arithmetic (R145 to R148) -/

/-- A value clamped to a range; a clamp that changes it sets saturation (R145). -/
def clampFlag (lo hi v : Int) : Int × Flags := if v < lo then (lo, flagSaturation) else if hi < v then (hi, flagSaturation) else (v, noFlags)

/-- The range of a channel of b-bit samples (R145). -/
def chanRange (range b c : Nat) : Int × Int :=
  let k : Int := ((2 ^ (b - 8) : Nat) : Int)
  if range = 0 ∨ c = 3 then (0, ((2 ^ b - 1 : Nat) : Int))
  else if range = 1 ∧ c ≠ 0 then (16 * k, 240 * k) else (16 * k, 235 * k)

/-- Grid value at (u, v), channel c of a stem or head (R144). -/
def gridValue (rdA : Nat → Byte) (x : Slot) (u v : Int) (c : Nat) : Int :=
  match padIndex (rmPad x) (gridW x) u, padIndex (rmPad x) (gridH x) v with
  | some px, some py =>
    let a := rA x
    if isHead x then
      let f := rmFactor x
      let w := 8 * a.fmt
      toSigned w (readElem rdA a.fmt ((py / f - rmInY0 x) * a.stride) (px / f * rmCIn x + (c * f * f + (py % f) * f + px % f)))
    else fullSample rdA 0 a.stride a.fmt (gridW x) px (py - rmInY0 x) c
  | _, _ => 0

/-- Weight of output channel o, kernel position (i, j) and input channel c. -/
def rimWeight (rdB : Nat → Byte) (x : Slot) (o i j c : Nat) : Int :=
  toSigned 12 (bits (readNat rdB (2 * (((o * rmKh x + i) * rmKw x + j) * gridC x + c)) 2) 11 0)

/-- The converted sum of output position (x, y), channel o, before its clamp (R145). -/
def rimConv (rdA rdB : Nat → Byte) (x : Slot) (px py o : Nat) : Int :=
  let e := rimEntry rdB x o
  let acc := (List.range (rmKh x)).foldl (fun acc i => (List.range (rmKw x)).foldl (fun acc j => (List.range (gridC x)).foldl (fun acc c =>
    acc + rimWeight rdB x o i j c * gridValue rdA x (((px * gridStep x + j : Nat) : Int) - rmKwHalf x) (((py * gridStep x + i : Nat) : Int) - rmKhHalf x) c) acc) acc) e.1
  rne (acc * e.2.1) (2 ^ e.2.2.1) + e.2.2.2

/-- Integer weights of an axis, in 1.10 fixed point (R148). -/
def scaleTaps (cubic : Bool) (n nIn x : Nat) : List (Nat × Int) :=
  let p := sourcePos false n nIn x
  let f := p.2 / 256 * 256
  (axisTaps cubic p.1 f).map fun t => (clampIndex nIn t.1, roundInt .rne (1024 * t.2))

/-- The scaler: vertical, then horizontal, then the clamp (R148). -/
def scaleSample (cubic : Bool) (range b c w h wIn hIn : Nat) (sample : Nat → Nat → Int) (px py : Nat) : Int × Flags :=
  let vt := scaleTaps cubic h hIn py
  let q := (scaleTaps cubic w wIn px).foldl (fun acc t =>
    acc + t.2 * rne (vt.foldl (fun a u => a + u.2 * sample t.1 u.1) 0) 64) 0
  let r := chanRange range b c
  clampFlag r.1 r.2 (rne q 16384)

/-- The skip sample of an output position (R147). -/
def skipSample (rdX : Nat → Byte) (x : Slot) (px py c : Nat) : Int × Flags :=
  if rmSkip x then
    let o := rX x
    let b := picBits o.fmt
    let q := scaleSample (rmSkipCubic x) (rmRange x) b c (rmW x) (rmPicH x) (rmSkipW x) (rmSkipH x)
      (fun u v => fullSample rdX 0 o.stride o.fmt (rmSkipW x) u v c) px py
    (q.1 * ((2 ^ (picBits (rC x).fmt - b) : Nat) : Int), q.2)
  else (0, noFlags)

/-- STEM (R143 to R145). -/
def execStem (eng q sl : Nat) (s : State) : Out := whenLive s fun s =>
  if 32 ≤ eng ∧ eng < 36 ∧ runs s eng q sl 5 1 = true then
    let y := getSlot s eng q sl
    let c := rC y
    let w := 8 * c.fmt
    let hi : Int := ((2 ^ (w - 1) : Nat) : Int)
    let rows := (List.range (rmH y)).map fun j => (List.range (rmW y * rmCOut y)).map fun i =>
      clampFlag (-hi) (hi - 1) (rimConv (rdOp s y (rA y)) (rdOp s y (rB y)) y (i / rmCOut y) (rmY0 y + j) (i % rmCOut y))
    let ps := (List.range (rmH y)).map fun j => c.piece (j * c.stride) (packElems c.fmt ((rows.getD j []).map fun v => ofSigned w v.1))
    deliver eng q sl ps (allFlags (rows.flatMap fun r => r.map (·.2))) s
  else s

/-- Picture lines written from channel values with their flags. -/
def pictureOut (eng q sl : Nat) (c : ROp) (w h : Nat) (value : Nat → Nat → Nat → Int × Flags) (s : State) : State :=
  let ps := (List.range h).map fun j => c.piece (j * c.stride) (packLine c.fmt w fun px ch => (value px j ch).1)
  let f := allFlags ((List.range h).flatMap fun j => (List.range w).flatMap fun px => (List.range (picChannels c.fmt)).map fun ch => (value px j ch).2)
  deliver eng q sl ps f s

/-- HEAD (R143 to R147). -/
def execHead (eng q sl : Nat) (s : State) : Out := whenLive s fun s =>
  if 32 ≤ eng ∧ eng < 36 ∧ runs s eng q sl 5 2 = true then
    let y := getSlot s eng q sl
    let value (px j ch : Nat) : Int × Flags :=
      let k := skipSample (rdOp s y (rX y)) y px (rmY0 y + j) ch
      let r := chanRange (rmRange y) (picBits (rC y).fmt) ch
      let v := clampFlag r.1 r.2 (rimConv (rdOp s y (rA y)) (rdOp s y (rB y)) y px (rmY0 y + j) ch + k.1)
      (v.1, orFlags k.2 v.2)
    pictureOut eng q sl (rC y) (rmW y) (rmH y) value s
  else s

/-- A free sample of b bits, from a token and an index. -/
def freeSample (token b i : Nat) : Int := (((Config.freeByte token (2 * i)).toNat + 256 * (Config.freeByte token (2 * i + 1)).toNat) % 2 ^ b : Nat)

/-- Channel `c` is sharpened: channel 0 of YCbCr, channels 0 to 2 of RGB; the channels of a 4:2:2 picture, read or written, are Y, Cb and Cr (R142, R148). -/
def sharpened (x : Slot) (c : Nat) : Bool :=
  c == 0 || (decide (c < 3) && !(pic422 (rA x).fmt) && !(pic422 (rC x).fmt) && (ssRange x == 2 || (ssRange x == 0 && Config.fullRangeRgb)))

/-- The sharpened value at (px, py) from scaled values; the clamps of the nine scaled values it reads, those on the lines next to the band among them, set their flags (R145, R148). -/
def sharpen (x : Slot) (b c : Nat) (scaled : Nat → Nat → Int × Flags) (px py : Nat) : Int × Flags :=
  let q := scaled px py
  if sharpened x c then
    let near (n i : Nat) (d : Nat) : Nat := clampIndex n ((i + d : Nat) - 1)
    let around := (List.range 9).map fun k => scaled (near (rmW x) px (k % 3)) (near (rmPicH x) py (k / 3))
    let bl := rne ((List.range 9).foldl (fun a k =>
      let w : Int := if k = 4 then 4 else if k % 2 = 1 then 2 else 1
      a + w * (around.getD k (0, noFlags)).1) 0) 16
    let d := q.1 - bl
    let d := if (d.natAbs : Int) ≤ ((ssCoring x * 2 ^ (b - 8) : Nat) : Int) then 0 else d
    let r := chanRange (ssRange x) b c
    let v := clampFlag r.1 r.2 (q.1 + rne ((ssGain x : Int) * d) 16)
    (v.1, orFlags (allFlags (around.map (·.2))) v.2)
  else
    let r := chanRange (ssRange x) b c
    clampFlag r.1 r.2 q.1 |> fun v => (v.1, orFlags q.2 v.2)

/-- SCALE_AND_SHARPEN (R148). A channel that A does not have, and a picture whose samples have another width than A's, have no stated value: a free one. -/
def execScaleAndSharpen (eng q sl : Nat) (s : State) : Out := whenLive s fun s =>
  if 32 ≤ eng ∧ eng < 36 ∧ runs s eng q sl 5 3 = true then
    let y := getSlot s eng q sl
    let a := rA y
    let b := picBits (rC y).fmt
    let rd := rdOp s y a
    let scaled (c px py : Nat) : Int × Flags :=
      scaleSample (ssCubic y) (ssRange y) b c (rmW y) (rmPicH y) (ssW y) (ssH y) (fun u v => fullSample rd 0 a.stride a.fmt (ssW y) u v c) px py
    let stated (c : Nat) : Bool := picBits a.fmt == b && decide (c < picChannels a.fmt)
    let value (px j c : Nat) : Int × Flags :=
      if stated c then sharpen y b c (scaled c) px (rmY0 y + j) else (freeSample s.free b ((j * rmW y + px) * 4 + c), noFlags)
    let open_ := (List.range (picChannels (rC y).fmt)).any fun c => !(stated c)
    pictureOut eng q sl (rC y) (rmW y) (rmH y) value (if open_ then useFree s else s)
  else s

end Sys2Proof.Machine
end

