-- ==== Sys2Proof/Machine/Gather.lean ====
section
/-!
DEFINITION. The gather engines (R214 to R225): gather, advance and release.
-/

namespace Sys2Proof.Machine

/-! ### The history table (R217) -/

/-- Plane width. -/
def hW (rd : Nat → Byte) : Nat := readNat rd 0 2
/-- Plane height. -/
def hH (rd : Nat → Byte) : Nat := readNat rd 2 2
/-- Bytes per position. -/
def hPs (rd : Nat → Byte) : Nat := readNat rd 4 2
/-- Block width. -/
def hBw (rd : Nat → Byte) : Nat := (rd 6).toNat
/-- Block height. -/
def hBh (rd : Nat → Byte) : Nat := (rd 7).toNat
/-- Entries. -/
def hN (rd : Nat → Byte) : Nat := (rd 8).toNat
/-- Newest entry. -/
def hHead (rd : Nat → Byte) : Nat := (rd 9).toNat
/-- Bytes from one plane line to the next. -/
def hStride (rd : Nat → Byte) : Nat := readNat rd 12 4
/-- Positions of a segment. -/
def hG (rd : Nat → Byte) : Nat := 256 / hPs rd
/-- First byte of entry `i`. -/
def hEntry (i : Nat) : Nat := 32 + 32 * i
/-- Plane of an entry. -/
def hPlane (rd : Nat → Byte) (i : Nat) : Nat := readNat rd (hEntry i) 8
/-- Segment table of an entry. -/
def hTable (rd : Nat → Byte) (i : Nat) : Nat := readNat rd (hEntry i + 8) 8
/-- Link map of an entry. -/
def hLink (rd : Nat → Byte) (i : Nat) : Nat := readNat rd (hEntry i + 16) 8
/-- An entry is valid. -/
def hValid (rd : Nat → Byte) (i : Nat) : Bool := bit (rd (hEntry i + 28)).toNat 0
/-- Entry of age k. -/
def hAge (rd : Nat → Byte) (k : Nat) : Nat := (hHead rd + k) % hN rd
/-- Blocks across. -/
def hGridW (rd : Nat → Byte) : Nat := ceilDiv (hW rd) (hBw rd)
/-- Blocks down. -/
def hGridH (rd : Nat → Byte) : Nat := ceilDiv (hH rd) (hBh rd)

/-- A valid entry holds an offset that R217 does not allow: a plane off 256 bytes, a segment table or link map off 128. -/
def entryBad (rd : Nat → Byte) (i : Nat) : Bool := hValid rd i && (hPlane rd i % 256 != 0 || hTable rd i % 128 != 0 || hLink rd i % 128 != 0)

/-- A value of the header, or of a valid entry, lies outside R217. -/
def headerBad (rd : Nat → Byte) : Bool :=
  !(hPs rd == 64 || hPs rd == 128 || hPs rd == 256) || hW rd == 0 || decide (8192 < hW rd) || hW rd % hG rd != 0 || hH rd == 0 || decide (8192 < hH rd) ||
    hBw rd == 0 || decide (16 < hBw rd) || hBh rd == 0 || decide (16 < hBh rd) || hN rd == 0 || decide (32 < hN rd) || decide (hN rd ≤ hHead rd) ||
    hStride rd % 256 != 0 || decide (hStride rd < hW rd * hPs rd) || (List.range (hN rd)).any (entryBad rd)

/-- A table at an offset is misplaced: not on a 32-byte boundary, or across a page boundary. -/
def tableMisplaced (off n : Nat) : Bool := off % 32 != 0 || decide (65536 < off % 65536 + (32 + 32 * n))

/-! ### Gather fields (R219) -/

/-- Blocks across. -/
def gaBw (x : Slot) : Nat := bits (cw x 12) 31 24 + 1
/-- Blocks down. -/
def gaBh (x : Slot) : Nat := bits (cw x 12) 23 16 + 1
/-- First block column. -/
def gaBx0 (x : Slot) : Nat := bits (cw x 12) 15 3
/-- First block row. -/
def gaBy0 (x : Slot) : Nat := bits (cw x 13) 31 19
/-- K. -/
def gaK (x : Slot) : Nat := bits (cw x 13) 18 14 + 1
/-- Window width. -/
def gaWw (x : Slot) : Nat := bits (cw x 13) 13 10 + 1
/-- Window height. -/
def gaWh (x : Slot) : Nat := bits (cw x 13) 9 7 + 1
/-- Expanded output. -/
def gaExpand (x : Slot) : Bool := bit (cw x 14) 31
/-- The window is shifted inside the plane. -/
def gaEdge (x : Slot) : Bool := bit (cw x 14) 30
/-- Least confidence. -/
def gaConfMin (x : Slot) : Nat := bits (cw x 14) 7 0
/-- Bytes of output C. -/
def gaBytes (x : Slot) (ps : Nat) : Nat := gaBw x * gaBh x * gaK x * gaWw x * gaWh x * ps
/-- Segments of a point. -/
def gaPointSegs (x : Slot) (ps : Nat) : Nat := gaWw x * gaWh x * ps / 256
/-- Bytes of the segment table of output C. -/
def gaTable (x : Slot) (ps : Nat) : Nat := ceilDiv (gaBytes x ps / 256) 2
/-- Offset of counts in the auxiliary operand. -/
def gaCounts (x : Slot) (ps : Nat) : Nat := if gaExpand x then 0 else up32 (gaTable x ps)

/-- Ages of the valid entries that the command can reach. -/
def gaAges (rd : Nat → Byte) (x : Slot) : List Nat :=
  ((List.range (min (gaK x) (hN rd))).takeWhile fun k => hValid rd (hAge rd k)).map (hAge rd)

/-- The plan of a gather (R216, R225). -/
def planGather (s : State) (x : Slot) : Plan :=
  let a := rA x
  let b := rB x
  let c := rC x
  let k := rX x
  let rd := rdOpNow s x a
  let ps := hPs rd
  let placed := a.space == 2 && a.fmt == 1 && b.fmt == 1 && (b.space == 1 || b.space == 2) && c.space == 1 && c.fmt == 1 && k.space == 1 && k.fmt == 1 &&
    c.tile == k.tile && !((b.space == 1 && b.high != 0) || c.high != 0 || k.high != 0)
  let bad := !placed || headerBad rd || tableMisplaced a.offset (hN rd) || gaWw x % hG rd != 0 ||
    (gaEdge x && (decide (hW rd < gaWw x) || decide (hH rd < gaWh x))) || decide (hGridW rd < gaBx0 x + gaBw x) || decide (hGridH rd < gaBy0 x + gaBh x) ||
    decide (4096 < gaBw x * gaBh x * gaK x) || decide (16777216 < gaBytes x ps)
  { Plan.none with
    reasons := why bad 0x0F,
    uses := b.use (gaBh x) (8 * gaBw x) false ++ c.usePacked (gaBytes x ps) true ++ k.usePacked (gaCounts x ps + gaBw x * gaBh x) true,
    cuses := [{ off := a.offset, bytes := 32 + 32 * hN rd, write := false }] ++ b.cuse (gaBh x) (8 * gaBw x) false ++
      (gaAges rd x).flatMap fun i => [{ off := hPlane rd i, bytes := hStride rd * hH rd, write := false },
        { off := hTable rd i, bytes := ceilDiv (hStride rd * hH rd / 256) 2, write := false }, { off := hLink rd i, bytes := 8 * (hGridW rd * hGridH rd), write := false }],
    spanReason := 0x0F }

/-! ### Trajectories (R218, R220) -/

/-- A map entry: vx, vy and confidence. -/
def mapEntry (rd : Nat → Byte) (off : Nat) : Int × Int × Nat :=
  let v := readNat rd off 8
  (toSigned 16 (bits v 15 0), toSigned 16 (bits v 31 16), bits v 47 40)

/-- A number clamped to 0 … hi. -/
def clampInt (hi v : Int) : Int := max 0 (min hi v)

/-- The windows of a trajectory: entry and top-left position, from age k on. -/
def trajectory (rd reg : Nat → Byte) (x : Slot) : Nat → Nat → Int → Int → Nat → List (Nat × Int × Int)
  | 0, _, _, _, _ => []
  | left + 1, k, px, py, conf =>
    let i := hAge rd k
    if hN rd ≤ k ∨ hValid rd i = false ∨ conf < gaConfMin x then []
    else
      let W : Int := hW rd
      let H : Int := hH rd
      let g : Int := hG rd
      let px := clampInt (W * 32 - 1) px
      let py := clampInt (H * 32 - 1) py
      let ax := g * rne (px - gaWw x * 16) (32 * hG rd)
      let ay := rne (py - gaWh x * 16) 32
      let ax := if gaEdge x then clampInt (W - gaWw x) ax else ax
      let ay := if gaEdge x then clampInt (H - gaWh x) ay else ay
      let l := mapEntry reg (hLink rd i + 8 * (((py / 32).toNat / hBh rd) * hGridW rd + (px / 32).toNat / hBw rd))
      (i, ax, ay) :: trajectory rd reg x left (k + 1) (px + l.1) (py + l.2.1) l.2.2

/-- The trajectory of block b of the command. -/
def blockPath (rd reg start : Nat → Byte) (x : Slot) (b : Nat) : List (Nat × Int × Int) :=
  let e := mapEntry start (b / gaBw x * (rB x).stride + 8 * (b % gaBw x))
  let bx := gaBx0 x + b % gaBw x
  let by_ := gaBy0 x + b / gaBw x
  trajectory rd reg x (gaK x) 0 (((bx * hBw rd * 32 + hBw rd * 16 : Nat) : Int) + e.1) (((by_ * hBh rd * 32 + hBh rd * 16 : Nat) : Int) + e.2.1) e.2.2

/-- Segment `i` of a point: its index in the plane; none outside (R221). -/
def pointSeg (rd : Nat → Byte) (x : Slot) (ax ay : Int) (i : Nat) : Option Nat :=
  let per := gaWw x / hG rd
  let u := ax + ((i % per * hG rd : Nat) : Int)
  let v := ay + ((i / per : Nat) : Int)
  if 0 ≤ u ∧ u + hG rd ≤ hW rd ∧ 0 ≤ v ∧ v < hH rd then some ((v.toNat * hStride rd + u.toNat * hPs rd) / 256) else none

/-- Length code and slot of a segment of output C: fetched from the plane, or nothing. -/
def gatherSegs (rd reg start : Nat → Byte) (x : Slot) : List (Nat × List Byte) :=
  (List.range (gaBw x * gaBh x)).flatMap fun b =>
    let path := blockPath rd reg start x b
    (List.range (gaK x)).flatMap fun k =>
      (List.range (gaPointSegs x (hPs rd))).map fun i =>
        match path[k]? with
        | none => (0, [])
        | some (e, ax, ay) => match pointSeg rd x ax ay i with
          | none => (0, [])
          | some n => (readElem reg 0 (hTable rd e) n, readBytes reg (hPlane rd e + 256 * n) 256)

/-- GATHER (R220, R221). The slot of an invalid length code holds free bytes in compressed mode. -/
def execGather (eng q sl : Nat) (s : State) : Out := whenLive s fun s =>
  if 36 ≤ eng ∧ eng < 40 ∧ runs s eng q sl 6 1 = true then
    let y := getSlot s eng q sl
    let c := rC y
    let k := rX y
    let rd := rdOp s y (rA y)
    let reg := rdCist s y
    let segs := gatherSegs rd reg (rdOp s y (rB y)) y
    let counts := (List.range (gaBw y * gaBh y)).map fun b => BitVec.ofNat 8 (blockPath rd reg (rdOp s y (rB y)) y b).length
    let countPiece := k.piece (gaCounts y (hPs rd)) counts
    if gaExpand y then
      let w := if Config.wideTokens y.part (rA y).offset then 2 else 1
      let ex := segs.map fun e => zrExpand w e.1 e.2
      deliver eng q sl (((List.range segs.length).map fun i => c.piece (256 * i) (ex.getD i ([], true)).1) ++ [countPiece])
        (if ex.all (·.2) then noFlags else flagInvalid) s
    else
      let slot (i : Nat) : List Byte :=
        let e := segs.getD i (0, [])
        if 8 < e.1 then (List.range 256).map fun j => Config.freeByte s.free (256 * i + j) else e.2.take (32 * e.1)
      let odd := segs.length % 2 == 1
      let codes := segs.map (·.1) ++ (if odd then [freeNat s 4] else [])
      let s := if odd || segs.any fun e => decide (8 < e.1) then useFree s else s
      deliver eng q sl (((List.range segs.length).map fun i => c.piece (256 * i) (slot i)) ++ [k.piece 0 (packNibbles codes), countPiece]) noFlags s
  else s

/-! ### Advance and release (R223, R224) -/

/-- The plan of an advance. -/
def planAdvance (s : State) (x : Slot) : Plan :=
  let c := rC x
  let rd := rdOpNow s x c
  { Plan.none with
    reasons := why ((rA x).valid || (rB x).valid || (rX x).valid || c.space != 2 || c.fmt != 1 || headerBad rd || tableMisplaced c.offset (hN rd)) 0x0F,
    cuses := [{ off := c.offset, bytes := 32 + 32 * hN rd, write := false }, { off := c.offset, bytes := 32 + 32 * hN rd, write := true }],
    spanReason := 0x0F }

/-- ADVANCE. -/
def execAdvance (eng q sl : Nat) (s : State) : Out := whenLive s fun s =>
  if 36 ≤ eng ∧ eng < 40 ∧ runs s eng q sl 6 2 = true then
    let y := getSlot s eng q sl
    let c := rC y
    let rd := rdOp s y c
    let h := (hHead rd + hN rd - 1) % hN rd
    let entry := leBytes 8 (bits (cw y 12) 30 0 * 256) ++ leBytes 8 (cw y 13 * 128) ++ leBytes 8 (cw y 14 * 128) ++ leBytes 4 (cw y 15) ++ leBytes 4 1
    let older := if bit (cw y 12) 31 then ((List.range (hN rd)).filter (· != h)).map fun i =>
      c.piece (hEntry i + 28) [BitVec.ofNat 8 ((rd (hEntry i + 28)).toNat / 2 * 2)] else []
    deliver eng q sl ([c.piece 9 [BitVec.ofNat 8 h], c.piece (hEntry h) entry] ++ older) noFlags s
  else s

/-- First page of a release. -/
def relFirst (x : Slot) : Nat := bits (cw x 12) 22 0
/-- Pages of a release. -/
def relCount (x : Slot) : Nat := bits (cw x 13) 22 0

/-- The plan of a release. -/
def planRelease (x : Slot) : Plan :=
  { Plan.none with
    reasons := why ((rA x).valid || (rB x).valid || (rC x).valid || (rX x).valid || relCount x == 0) 0x0F,
    cuses := [{ off := relFirst x * 65536, bytes := relCount x * 65536, write := true }],
    spanReason := 0x0F, unmap := some (relFirst x, relCount x) }

/-- RELEASE: the pages become unmapped at its commit. -/
def execRelease (eng q sl : Nat) (s : State) : Out := whenLive s fun s =>
  if 36 ≤ eng ∧ eng < 40 ∧ runs s eng q sl 6 3 = true then deliver eng q sl [] noFlags s else s

end Sys2Proof.Machine
end

