-- ==== Sys2Proof/Machine/Motion.lean ====
section
/-!
DEFINITION. The motion engines (R240 to R265): pyramids, motion estimates, corners, matches, warp and blend.
-/

namespace Sys2Proof.Machine

/-! ### Fields and layouts (R246 to R249, R257, R261) -/

/-- Width. -/
def moW (x : Slot) : Nat := bits (cw x 12) 31 19 + 1
/-- Height, or lines of a band. -/
def moH (x : Slot) : Nat := bits (cw x 12) 18 6 + 1
/-- Coarsest or last level. -/
def moLc (x : Slot) : Nat := bits (cw x 12) 5 3
/-- Finest or first level. -/
def moLow (x : Slot) : Nat := bits (cw x 12) 2 0
/-- Columns or lines of level L. -/
def levelSize (n L : Nat) : Nat := ceilDiv n (2 ^ L)
/-- Line stride of a level. -/
def levelStride (w L : Nat) : Nat := up32 (levelSize w L)
/-- Bytes of a level. -/
def levelBytes (w h L : Nat) : Nat := levelStride w L * levelSize h L
/-- First byte of a level. -/
def levelBase (w h L : Nat) : Nat := sumNat ((List.range L).map fun l => levelBytes w h l)
/-- A position of a level, clamped to its edges. -/
def pyrAt (rd : Nat → Byte) (w h L : Nat) (x y : Int) : Nat :=
  (rd (levelBase w h L + clampIndex (levelSize h L) y * levelStride w L + clampIndex (levelSize w L) x)).toNat

/-- The command is mode 1 of warp-and-blend. -/
def waCopy (x : Slot) : Bool := bit (cw x 14) 16
/-- First line of a warp's band. -/
def waY0 (x : Slot) : Nat := bits (cw x 13) 31 19
/-- Picture height of a warp. -/
def waPicH (x : Slot) : Nat := bits (cw x 13) 18 6 + 1
/-- Phase. -/
def waT8 (x : Slot) : Nat := bits (cw x 14) 31 23
/-- Map block width of a warp. -/
def waBw (x : Slot) : Nat := 4 * 2 ^ bits (cw x 14) 22 21
/-- Map block height of a warp. -/
def waBh (x : Slot) : Nat := 4 * 2 ^ bits (cw x 14) 20 19
/-- Estimate is packed. -/
def esPacked (x : Slot) : Bool := bit (cw x 13) 25
/-- Block width of an estimate. -/
def esBw (x : Slot) : Nat := 4 * 2 ^ bits (cw x 13) 31 30
/-- Block height of an estimate. -/
def esBh (x : Slot) : Nat := 4 * 2 ^ bits (cw x 13) 29 28
/-- Grid columns at level L. -/
def esGw (x : Slot) (L : Nat) : Nat := ceilDiv (levelSize (moW x) L) (esBw x)
/-- Grid lines at level L. -/
def esGh (x : Slot) (L : Nat) : Nat := ceilDiv (levelSize (moH x) L) (esBh x)

/-! ### Refusals (R244, R265) -/

/-- A format-1 operand in tile SRAM or the Cistern. -/
def dataOk (o : ROp) : Bool := (o.space == 1 || o.space == 2) && o.fmt == 1 && !(o.space == 1 && o.high != 0)

/-- A picture operand. -/
def pictureOk (o : ROp) (w : Nat) : Bool := o.space == 2 && picOk o.fmt w && o.stride != 0

/-- Size and level fields of opcodes 0x01 to 0x03. -/
def sizeBad (x : Slot) : Bool :=
  decide (7680 < moW x) || decide (4320 < moH x) || decide (6 < moLc x) || (cOpcode x != 1 && decide (moLc x < moLow x))

/-- Bytes of a pyramid up to level Lc. -/
def pyrBytes (x : Slot) : Nat := levelBase (moW x) (moH x) (moLc x + 1)

/-- The contiguous uses of an operand. -/
def packedUses (o : ROp) (n : Nat) (write : Bool) : List Use × List CUse := (o.usePacked n write, o.cusePacked n write)

/-- The strided uses of an operand. -/
def lineUses (o : ROp) (rows len : Nat) (write : Bool) : List Use × List CUse := (o.use rows len write, o.cuse rows len write)

/-- A motion plan from its refusals and uses. -/
def motionPlan (bad : Bool) (us : List (List Use × List CUse)) : Plan :=
  { Plan.none with reasons := why bad 0x11, uses := us.flatMap (·.1), cuses := us.flatMap (·.2), spanReason := 0x11 }

/-- Records of a corner list. -/
def cornerCount (rd : Nat → Byte) : Nat := readNat rd 0 4

/-- The backward map's operand. -/
def backMap (x : Slot) : ROp :=
  let o := rX x
  if o.space = 1 then { o with addr := o.addr + cw x 15 * 32 } else
    let off := o.offset + cw x 15 * 32
    { o with addr := off / 32 % 2 ^ 26, high := off / 2 ^ 31 }

/-- T0 of a warp (R263), the lines of the band counted as read from each source. -/
def warpTime (s : State) (eng : Nat) (x : Slot) : Nat :=
  let line := picLine (rC x).fmt (moW x)
  let gw := ceilDiv (moW x) (waBw x)
  let br := if waCopy x then moH x * line else 2 * moH x * line + 2 * (8 * gw * ceilDiv (moH x) (waBh x))
  96 + max (ceilDiv (moW x * moH x) 4) (max (ceilDiv br (128 * getObj s (oMotionReadShare (eng - 40)))) (ceilDiv (moH x * line) 512))

/-- The plan of a motion command. -/
def planMotion (s : State) (eng : Nat) (x : Slot) : Plan :=
  let a := rA x
  let b := rB x
  let c := rC x
  let k := rX x
  match cOpcode x with
  | 1 => motionPlan (sizeBad x || !(pictureOk a (moW x)) || b.valid || k.valid || !(dataOk c))
      [lineUses a (moH x) (picLine a.fmt (moW x)) false, packedUses c (pyrBytes x) true]
  | 2 =>
    let gw := esGw x (moLow x)
    let gh := esGh x (moLow x)
    let size := if esPacked x then 8 else 4
    motionPlan (sizeBad x || !(dataOk a) || !(dataOk b) || !(dataOk c) || (if esPacked x then k.valid else !(dataOk k)) ||
        (esPacked x && decide (c.stride < 8 * gw)))
      ([packedUses a (pyrBytes x) false, packedUses b (pyrBytes x) false, lineUses c gh (size * gw) true] ++
        (if esPacked x then [] else [lineUses k gh (2 * gw) true]))
  | 3 => motionPlan (sizeBad x || !(dataOk a) || b.valid || k.valid || !(dataOk c))
      [packedUses a (pyrBytes x) false, packedUses c (32 + 48 * (bits (cw x 13) 10 0 + 1)) true]
  | 4 =>
    let na := cornerCount (rdOpNow s x a)
    let nb := cornerCount (rdOpNow s x b)
    motionPlan (!(dataOk a) || !(dataOk b) || k.valid || !(dataOk c) || decide (2048 < na) || decide (2048 < nb))
      [packedUses a (32 + 48 * na) false, packedUses b (32 + 48 * nb) false, packedUses c (32 + 4 * na) true]
  | _ =>
    let gw := ceilDiv (moW x) (waBw x)
    let gh := ceilDiv (waPicH x) (waBh x)
    let line := picLine a.fmt (moW x)
    motionPlan (decide (7680 < moW x) || decide (4320 < waPicH x) || decide (waPicH x < waY0 x + moH x) || decide (256 < waT8 x) ||
        !(pictureOk a (moW x)) || !(pictureOk c (moW x)) || c.fmt != a.fmt ||
        (if waCopy x then b.valid || k.valid else !(pictureOk b (moW x)) || b.fmt != a.fmt || !(dataOk k) || decide (k.stride < 8 * gw)) ||
        decide (131072 < warpTime s eng x))
      ([lineUses a (waPicH x) line false, lineUses c (moH x) line true] ++
        (if waCopy x then [] else [lineUses b (waPicH x) line false, lineUses k gh (8 * gw) false, lineUses (backMap x) gh (8 * gw) false]))

/-! ### Pyramids (R248) -/

/-- A luma value of level 0. -/
def buildLevel0 (rd : Nat → Byte) (x : Slot) (px py : Nat) : Nat :=
  let a := rA x
  let c (ch : Nat) : Int := (storedSample rd 0 a.stride a.fmt px py ch : Nat)
  let y := if bit (cw x 13) 31 && !(pic422 a.fmt) then rne (54 * c 0 + 183 * c 1 + 19 * c 2) 256 else c 0
  min 255 (rne y (2 ^ (picBits a.fmt - 8))).toNat

/-- The next level from a level's lines. -/
def buildNext (w h : Nat) (p : List (List Nat)) : List (List Nat) :=
  let k : Nat → Nat := fun i => if i = 2 then 6 else if i = 1 ∨ i = 3 then 4 else 1
  let v (x y : Int) : Nat := (p.getD (clampIndex h y) []).getD (clampIndex w x) 0
  (List.range (ceilDiv h 2)).map fun (y : Nat) => (List.range (ceilDiv w 2)).map fun (x : Nat) =>
    (rne ((sumNat ((List.range 25).map fun i => k (i % 5) * k (i / 5) * v (2 * x + (i % 5 : Nat) - 2) (2 * y + (i / 5 : Nat) - 2)) : Nat) : Int) 256).toNat

/-- The lines of level L. -/
def buildLevel (rd : Nat → Byte) (x : Slot) : Nat → List (List Nat)
  | 0 => (List.range (moH x)).map fun y => (List.range (moW x)).map fun px => buildLevel0 rd x px y
  | L + 1 => buildNext (levelSize (moW x) L) (levelSize (moH x) L) (buildLevel rd x L)

/-- PYRAMID_BUILD. -/
def execPyramidBuild (eng q sl : Nat) (s : State) : Out := whenLive s fun s =>
  if 40 ≤ eng ∧ runs s eng q sl 7 1 = true then
    let y := getSlot s eng q sl
    let ps := (List.range (moLc y + 1)).flatMap fun L =>
      let ls := buildLevel (rdOp s y (rA y)) y L
      (List.range ls.length).map fun j =>
        (rC y).piece (levelBase (moW y) (moH y) L + j * levelStride (moW y) L) ((ls.getD j []).map fun v => BitVec.ofNat 8 v)
    deliver eng q sl ps noFlags s
  else s

/-! ### Estimates (R250 to R256) -/

/-- Sum of absolute differences of block (i, j) at level L for a displacement (R251). -/
def blockSad (ref tgt : Nat → Byte) (x : Slot) (L i j : Nat) (d : Int × Int) : Nat :=
  let w := moW x
  let h := moH x
  sumNat ((List.range (esBh x)).map fun v => sumNat ((List.range (esBw x)).map fun u =>
    let px := i * esBw x + u
    let py := j * esBh x + v
    if px < levelSize w L ∧ py < levelSize h L then
      ((pyrAt ref w h L px py : Int) - pyrAt tgt w h L (px + d.1) (py + d.2)).natAbs
    else 0))

/-- Positions of block (i, j) inside level L. -/
def blockCount (x : Slot) (L i j : Nat) : Nat :=
  min (esBw x) (levelSize (moW x) L - i * esBw x) * min (esBh x) (levelSize (moH x) L - j * esBh x)

/-- The 289 offsets of the search. -/
def searchOffsets : List (Int × Int) :=
  (List.range 289).map fun k => (((k % 17 : Nat) : Int) - 8, ((k / 17 : Nat) : Int) - 8)

/-- Lexicographic order of equally long lists of numbers. -/
def lexLt : List Int → List Int → Bool
  | a :: as, b :: bs => decide (a < b) || (decide (a = b) && lexLt as bs)
  | _, _ => false

/-- The order of candidates: least SAD, then |dx| + |dy|, dy, dx (R251). -/
def candidateKey (sad : Int × Int → Nat) (o : Int × Int) : List Int := [(sad o : Int), (o.1.natAbs + o.2.natAbs : Nat), o.2, o.1]

/-- The offset of the best candidate. -/
def bestOffset (sad : Int × Int → Nat) : Int × Int :=
  searchOffsets.foldl (fun b o => if lexLt (candidateKey sad o) (candidateKey sad b) then o else b) (-8, -8)

/-- SAD of an offset from a predictor. -/
def sadFrom (ref tgt : Nat → Byte) (x : Slot) (L i j : Nat) (p o : Int × Int) : Nat := blockSad ref tgt x L i j (p.1 + o.1, p.2 + o.2)

/-- The predictor of block (i, j) at level L from the results of level L + 1 (R250). -/
def predictor (x : Slot) (L i j : Nat) (above : List (Int × Int)) : Int × Int :=
  if L = moLc x then
    (rne (toSigned 16 (bits (cw x 14) 15 0)) (2 ^ (5 + L)), rne (toSigned 16 (bits (cw x 14) 31 16)) (2 ^ (5 + L)))
  else
    let i' := min ((i * esBw x + esBw x / 2) / (2 * esBw x)) (esGw x (L + 1) - 1)
    let j' := min ((j * esBh x + esBh x / 2) / (2 * esBh x)) (esGh x (L + 1) - 1)
    let d := above.getD (j' * esGw x (L + 1) + i') (0, 0)
    (2 * d.1, 2 * d.2)

/-- The integer results of a level, in line order. -/
def levelResults (ref tgt : Nat → Byte) (x : Slot) (L : Nat) (above : List (Int × Int)) : List (Int × Int) :=
  (List.range (esGw x L * esGh x L)).map fun n =>
    let i := n % esGw x L
    let j := n / esGw x L
    let p := predictor x L i j above
    let o := bestOffset (sadFrom ref tgt x L i j p)
    (p.1 + o.1, p.2 + o.2)

/-- The integer results of the level `n` above Lc − n … that is level Lc − n after n + 1 levels. -/
def resultsDown (ref tgt : Nat → Byte) (x : Slot) : Nat → List (Int × Int)
  | 0 => levelResults ref tgt x (moLc x) []
  | n + 1 => levelResults ref tgt x (moLc x - (n + 1)) (resultsDown ref tgt x n)

/-- One component refined to 1/32 (R252). -/
def refine (o cm c0 cp : Int) : Int :=
  let den := cm - 2 * c0 + cp
  if o = -8 ∨ o = 8 ∨ den = 0 then 0 else max (-16) (min 16 (if 0 < den then rne (16 * (cm - cp)) den.toNat else rne (-(16 * (cm - cp))) (-den).toNat))

/-- A block's result: output vector with flags, cost and confidence (R252 to R254). -/
def blockResult (ref tgt : Nat → Byte) (x : Slot) (above : List (Int × Int)) (n : Nat) : (Int × Flags) × (Int × Flags) × Nat × Nat :=
  let f := moLow x
  let i := n % esGw x f
  let j := n / esGw x f
  let p := predictor x f i j above
  let sad := sadFrom ref tgt x f i j p
  let o := bestOffset sad
  let c0 := sad o
  let fx := refine o.1 (sad (o.1 - 1, o.2)) c0 (sad (o.1 + 1, o.2))
  let fy := refine o.2 (sad (o.1, o.2 - 1)) c0 (sad (o.1, o.2 + 1))
  let out (d g : Int) : Int × Flags := clampFlag (-32768) 32767 (rne ((32 * d + g) * ((2 ^ f : Nat) : Int)) (2 ^ bits (cw x 13) 27 26))
  let cnt := blockCount x f i j
  let far := searchOffsets.filter fun c => decide (2 ≤ (c.1 - o.1).natAbs) || decide (2 ≤ (c.2 - o.2).natAbs)
  let c2 := (far.map sad).foldl min (sad (far.headD o))
  let q := c2 + cnt * bits (cw x 13) 23 16
  (out (p.1 + o.1) fx, out (p.2 + o.2) fy, min 255 (rne (c0 : Int) cnt).toNat, if q = 0 then 0 else min 255 (256 * (c2 - c0) / q))

/-- The raw vector of a result. -/
def vectorWord (r : (Int × Flags) × (Int × Flags) × Nat × Nat) : Nat := ofSigned 16 r.1.1 + ofSigned 16 r.2.1.1 * 2 ^ 16

/-- ESTIMATE. -/
def execEstimate (eng q sl : Nat) (s : State) : Out := whenLive s fun s =>
  if 40 ≤ eng ∧ runs s eng q sl 7 2 = true then
    let y := getSlot s eng q sl
    let ref := rdOp s y (rA y)
    let tgt := rdOp s y (rB y)
    let f := moLow y
    let above := if moLc y = f then [] else resultsDown ref tgt y (moLc y - f - 1)
    let gw := esGw y f
    let gh := esGh y f
    let rs := (List.range (gw * gh)).map fun n => blockResult ref tgt y above n
    let at_ (n : Nat) := rs.getD n ((0, noFlags), (0, noFlags), 0, 0)
    let ps := (List.range gh).flatMap fun j =>
      let row := (List.range gw).map fun i => at_ (j * gw + i)
      if esPacked y then
        [(rC y).piece (j * (rC y).stride) (row.flatMap fun r => leBytes 8 (vectorWord r + r.2.2.1 * 2 ^ 32 + r.2.2.2 * 2 ^ 40))]
      else
        [(rC y).piece (j * (rC y).stride) (row.flatMap fun r => leBytes 4 (vectorWord r)),
         (rX y).piece (j * (rX y).stride) (row.flatMap fun r => leBytes 2 (r.2.2.1 + r.2.2.2 * 256))]
    let k := (rs.filter fun r => decide (bits (cw y 13) 15 8 ≤ r.2.2.1)).length
    let score := min 255 (256 * k / (gw * gh))
    let cut := bit (cw y 13) 24 && decide (bits (cw y 13) 7 0 ≤ score)
    let s := updSlot eng q sl (fun z => { z with run := { z.run with cut := cut, cutScore := score } }) s
    deliver eng q sl ps (allFlags (rs.map fun r => orFlags r.1.2 r.2.1.2)) s
  else s

/-! ### Corners and matches (R257 to R260) -/

/-- score16 of a position (R257). -/
def cornerScore (rd : Nat → Byte) (x : Slot) (L px py : Nat) : Nat :=
  let p (u v : Int) : Int := (pyrAt rd (moW x) (moH x) L u v : Nat)
  let gs : List (Int × Int) := (List.range 25).map fun k =>
    let u : Int := px + (k % 5 : Nat) - 2
    let v : Int := py + (k / 5 : Nat) - 2
    (p (u + 1) v - p (u - 1) v, p u (v + 1) - p u (v - 1))
  let sxx := gs.foldl (fun a g => a + g.1 * g.1) 0
  let syy := gs.foldl (fun a g => a + g.2 * g.2) 0
  let sxy := gs.foldl (fun a g => a + g.1 * g.2) 0
  let v := sxx * syy - sxy * sxy - (sxx + syy) * (sxx + syy) / 16
  (clampInt 65535 (v / ((2 ^ bits (cw x 13) 15 11 : Nat) : Int))).toNat

/-- A corner: score, level, line and column. -/
abbrev Corner := Nat × Nat × Nat × Nat

/-- The order of corners: highest score, then lowest level, line and column. -/
def cornerBefore (a b : Corner) : Bool :=
  lexLt [-(a.1 : Int), (a.2.1 : Int), (a.2.2.1 : Int), (a.2.2.2 : Int)] [-(b.1 : Int), (b.2.1 : Int), (b.2.2.1 : Int), (b.2.2.2 : Int)]

/-- The candidate of a cell, if it reaches the threshold. -/
def cellCorner (rd : Nat → Byte) (x : Slot) (L ci cj : Nat) : Option Corner :=
  let w := levelSize (moW x) L
  let h := levelSize (moH x) L
  let ps := (List.range 256).filterMap fun k =>
    let px := ci * 16 + k % 16
    let py := cj * 16 + k / 16
    if 16 ≤ px ∧ px + 16 < w ∧ 16 ≤ py ∧ py + 16 < h then some (cornerScore rd x L px py, L, py, px) else none
  match ps with
  | [] => none
  | p :: rest =>
    let b := rest.foldl (fun b c => if cornerBefore c b then c else b) p
    if bits (cw x 13) 31 16 ≤ b.1 then some b else none

/-- A corner inserted into an ordered list. -/
def insertCorner (c : Corner) : List Corner → List Corner
  | [] => [c]
  | d :: ds => if cornerBefore c d then c :: d :: ds else d :: insertCorner c ds

/-- The kept corners, in order. -/
def keptCorners (rd : Nat → Byte) (x : Slot) : List Corner :=
  let all := (List.range (moLc x + 1)).flatMap fun L =>
    if L < moLow x then [] else
      (List.range (ceilDiv (levelSize (moH x) L) 16)).flatMap fun cj => (List.range (ceilDiv (levelSize (moW x) L) 16)).filterMap fun ci => cellCorner rd x L ci cj
  (all.foldl (fun l c => insertCorner c l) []).take (bits (cw x 13) 10 0 + 1)

/-- A smoothed sample (R258). -/
def smoothAt (rd : Nat → Byte) (x : Slot) (L : Nat) (u v : Int) : Int :=
  let k : Nat → Int := fun i => if i = 1 then 2 else 1
  rne ((List.range 9).foldl (fun a i => a + k (i % 3) * k (i / 3) * (pyrAt rd (moW x) (moH x) L (u + (i % 3 : Nat) - 1) (v + (i / 3 : Nat) - 1) : Nat)) 0) 16

/-- The offset pair of descriptor bit `k` (R258). -/
def pairOffsets (k : Nat) : (Int × Int) × (Int × Int) :=
  let r := rand64 0 0 k
  let o (m l : Nat) : Int := ((bits r m l % 31 : Nat) : Int) - 15
  let x1 := o 7 0
  let y1 := o 15 8
  let x2 := o 23 16
  let y2 := o 31 24
  ((x1, y1), (x2, if x1 = x2 ∧ y1 = y2 then (if -15 < y1 then y1 - 1 else y1 + 1) else y2))

/-- The descriptor of a corner. -/
def descriptor (rd : Nat → Byte) (x : Slot) (c : Corner) : Nat :=
  sumNat ((List.range 256).map fun k =>
    let o := pairOffsets k
    let at_ (d : Int × Int) : Int := smoothAt rd x c.2.1 (c.2.2.2 + d.1) (c.2.2.1 + d.2)
    if at_ o.1 < at_ o.2 then 2 ^ k else 0)

/-- CORNERS: the list of R259. -/
def execCorners (eng q sl : Nat) (s : State) : Out := whenLive s fun s =>
  if 40 ≤ eng ∧ runs s eng q sl 7 3 = true then
    let y := getSlot s eng q sl
    let rd := rdOp s y (rA y)
    let cs := keptCorners rd y
    let head := leBytes 4 cs.length ++ leBytes 2 (moW y) ++ leBytes 2 (moH y) ++ List.replicate 24 0
    let one (c : Corner) : List Byte :=
      leBytes 2 (c.2.2.2 * 2 ^ c.2.1 * 4) ++ leBytes 2 (c.2.2.1 * 2 ^ c.2.1 * 4) ++ leBytes 2 c.1 ++ leBytes 1 c.2.1 ++ List.replicate 9 0 ++ leBytes 32 (descriptor rd y c)
    deliver eng q sl [(rC y).piece 0 (head ++ cs.flatMap one)] noFlags s
  else s

/-- Differing bits of two descriptors. -/
def hamming (a b : Nat) : Nat := popcount (a ^^^ b) 256

/-- The entry of record `i` of list A (R260). -/
def matchEntry (ra rb : Nat → Byte) (x : Slot) (nb i : Nat) : Nat :=
  let base (k : Nat) : Nat := 32 + 48 * k
  let ax := readNat ra (base i) 2
  let ay := readNat ra (base i + 2) 2
  let near (a b : Nat) : Bool := decide (((a : Int) - b).natAbs ≤ 4 * bits (cw x 12) 31 16)
  let cs := (List.range nb).filterMap fun k =>
    if ra (base i + 6) = rb (base k + 6) ∧ near ax (readNat rb (base k) 2) = true ∧ near ay (readNat rb (base k + 2) 2) = true then
      some (hamming (readNat ra (base i + 16) 32) (readNat rb (base k + 16) 32), k) else none
  match cs with
  | [] => 0xFFFFFFFF
  | c :: rest =>
    let b := rest.foldl (fun b e => if e.1 < b.1 then e else b) c
    let others := (c :: rest).filter (·.2 != b.2)
    (if bits (cw x 12) 15 8 < b.1 then 0xFFFF else b.2) + min 255 b.1 * 2 ^ 16 + ((others.map (·.1)).foldl min 255) * 2 ^ 24

/-- MATCH: the header's bytes after the count have no stated value. -/
def execMatchCorners (eng q sl : Nat) (s : State) : Out := whenLive s fun s =>
  if 40 ≤ eng ∧ runs s eng q sl 7 4 = true then
    let y := getSlot s eng q sl
    let ra := rdOp s y (rA y)
    let rb := rdOp s y (rB y)
    let na := cornerCount ra
    let head := leBytes 4 na ++ (List.range 28).map fun j => Config.freeByte s.free j
    deliver eng q sl [(rC y).piece 0 (head ++ (List.range na).flatMap fun i => leBytes 4 (matchEntry ra rb y (cornerCount rb) i))] noFlags (useFree s)
  else s

/-! ### Warp and blend (R261, R262) -/

/-- Columns of a plane. -/
def planeW (code w c : Nat) : Nat := if pic422 code && c != 0 then w / 2 else w

/-- A stored sample of a plane, clamped to its edges. -/
def planeSample (rd : Nat → Byte) (o : ROp) (w h c : Nat) (x y : Int) : Int :=
  let px := clampIndex (planeW o.fmt w c) x
  (storedSample rd 0 o.stride o.fmt (if pic422 o.fmt && c != 0 then 2 * px else px) (clampIndex h y) c : Nat)

/-- 1,024 times the interpolated value at (sx, sy) in 1/32. -/
def bilinearAt (rd : Nat → Byte) (o : ROp) (w h c : Nat) (sx sy : Int) : Int :=
  let ix := sx / 32
  let iy := sy / 32
  let fx := sx % 32
  let fy := sy % 32
  let p := planeSample rd o w h c
  (32 - fx) * (32 - fy) * p ix iy + fx * (32 - fy) * p (ix + 1) iy + (32 - fx) * fy * p ix (iy + 1) + fx * fy * p (ix + 1) (iy + 1)

/-- One output sample of mode 0 at plane column x and line y. -/
def warpSample (ra rb fwd back : Nat → Byte) (z : Slot) (c x y : Nat) : Nat :=
  let code := (rC z).fmt
  let w := moW z
  let h := waPicH z
  let half := pic422 code && c != 0
  let lx := if half then 2 * x else x
  let off := y / waBh z * (rX z).stride + 8 * (lx / waBw z)
  let vf := mapEntry fwd off
  let vb := mapEntry back off
  let t8 := waT8 z
  let sc (t : Nat) (v : Int) : Int := rne ((t : Int) * v * ((2 ^ bits (cw z 14) 18 17 : Nat) : Int)) 256
  let hx (d : Int) : Int := if half then rne d 2 else d
  let a := bilinearAt ra (rA z) w h c (32 * (x : Int) - hx (sc t8 vf.1)) (32 * (y : Int) - sc t8 vf.2.1)
  let b := bilinearAt rb (rB z) w h c (32 * (x : Int) - hx (sc (256 - t8) vb.1)) (32 * (y : Int) - sc (256 - t8) vb.2.1)
  let ea := if bits (cw z 14) 15 8 ≤ vf.2.2 then vf.2.2 + 1 else 0
  let eb := if bits (cw z 14) 15 8 ≤ vb.2.2 then vb.2.2 + 1 else 0
  let ea' := if ea = 0 ∧ eb = 0 then 1 else ea
  let eb' := if ea = 0 ∧ eb = 0 then 1 else eb
  let wa := (256 - t8) * ea'
  let wb := t8 * eb'
  let wa' := if wa + wb = 0 then 256 - t8 else wa
  let wb' := if wa + wb = 0 then t8 else wb
  (rne ((wa' : Int) * a + wb' * b) ((wa' + wb') * 1024)).toNat

/-- The samples of a line in their stored order. -/
def lineOrder (code w : Nat) (sample : Nat → Nat → Nat) : List Nat :=
  if pic422 code then (List.range (w / 2)).flatMap fun i => [sample 1 i, sample 0 (2 * i), sample 2 i, sample 0 (2 * i + 1)]
  else (List.range w).flatMap fun x => (List.range (picChannels code)).map fun c => sample c x

/-- WARP_AND_BLEND (mode 0). -/
def execWarpAndBlend (eng q sl : Nat) (s : State) : Out := whenLive s fun s =>
  if 40 ≤ eng ∧ runs s eng q sl 7 5 = true ∧ waCopy (getSlot s eng q sl) = false then
    let y := getSlot s eng q sl
    let c := rC y
    let smp := warpSample (rdOp s y (rA y)) (rdOp s y (rB y)) (rdOp s y (rX y)) (rdOp s y (backMap y)) y
    let ps := (List.range (moH y)).map fun j =>
      c.piece (j * c.stride) (packBits (picBits c.fmt) (lineOrder c.fmt (moW y) fun ch x => smp ch x (waY0 y + j)))
    deliver eng q sl ps noFlags s
  else s

/-- COPY_A (mode 1): the band copied bit for bit. -/
def execCopyA (eng q sl : Nat) (s : State) : Out := whenLive s fun s =>
  if 40 ≤ eng ∧ runs s eng q sl 7 5 = true ∧ waCopy (getSlot s eng q sl) = true then
    let y := getSlot s eng q sl
    let c := rC y
    let rd := rdOp s y (rA y)
    let n := picLine c.fmt (moW y)
    deliver eng q sl ((List.range (moH y)).map fun j => c.piece (j * c.stride) (readBytes rd ((waY0 y + j) * (rA y).stride) n)) noFlags s
  else s

end Sys2Proof.Machine
end

