-- ==== Sys2Proof/Machine/Select.lean ====
section
/-!
DEFINITION. Judging and dispatching the head of a queue: the plan of every command, the refusals of R78 and R620, units and preemption (R82, R83, R140, R215, R243), the selection of R300 and R301, and the resources a command takes at dispatch.
-/

namespace Sys2Proof.Machine

/-! ### Plans -/

/-- A command of a reserved unit or opcode (R78). -/
def planUnknown : Plan := { Plan.none with reasons := [3] }

/-- The plan of a tile command. -/
def planTile (s : State) (eng : Nat) (x : Slot) : Plan :=
  match cUnit x, cOpcode x with
  | 0, 1 => planMatrix s eng x
  | 0, 2 => planWindow s eng x
  | 1, 1 => planElement eng x
  | 1, 2 => planReduce eng x
  | 1, 0x10 => planPool eng x
  | 1, 0x11 => planResample eng x
  | 1, 0x12 => planArgmax eng x
  | 1, 0x20 => planZeroRun eng x true
  | 1, 0x21 => planZeroRun eng x false
  | 1, 0x30 => planGrouped s eng x
  | 2, 1 | 2, 2 | 2, 3 => planTransform eng x
  | 3, 1 | 3, 2 | 3, 3 | 3, 4 => planTransfer eng x
  | 4, 1 => Plan.none
  | _, _ => planUnknown

/-- The plan of a rim, gather or motion command; queue 4 of a motion engine takes only opcode 0x05 and fences (R242). -/
def planEngine (s : State) (eng q : Nat) (x : Slot) : Plan :=
  match cUnit x, cOpcode x with
  | 4, 1 => Plan.none
  | 5, 1 | 5, 2 | 5, 3 => if 32 ≤ eng ∧ eng < 36 then planRim s x else planUnknown
  | 6, 1 => if 36 ≤ eng ∧ eng < 40 then planGather s x else planUnknown
  | 6, 2 => if 36 ≤ eng ∧ eng < 40 then planAdvance s x else planUnknown
  | 6, 3 => if 36 ≤ eng ∧ eng < 40 then planRelease x else planUnknown
  | 7, 5 => if 40 ≤ eng then planMotion s eng x else planUnknown
  | 7, 1 | 7, 2 | 7, 3 | 7, 4 => if 40 ≤ eng ∧ q < 4 then planMotion s eng x else planUnknown
  | _, _ => planUnknown

/-- What the head command of a queue needs. -/
def planOf (s : State) (eng q : Nat) (x : Slot) : Plan := if eng < 32 then planTile s eng x else planEngine s eng q x

/-! ### Refusals of every engine (R62, R65, R74, R78, R206, R337) -/

/-- Pages of a use. -/
def Use.pages (u : Use) : List Nat := pagesOf u.addr u.bytes

/-- A use is misplaced, reaches page 768, or reads an unmapped page. -/
def useBad (s : State) (u : Use) : Bool :=
  !u.ok || u.pages.any fun lp => decide (768 ≤ lp) || (!u.write && (seenFrame s u.tile lp).isNone)

/-- A page of a use lies in a bank that the partition does not own. -/
def useForeign (s : State) (p : Nat) (u : Use) : Bool := u.pages.any fun lp => bankOwner s u.tile (bankOf lp) != some p

/-- An object lies outside the partition's range. -/
def syncOutside (s : State) (p o : Nat) : Bool :=
  decide (o < (getPart s p).syncBase) || decide ((getPart s p).syncBase + (getPart s p).syncCount ≤ o)

/-- A command names an object outside its partition's range (R337). -/
def syncBad (s : State) (eng : Nat) (x : Slot) : Bool :=
  (cWaits x && syncOutside s x.part (cWaitObject x)) || (cIncrement x != 0 && syncOutside s x.part (cSignalObject x)) ||
    (decide (40 ≤ eng) && cUnit x == 7 && cOpcode x == 2 && bits (cw x 15) 15 8 != 0 && syncOutside s x.part (bits (cw x 15) 31 16))

/-- A Cistern use leaves the region's span (R202). -/
def cuseOutside (s : State) (p : Nat) (u : CUse) : Bool := decide (0 < u.bytes) && decide (getObj s (oRegionSpan p) * 65536 < u.off + u.bytes)

/-- The write footprint: first and last region page (R206). -/
def writeSpan (pl : Plan) : Option (Nat × Nat) :=
  match (pl.cuses.filter fun u => u.write && decide (0 < u.bytes)).map fun u => (u.off / 65536, (u.off + u.bytes - 1) / 65536) with
  | [] => none
  | e :: es => some (es.foldl (fun m x => (min m.1 x.1, max m.2 x.2)) e)

/-- The pages of the footprint that need slots; a release needs none (R206, R224). -/
def slotNeed (pl : Plan) : Nat :=
  match pl.unmap, writeSpan pl with
  | none, some (a, b) => b + 1 - a
  | _, _ => 0

/-- Local output pages of a tile command, each once. -/
def localPages (eng : Nat) (pl : Plan) : List Nat :=
  if eng < 32 then ((pl.uses.filter fun u => u.write && u.tile == eng).flatMap Use.pages).eraseDups else []

/-- Output pages on tiles. -/
def outputPages (pl : Plan) : List (Nat × Nat) := (pl.uses.filter (·.write)).flatMap fun u => u.pages.map fun lp => (u.tile, lp)

/-- Input pages on tiles, each once. -/
def inputPages (pl : Plan) : List (Nat × Nat) := ((pl.uses.filter fun u => !u.write).flatMap fun u => u.pages.map fun lp => (u.tile, lp)).eraseDups

/-- Some bank fails a test of the number of local output pages in it. -/
def bankShort (eng : Nat) (pl : Plan) (room : Nat → Nat) : Bool :=
  (List.range 16).any fun b => decide (room b < ((localPages eng pl).filter fun lp => bankOf lp == b).length)

/-- The pages of tiles that a command writes, its own and every destination's, each once. -/
def destPages (pl : Plan) : List (Nat × Nat) := (outputPages pl).eraseDups

/-- Some bank that the command writes, on its own tile or on a destination, has fewer unmapped pages than the command needs shadow pages in it: R78 says "a bank" and names no tile (reason 0x08; DEDUCED, log entry 85). -/
def bankNever (s : State) (pl : Plan) : Bool :=
  let ds := destPages pl
  ds.any fun e =>
    match siteOf s e.1 with
    | none => false
    | some site => decide (48 - countFrames s site (bankOf e.2) .mapped < (ds.filter fun f => f.1 == e.1 && bankOf f.2 == bankOf e.2).length)

/-- The site of a tile engine; rim, gather and motion engines have none. -/
def tileSite (s : State) (eng : Nat) : Nat := (siteOf s eng).getD 0

/-- The reason for which a head command is refused (R78, R620). A fallback command is charged to the margin and has no reserve. -/
def refusalOf (s : State) (eng q : Nat) (x : Slot) : Option Nat :=
  let pl := planOf s eng q x
  let own := firstReason (pl.reasons ++ why (pl.cuses.any (cuseOutside s x.part)) pl.spanReason)
  match own with
  | some 3 => some 3
  | _ => firstReason (own.toList ++ why (pl.uses.any (useBad s)) 4 ++ why (pl.uses.any (useForeign s x.part)) 5 ++ why (syncBad s eng x) 6 ++
      why (decide (q < 4) && decide (0 < slotNeed pl) && decide (getObj s (oRegionReserve x.part) < slotNeed pl + getObj s (oRegionSpan x.part))) 0x10 ++
      why (bankNever s pl) 8)

/-! ### Units -/

/-- The unit of a head command; none for a fence. A failed motion engine is served by its partner (R583). -/
def unitOf (s : State) (eng q : Nat) (x : Slot) : Option Nat :=
  if cUnit x = 4 then none
  else if eng < 32 then some (tileSite s eng * 8 + cUnit x)
  else if eng < 36 then some (512 + (eng - 32))
  else if eng < 40 then some (544 + (eng - 36) * 4 + q)
  else
    let m := eng - 40
    let m := if s.fab.motionFailed.contains m then m ^^^ 1 else m
    some (576 + m * 4 + (match cOpcode x with
      | 1 => 0
      | 2 => 1
      | 5 => 3
      | _ => 2))

/-- A command's rank: fallback, latency-critical, best-effort (R299). -/
def rankOf (s : State) (q : Nat) (x : Slot) : Nat := if q = 4 then 0 else if isLc s x.part then 1 else 2

/-- Engine, queue and slot of a slot key. -/
def slotOfKey (k : Nat) : Nat × Nat × Nat := (k / 256 / 8, k / 256 % 8, k % 256)

/-- The command that holds a unit can be killed for another: best-effort, not DET, still running (R83, R140, R243). -/
def preemptable (s : State) (u : Nat) : Bool :=
  let h := slotOfKey (unitHolder s u - 1)
  let y := getSlot s h.1 h.2.1 h.2.2
  decide (0 < unitHolder s u) && rankOf s h.2.1 y == 2 && !(isDet s y.part) && y.phase == .running

/-- A command may kill for its unit: latency-critical, or fallback; no gather command does (R215). -/
def mayPreempt (s : State) (eng q : Nat) (x : Slot) : Bool := decide (rankOf s q x < 2) && !(decide (36 ≤ eng) && decide (eng < 40))

/-- The unit is free. -/
def unitFree (s : State) (eng q : Nat) (x : Slot) : Bool :=
  match unitOf s eng q x with
  | none => true
  | some u => unitHolder s u == 0

/-- The unit is free, or can be freed by a kill. -/
def unitReady (s : State) (eng q : Nat) (x : Slot) : Bool :=
  match unitOf s eng q x with
  | none => true
  | some u => unitHolder s u == 0 || (mayPreempt s eng q x && preemptable s u)

/-! ### Conditions of dispatch -/

/-- The engine can dispatch: present and not failed, no trip, no evacuation of its tile (R515, R581, R582). -/
def engineUp (s : State) (eng p : Nat) : Bool :=
  !s.pw.computeOff && s.pw.computeTrip.isNone &&
    (if eng < 32 then
      (siteOf s eng).isSome && getObj s (oTileState eng) != 3 && !(s.fab.evac.any fun e => e.site == tileSite s eng) &&
        !(getObj s (oTileState eng) == 2 && s.fab.resetWaits.contains p)
    else getObj s (oEngState eng) != 3 ||
      (decide (40 ≤ eng) && s.fab.motionFailed.contains (eng - 40) && getObj s (oEngState (40 + ((eng - 40) ^^^ 1))) != 3))

/-- The queue serves its head: enabled, not stopped by a reclaim, no kill under way, its partition running (R298, R306). -/
def queueOpen (s : State) (eng q : Nat) (x : Slot) : Bool :=
  let k := getQueue s eng q
  (killingSlots s eng q).isEmpty && engineUp s eng x.part &&
    (q == 4 || (queueEnabled s eng q && !k.stopped && pState s x.part == 2 && !(jobMarked s x.part (cJob x))))

/-- The head command waits for nothing outside its engine: its slot, if so. A command published in this cycle can dispatch from the next (R91). -/
def judgeable (s : State) (eng q : Nat) : Option Nat :=
  match headSlot s eng q with
  | none => none
  | some sl =>
    let x := getSlot s eng q sl
    if x.phase = .waiting ∧ queueOpen s eng q x = true ∧ s.now.published.contains (eng, q, sl) = false ∧ (getQueue s eng q).doomed.contains sl = false ∧
        (cWaits x = false ∨ (getQueue s eng q).latched = true) then some sl else none

/-- A dispatched command that has not committed. -/
def uncommitted : Phase → Bool
  | .running | .finished | .requested | .killing _ _ => true
  | _ => false

/-- Dispatched, uncommitted commands of an engine. -/
def liveSlots (s : State) (eng : Nat) : List (Nat × Nat) :=
  (List.range (queuesOf eng)).flatMap fun q =>
    let k := getQueue s eng q
    ((slotsBetween eng k.commit k.tail).filter fun sl => uncommitted (getSlot s eng q sl).phase).map fun sl => (q, sl)

/-- An earlier command of the engine that has not committed writes one of the output pages (R82). -/
def outputHeld (s : State) (eng : Nat) (pl : Plan) : Bool :=
  let mine := outputPages pl
  (liveSlots s eng).any fun e => (outputPages (planOf s eng e.1 (getSlot s eng e.1 e.2))).any fun p => mine.contains p

/-- The slots that live commands of the region, or of the margin, may still take: footprint pages without a shadow (R206, R207). -/
def owedSlots (s : State) (mine : Tag → Bool) : Nat :=
  sumNat ((s.ci.tags.filter fun t => t.2.st == .live && mine t.2).map fun t => t.2.need - t.2.entries.length)

/-- A tag is free, no live footprint overlaps, and the reserve or the margin has room for what live commands and this one need (R206, R207). -/
def cisternReady (s : State) (q : Nat) (x : Slot) (pl : Plan) : Bool :=
  match writeSpan pl with
  | none => true
  | some (a, b) =>
    (pickTag s (q == 4)).isSome &&
      !(s.ci.tags.any fun t => t.2.st == .live && t.2.part == x.part && decide (t.2.first ≤ b) && decide (a ≤ t.2.last)) &&
      (slotNeed pl == 0 ||
        if q == 4 then decide (marginUse s + owedSlots s (·.fallback) + slotNeed pl ≤ getObj s oCisternFallbackMargin)
        else decide (regionUse s x.part + owedSlots s (fun t => !t.fallback && t.part == x.part) + slotNeed pl ≤ getObj s (oRegionReserve x.part)))

/-- The resources that a command takes are there, but for its unit. -/
def roomReady (s : State) (eng q : Nat) (x : Slot) : Bool :=
  let pl := planOf s eng q x
  !(outputHeld s eng pl) && !(bankShort eng pl fun b => countFrames s (tileSite s eng) b .free) && cisternReady s q x pl

/-! ### Selection (R300, R301) -/

/-- The selection point of a head: a physical tile, or a unit; a fence of another engine is its own point. -/
def pointOf (s : State) (eng q : Nat) (x : Slot) : Nat :=
  if eng < 32 then tileSite s eng * 8 + 7
  else match unitOf s eng q x with
    | some u => u
    | none => 1024 + qKey eng q

/-- A motion engine that serves the other's queues as well, because one of the two has failed (R583). -/
def motionShared (s : State) (eng : Nat) : Bool := s.fab.motionFailed.contains (eng - 40) || s.fab.motionFailed.contains ((eng - 40) ^^^ 1)

/-- Every queue that can meet a head at its selection point, in the order of R300: by logical tile, then engine, then queue. -/
def rivals (s : State) (eng q : Nat) : List (Nat × Nat) :=
  if eng < 32 then ((List.range 32).filter fun t => siteOf s t == siteOf s eng).flatMap fun t => (List.range 4).map fun r => (t, r)
  else if eng < 36 then (List.range 5).map fun r => (eng, r)
  else if eng < 40 then [(eng, q)]
  else
    let m := (eng - 40) ^^^ 1
    (if motionShared s eng then [min eng (40 + m), max eng (40 + m)] else [eng]).flatMap fun e => (List.range 5).map fun r => (e, r)

/-- The place of a queue among those of its point, and their number. -/
def pointIndex (s : State) (eng q : Nat) : Nat × Nat := ((rivals s eng q).idxOf (eng, q), (rivals s eng q).length)

/-- A selection point of a DET partition: one of its queues is bound to one, with enable set (R301). -/
def pointDet (s : State) (eng q : Nat) : Bool :=
  (rivals s eng q).any fun e => decide (e.2 < 4) && queueEnabled s e.1 e.2 && isDet s (queuePart s e.1 e.2)

/-- At a selection point of a DET partition only the queue whose turn the cycle is may dispatch (R301). -/
def detTurn (s : State) (eng q : Nat) : Bool :=
  let i := pointIndex s eng q
  !(pointDet s eng q) || cycle s % i.2 == i.1

/-- A head is ready: judged well, with room, a unit, and its turn. -/
def ready (s : State) (eng q : Nat) : Option Nat :=
  match judgeable s eng q with
  | none => none
  | some sl =>
    let x := getSlot s eng q sl
    if refusalOf s eng q x = none ∧ unitReady s eng q x = true ∧ roomReady s eng q x = true ∧ detTurn s eng q = true then some sl else none

/-- How far a queue stands behind the last winner of its point. -/
def turnAfter (last eng q : Nat) : Nat := if last ≤ qKey eng q then qKey eng q - last else qKey eng q + 1024 - last

/-- The point has dispatched none in this cycle, and no ready rival goes before: a better rank, or the same rank sooner in the rotation. At a selection point of a DET partition a head meets none (R300, R301). -/
def wins (s : State) (eng q sl : Nat) : Bool :=
  let x := getSlot s eng q sl
  let point := pointOf s eng q x
  let last := mapGet 0 s.tl.turns point
  !(s.now.won.contains point) && (pointDet s eng q || (rivals s eng q).all fun r =>
    match ready s r.1 r.2 with
    | none => true
    | some sl' =>
      let z := getSlot s r.1 r.2 sl'
      pointOf s r.1 r.2 z != point || decide (rankOf s q x < rankOf s r.2 z) ||
        (rankOf s q x == rankOf s r.2 z && decide (turnAfter last eng q ≤ turnAfter last r.1 r.2)))

/-! ### Dispatch -/

/-- Pins of the input pages, as mapped now (R87). -/
def takePins (eng q sl : Nat) (pl : Plan) (s : State) : State :=
  (inputPages pl).foldl (fun s e =>
    match seenFrame s e.1 e.2 with
    | some k => updSlot eng q sl (fun y => { y with run := { y.run with pins := y.run.pins ++ [{ tile := e.1, page := e.2, frame := k }] } }) (pinFrame k s)
    | none => s) s

/-- Shadow pages of the local output pages (R82, R107). -/
def takeShadows (eng q sl : Nat) (pl : Plan) (s : State) : State :=
  (localPages eng pl).foldl (fun s lp =>
    match allocShadow eng q sl eng lp s with
    | some (_, s) => s
    | none => s) s

/-- The tag of a command that writes the Cistern (R206). -/
def takeTag (eng q sl : Nat) (pl : Plan) (s : State) : State :=
  match writeSpan pl, pickTag s (q == 4) with
  | some (a, b), some t =>
    let y := getSlot s eng q sl
    let s := setTag t { part := y.part, fallback := q == 4, st := .live, step := y.step, first := a, last := b, need := slotNeed pl, entries := [] } s
    updSlot eng q sl (fun y => { y with run := { y.run with tag := some t } }) s
  | _, _ => s

/-- An engine has a queue bound to a DET partition. -/
def engineDet (s : State) (eng : Nat) : Bool := (List.range 4).any fun q => queueEnabled s eng q && isDet s (queuePart s eng q)

/-- The head command starts on its unit. -/
def startCommand (eng q sl : Nat) (s : State) : State :=
  let x := getSlot s eng q sl
  let pl := planOf s eng q x
  let u := unitOf s eng q x
  let point := pointOf s eng q x
  let s := setSlot eng q sl { x with phase := .running, run := { Run.init with unit := u.getD 0, dispatched := cycle s, cd := seenStep s x.part, serial := seenSerial s, readsCistern := pl.cuses.any fun c => !c.write, unmap := pl.unmap } } s
  let s := takeTag eng q sl pl (takeShadows eng q sl pl (takePins eng q sl pl s))
  let s := match u with
    | some u => setUnit u (sKey eng q sl + 1) s
    | none => s
  let s := { s with tl := { s.tl with turns := mapSet 0 s.tl.turns point (qKey eng q + 1) }, now := { s.now with won := point :: s.now.won } }
  let s := if q = 4 ∧ engineDet s eng = true then perturb s else s
  moveHead eng q (((getQueue s eng q).head + 1) % ptrMod eng) s

/-- The command that holds the unit is killed for a better one (R83, R303). -/
def preempt (eng q sl : Nat) (s : State) : State :=
  match unitOf s eng q (getSlot s eng q sl) with
  | none => s
  | some u =>
    let h := slotOfKey (unitHolder s u - 1)
    startKill false true 0 h.1 h.2.1 h.2.2 s

/-- DISPATCH: the head command of a queue is judged; it is refused, or it starts, or it kills the command that holds its unit and starts once that kill is complete (R78, R82, R83). -/
def execDispatch (eng q : Nat) (s : State) : Out := whenLive s fun s =>
  match judgeable s eng q with
  | none => s
  | some sl =>
    match refusalOf s eng q (getSlot s eng q sl) with
    | some r => refuseCommand eng q sl r s
    | none =>
      match ready s eng q with
      | none => s
      | some sl =>
        if wins s eng q sl then
          if unitFree s eng q (getSlot s eng q sl) then startCommand eng q sl s else preempt eng q sl s
        else s

/-- FENCE: executes in one cycle without a unit (R73). -/
def execFence (eng q sl : Nat) (s : State) : Out := whenLive s fun s =>
  if runs s eng q sl 4 1 then finishCommand eng q sl [] noFlags s else s

end Sys2Proof.Machine
end

