-- ==== Sys2Proof/Machine/Access.lean ====
section
/-!
DEFINITION. The dictionary's windows and latches: command slots (R95), bindings and banks (R96), 64-bit pairs (R459, R460), the sync window and aperture (R339 to R341), host watches (R342) and the replay peek (R361).
-/

namespace Sys2Proof.Machine

/-- A command on an object takes effect where the object exists, else it is an access to an absent object (R447). -/
def onObject (key : Nat) (f : State → State) (s : State) : State :=
  if objExists s (key / 256) (key % 256) then f s else addObj oOdBadAccess 1 s

/-- A read of an object that may be absent (R447). -/
def onRead (m key : Nat) (f : State → Nat × State) (s : State) : State :=
  if objExists s (key / 256) (key % 256) then answer m (f s).1 (f s).2 else absentRead m s

/-! ### 64-bit pairs (R458 to R460) -/

/-- A low half loads the master's write latch. -/
def writeLow (m key v : Nat) (s : State) : State × Ack :=
  (setLatches m { getLatches s m with write := some (key, v % 2 ^ 32) } s, .quiet)

/-- A high half commits the pair through `w` when the latch holds its low half; the latch is then empty. -/
def writeHigh (m key v : Nat) (w : Nat → State → State × Ack) (s : State) : State × Ack :=
  match (getLatches s m).write with
  | some (k, low) =>
    if k = key then w (v % 2 ^ 32 * 2 ^ 32 + low) (setLatches m { getLatches s m with write := none } s)
    else (refuse m (key + 1) 3 v s, .refused 3)
  | none => (refuse m (key + 1) 3 v s, .refused 3)

/-- A read of the low half loads the read latch with the high half. -/
def readLow (m key v : Nat) (s : State) : State :=
  emit (.readData m (v % 2 ^ 32)) (setLatches m { getLatches s m with read := some (key, v / 2 ^ 32 % 2 ^ 32) } s)

/-- A read of the high half: the latch, if the master's last read was the low half of the same pair. -/
def readHigh (m key v : Nat) (s : State) : State :=
  match (getLatches s m).read with
  | some (k, h) => answer m (if k = key then h else v / 2 ^ 32 % 2 ^ 32) s
  | none => answer m (v / 2 ^ 32 % 2 ^ 32) s

/-! ### Command slots (R95, R154, R238, R269) -/

/-- Key of an engine's command data object. -/
def oCmdData (eng : Nat) : Nat := oCmdCursor eng + 1

/-- Queue, slot and word of a command cursor. -/
def cursorParts (eng c : Nat) : Nat × Nat × Nat :=
  (if eng < 32 ∨ (36 ≤ eng ∧ eng < 40) then bits c 17 16 else bits c 18 16,
   if eng < 32 then bits c 15 8 else bits c 13 8, bits c 4 0)

/-- The cursor of a queue, slot and word. -/
def cursorOf (p : Nat × Nat × Nat) : Nat := p.1 * 2 ^ 16 + p.2.1 * 2 ^ 8 + p.2.2

/-- The cursor moved on by one data access (R95). -/
def cursorNext (eng : Nat) (p : Nat × Nat × Nat) : Nat × Nat × Nat :=
  let sl := (p.2.1 + 1) % slotsOf eng
  if p.2.2 = 15 then (p.1, sl, 0) else if p.2.2 = 17 then (p.1, sl, 16) else if 18 ≤ p.2.2 then (p.1, sl, 0) else (p.1, p.2.1, p.2.2 + 1)

/-- Reserved bits of word `i` of a command, by its unit and opcode (R73 to R75, R99, R109, R112, R125, R130, R133, R135, R138, R141, R143, R148, R172, R174, R219, R224, R247, R249, R257, R260, R261). -/
def reservedBits (x : Slot) (i : Nat) : Nat :=
  let all := 0xFFFFFFFF
  let u := cUnit x
  if i = 0 then 0x7FF else if i = 3 then 0xFFFF
  else if i = 5 ∨ i = 7 ∨ i = 9 ∨ i = 11 then (if u < 4 then 0x1FFF else if 5 ≤ u ∧ u ≤ 7 then 0x1F00 else 0)
  else if i < 12 then 0
  else
    let body : List Nat := match u, cOpcode x with
      | 0, 1 => [0x7FF, 0xFF1F, 0, 0x1FFF]
      | 0, 2 | 1, 0x30 => [0x1FF, 3, 0, 0]
      | 1, 1 | 1, 2 => [0, 0x7FFFFF, 0, 0]
      | 1, 0x10 => [0x1FF, 3, 0xFFF00000, 0x3FFF]
      | 1, 0x11 => [0x1FF, 0x1FFF, 0x1FF, all]
      | 1, 0x12 => [0x1FF, 0xFFFFF, all, all]
      | 1, 0x20 | 1, 0x21 => [0x7FF, all, all, all]
      | 2, 1 | 2, 2 | 2, 3 => [0, 0xFFFF, 0, 0]
      | 3, 1 => [0x3F, all, all, all]
      | 3, 2 | 3, 3 => [0x3F, 0, 0x3FF, all]
      | 3, 4 => [0x3F, 0, all, all]
      | 5, 1 | 5, 2 => [0x3F, 0x3F, 0, 3]
      | 5, 3 => [0x3F, 0x3F, 0x1F, 0x3FFF]
      | 6, 1 => [7, 0x7F, 0x3FFFFF00, all]
      | 6, 3 => [0xFF800000, 0xFF800000, all, all]
      | 7, 1 => [7, 0x7FFFFFFF, all, all]
      | 7, 2 => [0, 0, 0, 0xFF]
      | 7, 3 => [0, 0, all, all]
      | 7, 4 => [0xFF, all, all, all]
      | 7, 5 => [0x3F, 0x3F, 0xFF, 0]
      | _, _ => [0, 0, 0, 0]
    body.getD (i - 12) 0

/-- A command word as a read shows it: reserved bits read 0 (R17). -/
def shownWord (x : Slot) (i : Nat) : Nat := cw x i &&& (0xFFFFFFFF ^^^ reservedBits x i)

/-- The word at a cursor (R17, R95). -/
def cursorWord (s : State) (eng : Nat) (p : Nat × Nat × Nat) : Nat :=
  let x := getSlot s eng p.1 p.2.1
  if p.2.2 < 16 then shownWord x p.2.2 else if p.2.2 = 16 then x.rec0.toNat else if p.2.2 = 17 then x.rec1.toNat else 0

/-- A read of the command data. -/
def readCmdData (eng : Nat) (s : State) : Nat × State :=
  let p := cursorParts eng (getObj s (oCmdCursor eng))
  (cursorWord s eng p, setObj (oCmdCursor eng) (cursorOf (cursorNext eng p)) s)

/-- A slot is published: it lies between commit and tail (R79). -/
def slotPublished (s : State) (eng q sl : Nat) : Bool :=
  let x := getQueue s eng q
  (slotsBetween eng x.commit x.tail).contains sl

/-- A write of the command data (R95, R154, R269). -/
def wCmdData (_m eng v : Nat) (s : State) : State × Ack :=
  let p := cursorParts eng (getObj s (oCmdCursor eng))
  if 16 ≤ p.2.2 then (s, .quiet)
  else if p.1 = 4 ∨ slotPublished s eng p.1 p.2.1 = true then (refuseEngine (engRecord eng) (oCmdData eng) 2 v s, .refused 2)
  else
    let s := updSlot eng p.1 p.2.1 (fun y => { y with words := y.words.set p.2.2 (BitVec.ofNat 32 v) }) s
    (setObj (oCmdCursor eng) (cursorOf (cursorNext eng p)) s, .done)

/-- A write of a command cursor: reserved bits read 0; a queue of 5 to 7 is refused (R95, R154, R269). -/
def wCmdCursor (_m eng v : Nat) (s : State) : State × Ack :=
  let p := cursorParts eng v
  if 5 ≤ p.1 then (refuseEngine (engRecord eng) (oCmdCursor eng) 1 v s, .refused 1)
  else (setObj (oCmdCursor eng) (cursorOf p) s, .done)

/-- CMD_DATA_READ (R95). -/
def execCmdDataRead (m eng : Nat) (s : State) : Out := whenFree m (.cmdDataRead m eng) s fun s => onRead m (oCmdData eng) (readCmdData eng) s

/-- CMD_DATA_WRITE (R95). -/
def execCmdDataWrite (m eng value : Nat) (s : State) : Out := whenFree m (.cmdDataWrite m eng value) s fun s =>
  onObject (oCmdData eng) (fun s => (ackWrite (oCmdData eng) (wCmdData m eng value s)).1) s

/-! ### Bindings and banks (R94, R96) -/

/-- A write of a binding is accepted: it only clears enable, or the queue is empty and disabled. R96 lets software enable a queue again in which a command killed after enable was cleared stays published, and says elsewhere that enable is set only on an empty queue: the model takes the special case as an exception to the general one, for a write that only sets enable (DEDUCED, log entry 85). -/
def bindingOk (s : State) (eng q v : Nat) : Bool :=
  let old := getObj s (oBinding eng q)
  let x := getQueue s eng q
  (!(bit v 15) && bits v 3 0 == bits old 3 0) || (x.tail == x.commit && !(bit old 15)) ||
    (x.rerun && bit v 15 && !(bit old 15) && bits v 3 0 == bits old 3 0)

/-- A write of a queue's binding (R94, R96). -/
def wBinding (_m eng q v : Nat) (s : State) : State × Ack :=
  if bindingOk s eng q v then (setObj (oBinding eng q) (v &&& 0x800F) (setQueue eng q { getQueue s eng q with rerun := false } s), .done)
  else (refuseEngine (engRecord eng) (oBinding eng q) 2 v s, .refused 2)

/-- QUEUE_BINDING_WRITE (R96). -/
def execQueueBindingWrite (m eng q value : Nat) (s : State) : Out := whenFree m (.queueBindingWrite m eng q value) s fun s =>
  if q < 4 then onObject (oBinding eng q) (fun s => (ackWrite (oBinding eng q) (wBinding m eng q (value % 65536) s)).1) s
  else addObj oOdBadAccess 1 s

/-- A bank of a logical tile holds a shadow, retired or pinned page. -/
def bankBusy (s : State) (tile bank : Nat) : Bool :=
  match siteOf s tile with
  | none => false
  | some site => (List.range 48).any fun i =>
    let f := getFrame s (fKey site (bank * 48 + i))
    f.st == .shadow || f.st == .retired || decide (0 < f.pins)

/-- A write of bank_owner: every bank whose field changes is quiet (R96). -/
def wBankOwner (m tile v : Nat) (s : State) : State × Ack :=
  let old := getObj s (oTileBankOwner tile)
  if (List.range 16).any fun b => bits v (4 * b + 3) (4 * b) != bits old (4 * b + 3) (4 * b) && bankBusy s tile b then
    (refuse m (oTileBankOwner tile + 1) 2 (v / 2 ^ 32) s, .refused 2)
  else (setObj (oTileBankOwner tile) v s, .done)

/-- A write of bank_valid (R96). -/
def wBankValid (m tile v : Nat) (s : State) : State × Ack :=
  let old := getObj s (oTileBankValid tile)
  if (List.range 16).any fun b => bit v b != bit old b && bankBusy s tile b then (refuse m (oTileBankValid tile) 2 v s, .refused 2)
  else (setObj (oTileBankValid tile) v s, .done)

/-- BANK_OWNER_WRITE: bank_valid, or a half of bank_owner (R96, R460). -/
def execBankOwnerWrite (m tile : Nat) (high valid : Bool) (value : Nat) (s : State) : Out := whenFree m (.bankOwnerWrite m tile high valid value) s fun s =>
  let k := oTileBankOwner tile
  if valid then (ackWrite (oTileBankValid tile) (wBankValid m tile (value % 65536) s)).1
  else if high then (ackWrite k (writeHigh m k value (wBankOwner m tile) s)).1
  else (ackWrite k (writeLow m k value s)).1

/-! ### Sync window and aperture (R339 to R341) -/

/-- A fill runs. -/
def filling (s : State) : Bool := s.sy.fill.isSome

/-- An update of an object is a master's, or of a fill that it started. -/
def ownUpdate (m o : Nat) (u : Update) : Bool := u.object == o && (u.source == .master m || u.source == .fill m)

/-- A fill of a master has still to send its update of an object (R340). -/
def fillOwes (s : State) (m o : Nat) : Bool :=
  match s.sy.fill with
  | some f => f.master == m && decide ((o + 65536 - f.next) % 65536 < f.left)
  | none => false

/-- A master's update of an object waits for an admission point (R354). -/
def admissionWaits (s : State) (m o : Nat) : Bool :=
  s.pt.parts.any fun e => e.2.detPending.any fun d => match d with
    | .sync o' _ _ m' => o' == o && m' == m
    | _ => false

/-- An earlier update of a master to an object has not been applied: it waits in a queue of its bank, at its source, in a fill, or for an admission point (R335). -/
def masterWaits (s : State) (m o : Nat) : Bool :=
  let k := getBank s (o % 16)
  (k.lc ++ k.be ++ k.det ++ s.sy.held).any (ownUpdate m o) || fillOwes s m o || admissionWaits s m o

/-- A read of a count is answered, over the bus or as a USDO upload (R335, R339). -/
def answerCount (m o : Nat) (usdo : Bool) (s : State) : State :=
  if usdo then emit (.usdoData (leBytes 4 (syncCount s o))) s else answer m (syncCount s o) s

/-- A read of a count: answered at once, or once every earlier update of the master to the object has been applied; its later accesses wait behind it (R335, R456). -/
def readCount (m o : Nat) (usdo : Bool) (s : State) : State :=
  if masterWaits s m o then setParked m [.answer o usdo] s else answerCount m o usdo s

/-- A software update of an object: at once, or at the next admission point of a DET partition (R334, R354). -/
def softUpdate (m o : Nat) (set : Bool) (v : Nat) (s : State) : State :=
  match syncOwner s o with
  | some p =>
    if isDet s p then deferEvent p (.sync o set v m) s else sendUpdate { object := o, set := set, value := v, source := .master m, part := 16 } s
  | none => sendUpdate { object := o, set := set, value := v, source := .master m, part := 16 } s

/-- The sync cursor moved on. -/
def syncNext (s : State) : State := setObj oSyncCursor ((getObj s oSyncCursor + 1) % 65536) s

/-- A read of sync.data: the count at the cursor, which moves on unless a fill runs (R335, R339, R340). -/
def readSyncData (m : Nat) (usdo : Bool) (s : State) : State :=
  readCount m (getObj s oSyncCursor % 65536) usdo (if filling s then s else syncNext s)

/-- SYNC_DATA_READ (R335, R339). -/
def execSyncDataRead (m : Nat) (s : State) : Out := whenFree m (.syncDataRead m) s fun s => readSyncData m false s

/-- A write of sync.data or sync.add (R339, R340). -/
def wSync (m key : Nat) (set : Bool) (v : Nat) (s : State) : State × Ack :=
  if filling s then (refuse m key 2 v s, .refused 2)
  else (syncNext (softUpdate m (getObj s oSyncCursor % 65536) set v s), .done)

/-- SYNC_DATA_WRITE (R339). -/
def execSyncDataWrite (m value : Nat) (s : State) : Out := whenFree m (.syncDataWrite m value) s fun s => (ackWrite oSyncData (wSync m oSyncData true value s)).1

/-- SYNC_ADD (R339). -/
def execSyncAdd (m value : Nat) (s : State) : Out := whenFree m (.syncAdd m value) s fun s => (ackWrite oSyncAdd (wSync m oSyncAdd false value s)).1

/-- A write of sync.cursor or of a fill operand: refused while a fill runs (R340). -/
def wSyncPlain (m key v : Nat) (s : State) : State × Ack :=
  if filling s then (refuse m key 2 v s, .refused 2)
  else (setObj key (if key = oSyncCursor then v % 65536 else v) s, .done)

/-- sync.status with a result and the objects left (R345). -/
def setSyncStatus (result left : Nat) (s : State) : State := setObj oSyncStatus (result * 2 ^ 24 + left) s

/-- A write of sync.fill_command (R340, R345). -/
def wSyncFill (m v : Nat) (s : State) : State × Ack :=
  let n := getObj s oSyncFillCount
  if filling s then (refuse m oSyncFillCommand 2 v s, .refused 2)
  else if v ≠ 1 then (refuse m oSyncFillCommand 1 v s, .refused 1)
  else if n = 0 ∨ 65536 < n then (refuse m oSyncFillCommand 1 v s, .refused 1)
  else
    let f : Fill := { next := getObj s oSyncCursor % 65536, left := n, value := getObj s oSyncFillValue, master := m }
    (setSyncStatus 0xFF n { s with sy := { s.sy with fill := some f } }, .done)

/-- SYNC_FILL (R340). -/
def execSyncFill (m : Nat) (s : State) : Out := whenFree m (.syncFill m) s fun s => (ackWrite oSyncFillCommand (wSyncFill m 1 s)).1

/-- Up to `n` set updates of a fill: none while it holds one whose queue is full (R320, R340). -/
def fillSome : Nat → Fill → State → State
  | 0, f, s => setSyncStatus 0xFF f.left { s with sy := { s.sy with fill := some f } }
  | n + 1, f, s =>
    if f.left = 0 ∨ sourceHolds s (.fill f.master) = true then fillSome 0 f s
    else
      fillSome n { f with next := (f.next + 1) % 65536, left := f.left - 1 }
        (sendUpdate { object := f.next, set := true, value := f.value, source := .fill f.master, part := 16 } s)

/-- SYNC_FILL_COMPLETE: every update of the fill has entered its queue; the cursor stands after the last object (R340). -/
def execSyncFillComplete (s : State) : Out := whenLive s fun s =>
  match s.sy.fill with
  | none => s
  | some f =>
    if f.left = 0 ∧ sourceHolds s (.fill f.master) = false then
      setSyncStatus 0 0 (setObj oSyncCursor f.next { s with sy := { s.sy with fill := none } })
    else s

/-- An access to the sync aperture at an offset of its add half or its set half: an aligned 32-bit read returns the count, and a write is an update; a 64-bit write is two, the lower address first; of any other access a read returns all ones and a write is ignored (R341). -/
def apertureAccess (port : Nat) (set : Bool) (off : Nat) (a : BusOp) (s : State) : State :=
  let m := port + 1
  match a with
  | .read n => if n = 4 ∧ off % 4 = 0 then readCount m (off / 4 % 65536) false s else answer m (2 ^ (8 * n) - 1) s
  | .write n enables v =>
    if n = 4 ∧ off % 4 = 0 ∧ enables = 0xF then softUpdate m (off / 4 % 65536) set (v % 2 ^ 32) s
    else if n = 8 ∧ off % 8 = 0 ∧ enables = 0xFF then
      softUpdate m (off / 4 % 65536 + 1) set (v / 2 ^ 32 % 2 ^ 32) (softUpdate m (off / 4 % 65536) set (v % 2 ^ 32) s)
    else s

/-- APERTURE_ADD: an access to the half of the aperture whose writes add (R341). -/
def execApertureAdd (port offset : Nat) (a : BusOp) (s : State) : Out := whenFree (port + 1) (.apertureAdd port offset a) s fun s =>
  apertureAccess port false offset a s

/-- APERTURE_SET: an access to the half of the aperture whose writes set (R341). -/
def execApertureSet (port offset : Nat) (a : BusOp) (s : State) : Out := whenFree (port + 1) (.apertureSet port offset a) s fun s =>
  apertureAccess port true offset a s

/-! ### Host watches (R342, R346) -/

/-- A write of a host watch's control: it arms and sends a probe, or disarms. -/
def wHostWatch (_m w v : Nat) (s : State) : State × Ack :=
  let s := setObj (oHostWatchControl w) (v &&& 0x8FFF) s
  if bit v 15 then
    let o := getObj s (oHostWatchObject w)
    (sendProbe (.hostWatch w) 16 o { s with sy := { s.sy with hostArmed := mapPut s.sy.hostArmed w (o, getObj s (oHostWatchValue w)) } }, .done)
  else ({ s with sy := { s.sy with hostArmed := mapErase s.sy.hostArmed w } }, .done)

/-- HOST_WATCH_ARM (R342): arm is written 1. -/
def execHostWatchArm (m w value : Nat) (s : State) : Out := whenFree m (.hostWatchArm m w value) s fun s =>
  (ackWrite (oHostWatchControl w) (wHostWatch m w (setBit (value % 65536) 15 true) s)).1

/-- HOST_WATCH_DISARM (R346): arm is written 0. -/
def execHostWatchDisarm (m w value : Nat) (s : State) : Out := whenFree m (.hostWatchDisarm m w value) s fun s =>
  (ackWrite (oHostWatchControl w) (wHostWatch m w (setBit (value % 65536) 15 false) s)).1

/-- An entry of a port's MSI-X table is unmasked, and a message held pending is sent (R346). -/
def unmaskVector (port vector : Nat) (s : State) : State :=
  let p := getPcie s port
  let s := setPcie port { p with unmasked := if p.unmasked.contains vector then p.unmasked else vector :: p.unmasked,
                                 msixPending := p.msixPending.filter (· != vector) } s
  if p.msixPending.contains vector then emit (.msix port vector) (notePosted port s) else s

/-- An entry of a port's MSI-X table is masked (R346). -/
def maskVector (port vector : Nat) (s : State) : State :=
  let p := getPcie s port
  setPcie port { p with unmasked := p.unmasked.filter (· != vector) } s

/-- MSIX_VECTOR_UNMASK: the entry is unmasked and a message held pending is sent (R346). -/
def execMsixVectorUnmask (port vector : Nat) (s : State) : Out := whenLive s fun s => unmaskVector port vector s

/-- A word of a port's MSI-X table: message address low and high, message data, and the vector control, whose bit 0 is the mask (R425; the layout is the PCI Express Base Specification's: PRESUMED, log entry 90). -/
def msixWord (s : State) (port i : Nat) : Nat :=
  let v := mapGet 0 s.io.msixTable (8192 * port + i)
  if i % 4 = 3 then setBit v 0 (!((getPcie s port).unmasked.contains (i / 4))) else v

/-- A word of a port's MSI-X table is written (R346, R425). -/
def writeMsixWord (port i v : Nat) (s : State) : State :=
  let w := if i % 4 = 3 then setBit v 0 false else if i % 4 = 0 then v / 4 * 4 else v
  let s := { s with io := { s.io with msixTable := mapSet 0 s.io.msixTable (8192 * port + i) w } }
  if i % 4 ≠ 3 then s else if bit v 0 then maskVector port (i / 4) s else unmaskVector port (i / 4) s

/-- A word of a port's MSI-X pending bit array (R425). -/
def pendingWord (s : State) (port i : Nat) : Nat :=
  sumNat ((List.range 32).map fun b => if (getPcie s port).msixPending.contains (32 * i + b) then 2 ^ b else 0)

/-! ### Replay (R360, R361) -/

/-- The four bytes that a peek returns, if it returns a page's (R361). -/
def peekWord (s : State) (p : Nat) : Option Nat :=
  let c := getObj s (oReplayPeekCursor p)
  let off := bits c 38 2 * 4
  if ¬ replayHeld s p then none
  else if bit c 63 then
    if off < getObj s (oRegionSpan p) * 65536 then
      (slotNow s p (off / 65536)).map fun k => readNat (pageByte (getC s k).page) (off % 65536) 4
    else none
  else
    let tile := bits c 62 58
    if inMask s p tile = true ∧ off / 65536 < 768 then
      (mappedFrame s tile (off / 65536)).map fun k => readNat (pageByte (getFrame s k).page) (off % 65536) 4
    else none

/-- A read of peek_data: the cursor's offset moves on by 4 when bytes were returned (R361). -/
def readPeek (p : Nat) (s : State) : Nat × State :=
  match peekWord s p with
  | some v =>
    let c := getObj s (oReplayPeekCursor p)
    (v, setObj (oReplayPeekCursor p) (setBits c 38 2 (bits c 38 2 + 1)) s)
  | none => (0, s)

/-- PEEK_DATA_READ (R361). -/
def execPeekDataRead (m p : Nat) (s : State) : Out := whenFree m (.peekDataRead m p) s fun s => answer m (readPeek p s).1 (readPeek p s).2

end Sys2Proof.Machine
end

