-- ==== Sys2Proof/Machine/Almanac.lean ====
section
/-!
DEFINITION. The Almanac event recorder (22_almanac.md) and the performance counters (23_long_run_behaviour.md).
-/

namespace Sys2Proof.Machine

/-! ### Records -/

/-- Mark K of R600: a record that may take the last permanent slots. -/
def markK (c : Capture) : Bool :=
  if c.code = 0x0101 then decide (0x10 ≤ c.p0 / 2 ^ 24) && decide (c.p0 / 2 ^ 24 ≤ 0x1E)
  else if c.code = 0x0103 then c.p2 == 2
  else [0x0105, 0x0106, 0x0203, 0x0204, 0x0601, 0x0602, 0x0603, 0x0607, 0x0608, 0x0609, 0x0703].contains c.code

/-- Mark E of R600: a record that sends an EMCY. -/
def markE (c : Capture) : Bool :=
  if c.code = 0x0103 then c.p2 == 2
  else [0x0104, 0x0105, 0x0106, 0x0201, 0x0202, 0x0203, 0x0204, 0x0601, 0x0602, 0x0607, 0x0608, 0x0609, 0x0703].contains c.code

/-- Mark F of R600: a record that takes part in autofreeze. -/
def markF (c : Capture) : Bool := [0x0106, 0x0203, 0x0204, 0x0602, 0x0607, 0x0608].contains c.code

/-- The little-endian bytes of words. -/
def wordsBytes (ws : List Word) : List Byte := ws.flatMap fun w => leBytes 4 w.toNat

/-- Words of a list of little-endian bytes. -/
def bytesWords : Nat → List Byte → List Word
  | 0, _ => []
  | n + 1, bs => BitVec.ofNat 32 (leNat (bs.take 4)) :: bytesWords n (bs.drop 4)

/-- The eight words of a record (R591). -/
def recordWords (c : Capture) (seq epoch : Nat) : List Word :=
  let w := fun n => BitVec.ofNat 32 n
  let ws := [w (c.time % 2 ^ 32), w (c.time / 2 ^ 32), w seq, w (c.code * 65536 + (c.part % 32) * 2048 + c.inst % 2048), w c.p0, w c.p1, w c.p2]
  ws ++ [w (0xA5 * 2 ^ 24 + epoch * 65536 + crc32c (wordsBytes ws) % 65536)]

/-- A slot that holds nothing. -/
def blankSlot : List Word := List.replicate 8 0

/-- Mark of a slot's words. -/
def slotMark (ws : List Word) : Nat := (ws.getD 7 0).toNat / 2 ^ 24

/-- A slot is valid: mark 0xA5 and a matching check (R592). -/
def slotValid (ws : List Word) : Bool :=
  slotMark ws == 0xA5 && (ws.getD 7 0).toNat % 65536 == crc32c (wordsBytes (ws.take 7)) % 65536

/-- The slot's mark becomes 0x00 (R598). -/
def clearMark (ws : List Word) : List Word := ws.set 7 (BitVec.ofNat 32 ((ws.getD 7 0).toNat % 2 ^ 24))

/-- The lowest free permanent slot below `n` (R594). -/
def freePermanent (a : Almanac) (n : Nat) : Option Nat := (List.range n).find? fun i => !(a.used.contains i)

/-- The circulating slot after the last one written (R594). -/
def nextCirculating (a : Almanac) : Nat :=
  match a.lastCirc with
  | none => 4096
  | some 65535 => 4096
  | some i => i + 1

/-- Writes a record's words into a slot. -/
def putSlot (i : Nat) (ws : List Word) (s : State) : State :=
  let s := { s with alm := { s.alm with slots := mapSet blankSlot s.alm.slots i ws } }
  setObj oAlmanacNewest i s

/-- A record placed in permanent slot `i` waits for the mirror (R594, R595). -/
def placePermanent (c : Capture) (i : Nat) (ws : List Word) (s : State) : State :=
  let s := putSlot i ws s
  let s := { s with alm := { s.alm with used := i :: s.alm.used } }
  if s.alm.mirrorFailed then s else { s with alm := { s.alm with pending := s.alm.pending ++ [(i, markK c)] } }

/-- A record sent to the circulating area: placed, or discarded while frozen (R594, R598). -/
def placeCirculating (ws : List Word) (s : State) : State :=
  if s.alm.frozen then addObj oAlmanacLost 1 s
  else
    let i := nextCirculating s.alm
    let s := if s.alm.lastCirc = some 65535 then addObj oAlmanacWraps 1 s else s
    let s := putSlot i ws s
    { s with alm := { s.alm with lastCirc := some i } }

/-- Where a record goes (R594). -/
def placeRecord (c : Capture) (ws : List Word) (s : State) : State :=
  match freePermanent s.alm (if markK c then 4096 else 4032) with
  | some i => placePermanent c i ws s
  | none => placeCirculating ws (if markK c then addObj oAlmanacKeptLost 1 s else s)

/-! ### EMCY -/

/-- The bytes of an EMCY: error code 0xFF00, the error register, the record's code and first parameter (R436; layout DESIGN CHOICE, log entry 7). -/
def emcyBytes (errReg : Nat) (c : Capture) : List Byte := leBytes 2 0xFF00 ++ leBytes 1 errReg ++ leBytes 2 c.code ++ leBytes 4 c.p0

/-- The node may send: a node ID, no bus-off, not initialising (R435, R436). -/
def canTalks (s : State) : Bool := decide (getObj s oCanNodeId ≠ 0) && !s.io.can.busOff && decide (s.io.can.nmt ≠ 0)

/-- Whether the inhibit time of 0x1015 has passed since the last EMCY (R436). -/
def emcyClear (s : State) : Bool :=
  match s.io.can.emcyAt with
  | none => true
  | some t => decide (getObj s oCommEmcyInhibit * 100 ≤ (getObj s oCanTimestamp + 2 ^ 32 - t) % 2 ^ 32)

/-- Sends EMCY data now. -/
def sendEmcy (data : List Byte) (s : State) : State :=
  let s := emit (.can (getObj s oCommCobEmcy % 2 ^ 11) data) s
  { s with io := { s.io with can := { s.io.can with emcyAt := some (getObj s oCanTimestamp) } } }

/-- The error history moved down one place with a new first entry (R436, R468). -/
def pushHistory (v : Nat) (s : State) : State :=
  let old := (List.range 7).map fun i => getObj s (oCommErrorHistory i)
  let s := setObj (oCommErrorHistory 0) v s
  let s := (List.range 7).foldl (fun s i => setObj (oCommErrorHistory (i + 1)) (old.getD i 0) s) s
  setObj oCommErrorCount (min (getObj s oCommErrorCount + 1) 8) s

/-- An appended record with mark E sends an EMCY and updates the error register and history (R601, R436). -/
def emcy (c : Capture) (s : State) : State :=
  let s := setObj oCommErrorRegister (setBit (getObj s oCommErrorRegister) 7 true) s
  let s := pushHistory (c.code * 65536 + 0xFF00) s
  let data := emcyBytes (getObj s oCommErrorRegister) c
  if canTalks s ∧ s.io.can.nmt ≠ 4 ∧ ¬ objBit s oCommCobEmcy 31 then
    if emcyClear s ∧ s.io.can.emcyQueue = [] then sendEmcy data s
    else { s with io := { s.io with can := { s.io.can with emcyQueue := s.io.can.emcyQueue ++ [data] } } }
  else s

/-- One capture becomes a record: sequence number, place, EMCY, autofreeze (R592 to R594, R598, R601). -/
def appendRecord (c : Capture) (s : State) : State :=
  let ws := recordWords c (getObj s oAlmanacNextSeq) (getObj s oAlmanacEpoch)
  let s := addObj oAlmanacNextSeq 1 s
  let s := placeRecord c ws s
  let s := if markE c then emcy c s else s
  if markF c ∧ objBit s oAlmanacAutofreeze 0 then { s with alm := { s.alm with frozen := true } } else s

/-- With room in the queue, the discarded captures are captured as 0x0701 (R590). -/
def captureDiscarded (s : State) : State :=
  if s.alm.discarded = 0 then s
  else
    let n := s.alm.discarded
    capture 0x0701 31 0 n 0 0 { s with alm := { s.alm with discarded := 0 } }

/-- Weir runs and does not restart. -/
def weirReady (s : State) : Bool := s.fw.weirUp && s.fw.weirRestart.isNone

/-- RECORD_APPEND: Weir takes the oldest capture and appends its record (R590, R592). -/
def execRecordAppend (s : State) : Out := whenLive s fun s =>
  if weirReady s then
    match s.alm.queue with
    | [] => s
    | c :: rest => (captureDiscarded (appendRecord c { s with alm := { s.alm with queue := rest } }))
  else s

/-! ### The mirror -/

/-- Flash offset of permanent slot `i` in mirror region `r` (R475, R595). -/
def mirrorAt (r i : Nat) : Nat := 0x90000 + r * 0x20000 + 32 * i

/-- A byte of flash; erased flash reads 0xFF (DESIGN CHOICE for flash never programmed, log entry 5). -/
def flashByte (s : State) (a : Nat) : Byte := mapGet 0xFF s.flash a

/-- Bytes programmed into flash. -/
def flashWrite (a : Nat) : List Byte → State → State
  | [], s => s
  | b :: bs, s => flashWrite (a + 1) bs { s with flash := mapSet 0xFF s.flash a b }

/-- A range of flash erased. -/
def flashErase (a n : Nat) (s : State) : State :=
  { s with flash := s.flash.filter fun e => !(decide (a ≤ e.1) && decide (e.1 < a + n)) }

/-- The record to program next: marked K before the others, then in order (R595). -/
def nextMirror (a : Almanac) : Option (Nat × Bool) :=
  match a.pending.find? (·.2) with
  | some x => some x
  | none => a.pending.head?

/-- 32 free bytes: what a failed program leaves. -/
def freeBytes (s : State) (n : Nat) : List Byte := (List.range n).map fun i => Config.freeByte s.free i

/-- MIRROR_PROGRAM: the next pending record is programmed and read back; `same` says that the read-back agrees (R595). -/
def execMirrorProgram (same : Bool) (s : State) : Out := whenLive s fun s =>
  if weirReady s ∧ ¬ s.alm.mirrorFailed then
    match nextMirror s.alm with
    | none => s
    | some (i, k) =>
      let at_ := mirrorAt s.alm.region i
      let s := { s with alm := { s.alm with pending := s.alm.pending.filter fun e => !(e == (i, k)) } }
      if same then (flashWrite at_ (wordsBytes (mapGet blankSlot s.alm.slots i)) s)
      else (capture 0x0703 31 s.alm.region i 0 0
        (flashWrite at_ (freeBytes s 32) (useFree { s with alm := { s.alm with mirrorFailed := true, pending := [] } })))
  else s

/-- MIRROR_REGION_ERASE_COMPLETE: a background erase ends (R596, R598). -/
def execMirrorRegionEraseComplete (region : Nat) (s : State) : Out := whenLive s fun s =>
  if s.alm.erasing.contains region then
    { flashErase (0x90000 + region * 0x20000) 0x20000 s with alm := { s.alm with erasing := s.alm.erasing.filter (· != region) } }
  else s

/-- Slot `i` of mirror region `r` as its words. -/
def mirrorWords (s : State) (r i : Nat) : List Word := bytesWords 8 (readBytes (flashByte s) (mirrorAt r i) 32)

/-- Permanent slots of a region that hold a programmed byte. -/
def regionSlots (s : State) (r : Nat) : List Nat :=
  ((s.flash.filter fun e => decide (mirrorAt r 0 ≤ e.1) && decide (e.1 < mirrorAt r 4096)).map fun e => (e.1 - mirrorAt r 0) / 32).eraseDups

/-- The latest epoch among a region's valid records (R596). -/
def regionEpoch (s : State) (r : Nat) : Option Nat :=
  ((regionSlots s r).filter fun i => slotValid (mirrorWords s r i)).foldl (fun best i =>
    let e := ((mirrorWords s r i).getD 7 0).toNat / 65536 % 256
    match best with
    | none => some e
    | some b => if (e + 256 - b) % 256 < 128 then some e else some b) none

/-- The region whose records are the latest (R596); region 0 where none holds a record. -/
def activeRegion (s : State) : Nat × Nat :=
  (List.range 3).foldl (fun (best : Nat × Nat × Bool) r =>
    match regionEpoch s r, best with
    | none, b => b
    | some e, (_, _, false) => (r, e, true)
    | some e, (b, be, true) => if e ≠ be ∧ (e + 256 - be) % 256 < 128 then (r, e, true) else (b, be, true)) (0, 0, false)
    |> fun x => (x.1, x.2.1)

/-- Weir restores the permanent area from the mirror at step 1 (R593, R596). -/
def restoreAlmanac (s : State) : State :=
  let (r, e) := activeRegion s
  let used := regionSlots s r
  let slots := used.foldl (fun m i => mapSet blankSlot m i (mirrorWords s r i)) []
  let seqs := (used.filter fun i => slotValid (mirrorWords s r i)).map fun i => ((mirrorWords s r i).getD 2 0).toNat
  let next := match seqs with
    | [] => 0
    | q :: qs => (qs.foldl (fun b q => if (q + 2 ^ 32 - b) % 2 ^ 32 < 2 ^ 31 then q else b) q + 1) % 2 ^ 32
  let s := { s with alm := { Almanac.init with slots := slots, used := used, region := r, erasing := (List.range 3).filter fun x => x != r && !(regionSlots s x).isEmpty } }
  setObj oAlmanacEpoch e (setObj oAlmanacNextSeq next s)

/-! ### The window and the commands -/

/-- almanac.state (R605). -/
def almanacState (s : State) : Nat :=
  let a := s.alm
  let mirror := if a.mirrorFailed then 3 else if a.pending ≠ [] then 1 else if a.erasing ≠ [] then 2 else 0
  mirror * 64 + a.region * 16 + b2n (freePermanent a 4032).isNone * 4 + b2n (freePermanent a 4096).isNone * 2 + b2n a.frozen

/-- almanac.oldest: the first valid circulating slot after the last one written (R604). -/
def almanacOldest (s : State) : Nat :=
  let nxt := nextCirculating s.alm
  let valid := (s.alm.slots.filter fun e => decide (4096 ≤ e.1) && slotValid e.2).map (·.1)
  match valid with
  | [] => 0x1000
  | v :: vs => vs.foldl (fun b i => if (i + 61440 - nxt) % 61440 < (b + 61440 - nxt) % 61440 then i else b) v

/-- One read of almanac.data: the word and the window moved on (R597). -/
def almanacRead (s : State) : Nat × State :=
  let c := getObj s oAlmanacCursor
  let s := if c % 8 = 0 then { s with alm := { s.alm with snapshot := mapGet blankSlot s.alm.slots (c / 8 % 65536) } } else s
  ((s.alm.snapshot.getD (c % 8) 0).toNat, setObj oAlmanacCursor ((c + 1) % 2 ^ 19) s)

/-- ALMANAC_DATA_READ (R597). -/
def execAlmanacDataRead (m : Nat) (s : State) : Out := whenFree m (.almanacDataRead m) s fun s => (answer m (almanacRead s).1 (almanacRead s).2)

/-- The record of an accepted almanac command (R598). -/
def almanacDone (cmd : Nat) (s : State) : State := capture 0x0702 31 0 cmd (getObj s oAlmanacEpoch) 0 s

/-- The next erased region after the active one, in the order 0, 1, 2, 0 (R598). -/
def nextErased (s : State) : Option Nat :=
  [(s.alm.region + 1) % 3, (s.alm.region + 2) % 3].find? fun r => !(s.alm.erasing.contains r) && (regionSlots s r).isEmpty

/-- The mark byte cleared in every slot of an area (R598). -/
def clearMarks (area : Nat → Bool) (m : SMap (List Word)) : SMap (List Word) :=
  (m.map fun e => (e.1, if area e.1 then clearMark e.2 else e.2)).filter fun e => e.2 != blankSlot

/-- Command 0x04: clear the permanent area (R598). -/
def clearPermanentAction (r : Nat) (s : State) : State :=
  let old := s.alm.region
  let s := { s with alm := { s.alm with slots := clearMarks (fun i => decide (i < 4096)) s.alm.slots, used := [],
                                        pending := [], region := r, erasing := s.alm.erasing ++ [old] } }
  setObj oAlmanacEpoch ((getObj s oAlmanacEpoch + 1) % 256) s

/-- Command 0x03: clear the circulating area (R598). -/
def clearCirculatingAction (s : State) : State :=
  setObj oAlmanacWraps 0
    { s with alm := { s.alm with slots := clearMarks (fun i => decide (4096 ≤ i)) s.alm.slots, lastCirc := none } }

/-- A write of almanac.command (R598). -/
def wAlmanacCommand (m v : Nat) (s : State) : State × Ack :=
  if v = 1 then (almanacDone 1 { s with alm := { s.alm with frozen := true } }, .done)
  else if v = 2 then (almanacDone 2 { s with alm := { s.alm with frozen := false } }, .done)
  else if v = 3 then (almanacDone 3 (clearCirculatingAction s), .done)
  else if v = 4 then
    match nextErased s with
    | some r => (almanacDone 4 (clearPermanentAction r s), .done)
    | none => (refuse m oAlmanacCommand 2 v s, .refused 2)
  else (refuse m oAlmanacCommand 1 v s, .refused 1)

/-- FREEZE (R598). -/
def execFreeze (m : Nat) (s : State) : Out := whenFree m (.freeze m) s fun s => (ackWrite oAlmanacCommand (wAlmanacCommand m 1 s)).1

/-- THAW (R598). -/
def execThaw (m : Nat) (s : State) : Out := whenFree m (.thaw m) s fun s => (ackWrite oAlmanacCommand (wAlmanacCommand m 2 s)).1

/-- CLEAR_CIRCULATING (R598). -/
def execClearCirculating (m : Nat) (s : State) : Out := whenFree m (.clearCirculating m) s fun s => (ackWrite oAlmanacCommand (wAlmanacCommand m 3 s)).1

/-- CLEAR_PERMANENT (R598). -/
def execClearPermanent (m : Nat) (s : State) : Out := whenFree m (.clearPermanent m) s fun s => (ackWrite oAlmanacCommand (wAlmanacCommand m 4 s)).1

/-! ### Performance counters -/

/-- Events and instances of R612 that the grade has. -/
def perfEventOk (s : State) (v : Nat) : Bool :=
  let code := v / 256 % 256
  let i := v % 256
  let small := grade s == 2
  if code ≤ 1 then true
  else if code ≤ 3 then decide (i < 16)
  else if code ≤ 5 then decide (i < 32)
  else if code ≤ 7 then if small then [0, 4, 5].contains i else decide (i < 8)
  else if code ≤ 0xA then decide (i < if small then 4 else 8)
  else if code = 0xB then decide (i < if small then 4 else 8)
  else if code = 0xC then decide (i < 16)
  else if code = 0xD then decide (i < 32)
  else false

/-- A write of perf[c].event: the count becomes 0, an increment of the old event in this cycle is lost, and the new event counts from the next (R612, R613, R616). -/
def wPerfEvent (m c v : Nat) (s : State) : State × Ack :=
  if perfEventOk s v then
    (setObj (oPerfEvent c) v (setObj (oPerfValue c) 0
      { s with now := { s.now with perf := s.now.perf.filter (fun e => e.1 != c), perfNew := c :: s.now.perfNew } }), .done)
  else (refuse m (oPerfEvent c) 1 v s, .refused 1)

/-- perf.command 0x01: one sample of every counter, before the increments of this cycle (R614, R616). -/
def perfSampleAll (s : State) : State :=
  setObj oPerfSampleTime (cycle s) ((List.range 64).foldl (fun s c => setObj (oPerfSample c) (perfBefore s c) s) s)

/-- perf.command 0x02: every count and flag 0; the events of this cycle then count (R609, R614). -/
def perfClearAll (s : State) : State := (List.range 64).foldl (fun s c => perfLoad c 0 s) s

/-- A write of perf.command (R614). -/
def wPerfCommand (m v : Nat) (s : State) : State × Ack :=
  if v = 1 then (perfSampleAll s, .done)
  else if v = 2 then (perfClearAll s, .done)
  else (refuse m oPerfCommand 1 v s, .refused 1)

/-- PERF_SAMPLE (R614). -/
def execPerfSample (m : Nat) (s : State) : Out := whenFree m (.perfSample m) s fun s => (ackWrite oPerfCommand (wPerfCommand m 1 s)).1

/-- PERF_CLEAR (R614). -/
def execPerfClear (m : Nat) (s : State) : Out := whenFree m (.perfClear m) s fun s => (ackWrite oPerfCommand (wPerfCommand m 2 s)).1

/-- PERF_EVENT_WRITE (R613). -/
def execPerfEventWrite (m c value : Nat) (s : State) : Out := whenFree m (.perfEventWrite m c value) s fun s => (ackWrite (oPerfEvent c) (wPerfEvent m c (value % 65536) s)).1

end Sys2Proof.Machine
end

