-- ==== Sys2Proof/Machine/Crypto.lean ====
section
/-!
DEFINITION. The two algorithms that R479 names: the SHA-384 digest and ECDSA verification over NIST P-384 (FIPS 180-4 and FIPS 186-5; PRESUMED, log entry 8).
-/

namespace Sys2Proof.Machine

/-- The round constants of SHA-512. -/
def shaK : List Nat :=
  [0x428a2f98d728ae22, 0x7137449123ef65cd, 0xb5c0fbcfec4d3b2f, 0xe9b5dba58189dbbc] ++
  [0x3956c25bf348b538, 0x59f111f1b605d019, 0x923f82a4af194f9b, 0xab1c5ed5da6d8118] ++
  [0xd807aa98a3030242, 0x12835b0145706fbe, 0x243185be4ee4b28c, 0x550c7dc3d5ffb4e2] ++
  [0x72be5d74f27b896f, 0x80deb1fe3b1696b1, 0x9bdc06a725c71235, 0xc19bf174cf692694] ++
  [0xe49b69c19ef14ad2, 0xefbe4786384f25e3, 0xfc19dc68b8cd5b5, 0x240ca1cc77ac9c65] ++
  [0x2de92c6f592b0275, 0x4a7484aa6ea6e483, 0x5cb0a9dcbd41fbd4, 0x76f988da831153b5] ++
  [0x983e5152ee66dfab, 0xa831c66d2db43210, 0xb00327c898fb213f, 0xbf597fc7beef0ee4] ++
  [0xc6e00bf33da88fc2, 0xd5a79147930aa725, 0x6ca6351e003826f, 0x142929670a0e6e70] ++
  [0x27b70a8546d22ffc, 0x2e1b21385c26c926, 0x4d2c6dfc5ac42aed, 0x53380d139d95b3df] ++
  [0x650a73548baf63de, 0x766a0abb3c77b2a8, 0x81c2c92e47edaee6, 0x92722c851482353b] ++
  [0xa2bfe8a14cf10364, 0xa81a664bbc423001, 0xc24b8b70d0f89791, 0xc76c51a30654be30] ++
  [0xd192e819d6ef5218, 0xd69906245565a910, 0xf40e35855771202a, 0x106aa07032bbd1b8] ++
  [0x19a4c116b8d2d0c8, 0x1e376c085141ab53, 0x2748774cdf8eeb99, 0x34b0bcb5e19b48a8] ++
  [0x391c0cb3c5c95a63, 0x4ed8aa4ae3418acb, 0x5b9cca4f7763e373, 0x682e6ff3d6b2b8a3] ++
  [0x748f82ee5defb2fc, 0x78a5636f43172f60, 0x84c87814a1f0ab72, 0x8cc702081a6439ec] ++
  [0x90befffa23631e28, 0xa4506cebde82bde9, 0xbef9a3f7b2c67915, 0xc67178f2e372532b] ++
  [0xca273eceea26619c, 0xd186b8c721c0c207, 0xeada7dd6cde0eb1e, 0xf57d4f7fee6ed178] ++
  [0x6f067aa72176fba, 0xa637dc5a2c898a6, 0x113f9804bef90dae, 0x1b710b35131c471b] ++
  [0x28db77f523047d84, 0x32caab7b40c72493, 0x3c9ebe0a15c9bebc, 0x431d67c49c100d4c] ++
  [0x4cc5d4becb3e42b6, 0x597f299cfc657e2a, 0x5fcb6fab3ad6faec, 0x6c44198c4a475817]

/-- The eight working words. -/
structure ShaWords where
  a : Nat
  b : Nat
  c : Nat
  d : Nat
  e : Nat
  f : Nat
  g : Nat
  h : Nat
deriving DecidableEq, Repr

/-- The initial words of SHA-384. -/
def sha384Init : ShaWords :=
  { a := 0xcbbb9d5dc1059ed8, b := 0x629a292a367cd507, c := 0x9159015a3070dd17, d := 0x152fecd8f70e5939,
    e := 0x67332667ffc00b31, f := 0x8eb44a8768581511, g := 0xdb0c2e0d64f98fa7, h := 0x47b5481dbefa4fa4 }

/-- Rotate a 64-bit word right. -/
def rotr64 (x n : Nat) : Nat := ((x >>> n) ||| (x <<< (64 - n))) % 2 ^ 64

/-- The schedule word after `rev`, the words so far, latest first. -/
def shaNext (rev : List Nat) : Nat :=
  let w15 := rev.getD 14 0
  let w2 := rev.getD 1 0
  let s0 := rotr64 w15 1 ^^^ rotr64 w15 8 ^^^ (w15 >>> 7)
  let s1 := rotr64 w2 19 ^^^ rotr64 w2 61 ^^^ (w2 >>> 6)
  (s1 + rev.getD 6 0 + s0 + rev.getD 15 0) % 2 ^ 64

/-- The schedule extended by `n` words. -/
def shaExtend : Nat → List Nat → List Nat
  | 0, rev => rev
  | n + 1, rev => shaExtend n (shaNext rev :: rev)

/-- One round with its constant and schedule word. -/
def shaRound (v : ShaWords) (kw : Nat × Nat) : ShaWords :=
  let s1 := rotr64 v.e 14 ^^^ rotr64 v.e 18 ^^^ rotr64 v.e 41
  let ch := (v.e &&& v.f) ^^^ ((2 ^ 64 - 1 - v.e) &&& v.g)
  let t1 := v.h + s1 + ch + kw.1 + kw.2
  let s0 := rotr64 v.a 28 ^^^ rotr64 v.a 34 ^^^ rotr64 v.a 39
  let mj := (v.a &&& v.b) ^^^ (v.a &&& v.c) ^^^ (v.b &&& v.c)
  { a := (t1 + s0 + mj) % 2 ^ 64, b := v.a, c := v.b, d := v.c, e := (v.d + t1) % 2 ^ 64, f := v.e, g := v.f, h := v.g }

/-- The big-endian number of a list of bytes. -/
def beNat (bs : List Byte) : Nat := bs.foldl (fun n b => n * 256 + b.toNat) 0

/-- The `n` big-endian bytes of a number. -/
def beBytes (n v : Nat) : List Byte := (leBytes n v).reverse

/-- The 16 words of a block of 128 bytes. -/
def blockWords : Nat → List Byte → List Nat
  | 0, _ => []
  | n + 1, bs => beNat (bs.take 8) :: blockWords n (bs.drop 8)

/-- One block folded into the words. -/
def shaBlock (v : ShaWords) (bs : List Byte) : ShaWords :=
  let ws := (shaExtend 64 (blockWords 16 bs).reverse).reverse
  let r := (shaK.zip ws).foldl shaRound v
  { a := (v.a + r.a) % 2 ^ 64, b := (v.b + r.b) % 2 ^ 64, c := (v.c + r.c) % 2 ^ 64, d := (v.d + r.d) % 2 ^ 64,
    e := (v.e + r.e) % 2 ^ 64, f := (v.f + r.f) % 2 ^ 64, g := (v.g + r.g) % 2 ^ 64, h := (v.h + r.h) % 2 ^ 64 }

/-- `n` blocks folded in. -/
def shaBlocks : Nat → ShaWords → List Byte → ShaWords
  | 0, v, _ => v
  | n + 1, v, bs => shaBlocks n (shaBlock v (bs.take 128)) (bs.drop 128)

/-- The padded message: a one bit, zeros, and the length in 128 bits. -/
def shaPad (bs : List Byte) : List Byte :=
  let n := bs.length
  bs ++ [(0x80 : Byte)] ++ List.replicate ((239 - n % 128) % 128) 0 ++ beBytes 16 (8 * n)

/-- SHA-384: the first 48 bytes of the words. -/
def sha384 (bs : List Byte) : List Byte :=
  let p := shaPad bs
  let v := shaBlocks (p.length / 128) sha384Init p
  beBytes 8 v.a ++ beBytes 8 v.b ++ beBytes 8 v.c ++ beBytes 8 v.d ++ beBytes 8 v.e ++ beBytes 8 v.f

/-- The field prime of P-384. -/
def p384p : Nat := 2 ^ 384 - 2 ^ 128 - 2 ^ 96 + 2 ^ 32 - 1

/-- The order of the group. -/
def p384n : Nat := 0xffffffffffffffffffffffffffffffffffffffffffffffffc7634d81f4372ddf581a0db248b0a77aecec196accc52973

/-- The coefficient b. -/
def p384b : Nat := 0xb3312fa7e23ee7e4988e056be3f82d19181d9c6efe8141120314088f5013875ac656398d8a2ed19d2a85c8edd3ec2aef

/-- The base point. -/
def p384gx : Nat := 0xaa87ca22be8b05378eb1c71ef320ad746e1d3b628ba79b9859f741e082542a385502f25dbf55296c3a545e3872760ab7

/-- Its second coordinate. -/
def p384gy : Nat := 0x3617de4a96262c6f5d9e98bf9292dc29f8f41dbd289a147ce9da3113b5f0b8c00a60b1ce1d7e819d7a431d7c90ea0e5f

/-- `b ^ e mod m` over the low `n` bits of `e`. -/
def powMod (m b e : Nat) : Nat → Nat
  | 0 => 1 % m
  | n + 1 =>
    let h := powMod m b (e / 2) n
    let q := h * h % m
    if e % 2 = 1 then q * b % m else q

/-- Inverse modulo a prime. -/
def invMod (m a : Nat) : Nat := powMod m a (m - 2) 384

/-- A point in Jacobian coordinates; z = 0 is the point at infinity. -/
structure JPoint where
  x : Nat
  y : Nat
  z : Nat
deriving DecidableEq, Repr

/-- The point at infinity. -/
def jZero : JPoint := { x := 1, y := 1, z := 0 }

/-- Subtraction modulo p. -/
def subP (a b : Nat) : Nat := (a + p384p - b % p384p) % p384p

/-- Twice a point. -/
def jDouble (q : JPoint) : JPoint :=
  if q.z = 0 ∨ q.y = 0 then jZero
  else
    let zz := q.z * q.z % p384p
    let m := 3 * (subP q.x zz * ((q.x + zz) % p384p) % p384p) % p384p
    let yy := q.y * q.y % p384p
    let s := 4 * q.x * yy % p384p
    let x := subP (m * m % p384p) (2 * s)
    { x := x, y := subP (m * subP s x % p384p) (8 * yy * yy % p384p), z := 2 * q.y * q.z % p384p }

/-- The sum of two points. -/
def jAdd (q r : JPoint) : JPoint :=
  if q.z = 0 then r else if r.z = 0 then q
  else
    let zq := q.z * q.z % p384p
    let zr := r.z * r.z % p384p
    let u1 := q.x * zr % p384p
    let u2 := r.x * zq % p384p
    let s1 := q.y * (r.z * zr % p384p) % p384p
    let s2 := r.y * (q.z * zq % p384p) % p384p
    if u1 = u2 then (if s1 = s2 then jDouble q else jZero)
    else
      let h := subP u2 u1
      let w := subP s2 s1
      let hh := h * h % p384p
      let hhh := h * hh % p384p
      let v := u1 * hh % p384p
      let x := subP (w * w % p384p) (hhh + 2 * v)
      { x := x, y := subP (w * subP v x % p384p) (s1 * hhh % p384p), z := h * (q.z * r.z % p384p) % p384p }

/-- `k` times a point, over the low `n` bits of `k`. -/
def jMul (q : JPoint) (k : Nat) : Nat → JPoint
  | 0 => jZero
  | n + 1 =>
    let d := jDouble (jMul q (k / 2) n)
    if k % 2 = 1 then jAdd d q else d

/-- The affine first coordinate. -/
def jX (q : JPoint) : Nat :=
  let i := invMod p384p q.z
  q.x * (i * i % p384p) % p384p

/-- A public key is a point of the curve. -/
def onCurve (x y : Nat) : Bool :=
  decide (x < p384p) && decide (y < p384p) && decide (y * y % p384p = (x * x % p384p * x + (p384p - 3) * x + p384b) % p384p)

/-- ECDSA verification: key as 97 bytes (4, X, Y), signature as r and s of 48 bytes each, over a digest. -/
def ecdsaVerify (key sig digest : List Byte) : Bool :=
  let x := beNat ((key.drop 1).take 48)
  let y := beNat ((key.drop 49).take 48)
  let r := beNat (sig.take 48)
  let t := beNat ((sig.drop 48).take 48)
  if key.take 1 = [4] ∧ onCurve x y ∧ 0 < r ∧ r < p384n ∧ 0 < t ∧ t < p384n then
    let w := invMod p384n t
    let u1 := beNat digest * w % p384n
    let u2 := r * w % p384n
    let q := jAdd (jMul { x := p384gx, y := p384gy, z := 1 } u1 384) (jMul { x := x, y := y, z := 1 } u2 384)
    decide (q.z ≠ 0) && decide (jX q % p384n = r)
  else false

end Sys2Proof.Machine
end

