-- ==== Sys2Proof/Machine/Firmware.lean ====
section
/-!
DEFINITION. Weir and Rill firmware (17_weir_and_rill.md): flash slots, signed images, the activation record, starts, restarts and supervision of Rill, firmware commands, and the restart of Weir (R584).
-/

namespace Sys2Proof.Machine

/-! ### Slots and images -/

/-- Targets of fw.target that exist (R495). -/
def fwTargetOk (t : Nat) : Bool := decide (t < 4) || (decide (0x10 ≤ t) && decide (t < 0x14))

/-- Flash offset of a target (R475). -/
def targetAt (t : Nat) : Nat :=
  if t = 0 then 0x10000 else if t = 1 then 0x50000 else if t = 2 then 0x100000 else if t = 3 then 0x1100000
  else 0x4000000 + 0x3000000 * (t - 0x10)

/-- Blocks of 64 KiB of a target (R475). -/
def targetBlocks (t : Nat) : Nat := if t < 2 then 4 else if t < 4 then 256 else 768

/-- Place of a target in fw.slot_state (R496). -/
def targetSlot (t : Nat) : Nat := if t < 4 then t else 4 + (t - 0x10)

/-- fw.slot_state of a target set. -/
def setSlotState (t v : Nat) (s : State) : State := setField oFwSlotState (2 * targetSlot t + 1) (2 * targetSlot t) v s

/-- `n` bytes of flash. -/
def flashRead (s : State) (a n : Nat) : List Byte := readBytes (flashByte s) a n

/-- A little-endian field of flash. -/
def flashNat (s : State) (a n : Nat) : Nat := leNat (flashRead s a n)

/-- The magic number of a Weir or Rill target (R478). -/
def targetMagic (t : Nat) : Nat := if t < 2 then 0x52494557 else 0x4C4C4952

/-- The length field is within its limit (R478). -/
def imageLengthOk (t n : Nat) : Bool :=
  n % 32 == 0 && decide (32 ≤ n) && decide (n ≤ if t < 2 then 131072 else 16776928)

/-- A Weir or Rill target verifies (R479). -/
def slotVerifies (s : State) (t : Nat) : Bool :=
  let a := targetAt t
  let n := flashNat s (a + 8) 4
  let k := flashNat s (a + 0x0C) 1
  flashNat s a 4 == targetMagic t && imageLengthOk t n && decide (k < 4) && !(bit s.fab.board.revoked k) &&
    sha384 (flashRead s (a + 0x40) 97) == s.fab.board.digests.getD k [] &&
    ecdsaVerify (flashRead s (a + 0x40) 97) (flashRead s (a + 0xC0 + n) 96) (sha384 (flashRead s a (0xC0 + n)))

/-- One copy of the activation record: sequence, Weir slot, Rill slot, if its CRC holds (R476; fields of 4 bytes: DESIGN CHOICE, log entry 9). -/
def recordCopy (s : State) (i : Nat) : Option (Nat × Nat × Nat) :=
  let a := 0x8000 * i
  if flashNat s (a + 12) 4 = crc32c (flashRead s a 12) then
    some (flashNat s a 4, flashNat s (a + 4) 4 % 2, flashNat s (a + 8) 4 % 2)
  else none

/-- The activation record in effect and the copy that holds it (R476); slots A with sequence 0 where neither copy is valid (log entry 9). -/
def activation (s : State) : (Nat × Nat × Nat) × Nat :=
  match recordCopy s 0, recordCopy s 1 with
  | some a, some b => if a.1 < b.1 then (b, 1) else (a, 0)
  | some a, none => (a, 0)
  | none, some b => (b, 1)
  | none, none => ((0, 0, 0), 1)

/-- An activation writes the other copy with the next sequence number (R476). -/
def writeActivation (weir rill : Nat) (s : State) : State :=
  let (r, i) := activation s
  let bs := leBytes 4 ((r.1 + 1) % 2 ^ 32) ++ leBytes 4 weir ++ leBytes 4 rill
  flashWrite (0x8000 * (1 - i)) (bs ++ leBytes 4 (crc32c bs)) (flashErase (0x8000 * (1 - i)) 0x8000 s)

/-! ### Compatibility -/

/-- The compatibility table of a Weir slot, as words (R471, R478). -/
def readCompat (s : State) (t : Nat) : List (List Word) :=
  let a := targetAt t
  let off := flashNat s (a + 0x18) 4
  (List.range (min (flashNat s (a + 0x1C) 2) 256)).map fun i => bytesWords 4 (flashRead s (a + 0xC0 + off + 16 * i) 16)

/-- Word `i` of a compatibility entry. -/
def compatWord (e : List Word) (i : Nat) : Nat := (e.getD i 0).toNat

/-- Entries that name the running pair (R472). -/
def pairEntries (s : State) (rill : Nat) : List (List Word) :=
  s.fw.compat.filter fun e => compatWord e 0 == getObj s oIdentWeirVersion && compatWord e 1 == rill

/-- Weir and Rill are tested together (R472). -/
def pairTested (s : State) (rill : Nat) : Bool := !(pairEntries s rill).isEmpty

/-- A program image is tested with the running pair (R472). -/
def imageTested (s : State) (v : Nat) : Bool :=
  (pairEntries s (getObj s oIdentRillVersion)).any fun e =>
    compatWord e 2 / 65536 == v / 65536 && decide (compatWord e 3 % 65536 ≤ v % 65536) && decide (v % 65536 ≤ compatWord e 3 / 65536)

/-- COMPAT_DATA_READ: the word at the cursor, and the cursor moved on (R471). -/
def compatRead (s : State) : Nat × State :=
  let c := getObj s oCompatCursor
  let v := if c / 4 % 256 < getObj s oCompatCount then compatWord (s.fw.compat.getD (c / 4 % 256) []) (c % 4) else 0
  (v, setObj oCompatCursor ((c + 1) % 1024) s)

/-- COMPAT_DATA_READ (R471). -/
def execCompatDataRead (m : Nat) (s : State) : Out := whenFree m (.compatDataRead m) s fun s => (answer m (compatRead s).1 (compatRead s).2)

/-! ### Weir -/

/-- The slot that boots: the active one, else the other, if one verifies (R477). -/
def bootSlot (s : State) : Option Nat :=
  if slotVerifies s s.fw.activeWeir then some s.fw.activeWeir
  else if slotVerifies s (1 - s.fw.activeWeir) then some (1 - s.fw.activeWeir) else none

/-- Weir runs from slot `t`: versions, compatibility table and its record, first in the queue (R477, R596, R584). -/
def runWeir (t lost : Nat) (s : State) : State :=
  let v := flashNat s (targetAt t + 4) 4
  let tbl := readCompat s t
  let s := setObj oFwWeirSlot t (setObj oIdentWeirVersion v (setObj oCompatCount tbl.length s))
  let s := { s with fw := { s.fw with weirUp := true, weirRestart := none, compat := tbl } }
  let c : Capture := { code := 0x0102, part := 31, inst := t, p0 := v, p1 := lost, p2 := 0, time := calendar s }
  setSlotState t 1 { s with alm := { s.alm with queue := c :: s.alm.queue } }

/-- A master's latches of R459 and R460 emptied. -/
def clearLatches (m : Nat) (s : State) : State := { s with latches := mapErase s.latches m }

/-- Both control cores are reset: Weir's latches are cleared, its accesses that wait are discarded, and captures wait (R584). -/
def restartWeir (s : State) : State :=
  if s.fw.weirUp then
    setParked 4 [] (clearLatches 4 (capture 0x0106 31 0 0 0 0 { s with fw := { s.fw with weirRestart := some (s.fw.weirRestart.getD 0) } }))
  else s

/-- LOCKSTEP_MISMATCH (R584). -/
def execLockstepMismatch (s : State) : Out := whenLive s restartWeir

/-! ### Rill -/

/-- The record 0x0103 of a start's result (R480). -/
def rillRecord (s : State) : State :=
  capture 0x0103 31 0 (getObj s oFwRillState) (getObj s oFwRillImageVersion) (getObj s oCompatState) s

/-- No Rill runs: its version and the pair's state read 0. -/
def rillGone (s : State) : State :=
  setObj oIdentRillVersion 0 (setObj oCompatState 0 { s with fw := { s.fw with released := none, kicked := none } })

/-- Steps 1 to 5 of R480 with the slot read: failed, released or held. -/
def finishRillStart (slot : Nat) (s : State) : State :=
  let t := 2 + slot
  let s := { s with fw := { s.fw with reading := none } }
  if slotVerifies s t then
    let v := flashNat s (targetAt t + 4) 4
    let s := setSlotState t 1 (setObj oFwRillImageVersion v s)
    if pairTested s v then
      rillRecord (setObj oFwRillState 1 (setObj oCompatState 1 (setObj oIdentRillVersion v
        { s with fw := { s.fw with released := some (ticks s), kicked := none } })))
    else rillRecord (setObj oFwRillState 4 (setObj oCompatState 2 (rillGone s)))
  else rillRecord (setObj oFwRillState 5 (rillGone (setSlotState t 2 s)))

/-- fw.status with a result and a block count (R496). -/
def setFwStatus (result blocks : Nat) (s : State) : State := setObj oFwStatus (result * 2 ^ 24 + blocks) s

/-- A command or a restart runs (R621). -/
def fwBusy (s : State) : Bool := s.fw.cmd.isSome || s.fw.reading.isSome || getField s (oBringStatus 9) 31 24 == 0xFF

/-- A command refused because another runs: its own record, and od.last_refused (R451, R621). -/
def fwRefuseBusy (s : State) : State × Ack :=
  (refuseQuiet oFwCommand 2 (capture 0x0107 31 0 0x01000000 (getObj s oFwTarget) 0 s), .refused 2)

/-- The record and status of a command that ends with a result (R492, R493). -/
def fwResult (result blocks : Nat) (s : State) : State :=
  let s := setFwStatus result blocks s
  capture 0x0107 31 0 (getObj s oFwStatus) (getObj s oFwTarget) 0 s

/-- fw.command 0x01 (R480, R621). -/
def fwStart (s : State) : State × Ack :=
  if fwBusy s then fwRefuseBusy s
  else (setFwStatus 0xFF 0 { s with fw := { s.fw with reading := some ((activation s).1.2.2, false) } }, .done)

/-- fw.command 0x02 (R482, R621). -/
def fwStop (s : State) : State × Ack :=
  let s := setObj oFwRillState 6 (rillGone { s with fw := { s.fw with reading := none } })
  ((if s.fw.cmd.isSome then s else setFwStatus 0 0 s), .done)

/-- RILL_IMAGE_READ_COMPLETE: the slot has been read into core memory (R480, R484). -/
def execRillImageReadComplete (s : State) : Out := whenLive s fun s =>
  match s.fw.reading with
  | none => s
  | some (slot, restart) =>
    let s := finishRillStart slot s
    (if restart then s else setFwStatus (if getObj s oFwRillState = 5 then 4 else 0) 0 s)

/-- Ticks in 60 s. -/
def minuteTicks : Nat := 84000000000

/-- Rill is unresponsive: a restart by R484, which discards its accesses that wait and empties its latches, or it is left down by R486. -/
def rillUnresponsive (cause : Nat) (s : State) : State :=
  let recent := s.fw.restarts.filter fun t => decide (ticks s < t + minuteTicks)
  if recent.length < getObj s oFwRestartLimit then
    let s := addObj oFwRillRestarts 1 (setObj oFwRillState 3 (setParked 3 [] (clearLatches 3 (rillGone s))))
    let s := { s with fw := { s.fw with restarts := ticks s :: recent, reading := some ((activation s).1.2.2, true) } }
    capture 0x0104 31 0 cause (getObj s oFwRillRestarts) 0 s
  else
    capture 0x0105 31 0 (getObj s oFwRillRestarts) 0 0 (setObj oFwRillState 5 (rillGone s))

/-- Rill is supervised: state 1 or 2 and no start or restart runs (R483). -/
def rillSupervised (s : State) : Bool :=
  (getObj s oFwRillState == 1 || getObj s oFwRillState == 2) && s.fw.reading.isNone && weirReady s

/-- The tick at which the limit in force expires (R483). -/
def rillDeadline (s : State) : Nat :=
  match s.fw.kicked, s.fw.released with
  | some t, _ => t + getObj s oFwWatchdogMs * 1000 * usTicks
  | none, some t => t + 1000 * 1000 * usTicks
  | none, none => 0

/-- RILL_WATCHDOG_EXPIRY (R483, R484, R486). -/
def execRillWatchdogExpiry (s : State) : Out := whenLive s fun s =>
  if rillSupervised s ∧ rillDeadline s ≤ ticks s then (rillUnresponsive (if s.fw.kicked.isSome then 1 else 2) s) else s

/-- RILL_EXCEPTION (R483, R484, R486). -/
def execRillException (s : State) : Out := whenLive s fun s => if rillSupervised s then (rillUnresponsive 3 s) else s

/-- A write of fw.rill_kick (R483, R494). -/
def wRillKick (m v : Nat) (s : State) : State × Ack :=
  let st := getObj s oFwRillState
  if 3 ≤ st then (refuse m oFwRillKick 2 v s, .refused 2)
  else if st = 0 then (s, .done)
  else (setObj oFwRillState 2 { s with fw := { s.fw with kicked := some (ticks s) } }, .done)

/-- RILL_KICK (R483). -/
def execRillKick (m value : Nat) (s : State) : Out := whenFree m (.rillKick m value) s fun s => (ackWrite oFwRillKick (wRillKick m value s)).1

/-! ### Firmware commands -/

/-- The target is the active slot of its kind (R492). -/
def targetActive (s : State) (t : Nat) : Bool :=
  let a := (activation s).1
  t == a.2.1 || t == 2 + a.2.2

/-- A running load reads flash slot `t` (R494). -/
def targetLoading (s : State) (t : Nat) : Bool :=
  match s.fab.load with
  | some r => decide (0x10 ≤ t) && r.slot == t - 0x10
  | none => false

/-- The staging buffer as bytes (R492). -/
def stagingBytes (s : State) : List Byte := (List.range 16384).flatMap fun i => leBytes 4 (mapGet 0 s.fw.staging i).toNat

/-- The result that refuses a program command, if one does (R492, R494). -/
def programRefusal (s : State) (copy : Bool) : Option Nat :=
  let t := getObj s oFwTarget
  if fwTargetOk t ∧ targetActive s t then some 2
  else if ¬ fwTargetOk t then some 3
  else if ¬ copy ∧ targetBlocks t ≤ getObj s oFwBlock then some 3
  else if copy ∧ (targetBlocks t * 65536 < getObj s oFwSourceLength ∨ getObj s oFwSourceAddress % 64 ≠ 0) then some 3
  else if targetLoading s t then some 8
  else none

/-- Erases the blocks that `bs` fills and programs them, padded with 0xFF (R492). -/
def programBlocks (t block : Nat) (bs : List Byte) (s : State) : State :=
  let a := targetAt t + 65536 * block
  flashWrite a bs (flashErase a (65536 * ceilDiv bs.length 65536) s)

/-- A program command starts: its blocks are erased and programmed, and its status reads running (R492, R621). -/
def fwProgram (code block : Nat) (data : Option (List Byte)) (s : State) : State × Ack :=
  let t := getObj s oFwTarget
  match data with
  | some bs => (setFwStatus 0xFF 0 (setSlotState t 3 (programBlocks t block bs
      { s with fw := { s.fw with cmd := some { code := code, target := t, block := block, bytes := bs, failed := none } } })), .done)
  | none => (setFwStatus 0xFF 0
      { s with fw := { s.fw with cmd := some { code := code, target := t, block := block, bytes := [], failed := some 6 } } }, .done)

/-- fw.command 0x03 (R492). -/
def fwProgramBlock (s : State) : State × Ack :=
  if fwBusy s then fwRefuseBusy s
  else match programRefusal s false with
    | some r => (fwResult r 0 s, .quiet)
    | none => fwProgram 3 (getObj s oFwBlock) (some (stagingBytes s)) s

/-- fw.command 0x04, with the bytes that the host read gives; none when the read fails (R492). -/
def fwCopy (data : Option (List Byte)) (s : State) : State × Ack :=
  if fwBusy s then fwRefuseBusy s
  else match programRefusal s true with
    | some r => (fwResult r 0 s, .quiet)
    | none =>
      let n := getObj s oFwSourceLength
      fwProgram 4 0 (match data with
        | some bs => if n ≤ bs.length then some (bs.take n) else none
        | none => none) s

/-- fw.command 0x05: verify, then the activation record (R493). -/
def fwActivate (s : State) : State × Ack :=
  let t := getObj s oFwTarget
  if fwBusy s then fwRefuseBusy s
  else if ¬ t < 4 then (fwResult 3 0 s, .quiet)
  else
    let cmd : FwCmd := { code := 5, target := t, block := 0, bytes := [], failed := none }
    let a := (activation s).1
    if slotVerifies s t then
      let s := if t < 2 then writeActivation t a.2.2 s else setObj oFwRillSlot (t - 2) (writeActivation a.2.1 (t - 2) s)
      (setFwStatus 0xFF 0 (setSlotState t 1 { s with fw := { s.fw with cmd := some cmd } }), .done)
    else (setFwStatus 0xFF 0 (setSlotState t 2 { s with fw := { s.fw with cmd := some { cmd with failed := some 4 } } }), .done)

/-- fw.command 0x06 (R493). -/
def fwVerify (s : State) : State × Ack :=
  let t := getObj s oFwTarget
  if fwBusy s then fwRefuseBusy s
  else if ¬ t < 4 then (fwResult 3 0 s, .quiet)
  else
    let ok := slotVerifies s t
    let cmd : FwCmd := { code := 6, target := t, block := 0, bytes := [], failed := if ok then none else some 4 }
    (setFwStatus 0xFF 0 (setSlotState t (if ok then 1 else 2) { s with fw := { s.fw with cmd := some cmd } }), .done)

/-- A write of fw.command (R495): refused while Weir restarts (R584). -/
def wFwCommand (m v : Nat) (data : Option (List Byte)) (s : State) : State × Ack :=
  if ¬ (1 ≤ v ∧ v ≤ 6) then (refuse m oFwCommand 1 v s, .refused 1)
  else if ¬ weirReady s then (refuse m oFwCommand 2 v s, .refused 2)
  else
    if v = 1 then fwStart s else if v = 2 then fwStop s else if v = 3 then fwProgramBlock s
    else if v = 4 then fwCopy data s else if v = 5 then fwActivate s else fwVerify s

/-- START_RILL (R480). -/
def execStartRill (m : Nat) (s : State) : Out := whenFree m (.startRill m) s fun s => (ackWrite oFwCommand (wFwCommand m 1 none s)).1

/-- STOP_RILL (R482). -/
def execStopRill (m : Nat) (s : State) : Out := whenFree m (.stopRill m) s fun s => (ackWrite oFwCommand (wFwCommand m 2 none s)).1

/-- PROGRAM_BLOCK (R492). -/
def execProgramBlock (m : Nat) (s : State) : Out := whenFree m (.programBlock m) s fun s => (ackWrite oFwCommand (wFwCommand m 3 none s)).1

/-- COPY_FROM_HOST (R492). -/
def execCopyFromHost (m : Nat) (data : Option (List Byte)) (s : State) : Out := whenFree m (.copyFromHost m data) s fun s => (ackWrite oFwCommand (wFwCommand m 4 data s)).1

/-- ACTIVATE (R493). -/
def execActivate (m : Nat) (s : State) : Out := whenFree m (.activate m) s fun s => (ackWrite oFwCommand (wFwCommand m 5 none s)).1

/-- VERIFY (R493). -/
def execVerify (m : Nat) (s : State) : Out := whenFree m (.verify m) s fun s => (ackWrite oFwCommand (wFwCommand m 6 none s)).1

/-- The blocks of a program command hold free bytes. -/
def spoilBlocks (c : FwCmd) (s : State) : State :=
  let bs := freeBytes s (65536 * ceilDiv c.bytes.length 65536)
  flashWrite (targetAt c.target + 65536 * c.block) bs (useFree s)

/-- FLASH_COMMAND_COMPLETE: the running command ends; `same` says that the read-back agrees (R492, R621). -/
def execFlashCommandComplete (same : Bool) (s : State) : Out := whenLive s fun s =>
  match s.fw.cmd with
  | none => s
  | some c =>
    let s := { s with fw := { s.fw with cmd := none } }
    match c.failed with
    | some r => (fwResult r 0 s)
    | none =>
      if c.code = 3 ∨ c.code = 4 then
        if same then (fwResult 0 (ceilDiv c.bytes.length 65536) s) else (fwResult 5 0 (spoilBlocks c s))
      else (fwResult 0 0 s)

/-- One access of fw.data: a read gives the word, a write sets it; both move the cursor on (R495, R496). -/
def fwDataAccess (wr : Option Nat) (s : State) : Nat × State :=
  let i := getField s oFwCursor 15 2
  let v := (mapGet 0 s.fw.staging i).toNat
  let s := match wr with
    | some w => basicWrite 0x5000 { s with fw := { s.fw with staging := mapSet 0 s.fw.staging i (BitVec.ofNat 32 w) } }
    | none => s
  (v, setObj oFwCursor ((i + 1) % 16384 * 4) s)

/-- FW_DATA_ACCESS (R495). -/
def execFwDataAccess (m : Nat) (wr : Option Nat) (s : State) : Out := whenFree m (.fwDataAccess m wr) s fun s =>
  (if wr.isSome then (fwDataAccess wr s).2 else answer m (fwDataAccess wr s).1 (fwDataAccess wr s).2)

end Sys2Proof.Machine
end

