-- ==== Sys2Proof/Machine/Partition.lean ====
section
/-!
DEFINITION. Partitions (10_partitions_and_scheduling.md): configure, start, stop and reset, loans and reclaims, and the accounting window.
-/

namespace Sys2Proof.Machine

/-! ### Configure (R297) -/

/-- Partitions in state 1 to 4 other than `p`. -/
def otherParts (s : State) (p : Nat) : List Nat := (List.range 16).filter fun r => r != p && decide (1 ≤ pState s r) && decide (pState s r ≤ 4)

/-- The logical tiles that share a tile's physical tile, itself included (R159). -/
def foldTiles (s : State) (t : Nat) : List Nat :=
  (List.range 32).filter fun u => u == t || (siteOf s t != none && siteOf s u == siteOf s t)

/-- Check 2: a tile of the mask is owned elsewhere or is carried by no die (R297, R556). -/
def maskTaken (s : State) (p mask : Nat) : Bool :=
  (List.range 32).any fun t => bit mask t && (getObj s (oTileState t) == 3 || (otherParts s p).any fun r => inMask s r t)

/-- Check 3: a fold lies partly in the mask (R160). -/
def foldSplit (s : State) (mask : Nat) : Bool := (List.range 32).any fun t => bit mask t && (foldTiles s t).any fun u => !(bit mask u)

/-- Check 4: the sync range leaves the store or meets another partition's. -/
def rangeBad (s : State) (p base count : Nat) : Bool :=
  decide (65536 < base + count) || (otherParts s p).any fun r =>
    let x := getPart s r
    decide (0 < count) && decide (0 < x.syncCount) && decide (base < x.syncBase + x.syncCount) && decide (x.syncBase < base + count)

/-- Check 5: the shares exceed 256. -/
def shareBad (s : State) (p share : Nat) : Bool := decide (256 < sumNat ((otherParts s p).map fun r => (getPart s r).share) + share)

/-- Check 6: a bank of the partition is lent or borrowed, a reclaim runs, or the partition has a loan out, of queues alone too (R297, R305). -/
def loanStands (s : State) (p : Nat) : Bool :=
  (getPart s p).loans != [] || (getPart s p).reclaiming != [] || s.pt.parts.any fun e => e.2.loans.any fun l => l.borrower == p && l.banks != 0

/-- Pages of a bank of a logical tile's physical tile that are not free. -/
def bankHolds (s : State) (t bank : Nat) : Bool :=
  match siteOf s t with
  | none => false
  | some site => decide (countFrames s site bank .free < 48)

/-- Check 7: a tile that leaves the mask holds pages. -/
def leavingHolds (s : State) (p mask : Nat) : Bool :=
  (List.range 32).any fun t => inMask s p t && !(bit mask t) && (List.range 16).any fun b => bankHolds s t b

/-- The first check of R297 that fails, in order. -/
def configureRefusal (s : State) (p : Nat) : Option Nat :=
  let mask := getObj s (oPartitionTiles p)
  if 1 < pState s p then some 1
  else if maskTaken s p mask then some 2
  else if foldSplit s mask then some 3
  else if rangeBad s p (getObj s (oPartitionSyncBase p)) (getObj s (oPartitionSyncCount p)) then some 4
  else if shareBad s p (getObj s (oPartitionBwShare p)) then some 5
  else if loanStands s p then some 6
  else if leavingHolds s p mask then some 0x0A
  else none

/-- A number with `p` in each of 16 fields of four bits. -/
def sixteen (p : Nat) : Nat := p * 0x1111111111111111

/-- The effects of an accepted configure; det.active follows at the end of the cycle (R297, R351, R363). -/
def applyConfigure (p : Nat) (s : State) : State :=
  let mask := getObj s (oPartitionTiles p)
  let cfg := getObj s (oPartitionConfig p)
  let old := (getPart s p).tiles
  let s := (List.range 32).foldl (fun s t =>
    if bit mask t then setObj (oTileBankOwner t) (sixteen p) (setObj (oTileBankValid t) 0xFFFF s)
    else if bit old t then setObj (oTileBankValid t) 0 s else s) s
  let next := if mask = 0 ∧ getObj s (oPartitionSyncCount p) = 0 then 0 else 1
  let det := decide (next = 1) && bit cfg 1 && objBit s oNumfmtDet 0
  let s := updPart p (fun x => { x with
    tiles := mask, syncBase := getObj s (oPartitionSyncBase p), syncCount := getObj s (oPartitionSyncCount p),
    share := getObj s (oPartitionBwShare p), latencyCritical := bit cfg 0, faultAction := bits cfg 3 2 }) s
  let s := setObj (oPartitionLatched p) (b2n det + 2 * b2n (objBit s oNumfmtStochasticEnable 0)) s
  setObj (oPartitionState p) next s

/-! ### Commands (R297, R298) -/

/-- partition[p].status with a result. -/
def setPStatus (p r : Nat) (s : State) : State := setObj (oPartitionStatus p) (r * 2 ^ 24) s

/-- Every frame sequencer of a partition is in state 0 (R298). -/
def seqsIdle (s : State) (p : Nat) : Bool := (List.range 128).all fun k => seqState s k == 0 || getObj s (oSeqPartition k) != p

/-- A load into the partition runs (R189). -/
def loadRuns (s : State) (p : Nat) : Bool :=
  match s.fab.load with
  | some r => r.part == p
  | none => false

/-- A start is refused (R298, R189, R481, R582). -/
def startRefused (s : State) (p : Nat) : Bool :=
  !(pState s p == 1 || pState s p == 3) || ((List.range 32).any fun t => inMask s p t && getObj s (oTileState t) == 3) || loadRuns s p || getObj s oCompatState != 1

/-- A stop is refused (R298, R305). -/
def stopRefused (s : State) (p : Nat) : Bool := !(pState s p == 2 || pState s p == 3) || !(seqsIdle s p) || (getPart s p).loans != []

/-- Configure. -/
def doConfigure (p : Nat) (s : State) : State × Ack :=
  match configureRefusal s p with
  | some r => (setPStatus p r s, .quiet)
  | none => (setPStatus p 0 (applyConfigure p s), .done)

/-- Start. -/
def doStart (p : Nat) (s : State) : State × Ack :=
  if startRefused s p then (setPStatus p 7 s, .quiet) else (setPStatus p 0 (setObj (oPartitionState p) 2 s), .done)

/-- Stop. -/
def doStop (p : Nat) (s : State) : State × Ack :=
  if stopRefused s p then (setPStatus p 8 s, .quiet) else (setPStatus p 0 (startReset p 1 0 s), .done)

/-- Reset. -/
def doReset (p : Nat) (s : State) : State × Ack :=
  if pState s p = 2 ∨ pState s p = 3 then (setPStatus p 0 (startReset p (faultState s p) 0 s), .done) else (setPStatus p 9 s, .quiet)

/-- A partition command carried out. -/
def doPartition (p v : Nat) (s : State) : State × Ack :=
  if v = 1 then doConfigure p s else if v = 2 then doStart p s else if v = 3 then doStop p s else doReset p s

/-- Bring-up step 10 is done. -/
def stepDone (s : State) (i : Nat) : Bool := decide (getField s (oBringStatus i) 31 24 ≤ 1)

/-- A write of partition[p].command (R298, R354, R560). -/
def wPartitionCommand (m p v : Nat) (s : State) : State × Ack :=
  if ¬ (1 ≤ v ∧ v ≤ 4) then (refuse m (oPartitionCommand p) 1 v s, .refused 1)
  else if stepDone s 10 = false then (refuse m (oPartitionCommand p) 2 v s, .refused 2)
  else if isDet s p then (deferEvent p (.command v m) s, .done)
  else doPartition p v s

/-- PARTITION_CONFIGURE (R297). -/
def execPartitionConfigure (m p : Nat) (s : State) : Out := whenFree m (.partitionConfigure m p) s fun s => (ackWrite (oPartitionCommand p) (wPartitionCommand m p 1 s)).1

/-- PARTITION_START (R298). -/
def execPartitionStart (m p : Nat) (s : State) : Out := whenFree m (.partitionStart m p) s fun s => (ackWrite (oPartitionCommand p) (wPartitionCommand m p 2 s)).1

/-- PARTITION_STOP (R298). -/
def execPartitionStop (m p : Nat) (s : State) : Out := whenFree m (.partitionStop m p) s fun s => (ackWrite (oPartitionCommand p) (wPartitionCommand m p 3 s)).1

/-- PARTITION_RESET (R298, R318). -/
def execPartitionReset (m p : Nat) (s : State) : Out := whenFree m (.partitionReset m p) s fun s => (ackWrite (oPartitionCommand p) (wPartitionCommand m p 4 s)).1

/-! ### Loans (R304 to R306) -/

/-- loan[p].status. -/
def setLoanStatus (p r tile banks : Nat) (s : State) : State := setObj (oLoanStatus p) (r * 2 ^ 24 + tile % 256 * 2 ^ 16 + banks) s

/-- loan[p].lent_tiles and borrowed_tiles, as the loans stand. -/
def lentTiles (s : State) (p : Nat) : Nat := sumNat ((List.range 32).map fun t => if (getPart s p).loans.any (fun l => l.tile == t && l.banks != 0) then 2 ^ t else 0)

/-- Tiles of which a partition holds borrowed banks. -/
def borrowedTiles (s : State) (p : Nat) : Nat :=
  sumNat ((List.range 32).map fun t => if s.pt.parts.any (fun e => e.2.loans.any fun l => l.borrower == p && l.tile == t && l.banks != 0) then 2 ^ t else 0)

/-- A bank of a tile is lent by `p`. -/
def bankLent (s : State) (p tile b : Nat) : Bool := (getPart s p).loans.any fun l => l.tile == tile && bit l.banks b

/-- Check 3 for one tile: a named bank is not owned, is lent, or holds pages. -/
def banksBad (s : State) (p tile banks : Nat) : Bool :=
  (bitsSet banks 16).any fun b => bankOwner s tile b != some p || bankLent s p tile b || bankHolds s tile b

/-- Check 4 for one tile: a named queue is bound elsewhere, enabled or not empty. -/
def loanQueuesBad (s : State) (p tile queues : Nat) : Bool :=
  (bitsSet queues 4).any fun q => queuePart s tile q != p || queueEnabled s tile q || (getQueue s tile q).tail != (getQueue s tile q).commit

/-- The first check of R304 that fails. -/
def lendRefusal (s : State) (p : Nat) : Option Nat :=
  let t := getObj s (oLoanTile p)
  let b := getObj s (oLoanBorrower p)
  if pState s p = 0 ∨ isDet s p = true then some 1
  else if inMask s p t = false then some 2
  else if (foldTiles s t).any fun u => banksBad s p u (getObj s (oLoanBanks p)) then some 3
  else if (foldTiles s t).any fun u => loanQueuesBad s p u (getField s (oLoanQueues p) 3 0) then some 4
  else if pState s b = 0 ∨ isLc s b = true ∨ isDet s b = true ∨ b = p then some 5
  else none

/-- One tile's banks and queues go to a partition; its queues are enabled or not. -/
def handOver (t banks queues owner : Nat) (enable : Bool) (s : State) : State :=
  let s := (bitsSet banks 16).foldl (fun s b => setField (oTileBankOwner t) (4 * b + 3) (4 * b) owner s) s
  (bitsSet queues 4).foldl (fun s q => setObj (oBinding t q) ((if enable then 0x8000 else 0) + owner) s) s

/-- The loan of one tile. -/
def lendTile (p t banks queues borrower : Nat) (s : State) : State :=
  let s := handOver t banks queues borrower true s
  if banks = 0 ∧ queues = 0 then s
  else updPart p (fun x => { x with loans := x.loans ++ [{ tile := t, banks := banks, queues := queues, borrower := borrower }] }) s

/-- The tiles that `p` has lent, ascending, one of each fold. -/
def lentList (s : State) (p : Nat) : List Nat :=
  (List.range 32).filter fun t => (getPart s p).loans.any (fun l => l.tile == t) && ((foldTiles s t).head? == some t)

/-- Loans of a tile and its fold partner. -/
def loansOn (s : State) (p t : Nat) : List Loan := (getPart s p).loans.filter fun l => (foldTiles s t).contains l.tile

/-- A dispatched command of the borrower uses a lent bank: it holds a page there, or its outputs go there, written or not yet (R189, R266, R306). -/
def usesLoan (s : State) (l : Loan) (eng q : Nat) (y : Slot) : Bool :=
  y.part == l.borrower && decide (q < 4) &&
    ((y.run.pins ++ y.run.shadows).any (fun f => f.tile == l.tile && bit l.banks (bankOf f.page)) ||
      (uncommitted y.phase && (destPages (planOf s eng q y)).any fun e => e.1 == l.tile && bit l.banks (bankOf e.2)))

/-- A reclaim of one tile begins: its lent queues stop, every dispatched command in them is killed and waits for the withdrawal of its job, and every other dispatched command that uses a lent bank is killed and then withdrawn (R303, R306). -/
def beginReclaim (p t : Nat) (s : State) : State :=
  (loansOn s p t).foldl (fun s l =>
    let s := (bitsSet l.queues 4).foldl (fun s q =>
      let x := getQueue s l.tile q
      let s := setQueue l.tile q { x with stopped := true } s
      (slotsBetween l.tile x.commit x.tail).foldl (fun s sl => startKill false true 0 l.tile q sl s) s) s
    let lent (e : Nat × Nat) : Bool := e.1 == l.tile && bit l.queues e.2
    (allQueues.filter fun e => !(lent e)).foldl (fun s e =>
      let x := getQueue s e.1 e.2
      (slotsBetween e.1 x.commit x.tail).foldl (fun s sl =>
        if usesLoan s l e.1 e.2 (getSlot s e.1 e.2 sl) then startKill false true 1 e.1 e.2 sl s else s) s) s) s

/-- The jobs with a command in a tile's lent queues. -/
def lentJobs (s : State) (l : Loan) : List Nat :=
  ((bitsSet l.queues 4).flatMap fun q =>
    let x := getQueue s l.tile q
    (slotsBetween l.tile x.commit x.tail).map fun sl => cJob (getSlot s l.tile q sl)).eraseDups

/-- The lent queues of a loan are empty, and no command of the borrower waits for room in its withdrawal list (R306, R307). -/
def loanEmpty (s : State) (l : Loan) : Bool :=
  ((bitsSet l.queues 4).all fun q => (getQueue s l.tile q).tail == (getQueue s l.tile q).commit) &&
    (queuesOfPart s l.borrower).all fun e => (getQueue s e.1 e.2).doomed == []

/-- No kill of a command that uses a loan is under way. -/
def loanKilled (s : State) (l : Loan) : Bool :=
  allQueues.all fun e => (killingSlots s e.1 e.2).all fun sl => (getSlot s e.1 e.2 sl).part != l.borrower

/-- The borrower's mapped pages in the lent banks are unmapped and free; banks and queues return, disabled (R306). -/
def returnLoan (p : Nat) (l : Loan) (s : State) : State :=
  let pages := (List.range 768).filter fun lp => bit l.banks (bankOf lp)
  let s := pages.foldl (fun s lp =>
    match mappedFrame s l.tile lp with
    | some k => setPageMap l.tile lp 0 (dropPage k s)
    | none => s) s
  let s := (bitsSet l.queues 4).foldl (fun s q => setQueue l.tile q { getQueue s l.tile q with stopped := false } s) s
  handOver l.tile l.banks l.queues p false s

/-- Banks that a tile's loans concern. -/
def loanBanks (s : State) (p t : Nat) : Nat := (loansOn s p t).foldl (fun m l => m ||| l.banks) 0

/-- A reclaim of a list of tiles begins with the first. -/
def startReclaim (p : Nat) (ts : List Nat) (s : State) : State :=
  match ts with
  | [] => s
  | t :: _ => beginReclaim p t (setLoanStatus p 0xFF t (loanBanks s p t) (updPart p (fun x => { x with reclaiming := ts }) s))

/-- A write of loan[p].command (R304, R306). -/
def wLoanCommand (m p v : Nat) (s : State) : State × Ack :=
  let t := getObj s (oLoanTile p)
  let banks := getObj s (oLoanBanks p)
  if ¬ (1 ≤ v ∧ v ≤ 3) then (refuse m (oLoanCommand p) 1 v s, .refused 1)
  else if (getPart s p).reclaiming ≠ [] then (refuse m (oLoanCommand p) 2 v s, .refused 2)
  else if v = 1 then
    match lendRefusal s p with
    | some r => (setLoanStatus p r t banks s, .quiet)
    | none => (setLoanStatus p 0 t banks ((foldTiles s t).foldl (fun s u => lendTile p u banks (getField s (oLoanQueues p) 3 0) (getObj s (oLoanBorrower p)) s) s), .done)
  else if v = 2 then
    if loansOn s p t = [] then (setLoanStatus p 6 t 0 s, .quiet) else (startReclaim p [(foldTiles s t).headD t] s, .done)
  else
    if lentList s p = [] then (setLoanStatus p 6 t 0 s, .quiet) else (startReclaim p (lentList s p) s, .done)

/-- LEND (R304). -/
def execLend (m p : Nat) (s : State) : Out := whenFree m (.lend m p) s fun s => (ackWrite (oLoanCommand p) (wLoanCommand m p 1 s)).1

/-- RECLAIM_TILE (R306). -/
def execReclaimTile (m p : Nat) (s : State) : Out := whenFree m (.reclaimTile m p) s fun s => (ackWrite (oLoanCommand p) (wLoanCommand m p 2 s)).1

/-- RECLAIM_ALL (R306). -/
def execReclaimAll (m p : Nat) (s : State) : Out := whenFree m (.reclaimAll m p) s fun s => (ackWrite (oLoanCommand p) (wLoanCommand m p 3 s)).1

/-- Cycle 66 of a reclaim: the jobs of the lent queues are marked, and their commands leave as the list has room (R306, R307). -/
def markLent (p t : Nat) (s : State) : State :=
  (loansOn s p t).foldl (fun s l => (lentJobs s l).foldl (fun s j => markJob l.borrower j s) s) s

/-- Cycle 68 + w: the tile has returned; the next one begins, or the command is done. -/
def finishReclaim (p t : Nat) (s : State) : State :=
  let banks := loanBanks s p t
  let gone := loansOn s p t
  let s := gone.foldl (fun s l => returnLoan p l s) s
  let rest := (getPart s p).reclaiming.drop 1
  let s := updPart p (fun x => { x with loans := x.loans.filter fun l => !(gone.contains l), reclaiming := rest }) s
  releaseResets (if rest = [] then setLoanStatus p 0 t banks s else startReclaim p rest s)

/-- RECLAIM_COMPLETE: the kills are complete, the jobs of the lent queues are marked, and once the queues are empty their tile returns; while the withdrawal list is full the reclaim waits (R306, R307). -/
def execReclaimComplete (p : Nat) (s : State) : Out := whenLive s fun s =>
  match (getPart s p).reclaiming with
  | [] => s
  | t :: _ =>
    if (loansOn s p t).all (loanKilled s) then
      let s := markLent p t s
      if (loansOn s p t).all fun l => loanEmpty s l && loanKilled s l then finishReclaim p t s else s
    else s

/-! ### Accounting (R309, R328) -/

/-- The slowdown of a record (R309). -/
def slowdown (a : Acct) : Nat := if a.exec = 0 then 0x100 else min 0xFFFF (256 * (a.exec + a.wait + a.lost) / a.exec)

/-- partition[p].worst_slowdown: the largest over records without a wrap flag (R309, R608). -/
def worstSlowdown (s : State) (p : Nat) : Nat :=
  (s.pt.accts.filter fun e => e.1 / 1024 == p && !(e.2.execWrap || e.2.waitWrap || e.2.lostWrap)).foldl (fun m e => max m (slowdown e.2)) 0x100

/-- Word `w` of a record (R328). -/
def acctWord (a : Acct) (w : Nat) : Nat :=
  if w = 0 then a.exec % 2 ^ 32 else if w = 1 then a.exec / 2 ^ 32 + b2n a.execWrap * 2 ^ 31
  else if w = 2 then a.wait % 2 ^ 32 else if w = 3 then a.wait / 2 ^ 32 + b2n a.waitWrap * 2 ^ 31
  else if w = 4 then a.lost % 2 ^ 32 else if w = 5 then a.lost / 2 ^ 32 + b2n a.lostWrap * 2 ^ 31
  else if w = 6 then a.kills else slowdown a * 2 ^ 16 + a.withdrawals

/-- The latch of word 1, 3 or 5 of the record at the cursor, as kept by the read of the word before it. -/
def acctLatched (s : State) (p c : Nat) : Option Nat :=
  let l := mapGet 0 s.pt.acctLatch p
  if l ≠ 0 ∧ l / 2 ^ 33 = c then some (l / 2 % 2 ^ 32) else none

/-- A read of acct[p].data (R328). -/
def readAcct (p : Nat) (s : State) : Nat × State :=
  let c := getObj s (oAcctCursor p) % 8192
  let a := getAcct s (p * 1024 + c / 8)
  let v := (acctLatched s p c).getD (acctWord a (c % 8))
  let l := if c % 8 = 0 ∨ c % 8 = 2 ∨ c % 8 = 4 then (c + 1) * 2 ^ 33 + acctWord a (c % 8 + 1) * 2 + 1 else 0
  (v, setObj (oAcctCursor p) ((c + 1) % 8192) { s with pt := { s.pt with acctLatch := mapSet 0 s.pt.acctLatch p l } })

/-- ACCT_DATA_READ (R328). -/
def execAcctDataRead (m p : Nat) (s : State) : Out := whenFree m (.acctDataRead m p) s fun s => answer m (readAcct p s).1 (readAcct p s).2

/-- A record cleared; what commits of this cycle charged counts after the clear (R616). -/
def clearAcct (k : Nat) (s : State) : State := setAcct k { Acct.init with exec := chargedNow s k } s

/-- A write of acct[p].clear (R328). -/
def wAcctClear (m p v : Nat) (s : State) : State × Ack :=
  if v = 0xFFFF then
    let keys := ((s.now.charged.map (·.1)).filter fun k => k / 1024 == p).eraseDups
    (keys.foldl (fun s k => clearAcct k s) { s with pt := { s.pt with accts := s.pt.accts.filter fun e => e.1 / 1024 != p } }, .done)
  else if v < 1024 then (clearAcct (p * 1024 + v) s, .done)
  else (refuse m (oAcctClear p) 1 v s, .refused 1)

/-- ACCT_CLEAR (R328). -/
def execAcctClear (m p value : Nat) (s : State) : Out := whenFree m (.acctClear m p value) s fun s => (ackWrite (oAcctClear p) (wAcctClear m p (value % 65536) s)).1

end Sys2Proof.Machine
end

