-- ==== Sys2Proof/Machine/Cistern.lean ====
section
/-!
DEFINITION. The Cistern's own events (07_cistern.md): line reads and damage, settling and freeing of slots, regions, migration, and the loss of channels and stacks with its rebuild; and the learned entries of the defect map (R557).
-/

namespace Sys2Proof.Machine

/-! ### Learned entries (R557, R569) -/

/-- Word 0 of a defect entry: source, kind and locations (R569). -/
def entryWord (source kind a b c : Nat) : Nat := source * 2 ^ 30 + kind * 2 ^ 24 + a * 2 ^ 16 + b * 2 ^ 8 + c

/-- What hides units: the entries of the map, and those that it had no room for (R557). -/
def hidingEntries (s : State) : List (Nat × Nat) := s.fab.defects.map (·.2) ++ s.fab.unlisted

/-- A learned entry is appended and recorded; when the map is full the unit is hidden without an entry. -/
def learn (kind a b c w1 : Nat) (s : State) : State :=
  let n := getObj s oDefectCount
  let w0 := entryWord 2 kind a b c
  if n < 1024 then
    capture 0x0606 31 0 w0 w1 n (setObj oDefectCount (n + 1) { s with fab := { s.fab with defects := mapPut s.fab.defects n (w0, w1) } })
  else capture 0x0606 31 0 w0 w1 0xFFFFFFFF (addObj oDefectUnrecorded 1 { s with fab := { s.fab with unlisted := s.fab.unlisted ++ [(w0, w1)] } })

/-! ### Line reads (R198, R199, R586) -/

/-- cistern.last_error (R237). -/
def setLastError (kind k : Nat) (s : State) : State :=
  setObj oCisternLastError (kind * 2 ^ 28 + (slotParts k).1 * 2 ^ 24 + (slotParts k).2) s

/-- One line of a slot zeroed. -/
def zeroLine (k line : Nat) (s : State) : State :=
  let c := getC s k
  setC k { c with page := pageWrite c.page (line * 64) (List.replicate 64 0) } s

/-- The pages of a partition that are damaged count up, the partition takes a hardware fault, and the page is recorded (R586). A double fault in a slot that serves no region page damages none, and is recorded for partition 31 (R198). -/
def damagePage (k : Nat) (s : State) : State :=
  let c := getC s k
  if c.st = .free then capture 0x0601 31 (slotParts k).1 (slotParts k).2 0 0 s
  else
    let s := { s with ci := { s.ci with damaged := if s.ci.damaged.contains (rKey c.part c.rpage) then s.ci.damaged else rKey c.part c.rpage :: s.ci.damaged } }
    let s := addObj (oDamagePages c.part) 1 s
    let s := capture 0x0601 c.part (slotParts k).1 (slotParts k).2 c.rpage 0 s
    jobFault c.part 2 [] false s

/-- What a read of a line comes to: what its ECC finds, but a line that is out must be reconstructed, and a reconstruction fails where another member is bad or out (R198, R229, R230). -/
def lineVerdict (s : State) (k line : Nat) (v : LineVerdict) : LineVerdict :=
  let second := memberOut s k line || (match v with
    | .bad b => b
    | _ => false)
  if lineOut s k line then .bad second
  else match v with
    | .bad _ => .bad second
    | _ => v

/-- The other members of the line are read, and what they give is written back where the line can be written (R198). -/
def reconstruct (k line : Nat) (s : State) : State :=
  let s := readMembers k line s
  if lineOut s k line then s else countLines (slotParts k).1 0 1 s

/-- A line read takes its effect: delivered, corrected and written back, reconstructed, or lost in a double fault (R198, R199). -/
def lineRead (k line : Nat) (v : LineVerdict) (s : State) : State :=
  let s' := if lineOut s k line then s else countLines (slotParts k).1 1 0 s
  match lineVerdict s k line v with
  | .clean => s'
  | .corrected => setLastError 1 k (countLines (slotParts k).1 0 1 (perfCount 0x0A (slotParts k).1 1 s'))
  | .bad false => setLastError 2 k (reconstruct k line s')
  | .bad true => damagePage k (zeroLine k line (setLastError 3 k s'))

/-- A slot lies on a stack that is there; a rebuilt stripe has no member on the lost stack (R231). -/
def slotThere (s : State) (k : Nat) : Bool :=
  decide (getObj s oCisternState ≠ 0) && (presentStacks s).contains (slotParts k).1 && decide (k < 8 * stackSlots) && stackState s (slotParts k).1 != 5

/-- A read is corrected or reconstructed (R356). -/
def mended : LineVerdict → Bool
  | .corrected | .bad false => true
  | .clean | .bad true => false

/-- CISTERN_LINE_READ: a DET partition's read that is corrected, reconstructed or late counts as a perturbation (R198, R353, R356). -/
def execCisternLineRead (slot line : Nat) (verdict : LineVerdict) (use : LineUse) (s : State) : Out := whenLive s fun s =>
  if slotThere s slot then
    let m := mended (lineVerdict s slot line verdict)
    let s := lineRead slot line verdict s
    let s := if use.det && m then perturb s else s
    if use.det && use.late then perturb s else s
  else s

/-- SCRUB_READ (R199). -/
def execScrubRead (slot line : Nat) (verdict : LineVerdict) (s : State) : Out := whenLive s fun s =>
  if slotThere s slot then lineRead slot line verdict s else s

/-! ### Settling and freeing (R210, R211) -/

/-- TAG_SETTLE (R210). -/
def execTagSettle (tag : Nat) (s : State) : Out := whenLive s fun s => settleTag tag s

/-- c_d and serial of a partition's readers: dispatched commands, and read epochs of scan-out, DMA output and overlay (R211). -/
def readers (s : State) (p : Nat) : List (Nat × Nat) :=
  let cmds := allQueues.flatMap fun e =>
    let x := getQueue s e.1 e.2
    ((slotsBetween e.1 x.commit x.tail).map fun sl => getSlot s e.1 e.2 sl).filterMap fun y =>
      match y.phase with
      | .running | .finished | .requested => if y.part = p ∧ y.run.readsCistern = true then some (y.run.cd, y.run.serial) else none
      | _ => none
  let ports := s.io.raster.flatMap fun e =>
    ((e.2.current.toList ++ e.2.loading.toList ++ e.2.waiting ++ e.2.lastFull.toList).filter fun x => x.reading && x.pic.part == p).map fun x => (x.cd, x.serial)
  let rings := s.io.rings.flatMap fun e => (e.2.frames.filter fun f => f.present.pic.part == p).map fun f => (f.present.cd, f.present.serial)
  let overlays := s.st.overlays.flatMap fun e => (e.2.epochs.filter fun x => x.part == p).map fun x => (x.cd, x.serial)
  cmds ++ ports ++ rings ++ overlays

/-- The read mark (R211). -/
def readMark (s : State) (p : Nat) : Nat :=
  match (readers s p).map (·.1) with
  | [] => getObj s (oStepCounter p)
  | c :: cs => cs.foldl min c

/-- No reader can still want a retired slot (R207, R211). -/
def slotUnread (s : State) (c : CSlot) : Bool :=
  match c.replStep with
  | some n => decide (n < readMark s c.part)
  | none => (readers s c.part).all fun r => decide (c.replSerial < r.2)

/-- RETIRED_SLOT_FREE (R211). -/
def execRetiredSlotFree (slot : Nat) (s : State) : Out := whenLive s fun s =>
  let c := getC s slot
  if c.st = .retired ∧ slotUnread s c = true then freeSlotAt slot s else s

/-! ### The loss of a stack (R229 to R231) -/

/-- The slots that regions may hold after a rebuild on the stacks that are up (R196). -/
def rebuiltSlots (s : State) : Nat := ((upStacks s).length - 1) * regionStripes

/-- The slots that the reserves and the margin promise (R231). -/
def promised (s : State) : Nat := reservedTotal s + getObj s oCisternFallbackMargin

/-! ### Moving pages (R231, R232) -/

/-- Slots in use that a rebuild empties: those of a lost stack, and those of the data member whose slot becomes the parity member (R231). -/
def rebuildMoves (s : State) : List (Nat × CSlot) :=
  s.ci.slots.filter fun e => let p := slotParts e.1; stackState s p.1 == 4 || !(isDataSlot s p.1 p.2)

/-- The slot of the lowest stripe that the rebuild has still to empty: it goes stripe by stripe, and waits there for a retired slot to become free (R231). -/
def nextRebuild (s : State) : Option (Nat × CSlot) :=
  (rebuildMoves s).foldl (fun m e =>
    match m with
    | some b => if (slotParts e.1).2 < (slotParts b.1).2 then some e else m
    | none => some e) none

/-- A page mapped to its new slot; the old slot retires (R232). -/
def movePage (k new : Nat) (s : State) : State :=
  let c := getC s k
  let serial := s.ci.serial
  let s := setC new { c with replStep := none, replSerial := 0 } s
  let s := pushVersion c.part c.rpage (some new) none s
  let s := setC k { c with st := .retired, replStep := none, replSerial := serial } s
  { s with ci := { s.ci with serial := serial + 1 }, now := { s.now with switched := (c.part, c.rpage, k, new) :: s.now.switched } }

/-- A command holds a shadow of a region page that it has not committed (R232, R234). -/
def pageShadowed (s : State) (p q : Nat) : Bool := s.ci.tags.any fun t => t.2.st == .live && t.2.part == p && t.2.entries.any fun e => e.1 == q

/-- The region has room for one slot more beside what its live commands may still take (R202, R206); a page charged to the margin needs none. -/
def moveRoom (s : State) (p : Nat) (margin : Bool) : Bool :=
  margin || decide (regionUse s p + owedSlots s (fun t => !t.fallback && t.part == p) + 1 ≤ getObj s (oRegionReserve p))

/-- Step 1 of R232: the page's new slot is allocated, copied to and charged as a shadow; an unmapped or shadowed page is skipped; without room it waits. -/
def beginMove (p q : Nat) (order : State → List Nat) (s : State) : PageMove × State :=
  let s := settlePage p q s
  let wait : PageMove := { part := p, page := q, slot := none, skip := false }
  match slotNow s p q with
  | none => ({ wait with skip := true }, s)
  | some k =>
    if pageShadowed s p q then ({ wait with skip := true }, s)
    else if moveRoom s p (getC s k).margin = false then (wait, s)
    else match placeOn s (order s) with
      | none => (wait, s)
      | some new => ({ wait with slot := some new }, setC new { (getC s k) with st := .shadow, replStep := none, replSerial := 0 } s)

/-- Step 3 of R232: the page is mapped to its new slot. -/
def switchPage (x : PageMove) (s : State) : State :=
  match x.slot, slotNow s x.part x.page with
  | some new, some k => movePage k new s
  | some new, none => setC new CSlot.init s
  | none, _ => s

/-- A move is over once it has its slot or is skipped. -/
def moveReady (x : PageMove) : Bool := x.skip || x.slot.isSome

/-- A stack is lost: a move whose new slot lies there starts again with another. -/
def redoMove (k : Nat) (m : Option PageMove) (s : State) : Option PageMove × State :=
  match m with
  | some x => match x.slot with
    | some c => if (slotParts c).1 = k then (some { x with slot := none }, setC c CSlot.init s) else (m, s)
    | none => (m, s)
  | none => (m, s)

/-- The slot of a move that is given up is free again. -/
def dropMove (m : Option PageMove) (s : State) : State :=
  match m.bind (·.slot) with
  | some k => setC k CSlot.init s
  | none => s

/-- The rebuild begins to move its next page: a slot taken by R203 for the die of the slot that it leaves. -/
def beginRebuild (s : State) : State :=
  match nextRebuild s with
  | none => { s with ci := { s.ci with rebuilding := none } }
  | some (k, c) =>
    if c.st ≠ .mapped then { s with ci := { s.ci with rebuilding := none } }
    else
    let r := beginMove c.part c.rpage (fun s => placementOrder s (getObj s (oRegionPlacement c.part) == 1) (slotParts k).1 c.rpage) s
    { r.2 with ci := { r.2.ci with rebuilding := some r.1 } }

/-- One page of a rebuild is switched, and the next begins; a page that a command has a shadow of is tried again (R231, R232). -/
def rebuildStep (s : State) : State :=
  match s.ci.rebuilding with
  | some x => if moveReady x then beginRebuild (switchPage x s) else beginRebuild s
  | none => beginRebuild s

/-! ### Writers on a lost stack (R230) -/

/-- A command has a write to a stack that is not acknowledged: sent, or still to send to a shadow that lies there (R230). -/
def writesOn (s : State) (k : Nat) (y : Slot) : Bool :=
  let shadow (q : Nat) : Option Nat := (y.run.tag.bind (getTag s)).bind fun tag => tagShadow tag q
  let on (c : Option Nat) : Bool := match c with
    | some c => (slotParts c).1 == k
    | none => false
  y.run.acks.any on || y.run.outbox.any fun w => w.tile.isNone && on (shadow w.page)

/-- Commands with unacknowledged writes on a lost stack are killed and run again (R230). -/
def killWriters (k : Nat) (s : State) : State :=
  allQueues.foldl (fun s e =>
    let x := getQueue s e.1 e.2
    (slotsBetween e.1 x.commit x.tail).foldl (fun s sl => if writesOn s k (getSlot s e.1 e.2 sl) then startKill false false 0 e.1 e.2 sl s else s) s) s

/-- A rebuild starts with its first page (R231). -/
def startRebuild (s : State) : State := beginRebuild (setCisternState 3 s)

/-- A rebuild starts when the reserves fit; otherwise the Cistern stays degraded (R231). -/
def tryRebuild (k : Nat) (s : State) : State :=
  if promised s ≤ rebuiltSlots s then startRebuild s
  else capture 0x0305 31 0 (promised s) (rebuiltSlots s) 0 (capture 0x0603 31 k 2 0 0 s)

/-- A stack is lost (R230, R231). -/
def loseStack (k : Nat) (s : State) : State :=
  let before := getObj s oCisternState
  let s := setStackState k 4 s
  let s := { s with ci := { s.ci with
    pcRetrain := if (s.ci.pcRetrain.map (·.1)) = some k then none else s.ci.pcRetrain,
    pcWaiting := s.ci.pcWaiting.filter fun e => e.1 != k, lostPcs := s.ci.lostPcs.filter fun e => e.1 != k,
    stale := s.ci.stale.filter fun e => (slotParts e.1).1 != k } }
  let a := redoMove k s.ci.moving s
  let s := { a.2 with ci := { a.2.ci with moving := a.1 } }
  let s := killWriters k s
  if before = 2 ∨ before = 3 ∨ before = 5 then
    let s := dropMove s.ci.rebuilding s
    capture 0x0602 31 k 5 0 0 (setCisternState 5 { s with ci := { s.ci with rebuilding := none } })
  else tryRebuild k (capture 0x0602 31 k 2 0 0 (setCisternState 2 s))

/-- A stack that is up. -/
def stackUp (s : State) (k : Nat) : Bool := decide (k < 8) && (upStacks s).contains k && decide (getObj s oCisternState ≠ 0)

/-- STACK_LOST: a stack stops answering (R230, R565). -/
def execStackLost (stack : Nat) (s : State) : Out := whenLive s fun s =>
  if stackUp s stack then loseStack stack (learn 3 stack 0 0 0 s) else s

/-- A stack is lost and not rebuilt. -/
def someLost (s : State) : Bool := (presentStacks s).any fun k => stackState s k == 4

/-- A write of cistern.retire_stack (R229, R234). -/
def wRetireStack (m v : Nat) (s : State) : State × Ack :=
  if ¬ (v < 8 ∧ (presentStacks s).contains v = true) then (refuse m oCisternRetireStack 1 v s, .refused 1)
  else if someLost s || !(stackUp s v) then (refuse m oCisternRetireStack 2 v s, .refused 2)
  else (loseStack v s, .done)

/-- RETIRE_STACK (R229). -/
def execRetireStack (m value : Nat) (s : State) : Out := whenFree m (.retireStack m value) s fun s => (ackWrite oCisternRetireStack (wRetireStack m (value % 256) s)).1

/-- REBUILD_COMPLETE: no slot that had to be emptied is in use any more, every stripe has its parity, and the stack counts as rebuilt (R231). -/
def execRebuildComplete (s : State) : Out := whenLive s fun s =>
  if getObj s oCisternState = 3 ∧ rebuildMoves s = [] then
    let lost := (presentStacks s).filter fun k => stackState s k == 4
    let s := lost.foldl (fun s k => setStackState k 5 s) s
    let s := setObj oCisternAllocatable (rebuiltSlots s) (setCisternState 4 s)
    capture 0x0603 31 (lost.headD 0) 4 0 0 { s with ci := { s.ci with rebuilding := none } }
  else s

/-! ### Pseudo-channels (R229, R565) -/

/-- A stack's state without a retraining: 3 with a lost channel, else 1. -/
def restState (s : State) (k : Nat) : Nat := if s.ci.lostPcs.any (fun e => e.1 == k) then 3 else 1

/-- A channel starts retraining. -/
def startRetrain (k ch : Nat) (s : State) : State := setStackState k 2 { s with ci := { s.ci with pcRetrain := some (k, ch) } }

/-- PC_RETRAIN_START: at most one channel retrains; another waits (R565). -/
def execPcRetrainStart (stack ch : Nat) (s : State) : Out := whenLive s fun s =>
  let e := (stack, ch)
  if stackUp s stack = false ∨ s.ci.lostPcs.contains e = true ∨ s.ci.pcRetrain = some e ∨ s.ci.pcWaiting.contains e = true then s
  else if s.ci.pcRetrain.isSome then { s with ci := { s.ci with pcWaiting := s.ci.pcWaiting ++ [e] } }
  else startRetrain stack ch s

/-- The channel that waits longest starts. -/
def nextRetrain (s : State) : State :=
  match s.ci.pcWaiting with
  | e :: rest => if s.ci.pcRetrain.isNone then startRetrain e.1 e.2 { s with ci := { s.ci with pcWaiting := rest } } else s
  | [] => s

/-- PC_RETRAIN_COMPLETE: the stale lines are rewritten from their stripes and the channel serves again, or it is lost and its lines are reconstructed on every read; four lost channels lose the stack (R229, R565). -/
def execPcRetrainComplete (stack ch : Nat) (ok : Bool) (s : State) : Out := whenLive s fun s =>
  if s.ci.pcRetrain = some (stack, ch) then
    let s := { s with ci := { s.ci with pcRetrain := none } }
    let s := { s with ci := { s.ci with stale := s.ci.stale.filter fun e => !((slotParts e.1).1 == stack && lineChannel e.1 e.2 == ch) } }
    let s := if ok then setStackState stack (restState s stack) s
      else
        let s := { s with ci := { s.ci with lostPcs := s.ci.lostPcs ++ [(stack, ch)] } }
        learn 4 stack ch 0 0 (setStackState stack 3 s)
    let s := capture 0x0604 31 stack ch (if ok then 0 else 1) 0 s
    let s := if 4 ≤ (s.ci.lostPcs.filter fun e => e.1 == stack).length then loseStack stack (learn 3 stack 0 0 0 s) else s
    nextRetrain s
  else s

/-! ### Regions (R202, R239) -/

/-- Highest mapped region page plus one. -/
def mappedTop (s : State) (p : Nat) : Nat :=
  (s.ci.pages.filter fun e => decide (rKey p 0 ≤ e.1) && decide (e.1 < rKey (p + 1) 0) && (slotNow s p (e.1 - rKey p 0)).isSome).foldl (fun m e => max m (e.1 - rKey p 0 + 1)) 0

/-- A partition is not stopped. -/
def partRuns (s : State) (p : Nat) : Bool := decide (2 ≤ pState s p)

/-- The reserves and the margin fit the allocatable slots (R202). -/
def capacityOk (s : State) (total margin : Nat) : Bool := decide (total + margin ≤ getObj s oCisternAllocatable)

/-- A refusal for want of capacity has a record of its own beside the write's (R30, R202). -/
def refuseCapacity (m key v needed : Nat) (s : State) : State × Ack :=
  (refuse m key 1 v (capture 0x0305 31 0 needed (getObj s oCisternAllocatable) 0 s), .refused 1)

/-- A lowered reserve or margin may let a rebuild start (R231). -/
def retryRebuild (s : State) : State :=
  if getObj s oCisternState = 2 ∧ promised s ≤ rebuiltSlots s then startRebuild s else s

/-- A write of region[p].span (R239). -/
def wSpan (m p v : Nat) (s : State) : State × Ack :=
  if partRuns s p then (refuse m (oRegionSpan p) 2 v s, .refused 2)
  else if v < mappedTop s p ∨ getObj s (oRegionReserve p) < v then (refuse m (oRegionSpan p) 1 v s, .refused 1)
  else (setObj (oRegionSpan p) v s, .done)

/-- A write of region[p].reserve: not below the span, nor below the slots that the region uses, shadows that wait to be settled among them (R202, R239). -/
def wReserve (m p v : Nat) (s : State) : State × Ack :=
  let total := reservedTotal s - getObj s (oRegionReserve p) + v
  if partRuns s p then (refuse m (oRegionReserve p) 2 v s, .refused 2)
  else if v < getObj s (oRegionSpan p) ∨ v < regionUse s p then (refuse m (oRegionReserve p) 1 v s, .refused 1)
  else if capacityOk s total (getObj s oCisternFallbackMargin) then (retryRebuild (setObj (oRegionReserve p) v s), .done)
  else refuseCapacity m (oRegionReserve p) v (total + getObj s oCisternFallbackMargin) s

/-- A write of region[p].placement (R203, R239). -/
def wPlacement (m p v : Nat) (s : State) : State × Ack :=
  if partRuns s p then (refuse m (oRegionPlacement p) 2 v s, .refused 2)
  else if 1 < v then (refuse m (oRegionPlacement p) 1 v s, .refused 1)
  else (setObj (oRegionPlacement p) v s, .done)

/-- A write of cistern.fallback_margin (R202, R234). -/
def wMargin (m v : Nat) (s : State) : State × Ack :=
  if (List.range 16).any (partRuns s) then (refuse m oCisternFallbackMargin 2 v s, .refused 2)
  else if capacityOk s (reservedTotal s) v then (retryRebuild (setObj oCisternFallbackMargin v s), .done)
  else refuseCapacity m oCisternFallbackMargin v (reservedTotal s + v) s

/-- REGION_WRITE: span (1), reserve (2) or placement (3) (R239). -/
def execRegionWrite (m p sub value : Nat) (s : State) : Out := whenFree m (.regionWrite m p sub value) s fun s =>
  if sub = 1 then (ackWrite (oRegionSpan p) (wSpan m p value s)).1
  else if sub = 2 then (ackWrite (oRegionReserve p) (wReserve m p value s)).1
  else (ackWrite (oRegionPlacement p) (wPlacement m p (value % 256) s)).1

/-! ### Migration (R232, R236) -/

/-- cistern.migrate_status. -/
def setMigrateStatus (result pages : Nat) (s : State) : State := setObj oCisternMigrateStatus (result * 2 ^ 24 + pages % 2 ^ 24) s

/-- Pages moved or skipped so far. -/
def migratePages (s : State) : Nat := getField s oCisternMigrateStatus 23 0

/-- The migration objects name an existing partition, a range of its region and a target (R236). -/
def migrateOk (s : State) : Bool :=
  let p := getObj s oCisternMigratePartition
  let t := getObj s oCisternMigrateTarget
  decide (p < 16) && decide (0 < getObj s oCisternMigrateCount) &&
    decide (getObj s oCisternMigrateFirst + getObj s oCisternMigrateCount ≤ getObj s (oRegionSpan p)) && (decide (t < 4) || t == 0x10)

/-- The migration begins to move its next page (R232). -/
def beginPage (s : State) : State :=
  match s.ci.migrate with
  | none => s
  | some (p, q, _, target) =>
    let r := beginMove p q (fun s => placementOrder s (target == 0x10) target q) s
    { r.2 with ci := { r.2.ci with moving := some r.1 } }

/-- A write of cistern.migrate_command: a start, which begins with the first page, or an abort, which frees the slot of the page being moved (R232, R236). -/
def wMigrate (m v : Nat) (s : State) : State × Ack :=
  if v = 1 then
    if s.ci.migrate.isSome ∨ getObj s oCisternState = 0 then (refuse m oCisternMigrateCommand 2 v s, .refused 2)
    else if migrateOk s then
      (beginPage (setMigrateStatus 1 0 { s with ci := { s.ci with
        migrate := some (getObj s oCisternMigratePartition, getObj s oCisternMigrateFirst, getObj s oCisternMigrateCount, getObj s oCisternMigrateTarget) } }), .done)
    else (refuse m oCisternMigrateCommand 1 v (setMigrateStatus 3 0 s), .refused 1)
  else if v = 2 then
    if s.ci.migrate.isSome then
      let s := dropMove s.ci.moving s
      (setMigrateStatus 2 (migratePages s) { s with ci := { s.ci with migrate := none, moving := none } }, .done)
    else (refuse m oCisternMigrateCommand 2 v s, .refused 2)
  else (refuse m oCisternMigrateCommand 1 v s, .refused 1)

/-- A bring-up step that empties the regions ends a running migration, which reads as aborted (R236, R237). -/
def endMigration (s : State) : State :=
  if s.ci.migrate.isSome then setMigrateStatus 2 (migratePages s) { s with ci := { s.ci with migrate := none, moving := none } } else s

/-- MIGRATE_START (R232). -/
def execMigrateStart (m : Nat) (s : State) : Out := whenFree m (.migrateStart m) s fun s => (ackWrite oCisternMigrateCommand (wMigrate m 1 s)).1

/-- MIGRATE_ABORT (R236). -/
def execMigrateAbort (m : Nat) (s : State) : Out := whenFree m (.migrateAbort m) s fun s => (ackWrite oCisternMigrateCommand (wMigrate m 2 s)).1

/-- One page of the migration is moved or skipped, and the next begins; a page that waits for a slot tries again (R232, R236). -/
def migrateStep (s : State) : State :=
  match s.ci.migrate, s.ci.moving with
  | some (p, q, left, target), some x =>
    if moveReady x then
      let s := switchPage x s
      let n := migratePages s + 1
      let s := { s with ci := { s.ci with moving := none } }
      if left ≤ 1 then setMigrateStatus 0 n { s with ci := { s.ci with migrate := none } }
      else beginPage (setMigrateStatus 1 n { s with ci := { s.ci with migrate := some (p, q + 1, left - 1, target) } })
    else beginPage s
  | _, _ => s

/-- PAGE_MIGRATION_SWITCH: the page that is being moved is mapped to its new slot, or skipped: of the migration, or of a rebuild under way (R231, R232). Where both are, a free value says whose page it is (DESIGN CHOICE, log entry 88). -/
def execPageMigrationSwitch (s : State) : Out := whenLive s fun s =>
  if getObj s oCisternState = 3 then
    if s.ci.migrate.isSome then (if freeNat s 1 = 1 then rebuildStep (useFree s) else migrateStep (useFree s))
    else rebuildStep s
  else migrateStep s

end Sys2Proof.Machine
end

