-- ==== Sys2Proof/Machine/Graph.lean ====
section
/-!
DEFINITION. Graph sections of a program image (R275 to R280), relocation (R184), patches (R278, R279, R289) and the streams' rate codes (R271, R294).
-/

namespace Sys2Proof.Machine

/-! ### Reading a section -/

/-- A little-endian number of `n` bytes at an offset; bytes beyond the end read 0. -/
def natAt (d : List Byte) (i n : Nat) : Nat := leNat ((d.drop i).take n)

/-- A graph descriptor (R275). -/
structure GraphD where
  index : Nat
  kind : Nat
  phase : Nat
  up : Nat
  chunks : Nat
  count : Nat
  finish : Nat
  steps : Nat
  family : Nat
deriving DecidableEq, Repr

/-- Descriptor `i` of a section. -/
def graphDesc (d : List Byte) (i : Nat) : GraphD :=
  let a := 32 + 32 * i
  { index := i, kind := natAt d a 1, phase := natAt d (a + 1) 1, up := natAt d (a + 2) 1, chunks := natAt d (a + 3) 1,
    count := natAt d (a + 4) 2, finish := natAt d (a + 6) 2, steps := natAt d (a + 8) 4, family := natAt d (a + 12) 2 }

/-- The graphs of a section. -/
def graphsOf (d : List Byte) : List GraphD := if d.length < 32 then [] else (List.range (natAt d 0 2)).map (graphDesc d)

/-- A step header (R277). -/
structure StepH where
  kind : Nat
  cls : Nat
  anchor : Nat
  sub : Nat
  queue : Nat
  output : Bool
  chunk : Nat
  patches : Nat
deriving DecidableEq, Repr

/-- First byte of step `i`'s record. -/
def stepBase (g : GraphD) (i : Nat) : Nat := g.steps + 160 * i

/-- The header of step `i`. -/
def stepHead (d : List Byte) (g : GraphD) (i : Nat) : StepH :=
  let h := natAt d (stepBase g i) 4
  { kind := bits h 31 29, cls := bits h 28 27, anchor := bits h 26 21, sub := bits h 20 20, queue := bits h 19 18,
    output := bit h 17, chunk := bits h 16 13, patches := bits h 12 9 }

/-- The 16 words of a command record at an offset (R72). -/
def recordAt (d : List Byte) (a : Nat) : List Word := (List.range 16).map fun i => BitVec.ofNat 32 (natAt d (a + 4 * i) 4)

/-- The command words of step `i`. -/
def stepWords (d : List Byte) (g : GraphD) (i : Nat) : List Word := recordAt d (stepBase g i + 16)

/-- Patch record `j` of step `i` (R278). -/
def patchAt (d : List Byte) (g : GraphD) (i j : Nat) : Nat := natAt d (stepBase g i + 0x50 + 8 * j) 8

/-! ### Relocation (R184) -/

/-- Word `i` of a list of words. -/
def wordAt (w : List Word) (i : Nat) : Nat := (w.getD i 0).toNat

/-- Field [msb:lsb] of word `i` replaced. -/
def setWordField (w : List Word) (i msb lsb v : Nat) : List Word := w.set i (BitVec.ofNat 32 (setBits (wordAt w i) msb lsb v))

/-- A transfer that carries a tile mask (R174). -/
def isMulticast (cls : Nat) (w : List Word) : Bool := cls == 0 && bits (wordAt w 0) 31 28 == 3 && bits (wordAt w 0) 27 20 == 4

/-- The sync-object fields a record uses: word, msb, lsb (R184). -/
def syncFields (cls : Nat) (w : List Word) : List (Nat × Nat × Nat) :=
  (if bit (wordAt w 0) 11 then [(1, 31, 16)] else []) ++ (if bits (wordAt w 0) 19 12 ≠ 0 then [(1, 15, 0)] else []) ++
    (if cls = 3 ∧ bits (wordAt w 0) 31 28 = 7 ∧ bits (wordAt w 0) 27 20 = 2 ∧ bits (wordAt w 15) 15 8 ≠ 0 then [(15, 31, 16)] else [])

/-- The image-tile fields of a record: remote tile fields of a tile command, tile fields of an engine's descriptors, in their high words (R74, R141, R184). The C of a multicast has none (R174), and a fence has no operands (R73). -/
def tileFields (cls : Nat) (w : List Word) : List (Nat × Nat × Nat) :=
  if bits (wordAt w 0) 31 28 = 4 then []
  else [4, 6, 8, 10].filterMap fun i =>
    if cls = 0 then (if bit (wordAt w (i + 1)) 31 && !(isMulticast cls w && i == 8) then some (i + 1, 30, 26) else none)
    else if bits (wordAt w i) 31 30 = 1 then some (i + 1, 17, 13) else none

/-- A record names an image tile or a sync object that the image does not have (R184). -/
def recordBad (cls tiles syncs : Nat) (w : List Word) : Bool :=
  ((syncFields cls w).any fun f => decide (syncs ≤ bits (wordAt w f.1) f.2.1 f.2.2)) ||
    ((tileFields cls w).any fun f => decide (tiles ≤ bits (wordAt w f.1) f.2.1 f.2.2)) ||
    (isMulticast cls w && decide (2 ^ tiles ≤ wordAt w 13))

/-- A mask of image tiles as the mask of the logical tiles bound to them. -/
def boundMask (binding : List Nat) (mask : Nat) : Nat := ((List.range 32).filter (bit mask ·)).foldl (fun a t => a ||| 2 ^ (binding.getD t 0)) 0

/-- A relocated record (R184). -/
def relocate (cls base : Nat) (binding : List Nat) (w : List Word) : List Word :=
  let w1 := (syncFields cls w).foldl (fun v f => setWordField v f.1 f.2.1 f.2.2 (bits (wordAt v f.1) f.2.1 f.2.2 + base)) w
  let w2 := (tileFields cls w).foldl (fun v f => setWordField v f.1 f.2.1 f.2.2 (binding.getD (bits (wordAt v f.1) f.2.1 f.2.2) 0)) w1
  if isMulticast cls w then w2.set 13 (BitVec.ofNat 32 (boundMask binding (wordAt w 13))) else w2

/-! ### Checks of a section (R275 to R280) -/

/-- A patch record breaks R278 or R279. -/
def patchBad (v : Nat) : Bool :=
  let kind := bits v 23 21
  let target := bits v 19 18
  let word := bits v 17 14
  decide (5 < kind) || target == 3 || (kind == 3 && target != 0) || (target == 1 && !([4, 6, 8, 10].contains word)) ||
    (target == 2 && word != 13) || (target == 0 && decide (32 < bits v 13 9 + bits v 8 4 + 1))

/-- A step breaks R277, R278, R279 or its anchor R280. -/
def stepBad (d : List Byte) (tiles rims syncs : Nat) (g : GraphD) (i : Nat) : Bool :=
  let h := stepHead d g i
  let w := stepWords d g i
  decide (2 < h.kind) || decide (10 < h.patches) || (h.chunk != 0 && g.kind != 2) ||
    (h.kind == 0 && ((if h.cls = 1 then decide (h.anchor < 32) || decide (32 + rims ≤ h.anchor) else decide (tiles ≤ h.anchor)) ||
      (h.sub != 0 && h.cls != 3) || recordBad h.cls tiles syncs w)) ||
    ((List.range h.patches).any fun j => patchBad (patchAt d g i j))

/-- The order and kinds of a graph's steps break R277. -/
def stepKindsBad (d : List Byte) (g : GraphD) : Bool :=
  let hs := (List.range g.count).map (stepHead d g)
  match g.kind with
  | 1 =>
    let n := g.count
    decide (n < 3) || (hs.getD (n - 2) (stepHead d g 0)).kind != 1 || (hs.getD (n - 1) (stepHead d g 0)).kind != 2 ||
      ((hs.take (n - 2)).any fun h => h.kind != 0) || decide (n - 2 ≤ g.finish) || ((hs.drop g.finish).any fun h => !h.output)
  | 3 => (List.range g.count).any fun i =>
      let h := stepHead d g i
      let op := bits (wordAt (stepWords d g i) 0) 27 20
      h.kind != 0 || !((h.cls == 3 && op == 5) || (h.cls == 1 && op == 3))
  | _ => hs.any fun h => h.kind != 0 || h.output

/-- A graph breaks R275 to R280 in section 0x0006 (false) or 0x0007 (true). -/
def graphBad (d : List Byte) (fallback : Bool) (tiles rims syncs : Nat) (g : GraphD) : Bool :=
  (if fallback then g.kind != 3 else decide (2 < g.kind)) || g.up == 0 || decide (5 < g.up) ||
    (if g.kind = 1 ∨ g.kind = 3 then decide (g.up ≤ g.phase) else g.phase != 0) ||
    (if g.kind = 2 then g.chunks == 0 || decide (16 < g.chunks) else g.chunks != 0) ||
    g.count == 0 || decide (4096 < g.count) || g.steps % 32 != 0 || decide (d.length < g.steps + 160 * g.count) ||
    (if g.kind < 2 then decide (g.count ≤ g.finish) else g.finish != 0xFFFF) ||
    ((List.range g.count).any (stepBad d tiles rims syncs g)) || stepKindsBad d g

/-- A graph section is malformed (R275, R280). -/
def graphSectionBad (d : List Byte) (fallback : Bool) (tiles rims syncs : Nat) : Bool :=
  let n := natAt d 0 2
  decide (d.length < 32) || n == 0 || decide (256 < n) || decide (d.length < 32 + 32 * n) ||
    (graphsOf d).any (graphBad d fallback tiles rims syncs)

/-- A graph section with every command relocated (R184, R280). -/
def relocateSection (base : Nat) (binding : List Nat) (d : List Byte) : List Byte :=
  (graphsOf d).foldl (fun d g => (List.range g.count).foldl (fun d i =>
    let h := stepHead d g i
    if h.kind = 0 then
      let a := stepBase g i + 16
      d.take a ++ (relocate h.cls base binding (stepWords d g i)).flatMap (fun w => leBytes 4 w.toNat) ++ d.drop (a + 64)
    else d) d) d

/-! ### Families (R276) -/

/-- The section that holds graphs of a kind. -/
def sectionOf (l : Loaded) (kind : Nat) : List Byte := if kind = 3 then l.fallbacks else l.templates

/-- The graphs of a family, both sections. -/
def familyGraphs (l : Loaded) (family : Nat) : List GraphD :=
  ((graphsOf l.templates) ++ (graphsOf l.fallbacks)).filter fun g => g.family == family

/-- A graph of a family. -/
def familyGraph (l : Loaded) (family kind phase : Nat) : Option GraphD :=
  (familyGraphs l family).find? fun g => g.kind == kind && g.phase == phase

/-- U of a complete family (R276). -/
def familyUp (l : Loaded) (family : Nat) : Option Nat :=
  match familyGraphs l family with
  | [] => none
  | g :: gs =>
    let count (kind phase : Nat) : Nat := ((g :: gs).filter fun x => x.kind == kind && x.phase == phase).length
    if (g :: gs).all (fun x => x.up == g.up) && count 0 0 == 1 && count 2 0 == 1 &&
        ((List.range g.up).all fun p => count 1 p == 1 && count 3 p == 1) && (g :: gs).length == 2 + 2 * g.up
    then some g.up else none

/-- The engine that serves a step (R280). A die without a motion engine of its own is served where its logical die's tile sits. -/
def stepEngine (s : State) (l : Loaded) (h : StepH) : Nat :=
  let tile := l.binding.getD h.anchor 0
  let die := match siteOf s tile with
    | some k => k / 8
    | none => tile / 8
  match h.cls with
  | 0 => tile
  | 1 => l.rims.getD (h.anchor - 32) 32
  | 2 => 36 + die
  | _ => 40 + 2 * die + h.sub

/-! ### Rates (R271, R294) -/

/-- Frames per second of a rate code; 0 for every other code. -/
def rateHz (code : Nat) : Nat := [0, 24, 25, 30, 48, 50, 60, 100, 120].getD code 0

/-- `n` periods of a rate in compute cycles, rounded down; fractional rates are 1000/1001 of the integer ones. -/
def span (code : Nat) (fractional : Bool) (n : Nat) : Nat := n * 1400000 * (if fractional then 1001 else 1000) / rateHz code

/-- Source rate code. -/
def seqSource (s : State) (k : Nat) : Nat := getField s (oSeqRates k) 15 12

/-- Output rate code. -/
def seqOut (s : State) (k : Nat) : Nat := getField s (oSeqRates k) 11 8

/-- Fractional rates. -/
def seqFrac (s : State) (k : Nat) : Bool := objBit s (oSeqRates k) 0

/-- U (R271). -/
def seqUp (s : State) (k : Nat) : Nat := rateHz (seqOut s k) / rateHz (seqSource s k)

/-- `n` output periods. -/
def outSpan (s : State) (k n : Nat) : Nat := span (seqOut s k) (seqFrac s k) n

/-- t8 of a phase: 256 k / U, rounded to nearest even (R271). -/
def phaseT8 (up phase : Nat) : Nat := (rne (256 * phase : Nat) up).toNat

/-! ### Instances (R278, R279, R285, R289) -/

/-- The value i of a patch (R278). -/
def patchCounter (x : Inst) (v : Nat) : Nat := (if bit v 20 || x.kind == 0 || x.kind == 2 then x.m else x.o) % 2 ^ 32

/-- Count of a patch; 0 stands for 256. -/
def patchCount (v : Nat) : Nat := if bits v 31 24 = 0 then 256 else bits v 31 24

/-- The first advance of a warm-up (R288): the gather step with opcode 0x02 of its first frame. -/
def isAdvance (h : StepH) (w : List Word) : Bool := h.cls == 2 && bits (wordAt w 0) 27 20 == 2

/-- New value of a field, before its width cuts it (R279). -/
def patchValue (slot seed step : Nat) (x : Inst) (advance : Bool) (j v f : Nat) : Nat :=
  let i := patchCounter x v
  let param := bits v 63 32
  match bits v 23 21 with
  | 0 => f + i * param
  | 1 => f + (i % patchCount v) * param
  | 2 => f + slot * param
  | 3 => x.t8
  | 4 => f + (rand16 seed i (step * 16 + j) % patchCount v) * param
  | _ => if x.firstAdvance && advance then param else f

/-- One patch applied to a command's words (R278, R279). -/
def applyPatch (slot seed step : Nat) (x : Inst) (h : StepH) (j v : Nat) (w : List Word) : List Word :=
  let word := bits v 17 14
  let value := patchValue slot seed step x (isAdvance h w) j v
  match bits v 19 18 with
  | 1 =>
    let r := value (bits (wordAt w word) 25 0 + bits (wordAt w (word + 1)) 7 0 * 2 ^ 26) % 2 ^ 34
    setWordField (setWordField w word 25 0 r) (word + 1) 7 0 (r / 2 ^ 26)
  | 2 =>
    let r := value (wordAt w 13 + bits (wordAt w 14) 31 30 * 2 ^ 32) % 2 ^ 34
    setWordField (setWordField w 13 31 0 r) 14 31 30 (r / 2 ^ 32)
  | _ =>
    let lsb := bits v 13 9
    let msb := lsb + bits v 8 4
    setWordField w word msb lsb (value (bits (wordAt w word) msb lsb))

/-- The copy variant of a warp: mode 1, t8 0, B and the auxiliary operand unused (R285). -/
def copyVariant (h : StepH) (w : List Word) : List Word :=
  if h.cls = 3 ∧ bits (wordAt w 0) 27 20 = 5 then
    setWordField (setWordField (setWordField (setWordField w 14 16 16 1) 14 31 23 0) 6 31 30 0) 10 31 30 0
  else w

/-- The command of step `i` of an instance of sequencer `k`, every patch applied in record order (R279, R281). -/
def stepCommand (s : State) (k : Nat) (l : Loaded) (x : Inst) (i : Nat) : List Word :=
  let d := sectionOf l x.kind
  let g := graphDesc d x.graph
  let h := stepHead d g i
  let w := (List.range h.patches).foldl
    (fun w j => applyPatch (getObj s (oSeqSlot k)) (getObj s (oSeqGrainSeed k)) i x h j (patchAt d g i j) w) (stepWords d g i)
  if x.copy then copyVariant h w else w

/-- The first step of an instance at or after `i` that it publishes, at most `n` steps on: the steps of its chunk in a warm-up, and commands only: overlay and present steps go to no queue (R282, R288, R314). -/
def nextStep (d : List Byte) (g : GraphD) (x : Inst) : Nat → Nat → Option Nat
  | 0, _ => none
  | n + 1, i =>
    if g.count ≤ i then none
    else
      let h := stepHead d g i
      if h.kind = 0 ∧ (x.kind ≠ 2 ∨ h.chunk = x.chunk) then some i else nextStep d g x n (i + 1)

/-- The step that an instance publishes next. -/
def instNext (l : Loaded) (x : Inst) : Option Nat :=
  let d := sectionOf l x.kind
  let g := graphDesc d x.graph
  nextStep d g x (g.count + 1) x.next

/-- A command as a slot, for the readers of its fields. -/
def asSlot (p : Nat) (w : List Word) : Slot := { Slot.init with words := w, part := p }

/-- The picture that a command's C and band name: line 0 of C is the band's first line. -/
def bandPicture (p : Nat) (w : List Word) : Picture :=
  let x := asSlot p w
  let c := rC x
  { part := p, offset := c.offset - rmY0 x * c.stride, stride := c.stride, code := c.fmt, w := rmW x, h := rmPicH x }

/-- The picture an instance writes: that of its last rim step (R284). -/
def instPicture (s : State) (k : Nat) (l : Loaded) (x : Inst) : Option Picture :=
  let d := sectionOf l x.kind
  let g := graphDesc d x.graph
  let rims := (List.range g.count).filter fun i => (stepHead d g i).kind == 0 && (stepHead d g i).cls == 1
  rims.getLast?.map fun i => bandPicture (getObj s (oSeqPartition k)) (stepCommand s k l x i)

/-- The picture that source frame `m` of a stream is read from: A of the first pyramid of its source graph, else of its first rim step. -/
def sourcePicture (s : State) (k m : Nat) : Option Picture :=
  match (getPart s (getObj s (oSeqPartition k))).loaded with
  | none => none
  | some l =>
    match familyGraph l (getObj s (oSeqFamily k)) 0 0 with
    | none => none
    | some g =>
      let d := l.templates
      let x : Inst := { kind := 0, graph := g.index, o := 0, m := m, t8 := 0, chunk := 0, next := 0, steps := [], finish := none, passed := false,
                        cutCount := 0, copy := false, firstAdvance := false, dropped := false }
      let cmds := (List.range g.count).filterMap fun i =>
        let h := stepHead d g i
        if h.kind = 0 ∧ (h.cls = 1 ∨ h.cls = 3) then some (h.cls, stepCommand s k l x i) else none
      let pyr := cmds.find? fun c => c.1 == 3 && bits (wordAt c.2 0) 27 20 == 1
      let stem := cmds.find? fun c => c.1 == 1 && bits (wordAt c.2 0) 27 20 == 1
      let pic (w : List Word) (wd ht : Nat) : Picture :=
        let a := rA (asSlot 0 w)
        { part := getObj s (oSeqPartition k), offset := a.offset, stride := a.stride, code := a.fmt, w := wd, h := ht }
      match pyr, stem with
      | some c, _ => some (pic c.2 (moW (asSlot 0 c.2)) (moH (asSlot 0 c.2)))
      | none, some c => some (pic c.2 (rmW (asSlot 0 c.2) * rmFactor (asSlot 0 c.2)) (rmPicH (asSlot 0 c.2) * rmFactor (asSlot 0 c.2)))
      | none, none => none

end Sys2Proof.Machine
end

