-- ==== Sys2Proof/Machine/Load.lean ====
section
/-!
DEFINITION. Program images (06_spatial_pipelines.md R177 to R192): the checks of a load, its writes, unload and abort.
-/

namespace Sys2Proof.Machine

/-! ### The file (R177 to R183) -/

/-- An entry of the section table (R179). -/
structure SectionD where
  index : Nat
  type : Nat
  idx : Nat
  crc : Nat
  offset : Nat
  length : Nat
deriving DecidableEq, Repr

/-- Entry `i` of the section table. -/
def sectionD (d : List Byte) (i : Nat) : SectionD :=
  let a := 0x40 + 32 * i
  { index := i, type := natAt d a 2, idx := natAt d (a + 2) 2, crc := natAt d (a + 4) 4, offset := natAt d (a + 8) 8, length := natAt d (a + 16) 8 }

/-- section_count, image_tiles, rim_streams, cistern_bytes, sync_objects, image_id and iface_version (R177). -/
def imSections (d : List Byte) : Nat := natAt d 0x0A 2

/-- image_tiles. -/
def imTiles (d : List Byte) : Nat := natAt d 0x0C 1

/-- rim_streams. -/
def imRims (d : List Byte) : Nat := natAt d 0x0D 1

/-- cistern_bytes. -/
def imCistern (d : List Byte) : Nat := natAt d 0x10 8

/-- sync_objects. -/
def imSyncs (d : List Byte) : Nat := natAt d 0x18 4

/-- image_id. -/
def imId (d : List Byte) : Nat := natAt d 0x20 8

/-- iface_version. -/
def imVersion (d : List Byte) : Nat := natAt d 4 4

/-- The section table. -/
def sectionTable (d : List Byte) : List SectionD := (List.range (imSections d)).map (sectionD d)

/-- The bytes of a section. -/
def sectionBytes (d : List Byte) (x : SectionD) : List Byte := (d.drop x.offset).take x.length

/-- The sections of a type. -/
def ofType (d : List Byte) (type : Nat) : List SectionD := (sectionTable d).filter fun x => x.type == type

/-- The bytes of the one section of a type; none where the image has none. -/
def oneSection (d : List Byte) (type : Nat) : List Byte :=
  match ofType d type with
  | x :: _ => sectionBytes d x
  | [] => []

/-- Page `q` of an image tile is resident (R181). -/
def residentIn (plan : List Byte) (t q : Nat) : Bool := bit (natAt plan (128 * t + q / 8) 1) (q % 8)

/-- Resident pages of a bank of an image tile. -/
def residentCount (plan : List Byte) (t b : Nat) : Nat := ((List.range 48).filter fun i => residentIn plan t (48 * b + i)).length

/-- Working pages of a bank of an image tile. -/
def workingCount (plan : List Byte) (t b : Nat) : Nat := natAt plan (128 * t + 0x60 + b) 1

/-- Anchor image tile and queue mask of a rim stream (R182). -/
def rimStream (plan : List Byte) (r : Nat) : Nat × Nat := (natAt plan (8 * r) 1, natAt plan (8 * r + 1) 1 % 16)

/-- An entry of the initial-pages section: image tile, page, length and source offset (R183). -/
def initialPage (d : List Byte) (i : Nat) : Nat × Nat × Nat × Nat :=
  (natAt d (16 * i) 1, natAt d (16 * i + 2) 2, natAt d (16 * i + 4) 4, natAt d (16 * i + 8) 8)

/-- Entries of the initial-pages section. -/
def initialPages (d : List Byte) : List (Nat × Nat × Nat × Nat) := (List.range (d.length / 16)).map (initialPage d)

/-! ### Checks (R185) -/

/-- A refusal: result, section and image tile of fabric.load_status (R192). -/
structure LoadFail where
  result : Nat
  sect : Nat
  tile : Nat
deriving DecidableEq, Repr

/-- A refusal with no section and no tile. -/
def failPlain (r : Nat) : LoadFail := { result := r, sect := 0x7FF, tile := 0x3F }

/-- A refusal for a section. -/
def failSection (r i : Nat) : LoadFail := { result := r, sect := i, tile := 0x3F }

/-- A refusal for an image tile. -/
def failTile (r t : Nat) : LoadFail := { result := r, sect := 0x7FF, tile := t }

/-- Header and section table are whole and their check values match (R177, R178, R491). -/
def headerOk (d : List Byte) : Bool :=
  decide (64 ≤ d.length) && natAt d 0 4 == 0x49505847 && natAt d 8 2 == 64 && crc32c (d.take 0x3C) == natAt d 0x3C 4 &&
    decide (0x40 + 32 * imSections d ≤ d.length) && crc32c ((d.drop 0x40).take (32 * imSections d)) == natAt d 0x38 4

/-- A section is whole and its check value matches (R179, R491). -/
def sectionOk (d : List Byte) (x : SectionD) : Bool := decide (x.offset + x.length ≤ d.length) && crc32c (sectionBytes d x) == x.crc

/-- Two sections share a byte. -/
def overlapping (x y : SectionD) : Bool := decide (x.offset < y.offset + y.length) && decide (y.offset < x.offset + x.length)

/-- A section starts off a multiple of 32 or overlaps another (R179). -/
def sectionPlaceBad (d : List Byte) (x : SectionD) : Bool := x.offset % 32 != 0 || (sectionTable d).any fun y => y.index != x.index && overlapping x y

/-- A section has a type or an index that R180 refuses; a type with bit 15 is ignored. -/
def sectionKindBad (d : List Byte) (x : SectionD) : Bool :=
  if bit x.type 15 then false
  else if x.type = 5 then !(decide (x.idx < imTiles d) || (decide (0x100 ≤ x.idx) && decide (x.idx < 0x100 + imRims d)))
  else !(decide (1 ≤ x.type) && decide (x.type ≤ 8)) || x.idx != 0

/-- The counts of R180. -/
def countsOk (d : List Byte) : Bool :=
  let n (t : Nat) : Nat := (ofType d t).length
  n 1 == 1 && n 2 == (if imRims d = 0 then 0 else 1) && n 3 == 1 && decide (n 4 ≤ 1) && decide (n 6 ≤ 1) && decide (n 7 ≤ 1) && decide (n 8 ≤ 1)

/-- The header's own limits (R177). -/
def limitsOk (d : List Byte) : Bool :=
  decide (1 ≤ imSections d) && decide (imSections d ≤ 1024) && decide (1 ≤ imTiles d) && decide (imTiles d ≤ 32) && decide (imRims d ≤ 4) &&
    decide (1 ≤ imSyncs d) && decide (imSyncs d ≤ 65536)

/-- The image tiles whose plan entry breaks R181. -/
def planBad (d plan : List Byte) : List Nat :=
  (List.range (imTiles d)).filter fun t => (List.range 16).any fun b => decide (48 < residentCount plan t b) || decide (48 < workingCount plan t b)

/-- An entry of the initial-pages section breaks R183. -/
def initialBad (d : List Byte) (i : Nat) : Bool :=
  let es := initialPages (oneSection d 4)
  let e := es.getD i (0, 0, 0, 0)
  decide (imTiles d ≤ e.1) || decide (768 ≤ e.2.1) || !(residentIn (oneSection d 1) e.1 e.2.1) || e.2.2.1 % 32 != 0 || decide (65536 < e.2.2.1) ||
    e.2.2.2 % 32 != 0 || decide ((oneSection d 3).length < e.2.2.2 + e.2.2.1) ||
    (es.take i).any fun f => f.1 == e.1 && f.2.1 == e.2.1

/-- What is wrong with the content of a section: the image tile concerned, or none named (R181 to R184, R280). -/
def contentFail (d : List Byte) (x : SectionD) : Option LoadFail :=
  let bs := sectionBytes d x
  let bad (b : Bool) : Option LoadFail := if b then some (failSection 0x0B x.index) else none
  if x.type = 1 then
    if bs.length ≠ 128 * imTiles d then some (failSection 0x0B x.index)
    else (planBad d bs).head?.map fun t => { result := 0x0B, sect := x.index, tile := t }
  else if x.type = 2 then
    bad (bs.length != 8 * imRims d || (List.range (imRims d)).any fun r => decide (imTiles d ≤ (rimStream bs r).1))
  else if x.type = 4 then
    if bs.length % 16 ≠ 0 then some (failSection 0x0B x.index)
    else ((List.range (bs.length / 16)).find? (initialBad d)).map fun i =>
      let t := (initialPage bs i).1
      { result := 0x0B, sect := x.index, tile := if t < imTiles d then t else 0x3F }
  else if x.type = 5 then
    bad (bs.length % 64 != 0 || (List.range (bs.length / 64)).any fun i => recordBad (if x.idx < 0x100 then 0 else 1) (imTiles d) (imSyncs d) (recordAt bs (64 * i)))
  else if x.type = 6 then bad (graphSectionBad bs false (imTiles d) (imRims d) (imSyncs d))
  else if x.type = 7 then bad (graphSectionBad bs true (imTiles d) (imRims d) (imSyncs d))
  else none

/-- Bytes rounded up to pages. -/
def filePages (n : Nat) : Nat := ceilDiv n 65536

/-- The sections that follow the weights in the region: streams, templates and fallback graphs in table order (R212). -/
def placedSections (d : List Byte) : List SectionD := (sectionTable d).filter fun x => x.type == 5 || x.type == 6 || x.type == 7

/-- The pages of the region that R212 fills. -/
def filledPages (d : List Byte) : Nat := 2 * filePages (oneSection d 3).length + sumNat ((placedSections d).map fun x => filePages x.length)

/-- The checks of the file alone, up to result 0x0B, but for the version. -/
def layoutFail (d : List Byte) : Option LoadFail :=
  if ¬ limitsOk d then some (failPlain 0x0B)
  else match (sectionTable d).find? fun x => sectionPlaceBad d x || sectionKindBad d x with
    | some x => some (failSection 0x0B x.index)
    | none =>
      if ¬ countsOk d then some (failPlain 0x0B)
      else match (sectionTable d).findSome? (contentFail d) with
        | some f => some f
        | none => if imCistern d < filledPages d * 65536 then some (failPlain 0x0B) else none

/-- The logical tiles of a partition, ascending. -/
def partTiles (s : State) (p : Nat) : List Nat := (List.range 32).filter fun t => inMask s p t

/-- The image's tiles bound to the partition's (R185). -/
def bindTiles (s : State) (p : Nat) (d : List Byte) : List Nat := (partTiles s p).take (imTiles d)

/-- Resident and working pages of a bank of an image tile together. -/
def bankPlan (plan : List Byte) (t b : Nat) : Nat := residentCount plan t b + workingCount plan t b

/-- A bank with resident or working pages is not the partition's (R185). -/
def tileUnowned (s : State) (p : Nat) (d : List Byte) (t : Nat) : Bool :=
  (List.range 16).any fun b => decide (0 < bankPlan (oneSection d 1) t b) && bankOwner s ((bindTiles s p d).getD t 0) b != some p

/-- The image tiles that share an image tile's physical tile. -/
def sameSite (s : State) (p : Nat) (d : List Byte) (t : Nat) : List Nat :=
  let bs := bindTiles s p d
  (List.range (imTiles d)).filter fun u => siteOf s (bs.getD u 0) == siteOf s (bs.getD t 0)

/-- A physical bank breaks its budget (R162). -/
def overBudget (s : State) (p : Nat) (d : List Byte) (t : Nat) : Bool :=
  (List.range 16).any fun b => decide (48 < sumNat ((sameSite s p d t).map fun u => bankPlan (oneSection d 1) u b))

/-- The rim engine of a stream (R182, R556). -/
def rimEngineOf (s : State) (p : Nat) (d : List Byte) (r : Nat) : Nat :=
  let die := (bindTiles s p d).getD (rimStream (oneSection d 2) r).1 0 / 8
  32 + (if grade s = 2 then die % 2 else die)

/-- The rim plan names an engine that is not usable, or a queue of one twice (R182, R556). -/
def rimsBad (s : State) (p : Nat) (d : List Byte) : Bool :=
  (List.range (imRims d)).any fun r =>
    let e := rimEngineOf s p d r
    getObj s (oEngState e) == 3 || (List.range r).any fun r' => rimEngineOf s p d r' == e && (List.range 4).any fun q => bit (rimStream (oneSection d 2) r).2 q && bit (rimStream (oneSection d 2) r').2 q

/-- The checks that meet the partition: results 0x06 to 0x0A. -/
def bindFail (s : State) (p : Nat) (d : List Byte) : Option LoadFail :=
  if (partTiles s p).length < imTiles d then some (failPlain 6)
  else match (List.range (imTiles d)).find? (tileUnowned s p d) with
    | some t => some (failTile 6 t)
    | none => match (List.range (imTiles d)).find? (overBudget s p d) with
      | some t => some (failTile 7 t)
      | none =>
        if getObj s (oRegionSpan p) * 65536 < imCistern d then some (failPlain 8)
        else if (getPart s p).syncCount < imSyncs d then some (failPlain 9)
        else if rimsBad s p d then some (failPlain 0x0A) else none

/-- Every check of R185 in its order. -/
def loadFail (s : State) (p : Nat) (d : List Byte) : Option LoadFail :=
  if ¬ headerOk d then some (failPlain 2)
  else if ¬ imageTested s (imVersion d) then some (failPlain 4)
  else match (sectionTable d).find? fun x => !(sectionOk d x) with
    | some x => some (failSection 3 x.index)
    | none => match layoutFail d with
      | some f => some f
      | none => bindFail s p d

/-! ### Writes (R183, R184, R187, R212) -/

/-- The page that holds bytes from offset 0 on, zero elsewhere. -/
def pageOf (bs : List Byte) : Page := { base := none, cells := ((List.range bs.length).zip bs).filter fun e => e.2 != 0 }

/-- A region page written outside any command; what it was mapped to before is free (R212). -/
def loadPage (p q : Nat) (order : State → List Nat) (bs : List Byte) (s : State) : State :=
  let s := skipMoves p q (settlePage p q s)
  let s := match slotNow s p q with
    | some k => freeSlotAt k s
    | none => s
  match placeOn s (order s) with
  | none => s
  | some k =>
    let s := setC k { CSlot.init with st := .mapped, part := p, rpage := q, page := pageOf bs } s
    let s := pushVersion p q (some k) none s
    { s with ci := { s.ci with serial := s.ci.serial + 1 } }

/-- Stacks in the order that R203 gives the load engine, taken as die 0. -/
def copy1Order (p q : Nat) (s : State) : List Nat := placementOrder s (getObj s (oRegionPlacement p) == 1) 0 q

/-- Stacks for page `i` of copy 2: first the one half of the stacks on from that of copy 1's page (R212). -/
def copy2Order (p i : Nat) (s : State) : List Nat :=
  let all := presentStacks s
  match slotNow s p i with
  | some k =>
    let t := all.getD ((stackPos s (k / stackSlots) + all.length / 2) % all.length) 0
    ((t :: copy1Order p i s).eraseDups).filter fun x => (upStacks s).contains x
  | none => copy1Order p i s

/-- Bytes placed on region pages from `first` on. -/
def placeBytes (p first : Nat) (bs : List Byte) (s : State) : State :=
  (List.range (filePages bs.length)).foldl (fun s i => loadPage p (first + i) (copy1Order p (first + i)) ((bs.drop (65536 * i)).take 65536) s) s

/-- Both copies of the weights (R212). -/
def placeWeights (p : Nat) (w : List Byte) (s : State) : State :=
  let n := filePages w.length
  let s := placeBytes p 0 w s
  (List.range n).foldl (fun s i => loadPage p (n + i) (copy2Order p i) ((w.drop (65536 * i)).take 65536) s) s

/-- A command stream with every record relocated (R184). -/
def relocateStream (cls base : Nat) (binding : List Nat) (bs : List Byte) : List Byte :=
  (List.range (bs.length / 64)).flatMap fun i => (relocate cls base binding (recordAt bs (64 * i))).flatMap fun w => leBytes 4 w.toNat

/-- A placed section relocated (R184, R280). -/
def relocated (base : Nat) (binding : List Nat) (d : List Byte) (x : SectionD) : List Byte :=
  if x.type = 5 then relocateStream (if x.idx < 0x100 then 0 else 1) base binding (sectionBytes d x) else relocateSection base binding (sectionBytes d x)

/-- Streams, templates and fallback graphs in the region, each from a page boundary (R212). -/
def placeRest (p base : Nat) (binding : List Nat) (d : List Byte) (s : State) : State :=
  ((placedSections d).foldl (fun (a : Nat × State) x =>
    let bs := relocated base binding d x
    (a.1 + filePages bs.length, placeBytes p a.1 bs a.2)) (2 * filePages (oneSection d 3).length, s)).2

/-- A resident page of a logical tile written and mapped (R63, R183). -/
def mapResident (tile q : Nat) (bs : List Byte) (s : State) : State :=
  match siteOf s tile with
  | none => s
  | some site => match freeFrame s site (bankOf q) with
    | none => s
    | some k => setPageMap tile q (k % 768 + 1) (setFrame k { st := .mapped, pins := 0, page := pageOf bs } s)

/-- The bytes that the initial-pages section gives a resident page. -/
def residentBytes (d : List Byte) (t q : Nat) : List Byte :=
  match (initialPages (oneSection d 4)).find? fun e => e.1 == t && e.2.1 == q with
  | some e => ((oneSection d 3).drop e.2.2.2).take e.2.2.1
  | none => []

/-- Resident pages of an image tile. -/
def residentPages (d : List Byte) (t : Nat) : List Nat := (List.range 768).filter (residentIn (oneSection d 1) t)

/-- Every resident page of the image written and mapped (R183, R187). -/
def mapAll (binding : List Nat) (d : List Byte) (s : State) : State :=
  (List.range (imTiles d)).foldl (fun s t => (residentPages d t).foldl (fun s q => mapResident (binding.getD t 0) q (residentBytes d t q) s) s) s

/-- A logical page unmapped; its page is free. -/
def unmapPage (t lp : Nat) (s : State) : State :=
  match mappedFrame s t lp with
  | some k => setPageMap t lp 0 (dropPage k s)
  | none => s

/-- Every logical page of a partition's tiles unmapped (R188). -/
def unmapTiles (p : Nat) (s : State) : State := (partTiles s p).foldl (fun s t => (List.range 768).foldl (fun s lp => unmapPage t lp s) s) s

/-- What the device keeps of an image. -/
def loadedOf (s : State) (p : Nat) (d : List Byte) : Loaded :=
  let binding := bindTiles s p d
  let base := (getPart s p).syncBase
  let plan := oneSection d 1
  { imageId := imId d, binding := binding, rims := (List.range (imRims d)).map (rimEngineOf s p d),
    plan := (List.range (imTiles d)).map fun t => (List.range 16).map (bankPlan plan t),
    resident := (List.range (imTiles d)).flatMap fun t => (residentPages d t).map fun q =>
      match (initialPages (oneSection d 4)).find? fun e => e.1 == t && e.2.1 == q with
      | some e => e
      | none => (t, q, 0, 0),
    weights := (oneSection d 3).length, templates := relocateSection base binding (oneSection d 6), fallbacks := relocateSection base binding (oneSection d 7) }

/-- The old image's pages are unmapped once every check has passed (R185, R188). -/
def beginWrites (p : Nat) (s : State) : State := updPart p (fun y => { y with loaded := none }) (unmapTiles p s)

/-- The resident pages written, mapped and counted (R183, R191). -/
def writePages (p : Nat) (d : List Byte) (s : State) : State :=
  setObj oFabricLoadProgress (sumNat ((List.range (imTiles d)).map fun t => (residentPages d t).length)) (mapAll (bindTiles s p d) d s)

/-- Streams, templates and fallback graphs relocated and placed; the partition holds the image (R184, R212). -/
def writeRest (p : Nat) (d : List Byte) (s : State) : State :=
  let x := loadedOf s p d
  updPart p (fun y => { y with loaded := some x }) (placeRest p (getPart s p).syncBase x.binding d s)

/-- What the load engine does when it leaves a phase after the checks (R185). -/
def leavePhase (p : Nat) (d : List Byte) (ph : Nat) (s : State) : State :=
  match ph with
  | 1 => beginWrites p s
  | 2 => placeWeights p (oneSection d 3) s
  | 3 => writePages p d s
  | 4 => writeRest p d s
  | _ => s

/-- Phases left one after the other. -/
def leavePhases (p : Nat) (d : List Byte) (a b : Nat) (s : State) : State := (List.range (b - a)).foldl (fun s i => leavePhase p d (a + i) s) s

/-! ### Commands (R186, R188) -/

/-- fabric.load_status (R192). -/
def loadStatus (f : LoadFail) (phase p : Nat) : Nat := f.result * 2 ^ 24 + f.sect * 2 ^ 13 + f.tile * 2 ^ 7 + phase * 16 + p

/-- An outcome reported and recorded (R186). -/
def reportLoad (f : LoadFail) (phase p id : Nat) (s : State) : State :=
  let s := setObj oFabricLoadStatus (loadStatus f phase p) s
  capture 0x0108 p p (loadStatus f phase p) id (id / 2 ^ 32) s

/-- The partition of the load objects. -/
def loadPart (s : State) : Nat := getObj s oFabricLoadPartition % 16

/-- A command refused because a load runs: its own record, and od.last_refused (R186, R451). -/
def refuseLoad (s : State) : State × Ack :=
  let p := loadPart s
  (refuseQuiet oFabricLoadCommand 2 (capture 0x0108 p p (0x01000000 + p) 0 0 s), .refused 2)

/-- The host reads through a PCIe port: its link is up, in D0. -/
def hostReads (s : State) (port : Nat) : Bool := objBit s (oPcieLink port) 0 && !(getPcie s port).d3

/-- A slot that holds no file: number above 15, erased or in programming, or of length 0 (R490, R494). -/
def slotEmpty (s : State) (slot : Nat) : Bool :=
  if slot < 4 then
    (match s.fw.cmd with
      | some c => c.target == 0x10 + slot
      | none => false) || flashNat s (targetAt (0x10 + slot)) 4 == 0xFFFFFFFF
  else decide (15 < slot) || getObj s (oImgLength slot) == 0

/-- The length of the file in a flash slot, by its own section table (R490). -/
def flashLength (s : State) (a : Nat) : Nat :=
  let n := flashNat s (a + 0x0A) 2
  min 50331648 ((sectionTable (flashRead s a (0x40 + 32 * n))).foldl (fun m x => max m (x.offset + x.length)) (0x40 + 32 * n))

/-- The file that a running load reads. -/
def loadFile (s : State) (r : LoadRun) : List Byte := if r.slot < 4 then flashRead s (targetAt (0x10 + r.slot)) (flashLength s (targetAt (0x10 + r.slot))) else r.image

/-- A load starts: its checks run while the file is read (R185). -/
def startLoad (p : Nat) (image : List Byte) (s : State) : State × Ack :=
  let slot := getObj s oFabricLoadSlot
  let s := setObj oFabricLoadProgress 0 s
  if slotEmpty s slot then (reportLoad (failPlain 2) 1 p 0 s, .done)
  else
    let bs := if 4 ≤ slot ∧ hostReads s (getObj s (oImgPort slot) % 2) = true then image.take (getObj s (oImgLength slot)) else []
    (setObj oFabricLoadStatus (loadStatus (failPlain 0xFF) 1 p) { s with fab := { s.fab with load := some { part := p, slot := slot, phase := 1, image := bs } } }, .done)

/-- The identifier of a partition's image. -/
def partImage (s : State) (p : Nat) : Nat :=
  match (getPart s p).loaded with
  | some l => l.imageId
  | none => 0

/-- An unload (R188). -/
def unloadPart (p : Nat) (s : State) : State := reportLoad (failPlain 0) 5 p (partImage s p) (updPart p (fun x => { x with loaded := none }) (unmapTiles p s))

/-- A running load stops: the pages it has written are unmapped (R188, R189). -/
def stopLoad (r : LoadRun) (s : State) : State :=
  let d := loadFile s r
  let s := if r.phase = 1 then s else unmapTiles r.part s
  reportLoad (failPlain 0x0C) r.phase r.part (if headerOk d then imId d else 0) { s with fab := { s.fab with load := none } }

/-- A write of fabric.load_command (R185, R186, R188, R191). -/
def wLoadCommand (m v : Nat) (image : List Byte) (s : State) : State × Ack :=
  let p := loadPart s
  if ¬ (1 ≤ v ∧ v ≤ 3) then (refuse m oFabricLoadCommand 1 v s, .refused 1)
  else match s.fab.load with
    | some r => if v = 3 ∧ r.part = p then (stopLoad r s, .done) else refuseLoad s
    | none =>
      if pState s p ≠ 1 then (reportLoad (failPlain 5) 0 p 0 s, .quiet)
      else if v = 1 then startLoad p image s
      else if v = 2 then
        (if (getPart s p).loans = [] then (unloadPart p s, .done) else (reportLoad (failPlain 6) 0 p 0 s, .quiet))
      else (s, .done)

/-- LOAD: `image` is what host memory holds at the slot's address (R185, R490). -/
def execLoad (m : Nat) (image : List Byte) (s : State) : Out := whenFree m (.load m image) s fun s => (ackWrite oFabricLoadCommand (wLoadCommand m 1 image s)).1

/-- UNLOAD (R188). -/
def execUnload (m : Nat) (s : State) : Out := whenFree m (.unload m) s fun s => (ackWrite oFabricLoadCommand (wLoadCommand m 2 [] s)).1

/-- ABORT_LOAD (R188, R189). -/
def execAbortLoad (m : Nat) (s : State) : Out := whenFree m (.abortLoad m) s fun s => (ackWrite oFabricLoadCommand (wLoadCommand m 3 [] s)).1

/-- The compatibility check is reported once the header holds (R472). -/
def noteImage (d : List Byte) (s : State) : State :=
  if headerOk d then setObj oCompatLastImage (imVersion d) (setObj oCompatLastResult (if imageTested s (imVersion d) then 0 else 1) s) else s

/-- The running load reaches a phase: refused by a check with nothing written, or its writes so far done, and with phase 5 finished (R185, R186). -/
def reachPhase (ph : Nat) (r : LoadRun) (s : State) : State :=
  let d := loadFile s r
  let n := { s with fab := { s.fab with load := none } }
  match if r.phase = 1 then loadFail s r.part d else none with
  | some f => reportLoad f 1 r.part (if headerOk d then imId d else 0) (noteImage d n)
  | none =>
    let s := leavePhases r.part d r.phase ph (if r.phase = 1 then noteImage d s else s)
    if ph = 5 then reportLoad (failPlain 0) 5 r.part (imId d) (setObj oFabricLoadImageId (imId d) { s with fab := { s.fab with load := none } })
    else setObj oFabricLoadStatus (loadStatus (failPlain 0xFF) ph r.part) { s with fab := { s.fab with load := some { r with phase := ph } } }

/-- LOAD_COMPLETE (R185, R186): the load engine reaches a later phase; with phase 5 it is done. -/
def execLoadComplete (phase : Nat) (s : State) : Out := whenLive s fun s =>
  match s.fab.load with
  | some r => if r.phase < phase ∧ phase ≤ 5 then reachPhase phase r s else s
  | none => s

/-- A host read of a running load fails: in the header or table (section 0x7FF), or in a section (R491). -/
def loadReadFails (sect : Nat) (s : State) : State :=
  match s.fab.load with
  | some r => if r.slot < 4 ∨ r.phase ≠ 1 then s
    else reportLoad (if sect < 1024 then failSection 3 sect else failPlain 2) 1 r.part 0 { s with fab := { s.fab with load := none } }
  | none => s

end Sys2Proof.Machine
end

