-- ==== Sys2Proof/Machine/Monitor.lean ====
section
/-!
DEFINITION. The deadline monitor (R283 to R285, R310 to R316, R329): watched frames, switches, fallback instances, late frames, and the present of a picture.
-/

namespace Sys2Proof.Machine

/-! ### A stream's parameters and timeline -/

/-- Partition of a sequencer. -/
def seqPart (s : State) (k : Nat) : Nat := getObj s (oSeqPartition k)

/-- The image its partition holds. -/
def seqLoaded (s : State) (k : Nat) : Option Loaded := (getPart s (seqPart s k)).loaded

/-- A sequencer changed. -/
def updSeq (k : Nat) (f : Seq → Seq) (s : State) : State := setSeq k (f (getSeq s k)) s

/-- The timing generator of an output: a raster port's or a ring's. -/
def genOf (s : State) (out : Nat) : Option Gen := if out / 4096 = 1 then (getPort s (out % 256)).gen else (getRing s (out % 256)).gen

/-- Sum of integers. -/
def sumInt (l : List Int) : Int := l.foldl (· + ·) 0

/-- Exact time of a generator's boundary `i`, in its units. -/
def Gen.time (g : Gen) (i : Nat) : Nat :=
  if i < g.next then g.exact - (g.next - i) * g.period
  else ((g.exact + (i - g.next) * g.period : Nat) + sumInt (g.corr.take (i - g.next))).toNat

/-- The cycle of a generator's boundary `i`: the first at or after its exact time (R532). -/
def genAt (hz : Nat) (g : Gen) (i : Nat) : Nat := ceilDiv (g.time i) (5 * hz)

/-- D(o) in compute cycles (R272, R273, R532). -/
def dOf (s : State) (k o : Nat) : Nat :=
  let x := getSeq s k
  match genOf s (getObj s (oSeqOutput k)) with
  | some g => genAt (rateHz (seqOut s k)) g (x.nBase + o - x.oBase)
  | none => outSpan s k (o - x.oBase)

/-- Ts in compute cycles. -/
def sourceSpan (s : State) (k : Nat) : Nat := span (seqSource s k) (seqFrac s k) 1

/-- due(m) (R272): t_arr(m) + Ts. -/
def dueOf (s : State) (k m : Nat) : Nat := dOf s k (seqUp s k * m) + sourceSpan s k - (getSeq s k).lat

/-- The checkpoint of a frame (R310). -/
def checkpointOf (s : State) (k o : Nat) : Nat := dOf s k o - getObj s (oDlmMargin k) * usTicks

/-- The latest admitted source frame. -/
def latestAdmitted (x : Seq) : Nat := x.admitted.foldl max 0

/-! ### Watched frames -/

/-- The entry of a frame. -/
def findWatched (s : State) (k o : Nat) : Option Watched := (getWatched s k).find? fun w => w.o == o

/-- A frame's entry changed. -/
def updWatched (k o : Nat) (f : Watched → Watched) (s : State) : State :=
  setWatched k ((getWatched s k).map fun w => if w.o = o then f w else w) s

/-- A new entry. -/
def newWatched (o : Nat) : Watched :=
  { o := o, finish := none, finishedAt := none, fallback := none, switched := false, fbLast := none, primary := none, fb := none, presented := false }

/-- An entry that nothing needs any more: presented, and no slack of a switched frame outstanding (R329). -/
def watchedSpent (w : Watched) : Bool := w.presented && !(w.switched && w.finish.isSome && w.finishedAt.isNone)

/-- Spent entries leave. -/
def pruneWatched (k : Nat) (s : State) : State := setWatched k ((getWatched s k).filter fun w => !(watchedSpent w)) s

/-- dlm[k].min_slack takes a slack (R329). -/
def noteSlack (k : Nat) (ns : Int) (s : State) : State :=
  if ns < toSigned 32 (getObj s (oDlmMinSlack k)) then setObj (oDlmMinSlack k) (ofSigned 32 (max ns (-2147483648))) s else s

/-- The checkpoint minus a cycle, in ns. -/
def slackNs (s : State) (k o c : Nat) : Int := ((checkpointOf s k o : Int) - (c : Int)) * 5 / 7

/-! ### Abandonment (R311, R314) -/

/-- A slot lies between its queue's commit and tail pointers. -/
def inQueue (s : State) (eng q sl : Nat) : Bool :=
  let x := getQueue s eng q
  (slotsBetween eng x.commit x.tail).contains sl

/-- An output step that has not sent its commit request is abandoned: at once while it waits, by a kill once it has dispatched (R303, R314). -/
def abandonStep (p : Nat) (st : PubStep) (s : State) : State :=
  let y := getSlot s st.eng st.q st.slot
  if st.output = true ∧ y.step = st.step ∧ y.part = p ∧ y.fallback = false ∧ inQueue s st.eng st.q st.slot = true then
    match y.phase with
    | .waiting => settleHead st.eng st.q (abandonSlot st.eng st.q st.slot s)
    | .running | .finished | .killing _ _ => startKill false false 2 st.eng st.q st.slot s
    | _ => s
  else s

/-- The output steps of frame `o`'s instance are abandoned; those not yet published will be at their publication (R311, R314). -/
def abandonOutputs (k o : Nat) (s : State) : State :=
  let x := getSeq s k
  let mine (i : Inst) : Bool := i.kind == 1 && i.o == o
  let steps := ((x.pending ++ x.live).filter mine).flatMap (·.steps)
  let drop (i : Inst) : Inst := if mine i then { i with dropped := true } else i
  let s := setSeq k { x with pending := x.pending.map drop, live := x.live.map drop } s
  steps.foldl (fun s st => abandonStep (seqPart s k) st s) s

/-! ### Fallback instances (R285) -/

/-- The source frame of picture A, t8, and whether the copy variant serves (R285). -/
def variantOf (s : State) (k o : Nat) : Nat × Nat × Bool :=
  let x := getSeq s k
  let up := seqUp s k
  let m := o / up
  let t8 := phaseT8 up (o % up)
  if !(x.admitted.contains m) then (latestAdmitted x, 0, true)
  else if o % up = 0 then (m, 0, true)
  else if x.cuts.contains (m + 1) then (if t8 < 128 then m else m + 1, 0, true)
  else if x.sourceDone.contains (m + 1) then (m, t8, false)
  else if t8 < 128 then (m, 0, true)
  else (if x.admitted.contains (m + 1) then m + 1 else latestAdmitted x, 0, true)

/-- An instance of a graph, nothing published yet. -/
def newInst (kind graph o m t8 : Nat) : Inst :=
  { kind := kind, graph := graph, o := o, m := m, t8 := t8, chunk := 0, next := 0, steps := [], finish := none, passed := false, cutCount := 0,
    copy := false, firstAdvance := false, dropped := false }

/-- The fallback instance of a frame joins the monitor's publication port (R311, R312). -/
def startFallback (k o : Nat) (s : State) : State :=
  match seqLoaded s k with
  | none => s
  | some l =>
    let up := seqUp s k
    match familyGraph l (getObj s (oSeqFamily k)) 3 (o % up) with
    | none => s
    | some g =>
      let v := variantOf s k o
      let i := { newInst 3 g.index o v.1 v.2.1 with copy := v.2.2 }
      let s := updWatched k o (fun w => { w with fb := instPicture s k l i }) s
      { s with st := { s.st with fallback := s.st.fallback ++ [(k, i)] } }

/-- A frame is to be shown from fallback: its instance's output steps are abandoned and its fallback instance is published (R311). -/
def decideFallback (k o : Nat) (switched : Bool) (s : State) : State :=
  let s := updWatched k o (fun w => { w with fallback := some true, switched := switched }) s
  startFallback k o (abandonOutputs k o s)

/-- A frame handed over as a fallback frame (R281, R286, R287, R585, R311): once only, and never one already decided. -/
def handFrame (k o : Nat) (s : State) : State :=
  if (getSeq s k).oTop ≤ o then
    let s := setWatched k (getWatched s k ++ [newWatched o]) s
    decideFallback k o false (updSeq k (fun x => { x with oTop := o + 1 }) s)
  else
    match findWatched s k o with
    | some w => if w.fallback = none then decideFallback k o false s else s
    | none => s

/-- Frames from `a` up to `b` handed over, in order. -/
def handFrames (k a b : Nat) (s : State) : State := (List.range (b - a)).foldl (fun s i => handFrame k (a + i) s) s

/-! ### The monitor's publication port (R312, R313) -/

/-- FALLBACK_PUBLISH_STEP: the port writes the next step of its first instance into queue 4, when a slot is free; all behind it wait (R311, R312). -/
def execFallbackPublishStep (k : Nat) (s : State) : Out := whenLive s fun s =>
  match s.st.fallback with
  | [] => s
  | (k', x) :: rest =>
    match seqLoaded s k' with
    | none => { s with st := { s.st with fallback := rest } }
    | some l =>
      match instNext l x with
      | none => { s with st := { s.st with fallback := rest } }
      | some i =>
        let d := l.fallbacks
        let g := graphDesc d x.graph
        let eng := stepEngine s l (stepHead d g i)
        let qu := getQueue s eng 4
        if k ≠ k' ∨ slotsOf eng ≤ queueHeld eng qu then s
        else
          let p := seqPart s k
          let sl := qu.tail % slotsOf eng
          let n := (getPart s p).fbAllocator
          let s := updSlot eng 4 sl (fun y => { y with words := stepCommand s k l x i }) s
          let s := publishTail eng 4 p ((qu.tail + 1) % ptrMod eng) true s
          let x := { x with next := i + 1 }
          if (instNext l x).isNone then
            updWatched k x.o (fun w => { w with fbLast := some n }) { s with st := { s.st with fallback := rest } }
          else { s with st := { s.st with fallback := (k, x) :: rest } }

/-! ### The present (R284) -/

/-- A picture of nothing: for a graph without a rim step. -/
def noPicture (p : Nat) : Picture := { part := p, offset := 0, stride := 0, code := 0, w := 0, h := 0 }

/-- The overlay of a stream. -/
def getOverlay (s : State) (k : Nat) : Overlay := mapGet Overlay.init s.st.overlays k

/-- The overlay of a stream set. -/
def setOverlay (k : Nat) (x : Overlay) (s : State) : State := { s with st := { s.st with overlays := mapSet Overlay.init s.st.overlays k x } }

/-- The engine that serves a stream: its own output port's, or for a ring the one assigned; none where none is (R402). -/
def overlayServed (s : State) (k : Nat) : Bool :=
  let e := getObj s (oOverlayEngine k)
  let out := getObj s (oSeqOutput k)
  decide (e < 8) && objExists s (0x2610 + e) 1 && getObj s (oOverlayEngineState e) != 3 && (out / 4096 != 1 || out % 256 == e)

/-- The overlay half of a frame: the one current since the frame's own deadline (R284, R410). -/
def attachHalf (s : State) (pr : Present) : Present :=
  if overlayServed s pr.k = true ∧ (getOverlay s pr.k).frame = some pr.o then { pr with half := (getOverlay s pr.k).current.map (·.id) } else pr

/-- Descriptors of a ring's abandoned frames that still have to be written (R431). -/
def owedDescs (s : State) (r : Nat) : Nat := (((List.range 2).flatMap fun i => (getPcie s i).owed).filter (·.ring == r)).length

/-- A present reaches an output ring: it takes the next descriptor, or the frame is skipped (R429, R432). A stopped ring finds no descriptor for it (R433). -/
def ringPresent (r : Nat) (pr : Present) (s : State) : State :=
  let x := getRing s r
  let skip := setRing r { x with skips := x.skips + 1 } (addObj (oDmaSkipped r) 1 s)
  let used := owedDescs s r + x.frames.length
  if getObj s (oDmaState r) = 3 then skip
  else if getObj s (oDmaState r) ≠ 1 ∧ getObj s (oDmaState r) ≠ 2 then s
  else match x.held[used]? with
    | some desc =>
      let n := (getField s (oDmaPointers r) 15 0 + used) % 2 ^ getObj s (oDmaRingLog2 r)
      setRing r { x with frames := x.frames ++ [{ index := n, desc := desc, present := pr, d := pr.d, band := 0, sent := 0 }] } (setObj (oDmaState r) 2 s)
    | none => skip

/-- The selected picture goes to scan-out or to the output ring; of two presents of one frame the first counts (R284). -/
def presentFrame (k : Nat) (w : Watched) (late : Bool) (s : State) : State :=
  let p := seqPart s k
  let fb := w.fallback == some true
  let pic := ((if fb then w.fb else w.primary)).getD (noPicture p)
  let pr : Present :=
    { k := k, o := w.o, d := dOf s k w.o, pic := pic, fallback := fb, late := late, cd := getObj s (oStepCounter p), serial := s.ci.serial, half := none, reading := true }
  let s := updWatched k w.o (fun w => { w with presented := true }) s
  let s := setObj (oSeqOutFrame k) w.o s
  let s := if fb then addObj (oSeqFallbackFrames k) 1 s else s
  let out := getObj s (oSeqOutput k)
  let s := if out / 4096 = 1 then
      let x := getPort s (out % 256)
      setPort (out % 256) { x with waiting := x.waiting ++ [pr] } s
    else ringPresent (out % 256) (attachHalf s pr) s
  pruneWatched k s

/-! ### Checkpoints and late frames (R310, R315) -/

/-- The oldest undecided frame of a sequencer whose checkpoint has come. -/
def dueCheckpoint (s : State) (k : Nat) : Option Watched :=
  if seqState s k = 0 then none
  else (getWatched s k).find? fun w => w.fallback == none && decide (checkpointOf s k w.o ≤ cycle s)

/-- Complete at the checkpoint: the step counter passed the finish step, at the latest in the checkpoint cycle (R310, R323). -/
def completeAt (s : State) (k : Nat) (w : Watched) : Bool :=
  match w.finishedAt with
  | some c => decide (c ≤ checkpointOf s k w.o)
  | none => false

/-- A frame is switched to fallback (R311). The slack of its record is not known yet: a free value. -/
def switchFrame (k : Nat) (w : Watched) (s : State) : State :=
  let s := setObj (oDlmLastSwitch k) w.o (addObj (oDlmSwitches k) 1 (addObj oDlmSwitchesTotal 1 s))
  let s := useFree (capture 0x0407 (seqPart s k) k w.o (freeNat s 32) 0 s)
  let s := decideFallback k w.o true s
  match w.finishedAt with
  | some c => noteSlack k (min (slackNs s k w.o c) (-1)) s
  | none => s

/-- CHECKPOINT: a complete instance keeps its primary picture, which is presented; one that is not is switched (R283, R310, R311). Of frames due in one cycle, the lower sequencer goes first. -/
def execCheckpoint (k : Nat) (s : State) : Out := whenLive s fun s =>
  match dueCheckpoint s k with
  | none => s
  | some w =>
    if (List.range k).any fun j => (dueCheckpoint s j).isSome then s
    else if completeAt s k w then
      let w := { w with fallback := some false }
      let s := updWatched k w.o (fun w => { w with fallback := some false }) s
      let s := noteSlack k (slackNs s k w.o (w.finishedAt.getD 0)) s
      presentFrame k w false s
    else switchFrame k w s

/-- LATE_CHECK: 50 µs before D(o) a fallback frame is presented; late when its instance's last step has not committed (R312, R315). -/
def execLateCheck (k : Nat) (s : State) : Out := whenLive s fun s =>
  match (getWatched s k).find? fun w => w.fallback == some true && !w.presented && decide (dOf s k w.o ≤ cycle s + 50 * usTicks) with
  | none => s
  | some w =>
    let done := match w.fbLast with
      | some n => decide (n < getObj s (oStepFallback (seqPart s k)))
      | none => false
    if done then presentFrame k w false s
    else
      let s := addObj (oDlmLate k) 1 (addObj oDlmLateTotal 1 s)
      presentFrame k w true (capture 0x0408 (seqPart s k) k w.o 0 0 s)

end Sys2Proof.Machine
end

