-- ==== Sys2Proof/Machine/Sequencer.lean ====
section
/-!
DEFINITION. The frame sequencers (R270 to R295): start and stop, admission, gaps and cuts, warm-ups, the publication port, and what they do at a partition reset (R585). Also the events that make the step counters go on.
-/

namespace Sys2Proof.Machine

/-! ### Declared cuts and warm-ups (R286, R288) -/

/-- A warm-up starts at a frame: it rebuilds every admitted source frame from there on that the ring still holds, oldest first (R288). -/
def startWarm (k first : Nat) (s : State) : State :=
  let x := getSeq s k
  let frames := x.admitted.filter fun m => decide (first ≤ m)
  let frames := frames.drop (frames.length - getObj s (oSeqSrcRing k))
  let s := setSeq k { x with chunk := none, endedAt := none,
                             warm := some { first := first, frames := frames, chunk := 0, advanced := false, last := 0, lastStep := none } } s
  capture 0x0405 (seqPart s k) k first frames.length 0 (setObj (oSeqState k) 2 s)

/-- The source frame that sequencer k has admitted in this cycle. -/
def admittedNow (s : State) (k : Nat) : Option Nat := (s.now.admitted.find? fun e => e.1 == k).map (·.2)

/-- An instance of the admission of source frame m, of which nothing is published yet (R281). -/
def freshInst (up m : Nat) (i : Inst) : Bool :=
  i.steps == [] && ((i.kind == 0 && i.m == m) || (i.kind == 1 && decide (up * (m - 1) < i.o)))

/-- A cut found in the cycle of an admission is applied before it: the admission publishes no primary output graph (R291). -/
def dropFresh (k : Nat) (s : State) : State :=
  match admittedNow s k with
  | none => s
  | some m => updSeq k (fun x => { x with pending := x.pending.filter fun i => !(i.kind == 1 && freshInst (seqUp s k) m i) }) s

/-- A cut between m - 1 and m: every frame from U (m - 1) + 1 on is handed over at once, and a warm-up starts at m; one cut per frame (R286, R291). -/
def declareCut (k m how : Nat) (s : State) : State :=
  let x := getSeq s k
  if x.cuts.contains m then s
  else
    let a := seqUp s k * (m - 1) + 1
    let s := setSeq k { x with cuts := x.cuts ++ [m] } s
    let s := handFrames k a x.oTop (dropFresh k s)
    capture 0x0404 (seqPart s k) k m how 0 (startWarm k m s)

/-- The cut object's count is larger than at the publication of the source graph (R286, R331). -/
def countGrew (now before : Nat) : Bool := now != before && waitHolds now before

/-- A source instance's finish step has passed, and its own updates have been applied (R286). -/
def cutReady (s : State) (k : Nat) (i : Inst) : Bool :=
  let obj := getObj s (oSeqCutObject k)
  let bank := getBank s (obj % 16)
  i.kind == 0 && i.passed &&
    (i.steps.all fun st => !((getSlot s st.eng st.q st.slot).phase == .granted && (getSlot s st.eng st.q st.slot).step == st.step)) &&
    !((bank.lc ++ bank.be ++ bank.det ++ s.sy.held).any fun u => u.object == obj)

/-- The comparison of R286 for one source instance, which then leaves. -/
def compareCut (k : Nat) (i : Inst) (s : State) : State :=
  let s := updSeq k (fun x => { x with live := x.live.filter (· != i) }) s
  let now := syncCount s (getObj s (oSeqCutObject k))
  if objBit s (oSeqOptions k) 0 = true ∧ countGrew now i.cutCount = true ∧ (seqState s k = 2 ∨ seqState s k = 3) then declareCut k i.m 1 s else s

/-- Every comparison of R286 that is due. -/
def noticeCuts (s : State) : State :=
  (mapKeys s.st.seqs).foldl (fun s k =>
    ((getSeq s k).live.filter (cutReady s k)).foldl (fun s i => compareCut k i s) s) s

/-! ### Commits that sequencers and the monitor watch -/

/-- A watched finish step has passed: the cycle is kept; of a switched frame the slack is known now, and negative (R310, R329). -/
def noticeWatched (k counter : Nat) (s : State) : State :=
  let now := cycle s
  let passed (w : Watched) : Bool := w.finishedAt.isNone && (match w.finish with
    | some n => decide (n < counter)
    | none => false)
  let hits := (getWatched s k).filter passed
  let s := setWatched k ((getWatched s k).map fun w => if passed w then { w with finishedAt := some now } else w) s
  let s := hits.foldl (fun s w => if w.switched then noteSlack k (min (slackNs s k w.o now) (-1)) s else s) s
  pruneWatched k s

/-- Every step of an instance has passed. -/
def allPassed (counter : Nat) (i : Inst) : Bool := i.steps.all fun st => decide (st.step < counter)

/-- The last advance of a warm-up has committed with no chunk left (R288). A frame `fresh` admitted in the cycle of that commit leaves it the last (R291). -/
def warmOver (counter : Nat) (fresh : Option Nat) (x : Seq) : Bool :=
  match x.warm with
  | none => false
  | some w => x.chunk.isNone && (match w.lastStep with
    | some n => decide (n < counter) && (w.frames == [] || (w.chunk == 0 && fresh.toList == w.frames))
    | none => w.frames == [])

/-- The step counter of a partition has gone on: source graphs complete (R285), instances leave, warm-ups end (R288). -/
def noticeSteps (p : Nat) (s : State) : State :=
  let counter := getObj s (oStepCounter p)
  (mapKeys s.st.seqs).foldl (fun s k =>
    if seqPart s k ≠ p ∨ seqState s k = 0 then s
    else
      let s := noticeWatched k counter s
      let x := getSeq s k
      let fin (i : Inst) : Bool := i.kind == 0 && (match i.finish with
        | some n => decide (n < counter)
        | none => false)
      let mark (i : Inst) : Inst := if fin i then { i with passed := true } else i
      let done := ((x.pending ++ x.live).filter fun i => fin i && !i.passed).map (·.m)
      let x := { x with sourceDone := (x.sourceDone ++ done).drop ((x.sourceDone ++ done).length - 64), pending := x.pending.map mark,
                        live := (x.live.map mark).filter fun i => i.kind == 0 || !(allPassed counter i) }
      let x := if seqState s k = 2 ∧ warmOver counter (admittedNow s k) x = true ∧ x.endedAt = none then { x with endedAt := some (cycle s) } else x
      setSeq k x s) s

/-- At the end of the cycle in which its last advance committed, a warm-up ends (R26, R288, R291). -/
def endWarms (s : State) : State :=
  (mapKeys s.st.seqs).foldl (fun s k =>
    let x := getSeq s k
    match x.endedAt, x.warm with
    | some _, some w =>
      let s := setSeq k { x with endedAt := none, warm := none } s
      if seqState s k = 2 then capture 0x0406 (seqPart s k) k w.last 0 0 (setObj (oSeqState k) 3 s) else s
    | _, _ => s) s

/-! ### Start and stop (R271 to R273, R290, R295) -/

/-- seq[k].status set: a result, and the descriptor and step concerned (R294). -/
def setSeqStatus (k result graph step : Nat) (s : State) : State := setObj (oSeqStatus k) (result * 2 ^ 24 + graph * 2 ^ 15 + step) s

/-- Enable, direction, timing, slave port, rate and fraction of an input or output; none where it is absent (R400, R445). -/
def ioConfig (s : State) (v : Nat) : Option (Bool × Nat × Nat × Nat × Nat × Bool) :=
  let i := v % 256
  if v / 4096 = 1 then
    if i < 8 ∧ objExists s (0x2500 + 16 * i) 2 = true then
      let c := getObj s (oRasterConfig i)
      some (bit c 31, bits c 30 30, bits c 29 28, bits c 27 24, bits c 21 18, bit c 17)
    else none
  else if v / 4096 = 2 then
    if i < 128 then
      let c := getObj s (oDmaConfig i)
      some (bit c 31 && getObj s (oDmaState i) != 3, bits c 30 30, bits c 28 27, bits c 26 23, bits c 20 17, bit c 16)
    else none
  else none

/-- The output timing that an output has: its source, slave port, rate and phase (R354, R382, R429). -/
def timingOf (s : State) (v : Nat) : Nat × Nat × Nat × Nat × Bool :=
  match ioConfig s v with
  | some (_, _, t, sl, r, f) => (t, if t = 1 then sl else 0, getObj s (if v / 4096 = 1 then oRasterPhase (v % 256) else oDmaPhase (v % 256)), r, f)
  | none => (3, 0, 0, 0, false)

/-- Width, active lines and total lines of a resolution (R375). -/
def resolution (r : Nat) : Nat × Nat × Nat := [(1280, 720, 750), (1920, 1080, 1125), (3840, 2160, 2250), (7680, 4320, 4400)].getD r (1280, 720, 750)

/-- An input port carries the resolution and the picture code that the stream's source graph reads (R379). -/
def formatOk (s : State) (k : Nat) : Bool :=
  let v := getObj s (oSeqInput k)
  let c := getObj s (oRasterConfig (v % 256))
  match sourcePicture s k 0 with
  | some pic => v / 4096 != 1 || (bits c 16 13 == pic.code && (resolution (bits c 23 22)).1 == pic.w && (resolution (bits c 23 22)).2.1 == pic.h)
  | none => true

/-- Input and output are there, in the right direction, at the stream's rates and in its source's format, with one shared timing, and with the stream's channels (R273, R379, R392). -/
def portsOk (s : State) (k : Nat) : Bool :=
  let vi := getObj s (oSeqInput k)
  let vo := getObj s (oSeqOutput k)
  let ch (v : Nat) : Bool := v / 4096 != 2 || getField s (oDmaConfig (v % 256)) 11 6 == getObj s (oAudioChannels k)
  match ioConfig s vi, ioConfig s vo with
  | some (ei, di, _, _, ri, fi), some (eo, do_, t, sl, ro, fo) =>
    ei && di == 0 && ri == seqSource s k && fi == seqFrac s k && eo && do_ == 1 && ro == seqOut s k && fo == seqFrac s k &&
      (vi / 4096 == 2 || t == 0 || (t == 1 && sl == vi % 256)) && ch vi && ch vo && formatOk s k
  | _, _ => false

/-- The running sequencers of a DET partition share one output timing (R354). -/
def detTimingOk (s : State) (k : Nat) : Bool :=
  !(isDet s (seqPart s k)) || (List.range 128).all fun j =>
    seqState s j == 0 || seqPart s j != seqPart s k || timingOf s (getObj s (oSeqOutput j)) == timingOf s (getObj s (oSeqOutput k))

/-- The first step of a family that names a queue 0 to 3 not bound to the partition with enable set: graph and step (R295). -/
def unboundStep (s : State) (k : Nat) (l : Loaded) : Option (Nat × Nat) :=
  ((familyGraphs l (getObj s (oSeqFamily k))).flatMap fun g =>
    if g.kind = 3 then [] else (List.range g.count).map fun i => (g, i)).findSome? fun e =>
      let h := stepHead (sectionOf l e.1.kind) e.1 e.2
      let eng := stepEngine s l h
      if h.kind = 0 ∧ !(queuePart s eng h.queue == seqPart s k && queueEnabled s eng h.queue) then some (e.1.index, e.2) else none

/-- The first check of R295 that a start fails: result, graph and step. -/
def startResult (s : State) (k : Nat) : Nat × Nat × Nat :=
  let p := seqPart s k
  let up := seqUp s k
  let no (r : Nat) : Nat × Nat × Nat := (r, 0x1FF, 0x7FFF)
  if seqState s k ≠ 0 then no 1
  else if pState s p ≠ 2 ∨ loadRuns s p = true then no 2
  else match seqLoaded s k with
    | none => no 2
    | some l =>
      match familyUp l (getObj s (oSeqFamily k)) with
      | none => no 3
      | some u =>
        let src := rateHz (seqSource s k)
        let out := rateHz (seqOut s k)
        let lo := getObj s (oSeqLatency k)
        let chunks := match familyGraph l (getObj s (oSeqFamily k)) 2 0 with
          | some g => g.chunks
          | none => 0
        let cut := getObj s (oSeqCutObject k)
        let part := getPart s p
        if src = 0 ∨ out = 0 ∨ out % src ≠ 0 ∨ u ≠ up ∨ (seqFrac s k && ([25, 50, 100].contains src || [25, 50, 100].contains out)) then no 4
        else if lo < 2 * up ∨ (getObj s (oSeqSrcRing k) - 2) * up < lo then no 5
        else if !(portsOk s k) || !(detTimingOk s k) then no 6
        else match unboundStep s k l with
          | some (g, i) => (7, g, i)
          | none =>
            if getObj s (oSeqChunkRate k) * up ≤ chunks then no 8
            else if cut < part.syncBase ∨ part.syncBase + part.syncCount ≤ cut then no 9
            else if (List.range 128).any (fun j => seqState s j != 0 && seqPart s j == p && getObj s (oSeqSlot j) == getObj s (oSeqSlot k)) then no 0xA
            else no 0

/-- Audio frames of depth that a stream's latency needs (R394): ceil (L × 48,000 / 64) + 2. -/
def depthNeeded (s : State) (k : Nat) : Nat := ceilDiv (outSpan s k (getObj s (oSeqLatency k)) * 48000) (64 * 1400000000) + 2

/-- Audio at a stream start: none, passing, or silence when the depth is too small (R394). -/
def startAudio (k : Nat) (s : State) : State :=
  let need := depthNeeded s k
  if getObj s (oAudioChannels k) = 0 then setObj (oAudioState k) 0 s
  else if getObj s (oAudioDepth k) < need then
    capture 0x0505 (seqPart s k) k (getObj s (oAudioDepth k)) need 0 (setObj (oAudioState k) 2 s)
  else setObj (oAudioState k) 1 s

/-- A write of 0x01 to seq[k].command: a start, or the first failure of R295. A refused start discards a held force cut (R286). -/
def seqStart (k : Nat) (s : State) : State × Ack :=
  let r := startResult s k
  let s := setSeqStatus k r.1 r.2.1 r.2.2 s
  if r.1 = 0 then
    let s := setObj (oSeqFallbackFrames k) 0 (setObj (oSeqGaps k) 0 (setObj (oSeqDrops k) 0 s))
    let s := setObj (oDlmSwitches k) 0 (setObj (oDlmLate k) 0 (setObj (oDlmMinSlack k) 0x7FFFFFFF s))
    let s := { setObj (oOverlayOverflows k) 0 s with st := { s.st with overlays := mapErase s.st.overlays k } }
    let s := startAudio k (setObj (oSeqState k) 1 s)
    (capture 0x0401 (seqPart s k) k (getObj s (oSeqStatus k)) 1 0 s, .done)
  else
    let s := if seqState s k = 0 then updSeq k (fun x => { x with force := false }) s else s
    (capture 0x0401 (seqPart s k) k (getObj s (oSeqStatus k)) 1 0 s, .quiet)

/-- The sequencer is in state 0 again; its stop is recorded (R290). -/
def finishStop (k : Nat) (s : State) : State :=
  let p := seqPart s k
  let s := setWatched k [] (setSeq k Seq.init (setObj (oSeqState k) 0 s))
  let s := setObj (oAudioState k) 0 { s with st := { s.st with audio := mapErase s.st.audio k } }
  let s := setSeqStatus k 0 0x1FF 0x7FFF s
  capture 0x0401 p k (getObj s (oSeqStatus k)) 2 0 s

/-- Instances of an output graph that have begun no publication leave with their watch; those cut short present from fallback; nothing more is published (R290). -/
def stopNow (k : Nat) (s : State) : State :=
  let x := getSeq s k
  let outs := x.pending.filter (·.kind == 1)
  let begun := (outs.filter fun i => i.steps != []).map (·.o)
  let unborn := (outs.filter fun i => i.steps == []).map (·.o)
  let s := setWatched k ((getWatched s k).filter fun w => !(unborn.contains w.o && w.fallback.isNone)) s
  let s := begun.foldl (fun s o => handFrame k o s) s
  let s := updSeq k (fun x => { x with live := x.live ++ x.pending.filter (fun i => i.steps != []), pending := [], chunk := none, warm := none, endedAt := none, stopReq := false }) s
  setObj (oSeqState k) 4 s

/-- Nothing is published for the admission of source frame m, in whose cycle a stop is written: its frames are watched no more and have no fallback instance (R291). -/
def undoAdmission (k m : Nat) (s : State) : State :=
  let up := seqUp s k
  let gone (o : Nat) : Bool := decide (up * (m - 1) < o)
  let s := updSeq k (fun x => { x with pending := x.pending.filter fun i => !(freshInst up m i), oTop := min x.oTop (up * (m - 1) + 1) }) s
  let s := setWatched k ((getWatched s k).filter fun w => !(gone w.o && !w.presented)) s
  { s with st := { s.st with fallback := s.st.fallback.filter fun e => !(e.1 == k && gone e.2.o) } }

/-- A write of 0x02: the stream stops at its next admission; before its first, at once; in the cycle of an admission, with nothing of that admission published (R290, R291). -/
def seqStop (k : Nat) (s : State) : State :=
  if seqState s k = 1 then finishStop k s
  else if seqState s k = 2 ∨ seqState s k = 3 then
    match admittedNow s k with
    | some m => stopNow k (undoAdmission k m s)
    | none => updSeq k (fun x => { x with stopReq := true }) s
  else s

/-- A write of 0x03: a cut before the next admitted frame; in state 4 nothing (R286). -/
def seqForce (k : Nat) (s : State) : State := if seqState s k = 4 then s else updSeq k (fun x => { x with force := true }) s

/-- A write of seq[k].command (R293). -/
def wSeqCommand (m k value : Nat) (s : State) : State × Ack :=
  match value with
  | 1 => seqStart k s
  | 2 => (seqStop k s, .done)
  | 3 => (seqForce k s, .done)
  | _ => (refuse m (oSeqCommand k) 1 value s, .refused 1)

/-- STREAM_START (R295). -/
def execStreamStart (m k : Nat) (s : State) : Out := whenFree m (.streamStart m k) s fun s => (ackWrite (oSeqCommand k) (wSeqCommand m k 1 s)).1

/-- STREAM_STOP (R290). -/
def execStreamStop (m k : Nat) (s : State) : Out := whenFree m (.streamStop m k) s fun s => (ackWrite (oSeqCommand k) (wSeqCommand m k 2 s)).1

/-- FORCE_CUT (R286). -/
def execForceCut (m k : Nat) (s : State) : Out := whenFree m (.forceCut m k) s fun s => (ackWrite (oSeqCommand k) (wSeqCommand m k 3 s)).1

/-- STOP_COMPLETE: after the last present of a stopping stream the sequencer enters state 0 (R290). -/
def execStopComplete (k : Nat) (s : State) : Out := whenLive s fun s =>
  if seqState s k = 4 ∧ (getWatched s k).all (·.presented) = true then finishStop k s else s

/-! ### Admission (R273, R274, R281) -/

/-- An instance of the source graph of frame m (R281). -/
def addSource (k m : Nat) (s : State) : State :=
  match seqLoaded s k with
  | none => s
  | some l =>
    match familyGraph l (getObj s (oSeqFamily k)) 0 0 with
    | none => s
    | some g => updSeq k (fun x => { x with pending := x.pending ++ [newInst 0 g.index 0 m 0] }) s

/-- An instance of the output graph of frame o with counter m; the monitor watches it (R281, R283). -/
def addOutput (k o m : Nat) (s : State) : State :=
  match seqLoaded s k with
  | none => handFrame k o s
  | some l =>
    let up := seqUp s k
    match familyGraph l (getObj s (oSeqFamily k)) 1 (o % up) with
    | none => handFrame k o s
    | some g =>
      let i := newInst 1 g.index o m (phaseT8 up (o % up))
      let s := setWatched k (getWatched s k ++ [{ newWatched o with primary := instPicture s k l i }]) s
      updSeq k (fun x => { x with pending := x.pending ++ [i], oTop := o + 1 }) s

/-- Frame m enters the admitted ones. -/
def noteAdmitted (k m : Nat) (s : State) : State :=
  let s := updSeq k (fun x =>
    { x with mNext := m + 1, admitted := (x.admitted ++ [m]).drop ((x.admitted ++ [m]).length - 64), waits := none, paused := false,
             cuts := x.cuts.filter fun c => decide (m ≤ c + 64) }) { s with now := { s.now with admitted := (k, m) :: s.now.admitted } }
  setObj (oSeqSrcFrame k) m s

/-- Source frame m is admitted: cuts and gaps first, then the source graph and the output graphs, or the handing over of their frames in a warm-up; a warm-up whose last advance commits in this cycle takes no further frame (R281, R286, R287, R290, R291). -/
def admitFrame (k m : Nat) (s : State) : State :=
  let up := seqUp s k
  let s := noteAdmitted k m s
  let x := getSeq s k
  if x.stopReq then stopNow k s
  else
    let s := if x.force then declareCut k m 2 (updSeq k (fun x => { x with force := false, gapBefore := false }) s)
      else if x.gapBefore then startWarm k m (updSeq k (fun x => { x with gapBefore := false }) s) else s
    let s := addSource k m s
    if seqState s k = 2 then
      let s := updSeq k (fun x => if x.endedAt.isSome then x else { x with warm := x.warm.map fun w => if w.frames.contains m then w else { w with frames := w.frames ++ [m] } }) s
      handFrames k (up * (m - 1) + 1) (up * m + 1) s
    else
      let old := (getSeq s k).admitted.contains (m - 1)
      let s := (List.range (up - 1)).foldl (fun s i =>
        let o := up * (m - 1) + 1 + i
        if old then addOutput k o (m - 1) s else handFrame k o s) s
      addOutput k (up * m) m s

/-- The number of a generator's first boundary, from the next one on, at or after a cycle (R273). -/
def firstBoundary (hz : Nat) (g : Gen) (t : Nat) : Nat :=
  let a := g.next + ((t * 5 * hz - g.exact) / max 1 g.period - 1)
  ((List.range 4).map fun i => a + i).find? (fun i => decide (t ≤ genAt hz g i)) |>.getD (a + 4)

/-- The first source frame is admitted: the timeline is fixed and the join's warm-up starts (R273, R274, R286, R288). -/
def joinStream (k tArr : Nat) (s : State) : State :=
  let x := getSeq s k
  let m0 := x.mNext
  let up := seqUp s k
  let ring := getObj s (oSeqSrcRing k)
  let hz := rateHz (seqOut s k)
  let g := (genOf s (getObj s (oSeqOutput k))).getD { next := 0, exact := 0, period := 1, corr := [], error := 0, holdover := false, aligned := false }
  let n0 := firstBoundary hz g (tArr + outSpan s k (getObj s (oSeqLatency k)))
  let d0 := genAt hz g n0
  let old := ((x.ring.map (·.m)).filter fun m => decide (m < m0))
  let old := old.drop (old.length - ring)
  let s := setSeq k { x with admitted := old, lat := d0 - tArr, oBase := up * m0, nBase := n0, oNext := up * m0, oTop := up * m0, force := false, chunksThis := 0 } s
  let s := setObj (oSeqLatencyActual k) (calendarSpan s (d0 - tArr)) s
  let s := setObj (oAudioDelay k) ((d0 - tArr) * 48000 / 1400000000) s
  let s := noteAdmitted k m0 s
  let s := if x.force then declareCut k m0 2 s else startWarm k (old.headD m0) s
  handFrame k (up * m0) (addSource k m0 s)

/-- A drop is counted and recorded (R274). -/
def dropFrame (k m : Nat) (s : State) : State := capture 0x0403 (seqPart s k) k m 0 0 (addObj (oSeqDrops k) 1 s)

/-- A frame's ancillary bytes stand beside its picture in the ring (R379). -/
def storeRing (k m : Nat) (anc : List Byte) (s : State) : State :=
  updSeq k (fun x =>
    let r := (x.ring.filter fun f => f.m != m) ++ [{ m := m, anc := anc }]
    { x with ring := r.drop (r.length - 16) }) s

/-- A cycle lies in the admission window of frame m (R274). -/
def inWindow (s : State) (k m now : Nat) : Bool :=
  let due := dueOf s k m
  let ts := sourceSpan s k
  decide (2 * due < 2 * now + ts) && decide (4 * now ≤ 4 * due + ts)

/-- A frame waits for the admission point of its DET partition (R354). -/
def deferFrame (k tArr : Nat) (s : State) : State :=
  deferEvent (seqPart s k) (.frameIn k) (updSeq k (fun x => { x with waits := some tArr }) s)

/-- A complete source frame reaches the source ring of stream k (R273, R274, R354). -/
def sourceFrame (k tArr : Nat) (anc : List Byte) (s : State) : State :=
  let x := getSeq s k
  let m := x.mNext
  let det := isDet s (seqPart s k)
  let now := cycle s
  match seqState s k with
  | 0 => updSeq k (fun x => { x with mNext := m + 1 }) (storeRing k m anc s)
  | 1 =>
    let s := storeRing k m anc s
    if x.waits.isSome then dropFrame k m s else if det then deferFrame k tArr s else joinStream k tArr s
  | 2 | 3 =>
    if x.waits.isSome then dropFrame k m (storeRing k m anc s)
    else if inWindow s k m now then
      let s := storeRing k m anc s
      if det then deferFrame k tArr s else admitFrame k m s
    else if x.admitted.contains (m - 1) = true ∧ inWindow s k (m - 1) now = true then dropFrame k (m - 1) (storeRing k (m - 1) anc s)
    else s
  | _ => s

/-- The source frame that an arriving one is: the next expected, or the one before while its window stands (R274). -/
def arrivingFrame (s : State) (k start : Nat) : Nat :=
  let x := getSeq s k
  if seqState s k = 2 ∨ seqState s k = 3 then
    let done := start + sourceSpan s k
    if x.admitted.contains (x.mNext - 1) = true ∧ inWindow s k (x.mNext - 1) done = true ∧ inWindow s k x.mNext done = false then x.mNext - 1 else x.mNext
  else x.mNext

/-- A deferred source admission takes effect (R354). -/
def takeFrameIn (k : Nat) (s : State) : State :=
  let x := getSeq s k
  match x.waits with
  | none => s
  | some t =>
    let s := updSeq k (fun x => { x with waits := none }) s
    match seqState s k with
    | 1 => joinStream k t s
    | 2 | 3 => admitFrame k x.mNext s
    | _ => s

/-- SOURCE_GAP: the window of the next frame has ended without one (R274, R287). -/
def execSourceGap (k : Nat) (s : State) : Out := whenLive s fun s =>
  let x := getSeq s k
  let m := x.mNext
  let up := seqUp s k
  if (seqState s k = 2 ∨ seqState s k = 3) ∧ x.waits = none ∧ 4 * dueOf s k m + sourceSpan s k < 4 * cycle s then
    let s := updSeq k (fun x => { x with mNext := m + 1, gapBefore := true }) s
    let s := setObj (oSeqSrcFrame k) m (addObj (oSeqGaps k) 1 s)
    let s := capture 0x0402 (seqPart s k) k m 0 0 s
    handFrames k (up * (m - 1) + 1) (up * m + 1) s
  else s

/-! ### Publication (R282, R288) -/

/-- Instances with nothing left to publish move on, and so does a finished chunk. -/
def tidySeq (l : Loaded) (x : Seq) : Seq :=
  let done := x.pending.takeWhile fun i => (instNext l i).isNone
  let x := { x with live := x.live ++ done, pending := x.pending.drop done.length }
  match x.chunk with
  | some c => if (instNext l c).isNone then { x with live := x.live ++ [c], chunk := none } else x
  | none => x

/-- The next chunk of a warm-up is taken, when no instance is pending and the period's chunks are not used up (R288). -/
def openChunk (l : Loaded) (family rate : Nat) (x : Seq) : Seq :=
  match x.pending, x.chunk, x.warm, familyGraph l family 2 0 with
  | [], none, some w, some g =>
    match w.frames with
    | [] => x
    | m :: rest =>
      if rate ≤ x.chunksThis then x
      else
        let c := { newInst 2 g.index 0 m 0 with chunk := w.chunk, firstAdvance := !w.advanced }
        let w := if w.chunk + 1 < g.chunks then { w with chunk := w.chunk + 1 } else { w with frames := rest, chunk := 0, advanced := true, last := m }
        tidySeq l { x with chunk := some c, warm := some w, chunksThis := x.chunksThis + 1 }
  | _, _, _, _ => x

/-- The sequencer as the publication port finds it: up to 16 chunks without steps are passed. -/
def readySeq (s : State) (k : Nat) (l : Loaded) : Seq :=
  (List.range 17).foldl (fun x _ => openChunk l (getObj s (oSeqFamily k)) (getObj s (oSeqChunkRate k)) x) (tidySeq l (getSeq s k))

/-- The step that a sequencer publishes next: its instance, index, engine and queue (R282). -/
def seqHead (s : State) (k : Nat) : Option (Seq × Inst × Nat × Nat × Nat) :=
  match seqLoaded s k with
  | none => none
  | some l =>
    let x := readySeq s k l
    match (x.pending ++ x.chunk.toList).head? with
    | none => none
    | some i => (instNext l i).map fun n =>
        let h := stepHead (sectionOf l i.kind) (graphDesc (sectionOf l i.kind) i.graph) n
        (x, i, n, stepEngine s l h, h.queue)

/-- A sequencer has a step that its queue has room for; none is published during a reset, or before the next admission after one (R282, R318, R585). What an admission has instantiated is published from the next cycle on, so that a stop or a cut of its cycle leaves nothing of it (R291; DESIGN CHOICE, log entry 84). -/
def canPublish (s : State) (k : Nat) : Bool :=
  (seqState s k == 2 || seqState s k == 3) && (pState s (seqPart s k) == 2 || pState s (seqPart s k) == 3) && !((getSeq s k).paused) &&
    match seqHead s k with
    | some (_, i, _, eng, q) => decide (queueHeld eng (getQueue s eng q) < slotsOf eng) && !((admittedNow s k).any fun m => freshInst (seqUp s k) m i)
    | none => false

/-- The sequencer of a DET partition that publishes next: the first with instances of an admission, which the later ones wait for; with none, the first whose warm-up chunk has room (R352, R354). -/
def detChoice (s : State) (p : Nat) : Option Nat :=
  let ks := (List.range 128).filter fun k => seqPart s k == p && (seqState s k == 2 || seqState s k == 3)
  match ks.find? fun k => (seqHead s k).any fun h => h.1.pending != [] with
  | some k => if canPublish s k then some k else none
  | none => ks.find? (canPublish s)

/-- The sequencer that the port serves in this cycle: DET ones first, by partition and number; else the rotation (R282, R352). -/
def portChoice (s : State) : Option Nat :=
  match (List.range 16).findSome? fun p => if isDet s p then detChoice s p else none with
  | some k => some k
  | none => ((List.range 128).map fun i => (s.st.served + 1 + i) % 128).find? fun k => !(isDet s (seqPart s k)) && canPublish s k

/-- A step is published: command words and tail write; the instance keeps its step number, and the monitor learns a finish step's; an output step of an abandoned instance is abandoned at once (R81, R282, R283, R286, R314). -/
def publishOne (k : Nat) (l : Loaded) (x : Seq) (i : Inst) (n eng q : Nat) (s : State) : State :=
  let d := sectionOf l i.kind
  let g := graphDesc d i.graph
  let h := stepHead d g n
  let p := seqPart s k
  let qu := getQueue s eng q
  let sl := qu.tail % slotsOf eng
  let num := getObj s (oStepAllocator (queuePart s eng q))
  let words := stepCommand s k l i n
  let i' := { i with next := n + 1, steps := i.steps ++ [{ eng := eng, q := q, slot := sl, step := num, output := h.output }],
                     cutCount := if i.kind = 0 ∧ i.steps = [] then syncCount s (getObj s (oSeqCutObject k)) else i.cutCount,
                     finish := if (i.kind < 2 ∧ n = g.finish) ∨ i.kind = 2 then some num else i.finish }
  let x := if i.kind = 2 then { x with chunk := some i', warm := x.warm.map fun w => { w with lastStep := some num } } else { x with pending := i' :: x.pending.drop 1 }
  let s := setSeq k (tidySeq l x) s
  let s := if i.kind = 1 ∧ n = g.finish then updWatched k i.o (fun w => { w with finish := some num }) s else s
  let s := updSlot eng q sl (fun y => { y with words := words }) s
  let s := publishTail eng q p ((qu.tail + 1) % ptrMod eng) false s
  let s := if i.dropped && h.output then abandonStep p { eng := eng, q := q, slot := sl, step := (getSlot s eng q sl).step, output := true } s else s
  if isDet s p then s else { s with st := { s.st with served := k } }

/-- PUBLISH_STEP: the port writes the next step of the sequencer it serves (R282). -/
def execPublishStep (k : Nat) (s : State) : Out := whenLive s fun s =>
  if portChoice s = some k then
    match seqLoaded s k, seqHead s k with
    | some l, some (x, i, n, eng, q) => publishOne k l x i n eng q s
    | _, _ => s
  else s

/-! ### A partition reset (R585) -/

/-- A reset has cost the instance a step: it was discarded, or can no longer be published. -/
def lostStep (l : Loaded) (counter : Nat) (pending : Bool) (i : Inst) : Bool :=
  (pending && (instNext l i).isSome) || i.steps.any fun st => decide (counter ≤ st.step)

/-- A lost step of a phase-0 graph did history work: it lacks the output flag. -/
def lostHistory (l : Loaded) (counter : Nat) (pending : Bool) (i : Inst) : Bool :=
  let d := sectionOf l i.kind
  let g := graphDesc d i.graph
  (i.steps.any fun st => !st.output && decide (counter ≤ st.step)) ||
    (pending && (List.range g.count).any fun n => decide (i.next ≤ n) && (stepHead d g n).kind == 0 && !((stepHead d g n).output))

/-- What a sequencer does at cycle 69 of a reset of its partition (R585). -/
def resumeSeq (k : Nat) (s : State) : State :=
  match seqLoaded s k with
  | none => s
  | some l =>
    let x := getSeq s k
    let counter := getObj s (oStepCounter (seqPart s k))
    let all := (x.live.map fun i => (false, i)) ++ ((x.pending ++ x.chunk.toList).map fun i => (true, i))
    let lost := all.filter fun e => lostStep l counter e.1 e.2
    let hist := (lost.filterMap fun e =>
      if e.2.kind = 0 then some e.2.m
      else if e.2.kind = 1 ∧ e.2.o % seqUp s k = 0 ∧ lostHistory l counter e.1 e.2 = true then some e.2.m
      else if e.2.kind = 2 then x.warm.map (·.first) else none)
    let s := setSeq k { x with pending := [], chunk := none, live := [], paused := true } s
    let s := ((lost.filter (·.2.kind == 1)).map (·.2.o)).foldl (fun s o => handFrame k o s) s
    match hist with
    | [] => s
    | h :: hs => if seqState s k = 2 ∨ seqState s k = 3 then startWarm k (hs.foldl min h) s else s

/-- RESET_QUEUE_CLEAR: cycles 68 and 69 of R318. Queues, allocator and the new state; then the sequencers of the partition act (R585). -/
def execResetQueueClear (p : Nat) (s : State) : Out := whenLive s fun s =>
  if pState s p = 4 ∧ resetReady s p = true then
    let s := endReset p (clearQueues p s)
    (List.range 128).foldl (fun s k => if seqState s k ≠ 0 ∧ seqPart s k = p then resumeSeq k s else s) s
  else s

/-! ### Commits, retirements and updates that sequencers watch -/

/-- The cut counts of a motion engine and of all go up when an estimate that declares a cut commits (R245, R256). -/
def countCut (eng : Nat) (y : Slot) (s : State) : State :=
  if 40 ≤ eng ∧ y.run.cut = true then addObj (oMotionCuts (eng - 40)) 1 (addObj oMotionCutsTotal 1 s) else s

/-- COMMIT_GRANT: the commit unit grants at the command's step (R86). -/
def execCommitGrant (eng q sl : Nat) (s : State) : Out := whenLive s fun s =>
  let y := getSlot s eng q sl
  if y.phase = .requested ∧ stepTurn s y = true then noticeSteps y.part (countCut eng y (grantCommit eng q sl s)) else s

/-- SYNC_UPDATE_APPLY: a bank completes an update (R320, R352). In scheduled mode the update slots with an even number are the DET queue's and the odd ones the others'. -/
def execSyncUpdateApply (b : Nat) (s : State) : Out := whenLive s fun s =>
  noticeCuts (applyFrom b (if getObj s oDetActive = 1 ∧ (cycle s / 4) % 2 = 0 then .det else nextClass s b) s)

/-- COMMIT_SIGNAL: once every remote tile has acknowledged its flip, the increment goes to the signal object, and the slot is free (R86, R333). The signal leaves in a later cycle than the grant and the flips: where the model's clock has not ticked since, the cycle ends here (log entry 84). While the engine holds an update for which a queue has no room, it sends no other (R320). -/
def execCommitSignal (eng q sl : Nat) (s : State) : Out := whenLive s fun s =>
  let y := getSlot s eng q sl
  if y.phase = .granted ∧ y.run.flips = [] ∧ sourceHolds s (.engine eng) = false then
    let s := sendCommitSignals eng y (if s.now.landed.contains (eng, q, sl) then passCycle s else s)
    noticeCuts (advanceCommit eng q (updSlot eng q sl (fun z => { z with phase := .done, run := Run.init }) s))
  else s

/-- RETIRE_REFUSED: at its step a refused command retires with result 0x1 (R78). -/
def execRetireRefused (eng q sl : Nat) (s : State) : Out := whenLive s fun s =>
  let y := getSlot s eng q sl
  match y.phase with
  | .refused r =>
    if stepTurn s y then
      let s := bumpStep y s
      let s := advanceCommit eng q (setSlot eng q sl { y with phase := .done, rec0 := BitVec.ofNat 32 (0x10000000 + r * 2 ^ 20), rec1 := BitVec.ofNat 32 y.step } s)
      noticeCuts (noticeSteps y.part s)
    else s
  | _ => s

/-- ABANDONED_RETIRE: at its step an abandoned command adds its increment and writes no page (R314). -/
def execAbandonedRetire (eng q sl : Nat) (s : State) : Out := whenLive s fun s =>
  let y := getSlot s eng q sl
  if y.phase = .abandoned ∧ stepTurn s y = true ∧ sourceHolds s (.retire y.part) = false then
    let s := sendSignal (.retire y.part) y.part (cSignalObject y) (cIncrement y) (bumpStep y s)
    noticeSteps y.part (advanceCommit eng q (setSlot eng q sl { y with phase := .done } s))
  else s

/-- WITHDRAWAL_LIST_RETIRE: the step counter reaches a listed step; the entry retires and its increment is added; a command that waits for room in the list is then withdrawn (R307). -/
def execWithdrawalListRetire (p : Nat) (s : State) : Out := whenLive s fun s =>
  let x := getPart s p
  let c := getObj s (oStepCounter p)
  match x.withdrawals.find? fun w => w.step == c with
  | some w =>
    if replayHeld s p || x.grantsHeld || pState s p == 4 || sourceHolds s (.retire p) then s
    else
      let s := updPart p (fun x => { x with withdrawals := x.withdrawals.filter fun w => w.step != c }) s
      noticeSteps p (withdrawDoomed p (sendSignal (.retire p) p w.object w.increment (addObj (oStepCounter p) 1 s)))
  | none => s

/-! ### Admission points (R354) -/

/-- The partitions in the global DET mode. -/
def detParts (s : State) : List Nat := (List.range 16).filter (isDet s)

/-- The stable order of a list by a key. -/
def sortOn {α : Type} (f : α → Nat) (l : List α) : List α :=
  l.foldl (fun acc x => (acc.takeWhile fun y => decide (f y ≤ f x)) ++ [x] ++ (acc.dropWhile fun y => decide (f y ≤ f x))) []

/-- A pending software event of a DET partition takes effect. -/
def takeEvent (p : Nat) (e : DetEvent) (s : State) : State :=
  match e with
  | .command v _ => (doPartition p v s).1
  | .sync o set v m => sendUpdate { object := o, set := set, value := v, source := .master m, part := 16 } s
  | .tail eng q v _ => (applyTail eng q v s).1
  | .mark j true => markJob p j s
  | .mark j false => unmarkJob p j s
  | .frameIn k => takeFrameIn k s

/-- The place of an event in the order of R354: class, and within it the object, job or sequencer. -/
def eventRank : DetEvent → Nat
  | .command _ _ => 0
  | .sync o _ _ _ => 2 ^ 20 + o
  | .tail eng q _ _ => 2 * 2 ^ 20 + qKey eng q
  | .mark j _ => 3 * 2 ^ 20 + j
  | .frameIn k => 4 * 2 ^ 20 + k

/-- The events of a partition that came before this cycle: those of the point's own cycle wait for the next (R363). -/
def dueEvents (s : State) (p : Nat) : List DetEvent :=
  let l := (getPart s p).detPending
  l.take (l.length - s.now.arrived.count p)

/-- ADMISSION_POINT: at a cycle that is a multiple of det.quantum, every pending event of the DET partitions takes effect, class by class (R354). -/
def execAdmissionPoint (s : State) : Out := whenLive s fun s =>
  let q := getObj s oDetQuantum
  if s.clk.started = true ∧ cycle s % q = 0 ∧ detParts s ≠ [] then
    let evs := (detParts s).flatMap fun p => (dueEvents s p).map fun e => (p, e)
    let s := (detParts s).foldl (fun s p => updPart p (fun x => { x with detPending := x.detPending.drop (dueEvents s p).length }) s) s
    let s := (sortOn (fun e => eventRank e.2) evs).foldl (fun s e => takeEvent e.1 e.2 s) s
    noticeCuts s
  else s

end Sys2Proof.Machine
end

