-- ==== Sys2Proof/Machine/Overlay.lean ====
section
/-!
DEFINITION. The overlay rasteriser (R402 to R421): lists, binning and its checks, rasterising a bin row, and the blend onto the output's lines.
-/

namespace Sys2Proof.Machine

/-! ### Output formats (R375, R400, R445) -/

/-- Resolution and picture code of a stream's output. -/
def outFormat (s : State) (k : Nat) : Nat × Nat :=
  let out := getObj s (oSeqOutput k)
  let i := out % 256
  if out / 4096 = 1 then (getField s (oRasterConfig i) 23 22, getField s (oRasterConfig i) 16 13)
  else (getField s (oDmaConfig i) 22 21, getField s (oDmaConfig i) 15 12)

/-- Width and height of a stream's output pictures. -/
def outSize (s : State) (k : Nat) : Nat × Nat := ((resolution (outFormat s k).1).1, (resolution (outFormat s k).1).2.1)

/-- `n` line slots of a rate and resolution, in compute cycles, rounded down (R375). -/
def lineSpan (code : Nat) (fractional : Bool) (res n : Nat) : Nat :=
  n * 1400000 * (if fractional then 1001 else 1000) / (rateHz code * (resolution res).2.2)

/-- `n` line slots of a stream's output. -/
def outLines (s : State) (k n : Nat) : Nat := lineSpan (seqOut s k) (seqFrac s k) (outFormat s k).1 n

/-! ### Lists (R405 to R409) -/

/-- Word `j` of record `i` of a list. -/
def listWord (rd : Nat → Byte) (i j : Nat) : Nat := readNat rd (32 + 32 * i + 4 * j) 4

/-- A vertex record: x, y, z, the four channels, u, v (R408). -/
def vertexAt (rd : Nat → Byte) (i : Nat) : List Int :=
  let w := listWord rd i
  [toSigned 32 (w 0), toSigned 32 (w 1), (w 2 / 65536 : Nat), (bits (w 3) 7 0 : Nat), (bits (w 3) 15 8 : Nat), (bits (w 3) 23 16 : Nat),
   (bits (w 3) 31 24 : Nat), (w 4 : Nat), (w 5 : Nat)]

/-- Bytes of a texture. -/
def textureBytes (rgba : Bool) (w h : Nat) : Nat := h * up32 (w * (if rgba then 4 else 1))

/-- The texture that record `i` defines, read from the client's region (R409). -/
def textureAt (rd region : Nat → Byte) (i : Nat) : Texture :=
  let rgba := bit (listWord rd i 0) 10
  let w := bits (listWord rd i 1) 11 0 + 1
  let h := bits (listWord rd i 1) 23 12 + 1
  { rgba := rgba, w := w, h := h, bytes := readBytes region (listWord rd i 2 + listWord rd i 3 * 2 ^ 32) (textureBytes rgba w h) }

/-- What a list holds: primitives in order, and the bytes its textures take of the half, each rounded up to 64. -/
structure Scan where
  state : Nat
  textures : SMap Texture
  prims : List Prim
  bytes : Nat
deriving DecidableEq, Repr

/-- Primitives of `n` vertices each, from the vertices that start at the given records. -/
def primsAt (rd : Nat → Byte) (layer : Nat) (rect : Bool) (n : Nat) (x : Scan) (starts : List Nat) : List Prim :=
  let t := bits x.state 24 22
  starts.map fun a =>
    { layer := layer, rect := rect, state := x.state, texture := if t = 0 then none else mapFind x.textures (t - 1),
      vertices := (List.range n).map fun j => vertexAt rd (a + j) }

/-- The records of a list of `n` records from record `i` on; none where the list is malformed (R406 to R409). -/
def scanList (rd region : Nat → Byte) (layer n : Nat) : Nat → Nat → Scan → Option Scan
  | 0, _, _ => none
  | f + 1, i, x =>
    if n ≤ i then none
    else
      let w := listWord rd i 0
      let c := w / 256
      match w % 256 with
      | 0x00 => if i + 1 = n then some x else none
      | 0x01 => if bits w 31 30 = 3 ∨ 4 < bits w 24 22 then none else scanList rd region layer n f (i + 1) { x with state := w }
      | 0x02 =>
        if listWord rd i 2 % 64 ≠ 0 then none
        else
          let t := textureAt rd region i
          scanList rd region layer n f (i + 1) { x with textures := mapPut x.textures (bits w 9 8) t, bytes := x.bytes + ceilDiv t.bytes.length 64 * 64 }
      | 0x10 =>
        if c = 0 ∨ 21845 < c ∨ n < i + 1 + 3 * c then none
        else scanList rd region layer n f (i + 1 + 3 * c) { x with prims := x.prims ++ primsAt rd layer false 3 x ((List.range c).map fun j => i + 1 + 3 * j) }
      | 0x11 =>
        if c < 3 ∨ 65534 < c ∨ n < i + 1 + c then none
        else scanList rd region layer n f (i + 1 + c) { x with prims := x.prims ++ primsAt rd layer false 3 x ((List.range (c - 2)).map fun j => i + 1 + j) }
      | 0x12 =>
        if c = 0 ∨ 32767 < c ∨ n < i + 1 + 2 * c then none
        else scanList rd region layer n f (i + 1 + 2 * c) { x with prims := x.prims ++ primsAt rd layer true 2 x ((List.range c).map fun j => i + 1 + 2 * j) }
      | _ => none

/-- Field `i` of a vertex. -/
def vtx (v : List Int) (i : Nat) : Int := v.getD i 0

/-- Vertex `i` of a primitive. -/
def Prim.v (p : Prim) (i : Nat) : List Int := p.vertices.getD i []

/-- A vertex lies beyond 32,767 pixels (R411). -/
def farPrim (p : Prim) : Bool := p.vertices.any fun v => decide (32767 * 16 < (vtx v 0).natAbs) || decide (32767 * 16 < (vtx v 1).natAbs)

/-- The edge function of a, b at a point. -/
def edge (ax ay bx by_ px py : Int) : Int := (bx - ax) * (py - ay) - (by_ - ay) * (px - ax)

/-- Twice the signed area of a triangle. -/
def area2 (p : Prim) : Int := edge (vtx (p.v 0) 0) (vtx (p.v 0) 1) (vtx (p.v 1) 0) (vtx (p.v 1) 1) (vtx (p.v 2) 0) (vtx (p.v 2) 1)

/-! ### Bins and costs (R411, R412) -/

/-- The bounding box of a primitive in 1/16 pixels: x0, y0, x1, y1. The two corners of a rectangle may stand in any order (R411). -/
def boxOf (p : Prim) : Int × Int × Int × Int :=
  let span (i : Nat) : Int × Int :=
    let l := p.vertices.map fun v => vtx v i
    (l.foldl min (l.headD 0), l.foldl max (l.headD 0))
  ((span 0).1, (span 1).1, (span 0).2, (span 1).2)

/-- The bounding box of a primitive, cut to a clip rectangle; none when empty (R411). -/
def cutBox (p : Prim) (h : LayerHead) : Option (Nat × Nat × Nat × Nat) :=
  let (a, b, c, d) := boxOf p
  let x0 := max a (16 * h.x0 : Nat)
  let y0 := max b (16 * h.y0 : Nat)
  let x1 := min c (16 * h.x1 : Nat)
  let y1 := min d (16 * h.y1 : Nat)
  if x0 < x1 ∧ y0 < y1 then some (x0.toNat, y0.toNat, x1.toNat, y1.toNat) else none

/-- Bins from a to b (1/16 pixels, b exclusive) along one axis. -/
def binsOf (a b : Nat) : List Nat := (List.range ((b - 1) / 512 + 1 - a / 512)).map fun i => a / 512 + i

/-- Length of [a, b) within bin `i`. -/
def inBin (a b i : Nat) : Nat := min b (512 * (i + 1)) - max a (512 * i)

/-- The layer header of a primitive. -/
def headOf (hs : List LayerHead) (l : Nat) : LayerHead := (hs.find? fun h => h.layer == l).getD { layer := l, x0 := 0, y0 := 0, x1 := 0, y1 := 0, clear := 0 }

/-- Bin entries of a half: column, row and the entry's cost ceil (A (1 + samples4 + filter) / 16). -/
def binEntries (h : Half) : List (Nat × Nat × Nat) :=
  h.prims.flatMap fun p =>
    match cutBox p (headOf h.heads p.layer) with
    | none => []
    | some (x0, y0, x1, y1) =>
      let f := 1 + bits p.state 25 25 + bits p.state 21 21
      (binsOf y0 y1).flatMap fun r => (binsOf x0 x1).map fun c => (c, r, ceilDiv (inBin x0 x1 c * inBin y0 y1 r * f) (16 * 256))

/-- Cost of a bin row (R412). -/
def rowCost (es : List (Nat × Nat × Nat)) (cols r : Nat) : Nat :=
  let row := es.filter fun e => e.2.1 == r
  sumNat ((List.range cols).map fun c => match (row.filter fun e => e.1 == c).map (·.2.2) with
    | [] => 4
    | cs => 16 + sumNat cs)

/-- Bytes of a half of an allocation (R411). -/
def halfBytes (alloc w : Nat) : Nat := (alloc - 2 * (w * 128)) / 2 / 64 * 64

/-- The first check of R412 that a half fails: reason, layer, row. -/
def halfFail (alloc share rowCycles bytes : Nat) (h : Half) : Option (Nat × Nat × Nat) :=
  let cols := ceilDiv h.w 32
  let rows := ceilDiv h.h 32
  let es := binEntries h
  let used := 256 + 4 * (cols * rows) + 64 * h.prims.length + 4 * es.length + bytes
  if halfBytes alloc h.w < used then some (1, 0, 0)
  else ((List.range rows).find? fun r => decide (rowCycles < ceilDiv (16 * rowCost es cols r) share + 64)).map fun r => (2, 0, r)

/-! ### Binning (R404, R410) -/

/-- A layer's scan: header and list c of its ring; none while it draws nothing, some none where the list is malformed. -/
def scanLayer (s : State) (k l w h : Nat) : Option (Option (LayerHead × Scan)) :=
  let ctl := getObj s (oOverlayLayerControl k l)
  let c := syncCount s (getObj s (oOverlayLayerObject k l))
  if bit ctl 31 = false ∨ c = 0 then none
  else
    let p := bits ctl 27 24
    let base := getObj s (oOverlayLayerRingBase k l) + (c % max 1 (bits ctl 23 16)) * (bits ctl 15 0 * 65536)
    let region := regionByte s p s.ci.serial
    let rd (i : Nat) : Byte := region (base + i)
    let n := readNat rd 0 4
    let head : LayerHead :=
      { layer := l, x0 := readNat rd 4 2, y0 := readNat rd 6 2, x1 := min w (readNat rd 8 2), y1 := min h (readNat rd 10 2), clear := readNat rd 12 2 }
    if n = 0 ∨ 65536 < n then some none
    else some ((scanList rd region l n (n + 1) 0 { state := 1, textures := [], prims := [], bytes := 0 }).map fun x => (head, x))

/-- The layer whose list is malformed first. -/
def badLayer (s : State) (k w h : Nat) : Option Nat := (List.range 4).find? fun l => scanLayer s k l w h == some none

/-- The read epochs that a binning opens, one for each enabled layer (R410, R421). -/
def layerEpochs (s : State) (k : Nat) : List Epoch :=
  ((List.range 4).filter fun l => objBit s (oOverlayLayerControl k l) 31).map fun l =>
    let p := getField s (oOverlayLayerControl k l) 27 24
    { part := p, cd := getObj s (oStepCounter p), serial := s.ci.serial }

/-- The half that the lists of a frame give, what fails, and the primitives discarded. -/
def buildHalf (s : State) (k o id : Nat) : Half × Option (Nat × Nat × Nat) × Nat :=
  let size := outSize s k
  let w := size.1
  let h := size.2
  let scans := (List.range 4).filterMap fun l => match scanLayer s k l w h with
    | some (some x) => some x
    | _ => none
  let prims := scans.flatMap fun x => x.2.prims
  let kept := prims.filter fun p => !(farPrim p) && (p.rect || area2 p != 0)
  let half : Half := { id := id, o := o, w := w, h := h, heads := scans.map (·.1), prims := kept }
  let fail := match badLayer s k w h with
    | some l => some (3, l, 0)
    | none => halfFail (getObj s (oOverlayAlloc k)) (getObj s (oOverlayShare k)) (outLines s k 32) (sumNat (scans.map fun x => x.2.bytes)) half
  (half, fail, (prims.filter farPrim).length)

/-- Cycles of a stream's binning lead, at most one output period (R410). -/
def leadSpan (s : State) (k : Nat) : Nat := min (getObj s (oOverlayLead k) * usTicks) (outSpan s k 1)

/-- BINNING_START: at D(o) - lead the engine reads each layer's count, opens epochs and bins the lists into the building half; it waits while a DMA frame holds that half (R410, R417). -/
def execBinningStart (k : Nat) (s : State) : Out := whenLive s fun s =>
  let x := getOverlay s k
  let o := (getSeq s k).oNext
  if 2 ≤ seqState s k ∧ overlayServed s k = true ∧ x.binned ≠ some o ∧ x.frame ≠ some o ∧ x.held = none ∧ dOf s k o ≤ cycle s + leadSpan s k then
    let r := buildHalf s k o x.nextId
    let s := setOverlay k { x with building := some r.1, fail := r.2.1, binned := some o, due := dOf s k o, epochs := layerEpochs s k, nextId := x.nextId + 1 } s
    addObj (oOverlayDiscarded k) r.2.2 s
  else s

/-- The word of overlay[k].last_overflow (R423). -/
def overflowWord (f : Nat × Nat × Nat) : Nat := f.1 * 2 ^ 24 + f.2.1 * 2 ^ 22 + f.2.2 * 2 ^ 14

/-- The halves of a stream that DMA frames use. -/
def usedHalves (s : State) (k : Nat) : List Nat :=
  s.io.rings.flatMap fun e => e.2.frames.filterMap fun f => if f.present.k = k then f.present.half else none

/-- A half that is no longer current: held while a DMA frame uses it (R417). -/
def retireHalf (s : State) (k : Nat) (h : Option Half) : Option Half :=
  match h with
  | some x => if (usedHalves s k).contains x.id then some x else none
  | none => none

/-- The frame whose deadline comes next, and its D: the stream's next output frame; after the stream has stopped, the frame of the binning that still runs (R410, R420). -/
def dueFrame (s : State) (k : Nat) : Option (Nat × Nat) :=
  let x := getOverlay s k
  let o := (getSeq s k).oNext
  if 2 ≤ seqState s k then (if overlayServed s k = true ∧ x.frame ≠ some o then some (o, dOf s k o) else none)
  else match x.building, x.binned with
    | some _, some b => some (b, x.due)
    | _, _ => none

/-- The frames of a DMA ring that wait for this deadline take the current half (R284, R410). -/
def attachRings (k o : Nat) (s : State) : State :=
  let r := getObj s (oSeqOutput k)
  if r / 4096 = 2 then
    let x := getRing s (r % 256)
    setRing (r % 256) { x with frames := x.frames.map fun f => if f.present.k = k ∧ f.present.o = o then { f with present := attachHalf s f.present } else f } s
  else s

/-- BINNING_DEADLINE: at D(o) - 32 line slots a half that passed becomes current; otherwise the overlay frame is dropped, and recorded (R410, R419). The epochs are closed, and the frame takes the half that is current now. -/
def execBinningDeadline (k : Nat) (s : State) : Out := whenLive s fun s =>
  let x := getOverlay s k
  match dueFrame s k with
  | none => s
  | some (o, d) =>
    if d ≤ cycle s + outLines s k 32 then
      let fail := if x.binned = some o then x.fail else some (4, 0, 0)
      match fail with
      | none =>
        let s := setOverlay k { x with current := x.building, building := none, held := retireHalf s k x.current, frame := some o, epochs := [] } s
        attachRings k o (addObj oOverlayFramesTotal 1 s)
      | some f =>
        let s := setOverlay k { x with building := none, frame := some o, epochs := [] } s
        let s := setObj (oOverlayLastOverflow k) (overflowWord f) (addObj (oOverlayOverflows k) 1 (addObj oOverlayOverflowsTotal 1 s))
        attachRings k o (capture 0x0409 (seqPart s k) k o (overflowWord f) 0 s)
    else s

/-! ### Rasterising (R413 to R415) -/

/-- Sample positions of a pixel in 1/16 pixels (R413). -/
def samplesOf (four : Bool) (x y : Nat) : List (Int × Int) :=
  let cx : Int := 16 * x + 8
  let cy : Int := 16 * y + 8
  if four then [(cx - 2, cy - 6), (cx + 6, cy - 2), (cx - 6, cy + 2), (cx + 2, cy + 6)] else [(cx, cy)]

/-- An edge function is positive, or zero on a top or left edge of a triangle of positive area (R413). -/
def edgeIn (ax ay bx by_ px py : Int) : Bool :=
  let e := edge ax ay bx by_ px py
  decide (0 < e) || (e == 0 && ((ay == by_ && decide (ax < bx)) || decide (by_ < ay)))

/-- The vertices of a triangle in the order that makes its area positive. -/
def ordered (p : Prim) : List Int × List Int × List Int := if 0 < area2 p then (p.v 0, p.v 1, p.v 2) else (p.v 0, p.v 2, p.v 1)

/-- A sample is covered by a primitive within its clip rectangle (R413). -/
def covered (h : LayerHead) (p : Prim) (q : Int × Int) : Bool :=
  decide ((16 * h.x0 : Nat) ≤ q.1) && decide (q.1 < (16 * h.x1 : Nat)) && decide ((16 * h.y0 : Nat) ≤ q.2) && decide (q.2 < (16 * h.y1 : Nat)) &&
    (if p.rect then
      let (x0, y0, x1, y1) := boxOf p
      decide (x0 ≤ q.1) && decide (q.1 < x1) && decide (y0 ≤ q.2) && decide (q.2 < y1)
     else
      let (a, b, c) := ordered p
      edgeIn (vtx a 0) (vtx a 1) (vtx b 0) (vtx b 1) q.1 q.2 && edgeIn (vtx b 0) (vtx b 1) (vtx c 0) (vtx c 1) q.1 q.2 &&
        edgeIn (vtx c 0) (vtx c 1) (vtx a 0) (vtx a 1) q.1 q.2)

/-- depth_func with the fragment on the left (R407). -/
def depthPasses (f : Nat) (z d : Nat) : Bool :=
  match f with
  | 0 => true
  | 1 => false
  | 2 => decide (z < d)
  | 3 => decide (z ≤ d)
  | 4 => z == d
  | 5 => decide (d ≤ z)
  | 6 => decide (d < z)
  | _ => z != d

/-- Value `i` of a primitive at a pixel centre, rounded once (R414). A rectangle's u goes with x and its v with y, from the first corner's value at the first corner to the second's at the second. -/
def fragValue (p : Prim) (cx cy : Int) (i : Nat) : Int :=
  if p.rect then
    let lerp (axis : Nat) (c : Int) : Int :=
      let a := vtx (p.v 0) axis
      let b := vtx (p.v 1) axis
      rne ((vtx (p.v 0) i * (b - a) + (vtx (p.v 1) i - vtx (p.v 0) i) * (c - a)) * (b - a).sign) (b - a).natAbs
    if i = 7 then lerp 0 cx else if i = 8 then lerp 1 cy else vtx (p.v 0) i
  else
    let (a, b, c) := ordered p
    let wc := edge (vtx a 0) (vtx a 1) (vtx b 0) (vtx b 1) cx cy
    let wa := edge (vtx b 0) (vtx b 1) (vtx c 0) (vtx c 1) cx cy
    let wb := edge (vtx c 0) (vtx c 1) (vtx a 0) (vtx a 1) cx cy
    rne (wa * vtx a i + wb * vtx b i + wc * vtx c i) (wa + wb + wc).toNat

/-- A channel of 8 bits; a value that does not fit is free. -/
def channel8 (token i : Nat) (v : Int) : Nat := if 0 ≤ v ∧ v ≤ 255 then v.toNat else (Config.freeByte token i).toNat

/-- Channel `c` of a texel, indices clamped; a slot that no record defined reads free bytes (R414). -/
def texel (token i : Nat) (t : Option Texture) (u v : Int) (c : Nat) : Nat :=
  match t with
  | none => (Config.freeByte token i).toNat
  | some t =>
    let x := clampIndex t.w u
    let y := clampIndex t.h v
    let bpp := if t.rgba then 4 else 1
    (t.bytes.getD (y * up32 (t.w * bpp) + x * bpp + (if t.rgba then c else 0)) 0).toNat

/-- A texture sampled at (u, v) with 8 fraction bits: nearest, or bilinear in exact 1/256 steps, rounded half to even (R414). -/
def sampleTexture (token i : Nat) (t : Option Texture) (bilinear : Bool) (u v : Int) (c : Nat) : Nat :=
  if bilinear then
    let u' := u - 128
    let v' := v - 128
    let fx := u' % 256
    let fy := v' % 256
    let x := u' / 256
    let y := v' / 256
    let tx (a b : Int) : Int := (texel token i t a b c : Nat)
    (rne (tx x y * (256 - fx) * (256 - fy) + tx (x + 1) y * fx * (256 - fy) + tx x (y + 1) * (256 - fx) * fy + tx (x + 1) (y + 1) * fx * fy) 65536).toNat
  else texel token i t (u / 256) (v / 256) c

/-- Round half to even of a / b for naturals. -/
def rneNat (a b : Nat) : Nat := (rne (a : Nat) b).toNat

/-- A fragment's channel (R414). -/
def fragment (token i : Nat) (p : Prim) (x y n c : Nat) : Nat :=
  let cx : Int := 16 * x + 8
  let cy : Int := 16 * y + 8
  let base := channel8 token (16 * i + c) (fragValue p cx cy (3 + c))
  let tex := bits p.state 24 22 != 0
  let v := if tex then rneNat (base * sampleTexture token (16 * i + 8 + c) p.texture (bit p.state 21) (fragValue p cx cy 7) (fragValue p cx cy 8) c) 255 else base
  if bit p.state 25 then rneNat (v * n) 4 else v

/-- A fragment blended into a colour tile's pixel of 8 bits; a sum above 255, which only a colour above its alpha gives, is kept modulo 256 (R21, R415). -/
def blend (mode sa s d : Nat) : Nat :=
  match mode with
  | 1 => min 255 (s + d)
  | 2 => s
  | _ => (s + rneNat (d * (255 - sa)) 255) % 256

/-- One primitive drawn at a pixel: depth and the four channels before and after (R414, R415). -/
def drawPrim (token i : Nat) (h : LayerHead) (p : Prim) (x y : Nat) (d : Nat × List Nat) : Nat × List Nat :=
  let n := ((samplesOf (bit p.state 25) x y).filter (covered h p)).length
  let z := (vtx (p.v 0) 2).toNat
  if n = 0 ∨ depthPasses (bits p.state 29 27) z d.1 = false then d
  else
    let f := (List.range 4).map (fragment token i p x y n)
    (if bit p.state 26 then z else d.1, (List.range 4).map fun c => blend (bits p.state 31 30) (f.getD 3 0) (f.getD c 0) (d.2.getD c 0))

/-- A pixel of a half: every layer in order, its depth cleared first (R413, R415). -/
def renderPixel (token : Nat) (h : Half) (x y : Nat) : List Nat :=
  (h.heads.foldl (fun col hd =>
    let ps := (h.prims.zip (List.range h.prims.length)).filter fun e => e.1.layer == hd.layer
    (ps.foldl (fun d e => drawPrim token ((y * 8192 + x) * 65536 + e.2) hd e.1 x y d) (hd.clear, col)).2) [0, 0, 0, 0])

/-- A bin row of a half, line by line (R413). -/
def renderRow (token : Nat) (h : Half) (r : Nat) : List (List Nat) :=
  (List.range (32 * h.w)).map fun i => renderPixel token h (i % h.w) (32 * r + i / h.w)

/-- A strip takes a row of a frame. -/
def setStrip (k o r : Nat) (h : Half) (s : State) : State :=
  let x := getOverlay s k
  useFree (setOverlay k { x with strips := mapPut x.strips (r % 2) (o, r, renderRow s.free h r) } s)

/-- The half with an identity: current or held. -/
def halfById (x : Overlay) (id : Nat) : Option Half := (x.current.toList ++ x.held.toList).find? fun h => h.id == id

/-! ### Composition (R416) -/

/-- The strip pixel of a line; none where no strip holds the line's row for that frame. -/
def stripPixel (x : Overlay) (o w px y : Nat) : Option (List Nat) :=
  match mapFind x.strips (y / 32 % 2) with
  | some (f, r, ps) => if f = o ∧ r = y / 32 then ps[(y % 32) * w + px]? else none
  | none => none

/-- One sample of a picture with the overlay blended onto it (R416). -/
def blendSample (b c8 a p : Nat) : Nat := min (2 ^ b - 1) (rneNat (c8 * (2 ^ b - 1)) 255 + rneNat (p * (255 - a)) 255)

/-- Channel `c` of a tile pixel; alpha stands for a picture's alpha channel. -/
def tileChan (t : List Nat) (c : Nat) : Nat := t.getD (min c 3) 0

/-- The mean of two tile pixels' channels, rounded half to even. -/
def tileMean (a b : List Nat) : List Nat := (List.range 4).map fun c => rneNat (tileChan a c + tileChan b c) 2

/-- A line's bytes with the overlay's pixels blended on (R416). A tile pixel with nothing in it leaves the bits as they are. -/
def composeLine (code w : Nat) (tile : Nat → List Nat) (line : List Byte) : List Byte :=
  let b := picBits code
  let rd (i : Nat) : Byte := line.getD i 0
  let old (k : Nat) : Nat := lineSample rd 0 b k
  let one (t : List Nat) (c p : Nat) : Nat := if t.all (· == 0) then p else blendSample b (tileChan t c) (tileChan t 3) p
  if pic422 code then
    packBits b ((List.range (w / 2)).flatMap fun j =>
      let t0 := tile (2 * j)
      let t1 := tile (2 * j + 1)
      let m := tileMean t0 t1
      let chroma (c p : Nat) : Nat := if t0.all (· == 0) && t1.all (· == 0) then p else blendSample b (tileChan m c) (tileChan m 3) p
      [chroma 1 (old (4 * j)), one t0 0 (old (4 * j + 1)), chroma 2 (old (4 * j + 2)), one t1 0 (old (4 * j + 3))])
  else packBits b ((List.range w).flatMap fun x => (List.range (picChannels code)).map fun c => one (tile x) c (old (x * picChannels code + c)))

/-- Line `y` of frame `o` as the output path composes it: the picture's bytes with the strip of its row blended on (R416). -/
def composed (s : State) (k o code w y : Nat) (line : List Byte) : List Byte :=
  let x := getOverlay s k
  match stripPixel x o w 0 y with
  | none => line
  | some _ => composeLine code w (fun px => (stripPixel x o w px y).getD [0, 0, 0, 0]) line

end Sys2Proof.Machine
end

