-- ==== Sys2Proof/Machine/Timing.lean ====
section
/-!
DEFINITION. Output timing generators and their references (R382, R532 to R535), the genlock input (R438), and frame boundaries.
-/

namespace Sys2Proof.Machine

/-! ### Generators -/

/-- Units of a generator in one compute cycle. -/
def genUnit (code : Nat) : Nat := 5 * rateHz code

/-- The nominal frame period in a generator's units: 1.4 × 10^9 / F cycles (R532). -/
def nominalPeriod (fractional : Bool) : Nat := 5 * (1400000 * (if fractional then 1001 else 1000))

/-- A phase in ns in a generator's units. -/
def phaseUnits (code phase : Nat) : Nat := 7 * phase * rateHz code

/-- The generator at its enable: boundary j at phase + j periods after cycle number 0, from the first at or after `now` on (R382, R532). -/
def newGen (code : Nat) (fractional : Bool) (phase timing now : Nat) : Gen :=
  let p := nominalPeriod fractional
  let ph := phaseUnits code phase
  let j := if now = 0 ∨ (now - 1) * genUnit code < ph then 0 else ((now - 1) * genUnit code - ph) / p + 1
  { next := 0, exact := ph + j * p, period := p, corr := [], error := 0, holdover := timing != 2, aligned := false }

/-- The generator after a boundary: the next frame's correction applied (R534). -/
def Gen.advance (g : Gen) : Gen :=
  { g with next := g.next + 1, exact := ((g.exact + g.period : Nat) + g.corr.headD 0).toNat, corr := g.corr.drop 1 }

/-- A value between -l and l. -/
def clampSlew (l e : Int) : Int := max (-l) (min l e)

/-- The correction of a frame: at most the slew limit in ppm of the nominal period (R534). -/
def slewed (nominal slew : Nat) (e : Int) : Int := clampSlew ((slew * nominal / 1000000 : Nat) : Int) e

/-- An accepted pulse: n frames to the pulse, its time plus the phase in the generator's units, the slew limit in ppm. A generator that serves nothing takes the first pulse's phase at once; the others spread the error of the aligned frame over n frames (R533, R534). -/
def Gen.pulse (g : Gen) (nominal n target slew : Nat) (serving : Bool) : Gen :=
  let up := g.next + (n - g.next % n) % n
  if !serving && !g.aligned then { g with next := up, exact := target, period := nominal, corr := [], holdover := false, aligned := true }
  else
    let g := { g with period := nominal, corr := [] }
    let err (i : Nat) : Int := (target : Int) - (g.time i : Int)
    let best (a b : Nat) : Nat := if (err b).natAbs < (err a).natAbs then b else a
    let aligned := best up (best (up + n) (if n ≤ up then up - n else up))
    let e := err aligned / (n : Int)
    { g with corr := if e = 0 then [] else List.replicate n (slewed nominal slew e), error := e, holdover := false, aligned := true }

/-- Another slew limit applies to the corrections that are still to come (R544). -/
def Gen.reslew (g : Gen) (nominal slew : Nat) : Gen := { g with corr := g.corr.map fun _ => slewed nominal slew g.error }

/-- Rate code, fractional flag, timing source, slave port and phase of an output: port p is output p, ring r is output 8 + r. -/
def outParams (s : State) (output : Nat) : Nat × Bool × Nat × Nat × Nat :=
  if output < 8 then
    let c := getObj s (oRasterConfig output)
    (bits c 21 18, bit c 17, bits c 29 28, bits c 27 24, getObj s (oRasterPhase output))
  else
    let c := getObj s (oDmaConfig (output - 8))
    (bits c 20 17, bit c 16, bits c 28 27, bits c 26 23, getObj s (oDmaPhase (output - 8)))

/-- The generator of an output. -/
def outGen (s : State) (output : Nat) : Option Gen := if output < 8 then (getPort s output).gen else (getRing s (output - 8)).gen

/-- The generator of an output set. -/
def setOutGen (output : Nat) (g : Gen) (s : State) : State :=
  if output < 8 then setPort output { getPort s output with gen := some g } s else setRing (output - 8) { getRing s (output - 8) with gen := some g } s

/-- A running pass-through path leaves on a port (R488). -/
def pathOut (s : State) (p : Nat) : Option Nat := (List.range 4).find? fun j => getObj s (oPassthruState j) != 0 && getObj s (oPassthruOut j) == p

/-- A running pass-through path enters on a port. -/
def pathIn (s : State) (p : Nat) : Option Nat := (List.range 4).find? fun j => getObj s (oPassthruState j) != 0 && getObj s (oPassthruIn j) == p

/-- An output serves a running stream, a pass-through path, or is an enabled ring (R534). -/
def outServes (s : State) (output : Nat) : Bool := decide (8 ≤ output) || (streamOf s true 1 output).isSome || (pathOut s output).isSome

/-- Outputs that have a generator. -/
def genOutputs (s : State) : List Nat := (List.range 136).filter fun o => (outGen s o).isSome

/-- The reference of a genlocked generator: n frames to each pulse, or none where it cannot be accepted (R533). `period` is timing.genlock_period, in ns. -/
def genlockRatio (code : Nat) (fractional : Bool) (period : Nat) : Option Nat :=
  let f : Rat := mkRat (rateHz code * 1000) (if fractional then 1001 else 1000)
  let x : Rat := f * mkRat period 1000000000
  let n := (roundInt .rne x).toNat
  if 1 ≤ n ∧ n ≤ 5 ∧ (x - (n : Rat)) ≤ mkRat 1 2000 ∧ ((n : Rat) - x) ≤ mkRat 1 2000 then some n else none

/-- A pulse captured at a cycle reaches one generator, n frames of which make its period; with no n it runs free by R532 (R533). -/
def pulseGen (output : Nat) (ratio : Option Nat) (cap : Nat) (s : State) : State :=
  match outGen s output with
  | none => s
  | some g =>
    let (code, frac, _, _, ph) := outParams s output
    match ratio with
    | none => setOutGen output { g with holdover := true, corr := [], period := nominalPeriod frac } s
    | some n => setOutGen output (g.pulse (nominalPeriod frac) n (cap * genUnit code + phaseUnits code ph) (getObj s oClockGenlockSlew) (outServes s output)) s

/-- The frame start of an input port stands in for a pulse for every generator slaved to it (R382, R533). -/
def slavedPulse (port start : Nat) (s : State) : State :=
  (genOutputs s).foldl (fun s o =>
    let (code, frac, tm, sl, _) := outParams s o
    if tm = 1 ∧ sl = port then
      let (ci, fi, _, _, _) := outParams s port
      pulseGen o (if fi = frac ∧ rateHz ci ≠ 0 ∧ rateHz code % rateHz ci = 0 then some (rateHz code / rateHz ci) else none) start s
    else s) s

/-- A write of clock.genlock_slew (R544, R546). -/
def wGenlockSlew (m v : Nat) (s : State) : State × Ack :=
  if v < 10 ∨ 500 < v then (refuse m oClockGenlockSlew 1 v s, .refused 1)
  else
    let s := setObj oClockGenlockSlew v s
    ((genOutputs s).foldl (fun s o =>
      match outGen s o with
      | some g => setOutGen o (g.reslew (nominalPeriod (outParams s o).2.1) v) s
      | none => s) s, .done)

/-- Outputs that correct their phase (clock.outputs_slewing). -/
def countSlewing (s : State) : Nat := ((genOutputs s).filter fun o => match outGen s o with
  | some g => g.corr != []
  | none => false).length

/-- Outputs in holdover or running free for want of a reference (clock.outputs_holdover). -/
def countHoldover (s : State) : Nat := ((genOutputs s).filter fun o => match outGen s o with
  | some g => g.holdover
  | none => false).length

/-! ### The genlock input (R438, R533 to R535) -/

/-- The genlock state set; a change is recorded. -/
def setGenlock (v : Nat) (s : State) : State :=
  if getObj s oTimingGenlockState = v then s
  else
    let s := setObj oTimingGenlockState v s
    capture 0x0508 31 0 v (getObj s oTimingGenlockPeriod) 0 s

/-- GENLOCK_PULSE: an edge leaves its queue. Four pulses whose periods agree within 1 µs lock; while locked, each pulse that agrees is measured by every genlocked generator (R438, R533, R534). -/
def execGenlockPulse (s : State) : Out := whenLive s fun s =>
  let c := s.clk
  let now := ticks s
  match c.pulse with
  | none => setGenlock 1 { s with clk := { c with pulse := some now, pulses := 1, periods := [] } }
  | some p =>
    let per := now - p
    let agrees := match c.periods with
      | q :: _ => decide (per ≤ q + usTicks) && decide (q ≤ per + usTicks)
      | [] => true
    if agrees = false then { s with clk := { c with pulse := some now, pulses := 2, periods := [per] } }
    else
      let s := { s with clk := { c with pulse := some now, pulses := min (c.pulses + 1) 4, periods := (per :: c.periods).take 16 } }
      let s := setObj oTimingGenlockPeriod (per * 5 / 7) s
      if s.clk.pulses < 4 then s
      else
        let s := setGenlock 2 s
        (genOutputs s).foldl (fun s o =>
          let (code, frac, tm, _, _) := outParams s o
          if tm = 0 then pulseGen o (genlockRatio code frac (getObj s oTimingGenlockPeriod)) (cycle s - 37) s else s) s

/-- Mean of a list of ticks. -/
def meanOf (l : List Nat) : Nat := sumNat l / max 1 l.length

/-- GENLOCK_LOSS: two pulses are missing (of the slowest rate, where no period is known yet); genlocked generators hold the mean period of the last 16 accepted pulses (R438, R535). -/
def execGenlockLoss (s : State) : Out := whenLive s fun s =>
  let c := s.clk
  match c.pulse with
  | none => s
  | some p =>
    if ticks s < p + 2 * c.periods.headD 58333334 then s
    else
      let mean := meanOf c.periods
      let s := setGenlock 3 { s with clk := { c with pulse := none, pulses := 0 } }
      (genOutputs s).foldl (fun s o =>
        let (code, frac, tm, _, _) := outParams s o
        match outGen s o with
        | some g =>
          if tm = 0 then
            match genlockRatio code frac (mean * 5 / 7) with
            | some n => setOutGen o { g with holdover := true, corr := [], period := mean * genUnit code / n } s
            | none => setOutGen o { g with holdover := true, corr := [] } s
          else s
        | none => s) s

end Sys2Proof.Machine
end

