-- ==== Sys2Proof/Machine/Raster.lean ====
section
/-!
DEFINITION. Raster ports (R367 to R400, R624): lanes, input segments and their concealment, scan-out, static pictures, embedded audio, and the pass-through paths of R488 and R489.
-/

namespace Sys2Proof.Machine

/-! ### Configuration (R377, R399, R400, R622, R624) -/

/-- A field of raster[p].config. -/
def rasterField (s : State) (p msb lsb : Nat) : Nat := getField s (oRasterConfig p) msb lsb

/-- Active lines and total lines of a port. -/
def portLines (s : State) (p : Nat) : Nat × Nat := (resolution (rasterField s p 23 22)).2

/-- Bytes of an active line of a port. -/
def portLineBytes (s : State) (p : Nat) : Nat := picLine (rasterField s p 16 13) (resolution (rasterField s p 23 22)).1

/-- `n` line slots of a port in compute cycles. -/
def portSpan (s : State) (p n : Nat) : Nat := lineSpan (rasterField s p 21 18) (objBit s (oRasterConfig p) 17) (rasterField s p 23 22) n

/-- One frame period of a port in compute cycles. -/
def portFrame (s : State) (p : Nat) : Nat := span (rasterField s p 21 18) (objBit s (oRasterConfig p) 17) 1

/-- The port is an enabled input. -/
def inputOn (s : State) (p : Nat) : Bool := objBit s (oRasterConfig p) 31 && !(objBit s (oRasterConfig p) 30)

/-- The port is an enabled output. -/
def outputOn (s : State) (p : Nat) : Bool := objBit s (oRasterConfig p) 31 && objBit s (oRasterConfig p) 30

/-- Blocks in a line slot: floor (T_line × Rb), Rb := 4 × 32 × 10^9 / 66 blocks per second (R377). -/
def slotBlocks (code : Nat) (fractional : Bool) (res : Nat) : Nat :=
  128 * 10 ^ 9 * (if fractional then 1001 else 1000) / (66 * rateHz code * 1000 * (resolution res).2.2)

/-- Every active slot holds its line with room to spare (R377). -/
def fitsSlot (code : Nat) (fractional : Bool) (res pic : Nat) : Bool :=
  let b := ceilDiv (picLine pic (resolution res).1) 8
  decide (b + 2 * ceilDiv b 128 + 7 ≤ slotBlocks code fractional res)

/-- A phase of `ns` lies below one frame period (R624). -/
def phaseOk (code : Nat) (fractional : Bool) (ns : Nat) : Bool :=
  ns == 0 || (rateHz code != 0 && decide (ns * rateHz code * 1000 < 10 ^ 9 * (if fractional then 1001 else 1000)))

/-- A running stream or pass-through path binds the port (R397, R488). -/
def portBound (s : State) (p : Nat) : Bool :=
  (streamOf s true 1 p).isSome || (streamOf s false 1 p).isSome

/-- raster[p].status set. -/
def setRasterStatus (p result : Nat) (s : State) : State := setObj (oRasterStatus p) (result * 2 ^ 24) s

/-- The first check that a configuration fails: status result and refusal reason (R377, R397, R399, R400, R622, R624). -/
def configFails (s : State) (p v : Nat) : Option (Nat × Nat) :=
  let code := bits v 21 18
  let frac := bit v 17
  let slave := bits v 27 24
  if portBound s p then some (1, 2)
  else if bits v 29 28 = 3 ∨ rateHz code = 0 ∨ 5 < bits v 16 13 then some (3, 1)
  else if phaseOk code frac (getObj s (oRasterPhase p)) = false then some (3, 1)
  else if bit v 31 = true ∧ getObj s (oRasterState p) = 4 then some (3, 1)
  else if bit v 31 = true ∧ s.clk.aligned = false then some (5, 2)
  else if fitsSlot code frac (bits v 23 22) (bits v 16 13) = false then some (2, 1)
  else if bit v 31 = true ∧ bit v 30 = true ∧ bits v 29 28 = 1 ∧ !(decide (slave < 8) && slave != p && objExists s (0x2500 + 16 * slave) 2 && inputOn s slave) then some (4, 1)
  else none

/-- The line buffer's fill and the urgency level that it gives (R384). -/
def refreshLevel (p : Nat) (s : State) : State :=
  let fill := ((getPort s p).entries.filter fun e => e.st == .filled).length
  let level := if getObj s (oRasterLowWatermark p) ≤ fill then 0 else if getObj s (oRasterCriticalWatermark p) ≤ fill then 1 else 2
  setObj (oRasterLevel p) level (setObj (oRasterFill p) fill s)

/-- The audio mute request stands, or its release is still held (R396). -/
def muteStands (s : State) : Bool := s.io.lands.muteLevel || s.io.lands.muteHold.isSome

/-- audio.mute_state: while a mute stands, the enabled output ports that audio.mute_ports selects (R396). -/
def refreshMute (s : State) : State :=
  setObj oAudioMuteState (if muteStands s then sumNat (((List.range 8).filter fun p => objBit s oAudioMutePorts p && outputOn s p).map (2 ^ ·)) else 0) s

/-- An accepted write of audio.mute_ports (R396). -/
def wMutePorts (value : Nat) (s : State) : State × Ack := (refreshMute (setObj oAudioMutePorts value s), .done)

/-- A configuration in force: the port starts, stops, or starts again (R399). -/
def applyConfig (p v : Nat) (s : State) : State :=
  let was := objBit s (oRasterConfig p) 31
  let s := setRasterStatus p 0 (setObj (oRasterConfig p) v s)
  let on := bit v 31
  let out := bit v 30
  let gen := if on && out then some (newGen (bits v 21 18) (bit v 17) (getObj s (oRasterPhase p)) (bits v 29 28) (cycle s)) else none
  let s := setPort p { Port.init with gen := gen } s
  let s := if on && !was then setObj (oRasterFrames p) 0 (setObj (oRasterHeldFrames p) 0 (setObj (oRasterMinFill p) 16 s)) else s
  let s := setObj (oRasterFill p) 0 (setObj (oRasterLevel p) 0 (setObj (oRasterStaticCount p) 0 (setObj (oRasterVtState p) 0 s)))
  let s := if on && out then refreshLevel p s else s
  let s := refreshMute (setObj (oRasterLanes p) (if on && out then 0x3333 else 0) s)
  if getObj s (oRasterState p) = 4 then s else setObj (oRasterState p) (if on then (if out then 2 else 1) else 0) s

/-- A write of raster[p].config. -/
def wRasterConfig (m p value : Nat) (s : State) : State × Ack :=
  let v := value / 2 ^ 13 * 2 ^ 13
  match configFails s p v with
  | some (st, reason) => (refuse m (oRasterConfig p) reason value (setRasterStatus p st s), .refused reason)
  | none => (applyConfig p v s, .done)

/-- A phase in force: the boundaries of an enabled free-running output lie on the new grid (R382). -/
def applyPhase (output phase : Nat) (s : State) : State :=
  let (code, frac, timing, _, _) := outParams s output
  match outGen s output with
  | some _ => if timing = 2 then setOutGen output (newGen code frac phase 2 (cycle s)) s else s
  | none => s

/-- A write of raster[p].phase (R382, R399, R624). -/
def wRasterPhase (m p value : Nat) (s : State) : State × Ack :=
  if portBound s p then (refuse m (oRasterPhase p) 2 value (setRasterStatus p 1 s), .refused 2)
  else if phaseOk (rasterField s p 21 18) (objBit s (oRasterConfig p) 17) value then
    (applyPhase p value (setRasterStatus p 0 (setObj (oRasterPhase p) value s)), .done)
  else (refuse m (oRasterPhase p) 1 value (setRasterStatus p 3 s), .refused 1)

/-! ### The audio delay line (R391 to R396) -/

/-- The audio of a stream. -/
def getAudio (s : State) (k : Nat) : Audio := mapGet Audio.init s.st.audio k

/-- The audio of a stream set. -/
def setAudio (k : Nat) (x : Audio) (s : State) : State := { s with st := { s.st with audio := mapSet Audio.init s.st.audio k x } }

/-- Words that the streams but one allocate in the delay line (R391). -/
def audioWords (s : State) (but : Nat) : Nat :=
  sumNat (((List.range 128).filter (· != but)).map fun k => getObj s (oAudioChannels k) * getObj s (oAudioDepth k) * 64)

/-- A write of audio[k].channels or audio[k].depth (R391, R393). -/
def wAudio (m k : Nat) (depth : Bool) (value : Nat) (s : State) : State × Ack :=
  let key := if depth then oAudioDepth k else oAudioChannels k
  let c := if depth then getObj s (oAudioChannels k) else value
  let d := if depth then value else getObj s (oAudioDepth k)
  if seqState s k ≠ 0 then (refuse m key 2 value s, .refused 2)
  else if depth = false ∧ (32 < value ∨ value % 2 = 1) then (refuse m key 1 value s, .refused 1)
  else if 4194304 < audioWords s k + c * d * 64 then (refuse m key 1 value s, .refused 1)
  else
    let s := setObj key value s
    (setObj oAudioFreeWords (4194304 - (audioWords s k + c * d * 64)) s, .done)

/-- The cycle of sample `q` after a start. -/
def sampleAt (start q : Nat) : Nat := start + q * 1400000000 / 48000

/-- The drift of the delay line in sets: arrived and adjusted, less 48,000 times the time that has passed (R395). -/
def audioDrift (x : Audio) (instant : Nat) : Int :=
  match x.first with
  | none => 0
  | some t => (x.arrived : Int) + x.adjust - (((instant - t) * 48000 / 1400000000 : Nat) : Int)

/-- One sample set enters the delay line; every 64 sets a drift above 32 sets is worked off by one set (R391, R395). -/
def pushSet (k instant : Nat) (ws : List Word) (s : State) : State :=
  let x := getAudio s k
  let cap := getObj s (oAudioDepth k) * 64
  let x := { x with sets := x.sets ++ [{ instant := instant, words := ws }], first := some (x.first.getD instant), arrived := x.arrived + 1 }
  let d := audioDrift x instant - 1
  let slip := decide (x.arrived % 64 = 0) && decide (32 < d.natAbs)
  let x := if slip = false then x
    else if 0 < d then { x with sets := x.sets.dropLast, adjust := x.adjust - 1 }
    else { x with sets := x.sets ++ [{ instant := instant, words := ws }], adjust := x.adjust + 1 }
  let s := setAudio k { x with sets := x.sets.drop (x.sets.length - cap), lost := x.lost + (x.sets.length - cap) } s
  if slip then addObj (oAudioSlips k) 1 s else s

/-- Bit 24 of a sample word: valid (R374). -/
def validWord (w : Word) : Word := w ||| 0x1000000

/-- A good set: its valid samples are the channels' last good ones; the reserved bits of its words are 0 (R374). -/
def goodSet (k instant : Nat) (sent : List Word) (s : State) : State :=
  let ws := sent.map (· &&& 0x1FFFFFF)
  let s := pushSet k instant ws s
  let x := getAudio s k
  let old := x.lastGood
  setAudio k { x with lastGood := (List.range ws.length).map fun i => if bit ((ws.getD i 0).toNat) 24 then ws.getD i 0 else old.getD i 0 } s

/-- A concealed set repeats each channel's last good sample, with valid set (R380). -/
def concealSet (k instant : Nat) (s : State) : State :=
  let x := getAudio s k
  let ws := (List.range (getObj s (oAudioChannels k))).map fun i => validWord (x.lastGood.getD i 0)
  addObj (oAudioConcealed k) 1 (pushSet k instant ws s)

/-- Sets `q` to `q + n - 1` of a frame concealed. -/
def concealSets (k start q n : Nat) (s : State) : State := (List.range n).foldl (fun s i => concealSet k (sampleAt start (q + i)) s) s

/-- A delayed set goes out before a cycle, its output instant taken to the nearest sample period (R393). -/
def setBefore (lat b : Nat) (x : SampleSet) : Bool := decide (x.instant + lat + 14583 < b)

/-- The delayed sets of a frame from cycle a to b (R376, R393). -/
def setsIn (s : State) (k a b : Nat) : List SampleSet :=
  let lat := (getSeq s k).lat
  (getAudio s k).sets.filter fun x => !setBefore lat a x && setBefore lat b x

/-- Set offsets: each the one whose instant is nearest, and beyond the set before it (R393). -/
def placeSets (lat a : Nat) : Nat → List SampleSet → List (Nat × List Word)
  | _, [] => []
  | from_, x :: xs =>
    let q := max from_ (((x.instant + lat - a) * 48000 + 700000000) / 1400000000)
    (q, x.words) :: placeSets lat a (q + 1) xs

/-- Sample instants of a frame: those of q with D + q / 48,000 s before the next boundary. -/
def setsOfFrame (a b : Nat) : Nat := ceilDiv ((b - a) * 48000) 1400000000

/-- The sets, by their offsets, that a stream sends with a frame from cycle a to b: the delayed ones; zeros with valid clear in silence; none without audio (R376, R392 to R394). -/
def frameSets (s : State) (k a b : Nat) : List (Nat × List Word) :=
  match getObj s (oAudioState k) with
  | 1 => placeSets (getSeq s k).lat a 0 (setsIn s k a b)
  | 2 => (List.range (setsOfFrame a b)).map fun q => (q, List.replicate (getObj s (oAudioChannels k)) 0)
  | _ => []

/-- The sets of a frame from cycle a to b leave the delay line as sent; those before it leave unsent (R398). -/
def takeSets (k a b : Nat) (s : State) : State :=
  let x := getAudio s k
  let lat := (getSeq s k).lat
  let past := (x.sets.filter (setBefore lat a)).length
  let gone := (x.sets.filter (setBefore lat b)).length
  setAudio k { x with sets := x.sets.filter (!setBefore lat b ·), sent := x.sent + (gone - past), lost := x.lost + past } s

/-! ### Mute (R396) -/

/-- A land carries the mute request. -/
def muteLand (s : State) : Bool := (List.range 32).any fun l => landFunction s l == 3

/-- The mute request goes active: the selected output ports mute, counted and recorded; audio frames that begin in this cycle are sent unmuted (R396, R397). -/
def startMute (s : State) : State :=
  let was := getObj s oAudioMuteState
  let fresh := !muteStands s
  let s := { s with now := { s.now with mute := some (s.now.mute.getD was) } }
  let s := refreshMute { s with io := { s.io with lands := { s.io.lands with muteLevel := true, muteHold := none } } }
  if fresh = true ∧ getObj s oAudioMuteState ≠ 0 then capture 0x0504 31 0 (getObj s oAudioMuteState) 0 0 (addObj oAudioMuteEvents 1 s) else s

/-- The mute request is released: the hold of audio.mute_hold starts. -/
def releaseMute (s : State) : State :=
  if s.io.lands.muteLevel then
    { s with io := { s.io with lands := { s.io.lands with muteLevel := false, muteHold := some (ticks s + getObj s oAudioMuteHold * 1000 * usTicks) } } }
  else s

/-- MUTE_REQUEST. -/
def execMuteRequest (s : State) : Out := whenLive s fun s => if muteLand s = true ∧ s.io.lands.muteLevel = false then startMute s else s

/-- MUTE_RELEASE. -/
def execMuteRelease (s : State) : Out := whenLive s fun s => if muteLand s then releaseMute s else s

/-- MUTE_HOLD_EXPIRY: the ports unmute at the next audio frame boundary. -/
def execMuteHoldExpiry (s : State) : Out := whenLive s fun s =>
  match s.io.lands.muteHold with
  | some t =>
    if t ≤ ticks s then refreshMute { s with io := { s.io with lands := { s.io.lands with muteHold := none } } } else s
  | none => s

/-! ### Segments (R372 to R374) -/

/-- A segment header block: eof, eol and sof are bits 2, 1 and 0 of `flags` (R372). -/
def headerBlock (frame flags blocks offset line kind : Nat) : Nat :=
  (frame % 65536) * 2 ^ 48 + (flags % 8) * 2 ^ 45 + ((blocks - 1) % 128) * 2 ^ 38 + (offset % 8192) * 2 ^ 25 + (line % 8192) * 2 ^ 12 + (kind % 16) * 2 ^ 8 + 0x78

/-- Bytes padded with zeros to whole blocks. -/
def padBlocks (bs : List Byte) : List Byte := bs ++ List.replicate ((8 - bs.length % 8) % 8) 0

/-- Bytes cut into pieces of at most `n`. -/
def cutBytes (n : Nat) : Nat → List Byte → List (List Byte)
  | 0, _ => []
  | f + 1, bs => if bs = [] then [] else bs.take n :: cutBytes n f (bs.drop n)

/-- The segments of data that starts at block offset 0: pieces of 128 blocks; the last carries `last`. -/
def cutSegments (slot frame line kind last : Nat) (bs : List Byte) : List Segment :=
  let ps := cutBytes 1024 (bs.length / 1024 + 1) (padBlocks bs)
  (ps.zip (List.range ps.length)).map fun e =>
    { slot := slot, header := headerBlock frame (if e.2 + 1 = ps.length then last else 0) (e.1.length / 8) (128 * e.2) line kind, bytes := e.1 }

/-- A segment leaves a port. -/
def sendSegment (p : Nat) (x : Segment) (s : State) : State := emit (.segment p x.slot [x.header] x.bytes) s

/-- Segments leave a port in order. -/
def sendSegments (p : Nat) (xs : List Segment) (s : State) : State := xs.foldl (fun s x => sendSegment p x s) s

/-- Kind of a segment. -/
def segKind (x : Segment) : Nat := bits x.header 11 8

/-- Audio data muted: every sample 0 with valid set (R396). -/
def mutedBytes (bs : List Byte) : List Byte := (List.range (bs.length / 4)).flatMap fun _ => leBytes 4 0x1000000

/-- The header payload of a received segment (R372). -/
def segmentHeader (seg : SegmentData) : Nat := headerBlock seg.frame seg.flags (ceilDiv seg.bytes.length 8) seg.offset seg.line seg.kind

/-- The crc of a received segment agrees with the CRC-32C of its header and its data blocks (R373). -/
def crcGood (seg : SegmentData) : Bool := seg.crc == crc32c (leBytes 8 (segmentHeader seg) ++ padBlocks seg.bytes)

/-! ### Writing pictures into a region -/

/-- One page of a region written in place; an unmapped page is given a slot of zeros first. A page that lies beyond the span, for which the reserve has no room, or that finds no slot is not written (R202, R206). -/
def writeRegionPage (p q off : Nat) (bs : List Byte) (s : State) : State :=
  match slotNow s p q with
  | some k =>
    let c := getC s k
    setC k { c with page := pageWrite c.page off bs } s
  | none =>
    if getObj s (oRegionSpan p) ≤ q ∨ moveRoom s p false = false then s else
    match placeSlot s p 0 q with
    | none => s
    | some k =>
      let s := setC k { CSlot.init with st := .mapped, part := p, rpage := q, page := pageWrite Page.zero off bs } s
      let s := pushVersion p q (some k) none s
      { s with ci := { s.ci with serial := s.ci.serial + 1 } }

/-- Bytes written into a region from an offset on. -/
def writeRegion (p off : Nat) (bs : List Byte) (s : State) : State :=
  (cutPages none (bs.length / 65536 + 2) off bs).foldl (fun s w => writeRegionPage p w.page w.off w.bytes s) s

/-! ### Pass-through paths (R488, R489) -/

/-- A path of the state. -/
def getPath (s : State) (j : Nat) : Path := mapGet Path.init s.io.paths j

/-- A path set. -/
def setPath (j : Nat) (x : Path) (s : State) : State := { s with io := { s.io with paths := mapSet Path.init s.io.paths j x } }

/-- The line slot of an input port in which the present cycle lies. -/
def inputSlot (s : State) (p : Nat) : Nat :=
  let one := portSpan s p 1
  ((cycle s - (getPort s p).lastStart) / max 1 one) % (portLines s p).2

/-- Bytes of a line with some replaced from a position on. -/
def putBytes (line : List Byte) (at_ : Nat) (bs : List Byte) : List Byte :=
  (line ++ List.replicate (at_ - line.length) 0).take at_ ++ bs ++ line.drop (at_ + bs.length)

/-- A path takes a segment that its input received, or one that stands in for it. -/
def pathTake (port : Nat) (header : Nat) (bs : List Byte) (s : State) : State :=
  match pathIn s port with
  | none => s
  | some j =>
    let x := getPath s j
    let off := bits header 37 25
    let x := match bits header 11 8 with
      | 0 => if off = 0 then { x with prev := x.cur, cur := bs } else { x with cur := putBytes x.cur (8 * off) bs }
      | 2 => { x with last := bs }
      | _ => x
    setPath j { x with segs := x.segs ++ [{ slot := inputSlot s port, header := header, bytes := bs }] } s

/-- What a path sends for a concealed video range: the same bytes of the line before, zeros for line 0 (R489). -/
def pathVideo (s : State) (port line off blocks : Nat) : List Byte :=
  match pathIn s port with
  | none => []
  | some j =>
    let x := getPath s j
    let src := if off = 0 then x.cur else x.prev
    (List.range (8 * blocks)).map fun i => if line = 0 then 0 else src.getD (8 * off + i) 0

/-! ### Input frames (R379 to R381) -/

/-- The sequencers that name a port as their input. -/
def inputStreams (s : State) (p : Nat) : List Nat := (List.range 128).filter fun k => getObj s (oSeqInput k) / 4096 == 1 && getObj s (oSeqInput k) % 256 == p

/-- Frame m of a stream stands in its ring. -/
def inRing (s : State) (k m : Nat) : Bool := (getSeq s k).ring.any fun f => f.m == m

/-- Bytes of a line written into the ring of every stream that takes the frame; beyond the line's end nothing is written. -/
def storeVideo (port : Nat) (targets : List (Nat × Nat)) (line off : Nat) (bs : List Byte) (s : State) : State :=
  let n := portLineBytes s port - 8 * off
  targets.foldl (fun s e =>
    match sourcePicture s e.1 e.2 with
    | some pic => writeRegion pic.part (pic.offset + line * pic.stride + 8 * off) (bs.take n) s
    | none => s) s

/-- A concealed range takes the same bytes of the same line of source frame m - 1; zeros in the first frame after a start, and where the ring holds no frame m - 1 (R380). -/
def concealVideo (targets : List (Nat × Nat)) (line off blocks lineBytes : Nat) (s : State) : State :=
  let n := min (8 * blocks) (lineBytes - 8 * off)
  targets.foldl (fun s e =>
    match sourcePicture s e.1 e.2, sourcePicture s e.1 (e.2 - 1) with
    | some pic, some old =>
      let bs := if e.2 ≠ 0 ∧ seqState s e.1 ≠ 1 ∧ inRing s e.1 (e.2 - 1) = true
        then readBytes (regionByte s old.part s.ci.serial) (old.offset + line * old.stride + 8 * off) n else List.replicate n 0
      writeRegion pic.part (pic.offset + line * pic.stride + 8 * off) bs s
    | _, _ => s) s

/-- The segment ranges of a frame from (line, offset) up to another place, 128 blocks at most each. -/
def missingRanges (blocks : Nat) : Nat → Nat → Nat → Nat → Nat → List (Nat × Nat × Nat)
  | 0, _, _, _, _ => []
  | f + 1, l, o, l1, o1 =>
    if l1 < l ∨ (l = l1 ∧ o1 ≤ o) then []
    else
      let stop := if l = l1 then min o1 blocks else blocks
      let n := min 128 (stop - o)
      if o + n < blocks then (l, o, n) :: missingRanges blocks f l (o + n) l1 o1 else (l, o, n) :: missingRanges blocks f (l + 1) 0 l1 o1

/-- The flags of a video segment: eol on a line's last, eof on the frame's last. -/
def videoFlags (blocks lines line off n : Nat) : Nat := (if off + n < blocks then 0 else 2) + (if off + n < blocks ∨ line + 1 < lines then 0 else 4)

/-- One range concealed, counted, and passed to a path. -/
def concealRange (port : Nat) (r : Nat × Nat × Nat) (s : State) : State :=
  let x := getPort s port
  match x.inFrame with
  | none => s
  | some f =>
    let lb := portLineBytes s port
    let va := (portLines s port).1
    let hdr := headerBlock f.counter (videoFlags (ceilDiv lb 8) va r.1 r.2.1 r.2.2) r.2.2 r.2.1 r.1 0
    let s := pathTake port hdr (pathVideo s port r.1 r.2.1 r.2.2) s
    let s := concealVideo f.targets r.1 r.2.1 r.2.2 lb s
    addObj (oRasterConcealed port) 1 (setPort port { getPort s port with inFrame := some { f with concealed := f.concealed + 1 } } s)

/-- The place after a range. -/
def afterRange (blocks : Nat) (line off n : Nat) : Nat × Nat := if off + n < blocks then (line, off + n) else (line + 1, 0)

/-- Everything from the place expected up to another is concealed, and that place is expected next. -/
def concealTo (port line off : Nat) (s : State) : State :=
  match (getPort s port).inFrame with
  | none => s
  | some f =>
    let blocks := ceilDiv (portLineBytes s port) 8
    let s := (missingRanges blocks ((line + 1 - f.line) * (blocks / 128 + 2)) f.line f.off line off).foldl (fun s r => concealRange port r s) s
    match (getPort s port).inFrame with
    | some f => setPort port { getPort s port with inFrame := some { f with line := line, off := off } } s
    | none => s

/-- A frame is complete: recorded when it holds concealment, failed when it holds too much, else given to its streams (R380, R381). -/
def finishFrame (port : Nat) (s : State) : State :=
  match (getPort s port).inFrame with
  | none => s
  | some f =>
    let s := setPort port { getPort s port with inFrame := none } s
    let s := addObj (oRasterFrames port) 1 s
    let s := if f.concealed = 0 then s else capture 0x0501 31 port f.counter f.concealed f.crcs s
    if getObj s (oRasterConcealLimit port) < f.concealed then
      capture 0x0502 31 port f.counter f.concealed 0 (addObj (oRasterFramesFailed port) 1 s)
    else f.targets.foldl (fun s e => sourceFrame e.1 f.start f.anc s) s

/-- The frame finishes once its last line is there. -/
def frameDone (port : Nat) (s : State) : State :=
  match (getPort s port).inFrame with
  | some f => if (portLines s port).1 ≤ f.line then finishFrame port s else s
  | none => s

/-- Counters of raster[p] for a concealed segment (R380). -/
def countSegment (port : Nat) (crc : Bool) (s : State) : State :=
  let s := addObj (oRasterConcealed port) 1 s
  if crc then addObj (oRasterCrcErrors port) 1 s else s

/-- A concealed segment of the next input frame: audio and ancillary data travel in the blanking before it, and its timing segment begins it (R376, R380). -/
def countNext (port : Nat) (crc : Bool) (s : State) : State :=
  let s := countSegment port crc s
  let x := getPort s port
  setPort port { x with nextConcealed := x.nextConcealed + 1, nextCrcs := x.nextCrcs + b2n crc } s

/-- A concealed segment of no place in the picture, counted with the frame in progress, or else with the next one. -/
def countConcealed (port : Nat) (crc : Bool) (s : State) : State :=
  match (getPort s port).inFrame with
  | some f =>
    let s := countSegment port crc s
    setPort port { getPort s port with inFrame := some { f with concealed := f.concealed + 1, crcs := f.crcs + b2n crc } } s
  | none => countNext port crc s

/-- Sets still missing at the end of a frame's blanking are concealed for every stream with audio, as one segment that is missing (R380, R392). -/
def concealMissing (port start n : Nat) (s : State) : State :=
  let got := (getPort s port).nextSets
  let ks := (inputStreams s port).filter fun k => getObj s (oAudioState k) == 1
  if ks = [] ∨ n ≤ got then s
  else ks.foldl (fun s k => concealSets k start got (n - got) s) (countNext port false s)

/-- A frame starts at an input port: what is missing of the one before is concealed, missing audio too, and slaved outputs take the start as their pulse (R379, R380, R382). -/
def startFrame (port counter sets : Nat) (s : State) : State :=
  let s := frameDone port (concealTo port (portLines s port).1 0 s)
  let now := cycle s
  let s := concealMissing port now sets s
  let x := getPort s port
  let f : InFrame :=
    { counter := counter % 2 ^ 32, targets := (inputStreams s port).map fun k => (k, arrivingFrame s k now), start := now, line := 0, off := 0,
      concealed := x.nextConcealed, crcs := x.nextCrcs, anc := x.nextAnc }
  let s := setPort port { x with inFrame := some f, lastStart := now, lastCounter := counter % 2 ^ 32, nextAnc := [], nextSets := 0,
                                 nextConcealed := 0, nextCrcs := 0, timingBad := false } s
  slavedPulse port now s

/-- A crc failure of a video segment, counted beside its concealment. -/
def countCrc (port : Nat) (s : State) : State :=
  let s := addObj (oRasterCrcErrors port) 1 s
  let x := getPort s port
  match x.inFrame with
  | some f => setPort port { x with inFrame := some { f with crcs := f.crcs + 1 } } s
  | none => s

/-- A video segment: stored, or concealed; missing ones before it are concealed first (R374, R380). A bad one that does not stand at the place expected counts its crc failure alone: its own place is concealed, and counted, as missing. -/
def takeVideo (port : Nat) (good : Bool) (seg : SegmentData) (s : State) : State :=
  match (getPort s port).inFrame with
  | none => if good then s else countConcealed port (!crcGood seg) s
  | some f =>
    let blocks := ceilDiv (portLineBytes s port) 8
    let n := ceilDiv seg.bytes.length 8
    if good then
      if seg.line < f.line ∨ (seg.line = f.line ∧ seg.offset < f.off) ∨ (portLines s port).1 ≤ seg.line ∨ blocks ≤ seg.offset then s
      else
        let s := concealTo port seg.line seg.offset s
        let s := pathTake port (headerBlock seg.frame seg.flags n seg.offset seg.line 0) (padBlocks seg.bytes) s
        let s := storeVideo port f.targets seg.line seg.offset seg.bytes s
        let a := afterRange blocks seg.line seg.offset n
        match (getPort s port).inFrame with
        | some f => frameDone port (setPort port { getPort s port with inFrame := some { f with line := a.1, off := a.2 } } s)
        | none => s
    else
      let s := if crcGood seg then s else countCrc port s
      if seg.line = f.line ∧ seg.offset = f.off ∧ n ≠ 0 then
        let a := afterRange blocks seg.line seg.offset n
        let s := concealRange port (seg.line, seg.offset, n) s
        match (getPort s port).inFrame with
        | some f => frameDone port (setPort port { getPort s port with inFrame := some { f with line := a.1, off := a.2 } } s)
        | none => s
      else s

/-- An ancillary segment for the next frame: stored by its offset up to 16 KiB, or dropped (R374, R379, R380). -/
def takeAncillary (port : Nat) (good : Bool) (seg : SegmentData) (s : State) : State :=
  if good then
    let s := pathTake port (headerBlock seg.frame seg.flags (ceilDiv seg.bytes.length 8) seg.offset 0 1) (padBlocks seg.bytes) s
    let x := getPort s port
    setPort port { x with nextAnc := (putBytes x.nextAnc (8 * seg.offset) seg.bytes).take 16384 } s
  else countNext port (!crcGood seg) s

/-- The words of audio data. -/
def audioWordsOf (bs : List Byte) : List Word := (List.range (bs.length / 4)).map fun i => BitVec.ofNat 32 (natAt bs (4 * i) 4)

/-- Whole sets of `c` words in audio data, less at most one word of padding; none where they do not come out even (R392). -/
def wholeSets (c n : Nat) : Option Nat := if n % (4 * c) = 0 then some (n / (4 * c)) else if 4 ≤ n ∧ (n - 4) % (4 * c) = 0 then some ((n - 4) / (4 * c)) else none

/-- An audio segment for the next frame (R374, R380, R392): its sets go to the delay line of every running stream of the port with audio, repeated samples where it is concealed. -/
def takeAudio (port : Nat) (good : Bool) (seg : SegmentData) (s : State) : State :=
  let x := getPort s port
  let start := x.lastStart + portFrame s port
  let n := seg.bytes.length
  let hdr := headerBlock seg.frame seg.flags (ceilDiv n 8) seg.offset 0 2
  let s := match pathIn s port with
    | some j => if good then pathTake port hdr (padBlocks seg.bytes) s
        else pathTake port hdr ((audioWordsOf (putBytes (getPath s j).last n []) |>.take (n / 4)).flatMap fun w => leBytes 4 (validWord w).toNat) s
    | none => s
  let ks := (inputStreams s port).filter fun k => seqState s k != 0 && getObj s (oAudioChannels k) != 0
  match ks with
  | [] => if good then s else countNext port (!crcGood seg) s
  | k0 :: _ =>
    let sets (k : Nat) : Option Nat := if good && seg.offset == x.nextSets then wholeSets (getObj s (oAudioChannels k)) n else none
    let got := match sets k0 with
      | some m => m
      | none => n / (4 * getObj s (oAudioChannels k0))
    let s := ks.foldl (fun s k =>
      let c := getObj s (oAudioChannels k)
      match sets k with
      | some m => (List.range m).foldl (fun s i => goodSet k (sampleAt start (x.nextSets + i)) ((List.range c).map fun j => (audioWordsOf seg.bytes).getD (i * c + j) 0) s) s
      | none => concealSets k start x.nextSets (n / (4 * c)) s) s
    let s := setPort port { getPort s port with nextSets := x.nextSets + got } s
    if (sets k0).isSome then s else countNext port (!crcGood seg) s

/-- A timing segment with sof set starts its frame, and without sof starts none (R374, R379); a bad one is counted, and the slot grid starts the frame (R380). -/
def takeTiming (port : Nat) (good : Bool) (seg : SegmentData) (s : State) : State :=
  if good then
    let s := if bit seg.flags 0 then startFrame port (natAt seg.bytes 0 4) (bits (natAt seg.bytes 0 8) 59 48) s else s
    pathTake port (segmentHeader seg) (padBlocks seg.bytes) s
  else
    let s := countNext port (!crcGood seg) s
    setPort port { getPort s port with timingBad := true } s

/-- INPUT_SEGMENT: an input port receives a whole segment (R373, R379, R380). A crc failure, an invalid header or a lost block within it, or a lane without lock makes it a concealed one; a reserved kind is refused and counted so. -/
def execInputSegment (port _lane : Nat) (seg : SegmentData) (s : State) : Out := whenLive s fun s =>
  if inputOn s port = true ∧ (getObj s (oRasterState port) = 2 ∨ getObj s (oRasterState port) = 3) then
    let good := crcGood seg && !seg.damaged && getObj s (oRasterState port) == 2
    match seg.kind with
    | 0 => takeVideo port good seg s
    | 1 => takeAncillary port good seg s
    | 2 => takeAudio port good seg s
    | 3 => takeTiming port good seg s
    | _ => countConcealed port (!crcGood seg) s
  else s

/-- INPUT_SLOT_GRID_FRAME_START: the timing segment is lost; the frame starts on the port's own slot grid, with the counter that follows (R380). -/
def execInputSlotGridFrameStart (port : Nat) (s : State) : Out := whenLive s fun s =>
  let x := getPort s port
  if inputOn s port = true ∧ 2 ≤ getObj s (oRasterState port) ∧ x.lastStart ≠ 0 ∧ x.lastStart + portFrame s port ≤ cycle s then
    let counter := (x.lastCounter + 1) % 2 ^ 32
    let s := if x.timingBad then s else countNext port false s
    let s := startFrame port counter (setsOfFrame 0 (portFrame s port)) s
    pathTake port (headerBlock counter 1 1 0 0 3) (leBytes 8 counter) s
  else s

/-! ### Lanes (R370) -/

/-- State of a lane. -/
def laneState (s : State) (p l : Nat) : Nat := getField s (oRasterLanes p) (4 * l + 3) (4 * l)

/-- LANE_BLOCK_LOCK: an input lane gains block lock and shows an alignment sequence; with lock on all four and equal sequences the port is aligned and up (R369, R370). -/
def execLaneBlockLock (port lane seq : Nat) (s : State) : Out := whenLive s fun s =>
  if inputOn s port = true ∧ getObj s (oRasterState port) ≠ 4 ∧ lane < 4 then
    let x := getPort s port
    let x := { x with alignSeq := x.alignSeq.set lane (seq % 65536) }
    let s := setPort port x s
    let s := if laneState s port lane = 3 then s else setField (oRasterLanes port) (4 * lane + 3) (4 * lane) 1 s
    let locked := (List.range 4).all fun l => laneState s port l == 1 || laneState s port l == 2 || laneState s port l == 3
    if locked && x.alignSeq.all (· == x.alignSeq.headD 0) then setObj (oRasterState port) 2 (setObj (oRasterLanes port) 0x3333 s) else s
  else s

/-- LANE_LOCK_LOSS: a lane loses lock (R370). -/
def execLaneLockLoss (port lane : Nat) (s : State) : Out := whenLive s fun s =>
  if inputOn s port = true ∧ lane < 4 ∧ 1 ≤ laneState s port lane ∧ laneState s port lane ≤ 3 then
    let s := addObj (oRasterLockLosses port) 1 (setField (oRasterLanes port) (4 * lane + 3) (4 * lane) 4 s)
    if getObj s (oRasterState port) = 2 then setObj (oRasterState port) 3 s else s
  else s

/-! ### Scan-out (R383 to R390) -/

/-- Bytes of a line of a presented picture, as its read epoch sees them. -/
def pictureLine (s : State) (pr : Present) (line n : Nat) : List Byte := readBytes (regionByte s pr.pic.part pr.serial) (pr.pic.offset + line * pr.pic.stride) n

/-- The entries of a fetch begun for a line. -/
def addEntry (x : Port) (line : Nat) : Port := { x with entries := x.entries ++ [{ line := line, st := .fetching, bytes := [] }], nextFetch := line + 1 }

/-- LINE_FETCH: the engine starts the fetch of its next line into a free entry: of the frame being sent, else of the next present from 16 line slots before its D on (R383). -/
def execLineFetch (port : Nat) (s : State) : Out := whenLive s fun s =>
  let x := getPort s port
  let va := (portLines s port).1
  if outputOn s port = false ∨ 16 ≤ x.entries.length then s
  else if x.current.isSome ∧ x.loading.isNone ∧ x.held = false ∧ x.nextFetch < va then
    if x.nextFetch < x.slotLine + 16 then setPort port (addEntry x x.nextFetch) s else s
  else match x.loading, x.waiting with
    | some _, _ => if x.nextFetch < va ∧ x.nextFetch < 16 then setPort port (addEntry x x.nextFetch) s else s
    | none, pr :: rest => if pr.d ≤ cycle s + portSpan s port 16 then setPort port (addEntry { x with loading := some pr, waiting := rest } 0) s else s
    | none, [] => s

/-- A present's read epoch is closed. -/
def Present.closed (pr : Present) : Present := { pr with reading := false }

/-- LINE_FETCH_COMPLETE: a line stands in its entry; after the last line the epoch is closed (R383, R385). -/
def execLineFetchComplete (port line : Nat) (s : State) : Out := whenLive s fun s =>
  let x := getPort s port
  let source := if x.loading.isSome then x.loading else x.current
  match source with
  | none => s
  | some pr =>
    if (x.entries.any fun e => e.line == line && e.st == .fetching) then
      let bs := pictureLine s pr line (portLineBytes s port)
      let late := x.loading.isNone && decide (line < x.slotLine)
      let es := if late then x.entries.filter fun e => !(e.line == line && e.st == .fetching)
        else x.entries.map fun e => if e.line = line ∧ e.st = .fetching then { e with st := .filled, bytes := bs } else e
      let x := { x with entries := es }
      let last := decide ((portLines s port).1 ≤ line + 1)
      let x := if last then (if x.loading.isSome then { x with loading := x.loading.map Present.closed } else { x with current := x.current.map Present.closed }) else x
      refreshLevel port (setPort port x s)
    else s

/-- Variable timing is declared and enabled (R389). -/
def vtOn (s : State) (p : Nat) : Bool := getObj s (oRasterVtDeclared p) == 1 && getObj s (oRasterVtEnable p) == 1

/-- STATIC_COMPARE_COMPLETE: the compare of the next presented picture with the one last sent in full ends before its D (R389). -/
def execStaticCompareComplete (port : Nat) (s : State) : Out := whenLive s fun s =>
  let x := getPort s port
  match (x.loading.toList ++ x.waiting).head?, x.lastFull with
  | some pr, some old =>
    if vtOn s port = true ∧ cycle s < pr.d then
      let n := portLineBytes s port
      let same := (List.range (portLines s port).1).all fun l => pictureLine s pr l n == pictureLine s old l n
      setPort port { x with equalFor := if same then some pr.o else none } s
    else s
  | _, _ => s

/-- k of R390: full pictures go out at least every k frames. -/
def refreshFrames (s : State) (p : Nat) : Nat :=
  max 1 (rateHz (rasterField s p 21 18) * 1000 / ((if objBit s (oRasterConfig p) 17 then 1001 else 1000) * max 1 (getObj s (oRasterRefreshFloor p))))

/-- The stream's next output frame has come, when this boundary is its: a new chunk period begins (R288). -/
def noteBoundary (k idx : Nat) (s : State) : State :=
  updSeq k (fun x =>
    let x := { x with chunksThis := 0 }
    if 2 ≤ seqState s k ∧ x.nBase + x.oNext = idx + x.oBase then { x with oNext := x.oNext + 1 } else x) s

/-- The present whose D is the boundary at `d`, to within half a frame. -/
def presentAt (s : State) (p d : Nat) : Option Present :=
  let x := getPort s p
  let half := portFrame s p / 2
  (x.loading.toList ++ x.waiting).find? fun pr => decide (pr.d < d + half) && decide (d < pr.d + half)

/-- What R389 and R390 make of a port's frame, by its present: the count of equal frames, whether the port is lowered, and whether the frame is held. Frames of different overlay halves are unequal (R418). -/
def staticJudge (s : State) (p : Nat) (pr : Option Present) : Nat × Bool × Bool :=
  let x := getPort s p
  let isEqual := match pr, x.lastFull with
    | some a, some b => vtOn s p && x.equalFor == some a.o && a.half == b.half && !a.late
    | _, _ => false
  let count := if isEqual then min 65535 (getObj s (oRasterStaticCount p) + 1) else 0
  let lowered := isEqual && (getObj s (oRasterVtState p) == 1 || decide (getObj s (oRasterStaticFrames p) ≤ count))
  (count, lowered, lowered && decide (x.sinceFull + 1 < refreshFrames s p))

/-- The strips that hold rows of a frame are free again (R417, R418). -/
def freeStrips (k o : Nat) (s : State) : State :=
  let x := getOverlay s k
  setOverlay k { x with strips := x.strips.filter fun e => e.2.1 != o } s

/-- A frame begins on a port: equal frames are counted and held (R389, R390), a held one renders nothing (R418), and the frame pulse of GPIO function 0x5 rises (R440). -/
def beginFrame (p d : Nat) (s : State) : State :=
  let x := getPort s p
  let pr := (presentAt s p d).map (attachHalf s)
  let vt := vtOn s p
  let (count, lowered, held) := staticJudge s p pr
  let fromLoading := match x.loading, pr with
    | some a, some b => a.o == b.o && a.k == b.k
    | _, _ => false
  let rest := match pr with
    | some a => x.waiting.filter fun b => decide (a.d < b.d)
    | none => x.waiting
  let x1 := { x with
    current := pr.map fun a => if held then a.closed else if fromLoading then { a with reading := (x.loading.map (·.reading)).getD true } else a
    loading := none, waiting := rest, held := held, slotLine := 0, start := d, equalFor := none, underrunThis := false, audioNo := 0,
    entries := if fromLoading && !held then x.entries.filter fun e => e.st != .sending else [],
    nextFetch := if held then (portLines s p).1 else if fromLoading then x.nextFetch else 0,
    sinceFull := if held then x.sinceFull + 1 else 0,
    lastFull := if held then x.lastFull else if vt then pr else none }
  let s := setPort p x1 s
  let s := setObj (oRasterStaticCount p) count (setObj (oRasterVtState p) (b2n lowered) s)
  let s := match pr with
    | some a => if held then freeStrips a.k a.o (addObj (oRasterHeldFrames p) 1 s) else s
    | none => s
  let sends := pr.isSome || (streamOf s true 1 p).isSome || (pathOut s p).isSome
  let s := refreshLevel p (if sends then addObj (oRasterFrames p) 1 s else s)
  if getObj s oGpioPulsePort = p then refreshPins { s with io := { s.io with lands := { s.io.lands with pulseEnd := some (ticks s + usTicks) } } } else s

/-- A stopping path ends at the output's next frame boundary (R488). -/
def stopPaths (p : Nat) (s : State) : State :=
  match pathOut s p with
  | some j => if getObj s (oPassthruState j) = 2 then setPath j Path.init (setObj (oPassthruState j) 0 s) else s
  | none => s

/-- OUTPUT_FRAME_BOUNDARY: a timing generator reaches its next boundary (R376, R532). Ports are outputs 0 to 7, ring r is output 8 + r. -/
def execOutputFrameBoundary (output : Nat) (s : State) : Out := whenLive s fun s =>
  match outGen s output with
  | none => s
  | some g =>
    let (code, _, _, _, _) := outParams s output
    let d := genAt (rateHz code) g g.next
    if cycle s < d then s
    else
      let s := setOutGen output g.advance s
      if output < 8 then
        let s := match streamOf s true 1 output with
          | some k => noteBoundary k g.next s
          | none => s
        beginFrame output d (stopPaths output s)
      else
        match streamOf s true 2 (output - 8) with
        | some k => noteBoundary k g.next s
        | none => s

/-- D of output frame o of a stream on a port: its present's, or the stream's own. -/
def portD (s : State) (p k o : Nat) : Nat :=
  let x := getPort s p
  match (x.current.toList ++ x.loading.toList ++ x.waiting).find? fun pr => pr.k == k && pr.o == o with
  | some pr => pr.d
  | none => dOf s k o

/-- Frame o of a port is held: as decided at its D, or before it as far as the compare has come (R418). -/
def frameHeld (s : State) (p k o : Nat) : Bool :=
  let x := getPort s p
  match x.current with
  | some pr => if pr.k = k ∧ pr.o = o then x.held else (staticJudge s p ((presentAt s p (portD s p k o)).map (attachHalf s))).2.2
  | none => (staticJudge s p ((presentAt s p (portD s p k o)).map (attachHalf s))).2.2

/-- BIN_ROW_RENDER: a row is rendered into its strip: for a raster port from D(o) + (r - 1) × 32 line slots on; for a ring when its path is ready for the band and the strip is free; a held frame renders nothing (R410, R413, R417, R418). -/
def execBinRowRender (k row : Nat) (s : State) : Out := whenLive s fun s =>
  let x := getOverlay s k
  let out := getObj s (oSeqOutput k)
  if out / 4096 = 1 then
    match x.frame, x.current with
    | some o, some h =>
      if 32 * row < h.h ∧ portD s (out % 256) k o + outLines s k (32 * row) ≤ cycle s + outLines s k 32 ∧ frameHeld s (out % 256) k o = false then setStrip k o row h s else s
    | _, _ => s
  else
    match (getRing s (out % 256)).frames with
    | f :: _ =>
      match f.present.half with
      | none => s
      | some id =>
        match halfById x id with
        | none => s
        | some h =>
          if f.present.k = k ∧ f.band = row ∧ (mapFind x.strips (row % 2)).isNone ∧ f.d + outLines s k (32 * row) ≤ cycle s + outLines s k 32
          then setStrip k f.present.o row h s else s
    | [] => s

/-! ### Line slots (R374, R376, R388) -/

/-- The timing segment of a frame (R374). -/
def timingSegment (s : State) (p : Nat) (x : Port) : Segment :=
  let o := match x.current with
    | some pr => pr.o
    | none => getObj s (oRasterFrames p) - 1
  let flag (f : Present → Bool) : Nat := match x.current with
    | some pr => b2n (f pr)
    | none => 0
  let v := o % 2 ^ 32 + b2n x.held * 2 ^ 32 + getObj s (oRasterVtState p) * 2 ^ 33 + flag (·.fallback) * 2 ^ 34 + flag (·.late) * 2 ^ 35 +
    b2n (objBit s oAudioMuteState p) * 2 ^ 36 + (x.setsNext % 4096) * 2 ^ 48
  { slot := 0, header := headerBlock o 1 1 0 0 3, bytes := leBytes 8 v }

/-- An active line is sent: the line of its entry with the overlay blended on, or on an underrun the line sent last under this number (R388, R416). -/
def sendLine (p j : Nat) (pr : Present) (s : State) : State :=
  let x := getPort s p
  let va := (portLines s p).1
  let lb := portLineBytes s p
  let flags := if j + 1 < va then 2 else 6
  let x : Port := { x with entries := x.entries.filter fun (e : LineEntry) => e.st != .sending && (decide (j ≤ e.line) || e.st == .fetching) }
  match x.entries.find? fun e => e.line == j && e.st == .filled with
  | some e =>
    let bs := composed s pr.k pr.o (rasterField s p 16 13) (resolution (rasterField s p 23 22)).1 j e.bytes
    let s := setPort p { x with lastLine := bs, entries := x.entries.map fun a => if a.line = j ∧ a.st = .filled then { a with st := .sending } else a } s
    refreshLevel p (sendSegments p (cutSegments j pr.o j 0 flags bs) s)
  | none =>
    let bs := if x.lastLine = [] then List.replicate lb 0 else x.lastLine
    let s := addObj (oRasterUnderruns p) 1 s
    let s := if x.underrunThis then s else capture 0x0503 31 p pr.o j 0 s
    let s := setPort p { x with underrunThis := true, lastLine := bs } s
    refreshLevel p (sendSegments p (cutSegments j pr.o j 0 flags bs) s)

/-- The least fill since the enable, taken in each active slot once its line's entry is sending (R399). -/
def noteFill (p : Nat) (s : State) : State := setObj (oRasterMinFill p) (min (getObj s (oRasterMinFill p)) (getObj s (oRasterFill p))) s

/-- Sets of a segment: a power of two that divides an audio frame of 64 and fits 128 blocks. -/
def setsPerSegment (c : Nat) : Nat := ([64, 32, 16, 8].find? fun n => decide (n * 4 * c ≤ 1024)).getD 4

/-- Runs of sets whose offsets follow one another. -/
def setRuns : List (Nat × List Word) → List (Nat × List (List Word))
  | [] => []
  | (q, ws) :: rest => match setRuns rest with
    | (q', l) :: more => if q' = q + 1 then (q, ws :: l) :: more else (q, [ws]) :: (q', l) :: more
    | [] => [(q, [ws])]

/-- The audio segments of a frame: each holds the sets of consecutive offsets within one group of `setsPerSegment` (R374). -/
def audioSegments (slot frame c : Nat) (sets : List (Nat × List Word)) : List Segment :=
  let n := setsPerSegment c
  let top := (sets.map (·.1 + 1)).foldl max 0
  (List.range (ceilDiv top n)).flatMap fun i =>
    (setRuns (sets.filter fun e => e.1 / n == i)).map fun r =>
      let bs := padBlocks (r.2.flatMap fun ws => ws.flatMap fun w => leBytes 4 w.toNat)
      { slot := slot, header := headerBlock frame 0 (bs.length / 8) r.1 0 2, bytes := bs }

/-- The ancillary bytes that go with an output frame: those of source frame m with frame U × m. -/
def frameAnc (s : State) (k o : Nat) : List Byte :=
  let up := seqUp s k
  if up = 0 ∨ o % up ≠ 0 then [] else match (getSeq s k).ring.find? fun f => f.m == o / up with
    | some f => f.anc
    | none => []

/-- The stream and the number of the output frame that a port's next boundary begins, also before the stream's first (R376). -/
def nextFrame (s : State) (p : Nat) (next : Nat) : Option (Nat × Nat) :=
  match (getPort s p).current, streamOf s true 1 p with
  | some pr, _ => some (pr.k, pr.o + 1)
  | none, some k => if 2 ≤ seqState s k ∧ (getSeq s k).nBase ≤ next then some (k, (getSeq s k).oBase + next - (getSeq s k).nBase) else none
  | none, none => none

/-- At the first slot of the blanking, the ancillary and audio segments of frame o + 1 stand ready (R376). -/
def fillBlank (p : Nat) (s : State) : State :=
  let x := getPort s p
  let none_ := setPort p { x with blank := [], setsNext := 0 } s
  match x.gen with
  | none => none_
  | some g =>
    match nextFrame s p g.next with
    | none => none_
    | some (k, o) =>
      let hz := rateHz (rasterField s p 21 18)
      let a := genAt hz g g.next
      let b := genAt hz g (g.next + 1)
      let sets := frameSets s k a b
      let va := (portLines s p).1
      let segs := cutSegments va o 0 1 0 (frameAnc s k o) ++ audioSegments va o (getObj s (oAudioChannels k)) sets
      takeSets k a b (setPort p { x with blank := segs, setsNext := sets.length } s)

/-- Blocks that a segment takes: header, data and end. -/
def segBlocks (x : Segment) : Nat := x.bytes.length / 8 + 2

/-- How many of the segments fit into a number of blocks. -/
def fitCount : Nat → List Segment → Nat
  | _, [] => 0
  | room, x :: xs => if segBlocks x ≤ room then fitCount (room - segBlocks x) xs + 1 else 0

/-- One blanking segment leaves; an audio frame of 64 sets that begins while the port is muted is muted, unless the request came in this very cycle (R396, R397). -/
def sendBlank (p slot : Nat) (g : Segment) (s : State) : State :=
  let x := getPort s p
  if segKind g = 2 then
    let no := bits g.header 37 25 / 64 + 1
    let muted := if no = x.audioNo then x.mutedNow else bit (s.now.mute.getD (getObj s oAudioMuteState)) p
    sendSegment p { g with slot := slot, bytes := if muted then mutedBytes g.bytes else g.bytes } (setPort p { x with mutedNow := muted, audioNo := no } s)
  else sendSegment p { g with slot := slot } s

/-- A slot of the blanking: as many of the waiting segments as it holds. -/
def blankLine (p j : Nat) (s : State) : State :=
  let s := if j = (portLines s p).1 then fillBlank p s else s
  let x := getPort s p
  let n := fitCount (slotBlocks (rasterField s p 21 18) (objBit s (oRasterConfig p) 17) (rasterField s p 23 22) - 4) x.blank
  let s := setPort p { x with blank := x.blank.drop n, entries := x.entries.filter fun e => e.st != .sending } s
  (x.blank.take n).foldl (fun s g => sendBlank p j g s) s

/-- An output slot of a pass-through path: every segment that the input received delay_lines slots before (R489). -/
def pathSlot (p j slot : Nat) (s : State) : State :=
  let x := getPath s j
  let vt := (portLines s p).2
  let want := (slot + vt - getObj s (oPassthruDelayLines j)) % vt
  let go := x.segs.filter fun g => g.slot == want
  let s := setPath j { x with segs := x.segs.filter fun g => g.slot != want } s
  go.foldl (fun s g => sendBlank p slot g s) s

/-- LINE_SLOT: the next line slot of a port's frame begins (R376). -/
def execLineSlot (port : Nat) (s : State) : Out := whenLive s fun s =>
  let x := getPort s port
  let (va, vt) := portLines s port
  let j := x.slotLine
  if outputOn s port = false ∨ vt ≤ j ∨ x.start = 0 ∨ cycle s < x.start + portSpan s port j then s
  else
    let s := setPort port { x with slotLine := j + 1 } s
    match pathOut s port with
    | some path => pathSlot port path j s
    | none =>
      let s := if j = 0 ∧ (x.current.isSome || (streamOf s true 1 port).isSome) = true then sendSegment port (timingSegment s port x) s else s
      if j < va then
        match x.current with
        | some pr => if x.held then s else noteFill port (sendLine port j pr s)
        | none => s
      else blankLine port j s

/-! ### Commands of the pass-through paths (R488) -/

/-- The first condition of R488 that a start fails; 0 when none. -/
def pathResult (s : State) (j : Nat) : Nat :=
  let i := getObj s (oPassthruIn j)
  let o := getObj s (oPassthruOut j)
  let ci := getObj s (oRasterConfig i)
  let co := getObj s (oRasterConfig o)
  let busy (p : Nat) : Bool := portBound s p || ((List.range 4).any fun h => getObj s (oPassthruState h) != 0 && (getObj s (oPassthruIn h) == p || getObj s (oPassthruOut h) == p))
  if busy i || busy o then 1
  else if !(decide (i < 8) && decide (o < 8) && inputOn s i && outputOn s o && bits co 29 28 == 1 && bits co 27 24 == i && getObj s (oRasterPhase o) == 0 &&
      bits ci 23 13 == bits co 23 13) then 2
  else if getObj s (oPassthruDelayLines j) < 2 ∨ 14 < getObj s (oPassthruDelayLines j) then 3
  else 0

/-- A write of passthru[j].command; while Weir restarts a start is refused (R584). -/
def wPassthru (m j value : Nat) (s : State) : State × Ack :=
  match value with
  | 1 =>
    if !(s.fw.weirUp && s.fw.weirRestart.isNone) then (refuse m (oPassthruCommand j) 2 value s, .refused 2)
    else
    let r := pathResult s j
    let s := setObj (oPassthruStatus j) (r * 2 ^ 24) s
    if r = 0 then (setPath j Path.init (setObj (oPassthruState j) 1 s), .done) else (s, .quiet)
  | 2 =>
    let s := setObj (oPassthruStatus j) 0 s
    (if getObj s (oPassthruState j) = 1 then setObj (oPassthruState j) 2 s else s, .done)
  | _ => (refuse m (oPassthruCommand j) 1 value s, .refused 1)

/-- PASSTHRU_START (R488). -/
def execPassthruStart (m j : Nat) (s : State) : Out := whenFree m (.passthruStart m j) s fun s => (ackWrite (oPassthruCommand j) (wPassthru m j 1 s)).1

/-- PASSTHRU_STOP (R488). -/
def execPassthruStop (m j : Nat) (s : State) : Out := whenFree m (.passthruStop m j) s fun s => (ackWrite (oPassthruCommand j) (wPassthru m j 2 s)).1

end Sys2Proof.Machine
end

