-- ==== Sys2Proof/Machine/Dma.lean ====
section
/-!
DEFINITION. PCIe ports and DMA rings (R424 to R433, R442 to R445): configuration, doorbells, output frames and their bands, input frames, stalls and link events.
-/

namespace Sys2Proof.Machine

/-! ### Configuration (R444, R445, R622, R624) -/

/-- Input or output that a running stream binds (R294). -/
def ringBound (s : State) (r : Nat) : Bool := (streamOf s true 2 r).isSome || (streamOf s false 2 r).isSome

/-- A field of dma[r].config. -/
def dmaField (s : State) (r msb lsb : Nat) : Nat := getField s (oDmaConfig r) msb lsb

/-- The ring runs: state 1 or 2. -/
def ringOn (s : State) (r : Nat) : Bool := getObj s (oDmaState r) == 1 || getObj s (oDmaState r) == 2

/-- The refusal of a configuration: state first, then value. -/
def dmaRefusal (s : State) (r v : Nat) : Option Nat :=
  let code := bits v 20 17
  let frac := bit v 16
  let slave := bits v 26 23
  if ringBound s r then some 2
  else if bits v 28 27 = 3 ∨ rateHz code = 0 ∨ 5 < bits v 15 12 ∨ 32 < bits v 11 6 ∨ bits v 11 6 % 2 = 1 then some 1
  else if phaseOk code frac (getObj s (oDmaPhase r)) = false then some 1
  else if bit v 31 = false then none
  else if s.clk.aligned = false then some 2
  else if bit v 30 = true ∧ bits v 28 27 = 1 ∧ !(decide (slave < 8) && objExists s (0x2500 + 16 * slave) 2 && inputOn s slave) then some 1
  else none

/-- A configuration in force: an enabled ring starts empty, with its pointers at 0 and, as an output, its own timing. Frames skipped before are still shown by the next descriptor (R432). -/
def applyDma (r v : Nat) (s : State) : State :=
  let gen := if bit v 31 && bit v 30 then some (newGen (bits v 20 17) (bit v 16) (getObj s (oDmaPhase r)) (bits v 28 27) (cycle s)) else none
  let s := setRing r { Ring.init with gen := gen, skips := (getRing s r).skips } (setObj (oDmaConfig r) v s)
  setObj (oDmaPointers r) 0 (setObj (oDmaState r) (if bit v 31 then 1 else 0) s)

/-- A write of dma[r].config. -/
def wDmaConfig (m r value : Nat) (s : State) : State × Ack :=
  let v := value / 64 * 64
  match dmaRefusal s r v with
  | some reason => (refuse m (oDmaConfig r) reason value s, .refused reason)
  | none => (applyDma r v s, .done)

/-- A write of dma[r].phase (R624). -/
def wDmaPhase (m r value : Nat) (s : State) : State × Ack :=
  if ringBound s r then (refuse m (oDmaPhase r) 2 value s, .refused 2)
  else if phaseOk (dmaField s r 20 17) (dmaField s r 16 16 == 1) value then (applyPhase (8 + r) value (setObj (oDmaPhase r) value s), .done)
  else (refuse m (oDmaPhase r) 1 value s, .refused 1)

/-- A write of dma[r].ring_base or dma[r].ring_log2. -/
def wDmaRing (m r : Nat) (base : Bool) (value : Nat) (s : State) : State × Ack :=
  let key := if base then oDmaRingBase r else oDmaRingLog2 r
  let at_ := if base then key + 1 else key
  let shown := if base then value / 2 ^ 32 else value
  if ringBound s r then (refuse m at_ 2 shown s, .refused 2)
  else if (base = true ∧ value % 4096 ≠ 0) ∨ (base = false ∧ (value < 4 ∨ 12 < value)) then (refuse m at_ 1 shown s, .refused 1)
  else (setObj key value s, .done)

/-! ### Descriptors (R426, R427) -/

/-- The port of a ring. -/
def ringPort (s : State) (r : Nat) : Nat := dmaField s r 29 29

/-- The ring is an output. -/
def ringOut (s : State) (r : Nat) : Bool := dmaField s r 30 30 == 1

/-- The state of a running ring: 2 while it has a frame to move, else 1. -/
def settleRing (r : Nat) (s : State) : State :=
  if ringOn s r then
    let x := getRing s r
    setObj (oDmaState r) (if (if ringOut s r then x.frames != [] else x.held != []) then 2 else 1) s
  else s

/-- DOORBELL_WRITE: a new tail posts its descriptors, as long as (tail - head) mod 65,536 stays within the ring; a tail before the one in force takes the last ones back (R426). -/
def execDoorbellWrite (port ring tail : Nat) (descs : List HostDesc) (s : State) : Out := whenLive s fun s =>
  if hostReads s port = false then s
  else
    let x := getRing s ring
    let n := (tail + 65536 - getField s (oDmaPointers ring) 15 0) % 65536
    if 2 ^ getObj s (oDmaRingLog2 ring) < n then refuse (port + 1) (oDmaPointers ring) 2 tail s
    else
      let more := (List.range (n - x.held.length)).map fun i => descs.getD i { address := 0, length := 0, irq := false }
      settleRing ring (setField (oDmaPointers ring) 31 16 tail (setRing ring { x with held := x.held.take n ++ more } s))

/-- A half that nothing uses any more is held no longer (R417). -/
def dropHeld (k : Nat) (s : State) : State :=
  let x := getOverlay s k
  setOverlay k { x with held := retireHalf s k x.held } s

/-- The descriptor at the head is completed: words 4 to 7 in one write, then the vector if it asks for one; the head goes on (R427). -/
def completeDesc (r result n frame skipped : Nat) (s : State) : State :=
  let x := getRing s r
  let head := getField s (oDmaPointers r) 15 0
  let port := ringPort s r
  let size := 2 ^ getObj s (oDmaRingLog2 r)
  let s := emit (.hostWrite port (getObj s (oDmaRingBase r) + 32 * (head % size) + 16) (leBytes 4 (result * 2 ^ 24) ++ leBytes 4 n ++ leBytes 4 frame ++ leBytes 4 skipped)) (notePosted port s)
  let s := setField (oDmaPointers r) 15 0 (head + 1) (setRing r { x with held := x.held.drop 1 } s)
  let s := if result = 1 then addObj (oDmaFrames r) 1 s else addObj (oDmaAbandoned r) 1 s
  let s := if (x.held.headD { address := 0, length := 0, irq := false }).irq then sendMsix port (getObj s (oDmaVector r)) s else s
  settleRing r s

/-! ### Frame buffers (R428) -/

/-- A: the sample sets that a buffer of a ring has room for. -/
def bufferSets (s : State) (r : Nat) : Nat := 48000 / max 1 (rateHz (dmaField s r 20 17)) + 1

/-- Pic: the offset of the picture. -/
def picAt (s : State) (r : Nat) : Nat := 64 + bufferSets s r * dmaField s r 11 6 * 4 + 16384

/-- Width and height of a ring's pictures. -/
def ringSize (s : State) (r : Nat) : Nat × Nat := ((resolution (dmaField s r 22 21)).1, (resolution (dmaField s r 22 21)).2.1)

/-- Bytes of a line of a ring. -/
def ringLine (s : State) (r : Nat) : Nat := picLine (dmaField s r 15 12) (ringSize s r).1

/-- Bytes from line to line that the device writes. -/
def ringStride (s : State) (r : Nat) : Nat := up32 (ringLine s r)

/-- `n` line slots of a ring in compute cycles. -/
def ringLines (s : State) (r n : Nat) : Nat := lineSpan (dmaField s r 20 17) (dmaField s r 16 16 == 1) (dmaField s r 22 21) n

/-- To of a ring. -/
def ringFrame (s : State) (r : Nat) : Nat := span (dmaField s r 20 17) (dmaField s r 16 16 == 1) 1

/-- Bytes brought to a length with free ones. -/
def padFree (s : State) (n : Nat) (bs : List Byte) : List Byte := bs.take n ++ (freeBytes s n).drop bs.length

/-- Calendar time of a compute cycle that is not in the future. -/
def calendarAt (s : State) (c : Nat) : Nat := calendar s + calendarSpan s (c - cycle s) - calendarSpan s (cycle s - c)

/-- The header of an output frame. -/
def frameHeader (s : State) (r : Nat) (f : DmaFrame) (sets anc : Nat) : List Byte :=
  leBytes 4 f.present.o ++ leBytes 2 (ringSize s r).1 ++ leBytes 2 (ringSize s r).2 ++ leBytes 1 (dmaField s r 15 12) ++ leBytes 1 (dmaField s r 11 6) ++
    leBytes 2 sets ++ leBytes 4 anc ++ leBytes 4 (ringStride s r) ++ leBytes 4 (b2n f.present.fallback * 4 + b2n f.present.late * 8) ++
    leBytes 8 (calendarAt s f.d) ++ leBytes 32 0

/-- The end of an output frame: the stream's next boundary, or one period on after the stream has ended. -/
def frameEnd (s : State) (r : Nat) (f : DmaFrame) : Nat := if seqState s f.present.k = 0 then f.d + ringFrame s r else dOf s f.present.k (f.present.o + 1)

/-- The sets of a frame laid out by their offsets: an offset without a set holds zeros with valid clear. -/
def layoutSets (c : Nat) (sets : List (Nat × List Word)) : List (List Word) :=
  (List.range ((sets.map (·.1 + 1)).foldl max 0)).map fun q => match sets.find? (·.1 == q) with
    | some e => e.2
    | none => List.replicate c 0

/-- Header, sample sets and ancillary bytes of an output frame (R428, R429). -/
def frameHead (s : State) (r : Nat) (f : DmaFrame) : List Byte :=
  let k := f.present.k
  let sets := (layoutSets (dmaField s r 11 6) (frameSets s k f.d (frameEnd s r f))).take (bufferSets s r)
  let anc := (frameAnc s k f.present.o).take 16384
  let words := sets.flatMap fun ws => ws.flatMap fun w => leBytes 4 w.toNat
  frameHeader s r f sets.length anc.length ++ padFree s (picAt s r - 16384 - 64) words ++ padFree (useFree s) 16384 anc

/-- The lines of a band, the overlay blended on, each brought to the stride (R416, R428). -/
def bandBytes (s : State) (r : Nat) (f : DmaFrame) : List Byte :=
  let size := ringSize s r
  let lb := ringLine s r
  (List.range (min 32 (size.2 - 32 * f.band))).flatMap fun i =>
    let y := 32 * f.band + i
    padFree { s with free := s.free + 2 + i } (ringStride s r) (composed s f.present.k f.present.o (dmaField s r 15 12) size.1 y (pictureLine s f.present y lb))

/-! ### Output frames (R429, R431, R432) -/

/-- The output frame at a ring's head that the port may write: the ring runs and the port can send. -/
def headFrame (s : State) (port r : Nat) : Option DmaFrame :=
  if ringOn s r = true ∧ ringOut s r = true ∧ ringPort s r = port ∧ hostReads s port = true then (getRing s r).frames.head? else none

/-- The overlay row of a frame's next band is in its strip, or there is none to wait for (R417). -/
def rowReady (s : State) (r : Nat) (f : DmaFrame) : Bool :=
  match f.present.half with
  | none => true
  | some id =>
    match halfById (getOverlay s f.present.k) id with
    | none => true
    | some _ => (stripPixel (getOverlay s f.present.k) f.present.o (ringSize s r).1 0 (32 * f.band)).isSome

/-- The cycle from which a frame's next band may be read (R416). -/
def bandTime (s : State) (r : Nat) (f : DmaFrame) : Nat := f.d + ringLines s r (32 * f.band)

/-- The ring whose band a port writes next: of those that may be read, the earliest, then the lowest ring (R429). -/
def nextBand (s : State) (port : Nat) : Option (Nat × DmaFrame) :=
  let ready := (mapKeys s.io.rings).filterMap fun r =>
    match headFrame s port r with
    | some f => if bandTime s r f ≤ cycle s ∧ rowReady s r f = true then some (r, f) else none
    | none => none
  ready.foldl (fun best e => match best with
    | none => some e
    | some b => if bandTime s e.1 e.2 < bandTime s b.1 b.2 then some e else some b) none

/-- A frame of a stream leaves its ring: its half is held no longer, and its strips are free (R417). -/
def leaveRing (pr : Present) (s : State) : State := dropHeld pr.k (freeStrips pr.k pr.o s)

/-- The frame at the head leaves the ring: its epoch closes and its descriptor is completed, with the frames skipped before it (R432). -/
def endFrame (r result n : Nat) (s : State) : State :=
  let x := getRing s r
  match x.frames with
  | [] => s
  | f :: rest => leaveRing f.present (completeDesc r result n f.present.o x.skips (setRing r { x with frames := rest, skips := 0 } s))

/-- The frame at the head is abandoned: its epoch closes, and its descriptor waits to be written with the bytes already sent (R431). -/
def abandonFrame (r result : Nat) (s : State) : State :=
  let x := getRing s r
  match x.frames with
  | [] => s
  | f :: rest =>
    let s := setRing r { x with frames := rest } s
    let port := getPcie s (ringPort s r)
    let o : Owed := { ring := r, result := result, bytes := f.sent, frame := f.present.o, since := cycle s }
    leaveRing f.present (settleRing r (setPcie (ringPort s r) { port with owed := port.owed ++ [o] } s))

/-- The descriptors that wait leave the port, in order (R431). -/
def sendOwed (port : Nat) (s : State) : State :=
  let x := getPcie s port
  x.owed.foldl (fun s o =>
    let r := getRing s o.ring
    completeDesc o.ring o.result o.bytes o.frame r.skips (setRing o.ring { r with skips := 0 } s)) (setPcie port { x with owed := [] } s)

/-- A band of a frame is written, and before the first one the header, the sets and the ancillary bytes. -/
def writeBand (port r : Nat) (f : DmaFrame) (s : State) : State :=
  let size := ringSize s r
  let head := if f.band = 0 then frameHead s r f else []
  let body := bandBytes s r f
  let k := f.present.k
  let s := notePosted port (emit (.hostWrite port (f.desc.address + f.sent) (head ++ body)) { s with free := s.free + 34 })
  let s := if f.band = 0 then takeSets k f.d (frameEnd s r f) s else s
  let s := if f.present.half.isSome then setOverlay k { getOverlay s k with strips := mapErase (getOverlay s k).strips (f.band % 2) } s else s
  let x := getRing s r
  let sent := f.sent + head.length + body.length
  let s := setRing r { x with frames := { f with band := f.band + 1, sent := sent } :: x.frames.drop 1 } s
  if size.2 ≤ 32 * (f.band + 1) then endFrame r 1 sent s else s

/-- OUTPUT_BAND_WRITE: a port's queue of posted writes sends the descriptors that wait, and then its next band (R429, R431). A buffer that is too short is completed with result 0x04 and takes nothing (R427). -/
def execOutputBandWrite (port : Nat) (s : State) : Out := whenLive s fun s =>
  let s := if hostReads s port then sendOwed port s else s
  match nextBand s port with
  | none => s
  | some (r, f) => if f.desc.length < picAt s r + (ringSize s r).2 * ringStride s r then endFrame r 4 0 s else writeBand port r f s

/-- Frames that a ring of a port has begun and not completed. -/
def begunFrames (s : State) (port r : Nat) : List DmaFrame :=
  match headFrame s port r with
  | none => []
  | some _ => (getRing s r).frames.takeWhile fun f => decide (f.d ≤ cycle s)

/-- The begun frames of a ring abandoned, in order, each at its current byte. -/
def abandonRing (port result r : Nat) (s : State) : State := (begunFrames s port r).foldl (fun s _ => abandonFrame r result s) s

/-- The cycle from which a port's posted-write queue has held a write and sent none: the stall timer runs from there (R431). -/
def stalledSince (s : State) (port : Nat) : Option Nat :=
  let x := getPcie s port
  match x.owed, nextBand s port with
  | o :: _, _ => some (max x.lastSent o.since)
  | [], some (r, f) => some (max x.lastSent (bandTime s r f))
  | [], none => none

/-- The stall timer of a port has reached pcie[i].stall_limit. -/
def stallDue (s : State) (port : Nat) : Bool :=
  hostReads s port && match stalledSince s port with
    | some t => decide (t + getObj s (oPcieStallLimit port) * usTicks ≤ cycle s)
    | none => false

/-- The part of the band at the front of a port's queue that had left before its credits ran out: fewer bytes than the whole. -/
def sendPart (port n : Nat) (s : State) : State :=
  match nextBand s port with
  | none => s
  | some (r, f) =>
    let bs := (if f.band = 0 then frameHead s r f else []) ++ bandBytes s r f
    let part := bs.take (min n (bs.length - 1))
    if part = [] then s
    else
      let x := getRing s r
      emit (.hostWrite port (f.desc.address + f.sent) part)
        (setRing r { x with frames := { f with sent := f.sent + part.length } :: x.frames.drop 1 } { s with free := s.free + 34 })

/-- What the stall limit does: every begun frame of the port's rings is abandoned, the event is counted and recorded, and the timer starts again (R431). -/
def stallPort (port sent : Nat) (s : State) : State :=
  let s := sendPart port sent s
  let rings := mapKeys s.io.rings
  let n := sumNat (rings.map fun r => (begunFrames s port r).length)
  let s := rings.foldl (fun s r => abandonRing port 2 r s) s
  notePosted port (capture 0x0506 31 port n 2 0 (addObj (oPcieStalls port) 1 s))

/-- STALL_LIMIT_EXPIRY: a port without credits has reached its stall limit, some bytes of its next band having left (R431). -/
def execStallLimitExpiry (x : StalledPort) (s : State) : Out := whenLive s fun s => if stallDue s x.port then stallPort x.port x.sent s else s

/-- LATE_ABANDON: an output frame is still incomplete at D(o) + 2 To. Where the stall limit has been reached as well, that comes first (R431, R442). -/
def execLateAbandon (ring : Nat) (s : State) : Out := whenLive s fun s =>
  let port := ringPort s ring
  if ringOn s ring = true ∧ ringOut s ring = true then
    match (getRing s ring).frames with
    | [] => s
    | f :: _ =>
      if cycle s < f.d + 2 * ringFrame s ring then s
      else if stallDue s port then stallPort port 0 s
      else capture 0x0506 31 port 1 3 0 (abandonFrame ring 3 s)
  else s

/-! ### Input frames (R430) -/

/-- The sequencers that name a ring as their input. -/
def ringStreams (s : State) (r : Nat) : List Nat := (List.range 128).filter fun k => getObj s (oSeqInput k) / 4096 == 2 && getObj s (oSeqInput k) % 256 == r

/-- The header of an input frame differs from the ring's format, or the buffer is shorter than the frame (R430). -/
def badHeader (s : State) (r length : Nat) (d : List Byte) : Bool :=
  let size := ringSize s r
  natAt d 4 2 != size.1 || natAt d 6 2 != size.2 || natAt d 8 1 != dmaField s r 15 12 || natAt d 9 1 != dmaField s r 11 6 ||
    decide (length < picAt s r + size.2 * natAt d 0x10 4)

/-- An input frame reaches stream k: its picture into the ring of the region, its sets into the delay line, then its admission (R273, R274, R430). -/
def takeInput (r : Nat) (d : List Byte) (k : Nat) (s : State) : State :=
  let start := cycle s - sourceSpan s k
  let m := arrivingFrame s k start
  let c := dmaField s r 11 6
  let stride := natAt d 0x10 4
  let pic := picAt s r
  let s := match sourcePicture s k m with
    | none => s
    | some p => (List.range (ringSize s r).2).foldl (fun s y => writeRegion p.part (p.offset + y * p.stride) ((d.drop (pic + y * stride)).take (ringLine s r)) s) s
  let n := min (natAt d 0x0A 2) (bufferSets s r)
  let ws := audioWordsOf ((d.drop 64).take (n * c * 4))
  let s := if getObj s (oAudioState k) = 1 then
      (List.range n).foldl (fun s i => goodSet k (sampleAt start i) ((List.range c).map fun j => ws.getD (i * c + j) 0) s) s
    else s
  sourceFrame k start ((d.drop (pic - 16384)).take (min 16384 (natAt d 0x0C 4))) s

/-- The counter that a completed input descriptor shows: m of the first stream that takes the frame, else the header's. -/
def inputCounter (s : State) (r : Nat) (d : List Byte) : Nat :=
  match ringStreams s r with
  | k :: _ => arrivingFrame s k (cycle s - sourceSpan s k)
  | [] => natAt d 0 4

/-- An input ring that is reading the descriptor at its head. -/
def readingRing (s : State) (r : Nat) : Option HostDesc :=
  if ringOn s r = true ∧ ringOut s r = false ∧ hostReads s (ringPort s r) = true then (getRing s r).held.head? else none

/-- INPUT_READ_COMPLETION: the reads of the frame at the head have ended with the bytes given (R430). -/
def execInputReadCompletion (ring : Nat) (data : List Byte) (s : State) : Out := whenLive s fun s =>
  match readingRing s ring with
  | none => s
  | some desc =>
    let m := inputCounter s ring data
    let size := picAt s ring + (ringSize s ring).2 * natAt data 0x10 4
    if desc.length < 64 ∨ (64 ≤ data.length ∧ badHeader s ring desc.length data = true) then completeDesc ring 6 data.length m 0 s
    else if data.length < 64 ∨ data.length < size then completeDesc ring 5 data.length m 0 s
    else completeDesc ring 1 size m 0 ((ringStreams s ring).foldl (fun s k => takeInput ring data k s) s)

/-- COMPLETION_TIMEOUT: a read of host memory gets no completion: 0 an input frame of a ring, 1 a load in a section (1024: outside sections), 2 a copy from the host (R187, R430, R492). -/
def execCompletionTimeout (kind unit : Nat) (s : State) : Out := whenLive s fun s =>
  match kind with
  | 0 =>
    match readingRing s unit with
    | none => s
    | some _ => useFree (completeDesc unit 5 (freeNat s 32) (inputCounter s unit []) 0 s)
  | 1 => loadReadFails unit s
  | _ =>
    match s.fw.cmd with
    | some c => if c.code = 4 ∧ c.failed = none then fwResult 6 0 (spoilBlocks c { s with fw := { s.fw with cmd := none } }) else s
    | none => s

/-! ### Link events (R424, R433) -/

/-- A ring of a port that goes down: its frames, and the descriptors that wait for credits, are dropped without a descriptor write, and it stops (R433, R442). -/
def stopRing (r : Nat) (s : State) : State :=
  let x := getRing s r
  let s := setObj (oDmaState r) 3 (addObj (oDmaAbandoned r) (x.frames.length + owedDescs s r) s)
  let s := setRing r { x with frames := [] } s
  let port := ringPort s r
  let s := setPcie port { getPcie s port with owed := (getPcie s port).owed.filter fun e => e.ring != r } s
  x.frames.foldl (fun s f => leaveRing f.present s) s

/-- Every ring of a port stops, and the event is counted. -/
def stopRings (port : Nat) (s : State) : State :=
  let s := (List.range 128).foldl (fun s r => if ringPort s r = port then stopRing r s else s) s
  addObj (oPcieLinkDowns port) 1 s

/-- PCIE_LINK_DOWN. -/
def execPcieLinkDown (port : Nat) (s : State) : Out := whenLive s fun s =>
  if objBit s (oPcieLink port) 0 then setObj (oPcieLink port) 0 (stopRings port s) else s

/-- FUNCTION_LEVEL_RESET: as a link down; the port's configuration space and latches are cleared, and no other object (R433, R459, R460). -/
def execFunctionLevelReset (port : Nat) (s : State) : Out := whenLive s fun s =>
  let s := stopRings port s
  let s := { s with io := { s.io with msixTable := s.io.msixTable.filter fun e => e.1 / 8192 != port } }
  clearLatches (port + 1) (setPcie port Pcie.init s)

/-- PCIE_FLIT_RETRY: the flit is replayed at link level, which no object shows (R424). -/
def execPcieFlitRetry (_port : Nat) (s : State) : Out := whenLive s fun s => s

/-- PCIE_LINK_UP: the link has trained at a width and a generation (R433, R445). -/
def execPcieLinkUp (port width speed : Nat) (s : State) : Out := whenLive s fun s => setObj (oPcieLink port) (width * 2 ^ 8 + speed * 2 ^ 4 + 1) s

/-- PCIE_POWER_STATE_WRITE: the host moves the port between D0 and D3hot (R424). -/
def execPciePowerStateWrite (port : Nat) (d3 : Bool) (s : State) : Out := whenLive s fun s => setPcie port { getPcie s port with d3 := d3 } s

end Sys2Proof.Machine
end

