-- ==== Sys2Proof/Machine/Links.lean ====
section
/-!
DEFINITION. Uzoquin links (R168, R169, R530, R564): flit replays, lane losses, group and link retraining.
-/

namespace Sys2Proof.Machine

/-- A link of the state. -/
def getLink (s : State) (k : Nat) : Link := mapGet Link.init s.fab.links k

/-- A link set. -/
def setLink (k : Nat) (x : Link) (s : State) : State := { s with fab := { s.fab with links := mapSet Link.init s.fab.links k x } }

/-- Lanes of a group that take no data. -/
def groupOut (x : Link) (dir group : Nat) : Nat := (x.out.filter fun e => e.1 == dir && e.2.1 == group).length

/-- Groups of a direction that stay down: two lanes out (R169, R561). -/
def groupsDown (x : Link) (dir : Nat) : Nat := ((List.range 16).filter fun g => decide (2 ≤ groupOut x dir g)).length

/-- The state a trained link reads: up, degraded with a group down, or failed with fewer than 8 groups up (R561). -/
def trainedState (x : Link) : Nat :=
  let d := max (groupsDown x 0) (groupsDown x 1)
  if 8 < d then 4 else if 0 < d then 2 else 1

/-- The whole link retrains (R564). -/
def startLinkRetrain (k : Nat) (s : State) : State := setLinkState k 3 (setLink k { getLink s k with groups := [], replays := [], failedAt := none, retried := false } s)

/-- Ticks in 1 ms. -/
def msTicks : Nat := 1400000

/-- A flit is replayed from the sender's buffer; more than defect.link_replay_limit within 1 ms retrain the link (R169, R564). -/
def replayFlit (k : Nat) (s : State) : State :=
  let s := perfCount 0x07 k 1 s
  let x := getLink s k
  let recent := ticks s :: x.replays.filter fun t => decide (ticks s < t + msTicks)
  if getObj s oDefectLinkReplayLimit < recent.length then startLinkRetrain k s else setLink k { x with replays := recent } s

/-- FLIT_CHECK_FAILURE: `det` says that a DET flit takes the path (R169, R356). -/
def execFlitCheckFailure (link : Nat) (det : Bool) (s : State) : Out := whenLive s fun s =>
  if linkUp s link then
    let s := replayFlit link s
    if det then perturb s else s
  else s

/-- A lane taken out of service, with its learned entry (R564). -/
def loseLane (k dir group lane : Nat) (s : State) : State :=
  let x := getLink s k
  learn 5 k group lane dir (setLink k { x with out := (dir, group, lane) :: x.out } s)

/-- A link starts to retrain and its traffic is rerouted; `det` says that DET traffic is (R169, R356, R564). -/
def rerouteLink (link : Nat) (det : Bool) (s : State) : State :=
  let s := startLinkRetrain link s
  if det then perturb s else s

/-- LANE_FAILURE: the group retrains onto its spare; with the spare in use the whole link retrains and the group stays down (R169, R356, R564). -/
def execLaneFailure (link dir group : Nat) (lost : LaneLoss) (s : State) : Out := whenLive s fun s =>
  let x := getLink s link
  if linkUp s link = true ∧ x.out.contains (dir, group, lost.lane) = false then
    let before := groupOut x dir group
    let s := loseLane link dir group lost.lane s
    if before = 0 then
      if lost.lane = 16 then s else setLink link { getLink s link with groups := (dir, group) :: (getLink s link).groups } s
    else if before = 1 then rerouteLink link lost.det s
    else s
  else s

/-- GROUP_RETRAIN_COMPLETE: the spare carries the lane's data (R169). -/
def execGroupRetrainComplete (link dir group : Nat) (s : State) : Out := whenLive s fun s =>
  let x := getLink s link
  setLink link { x with groups := x.groups.filter fun e => e != (dir, group) } s

/-- LINK_RETRAIN: a link that carries traffic starts to retrain; `det` says that DET traffic is rerouted (R356, R564). -/
def execLinkRetrain (link : Nat) (det : Bool) (s : State) : Out := whenLive s fun s =>
  if linkUp s link then rerouteLink link det s else s

/-- LINK_SLIP: the link retrains as in LINK_RETRAIN (R530, R356). -/
def execLinkSlip (x : SlippedLink) (s : State) : Out := whenLive s fun s => if linkUp s x.link then rerouteLink x.link x.det s else s

/-- The record of a retrain's end. -/
def retrainRecord (k result : Nat) (s : State) : State := capture 0x0605 31 k (getObj s oFabricLinks) result 0 s

/-- LINK_RETRAIN_COMPLETE: `bad` are the lanes that failed training, `agree` says that both directions are back at 22 cycles (R530, R564). -/
def execLinkRetrainComplete (link : Nat) (bad : List (Nat × Nat × Nat)) (agree : Bool) (s : State) : Out := whenLive s fun s =>
  if linkState s link = 3 ∧ s.pw.computeOff = false then
    let s := bad.foldl (fun s e => if (getLink s link).out.contains e then s else loseLane link e.1 e.2.1 e.2.2 s) s
    let x := getLink s link
    if agree = true ∧ trainedState x ≠ 4 then
      retrainRecord link 0 (setLinkState link (trainedState x) (setLink link { x with failedAt := none, retried := false } s))
    else
      retrainRecord link 1 (setLinkState link 4 (setLink link { x with failedAt := if x.retried then none else some (ticks s) } s))
  else s

/-- LINK_RETRAIN_RETRY: 100 ms after a failed retrain the link is tried once more (R564). -/
def execLinkRetrainRetry (link : Nat) (s : State) : Out := whenLive s fun s =>
  let x := getLink s link
  match x.failedAt with
  | some t =>
    if linkState s link = 4 ∧ t + 100 * msTicks ≤ ticks s ∧ s.pw.computeOff = false then
      setLinkState link 3 (setLink link { x with failedAt := none, retried := true } s)
    else s
  | none => s

end Sys2Proof.Machine
end

