-- ==== Sys2Proof/Machine/Faults.lean ====
section
/-!
DEFINITION. Faults of tiles, motion engines, compute dies and SRAM words, and their recovery (21_faults_and_recovery.md).
-/

namespace Sys2Proof.Machine

/-! ### Sites -/

/-- Logical tiles that a physical tile carries. -/
def siteTiles (s : State) (site : Nat) : List Nat := (List.range 32).filter fun t => siteOf s t == some site

/-- Logical tiles of a site that are not given up. -/
def liveTiles (s : State) (site : Nat) : List Nat := (siteTiles s site).filter fun t => getObj s (oTileState t) != 3

/-- The partition that owns a logical tile (R296). -/
def tileOwner (s : State) (t : Nat) : Option Nat := (List.range 16).find? fun p => decide (pState s p ≠ 0) && inMask s p t

/-- Mesh hops between two positions of a die (R163). -/
def meshHops (a b : Nat) : Nat :=
  let d (x y : Nat) : Nat := if x ≤ y then y - x else x - y
  d (a % 4) (b % 4) + d (a / 4) (b / 4)

/-- Resident and working pages that a logical tile's image declares for a bank (R162). -/
def declared (s : State) (p t b : Nat) : Nat :=
  match (getPart s p).loaded with
  | none => 0
  | some l => if l.binding.contains t then (l.plan.getD (l.binding.idxOf t) []).getD b 0 else 0

/-- A physical tile can take logical tile `t` of partition `p` (R580). -/
def canFold (s : State) (p t site : Nat) : Bool :=
  match siteTiles s site with
  | [u] => getObj s (oTileState u) != 3 && inMask s p u && !(s.fab.evac.any fun e => e.site == site) &&
      (List.range 16).all fun b => decide (declared s p t b + declared s p u b ≤ 48)
  | _ => false

/-- The fold target of a failed site: one live logical tile, its partition, the nearest physical tile of the die, the lower position on a tie (R580). -/
def foldTarget (s : State) (site : Nat) : Option (Nat × Nat) :=
  match siteTiles s site with
  | [t] => match tileOwner s t with
    | none => none
    | some p =>
      let cands := ((List.range 8).map fun i => site / 8 * 8 + i).filter fun x => x != site && canFold s p t x
      ((List.range 8).findSome? fun h => cands.find? fun x => meshHops (site % 8) (x % 8) == h).map fun x => (p, x)
  | _ => none

/-! ### Kills of a fault -/

/-- A command holds a pin or a shadow page on a site. -/
def holdsSite (y : Slot) (site : Nat) : Bool := (y.run.pins ++ y.run.shadows).any fun f => f.frame / 768 == site

/-- Every uncommitted command that is dispatched on a site's queues or holds a page of it is killed (R581). -/
def killSite (site : Nat) (s : State) : State :=
  allQueues.foldl (fun s e =>
    let x := getQueue s e.1 e.2
    (slotsBetween e.1 x.commit x.tail).foldl (fun s sl =>
      if (decide (e.1 < 32) && siteOf s e.1 == some site) || holdsSite (getSlot s e.1 e.2 sl) site then startKill true false 0 e.1 e.2 sl s else s) s) s

/-- No kill and no granted commit with pages on a site is outstanding. -/
def siteQuiet (s : State) (site : Nat) : Bool :=
  allQueues.all fun e =>
    let x := getQueue s e.1 e.2
    (slotsBetween e.1 x.commit x.tail).all fun sl =>
      let y := getSlot s e.1 e.2 sl
      match y.phase with
      | .killing _ _ | .granted => !((decide (e.1 < 32) && siteOf s e.1 == some site) || holdsSite y site)
      | _ => true

/-! ### Tile faults (R580 to R582) -/

/-- A load into a partition stops at a tile fault (R189, R587). -/
def stopLoadOf (p : Nat) (s : State) : State :=
  match s.fab.load with
  | some r => if r.part = p then stopLoad r s else s
  | none => s

/-- The record of a tile fault. -/
def tileRecord (site target cycles : Nat) (s : State) : State := capture 0x0607 31 site target cycles 0 s

/-- A site is given up: its logical tiles read state 0x03, it gets its learned entry, and its partition a hardware fault (R582). -/
def loseSite (site : Nat) (s : State) : State :=
  let ts := siteTiles s site
  let owner := ts.findSome? (tileOwner s)
  let s := killSite site s
  let s := ts.foldl (fun s t => setObj (oTileState t) 3 s) s
  let s := tileRecord site 0xFF 0 (learn 2 (site / 8) (site % 8) 0 0 s)
  match owner with
  | some p => jobFault p 2 ts true (stopLoadOf p s)
  | none => s

/-- Loans on a tile are reclaimed, after those under way (R581). -/
def reclaimTile (p t : Nat) (s : State) : State :=
  if loansOn s p t = [] ∨ (getPart s p).reclaiming.contains t = true then s
  else if (getPart s p).reclaiming = [] then startReclaim p [t] s
  else updPart p (fun x => { x with reclaiming := x.reclaiming ++ [t] }) s

/-- Cycles 0 and 1 of R581: dispatch on the site and the partition's grants stop, commands are killed, loans are reclaimed. -/
def startMove (site target p : Nat) (s : State) : State :=
  let s := stopLoadOf p s
  let s := { s with fab := { s.fab with evac := s.fab.evac ++ [{ site := site, target := target, start := cycle s, part := p }] } }
  let s := killSite site (updPart p (fun x => { x with grantsHeld := true }) s)
  let s := (siteTiles s site).foldl (fun s t => reclaimTile p t s) s
  perturb s

/-- The moves that end with a fault of their target: their sites are given up too (R571). -/
def loseMoves (target : Nat) (s : State) : State :=
  let gone := s.fab.evac.filter fun e => e.target == target
  let s := { s with fab := { s.fab with evac := s.fab.evac.filter fun e => e.target != target } }
  gone.foldl (fun s e =>
    let s := if s.fab.evac.any (fun x => x.part == e.part) then s else updPart e.part (fun x => { x with grantsHeld := false }) s
    loseSite e.site s) s

/-- A site has failed: its tiles are moved where they can be, or given up. While Weir restarts no move starts: the fault waits (R581, R582, R584). -/
def failSite (site : Nat) (compute : Bool) (s : State) : State :=
  if s.pw.computeOff = false ∧ liveTiles s site ≠ [] ∧ s.fab.evac.any (fun e => e.site == site) = false then
    match compute, foldTarget s site with
    | true, some (p, x) =>
      if weirReady s then startMove site x p (loseMoves site s)
      else if s.fab.faultWaits.contains site then s
      else { s with fab := { s.fab with faultWaits := s.fab.faultWaits ++ [site] } }
    | _, _ => releaseResets (loseSite site (loseMoves site s))
  else s

/-- TILE_FAULT: a datapath check fails (`compute`), or the SRAM, command store or network interface does (R581, R582). -/
def execTileFault (site : Nat) (compute : Bool) (s : State) : Out := whenLive s (failSite site compute)

/-- The faults that waited for Weir begin their recovery (R584). -/
def resumeFaults (s : State) : State :=
  s.fab.faultWaits.foldl (fun s site => failSite site true s) { s with fab := { s.fab with faultWaits := [] } }

/-- WEIR_RESTART_COMPLETE: the mask ROM boots Weir again, without the activation record (R584). -/
def execWeirRestartComplete (s : State) : Out := whenLive s fun s =>
  match s.fw.weirRestart with
  | none => s
  | some lost =>
    match bootSlot s with
    | some t => resumeFaults (runWeir t lost s)
    | none => { s with fw := { s.fw with weirUp := false, weirRestart := none } }

/-- Where each page of a site goes: the free pages of the same bank of the target, lowest first (R581). -/
def moveTable (s : State) (site target : Nat) : List (Nat × Nat) :=
  (List.range 16).flatMap fun b =>
    let busy := ((List.range 48).map fun i => fKey site (b * 48 + i)).filter fun k => (getFrame s k).st != .free
    let free := ((List.range 48).map fun i => fKey target (b * 48 + i)).filter fun k => (getFrame s k).st == .free
    busy.zip free

/-- Every page of the site has a free page to go to. -/
def moveFits (s : State) (site target : Nat) : Bool :=
  (List.range 16).all fun b => decide (48 - countFrames s site b .free ≤ countFrames s target b .free)

/-- A frame's new place. -/
def movedTo (tbl : List (Nat × Nat)) (k : Nat) : Nat :=
  match tbl.find? fun e => e.1 == k with
  | some e => e.2
  | none => k

/-- Pins and shadow pages follow the pages they name. -/
def movePins (tbl : List (Nat × Nat)) (s : State) : State :=
  allQueues.foldl (fun s e =>
    let x := getQueue s e.1 e.2
    (slotsBetween e.1 x.commit x.tail).foldl (fun s sl =>
      updSlot e.1 e.2 sl (fun y => { y with run := { y.run with pins := y.run.pins.map fun f => { f with frame := movedTo tbl f.frame }, shadows := y.run.shadows.map fun f => { f with frame := movedTo tbl f.frame } } }) s) s) s

/-- The copy of a site's pages, with their logical page numbers, states and pins, and the map switch (R581). -/
def moveSite (site target : Nat) (s : State) : State :=
  let tbl := moveTable s site target
  let ts := siteTiles s site
  let maps := ts.flatMap fun t => (List.range 768).filterMap fun lp => (mappedFrame s t lp).map fun k => (t, lp, movedTo tbl k % 768 + 1)
  let s := tbl.foldl (fun s e => freeFrameAt e.1 (setFrame e.2 (getFrame s e.1) s)) s
  let s := maps.foldl (fun s e => setPageMap e.1 e.2.1 e.2.2 s) s
  let s := movePins tbl s
  let s := ts.foldl (fun s t => { s with fab := { s.fab with siteOf := mapSet 0 s.fab.siteOf t (target + 1) } }) s
  (siteTiles s target).foldl (fun s t => setObj (oTilePhysical t) target (setObj (oTileFold t) (siteTiles s target).length s)) s

/-- TILE_MOVE_COMPLETE: with the kills done and the loans back, the pages are on the target and grants resume (R581). -/
def execTileMoveComplete (site : Nat) (s : State) : Out := whenLive s fun s =>
  match s.fab.evac.find? fun e => e.site == site with
  | none => s
  | some e =>
    if s.pw.computeOff = false ∧ siteQuiet s site = true ∧ moveFits s site e.target = true ∧
        ((siteTiles s site).all fun t => (loansOn s e.part t).isEmpty && !((getPart s e.part).reclaiming.contains t)) = true then
      let s := moveSite site e.target s
      let s := { s with fab := { s.fab with evac := s.fab.evac.filter fun x => x.site != site } }
      let s := tileRecord site e.target (cycle s - e.start) (learn 2 (site / 8) (site % 8) 0 0 s)
      let s := if s.fab.evac.any (fun x => x.part == e.part) then s else updPart e.part (fun x => { x with grantsHeld := false }) s
      releaseResets s
    else s

/-! ### Uncorrectable words (R575, R582) -/

/-- First address of a tile's command store in a record of code 0x0609: after its 48 MiB of SRAM (DESIGN CHOICE, log entry 58). -/
def commandStoreAt : Nat := 0x3000000

/-- The logical page of a tile that a frame is mapped to. -/
def pageOfFrame (s : State) (t k : Nat) : Option Nat := (List.range 768).find? fun lp => mappedFrame s t lp == some k

/-- What the loaded image gives a resident page of a logical tile: length and weights offset. -/
def residentSource (s : State) (p t lp : Nat) : Option (Nat × Nat) :=
  match (getPart s p).loaded with
  | none => none
  | some l => (l.resident.find? fun e => l.binding.getD e.1 32 == t && e.2.1 == lp).map fun e => (e.2.2.1, e.2.2.2)

/-- A resident page reloaded from copy 1 (R187, R582). -/
def reloadPage (p k len off : Nat) (s : State) : State :=
  let f := getFrame s k
  setFrame k { f with page := pageOf (readBytes (regionByte s p s.ci.serial) off len) } s

/-- A 16-byte word of a frame holds what the read left: free values (R574, R582). -/
def spoilWord (k off : Nat) (s : State) : State := useFree (writeFrame k (off / 16 * 16) ((List.range 16).map (Config.freeByte s.free)) s)

/-- An uncorrectable word of tile SRAM (R582). -/
def tileWordError (t address : Nat) (s : State) : State :=
  match siteOf s t with
  | none => s
  | some site =>
    let k := fKey site (address / 65536)
    match (siteTiles s site).findSome? fun u => (pageOfFrame s u k).map fun lp => (u, lp) with
    | none => spoilWord k (address % 65536) s
    | some (u, lp) =>
      match tileOwner s u with
      | none => spoilWord k (address % 65536) s
      | some p => match residentSource s p u lp with
        | some (len, off) => reloadPage p k len off s
        | none => jobFault p 2 [u] false (spoilWord k (address % 65536) s)

/-- An uncorrectable word of a tile's command store: a published command that waits is refused with reason 0x12 (R582). -/
def slotWordError (t address : Nat) (s : State) : State :=
  let i := (address - commandStoreAt) / 64
  let q := i / 256 % 4
  let sl := i % 256
  if slotPublished s t q sl = true ∧ (getSlot s t q sl).phase = .waiting then refuseCommand t q sl 0x12 s else s

/-- A sample set of a stream's delay line repeats the set before it (R380, R575). -/
def concealDelayed (k i : Nat) (s : State) : State :=
  let x := getAudio s k
  match x.sets[i]? with
  | none => s
  | some st =>
    let before := if i = 0 then x.lastGood else ((x.sets[i - 1]?).map (·.words)).getD []
    let ws := (List.range st.words.length).map fun c => validWord (before.getD c 0)
    addObj (oAudioConcealed k) 1 (setAudio k { x with sets := x.sets.set i { st with words := ws } } s)

/-- An overlay frame whose bins hold an error: dropped with reason 0x03 at its deadline, or at once where the half is current (R419, R575). -/
def binError (k : Nat) (s : State) : State :=
  let x := getOverlay s k
  if x.building.isSome then setOverlay k { x with fail := some (3, 0, 0) } s
  else match x.current with
    | none => s
    | some h =>
      let s := setOverlay k { x with current := none } s
      let s := setObj (oOverlayLastOverflow k) (overflowWord (3, 0, 0)) (addObj (oOverlayOverflows k) 1 (addObj oOverlayOverflowsTotal 1 s))
      capture 0x0409 (seqPart s k) k h.o (overflowWord (3, 0, 0)) 0 s

/-- A scan-out line lost: its entry is free again and the line underruns (R388, R575). -/
def lineError (p line : Nat) (s : State) : State :=
  let x := getPort s p
  setPort p { x with entries := x.entries.filter fun (e : LineEntry) => !(e.line == line && e.st == .filled) } s

/-- What an uncorrectable word does, by the SRAM that holds it (R575, R582). -/
def wordError (kind address unit : Nat) (s : State) : State :=
  match kind with
  | 0 => if address < commandStoreAt then tileWordError unit address s else slotWordError unit address s
  | 1 =>
    let s := applyUpdate { object := address % 65536, set := true, value := 0xFFFFFFFF, source := .master 4, part := 16 } s
    match syncOwner s (address % 65536) with
    | some p => jobFault p 2 [] false s
    | none => s
  | 2 => concealDelayed unit address s
  | 3 => binError unit s
  | 4 => lineError unit address s
  | 5 => if rillSupervised s then rillUnresponsive 3 s else s
  | _ => putSlot (address % 65536) (clearMark (mapGet blankSlot s.alm.slots (address % 65536))) s

/-- UNCORRECTABLE_SRAM_ERROR: kind 0 tile, 1 sync store, 2 delay line, 3 bins, 4 line buffer, 5 core memory, 6 Almanac, 7 Weir memory (R575, R582). -/
def execUncorrectableSramError (kind address unit : Nat) (s : State) : Out := whenLive s fun s =>
  if kind = 7 then restartWeir s
  else if kind = 0 ∧ s.pw.computeOff = true then s
  else capture 0x0609 31 kind address unit 0 (wordError kind address unit s)

/-- SRAM_SCRUB: a scrubber's access; a corrected word of tile SRAM is counted (R574, R612). -/
def execSramScrub (kind unit : Nat) (corrected : Bool) (s : State) : Out := whenLive s fun s =>
  if kind = 0 ∧ corrected = true ∧ s.pw.computeOff = false then perfCount 0x0D unit 1 s else s

/-! ### Motion engines and dies (R571, R583) -/

/-- Every command on the units of a motion engine is killed. -/
def killUnits (us : List Nat) (s : State) : State :=
  us.foldl (fun s u =>
    if unitHolder s u = 0 then s
    else
      let h := slotOfKey (unitHolder s u - 1)
      startKill false false 0 h.1 h.2.1 h.2.2 s) s

/-- MOTION_ENGINE_FAULT: its queues are served on the partner's units (R583). -/
def execMotionEngineFault (engine : Nat) (s : State) : Out := whenLive s fun s =>
  if engine < 8 ∧ objExists s (0x2810 + engine) 1 = true ∧ getObj s (oMotionState engine) ≠ 3 ∧ s.pw.computeOff = false then
    let s := killUnits ((List.range 4).map fun u => 576 + engine * 4 + u) s
    let s := { s with fab := { s.fab with motionFailed := engine :: s.fab.motionFailed } }
    let s := learn 7 engine 0 0 0 (setObj (oMotionState engine) 3 s)
    capture 0x0608 31 engine (engine ^^^ 1) 0 0 s
  else s

/-- Units of a compute die besides its tiles: rim, gather and motion engines. -/
def dieEngines (d : Nat) : List Nat := [32 + d, 36 + d, 40 + 2 * d, 41 + 2 * d]

/-- Commands on a die's units are killed. -/
def killDie (d : Nat) (s : State) : State :=
  let s := (List.range 8).foldl (fun s i => killSite (8 * d + i) s) s
  (dieEngines d).foldl (fun s e => (List.range (queuesOf e)).foldl (fun s q =>
    let x := getQueue s e q
    (slotsBetween e x.commit x.tail).foldl (fun s sl => startKill false false 0 e q sl s) s) s) s

/-- COMPUTE_DIE_FAULT: the loss of both stacks of the die, a learned die entry, and every unit in state 0x03 (R571). -/
def execComputeDieFault (die : Nat) (s : State) : Out := whenLive s fun s =>
  if die < 4 ∧ objBit s oMapDies die = true ∧ s.pw.computeOff = false then
    let s := setField oMapDies die die 0 s
    let s := killDie die s
    let s := (List.range 8).foldl (fun s i => (siteTiles s (8 * die + i)).foldl (fun s t => setObj (oTileState t) 3 s) s) s
    let s := (dieEngines die).foldl (fun s e => setObj (oEngState e) 3 s) s
    let s := learn 1 die 0 0 0 s
    let s := if stackUp s (2 * die) then loseStack (2 * die) s else s
    if stackUp s (2 * die + 1) then loseStack (2 * die + 1) s else s
  else s

end Sys2Proof.Machine
end

