-- ==== Sys2Proof/Machine/Power.lean ====
section
/-!
DEFINITION. Power, sensors and trips (R505, R506, R511 to R517, R531), and the boot of Weir at power good (R477, bring-up step 1).
-/

namespace Sys2Proof.Machine

/-! ### Bring-up step objects (R550 to R552, R568) -/

/-- The status of a step that is not done. -/
def notDone : Nat := 0xFDFF0000

/-- Result of step i. -/
def stepResult (s : State) (i : Nat) : Nat := getField s (oBringStatus i) 31 24

/-- bringup.next: the lowest step not done. -/
def nextStepOf (s : State) : Nat := ((List.range 10).find? fun i => decide (1 < stepResult s (i + 1))).getD 10 + 1

/-- Steps `a` to 10 read as not done, and bringup.next follows. -/
def stepsNotDone (a : Nat) (s : State) : State :=
  let s := (List.range 10).foldl (fun s i => if a ≤ i + 1 then setObj (oBringStatus (i + 1)) notDone s else s) s
  setObj oBringupNext (nextStepOf s) s

/-- A step ends: its status, its duration in µs, its record, and bringup.next. -/
def endStep (i result unit count elapsed : Nat) (s : State) : State :=
  let s := setObj (oBringElapsed i) elapsed (setObj (oBringStatus i) (result * 2 ^ 24 + unit * 2 ^ 16 + count % 2 ^ 16) s)
  let s := { s with fab := { s.fab with stepMap := none } }
  capture 0x0101 31 i (getObj s (oBringStatus i)) (getObj s (oBringElapsed i)) 0 (setObj oBringupNext (nextStepOf s) s)

/-! ### Power good and power loss (R435, R468, R477, R505, R506) -/

/-- The communication area at its defaults: every object of index 0x1000 to 0x1FFF but the mirrors of the fuses (R450, R468). -/
def commDefaults (s : State) : State :=
  let nid := getObj s oCanNodeId
  let keep := [oCommProduct, oCommRevision, oCommSerial]
  let s := dropObjs (fun k => inIndex 0x1000 0x1FFF k && !(keep.contains k)) s
  let s := setObj oCommCobEmcy (0x80 + nid) s
  (List.range 8).foldl (fun s t => setObj (oCommTpdoCob t) (if t < 4 then 0x80000180 + 0x100 * t + nid else 0x80000000) s) s

/-- The CAN controller and the communication objects reset, and the node enters pre-operational with its boot-up message (R434, R436). -/
def canReset (s : State) : State :=
  let s := commDefaults s
  let now := getObj s oCanTimestamp
  let c : Can := { Can.init with nmt := 127, bitrate := getObj s oCanBitrate, heartbeatAt := now }
  let s := setField oCanErrors 15 0 0 { s with io := { s.io with can := c } }
  if getObj s oCanNodeId = 0 then s else emit (.can (0x700 + getObj s oCanNodeId) [0]) s

/-- Everything but the flash, the part itself and what the model keeps beside the device is lost, and every clock stops. -/
def powerOff (s : State) : State :=
  { State.reset with pending := s.pending, out := s.out, free := s.free, flash := s.flash, fab := { Fabric.init with board := s.fab.board } }

/-- Flash as delivered. -/
def deliveredFlash (b : Board) (s : State) : State := b.flash.foldl (fun s r => flashWrite r.1 r.2 s) s

/-- The part and its board at power good: the part and its flash are those of the first power good, the straps are read each time. -/
def takeBoard (b : Board) (s : State) : State :=
  let s := if s.fab.board = Board.blank then deliveredFlash b { s with fab := { s.fab with board := b } } else s
  { s with fab := { s.fab with board := { s.fab.board with nodeId := b.nodeId } } }

/-- Weir boots from the active slot, or else from the other one; the Almanac is restored first (R477, R596). Where neither verifies, the failure code that the UART prints is step 1's result (DEDUCED, log entry 85). -/
def bootWeir (elapsed : Nat) (s : State) : State :=
  let a := activation s
  let s := setObj oFwRillSlot a.1.2.2 { restoreAlmanac s with fw := { s.fw with activeWeir := a.1.2.1 } }
  match bootSlot s with
  | some t =>
    let s := if t = s.fw.activeWeir then s else setSlotState s.fw.activeWeir 2 s
    endStep 1 0 0xFF 0 elapsed (runWeir t 0 s)
  | none =>
    let s := setSlotState 0 2 (setSlotState 1 2 s)
    emit (.uart 0x10) (setObj (oBringElapsed 1) elapsed (setObj (oBringStatus 1) 0x10FF0000 s))

/-- POWER_GOOD_AND_WEIR_BOOT: clocks start, the straps are read, the mask ROM verifies and runs a Weir slot (R435, R477, R505, R550). -/
def execPowerGood (board : Board) (elapsed : Nat) (s : State) : Out :=
  if s.pw.pwrgood then .next s
  else
    let s := takeBoard board s
    let s := { s with clk := { s.clk with running := true }, pw := { s.pw with pwrgood := true } }
    let s := setObj oCanNodeId (s.fab.board.nodeId % 128) s
    let s := setObj oCommRevision (s.fab.board.stepping * 2 ^ 16 + 1) s
    .next (bootWeir elapsed (addObj oBringupRuns 1 (canReset s)))

/-- PWRGOOD_LOW (R506). -/
def execPwrgoodLow (s : State) : Out := .next (powerOff s)

/-- HUB_PLL_LOCK_LOSS: every clock stops, as for PWRGOOD low (R531). -/
def execHubPllLockLoss (s : State) : Out := whenLive s powerOff

/-! ### Sensors (R511 to R513, R521 to R523) -/

/-- A sensor of the state. -/
def getSensor (s : State) (i : Nat) : Sensor := mapGet Sensor.init s.pw.sensors i

/-- The part has the sensor: HK-9410 lacks those of dies 2 and 3 and of stacks 4 to 7 (R511, R521). -/
def sensorThere (s : State) (i : Nat) : Bool := !(grade s == 2 && ((decide (24 ≤ i) && decide (i < 48)) || (decide (52 ≤ i) && decide (i < 56)))) && decide (i < 64)

/-- A working sensor that takes part in comparisons. -/
def sensorWorks (s : State) (i : Nat) : Bool := sensorThere s i && !(getSensor s i).failed

/-- A reading with its sensor, as the field maps hold it (R523). -/
def sensorWord (i : Nat) (r : Int) : Nat := i * 2 ^ 16 + ofSigned 16 r

/-- One sensor takes its sample: a failure, or a reading and its warning (R512, R513). -/
def takeSample (i : Nat) (r : Option Int) (s : State) : State :=
  let x := getSensor s i
  let bad := match r with
    | none => true
    | some v => decide (v < -160) || decide (600 < v)
  if sensorThere s i = false ∨ x.failed = true then s
  else if bad then
    let s := capture 0x0201 31 i (ofSigned 32 (r.getD x.reading)) 0 0 s
    { s with pw := { s.pw with sensors := mapPut s.pw.sensors i { x with failed := true, hot := false } } }
  else
    let v := r.getD 0
    let warn : Int := (4 * getObj s oEnvWarnThreshold : Nat)
    let s := { s with pw := { s.pw with sensors := mapPut s.pw.sensors i { x with seen := true, reading := v, hot := decide (440 ≤ v) } } }
    if i < 62 ∧ x.reading < warn ∧ warn ≤ v then capture 0x0202 31 i (ofSigned 32 v) 0 0 (addObj oEnvWarnings 1 s) else s

/-- The hottest working sensor of 0 to 61, the lowest on a tie. -/
def hottest (s : State) : Option (Nat × Int) :=
  ((List.range 62).filter fun i => sensorWorks s i && (getSensor s i).seen).foldl (fun best i =>
    let r := (getSensor s i).reading
    match best with
    | none => some (i, r)
    | some b => if b.2 < r then some (i, r) else some b) none

/-- env.hottest and env.peak follow the readings. -/
def noteHottest (s : State) : State :=
  match hottest s with
  | none => setObj oEnvHottest 0 s
  | some (i, r) =>
    let s := setObj oEnvHottest (sensorWord i r) s
    let first := s.pw.sensors.all fun e => e.2.seen == false || e.1 == i
    if first = true ∨ toSigned 16 (getObj s oEnvPeak % 65536) < r then setObj oEnvPeak (sensorWord i r) s else s

/-- The sensors of each compute die, of each stack, and of the hub die: those that a trip for lack of a working sensor looks at. -/
def sensorGroups : List (List Nat) :=
  ((List.range 4).map fun d => (List.range 12).map fun i => 12 * d + i) ++ ((List.range 8).map fun k => [48 + k]) ++ [(List.range 6).map fun i => 56 + i]

/-- The first present group without a working sensor, of the hub die or not. -/
def blindGroup (s : State) (hub : Bool) : Option (List Nat) :=
  sensorGroups.find? fun g => (g.headD 0 == 56) == hub && g.any (sensorThere s) && !(g.any (sensorWorks s))

/-- The trip that a sample completes on the compute side or on the hub: kind, sensor and second reading (R514). `before` tells which sensors were hot in the sample before. -/
def tripOf (s : State) (before : List Nat) (hub : Bool) : Option (Nat × Nat × Int) :=
  let range := if hub then (List.range 6).map (56 + ·) else List.range 56
  match range.find? fun i => before.contains i && sensorWorks s i && (getSensor s i).hot with
  | some i => some (1, i, (getSensor s i).reading)
  | none => (blindGroup s hub).map fun g => (2, g.headD 0, 0)

/-! ### Trips (R514 to R517, R520) -/

/-- TRIP_N's level, seen outside as land 32. -/
def setTripN (v : Bool) (s : State) : State := if s.pw.tripN = v then s else emit (.pin 32 v) { s with pw := { s.pw with tripN := v } }

/-- The stream of an output or input port sends and takes nothing any more (R515). -/
def quietPort (p : Nat) (s : State) : State :=
  let x := getPort s p
  refreshLevel p (setPort p { x with entries := [], current := none, loading := none, waiting := [], lastFull := none, held := false, blank := [], equalFor := none, inFrame := none } s)

/-- A sequencer enters state 0 at a compute trip: its ports go quiet, its rings stop (R515). -/
def tripSeq (k : Nat) (s : State) : State :=
  if seqState s k = 0 then s
  else
    let s := [getObj s (oSeqInput k), getObj s (oSeqOutput k)].foldl (fun s v =>
      if v / 4096 = 1 then quietPort (v % 256) s else if v / 4096 = 2 ∧ ringOn s (v % 256) = true then stopRing (v % 256) s else s) s
    setWatched k [] (setSeq k Seq.init (setObj (oSeqState k) 0 s))

/-- A running step from 4 on ends with result 0x1E (R520, R550). Its duration is not known: a free value. -/
def tripStep (s : State) : State :=
  match ((List.range 7).map (· + 4)).find? fun i => stepResult s i == 0xFF with
  | some i => useFree (endStep i 0x1E 0xFF 0 (freeNat s 32) (if i = 8 then setObj oClockAlignState 3 s else s))
  | none => s

/-- Time 0 to 1 µs of R515, with the words of the trip cause. -/
def startTrip (t : Nat × Nat × Int) (s : State) : State :=
  let s := setObj oEnvTripCause (t.1 * 2 ^ 28 + sensorWord t.2.1 t.2.2) (addObj oEnvTrips 1 (setObj oEnvState 2 (setTripN false s)))
  let s := (List.range 128).foldl (fun s k => tripSeq k s) { s with st := { s.st with fallback := [] } }
  { tripStep s with pw := { (tripStep s).pw with computeTrip := some (ticks s), declLocked := false } }

/-- A compute trip and its record (R515). -/
def computeTrip (t : Nat × Nat × Int) (s : State) : State :=
  let s := startTrip t s
  capture 0x0203 31 t.2.1 (getObj s oEnvTripCause) 0 0 s

/-- A hub trip: the sequence of a compute trip unless one runs, then every pass-through path stops; one record (R517). -/
def hubTrip (t : Nat × Nat × Int) (s : State) : State :=
  let s := if getObj s oEnvState = 2 then s else startTrip t s
  let s := (List.range 4).foldl (fun s j => if getObj s (oPassthruState j) = 0 then s else setPath j Path.init (setObj (oPassthruState j) 0 s)) s
  let s := { setTripN false s with pw := { (setTripN false s).pw with hubTrip := some (ticks s) } }
  capture 0x0204 31 t.2.1 (getObj s oEnvTripCause) 0 0 s

/-- SENSOR_SAMPLE: failures and warnings of all sensors, then the trips that the sample completes (R511 to R514, R520). -/
def execSensorSample (readings : List (Option Int)) (s : State) : Out := whenLive s fun s =>
  let before := (List.range 64).filter fun i => (getSensor s i).hot
  let s := (List.range 64).foldl (fun s i => takeSample i (readings.getD i none) s) s
  let s := noteHottest s
  let s := match tripOf s before false with
    | some t => if getObj s oEnvState = 2 then s else computeTrip t s
    | none => s
  match tripOf s before true with
  | some t => if s.pw.hubTrip.isSome then s else hubTrip t s
  | none => s

/-- Objects that a compute trip returns to their defaults (R515). -/
def tripObject (key : Nat) : Bool :=
  [(0x2780, 0x27FF), (0x2800, 0x281F), (0x2900, 0x291F), (0x29C0, 0x29CF), (0x2A00, 0x2A2F), (0x2B00, 0x2B7F), (0x3000, 0x30FF), (0x3100, 0x31FF)].any fun r => inIndex r.1 r.2 key

/-- What the fuses give the objects whose default they set (R16, R550): the numbers of the grade's units, and the die of each engine. -/
def fillUnits (s : State) : State :=
  let small := grade s == 2
  let dies := if small then 2 else 4
  let s := setObj oFabricPhysicalTiles (if small then 16 else if grade s = 1 then 28 else 32) s
  let s := setObj oCisternStacks (2 * dies) (setObj oMotionEngines (2 * dies) (setObj oOverlayEngines (2 * dies) s))
  let s := (List.range dies).foldl (fun s d => setObj (oRimDie d) d (setObj (oGatherDie d) d s)) s
  (List.range (2 * dies)).foldl (fun s m => setObj (oMotionDie m) (m / 2) s) s

/-- The links read as not trained: their clocks have stopped. -/
def dropLinks (s : State) : State := setObj oFabricLinks 0 { s with fab := { s.fab with links := [] } }

/-- The compute dies and the stacks lose everything they hold (R515). -/
def loseCompute (s : State) : State :=
  let s := match s.fab.load with
    | some r => stopLoad r s
    | none => s
  let s := dropObjs tripObject s
  let s := setObj oAudioFreeWords 4194304 (if stepResult s 2 = 0 then fillUnits s else s)
  let s := { s with tl := Tiles.init, ci := Cistern.init, st := Streams.init, pt := Parts.init }
  let s := { s with fab := { s.fab with siteOf := [], evac := [], motionFailed := [], resetWaits := [], faultWaits := [] } }
  (List.range 16).foldl (fun s p => updPart p (fun x => { x with fbAllocator := getObj s (oStepFallback p) }) (setObj (oStepAllocator p) (getObj s (oStepCounter p)) s))
    (updateActive (dropLinks s))

/-- TRIP_CLOCK_STOP: 2 µs after a compute trip (R515). -/
def execTripClockStop (s : State) : Out := whenLive s fun s =>
  match s.pw.computeTrip with
  | none => s
  | some t =>
    if s.pw.computeOff = false ∧ t + 2 * usTicks ≤ ticks s then
      let s := refreshPins (loseCompute s)
      let s := setField oClockPllLock 3 0 0 (setField oClockPllLock 23 8 0 s)
      let s := if (List.range 7).any (fun i => stepResult s (i + 4) == 0x1E) then stepsKeep s else stepsNotDone 4 s
      { s with pw := { s.pw with computeOff := true } }
    else s
where
  /-- The step that the trip ended keeps its error; the others from 4 on read as not done (R520). -/
  stepsKeep (s : State) : State :=
    let s := (List.range 7).foldl (fun s i => if stepResult s (i + 4) = 0x1E then s else setObj (oBringStatus (i + 4)) notDone s) s
    setObj oBringupNext (nextStepOf s) s

/-- HUB_TRIP_CLOCK_STOP: 2 ms after a hub trip every clock of the hub stops (R517). -/
def execHubTripClockStop (s : State) : Out := whenLive s fun s =>
  match s.pw.hubTrip with
  | none => s
  | some t => if t + 2000 * usTicks ≤ ticks s then { s with clk := { s.clk with running := false } } else s

end Sys2Proof.Machine
end

