-- ==== Sys2Proof/Machine/BringUp.lean ====
section
/-!
DEFINITION. Bring-up steps 2 to 10 (20_bring_up.md R550 to R569, R529): their acceptance, conditions, work and results, the defect map and the maps made from it.
-/

namespace Sys2Proof.Machine

/-! ### Acceptance (R550, R551, R584) -/

/-- A step is done, fully or reduced. -/
def bringDone (s : State) (i : Nat) : Bool := decide (stepResult s i ≤ 1)

/-- A step runs. -/
def stepRuns (s : State) (i : Nat) : Bool := stepResult s i == 0xFF

/-- The device accepts a run of step i. -/
def stepAccepted (s : State) (i : Nat) : Bool :=
  decide (2 ≤ i) && decide (i ≤ 10) && weirReady s && ((List.range 10).all fun j => (decide (i ≤ j + 1) || bringDone s (j + 1)) && !(stepRuns s (j + 1))) &&
    !(decide (i ≤ 3) && bringDone s i) && !(i == 9 && s.fw.reading.isSome) &&
    (!(decide (4 ≤ i) && bringDone s i) || (List.range 16).all fun p => pState s p == 0)

/-- The four declarations hold values in range (R518). -/
def declared4 (s : State) : Bool :=
  let inside (k lo hi : Nat) : Bool := decide (lo ≤ getObj s k) && decide (getObj s k ≤ hi)
  inside oEnvInletMax 18 35 && inside oEnvFlowMin 20 40 && inside oEnvGlycol 28 32 && inside oEnvRails 1 1

/-- env.hottest reads at or above env.trip_release after a compute trip (R516). -/
def tooHot (s : State) : Bool := getObj s oEnvState == 2 && decide ((4 * getObj s oEnvTripRelease : Nat) ≤ toSigned 16 (getObj s oEnvHottest % 65536))

/-- The failure of a step whose condition is false when its command is accepted. -/
def stepCondition (s : State) (i : Nat) : Option Nat :=
  match i with
  | 4 => if tooHot s then some 0x12 else none
  | 5 => if declared4 s = true ∧ getObj s oEnvState = 1 then none else some 0x10
  | 8 => if getObj s oClockRefDeclared = 1 then none else some 0x11
  | 10 => if getObj s oCompatState = 1 then none else some 0x10
  | _ => none

/-- An accepted step starts: the steps above it become not done; with a false condition it ends at once. Steps 4 to 7 read the defect map as it stands now (R550, R551, R552). -/
def startStep (i : Nat) (s : State) : State :=
  let s := addObj oBringupRuns 1 (setObj (oBringStatus i) 0xFFFF0000 (stepsNotDone (i + 1) s))
  match stepCondition s i with
  | some r =>
    let s := if i = 8 then setObj oClockAlignState 3 (setObj oClockAlignStatus 0x01100000 s) else s
    endStep i r 0xFF 0 0 s
  | none =>
    let s := if i = 8 then setObj oClockAlignState 1 (setField oClockAlignStatus 31 24 0xFF s) else s
    setObj oBringupNext (nextStepOf s) (if 4 ≤ i ∧ i ≤ 7 then { s with fab := { s.fab with stepMap := some (hidingEntries s) } } else s)

/-- A write of bring[i].command (R551, R568). -/
def wBring (m i value : Nat) (s : State) : State × Ack :=
  if value ≠ 1 then (refuse m (oBringCommand i) 1 value s, .refused 1)
  else if stepAccepted s i then (startStep i s, .done)
  else (refuse m (oBringCommand i) 2 value s, .refused 2)

/-- The row of a step: a run that a write has started completes; else the write of the command comes first, and the run that it starts completes. `work` gives result, unit and count. -/
def runStep (m i elapsed : Nat) (work : State → (Nat × Nat × Nat) × State) (s : State) : State :=
  let s := if stepRuns s i then s else (ackWrite (oBringCommand i) (wBring m i 1 s)).1
  if stepRuns s i then
    let r := work s
    endStep i r.1.1 r.1.2.1 r.1.2.2 elapsed r.2
  else s

/-! ### The defect map (R557, R558, R569) -/

/-- An entry of the defect map. -/
def defectAt (s : State) (e : Nat) : Nat × Nat := mapGet (0, 0) s.fab.defects e

/-- An entry of the defect map set. -/
def setDefect (e : Nat) (w : Nat × Nat) (s : State) : State := { s with fab := { s.fab with defects := mapSet (0, 0) s.fab.defects e w } }

/-- Kind, loc_a, loc_b and loc_c of an entry. -/
def entryParts (w : Nat × Nat) : Nat × Nat × Nat × Nat := (bits w.1 27 24, bits w.1 23 16, bits w.1 15 8, bits w.1 7 0)

/-- The entries of a kind in force, those that a running step reads: their locations and word 1. -/
def hiddenOf (s : State) (kind : Nat) : List (Nat × Nat × Nat × Nat) :=
  ((s.fab.stepMap.getD (hidingEntries s)).filter fun e => (entryParts e).1 == kind).map fun e => ((entryParts e).2.1, (entryParts e).2.2.1, (entryParts e).2.2.2, e.2)

/-- Compute dies of the grade. -/
def gradeDies (s : State) : Nat := if grade s = 2 then 2 else 4

/-- A compute die of the grade that no entry hides. -/
def dieUsable (s : State) (d : Nat) : Bool := decide (d < gradeDies s) && !((hiddenOf s 1).any fun e => e.1 == d)

/-- The usable dies. -/
def usableDies (s : State) : List Nat := (List.range 4).filter (dieUsable s)

/-- The links of the grade (R168). -/
def gradeLinks (s : State) : List Nat := if grade s = 2 then [0, 4, 5] else List.range 8

/-- The physical tile at a site is hidden by an entry of its own. -/
def siteHidden (s : State) (site : Nat) : Bool := (hiddenOf s 2).any fun e => e.1 * 8 + e.2.1 == site

/-- A field entry that step 3 accepts: its kind, its locations and their sites (R558). -/
def entryOk (s : State) (w : Nat × Nat) : Bool :=
  let (k, a, b, c) := entryParts w
  let dies := gradeDies s
  match k with
  | 0 => true
  | 1 => decide (a < dies)
  | 2 => decide (a < dies) && decide (b < 8)
  | 3 => decide (a < 2 * dies)
  | 4 => decide (a < 2 * dies) && decide (b < 64)
  | 5 => (gradeLinks s).contains a && decide (b < 16) && decide (c ≤ 16)
  | 6 => decide (a < dies) && decide (b < 8) && decide (bits w.2 27 16 < 3072)
  | 7 => decide (a < 2 * dies)
  | 8 => decide (a < if dies = 2 then 4 else 8)
  | _ => false

/-! ### Step 2: fuses -/

/-- Factory entries take the first places of the map; field entries written before follow them. -/
def loadFactory (s : State) : State :=
  let fs := s.fab.board.factory
  let n := fs.length
  let g := getObj s oDefectFieldCount
  let field := (List.range g).map (defectAt s)
  let all := fs.map (fun w => (w.1 % 2 ^ 30, w.2)) ++ field
  let s := { s with fab := { s.fab with defects := [], repairs := s.fab.board.repairs } }
  let s := (List.range all.length).foldl (fun s i => setDefect i (all.getD i (0, 0)) s) s
  setObj oDefectFactoryCount n (setObj oDefectCount (n + g) s)

/-- Every object whose default the fuses give (R16, R469, R550). -/
def fillFuses (s : State) : State :=
  let b := s.fab.board
  let s := setObj oIdentGrade b.grade (setObj oIdentProduct ([0x9420, 0x9418, 0x9410].getD b.grade 0) s)
  let s := setObj oIdentStepping b.stepping (setObj oIdentSerial b.serial s)
  let s := setObj oCommProduct (getObj s oIdentProduct) (setObj oCommSerial b.serial s)
  loadFactory (fillUnits s)

/-- FUSE_READ: the verdict is 0, or 1 where the fuse check fails, or 2 where the grade fuses disagree. -/
def execFuseRead (m elapsed verdict : Nat) (s : State) : Out := whenFree m (.fuseRead m elapsed verdict) s fun s =>
  runStep m 2 elapsed (fun s => if verdict = 0 then ((0, 0xFF, 0), fillFuses s) else if verdict = 1 then ((0x10, 0xFF, 0), s) else ((0x11, 0xFF, 0), s)) s

/-! ### Step 3: the defect map -/

/-- Tile sites that the factory entries of kinds 1 and 2 hide. -/
def factorySites (s : State) : Nat :=
  let ws := (List.range (getObj s oDefectFactoryCount)).map fun i => entryParts (defectAt s i)
  ((List.range 32).filter fun t => ws.any fun e => (e.1 == 1 && e.2.1 == t / 8) || (e.1 == 2 && e.2.1 * 8 + e.2.2.1 == t)).length

/-- The work of step 3. -/
def mergeDefects (s : State) : Nat × Nat × Nat :=
  let f := getObj s oDefectFactoryCount
  let idx := (List.range (getObj s oDefectFieldCount)).map (f + ·)
  match idx.find? fun e => !(entryOk s (defectAt s e)) with
  | some e => (0x10, 0xFF, e)
  | none =>
    if factorySites s ≠ 32 - getObj s oFabricPhysicalTiles then (0x11, 0xFF, 0)
    else (if idx.any fun e => (entryParts (defectAt s e)).1 != 0 then 1 else 0, 0xFF, getObj s oDefectCount)

/-- DEFECT_MAP_LOAD. -/
def execDefectMapLoad (m elapsed : Nat) (s : State) : Out := whenFree m (.defectMapLoad m elapsed) s fun s => runStep m 3 elapsed (fun s => (mergeDefects s, s)) s

/-! ### Step 4: links (R561) -/

/-- Both ends of a link lie on usable dies or on the hub. -/
def linkTrained (s : State) (k : Nat) : Bool :=
  let e := linkEnds k
  (gradeLinks s).contains k && dieUsable s e.1 && (e.2 == 4 || dieUsable s e.2)

/-- One link trains: hidden lanes and lanes that fail take no data, and each that fails gets its entry. -/
def trainLink (k : Nat) (bad : List (Nat × Nat × Nat × Nat)) (s : State) : State :=
  if linkTrained s k then
    let hidden := ((hiddenOf s 5).filter fun e => e.1 == k).map fun e => (bits e.2.2.2 0 0, e.2.1, e.2.2.1)
    let fails := ((bad.filter fun e => e.1 == k).map (·.2)).eraseDups.filter fun e => !(hidden.contains e)
    let s := setLink k { Link.init with out := hidden.eraseDups ++ fails } s
    let s := setLinkState k (trainedState (getLink s k)) s
    fails.foldl (fun s e => learn 5 k e.2.1 e.2.2 e.1 s) s
  else setLinkState k 0 (setLink k Link.init s)

/-- The link between two dies; 4 is the hub. -/
def linkOf (a b : Nat) : Option Nat := (List.range 8).find? fun k => linkEnds k == (a, b) || linkEnds k == (b, a)

/-- Two dies are joined by a link that is up. -/
def joined (s : State) (a b : Nat) : Bool :=
  match linkOf a b with
  | some k => linkState s k == 1 || linkState s k == 2
  | none => false

/-- A die reaches the hub by its own link, or through die a XOR 1, directly or round the ring (R164, R169). -/
def reachesHub (s : State) (a : Nat) : Bool :=
  let b := a ^^^ 1
  let ring := joined s a (a ^^^ 2) && joined s (a ^^^ 2) (b ^^^ 2) && joined s (b ^^^ 2) b
  joined s a 4 || ((joined s a b || ring) && joined s b 4)

/-- The work of step 4; once done it releases TRIP_N (R516). -/
def trainLinks (bad : List (Nat × Nat × Nat × Nat)) (s : State) : (Nat × Nat × Nat) × State :=
  let dies := usableDies s
  let s := (List.range 8).foldl (fun s k => trainLink k bad s) s
  let cut := dies.filter fun d => !(reachesHub s d)
  let s := cut.foldl (fun s d => learn 1 d 0 0 0 s) s
  let live := dies.filter fun d => !(cut.contains d)
  let s := setObj oMapDies (sumNat (live.map fun d => 2 ^ d)) s
  let s := setTripN true (if getObj s oEnvState = 2 then setObj oEnvState 1 s else s)
  let s := { s with pw := { s.pw with computeOff := false, computeTrip := none } }
  let up := ((gradeLinks s).filter fun k => linkState s k == 1 || linkState s k == 2).length
  if dies = [] then ((1, 0xFF, 0), s)
  else ((if (gradeLinks s).all fun k => linkState s k == 1 then (if cut = [] then 0 else 1) else 1, 0xFF, up), s)

/-- UZOQUIN_LINK_TRAINING: `bad` are the lanes that fail training, as link, direction, group and lane. -/
def execLinkTraining (m elapsed : Nat) (bad : List (Nat × Nat × Nat × Nat)) (s : State) : Out := whenFree m (.linkTraining m elapsed bad) s fun s => runStep m 4 elapsed (trainLinks bad) s

/-! ### Step 5: stacks (R562, R555) -/

/-- Pseudo-channels that a stack has lost: those that the map hides and those that fail training. -/
def lostPcsOf (s : State) (badPcs : List (Nat × Nat)) (k : Nat) : List Nat :=
  (((hiddenOf s 4).filter fun e => e.1 == k).map (·.2.1) ++ (badPcs.filter fun e => e.1 == k).map (·.2)).eraseDups

/-- Stacks that the map leaves to be trained. -/
def stacksToTrain (s : State) : List Nat := (List.range 8).filter fun k => dieUsable s (k / 2) && !((hiddenOf s 3).any fun e => e.1 == k)

/-- Region objects at their defaults (R239). -/
def dropRegions (s : State) : State := dropObjs (inIndex 0x2A20 0x2A2F) s

/-- The work of step 5. -/
def trainStacks (badStacks : List Nat) (badPcs : List (Nat × Nat)) (s : State) : (Nat × Nat × Nat) × State :=
  let dies := usableDies s
  let all := stacksToTrain s
  let bad (k : Nat) : Bool := badStacks.contains k || decide (4 ≤ (lostPcsOf s badPcs k).length)
  let good := all.filter fun k => !(bad k)
  let lost := good.flatMap fun k => (lostPcsOf s badPcs k).map fun c => (k, c)
  let hidden := (hiddenOf s 4).map fun e => (e.1, e.2.1)
  let s1 := (all.filter bad).foldl (fun s k => learn 3 k 0 0 0 s) s
  let s1 := ((badPcs.eraseDups).filter fun e => all.contains e.1 && !(hidden.contains e)).foldl (fun s e => learn 4 e.1 e.2 0 0 s) s1
  let s1 := endMigration s1
  let s1 := dropRegions { s1 with ci := { Cistern.init with lostPcs := lost } }
  let on := decide (2 ≤ good.length)
  let states := sumNat (good.map fun k => (if lost.any (fun e => e.1 == k) then 3 else 1) * 2 ^ (4 * k))
  let s1 := setObj oCisternStackState states s1
  let s1 := setObj oCisternAllocatable (if on then (good.length - 1) * regionStripes else 0) (setCisternState (if on then 1 else 0) s1)
  let s1 := capture 0x0205 31 0 (getObj s oEnvInletMax + getObj s oEnvFlowMin * 2 ^ 8 + getObj s oEnvGlycol * 2 ^ 16) 0 0 { s1 with pw := { s1.pw with declLocked := true } }
  let full := decide (good.length = 2 * gradeDies s) && lost == []
  ((if full then 0 else 1, 0xFF, if dies = [] then 0 else good.length), s1)

/-- HBM_TRAINING: `badStacks` fail as a whole, `badPcs` are the pseudo-channels that fail, as stack and channel. -/
def execHbmTraining (m elapsed : Nat) (badStacks : List Nat) (badPcs : List (Nat × Nat)) (s : State) : Out := whenFree m (.hbmTraining m elapsed badStacks badPcs) s fun s =>
  runStep m 5 elapsed (trainStacks badStacks badPcs) s

/-! ### Step 6: the maps (R157, R158, R556, R559) -/

/-- The physical die that carries logical die `l` (R556). -/
def carrierDie (s : State) (l : Nat) : Nat := if grade s = 2 then l % 2 else l

/-- Logical tiles that find their own physical tile; a site by tile. -/
def homeTiles (s : State) : List (Nat × Nat) :=
  (List.range 32).filterMap fun n =>
    let site := carrierDie s (n / 8) * 8 + n % 8
    if dieUsable s (site / 8) = true ∧ siteHidden s site = false then some (n, site) else none

/-- Logical tiles of a usable die whose physical tile is hidden: tile, and its hidden site. -/
def homeless (s : State) : List (Nat × Nat) :=
  (List.range 32).filterMap fun n =>
    let site := carrierDie s (n / 8) * 8 + n % 8
    if dieUsable s (site / 8) = true ∧ siteHidden s site = true then some (n, site) else none

/-- The nearest site of a die that carries one logical tile, the lower position on a tie (R157). -/
def foldSite (placed : List (Nat × Nat)) (site : Nat) : Option Nat :=
  let cands := ((List.range 8).map fun i => site / 8 * 8 + i).filter fun x => (placed.filter fun e => e.2 == x).length == 1
  (List.range 8).findSome? fun h => cands.find? fun x => meshHops (site % 8) (x % 8) == h

/-- Every homeless tile folded in turn; none, with the die, where one finds no place. -/
def foldAll : List (Nat × Nat) → List (Nat × Nat) → Nat ⊕ List (Nat × Nat)
  | [], placed => .inr placed
  | (n, site) :: rest, placed =>
    match foldSite placed site with
    | some x => foldAll rest (placed ++ [(n, x)])
    | none => .inl (site / 8)

/-- The tile map, or the die on which it is impossible (R158, R559). -/
def tileMap (s : State) : Nat ⊕ List (Nat × Nat) := foldAll (homeless s) (homeTiles s)

/-- tile[n].state, physical and fold from the map. -/
def applyTile (mp : List (Nat × Nat)) (n : Nat) (s : State) : State :=
  match mp.find? fun e => e.1 == n with
  | some e =>
    let s := { s with fab := { s.fab with siteOf := mapSet 0 s.fab.siteOf n (e.2 + 1) } }
    setObj (oTileState n) 0 (setObj (oTilePhysical n) e.2 (setObj (oTileFold n) ((mp.filter fun x => x.2 == e.2).length) s))
  | none =>
    let s := { s with fab := { s.fab with siteOf := mapErase s.fab.siteOf n } }
    setObj (oTileState n) 3 (setObj (oTilePhysical n) 0 (setObj (oTileFold n) 0 s))

/-- Rim, gather and motion engines: state 3 on a die that is not usable, and for a hidden motion engine. -/
def applyEngines (s : State) : State :=
  let n := gradeDies s
  let gone (m : Nat) : Bool := !(dieUsable s (m / 2)) || (hiddenOf s 7).any fun e => e.1 == m
  let s := (List.range n).foldl (fun s d => setObj (oRimState d) (if dieUsable s d then 0 else 3) (setObj (oGatherState d) (if dieUsable s d then 0 else 3) s)) s
  let s := (List.range (2 * n)).foldl (fun s m => setObj (oMotionState m) (if gone m then 3 else 0) s) s
  { s with fab := { s.fab with motionFailed := [] } }

/-- Hidden raster ports read state 4 (R558). -/
def applyPorts (s : State) : State :=
  refreshPins ((List.range 8).foldl (fun s p =>
    if (hiddenOf s 8).any fun e => e.1 == p then setObj (oRasterState p) 4 s
    else if getObj s (oRasterState p) = 4 then setObj (oRasterState p) (if objBit s (oRasterConfig p) 31 then (if objBit s (oRasterConfig p) 30 then 2 else 1) else 0) s
    else s) s)

/-- Row entries of the map and the factory's repairs: site, bank, row. -/
def rowRepairs (s : State) : List (Nat × Nat × Nat) :=
  (s.fab.board.repairs ++ (hiddenOf s 6).map fun (e : Nat × Nat × Nat × Nat) => (e.1 * 8 + e.2.1, bits e.2.2.2 31 28, bits e.2.2.2 27 16)).eraseDups

/-- Folds of the grade's own pattern. -/
def gradeFolds (s : State) : Nat := [0, 4, 16].getD (grade s) 0

/-- The work of step 6. -/
def applyMaps (s : State) : (Nat × Nat × Nat) × State :=
  if usableDies s = [] then ((1, 0xFF, 0), applyPorts (applyEngines ((List.range 32).foldl (fun s n => applyTile [] n s) s)))
  else match tileMap s with
  | .inl die => ((0x10, die, 0), s)
  | .inr mp =>
    let s := (List.range 32).foldl (fun s n => applyTile mp n s) s
    let s := applyPorts (applyEngines { s with fab := { s.fab with repairs := rowRepairs s, evac := [] } })
    let sites := (mp.map (·.2)).eraseDups
    let folds := mp.length - sites.length
    ((if mp.length = 32 ∧ folds ≤ gradeFolds s ∧ hiddenOf s 7 = [] ∧ hiddenOf s 8 = [] then 0 else 1, 0xFF, sites.length), s)

/-- NETWORK_MAP_APPLY. -/
def execNetworkMapApply (m elapsed : Nat) (s : State) : Out := whenFree m (.networkMapApply m elapsed) s fun s => runStep m 6 elapsed applyMaps s

/-! ### Step 7: self-test (R563) -/

/-- Sites that carry a logical tile. -/
def carriedSites (s : State) : List Nat := (List.range 32).filter fun x => (List.range 32).any fun n => siteOf s n == some x

/-- Rows of a bank that a spare replaces. -/
def bankRepairs (s : State) (site bank : Nat) : Nat := (s.fab.repairs.filter fun r => r.1 == site && r.2.1 == bank).length

/-- A site that fails outside its SRAM rows, or in a bank with more repairs than spares, gets its entry. -/
def hideSite (site : Nat) (s : State) : State :=
  if (hidingEntries s).any fun e => (entryParts e).1 == 2 && (entryParts e).2.1 * 8 + (entryParts e).2.2.1 == site then s else learn 2 (site / 8) (site % 8) 0 0 s

/-- A failing row takes a spare, or its tile is hidden when the bank has none left. -/
def repairRow (r : Nat × Nat × Nat) (s : State) : State :=
  if s.fab.repairs.contains r then s
  else if bankRepairs s r.1 r.2.1 < 16 then
    learn 6 (r.1 / 8) (r.1 % 8) 0 (r.2.1 * 2 ^ 28 + r.2.2 * 2 ^ 16) { s with fab := { s.fab with repairs := s.fab.repairs ++ [r] } }
  else hideSite r.1 s

/-- The work of step 7: every tile page is left free and unmapped, and the command stores are cleared (R72, R563). -/
def selfTest (rows : List (Nat × Nat × Nat)) (fails : List Nat) (s : State) : (Nat × Nat × Nat) × State :=
  let sites := carriedSites s
  let worn := sites.filter fun x => (List.range 16).any fun b => decide (16 < bankRepairs s x b)
  let bad := rows.filter fun r => sites.contains r.1
  let s1 := bad.foldl (fun s r => repairRow r s) s
  let s1 := (worn ++ fails.filter sites.contains).foldl (fun s x => hideSite x s) s1
  let s1 := { s1 with tl := { s1.tl with pageMap := [], frames := [], slots := [], queues := [], units := [], loads := [] } }
  let gone := sites.filter fun x => siteHidden s x || worn.contains x || fails.contains x || bad.any fun r => r.1 == x && !(s1.fab.repairs.contains r)
  match gone with
  | x :: _ => ((0x10, x, 0), s1)
  | [] => ((if bad = [] ∧ sites ≠ [] then 0 else 1, 0xFF, sites.length), s1)

/-- TILE_SELF_TEST: `rows` are the failing rows, as site, bank and row; `fails` the sites that fail elsewhere. -/
def execTileSelfTest (m elapsed : Nat) (rows : List (Nat × Nat × Nat)) (fails : List Nat) (s : State) : Out := whenFree m (.tileSelfTest m elapsed rows fails) s fun s =>
  runStep m 7 elapsed (selfTest rows fails) s

/-! ### Step 8: reset alignment (R529, R546, R547) -/

/-- A failed alignment: result, phase and link, with the last round trip. -/
def alignFails (result phase link r : Nat) (s : State) : (Nat × Nat × Nat) × State :=
  ((0x10 + result, link, 0), setObj oClockAlignState 3 (setObj oClockAlignStatus (result * 2 ^ 24 + phase * 2 ^ 20 + link * 2 ^ 16 + r * 2 ^ 8) s))

/-- The PLL lock bits that the alignment needs: those of usable dies, of the PHYs of usable stacks, of the CAN controller. -/
def pllNeeded (s : State) : Nat :=
  2 ^ 25 + 2 ^ 24 + sumNat ((usableDies s).map fun d => 2 ^ d) + sumNat ((presentStacks s).map fun k => 3 * 2 ^ (8 + 2 * k))

/-- A link trims its two receive buffers. -/
def setTrims (k up down : Nat) (s : State) : State := setField oClockLinkTrim (8 * k + 7) (8 * k) (up % 16 * 16 + down % 16) s

/-- The trim that a round trip of r cycles gives: 8 + 22 - ceil (r / 2). -/
def tripTrim (r : Nat) : Int := 30 - (ceilDiv r 2 : Nat)

/-- The round trip that phase 2 measures on a link. -/
def tripAt (f : AlignFacts) (k : Nat) : Nat := ((f.trips.find? fun e => e.1 == k).map (·.2)).getD 0

/-- The moves of a link's trims in phases 4 and 5. -/
def moveAt (f : AlignFacts) (k : Nat) : Int × Int := ((f.moves.find? fun e => e.1 == k).map (·.2)).getD (0, 0)

/-- The alignment has completed. -/
def alignDone (r : Nat) (s : State) : State :=
  setObj oClockAlignState 2 (setObj oClockAlignStatus (0x00700000 + r * 2 ^ 8) { s with clk := { s.clk with started := true, aligned := true } })

/-- The work of step 8; with no usable compute die it only starts the cycle number (R554). -/
def alignReset (f : AlignFacts) (s : State) : (Nat × Nat × Nat) × State :=
  let dies := usableDies s
  if dies = [] then ((0, 0xFF, 0), alignDone 0 s) else
  let used := (gradeLinks s).filter (linkTrained s)
  let hubs := used.filter fun k => decide (4 ≤ k)
  let s := setObj oClockPllLock (f.plls &&& 0x03FFFF0F) s
  match used.find? fun k => !(linkState s k == 1 || linkState s k == 2) with
  | some k => alignFails 2 1 k 0 s
  | none =>
    if f.plls &&& pllNeeded s ≠ pllNeeded s then
      ((0x12, 0xFF, 0), setObj oClockAlignState 3 (setObj oClockAlignStatus 0x02100000 s))
    else match hubs.find? fun k => decide (tripTrim (tripAt f k) < 0) || decide (15 < tripTrim (tripAt f k)) with
    | some k => alignFails 3 2 k (tripAt f k) s
    | none =>
      let r := tripAt f (hubs.getLastD 0)
      let s := { s with clk := { s.clk with started := true } }
      let s := used.foldl (fun s k =>
        let base : Int := if 4 ≤ k then tripTrim (tripAt f k) else 8
        setTrims k (base + (moveAt f k).1).toNat (base + (moveAt f k).2).toNat s) s
      match f.disagree, f.miss with
      | some k, _ => alignFails 4 (if 4 ≤ k then 4 else 5) k r s
      | none, some k => alignFails 5 6 k r s
      | none, none => ((0, 0xFF, dies.length), alignDone r s)

/-- RESET_ALIGNMENT. -/
def execResetAlignment (m elapsed : Nat) (facts : AlignFacts) (s : State) : Out := whenFree m (.resetAlignment m elapsed facts) s fun s => runStep m 8 elapsed (alignReset facts) s

/-! ### Steps 9 and 10 -/

/-- The work of step 9: steps 1 to 5 of R480. -/
def loadRill (s : State) : (Nat × Nat × Nat) × State :=
  let s := finishRillStart (activation s).1.2.2 s
  ((if getObj s oFwRillState = 5 then 0x10 else if getObj s oFwRillState = 4 then 0x11 else 0, 0xFF, 0), s)

/-- RILL_LOAD. -/
def execRillLoad (m elapsed : Nat) (s : State) : Out := whenFree m (.rillLoad m elapsed) s fun s => runStep m 9 elapsed loadRill s

/-- A usable die whose hub link is up. -/
def hubDie (s : State) (d : Nat) : Bool := dieUsable s d && (linkState s (4 + d) == 1 || linkState s (4 + d) == 2)

/-- Every die, stack, tile site and link of the grade serves, and no pseudo-channel is lost. -/
def allServe (s : State) : Bool :=
  (usableDies s).length == gradeDies s && (upStacks s).length == 2 * gradeDies s && (carriedSites s).length == getObj s oFabricPhysicalTiles &&
    ((List.range 32).all fun t => getObj s (oTileState t) != 3) && ((gradeLinks s).all fun k => linkState s k != 4) && s.ci.lostPcs == []

/-- The service level, `ten` standing for step 10 (R553). -/
def serviceWith (s : State) (ten : Bool) : Nat :=
  if !((List.range 8).all fun i => bringDone s (i + 1)) then 0
  else if !(bringDone s 9) || !ten || !((List.range 4).any (hubDie s)) || decide ((upStacks s).length < 2) then 1
  else if allServe s then 3 else 2

/-- bringup.service. -/
def serviceLevel (s : State) : Nat := serviceWith s (bringDone s 10)

/-- The objects that step 10 returns to their defaults (R560). -/
def step10Object (key : Nat) : Bool :=
  [(0x2680, 0x26FF), (0x2780, 0x27FF), (0x2A20, 0x2A2F), (0x2B00, 0x2B7F), (0x3000, 0x30FF), (0x3100, 0x31FF)].any fun r => inIndex r.1 r.2 key

/-- Every queue binding disabled. -/
def unbindAll (s : State) : State :=
  allQueues.foldl (fun s e => if e.2 < 4 ∧ queueEnabled s e.1 e.2 = true then setObj (oBinding e.1 e.2) (setBit (getObj s (oBinding e.1 e.2)) 15 false) s else s) s

/-- The work of step 10 (R487, R560). -/
def openPartitions (s : State) : (Nat × Nat × Nat) × State :=
  let s := unbindAll (dropObjs step10Object s)
  let s := endMigration s
  let s := { s with pt := Parts.init, st := Streams.init, ci := { s.ci with slots := [], pages := [], tags := [], stale := [], rebuilding := none, damaged := [] } }
  let s := setObj oAudioFreeWords 4194304 (updateActive s)
  ((if serviceWith s true < 3 then 1 else 0, 0xFF, 0), s)

/-- PARTITION_CONFIGURATION. -/
def execPartitionConfiguration (m elapsed : Nat) (s : State) : Out := whenFree m (.partitionConfiguration m elapsed) s fun s => runStep m 10 elapsed openPartitions s

/-! ### The window of the defect map (R557, R569) -/

/-- Field entries are writable until step 3 has completed. -/
def fieldOpen (s : State) : Bool := !(bringDone s 3)

/-- A read of defect.data: the word at the cursor, and the cursor moved on. -/
def readDefect (s : State) : Nat × State :=
  let c := getObj s oDefectCursor % 2048
  let w := defectAt s (c / 2)
  (if c % 2 = 0 then w.1 else w.2, setObj oDefectCursor ((c + 1) % 2048) s)

/-- A write of defect.data. -/
def wDefectData (m v : Nat) (s : State) : State × Ack :=
  let c := getObj s oDefectCursor % 2048
  let e := c / 2
  let f := getObj s oDefectFactoryCount
  if fieldOpen s = true ∧ f ≤ e ∧ e < f + getObj s oDefectFieldCount then
    let w := defectAt s e
    let w := if c % 2 = 0 then (2 ^ 30 + (v &&& 0x0FFFFFFF), w.2) else (w.1, v &&& 0xFFFF0001)
    (setObj oDefectCursor ((c + 1) % 2048) (setDefect e w s), .done)
  else (refuse m oDefectData 2 v s, .refused 2)

/-- A write of defect.field_count: new entries read 0, and entries beyond it are gone. -/
def wFieldCount (m v : Nat) (s : State) : State × Ack :=
  let f := getObj s oDefectFactoryCount
  if fieldOpen s = false then (refuse m oDefectFieldCount 2 v s, .refused 2)
  else if 1024 < f + v then (refuse m oDefectFieldCount 1 v s, .refused 1)
  else
    let s := { s with fab := { s.fab with defects := s.fab.defects.filter fun e => decide (e.1 < f + v) } }
    (setObj oDefectFieldCount v (setObj oDefectCount (if bringDone s 2 then f + v else 0) s), .done)

/-- DEFECT_DATA_ACCESS. -/
def execDefectDataAccess (m : Nat) (wr : Option Nat) (s : State) : Out := whenFree m (.defectDataAccess m wr) s fun s =>
  match wr with
  | some v => (ackWrite oDefectData (wDefectData m v s)).1
  | none => answer m (readDefect s).1 (readDefect s).2

end Sys2Proof.Machine
end

