-- ==== Sys2Proof/Machine/Lands.lean ====
section
/-!
DEFINITION. The low-speed lands: the I2C controller (R439, R444), the function mux (R440, R441), and the 1PPS discipline of calendar time (R540, R544).
-/

namespace Sys2Proof.Machine

/-! ### I2C (R439, R444) -/

/-- A byte of the I2C buffer. -/
def i2cByte (s : State) (i : Nat) : Nat := (mapGet (0 : Byte) s.io.lands.i2cBuf i).toNat

/-- A byte of the I2C buffer set. -/
def setI2cByte (i v : Nat) (s : State) : State :=
  { s with io := { s.io with lands := { s.io.lands with i2cBuf := mapSet (0 : Byte) s.io.lands.i2cBuf i (BitVec.ofNat 8 v) } } }

/-- A transaction runs. -/
def i2cRuns (s : State) : Bool := getObj s oI2cStatus == 0xFF

/-- The cursor moved on by one byte, 255 wrapping to 0. -/
def i2cNext (s : State) : State := setObj oI2cCursor ((getObj s oI2cCursor + 1) % 256) s

/-- A write of i2c.command: 0x01 starts a transaction, which sends write_len bytes from the start of the buffer and then asks for read_len bytes. -/
def wI2cCommand (m v : Nat) (s : State) : State × Ack :=
  if v ≠ 1 then (refuse m oI2cCommand 1 v s, .refused 1)
  else if i2cRuns s then (refuse m oI2cCommand 2 v s, .refused 2)
  else
    let bytes : List Byte := (List.range (getObj s oI2cWriteLen)).map fun i => BitVec.ofNat 8 (i2cByte s i)
    (emit (.i2c (getObj s oI2cAddress) bytes (getObj s oI2cReadLen)) (setObj oI2cStatus 0xFF s), .done)

/-- I2C_START: i2c.command is written 0x01. -/
def execI2cStart (m : Nat) (s : State) : Out := whenFree m (.i2cStart m) s fun s => (ackWrite oI2cCommand (wI2cCommand m 1 s)).1

/-- Bytes stored from the start of the buffer on. -/
def fillI2c : Nat → List Byte → State → State
  | _, [], s => s
  | i, b :: bs, s => fillI2c (i + 1) bs (setI2cByte i b.toNat s)

/-- I2C_TRANSACTION_COMPLETE: results 0x00 to 0x03; `data` are the bytes that the target returned, read_len of them at most. -/
def execI2cTransactionComplete (result : Nat) (data : List Byte) (s : State) : Out := whenLive s fun s =>
  if i2cRuns s = true ∧ result ≤ 3 then setObj oI2cStatus result (fillI2c 0 (data.take (getObj s oI2cReadLen)) s) else s

/-- I2C_STRETCH_TIMEOUT: result 0x04, and the bus is cleared. -/
def execI2cStretchTimeout (s : State) : Out := whenLive s fun s => if i2cRuns s then emit .i2cClear (setObj oI2cStatus 4 s) else s

/-- A read of i2c.data. -/
def readI2cData (s : State) : Nat × State := (i2cByte s (getObj s oI2cCursor), i2cNext s)

/-- A write of i2c.data: only while no transaction runs (R444). -/
def wI2cData (m v : Nat) (s : State) : State × Ack :=
  if i2cRuns s then (refuse m oI2cData 2 v s, .refused 2) else (i2cNext (setI2cByte (getObj s oI2cCursor) v s), .done)

/-- I2C_DATA_ACCESS: a write, or a read where `wr` is none. -/
def execI2cDataAccess (m : Nat) (wr : Option Nat) (s : State) : Out := whenFree m (.i2cDataAccess m wr) s fun s =>
  match wr with
  | some v => (ackWrite oI2cData (wI2cData m (v % 256) s)).1
  | none => answer m (readI2cData s).1 (readI2cData s).2

/-! ### The function mux (R440, R441) -/

/-- The function that a land's mux object holds. -/
def muxCode (s : State) (land : Nat) : Nat := getField s (oPinmux land) 3 0

/-- A switch of a land starts: the old driver is released, and a mute request that the land carried ends (R441). -/
def startSwitch (land code : Nat) (s : State) : State :=
  let s := if muxCode s land = 3 ∧ code ≠ 3 then releaseMute s else s
  let s := setObj (oPinmux land) code s
  refreshPin land { s with io := { s.io with lands := { s.io.lands with switching := mapPut s.io.lands.switching land (ticks s) } } }

/-- A write of a land's mux object: codes 0x6 to 0xF are refused, and so is the mute request on a second land (R440). A write that changes nothing starts no switch. -/
def wPinmux (m land v : Nat) (s : State) : State × Ack :=
  let code := v % 16
  if 6 ≤ code then (refuse m (oPinmux land) 1 v s, .refused 1)
  else if code = 3 ∧ ((List.range 32).any fun l => l != land && muxCode s l == 3) = true then (refuse m (oPinmux land) 2 v s, .refused 2)
  else if code = muxCode s land ∧ (mapFind s.io.lands.switching land).isNone = true then (s, .done)
  else (startSwitch land code s, .done)

/-- PIN_FUNCTION_SWITCH. -/
def execPinFunctionSwitch (m land value : Nat) (s : State) : Out := whenFree m (.pinFunctionSwitch m land value) s fun s =>
  if land < 32 then (ackWrite (oPinmux land) (wPinmux m land (value % 256) s)).1 else s

/-- Ticks of the compute clock in the 8 reference cycles of a switch. -/
def switchTicks : Nat := 112

/-- Switches whose eighth cycle has come end, and the new functions start (R441). -/
def endSwitches (s : State) : State :=
  let l := s.io.lands
  let due := l.switching.filter fun e => decide (e.2 + switchTicks ≤ ticks s)
  if due.isEmpty then s
  else
    due.foldl (fun s e => refreshPin e.1 s)
      { s with io := { s.io with lands := { l with switching := l.switching.filter fun e => !(decide (e.2 + switchTicks ≤ ticks s)) } } }

/-- A bit of gpio.in: what the land drives, or the level that a mute request has, else what stands outside. -/
def gpioLevel (s : State) (outside land : Nat) : Bool :=
  match mapFind s.io.lands.driven land with
  | some b => b
  | none => if landFunction s land = 3 then s.io.lands.muteLevel else bit outside land

/-- A read of gpio.in: the levels of lands that the device does not drive are free values. -/
def readGpioIn (s : State) : Nat × State :=
  (sumNat ((List.range 32).map fun l => b2n (gpioLevel s (freeNat s 32) l) * 2 ^ l), useFree s)

/-! ### 1PPS (R540, R544, R548) -/

/-- time.pps_state set; a change is recorded as 0x0509. -/
def setPps (v : Nat) (s : State) : State :=
  if getObj s oTimePpsState = v then s
  else capture 0x0509 31 0 v (getObj s oTimePpsError) 0 (setObj oTimePpsState v s)

/-- A write of time.pps_enable. -/
def wPpsEnable (v : Nat) (s : State) : State × Ack :=
  let was := getObj s oTimePpsEnable
  let s := setObj oTimePpsEnable v s
  let restart : Clocks := { s.clk with ppsEdge := none, ppsErrors := [], ppsGood := 0, ppsFrom := ticks s, ppsSteps := getObj s oTimeSteps }
  if v = was then (s, .done)
  else if v = 0 then (setPps 0 (setObj oTimeRateAdjust 0 { s with clk := restart }), .done)
  else (setPps 1 { s with clk := restart }, .done)

/-- The distance of t from the nearest whole second, in ns; half way between two seconds either may be taken (`up`). -/
def secondError (t : Int) (up : Bool) : Int :=
  let r := t % 1000000000
  if r < 500000000 ∨ (r = 500000000 ∧ up = false) then r else r - 1000000000

/-- Mean of a list of integers, rounded to nearest even; 0 for none. -/
def meanInt (l : List Int) : Int := if l = [] then 0 else roundInt .rne (mkRat (l.foldl (· + ·) 0) l.length)

/-- An edge is accepted: not nearer than 999 ms and not further than 1,001 ms from the last accepted edge, if there is one. -/
def ppsAccepts (s : State) : Bool :=
  match s.clk.ppsEdge with
  | none => true
  | some e => decide (e + 999000 * usTicks ≤ ticks s) && decide (ticks s ≤ e + 1001000 * usTicks)

/-- An accepted edge, from the clocks `c` and the state `was` before it: its error, the rate until the next edge, and the state. The frequency error of an edge is 1 s less the time since the last edge at 5/7 ns to a cycle, in ppb. -/
def ppsMeasure (c : Clocks) (was : Nat) (s : State) : State :=
  let t := (calendar s / 10 * 10 : Nat) - toSigned 32 (getObj s oTimePpsOffset)
  let e := secondError t ((freeNat s 1) == 1)
  let s := if t % 1000000000 = 500000000 then useFree s else s
  let errs := match c.ppsEdge with
    | some p => ((1000000000 - roundInt .rne (mkRat (5 * (ticks s - p : Nat)) 7)) :: c.ppsErrors).take 8
    | none => c.ppsErrors
  let rate := clampSlew (1000 * getObj s oTimeMaxSlew : Nat) (meanInt errs - e)
  let good := if e.natAbs < 1000 then c.ppsGood + 1 else 0
  let loaded := c.ppsSteps != getObj s oTimeSteps
  let s := setObj oTimePpsError (ofSigned 32 e) (setObj oTimeRateAdjust (ofSigned 32 rate) s)
  let s := { s with clk := { s.clk with ppsEdge := some (ticks s), ppsErrors := errs, ppsGood := good, ppsFrom := ticks s, ppsSteps := getObj s oTimeSteps } }
  if loaded = true ∧ 1000000 ≤ e.natAbs then setPps 1 s
  else if 4 ≤ good then setPps 2 s
  else setPps (if was = 3 then 1 else was) s

/-- An accepted edge. A load of calendar time in the same cycle measures it again (R544). -/
def ppsAccepted (s : State) : State :=
  let was := getObj s oTimePpsState
  ppsMeasure s.clk was { s with now := { s.now with pps := some (s.clk, was) } }

/-- PPS_EDGE: a rising edge on PPS_IN, counted whether or not it disciplines calendar time. -/
def execPpsEdge (s : State) : Out := whenLive s fun s =>
  let s := addObj oTimingPpsCount 1 s
  if getObj s oTimePpsEnable = 0 then s
  else if ppsAccepts s then ppsAccepted s
  else addObj oTimePpsRejects 1 s

/-- PPS_LOSS: no edge has been accepted for 3 s; the last rate holds. -/
def execPpsLoss (s : State) : Out := whenLive s fun s =>
  if (getObj s oTimePpsState = 1 ∨ getObj s oTimePpsState = 2) ∧ s.clk.ppsFrom + 3000000 * usTicks ≤ ticks s then
    setPps 3 { s with clk := { s.clk with ppsEdge := none, ppsGood := 0 } }
  else s

end Sys2Proof.Machine
end

