-- ==== Sys2Proof/Machine/Dictionary.lean ====
section
/-!
DEFINITION. The object dictionary as masters see it: what every object reads, and what a write of every object does or why it is refused (R446 to R473 and the object tables of the other chapters).
-/

namespace Sys2Proof.Machine

/-! ### Reads -/

/-- The word of a queue's three pointers (R94, R154). -/
def pointersWord (s : State) (eng q : Nat) : Nat :=
  let x := getQueue s eng q
  let w := if eng < 32 then 2 ^ 9 else 2 ^ 7
  x.tail * w * w + x.head * w + x.commit

/-- An engine's state: idle reads active while a dispatched command has not committed (R93, R154, R238, R269). -/
def engStateRead (s : State) (eng : Nat) : Nat :=
  let v := getObj s (oEngState eng)
  if v = 0 ∧ liveSlots s eng ≠ [] then 1 else v

/-- The book of the bank that book_select names (R65, R93). -/
def bookWord (s : State) (n : Nat) : Nat :=
  match siteOf s n with
  | none => 0x30
  | some x =>
    let c (st : PageState) : Nat := countFrames s x (getObj s (oTileBookSelect n) % 16) st
    c .mapped * 2 ^ 24 + c .shadow * 2 ^ 16 + c .retired * 2 ^ 8 + c .free

/-- A read of an object that every command engine has: `fb` is the subindex of the fallback queue's pointers. -/
def readEngine (eng sub fb : Nat) (key : Nat) (s : State) : Nat × State :=
  if sub = 0x01 then (engStateRead s eng, s)
  else if 0x08 ≤ sub ∧ sub ≤ 0x0B then (pointersWord s eng (sub - 0x08), s)
  else if 0x0C ≤ sub ∧ sub ≤ 0x0F then ((getQueue s eng (sub - 0x0C)).tail, s)
  else if sub = fb then (pointersWord s eng 4, s)
  else if key = oCmdData eng then readCmdData eng s
  else (getObj s key, s)

/-- motion[m].busy: the units that a command occupies. -/
def motionBusy (s : State) (m : Nat) : Nat := sumNat ((List.range 4).map fun u => b2n (unitHolder s (576 + m * 4 + u) != 0) * 2 ^ u)

/-- seq[k].warmup: frames and chunks still to publish (R288). -/
def warmupWord (s : State) (k : Nat) : Nat :=
  match (getSeq s k).warm, (getPart s (getObj s (oSeqPartition k))).loaded with
  | some w, some l =>
    let n := match familyGraph l (getObj s (oSeqFamily k)) 2 0 with
      | some g => g.chunks
      | none => 0
    w.frames.length % 65536 * 65536 + min (w.frames.length * n - w.chunk) 65535
  | _, _ => 0

/-- Output instances that the monitor watches (R329). -/
def watchedCount (s : State) : Nat := sumNat ((List.range 128).map fun k => ((getWatched s k).filter fun w => !w.presented).length)

/-- The streams that an overlay engine serves. -/
def overlayStreams (s : State) (e : Nat) : List Nat := (List.range 128).filter fun k => getObj s (oOverlayEngine k) == e

/-- overlay_engine[e].state: active while a layer's read epoch is open. -/
def overlayStateRead (s : State) (e : Nat) : Nat :=
  let v := getObj s (oOverlayEngineState e)
  if v = 0 ∧ ((overlayStreams s e).any fun k => !(getOverlay s k).epochs.isEmpty) = true then 1 else v

/-- map.retraining (R569). -/
def retrainingWord (s : State) : Nat :=
  let links := sumNat ((List.range 8).map fun k => b2n (linkState s k == 3) * 2 ^ k)
  match s.ci.pcRetrain with
  | some (k, ch) => 2 ^ 31 + k * 2 ^ 28 + ch * 2 ^ 22 + links
  | none => links

/-- env.sensor (R522, R523). -/
def sensorRead (s : State) : Nat :=
  let i := getObj s oEnvSensorSelect
  let x := getSensor s i
  if !(sensorThere s i) then 0 else if x.failed then 2 ^ 31 else 2 ^ 30 + ofSigned 16 x.reading

/-- A bit for each stack that is up. -/
def upStacksWord (s : State) : Nat := sumNat ((upStacks s).map fun k => 2 ^ k)

/-- What a whole object of a function reads: `b` is the function's base index, `i` the instance. -/
def readOf (b i sub key : Nat) (s : State) : Nat × State :=
  if b = 0x2900 then if sub = 0x14 then (bookWord s i, s) else readEngine i sub 0x100 key s
  else if b = 0x29C0 then readEngine (32 + i) sub 0x10 key s
  else if b = 0x2A10 then readEngine (36 + i) sub 0x100 key s
  else if b = 0x2810 then if sub = 0x03 then (motionBusy s i, s) else readEngine (40 + i) sub 0x10 key s
  else if b = 0x2A00 then
    if sub = 0x05 then (freeSlots s, s) else if sub = 0x06 then (reservedTotal s, s) else (getObj s key, s)
  else if b = 0x2A20 then
    if sub = 0x04 then (countSlots s i .mapped, s) else if sub = 0x05 then (countSlots s i .shadow, s)
    else if sub = 0x06 then (countSlots s i .retired, s)
    else if sub = 0x07 then ((s.ci.tags.filter fun t => t.2.part == i).length, s)
    else (getObj s key, s)
  else if b = 0x2B00 ∧ sub = 0x16 then (warmupWord s i, s)
  else if b = 0x3000 ∧ sub = 0x0A then (worstSlowdown s i, s)
  else if b = 0x3001 ∧ sub = 0x07 then (lentTiles s i, s)
  else if b = 0x3001 ∧ sub = 0x08 then (borrowedTiles s i, s)
  else if b = 0x3002 then
    if sub = 0x02 then readAcct i s else if sub = 0x06 then ((getPart s i).marks.length, s)
    else if sub = 0x07 then ((getPart s i).withdrawals.length, s) else (getObj s key, s)
  else if b = 0x3100 ∧ sub = 0x03 then (watchedCount s, s)
  else if b = 0x4000 ∧ sub = 0x02 then (syncCount s (getObj s oSyncCursor % 65536), if filling s then s else syncNext s)
  else if b = 0x2C10 ∧ sub = 0x04 then (b2n (replayHeld s i), s)
  else if b = 0x2C10 ∧ sub = 0x07 then readPeek i s
  else if b = 0x2610 then
    if sub = 0x01 then (overlayStateRead s i, s)
    else if sub = 0x02 then (sumNat ((overlayStreams s i).map fun k => getObj s (oOverlayAlloc k)), s)
    else if sub = 0x03 then (sumNat ((overlayStreams s i).map fun k => getObj s (oOverlayShare k)), s)
    else (getObj s key, s)
  else if b = 0x5104 ∧ sub = 0x06 then readI2cData s
  else if b = 0x5106 ∧ sub = 0x01 then readGpioIn s
  else if b = 0x2000 ∧ sub = 0x0C then compatRead s
  else if b = 0x5000 ∧ sub = 0x0A then fwDataAccess none s
  else if b = 0x2400 ∧ sub = 0x07 then (sensorRead s, s)
  else if b = 0x2200 ∧ sub = 0x09 then (countSlewing s, s)
  else if b = 0x2200 ∧ sub = 0x0A then (countHoldover s, s)
  else if b = 0x2100 ∧ i = 0 ∧ sub = 0x02 then (serviceLevel s, s)
  else if b = 0x4A40 ∧ sub = 0x02 then (perfShown s i, s)
  else if b = 0x2300 then
    if sub = 0x05 then readDefect s else if sub = 0x08 then (upStacksWord s, s)
    else if sub = 0x09 then (retrainingWord s, s) else (getObj s key, s)
  else if b = 0x4800 then
    if sub = 0x02 then almanacRead s else if sub = 0x04 then (almanacState s, s)
    else if sub = 0x05 then (s.alm.used.length, s) else if sub = 0x07 then (almanacOldest s, s)
    else if sub = 0x0D then (s.alm.pending.length, s) else (getObj s key, s)
  else (getObj s key, s)

/-- A read of a whole object that exists; a write-only object reads 0 (R452), subindex 0 the highest subindex (R446). -/
def readWhole (key : Nat) (s : State) : Nat × State :=
  match fnOf (key / 256) with
  | none => (0, s)
  | some (f, i) =>
    match rowOf f.rows (key % 256) with
    | none => (highestSub f.rows, s)
    | some r => if r.acc = .wo then (0, s) else readOf f.base i (key % 256) key s

/-- The row of an object, and whether a subindex is the high half of its pair. -/
def isHigh (r : DictRow) (sub : Nat) : Bool := !((List.range r.count).any fun i => sub == r.sub + i * r.step)

/-- A word that a master reads, with its read latch set or spent (R459). -/
def readWord (m index sub : Nat) (s : State) : Nat × State :=
  let key := index * 256 + sub
  let latch (l : Option (Nat × Nat)) (s : State) : State := setLatches m { getLatches s m with read := l } s
  match objRow key with
  | none => let r := readWhole key s
            (r.1, latch none r.2)
  | some row =>
    if row.width ≠ 64 then
      let r := readWhole key s
      (r.1, latch none r.2)
    else if isHigh row sub then
      let r := readWhole (key - 1) s
      match (getLatches s m).read with
      | some (k, h) => (if k = key - 1 then h else r.1 / 2 ^ 32 % 2 ^ 32, latch none r.2)
      | none => (r.1 / 2 ^ 32 % 2 ^ 32, latch none r.2)
    else
      let r := readWhole key s
      (r.1 % 2 ^ 32, latch (some (key, r.1 / 2 ^ 32 % 2 ^ 32)) r.2)

/-! ### Writes -/

/-- A refused write: a pair is reported at its high half, with the word that was written there (R451, R460). -/
def deny (m key reason v : Nat) (s : State) : State × Ack :=
  if objWidth key = 64 then (refuse m (key + 1) reason (v / 2 ^ 32) s, .refused reason) else (refuse m key reason v s, .refused reason)

/-- A write of a plain object, allowed in the present state (`free`) and with a value in range (`ok`); what is stored. -/
def wPlain (m key v : Nat) (free ok : Bool) (stored : Nat) (s : State) : State × Ack :=
  if free = false then deny m key 2 v s else if ok = false then deny m key 1 v s else (setObj key stored s, .done)

/-- A value within bounds. -/
def inside (lo v hi : Nat) : Bool := decide (lo ≤ v) && decide (v ≤ hi)

/-- A write of an object of a command engine: `share` bounds its expert limits. -/
def wEngine (m eng sub key v lo hi : Nat) (s : State) : State × Ack :=
  if 0x04 ≤ sub ∧ sub ≤ 0x07 then wBinding m eng (sub - 0x04) v s
  else if 0x0C ≤ sub ∧ sub ≤ 0x0F then wTail m eng (sub - 0x0C) v s
  else if key = oCmdCursor eng then wCmdCursor m eng v s
  else if key = oCmdData eng then wCmdData m eng v s
  else if 0x20 ≤ sub then wPlain m key v true (inside lo v hi) v s
  else (s, .quiet)

/-- A write of a tile's objects (R93, R96). -/
def wTile (m n sub key v : Nat) (s : State) : State × Ack :=
  if sub = 0x10 then wBankOwner m n v s
  else if sub = 0x12 then wBankValid m n v s
  else if sub = 0x13 then wPlain m key v true (decide (v < 16)) v s
  else wEngine m n sub key v 1 16 s

/-- A write of the fabric's objects (R191): a load through it reads free bytes for what host memory holds. -/
def wFabric (m sub key v : Nat) (s : State) : State × Ack :=
  if sub = 0x04 then wPlain m key v true (decide (v < 16)) v s
  else if sub = 0x06 then
    let r := wLoadCommand m v (freeBytes s (getObj s (oImgLength (getObj s oFabricLoadSlot)))) s
    if v = 1 then (useFree r.1, r.2) else r
  else if sub = 0x20 then wPlain m key v true true (v % 2) s
  else if sub = 0x21 then wPlain m key v true (inside 1 v 16) v s
  else wPlain m key v true true v s

/-- A write of the Cistern's objects (R236). -/
def wCistern (m sub key v : Nat) (s : State) : State × Ack :=
  if sub = 0x07 then wMargin m v s
  else if sub = 0x08 then wPlain m key v true (decide (v < 16)) v s
  else if sub = 0x0B then wPlain m key v true (decide (v < 4) || v == 0x10) v s
  else if sub = 0x0C then wMigrate m v s
  else if sub = 0x0E then wRetireStack m v s
  else if sub = 0x20 then wPlain m key v true (inside 1 v 8) v s
  else wPlain m key v true true v s

/-- A write of a region's objects (R239). -/
def wRegion (m p sub v : Nat) (s : State) : State × Ack :=
  if sub = 0x01 then wSpan m p v s else if sub = 0x02 then wReserve m p v s else wPlacement m p v s

/-- A rate code that R294 lists. -/
def rateListed (code : Nat) : Bool := rateHz code != 0

/-- A write of a sequencer's objects (R293, R294). -/
def wSeq (m k sub key v : Nat) (s : State) : State × Ack :=
  let off := seqState s k == 0
  if sub = 0x0F then wSeqCommand m k v s
  else if sub = 0x02 then wPlain m key v off (decide (v < 16)) v s
  else if sub = 0x03 then wPlain m key v off (decide (v < 128)) v s
  else if sub = 0x05 then wPlain m key v off (rateListed (bits v 15 12) && rateListed (bits v 11 8)) (v &&& 0xFF01) s
  else if sub = 0x07 then wPlain m key v off (inside 4 v 16) v s
  else if sub = 0x08 ∨ sub = 0x09 then wPlain m key v off (decide (bits v 15 12 ≤ 2)) (v &&& 0xF0FF) s
  else if sub = 0x0A then wPlain m key v off (inside 1 v 16) v s
  else if sub = 0x0C then wPlain m key v off true (v % 2) s
  else wPlain m key v off true v s

/-- A write of a partition's objects (R325). -/
def wPartition (m p sub key v : Nat) (s : State) : State × Ack :=
  let off := decide (pState s p ≤ 1)
  if sub = 0x07 then wPartitionCommand m p v s
  else if sub = 0x02 then wPlain m key v off true (v % 16) s
  else if sub = 0x05 then wPlain m key v off (decide (v ≤ 65536)) v s
  else wPlain m key v off true v s

/-- A write of a loan's objects (R327). -/
def wLoan (m p sub key v : Nat) (s : State) : State × Ack :=
  if sub = 0x05 then wLoanCommand m p v s
  else if sub = 0x01 then wPlain m key v true (decide (v < 32)) v s
  else if sub = 0x03 then wPlain m key v true true (v % 16) s
  else if sub = 0x04 then wPlain m key v true (decide (v < 16)) v s
  else wPlain m key v true true v s

/-- A write of the accounting objects (R328). -/
def wAcct (m p sub key v : Nat) (s : State) : State × Ack :=
  if sub = 0x03 then wAcctClear m p v s
  else if sub = 0x04 then wAcctWithdraw p v s
  else if sub = 0x05 then wAcctRestore p v s
  else wPlain m key v true true (v % 8192) s

/-- A write of the sync window (R339, R340, R345). -/
def wSyncWindow (m sub key v : Nat) (s : State) : State × Ack :=
  if sub = 0x02 then wSync m key true v s
  else if sub = 0x03 then wSync m key false v s
  else if sub = 0x06 then wSyncFill m v s
  else if sub = 0x04 ∧ inside 1 v 65536 = false then deny m key 1 v s
  else wSyncPlain m key v s

/-- A write of a DET parameter (R365). -/
def wDet (m sub key v : Nat) (s : State) : State × Ack :=
  let off := getObj s oDetActive == 0
  if sub = 0x02 then wPlain m key v off (inside 1024 v 65536 && v == 2 ^ Nat.log2 v) v s
  else if sub = 0x03 then wPlain m key v off (inside 512 v 4096) v s
  else if sub = 0x04 then wPlain m key v off (inside 1024 v 8192) v s
  else wPlain m key v off (inside 1 v (15 - getObj s oCisternRebuildShare)) v s

/-- Writable bits of a peek cursor (R366). -/
def peekMask : Nat := 2 ^ 63 + 31 * 2 ^ 58 + (2 ^ 37 - 1) * 4

/-- A write of a replay's controls (R366). -/
def wReplay (m p sub key v : Nat) (s : State) : State × Ack :=
  if sub = 0x03 then wPlain m key v true true (v % 2) (noteHold p s)
  else if sub = 0x05 then wPlain m key v true true (v &&& peekMask) s
  else wPlain m key v true true v (noteHold p s)

/-- A refresh floor lies from 24 Hz to the port's rate (R399). -/
def floorOk (s : State) (p v : Nat) : Bool :=
  let c := getObj s (oRasterConfig p)
  let r := rateHz (bits c 21 18)
  decide (24 ≤ v) && (r == 0 || decide (v * (if bit c 17 then 1001 else 1000) ≤ r * 1000))

/-- A write of a raster port's objects; `b` is the base index of the part of it (R399). -/
def wRaster (m b p sub key v : Nat) (s : State) : State × Ack :=
  let off := !(objBit s (oRasterConfig p) 31)
  if b = 0x2500 then (if sub = 0x02 then wRasterConfig m p v s else wRasterPhase m p v s)
  else if b = 0x2501 then wPlain m key v off true v s
  else if b = 0x2502 then
    (if sub = 0x20 then wPlain m key v off (inside 2 v 15) v s
     else wPlain m key v off (decide (1 ≤ v) && decide (v < getObj s (oRasterLowWatermark p))) v s)
  else if sub = 0x01 ∨ sub = 0x02 then wPlain m key v true true v s
  else if sub = 0x03 then wPlain m key v off (decide (1 ≤ v)) v s
  else wPlain m key v off (floorOk s p v) v s

/-- Bytes and shares of an overlay engine that the streams but one hold. -/
def overlayOthers (s : State) (e k : Nat) (f : Nat → Nat) : Nat := sumNat (((overlayStreams s e).filter (· != k)).map fun j => getObj s (f j))

/-- A write of a stream's overlay objects (R403, R404, R420, R423). -/
def wOverlay (m k sub key v : Nat) (s : State) : State × Ack :=
  let off := seqState s k == 0
  let fits (e a sh : Nat) : Bool := e == 0xFF || (decide (overlayOthers s e k oOverlayAlloc + a ≤ 16777216) && decide (overlayOthers s e k oOverlayShare + sh ≤ 16))
  if sub = 0x01 then
    wPlain m key v off (v == 0xFF || (decide (v < 8) && objExists s (0x2610 + v) 1 && fits v (getObj s (oOverlayAlloc k)) (getObj s (oOverlayShare k)))) v s
  else if sub = 0x02 then wPlain m key v off (v % 65536 == 0 && fits (getObj s (oOverlayEngine k)) v (getObj s (oOverlayShare k))) v s
  else if sub = 0x03 then wPlain m key v off (inside 1 v 16 && fits (getObj s (oOverlayEngine k)) (getObj s (oOverlayAlloc k)) v) v s
  else if sub = 0x04 then wPlain m key v off (inside 500 v 16000) v s
  else if sub % 4 = 0 then wPlain m key v off (decide (2 ≤ bits v 23 16) && decide (1 ≤ bits v 15 0)) (v &&& 0x8FFFFFFF) s
  else if sub % 4 = 1 then wPlain m key v off true v s
  else wPlain m key v off (v % 65536 == 0) v s

/-- A write of the I2C objects (R444). -/
def wI2c (m sub key v : Nat) (s : State) : State × Ack :=
  if sub = 0x07 then wI2cCommand m v s
  else if sub = 0x06 then wI2cData m v s
  else if sub = 0x01 then wPlain m key v (!(i2cRuns s)) (decide (v < 128)) v s
  else if sub = 0x04 then wPlain m key v (!(i2cRuns s)) (decide (v ≤ 2)) v s
  else wPlain m key v (!(i2cRuns s)) true v s

/-- A write of gpio.out: lands of function 0x2 follow (R440). -/
def wGpio (m sub key v : Nat) (s : State) : State × Ack :=
  if sub = 0x02 then (refreshPins (setObj key v s), .done) else wPlain m key v true (decide (v < 8)) v s

/-- A write of a DMA ring's objects (R444, R445). -/
def wDma (m r sub key v : Nat) (s : State) : State × Ack :=
  if sub = 0x02 then wDmaConfig m r v s
  else if sub = 0x03 then wDmaRing m r true v s
  else if sub = 0x05 then wDmaRing m r false v s
  else if sub = 0x06 then wDmaPhase m r v s
  else wPlain m key v true (decide (v < 2048)) v s

/-- A write of the firmware objects (R495): a copy from the host through it reads free bytes. A target code and a source address are judged by the command that uses them (R492). -/
def wFw (m sub key v : Nat) (s : State) : State × Ack :=
  let off := getField s oFwStatus 31 24 != 0xFF
  if sub = 0x05 then wRillKick m v s
  else if sub = 0x06 then
    let r := wFwCommand m v (if v = 4 then some (freeBytes s (getObj s oFwSourceLength)) else none) s
    if v = 4 then (useFree r.1, r.2) else r
  else if sub = 0x09 then wPlain m key v true true (v &&& 0xFFFC) s
  else if sub = 0x0A then ((fwDataAccess (some v) s).2, .done)
  else if sub = 0x0B then wPlain m key v off (decide (v < 2)) v s
  else if sub = 0x20 then wPlain m key v true (inside 20 v 10000) v s
  else if sub = 0x21 then wPlain m key v true (inside 1 v 16) v s
  else wPlain m key v off true v s

/-- A write of a pass-through path's objects (R497); ports and delay are judged by the start that uses them (R488). -/
def wPath (m j sub key v : Nat) (s : State) : State × Ack :=
  let off := getObj s (oPassthruState j) == 0
  if sub = 0x05 then wPassthru m j v s
  else wPlain m key v off true v s

/-- A load reads a host slot (R498). -/
def slotLoading (s : State) (i : Nat) : Bool :=
  match s.fab.load with
  | some r => r.slot == i
  | none => false

/-- A write of a host slot's objects (R498). -/
def wImg (m i sub key v : Nat) (s : State) : State × Ack :=
  let off := !(slotLoading s i)
  if sub = 0x01 then wPlain m key v off (decide (v < 2)) v s
  else if sub = 0x02 then wPlain m key v off (v % 64 == 0) v s
  else wPlain m key v off true v s

/-- A write of a declaration; with all four in range, env.state reads complete unless a trip stands (R518, R522). -/
def wDeclare (m key v lo hi : Nat) (s : State) : State × Ack :=
  if s.pw.declLocked then deny m key 2 v s
  else if inside lo v hi = false then deny m key 1 v s
  else
    let s := setObj key v s
    (if declared4 s = true ∧ getObj s oEnvState = 0 then setObj oEnvState 1 s else s, .done)

/-- A write of the environment's objects (R522). -/
def wEnv (m sub key v : Nat) (s : State) : State × Ack :=
  if sub = 0x01 then wDeclare m key v 18 35 s
  else if sub = 0x02 then wDeclare m key v 20 40 s
  else if sub = 0x03 then wDeclare m key v 28 32 s
  else if sub = 0x04 then wDeclare m key v 1 1 s
  else if sub = 0x06 then wPlain m key v true (decide (v < 64)) v s
  else if sub = 0x20 then wPlain m key v true (inside 80 v 109) v s
  else wPlain m key v true (inside 60 v 105) v s

/-- A commit of time.now: counted and recorded with the old and the new value (R539). A 1PPS edge of the same cycle is measured against the new value (R544), and its captures carry it (R590). -/
def wTimeNow (v : Nat) (s : State) : State × Ack :=
  let old := calendar s
  let s := restampCaptures (addObj oTimeSteps 1 (setObj oTimeNow v { s with clk := { s.clk with calFrac := 0 } }))
  let s := capture 0x0507 31 0 (old % 2 ^ 32) (old / 2 ^ 32) 0 s
  (match s.now.pps with
    | some (c, was) => ppsMeasure c was s
    | none => s, .done)

/-- A write of the calendar's objects (R548). -/
def wTime (m sub key v : Nat) (s : State) : State × Ack :=
  if sub = 0x01 then wTimeNow v s
  else if sub = 0x03 then wPpsEnable v s
  else if sub = 0x04 then wPlain m key v true (decide (-1000000 ≤ toSigned 32 v) && decide (toSigned 32 v ≤ 1000000)) v s
  else wPlain m key v true (inside 1 v 1000) v s

/-- No fallback command of a partition is in any queue. -/
def noFallbacks (s : State) (p : Nat) : Bool :=
  allQueues.all fun e =>
    let k := getQueue s e.1 e.2
    (slotsBetween e.1 k.commit k.tail).all fun sl => !((getSlot s e.1 e.2 sl).fallback && (getSlot s e.1 e.2 sl).part == p)

/-- A write of a step counter, which the allocator follows, or of a seed (R543). -/
def wStep (m p sub key v : Nat) (s : State) : State × Ack :=
  if decide (pState s p ≤ 1) && noFallbacks s p then
    (if sub = 0x01 then setObj (oStepAllocator p) v (setObj key v s) else setObj key v s, .done)
  else deny m key 2 v s

/-- A write of the defect map's objects (R557, R569). -/
def wDefects (m sub key v : Nat) (s : State) : State × Ack :=
  if sub = 0x03 then wFieldCount m v s
  else if sub = 0x05 then wDefectData m v s
  else if sub = 0x04 then wPlain m key v true true (v % 2048) s
  else wPlain m key v true (decide (1 ≤ v)) v s

/-! ### The communication area (R436, R468) -/

/-- The object of a TPDO mapping entry can be read: it exists in the manufacturer area and is not write-only. -/
def mappable (s : State) (w : Nat) : Bool :=
  let index := w / 65536
  let sub := w / 256 % 256
  decide (0x2000 ≤ index) && decide (index ≤ 0x5FFF) && objExists s index sub &&
    match objRow (index * 256 + sub) with
    | some r => r.acc != .wo
    | none => true

/-- The mapping entries of a TPDO in force. -/
def tpdoMap (s : State) (t n : Nat) : List Nat := (List.range n).map fun i => getObj s (oCommTpdoMapping t i)

/-- Bits that a list of mapping entries moves. -/
def mapBits (l : List Nat) : Nat := sumNat (l.map (· % 256))

/-- A write of a TPDO's mapping (R468). -/
def wTpdoMap (m t sub key v : Nat) (s : State) : State × Ack :=
  let n := getObj s (oCommTpdoMapped t)
  let off := objBit s (oCommTpdoCob t) 31
  if sub = 0 then
    if off = false then deny m key 2 v s
    else if 16 < v then deny m key 1 v s
    else if mapBits (tpdoMap s t v) ≤ 512 ∧ (tpdoMap s t v).all (mappable s) = true then (setObj key v s, .done)
    else deny m key 2 v s
  else
    let l := (tpdoMap s t (max n sub)).set (sub - 1) v
    if off = true ∧ mappable s v = true ∧ mapBits (l.take n) ≤ 512 then (setObj key v s, .done) else deny m key 2 v s

/-- A write of a TPDO's parameters: a COB-ID that makes it valid starts its timer and its count of SYNCs (R436, R468). -/
def wTpdo (m t sub key v : Nat) (s : State) : State × Ack :=
  if sub = 0x02 then wPlain m key v true (inside 1 v 240 || decide (0xFE ≤ v)) v s
  else if sub = 0x01 then
    let c := s.io.can
    (setObj key v { s with io := { s.io with can := { c with syncs := mapErase c.syncs t, tpdoAt := mapPut c.tpdoAt t (getObj s oCanTimestamp) } } }, .done)
  else wPlain m key v true true v s

/-- A write of 0x1003:00: 0 clears the history and bit 7 of the error register; other values are refused (R436, R468). -/
def wHistory (m key v : Nat) (s : State) : State × Ack :=
  if v ≠ 0 then deny m key 1 v s
  else
    let s := (List.range 8).foldl (fun s i => setObj (oCommErrorHistory i) 0 s) (setObj key 0 s)
    (setObj oCommErrorRegister (setBit (getObj s oCommErrorRegister) 7 false) s, .done)

/-- A write of the heartbeat time: the timer starts again. -/
def wHeartbeat (key v : Nat) (s : State) : State × Ack :=
  (setObj key v { s with io := { s.io with can := { s.io.can with heartbeatAt := getObj s oCanTimestamp } } }, .done)

/-! ### Every object -/

/-- What a write of a whole object does, where its function is at base index `b` and it is instance `i`: the manufacturer area from 0x2900 to 0x2CFF, and partitions and sync. -/
def writeCompute (m b i sub key v : Nat) (s : State) : State × Ack :=
  if b = 0x2C00 then (if sub = 0x03 then (setObj key ((getObj s key - (getObj s key &&& v)) ||| s.now.numfmt) s, .done) else (setObj key v s, .done))
  else if b = 0x2900 then wTile m i sub key v s
  else if b = 0x29C0 then wEngine m (32 + i) sub key v 2 8 s
  else if b = 0x2A10 then wEngine m (36 + i) sub key v 1 16 s
  else if b = 0x2810 then wEngine m (40 + i) sub key v 1 8 s
  else if b = 0x2980 then wFabric m sub key v s
  else if b = 0x2A00 then wCistern m sub key v s
  else if b = 0x2A20 then wRegion m i sub v s
  else if b = 0x2B00 then wSeq m i sub key v s
  else if b = 0x3000 then wPartition m i sub key v s
  else if b = 0x3001 then wLoan m i sub key v s
  else if b = 0x3002 then wAcct m i sub key v s
  else if b = 0x3180 then wPlain m key v (seqState s i == 0) (inside 200 v 16000) v s
  else if b = 0x4000 then wSyncWindow m sub key v s
  else if b = 0x4010 then (if sub = 0x03 then wHostWatch m i v s else wPlain m key v true true v s)
  else if b = 0x2C01 then wDet m sub key v s
  else if b = 0x2C10 then wReplay m i sub key v s
  else (s, .quiet)

/-- The same for outputs, interfaces and services. -/
def writeInterface (m b i sub key v : Nat) (s : State) : State × Ack :=
  if 0x2500 ≤ b ∧ b ≤ 0x2503 then wRaster m b i sub key v s
  else if b = 0x2700 ∧ sub = 0x03 then wMutePorts v s
  else if b = 0x2700 then wPlain m key v true (sub == 0x03 || decide (v ≤ 10000)) v s
  else if b = 0x2780 then wAudio m i (sub == 0x02) v s
  else if b = 0x2680 then wOverlay m i sub key v s
  else if b = 0x5100 then wPlain m key v true (inside 100 v 100000) v s
  else if b = 0x5102 then wPlain m key v true (decide (v / 16 ≤ 3) && decide (v % 16 ≤ 4)) v s
  else if b = 0x5104 then wI2c m sub key v s
  else if b = 0x5106 then wGpio m sub key v s
  else if b = 0x5108 then wPinmux m (sub - 1) v s
  else if b = 0x5109 then wPinmux m (sub + 15) v s
  else if b = 0x5180 then wDma m i sub key v s
  else if b = 0x2000 then wPlain m key v true true (v % 1024) s
  else if b = 0x5000 then wFw m sub key v s
  else if b = 0x5001 then wPath m i sub key v s
  else if b = 0x5010 then wImg m i sub key v s
  else if b = 0x2400 then wEnv m sub key v s
  else if b = 0x2200 then
    (if sub = 0x03 then wPlain m key v (!(s.clk.aligned)) true v s else wGenlockSlew m v s)
  else if b = 0x2201 then wTime m sub key v s
  else if b = 0x2210 then wStep m i sub key v s
  else if b = 0x2100 then wBring m i v s
  else if b = 0x2300 then wDefects m sub key v s
  else if b = 0x4800 then
    (if sub = 0x03 then wAlmanacCommand m v s else if sub = 0x01 then wPlain m key v true true (v % 2 ^ 19) s else wPlain m key v true true (v % 2) s)
  else if b = 0x4A00 then wPerfCommand m v s
  else if b = 0x4A40 then (if sub = 0x01 then wPerfEvent m i v s else (perfLoad i (v &&& (2 ^ 63 + 2 ^ 48 - 1)) s, .done))
  else (s, .quiet)

/-- The same for the communication area. -/
def writeComm (m b i sub key v : Nat) (s : State) : State × Ack :=
  if b = 0x1003 then wHistory m key v s
  else if b = 0x1017 then wHeartbeat key v s
  else if b = 0x1800 then wTpdo m i sub key v s
  else if b = 0x1A00 then wTpdoMap m i sub key v s
  else wPlain m key v true true v s

/-- What a write of a whole object that software may write does. -/
def writeOf (m b i sub key v : Nat) (s : State) : State × Ack :=
  if b < 0x2000 then writeComm m b i sub key v s
  else if (0x2800 ≤ b ∧ b < 0x4800) then writeCompute m b i sub key v s
  else writeInterface m b i sub key v s

/-- A write of one word by a master: read-only objects are not touched (R452); a pair goes through the write latch (R460); bits above the width are ignored (R448). -/
def writeWord (m index sub v : Nat) (s : State) : State × Ack :=
  let key := index * 256 + sub
  match fnOf index with
  | none => (s, .quiet)
  | some (f, i) =>
    match rowOf f.rows sub with
    | none => (s, .quiet)
    | some r =>
      if r.acc = .ro then (s, .quiet)
      else if r.width = 64 then
        if isHigh r sub then writeHigh m (key - 1) v (writeOf m f.base i (sub - 1) (key - 1)) s else writeLow m key v s
      else writeOf m f.base i sub key (v % 2 ^ r.width) s

/-! ### Rows -/

/-- The abort code of an absent object (R447). -/
def absentAbort (index : Nat) (s : State) : Nat := if absentOnGrade (grade s) index ∨ (fnOf index).isNone = true then 0x06020000 else 0x06090011

/-- An access to an absent object: a read over PCIe answers all ones, a USDO transfer is aborted; it is counted (R447). -/
def absentObject (m index : Nat) (read : Bool) (s : State) : State :=
  if m = 0 then emit (.usdoAbort (absentAbort index s)) (addObj oOdBadAccess 1 s)
  else if read then absentRead m s
  else addObj oOdBadAccess 1 s

/-- ABSENT_ACCESS: a write, or a read where `wr` is none. -/
def execAbsentAccess (m index sub : Nat) (wr : Option Nat) (s : State) : Out := whenFree m (.absentAccess m index sub wr) s fun s =>
  if objExists s index sub then s else absentObject m index wr.isNone s

/-- A write of one word takes its effect and sets the function's mode; an absent object takes none. -/
def writeObject (m index sub v : Nat) (s : State) : State :=
  if objExists s index sub then (ackWrite (index * 256 + sub) (writeWord m index sub v s)).1 else absentObject m index false s

/-- What a BAR offset of a port reaches (R425, R453): an object's word, the sync aperture, a word of the MSI-X table or of its pending bit array, a doorbell, or nothing. -/
inductive BarTarget where
  | object (index sub : Nat)
  | aperture (set : Bool) (offset : Nat)
  | msix (word : Nat)
  | pending (word : Nat)
  | doorbell (ring : Nat)
  | unassigned
deriving DecidableEq, Repr

/-- The target of an offset of BAR0 or BAR2 (R425, R453). -/
def barTarget (bar off : Nat) : BarTarget :=
  if bar = 0 then (if off < 0x1000000 then .object (0x2000 + off / 1024) (off / 4 % 256) else .unassigned)
  else if off < 0x80000 then .aperture (decide (0x40000 ≤ off)) (off % 0x40000)
  else if off < 0x88000 then .msix ((off - 0x80000) / 4)
  else if off < 0x88100 then .pending ((off - 0x88000) / 4)
  else if 0x90000 ≤ off ∧ off < 0x90400 then .doorbell ((off - 0x90000) / 8)
  else if 0x400000 ≤ off ∧ off < 0x800000 then .object (0x1000 + (off - 0x400000) / 1024) (off / 4 % 256)
  else .unassigned

/-- A naturally aligned access of 4 or 8 bytes, with every byte enable set if it writes (R453). -/
def busWhole (off : Nat) : BusOp → Bool
  | .read n => (n == 4 || n == 8) && off % n == 0
  | .write n enables _ => (n == 4 || n == 8) && off % n == 0 && enables == 2 ^ n - 1

/-- A word of a port's BAR read (R425, R447, R452). A doorbell's read is a free value: the spec states none. -/
def busRead (port bar off : Nat) (s : State) : Nat × State :=
  match barTarget bar off with
  | .object index sub => if objExists s index sub then readWord (port + 1) index sub s else (0xFFFFFFFF, addObj oOdBadAccess 1 s)
  | .msix w => (msixWord s port w, s)
  | .pending w => (pendingWord s port w, s)
  | .doorbell _ => (freeNat s 32, useFree s)
  | .aperture _ _ | .unassigned => (0xFFFFFFFF, s)

/-- A word written to a port's BAR (R425). A doorbell's write is DOORBELL_WRITE, which says what host memory holds. -/
def busWrite (port bar off v : Nat) (s : State) : State :=
  match barTarget bar off with
  | .object index sub => writeObject (port + 1) index sub v s
  | .msix w => writeMsixWord port w v s
  | .aperture _ _ | .pending _ | .doorbell _ | .unassigned => s

/-- The answer to a bus read: an object's word leaves the read latch as its read left it (R459). -/
def busAnswer (port bar off v : Nat) (s : State) : State :=
  match barTarget bar off with
  | .object index sub => if objExists s index sub then emit (.readData (port + 1) v) s else answer (port + 1) v s
  | _ => answer (port + 1) v s

/-- A bus access of a port: of one word, or of two, the lower address first (R461); an access that is not naturally aligned, not of 32 or 64 bits, or without all byte enables is ignored, with no effect on a cursor, and a read of it returns all ones (R453). The sync aperture has its own rule (R341), and a read of sync.data waits for the master's own updates (R335). -/
def busAccess (port bar off : Nat) (a : BusOp) (s : State) : State :=
  match barTarget bar off with
  | .aperture set o => apertureAccess port set o a s
  | t =>
    match a with
    | .read n =>
      if busWhole off a = false then answer (port + 1) (2 ^ (8 * n) - 1) s
      else if n = 4 ∧ t = .object (oSyncData / 256) (oSyncData % 256) then readSyncData (port + 1) false s
      else
        let lo := busRead port bar off s
        if n = 4 then busAnswer port bar off lo.1 lo.2
        else
          let hi := busRead port bar (off + 4) lo.2
          busAnswer port bar (off + 4) (lo.1 + hi.1 * 2 ^ 32) hi.2
    | .write n _ v =>
      if busWhole off a = false then s
      else
        let s := busWrite port bar off (v % 2 ^ 32) s
        if n = 4 then s else busWrite port bar (off + 4) (v / 2 ^ 32 % 2 ^ 32) s

/-- OBJECT_WRITE: a word that a master writes to object `x`:`y` (R451), or the PCIe access of master `m` at offset `y` of BAR `x` (R425, R453, R461). -/
def execObjectWrite (m x y : Nat) (a : ObjAccess) (s : State) : Out := whenFree m (.objectWrite m x y a) s fun s =>
  match a with
  | .word value => writeObject m x y value s
  | .bus op => busAccess (m - 1) x y op s

/-- A subindex is the low half, or the high half, of a pair. -/
def pairHalf (index sub : Nat) (high : Bool) : Bool :=
  match objRow (index * 256 + sub) with
  | some r => r.width == 64 && isHigh r sub == high
  | none => false

/-- LOW_HALF_WRITE (R460). -/
def execLowHalfWrite (m index sub value : Nat) (s : State) : Out := whenFree m (.lowHalfWrite m index sub value) s fun s =>
  if pairHalf index sub false then writeObject m index sub value s else s

/-- HIGH_HALF_WRITE (R460). -/
def execHighHalfWrite (m index sub value : Nat) (s : State) : Out := whenFree m (.highHalfWrite m index sub value) s fun s =>
  if pairHalf index sub true then writeObject m index sub value s else s

/-- LOW_HALF_READ (R459). -/
def execLowHalfRead (m index sub : Nat) (s : State) : Out := whenFree m (.lowHalfRead m index sub) s fun s =>
  if pairHalf index sub false then
    if objExists s index sub then
      let r := readWord m index sub s
      emit (.readData m r.1) r.2
    else absentObject m index true s
  else s

end Sys2Proof.Machine
end

