-- ==== Sys2Proof/Machine/Can.lean ====
section
/-!
DEFINITION. The CAN FD node (R434 to R437, R444, R448, R454, R464): network management, heartbeat, TPDOs, USDO transfers and bus errors.
-/

namespace Sys2Proof.Machine

/-- The CAN node changed. -/
def updCan (f : Can → Can) (s : State) : State := { s with io := { s.io with can := f s.io.can } }

/-! ### Network management (R436) -/

/-- NMT_RESET_NODE: the CAN controller and the communication objects only. -/
def execNmtResetNode (s : State) : Out := whenLive s fun s => if canTalks s then canReset s else s

/-- NMT_RESET_COMMUNICATION: the same; a running segmented transfer would be aborted, and none runs between two events. -/
def execNmtResetCommunication (s : State) : Out := whenLive s fun s => if canTalks s then canReset s else s

/-- The node becomes operational: TPDO timers and SYNC counts start. -/
def nmtOperational (s : State) : State :=
  if s.io.can.nmt = 5 then s
  else updCan (fun c => { c with nmt := 5, syncs := [], tpdoAt := (List.range 8).map fun t => (t, getObj s oCanTimestamp) }) s

/-- NMT_START. -/
def execNmtStart (s : State) : Out := whenLive s fun s => if canTalks s then nmtOperational s else s

/-- NMT_STOP. -/
def execNmtStop (s : State) : Out := whenLive s fun s => if canTalks s then updCan (fun c => { c with nmt := 4 }) s else s

/-- NMT_PRE_OPERATIONAL. -/
def execNmtPreOperational (s : State) : Out := whenLive s fun s => if canTalks s then updCan (fun c => { c with nmt := 127 }) s else s

/-- Microseconds of can.timestamp since a time of it. -/
def canSince (s : State) (t : Nat) : Nat := (getObj s oCanTimestamp + 2 ^ 32 - t) % 2 ^ 32

/-- HEARTBEAT_TIMER: the producer time of 0x1017 has passed; 0 disables it. -/
def execHeartbeatTimer (s : State) : Out := whenLive s fun s =>
  let h := getObj s oCommHeartbeat
  if canTalks s = true ∧ 0 < h ∧ h * 1000 ≤ canSince s s.io.can.heartbeatAt then
    emit (.can (0x700 + getObj s oCanNodeId) [BitVec.ofNat 8 s.io.can.nmt]) (updCan (fun c => { c with heartbeatAt := getObj s oCanTimestamp }) s)
  else s

/-! ### TPDOs (R436, R468) -/

/-- The bits of a mapped object, as a read of one word shows them and without the effect of a window's read. -/
def mappedValue (s : State) (w : Nat) : Nat := (readWord 0 (w / 65536) (w / 256 % 256) s).1 % 2 ^ (w % 256)

/-- A TPDO's data: the mapped values, each of its length, from the lowest bit on, in whole bytes. -/
def tpdoData (s : State) (t : Nat) : List Byte :=
  let l := tpdoMap s t (getObj s (oCommTpdoMapped t))
  let r := l.foldl (fun (a : Nat × Nat) w => (a.1 + mappedValue s w * 2 ^ a.2, a.2 + w % 256)) (0, 0)
  leBytes ((r.2 + 7) / 8) r.1

/-- A TPDO goes out; its values may draw on a free value. -/
def sendTpdo (t : Nat) (s : State) : State :=
  emit (.can (getObj s (oCommTpdoCob t) % 2 ^ 11) (tpdoData s t))
    (useFree (updCan (fun c => { c with syncs := mapErase c.syncs t, tpdoAt := mapPut c.tpdoAt t (getObj s oCanTimestamp) }) s))

/-- A TPDO is valid in an operational node. -/
def tpdoOn (s : State) (t : Nat) : Bool := canTalks s && s.io.can.nmt == 5 && !(objBit s (oCommTpdoCob t) 31)

/-- One TPDO at a SYNC: of transmission type n, it goes out at every n-th. -/
def syncTpdo (t : Nat) (s : State) : State :=
  let ty := getObj s (oCommTpdoTransmission t)
  if tpdoOn s t = true ∧ 1 ≤ ty ∧ ty ≤ 240 then
    let n := mapGet 0 s.io.can.syncs t + 1
    if ty ≤ n then sendTpdo t s else updCan (fun c => { c with syncs := mapPut c.syncs t n }) s
  else s

/-- SYNC_MESSAGE: a frame with the COB-ID of 0x1005. -/
def execSyncMessage (cobId : Nat) (s : State) : Out := whenLive s fun s =>
  if cobId = getObj s oCommCobSync % 2 ^ 11 then (List.range 8).foldl (fun s t => syncTpdo t s) s else s

/-- TPDO_EVENT_TIMER: the event time of a TPDO of type 0xFE or 0xFF has passed, and its inhibit time too. -/
def execTpdoEventTimer (t : Nat) (s : State) : Out := whenLive s fun s =>
  let ev := getObj s (oCommTpdoTimer t)
  let since := canSince s (mapGet 0 s.io.can.tpdoAt t)
  if t < 8 ∧ tpdoOn s t = true ∧ 0xFE ≤ getObj s (oCommTpdoTransmission t) ∧ 0 < ev ∧ ev * 1000 ≤ since ∧ getObj s (oCommTpdoInhibit t) * 100 ≤ since then sendTpdo t s
  else s

/-! ### USDO (R436, R448, R451, R454, R464) -/

/-- The USDO server answers in pre-operational and operational. -/
def usdoOn (s : State) : Bool := canTalks s && (s.io.can.nmt == 5 || s.io.can.nmt == 127)

/-- The abort code of a reason (R451). -/
def abortOf (reason : Nat) : Nat := if reason = 1 then 0x06090030 else if reason = 2 then 0x08000022 else if reason = 3 then 0x08000020 else 0x06070010

/-- USDO length of an object in bytes (R448). -/
def usdoLength (index sub : Nat) : Nat :=
  match objRow (index * 256 + sub) with
  | none => 1
  | some r => if r.width ≤ 8 then 1 else if r.width = 16 then 2 else 4

/-- The data subindices of windows (R464). -/
def windowData (index sub : Nat) : Bool :=
  match fnOf index with
  | none => false
  | some (f, i) =>
    (f.base == 0x2900 && sub == 0x16) || (f.base == 0x29C0 && sub == 0x12) || (f.base == 0x2A10 && sub == 0x11) || (f.base == 0x2810 && sub == 0x12) ||
    (f.base == 0x3002 && sub == 0x02) || (f.base == 0x4000 && (sub == 0x02 || sub == 0x03)) || (f.base == 0x2C10 && sub == 0x07) ||
    (f.base == 0x5104 && sub == 0x06) || (f.base == 0x2000 && sub == 0x0C) || (f.base == 0x2300 && sub == 0x05) ||
    (f.base == 0x4800 && sub == 0x02) || (f.base == 0x5000 && sub == 0x0A && i == 0)

/-- A transfer's length is right: the object's own, or for a window's data a multiple of 4 from 4 to 65,536. -/
def usdoLengthOk (index sub n : Nat) : Bool :=
  n == usdoLength index sub || (windowData index sub && n % 4 == 0 && decide (4 ≤ n) && decide (n ≤ 65536))

/-- Bytes cut into words of `w` bytes. -/
def usdoWords (w : Nat) (data : List Byte) : List Nat := (List.range (data.length / w)).map fun i => leNat ((data.drop (i * w)).take w)

/-- A refusal is confirmed with its abort code; a write that takes no effect as one of a read-only object is. -/
def usdoReply (a : Ack) (low : Bool) (s : State) : State :=
  match a with
  | .done => emit .usdoDone s
  | .quiet => if low then emit .usdoDone s else emit (.usdoAbort 0x06010002) s
  | .refused r => emit (.usdoAbort (abortOf r)) s

/-- The words of a download written in turn, up to the first that takes no effect. -/
def downloadWords (index sub : Nat) : List Nat → State → State × Ack
  | [], s => (s, .done)
  | v :: vs, s =>
    let r := ackWrite (index * 256 + sub) (writeWord 0 index sub v s)
    if r.2 = .done then downloadWords index sub vs r.1 else r

/-- A BOOLEAN's byte is 0 or 1 over USDO (R448). -/
def boolBad (index sub v : Nat) : Bool :=
  match objRow (index * 256 + sub) with
  | some r => r.isBool && decide (1 < v)
  | none => false

/-- An object that no write reaches (R452). -/
def readOnly (index sub : Nat) : Bool :=
  match objRow (index * 256 + sub) with
  | some r => r.acc == .ro
  | none => true

/-- A USDO download. -/
def usdoWrite (index sub : Nat) (data : List Byte) (s : State) : State :=
  let key := index * 256 + sub
  if objExists s index sub = false then absentObject 0 index false s
  else if readOnly index sub then emit (.usdoAbort 0x06010002) s
  else if usdoLengthOk index sub data.length = false then emit (.usdoAbort (abortOf 4)) (refuse 0 key 4 (leNat (data.take 4)) s)
  else if boolBad index sub (leNat data) then emit (.usdoAbort (abortOf 1)) (refuse 0 key 1 (leNat data) s)
  else
    let w := if data.length = usdoLength index sub then data.length else 4
    let r := downloadWords index sub (usdoWords w data) s
    usdoReply r.2 (pairHalf index sub false) r.1

/-- USDO_DOWNLOAD (R454). -/
def execUsdoDownload (index sub : Nat) (data : List Byte) (s : State) : Out := whenLive s fun s => if usdoOn s then usdoWrite index sub data s else s

/-- The words of an upload read in turn. -/
def uploadWords (index sub w : Nat) : Nat → State → List Byte × State
  | 0, s => ([], s)
  | n + 1, s =>
    let r := readWord 0 index sub s
    let rest := uploadWords index sub w n r.2
    (leBytes w r.1 ++ rest.1, rest.2)

/-- A USDO upload. A read of sync.data waits while an earlier update of the master does (R335). -/
def usdoRead (index sub : Nat) (len : Option Nat) (s : State) : State :=
  let n := len.getD (usdoLength index sub)
  if objExists s index sub = false then absentObject 0 index true s
  else if usdoLengthOk index sub n = false then emit (.usdoAbort 0x06070010) s
  else if index * 256 + sub = oSyncData ∧ n = usdoLength index sub then readSyncData 0 true s
  else
    let w := if n = usdoLength index sub then n else 4
    let r := uploadWords index sub w (n / w) s
    emit (.usdoData r.1) r.2

/-- USDO_UPLOAD (R454). -/
def execUsdoUpload (index sub : Nat) (len : Option Nat) (s : State) : Out := whenLive s fun s => if usdoOn s then usdoRead index sub len s else s

/-! ### Bus errors (R444) -/

/-- CAN_BUS_ERROR: the controller's error counts, and whether it is now bus-off; entering bus-off is counted. -/
def execCanBusError (tec rec : Nat) (busOff : Bool) (s : State) : Out := whenLive s fun s =>
  if getObj s oCanNodeId = 0 then s
  else
    let n := getField s oCanErrors 31 16 + b2n (busOff && !(s.io.can.busOff))
    setObj oCanErrors (n % 65536 * 65536 + min rec 255 * 256 + min tec 255) (updCan (fun c => { c with busOff := busOff }) s)

end Sys2Proof.Machine
end

