-- ==== Sys2Proof/Machine/Dispatch.lean ====
section
/-!
DEFINITION. One arm per command: each calls the meaning of its command.
-/

namespace Sys2Proof.Machine

/-- What a command does to the device, its queue apart. -/
def exec (i : Instr) (s : State) : Host.Outcome State Fault Refusal :=
  match i with
  | .powerGood board elapsed => Sys2Proof.Machine.execPowerGood board elapsed s
  | .pwrgoodLow => Sys2Proof.Machine.execPwrgoodLow s
  | .fuseRead m elapsed verdict => Sys2Proof.Machine.execFuseRead m elapsed verdict s
  | .defectMapLoad m elapsed => Sys2Proof.Machine.execDefectMapLoad m elapsed s
  | .linkTraining m elapsed bad => Sys2Proof.Machine.execLinkTraining m elapsed bad s
  | .hbmTraining m elapsed badStacks badPcs => Sys2Proof.Machine.execHbmTraining m elapsed badStacks badPcs s
  | .networkMapApply m elapsed => Sys2Proof.Machine.execNetworkMapApply m elapsed s
  | .tileSelfTest m elapsed rows fails => Sys2Proof.Machine.execTileSelfTest m elapsed rows fails s
  | .resetAlignment m elapsed facts => Sys2Proof.Machine.execResetAlignment m elapsed facts s
  | .rillLoad m elapsed => Sys2Proof.Machine.execRillLoad m elapsed s
  | .partitionConfiguration m elapsed => Sys2Proof.Machine.execPartitionConfiguration m elapsed s
  | .defectDataAccess m wr => Sys2Proof.Machine.execDefectDataAccess m wr s
  | .tailWrite m eng q value => Sys2Proof.Machine.execTailWrite m eng q value s
  | .dispatch eng q => Sys2Proof.Machine.execDispatch eng q s
  | .retireRefused eng q sl => Sys2Proof.Machine.execRetireRefused eng q sl s
  | .killComplete eng q sl => Sys2Proof.Machine.execKillComplete eng q sl s
  | .matrixMultiply eng q sl => Sys2Proof.Machine.execMatrixMultiply eng q sl s
  | .slidingWindow eng q sl => Sys2Proof.Machine.execSlidingWindow eng q sl s
  | .fence eng q sl => Sys2Proof.Machine.execFence eng q sl s
  | .elementAdd eng q sl => Sys2Proof.Machine.execElementAdd eng q sl s
  | .elementSubtract eng q sl => Sys2Proof.Machine.execElementSubtract eng q sl s
  | .elementMultiply eng q sl => Sys2Proof.Machine.execElementMultiply eng q sl s
  | .elementMax eng q sl => Sys2Proof.Machine.execElementMax eng q sl s
  | .elementMin eng q sl => Sys2Proof.Machine.execElementMin eng q sl s
  | .elementScaleAdd eng q sl => Sys2Proof.Machine.execElementScaleAdd eng q sl s
  | .elementAffine eng q sl => Sys2Proof.Machine.execElementAffine eng q sl s
  | .rectifier eng q sl => Sys2Proof.Machine.execRectifier eng q sl s
  | .leakyRectifier eng q sl => Sys2Proof.Machine.execLeakyRectifier eng q sl s
  | .elementClamp eng q sl => Sys2Proof.Machine.execElementClamp eng q sl s
  | .piecewiseLinearTable eng q sl => Sys2Proof.Machine.execPiecewiseLinearTable eng q sl s
  | .elementConvert eng q sl => Sys2Proof.Machine.execElementConvert eng q sl s
  | .rowSum eng q sl => Sys2Proof.Machine.execRowSum eng q sl s
  | .rowMaximum eng q sl => Sys2Proof.Machine.execRowMaximum eng q sl s
  | .rowSumOfSquares eng q sl => Sys2Proof.Machine.execRowSumOfSquares eng q sl s
  | .rowMinimum eng q sl => Sys2Proof.Machine.execRowMinimum eng q sl s
  | .maxPooling eng q sl => Sys2Proof.Machine.execMaxPooling eng q sl s
  | .averagePoolingWindow eng q sl => Sys2Proof.Machine.execAveragePoolingWindow eng q sl s
  | .averagePoolingInput eng q sl => Sys2Proof.Machine.execAveragePoolingInput eng q sl s
  | .bilinearResampling eng q sl => Sys2Proof.Machine.execBilinearResampling eng q sl s
  | .bicubicResampling eng q sl => Sys2Proof.Machine.execBicubicResampling eng q sl s
  | .pixelShuffle eng q sl => Sys2Proof.Machine.execPixelShuffle eng q sl s
  | .pixelUnshuffle eng q sl => Sys2Proof.Machine.execPixelUnshuffle eng q sl s
  | .perPixelArgmax eng q sl => Sys2Proof.Machine.execPerPixelArgmax eng q sl s
  | .zeroRunCompression eng q sl => Sys2Proof.Machine.execZeroRunCompression eng q sl s
  | .zeroRunExpansion eng q sl => Sys2Proof.Machine.execZeroRunExpansion eng q sl s
  | .groupedSlidingWindow eng q sl => Sys2Proof.Machine.execGroupedSlidingWindow eng q sl s
  | .convolution2dTransform eng q sl => Sys2Proof.Machine.execConvolution2dTransform eng q sl s
  | .convolutionAlongLines eng q sl => Sys2Proof.Machine.execConvolutionAlongLines eng q sl s
  | .convolutionAlongColumns eng q sl => Sys2Proof.Machine.execConvolutionAlongColumns eng q sl s
  | .regionCopy eng q sl => Sys2Proof.Machine.execRegionCopy eng q sl s
  | .cisternLoad eng q sl => Sys2Proof.Machine.execCisternLoad eng q sl s
  | .cisternStore eng q sl => Sys2Proof.Machine.execCisternStore eng q sl s
  | .multicastCopy eng q sl => Sys2Proof.Machine.execMulticastCopy eng q sl s
  | .stem eng q sl => Sys2Proof.Machine.execStem eng q sl s
  | .head eng q sl => Sys2Proof.Machine.execHead eng q sl s
  | .scaleAndSharpen eng q sl => Sys2Proof.Machine.execScaleAndSharpen eng q sl s
  | .gather eng q sl => Sys2Proof.Machine.execGather eng q sl s
  | .advance eng q sl => Sys2Proof.Machine.execAdvance eng q sl s
  | .release eng q sl => Sys2Proof.Machine.execRelease eng q sl s
  | .pyramidBuild eng q sl => Sys2Proof.Machine.execPyramidBuild eng q sl s
  | .estimate eng q sl => Sys2Proof.Machine.execEstimate eng q sl s
  | .corners eng q sl => Sys2Proof.Machine.execCorners eng q sl s
  | .matchCorners eng q sl => Sys2Proof.Machine.execMatchCorners eng q sl s
  | .warpAndBlend eng q sl => Sys2Proof.Machine.execWarpAndBlend eng q sl s
  | .copyA eng q sl => Sys2Proof.Machine.execCopyA eng q sl s
  | .remoteWrite eng q sl k => Sys2Proof.Machine.execRemoteWrite eng q sl k s
  | .writeAcknowledgement eng q a => Sys2Proof.Machine.execWriteAcknowledgement eng q a s
  | .commitGrant eng q sl => Sys2Proof.Machine.execCommitGrant eng q sl s
  | .remoteCommitMessage eng q sl tile => Sys2Proof.Machine.execRemoteCommitMessage eng q sl tile s
  | .commitSignal eng q sl => Sys2Proof.Machine.execCommitSignal eng q sl s
  | .syncUpdateApply bank => Sys2Proof.Machine.execSyncUpdateApply bank s
  | .watchNotification eng q => Sys2Proof.Machine.execWatchNotification eng q s
  | .cmdDataRead m eng => Sys2Proof.Machine.execCmdDataRead m eng s
  | .cmdDataWrite m eng value => Sys2Proof.Machine.execCmdDataWrite m eng value s
  | .queueBindingWrite m eng q value => Sys2Proof.Machine.execQueueBindingWrite m eng q value s
  | .bankOwnerWrite m tile high valid value => Sys2Proof.Machine.execBankOwnerWrite m tile high valid value s
  | .load m image => Sys2Proof.Machine.execLoad m image s
  | .loadComplete phase => Sys2Proof.Machine.execLoadComplete phase s
  | .unload m => Sys2Proof.Machine.execUnload m s
  | .abortLoad m => Sys2Proof.Machine.execAbortLoad m s
  | .flitCheckFailure link det => Sys2Proof.Machine.execFlitCheckFailure link det s
  | .laneFailure link dir group lost => Sys2Proof.Machine.execLaneFailure link dir group lost s
  | .groupRetrainComplete link dir group => Sys2Proof.Machine.execGroupRetrainComplete link dir group s
  | .linkRetrain link det => Sys2Proof.Machine.execLinkRetrain link det s
  | .linkRetrainComplete link bad agree => Sys2Proof.Machine.execLinkRetrainComplete link bad agree s
  | .linkRetrainRetry link => Sys2Proof.Machine.execLinkRetrainRetry link s
  | .linkSlip x => Sys2Proof.Machine.execLinkSlip x s
  | .cisternLineRead slot line verdict use => Sys2Proof.Machine.execCisternLineRead slot line verdict use s
  | .scrubRead slot line verdict => Sys2Proof.Machine.execScrubRead slot line verdict s
  | .parityUpdate eng q sl k => Sys2Proof.Machine.execParityUpdate eng q sl k s
  | .tagSettle tag => Sys2Proof.Machine.execTagSettle tag s
  | .retiredSlotFree slot => Sys2Proof.Machine.execRetiredSlotFree slot s
  | .migrateStart m => Sys2Proof.Machine.execMigrateStart m s
  | .migrateAbort m => Sys2Proof.Machine.execMigrateAbort m s
  | .pageMigrationSwitch => Sys2Proof.Machine.execPageMigrationSwitch s
  | .retireStack m value => Sys2Proof.Machine.execRetireStack m value s
  | .pcRetrainStart stack ch => Sys2Proof.Machine.execPcRetrainStart stack ch s
  | .pcRetrainComplete stack ch ok => Sys2Proof.Machine.execPcRetrainComplete stack ch ok s
  | .stackLost stack => Sys2Proof.Machine.execStackLost stack s
  | .rebuildComplete => Sys2Proof.Machine.execRebuildComplete s
  | .regionWrite m p sub value => Sys2Proof.Machine.execRegionWrite m p sub value s
  | .sourceGap k => Sys2Proof.Machine.execSourceGap k s
  | .publishStep k => Sys2Proof.Machine.execPublishStep k s
  | .streamStart m k => Sys2Proof.Machine.execStreamStart m k s
  | .streamStop m k => Sys2Proof.Machine.execStreamStop m k s
  | .stopComplete k => Sys2Proof.Machine.execStopComplete k s
  | .forceCut m k => Sys2Proof.Machine.execForceCut m k s
  | .checkpoint k => Sys2Proof.Machine.execCheckpoint k s
  | .fallbackPublishStep k => Sys2Proof.Machine.execFallbackPublishStep k s
  | .abandonedRetire eng q sl => Sys2Proof.Machine.execAbandonedRetire eng q sl s
  | .lateCheck k => Sys2Proof.Machine.execLateCheck k s
  | .outputFrameBoundary output => Sys2Proof.Machine.execOutputFrameBoundary output s
  | .partitionConfigure m p => Sys2Proof.Machine.execPartitionConfigure m p s
  | .partitionStart m p => Sys2Proof.Machine.execPartitionStart m p s
  | .partitionStop m p => Sys2Proof.Machine.execPartitionStop m p s
  | .partitionReset m p => Sys2Proof.Machine.execPartitionReset m p s
  | .resetQueueClear p => Sys2Proof.Machine.execResetQueueClear p s
  | .lend m p => Sys2Proof.Machine.execLend m p s
  | .reclaimTile m p => Sys2Proof.Machine.execReclaimTile m p s
  | .reclaimAll m p => Sys2Proof.Machine.execReclaimAll m p s
  | .reclaimComplete p => Sys2Proof.Machine.execReclaimComplete p s
  | .acctWithdraw m p value => Sys2Proof.Machine.execAcctWithdraw m p value s
  | .acctRestore m p value => Sys2Proof.Machine.execAcctRestore m p value s
  | .withdrawHead eng q => Sys2Proof.Machine.execWithdrawHead eng q s
  | .withdrawalListRetire p => Sys2Proof.Machine.execWithdrawalListRetire p s
  | .acctClear m p value => Sys2Proof.Machine.execAcctClear m p value s
  | .acctDataRead m p => Sys2Proof.Machine.execAcctDataRead m p s
  | .syncDataRead m => Sys2Proof.Machine.execSyncDataRead m s
  | .syncDataWrite m value => Sys2Proof.Machine.execSyncDataWrite m value s
  | .syncAdd m value => Sys2Proof.Machine.execSyncAdd m value s
  | .syncFill m => Sys2Proof.Machine.execSyncFill m s
  | .syncFillComplete => Sys2Proof.Machine.execSyncFillComplete s
  | .apertureAdd port offset a => Sys2Proof.Machine.execApertureAdd port offset a s
  | .apertureSet port offset a => Sys2Proof.Machine.execApertureSet port offset a s
  | .hostWatchArm m w value => Sys2Proof.Machine.execHostWatchArm m w value s
  | .hostWatchDisarm m w value => Sys2Proof.Machine.execHostWatchDisarm m w value s
  | .admissionPoint => Sys2Proof.Machine.execAdmissionPoint s
  | .peekDataRead m p => Sys2Proof.Machine.execPeekDataRead m p s
  | .laneBlockLock port lane seq => Sys2Proof.Machine.execLaneBlockLock port lane seq s
  | .laneLockLoss port lane => Sys2Proof.Machine.execLaneLockLoss port lane s
  | .inputSegment port lane seg => Sys2Proof.Machine.execInputSegment port lane seg s
  | .lineSlot port => Sys2Proof.Machine.execLineSlot port s
  | .lineFetch port => Sys2Proof.Machine.execLineFetch port s
  | .lineFetchComplete port line => Sys2Proof.Machine.execLineFetchComplete port line s
  | .staticCompareComplete port => Sys2Proof.Machine.execStaticCompareComplete port s
  | .genlockPulse => Sys2Proof.Machine.execGenlockPulse s
  | .genlockLoss => Sys2Proof.Machine.execGenlockLoss s
  | .muteRequest => Sys2Proof.Machine.execMuteRequest s
  | .muteRelease => Sys2Proof.Machine.execMuteRelease s
  | .muteHoldExpiry => Sys2Proof.Machine.execMuteHoldExpiry s
  | .binningStart k => Sys2Proof.Machine.execBinningStart k s
  | .binningDeadline k => Sys2Proof.Machine.execBinningDeadline k s
  | .binRowRender k row => Sys2Proof.Machine.execBinRowRender k row s
  | .doorbellWrite port ring tail descs => Sys2Proof.Machine.execDoorbellWrite port ring tail descs s
  | .outputBandWrite port => Sys2Proof.Machine.execOutputBandWrite port s
  | .inputReadCompletion ring data => Sys2Proof.Machine.execInputReadCompletion ring data s
  | .stallLimitExpiry x => Sys2Proof.Machine.execStallLimitExpiry x s
  | .lateAbandon ring => Sys2Proof.Machine.execLateAbandon ring s
  | .pcieLinkDown port => Sys2Proof.Machine.execPcieLinkDown port s
  | .functionLevelReset port => Sys2Proof.Machine.execFunctionLevelReset port s
  | .pcieFlitRetry port => Sys2Proof.Machine.execPcieFlitRetry port s
  | .nmtResetNode => Sys2Proof.Machine.execNmtResetNode s
  | .nmtResetCommunication => Sys2Proof.Machine.execNmtResetCommunication s
  | .nmtStart => Sys2Proof.Machine.execNmtStart s
  | .nmtStop => Sys2Proof.Machine.execNmtStop s
  | .nmtPreOperational => Sys2Proof.Machine.execNmtPreOperational s
  | .usdoDownload index sub data => Sys2Proof.Machine.execUsdoDownload index sub data s
  | .usdoUpload index sub len => Sys2Proof.Machine.execUsdoUpload index sub len s
  | .syncMessage cobId => Sys2Proof.Machine.execSyncMessage cobId s
  | .tpdoEventTimer t => Sys2Proof.Machine.execTpdoEventTimer t s
  | .heartbeatTimer => Sys2Proof.Machine.execHeartbeatTimer s
  | .i2cStart m => Sys2Proof.Machine.execI2cStart m s
  | .i2cTransactionComplete result data => Sys2Proof.Machine.execI2cTransactionComplete result data s
  | .i2cStretchTimeout => Sys2Proof.Machine.execI2cStretchTimeout s
  | .i2cDataAccess m wr => Sys2Proof.Machine.execI2cDataAccess m wr s
  | .pinFunctionSwitch m land value => Sys2Proof.Machine.execPinFunctionSwitch m land value s
  | .ppsEdge => Sys2Proof.Machine.execPpsEdge s
  | .ppsLoss => Sys2Proof.Machine.execPpsLoss s
  | .lowHalfWrite m index sub value => Sys2Proof.Machine.execLowHalfWrite m index sub value s
  | .highHalfWrite m index sub value => Sys2Proof.Machine.execHighHalfWrite m index sub value s
  | .lowHalfRead m index sub => Sys2Proof.Machine.execLowHalfRead m index sub s
  | .absentAccess m index sub wr => Sys2Proof.Machine.execAbsentAccess m index sub wr s
  | .objectWrite m x y a => Sys2Proof.Machine.execObjectWrite m x y a s
  | .compatDataRead m => Sys2Proof.Machine.execCompatDataRead m s
  | .fwDataAccess m wr => Sys2Proof.Machine.execFwDataAccess m wr s
  | .startRill m => Sys2Proof.Machine.execStartRill m s
  | .rillImageReadComplete => Sys2Proof.Machine.execRillImageReadComplete s
  | .stopRill m => Sys2Proof.Machine.execStopRill m s
  | .programBlock m => Sys2Proof.Machine.execProgramBlock m s
  | .copyFromHost m data => Sys2Proof.Machine.execCopyFromHost m data s
  | .activate m => Sys2Proof.Machine.execActivate m s
  | .verify m => Sys2Proof.Machine.execVerify m s
  | .flashCommandComplete same => Sys2Proof.Machine.execFlashCommandComplete same s
  | .rillKick m value => Sys2Proof.Machine.execRillKick m value s
  | .rillWatchdogExpiry => Sys2Proof.Machine.execRillWatchdogExpiry s
  | .rillException => Sys2Proof.Machine.execRillException s
  | .passthruStart m j => Sys2Proof.Machine.execPassthruStart m j s
  | .passthruStop m j => Sys2Proof.Machine.execPassthruStop m j s
  | .sensorSample readings => Sys2Proof.Machine.execSensorSample readings s
  | .tripClockStop => Sys2Proof.Machine.execTripClockStop s
  | .hubTripClockStop => Sys2Proof.Machine.execHubTripClockStop s
  | .lockstepMismatch => Sys2Proof.Machine.execLockstepMismatch s
  | .tileFault site compute => Sys2Proof.Machine.execTileFault site compute s
  | .tileMoveComplete site => Sys2Proof.Machine.execTileMoveComplete site s
  | .uncorrectableSramError kind address unit => Sys2Proof.Machine.execUncorrectableSramError kind address unit s
  | .sramScrub kind unit corrected => Sys2Proof.Machine.execSramScrub kind unit corrected s
  | .motionEngineFault engine => Sys2Proof.Machine.execMotionEngineFault engine s
  | .recordAppend => Sys2Proof.Machine.execRecordAppend s
  | .mirrorProgram same => Sys2Proof.Machine.execMirrorProgram same s
  | .mirrorRegionEraseComplete region => Sys2Proof.Machine.execMirrorRegionEraseComplete region s
  | .almanacDataRead m => Sys2Proof.Machine.execAlmanacDataRead m s
  | .freeze m => Sys2Proof.Machine.execFreeze m s
  | .thaw m => Sys2Proof.Machine.execThaw m s
  | .clearCirculating m => Sys2Proof.Machine.execClearCirculating m s
  | .clearPermanent m => Sys2Proof.Machine.execClearPermanent m s
  | .perfSample m => Sys2Proof.Machine.execPerfSample m s
  | .perfClear m => Sys2Proof.Machine.execPerfClear m s
  | .perfEventWrite m c value => Sys2Proof.Machine.execPerfEventWrite m c value s
  | .inputSlotGridFrameStart port => Sys2Proof.Machine.execInputSlotGridFrameStart port s
  | .pcieLinkUp port width speed => Sys2Proof.Machine.execPcieLinkUp port width speed s
  | .completionTimeout kind unit => Sys2Proof.Machine.execCompletionTimeout kind unit s
  | .msixVectorUnmask port vector => Sys2Proof.Machine.execMsixVectorUnmask port vector s
  | .pciePowerStateWrite port d3 => Sys2Proof.Machine.execPciePowerStateWrite port d3 s
  | .canBusError tec rec busOff => Sys2Proof.Machine.execCanBusError tec rec busOff s
  | .weirRestartComplete => Sys2Proof.Machine.execWeirRestartComplete s
  | .computeDieFault die => Sys2Proof.Machine.execComputeDieFault die s
  | .hubPllLockLoss => Sys2Proof.Machine.execHubPllLockLoss s

end Sys2Proof.Machine
end

