-- ==== Sys2Proof/Machine/Tick.lean ====
section
/-!
DEFINITION. One cycle of the compute clock (log entry 1): what moves with time alone (R308, R340, R437, R438, R440, R441, R528, R538, R612).
-/

namespace Sys2Proof.Machine

/-- Calendar time advances by 5/7 ns and the rate adjustment; the remainder is kept in units of 1/(7 × 10^9) ns (R538). -/
def tickCalendar (s : State) : State :=
  let n := s.clk.calFrac + calendarRate s
  setObj oTimeNow (calendar s + n / 7000000000) { s with clk := { s.clk with calFrac := n % 7000000000 } }

/-- The cycle number counts once the alignment step has started it (R528); can.timestamp counts microseconds from power-on (R437, R541). -/
def tickClocks (s : State) : State :=
  let s := { s with clk := { s.clk with ticks := s.clk.ticks + 1 } }
  let s := if s.clk.started then addObj oClockCycle 1 s else s
  let s := if ticks s % usTicks = 0 then addObj oCanTimestamp 1 s else s
  tickCalendar s

/-- A head command that the state of its engine alone holds: its unit is held, another queue wins selection, or a bank lacks free pages (R308). -/
def headWaits (s : State) (eng q : Nat) : Option Nat :=
  match judgeable s eng q with
  | none => none
  | some sl =>
    let x := getSlot s eng q sl
    let pl := planOf s eng q x
    let site := tileSite s eng
    if pState s x.part = 2 ∧ (unitFree s eng q x = false ∨ bankShort eng pl (fun b => countFrames s site b .free) = true ∨
        (ready s eng q = some sl ∧ wins s eng q sl = false)) then some sl else none

/-- Every head command that waits is charged a cycle of wait (R308). -/
def tickWaits (s : State) : State :=
  allQueues.foldl (fun s e =>
    match headWaits s e.1 e.2 with
    | some sl =>
      let x := getSlot s e.1 e.2 sl
      chargeWait (acctKey x.part (cJob x)) 1 s
    | none => s) s

/-- The matrix array behind a logical tile is busy. -/
def matrixBusy (s : State) (n : Nat) : Bool :=
  match siteOf s n with
  | some site => unitHolder s (site * 8) != 0
  | none => false

/-- Performance counters of events that last whole cycles: 0x01, 0x04 and 0x0B (R612). -/
def tickPerf (s : State) : State :=
  (List.range 64).foldl (fun s c =>
    let e := getObj s (oPerfEvent c)
    let i := e % 256
    if e / 256 = 1 ∨ (e / 256 = 4 ∧ matrixBusy s i = true) ∨ (e / 256 = 0x0B ∧ getObj s (oRasterLevel i) = 2) then
      perfAdd c 1 s
    else s) s

/-- A fill sends up to 4 updates in a cycle (R340). -/
def tickFill (s : State) : State :=
  match s.sy.fill with
  | none => s
  | some f =>
    fillSome 4 f s

/-- The oldest EMCY that the inhibit time has held goes out (R436). -/
def tickEmcy (s : State) : State :=
  match s.io.can.emcyQueue with
  | [] => s
  | d :: ds =>
    if canTalks s = true ∧ s.io.can.nmt ≠ 4 ∧ emcyClear s = true then sendEmcy d (updCan (fun c => { c with emcyQueue := ds }) s) else s

/-- A frame pulse of function 0x5 ends 1 µs after it began (R440); switches of lands end at their eighth reference cycle (R441). -/
def tickLands (s : State) : State :=
  let s := match s.io.lands.pulseEnd with
    | some t => if t ≤ ticks s then refreshPins { s with io := { s.io with lands := { s.io.lands with pulseEnd := none } } } else s
    | none => s
  endSwitches s

/-- One cycle of the compute clock. -/
def tick (s : State) : State := tickLands (tickEmcy (tickFill (tickPerf (tickClocks (endWarms (passCycle (tickWaits s)))))))

end Sys2Proof.Machine
end

