-- ==== Sys2Proof/Machine/Wake.lean ====
section
/-!
DEFINITION. The reads that wait for a master's own updates, and the accesses behind them, at the end of each cycle (R335, R456).
-/

namespace Sys2Proof.Machine

/-- What waits of a master, in order: a read is answered once its updates have been applied, and the accesses behind it are served, up to the next that waits (R335, R456). -/
def serveParked (m : Nat) : List Parked → State → State
  | [], s => s
  | .answer o usdo :: rest, s => if masterWaits s m o then setParked m (.answer o usdo :: rest) s else serveParked m rest (answerCount m o usdo s)
  | .access c :: rest, s =>
    match exec c s with
    | .next s => if parkedOf s m = [] then serveParked m rest s else setParked m (parkedOf s m ++ rest) s
    | _ => serveParked m rest s

/-- Every master's waiting accesses, in the order of R456. -/
def wake (s : State) : State := (List.range 5).foldl (fun s m => serveParked m (parkedOf s m) (setParked m [] s)) s

/-- One compute cycle passes. -/
def passTick (s : State) : State := wake (tick s)

end Sys2Proof.Machine
end

