-- ==== Sys2Proof/Machine/Step.lean ====
section
/-!
DEFINITION. One step: the command at the front of the queue, or a tick of the compute clock when none waits.
-/

namespace Sys2Proof.Machine

/-- The state with the queue's front put at `c`. -/
def State.enqueueFront (s : State) (c : Instr) : State := { s with pending := c :: s.pending }

/-- The state with the command that a word spells at the front of its queue; unchanged where it spells none. -/
def State.withFetchWord (s : State) (nbits w : Nat) : State :=
  match Sys2Proof.decodeTableWord nbits w with
  | some c => s.enqueueFront c
  | none => s

/-- Take the front command and run it with the rest of the queue; with none waiting, one compute cycle passes where clocks run (log entry 1). -/
def step (s : State) : Host.Outcome State Fault Refusal :=
  match s.pending with
  | [] => .next (if s.clk.running then passTick s else s)
  | c :: rest => exec c { s with pending := rest }

end Sys2Proof.Machine
end

