-- ==== Sys2Proof/Safety.lean ====
section
/-!
DEFINITION. Safe outcomes and sound states: the device goes on, every sparse map of the state is in its canonical form, and every dictionary object holds a value of its width.
-/

namespace Sys2Proof.Machine

/-- The outcome is a next state. -/
def Answers (o : Host.Outcome State Fault Refusal) : Prop := ∃ t, o = .next t

/-- Queues, slots, units, pages and rotations of the tiles and engines are canonical. -/
structure TilesOk (t : Tiles) : Prop where
  queues : Tidy Queue.init t.queues
  slots : Tidy Slot.init t.slots
  units : Tidy 0 t.units
  pageMap : Tidy 0 t.pageMap
  frames : Tidy Frame.init t.frames
  pages : ∀ e ∈ t.frames, PageWf e.2.page
  turns : Tidy 0 t.turns
  loads : Tidy 0 t.loads

/-- Slots, versions and tags of the Cistern are canonical. -/
structure CisternOk (c : Cistern) : Prop where
  slots : Tidy CSlot.init c.slots
  data : ∀ e ∈ c.slots, PageWf e.2.page
  pages : Tidy [] c.pages
  tags : Rising c.tags

/-- Partitions and accounts are canonical. -/
structure PartsOk (p : Parts) : Prop where
  parts : Tidy Part.init p.parts
  accts : Tidy Acct.init p.accts
  acctLatch : Tidy 0 p.acctLatch

/-- Counts, banks, armed host watches, notifications and accesses that wait are canonical. -/
structure SyncOk (y : SyncStore) : Prop where
  counts : Tidy 0 y.counts
  banks : Tidy Bank.init y.banks
  hostArmed : Rising y.hostArmed
  notices : Tidy [] y.notices
  parked : Tidy [] y.parked

/-- Sequencers, watched frames, overlays and audio delay lines are canonical. -/
structure StreamsOk (x : Streams) : Prop where
  seqs : Tidy Seq.init x.seqs
  watched : Tidy [] x.watched
  overlays : Tidy Overlay.init x.overlays
  audio : Tidy Audio.init x.audio

/-- The CAN node's maps rise. -/
structure CanOk (c : Can) : Prop where
  syncs : Rising c.syncs
  tpdoAt : Rising c.tpdoAt

/-- The maps of the low-speed lands rise. -/
structure LandsOk (l : Lands) : Prop where
  i2cBuf : Tidy 0 l.i2cBuf
  switching : Rising l.switching
  driven : Rising l.driven

/-- Raster ports, rings, PCIe ports and their MSI-X tables, paths and lands are canonical. -/
structure PortsOk (o : Ports) : Prop where
  raster : Tidy Port.init o.raster
  rings : Tidy Ring.init o.rings
  pcie : Tidy Pcie.init o.pcie
  paths : Tidy Path.init o.paths
  msixTable : Tidy 0 o.msixTable
  can : CanOk o.can
  lands : LandsOk o.lands

/-- The defect map, the links and the binding of tiles are canonical. -/
structure FabricOk (f : Fabric) : Prop where
  defects : Rising f.defects
  links : Tidy Link.init f.links
  siteOf : Tidy 0 f.siteOf

/-- A sound state: every sparse map is canonical, and every dictionary object holds a value of its width (R448). -/
structure Canonical (s : State) : Prop where
  objs : Rising s.objs
  width : ∀ e ∈ s.objs, e.2.toNat < 2 ^ objWidth e.1
  latches : Tidy Latches.init s.latches
  flash : Tidy 0xFF s.flash
  sensors : Rising s.pw.sensors
  staging : Tidy 0 s.fw.staging
  fab : FabricOk s.fab
  tl : TilesOk s.tl
  ci : CisternOk s.ci
  pt : PartsOk s.pt
  sy : SyncOk s.sy
  st : StreamsOk s.st
  io : PortsOk s.io
  alm : Tidy blankSlot s.alm.slots

/-- From `s` to `t` the queue of waiting commands stays as it is, nothing that was sent is recalled, and no free value is used a second time. -/
structure Kept (s t : State) : Prop where
  pending : t.pending = s.pending
  out : ∃ l, t.out = l ++ s.out
  free : s.free ≤ t.free

/-! ### Terms of the statements -/

/-- The clocks run: from power good to the loss of power or the hub's trip. -/
abbrev Live (s : State) : Prop := s.clk.running = true

/-- The clocks run and an access of master `m` is served at once: its port is not in D3hot, and no read of it waits (R335, R424, R456). -/
abbrev Serves (m : Nat) (s : State) : Prop := Live s ∧ asleep s m = false ∧ parkedOf s m = []

/-- A command that issues on an engine: unit and opcode. -/
abbrev Issues (s : State) (eng q sl unit opcode : Nat) : Prop := Live s ∧ runs s eng q sl unit opcode = true

/-- The outcome of a command that finishes executing from `s` with these output bytes and flags. -/
abbrev Writes (s : State) (eng q sl : Nat) (o : List Piece × Flags) : Out := .next (deliver eng q sl o.1 o.2 s)

/-- Output rows without block scales: one run of bytes per row, at the row's address (R71, R74). -/
def plainRows (y : Slot) (eng rows len : Nat) (elem : Nat → Nat → Nat) : List Piece :=
  (List.range rows).map fun r =>
    { tile := some (destTile eng (opC y)), addr := (opC y).addr + r * (opC y).stride,
      bytes := packElems (opC y).code ((List.range len).map fun i => elem r i) }

/-- Every object but those in the list reads as before. -/
def OtherObjects (ks : List Nat) (s t : State) : Prop := ∀ k, k ∉ ks → getObj t k = getObj s k

end Sys2Proof.Machine
end

