-- ==== Sys2Proof/Certificates/Slice0/Obligations.lean ====
section
/-!
DEFINITION. Statements about the device for the provers.
-/

open Sys2Proof Sys2Proof.Machine

/-! ### The queue, the clocks and reset -/

/-- A step takes the command at the front of the queue and runs it with the rest of the queue. -/
def Obligations.StepRunsFrontCommand : Prop :=
  ∀ (c : Instr) (rest : List Instr) (s : State), s.pending = c :: rest → step s = exec c { s with pending := rest }

/-- With no command waiting, one compute cycle passes while the clocks run, and nothing happens while they do not (log entry 1); a cycle without accesses that wait is a tick. With the clocks stopped nothing changes, except that power good starts the device and that the loss of power good resets it (R506, R517). -/
def Obligations.EmptyQueueAndStoppedClocks : Prop :=
  (∀ s : State, s.pending = [] →
      (Live s → step s = .next (passTick s) ∧ (passTick s).pending = [] ∧ (tick s).clk.ticks = s.clk.ticks + 1 ∧
        ((tick s).sy.parked = [] → passTick s = tick s)) ∧ (¬ Live s → step s = .next s)) ∧
  (∀ (c : Instr) (s : State), ¬ Live s → (∀ b n, c ≠ .powerGood b n) → c ≠ .pwrgoodLow → exec c s = .next s)

/-- Right after reset no command waits, no clock runs, the flash reads erased (log entry 5), no page, slot or count is held, and every object holds the default of its table. -/
def Obligations.ResetHoldsDefaults : Prop :=
  State.reset.pending = [] ∧ State.reset.out = [] ∧ State.reset.clk.running = false ∧ State.reset.pw.pwrgood = false ∧
  (∀ k, getObj State.reset k = objDefault k) ∧
  (∀ a, flashByte State.reset a = 0xFF) ∧ (∀ i, syncCount State.reset i = 0) ∧
  (∀ eng q sl, getSlot State.reset eng q sl = Slot.init) ∧ (∀ eng q, getQueue State.reset eng q = Queue.init) ∧
  (∀ k, (getFrame State.reset k).st = .free)

/-- The state right after reset is sound. -/
def Obligations.ResetIsCanonical : Prop :=
Canonical State.reset

/-- Every step keeps the state sound: every sparse map in its canonical form, every memory of pages, slots and flash among them, and every object within its width. -/
def Obligations.StepKeepsCanonical : Prop :=
∀ s t : State, Canonical s → step s = .next t → Canonical t

/-- A step takes the front of the queue and adds nothing to it, recalls nothing that was sent, and never uses a free value twice. -/
def Obligations.StepKeepsQueueOrder : Prop :=
  ∀ s t : State, step s = .next t → t.pending = s.pending.tail ∧ (∃ sent, t.out = sent ++ s.out) ∧ s.free ≤ t.free

/-- No command ends in a fault or a refusal. -/
def Obligations.EveryStepAnswers : Prop :=
∀ s : State, Answers (step s)

/-! ### Results of compute commands -/

/-- An output without block scales: each row is one run of the converted values; under the modifier a row of block scales follows the data (R71, R124). -/
def Obligations.OutputRowsArePlaced : Prop :=
  ∀ (s : State) (y : Slot) (eng rows len : Nat) (accInt round sat : Bool) (val : Nat → Nat → Machine.Num × Flags),
    ((opC y).mx = false →
      (vecRows s y eng rows len accInt round sat val).1 =
        plainRows y eng rows len fun r i => (encodeOut (opC y).code accInt sat (outRounding s y round (r * len + i)) (val r i).1).1) ∧
    ((opC y).mx = true →
      (vecRows s y eng rows len accInt round sat val).1.length = 2 * rows ∧
      ∀ r < rows, ∃ p, (vecRows s y eng rows len accInt round sat val).1[2 * r + 1]? = some p ∧
        p.tile = some (destTile eng (opC y)) ∧ p.addr = (opC y).addr + rows * (opC y).stride + r * scaleRow len)

/-- Element-wise commands: each element of C is its op's value of A and, for ops 0x0 to 0x5, of the element of B that meets it (R125, R126, R127). -/
def Obligations.ElementWiseResults : Prop :=
  ∀ e ∈ ([(.elementAdd, 0, fun _ y a b => partialSum y a b), (.elementSubtract, 1, fun _ _ a b => addNum a b.neg),
      (.elementMultiply, 2, fun _ y a b => productOf y a b), (.elementMax, 3, fun _ _ a b => (maxNum a b, noFlags)),
      (.elementMin, 4, fun _ _ a b => (minNum a b, noFlags)), (.elementScaleAdd, 5, fun _ y a b => fmaNum (vAlpha y) a b),
      (.elementAffine, 6, fun _ y a _ => fmaNum (vAlpha y) a (vBeta y)), (.rectifier, 7, fun _ _ a _ => (rectify a, noFlags)),
      (.leakyRectifier, 8, fun _ y a _ => leaky y a), (.elementClamp, 9, fun _ y a _ => (maxNum (vAlpha y) (minNum a (vBeta y)), noFlags)),
      (.piecewiseLinearTable, 10, fun rd y a _ => tableValue rd y a), (.elementConvert, 11, fun _ _ a _ => (a, noFlags))] :
      List ((Nat → Nat → Nat → Instr) × Nat × ((Nat → Byte) → Slot → Machine.Num → Machine.Num → Machine.Num × Flags))),
  ∀ (eng q sl : Nat) (s : State), eng < 32 → Issues s eng q sl 1 1 → vOp (getSlot s eng q sl) = e.2.1 →
    let y := getSlot s eng q sl
    let rd := rdTile s y eng
    let a := fun r i => vA rd y r i
    let b := fun r i => if e.2.1 ≤ 5 then vB rd y r i else (numZero, noFlags)
    exec (e.1 eng q sl) s = Writes s eng q sl (vecRows s y eng (vRows y) (vLen y) (vAccInt y) (bit (cw y 13) 25) (bit (cw y 13) 24)
      fun r i => withFlags (orFlags (a r i).2 (b r i).2) (e.2.2 rd y (a r i).1 (b r i).1))

/-- Pooling: each element of C from its window's taps; the average of the input leaves the padding out (R131). Resampling: each element from its weighted taps (R133). Reductions: one element of C for each row of A (R128). -/
def Obligations.ReductionPoolingAndResamplingResults : Prop :=
  ((∀ e ∈ ([(.maxPooling, 0, fun _ vs _ => extreme maxNum vs), (.averagePoolingWindow, 1, poolMean), (.averagePoolingInput, 2, poolMean)] :
        List ((Nat → Nat → Nat → Instr) × Nat × (Bool → List Machine.Num → Nat → Machine.Num × Flags))),
      ∀ (eng q sl : Nat) (s : State), eng < 32 → Issues s eng q sl 1 0x10 → bits (cw (getSlot s eng q sl) 13) 5 4 = e.2.1 →
        let y := getSlot s eng q sl
        let g := poolGeom y
        let taps := fun r c => poolTaps (rdTile s y eng) (opA y) (otherKind y) g (e.2.1 == 2) (c / g.cOut) r (c % g.cOut)
        exec (e.1 eng q sl) s = Writes s eng q sl (vecRows s y eng g.hOut (g.wOut * g.cOut) (otherKind y) (bit (cw y 13) 3) (bit (cw y 13) 2)
          fun r c => withFlags (allFlags ((taps r c).map (·.2))) (e.2.2 (kindInt (opA y) (otherKind y)) ((taps r c).map (·.1)) (taps r c).length))) ∧
    (∀ e ∈ ([(.bilinearResampling, 0), (.bicubicResampling, 1)] : List ((Nat → Nat → Nat → Instr) × Nat)),
      ∀ (eng q sl : Nat) (s : State), eng < 32 → Issues s eng q sl 1 0x11 → rsMode (getSlot s eng q sl) = e.2 →
        let y := getSlot s eng q sl
        exec (e.1 eng q sl) s = Writes s eng q sl (vecRows s y eng (rsH y) (rsW y * rsC y) (otherKind y) (bit (cw y 13) 14) (bit (cw y 13) 13)
          (resampleValue (rdTile s y eng) y (e.2 == 1))))) ∧
  (∀ e ∈ ([(.rowSum, 0, fun y vs => reduceRow (kindInt (opA y) (vAccInt y)) false vs), (.rowMaximum, 1, fun _ vs => extreme maxNum vs),
        (.rowSumOfSquares, 2, fun y vs => reduceRow (kindInt (opA y) (vAccInt y)) true vs), (.rowMinimum, 3, fun _ vs => extreme minNum vs)] :
        List ((Nat → Nat → Nat → Instr) × Nat × (Slot → List Machine.Num → Machine.Num × Flags))),
    ∀ (eng q sl : Nat) (s : State), eng < 32 → Issues s eng q sl 1 2 → vOp (getSlot s eng q sl) = e.2.1 →
      let y := getSlot s eng q sl
      let row := fun r => (List.range (vLen y)).map fun i => vA (rdTile s y eng) y r i
      exec (e.1 eng q sl) s = Writes s eng q sl (vecRows s y eng (vRows y) 1 (vAccInt y) (bit (cw y 13) 25) (bit (cw y 13) 24)
        fun r _ => withFlags (allFlags ((row r).map (·.2))) (e.2.2 y ((row r).map (·.1)))))

/-- Pixel shuffle and unshuffle move elements by R134 and change no bit; argmax writes the lowest channel of the largest value, and that value where the auxiliary output is given (R135). Argmax takes the largest value, NaN above every number, and of equal ones the first (R135). -/
def Obligations.ShuffleAndArgmaxResults : Prop :=
  ((∀ e ∈ ([(.pixelShuffle, 2), (.pixelUnshuffle, 3)] : List ((Nat → Nat → Nat → Instr) × Nat)),
      ∀ (eng q sl : Nat) (s : State), eng < 32 → Issues s eng q sl 1 0x11 → rsMode (getSlot s eng q sl) = e.2 → (opC (getSlot s eng q sl)).mx = false →
        let y := getSlot s eng q sl
        let a := opA y
        exec (e.1 eng q sl) s = Writes s eng q sl (plainRows y eng (rsH y) (rsW y * rsC y) (fun r c =>
          let p := shuffleFrom y (c / rsC y) r (c % rsC y)
          readElem (rdTile s y eng) a.code (a.addr + p.2.1 * a.stride) (p.1 * rsCIn y + p.2.2)), noFlags)) ∧
    (∀ (eng q sl : Nat) (s : State), eng < 32 → Issues s eng q sl 1 0x12 → (opC (getSlot s eng q sl)).mx = false → (opX (getSlot s eng q sl)).mx = false →
      let y := getSlot s eng q sl
      let a := opA y
      let k := opX y
      let win := fun r x => argmaxOf ((List.range (rsC y)).map fun c => (elemAt (rdTile s y eng) a true (rsH y) (rsW y * rsC y) r (x * rsC y + c)).1)
      exec (.perPixelArgmax eng q sl) s = Writes s eng q sl (plainRows y eng (rsH y) (rsW y) win ++
        (if k.valid then (List.range (rsH y)).map fun r => { tile := some eng, addr := k.addr + r * k.stride, bytes := packElems k.code ((List.range (rsW y)).map fun x => readElem (rdTile s y eng) a.code (a.addr + r * a.stride) (x * rsC y + win r x)) }
         else []), noFlags))) ∧
  (∀ vs : List Machine.Num, vs ≠ [] →
      argmaxOf vs < vs.length ∧
      (∀ i < vs.length, ranksAbove (vs.getD i numZero) (vs.getD (argmaxOf vs) numZero) = false) ∧
      (∀ i < argmaxOf vs, ranksAbove (vs.getD (argmaxOf vs) numZero) (vs.getD i numZero) = true))

/-- Zero-run compression writes the granules of each segment's encoding into its slot and the length codes into the table; expansion writes the segments that the codes and slots stand for, and an invalid one sets the invalid flag (R137, R138). -/
def Obligations.ZeroRunResults : Prop :=
  ∀ (eng q sl : Nat) (s : State), eng < 32 →
    let y := getSlot s eng q sl
    let rd := rdTile s y eng
    let n := zrSegments y
    let slot := fun i (bs : List Byte) => ({ tile := some (destTile eng (opC y)), addr := (opC y).addr + 256 * i, bytes := bs } : Piece)
    (Issues s eng q sl 1 0x20 → n % 2 = 0 →
      let seg := fun i => zrSegment (zrWidth y) (readBytes rd ((opA y).addr + 256 * i) 256)
      exec (.zeroRunCompression eng q sl) s = Writes s eng q sl
        (((List.range n).map fun i => slot i (seg i).2) ++ [{ tile := some eng, addr := (opX y).addr, bytes := packNibbles ((List.range n).map fun i => (seg i).1) }], noFlags)) ∧
    (Issues s eng q sl 1 0x20 → n % 2 = 1 →
      let seg := fun i => zrSegment (zrWidth y) (readBytes rd ((opA y).addr + 256 * i) 256)
      exec (.zeroRunCompression eng q sl) s = Writes (useFree s) eng q sl
        (((List.range n).map fun i => slot i (seg i).2) ++
          [{ tile := some eng, addr := (opX y).addr, bytes := packNibbles (((List.range n).map fun i => (seg i).1) ++ [freeNat s 4]) }], noFlags)) ∧
    (Issues s eng q sl 1 0x21 →
      let seg := fun i => zrExpand (zrWidth y) (readElem rd 0 (opX y).addr i) (readBytes rd ((opA y).addr + 256 * i) 256)
      exec (.zeroRunExpansion eng q sl) s = Writes s eng q sl
        ((List.range n).map fun i => slot i (seg i).1, if (List.range n).all (fun i => (seg i).2) then noFlags else flagInvalid))

/-- Expanding what compression stores gives the segment back, for elements of one and of two bytes (R136, R137). -/
def Obligations.ZeroRunExpansionInvertsCompression : Prop :=
  ∀ (w : Nat) (bs rest : List Byte), w = 1 ∨ w = 2 → bs.length = 256 →
    zrExpand w (zrSegment w bs).1 ((zrSegment w bs).2 ++ rest) = (bs, true)

/-- Matrix multiply, sliding windows and the grouped form: each element of C is the output stage applied to its accumulator, with the conversion entry of its channel (R67, R70, R76, R101, R118). Unscaled output of a matrix or window command: the element at row r, column i is the accumulator there, converted by its channel's entry (R54, R55, R76). -/
def Obligations.MatrixAndWindowResults : Prop :=
  (∀ (eng q sl : Nat) (s : State), eng < 32 →
      let y := getSlot s eng q sl
      let rd := rdTile s y eng
      let g := winGeom y
      let window := fun (isInt : Bool) (w r c : Nat) =>
        accumulate isInt w (.fin false 0) (winPairs rd (opA y) (opB y) isInt g (c / g.cOut) r (c % g.cOut))
      let intPair := accIsInt (opA y) (opB y)
      (Issues s eng q sl 0 1 → exec (.matrixMultiply eng q sl) s =
        Writes s eng q sl (writeRows s y intPair eng (mmM y) (mmN y) (bit (cw y 13) 6) (bit (cw y 13) 5) (mmAcc rd y) id)) ∧
      (Issues s eng q sl 0 2 → exec (.slidingWindow eng q sl) s =
        Writes s eng q sl (writeRows s y intPair eng g.hOut (g.wOut * g.cOut) (bit (cw y 15) 13) (bit (cw y 15) 12)
          (window intPair (passWidth (opA y) (opB y))) (· % g.cOut))) ∧
      (Issues s eng q sl 1 0x30 → exec (.groupedSlidingWindow eng q sl) s =
        Writes s eng q sl (writeRows s y (fmtIsInt (opA y).code) eng g.hOut (g.wOut * g.cOut) (bit (cw y 15) 13) (bit (cw y 15) 12)
          (window (fmtIsInt (opA y).code) 1) (· % g.cOut)))) ∧
  (∀ (s : State) (y : Slot) (isInt : Bool) (eng rows len : Nat) (round sat : Bool) (acc : Nat → Nat → Machine.Num × Flags) (ch : Nat → Nat),
      (opC y).mx = false →
        (writeRows s y isInt eng rows len round sat acc ch).1 =
          plainRows y eng rows len fun r i =>
            (convertAcc isInt (opC y).code sat (outRounding s y round (r * len + i)) (convOf (rdTile s y eng) y (ch i)) (acc r i).1).1)

/-- The transform convolutions write the output stage of the inverse transform's value at each pixel of its block (R113, R115); opcode 2 has one line per block, opcode 3 one column. -/
def Obligations.TransformResults : Prop :=
  ∀ e ∈ ([(.convolution2dTransform, 1), (.convolutionAlongLines, 2), (.convolutionAlongColumns, 3)] : List ((Nat → Nat → Nat → Instr) × Nat)),
  ∀ (eng q sl : Nat) (s : State), eng < 32 → Issues s eng q sl 2 e.2 → (opC (getSlot s eng q sl)).mx = false →
    let y := getSlot s eng q sl
    let rd := rdTile s y eng
    let nbx := if e.2 = 3 then trWOut y else trBx y
    ∃ f, exec (e.1 eng q sl) s = Writes s eng q sl
      (plainRows y eng (trHOut y) (trWOut y * trCOut y) (fun r c =>
        let px := c / trCOut y
        let v := (((trOutputs rd y ((r / trVy y * nbx + px / trVx y) % nbx) ((r / trVy y * nbx + px / trVx y) / nbx)).1.getD (c % trCOut y) []).getD
          (r % trVy y * trNx y + px % trVx y) .nan)
        (convertAcc false (opC y).code (bit (cw y 15) 12) (outRounding s y (bit (cw y 15) 13) (r * (trWOut y * trCOut y) + c)) (convOf rd y (c % trCOut y)) v).1), f)

/-- Transfers move rows of bytes: from the tile to a tile, from the region to a tile, from the tile to the region, and from the tile to every tile of the mask (R110, R173, R174). A fence and a release write nothing: they finish at once, and what they order or unmap follows at their commit (R73, R224). -/
def Obligations.TransferFenceAndReleaseResults : Prop :=
  (∀ (eng q sl : Nat) (s : State), eng < 32 →
      let y := getSlot s eng q sl
      let c := opC y
      let source := fun i => readBytes (rdTile s y eng) ((opA y).addr + i * (opA y).stride) (xfBytes y)
      let rowsTo := fun (t : Nat) (row : Nat → List Byte) =>
        (List.range (xfRows y)).map fun i => ({ tile := some t, addr := c.addr + i * c.stride, bytes := row i } : Piece)
      (Issues s eng q sl 3 1 → exec (.regionCopy eng q sl) s = Writes s eng q sl (rowsTo (if c.remote then c.tile else eng) source, noFlags)) ∧
      (Issues s eng q sl 3 2 → exec (.cisternLoad eng q sl) s = Writes s eng q sl
        (rowsTo (if c.remote then c.tile else eng) fun i => readBytes (fun a => regionByte s y.part y.run.serial a) (xfOffset y + i * xfStride y) (xfBytes y), noFlags)) ∧
      (Issues s eng q sl 3 3 → exec (.cisternStore eng q sl) s = Writes s eng q sl
        ((List.range (xfRows y)).map fun i => { tile := none, addr := xfOffset y + i * xfStride y, bytes := source i }, noFlags)) ∧
      (Issues s eng q sl 3 4 → exec (.multicastCopy eng q sl) s = Writes s eng q sl
        ((bitsSet (cw y 13) 32).flatMap fun t => rowsTo t source, noFlags))) ∧
  ((∀ (eng q sl : Nat) (s : State), Issues s eng q sl 4 1 → exec (.fence eng q sl) s = .next (finishCommand eng q sl [] noFlags s)) ∧
    (∀ (eng q sl : Nat) (s : State), 36 ≤ eng → eng < 40 → Issues s eng q sl 6 3 → exec (.release eng q sl) s = Writes s eng q sl ([], noFlags)))

/-- A rim command writes one run of bytes for each line of its band: the stem its convolution clamped to the output width, the head the convolution plus its skip sample clamped to the sample range, and scale-and-sharpen the sharpened picture, free where R148 states no sample (R144 to R148, log entry 21). -/
def Obligations.RimResults : Prop :=
  ∀ (eng q sl : Nat) (s : State), 32 ≤ eng → eng < 36 →
    let y := getSlot s eng q sl
    let a := rA y
    let c := rC y
    let conv := fun px j ch => rimConv (rdOp s y a) (rdOp s y (rB y)) y px (rmY0 y + j) ch
    (Issues s eng q sl 5 1 →
      let w := 8 * c.fmt
      let out := fun j i => clampFlag (-((2 ^ (w - 1) : Nat) : Int)) (((2 ^ (w - 1) : Nat) : Int) - 1) (conv (i / rmCOut y) j (i % rmCOut y))
      ∃ f, exec (.stem eng q sl) s = Writes s eng q sl
        ((List.range (rmH y)).map fun j => c.piece (j * c.stride) (packElems c.fmt ((List.range (rmW y * rmCOut y)).map fun i => ofSigned w (out j i).1)), f)) ∧
    (Issues s eng q sl 5 2 →
      let out := fun j px ch =>
        let r := chanRange (rmRange y) (picBits c.fmt) ch
        clampFlag r.1 r.2 (conv px j ch + (skipSample (rdOp s y (rX y)) y px (rmY0 y + j) ch).1)
      ∃ f, exec (.head eng q sl) s = Writes s eng q sl
        ((List.range (rmH y)).map fun j => c.piece (j * c.stride) (packLine c.fmt (rmW y) fun px ch => (out j px ch).1), f)) ∧
    (Issues s eng q sl 5 3 → picBits a.fmt = picBits c.fmt → picChannels c.fmt ≤ picChannels a.fmt →
      let b := picBits c.fmt
      let scaled := fun ch px py => scaleSample (ssCubic y) (ssRange y) b ch (rmW y) (rmPicH y) (ssW y) (ssH y)
        (fun u v => fullSample (rdOp s y a) 0 a.stride a.fmt (ssW y) u v ch) px py
      ∃ f, exec (.scaleAndSharpen eng q sl) s = Writes s eng q sl
        ((List.range (rmH y)).map fun j => c.piece (j * c.stride) (packLine c.fmt (rmW y) fun px ch =>
          if ch < picChannels a.fmt then (sharpen y b ch (scaled ch) px (rmY0 y + j)).1 else freeSample s.free b ((j * rmW y + px) * 4 + ch)), f)) ∧
    (Issues s eng q sl 5 3 → picBits a.fmt ≠ picBits c.fmt ∨ picChannels a.fmt < picChannels c.fmt →
      ∃ ps f, exec (.scaleAndSharpen eng q sl) s = Writes (useFree s) eng q sl (ps, f) ∧ ps.length = rmH y)

/-- Gather writes, for each block, age and segment of the trajectory, the length code and the stored segment of the history plane, or its 256 bytes expanded; and for each block how many windows its trajectory fetched (R219, R220, R221). A code that R137 calls invalid leaves free bytes in the compressed form (log entry 22). Advance moves the head back by one, writes the new head's entry as valid, and with invalidate_older clears the valid bit of every other entry (R223). -/
def Obligations.GatherAndAdvanceResults : Prop :=
  (∀ (eng q sl : Nat) (s : State), 36 ≤ eng → eng < 40 → Issues s eng q sl 6 1 →
      let y := getSlot s eng q sl
      let c := rC y
      let k := rX y
      let rd := rdOp s y (rA y)
      let reg := fun a => regionByte s y.part y.run.serial a
      let start := rdOp s y (rB y)
      let segs := gatherSegs rd reg start y
      let counts := k.piece (gaCounts y (hPs rd)) ((List.range (gaBw y * gaBh y)).map fun b => BitVec.ofNat 8 (blockPath rd reg start y b).length)
      (gaExpand y = true → exec (.gather eng q sl) s = Writes s eng q sl
        (((List.range segs.length).map fun i =>
            c.piece (256 * i) ((segs.map fun e => zrExpand (if Config.wideTokens y.part (rA y).offset then 2 else 1) e.1 e.2).getD i ([], true)).1) ++ [counts],
          if (segs.map fun e => zrExpand (if Config.wideTokens y.part (rA y).offset then 2 else 1) e.1 e.2).all (·.2) then noFlags else flagInvalid)) ∧
      (gaExpand y = false → segs.length % 2 = 0 → (segs.all fun e => decide (e.1 ≤ 8)) = true →
        exec (.gather eng q sl) s = Writes s eng q sl
          (((List.range segs.length).map fun i => c.piece (256 * i) ((segs.getD i (0, [])).2.take (32 * (segs.getD i (0, [])).1))) ++
            [k.piece 0 (packNibbles (segs.map (·.1))), counts], noFlags)) ∧
      (gaExpand y = false → segs.length % 2 = 1 ∨ (segs.all fun e => decide (e.1 ≤ 8)) = false →
        ∃ ps, exec (.gather eng q sl) s = Writes (useFree s) eng q sl (ps ++ [counts], noFlags) ∧ ps.length = segs.length + 1)) ∧
  (∀ (eng q sl : Nat) (s : State), 36 ≤ eng → eng < 40 → Issues s eng q sl 6 2 →
      let y := getSlot s eng q sl
      let c := rC y
      let rd := rdOp s y c
      let h := (hHead rd + hN rd - 1) % hN rd
      exec (.advance eng q sl) s = Writes s eng q sl
        ([c.piece 9 [BitVec.ofNat 8 h],
          c.piece (32 + 32 * h) (leBytes 8 (bits (cw y 12) 30 0 * 2 ^ 8) ++ leBytes 8 (cw y 13 * 2 ^ 7) ++ leBytes 8 (cw y 14 * 2 ^ 7) ++ leBytes 4 (cw y 15) ++ leBytes 4 1)] ++
          (if bit (cw y 12) 31 then ((List.range (hN rd)).filter (· != h)).map fun i =>
            c.piece (32 + 32 * i + 28) [BitVec.ofNat 8 ((rd (32 + 32 * i + 28)).toNat / 2 * 2)] else []), noFlags))

/-- Motion commands: pyramid levels (R248), corners with their descriptors (R257 to R259), matches (R260), a warped or copied band (R262). An estimate writes a vector for each block of its lowest level, in the packed or the split form, and its commit record carries the share of blocks whose confidence reaches the threshold and whether that score cuts (R250 to R256). -/
def Obligations.MotionEngineResults : Prop :=
  (∀ (eng q sl : Nat) (s : State), 40 ≤ eng →
      let y := getSlot s eng q sl
      let a := rdOp s y (rA y)
      let c := rC y
      (Issues s eng q sl 7 1 → exec (.pyramidBuild eng q sl) s = Writes s eng q sl
        ((List.range (moLc y + 1)).flatMap fun L => (List.range (buildLevel a y L).length).map fun j =>
          c.piece (levelBase (moW y) (moH y) L + j * levelStride (moW y) L) (((buildLevel a y L).getD j []).map fun v => BitVec.ofNat 8 v), noFlags)) ∧
      (Issues s eng q sl 7 3 →
        let entry := fun k : Corner => leBytes 2 (k.2.2.2 * 2 ^ k.2.1 * 4) ++ leBytes 2 (k.2.2.1 * 2 ^ k.2.1 * 4) ++ leBytes 2 k.1 ++ leBytes 1 k.2.1 ++
          List.replicate 9 0 ++ leBytes 32 (descriptor a y k)
        exec (.corners eng q sl) s = Writes s eng q sl
          ([c.piece 0 (leBytes 4 (keptCorners a y).length ++ leBytes 2 (moW y) ++ leBytes 2 (moH y) ++ List.replicate 24 0 ++ (keptCorners a y).flatMap entry)], noFlags)) ∧
      (Issues s eng q sl 7 4 → ∃ pad : List Byte, pad.length = 28 ∧ exec (.matchCorners eng q sl) s = Writes (useFree s) eng q sl
        ([c.piece 0 (leBytes 4 (cornerCount a) ++ pad ++ (List.range (cornerCount a)).flatMap fun i =>
          leBytes 4 (matchEntry a (rdOp s y (rB y)) y (cornerCount (rdOp s y (rB y))) i))], noFlags)) ∧
      (Issues s eng q sl 7 5 → waCopy y = false → exec (.warpAndBlend eng q sl) s = Writes s eng q sl
        ((List.range (moH y)).map fun j => c.piece (j * c.stride) (packBits (picBits c.fmt) (lineOrder c.fmt (moW y) fun ch x =>
          warpSample a (rdOp s y (rB y)) (rdOp s y (rX y)) (rdOp s y (backMap y)) y ch x (waY0 y + j))), noFlags)) ∧
      (Issues s eng q sl 7 5 → waCopy y = true → exec (.copyA eng q sl) s = Writes s eng q sl
        ((List.range (moH y)).map fun j => c.piece (j * c.stride) (readBytes a ((waY0 y + j) * (rA y).stride) (picLine c.fmt (moW y))), noFlags))) ∧
  (∀ (eng q sl : Nat) (s : State), 40 ≤ eng → Issues s eng q sl 7 2 →
      let y := getSlot s eng q sl
      let ref := rdOp s y (rA y)
      let tgt := rdOp s y (rB y)
      let f := moLow y
      let gw := esGw y f
      let gh := esGh y f
      let above := if moLc y = f then [] else resultsDown ref tgt y (moLc y - f - 1)
      let rs := (List.range (gw * gh)).map fun n => blockResult ref tgt y above n
      let row := fun j => (List.range gw).map fun i => rs.getD (j * gw + i) ((0, noFlags), (0, noFlags), 0, 0)
      let score := min 255 (256 * (rs.filter fun r => decide (bits (cw y 13) 15 8 ≤ r.2.2.1)).length / (gw * gh))
      let scored := setSlot eng q sl { y with run := { y.run with cut := bit (cw y 13) 24 && decide (bits (cw y 13) 7 0 ≤ score), cutScore := score } } s
      let flags := allFlags (rs.map fun r => orFlags r.1.2 r.2.1.2)
      (esPacked y = true → exec (.estimate eng q sl) s = Writes scored eng q sl
        ((List.range gh).flatMap fun j => [(rC y).piece (j * (rC y).stride)
          ((row j).flatMap fun r => leBytes 8 (vectorWord r + r.2.2.1 * 2 ^ 32 + r.2.2.2 * 2 ^ 40))], flags)) ∧
      (esPacked y = false → exec (.estimate eng q sl) s = Writes scored eng q sl
        ((List.range gh).flatMap fun j => [(rC y).piece (j * (rC y).stride) ((row j).flatMap fun r => leBytes 4 (vectorWord r)),
          (rX y).piece (j * (rX y).stride) ((row j).flatMap fun r => leBytes 2 (r.2.2.1 + r.2.2.2 * 256))], flags)))

/-- Finishing: the bytes of the command's own tile are in its shadow pages, the others wait to go out, its unit is free, its flags wait for its commit, and a command with nothing to wait for requests its commit at once; nothing else changes (R85, R86, R88). -/
def Obligations.FinishingDeliversOutputs : Prop :=
  ∀ (eng q sl : Nat) (ps : List Piece) (f : Flags) (s : State),
    let y := getSlot s eng q sl
    let t := deliver eng q sl ps f s
    let ws := ps.flatMap pieceWrites
    let own := fun w : Write => if eng < 32 ∧ w.tile = some eng then shadowOf y.run eng w.page else none
    let far := ws.filter fun w => (own w).isNone
    getSlot t eng q sl = { y with phase := if far = [] ∧ y.run.acks = [] then .requested else .finished,
                                  run := { y.run with finishedAt := cycle s, outbox := far, flags := f } } ∧
    (∀ k, getFrame t k = { getFrame s k with page := (ws.filter fun w => own w == some k).foldl (fun p w => pageWrite p w.off w.bytes) (getFrame s k).page }) ∧
    (∀ u, unitHolder t u = if u = y.run.unit ∧ unitHolder s u = sKey eng q sl + 1 then 0 else unitHolder s u) ∧
    (∀ e' q' sl', sKey e' q' sl' ≠ sKey eng q sl → getSlot t e' q' sl' = getSlot s e' q' sl') ∧
    t = { s with tl := { s.tl with slots := t.tl.slots, units := t.tl.units, frames := t.tl.frames } }

/-! ### Queues: publication, dispatch, writes, kills, commits -/

/-- The wait condition: the count is at or past the wait value, by less than half its range (R331). -/
def Obligations.WaitConditionIsModular : Prop :=
  ∀ count value : BitVec 32, waitHolds count.toNat value.toNat = true ↔ (count - value).toNat < 2 ^ 31

/-- An accepted tail write of a partition outside DET, the first of its cycle, publishes the commands up to the new tail: each takes the partition's next step number, in slot order, keeps its words and waits (R80, R81). A write publishes no more commands than the queue has slots. -/
def Obligations.TailWritePublishesInOrder : Prop :=
  ∀ (m eng q value : Nat) (s : State), Serves m s → Canonical s → s.now.stamped = [] → q < 4 → objExists s (engIndex eng) (0x0C + q) = true →
    isDet s (queuePart s eng q) = false →
    let x := getQueue s eng q
    let tail := value % 65536 % ptrMod eng
    let p := queuePart s eng q
    let n := (tail + ptrMod eng - x.tail) % ptrMod eng
    queueHeld eng { x with tail := tail } ≤ slotsOf eng → queueHeld eng x ≤ queueHeld eng { x with tail := tail } → n ≤ slotsOf eng →
    ∃ t, exec (.tailWrite m eng q value) s = .next t ∧ (getQueue t eng q).tail = tail ∧
      (∀ i < n, let sl := (x.tail + i) % slotsOf eng
        getSlot t eng q sl =
          { getSlot s eng q sl with
            part := p, fallback := false, phase := .waiting, run := Run.init,
            step := (getObj s (oStepAllocator p) + i) % 2 ^ 64 }) ∧
      (∀ e' q' sl', (∀ i < n, sKey e' q' sl' ≠ sKey eng q ((x.tail + i) % slotsOf eng)) → getSlot t e' q' sl' = getSlot s e' q' sl') ∧
      t.tl.frames = s.tl.frames ∧ t.tl.pageMap = s.tl.pageMap ∧ t.tl.units = s.tl.units ∧ t.ci = s.ci ∧ t.io = s.io ∧ t.fab = s.fab ∧ t.alm = s.alm

/-- Dispatch: a head command that a check refuses is marked refused and recorded in last_refusal; one that is ready and wins its point starts on its unit; one whose unit is held by a command that it may kill kills it (R78, R82, R83). -/
def Obligations.DispatchStartsRefusesOrKills : Prop :=
  ∀ (eng q sl : Nat) (s : State), Live s → eng < 48 → q ≤ 4 → judgeable s eng q = some sl →
    let x := getSlot s eng q sl
    (x.part < 16 → ∀ r, refusalOf s eng q x = some r → ∃ t, exec (.dispatch eng q) s = .next t ∧ (getSlot t eng q sl).phase = .refused r ∧
      (getSlot t eng q sl).step = x.step ∧ getObj t (oLastRefusal eng) = (q * 2 ^ 24 + sl * 2 ^ 16 + r) % 2 ^ 32) ∧
    (refusalOf s eng q x = none → ready s eng q = some sl → wins s eng q sl = true → unitFree s eng q x = true →
      ∃ t, exec (.dispatch eng q) s = .next t ∧ (getSlot t eng q sl).phase = .running ∧ (getSlot t eng q sl).run.dispatched = cycle s ∧
        (getSlot t eng q sl).words = x.words ∧ (getSlot t eng q sl).step = x.step ∧ (∀ u, unitOf s eng q x = some u → unitHolder t u = sKey eng q sl + 1)) ∧
    (refusalOf s eng q x = none → ready s eng q = some sl → wins s eng q sl = true → unitFree s eng q x = false →
      exec (.dispatch eng q) s = .next (preempt eng q sl s))

/-- A remote write lands in the shadow page of its destination: inside the write each byte reads as written, outside it and on every other page nothing changes, and the command waits for one more acknowledgement (R88). A Cistern write lands in the shadow slot of its region page: each byte of it reads as written (R200, R205); an acknowledgement takes its entry from those that the command waits for, and the last one lets it request its commit (R86, R167). -/
def Obligations.WritesLandInShadows : Prop :=
  (∀ (eng q sl k tile f : Nat) (w : Write) (s : State), Live s →
      let y := getSlot s eng q sl
      y.phase = .finished → y.run.outbox[k]? = some w → w.tile = some tile →
      (shadowOf y.run tile w.page = some f →
        ∃ t, exec (.remoteWrite eng q sl k) s = .next t ∧
          (∀ (i : Nat) (h : i < w.bytes.length), pageByte (getFrame t f).page (w.off + i) = w.bytes[i]) ∧
          (∀ a, a < w.off ∨ w.off + w.bytes.length ≤ a → pageByte (getFrame t f).page a = pageByte (getFrame s f).page a) ∧
          (∀ g, g ≠ f → getFrame t g = getFrame s g) ∧
          getSlot t eng q sl = { y with run := { y.run with outbox := dropAt y.run.outbox k, acks := y.run.acks ++ [none] } } ∧
          (∀ e' q' sl', sKey e' q' sl' ≠ sKey eng q sl → getSlot t e' q' sl' = getSlot s e' q' sl') ∧ t.ci = s.ci ∧ t.tl.pageMap = s.tl.pageMap ∧ t.st = s.st) ∧
      (∀ s', shadowOf y.run tile w.page = none → allocShadow eng q sl tile w.page s = some (f, s') →
        ∃ t, exec (.remoteWrite eng q sl k) s = .next t ∧
          (∀ (i : Nat) (h : i < w.bytes.length), pageByte (getFrame t f).page (w.off + i) = w.bytes[i]) ∧
          (∀ g, g ≠ f → getFrame t g = getFrame s g) ∧
          (getSlot t eng q sl).run.acks = y.run.acks ++ [none] ∧ shadowOf (getSlot t eng q sl).run tile w.page = some f) ∧
      (shadowOf y.run tile w.page = none → allocShadow eng q sl tile w.page s = none → exec (.remoteWrite eng q sl k) s = .next s)) ∧
  ((∀ (eng q sl k tag c : Nat) (w : Write) (s s' : State), Live s →
      let y := getSlot s eng q sl
      y.phase = .finished → y.run.outbox[k]? = some w → w.tile = none → y.run.tag = some tag → ensureShadow tag (engineDie s eng) w.page s = some (c, s') →
      ∃ t, exec (.parityUpdate eng q sl k) s = .next t ∧
        (∀ (i : Nat) (h : i < w.bytes.length), pageByte (getC t c).page (w.off + i) = w.bytes[i]) ∧
        (∀ a, a < w.off ∨ w.off + w.bytes.length ≤ a → pageByte (getC t c).page a = pageByte (getC s' c).page a) ∧
        getSlot t eng q sl = { y with run := { y.run with outbox := dropAt y.run.outbox k, acks := y.run.acks ++ [some c] } } ∧
        (∀ g, getFrame t g = getFrame s g)) ∧
    (∀ (eng q sl k : Nat) (dst : Option Nat) (late : Bool) (s : State), Live s →
      let y := getSlot s eng q sl
      y.phase = .finished → y.run.acks[k]? = some dst →
      let rest := dropAt y.run.acks k
      let done := setSlot eng q sl { y with phase := if y.run.outbox = [] ∧ rest = [] then .requested else .finished, run := { y.run with acks := rest } } s
      exec (.writeAcknowledgement eng q ⟨sl, k, late⟩) s = .next (if late = true ∧ dst.isSome = true ∧ isDet s y.part = true then perturb done else done)))

/-- A kill that completes gives back the command's unit, and its slot waits again, or is withdrawn or abandoned; its words and step number are unchanged (R89, R323). A notification that its die's queue serves reaches its front end and latches the wait condition (R320, R332). A withdrawal takes the waiting head of a marked job while the list has room (R307). -/
def Obligations.KillsNotificationsAndWithdrawals : Prop :=
  (∀ (eng q sl : Nat) (s : State), Live s → sl ∈ killingSlots s eng q →
    ∃ t, exec (.killComplete eng q sl) s = .next t ∧
      ((getSlot t eng q sl).phase = .waiting ∨ (getSlot t eng q sl).phase = .withdrawn ∨ (getSlot t eng q sl).phase = .abandoned) ∧
      (getSlot t eng q sl).words = (getSlot s eng q sl).words ∧ (getSlot t eng q sl).step = (getSlot s eng q sl).step ∧
      unitHolder t (getSlot s eng q sl).run.unit ≠ sKey eng q sl + 1) ∧
  (∀ (eng q : Nat) (s : State), Live s → noticeTurn s eng q = true → (getQueue s eng q).notified = true →
    exec (.watchNotification eng q) s = .next (setQueue eng q { getQueue s eng q with notified := false, latched := true } (dropNotice eng q s))) ∧
  (∀ (eng q sl : Nat) (s : State), Live s → q < 4 → headSlot s eng q = some sl →
    let y := getSlot s eng q sl
    y.phase = .waiting → cJob y ∈ (getPart s y.part).marks → (getPart s y.part).withdrawals.length < 1024 →
    ∃ t, exec (.withdrawHead eng q) s = .next t ∧ (getSlot t eng q sl).rec0 = 0x20000000#32 ∧ (getSlot t eng q sl).rec1 = BitVec.ofNat 32 y.step ∧
      (getPart t y.part).withdrawals = (getPart s y.part).withdrawals ++ [{ step := y.step, object := cSignalObject y, increment := cIncrement y }])

/-- A grant: the counter of the command's commit sequence reads one higher, the command can no longer be killed, its completion record is written, and its own pages flip at once while those of other tiles wait for their commit message (R77, R86). -/
def Obligations.GrantCommits : Prop :=
  ∀ (eng q sl : Nat) (s : State), Live s →
    let y := getSlot s eng q sl
    y.phase = .requested → stepTurn s y = true →
    ∃ t, exec (.commitGrant eng q sl) s = .next t ∧
      (getSlot t eng q sl).phase = .granted ∧ (getSlot t eng q sl).words = y.words ∧ (getSlot t eng q sl).step = y.step ∧
      (getSlot t eng q sl).rec0 = BitVec.ofNat 32 (commitRecord y) ∧ (getSlot t eng q sl).rec1 = BitVec.ofNat 32 y.step ∧
      (getSlot t eng q sl).run.shadows = y.run.shadows.filter (fun p => !(isLocal eng p)) ∧ (getSlot t eng q sl).run.pins = [] ∧
      (getSlot t eng q sl).run.flips = tilesOf (y.run.shadows.filter fun p => !(isLocal eng p)) ∧
      (∀ e' q' sl', sKey e' q' sl' ≠ sKey eng q sl → getSlot t e' q' sl' = getSlot s e' q' sl') ∧ t.io = s.io ∧ t.fab = s.fab ∧
      (∃ u, t = noticeSteps y.part (countCut eng y u) ∧
        (y.part < 16 → getObj u (if y.fallback then oStepFallback y.part else oStepCounter y.part) =
          (getObj s (if y.fallback then oStepFallback y.part else oStepCounter y.part) + 1) % 2 ^ 64))

/-- The rest of the commit sequence: each remote tile flips the command's pages at its commit message; the signals go out once every tile has flipped, in a later cycle, and the slot is done; refused and abandoned commands and list entries retire at their step, a refused one with its reason in the record, an abandoned one and a list entry with their increment, which their source sends once it holds none (R77, R86, R88, R307, R314, R320, R333); the reset of a partition clears its queues once no kill and no grant is outstanding, and takes the state that it leads to (R318). -/
def Obligations.CommitSequenceRetires : Prop :=
  (∀ (eng q sl tile : Nat) (s : State), Live s →
    let y := getSlot s eng q sl
    y.phase = .granted → tile ∈ y.run.flips →
    ∃ t, exec (.remoteCommitMessage eng q sl tile) s = .next t ∧ (getSlot t eng q sl).phase = .granted ∧
      (getSlot t eng q sl).run.flips = y.run.flips.filter (· != tile) ∧ (getSlot t eng q sl).run.shadows = y.run.shadows.filter (·.tile != tile) ∧
      (∀ e' q' sl', sKey e' q' sl' ≠ sKey eng q sl → getSlot t e' q' sl' = getSlot s e' q' sl') ∧ (∀ k, getObj t k = getObj s k) ∧
      t.ci = s.ci ∧ t.tl.units = s.tl.units ∧ t.tl.queues = s.tl.queues ∧ t.sy = s.sy ∧ t.io = s.io ∧
      t = updSlot eng q sl (fun z => { z with run := { z.run with flips := z.run.flips.filter (· != tile), shadows := z.run.shadows.filter (·.tile != tile) } })
        ((y.run.shadows.filter (·.tile == tile)).foldl (fun s p => flipPin p s) (noteLanded eng q sl s))) ∧
  (∀ (eng q sl : Nat) (s : State), Live s →
    let y := getSlot s eng q sl
    y.phase = .granted → y.run.flips = [] → sourceHolds s (.engine eng) = false →
    let later := if s.now.landed.contains (eng, q, sl) then passCycle s else s
    exec (.commitSignal eng q sl) s =
      .next (noticeCuts (advanceCommit eng q (updSlot eng q sl (fun z => { z with phase := .done, run := Run.init }) (sendCommitSignals eng y later))))) ∧
  (∀ (eng q sl r : Nat) (s : State), Live s →
    let y := getSlot s eng q sl
    y.phase = .refused r → stepTurn s y = true →
    exec (.retireRefused eng q sl) s = .next (noticeCuts (noticeSteps y.part (advanceCommit eng q
      (setSlot eng q sl { y with phase := .done, rec0 := BitVec.ofNat 32 (2 ^ 28 + r * 2 ^ 20), rec1 := BitVec.ofNat 32 y.step } (bumpStep y s)))))) ∧
  (∀ (eng q sl : Nat) (s : State), Live s →
    let y := getSlot s eng q sl
    y.phase = .abandoned → stepTurn s y = true → sourceHolds s (.retire y.part) = false →
    exec (.abandonedRetire eng q sl) s = .next (noticeSteps y.part (advanceCommit eng q
      (setSlot eng q sl { y with phase := .done } (sendSignal (.retire y.part) y.part (cSignalObject y) (cIncrement y) (bumpStep y s)))))) ∧
  (∀ (p : Nat) (w : Withdrawn) (s : State), Live s →
    (getPart s p).withdrawals.find? (fun w => w.step == getObj s (oStepCounter p)) = some w →
    replayHeld s p = false → (getPart s p).grantsHeld = false → pState s p ≠ 4 → sourceHolds s (.retire p) = false →
    exec (.withdrawalListRetire p) s = .next (noticeSteps p (withdrawDoomed p (sendSignal (.retire p) p w.object w.increment (addObj (oStepCounter p) 1
      (updPart p (fun x => { x with withdrawals := x.withdrawals.filter fun w => w.step != getObj s (oStepCounter p) }) s)))))) ∧
  (∀ (p : Nat) (s : State), Live s → pState s p = 4 → resetReady s p = true →
    exec (.resetQueueClear p) s = .next ((List.range 128).foldl (fun s k => if seqState s k ≠ 0 ∧ seqPart s k = p then resumeSeq k s else s)
      (endReset p (clearQueues p s))))

/-! ### Windows of the dictionary, sync objects, partitions -/

/-- The command data of an engine: a read answers the word at the cursor, its reserved bits 0, and moves it on, word by word and from slot to slot; a write changes exactly that word of a slot that is not published, and is refused in a published one (R17, R95, R154, R269). Absent engines count the access (R447). A binding is written when only its enable is cleared, or when its queue is empty and disabled, or when only enable is set and a killed command stands in the queue (log entry 85); otherwise the write is refused. A bank's owner or validity is written when every bank that changes holds no shadow, retired or pinned page; the owner is a pair, whose low half waits in the master's latch (R94, R96, R460). -/
def Obligations.CommandDataBindingAndBanks : Prop :=
  (∀ (m eng value : Nat) (s : State), Serves m s →
      let p := cursorParts eng (getObj s (oCmdCursor eng))
      let y := getSlot s eng p.1 p.2.1
      let next := if p.2.2 < 15 ∨ p.2.2 = 16 then (p.1, p.2.1, p.2.2 + 1) else (p.1, (p.2.1 + 1) % slotsOf eng, if p.2.2 = 17 then 16 else 0)
      (objExists s (oCmdData eng / 256) (oCmdData eng % 256) = true →
        (exec (.cmdDataRead m eng) s = .next (answer m (if p.2.2 < 16 then shownWord y p.2.2 else if p.2.2 = 16 then y.rec0.toNat else if p.2.2 = 17 then y.rec1.toNat else 0)
          (setObj (oCmdCursor eng) (cursorOf next) s))) ∧
        (p.2.2 < 16 → p.1 ≠ 4 → slotPublished s eng p.1 p.2.1 = false →
          exec (.cmdDataWrite m eng value) s = .next (touch (oCmdData eng) (setObj (oCmdCursor eng) (cursorOf next)
            (setSlot eng p.1 p.2.1 { y with words := y.words.set p.2.2 (BitVec.ofNat 32 value) } s)))) ∧
        (p.2.2 < 16 → p.1 = 4 ∨ slotPublished s eng p.1 p.2.1 = true →
          exec (.cmdDataWrite m eng value) s = .next (refuseEngine (engRecord eng) (oCmdData eng) 2 value s)) ∧
        (16 ≤ p.2.2 → exec (.cmdDataWrite m eng value) s = .next s)) ∧
      (objExists s (oCmdData eng / 256) (oCmdData eng % 256) = false →
        exec (.cmdDataRead m eng) s = .next (answer m 0xFFFFFFFF (addObj oOdBadAccess 1 s)) ∧
        exec (.cmdDataWrite m eng value) s = .next (addObj oOdBadAccess 1 s))) ∧
  ((∀ (m eng q value : Nat) (s : State), Serves m s → q < 4 → objExists s (oBinding eng q / 256) (oBinding eng q % 256) = true →
      let old := getObj s (oBinding eng q)
      let x := getQueue s eng q
      let v := value % 65536
      let ok := (bit v 15 = false ∧ bits v 3 0 = bits old 3 0) ∨ (x.tail = x.commit ∧ bit old 15 = false) ∨
        (x.rerun = true ∧ bit v 15 = true ∧ bit old 15 = false ∧ bits v 3 0 = bits old 3 0)
      (ok → exec (.queueBindingWrite m eng q value) s = .next (touch (oBinding eng q) (setObj (oBinding eng q) (v &&& 0x800F)
        (setQueue eng q { x with rerun := false } s)))) ∧
      (¬ ok → exec (.queueBindingWrite m eng q value) s = .next (refuseEngine (engRecord eng) (oBinding eng q) 2 v s))) ∧
    (∀ (m tile value : Nat) (high : Bool) (s : State), Serves m s →
      let v := value % 65536
      ((∀ b < 16, bit v b ≠ bit (getObj s (oTileBankValid tile)) b → bankBusy s tile b = false) →
        exec (.bankOwnerWrite m tile high true value) s = .next (touch (oTileBankValid tile) (setObj (oTileBankValid tile) v s))) ∧
      ((∃ b < 16, bit v b ≠ bit (getObj s (oTileBankValid tile)) b ∧ bankBusy s tile b = true) →
        exec (.bankOwnerWrite m tile high true value) s = .next (refuse m (oTileBankValid tile) 2 v s))) ∧
    (∀ (m tile value : Nat) (s : State), Serves m s →
      exec (.bankOwnerWrite m tile false false value) s =
        .next (setLatches m { getLatches s m with write := some (oTileBankOwner tile, value % 2 ^ 32) } s)) ∧
    (∀ (m tile value low : Nat) (s : State), Serves m s → (getLatches s m).write = some (oTileBankOwner tile, low) →
      let v := value % 2 ^ 32 * 2 ^ 32 + low
      let freed := setLatches m { getLatches s m with write := none } s
      (∀ b < 16, bits v (4 * b + 3) (4 * b) ≠ bits (getObj s (oTileBankOwner tile)) (4 * b + 3) (4 * b) → bankBusy s tile b = false) →
      exec (.bankOwnerWrite m tile true false value) s = .next (touch (oTileBankOwner tile) (setObj (oTileBankOwner tile) v freed))))

/-- The sync window: outside a fill a read answers the count once every earlier update of the master to it is applied, else it waits, and a write or an add sends its update; each moves the cursor on. A fill sends set updates to its objects, and once all have left it is over and the cursor stands after the last. The aperture sends the same updates for its port's master, two for a 64-bit write, reads the count with an aligned 32-bit read, and ignores any other access, which reads all ones (R335, R339 to R341). Arming a host watch keeps its object and value and sends a probe; disarming drops it; unmasking a vector sends the message held for it (R342, R346). -/
def Obligations.SyncWindowsWatchesAndVectors : Prop :=
  (∀ (m value : Nat) (s : State), Serves m s →
      let o := getObj s oSyncCursor % 65536
      (s.sy.fill = none → masterWaits (syncNext s) m o = false →
        exec (.syncDataRead m) s = .next (answer m (syncCount s o) (syncNext s))) ∧
      (s.sy.fill = none → masterWaits (syncNext s) m o = true →
        exec (.syncDataRead m) s = .next (setParked m [.answer o false] (syncNext s))) ∧
      (s.sy.fill = none →
        exec (.syncDataWrite m value) s = .next (touch oSyncData (syncNext (softUpdate m o true value s))) ∧
        exec (.syncAdd m value) s = .next (touch oSyncAdd (syncNext (softUpdate m o false value s)))) ∧
      (s.sy.fill ≠ none → exec (.syncDataWrite m value) s = .next (refuse m oSyncData 2 value s) ∧ exec (.syncAdd m value) s = .next (refuse m oSyncAdd 2 value s)) ∧
      (s.sy.fill = none → 0 < getObj s oSyncFillCount → getObj s oSyncFillCount ≤ 65536 →
        exec (.syncFill m) s = .next (touch oSyncFillCommand (setSyncStatus 0xFF (getObj s oSyncFillCount)
          { s with sy := { s.sy with fill := some { next := o, left := getObj s oSyncFillCount, value := getObj s oSyncFillValue, master := m } } })))) ∧
  (∀ (f : Fill) (s : State), Live s → s.sy.fill = some f → f.left = 0 → sourceHolds s (.fill f.master) = false →
      ∃ t, exec .syncFillComplete s = .next t ∧ t.sy = { s.sy with fill := none } ∧ getObj t oSyncCursor = f.next % 2 ^ 32 ∧ getObj t oSyncStatus = 0 ∧
        OtherObjects [oSyncCursor, oSyncStatus] s t) ∧
  (∀ (f : Fill) (s : State), f.left ≠ 0 → sourceHolds s (.fill f.master) = false → ∀ n,
      fillSome (n + 1) f s = fillSome n { f with next := (f.next + 1) % 65536, left := f.left - 1 }
        (sendUpdate { object := f.next, set := true, value := f.value, source := .fill f.master, part := 16 } s)) ∧
  (∀ (port off : Nat) (a : BusOp) (s : State), Serves (port + 1) s →
      let o := off / 4 % 65536
      (∀ v, off % 4 = 0 → a = .write 4 0xF v →
        exec (.apertureAdd port off a) s = .next (softUpdate (port + 1) o false (v % 2 ^ 32) s) ∧
        exec (.apertureSet port off a) s = .next (softUpdate (port + 1) o true (v % 2 ^ 32) s)) ∧
      (∀ v, off % 8 = 0 → a = .write 8 0xFF v →
        exec (.apertureAdd port off a) s = .next (softUpdate (port + 1) (o + 1) false (v / 2 ^ 32 % 2 ^ 32) (softUpdate (port + 1) o false (v % 2 ^ 32) s)) ∧
        exec (.apertureSet port off a) s = .next (softUpdate (port + 1) (o + 1) true (v / 2 ^ 32 % 2 ^ 32) (softUpdate (port + 1) o true (v % 2 ^ 32) s))) ∧
      (off % 4 = 0 → a = .read 4 → masterWaits s (port + 1) o = false →
        exec (.apertureAdd port off a) s = .next (answer (port + 1) (syncCount s o) s) ∧
        exec (.apertureSet port off a) s = .next (answer (port + 1) (syncCount s o) s)) ∧
      (∀ n, n ≠ 4 ∨ off % 4 ≠ 0 → a = .read n → exec (.apertureAdd port off a) s = .next (answer (port + 1) (2 ^ (8 * n) - 1) s)) ∧
      (∀ n e v, (n ≠ 4 ∨ off % 4 ≠ 0 ∨ e ≠ 0xF) → (n ≠ 8 ∨ off % 8 ≠ 0 ∨ e ≠ 0xFF) → a = .write n e v → exec (.apertureSet port off a) s = .next s)) ∧
  ((∀ (m w value : Nat) (s : State), Serves m s →
      let written := fun v => setObj (oHostWatchControl w) (v &&& 0x8FFF) s
      exec (.hostWatchArm m w value) s = .next (touch (oHostWatchControl w)
        (sendProbe (.hostWatch w) 16 (getObj (written (setBit (value % 65536) 15 true)) (oHostWatchObject w))
          { written (setBit (value % 65536) 15 true) with
            sy := { s.sy with hostArmed := mapPut s.sy.hostArmed w (getObj (written (setBit (value % 65536) 15 true)) (oHostWatchObject w), getObj (written (setBit (value % 65536) 15 true)) (oHostWatchValue w)) } })) ∧
      exec (.hostWatchDisarm m w value) s = .next (touch (oHostWatchControl w)
        { written (setBit (value % 65536) 15 false) with sy := { s.sy with hostArmed := mapErase s.sy.hostArmed w } })) ∧
    (∀ (port vector : Nat) (s : State), Live s →
      ∃ t, exec (.msixVectorUnmask port vector) s = .next t ∧ vector ∈ (getPcie t port).unmasked ∧ vector ∉ (getPcie t port).msixPending ∧
        t.out = (if vector ∈ (getPcie s port).msixPending then .msix port vector :: s.out else s.out) ∧
        (∀ j, j ≠ port → getPcie t j = getPcie s j) ∧ t.objs = s.objs ∧ t.tl = s.tl ∧ t.ci = s.ci ∧ t.sy = s.sy))

/-- An update that the store applies adds to its count modulo 2^32 or sets it, and leaves every other count; it leaves its queue, of which it was the first, and an update that a source held may take the place (R320, R333, R335). In scheduled mode every other slot is the DET queue's; outside it the latency-critical queue goes first (R320, R352), and what scheduled mode left goes before both once it has ended (log entry 19). -/
def Obligations.UpdatesAreApplied : Prop :=
  (∀ (b : Nat) (s : State), Live s → exec (.syncUpdateApply b) s =
    .next (noticeCuts (applyFrom b (if getObj s oDetActive = 1 ∧ (cycle s / 4) % 2 = 0 then .det else nextClass s b) s))) ∧
  (∀ (u : Update) (s : State), syncCount (applyUpdate u s) u.object = (if u.set then u.value else syncCount s u.object + u.value) % 2 ^ 32 ∧
    (∀ o, o ≠ u.object → syncCount (applyUpdate u s) o = syncCount s o) ∧ (∀ b, getBank (applyUpdate u s) b = getBank s b)) ∧
  (∀ (b : Nat) (c : BankClass) (u : Update) (rest : List Update) (s : State), classQueue (getBank s b) c = u :: rest →
    let t := applyUpdate u (setBank b (setClassQueue (getBank s b) rest c) s)
    applyFrom b c s = enterHeld t.sy.held.length t ∧ classQueue (getBank t b) c = rest ∧ (s.sy.held = [] → applyFrom b c s = t)) ∧
  (∀ (b : Nat) (s : State),
    (getObj s oDetActive = 0 → (getBank s b).det ≠ [] → nextClass s b = .det) ∧
    (getObj s oDetActive = 1 ∨ (getBank s b).det = [] → nextClass s b = if (getBank s b).lc = [] then .be else .lc))

/-- Partition commands, once bring-up step 10 is done and outside DET: configure applies or answers its first failed check, start runs, stop and reset start the reset sequence towards states 1 and 2 or 3 (R297, R298, R317, R560). Loans: a lend hands over the banks and queues of the tile and of those that share its physical tile; a reclaim takes one tile, or each lent one in turn, and completes once its queues are empty (R160, R304, R306). -/
def Obligations.PartitionAndLoanCommands : Prop :=
  (∀ (m p : Nat) (s : State), Serves m s → stepDone s 10 = true → isDet s p = false →
      let done := fun t => touch (oPartitionCommand p) (setPStatus p 0 t)
      (configureRefusal s p = none → exec (.partitionConfigure m p) s = .next (done (applyConfigure p s))) ∧
      (∀ r, configureRefusal s p = some r → exec (.partitionConfigure m p) s = .next (setPStatus p r s)) ∧
      (startRefused s p = false → exec (.partitionStart m p) s = .next (done (setObj (oPartitionState p) 2 s))) ∧
      (startRefused s p = true → exec (.partitionStart m p) s = .next (setPStatus p 7 s)) ∧
      (stopRefused s p = false → exec (.partitionStop m p) s = .next (done (startReset p 1 0 s))) ∧
      (stopRefused s p = true → exec (.partitionStop m p) s = .next (setPStatus p 8 s)) ∧
      (pState s p = 2 ∨ pState s p = 3 → exec (.partitionReset m p) s = .next (done (startReset p (if (getPart s p).faultAction = 2 then 3 else 2) 0 s))) ∧
      (pState s p ≠ 2 → pState s p ≠ 3 → exec (.partitionReset m p) s = .next (setPStatus p 9 s))) ∧
  (∀ (m p : Nat) (s : State), Serves m s →
      let t := getObj s (oLoanTile p)
      let done := fun u => touch (oLoanCommand p) u
      ((getPart s p).reclaiming = [] →
        (lendRefusal s p = none → exec (.lend m p) s = .next (done (setLoanStatus p 0 t (getObj s (oLoanBanks p))
          ((foldTiles s t).foldl (fun a u => lendTile p u (getObj s (oLoanBanks p)) (getField a (oLoanQueues p) 3 0) (getObj a (oLoanBorrower p)) a) s)))) ∧
        (∀ r, lendRefusal s p = some r → exec (.lend m p) s = .next (setLoanStatus p r t (getObj s (oLoanBanks p)) s)) ∧
        (loansOn s p t ≠ [] → exec (.reclaimTile m p) s = .next (done (startReclaim p [(foldTiles s t).headD t] s))) ∧
        (lentList s p ≠ [] → exec (.reclaimAll m p) s = .next (done (startReclaim p (lentList s p) s)))) ∧
      ((getPart s p).reclaiming ≠ [] → exec (.lend m p) s = .next (refuse m (oLoanCommand p) 2 1 s))) ∧
  (∀ (p : Nat) (s : State), Live s →
      (∀ u rest, (getPart s p).reclaiming = u :: rest → (loansOn s p u).all (loanKilled s) = true →
        ((loansOn (markLent p u s) p u).all fun l => loanEmpty (markLent p u s) l && loanKilled (markLent p u s) l) = true →
        exec (.reclaimComplete p) s = .next (finishReclaim p u (markLent p u s))))

/-- Accounting and replay: a withdraw marks its job and withdraws its commands, a restore clears the mark, a clear empties one record or all of a partition, but for what this cycle's commits charge, and the windows answer the record word and the peeked page word at their cursors (R307, R328, R361). At an admission point of the scheduled mode every event of every DET partition that came before this cycle takes effect, in the order of R354, and none of them is left waiting (R363). -/
def Obligations.AccountingPeekAndAdmission : Prop :=
  (∀ (m p value : Nat) (s : State), Serves m s →
      let job := value % 65536
      (isDet s p = false →
        exec (.acctWithdraw m p value) s = .next (touch (oAcctWithdraw p) (markJob p job s)) ∧
        exec (.acctRestore m p value) s = .next (touch (oAcctRestore p) (setPart p { getPart s p with marks := (getPart s p).marks.filter (· != job) } s))) ∧
      (job < 1024 → exec (.acctClear m p value) s = .next (touch (oAcctClear p)
        (setAcct (p * 1024 + job) { Acct.init with exec := chargedNow s (p * 1024 + job) } s))) ∧
      (job = 0xFFFF → s.now.charged = [] → exec (.acctClear m p value) s =
        .next (touch (oAcctClear p) { s with pt := { s.pt with accts := s.pt.accts.filter fun e => e.1 / 1024 != p } })) ∧
      (let c := getObj s (oAcctCursor p) % 8192
       let a := getAcct s (p * 1024 + c / 8)
       acctLatched s p c = none →
       ∃ t, exec (.acctDataRead m p) s = .next t ∧ t.out = .readData m (acctWord a (c % 8)) :: s.out ∧
         (p < 16 → getObj t (oAcctCursor p) = (c + 1) % 8192) ∧ ∀ k, getAcct t k = getAcct s k) ∧
      (∀ v, peekWord s p = some v →
        exec (.peekDataRead m p) s = .next (answer m v (setObj (oReplayPeekCursor p)
          (setBits (getObj s (oReplayPeekCursor p)) 38 2 (bits (getObj s (oReplayPeekCursor p)) 38 2 + 1)) s))) ∧
      (peekWord s p = none → exec (.peekDataRead m p) s = .next (answer m 0 s))) ∧
  (∀ s : State, Live s → s.clk.started = true → cycle s % getObj s oDetQuantum = 0 → detParts s ≠ [] →
      let evs := (detParts s).flatMap fun p => (dueEvents s p).map fun e => (p, e)
      let emptied := (detParts s).foldl (fun s p => updPart p (fun x => { x with detPending := x.detPending.drop (dueEvents s p).length }) s) s
      let taken := (sortOn (fun e => eventRank e.2) evs).foldl (fun s e => takeEvent e.1 e.2 s) emptied
      exec .admissionPoint s = .next (noticeCuts taken))

/-! ### The Cistern -/

/-- A line read or scrub of a slot that is there: a clean line changes only counters, a corrected one and a reconstructed one are noted in last_error and change no byte, and with a second member unreadable the line reads zero and every other line as before; a line on a lost stack or on a channel that is out is reconstructed, and lost where another member of its stripe is out too (R198, R199, R229, R230, R237). A DET read that is corrected or reconstructed counts as a perturbation, and so does one whose data is late (R353, R356). -/
def Obligations.LineReadsHealOrZero : Prop :=
  ∀ (slot line : Nat) (v : LineVerdict) (s : State), Live s → slotThere s slot = true →
    let read := lineRead slot line v s
    let seen := lineVerdict s slot line v
    let noted := fun kind => kind * 2 ^ 28 + slot / stackSlots * 2 ^ 24 + slot % stackSlots
    (∀ det late, let r := if det = true ∧ mended seen = true then perturb read else read
      exec (.cisternLineRead slot line v ⟨det, late⟩) s = .next (if det = true ∧ late = true then perturb r else r)) ∧
    exec (.scrubRead slot line v) s = .next read ∧
    (lineOut s slot line = false → memberOut s slot line = false → seen = v) ∧
    (lineOut s slot line = true → seen = .bad (memberOut s slot line || v == .bad true)) ∧
    (seen ≠ .bad true → read = { s with objs := read.objs, now := read.now }) ∧
    (seen = .corrected → getObj read oCisternLastError = noted 1 % 2 ^ 32) ∧ (seen = .bad false → getObj read oCisternLastError = noted 2 % 2 ^ 32) ∧
    (seen = .bad true → (∀ i < 64, pageByte (getC read slot).page (64 * line + i) = 0) ∧
      (∀ a, a < 64 * line ∨ 64 * line + 64 ≤ a → pageByte (getC read slot).page a = pageByte (getC s slot).page a) ∧
      (∀ k, k ≠ slot → getC read k = getC s k))

/-- A tag that is committed or killed settles and returns to the pool; a retired slot that no reader can want becomes free and reads as no page (R209, R210, R211). -/
def Obligations.TagsAndSlotsAreFreed : Prop :=
  (∀ (tag : Nat) (x : Tag) (s : State), Live s → getTag s tag = some x → x.st ≠ .live →
    ∃ t, exec (.tagSettle tag) s = .next t ∧ getTag t tag = none ∧ (∀ u, u ≠ tag → getTag t u = getTag s u) ∧
      (x.st = .killed → ∀ e ∈ x.entries, getC t e.2 = CSlot.init) ∧
      t = { s with ci := { s.ci with slots := t.ci.slots, pages := t.ci.pages, tags := t.ci.tags } }) ∧
  (∀ (slot : Nat) (s : State), Live s → (getC s slot).st = .retired → slotUnread s (getC s slot) = true →
    ∃ t, exec (.retiredSlotFree slot) s = .next t ∧ getC t slot = CSlot.init ∧ (∀ k, k ≠ slot → getC t k = getC s k) ∧
      (∀ v ∈ versions t (getC s slot).part (getC s slot).rpage, v.slot ≠ some slot) ∧
      t = { s with ci := { s.ci with slots := t.ci.slots, pages := t.ci.pages } })

/-- Migration: a start with valid objects runs and takes a slot for its first page, an abort ends it and frees the slot of the page being moved, and each page switch moves or skips one page until the count is done; a rebuild switches its pages the same way, and where both run a free value says whose page it is (R231, R232, R236; log entry 88). A page moved to a new slot: later readers see it in the new slot with the same bytes, and the old slot is retired (R232). -/
def Obligations.MigrationMovesPages : Prop :=
  (∀ (m : Nat) (s : State), Serves m s →
      (s.ci.migrate = none → getObj s oCisternState ≠ 0 → migrateOk s = true →
        exec (.migrateStart m) s = .next (touch oCisternMigrateCommand (beginPage (setMigrateStatus 1 0 { s with ci := { s.ci with
          migrate := some (getObj s oCisternMigratePartition, getObj s oCisternMigrateFirst, getObj s oCisternMigrateCount, getObj s oCisternMigrateTarget) } })))) ∧
      (s.ci.migrate = none → getObj s oCisternState ≠ 0 → migrateOk s = false →
        exec (.migrateStart m) s = .next (refuse m oCisternMigrateCommand 1 1 (setMigrateStatus 3 0 s))) ∧
      (s.ci.migrate ≠ none →
        let freed := dropMove s.ci.moving s
        exec (.migrateStart m) s = .next (refuse m oCisternMigrateCommand 2 1 s) ∧
        exec (.migrateAbort m) s = .next (touch oCisternMigrateCommand (setMigrateStatus 2 (migratePages freed)
          { freed with ci := { freed.ci with migrate := none, moving := none } }))) ∧
      (s.ci.migrate = none → exec (.migrateAbort m) s = .next (refuse m oCisternMigrateCommand 2 2 s))) ∧
  (∀ (x : PageMove) (s : State), Live s → moveReady x = true →
      (∀ p q left target, getObj s oCisternState ≠ 3 → s.ci.migrate = some (p, q, left, target) → s.ci.moving = some x →
        let moved := switchPage x s
        let n := migratePages moved + 1
        exec .pageMigrationSwitch s = .next (if left ≤ 1 then setMigrateStatus 0 n { moved with ci := { moved.ci with moving := none, migrate := none } }
          else beginPage (setMigrateStatus 1 n { moved with ci := { moved.ci with moving := none, migrate := some (p, q + 1, left - 1, target) } }))) ∧
      (getObj s oCisternState = 3 → s.ci.migrate = none → s.ci.rebuilding = some x → exec .pageMigrationSwitch s = .next (beginRebuild (switchPage x s))) ∧
      (getObj s oCisternState = 3 → s.ci.migrate.isSome = true →
        exec .pageMigrationSwitch s = .next (if freeNat s 1 = 1 then rebuildStep (useFree s) else migrateStep (useFree s)))) ∧
  (∀ (k new : Nat) (s : State), k ≠ new →
      let c := getC s k
      let t := movePage k new s
      t.ci.serial = s.ci.serial + 1 ∧ slotAt t c.part c.rpage t.ci.serial = some new ∧ (getC t new).page = c.page ∧
      (weightPages s c.part ≤ c.rpage → ∀ off, off / 65536 = c.rpage → regionByte t c.part t.ci.serial off = pageByte c.page (off % 65536)) ∧
      (getC t k).st = .retired ∧ (getC t k).page = c.page ∧ (∀ j, j ≠ k → j ≠ new → getC t j = getC s j))

/-- Stacks and channels: a lost stack makes its learned entry and is lost; a retired one is lost without one; a rebuild that has moved every slot ends; a channel retrains alone, others wait, and it serves again with its stale lines rewritten, or is lost, four lost ones losing the stack (R229 to R231, R565). -/
def Obligations.StacksAndChannels : Prop :=
  (∀ (stack : Nat) (s : State), Live s → stackUp s stack = true → exec (.stackLost stack) s = .next (loseStack stack (learn 3 stack 0 0 0 s))) ∧
  (∀ (m value : Nat) (s : State), Serves m s → value % 256 < 8 → (presentStacks s).contains (value % 256) = true →
    (someLost s = false → stackUp s (value % 256) = true →
      exec (.retireStack m value) s = .next (touch oCisternRetireStack (loseStack (value % 256) s))) ∧
    (someLost s = true → exec (.retireStack m value) s = .next (refuse m oCisternRetireStack 2 (value % 256) s))) ∧
  (∀ s : State, Live s → getObj s oCisternState = 3 → rebuildMoves s = [] →
    let lost := (presentStacks s).filter fun k => stackState s k == 4
    let spare := lost.foldl (fun s k => setStackState k 5 s) s
    let full := setObj oCisternAllocatable (rebuiltSlots spare) (setCisternState 4 spare)
    exec .rebuildComplete s = .next (capture 0x0603 31 (lost.headD 0) 4 0 0 { full with ci := { full.ci with rebuilding := none } })) ∧
  (∀ (stack ch : Nat) (s : State), Live s → stackUp s stack = true → (stack, ch) ∉ s.ci.lostPcs → (stack, ch) ∉ s.ci.pcWaiting →
    (s.ci.pcRetrain = none →
      exec (.pcRetrainStart stack ch) s = .next (setStackState stack 2 { s with ci := { s.ci with pcRetrain := some (stack, ch) } })) ∧
    (∀ e, s.ci.pcRetrain = some e → e ≠ (stack, ch) →
      exec (.pcRetrainStart stack ch) s = .next { s with ci := { s.ci with pcWaiting := s.ci.pcWaiting ++ [(stack, ch)] } })) ∧
  (∀ (stack ch : Nat) (s : State), Live s → s.ci.pcRetrain = some (stack, ch) →
    let freed := { s with ci := { s.ci with pcRetrain := none, stale := s.ci.stale.filter fun e => !((slotParts e.1).1 == stack && lineChannel e.1 e.2 == ch) } }
    (s.ci.lostPcs.filter fun e => e.1 == stack).length < 3 →
    exec (.pcRetrainComplete stack ch true) s = .next (nextRetrain (capture 0x0604 31 stack ch 0 0 (setStackState stack (restState freed stack) freed))) ∧
    exec (.pcRetrainComplete stack ch false) s = .next (nextRetrain (capture 0x0604 31 stack ch 1 0
      (learn 4 stack ch 0 0 (setStackState stack 3 { freed with ci := { freed.ci with lostPcs := s.ci.lostPcs ++ [(stack, ch)] } })))))

/-- The size objects of a region are written while its partition does not run: the span within the reserve and above its mapped pages, the reserve within the capacity and above the slots in use, the placement 0 or 1; a running partition refuses them (R202, R203, R239). -/
def Obligations.RegionWrites : Prop :=
  ∀ (m p value : Nat) (s : State), Serves m s →
    (2 ≤ pState s p →
      exec (.regionWrite m p 1 value) s = .next (refuse m (oRegionSpan p) 2 value s) ∧
      exec (.regionWrite m p 2 value) s = .next (refuse m (oRegionReserve p) 2 value s) ∧
      exec (.regionWrite m p 3 value) s = .next (refuse m (oRegionPlacement p) 2 (value % 256) s)) ∧
    (pState s p < 2 →
      (mappedTop s p ≤ value → value ≤ getObj s (oRegionReserve p) →
        exec (.regionWrite m p 1 value) s = .next (touch (oRegionSpan p) (setObj (oRegionSpan p) value s))) ∧
      (value < mappedTop s p ∨ getObj s (oRegionReserve p) < value → exec (.regionWrite m p 1 value) s = .next (refuse m (oRegionSpan p) 1 value s)) ∧
      (getObj s (oRegionSpan p) ≤ value → regionUse s p ≤ value →
        (reservedTotal s - getObj s (oRegionReserve p) + value + getObj s oCisternFallbackMargin ≤ getObj s oCisternAllocatable →
          exec (.regionWrite m p 2 value) s = .next (touch (oRegionReserve p) (retryRebuild (setObj (oRegionReserve p) value s)))) ∧
        (getObj s oCisternAllocatable < reservedTotal s - getObj s (oRegionReserve p) + value + getObj s oCisternFallbackMargin →
          exec (.regionWrite m p 2 value) s = .next (refuse m (oRegionReserve p) 1 value
            (capture 0x0305 31 0 (reservedTotal s - getObj s (oRegionReserve p) + value + getObj s oCisternFallbackMargin) (getObj s oCisternAllocatable) 0 s)))) ∧
      (value % 256 ≤ 1 → exec (.regionWrite m p 3 value) s = .next (touch (oRegionPlacement p) (setObj (oRegionPlacement p) (value % 256) s))) ∧
      (1 < value % 256 → exec (.regionWrite m p 3 value) s = .next (refuse m (oRegionPlacement p) 1 (value % 256) s)))

/-! ### Images and links -/

/-- Loads: a load into a stopped partition starts its checks, an unload unmaps the partition's pages unless it has lent (result 0x06, log entry 42), an abort stops the running load, and a command that meets another load is refused without disturbing it; the load engine that reaches a later phase reports its failed check or the phase, and with phase 5 the image (R185, R186, R188). -/
def Obligations.LoadCommands : Prop :=
  (∀ (m : Nat) (image : List Byte) (s : State), Serves m s →
    let p := loadPart s
    (s.fab.load = none → pState s p = 1 → slotEmpty s (getObj s oFabricLoadSlot) = false →
      ∃ t bs, exec (.load m image) s = .next t ∧ t.fab.load = some { part := p, slot := getObj s oFabricLoadSlot, phase := 1, image := bs } ∧
        getObj t oFabricLoadStatus = (0xFF * 2 ^ 24 + 0x7FF * 2 ^ 13 + 0x3F * 2 ^ 7 + 16 + p) % 2 ^ 32 ∧ getObj t oFabricLoadProgress = 0 ∧
        t = { s with objs := t.objs, fab := { s.fab with load := t.fab.load } }) ∧
    (s.fab.load = none → pState s p ≠ 1 → exec (.load m image) s = .next (reportLoad (failPlain 5) 0 p 0 s) ∧ exec (.unload m) s = .next (reportLoad (failPlain 5) 0 p 0 s)) ∧
    (s.fab.load = none → pState s p = 1 → (getPart s p).loans = [] → exec (.unload m) s = .next (touch oFabricLoadCommand
      (reportLoad (failPlain 0) 5 p (partImage s p) (updPart p (fun x => { x with loaded := none }) (unmapTiles p s))))) ∧
    (s.fab.load = none → pState s p = 1 → (getPart s p).loans ≠ [] → exec (.unload m) s = .next (reportLoad (failPlain 6) 0 p 0 s)) ∧
    (∀ r, s.fab.load = some r → r.part = p → exec (.abortLoad m) s = .next (touch oFabricLoadCommand (stopLoad r s))) ∧
    (∀ r, s.fab.load = some r → ∃ t, exec (.load m image) s = .next t ∧ exec (.unload m) s = .next t ∧ t.fab = s.fab ∧
      getObj t oFabricLoadStatus = getObj s oFabricLoadStatus ∧ getObj t oFabricLoadProgress = getObj s oFabricLoadProgress ∧
      getObj t oFabricLoadImageId = getObj s oFabricLoadImageId ∧ getObj t oOdLastRefused = refusalWord oFabricLoadCommand 2 % 2 ^ 32)) ∧
  (∀ s : State, Live s →
    (∀ r phase, s.fab.load = some r → r.phase < phase → phase ≤ 5 →
      let d := loadFile s r
      (∀ f, r.phase = 1 → loadFail s r.part d = some f → exec (.loadComplete phase) s =
        .next (reportLoad f 1 r.part (if headerOk d then imId d else 0) (noteImage d { s with fab := { s.fab with load := none } }))) ∧
      (r.phase ≠ 1 → phase < 5 → exec (.loadComplete phase) s =
        .next (let t := leavePhases r.part d r.phase phase s
               setObj oFabricLoadStatus (loadStatus (failPlain 0xFF) phase r.part) { t with fab := { t.fab with load := some { r with phase := phase } } })) ∧
      (r.phase ≠ 1 → phase = 5 → exec (.loadComplete phase) s =
        .next (let t := leavePhases r.part d r.phase 5 s
               reportLoad (failPlain 0) 5 r.part (imId d) (setObj oFabricLoadImageId (imId d) { t with fab := { t.fab with load := none } })))) ∧
    (∀ r phase, s.fab.load = some r → r.phase = 1 → loadFail s r.part (loadFile s r) = none → 1 < phase → phase < 5 →
      ∃ t, exec (.loadComplete phase) s = .next t ∧ t.fab.load = some { r with phase := phase } ∧
        getObj t oFabricLoadStatus = loadStatus (failPlain 0xFF) phase r.part % 2 ^ 32))

/-- Links: a flit whose check fails is replayed, and more than the limit within 1 ms retrain the link; a failing lane is taken out with its learned entry, its group retraining onto the spare or the whole link retraining; retraining ends up, degraded or failed, and a failed link tries once more after 100 ms; a replay or reroute that DET traffic meets counts as a perturbation (R169, R356, R530, R564). -/
def Obligations.LinkEvents : Prop :=
  (∀ (link : Nat) (det : Bool) (s : State), Live s → linkUp s link = true →
    (exec (.flitCheckFailure link det) s = .next (if det then perturb (replayFlit link s) else replayFlit link s)) ∧
    (exec (.linkRetrain link det) s = .next (if det then perturb (startLinkRetrain link s) else startLinkRetrain link s)) ∧
    (exec (.linkSlip ⟨link, det⟩) s = .next (if det then perturb (startLinkRetrain link s) else startLinkRetrain link s)) ∧
    (link < 8 → linkState (startLinkRetrain link s) link = 3)) ∧
  (∀ (link dir group lane : Nat) (det : Bool) (s : State), Live s → linkUp s link = true → (dir, group, lane) ∉ (getLink s link).out →
    let lost := loseLane link dir group lane s
    (groupOut (getLink s link) dir group = 0 → lane ≠ 16 → exec (.laneFailure link dir group ⟨lane, det⟩) s =
      .next (setLink link { getLink lost link with groups := (dir, group) :: (getLink lost link).groups } lost)) ∧
    (groupOut (getLink s link) dir group = 0 → lane = 16 → exec (.laneFailure link dir group ⟨lane, det⟩) s = .next lost) ∧
    (groupOut (getLink s link) dir group = 1 → exec (.laneFailure link dir group ⟨lane, det⟩) s = .next (if det then perturb (startLinkRetrain link lost) else startLinkRetrain link lost)) ∧
    (2 ≤ groupOut (getLink s link) dir group → exec (.laneFailure link dir group ⟨lane, det⟩) s = .next lost)) ∧
  (∀ (link dir group : Nat) (s : State), Live s →
    exec (.groupRetrainComplete link dir group) s =
      .next (setLink link { getLink s link with groups := (getLink s link).groups.filter fun e => e != (dir, group) } s)) ∧
  (∀ (link : Nat) (s : State), Live s → linkState s link = 3 → s.pw.computeOff = false →
    let x := getLink s link
    (trainedState x ≠ 4 → exec (.linkRetrainComplete link [] true) s =
      .next (retrainRecord link 0 (setLinkState link (trainedState x) (setLink link { x with failedAt := none, retried := false } s)))) ∧
    (exec (.linkRetrainComplete link [] false) s =
      .next (retrainRecord link 1 (setLinkState link 4 (setLink link { x with failedAt := if x.retried then none else some (ticks s) } s))))) ∧
  (∀ (link from_ : Nat) (s : State), Live s → linkState s link = 4 → (getLink s link).failedAt = some from_ → from_ + 100 * 1400000 ≤ ticks s → s.pw.computeOff = false →
    exec (.linkRetrainRetry link) s = .next (setLinkState link 3 (setLink link { getLink s link with failedAt := none, retried := true } s)))

/-! ### Sequencers and the deadline monitor -/

/-- Stream commands: an accepted start clears the stream's counters, puts the stream into state 1 and records it; a refused one leaves its state; a stop of a stream that waits ends it at once, of a running one asks for the stop, but in the cycle of an admission stops it with nothing of that admission published (R291); a forced cut is remembered until the next decision, but not by a stopping stream (R286, R290, R294, R295). -/
def Obligations.StreamCommands : Prop :=
  (∀ (m k : Nat) (s : State), Serves m s → k < 128 →
    ((startResult s k).1 = 0 → ∃ t, exec (.streamStart m k) s = .next t ∧ getObj t (oSeqState k) = 1 ∧
      (∀ o ∈ [oSeqGaps k, oSeqDrops k, oSeqFallbackFrames k, oDlmSwitches k, oDlmLate k, oOverlayOverflows k], getObj t o = 0) ∧
      getObj t (oDlmMinSlack k) = 0x7FFFFFFF ∧ getOverlay t k = Overlay.init ∧ getSeq t k = getSeq s k ∧ t.tl = s.tl ∧ t.ci = s.ci ∧ t.pt = s.pt ∧ t.io = s.io) ∧
    ((startResult s k).1 ≠ 0 → ∃ t, exec (.streamStart m k) s = .next t ∧ getObj t (oSeqState k) = getObj s (oSeqState k) ∧
      getObj t (oSeqStatus k) = ((startResult s k).1 * 2 ^ 24 + (startResult s k).2.1 * 2 ^ 15 + (startResult s k).2.2) % 2 ^ 32 ∧ t.tl = s.tl ∧ t.ci = s.ci ∧ t.pt = s.pt ∧ t.io = s.io)) ∧
  (∀ (m k : Nat) (s : State), Serves m s →
    (seqState s k = 1 → exec (.streamStop m k) s = .next (touch (oSeqCommand k) (finishStop k s))) ∧
    (seqState s k = 2 ∨ seqState s k = 3 → admittedNow s k = none →
      exec (.streamStop m k) s = .next (touch (oSeqCommand k) (setSeq k { getSeq s k with stopReq := true } s))) ∧
    (∀ f, seqState s k = 2 ∨ seqState s k = 3 → admittedNow s k = some f →
      exec (.streamStop m k) s = .next (touch (oSeqCommand k) (stopNow k (undoAdmission k f s)))) ∧
    (seqState s k ≠ 4 → exec (.forceCut m k) s = .next (touch (oSeqCommand k) (setSeq k { getSeq s k with force := true } s))) ∧
    (seqState s k = 4 → exec (.forceCut m k) s = .next (touch (oSeqCommand k) s)) ∧
    (seqState s k = 4 → (∀ w ∈ getWatched s k, w.presented = true) → exec (.stopComplete k) s = .next (finishStop k s))) ∧
  (∀ (k : Nat) (s : State), k < 128 →
    let t := finishStop k s
    getObj t (oSeqState k) = 0 ∧ getSeq t k = Seq.init ∧ getWatched t k = [] ∧ (∀ j, j ≠ k → getSeq t j = getSeq s j ∧ getWatched t j = getWatched s j) ∧
    t.tl = s.tl ∧ t.ci = s.ci ∧ t.pt = s.pt ∧ t.io = s.io)

/-- Publication: a source frame that does not come by the end of its window is a gap, counted and recorded, and its output frames are handed over; the sequencer that the port chooses writes its next step's words into the queue's next slot and publishes it, the first of its cycle's steps leaving every other slot as it is (R81 orders those of one cycle), and a fallback step is published the same way on the fallback queue (R274, R277, R282, R287, R311, R312). -/
def Obligations.FramesArePublished : Prop :=
  (∀ (k : Nat) (s : State), Live s → seqState s k = 2 ∨ seqState s k = 3 → (getSeq s k).waits = none →
    let x := getSeq s k
    4 * dueOf s k x.mNext + sourceSpan s k < 4 * cycle s →
    exec (.sourceGap k) s = .next (handFrames k (seqUp s k * (x.mNext - 1) + 1) (seqUp s k * x.mNext + 1)
      (capture 0x0402 (seqPart s k) k x.mNext 0 0 (setObj (oSeqSrcFrame k) x.mNext (addObj (oSeqGaps k) 1
        (setSeq k { x with mNext := x.mNext + 1, gapBefore := true } s)))))) ∧
  (∀ (k n eng q : Nat) (l : Loaded) (x : Seq) (i : Inst) (s : State), Live s → portChoice s = some k → seqLoaded s k = some l → seqHead s k = some (x, i, n, eng, q) →
    exec (.publishStep k) s = .next (publishOne k l x i n eng q s) ∧
    (eng < 48 → q < 4 → (getQueue s eng q).tail < ptrMod eng → queueHeld eng (getQueue s eng q) < slotsOf eng → i.dropped = false → s.now.stamped = [] →
      let qu := getQueue s eng q
      let t := publishOne k l x i n eng q s
      (getQueue t eng q).tail = (qu.tail + 1) % ptrMod eng ∧
      (getSlot t eng q (qu.tail % slotsOf eng)).words = stepCommand s k l i n ∧ (getSlot t eng q (qu.tail % slotsOf eng)).phase = .waiting ∧
      (getSlot t eng q (qu.tail % slotsOf eng)).part = seqPart s k ∧
      (∀ e q' sl, sKey e q' sl ≠ sKey eng q (qu.tail % slotsOf eng) → getSlot t e q' sl = getSlot s e q' sl) ∧ t.ci = s.ci ∧ t.io = s.io)) ∧
  (∀ (k i : Nat) (l : Loaded) (x : Inst) (rest : List (Nat × Inst)) (s : State), Live s →
    s.st.fallback = (k, x) :: rest → seqLoaded s k = some l → instNext l x = some i →
    let eng := stepEngine s l (stepHead l.fallbacks (graphDesc l.fallbacks x.graph) i)
    let qu := getQueue s eng 4
    qu.tail < ptrMod eng → queueHeld eng qu < slotsOf eng →
    ∃ t, exec (.fallbackPublishStep k) s = .next t ∧ (getQueue t eng 4).tail = (qu.tail + 1) % ptrMod eng ∧
      (getSlot t eng 4 (qu.tail % slotsOf eng)).words = stepCommand s k l x i ∧ (getSlot t eng 4 (qu.tail % slotsOf eng)).fallback = true ∧
      (getSlot t eng 4 (qu.tail % slotsOf eng)).step = (getPart s (seqPart s k)).fbAllocator ∧
      (instNext l { x with next := i + 1 } = none → t.st.fallback = rest) ∧
      (instNext l { x with next := i + 1 } ≠ none → t.st.fallback = (k, { x with next := i + 1 }) :: rest))

/-- At its checkpoint a frame that has finished by then is presented from its own picture and its slack is noted; one that has not is switched to its fallback, counted and recorded. A switched frame is presented from the fallback picture, marked late when its fallback has not committed by the late check (R283, R284, R310, R311, R312, R315). -/
def Obligations.CheckpointsAndLateFrames : Prop :=
  (∀ (k : Nat) (w : Watched) (s : State), Live s → dueCheckpoint s k = some w → (∀ j < k, dueCheckpoint s j = none) →
    (completeAt s k w = true → exec (.checkpoint k) s = .next (presentFrame k { w with fallback := some false } false
      (noteSlack k (slackNs s k w.o (w.finishedAt.getD 0)) (updWatched k w.o (fun w => { w with fallback := some false }) s)))) ∧
    (completeAt s k w = false → exec (.checkpoint k) s = .next (switchFrame k w s))) ∧
  (∀ (k : Nat) (w : Watched) (s : State), Live s →
    ((getWatched s k).find? fun w => w.fallback == some true && !w.presented && decide (dOf s k w.o ≤ cycle s + 50 * usTicks)) = some w →
    ((∃ n, w.fbLast = some n ∧ n < getObj s (oStepFallback (seqPart s k))) → exec (.lateCheck k) s = .next (presentFrame k w false s)) ∧
    ((∀ n, w.fbLast = some n → getObj s (oStepFallback (seqPart s k)) ≤ n) → exec (.lateCheck k) s =
      .next (presentFrame k w true (capture 0x0408 (seqPart s k) k w.o 0 0 (addObj (oDlmLate k) 1 (addObj oDlmLateTotal 1 s)))))) ∧
  (∀ (k : Nat) (w : Watched) (late : Bool) (s : State), getObj s (oSeqOutput k) / 4096 = 1 →
    let out := getObj s (oSeqOutput k) % 256
    let t := presentFrame k w late s
    let fb := w.fallback == some true
    (∃ pr : Present, (getPort t out).waiting = (getPort s out).waiting ++ [pr] ∧ pr.k = k ∧ pr.o = w.o ∧ pr.late = late ∧ pr.fallback = fb ∧
      pr.pic = (if fb then w.fb else w.primary).getD (noPicture (seqPart s k))) ∧
    (∀ p, p ≠ out → getPort t p = getPort s p) ∧ t.tl = s.tl ∧ t.ci = s.ci ∧ t.pt = s.pt ∧ t.alm = s.alm)

/-! ### Raster ports, timing, passthrough, mute and overlay -/

/-- Input lanes and segments: a lane that locks reads locked and four lanes locked to one sequence number align the port (R369, R370); a lane that loses lock counts and takes an aligned port out of alignment (R370); a timing segment with sof starts the frame it carries, an ancillary one is appended, a segment whose CRC-32C fails, or that is damaged, is counted and concealed (R373, R379, R380); a frame whose timing segment does not come, or came bad, starts on the slot grid with the next counter (R380). -/
def Obligations.InputLanesAndSegments : Prop :=
  ∀ (port lane : Nat) (s : State), Live s → port < 8 → inputOn s port = true →
    let st := getObj s (oRasterState port)
    (∀ seq, lane < 4 → st ≠ 4 → laneState s port lane ≠ 3 →
      ∃ t, exec (.laneBlockLock port lane seq) s = .next t ∧ (getPort t port).alignSeq = (getPort s port).alignSeq.set lane (seq % 65536) ∧
        (getObj t (oRasterState port) = 2 ∨ getObj t (oRasterState port) = st) ∧
        (getObj t (oRasterLanes port) = 0x3333 ∨ laneState t port lane = 1) ∧
        t = { s with objs := t.objs, io := { s.io with raster := t.io.raster } } ∧ OtherObjects [oRasterState port, oRasterLanes port] s t) ∧
    (lane < 4 → 1 ≤ laneState s port lane → laneState s port lane ≤ 3 →
      ∃ t, exec (.laneLockLoss port lane) s = .next t ∧ laneState t port lane = 4 ∧ getObj t (oRasterLockLosses port) = (getObj s (oRasterLockLosses port) + 1) % 2 ^ 32 ∧
        getObj t (oRasterState port) = (if st = 2 then 3 else st) ∧ t = { s with objs := t.objs } ∧
        OtherObjects [oRasterState port, oRasterLanes port, oRasterLockLosses port] s t) ∧
    (∀ seg : SegmentData, st = 2 ∨ st = 3 →
      let good := crcGood seg = true ∧ seg.damaged = false ∧ st = 2
      (seg.kind = 3 → good → exec (.inputSegment port lane seg) s =
        .next (pathTake port (segmentHeader seg) (padBlocks seg.bytes)
          (if bit seg.flags 0 then startFrame port (natAt seg.bytes 0 4) (bits (natAt seg.bytes 0 8) 59 48) s else s))) ∧
      (seg.kind = 1 → good → ∃ t, exec (.inputSegment port lane seg) s = .next t ∧
        (getPort t port).nextAnc = (putBytes (getPort s port).nextAnc (8 * seg.offset) seg.bytes).take 16384 ∧ (∀ j, j ≠ port → getPort t j = getPort s j) ∧
        t = { s with io := { s.io with raster := t.io.raster, paths := t.io.paths } }) ∧
      (seg.kind = 0 → good → ∀ f, (getPort s port).inFrame = some f → f.line = seg.line → f.off ≤ seg.offset →
        seg.line < (portLines s port).1 → seg.offset < ceilDiv (portLineBytes s port) 8 →
        let n := ceilDiv seg.bytes.length 8
        let a := afterRange (ceilDiv (portLineBytes s port) 8) seg.line seg.offset n
        let u := storeVideo port f.targets seg.line seg.offset seg.bytes
          (pathTake port (headerBlock seg.frame seg.flags n seg.offset seg.line 0) (padBlocks seg.bytes) (concealTo port seg.line seg.offset s))
        ∃ g, (getPort u port).inFrame = some g ∧ g.targets = f.targets ∧
          exec (.inputSegment port lane seg) s = .next (frameDone port (setPort port { getPort u port with inFrame := some { g with line := a.1, off := a.2 } } u))) ∧
      (seg.kind = 2 → good → (∀ k ∈ inputStreams s port, seqState s k = 0) → ∃ t, exec (.inputSegment port lane seg) s = .next t ∧
        t = { s with io := { s.io with raster := t.io.raster, paths := t.io.paths } }) ∧
      (seg.kind = 1 → ¬ good → exec (.inputSegment port lane seg) s = .next (countNext port (!crcGood seg) s)) ∧
      (seg.kind = 3 → ¬ good → exec (.inputSegment port lane seg) s =
        .next (setPort port { getPort (countNext port (!crcGood seg) s) port with timingBad := true } (countNext port (!crcGood seg) s))) ∧
      (3 < seg.kind → exec (.inputSegment port lane seg) s = .next (countConcealed port (!crcGood seg) s))) ∧
    (2 ≤ st → (getPort s port).lastStart ≠ 0 → (getPort s port).lastStart + portFrame s port ≤ cycle s →
      let counter := ((getPort s port).lastCounter + 1) % 2 ^ 32
      exec (.inputSlotGridFrameStart port) s = .next (pathTake port (headerBlock counter 1 1 0 0 3) (leBytes 8 counter)
        (startFrame port counter (setsOfFrame 0 (portFrame s port)) (if (getPort s port).timingBad then s else countNext port false s))))

/-- Output lines: the next line of a present is asked for while the buffer has room, a fetched line holds its picture's bytes, and each active line slot sends its line, each blanking slot the waiting blank segments (R376, R383, R388); the compare of a waiting present with the last full one holds exactly when every line's bytes agree (R389); at its boundary an output advances its timing, its stream's frame number goes on, and a port begins its frame (R288, R532). -/
def Obligations.OutputLinesAndFrames : Prop :=
  ∀ (port : Nat) (s : State), Live s →
    let x := getPort s port
    (outputOn s port = true → x.entries.length < 16 → x.loading = none → x.held = false → (∃ pr, x.current = some pr) →
      x.nextFetch < (portLines s port).1 → x.nextFetch < x.slotLine + 16 →
      exec (.lineFetch port) s = .next (setPort port { x with
        entries := x.entries ++ [{ line := x.nextFetch, st := .fetching, bytes := [] }], nextFetch := x.nextFetch + 1 } s)) ∧
    (∀ pr line, x.loading = none → x.current = some pr → x.slotLine ≤ line → (∃ e ∈ x.entries, e.line = line ∧ e.st = .fetching) →
      ∃ t, exec (.lineFetchComplete port line) s = .next t ∧
        (getPort t port).entries = x.entries.map (fun e => if e.line = line ∧ e.st = .fetching then
          { e with st := .filled, bytes := pictureLine s pr line (portLineBytes s port) } else e) ∧
        t = { s with objs := t.objs, io := { s.io with raster := t.io.raster } } ∧ OtherObjects [oRasterLevel port, oRasterFill port] s t) ∧
    (∀ pr rest old, x.loading = none → x.waiting = pr :: rest → x.lastFull = some old → vtOn s port = true → cycle s < pr.d →
      ∃ t, exec (.staticCompareComplete port) s = .next t ∧
        ((getPort t port).equalFor = some pr.o ↔ ∀ l < (portLines s port).1,
          pictureLine s pr l (portLineBytes s port) = pictureLine s old l (portLineBytes s port)) ∧
        ((getPort t port).equalFor = some pr.o ∨ (getPort t port).equalFor = none) ∧
        t = { s with io := { s.io with raster := t.io.raster } }) ∧
    (outputOn s port = true → x.start ≠ 0 → x.start + portSpan s port x.slotLine ≤ cycle s → pathOut s port = none →
      (∀ pr, 0 < x.slotLine → x.slotLine < (portLines s port).1 → x.slotLine < (portLines s port).2 → x.current = some pr → x.held = false →
        exec (.lineSlot port) s = .next (noteFill port (sendLine port x.slotLine pr (setPort port { x with slotLine := x.slotLine + 1 } s)))) ∧
      (0 < x.slotLine → (portLines s port).1 ≤ x.slotLine → x.slotLine < (portLines s port).2 →
        exec (.lineSlot port) s = .next (blankLine port x.slotLine (setPort port { x with slotLine := x.slotLine + 1 } s)))) ∧
    (∀ g, port < 8 → x.gen = some g → genAt (rateHz (outParams s port).1) g g.next ≤ cycle s →
      let u := setPort port { x with gen := some g.advance } s
      exec (.outputFrameBoundary port) s = .next (beginFrame port (genAt (rateHz (outParams s port).1) g g.next)
        (stopPaths port (match streamOf s true 1 port with
          | some k => noteBoundary k g.next u
          | none => u)))) ∧
    (∀ r g k, (getRing s r).gen = some g → genAt (rateHz (outParams s (8 + r)).1) g g.next ≤ cycle s → streamOf s true 2 r = some k →
      exec (.outputFrameBoundary (8 + r)) s = .next (noteBoundary k g.next (setRing r { getRing s r with gen := some g.advance } s)))

/-- Genlock and 1PPS: a first pulse is taken up in state 1, a pulse that disagrees with the last period starts the agreement anew, one that agrees sets the measured period, and missing pulses put the outputs into holdover (R438, R533, R534, R535); a 1PPS edge is counted always, taken or rejected by its distance while enabled, and 3 s without one hold over (R540). -/
def Obligations.TimingReferences : Prop :=
  ∀ s : State, Live s →
    let c := s.clk
    (c.pulse = none → exec .genlockPulse s = .next (setGenlock 1 { s with clk := { c with pulse := some (ticks s), pulses := 1, periods := [] } })) ∧
    (∀ p, c.pulse = some p → c.periods = [] → c.pulses + 1 < 4 →
      exec .genlockPulse s = .next (setObj oTimingGenlockPeriod ((ticks s - p) * 5 / 7)
        { s with clk := { c with pulse := some (ticks s), pulses := c.pulses + 1, periods := [ticks s - p] } })) ∧
    (∀ p q rest, c.pulse = some p → c.periods = q :: rest →
      let per := ticks s - p
      (q + usTicks < per ∨ per + usTicks < q →
        exec .genlockPulse s = .next { s with clk := { c with pulse := some (ticks s), pulses := 2, periods := [per] } }) ∧
      (per ≤ q + usTicks → q ≤ per + usTicks → c.pulses + 1 < 4 →
        exec .genlockPulse s = .next (setObj oTimingGenlockPeriod (per * 5 / 7)
          { s with clk := { c with pulse := some (ticks s), pulses := c.pulses + 1, periods := (per :: c.periods).take 16 } })) ∧
      (per ≤ q + usTicks → q ≤ per + usTicks → 3 ≤ c.pulses →
        ∃ t, exec .genlockPulse s = .next t ∧ getObj t oTimingGenlockState = 2 ∧ getObj t oTimingGenlockPeriod = per * 5 / 7 % 2 ^ 32 ∧ t.tl = s.tl ∧ t.ci = s.ci)) ∧
    (∀ p, c.pulse = some p → p + 2 * c.periods.headD 58333334 ≤ ticks s →
      ∃ t, exec .genlockLoss s = .next t ∧ getObj t oTimingGenlockState = 3 ∧ t.clk.pulse = none ∧ t.clk.pulses = 0 ∧ t.tl = s.tl ∧ t.ci = s.ci) ∧
    (let n := addObj oTimingPpsCount 1 s;
      (getObj s oTimePpsEnable = 0 → exec .ppsEdge s = .next n) ∧
      (getObj s oTimePpsEnable ≠ 0 → ppsAccepts s = false → exec .ppsEdge s = .next (addObj oTimePpsRejects 1 n)) ∧
      (getObj s oTimePpsEnable ≠ 0 → ppsAccepts s = true → exec .ppsEdge s = .next (ppsAccepted n))) ∧
    (getObj s oTimePpsState = 1 ∨ getObj s oTimePpsState = 2 → c.ppsFrom + 3000000 * usTicks ≤ ticks s →
      exec .ppsLoss s = .next (setPps 3 { s with clk := { c with ppsEdge := none, ppsGood := 0 } }))

/-- Mute and passthrough: a request on a mute land mutes the enabled output ports of mute_ports at once, counting and recording it where none stood; its release starts the hold, whose end clears the mute (R396); a path starts when its check finds nothing wrong and its stop is left to the next frame boundary (R488). -/
def Obligations.MuteAndPassthrough : Prop :=
  (∀ s : State, Live s → Canonical s → muteLand s = true →
    (s.io.lands.muteLevel = false → ∃ t, exec .muteRequest s = .next t ∧ t.io.lands.muteLevel = true ∧ t.io.lands.muteHold = none ∧
      (∀ p < 8, objBit t oAudioMuteState p = (objBit s oAudioMutePorts p && outputOn s p)) ∧
      (muteStands s = false → getObj t oAudioMuteState ≠ 0 → getObj t oAudioMuteEvents = (getObj s oAudioMuteEvents + 1) % 2 ^ 32) ∧
      OtherObjects [oAudioMuteState, oAudioMuteEvents, oAlmanacLost] s t ∧
      t = { s with objs := t.objs, io := { s.io with lands := { s.io.lands with muteLevel := true, muteHold := none } }, now := t.now, alm := t.alm, fw := t.fw }) ∧
    (s.io.lands.muteLevel = true → exec .muteRelease s =
      .next { s with io := { s.io with lands := { s.io.lands with muteLevel := false, muteHold := some (ticks s + getObj s oAudioMuteHold * 1000 * usTicks) } } })) ∧
  (∀ (h : Nat) (s : State), Live s → s.io.lands.muteHold = some h → h ≤ ticks s →
    (s.io.lands.muteLevel = false → exec .muteHoldExpiry s = .next (setObj oAudioMuteState 0 { s with io := { s.io with lands := { s.io.lands with muteHold := none } } })) ∧
    (s.io.lands.muteLevel = true → exec .muteHoldExpiry s = .next (refreshMute { s with io := { s.io with lands := { s.io.lands with muteHold := none } } }))) ∧
  (∀ (m j : Nat) (s : State), Serves m s → s.fw.weirUp = true → s.fw.weirRestart = none →
    (pathResult s j = 0 → exec (.passthruStart m j) s = .next (touch (oPassthruCommand j) (setPath j Path.init (setObj (oPassthruState j) 1 (setObj (oPassthruStatus j) 0 s))))) ∧
    (pathResult s j ≠ 0 → exec (.passthruStart m j) s = .next (setObj (oPassthruStatus j) (pathResult s j * 2 ^ 24) s))) ∧
  (∀ (m j : Nat) (s : State), Serves m s → j < 4 →
    (getObj s (oPassthruState j) = 1 → exec (.passthruStop m j) s = .next (touch (oPassthruCommand j) (setObj (oPassthruState j) 2 (setObj (oPassthruStatus j) 0 s)))) ∧
    (getObj s (oPassthruState j) ≠ 1 → exec (.passthruStop m j) s = .next (touch (oPassthruCommand j) (setObj (oPassthruStatus j) 0 s))))

/-- The overlay: binning builds the half for the next output frame at its lead and holds the layers' read epochs; at the deadline 32 lines before the frame a good half becomes current and is counted, a failed or missing one leaves the current half, counts an overflow and records it, and the frames of a ring take the half that is current now; a bin row of a frame that is not held, or of a ring's next band, renders into the strip of its parity (R284, R410, R417, R418, R419). -/
def Obligations.OverlayHalves : Prop :=
  (∀ (k : Nat) (s : State), Live s → 2 ≤ seqState s k → overlayServed s k = true →
    let x := getOverlay s k
    let o := (getSeq s k).oNext
    (x.binned ≠ some o → x.frame ≠ some o → x.held = none → dOf s k o ≤ cycle s + leadSpan s k →
      exec (.binningStart k) s = .next (addObj (oOverlayDiscarded k) (buildHalf s k o x.nextId).2.2 (setOverlay k { x with
        building := some (buildHalf s k o x.nextId).1, fail := (buildHalf s k o x.nextId).2.1, binned := some o, due := dOf s k o, epochs := layerEpochs s k, nextId := x.nextId + 1 } s))) ∧
    (x.frame ≠ some o → dOf s k o ≤ cycle s + outLines s k 32 →
      (x.binned = some o → x.fail = none → exec (.binningDeadline k) s = .next (attachRings k o (addObj oOverlayFramesTotal 1 (setOverlay k { x with
        current := x.building, building := none, held := retireHalf s k x.current, frame := some o, epochs := [] } s)))) ∧
      (∀ f, (if x.binned = some o then x.fail else some (4, 0, 0)) = some f →
        ∃ t, exec (.binningDeadline k) s = .next t ∧ getOverlay t k = { x with building := none, frame := some o, epochs := [] } ∧
          (∀ j, j ≠ k → getOverlay t j = getOverlay s j) ∧ getObj t (oOverlayLastOverflow k) = overflowWord f % 2 ^ 32 ∧
          getObj t (oOverlayOverflows k) = (getObj s (oOverlayOverflows k) + 1) % 2 ^ 32 ∧ t.tl = s.tl ∧ t.ci = s.ci ∧ t.pt = s.pt ∧
          t.io = { s.io with rings := t.io.rings } ∧ (getObj s (oSeqOutput k) / 4096 ≠ 2 → t.io = s.io)))) ∧
  (∀ (k row o : Nat) (h : Half) (s : State), Live s → getObj s (oSeqOutput k) / 4096 = 1 →
    (getOverlay s k).frame = some o → (getOverlay s k).current = some h → 32 * row < h.h →
    portD s (getObj s (oSeqOutput k) % 256) k o + outLines s k (32 * row) ≤ cycle s + outLines s k 32 → frameHeld s (getObj s (oSeqOutput k) % 256) k o = false →
    ∃ t, exec (.binRowRender k row) s = .next t ∧ mapFind (getOverlay t k).strips (row % 2) = some (o, row, renderRow s.free h row) ∧
      mapFind (getOverlay t k).strips ((row + 1) % 2) = mapFind (getOverlay s k).strips ((row + 1) % 2) ∧
      t = { s with free := t.free, st := { s.st with overlays := t.st.overlays } }) ∧
  (∀ (k row id : Nat) (f : DmaFrame) (rest : List DmaFrame) (h : Half) (s : State), Live s → getObj s (oSeqOutput k) / 4096 ≠ 1 →
    (getRing s (getObj s (oSeqOutput k) % 256)).frames = f :: rest → f.present.half = some id → halfById (getOverlay s k) id = some h →
    f.present.k = k → f.band = row → mapFind (getOverlay s k).strips (row % 2) = none → f.d + outLines s k (32 * row) ≤ cycle s + outLines s k 32 →
    exec (.binRowRender k row) s = .next (setStrip k f.present.o row h s))

/-! ### DMA rings and PCIe ports -/

/-- Ring transfers: a doorbell reads the new descriptors behind those held, takes the last ones back where its tail lies before the one in force (log entry 85), or is refused when the distance to the head does not fit the ring (R426, R451); the descriptors that wait for credits go first, and the port's next ready band is written to host memory at its place in the buffer, a buffer too short ends the frame with result 0x04 (R427, R429); an input buffer is taken, or completed with its error (R430); a completion ends a descriptor with 16 bytes behind its words and moves the head (R427); a host read that times out ends its descriptor, load or copy (R187, R430, R492). -/
def Obligations.RingTransfers : Prop :=
  (∀ (port ring tail : Nat) (descs : List HostDesc) (s : State), Live s → hostReads s port = true →
    let x := getRing s ring
    let n := (tail + 65536 - getField s (oDmaPointers ring) 15 0) % 65536
    (n ≤ 2 ^ getObj s (oDmaRingLog2 ring) → ∃ t, exec (.doorbellWrite port ring tail descs) s = .next t ∧
      (x.held.length ≤ n → n - x.held.length ≤ descs.length → (getRing t ring).held = x.held ++ descs.take (n - x.held.length)) ∧
      (n ≤ x.held.length → (getRing t ring).held = x.held.take n) ∧
      (getRing t ring).frames = x.frames ∧ getField t (oDmaPointers ring) 31 16 = tail % 65536 ∧ getField t (oDmaPointers ring) 15 0 = getField s (oDmaPointers ring) 15 0 ∧
      (∀ j, j ≠ ring → getRing t j = getRing s j) ∧ t = { s with objs := t.objs, io := { s.io with rings := t.io.rings } } ∧ OtherObjects [oDmaPointers ring, oDmaState ring] s t) ∧
    (2 ^ getObj s (oDmaRingLog2 ring) < n →
      exec (.doorbellWrite port ring tail descs) s = .next (refuse (port + 1) (oDmaPointers ring) 2 tail s))) ∧
  (∀ (port r : Nat) (f : DmaFrame) (s : State), Live s → hostReads s port = true →
    let u := sendOwed port s
    let full := picAt u r + (ringSize u r).2 * ringStride u r
    (nextBand u port = some (r, f) → f.desc.length < full → exec (.outputBandWrite port) s = .next (endFrame r 4 0 u)) ∧
    (nextBand u port = some (r, f) → full ≤ f.desc.length → exec (.outputBandWrite port) s = .next (writeBand port r f u)) ∧
    (nextBand u port = none → exec (.outputBandWrite port) s = .next u) ∧
    (32 * (f.band + 1) < (ringSize s r).2 → 0 < f.band →
      let t := writeBand port r f s
      t.out = .hostWrite port (f.desc.address + f.sent) (bandBytes s r f) :: s.out ∧
      (getRing t r).frames = { f with band := f.band + 1, sent := f.sent + (bandBytes s r f).length } :: (getRing s r).frames.drop 1 ∧
      (∀ j, j ≠ r → getRing t j = getRing s j) ∧ t.tl = s.tl ∧ t.ci = s.ci ∧ t.objs = s.objs)) ∧
  (∀ (ring : Nat) (desc : HostDesc) (data : List Byte) (s : State), Live s → readingRing s ring = some desc →
    let m := inputCounter s ring data
    let size := picAt s ring + (ringSize s ring).2 * natAt data 0x10 4
    (desc.length < 64 → exec (.inputReadCompletion ring data) s = .next (completeDesc ring 6 data.length m 0 s)) ∧
    (64 ≤ desc.length → data.length < 64 → exec (.inputReadCompletion ring data) s = .next (completeDesc ring 5 data.length m 0 s)) ∧
    (64 ≤ data.length → badHeader s ring desc.length data = true →
      exec (.inputReadCompletion ring data) s = .next (completeDesc ring 6 data.length m 0 s)) ∧
    (64 ≤ data.length → badHeader s ring desc.length data = false → data.length < size →
      exec (.inputReadCompletion ring data) s = .next (completeDesc ring 5 data.length m 0 s)) ∧
    (64 ≤ data.length → badHeader s ring desc.length data = false → size ≤ data.length →
      exec (.inputReadCompletion ring data) s = .next (completeDesc ring 1 size m 0 ((ringStreams s ring).foldl (fun s k => takeInput ring data k s) s))) ∧
    exec (.completionTimeout 0 ring) s = .next (useFree (completeDesc ring 5 (freeNat s 32) (inputCounter s ring []) 0 s))) ∧
  (∀ (ring result n frame skipped : Nat) (s : State), ring < 128 →
    let t := completeDesc ring result n frame skipped s
    let head := getField s (oDmaPointers ring) 15 0
    (getRing t ring).held = (getRing s ring).held.drop 1 ∧ getField t (oDmaPointers ring) 15 0 = (head + 1) % 65536 ∧
    .hostWrite (ringPort s ring) (getObj s (oDmaRingBase ring) + 32 * (head % 2 ^ getObj s (oDmaRingLog2 ring)) + 16)
      (leBytes 4 (result * 2 ^ 24) ++ leBytes 4 n ++ leBytes 4 frame ++ leBytes 4 skipped) ∈ t.out ∧
    (∀ j, j ≠ ring → getRing t j = getRing s j) ∧ t.tl = s.tl ∧ t.ci = s.ci) ∧
  (∀ (unit : Nat) (s : State), Live s →
    (∀ r : LoadRun, s.fab.load = some r → 4 ≤ r.slot → r.phase = 1 → exec (.completionTimeout 1 unit) s =
      .next (reportLoad (if unit < 1024 then failSection 3 unit else failPlain 2) 1 r.part 0 { s with fab := { s.fab with load := none } })) ∧
    (∀ c : FwCmd, s.fw.cmd = some c → c.code = 4 → c.failed = none → exec (.completionTimeout 2 unit) s =
      .next (fwResult 6 0 (spoilBlocks c { s with fw := { s.fw with cmd := none } }))))

/-- Ports: a port that has reached its stall limit abandons the frames that have begun on every ring of the port, after the bytes that left before, counted and recorded; a frame two intervals late is abandoned, unless the stall limit comes first; a link that goes down stops the port's rings and reads as down; a function-level reset stops them, clears the port's latches and masks every vector; a retried flit changes nothing; a link that comes up reads its width and speed; D3 holds (R424, R431, R433, R445, R459, R460). -/
def Obligations.PortEvents : Prop :=
  ∀ (port : Nat) (s : State), Live s → port < 2 →
    (∀ sent, stallDue s port = true → exec (.stallLimitExpiry ⟨port, sent⟩) s =
      .next (let u := sendPart port sent s
             let rings := mapKeys u.io.rings
             let t := rings.foldl (fun s r => abandonRing port 2 r s) u
             notePosted port (capture 0x0506 31 port (sumNat (rings.map fun r => (begunFrames u port r).length)) 2 0 (addObj (oPcieStalls port) 1 t)))) ∧
    (∀ sent, stallDue s port = false → exec (.stallLimitExpiry ⟨port, sent⟩) s = .next s) ∧
    (∀ ring f rest, ringOn s ring = true → ringOut s ring = true → (getRing s ring).frames = f :: rest → f.d + 2 * ringFrame s ring ≤ cycle s →
      let t := abandonFrame ring 3 s
      (stallDue s (ringPort s ring) = false → exec (.lateAbandon ring) s = .next (capture 0x0506 31 (ringPort s ring) 1 3 0 t)) ∧
      (stallDue s (ringPort s ring) = true → exec (.lateAbandon ring) s = .next (stallPort (ringPort s ring) 0 s)) ∧
      (getRing t ring).frames = rest ∧ (getRing t ring).held = (getRing s ring).held ∧
      (getPcie t (ringPort s ring)).owed = (getPcie s (ringPort s ring)).owed ++ [{ ring := ring, result := 3, bytes := f.sent, frame := f.present.o, since := cycle s }] ∧
      t.out = s.out ∧ t.tl = s.tl ∧ t.ci = s.ci) ∧
    (objBit s (oPcieLink port) 0 = true → exec (.pcieLinkDown port) s = .next (setObj (oPcieLink port) 0 (stopRings port s))) ∧
    (∃ t, exec (.functionLevelReset port) s = .next t ∧ getPcie t port = Pcie.init ∧ (∀ j, j ≠ port → getPcie t j = getPcie s j) ∧
      (∀ r < 128, ringPort s r = port → (getRing t r).frames = [] ∧ getObj t (oDmaState r) = 3) ∧
      (∀ r < 128, ringPort s r ≠ port → getRing t r = getRing s r ∧ getObj t (oDmaState r) = getObj s (oDmaState r)) ∧
      getLatches t (port + 1) = Latches.init ∧ t.tl = s.tl ∧ t.ci = s.ci ∧ t.pt = s.pt) ∧
    exec (.pcieFlitRetry port) s = .next s ∧
    (∀ width speed, exec (.pcieLinkUp port width speed) s = .next (setObj (oPcieLink port) (width * 2 ^ 8 + speed * 2 ^ 4 + 1) s)) ∧
    (∀ d3, exec (.pciePowerStateWrite port d3) s = .next (setPcie port { getPcie s port with d3 := d3 } s) ∧
      (getPcie (setPcie port { getPcie s port with d3 := d3 } s) port).d3 = d3)

/-! ### The CAN node, the dictionary and the low-speed lands -/

/-- Network management: a reset restores the communication objects, makes the node pre-operational and sends its boot-up; start, stop and pre-operational set the state; the heartbeat carries the state; a TPDO of type n goes out at the n-th SYNC, one of an event type when its timer ends; bus errors are noted and bus-off entries counted (R436, R444). -/
def Obligations.NodeEvents : Prop :=
  (∀ s : State, Live s → canTalks s = true →
    (exec .nmtResetNode s = .next (canReset s) ∧ exec .nmtResetCommunication s = .next (canReset s) ∧ (canReset s).io.can.nmt = 127 ∧
      (canReset s).out = .can (0x700 + getObj s oCanNodeId) [0] :: s.out ∧ (canReset s).tl = s.tl ∧ (canReset s).ci = s.ci) ∧
    (∃ t, exec .nmtStart s = .next t ∧ t.io.can.nmt = 5 ∧ t = { s with io := { s.io with can := t.io.can } }) ∧
    exec .nmtStop s = .next { s with io := { s.io with can := { s.io.can with nmt := 4 } } } ∧
    exec .nmtPreOperational s = .next { s with io := { s.io with can := { s.io.can with nmt := 127 } } } ∧
    (0 < getObj s oCommHeartbeat → getObj s oCommHeartbeat * 1000 ≤ canSince s s.io.can.heartbeatAt →
      exec .heartbeatTimer s = .next (emit (.can (0x700 + getObj s oCanNodeId) [BitVec.ofNat 8 s.io.can.nmt])
        { s with io := { s.io with can := { s.io.can with heartbeatAt := getObj s oCanTimestamp } } }))) ∧
  (∀ s : State, Live s → (exec (.syncMessage (getObj s oCommCobSync % 2 ^ 11)) s = .next ((List.range 8).foldl (fun s t => syncTpdo t s) s)) ∧
    (∀ t, tpdoOn s t = true → 1 ≤ getObj s (oCommTpdoTransmission t) → getObj s (oCommTpdoTransmission t) ≤ 240 →
      let n := mapGet 0 s.io.can.syncs t + 1
      (getObj s (oCommTpdoTransmission t) ≤ n → syncTpdo t s = sendTpdo t s) ∧
      (n < getObj s (oCommTpdoTransmission t) → (syncTpdo t s).out = s.out ∧ mapGet 0 (syncTpdo t s).io.can.syncs t = n)) ∧
    (∀ t < 8, tpdoOn s t = true → 0xFE ≤ getObj s (oCommTpdoTransmission t) → 0 < getObj s (oCommTpdoTimer t) →
      let since := canSince s (mapGet 0 s.io.can.tpdoAt t)
      getObj s (oCommTpdoTimer t) * 1000 ≤ since → getObj s (oCommTpdoInhibit t) * 100 ≤ since → exec (.tpdoEventTimer t) s = .next (sendTpdo t s)) ∧
    (∀ t, (sendTpdo t s).out = .can (getObj s (oCommTpdoCob t) % 2 ^ 11) (tpdoData s t) :: s.out)) ∧
  (∀ (tec rec : Nat) (off : Bool) (s : State), Live s → getObj s oCanNodeId ≠ 0 →
    ∃ t, exec (.canBusError tec rec off) s = .next t ∧ t.io.can.busOff = off ∧ getField t oCanErrors 7 0 = min tec 255 ∧ getField t oCanErrors 15 8 = min rec 255 ∧
      getField t oCanErrors 31 16 = (getField s oCanErrors 31 16 + (if off = true ∧ s.io.can.busOff = false then 1 else 0)) % 65536 ∧
      t = { s with objs := t.objs, io := { s.io with can := { s.io.can with busOff := off } } } ∧ OtherObjects [oCanErrors] s t)

/-- Accesses to objects: a read-only object takes no write; the low half of a pair waits in the master's latch and takes effect with the high half, which without it is refused with reason 3; a low-half read latches the high half; an absent object answers all ones, is aborted over CAN and counted; one word over USDO is written and confirmed, or aborted with its reason, and uploaded as it reads; a bus access that is not whole and aligned has no effect and reads all ones, and a whole one reaches the object of its address, or none (R425, R447, R451 to R454, R459, R460). -/
def Obligations.ObjectAccesses : Prop :=
  ∀ (m index sub v : Nat) (s : State), Serves m s →
    let key := index * 256 + sub
    (objExists s index sub = true → exec (.objectWrite m index sub (.word v)) s = .next (ackWrite key (writeWord m index sub v s)).1) ∧
    (∀ f i r, objExists s index sub = true → fnOf index = some (f, i) → rowOf f.rows sub = some r →
      (r.acc = .ro → exec (.objectWrite m index sub (.word v)) s = .next s) ∧
      (r.acc ≠ .ro → r.width = 64 → isHigh r sub = false → pairHalf index sub false = true →
        exec (.lowHalfWrite m index sub v) s = .next (setLatches m { getLatches s m with write := some (key, v % 2 ^ 32) } s)) ∧
      (r.acc ≠ .ro → r.width = 64 → isHigh r sub = true → pairHalf index sub true = true →
        (∀ low, (getLatches s m).write = some (key - 1, low) → exec (.highHalfWrite m index sub v) s = .next (ackWrite key
          (writeOf m f.base i (sub - 1) (key - 1) (v % 2 ^ 32 * 2 ^ 32 + low) (setLatches m { getLatches s m with write := none } s))).1) ∧
        ((getLatches s m).write = none → exec (.highHalfWrite m index sub v) s = .next (refuse m (key - 1 + 1) 3 v s)))) ∧
    (∀ r, objExists s index sub = true → pairHalf index sub false = true → objRow key = some r →
      ∃ t, exec (.lowHalfRead m index sub) s = .next t ∧ t.out.head? = some (.readData m ((readWhole key s).1 % 2 ^ 32)) ∧
        (getLatches t m).read = some (key, (readWhole key s).1 / 2 ^ 32 % 2 ^ 32)) ∧
    (objExists s index sub = false →
      (m ≠ 0 → exec (.absentAccess m index sub none) s = .next (answer m 0xFFFFFFFF (addObj oOdBadAccess 1 s)) ∧
        exec (.absentAccess m index sub (some v)) s = .next (addObj oOdBadAccess 1 s)) ∧
      (∀ wr, m = 0 → exec (.absentAccess m index sub wr) s = .next (emit (.usdoAbort (absentAbort index s)) (addObj oOdBadAccess 1 s)))) ∧
    (∃ t, exec (.compatDataRead m) s = .next t ∧ getObj t oCompatCursor = (getObj s oCompatCursor + 1) % 1024 ∧
      t.out = .readData m (compatRead s).1 :: s.out ∧ OtherObjects [oCompatCursor] s t) ∧
    (∀ data : List Byte, usdoOn s = true → objExists s index sub = true → readOnly index sub = false → data.length = usdoLength index sub → boolBad index sub (leNat data) = false →
      (∀ t, writeWord 0 index sub (leNat data) s = (t, .done) → exec (.usdoDownload index sub data) s = .next (emit .usdoDone (touch key t))) ∧
      (∀ t r, writeWord 0 index sub (leNat data) s = (t, .refused r) → exec (.usdoDownload index sub data) s = .next (emit (.usdoAbort (abortOf r)) t))) ∧
    (usdoOn s = true → objExists s index sub = true → key ≠ oSyncData →
      exec (.usdoUpload index sub none) s = .next (emit (.usdoData (leBytes (usdoLength index sub) (readWord 0 index sub s).1)) (readWord 0 index sub s).2)) ∧
    (∀ bar off, m = 1 ∨ m = 2 → (∀ set o, barTarget bar off ≠ .aperture set o) →
      (∀ n, busWhole off (.read n) = false → exec (.objectWrite m bar off (.bus (.read n))) s = .next (answer m (2 ^ (8 * n) - 1) s)) ∧
      (∀ n enables w, busWhole off (.write n enables w) = false → exec (.objectWrite m bar off (.bus (.write n enables w))) s = .next s) ∧
      (∀ w, off % 4 = 0 → barTarget bar off = .object index sub →
        exec (.objectWrite m bar off (.bus (.write 4 15 w))) s = .next (writeObject m index sub (w % 2 ^ 32) s)) ∧
      (off % 4 = 0 → barTarget bar off = .unassigned → exec (.objectWrite m bar off (.bus (.read 4))) s = .next (answer m 0xFFFFFFFF s))) ∧
    (∀ reason, let t := refuse m key reason v s
      getObj t oOdLastRefused = refusalWord key reason % 2 ^ 32 ∧ OtherObjects [oOdLastRefused, oAlmanacLost] s t ∧ t = { s with objs := t.objs, now := t.now, alm := t.alm, fw := t.fw })

/-- Access rules of objects: a write of a read-only object has no effect by any path and is aborted over CAN with nothing else changed; a write-only object reads 0, also over CAN (R452). -/
def Obligations.ReadOnlyAndWriteOnlyObjects : Prop :=
  ∀ (m index sub v : Nat) (r : DictRow) (s : State), Serves m s → sub < 256 → objExists s index sub = true → objRow (index * 256 + sub) = some r →
    (r.acc = .ro → exec (.objectWrite m index sub (.word v)) s = .next s ∧ (pairHalf index sub false = true → exec (.lowHalfWrite m index sub v) s = .next s) ∧
      (pairHalf index sub true = true → exec (.highHalfWrite m index sub v) s = .next s) ∧
      (usdoOn s = true → ∀ data, exec (.usdoDownload index sub data) s = .next (emit (.usdoAbort 0x06010002) s))) ∧
    (r.acc = .wo → (readWord m index sub s).1 = 0 ∧
      (usdoOn s = true → ∃ t, exec (.usdoUpload index sub none) s = .next t ∧ t.out = .usdoData (List.replicate (usdoLength index sub) 0) :: s.out ∧ t.objs = s.objs ∧ t.alm = s.alm))

/-- I2C and pins: a start sends the address, the write bytes and the read length and reads running; its end stores the bytes that came and the result, a stretch timeout result 4, the bus being cleared; the data window reads and writes the byte at its cursor, which moves by one; a land takes a new function, codes above 5 and a second mute request being refused (R439, R440, R441, R444). -/
def Obligations.LowSpeedLands : Prop :=
  ∀ (m : Nat) (s : State), Serves m s →
    (i2cRuns s = false → ∃ t, exec (.i2cStart m) s = .next t ∧ getObj t oI2cStatus = 0xFF ∧
      t.out = .i2c (getObj s oI2cAddress) ((List.range (getObj s oI2cWriteLen)).map fun i => BitVec.ofNat 8 (i2cByte s i)) (getObj s oI2cReadLen) :: s.out ∧
      t = { s with objs := t.objs, out := t.out }) ∧
    (i2cRuns s = true → exec (.i2cStart m) s = .next (refuse m oI2cCommand 2 1 s) ∧ exec .i2cStretchTimeout s = .next (emit .i2cClear (setObj oI2cStatus 4 s)) ∧
      (∀ v, exec (.i2cDataAccess m (some v)) s = .next (refuse m oI2cData 2 (v % 256) s)) ∧
      (∀ result data, result ≤ 3 → ∃ t, exec (.i2cTransactionComplete result data) s = .next t ∧ getObj t oI2cStatus = result ∧
        (∀ i, i < data.length → i < getObj s oI2cReadLen → i2cByte t i = (data.getD i 0).toNat) ∧ (∀ i, getObj s oI2cReadLen ≤ i → i2cByte t i = i2cByte s i) ∧
        t = { s with objs := t.objs, io := { s.io with lands := { s.io.lands with i2cBuf := t.io.lands.i2cBuf } } } ∧ OtherObjects [oI2cStatus] s t)) ∧
    (i2cRuns s = false → ∀ v, ∃ t, exec (.i2cDataAccess m (some v)) s = .next t ∧ i2cByte t (getObj s oI2cCursor) = v % 256 ∧
      getObj t oI2cCursor = (getObj s oI2cCursor + 1) % 256 ∧ (∀ i, i ≠ getObj s oI2cCursor → i2cByte t i = i2cByte s i)) ∧
    (∃ t, exec (.i2cDataAccess m none) s = .next t ∧ t.out = .readData m (i2cByte s (getObj s oI2cCursor)) :: s.out ∧
      getObj t oI2cCursor = (getObj s oI2cCursor + 1) % 256 ∧ OtherObjects [oI2cCursor] s t) ∧
    (∀ land value, land < 32 → let code := value % 256 % 16
      (6 ≤ code → exec (.pinFunctionSwitch m land value) s = .next (refuse m (oPinmux land) 1 (value % 256) s)) ∧
      (code = 3 → (∃ l < 32, l ≠ land ∧ muxCode s l = 3) → exec (.pinFunctionSwitch m land value) s = .next (refuse m (oPinmux land) 2 (value % 256) s)) ∧
      (code < 6 → code ≠ 3 → code ≠ muxCode s land → ∃ t, exec (.pinFunctionSwitch m land value) s = .next t ∧
        muxCode t land = code ∧ mapFind t.io.lands.switching land = some (ticks s) ∧ (∀ l, l < 32 → l ≠ land → muxCode t l = muxCode s l) ∧
        t.tl = s.tl ∧ t.ci = s.ci ∧ t.pt = s.pt))

/-! ### Firmware -/

/-- Firmware commands: a start reads the Rill slot, a stop stops the cores, a program or copy writes its blocks and runs until its completion, an activation and a verification run with their verdict; while one runs every other is refused with reason 2; the end reports the result, and the staging window reads and writes the word at its cursor, which moves by 4 bytes (R480, R482, R492, R493, R495). -/
def Obligations.FirmwareCommands : Prop :=
  ∀ (m : Nat) (s : State), Serves m s →
    (weirReady s = true → fwBusy s = false →
      let t := getObj s oFwTarget
      let fin := fun (u : State) => touch oFwCommand (setFwStatus 0xFF 0 u)
      let run := fun (code : Nat) (block : Nat) (bytes : List Byte) (failed : Option Nat) =>
        { s with fw := { s.fw with cmd := some { code := code, target := t, block := block, bytes := bytes, failed := failed } } }
      exec (.startRill m) s = .next (fin { s with fw := { s.fw with reading := some ((activation s).1.2.2, false) } }) ∧
      exec (.stopRill m) s = .next (touch oFwCommand (setFwStatus 0 0 (setObj oFwRillState 6 (rillGone { s with fw := { s.fw with reading := none } })))) ∧
      (programRefusal s false = none → exec (.programBlock m) s = .next (fin (setSlotState t 3 (programBlocks t (getObj s oFwBlock) (stagingBytes s)
        (run 3 (getObj s oFwBlock) (stagingBytes s) none))))) ∧
      (∀ r, programRefusal s false = some r → exec (.programBlock m) s = .next (fwResult r 0 s)) ∧
      (∀ bs, programRefusal s true = none → getObj s oFwSourceLength ≤ bs.length → exec (.copyFromHost m (some bs)) s =
        .next (fin (setSlotState t 3 (programBlocks t 0 (bs.take (getObj s oFwSourceLength)) (run 4 0 (bs.take (getObj s oFwSourceLength)) none))))) ∧
      (t < 4 → exec (.verify m) s = .next (fin (setSlotState t (if slotVerifies s t then 1 else 2) (run 6 0 [] (if slotVerifies s t then none else some 4))))) ∧
      (t < 2 → slotVerifies s t = true → exec (.activate m) s = .next (fin (setSlotState t 1
        { writeActivation t (activation s).1.2.2 s with fw := { (writeActivation t (activation s).1.2.2 s).fw with cmd := (run 5 0 [] none).fw.cmd } }))) ∧
      (2 ≤ t → t < 4 → slotVerifies s t = true →
        let u := setObj oFwRillSlot (t - 2) (writeActivation (activation s).1.2.1 (t - 2) s)
        exec (.activate m) s = .next (fin (setSlotState t 1 { u with fw := { u.fw with cmd := (run 5 0 [] none).fw.cmd } }))) ∧
      (4 ≤ t → exec (.activate m) s = .next (fwResult 3 0 s) ∧ exec (.verify m) s = .next (fwResult 3 0 s)) ∧
      (t < 4 → slotVerifies s t = false → exec (.activate m) s = .next (fin (setSlotState t 2 (run 5 0 [] (some 4)))))) ∧
    (weirReady s = true → fwBusy s = true → ∃ t, exec (.programBlock m) s = .next t ∧ exec (.verify m) s = .next t ∧ exec (.activate m) s = .next t ∧ exec (.startRill m) s = .next t ∧
      getObj t oOdLastRefused = refusalWord oFwCommand 2 % 2 ^ 32 ∧ t.flash = s.flash ∧ t.fw.cmd = s.fw.cmd ∧ t.fw.reading = s.fw.reading) ∧
    (weirReady s = false → exec (.verify m) s = .next (refuse m oFwCommand 2 6 s)) ∧
    (∀ c : FwCmd, s.fw.cmd = some c →
      let n := { s with fw := { s.fw with cmd := none } }
      (∀ r same, c.failed = some r → exec (.flashCommandComplete same) s = .next (fwResult r 0 n)) ∧
      (c.failed = none → c.code = 3 ∨ c.code = 4 → exec (.flashCommandComplete true) s = .next (fwResult 0 (ceilDiv c.bytes.length 65536) n) ∧
        exec (.flashCommandComplete false) s = .next (fwResult 5 0 (spoilBlocks c n))) ∧
      (∀ same, c.failed = none → c.code ≠ 3 → c.code ≠ 4 → exec (.flashCommandComplete same) s = .next (fwResult 0 0 n))) ∧
    (let i := getField s oFwCursor 15 2
     (∃ t, exec (.fwDataAccess m none) s = .next t ∧ t.out = .readData m (mapGet 0 s.fw.staging i).toNat :: s.out ∧ getObj t oFwCursor = (i + 1) % 16384 * 4 ∧ t.fw = s.fw) ∧
     (∀ v, ∃ t, exec (.fwDataAccess m (some v)) s = .next t ∧ mapGet 0 t.fw.staging i = BitVec.ofNat 32 v ∧
      (∀ j, j ≠ i → mapGet 0 t.fw.staging j = mapGet 0 s.fw.staging j) ∧ getObj t oFwCursor = (i + 1) % 16384 * 4)) ∧
    (∀ slot, s.fw.reading = some (slot, false) → exec .rillImageReadComplete s = .next (let t := finishRillStart slot s
      setFwStatus (if getObj t oFwRillState = 5 then 4 else 0) 0 t)) ∧
    (∀ slot, s.fw.reading = some (slot, true) → exec .rillImageReadComplete s = .next (finishRillStart slot s))

/-- Supervision: a kick of running Rill is noted and puts it into state 2; past its deadline, or at an exception, Rill is unresponsive: it is restarted while the limit of restarts in a minute is not reached and fails beyond it (R483, R484, R486). A lockstep mismatch restarts Weir, whose latches are emptied and whose accesses that wait are discarded; it comes up again from a slot that verifies, and the faults that waited for it then begin their recovery (R584). -/
def Obligations.FirmwareSupervision : Prop :=
  (∀ (m v : Nat) (s : State), Serves m s →
    (getObj s oFwRillState = 1 ∨ getObj s oFwRillState = 2 →
      exec (.rillKick m v) s = .next (touch oFwRillKick (setObj oFwRillState 2 { s with fw := { s.fw with kicked := some (ticks s) } }))) ∧
    (3 ≤ getObj s oFwRillState → exec (.rillKick m v) s = .next (refuse m oFwRillKick 2 v s))) ∧
  (∀ s : State, Live s → rillSupervised s = true →
    exec .rillException s = .next (rillUnresponsive 3 s) ∧
    (rillDeadline s ≤ ticks s → exec .rillWatchdogExpiry s = .next (rillUnresponsive (if s.fw.kicked.isSome then 1 else 2) s))) ∧
  (∀ (cause : Nat) (s : State),
    let recent := s.fw.restarts.filter fun t => decide (ticks s < t + minuteTicks)
    let t := rillUnresponsive cause s
    (recent.length < getObj s oFwRestartLimit → getObj t oFwRillState = 3 ∧ t.fw.restarts = ticks s :: recent ∧ t.fw.reading = some ((activation s).1.2.2, true) ∧
      getObj t oFwRillRestarts = (getObj s oFwRillRestarts + 1) % 2 ^ 32 ∧ getLatches t 3 = Latches.init ∧ parkedOf t 3 = [] ∧ t.tl = s.tl ∧ t.ci = s.ci ∧ t.pt = s.pt ∧ t.io = s.io) ∧
    (getObj s oFwRestartLimit ≤ recent.length → getObj t oFwRillState = 5 ∧ t.fw.restarts = s.fw.restarts ∧ t.tl = s.tl ∧ t.ci = s.ci ∧ t.pt = s.pt ∧ t.io = s.io)) ∧
  (∀ s : State, Live s → s.fw.weirUp = true →
    ∃ t, exec .lockstepMismatch s = .next t ∧ t.fw.weirRestart.isSome = true ∧ weirReady t = false ∧ getLatches t 4 = Latches.init ∧ parkedOf t 4 = [] ∧ t.tl = s.tl ∧ t.ci = s.ci ∧ t.pt = s.pt ∧ t.io = s.io ∧ t.flash = s.flash) ∧
  (∀ (lost slot : Nat) (s : State), Live s → s.fw.weirRestart = some lost → bootSlot s = some slot →
    exec .weirRestartComplete s = .next (resumeFaults (runWeir slot lost s)) ∧ weirReady (runWeir slot lost s) = true) ∧
  (∀ (lost : Nat) (s : State), Live s → s.fw.weirRestart = some lost → bootSlot s = none →
    exec .weirRestartComplete s = .next { s with fw := { s.fw with weirUp := false, weirRestart := none } })

/-! ### Power, bring-up and faults -/

/-- The loss of PWRGOOD stops every clock and puts every object and every other piece of state to its reset value with nothing sent and nothing recorded; flash is kept, and after power returns bring-up starts again from its first step (R506). -/
def Obligations.PowerLossResets : Prop :=
  ∀ s : State, ∃ t, exec .pwrgoodLow s = .next t ∧ t.clk.running = false ∧ (∀ key, getObj t key = objDefault key) ∧ t.out = s.out ∧ t.alm = Almanac.init ∧
    t.flash = s.flash ∧ t = { State.reset with pending := s.pending, out := s.out, free := s.free, flash := s.flash, fab := { Fabric.init with board := s.fab.board } } ∧
    (∀ b elapsed, ∃ u, exec (.powerGood b elapsed) t = .next u ∧ Live u ∧ ∀ i, 2 ≤ i → i ≤ 10 → getObj u (oBringStatus i) = notDone)

/-- Power: power good takes the board, starts the clocks and boots Weir; its loss, and the loss of the hub's PLL, put the device back to its reset values with only flash, board, queue and what was sent kept (R477, R505, R506, R531); a compute trip stops the compute dies 2 µs after it, a hub trip the hub's clocks 2 ms after it (R515, R517). -/
def Obligations.PowerEvents : Prop :=
  (∀ (b : Board) (elapsed : Nat) (s : State), s.pw.pwrgood = false →
    ∃ t, exec (.powerGood b elapsed) s = .next t ∧ t.pw.pwrgood = true ∧ Live t ∧ t.fab.board.nodeId = b.nodeId ∧ t.io.can.nmt = 127 ∧ t.tl = s.tl ∧ t.ci = s.ci ∧ t.pt = s.pt) ∧
  (∀ s : State,
    let off := { State.reset with pending := s.pending, out := s.out, free := s.free, flash := s.flash, fab := { Fabric.init with board := s.fab.board } }
    exec .pwrgoodLow s = .next off ∧ (Live s → exec .hubPllLockLoss s = .next off)) ∧
  (∀ (readings : List (Option Int)) (s : State), Live s →
    let before := (List.range 64).filter fun i => (getSensor s i).hot
    let u := noteHottest ((List.range 64).foldl (fun s i => takeSample i (readings.getD i none) s) s)
    (tripOf u before false = none → tripOf u before true = none → exec (.sensorSample readings) s = .next u) ∧
    (∀ t, tripOf u before false = some t → getObj u oEnvState ≠ 2 → tripOf (computeTrip t u) before true = none → exec (.sensorSample readings) s = .next (computeTrip t u)) ∧
    (∀ t, tripOf u before false = none → tripOf u before true = some t → u.pw.hubTrip = none → exec (.sensorSample readings) s = .next (hubTrip t u))) ∧
  (∀ (at_ : Nat) (s : State), Live s →
    (s.pw.computeTrip = some at_ → s.pw.computeOff = false → at_ + 2 * usTicks ≤ ticks s →
      ∃ t, exec .tripClockStop s = .next t ∧ t.pw.computeOff = true ∧ t.pw.declLocked = false ∧ t.tl = Tiles.init ∧ t.ci = Cistern.init ∧ t.st = Streams.init ∧
        (∀ p < 16, getPart t p = { Part.init with fbAllocator := getObj t (oStepFallback p) } ∧ getObj t (oStepAllocator p) = getObj t (oStepCounter p))) ∧
    (s.pw.hubTrip = some at_ → at_ + 2000 * usTicks ≤ ticks s →
      exec .hubTripClockStop s = .next { s with clk := { s.clk with running := false } }))

/-- Bring-up: a step that runs does its work and ends with its result, its elapsed time and a record; a write that the device accepts starts its step, a step out of order is refused with reason 2 (R550, R551, R558 to R563, R529, R568). The defect window reads the map's words in turn and takes field entries before step 2 (R569). -/
def Obligations.BringUpSteps : Prop :=
  (∀ (m el : Nat) (s : State), Serves m s →
    let done := fun (i : Nat) (r : (Nat × Nat × Nat) × State) => endStep i r.1.1 r.1.2.1 r.1.2.2 el r.2
    (stepRuns s 2 = true → exec (.fuseRead m el 0) s = .next (endStep 2 0 0xFF 0 el (fillFuses s)) ∧
      exec (.fuseRead m el 1) s = .next (endStep 2 0x10 0xFF 0 el s) ∧ exec (.fuseRead m el 2) s = .next (endStep 2 0x11 0xFF 0 el s)) ∧
    (stepRuns s 3 = true → exec (.defectMapLoad m el) s = .next (done 3 (mergeDefects s, s))) ∧
    (stepRuns s 4 = true → ∀ bad, exec (.linkTraining m el bad) s = .next (done 4 (trainLinks bad s))) ∧
    (stepRuns s 5 = true → ∀ bs bp, exec (.hbmTraining m el bs bp) s = .next (done 5 (trainStacks bs bp s))) ∧
    (stepRuns s 6 = true → exec (.networkMapApply m el) s = .next (done 6 (applyMaps s))) ∧
    (stepRuns s 7 = true → ∀ rows fails, exec (.tileSelfTest m el rows fails) s = .next (done 7 (selfTest rows fails s))) ∧
    (stepRuns s 8 = true → ∀ facts, exec (.resetAlignment m el facts) s = .next (done 8 (alignReset facts s))) ∧
    (stepRuns s 9 = true → exec (.rillLoad m el) s = .next (done 9 (loadRill s))) ∧
    (stepRuns s 10 = true → exec (.partitionConfiguration m el) s = .next (done 10 (openPartitions s))) ∧
    (stepRuns s 3 = false → stepAccepted s 3 = true → stepRuns (touch (oBringCommand 3) (startStep 3 s)) 3 = true ∧
      exec (.defectMapLoad m el) s = exec (.defectMapLoad m el) (touch (oBringCommand 3) (startStep 3 s))) ∧
    (stepRuns s 3 = false → stepAccepted s 3 = false → stepRuns (refuse m (oBringCommand 3) 2 1 s) 3 = false ∧
      exec (.defectMapLoad m el) s = .next (refuse m (oBringCommand 3) 2 1 s))) ∧
  (∀ (i result unit count el : Nat) (s : State), 1 ≤ i → i ≤ 10 → result < 256 → unit < 256 → result ≠ 0xFF →
    let t := endStep i result unit count el s
    stepResult t i = result ∧ getObj t (oBringElapsed i) = el % 2 ^ 32 ∧ t.tl = s.tl ∧ t.ci = s.ci ∧ t.pt = s.pt ∧ t.io = s.io ∧ t.fab = { s.fab with stepMap := none }) ∧
  (∀ (m : Nat) (s : State), Serves m s →
    let c := getObj s oDefectCursor % 2048
    (∃ t, exec (.defectDataAccess m none) s = .next t ∧ getObj t oDefectCursor = (c + 1) % 2048 ∧ t.fab = s.fab ∧
      t.out = .readData m (if c % 2 = 0 then (defectAt s (c / 2)).1 else (defectAt s (c / 2)).2) :: s.out) ∧
    (∀ v, fieldOpen s = true → getObj s oDefectFactoryCount ≤ c / 2 → c / 2 < getObj s oDefectFactoryCount + getObj s oDefectFieldCount →
      ∃ t, exec (.defectDataAccess m (some v)) s = .next t ∧ getObj t oDefectCursor = (c + 1) % 2048 ∧ (∀ e, e ≠ c / 2 → defectAt t e = defectAt s e) ∧
        defectAt t (c / 2) = (if c % 2 = 0 then (2 ^ 30 + (v &&& 0x0FFFFFFF), (defectAt s (c / 2)).2) else ((defectAt s (c / 2)).1, v &&& 0xFFFF0001))) ∧
    (∀ v, fieldOpen s = false → exec (.defectDataAccess m (some v)) s = .next (refuse m oDefectData 2 v s)))

/-- Faults: a tile that fails moves to its fold target when its compute fails and one is there (while Weir restarts the fault waits, R584), else its site is lost; a move that can complete completes and frees the site; an SRAM word in error takes the kind's effect and is recorded, a corrected one is counted; a failed motion engine and a failed compute die leave service with learned entries (R571, R574, R575, R581, R582, R583). -/
def Obligations.FaultEvents : Prop :=
  (∀ (site : Nat) (s : State), Live s → s.pw.computeOff = false → liveTiles s site ≠ [] → (∀ e ∈ s.fab.evac, e.site ≠ site) →
    (∀ p x, weirReady s = true → foldTarget s site = some (p, x) → exec (.tileFault site true) s = .next (startMove site x p (loseMoves site s))) ∧
    (∀ p x, weirReady s = false → foldTarget s site = some (p, x) → site ∉ s.fab.faultWaits →
      exec (.tileFault site true) s = .next { s with fab := { s.fab with faultWaits := s.fab.faultWaits ++ [site] } }) ∧
    (foldTarget s site = none → exec (.tileFault site true) s = .next (releaseResets (loseSite site (loseMoves site s)))) ∧
    exec (.tileFault site false) s = .next (releaseResets (loseSite site (loseMoves site s)))) ∧
  (∀ (site : Nat) (e : Evac) (s : State), Live s → s.pw.computeOff = false → s.fab.evac = [e] → e.site = site →
    siteQuiet s site = true → moveFits s site e.target = true →
    (∀ t ∈ siteTiles s site, loansOn s e.part t = [] ∧ t ∉ (getPart s e.part).reclaiming) →
    exec (.tileMoveComplete site) s = .next (releaseResets (updPart e.part (fun x => { x with grantsHeld := false })
      (tileRecord site e.target (cycle s - e.start) (learn 2 (site / 8) (site % 8) 0 0
        (let t := moveSite site e.target s
         { t with fab := { t.fab with evac := t.fab.evac.filter fun x => x.site != site } })))))) ∧
  (∀ (kind address unit : Nat) (s : State), Live s →
    (kind ≠ 7 → s.pw.computeOff = false → exec (.uncorrectableSramError kind address unit) s = .next (capture 0x0609 31 kind address unit 0 (wordError kind address unit s))) ∧
    (s.pw.computeOff = false → exec (.sramScrub 0 unit true) s = .next (perfCount 0x0D unit 1 s)) ∧ exec (.sramScrub kind unit false) s = .next s) ∧
  (∀ (engine : Nat) (s : State), Live s → engine < 8 → objExists s (0x2810 + engine) 1 = true → getObj s (oMotionState engine) ≠ 3 → s.pw.computeOff = false →
    ∃ t, exec (.motionEngineFault engine) s = .next t ∧ getObj t (oMotionState engine) = 3 ∧ engine ∈ t.fab.motionFailed ∧ t.ci = s.ci) ∧
  (∀ (die : Nat) (s : State), Live s → die < 4 → objBit s oMapDies die = true → s.pw.computeOff = false →
    ∃ t, exec (.computeDieFault die) s = .next t ∧ objBit t oMapDies die = false ∧ (∀ e ∈ dieEngines die, getObj t (oEngState e) = 3))

/-! ### The recorder and the counters -/

/-- The recorder: an append takes the oldest capture and gives it the next sequence number; a mirror write puts a permanent slot into its flash region; freezing, thawing and clearing are recorded, clearing the permanent slots needs an erased region; the data window reads a slot's words in turn. Counters are sampled, before the increments of the cycle, and cleared together, the increments of the cycle then counting, and a new event clears its counter (R590, R592, R595, R597, R598, R613, R614). -/
def Obligations.RecorderAndCounters : Prop :=
  ∀ (m : Nat) (s : State), Serves m s →
    (∀ c rest, weirReady s = true → s.alm.queue = c :: rest → s.alm.discarded = 0 → ∃ t, exec .recordAppend s = .next t ∧ t.alm.queue = rest ∧
      getObj t oAlmanacNextSeq = (getObj s oAlmanacNextSeq + 1) % 2 ^ 32 ∧ t.tl = s.tl ∧ t.ci = s.ci ∧ t.pt = s.pt ∧ t.flash = s.flash) ∧
    (∀ i k, weirReady s = true → s.alm.mirrorFailed = false → nextMirror s.alm = some (i, k) → exec (.mirrorProgram true) s =
      .next (flashWrite (mirrorAt s.alm.region i) (wordsBytes (mapGet blankSlot s.alm.slots i))
        { s with alm := { s.alm with pending := s.alm.pending.filter fun e => !(e == (i, k)) } })) ∧
    (∀ region ∈ s.alm.erasing, ∃ t, exec (.mirrorRegionEraseComplete region) s = .next t ∧ region ∉ t.alm.erasing ∧
      (∀ a, 0x90000 + region * 0x20000 ≤ a → a < 0x90000 + (region + 1) * 0x20000 → mapGet 0xFF t.flash a = 0xFF) ∧
      (∀ a, a < 0x90000 + region * 0x20000 ∨ 0x90000 + (region + 1) * 0x20000 ≤ a → mapGet 0xFF t.flash a = mapGet 0xFF s.flash a) ∧
      t = { s with flash := t.flash, alm := { s.alm with erasing := t.alm.erasing } }) ∧
    (let c := getObj s oAlmanacCursor
     ∃ t, exec (.almanacDataRead m) s = .next t ∧ getObj t oAlmanacCursor = (c + 1) % 2 ^ 19 ∧
      (c % 8 = 0 → t.out = .readData m ((mapGet blankSlot s.alm.slots (c / 8 % 65536)).getD 0 0).toNat :: s.out) ∧
      (c % 8 ≠ 0 → t.out = .readData m (s.alm.snapshot.getD (c % 8) 0).toNat :: s.out)) ∧
    (exec (.freeze m) s = .next (touch oAlmanacCommand (almanacDone 1 { s with alm := { s.alm with frozen := true } }))) ∧
    (exec (.thaw m) s = .next (touch oAlmanacCommand (almanacDone 2 { s with alm := { s.alm with frozen := false } }))) ∧
    (exec (.clearCirculating m) s = .next (touch oAlmanacCommand (almanacDone 3 (clearCirculatingAction s)))) ∧
    (∀ r, nextErased s = some r → exec (.clearPermanent m) s = .next (touch oAlmanacCommand (almanacDone 4 (clearPermanentAction r s)))) ∧
    (nextErased s = none → exec (.clearPermanent m) s = .next (refuse m oAlmanacCommand 2 4 s)) ∧
    (∃ t, exec (.perfSample m) s = .next t ∧ (∀ c < 64, getObj t (oPerfSample c) = perfBefore s c % 2 ^ 64) ∧
      (s.now.perf = [] → ∀ c < 64, perfBefore s c = getObj s (oPerfValue c)) ∧ (∀ c < 64, getObj t (oPerfValue c) = getObj s (oPerfValue c)) ∧ t = { s with objs := t.objs }) ∧
    (∃ t, exec (.perfClear m) s = .next t ∧ (∀ c < 64, getObj t (oPerfValue c) = count48 0 (perfNow s c) % 2 ^ 64 ∧ getObj t (oPerfSample c) = getObj s (oPerfSample c)) ∧
      (s.now.perf = [] → ∀ c < 64, getObj t (oPerfValue c) = 0) ∧ t = { s with objs := t.objs }) ∧
    (∀ c v, c < 64 → perfEventOk s (v % 65536) = true → ∃ t, exec (.perfEventWrite m c v) s = .next t ∧ getObj t (oPerfEvent c) = v % 65536 ∧ getObj t (oPerfValue c) = 0 ∧
      (∀ d < 64, d ≠ c → getObj t (oPerfEvent d) = getObj s (oPerfEvent d) ∧ getObj t (oPerfValue d) = getObj s (oPerfValue d)) ∧ t = { s with objs := t.objs, now := t.now })
end

