-- ==== Sys2Proof/Laws/Maps.lean ====
section
/-!
SUPPORT. Sparse maps: a read after a write, and the canonical form of each operation's result.
-/

namespace Sys2Proof.Machine

variable {α : Type}

@[simp] theorem mapFind_mapPut_same (m : SMap α) (i : Nat) (v : α) : mapFind (mapPut m i v) i = some v := by
  induction m with
  | nil => simp [mapPut, mapFind]
  | cons e m ih => obtain ⟨k, w⟩ := e; simp only [mapPut]; split <;> [simp [mapFind]; split <;> simp_all [mapFind]]

theorem mapFind_mapPut_other (m : SMap α) {i j : Nat} (v : α) (h : j ≠ i) : mapFind (mapPut m i v) j = mapFind m j := by
  induction m with
  | nil => simp [mapPut, mapFind, h]
  | cons e m ih =>
    obtain ⟨k, w⟩ := e; simp only [mapPut]
    split
    · simp [mapFind, h]
    · split
      · subst_vars; simp [mapFind, h]
      · simp [mapFind, ih]

@[simp] theorem mapGet_mapPut_same (d : α) (m : SMap α) (i : Nat) (v : α) : mapGet d (mapPut m i v) i = v := by
  induction m with
  | nil => simp [mapPut, mapGet]
  | cons e m ih => obtain ⟨k, w⟩ := e; simp only [mapPut]; split <;> [simp [mapGet]; split <;> simp_all [mapGet]]

theorem mapGet_mapPut_other (d : α) (m : SMap α) {i j : Nat} (v : α) (h : j ≠ i) : mapGet d (mapPut m i v) j = mapGet d m j := by
  induction m with
  | nil => simp [mapPut, mapGet, h]
  | cons e m ih =>
    obtain ⟨k, w⟩ := e; simp only [mapPut]
    split
    · simp [mapGet, h]
    · split
      · subst_vars; simp [mapGet, h]
      · simp [mapGet, ih]

@[simp] theorem mapGet_mapErase_same (d : α) (m : SMap α) (i : Nat) : mapGet d (mapErase m i) i = d := by
  induction m with
  | nil => rfl
  | cons e m ih =>
    obtain ⟨k, w⟩ := e
    by_cases hk : k = i
    · simpa [mapErase, hk] using ih
    · have hk' : ¬ i = k := fun x => hk x.symm
      simpa [mapErase, hk, hk', mapGet] using ih

theorem mapGet_mapErase_other (d : α) (m : SMap α) {i j : Nat} (h : j ≠ i) : mapGet d (mapErase m i) j = mapGet d m j := by
  induction m with
  | nil => rfl
  | cons e m ih =>
    obtain ⟨k, w⟩ := e
    have ih' : mapGet d (List.filter (fun e => !e.1 == i) m) j = mapGet d m j := ih
    by_cases hk : k = i
    · subst hk; simp [mapErase, mapGet, h, ih']
    · simp [mapErase, hk, mapGet, ih']

@[simp] theorem mapGet_mapSet_same [DecidableEq α] (d : α) (m : SMap α) (i : Nat) (v : α) : mapGet d (mapSet d m i v) i = v := by
  unfold mapSet; split <;> simp_all

theorem mapGet_mapSet_other [DecidableEq α] (d : α) (m : SMap α) {i j : Nat} (v : α) (h : j ≠ i) :
    mapGet d (mapSet d m i v) j = mapGet d m j := by
  unfold mapSet; split
  · exact mapGet_mapErase_other d m h
  · exact mapGet_mapPut_other d m v h

/-! ### The canonical form -/

theorem mem_mapPut {m : SMap α} {i : Nat} {v : α} {e : Nat × α} (h : e ∈ mapPut m i v) : e = (i, v) ∨ e ∈ m := by
  induction m with
  | nil => simpa [mapPut] using h
  | cons a m ih =>
    obtain ⟨k, w⟩ := a; simp only [mapPut] at h
    split at h
    · simpa using h
    · split at h
      · rcases List.mem_cons.1 h with h | h <;> simp [h]
      · rcases List.mem_cons.1 h with h | h
        · simp [h]
        · rcases ih h with h | h <;> simp [h]

theorem mem_mapSet [DecidableEq α] {d : α} {m : SMap α} {i : Nat} {v : α} {e : Nat × α} (h : e ∈ mapSet d m i v) :
    (e = (i, v) ∧ v ≠ d) ∨ e ∈ m := by
  unfold mapSet at h; split at h
  · exact .inr (List.mem_of_mem_filter h)
  · rename_i hv; exact (mem_mapPut h).imp (fun h => ⟨h, hv⟩) id

theorem Rising.nil : Rising ([] : SMap α) := List.Pairwise.nil

theorem Rising.filter {m : SMap α} (h : Rising m) (f : Nat × α → Bool) : Rising (m.filter f) := List.Pairwise.filter _ h

theorem Rising.erase {m : SMap α} (h : Rising m) (i : Nat) : Rising (mapErase m i) := h.filter _

theorem Rising.put {m : SMap α} (h : Rising m) (i : Nat) (v : α) : Rising (mapPut m i v) := by
  induction m with
  | nil => simp [mapPut, Rising]
  | cons a m ih =>
    obtain ⟨k, w⟩ := a
    have h1 := List.pairwise_cons.1 h
    simp only [mapPut]
    split
    · rename_i hk
      refine List.pairwise_cons.2 ⟨fun e he => ?_, h⟩
      rcases List.mem_cons.1 he with rfl | he
      · exact hk
      · exact Nat.lt_trans hk (h1.1 e he)
    · split
      · rename_i hk; subst hk
        exact List.pairwise_cons.2 ⟨fun e he => h1.1 e he, h1.2⟩
      · rename_i hk hk'
        refine List.pairwise_cons.2 ⟨fun e he => ?_, ih h1.2⟩
        rcases mem_mapPut he with rfl | he
        · show k < i; omega
        · exact h1.1 e he

theorem Rising.set [DecidableEq α] {m : SMap α} (h : Rising m) (d : α) (i : Nat) (v : α) : Rising (mapSet d m i v) := by
  unfold mapSet; split
  · exact h.erase i
  · exact h.put i v

theorem Tidy.nil (d : α) : Tidy d ([] : SMap α) := ⟨Rising.nil, by simp⟩

theorem Tidy.filter {d : α} {m : SMap α} (h : Tidy d m) (f : Nat × α → Bool) : Tidy d (m.filter f) :=
  ⟨h.1.filter f, fun e he => h.2 e (List.mem_of_mem_filter he)⟩

theorem Tidy.erase {d : α} {m : SMap α} (h : Tidy d m) (i : Nat) : Tidy d (mapErase m i) := h.filter _

theorem Tidy.set [DecidableEq α] {d : α} {m : SMap α} (h : Tidy d m) (i : Nat) (v : α) : Tidy d (mapSet d m i v) := by
  refine ⟨h.1.set d i v, fun e he => ?_⟩
  rcases mem_mapSet he with ⟨rfl, hv⟩ | he
  · exact hv
  · exact h.2 e he

/-- Writing what an unlisted key reads as leaves no entry for it. -/
theorem mapFind_mapErase (m : SMap α) (i : Nat) : mapFind (mapErase m i) i = none := by
  induction m with
  | nil => rfl
  | cons e m ih =>
    obtain ⟨k, w⟩ := e
    by_cases hk : k = i
    · simpa [mapErase, hk] using ih
    · have hk' : ¬ i = k := fun x => hk x.symm
      simpa [mapErase, hk, hk', mapFind] using ih

/-- A value that the map gives is the default or listed. -/
theorem mapGet_cases (d : α) (m : SMap α) (i : Nat) : mapGet d m i = d ∨ (i, mapGet d m i) ∈ m := by
  induction m with
  | nil => exact .inl rfl
  | cons e m ih =>
    obtain ⟨k, w⟩ := e; simp only [mapGet]
    split
    · rename_i h; subst h; simp
    · rcases ih with h | h
      · exact .inl h
      · exact .inr (List.mem_cons_of_mem _ h)

/-- What holds of the default and of every entry holds of every value read. -/
theorem mapGet_all {d : α} {m : SMap α} {P : α → Prop} (hd : P d) (hm : ∀ e ∈ m, P e.2) (i : Nat) : P (mapGet d m i) := by
  rcases mapGet_cases d m i with h | h
  · rw [h]; exact hd
  · exact hm _ h

/-! ### Pages -/

theorem PageWf.zero : PageWf Page.zero := ⟨Rising.nil, by simp [Page.zero]⟩

theorem PageWf.blank (t : Option Nat) : PageWf { base := t, cells := [] } := ⟨Rising.nil, by simp⟩

theorem PageWf.write1 {p : Page} (h : PageWf p) (off : Nat) (b : Byte) : PageWf (pageWrite1 p off b) := by
  obtain ⟨h1, h2⟩ := h
  unfold pageWrite1
  split
  · rename_i hb
    exact ⟨h1.set 0 off b, fun _ => (Tidy.set ⟨h1, h2 hb⟩ off b).2⟩
  · rename_i hb
    exact ⟨h1.put off b, fun h => absurd h hb⟩

theorem PageWf.write {p : Page} (h : PageWf p) (off : Nat) (bs : List Byte) : PageWf (pageWrite p off bs) := by
  induction bs generalizing p off with
  | nil => exact h
  | cons b bs ih => exact ih (h.write1 off b) (off + 1)

theorem pageByte_write1_same (p : Page) (off : Nat) (b : Byte) : pageByte (pageWrite1 p off b) off = b := by
  unfold pageByte pageWrite1
  by_cases hb : p.base = none
  · simp only [hb, if_true, mapSet]
    by_cases h0 : b = 0
    · subst h0; simp [mapFind_mapErase]
    · rw [if_neg h0]; simp
  · simp [hb]

theorem mapFind_mapErase_other (m : SMap α) {i j : Nat} (h : j ≠ i) : mapFind (mapErase m i) j = mapFind m j := by
  induction m with
  | nil => rfl
  | cons e m ih =>
    obtain ⟨k, w⟩ := e
    have ih' : mapFind (List.filter (fun e => !e.1 == i) m) j = mapFind m j := ih
    by_cases hk : k = i
    · subst hk; simp [mapErase, mapFind, h, ih']
    · simp [mapErase, hk, mapFind, ih']

theorem pageByte_write1_other (p : Page) {off j : Nat} (b : Byte) (h : j ≠ off) : pageByte (pageWrite1 p off b) j = pageByte p j := by
  unfold pageByte pageWrite1
  by_cases hb : p.base = none
  · simp only [hb, if_true, mapSet]
    by_cases h0 : b = 0
    · rw [if_pos h0, mapFind_mapErase_other _ h]
    · rw [if_neg h0, mapFind_mapPut_other _ _ h]
  · simp only [hb, if_false, mapFind_mapPut_other _ _ h]

/-- A byte outside a page write reads as before. -/
theorem pageByte_write_outside (p : Page) (off : Nat) (bs : List Byte) {j : Nat} (h : j < off ∨ off + bs.length ≤ j) :
    pageByte (pageWrite p off bs) j = pageByte p j := by
  induction bs generalizing p off with
  | nil => rfl
  | cons b bs ih =>
    simp only [List.length_cons] at h
    rw [pageWrite, ih _ _ (by omega), pageByte_write1_other _ _ (by omega)]

/-- A byte inside a page write reads as the byte written. -/
theorem pageByte_write_inside (p : Page) (off : Nat) (bs : List Byte) (i : Nat) (h : i < bs.length) :
    pageByte (pageWrite p off bs) (off + i) = bs[i] := by
  induction bs generalizing p off i with
  | nil => simp at h
  | cons b bs ih =>
    cases i with
    | zero =>
      show pageByte (pageWrite (pageWrite1 p off b) (off + 1) bs) off = b
      rw [pageByte_write_outside _ _ _ (by omega), pageByte_write1_same]
    | succ i =>
      simp only [List.length_cons] at h
      have := ih (pageWrite1 p off b) (off + 1) i (by omega)
      simp only [List.getElem_cons_succ, pageWrite]
      rw [← this]; congr 1; omega

end Sys2Proof.Machine
end

