-- ==== Sys2Proof/Laws/Canonical.lean ====
section
/-!
SUPPORT. Every operation keeps a sound state sound: each sparse map stays canonical and each dictionary object within its width. One lemma for each operation over the state.
-/

namespace Sys2Proof.Machine

set_option maxRecDepth 10000
set_option linter.unusedTactic false
set_option linter.unusedVariables false

/-- Every next state of an outcome is sound. -/
def CanonOut (o : Out) : Prop := ∀ t, o = .next t → Canonical t

theorem next_canonical {t : State} (h : Canonical t) : CanonOut (.next t) := by
  intro u hu; cases hu; exact h

theorem ite_canonical {c : Prop} [Decidable c] {a b : State} (ha : Canonical a) (hb : Canonical b) : Canonical (if c then a else b) := by
  split <;> assumption

theorem ite_fst_canonical {β : Type} {c : Prop} [Decidable c] {a b : State × β} (ha : Canonical a.1) (hb : Canonical b.1) :
    Canonical (if c then a else b).1 := by
  split <;> assumption

theorem ite_snd_canonical {β : Type} {c : Prop} [Decidable c] {a b : β × State} (ha : Canonical a.2) (hb : Canonical b.2) :
    Canonical (if c then a else b).2 := by
  split <;> assumption

theorem foldl_canonical {α : Type} {f : State → α → State} (hf : ∀ s x, Canonical s → Canonical (f s x)) {l : List α} {s : State}
    (h : Canonical s) : Canonical (l.foldl f s) := by
  induction l generalizing s with
  | nil => exact h
  | cons x l ih => exact ih (hf s x h)

theorem foldl_fst_canonical {α β : Type} {f : State × β → α → State × β} (hf : ∀ s x, Canonical s.1 → Canonical (f s x).1) {l : List α}
    {s : State × β} (h : Canonical s.1) : Canonical (l.foldl f s).1 := by
  induction l generalizing s with
  | nil => exact h
  | cons x l ih => exact ih (hf s x h)

theorem foldl_snd_canonical {α β : Type} {f : β × State → α → β × State} (hf : ∀ s x, Canonical s.2 → Canonical (f s x).2) {l : List α}
    {s : β × State} (h : Canonical s.2) : Canonical (l.foldl f s).2 := by
  induction l generalizing s with
  | nil => exact h
  | cons x l ih => exact ih (hf s x h)

/-! ### What a sound state gives -/

theorem Canonical.frame {s : State} (h : Canonical s) (k : Nat) : PageWf (getFrame s k).page :=
  mapGet_all (P := fun f : Frame => PageWf f.page) PageWf.zero h.tl.pages k

theorem Canonical.cslot {s : State} (h : Canonical s) (k : Nat) : PageWf (getC s k).page :=
  mapGet_all (P := fun f : CSlot => PageWf f.page) PageWf.zero h.ci.data k

/-- A sound state's memories are in their canonical form. -/
theorem Canonical.memory {s : State} (h : Canonical s) : Memory.wf s := ⟨h.flash, ⟨h.tl.frames, h.tl.pages⟩, ⟨h.ci.slots, h.ci.data⟩⟩

/-- A page made of bytes is canonical. -/
theorem pageOf_wf (bs : List Byte) : PageWf (pageOf bs) := by
  have key : ∀ (n : Nat) (bs : List Byte), Rising ((List.range' n bs.length).zip bs) ∧ ∀ e ∈ (List.range' n bs.length).zip bs, n ≤ e.1 := by
    intro n bs
    induction bs generalizing n with
    | nil => exact ⟨by simp [Rising], by simp⟩
    | cons b bs ih =>
      obtain ⟨h1, h2⟩ := ih (n + 1)
      simp only [List.length_cons, List.range'_succ, List.zip_cons_cons, Rising, List.pairwise_cons, List.mem_cons]
      refine ⟨⟨fun e he => ?_, h1⟩, ?_⟩
      · exact h2 e he
      · rintro e (rfl | he)
        · exact Nat.le_refl n
        · have := h2 e he
          omega
  have hr : Rising ((List.range bs.length).zip bs) := by rw [List.range_eq_range']; exact (key 0 bs).1
  refine ⟨hr.filter _, fun _ e he => ?_⟩
  simpa using (List.mem_filter.1 he).2

/-! ### Updates of one part of the state -/

theorem upd_pending_canonical {s : State} {x : List Instr} (h : Canonical s) : Canonical { s with pending := x } := { h with }
theorem upd_out_canonical {s : State} {x : List Emission} (h : Canonical s) : Canonical { s with out := x } := { h with }
theorem upd_free_canonical {s : State} {x : Nat} (h : Canonical s) : Canonical { s with free := x } := { h with }
theorem upd_clk_canonical {s : State} {x : Clocks} (h : Canonical s) : Canonical { s with clk := x } := { h with }
theorem upd_now_canonical {s : State} {x : Now} (h : Canonical s) : Canonical { s with now := x } := { h with }
theorem upd_objs_canonical {s : State} {x : SMap DWord} (hx : Canonical s → Rising x ∧ ∀ e ∈ x, e.2.toNat < 2 ^ objWidth e.1) (h : Canonical s) :
    Canonical { s with objs := x } := { h with objs := (hx h).1, width := (hx h).2 }
theorem upd_latches_canonical {s : State} {x : SMap Latches} (hx : Canonical s → Tidy Latches.init x) (h : Canonical s) :
    Canonical { s with latches := x } := { h with latches := hx h }
theorem upd_flash_canonical {s : State} {x : Cells} (hx : Canonical s → Tidy 0xFF x) (h : Canonical s) : Canonical { s with flash := x } :=
  { h with flash := hx h }
theorem upd_pw_canonical {s : State} {x : Power} (hx : Canonical s → Rising x.sensors) (h : Canonical s) : Canonical { s with pw := x } :=
  { h with sensors := hx h }
theorem upd_fw_canonical {s : State} {x : Firmware} (hx : Canonical s → Tidy 0 x.staging) (h : Canonical s) : Canonical { s with fw := x } :=
  { h with staging := hx h }
theorem upd_alm_canonical {s : State} {x : Almanac} (hx : Canonical s → Tidy blankSlot x.slots) (h : Canonical s) : Canonical { s with alm := x } :=
  { h with alm := hx h }
theorem upd_fab_canonical {s : State} {x : Fabric} (hx : Canonical s → FabricOk x) (h : Canonical s) : Canonical { s with fab := x } :=
  { h with fab := hx h }
theorem upd_tl_canonical {s : State} {x : Tiles} (hx : Canonical s → TilesOk x) (h : Canonical s) : Canonical { s with tl := x } :=
  { h with tl := hx h }
theorem upd_ci_canonical {s : State} {x : Cistern} (hx : Canonical s → CisternOk x) (h : Canonical s) : Canonical { s with ci := x } :=
  { h with ci := hx h }
theorem upd_pt_canonical {s : State} {x : Parts} (hx : Canonical s → PartsOk x) (h : Canonical s) : Canonical { s with pt := x } :=
  { h with pt := hx h }
theorem upd_sy_canonical {s : State} {x : SyncStore} (hx : Canonical s → SyncOk x) (h : Canonical s) : Canonical { s with sy := x } :=
  { h with sy := hx h }
theorem upd_st_canonical {s : State} {x : Streams} (hx : Canonical s → StreamsOk x) (h : Canonical s) : Canonical { s with st := x } :=
  { h with st := hx h }
theorem upd_io_canonical {s : State} {x : Ports} (hx : Canonical s → PortsOk x) (h : Canonical s) : Canonical { s with io := x } :=
  { h with io := hx h }

theorem ite_out_canonical {c : Prop} [Decidable c] {x y : Out} (hx : CanonOut x) (hy : CanonOut y) : CanonOut (if c then x else y) := by
  split <;> assumption
theorem upd_many_canonical {s t : State} (h : Canonical s) (f : Canonical s → Canonical t) : Canonical t := f h
theorem fst_canonical {β : Type} {s : State} {b : β} (h : Canonical s) : Canonical (s, b).1 := h
theorem snd_canonical {β : Type} {s : State} {b : β} (h : Canonical s) : Canonical (b, s).2 := h

/-! ### Initial parts -/

theorem fabric_init_ok : FabricOk Fabric.init := ⟨Rising.nil, Tidy.nil _, Tidy.nil _⟩
theorem tiles_init_ok : TilesOk Tiles.init :=
  ⟨Tidy.nil _, Tidy.nil _, Tidy.nil _, Tidy.nil _, Tidy.nil _, by simp [Tiles.init], Tidy.nil _, Tidy.nil _⟩
theorem cistern_init_ok : CisternOk Cistern.init := ⟨Tidy.nil _, by simp [Cistern.init], Tidy.nil _, Rising.nil⟩
theorem parts_init_ok : PartsOk Parts.init := ⟨Tidy.nil _, Tidy.nil _, Tidy.nil _⟩
theorem syncstore_init_ok : SyncOk SyncStore.init := ⟨Tidy.nil _, Tidy.nil _, Rising.nil, Tidy.nil _, Tidy.nil _⟩
theorem streams_init_ok : StreamsOk Streams.init := ⟨Tidy.nil _, Tidy.nil _, Tidy.nil _, Tidy.nil _⟩
theorem can_init_ok : CanOk Can.init := ⟨Rising.nil, Rising.nil⟩
theorem lands_init_ok : LandsOk Lands.init := ⟨Tidy.nil _, Rising.nil, Rising.nil⟩
theorem ports_init_ok : PortsOk Ports.init := ⟨Tidy.nil _, Tidy.nil _, Tidy.nil _, Tidy.nil _, Tidy.nil _, can_init_ok, lands_init_ok⟩

/-! ### The operations -/

theorem setSlot_canonical {a0 a1 a2 a3 a4} (g0 : Canonical a4) : Canonical (setSlot a0 a1 a2 a3 a4) := by
  unfold setSlot
  try dsimp only
  exact (upd_tl_canonical (fun h => { h.tl with slots := by (try dsimp only); exact (h.tl.slots.set _ _) }) g0)

theorem updSlot_canonical {a0 a1 a2 a3 a4} (g0 : Canonical a4) : Canonical (updSlot a0 a1 a2 a3 a4) := by
  unfold updSlot
  try dsimp only
  exact (setSlot_canonical g0)

theorem setFrame_canonical {a0 a1 a2} (hp : Canonical a2 → PageWf a1.page) (g0 : Canonical a2) : Canonical (setFrame a0 a1 a2) := by
  unfold setFrame
  refine upd_tl_canonical (fun h => { h.tl with frames := h.tl.frames.set _ _, pages := fun e he => ?_ }) g0
  rcases mem_mapSet he with ⟨rfl, _⟩ | he
  · exact hp h
  · exact h.tl.pages e he

theorem freeFrameAt_canonical {a0 a1} (g0 : Canonical a1) : Canonical (freeFrameAt a0 a1) := by
  unfold freeFrameAt
  try dsimp only
  exact (setFrame_canonical (fun h => PageWf.zero) g0)

theorem dropObjs_canonical {a0 a1} (g0 : Canonical a1) : Canonical (dropObjs a0 a1) := by
  unfold dropObjs
  exact upd_objs_canonical (fun h => ⟨h.objs.filter _, fun e he => h.width e (List.mem_of_mem_filter he)⟩) g0

theorem setQueue_canonical {a0 a1 a2 a3} (g0 : Canonical a3) : Canonical (setQueue a0 a1 a2 a3) := by
  unfold setQueue
  try dsimp only
  exact (upd_tl_canonical (fun h => { h.tl with queues := by (try dsimp only); exact (h.tl.queues.set _ _) }) g0)

theorem setObj_canonical {a0 a1 a2} (g0 : Canonical a2) : Canonical (setObj a0 a1 a2) := by
  unfold setObj
  refine upd_objs_canonical (fun h => ⟨h.objs.put _ _, fun e he => ?_⟩) g0
  rcases mem_mapPut he with rfl | he
  · rw [BitVec.toNat_ofNat]
    exact Nat.lt_of_le_of_lt (Nat.mod_le _ _) (Nat.mod_lt _ (Nat.two_pow_pos _))
  · exact h.width e he

theorem perfLoad_canonical {a0 a1 a2} (g0 : Canonical a2) : Canonical (perfLoad a0 a1 a2) := by
  unfold perfLoad
  try dsimp only
  exact (setObj_canonical g0)

theorem basicWrite_canonical {a0 a1} (g0 : Canonical a1) : Canonical (basicWrite a0 a1) := by
  unfold basicWrite
  try dsimp only
  exact (dropObjs_canonical g0)

theorem addObj_canonical {a0 a1 a2} (g0 : Canonical a2) : Canonical (addObj a0 a1 a2) := by
  unfold addObj
  try dsimp only
  exact (setObj_canonical g0)

theorem enterCapture_canonical {a0 a1} (g0 : Canonical a1) : Canonical (enterCapture a0 a1) := by
  unfold enterCapture
  try dsimp only
  exact (upd_many_canonical g0 fun h => { h with alm := by (try dsimp only); exact h.alm })

theorem capture_canonical {a0 a1 a2 a3 a4 a5 a6} (g0 : Canonical a6) : Canonical (capture a0 a1 a2 a3 a4 a5 a6) := by
  unfold capture
  try dsimp only
  exact (ite_canonical (enterCapture_canonical g0) (upd_many_canonical (addObj_canonical g0) fun h => { h with staging := by (try dsimp only); exact h.staging, alm := by (try dsimp only); exact h.alm }))

theorem refuse_canonical {a0 a1 a2 a3 a4} (g0 : Canonical a4) : Canonical (refuse a0 a1 a2 a3 a4) := by
  unfold refuse
  try dsimp only
  exact (capture_canonical (setObj_canonical g0))

theorem expertWrite_canonical {a0 a1} (g0 : Canonical a1) : Canonical (expertWrite a0 a1) := by
  unfold expertWrite
  try dsimp only
  exact (setObj_canonical g0)

theorem touch_canonical {a0 a1} (g0 : Canonical a1) : Canonical (touch a0 a1) := by
  unfold touch
  try dsimp only
  exact (ite_canonical (expertWrite_canonical g0) (basicWrite_canonical g0))

theorem ackWrite_canonical {a0 a1} (g0 : Canonical a1.1) : Canonical (ackWrite a0 a1).1 := by
  unfold ackWrite
  try dsimp only
  exact (ite_canonical (touch_canonical g0) g0)

theorem refuseEngine_canonical {a0 a1 a2 a3 a4} (g0 : Canonical a4) : Canonical (refuseEngine a0 a1 a2 a3 a4) := by
  unfold refuseEngine
  try dsimp only
  exact (capture_canonical (setObj_canonical g0))

theorem useFree_canonical {a0} (g0 : Canonical a0) : Canonical (useFree a0) := by
  unfold useFree
  try dsimp only
  exact (upd_free_canonical g0)

theorem setParked_canonical {a0 a1 a2} (g0 : Canonical a2) : Canonical (setParked a0 a1 a2) := by
  unfold setParked
  try dsimp only
  exact (upd_sy_canonical (fun h => { h.sy with parked := by (try dsimp only); exact (h.sy.parked.set _ _) }) g0)

theorem whenLive_canonical {a0 a1} (g0 : Canonical a0) (g1 : ∀ y0, Canonical y0 → Canonical (a1 y0)) : CanonOut (whenLive a0 a1) := by
  unfold whenLive
  try dsimp only
  exact (next_canonical (ite_canonical (g1 _ g0) g0))

theorem whenFree_canonical {a0 a1 a2 a3} (g0 : Canonical a2) (g1 : ∀ y0, Canonical y0 → Canonical (a3 y0)) : CanonOut (whenFree a0 a1 a2 a3) := by
  unfold whenFree
  try dsimp only
  exact (whenLive_canonical g0 (fun _ h0 => (ite_canonical h0 (ite_canonical (g1 _ h0) (setParked_canonical h0)))))

theorem refuseQuiet_canonical {a0 a1 a2} (g0 : Canonical a2) : Canonical (refuseQuiet a0 a1 a2) := by
  unfold refuseQuiet
  try dsimp only
  exact (setObj_canonical g0)

theorem restampCaptures_canonical {a0} (g0 : Canonical a0) : Canonical (restampCaptures a0) := by
  unfold restampCaptures
  try dsimp only
  exact (upd_alm_canonical (fun h => h.alm) g0)

theorem emit_canonical {a0 a1} (g0 : Canonical a1) : Canonical (emit a0 a1) := by
  unfold emit
  try dsimp only
  exact (upd_out_canonical g0)

theorem refreshPin_canonical {a0 a1} (g0 : Canonical a1) : Canonical (refreshPin a0 a1) := by
  unfold refreshPin
  try dsimp only
  exact (by (try dsimp only); first | (split; exact (upd_io_canonical (fun h => { h.io with lands := { h.io.lands with driven := by (try dsimp only); exact (h.io.lands.driven.erase _) } }) g0); exact (ite_canonical g0 (emit_canonical (upd_io_canonical (fun h => { h.io with lands := { h.io.lands with driven := by (try dsimp only); exact (h.io.lands.driven.put _ _) } }) g0)))) | (split <;> first | exact (upd_io_canonical (fun h => { h.io with lands := { h.io.lands with driven := by (try dsimp only); exact (h.io.lands.driven.erase _) } }) g0) | exact (ite_canonical g0 (emit_canonical (upd_io_canonical (fun h => { h.io with lands := { h.io.lands with driven := by (try dsimp only); exact (h.io.lands.driven.put _ _) } }) g0)))))

theorem updateActive_canonical {a0} (g0 : Canonical a0) : Canonical (updateActive a0) := by
  unfold updateActive
  try dsimp only
  exact (ite_canonical g0 (setObj_canonical (upd_pt_canonical (fun h => { h.pt with  }) g0)))

theorem settleFlips_canonical {a0} (g0 : Canonical a0) : Canonical (settleFlips a0) := by
  unfold settleFlips
  try dsimp only
  exact (foldl_canonical (fun _ _ h0 => (by (try dsimp only); first | (split; exact h0; exact (ite_canonical (freeFrameAt_canonical h0) h0)) | (split <;> first | exact h0 | exact (ite_canonical (freeFrameAt_canonical h0) h0)))) g0)

theorem passCycle_canonical {a0} (g0 : Canonical a0) : Canonical (passCycle a0) := by
  unfold passCycle
  try dsimp only
  exact (updateActive_canonical (upd_now_canonical (settleFlips_canonical g0)))

theorem satAddObj_canonical {a0 a1 a2} (g0 : Canonical a2) : Canonical (satAddObj a0 a1 a2) := by
  unfold satAddObj
  try dsimp only
  exact (setObj_canonical g0)

theorem setPcie_canonical {a0 a1 a2} (g0 : Canonical a2) : Canonical (setPcie a0 a1 a2) := by
  unfold setPcie
  try dsimp only
  exact (upd_io_canonical (fun h => { h.io with pcie := by (try dsimp only); exact (h.io.pcie.set _ _) }) g0)

theorem notePosted_canonical {a0 a1} (g0 : Canonical a1) : Canonical (notePosted a0 a1) := by
  unfold notePosted
  try dsimp only
  exact (setPcie_canonical g0)

theorem sendMsix_canonical {a0 a1 a2} (g0 : Canonical a2) : Canonical (sendMsix a0 a1 a2) := by
  unfold sendMsix
  try dsimp only
  exact (ite_canonical (emit_canonical (notePosted_canonical g0)) (ite_canonical g0 (setPcie_canonical g0)))

theorem refreshPins_canonical {a0} (g0 : Canonical a0) : Canonical (refreshPins a0) := by
  unfold refreshPins
  try dsimp only
  exact (foldl_canonical (fun _ _ h0 => (refreshPin_canonical h0)) g0)

theorem setCisternState_canonical {a0 a1} (g0 : Canonical a1) : Canonical (setCisternState a0 a1) := by
  unfold setCisternState
  try dsimp only
  exact (refreshPins_canonical (setObj_canonical g0))

theorem noteFlip_canonical {a0 a1 a2 a3} (g0 : Canonical a3) : Canonical (noteFlip a0 a1 a2 a3) := by
  unfold noteFlip
  try dsimp only
  exact (upd_now_canonical g0)

theorem setRing_canonical {a0 a1 a2} (g0 : Canonical a2) : Canonical (setRing a0 a1 a2) := by
  unfold setRing
  try dsimp only
  exact (upd_io_canonical (fun h => { h.io with rings := by (try dsimp only); exact (h.io.rings.set _ _) }) g0)

theorem perfAdd_canonical {a0 a1 a2} (g0 : Canonical a2) : Canonical (perfAdd a0 a1 a2) := by
  unfold perfAdd
  try dsimp only
  exact (ite_canonical g0 (setObj_canonical (upd_now_canonical g0)))

theorem setWatched_canonical {a0 a1 a2} (g0 : Canonical a2) : Canonical (setWatched a0 a1 a2) := by
  unfold setWatched
  try dsimp only
  exact (upd_st_canonical (fun h => { h.st with watched := by (try dsimp only); exact (h.st.watched.set _ _) }) g0)

theorem setPort_canonical {a0 a1 a2} (g0 : Canonical a2) : Canonical (setPort a0 a1 a2) := by
  unfold setPort
  try dsimp only
  exact (upd_io_canonical (fun h => { h.io with raster := by (try dsimp only); exact (h.io.raster.set _ _) }) g0)

theorem retireFrame_canonical {a0 a1} (g0 : Canonical a1) : Canonical (retireFrame a0 a1) := by
  unfold retireFrame
  try dsimp only
  exact (setFrame_canonical (fun h => by first | exact h.frame _ | exact h.cslot _ | exact PageWf.write (h.frame _) _ _ | exact PageWf.write (h.cslot _) _ _ | exact pageOf_wf _ | exact PageWf.zero | exact PageWf.blank _) g0)

theorem setLatches_canonical {a0 a1 a2} (g0 : Canonical a2) : Canonical (setLatches a0 a1 a2) := by
  unfold setLatches
  try dsimp only
  exact (upd_latches_canonical (fun h => (h.latches.set _ _)) g0)

theorem answer_canonical {a0 a1 a2} (g0 : Canonical a2) : Canonical (answer a0 a1 a2) := by
  unfold answer
  try dsimp only
  exact (emit_canonical (setLatches_canonical g0))

theorem absentRead_canonical {a0 a1} (g0 : Canonical a1) : Canonical (absentRead a0 a1) := by
  unfold absentRead
  try dsimp only
  exact (answer_canonical (addObj_canonical g0))

theorem setPart_canonical {a0 a1 a2} (g0 : Canonical a2) : Canonical (setPart a0 a1 a2) := by
  unfold setPart
  try dsimp only
  exact (upd_pt_canonical (fun h => { h.pt with parts := by (try dsimp only); exact (h.pt.parts.set _ _) }) g0)

theorem dropPage_canonical {a0 a1} (g0 : Canonical a1) : Canonical (dropPage a0 a1) := by
  unfold dropPage
  try dsimp only
  exact (ite_canonical (freeFrameAt_canonical g0) (retireFrame_canonical g0))

theorem setSeq_canonical {a0 a1 a2} (g0 : Canonical a2) : Canonical (setSeq a0 a1 a2) := by
  unfold setSeq
  try dsimp only
  exact (upd_st_canonical (fun h => { h.st with seqs := by (try dsimp only); exact (h.st.seqs.set _ _) }) g0)

theorem updPart_canonical {a0 a1 a2} (g0 : Canonical a2) : Canonical (updPart a0 a1 a2) := by
  unfold updPart
  try dsimp only
  exact (setPart_canonical g0)

theorem deferEvent_canonical {a0 a1 a2} (g0 : Canonical a2) : Canonical (deferEvent a0 a1 a2) := by
  unfold deferEvent
  try dsimp only
  exact (updPart_canonical (upd_now_canonical g0))

theorem unpinFrame_canonical {a0 a1} (g0 : Canonical a1) : Canonical (unpinFrame a0 a1) := by
  unfold unpinFrame
  try dsimp only
  exact (ite_canonical (freeFrameAt_canonical g0) (setFrame_canonical (fun h => (h.frame _)) g0))

theorem perfCount_canonical {a0 a1 a2 a3} (g0 : Canonical a3) : Canonical (perfCount a0 a1 a2 a3) := by
  unfold perfCount
  try dsimp only
  exact (foldl_canonical (fun _ _ h0 => (ite_canonical (perfAdd_canonical h0) h0)) g0)

theorem setPageMap_canonical {a0 a1 a2 a3} (g0 : Canonical a3) : Canonical (setPageMap a0 a1 a2 a3) := by
  unfold setPageMap
  try dsimp only
  exact (upd_tl_canonical (fun h => { h.tl with pageMap := by (try dsimp only); exact (h.tl.pageMap.set _ _) }) g0)

theorem setField_canonical {a0 a1 a2 a3 a4} (g0 : Canonical a4) : Canonical (setField a0 a1 a2 a3 a4) := by
  unfold setField
  try dsimp only
  exact (setObj_canonical g0)

theorem setTag_canonical {a0 a1 a2} (g0 : Canonical a2) : Canonical (setTag a0 a1 a2) := by
  unfold setTag
  try dsimp only
  exact (upd_ci_canonical (fun h => { h.ci with tags := by (try dsimp only); exact (h.ci.tags.put _ _) }) g0)

theorem countLines_canonical {a0 a1 a2 a3} (g0 : Canonical a3) : Canonical (countLines a0 a1 a2 a3) := by
  unfold countLines
  try dsimp only
  exact (ite_canonical (ite_canonical g0 (perfCount_canonical g0)) (perfCount_canonical (ite_canonical g0 (perfCount_canonical g0))))

theorem readMembers_canonical {a0 a1 a2} (g0 : Canonical a2) : Canonical (readMembers a0 a1 a2) := by
  unfold readMembers
  try dsimp only
  exact (foldl_canonical (fun _ _ h0 => (ite_canonical h0 (countLines_canonical h0))) g0)

theorem writeLine_canonical {a0 a1 a2} (g0 : Canonical a2) : Canonical (writeLine a0 a1 a2) := by
  unfold writeLine
  try dsimp only
  exact (ite_canonical (ite_canonical (upd_ci_canonical (fun h => { h.ci with  }) (readMembers_canonical g0)) (countLines_canonical g0)) (countLines_canonical (ite_canonical (upd_ci_canonical (fun h => { h.ci with  }) (readMembers_canonical g0)) (countLines_canonical g0))))

theorem writeLines_canonical {a0 a1 a2} (g0 : Canonical a2) : Canonical (writeLines a0 a1 a2) := by
  unfold writeLines
  try dsimp only
  exact (ite_canonical (foldl_canonical (fun _ _ h0 => (writeLine_canonical h0)) g0) (countLines_canonical (countLines_canonical g0)))

theorem readLines_canonical {a0 a1 a2} (g0 : Canonical a2) : Canonical (readLines a0 a1 a2) := by
  unfold readLines
  try dsimp only
  exact (ite_canonical (foldl_canonical (fun _ _ h0 => (ite_canonical (readMembers_canonical h0) (countLines_canonical h0))) g0) (countLines_canonical g0))

theorem copyLines_canonical {a0 a1 a2} (g0 : Canonical a2) : Canonical (copyLines a0 a1 a2) := by
  unfold copyLines
  try dsimp only
  exact (writeLines_canonical (readLines_canonical g0))

theorem setC_canonical {a0 a1 a2} (hp : Canonical a2 → PageWf a1.page) (g0 : Canonical a2) : Canonical (setC a0 a1 a2) := by
  unfold setC
  refine upd_ci_canonical (fun h => { h.ci with slots := h.ci.slots.set _ _, data := fun e he => ?_ }) g0
  rcases mem_mapSet he with ⟨rfl, _⟩ | he
  · exact hp h
  · exact h.ci.data e he

theorem skipMove_canonical {a0 a1 a2 a3} (g0 : Canonical a3) : Canonical (skipMove a0 a1 a2 a3).2 := by
  unfold skipMove
  try dsimp only
  exact (by (try dsimp only); first | (split; exact (ite_snd_canonical (snd_canonical (by (try dsimp only); first | (split; exact (setC_canonical (fun h => by first | exact h.frame _ | exact h.cslot _ | exact PageWf.write (h.frame _) _ _ | exact PageWf.write (h.cslot _) _ _ | exact pageOf_wf _ | exact PageWf.zero | exact PageWf.blank _) g0); exact g0) | (split <;> first | exact (setC_canonical (fun h => by first | exact h.frame _ | exact h.cslot _ | exact PageWf.write (h.frame _) _ _ | exact PageWf.write (h.cslot _) _ _ | exact pageOf_wf _ | exact PageWf.zero | exact PageWf.blank _) g0) | exact g0))) (snd_canonical g0)); exact (snd_canonical g0)) | (split <;> first | exact (ite_snd_canonical (snd_canonical (by (try dsimp only); first | (split; exact (setC_canonical (fun h => by first | exact h.frame _ | exact h.cslot _ | exact PageWf.write (h.frame _) _ _ | exact PageWf.write (h.cslot _) _ _ | exact pageOf_wf _ | exact PageWf.zero | exact PageWf.blank _) g0); exact g0) | (split <;> first | exact (setC_canonical (fun h => by first | exact h.frame _ | exact h.cslot _ | exact PageWf.write (h.frame _) _ _ | exact PageWf.write (h.cslot _) _ _ | exact pageOf_wf _ | exact PageWf.zero | exact PageWf.blank _) g0) | exact g0))) (snd_canonical g0)) | exact (snd_canonical g0)))

theorem setVersions_canonical {a0 a1 a2 a3} (g0 : Canonical a3) : Canonical (setVersions a0 a1 a2 a3) := by
  unfold setVersions
  try dsimp only
  exact (upd_ci_canonical (fun h => { h.ci with pages := by (try dsimp only); exact (h.ci.pages.set _ _) }) g0)

theorem undoSwitch_canonical {a0 a1 a2} (g0 : Canonical a2) : Canonical (undoSwitch a0 a1 a2) := by
  unfold undoSwitch
  try dsimp only
  exact (by (try dsimp only); first | (split; exact (upd_now_canonical (setC_canonical (fun h => by first | exact h.frame _ | exact h.cslot _ | exact PageWf.write (h.frame _) _ _ | exact PageWf.write (h.cslot _) _ _ | exact pageOf_wf _ | exact PageWf.zero | exact PageWf.blank _) (setC_canonical (fun h => by first | exact h.frame _ | exact h.cslot _ | exact PageWf.write (h.frame _) _ _ | exact PageWf.write (h.cslot _) _ _ | exact pageOf_wf _ | exact PageWf.zero | exact PageWf.blank _) (setVersions_canonical g0)))); exact g0) | (split <;> first | exact (upd_now_canonical (setC_canonical (fun h => by first | exact h.frame _ | exact h.cslot _ | exact PageWf.write (h.frame _) _ _ | exact PageWf.write (h.cslot _) _ _ | exact pageOf_wf _ | exact PageWf.zero | exact PageWf.blank _) (setC_canonical (fun h => by first | exact h.frame _ | exact h.cslot _ | exact PageWf.write (h.frame _) _ _ | exact PageWf.write (h.cslot _) _ _ | exact pageOf_wf _ | exact PageWf.zero | exact PageWf.blank _) (setVersions_canonical g0)))) | exact g0))

theorem skipMoves_canonical {a0 a1 a2} (g0 : Canonical a2) : Canonical (skipMoves a0 a1 a2) := by
  unfold skipMoves
  try dsimp only
  exact (upd_ci_canonical (fun h => { h.ci with  }) (skipMove_canonical (upd_ci_canonical (fun h => { h.ci with  }) (skipMove_canonical (undoSwitch_canonical g0)))))

theorem freeTag_canonical {a0 a1} (g0 : Canonical a1) : Canonical (freeTag a0 a1) := by
  unfold freeTag
  try dsimp only
  exact (upd_ci_canonical (fun h => { h.ci with tags := by (try dsimp only); exact (h.ci.tags.erase _) }) g0)

theorem freeSlotAt_canonical {a0 a1} (g0 : Canonical a1) : Canonical (freeSlotAt a0 a1) := by
  unfold freeSlotAt
  try dsimp only
  exact (setC_canonical (fun h => PageWf.zero) (setVersions_canonical g0))

theorem retireSlot_canonical {a0 a1 a2 a3} (g0 : Canonical a3) : Canonical (retireSlot a0 a1 a2 a3) := by
  unfold retireSlot
  try dsimp only
  exact (ite_canonical (setC_canonical (fun h => (h.cslot _)) g0) g0)

theorem settleEntry_canonical {a0 a1 a2} (g0 : Canonical a2) : Canonical (settleEntry a0 a1 a2) := by
  unfold settleEntry
  try dsimp only
  exact (by (try dsimp only); first | (split; exact g0; exact (freeSlotAt_canonical g0); exact (by (try dsimp only); first | (split; exact (retireSlot_canonical (setC_canonical (fun h => by first | exact h.frame _ | exact h.cslot _ | exact PageWf.write (h.frame _) _ _ | exact PageWf.write (h.cslot _) _ _ | exact pageOf_wf _ | exact PageWf.zero | exact PageWf.blank _) g0)); exact (setC_canonical (fun h => by first | exact h.frame _ | exact h.cslot _ | exact PageWf.write (h.frame _) _ _ | exact PageWf.write (h.cslot _) _ _ | exact pageOf_wf _ | exact PageWf.zero | exact PageWf.blank _) g0)) | (split <;> first | exact (retireSlot_canonical (setC_canonical (fun h => by first | exact h.frame _ | exact h.cslot _ | exact PageWf.write (h.frame _) _ _ | exact PageWf.write (h.cslot _) _ _ | exact pageOf_wf _ | exact PageWf.zero | exact PageWf.blank _) g0)) | exact (setC_canonical (fun h => by first | exact h.frame _ | exact h.cslot _ | exact PageWf.write (h.frame _) _ _ | exact PageWf.write (h.cslot _) _ _ | exact pageOf_wf _ | exact PageWf.zero | exact PageWf.blank _) g0)))) | (split <;> first | exact g0 | exact (freeSlotAt_canonical g0) | exact (by (try dsimp only); first | (split; exact (retireSlot_canonical (setC_canonical (fun h => by first | exact h.frame _ | exact h.cslot _ | exact PageWf.write (h.frame _) _ _ | exact PageWf.write (h.cslot _) _ _ | exact pageOf_wf _ | exact PageWf.zero | exact PageWf.blank _) g0)); exact (setC_canonical (fun h => by first | exact h.frame _ | exact h.cslot _ | exact PageWf.write (h.frame _) _ _ | exact PageWf.write (h.cslot _) _ _ | exact pageOf_wf _ | exact PageWf.zero | exact PageWf.blank _) g0)) | (split <;> first | exact (retireSlot_canonical (setC_canonical (fun h => by first | exact h.frame _ | exact h.cslot _ | exact PageWf.write (h.frame _) _ _ | exact PageWf.write (h.cslot _) _ _ | exact pageOf_wf _ | exact PageWf.zero | exact PageWf.blank _) g0)) | exact (setC_canonical (fun h => by first | exact h.frame _ | exact h.cslot _ | exact PageWf.write (h.frame _) _ _ | exact PageWf.write (h.cslot _) _ _ | exact pageOf_wf _ | exact PageWf.zero | exact PageWf.blank _) g0)))))

theorem settlePage_canonical {a0 a1 a2} (g0 : Canonical a2) : Canonical (settlePage a0 a1 a2) := by
  unfold settlePage
  try dsimp only
  exact (foldl_canonical (fun _ _ h0 => (by (try dsimp only); first | (split; exact (ite_canonical (ite_canonical (freeTag_canonical (foldl_canonical (fun _ _ h1 => (settleEntry_canonical h1)) h0)) (setTag_canonical (foldl_canonical (fun _ _ h1 => (settleEntry_canonical h1)) h0))) h0); exact h0) | (split <;> first | exact (ite_canonical (ite_canonical (freeTag_canonical (foldl_canonical (fun _ _ h1 => (settleEntry_canonical h1)) h0)) (setTag_canonical (foldl_canonical (fun _ _ h1 => (settleEntry_canonical h1)) h0))) h0) | exact h0))) g0)

theorem pushVersion_canonical {a0 a1 a2 a3 a4} (g0 : Canonical a4) : Canonical (pushVersion a0 a1 a2 a3 a4) := by
  unfold pushVersion
  try dsimp only
  exact (setVersions_canonical g0)

theorem commitTag_canonical {a0 a1 a2} (g0 : Canonical a2) : Canonical (commitTag a0 a1 a2) := by
  unfold commitTag
  split
  · exact g0
  · refine upd_ci_canonical (fun h => { h.ci with }) (setTag_canonical (foldl_canonical (fun s e h => ?_) g0))
    exact ite_canonical (upd_ci_canonical (fun h => { h.ci with }) (pushVersion_canonical h)) (pushVersion_canonical h)

theorem shadowFill_canonical {a0 a1 a2} (g0 : Canonical a0) : Canonical (shadowFill a0 a1 a2).2 := by
  unfold shadowFill
  try dsimp only
  exact (by (try dsimp only); first | (split; exact (snd_canonical g0); exact (snd_canonical (useFree_canonical g0))) | (split <;> first | exact (snd_canonical g0) | exact (snd_canonical (useFree_canonical g0))))

theorem unmapRange_canonical {a0 a1 a2 a3 a4} (g0 : Canonical a4) : Canonical (unmapRange a0 a1 a2 a3 a4) := by
  unfold unmapRange
  try dsimp only
  exact (upd_ci_canonical (fun h => { h.ci with  }) (foldl_canonical (fun _ _ h0 => (by (try dsimp only); first | (split; exact (upd_ci_canonical (fun h => { h.ci with  }) (retireSlot_canonical (pushVersion_canonical (settlePage_canonical h0)))); exact (settlePage_canonical h0)) | (split <;> first | exact (upd_ci_canonical (fun h => { h.ci with  }) (retireSlot_canonical (pushVersion_canonical (settlePage_canonical h0)))) | exact (settlePage_canonical h0)))) g0))

theorem shadowFill_page_wf {a0 a1 a2} (g0 : Canonical a0) : PageWf (shadowFill a0 a1 a2).1 := by
  unfold shadowFill; split
  · exact g0.cslot _
  · exact PageWf.blank _

theorem ensureShadow_canonical {a0 a1 a2 a3} (g0 : Canonical a3) : ∀ r, ensureShadow a0 a1 a2 a3 = some r → Canonical r.2 := by
  intro r hr
  unfold ensureShadow at hr
  split at hr
  · simp at hr
  · split at hr
    · cases hr; exact g0
    · simp only at hr
      split at hr
      · simp at hr
      · split at hr
        · simp at hr
        · cases hr
          rename_i tag _ _ _ _ _ _ _
          have h1 := skipMoves_canonical (a0 := tag.part) (a1 := a2) (settlePage_canonical (a0 := tag.part) (a1 := a2) g0)
          exact setTag_canonical (setC_canonical (fun _ => shadowFill_page_wf h1) (shadowFill_canonical h1))

theorem setStackState_canonical {a0 a1 a2} (g0 : Canonical a2) : Canonical (setStackState a0 a1 a2) := by
  unfold setStackState
  try dsimp only
  exact (setField_canonical g0)

theorem writeShadowSlot_canonical {a0 a1 a2 a3} (g0 : Canonical a3) : Canonical (writeShadowSlot a0 a1 a2 a3) := by
  unfold writeShadowSlot
  try dsimp only
  exact (setC_canonical (fun h => by first | exact h.frame _ | exact h.cslot _ | exact PageWf.write (h.frame _) _ _ | exact PageWf.write (h.cslot _) _ _ | exact pageOf_wf _ | exact PageWf.zero | exact PageWf.blank _) g0)

theorem killTag_canonical {a0 a1} (g0 : Canonical a1) : Canonical (killTag a0 a1) := by
  unfold killTag
  try dsimp only
  exact (by (try dsimp only); first | (split; exact g0; exact (setTag_canonical g0)) | (split <;> first | exact g0 | exact (setTag_canonical g0)))

theorem settleTag_canonical {a0 a1} (g0 : Canonical a1) : Canonical (settleTag a0 a1) := by
  unfold settleTag
  try dsimp only
  exact (by (try dsimp only); first | (split; exact g0; exact (ite_canonical g0 (freeTag_canonical (foldl_canonical (fun _ _ h0 => (settleEntry_canonical h0)) g0)))) | (split <;> first | exact g0 | exact (ite_canonical g0 (freeTag_canonical (foldl_canonical (fun _ _ h0 => (settleEntry_canonical h0)) g0)))))

theorem crossLinks_canonical {a0 a1 a2 a3} (g0 : Canonical a3) : Canonical (crossLinks a0 a1 a2 a3) := by
  unfold crossLinks
  try dsimp only
  exact (foldl_canonical (fun _ _ h0 => (perfCount_canonical h0)) g0)

theorem setLinkState_canonical {a0 a1 a2} (g0 : Canonical a2) : Canonical (setLinkState a0 a1 a2) := by
  unfold setLinkState
  try dsimp only
  exact (setField_canonical g0)

theorem haltTile_canonical {a0 a1 a2} (g0 : Canonical a2) : Canonical (haltTile a0 a1 a2) := by
  unfold haltTile
  try dsimp only
  exact (ite_canonical g0 (setObj_canonical (updPart_canonical g0)))

theorem writeFrame_canonical {a0 a1 a2 a3} (g0 : Canonical a3) : Canonical (writeFrame a0 a1 a2 a3) := by
  unfold writeFrame
  try dsimp only
  exact (setFrame_canonical (fun h => (PageWf.write (h.frame _) _ _)) g0)

theorem setWeightLoad_canonical {a0 a1 a2} (g0 : Canonical a2) : Canonical (setWeightLoad a0 a1 a2) := by
  unfold setWeightLoad
  try dsimp only
  exact (upd_tl_canonical (fun h => { h.tl with loads := by (try dsimp only); exact (h.tl.loads.set _ _) }) g0)

theorem dropLoad_canonical {a0 a1 a2 a3} (g0 : Canonical a3) : Canonical (dropLoad a0 a1 a2 a3) := by
  unfold dropLoad
  try dsimp only
  exact (ite_canonical (setWeightLoad_canonical g0) g0)

theorem dropWaiting_canonical {a0 a1 a2 a3} (g0 : Canonical a3) : Canonical (dropWaiting a0 a1 a2 a3) := by
  unfold dropWaiting
  try dsimp only
  exact (dropLoad_canonical (ite_canonical (setQueue_canonical g0) g0))

theorem setNotices_canonical {a0 a1 a2} (g0 : Canonical a2) : Canonical (setNotices a0 a1 a2) := by
  unfold setNotices
  try dsimp only
  exact (upd_sy_canonical (fun h => { h.sy with notices := by (try dsimp only); exact (h.sy.notices.set _ _) }) g0)

theorem dropNotice_canonical {a0 a1 a2} (g0 : Canonical a2) : Canonical (dropNotice a0 a1 a2) := by
  unfold dropNotice
  try dsimp only
  exact (setNotices_canonical g0)

theorem execWatchNotification_canonical {a0 a1 a2} (g0 : Canonical a2) : CanonOut (execWatchNotification a0 a1 a2) := by
  unfold execWatchNotification
  try dsimp only
  exact (whenLive_canonical g0 (fun _ h0 => (ite_canonical (ite_canonical (setQueue_canonical (dropNotice_canonical h0)) (dropNotice_canonical h0)) h0)))

theorem setBank_canonical {a0 a1 a2} (g0 : Canonical a2) : Canonical (setBank a0 a1 a2) := by
  unfold setBank
  try dsimp only
  exact (upd_sy_canonical (fun h => { h.sy with banks := by (try dsimp only); exact (h.sy.banks.set _ _) }) g0)

theorem enterUpdate_canonical {a0 a1} (g0 : Canonical a1) : Canonical (enterUpdate a0 a1) := by
  unfold enterUpdate
  try dsimp only
  exact (setBank_canonical (ite_canonical (upd_now_canonical g0) g0))

theorem sendUpdate_canonical {a0 a1} (g0 : Canonical a1) : Canonical (sendUpdate a0 a1) := by
  unfold sendUpdate
  try dsimp only
  exact (ite_canonical (upd_sy_canonical (fun h => { h.sy with  }) g0) (enterUpdate_canonical g0))

theorem sendSignal_canonical {a0 a1 a2 a3 a4} (g0 : Canonical a4) : Canonical (sendSignal a0 a1 a2 a3 a4) := by
  unfold sendSignal
  try dsimp only
  exact (ite_canonical g0 (sendUpdate_canonical g0))

theorem sendCommitSignals_canonical {a0 a1 a2} (g0 : Canonical a2) : Canonical (sendCommitSignals a0 a1 a2) := by
  unfold sendCommitSignals
  try dsimp only
  exact (ite_canonical (sendSignal_canonical g0) (sendSignal_canonical (sendSignal_canonical g0)))

theorem setAcct_canonical {a0 a1 a2} (g0 : Canonical a2) : Canonical (setAcct a0 a1 a2) := by
  unfold setAcct
  try dsimp only
  exact (upd_pt_canonical (fun h => { h.pt with accts := by (try dsimp only); exact (h.pt.accts.set _ _) }) g0)

theorem chargeLost_canonical {a0 a1 a2} (g0 : Canonical a2) : Canonical (chargeLost a0 a1 a2) := by
  unfold chargeLost
  try dsimp only
  exact (setAcct_canonical g0)

theorem killOne_canonical {a0 a1 a2 a3 a4 a5 a6} (g0 : Canonical a6) : Canonical (killOne a0 a1 a2 a3 a4 a5 a6) := by
  unfold killOne
  try dsimp only
  exact (ite_canonical (by (try dsimp only); first | (split; exact (setSlot_canonical g0); exact (chargeLost_canonical (dropWaiting_canonical (setSlot_canonical g0)))) | (split <;> first | exact (setSlot_canonical g0) | exact (chargeLost_canonical (dropWaiting_canonical (setSlot_canonical g0))))) g0)

theorem startKill_canonical {a0 a1 a2 a3 a4 a5 a6} (g0 : Canonical a6) : Canonical (startKill a0 a1 a2 a3 a4 a5 a6) := by
  unfold startKill
  try dsimp only
  exact (ite_canonical (foldl_canonical (fun _ _ h0 => (killOne_canonical h0)) (killOne_canonical g0)) g0)

theorem killPart_canonical {a0 a1} (g0 : Canonical a1) : Canonical (killPart a0 a1) := by
  unfold killPart
  try dsimp only
  exact (foldl_canonical (fun _ _ h0 => (foldl_canonical (fun _ _ h1 => (startKill_canonical h1)) h0)) g0)

theorem startReset_canonical {a0 a1 a2 a3} (g0 : Canonical a3) : Canonical (startReset a0 a1 a2 a3) := by
  unfold startReset
  try dsimp only
  exact (ite_canonical (upd_fab_canonical (fun h => { h.fab with  }) (updPart_canonical g0)) (killPart_canonical (setObj_canonical (updPart_canonical g0))))

theorem fireHostWatch_canonical {a0 a1} (g0 : Canonical a1) : Canonical (fireHostWatch a0 a1) := by
  unfold fireHostWatch
  try dsimp only
  exact (sendMsix_canonical (addObj_canonical (setObj_canonical (upd_sy_canonical (fun h => { h.sy with hostArmed := by (try dsimp only); exact (h.sy.hostArmed.erase _) }) g0))))

theorem notifyHosts_canonical {a0 a1} (g0 : Canonical a1) : Canonical (notifyHosts a0 a1) := by
  unfold notifyHosts
  try dsimp only
  exact (foldl_canonical (fun _ _ h0 => (by (try dsimp only); first | (split; exact (ite_canonical (fireHostWatch_canonical h0) h0); exact h0) | (split <;> first | exact (ite_canonical (fireHostWatch_canonical h0) h0) | exact h0))) g0)

theorem perturb_canonical {a0} (g0 : Canonical a0) : Canonical (perturb a0) := by
  unfold perturb
  try dsimp only
  exact (ite_canonical (ite_canonical (addObj_canonical g0) (capture_canonical (upd_pt_canonical (fun h => { h.pt with  }) (addObj_canonical g0)))) g0)

theorem requestCommit_canonical {a0 a1 a2 a3} (g0 : Canonical a3) : Canonical (requestCommit a0 a1 a2 a3) := by
  unfold requestCommit
  try dsimp only
  exact (ite_canonical (setSlot_canonical g0) g0)

theorem execWriteAcknowledgement_canonical {a0 a1 a2 a3} (g0 : Canonical a3) : CanonOut (execWriteAcknowledgement a0 a1 a2 a3) := by
  unfold execWriteAcknowledgement
  try dsimp only
  exact (whenLive_canonical g0 (fun _ h0 => (by (try dsimp only); first | (split; exact (ite_canonical (perturb_canonical (requestCommit_canonical (setSlot_canonical h0))) (requestCommit_canonical (setSlot_canonical h0))); exact h0) | (split <;> first | exact (ite_canonical (perturb_canonical (requestCommit_canonical (setSlot_canonical h0))) (requestCommit_canonical (setSlot_canonical h0))) | exact h0))))

theorem refreshLoad_canonical {a0 a1} (g0 : Canonical a1) : Canonical (refreshLoad a0 a1) := by
  unfold refreshLoad
  try dsimp only
  exact (ite_canonical (setWeightLoad_canonical g0) g0)

theorem sendProbe_canonical {a0 a1 a2 a3} (g0 : Canonical a3) : Canonical (sendProbe a0 a1 a2 a3) := by
  unfold sendProbe
  try dsimp only
  exact (sendUpdate_canonical g0)

theorem armHead_canonical {a0 a1 a2} (g0 : Canonical a2) : Canonical (armHead a0 a1 a2) := by
  unfold armHead
  try dsimp only
  exact (by (try dsimp only); first | (split; exact g0; exact (ite_canonical (sendProbe_canonical (setQueue_canonical g0)) g0)) | (split <;> first | exact g0 | exact (ite_canonical (sendProbe_canonical (setQueue_canonical g0)) g0)))

theorem moveHead_canonical {a0 a1 a2 a3} (g0 : Canonical a3) : Canonical (moveHead a0 a1 a2 a3) := by
  unfold moveHead
  try dsimp only
  exact (ite_canonical (armHead_canonical (refreshLoad_canonical g0)) (armHead_canonical (refreshLoad_canonical (setQueue_canonical (ite_canonical (dropNotice_canonical g0) g0)))))

theorem settleHead_canonical {a0 a1 a2} (g0 : Canonical a2) : Canonical (settleHead a0 a1 a2) := by
  unfold settleHead
  try dsimp only
  exact (moveHead_canonical g0)

theorem advanceCommit_canonical {a0 a1 a2} (g0 : Canonical a2) : Canonical (advanceCommit a0 a1 a2) := by
  unfold advanceCommit
  try dsimp only
  exact (setQueue_canonical (foldl_canonical (fun _ _ h0 => (updSlot_canonical h0)) g0))

theorem doomSlot_canonical {a0 a1 a2 a3} (g0 : Canonical a3) : Canonical (doomSlot a0 a1 a2 a3) := by
  unfold doomSlot
  try dsimp only
  exact (ite_canonical g0 (setQueue_canonical g0))

theorem chargeWithdrawal_canonical {a0 a1} (g0 : Canonical a1) : Canonical (chargeWithdrawal a0 a1) := by
  unfold chargeWithdrawal
  try dsimp only
  exact (setAcct_canonical g0)

theorem withdrawSlot_canonical {a0 a1 a2 a3} (g0 : Canonical a3) : Canonical (withdrawSlot a0 a1 a2 a3) := by
  unfold withdrawSlot
  try dsimp only
  exact (chargeWithdrawal_canonical (updPart_canonical (dropWaiting_canonical (setSlot_canonical g0))))

theorem withdrawOrDoom_canonical {a0 a1 a2 a3} (g0 : Canonical a3) : Canonical (withdrawOrDoom a0 a1 a2 a3) := by
  unfold withdrawOrDoom
  try dsimp only
  exact (ite_canonical (withdrawSlot_canonical g0) (doomSlot_canonical g0))

theorem withdrawOne_canonical {a0 a1 a2 a3} (g0 : Canonical a3) : Canonical (withdrawOne a0 a1 a2 a3) := by
  unfold withdrawOne
  try dsimp only
  exact (by (try dsimp only); first | (split; exact (withdrawOrDoom_canonical g0); exact (withdrawOrDoom_canonical g0); exact (startKill_canonical g0); exact (startKill_canonical g0); exact (startKill_canonical g0); exact g0) | (split <;> first | exact (withdrawOrDoom_canonical g0) | exact (startKill_canonical g0) | exact g0))

theorem withdrawJob_canonical {a0 a1 a2} (g0 : Canonical a2) : Canonical (withdrawJob a0 a1 a2) := by
  unfold withdrawJob
  try dsimp only
  exact (foldl_canonical (fun _ _ h0 => (advanceCommit_canonical (settleHead_canonical (foldl_canonical (fun _ _ h1 => (ite_canonical (withdrawOne_canonical h1) h1)) h0)))) g0)

theorem setUnit_canonical {a0 a1 a2} (g0 : Canonical a2) : Canonical (setUnit a0 a1 a2) := by
  unfold setUnit
  try dsimp only
  exact (upd_tl_canonical (fun h => { h.tl with units := by (try dsimp only); exact (h.tl.units.set _ _) }) g0)

theorem freeUnit_canonical {a0 a1 a2 a3} (g0 : Canonical a3) : Canonical (freeUnit a0 a1 a2 a3) := by
  unfold freeUnit
  try dsimp only
  exact (ite_canonical (setUnit_canonical g0) g0)

theorem abandonSlot_canonical {a0 a1 a2 a3} (g0 : Canonical a3) : Canonical (abandonSlot a0 a1 a2 a3) := by
  unfold abandonSlot
  try dsimp only
  exact (dropWaiting_canonical (updSlot_canonical g0))

theorem releasePins_canonical {a0 a1 a2 a3} (g0 : Canonical a3) : Canonical (releasePins a0 a1 a2 a3) := by
  unfold releasePins
  try dsimp only
  exact (updSlot_canonical (foldl_canonical (fun _ _ h0 => (unpinFrame_canonical h0)) g0))

theorem chargeKill_canonical {a0 a1} (g0 : Canonical a1) : Canonical (chargeKill a0 a1) := by
  unfold chargeKill
  try dsimp only
  exact (setAcct_canonical g0)

theorem releaseShadows_canonical {a0 a1 a2 a3} (g0 : Canonical a3) : Canonical (releaseShadows a0 a1 a2 a3) := by
  unfold releaseShadows
  try dsimp only
  exact (by (try dsimp only); first | (split; exact (killTag_canonical (foldl_canonical (fun _ _ h0 => (freeFrameAt_canonical h0)) g0)); exact (foldl_canonical (fun _ _ h0 => (freeFrameAt_canonical h0)) g0)) | (split <;> first | exact (killTag_canonical (foldl_canonical (fun _ _ h0 => (freeFrameAt_canonical h0)) g0)) | exact (foldl_canonical (fun _ _ h0 => (freeFrameAt_canonical h0)) g0)))

theorem completeKill_canonical {a0 a1 a2 a3} (g0 : Canonical a3) : Canonical (completeKill a0 a1 a2 a3) := by
  unfold completeKill
  try dsimp only
  exact (by (try dsimp only); first | (split; exact (ite_canonical (withdrawOrDoom_canonical (updSlot_canonical (ite_canonical (chargeKill_canonical (releaseShadows_canonical (releasePins_canonical (freeUnit_canonical g0)))) (releaseShadows_canonical (releasePins_canonical (freeUnit_canonical g0)))))) (ite_canonical (abandonSlot_canonical (updSlot_canonical (ite_canonical (chargeKill_canonical (releaseShadows_canonical (releasePins_canonical (freeUnit_canonical g0)))) (releaseShadows_canonical (releasePins_canonical (freeUnit_canonical g0)))))) (updSlot_canonical (ite_canonical (chargeKill_canonical (releaseShadows_canonical (releasePins_canonical (freeUnit_canonical g0)))) (releaseShadows_canonical (releasePins_canonical (freeUnit_canonical g0))))))); exact g0) | (split <;> first | exact (ite_canonical (withdrawOrDoom_canonical (updSlot_canonical (ite_canonical (chargeKill_canonical (releaseShadows_canonical (releasePins_canonical (freeUnit_canonical g0)))) (releaseShadows_canonical (releasePins_canonical (freeUnit_canonical g0)))))) (ite_canonical (abandonSlot_canonical (updSlot_canonical (ite_canonical (chargeKill_canonical (releaseShadows_canonical (releasePins_canonical (freeUnit_canonical g0)))) (releaseShadows_canonical (releasePins_canonical (freeUnit_canonical g0)))))) (updSlot_canonical (ite_canonical (chargeKill_canonical (releaseShadows_canonical (releasePins_canonical (freeUnit_canonical g0)))) (releaseShadows_canonical (releasePins_canonical (freeUnit_canonical g0))))))) | exact g0))

theorem restamp_canonical {a0 a1 a2 a3 a4} (g0 : Canonical a4) : Canonical (restamp a0 a1 a2 a3 a4) := by
  unfold restamp
  try dsimp only
  exact (foldl_canonical (fun _ _ h0 => (setWatched_canonical h0)) (foldl_canonical (fun _ _ h0 => (setSeq_canonical h0)) (updPart_canonical (foldl_canonical (fun _ _ h0 => (updSlot_canonical h0)) g0))))

theorem stampStep_canonical {a0 a1 a2 a3 a4} (g0 : Canonical a4) : Canonical (stampStep a0 a1 a2 a3 a4) := by
  unfold stampStep
  try dsimp only
  exact (ite_canonical (upd_now_canonical (addObj_canonical (updSlot_canonical g0))) (restamp_canonical (upd_now_canonical (addObj_canonical (updSlot_canonical g0)))))

theorem stampSlots_canonical {a0 a1 a2 a3 a4 a5} (g0 : Canonical a5) : Canonical (stampSlots a0 a1 a2 a3 a4 a5) := by
  unfold stampSlots
  try dsimp only
  exact (foldl_canonical (fun _ _ h0 => (ite_canonical (updPart_canonical (updSlot_canonical h0)) (stampStep_canonical h0))) g0)

theorem tileFill_canonical {a0 a1 a2} (g0 : Canonical a0) : Canonical (tileFill a0 a1 a2).2 := by
  unfold tileFill
  try dsimp only
  exact (by (try dsimp only); first | (split; exact (snd_canonical g0); exact (snd_canonical (useFree_canonical g0))) | (split <;> first | exact (snd_canonical g0) | exact (snd_canonical (useFree_canonical g0))))

theorem tileFill_page_wf {a0 a1 a2} (g0 : Canonical a0) : PageWf (tileFill a0 a1 a2).1 := by
  unfold tileFill; split
  · exact g0.frame _
  · exact PageWf.blank _

theorem allocShadow_canonical {a0 a1 a2 a3 a4 a5} (g0 : Canonical a5) : ∀ r, allocShadow a0 a1 a2 a3 a4 a5 = some r → Canonical r.2 := by
  intro r hr
  unfold allocShadow at hr
  split at hr
  · simp at hr
  · split at hr
    · simp at hr
    · cases hr
      dsimp only
      exact updSlot_canonical (setFrame_canonical (fun _ => tileFill_page_wf g0) (tileFill_canonical g0))

theorem execWithdrawHead_canonical {a0 a1 a2} (g0 : Canonical a2) : CanonOut (execWithdrawHead a0 a1 a2) := by
  unfold execWithdrawHead
  try dsimp only
  exact (whenLive_canonical g0 (fun _ h0 => (by (try dsimp only); first | (split; exact (ite_canonical (advanceCommit_canonical (settleHead_canonical (withdrawOrDoom_canonical h0))) h0); exact h0) | (split <;> first | exact (ite_canonical (advanceCommit_canonical (settleHead_canonical (withdrawOrDoom_canonical h0))) h0) | exact h0))))

theorem sentWrite_canonical {a0 a1 a2 a3 a4 a5} (g0 : Canonical a5) : Canonical (sentWrite a0 a1 a2 a3 a4 a5) := by
  unfold sentWrite
  try dsimp only
  exact (updSlot_canonical g0)

theorem execRemoteWrite_canonical {a0 a1 a2 a3 a4} (g0 : Canonical a4) : CanonOut (execRemoteWrite a0 a1 a2 a3 a4) := by
  unfold execRemoteWrite
  refine whenLive_canonical g0 (fun s h => ?_)
  dsimp only
  split
  · split
    · exact h
    · split
      · exact sentWrite_canonical (writeFrame_canonical (crossLinks_canonical h))
      · split
        · rename_i hq
          exact sentWrite_canonical (writeFrame_canonical (crossLinks_canonical (allocShadow_canonical h _ hq)))
        · exact h
  · exact h

theorem noteLanded_canonical {a0 a1 a2 a3} (g0 : Canonical a3) : Canonical (noteLanded a0 a1 a2 a3) := by
  unfold noteLanded
  try dsimp only
  exact (upd_now_canonical g0)

theorem flipPin_canonical {a0 a1} (g0 : Canonical a1) : Canonical (flipPin a0 a1) := by
  have h1 := setFrame_canonical (a0 := a0.frame) (a1 := { getFrame (setPageMap a0.tile a0.page (a0.frame % 768 + 1) a1) a0.frame with st := .mapped })
    (fun h => h.frame a0.frame) (setPageMap_canonical (a0 := a0.tile) (a1 := a0.page) (a2 := a0.frame % 768 + 1) g0)
  unfold flipPin
  dsimp only
  split
  · exact retireFrame_canonical (noteFlip_canonical h1)
  · exact noteFlip_canonical h1

theorem execRemoteCommitMessage_canonical {a0 a1 a2 a3 a4} (g0 : Canonical a4) : CanonOut (execRemoteCommitMessage a0 a1 a2 a3 a4) := by
  unfold execRemoteCommitMessage
  try dsimp only
  exact (whenLive_canonical g0 (fun _ h0 => (ite_canonical (updSlot_canonical (foldl_canonical (fun _ _ h1 => (flipPin_canonical h1)) (noteLanded_canonical h0))) h0)))

theorem publishTail_canonical {a0 a1 a2 a3 a4 a5} (g0 : Canonical a5) : Canonical (publishTail a0 a1 a2 a3 a4 a5) := by
  unfold publishTail
  try dsimp only
  exact (settleHead_canonical (setQueue_canonical (upd_now_canonical (stampSlots_canonical g0))))

theorem applyTail_canonical {a0 a1 a2 a3} (g0 : Canonical a3) : Canonical (applyTail a0 a1 a2 a3).1 := by
  unfold applyTail
  try dsimp only
  exact (ite_fst_canonical (fst_canonical (publishTail_canonical g0)) (fst_canonical (refuseEngine_canonical g0)))

theorem releaseResets_canonical {a0} (g0 : Canonical a0) : Canonical (releaseResets a0) := by
  unfold releaseResets
  try dsimp only
  exact (foldl_canonical (fun _ _ h0 => (killPart_canonical (setObj_canonical h0))) (upd_fab_canonical (fun h => { h.fab with  }) g0))

theorem pinFrame_canonical {a0 a1} (g0 : Canonical a1) : Canonical (pinFrame a0 a1) := by
  unfold pinFrame
  try dsimp only
  exact (setFrame_canonical (fun h => (h.frame _)) g0)

theorem enterHeld_canonical {a0 a1} (g0 : Canonical a1) : Canonical (enterHeld a0 a1) := by
  induction a0 generalizing a1 with
  | zero => exact g0
  | succ n ih =>
    simp only [enterHeld]
    split
    · exact g0
    · exact ih (enterUpdate_canonical (upd_sy_canonical (fun h => { h.sy with }) g0))

theorem setSyncCount_canonical {a0 a1 a2} (g0 : Canonical a2) : Canonical (setSyncCount a0 a1 a2) := by
  unfold setSyncCount
  try dsimp only
  exact (upd_sy_canonical (fun h => { h.sy with counts := by (try dsimp only); exact (h.sy.counts.set _ _) }) g0)

theorem notifyQueues_canonical {a0 a1} (g0 : Canonical a1) : Canonical (notifyQueues a0 a1) := by
  unfold notifyQueues
  try dsimp only
  exact (foldl_canonical (fun _ _ h0 => (by (try dsimp only); first | (split; exact (ite_canonical (setNotices_canonical (setQueue_canonical h0)) h0); exact h0) | (split <;> first | exact (ite_canonical (setNotices_canonical (setQueue_canonical h0)) h0) | exact h0))) g0)

theorem applyUpdate_canonical {a0 a1} (g0 : Canonical a1) : Canonical (applyUpdate a0 a1) := by
  unfold applyUpdate
  try dsimp only
  exact (notifyHosts_canonical (notifyQueues_canonical (perfCount_canonical (setSyncCount_canonical g0))))

theorem applyFrom_canonical {a0 a1 a2} (g0 : Canonical a2) : Canonical (applyFrom a0 a1 a2) := by
  unfold applyFrom
  try dsimp only
  exact (by (try dsimp only); first | (split; exact (enterHeld_canonical (applyUpdate_canonical (setBank_canonical g0))); exact g0) | (split <;> first | exact (enterHeld_canonical (applyUpdate_canonical (setBank_canonical g0))) | exact g0))

theorem endReset_canonical {a0 a1} (g0 : Canonical a1) : Canonical (endReset a0 a1) := by
  unfold endReset
  try dsimp only
  exact (capture_canonical (addObj_canonical (setObj_canonical g0)))

theorem noteCommit_canonical {a0 a1} (g0 : Canonical a1) : Canonical (noteCommit a0 a1) := by
  unfold noteCommit
  try dsimp only
  exact (upd_now_canonical g0)

theorem markJob_canonical {a0 a1 a2} (g0 : Canonical a2) : Canonical (markJob a0 a1 a2) := by
  unfold markJob
  try dsimp only
  exact (withdrawJob_canonical (ite_canonical g0 (updPart_canonical g0)))

theorem wAcctWithdraw_canonical {a0 a1 a2} (g0 : Canonical a2) : Canonical (wAcctWithdraw a0 a1 a2).1 := by
  unfold wAcctWithdraw
  try dsimp only
  exact (ite_fst_canonical (fst_canonical (deferEvent_canonical g0)) (fst_canonical (markJob_canonical g0)))

theorem execAcctWithdraw_canonical {a0 a1 a2 a3} (g0 : Canonical a3) : CanonOut (execAcctWithdraw a0 a1 a2 a3) := by
  unfold execAcctWithdraw
  try dsimp only
  exact (whenFree_canonical g0 (fun _ h0 => (ackWrite_canonical (wAcctWithdraw_canonical h0))))

theorem unmarkJob_canonical {a0 a1 a2} (g0 : Canonical a2) : Canonical (unmarkJob a0 a1 a2) := by
  unfold unmarkJob
  try dsimp only
  exact (updPart_canonical g0)

theorem wAcctRestore_canonical {a0 a1 a2} (g0 : Canonical a2) : Canonical (wAcctRestore a0 a1 a2).1 := by
  unfold wAcctRestore
  try dsimp only
  exact (ite_fst_canonical (fst_canonical (deferEvent_canonical g0)) (fst_canonical (unmarkJob_canonical g0)))

theorem unhaltTiles_canonical {a0 a1} (g0 : Canonical a1) : Canonical (unhaltTiles a0 a1) := by
  unfold unhaltTiles
  try dsimp only
  exact (updPart_canonical (foldl_canonical (fun _ _ h0 => (ite_canonical (setObj_canonical h0) h0)) g0))

theorem chargeWait_canonical {a0 a1 a2} (g0 : Canonical a2) : Canonical (chargeWait a0 a1 a2) := by
  unfold chargeWait
  try dsimp only
  exact (setAcct_canonical g0)

theorem execAcctRestore_canonical {a0 a1 a2 a3} (g0 : Canonical a3) : CanonOut (execAcctRestore a0 a1 a2 a3) := by
  unfold execAcctRestore
  try dsimp only
  exact (whenFree_canonical g0 (fun _ h0 => (ackWrite_canonical (wAcctRestore_canonical h0))))

theorem bumpStep_canonical {a0 a1} (g0 : Canonical a1) : Canonical (bumpStep a0 a1) := by
  unfold bumpStep
  try dsimp only
  exact (ite_canonical (addObj_canonical g0) (addObj_canonical g0))

theorem finishCommand_canonical {a0 a1 a2 a3 a4 a5} (g0 : Canonical a5) : Canonical (finishCommand a0 a1 a2 a3 a4 a5) := by
  unfold finishCommand
  try dsimp only
  exact (requestCommit_canonical (updSlot_canonical (freeUnit_canonical g0)))

theorem chargeExec_canonical {a0 a1 a2} (g0 : Canonical a2) : Canonical (chargeExec a0 a1 a2) := by
  unfold chargeExec
  try dsimp only
  exact (setAcct_canonical g0)

theorem chargeCommit_canonical {a0 a1 a2} (g0 : Canonical a2) : Canonical (chargeCommit a0 a1 a2) := by
  unfold chargeCommit
  try dsimp only
  exact (chargeExec_canonical (upd_now_canonical g0))

theorem orNumfmt_canonical {a0 a1 a2} (g0 : Canonical a2) : Canonical (orNumfmt a0 a1 a2) := by
  unfold orNumfmt
  try dsimp only
  exact (ite_canonical g0 (setObj_canonical (upd_now_canonical g0)))

theorem grantCommit_canonical {a0 a1 a2 a3} (g0 : Canonical a3) : Canonical (grantCommit a0 a1 a2 a3) := by
  unfold grantCommit
  try dsimp only
  exact (updSlot_canonical (chargeCommit_canonical (releasePins_canonical (orNumfmt_canonical (by (try dsimp only); first | (split; exact (unmapRange_canonical (by (try dsimp only); first | (split; exact (commitTag_canonical (foldl_canonical (fun _ _ h0 => (flipPin_canonical h0)) (perfCount_canonical (bumpStep_canonical (noteCommit_canonical (noteLanded_canonical g0)))))); exact (foldl_canonical (fun _ _ h0 => (flipPin_canonical h0)) (perfCount_canonical (bumpStep_canonical (noteCommit_canonical (noteLanded_canonical g0)))))) | (split <;> first | exact (commitTag_canonical (foldl_canonical (fun _ _ h0 => (flipPin_canonical h0)) (perfCount_canonical (bumpStep_canonical (noteCommit_canonical (noteLanded_canonical g0)))))) | exact (foldl_canonical (fun _ _ h0 => (flipPin_canonical h0)) (perfCount_canonical (bumpStep_canonical (noteCommit_canonical (noteLanded_canonical g0)))))))); exact (by (try dsimp only); first | (split; exact (commitTag_canonical (foldl_canonical (fun _ _ h0 => (flipPin_canonical h0)) (perfCount_canonical (bumpStep_canonical (noteCommit_canonical (noteLanded_canonical g0)))))); exact (foldl_canonical (fun _ _ h0 => (flipPin_canonical h0)) (perfCount_canonical (bumpStep_canonical (noteCommit_canonical (noteLanded_canonical g0)))))) | (split <;> first | exact (commitTag_canonical (foldl_canonical (fun _ _ h0 => (flipPin_canonical h0)) (perfCount_canonical (bumpStep_canonical (noteCommit_canonical (noteLanded_canonical g0)))))) | exact (foldl_canonical (fun _ _ h0 => (flipPin_canonical h0)) (perfCount_canonical (bumpStep_canonical (noteCommit_canonical (noteLanded_canonical g0)))))))) | (split <;> first | exact (unmapRange_canonical (by (try dsimp only); first | (split; exact (commitTag_canonical (foldl_canonical (fun _ _ h0 => (flipPin_canonical h0)) (perfCount_canonical (bumpStep_canonical (noteCommit_canonical (noteLanded_canonical g0)))))); exact (foldl_canonical (fun _ _ h0 => (flipPin_canonical h0)) (perfCount_canonical (bumpStep_canonical (noteCommit_canonical (noteLanded_canonical g0)))))) | (split <;> first | exact (commitTag_canonical (foldl_canonical (fun _ _ h0 => (flipPin_canonical h0)) (perfCount_canonical (bumpStep_canonical (noteCommit_canonical (noteLanded_canonical g0)))))) | exact (foldl_canonical (fun _ _ h0 => (flipPin_canonical h0)) (perfCount_canonical (bumpStep_canonical (noteCommit_canonical (noteLanded_canonical g0)))))))) | exact (by (try dsimp only); first | (split; exact (commitTag_canonical (foldl_canonical (fun _ _ h0 => (flipPin_canonical h0)) (perfCount_canonical (bumpStep_canonical (noteCommit_canonical (noteLanded_canonical g0)))))); exact (foldl_canonical (fun _ _ h0 => (flipPin_canonical h0)) (perfCount_canonical (bumpStep_canonical (noteCommit_canonical (noteLanded_canonical g0)))))) | (split <;> first | exact (commitTag_canonical (foldl_canonical (fun _ _ h0 => (flipPin_canonical h0)) (perfCount_canonical (bumpStep_canonical (noteCommit_canonical (noteLanded_canonical g0)))))) | exact (foldl_canonical (fun _ _ h0 => (flipPin_canonical h0)) (perfCount_canonical (bumpStep_canonical (noteCommit_canonical (noteLanded_canonical g0)))))))))))))

theorem jobFault_canonical {a0 a1 a2 a3 a4} (g0 : Canonical a4) : Canonical (jobFault a0 a1 a2 a3 a4) := by
  unfold jobFault
  try dsimp only
  exact (ite_canonical (ite_canonical g0 (startReset_canonical (foldl_canonical (fun _ _ h0 => (haltTile_canonical h0)) g0))) g0)

theorem withdrawDoomed_canonical {a0 a1} (g0 : Canonical a1) : Canonical (withdrawDoomed a0 a1) := by
  unfold withdrawDoomed
  try dsimp only
  exact (foldl_canonical (fun _ _ h0 => (ite_canonical h0 (advanceCommit_canonical (settleHead_canonical (foldl_canonical (fun _ _ h1 => (ite_canonical (withdrawSlot_canonical h1) h1)) h0))))) g0)

theorem clearQueue_canonical {a0 a1 a2} (g0 : Canonical a2) : Canonical (clearQueue a0 a1 a2) := by
  unfold clearQueue
  try dsimp only
  exact (refreshLoad_canonical (setQueue_canonical (ite_canonical (dropNotice_canonical (foldl_canonical (fun _ _ h0 => (updSlot_canonical h0)) (advanceCommit_canonical g0))) (foldl_canonical (fun _ _ h0 => (updSlot_canonical h0)) (advanceCommit_canonical g0)))))

theorem clearQueues_canonical {a0 a1} (g0 : Canonical a1) : Canonical (clearQueues a0 a1) := by
  unfold clearQueues
  try dsimp only
  exact (unhaltTiles_canonical (setObj_canonical (updPart_canonical (upd_now_canonical (foldl_canonical (fun _ _ h0 => (clearQueue_canonical h0)) g0)))))

theorem noteRerun_canonical {a0 a1 a2 a3} (g0 : Canonical a3) : Canonical (noteRerun a0 a1 a2 a3) := by
  unfold noteRerun
  try dsimp only
  exact (ite_canonical (setQueue_canonical g0) g0)

theorem noteHold_canonical {a0 a1} (g0 : Canonical a1) : Canonical (noteHold a0 a1) := by
  unfold noteHold
  try dsimp only
  exact (ite_canonical g0 (upd_now_canonical g0))

theorem wTail_canonical {a0 a1 a2 a3 a4} (g0 : Canonical a4) : Canonical (wTail a0 a1 a2 a3 a4).1 := by
  unfold wTail
  try dsimp only
  exact (ite_fst_canonical (fst_canonical (deferEvent_canonical g0)) (applyTail_canonical g0))

theorem execTailWrite_canonical {a0 a1 a2 a3 a4} (g0 : Canonical a4) : CanonOut (execTailWrite a0 a1 a2 a3 a4) := by
  unfold execTailWrite
  try dsimp only
  exact (whenFree_canonical g0 (fun _ h0 => (ite_canonical (ackWrite_canonical (wTail_canonical h0)) (addObj_canonical h0))))

theorem fillShadow_canonical {a0 a1 a2 a3 a4} (g0 : Canonical a4) : Canonical (fillShadow a0 a1 a2 a3 a4) := by
  unfold fillShadow
  try dsimp only
  exact (by (try dsimp only); first | (split; exact (ite_canonical g0 (copyLines_canonical g0)); exact g0) | (split <;> first | exact (ite_canonical g0 (copyLines_canonical g0)) | exact g0))

theorem refuseCommand_canonical {a0 a1 a2 a3 a4} (g0 : Canonical a4) : Canonical (refuseCommand a0 a1 a2 a3 a4) := by
  unfold refuseCommand
  try dsimp only
  exact (ite_canonical (jobFault_canonical (settleHead_canonical (capture_canonical (setObj_canonical (dropWaiting_canonical (setSlot_canonical g0)))))) (settleHead_canonical (capture_canonical (setObj_canonical (dropWaiting_canonical (setSlot_canonical g0))))))

theorem completeKills_canonical {a0 a1 a2} (g0 : Canonical a2) : Canonical (completeKills a0 a1 a2) := by
  unfold completeKills
  try dsimp only
  exact (by (try dsimp only); first | (split; exact g0; exact (noteRerun_canonical (moveHead_canonical (foldl_canonical (fun _ _ h0 => (completeKill_canonical h0)) g0)))) | (split <;> first | exact g0 | exact (noteRerun_canonical (moveHead_canonical (foldl_canonical (fun _ _ h0 => (completeKill_canonical h0)) g0)))))

theorem execKillComplete_canonical {a0 a1 a2 a3} (g0 : Canonical a3) : CanonOut (execKillComplete a0 a1 a2 a3) := by
  unfold execKillComplete
  try dsimp only
  exact (whenLive_canonical g0 (fun _ h0 => (ite_canonical (advanceCommit_canonical (completeKills_canonical h0)) h0)))

theorem execParityUpdate_canonical {a0 a1 a2 a3 a4} (g0 : Canonical a4) : CanonOut (execParityUpdate a0 a1 a2 a3 a4) := by
  unfold execParityUpdate
  refine whenLive_canonical g0 (fun s h => ?_)
  dsimp only
  split
  · split
    · exact h
    · split
      · rename_i hq
        have h1 := ensureShadow_canonical h _ hq
        refine sentWrite_canonical (writeShadowSlot_canonical (writeLines_canonical (crossLinks_canonical ?_)))
        exact ite_canonical h1 (fillShadow_canonical h1)
      · exact h
  · exact h

theorem deliver_canonical {a0 a1 a2 a3 a4 a5} (g0 : Canonical a5) : Canonical (deliver a0 a1 a2 a3 a4 a5) := by
  unfold deliver
  try dsimp only
  exact (finishCommand_canonical (foldl_canonical (fun _ _ h0 => (by (try dsimp only); first | (split; exact (writeFrame_canonical h0); exact h0) | (split <;> first | exact (writeFrame_canonical h0) | exact h0))) g0))

theorem execGroupedSlidingWindow_canonical {a0 a1 a2 a3} (g0 : Canonical a3) : CanonOut (execGroupedSlidingWindow a0 a1 a2 a3) := by
  unfold execGroupedSlidingWindow
  try dsimp only
  exact (whenLive_canonical g0 (fun _ h0 => (ite_canonical (deliver_canonical h0) h0)))

theorem execSlidingWindow_canonical {a0 a1 a2 a3} (g0 : Canonical a3) : CanonOut (execSlidingWindow a0 a1 a2 a3) := by
  unfold execSlidingWindow
  try dsimp only
  exact (whenLive_canonical g0 (fun _ h0 => (ite_canonical (deliver_canonical h0) h0)))

theorem execMatrixMultiply_canonical {a0 a1 a2 a3} (g0 : Canonical a3) : CanonOut (execMatrixMultiply a0 a1 a2 a3) := by
  unfold execMatrixMultiply
  try dsimp only
  exact (whenLive_canonical g0 (fun _ h0 => (ite_canonical (deliver_canonical h0) h0)))

theorem execElement_canonical {a0 a1 a2 a3 a4 a5} (g0 : Canonical a5) : Canonical (execElement a0 a1 a2 a3 a4 a5) := by
  unfold execElement
  try dsimp only
  exact (ite_canonical (deliver_canonical g0) g0)

theorem execElementConvert_canonical {a0 a1 a2 a3} (g0 : Canonical a3) : CanonOut (execElementConvert a0 a1 a2 a3) := by
  unfold execElementConvert
  try dsimp only
  exact (whenLive_canonical g0 (fun _ h0 => (execElement_canonical h0)))

theorem execPool_canonical {a0 a1 a2 a3 a4 a5} (g0 : Canonical a5) : Canonical (execPool a0 a1 a2 a3 a4 a5) := by
  unfold execPool
  try dsimp only
  exact (ite_canonical (deliver_canonical g0) g0)

theorem execElementScaleAdd_canonical {a0 a1 a2 a3} (g0 : Canonical a3) : CanonOut (execElementScaleAdd a0 a1 a2 a3) := by
  unfold execElementScaleAdd
  try dsimp only
  exact (whenLive_canonical g0 (fun _ h0 => (execElement_canonical h0)))

theorem execReduce_canonical {a0 a1 a2 a3 a4 a5} (g0 : Canonical a5) : Canonical (execReduce a0 a1 a2 a3 a4 a5) := by
  unfold execReduce
  try dsimp only
  exact (ite_canonical (deliver_canonical g0) g0)

theorem execRowSum_canonical {a0 a1 a2 a3} (g0 : Canonical a3) : CanonOut (execRowSum a0 a1 a2 a3) := by
  unfold execRowSum
  try dsimp only
  exact (whenLive_canonical g0 (fun _ h0 => (execReduce_canonical h0)))

theorem execRowMaximum_canonical {a0 a1 a2 a3} (g0 : Canonical a3) : CanonOut (execRowMaximum a0 a1 a2 a3) := by
  unfold execRowMaximum
  try dsimp only
  exact (whenLive_canonical g0 (fun _ h0 => (execReduce_canonical h0)))

theorem execRectifier_canonical {a0 a1 a2 a3} (g0 : Canonical a3) : CanonOut (execRectifier a0 a1 a2 a3) := by
  unfold execRectifier
  try dsimp only
  exact (whenLive_canonical g0 (fun _ h0 => (execElement_canonical h0)))

theorem execElementMin_canonical {a0 a1 a2 a3} (g0 : Canonical a3) : CanonOut (execElementMin a0 a1 a2 a3) := by
  unfold execElementMin
  try dsimp only
  exact (whenLive_canonical g0 (fun _ h0 => (execElement_canonical h0)))

theorem execPerPixelArgmax_canonical {a0 a1 a2 a3} (g0 : Canonical a3) : CanonOut (execPerPixelArgmax a0 a1 a2 a3) := by
  unfold execPerPixelArgmax
  try dsimp only
  exact (whenLive_canonical g0 (fun _ h0 => (ite_canonical (deliver_canonical h0) h0)))

theorem execRowMinimum_canonical {a0 a1 a2 a3} (g0 : Canonical a3) : CanonOut (execRowMinimum a0 a1 a2 a3) := by
  unfold execRowMinimum
  try dsimp only
  exact (whenLive_canonical g0 (fun _ h0 => (execReduce_canonical h0)))

theorem execZeroRunCompression_canonical {a0 a1 a2 a3} (g0 : Canonical a3) : CanonOut (execZeroRunCompression a0 a1 a2 a3) := by
  unfold execZeroRunCompression
  try dsimp only
  exact (whenLive_canonical g0 (fun _ h0 => (ite_canonical (deliver_canonical (ite_canonical (useFree_canonical h0) h0)) h0)))

theorem execResample_canonical {a0 a1 a2 a3 a4} (g0 : Canonical a4) : Canonical (execResample a0 a1 a2 a3 a4) := by
  unfold execResample
  try dsimp only
  exact (ite_canonical (deliver_canonical g0) g0)

theorem execBicubicResampling_canonical {a0 a1 a2 a3} (g0 : Canonical a3) : CanonOut (execBicubicResampling a0 a1 a2 a3) := by
  unfold execBicubicResampling
  try dsimp only
  exact (whenLive_canonical g0 (fun _ h0 => (execResample_canonical h0)))

theorem execZeroRunExpansion_canonical {a0 a1 a2 a3} (g0 : Canonical a3) : CanonOut (execZeroRunExpansion a0 a1 a2 a3) := by
  unfold execZeroRunExpansion
  try dsimp only
  exact (whenLive_canonical g0 (fun _ h0 => (ite_canonical (deliver_canonical h0) h0)))

theorem execPiecewiseLinearTable_canonical {a0 a1 a2 a3} (g0 : Canonical a3) : CanonOut (execPiecewiseLinearTable a0 a1 a2 a3) := by
  unfold execPiecewiseLinearTable
  try dsimp only
  exact (whenLive_canonical g0 (fun _ h0 => (execElement_canonical h0)))

theorem execElementAffine_canonical {a0 a1 a2 a3} (g0 : Canonical a3) : CanonOut (execElementAffine a0 a1 a2 a3) := by
  unfold execElementAffine
  try dsimp only
  exact (whenLive_canonical g0 (fun _ h0 => (execElement_canonical h0)))

theorem execLeakyRectifier_canonical {a0 a1 a2 a3} (g0 : Canonical a3) : CanonOut (execLeakyRectifier a0 a1 a2 a3) := by
  unfold execLeakyRectifier
  try dsimp only
  exact (whenLive_canonical g0 (fun _ h0 => (execElement_canonical h0)))

theorem execRowSumOfSquares_canonical {a0 a1 a2 a3} (g0 : Canonical a3) : CanonOut (execRowSumOfSquares a0 a1 a2 a3) := by
  unfold execRowSumOfSquares
  try dsimp only
  exact (whenLive_canonical g0 (fun _ h0 => (execReduce_canonical h0)))

theorem execElementMax_canonical {a0 a1 a2 a3} (g0 : Canonical a3) : CanonOut (execElementMax a0 a1 a2 a3) := by
  unfold execElementMax
  try dsimp only
  exact (whenLive_canonical g0 (fun _ h0 => (execElement_canonical h0)))

theorem execAveragePoolingInput_canonical {a0 a1 a2 a3} (g0 : Canonical a3) : CanonOut (execAveragePoolingInput a0 a1 a2 a3) := by
  unfold execAveragePoolingInput
  try dsimp only
  exact (whenLive_canonical g0 (fun _ h0 => (execPool_canonical h0)))

theorem execMaxPooling_canonical {a0 a1 a2 a3} (g0 : Canonical a3) : CanonOut (execMaxPooling a0 a1 a2 a3) := by
  unfold execMaxPooling
  try dsimp only
  exact (whenLive_canonical g0 (fun _ h0 => (execPool_canonical h0)))

theorem execElementSubtract_canonical {a0 a1 a2 a3} (g0 : Canonical a3) : CanonOut (execElementSubtract a0 a1 a2 a3) := by
  unfold execElementSubtract
  try dsimp only
  exact (whenLive_canonical g0 (fun _ h0 => (execElement_canonical h0)))

theorem execAveragePoolingWindow_canonical {a0 a1 a2 a3} (g0 : Canonical a3) : CanonOut (execAveragePoolingWindow a0 a1 a2 a3) := by
  unfold execAveragePoolingWindow
  try dsimp only
  exact (whenLive_canonical g0 (fun _ h0 => (execPool_canonical h0)))

theorem execShuffle_canonical {a0 a1 a2 a3 a4} (g0 : Canonical a4) : Canonical (execShuffle a0 a1 a2 a3 a4) := by
  unfold execShuffle
  try dsimp only
  exact (ite_canonical (deliver_canonical g0) g0)

theorem execPixelUnshuffle_canonical {a0 a1 a2 a3} (g0 : Canonical a3) : CanonOut (execPixelUnshuffle a0 a1 a2 a3) := by
  unfold execPixelUnshuffle
  try dsimp only
  exact (whenLive_canonical g0 (fun _ h0 => (execShuffle_canonical h0)))

theorem execElementMultiply_canonical {a0 a1 a2 a3} (g0 : Canonical a3) : CanonOut (execElementMultiply a0 a1 a2 a3) := by
  unfold execElementMultiply
  try dsimp only
  exact (whenLive_canonical g0 (fun _ h0 => (execElement_canonical h0)))

theorem execElementClamp_canonical {a0 a1 a2 a3} (g0 : Canonical a3) : CanonOut (execElementClamp a0 a1 a2 a3) := by
  unfold execElementClamp
  try dsimp only
  exact (whenLive_canonical g0 (fun _ h0 => (execElement_canonical h0)))

theorem execBilinearResampling_canonical {a0 a1 a2 a3} (g0 : Canonical a3) : CanonOut (execBilinearResampling a0 a1 a2 a3) := by
  unfold execBilinearResampling
  try dsimp only
  exact (whenLive_canonical g0 (fun _ h0 => (execResample_canonical h0)))

theorem execElementAdd_canonical {a0 a1 a2 a3} (g0 : Canonical a3) : CanonOut (execElementAdd a0 a1 a2 a3) := by
  unfold execElementAdd
  try dsimp only
  exact (whenLive_canonical g0 (fun _ h0 => (execElement_canonical h0)))

theorem execPixelShuffle_canonical {a0 a1 a2 a3} (g0 : Canonical a3) : CanonOut (execPixelShuffle a0 a1 a2 a3) := by
  unfold execPixelShuffle
  try dsimp only
  exact (whenLive_canonical g0 (fun _ h0 => (execShuffle_canonical h0)))

theorem execTransform_canonical {a0 a1 a2 a3 a4} (g0 : Canonical a4) : Canonical (execTransform a0 a1 a2 a3 a4) := by
  unfold execTransform
  try dsimp only
  exact (ite_canonical (deliver_canonical g0) g0)

theorem execConvolution2dTransform_canonical {a0 a1 a2 a3} (g0 : Canonical a3) : CanonOut (execConvolution2dTransform a0 a1 a2 a3) := by
  unfold execConvolution2dTransform
  try dsimp only
  exact (whenLive_canonical g0 (fun _ h0 => (execTransform_canonical h0)))

theorem execMulticastCopy_canonical {a0 a1 a2 a3} (g0 : Canonical a3) : CanonOut (execMulticastCopy a0 a1 a2 a3) := by
  unfold execMulticastCopy
  try dsimp only
  exact (whenLive_canonical g0 (fun _ h0 => (ite_canonical (deliver_canonical h0) h0)))

theorem execConvolutionAlongColumns_canonical {a0 a1 a2 a3} (g0 : Canonical a3) : CanonOut (execConvolutionAlongColumns a0 a1 a2 a3) := by
  unfold execConvolutionAlongColumns
  try dsimp only
  exact (whenLive_canonical g0 (fun _ h0 => (execTransform_canonical h0)))

theorem execCisternStore_canonical {a0 a1 a2 a3} (g0 : Canonical a3) : CanonOut (execCisternStore a0 a1 a2 a3) := by
  unfold execCisternStore
  try dsimp only
  exact (whenLive_canonical g0 (fun _ h0 => (ite_canonical (deliver_canonical h0) h0)))

theorem execCisternLoad_canonical {a0 a1 a2 a3} (g0 : Canonical a3) : CanonOut (execCisternLoad a0 a1 a2 a3) := by
  unfold execCisternLoad
  try dsimp only
  exact (whenLive_canonical g0 (fun _ h0 => (ite_canonical (deliver_canonical h0) h0)))

theorem execConvolutionAlongLines_canonical {a0 a1 a2 a3} (g0 : Canonical a3) : CanonOut (execConvolutionAlongLines a0 a1 a2 a3) := by
  unfold execConvolutionAlongLines
  try dsimp only
  exact (whenLive_canonical g0 (fun _ h0 => (execTransform_canonical h0)))

theorem execRegionCopy_canonical {a0 a1 a2 a3} (g0 : Canonical a3) : CanonOut (execRegionCopy a0 a1 a2 a3) := by
  unfold execRegionCopy
  try dsimp only
  exact (whenLive_canonical g0 (fun _ h0 => (ite_canonical (deliver_canonical h0) h0)))

theorem execStem_canonical {a0 a1 a2 a3} (g0 : Canonical a3) : CanonOut (execStem a0 a1 a2 a3) := by
  unfold execStem
  try dsimp only
  exact (whenLive_canonical g0 (fun _ h0 => (ite_canonical (deliver_canonical h0) h0)))

theorem pictureOut_canonical {a0 a1 a2 a3 a4 a5 a6 a7} (g0 : Canonical a7) : Canonical (pictureOut a0 a1 a2 a3 a4 a5 a6 a7) := by
  unfold pictureOut
  try dsimp only
  exact (deliver_canonical g0)

theorem execHead_canonical {a0 a1 a2 a3} (g0 : Canonical a3) : CanonOut (execHead a0 a1 a2 a3) := by
  unfold execHead
  try dsimp only
  exact (whenLive_canonical g0 (fun _ h0 => (ite_canonical (pictureOut_canonical h0) h0)))

theorem execScaleAndSharpen_canonical {a0 a1 a2 a3} (g0 : Canonical a3) : CanonOut (execScaleAndSharpen a0 a1 a2 a3) := by
  unfold execScaleAndSharpen
  try dsimp only
  exact (whenLive_canonical g0 (fun _ h0 => (ite_canonical (pictureOut_canonical (ite_canonical (useFree_canonical h0) h0)) h0)))

theorem execGather_canonical {a0 a1 a2 a3} (g0 : Canonical a3) : CanonOut (execGather a0 a1 a2 a3) := by
  unfold execGather
  try dsimp only
  exact (whenLive_canonical g0 (fun _ h0 => (ite_canonical (ite_canonical (deliver_canonical h0) (deliver_canonical (ite_canonical (useFree_canonical h0) h0))) h0)))

theorem execAdvance_canonical {a0 a1 a2 a3} (g0 : Canonical a3) : CanonOut (execAdvance a0 a1 a2 a3) := by
  unfold execAdvance
  try dsimp only
  exact (whenLive_canonical g0 (fun _ h0 => (ite_canonical (deliver_canonical h0) h0)))

theorem execRelease_canonical {a0 a1 a2 a3} (g0 : Canonical a3) : CanonOut (execRelease a0 a1 a2 a3) := by
  unfold execRelease
  try dsimp only
  exact (whenLive_canonical g0 (fun _ h0 => (ite_canonical (deliver_canonical h0) h0)))

theorem execCopyA_canonical {a0 a1 a2 a3} (g0 : Canonical a3) : CanonOut (execCopyA a0 a1 a2 a3) := by
  unfold execCopyA
  try dsimp only
  exact (whenLive_canonical g0 (fun _ h0 => (ite_canonical (deliver_canonical h0) h0)))

theorem execEstimate_canonical {a0 a1 a2 a3} (g0 : Canonical a3) : CanonOut (execEstimate a0 a1 a2 a3) := by
  unfold execEstimate
  try dsimp only
  exact (whenLive_canonical g0 (fun _ h0 => (ite_canonical (deliver_canonical (updSlot_canonical h0)) h0)))

theorem execMatchCorners_canonical {a0 a1 a2 a3} (g0 : Canonical a3) : CanonOut (execMatchCorners a0 a1 a2 a3) := by
  unfold execMatchCorners
  try dsimp only
  exact (whenLive_canonical g0 (fun _ h0 => (ite_canonical (deliver_canonical (useFree_canonical h0)) h0)))

theorem execPyramidBuild_canonical {a0 a1 a2 a3} (g0 : Canonical a3) : CanonOut (execPyramidBuild a0 a1 a2 a3) := by
  unfold execPyramidBuild
  try dsimp only
  exact (whenLive_canonical g0 (fun _ h0 => (ite_canonical (deliver_canonical h0) h0)))

theorem execCorners_canonical {a0 a1 a2 a3} (g0 : Canonical a3) : CanonOut (execCorners a0 a1 a2 a3) := by
  unfold execCorners
  try dsimp only
  exact (whenLive_canonical g0 (fun _ h0 => (ite_canonical (deliver_canonical h0) h0)))

theorem execWarpAndBlend_canonical {a0 a1 a2 a3} (g0 : Canonical a3) : CanonOut (execWarpAndBlend a0 a1 a2 a3) := by
  unfold execWarpAndBlend
  try dsimp only
  exact (whenLive_canonical g0 (fun _ h0 => (ite_canonical (deliver_canonical h0) h0)))

theorem takeShadows_canonical {a0 a1 a2 a3 a4} (g0 : Canonical a4) : Canonical (takeShadows a0 a1 a2 a3 a4) := by
  unfold takeShadows
  try dsimp only
  exact (foldl_canonical (fun _ _ h0 => (by (try dsimp only); split; rename_i hq2; exact ((allocShadow_canonical h0) _ hq2); exact h0)) g0)

theorem takeTag_canonical {a0 a1 a2 a3 a4} (g0 : Canonical a4) : Canonical (takeTag a0 a1 a2 a3 a4) := by
  unfold takeTag
  try dsimp only
  exact (by (try dsimp only); first | (split; exact (updSlot_canonical (setTag_canonical g0)); exact g0) | (split <;> first | exact (updSlot_canonical (setTag_canonical g0)) | exact g0))

theorem takePins_canonical {a0 a1 a2 a3 a4} (g0 : Canonical a4) : Canonical (takePins a0 a1 a2 a3 a4) := by
  unfold takePins
  try dsimp only
  exact (foldl_canonical (fun _ _ h0 => (by (try dsimp only); first | (split; exact (updSlot_canonical (pinFrame_canonical h0)); exact h0) | (split <;> first | exact (updSlot_canonical (pinFrame_canonical h0)) | exact h0))) g0)

theorem startCommand_canonical {a0 a1 a2 a3} (g0 : Canonical a3) : Canonical (startCommand a0 a1 a2 a3) := by
  have h1 : ∀ {x pl}, Canonical (takeTag a0 a1 a2 pl (takeShadows a0 a1 a2 pl (takePins a0 a1 a2 pl (setSlot a0 a1 a2 x a3)))) :=
    takeTag_canonical (takeShadows_canonical (takePins_canonical (setSlot_canonical g0)))
  have h2 : ∀ {s point v w}, Canonical s → Canonical { s with tl := { s.tl with turns := mapSet 0 s.tl.turns point v }, now := { s.now with won := w } } :=
    fun h => { h with tl := { h.tl with turns := h.tl.turns.set _ _ } }
  unfold startCommand
  refine moveHead_canonical (ite_canonical (perturb_canonical (h2 ?_)) (h2 ?_)) <;>
    (split <;> [exact setUnit_canonical h1; exact h1])

theorem execFence_canonical {a0 a1 a2 a3} (g0 : Canonical a3) : CanonOut (execFence a0 a1 a2 a3) := by
  unfold execFence
  try dsimp only
  exact (whenLive_canonical g0 (fun _ h0 => (ite_canonical (finishCommand_canonical h0) h0)))

theorem preempt_canonical {a0 a1 a2 a3} (g0 : Canonical a3) : Canonical (preempt a0 a1 a2 a3) := by
  unfold preempt
  try dsimp only
  exact (by (try dsimp only); first | (split; exact g0; exact (startKill_canonical g0)) | (split <;> first | exact g0 | exact (startKill_canonical g0)))

theorem execDispatch_canonical {a0 a1 a2} (g0 : Canonical a2) : CanonOut (execDispatch a0 a1 a2) := by
  unfold execDispatch
  try dsimp only
  exact (whenLive_canonical g0 (fun _ h0 => (by (try dsimp only); first | (split; exact h0; exact (by (try dsimp only); first | (split; exact (refuseCommand_canonical h0); exact (by (try dsimp only); first | (split; exact h0; exact (ite_canonical (ite_canonical (startCommand_canonical h0) (preempt_canonical h0)) h0)) | (split <;> first | exact h0 | exact (ite_canonical (ite_canonical (startCommand_canonical h0) (preempt_canonical h0)) h0)))) | (split <;> first | exact (refuseCommand_canonical h0) | exact (by (try dsimp only); first | (split; exact h0; exact (ite_canonical (ite_canonical (startCommand_canonical h0) (preempt_canonical h0)) h0)) | (split <;> first | exact h0 | exact (ite_canonical (ite_canonical (startCommand_canonical h0) (preempt_canonical h0)) h0)))))) | (split <;> first | exact h0 | exact (by (try dsimp only); first | (split; exact (refuseCommand_canonical h0); exact (by (try dsimp only); first | (split; exact h0; exact (ite_canonical (ite_canonical (startCommand_canonical h0) (preempt_canonical h0)) h0)) | (split <;> first | exact h0 | exact (ite_canonical (ite_canonical (startCommand_canonical h0) (preempt_canonical h0)) h0)))) | (split <;> first | exact (refuseCommand_canonical h0) | exact (by (try dsimp only); first | (split; exact h0; exact (ite_canonical (ite_canonical (startCommand_canonical h0) (preempt_canonical h0)) h0)) | (split <;> first | exact h0 | exact (ite_canonical (ite_canonical (startCommand_canonical h0) (preempt_canonical h0)) h0)))))))))

theorem setSyncStatus_canonical {a0 a1 a2} (g0 : Canonical a2) : Canonical (setSyncStatus a0 a1 a2) := by
  unfold setSyncStatus
  try dsimp only
  exact (setObj_canonical g0)

theorem fillSome_canonical {a0 a1 a2} (g0 : Canonical a2) : Canonical (fillSome a0 a1 a2) := by
  have h0 : ∀ {f s}, Canonical s → Canonical (fillSome 0 f s) := by
    intro f s h
    unfold fillSome
    exact setSyncStatus_canonical (upd_sy_canonical (fun h => { h.sy with }) h)
  induction a0 generalizing a1 a2 with
  | zero => exact h0 g0
  | succ n ih =>
    unfold fillSome
    split
    · exact h0 g0
    · exact ih (sendUpdate_canonical g0)

theorem softUpdate_canonical {a0 a1 a2 a3 a4} (g0 : Canonical a4) : Canonical (softUpdate a0 a1 a2 a3 a4) := by
  unfold softUpdate
  try dsimp only
  exact (by (try dsimp only); first | (split; exact (ite_canonical (deferEvent_canonical g0) (sendUpdate_canonical g0)); exact (sendUpdate_canonical g0)) | (split <;> first | exact (ite_canonical (deferEvent_canonical g0) (sendUpdate_canonical g0)) | exact (sendUpdate_canonical g0)))

theorem answerCount_canonical {a0 a1 a2 a3} (g0 : Canonical a3) : Canonical (answerCount a0 a1 a2 a3) := by
  unfold answerCount
  try dsimp only
  exact (ite_canonical (emit_canonical g0) (answer_canonical g0))

theorem readCount_canonical {a0 a1 a2 a3} (g0 : Canonical a3) : Canonical (readCount a0 a1 a2 a3) := by
  unfold readCount
  try dsimp only
  exact (ite_canonical (setParked_canonical g0) (answerCount_canonical g0))

theorem apertureAccess_canonical {a0 a1 a2 a3 a4} (g0 : Canonical a4) : Canonical (apertureAccess a0 a1 a2 a3 a4) := by
  unfold apertureAccess
  try dsimp only
  exact (by (try dsimp only); first | (split; exact (ite_canonical (readCount_canonical g0) (answer_canonical g0)); exact (ite_canonical (softUpdate_canonical g0) (ite_canonical (softUpdate_canonical (softUpdate_canonical g0)) g0))) | (split <;> first | exact (ite_canonical (readCount_canonical g0) (answer_canonical g0)) | exact (ite_canonical (softUpdate_canonical g0) (ite_canonical (softUpdate_canonical (softUpdate_canonical g0)) g0))))

theorem execApertureAdd_canonical {a0 a1 a2 a3} (g0 : Canonical a3) : CanonOut (execApertureAdd a0 a1 a2 a3) := by
  unfold execApertureAdd
  try dsimp only
  exact (whenFree_canonical g0 (fun _ h0 => (apertureAccess_canonical h0)))

theorem syncNext_canonical {a0} (g0 : Canonical a0) : Canonical (syncNext a0) := by
  unfold syncNext
  try dsimp only
  exact (setObj_canonical g0)

theorem readSyncData_canonical {a0 a1 a2} (g0 : Canonical a2) : Canonical (readSyncData a0 a1 a2) := by
  unfold readSyncData
  try dsimp only
  exact (readCount_canonical (ite_canonical g0 (syncNext_canonical g0)))

theorem writeLow_canonical {a0 a1 a2 a3} (g0 : Canonical a3) : Canonical (writeLow a0 a1 a2 a3).1 := by
  unfold writeLow
  try dsimp only
  exact (setLatches_canonical g0)

theorem readHigh_canonical {a0 a1 a2 a3} (g0 : Canonical a3) : Canonical (readHigh a0 a1 a2 a3) := by
  unfold readHigh
  try dsimp only
  exact (by (try dsimp only); first | (split; exact (answer_canonical g0); exact (answer_canonical g0)) | (split <;> first | exact (answer_canonical g0)))

theorem wHostWatch_canonical {a0 a1 a2 a3} (g0 : Canonical a3) : Canonical (wHostWatch a0 a1 a2 a3).1 := by
  unfold wHostWatch
  try dsimp only
  exact (ite_fst_canonical (fst_canonical (sendProbe_canonical (upd_sy_canonical (fun h => { h.sy with hostArmed := by (try dsimp only); exact (h.sy.hostArmed.put _ _) }) (setObj_canonical g0)))) (fst_canonical (upd_sy_canonical (fun h => { h.sy with hostArmed := by (try dsimp only); exact (h.sy.hostArmed.erase _) }) (setObj_canonical g0))))

theorem execHostWatchDisarm_canonical {a0 a1 a2 a3} (g0 : Canonical a3) : CanonOut (execHostWatchDisarm a0 a1 a2 a3) := by
  unfold execHostWatchDisarm
  try dsimp only
  exact (whenFree_canonical g0 (fun _ h0 => (ackWrite_canonical (wHostWatch_canonical h0))))

theorem writeHigh_canonical {a0 a1 a2 a3 a4} (g0 : ∀ y0 y1, Canonical y1 → Canonical (a3 y0 y1).1) (g1 : Canonical a4) : Canonical (writeHigh a0 a1 a2 a3 a4).1 := by
  unfold writeHigh
  try dsimp only
  exact (by (try dsimp only); first | (split; exact (ite_fst_canonical (g0 _ _ (setLatches_canonical g1)) (fst_canonical (refuse_canonical g1))); exact (fst_canonical (refuse_canonical g1))) | (split <;> first | exact (ite_fst_canonical (g0 _ _ (setLatches_canonical g1)) (fst_canonical (refuse_canonical g1))) | exact (fst_canonical (refuse_canonical g1))))

theorem unmaskVector_canonical {a0 a1 a2} (g0 : Canonical a2) : Canonical (unmaskVector a0 a1 a2) := by
  unfold unmaskVector
  try dsimp only
  exact (ite_canonical (emit_canonical (notePosted_canonical (setPcie_canonical g0))) (setPcie_canonical g0))

theorem execMsixVectorUnmask_canonical {a0 a1 a2} (g0 : Canonical a2) : CanonOut (execMsixVectorUnmask a0 a1 a2) := by
  unfold execMsixVectorUnmask
  try dsimp only
  exact (whenLive_canonical g0 (fun _ h0 => (unmaskVector_canonical h0)))

theorem onObject_canonical {a0 a1 a2} (g0 : ∀ y0, Canonical y0 → Canonical (a1 y0)) (g1 : Canonical a2) : Canonical (onObject a0 a1 a2) := by
  unfold onObject
  try dsimp only
  exact (ite_canonical (g0 _ g1) (addObj_canonical g1))

theorem wCmdData_canonical {a0 a1 a2 a3} (g0 : Canonical a3) : Canonical (wCmdData a0 a1 a2 a3).1 := by
  unfold wCmdData
  try dsimp only
  exact (ite_fst_canonical (fst_canonical g0) (ite_fst_canonical (fst_canonical (refuseEngine_canonical g0)) (fst_canonical (setObj_canonical (updSlot_canonical g0)))))

theorem execCmdDataWrite_canonical {a0 a1 a2 a3} (g0 : Canonical a3) : CanonOut (execCmdDataWrite a0 a1 a2 a3) := by
  unfold execCmdDataWrite
  try dsimp only
  exact (whenFree_canonical g0 (fun _ h0 => (onObject_canonical (fun _ h1 => (ackWrite_canonical (wCmdData_canonical h1))) h0)))

theorem wSync_canonical {a0 a1 a2 a3 a4} (g0 : Canonical a4) : Canonical (wSync a0 a1 a2 a3 a4).1 := by
  unfold wSync
  try dsimp only
  exact (ite_fst_canonical (fst_canonical (refuse_canonical g0)) (fst_canonical (syncNext_canonical (softUpdate_canonical g0))))

theorem execSyncDataWrite_canonical {a0 a1 a2} (g0 : Canonical a2) : CanonOut (execSyncDataWrite a0 a1 a2) := by
  unfold execSyncDataWrite
  try dsimp only
  exact (whenFree_canonical g0 (fun _ h0 => (ackWrite_canonical (wSync_canonical h0))))

theorem execApertureSet_canonical {a0 a1 a2 a3} (g0 : Canonical a3) : CanonOut (execApertureSet a0 a1 a2 a3) := by
  unfold execApertureSet
  try dsimp only
  exact (whenFree_canonical g0 (fun _ h0 => (apertureAccess_canonical h0)))

theorem wCmdCursor_canonical {a0 a1 a2 a3} (g0 : Canonical a3) : Canonical (wCmdCursor a0 a1 a2 a3).1 := by
  unfold wCmdCursor
  try dsimp only
  exact (ite_fst_canonical (fst_canonical (refuseEngine_canonical g0)) (fst_canonical (setObj_canonical g0)))

theorem maskVector_canonical {a0 a1 a2} (g0 : Canonical a2) : Canonical (maskVector a0 a1 a2) := by
  unfold maskVector
  try dsimp only
  exact (setPcie_canonical g0)

theorem execSyncAdd_canonical {a0 a1 a2} (g0 : Canonical a2) : CanonOut (execSyncAdd a0 a1 a2) := by
  unfold execSyncAdd
  try dsimp only
  exact (whenFree_canonical g0 (fun _ h0 => (ackWrite_canonical (wSync_canonical h0))))

theorem readCmdData_canonical {a0 a1} (g0 : Canonical a1) : Canonical (readCmdData a0 a1).2 := by
  unfold readCmdData
  try dsimp only
  exact (setObj_canonical g0)

theorem onRead_canonical {a0 a1 a2 a3} (g0 : ∀ y0, Canonical y0 → Canonical (a2 y0).2) (g1 : Canonical a3) : Canonical (onRead a0 a1 a2 a3) := by
  unfold onRead
  try dsimp only
  exact (ite_canonical (answer_canonical (g0 _ g1)) (absentRead_canonical g1))

theorem execCmdDataRead_canonical {a0 a1 a2} (g0 : Canonical a2) : CanonOut (execCmdDataRead a0 a1 a2) := by
  unfold execCmdDataRead
  try dsimp only
  exact (whenFree_canonical g0 (fun _ h0 => (onRead_canonical (fun _ h1 => (readCmdData_canonical h1)) h0)))

theorem wBankOwner_canonical {a0 a1 a2 a3} (g0 : Canonical a3) : Canonical (wBankOwner a0 a1 a2 a3).1 := by
  unfold wBankOwner
  try dsimp only
  exact (ite_fst_canonical (fst_canonical (refuse_canonical g0)) (fst_canonical (setObj_canonical g0)))

theorem wBankValid_canonical {a0 a1 a2 a3} (g0 : Canonical a3) : Canonical (wBankValid a0 a1 a2 a3).1 := by
  unfold wBankValid
  try dsimp only
  exact (ite_fst_canonical (fst_canonical (refuse_canonical g0)) (fst_canonical (setObj_canonical g0)))

theorem execBankOwnerWrite_canonical {a0 a1 a2 a3 a4 a5} (g0 : Canonical a5) : CanonOut (execBankOwnerWrite a0 a1 a2 a3 a4 a5) := by
  unfold execBankOwnerWrite
  try dsimp only
  exact (whenFree_canonical g0 (fun _ h0 => (ite_canonical (ackWrite_canonical (wBankValid_canonical h0)) (ite_canonical (ackWrite_canonical (writeHigh_canonical (fun _ _ h1 => (wBankOwner_canonical h1)) h0)) (ackWrite_canonical (writeLow_canonical h0))))))

theorem wSyncFill_canonical {a0 a1 a2} (g0 : Canonical a2) : Canonical (wSyncFill a0 a1 a2).1 := by
  unfold wSyncFill
  try dsimp only
  exact (ite_fst_canonical (fst_canonical (refuse_canonical g0)) (ite_fst_canonical (fst_canonical (refuse_canonical g0)) (ite_fst_canonical (fst_canonical (refuse_canonical g0)) (fst_canonical (setSyncStatus_canonical (upd_sy_canonical (fun h => { h.sy with  }) g0))))))

theorem execSyncFill_canonical {a0 a1} (g0 : Canonical a1) : CanonOut (execSyncFill a0 a1) := by
  unfold execSyncFill
  try dsimp only
  exact (whenFree_canonical g0 (fun _ h0 => (ackWrite_canonical (wSyncFill_canonical h0))))

theorem execHostWatchArm_canonical {a0 a1 a2 a3} (g0 : Canonical a3) : CanonOut (execHostWatchArm a0 a1 a2 a3) := by
  unfold execHostWatchArm
  try dsimp only
  exact (whenFree_canonical g0 (fun _ h0 => (ackWrite_canonical (wHostWatch_canonical h0))))

theorem readPeek_canonical {a0 a1} (g0 : Canonical a1) : Canonical (readPeek a0 a1).2 := by
  unfold readPeek
  try dsimp only
  exact (by (try dsimp only); first | (split; exact (snd_canonical (setObj_canonical g0)); exact (snd_canonical g0)) | (split <;> first | exact (snd_canonical (setObj_canonical g0)) | exact (snd_canonical g0)))

theorem execPeekDataRead_canonical {a0 a1 a2} (g0 : Canonical a2) : CanonOut (execPeekDataRead a0 a1 a2) := by
  unfold execPeekDataRead
  try dsimp only
  exact (whenFree_canonical g0 (fun _ h0 => (answer_canonical (readPeek_canonical h0))))

theorem wSyncPlain_canonical {a0 a1 a2 a3} (g0 : Canonical a3) : Canonical (wSyncPlain a0 a1 a2 a3).1 := by
  unfold wSyncPlain
  try dsimp only
  exact (ite_fst_canonical (fst_canonical (refuse_canonical g0)) (fst_canonical (setObj_canonical g0)))

theorem execSyncDataRead_canonical {a0 a1} (g0 : Canonical a1) : CanonOut (execSyncDataRead a0 a1) := by
  unfold execSyncDataRead
  try dsimp only
  exact (whenFree_canonical g0 (fun _ h0 => (readSyncData_canonical h0)))

theorem execSyncFillComplete_canonical {a0} (g0 : Canonical a0) : CanonOut (execSyncFillComplete a0) := by
  unfold execSyncFillComplete
  try dsimp only
  exact (whenLive_canonical g0 (fun _ h0 => (by (try dsimp only); first | (split; exact h0; exact (ite_canonical (setSyncStatus_canonical (setObj_canonical (upd_sy_canonical (fun h => { h.sy with  }) h0))) h0)) | (split <;> first | exact h0 | exact (ite_canonical (setSyncStatus_canonical (setObj_canonical (upd_sy_canonical (fun h => { h.sy with  }) h0))) h0)))))

theorem readLow_canonical {a0 a1 a2 a3} (g0 : Canonical a3) : Canonical (readLow a0 a1 a2 a3) := by
  unfold readLow
  try dsimp only
  exact (emit_canonical (setLatches_canonical g0))

theorem writeMsixWord_canonical {a0 a1 a2 a3} (g0 : Canonical a3) : Canonical (writeMsixWord a0 a1 a2 a3) := by
  unfold writeMsixWord
  try dsimp only
  exact (ite_canonical (upd_io_canonical (fun h => { h.io with msixTable := by (try dsimp only); exact (h.io.msixTable.set _ _) }) g0) (ite_canonical (maskVector_canonical (upd_io_canonical (fun h => { h.io with msixTable := by (try dsimp only); exact (h.io.msixTable.set _ _) }) g0)) (unmaskVector_canonical (upd_io_canonical (fun h => { h.io with msixTable := by (try dsimp only); exact (h.io.msixTable.set _ _) }) g0))))

theorem wBinding_canonical {a0 a1 a2 a3 a4} (g0 : Canonical a4) : Canonical (wBinding a0 a1 a2 a3 a4).1 := by
  unfold wBinding
  try dsimp only
  exact (ite_fst_canonical (fst_canonical (setObj_canonical (setQueue_canonical g0))) (fst_canonical (refuseEngine_canonical g0)))

theorem execQueueBindingWrite_canonical {a0 a1 a2 a3 a4} (g0 : Canonical a4) : CanonOut (execQueueBindingWrite a0 a1 a2 a3 a4) := by
  unfold execQueueBindingWrite
  try dsimp only
  exact (whenFree_canonical g0 (fun _ h0 => (ite_canonical (onObject_canonical (fun _ h1 => (ackWrite_canonical (wBinding_canonical h1))) h0) (addObj_canonical h0))))

theorem perfClearAll_canonical {a0} (g0 : Canonical a0) : Canonical (perfClearAll a0) := by
  unfold perfClearAll
  try dsimp only
  exact (foldl_canonical (fun _ _ h0 => (perfLoad_canonical h0)) g0)

theorem perfSampleAll_canonical {a0} (g0 : Canonical a0) : Canonical (perfSampleAll a0) := by
  unfold perfSampleAll
  try dsimp only
  exact (setObj_canonical (foldl_canonical (fun _ _ h0 => (setObj_canonical h0)) g0))

theorem wPerfCommand_canonical {a0 a1 a2} (g0 : Canonical a2) : Canonical (wPerfCommand a0 a1 a2).1 := by
  unfold wPerfCommand
  try dsimp only
  exact (ite_fst_canonical (fst_canonical (perfSampleAll_canonical g0)) (ite_fst_canonical (fst_canonical (perfClearAll_canonical g0)) (fst_canonical (refuse_canonical g0))))

theorem execPerfClear_canonical {a0 a1} (g0 : Canonical a1) : CanonOut (execPerfClear a0 a1) := by
  unfold execPerfClear
  try dsimp only
  exact (whenFree_canonical g0 (fun _ h0 => (ackWrite_canonical (wPerfCommand_canonical h0))))

theorem clearMarks_tidy {f : Nat → Bool} {x : SMap (List Word)} (h : Tidy blankSlot x) : Tidy blankSlot (clearMarks f x) := by
  refine ⟨List.Pairwise.filter _ (List.pairwise_map.2 h.1), fun e he => ?_⟩
  simpa using (List.mem_filter.1 he).2

theorem clearCirculatingAction_canonical {a0} (g0 : Canonical a0) : Canonical (clearCirculatingAction a0) := by
  unfold clearCirculatingAction
  exact (setObj_canonical (upd_alm_canonical (fun h => by dsimp only; exact clearMarks_tidy h.alm) g0))

theorem almanacDone_canonical {a0 a1} (g0 : Canonical a1) : Canonical (almanacDone a0 a1) := by
  unfold almanacDone
  try dsimp only
  exact (capture_canonical g0)

theorem clearPermanentAction_canonical {a0 a1} (g0 : Canonical a1) : Canonical (clearPermanentAction a0 a1) := by
  unfold clearPermanentAction
  exact (setObj_canonical (upd_alm_canonical (fun h => by dsimp only; exact clearMarks_tidy h.alm) g0))

theorem wAlmanacCommand_canonical {a0 a1 a2} (g0 : Canonical a2) : Canonical (wAlmanacCommand a0 a1 a2).1 := by
  unfold wAlmanacCommand
  try dsimp only
  exact (ite_fst_canonical (fst_canonical (almanacDone_canonical (upd_alm_canonical (fun h => h.alm) g0))) (ite_fst_canonical (fst_canonical (almanacDone_canonical (upd_alm_canonical (fun h => h.alm) g0))) (ite_fst_canonical (fst_canonical (almanacDone_canonical (clearCirculatingAction_canonical g0))) (ite_fst_canonical (by (try dsimp only); first | (split; exact (fst_canonical (almanacDone_canonical (clearPermanentAction_canonical g0))); exact (fst_canonical (refuse_canonical g0))) | (split <;> first | exact (fst_canonical (almanacDone_canonical (clearPermanentAction_canonical g0))) | exact (fst_canonical (refuse_canonical g0)))) (fst_canonical (refuse_canonical g0))))))

theorem execClearCirculating_canonical {a0 a1} (g0 : Canonical a1) : CanonOut (execClearCirculating a0 a1) := by
  unfold execClearCirculating
  try dsimp only
  exact (whenFree_canonical g0 (fun _ h0 => (ackWrite_canonical (wAlmanacCommand_canonical h0))))

theorem wPerfEvent_canonical {a0 a1 a2 a3} (g0 : Canonical a3) : Canonical (wPerfEvent a0 a1 a2 a3).1 := by
  unfold wPerfEvent
  try dsimp only
  exact (ite_fst_canonical (fst_canonical (setObj_canonical (setObj_canonical (upd_now_canonical g0)))) (fst_canonical (refuse_canonical g0)))

theorem execPerfEventWrite_canonical {a0 a1 a2 a3} (g0 : Canonical a3) : CanonOut (execPerfEventWrite a0 a1 a2 a3) := by
  unfold execPerfEventWrite
  try dsimp only
  exact (whenFree_canonical g0 (fun _ h0 => (ackWrite_canonical (wPerfEvent_canonical h0))))

theorem flashErase_canonical {a0 a1 a2} (g0 : Canonical a2) : Canonical (flashErase a0 a1 a2) := by
  unfold flashErase
  try dsimp only
  exact (upd_flash_canonical (fun h => (h.flash.filter _)) g0)

theorem execMirrorRegionEraseComplete_canonical {a0 a1} (g0 : Canonical a1) : CanonOut (execMirrorRegionEraseComplete a0 a1) := by
  unfold execMirrorRegionEraseComplete
  try dsimp only
  exact (whenLive_canonical g0 (fun _ h0 => (ite_canonical (upd_alm_canonical (fun h => h.alm) (flashErase_canonical h0)) h0)))

theorem putSlot_canonical {a0 a1 a2} (g0 : Canonical a2) : Canonical (putSlot a0 a1 a2) := by
  unfold putSlot
  try dsimp only
  exact (setObj_canonical (upd_alm_canonical (fun h => (h.alm.set _ _)) g0))

theorem placeCirculating_canonical {a0 a1} (g0 : Canonical a1) : Canonical (placeCirculating a0 a1) := by
  unfold placeCirculating
  try dsimp only
  exact (ite_canonical (addObj_canonical g0) (upd_alm_canonical (fun h => h.alm) (putSlot_canonical (ite_canonical (addObj_canonical g0) g0))))

theorem execFreeze_canonical {a0 a1} (g0 : Canonical a1) : CanonOut (execFreeze a0 a1) := by
  unfold execFreeze
  try dsimp only
  exact (whenFree_canonical g0 (fun _ h0 => (ackWrite_canonical (wAlmanacCommand_canonical h0))))

theorem pushHistory_canonical {a0 a1} (g0 : Canonical a1) : Canonical (pushHistory a0 a1) := by
  unfold pushHistory
  try dsimp only
  exact (setObj_canonical (foldl_canonical (fun _ _ h0 => (setObj_canonical h0)) (setObj_canonical g0)))

theorem sendEmcy_canonical {a0 a1} (g0 : Canonical a1) : Canonical (sendEmcy a0 a1) := by
  unfold sendEmcy
  try dsimp only
  exact (upd_io_canonical (fun h => { h.io with can := { h.io.can with  } }) (emit_canonical g0))

theorem emcy_canonical {a0 a1} (g0 : Canonical a1) : Canonical (emcy a0 a1) := by
  unfold emcy
  try dsimp only
  exact (ite_canonical (ite_canonical (sendEmcy_canonical (pushHistory_canonical (setObj_canonical g0))) (upd_io_canonical (fun h => { h.io with can := { h.io.can with  } }) (pushHistory_canonical (setObj_canonical g0)))) (pushHistory_canonical (setObj_canonical g0)))

theorem placePermanent_canonical {a0 a1 a2 a3} (g0 : Canonical a3) : Canonical (placePermanent a0 a1 a2 a3) := by
  unfold placePermanent
  try dsimp only
  exact (ite_canonical (upd_alm_canonical (fun h => h.alm) (putSlot_canonical g0)) (upd_alm_canonical (fun h => h.alm) (putSlot_canonical g0)))

theorem placeRecord_canonical {a0 a1 a2} (g0 : Canonical a2) : Canonical (placeRecord a0 a1 a2) := by
  unfold placeRecord
  try dsimp only
  exact (by (try dsimp only); first | (split; exact (placePermanent_canonical g0); exact (placeCirculating_canonical (ite_canonical (addObj_canonical g0) g0))) | (split <;> first | exact (placePermanent_canonical g0) | exact (placeCirculating_canonical (ite_canonical (addObj_canonical g0) g0))))

theorem appendRecord_canonical {a0 a1} (g0 : Canonical a1) : Canonical (appendRecord a0 a1) := by
  unfold appendRecord
  try dsimp only
  exact (ite_canonical (upd_alm_canonical (fun h => h.alm) (ite_canonical (emcy_canonical (placeRecord_canonical (addObj_canonical g0))) (placeRecord_canonical (addObj_canonical g0)))) (ite_canonical (emcy_canonical (placeRecord_canonical (addObj_canonical g0))) (placeRecord_canonical (addObj_canonical g0))))

theorem captureDiscarded_canonical {a0} (g0 : Canonical a0) : Canonical (captureDiscarded a0) := by
  unfold captureDiscarded
  try dsimp only
  exact (ite_canonical g0 (capture_canonical (upd_alm_canonical (fun h => h.alm) g0)))

theorem execRecordAppend_canonical {a0} (g0 : Canonical a0) : CanonOut (execRecordAppend a0) := by
  unfold execRecordAppend
  try dsimp only
  exact (whenLive_canonical g0 (fun _ h0 => (ite_canonical (by (try dsimp only); first | (split; exact h0; exact (captureDiscarded_canonical (appendRecord_canonical (upd_alm_canonical (fun h => h.alm) h0)))) | (split <;> first | exact h0 | exact (captureDiscarded_canonical (appendRecord_canonical (upd_alm_canonical (fun h => h.alm) h0))))) h0)))

theorem restoreAlmanac_canonical {a0} (g0 : Canonical a0) : Canonical (restoreAlmanac a0) := by
  have key : ∀ (f : Nat → List Word) (l : List Nat) (x : SMap (List Word)), Tidy blankSlot x →
      Tidy blankSlot (l.foldl (fun x i => mapSet blankSlot x i (f i)) x) := by
    intro f l
    induction l with
    | nil => exact fun x h => h
    | cons i l ih => exact fun x h => ih _ (h.set _ _)
  unfold restoreAlmanac
  exact (setObj_canonical (setObj_canonical (upd_alm_canonical (fun _ => key _ _ _ (Tidy.nil _)) g0)))

theorem flashWrite_canonical {a0 a1 a2} (g0 : Canonical a2) : Canonical (flashWrite a0 a1 a2) := by
  induction a1 generalizing a0 a2 with
  | nil => exact g0
  | cons b bs ih => exact ih (upd_flash_canonical (fun h => h.flash.set _ _) g0)

theorem almanacRead_canonical {a0} (g0 : Canonical a0) : Canonical (almanacRead a0).2 := by
  unfold almanacRead
  try dsimp only
  exact (setObj_canonical (ite_canonical (upd_alm_canonical (fun h => h.alm) g0) g0))

theorem execAlmanacDataRead_canonical {a0 a1} (g0 : Canonical a1) : CanonOut (execAlmanacDataRead a0 a1) := by
  unfold execAlmanacDataRead
  try dsimp only
  exact (whenFree_canonical g0 (fun _ h0 => (answer_canonical (almanacRead_canonical h0))))

theorem execMirrorProgram_canonical {a0 a1} (g0 : Canonical a1) : CanonOut (execMirrorProgram a0 a1) := by
  unfold execMirrorProgram
  try dsimp only
  exact (whenLive_canonical g0 (fun _ h0 => (ite_canonical (by (try dsimp only); first | (split; exact h0; exact (ite_canonical (flashWrite_canonical (upd_alm_canonical (fun h => h.alm) h0)) (capture_canonical (flashWrite_canonical (useFree_canonical (upd_alm_canonical (fun h => h.alm) h0)))))) | (split <;> first | exact h0 | exact (ite_canonical (flashWrite_canonical (upd_alm_canonical (fun h => h.alm) h0)) (capture_canonical (flashWrite_canonical (useFree_canonical (upd_alm_canonical (fun h => h.alm) h0))))))) h0)))

theorem execThaw_canonical {a0 a1} (g0 : Canonical a1) : CanonOut (execThaw a0 a1) := by
  unfold execThaw
  try dsimp only
  exact (whenFree_canonical g0 (fun _ h0 => (ackWrite_canonical (wAlmanacCommand_canonical h0))))

theorem execClearPermanent_canonical {a0 a1} (g0 : Canonical a1) : CanonOut (execClearPermanent a0 a1) := by
  unfold execClearPermanent
  try dsimp only
  exact (whenFree_canonical g0 (fun _ h0 => (ackWrite_canonical (wAlmanacCommand_canonical h0))))

theorem execPerfSample_canonical {a0 a1} (g0 : Canonical a1) : CanonOut (execPerfSample a0 a1) := by
  unfold execPerfSample
  try dsimp only
  exact (whenFree_canonical g0 (fun _ h0 => (ackWrite_canonical (wPerfCommand_canonical h0))))

theorem setPStatus_canonical {a0 a1 a2} (g0 : Canonical a2) : Canonical (setPStatus a0 a1 a2) := by
  unfold setPStatus
  try dsimp only
  exact (setObj_canonical g0)

theorem applyConfigure_canonical {a0 a1} (g0 : Canonical a1) : Canonical (applyConfigure a0 a1) := by
  unfold applyConfigure
  try dsimp only
  exact (setObj_canonical (setObj_canonical (updPart_canonical (foldl_canonical (fun _ _ h0 => (ite_canonical (setObj_canonical (setObj_canonical h0)) (ite_canonical (setObj_canonical h0) h0))) g0))))

theorem doConfigure_canonical {a0 a1} (g0 : Canonical a1) : Canonical (doConfigure a0 a1).1 := by
  unfold doConfigure
  try dsimp only
  exact (by (try dsimp only); first | (split; exact (fst_canonical (setPStatus_canonical g0)); exact (fst_canonical (setPStatus_canonical (applyConfigure_canonical g0)))) | (split <;> first | exact (fst_canonical (setPStatus_canonical g0)) | exact (fst_canonical (setPStatus_canonical (applyConfigure_canonical g0)))))

theorem doStart_canonical {a0 a1} (g0 : Canonical a1) : Canonical (doStart a0 a1).1 := by
  unfold doStart
  try dsimp only
  exact (ite_fst_canonical (fst_canonical (setPStatus_canonical g0)) (fst_canonical (setPStatus_canonical (setObj_canonical g0))))

theorem doStop_canonical {a0 a1} (g0 : Canonical a1) : Canonical (doStop a0 a1).1 := by
  unfold doStop
  try dsimp only
  exact (ite_fst_canonical (fst_canonical (setPStatus_canonical g0)) (fst_canonical (setPStatus_canonical (startReset_canonical g0))))

theorem doReset_canonical {a0 a1} (g0 : Canonical a1) : Canonical (doReset a0 a1).1 := by
  unfold doReset
  try dsimp only
  exact (ite_fst_canonical (fst_canonical (setPStatus_canonical (startReset_canonical g0))) (fst_canonical (setPStatus_canonical g0)))

theorem doPartition_canonical {a0 a1 a2} (g0 : Canonical a2) : Canonical (doPartition a0 a1 a2).1 := by
  unfold doPartition
  try dsimp only
  exact (ite_fst_canonical (doConfigure_canonical g0) (ite_fst_canonical (doStart_canonical g0) (ite_fst_canonical (doStop_canonical g0) (doReset_canonical g0))))

theorem wPartitionCommand_canonical {a0 a1 a2 a3} (g0 : Canonical a3) : Canonical (wPartitionCommand a0 a1 a2 a3).1 := by
  unfold wPartitionCommand
  try dsimp only
  exact (ite_fst_canonical (fst_canonical (refuse_canonical g0)) (ite_fst_canonical (fst_canonical (refuse_canonical g0)) (ite_fst_canonical (fst_canonical (deferEvent_canonical g0)) (doPartition_canonical g0))))

theorem execPartitionReset_canonical {a0 a1 a2} (g0 : Canonical a2) : CanonOut (execPartitionReset a0 a1 a2) := by
  unfold execPartitionReset
  try dsimp only
  exact (whenFree_canonical g0 (fun _ h0 => (ackWrite_canonical (wPartitionCommand_canonical h0))))

theorem setLoanStatus_canonical {a0 a1 a2 a3 a4} (g0 : Canonical a4) : Canonical (setLoanStatus a0 a1 a2 a3 a4) := by
  unfold setLoanStatus
  try dsimp only
  exact (setObj_canonical g0)

theorem handOver_canonical {a0 a1 a2 a3 a4 a5} (g0 : Canonical a5) : Canonical (handOver a0 a1 a2 a3 a4 a5) := by
  unfold handOver
  try dsimp only
  exact (foldl_canonical (fun _ _ h0 => (setObj_canonical h0)) (foldl_canonical (fun _ _ h0 => (setField_canonical h0)) g0))

theorem lendTile_canonical {a0 a1 a2 a3 a4 a5} (g0 : Canonical a5) : Canonical (lendTile a0 a1 a2 a3 a4 a5) := by
  unfold lendTile
  try dsimp only
  exact (ite_canonical (handOver_canonical g0) (updPart_canonical (handOver_canonical g0)))

theorem clearAcct_canonical {a0 a1} (g0 : Canonical a1) : Canonical (clearAcct a0 a1) := by
  unfold clearAcct
  try dsimp only
  exact (setAcct_canonical g0)

theorem wAcctClear_canonical {a0 a1 a2 a3} (g0 : Canonical a3) : Canonical (wAcctClear a0 a1 a2 a3).1 := by
  unfold wAcctClear
  try dsimp only
  exact (ite_fst_canonical (fst_canonical (foldl_canonical (fun _ _ h0 => (clearAcct_canonical h0)) (upd_pt_canonical (fun h => { h.pt with accts := by (try dsimp only); exact (h.pt.accts.filter _) }) g0))) (ite_fst_canonical (fst_canonical (clearAcct_canonical g0)) (fst_canonical (refuse_canonical g0))))

theorem execAcctClear_canonical {a0 a1 a2 a3} (g0 : Canonical a3) : CanonOut (execAcctClear a0 a1 a2 a3) := by
  unfold execAcctClear
  try dsimp only
  exact (whenFree_canonical g0 (fun _ h0 => (ackWrite_canonical (wAcctClear_canonical h0))))

theorem execPartitionStart_canonical {a0 a1 a2} (g0 : Canonical a2) : CanonOut (execPartitionStart a0 a1 a2) := by
  unfold execPartitionStart
  try dsimp only
  exact (whenFree_canonical g0 (fun _ h0 => (ackWrite_canonical (wPartitionCommand_canonical h0))))

theorem returnLoan_canonical {a0 a1 a2} (g0 : Canonical a2) : Canonical (returnLoan a0 a1 a2) := by
  unfold returnLoan
  try dsimp only
  exact (handOver_canonical (foldl_canonical (fun _ _ h0 => (setQueue_canonical h0)) (foldl_canonical (fun _ _ h0 => (by (try dsimp only); first | (split; exact (setPageMap_canonical (dropPage_canonical h0)); exact h0) | (split <;> first | exact (setPageMap_canonical (dropPage_canonical h0)) | exact h0))) g0)))

theorem beginReclaim_canonical {a0 a1 a2} (g0 : Canonical a2) : Canonical (beginReclaim a0 a1 a2) := by
  unfold beginReclaim
  try dsimp only
  exact (foldl_canonical (fun _ _ h0 => (foldl_canonical (fun _ _ h1 => (foldl_canonical (fun _ _ h2 => (ite_canonical (startKill_canonical h2) h2)) h1)) (foldl_canonical (fun _ _ h1 => (foldl_canonical (fun _ _ h2 => (startKill_canonical h2)) (setQueue_canonical h1))) h0))) g0)

theorem startReclaim_canonical {a0 a1 a2} (g0 : Canonical a2) : Canonical (startReclaim a0 a1 a2) := by
  unfold startReclaim
  try dsimp only
  exact (by (try dsimp only); first | (split; exact g0; exact (beginReclaim_canonical (setLoanStatus_canonical (updPart_canonical g0)))) | (split <;> first | exact g0 | exact (beginReclaim_canonical (setLoanStatus_canonical (updPart_canonical g0)))))

theorem finishReclaim_canonical {a0 a1 a2} (g0 : Canonical a2) : Canonical (finishReclaim a0 a1 a2) := by
  unfold finishReclaim
  try dsimp only
  exact (releaseResets_canonical (ite_canonical (setLoanStatus_canonical (updPart_canonical (foldl_canonical (fun _ _ h0 => (returnLoan_canonical h0)) g0))) (startReclaim_canonical (updPart_canonical (foldl_canonical (fun _ _ h0 => (returnLoan_canonical h0)) g0)))))

theorem markLent_canonical {a0 a1 a2} (g0 : Canonical a2) : Canonical (markLent a0 a1 a2) := by
  unfold markLent
  try dsimp only
  exact (foldl_canonical (fun _ _ h0 => (foldl_canonical (fun _ _ h1 => (markJob_canonical h1)) h0)) g0)

theorem execReclaimComplete_canonical {a0 a1} (g0 : Canonical a1) : CanonOut (execReclaimComplete a0 a1) := by
  unfold execReclaimComplete
  try dsimp only
  exact (whenLive_canonical g0 (fun _ h0 => (by (try dsimp only); first | (split; exact h0; exact (ite_canonical (ite_canonical (finishReclaim_canonical (markLent_canonical h0)) (markLent_canonical h0)) h0)) | (split <;> first | exact h0 | exact (ite_canonical (ite_canonical (finishReclaim_canonical (markLent_canonical h0)) (markLent_canonical h0)) h0)))))

theorem readAcct_canonical {a0 a1} (g0 : Canonical a1) : Canonical (readAcct a0 a1).2 := by
  unfold readAcct
  try dsimp only
  exact (setObj_canonical (upd_pt_canonical (fun h => { h.pt with acctLatch := by (try dsimp only); exact (h.pt.acctLatch.set _ _) }) g0))

theorem execAcctDataRead_canonical {a0 a1 a2} (g0 : Canonical a2) : CanonOut (execAcctDataRead a0 a1 a2) := by
  unfold execAcctDataRead
  try dsimp only
  exact (whenFree_canonical g0 (fun _ h0 => (answer_canonical (readAcct_canonical h0))))

theorem execPartitionStop_canonical {a0 a1 a2} (g0 : Canonical a2) : CanonOut (execPartitionStop a0 a1 a2) := by
  unfold execPartitionStop
  try dsimp only
  exact (whenFree_canonical g0 (fun _ h0 => (ackWrite_canonical (wPartitionCommand_canonical h0))))

theorem wLoanCommand_canonical {a0 a1 a2 a3} (g0 : Canonical a3) : Canonical (wLoanCommand a0 a1 a2 a3).1 := by
  unfold wLoanCommand
  try dsimp only
  exact (ite_fst_canonical (fst_canonical (refuse_canonical g0)) (ite_fst_canonical (fst_canonical (refuse_canonical g0)) (ite_fst_canonical (by (try dsimp only); first | (split; exact (fst_canonical (setLoanStatus_canonical g0)); exact (fst_canonical (setLoanStatus_canonical (foldl_canonical (fun _ _ h0 => (lendTile_canonical h0)) g0)))) | (split <;> first | exact (fst_canonical (setLoanStatus_canonical g0)) | exact (fst_canonical (setLoanStatus_canonical (foldl_canonical (fun _ _ h0 => (lendTile_canonical h0)) g0))))) (ite_fst_canonical (ite_fst_canonical (fst_canonical (setLoanStatus_canonical g0)) (fst_canonical (startReclaim_canonical g0))) (ite_fst_canonical (fst_canonical (setLoanStatus_canonical g0)) (fst_canonical (startReclaim_canonical g0)))))))

theorem execLend_canonical {a0 a1 a2} (g0 : Canonical a2) : CanonOut (execLend a0 a1 a2) := by
  unfold execLend
  try dsimp only
  exact (whenFree_canonical g0 (fun _ h0 => (ackWrite_canonical (wLoanCommand_canonical h0))))

theorem execPartitionConfigure_canonical {a0 a1 a2} (g0 : Canonical a2) : CanonOut (execPartitionConfigure a0 a1 a2) := by
  unfold execPartitionConfigure
  try dsimp only
  exact (whenFree_canonical g0 (fun _ h0 => (ackWrite_canonical (wPartitionCommand_canonical h0))))

theorem execReclaimTile_canonical {a0 a1 a2} (g0 : Canonical a2) : CanonOut (execReclaimTile a0 a1 a2) := by
  unfold execReclaimTile
  try dsimp only
  exact (whenFree_canonical g0 (fun _ h0 => (ackWrite_canonical (wLoanCommand_canonical h0))))

theorem execReclaimAll_canonical {a0 a1 a2} (g0 : Canonical a2) : CanonOut (execReclaimAll a0 a1 a2) := by
  unfold execReclaimAll
  try dsimp only
  exact (whenFree_canonical g0 (fun _ h0 => (ackWrite_canonical (wLoanCommand_canonical h0))))

theorem beginMove_canonical {a0 a1 a2 a3} (g0 : Canonical a3) : Canonical (beginMove a0 a1 a2 a3).2 := by
  unfold beginMove
  try dsimp only
  exact (by (try dsimp only); first | (split; exact (snd_canonical (settlePage_canonical g0)); exact (ite_snd_canonical (snd_canonical (settlePage_canonical g0)) (ite_snd_canonical (snd_canonical (settlePage_canonical g0)) (by (try dsimp only); first | (split; exact (snd_canonical (settlePage_canonical g0)); exact (snd_canonical (setC_canonical (fun h => by first | exact h.frame _ | exact h.cslot _ | exact PageWf.write (h.frame _) _ _ | exact PageWf.write (h.cslot _) _ _ | exact pageOf_wf _ | exact PageWf.zero | exact PageWf.blank _) (settlePage_canonical g0)))) | (split <;> first | exact (snd_canonical (settlePage_canonical g0)) | exact (snd_canonical (setC_canonical (fun h => by first | exact h.frame _ | exact h.cslot _ | exact PageWf.write (h.frame _) _ _ | exact PageWf.write (h.cslot _) _ _ | exact pageOf_wf _ | exact PageWf.zero | exact PageWf.blank _) (settlePage_canonical g0)))))))) | (split <;> first | exact (snd_canonical (settlePage_canonical g0)) | exact (ite_snd_canonical (snd_canonical (settlePage_canonical g0)) (ite_snd_canonical (snd_canonical (settlePage_canonical g0)) (by (try dsimp only); first | (split; exact (snd_canonical (settlePage_canonical g0)); exact (snd_canonical (setC_canonical (fun h => by first | exact h.frame _ | exact h.cslot _ | exact PageWf.write (h.frame _) _ _ | exact PageWf.write (h.cslot _) _ _ | exact pageOf_wf _ | exact PageWf.zero | exact PageWf.blank _) (settlePage_canonical g0)))) | (split <;> first | exact (snd_canonical (settlePage_canonical g0)) | exact (snd_canonical (setC_canonical (fun h => by first | exact h.frame _ | exact h.cslot _ | exact PageWf.write (h.frame _) _ _ | exact PageWf.write (h.cslot _) _ _ | exact pageOf_wf _ | exact PageWf.zero | exact PageWf.blank _) (settlePage_canonical g0)))))))))

theorem beginRebuild_canonical {a0} (g0 : Canonical a0) : Canonical (beginRebuild a0) := by
  unfold beginRebuild
  try dsimp only
  exact (by (try dsimp only); first | (split; exact (upd_ci_canonical (fun h => { h.ci with  }) g0); exact (ite_canonical (upd_ci_canonical (fun h => { h.ci with  }) g0) (upd_ci_canonical (fun h => { h.ci with  }) (beginMove_canonical g0)))) | (split <;> first | exact (upd_ci_canonical (fun h => { h.ci with  }) g0) | exact (ite_canonical (upd_ci_canonical (fun h => { h.ci with  }) g0) (upd_ci_canonical (fun h => { h.ci with  }) (beginMove_canonical g0)))))

theorem startRebuild_canonical {a0} (g0 : Canonical a0) : Canonical (startRebuild a0) := by
  unfold startRebuild
  try dsimp only
  exact (beginRebuild_canonical (setCisternState_canonical g0))

theorem redoMove_canonical {a0 a1 a2} (g0 : Canonical a2) : Canonical (redoMove a0 a1 a2).2 := by
  unfold redoMove
  try dsimp only
  exact (by (try dsimp only); first | (split; exact (by (try dsimp only); first | (split; exact (ite_snd_canonical (snd_canonical (setC_canonical (fun h => by first | exact h.frame _ | exact h.cslot _ | exact PageWf.write (h.frame _) _ _ | exact PageWf.write (h.cslot _) _ _ | exact pageOf_wf _ | exact PageWf.zero | exact PageWf.blank _) g0)) (snd_canonical g0)); exact (snd_canonical g0)) | (split <;> first | exact (ite_snd_canonical (snd_canonical (setC_canonical (fun h => by first | exact h.frame _ | exact h.cslot _ | exact PageWf.write (h.frame _) _ _ | exact PageWf.write (h.cslot _) _ _ | exact pageOf_wf _ | exact PageWf.zero | exact PageWf.blank _) g0)) (snd_canonical g0)) | exact (snd_canonical g0))); exact (snd_canonical g0)) | (split <;> first | exact (by (try dsimp only); first | (split; exact (ite_snd_canonical (snd_canonical (setC_canonical (fun h => by first | exact h.frame _ | exact h.cslot _ | exact PageWf.write (h.frame _) _ _ | exact PageWf.write (h.cslot _) _ _ | exact pageOf_wf _ | exact PageWf.zero | exact PageWf.blank _) g0)) (snd_canonical g0)); exact (snd_canonical g0)) | (split <;> first | exact (ite_snd_canonical (snd_canonical (setC_canonical (fun h => by first | exact h.frame _ | exact h.cslot _ | exact PageWf.write (h.frame _) _ _ | exact PageWf.write (h.cslot _) _ _ | exact pageOf_wf _ | exact PageWf.zero | exact PageWf.blank _) g0)) (snd_canonical g0)) | exact (snd_canonical g0))) | exact (snd_canonical g0)))

theorem dropMove_canonical {a0 a1} (g0 : Canonical a1) : Canonical (dropMove a0 a1) := by
  unfold dropMove
  try dsimp only
  exact (by (try dsimp only); first | (split; exact (setC_canonical (fun h => by first | exact h.frame _ | exact h.cslot _ | exact PageWf.write (h.frame _) _ _ | exact PageWf.write (h.cslot _) _ _ | exact pageOf_wf _ | exact PageWf.zero | exact PageWf.blank _) g0); exact g0) | (split <;> first | exact (setC_canonical (fun h => by first | exact h.frame _ | exact h.cslot _ | exact PageWf.write (h.frame _) _ _ | exact PageWf.write (h.cslot _) _ _ | exact pageOf_wf _ | exact PageWf.zero | exact PageWf.blank _) g0) | exact g0))

theorem tryRebuild_canonical {a0 a1} (g0 : Canonical a1) : Canonical (tryRebuild a0 a1) := by
  unfold tryRebuild
  try dsimp only
  exact (ite_canonical (startRebuild_canonical g0) (capture_canonical (capture_canonical g0)))

theorem killWriters_canonical {a0 a1} (g0 : Canonical a1) : Canonical (killWriters a0 a1) := by
  unfold killWriters
  try dsimp only
  exact (foldl_canonical (fun _ _ h0 => (foldl_canonical (fun _ _ h1 => (ite_canonical (startKill_canonical h1) h1)) h0)) g0)

theorem loseStack_canonical {a0 a1} (g0 : Canonical a1) : Canonical (loseStack a0 a1) := by
  have h1 : ∀ {s x y z w}, Canonical s → Canonical { s with ci := { s.ci with pcRetrain := x, pcWaiting := y, lostPcs := z, stale := w } } :=
    fun h => upd_ci_canonical (fun h => { h.ci with }) h
  have h2 : ∀ {s x}, Canonical s → Canonical { s with ci := { s.ci with moving := x } } := fun h => upd_ci_canonical (fun h => { h.ci with }) h
  have h3 : ∀ {s x}, Canonical s → Canonical { s with ci := { s.ci with rebuilding := x } } := fun h => upd_ci_canonical (fun h => { h.ci with }) h
  have h4 : ∀ {x s}, Canonical s → Canonical { (redoMove a0 x s).2 with ci := { (redoMove a0 x s).2.ci with moving := (redoMove a0 x s).1 } } :=
    fun h => h2 (redoMove_canonical h)
  have h5 := fun {x} {y} {z} {w} => h1 (x := x) (y := y) (z := z) (w := w) (setStackState_canonical (a0 := a0) (a1 := 4) g0)
  unfold loseStack
  exact ite_canonical (capture_canonical (setCisternState_canonical (h3 (dropMove_canonical (killWriters_canonical (h4 h5))))))
    (tryRebuild_canonical (capture_canonical (setCisternState_canonical (killWriters_canonical (h4 h5)))))

theorem learn_canonical {a0 a1 a2 a3 a4 a5} (g0 : Canonical a5) : Canonical (learn a0 a1 a2 a3 a4 a5) := by
  unfold learn
  try dsimp only
  exact (ite_canonical (capture_canonical (setObj_canonical (upd_fab_canonical (fun h => { h.fab with defects := by (try dsimp only); exact (h.fab.defects.put _ _) }) g0))) (capture_canonical (addObj_canonical (upd_fab_canonical (fun h => { h.fab with  }) g0))))

theorem execStackLost_canonical {a0 a1} (g0 : Canonical a1) : CanonOut (execStackLost a0 a1) := by
  unfold execStackLost
  try dsimp only
  exact (whenLive_canonical g0 (fun _ h0 => (ite_canonical (loseStack_canonical (learn_canonical h0)) h0)))

theorem setLastError_canonical {a0 a1 a2} (g0 : Canonical a2) : Canonical (setLastError a0 a1 a2) := by
  unfold setLastError
  try dsimp only
  exact (setObj_canonical g0)

theorem wRetireStack_canonical {a0 a1 a2} (g0 : Canonical a2) : Canonical (wRetireStack a0 a1 a2).1 := by
  unfold wRetireStack
  try dsimp only
  exact (ite_fst_canonical (fst_canonical (refuse_canonical g0)) (ite_fst_canonical (fst_canonical (refuse_canonical g0)) (fst_canonical (loseStack_canonical g0))))

theorem damagePage_canonical {a0 a1} (g0 : Canonical a1) : Canonical (damagePage a0 a1) := by
  unfold damagePage
  try dsimp only
  exact (ite_canonical (capture_canonical g0) (jobFault_canonical (capture_canonical (addObj_canonical (upd_ci_canonical (fun h => { h.ci with  }) g0)))))

theorem reconstruct_canonical {a0 a1 a2} (g0 : Canonical a2) : Canonical (reconstruct a0 a1 a2) := by
  unfold reconstruct
  try dsimp only
  exact (ite_canonical (readMembers_canonical g0) (countLines_canonical (readMembers_canonical g0)))

theorem zeroLine_canonical {a0 a1 a2} (g0 : Canonical a2) : Canonical (zeroLine a0 a1 a2) := by
  unfold zeroLine
  try dsimp only
  exact (setC_canonical (fun h => (PageWf.write (h.cslot _) _ _)) g0)

theorem lineRead_canonical {a0 a1 a2 a3} (g0 : Canonical a3) : Canonical (lineRead a0 a1 a2 a3) := by
  unfold lineRead
  try dsimp only
  exact (by (try dsimp only); first | (split; exact (ite_canonical g0 (countLines_canonical g0)); exact (setLastError_canonical (countLines_canonical (perfCount_canonical (ite_canonical g0 (countLines_canonical g0))))); exact (setLastError_canonical (reconstruct_canonical (ite_canonical g0 (countLines_canonical g0)))); exact (damagePage_canonical (zeroLine_canonical (setLastError_canonical (ite_canonical g0 (countLines_canonical g0)))))) | (split <;> first | exact (ite_canonical g0 (countLines_canonical g0)) | exact (setLastError_canonical (countLines_canonical (perfCount_canonical (ite_canonical g0 (countLines_canonical g0))))) | exact (setLastError_canonical (reconstruct_canonical (ite_canonical g0 (countLines_canonical g0)))) | exact (damagePage_canonical (zeroLine_canonical (setLastError_canonical (ite_canonical g0 (countLines_canonical g0)))))))

theorem execCisternLineRead_canonical {a0 a1 a2 a3 a4} (g0 : Canonical a4) : CanonOut (execCisternLineRead a0 a1 a2 a3 a4) := by
  unfold execCisternLineRead
  try dsimp only
  exact (whenLive_canonical g0 (fun _ h0 => (ite_canonical (ite_canonical (perturb_canonical (ite_canonical (perturb_canonical (lineRead_canonical h0)) (lineRead_canonical h0))) (ite_canonical (perturb_canonical (lineRead_canonical h0)) (lineRead_canonical h0))) h0)))

theorem refuseCapacity_canonical {a0 a1 a2 a3 a4} (g0 : Canonical a4) : Canonical (refuseCapacity a0 a1 a2 a3 a4).1 := by
  unfold refuseCapacity
  try dsimp only
  exact (refuse_canonical (capture_canonical g0))

theorem retryRebuild_canonical {a0} (g0 : Canonical a0) : Canonical (retryRebuild a0) := by
  unfold retryRebuild
  try dsimp only
  exact (ite_canonical (startRebuild_canonical g0) g0)

theorem wMargin_canonical {a0 a1 a2} (g0 : Canonical a2) : Canonical (wMargin a0 a1 a2).1 := by
  unfold wMargin
  try dsimp only
  exact (ite_fst_canonical (fst_canonical (refuse_canonical g0)) (ite_fst_canonical (fst_canonical (retryRebuild_canonical (setObj_canonical g0))) (refuseCapacity_canonical g0)))

theorem beginPage_canonical {a0} (g0 : Canonical a0) : Canonical (beginPage a0) := by
  unfold beginPage
  try dsimp only
  exact (by (try dsimp only); first | (split; exact g0; exact (upd_ci_canonical (fun h => { h.ci with  }) (beginMove_canonical g0))) | (split <;> first | exact g0 | exact (upd_ci_canonical (fun h => { h.ci with  }) (beginMove_canonical g0))))

theorem movePage_canonical {a0 a1 a2} (g0 : Canonical a2) : Canonical (movePage a0 a1 a2) := by
  have h1 : ∀ {s x y}, Canonical s → Canonical { s with ci := { s.ci with serial := x }, now := y } := fun h => { h with ci := { h.ci with } }
  unfold movePage
  exact h1 (setC_canonical (fun _ => g0.cslot a0) (pushVersion_canonical (setC_canonical (fun _ => g0.cslot a0) g0)))

theorem switchPage_canonical {a0 a1} (g0 : Canonical a1) : Canonical (switchPage a0 a1) := by
  unfold switchPage
  split
  · exact movePage_canonical g0
  · exact setC_canonical (fun _ => PageWf.zero) g0
  · exact g0

theorem setMigrateStatus_canonical {a0 a1 a2} (g0 : Canonical a2) : Canonical (setMigrateStatus a0 a1 a2) := by
  unfold setMigrateStatus
  try dsimp only
  exact (setObj_canonical g0)

theorem migrateStep_canonical {a0} (g0 : Canonical a0) : Canonical (migrateStep a0) := by
  unfold migrateStep
  try dsimp only
  exact (by (try dsimp only); first | (split; exact (ite_canonical (ite_canonical (setMigrateStatus_canonical (upd_ci_canonical (fun h => { h.ci with  }) (switchPage_canonical g0))) (beginPage_canonical (setMigrateStatus_canonical (upd_ci_canonical (fun h => { h.ci with  }) (switchPage_canonical g0))))) (beginPage_canonical g0)); exact g0) | (split <;> first | exact (ite_canonical (ite_canonical (setMigrateStatus_canonical (upd_ci_canonical (fun h => { h.ci with  }) (switchPage_canonical g0))) (beginPage_canonical (setMigrateStatus_canonical (upd_ci_canonical (fun h => { h.ci with  }) (switchPage_canonical g0))))) (beginPage_canonical g0)) | exact g0))

theorem wMigrate_canonical {a0 a1 a2} (g0 : Canonical a2) : Canonical (wMigrate a0 a1 a2).1 := by
  unfold wMigrate
  try dsimp only
  exact (ite_fst_canonical (ite_fst_canonical (fst_canonical (refuse_canonical g0)) (ite_fst_canonical (fst_canonical (beginPage_canonical (setMigrateStatus_canonical (upd_ci_canonical (fun h => { h.ci with  }) g0)))) (fst_canonical (refuse_canonical (setMigrateStatus_canonical g0))))) (ite_fst_canonical (ite_fst_canonical (fst_canonical (setMigrateStatus_canonical (upd_ci_canonical (fun h => { h.ci with  }) (dropMove_canonical g0)))) (fst_canonical (refuse_canonical g0))) (fst_canonical (refuse_canonical g0))))

theorem execMigrateAbort_canonical {a0 a1} (g0 : Canonical a1) : CanonOut (execMigrateAbort a0 a1) := by
  unfold execMigrateAbort
  try dsimp only
  exact (whenFree_canonical g0 (fun _ h0 => (ackWrite_canonical (wMigrate_canonical h0))))

theorem rebuildStep_canonical {a0} (g0 : Canonical a0) : Canonical (rebuildStep a0) := by
  unfold rebuildStep
  try dsimp only
  exact (by (try dsimp only); first | (split; exact (ite_canonical (beginRebuild_canonical (switchPage_canonical g0)) (beginRebuild_canonical g0)); exact (beginRebuild_canonical g0)) | (split <;> first | exact (ite_canonical (beginRebuild_canonical (switchPage_canonical g0)) (beginRebuild_canonical g0)) | exact (beginRebuild_canonical g0)))

theorem wPlacement_canonical {a0 a1 a2 a3} (g0 : Canonical a3) : Canonical (wPlacement a0 a1 a2 a3).1 := by
  unfold wPlacement
  try dsimp only
  exact (ite_fst_canonical (fst_canonical (refuse_canonical g0)) (ite_fst_canonical (fst_canonical (refuse_canonical g0)) (fst_canonical (setObj_canonical g0))))

theorem wReserve_canonical {a0 a1 a2 a3} (g0 : Canonical a3) : Canonical (wReserve a0 a1 a2 a3).1 := by
  unfold wReserve
  try dsimp only
  exact (ite_fst_canonical (fst_canonical (refuse_canonical g0)) (ite_fst_canonical (fst_canonical (refuse_canonical g0)) (ite_fst_canonical (fst_canonical (retryRebuild_canonical (setObj_canonical g0))) (refuseCapacity_canonical g0))))

theorem wSpan_canonical {a0 a1 a2 a3} (g0 : Canonical a3) : Canonical (wSpan a0 a1 a2 a3).1 := by
  unfold wSpan
  try dsimp only
  exact (ite_fst_canonical (fst_canonical (refuse_canonical g0)) (ite_fst_canonical (fst_canonical (refuse_canonical g0)) (fst_canonical (setObj_canonical g0))))

theorem execRegionWrite_canonical {a0 a1 a2 a3 a4} (g0 : Canonical a4) : CanonOut (execRegionWrite a0 a1 a2 a3 a4) := by
  unfold execRegionWrite
  try dsimp only
  exact (whenFree_canonical g0 (fun _ h0 => (ite_canonical (ackWrite_canonical (wSpan_canonical h0)) (ite_canonical (ackWrite_canonical (wReserve_canonical h0)) (ackWrite_canonical (wPlacement_canonical h0))))))

theorem execRetiredSlotFree_canonical {a0 a1} (g0 : Canonical a1) : CanonOut (execRetiredSlotFree a0 a1) := by
  unfold execRetiredSlotFree
  try dsimp only
  exact (whenLive_canonical g0 (fun _ h0 => (ite_canonical (freeSlotAt_canonical h0) h0)))

theorem execTagSettle_canonical {a0 a1} (g0 : Canonical a1) : CanonOut (execTagSettle a0 a1) := by
  unfold execTagSettle
  try dsimp only
  exact (whenLive_canonical g0 (fun _ h0 => (settleTag_canonical h0)))

theorem startRetrain_canonical {a0 a1 a2} (g0 : Canonical a2) : Canonical (startRetrain a0 a1 a2) := by
  unfold startRetrain
  try dsimp only
  exact (setStackState_canonical (upd_ci_canonical (fun h => { h.ci with  }) g0))

theorem nextRetrain_canonical {a0} (g0 : Canonical a0) : Canonical (nextRetrain a0) := by
  unfold nextRetrain
  try dsimp only
  exact (by (try dsimp only); first | (split; exact (ite_canonical (startRetrain_canonical (upd_ci_canonical (fun h => { h.ci with  }) g0)) g0); exact g0) | (split <;> first | exact (ite_canonical (startRetrain_canonical (upd_ci_canonical (fun h => { h.ci with  }) g0)) g0) | exact g0))

theorem execPcRetrainComplete_canonical {a0 a1 a2 a3} (g0 : Canonical a3) : CanonOut (execPcRetrainComplete a0 a1 a2 a3) := by
  unfold execPcRetrainComplete
  try dsimp only
  exact (whenLive_canonical g0 (fun _ h0 => (ite_canonical (nextRetrain_canonical (ite_canonical (loseStack_canonical (learn_canonical (capture_canonical (ite_canonical (setStackState_canonical (upd_ci_canonical (fun h => { h.ci with  }) h0)) (learn_canonical (setStackState_canonical (upd_ci_canonical (fun h => { h.ci with  }) h0))))))) (capture_canonical (ite_canonical (setStackState_canonical (upd_ci_canonical (fun h => { h.ci with  }) h0)) (learn_canonical (setStackState_canonical (upd_ci_canonical (fun h => { h.ci with  }) h0))))))) h0)))

theorem execMigrateStart_canonical {a0 a1} (g0 : Canonical a1) : CanonOut (execMigrateStart a0 a1) := by
  unfold execMigrateStart
  try dsimp only
  exact (whenFree_canonical g0 (fun _ h0 => (ackWrite_canonical (wMigrate_canonical h0))))

theorem execScrubRead_canonical {a0 a1 a2 a3} (g0 : Canonical a3) : CanonOut (execScrubRead a0 a1 a2 a3) := by
  unfold execScrubRead
  try dsimp only
  exact (whenLive_canonical g0 (fun _ h0 => (ite_canonical (lineRead_canonical h0) h0)))

theorem endMigration_canonical {a0} (g0 : Canonical a0) : Canonical (endMigration a0) := by
  unfold endMigration
  try dsimp only
  exact (ite_canonical (setMigrateStatus_canonical (upd_ci_canonical (fun h => { h.ci with  }) g0)) g0)

theorem execPcRetrainStart_canonical {a0 a1 a2} (g0 : Canonical a2) : CanonOut (execPcRetrainStart a0 a1 a2) := by
  unfold execPcRetrainStart
  try dsimp only
  exact (whenLive_canonical g0 (fun _ h0 => (ite_canonical h0 (ite_canonical (upd_ci_canonical (fun h => { h.ci with  }) h0) (startRetrain_canonical h0)))))

theorem execPageMigrationSwitch_canonical {a0} (g0 : Canonical a0) : CanonOut (execPageMigrationSwitch a0) := by
  unfold execPageMigrationSwitch
  try dsimp only
  exact (whenLive_canonical g0 (fun _ h0 => (ite_canonical (ite_canonical (ite_canonical (rebuildStep_canonical (useFree_canonical h0)) (migrateStep_canonical (useFree_canonical h0))) (rebuildStep_canonical h0)) (migrateStep_canonical h0))))

theorem execRebuildComplete_canonical {a0} (g0 : Canonical a0) : CanonOut (execRebuildComplete a0) := by
  have h3 : ∀ {s x}, Canonical s → Canonical { s with ci := { s.ci with rebuilding := x } } := fun h => upd_ci_canonical (fun h => { h.ci with }) h
  unfold execRebuildComplete
  refine whenLive_canonical g0 (fun s h => ?_)
  exact ite_canonical (capture_canonical (h3 (setObj_canonical (setCisternState_canonical (foldl_canonical (fun _ _ h1 => setStackState_canonical h1) h))))) h

theorem execRetireStack_canonical {a0 a1 a2} (g0 : Canonical a2) : CanonOut (execRetireStack a0 a1 a2) := by
  unfold execRetireStack
  try dsimp only
  exact (whenFree_canonical g0 (fun _ h0 => (ackWrite_canonical (wRetireStack_canonical h0))))

theorem updSeq_canonical {a0 a1 a2} (g0 : Canonical a2) : Canonical (updSeq a0 a1 a2) := by
  unfold updSeq
  try dsimp only
  exact (setSeq_canonical g0)

theorem updWatched_canonical {a0 a1 a2 a3} (g0 : Canonical a3) : Canonical (updWatched a0 a1 a2 a3) := by
  unfold updWatched
  try dsimp only
  exact (setWatched_canonical g0)

theorem startFallback_canonical {a0 a1 a2} (g0 : Canonical a2) : Canonical (startFallback a0 a1 a2) := by
  unfold startFallback
  try dsimp only
  exact (by (try dsimp only); first | (split; exact g0; exact (by (try dsimp only); first | (split; exact g0; exact (upd_st_canonical (fun h => { h.st with  }) (updWatched_canonical g0))) | (split <;> first | exact g0 | exact (upd_st_canonical (fun h => { h.st with  }) (updWatched_canonical g0))))) | (split <;> first | exact g0 | exact (by (try dsimp only); first | (split; exact g0; exact (upd_st_canonical (fun h => { h.st with  }) (updWatched_canonical g0))) | (split <;> first | exact g0 | exact (upd_st_canonical (fun h => { h.st with  }) (updWatched_canonical g0))))))

theorem abandonStep_canonical {a0 a1 a2} (g0 : Canonical a2) : Canonical (abandonStep a0 a1 a2) := by
  unfold abandonStep
  try dsimp only
  exact (ite_canonical (by (try dsimp only); first | (split; exact (settleHead_canonical (abandonSlot_canonical g0)); exact (startKill_canonical g0); exact (startKill_canonical g0); exact (startKill_canonical g0); exact g0) | (split <;> first | exact (settleHead_canonical (abandonSlot_canonical g0)) | exact (startKill_canonical g0) | exact g0)) g0)

theorem abandonOutputs_canonical {a0 a1 a2} (g0 : Canonical a2) : Canonical (abandonOutputs a0 a1 a2) := by
  unfold abandonOutputs
  try dsimp only
  exact (foldl_canonical (fun _ _ h0 => (abandonStep_canonical h0)) (setSeq_canonical g0))

theorem decideFallback_canonical {a0 a1 a2 a3} (g0 : Canonical a3) : Canonical (decideFallback a0 a1 a2 a3) := by
  unfold decideFallback
  try dsimp only
  exact (startFallback_canonical (abandonOutputs_canonical (updWatched_canonical g0)))

theorem handFrame_canonical {a0 a1 a2} (g0 : Canonical a2) : Canonical (handFrame a0 a1 a2) := by
  unfold handFrame
  try dsimp only
  exact (ite_canonical (decideFallback_canonical (updSeq_canonical (setWatched_canonical g0))) (by (try dsimp only); first | (split; exact (ite_canonical (decideFallback_canonical g0) g0); exact g0) | (split <;> first | exact (ite_canonical (decideFallback_canonical g0) g0) | exact g0)))

theorem pruneWatched_canonical {a0 a1} (g0 : Canonical a1) : Canonical (pruneWatched a0 a1) := by
  unfold pruneWatched
  try dsimp only
  exact (setWatched_canonical g0)

theorem ringPresent_canonical {a0 a1 a2} (g0 : Canonical a2) : Canonical (ringPresent a0 a1 a2) := by
  unfold ringPresent
  try dsimp only
  exact (ite_canonical (setRing_canonical (addObj_canonical g0)) (ite_canonical g0 (by (try dsimp only); first | (split; exact (setRing_canonical (setObj_canonical g0)); exact (setRing_canonical (addObj_canonical g0))) | (split <;> first | exact (setRing_canonical (setObj_canonical g0)) | exact (setRing_canonical (addObj_canonical g0))))))

theorem presentFrame_canonical {a0 a1 a2 a3} (g0 : Canonical a3) : Canonical (presentFrame a0 a1 a2 a3) := by
  unfold presentFrame
  try dsimp only
  exact (pruneWatched_canonical (ite_canonical (setPort_canonical (ite_canonical (addObj_canonical (setObj_canonical (updWatched_canonical g0))) (setObj_canonical (updWatched_canonical g0)))) (ringPresent_canonical (ite_canonical (addObj_canonical (setObj_canonical (updWatched_canonical g0))) (setObj_canonical (updWatched_canonical g0))))))

theorem execLateCheck_canonical {a0 a1} (g0 : Canonical a1) : CanonOut (execLateCheck a0 a1) := by
  unfold execLateCheck
  try dsimp only
  exact (whenLive_canonical g0 (fun _ h0 => (by (try dsimp only); first | (split; exact h0; exact (ite_canonical (presentFrame_canonical h0) (presentFrame_canonical (capture_canonical (addObj_canonical (addObj_canonical h0)))))) | (split <;> first | exact h0 | exact (ite_canonical (presentFrame_canonical h0) (presentFrame_canonical (capture_canonical (addObj_canonical (addObj_canonical h0)))))))))

theorem handFrames_canonical {a0 a1 a2 a3} (g0 : Canonical a3) : Canonical (handFrames a0 a1 a2 a3) := by
  unfold handFrames
  try dsimp only
  exact (foldl_canonical (fun _ _ h0 => (handFrame_canonical h0)) g0)

theorem setOverlay_canonical {a0 a1 a2} (g0 : Canonical a2) : Canonical (setOverlay a0 a1 a2) := by
  unfold setOverlay
  try dsimp only
  exact (upd_st_canonical (fun h => { h.st with overlays := by (try dsimp only); exact (h.st.overlays.set _ _) }) g0)

theorem noteSlack_canonical {a0 a1 a2} (g0 : Canonical a2) : Canonical (noteSlack a0 a1 a2) := by
  unfold noteSlack
  try dsimp only
  exact (ite_canonical (setObj_canonical g0) g0)

theorem switchFrame_canonical {a0 a1 a2} (g0 : Canonical a2) : Canonical (switchFrame a0 a1 a2) := by
  unfold switchFrame
  have h1 : ∀ {x y p q r}, Canonical (decideFallback a0 a1.o true (useFree (capture 0x0407 p a0 q r 0 (setObj x y (addObj (oDlmSwitches a0) 1 (addObj oDlmSwitchesTotal 1 a2)))))) :=
    decideFallback_canonical (useFree_canonical (capture_canonical (setObj_canonical (addObj_canonical (addObj_canonical g0)))))
  dsimp only
  split
  · exact noteSlack_canonical h1
  · exact h1

theorem execFallbackPublishStep_canonical {a0 a1} (g0 : Canonical a1) : CanonOut (execFallbackPublishStep a0 a1) := by
  unfold execFallbackPublishStep
  try dsimp only
  exact (whenLive_canonical g0 (fun _ h0 => (by (try dsimp only); first | (split; exact h0; exact (by (try dsimp only); first | (split; exact (upd_st_canonical (fun h => { h.st with  }) h0); exact (by (try dsimp only); first | (split; exact (upd_st_canonical (fun h => { h.st with  }) h0); exact (ite_canonical h0 (ite_canonical (updWatched_canonical (upd_st_canonical (fun h => { h.st with  }) (publishTail_canonical (updSlot_canonical h0)))) (upd_st_canonical (fun h => { h.st with  }) (publishTail_canonical (updSlot_canonical h0)))))) | (split <;> first | exact (upd_st_canonical (fun h => { h.st with  }) h0) | exact (ite_canonical h0 (ite_canonical (updWatched_canonical (upd_st_canonical (fun h => { h.st with  }) (publishTail_canonical (updSlot_canonical h0)))) (upd_st_canonical (fun h => { h.st with  }) (publishTail_canonical (updSlot_canonical h0)))))))) | (split <;> first | exact (upd_st_canonical (fun h => { h.st with  }) h0) | exact (by (try dsimp only); first | (split; exact (upd_st_canonical (fun h => { h.st with  }) h0); exact (ite_canonical h0 (ite_canonical (updWatched_canonical (upd_st_canonical (fun h => { h.st with  }) (publishTail_canonical (updSlot_canonical h0)))) (upd_st_canonical (fun h => { h.st with  }) (publishTail_canonical (updSlot_canonical h0)))))) | (split <;> first | exact (upd_st_canonical (fun h => { h.st with  }) h0) | exact (ite_canonical h0 (ite_canonical (updWatched_canonical (upd_st_canonical (fun h => { h.st with  }) (publishTail_canonical (updSlot_canonical h0)))) (upd_st_canonical (fun h => { h.st with  }) (publishTail_canonical (updSlot_canonical h0)))))))))) | (split <;> first | exact h0 | exact (by (try dsimp only); first | (split; exact (upd_st_canonical (fun h => { h.st with  }) h0); exact (by (try dsimp only); first | (split; exact (upd_st_canonical (fun h => { h.st with  }) h0); exact (ite_canonical h0 (ite_canonical (updWatched_canonical (upd_st_canonical (fun h => { h.st with  }) (publishTail_canonical (updSlot_canonical h0)))) (upd_st_canonical (fun h => { h.st with  }) (publishTail_canonical (updSlot_canonical h0)))))) | (split <;> first | exact (upd_st_canonical (fun h => { h.st with  }) h0) | exact (ite_canonical h0 (ite_canonical (updWatched_canonical (upd_st_canonical (fun h => { h.st with  }) (publishTail_canonical (updSlot_canonical h0)))) (upd_st_canonical (fun h => { h.st with  }) (publishTail_canonical (updSlot_canonical h0)))))))) | (split <;> first | exact (upd_st_canonical (fun h => { h.st with  }) h0) | exact (by (try dsimp only); first | (split; exact (upd_st_canonical (fun h => { h.st with  }) h0); exact (ite_canonical h0 (ite_canonical (updWatched_canonical (upd_st_canonical (fun h => { h.st with  }) (publishTail_canonical (updSlot_canonical h0)))) (upd_st_canonical (fun h => { h.st with  }) (publishTail_canonical (updSlot_canonical h0)))))) | (split <;> first | exact (upd_st_canonical (fun h => { h.st with  }) h0) | exact (ite_canonical h0 (ite_canonical (updWatched_canonical (upd_st_canonical (fun h => { h.st with  }) (publishTail_canonical (updSlot_canonical h0)))) (upd_st_canonical (fun h => { h.st with  }) (publishTail_canonical (updSlot_canonical h0)))))))))))))

theorem execCheckpoint_canonical {a0 a1} (g0 : Canonical a1) : CanonOut (execCheckpoint a0 a1) := by
  unfold execCheckpoint
  try dsimp only
  exact (whenLive_canonical g0 (fun _ h0 => (by (try dsimp only); first | (split; exact h0; exact (ite_canonical h0 (ite_canonical (presentFrame_canonical (noteSlack_canonical (updWatched_canonical h0))) (switchFrame_canonical h0)))) | (split <;> first | exact h0 | exact (ite_canonical h0 (ite_canonical (presentFrame_canonical (noteSlack_canonical (updWatched_canonical h0))) (switchFrame_canonical h0)))))))

theorem addSource_canonical {a0 a1 a2} (g0 : Canonical a2) : Canonical (addSource a0 a1 a2) := by
  unfold addSource
  try dsimp only
  exact (by (try dsimp only); first | (split; exact g0; exact (by (try dsimp only); first | (split; exact g0; exact (updSeq_canonical g0)) | (split <;> first | exact g0 | exact (updSeq_canonical g0)))) | (split <;> first | exact g0 | exact (by (try dsimp only); first | (split; exact g0; exact (updSeq_canonical g0)) | (split <;> first | exact g0 | exact (updSeq_canonical g0)))))

theorem execSourceGap_canonical {a0 a1} (g0 : Canonical a1) : CanonOut (execSourceGap a0 a1) := by
  unfold execSourceGap
  try dsimp only
  exact (whenLive_canonical g0 (fun _ h0 => (ite_canonical (handFrames_canonical (capture_canonical (setObj_canonical (addObj_canonical (updSeq_canonical h0))))) h0)))

theorem deferFrame_canonical {a0 a1 a2} (g0 : Canonical a2) : Canonical (deferFrame a0 a1 a2) := by
  unfold deferFrame
  try dsimp only
  exact (deferEvent_canonical (updSeq_canonical g0))

theorem setSeqStatus_canonical {a0 a1 a2 a3 a4} (g0 : Canonical a4) : Canonical (setSeqStatus a0 a1 a2 a3 a4) := by
  unfold setSeqStatus
  try dsimp only
  exact (setObj_canonical g0)

theorem publishOne_canonical {a0 a1 a2 a3 a4 a5 a6 a7} (g0 : Canonical a7) : Canonical (publishOne a0 a1 a2 a3 a4 a5 a6 a7) := by
  unfold publishOne
  try dsimp only
  exact (ite_canonical (ite_canonical (abandonStep_canonical (publishTail_canonical (updSlot_canonical (ite_canonical (updWatched_canonical (setSeq_canonical g0)) (setSeq_canonical g0))))) (publishTail_canonical (updSlot_canonical (ite_canonical (updWatched_canonical (setSeq_canonical g0)) (setSeq_canonical g0))))) (upd_st_canonical (fun h => { h.st with  }) (ite_canonical (abandonStep_canonical (publishTail_canonical (updSlot_canonical (ite_canonical (updWatched_canonical (setSeq_canonical g0)) (setSeq_canonical g0))))) (publishTail_canonical (updSlot_canonical (ite_canonical (updWatched_canonical (setSeq_canonical g0)) (setSeq_canonical g0)))))))

theorem startWarm_canonical {a0 a1 a2} (g0 : Canonical a2) : Canonical (startWarm a0 a1 a2) := by
  unfold startWarm
  try dsimp only
  exact (capture_canonical (setObj_canonical (setSeq_canonical g0)))

theorem dropFresh_canonical {a0 a1} (g0 : Canonical a1) : Canonical (dropFresh a0 a1) := by
  unfold dropFresh
  try dsimp only
  exact (by (try dsimp only); first | (split; exact g0; exact (updSeq_canonical g0)) | (split <;> first | exact g0 | exact (updSeq_canonical g0)))

theorem declareCut_canonical {a0 a1 a2 a3} (g0 : Canonical a3) : Canonical (declareCut a0 a1 a2 a3) := by
  unfold declareCut
  try dsimp only
  exact (ite_canonical g0 (capture_canonical (startWarm_canonical (handFrames_canonical (dropFresh_canonical (setSeq_canonical g0))))))

theorem compareCut_canonical {a0 a1 a2} (g0 : Canonical a2) : Canonical (compareCut a0 a1 a2) := by
  unfold compareCut
  try dsimp only
  exact (ite_canonical (declareCut_canonical (updSeq_canonical g0)) (updSeq_canonical g0))

theorem noticeCuts_canonical {a0} (g0 : Canonical a0) : Canonical (noticeCuts a0) := by
  unfold noticeCuts
  try dsimp only
  exact (foldl_canonical (fun _ _ h0 => (foldl_canonical (fun _ _ h1 => (compareCut_canonical h1)) h0)) g0)

theorem execSyncUpdateApply_canonical {a0 a1} (g0 : Canonical a1) : CanonOut (execSyncUpdateApply a0 a1) := by
  unfold execSyncUpdateApply
  try dsimp only
  exact (whenLive_canonical g0 (fun _ h0 => (noticeCuts_canonical (applyFrom_canonical h0))))

theorem stopNow_canonical {a0 a1} (g0 : Canonical a1) : Canonical (stopNow a0 a1) := by
  unfold stopNow
  try dsimp only
  exact (setObj_canonical (updSeq_canonical (foldl_canonical (fun _ _ h0 => (handFrame_canonical h0)) (setWatched_canonical g0))))

theorem addOutput_canonical {a0 a1 a2 a3} (g0 : Canonical a3) : Canonical (addOutput a0 a1 a2 a3) := by
  unfold addOutput
  try dsimp only
  exact (by (try dsimp only); first | (split; exact (handFrame_canonical g0); exact (by (try dsimp only); first | (split; exact (handFrame_canonical g0); exact (updSeq_canonical (setWatched_canonical g0))) | (split <;> first | exact (handFrame_canonical g0) | exact (updSeq_canonical (setWatched_canonical g0))))) | (split <;> first | exact (handFrame_canonical g0) | exact (by (try dsimp only); first | (split; exact (handFrame_canonical g0); exact (updSeq_canonical (setWatched_canonical g0))) | (split <;> first | exact (handFrame_canonical g0) | exact (updSeq_canonical (setWatched_canonical g0))))))

theorem noticeWatched_canonical {a0 a1 a2} (g0 : Canonical a2) : Canonical (noticeWatched a0 a1 a2) := by
  unfold noticeWatched
  try dsimp only
  exact (pruneWatched_canonical (foldl_canonical (fun _ _ h0 => (ite_canonical (noteSlack_canonical h0) h0)) (setWatched_canonical g0)))

theorem noticeSteps_canonical {a0 a1} (g0 : Canonical a1) : Canonical (noticeSteps a0 a1) := by
  unfold noticeSteps
  try dsimp only
  exact (foldl_canonical (fun _ _ h0 => (ite_canonical h0 (setSeq_canonical (noticeWatched_canonical h0)))) g0)

theorem storeRing_canonical {a0 a1 a2 a3} (g0 : Canonical a3) : Canonical (storeRing a0 a1 a2 a3) := by
  unfold storeRing
  try dsimp only
  exact (updSeq_canonical g0)

theorem undoAdmission_canonical {a0 a1 a2} (g0 : Canonical a2) : Canonical (undoAdmission a0 a1 a2) := by
  unfold undoAdmission
  try dsimp only
  exact (upd_st_canonical (fun h => { h.st with  }) (setWatched_canonical (updSeq_canonical g0)))

theorem finishStop_canonical {a0 a1} (g0 : Canonical a1) : Canonical (finishStop a0 a1) := by
  unfold finishStop
  try dsimp only
  exact (capture_canonical (setSeqStatus_canonical (setObj_canonical (upd_st_canonical (fun h => { h.st with audio := by (try dsimp only); exact (h.st.audio.erase _) }) (setWatched_canonical (setSeq_canonical (setObj_canonical g0)))))))

theorem seqStop_canonical {a0 a1} (g0 : Canonical a1) : Canonical (seqStop a0 a1) := by
  unfold seqStop
  try dsimp only
  exact (ite_canonical (finishStop_canonical g0) (ite_canonical (by (try dsimp only); first | (split; exact (stopNow_canonical (undoAdmission_canonical g0)); exact (updSeq_canonical g0)) | (split <;> first | exact (stopNow_canonical (undoAdmission_canonical g0)) | exact (updSeq_canonical g0))) g0))

theorem noteAdmitted_canonical {a0 a1 a2} (g0 : Canonical a2) : Canonical (noteAdmitted a0 a1 a2) := by
  unfold noteAdmitted
  try dsimp only
  exact (setObj_canonical (updSeq_canonical (upd_now_canonical g0)))

theorem joinStream_canonical {a0 a1 a2} (g0 : Canonical a2) : Canonical (joinStream a0 a1 a2) := by
  unfold joinStream
  try dsimp only
  exact (handFrame_canonical (addSource_canonical (ite_canonical (declareCut_canonical (noteAdmitted_canonical (setObj_canonical (setObj_canonical (setSeq_canonical g0))))) (startWarm_canonical (noteAdmitted_canonical (setObj_canonical (setObj_canonical (setSeq_canonical g0))))))))

theorem admitFrame_canonical {a0 a1 a2} (g0 : Canonical a2) : Canonical (admitFrame a0 a1 a2) := by
  unfold admitFrame
  try dsimp only
  exact (ite_canonical (stopNow_canonical (noteAdmitted_canonical g0)) (ite_canonical (handFrames_canonical (updSeq_canonical (addSource_canonical (ite_canonical (declareCut_canonical (updSeq_canonical (noteAdmitted_canonical g0))) (ite_canonical (startWarm_canonical (updSeq_canonical (noteAdmitted_canonical g0))) (noteAdmitted_canonical g0)))))) (addOutput_canonical (foldl_canonical (fun _ _ h0 => (ite_canonical (addOutput_canonical h0) (handFrame_canonical h0))) (addSource_canonical (ite_canonical (declareCut_canonical (updSeq_canonical (noteAdmitted_canonical g0))) (ite_canonical (startWarm_canonical (updSeq_canonical (noteAdmitted_canonical g0))) (noteAdmitted_canonical g0))))))))

theorem takeFrameIn_canonical {a0 a1} (g0 : Canonical a1) : Canonical (takeFrameIn a0 a1) := by
  unfold takeFrameIn
  try dsimp only
  exact (by (try dsimp only); first | (split; exact g0; exact (by (try dsimp only); first | (split; exact (joinStream_canonical (updSeq_canonical g0)); exact (admitFrame_canonical (updSeq_canonical g0)); exact (admitFrame_canonical (updSeq_canonical g0)); exact (updSeq_canonical g0)) | (split <;> first | exact (joinStream_canonical (updSeq_canonical g0)) | exact (admitFrame_canonical (updSeq_canonical g0)) | exact (updSeq_canonical g0)))) | (split <;> first | exact g0 | exact (by (try dsimp only); first | (split; exact (joinStream_canonical (updSeq_canonical g0)); exact (admitFrame_canonical (updSeq_canonical g0)); exact (admitFrame_canonical (updSeq_canonical g0)); exact (updSeq_canonical g0)) | (split <;> first | exact (joinStream_canonical (updSeq_canonical g0)) | exact (admitFrame_canonical (updSeq_canonical g0)) | exact (updSeq_canonical g0)))))

theorem dropFrame_canonical {a0 a1 a2} (g0 : Canonical a2) : Canonical (dropFrame a0 a1 a2) := by
  unfold dropFrame
  try dsimp only
  exact (capture_canonical (addObj_canonical g0))

theorem sourceFrame_canonical {a0 a1 a2 a3} (g0 : Canonical a3) : Canonical (sourceFrame a0 a1 a2 a3) := by
  unfold sourceFrame
  try dsimp only
  exact (by (try dsimp only); first | (split; exact (updSeq_canonical (storeRing_canonical g0)); exact (ite_canonical (dropFrame_canonical (storeRing_canonical g0)) (ite_canonical (deferFrame_canonical (storeRing_canonical g0)) (joinStream_canonical (storeRing_canonical g0)))); exact (ite_canonical (dropFrame_canonical (storeRing_canonical g0)) (ite_canonical (ite_canonical (deferFrame_canonical (storeRing_canonical g0)) (admitFrame_canonical (storeRing_canonical g0))) (ite_canonical (dropFrame_canonical (storeRing_canonical g0)) g0))); exact (ite_canonical (dropFrame_canonical (storeRing_canonical g0)) (ite_canonical (ite_canonical (deferFrame_canonical (storeRing_canonical g0)) (admitFrame_canonical (storeRing_canonical g0))) (ite_canonical (dropFrame_canonical (storeRing_canonical g0)) g0))); exact g0) | (split <;> first | exact (updSeq_canonical (storeRing_canonical g0)) | exact (ite_canonical (dropFrame_canonical (storeRing_canonical g0)) (ite_canonical (deferFrame_canonical (storeRing_canonical g0)) (joinStream_canonical (storeRing_canonical g0)))) | exact (ite_canonical (dropFrame_canonical (storeRing_canonical g0)) (ite_canonical (ite_canonical (deferFrame_canonical (storeRing_canonical g0)) (admitFrame_canonical (storeRing_canonical g0))) (ite_canonical (dropFrame_canonical (storeRing_canonical g0)) g0))) | exact g0))

theorem takeEvent_canonical {a0 a1 a2} (g0 : Canonical a2) : Canonical (takeEvent a0 a1 a2) := by
  unfold takeEvent
  try dsimp only
  exact (by (try dsimp only); first | (split; exact (doPartition_canonical g0); exact (sendUpdate_canonical g0); exact (applyTail_canonical g0); exact (markJob_canonical g0); exact (unmarkJob_canonical g0); exact (takeFrameIn_canonical g0)) | (split <;> first | exact (doPartition_canonical g0) | exact (sendUpdate_canonical g0) | exact (applyTail_canonical g0) | exact (markJob_canonical g0) | exact (unmarkJob_canonical g0) | exact (takeFrameIn_canonical g0)))

theorem execAdmissionPoint_canonical {a0} (g0 : Canonical a0) : CanonOut (execAdmissionPoint a0) := by
  unfold execAdmissionPoint
  try dsimp only
  exact (whenLive_canonical g0 (fun _ h0 => (ite_canonical (noticeCuts_canonical (foldl_canonical (fun _ _ h1 => (takeEvent_canonical h1)) (foldl_canonical (fun _ _ h1 => (updPart_canonical h1)) h0))) h0)))

theorem countCut_canonical {a0 a1 a2} (g0 : Canonical a2) : Canonical (countCut a0 a1 a2) := by
  unfold countCut
  try dsimp only
  exact (ite_canonical (addObj_canonical (addObj_canonical g0)) g0)

theorem execCommitGrant_canonical {a0 a1 a2 a3} (g0 : Canonical a3) : CanonOut (execCommitGrant a0 a1 a2 a3) := by
  unfold execCommitGrant
  try dsimp only
  exact (whenLive_canonical g0 (fun _ h0 => (ite_canonical (noticeSteps_canonical (countCut_canonical (grantCommit_canonical h0))) h0)))

theorem startAudio_canonical {a0 a1} (g0 : Canonical a1) : Canonical (startAudio a0 a1) := by
  unfold startAudio
  try dsimp only
  exact (ite_canonical (setObj_canonical g0) (ite_canonical (capture_canonical (setObj_canonical g0)) (setObj_canonical g0)))

theorem seqStart_canonical {a0 a1} (g0 : Canonical a1) : Canonical (seqStart a0 a1).1 := by
  unfold seqStart
  try dsimp only
  exact (ite_fst_canonical (fst_canonical (capture_canonical (startAudio_canonical (setObj_canonical (upd_st_canonical (fun h => { h.st with overlays := by (try dsimp only); exact (h.st.overlays.erase _) }) (setObj_canonical (setObj_canonical (setObj_canonical (setObj_canonical (setObj_canonical (setObj_canonical (setObj_canonical (setSeqStatus_canonical g0))))))))))))) (fst_canonical (capture_canonical (ite_canonical (updSeq_canonical (setSeqStatus_canonical g0)) (setSeqStatus_canonical g0)))))

theorem seqForce_canonical {a0 a1} (g0 : Canonical a1) : Canonical (seqForce a0 a1) := by
  unfold seqForce
  try dsimp only
  exact (ite_canonical g0 (updSeq_canonical g0))

theorem wSeqCommand_canonical {a0 a1 a2 a3} (g0 : Canonical a3) : Canonical (wSeqCommand a0 a1 a2 a3).1 := by
  unfold wSeqCommand
  try dsimp only
  exact (by (try dsimp only); first | (split; exact (seqStart_canonical g0); exact (fst_canonical (seqStop_canonical g0)); exact (fst_canonical (seqForce_canonical g0)); exact (fst_canonical (refuse_canonical g0))) | (split <;> first | exact (seqStart_canonical g0) | exact (fst_canonical (seqStop_canonical g0)) | exact (fst_canonical (seqForce_canonical g0)) | exact (fst_canonical (refuse_canonical g0))))

theorem execForceCut_canonical {a0 a1 a2} (g0 : Canonical a2) : CanonOut (execForceCut a0 a1 a2) := by
  unfold execForceCut
  try dsimp only
  exact (whenFree_canonical g0 (fun _ h0 => (ackWrite_canonical (wSeqCommand_canonical h0))))

theorem execAbandonedRetire_canonical {a0 a1 a2 a3} (g0 : Canonical a3) : CanonOut (execAbandonedRetire a0 a1 a2 a3) := by
  unfold execAbandonedRetire
  try dsimp only
  exact (whenLive_canonical g0 (fun _ h0 => (ite_canonical (noticeSteps_canonical (advanceCommit_canonical (setSlot_canonical (sendSignal_canonical (bumpStep_canonical h0))))) h0)))

theorem execCommitSignal_canonical {a0 a1 a2 a3} (g0 : Canonical a3) : CanonOut (execCommitSignal a0 a1 a2 a3) := by
  unfold execCommitSignal
  try dsimp only
  exact (whenLive_canonical g0 (fun _ h0 => (ite_canonical (noticeCuts_canonical (advanceCommit_canonical (updSlot_canonical (sendCommitSignals_canonical (ite_canonical (passCycle_canonical h0) h0))))) h0)))

theorem execStreamStop_canonical {a0 a1 a2} (g0 : Canonical a2) : CanonOut (execStreamStop a0 a1 a2) := by
  unfold execStreamStop
  try dsimp only
  exact (whenFree_canonical g0 (fun _ h0 => (ackWrite_canonical (wSeqCommand_canonical h0))))

theorem execPublishStep_canonical {a0 a1} (g0 : Canonical a1) : CanonOut (execPublishStep a0 a1) := by
  unfold execPublishStep
  try dsimp only
  exact (whenLive_canonical g0 (fun _ h0 => (ite_canonical (by (try dsimp only); first | (split; exact (publishOne_canonical h0); exact h0) | (split <;> first | exact (publishOne_canonical h0) | exact h0)) h0)))

theorem resumeSeq_canonical {a0 a1} (g0 : Canonical a1) : Canonical (resumeSeq a0 a1) := by
  unfold resumeSeq
  try dsimp only
  exact (by (try dsimp only); first | (split; exact g0; exact (by (try dsimp only); first | (split; exact (foldl_canonical (fun _ _ h0 => (handFrame_canonical h0)) (setSeq_canonical g0)); exact (ite_canonical (startWarm_canonical (foldl_canonical (fun _ _ h0 => (handFrame_canonical h0)) (setSeq_canonical g0))) (foldl_canonical (fun _ _ h0 => (handFrame_canonical h0)) (setSeq_canonical g0)))) | (split <;> first | exact (foldl_canonical (fun _ _ h0 => (handFrame_canonical h0)) (setSeq_canonical g0)) | exact (ite_canonical (startWarm_canonical (foldl_canonical (fun _ _ h0 => (handFrame_canonical h0)) (setSeq_canonical g0))) (foldl_canonical (fun _ _ h0 => (handFrame_canonical h0)) (setSeq_canonical g0)))))) | (split <;> first | exact g0 | exact (by (try dsimp only); first | (split; exact (foldl_canonical (fun _ _ h0 => (handFrame_canonical h0)) (setSeq_canonical g0)); exact (ite_canonical (startWarm_canonical (foldl_canonical (fun _ _ h0 => (handFrame_canonical h0)) (setSeq_canonical g0))) (foldl_canonical (fun _ _ h0 => (handFrame_canonical h0)) (setSeq_canonical g0)))) | (split <;> first | exact (foldl_canonical (fun _ _ h0 => (handFrame_canonical h0)) (setSeq_canonical g0)) | exact (ite_canonical (startWarm_canonical (foldl_canonical (fun _ _ h0 => (handFrame_canonical h0)) (setSeq_canonical g0))) (foldl_canonical (fun _ _ h0 => (handFrame_canonical h0)) (setSeq_canonical g0)))))))

theorem execResetQueueClear_canonical {a0 a1} (g0 : Canonical a1) : CanonOut (execResetQueueClear a0 a1) := by
  unfold execResetQueueClear
  try dsimp only
  exact (whenLive_canonical g0 (fun _ h0 => (ite_canonical (foldl_canonical (fun _ _ h1 => (ite_canonical (resumeSeq_canonical h1) h1)) (endReset_canonical (clearQueues_canonical h0))) h0)))

theorem endWarms_canonical {a0} (g0 : Canonical a0) : Canonical (endWarms a0) := by
  unfold endWarms
  try dsimp only
  exact (foldl_canonical (fun _ _ h0 => (by (try dsimp only); first | (split; exact (ite_canonical (capture_canonical (setObj_canonical (setSeq_canonical h0))) (setSeq_canonical h0)); exact h0) | (split <;> first | exact (ite_canonical (capture_canonical (setObj_canonical (setSeq_canonical h0))) (setSeq_canonical h0)) | exact h0))) g0)

theorem execWithdrawalListRetire_canonical {a0 a1} (g0 : Canonical a1) : CanonOut (execWithdrawalListRetire a0 a1) := by
  unfold execWithdrawalListRetire
  try dsimp only
  exact (whenLive_canonical g0 (fun _ h0 => (by (try dsimp only); first | (split; exact (ite_canonical h0 (noticeSteps_canonical (withdrawDoomed_canonical (sendSignal_canonical (addObj_canonical (updPart_canonical h0)))))); exact h0) | (split <;> first | exact (ite_canonical h0 (noticeSteps_canonical (withdrawDoomed_canonical (sendSignal_canonical (addObj_canonical (updPart_canonical h0)))))) | exact h0))))

theorem execStreamStart_canonical {a0 a1 a2} (g0 : Canonical a2) : CanonOut (execStreamStart a0 a1 a2) := by
  unfold execStreamStart
  try dsimp only
  exact (whenFree_canonical g0 (fun _ h0 => (ackWrite_canonical (wSeqCommand_canonical h0))))

theorem execRetireRefused_canonical {a0 a1 a2 a3} (g0 : Canonical a3) : CanonOut (execRetireRefused a0 a1 a2 a3) := by
  unfold execRetireRefused
  try dsimp only
  exact (whenLive_canonical g0 (fun _ h0 => (by (try dsimp only); first | (split; exact (ite_canonical (noticeCuts_canonical (noticeSteps_canonical (advanceCommit_canonical (setSlot_canonical (bumpStep_canonical h0))))) h0); exact h0) | (split <;> first | exact (ite_canonical (noticeCuts_canonical (noticeSteps_canonical (advanceCommit_canonical (setSlot_canonical (bumpStep_canonical h0))))) h0) | exact h0))))

theorem execStopComplete_canonical {a0 a1} (g0 : Canonical a1) : CanonOut (execStopComplete a0 a1) := by
  unfold execStopComplete
  try dsimp only
  exact (whenLive_canonical g0 (fun _ h0 => (ite_canonical (finishStop_canonical h0) h0)))

theorem execBinningStart_canonical {a0 a1} (g0 : Canonical a1) : CanonOut (execBinningStart a0 a1) := by
  unfold execBinningStart
  try dsimp only
  exact (whenLive_canonical g0 (fun _ h0 => (ite_canonical (addObj_canonical (setOverlay_canonical h0)) h0)))

theorem attachRings_canonical {a0 a1 a2} (g0 : Canonical a2) : Canonical (attachRings a0 a1 a2) := by
  unfold attachRings
  try dsimp only
  exact (ite_canonical (setRing_canonical g0) g0)

theorem execBinningDeadline_canonical {a0 a1} (g0 : Canonical a1) : CanonOut (execBinningDeadline a0 a1) := by
  unfold execBinningDeadline
  try dsimp only
  exact (whenLive_canonical g0 (fun _ h0 => (by (try dsimp only); first | (split; exact h0; exact (ite_canonical (by (try dsimp only); first | (split; exact (attachRings_canonical (addObj_canonical (setOverlay_canonical h0))); exact (attachRings_canonical (capture_canonical (setObj_canonical (addObj_canonical (addObj_canonical (setOverlay_canonical h0))))))) | (split <;> first | exact (attachRings_canonical (addObj_canonical (setOverlay_canonical h0))) | exact (attachRings_canonical (capture_canonical (setObj_canonical (addObj_canonical (addObj_canonical (setOverlay_canonical h0)))))))) h0)) | (split <;> first | exact h0 | exact (ite_canonical (by (try dsimp only); first | (split; exact (attachRings_canonical (addObj_canonical (setOverlay_canonical h0))); exact (attachRings_canonical (capture_canonical (setObj_canonical (addObj_canonical (addObj_canonical (setOverlay_canonical h0))))))) | (split <;> first | exact (attachRings_canonical (addObj_canonical (setOverlay_canonical h0))) | exact (attachRings_canonical (capture_canonical (setObj_canonical (addObj_canonical (addObj_canonical (setOverlay_canonical h0)))))))) h0)))))

theorem setStrip_canonical {a0 a1 a2 a3 a4} (g0 : Canonical a4) : Canonical (setStrip a0 a1 a2 a3 a4) := by
  unfold setStrip
  try dsimp only
  exact (useFree_canonical (setOverlay_canonical g0))

theorem setOutGen_canonical {a0 a1 a2} (g0 : Canonical a2) : Canonical (setOutGen a0 a1 a2) := by
  unfold setOutGen
  try dsimp only
  exact (ite_canonical (setPort_canonical g0) (setRing_canonical g0))

theorem pulseGen_canonical {a0 a1 a2 a3} (g0 : Canonical a3) : Canonical (pulseGen a0 a1 a2 a3) := by
  unfold pulseGen
  try dsimp only
  exact (by (try dsimp only); first | (split; exact g0; exact (by (try dsimp only); first | (split; exact (setOutGen_canonical g0); exact (setOutGen_canonical g0)) | (split <;> first | exact (setOutGen_canonical g0)))) | (split <;> first | exact g0 | exact (by (try dsimp only); first | (split; exact (setOutGen_canonical g0); exact (setOutGen_canonical g0)) | (split <;> first | exact (setOutGen_canonical g0)))))

theorem wGenlockSlew_canonical {a0 a1 a2} (g0 : Canonical a2) : Canonical (wGenlockSlew a0 a1 a2).1 := by
  unfold wGenlockSlew
  try dsimp only
  exact (ite_fst_canonical (fst_canonical (refuse_canonical g0)) (fst_canonical (foldl_canonical (fun _ _ h0 => (by (try dsimp only); first | (split; exact (setOutGen_canonical h0); exact h0) | (split <;> first | exact (setOutGen_canonical h0) | exact h0))) (setObj_canonical g0))))

theorem setGenlock_canonical {a0 a1} (g0 : Canonical a1) : Canonical (setGenlock a0 a1) := by
  unfold setGenlock
  try dsimp only
  exact (ite_canonical g0 (capture_canonical (setObj_canonical g0)))

theorem execGenlockLoss_canonical {a0} (g0 : Canonical a0) : CanonOut (execGenlockLoss a0) := by
  unfold execGenlockLoss
  try dsimp only
  exact (whenLive_canonical g0 (fun _ h0 => (by (try dsimp only); first | (split; exact h0; exact (ite_canonical h0 (foldl_canonical (fun _ _ h1 => (by (try dsimp only); first | (split; exact (ite_canonical (by (try dsimp only); first | (split; exact (setOutGen_canonical h1); exact (setOutGen_canonical h1)) | (split <;> first | exact (setOutGen_canonical h1))) h1); exact h1) | (split <;> first | exact (ite_canonical (by (try dsimp only); first | (split; exact (setOutGen_canonical h1); exact (setOutGen_canonical h1)) | (split <;> first | exact (setOutGen_canonical h1))) h1) | exact h1))) (setGenlock_canonical (upd_clk_canonical h0))))) | (split <;> first | exact h0 | exact (ite_canonical h0 (foldl_canonical (fun _ _ h1 => (by (try dsimp only); first | (split; exact (ite_canonical (by (try dsimp only); first | (split; exact (setOutGen_canonical h1); exact (setOutGen_canonical h1)) | (split <;> first | exact (setOutGen_canonical h1))) h1); exact h1) | (split <;> first | exact (ite_canonical (by (try dsimp only); first | (split; exact (setOutGen_canonical h1); exact (setOutGen_canonical h1)) | (split <;> first | exact (setOutGen_canonical h1))) h1) | exact h1))) (setGenlock_canonical (upd_clk_canonical h0))))))))

theorem slavedPulse_canonical {a0 a1 a2} (g0 : Canonical a2) : Canonical (slavedPulse a0 a1 a2) := by
  unfold slavedPulse
  try dsimp only
  exact (foldl_canonical (fun _ _ h0 => (ite_canonical (pulseGen_canonical h0) h0)) g0)

theorem execGenlockPulse_canonical {a0} (g0 : Canonical a0) : CanonOut (execGenlockPulse a0) := by
  unfold execGenlockPulse
  try dsimp only
  exact (whenLive_canonical g0 (fun _ h0 => (by (try dsimp only); first | (split; exact (setGenlock_canonical (upd_clk_canonical h0)); exact (ite_canonical (upd_clk_canonical h0) (ite_canonical (setObj_canonical (upd_clk_canonical h0)) (foldl_canonical (fun _ _ h1 => (ite_canonical (pulseGen_canonical h1) h1)) (setGenlock_canonical (setObj_canonical (upd_clk_canonical h0))))))) | (split <;> first | exact (setGenlock_canonical (upd_clk_canonical h0)) | exact (ite_canonical (upd_clk_canonical h0) (ite_canonical (setObj_canonical (upd_clk_canonical h0)) (foldl_canonical (fun _ _ h1 => (ite_canonical (pulseGen_canonical h1) h1)) (setGenlock_canonical (setObj_canonical (upd_clk_canonical h0))))))))))

theorem execBinRowRender_canonical {a0 a1 a2} (g0 : Canonical a2) : CanonOut (execBinRowRender a0 a1 a2) := by
  unfold execBinRowRender
  try dsimp only
  exact (whenLive_canonical g0 (fun _ h0 => (ite_canonical (by (try dsimp only); first | (split; exact (ite_canonical (setStrip_canonical h0) h0); exact h0) | (split <;> first | exact (ite_canonical (setStrip_canonical h0) h0) | exact h0)) (by (try dsimp only); first | (split; exact (by (try dsimp only); first | (split; exact h0; exact (by (try dsimp only); first | (split; exact h0; exact (ite_canonical (setStrip_canonical h0) h0)) | (split <;> first | exact h0 | exact (ite_canonical (setStrip_canonical h0) h0)))) | (split <;> first | exact h0 | exact (by (try dsimp only); first | (split; exact h0; exact (ite_canonical (setStrip_canonical h0) h0)) | (split <;> first | exact h0 | exact (ite_canonical (setStrip_canonical h0) h0))))); exact h0) | (split <;> first | exact (by (try dsimp only); first | (split; exact h0; exact (by (try dsimp only); first | (split; exact h0; exact (ite_canonical (setStrip_canonical h0) h0)) | (split <;> first | exact h0 | exact (ite_canonical (setStrip_canonical h0) h0)))) | (split <;> first | exact h0 | exact (by (try dsimp only); first | (split; exact h0; exact (ite_canonical (setStrip_canonical h0) h0)) | (split <;> first | exact h0 | exact (ite_canonical (setStrip_canonical h0) h0))))) | exact h0)))))

theorem setPath_canonical {a0 a1 a2} (g0 : Canonical a2) : Canonical (setPath a0 a1 a2) := by
  unfold setPath
  try dsimp only
  exact (upd_io_canonical (fun h => { h.io with paths := by (try dsimp only); exact (h.io.paths.set _ _) }) g0)

theorem stopPaths_canonical {a0 a1} (g0 : Canonical a1) : Canonical (stopPaths a0 a1) := by
  unfold stopPaths
  try dsimp only
  exact (by (try dsimp only); first | (split; exact (ite_canonical (setPath_canonical (setObj_canonical g0)) g0); exact g0) | (split <;> first | exact (ite_canonical (setPath_canonical (setObj_canonical g0)) g0) | exact g0))

theorem refreshLevel_canonical {a0 a1} (g0 : Canonical a1) : Canonical (refreshLevel a0 a1) := by
  unfold refreshLevel
  try dsimp only
  exact (setObj_canonical (setObj_canonical g0))

theorem freeStrips_canonical {a0 a1 a2} (g0 : Canonical a2) : Canonical (freeStrips a0 a1 a2) := by
  unfold freeStrips
  try dsimp only
  exact (setOverlay_canonical g0)

theorem beginFrame_canonical {a0 a1 a2} (g0 : Canonical a2) : Canonical (beginFrame a0 a1 a2) := by
  unfold beginFrame
  try dsimp only
  exact (ite_canonical (refreshPins_canonical (upd_io_canonical (fun h => { h.io with lands := { h.io.lands with  } }) (refreshLevel_canonical (ite_canonical (addObj_canonical (by (try dsimp only); first | (split; exact (ite_canonical (freeStrips_canonical (addObj_canonical (setObj_canonical (setObj_canonical (setPort_canonical g0))))) (setObj_canonical (setObj_canonical (setPort_canonical g0)))); exact (setObj_canonical (setObj_canonical (setPort_canonical g0)))) | (split <;> first | exact (ite_canonical (freeStrips_canonical (addObj_canonical (setObj_canonical (setObj_canonical (setPort_canonical g0))))) (setObj_canonical (setObj_canonical (setPort_canonical g0)))) | exact (setObj_canonical (setObj_canonical (setPort_canonical g0)))))) (by (try dsimp only); first | (split; exact (ite_canonical (freeStrips_canonical (addObj_canonical (setObj_canonical (setObj_canonical (setPort_canonical g0))))) (setObj_canonical (setObj_canonical (setPort_canonical g0)))); exact (setObj_canonical (setObj_canonical (setPort_canonical g0)))) | (split <;> first | exact (ite_canonical (freeStrips_canonical (addObj_canonical (setObj_canonical (setObj_canonical (setPort_canonical g0))))) (setObj_canonical (setObj_canonical (setPort_canonical g0)))) | exact (setObj_canonical (setObj_canonical (setPort_canonical g0))))))))) (refreshLevel_canonical (ite_canonical (addObj_canonical (by (try dsimp only); first | (split; exact (ite_canonical (freeStrips_canonical (addObj_canonical (setObj_canonical (setObj_canonical (setPort_canonical g0))))) (setObj_canonical (setObj_canonical (setPort_canonical g0)))); exact (setObj_canonical (setObj_canonical (setPort_canonical g0)))) | (split <;> first | exact (ite_canonical (freeStrips_canonical (addObj_canonical (setObj_canonical (setObj_canonical (setPort_canonical g0))))) (setObj_canonical (setObj_canonical (setPort_canonical g0)))) | exact (setObj_canonical (setObj_canonical (setPort_canonical g0)))))) (by (try dsimp only); first | (split; exact (ite_canonical (freeStrips_canonical (addObj_canonical (setObj_canonical (setObj_canonical (setPort_canonical g0))))) (setObj_canonical (setObj_canonical (setPort_canonical g0)))); exact (setObj_canonical (setObj_canonical (setPort_canonical g0)))) | (split <;> first | exact (ite_canonical (freeStrips_canonical (addObj_canonical (setObj_canonical (setObj_canonical (setPort_canonical g0))))) (setObj_canonical (setObj_canonical (setPort_canonical g0)))) | exact (setObj_canonical (setObj_canonical (setPort_canonical g0))))))))

theorem noteBoundary_canonical {a0 a1 a2} (g0 : Canonical a2) : Canonical (noteBoundary a0 a1 a2) := by
  unfold noteBoundary
  try dsimp only
  exact (updSeq_canonical g0)

theorem execOutputFrameBoundary_canonical {a0 a1} (g0 : Canonical a1) : CanonOut (execOutputFrameBoundary a0 a1) := by
  unfold execOutputFrameBoundary
  try dsimp only
  exact (whenLive_canonical g0 (fun _ h0 => (by (try dsimp only); first | (split; exact h0; exact (ite_canonical h0 (ite_canonical (beginFrame_canonical (stopPaths_canonical (by (try dsimp only); first | (split; exact (noteBoundary_canonical (setOutGen_canonical h0)); exact (setOutGen_canonical h0)) | (split <;> first | exact (noteBoundary_canonical (setOutGen_canonical h0)) | exact (setOutGen_canonical h0))))) (by (try dsimp only); first | (split; exact (noteBoundary_canonical (setOutGen_canonical h0)); exact (setOutGen_canonical h0)) | (split <;> first | exact (noteBoundary_canonical (setOutGen_canonical h0)) | exact (setOutGen_canonical h0)))))) | (split <;> first | exact h0 | exact (ite_canonical h0 (ite_canonical (beginFrame_canonical (stopPaths_canonical (by (try dsimp only); first | (split; exact (noteBoundary_canonical (setOutGen_canonical h0)); exact (setOutGen_canonical h0)) | (split <;> first | exact (noteBoundary_canonical (setOutGen_canonical h0)) | exact (setOutGen_canonical h0))))) (by (try dsimp only); first | (split; exact (noteBoundary_canonical (setOutGen_canonical h0)); exact (setOutGen_canonical h0)) | (split <;> first | exact (noteBoundary_canonical (setOutGen_canonical h0)) | exact (setOutGen_canonical h0)))))))))

theorem setAudio_canonical {a0 a1 a2} (g0 : Canonical a2) : Canonical (setAudio a0 a1 a2) := by
  unfold setAudio
  try dsimp only
  exact (upd_st_canonical (fun h => { h.st with audio := by (try dsimp only); exact (h.st.audio.set _ _) }) g0)

theorem takeSets_canonical {a0 a1 a2 a3} (g0 : Canonical a3) : Canonical (takeSets a0 a1 a2 a3) := by
  unfold takeSets
  try dsimp only
  exact (setAudio_canonical g0)

theorem fillBlank_canonical {a0 a1} (g0 : Canonical a1) : Canonical (fillBlank a0 a1) := by
  unfold fillBlank
  try dsimp only
  exact (by (try dsimp only); first | (split; exact (setPort_canonical g0); exact (by (try dsimp only); first | (split; exact (setPort_canonical g0); exact (takeSets_canonical (setPort_canonical g0))) | (split <;> first | exact (setPort_canonical g0) | exact (takeSets_canonical (setPort_canonical g0))))) | (split <;> first | exact (setPort_canonical g0) | exact (by (try dsimp only); first | (split; exact (setPort_canonical g0); exact (takeSets_canonical (setPort_canonical g0))) | (split <;> first | exact (setPort_canonical g0) | exact (takeSets_canonical (setPort_canonical g0))))))

theorem pushSet_canonical {a0 a1 a2 a3} (g0 : Canonical a3) : Canonical (pushSet a0 a1 a2 a3) := by
  unfold pushSet
  try dsimp only
  exact (ite_canonical (addObj_canonical (setAudio_canonical g0)) (setAudio_canonical g0))

theorem releaseMute_canonical {a0} (g0 : Canonical a0) : Canonical (releaseMute a0) := by
  unfold releaseMute
  try dsimp only
  exact (ite_canonical (upd_io_canonical (fun h => { h.io with lands := { h.io.lands with  } }) g0) g0)

theorem noteFill_canonical {a0 a1} (g0 : Canonical a1) : Canonical (noteFill a0 a1) := by
  unfold noteFill
  try dsimp only
  exact (setObj_canonical g0)

theorem countSegment_canonical {a0 a1 a2} (g0 : Canonical a2) : Canonical (countSegment a0 a1 a2) := by
  unfold countSegment
  try dsimp only
  exact (ite_canonical (addObj_canonical (addObj_canonical g0)) (addObj_canonical g0))

theorem countNext_canonical {a0 a1 a2} (g0 : Canonical a2) : Canonical (countNext a0 a1 a2) := by
  unfold countNext
  try dsimp only
  exact (setPort_canonical (countSegment_canonical g0))

theorem pathTake_canonical {a0 a1 a2 a3} (g0 : Canonical a3) : Canonical (pathTake a0 a1 a2 a3) := by
  unfold pathTake
  try dsimp only
  exact (by (try dsimp only); first | (split; exact g0; exact (setPath_canonical g0)) | (split <;> first | exact g0 | exact (setPath_canonical g0)))

theorem writeRegionPage_canonical {a0 a1 a2 a3 a4} (g0 : Canonical a4) : Canonical (writeRegionPage a0 a1 a2 a3 a4) := by
  unfold writeRegionPage
  split
  · exact setC_canonical (fun h => PageWf.write (h.cslot _) _ _) g0
  · refine ite_canonical g0 ?_
    split
    · exact g0
    · exact upd_ci_canonical (fun h => { h.ci with }) (pushVersion_canonical (setC_canonical (fun _ => PageWf.write PageWf.zero _ _) g0))

theorem writeRegion_canonical {a0 a1 a2 a3} (g0 : Canonical a3) : Canonical (writeRegion a0 a1 a2 a3) := by
  unfold writeRegion
  try dsimp only
  exact (foldl_canonical (fun _ _ h0 => (writeRegionPage_canonical h0)) g0)

theorem concealVideo_canonical {a0 a1 a2 a3 a4 a5} (g0 : Canonical a5) : Canonical (concealVideo a0 a1 a2 a3 a4 a5) := by
  unfold concealVideo
  try dsimp only
  exact (foldl_canonical (fun _ _ h0 => (by (try dsimp only); first | (split; exact (writeRegion_canonical h0); exact h0) | (split <;> first | exact (writeRegion_canonical h0) | exact h0))) g0)

theorem concealRange_canonical {a0 a1 a2} (g0 : Canonical a2) : Canonical (concealRange a0 a1 a2) := by
  unfold concealRange
  try dsimp only
  exact (by (try dsimp only); first | (split; exact g0; exact (addObj_canonical (setPort_canonical (concealVideo_canonical (pathTake_canonical g0))))) | (split <;> first | exact g0 | exact (addObj_canonical (setPort_canonical (concealVideo_canonical (pathTake_canonical g0))))))

theorem concealTo_canonical {a0 a1 a2 a3} (g0 : Canonical a3) : Canonical (concealTo a0 a1 a2 a3) := by
  unfold concealTo
  try dsimp only
  exact (by (try dsimp only); first | (split; exact g0; exact (by (try dsimp only); first | (split; exact (setPort_canonical (foldl_canonical (fun _ _ h0 => (concealRange_canonical h0)) g0)); exact (foldl_canonical (fun _ _ h0 => (concealRange_canonical h0)) g0)) | (split <;> first | exact (setPort_canonical (foldl_canonical (fun _ _ h0 => (concealRange_canonical h0)) g0)) | exact (foldl_canonical (fun _ _ h0 => (concealRange_canonical h0)) g0)))) | (split <;> first | exact g0 | exact (by (try dsimp only); first | (split; exact (setPort_canonical (foldl_canonical (fun _ _ h0 => (concealRange_canonical h0)) g0)); exact (foldl_canonical (fun _ _ h0 => (concealRange_canonical h0)) g0)) | (split <;> first | exact (setPort_canonical (foldl_canonical (fun _ _ h0 => (concealRange_canonical h0)) g0)) | exact (foldl_canonical (fun _ _ h0 => (concealRange_canonical h0)) g0)))))

theorem finishFrame_canonical {a0 a1} (g0 : Canonical a1) : Canonical (finishFrame a0 a1) := by
  unfold finishFrame
  try dsimp only
  exact (by (try dsimp only); first | (split; exact g0; exact (ite_canonical (capture_canonical (addObj_canonical (ite_canonical (addObj_canonical (setPort_canonical g0)) (capture_canonical (addObj_canonical (setPort_canonical g0)))))) (foldl_canonical (fun _ _ h0 => (sourceFrame_canonical h0)) (ite_canonical (addObj_canonical (setPort_canonical g0)) (capture_canonical (addObj_canonical (setPort_canonical g0))))))) | (split <;> first | exact g0 | exact (ite_canonical (capture_canonical (addObj_canonical (ite_canonical (addObj_canonical (setPort_canonical g0)) (capture_canonical (addObj_canonical (setPort_canonical g0)))))) (foldl_canonical (fun _ _ h0 => (sourceFrame_canonical h0)) (ite_canonical (addObj_canonical (setPort_canonical g0)) (capture_canonical (addObj_canonical (setPort_canonical g0))))))))

theorem frameDone_canonical {a0 a1} (g0 : Canonical a1) : Canonical (frameDone a0 a1) := by
  unfold frameDone
  try dsimp only
  exact (by (try dsimp only); first | (split; exact (ite_canonical (finishFrame_canonical g0) g0); exact g0) | (split <;> first | exact (ite_canonical (finishFrame_canonical g0) g0) | exact g0))

theorem concealSet_canonical {a0 a1 a2} (g0 : Canonical a2) : Canonical (concealSet a0 a1 a2) := by
  unfold concealSet
  try dsimp only
  exact (addObj_canonical (pushSet_canonical g0))

theorem concealSets_canonical {a0 a1 a2 a3 a4} (g0 : Canonical a4) : Canonical (concealSets a0 a1 a2 a3 a4) := by
  unfold concealSets
  try dsimp only
  exact (foldl_canonical (fun _ _ h0 => (concealSet_canonical h0)) g0)

theorem concealMissing_canonical {a0 a1 a2 a3} (g0 : Canonical a3) : Canonical (concealMissing a0 a1 a2 a3) := by
  unfold concealMissing
  try dsimp only
  exact (ite_canonical g0 (foldl_canonical (fun _ _ h0 => (concealSets_canonical h0)) (countNext_canonical g0)))

theorem startFrame_canonical {a0 a1 a2 a3} (g0 : Canonical a3) : Canonical (startFrame a0 a1 a2 a3) := by
  unfold startFrame
  try dsimp only
  exact (slavedPulse_canonical (setPort_canonical (concealMissing_canonical (frameDone_canonical (concealTo_canonical g0)))))

theorem takeTiming_canonical {a0 a1 a2 a3} (g0 : Canonical a3) : Canonical (takeTiming a0 a1 a2 a3) := by
  unfold takeTiming
  try dsimp only
  exact (ite_canonical (pathTake_canonical (ite_canonical (startFrame_canonical g0) g0)) (setPort_canonical (countNext_canonical g0)))

theorem countConcealed_canonical {a0 a1 a2} (g0 : Canonical a2) : Canonical (countConcealed a0 a1 a2) := by
  unfold countConcealed
  try dsimp only
  exact (by (try dsimp only); first | (split; exact (setPort_canonical (countSegment_canonical g0)); exact (countNext_canonical g0)) | (split <;> first | exact (setPort_canonical (countSegment_canonical g0)) | exact (countNext_canonical g0)))

theorem storeVideo_canonical {a0 a1 a2 a3 a4 a5} (g0 : Canonical a5) : Canonical (storeVideo a0 a1 a2 a3 a4 a5) := by
  unfold storeVideo
  try dsimp only
  exact (foldl_canonical (fun _ _ h0 => (by (try dsimp only); first | (split; exact (writeRegion_canonical h0); exact h0) | (split <;> first | exact (writeRegion_canonical h0) | exact h0))) g0)

theorem countCrc_canonical {a0 a1} (g0 : Canonical a1) : Canonical (countCrc a0 a1) := by
  unfold countCrc
  try dsimp only
  exact (by (try dsimp only); first | (split; exact (setPort_canonical (addObj_canonical g0)); exact (addObj_canonical g0)) | (split <;> first | exact (setPort_canonical (addObj_canonical g0)) | exact (addObj_canonical g0)))

theorem takeVideo_canonical {a0 a1 a2 a3} (g0 : Canonical a3) : Canonical (takeVideo a0 a1 a2 a3) := by
  unfold takeVideo
  try dsimp only
  exact (by (try dsimp only); first | (split; exact (ite_canonical g0 (countConcealed_canonical g0)); exact (ite_canonical (ite_canonical g0 (by (try dsimp only); first | (split; exact (frameDone_canonical (setPort_canonical (storeVideo_canonical (pathTake_canonical (concealTo_canonical g0))))); exact (storeVideo_canonical (pathTake_canonical (concealTo_canonical g0)))) | (split <;> first | exact (frameDone_canonical (setPort_canonical (storeVideo_canonical (pathTake_canonical (concealTo_canonical g0))))) | exact (storeVideo_canonical (pathTake_canonical (concealTo_canonical g0)))))) (ite_canonical (by (try dsimp only); first | (split; exact (frameDone_canonical (setPort_canonical (concealRange_canonical (ite_canonical g0 (countCrc_canonical g0))))); exact (concealRange_canonical (ite_canonical g0 (countCrc_canonical g0)))) | (split <;> first | exact (frameDone_canonical (setPort_canonical (concealRange_canonical (ite_canonical g0 (countCrc_canonical g0))))) | exact (concealRange_canonical (ite_canonical g0 (countCrc_canonical g0))))) (ite_canonical g0 (countCrc_canonical g0))))) | (split <;> first | exact (ite_canonical g0 (countConcealed_canonical g0)) | exact (ite_canonical (ite_canonical g0 (by (try dsimp only); first | (split; exact (frameDone_canonical (setPort_canonical (storeVideo_canonical (pathTake_canonical (concealTo_canonical g0))))); exact (storeVideo_canonical (pathTake_canonical (concealTo_canonical g0)))) | (split <;> first | exact (frameDone_canonical (setPort_canonical (storeVideo_canonical (pathTake_canonical (concealTo_canonical g0))))) | exact (storeVideo_canonical (pathTake_canonical (concealTo_canonical g0)))))) (ite_canonical (by (try dsimp only); first | (split; exact (frameDone_canonical (setPort_canonical (concealRange_canonical (ite_canonical g0 (countCrc_canonical g0))))); exact (concealRange_canonical (ite_canonical g0 (countCrc_canonical g0)))) | (split <;> first | exact (frameDone_canonical (setPort_canonical (concealRange_canonical (ite_canonical g0 (countCrc_canonical g0))))) | exact (concealRange_canonical (ite_canonical g0 (countCrc_canonical g0))))) (ite_canonical g0 (countCrc_canonical g0))))))

theorem goodSet_canonical {a0 a1 a2 a3} (g0 : Canonical a3) : Canonical (goodSet a0 a1 a2 a3) := by
  unfold goodSet
  try dsimp only
  exact (setAudio_canonical (pushSet_canonical g0))

theorem takeAudio_canonical {a0 a1 a2 a3} (g0 : Canonical a3) : Canonical (takeAudio a0 a1 a2 a3) := by
  have h4 : ∀ {s x}, Canonical s → Canonical (countNext a0 x s) := fun h => countNext_canonical h
  unfold takeAudio
  dsimp only
  split
  · refine ite_canonical ?_ (h4 ?_) <;>
      (split <;> [exact ite_canonical (pathTake_canonical g0) (pathTake_canonical g0); exact g0])
  · refine ite_canonical ?_ (h4 ?_) <;>
    · refine setPort_canonical (foldl_canonical (fun s k h => ?_) ?_)
      · split
        · exact foldl_canonical (fun _ _ h => goodSet_canonical h) h
        · exact concealSets_canonical h
      · split
        · exact ite_canonical (pathTake_canonical g0) (pathTake_canonical g0)
        · exact g0

theorem takeAncillary_canonical {a0 a1 a2 a3} (g0 : Canonical a3) : Canonical (takeAncillary a0 a1 a2 a3) := by
  unfold takeAncillary
  try dsimp only
  exact (ite_canonical (setPort_canonical (pathTake_canonical g0)) (countNext_canonical g0))

theorem execInputSegment_canonical {a0 a1 a2 a3} (g0 : Canonical a3) : CanonOut (execInputSegment a0 a1 a2 a3) := by
  unfold execInputSegment
  try dsimp only
  exact (whenLive_canonical g0 (fun _ h0 => (ite_canonical (by (try dsimp only); first | (split; exact (takeVideo_canonical h0); exact (takeAncillary_canonical h0); exact (takeAudio_canonical h0); exact (takeTiming_canonical h0); exact (countConcealed_canonical h0)) | (split <;> first | exact (takeVideo_canonical h0) | exact (takeAncillary_canonical h0) | exact (takeAudio_canonical h0) | exact (takeTiming_canonical h0) | exact (countConcealed_canonical h0))) h0)))

theorem wAudio_canonical {a0 a1 a2 a3 a4} (g0 : Canonical a4) : Canonical (wAudio a0 a1 a2 a3 a4).1 := by
  unfold wAudio
  try dsimp only
  exact (ite_fst_canonical (fst_canonical (refuse_canonical g0)) (ite_fst_canonical (fst_canonical (refuse_canonical g0)) (ite_fst_canonical (fst_canonical (refuse_canonical g0)) (fst_canonical (setObj_canonical (setObj_canonical g0))))))

theorem refreshMute_canonical {a0} (g0 : Canonical a0) : Canonical (refreshMute a0) := by
  unfold refreshMute
  try dsimp only
  exact (setObj_canonical g0)

theorem wMutePorts_canonical {a0 a1} (g0 : Canonical a1) : Canonical (wMutePorts a0 a1).1 := by
  unfold wMutePorts
  try dsimp only
  exact (refreshMute_canonical (setObj_canonical g0))

theorem execLaneBlockLock_canonical {a0 a1 a2 a3} (g0 : Canonical a3) : CanonOut (execLaneBlockLock a0 a1 a2 a3) := by
  unfold execLaneBlockLock
  try dsimp only
  exact (whenLive_canonical g0 (fun _ h0 => (ite_canonical (ite_canonical (setObj_canonical (setObj_canonical (ite_canonical (setPort_canonical h0) (setField_canonical (setPort_canonical h0))))) (ite_canonical (setPort_canonical h0) (setField_canonical (setPort_canonical h0)))) h0)))

theorem setRasterStatus_canonical {a0 a1 a2} (g0 : Canonical a2) : Canonical (setRasterStatus a0 a1 a2) := by
  unfold setRasterStatus
  try dsimp only
  exact (setObj_canonical g0)

theorem applyConfig_canonical {a0 a1 a2} (g0 : Canonical a2) : Canonical (applyConfig a0 a1 a2) := by
  unfold applyConfig
  try dsimp only
  exact (ite_canonical (refreshMute_canonical (setObj_canonical (ite_canonical (refreshLevel_canonical (setObj_canonical (setObj_canonical (setObj_canonical (setObj_canonical (ite_canonical (setObj_canonical (setObj_canonical (setObj_canonical (setPort_canonical (setRasterStatus_canonical (setObj_canonical g0)))))) (setPort_canonical (setRasterStatus_canonical (setObj_canonical g0))))))))) (setObj_canonical (setObj_canonical (setObj_canonical (setObj_canonical (ite_canonical (setObj_canonical (setObj_canonical (setObj_canonical (setPort_canonical (setRasterStatus_canonical (setObj_canonical g0)))))) (setPort_canonical (setRasterStatus_canonical (setObj_canonical g0))))))))))) (setObj_canonical (refreshMute_canonical (setObj_canonical (ite_canonical (refreshLevel_canonical (setObj_canonical (setObj_canonical (setObj_canonical (setObj_canonical (ite_canonical (setObj_canonical (setObj_canonical (setObj_canonical (setPort_canonical (setRasterStatus_canonical (setObj_canonical g0)))))) (setPort_canonical (setRasterStatus_canonical (setObj_canonical g0))))))))) (setObj_canonical (setObj_canonical (setObj_canonical (setObj_canonical (ite_canonical (setObj_canonical (setObj_canonical (setObj_canonical (setPort_canonical (setRasterStatus_canonical (setObj_canonical g0)))))) (setPort_canonical (setRasterStatus_canonical (setObj_canonical g0)))))))))))))

theorem wRasterConfig_canonical {a0 a1 a2 a3} (g0 : Canonical a3) : Canonical (wRasterConfig a0 a1 a2 a3).1 := by
  unfold wRasterConfig
  try dsimp only
  exact (by (try dsimp only); first | (split; exact (fst_canonical (refuse_canonical (setRasterStatus_canonical g0))); exact (fst_canonical (applyConfig_canonical g0))) | (split <;> first | exact (fst_canonical (refuse_canonical (setRasterStatus_canonical g0))) | exact (fst_canonical (applyConfig_canonical g0))))

theorem execMuteRelease_canonical {a0} (g0 : Canonical a0) : CanonOut (execMuteRelease a0) := by
  unfold execMuteRelease
  try dsimp only
  exact (whenLive_canonical g0 (fun _ h0 => (ite_canonical (releaseMute_canonical h0) h0)))

theorem sendSegment_canonical {a0 a1 a2} (g0 : Canonical a2) : Canonical (sendSegment a0 a1 a2) := by
  unfold sendSegment
  try dsimp only
  exact (emit_canonical g0)

theorem sendBlank_canonical {a0 a1 a2 a3} (g0 : Canonical a3) : Canonical (sendBlank a0 a1 a2 a3) := by
  unfold sendBlank
  try dsimp only
  exact (ite_canonical (sendSegment_canonical (setPort_canonical g0)) (sendSegment_canonical g0))

theorem blankLine_canonical {a0 a1 a2} (g0 : Canonical a2) : Canonical (blankLine a0 a1 a2) := by
  unfold blankLine
  try dsimp only
  exact (foldl_canonical (fun _ _ h0 => (sendBlank_canonical h0)) (setPort_canonical (ite_canonical (fillBlank_canonical g0) g0)))

theorem execMuteHoldExpiry_canonical {a0} (g0 : Canonical a0) : CanonOut (execMuteHoldExpiry a0) := by
  unfold execMuteHoldExpiry
  try dsimp only
  exact (whenLive_canonical g0 (fun _ h0 => (by (try dsimp only); first | (split; exact (ite_canonical (refreshMute_canonical (upd_io_canonical (fun h => { h.io with lands := { h.io.lands with  } }) h0)) h0); exact h0) | (split <;> first | exact (ite_canonical (refreshMute_canonical (upd_io_canonical (fun h => { h.io with lands := { h.io.lands with  } }) h0)) h0) | exact h0))))

theorem applyPhase_canonical {a0 a1 a2} (g0 : Canonical a2) : Canonical (applyPhase a0 a1 a2) := by
  unfold applyPhase
  try dsimp only
  exact (by (try dsimp only); first | (split; exact (ite_canonical (setOutGen_canonical g0) g0); exact g0) | (split <;> first | exact (ite_canonical (setOutGen_canonical g0) g0) | exact g0))

theorem wPassthru_canonical {a0 a1 a2 a3} (g0 : Canonical a3) : Canonical (wPassthru a0 a1 a2 a3).1 := by
  unfold wPassthru
  try dsimp only
  exact (by (try dsimp only); first | (split; exact (ite_fst_canonical (fst_canonical (refuse_canonical g0)) (ite_fst_canonical (fst_canonical (setPath_canonical (setObj_canonical (setObj_canonical g0)))) (fst_canonical (setObj_canonical g0)))); exact (fst_canonical (ite_canonical (setObj_canonical (setObj_canonical g0)) (setObj_canonical g0))); exact (fst_canonical (refuse_canonical g0))) | (split <;> first | exact (ite_fst_canonical (fst_canonical (refuse_canonical g0)) (ite_fst_canonical (fst_canonical (setPath_canonical (setObj_canonical (setObj_canonical g0)))) (fst_canonical (setObj_canonical g0)))) | exact (fst_canonical (ite_canonical (setObj_canonical (setObj_canonical g0)) (setObj_canonical g0))) | exact (fst_canonical (refuse_canonical g0))))

theorem execPassthruStart_canonical {a0 a1 a2} (g0 : Canonical a2) : CanonOut (execPassthruStart a0 a1 a2) := by
  unfold execPassthruStart
  try dsimp only
  exact (whenFree_canonical g0 (fun _ h0 => (ackWrite_canonical (wPassthru_canonical h0))))

theorem wRasterPhase_canonical {a0 a1 a2 a3} (g0 : Canonical a3) : Canonical (wRasterPhase a0 a1 a2 a3).1 := by
  unfold wRasterPhase
  try dsimp only
  exact (ite_fst_canonical (fst_canonical (refuse_canonical (setRasterStatus_canonical g0))) (ite_fst_canonical (fst_canonical (applyPhase_canonical (setRasterStatus_canonical (setObj_canonical g0)))) (fst_canonical (refuse_canonical (setRasterStatus_canonical g0)))))

theorem sendSegments_canonical {a0 a1 a2} (g0 : Canonical a2) : Canonical (sendSegments a0 a1 a2) := by
  unfold sendSegments
  try dsimp only
  exact (foldl_canonical (fun _ _ h0 => (sendSegment_canonical h0)) g0)

theorem sendLine_canonical {a0 a1 a2 a3} (g0 : Canonical a3) : Canonical (sendLine a0 a1 a2 a3) := by
  unfold sendLine
  try dsimp only
  exact (by (try dsimp only); first | (split; exact (refreshLevel_canonical (sendSegments_canonical (setPort_canonical g0))); exact (refreshLevel_canonical (sendSegments_canonical (setPort_canonical (ite_canonical (addObj_canonical g0) (capture_canonical (addObj_canonical g0))))))) | (split <;> first | exact (refreshLevel_canonical (sendSegments_canonical (setPort_canonical g0))) | exact (refreshLevel_canonical (sendSegments_canonical (setPort_canonical (ite_canonical (addObj_canonical g0) (capture_canonical (addObj_canonical g0))))))))

theorem execLineFetchComplete_canonical {a0 a1 a2} (g0 : Canonical a2) : CanonOut (execLineFetchComplete a0 a1 a2) := by
  unfold execLineFetchComplete
  try dsimp only
  exact (whenLive_canonical g0 (fun _ h0 => (by (try dsimp only); first | (split; exact h0; exact (ite_canonical (refreshLevel_canonical (setPort_canonical h0)) h0)) | (split <;> first | exact h0 | exact (ite_canonical (refreshLevel_canonical (setPort_canonical h0)) h0)))))

theorem pathSlot_canonical {a0 a1 a2 a3} (g0 : Canonical a3) : Canonical (pathSlot a0 a1 a2 a3) := by
  unfold pathSlot
  try dsimp only
  exact (foldl_canonical (fun _ _ h0 => (sendBlank_canonical h0)) (setPath_canonical g0))

theorem startMute_canonical {a0} (g0 : Canonical a0) : Canonical (startMute a0) := by
  unfold startMute
  try dsimp only
  exact (ite_canonical (capture_canonical (addObj_canonical (refreshMute_canonical (upd_many_canonical g0 fun h => { h with io := by (try dsimp only); exact { h.io with lands := { h.io.lands with  } } })))) (refreshMute_canonical (upd_many_canonical g0 fun h => { h with io := by (try dsimp only); exact { h.io with lands := { h.io.lands with  } } })))

theorem execMuteRequest_canonical {a0} (g0 : Canonical a0) : CanonOut (execMuteRequest a0) := by
  unfold execMuteRequest
  try dsimp only
  exact (whenLive_canonical g0 (fun _ h0 => (ite_canonical (startMute_canonical h0) h0)))

theorem execLaneLockLoss_canonical {a0 a1 a2} (g0 : Canonical a2) : CanonOut (execLaneLockLoss a0 a1 a2) := by
  unfold execLaneLockLoss
  try dsimp only
  exact (whenLive_canonical g0 (fun _ h0 => (ite_canonical (ite_canonical (setObj_canonical (addObj_canonical (setField_canonical h0))) (addObj_canonical (setField_canonical h0))) h0)))

theorem execStaticCompareComplete_canonical {a0 a1} (g0 : Canonical a1) : CanonOut (execStaticCompareComplete a0 a1) := by
  unfold execStaticCompareComplete
  try dsimp only
  exact (whenLive_canonical g0 (fun _ h0 => (by (try dsimp only); first | (split; exact (ite_canonical (setPort_canonical h0) h0); exact h0) | (split <;> first | exact (ite_canonical (setPort_canonical h0) h0) | exact h0))))

theorem execInputSlotGridFrameStart_canonical {a0 a1} (g0 : Canonical a1) : CanonOut (execInputSlotGridFrameStart a0 a1) := by
  unfold execInputSlotGridFrameStart
  try dsimp only
  exact (whenLive_canonical g0 (fun _ h0 => (ite_canonical (pathTake_canonical (startFrame_canonical (ite_canonical h0 (countNext_canonical h0)))) h0)))

theorem execPassthruStop_canonical {a0 a1 a2} (g0 : Canonical a2) : CanonOut (execPassthruStop a0 a1 a2) := by
  unfold execPassthruStop
  try dsimp only
  exact (whenFree_canonical g0 (fun _ h0 => (ackWrite_canonical (wPassthru_canonical h0))))

theorem execLineSlot_canonical {a0 a1} (g0 : Canonical a1) : CanonOut (execLineSlot a0 a1) := by
  unfold execLineSlot
  try dsimp only
  exact (whenLive_canonical g0 (fun _ h0 => (ite_canonical h0 (by (try dsimp only); first | (split; exact (pathSlot_canonical (setPort_canonical h0)); exact (ite_canonical (by (try dsimp only); first | (split; exact (ite_canonical (ite_canonical (sendSegment_canonical (setPort_canonical h0)) (setPort_canonical h0)) (noteFill_canonical (sendLine_canonical (ite_canonical (sendSegment_canonical (setPort_canonical h0)) (setPort_canonical h0))))); exact (ite_canonical (sendSegment_canonical (setPort_canonical h0)) (setPort_canonical h0))) | (split <;> first | exact (ite_canonical (ite_canonical (sendSegment_canonical (setPort_canonical h0)) (setPort_canonical h0)) (noteFill_canonical (sendLine_canonical (ite_canonical (sendSegment_canonical (setPort_canonical h0)) (setPort_canonical h0))))) | exact (ite_canonical (sendSegment_canonical (setPort_canonical h0)) (setPort_canonical h0)))) (blankLine_canonical (ite_canonical (sendSegment_canonical (setPort_canonical h0)) (setPort_canonical h0))))) | (split <;> first | exact (pathSlot_canonical (setPort_canonical h0)) | exact (ite_canonical (by (try dsimp only); first | (split; exact (ite_canonical (ite_canonical (sendSegment_canonical (setPort_canonical h0)) (setPort_canonical h0)) (noteFill_canonical (sendLine_canonical (ite_canonical (sendSegment_canonical (setPort_canonical h0)) (setPort_canonical h0))))); exact (ite_canonical (sendSegment_canonical (setPort_canonical h0)) (setPort_canonical h0))) | (split <;> first | exact (ite_canonical (ite_canonical (sendSegment_canonical (setPort_canonical h0)) (setPort_canonical h0)) (noteFill_canonical (sendLine_canonical (ite_canonical (sendSegment_canonical (setPort_canonical h0)) (setPort_canonical h0))))) | exact (ite_canonical (sendSegment_canonical (setPort_canonical h0)) (setPort_canonical h0)))) (blankLine_canonical (ite_canonical (sendSegment_canonical (setPort_canonical h0)) (setPort_canonical h0)))))))))

theorem execLineFetch_canonical {a0 a1} (g0 : Canonical a1) : CanonOut (execLineFetch a0 a1) := by
  unfold execLineFetch
  try dsimp only
  exact (whenLive_canonical g0 (fun _ h0 => (ite_canonical h0 (ite_canonical (ite_canonical (setPort_canonical h0) h0) (by (try dsimp only); first | (split; exact (ite_canonical (setPort_canonical h0) h0); exact (ite_canonical (setPort_canonical h0) h0); exact h0) | (split <;> first | exact (ite_canonical (setPort_canonical h0) h0) | exact h0))))))

theorem setSlotState_canonical {a0 a1 a2} (g0 : Canonical a2) : Canonical (setSlotState a0 a1 a2) := by
  unfold setSlotState
  try dsimp only
  exact (setField_canonical g0)

theorem runWeir_canonical {a0 a1 a2} (g0 : Canonical a2) : Canonical (runWeir a0 a1 a2) := by
  unfold runWeir
  try dsimp only
  exact (setSlotState_canonical (upd_many_canonical (setObj_canonical (setObj_canonical (setObj_canonical g0))) fun h => { h with staging := by (try dsimp only); exact h.staging, alm := by (try dsimp only); exact h.alm }))

theorem programBlocks_canonical {a0 a1 a2 a3} (g0 : Canonical a3) : Canonical (programBlocks a0 a1 a2 a3) := by
  unfold programBlocks
  try dsimp only
  exact (flashWrite_canonical (flashErase_canonical g0))

theorem setFwStatus_canonical {a0 a1 a2} (g0 : Canonical a2) : Canonical (setFwStatus a0 a1 a2) := by
  unfold setFwStatus
  try dsimp only
  exact (setObj_canonical g0)

theorem fwProgram_canonical {a0 a1 a2 a3} (g0 : Canonical a3) : Canonical (fwProgram a0 a1 a2 a3).1 := by
  unfold fwProgram
  try dsimp only
  exact (by (try dsimp only); first | (split; exact (fst_canonical (setFwStatus_canonical (setSlotState_canonical (programBlocks_canonical (upd_fw_canonical (fun h => h.staging) g0))))); exact (fst_canonical (setFwStatus_canonical (upd_fw_canonical (fun h => h.staging) g0)))) | (split <;> first | exact (fst_canonical (setFwStatus_canonical (setSlotState_canonical (programBlocks_canonical (upd_fw_canonical (fun h => h.staging) g0))))) | exact (fst_canonical (setFwStatus_canonical (upd_fw_canonical (fun h => h.staging) g0)))))

theorem fwResult_canonical {a0 a1 a2} (g0 : Canonical a2) : Canonical (fwResult a0 a1 a2) := by
  unfold fwResult
  try dsimp only
  exact (capture_canonical (setFwStatus_canonical g0))

theorem fwRefuseBusy_canonical {a0} (g0 : Canonical a0) : Canonical (fwRefuseBusy a0).1 := by
  unfold fwRefuseBusy
  try dsimp only
  exact (refuseQuiet_canonical (capture_canonical g0))

theorem fwProgramBlock_canonical {a0} (g0 : Canonical a0) : Canonical (fwProgramBlock a0).1 := by
  unfold fwProgramBlock
  try dsimp only
  exact (ite_fst_canonical (fwRefuseBusy_canonical g0) (by (try dsimp only); first | (split; exact (fst_canonical (fwResult_canonical g0)); exact (fwProgram_canonical g0)) | (split <;> first | exact (fst_canonical (fwResult_canonical g0)) | exact (fwProgram_canonical g0))))

theorem fwCopy_canonical {a0 a1} (g0 : Canonical a1) : Canonical (fwCopy a0 a1).1 := by
  unfold fwCopy
  try dsimp only
  exact (ite_fst_canonical (fwRefuseBusy_canonical g0) (by (try dsimp only); first | (split; exact (fst_canonical (fwResult_canonical g0)); exact (fwProgram_canonical g0)) | (split <;> first | exact (fst_canonical (fwResult_canonical g0)) | exact (fwProgram_canonical g0))))

theorem fwVerify_canonical {a0} (g0 : Canonical a0) : Canonical (fwVerify a0).1 := by
  unfold fwVerify
  try dsimp only
  exact (ite_fst_canonical (fwRefuseBusy_canonical g0) (ite_fst_canonical (fst_canonical (fwResult_canonical g0)) (fst_canonical (setFwStatus_canonical (setSlotState_canonical (upd_fw_canonical (fun h => h.staging) g0))))))

theorem fwStart_canonical {a0} (g0 : Canonical a0) : Canonical (fwStart a0).1 := by
  unfold fwStart
  try dsimp only
  exact (ite_fst_canonical (fwRefuseBusy_canonical g0) (fst_canonical (setFwStatus_canonical (upd_fw_canonical (fun h => h.staging) g0))))

theorem writeActivation_canonical {a0 a1 a2} (g0 : Canonical a2) : Canonical (writeActivation a0 a1 a2) := by
  unfold writeActivation
  try dsimp only
  exact (flashWrite_canonical (flashErase_canonical g0))

theorem fwActivate_canonical {a0} (g0 : Canonical a0) : Canonical (fwActivate a0).1 := by
  unfold fwActivate
  try dsimp only
  exact (ite_fst_canonical (fwRefuseBusy_canonical g0) (ite_fst_canonical (fst_canonical (fwResult_canonical g0)) (ite_fst_canonical (fst_canonical (setFwStatus_canonical (setSlotState_canonical (upd_fw_canonical (fun h => h.staging) (ite_canonical (writeActivation_canonical g0) (setObj_canonical (writeActivation_canonical g0))))))) (fst_canonical (setFwStatus_canonical (setSlotState_canonical (upd_fw_canonical (fun h => h.staging) g0)))))))

theorem rillGone_canonical {a0} (g0 : Canonical a0) : Canonical (rillGone a0) := by
  unfold rillGone
  try dsimp only
  exact (setObj_canonical (setObj_canonical (upd_fw_canonical (fun h => h.staging) g0)))

theorem fwStop_canonical {a0} (g0 : Canonical a0) : Canonical (fwStop a0).1 := by
  unfold fwStop
  try dsimp only
  exact (ite_canonical (setObj_canonical (rillGone_canonical (upd_fw_canonical (fun h => h.staging) g0))) (setFwStatus_canonical (setObj_canonical (rillGone_canonical (upd_fw_canonical (fun h => h.staging) g0)))))

theorem wFwCommand_canonical {a0 a1 a2 a3} (g0 : Canonical a3) : Canonical (wFwCommand a0 a1 a2 a3).1 := by
  unfold wFwCommand
  try dsimp only
  exact (ite_fst_canonical (fst_canonical (refuse_canonical g0)) (ite_fst_canonical (fst_canonical (refuse_canonical g0)) (ite_fst_canonical (fwStart_canonical g0) (ite_fst_canonical (fwStop_canonical g0) (ite_fst_canonical (fwProgramBlock_canonical g0) (ite_fst_canonical (fwCopy_canonical g0) (ite_fst_canonical (fwActivate_canonical g0) (fwVerify_canonical g0))))))))

theorem execStartRill_canonical {a0 a1} (g0 : Canonical a1) : CanonOut (execStartRill a0 a1) := by
  unfold execStartRill
  try dsimp only
  exact (whenFree_canonical g0 (fun _ h0 => (ackWrite_canonical (wFwCommand_canonical h0))))

theorem rillRecord_canonical {a0} (g0 : Canonical a0) : Canonical (rillRecord a0) := by
  unfold rillRecord
  try dsimp only
  exact (capture_canonical g0)

theorem finishRillStart_canonical {a0 a1} (g0 : Canonical a1) : Canonical (finishRillStart a0 a1) := by
  unfold finishRillStart
  try dsimp only
  exact (ite_canonical (ite_canonical (rillRecord_canonical (setObj_canonical (setObj_canonical (setObj_canonical (upd_fw_canonical (fun h => h.staging) (setSlotState_canonical (setObj_canonical (upd_fw_canonical (fun h => h.staging) g0)))))))) (rillRecord_canonical (setObj_canonical (setObj_canonical (rillGone_canonical (setSlotState_canonical (setObj_canonical (upd_fw_canonical (fun h => h.staging) g0)))))))) (rillRecord_canonical (setObj_canonical (rillGone_canonical (setSlotState_canonical (upd_fw_canonical (fun h => h.staging) g0))))))

theorem wRillKick_canonical {a0 a1 a2} (g0 : Canonical a2) : Canonical (wRillKick a0 a1 a2).1 := by
  unfold wRillKick
  try dsimp only
  exact (ite_fst_canonical (fst_canonical (refuse_canonical g0)) (ite_fst_canonical (fst_canonical g0) (fst_canonical (setObj_canonical (upd_fw_canonical (fun h => h.staging) g0)))))

theorem execRillKick_canonical {a0 a1 a2} (g0 : Canonical a2) : CanonOut (execRillKick a0 a1 a2) := by
  unfold execRillKick
  try dsimp only
  exact (whenFree_canonical g0 (fun _ h0 => (ackWrite_canonical (wRillKick_canonical h0))))

theorem spoilBlocks_canonical {a0 a1} (g0 : Canonical a1) : Canonical (spoilBlocks a0 a1) := by
  unfold spoilBlocks
  try dsimp only
  exact (flashWrite_canonical (useFree_canonical g0))

theorem clearLatches_canonical {a0 a1} (g0 : Canonical a1) : Canonical (clearLatches a0 a1) := by
  unfold clearLatches
  try dsimp only
  exact (upd_latches_canonical (fun h => (h.latches.erase _)) g0)

theorem rillUnresponsive_canonical {a0 a1} (g0 : Canonical a1) : Canonical (rillUnresponsive a0 a1) := by
  unfold rillUnresponsive
  try dsimp only
  exact (ite_canonical (capture_canonical (upd_fw_canonical (fun h => h.staging) (addObj_canonical (setObj_canonical (setParked_canonical (clearLatches_canonical (rillGone_canonical g0))))))) (capture_canonical (setObj_canonical (rillGone_canonical g0))))

theorem restartWeir_canonical {a0} (g0 : Canonical a0) : Canonical (restartWeir a0) := by
  unfold restartWeir
  try dsimp only
  exact (ite_canonical (setParked_canonical (clearLatches_canonical (capture_canonical (upd_fw_canonical (fun h => h.staging) g0)))) g0)

theorem fwDataAccess_canonical {a0 a1} (g0 : Canonical a1) : Canonical (fwDataAccess a0 a1).2 := by
  unfold fwDataAccess
  try dsimp only
  exact (setObj_canonical (by (try dsimp only); first | (split; exact (basicWrite_canonical (upd_fw_canonical (fun h => (h.staging.set _ _)) g0)); exact g0) | (split <;> first | exact (basicWrite_canonical (upd_fw_canonical (fun h => (h.staging.set _ _)) g0)) | exact g0)))

theorem execFwDataAccess_canonical {a0 a1 a2} (g0 : Canonical a2) : CanonOut (execFwDataAccess a0 a1 a2) := by
  unfold execFwDataAccess
  try dsimp only
  exact (whenFree_canonical g0 (fun _ h0 => (ite_canonical (fwDataAccess_canonical h0) (answer_canonical (fwDataAccess_canonical h0)))))

theorem execFlashCommandComplete_canonical {a0 a1} (g0 : Canonical a1) : CanonOut (execFlashCommandComplete a0 a1) := by
  unfold execFlashCommandComplete
  try dsimp only
  exact (whenLive_canonical g0 (fun _ h0 => (by (try dsimp only); first | (split; exact h0; exact (by (try dsimp only); first | (split; exact (fwResult_canonical (upd_fw_canonical (fun h => h.staging) h0)); exact (ite_canonical (ite_canonical (fwResult_canonical (upd_fw_canonical (fun h => h.staging) h0)) (fwResult_canonical (spoilBlocks_canonical (upd_fw_canonical (fun h => h.staging) h0)))) (fwResult_canonical (upd_fw_canonical (fun h => h.staging) h0)))) | (split <;> first | exact (fwResult_canonical (upd_fw_canonical (fun h => h.staging) h0)) | exact (ite_canonical (ite_canonical (fwResult_canonical (upd_fw_canonical (fun h => h.staging) h0)) (fwResult_canonical (spoilBlocks_canonical (upd_fw_canonical (fun h => h.staging) h0)))) (fwResult_canonical (upd_fw_canonical (fun h => h.staging) h0)))))) | (split <;> first | exact h0 | exact (by (try dsimp only); first | (split; exact (fwResult_canonical (upd_fw_canonical (fun h => h.staging) h0)); exact (ite_canonical (ite_canonical (fwResult_canonical (upd_fw_canonical (fun h => h.staging) h0)) (fwResult_canonical (spoilBlocks_canonical (upd_fw_canonical (fun h => h.staging) h0)))) (fwResult_canonical (upd_fw_canonical (fun h => h.staging) h0)))) | (split <;> first | exact (fwResult_canonical (upd_fw_canonical (fun h => h.staging) h0)) | exact (ite_canonical (ite_canonical (fwResult_canonical (upd_fw_canonical (fun h => h.staging) h0)) (fwResult_canonical (spoilBlocks_canonical (upd_fw_canonical (fun h => h.staging) h0)))) (fwResult_canonical (upd_fw_canonical (fun h => h.staging) h0)))))))))

theorem execStopRill_canonical {a0 a1} (g0 : Canonical a1) : CanonOut (execStopRill a0 a1) := by
  unfold execStopRill
  try dsimp only
  exact (whenFree_canonical g0 (fun _ h0 => (ackWrite_canonical (wFwCommand_canonical h0))))

theorem compatRead_canonical {a0} (g0 : Canonical a0) : Canonical (compatRead a0).2 := by
  unfold compatRead
  try dsimp only
  exact (setObj_canonical g0)

theorem execCompatDataRead_canonical {a0 a1} (g0 : Canonical a1) : CanonOut (execCompatDataRead a0 a1) := by
  unfold execCompatDataRead
  try dsimp only
  exact (whenFree_canonical g0 (fun _ h0 => (answer_canonical (compatRead_canonical h0))))

theorem execRillWatchdogExpiry_canonical {a0} (g0 : Canonical a0) : CanonOut (execRillWatchdogExpiry a0) := by
  unfold execRillWatchdogExpiry
  try dsimp only
  exact (whenLive_canonical g0 (fun _ h0 => (ite_canonical (rillUnresponsive_canonical h0) h0)))

theorem execVerify_canonical {a0 a1} (g0 : Canonical a1) : CanonOut (execVerify a0 a1) := by
  unfold execVerify
  try dsimp only
  exact (whenFree_canonical g0 (fun _ h0 => (ackWrite_canonical (wFwCommand_canonical h0))))

theorem execRillImageReadComplete_canonical {a0} (g0 : Canonical a0) : CanonOut (execRillImageReadComplete a0) := by
  unfold execRillImageReadComplete
  try dsimp only
  exact (whenLive_canonical g0 (fun _ h0 => (by (try dsimp only); first | (split; exact h0; exact (ite_canonical (finishRillStart_canonical h0) (setFwStatus_canonical (finishRillStart_canonical h0)))) | (split <;> first | exact h0 | exact (ite_canonical (finishRillStart_canonical h0) (setFwStatus_canonical (finishRillStart_canonical h0)))))))

theorem execCopyFromHost_canonical {a0 a1 a2} (g0 : Canonical a2) : CanonOut (execCopyFromHost a0 a1 a2) := by
  unfold execCopyFromHost
  try dsimp only
  exact (whenFree_canonical g0 (fun _ h0 => (ackWrite_canonical (wFwCommand_canonical h0))))

theorem execProgramBlock_canonical {a0 a1} (g0 : Canonical a1) : CanonOut (execProgramBlock a0 a1) := by
  unfold execProgramBlock
  try dsimp only
  exact (whenFree_canonical g0 (fun _ h0 => (ackWrite_canonical (wFwCommand_canonical h0))))

theorem execLockstepMismatch_canonical {a0} (g0 : Canonical a0) : CanonOut (execLockstepMismatch a0) := by
  unfold execLockstepMismatch
  try dsimp only
  exact (whenLive_canonical g0 (fun _ h0 => (restartWeir_canonical h0)))

theorem execRillException_canonical {a0} (g0 : Canonical a0) : CanonOut (execRillException a0) := by
  unfold execRillException
  try dsimp only
  exact (whenLive_canonical g0 (fun _ h0 => (ite_canonical (rillUnresponsive_canonical h0) h0)))

theorem execActivate_canonical {a0 a1} (g0 : Canonical a1) : CanonOut (execActivate a0 a1) := by
  unfold execActivate
  try dsimp only
  exact (whenFree_canonical g0 (fun _ h0 => (ackWrite_canonical (wFwCommand_canonical h0))))

theorem unmapPage_canonical {a0 a1 a2} (g0 : Canonical a2) : Canonical (unmapPage a0 a1 a2) := by
  unfold unmapPage
  try dsimp only
  exact (by (try dsimp only); first | (split; exact (setPageMap_canonical (dropPage_canonical g0)); exact g0) | (split <;> first | exact (setPageMap_canonical (dropPage_canonical g0)) | exact g0))

theorem unmapTiles_canonical {a0 a1} (g0 : Canonical a1) : Canonical (unmapTiles a0 a1) := by
  unfold unmapTiles
  try dsimp only
  exact (foldl_canonical (fun _ _ h0 => (foldl_canonical (fun _ _ h1 => (unmapPage_canonical h1)) h0)) g0)

theorem reportLoad_canonical {a0 a1 a2 a3 a4} (g0 : Canonical a4) : Canonical (reportLoad a0 a1 a2 a3 a4) := by
  unfold reportLoad
  try dsimp only
  exact (capture_canonical (setObj_canonical g0))

theorem unloadPart_canonical {a0 a1} (g0 : Canonical a1) : Canonical (unloadPart a0 a1) := by
  unfold unloadPart
  try dsimp only
  exact (reportLoad_canonical (updPart_canonical (unmapTiles_canonical g0)))

theorem beginWrites_canonical {a0 a1} (g0 : Canonical a1) : Canonical (beginWrites a0 a1) := by
  unfold beginWrites
  try dsimp only
  exact (updPart_canonical (unmapTiles_canonical g0))

theorem refuseLoad_canonical {a0} (g0 : Canonical a0) : Canonical (refuseLoad a0).1 := by
  unfold refuseLoad
  try dsimp only
  exact (refuseQuiet_canonical (capture_canonical g0))

theorem stopLoad_canonical {a0 a1} (g0 : Canonical a1) : Canonical (stopLoad a0 a1) := by
  unfold stopLoad
  try dsimp only
  exact (reportLoad_canonical (upd_fab_canonical (fun h => { h.fab with  }) (ite_canonical g0 (unmapTiles_canonical g0))))

theorem startLoad_canonical {a0 a1 a2} (g0 : Canonical a2) : Canonical (startLoad a0 a1 a2).1 := by
  unfold startLoad
  try dsimp only
  exact (ite_fst_canonical (fst_canonical (reportLoad_canonical (setObj_canonical g0))) (fst_canonical (setObj_canonical (upd_fab_canonical (fun h => { h.fab with  }) (setObj_canonical g0)))))

theorem wLoadCommand_canonical {a0 a1 a2 a3} (g0 : Canonical a3) : Canonical (wLoadCommand a0 a1 a2 a3).1 := by
  unfold wLoadCommand
  try dsimp only
  exact (ite_fst_canonical (fst_canonical (refuse_canonical g0)) (by (try dsimp only); first | (split; exact (ite_fst_canonical (fst_canonical (stopLoad_canonical g0)) (refuseLoad_canonical g0)); exact (ite_fst_canonical (fst_canonical (reportLoad_canonical g0)) (ite_fst_canonical (startLoad_canonical g0) (ite_fst_canonical (ite_fst_canonical (fst_canonical (unloadPart_canonical g0)) (fst_canonical (reportLoad_canonical g0))) (fst_canonical g0))))) | (split <;> first | exact (ite_fst_canonical (fst_canonical (stopLoad_canonical g0)) (refuseLoad_canonical g0)) | exact (ite_fst_canonical (fst_canonical (reportLoad_canonical g0)) (ite_fst_canonical (startLoad_canonical g0) (ite_fst_canonical (ite_fst_canonical (fst_canonical (unloadPart_canonical g0)) (fst_canonical (reportLoad_canonical g0))) (fst_canonical g0)))))))

theorem execLoad_canonical {a0 a1 a2} (g0 : Canonical a2) : CanonOut (execLoad a0 a1 a2) := by
  unfold execLoad
  try dsimp only
  exact (whenFree_canonical g0 (fun _ h0 => (ackWrite_canonical (wLoadCommand_canonical h0))))

theorem execAbortLoad_canonical {a0 a1} (g0 : Canonical a1) : CanonOut (execAbortLoad a0 a1) := by
  unfold execAbortLoad
  try dsimp only
  exact (whenFree_canonical g0 (fun _ h0 => (ackWrite_canonical (wLoadCommand_canonical h0))))

theorem loadPage_canonical {a0 a1 a2 a3 a4} (g0 : Canonical a4) : Canonical (loadPage a0 a1 a2 a3 a4) := by
  unfold loadPage
  try dsimp only
  exact (by (try dsimp only); first | (split; exact (by (try dsimp only); first | (split; exact (freeSlotAt_canonical (skipMoves_canonical (settlePage_canonical g0))); exact (skipMoves_canonical (settlePage_canonical g0))) | (split <;> first | exact (freeSlotAt_canonical (skipMoves_canonical (settlePage_canonical g0))) | exact (skipMoves_canonical (settlePage_canonical g0)))); exact (upd_ci_canonical (fun h => { h.ci with  }) (pushVersion_canonical (setC_canonical (fun h => by first | exact h.frame _ | exact h.cslot _ | exact PageWf.write (h.frame _) _ _ | exact PageWf.write (h.cslot _) _ _ | exact pageOf_wf _ | exact PageWf.zero | exact PageWf.blank _) (by (try dsimp only); first | (split; exact (freeSlotAt_canonical (skipMoves_canonical (settlePage_canonical g0))); exact (skipMoves_canonical (settlePage_canonical g0))) | (split <;> first | exact (freeSlotAt_canonical (skipMoves_canonical (settlePage_canonical g0))) | exact (skipMoves_canonical (settlePage_canonical g0)))))))) | (split <;> first | exact (by (try dsimp only); first | (split; exact (freeSlotAt_canonical (skipMoves_canonical (settlePage_canonical g0))); exact (skipMoves_canonical (settlePage_canonical g0))) | (split <;> first | exact (freeSlotAt_canonical (skipMoves_canonical (settlePage_canonical g0))) | exact (skipMoves_canonical (settlePage_canonical g0)))) | exact (upd_ci_canonical (fun h => { h.ci with  }) (pushVersion_canonical (setC_canonical (fun h => by first | exact h.frame _ | exact h.cslot _ | exact PageWf.write (h.frame _) _ _ | exact PageWf.write (h.cslot _) _ _ | exact pageOf_wf _ | exact PageWf.zero | exact PageWf.blank _) (by (try dsimp only); first | (split; exact (freeSlotAt_canonical (skipMoves_canonical (settlePage_canonical g0))); exact (skipMoves_canonical (settlePage_canonical g0))) | (split <;> first | exact (freeSlotAt_canonical (skipMoves_canonical (settlePage_canonical g0))) | exact (skipMoves_canonical (settlePage_canonical g0)))))))))

theorem placeBytes_canonical {a0 a1 a2 a3} (g0 : Canonical a3) : Canonical (placeBytes a0 a1 a2 a3) := by
  unfold placeBytes
  try dsimp only
  exact (foldl_canonical (fun _ _ h0 => (loadPage_canonical h0)) g0)

theorem placeWeights_canonical {a0 a1 a2} (g0 : Canonical a2) : Canonical (placeWeights a0 a1 a2) := by
  unfold placeWeights
  try dsimp only
  exact (foldl_canonical (fun _ _ h0 => (loadPage_canonical h0)) (placeBytes_canonical g0))

theorem noteImage_canonical {a0 a1} (g0 : Canonical a1) : Canonical (noteImage a0 a1) := by
  unfold noteImage
  try dsimp only
  exact (ite_canonical (setObj_canonical (setObj_canonical g0)) g0)

theorem mapResident_canonical {a0 a1 a2 a3} (g0 : Canonical a3) : Canonical (mapResident a0 a1 a2 a3) := by
  unfold mapResident
  try dsimp only
  exact (by (try dsimp only); first | (split; exact g0; exact (by (try dsimp only); first | (split; exact g0; exact (setPageMap_canonical (setFrame_canonical (fun h => by first | exact h.frame _ | exact h.cslot _ | exact PageWf.write (h.frame _) _ _ | exact PageWf.write (h.cslot _) _ _ | exact pageOf_wf _ | exact PageWf.zero | exact PageWf.blank _) g0))) | (split <;> first | exact g0 | exact (setPageMap_canonical (setFrame_canonical (fun h => by first | exact h.frame _ | exact h.cslot _ | exact PageWf.write (h.frame _) _ _ | exact PageWf.write (h.cslot _) _ _ | exact pageOf_wf _ | exact PageWf.zero | exact PageWf.blank _) g0))))) | (split <;> first | exact g0 | exact (by (try dsimp only); first | (split; exact g0; exact (setPageMap_canonical (setFrame_canonical (fun h => by first | exact h.frame _ | exact h.cslot _ | exact PageWf.write (h.frame _) _ _ | exact PageWf.write (h.cslot _) _ _ | exact pageOf_wf _ | exact PageWf.zero | exact PageWf.blank _) g0))) | (split <;> first | exact g0 | exact (setPageMap_canonical (setFrame_canonical (fun h => by first | exact h.frame _ | exact h.cslot _ | exact PageWf.write (h.frame _) _ _ | exact PageWf.write (h.cslot _) _ _ | exact pageOf_wf _ | exact PageWf.zero | exact PageWf.blank _) g0))))))

theorem mapAll_canonical {a0 a1 a2} (g0 : Canonical a2) : Canonical (mapAll a0 a1 a2) := by
  unfold mapAll
  try dsimp only
  exact (foldl_canonical (fun _ _ h0 => (foldl_canonical (fun _ _ h1 => (mapResident_canonical h1)) h0)) g0)

theorem execUnload_canonical {a0 a1} (g0 : Canonical a1) : CanonOut (execUnload a0 a1) := by
  unfold execUnload
  try dsimp only
  exact (whenFree_canonical g0 (fun _ h0 => (ackWrite_canonical (wLoadCommand_canonical h0))))

theorem placeRest_canonical {a0 a1 a2 a3 a4} (g0 : Canonical a4) : Canonical (placeRest a0 a1 a2 a3 a4) := by
  unfold placeRest
  try dsimp only
  exact (foldl_snd_canonical (fun _ _ h0 => (placeBytes_canonical h0)) g0)

theorem writeRest_canonical {a0 a1 a2} (g0 : Canonical a2) : Canonical (writeRest a0 a1 a2) := by
  unfold writeRest
  try dsimp only
  exact (updPart_canonical (placeRest_canonical g0))

theorem writePages_canonical {a0 a1 a2} (g0 : Canonical a2) : Canonical (writePages a0 a1 a2) := by
  unfold writePages
  try dsimp only
  exact (setObj_canonical (mapAll_canonical g0))

theorem leavePhase_canonical {a0 a1 a2 a3} (g0 : Canonical a3) : Canonical (leavePhase a0 a1 a2 a3) := by
  unfold leavePhase
  try dsimp only
  exact (by (try dsimp only); first | (split; exact (beginWrites_canonical g0); exact (placeWeights_canonical g0); exact (writePages_canonical g0); exact (writeRest_canonical g0); exact g0) | (split <;> first | exact (beginWrites_canonical g0) | exact (placeWeights_canonical g0) | exact (writePages_canonical g0) | exact (writeRest_canonical g0) | exact g0))

theorem leavePhases_canonical {a0 a1 a2 a3 a4} (g0 : Canonical a4) : Canonical (leavePhases a0 a1 a2 a3 a4) := by
  unfold leavePhases
  try dsimp only
  exact (foldl_canonical (fun _ _ h0 => (leavePhase_canonical h0)) g0)

theorem reachPhase_canonical {a0 a1 a2} (g0 : Canonical a2) : Canonical (reachPhase a0 a1 a2) := by
  unfold reachPhase
  try dsimp only
  exact (by (try dsimp only); first | (split; exact (reportLoad_canonical (noteImage_canonical (upd_fab_canonical (fun h => { h.fab with  }) g0))); exact (ite_canonical (reportLoad_canonical (setObj_canonical (upd_fab_canonical (fun h => { h.fab with  }) (leavePhases_canonical (ite_canonical (noteImage_canonical g0) g0))))) (setObj_canonical (upd_fab_canonical (fun h => { h.fab with  }) (leavePhases_canonical (ite_canonical (noteImage_canonical g0) g0)))))) | (split <;> first | exact (reportLoad_canonical (noteImage_canonical (upd_fab_canonical (fun h => { h.fab with  }) g0))) | exact (ite_canonical (reportLoad_canonical (setObj_canonical (upd_fab_canonical (fun h => { h.fab with  }) (leavePhases_canonical (ite_canonical (noteImage_canonical g0) g0))))) (setObj_canonical (upd_fab_canonical (fun h => { h.fab with  }) (leavePhases_canonical (ite_canonical (noteImage_canonical g0) g0)))))))

theorem execLoadComplete_canonical {a0 a1} (g0 : Canonical a1) : CanonOut (execLoadComplete a0 a1) := by
  unfold execLoadComplete
  try dsimp only
  exact (whenLive_canonical g0 (fun _ h0 => (by (try dsimp only); first | (split; exact (ite_canonical (reachPhase_canonical h0) h0); exact h0) | (split <;> first | exact (ite_canonical (reachPhase_canonical h0) h0) | exact h0))))

theorem loadReadFails_canonical {a0 a1} (g0 : Canonical a1) : Canonical (loadReadFails a0 a1) := by
  unfold loadReadFails
  try dsimp only
  exact (by (try dsimp only); first | (split; exact (ite_canonical g0 (reportLoad_canonical (upd_fab_canonical (fun h => { h.fab with  }) g0))); exact g0) | (split <;> first | exact (ite_canonical g0 (reportLoad_canonical (upd_fab_canonical (fun h => { h.fab with  }) g0))) | exact g0))

theorem dropHeld_canonical {a0 a1} (g0 : Canonical a1) : Canonical (dropHeld a0 a1) := by
  unfold dropHeld
  try dsimp only
  exact (setOverlay_canonical g0)

theorem leaveRing_canonical {a0 a1} (g0 : Canonical a1) : Canonical (leaveRing a0 a1) := by
  unfold leaveRing
  try dsimp only
  exact (dropHeld_canonical (freeStrips_canonical g0))

theorem stopRing_canonical {a0 a1} (g0 : Canonical a1) : Canonical (stopRing a0 a1) := by
  unfold stopRing
  try dsimp only
  exact (foldl_canonical (fun _ _ h0 => (leaveRing_canonical h0)) (setPcie_canonical (setRing_canonical (setObj_canonical (addObj_canonical g0)))))

theorem stopRings_canonical {a0 a1} (g0 : Canonical a1) : Canonical (stopRings a0 a1) := by
  unfold stopRings
  try dsimp only
  exact (addObj_canonical (foldl_canonical (fun _ _ h0 => (ite_canonical (stopRing_canonical h0) h0)) g0))

theorem wDmaPhase_canonical {a0 a1 a2 a3} (g0 : Canonical a3) : Canonical (wDmaPhase a0 a1 a2 a3).1 := by
  unfold wDmaPhase
  try dsimp only
  exact (ite_fst_canonical (fst_canonical (refuse_canonical g0)) (ite_fst_canonical (fst_canonical (applyPhase_canonical (setObj_canonical g0))) (fst_canonical (refuse_canonical g0))))

theorem takeInput_canonical {a0 a1 a2 a3} (g0 : Canonical a3) : Canonical (takeInput a0 a1 a2 a3) := by
  unfold takeInput
  try dsimp only
  exact (sourceFrame_canonical (ite_canonical (foldl_canonical (fun _ _ h0 => (goodSet_canonical h0)) (by (try dsimp only); first | (split; exact g0; exact (foldl_canonical (fun _ _ h0 => (writeRegion_canonical h0)) g0)) | (split <;> first | exact g0 | exact (foldl_canonical (fun _ _ h0 => (writeRegion_canonical h0)) g0)))) (by (try dsimp only); first | (split; exact g0; exact (foldl_canonical (fun _ _ h0 => (writeRegion_canonical h0)) g0)) | (split <;> first | exact g0 | exact (foldl_canonical (fun _ _ h0 => (writeRegion_canonical h0)) g0)))))

theorem sendPart_canonical {a0 a1 a2} (g0 : Canonical a2) : Canonical (sendPart a0 a1 a2) := by
  unfold sendPart
  try dsimp only
  exact (by (try dsimp only); first | (split; exact g0; exact (ite_canonical g0 (emit_canonical (setRing_canonical (upd_free_canonical g0))))) | (split <;> first | exact g0 | exact (ite_canonical g0 (emit_canonical (setRing_canonical (upd_free_canonical g0))))))

theorem settleRing_canonical {a0 a1} (g0 : Canonical a1) : Canonical (settleRing a0 a1) := by
  unfold settleRing
  try dsimp only
  exact (ite_canonical (setObj_canonical g0) g0)

theorem abandonFrame_canonical {a0 a1 a2} (g0 : Canonical a2) : Canonical (abandonFrame a0 a1 a2) := by
  unfold abandonFrame
  try dsimp only
  exact (by (try dsimp only); first | (split; exact g0; exact (leaveRing_canonical (settleRing_canonical (setPcie_canonical (setRing_canonical g0))))) | (split <;> first | exact g0 | exact (leaveRing_canonical (settleRing_canonical (setPcie_canonical (setRing_canonical g0))))))

theorem abandonRing_canonical {a0 a1 a2 a3} (g0 : Canonical a3) : Canonical (abandonRing a0 a1 a2 a3) := by
  unfold abandonRing
  try dsimp only
  exact (foldl_canonical (fun _ _ h0 => (abandonFrame_canonical h0)) g0)

theorem stallPort_canonical {a0 a1 a2} (g0 : Canonical a2) : Canonical (stallPort a0 a1 a2) := by
  unfold stallPort
  try dsimp only
  exact (notePosted_canonical (capture_canonical (addObj_canonical (foldl_canonical (fun _ _ h0 => (abandonRing_canonical h0)) (sendPart_canonical g0)))))

theorem applyDma_canonical {a0 a1 a2} (g0 : Canonical a2) : Canonical (applyDma a0 a1 a2) := by
  unfold applyDma
  try dsimp only
  exact (setObj_canonical (setObj_canonical (setRing_canonical (setObj_canonical g0))))

theorem completeDesc_canonical {a0 a1 a2 a3 a4 a5} (g0 : Canonical a5) : Canonical (completeDesc a0 a1 a2 a3 a4 a5) := by
  unfold completeDesc
  try dsimp only
  exact (settleRing_canonical (ite_canonical (sendMsix_canonical (ite_canonical (addObj_canonical (setField_canonical (setRing_canonical (emit_canonical (notePosted_canonical g0))))) (addObj_canonical (setField_canonical (setRing_canonical (emit_canonical (notePosted_canonical g0))))))) (ite_canonical (addObj_canonical (setField_canonical (setRing_canonical (emit_canonical (notePosted_canonical g0))))) (addObj_canonical (setField_canonical (setRing_canonical (emit_canonical (notePosted_canonical g0))))))))

theorem endFrame_canonical {a0 a1 a2 a3} (g0 : Canonical a3) : Canonical (endFrame a0 a1 a2 a3) := by
  unfold endFrame
  try dsimp only
  exact (by (try dsimp only); first | (split; exact g0; exact (leaveRing_canonical (completeDesc_canonical (setRing_canonical g0)))) | (split <;> first | exact g0 | exact (leaveRing_canonical (completeDesc_canonical (setRing_canonical g0)))))

theorem writeBand_canonical {a0 a1 a2 a3} (g0 : Canonical a3) : Canonical (writeBand a0 a1 a2 a3) := by
  unfold writeBand
  try dsimp only
  exact (ite_canonical (endFrame_canonical (setRing_canonical (ite_canonical (setOverlay_canonical (ite_canonical (takeSets_canonical (notePosted_canonical (emit_canonical (upd_free_canonical g0)))) (notePosted_canonical (emit_canonical (upd_free_canonical g0))))) (ite_canonical (takeSets_canonical (notePosted_canonical (emit_canonical (upd_free_canonical g0)))) (notePosted_canonical (emit_canonical (upd_free_canonical g0))))))) (setRing_canonical (ite_canonical (setOverlay_canonical (ite_canonical (takeSets_canonical (notePosted_canonical (emit_canonical (upd_free_canonical g0)))) (notePosted_canonical (emit_canonical (upd_free_canonical g0))))) (ite_canonical (takeSets_canonical (notePosted_canonical (emit_canonical (upd_free_canonical g0)))) (notePosted_canonical (emit_canonical (upd_free_canonical g0)))))))

theorem execDoorbellWrite_canonical {a0 a1 a2 a3 a4} (g0 : Canonical a4) : CanonOut (execDoorbellWrite a0 a1 a2 a3 a4) := by
  unfold execDoorbellWrite
  try dsimp only
  exact (whenLive_canonical g0 (fun _ h0 => (ite_canonical h0 (ite_canonical (refuse_canonical h0) (settleRing_canonical (setField_canonical (setRing_canonical h0)))))))

theorem execInputReadCompletion_canonical {a0 a1 a2} (g0 : Canonical a2) : CanonOut (execInputReadCompletion a0 a1 a2) := by
  unfold execInputReadCompletion
  try dsimp only
  exact (whenLive_canonical g0 (fun _ h0 => (by (try dsimp only); first | (split; exact h0; exact (ite_canonical (completeDesc_canonical h0) (ite_canonical (completeDesc_canonical h0) (completeDesc_canonical (foldl_canonical (fun _ _ h1 => (takeInput_canonical h1)) h0))))) | (split <;> first | exact h0 | exact (ite_canonical (completeDesc_canonical h0) (ite_canonical (completeDesc_canonical h0) (completeDesc_canonical (foldl_canonical (fun _ _ h1 => (takeInput_canonical h1)) h0))))))))

theorem execStallLimitExpiry_canonical {a0 a1} (g0 : Canonical a1) : CanonOut (execStallLimitExpiry a0 a1) := by
  unfold execStallLimitExpiry
  try dsimp only
  exact (whenLive_canonical g0 (fun _ h0 => (ite_canonical (stallPort_canonical h0) h0)))

theorem execLateAbandon_canonical {a0 a1} (g0 : Canonical a1) : CanonOut (execLateAbandon a0 a1) := by
  unfold execLateAbandon
  try dsimp only
  exact (whenLive_canonical g0 (fun _ h0 => (ite_canonical (by (try dsimp only); first | (split; exact h0; exact (ite_canonical h0 (ite_canonical (stallPort_canonical h0) (capture_canonical (abandonFrame_canonical h0))))) | (split <;> first | exact h0 | exact (ite_canonical h0 (ite_canonical (stallPort_canonical h0) (capture_canonical (abandonFrame_canonical h0)))))) h0)))

theorem execPciePowerStateWrite_canonical {a0 a1 a2} (g0 : Canonical a2) : CanonOut (execPciePowerStateWrite a0 a1 a2) := by
  unfold execPciePowerStateWrite
  try dsimp only
  exact (whenLive_canonical g0 (fun _ h0 => (setPcie_canonical h0)))

theorem sendOwed_canonical {a0 a1} (g0 : Canonical a1) : Canonical (sendOwed a0 a1) := by
  unfold sendOwed
  try dsimp only
  exact (foldl_canonical (fun _ _ h0 => (completeDesc_canonical (setRing_canonical h0))) (setPcie_canonical g0))

theorem execOutputBandWrite_canonical {a0 a1} (g0 : Canonical a1) : CanonOut (execOutputBandWrite a0 a1) := by
  unfold execOutputBandWrite
  try dsimp only
  exact (whenLive_canonical g0 (fun _ h0 => (by (try dsimp only); first | (split; exact (ite_canonical (sendOwed_canonical h0) h0); exact (ite_canonical (endFrame_canonical (ite_canonical (sendOwed_canonical h0) h0)) (writeBand_canonical (ite_canonical (sendOwed_canonical h0) h0)))) | (split <;> first | exact (ite_canonical (sendOwed_canonical h0) h0) | exact (ite_canonical (endFrame_canonical (ite_canonical (sendOwed_canonical h0) h0)) (writeBand_canonical (ite_canonical (sendOwed_canonical h0) h0)))))))

theorem execCompletionTimeout_canonical {a0 a1 a2} (g0 : Canonical a2) : CanonOut (execCompletionTimeout a0 a1 a2) := by
  unfold execCompletionTimeout
  try dsimp only
  exact (whenLive_canonical g0 (fun _ h0 => (by (try dsimp only); first | (split; exact (by (try dsimp only); first | (split; exact h0; exact (useFree_canonical (completeDesc_canonical h0))) | (split <;> first | exact h0 | exact (useFree_canonical (completeDesc_canonical h0)))); exact (loadReadFails_canonical h0); exact (by (try dsimp only); first | (split; exact (ite_canonical (fwResult_canonical (spoilBlocks_canonical (upd_fw_canonical (fun h => h.staging) h0))) h0); exact h0) | (split <;> first | exact (ite_canonical (fwResult_canonical (spoilBlocks_canonical (upd_fw_canonical (fun h => h.staging) h0))) h0) | exact h0))) | (split <;> first | exact (by (try dsimp only); first | (split; exact h0; exact (useFree_canonical (completeDesc_canonical h0))) | (split <;> first | exact h0 | exact (useFree_canonical (completeDesc_canonical h0)))) | exact (loadReadFails_canonical h0) | exact (by (try dsimp only); first | (split; exact (ite_canonical (fwResult_canonical (spoilBlocks_canonical (upd_fw_canonical (fun h => h.staging) h0))) h0); exact h0) | (split <;> first | exact (ite_canonical (fwResult_canonical (spoilBlocks_canonical (upd_fw_canonical (fun h => h.staging) h0))) h0) | exact h0))))))

theorem execFunctionLevelReset_canonical {a0 a1} (g0 : Canonical a1) : CanonOut (execFunctionLevelReset a0 a1) := by
  unfold execFunctionLevelReset
  try dsimp only
  exact (whenLive_canonical g0 (fun _ h0 => (clearLatches_canonical (setPcie_canonical (upd_io_canonical (fun h => { h.io with msixTable := by (try dsimp only); exact (h.io.msixTable.filter _) }) (stopRings_canonical h0))))))

theorem wDmaConfig_canonical {a0 a1 a2 a3} (g0 : Canonical a3) : Canonical (wDmaConfig a0 a1 a2 a3).1 := by
  unfold wDmaConfig
  try dsimp only
  exact (by (try dsimp only); first | (split; exact (fst_canonical (refuse_canonical g0)); exact (fst_canonical (applyDma_canonical g0))) | (split <;> first | exact (fst_canonical (refuse_canonical g0)) | exact (fst_canonical (applyDma_canonical g0))))

theorem execPcieFlitRetry_canonical {a0 a1} (g0 : Canonical a1) : CanonOut (execPcieFlitRetry a0 a1) := by
  unfold execPcieFlitRetry
  try dsimp only
  exact (whenLive_canonical g0 (fun _ h0 => h0))

theorem wDmaRing_canonical {a0 a1 a2 a3 a4} (g0 : Canonical a4) : Canonical (wDmaRing a0 a1 a2 a3 a4).1 := by
  unfold wDmaRing
  try dsimp only
  exact (ite_fst_canonical (fst_canonical (refuse_canonical g0)) (ite_fst_canonical (fst_canonical (refuse_canonical g0)) (fst_canonical (setObj_canonical g0))))

theorem execPcieLinkUp_canonical {a0 a1 a2 a3} (g0 : Canonical a3) : CanonOut (execPcieLinkUp a0 a1 a2 a3) := by
  unfold execPcieLinkUp
  try dsimp only
  exact (whenLive_canonical g0 (fun _ h0 => (setObj_canonical h0)))

theorem execPcieLinkDown_canonical {a0 a1} (g0 : Canonical a1) : CanonOut (execPcieLinkDown a0 a1) := by
  unfold execPcieLinkDown
  try dsimp only
  exact (whenLive_canonical g0 (fun _ h0 => (ite_canonical (setObj_canonical (stopRings_canonical h0)) h0)))

theorem setLink_canonical {a0 a1 a2} (g0 : Canonical a2) : Canonical (setLink a0 a1 a2) := by
  unfold setLink
  try dsimp only
  exact (upd_fab_canonical (fun h => { h.fab with links := by (try dsimp only); exact (h.fab.links.set _ _) }) g0)

theorem loseLane_canonical {a0 a1 a2 a3 a4} (g0 : Canonical a4) : Canonical (loseLane a0 a1 a2 a3 a4) := by
  unfold loseLane
  try dsimp only
  exact (learn_canonical (setLink_canonical g0))

theorem startLinkRetrain_canonical {a0 a1} (g0 : Canonical a1) : Canonical (startLinkRetrain a0 a1) := by
  unfold startLinkRetrain
  try dsimp only
  exact (setLinkState_canonical (setLink_canonical g0))

theorem rerouteLink_canonical {a0 a1 a2} (g0 : Canonical a2) : Canonical (rerouteLink a0 a1 a2) := by
  unfold rerouteLink
  try dsimp only
  exact (ite_canonical (perturb_canonical (startLinkRetrain_canonical g0)) (startLinkRetrain_canonical g0))

theorem execLaneFailure_canonical {a0 a1 a2 a3 a4} (g0 : Canonical a4) : CanonOut (execLaneFailure a0 a1 a2 a3 a4) := by
  unfold execLaneFailure
  try dsimp only
  exact (whenLive_canonical g0 (fun _ h0 => (ite_canonical (ite_canonical (ite_canonical (loseLane_canonical h0) (setLink_canonical (loseLane_canonical h0))) (ite_canonical (rerouteLink_canonical (loseLane_canonical h0)) (loseLane_canonical h0))) h0)))

theorem replayFlit_canonical {a0 a1} (g0 : Canonical a1) : Canonical (replayFlit a0 a1) := by
  unfold replayFlit
  try dsimp only
  exact (ite_canonical (startLinkRetrain_canonical (perfCount_canonical g0)) (setLink_canonical (perfCount_canonical g0)))

theorem execFlitCheckFailure_canonical {a0 a1 a2} (g0 : Canonical a2) : CanonOut (execFlitCheckFailure a0 a1 a2) := by
  unfold execFlitCheckFailure
  try dsimp only
  exact (whenLive_canonical g0 (fun _ h0 => (ite_canonical (ite_canonical (perturb_canonical (replayFlit_canonical h0)) (replayFlit_canonical h0)) h0)))

theorem retrainRecord_canonical {a0 a1 a2} (g0 : Canonical a2) : Canonical (retrainRecord a0 a1 a2) := by
  unfold retrainRecord
  try dsimp only
  exact (capture_canonical g0)

theorem execLinkRetrainComplete_canonical {a0 a1 a2 a3} (g0 : Canonical a3) : CanonOut (execLinkRetrainComplete a0 a1 a2 a3) := by
  unfold execLinkRetrainComplete
  try dsimp only
  exact (whenLive_canonical g0 (fun _ h0 => (ite_canonical (ite_canonical (retrainRecord_canonical (setLinkState_canonical (setLink_canonical (foldl_canonical (fun _ _ h1 => (ite_canonical h1 (loseLane_canonical h1))) h0)))) (retrainRecord_canonical (setLinkState_canonical (setLink_canonical (foldl_canonical (fun _ _ h1 => (ite_canonical h1 (loseLane_canonical h1))) h0))))) h0)))

theorem execLinkRetrain_canonical {a0 a1 a2} (g0 : Canonical a2) : CanonOut (execLinkRetrain a0 a1 a2) := by
  unfold execLinkRetrain
  try dsimp only
  exact (whenLive_canonical g0 (fun _ h0 => (ite_canonical (rerouteLink_canonical h0) h0)))

theorem execLinkSlip_canonical {a0 a1} (g0 : Canonical a1) : CanonOut (execLinkSlip a0 a1) := by
  unfold execLinkSlip
  try dsimp only
  exact (whenLive_canonical g0 (fun _ h0 => (ite_canonical (rerouteLink_canonical h0) h0)))

theorem execLinkRetrainRetry_canonical {a0 a1} (g0 : Canonical a1) : CanonOut (execLinkRetrainRetry a0 a1) := by
  unfold execLinkRetrainRetry
  try dsimp only
  exact (whenLive_canonical g0 (fun _ h0 => (by (try dsimp only); first | (split; exact (ite_canonical (setLinkState_canonical (setLink_canonical h0)) h0); exact h0) | (split <;> first | exact (ite_canonical (setLinkState_canonical (setLink_canonical h0)) h0) | exact h0))))

theorem execGroupRetrainComplete_canonical {a0 a1 a2 a3} (g0 : Canonical a3) : CanonOut (execGroupRetrainComplete a0 a1 a2 a3) := by
  unfold execGroupRetrainComplete
  try dsimp only
  exact (whenLive_canonical g0 (fun _ h0 => (setLink_canonical h0)))

theorem spoilWord_canonical {a0 a1 a2} (g0 : Canonical a2) : Canonical (spoilWord a0 a1 a2) := by
  unfold spoilWord
  try dsimp only
  exact (useFree_canonical (writeFrame_canonical g0))

theorem concealDelayed_canonical {a0 a1 a2} (g0 : Canonical a2) : Canonical (concealDelayed a0 a1 a2) := by
  unfold concealDelayed
  try dsimp only
  exact (by (try dsimp only); first | (split; exact g0; exact (addObj_canonical (setAudio_canonical g0))) | (split <;> first | exact g0 | exact (addObj_canonical (setAudio_canonical g0))))

theorem movePins_canonical {a0 a1} (g0 : Canonical a1) : Canonical (movePins a0 a1) := by
  unfold movePins
  try dsimp only
  exact (foldl_canonical (fun _ _ h0 => (foldl_canonical (fun _ _ h1 => (updSlot_canonical h1)) h0)) g0)

theorem moveSite_canonical {a0 a1 a2} (g0 : Canonical a2) : Canonical (moveSite a0 a1 a2) := by
  unfold moveSite
  refine foldl_canonical (fun _ _ h => setObj_canonical (setObj_canonical h)) (foldl_canonical (fun s t h => ?_) (movePins_canonical
    (foldl_canonical (fun _ _ h => setPageMap_canonical h) (foldl_canonical (fun s e h => ?_) g0))))
  · exact upd_fab_canonical (fun h => { h.fab with siteOf := by dsimp only; exact h.fab.siteOf.set _ _ }) h
  · exact freeFrameAt_canonical (setFrame_canonical (fun h => h.frame e.1) h)

theorem stopLoadOf_canonical {a0 a1} (g0 : Canonical a1) : Canonical (stopLoadOf a0 a1) := by
  unfold stopLoadOf
  try dsimp only
  exact (by (try dsimp only); first | (split; exact (ite_canonical (stopLoad_canonical g0) g0); exact g0) | (split <;> first | exact (ite_canonical (stopLoad_canonical g0) g0) | exact g0))

theorem killSite_canonical {a0 a1} (g0 : Canonical a1) : Canonical (killSite a0 a1) := by
  unfold killSite
  try dsimp only
  exact (foldl_canonical (fun _ _ h0 => (foldl_canonical (fun _ _ h1 => (ite_canonical (startKill_canonical h1) h1)) h0)) g0)

theorem tileRecord_canonical {a0 a1 a2 a3} (g0 : Canonical a3) : Canonical (tileRecord a0 a1 a2 a3) := by
  unfold tileRecord
  try dsimp only
  exact (capture_canonical g0)

theorem loseSite_canonical {a0 a1} (g0 : Canonical a1) : Canonical (loseSite a0 a1) := by
  unfold loseSite
  try dsimp only
  exact (by (try dsimp only); first | (split; exact (jobFault_canonical (stopLoadOf_canonical (tileRecord_canonical (learn_canonical (foldl_canonical (fun _ _ h0 => (setObj_canonical h0)) (killSite_canonical g0)))))); exact (tileRecord_canonical (learn_canonical (foldl_canonical (fun _ _ h0 => (setObj_canonical h0)) (killSite_canonical g0))))) | (split <;> first | exact (jobFault_canonical (stopLoadOf_canonical (tileRecord_canonical (learn_canonical (foldl_canonical (fun _ _ h0 => (setObj_canonical h0)) (killSite_canonical g0)))))) | exact (tileRecord_canonical (learn_canonical (foldl_canonical (fun _ _ h0 => (setObj_canonical h0)) (killSite_canonical g0))))))

theorem loseMoves_canonical {a0 a1} (g0 : Canonical a1) : Canonical (loseMoves a0 a1) := by
  unfold loseMoves
  try dsimp only
  exact (foldl_canonical (fun _ _ h0 => (loseSite_canonical (ite_canonical h0 (updPart_canonical h0)))) (upd_fab_canonical (fun h => { h.fab with  }) g0))

theorem reclaimTile_canonical {a0 a1 a2} (g0 : Canonical a2) : Canonical (reclaimTile a0 a1 a2) := by
  unfold reclaimTile
  try dsimp only
  exact (ite_canonical g0 (ite_canonical (startReclaim_canonical g0) (updPart_canonical g0)))

theorem startMove_canonical {a0 a1 a2 a3} (g0 : Canonical a3) : Canonical (startMove a0 a1 a2 a3) := by
  unfold startMove
  try dsimp only
  exact (perturb_canonical (foldl_canonical (fun _ _ h0 => (reclaimTile_canonical h0)) (killSite_canonical (updPart_canonical (upd_fab_canonical (fun h => { h.fab with  }) (stopLoadOf_canonical g0))))))

theorem failSite_canonical {a0 a1 a2} (g0 : Canonical a2) : Canonical (failSite a0 a1 a2) := by
  unfold failSite
  try dsimp only
  exact (ite_canonical (by (try dsimp only); first | (split; exact (ite_canonical (startMove_canonical (loseMoves_canonical g0)) (ite_canonical g0 (upd_fab_canonical (fun h => { h.fab with  }) g0))); exact (releaseResets_canonical (loseSite_canonical (loseMoves_canonical g0)))) | (split <;> first | exact (ite_canonical (startMove_canonical (loseMoves_canonical g0)) (ite_canonical g0 (upd_fab_canonical (fun h => { h.fab with  }) g0))) | exact (releaseResets_canonical (loseSite_canonical (loseMoves_canonical g0))))) g0)

theorem resumeFaults_canonical {a0} (g0 : Canonical a0) : Canonical (resumeFaults a0) := by
  unfold resumeFaults
  try dsimp only
  exact (foldl_canonical (fun _ _ h0 => (failSite_canonical h0)) (upd_fab_canonical (fun h => { h.fab with  }) g0))

theorem execWeirRestartComplete_canonical {a0} (g0 : Canonical a0) : CanonOut (execWeirRestartComplete a0) := by
  unfold execWeirRestartComplete
  try dsimp only
  exact (whenLive_canonical g0 (fun _ h0 => (by (try dsimp only); first | (split; exact h0; exact (by (try dsimp only); first | (split; exact (resumeFaults_canonical (runWeir_canonical h0)); exact (upd_fw_canonical (fun h => h.staging) h0)) | (split <;> first | exact (resumeFaults_canonical (runWeir_canonical h0)) | exact (upd_fw_canonical (fun h => h.staging) h0)))) | (split <;> first | exact h0 | exact (by (try dsimp only); first | (split; exact (resumeFaults_canonical (runWeir_canonical h0)); exact (upd_fw_canonical (fun h => h.staging) h0)) | (split <;> first | exact (resumeFaults_canonical (runWeir_canonical h0)) | exact (upd_fw_canonical (fun h => h.staging) h0)))))))

theorem binError_canonical {a0 a1} (g0 : Canonical a1) : Canonical (binError a0 a1) := by
  unfold binError
  try dsimp only
  exact (ite_canonical (setOverlay_canonical g0) (by (try dsimp only); first | (split; exact g0; exact (capture_canonical (setObj_canonical (addObj_canonical (addObj_canonical (setOverlay_canonical g0)))))) | (split <;> first | exact g0 | exact (capture_canonical (setObj_canonical (addObj_canonical (addObj_canonical (setOverlay_canonical g0))))))))

theorem execTileMoveComplete_canonical {a0 a1} (g0 : Canonical a1) : CanonOut (execTileMoveComplete a0 a1) := by
  unfold execTileMoveComplete
  try dsimp only
  exact (whenLive_canonical g0 (fun _ h0 => (by (try dsimp only); first | (split; exact h0; exact (ite_canonical (releaseResets_canonical (ite_canonical (tileRecord_canonical (learn_canonical (upd_fab_canonical (fun h => { h.fab with  }) (moveSite_canonical h0)))) (updPart_canonical (tileRecord_canonical (learn_canonical (upd_fab_canonical (fun h => { h.fab with  }) (moveSite_canonical h0))))))) h0)) | (split <;> first | exact h0 | exact (ite_canonical (releaseResets_canonical (ite_canonical (tileRecord_canonical (learn_canonical (upd_fab_canonical (fun h => { h.fab with  }) (moveSite_canonical h0)))) (updPart_canonical (tileRecord_canonical (learn_canonical (upd_fab_canonical (fun h => { h.fab with  }) (moveSite_canonical h0))))))) h0)))))

theorem execTileFault_canonical {a0 a1 a2} (g0 : Canonical a2) : CanonOut (execTileFault a0 a1 a2) := by
  unfold execTileFault
  try dsimp only
  exact (whenLive_canonical g0 (fun _ h0 => (failSite_canonical h0)))

theorem reloadPage_canonical {a0 a1 a2 a3 a4} (g0 : Canonical a4) : Canonical (reloadPage a0 a1 a2 a3 a4) := by
  unfold reloadPage
  try dsimp only
  exact (setFrame_canonical (fun h => by first | exact h.frame _ | exact h.cslot _ | exact PageWf.write (h.frame _) _ _ | exact PageWf.write (h.cslot _) _ _ | exact pageOf_wf _ | exact PageWf.zero | exact PageWf.blank _) g0)

theorem tileWordError_canonical {a0 a1 a2} (g0 : Canonical a2) : Canonical (tileWordError a0 a1 a2) := by
  unfold tileWordError
  try dsimp only
  exact (by (try dsimp only); first | (split; exact g0; exact (by (try dsimp only); first | (split; exact (spoilWord_canonical g0); exact (by (try dsimp only); first | (split; exact (spoilWord_canonical g0); exact (by (try dsimp only); first | (split; exact (reloadPage_canonical g0); exact (jobFault_canonical (spoilWord_canonical g0))) | (split <;> first | exact (reloadPage_canonical g0) | exact (jobFault_canonical (spoilWord_canonical g0))))) | (split <;> first | exact (spoilWord_canonical g0) | exact (by (try dsimp only); first | (split; exact (reloadPage_canonical g0); exact (jobFault_canonical (spoilWord_canonical g0))) | (split <;> first | exact (reloadPage_canonical g0) | exact (jobFault_canonical (spoilWord_canonical g0))))))) | (split <;> first | exact (spoilWord_canonical g0) | exact (by (try dsimp only); first | (split; exact (spoilWord_canonical g0); exact (by (try dsimp only); first | (split; exact (reloadPage_canonical g0); exact (jobFault_canonical (spoilWord_canonical g0))) | (split <;> first | exact (reloadPage_canonical g0) | exact (jobFault_canonical (spoilWord_canonical g0))))) | (split <;> first | exact (spoilWord_canonical g0) | exact (by (try dsimp only); first | (split; exact (reloadPage_canonical g0); exact (jobFault_canonical (spoilWord_canonical g0))) | (split <;> first | exact (reloadPage_canonical g0) | exact (jobFault_canonical (spoilWord_canonical g0))))))))) | (split <;> first | exact g0 | exact (by (try dsimp only); first | (split; exact (spoilWord_canonical g0); exact (by (try dsimp only); first | (split; exact (spoilWord_canonical g0); exact (by (try dsimp only); first | (split; exact (reloadPage_canonical g0); exact (jobFault_canonical (spoilWord_canonical g0))) | (split <;> first | exact (reloadPage_canonical g0) | exact (jobFault_canonical (spoilWord_canonical g0))))) | (split <;> first | exact (spoilWord_canonical g0) | exact (by (try dsimp only); first | (split; exact (reloadPage_canonical g0); exact (jobFault_canonical (spoilWord_canonical g0))) | (split <;> first | exact (reloadPage_canonical g0) | exact (jobFault_canonical (spoilWord_canonical g0))))))) | (split <;> first | exact (spoilWord_canonical g0) | exact (by (try dsimp only); first | (split; exact (spoilWord_canonical g0); exact (by (try dsimp only); first | (split; exact (reloadPage_canonical g0); exact (jobFault_canonical (spoilWord_canonical g0))) | (split <;> first | exact (reloadPage_canonical g0) | exact (jobFault_canonical (spoilWord_canonical g0))))) | (split <;> first | exact (spoilWord_canonical g0) | exact (by (try dsimp only); first | (split; exact (reloadPage_canonical g0); exact (jobFault_canonical (spoilWord_canonical g0))) | (split <;> first | exact (reloadPage_canonical g0) | exact (jobFault_canonical (spoilWord_canonical g0))))))))))

theorem lineError_canonical {a0 a1 a2} (g0 : Canonical a2) : Canonical (lineError a0 a1 a2) := by
  unfold lineError
  try dsimp only
  exact (setPort_canonical g0)

theorem killUnits_canonical {a0 a1} (g0 : Canonical a1) : Canonical (killUnits a0 a1) := by
  unfold killUnits
  try dsimp only
  exact (foldl_canonical (fun _ _ h0 => (ite_canonical h0 (startKill_canonical h0))) g0)

theorem execMotionEngineFault_canonical {a0 a1} (g0 : Canonical a1) : CanonOut (execMotionEngineFault a0 a1) := by
  unfold execMotionEngineFault
  try dsimp only
  exact (whenLive_canonical g0 (fun _ h0 => (ite_canonical (capture_canonical (learn_canonical (setObj_canonical (upd_fab_canonical (fun h => { h.fab with  }) (killUnits_canonical h0))))) h0)))

theorem slotWordError_canonical {a0 a1 a2} (g0 : Canonical a2) : Canonical (slotWordError a0 a1 a2) := by
  unfold slotWordError
  try dsimp only
  exact (ite_canonical (refuseCommand_canonical g0) g0)

theorem wordError_canonical {a0 a1 a2 a3} (g0 : Canonical a3) : Canonical (wordError a0 a1 a2 a3) := by
  unfold wordError
  try dsimp only
  exact (by (try dsimp only); first | (split; exact (ite_canonical (tileWordError_canonical g0) (slotWordError_canonical g0)); exact (by (try dsimp only); first | (split; exact (jobFault_canonical (applyUpdate_canonical g0)); exact (applyUpdate_canonical g0)) | (split <;> first | exact (jobFault_canonical (applyUpdate_canonical g0)) | exact (applyUpdate_canonical g0))); exact (concealDelayed_canonical g0); exact (binError_canonical g0); exact (lineError_canonical g0); exact (ite_canonical (rillUnresponsive_canonical g0) g0); exact (putSlot_canonical g0)) | (split <;> first | exact (ite_canonical (tileWordError_canonical g0) (slotWordError_canonical g0)) | exact (by (try dsimp only); first | (split; exact (jobFault_canonical (applyUpdate_canonical g0)); exact (applyUpdate_canonical g0)) | (split <;> first | exact (jobFault_canonical (applyUpdate_canonical g0)) | exact (applyUpdate_canonical g0))) | exact (concealDelayed_canonical g0) | exact (binError_canonical g0) | exact (lineError_canonical g0) | exact (ite_canonical (rillUnresponsive_canonical g0) g0) | exact (putSlot_canonical g0)))

theorem execUncorrectableSramError_canonical {a0 a1 a2 a3} (g0 : Canonical a3) : CanonOut (execUncorrectableSramError a0 a1 a2 a3) := by
  unfold execUncorrectableSramError
  try dsimp only
  exact (whenLive_canonical g0 (fun _ h0 => (ite_canonical (restartWeir_canonical h0) (ite_canonical h0 (capture_canonical (wordError_canonical h0))))))

theorem execSramScrub_canonical {a0 a1 a2 a3} (g0 : Canonical a3) : CanonOut (execSramScrub a0 a1 a2 a3) := by
  unfold execSramScrub
  try dsimp only
  exact (whenLive_canonical g0 (fun _ h0 => (ite_canonical (perfCount_canonical h0) h0)))

theorem killDie_canonical {a0 a1} (g0 : Canonical a1) : Canonical (killDie a0 a1) := by
  unfold killDie
  try dsimp only
  exact (foldl_canonical (fun _ _ h0 => (foldl_canonical (fun _ _ h1 => (foldl_canonical (fun _ _ h2 => (startKill_canonical h2)) h1)) h0)) (foldl_canonical (fun _ _ h0 => (killSite_canonical h0)) g0))

theorem execComputeDieFault_canonical {a0 a1} (g0 : Canonical a1) : CanonOut (execComputeDieFault a0 a1) := by
  unfold execComputeDieFault
  try dsimp only
  exact (whenLive_canonical g0 (fun _ h0 => (ite_canonical (ite_canonical (loseStack_canonical (ite_canonical (loseStack_canonical (learn_canonical (foldl_canonical (fun _ _ h1 => (setObj_canonical h1)) (foldl_canonical (fun _ _ h1 => (foldl_canonical (fun _ _ h2 => (setObj_canonical h2)) h1)) (killDie_canonical (setField_canonical h0)))))) (learn_canonical (foldl_canonical (fun _ _ h1 => (setObj_canonical h1)) (foldl_canonical (fun _ _ h1 => (foldl_canonical (fun _ _ h2 => (setObj_canonical h2)) h1)) (killDie_canonical (setField_canonical h0))))))) (ite_canonical (loseStack_canonical (learn_canonical (foldl_canonical (fun _ _ h1 => (setObj_canonical h1)) (foldl_canonical (fun _ _ h1 => (foldl_canonical (fun _ _ h2 => (setObj_canonical h2)) h1)) (killDie_canonical (setField_canonical h0)))))) (learn_canonical (foldl_canonical (fun _ _ h1 => (setObj_canonical h1)) (foldl_canonical (fun _ _ h1 => (foldl_canonical (fun _ _ h2 => (setObj_canonical h2)) h1)) (killDie_canonical (setField_canonical h0))))))) h0)))

theorem deliveredFlash_canonical {a0 a1} (g0 : Canonical a1) : Canonical (deliveredFlash a0 a1) := by
  unfold deliveredFlash
  try dsimp only
  exact (foldl_canonical (fun _ _ h0 => (flashWrite_canonical h0)) g0)

theorem takeBoard_canonical {a0 a1} (g0 : Canonical a1) : Canonical (takeBoard a0 a1) := by
  unfold takeBoard
  try dsimp only
  exact (upd_fab_canonical (fun h => { h.fab with  }) (ite_canonical (deliveredFlash_canonical (upd_fab_canonical (fun h => { h.fab with  }) g0)) g0))

theorem commDefaults_canonical {a0} (g0 : Canonical a0) : Canonical (commDefaults a0) := by
  unfold commDefaults
  try dsimp only
  exact (foldl_canonical (fun _ _ h0 => (setObj_canonical h0)) (setObj_canonical (dropObjs_canonical g0)))

theorem canReset_canonical {a0} (g0 : Canonical a0) : Canonical (canReset a0) := by
  unfold canReset
  try dsimp only
  exact (ite_canonical (setField_canonical (upd_io_canonical (fun h => { h.io with can := { can_init_ok with  } }) (commDefaults_canonical g0))) (emit_canonical (setField_canonical (upd_io_canonical (fun h => { h.io with can := { can_init_ok with  } }) (commDefaults_canonical g0)))))

theorem endStep_canonical {a0 a1 a2 a3 a4 a5} (g0 : Canonical a5) : Canonical (endStep a0 a1 a2 a3 a4 a5) := by
  unfold endStep
  try dsimp only
  exact (capture_canonical (setObj_canonical (upd_fab_canonical (fun h => { h.fab with  }) (setObj_canonical (setObj_canonical g0)))))

theorem bootWeir_canonical {a0 a1} (g0 : Canonical a1) : Canonical (bootWeir a0 a1) := by
  unfold bootWeir
  try dsimp only
  exact (by (try dsimp only); first | (split; exact (endStep_canonical (runWeir_canonical (ite_canonical (setObj_canonical (upd_fw_canonical (fun h => h.staging) (restoreAlmanac_canonical g0))) (setSlotState_canonical (setObj_canonical (upd_fw_canonical (fun h => h.staging) (restoreAlmanac_canonical g0))))))); exact (emit_canonical (setObj_canonical (setObj_canonical (setSlotState_canonical (setSlotState_canonical (setObj_canonical (upd_fw_canonical (fun h => h.staging) (restoreAlmanac_canonical g0))))))))) | (split <;> first | exact (endStep_canonical (runWeir_canonical (ite_canonical (setObj_canonical (upd_fw_canonical (fun h => h.staging) (restoreAlmanac_canonical g0))) (setSlotState_canonical (setObj_canonical (upd_fw_canonical (fun h => h.staging) (restoreAlmanac_canonical g0))))))) | exact (emit_canonical (setObj_canonical (setObj_canonical (setSlotState_canonical (setSlotState_canonical (setObj_canonical (upd_fw_canonical (fun h => h.staging) (restoreAlmanac_canonical g0))))))))))

theorem execPowerGood_canonical {a0 a1 a2} (g0 : Canonical a2) : CanonOut (execPowerGood a0 a1 a2) := by
  unfold execPowerGood
  try dsimp only
  exact (ite_out_canonical (next_canonical g0) (next_canonical (bootWeir_canonical (addObj_canonical (canReset_canonical (setObj_canonical (setObj_canonical (upd_many_canonical (takeBoard_canonical g0) fun h => { h with sensors := by (try dsimp only); exact h.sensors }))))))))

theorem quietPort_canonical {a0 a1} (g0 : Canonical a1) : Canonical (quietPort a0 a1) := by
  unfold quietPort
  try dsimp only
  exact (refreshLevel_canonical (setPort_canonical g0))

theorem tripSeq_canonical {a0 a1} (g0 : Canonical a1) : Canonical (tripSeq a0 a1) := by
  unfold tripSeq
  try dsimp only
  exact (ite_canonical g0 (setWatched_canonical (setSeq_canonical (setObj_canonical (foldl_canonical (fun _ _ h0 => (ite_canonical (quietPort_canonical h0) (ite_canonical (stopRing_canonical h0) h0))) g0)))))

theorem dropLinks_canonical {a0} (g0 : Canonical a0) : Canonical (dropLinks a0) := by
  unfold dropLinks
  try dsimp only
  exact (setObj_canonical (upd_fab_canonical (fun h => { h.fab with links := by (try dsimp only); exact (by first | exact Tidy.nil _ | exact Rising.nil) }) g0))

theorem fillUnits_canonical {a0} (g0 : Canonical a0) : Canonical (fillUnits a0) := by
  unfold fillUnits
  try dsimp only
  exact (foldl_canonical (fun _ _ h0 => (setObj_canonical h0)) (foldl_canonical (fun _ _ h0 => (setObj_canonical (setObj_canonical h0))) (setObj_canonical (setObj_canonical (setObj_canonical (setObj_canonical g0))))))

theorem loseCompute_canonical {a0} (g0 : Canonical a0) : Canonical (loseCompute a0) := by
  unfold loseCompute
  try dsimp only
  exact (foldl_canonical (fun _ _ h0 => (updPart_canonical (setObj_canonical h0))) (updateActive_canonical (dropLinks_canonical (upd_many_canonical (setObj_canonical (ite_canonical (fillUnits_canonical (dropObjs_canonical (by (try dsimp only); first | (split; exact (stopLoad_canonical g0); exact g0) | (split <;> first | exact (stopLoad_canonical g0) | exact g0)))) (dropObjs_canonical (by (try dsimp only); first | (split; exact (stopLoad_canonical g0); exact g0) | (split <;> first | exact (stopLoad_canonical g0) | exact g0))))) fun h => { h with fab := by (try dsimp only); exact { h.fab with siteOf := by (try dsimp only); exact (by first | exact Tidy.nil _ | exact Rising.nil) }, tl := by (try dsimp only); exact tiles_init_ok, ci := by (try dsimp only); exact cistern_init_ok, pt := by (try dsimp only); exact parts_init_ok, st := by (try dsimp only); exact streams_init_ok }))))

theorem powerOff_canonical {a0} (g0 : Canonical a0) : Canonical (powerOff a0) where
  objs := Rising.nil
  width := by simp [powerOff, State.reset]
  latches := Tidy.nil _
  flash := g0.flash
  sensors := Rising.nil
  staging := Tidy.nil _
  fab := ⟨Rising.nil, Tidy.nil _, Tidy.nil _⟩
  tl := tiles_init_ok
  ci := cistern_init_ok
  pt := parts_init_ok
  sy := syncstore_init_ok
  st := streams_init_ok
  io := ports_init_ok
  alm := Tidy.nil _

theorem execHubPllLockLoss_canonical {a0} (g0 : Canonical a0) : CanonOut (execHubPllLockLoss a0) := by
  unfold execHubPllLockLoss
  try dsimp only
  exact (whenLive_canonical g0 (fun _ h0 => (powerOff_canonical h0)))

theorem setTripN_canonical {a0 a1} (g0 : Canonical a1) : Canonical (setTripN a0 a1) := by
  unfold setTripN
  try dsimp only
  exact (ite_canonical g0 (emit_canonical (upd_pw_canonical (fun h => h.sensors) g0)))

theorem tripStep_canonical {a0} (g0 : Canonical a0) : Canonical (tripStep a0) := by
  unfold tripStep
  try dsimp only
  exact (by (try dsimp only); first | (split; exact (useFree_canonical (endStep_canonical (ite_canonical (setObj_canonical g0) g0))); exact g0) | (split <;> first | exact (useFree_canonical (endStep_canonical (ite_canonical (setObj_canonical g0) g0))) | exact g0))

theorem startTrip_canonical {a0 a1} (g0 : Canonical a1) : Canonical (startTrip a0 a1) := by
  unfold startTrip
  try dsimp only
  exact (upd_pw_canonical (fun h => h.sensors) (tripStep_canonical (foldl_canonical (fun _ _ h0 => (tripSeq_canonical h0)) (upd_st_canonical (fun h => { h.st with  }) (setObj_canonical (addObj_canonical (setObj_canonical (setTripN_canonical g0))))))))

theorem hubTrip_canonical {a0 a1} (g0 : Canonical a1) : Canonical (hubTrip a0 a1) := by
  unfold hubTrip
  try dsimp only
  exact (capture_canonical (upd_pw_canonical (fun h => h.sensors) (setTripN_canonical (foldl_canonical (fun _ _ h0 => (ite_canonical h0 (setPath_canonical (setObj_canonical h0)))) (ite_canonical g0 (startTrip_canonical g0))))))

theorem takeSample_canonical {a0 a1 a2} (g0 : Canonical a2) : Canonical (takeSample a0 a1 a2) := by
  unfold takeSample
  try dsimp only
  exact (ite_canonical g0 (ite_canonical (upd_pw_canonical (fun h => (h.sensors.put _ _)) (capture_canonical g0)) (ite_canonical (capture_canonical (addObj_canonical (upd_pw_canonical (fun h => (h.sensors.put _ _)) g0))) (upd_pw_canonical (fun h => (h.sensors.put _ _)) g0))))

theorem computeTrip_canonical {a0 a1} (g0 : Canonical a1) : Canonical (computeTrip a0 a1) := by
  unfold computeTrip
  try dsimp only
  exact (capture_canonical (startTrip_canonical g0))

theorem noteHottest_canonical {a0} (g0 : Canonical a0) : Canonical (noteHottest a0) := by
  unfold noteHottest
  try dsimp only
  exact (by (try dsimp only); first | (split; exact (setObj_canonical g0); exact (ite_canonical (setObj_canonical (setObj_canonical g0)) (setObj_canonical g0))) | (split <;> first | exact (setObj_canonical g0) | exact (ite_canonical (setObj_canonical (setObj_canonical g0)) (setObj_canonical g0))))

theorem execSensorSample_canonical {a0 a1} (g0 : Canonical a1) : CanonOut (execSensorSample a0 a1) := by
  unfold execSensorSample
  try dsimp only
  exact (whenLive_canonical g0 (fun _ h0 => (by (try dsimp only); first | (split; exact (ite_canonical (by (try dsimp only); first | (split; exact (ite_canonical (noteHottest_canonical (foldl_canonical (fun _ _ h1 => (takeSample_canonical h1)) h0)) (computeTrip_canonical (noteHottest_canonical (foldl_canonical (fun _ _ h1 => (takeSample_canonical h1)) h0)))); exact (noteHottest_canonical (foldl_canonical (fun _ _ h1 => (takeSample_canonical h1)) h0))) | (split <;> first | exact (ite_canonical (noteHottest_canonical (foldl_canonical (fun _ _ h1 => (takeSample_canonical h1)) h0)) (computeTrip_canonical (noteHottest_canonical (foldl_canonical (fun _ _ h1 => (takeSample_canonical h1)) h0)))) | exact (noteHottest_canonical (foldl_canonical (fun _ _ h1 => (takeSample_canonical h1)) h0)))) (hubTrip_canonical (by (try dsimp only); first | (split; exact (ite_canonical (noteHottest_canonical (foldl_canonical (fun _ _ h1 => (takeSample_canonical h1)) h0)) (computeTrip_canonical (noteHottest_canonical (foldl_canonical (fun _ _ h1 => (takeSample_canonical h1)) h0)))); exact (noteHottest_canonical (foldl_canonical (fun _ _ h1 => (takeSample_canonical h1)) h0))) | (split <;> first | exact (ite_canonical (noteHottest_canonical (foldl_canonical (fun _ _ h1 => (takeSample_canonical h1)) h0)) (computeTrip_canonical (noteHottest_canonical (foldl_canonical (fun _ _ h1 => (takeSample_canonical h1)) h0)))) | exact (noteHottest_canonical (foldl_canonical (fun _ _ h1 => (takeSample_canonical h1)) h0)))))); exact (by (try dsimp only); first | (split; exact (ite_canonical (noteHottest_canonical (foldl_canonical (fun _ _ h1 => (takeSample_canonical h1)) h0)) (computeTrip_canonical (noteHottest_canonical (foldl_canonical (fun _ _ h1 => (takeSample_canonical h1)) h0)))); exact (noteHottest_canonical (foldl_canonical (fun _ _ h1 => (takeSample_canonical h1)) h0))) | (split <;> first | exact (ite_canonical (noteHottest_canonical (foldl_canonical (fun _ _ h1 => (takeSample_canonical h1)) h0)) (computeTrip_canonical (noteHottest_canonical (foldl_canonical (fun _ _ h1 => (takeSample_canonical h1)) h0)))) | exact (noteHottest_canonical (foldl_canonical (fun _ _ h1 => (takeSample_canonical h1)) h0))))) | (split <;> first | exact (ite_canonical (by (try dsimp only); first | (split; exact (ite_canonical (noteHottest_canonical (foldl_canonical (fun _ _ h1 => (takeSample_canonical h1)) h0)) (computeTrip_canonical (noteHottest_canonical (foldl_canonical (fun _ _ h1 => (takeSample_canonical h1)) h0)))); exact (noteHottest_canonical (foldl_canonical (fun _ _ h1 => (takeSample_canonical h1)) h0))) | (split <;> first | exact (ite_canonical (noteHottest_canonical (foldl_canonical (fun _ _ h1 => (takeSample_canonical h1)) h0)) (computeTrip_canonical (noteHottest_canonical (foldl_canonical (fun _ _ h1 => (takeSample_canonical h1)) h0)))) | exact (noteHottest_canonical (foldl_canonical (fun _ _ h1 => (takeSample_canonical h1)) h0)))) (hubTrip_canonical (by (try dsimp only); first | (split; exact (ite_canonical (noteHottest_canonical (foldl_canonical (fun _ _ h1 => (takeSample_canonical h1)) h0)) (computeTrip_canonical (noteHottest_canonical (foldl_canonical (fun _ _ h1 => (takeSample_canonical h1)) h0)))); exact (noteHottest_canonical (foldl_canonical (fun _ _ h1 => (takeSample_canonical h1)) h0))) | (split <;> first | exact (ite_canonical (noteHottest_canonical (foldl_canonical (fun _ _ h1 => (takeSample_canonical h1)) h0)) (computeTrip_canonical (noteHottest_canonical (foldl_canonical (fun _ _ h1 => (takeSample_canonical h1)) h0)))) | exact (noteHottest_canonical (foldl_canonical (fun _ _ h1 => (takeSample_canonical h1)) h0)))))) | exact (by (try dsimp only); first | (split; exact (ite_canonical (noteHottest_canonical (foldl_canonical (fun _ _ h1 => (takeSample_canonical h1)) h0)) (computeTrip_canonical (noteHottest_canonical (foldl_canonical (fun _ _ h1 => (takeSample_canonical h1)) h0)))); exact (noteHottest_canonical (foldl_canonical (fun _ _ h1 => (takeSample_canonical h1)) h0))) | (split <;> first | exact (ite_canonical (noteHottest_canonical (foldl_canonical (fun _ _ h1 => (takeSample_canonical h1)) h0)) (computeTrip_canonical (noteHottest_canonical (foldl_canonical (fun _ _ h1 => (takeSample_canonical h1)) h0)))) | exact (noteHottest_canonical (foldl_canonical (fun _ _ h1 => (takeSample_canonical h1)) h0))))))))

theorem execHubTripClockStop_canonical {a0} (g0 : Canonical a0) : CanonOut (execHubTripClockStop a0) := by
  unfold execHubTripClockStop
  try dsimp only
  exact (whenLive_canonical g0 (fun _ h0 => (by (try dsimp only); first | (split; exact h0; exact (ite_canonical (upd_clk_canonical h0) h0)) | (split <;> first | exact h0 | exact (ite_canonical (upd_clk_canonical h0) h0)))))

theorem stepsNotDone_canonical {a0 a1} (g0 : Canonical a1) : Canonical (stepsNotDone a0 a1) := by
  unfold stepsNotDone
  try dsimp only
  exact (setObj_canonical (foldl_canonical (fun _ _ h0 => (ite_canonical (setObj_canonical h0) h0)) g0))

theorem execTripClockStop.stepsKeep_canonical {a0} (g0 : Canonical a0) : Canonical (execTripClockStop.stepsKeep a0) := by
  unfold execTripClockStop.stepsKeep
  try dsimp only
  exact (setObj_canonical (foldl_canonical (fun _ _ h0 => (ite_canonical h0 (setObj_canonical h0))) g0))

theorem execTripClockStop_canonical {a0} (g0 : Canonical a0) : CanonOut (execTripClockStop a0) := by
  unfold execTripClockStop
  try dsimp only
  exact (whenLive_canonical g0 (fun _ h0 => (by (try dsimp only); first | (split; exact h0; exact (ite_canonical (upd_pw_canonical (fun h => h.sensors) (ite_canonical (execTripClockStop.stepsKeep_canonical (setField_canonical (setField_canonical (refreshPins_canonical (loseCompute_canonical h0))))) (stepsNotDone_canonical (setField_canonical (setField_canonical (refreshPins_canonical (loseCompute_canonical h0))))))) h0)) | (split <;> first | exact h0 | exact (ite_canonical (upd_pw_canonical (fun h => h.sensors) (ite_canonical (execTripClockStop.stepsKeep_canonical (setField_canonical (setField_canonical (refreshPins_canonical (loseCompute_canonical h0))))) (stepsNotDone_canonical (setField_canonical (setField_canonical (refreshPins_canonical (loseCompute_canonical h0))))))) h0)))))

theorem execPwrgoodLow_canonical {a0} (g0 : Canonical a0) : CanonOut (execPwrgoodLow a0) := by
  unfold execPwrgoodLow
  try dsimp only
  exact (next_canonical (powerOff_canonical g0))

theorem trainLink_canonical {a0 a1 a2} (g0 : Canonical a2) : Canonical (trainLink a0 a1 a2) := by
  unfold trainLink
  try dsimp only
  exact (ite_canonical (foldl_canonical (fun _ _ h0 => (learn_canonical h0)) (setLinkState_canonical (setLink_canonical g0))) (setLinkState_canonical (setLink_canonical g0)))

theorem startStep_canonical {a0 a1} (g0 : Canonical a1) : Canonical (startStep a0 a1) := by
  unfold startStep
  try dsimp only
  exact (by (try dsimp only); first | (split; exact (endStep_canonical (ite_canonical (setObj_canonical (setObj_canonical (addObj_canonical (setObj_canonical (stepsNotDone_canonical g0))))) (addObj_canonical (setObj_canonical (stepsNotDone_canonical g0))))); exact (setObj_canonical (ite_canonical (upd_fab_canonical (fun h => { h.fab with  }) (ite_canonical (setObj_canonical (setField_canonical (addObj_canonical (setObj_canonical (stepsNotDone_canonical g0))))) (addObj_canonical (setObj_canonical (stepsNotDone_canonical g0))))) (ite_canonical (setObj_canonical (setField_canonical (addObj_canonical (setObj_canonical (stepsNotDone_canonical g0))))) (addObj_canonical (setObj_canonical (stepsNotDone_canonical g0))))))) | (split <;> first | exact (endStep_canonical (ite_canonical (setObj_canonical (setObj_canonical (addObj_canonical (setObj_canonical (stepsNotDone_canonical g0))))) (addObj_canonical (setObj_canonical (stepsNotDone_canonical g0))))) | exact (setObj_canonical (ite_canonical (upd_fab_canonical (fun h => { h.fab with  }) (ite_canonical (setObj_canonical (setField_canonical (addObj_canonical (setObj_canonical (stepsNotDone_canonical g0))))) (addObj_canonical (setObj_canonical (stepsNotDone_canonical g0))))) (ite_canonical (setObj_canonical (setField_canonical (addObj_canonical (setObj_canonical (stepsNotDone_canonical g0))))) (addObj_canonical (setObj_canonical (stepsNotDone_canonical g0))))))))

theorem wBring_canonical {a0 a1 a2 a3} (g0 : Canonical a3) : Canonical (wBring a0 a1 a2 a3).1 := by
  unfold wBring
  try dsimp only
  exact (ite_fst_canonical (fst_canonical (refuse_canonical g0)) (ite_fst_canonical (fst_canonical (startStep_canonical g0)) (fst_canonical (refuse_canonical g0))))

theorem runStep_canonical {a0 a1 a2 a3 a4} (g0 : ∀ y0, Canonical y0 → Canonical (a3 y0).2) (g1 : Canonical a4) : Canonical (runStep a0 a1 a2 a3 a4) := by
  unfold runStep
  try dsimp only
  exact (ite_canonical (endStep_canonical (g0 _ (ite_canonical g1 (ackWrite_canonical (wBring_canonical g1))))) (ite_canonical g1 (ackWrite_canonical (wBring_canonical g1))))

theorem loadRill_canonical {a0} (g0 : Canonical a0) : Canonical (loadRill a0).2 := by
  unfold loadRill
  try dsimp only
  exact (finishRillStart_canonical g0)

theorem setTrims_canonical {a0 a1 a2 a3} (g0 : Canonical a3) : Canonical (setTrims a0 a1 a2 a3) := by
  unfold setTrims
  try dsimp only
  exact (setField_canonical g0)

theorem applyEngines_canonical {a0} (g0 : Canonical a0) : Canonical (applyEngines a0) := by
  unfold applyEngines
  try dsimp only
  exact (upd_fab_canonical (fun h => { h.fab with  }) (foldl_canonical (fun _ _ h0 => (setObj_canonical h0)) (foldl_canonical (fun _ _ h0 => (setObj_canonical (setObj_canonical h0))) g0)))

theorem applyPorts_canonical {a0} (g0 : Canonical a0) : Canonical (applyPorts a0) := by
  unfold applyPorts
  try dsimp only
  exact (refreshPins_canonical (foldl_canonical (fun _ _ h0 => (ite_canonical (setObj_canonical h0) (ite_canonical (setObj_canonical h0) h0))) g0))

theorem dropRegions_canonical {a0} (g0 : Canonical a0) : Canonical (dropRegions a0) := by
  unfold dropRegions
  try dsimp only
  exact (dropObjs_canonical g0)

theorem trainStacks_canonical {a0 a1 a2} (g0 : Canonical a2) : Canonical (trainStacks a0 a1 a2).2 := by
  have h1 : ∀ {l1 : List Nat} {l2 : List (Nat × Nat)},
      Canonical (l2.foldl (fun s e => learn 4 e.1 e.2 0 0 s) (l1.foldl (fun s k => learn 3 k 0 0 0 s) a2)) :=
    foldl_canonical (fun _ _ h0 => learn_canonical h0) (foldl_canonical (fun _ _ h0 => learn_canonical h0) g0)
  have h2 : ∀ {s x}, Canonical s → Canonical { s with ci := { Cistern.init with lostPcs := x } } :=
    fun h => upd_ci_canonical (fun _ => { cistern_init_ok with }) h
  have h3 : ∀ {s}, Canonical s → Canonical { s with pw := { s.pw with declLocked := true } } := fun h => upd_pw_canonical (fun h => h.sensors) h
  unfold trainStacks
  exact snd_canonical (capture_canonical (h3 (setObj_canonical (setCisternState_canonical (setObj_canonical (dropRegions_canonical (h2 (endMigration_canonical h1))))))))

theorem setDefect_canonical {a0 a1 a2} (g0 : Canonical a2) : Canonical (setDefect a0 a1 a2) := by
  unfold setDefect
  try dsimp only
  exact (upd_fab_canonical (fun h => { h.fab with defects := by (try dsimp only); exact (h.fab.defects.set _ _ _) }) g0)

theorem trainLinks_canonical {a0 a1} (g0 : Canonical a1) : Canonical (trainLinks a0 a1).2 := by
  unfold trainLinks
  try dsimp only
  exact (ite_snd_canonical (snd_canonical (upd_pw_canonical (fun h => h.sensors) (setTripN_canonical (ite_canonical (setObj_canonical (setObj_canonical (foldl_canonical (fun _ _ h0 => (learn_canonical h0)) (foldl_canonical (fun _ _ h0 => (trainLink_canonical h0)) g0)))) (setObj_canonical (foldl_canonical (fun _ _ h0 => (learn_canonical h0)) (foldl_canonical (fun _ _ h0 => (trainLink_canonical h0)) g0))))))) (snd_canonical (upd_pw_canonical (fun h => h.sensors) (setTripN_canonical (ite_canonical (setObj_canonical (setObj_canonical (foldl_canonical (fun _ _ h0 => (learn_canonical h0)) (foldl_canonical (fun _ _ h0 => (trainLink_canonical h0)) g0)))) (setObj_canonical (foldl_canonical (fun _ _ h0 => (learn_canonical h0)) (foldl_canonical (fun _ _ h0 => (trainLink_canonical h0)) g0))))))))

theorem execLinkTraining_canonical {a0 a1 a2 a3} (g0 : Canonical a3) : CanonOut (execLinkTraining a0 a1 a2 a3) := by
  unfold execLinkTraining
  try dsimp only
  exact (whenFree_canonical g0 (fun _ h0 => (runStep_canonical (fun _ h1 => (trainLinks_canonical h1)) h0)))

theorem applyTile_canonical {a0 a1 a2} (g0 : Canonical a2) : Canonical (applyTile a0 a1 a2) := by
  unfold applyTile
  try dsimp only
  exact (by (try dsimp only); first | (split; exact (setObj_canonical (setObj_canonical (setObj_canonical (upd_fab_canonical (fun h => { h.fab with siteOf := by (try dsimp only); exact (h.fab.siteOf.set _ _) }) g0)))); exact (setObj_canonical (setObj_canonical (setObj_canonical (upd_fab_canonical (fun h => { h.fab with siteOf := by (try dsimp only); exact (h.fab.siteOf.erase _) }) g0))))) | (split <;> first | exact (setObj_canonical (setObj_canonical (setObj_canonical (upd_fab_canonical (fun h => { h.fab with siteOf := by (try dsimp only); exact (h.fab.siteOf.set _ _) }) g0)))) | exact (setObj_canonical (setObj_canonical (setObj_canonical (upd_fab_canonical (fun h => { h.fab with siteOf := by (try dsimp only); exact (h.fab.siteOf.erase _) }) g0))))))

theorem applyMaps_canonical {a0} (g0 : Canonical a0) : Canonical (applyMaps a0).2 := by
  have h1 : ∀ {s x}, Canonical s → Canonical { s with fab := { s.fab with repairs := x, evac := [] } } :=
    fun h => upd_fab_canonical (fun h => { h.fab with }) h
  unfold applyMaps
  refine ite_snd_canonical (snd_canonical (applyPorts_canonical (applyEngines_canonical (foldl_canonical (fun _ _ h => applyTile_canonical h) g0)))) ?_
  split
  · exact g0
  · exact snd_canonical (applyPorts_canonical (applyEngines_canonical (h1 (foldl_canonical (fun _ _ h => applyTile_canonical h) g0))))

theorem execNetworkMapApply_canonical {a0 a1 a2} (g0 : Canonical a2) : CanonOut (execNetworkMapApply a0 a1 a2) := by
  unfold execNetworkMapApply
  try dsimp only
  exact (whenFree_canonical g0 (fun _ h0 => (runStep_canonical (fun _ h1 => (applyMaps_canonical h1)) h0)))

theorem loadFactory_canonical {a0} (g0 : Canonical a0) : Canonical (loadFactory a0) := by
  unfold loadFactory
  try dsimp only
  exact (setObj_canonical (setObj_canonical (foldl_canonical (fun _ _ h0 => (setDefect_canonical h0)) (upd_fab_canonical (fun h => { h.fab with defects := by (try dsimp only); exact (by first | exact Tidy.nil _ | exact Rising.nil) }) g0))))

theorem fillFuses_canonical {a0} (g0 : Canonical a0) : Canonical (fillFuses a0) := by
  unfold fillFuses
  try dsimp only
  exact (loadFactory_canonical (fillUnits_canonical (setObj_canonical (setObj_canonical (setObj_canonical (setObj_canonical (setObj_canonical (setObj_canonical g0))))))))

theorem wDefectData_canonical {a0 a1 a2} (g0 : Canonical a2) : Canonical (wDefectData a0 a1 a2).1 := by
  unfold wDefectData
  try dsimp only
  exact (ite_fst_canonical (fst_canonical (setObj_canonical (setDefect_canonical g0))) (fst_canonical (refuse_canonical g0)))

theorem wFieldCount_canonical {a0 a1 a2} (g0 : Canonical a2) : Canonical (wFieldCount a0 a1 a2).1 := by
  unfold wFieldCount
  try dsimp only
  exact (ite_fst_canonical (fst_canonical (refuse_canonical g0)) (ite_fst_canonical (fst_canonical (refuse_canonical g0)) (fst_canonical (setObj_canonical (setObj_canonical (upd_fab_canonical (fun h => { h.fab with defects := by (try dsimp only); exact (h.fab.defects.filter _) }) g0))))))

theorem hideSite_canonical {a0 a1} (g0 : Canonical a1) : Canonical (hideSite a0 a1) := by
  unfold hideSite
  try dsimp only
  exact (ite_canonical g0 (learn_canonical g0))

theorem repairRow_canonical {a0 a1} (g0 : Canonical a1) : Canonical (repairRow a0 a1) := by
  unfold repairRow
  try dsimp only
  exact (ite_canonical g0 (ite_canonical (learn_canonical (upd_fab_canonical (fun h => { h.fab with  }) g0)) (hideSite_canonical g0)))

theorem unbindAll_canonical {a0} (g0 : Canonical a0) : Canonical (unbindAll a0) := by
  unfold unbindAll
  try dsimp only
  exact (foldl_canonical (fun _ _ h0 => (ite_canonical (setObj_canonical h0) h0)) g0)

theorem execFuseRead_canonical {a0 a1 a2 a3} (g0 : Canonical a3) : CanonOut (execFuseRead a0 a1 a2 a3) := by
  unfold execFuseRead
  try dsimp only
  exact (whenFree_canonical g0 (fun _ h0 => (runStep_canonical (fun _ h1 => (ite_snd_canonical (snd_canonical (fillFuses_canonical h1)) (ite_snd_canonical (snd_canonical h1) (snd_canonical h1)))) h0)))

theorem alignDone_canonical {a0 a1} (g0 : Canonical a1) : Canonical (alignDone a0 a1) := by
  unfold alignDone
  try dsimp only
  exact (setObj_canonical (setObj_canonical (upd_clk_canonical g0)))

theorem execDefectMapLoad_canonical {a0 a1 a2} (g0 : Canonical a2) : CanonOut (execDefectMapLoad a0 a1 a2) := by
  unfold execDefectMapLoad
  try dsimp only
  exact (whenFree_canonical g0 (fun _ h0 => (runStep_canonical (fun _ h1 => (snd_canonical h1)) h0)))

theorem alignFails_canonical {a0 a1 a2 a3 a4} (g0 : Canonical a4) : Canonical (alignFails a0 a1 a2 a3 a4).2 := by
  unfold alignFails
  try dsimp only
  exact (setObj_canonical (setObj_canonical g0))

theorem alignReset_canonical {a0 a1} (g0 : Canonical a1) : Canonical (alignReset a0 a1).2 := by
  unfold alignReset
  try dsimp only
  exact (ite_snd_canonical (snd_canonical (alignDone_canonical g0)) (by (try dsimp only); first | (split; exact (alignFails_canonical (setObj_canonical g0)); exact (ite_snd_canonical (snd_canonical (setObj_canonical (setObj_canonical (setObj_canonical g0)))) (by (try dsimp only); first | (split; exact (alignFails_canonical (setObj_canonical g0)); exact (by (try dsimp only); first | (split; exact (alignFails_canonical (foldl_canonical (fun _ _ h0 => (setTrims_canonical h0)) (upd_clk_canonical (setObj_canonical g0)))); exact (alignFails_canonical (foldl_canonical (fun _ _ h0 => (setTrims_canonical h0)) (upd_clk_canonical (setObj_canonical g0)))); exact (snd_canonical (alignDone_canonical (foldl_canonical (fun _ _ h0 => (setTrims_canonical h0)) (upd_clk_canonical (setObj_canonical g0)))))) | (split <;> first | exact (alignFails_canonical (foldl_canonical (fun _ _ h0 => (setTrims_canonical h0)) (upd_clk_canonical (setObj_canonical g0)))) | exact (snd_canonical (alignDone_canonical (foldl_canonical (fun _ _ h0 => (setTrims_canonical h0)) (upd_clk_canonical (setObj_canonical g0)))))))) | (split <;> first | exact (alignFails_canonical (setObj_canonical g0)) | exact (by (try dsimp only); first | (split; exact (alignFails_canonical (foldl_canonical (fun _ _ h0 => (setTrims_canonical h0)) (upd_clk_canonical (setObj_canonical g0)))); exact (alignFails_canonical (foldl_canonical (fun _ _ h0 => (setTrims_canonical h0)) (upd_clk_canonical (setObj_canonical g0)))); exact (snd_canonical (alignDone_canonical (foldl_canonical (fun _ _ h0 => (setTrims_canonical h0)) (upd_clk_canonical (setObj_canonical g0)))))) | (split <;> first | exact (alignFails_canonical (foldl_canonical (fun _ _ h0 => (setTrims_canonical h0)) (upd_clk_canonical (setObj_canonical g0)))) | exact (snd_canonical (alignDone_canonical (foldl_canonical (fun _ _ h0 => (setTrims_canonical h0)) (upd_clk_canonical (setObj_canonical g0))))))))))) | (split <;> first | exact (alignFails_canonical (setObj_canonical g0)) | exact (ite_snd_canonical (snd_canonical (setObj_canonical (setObj_canonical (setObj_canonical g0)))) (by (try dsimp only); first | (split; exact (alignFails_canonical (setObj_canonical g0)); exact (by (try dsimp only); first | (split; exact (alignFails_canonical (foldl_canonical (fun _ _ h0 => (setTrims_canonical h0)) (upd_clk_canonical (setObj_canonical g0)))); exact (alignFails_canonical (foldl_canonical (fun _ _ h0 => (setTrims_canonical h0)) (upd_clk_canonical (setObj_canonical g0)))); exact (snd_canonical (alignDone_canonical (foldl_canonical (fun _ _ h0 => (setTrims_canonical h0)) (upd_clk_canonical (setObj_canonical g0)))))) | (split <;> first | exact (alignFails_canonical (foldl_canonical (fun _ _ h0 => (setTrims_canonical h0)) (upd_clk_canonical (setObj_canonical g0)))) | exact (snd_canonical (alignDone_canonical (foldl_canonical (fun _ _ h0 => (setTrims_canonical h0)) (upd_clk_canonical (setObj_canonical g0)))))))) | (split <;> first | exact (alignFails_canonical (setObj_canonical g0)) | exact (by (try dsimp only); first | (split; exact (alignFails_canonical (foldl_canonical (fun _ _ h0 => (setTrims_canonical h0)) (upd_clk_canonical (setObj_canonical g0)))); exact (alignFails_canonical (foldl_canonical (fun _ _ h0 => (setTrims_canonical h0)) (upd_clk_canonical (setObj_canonical g0)))); exact (snd_canonical (alignDone_canonical (foldl_canonical (fun _ _ h0 => (setTrims_canonical h0)) (upd_clk_canonical (setObj_canonical g0)))))) | (split <;> first | exact (alignFails_canonical (foldl_canonical (fun _ _ h0 => (setTrims_canonical h0)) (upd_clk_canonical (setObj_canonical g0)))) | exact (snd_canonical (alignDone_canonical (foldl_canonical (fun _ _ h0 => (setTrims_canonical h0)) (upd_clk_canonical (setObj_canonical g0)))))))))))))

theorem execResetAlignment_canonical {a0 a1 a2 a3} (g0 : Canonical a3) : CanonOut (execResetAlignment a0 a1 a2 a3) := by
  unfold execResetAlignment
  try dsimp only
  exact (whenFree_canonical g0 (fun _ h0 => (runStep_canonical (fun _ h1 => (alignReset_canonical h1)) h0)))

theorem openPartitions_canonical {a0} (g0 : Canonical a0) : Canonical (openPartitions a0).2 := by
  unfold openPartitions
  try dsimp only
  exact (setObj_canonical (updateActive_canonical (upd_many_canonical (endMigration_canonical (unbindAll_canonical (dropObjs_canonical g0))) fun h => { h with ci := by (try dsimp only); exact { h.ci with slots := by (try dsimp only); exact (by first | exact Tidy.nil _ | exact Rising.nil), data := by simp, pages := by (try dsimp only); exact (by first | exact Tidy.nil _ | exact Rising.nil), tags := by (try dsimp only); exact (by first | exact Tidy.nil _ | exact Rising.nil) }, pt := by (try dsimp only); exact parts_init_ok, st := by (try dsimp only); exact streams_init_ok })))

theorem execPartitionConfiguration_canonical {a0 a1 a2} (g0 : Canonical a2) : CanonOut (execPartitionConfiguration a0 a1 a2) := by
  unfold execPartitionConfiguration
  try dsimp only
  exact (whenFree_canonical g0 (fun _ h0 => (runStep_canonical (fun _ h1 => (openPartitions_canonical h1)) h0)))

theorem readDefect_canonical {a0} (g0 : Canonical a0) : Canonical (readDefect a0).2 := by
  unfold readDefect
  try dsimp only
  exact (setObj_canonical g0)

theorem execDefectDataAccess_canonical {a0 a1 a2} (g0 : Canonical a2) : CanonOut (execDefectDataAccess a0 a1 a2) := by
  unfold execDefectDataAccess
  try dsimp only
  exact (whenFree_canonical g0 (fun _ h0 => (by (try dsimp only); first | (split; exact (ackWrite_canonical (wDefectData_canonical h0)); exact (answer_canonical (readDefect_canonical h0))) | (split <;> first | exact (ackWrite_canonical (wDefectData_canonical h0)) | exact (answer_canonical (readDefect_canonical h0))))))

theorem execHbmTraining_canonical {a0 a1 a2 a3 a4} (g0 : Canonical a4) : CanonOut (execHbmTraining a0 a1 a2 a3 a4) := by
  unfold execHbmTraining
  try dsimp only
  exact (whenFree_canonical g0 (fun _ h0 => (runStep_canonical (fun _ h1 => (trainStacks_canonical h1)) h0)))

theorem execRillLoad_canonical {a0 a1 a2} (g0 : Canonical a2) : CanonOut (execRillLoad a0 a1 a2) := by
  unfold execRillLoad
  try dsimp only
  exact (whenFree_canonical g0 (fun _ h0 => (runStep_canonical (fun _ h1 => (loadRill_canonical h1)) h0)))

theorem selfTest_canonical {a0 a1 a2} (g0 : Canonical a2) : Canonical (selfTest a0 a1 a2).2 := by
  unfold selfTest
  try dsimp only
  exact (by (try dsimp only); first | (split; exact (snd_canonical (upd_tl_canonical (fun h => { h.tl with queues := by (try dsimp only); exact (by first | exact Tidy.nil _ | exact Rising.nil), slots := by (try dsimp only); exact (by first | exact Tidy.nil _ | exact Rising.nil), units := by (try dsimp only); exact (by first | exact Tidy.nil _ | exact Rising.nil), pageMap := by (try dsimp only); exact (by first | exact Tidy.nil _ | exact Rising.nil), frames := by (try dsimp only); exact (by first | exact Tidy.nil _ | exact Rising.nil), pages := by simp, loads := by (try dsimp only); exact (by first | exact Tidy.nil _ | exact Rising.nil) }) (foldl_canonical (fun _ _ h0 => (hideSite_canonical h0)) (foldl_canonical (fun _ _ h0 => (repairRow_canonical h0)) g0)))); exact (snd_canonical (upd_tl_canonical (fun h => { h.tl with queues := by (try dsimp only); exact (by first | exact Tidy.nil _ | exact Rising.nil), slots := by (try dsimp only); exact (by first | exact Tidy.nil _ | exact Rising.nil), units := by (try dsimp only); exact (by first | exact Tidy.nil _ | exact Rising.nil), pageMap := by (try dsimp only); exact (by first | exact Tidy.nil _ | exact Rising.nil), frames := by (try dsimp only); exact (by first | exact Tidy.nil _ | exact Rising.nil), pages := by simp, loads := by (try dsimp only); exact (by first | exact Tidy.nil _ | exact Rising.nil) }) (foldl_canonical (fun _ _ h0 => (hideSite_canonical h0)) (foldl_canonical (fun _ _ h0 => (repairRow_canonical h0)) g0))))) | (split <;> first | exact (snd_canonical (upd_tl_canonical (fun h => { h.tl with queues := by (try dsimp only); exact (by first | exact Tidy.nil _ | exact Rising.nil), slots := by (try dsimp only); exact (by first | exact Tidy.nil _ | exact Rising.nil), units := by (try dsimp only); exact (by first | exact Tidy.nil _ | exact Rising.nil), pageMap := by (try dsimp only); exact (by first | exact Tidy.nil _ | exact Rising.nil), frames := by (try dsimp only); exact (by first | exact Tidy.nil _ | exact Rising.nil), pages := by simp, loads := by (try dsimp only); exact (by first | exact Tidy.nil _ | exact Rising.nil) }) (foldl_canonical (fun _ _ h0 => (hideSite_canonical h0)) (foldl_canonical (fun _ _ h0 => (repairRow_canonical h0)) g0))))))

theorem execTileSelfTest_canonical {a0 a1 a2 a3 a4} (g0 : Canonical a4) : CanonOut (execTileSelfTest a0 a1 a2 a3 a4) := by
  unfold execTileSelfTest
  try dsimp only
  exact (whenFree_canonical g0 (fun _ h0 => (runStep_canonical (fun _ h1 => (selfTest_canonical h1)) h0)))

theorem setI2cByte_canonical {a0 a1 a2} (g0 : Canonical a2) : Canonical (setI2cByte a0 a1 a2) := by
  unfold setI2cByte
  try dsimp only
  exact (upd_io_canonical (fun h => { h.io with lands := { h.io.lands with i2cBuf := by (try dsimp only); exact (h.io.lands.i2cBuf.set _ _) } }) g0)

theorem fillI2c_canonical {a0 a1 a2} (g0 : Canonical a2) : Canonical (fillI2c a0 a1 a2) := by
  induction a1 generalizing a0 a2 with
  | nil => exact g0
  | cons b bs ih => exact ih (setI2cByte_canonical g0)

theorem execI2cTransactionComplete_canonical {a0 a1 a2} (g0 : Canonical a2) : CanonOut (execI2cTransactionComplete a0 a1 a2) := by
  unfold execI2cTransactionComplete
  try dsimp only
  exact (whenLive_canonical g0 (fun _ h0 => (ite_canonical (setObj_canonical (fillI2c_canonical h0)) h0)))

theorem startSwitch_canonical {a0 a1 a2} (g0 : Canonical a2) : Canonical (startSwitch a0 a1 a2) := by
  unfold startSwitch
  try dsimp only
  exact (refreshPin_canonical (upd_io_canonical (fun h => { h.io with lands := { h.io.lands with switching := by (try dsimp only); exact (h.io.lands.switching.put _ _) } }) (setObj_canonical (ite_canonical (releaseMute_canonical g0) g0))))

theorem wPinmux_canonical {a0 a1 a2 a3} (g0 : Canonical a3) : Canonical (wPinmux a0 a1 a2 a3).1 := by
  unfold wPinmux
  try dsimp only
  exact (ite_fst_canonical (fst_canonical (refuse_canonical g0)) (ite_fst_canonical (fst_canonical (refuse_canonical g0)) (ite_fst_canonical (fst_canonical g0) (fst_canonical (startSwitch_canonical g0)))))

theorem execI2cStretchTimeout_canonical {a0} (g0 : Canonical a0) : CanonOut (execI2cStretchTimeout a0) := by
  unfold execI2cStretchTimeout
  try dsimp only
  exact (whenLive_canonical g0 (fun _ h0 => (ite_canonical (emit_canonical (setObj_canonical h0)) h0)))

theorem execPinFunctionSwitch_canonical {a0 a1 a2 a3} (g0 : Canonical a3) : CanonOut (execPinFunctionSwitch a0 a1 a2 a3) := by
  unfold execPinFunctionSwitch
  try dsimp only
  exact (whenFree_canonical g0 (fun _ h0 => (ite_canonical (ackWrite_canonical (wPinmux_canonical h0)) h0)))

theorem i2cNext_canonical {a0} (g0 : Canonical a0) : Canonical (i2cNext a0) := by
  unfold i2cNext
  try dsimp only
  exact (setObj_canonical g0)

theorem readI2cData_canonical {a0} (g0 : Canonical a0) : Canonical (readI2cData a0).2 := by
  unfold readI2cData
  try dsimp only
  exact (i2cNext_canonical g0)

theorem setPps_canonical {a0 a1} (g0 : Canonical a1) : Canonical (setPps a0 a1) := by
  unfold setPps
  try dsimp only
  exact (ite_canonical g0 (capture_canonical (setObj_canonical g0)))

theorem ppsMeasure_canonical {a0 a1 a2} (g0 : Canonical a2) : Canonical (ppsMeasure a0 a1 a2) := by
  unfold ppsMeasure
  try dsimp only
  exact (ite_canonical (setPps_canonical (upd_clk_canonical (setObj_canonical (setObj_canonical (ite_canonical (useFree_canonical g0) g0))))) (ite_canonical (setPps_canonical (upd_clk_canonical (setObj_canonical (setObj_canonical (ite_canonical (useFree_canonical g0) g0))))) (setPps_canonical (upd_clk_canonical (setObj_canonical (setObj_canonical (ite_canonical (useFree_canonical g0) g0)))))))

theorem wI2cCommand_canonical {a0 a1 a2} (g0 : Canonical a2) : Canonical (wI2cCommand a0 a1 a2).1 := by
  unfold wI2cCommand
  try dsimp only
  exact (ite_fst_canonical (fst_canonical (refuse_canonical g0)) (ite_fst_canonical (fst_canonical (refuse_canonical g0)) (fst_canonical (emit_canonical (setObj_canonical g0)))))

theorem execI2cStart_canonical {a0 a1} (g0 : Canonical a1) : CanonOut (execI2cStart a0 a1) := by
  unfold execI2cStart
  try dsimp only
  exact (whenFree_canonical g0 (fun _ h0 => (ackWrite_canonical (wI2cCommand_canonical h0))))

theorem execPpsLoss_canonical {a0} (g0 : Canonical a0) : CanonOut (execPpsLoss a0) := by
  unfold execPpsLoss
  try dsimp only
  exact (whenLive_canonical g0 (fun _ h0 => (ite_canonical (setPps_canonical (upd_clk_canonical h0)) h0)))

theorem endSwitches_canonical {a0} (g0 : Canonical a0) : Canonical (endSwitches a0) := by
  unfold endSwitches
  try dsimp only
  exact (ite_canonical g0 (foldl_canonical (fun _ _ h0 => (refreshPin_canonical h0)) (upd_io_canonical (fun h => { h.io with lands := { h.io.lands with switching := by (try dsimp only); exact (h.io.lands.switching.filter _) } }) g0)))

theorem wI2cData_canonical {a0 a1 a2} (g0 : Canonical a2) : Canonical (wI2cData a0 a1 a2).1 := by
  unfold wI2cData
  try dsimp only
  exact (ite_fst_canonical (fst_canonical (refuse_canonical g0)) (fst_canonical (i2cNext_canonical (setI2cByte_canonical g0))))

theorem ppsAccepted_canonical {a0} (g0 : Canonical a0) : Canonical (ppsAccepted a0) := by
  unfold ppsAccepted
  try dsimp only
  exact (ppsMeasure_canonical (upd_now_canonical g0))

theorem execPpsEdge_canonical {a0} (g0 : Canonical a0) : CanonOut (execPpsEdge a0) := by
  unfold execPpsEdge
  try dsimp only
  exact (whenLive_canonical g0 (fun _ h0 => (ite_canonical (addObj_canonical h0) (ite_canonical (ppsAccepted_canonical (addObj_canonical h0)) (addObj_canonical (addObj_canonical h0))))))

theorem readGpioIn_canonical {a0} (g0 : Canonical a0) : Canonical (readGpioIn a0).2 := by
  unfold readGpioIn
  try dsimp only
  exact (useFree_canonical g0)

theorem wPpsEnable_canonical {a0 a1} (g0 : Canonical a1) : Canonical (wPpsEnable a0 a1).1 := by
  unfold wPpsEnable
  try dsimp only
  exact (ite_fst_canonical (fst_canonical (setObj_canonical g0)) (ite_fst_canonical (fst_canonical (setPps_canonical (setObj_canonical (upd_clk_canonical (setObj_canonical g0))))) (fst_canonical (setPps_canonical (upd_clk_canonical (setObj_canonical g0))))))

theorem execI2cDataAccess_canonical {a0 a1 a2} (g0 : Canonical a2) : CanonOut (execI2cDataAccess a0 a1 a2) := by
  unfold execI2cDataAccess
  try dsimp only
  exact (whenFree_canonical g0 (fun _ h0 => (by (try dsimp only); first | (split; exact (ackWrite_canonical (wI2cData_canonical h0)); exact (answer_canonical (readI2cData_canonical h0))) | (split <;> first | exact (ackWrite_canonical (wI2cData_canonical h0)) | exact (answer_canonical (readI2cData_canonical h0))))))

theorem deny_canonical {a0 a1 a2 a3 a4} (g0 : Canonical a4) : Canonical (deny a0 a1 a2 a3 a4).1 := by
  unfold deny
  try dsimp only
  exact (ite_fst_canonical (fst_canonical (refuse_canonical g0)) (fst_canonical (refuse_canonical g0)))

theorem wPlain_canonical {a0 a1 a2 a3 a4 a5 a6} (g0 : Canonical a6) : Canonical (wPlain a0 a1 a2 a3 a4 a5 a6).1 := by
  unfold wPlain
  try dsimp only
  exact (ite_fst_canonical (deny_canonical g0) (ite_fst_canonical (deny_canonical g0) (fst_canonical (setObj_canonical g0))))

theorem wSeq_canonical {a0 a1 a2 a3 a4 a5} (g0 : Canonical a5) : Canonical (wSeq a0 a1 a2 a3 a4 a5).1 := by
  unfold wSeq
  try dsimp only
  exact (ite_fst_canonical (wSeqCommand_canonical g0) (ite_fst_canonical (wPlain_canonical g0) (ite_fst_canonical (wPlain_canonical g0) (ite_fst_canonical (wPlain_canonical g0) (ite_fst_canonical (wPlain_canonical g0) (ite_fst_canonical (wPlain_canonical g0) (ite_fst_canonical (wPlain_canonical g0) (ite_fst_canonical (wPlain_canonical g0) (wPlain_canonical g0)))))))))

theorem wStep_canonical {a0 a1 a2 a3 a4 a5} (g0 : Canonical a5) : Canonical (wStep a0 a1 a2 a3 a4 a5).1 := by
  unfold wStep
  try dsimp only
  exact (ite_fst_canonical (fst_canonical (ite_canonical (setObj_canonical (setObj_canonical g0)) (setObj_canonical g0))) (deny_canonical g0))

theorem wRaster_canonical {a0 a1 a2 a3 a4 a5 a6} (g0 : Canonical a6) : Canonical (wRaster a0 a1 a2 a3 a4 a5 a6).1 := by
  unfold wRaster
  try dsimp only
  exact (ite_fst_canonical (ite_fst_canonical (wRasterConfig_canonical g0) (wRasterPhase_canonical g0)) (ite_fst_canonical (wPlain_canonical g0) (ite_fst_canonical (ite_fst_canonical (wPlain_canonical g0) (wPlain_canonical g0)) (ite_fst_canonical (wPlain_canonical g0) (ite_fst_canonical (wPlain_canonical g0) (wPlain_canonical g0))))))

theorem wDefects_canonical {a0 a1 a2 a3 a4} (g0 : Canonical a4) : Canonical (wDefects a0 a1 a2 a3 a4).1 := by
  unfold wDefects
  try dsimp only
  exact (ite_fst_canonical (wFieldCount_canonical g0) (ite_fst_canonical (wDefectData_canonical g0) (ite_fst_canonical (wPlain_canonical g0) (wPlain_canonical g0))))

theorem wAcct_canonical {a0 a1 a2 a3 a4 a5} (g0 : Canonical a5) : Canonical (wAcct a0 a1 a2 a3 a4 a5).1 := by
  unfold wAcct
  try dsimp only
  exact (ite_fst_canonical (wAcctClear_canonical g0) (ite_fst_canonical (wAcctWithdraw_canonical g0) (ite_fst_canonical (wAcctRestore_canonical g0) (wPlain_canonical g0))))

theorem wDeclare_canonical {a0 a1 a2 a3 a4 a5} (g0 : Canonical a5) : Canonical (wDeclare a0 a1 a2 a3 a4 a5).1 := by
  unfold wDeclare
  try dsimp only
  exact (ite_fst_canonical (deny_canonical g0) (ite_fst_canonical (deny_canonical g0) (fst_canonical (ite_canonical (setObj_canonical (setObj_canonical g0)) (setObj_canonical g0)))))

theorem wEnv_canonical {a0 a1 a2 a3 a4} (g0 : Canonical a4) : Canonical (wEnv a0 a1 a2 a3 a4).1 := by
  unfold wEnv
  try dsimp only
  exact (ite_fst_canonical (wDeclare_canonical g0) (ite_fst_canonical (wDeclare_canonical g0) (ite_fst_canonical (wDeclare_canonical g0) (ite_fst_canonical (wDeclare_canonical g0) (ite_fst_canonical (wPlain_canonical g0) (ite_fst_canonical (wPlain_canonical g0) (wPlain_canonical g0)))))))

theorem readEngine_canonical {a0 a1 a2 a3 a4} (g0 : Canonical a4) : Canonical (readEngine a0 a1 a2 a3 a4).2 := by
  unfold readEngine
  try dsimp only
  exact (ite_snd_canonical (snd_canonical g0) (ite_snd_canonical (snd_canonical g0) (ite_snd_canonical (snd_canonical g0) (ite_snd_canonical (snd_canonical g0) (ite_snd_canonical (readCmdData_canonical g0) (snd_canonical g0))))))

theorem readOf_canonical {a0 a1 a2 a3 a4} (g0 : Canonical a4) : Canonical (readOf a0 a1 a2 a3 a4).2 := by
  unfold readOf
  try dsimp only
  exact (ite_snd_canonical (ite_snd_canonical (snd_canonical g0) (readEngine_canonical g0)) (ite_snd_canonical (readEngine_canonical g0) (ite_snd_canonical (readEngine_canonical g0) (ite_snd_canonical (ite_snd_canonical (snd_canonical g0) (readEngine_canonical g0)) (ite_snd_canonical (ite_snd_canonical (snd_canonical g0) (ite_snd_canonical (snd_canonical g0) (snd_canonical g0))) (ite_snd_canonical (ite_snd_canonical (snd_canonical g0) (ite_snd_canonical (snd_canonical g0) (ite_snd_canonical (snd_canonical g0) (ite_snd_canonical (snd_canonical g0) (snd_canonical g0))))) (ite_snd_canonical (snd_canonical g0) (ite_snd_canonical (snd_canonical g0) (ite_snd_canonical (snd_canonical g0) (ite_snd_canonical (snd_canonical g0) (ite_snd_canonical (ite_snd_canonical (readAcct_canonical g0) (ite_snd_canonical (snd_canonical g0) (ite_snd_canonical (snd_canonical g0) (snd_canonical g0)))) (ite_snd_canonical (snd_canonical g0) (ite_snd_canonical (snd_canonical (ite_canonical g0 (syncNext_canonical g0))) (ite_snd_canonical (snd_canonical g0) (ite_snd_canonical (readPeek_canonical g0) (ite_snd_canonical (ite_snd_canonical (snd_canonical g0) (ite_snd_canonical (snd_canonical g0) (ite_snd_canonical (snd_canonical g0) (snd_canonical g0)))) (ite_snd_canonical (readI2cData_canonical g0) (ite_snd_canonical (readGpioIn_canonical g0) (ite_snd_canonical (compatRead_canonical g0) (ite_snd_canonical (fwDataAccess_canonical g0) (ite_snd_canonical (snd_canonical g0) (ite_snd_canonical (snd_canonical g0) (ite_snd_canonical (snd_canonical g0) (ite_snd_canonical (snd_canonical g0) (ite_snd_canonical (snd_canonical g0) (ite_snd_canonical (ite_snd_canonical (readDefect_canonical g0) (ite_snd_canonical (snd_canonical g0) (ite_snd_canonical (snd_canonical g0) (snd_canonical g0)))) (ite_snd_canonical (ite_snd_canonical (almanacRead_canonical g0) (ite_snd_canonical (snd_canonical g0) (ite_snd_canonical (snd_canonical g0) (ite_snd_canonical (snd_canonical g0) (ite_snd_canonical (snd_canonical g0) (snd_canonical g0)))))) (snd_canonical g0))))))))))))))))))))))))))))

theorem readWhole_canonical {a0 a1} (g0 : Canonical a1) : Canonical (readWhole a0 a1).2 := by
  unfold readWhole
  try dsimp only
  exact (by (try dsimp only); first | (split; exact (snd_canonical g0); exact (by (try dsimp only); first | (split; exact (snd_canonical g0); exact (ite_snd_canonical (snd_canonical g0) (readOf_canonical g0))) | (split <;> first | exact (snd_canonical g0) | exact (ite_snd_canonical (snd_canonical g0) (readOf_canonical g0))))) | (split <;> first | exact (snd_canonical g0) | exact (by (try dsimp only); first | (split; exact (snd_canonical g0); exact (ite_snd_canonical (snd_canonical g0) (readOf_canonical g0))) | (split <;> first | exact (snd_canonical g0) | exact (ite_snd_canonical (snd_canonical g0) (readOf_canonical g0))))))

theorem wGpio_canonical {a0 a1 a2 a3 a4} (g0 : Canonical a4) : Canonical (wGpio a0 a1 a2 a3 a4).1 := by
  unfold wGpio
  try dsimp only
  exact (ite_fst_canonical (fst_canonical (refreshPins_canonical (setObj_canonical g0))) (wPlain_canonical g0))

theorem wHeartbeat_canonical {a0 a1 a2} (g0 : Canonical a2) : Canonical (wHeartbeat a0 a1 a2).1 := by
  unfold wHeartbeat
  try dsimp only
  exact (setObj_canonical (upd_io_canonical (fun h => { h.io with can := { h.io.can with  } }) g0))

theorem wTpdoMap_canonical {a0 a1 a2 a3 a4 a5} (g0 : Canonical a5) : Canonical (wTpdoMap a0 a1 a2 a3 a4 a5).1 := by
  unfold wTpdoMap
  try dsimp only
  exact (ite_fst_canonical (ite_fst_canonical (deny_canonical g0) (ite_fst_canonical (deny_canonical g0) (ite_fst_canonical (fst_canonical (setObj_canonical g0)) (deny_canonical g0)))) (ite_fst_canonical (fst_canonical (setObj_canonical g0)) (deny_canonical g0)))

theorem wTpdo_canonical {a0 a1 a2 a3 a4 a5} (g0 : Canonical a5) : Canonical (wTpdo a0 a1 a2 a3 a4 a5).1 := by
  unfold wTpdo
  try dsimp only
  exact (ite_fst_canonical (wPlain_canonical g0) (ite_fst_canonical (fst_canonical (setObj_canonical (upd_io_canonical (fun h => { h.io with can := { h.io.can with syncs := by (try dsimp only); exact (h.io.can.syncs.erase _), tpdoAt := by (try dsimp only); exact (h.io.can.tpdoAt.put _ _) } }) g0))) (wPlain_canonical g0)))

theorem wHistory_canonical {a0 a1 a2 a3} (g0 : Canonical a3) : Canonical (wHistory a0 a1 a2 a3).1 := by
  unfold wHistory
  try dsimp only
  exact (ite_fst_canonical (deny_canonical g0) (fst_canonical (setObj_canonical (foldl_canonical (fun _ _ h0 => (setObj_canonical h0)) (setObj_canonical g0)))))

theorem writeComm_canonical {a0 a1 a2 a3 a4 a5 a6} (g0 : Canonical a6) : Canonical (writeComm a0 a1 a2 a3 a4 a5 a6).1 := by
  unfold writeComm
  try dsimp only
  exact (ite_fst_canonical (wHistory_canonical g0) (ite_fst_canonical (wHeartbeat_canonical g0) (ite_fst_canonical (wTpdo_canonical g0) (ite_fst_canonical (wTpdoMap_canonical g0) (wPlain_canonical g0)))))

theorem wCistern_canonical {a0 a1 a2 a3 a4} (g0 : Canonical a4) : Canonical (wCistern a0 a1 a2 a3 a4).1 := by
  unfold wCistern
  try dsimp only
  exact (ite_fst_canonical (wMargin_canonical g0) (ite_fst_canonical (wPlain_canonical g0) (ite_fst_canonical (wPlain_canonical g0) (ite_fst_canonical (wMigrate_canonical g0) (ite_fst_canonical (wRetireStack_canonical g0) (ite_fst_canonical (wPlain_canonical g0) (wPlain_canonical g0)))))))

theorem wEngine_canonical {a0 a1 a2 a3 a4 a5 a6 a7} (g0 : Canonical a7) : Canonical (wEngine a0 a1 a2 a3 a4 a5 a6 a7).1 := by
  unfold wEngine
  try dsimp only
  exact (ite_fst_canonical (wBinding_canonical g0) (ite_fst_canonical (wTail_canonical g0) (ite_fst_canonical (wCmdCursor_canonical g0) (ite_fst_canonical (wCmdData_canonical g0) (ite_fst_canonical (wPlain_canonical g0) (fst_canonical g0))))))

theorem wTile_canonical {a0 a1 a2 a3 a4 a5} (g0 : Canonical a5) : Canonical (wTile a0 a1 a2 a3 a4 a5).1 := by
  unfold wTile
  try dsimp only
  exact (ite_fst_canonical (wBankOwner_canonical g0) (ite_fst_canonical (wBankValid_canonical g0) (ite_fst_canonical (wPlain_canonical g0) (wEngine_canonical g0))))

theorem wDet_canonical {a0 a1 a2 a3 a4} (g0 : Canonical a4) : Canonical (wDet a0 a1 a2 a3 a4).1 := by
  unfold wDet
  try dsimp only
  exact (ite_fst_canonical (wPlain_canonical g0) (ite_fst_canonical (wPlain_canonical g0) (ite_fst_canonical (wPlain_canonical g0) (wPlain_canonical g0))))

theorem wRegion_canonical {a0 a1 a2 a3 a4} (g0 : Canonical a4) : Canonical (wRegion a0 a1 a2 a3 a4).1 := by
  unfold wRegion
  try dsimp only
  exact (ite_fst_canonical (wSpan_canonical g0) (ite_fst_canonical (wReserve_canonical g0) (wPlacement_canonical g0)))

theorem wFabric_canonical {a0 a1 a2 a3 a4} (g0 : Canonical a4) : Canonical (wFabric a0 a1 a2 a3 a4).1 := by
  unfold wFabric
  try dsimp only
  exact (ite_fst_canonical (wPlain_canonical g0) (ite_fst_canonical (ite_fst_canonical (fst_canonical (useFree_canonical (wLoadCommand_canonical g0))) (wLoadCommand_canonical g0)) (ite_fst_canonical (wPlain_canonical g0) (ite_fst_canonical (wPlain_canonical g0) (wPlain_canonical g0)))))

theorem wLoan_canonical {a0 a1 a2 a3 a4 a5} (g0 : Canonical a5) : Canonical (wLoan a0 a1 a2 a3 a4 a5).1 := by
  unfold wLoan
  try dsimp only
  exact (ite_fst_canonical (wLoanCommand_canonical g0) (ite_fst_canonical (wPlain_canonical g0) (ite_fst_canonical (wPlain_canonical g0) (ite_fst_canonical (wPlain_canonical g0) (wPlain_canonical g0)))))

theorem wReplay_canonical {a0 a1 a2 a3 a4 a5} (g0 : Canonical a5) : Canonical (wReplay a0 a1 a2 a3 a4 a5).1 := by
  unfold wReplay
  try dsimp only
  exact (ite_fst_canonical (wPlain_canonical (noteHold_canonical g0)) (ite_fst_canonical (wPlain_canonical g0) (wPlain_canonical (noteHold_canonical g0))))

theorem wSyncWindow_canonical {a0 a1 a2 a3 a4} (g0 : Canonical a4) : Canonical (wSyncWindow a0 a1 a2 a3 a4).1 := by
  unfold wSyncWindow
  try dsimp only
  exact (ite_fst_canonical (wSync_canonical g0) (ite_fst_canonical (wSync_canonical g0) (ite_fst_canonical (wSyncFill_canonical g0) (ite_fst_canonical (deny_canonical g0) (wSyncPlain_canonical g0)))))

theorem wPartition_canonical {a0 a1 a2 a3 a4 a5} (g0 : Canonical a5) : Canonical (wPartition a0 a1 a2 a3 a4 a5).1 := by
  unfold wPartition
  try dsimp only
  exact (ite_fst_canonical (wPartitionCommand_canonical g0) (ite_fst_canonical (wPlain_canonical g0) (ite_fst_canonical (wPlain_canonical g0) (wPlain_canonical g0))))

theorem writeCompute_canonical {a0 a1 a2 a3 a4 a5 a6} (g0 : Canonical a6) : Canonical (writeCompute a0 a1 a2 a3 a4 a5 a6).1 := by
  unfold writeCompute
  try dsimp only
  exact (ite_fst_canonical (ite_fst_canonical (fst_canonical (setObj_canonical g0)) (fst_canonical (setObj_canonical g0))) (ite_fst_canonical (wTile_canonical g0) (ite_fst_canonical (wEngine_canonical g0) (ite_fst_canonical (wEngine_canonical g0) (ite_fst_canonical (wEngine_canonical g0) (ite_fst_canonical (wFabric_canonical g0) (ite_fst_canonical (wCistern_canonical g0) (ite_fst_canonical (wRegion_canonical g0) (ite_fst_canonical (wSeq_canonical g0) (ite_fst_canonical (wPartition_canonical g0) (ite_fst_canonical (wLoan_canonical g0) (ite_fst_canonical (wAcct_canonical g0) (ite_fst_canonical (wPlain_canonical g0) (ite_fst_canonical (wSyncWindow_canonical g0) (ite_fst_canonical (ite_fst_canonical (wHostWatch_canonical g0) (wPlain_canonical g0)) (ite_fst_canonical (wDet_canonical g0) (ite_fst_canonical (wReplay_canonical g0) (fst_canonical g0))))))))))))))))))

theorem wImg_canonical {a0 a1 a2 a3 a4 a5} (g0 : Canonical a5) : Canonical (wImg a0 a1 a2 a3 a4 a5).1 := by
  unfold wImg
  try dsimp only
  exact (ite_fst_canonical (wPlain_canonical g0) (ite_fst_canonical (wPlain_canonical g0) (wPlain_canonical g0)))

theorem wFw_canonical {a0 a1 a2 a3 a4} (g0 : Canonical a4) : Canonical (wFw a0 a1 a2 a3 a4).1 := by
  unfold wFw
  try dsimp only
  exact (ite_fst_canonical (wRillKick_canonical g0) (ite_fst_canonical (ite_fst_canonical (fst_canonical (useFree_canonical (wFwCommand_canonical g0))) (wFwCommand_canonical g0)) (ite_fst_canonical (wPlain_canonical g0) (ite_fst_canonical (fst_canonical (fwDataAccess_canonical g0)) (ite_fst_canonical (wPlain_canonical g0) (ite_fst_canonical (wPlain_canonical g0) (ite_fst_canonical (wPlain_canonical g0) (wPlain_canonical g0))))))))

theorem wI2c_canonical {a0 a1 a2 a3 a4} (g0 : Canonical a4) : Canonical (wI2c a0 a1 a2 a3 a4).1 := by
  unfold wI2c
  try dsimp only
  exact (ite_fst_canonical (wI2cCommand_canonical g0) (ite_fst_canonical (wI2cData_canonical g0) (ite_fst_canonical (wPlain_canonical g0) (ite_fst_canonical (wPlain_canonical g0) (wPlain_canonical g0)))))

theorem wPath_canonical {a0 a1 a2 a3 a4 a5} (g0 : Canonical a5) : Canonical (wPath a0 a1 a2 a3 a4 a5).1 := by
  unfold wPath
  try dsimp only
  exact (ite_fst_canonical (wPassthru_canonical g0) (wPlain_canonical g0))

theorem wOverlay_canonical {a0 a1 a2 a3 a4 a5} (g0 : Canonical a5) : Canonical (wOverlay a0 a1 a2 a3 a4 a5).1 := by
  unfold wOverlay
  try dsimp only
  exact (ite_fst_canonical (wPlain_canonical g0) (ite_fst_canonical (wPlain_canonical g0) (ite_fst_canonical (wPlain_canonical g0) (ite_fst_canonical (wPlain_canonical g0) (ite_fst_canonical (wPlain_canonical g0) (ite_fst_canonical (wPlain_canonical g0) (wPlain_canonical g0)))))))

theorem wDma_canonical {a0 a1 a2 a3 a4 a5} (g0 : Canonical a5) : Canonical (wDma a0 a1 a2 a3 a4 a5).1 := by
  unfold wDma
  try dsimp only
  exact (ite_fst_canonical (wDmaConfig_canonical g0) (ite_fst_canonical (wDmaRing_canonical g0) (ite_fst_canonical (wDmaRing_canonical g0) (ite_fst_canonical (wDmaPhase_canonical g0) (wPlain_canonical g0)))))

theorem wTimeNow_canonical {a0 a1} (g0 : Canonical a1) : Canonical (wTimeNow a0 a1).1 := by
  unfold wTimeNow
  try dsimp only
  exact (by (try dsimp only); first | (split; exact (ppsMeasure_canonical (capture_canonical (restampCaptures_canonical (addObj_canonical (setObj_canonical (upd_clk_canonical g0)))))); exact (capture_canonical (restampCaptures_canonical (addObj_canonical (setObj_canonical (upd_clk_canonical g0)))))) | (split <;> first | exact (ppsMeasure_canonical (capture_canonical (restampCaptures_canonical (addObj_canonical (setObj_canonical (upd_clk_canonical g0)))))) | exact (capture_canonical (restampCaptures_canonical (addObj_canonical (setObj_canonical (upd_clk_canonical g0)))))))

theorem wTime_canonical {a0 a1 a2 a3 a4} (g0 : Canonical a4) : Canonical (wTime a0 a1 a2 a3 a4).1 := by
  unfold wTime
  try dsimp only
  exact (ite_fst_canonical (wTimeNow_canonical g0) (ite_fst_canonical (wPpsEnable_canonical g0) (ite_fst_canonical (wPlain_canonical g0) (wPlain_canonical g0))))

theorem writeInterface_canonical {a0 a1 a2 a3 a4 a5 a6} (g0 : Canonical a6) : Canonical (writeInterface a0 a1 a2 a3 a4 a5 a6).1 := by
  unfold writeInterface
  try dsimp only
  exact (ite_fst_canonical (wRaster_canonical g0) (ite_fst_canonical (wMutePorts_canonical g0) (ite_fst_canonical (wPlain_canonical g0) (ite_fst_canonical (wAudio_canonical g0) (ite_fst_canonical (wOverlay_canonical g0) (ite_fst_canonical (wPlain_canonical g0) (ite_fst_canonical (wPlain_canonical g0) (ite_fst_canonical (wI2c_canonical g0) (ite_fst_canonical (wGpio_canonical g0) (ite_fst_canonical (wPinmux_canonical g0) (ite_fst_canonical (wPinmux_canonical g0) (ite_fst_canonical (wDma_canonical g0) (ite_fst_canonical (wPlain_canonical g0) (ite_fst_canonical (wFw_canonical g0) (ite_fst_canonical (wPath_canonical g0) (ite_fst_canonical (wImg_canonical g0) (ite_fst_canonical (wEnv_canonical g0) (ite_fst_canonical (ite_fst_canonical (wPlain_canonical g0) (wGenlockSlew_canonical g0)) (ite_fst_canonical (wTime_canonical g0) (ite_fst_canonical (wStep_canonical g0) (ite_fst_canonical (wBring_canonical g0) (ite_fst_canonical (wDefects_canonical g0) (ite_fst_canonical (ite_fst_canonical (wAlmanacCommand_canonical g0) (ite_fst_canonical (wPlain_canonical g0) (wPlain_canonical g0))) (ite_fst_canonical (wPerfCommand_canonical g0) (ite_fst_canonical (ite_fst_canonical (wPerfEvent_canonical g0) (fst_canonical (perfLoad_canonical g0))) (fst_canonical g0))))))))))))))))))))))))))

theorem writeOf_canonical {a0 a1 a2 a3 a4 a5 a6} (g0 : Canonical a6) : Canonical (writeOf a0 a1 a2 a3 a4 a5 a6).1 := by
  unfold writeOf
  try dsimp only
  exact (ite_fst_canonical (writeComm_canonical g0) (ite_fst_canonical (writeCompute_canonical g0) (writeInterface_canonical g0)))

theorem writeWord_canonical {a0 a1 a2 a3 a4} (g0 : Canonical a4) : Canonical (writeWord a0 a1 a2 a3 a4).1 := by
  unfold writeWord
  try dsimp only
  exact (by (try dsimp only); first | (split; exact (fst_canonical g0); exact (by (try dsimp only); first | (split; exact (fst_canonical g0); exact (ite_fst_canonical (fst_canonical g0) (ite_fst_canonical (ite_fst_canonical (writeHigh_canonical (fun _ _ h0 => (writeOf_canonical h0)) g0) (writeLow_canonical g0)) (writeOf_canonical g0)))) | (split <;> first | exact (fst_canonical g0) | exact (ite_fst_canonical (fst_canonical g0) (ite_fst_canonical (ite_fst_canonical (writeHigh_canonical (fun _ _ h0 => (writeOf_canonical h0)) g0) (writeLow_canonical g0)) (writeOf_canonical g0)))))) | (split <;> first | exact (fst_canonical g0) | exact (by (try dsimp only); first | (split; exact (fst_canonical g0); exact (ite_fst_canonical (fst_canonical g0) (ite_fst_canonical (ite_fst_canonical (writeHigh_canonical (fun _ _ h0 => (writeOf_canonical h0)) g0) (writeLow_canonical g0)) (writeOf_canonical g0)))) | (split <;> first | exact (fst_canonical g0) | exact (ite_fst_canonical (fst_canonical g0) (ite_fst_canonical (ite_fst_canonical (writeHigh_canonical (fun _ _ h0 => (writeOf_canonical h0)) g0) (writeLow_canonical g0)) (writeOf_canonical g0)))))))

theorem absentObject_canonical {a0 a1 a2 a3} (g0 : Canonical a3) : Canonical (absentObject a0 a1 a2 a3) := by
  unfold absentObject
  try dsimp only
  exact (ite_canonical (emit_canonical (addObj_canonical g0)) (ite_canonical (absentRead_canonical g0) (addObj_canonical g0)))

theorem writeObject_canonical {a0 a1 a2 a3 a4} (g0 : Canonical a4) : Canonical (writeObject a0 a1 a2 a3 a4) := by
  unfold writeObject
  try dsimp only
  exact (ite_canonical (ackWrite_canonical (writeWord_canonical g0)) (absentObject_canonical g0))

theorem busWrite_canonical {a0 a1 a2 a3 a4} (g0 : Canonical a4) : Canonical (busWrite a0 a1 a2 a3 a4) := by
  unfold busWrite
  try dsimp only
  exact (by (try dsimp only); first | (split; exact (writeObject_canonical g0); exact (writeMsixWord_canonical g0); exact g0; exact g0; exact g0; exact g0) | (split <;> first | exact (writeObject_canonical g0) | exact (writeMsixWord_canonical g0) | exact g0))

theorem busAnswer_canonical {a0 a1 a2 a3 a4} (g0 : Canonical a4) : Canonical (busAnswer a0 a1 a2 a3 a4) := by
  unfold busAnswer
  try dsimp only
  exact (by (try dsimp only); first | (split; exact (ite_canonical (emit_canonical g0) (answer_canonical g0)); exact (answer_canonical g0)) | (split <;> first | exact (ite_canonical (emit_canonical g0) (answer_canonical g0)) | exact (answer_canonical g0)))

theorem readWord_canonical {a0 a1 a2 a3} (g0 : Canonical a3) : Canonical (readWord a0 a1 a2 a3).2 := by
  unfold readWord
  try dsimp only
  exact (by (try dsimp only); first | (split; exact (snd_canonical (setLatches_canonical (readWhole_canonical g0))); exact (ite_snd_canonical (snd_canonical (setLatches_canonical (readWhole_canonical g0))) (ite_snd_canonical (by (try dsimp only); first | (split; exact (snd_canonical (setLatches_canonical (readWhole_canonical g0))); exact (snd_canonical (setLatches_canonical (readWhole_canonical g0)))) | (split <;> first | exact (snd_canonical (setLatches_canonical (readWhole_canonical g0))))) (snd_canonical (setLatches_canonical (readWhole_canonical g0)))))) | (split <;> first | exact (snd_canonical (setLatches_canonical (readWhole_canonical g0))) | exact (ite_snd_canonical (snd_canonical (setLatches_canonical (readWhole_canonical g0))) (ite_snd_canonical (by (try dsimp only); first | (split; exact (snd_canonical (setLatches_canonical (readWhole_canonical g0))); exact (snd_canonical (setLatches_canonical (readWhole_canonical g0)))) | (split <;> first | exact (snd_canonical (setLatches_canonical (readWhole_canonical g0))))) (snd_canonical (setLatches_canonical (readWhole_canonical g0)))))))

theorem busRead_canonical {a0 a1 a2 a3} (g0 : Canonical a3) : Canonical (busRead a0 a1 a2 a3).2 := by
  unfold busRead
  try dsimp only
  exact (by (try dsimp only); first | (split; exact (ite_snd_canonical (readWord_canonical g0) (snd_canonical (addObj_canonical g0))); exact (snd_canonical g0); exact (snd_canonical g0); exact (snd_canonical (useFree_canonical g0)); exact (snd_canonical g0); exact (snd_canonical g0)) | (split <;> first | exact (ite_snd_canonical (readWord_canonical g0) (snd_canonical (addObj_canonical g0))) | exact (snd_canonical g0) | exact (snd_canonical (useFree_canonical g0))))

theorem busAccess_canonical {a0 a1 a2 a3 a4} (g0 : Canonical a4) : Canonical (busAccess a0 a1 a2 a3 a4) := by
  unfold busAccess
  try dsimp only
  exact (by (try dsimp only); first | (split; exact (apertureAccess_canonical g0); exact (by (try dsimp only); first | (split; exact (ite_canonical (answer_canonical g0) (ite_canonical (readSyncData_canonical g0) (ite_canonical (busAnswer_canonical (busRead_canonical g0)) (busAnswer_canonical (busRead_canonical (busRead_canonical g0)))))); exact (ite_canonical g0 (ite_canonical (busWrite_canonical g0) (busWrite_canonical (busWrite_canonical g0))))) | (split <;> first | exact (ite_canonical (answer_canonical g0) (ite_canonical (readSyncData_canonical g0) (ite_canonical (busAnswer_canonical (busRead_canonical g0)) (busAnswer_canonical (busRead_canonical (busRead_canonical g0)))))) | exact (ite_canonical g0 (ite_canonical (busWrite_canonical g0) (busWrite_canonical (busWrite_canonical g0))))))) | (split <;> first | exact (apertureAccess_canonical g0) | exact (by (try dsimp only); first | (split; exact (ite_canonical (answer_canonical g0) (ite_canonical (readSyncData_canonical g0) (ite_canonical (busAnswer_canonical (busRead_canonical g0)) (busAnswer_canonical (busRead_canonical (busRead_canonical g0)))))); exact (ite_canonical g0 (ite_canonical (busWrite_canonical g0) (busWrite_canonical (busWrite_canonical g0))))) | (split <;> first | exact (ite_canonical (answer_canonical g0) (ite_canonical (readSyncData_canonical g0) (ite_canonical (busAnswer_canonical (busRead_canonical g0)) (busAnswer_canonical (busRead_canonical (busRead_canonical g0)))))) | exact (ite_canonical g0 (ite_canonical (busWrite_canonical g0) (busWrite_canonical (busWrite_canonical g0))))))))

theorem execObjectWrite_canonical {a0 a1 a2 a3 a4} (g0 : Canonical a4) : CanonOut (execObjectWrite a0 a1 a2 a3 a4) := by
  unfold execObjectWrite
  try dsimp only
  exact (whenFree_canonical g0 (fun _ h0 => (by (try dsimp only); split <;> first | exact (writeObject_canonical h0) | exact (busAccess_canonical h0))))

theorem execLowHalfWrite_canonical {a0 a1 a2 a3 a4} (g0 : Canonical a4) : CanonOut (execLowHalfWrite a0 a1 a2 a3 a4) := by
  unfold execLowHalfWrite
  try dsimp only
  exact (whenFree_canonical g0 (fun _ h0 => (ite_canonical (writeObject_canonical h0) h0)))

theorem execHighHalfWrite_canonical {a0 a1 a2 a3 a4} (g0 : Canonical a4) : CanonOut (execHighHalfWrite a0 a1 a2 a3 a4) := by
  unfold execHighHalfWrite
  try dsimp only
  exact (whenFree_canonical g0 (fun _ h0 => (ite_canonical (writeObject_canonical h0) h0)))

theorem execLowHalfRead_canonical {a0 a1 a2 a3} (g0 : Canonical a3) : CanonOut (execLowHalfRead a0 a1 a2 a3) := by
  unfold execLowHalfRead
  try dsimp only
  exact (whenFree_canonical g0 (fun _ h0 => (ite_canonical (ite_canonical (emit_canonical (readWord_canonical h0)) (absentObject_canonical h0)) h0)))

theorem execAbsentAccess_canonical {a0 a1 a2 a3 a4} (g0 : Canonical a4) : CanonOut (execAbsentAccess a0 a1 a2 a3 a4) := by
  unfold execAbsentAccess
  try dsimp only
  exact (whenFree_canonical g0 (fun _ h0 => (ite_canonical h0 (absentObject_canonical h0))))

theorem updCan_canonical {a0 a1} (hp : Canonical a1 → CanOk (a0 a1.io.can)) (g0 : Canonical a1) : Canonical (updCan a0 a1) := by
  unfold updCan
  exact upd_io_canonical (fun h => { h.io with can := hp h }) g0

theorem sendTpdo_canonical {a0 a1} (g0 : Canonical a1) : Canonical (sendTpdo a0 a1) := by
  unfold sendTpdo
  try dsimp only
  exact (emit_canonical (useFree_canonical (updCan_canonical (fun h => { h.io.can with syncs := (h.io.can.syncs.erase _), tpdoAt := (h.io.can.tpdoAt.put _ _) }) g0)))

theorem syncTpdo_canonical {a0 a1} (g0 : Canonical a1) : Canonical (syncTpdo a0 a1) := by
  unfold syncTpdo
  try dsimp only
  exact (ite_canonical (ite_canonical (sendTpdo_canonical g0) (updCan_canonical (fun h => { h.io.can with syncs := (h.io.can.syncs.put _ _) }) g0)) g0)

theorem execSyncMessage_canonical {a0 a1} (g0 : Canonical a1) : CanonOut (execSyncMessage a0 a1) := by
  unfold execSyncMessage
  try dsimp only
  exact (whenLive_canonical g0 (fun _ h0 => (ite_canonical (foldl_canonical (fun _ _ h1 => (syncTpdo_canonical h1)) h0) h0)))

theorem usdoReply_canonical {a0 a1 a2} (g0 : Canonical a2) : Canonical (usdoReply a0 a1 a2) := by
  unfold usdoReply
  try dsimp only
  exact (by (try dsimp only); first | (split; exact (emit_canonical g0); exact (ite_canonical (emit_canonical g0) (emit_canonical g0)); exact (emit_canonical g0)) | (split <;> first | exact (emit_canonical g0) | exact (ite_canonical (emit_canonical g0) (emit_canonical g0))))

theorem execNmtResetCommunication_canonical {a0} (g0 : Canonical a0) : CanonOut (execNmtResetCommunication a0) := by
  unfold execNmtResetCommunication
  try dsimp only
  exact (whenLive_canonical g0 (fun _ h0 => (ite_canonical (canReset_canonical h0) h0)))

theorem execNmtStop_canonical {a0} (g0 : Canonical a0) : CanonOut (execNmtStop a0) := by
  unfold execNmtStop
  try dsimp only
  exact (whenLive_canonical g0 (fun _ h0 => (ite_canonical (updCan_canonical (fun h => { h.io.can with }) h0) h0)))

theorem uploadWords_canonical {a0 a1 a2 a3 a4} (g0 : Canonical a4) : Canonical (uploadWords a0 a1 a2 a3 a4).2 := by
  induction a3 generalizing a4 with
  | zero => exact g0
  | succ n ih => exact ih (readWord_canonical g0)

theorem usdoRead_canonical {a0 a1 a2 a3} (g0 : Canonical a3) : Canonical (usdoRead a0 a1 a2 a3) := by
  unfold usdoRead
  try dsimp only
  exact (ite_canonical (absentObject_canonical g0) (ite_canonical (emit_canonical g0) (ite_canonical (readSyncData_canonical g0) (emit_canonical (uploadWords_canonical g0)))))

theorem execHeartbeatTimer_canonical {a0} (g0 : Canonical a0) : CanonOut (execHeartbeatTimer a0) := by
  unfold execHeartbeatTimer
  try dsimp only
  exact (whenLive_canonical g0 (fun _ h0 => (ite_canonical (emit_canonical (updCan_canonical (fun h => { h.io.can with }) h0)) h0)))

theorem execNmtPreOperational_canonical {a0} (g0 : Canonical a0) : CanonOut (execNmtPreOperational a0) := by
  unfold execNmtPreOperational
  try dsimp only
  exact (whenLive_canonical g0 (fun _ h0 => (ite_canonical (updCan_canonical (fun h => { h.io.can with }) h0) h0)))

theorem execNmtResetNode_canonical {a0} (g0 : Canonical a0) : CanonOut (execNmtResetNode a0) := by
  unfold execNmtResetNode
  try dsimp only
  exact (whenLive_canonical g0 (fun _ h0 => (ite_canonical (canReset_canonical h0) h0)))

theorem execUsdoUpload_canonical {a0 a1 a2 a3} (g0 : Canonical a3) : CanonOut (execUsdoUpload a0 a1 a2 a3) := by
  unfold execUsdoUpload
  try dsimp only
  exact (whenLive_canonical g0 (fun _ h0 => (ite_canonical (usdoRead_canonical h0) h0)))

theorem nmtOperational_canonical {a0} (g0 : Canonical a0) : Canonical (nmtOperational a0) := by
  unfold nmtOperational
  refine ite_canonical g0 (updCan_canonical (fun _ => ⟨Rising.nil, ?_⟩) g0)
  exact List.pairwise_map.2 (List.pairwise_lt_range (n := 8))

theorem downloadWords_canonical {a0 a1 a2 a3} (g0 : Canonical a3) : Canonical (downloadWords a0 a1 a2 a3).1 := by
  induction a2 generalizing a3 with
  | nil => exact g0
  | cons v vs ih =>
    have h := ackWrite_canonical (a0 := a0 * 256 + a1) (writeWord_canonical (a0 := 0) (a1 := a0) (a2 := a1) (a3 := v) g0)
    simp only [downloadWords]
    split
    · exact ih h
    · exact h

theorem usdoWrite_canonical {a0 a1 a2 a3} (g0 : Canonical a3) : Canonical (usdoWrite a0 a1 a2 a3) := by
  unfold usdoWrite
  try dsimp only
  exact (ite_canonical (absentObject_canonical g0) (ite_canonical (emit_canonical g0) (ite_canonical (emit_canonical (refuse_canonical g0)) (ite_canonical (emit_canonical (refuse_canonical g0)) (usdoReply_canonical (downloadWords_canonical g0))))))

theorem execCanBusError_canonical {a0 a1 a2 a3} (g0 : Canonical a3) : CanonOut (execCanBusError a0 a1 a2 a3) := by
  unfold execCanBusError
  try dsimp only
  exact (whenLive_canonical g0 (fun _ h0 => (ite_canonical h0 (setObj_canonical (updCan_canonical (fun h => { h.io.can with }) h0)))))

theorem execNmtStart_canonical {a0} (g0 : Canonical a0) : CanonOut (execNmtStart a0) := by
  unfold execNmtStart
  try dsimp only
  exact (whenLive_canonical g0 (fun _ h0 => (ite_canonical (nmtOperational_canonical h0) h0)))

theorem execTpdoEventTimer_canonical {a0 a1} (g0 : Canonical a1) : CanonOut (execTpdoEventTimer a0 a1) := by
  unfold execTpdoEventTimer
  try dsimp only
  exact (whenLive_canonical g0 (fun _ h0 => (ite_canonical (sendTpdo_canonical h0) h0)))

theorem execUsdoDownload_canonical {a0 a1 a2 a3} (g0 : Canonical a3) : CanonOut (execUsdoDownload a0 a1 a2 a3) := by
  unfold execUsdoDownload
  try dsimp only
  exact (whenLive_canonical g0 (fun _ h0 => (ite_canonical (usdoWrite_canonical h0) h0)))

theorem tickFill_canonical {a0} (g0 : Canonical a0) : Canonical (tickFill a0) := by
  unfold tickFill
  try dsimp only
  exact (by (try dsimp only); first | (split; exact g0; exact (fillSome_canonical g0)) | (split <;> first | exact g0 | exact (fillSome_canonical g0)))

theorem tickPerf_canonical {a0} (g0 : Canonical a0) : Canonical (tickPerf a0) := by
  unfold tickPerf
  try dsimp only
  exact (foldl_canonical (fun _ _ h0 => (ite_canonical (perfAdd_canonical h0) h0)) g0)

theorem tickLands_canonical {a0} (g0 : Canonical a0) : Canonical (tickLands a0) := by
  unfold tickLands
  try dsimp only
  exact (endSwitches_canonical (by (try dsimp only); first | (split; exact (ite_canonical (refreshPins_canonical (upd_io_canonical (fun h => { h.io with lands := { h.io.lands with  } }) g0)) g0); exact g0) | (split <;> first | exact (ite_canonical (refreshPins_canonical (upd_io_canonical (fun h => { h.io with lands := { h.io.lands with  } }) g0)) g0) | exact g0)))

theorem tickWaits_canonical {a0} (g0 : Canonical a0) : Canonical (tickWaits a0) := by
  unfold tickWaits
  try dsimp only
  exact (foldl_canonical (fun _ _ h0 => (by (try dsimp only); first | (split; exact (chargeWait_canonical h0); exact h0) | (split <;> first | exact (chargeWait_canonical h0) | exact h0))) g0)

theorem tickEmcy_canonical {a0} (g0 : Canonical a0) : Canonical (tickEmcy a0) := by
  unfold tickEmcy
  try dsimp only
  exact (by (try dsimp only); first | (split; exact g0; exact (ite_canonical (sendEmcy_canonical (updCan_canonical (fun h => { h.io.can with }) g0)) g0)) | (split <;> first | exact g0 | exact (ite_canonical (sendEmcy_canonical (updCan_canonical (fun h => { h.io.can with }) g0)) g0)))

theorem tickCalendar_canonical {a0} (g0 : Canonical a0) : Canonical (tickCalendar a0) := by
  unfold tickCalendar
  try dsimp only
  exact (setObj_canonical (upd_clk_canonical g0))

theorem tickClocks_canonical {a0} (g0 : Canonical a0) : Canonical (tickClocks a0) := by
  unfold tickClocks
  try dsimp only
  exact (tickCalendar_canonical (ite_canonical (addObj_canonical (ite_canonical (addObj_canonical (upd_clk_canonical g0)) (upd_clk_canonical g0))) (ite_canonical (addObj_canonical (upd_clk_canonical g0)) (upd_clk_canonical g0))))

theorem tick_canonical {a0} (g0 : Canonical a0) : Canonical (tick a0) := by
  unfold tick
  try dsimp only
  exact (tickLands_canonical (tickEmcy_canonical (tickFill_canonical (tickPerf_canonical (tickClocks_canonical (endWarms_canonical (passCycle_canonical (tickWaits_canonical g0))))))))

theorem State.enqueueFront_canonical {a0 a1} (g0 : Canonical a0) : Canonical (State.enqueueFront a0 a1) := by
  unfold State.enqueueFront
  try dsimp only
  exact (upd_pending_canonical g0)

theorem State.withFetchWord_canonical {a0 a1 a2} (g0 : Canonical a0) : Canonical (State.withFetchWord a0 a1 a2) := by
  unfold State.withFetchWord
  try dsimp only
  exact (by (try dsimp only); first | (split; exact (State.enqueueFront_canonical g0); exact g0) | (split <;> first | exact (State.enqueueFront_canonical g0) | exact g0))

end Sys2Proof.Machine
end

