-- ==== Sys2Proof/Laws/Frames.lean ====
section
/-!
SUPPORT. What each operation may change: one lemma for each operation over the state, naming the fields that it can write as a set of bits. Every other field reads as before.
-/

namespace Sys2Proof.Machine

set_option maxRecDepth 10000
set_option linter.unusedTactic false
set_option linter.unusedVariables false
set_option linter.unreachableTactic false
set_option Elab.async false

/-- A set of fields lies within another. -/
structure FieldsIn (k m : Nat) : Prop where
  sub : k &&& m = k

theorem FieldsIn.refl (k : Nat) : FieldsIn k k := ⟨Nat.and_self k⟩

theorem FieldsIn.of {j k m : Nat} (h : FieldsIn k m) (h2 : j &&& k = j) : FieldsIn j m := ⟨by
  calc j &&& m = (j &&& k) &&& m := by rw [h2]
    _ = j &&& (k &&& m) := Nat.and_assoc ..
    _ = j := by rw [h.sub, h2]⟩

theorem FieldsIn.bit {k m i : Nat} (h : FieldsIn k m) (hb : k.testBit i = true) : m.testBit i = true := by
  have := congrArg (Nat.testBit · i) h.sub
  simp only [Nat.testBit_and, hb, Bool.true_and] at this
  exact this

/-- `t` agrees with `s` on every field that the set `m` does not name. -/
structure Leaves (m : Nat) (s t : State) : Prop where
  out : m.testBit 0 = false → t.out = s.out
  free : m.testBit 1 = false → t.free = s.free
  objs : m.testBit 2 = false → t.objs = s.objs
  latches : m.testBit 3 = false → t.latches = s.latches
  flash : m.testBit 4 = false → t.flash = s.flash
  clk_running : m.testBit 5 = false → t.clk.running = s.clk.running
  clk_ticks : m.testBit 6 = false → t.clk.ticks = s.clk.ticks
  clk_started : m.testBit 7 = false → t.clk.started = s.clk.started
  clk_aligned : m.testBit 8 = false → t.clk.aligned = s.clk.aligned
  clk_calFrac : m.testBit 9 = false → t.clk.calFrac = s.clk.calFrac
  clk_ppsEdge : m.testBit 10 = false → t.clk.ppsEdge = s.clk.ppsEdge
  clk_ppsErrors : m.testBit 11 = false → t.clk.ppsErrors = s.clk.ppsErrors
  clk_ppsGood : m.testBit 12 = false → t.clk.ppsGood = s.clk.ppsGood
  clk_ppsFrom : m.testBit 13 = false → t.clk.ppsFrom = s.clk.ppsFrom
  clk_ppsSteps : m.testBit 14 = false → t.clk.ppsSteps = s.clk.ppsSteps
  clk_pulse : m.testBit 15 = false → t.clk.pulse = s.clk.pulse
  clk_pulses : m.testBit 16 = false → t.clk.pulses = s.clk.pulses
  clk_periods : m.testBit 17 = false → t.clk.periods = s.clk.periods
  pw_pwrgood : m.testBit 18 = false → t.pw.pwrgood = s.pw.pwrgood
  pw_tripN : m.testBit 19 = false → t.pw.tripN = s.pw.tripN
  pw_sensors : m.testBit 20 = false → t.pw.sensors = s.pw.sensors
  pw_computeTrip : m.testBit 21 = false → t.pw.computeTrip = s.pw.computeTrip
  pw_hubTrip : m.testBit 22 = false → t.pw.hubTrip = s.pw.hubTrip
  pw_computeOff : m.testBit 23 = false → t.pw.computeOff = s.pw.computeOff
  pw_declLocked : m.testBit 24 = false → t.pw.declLocked = s.pw.declLocked
  fw_weirUp : m.testBit 25 = false → t.fw.weirUp = s.fw.weirUp
  fw_weirRestart : m.testBit 26 = false → t.fw.weirRestart = s.fw.weirRestart
  fw_activeWeir : m.testBit 27 = false → t.fw.activeWeir = s.fw.activeWeir
  fw_reading : m.testBit 28 = false → t.fw.reading = s.fw.reading
  fw_released : m.testBit 29 = false → t.fw.released = s.fw.released
  fw_kicked : m.testBit 30 = false → t.fw.kicked = s.fw.kicked
  fw_restarts : m.testBit 31 = false → t.fw.restarts = s.fw.restarts
  fw_cmd : m.testBit 32 = false → t.fw.cmd = s.fw.cmd
  fw_staging : m.testBit 33 = false → t.fw.staging = s.fw.staging
  fw_compat : m.testBit 34 = false → t.fw.compat = s.fw.compat
  fab_board : m.testBit 35 = false → t.fab.board = s.fab.board
  fab_defects : m.testBit 36 = false → t.fab.defects = s.fab.defects
  fab_unlisted : m.testBit 37 = false → t.fab.unlisted = s.fab.unlisted
  fab_stepMap : m.testBit 38 = false → t.fab.stepMap = s.fab.stepMap
  fab_repairs : m.testBit 39 = false → t.fab.repairs = s.fab.repairs
  fab_links : m.testBit 40 = false → t.fab.links = s.fab.links
  fab_load : m.testBit 41 = false → t.fab.load = s.fab.load
  fab_evac : m.testBit 42 = false → t.fab.evac = s.fab.evac
  fab_siteOf : m.testBit 43 = false → t.fab.siteOf = s.fab.siteOf
  fab_motionFailed : m.testBit 44 = false → t.fab.motionFailed = s.fab.motionFailed
  fab_resetWaits : m.testBit 45 = false → t.fab.resetWaits = s.fab.resetWaits
  fab_faultWaits : m.testBit 46 = false → t.fab.faultWaits = s.fab.faultWaits
  tl_queues : m.testBit 47 = false → t.tl.queues = s.tl.queues
  tl_slots : m.testBit 48 = false → t.tl.slots = s.tl.slots
  tl_units : m.testBit 49 = false → t.tl.units = s.tl.units
  tl_pageMap : m.testBit 50 = false → t.tl.pageMap = s.tl.pageMap
  tl_frames : m.testBit 51 = false → t.tl.frames = s.tl.frames
  tl_turns : m.testBit 52 = false → t.tl.turns = s.tl.turns
  tl_loads : m.testBit 53 = false → t.tl.loads = s.tl.loads
  ci_slots : m.testBit 54 = false → t.ci.slots = s.ci.slots
  ci_pages : m.testBit 55 = false → t.ci.pages = s.ci.pages
  ci_tags : m.testBit 56 = false → t.ci.tags = s.ci.tags
  ci_serial : m.testBit 57 = false → t.ci.serial = s.ci.serial
  ci_lostPcs : m.testBit 58 = false → t.ci.lostPcs = s.ci.lostPcs
  ci_pcRetrain : m.testBit 59 = false → t.ci.pcRetrain = s.ci.pcRetrain
  ci_pcWaiting : m.testBit 60 = false → t.ci.pcWaiting = s.ci.pcWaiting
  ci_stale : m.testBit 61 = false → t.ci.stale = s.ci.stale
  ci_migrate : m.testBit 62 = false → t.ci.migrate = s.ci.migrate
  ci_moving : m.testBit 63 = false → t.ci.moving = s.ci.moving
  ci_rebuilding : m.testBit 64 = false → t.ci.rebuilding = s.ci.rebuilding
  ci_damaged : m.testBit 65 = false → t.ci.damaged = s.ci.damaged
  pt_parts : m.testBit 66 = false → t.pt.parts = s.pt.parts
  pt_accts : m.testBit 67 = false → t.pt.accts = s.pt.accts
  pt_acctLatch : m.testBit 68 = false → t.pt.acctLatch = s.pt.acctLatch
  pt_perturbed : m.testBit 69 = false → t.pt.perturbed = s.pt.perturbed
  sy_counts : m.testBit 70 = false → t.sy.counts = s.sy.counts
  sy_banks : m.testBit 71 = false → t.sy.banks = s.sy.banks
  sy_held : m.testBit 72 = false → t.sy.held = s.sy.held
  sy_notices : m.testBit 73 = false → t.sy.notices = s.sy.notices
  sy_parked : m.testBit 74 = false → t.sy.parked = s.sy.parked
  sy_fill : m.testBit 75 = false → t.sy.fill = s.sy.fill
  sy_hostArmed : m.testBit 76 = false → t.sy.hostArmed = s.sy.hostArmed
  st_seqs : m.testBit 77 = false → t.st.seqs = s.st.seqs
  st_watched : m.testBit 78 = false → t.st.watched = s.st.watched
  st_overlays : m.testBit 79 = false → t.st.overlays = s.st.overlays
  st_audio : m.testBit 80 = false → t.st.audio = s.st.audio
  st_fallback : m.testBit 81 = false → t.st.fallback = s.st.fallback
  st_served : m.testBit 82 = false → t.st.served = s.st.served
  io_raster : m.testBit 83 = false → t.io.raster = s.io.raster
  io_rings : m.testBit 84 = false → t.io.rings = s.io.rings
  io_pcie : m.testBit 85 = false → t.io.pcie = s.io.pcie
  io_paths : m.testBit 86 = false → t.io.paths = s.io.paths
  io_msixTable : m.testBit 87 = false → t.io.msixTable = s.io.msixTable
  io_can : m.testBit 88 = false → t.io.can = s.io.can
  io_lands : m.testBit 89 = false → t.io.lands = s.io.lands
  alm_slots : m.testBit 90 = false → t.alm.slots = s.alm.slots
  alm_used : m.testBit 91 = false → t.alm.used = s.alm.used
  alm_queue : m.testBit 92 = false → t.alm.queue = s.alm.queue
  alm_discarded : m.testBit 93 = false → t.alm.discarded = s.alm.discarded
  alm_lastCirc : m.testBit 94 = false → t.alm.lastCirc = s.alm.lastCirc
  alm_frozen : m.testBit 95 = false → t.alm.frozen = s.alm.frozen
  alm_snapshot : m.testBit 96 = false → t.alm.snapshot = s.alm.snapshot
  alm_pending : m.testBit 97 = false → t.alm.pending = s.alm.pending
  alm_region : m.testBit 98 = false → t.alm.region = s.alm.region
  alm_erasing : m.testBit 99 = false → t.alm.erasing = s.alm.erasing
  alm_mirrorFailed : m.testBit 100 = false → t.alm.mirrorFailed = s.alm.mirrorFailed
  now_numfmt : m.testBit 101 = false → t.now.numfmt = s.now.numfmt
  now_perf : m.testBit 102 = false → t.now.perf = s.now.perf
  now_perfNew : m.testBit 103 = false → t.now.perfNew = s.now.perfNew
  now_charged : m.testBit 104 = false → t.now.charged = s.now.charged
  now_stamped : m.testBit 105 = false → t.now.stamped = s.now.stamped
  now_published : m.testBit 106 = false → t.now.published = s.now.published
  now_landed : m.testBit 107 = false → t.now.landed = s.now.landed
  now_flipped : m.testBit 108 = false → t.now.flipped = s.now.flipped
  now_serial : m.testBit 109 = false → t.now.serial = s.now.serial
  now_steps : m.testBit 110 = false → t.now.steps = s.now.steps
  now_switched : m.testBit 111 = false → t.now.switched = s.now.switched
  now_sets : m.testBit 112 = false → t.now.sets = s.now.sets
  now_won : m.testBit 113 = false → t.now.won = s.now.won
  now_admitted : m.testBit 114 = false → t.now.admitted = s.now.admitted
  now_arrived : m.testBit 115 = false → t.now.arrived = s.now.arrived
  now_holds : m.testBit 116 = false → t.now.holds = s.now.holds
  now_mute : m.testBit 117 = false → t.now.mute = s.now.mute
  now_pps : m.testBit 118 = false → t.now.pps = s.now.pps
  now_captures : m.testBit 119 = false → t.now.captures = s.now.captures

/-- Every next state of an outcome agrees with `s` on every field that the set does not name. -/
def LeavesOut (m : Nat) (s : State) (o : Out) : Prop := ∀ t, o = .next t → Leaves m s t

theorem Leaves.refl (m : Nat) (s : State) : Leaves m s s := by
  constructor <;> intro _ <;> rfl

/-- The frame of a command that answers a next state. -/
theorem LeavesOut.next {m : Nat} {s t : State} (h : LeavesOut m s (.next t)) : Leaves m s t := h t rfl

theorem next_frame {m : Nat} {a t : State} (h : Leaves m a t) : LeavesOut m a (.next t) := by
  intro u hu; cases hu; exact h

theorem kept_of {α : Type} {x y z : α} {b : Bool} (h : x = y ∨ b = true) (g : b = false → y = z) : b = false → x = z := by
  intro hb
  rcases h with e | e
  · rw [e]; exact g hb
  · rw [hb] at e; cases e

theorem ite_frame {m : Nat} {a : State} {c : Prop} [Decidable c] {x y : State} (ha : Leaves m a x) (hb : Leaves m a y) : Leaves m a (if c then x else y) := by
  split <;> assumption

theorem ite_fst_frame {m : Nat} {a : State} {β : Type} {c : Prop} [Decidable c] {x y : State × β} (ha : Leaves m a x.1) (hb : Leaves m a y.1) :
    Leaves m a (if c then x else y).1 := by
  split <;> assumption

theorem ite_snd_frame {m : Nat} {a : State} {β : Type} {c : Prop} [Decidable c] {x y : β × State} (ha : Leaves m a x.2) (hb : Leaves m a y.2) :
    Leaves m a (if c then x else y).2 := by
  split <;> assumption

theorem foldl_frame {m : Nat} {a : State} {α : Type} {f : State → α → State} (hf : ∀ s x, Leaves m a s → Leaves m a (f s x)) {l : List α} {s : State}
    (h : Leaves m a s) : Leaves m a (l.foldl f s) := by
  induction l generalizing s with
  | nil => exact h
  | cons x l ih => exact ih (hf s x h)

theorem foldl_fst_frame {m : Nat} {a : State} {α β : Type} {f : State × β → α → State × β} (hf : ∀ s x, Leaves m a s.1 → Leaves m a (f s x).1) {l : List α}
    {s : State × β} (h : Leaves m a s.1) : Leaves m a (l.foldl f s).1 := by
  induction l generalizing s with
  | nil => exact h
  | cons x l ih => exact ih (hf s x h)

theorem foldl_snd_frame {m : Nat} {a : State} {α β : Type} {f : β × State → α → β × State} (hf : ∀ s x, Leaves m a s.2 → Leaves m a (f s x).2) {l : List α}
    {s : β × State} (h : Leaves m a s.2) : Leaves m a (l.foldl f s).2 := by
  induction l generalizing s with
  | nil => exact h
  | cons x l ih => exact ih (hf s x h)

/-! ### Updates of one part of the state -/

theorem upd_out_frame {m : Nat} {a s : State} {x : List Emission} (h : Leaves m a s)
    (h0 : m.testBit 0 = true := by exact FieldsIn.bit (by assumption) (by decide)) : Leaves m a { s with out := x } :=
  { h with out := kept_of (.inr h0) h.out }
theorem upd_free_frame {m : Nat} {a s : State} {x : Nat} (h : Leaves m a s)
    (h0 : m.testBit 1 = true := by exact FieldsIn.bit (by assumption) (by decide)) : Leaves m a { s with free := x } :=
  { h with free := kept_of (.inr h0) h.free }
theorem upd_objs_frame {m : Nat} {a s : State} {x : SMap DWord} (h : Leaves m a s)
    (h0 : m.testBit 2 = true := by exact FieldsIn.bit (by assumption) (by decide)) : Leaves m a { s with objs := x } :=
  { h with objs := kept_of (.inr h0) h.objs }
theorem upd_latches_frame {m : Nat} {a s : State} {x : SMap Latches} (h : Leaves m a s)
    (h0 : m.testBit 3 = true := by exact FieldsIn.bit (by assumption) (by decide)) : Leaves m a { s with latches := x } :=
  { h with latches := kept_of (.inr h0) h.latches }
theorem upd_flash_frame {m : Nat} {a s : State} {x : Cells} (h : Leaves m a s)
    (h0 : m.testBit 4 = true := by exact FieldsIn.bit (by assumption) (by decide)) : Leaves m a { s with flash := x } :=
  { h with flash := kept_of (.inr h0) h.flash }
theorem upd_clk_frame {m : Nat} {a s : State} {x : Clocks} (h : Leaves m a s)
    (h0 : x.running = s.clk.running ∨ m.testBit 5 = true := by first | exact Or.inl (by with_reducible rfl) | exact Or.inr (FieldsIn.bit (by assumption) (by decide)))
    (h1 : x.ticks = s.clk.ticks ∨ m.testBit 6 = true := by first | exact Or.inl (by with_reducible rfl) | exact Or.inr (FieldsIn.bit (by assumption) (by decide)))
    (h2 : x.started = s.clk.started ∨ m.testBit 7 = true := by first | exact Or.inl (by with_reducible rfl) | exact Or.inr (FieldsIn.bit (by assumption) (by decide)))
    (h3 : x.aligned = s.clk.aligned ∨ m.testBit 8 = true := by first | exact Or.inl (by with_reducible rfl) | exact Or.inr (FieldsIn.bit (by assumption) (by decide)))
    (h4 : x.calFrac = s.clk.calFrac ∨ m.testBit 9 = true := by first | exact Or.inl (by with_reducible rfl) | exact Or.inr (FieldsIn.bit (by assumption) (by decide)))
    (h5 : x.ppsEdge = s.clk.ppsEdge ∨ m.testBit 10 = true := by first | exact Or.inl (by with_reducible rfl) | exact Or.inr (FieldsIn.bit (by assumption) (by decide)))
    (h6 : x.ppsErrors = s.clk.ppsErrors ∨ m.testBit 11 = true := by first | exact Or.inl (by with_reducible rfl) | exact Or.inr (FieldsIn.bit (by assumption) (by decide)))
    (h7 : x.ppsGood = s.clk.ppsGood ∨ m.testBit 12 = true := by first | exact Or.inl (by with_reducible rfl) | exact Or.inr (FieldsIn.bit (by assumption) (by decide)))
    (h8 : x.ppsFrom = s.clk.ppsFrom ∨ m.testBit 13 = true := by first | exact Or.inl (by with_reducible rfl) | exact Or.inr (FieldsIn.bit (by assumption) (by decide)))
    (h9 : x.ppsSteps = s.clk.ppsSteps ∨ m.testBit 14 = true := by first | exact Or.inl (by with_reducible rfl) | exact Or.inr (FieldsIn.bit (by assumption) (by decide)))
    (h10 : x.pulse = s.clk.pulse ∨ m.testBit 15 = true := by first | exact Or.inl (by with_reducible rfl) | exact Or.inr (FieldsIn.bit (by assumption) (by decide)))
    (h11 : x.pulses = s.clk.pulses ∨ m.testBit 16 = true := by first | exact Or.inl (by with_reducible rfl) | exact Or.inr (FieldsIn.bit (by assumption) (by decide)))
    (h12 : x.periods = s.clk.periods ∨ m.testBit 17 = true := by first | exact Or.inl (by with_reducible rfl) | exact Or.inr (FieldsIn.bit (by assumption) (by decide))) :
    Leaves m a { s with clk := x } :=
  { h with clk_running := kept_of h0 h.clk_running, clk_ticks := kept_of h1 h.clk_ticks, clk_started := kept_of h2 h.clk_started, clk_aligned := kept_of h3 h.clk_aligned, clk_calFrac := kept_of h4 h.clk_calFrac, clk_ppsEdge := kept_of h5 h.clk_ppsEdge, clk_ppsErrors := kept_of h6 h.clk_ppsErrors, clk_ppsGood := kept_of h7 h.clk_ppsGood, clk_ppsFrom := kept_of h8 h.clk_ppsFrom, clk_ppsSteps := kept_of h9 h.clk_ppsSteps, clk_pulse := kept_of h10 h.clk_pulse, clk_pulses := kept_of h11 h.clk_pulses, clk_periods := kept_of h12 h.clk_periods }
theorem upd_pw_frame {m : Nat} {a s : State} {x : Power} (h : Leaves m a s)
    (h0 : x.pwrgood = s.pw.pwrgood ∨ m.testBit 18 = true := by first | exact Or.inl (by with_reducible rfl) | exact Or.inr (FieldsIn.bit (by assumption) (by decide)))
    (h1 : x.tripN = s.pw.tripN ∨ m.testBit 19 = true := by first | exact Or.inl (by with_reducible rfl) | exact Or.inr (FieldsIn.bit (by assumption) (by decide)))
    (h2 : x.sensors = s.pw.sensors ∨ m.testBit 20 = true := by first | exact Or.inl (by with_reducible rfl) | exact Or.inr (FieldsIn.bit (by assumption) (by decide)))
    (h3 : x.computeTrip = s.pw.computeTrip ∨ m.testBit 21 = true := by first | exact Or.inl (by with_reducible rfl) | exact Or.inr (FieldsIn.bit (by assumption) (by decide)))
    (h4 : x.hubTrip = s.pw.hubTrip ∨ m.testBit 22 = true := by first | exact Or.inl (by with_reducible rfl) | exact Or.inr (FieldsIn.bit (by assumption) (by decide)))
    (h5 : x.computeOff = s.pw.computeOff ∨ m.testBit 23 = true := by first | exact Or.inl (by with_reducible rfl) | exact Or.inr (FieldsIn.bit (by assumption) (by decide)))
    (h6 : x.declLocked = s.pw.declLocked ∨ m.testBit 24 = true := by first | exact Or.inl (by with_reducible rfl) | exact Or.inr (FieldsIn.bit (by assumption) (by decide))) :
    Leaves m a { s with pw := x } :=
  { h with pw_pwrgood := kept_of h0 h.pw_pwrgood, pw_tripN := kept_of h1 h.pw_tripN, pw_sensors := kept_of h2 h.pw_sensors, pw_computeTrip := kept_of h3 h.pw_computeTrip, pw_hubTrip := kept_of h4 h.pw_hubTrip, pw_computeOff := kept_of h5 h.pw_computeOff, pw_declLocked := kept_of h6 h.pw_declLocked }
theorem upd_fw_frame {m : Nat} {a s : State} {x : Firmware} (h : Leaves m a s)
    (h0 : x.weirUp = s.fw.weirUp ∨ m.testBit 25 = true := by first | exact Or.inl (by with_reducible rfl) | exact Or.inr (FieldsIn.bit (by assumption) (by decide)))
    (h1 : x.weirRestart = s.fw.weirRestart ∨ m.testBit 26 = true := by first | exact Or.inl (by with_reducible rfl) | exact Or.inr (FieldsIn.bit (by assumption) (by decide)))
    (h2 : x.activeWeir = s.fw.activeWeir ∨ m.testBit 27 = true := by first | exact Or.inl (by with_reducible rfl) | exact Or.inr (FieldsIn.bit (by assumption) (by decide)))
    (h3 : x.reading = s.fw.reading ∨ m.testBit 28 = true := by first | exact Or.inl (by with_reducible rfl) | exact Or.inr (FieldsIn.bit (by assumption) (by decide)))
    (h4 : x.released = s.fw.released ∨ m.testBit 29 = true := by first | exact Or.inl (by with_reducible rfl) | exact Or.inr (FieldsIn.bit (by assumption) (by decide)))
    (h5 : x.kicked = s.fw.kicked ∨ m.testBit 30 = true := by first | exact Or.inl (by with_reducible rfl) | exact Or.inr (FieldsIn.bit (by assumption) (by decide)))
    (h6 : x.restarts = s.fw.restarts ∨ m.testBit 31 = true := by first | exact Or.inl (by with_reducible rfl) | exact Or.inr (FieldsIn.bit (by assumption) (by decide)))
    (h7 : x.cmd = s.fw.cmd ∨ m.testBit 32 = true := by first | exact Or.inl (by with_reducible rfl) | exact Or.inr (FieldsIn.bit (by assumption) (by decide)))
    (h8 : x.staging = s.fw.staging ∨ m.testBit 33 = true := by first | exact Or.inl (by with_reducible rfl) | exact Or.inr (FieldsIn.bit (by assumption) (by decide)))
    (h9 : x.compat = s.fw.compat ∨ m.testBit 34 = true := by first | exact Or.inl (by with_reducible rfl) | exact Or.inr (FieldsIn.bit (by assumption) (by decide))) :
    Leaves m a { s with fw := x } :=
  { h with fw_weirUp := kept_of h0 h.fw_weirUp, fw_weirRestart := kept_of h1 h.fw_weirRestart, fw_activeWeir := kept_of h2 h.fw_activeWeir, fw_reading := kept_of h3 h.fw_reading, fw_released := kept_of h4 h.fw_released, fw_kicked := kept_of h5 h.fw_kicked, fw_restarts := kept_of h6 h.fw_restarts, fw_cmd := kept_of h7 h.fw_cmd, fw_staging := kept_of h8 h.fw_staging, fw_compat := kept_of h9 h.fw_compat }
theorem upd_fab_frame {m : Nat} {a s : State} {x : Fabric} (h : Leaves m a s)
    (h0 : x.board = s.fab.board ∨ m.testBit 35 = true := by first | exact Or.inl (by with_reducible rfl) | exact Or.inr (FieldsIn.bit (by assumption) (by decide)))
    (h1 : x.defects = s.fab.defects ∨ m.testBit 36 = true := by first | exact Or.inl (by with_reducible rfl) | exact Or.inr (FieldsIn.bit (by assumption) (by decide)))
    (h2 : x.unlisted = s.fab.unlisted ∨ m.testBit 37 = true := by first | exact Or.inl (by with_reducible rfl) | exact Or.inr (FieldsIn.bit (by assumption) (by decide)))
    (h3 : x.stepMap = s.fab.stepMap ∨ m.testBit 38 = true := by first | exact Or.inl (by with_reducible rfl) | exact Or.inr (FieldsIn.bit (by assumption) (by decide)))
    (h4 : x.repairs = s.fab.repairs ∨ m.testBit 39 = true := by first | exact Or.inl (by with_reducible rfl) | exact Or.inr (FieldsIn.bit (by assumption) (by decide)))
    (h5 : x.links = s.fab.links ∨ m.testBit 40 = true := by first | exact Or.inl (by with_reducible rfl) | exact Or.inr (FieldsIn.bit (by assumption) (by decide)))
    (h6 : x.load = s.fab.load ∨ m.testBit 41 = true := by first | exact Or.inl (by with_reducible rfl) | exact Or.inr (FieldsIn.bit (by assumption) (by decide)))
    (h7 : x.evac = s.fab.evac ∨ m.testBit 42 = true := by first | exact Or.inl (by with_reducible rfl) | exact Or.inr (FieldsIn.bit (by assumption) (by decide)))
    (h8 : x.siteOf = s.fab.siteOf ∨ m.testBit 43 = true := by first | exact Or.inl (by with_reducible rfl) | exact Or.inr (FieldsIn.bit (by assumption) (by decide)))
    (h9 : x.motionFailed = s.fab.motionFailed ∨ m.testBit 44 = true := by first | exact Or.inl (by with_reducible rfl) | exact Or.inr (FieldsIn.bit (by assumption) (by decide)))
    (h10 : x.resetWaits = s.fab.resetWaits ∨ m.testBit 45 = true := by first | exact Or.inl (by with_reducible rfl) | exact Or.inr (FieldsIn.bit (by assumption) (by decide)))
    (h11 : x.faultWaits = s.fab.faultWaits ∨ m.testBit 46 = true := by first | exact Or.inl (by with_reducible rfl) | exact Or.inr (FieldsIn.bit (by assumption) (by decide))) :
    Leaves m a { s with fab := x } :=
  { h with fab_board := kept_of h0 h.fab_board, fab_defects := kept_of h1 h.fab_defects, fab_unlisted := kept_of h2 h.fab_unlisted, fab_stepMap := kept_of h3 h.fab_stepMap, fab_repairs := kept_of h4 h.fab_repairs, fab_links := kept_of h5 h.fab_links, fab_load := kept_of h6 h.fab_load, fab_evac := kept_of h7 h.fab_evac, fab_siteOf := kept_of h8 h.fab_siteOf, fab_motionFailed := kept_of h9 h.fab_motionFailed, fab_resetWaits := kept_of h10 h.fab_resetWaits, fab_faultWaits := kept_of h11 h.fab_faultWaits }
theorem upd_tl_frame {m : Nat} {a s : State} {x : Tiles} (h : Leaves m a s)
    (h0 : x.queues = s.tl.queues ∨ m.testBit 47 = true := by first | exact Or.inl (by with_reducible rfl) | exact Or.inr (FieldsIn.bit (by assumption) (by decide)))
    (h1 : x.slots = s.tl.slots ∨ m.testBit 48 = true := by first | exact Or.inl (by with_reducible rfl) | exact Or.inr (FieldsIn.bit (by assumption) (by decide)))
    (h2 : x.units = s.tl.units ∨ m.testBit 49 = true := by first | exact Or.inl (by with_reducible rfl) | exact Or.inr (FieldsIn.bit (by assumption) (by decide)))
    (h3 : x.pageMap = s.tl.pageMap ∨ m.testBit 50 = true := by first | exact Or.inl (by with_reducible rfl) | exact Or.inr (FieldsIn.bit (by assumption) (by decide)))
    (h4 : x.frames = s.tl.frames ∨ m.testBit 51 = true := by first | exact Or.inl (by with_reducible rfl) | exact Or.inr (FieldsIn.bit (by assumption) (by decide)))
    (h5 : x.turns = s.tl.turns ∨ m.testBit 52 = true := by first | exact Or.inl (by with_reducible rfl) | exact Or.inr (FieldsIn.bit (by assumption) (by decide)))
    (h6 : x.loads = s.tl.loads ∨ m.testBit 53 = true := by first | exact Or.inl (by with_reducible rfl) | exact Or.inr (FieldsIn.bit (by assumption) (by decide))) :
    Leaves m a { s with tl := x } :=
  { h with tl_queues := kept_of h0 h.tl_queues, tl_slots := kept_of h1 h.tl_slots, tl_units := kept_of h2 h.tl_units, tl_pageMap := kept_of h3 h.tl_pageMap, tl_frames := kept_of h4 h.tl_frames, tl_turns := kept_of h5 h.tl_turns, tl_loads := kept_of h6 h.tl_loads }
theorem upd_ci_frame {m : Nat} {a s : State} {x : Cistern} (h : Leaves m a s)
    (h0 : x.slots = s.ci.slots ∨ m.testBit 54 = true := by first | exact Or.inl (by with_reducible rfl) | exact Or.inr (FieldsIn.bit (by assumption) (by decide)))
    (h1 : x.pages = s.ci.pages ∨ m.testBit 55 = true := by first | exact Or.inl (by with_reducible rfl) | exact Or.inr (FieldsIn.bit (by assumption) (by decide)))
    (h2 : x.tags = s.ci.tags ∨ m.testBit 56 = true := by first | exact Or.inl (by with_reducible rfl) | exact Or.inr (FieldsIn.bit (by assumption) (by decide)))
    (h3 : x.serial = s.ci.serial ∨ m.testBit 57 = true := by first | exact Or.inl (by with_reducible rfl) | exact Or.inr (FieldsIn.bit (by assumption) (by decide)))
    (h4 : x.lostPcs = s.ci.lostPcs ∨ m.testBit 58 = true := by first | exact Or.inl (by with_reducible rfl) | exact Or.inr (FieldsIn.bit (by assumption) (by decide)))
    (h5 : x.pcRetrain = s.ci.pcRetrain ∨ m.testBit 59 = true := by first | exact Or.inl (by with_reducible rfl) | exact Or.inr (FieldsIn.bit (by assumption) (by decide)))
    (h6 : x.pcWaiting = s.ci.pcWaiting ∨ m.testBit 60 = true := by first | exact Or.inl (by with_reducible rfl) | exact Or.inr (FieldsIn.bit (by assumption) (by decide)))
    (h7 : x.stale = s.ci.stale ∨ m.testBit 61 = true := by first | exact Or.inl (by with_reducible rfl) | exact Or.inr (FieldsIn.bit (by assumption) (by decide)))
    (h8 : x.migrate = s.ci.migrate ∨ m.testBit 62 = true := by first | exact Or.inl (by with_reducible rfl) | exact Or.inr (FieldsIn.bit (by assumption) (by decide)))
    (h9 : x.moving = s.ci.moving ∨ m.testBit 63 = true := by first | exact Or.inl (by with_reducible rfl) | exact Or.inr (FieldsIn.bit (by assumption) (by decide)))
    (h10 : x.rebuilding = s.ci.rebuilding ∨ m.testBit 64 = true := by first | exact Or.inl (by with_reducible rfl) | exact Or.inr (FieldsIn.bit (by assumption) (by decide)))
    (h11 : x.damaged = s.ci.damaged ∨ m.testBit 65 = true := by first | exact Or.inl (by with_reducible rfl) | exact Or.inr (FieldsIn.bit (by assumption) (by decide))) :
    Leaves m a { s with ci := x } :=
  { h with ci_slots := kept_of h0 h.ci_slots, ci_pages := kept_of h1 h.ci_pages, ci_tags := kept_of h2 h.ci_tags, ci_serial := kept_of h3 h.ci_serial, ci_lostPcs := kept_of h4 h.ci_lostPcs, ci_pcRetrain := kept_of h5 h.ci_pcRetrain, ci_pcWaiting := kept_of h6 h.ci_pcWaiting, ci_stale := kept_of h7 h.ci_stale, ci_migrate := kept_of h8 h.ci_migrate, ci_moving := kept_of h9 h.ci_moving, ci_rebuilding := kept_of h10 h.ci_rebuilding, ci_damaged := kept_of h11 h.ci_damaged }
theorem upd_pt_frame {m : Nat} {a s : State} {x : Parts} (h : Leaves m a s)
    (h0 : x.parts = s.pt.parts ∨ m.testBit 66 = true := by first | exact Or.inl (by with_reducible rfl) | exact Or.inr (FieldsIn.bit (by assumption) (by decide)))
    (h1 : x.accts = s.pt.accts ∨ m.testBit 67 = true := by first | exact Or.inl (by with_reducible rfl) | exact Or.inr (FieldsIn.bit (by assumption) (by decide)))
    (h2 : x.acctLatch = s.pt.acctLatch ∨ m.testBit 68 = true := by first | exact Or.inl (by with_reducible rfl) | exact Or.inr (FieldsIn.bit (by assumption) (by decide)))
    (h3 : x.perturbed = s.pt.perturbed ∨ m.testBit 69 = true := by first | exact Or.inl (by with_reducible rfl) | exact Or.inr (FieldsIn.bit (by assumption) (by decide))) :
    Leaves m a { s with pt := x } :=
  { h with pt_parts := kept_of h0 h.pt_parts, pt_accts := kept_of h1 h.pt_accts, pt_acctLatch := kept_of h2 h.pt_acctLatch, pt_perturbed := kept_of h3 h.pt_perturbed }
theorem upd_sy_frame {m : Nat} {a s : State} {x : SyncStore} (h : Leaves m a s)
    (h0 : x.counts = s.sy.counts ∨ m.testBit 70 = true := by first | exact Or.inl (by with_reducible rfl) | exact Or.inr (FieldsIn.bit (by assumption) (by decide)))
    (h1 : x.banks = s.sy.banks ∨ m.testBit 71 = true := by first | exact Or.inl (by with_reducible rfl) | exact Or.inr (FieldsIn.bit (by assumption) (by decide)))
    (h2 : x.held = s.sy.held ∨ m.testBit 72 = true := by first | exact Or.inl (by with_reducible rfl) | exact Or.inr (FieldsIn.bit (by assumption) (by decide)))
    (h3 : x.notices = s.sy.notices ∨ m.testBit 73 = true := by first | exact Or.inl (by with_reducible rfl) | exact Or.inr (FieldsIn.bit (by assumption) (by decide)))
    (h4 : x.parked = s.sy.parked ∨ m.testBit 74 = true := by first | exact Or.inl (by with_reducible rfl) | exact Or.inr (FieldsIn.bit (by assumption) (by decide)))
    (h5 : x.fill = s.sy.fill ∨ m.testBit 75 = true := by first | exact Or.inl (by with_reducible rfl) | exact Or.inr (FieldsIn.bit (by assumption) (by decide)))
    (h6 : x.hostArmed = s.sy.hostArmed ∨ m.testBit 76 = true := by first | exact Or.inl (by with_reducible rfl) | exact Or.inr (FieldsIn.bit (by assumption) (by decide))) :
    Leaves m a { s with sy := x } :=
  { h with sy_counts := kept_of h0 h.sy_counts, sy_banks := kept_of h1 h.sy_banks, sy_held := kept_of h2 h.sy_held, sy_notices := kept_of h3 h.sy_notices, sy_parked := kept_of h4 h.sy_parked, sy_fill := kept_of h5 h.sy_fill, sy_hostArmed := kept_of h6 h.sy_hostArmed }
theorem upd_st_frame {m : Nat} {a s : State} {x : Streams} (h : Leaves m a s)
    (h0 : x.seqs = s.st.seqs ∨ m.testBit 77 = true := by first | exact Or.inl (by with_reducible rfl) | exact Or.inr (FieldsIn.bit (by assumption) (by decide)))
    (h1 : x.watched = s.st.watched ∨ m.testBit 78 = true := by first | exact Or.inl (by with_reducible rfl) | exact Or.inr (FieldsIn.bit (by assumption) (by decide)))
    (h2 : x.overlays = s.st.overlays ∨ m.testBit 79 = true := by first | exact Or.inl (by with_reducible rfl) | exact Or.inr (FieldsIn.bit (by assumption) (by decide)))
    (h3 : x.audio = s.st.audio ∨ m.testBit 80 = true := by first | exact Or.inl (by with_reducible rfl) | exact Or.inr (FieldsIn.bit (by assumption) (by decide)))
    (h4 : x.fallback = s.st.fallback ∨ m.testBit 81 = true := by first | exact Or.inl (by with_reducible rfl) | exact Or.inr (FieldsIn.bit (by assumption) (by decide)))
    (h5 : x.served = s.st.served ∨ m.testBit 82 = true := by first | exact Or.inl (by with_reducible rfl) | exact Or.inr (FieldsIn.bit (by assumption) (by decide))) :
    Leaves m a { s with st := x } :=
  { h with st_seqs := kept_of h0 h.st_seqs, st_watched := kept_of h1 h.st_watched, st_overlays := kept_of h2 h.st_overlays, st_audio := kept_of h3 h.st_audio, st_fallback := kept_of h4 h.st_fallback, st_served := kept_of h5 h.st_served }
theorem upd_io_frame {m : Nat} {a s : State} {x : Ports} (h : Leaves m a s)
    (h0 : x.raster = s.io.raster ∨ m.testBit 83 = true := by first | exact Or.inl (by with_reducible rfl) | exact Or.inr (FieldsIn.bit (by assumption) (by decide)))
    (h1 : x.rings = s.io.rings ∨ m.testBit 84 = true := by first | exact Or.inl (by with_reducible rfl) | exact Or.inr (FieldsIn.bit (by assumption) (by decide)))
    (h2 : x.pcie = s.io.pcie ∨ m.testBit 85 = true := by first | exact Or.inl (by with_reducible rfl) | exact Or.inr (FieldsIn.bit (by assumption) (by decide)))
    (h3 : x.paths = s.io.paths ∨ m.testBit 86 = true := by first | exact Or.inl (by with_reducible rfl) | exact Or.inr (FieldsIn.bit (by assumption) (by decide)))
    (h4 : x.msixTable = s.io.msixTable ∨ m.testBit 87 = true := by first | exact Or.inl (by with_reducible rfl) | exact Or.inr (FieldsIn.bit (by assumption) (by decide)))
    (h5 : x.can = s.io.can ∨ m.testBit 88 = true := by first | exact Or.inl (by with_reducible rfl) | exact Or.inr (FieldsIn.bit (by assumption) (by decide)))
    (h6 : x.lands = s.io.lands ∨ m.testBit 89 = true := by first | exact Or.inl (by with_reducible rfl) | exact Or.inr (FieldsIn.bit (by assumption) (by decide))) :
    Leaves m a { s with io := x } :=
  { h with io_raster := kept_of h0 h.io_raster, io_rings := kept_of h1 h.io_rings, io_pcie := kept_of h2 h.io_pcie, io_paths := kept_of h3 h.io_paths, io_msixTable := kept_of h4 h.io_msixTable, io_can := kept_of h5 h.io_can, io_lands := kept_of h6 h.io_lands }
theorem upd_alm_frame {m : Nat} {a s : State} {x : Almanac} (h : Leaves m a s)
    (h0 : x.slots = s.alm.slots ∨ m.testBit 90 = true := by first | exact Or.inl (by with_reducible rfl) | exact Or.inr (FieldsIn.bit (by assumption) (by decide)))
    (h1 : x.used = s.alm.used ∨ m.testBit 91 = true := by first | exact Or.inl (by with_reducible rfl) | exact Or.inr (FieldsIn.bit (by assumption) (by decide)))
    (h2 : x.queue = s.alm.queue ∨ m.testBit 92 = true := by first | exact Or.inl (by with_reducible rfl) | exact Or.inr (FieldsIn.bit (by assumption) (by decide)))
    (h3 : x.discarded = s.alm.discarded ∨ m.testBit 93 = true := by first | exact Or.inl (by with_reducible rfl) | exact Or.inr (FieldsIn.bit (by assumption) (by decide)))
    (h4 : x.lastCirc = s.alm.lastCirc ∨ m.testBit 94 = true := by first | exact Or.inl (by with_reducible rfl) | exact Or.inr (FieldsIn.bit (by assumption) (by decide)))
    (h5 : x.frozen = s.alm.frozen ∨ m.testBit 95 = true := by first | exact Or.inl (by with_reducible rfl) | exact Or.inr (FieldsIn.bit (by assumption) (by decide)))
    (h6 : x.snapshot = s.alm.snapshot ∨ m.testBit 96 = true := by first | exact Or.inl (by with_reducible rfl) | exact Or.inr (FieldsIn.bit (by assumption) (by decide)))
    (h7 : x.pending = s.alm.pending ∨ m.testBit 97 = true := by first | exact Or.inl (by with_reducible rfl) | exact Or.inr (FieldsIn.bit (by assumption) (by decide)))
    (h8 : x.region = s.alm.region ∨ m.testBit 98 = true := by first | exact Or.inl (by with_reducible rfl) | exact Or.inr (FieldsIn.bit (by assumption) (by decide)))
    (h9 : x.erasing = s.alm.erasing ∨ m.testBit 99 = true := by first | exact Or.inl (by with_reducible rfl) | exact Or.inr (FieldsIn.bit (by assumption) (by decide)))
    (h10 : x.mirrorFailed = s.alm.mirrorFailed ∨ m.testBit 100 = true := by first | exact Or.inl (by with_reducible rfl) | exact Or.inr (FieldsIn.bit (by assumption) (by decide))) :
    Leaves m a { s with alm := x } :=
  { h with alm_slots := kept_of h0 h.alm_slots, alm_used := kept_of h1 h.alm_used, alm_queue := kept_of h2 h.alm_queue, alm_discarded := kept_of h3 h.alm_discarded, alm_lastCirc := kept_of h4 h.alm_lastCirc, alm_frozen := kept_of h5 h.alm_frozen, alm_snapshot := kept_of h6 h.alm_snapshot, alm_pending := kept_of h7 h.alm_pending, alm_region := kept_of h8 h.alm_region, alm_erasing := kept_of h9 h.alm_erasing, alm_mirrorFailed := kept_of h10 h.alm_mirrorFailed }
theorem upd_now_frame {m : Nat} {a s : State} {x : Now} (h : Leaves m a s)
    (h0 : x.numfmt = s.now.numfmt ∨ m.testBit 101 = true := by first | exact Or.inl (by with_reducible rfl) | exact Or.inr (FieldsIn.bit (by assumption) (by decide)))
    (h1 : x.perf = s.now.perf ∨ m.testBit 102 = true := by first | exact Or.inl (by with_reducible rfl) | exact Or.inr (FieldsIn.bit (by assumption) (by decide)))
    (h2 : x.perfNew = s.now.perfNew ∨ m.testBit 103 = true := by first | exact Or.inl (by with_reducible rfl) | exact Or.inr (FieldsIn.bit (by assumption) (by decide)))
    (h3 : x.charged = s.now.charged ∨ m.testBit 104 = true := by first | exact Or.inl (by with_reducible rfl) | exact Or.inr (FieldsIn.bit (by assumption) (by decide)))
    (h4 : x.stamped = s.now.stamped ∨ m.testBit 105 = true := by first | exact Or.inl (by with_reducible rfl) | exact Or.inr (FieldsIn.bit (by assumption) (by decide)))
    (h5 : x.published = s.now.published ∨ m.testBit 106 = true := by first | exact Or.inl (by with_reducible rfl) | exact Or.inr (FieldsIn.bit (by assumption) (by decide)))
    (h6 : x.landed = s.now.landed ∨ m.testBit 107 = true := by first | exact Or.inl (by with_reducible rfl) | exact Or.inr (FieldsIn.bit (by assumption) (by decide)))
    (h7 : x.flipped = s.now.flipped ∨ m.testBit 108 = true := by first | exact Or.inl (by with_reducible rfl) | exact Or.inr (FieldsIn.bit (by assumption) (by decide)))
    (h8 : x.serial = s.now.serial ∨ m.testBit 109 = true := by first | exact Or.inl (by with_reducible rfl) | exact Or.inr (FieldsIn.bit (by assumption) (by decide)))
    (h9 : x.steps = s.now.steps ∨ m.testBit 110 = true := by first | exact Or.inl (by with_reducible rfl) | exact Or.inr (FieldsIn.bit (by assumption) (by decide)))
    (h10 : x.switched = s.now.switched ∨ m.testBit 111 = true := by first | exact Or.inl (by with_reducible rfl) | exact Or.inr (FieldsIn.bit (by assumption) (by decide)))
    (h11 : x.sets = s.now.sets ∨ m.testBit 112 = true := by first | exact Or.inl (by with_reducible rfl) | exact Or.inr (FieldsIn.bit (by assumption) (by decide)))
    (h12 : x.won = s.now.won ∨ m.testBit 113 = true := by first | exact Or.inl (by with_reducible rfl) | exact Or.inr (FieldsIn.bit (by assumption) (by decide)))
    (h13 : x.admitted = s.now.admitted ∨ m.testBit 114 = true := by first | exact Or.inl (by with_reducible rfl) | exact Or.inr (FieldsIn.bit (by assumption) (by decide)))
    (h14 : x.arrived = s.now.arrived ∨ m.testBit 115 = true := by first | exact Or.inl (by with_reducible rfl) | exact Or.inr (FieldsIn.bit (by assumption) (by decide)))
    (h15 : x.holds = s.now.holds ∨ m.testBit 116 = true := by first | exact Or.inl (by with_reducible rfl) | exact Or.inr (FieldsIn.bit (by assumption) (by decide)))
    (h16 : x.mute = s.now.mute ∨ m.testBit 117 = true := by first | exact Or.inl (by with_reducible rfl) | exact Or.inr (FieldsIn.bit (by assumption) (by decide)))
    (h17 : x.pps = s.now.pps ∨ m.testBit 118 = true := by first | exact Or.inl (by with_reducible rfl) | exact Or.inr (FieldsIn.bit (by assumption) (by decide)))
    (h18 : x.captures = s.now.captures ∨ m.testBit 119 = true := by first | exact Or.inl (by with_reducible rfl) | exact Or.inr (FieldsIn.bit (by assumption) (by decide))) :
    Leaves m a { s with now := x } :=
  { h with now_numfmt := kept_of h0 h.now_numfmt, now_perf := kept_of h1 h.now_perf, now_perfNew := kept_of h2 h.now_perfNew, now_charged := kept_of h3 h.now_charged, now_stamped := kept_of h4 h.now_stamped, now_published := kept_of h5 h.now_published, now_landed := kept_of h6 h.now_landed, now_flipped := kept_of h7 h.now_flipped, now_serial := kept_of h8 h.now_serial, now_steps := kept_of h9 h.now_steps, now_switched := kept_of h10 h.now_switched, now_sets := kept_of h11 h.now_sets, now_won := kept_of h12 h.now_won, now_admitted := kept_of h13 h.now_admitted, now_arrived := kept_of h14 h.now_arrived, now_holds := kept_of h15 h.now_holds, now_mute := kept_of h16 h.now_mute, now_pps := kept_of h17 h.now_pps, now_captures := kept_of h18 h.now_captures }

theorem ite_out_frame {m : Nat} {a : State} {c : Prop} [Decidable c] {x y : Out} (hx : LeavesOut m a x) (hy : LeavesOut m a y) : LeavesOut m a (if c then x else y) := by
  split <;> assumption
theorem fst_frame {m : Nat} {a : State} {β : Type} {s : State} {b : β} (h : Leaves m a s) : Leaves m a (s, b).1 := h
theorem snd_frame {m : Nat} {a : State} {β : Type} {s : State} {b : β} (h : Leaves m a s) : Leaves m a (b, s).2 := h

/-! ### The operations -/

theorem setSlot_frame {m a a0 a1 a2 a3 a4} (g0 : Leaves m a a4) (hm : FieldsIn 0x1000000000000 m := by first | assumption | exact FieldsIn.of (by assumption) (by decide) | exact FieldsIn.refl _) : Leaves m a (setSlot a0 a1 a2 a3 a4) := by
  unfold setSlot
  try dsimp only
  exact (upd_tl_frame g0)

theorem updSlot_frame {m a a0 a1 a2 a3 a4} (g0 : Leaves m a a4) (hm : FieldsIn 0x1000000000000 m := by first | assumption | exact FieldsIn.of (by assumption) (by decide) | exact FieldsIn.refl _) : Leaves m a (updSlot a0 a1 a2 a3 a4) := by
  unfold updSlot
  try dsimp only
  exact (setSlot_frame g0)

theorem setFrame_frame {m a a0 a1 a2} (g0 : Leaves m a a2) (hm : FieldsIn 0x8000000000000 m := by first | assumption | exact FieldsIn.of (by assumption) (by decide) | exact FieldsIn.refl _) : Leaves m a (setFrame a0 a1 a2) := by
  unfold setFrame
  try dsimp only
  exact (upd_tl_frame g0)

theorem freeFrameAt_frame {m a a0 a1} (g0 : Leaves m a a1) (hm : FieldsIn 0x8000000000000 m := by first | assumption | exact FieldsIn.of (by assumption) (by decide) | exact FieldsIn.refl _) : Leaves m a (freeFrameAt a0 a1) := by
  unfold freeFrameAt
  try dsimp only
  exact (setFrame_frame g0)

theorem dropObjs_frame {m a a0 a1} (g0 : Leaves m a a1) (hm : FieldsIn 0x4 m := by first | assumption | exact FieldsIn.of (by assumption) (by decide) | exact FieldsIn.refl _) : Leaves m a (dropObjs a0 a1) := by
  unfold dropObjs
  try dsimp only
  exact (upd_objs_frame g0)

theorem setQueue_frame {m a a0 a1 a2 a3} (g0 : Leaves m a a3) (hm : FieldsIn 0x800000000000 m := by first | assumption | exact FieldsIn.of (by assumption) (by decide) | exact FieldsIn.refl _) : Leaves m a (setQueue a0 a1 a2 a3) := by
  unfold setQueue
  try dsimp only
  exact (upd_tl_frame g0)

theorem setObj_frame {m a a0 a1 a2} (g0 : Leaves m a a2) (hm : FieldsIn 0x4 m := by first | assumption | exact FieldsIn.of (by assumption) (by decide) | exact FieldsIn.refl _) : Leaves m a (setObj a0 a1 a2) := by
  unfold setObj
  try dsimp only
  exact (upd_objs_frame g0)

theorem perfLoad_frame {m a a0 a1 a2} (g0 : Leaves m a a2) (hm : FieldsIn 0x4 m := by first | assumption | exact FieldsIn.of (by assumption) (by decide) | exact FieldsIn.refl _) : Leaves m a (perfLoad a0 a1 a2) := by
  unfold perfLoad
  try dsimp only
  exact (setObj_frame g0)

theorem basicWrite_frame {m a a0 a1} (g0 : Leaves m a a1) (hm : FieldsIn 0x4 m := by first | assumption | exact FieldsIn.of (by assumption) (by decide) | exact FieldsIn.refl _) : Leaves m a (basicWrite a0 a1) := by
  unfold basicWrite
  try dsimp only
  exact (dropObjs_frame g0)

theorem addObj_frame {m a a0 a1 a2} (g0 : Leaves m a a2) (hm : FieldsIn 0x4 m := by first | assumption | exact FieldsIn.of (by assumption) (by decide) | exact FieldsIn.refl _) : Leaves m a (addObj a0 a1 a2) := by
  unfold addObj
  try dsimp only
  exact (setObj_frame g0)

theorem enterCapture_frame {m a a0 a1} (g0 : Leaves m a a1) (hm : FieldsIn 0x800000100000000000000000000000 m := by first | assumption | exact FieldsIn.of (by assumption) (by decide) | exact FieldsIn.refl _) : Leaves m a (enterCapture a0 a1) := by
  have h1 : ∀ {s x y}, Leaves m a s → Leaves m a { s with alm := { s.alm with queue := x }, now := { s.now with captures := y } } :=
    fun {s x _} h => upd_now_frame (s := { s with alm := { s.alm with queue := x } }) (upd_alm_frame h)
  unfold enterCapture
  exact h1 g0

theorem capture_frame {m a a0 a1 a2 a3 a4 a5 a6} (g0 : Leaves m a a6) (hm : FieldsIn 0x800000300000000000000004000004 m := by first | assumption | exact FieldsIn.of (by assumption) (by decide) | exact FieldsIn.refl _) : Leaves m a (capture a0 a1 a2 a3 a4 a5 a6) := by
  have h1 : ∀ {s x y}, Leaves m a s → Leaves m a { s with alm := { s.alm with discarded := x }, fw := { s.fw with weirRestart := y } } :=
    fun {s x _} h => upd_fw_frame (s := { s with alm := { s.alm with discarded := x } }) (upd_alm_frame h)
  unfold capture
  exact ite_frame (enterCapture_frame g0) (h1 (addObj_frame g0))

theorem refuse_frame {m a a0 a1 a2 a3 a4} (g0 : Leaves m a a4) (hm : FieldsIn 0x800000300000000000000004000004 m := by first | assumption | exact FieldsIn.of (by assumption) (by decide) | exact FieldsIn.refl _) : Leaves m a (refuse a0 a1 a2 a3 a4) := by
  unfold refuse
  try dsimp only
  exact (capture_frame (setObj_frame g0))

theorem expertWrite_frame {m a a0 a1} (g0 : Leaves m a a1) (hm : FieldsIn 0x4 m := by first | assumption | exact FieldsIn.of (by assumption) (by decide) | exact FieldsIn.refl _) : Leaves m a (expertWrite a0 a1) := by
  unfold expertWrite
  try dsimp only
  exact (setObj_frame g0)

theorem touch_frame {m a a0 a1} (g0 : Leaves m a a1) (hm : FieldsIn 0x4 m := by first | assumption | exact FieldsIn.of (by assumption) (by decide) | exact FieldsIn.refl _) : Leaves m a (touch a0 a1) := by
  unfold touch
  try dsimp only
  exact (ite_frame (expertWrite_frame g0) (basicWrite_frame g0))

theorem ackWrite_frame {m a a0 a1} (g0 : Leaves m a a1.1) (hm : FieldsIn 0x4 m := by first | assumption | exact FieldsIn.of (by assumption) (by decide) | exact FieldsIn.refl _) : Leaves m a (ackWrite a0 a1).1 := by
  unfold ackWrite
  try dsimp only
  exact (ite_frame (touch_frame g0) g0)

theorem refuseEngine_frame {m a a0 a1 a2 a3 a4} (g0 : Leaves m a a4) (hm : FieldsIn 0x800000300000000000000004000004 m := by first | assumption | exact FieldsIn.of (by assumption) (by decide) | exact FieldsIn.refl _) : Leaves m a (refuseEngine a0 a1 a2 a3 a4) := by
  unfold refuseEngine
  try dsimp only
  exact (capture_frame (setObj_frame g0))

theorem useFree_frame {m a a0} (g0 : Leaves m a a0) (hm : FieldsIn 0x2 m := by first | assumption | exact FieldsIn.of (by assumption) (by decide) | exact FieldsIn.refl _) : Leaves m a (useFree a0) := by
  unfold useFree
  try dsimp only
  exact (upd_free_frame g0)

theorem setParked_frame {m a a0 a1 a2} (g0 : Leaves m a a2) (hm : FieldsIn 0x4000000000000000000 m := by first | assumption | exact FieldsIn.of (by assumption) (by decide) | exact FieldsIn.refl _) : Leaves m a (setParked a0 a1 a2) := by
  unfold setParked
  try dsimp only
  exact (upd_sy_frame g0)

theorem whenLive_frame {m a a0 a1} (g0 : Leaves m a a0) (g1 : ∀ y0, Leaves m a y0 → Leaves m a (a1 y0)) : LeavesOut m a (whenLive a0 a1) := by
  unfold whenLive
  try dsimp only
  exact (next_frame (ite_frame (g1 _ g0) g0))

theorem whenFree_frame {m a a0 a1 a2 a3} (g0 : Leaves m a a2) (g1 : ∀ y0, Leaves m a y0 → Leaves m a (a3 y0)) (hm : FieldsIn 0x4000000000000000000 m := by first | assumption | exact FieldsIn.of (by assumption) (by decide) | exact FieldsIn.refl _) : LeavesOut m a (whenFree a0 a1 a2 a3) := by
  unfold whenFree
  try dsimp only
  exact (whenLive_frame g0 (fun _ h0 => (ite_frame h0 (ite_frame (g1 _ h0) (setParked_frame h0)))))

theorem refuseQuiet_frame {m a a0 a1 a2} (g0 : Leaves m a a2) (hm : FieldsIn 0x4 m := by first | assumption | exact FieldsIn.of (by assumption) (by decide) | exact FieldsIn.refl _) : Leaves m a (refuseQuiet a0 a1 a2) := by
  unfold refuseQuiet
  try dsimp only
  exact (setObj_frame g0)

theorem restampCaptures_frame {m a a0} (g0 : Leaves m a a0) (hm : FieldsIn 0x100000000000000000000000 m := by first | assumption | exact FieldsIn.of (by assumption) (by decide) | exact FieldsIn.refl _) : Leaves m a (restampCaptures a0) := by
  unfold restampCaptures
  try dsimp only
  exact (upd_alm_frame g0)

theorem emit_frame {m a a0 a1} (g0 : Leaves m a a1) (hm : FieldsIn 0x1 m := by first | assumption | exact FieldsIn.of (by assumption) (by decide) | exact FieldsIn.refl _) : Leaves m a (emit a0 a1) := by
  unfold emit
  try dsimp only
  exact (upd_out_frame g0)

theorem refreshPin_frame {m a a0 a1} (g0 : Leaves m a a1) (hm : FieldsIn 0x20000000000000000000001 m := by first | assumption | exact FieldsIn.of (by assumption) (by decide) | exact FieldsIn.refl _) : Leaves m a (refreshPin a0 a1) := by
  unfold refreshPin
  try dsimp only
  exact (by (try dsimp only); first | (split; exact (upd_io_frame g0); exact (ite_frame g0 (emit_frame (upd_io_frame g0)))) | (split <;> first | exact (upd_io_frame g0) | exact (ite_frame g0 (emit_frame (upd_io_frame g0)))))

theorem settleFlips_frame {m a a0} (g0 : Leaves m a a0) (hm : FieldsIn 0x8000000000000 m := by first | assumption | exact FieldsIn.of (by assumption) (by decide) | exact FieldsIn.refl _) : Leaves m a (settleFlips a0) := by
  unfold settleFlips
  try dsimp only
  exact (foldl_frame (fun _ _ h0 => (by (try dsimp only); first | (split; exact h0; exact (ite_frame (freeFrameAt_frame h0) h0)) | (split <;> first | exact h0 | exact (ite_frame (freeFrameAt_frame h0) h0)))) g0)

theorem updateActive_frame {m a a0} (g0 : Leaves m a a0) (hm : FieldsIn 0x200000000000000004 m := by first | assumption | exact FieldsIn.of (by assumption) (by decide) | exact FieldsIn.refl _) : Leaves m a (updateActive a0) := by
  unfold updateActive
  try dsimp only
  exact (ite_frame g0 (setObj_frame (upd_pt_frame g0)))

theorem passCycle_frame {m a a0} (g0 : Leaves m a a0) (hm : FieldsIn 0xffffe0000000200008000000000004 m := by first | assumption | exact FieldsIn.of (by assumption) (by decide) | exact FieldsIn.refl _) : Leaves m a (passCycle a0) := by
  unfold passCycle
  try dsimp only
  exact (updateActive_frame (upd_now_frame (settleFlips_frame g0)))

theorem satAddObj_frame {m a a0 a1 a2} (g0 : Leaves m a a2) (hm : FieldsIn 0x4 m := by first | assumption | exact FieldsIn.of (by assumption) (by decide) | exact FieldsIn.refl _) : Leaves m a (satAddObj a0 a1 a2) := by
  unfold satAddObj
  try dsimp only
  exact (setObj_frame g0)

theorem setPcie_frame {m a a0 a1 a2} (g0 : Leaves m a a2) (hm : FieldsIn 0x2000000000000000000000 m := by first | assumption | exact FieldsIn.of (by assumption) (by decide) | exact FieldsIn.refl _) : Leaves m a (setPcie a0 a1 a2) := by
  unfold setPcie
  try dsimp only
  exact (upd_io_frame g0)

theorem notePosted_frame {m a a0 a1} (g0 : Leaves m a a1) (hm : FieldsIn 0x2000000000000000000000 m := by first | assumption | exact FieldsIn.of (by assumption) (by decide) | exact FieldsIn.refl _) : Leaves m a (notePosted a0 a1) := by
  unfold notePosted
  try dsimp only
  exact (setPcie_frame g0)

theorem sendMsix_frame {m a a0 a1 a2} (g0 : Leaves m a a2) (hm : FieldsIn 0x2000000000000000000001 m := by first | assumption | exact FieldsIn.of (by assumption) (by decide) | exact FieldsIn.refl _) : Leaves m a (sendMsix a0 a1 a2) := by
  unfold sendMsix
  try dsimp only
  exact (ite_frame (emit_frame (notePosted_frame g0)) (ite_frame g0 (setPcie_frame g0)))

theorem refreshPins_frame {m a a0} (g0 : Leaves m a a0) (hm : FieldsIn 0x20000000000000000000001 m := by first | assumption | exact FieldsIn.of (by assumption) (by decide) | exact FieldsIn.refl _) : Leaves m a (refreshPins a0) := by
  unfold refreshPins
  try dsimp only
  exact (foldl_frame (fun _ _ h0 => (refreshPin_frame h0)) g0)

theorem setCisternState_frame {m a a0 a1} (g0 : Leaves m a a1) (hm : FieldsIn 0x20000000000000000000005 m := by first | assumption | exact FieldsIn.of (by assumption) (by decide) | exact FieldsIn.refl _) : Leaves m a (setCisternState a0 a1) := by
  unfold setCisternState
  try dsimp only
  exact (refreshPins_frame (setObj_frame g0))

theorem noteFlip_frame {m a a0 a1 a2 a3} (g0 : Leaves m a a3) (hm : FieldsIn 0x1000000000000000000000000000 m := by first | assumption | exact FieldsIn.of (by assumption) (by decide) | exact FieldsIn.refl _) : Leaves m a (noteFlip a0 a1 a2 a3) := by
  unfold noteFlip
  try dsimp only
  exact (upd_now_frame g0)

theorem setRing_frame {m a a0 a1 a2} (g0 : Leaves m a a2) (hm : FieldsIn 0x1000000000000000000000 m := by first | assumption | exact FieldsIn.of (by assumption) (by decide) | exact FieldsIn.refl _) : Leaves m a (setRing a0 a1 a2) := by
  unfold setRing
  try dsimp only
  exact (upd_io_frame g0)

theorem perfAdd_frame {m a a0 a1 a2} (g0 : Leaves m a a2) (hm : FieldsIn 0x40000000000000000000000004 m := by first | assumption | exact FieldsIn.of (by assumption) (by decide) | exact FieldsIn.refl _) : Leaves m a (perfAdd a0 a1 a2) := by
  unfold perfAdd
  try dsimp only
  exact (ite_frame g0 (setObj_frame (upd_now_frame g0)))

theorem setWatched_frame {m a a0 a1 a2} (g0 : Leaves m a a2) (hm : FieldsIn 0x40000000000000000000 m := by first | assumption | exact FieldsIn.of (by assumption) (by decide) | exact FieldsIn.refl _) : Leaves m a (setWatched a0 a1 a2) := by
  unfold setWatched
  try dsimp only
  exact (upd_st_frame g0)

theorem setPort_frame {m a a0 a1 a2} (g0 : Leaves m a a2) (hm : FieldsIn 0x800000000000000000000 m := by first | assumption | exact FieldsIn.of (by assumption) (by decide) | exact FieldsIn.refl _) : Leaves m a (setPort a0 a1 a2) := by
  unfold setPort
  try dsimp only
  exact (upd_io_frame g0)

theorem retireFrame_frame {m a a0 a1} (g0 : Leaves m a a1) (hm : FieldsIn 0x8000000000000 m := by first | assumption | exact FieldsIn.of (by assumption) (by decide) | exact FieldsIn.refl _) : Leaves m a (retireFrame a0 a1) := by
  unfold retireFrame
  try dsimp only
  exact (setFrame_frame g0)

theorem setLatches_frame {m a a0 a1 a2} (g0 : Leaves m a a2) (hm : FieldsIn 0x8 m := by first | assumption | exact FieldsIn.of (by assumption) (by decide) | exact FieldsIn.refl _) : Leaves m a (setLatches a0 a1 a2) := by
  unfold setLatches
  try dsimp only
  exact (upd_latches_frame g0)

theorem answer_frame {m a a0 a1 a2} (g0 : Leaves m a a2) (hm : FieldsIn 0x9 m := by first | assumption | exact FieldsIn.of (by assumption) (by decide) | exact FieldsIn.refl _) : Leaves m a (answer a0 a1 a2) := by
  unfold answer
  try dsimp only
  exact (emit_frame (setLatches_frame g0))

theorem absentRead_frame {m a a0 a1} (g0 : Leaves m a a1) (hm : FieldsIn 0xd m := by first | assumption | exact FieldsIn.of (by assumption) (by decide) | exact FieldsIn.refl _) : Leaves m a (absentRead a0 a1) := by
  unfold absentRead
  try dsimp only
  exact (answer_frame (addObj_frame g0))

theorem setPart_frame {m a a0 a1 a2} (g0 : Leaves m a a2) (hm : FieldsIn 0x40000000000000000 m := by first | assumption | exact FieldsIn.of (by assumption) (by decide) | exact FieldsIn.refl _) : Leaves m a (setPart a0 a1 a2) := by
  unfold setPart
  try dsimp only
  exact (upd_pt_frame g0)

theorem dropPage_frame {m a a0 a1} (g0 : Leaves m a a1) (hm : FieldsIn 0x8000000000000 m := by first | assumption | exact FieldsIn.of (by assumption) (by decide) | exact FieldsIn.refl _) : Leaves m a (dropPage a0 a1) := by
  unfold dropPage
  try dsimp only
  exact (ite_frame (freeFrameAt_frame g0) (retireFrame_frame g0))

theorem setSeq_frame {m a a0 a1 a2} (g0 : Leaves m a a2) (hm : FieldsIn 0x20000000000000000000 m := by first | assumption | exact FieldsIn.of (by assumption) (by decide) | exact FieldsIn.refl _) : Leaves m a (setSeq a0 a1 a2) := by
  unfold setSeq
  try dsimp only
  exact (upd_st_frame g0)

theorem updPart_frame {m a a0 a1 a2} (g0 : Leaves m a a2) (hm : FieldsIn 0x40000000000000000 m := by first | assumption | exact FieldsIn.of (by assumption) (by decide) | exact FieldsIn.refl _) : Leaves m a (updPart a0 a1 a2) := by
  unfold updPart
  try dsimp only
  exact (setPart_frame g0)

theorem deferEvent_frame {m a a0 a1 a2} (g0 : Leaves m a a2) (hm : FieldsIn 0x80000000000040000000000000000 m := by first | assumption | exact FieldsIn.of (by assumption) (by decide) | exact FieldsIn.refl _) : Leaves m a (deferEvent a0 a1 a2) := by
  unfold deferEvent
  try dsimp only
  exact (updPart_frame (upd_now_frame g0))

theorem unpinFrame_frame {m a a0 a1} (g0 : Leaves m a a1) (hm : FieldsIn 0x8000000000000 m := by first | assumption | exact FieldsIn.of (by assumption) (by decide) | exact FieldsIn.refl _) : Leaves m a (unpinFrame a0 a1) := by
  unfold unpinFrame
  try dsimp only
  exact (ite_frame (freeFrameAt_frame g0) (setFrame_frame g0))

theorem perfCount_frame {m a a0 a1 a2 a3} (g0 : Leaves m a a3) (hm : FieldsIn 0x40000000000000000000000004 m := by first | assumption | exact FieldsIn.of (by assumption) (by decide) | exact FieldsIn.refl _) : Leaves m a (perfCount a0 a1 a2 a3) := by
  unfold perfCount
  try dsimp only
  exact (foldl_frame (fun _ _ h0 => (ite_frame (perfAdd_frame h0) h0)) g0)

theorem setPageMap_frame {m a a0 a1 a2 a3} (g0 : Leaves m a a3) (hm : FieldsIn 0x4000000000000 m := by first | assumption | exact FieldsIn.of (by assumption) (by decide) | exact FieldsIn.refl _) : Leaves m a (setPageMap a0 a1 a2 a3) := by
  unfold setPageMap
  try dsimp only
  exact (upd_tl_frame g0)

theorem setField_frame {m a a0 a1 a2 a3 a4} (g0 : Leaves m a a4) (hm : FieldsIn 0x4 m := by first | assumption | exact FieldsIn.of (by assumption) (by decide) | exact FieldsIn.refl _) : Leaves m a (setField a0 a1 a2 a3 a4) := by
  unfold setField
  try dsimp only
  exact (setObj_frame g0)

theorem setTag_frame {m a a0 a1 a2} (g0 : Leaves m a a2) (hm : FieldsIn 0x100000000000000 m := by first | assumption | exact FieldsIn.of (by assumption) (by decide) | exact FieldsIn.refl _) : Leaves m a (setTag a0 a1 a2) := by
  unfold setTag
  try dsimp only
  exact (upd_ci_frame g0)

theorem countLines_frame {m a a0 a1 a2 a3} (g0 : Leaves m a a3) (hm : FieldsIn 0x40000000000000000000000004 m := by first | assumption | exact FieldsIn.of (by assumption) (by decide) | exact FieldsIn.refl _) : Leaves m a (countLines a0 a1 a2 a3) := by
  unfold countLines
  try dsimp only
  exact (ite_frame (ite_frame g0 (perfCount_frame g0)) (perfCount_frame (ite_frame g0 (perfCount_frame g0))))

theorem readMembers_frame {m a a0 a1 a2} (g0 : Leaves m a a2) (hm : FieldsIn 0x40000000000000000000000004 m := by first | assumption | exact FieldsIn.of (by assumption) (by decide) | exact FieldsIn.refl _) : Leaves m a (readMembers a0 a1 a2) := by
  unfold readMembers
  try dsimp only
  exact (foldl_frame (fun _ _ h0 => (ite_frame h0 (countLines_frame h0))) g0)

theorem readLines_frame {m a a0 a1 a2} (g0 : Leaves m a a2) (hm : FieldsIn 0x40000000000000000000000004 m := by first | assumption | exact FieldsIn.of (by assumption) (by decide) | exact FieldsIn.refl _) : Leaves m a (readLines a0 a1 a2) := by
  unfold readLines
  try dsimp only
  exact (ite_frame (foldl_frame (fun _ _ h0 => (ite_frame (readMembers_frame h0) (countLines_frame h0))) g0) (countLines_frame g0))

theorem writeLine_frame {m a a0 a1 a2} (g0 : Leaves m a a2) (hm : FieldsIn 0x40000000002000000000000004 m := by first | assumption | exact FieldsIn.of (by assumption) (by decide) | exact FieldsIn.refl _) : Leaves m a (writeLine a0 a1 a2) := by
  unfold writeLine
  try dsimp only
  exact (ite_frame (ite_frame (upd_ci_frame (readMembers_frame g0)) (countLines_frame g0)) (countLines_frame (ite_frame (upd_ci_frame (readMembers_frame g0)) (countLines_frame g0))))

theorem writeLines_frame {m a a0 a1 a2} (g0 : Leaves m a a2) (hm : FieldsIn 0x40000000002000000000000004 m := by first | assumption | exact FieldsIn.of (by assumption) (by decide) | exact FieldsIn.refl _) : Leaves m a (writeLines a0 a1 a2) := by
  unfold writeLines
  try dsimp only
  exact (ite_frame (foldl_frame (fun _ _ h0 => (writeLine_frame h0)) g0) (countLines_frame (countLines_frame g0)))

theorem copyLines_frame {m a a0 a1 a2} (g0 : Leaves m a a2) (hm : FieldsIn 0x40000000002000000000000004 m := by first | assumption | exact FieldsIn.of (by assumption) (by decide) | exact FieldsIn.refl _) : Leaves m a (copyLines a0 a1 a2) := by
  unfold copyLines
  try dsimp only
  exact (writeLines_frame (readLines_frame g0))

theorem setC_frame {m a a0 a1 a2} (g0 : Leaves m a a2) (hm : FieldsIn 0x40000000000000 m := by first | assumption | exact FieldsIn.of (by assumption) (by decide) | exact FieldsIn.refl _) : Leaves m a (setC a0 a1 a2) := by
  unfold setC
  try dsimp only
  exact (upd_ci_frame g0)

theorem skipMove_frame {m a a0 a1 a2 a3} (g0 : Leaves m a a3) (hm : FieldsIn 0x40000000000000 m := by first | assumption | exact FieldsIn.of (by assumption) (by decide) | exact FieldsIn.refl _) : Leaves m a (skipMove a0 a1 a2 a3).2 := by
  unfold skipMove
  try dsimp only
  exact (by (try dsimp only); first | (split; exact (ite_snd_frame (snd_frame (by (try dsimp only); first | (split; exact (setC_frame g0); exact g0) | (split <;> first | exact (setC_frame g0) | exact g0))) (snd_frame g0)); exact (snd_frame g0)) | (split <;> first | exact (ite_snd_frame (snd_frame (by (try dsimp only); first | (split; exact (setC_frame g0); exact g0) | (split <;> first | exact (setC_frame g0) | exact g0))) (snd_frame g0)) | exact (snd_frame g0)))

theorem setVersions_frame {m a a0 a1 a2 a3} (g0 : Leaves m a a3) (hm : FieldsIn 0x80000000000000 m := by first | assumption | exact FieldsIn.of (by assumption) (by decide) | exact FieldsIn.refl _) : Leaves m a (setVersions a0 a1 a2 a3) := by
  unfold setVersions
  try dsimp only
  exact (upd_ci_frame g0)

theorem undoSwitch_frame {m a a0 a1 a2} (g0 : Leaves m a a2) (hm : FieldsIn 0x80000000000000c0000000000000 m := by first | assumption | exact FieldsIn.of (by assumption) (by decide) | exact FieldsIn.refl _) : Leaves m a (undoSwitch a0 a1 a2) := by
  unfold undoSwitch
  try dsimp only
  exact (by (try dsimp only); first | (split; exact (upd_now_frame (setC_frame (setC_frame (setVersions_frame g0)))); exact g0) | (split <;> first | exact (upd_now_frame (setC_frame (setC_frame (setVersions_frame g0)))) | exact g0))

theorem skipMoves_frame {m a a0 a1 a2} (g0 : Leaves m a a2) (hm : FieldsIn 0x80000000000180c0000000000000 m := by first | assumption | exact FieldsIn.of (by assumption) (by decide) | exact FieldsIn.refl _) : Leaves m a (skipMoves a0 a1 a2) := by
  unfold skipMoves
  try dsimp only
  exact (upd_ci_frame (skipMove_frame (upd_ci_frame (skipMove_frame (undoSwitch_frame g0)))))

theorem freeTag_frame {m a a0 a1} (g0 : Leaves m a a1) (hm : FieldsIn 0x100000000000000 m := by first | assumption | exact FieldsIn.of (by assumption) (by decide) | exact FieldsIn.refl _) : Leaves m a (freeTag a0 a1) := by
  unfold freeTag
  try dsimp only
  exact (upd_ci_frame g0)

theorem freeSlotAt_frame {m a a0 a1} (g0 : Leaves m a a1) (hm : FieldsIn 0xc0000000000000 m := by first | assumption | exact FieldsIn.of (by assumption) (by decide) | exact FieldsIn.refl _) : Leaves m a (freeSlotAt a0 a1) := by
  unfold freeSlotAt
  try dsimp only
  exact (setC_frame (setVersions_frame g0))

theorem retireSlot_frame {m a a0 a1 a2 a3} (g0 : Leaves m a a3) (hm : FieldsIn 0x40000000000000 m := by first | assumption | exact FieldsIn.of (by assumption) (by decide) | exact FieldsIn.refl _) : Leaves m a (retireSlot a0 a1 a2 a3) := by
  unfold retireSlot
  try dsimp only
  exact (ite_frame (setC_frame g0) g0)

theorem settleEntry_frame {m a a0 a1 a2} (g0 : Leaves m a a2) (hm : FieldsIn 0xc0000000000000 m := by first | assumption | exact FieldsIn.of (by assumption) (by decide) | exact FieldsIn.refl _) : Leaves m a (settleEntry a0 a1 a2) := by
  unfold settleEntry
  try dsimp only
  exact (by (try dsimp only); first | (split; exact g0; exact (freeSlotAt_frame g0); exact (by (try dsimp only); first | (split; exact (retireSlot_frame (setC_frame g0)); exact (setC_frame g0)) | (split <;> first | exact (retireSlot_frame (setC_frame g0)) | exact (setC_frame g0)))) | (split <;> first | exact g0 | exact (freeSlotAt_frame g0) | exact (by (try dsimp only); first | (split; exact (retireSlot_frame (setC_frame g0)); exact (setC_frame g0)) | (split <;> first | exact (retireSlot_frame (setC_frame g0)) | exact (setC_frame g0)))))

theorem settlePage_frame {m a a0 a1 a2} (g0 : Leaves m a a2) (hm : FieldsIn 0x1c0000000000000 m := by first | assumption | exact FieldsIn.of (by assumption) (by decide) | exact FieldsIn.refl _) : Leaves m a (settlePage a0 a1 a2) := by
  unfold settlePage
  try dsimp only
  exact (foldl_frame (fun _ _ h0 => (by (try dsimp only); first | (split; exact (ite_frame (ite_frame (freeTag_frame (foldl_frame (fun _ _ h1 => (settleEntry_frame h1)) h0)) (setTag_frame (foldl_frame (fun _ _ h1 => (settleEntry_frame h1)) h0))) h0); exact h0) | (split <;> first | exact (ite_frame (ite_frame (freeTag_frame (foldl_frame (fun _ _ h1 => (settleEntry_frame h1)) h0)) (setTag_frame (foldl_frame (fun _ _ h1 => (settleEntry_frame h1)) h0))) h0) | exact h0))) g0)

theorem pushVersion_frame {m a a0 a1 a2 a3 a4} (g0 : Leaves m a a4) (hm : FieldsIn 0x80000000000000 m := by first | assumption | exact FieldsIn.of (by assumption) (by decide) | exact FieldsIn.refl _) : Leaves m a (pushVersion a0 a1 a2 a3 a4) := by
  unfold pushVersion
  try dsimp only
  exact (setVersions_frame g0)

theorem commitTag_frame {m a a0 a1 a2} (g0 : Leaves m a a2) (hm : FieldsIn 0x20380000000000000 m := by first | assumption | exact FieldsIn.of (by assumption) (by decide) | exact FieldsIn.refl _) : Leaves m a (commitTag a0 a1 a2) := by
  unfold commitTag
  split
  · exact g0
  · refine upd_ci_frame (setTag_frame (foldl_frame (fun s e h => ?_) g0))
    exact ite_frame (upd_ci_frame (pushVersion_frame h)) (pushVersion_frame h)

theorem shadowFill_frame {m a a0 a1 a2} (g0 : Leaves m a a0) (hm : FieldsIn 0x2 m := by first | assumption | exact FieldsIn.of (by assumption) (by decide) | exact FieldsIn.refl _) : Leaves m a (shadowFill a0 a1 a2).2 := by
  unfold shadowFill
  try dsimp only
  exact (by (try dsimp only); first | (split; exact (snd_frame g0); exact (snd_frame (useFree_frame g0))) | (split <;> first | exact (snd_frame g0) | exact (snd_frame (useFree_frame g0))))

theorem unmapRange_frame {m a a0 a1 a2 a3 a4} (g0 : Leaves m a a4) (hm : FieldsIn 0x203c0000000000000 m := by first | assumption | exact FieldsIn.of (by assumption) (by decide) | exact FieldsIn.refl _) : Leaves m a (unmapRange a0 a1 a2 a3 a4) := by
  unfold unmapRange
  try dsimp only
  exact (upd_ci_frame (foldl_frame (fun _ _ h0 => (by (try dsimp only); first | (split; exact (upd_ci_frame (retireSlot_frame (pushVersion_frame (settlePage_frame h0)))); exact (settlePage_frame h0)) | (split <;> first | exact (upd_ci_frame (retireSlot_frame (pushVersion_frame (settlePage_frame h0)))) | exact (settlePage_frame h0)))) g0))

theorem ensureShadow_frame {m a a0 a1 a2 a3} (g0 : Leaves m a a3) (hm : FieldsIn 0x80000000000181c0000000000002 m := by first | assumption | exact FieldsIn.of (by assumption) (by decide) | exact FieldsIn.refl _) : ∀ r, ensureShadow a0 a1 a2 a3 = some r → Leaves m a r.2 := by
  intro r hr
  unfold ensureShadow at hr
  split at hr
  · simp at hr
  · split at hr
    · cases hr; exact g0
    · simp only at hr
      split at hr
      · simp at hr
      · split at hr
        · simp at hr
        · cases hr
          rename_i tag _ _ _ _ _ _ _
          have h1 := skipMoves_frame (a0 := tag.part) (a1 := a2) (settlePage_frame (a0 := tag.part) (a1 := a2) g0)
          exact setTag_frame (setC_frame (shadowFill_frame h1))

theorem setStackState_frame {m a a0 a1 a2} (g0 : Leaves m a a2) (hm : FieldsIn 0x4 m := by first | assumption | exact FieldsIn.of (by assumption) (by decide) | exact FieldsIn.refl _) : Leaves m a (setStackState a0 a1 a2) := by
  unfold setStackState
  try dsimp only
  exact (setField_frame g0)

theorem writeShadowSlot_frame {m a a0 a1 a2 a3} (g0 : Leaves m a a3) (hm : FieldsIn 0x40000000000000 m := by first | assumption | exact FieldsIn.of (by assumption) (by decide) | exact FieldsIn.refl _) : Leaves m a (writeShadowSlot a0 a1 a2 a3) := by
  unfold writeShadowSlot
  try dsimp only
  exact (setC_frame g0)

theorem killTag_frame {m a a0 a1} (g0 : Leaves m a a1) (hm : FieldsIn 0x100000000000000 m := by first | assumption | exact FieldsIn.of (by assumption) (by decide) | exact FieldsIn.refl _) : Leaves m a (killTag a0 a1) := by
  unfold killTag
  try dsimp only
  exact (by (try dsimp only); first | (split; exact g0; exact (setTag_frame g0)) | (split <;> first | exact g0 | exact (setTag_frame g0)))

theorem settleTag_frame {m a a0 a1} (g0 : Leaves m a a1) (hm : FieldsIn 0x1c0000000000000 m := by first | assumption | exact FieldsIn.of (by assumption) (by decide) | exact FieldsIn.refl _) : Leaves m a (settleTag a0 a1) := by
  unfold settleTag
  try dsimp only
  exact (by (try dsimp only); first | (split; exact g0; exact (ite_frame g0 (freeTag_frame (foldl_frame (fun _ _ h0 => (settleEntry_frame h0)) g0)))) | (split <;> first | exact g0 | exact (ite_frame g0 (freeTag_frame (foldl_frame (fun _ _ h0 => (settleEntry_frame h0)) g0)))))

theorem crossLinks_frame {m a a0 a1 a2 a3} (g0 : Leaves m a a3) (hm : FieldsIn 0x40000000000000000000000004 m := by first | assumption | exact FieldsIn.of (by assumption) (by decide) | exact FieldsIn.refl _) : Leaves m a (crossLinks a0 a1 a2 a3) := by
  unfold crossLinks
  try dsimp only
  exact (foldl_frame (fun _ _ h0 => (perfCount_frame h0)) g0)

theorem setLinkState_frame {m a a0 a1 a2} (g0 : Leaves m a a2) (hm : FieldsIn 0x4 m := by first | assumption | exact FieldsIn.of (by assumption) (by decide) | exact FieldsIn.refl _) : Leaves m a (setLinkState a0 a1 a2) := by
  unfold setLinkState
  try dsimp only
  exact (setField_frame g0)

theorem haltTile_frame {m a a0 a1 a2} (g0 : Leaves m a a2) (hm : FieldsIn 0x40000000000000004 m := by first | assumption | exact FieldsIn.of (by assumption) (by decide) | exact FieldsIn.refl _) : Leaves m a (haltTile a0 a1 a2) := by
  unfold haltTile
  try dsimp only
  exact (ite_frame g0 (setObj_frame (updPart_frame g0)))

theorem writeFrame_frame {m a a0 a1 a2 a3} (g0 : Leaves m a a3) (hm : FieldsIn 0x8000000000000 m := by first | assumption | exact FieldsIn.of (by assumption) (by decide) | exact FieldsIn.refl _) : Leaves m a (writeFrame a0 a1 a2 a3) := by
  unfold writeFrame
  try dsimp only
  exact (setFrame_frame g0)

theorem setWeightLoad_frame {m a a0 a1 a2} (g0 : Leaves m a a2) (hm : FieldsIn 0x20000000000000 m := by first | assumption | exact FieldsIn.of (by assumption) (by decide) | exact FieldsIn.refl _) : Leaves m a (setWeightLoad a0 a1 a2) := by
  unfold setWeightLoad
  try dsimp only
  exact (upd_tl_frame g0)

theorem dropLoad_frame {m a a0 a1 a2 a3} (g0 : Leaves m a a3) (hm : FieldsIn 0x20000000000000 m := by first | assumption | exact FieldsIn.of (by assumption) (by decide) | exact FieldsIn.refl _) : Leaves m a (dropLoad a0 a1 a2 a3) := by
  unfold dropLoad
  try dsimp only
  exact (ite_frame (setWeightLoad_frame g0) g0)

theorem dropWaiting_frame {m a a0 a1 a2 a3} (g0 : Leaves m a a3) (hm : FieldsIn 0x20800000000000 m := by first | assumption | exact FieldsIn.of (by assumption) (by decide) | exact FieldsIn.refl _) : Leaves m a (dropWaiting a0 a1 a2 a3) := by
  unfold dropWaiting
  try dsimp only
  exact (dropLoad_frame (ite_frame (setQueue_frame g0) g0))

theorem setNotices_frame {m a a0 a1 a2} (g0 : Leaves m a a2) (hm : FieldsIn 0x2000000000000000000 m := by first | assumption | exact FieldsIn.of (by assumption) (by decide) | exact FieldsIn.refl _) : Leaves m a (setNotices a0 a1 a2) := by
  unfold setNotices
  try dsimp only
  exact (upd_sy_frame g0)

theorem dropNotice_frame {m a a0 a1 a2} (g0 : Leaves m a a2) (hm : FieldsIn 0x2000000000000000000 m := by first | assumption | exact FieldsIn.of (by assumption) (by decide) | exact FieldsIn.refl _) : Leaves m a (dropNotice a0 a1 a2) := by
  unfold dropNotice
  try dsimp only
  exact (setNotices_frame g0)

theorem execWatchNotification_frame {m a a0 a1 a2} (g0 : Leaves m a a2) (hm : FieldsIn 0x2000000800000000000 m := by first | assumption | exact FieldsIn.of (by assumption) (by decide) | exact FieldsIn.refl _) : LeavesOut m a (execWatchNotification a0 a1 a2) := by
  unfold execWatchNotification
  try dsimp only
  exact (whenLive_frame g0 (fun _ h0 => (ite_frame (ite_frame (setQueue_frame (dropNotice_frame h0)) (dropNotice_frame h0)) h0)))

theorem setBank_frame {m a a0 a1 a2} (g0 : Leaves m a a2) (hm : FieldsIn 0x800000000000000000 m := by first | assumption | exact FieldsIn.of (by assumption) (by decide) | exact FieldsIn.refl _) : Leaves m a (setBank a0 a1 a2) := by
  unfold setBank
  try dsimp only
  exact (upd_sy_frame g0)

theorem enterUpdate_frame {m a a0 a1} (g0 : Leaves m a a1) (hm : FieldsIn 0x10000000000800000000000000000 m := by first | assumption | exact FieldsIn.of (by assumption) (by decide) | exact FieldsIn.refl _) : Leaves m a (enterUpdate a0 a1) := by
  unfold enterUpdate
  try dsimp only
  exact (setBank_frame (ite_frame (upd_now_frame g0) g0))

theorem sendUpdate_frame {m a a0 a1} (g0 : Leaves m a a1) (hm : FieldsIn 0x10000000001800000000000000000 m := by first | assumption | exact FieldsIn.of (by assumption) (by decide) | exact FieldsIn.refl _) : Leaves m a (sendUpdate a0 a1) := by
  unfold sendUpdate
  try dsimp only
  exact (ite_frame (upd_sy_frame g0) (enterUpdate_frame g0))

theorem sendSignal_frame {m a a0 a1 a2 a3 a4} (g0 : Leaves m a a4) (hm : FieldsIn 0x10000000001800000000000000000 m := by first | assumption | exact FieldsIn.of (by assumption) (by decide) | exact FieldsIn.refl _) : Leaves m a (sendSignal a0 a1 a2 a3 a4) := by
  unfold sendSignal
  try dsimp only
  exact (ite_frame g0 (sendUpdate_frame g0))

theorem sendCommitSignals_frame {m a a0 a1 a2} (g0 : Leaves m a a2) (hm : FieldsIn 0x10000000001800000000000000000 m := by first | assumption | exact FieldsIn.of (by assumption) (by decide) | exact FieldsIn.refl _) : Leaves m a (sendCommitSignals a0 a1 a2) := by
  unfold sendCommitSignals
  try dsimp only
  exact (ite_frame (sendSignal_frame g0) (sendSignal_frame (sendSignal_frame g0)))

theorem setAcct_frame {m a a0 a1 a2} (g0 : Leaves m a a2) (hm : FieldsIn 0x80000000000000000 m := by first | assumption | exact FieldsIn.of (by assumption) (by decide) | exact FieldsIn.refl _) : Leaves m a (setAcct a0 a1 a2) := by
  unfold setAcct
  try dsimp only
  exact (upd_pt_frame g0)

theorem chargeLost_frame {m a a0 a1 a2} (g0 : Leaves m a a2) (hm : FieldsIn 0x80000000000000000 m := by first | assumption | exact FieldsIn.of (by assumption) (by decide) | exact FieldsIn.refl _) : Leaves m a (chargeLost a0 a1 a2) := by
  unfold chargeLost
  try dsimp only
  exact (setAcct_frame g0)

theorem killOne_frame {m a a0 a1 a2 a3 a4 a5 a6} (g0 : Leaves m a a6) (hm : FieldsIn 0x80021800000000000 m := by first | assumption | exact FieldsIn.of (by assumption) (by decide) | exact FieldsIn.refl _) : Leaves m a (killOne a0 a1 a2 a3 a4 a5 a6) := by
  unfold killOne
  try dsimp only
  exact (ite_frame (by (try dsimp only); first | (split; exact (setSlot_frame g0); exact (chargeLost_frame (dropWaiting_frame (setSlot_frame g0)))) | (split <;> first | exact (setSlot_frame g0) | exact (chargeLost_frame (dropWaiting_frame (setSlot_frame g0))))) g0)

theorem startKill_frame {m a a0 a1 a2 a3 a4 a5 a6} (g0 : Leaves m a a6) (hm : FieldsIn 0x80021800000000000 m := by first | assumption | exact FieldsIn.of (by assumption) (by decide) | exact FieldsIn.refl _) : Leaves m a (startKill a0 a1 a2 a3 a4 a5 a6) := by
  unfold startKill
  try dsimp only
  exact (ite_frame (foldl_frame (fun _ _ h0 => (killOne_frame h0)) (killOne_frame g0)) g0)

theorem killPart_frame {m a a0 a1} (g0 : Leaves m a a1) (hm : FieldsIn 0x80021800000000000 m := by first | assumption | exact FieldsIn.of (by assumption) (by decide) | exact FieldsIn.refl _) : Leaves m a (killPart a0 a1) := by
  unfold killPart
  try dsimp only
  exact (foldl_frame (fun _ _ h0 => (foldl_frame (fun _ _ h1 => (startKill_frame h1)) h0)) g0)

theorem startReset_frame {m a a0 a1 a2 a3} (g0 : Leaves m a a3) (hm : FieldsIn 0xc0021a00000000004 m := by first | assumption | exact FieldsIn.of (by assumption) (by decide) | exact FieldsIn.refl _) : Leaves m a (startReset a0 a1 a2 a3) := by
  unfold startReset
  try dsimp only
  exact (ite_frame (upd_fab_frame (updPart_frame g0)) (killPart_frame (setObj_frame (updPart_frame g0))))

theorem fireHostWatch_frame {m a a0 a1} (g0 : Leaves m a a1) (hm : FieldsIn 0x2010000000000000000005 m := by first | assumption | exact FieldsIn.of (by assumption) (by decide) | exact FieldsIn.refl _) : Leaves m a (fireHostWatch a0 a1) := by
  unfold fireHostWatch
  try dsimp only
  exact (sendMsix_frame (addObj_frame (setObj_frame (upd_sy_frame g0))))

theorem notifyHosts_frame {m a a0 a1} (g0 : Leaves m a a1) (hm : FieldsIn 0x2010000000000000000005 m := by first | assumption | exact FieldsIn.of (by assumption) (by decide) | exact FieldsIn.refl _) : Leaves m a (notifyHosts a0 a1) := by
  unfold notifyHosts
  try dsimp only
  exact (foldl_frame (fun _ _ h0 => (by (try dsimp only); first | (split; exact (ite_frame (fireHostWatch_frame h0) h0); exact h0) | (split <;> first | exact (ite_frame (fireHostWatch_frame h0) h0) | exact h0))) g0)

theorem perturb_frame {m a a0} (g0 : Leaves m a a0) (hm : FieldsIn 0x800000300000200000000004000004 m := by first | assumption | exact FieldsIn.of (by assumption) (by decide) | exact FieldsIn.refl _) : Leaves m a (perturb a0) := by
  unfold perturb
  try dsimp only
  exact (ite_frame (ite_frame (addObj_frame g0) (capture_frame (upd_pt_frame (addObj_frame g0)))) g0)

theorem requestCommit_frame {m a a0 a1 a2 a3} (g0 : Leaves m a a3) (hm : FieldsIn 0x1000000000000 m := by first | assumption | exact FieldsIn.of (by assumption) (by decide) | exact FieldsIn.refl _) : Leaves m a (requestCommit a0 a1 a2 a3) := by
  unfold requestCommit
  try dsimp only
  exact (ite_frame (setSlot_frame g0) g0)

theorem execWriteAcknowledgement_frame {m a a0 a1 a2 a3} (g0 : Leaves m a a3) (hm : FieldsIn 0x800000300000200001000004000004 m := by first | assumption | exact FieldsIn.of (by assumption) (by decide) | exact FieldsIn.refl _) : LeavesOut m a (execWriteAcknowledgement a0 a1 a2 a3) := by
  unfold execWriteAcknowledgement
  try dsimp only
  exact (whenLive_frame g0 (fun _ h0 => (by (try dsimp only); first | (split; exact (ite_frame (perturb_frame (requestCommit_frame (setSlot_frame h0))) (requestCommit_frame (setSlot_frame h0))); exact h0) | (split <;> first | exact (ite_frame (perturb_frame (requestCommit_frame (setSlot_frame h0))) (requestCommit_frame (setSlot_frame h0))) | exact h0))))

theorem advanceCommit_frame {m a a0 a1 a2} (g0 : Leaves m a a2) (hm : FieldsIn 0x1800000000000 m := by first | assumption | exact FieldsIn.of (by assumption) (by decide) | exact FieldsIn.refl _) : Leaves m a (advanceCommit a0 a1 a2) := by
  unfold advanceCommit
  try dsimp only
  exact (setQueue_frame (foldl_frame (fun _ _ h0 => (updSlot_frame h0)) g0))

theorem sendProbe_frame {m a a0 a1 a2 a3} (g0 : Leaves m a a3) (hm : FieldsIn 0x10000000001800000000000000000 m := by first | assumption | exact FieldsIn.of (by assumption) (by decide) | exact FieldsIn.refl _) : Leaves m a (sendProbe a0 a1 a2 a3) := by
  unfold sendProbe
  try dsimp only
  exact (sendUpdate_frame g0)

theorem armHead_frame {m a a0 a1 a2} (g0 : Leaves m a a2) (hm : FieldsIn 0x10000000001800000800000000000 m := by first | assumption | exact FieldsIn.of (by assumption) (by decide) | exact FieldsIn.refl _) : Leaves m a (armHead a0 a1 a2) := by
  unfold armHead
  try dsimp only
  exact (by (try dsimp only); first | (split; exact g0; exact (ite_frame (sendProbe_frame (setQueue_frame g0)) g0)) | (split <;> first | exact g0 | exact (ite_frame (sendProbe_frame (setQueue_frame g0)) g0)))

theorem refreshLoad_frame {m a a0 a1} (g0 : Leaves m a a1) (hm : FieldsIn 0x20000000000000 m := by first | assumption | exact FieldsIn.of (by assumption) (by decide) | exact FieldsIn.refl _) : Leaves m a (refreshLoad a0 a1) := by
  unfold refreshLoad
  try dsimp only
  exact (ite_frame (setWeightLoad_frame g0) g0)

theorem moveHead_frame {m a a0 a1 a2 a3} (g0 : Leaves m a a3) (hm : FieldsIn 0x10000000003800020800000000000 m := by first | assumption | exact FieldsIn.of (by assumption) (by decide) | exact FieldsIn.refl _) : Leaves m a (moveHead a0 a1 a2 a3) := by
  unfold moveHead
  try dsimp only
  exact (ite_frame (armHead_frame (refreshLoad_frame g0)) (armHead_frame (refreshLoad_frame (setQueue_frame (ite_frame (dropNotice_frame g0) g0)))))

theorem settleHead_frame {m a a0 a1 a2} (g0 : Leaves m a a2) (hm : FieldsIn 0x10000000003800020800000000000 m := by first | assumption | exact FieldsIn.of (by assumption) (by decide) | exact FieldsIn.refl _) : Leaves m a (settleHead a0 a1 a2) := by
  unfold settleHead
  try dsimp only
  exact (moveHead_frame g0)

theorem doomSlot_frame {m a a0 a1 a2 a3} (g0 : Leaves m a a3) (hm : FieldsIn 0x800000000000 m := by first | assumption | exact FieldsIn.of (by assumption) (by decide) | exact FieldsIn.refl _) : Leaves m a (doomSlot a0 a1 a2 a3) := by
  unfold doomSlot
  try dsimp only
  exact (ite_frame g0 (setQueue_frame g0))

theorem chargeWithdrawal_frame {m a a0 a1} (g0 : Leaves m a a1) (hm : FieldsIn 0x80000000000000000 m := by first | assumption | exact FieldsIn.of (by assumption) (by decide) | exact FieldsIn.refl _) : Leaves m a (chargeWithdrawal a0 a1) := by
  unfold chargeWithdrawal
  try dsimp only
  exact (setAcct_frame g0)

theorem withdrawSlot_frame {m a a0 a1 a2 a3} (g0 : Leaves m a a3) (hm : FieldsIn 0xc0021800000000000 m := by first | assumption | exact FieldsIn.of (by assumption) (by decide) | exact FieldsIn.refl _) : Leaves m a (withdrawSlot a0 a1 a2 a3) := by
  unfold withdrawSlot
  try dsimp only
  exact (chargeWithdrawal_frame (updPart_frame (dropWaiting_frame (setSlot_frame g0))))

theorem withdrawOrDoom_frame {m a a0 a1 a2 a3} (g0 : Leaves m a a3) (hm : FieldsIn 0xc0021800000000000 m := by first | assumption | exact FieldsIn.of (by assumption) (by decide) | exact FieldsIn.refl _) : Leaves m a (withdrawOrDoom a0 a1 a2 a3) := by
  unfold withdrawOrDoom
  try dsimp only
  exact (ite_frame (withdrawSlot_frame g0) (doomSlot_frame g0))

theorem withdrawOne_frame {m a a0 a1 a2 a3} (g0 : Leaves m a a3) (hm : FieldsIn 0xc0021800000000000 m := by first | assumption | exact FieldsIn.of (by assumption) (by decide) | exact FieldsIn.refl _) : Leaves m a (withdrawOne a0 a1 a2 a3) := by
  unfold withdrawOne
  try dsimp only
  exact (by (try dsimp only); first | (split; exact (withdrawOrDoom_frame g0); exact (withdrawOrDoom_frame g0); exact (startKill_frame g0); exact (startKill_frame g0); exact (startKill_frame g0); exact g0) | (split <;> first | exact (withdrawOrDoom_frame g0) | exact (startKill_frame g0) | exact g0))

theorem withdrawJob_frame {m a a0 a1 a2} (g0 : Leaves m a a2) (hm : FieldsIn 0x100000000038c0021800000000000 m := by first | assumption | exact FieldsIn.of (by assumption) (by decide) | exact FieldsIn.refl _) : Leaves m a (withdrawJob a0 a1 a2) := by
  unfold withdrawJob
  try dsimp only
  exact (foldl_frame (fun _ _ h0 => (advanceCommit_frame (settleHead_frame (foldl_frame (fun _ _ h1 => (ite_frame (withdrawOne_frame h1) h1)) h0)))) g0)

theorem abandonSlot_frame {m a a0 a1 a2 a3} (g0 : Leaves m a a3) (hm : FieldsIn 0x21800000000000 m := by first | assumption | exact FieldsIn.of (by assumption) (by decide) | exact FieldsIn.refl _) : Leaves m a (abandonSlot a0 a1 a2 a3) := by
  unfold abandonSlot
  try dsimp only
  exact (dropWaiting_frame (updSlot_frame g0))

theorem chargeKill_frame {m a a0 a1} (g0 : Leaves m a a1) (hm : FieldsIn 0x80000000000000000 m := by first | assumption | exact FieldsIn.of (by assumption) (by decide) | exact FieldsIn.refl _) : Leaves m a (chargeKill a0 a1) := by
  unfold chargeKill
  try dsimp only
  exact (setAcct_frame g0)

theorem setUnit_frame {m a a0 a1 a2} (g0 : Leaves m a a2) (hm : FieldsIn 0x2000000000000 m := by first | assumption | exact FieldsIn.of (by assumption) (by decide) | exact FieldsIn.refl _) : Leaves m a (setUnit a0 a1 a2) := by
  unfold setUnit
  try dsimp only
  exact (upd_tl_frame g0)

theorem freeUnit_frame {m a a0 a1 a2 a3} (g0 : Leaves m a a3) (hm : FieldsIn 0x2000000000000 m := by first | assumption | exact FieldsIn.of (by assumption) (by decide) | exact FieldsIn.refl _) : Leaves m a (freeUnit a0 a1 a2 a3) := by
  unfold freeUnit
  try dsimp only
  exact (ite_frame (setUnit_frame g0) g0)

theorem releasePins_frame {m a a0 a1 a2 a3} (g0 : Leaves m a a3) (hm : FieldsIn 0x9000000000000 m := by first | assumption | exact FieldsIn.of (by assumption) (by decide) | exact FieldsIn.refl _) : Leaves m a (releasePins a0 a1 a2 a3) := by
  unfold releasePins
  try dsimp only
  exact (updSlot_frame (foldl_frame (fun _ _ h0 => (unpinFrame_frame h0)) g0))

theorem releaseShadows_frame {m a a0 a1 a2 a3} (g0 : Leaves m a a3) (hm : FieldsIn 0x108000000000000 m := by first | assumption | exact FieldsIn.of (by assumption) (by decide) | exact FieldsIn.refl _) : Leaves m a (releaseShadows a0 a1 a2 a3) := by
  unfold releaseShadows
  try dsimp only
  exact (by (try dsimp only); first | (split; exact (killTag_frame (foldl_frame (fun _ _ h0 => (freeFrameAt_frame h0)) g0)); exact (foldl_frame (fun _ _ h0 => (freeFrameAt_frame h0)) g0)) | (split <;> first | exact (killTag_frame (foldl_frame (fun _ _ h0 => (freeFrameAt_frame h0)) g0)) | exact (foldl_frame (fun _ _ h0 => (freeFrameAt_frame h0)) g0)))

theorem completeKill_frame {m a a0 a1 a2 a3} (g0 : Leaves m a a3) (hm : FieldsIn 0xc012b800000000000 m := by first | assumption | exact FieldsIn.of (by assumption) (by decide) | exact FieldsIn.refl _) : Leaves m a (completeKill a0 a1 a2 a3) := by
  unfold completeKill
  try dsimp only
  exact (by (try dsimp only); first | (split; exact (ite_frame (withdrawOrDoom_frame (updSlot_frame (ite_frame (chargeKill_frame (releaseShadows_frame (releasePins_frame (freeUnit_frame g0)))) (releaseShadows_frame (releasePins_frame (freeUnit_frame g0)))))) (ite_frame (abandonSlot_frame (updSlot_frame (ite_frame (chargeKill_frame (releaseShadows_frame (releasePins_frame (freeUnit_frame g0)))) (releaseShadows_frame (releasePins_frame (freeUnit_frame g0)))))) (updSlot_frame (ite_frame (chargeKill_frame (releaseShadows_frame (releasePins_frame (freeUnit_frame g0)))) (releaseShadows_frame (releasePins_frame (freeUnit_frame g0))))))); exact g0) | (split <;> first | exact (ite_frame (withdrawOrDoom_frame (updSlot_frame (ite_frame (chargeKill_frame (releaseShadows_frame (releasePins_frame (freeUnit_frame g0)))) (releaseShadows_frame (releasePins_frame (freeUnit_frame g0)))))) (ite_frame (abandonSlot_frame (updSlot_frame (ite_frame (chargeKill_frame (releaseShadows_frame (releasePins_frame (freeUnit_frame g0)))) (releaseShadows_frame (releasePins_frame (freeUnit_frame g0)))))) (updSlot_frame (ite_frame (chargeKill_frame (releaseShadows_frame (releasePins_frame (freeUnit_frame g0)))) (releaseShadows_frame (releasePins_frame (freeUnit_frame g0))))))) | exact g0))

theorem restamp_frame {m a a0 a1 a2 a3 a4} (g0 : Leaves m a a4) (hm : FieldsIn 0x60040001000000000000 m := by first | assumption | exact FieldsIn.of (by assumption) (by decide) | exact FieldsIn.refl _) : Leaves m a (restamp a0 a1 a2 a3 a4) := by
  unfold restamp
  try dsimp only
  exact (foldl_frame (fun _ _ h0 => (setWatched_frame h0)) (foldl_frame (fun _ _ h0 => (setSeq_frame h0)) (updPart_frame (foldl_frame (fun _ _ h0 => (updSlot_frame h0)) g0))))

theorem stampStep_frame {m a a0 a1 a2 a3 a4} (g0 : Leaves m a a4) (hm : FieldsIn 0x200000060040001000000000004 m := by first | assumption | exact FieldsIn.of (by assumption) (by decide) | exact FieldsIn.refl _) : Leaves m a (stampStep a0 a1 a2 a3 a4) := by
  unfold stampStep
  try dsimp only
  exact (ite_frame (upd_now_frame (addObj_frame (updSlot_frame g0))) (restamp_frame (upd_now_frame (addObj_frame (updSlot_frame g0)))))

theorem stampSlots_frame {m a a0 a1 a2 a3 a4 a5} (g0 : Leaves m a a5) (hm : FieldsIn 0x200000060040001000000000004 m := by first | assumption | exact FieldsIn.of (by assumption) (by decide) | exact FieldsIn.refl _) : Leaves m a (stampSlots a0 a1 a2 a3 a4 a5) := by
  unfold stampSlots
  try dsimp only
  exact (foldl_frame (fun _ _ h0 => (ite_frame (updPart_frame (updSlot_frame h0)) (stampStep_frame h0))) g0)

theorem tileFill_frame {m a a0 a1 a2} (g0 : Leaves m a a0) (hm : FieldsIn 0x2 m := by first | assumption | exact FieldsIn.of (by assumption) (by decide) | exact FieldsIn.refl _) : Leaves m a (tileFill a0 a1 a2).2 := by
  unfold tileFill
  try dsimp only
  exact (by (try dsimp only); first | (split; exact (snd_frame g0); exact (snd_frame (useFree_frame g0))) | (split <;> first | exact (snd_frame g0) | exact (snd_frame (useFree_frame g0))))

theorem allocShadow_frame {m a a0 a1 a2 a3 a4 a5} (g0 : Leaves m a a5) (hm : FieldsIn 0x9000000000002 m := by first | assumption | exact FieldsIn.of (by assumption) (by decide) | exact FieldsIn.refl _) : ∀ r, allocShadow a0 a1 a2 a3 a4 a5 = some r → Leaves m a r.2 := by
  intro r hr
  unfold allocShadow at hr
  split at hr
  · simp at hr
  · split at hr
    · simp at hr
    · cases hr
      dsimp only
      exact updSlot_frame (setFrame_frame (tileFill_frame g0))

theorem execWithdrawHead_frame {m a a0 a1 a2} (g0 : Leaves m a a2) (hm : FieldsIn 0x100000000038c0021800000000000 m := by first | assumption | exact FieldsIn.of (by assumption) (by decide) | exact FieldsIn.refl _) : LeavesOut m a (execWithdrawHead a0 a1 a2) := by
  unfold execWithdrawHead
  try dsimp only
  exact (whenLive_frame g0 (fun _ h0 => (by (try dsimp only); first | (split; exact (ite_frame (advanceCommit_frame (settleHead_frame (withdrawOrDoom_frame h0))) h0); exact h0) | (split <;> first | exact (ite_frame (advanceCommit_frame (settleHead_frame (withdrawOrDoom_frame h0))) h0) | exact h0))))

theorem sentWrite_frame {m a a0 a1 a2 a3 a4 a5} (g0 : Leaves m a a5) (hm : FieldsIn 0x1000000000000 m := by first | assumption | exact FieldsIn.of (by assumption) (by decide) | exact FieldsIn.refl _) : Leaves m a (sentWrite a0 a1 a2 a3 a4 a5) := by
  unfold sentWrite
  try dsimp only
  exact (updSlot_frame g0)

theorem execRemoteWrite_frame {m a a0 a1 a2 a3 a4} (g0 : Leaves m a a4) (hm : FieldsIn 0x40000000000009000000000006 m := by first | assumption | exact FieldsIn.of (by assumption) (by decide) | exact FieldsIn.refl _) : LeavesOut m a (execRemoteWrite a0 a1 a2 a3 a4) := by
  unfold execRemoteWrite
  refine whenLive_frame g0 (fun s h => ?_)
  dsimp only
  split
  · split
    · exact h
    · split
      · exact sentWrite_frame (writeFrame_frame (crossLinks_frame h))
      · split
        · rename_i hq
          exact sentWrite_frame (writeFrame_frame (crossLinks_frame (allocShadow_frame h (FieldsIn.of hm (by decide)) _ hq)))
        · exact h
  · exact h

theorem flipPin_frame {m a a0 a1} (g0 : Leaves m a a1) (hm : FieldsIn 0x100000000000000c000000000000 m := by first | assumption | exact FieldsIn.of (by assumption) (by decide) | exact FieldsIn.refl _) : Leaves m a (flipPin a0 a1) := by
  have h1 := setFrame_frame (a0 := a0.frame) (a1 := { getFrame (setPageMap a0.tile a0.page (a0.frame % 768 + 1) a1) a0.frame with st := .mapped })
    (setPageMap_frame (a0 := a0.tile) (a1 := a0.page) (a2 := a0.frame % 768 + 1) g0)
  unfold flipPin
  dsimp only
  split
  · exact retireFrame_frame (noteFlip_frame h1)
  · exact noteFlip_frame h1

theorem noteLanded_frame {m a a0 a1 a2 a3} (g0 : Leaves m a a3) (hm : FieldsIn 0x800000000000000000000000000 m := by first | assumption | exact FieldsIn.of (by assumption) (by decide) | exact FieldsIn.refl _) : Leaves m a (noteLanded a0 a1 a2 a3) := by
  unfold noteLanded
  try dsimp only
  exact (upd_now_frame g0)

theorem execRemoteCommitMessage_frame {m a a0 a1 a2 a3 a4} (g0 : Leaves m a a4) (hm : FieldsIn 0x180000000000000d000000000000 m := by first | assumption | exact FieldsIn.of (by assumption) (by decide) | exact FieldsIn.refl _) : LeavesOut m a (execRemoteCommitMessage a0 a1 a2 a3 a4) := by
  unfold execRemoteCommitMessage
  try dsimp only
  exact (whenLive_frame g0 (fun _ h0 => (ite_frame (updSlot_frame (foldl_frame (fun _ _ h1 => (flipPin_frame h1)) (noteLanded_frame h0))) h0)))

theorem publishTail_frame {m a a0 a1 a2 a3 a4 a5} (g0 : Leaves m a a5) (hm : FieldsIn 0x10600000063840021800000000004 m := by first | assumption | exact FieldsIn.of (by assumption) (by decide) | exact FieldsIn.refl _) : Leaves m a (publishTail a0 a1 a2 a3 a4 a5) := by
  unfold publishTail
  try dsimp only
  exact (settleHead_frame (setQueue_frame (upd_now_frame (stampSlots_frame g0))))

theorem applyTail_frame {m a a0 a1 a2 a3} (g0 : Leaves m a a3) (hm : FieldsIn 0x810600300063840021800004000004 m := by first | assumption | exact FieldsIn.of (by assumption) (by decide) | exact FieldsIn.refl _) : Leaves m a (applyTail a0 a1 a2 a3).1 := by
  unfold applyTail
  try dsimp only
  exact (ite_fst_frame (fst_frame (publishTail_frame g0)) (fst_frame (refuseEngine_frame g0)))

theorem releaseResets_frame {m a a0} (g0 : Leaves m a a0) (hm : FieldsIn 0x80021a00000000004 m := by first | assumption | exact FieldsIn.of (by assumption) (by decide) | exact FieldsIn.refl _) : Leaves m a (releaseResets a0) := by
  unfold releaseResets
  try dsimp only
  exact (foldl_frame (fun _ _ h0 => (killPart_frame (setObj_frame h0))) (upd_fab_frame g0))

theorem pinFrame_frame {m a a0 a1} (g0 : Leaves m a a1) (hm : FieldsIn 0x8000000000000 m := by first | assumption | exact FieldsIn.of (by assumption) (by decide) | exact FieldsIn.refl _) : Leaves m a (pinFrame a0 a1) := by
  unfold pinFrame
  try dsimp only
  exact (setFrame_frame g0)

theorem notifyQueues_frame {m a a0 a1} (g0 : Leaves m a a1) (hm : FieldsIn 0x2000000800000000000 m := by first | assumption | exact FieldsIn.of (by assumption) (by decide) | exact FieldsIn.refl _) : Leaves m a (notifyQueues a0 a1) := by
  unfold notifyQueues
  try dsimp only
  exact (foldl_frame (fun _ _ h0 => (by (try dsimp only); first | (split; exact (ite_frame (setNotices_frame (setQueue_frame h0)) h0); exact h0) | (split <;> first | exact (ite_frame (setNotices_frame (setQueue_frame h0)) h0) | exact h0))) g0)

theorem setSyncCount_frame {m a a0 a1 a2} (g0 : Leaves m a a2) (hm : FieldsIn 0x400000000000000000 m := by first | assumption | exact FieldsIn.of (by assumption) (by decide) | exact FieldsIn.refl _) : Leaves m a (setSyncCount a0 a1 a2) := by
  unfold setSyncCount
  try dsimp only
  exact (upd_sy_frame g0)

theorem applyUpdate_frame {m a a0 a1} (g0 : Leaves m a a1) (hm : FieldsIn 0x40002012400000800000000005 m := by first | assumption | exact FieldsIn.of (by assumption) (by decide) | exact FieldsIn.refl _) : Leaves m a (applyUpdate a0 a1) := by
  unfold applyUpdate
  try dsimp only
  exact (notifyHosts_frame (notifyQueues_frame (perfCount_frame (setSyncCount_frame g0))))

theorem enterHeld_frame {m a a0 a1} (g0 : Leaves m a a1) (hm : FieldsIn 0x10000000001800000000000000000 m := by first | assumption | exact FieldsIn.of (by assumption) (by decide) | exact FieldsIn.refl _) : Leaves m a (enterHeld a0 a1) := by
  induction a0 generalizing a1 with
  | zero => exact g0
  | succ n ih =>
    simp only [enterHeld]
    split
    · exact g0
    · exact ih (enterUpdate_frame (upd_sy_frame g0))

theorem applyFrom_frame {m a a0 a1 a2} (g0 : Leaves m a a2) (hm : FieldsIn 0x10040002013c00000800000000005 m := by first | assumption | exact FieldsIn.of (by assumption) (by decide) | exact FieldsIn.refl _) : Leaves m a (applyFrom a0 a1 a2) := by
  unfold applyFrom
  try dsimp only
  exact (by (try dsimp only); first | (split; exact (enterHeld_frame (applyUpdate_frame (setBank_frame g0))); exact g0) | (split <;> first | exact (enterHeld_frame (applyUpdate_frame (setBank_frame g0))) | exact g0))

theorem endReset_frame {m a a0 a1} (g0 : Leaves m a a1) (hm : FieldsIn 0x800000300000000000000004000004 m := by first | assumption | exact FieldsIn.of (by assumption) (by decide) | exact FieldsIn.refl _) : Leaves m a (endReset a0 a1) := by
  unfold endReset
  try dsimp only
  exact (capture_frame (addObj_frame (setObj_frame g0)))

theorem noteCommit_frame {m a a0 a1} (g0 : Leaves m a a1) (hm : FieldsIn 0x6000000000000000000000000000 m := by first | assumption | exact FieldsIn.of (by assumption) (by decide) | exact FieldsIn.refl _) : Leaves m a (noteCommit a0 a1) := by
  unfold noteCommit
  try dsimp only
  exact (upd_now_frame g0)

theorem markJob_frame {m a a0 a1 a2} (g0 : Leaves m a a2) (hm : FieldsIn 0x100000000038c0021800000000000 m := by first | assumption | exact FieldsIn.of (by assumption) (by decide) | exact FieldsIn.refl _) : Leaves m a (markJob a0 a1 a2) := by
  unfold markJob
  try dsimp only
  exact (withdrawJob_frame (ite_frame g0 (updPart_frame g0)))

theorem wAcctWithdraw_frame {m a a0 a1 a2} (g0 : Leaves m a a2) (hm : FieldsIn 0x900000000038c0021800000000000 m := by first | assumption | exact FieldsIn.of (by assumption) (by decide) | exact FieldsIn.refl _) : Leaves m a (wAcctWithdraw a0 a1 a2).1 := by
  unfold wAcctWithdraw
  try dsimp only
  exact (ite_fst_frame (fst_frame (deferEvent_frame g0)) (fst_frame (markJob_frame g0)))

theorem execAcctWithdraw_frame {m a a0 a1 a2 a3} (g0 : Leaves m a a3) (hm : FieldsIn 0x900000000078c0021800000000004 m := by first | assumption | exact FieldsIn.of (by assumption) (by decide) | exact FieldsIn.refl _) : LeavesOut m a (execAcctWithdraw a0 a1 a2 a3) := by
  unfold execAcctWithdraw
  try dsimp only
  exact (whenFree_frame g0 (fun _ h0 => (ackWrite_frame (wAcctWithdraw_frame h0))))

theorem unmarkJob_frame {m a a0 a1 a2} (g0 : Leaves m a a2) (hm : FieldsIn 0x40000000000000000 m := by first | assumption | exact FieldsIn.of (by assumption) (by decide) | exact FieldsIn.refl _) : Leaves m a (unmarkJob a0 a1 a2) := by
  unfold unmarkJob
  try dsimp only
  exact (updPart_frame g0)

theorem wAcctRestore_frame {m a a0 a1 a2} (g0 : Leaves m a a2) (hm : FieldsIn 0x80000000000040000000000000000 m := by first | assumption | exact FieldsIn.of (by assumption) (by decide) | exact FieldsIn.refl _) : Leaves m a (wAcctRestore a0 a1 a2).1 := by
  unfold wAcctRestore
  try dsimp only
  exact (ite_fst_frame (fst_frame (deferEvent_frame g0)) (fst_frame (unmarkJob_frame g0)))

theorem unhaltTiles_frame {m a a0 a1} (g0 : Leaves m a a1) (hm : FieldsIn 0x40000000000000004 m := by first | assumption | exact FieldsIn.of (by assumption) (by decide) | exact FieldsIn.refl _) : Leaves m a (unhaltTiles a0 a1) := by
  unfold unhaltTiles
  try dsimp only
  exact (updPart_frame (foldl_frame (fun _ _ h0 => (ite_frame (setObj_frame h0) h0)) g0))

theorem chargeWait_frame {m a a0 a1 a2} (g0 : Leaves m a a2) (hm : FieldsIn 0x80000000000000000 m := by first | assumption | exact FieldsIn.of (by assumption) (by decide) | exact FieldsIn.refl _) : Leaves m a (chargeWait a0 a1 a2) := by
  unfold chargeWait
  try dsimp only
  exact (setAcct_frame g0)

theorem execAcctRestore_frame {m a a0 a1 a2 a3} (g0 : Leaves m a a3) (hm : FieldsIn 0x80000000004040000000000000004 m := by first | assumption | exact FieldsIn.of (by assumption) (by decide) | exact FieldsIn.refl _) : LeavesOut m a (execAcctRestore a0 a1 a2 a3) := by
  unfold execAcctRestore
  try dsimp only
  exact (whenFree_frame g0 (fun _ h0 => (ackWrite_frame (wAcctRestore_frame h0))))

theorem bumpStep_frame {m a a0 a1} (g0 : Leaves m a a1) (hm : FieldsIn 0x4 m := by first | assumption | exact FieldsIn.of (by assumption) (by decide) | exact FieldsIn.refl _) : Leaves m a (bumpStep a0 a1) := by
  unfold bumpStep
  try dsimp only
  exact (ite_frame (addObj_frame g0) (addObj_frame g0))

theorem finishCommand_frame {m a a0 a1 a2 a3 a4 a5} (g0 : Leaves m a a5) (hm : FieldsIn 0x3000000000000 m := by first | assumption | exact FieldsIn.of (by assumption) (by decide) | exact FieldsIn.refl _) : Leaves m a (finishCommand a0 a1 a2 a3 a4 a5) := by
  unfold finishCommand
  try dsimp only
  exact (requestCommit_frame (updSlot_frame (freeUnit_frame g0)))

theorem chargeExec_frame {m a a0 a1 a2} (g0 : Leaves m a a2) (hm : FieldsIn 0x80000000000000000 m := by first | assumption | exact FieldsIn.of (by assumption) (by decide) | exact FieldsIn.refl _) : Leaves m a (chargeExec a0 a1 a2) := by
  unfold chargeExec
  try dsimp only
  exact (setAcct_frame g0)

theorem chargeCommit_frame {m a a0 a1 a2} (g0 : Leaves m a a2) (hm : FieldsIn 0x100000000080000000000000000 m := by first | assumption | exact FieldsIn.of (by assumption) (by decide) | exact FieldsIn.refl _) : Leaves m a (chargeCommit a0 a1 a2) := by
  unfold chargeCommit
  try dsimp only
  exact (chargeExec_frame (upd_now_frame g0))

theorem orNumfmt_frame {m a a0 a1 a2} (g0 : Leaves m a a2) (hm : FieldsIn 0x20000000000000000000000004 m := by first | assumption | exact FieldsIn.of (by assumption) (by decide) | exact FieldsIn.refl _) : Leaves m a (orNumfmt a0 a1 a2) := by
  unfold orNumfmt
  try dsimp only
  exact (ite_frame g0 (setObj_frame (upd_now_frame g0)))

theorem grantCommit_frame {m a a0 a1 a2 a3} (g0 : Leaves m a a3) (hm : FieldsIn 0x79600000000a03cd000000000004 m := by first | assumption | exact FieldsIn.of (by assumption) (by decide) | exact FieldsIn.refl _) : Leaves m a (grantCommit a0 a1 a2 a3) := by
  unfold grantCommit
  try dsimp only
  exact (updSlot_frame (chargeCommit_frame (releasePins_frame (orNumfmt_frame (by (try dsimp only); first | (split; exact (unmapRange_frame (by (try dsimp only); first | (split; exact (commitTag_frame (foldl_frame (fun _ _ h0 => (flipPin_frame h0)) (perfCount_frame (bumpStep_frame (noteCommit_frame (noteLanded_frame g0)))))); exact (foldl_frame (fun _ _ h0 => (flipPin_frame h0)) (perfCount_frame (bumpStep_frame (noteCommit_frame (noteLanded_frame g0)))))) | (split <;> first | exact (commitTag_frame (foldl_frame (fun _ _ h0 => (flipPin_frame h0)) (perfCount_frame (bumpStep_frame (noteCommit_frame (noteLanded_frame g0)))))) | exact (foldl_frame (fun _ _ h0 => (flipPin_frame h0)) (perfCount_frame (bumpStep_frame (noteCommit_frame (noteLanded_frame g0)))))))); exact (by (try dsimp only); first | (split; exact (commitTag_frame (foldl_frame (fun _ _ h0 => (flipPin_frame h0)) (perfCount_frame (bumpStep_frame (noteCommit_frame (noteLanded_frame g0)))))); exact (foldl_frame (fun _ _ h0 => (flipPin_frame h0)) (perfCount_frame (bumpStep_frame (noteCommit_frame (noteLanded_frame g0)))))) | (split <;> first | exact (commitTag_frame (foldl_frame (fun _ _ h0 => (flipPin_frame h0)) (perfCount_frame (bumpStep_frame (noteCommit_frame (noteLanded_frame g0)))))) | exact (foldl_frame (fun _ _ h0 => (flipPin_frame h0)) (perfCount_frame (bumpStep_frame (noteCommit_frame (noteLanded_frame g0)))))))) | (split <;> first | exact (unmapRange_frame (by (try dsimp only); first | (split; exact (commitTag_frame (foldl_frame (fun _ _ h0 => (flipPin_frame h0)) (perfCount_frame (bumpStep_frame (noteCommit_frame (noteLanded_frame g0)))))); exact (foldl_frame (fun _ _ h0 => (flipPin_frame h0)) (perfCount_frame (bumpStep_frame (noteCommit_frame (noteLanded_frame g0)))))) | (split <;> first | exact (commitTag_frame (foldl_frame (fun _ _ h0 => (flipPin_frame h0)) (perfCount_frame (bumpStep_frame (noteCommit_frame (noteLanded_frame g0)))))) | exact (foldl_frame (fun _ _ h0 => (flipPin_frame h0)) (perfCount_frame (bumpStep_frame (noteCommit_frame (noteLanded_frame g0)))))))) | exact (by (try dsimp only); first | (split; exact (commitTag_frame (foldl_frame (fun _ _ h0 => (flipPin_frame h0)) (perfCount_frame (bumpStep_frame (noteCommit_frame (noteLanded_frame g0)))))); exact (foldl_frame (fun _ _ h0 => (flipPin_frame h0)) (perfCount_frame (bumpStep_frame (noteCommit_frame (noteLanded_frame g0)))))) | (split <;> first | exact (commitTag_frame (foldl_frame (fun _ _ h0 => (flipPin_frame h0)) (perfCount_frame (bumpStep_frame (noteCommit_frame (noteLanded_frame g0)))))) | exact (foldl_frame (fun _ _ h0 => (flipPin_frame h0)) (perfCount_frame (bumpStep_frame (noteCommit_frame (noteLanded_frame g0)))))))))))))

theorem jobFault_frame {m a a0 a1 a2 a3 a4} (g0 : Leaves m a a4) (hm : FieldsIn 0xc0021a00000000004 m := by first | assumption | exact FieldsIn.of (by assumption) (by decide) | exact FieldsIn.refl _) : Leaves m a (jobFault a0 a1 a2 a3 a4) := by
  unfold jobFault
  try dsimp only
  exact (ite_frame (ite_frame g0 (startReset_frame (foldl_frame (fun _ _ h0 => (haltTile_frame h0)) g0))) g0)

theorem withdrawDoomed_frame {m a a0 a1} (g0 : Leaves m a a1) (hm : FieldsIn 0x100000000038c0021800000000000 m := by first | assumption | exact FieldsIn.of (by assumption) (by decide) | exact FieldsIn.refl _) : Leaves m a (withdrawDoomed a0 a1) := by
  unfold withdrawDoomed
  try dsimp only
  exact (foldl_frame (fun _ _ h0 => (ite_frame h0 (advanceCommit_frame (settleHead_frame (foldl_frame (fun _ _ h1 => (ite_frame (withdrawSlot_frame h1) h1)) h0))))) g0)

theorem clearQueue_frame {m a a0 a1 a2} (g0 : Leaves m a a2) (hm : FieldsIn 0x2000021800000000000 m := by first | assumption | exact FieldsIn.of (by assumption) (by decide) | exact FieldsIn.refl _) : Leaves m a (clearQueue a0 a1 a2) := by
  unfold clearQueue
  try dsimp only
  exact (refreshLoad_frame (setQueue_frame (ite_frame (dropNotice_frame (foldl_frame (fun _ _ h0 => (updSlot_frame h0)) (advanceCommit_frame g0))) (foldl_frame (fun _ _ h0 => (updSlot_frame h0)) (advanceCommit_frame g0)))))

theorem clearQueues_frame {m a a0 a1} (g0 : Leaves m a a1) (hm : FieldsIn 0x200000002040021800000000004 m := by first | assumption | exact FieldsIn.of (by assumption) (by decide) | exact FieldsIn.refl _) : Leaves m a (clearQueues a0 a1) := by
  unfold clearQueues
  try dsimp only
  exact (unhaltTiles_frame (setObj_frame (updPart_frame (upd_now_frame (foldl_frame (fun _ _ h0 => (clearQueue_frame h0)) g0)))))

theorem noteRerun_frame {m a a0 a1 a2 a3} (g0 : Leaves m a a3) (hm : FieldsIn 0x800000000000 m := by first | assumption | exact FieldsIn.of (by assumption) (by decide) | exact FieldsIn.refl _) : Leaves m a (noteRerun a0 a1 a2 a3) := by
  unfold noteRerun
  try dsimp only
  exact (ite_frame (setQueue_frame g0) g0)

theorem noteHold_frame {m a a0 a1} (g0 : Leaves m a a1) (hm : FieldsIn 0x100000000000000000000000000000 m := by first | assumption | exact FieldsIn.of (by assumption) (by decide) | exact FieldsIn.refl _) : Leaves m a (noteHold a0 a1) := by
  unfold noteHold
  try dsimp only
  exact (ite_frame g0 (upd_now_frame g0))

theorem wTail_frame {m a a0 a1 a2 a3 a4} (g0 : Leaves m a a4) (hm : FieldsIn 0x890600300063840021800004000004 m := by first | assumption | exact FieldsIn.of (by assumption) (by decide) | exact FieldsIn.refl _) : Leaves m a (wTail a0 a1 a2 a3 a4).1 := by
  unfold wTail
  try dsimp only
  exact (ite_fst_frame (fst_frame (deferEvent_frame g0)) (applyTail_frame g0))

theorem execTailWrite_frame {m a a0 a1 a2 a3 a4} (g0 : Leaves m a a4) (hm : FieldsIn 0x890600300067840021800004000004 m := by first | assumption | exact FieldsIn.of (by assumption) (by decide) | exact FieldsIn.refl _) : LeavesOut m a (execTailWrite a0 a1 a2 a3 a4) := by
  unfold execTailWrite
  try dsimp only
  exact (whenFree_frame g0 (fun _ h0 => (ite_frame (ackWrite_frame (wTail_frame h0)) (addObj_frame h0))))

theorem fillShadow_frame {m a a0 a1 a2 a3 a4} (g0 : Leaves m a a4) (hm : FieldsIn 0x40000000002000000000000004 m := by first | assumption | exact FieldsIn.of (by assumption) (by decide) | exact FieldsIn.refl _) : Leaves m a (fillShadow a0 a1 a2 a3 a4) := by
  unfold fillShadow
  try dsimp only
  exact (by (try dsimp only); first | (split; exact (ite_frame g0 (copyLines_frame g0)); exact g0) | (split <;> first | exact (ite_frame g0 (copyLines_frame g0)) | exact g0))

theorem refuseCommand_frame {m a a0 a1 a2 a3 a4} (g0 : Leaves m a a4) (hm : FieldsIn 0x8100003000038c0021a00004000004 m := by first | assumption | exact FieldsIn.of (by assumption) (by decide) | exact FieldsIn.refl _) : Leaves m a (refuseCommand a0 a1 a2 a3 a4) := by
  unfold refuseCommand
  try dsimp only
  exact (ite_frame (jobFault_frame (settleHead_frame (capture_frame (setObj_frame (dropWaiting_frame (setSlot_frame g0)))))) (settleHead_frame (capture_frame (setObj_frame (dropWaiting_frame (setSlot_frame g0))))))

theorem completeKills_frame {m a a0 a1 a2} (g0 : Leaves m a a2) (hm : FieldsIn 0x100000000038c012b800000000000 m := by first | assumption | exact FieldsIn.of (by assumption) (by decide) | exact FieldsIn.refl _) : Leaves m a (completeKills a0 a1 a2) := by
  unfold completeKills
  try dsimp only
  exact (by (try dsimp only); first | (split; exact g0; exact (noteRerun_frame (moveHead_frame (foldl_frame (fun _ _ h0 => (completeKill_frame h0)) g0)))) | (split <;> first | exact g0 | exact (noteRerun_frame (moveHead_frame (foldl_frame (fun _ _ h0 => (completeKill_frame h0)) g0)))))

theorem execKillComplete_frame {m a a0 a1 a2 a3} (g0 : Leaves m a a3) (hm : FieldsIn 0x100000000038c012b800000000000 m := by first | assumption | exact FieldsIn.of (by assumption) (by decide) | exact FieldsIn.refl _) : LeavesOut m a (execKillComplete a0 a1 a2 a3) := by
  unfold execKillComplete
  try dsimp only
  exact (whenLive_frame g0 (fun _ h0 => (ite_frame (advanceCommit_frame (completeKills_frame h0)) h0)))

theorem execParityUpdate_frame {m a a0 a1 a2 a3 a4} (g0 : Leaves m a a4) (hm : FieldsIn 0x804000000001a1c1000000000006 m := by first | assumption | exact FieldsIn.of (by assumption) (by decide) | exact FieldsIn.refl _) : LeavesOut m a (execParityUpdate a0 a1 a2 a3 a4) := by
  unfold execParityUpdate
  refine whenLive_frame g0 (fun s h => ?_)
  dsimp only
  split
  · split
    · exact h
    · split
      · rename_i hq
        have h1 := ensureShadow_frame h (FieldsIn.of hm (by decide)) _ hq
        refine sentWrite_frame (writeShadowSlot_frame (writeLines_frame (crossLinks_frame ?_)))
        exact ite_frame h1 (fillShadow_frame h1)
      · exact h
  · exact h

theorem deliver_frame {m a a0 a1 a2 a3 a4 a5} (g0 : Leaves m a a5) (hm : FieldsIn 0xb000000000000 m := by first | assumption | exact FieldsIn.of (by assumption) (by decide) | exact FieldsIn.refl _) : Leaves m a (deliver a0 a1 a2 a3 a4 a5) := by
  unfold deliver
  try dsimp only
  exact (finishCommand_frame (foldl_frame (fun _ _ h0 => (by (try dsimp only); first | (split; exact (writeFrame_frame h0); exact h0) | (split <;> first | exact (writeFrame_frame h0) | exact h0))) g0))

theorem execGroupedSlidingWindow_frame {m a a0 a1 a2 a3} (g0 : Leaves m a a3) (hm : FieldsIn 0xb000000000000 m := by first | assumption | exact FieldsIn.of (by assumption) (by decide) | exact FieldsIn.refl _) : LeavesOut m a (execGroupedSlidingWindow a0 a1 a2 a3) := by
  unfold execGroupedSlidingWindow
  try dsimp only
  exact (whenLive_frame g0 (fun _ h0 => (ite_frame (deliver_frame h0) h0)))

theorem execSlidingWindow_frame {m a a0 a1 a2 a3} (g0 : Leaves m a a3) (hm : FieldsIn 0xb000000000000 m := by first | assumption | exact FieldsIn.of (by assumption) (by decide) | exact FieldsIn.refl _) : LeavesOut m a (execSlidingWindow a0 a1 a2 a3) := by
  unfold execSlidingWindow
  try dsimp only
  exact (whenLive_frame g0 (fun _ h0 => (ite_frame (deliver_frame h0) h0)))

theorem execMatrixMultiply_frame {m a a0 a1 a2 a3} (g0 : Leaves m a a3) (hm : FieldsIn 0xb000000000000 m := by first | assumption | exact FieldsIn.of (by assumption) (by decide) | exact FieldsIn.refl _) : LeavesOut m a (execMatrixMultiply a0 a1 a2 a3) := by
  unfold execMatrixMultiply
  try dsimp only
  exact (whenLive_frame g0 (fun _ h0 => (ite_frame (deliver_frame h0) h0)))

theorem execElement_frame {m a a0 a1 a2 a3 a4 a5} (g0 : Leaves m a a5) (hm : FieldsIn 0xb000000000000 m := by first | assumption | exact FieldsIn.of (by assumption) (by decide) | exact FieldsIn.refl _) : Leaves m a (execElement a0 a1 a2 a3 a4 a5) := by
  unfold execElement
  try dsimp only
  exact (ite_frame (deliver_frame g0) g0)

theorem execElementConvert_frame {m a a0 a1 a2 a3} (g0 : Leaves m a a3) (hm : FieldsIn 0xb000000000000 m := by first | assumption | exact FieldsIn.of (by assumption) (by decide) | exact FieldsIn.refl _) : LeavesOut m a (execElementConvert a0 a1 a2 a3) := by
  unfold execElementConvert
  try dsimp only
  exact (whenLive_frame g0 (fun _ h0 => (execElement_frame h0)))

theorem execPool_frame {m a a0 a1 a2 a3 a4 a5} (g0 : Leaves m a a5) (hm : FieldsIn 0xb000000000000 m := by first | assumption | exact FieldsIn.of (by assumption) (by decide) | exact FieldsIn.refl _) : Leaves m a (execPool a0 a1 a2 a3 a4 a5) := by
  unfold execPool
  try dsimp only
  exact (ite_frame (deliver_frame g0) g0)

theorem execElementScaleAdd_frame {m a a0 a1 a2 a3} (g0 : Leaves m a a3) (hm : FieldsIn 0xb000000000000 m := by first | assumption | exact FieldsIn.of (by assumption) (by decide) | exact FieldsIn.refl _) : LeavesOut m a (execElementScaleAdd a0 a1 a2 a3) := by
  unfold execElementScaleAdd
  try dsimp only
  exact (whenLive_frame g0 (fun _ h0 => (execElement_frame h0)))

theorem execReduce_frame {m a a0 a1 a2 a3 a4 a5} (g0 : Leaves m a a5) (hm : FieldsIn 0xb000000000000 m := by first | assumption | exact FieldsIn.of (by assumption) (by decide) | exact FieldsIn.refl _) : Leaves m a (execReduce a0 a1 a2 a3 a4 a5) := by
  unfold execReduce
  try dsimp only
  exact (ite_frame (deliver_frame g0) g0)

theorem execRowSum_frame {m a a0 a1 a2 a3} (g0 : Leaves m a a3) (hm : FieldsIn 0xb000000000000 m := by first | assumption | exact FieldsIn.of (by assumption) (by decide) | exact FieldsIn.refl _) : LeavesOut m a (execRowSum a0 a1 a2 a3) := by
  unfold execRowSum
  try dsimp only
  exact (whenLive_frame g0 (fun _ h0 => (execReduce_frame h0)))

theorem execRowMaximum_frame {m a a0 a1 a2 a3} (g0 : Leaves m a a3) (hm : FieldsIn 0xb000000000000 m := by first | assumption | exact FieldsIn.of (by assumption) (by decide) | exact FieldsIn.refl _) : LeavesOut m a (execRowMaximum a0 a1 a2 a3) := by
  unfold execRowMaximum
  try dsimp only
  exact (whenLive_frame g0 (fun _ h0 => (execReduce_frame h0)))

theorem execRectifier_frame {m a a0 a1 a2 a3} (g0 : Leaves m a a3) (hm : FieldsIn 0xb000000000000 m := by first | assumption | exact FieldsIn.of (by assumption) (by decide) | exact FieldsIn.refl _) : LeavesOut m a (execRectifier a0 a1 a2 a3) := by
  unfold execRectifier
  try dsimp only
  exact (whenLive_frame g0 (fun _ h0 => (execElement_frame h0)))

theorem execElementMin_frame {m a a0 a1 a2 a3} (g0 : Leaves m a a3) (hm : FieldsIn 0xb000000000000 m := by first | assumption | exact FieldsIn.of (by assumption) (by decide) | exact FieldsIn.refl _) : LeavesOut m a (execElementMin a0 a1 a2 a3) := by
  unfold execElementMin
  try dsimp only
  exact (whenLive_frame g0 (fun _ h0 => (execElement_frame h0)))

theorem execPerPixelArgmax_frame {m a a0 a1 a2 a3} (g0 : Leaves m a a3) (hm : FieldsIn 0xb000000000000 m := by first | assumption | exact FieldsIn.of (by assumption) (by decide) | exact FieldsIn.refl _) : LeavesOut m a (execPerPixelArgmax a0 a1 a2 a3) := by
  unfold execPerPixelArgmax
  try dsimp only
  exact (whenLive_frame g0 (fun _ h0 => (ite_frame (deliver_frame h0) h0)))

theorem execRowMinimum_frame {m a a0 a1 a2 a3} (g0 : Leaves m a a3) (hm : FieldsIn 0xb000000000000 m := by first | assumption | exact FieldsIn.of (by assumption) (by decide) | exact FieldsIn.refl _) : LeavesOut m a (execRowMinimum a0 a1 a2 a3) := by
  unfold execRowMinimum
  try dsimp only
  exact (whenLive_frame g0 (fun _ h0 => (execReduce_frame h0)))

theorem execZeroRunCompression_frame {m a a0 a1 a2 a3} (g0 : Leaves m a a3) (hm : FieldsIn 0xb000000000002 m := by first | assumption | exact FieldsIn.of (by assumption) (by decide) | exact FieldsIn.refl _) : LeavesOut m a (execZeroRunCompression a0 a1 a2 a3) := by
  unfold execZeroRunCompression
  try dsimp only
  exact (whenLive_frame g0 (fun _ h0 => (ite_frame (deliver_frame (ite_frame (useFree_frame h0) h0)) h0)))

theorem execResample_frame {m a a0 a1 a2 a3 a4} (g0 : Leaves m a a4) (hm : FieldsIn 0xb000000000000 m := by first | assumption | exact FieldsIn.of (by assumption) (by decide) | exact FieldsIn.refl _) : Leaves m a (execResample a0 a1 a2 a3 a4) := by
  unfold execResample
  try dsimp only
  exact (ite_frame (deliver_frame g0) g0)

theorem execBicubicResampling_frame {m a a0 a1 a2 a3} (g0 : Leaves m a a3) (hm : FieldsIn 0xb000000000000 m := by first | assumption | exact FieldsIn.of (by assumption) (by decide) | exact FieldsIn.refl _) : LeavesOut m a (execBicubicResampling a0 a1 a2 a3) := by
  unfold execBicubicResampling
  try dsimp only
  exact (whenLive_frame g0 (fun _ h0 => (execResample_frame h0)))

theorem execZeroRunExpansion_frame {m a a0 a1 a2 a3} (g0 : Leaves m a a3) (hm : FieldsIn 0xb000000000000 m := by first | assumption | exact FieldsIn.of (by assumption) (by decide) | exact FieldsIn.refl _) : LeavesOut m a (execZeroRunExpansion a0 a1 a2 a3) := by
  unfold execZeroRunExpansion
  try dsimp only
  exact (whenLive_frame g0 (fun _ h0 => (ite_frame (deliver_frame h0) h0)))

theorem execPiecewiseLinearTable_frame {m a a0 a1 a2 a3} (g0 : Leaves m a a3) (hm : FieldsIn 0xb000000000000 m := by first | assumption | exact FieldsIn.of (by assumption) (by decide) | exact FieldsIn.refl _) : LeavesOut m a (execPiecewiseLinearTable a0 a1 a2 a3) := by
  unfold execPiecewiseLinearTable
  try dsimp only
  exact (whenLive_frame g0 (fun _ h0 => (execElement_frame h0)))

theorem execElementAffine_frame {m a a0 a1 a2 a3} (g0 : Leaves m a a3) (hm : FieldsIn 0xb000000000000 m := by first | assumption | exact FieldsIn.of (by assumption) (by decide) | exact FieldsIn.refl _) : LeavesOut m a (execElementAffine a0 a1 a2 a3) := by
  unfold execElementAffine
  try dsimp only
  exact (whenLive_frame g0 (fun _ h0 => (execElement_frame h0)))

theorem execLeakyRectifier_frame {m a a0 a1 a2 a3} (g0 : Leaves m a a3) (hm : FieldsIn 0xb000000000000 m := by first | assumption | exact FieldsIn.of (by assumption) (by decide) | exact FieldsIn.refl _) : LeavesOut m a (execLeakyRectifier a0 a1 a2 a3) := by
  unfold execLeakyRectifier
  try dsimp only
  exact (whenLive_frame g0 (fun _ h0 => (execElement_frame h0)))

theorem execRowSumOfSquares_frame {m a a0 a1 a2 a3} (g0 : Leaves m a a3) (hm : FieldsIn 0xb000000000000 m := by first | assumption | exact FieldsIn.of (by assumption) (by decide) | exact FieldsIn.refl _) : LeavesOut m a (execRowSumOfSquares a0 a1 a2 a3) := by
  unfold execRowSumOfSquares
  try dsimp only
  exact (whenLive_frame g0 (fun _ h0 => (execReduce_frame h0)))

theorem execElementMax_frame {m a a0 a1 a2 a3} (g0 : Leaves m a a3) (hm : FieldsIn 0xb000000000000 m := by first | assumption | exact FieldsIn.of (by assumption) (by decide) | exact FieldsIn.refl _) : LeavesOut m a (execElementMax a0 a1 a2 a3) := by
  unfold execElementMax
  try dsimp only
  exact (whenLive_frame g0 (fun _ h0 => (execElement_frame h0)))

theorem execAveragePoolingInput_frame {m a a0 a1 a2 a3} (g0 : Leaves m a a3) (hm : FieldsIn 0xb000000000000 m := by first | assumption | exact FieldsIn.of (by assumption) (by decide) | exact FieldsIn.refl _) : LeavesOut m a (execAveragePoolingInput a0 a1 a2 a3) := by
  unfold execAveragePoolingInput
  try dsimp only
  exact (whenLive_frame g0 (fun _ h0 => (execPool_frame h0)))

theorem execMaxPooling_frame {m a a0 a1 a2 a3} (g0 : Leaves m a a3) (hm : FieldsIn 0xb000000000000 m := by first | assumption | exact FieldsIn.of (by assumption) (by decide) | exact FieldsIn.refl _) : LeavesOut m a (execMaxPooling a0 a1 a2 a3) := by
  unfold execMaxPooling
  try dsimp only
  exact (whenLive_frame g0 (fun _ h0 => (execPool_frame h0)))

theorem execElementSubtract_frame {m a a0 a1 a2 a3} (g0 : Leaves m a a3) (hm : FieldsIn 0xb000000000000 m := by first | assumption | exact FieldsIn.of (by assumption) (by decide) | exact FieldsIn.refl _) : LeavesOut m a (execElementSubtract a0 a1 a2 a3) := by
  unfold execElementSubtract
  try dsimp only
  exact (whenLive_frame g0 (fun _ h0 => (execElement_frame h0)))

theorem execAveragePoolingWindow_frame {m a a0 a1 a2 a3} (g0 : Leaves m a a3) (hm : FieldsIn 0xb000000000000 m := by first | assumption | exact FieldsIn.of (by assumption) (by decide) | exact FieldsIn.refl _) : LeavesOut m a (execAveragePoolingWindow a0 a1 a2 a3) := by
  unfold execAveragePoolingWindow
  try dsimp only
  exact (whenLive_frame g0 (fun _ h0 => (execPool_frame h0)))

theorem execShuffle_frame {m a a0 a1 a2 a3 a4} (g0 : Leaves m a a4) (hm : FieldsIn 0xb000000000000 m := by first | assumption | exact FieldsIn.of (by assumption) (by decide) | exact FieldsIn.refl _) : Leaves m a (execShuffle a0 a1 a2 a3 a4) := by
  unfold execShuffle
  try dsimp only
  exact (ite_frame (deliver_frame g0) g0)

theorem execPixelUnshuffle_frame {m a a0 a1 a2 a3} (g0 : Leaves m a a3) (hm : FieldsIn 0xb000000000000 m := by first | assumption | exact FieldsIn.of (by assumption) (by decide) | exact FieldsIn.refl _) : LeavesOut m a (execPixelUnshuffle a0 a1 a2 a3) := by
  unfold execPixelUnshuffle
  try dsimp only
  exact (whenLive_frame g0 (fun _ h0 => (execShuffle_frame h0)))

theorem execElementMultiply_frame {m a a0 a1 a2 a3} (g0 : Leaves m a a3) (hm : FieldsIn 0xb000000000000 m := by first | assumption | exact FieldsIn.of (by assumption) (by decide) | exact FieldsIn.refl _) : LeavesOut m a (execElementMultiply a0 a1 a2 a3) := by
  unfold execElementMultiply
  try dsimp only
  exact (whenLive_frame g0 (fun _ h0 => (execElement_frame h0)))

theorem execElementClamp_frame {m a a0 a1 a2 a3} (g0 : Leaves m a a3) (hm : FieldsIn 0xb000000000000 m := by first | assumption | exact FieldsIn.of (by assumption) (by decide) | exact FieldsIn.refl _) : LeavesOut m a (execElementClamp a0 a1 a2 a3) := by
  unfold execElementClamp
  try dsimp only
  exact (whenLive_frame g0 (fun _ h0 => (execElement_frame h0)))

theorem execBilinearResampling_frame {m a a0 a1 a2 a3} (g0 : Leaves m a a3) (hm : FieldsIn 0xb000000000000 m := by first | assumption | exact FieldsIn.of (by assumption) (by decide) | exact FieldsIn.refl _) : LeavesOut m a (execBilinearResampling a0 a1 a2 a3) := by
  unfold execBilinearResampling
  try dsimp only
  exact (whenLive_frame g0 (fun _ h0 => (execResample_frame h0)))

theorem execElementAdd_frame {m a a0 a1 a2 a3} (g0 : Leaves m a a3) (hm : FieldsIn 0xb000000000000 m := by first | assumption | exact FieldsIn.of (by assumption) (by decide) | exact FieldsIn.refl _) : LeavesOut m a (execElementAdd a0 a1 a2 a3) := by
  unfold execElementAdd
  try dsimp only
  exact (whenLive_frame g0 (fun _ h0 => (execElement_frame h0)))

theorem execPixelShuffle_frame {m a a0 a1 a2 a3} (g0 : Leaves m a a3) (hm : FieldsIn 0xb000000000000 m := by first | assumption | exact FieldsIn.of (by assumption) (by decide) | exact FieldsIn.refl _) : LeavesOut m a (execPixelShuffle a0 a1 a2 a3) := by
  unfold execPixelShuffle
  try dsimp only
  exact (whenLive_frame g0 (fun _ h0 => (execShuffle_frame h0)))

theorem execTransform_frame {m a a0 a1 a2 a3 a4} (g0 : Leaves m a a4) (hm : FieldsIn 0xb000000000000 m := by first | assumption | exact FieldsIn.of (by assumption) (by decide) | exact FieldsIn.refl _) : Leaves m a (execTransform a0 a1 a2 a3 a4) := by
  unfold execTransform
  try dsimp only
  exact (ite_frame (deliver_frame g0) g0)

theorem execConvolution2dTransform_frame {m a a0 a1 a2 a3} (g0 : Leaves m a a3) (hm : FieldsIn 0xb000000000000 m := by first | assumption | exact FieldsIn.of (by assumption) (by decide) | exact FieldsIn.refl _) : LeavesOut m a (execConvolution2dTransform a0 a1 a2 a3) := by
  unfold execConvolution2dTransform
  try dsimp only
  exact (whenLive_frame g0 (fun _ h0 => (execTransform_frame h0)))

theorem execMulticastCopy_frame {m a a0 a1 a2 a3} (g0 : Leaves m a a3) (hm : FieldsIn 0xb000000000000 m := by first | assumption | exact FieldsIn.of (by assumption) (by decide) | exact FieldsIn.refl _) : LeavesOut m a (execMulticastCopy a0 a1 a2 a3) := by
  unfold execMulticastCopy
  try dsimp only
  exact (whenLive_frame g0 (fun _ h0 => (ite_frame (deliver_frame h0) h0)))

theorem execConvolutionAlongColumns_frame {m a a0 a1 a2 a3} (g0 : Leaves m a a3) (hm : FieldsIn 0xb000000000000 m := by first | assumption | exact FieldsIn.of (by assumption) (by decide) | exact FieldsIn.refl _) : LeavesOut m a (execConvolutionAlongColumns a0 a1 a2 a3) := by
  unfold execConvolutionAlongColumns
  try dsimp only
  exact (whenLive_frame g0 (fun _ h0 => (execTransform_frame h0)))

theorem execCisternStore_frame {m a a0 a1 a2 a3} (g0 : Leaves m a a3) (hm : FieldsIn 0xb000000000000 m := by first | assumption | exact FieldsIn.of (by assumption) (by decide) | exact FieldsIn.refl _) : LeavesOut m a (execCisternStore a0 a1 a2 a3) := by
  unfold execCisternStore
  try dsimp only
  exact (whenLive_frame g0 (fun _ h0 => (ite_frame (deliver_frame h0) h0)))

theorem execCisternLoad_frame {m a a0 a1 a2 a3} (g0 : Leaves m a a3) (hm : FieldsIn 0xb000000000000 m := by first | assumption | exact FieldsIn.of (by assumption) (by decide) | exact FieldsIn.refl _) : LeavesOut m a (execCisternLoad a0 a1 a2 a3) := by
  unfold execCisternLoad
  try dsimp only
  exact (whenLive_frame g0 (fun _ h0 => (ite_frame (deliver_frame h0) h0)))

theorem execConvolutionAlongLines_frame {m a a0 a1 a2 a3} (g0 : Leaves m a a3) (hm : FieldsIn 0xb000000000000 m := by first | assumption | exact FieldsIn.of (by assumption) (by decide) | exact FieldsIn.refl _) : LeavesOut m a (execConvolutionAlongLines a0 a1 a2 a3) := by
  unfold execConvolutionAlongLines
  try dsimp only
  exact (whenLive_frame g0 (fun _ h0 => (execTransform_frame h0)))

theorem execRegionCopy_frame {m a a0 a1 a2 a3} (g0 : Leaves m a a3) (hm : FieldsIn 0xb000000000000 m := by first | assumption | exact FieldsIn.of (by assumption) (by decide) | exact FieldsIn.refl _) : LeavesOut m a (execRegionCopy a0 a1 a2 a3) := by
  unfold execRegionCopy
  try dsimp only
  exact (whenLive_frame g0 (fun _ h0 => (ite_frame (deliver_frame h0) h0)))

theorem execStem_frame {m a a0 a1 a2 a3} (g0 : Leaves m a a3) (hm : FieldsIn 0xb000000000000 m := by first | assumption | exact FieldsIn.of (by assumption) (by decide) | exact FieldsIn.refl _) : LeavesOut m a (execStem a0 a1 a2 a3) := by
  unfold execStem
  try dsimp only
  exact (whenLive_frame g0 (fun _ h0 => (ite_frame (deliver_frame h0) h0)))

theorem pictureOut_frame {m a a0 a1 a2 a3 a4 a5 a6 a7} (g0 : Leaves m a a7) (hm : FieldsIn 0xb000000000000 m := by first | assumption | exact FieldsIn.of (by assumption) (by decide) | exact FieldsIn.refl _) : Leaves m a (pictureOut a0 a1 a2 a3 a4 a5 a6 a7) := by
  unfold pictureOut
  try dsimp only
  exact (deliver_frame g0)

theorem execHead_frame {m a a0 a1 a2 a3} (g0 : Leaves m a a3) (hm : FieldsIn 0xb000000000000 m := by first | assumption | exact FieldsIn.of (by assumption) (by decide) | exact FieldsIn.refl _) : LeavesOut m a (execHead a0 a1 a2 a3) := by
  unfold execHead
  try dsimp only
  exact (whenLive_frame g0 (fun _ h0 => (ite_frame (pictureOut_frame h0) h0)))

theorem execScaleAndSharpen_frame {m a a0 a1 a2 a3} (g0 : Leaves m a a3) (hm : FieldsIn 0xb000000000002 m := by first | assumption | exact FieldsIn.of (by assumption) (by decide) | exact FieldsIn.refl _) : LeavesOut m a (execScaleAndSharpen a0 a1 a2 a3) := by
  unfold execScaleAndSharpen
  try dsimp only
  exact (whenLive_frame g0 (fun _ h0 => (ite_frame (pictureOut_frame (ite_frame (useFree_frame h0) h0)) h0)))

theorem execGather_frame {m a a0 a1 a2 a3} (g0 : Leaves m a a3) (hm : FieldsIn 0xb000000000002 m := by first | assumption | exact FieldsIn.of (by assumption) (by decide) | exact FieldsIn.refl _) : LeavesOut m a (execGather a0 a1 a2 a3) := by
  unfold execGather
  try dsimp only
  exact (whenLive_frame g0 (fun _ h0 => (ite_frame (ite_frame (deliver_frame h0) (deliver_frame (ite_frame (useFree_frame h0) h0))) h0)))

theorem execAdvance_frame {m a a0 a1 a2 a3} (g0 : Leaves m a a3) (hm : FieldsIn 0xb000000000000 m := by first | assumption | exact FieldsIn.of (by assumption) (by decide) | exact FieldsIn.refl _) : LeavesOut m a (execAdvance a0 a1 a2 a3) := by
  unfold execAdvance
  try dsimp only
  exact (whenLive_frame g0 (fun _ h0 => (ite_frame (deliver_frame h0) h0)))

theorem execRelease_frame {m a a0 a1 a2 a3} (g0 : Leaves m a a3) (hm : FieldsIn 0xb000000000000 m := by first | assumption | exact FieldsIn.of (by assumption) (by decide) | exact FieldsIn.refl _) : LeavesOut m a (execRelease a0 a1 a2 a3) := by
  unfold execRelease
  try dsimp only
  exact (whenLive_frame g0 (fun _ h0 => (ite_frame (deliver_frame h0) h0)))

theorem execCopyA_frame {m a a0 a1 a2 a3} (g0 : Leaves m a a3) (hm : FieldsIn 0xb000000000000 m := by first | assumption | exact FieldsIn.of (by assumption) (by decide) | exact FieldsIn.refl _) : LeavesOut m a (execCopyA a0 a1 a2 a3) := by
  unfold execCopyA
  try dsimp only
  exact (whenLive_frame g0 (fun _ h0 => (ite_frame (deliver_frame h0) h0)))

theorem execEstimate_frame {m a a0 a1 a2 a3} (g0 : Leaves m a a3) (hm : FieldsIn 0xb000000000000 m := by first | assumption | exact FieldsIn.of (by assumption) (by decide) | exact FieldsIn.refl _) : LeavesOut m a (execEstimate a0 a1 a2 a3) := by
  unfold execEstimate
  try dsimp only
  exact (whenLive_frame g0 (fun _ h0 => (ite_frame (deliver_frame (updSlot_frame h0)) h0)))

theorem execMatchCorners_frame {m a a0 a1 a2 a3} (g0 : Leaves m a a3) (hm : FieldsIn 0xb000000000002 m := by first | assumption | exact FieldsIn.of (by assumption) (by decide) | exact FieldsIn.refl _) : LeavesOut m a (execMatchCorners a0 a1 a2 a3) := by
  unfold execMatchCorners
  try dsimp only
  exact (whenLive_frame g0 (fun _ h0 => (ite_frame (deliver_frame (useFree_frame h0)) h0)))

theorem execPyramidBuild_frame {m a a0 a1 a2 a3} (g0 : Leaves m a a3) (hm : FieldsIn 0xb000000000000 m := by first | assumption | exact FieldsIn.of (by assumption) (by decide) | exact FieldsIn.refl _) : LeavesOut m a (execPyramidBuild a0 a1 a2 a3) := by
  unfold execPyramidBuild
  try dsimp only
  exact (whenLive_frame g0 (fun _ h0 => (ite_frame (deliver_frame h0) h0)))

theorem execCorners_frame {m a a0 a1 a2 a3} (g0 : Leaves m a a3) (hm : FieldsIn 0xb000000000000 m := by first | assumption | exact FieldsIn.of (by assumption) (by decide) | exact FieldsIn.refl _) : LeavesOut m a (execCorners a0 a1 a2 a3) := by
  unfold execCorners
  try dsimp only
  exact (whenLive_frame g0 (fun _ h0 => (ite_frame (deliver_frame h0) h0)))

theorem execWarpAndBlend_frame {m a a0 a1 a2 a3} (g0 : Leaves m a a3) (hm : FieldsIn 0xb000000000000 m := by first | assumption | exact FieldsIn.of (by assumption) (by decide) | exact FieldsIn.refl _) : LeavesOut m a (execWarpAndBlend a0 a1 a2 a3) := by
  unfold execWarpAndBlend
  try dsimp only
  exact (whenLive_frame g0 (fun _ h0 => (ite_frame (deliver_frame h0) h0)))

theorem takePins_frame {m a a0 a1 a2 a3 a4} (g0 : Leaves m a a4) (hm : FieldsIn 0x9000000000000 m := by first | assumption | exact FieldsIn.of (by assumption) (by decide) | exact FieldsIn.refl _) : Leaves m a (takePins a0 a1 a2 a3 a4) := by
  unfold takePins
  try dsimp only
  exact (foldl_frame (fun _ _ h0 => (by (try dsimp only); first | (split; exact (updSlot_frame (pinFrame_frame h0)); exact h0) | (split <;> first | exact (updSlot_frame (pinFrame_frame h0)) | exact h0))) g0)

theorem takeShadows_frame {m a a0 a1 a2 a3 a4} (g0 : Leaves m a a4) (hm : FieldsIn 0x9000000000002 m := by first | assumption | exact FieldsIn.of (by assumption) (by decide) | exact FieldsIn.refl _) : Leaves m a (takeShadows a0 a1 a2 a3 a4) := by
  unfold takeShadows
  try dsimp only
  exact (foldl_frame (fun _ _ h0 => (by (try dsimp only); split; rename_i hq2; exact ((allocShadow_frame h0) _ hq2); exact h0)) g0)

theorem takeTag_frame {m a a0 a1 a2 a3 a4} (g0 : Leaves m a a4) (hm : FieldsIn 0x101000000000000 m := by first | assumption | exact FieldsIn.of (by assumption) (by decide) | exact FieldsIn.refl _) : Leaves m a (takeTag a0 a1 a2 a3 a4) := by
  unfold takeTag
  try dsimp only
  exact (by (try dsimp only); first | (split; exact (updSlot_frame (setTag_frame g0)); exact g0) | (split <;> first | exact (updSlot_frame (setTag_frame g0)) | exact g0))

theorem startCommand_frame {m a a0 a1 a2 a3} (g0 : Leaves m a a3) (hm : FieldsIn 0x830000300003a0013b800004000006 m := by first | assumption | exact FieldsIn.of (by assumption) (by decide) | exact FieldsIn.refl _) : Leaves m a (startCommand a0 a1 a2 a3) := by
  have h1 : ∀ {x pl}, Leaves m a (takeTag a0 a1 a2 pl (takeShadows a0 a1 a2 pl (takePins a0 a1 a2 pl (setSlot a0 a1 a2 x a3)))) :=
    takeTag_frame (takeShadows_frame (takePins_frame (setSlot_frame g0)))
  have h2 : ∀ {s point v w}, Leaves m a s → Leaves m a { s with tl := { s.tl with turns := mapSet 0 s.tl.turns point v }, now := { s.now with won := w } } :=
    fun {s point v _} h => upd_now_frame (s := { s with tl := { s.tl with turns := mapSet 0 s.tl.turns point v } }) (upd_tl_frame h)
  unfold startCommand
  refine moveHead_frame (ite_frame (perturb_frame (h2 ?_)) (h2 ?_)) <;>
    (split <;> [exact setUnit_frame h1; exact h1])

theorem execFence_frame {m a a0 a1 a2 a3} (g0 : Leaves m a a3) (hm : FieldsIn 0x3000000000000 m := by first | assumption | exact FieldsIn.of (by assumption) (by decide) | exact FieldsIn.refl _) : LeavesOut m a (execFence a0 a1 a2 a3) := by
  unfold execFence
  try dsimp only
  exact (whenLive_frame g0 (fun _ h0 => (ite_frame (finishCommand_frame h0) h0)))

theorem preempt_frame {m a a0 a1 a2 a3} (g0 : Leaves m a a3) (hm : FieldsIn 0x80021800000000000 m := by first | assumption | exact FieldsIn.of (by assumption) (by decide) | exact FieldsIn.refl _) : Leaves m a (preempt a0 a1 a2 a3) := by
  unfold preempt
  try dsimp only
  exact (by (try dsimp only); first | (split; exact g0; exact (startKill_frame g0)) | (split <;> first | exact g0 | exact (startKill_frame g0)))

theorem execDispatch_frame {m a a0 a1 a2} (g0 : Leaves m a a2) (hm : FieldsIn 0x830000300003ac013ba00004000006 m := by first | assumption | exact FieldsIn.of (by assumption) (by decide) | exact FieldsIn.refl _) : LeavesOut m a (execDispatch a0 a1 a2) := by
  unfold execDispatch
  try dsimp only
  exact (whenLive_frame g0 (fun _ h0 => (by (try dsimp only); first | (split; exact h0; exact (by (try dsimp only); first | (split; exact (refuseCommand_frame h0); exact (by (try dsimp only); first | (split; exact h0; exact (ite_frame (ite_frame (startCommand_frame h0) (preempt_frame h0)) h0)) | (split <;> first | exact h0 | exact (ite_frame (ite_frame (startCommand_frame h0) (preempt_frame h0)) h0)))) | (split <;> first | exact (refuseCommand_frame h0) | exact (by (try dsimp only); first | (split; exact h0; exact (ite_frame (ite_frame (startCommand_frame h0) (preempt_frame h0)) h0)) | (split <;> first | exact h0 | exact (ite_frame (ite_frame (startCommand_frame h0) (preempt_frame h0)) h0)))))) | (split <;> first | exact h0 | exact (by (try dsimp only); first | (split; exact (refuseCommand_frame h0); exact (by (try dsimp only); first | (split; exact h0; exact (ite_frame (ite_frame (startCommand_frame h0) (preempt_frame h0)) h0)) | (split <;> first | exact h0 | exact (ite_frame (ite_frame (startCommand_frame h0) (preempt_frame h0)) h0)))) | (split <;> first | exact (refuseCommand_frame h0) | exact (by (try dsimp only); first | (split; exact h0; exact (ite_frame (ite_frame (startCommand_frame h0) (preempt_frame h0)) h0)) | (split <;> first | exact h0 | exact (ite_frame (ite_frame (startCommand_frame h0) (preempt_frame h0)) h0)))))))))

theorem setSyncStatus_frame {m a a0 a1 a2} (g0 : Leaves m a a2) (hm : FieldsIn 0x4 m := by first | assumption | exact FieldsIn.of (by assumption) (by decide) | exact FieldsIn.refl _) : Leaves m a (setSyncStatus a0 a1 a2) := by
  unfold setSyncStatus
  try dsimp only
  exact (setObj_frame g0)

theorem fillSome_frame {m a a0 a1 a2} (g0 : Leaves m a a2) (hm : FieldsIn 0x10000000009800000000000000004 m := by first | assumption | exact FieldsIn.of (by assumption) (by decide) | exact FieldsIn.refl _) : Leaves m a (fillSome a0 a1 a2) := by
  have h0 : ∀ {f s}, Leaves m a s → Leaves m a (fillSome 0 f s) := by
    intro f s h
    unfold fillSome
    exact setSyncStatus_frame (upd_sy_frame h)
  induction a0 generalizing a1 a2 with
  | zero => exact h0 g0
  | succ n ih =>
    unfold fillSome
    split
    · exact h0 g0
    · exact ih (sendUpdate_frame g0)

theorem answerCount_frame {m a a0 a1 a2 a3} (g0 : Leaves m a a3) (hm : FieldsIn 0x9 m := by first | assumption | exact FieldsIn.of (by assumption) (by decide) | exact FieldsIn.refl _) : Leaves m a (answerCount a0 a1 a2 a3) := by
  unfold answerCount
  try dsimp only
  exact (ite_frame (emit_frame g0) (answer_frame g0))

theorem readCount_frame {m a a0 a1 a2 a3} (g0 : Leaves m a a3) (hm : FieldsIn 0x4000000000000000009 m := by first | assumption | exact FieldsIn.of (by assumption) (by decide) | exact FieldsIn.refl _) : Leaves m a (readCount a0 a1 a2 a3) := by
  unfold readCount
  try dsimp only
  exact (ite_frame (setParked_frame g0) (answerCount_frame g0))

theorem softUpdate_frame {m a a0 a1 a2 a3 a4} (g0 : Leaves m a a4) (hm : FieldsIn 0x90000000001840000000000000000 m := by first | assumption | exact FieldsIn.of (by assumption) (by decide) | exact FieldsIn.refl _) : Leaves m a (softUpdate a0 a1 a2 a3 a4) := by
  unfold softUpdate
  try dsimp only
  exact (by (try dsimp only); first | (split; exact (ite_frame (deferEvent_frame g0) (sendUpdate_frame g0)); exact (sendUpdate_frame g0)) | (split <;> first | exact (ite_frame (deferEvent_frame g0) (sendUpdate_frame g0)) | exact (sendUpdate_frame g0)))

theorem apertureAccess_frame {m a a0 a1 a2 a3 a4} (g0 : Leaves m a a4) (hm : FieldsIn 0x90000000005840000000000000009 m := by first | assumption | exact FieldsIn.of (by assumption) (by decide) | exact FieldsIn.refl _) : Leaves m a (apertureAccess a0 a1 a2 a3 a4) := by
  unfold apertureAccess
  try dsimp only
  exact (by (try dsimp only); first | (split; exact (ite_frame (readCount_frame g0) (answer_frame g0)); exact (ite_frame (softUpdate_frame g0) (ite_frame (softUpdate_frame (softUpdate_frame g0)) g0))) | (split <;> first | exact (ite_frame (readCount_frame g0) (answer_frame g0)) | exact (ite_frame (softUpdate_frame g0) (ite_frame (softUpdate_frame (softUpdate_frame g0)) g0))))

theorem execApertureAdd_frame {m a a0 a1 a2 a3} (g0 : Leaves m a a3) (hm : FieldsIn 0x90000000005840000000000000009 m := by first | assumption | exact FieldsIn.of (by assumption) (by decide) | exact FieldsIn.refl _) : LeavesOut m a (execApertureAdd a0 a1 a2 a3) := by
  unfold execApertureAdd
  try dsimp only
  exact (whenFree_frame g0 (fun _ h0 => (apertureAccess_frame h0)))

theorem syncNext_frame {m a a0} (g0 : Leaves m a a0) (hm : FieldsIn 0x4 m := by first | assumption | exact FieldsIn.of (by assumption) (by decide) | exact FieldsIn.refl _) : Leaves m a (syncNext a0) := by
  unfold syncNext
  try dsimp only
  exact (setObj_frame g0)

theorem readSyncData_frame {m a a0 a1 a2} (g0 : Leaves m a a2) (hm : FieldsIn 0x400000000000000000d m := by first | assumption | exact FieldsIn.of (by assumption) (by decide) | exact FieldsIn.refl _) : Leaves m a (readSyncData a0 a1 a2) := by
  unfold readSyncData
  try dsimp only
  exact (readCount_frame (ite_frame g0 (syncNext_frame g0)))

theorem writeLow_frame {m a a0 a1 a2 a3} (g0 : Leaves m a a3) (hm : FieldsIn 0x8 m := by first | assumption | exact FieldsIn.of (by assumption) (by decide) | exact FieldsIn.refl _) : Leaves m a (writeLow a0 a1 a2 a3).1 := by
  unfold writeLow
  try dsimp only
  exact (setLatches_frame g0)

theorem readHigh_frame {m a a0 a1 a2 a3} (g0 : Leaves m a a3) (hm : FieldsIn 0x9 m := by first | assumption | exact FieldsIn.of (by assumption) (by decide) | exact FieldsIn.refl _) : Leaves m a (readHigh a0 a1 a2 a3) := by
  unfold readHigh
  try dsimp only
  exact (by (try dsimp only); first | (split; exact (answer_frame g0); exact (answer_frame g0)) | (split <;> first | exact (answer_frame g0)))

theorem wHostWatch_frame {m a a0 a1 a2 a3} (g0 : Leaves m a a3) (hm : FieldsIn 0x10000000011800000000000000004 m := by first | assumption | exact FieldsIn.of (by assumption) (by decide) | exact FieldsIn.refl _) : Leaves m a (wHostWatch a0 a1 a2 a3).1 := by
  unfold wHostWatch
  try dsimp only
  exact (ite_fst_frame (fst_frame (sendProbe_frame (upd_sy_frame (setObj_frame g0)))) (fst_frame (upd_sy_frame (setObj_frame g0))))

theorem execHostWatchDisarm_frame {m a a0 a1 a2 a3} (g0 : Leaves m a a3) (hm : FieldsIn 0x10000000015800000000000000004 m := by first | assumption | exact FieldsIn.of (by assumption) (by decide) | exact FieldsIn.refl _) : LeavesOut m a (execHostWatchDisarm a0 a1 a2 a3) := by
  unfold execHostWatchDisarm
  try dsimp only
  exact (whenFree_frame g0 (fun _ h0 => (ackWrite_frame (wHostWatch_frame h0))))

theorem writeHigh_frame {m a a0 a1 a2 a3 a4} (g0 : ∀ y0 y1, Leaves m a y1 → Leaves m a (a3 y0 y1).1) (g1 : Leaves m a a4) (hm : FieldsIn 0x80000030000000000000000400000c m := by first | assumption | exact FieldsIn.of (by assumption) (by decide) | exact FieldsIn.refl _) : Leaves m a (writeHigh a0 a1 a2 a3 a4).1 := by
  unfold writeHigh
  try dsimp only
  exact (by (try dsimp only); first | (split; exact (ite_fst_frame (g0 _ _ (setLatches_frame g1)) (fst_frame (refuse_frame g1))); exact (fst_frame (refuse_frame g1))) | (split <;> first | exact (ite_fst_frame (g0 _ _ (setLatches_frame g1)) (fst_frame (refuse_frame g1))) | exact (fst_frame (refuse_frame g1))))

theorem unmaskVector_frame {m a a0 a1 a2} (g0 : Leaves m a a2) (hm : FieldsIn 0x2000000000000000000001 m := by first | assumption | exact FieldsIn.of (by assumption) (by decide) | exact FieldsIn.refl _) : Leaves m a (unmaskVector a0 a1 a2) := by
  unfold unmaskVector
  try dsimp only
  exact (ite_frame (emit_frame (notePosted_frame (setPcie_frame g0))) (setPcie_frame g0))

theorem execMsixVectorUnmask_frame {m a a0 a1 a2} (g0 : Leaves m a a2) (hm : FieldsIn 0x2000000000000000000001 m := by first | assumption | exact FieldsIn.of (by assumption) (by decide) | exact FieldsIn.refl _) : LeavesOut m a (execMsixVectorUnmask a0 a1 a2) := by
  unfold execMsixVectorUnmask
  try dsimp only
  exact (whenLive_frame g0 (fun _ h0 => (unmaskVector_frame h0)))

theorem onObject_frame {m a a0 a1 a2} (g0 : ∀ y0, Leaves m a y0 → Leaves m a (a1 y0)) (g1 : Leaves m a a2) (hm : FieldsIn 0x4 m := by first | assumption | exact FieldsIn.of (by assumption) (by decide) | exact FieldsIn.refl _) : Leaves m a (onObject a0 a1 a2) := by
  unfold onObject
  try dsimp only
  exact (ite_frame (g0 _ g1) (addObj_frame g1))

theorem wCmdData_frame {m a a0 a1 a2 a3} (g0 : Leaves m a a3) (hm : FieldsIn 0x800000300000000001000004000004 m := by first | assumption | exact FieldsIn.of (by assumption) (by decide) | exact FieldsIn.refl _) : Leaves m a (wCmdData a0 a1 a2 a3).1 := by
  unfold wCmdData
  try dsimp only
  exact (ite_fst_frame (fst_frame g0) (ite_fst_frame (fst_frame (refuseEngine_frame g0)) (fst_frame (setObj_frame (updSlot_frame g0)))))

theorem execCmdDataWrite_frame {m a a0 a1 a2 a3} (g0 : Leaves m a a3) (hm : FieldsIn 0x800000300004000001000004000004 m := by first | assumption | exact FieldsIn.of (by assumption) (by decide) | exact FieldsIn.refl _) : LeavesOut m a (execCmdDataWrite a0 a1 a2 a3) := by
  unfold execCmdDataWrite
  try dsimp only
  exact (whenFree_frame g0 (fun _ h0 => (onObject_frame (fun _ h1 => (ackWrite_frame (wCmdData_frame h1))) h0)))

theorem wSync_frame {m a a0 a1 a2 a3 a4} (g0 : Leaves m a a4) (hm : FieldsIn 0x890000300001840000000004000004 m := by first | assumption | exact FieldsIn.of (by assumption) (by decide) | exact FieldsIn.refl _) : Leaves m a (wSync a0 a1 a2 a3 a4).1 := by
  unfold wSync
  try dsimp only
  exact (ite_fst_frame (fst_frame (refuse_frame g0)) (fst_frame (syncNext_frame (softUpdate_frame g0))))

theorem execSyncDataWrite_frame {m a a0 a1 a2} (g0 : Leaves m a a2) (hm : FieldsIn 0x890000300005840000000004000004 m := by first | assumption | exact FieldsIn.of (by assumption) (by decide) | exact FieldsIn.refl _) : LeavesOut m a (execSyncDataWrite a0 a1 a2) := by
  unfold execSyncDataWrite
  try dsimp only
  exact (whenFree_frame g0 (fun _ h0 => (ackWrite_frame (wSync_frame h0))))

theorem execApertureSet_frame {m a a0 a1 a2 a3} (g0 : Leaves m a a3) (hm : FieldsIn 0x90000000005840000000000000009 m := by first | assumption | exact FieldsIn.of (by assumption) (by decide) | exact FieldsIn.refl _) : LeavesOut m a (execApertureSet a0 a1 a2 a3) := by
  unfold execApertureSet
  try dsimp only
  exact (whenFree_frame g0 (fun _ h0 => (apertureAccess_frame h0)))

theorem wCmdCursor_frame {m a a0 a1 a2 a3} (g0 : Leaves m a a3) (hm : FieldsIn 0x800000300000000000000004000004 m := by first | assumption | exact FieldsIn.of (by assumption) (by decide) | exact FieldsIn.refl _) : Leaves m a (wCmdCursor a0 a1 a2 a3).1 := by
  unfold wCmdCursor
  try dsimp only
  exact (ite_fst_frame (fst_frame (refuseEngine_frame g0)) (fst_frame (setObj_frame g0)))

theorem maskVector_frame {m a a0 a1 a2} (g0 : Leaves m a a2) (hm : FieldsIn 0x2000000000000000000000 m := by first | assumption | exact FieldsIn.of (by assumption) (by decide) | exact FieldsIn.refl _) : Leaves m a (maskVector a0 a1 a2) := by
  unfold maskVector
  try dsimp only
  exact (setPcie_frame g0)

theorem execSyncAdd_frame {m a a0 a1 a2} (g0 : Leaves m a a2) (hm : FieldsIn 0x890000300005840000000004000004 m := by first | assumption | exact FieldsIn.of (by assumption) (by decide) | exact FieldsIn.refl _) : LeavesOut m a (execSyncAdd a0 a1 a2) := by
  unfold execSyncAdd
  try dsimp only
  exact (whenFree_frame g0 (fun _ h0 => (ackWrite_frame (wSync_frame h0))))

theorem readCmdData_frame {m a a0 a1} (g0 : Leaves m a a1) (hm : FieldsIn 0x4 m := by first | assumption | exact FieldsIn.of (by assumption) (by decide) | exact FieldsIn.refl _) : Leaves m a (readCmdData a0 a1).2 := by
  unfold readCmdData
  try dsimp only
  exact (setObj_frame g0)

theorem onRead_frame {m a a0 a1 a2 a3} (g0 : ∀ y0, Leaves m a y0 → Leaves m a (a2 y0).2) (g1 : Leaves m a a3) (hm : FieldsIn 0xd m := by first | assumption | exact FieldsIn.of (by assumption) (by decide) | exact FieldsIn.refl _) : Leaves m a (onRead a0 a1 a2 a3) := by
  unfold onRead
  try dsimp only
  exact (ite_frame (answer_frame (g0 _ g1)) (absentRead_frame g1))

theorem execCmdDataRead_frame {m a a0 a1 a2} (g0 : Leaves m a a2) (hm : FieldsIn 0x400000000000000000d m := by first | assumption | exact FieldsIn.of (by assumption) (by decide) | exact FieldsIn.refl _) : LeavesOut m a (execCmdDataRead a0 a1 a2) := by
  unfold execCmdDataRead
  try dsimp only
  exact (whenFree_frame g0 (fun _ h0 => (onRead_frame (fun _ h1 => (readCmdData_frame h1)) h0)))

theorem wBankOwner_frame {m a a0 a1 a2 a3} (g0 : Leaves m a a3) (hm : FieldsIn 0x800000300000000000000004000004 m := by first | assumption | exact FieldsIn.of (by assumption) (by decide) | exact FieldsIn.refl _) : Leaves m a (wBankOwner a0 a1 a2 a3).1 := by
  unfold wBankOwner
  try dsimp only
  exact (ite_fst_frame (fst_frame (refuse_frame g0)) (fst_frame (setObj_frame g0)))

theorem wBankValid_frame {m a a0 a1 a2 a3} (g0 : Leaves m a a3) (hm : FieldsIn 0x800000300000000000000004000004 m := by first | assumption | exact FieldsIn.of (by assumption) (by decide) | exact FieldsIn.refl _) : Leaves m a (wBankValid a0 a1 a2 a3).1 := by
  unfold wBankValid
  try dsimp only
  exact (ite_fst_frame (fst_frame (refuse_frame g0)) (fst_frame (setObj_frame g0)))

theorem execBankOwnerWrite_frame {m a a0 a1 a2 a3 a4 a5} (g0 : Leaves m a a5) (hm : FieldsIn 0x80000030000400000000000400000c m := by first | assumption | exact FieldsIn.of (by assumption) (by decide) | exact FieldsIn.refl _) : LeavesOut m a (execBankOwnerWrite a0 a1 a2 a3 a4 a5) := by
  unfold execBankOwnerWrite
  try dsimp only
  exact (whenFree_frame g0 (fun _ h0 => (ite_frame (ackWrite_frame (wBankValid_frame h0)) (ite_frame (ackWrite_frame (writeHigh_frame (fun _ _ h1 => (wBankOwner_frame h1)) h0)) (ackWrite_frame (writeLow_frame h0))))))

theorem wSyncFill_frame {m a a0 a1 a2} (g0 : Leaves m a a2) (hm : FieldsIn 0x800000300008000000000004000004 m := by first | assumption | exact FieldsIn.of (by assumption) (by decide) | exact FieldsIn.refl _) : Leaves m a (wSyncFill a0 a1 a2).1 := by
  unfold wSyncFill
  try dsimp only
  exact (ite_fst_frame (fst_frame (refuse_frame g0)) (ite_fst_frame (fst_frame (refuse_frame g0)) (ite_fst_frame (fst_frame (refuse_frame g0)) (fst_frame (setSyncStatus_frame (upd_sy_frame g0))))))

theorem execSyncFill_frame {m a a0 a1} (g0 : Leaves m a a1) (hm : FieldsIn 0x80000030000c000000000004000004 m := by first | assumption | exact FieldsIn.of (by assumption) (by decide) | exact FieldsIn.refl _) : LeavesOut m a (execSyncFill a0 a1) := by
  unfold execSyncFill
  try dsimp only
  exact (whenFree_frame g0 (fun _ h0 => (ackWrite_frame (wSyncFill_frame h0))))

theorem execHostWatchArm_frame {m a a0 a1 a2 a3} (g0 : Leaves m a a3) (hm : FieldsIn 0x10000000015800000000000000004 m := by first | assumption | exact FieldsIn.of (by assumption) (by decide) | exact FieldsIn.refl _) : LeavesOut m a (execHostWatchArm a0 a1 a2 a3) := by
  unfold execHostWatchArm
  try dsimp only
  exact (whenFree_frame g0 (fun _ h0 => (ackWrite_frame (wHostWatch_frame h0))))

theorem readPeek_frame {m a a0 a1} (g0 : Leaves m a a1) (hm : FieldsIn 0x4 m := by first | assumption | exact FieldsIn.of (by assumption) (by decide) | exact FieldsIn.refl _) : Leaves m a (readPeek a0 a1).2 := by
  unfold readPeek
  try dsimp only
  exact (by (try dsimp only); first | (split; exact (snd_frame (setObj_frame g0)); exact (snd_frame g0)) | (split <;> first | exact (snd_frame (setObj_frame g0)) | exact (snd_frame g0)))

theorem execPeekDataRead_frame {m a a0 a1 a2} (g0 : Leaves m a a2) (hm : FieldsIn 0x400000000000000000d m := by first | assumption | exact FieldsIn.of (by assumption) (by decide) | exact FieldsIn.refl _) : LeavesOut m a (execPeekDataRead a0 a1 a2) := by
  unfold execPeekDataRead
  try dsimp only
  exact (whenFree_frame g0 (fun _ h0 => (answer_frame (readPeek_frame h0))))

theorem wSyncPlain_frame {m a a0 a1 a2 a3} (g0 : Leaves m a a3) (hm : FieldsIn 0x800000300000000000000004000004 m := by first | assumption | exact FieldsIn.of (by assumption) (by decide) | exact FieldsIn.refl _) : Leaves m a (wSyncPlain a0 a1 a2 a3).1 := by
  unfold wSyncPlain
  try dsimp only
  exact (ite_fst_frame (fst_frame (refuse_frame g0)) (fst_frame (setObj_frame g0)))

theorem execSyncDataRead_frame {m a a0 a1} (g0 : Leaves m a a1) (hm : FieldsIn 0x400000000000000000d m := by first | assumption | exact FieldsIn.of (by assumption) (by decide) | exact FieldsIn.refl _) : LeavesOut m a (execSyncDataRead a0 a1) := by
  unfold execSyncDataRead
  try dsimp only
  exact (whenFree_frame g0 (fun _ h0 => (readSyncData_frame h0)))

theorem execSyncFillComplete_frame {m a a0} (g0 : Leaves m a a0) (hm : FieldsIn 0x8000000000000000004 m := by first | assumption | exact FieldsIn.of (by assumption) (by decide) | exact FieldsIn.refl _) : LeavesOut m a (execSyncFillComplete a0) := by
  unfold execSyncFillComplete
  try dsimp only
  exact (whenLive_frame g0 (fun _ h0 => (by (try dsimp only); first | (split; exact h0; exact (ite_frame (setSyncStatus_frame (setObj_frame (upd_sy_frame h0))) h0)) | (split <;> first | exact h0 | exact (ite_frame (setSyncStatus_frame (setObj_frame (upd_sy_frame h0))) h0)))))

theorem readLow_frame {m a a0 a1 a2 a3} (g0 : Leaves m a a3) (hm : FieldsIn 0x9 m := by first | assumption | exact FieldsIn.of (by assumption) (by decide) | exact FieldsIn.refl _) : Leaves m a (readLow a0 a1 a2 a3) := by
  unfold readLow
  try dsimp only
  exact (emit_frame (setLatches_frame g0))

theorem writeMsixWord_frame {m a a0 a1 a2 a3} (g0 : Leaves m a a3) (hm : FieldsIn 0xa000000000000000000001 m := by first | assumption | exact FieldsIn.of (by assumption) (by decide) | exact FieldsIn.refl _) : Leaves m a (writeMsixWord a0 a1 a2 a3) := by
  unfold writeMsixWord
  try dsimp only
  exact (ite_frame (upd_io_frame g0) (ite_frame (maskVector_frame (upd_io_frame g0)) (unmaskVector_frame (upd_io_frame g0))))

theorem wBinding_frame {m a a0 a1 a2 a3 a4} (g0 : Leaves m a a4) (hm : FieldsIn 0x800000300000000000800004000004 m := by first | assumption | exact FieldsIn.of (by assumption) (by decide) | exact FieldsIn.refl _) : Leaves m a (wBinding a0 a1 a2 a3 a4).1 := by
  unfold wBinding
  try dsimp only
  exact (ite_fst_frame (fst_frame (setObj_frame (setQueue_frame g0))) (fst_frame (refuseEngine_frame g0)))

theorem execQueueBindingWrite_frame {m a a0 a1 a2 a3 a4} (g0 : Leaves m a a4) (hm : FieldsIn 0x800000300004000000800004000004 m := by first | assumption | exact FieldsIn.of (by assumption) (by decide) | exact FieldsIn.refl _) : LeavesOut m a (execQueueBindingWrite a0 a1 a2 a3 a4) := by
  unfold execQueueBindingWrite
  try dsimp only
  exact (whenFree_frame g0 (fun _ h0 => (ite_frame (onObject_frame (fun _ h1 => (ackWrite_frame (wBinding_frame h1))) h0) (addObj_frame h0))))

theorem perfClearAll_frame {m a a0} (g0 : Leaves m a a0) (hm : FieldsIn 0x4 m := by first | assumption | exact FieldsIn.of (by assumption) (by decide) | exact FieldsIn.refl _) : Leaves m a (perfClearAll a0) := by
  unfold perfClearAll
  try dsimp only
  exact (foldl_frame (fun _ _ h0 => (perfLoad_frame h0)) g0)

theorem perfSampleAll_frame {m a a0} (g0 : Leaves m a a0) (hm : FieldsIn 0x4 m := by first | assumption | exact FieldsIn.of (by assumption) (by decide) | exact FieldsIn.refl _) : Leaves m a (perfSampleAll a0) := by
  unfold perfSampleAll
  try dsimp only
  exact (setObj_frame (foldl_frame (fun _ _ h0 => (setObj_frame h0)) g0))

theorem wPerfCommand_frame {m a a0 a1 a2} (g0 : Leaves m a a2) (hm : FieldsIn 0x800000300000000000000004000004 m := by first | assumption | exact FieldsIn.of (by assumption) (by decide) | exact FieldsIn.refl _) : Leaves m a (wPerfCommand a0 a1 a2).1 := by
  unfold wPerfCommand
  try dsimp only
  exact (ite_fst_frame (fst_frame (perfSampleAll_frame g0)) (ite_fst_frame (fst_frame (perfClearAll_frame g0)) (fst_frame (refuse_frame g0))))

theorem execPerfClear_frame {m a a0 a1} (g0 : Leaves m a a1) (hm : FieldsIn 0x800000300004000000000004000004 m := by first | assumption | exact FieldsIn.of (by assumption) (by decide) | exact FieldsIn.refl _) : LeavesOut m a (execPerfClear a0 a1) := by
  unfold execPerfClear
  try dsimp only
  exact (whenFree_frame g0 (fun _ h0 => (ackWrite_frame (wPerfCommand_frame h0))))

theorem almanacDone_frame {m a a0 a1} (g0 : Leaves m a a1) (hm : FieldsIn 0x800000300000000000000004000004 m := by first | assumption | exact FieldsIn.of (by assumption) (by decide) | exact FieldsIn.refl _) : Leaves m a (almanacDone a0 a1) := by
  unfold almanacDone
  try dsimp only
  exact (capture_frame g0)

theorem clearCirculatingAction_frame {m a a0} (g0 : Leaves m a a0) (hm : FieldsIn 0x440000000000000000000004 m := by first | assumption | exact FieldsIn.of (by assumption) (by decide) | exact FieldsIn.refl _) : Leaves m a (clearCirculatingAction a0) := by
  unfold clearCirculatingAction
  try dsimp only
  exact (setObj_frame (upd_alm_frame g0))

theorem clearPermanentAction_frame {m a a0 a1} (g0 : Leaves m a a1) (hm : FieldsIn 0xe0c0000000000000000000004 m := by first | assumption | exact FieldsIn.of (by assumption) (by decide) | exact FieldsIn.refl _) : Leaves m a (clearPermanentAction a0 a1) := by
  unfold clearPermanentAction
  try dsimp only
  exact (setObj_frame (upd_alm_frame g0))

theorem wAlmanacCommand_frame {m a a0 a1 a2} (g0 : Leaves m a a2) (hm : FieldsIn 0x80000efc0000000000000004000004 m := by first | assumption | exact FieldsIn.of (by assumption) (by decide) | exact FieldsIn.refl _) : Leaves m a (wAlmanacCommand a0 a1 a2).1 := by
  unfold wAlmanacCommand
  try dsimp only
  exact (ite_fst_frame (fst_frame (almanacDone_frame (upd_alm_frame g0))) (ite_fst_frame (fst_frame (almanacDone_frame (upd_alm_frame g0))) (ite_fst_frame (fst_frame (almanacDone_frame (clearCirculatingAction_frame g0))) (ite_fst_frame (by (try dsimp only); first | (split; exact (fst_frame (almanacDone_frame (clearPermanentAction_frame g0))); exact (fst_frame (refuse_frame g0))) | (split <;> first | exact (fst_frame (almanacDone_frame (clearPermanentAction_frame g0))) | exact (fst_frame (refuse_frame g0)))) (fst_frame (refuse_frame g0))))))

theorem execClearCirculating_frame {m a a0 a1} (g0 : Leaves m a a1) (hm : FieldsIn 0x80000efc0004000000000004000004 m := by first | assumption | exact FieldsIn.of (by assumption) (by decide) | exact FieldsIn.refl _) : LeavesOut m a (execClearCirculating a0 a1) := by
  unfold execClearCirculating
  try dsimp only
  exact (whenFree_frame g0 (fun _ h0 => (ackWrite_frame (wAlmanacCommand_frame h0))))

theorem wPerfEvent_frame {m a a0 a1 a2 a3} (g0 : Leaves m a a3) (hm : FieldsIn 0x8000c0300000000000000004000004 m := by first | assumption | exact FieldsIn.of (by assumption) (by decide) | exact FieldsIn.refl _) : Leaves m a (wPerfEvent a0 a1 a2 a3).1 := by
  unfold wPerfEvent
  try dsimp only
  exact (ite_fst_frame (fst_frame (setObj_frame (setObj_frame (upd_now_frame g0)))) (fst_frame (refuse_frame g0)))

theorem execPerfEventWrite_frame {m a a0 a1 a2 a3} (g0 : Leaves m a a3) (hm : FieldsIn 0x8000c0300004000000000004000004 m := by first | assumption | exact FieldsIn.of (by assumption) (by decide) | exact FieldsIn.refl _) : LeavesOut m a (execPerfEventWrite a0 a1 a2 a3) := by
  unfold execPerfEventWrite
  try dsimp only
  exact (whenFree_frame g0 (fun _ h0 => (ackWrite_frame (wPerfEvent_frame h0))))

theorem flashErase_frame {m a a0 a1 a2} (g0 : Leaves m a a2) (hm : FieldsIn 0x10 m := by first | assumption | exact FieldsIn.of (by assumption) (by decide) | exact FieldsIn.refl _) : Leaves m a (flashErase a0 a1 a2) := by
  unfold flashErase
  try dsimp only
  exact (upd_flash_frame g0)

theorem execMirrorRegionEraseComplete_frame {m a a0 a1} (g0 : Leaves m a a1) (hm : FieldsIn 0x1ffc0000000000000000000010 m := by first | assumption | exact FieldsIn.of (by assumption) (by decide) | exact FieldsIn.refl _) : LeavesOut m a (execMirrorRegionEraseComplete a0 a1) := by
  unfold execMirrorRegionEraseComplete
  try dsimp only
  exact (whenLive_frame g0 (fun _ h0 => (ite_frame (upd_alm_frame (flashErase_frame h0)) h0)))

theorem putSlot_frame {m a a0 a1 a2} (g0 : Leaves m a a2) (hm : FieldsIn 0x40000000000000000000004 m := by first | assumption | exact FieldsIn.of (by assumption) (by decide) | exact FieldsIn.refl _) : Leaves m a (putSlot a0 a1 a2) := by
  unfold putSlot
  try dsimp only
  exact (setObj_frame (upd_alm_frame g0))

theorem placeCirculating_frame {m a a0 a1} (g0 : Leaves m a a1) (hm : FieldsIn 0x440000000000000000000004 m := by first | assumption | exact FieldsIn.of (by assumption) (by decide) | exact FieldsIn.refl _) : Leaves m a (placeCirculating a0 a1) := by
  unfold placeCirculating
  try dsimp only
  exact (ite_frame (addObj_frame g0) (upd_alm_frame (putSlot_frame (ite_frame (addObj_frame g0) g0))))

theorem execFreeze_frame {m a a0 a1} (g0 : Leaves m a a1) (hm : FieldsIn 0x80000efc0004000000000004000004 m := by first | assumption | exact FieldsIn.of (by assumption) (by decide) | exact FieldsIn.refl _) : LeavesOut m a (execFreeze a0 a1) := by
  unfold execFreeze
  try dsimp only
  exact (whenFree_frame g0 (fun _ h0 => (ackWrite_frame (wAlmanacCommand_frame h0))))

theorem pushHistory_frame {m a a0 a1} (g0 : Leaves m a a1) (hm : FieldsIn 0x4 m := by first | assumption | exact FieldsIn.of (by assumption) (by decide) | exact FieldsIn.refl _) : Leaves m a (pushHistory a0 a1) := by
  unfold pushHistory
  try dsimp only
  exact (setObj_frame (foldl_frame (fun _ _ h0 => (setObj_frame h0)) (setObj_frame g0)))

theorem sendEmcy_frame {m a a0 a1} (g0 : Leaves m a a1) (hm : FieldsIn 0x10000000000000000000001 m := by first | assumption | exact FieldsIn.of (by assumption) (by decide) | exact FieldsIn.refl _) : Leaves m a (sendEmcy a0 a1) := by
  unfold sendEmcy
  try dsimp only
  exact (upd_io_frame (emit_frame g0))

theorem emcy_frame {m a a0 a1} (g0 : Leaves m a a1) (hm : FieldsIn 0x10000000000000000000005 m := by first | assumption | exact FieldsIn.of (by assumption) (by decide) | exact FieldsIn.refl _) : Leaves m a (emcy a0 a1) := by
  unfold emcy
  try dsimp only
  exact (ite_frame (ite_frame (sendEmcy_frame (pushHistory_frame (setObj_frame g0))) (upd_io_frame (pushHistory_frame (setObj_frame g0)))) (pushHistory_frame (setObj_frame g0)))

theorem placePermanent_frame {m a a0 a1 a2 a3} (g0 : Leaves m a a3) (hm : FieldsIn 0x1ffc0000000000000000000004 m := by first | assumption | exact FieldsIn.of (by assumption) (by decide) | exact FieldsIn.refl _) : Leaves m a (placePermanent a0 a1 a2 a3) := by
  unfold placePermanent
  try dsimp only
  exact (ite_frame (upd_alm_frame (putSlot_frame g0)) (upd_alm_frame (putSlot_frame g0)))

theorem placeRecord_frame {m a a0 a1 a2} (g0 : Leaves m a a2) (hm : FieldsIn 0x1ffc0000000000000000000004 m := by first | assumption | exact FieldsIn.of (by assumption) (by decide) | exact FieldsIn.refl _) : Leaves m a (placeRecord a0 a1 a2) := by
  unfold placeRecord
  try dsimp only
  exact (by (try dsimp only); first | (split; exact (placePermanent_frame g0); exact (placeCirculating_frame (ite_frame (addObj_frame g0) g0))) | (split <;> first | exact (placePermanent_frame g0) | exact (placeCirculating_frame (ite_frame (addObj_frame g0) g0))))

theorem appendRecord_frame {m a a0 a1} (g0 : Leaves m a a1) (hm : FieldsIn 0x1ffd0000000000000000000005 m := by first | assumption | exact FieldsIn.of (by assumption) (by decide) | exact FieldsIn.refl _) : Leaves m a (appendRecord a0 a1) := by
  unfold appendRecord
  try dsimp only
  exact (ite_frame (upd_alm_frame (ite_frame (emcy_frame (placeRecord_frame (addObj_frame g0))) (placeRecord_frame (addObj_frame g0)))) (ite_frame (emcy_frame (placeRecord_frame (addObj_frame g0))) (placeRecord_frame (addObj_frame g0))))

theorem captureDiscarded_frame {m a a0} (g0 : Leaves m a a0) (hm : FieldsIn 0x800000300000000000000004000004 m := by first | assumption | exact FieldsIn.of (by assumption) (by decide) | exact FieldsIn.refl _) : Leaves m a (captureDiscarded a0) := by
  unfold captureDiscarded
  try dsimp only
  exact (ite_frame g0 (capture_frame (upd_alm_frame g0)))

theorem execRecordAppend_frame {m a a0} (g0 : Leaves m a a0) (hm : FieldsIn 0x80001ffd0000000000000004000005 m := by first | assumption | exact FieldsIn.of (by assumption) (by decide) | exact FieldsIn.refl _) : LeavesOut m a (execRecordAppend a0) := by
  unfold execRecordAppend
  try dsimp only
  exact (whenLive_frame g0 (fun _ h0 => (ite_frame (by (try dsimp only); first | (split; exact h0; exact (captureDiscarded_frame (appendRecord_frame (upd_alm_frame h0)))) | (split <;> first | exact h0 | exact (captureDiscarded_frame (appendRecord_frame (upd_alm_frame h0))))) h0)))

theorem restoreAlmanac_frame {m a a0} (g0 : Leaves m a a0) (hm : FieldsIn 0x1ffc0000000000000000000004 m := by first | assumption | exact FieldsIn.of (by assumption) (by decide) | exact FieldsIn.refl _) : Leaves m a (restoreAlmanac a0) := by
  unfold restoreAlmanac
  try dsimp only
  exact (setObj_frame (setObj_frame (upd_alm_frame g0)))

theorem flashWrite_frame {m a a0 a1 a2} (g0 : Leaves m a a2) (hm : FieldsIn 0x10 m := by first | assumption | exact FieldsIn.of (by assumption) (by decide) | exact FieldsIn.refl _) : Leaves m a (flashWrite a0 a1 a2) := by
  induction a1 generalizing a0 a2 with
  | nil => exact g0
  | cons b bs ih => exact ih (upd_flash_frame g0)

theorem almanacRead_frame {m a a0} (g0 : Leaves m a a0) (hm : FieldsIn 0x1000000000000000000000004 m := by first | assumption | exact FieldsIn.of (by assumption) (by decide) | exact FieldsIn.refl _) : Leaves m a (almanacRead a0).2 := by
  unfold almanacRead
  try dsimp only
  exact (setObj_frame (ite_frame (upd_alm_frame g0) g0))

theorem execAlmanacDataRead_frame {m a a0 a1} (g0 : Leaves m a a1) (hm : FieldsIn 0x100000400000000000000000d m := by first | assumption | exact FieldsIn.of (by assumption) (by decide) | exact FieldsIn.refl _) : LeavesOut m a (execAlmanacDataRead a0 a1) := by
  unfold execAlmanacDataRead
  try dsimp only
  exact (whenFree_frame g0 (fun _ h0 => (answer_frame (almanacRead_frame h0))))

theorem execMirrorProgram_frame {m a a0 a1} (g0 : Leaves m a a1) (hm : FieldsIn 0x80001ffc0000000000000004000016 m := by first | assumption | exact FieldsIn.of (by assumption) (by decide) | exact FieldsIn.refl _) : LeavesOut m a (execMirrorProgram a0 a1) := by
  unfold execMirrorProgram
  try dsimp only
  exact (whenLive_frame g0 (fun _ h0 => (ite_frame (by (try dsimp only); first | (split; exact h0; exact (ite_frame (flashWrite_frame (upd_alm_frame h0)) (capture_frame (flashWrite_frame (useFree_frame (upd_alm_frame h0)))))) | (split <;> first | exact h0 | exact (ite_frame (flashWrite_frame (upd_alm_frame h0)) (capture_frame (flashWrite_frame (useFree_frame (upd_alm_frame h0))))))) h0)))

theorem execThaw_frame {m a a0 a1} (g0 : Leaves m a a1) (hm : FieldsIn 0x80000efc0004000000000004000004 m := by first | assumption | exact FieldsIn.of (by assumption) (by decide) | exact FieldsIn.refl _) : LeavesOut m a (execThaw a0 a1) := by
  unfold execThaw
  try dsimp only
  exact (whenFree_frame g0 (fun _ h0 => (ackWrite_frame (wAlmanacCommand_frame h0))))

theorem execClearPermanent_frame {m a a0 a1} (g0 : Leaves m a a1) (hm : FieldsIn 0x80000efc0004000000000004000004 m := by first | assumption | exact FieldsIn.of (by assumption) (by decide) | exact FieldsIn.refl _) : LeavesOut m a (execClearPermanent a0 a1) := by
  unfold execClearPermanent
  try dsimp only
  exact (whenFree_frame g0 (fun _ h0 => (ackWrite_frame (wAlmanacCommand_frame h0))))

theorem execPerfSample_frame {m a a0 a1} (g0 : Leaves m a a1) (hm : FieldsIn 0x800000300004000000000004000004 m := by first | assumption | exact FieldsIn.of (by assumption) (by decide) | exact FieldsIn.refl _) : LeavesOut m a (execPerfSample a0 a1) := by
  unfold execPerfSample
  try dsimp only
  exact (whenFree_frame g0 (fun _ h0 => (ackWrite_frame (wPerfCommand_frame h0))))

theorem applyConfigure_frame {m a a0 a1} (g0 : Leaves m a a1) (hm : FieldsIn 0x40000000000000004 m := by first | assumption | exact FieldsIn.of (by assumption) (by decide) | exact FieldsIn.refl _) : Leaves m a (applyConfigure a0 a1) := by
  unfold applyConfigure
  try dsimp only
  exact (setObj_frame (setObj_frame (updPart_frame (foldl_frame (fun _ _ h0 => (ite_frame (setObj_frame (setObj_frame h0)) (ite_frame (setObj_frame h0) h0))) g0))))

theorem setPStatus_frame {m a a0 a1 a2} (g0 : Leaves m a a2) (hm : FieldsIn 0x4 m := by first | assumption | exact FieldsIn.of (by assumption) (by decide) | exact FieldsIn.refl _) : Leaves m a (setPStatus a0 a1 a2) := by
  unfold setPStatus
  try dsimp only
  exact (setObj_frame g0)

theorem doConfigure_frame {m a a0 a1} (g0 : Leaves m a a1) (hm : FieldsIn 0x40000000000000004 m := by first | assumption | exact FieldsIn.of (by assumption) (by decide) | exact FieldsIn.refl _) : Leaves m a (doConfigure a0 a1).1 := by
  unfold doConfigure
  try dsimp only
  exact (by (try dsimp only); first | (split; exact (fst_frame (setPStatus_frame g0)); exact (fst_frame (setPStatus_frame (applyConfigure_frame g0)))) | (split <;> first | exact (fst_frame (setPStatus_frame g0)) | exact (fst_frame (setPStatus_frame (applyConfigure_frame g0)))))

theorem doReset_frame {m a a0 a1} (g0 : Leaves m a a1) (hm : FieldsIn 0xc0021a00000000004 m := by first | assumption | exact FieldsIn.of (by assumption) (by decide) | exact FieldsIn.refl _) : Leaves m a (doReset a0 a1).1 := by
  unfold doReset
  try dsimp only
  exact (ite_fst_frame (fst_frame (setPStatus_frame (startReset_frame g0))) (fst_frame (setPStatus_frame g0)))

theorem doStart_frame {m a a0 a1} (g0 : Leaves m a a1) (hm : FieldsIn 0x4 m := by first | assumption | exact FieldsIn.of (by assumption) (by decide) | exact FieldsIn.refl _) : Leaves m a (doStart a0 a1).1 := by
  unfold doStart
  try dsimp only
  exact (ite_fst_frame (fst_frame (setPStatus_frame g0)) (fst_frame (setPStatus_frame (setObj_frame g0))))

theorem doStop_frame {m a a0 a1} (g0 : Leaves m a a1) (hm : FieldsIn 0xc0021a00000000004 m := by first | assumption | exact FieldsIn.of (by assumption) (by decide) | exact FieldsIn.refl _) : Leaves m a (doStop a0 a1).1 := by
  unfold doStop
  try dsimp only
  exact (ite_fst_frame (fst_frame (setPStatus_frame g0)) (fst_frame (setPStatus_frame (startReset_frame g0))))

theorem doPartition_frame {m a a0 a1 a2} (g0 : Leaves m a a2) (hm : FieldsIn 0xc0021a00000000004 m := by first | assumption | exact FieldsIn.of (by assumption) (by decide) | exact FieldsIn.refl _) : Leaves m a (doPartition a0 a1 a2).1 := by
  unfold doPartition
  try dsimp only
  exact (ite_fst_frame (doConfigure_frame g0) (ite_fst_frame (doStart_frame g0) (ite_fst_frame (doStop_frame g0) (doReset_frame g0))))

theorem wPartitionCommand_frame {m a a0 a1 a2 a3} (g0 : Leaves m a a3) (hm : FieldsIn 0x8800003000000c0021a00004000004 m := by first | assumption | exact FieldsIn.of (by assumption) (by decide) | exact FieldsIn.refl _) : Leaves m a (wPartitionCommand a0 a1 a2 a3).1 := by
  unfold wPartitionCommand
  try dsimp only
  exact (ite_fst_frame (fst_frame (refuse_frame g0)) (ite_fst_frame (fst_frame (refuse_frame g0)) (ite_fst_frame (fst_frame (deferEvent_frame g0)) (doPartition_frame g0))))

theorem execPartitionReset_frame {m a a0 a1 a2} (g0 : Leaves m a a2) (hm : FieldsIn 0x8800003000040c0021a00004000004 m := by first | assumption | exact FieldsIn.of (by assumption) (by decide) | exact FieldsIn.refl _) : LeavesOut m a (execPartitionReset a0 a1 a2) := by
  unfold execPartitionReset
  try dsimp only
  exact (whenFree_frame g0 (fun _ h0 => (ackWrite_frame (wPartitionCommand_frame h0))))

theorem setLoanStatus_frame {m a a0 a1 a2 a3 a4} (g0 : Leaves m a a4) (hm : FieldsIn 0x4 m := by first | assumption | exact FieldsIn.of (by assumption) (by decide) | exact FieldsIn.refl _) : Leaves m a (setLoanStatus a0 a1 a2 a3 a4) := by
  unfold setLoanStatus
  try dsimp only
  exact (setObj_frame g0)

theorem handOver_frame {m a a0 a1 a2 a3 a4 a5} (g0 : Leaves m a a5) (hm : FieldsIn 0x4 m := by first | assumption | exact FieldsIn.of (by assumption) (by decide) | exact FieldsIn.refl _) : Leaves m a (handOver a0 a1 a2 a3 a4 a5) := by
  unfold handOver
  try dsimp only
  exact (foldl_frame (fun _ _ h0 => (setObj_frame h0)) (foldl_frame (fun _ _ h0 => (setField_frame h0)) g0))

theorem lendTile_frame {m a a0 a1 a2 a3 a4 a5} (g0 : Leaves m a a5) (hm : FieldsIn 0x40000000000000004 m := by first | assumption | exact FieldsIn.of (by assumption) (by decide) | exact FieldsIn.refl _) : Leaves m a (lendTile a0 a1 a2 a3 a4 a5) := by
  unfold lendTile
  try dsimp only
  exact (ite_frame (handOver_frame g0) (updPart_frame (handOver_frame g0)))

theorem clearAcct_frame {m a a0 a1} (g0 : Leaves m a a1) (hm : FieldsIn 0x80000000000000000 m := by first | assumption | exact FieldsIn.of (by assumption) (by decide) | exact FieldsIn.refl _) : Leaves m a (clearAcct a0 a1) := by
  unfold clearAcct
  try dsimp only
  exact (setAcct_frame g0)

theorem wAcctClear_frame {m a a0 a1 a2 a3} (g0 : Leaves m a a3) (hm : FieldsIn 0x800000300000080000000004000004 m := by first | assumption | exact FieldsIn.of (by assumption) (by decide) | exact FieldsIn.refl _) : Leaves m a (wAcctClear a0 a1 a2 a3).1 := by
  unfold wAcctClear
  try dsimp only
  exact (ite_fst_frame (fst_frame (foldl_frame (fun _ _ h0 => (clearAcct_frame h0)) (upd_pt_frame g0))) (ite_fst_frame (fst_frame (clearAcct_frame g0)) (fst_frame (refuse_frame g0))))

theorem execAcctClear_frame {m a a0 a1 a2 a3} (g0 : Leaves m a a3) (hm : FieldsIn 0x800000300004080000000004000004 m := by first | assumption | exact FieldsIn.of (by assumption) (by decide) | exact FieldsIn.refl _) : LeavesOut m a (execAcctClear a0 a1 a2 a3) := by
  unfold execAcctClear
  try dsimp only
  exact (whenFree_frame g0 (fun _ h0 => (ackWrite_frame (wAcctClear_frame h0))))

theorem execPartitionStart_frame {m a a0 a1 a2} (g0 : Leaves m a a2) (hm : FieldsIn 0x8800003000040c0021a00004000004 m := by first | assumption | exact FieldsIn.of (by assumption) (by decide) | exact FieldsIn.refl _) : LeavesOut m a (execPartitionStart a0 a1 a2) := by
  unfold execPartitionStart
  try dsimp only
  exact (whenFree_frame g0 (fun _ h0 => (ackWrite_frame (wPartitionCommand_frame h0))))

theorem returnLoan_frame {m a a0 a1 a2} (g0 : Leaves m a a2) (hm : FieldsIn 0xc800000000004 m := by first | assumption | exact FieldsIn.of (by assumption) (by decide) | exact FieldsIn.refl _) : Leaves m a (returnLoan a0 a1 a2) := by
  unfold returnLoan
  try dsimp only
  exact (handOver_frame (foldl_frame (fun _ _ h0 => (setQueue_frame h0)) (foldl_frame (fun _ _ h0 => (by (try dsimp only); first | (split; exact (setPageMap_frame (dropPage_frame h0)); exact h0) | (split <;> first | exact (setPageMap_frame (dropPage_frame h0)) | exact h0))) g0)))

theorem beginReclaim_frame {m a a0 a1 a2} (g0 : Leaves m a a2) (hm : FieldsIn 0x80021800000000000 m := by first | assumption | exact FieldsIn.of (by assumption) (by decide) | exact FieldsIn.refl _) : Leaves m a (beginReclaim a0 a1 a2) := by
  unfold beginReclaim
  try dsimp only
  exact (foldl_frame (fun _ _ h0 => (foldl_frame (fun _ _ h1 => (foldl_frame (fun _ _ h2 => (ite_frame (startKill_frame h2) h2)) h1)) (foldl_frame (fun _ _ h1 => (foldl_frame (fun _ _ h2 => (startKill_frame h2)) (setQueue_frame h1))) h0))) g0)

theorem startReclaim_frame {m a a0 a1 a2} (g0 : Leaves m a a2) (hm : FieldsIn 0xc0021800000000004 m := by first | assumption | exact FieldsIn.of (by assumption) (by decide) | exact FieldsIn.refl _) : Leaves m a (startReclaim a0 a1 a2) := by
  unfold startReclaim
  try dsimp only
  exact (by (try dsimp only); first | (split; exact g0; exact (beginReclaim_frame (setLoanStatus_frame (updPart_frame g0)))) | (split <;> first | exact g0 | exact (beginReclaim_frame (setLoanStatus_frame (updPart_frame g0)))))

theorem finishReclaim_frame {m a a0 a1 a2} (g0 : Leaves m a a2) (hm : FieldsIn 0xc002da00000000004 m := by first | assumption | exact FieldsIn.of (by assumption) (by decide) | exact FieldsIn.refl _) : Leaves m a (finishReclaim a0 a1 a2) := by
  unfold finishReclaim
  try dsimp only
  exact (releaseResets_frame (ite_frame (setLoanStatus_frame (updPart_frame (foldl_frame (fun _ _ h0 => (returnLoan_frame h0)) g0))) (startReclaim_frame (updPart_frame (foldl_frame (fun _ _ h0 => (returnLoan_frame h0)) g0)))))

theorem markLent_frame {m a a0 a1 a2} (g0 : Leaves m a a2) (hm : FieldsIn 0x100000000038c0021800000000000 m := by first | assumption | exact FieldsIn.of (by assumption) (by decide) | exact FieldsIn.refl _) : Leaves m a (markLent a0 a1 a2) := by
  unfold markLent
  try dsimp only
  exact (foldl_frame (fun _ _ h0 => (foldl_frame (fun _ _ h1 => (markJob_frame h1)) h0)) g0)

theorem execReclaimComplete_frame {m a a0 a1} (g0 : Leaves m a a1) (hm : FieldsIn 0x100000000038c002da00000000004 m := by first | assumption | exact FieldsIn.of (by assumption) (by decide) | exact FieldsIn.refl _) : LeavesOut m a (execReclaimComplete a0 a1) := by
  unfold execReclaimComplete
  try dsimp only
  exact (whenLive_frame g0 (fun _ h0 => (by (try dsimp only); first | (split; exact h0; exact (ite_frame (ite_frame (finishReclaim_frame (markLent_frame h0)) (markLent_frame h0)) h0)) | (split <;> first | exact h0 | exact (ite_frame (ite_frame (finishReclaim_frame (markLent_frame h0)) (markLent_frame h0)) h0)))))

theorem readAcct_frame {m a a0 a1} (g0 : Leaves m a a1) (hm : FieldsIn 0x100000000000000004 m := by first | assumption | exact FieldsIn.of (by assumption) (by decide) | exact FieldsIn.refl _) : Leaves m a (readAcct a0 a1).2 := by
  unfold readAcct
  try dsimp only
  exact (setObj_frame (upd_pt_frame g0))

theorem execAcctDataRead_frame {m a a0 a1 a2} (g0 : Leaves m a a2) (hm : FieldsIn 0x410000000000000000d m := by first | assumption | exact FieldsIn.of (by assumption) (by decide) | exact FieldsIn.refl _) : LeavesOut m a (execAcctDataRead a0 a1 a2) := by
  unfold execAcctDataRead
  try dsimp only
  exact (whenFree_frame g0 (fun _ h0 => (answer_frame (readAcct_frame h0))))

theorem execPartitionStop_frame {m a a0 a1 a2} (g0 : Leaves m a a2) (hm : FieldsIn 0x8800003000040c0021a00004000004 m := by first | assumption | exact FieldsIn.of (by assumption) (by decide) | exact FieldsIn.refl _) : LeavesOut m a (execPartitionStop a0 a1 a2) := by
  unfold execPartitionStop
  try dsimp only
  exact (whenFree_frame g0 (fun _ h0 => (ackWrite_frame (wPartitionCommand_frame h0))))

theorem wLoanCommand_frame {m a a0 a1 a2 a3} (g0 : Leaves m a a3) (hm : FieldsIn 0x8000003000000c0021800004000004 m := by first | assumption | exact FieldsIn.of (by assumption) (by decide) | exact FieldsIn.refl _) : Leaves m a (wLoanCommand a0 a1 a2 a3).1 := by
  unfold wLoanCommand
  try dsimp only
  exact (ite_fst_frame (fst_frame (refuse_frame g0)) (ite_fst_frame (fst_frame (refuse_frame g0)) (ite_fst_frame (by (try dsimp only); first | (split; exact (fst_frame (setLoanStatus_frame g0)); exact (fst_frame (setLoanStatus_frame (foldl_frame (fun _ _ h0 => (lendTile_frame h0)) g0)))) | (split <;> first | exact (fst_frame (setLoanStatus_frame g0)) | exact (fst_frame (setLoanStatus_frame (foldl_frame (fun _ _ h0 => (lendTile_frame h0)) g0))))) (ite_fst_frame (ite_fst_frame (fst_frame (setLoanStatus_frame g0)) (fst_frame (startReclaim_frame g0))) (ite_fst_frame (fst_frame (setLoanStatus_frame g0)) (fst_frame (startReclaim_frame g0)))))))

theorem execLend_frame {m a a0 a1 a2} (g0 : Leaves m a a2) (hm : FieldsIn 0x8000003000040c0021800004000004 m := by first | assumption | exact FieldsIn.of (by assumption) (by decide) | exact FieldsIn.refl _) : LeavesOut m a (execLend a0 a1 a2) := by
  unfold execLend
  try dsimp only
  exact (whenFree_frame g0 (fun _ h0 => (ackWrite_frame (wLoanCommand_frame h0))))

theorem execPartitionConfigure_frame {m a a0 a1 a2} (g0 : Leaves m a a2) (hm : FieldsIn 0x8800003000040c0021a00004000004 m := by first | assumption | exact FieldsIn.of (by assumption) (by decide) | exact FieldsIn.refl _) : LeavesOut m a (execPartitionConfigure a0 a1 a2) := by
  unfold execPartitionConfigure
  try dsimp only
  exact (whenFree_frame g0 (fun _ h0 => (ackWrite_frame (wPartitionCommand_frame h0))))

theorem execReclaimTile_frame {m a a0 a1 a2} (g0 : Leaves m a a2) (hm : FieldsIn 0x8000003000040c0021800004000004 m := by first | assumption | exact FieldsIn.of (by assumption) (by decide) | exact FieldsIn.refl _) : LeavesOut m a (execReclaimTile a0 a1 a2) := by
  unfold execReclaimTile
  try dsimp only
  exact (whenFree_frame g0 (fun _ h0 => (ackWrite_frame (wLoanCommand_frame h0))))

theorem execReclaimAll_frame {m a a0 a1 a2} (g0 : Leaves m a a2) (hm : FieldsIn 0x8000003000040c0021800004000004 m := by first | assumption | exact FieldsIn.of (by assumption) (by decide) | exact FieldsIn.refl _) : LeavesOut m a (execReclaimAll a0 a1 a2) := by
  unfold execReclaimAll
  try dsimp only
  exact (whenFree_frame g0 (fun _ h0 => (ackWrite_frame (wLoanCommand_frame h0))))

theorem beginMove_frame {m a a0 a1 a2 a3} (g0 : Leaves m a a3) (hm : FieldsIn 0x1c0000000000000 m := by first | assumption | exact FieldsIn.of (by assumption) (by decide) | exact FieldsIn.refl _) : Leaves m a (beginMove a0 a1 a2 a3).2 := by
  unfold beginMove
  try dsimp only
  exact (by (try dsimp only); first | (split; exact (snd_frame (settlePage_frame g0)); exact (ite_snd_frame (snd_frame (settlePage_frame g0)) (ite_snd_frame (snd_frame (settlePage_frame g0)) (by (try dsimp only); first | (split; exact (snd_frame (settlePage_frame g0)); exact (snd_frame (setC_frame (settlePage_frame g0)))) | (split <;> first | exact (snd_frame (settlePage_frame g0)) | exact (snd_frame (setC_frame (settlePage_frame g0)))))))) | (split <;> first | exact (snd_frame (settlePage_frame g0)) | exact (ite_snd_frame (snd_frame (settlePage_frame g0)) (ite_snd_frame (snd_frame (settlePage_frame g0)) (by (try dsimp only); first | (split; exact (snd_frame (settlePage_frame g0)); exact (snd_frame (setC_frame (settlePage_frame g0)))) | (split <;> first | exact (snd_frame (settlePage_frame g0)) | exact (snd_frame (setC_frame (settlePage_frame g0)))))))))

theorem beginRebuild_frame {m a a0} (g0 : Leaves m a a0) (hm : FieldsIn 0x101c0000000000000 m := by first | assumption | exact FieldsIn.of (by assumption) (by decide) | exact FieldsIn.refl _) : Leaves m a (beginRebuild a0) := by
  unfold beginRebuild
  try dsimp only
  exact (by (try dsimp only); first | (split; exact (upd_ci_frame g0); exact (ite_frame (upd_ci_frame g0) (upd_ci_frame (beginMove_frame g0)))) | (split <;> first | exact (upd_ci_frame g0) | exact (ite_frame (upd_ci_frame g0) (upd_ci_frame (beginMove_frame g0)))))

theorem startRebuild_frame {m a a0} (g0 : Leaves m a a0) (hm : FieldsIn 0x200000101c0000000000005 m := by first | assumption | exact FieldsIn.of (by assumption) (by decide) | exact FieldsIn.refl _) : Leaves m a (startRebuild a0) := by
  unfold startRebuild
  try dsimp only
  exact (beginRebuild_frame (setCisternState_frame g0))

theorem learn_frame {m a a0 a1 a2 a3 a4 a5} (g0 : Leaves m a a5) (hm : FieldsIn 0x800000300000000000003004000004 m := by first | assumption | exact FieldsIn.of (by assumption) (by decide) | exact FieldsIn.refl _) : Leaves m a (learn a0 a1 a2 a3 a4 a5) := by
  unfold learn
  try dsimp only
  exact (ite_frame (capture_frame (setObj_frame (upd_fab_frame g0))) (capture_frame (addObj_frame (upd_fab_frame g0))))

theorem dropMove_frame {m a a0 a1} (g0 : Leaves m a a1) (hm : FieldsIn 0x40000000000000 m := by first | assumption | exact FieldsIn.of (by assumption) (by decide) | exact FieldsIn.refl _) : Leaves m a (dropMove a0 a1) := by
  unfold dropMove
  try dsimp only
  exact (by (try dsimp only); first | (split; exact (setC_frame g0); exact g0) | (split <;> first | exact (setC_frame g0) | exact g0))

theorem killWriters_frame {m a a0 a1} (g0 : Leaves m a a1) (hm : FieldsIn 0x80021800000000000 m := by first | assumption | exact FieldsIn.of (by assumption) (by decide) | exact FieldsIn.refl _) : Leaves m a (killWriters a0 a1) := by
  unfold killWriters
  try dsimp only
  exact (foldl_frame (fun _ _ h0 => (foldl_frame (fun _ _ h1 => (ite_frame (startKill_frame h1) h1)) h0)) g0)

theorem redoMove_frame {m a a0 a1 a2} (g0 : Leaves m a a2) (hm : FieldsIn 0x40000000000000 m := by first | assumption | exact FieldsIn.of (by assumption) (by decide) | exact FieldsIn.refl _) : Leaves m a (redoMove a0 a1 a2).2 := by
  unfold redoMove
  try dsimp only
  exact (by (try dsimp only); first | (split; exact (by (try dsimp only); first | (split; exact (ite_snd_frame (snd_frame (setC_frame g0)) (snd_frame g0)); exact (snd_frame g0)) | (split <;> first | exact (ite_snd_frame (snd_frame (setC_frame g0)) (snd_frame g0)) | exact (snd_frame g0))); exact (snd_frame g0)) | (split <;> first | exact (by (try dsimp only); first | (split; exact (ite_snd_frame (snd_frame (setC_frame g0)) (snd_frame g0)); exact (snd_frame g0)) | (split <;> first | exact (ite_snd_frame (snd_frame (setC_frame g0)) (snd_frame g0)) | exact (snd_frame g0))) | exact (snd_frame g0)))

theorem tryRebuild_frame {m a a0 a1} (g0 : Leaves m a a1) (hm : FieldsIn 0x8000003200000101c0000004000005 m := by first | assumption | exact FieldsIn.of (by assumption) (by decide) | exact FieldsIn.refl _) : Leaves m a (tryRebuild a0 a1) := by
  unfold tryRebuild
  try dsimp only
  exact (ite_frame (startRebuild_frame g0) (capture_frame (capture_frame g0)))

theorem loseStack_frame {m a a0 a1} (g0 : Leaves m a a1) (hm : FieldsIn 0x80000032000009bde1800004000005 m := by first | assumption | exact FieldsIn.of (by assumption) (by decide) | exact FieldsIn.refl _) : Leaves m a (loseStack a0 a1) := by
  have h1 : ∀ {s x y z w}, Leaves m a s → Leaves m a { s with ci := { s.ci with pcRetrain := x, pcWaiting := y, lostPcs := z, stale := w } } :=
    fun h => upd_ci_frame h
  have h2 : ∀ {s x}, Leaves m a s → Leaves m a { s with ci := { s.ci with moving := x } } := fun h => upd_ci_frame h
  have h3 : ∀ {s x}, Leaves m a s → Leaves m a { s with ci := { s.ci with rebuilding := x } } := fun h => upd_ci_frame h
  have h4 : ∀ {x s}, Leaves m a s → Leaves m a { (redoMove a0 x s).2 with ci := { (redoMove a0 x s).2.ci with moving := (redoMove a0 x s).1 } } :=
    fun h => h2 (redoMove_frame h)
  have h5 := fun {x} {y} {z} {w} => h1 (x := x) (y := y) (z := z) (w := w) (setStackState_frame (a0 := a0) (a1 := 4) g0)
  unfold loseStack
  exact ite_frame (capture_frame (setCisternState_frame (h3 (dropMove_frame (killWriters_frame (h4 h5))))))
    (tryRebuild_frame (capture_frame (setCisternState_frame (killWriters_frame (h4 h5)))))

theorem execStackLost_frame {m a a0 a1} (g0 : Leaves m a a1) (hm : FieldsIn 0x80000032000009bde1803004000005 m := by first | assumption | exact FieldsIn.of (by assumption) (by decide) | exact FieldsIn.refl _) : LeavesOut m a (execStackLost a0 a1) := by
  unfold execStackLost
  try dsimp only
  exact (whenLive_frame g0 (fun _ h0 => (ite_frame (loseStack_frame (learn_frame h0)) h0)))

theorem setLastError_frame {m a a0 a1 a2} (g0 : Leaves m a a2) (hm : FieldsIn 0x4 m := by first | assumption | exact FieldsIn.of (by assumption) (by decide) | exact FieldsIn.refl _) : Leaves m a (setLastError a0 a1 a2) := by
  unfold setLastError
  try dsimp only
  exact (setObj_frame g0)

theorem wRetireStack_frame {m a a0 a1 a2} (g0 : Leaves m a a2) (hm : FieldsIn 0x80000032000009bde1800004000005 m := by first | assumption | exact FieldsIn.of (by assumption) (by decide) | exact FieldsIn.refl _) : Leaves m a (wRetireStack a0 a1 a2).1 := by
  unfold wRetireStack
  try dsimp only
  exact (ite_fst_frame (fst_frame (refuse_frame g0)) (ite_fst_frame (fst_frame (refuse_frame g0)) (fst_frame (loseStack_frame g0))))

theorem damagePage_frame {m a a0 a1} (g0 : Leaves m a a1) (hm : FieldsIn 0x8000003000000e0021a00004000004 m := by first | assumption | exact FieldsIn.of (by assumption) (by decide) | exact FieldsIn.refl _) : Leaves m a (damagePage a0 a1) := by
  unfold damagePage
  try dsimp only
  exact (ite_frame (capture_frame g0) (jobFault_frame (capture_frame (addObj_frame (upd_ci_frame g0)))))

theorem reconstruct_frame {m a a0 a1 a2} (g0 : Leaves m a a2) (hm : FieldsIn 0x40000000000000000000000004 m := by first | assumption | exact FieldsIn.of (by assumption) (by decide) | exact FieldsIn.refl _) : Leaves m a (reconstruct a0 a1 a2) := by
  unfold reconstruct
  try dsimp only
  exact (ite_frame (readMembers_frame g0) (countLines_frame (readMembers_frame g0)))

theorem zeroLine_frame {m a a0 a1 a2} (g0 : Leaves m a a2) (hm : FieldsIn 0x40000000000000 m := by first | assumption | exact FieldsIn.of (by assumption) (by decide) | exact FieldsIn.refl _) : Leaves m a (zeroLine a0 a1 a2) := by
  unfold zeroLine
  try dsimp only
  exact (setC_frame g0)

theorem lineRead_frame {m a a0 a1 a2 a3} (g0 : Leaves m a a3) (hm : FieldsIn 0x8000403000000e0061a00004000004 m := by first | assumption | exact FieldsIn.of (by assumption) (by decide) | exact FieldsIn.refl _) : Leaves m a (lineRead a0 a1 a2 a3) := by
  unfold lineRead
  try dsimp only
  exact (by (try dsimp only); first | (split; exact (ite_frame g0 (countLines_frame g0)); exact (setLastError_frame (countLines_frame (perfCount_frame (ite_frame g0 (countLines_frame g0))))); exact (setLastError_frame (reconstruct_frame (ite_frame g0 (countLines_frame g0)))); exact (damagePage_frame (zeroLine_frame (setLastError_frame (ite_frame g0 (countLines_frame g0)))))) | (split <;> first | exact (ite_frame g0 (countLines_frame g0)) | exact (setLastError_frame (countLines_frame (perfCount_frame (ite_frame g0 (countLines_frame g0))))) | exact (setLastError_frame (reconstruct_frame (ite_frame g0 (countLines_frame g0)))) | exact (damagePage_frame (zeroLine_frame (setLastError_frame (ite_frame g0 (countLines_frame g0)))))))

theorem execCisternLineRead_frame {m a a0 a1 a2 a3 a4} (g0 : Leaves m a a4) (hm : FieldsIn 0x8000403000002e0061a00004000004 m := by first | assumption | exact FieldsIn.of (by assumption) (by decide) | exact FieldsIn.refl _) : LeavesOut m a (execCisternLineRead a0 a1 a2 a3 a4) := by
  unfold execCisternLineRead
  try dsimp only
  exact (whenLive_frame g0 (fun _ h0 => (ite_frame (ite_frame (perturb_frame (ite_frame (perturb_frame (lineRead_frame h0)) (lineRead_frame h0))) (ite_frame (perturb_frame (lineRead_frame h0)) (lineRead_frame h0))) h0)))

theorem refuseCapacity_frame {m a a0 a1 a2 a3 a4} (g0 : Leaves m a a4) (hm : FieldsIn 0x800000300000000000000004000004 m := by first | assumption | exact FieldsIn.of (by assumption) (by decide) | exact FieldsIn.refl _) : Leaves m a (refuseCapacity a0 a1 a2 a3 a4).1 := by
  unfold refuseCapacity
  try dsimp only
  exact (refuse_frame (capture_frame g0))

theorem retryRebuild_frame {m a a0} (g0 : Leaves m a a0) (hm : FieldsIn 0x200000101c0000000000005 m := by first | assumption | exact FieldsIn.of (by assumption) (by decide) | exact FieldsIn.refl _) : Leaves m a (retryRebuild a0) := by
  unfold retryRebuild
  try dsimp only
  exact (ite_frame (startRebuild_frame g0) g0)

theorem wMargin_frame {m a a0 a1 a2} (g0 : Leaves m a a2) (hm : FieldsIn 0x8000003200000101c0000004000005 m := by first | assumption | exact FieldsIn.of (by assumption) (by decide) | exact FieldsIn.refl _) : Leaves m a (wMargin a0 a1 a2).1 := by
  unfold wMargin
  try dsimp only
  exact (ite_fst_frame (fst_frame (refuse_frame g0)) (ite_fst_frame (fst_frame (retryRebuild_frame (setObj_frame g0))) (refuseCapacity_frame g0)))

theorem beginPage_frame {m a a0} (g0 : Leaves m a a0) (hm : FieldsIn 0x81c0000000000000 m := by first | assumption | exact FieldsIn.of (by assumption) (by decide) | exact FieldsIn.refl _) : Leaves m a (beginPage a0) := by
  unfold beginPage
  try dsimp only
  exact (by (try dsimp only); first | (split; exact g0; exact (upd_ci_frame (beginMove_frame g0))) | (split <;> first | exact g0 | exact (upd_ci_frame (beginMove_frame g0))))

theorem setMigrateStatus_frame {m a a0 a1 a2} (g0 : Leaves m a a2) (hm : FieldsIn 0x4 m := by first | assumption | exact FieldsIn.of (by assumption) (by decide) | exact FieldsIn.refl _) : Leaves m a (setMigrateStatus a0 a1 a2) := by
  unfold setMigrateStatus
  try dsimp only
  exact (setObj_frame g0)

theorem movePage_frame {m a a0 a1 a2} (g0 : Leaves m a a2) (hm : FieldsIn 0x80000000000002c0000000000000 m := by first | assumption | exact FieldsIn.of (by assumption) (by decide) | exact FieldsIn.refl _) : Leaves m a (movePage a0 a1 a2) := by
  have h1 : ∀ {s x y}, Leaves m a s → Leaves m a { s with ci := { s.ci with serial := x }, now := { s.now with switched := y } } :=
    fun {s x _} h => upd_now_frame (s := { s with ci := { s.ci with serial := x } }) (upd_ci_frame h)
  unfold movePage
  exact h1 (setC_frame (pushVersion_frame (setC_frame g0)))

theorem switchPage_frame {m a a0 a1} (g0 : Leaves m a a1) (hm : FieldsIn 0x80000000000002c0000000000000 m := by first | assumption | exact FieldsIn.of (by assumption) (by decide) | exact FieldsIn.refl _) : Leaves m a (switchPage a0 a1) := by
  unfold switchPage
  split
  · exact movePage_frame g0
  · exact setC_frame g0
  · exact g0

theorem migrateStep_frame {m a a0} (g0 : Leaves m a a0) (hm : FieldsIn 0x800000000003ffc0000000000004 m := by first | assumption | exact FieldsIn.of (by assumption) (by decide) | exact FieldsIn.refl _) : Leaves m a (migrateStep a0) := by
  unfold migrateStep
  try dsimp only
  exact (by (try dsimp only); first | (split; exact (ite_frame (ite_frame (setMigrateStatus_frame (upd_ci_frame (switchPage_frame g0))) (beginPage_frame (setMigrateStatus_frame (upd_ci_frame (switchPage_frame g0))))) (beginPage_frame g0)); exact g0) | (split <;> first | exact (ite_frame (ite_frame (setMigrateStatus_frame (upd_ci_frame (switchPage_frame g0))) (beginPage_frame (setMigrateStatus_frame (upd_ci_frame (switchPage_frame g0))))) (beginPage_frame g0)) | exact g0))

theorem wMigrate_frame {m a a0 a1 a2} (g0 : Leaves m a a2) (hm : FieldsIn 0x80000030000000c1c0000004000004 m := by first | assumption | exact FieldsIn.of (by assumption) (by decide) | exact FieldsIn.refl _) : Leaves m a (wMigrate a0 a1 a2).1 := by
  unfold wMigrate
  try dsimp only
  exact (ite_fst_frame (ite_fst_frame (fst_frame (refuse_frame g0)) (ite_fst_frame (fst_frame (beginPage_frame (setMigrateStatus_frame (upd_ci_frame g0)))) (fst_frame (refuse_frame (setMigrateStatus_frame g0))))) (ite_fst_frame (ite_fst_frame (fst_frame (setMigrateStatus_frame (upd_ci_frame (dropMove_frame g0)))) (fst_frame (refuse_frame g0))) (fst_frame (refuse_frame g0))))

theorem execMigrateAbort_frame {m a a0 a1} (g0 : Leaves m a a1) (hm : FieldsIn 0x80000030000400c1c0000004000004 m := by first | assumption | exact FieldsIn.of (by assumption) (by decide) | exact FieldsIn.refl _) : LeavesOut m a (execMigrateAbort a0 a1) := by
  unfold execMigrateAbort
  try dsimp only
  exact (whenFree_frame g0 (fun _ h0 => (ackWrite_frame (wMigrate_frame h0))))

theorem rebuildStep_frame {m a a0} (g0 : Leaves m a a0) (hm : FieldsIn 0x80000000000103c0000000000000 m := by first | assumption | exact FieldsIn.of (by assumption) (by decide) | exact FieldsIn.refl _) : Leaves m a (rebuildStep a0) := by
  unfold rebuildStep
  try dsimp only
  exact (by (try dsimp only); first | (split; exact (ite_frame (beginRebuild_frame (switchPage_frame g0)) (beginRebuild_frame g0)); exact (beginRebuild_frame g0)) | (split <;> first | exact (ite_frame (beginRebuild_frame (switchPage_frame g0)) (beginRebuild_frame g0)) | exact (beginRebuild_frame g0)))

theorem wPlacement_frame {m a a0 a1 a2 a3} (g0 : Leaves m a a3) (hm : FieldsIn 0x800000300000000000000004000004 m := by first | assumption | exact FieldsIn.of (by assumption) (by decide) | exact FieldsIn.refl _) : Leaves m a (wPlacement a0 a1 a2 a3).1 := by
  unfold wPlacement
  try dsimp only
  exact (ite_fst_frame (fst_frame (refuse_frame g0)) (ite_fst_frame (fst_frame (refuse_frame g0)) (fst_frame (setObj_frame g0))))

theorem wReserve_frame {m a a0 a1 a2 a3} (g0 : Leaves m a a3) (hm : FieldsIn 0x8000003200000101c0000004000005 m := by first | assumption | exact FieldsIn.of (by assumption) (by decide) | exact FieldsIn.refl _) : Leaves m a (wReserve a0 a1 a2 a3).1 := by
  unfold wReserve
  try dsimp only
  exact (ite_fst_frame (fst_frame (refuse_frame g0)) (ite_fst_frame (fst_frame (refuse_frame g0)) (ite_fst_frame (fst_frame (retryRebuild_frame (setObj_frame g0))) (refuseCapacity_frame g0))))

theorem wSpan_frame {m a a0 a1 a2 a3} (g0 : Leaves m a a3) (hm : FieldsIn 0x800000300000000000000004000004 m := by first | assumption | exact FieldsIn.of (by assumption) (by decide) | exact FieldsIn.refl _) : Leaves m a (wSpan a0 a1 a2 a3).1 := by
  unfold wSpan
  try dsimp only
  exact (ite_fst_frame (fst_frame (refuse_frame g0)) (ite_fst_frame (fst_frame (refuse_frame g0)) (fst_frame (setObj_frame g0))))

theorem execRegionWrite_frame {m a a0 a1 a2 a3 a4} (g0 : Leaves m a a4) (hm : FieldsIn 0x8000003200040101c0000004000005 m := by first | assumption | exact FieldsIn.of (by assumption) (by decide) | exact FieldsIn.refl _) : LeavesOut m a (execRegionWrite a0 a1 a2 a3 a4) := by
  unfold execRegionWrite
  try dsimp only
  exact (whenFree_frame g0 (fun _ h0 => (ite_frame (ackWrite_frame (wSpan_frame h0)) (ite_frame (ackWrite_frame (wReserve_frame h0)) (ackWrite_frame (wPlacement_frame h0))))))

theorem execRetiredSlotFree_frame {m a a0 a1} (g0 : Leaves m a a1) (hm : FieldsIn 0xc0000000000000 m := by first | assumption | exact FieldsIn.of (by assumption) (by decide) | exact FieldsIn.refl _) : LeavesOut m a (execRetiredSlotFree a0 a1) := by
  unfold execRetiredSlotFree
  try dsimp only
  exact (whenLive_frame g0 (fun _ h0 => (ite_frame (freeSlotAt_frame h0) h0)))

theorem execTagSettle_frame {m a a0 a1} (g0 : Leaves m a a1) (hm : FieldsIn 0x1c0000000000000 m := by first | assumption | exact FieldsIn.of (by assumption) (by decide) | exact FieldsIn.refl _) : LeavesOut m a (execTagSettle a0 a1) := by
  unfold execTagSettle
  try dsimp only
  exact (whenLive_frame g0 (fun _ h0 => (settleTag_frame h0)))

theorem startRetrain_frame {m a a0 a1 a2} (g0 : Leaves m a a2) (hm : FieldsIn 0x800000000000004 m := by first | assumption | exact FieldsIn.of (by assumption) (by decide) | exact FieldsIn.refl _) : Leaves m a (startRetrain a0 a1 a2) := by
  unfold startRetrain
  try dsimp only
  exact (setStackState_frame (upd_ci_frame g0))

theorem nextRetrain_frame {m a a0} (g0 : Leaves m a a0) (hm : FieldsIn 0x1800000000000004 m := by first | assumption | exact FieldsIn.of (by assumption) (by decide) | exact FieldsIn.refl _) : Leaves m a (nextRetrain a0) := by
  unfold nextRetrain
  try dsimp only
  exact (by (try dsimp only); first | (split; exact (ite_frame (startRetrain_frame (upd_ci_frame g0)) g0); exact g0) | (split <;> first | exact (ite_frame (startRetrain_frame (upd_ci_frame g0)) g0) | exact g0))

theorem execPcRetrainComplete_frame {m a a0 a1 a2 a3} (g0 : Leaves m a a3) (hm : FieldsIn 0x8000003200000bffe1803004000005 m := by first | assumption | exact FieldsIn.of (by assumption) (by decide) | exact FieldsIn.refl _) : LeavesOut m a (execPcRetrainComplete a0 a1 a2 a3) := by
  unfold execPcRetrainComplete
  try dsimp only
  exact (whenLive_frame g0 (fun _ h0 => (ite_frame (nextRetrain_frame (ite_frame (loseStack_frame (learn_frame (capture_frame (ite_frame (setStackState_frame (upd_ci_frame h0)) (learn_frame (setStackState_frame (upd_ci_frame h0))))))) (capture_frame (ite_frame (setStackState_frame (upd_ci_frame h0)) (learn_frame (setStackState_frame (upd_ci_frame h0))))))) h0)))

theorem execMigrateStart_frame {m a a0 a1} (g0 : Leaves m a a1) (hm : FieldsIn 0x80000030000400c1c0000004000004 m := by first | assumption | exact FieldsIn.of (by assumption) (by decide) | exact FieldsIn.refl _) : LeavesOut m a (execMigrateStart a0 a1) := by
  unfold execMigrateStart
  try dsimp only
  exact (whenFree_frame g0 (fun _ h0 => (ackWrite_frame (wMigrate_frame h0))))

theorem execScrubRead_frame {m a a0 a1 a2 a3} (g0 : Leaves m a a3) (hm : FieldsIn 0x8000403000000e0061a00004000004 m := by first | assumption | exact FieldsIn.of (by assumption) (by decide) | exact FieldsIn.refl _) : LeavesOut m a (execScrubRead a0 a1 a2 a3) := by
  unfold execScrubRead
  try dsimp only
  exact (whenLive_frame g0 (fun _ h0 => (ite_frame (lineRead_frame h0) h0)))

theorem endMigration_frame {m a a0} (g0 : Leaves m a a0) (hm : FieldsIn 0xc000000000000004 m := by first | assumption | exact FieldsIn.of (by assumption) (by decide) | exact FieldsIn.refl _) : Leaves m a (endMigration a0) := by
  unfold endMigration
  try dsimp only
  exact (ite_frame (setMigrateStatus_frame (upd_ci_frame g0)) g0)

theorem execPcRetrainStart_frame {m a a0 a1 a2} (g0 : Leaves m a a2) (hm : FieldsIn 0x1800000000000004 m := by first | assumption | exact FieldsIn.of (by assumption) (by decide) | exact FieldsIn.refl _) : LeavesOut m a (execPcRetrainStart a0 a1 a2) := by
  unfold execPcRetrainStart
  try dsimp only
  exact (whenLive_frame g0 (fun _ h0 => (ite_frame h0 (ite_frame (upd_ci_frame h0) (startRetrain_frame h0)))))

theorem execPageMigrationSwitch_frame {m a a0} (g0 : Leaves m a a0) (hm : FieldsIn 0x800000000003ffc0000000000006 m := by first | assumption | exact FieldsIn.of (by assumption) (by decide) | exact FieldsIn.refl _) : LeavesOut m a (execPageMigrationSwitch a0) := by
  unfold execPageMigrationSwitch
  try dsimp only
  exact (whenLive_frame g0 (fun _ h0 => (ite_frame (ite_frame (ite_frame (rebuildStep_frame (useFree_frame h0)) (migrateStep_frame (useFree_frame h0))) (rebuildStep_frame h0)) (migrateStep_frame h0))))

theorem execRebuildComplete_frame {m a a0} (g0 : Leaves m a a0) (hm : FieldsIn 0x800000320000010000000004000005 m := by first | assumption | exact FieldsIn.of (by assumption) (by decide) | exact FieldsIn.refl _) : LeavesOut m a (execRebuildComplete a0) := by
  have h3 : ∀ {s x}, Leaves m a s → Leaves m a { s with ci := { s.ci with rebuilding := x } } := fun h => upd_ci_frame h
  unfold execRebuildComplete
  refine whenLive_frame g0 (fun s h => ?_)
  exact ite_frame (capture_frame (h3 (setObj_frame (setCisternState_frame (foldl_frame (fun _ _ h1 => setStackState_frame h1) h))))) h

theorem execRetireStack_frame {m a a0 a1 a2} (g0 : Leaves m a a2) (hm : FieldsIn 0x80000032000409bde1800004000005 m := by first | assumption | exact FieldsIn.of (by assumption) (by decide) | exact FieldsIn.refl _) : LeavesOut m a (execRetireStack a0 a1 a2) := by
  unfold execRetireStack
  try dsimp only
  exact (whenFree_frame g0 (fun _ h0 => (ackWrite_frame (wRetireStack_frame h0))))

theorem abandonStep_frame {m a a0 a1 a2} (g0 : Leaves m a a2) (hm : FieldsIn 0x10000000003880021800000000000 m := by first | assumption | exact FieldsIn.of (by assumption) (by decide) | exact FieldsIn.refl _) : Leaves m a (abandonStep a0 a1 a2) := by
  unfold abandonStep
  try dsimp only
  exact (ite_frame (by (try dsimp only); first | (split; exact (settleHead_frame (abandonSlot_frame g0)); exact (startKill_frame g0); exact (startKill_frame g0); exact (startKill_frame g0); exact g0) | (split <;> first | exact (settleHead_frame (abandonSlot_frame g0)) | exact (startKill_frame g0) | exact g0)) g0)

theorem abandonOutputs_frame {m a a0 a1 a2} (g0 : Leaves m a a2) (hm : FieldsIn 0x10000000023880021800000000000 m := by first | assumption | exact FieldsIn.of (by assumption) (by decide) | exact FieldsIn.refl _) : Leaves m a (abandonOutputs a0 a1 a2) := by
  unfold abandonOutputs
  try dsimp only
  exact (foldl_frame (fun _ _ h0 => (abandonStep_frame h0)) (setSeq_frame g0))

theorem updWatched_frame {m a a0 a1 a2 a3} (g0 : Leaves m a a3) (hm : FieldsIn 0x40000000000000000000 m := by first | assumption | exact FieldsIn.of (by assumption) (by decide) | exact FieldsIn.refl _) : Leaves m a (updWatched a0 a1 a2 a3) := by
  unfold updWatched
  try dsimp only
  exact (setWatched_frame g0)

theorem startFallback_frame {m a a0 a1 a2} (g0 : Leaves m a a2) (hm : FieldsIn 0x240000000000000000000 m := by first | assumption | exact FieldsIn.of (by assumption) (by decide) | exact FieldsIn.refl _) : Leaves m a (startFallback a0 a1 a2) := by
  unfold startFallback
  try dsimp only
  exact (by (try dsimp only); first | (split; exact g0; exact (by (try dsimp only); first | (split; exact g0; exact (upd_st_frame (updWatched_frame g0))) | (split <;> first | exact g0 | exact (upd_st_frame (updWatched_frame g0))))) | (split <;> first | exact g0 | exact (by (try dsimp only); first | (split; exact g0; exact (upd_st_frame (updWatched_frame g0))) | (split <;> first | exact g0 | exact (upd_st_frame (updWatched_frame g0))))))

theorem decideFallback_frame {m a a0 a1 a2 a3} (g0 : Leaves m a a3) (hm : FieldsIn 0x10000000263880021800000000000 m := by first | assumption | exact FieldsIn.of (by assumption) (by decide) | exact FieldsIn.refl _) : Leaves m a (decideFallback a0 a1 a2 a3) := by
  unfold decideFallback
  try dsimp only
  exact (startFallback_frame (abandonOutputs_frame (updWatched_frame g0)))

theorem updSeq_frame {m a a0 a1 a2} (g0 : Leaves m a a2) (hm : FieldsIn 0x20000000000000000000 m := by first | assumption | exact FieldsIn.of (by assumption) (by decide) | exact FieldsIn.refl _) : Leaves m a (updSeq a0 a1 a2) := by
  unfold updSeq
  try dsimp only
  exact (setSeq_frame g0)

theorem handFrame_frame {m a a0 a1 a2} (g0 : Leaves m a a2) (hm : FieldsIn 0x10000000263880021800000000000 m := by first | assumption | exact FieldsIn.of (by assumption) (by decide) | exact FieldsIn.refl _) : Leaves m a (handFrame a0 a1 a2) := by
  unfold handFrame
  try dsimp only
  exact (ite_frame (decideFallback_frame (updSeq_frame (setWatched_frame g0))) (by (try dsimp only); first | (split; exact (ite_frame (decideFallback_frame g0) g0); exact g0) | (split <;> first | exact (ite_frame (decideFallback_frame g0) g0) | exact g0)))

theorem pruneWatched_frame {m a a0 a1} (g0 : Leaves m a a1) (hm : FieldsIn 0x40000000000000000000 m := by first | assumption | exact FieldsIn.of (by assumption) (by decide) | exact FieldsIn.refl _) : Leaves m a (pruneWatched a0 a1) := by
  unfold pruneWatched
  try dsimp only
  exact (setWatched_frame g0)

theorem ringPresent_frame {m a a0 a1 a2} (g0 : Leaves m a a2) (hm : FieldsIn 0x1000000000000000000004 m := by first | assumption | exact FieldsIn.of (by assumption) (by decide) | exact FieldsIn.refl _) : Leaves m a (ringPresent a0 a1 a2) := by
  unfold ringPresent
  try dsimp only
  exact (ite_frame (setRing_frame (addObj_frame g0)) (ite_frame g0 (by (try dsimp only); first | (split; exact (setRing_frame (setObj_frame g0)); exact (setRing_frame (addObj_frame g0))) | (split <;> first | exact (setRing_frame (setObj_frame g0)) | exact (setRing_frame (addObj_frame g0))))))

theorem presentFrame_frame {m a a0 a1 a2 a3} (g0 : Leaves m a a3) (hm : FieldsIn 0x1840000000000000000004 m := by first | assumption | exact FieldsIn.of (by assumption) (by decide) | exact FieldsIn.refl _) : Leaves m a (presentFrame a0 a1 a2 a3) := by
  unfold presentFrame
  try dsimp only
  exact (pruneWatched_frame (ite_frame (setPort_frame (ite_frame (addObj_frame (setObj_frame (updWatched_frame g0))) (setObj_frame (updWatched_frame g0)))) (ringPresent_frame (ite_frame (addObj_frame (setObj_frame (updWatched_frame g0))) (setObj_frame (updWatched_frame g0))))))

theorem execLateCheck_frame {m a a0 a1} (g0 : Leaves m a a1) (hm : FieldsIn 0x800000301840000000000004000004 m := by first | assumption | exact FieldsIn.of (by assumption) (by decide) | exact FieldsIn.refl _) : LeavesOut m a (execLateCheck a0 a1) := by
  unfold execLateCheck
  try dsimp only
  exact (whenLive_frame g0 (fun _ h0 => (by (try dsimp only); first | (split; exact h0; exact (ite_frame (presentFrame_frame h0) (presentFrame_frame (capture_frame (addObj_frame (addObj_frame h0)))))) | (split <;> first | exact h0 | exact (ite_frame (presentFrame_frame h0) (presentFrame_frame (capture_frame (addObj_frame (addObj_frame h0)))))))))

theorem handFrames_frame {m a a0 a1 a2 a3} (g0 : Leaves m a a3) (hm : FieldsIn 0x10000000263880021800000000000 m := by first | assumption | exact FieldsIn.of (by assumption) (by decide) | exact FieldsIn.refl _) : Leaves m a (handFrames a0 a1 a2 a3) := by
  unfold handFrames
  try dsimp only
  exact (foldl_frame (fun _ _ h0 => (handFrame_frame h0)) g0)

theorem setOverlay_frame {m a a0 a1 a2} (g0 : Leaves m a a2) (hm : FieldsIn 0x80000000000000000000 m := by first | assumption | exact FieldsIn.of (by assumption) (by decide) | exact FieldsIn.refl _) : Leaves m a (setOverlay a0 a1 a2) := by
  unfold setOverlay
  try dsimp only
  exact (upd_st_frame g0)

theorem noteSlack_frame {m a a0 a1 a2} (g0 : Leaves m a a2) (hm : FieldsIn 0x4 m := by first | assumption | exact FieldsIn.of (by assumption) (by decide) | exact FieldsIn.refl _) : Leaves m a (noteSlack a0 a1 a2) := by
  unfold noteSlack
  try dsimp only
  exact (ite_frame (setObj_frame g0) g0)

theorem switchFrame_frame {m a a0 a1 a2} (g0 : Leaves m a a2) (hm : FieldsIn 0x810000300263880021800004000006 m := by first | assumption | exact FieldsIn.of (by assumption) (by decide) | exact FieldsIn.refl _) : Leaves m a (switchFrame a0 a1 a2) := by
  unfold switchFrame
  have h1 : ∀ {x y p q r}, Leaves m a (decideFallback a0 a1.o true (useFree (capture 0x0407 p a0 q r 0 (setObj x y (addObj (oDlmSwitches a0) 1 (addObj oDlmSwitchesTotal 1 a2)))))) :=
    decideFallback_frame (useFree_frame (capture_frame (setObj_frame (addObj_frame (addObj_frame g0)))))
  dsimp only
  split
  · exact noteSlack_frame h1
  · exact h1

theorem execFallbackPublishStep_frame {m a a0 a1} (g0 : Leaves m a a1) (hm : FieldsIn 0x10600000263840021800000000004 m := by first | assumption | exact FieldsIn.of (by assumption) (by decide) | exact FieldsIn.refl _) : LeavesOut m a (execFallbackPublishStep a0 a1) := by
  unfold execFallbackPublishStep
  try dsimp only
  exact (whenLive_frame g0 (fun _ h0 => (by (try dsimp only); first | (split; exact h0; exact (by (try dsimp only); first | (split; exact (upd_st_frame h0); exact (by (try dsimp only); first | (split; exact (upd_st_frame h0); exact (ite_frame h0 (ite_frame (updWatched_frame (upd_st_frame (publishTail_frame (updSlot_frame h0)))) (upd_st_frame (publishTail_frame (updSlot_frame h0)))))) | (split <;> first | exact (upd_st_frame h0) | exact (ite_frame h0 (ite_frame (updWatched_frame (upd_st_frame (publishTail_frame (updSlot_frame h0)))) (upd_st_frame (publishTail_frame (updSlot_frame h0)))))))) | (split <;> first | exact (upd_st_frame h0) | exact (by (try dsimp only); first | (split; exact (upd_st_frame h0); exact (ite_frame h0 (ite_frame (updWatched_frame (upd_st_frame (publishTail_frame (updSlot_frame h0)))) (upd_st_frame (publishTail_frame (updSlot_frame h0)))))) | (split <;> first | exact (upd_st_frame h0) | exact (ite_frame h0 (ite_frame (updWatched_frame (upd_st_frame (publishTail_frame (updSlot_frame h0)))) (upd_st_frame (publishTail_frame (updSlot_frame h0)))))))))) | (split <;> first | exact h0 | exact (by (try dsimp only); first | (split; exact (upd_st_frame h0); exact (by (try dsimp only); first | (split; exact (upd_st_frame h0); exact (ite_frame h0 (ite_frame (updWatched_frame (upd_st_frame (publishTail_frame (updSlot_frame h0)))) (upd_st_frame (publishTail_frame (updSlot_frame h0)))))) | (split <;> first | exact (upd_st_frame h0) | exact (ite_frame h0 (ite_frame (updWatched_frame (upd_st_frame (publishTail_frame (updSlot_frame h0)))) (upd_st_frame (publishTail_frame (updSlot_frame h0)))))))) | (split <;> first | exact (upd_st_frame h0) | exact (by (try dsimp only); first | (split; exact (upd_st_frame h0); exact (ite_frame h0 (ite_frame (updWatched_frame (upd_st_frame (publishTail_frame (updSlot_frame h0)))) (upd_st_frame (publishTail_frame (updSlot_frame h0)))))) | (split <;> first | exact (upd_st_frame h0) | exact (ite_frame h0 (ite_frame (updWatched_frame (upd_st_frame (publishTail_frame (updSlot_frame h0)))) (upd_st_frame (publishTail_frame (updSlot_frame h0)))))))))))))

theorem execCheckpoint_frame {m a a0 a1} (g0 : Leaves m a a1) (hm : FieldsIn 0x810000301a63880021800004000006 m := by first | assumption | exact FieldsIn.of (by assumption) (by decide) | exact FieldsIn.refl _) : LeavesOut m a (execCheckpoint a0 a1) := by
  unfold execCheckpoint
  try dsimp only
  exact (whenLive_frame g0 (fun _ h0 => (by (try dsimp only); first | (split; exact h0; exact (ite_frame h0 (ite_frame (presentFrame_frame (noteSlack_frame (updWatched_frame h0))) (switchFrame_frame h0)))) | (split <;> first | exact h0 | exact (ite_frame h0 (ite_frame (presentFrame_frame (noteSlack_frame (updWatched_frame h0))) (switchFrame_frame h0)))))))

theorem addSource_frame {m a a0 a1 a2} (g0 : Leaves m a a2) (hm : FieldsIn 0x20000000000000000000 m := by first | assumption | exact FieldsIn.of (by assumption) (by decide) | exact FieldsIn.refl _) : Leaves m a (addSource a0 a1 a2) := by
  unfold addSource
  try dsimp only
  exact (by (try dsimp only); first | (split; exact g0; exact (by (try dsimp only); first | (split; exact g0; exact (updSeq_frame g0)) | (split <;> first | exact g0 | exact (updSeq_frame g0)))) | (split <;> first | exact g0 | exact (by (try dsimp only); first | (split; exact g0; exact (updSeq_frame g0)) | (split <;> first | exact g0 | exact (updSeq_frame g0)))))

theorem execSourceGap_frame {m a a0 a1} (g0 : Leaves m a a1) (hm : FieldsIn 0x810000300263880021800004000004 m := by first | assumption | exact FieldsIn.of (by assumption) (by decide) | exact FieldsIn.refl _) : LeavesOut m a (execSourceGap a0 a1) := by
  unfold execSourceGap
  try dsimp only
  exact (whenLive_frame g0 (fun _ h0 => (ite_frame (handFrames_frame (capture_frame (setObj_frame (addObj_frame (updSeq_frame h0))))) h0)))

theorem deferFrame_frame {m a a0 a1 a2} (g0 : Leaves m a a2) (hm : FieldsIn 0x80000000020040000000000000000 m := by first | assumption | exact FieldsIn.of (by assumption) (by decide) | exact FieldsIn.refl _) : Leaves m a (deferFrame a0 a1 a2) := by
  unfold deferFrame
  try dsimp only
  exact (deferEvent_frame (updSeq_frame g0))

theorem setSeqStatus_frame {m a a0 a1 a2 a3 a4} (g0 : Leaves m a a4) (hm : FieldsIn 0x4 m := by first | assumption | exact FieldsIn.of (by assumption) (by decide) | exact FieldsIn.refl _) : Leaves m a (setSeqStatus a0 a1 a2 a3 a4) := by
  unfold setSeqStatus
  try dsimp only
  exact (setObj_frame g0)

theorem publishOne_frame {m a a0 a1 a2 a3 a4 a5 a6 a7} (g0 : Leaves m a a7) (hm : FieldsIn 0x106000004638c0021800000000004 m := by first | assumption | exact FieldsIn.of (by assumption) (by decide) | exact FieldsIn.refl _) : Leaves m a (publishOne a0 a1 a2 a3 a4 a5 a6 a7) := by
  unfold publishOne
  try dsimp only
  exact (ite_frame (ite_frame (abandonStep_frame (publishTail_frame (updSlot_frame (ite_frame (updWatched_frame (setSeq_frame g0)) (setSeq_frame g0))))) (publishTail_frame (updSlot_frame (ite_frame (updWatched_frame (setSeq_frame g0)) (setSeq_frame g0))))) (upd_st_frame (ite_frame (abandonStep_frame (publishTail_frame (updSlot_frame (ite_frame (updWatched_frame (setSeq_frame g0)) (setSeq_frame g0))))) (publishTail_frame (updSlot_frame (ite_frame (updWatched_frame (setSeq_frame g0)) (setSeq_frame g0)))))))

theorem startWarm_frame {m a a0 a1 a2} (g0 : Leaves m a a2) (hm : FieldsIn 0x800000300020000000000004000004 m := by first | assumption | exact FieldsIn.of (by assumption) (by decide) | exact FieldsIn.refl _) : Leaves m a (startWarm a0 a1 a2) := by
  unfold startWarm
  try dsimp only
  exact (capture_frame (setObj_frame (setSeq_frame g0)))

theorem dropFresh_frame {m a a0 a1} (g0 : Leaves m a a1) (hm : FieldsIn 0x20000000000000000000 m := by first | assumption | exact FieldsIn.of (by assumption) (by decide) | exact FieldsIn.refl _) : Leaves m a (dropFresh a0 a1) := by
  unfold dropFresh
  try dsimp only
  exact (by (try dsimp only); first | (split; exact g0; exact (updSeq_frame g0)) | (split <;> first | exact g0 | exact (updSeq_frame g0)))

theorem declareCut_frame {m a a0 a1 a2 a3} (g0 : Leaves m a a3) (hm : FieldsIn 0x810000300263880021800004000004 m := by first | assumption | exact FieldsIn.of (by assumption) (by decide) | exact FieldsIn.refl _) : Leaves m a (declareCut a0 a1 a2 a3) := by
  unfold declareCut
  try dsimp only
  exact (ite_frame g0 (capture_frame (startWarm_frame (handFrames_frame (dropFresh_frame (setSeq_frame g0))))))

theorem compareCut_frame {m a a0 a1 a2} (g0 : Leaves m a a2) (hm : FieldsIn 0x810000300263880021800004000004 m := by first | assumption | exact FieldsIn.of (by assumption) (by decide) | exact FieldsIn.refl _) : Leaves m a (compareCut a0 a1 a2) := by
  unfold compareCut
  try dsimp only
  exact (ite_frame (declareCut_frame (updSeq_frame g0)) (updSeq_frame g0))

theorem noticeCuts_frame {m a a0} (g0 : Leaves m a a0) (hm : FieldsIn 0x810000300263880021800004000004 m := by first | assumption | exact FieldsIn.of (by assumption) (by decide) | exact FieldsIn.refl _) : Leaves m a (noticeCuts a0) := by
  unfold noticeCuts
  try dsimp only
  exact (foldl_frame (fun _ _ h0 => (foldl_frame (fun _ _ h1 => (compareCut_frame h1)) h0)) g0)

theorem execSyncUpdateApply_frame {m a a0 a1} (g0 : Leaves m a a1) (hm : FieldsIn 0x810040302273c80021800004000005 m := by first | assumption | exact FieldsIn.of (by assumption) (by decide) | exact FieldsIn.refl _) : LeavesOut m a (execSyncUpdateApply a0 a1) := by
  unfold execSyncUpdateApply
  try dsimp only
  exact (whenLive_frame g0 (fun _ h0 => (noticeCuts_frame (applyFrom_frame h0))))

theorem stopNow_frame {m a a0 a1} (g0 : Leaves m a a1) (hm : FieldsIn 0x10000000263880021800000000004 m := by first | assumption | exact FieldsIn.of (by assumption) (by decide) | exact FieldsIn.refl _) : Leaves m a (stopNow a0 a1) := by
  unfold stopNow
  try dsimp only
  exact (setObj_frame (updSeq_frame (foldl_frame (fun _ _ h0 => (handFrame_frame h0)) (setWatched_frame g0))))

theorem addOutput_frame {m a a0 a1 a2 a3} (g0 : Leaves m a a3) (hm : FieldsIn 0x10000000263880021800000000000 m := by first | assumption | exact FieldsIn.of (by assumption) (by decide) | exact FieldsIn.refl _) : Leaves m a (addOutput a0 a1 a2 a3) := by
  unfold addOutput
  try dsimp only
  exact (by (try dsimp only); first | (split; exact (handFrame_frame g0); exact (by (try dsimp only); first | (split; exact (handFrame_frame g0); exact (updSeq_frame (setWatched_frame g0))) | (split <;> first | exact (handFrame_frame g0) | exact (updSeq_frame (setWatched_frame g0))))) | (split <;> first | exact (handFrame_frame g0) | exact (by (try dsimp only); first | (split; exact (handFrame_frame g0); exact (updSeq_frame (setWatched_frame g0))) | (split <;> first | exact (handFrame_frame g0) | exact (updSeq_frame (setWatched_frame g0))))))

theorem noticeWatched_frame {m a a0 a1 a2} (g0 : Leaves m a a2) (hm : FieldsIn 0x40000000000000000004 m := by first | assumption | exact FieldsIn.of (by assumption) (by decide) | exact FieldsIn.refl _) : Leaves m a (noticeWatched a0 a1 a2) := by
  unfold noticeWatched
  try dsimp only
  exact (pruneWatched_frame (foldl_frame (fun _ _ h0 => (ite_frame (noteSlack_frame h0) h0)) (setWatched_frame g0)))

theorem noticeSteps_frame {m a a0 a1} (g0 : Leaves m a a1) (hm : FieldsIn 0x60000000000000000004 m := by first | assumption | exact FieldsIn.of (by assumption) (by decide) | exact FieldsIn.refl _) : Leaves m a (noticeSteps a0 a1) := by
  unfold noticeSteps
  try dsimp only
  exact (foldl_frame (fun _ _ h0 => (ite_frame h0 (setSeq_frame (noticeWatched_frame h0)))) g0)

theorem storeRing_frame {m a a0 a1 a2 a3} (g0 : Leaves m a a3) (hm : FieldsIn 0x20000000000000000000 m := by first | assumption | exact FieldsIn.of (by assumption) (by decide) | exact FieldsIn.refl _) : Leaves m a (storeRing a0 a1 a2 a3) := by
  unfold storeRing
  try dsimp only
  exact (updSeq_frame g0)

theorem finishStop_frame {m a a0 a1} (g0 : Leaves m a a1) (hm : FieldsIn 0x800000300160000000000004000004 m := by first | assumption | exact FieldsIn.of (by assumption) (by decide) | exact FieldsIn.refl _) : Leaves m a (finishStop a0 a1) := by
  unfold finishStop
  try dsimp only
  exact (capture_frame (setSeqStatus_frame (setObj_frame (upd_st_frame (setWatched_frame (setSeq_frame (setObj_frame g0)))))))

theorem undoAdmission_frame {m a a0 a1 a2} (g0 : Leaves m a a2) (hm : FieldsIn 0x260000000000000000000 m := by first | assumption | exact FieldsIn.of (by assumption) (by decide) | exact FieldsIn.refl _) : Leaves m a (undoAdmission a0 a1 a2) := by
  unfold undoAdmission
  try dsimp only
  exact (upd_st_frame (setWatched_frame (updSeq_frame g0)))

theorem seqStop_frame {m a a0 a1} (g0 : Leaves m a a1) (hm : FieldsIn 0x810000300363880021800004000004 m := by first | assumption | exact FieldsIn.of (by assumption) (by decide) | exact FieldsIn.refl _) : Leaves m a (seqStop a0 a1) := by
  unfold seqStop
  try dsimp only
  exact (ite_frame (finishStop_frame g0) (ite_frame (by (try dsimp only); first | (split; exact (stopNow_frame (undoAdmission_frame g0)); exact (updSeq_frame g0)) | (split <;> first | exact (stopNow_frame (undoAdmission_frame g0)) | exact (updSeq_frame g0))) g0))

theorem noteAdmitted_frame {m a a0 a1 a2} (g0 : Leaves m a a2) (hm : FieldsIn 0x40000000020000000000000000004 m := by first | assumption | exact FieldsIn.of (by assumption) (by decide) | exact FieldsIn.refl _) : Leaves m a (noteAdmitted a0 a1 a2) := by
  unfold noteAdmitted
  try dsimp only
  exact (setObj_frame (updSeq_frame (upd_now_frame g0)))

theorem admitFrame_frame {m a a0 a1 a2} (g0 : Leaves m a a2) (hm : FieldsIn 0x850000300263880021800004000004 m := by first | assumption | exact FieldsIn.of (by assumption) (by decide) | exact FieldsIn.refl _) : Leaves m a (admitFrame a0 a1 a2) := by
  unfold admitFrame
  try dsimp only
  exact (ite_frame (stopNow_frame (noteAdmitted_frame g0)) (ite_frame (handFrames_frame (updSeq_frame (addSource_frame (ite_frame (declareCut_frame (updSeq_frame (noteAdmitted_frame g0))) (ite_frame (startWarm_frame (updSeq_frame (noteAdmitted_frame g0))) (noteAdmitted_frame g0)))))) (addOutput_frame (foldl_frame (fun _ _ h0 => (ite_frame (addOutput_frame h0) (handFrame_frame h0))) (addSource_frame (ite_frame (declareCut_frame (updSeq_frame (noteAdmitted_frame g0))) (ite_frame (startWarm_frame (updSeq_frame (noteAdmitted_frame g0))) (noteAdmitted_frame g0))))))))

theorem joinStream_frame {m a a0 a1 a2} (g0 : Leaves m a a2) (hm : FieldsIn 0x850000300263880021800004000004 m := by first | assumption | exact FieldsIn.of (by assumption) (by decide) | exact FieldsIn.refl _) : Leaves m a (joinStream a0 a1 a2) := by
  unfold joinStream
  try dsimp only
  exact (handFrame_frame (addSource_frame (ite_frame (declareCut_frame (noteAdmitted_frame (setObj_frame (setObj_frame (setSeq_frame g0))))) (startWarm_frame (noteAdmitted_frame (setObj_frame (setObj_frame (setSeq_frame g0))))))))

theorem takeFrameIn_frame {m a a0 a1} (g0 : Leaves m a a1) (hm : FieldsIn 0x850000300263880021800004000004 m := by first | assumption | exact FieldsIn.of (by assumption) (by decide) | exact FieldsIn.refl _) : Leaves m a (takeFrameIn a0 a1) := by
  unfold takeFrameIn
  try dsimp only
  exact (by (try dsimp only); first | (split; exact g0; exact (by (try dsimp only); first | (split; exact (joinStream_frame (updSeq_frame g0)); exact (admitFrame_frame (updSeq_frame g0)); exact (admitFrame_frame (updSeq_frame g0)); exact (updSeq_frame g0)) | (split <;> first | exact (joinStream_frame (updSeq_frame g0)) | exact (admitFrame_frame (updSeq_frame g0)) | exact (updSeq_frame g0)))) | (split <;> first | exact g0 | exact (by (try dsimp only); first | (split; exact (joinStream_frame (updSeq_frame g0)); exact (admitFrame_frame (updSeq_frame g0)); exact (admitFrame_frame (updSeq_frame g0)); exact (updSeq_frame g0)) | (split <;> first | exact (joinStream_frame (updSeq_frame g0)) | exact (admitFrame_frame (updSeq_frame g0)) | exact (updSeq_frame g0)))))

theorem dropFrame_frame {m a a0 a1 a2} (g0 : Leaves m a a2) (hm : FieldsIn 0x800000300000000000000004000004 m := by first | assumption | exact FieldsIn.of (by assumption) (by decide) | exact FieldsIn.refl _) : Leaves m a (dropFrame a0 a1 a2) := by
  unfold dropFrame
  try dsimp only
  exact (capture_frame (addObj_frame g0))

theorem sourceFrame_frame {m a a0 a1 a2 a3} (g0 : Leaves m a a3) (hm : FieldsIn 0x8d00003002638c0021800004000004 m := by first | assumption | exact FieldsIn.of (by assumption) (by decide) | exact FieldsIn.refl _) : Leaves m a (sourceFrame a0 a1 a2 a3) := by
  unfold sourceFrame
  try dsimp only
  exact (by (try dsimp only); first | (split; exact (updSeq_frame (storeRing_frame g0)); exact (ite_frame (dropFrame_frame (storeRing_frame g0)) (ite_frame (deferFrame_frame (storeRing_frame g0)) (joinStream_frame (storeRing_frame g0)))); exact (ite_frame (dropFrame_frame (storeRing_frame g0)) (ite_frame (ite_frame (deferFrame_frame (storeRing_frame g0)) (admitFrame_frame (storeRing_frame g0))) (ite_frame (dropFrame_frame (storeRing_frame g0)) g0))); exact (ite_frame (dropFrame_frame (storeRing_frame g0)) (ite_frame (ite_frame (deferFrame_frame (storeRing_frame g0)) (admitFrame_frame (storeRing_frame g0))) (ite_frame (dropFrame_frame (storeRing_frame g0)) g0))); exact g0) | (split <;> first | exact (updSeq_frame (storeRing_frame g0)) | exact (ite_frame (dropFrame_frame (storeRing_frame g0)) (ite_frame (deferFrame_frame (storeRing_frame g0)) (joinStream_frame (storeRing_frame g0)))) | exact (ite_frame (dropFrame_frame (storeRing_frame g0)) (ite_frame (ite_frame (deferFrame_frame (storeRing_frame g0)) (admitFrame_frame (storeRing_frame g0))) (ite_frame (dropFrame_frame (storeRing_frame g0)) g0))) | exact g0))

theorem takeEvent_frame {m a a0 a1 a2} (g0 : Leaves m a a2) (hm : FieldsIn 0x8506003002638c0021a00004000004 m := by first | assumption | exact FieldsIn.of (by assumption) (by decide) | exact FieldsIn.refl _) : Leaves m a (takeEvent a0 a1 a2) := by
  unfold takeEvent
  try dsimp only
  exact (by (try dsimp only); first | (split; exact (doPartition_frame g0); exact (sendUpdate_frame g0); exact (applyTail_frame g0); exact (markJob_frame g0); exact (unmarkJob_frame g0); exact (takeFrameIn_frame g0)) | (split <;> first | exact (doPartition_frame g0) | exact (sendUpdate_frame g0) | exact (applyTail_frame g0) | exact (markJob_frame g0) | exact (unmarkJob_frame g0) | exact (takeFrameIn_frame g0)))

theorem execAdmissionPoint_frame {m a a0} (g0 : Leaves m a a0) (hm : FieldsIn 0x8506003002638c0021a00004000004 m := by first | assumption | exact FieldsIn.of (by assumption) (by decide) | exact FieldsIn.refl _) : LeavesOut m a (execAdmissionPoint a0) := by
  unfold execAdmissionPoint
  try dsimp only
  exact (whenLive_frame g0 (fun _ h0 => (ite_frame (noticeCuts_frame (foldl_frame (fun _ _ h1 => (takeEvent_frame h1)) (foldl_frame (fun _ _ h1 => (updPart_frame h1)) h0))) h0)))

theorem countCut_frame {m a a0 a1 a2} (g0 : Leaves m a a2) (hm : FieldsIn 0x4 m := by first | assumption | exact FieldsIn.of (by assumption) (by decide) | exact FieldsIn.refl _) : Leaves m a (countCut a0 a1 a2) := by
  unfold countCut
  try dsimp only
  exact (ite_frame (addObj_frame (addObj_frame g0)) g0)

theorem execCommitGrant_frame {m a a0 a1 a2 a3} (g0 : Leaves m a a3) (hm : FieldsIn 0x79600000600a03cd000000000004 m := by first | assumption | exact FieldsIn.of (by assumption) (by decide) | exact FieldsIn.refl _) : LeavesOut m a (execCommitGrant a0 a1 a2 a3) := by
  unfold execCommitGrant
  try dsimp only
  exact (whenLive_frame g0 (fun _ h0 => (ite_frame (noticeSteps_frame (countCut_frame (grantCommit_frame h0))) h0)))

theorem startAudio_frame {m a a0 a1} (g0 : Leaves m a a1) (hm : FieldsIn 0x800000300000000000000004000004 m := by first | assumption | exact FieldsIn.of (by assumption) (by decide) | exact FieldsIn.refl _) : Leaves m a (startAudio a0 a1) := by
  unfold startAudio
  try dsimp only
  exact (ite_frame (setObj_frame g0) (ite_frame (capture_frame (setObj_frame g0)) (setObj_frame g0)))

theorem seqStart_frame {m a a0 a1} (g0 : Leaves m a a1) (hm : FieldsIn 0x8000003007e0000000000004000004 m := by first | assumption | exact FieldsIn.of (by assumption) (by decide) | exact FieldsIn.refl _) : Leaves m a (seqStart a0 a1).1 := by
  unfold seqStart
  try dsimp only
  exact (ite_fst_frame (fst_frame (capture_frame (startAudio_frame (setObj_frame (upd_st_frame (setObj_frame (setObj_frame (setObj_frame (setObj_frame (setObj_frame (setObj_frame (setObj_frame (setSeqStatus_frame g0))))))))))))) (fst_frame (capture_frame (ite_frame (updSeq_frame (setSeqStatus_frame g0)) (setSeqStatus_frame g0)))))

theorem seqForce_frame {m a a0 a1} (g0 : Leaves m a a1) (hm : FieldsIn 0x20000000000000000000 m := by first | assumption | exact FieldsIn.of (by assumption) (by decide) | exact FieldsIn.refl _) : Leaves m a (seqForce a0 a1) := by
  unfold seqForce
  try dsimp only
  exact (ite_frame g0 (updSeq_frame g0))

theorem wSeqCommand_frame {m a a0 a1 a2 a3} (g0 : Leaves m a a3) (hm : FieldsIn 0x8100003007e3880021800004000004 m := by first | assumption | exact FieldsIn.of (by assumption) (by decide) | exact FieldsIn.refl _) : Leaves m a (wSeqCommand a0 a1 a2 a3).1 := by
  unfold wSeqCommand
  try dsimp only
  exact (by (try dsimp only); first | (split; exact (seqStart_frame g0); exact (fst_frame (seqStop_frame g0)); exact (fst_frame (seqForce_frame g0)); exact (fst_frame (refuse_frame g0))) | (split <;> first | exact (seqStart_frame g0) | exact (fst_frame (seqStop_frame g0)) | exact (fst_frame (seqForce_frame g0)) | exact (fst_frame (refuse_frame g0))))

theorem execForceCut_frame {m a a0 a1 a2} (g0 : Leaves m a a2) (hm : FieldsIn 0x8100003007e7880021800004000004 m := by first | assumption | exact FieldsIn.of (by assumption) (by decide) | exact FieldsIn.refl _) : LeavesOut m a (execForceCut a0 a1 a2) := by
  unfold execForceCut
  try dsimp only
  exact (whenFree_frame g0 (fun _ h0 => (ackWrite_frame (wSeqCommand_frame h0))))

theorem execAbandonedRetire_frame {m a a0 a1 a2 a3} (g0 : Leaves m a a3) (hm : FieldsIn 0x10000000061800001800000000004 m := by first | assumption | exact FieldsIn.of (by assumption) (by decide) | exact FieldsIn.refl _) : LeavesOut m a (execAbandonedRetire a0 a1 a2 a3) := by
  unfold execAbandonedRetire
  try dsimp only
  exact (whenLive_frame g0 (fun _ h0 => (ite_frame (noticeSteps_frame (advanceCommit_frame (setSlot_frame (sendSignal_frame (bumpStep_frame h0))))) h0)))

theorem execCommitSignal_frame {m a a0 a1 a2 a3} (g0 : Leaves m a a3) (hm : FieldsIn 0xffffe0300263a80029800004000004 m := by first | assumption | exact FieldsIn.of (by assumption) (by decide) | exact FieldsIn.refl _) : LeavesOut m a (execCommitSignal a0 a1 a2 a3) := by
  unfold execCommitSignal
  try dsimp only
  exact (whenLive_frame g0 (fun _ h0 => (ite_frame (noticeCuts_frame (advanceCommit_frame (updSlot_frame (sendCommitSignals_frame (ite_frame (passCycle_frame h0) h0))))) h0)))

theorem execStreamStop_frame {m a a0 a1 a2} (g0 : Leaves m a a2) (hm : FieldsIn 0x8100003007e7880021800004000004 m := by first | assumption | exact FieldsIn.of (by assumption) (by decide) | exact FieldsIn.refl _) : LeavesOut m a (execStreamStop a0 a1 a2) := by
  unfold execStreamStop
  try dsimp only
  exact (whenFree_frame g0 (fun _ h0 => (ackWrite_frame (wSeqCommand_frame h0))))

theorem execPublishStep_frame {m a a0 a1} (g0 : Leaves m a a1) (hm : FieldsIn 0x106000004638c0021800000000004 m := by first | assumption | exact FieldsIn.of (by assumption) (by decide) | exact FieldsIn.refl _) : LeavesOut m a (execPublishStep a0 a1) := by
  unfold execPublishStep
  try dsimp only
  exact (whenLive_frame g0 (fun _ h0 => (ite_frame (by (try dsimp only); first | (split; exact (publishOne_frame h0); exact h0) | (split <;> first | exact (publishOne_frame h0) | exact h0)) h0)))

theorem resumeSeq_frame {m a a0 a1} (g0 : Leaves m a a1) (hm : FieldsIn 0x810000300263880021800004000004 m := by first | assumption | exact FieldsIn.of (by assumption) (by decide) | exact FieldsIn.refl _) : Leaves m a (resumeSeq a0 a1) := by
  unfold resumeSeq
  try dsimp only
  exact (by (try dsimp only); first | (split; exact g0; exact (by (try dsimp only); first | (split; exact (foldl_frame (fun _ _ h0 => (handFrame_frame h0)) (setSeq_frame g0)); exact (ite_frame (startWarm_frame (foldl_frame (fun _ _ h0 => (handFrame_frame h0)) (setSeq_frame g0))) (foldl_frame (fun _ _ h0 => (handFrame_frame h0)) (setSeq_frame g0)))) | (split <;> first | exact (foldl_frame (fun _ _ h0 => (handFrame_frame h0)) (setSeq_frame g0)) | exact (ite_frame (startWarm_frame (foldl_frame (fun _ _ h0 => (handFrame_frame h0)) (setSeq_frame g0))) (foldl_frame (fun _ _ h0 => (handFrame_frame h0)) (setSeq_frame g0)))))) | (split <;> first | exact g0 | exact (by (try dsimp only); first | (split; exact (foldl_frame (fun _ _ h0 => (handFrame_frame h0)) (setSeq_frame g0)); exact (ite_frame (startWarm_frame (foldl_frame (fun _ _ h0 => (handFrame_frame h0)) (setSeq_frame g0))) (foldl_frame (fun _ _ h0 => (handFrame_frame h0)) (setSeq_frame g0)))) | (split <;> first | exact (foldl_frame (fun _ _ h0 => (handFrame_frame h0)) (setSeq_frame g0)) | exact (ite_frame (startWarm_frame (foldl_frame (fun _ _ h0 => (handFrame_frame h0)) (setSeq_frame g0))) (foldl_frame (fun _ _ h0 => (handFrame_frame h0)) (setSeq_frame g0)))))))

theorem execResetQueueClear_frame {m a a0 a1} (g0 : Leaves m a a1) (hm : FieldsIn 0x8102003002638c0021800004000004 m := by first | assumption | exact FieldsIn.of (by assumption) (by decide) | exact FieldsIn.refl _) : LeavesOut m a (execResetQueueClear a0 a1) := by
  unfold execResetQueueClear
  try dsimp only
  exact (whenLive_frame g0 (fun _ h0 => (ite_frame (foldl_frame (fun _ _ h1 => (ite_frame (resumeSeq_frame h1) h1)) (endReset_frame (clearQueues_frame h0))) h0)))

theorem endWarms_frame {m a a0} (g0 : Leaves m a a0) (hm : FieldsIn 0x800000300020000000000004000004 m := by first | assumption | exact FieldsIn.of (by assumption) (by decide) | exact FieldsIn.refl _) : Leaves m a (endWarms a0) := by
  unfold endWarms
  try dsimp only
  exact (foldl_frame (fun _ _ h0 => (by (try dsimp only); first | (split; exact (ite_frame (capture_frame (setObj_frame (setSeq_frame h0))) (setSeq_frame h0)); exact h0) | (split <;> first | exact (ite_frame (capture_frame (setObj_frame (setSeq_frame h0))) (setSeq_frame h0)) | exact h0))) g0)

theorem execWithdrawalListRetire_frame {m a a0 a1} (g0 : Leaves m a a1) (hm : FieldsIn 0x100000000638c0021800000000004 m := by first | assumption | exact FieldsIn.of (by assumption) (by decide) | exact FieldsIn.refl _) : LeavesOut m a (execWithdrawalListRetire a0 a1) := by
  unfold execWithdrawalListRetire
  try dsimp only
  exact (whenLive_frame g0 (fun _ h0 => (by (try dsimp only); first | (split; exact (ite_frame h0 (noticeSteps_frame (withdrawDoomed_frame (sendSignal_frame (addObj_frame (updPart_frame h0)))))); exact h0) | (split <;> first | exact (ite_frame h0 (noticeSteps_frame (withdrawDoomed_frame (sendSignal_frame (addObj_frame (updPart_frame h0)))))) | exact h0))))

theorem execStreamStart_frame {m a a0 a1 a2} (g0 : Leaves m a a2) (hm : FieldsIn 0x8100003007e7880021800004000004 m := by first | assumption | exact FieldsIn.of (by assumption) (by decide) | exact FieldsIn.refl _) : LeavesOut m a (execStreamStart a0 a1 a2) := by
  unfold execStreamStart
  try dsimp only
  exact (whenFree_frame g0 (fun _ h0 => (ackWrite_frame (wSeqCommand_frame h0))))

theorem execRetireRefused_frame {m a a0 a1 a2 a3} (g0 : Leaves m a a3) (hm : FieldsIn 0x810000300263880021800004000004 m := by first | assumption | exact FieldsIn.of (by assumption) (by decide) | exact FieldsIn.refl _) : LeavesOut m a (execRetireRefused a0 a1 a2 a3) := by
  unfold execRetireRefused
  try dsimp only
  exact (whenLive_frame g0 (fun _ h0 => (by (try dsimp only); first | (split; exact (ite_frame (noticeCuts_frame (noticeSteps_frame (advanceCommit_frame (setSlot_frame (bumpStep_frame h0))))) h0); exact h0) | (split <;> first | exact (ite_frame (noticeCuts_frame (noticeSteps_frame (advanceCommit_frame (setSlot_frame (bumpStep_frame h0))))) h0) | exact h0))))

theorem execStopComplete_frame {m a a0 a1} (g0 : Leaves m a a1) (hm : FieldsIn 0x800000300160000000000004000004 m := by first | assumption | exact FieldsIn.of (by assumption) (by decide) | exact FieldsIn.refl _) : LeavesOut m a (execStopComplete a0 a1) := by
  unfold execStopComplete
  try dsimp only
  exact (whenLive_frame g0 (fun _ h0 => (ite_frame (finishStop_frame h0) h0)))

theorem execBinningStart_frame {m a a0 a1} (g0 : Leaves m a a1) (hm : FieldsIn 0x80000000000000000004 m := by first | assumption | exact FieldsIn.of (by assumption) (by decide) | exact FieldsIn.refl _) : LeavesOut m a (execBinningStart a0 a1) := by
  unfold execBinningStart
  try dsimp only
  exact (whenLive_frame g0 (fun _ h0 => (ite_frame (addObj_frame (setOverlay_frame h0)) h0)))

theorem attachRings_frame {m a a0 a1 a2} (g0 : Leaves m a a2) (hm : FieldsIn 0x1000000000000000000000 m := by first | assumption | exact FieldsIn.of (by assumption) (by decide) | exact FieldsIn.refl _) : Leaves m a (attachRings a0 a1 a2) := by
  unfold attachRings
  try dsimp only
  exact (ite_frame (setRing_frame g0) g0)

theorem execBinningDeadline_frame {m a a0 a1} (g0 : Leaves m a a1) (hm : FieldsIn 0x800000301080000000000004000004 m := by first | assumption | exact FieldsIn.of (by assumption) (by decide) | exact FieldsIn.refl _) : LeavesOut m a (execBinningDeadline a0 a1) := by
  unfold execBinningDeadline
  try dsimp only
  exact (whenLive_frame g0 (fun _ h0 => (by (try dsimp only); first | (split; exact h0; exact (ite_frame (by (try dsimp only); first | (split; exact (attachRings_frame (addObj_frame (setOverlay_frame h0))); exact (attachRings_frame (capture_frame (setObj_frame (addObj_frame (addObj_frame (setOverlay_frame h0))))))) | (split <;> first | exact (attachRings_frame (addObj_frame (setOverlay_frame h0))) | exact (attachRings_frame (capture_frame (setObj_frame (addObj_frame (addObj_frame (setOverlay_frame h0)))))))) h0)) | (split <;> first | exact h0 | exact (ite_frame (by (try dsimp only); first | (split; exact (attachRings_frame (addObj_frame (setOverlay_frame h0))); exact (attachRings_frame (capture_frame (setObj_frame (addObj_frame (addObj_frame (setOverlay_frame h0))))))) | (split <;> first | exact (attachRings_frame (addObj_frame (setOverlay_frame h0))) | exact (attachRings_frame (capture_frame (setObj_frame (addObj_frame (addObj_frame (setOverlay_frame h0)))))))) h0)))))

theorem setStrip_frame {m a a0 a1 a2 a3 a4} (g0 : Leaves m a a4) (hm : FieldsIn 0x80000000000000000002 m := by first | assumption | exact FieldsIn.of (by assumption) (by decide) | exact FieldsIn.refl _) : Leaves m a (setStrip a0 a1 a2 a3 a4) := by
  unfold setStrip
  try dsimp only
  exact (useFree_frame (setOverlay_frame g0))

theorem setOutGen_frame {m a a0 a1 a2} (g0 : Leaves m a a2) (hm : FieldsIn 0x1800000000000000000000 m := by first | assumption | exact FieldsIn.of (by assumption) (by decide) | exact FieldsIn.refl _) : Leaves m a (setOutGen a0 a1 a2) := by
  unfold setOutGen
  try dsimp only
  exact (ite_frame (setPort_frame g0) (setRing_frame g0))

theorem pulseGen_frame {m a a0 a1 a2 a3} (g0 : Leaves m a a3) (hm : FieldsIn 0x1800000000000000000000 m := by first | assumption | exact FieldsIn.of (by assumption) (by decide) | exact FieldsIn.refl _) : Leaves m a (pulseGen a0 a1 a2 a3) := by
  unfold pulseGen
  try dsimp only
  exact (by (try dsimp only); first | (split; exact g0; exact (by (try dsimp only); first | (split; exact (setOutGen_frame g0); exact (setOutGen_frame g0)) | (split <;> first | exact (setOutGen_frame g0)))) | (split <;> first | exact g0 | exact (by (try dsimp only); first | (split; exact (setOutGen_frame g0); exact (setOutGen_frame g0)) | (split <;> first | exact (setOutGen_frame g0)))))

theorem wGenlockSlew_frame {m a a0 a1 a2} (g0 : Leaves m a a2) (hm : FieldsIn 0x800000301800000000000004000004 m := by first | assumption | exact FieldsIn.of (by assumption) (by decide) | exact FieldsIn.refl _) : Leaves m a (wGenlockSlew a0 a1 a2).1 := by
  unfold wGenlockSlew
  try dsimp only
  exact (ite_fst_frame (fst_frame (refuse_frame g0)) (fst_frame (foldl_frame (fun _ _ h0 => (by (try dsimp only); first | (split; exact (setOutGen_frame h0); exact h0) | (split <;> first | exact (setOutGen_frame h0) | exact h0))) (setObj_frame g0))))

theorem setGenlock_frame {m a a0 a1} (g0 : Leaves m a a1) (hm : FieldsIn 0x800000300000000000000004000004 m := by first | assumption | exact FieldsIn.of (by assumption) (by decide) | exact FieldsIn.refl _) : Leaves m a (setGenlock a0 a1) := by
  unfold setGenlock
  try dsimp only
  exact (ite_frame g0 (capture_frame (setObj_frame g0)))

theorem execGenlockLoss_frame {m a a0} (g0 : Leaves m a a0) (hm : FieldsIn 0x800000301800000000000004018004 m := by first | assumption | exact FieldsIn.of (by assumption) (by decide) | exact FieldsIn.refl _) : LeavesOut m a (execGenlockLoss a0) := by
  unfold execGenlockLoss
  try dsimp only
  exact (whenLive_frame g0 (fun _ h0 => (by (try dsimp only); first | (split; exact h0; exact (ite_frame h0 (foldl_frame (fun _ _ h1 => (by (try dsimp only); first | (split; exact (ite_frame (by (try dsimp only); first | (split; exact (setOutGen_frame h1); exact (setOutGen_frame h1)) | (split <;> first | exact (setOutGen_frame h1))) h1); exact h1) | (split <;> first | exact (ite_frame (by (try dsimp only); first | (split; exact (setOutGen_frame h1); exact (setOutGen_frame h1)) | (split <;> first | exact (setOutGen_frame h1))) h1) | exact h1))) (setGenlock_frame (upd_clk_frame h0))))) | (split <;> first | exact h0 | exact (ite_frame h0 (foldl_frame (fun _ _ h1 => (by (try dsimp only); first | (split; exact (ite_frame (by (try dsimp only); first | (split; exact (setOutGen_frame h1); exact (setOutGen_frame h1)) | (split <;> first | exact (setOutGen_frame h1))) h1); exact h1) | (split <;> first | exact (ite_frame (by (try dsimp only); first | (split; exact (setOutGen_frame h1); exact (setOutGen_frame h1)) | (split <;> first | exact (setOutGen_frame h1))) h1) | exact h1))) (setGenlock_frame (upd_clk_frame h0))))))))

theorem slavedPulse_frame {m a a0 a1 a2} (g0 : Leaves m a a2) (hm : FieldsIn 0x1800000000000000000000 m := by first | assumption | exact FieldsIn.of (by assumption) (by decide) | exact FieldsIn.refl _) : Leaves m a (slavedPulse a0 a1 a2) := by
  unfold slavedPulse
  try dsimp only
  exact (foldl_frame (fun _ _ h0 => (ite_frame (pulseGen_frame h0) h0)) g0)

theorem execGenlockPulse_frame {m a a0} (g0 : Leaves m a a0) (hm : FieldsIn 0x800000301800000000000004038004 m := by first | assumption | exact FieldsIn.of (by assumption) (by decide) | exact FieldsIn.refl _) : LeavesOut m a (execGenlockPulse a0) := by
  unfold execGenlockPulse
  try dsimp only
  exact (whenLive_frame g0 (fun _ h0 => (by (try dsimp only); first | (split; exact (setGenlock_frame (upd_clk_frame h0)); exact (ite_frame (upd_clk_frame h0) (ite_frame (setObj_frame (upd_clk_frame h0)) (foldl_frame (fun _ _ h1 => (ite_frame (pulseGen_frame h1) h1)) (setGenlock_frame (setObj_frame (upd_clk_frame h0))))))) | (split <;> first | exact (setGenlock_frame (upd_clk_frame h0)) | exact (ite_frame (upd_clk_frame h0) (ite_frame (setObj_frame (upd_clk_frame h0)) (foldl_frame (fun _ _ h1 => (ite_frame (pulseGen_frame h1) h1)) (setGenlock_frame (setObj_frame (upd_clk_frame h0))))))))))

theorem execBinRowRender_frame {m a a0 a1 a2} (g0 : Leaves m a a2) (hm : FieldsIn 0x80000000000000000002 m := by first | assumption | exact FieldsIn.of (by assumption) (by decide) | exact FieldsIn.refl _) : LeavesOut m a (execBinRowRender a0 a1 a2) := by
  unfold execBinRowRender
  try dsimp only
  exact (whenLive_frame g0 (fun _ h0 => (ite_frame (by (try dsimp only); first | (split; exact (ite_frame (setStrip_frame h0) h0); exact h0) | (split <;> first | exact (ite_frame (setStrip_frame h0) h0) | exact h0)) (by (try dsimp only); first | (split; exact (by (try dsimp only); first | (split; exact h0; exact (by (try dsimp only); first | (split; exact h0; exact (ite_frame (setStrip_frame h0) h0)) | (split <;> first | exact h0 | exact (ite_frame (setStrip_frame h0) h0)))) | (split <;> first | exact h0 | exact (by (try dsimp only); first | (split; exact h0; exact (ite_frame (setStrip_frame h0) h0)) | (split <;> first | exact h0 | exact (ite_frame (setStrip_frame h0) h0))))); exact h0) | (split <;> first | exact (by (try dsimp only); first | (split; exact h0; exact (by (try dsimp only); first | (split; exact h0; exact (ite_frame (setStrip_frame h0) h0)) | (split <;> first | exact h0 | exact (ite_frame (setStrip_frame h0) h0)))) | (split <;> first | exact h0 | exact (by (try dsimp only); first | (split; exact h0; exact (ite_frame (setStrip_frame h0) h0)) | (split <;> first | exact h0 | exact (ite_frame (setStrip_frame h0) h0))))) | exact h0)))))

theorem freeStrips_frame {m a a0 a1 a2} (g0 : Leaves m a a2) (hm : FieldsIn 0x80000000000000000000 m := by first | assumption | exact FieldsIn.of (by assumption) (by decide) | exact FieldsIn.refl _) : Leaves m a (freeStrips a0 a1 a2) := by
  unfold freeStrips
  try dsimp only
  exact (setOverlay_frame g0)

theorem refreshLevel_frame {m a a0 a1} (g0 : Leaves m a a1) (hm : FieldsIn 0x4 m := by first | assumption | exact FieldsIn.of (by assumption) (by decide) | exact FieldsIn.refl _) : Leaves m a (refreshLevel a0 a1) := by
  unfold refreshLevel
  try dsimp only
  exact (setObj_frame (setObj_frame g0))

theorem beginFrame_frame {m a a0 a1 a2} (g0 : Leaves m a a2) (hm : FieldsIn 0x20880000000000000000005 m := by first | assumption | exact FieldsIn.of (by assumption) (by decide) | exact FieldsIn.refl _) : Leaves m a (beginFrame a0 a1 a2) := by
  unfold beginFrame
  try dsimp only
  exact (ite_frame (refreshPins_frame (upd_io_frame (refreshLevel_frame (ite_frame (addObj_frame (by (try dsimp only); first | (split; exact (ite_frame (freeStrips_frame (addObj_frame (setObj_frame (setObj_frame (setPort_frame g0))))) (setObj_frame (setObj_frame (setPort_frame g0)))); exact (setObj_frame (setObj_frame (setPort_frame g0)))) | (split <;> first | exact (ite_frame (freeStrips_frame (addObj_frame (setObj_frame (setObj_frame (setPort_frame g0))))) (setObj_frame (setObj_frame (setPort_frame g0)))) | exact (setObj_frame (setObj_frame (setPort_frame g0)))))) (by (try dsimp only); first | (split; exact (ite_frame (freeStrips_frame (addObj_frame (setObj_frame (setObj_frame (setPort_frame g0))))) (setObj_frame (setObj_frame (setPort_frame g0)))); exact (setObj_frame (setObj_frame (setPort_frame g0)))) | (split <;> first | exact (ite_frame (freeStrips_frame (addObj_frame (setObj_frame (setObj_frame (setPort_frame g0))))) (setObj_frame (setObj_frame (setPort_frame g0)))) | exact (setObj_frame (setObj_frame (setPort_frame g0))))))))) (refreshLevel_frame (ite_frame (addObj_frame (by (try dsimp only); first | (split; exact (ite_frame (freeStrips_frame (addObj_frame (setObj_frame (setObj_frame (setPort_frame g0))))) (setObj_frame (setObj_frame (setPort_frame g0)))); exact (setObj_frame (setObj_frame (setPort_frame g0)))) | (split <;> first | exact (ite_frame (freeStrips_frame (addObj_frame (setObj_frame (setObj_frame (setPort_frame g0))))) (setObj_frame (setObj_frame (setPort_frame g0)))) | exact (setObj_frame (setObj_frame (setPort_frame g0)))))) (by (try dsimp only); first | (split; exact (ite_frame (freeStrips_frame (addObj_frame (setObj_frame (setObj_frame (setPort_frame g0))))) (setObj_frame (setObj_frame (setPort_frame g0)))); exact (setObj_frame (setObj_frame (setPort_frame g0)))) | (split <;> first | exact (ite_frame (freeStrips_frame (addObj_frame (setObj_frame (setObj_frame (setPort_frame g0))))) (setObj_frame (setObj_frame (setPort_frame g0)))) | exact (setObj_frame (setObj_frame (setPort_frame g0))))))))

theorem noteBoundary_frame {m a a0 a1 a2} (g0 : Leaves m a a2) (hm : FieldsIn 0x20000000000000000000 m := by first | assumption | exact FieldsIn.of (by assumption) (by decide) | exact FieldsIn.refl _) : Leaves m a (noteBoundary a0 a1 a2) := by
  unfold noteBoundary
  try dsimp only
  exact (updSeq_frame g0)

theorem setPath_frame {m a a0 a1 a2} (g0 : Leaves m a a2) (hm : FieldsIn 0x4000000000000000000000 m := by first | assumption | exact FieldsIn.of (by assumption) (by decide) | exact FieldsIn.refl _) : Leaves m a (setPath a0 a1 a2) := by
  unfold setPath
  try dsimp only
  exact (upd_io_frame g0)

theorem stopPaths_frame {m a a0 a1} (g0 : Leaves m a a1) (hm : FieldsIn 0x4000000000000000000004 m := by first | assumption | exact FieldsIn.of (by assumption) (by decide) | exact FieldsIn.refl _) : Leaves m a (stopPaths a0 a1) := by
  unfold stopPaths
  try dsimp only
  exact (by (try dsimp only); first | (split; exact (ite_frame (setPath_frame (setObj_frame g0)) g0); exact g0) | (split <;> first | exact (ite_frame (setPath_frame (setObj_frame g0)) g0) | exact g0))

theorem execOutputFrameBoundary_frame {m a a0 a1} (g0 : Leaves m a a1) (hm : FieldsIn 0x258a0000000000000000005 m := by first | assumption | exact FieldsIn.of (by assumption) (by decide) | exact FieldsIn.refl _) : LeavesOut m a (execOutputFrameBoundary a0 a1) := by
  unfold execOutputFrameBoundary
  try dsimp only
  exact (whenLive_frame g0 (fun _ h0 => (by (try dsimp only); first | (split; exact h0; exact (ite_frame h0 (ite_frame (beginFrame_frame (stopPaths_frame (by (try dsimp only); first | (split; exact (noteBoundary_frame (setOutGen_frame h0)); exact (setOutGen_frame h0)) | (split <;> first | exact (noteBoundary_frame (setOutGen_frame h0)) | exact (setOutGen_frame h0))))) (by (try dsimp only); first | (split; exact (noteBoundary_frame (setOutGen_frame h0)); exact (setOutGen_frame h0)) | (split <;> first | exact (noteBoundary_frame (setOutGen_frame h0)) | exact (setOutGen_frame h0)))))) | (split <;> first | exact h0 | exact (ite_frame h0 (ite_frame (beginFrame_frame (stopPaths_frame (by (try dsimp only); first | (split; exact (noteBoundary_frame (setOutGen_frame h0)); exact (setOutGen_frame h0)) | (split <;> first | exact (noteBoundary_frame (setOutGen_frame h0)) | exact (setOutGen_frame h0))))) (by (try dsimp only); first | (split; exact (noteBoundary_frame (setOutGen_frame h0)); exact (setOutGen_frame h0)) | (split <;> first | exact (noteBoundary_frame (setOutGen_frame h0)) | exact (setOutGen_frame h0)))))))))

theorem setAudio_frame {m a a0 a1 a2} (g0 : Leaves m a a2) (hm : FieldsIn 0x100000000000000000000 m := by first | assumption | exact FieldsIn.of (by assumption) (by decide) | exact FieldsIn.refl _) : Leaves m a (setAudio a0 a1 a2) := by
  unfold setAudio
  try dsimp only
  exact (upd_st_frame g0)

theorem takeSets_frame {m a a0 a1 a2 a3} (g0 : Leaves m a a3) (hm : FieldsIn 0x100000000000000000000 m := by first | assumption | exact FieldsIn.of (by assumption) (by decide) | exact FieldsIn.refl _) : Leaves m a (takeSets a0 a1 a2 a3) := by
  unfold takeSets
  try dsimp only
  exact (setAudio_frame g0)

theorem fillBlank_frame {m a a0 a1} (g0 : Leaves m a a1) (hm : FieldsIn 0x900000000000000000000 m := by first | assumption | exact FieldsIn.of (by assumption) (by decide) | exact FieldsIn.refl _) : Leaves m a (fillBlank a0 a1) := by
  unfold fillBlank
  try dsimp only
  exact (by (try dsimp only); first | (split; exact (setPort_frame g0); exact (by (try dsimp only); first | (split; exact (setPort_frame g0); exact (takeSets_frame (setPort_frame g0))) | (split <;> first | exact (setPort_frame g0) | exact (takeSets_frame (setPort_frame g0))))) | (split <;> first | exact (setPort_frame g0) | exact (by (try dsimp only); first | (split; exact (setPort_frame g0); exact (takeSets_frame (setPort_frame g0))) | (split <;> first | exact (setPort_frame g0) | exact (takeSets_frame (setPort_frame g0))))))

theorem pushSet_frame {m a a0 a1 a2 a3} (g0 : Leaves m a a3) (hm : FieldsIn 0x100000000000000000004 m := by first | assumption | exact FieldsIn.of (by assumption) (by decide) | exact FieldsIn.refl _) : Leaves m a (pushSet a0 a1 a2 a3) := by
  unfold pushSet
  try dsimp only
  exact (ite_frame (addObj_frame (setAudio_frame g0)) (setAudio_frame g0))

theorem releaseMute_frame {m a a0} (g0 : Leaves m a a0) (hm : FieldsIn 0x20000000000000000000000 m := by first | assumption | exact FieldsIn.of (by assumption) (by decide) | exact FieldsIn.refl _) : Leaves m a (releaseMute a0) := by
  unfold releaseMute
  try dsimp only
  exact (ite_frame (upd_io_frame g0) g0)

theorem noteFill_frame {m a a0 a1} (g0 : Leaves m a a1) (hm : FieldsIn 0x4 m := by first | assumption | exact FieldsIn.of (by assumption) (by decide) | exact FieldsIn.refl _) : Leaves m a (noteFill a0 a1) := by
  unfold noteFill
  try dsimp only
  exact (setObj_frame g0)

theorem countSegment_frame {m a a0 a1 a2} (g0 : Leaves m a a2) (hm : FieldsIn 0x4 m := by first | assumption | exact FieldsIn.of (by assumption) (by decide) | exact FieldsIn.refl _) : Leaves m a (countSegment a0 a1 a2) := by
  unfold countSegment
  try dsimp only
  exact (ite_frame (addObj_frame (addObj_frame g0)) (addObj_frame g0))

theorem countNext_frame {m a a0 a1 a2} (g0 : Leaves m a a2) (hm : FieldsIn 0x800000000000000000004 m := by first | assumption | exact FieldsIn.of (by assumption) (by decide) | exact FieldsIn.refl _) : Leaves m a (countNext a0 a1 a2) := by
  unfold countNext
  try dsimp only
  exact (setPort_frame (countSegment_frame g0))

theorem countConcealed_frame {m a a0 a1 a2} (g0 : Leaves m a a2) (hm : FieldsIn 0x800000000000000000004 m := by first | assumption | exact FieldsIn.of (by assumption) (by decide) | exact FieldsIn.refl _) : Leaves m a (countConcealed a0 a1 a2) := by
  unfold countConcealed
  try dsimp only
  exact (by (try dsimp only); first | (split; exact (setPort_frame (countSegment_frame g0)); exact (countNext_frame g0)) | (split <;> first | exact (setPort_frame (countSegment_frame g0)) | exact (countNext_frame g0)))

theorem pathTake_frame {m a a0 a1 a2 a3} (g0 : Leaves m a a3) (hm : FieldsIn 0x4000000000000000000000 m := by first | assumption | exact FieldsIn.of (by assumption) (by decide) | exact FieldsIn.refl _) : Leaves m a (pathTake a0 a1 a2 a3) := by
  unfold pathTake
  try dsimp only
  exact (by (try dsimp only); first | (split; exact g0; exact (setPath_frame g0)) | (split <;> first | exact g0 | exact (setPath_frame g0)))

theorem takeAncillary_frame {m a a0 a1 a2 a3} (g0 : Leaves m a a3) (hm : FieldsIn 0x4800000000000000000004 m := by first | assumption | exact FieldsIn.of (by assumption) (by decide) | exact FieldsIn.refl _) : Leaves m a (takeAncillary a0 a1 a2 a3) := by
  unfold takeAncillary
  try dsimp only
  exact (ite_frame (setPort_frame (pathTake_frame g0)) (countNext_frame g0))

theorem concealSet_frame {m a a0 a1 a2} (g0 : Leaves m a a2) (hm : FieldsIn 0x100000000000000000004 m := by first | assumption | exact FieldsIn.of (by assumption) (by decide) | exact FieldsIn.refl _) : Leaves m a (concealSet a0 a1 a2) := by
  unfold concealSet
  try dsimp only
  exact (addObj_frame (pushSet_frame g0))

theorem concealSets_frame {m a a0 a1 a2 a3 a4} (g0 : Leaves m a a4) (hm : FieldsIn 0x100000000000000000004 m := by first | assumption | exact FieldsIn.of (by assumption) (by decide) | exact FieldsIn.refl _) : Leaves m a (concealSets a0 a1 a2 a3 a4) := by
  unfold concealSets
  try dsimp only
  exact (foldl_frame (fun _ _ h0 => (concealSet_frame h0)) g0)

theorem goodSet_frame {m a a0 a1 a2 a3} (g0 : Leaves m a a3) (hm : FieldsIn 0x100000000000000000004 m := by first | assumption | exact FieldsIn.of (by assumption) (by decide) | exact FieldsIn.refl _) : Leaves m a (goodSet a0 a1 a2 a3) := by
  unfold goodSet
  try dsimp only
  exact (setAudio_frame (pushSet_frame g0))

theorem takeAudio_frame {m a a0 a1 a2 a3} (g0 : Leaves m a a3) (hm : FieldsIn 0x4900000000000000000004 m := by first | assumption | exact FieldsIn.of (by assumption) (by decide) | exact FieldsIn.refl _) : Leaves m a (takeAudio a0 a1 a2 a3) := by
  have h4 : ∀ {s x}, Leaves m a s → Leaves m a (countNext a0 x s) := fun h => countNext_frame h
  unfold takeAudio
  dsimp only
  split
  · refine ite_frame ?_ (h4 ?_) <;>
      (split <;> [exact ite_frame (pathTake_frame g0) (pathTake_frame g0); exact g0])
  · refine ite_frame ?_ (h4 ?_) <;>
    · refine setPort_frame (foldl_frame (fun s k h => ?_) ?_)
      · split
        · exact foldl_frame (fun _ _ h => goodSet_frame h) h
        · exact concealSets_frame h
      · split
        · exact ite_frame (pathTake_frame g0) (pathTake_frame g0)
        · exact g0

theorem concealMissing_frame {m a a0 a1 a2 a3} (g0 : Leaves m a a3) (hm : FieldsIn 0x900000000000000000004 m := by first | assumption | exact FieldsIn.of (by assumption) (by decide) | exact FieldsIn.refl _) : Leaves m a (concealMissing a0 a1 a2 a3) := by
  unfold concealMissing
  try dsimp only
  exact (ite_frame g0 (foldl_frame (fun _ _ h0 => (concealSets_frame h0)) (countNext_frame g0)))

theorem writeRegionPage_frame {m a a0 a1 a2 a3 a4} (g0 : Leaves m a a4) (hm : FieldsIn 0x2c0000000000000 m := by first | assumption | exact FieldsIn.of (by assumption) (by decide) | exact FieldsIn.refl _) : Leaves m a (writeRegionPage a0 a1 a2 a3 a4) := by
  unfold writeRegionPage
  split
  · exact setC_frame g0
  · refine ite_frame g0 ?_
    split
    · exact g0
    · exact upd_ci_frame (pushVersion_frame (setC_frame g0))

theorem writeRegion_frame {m a a0 a1 a2 a3} (g0 : Leaves m a a3) (hm : FieldsIn 0x2c0000000000000 m := by first | assumption | exact FieldsIn.of (by assumption) (by decide) | exact FieldsIn.refl _) : Leaves m a (writeRegion a0 a1 a2 a3) := by
  unfold writeRegion
  try dsimp only
  exact (foldl_frame (fun _ _ h0 => (writeRegionPage_frame h0)) g0)

theorem concealVideo_frame {m a a0 a1 a2 a3 a4 a5} (g0 : Leaves m a a5) (hm : FieldsIn 0x2c0000000000000 m := by first | assumption | exact FieldsIn.of (by assumption) (by decide) | exact FieldsIn.refl _) : Leaves m a (concealVideo a0 a1 a2 a3 a4 a5) := by
  unfold concealVideo
  try dsimp only
  exact (foldl_frame (fun _ _ h0 => (by (try dsimp only); first | (split; exact (writeRegion_frame h0); exact h0) | (split <;> first | exact (writeRegion_frame h0) | exact h0))) g0)

theorem concealRange_frame {m a a0 a1 a2} (g0 : Leaves m a a2) (hm : FieldsIn 0x48000002c0000000000004 m := by first | assumption | exact FieldsIn.of (by assumption) (by decide) | exact FieldsIn.refl _) : Leaves m a (concealRange a0 a1 a2) := by
  unfold concealRange
  try dsimp only
  exact (by (try dsimp only); first | (split; exact g0; exact (addObj_frame (setPort_frame (concealVideo_frame (pathTake_frame g0))))) | (split <;> first | exact g0 | exact (addObj_frame (setPort_frame (concealVideo_frame (pathTake_frame g0))))))

theorem concealTo_frame {m a a0 a1 a2 a3} (g0 : Leaves m a a3) (hm : FieldsIn 0x48000002c0000000000004 m := by first | assumption | exact FieldsIn.of (by assumption) (by decide) | exact FieldsIn.refl _) : Leaves m a (concealTo a0 a1 a2 a3) := by
  unfold concealTo
  try dsimp only
  exact (by (try dsimp only); first | (split; exact g0; exact (by (try dsimp only); first | (split; exact (setPort_frame (foldl_frame (fun _ _ h0 => (concealRange_frame h0)) g0)); exact (foldl_frame (fun _ _ h0 => (concealRange_frame h0)) g0)) | (split <;> first | exact (setPort_frame (foldl_frame (fun _ _ h0 => (concealRange_frame h0)) g0)) | exact (foldl_frame (fun _ _ h0 => (concealRange_frame h0)) g0)))) | (split <;> first | exact g0 | exact (by (try dsimp only); first | (split; exact (setPort_frame (foldl_frame (fun _ _ h0 => (concealRange_frame h0)) g0)); exact (foldl_frame (fun _ _ h0 => (concealRange_frame h0)) g0)) | (split <;> first | exact (setPort_frame (foldl_frame (fun _ _ h0 => (concealRange_frame h0)) g0)) | exact (foldl_frame (fun _ _ h0 => (concealRange_frame h0)) g0)))))

theorem finishFrame_frame {m a a0 a1} (g0 : Leaves m a a1) (hm : FieldsIn 0x8d0000300a638c0021800004000004 m := by first | assumption | exact FieldsIn.of (by assumption) (by decide) | exact FieldsIn.refl _) : Leaves m a (finishFrame a0 a1) := by
  unfold finishFrame
  try dsimp only
  exact (by (try dsimp only); first | (split; exact g0; exact (ite_frame (capture_frame (addObj_frame (ite_frame (addObj_frame (setPort_frame g0)) (capture_frame (addObj_frame (setPort_frame g0)))))) (foldl_frame (fun _ _ h0 => (sourceFrame_frame h0)) (ite_frame (addObj_frame (setPort_frame g0)) (capture_frame (addObj_frame (setPort_frame g0))))))) | (split <;> first | exact g0 | exact (ite_frame (capture_frame (addObj_frame (ite_frame (addObj_frame (setPort_frame g0)) (capture_frame (addObj_frame (setPort_frame g0)))))) (foldl_frame (fun _ _ h0 => (sourceFrame_frame h0)) (ite_frame (addObj_frame (setPort_frame g0)) (capture_frame (addObj_frame (setPort_frame g0))))))))

theorem frameDone_frame {m a a0 a1} (g0 : Leaves m a a1) (hm : FieldsIn 0x8d0000300a638c0021800004000004 m := by first | assumption | exact FieldsIn.of (by assumption) (by decide) | exact FieldsIn.refl _) : Leaves m a (frameDone a0 a1) := by
  unfold frameDone
  try dsimp only
  exact (by (try dsimp only); first | (split; exact (ite_frame (finishFrame_frame g0) g0); exact g0) | (split <;> first | exact (ite_frame (finishFrame_frame g0) g0) | exact g0))

theorem startFrame_frame {m a a0 a1 a2 a3} (g0 : Leaves m a a3) (hm : FieldsIn 0x8d0000305b638c02e1800004000004 m := by first | assumption | exact FieldsIn.of (by assumption) (by decide) | exact FieldsIn.refl _) : Leaves m a (startFrame a0 a1 a2 a3) := by
  unfold startFrame
  try dsimp only
  exact (slavedPulse_frame (setPort_frame (concealMissing_frame (frameDone_frame (concealTo_frame g0)))))

theorem takeTiming_frame {m a a0 a1 a2 a3} (g0 : Leaves m a a3) (hm : FieldsIn 0x8d0000305b638c02e1800004000004 m := by first | assumption | exact FieldsIn.of (by assumption) (by decide) | exact FieldsIn.refl _) : Leaves m a (takeTiming a0 a1 a2 a3) := by
  unfold takeTiming
  try dsimp only
  exact (ite_frame (pathTake_frame (ite_frame (startFrame_frame g0) g0)) (setPort_frame (countNext_frame g0)))

theorem countCrc_frame {m a a0 a1} (g0 : Leaves m a a1) (hm : FieldsIn 0x800000000000000000004 m := by first | assumption | exact FieldsIn.of (by assumption) (by decide) | exact FieldsIn.refl _) : Leaves m a (countCrc a0 a1) := by
  unfold countCrc
  try dsimp only
  exact (by (try dsimp only); first | (split; exact (setPort_frame (addObj_frame g0)); exact (addObj_frame g0)) | (split <;> first | exact (setPort_frame (addObj_frame g0)) | exact (addObj_frame g0)))

theorem storeVideo_frame {m a a0 a1 a2 a3 a4 a5} (g0 : Leaves m a a5) (hm : FieldsIn 0x2c0000000000000 m := by first | assumption | exact FieldsIn.of (by assumption) (by decide) | exact FieldsIn.refl _) : Leaves m a (storeVideo a0 a1 a2 a3 a4 a5) := by
  unfold storeVideo
  try dsimp only
  exact (foldl_frame (fun _ _ h0 => (by (try dsimp only); first | (split; exact (writeRegion_frame h0); exact h0) | (split <;> first | exact (writeRegion_frame h0) | exact h0))) g0)

theorem takeVideo_frame {m a a0 a1 a2 a3} (g0 : Leaves m a a3) (hm : FieldsIn 0x8d0000304a638c02e1800004000004 m := by first | assumption | exact FieldsIn.of (by assumption) (by decide) | exact FieldsIn.refl _) : Leaves m a (takeVideo a0 a1 a2 a3) := by
  unfold takeVideo
  try dsimp only
  exact (by (try dsimp only); first | (split; exact (ite_frame g0 (countConcealed_frame g0)); exact (ite_frame (ite_frame g0 (by (try dsimp only); first | (split; exact (frameDone_frame (setPort_frame (storeVideo_frame (pathTake_frame (concealTo_frame g0))))); exact (storeVideo_frame (pathTake_frame (concealTo_frame g0)))) | (split <;> first | exact (frameDone_frame (setPort_frame (storeVideo_frame (pathTake_frame (concealTo_frame g0))))) | exact (storeVideo_frame (pathTake_frame (concealTo_frame g0)))))) (ite_frame (by (try dsimp only); first | (split; exact (frameDone_frame (setPort_frame (concealRange_frame (ite_frame g0 (countCrc_frame g0))))); exact (concealRange_frame (ite_frame g0 (countCrc_frame g0)))) | (split <;> first | exact (frameDone_frame (setPort_frame (concealRange_frame (ite_frame g0 (countCrc_frame g0))))) | exact (concealRange_frame (ite_frame g0 (countCrc_frame g0))))) (ite_frame g0 (countCrc_frame g0))))) | (split <;> first | exact (ite_frame g0 (countConcealed_frame g0)) | exact (ite_frame (ite_frame g0 (by (try dsimp only); first | (split; exact (frameDone_frame (setPort_frame (storeVideo_frame (pathTake_frame (concealTo_frame g0))))); exact (storeVideo_frame (pathTake_frame (concealTo_frame g0)))) | (split <;> first | exact (frameDone_frame (setPort_frame (storeVideo_frame (pathTake_frame (concealTo_frame g0))))) | exact (storeVideo_frame (pathTake_frame (concealTo_frame g0)))))) (ite_frame (by (try dsimp only); first | (split; exact (frameDone_frame (setPort_frame (concealRange_frame (ite_frame g0 (countCrc_frame g0))))); exact (concealRange_frame (ite_frame g0 (countCrc_frame g0)))) | (split <;> first | exact (frameDone_frame (setPort_frame (concealRange_frame (ite_frame g0 (countCrc_frame g0))))) | exact (concealRange_frame (ite_frame g0 (countCrc_frame g0))))) (ite_frame g0 (countCrc_frame g0))))))

theorem execInputSegment_frame {m a a0 a1 a2 a3} (g0 : Leaves m a a3) (hm : FieldsIn 0x8d0000305b638c02e1800004000004 m := by first | assumption | exact FieldsIn.of (by assumption) (by decide) | exact FieldsIn.refl _) : LeavesOut m a (execInputSegment a0 a1 a2 a3) := by
  unfold execInputSegment
  try dsimp only
  exact (whenLive_frame g0 (fun _ h0 => (ite_frame (by (try dsimp only); first | (split; exact (takeVideo_frame h0); exact (takeAncillary_frame h0); exact (takeAudio_frame h0); exact (takeTiming_frame h0); exact (countConcealed_frame h0)) | (split <;> first | exact (takeVideo_frame h0) | exact (takeAncillary_frame h0) | exact (takeAudio_frame h0) | exact (takeTiming_frame h0) | exact (countConcealed_frame h0))) h0)))

theorem wAudio_frame {m a a0 a1 a2 a3 a4} (g0 : Leaves m a a4) (hm : FieldsIn 0x800000300000000000000004000004 m := by first | assumption | exact FieldsIn.of (by assumption) (by decide) | exact FieldsIn.refl _) : Leaves m a (wAudio a0 a1 a2 a3 a4).1 := by
  unfold wAudio
  try dsimp only
  exact (ite_fst_frame (fst_frame (refuse_frame g0)) (ite_fst_frame (fst_frame (refuse_frame g0)) (ite_fst_frame (fst_frame (refuse_frame g0)) (fst_frame (setObj_frame (setObj_frame g0))))))

theorem refreshMute_frame {m a a0} (g0 : Leaves m a a0) (hm : FieldsIn 0x4 m := by first | assumption | exact FieldsIn.of (by assumption) (by decide) | exact FieldsIn.refl _) : Leaves m a (refreshMute a0) := by
  unfold refreshMute
  try dsimp only
  exact (setObj_frame g0)

theorem wMutePorts_frame {m a a0 a1} (g0 : Leaves m a a1) (hm : FieldsIn 0x4 m := by first | assumption | exact FieldsIn.of (by assumption) (by decide) | exact FieldsIn.refl _) : Leaves m a (wMutePorts a0 a1).1 := by
  unfold wMutePorts
  try dsimp only
  exact (refreshMute_frame (setObj_frame g0))

theorem execLaneBlockLock_frame {m a a0 a1 a2 a3} (g0 : Leaves m a a3) (hm : FieldsIn 0x800000000000000000004 m := by first | assumption | exact FieldsIn.of (by assumption) (by decide) | exact FieldsIn.refl _) : LeavesOut m a (execLaneBlockLock a0 a1 a2 a3) := by
  unfold execLaneBlockLock
  try dsimp only
  exact (whenLive_frame g0 (fun _ h0 => (ite_frame (ite_frame (setObj_frame (setObj_frame (ite_frame (setPort_frame h0) (setField_frame (setPort_frame h0))))) (ite_frame (setPort_frame h0) (setField_frame (setPort_frame h0)))) h0)))

theorem setRasterStatus_frame {m a a0 a1 a2} (g0 : Leaves m a a2) (hm : FieldsIn 0x4 m := by first | assumption | exact FieldsIn.of (by assumption) (by decide) | exact FieldsIn.refl _) : Leaves m a (setRasterStatus a0 a1 a2) := by
  unfold setRasterStatus
  try dsimp only
  exact (setObj_frame g0)

theorem applyConfig_frame {m a a0 a1 a2} (g0 : Leaves m a a2) (hm : FieldsIn 0x800000000000000000004 m := by first | assumption | exact FieldsIn.of (by assumption) (by decide) | exact FieldsIn.refl _) : Leaves m a (applyConfig a0 a1 a2) := by
  unfold applyConfig
  try dsimp only
  exact (ite_frame (refreshMute_frame (setObj_frame (ite_frame (refreshLevel_frame (setObj_frame (setObj_frame (setObj_frame (setObj_frame (ite_frame (setObj_frame (setObj_frame (setObj_frame (setPort_frame (setRasterStatus_frame (setObj_frame g0)))))) (setPort_frame (setRasterStatus_frame (setObj_frame g0))))))))) (setObj_frame (setObj_frame (setObj_frame (setObj_frame (ite_frame (setObj_frame (setObj_frame (setObj_frame (setPort_frame (setRasterStatus_frame (setObj_frame g0)))))) (setPort_frame (setRasterStatus_frame (setObj_frame g0))))))))))) (setObj_frame (refreshMute_frame (setObj_frame (ite_frame (refreshLevel_frame (setObj_frame (setObj_frame (setObj_frame (setObj_frame (ite_frame (setObj_frame (setObj_frame (setObj_frame (setPort_frame (setRasterStatus_frame (setObj_frame g0)))))) (setPort_frame (setRasterStatus_frame (setObj_frame g0))))))))) (setObj_frame (setObj_frame (setObj_frame (setObj_frame (ite_frame (setObj_frame (setObj_frame (setObj_frame (setPort_frame (setRasterStatus_frame (setObj_frame g0)))))) (setPort_frame (setRasterStatus_frame (setObj_frame g0)))))))))))))

theorem wRasterConfig_frame {m a a0 a1 a2 a3} (g0 : Leaves m a a3) (hm : FieldsIn 0x800000300800000000000004000004 m := by first | assumption | exact FieldsIn.of (by assumption) (by decide) | exact FieldsIn.refl _) : Leaves m a (wRasterConfig a0 a1 a2 a3).1 := by
  unfold wRasterConfig
  try dsimp only
  exact (by (try dsimp only); first | (split; exact (fst_frame (refuse_frame (setRasterStatus_frame g0))); exact (fst_frame (applyConfig_frame g0))) | (split <;> first | exact (fst_frame (refuse_frame (setRasterStatus_frame g0))) | exact (fst_frame (applyConfig_frame g0))))

theorem execMuteRelease_frame {m a a0} (g0 : Leaves m a a0) (hm : FieldsIn 0x20000000000000000000000 m := by first | assumption | exact FieldsIn.of (by assumption) (by decide) | exact FieldsIn.refl _) : LeavesOut m a (execMuteRelease a0) := by
  unfold execMuteRelease
  try dsimp only
  exact (whenLive_frame g0 (fun _ h0 => (ite_frame (releaseMute_frame h0) h0)))

theorem sendSegment_frame {m a a0 a1 a2} (g0 : Leaves m a a2) (hm : FieldsIn 0x1 m := by first | assumption | exact FieldsIn.of (by assumption) (by decide) | exact FieldsIn.refl _) : Leaves m a (sendSegment a0 a1 a2) := by
  unfold sendSegment
  try dsimp only
  exact (emit_frame g0)

theorem sendBlank_frame {m a a0 a1 a2 a3} (g0 : Leaves m a a3) (hm : FieldsIn 0x800000000000000000001 m := by first | assumption | exact FieldsIn.of (by assumption) (by decide) | exact FieldsIn.refl _) : Leaves m a (sendBlank a0 a1 a2 a3) := by
  unfold sendBlank
  try dsimp only
  exact (ite_frame (sendSegment_frame (setPort_frame g0)) (sendSegment_frame g0))

theorem blankLine_frame {m a a0 a1 a2} (g0 : Leaves m a a2) (hm : FieldsIn 0x900000000000000000001 m := by first | assumption | exact FieldsIn.of (by assumption) (by decide) | exact FieldsIn.refl _) : Leaves m a (blankLine a0 a1 a2) := by
  unfold blankLine
  try dsimp only
  exact (foldl_frame (fun _ _ h0 => (sendBlank_frame h0)) (setPort_frame (ite_frame (fillBlank_frame g0) g0)))

theorem execMuteHoldExpiry_frame {m a a0} (g0 : Leaves m a a0) (hm : FieldsIn 0x20000000000000000000004 m := by first | assumption | exact FieldsIn.of (by assumption) (by decide) | exact FieldsIn.refl _) : LeavesOut m a (execMuteHoldExpiry a0) := by
  unfold execMuteHoldExpiry
  try dsimp only
  exact (whenLive_frame g0 (fun _ h0 => (by (try dsimp only); first | (split; exact (ite_frame (refreshMute_frame (upd_io_frame h0)) h0); exact h0) | (split <;> first | exact (ite_frame (refreshMute_frame (upd_io_frame h0)) h0) | exact h0))))

theorem applyPhase_frame {m a a0 a1 a2} (g0 : Leaves m a a2) (hm : FieldsIn 0x1800000000000000000000 m := by first | assumption | exact FieldsIn.of (by assumption) (by decide) | exact FieldsIn.refl _) : Leaves m a (applyPhase a0 a1 a2) := by
  unfold applyPhase
  try dsimp only
  exact (by (try dsimp only); first | (split; exact (ite_frame (setOutGen_frame g0) g0); exact g0) | (split <;> first | exact (ite_frame (setOutGen_frame g0) g0) | exact g0))

theorem wPassthru_frame {m a a0 a1 a2 a3} (g0 : Leaves m a a3) (hm : FieldsIn 0x800000304000000000000004000004 m := by first | assumption | exact FieldsIn.of (by assumption) (by decide) | exact FieldsIn.refl _) : Leaves m a (wPassthru a0 a1 a2 a3).1 := by
  unfold wPassthru
  try dsimp only
  exact (by (try dsimp only); first | (split; exact (ite_fst_frame (fst_frame (refuse_frame g0)) (ite_fst_frame (fst_frame (setPath_frame (setObj_frame (setObj_frame g0)))) (fst_frame (setObj_frame g0)))); exact (fst_frame (ite_frame (setObj_frame (setObj_frame g0)) (setObj_frame g0))); exact (fst_frame (refuse_frame g0))) | (split <;> first | exact (ite_fst_frame (fst_frame (refuse_frame g0)) (ite_fst_frame (fst_frame (setPath_frame (setObj_frame (setObj_frame g0)))) (fst_frame (setObj_frame g0)))) | exact (fst_frame (ite_frame (setObj_frame (setObj_frame g0)) (setObj_frame g0))) | exact (fst_frame (refuse_frame g0))))

theorem execPassthruStart_frame {m a a0 a1 a2} (g0 : Leaves m a a2) (hm : FieldsIn 0x800000304004000000000004000004 m := by first | assumption | exact FieldsIn.of (by assumption) (by decide) | exact FieldsIn.refl _) : LeavesOut m a (execPassthruStart a0 a1 a2) := by
  unfold execPassthruStart
  try dsimp only
  exact (whenFree_frame g0 (fun _ h0 => (ackWrite_frame (wPassthru_frame h0))))

theorem wRasterPhase_frame {m a a0 a1 a2 a3} (g0 : Leaves m a a3) (hm : FieldsIn 0x800000301800000000000004000004 m := by first | assumption | exact FieldsIn.of (by assumption) (by decide) | exact FieldsIn.refl _) : Leaves m a (wRasterPhase a0 a1 a2 a3).1 := by
  unfold wRasterPhase
  try dsimp only
  exact (ite_fst_frame (fst_frame (refuse_frame (setRasterStatus_frame g0))) (ite_fst_frame (fst_frame (applyPhase_frame (setRasterStatus_frame (setObj_frame g0)))) (fst_frame (refuse_frame (setRasterStatus_frame g0)))))

theorem sendSegments_frame {m a a0 a1 a2} (g0 : Leaves m a a2) (hm : FieldsIn 0x1 m := by first | assumption | exact FieldsIn.of (by assumption) (by decide) | exact FieldsIn.refl _) : Leaves m a (sendSegments a0 a1 a2) := by
  unfold sendSegments
  try dsimp only
  exact (foldl_frame (fun _ _ h0 => (sendSegment_frame h0)) g0)

theorem sendLine_frame {m a a0 a1 a2 a3} (g0 : Leaves m a a3) (hm : FieldsIn 0x800000300800000000000004000005 m := by first | assumption | exact FieldsIn.of (by assumption) (by decide) | exact FieldsIn.refl _) : Leaves m a (sendLine a0 a1 a2 a3) := by
  unfold sendLine
  try dsimp only
  exact (by (try dsimp only); first | (split; exact (refreshLevel_frame (sendSegments_frame (setPort_frame g0))); exact (refreshLevel_frame (sendSegments_frame (setPort_frame (ite_frame (addObj_frame g0) (capture_frame (addObj_frame g0))))))) | (split <;> first | exact (refreshLevel_frame (sendSegments_frame (setPort_frame g0))) | exact (refreshLevel_frame (sendSegments_frame (setPort_frame (ite_frame (addObj_frame g0) (capture_frame (addObj_frame g0))))))))

theorem execLineFetchComplete_frame {m a a0 a1 a2} (g0 : Leaves m a a2) (hm : FieldsIn 0x800000000000000000004 m := by first | assumption | exact FieldsIn.of (by assumption) (by decide) | exact FieldsIn.refl _) : LeavesOut m a (execLineFetchComplete a0 a1 a2) := by
  unfold execLineFetchComplete
  try dsimp only
  exact (whenLive_frame g0 (fun _ h0 => (by (try dsimp only); first | (split; exact h0; exact (ite_frame (refreshLevel_frame (setPort_frame h0)) h0)) | (split <;> first | exact h0 | exact (ite_frame (refreshLevel_frame (setPort_frame h0)) h0)))))

theorem pathSlot_frame {m a a0 a1 a2 a3} (g0 : Leaves m a a3) (hm : FieldsIn 0x4800000000000000000001 m := by first | assumption | exact FieldsIn.of (by assumption) (by decide) | exact FieldsIn.refl _) : Leaves m a (pathSlot a0 a1 a2 a3) := by
  unfold pathSlot
  try dsimp only
  exact (foldl_frame (fun _ _ h0 => (sendBlank_frame h0)) (setPath_frame g0))

theorem startMute_frame {m a a0} (g0 : Leaves m a a0) (hm : FieldsIn 0xa0000033f800000000000004000004 m := by first | assumption | exact FieldsIn.of (by assumption) (by decide) | exact FieldsIn.refl _) : Leaves m a (startMute a0) := by
  have h1 : ∀ {s x}, Leaves m a s → Leaves m a { s with now := { s.now with mute := x } } := fun h => upd_now_frame h
  have h2 : ∀ {s x y}, Leaves m a s → Leaves m a { s with io := { s.io with lands := { s.io.lands with muteLevel := x, muteHold := y } } } := fun h => upd_io_frame h
  unfold startMute
  exact ite_frame (capture_frame (addObj_frame (refreshMute_frame (h2 (h1 g0))))) (refreshMute_frame (h2 (h1 g0)))

theorem execMuteRequest_frame {m a a0} (g0 : Leaves m a a0) (hm : FieldsIn 0xa0000033f800000000000004000004 m := by first | assumption | exact FieldsIn.of (by assumption) (by decide) | exact FieldsIn.refl _) : LeavesOut m a (execMuteRequest a0) := by
  unfold execMuteRequest
  try dsimp only
  exact (whenLive_frame g0 (fun _ h0 => (ite_frame (startMute_frame h0) h0)))

theorem execLaneLockLoss_frame {m a a0 a1 a2} (g0 : Leaves m a a2) (hm : FieldsIn 0x4 m := by first | assumption | exact FieldsIn.of (by assumption) (by decide) | exact FieldsIn.refl _) : LeavesOut m a (execLaneLockLoss a0 a1 a2) := by
  unfold execLaneLockLoss
  try dsimp only
  exact (whenLive_frame g0 (fun _ h0 => (ite_frame (ite_frame (setObj_frame (addObj_frame (setField_frame h0))) (addObj_frame (setField_frame h0))) h0)))

theorem execStaticCompareComplete_frame {m a a0 a1} (g0 : Leaves m a a1) (hm : FieldsIn 0x800000000000000000000 m := by first | assumption | exact FieldsIn.of (by assumption) (by decide) | exact FieldsIn.refl _) : LeavesOut m a (execStaticCompareComplete a0 a1) := by
  unfold execStaticCompareComplete
  try dsimp only
  exact (whenLive_frame g0 (fun _ h0 => (by (try dsimp only); first | (split; exact (ite_frame (setPort_frame h0) h0); exact h0) | (split <;> first | exact (ite_frame (setPort_frame h0) h0) | exact h0))))

theorem execInputSlotGridFrameStart_frame {m a a0 a1} (g0 : Leaves m a a1) (hm : FieldsIn 0x8d0000305b638c02e1800004000004 m := by first | assumption | exact FieldsIn.of (by assumption) (by decide) | exact FieldsIn.refl _) : LeavesOut m a (execInputSlotGridFrameStart a0 a1) := by
  unfold execInputSlotGridFrameStart
  try dsimp only
  exact (whenLive_frame g0 (fun _ h0 => (ite_frame (pathTake_frame (startFrame_frame (ite_frame h0 (countNext_frame h0)))) h0)))

theorem execPassthruStop_frame {m a a0 a1 a2} (g0 : Leaves m a a2) (hm : FieldsIn 0x800000304004000000000004000004 m := by first | assumption | exact FieldsIn.of (by assumption) (by decide) | exact FieldsIn.refl _) : LeavesOut m a (execPassthruStop a0 a1 a2) := by
  unfold execPassthruStop
  try dsimp only
  exact (whenFree_frame g0 (fun _ h0 => (ackWrite_frame (wPassthru_frame h0))))

theorem execLineSlot_frame {m a a0 a1} (g0 : Leaves m a a1) (hm : FieldsIn 0x800000304900000000000004000005 m := by first | assumption | exact FieldsIn.of (by assumption) (by decide) | exact FieldsIn.refl _) : LeavesOut m a (execLineSlot a0 a1) := by
  unfold execLineSlot
  try dsimp only
  exact (whenLive_frame g0 (fun _ h0 => (ite_frame h0 (by (try dsimp only); first | (split; exact (pathSlot_frame (setPort_frame h0)); exact (ite_frame (by (try dsimp only); first | (split; exact (ite_frame (ite_frame (sendSegment_frame (setPort_frame h0)) (setPort_frame h0)) (noteFill_frame (sendLine_frame (ite_frame (sendSegment_frame (setPort_frame h0)) (setPort_frame h0))))); exact (ite_frame (sendSegment_frame (setPort_frame h0)) (setPort_frame h0))) | (split <;> first | exact (ite_frame (ite_frame (sendSegment_frame (setPort_frame h0)) (setPort_frame h0)) (noteFill_frame (sendLine_frame (ite_frame (sendSegment_frame (setPort_frame h0)) (setPort_frame h0))))) | exact (ite_frame (sendSegment_frame (setPort_frame h0)) (setPort_frame h0)))) (blankLine_frame (ite_frame (sendSegment_frame (setPort_frame h0)) (setPort_frame h0))))) | (split <;> first | exact (pathSlot_frame (setPort_frame h0)) | exact (ite_frame (by (try dsimp only); first | (split; exact (ite_frame (ite_frame (sendSegment_frame (setPort_frame h0)) (setPort_frame h0)) (noteFill_frame (sendLine_frame (ite_frame (sendSegment_frame (setPort_frame h0)) (setPort_frame h0))))); exact (ite_frame (sendSegment_frame (setPort_frame h0)) (setPort_frame h0))) | (split <;> first | exact (ite_frame (ite_frame (sendSegment_frame (setPort_frame h0)) (setPort_frame h0)) (noteFill_frame (sendLine_frame (ite_frame (sendSegment_frame (setPort_frame h0)) (setPort_frame h0))))) | exact (ite_frame (sendSegment_frame (setPort_frame h0)) (setPort_frame h0)))) (blankLine_frame (ite_frame (sendSegment_frame (setPort_frame h0)) (setPort_frame h0)))))))))

theorem execLineFetch_frame {m a a0 a1} (g0 : Leaves m a a1) (hm : FieldsIn 0x800000000000000000000 m := by first | assumption | exact FieldsIn.of (by assumption) (by decide) | exact FieldsIn.refl _) : LeavesOut m a (execLineFetch a0 a1) := by
  unfold execLineFetch
  try dsimp only
  exact (whenLive_frame g0 (fun _ h0 => (ite_frame h0 (ite_frame (ite_frame (setPort_frame h0) h0) (by (try dsimp only); first | (split; exact (ite_frame (setPort_frame h0) h0); exact (ite_frame (setPort_frame h0) h0); exact h0) | (split <;> first | exact (ite_frame (setPort_frame h0) h0) | exact h0))))))

theorem setSlotState_frame {m a a0 a1 a2} (g0 : Leaves m a a2) (hm : FieldsIn 0x4 m := by first | assumption | exact FieldsIn.of (by assumption) (by decide) | exact FieldsIn.refl _) : Leaves m a (setSlotState a0 a1 a2) := by
  unfold setSlotState
  try dsimp only
  exact (setField_frame g0)

theorem runWeir_frame {m a a0 a1 a2} (g0 : Leaves m a a2) (hm : FieldsIn 0x1ffc0000000000000406000004 m := by first | assumption | exact FieldsIn.of (by assumption) (by decide) | exact FieldsIn.refl _) : Leaves m a (runWeir a0 a1 a2) := by
  have h1 : ∀ {s x y z}, Leaves m a s → Leaves m a { s with fw := { s.fw with weirUp := x, weirRestart := y, compat := z } } := fun h => upd_fw_frame h
  have h2 : ∀ {s x}, Leaves m a s → Leaves m a { s with alm := { s.alm with queue := x } } := fun h => upd_alm_frame h
  unfold runWeir
  exact setSlotState_frame (h2 (h1 (setObj_frame (setObj_frame (setObj_frame g0)))))

theorem programBlocks_frame {m a a0 a1 a2 a3} (g0 : Leaves m a a3) (hm : FieldsIn 0x10 m := by first | assumption | exact FieldsIn.of (by assumption) (by decide) | exact FieldsIn.refl _) : Leaves m a (programBlocks a0 a1 a2 a3) := by
  unfold programBlocks
  try dsimp only
  exact (flashWrite_frame (flashErase_frame g0))

theorem setFwStatus_frame {m a a0 a1 a2} (g0 : Leaves m a a2) (hm : FieldsIn 0x4 m := by first | assumption | exact FieldsIn.of (by assumption) (by decide) | exact FieldsIn.refl _) : Leaves m a (setFwStatus a0 a1 a2) := by
  unfold setFwStatus
  try dsimp only
  exact (setObj_frame g0)

theorem fwProgram_frame {m a a0 a1 a2 a3} (g0 : Leaves m a a3) (hm : FieldsIn 0x100000014 m := by first | assumption | exact FieldsIn.of (by assumption) (by decide) | exact FieldsIn.refl _) : Leaves m a (fwProgram a0 a1 a2 a3).1 := by
  unfold fwProgram
  try dsimp only
  exact (by (try dsimp only); first | (split; exact (fst_frame (setFwStatus_frame (setSlotState_frame (programBlocks_frame (upd_fw_frame g0))))); exact (fst_frame (setFwStatus_frame (upd_fw_frame g0)))) | (split <;> first | exact (fst_frame (setFwStatus_frame (setSlotState_frame (programBlocks_frame (upd_fw_frame g0))))) | exact (fst_frame (setFwStatus_frame (upd_fw_frame g0)))))

theorem fwRefuseBusy_frame {m a a0} (g0 : Leaves m a a0) (hm : FieldsIn 0x800000300000000000000004000004 m := by first | assumption | exact FieldsIn.of (by assumption) (by decide) | exact FieldsIn.refl _) : Leaves m a (fwRefuseBusy a0).1 := by
  unfold fwRefuseBusy
  try dsimp only
  exact (refuseQuiet_frame (capture_frame g0))

theorem fwResult_frame {m a a0 a1 a2} (g0 : Leaves m a a2) (hm : FieldsIn 0x800000300000000000000004000004 m := by first | assumption | exact FieldsIn.of (by assumption) (by decide) | exact FieldsIn.refl _) : Leaves m a (fwResult a0 a1 a2) := by
  unfold fwResult
  try dsimp only
  exact (capture_frame (setFwStatus_frame g0))

theorem fwProgramBlock_frame {m a a0} (g0 : Leaves m a a0) (hm : FieldsIn 0x800000300000000000000104000014 m := by first | assumption | exact FieldsIn.of (by assumption) (by decide) | exact FieldsIn.refl _) : Leaves m a (fwProgramBlock a0).1 := by
  unfold fwProgramBlock
  try dsimp only
  exact (ite_fst_frame (fwRefuseBusy_frame g0) (by (try dsimp only); first | (split; exact (fst_frame (fwResult_frame g0)); exact (fwProgram_frame g0)) | (split <;> first | exact (fst_frame (fwResult_frame g0)) | exact (fwProgram_frame g0))))

theorem writeActivation_frame {m a a0 a1 a2} (g0 : Leaves m a a2) (hm : FieldsIn 0x10 m := by first | assumption | exact FieldsIn.of (by assumption) (by decide) | exact FieldsIn.refl _) : Leaves m a (writeActivation a0 a1 a2) := by
  unfold writeActivation
  try dsimp only
  exact (flashWrite_frame (flashErase_frame g0))

theorem fwActivate_frame {m a a0} (g0 : Leaves m a a0) (hm : FieldsIn 0x800000300000000000000104000014 m := by first | assumption | exact FieldsIn.of (by assumption) (by decide) | exact FieldsIn.refl _) : Leaves m a (fwActivate a0).1 := by
  unfold fwActivate
  try dsimp only
  exact (ite_fst_frame (fwRefuseBusy_frame g0) (ite_fst_frame (fst_frame (fwResult_frame g0)) (ite_fst_frame (fst_frame (setFwStatus_frame (setSlotState_frame (upd_fw_frame (ite_frame (writeActivation_frame g0) (setObj_frame (writeActivation_frame g0))))))) (fst_frame (setFwStatus_frame (setSlotState_frame (upd_fw_frame g0)))))))

theorem fwCopy_frame {m a a0 a1} (g0 : Leaves m a a1) (hm : FieldsIn 0x800000300000000000000104000014 m := by first | assumption | exact FieldsIn.of (by assumption) (by decide) | exact FieldsIn.refl _) : Leaves m a (fwCopy a0 a1).1 := by
  unfold fwCopy
  try dsimp only
  exact (ite_fst_frame (fwRefuseBusy_frame g0) (by (try dsimp only); first | (split; exact (fst_frame (fwResult_frame g0)); exact (fwProgram_frame g0)) | (split <;> first | exact (fst_frame (fwResult_frame g0)) | exact (fwProgram_frame g0))))

theorem fwStart_frame {m a a0} (g0 : Leaves m a a0) (hm : FieldsIn 0x800000300000000000000014000004 m := by first | assumption | exact FieldsIn.of (by assumption) (by decide) | exact FieldsIn.refl _) : Leaves m a (fwStart a0).1 := by
  unfold fwStart
  try dsimp only
  exact (ite_fst_frame (fwRefuseBusy_frame g0) (fst_frame (setFwStatus_frame (upd_fw_frame g0))))

theorem rillGone_frame {m a a0} (g0 : Leaves m a a0) (hm : FieldsIn 0x60000004 m := by first | assumption | exact FieldsIn.of (by assumption) (by decide) | exact FieldsIn.refl _) : Leaves m a (rillGone a0) := by
  unfold rillGone
  try dsimp only
  exact (setObj_frame (setObj_frame (upd_fw_frame g0)))

theorem fwStop_frame {m a a0} (g0 : Leaves m a a0) (hm : FieldsIn 0x70000004 m := by first | assumption | exact FieldsIn.of (by assumption) (by decide) | exact FieldsIn.refl _) : Leaves m a (fwStop a0).1 := by
  unfold fwStop
  try dsimp only
  exact (ite_frame (setObj_frame (rillGone_frame (upd_fw_frame g0))) (setFwStatus_frame (setObj_frame (rillGone_frame (upd_fw_frame g0)))))

theorem fwVerify_frame {m a a0} (g0 : Leaves m a a0) (hm : FieldsIn 0x800000300000000000000104000004 m := by first | assumption | exact FieldsIn.of (by assumption) (by decide) | exact FieldsIn.refl _) : Leaves m a (fwVerify a0).1 := by
  unfold fwVerify
  try dsimp only
  exact (ite_fst_frame (fwRefuseBusy_frame g0) (ite_fst_frame (fst_frame (fwResult_frame g0)) (fst_frame (setFwStatus_frame (setSlotState_frame (upd_fw_frame g0))))))

theorem wFwCommand_frame {m a a0 a1 a2 a3} (g0 : Leaves m a a3) (hm : FieldsIn 0x800000300000000000000174000014 m := by first | assumption | exact FieldsIn.of (by assumption) (by decide) | exact FieldsIn.refl _) : Leaves m a (wFwCommand a0 a1 a2 a3).1 := by
  unfold wFwCommand
  try dsimp only
  exact (ite_fst_frame (fst_frame (refuse_frame g0)) (ite_fst_frame (fst_frame (refuse_frame g0)) (ite_fst_frame (fwStart_frame g0) (ite_fst_frame (fwStop_frame g0) (ite_fst_frame (fwProgramBlock_frame g0) (ite_fst_frame (fwCopy_frame g0) (ite_fst_frame (fwActivate_frame g0) (fwVerify_frame g0))))))))

theorem execStartRill_frame {m a a0 a1} (g0 : Leaves m a a1) (hm : FieldsIn 0x800000300004000000000174000014 m := by first | assumption | exact FieldsIn.of (by assumption) (by decide) | exact FieldsIn.refl _) : LeavesOut m a (execStartRill a0 a1) := by
  unfold execStartRill
  try dsimp only
  exact (whenFree_frame g0 (fun _ h0 => (ackWrite_frame (wFwCommand_frame h0))))

theorem rillRecord_frame {m a a0} (g0 : Leaves m a a0) (hm : FieldsIn 0x800000300000000000000004000004 m := by first | assumption | exact FieldsIn.of (by assumption) (by decide) | exact FieldsIn.refl _) : Leaves m a (rillRecord a0) := by
  unfold rillRecord
  try dsimp only
  exact (capture_frame g0)

theorem finishRillStart_frame {m a a0 a1} (g0 : Leaves m a a1) (hm : FieldsIn 0x800000300000000000000074000004 m := by first | assumption | exact FieldsIn.of (by assumption) (by decide) | exact FieldsIn.refl _) : Leaves m a (finishRillStart a0 a1) := by
  unfold finishRillStart
  try dsimp only
  exact (ite_frame (ite_frame (rillRecord_frame (setObj_frame (setObj_frame (setObj_frame (upd_fw_frame (setSlotState_frame (setObj_frame (upd_fw_frame g0)))))))) (rillRecord_frame (setObj_frame (setObj_frame (rillGone_frame (setSlotState_frame (setObj_frame (upd_fw_frame g0)))))))) (rillRecord_frame (setObj_frame (rillGone_frame (setSlotState_frame (upd_fw_frame g0))))))

theorem wRillKick_frame {m a a0 a1 a2} (g0 : Leaves m a a2) (hm : FieldsIn 0x800000300000000000000044000004 m := by first | assumption | exact FieldsIn.of (by assumption) (by decide) | exact FieldsIn.refl _) : Leaves m a (wRillKick a0 a1 a2).1 := by
  unfold wRillKick
  try dsimp only
  exact (ite_fst_frame (fst_frame (refuse_frame g0)) (ite_fst_frame (fst_frame g0) (fst_frame (setObj_frame (upd_fw_frame g0)))))

theorem execRillKick_frame {m a a0 a1 a2} (g0 : Leaves m a a2) (hm : FieldsIn 0x800000300004000000000044000004 m := by first | assumption | exact FieldsIn.of (by assumption) (by decide) | exact FieldsIn.refl _) : LeavesOut m a (execRillKick a0 a1 a2) := by
  unfold execRillKick
  try dsimp only
  exact (whenFree_frame g0 (fun _ h0 => (ackWrite_frame (wRillKick_frame h0))))

theorem spoilBlocks_frame {m a a0 a1} (g0 : Leaves m a a1) (hm : FieldsIn 0x12 m := by first | assumption | exact FieldsIn.of (by assumption) (by decide) | exact FieldsIn.refl _) : Leaves m a (spoilBlocks a0 a1) := by
  unfold spoilBlocks
  try dsimp only
  exact (flashWrite_frame (useFree_frame g0))

theorem clearLatches_frame {m a a0 a1} (g0 : Leaves m a a1) (hm : FieldsIn 0x8 m := by first | assumption | exact FieldsIn.of (by assumption) (by decide) | exact FieldsIn.refl _) : Leaves m a (clearLatches a0 a1) := by
  unfold clearLatches
  try dsimp only
  exact (upd_latches_frame g0)

theorem rillUnresponsive_frame {m a a0 a1} (g0 : Leaves m a a1) (hm : FieldsIn 0x8000003000040000000000f400000c m := by first | assumption | exact FieldsIn.of (by assumption) (by decide) | exact FieldsIn.refl _) : Leaves m a (rillUnresponsive a0 a1) := by
  unfold rillUnresponsive
  try dsimp only
  exact (ite_frame (capture_frame (upd_fw_frame (addObj_frame (setObj_frame (setParked_frame (clearLatches_frame (rillGone_frame g0))))))) (capture_frame (setObj_frame (rillGone_frame g0))))

theorem restartWeir_frame {m a a0} (g0 : Leaves m a a0) (hm : FieldsIn 0x80000030000400000000000400000c m := by first | assumption | exact FieldsIn.of (by assumption) (by decide) | exact FieldsIn.refl _) : Leaves m a (restartWeir a0) := by
  unfold restartWeir
  try dsimp only
  exact (ite_frame (setParked_frame (clearLatches_frame (capture_frame (upd_fw_frame g0)))) g0)

theorem fwDataAccess_frame {m a a0 a1} (g0 : Leaves m a a1) (hm : FieldsIn 0x200000004 m := by first | assumption | exact FieldsIn.of (by assumption) (by decide) | exact FieldsIn.refl _) : Leaves m a (fwDataAccess a0 a1).2 := by
  unfold fwDataAccess
  try dsimp only
  exact (setObj_frame (by (try dsimp only); first | (split; exact (basicWrite_frame (upd_fw_frame g0)); exact g0) | (split <;> first | exact (basicWrite_frame (upd_fw_frame g0)) | exact g0)))

theorem execFwDataAccess_frame {m a a0 a1 a2} (g0 : Leaves m a a2) (hm : FieldsIn 0x400000000020000000d m := by first | assumption | exact FieldsIn.of (by assumption) (by decide) | exact FieldsIn.refl _) : LeavesOut m a (execFwDataAccess a0 a1 a2) := by
  unfold execFwDataAccess
  try dsimp only
  exact (whenFree_frame g0 (fun _ h0 => (ite_frame (fwDataAccess_frame h0) (answer_frame (fwDataAccess_frame h0)))))

theorem execFlashCommandComplete_frame {m a a0 a1} (g0 : Leaves m a a1) (hm : FieldsIn 0x800000300000000000000104000016 m := by first | assumption | exact FieldsIn.of (by assumption) (by decide) | exact FieldsIn.refl _) : LeavesOut m a (execFlashCommandComplete a0 a1) := by
  unfold execFlashCommandComplete
  try dsimp only
  exact (whenLive_frame g0 (fun _ h0 => (by (try dsimp only); first | (split; exact h0; exact (by (try dsimp only); first | (split; exact (fwResult_frame (upd_fw_frame h0)); exact (ite_frame (ite_frame (fwResult_frame (upd_fw_frame h0)) (fwResult_frame (spoilBlocks_frame (upd_fw_frame h0)))) (fwResult_frame (upd_fw_frame h0)))) | (split <;> first | exact (fwResult_frame (upd_fw_frame h0)) | exact (ite_frame (ite_frame (fwResult_frame (upd_fw_frame h0)) (fwResult_frame (spoilBlocks_frame (upd_fw_frame h0)))) (fwResult_frame (upd_fw_frame h0)))))) | (split <;> first | exact h0 | exact (by (try dsimp only); first | (split; exact (fwResult_frame (upd_fw_frame h0)); exact (ite_frame (ite_frame (fwResult_frame (upd_fw_frame h0)) (fwResult_frame (spoilBlocks_frame (upd_fw_frame h0)))) (fwResult_frame (upd_fw_frame h0)))) | (split <;> first | exact (fwResult_frame (upd_fw_frame h0)) | exact (ite_frame (ite_frame (fwResult_frame (upd_fw_frame h0)) (fwResult_frame (spoilBlocks_frame (upd_fw_frame h0)))) (fwResult_frame (upd_fw_frame h0)))))))))

theorem execStopRill_frame {m a a0 a1} (g0 : Leaves m a a1) (hm : FieldsIn 0x800000300004000000000174000014 m := by first | assumption | exact FieldsIn.of (by assumption) (by decide) | exact FieldsIn.refl _) : LeavesOut m a (execStopRill a0 a1) := by
  unfold execStopRill
  try dsimp only
  exact (whenFree_frame g0 (fun _ h0 => (ackWrite_frame (wFwCommand_frame h0))))

theorem compatRead_frame {m a a0} (g0 : Leaves m a a0) (hm : FieldsIn 0x4 m := by first | assumption | exact FieldsIn.of (by assumption) (by decide) | exact FieldsIn.refl _) : Leaves m a (compatRead a0).2 := by
  unfold compatRead
  try dsimp only
  exact (setObj_frame g0)

theorem execCompatDataRead_frame {m a a0 a1} (g0 : Leaves m a a1) (hm : FieldsIn 0x400000000000000000d m := by first | assumption | exact FieldsIn.of (by assumption) (by decide) | exact FieldsIn.refl _) : LeavesOut m a (execCompatDataRead a0 a1) := by
  unfold execCompatDataRead
  try dsimp only
  exact (whenFree_frame g0 (fun _ h0 => (answer_frame (compatRead_frame h0))))

theorem execRillWatchdogExpiry_frame {m a a0} (g0 : Leaves m a a0) (hm : FieldsIn 0x8000003000040000000000f400000c m := by first | assumption | exact FieldsIn.of (by assumption) (by decide) | exact FieldsIn.refl _) : LeavesOut m a (execRillWatchdogExpiry a0) := by
  unfold execRillWatchdogExpiry
  try dsimp only
  exact (whenLive_frame g0 (fun _ h0 => (ite_frame (rillUnresponsive_frame h0) h0)))

theorem execVerify_frame {m a a0 a1} (g0 : Leaves m a a1) (hm : FieldsIn 0x800000300004000000000174000014 m := by first | assumption | exact FieldsIn.of (by assumption) (by decide) | exact FieldsIn.refl _) : LeavesOut m a (execVerify a0 a1) := by
  unfold execVerify
  try dsimp only
  exact (whenFree_frame g0 (fun _ h0 => (ackWrite_frame (wFwCommand_frame h0))))

theorem execRillImageReadComplete_frame {m a a0} (g0 : Leaves m a a0) (hm : FieldsIn 0x800000300000000000000074000004 m := by first | assumption | exact FieldsIn.of (by assumption) (by decide) | exact FieldsIn.refl _) : LeavesOut m a (execRillImageReadComplete a0) := by
  unfold execRillImageReadComplete
  try dsimp only
  exact (whenLive_frame g0 (fun _ h0 => (by (try dsimp only); first | (split; exact h0; exact (ite_frame (finishRillStart_frame h0) (setFwStatus_frame (finishRillStart_frame h0)))) | (split <;> first | exact h0 | exact (ite_frame (finishRillStart_frame h0) (setFwStatus_frame (finishRillStart_frame h0)))))))

theorem execCopyFromHost_frame {m a a0 a1 a2} (g0 : Leaves m a a2) (hm : FieldsIn 0x800000300004000000000174000014 m := by first | assumption | exact FieldsIn.of (by assumption) (by decide) | exact FieldsIn.refl _) : LeavesOut m a (execCopyFromHost a0 a1 a2) := by
  unfold execCopyFromHost
  try dsimp only
  exact (whenFree_frame g0 (fun _ h0 => (ackWrite_frame (wFwCommand_frame h0))))

theorem execProgramBlock_frame {m a a0 a1} (g0 : Leaves m a a1) (hm : FieldsIn 0x800000300004000000000174000014 m := by first | assumption | exact FieldsIn.of (by assumption) (by decide) | exact FieldsIn.refl _) : LeavesOut m a (execProgramBlock a0 a1) := by
  unfold execProgramBlock
  try dsimp only
  exact (whenFree_frame g0 (fun _ h0 => (ackWrite_frame (wFwCommand_frame h0))))

theorem execLockstepMismatch_frame {m a a0} (g0 : Leaves m a a0) (hm : FieldsIn 0x80000030000400000000000400000c m := by first | assumption | exact FieldsIn.of (by assumption) (by decide) | exact FieldsIn.refl _) : LeavesOut m a (execLockstepMismatch a0) := by
  unfold execLockstepMismatch
  try dsimp only
  exact (whenLive_frame g0 (fun _ h0 => (restartWeir_frame h0)))

theorem execRillException_frame {m a a0} (g0 : Leaves m a a0) (hm : FieldsIn 0x8000003000040000000000f400000c m := by first | assumption | exact FieldsIn.of (by assumption) (by decide) | exact FieldsIn.refl _) : LeavesOut m a (execRillException a0) := by
  unfold execRillException
  try dsimp only
  exact (whenLive_frame g0 (fun _ h0 => (ite_frame (rillUnresponsive_frame h0) h0)))

theorem execActivate_frame {m a a0 a1} (g0 : Leaves m a a1) (hm : FieldsIn 0x800000300004000000000174000014 m := by first | assumption | exact FieldsIn.of (by assumption) (by decide) | exact FieldsIn.refl _) : LeavesOut m a (execActivate a0 a1) := by
  unfold execActivate
  try dsimp only
  exact (whenFree_frame g0 (fun _ h0 => (ackWrite_frame (wFwCommand_frame h0))))

theorem reportLoad_frame {m a a0 a1 a2 a3 a4} (g0 : Leaves m a a4) (hm : FieldsIn 0x800000300000000000000004000004 m := by first | assumption | exact FieldsIn.of (by assumption) (by decide) | exact FieldsIn.refl _) : Leaves m a (reportLoad a0 a1 a2 a3 a4) := by
  unfold reportLoad
  try dsimp only
  exact (capture_frame (setObj_frame g0))

theorem unmapPage_frame {m a a0 a1 a2} (g0 : Leaves m a a2) (hm : FieldsIn 0xc000000000000 m := by first | assumption | exact FieldsIn.of (by assumption) (by decide) | exact FieldsIn.refl _) : Leaves m a (unmapPage a0 a1 a2) := by
  unfold unmapPage
  try dsimp only
  exact (by (try dsimp only); first | (split; exact (setPageMap_frame (dropPage_frame g0)); exact g0) | (split <;> first | exact (setPageMap_frame (dropPage_frame g0)) | exact g0))

theorem unmapTiles_frame {m a a0 a1} (g0 : Leaves m a a1) (hm : FieldsIn 0xc000000000000 m := by first | assumption | exact FieldsIn.of (by assumption) (by decide) | exact FieldsIn.refl _) : Leaves m a (unmapTiles a0 a1) := by
  unfold unmapTiles
  try dsimp only
  exact (foldl_frame (fun _ _ h0 => (foldl_frame (fun _ _ h1 => (unmapPage_frame h1)) h0)) g0)

theorem unloadPart_frame {m a a0 a1} (g0 : Leaves m a a1) (hm : FieldsIn 0x80000030000004000c000004000004 m := by first | assumption | exact FieldsIn.of (by assumption) (by decide) | exact FieldsIn.refl _) : Leaves m a (unloadPart a0 a1) := by
  unfold unloadPart
  try dsimp only
  exact (reportLoad_frame (updPart_frame (unmapTiles_frame g0)))

theorem beginWrites_frame {m a a0 a1} (g0 : Leaves m a a1) (hm : FieldsIn 0x4000c000000000000 m := by first | assumption | exact FieldsIn.of (by assumption) (by decide) | exact FieldsIn.refl _) : Leaves m a (beginWrites a0 a1) := by
  unfold beginWrites
  try dsimp only
  exact (updPart_frame (unmapTiles_frame g0))

theorem refuseLoad_frame {m a a0} (g0 : Leaves m a a0) (hm : FieldsIn 0x800000300000000000000004000004 m := by first | assumption | exact FieldsIn.of (by assumption) (by decide) | exact FieldsIn.refl _) : Leaves m a (refuseLoad a0).1 := by
  unfold refuseLoad
  try dsimp only
  exact (refuseQuiet_frame (capture_frame g0))

theorem startLoad_frame {m a a0 a1 a2} (g0 : Leaves m a a2) (hm : FieldsIn 0x800000300000000000020004000004 m := by first | assumption | exact FieldsIn.of (by assumption) (by decide) | exact FieldsIn.refl _) : Leaves m a (startLoad a0 a1 a2).1 := by
  unfold startLoad
  try dsimp only
  exact (ite_fst_frame (fst_frame (reportLoad_frame (setObj_frame g0))) (fst_frame (setObj_frame (upd_fab_frame (setObj_frame g0)))))

theorem stopLoad_frame {m a a0 a1} (g0 : Leaves m a a1) (hm : FieldsIn 0x80000030000000000c020004000004 m := by first | assumption | exact FieldsIn.of (by assumption) (by decide) | exact FieldsIn.refl _) : Leaves m a (stopLoad a0 a1) := by
  unfold stopLoad
  try dsimp only
  exact (reportLoad_frame (upd_fab_frame (ite_frame g0 (unmapTiles_frame g0))))

theorem wLoadCommand_frame {m a a0 a1 a2 a3} (g0 : Leaves m a a3) (hm : FieldsIn 0x80000030000004000c020004000004 m := by first | assumption | exact FieldsIn.of (by assumption) (by decide) | exact FieldsIn.refl _) : Leaves m a (wLoadCommand a0 a1 a2 a3).1 := by
  unfold wLoadCommand
  try dsimp only
  exact (ite_fst_frame (fst_frame (refuse_frame g0)) (by (try dsimp only); first | (split; exact (ite_fst_frame (fst_frame (stopLoad_frame g0)) (refuseLoad_frame g0)); exact (ite_fst_frame (fst_frame (reportLoad_frame g0)) (ite_fst_frame (startLoad_frame g0) (ite_fst_frame (ite_fst_frame (fst_frame (unloadPart_frame g0)) (fst_frame (reportLoad_frame g0))) (fst_frame g0))))) | (split <;> first | exact (ite_fst_frame (fst_frame (stopLoad_frame g0)) (refuseLoad_frame g0)) | exact (ite_fst_frame (fst_frame (reportLoad_frame g0)) (ite_fst_frame (startLoad_frame g0) (ite_fst_frame (ite_fst_frame (fst_frame (unloadPart_frame g0)) (fst_frame (reportLoad_frame g0))) (fst_frame g0)))))))

theorem execLoad_frame {m a a0 a1 a2} (g0 : Leaves m a a2) (hm : FieldsIn 0x80000030000404000c020004000004 m := by first | assumption | exact FieldsIn.of (by assumption) (by decide) | exact FieldsIn.refl _) : LeavesOut m a (execLoad a0 a1 a2) := by
  unfold execLoad
  try dsimp only
  exact (whenFree_frame g0 (fun _ h0 => (ackWrite_frame (wLoadCommand_frame h0))))

theorem execAbortLoad_frame {m a a0 a1} (g0 : Leaves m a a1) (hm : FieldsIn 0x80000030000404000c020004000004 m := by first | assumption | exact FieldsIn.of (by assumption) (by decide) | exact FieldsIn.refl _) : LeavesOut m a (execAbortLoad a0 a1) := by
  unfold execAbortLoad
  try dsimp only
  exact (whenFree_frame g0 (fun _ h0 => (ackWrite_frame (wLoadCommand_frame h0))))

theorem loadPage_frame {m a a0 a1 a2 a3 a4} (g0 : Leaves m a a4) (hm : FieldsIn 0x80000000000183c0000000000000 m := by first | assumption | exact FieldsIn.of (by assumption) (by decide) | exact FieldsIn.refl _) : Leaves m a (loadPage a0 a1 a2 a3 a4) := by
  unfold loadPage
  try dsimp only
  exact (by (try dsimp only); first | (split; exact (by (try dsimp only); first | (split; exact (freeSlotAt_frame (skipMoves_frame (settlePage_frame g0))); exact (skipMoves_frame (settlePage_frame g0))) | (split <;> first | exact (freeSlotAt_frame (skipMoves_frame (settlePage_frame g0))) | exact (skipMoves_frame (settlePage_frame g0)))); exact (upd_ci_frame (pushVersion_frame (setC_frame (by (try dsimp only); first | (split; exact (freeSlotAt_frame (skipMoves_frame (settlePage_frame g0))); exact (skipMoves_frame (settlePage_frame g0))) | (split <;> first | exact (freeSlotAt_frame (skipMoves_frame (settlePage_frame g0))) | exact (skipMoves_frame (settlePage_frame g0)))))))) | (split <;> first | exact (by (try dsimp only); first | (split; exact (freeSlotAt_frame (skipMoves_frame (settlePage_frame g0))); exact (skipMoves_frame (settlePage_frame g0))) | (split <;> first | exact (freeSlotAt_frame (skipMoves_frame (settlePage_frame g0))) | exact (skipMoves_frame (settlePage_frame g0)))) | exact (upd_ci_frame (pushVersion_frame (setC_frame (by (try dsimp only); first | (split; exact (freeSlotAt_frame (skipMoves_frame (settlePage_frame g0))); exact (skipMoves_frame (settlePage_frame g0))) | (split <;> first | exact (freeSlotAt_frame (skipMoves_frame (settlePage_frame g0))) | exact (skipMoves_frame (settlePage_frame g0)))))))))

theorem placeBytes_frame {m a a0 a1 a2 a3} (g0 : Leaves m a a3) (hm : FieldsIn 0x80000000000183c0000000000000 m := by first | assumption | exact FieldsIn.of (by assumption) (by decide) | exact FieldsIn.refl _) : Leaves m a (placeBytes a0 a1 a2 a3) := by
  unfold placeBytes
  try dsimp only
  exact (foldl_frame (fun _ _ h0 => (loadPage_frame h0)) g0)

theorem placeWeights_frame {m a a0 a1 a2} (g0 : Leaves m a a2) (hm : FieldsIn 0x80000000000183c0000000000000 m := by first | assumption | exact FieldsIn.of (by assumption) (by decide) | exact FieldsIn.refl _) : Leaves m a (placeWeights a0 a1 a2) := by
  unfold placeWeights
  try dsimp only
  exact (foldl_frame (fun _ _ h0 => (loadPage_frame h0)) (placeBytes_frame g0))

theorem noteImage_frame {m a a0 a1} (g0 : Leaves m a a1) (hm : FieldsIn 0x4 m := by first | assumption | exact FieldsIn.of (by assumption) (by decide) | exact FieldsIn.refl _) : Leaves m a (noteImage a0 a1) := by
  unfold noteImage
  try dsimp only
  exact (ite_frame (setObj_frame (setObj_frame g0)) g0)

theorem mapResident_frame {m a a0 a1 a2 a3} (g0 : Leaves m a a3) (hm : FieldsIn 0xc000000000000 m := by first | assumption | exact FieldsIn.of (by assumption) (by decide) | exact FieldsIn.refl _) : Leaves m a (mapResident a0 a1 a2 a3) := by
  unfold mapResident
  try dsimp only
  exact (by (try dsimp only); first | (split; exact g0; exact (by (try dsimp only); first | (split; exact g0; exact (setPageMap_frame (setFrame_frame g0))) | (split <;> first | exact g0 | exact (setPageMap_frame (setFrame_frame g0))))) | (split <;> first | exact g0 | exact (by (try dsimp only); first | (split; exact g0; exact (setPageMap_frame (setFrame_frame g0))) | (split <;> first | exact g0 | exact (setPageMap_frame (setFrame_frame g0))))))

theorem mapAll_frame {m a a0 a1 a2} (g0 : Leaves m a a2) (hm : FieldsIn 0xc000000000000 m := by first | assumption | exact FieldsIn.of (by assumption) (by decide) | exact FieldsIn.refl _) : Leaves m a (mapAll a0 a1 a2) := by
  unfold mapAll
  try dsimp only
  exact (foldl_frame (fun _ _ h0 => (foldl_frame (fun _ _ h1 => (mapResident_frame h1)) h0)) g0)

theorem execUnload_frame {m a a0 a1} (g0 : Leaves m a a1) (hm : FieldsIn 0x80000030000404000c020004000004 m := by first | assumption | exact FieldsIn.of (by assumption) (by decide) | exact FieldsIn.refl _) : LeavesOut m a (execUnload a0 a1) := by
  unfold execUnload
  try dsimp only
  exact (whenFree_frame g0 (fun _ h0 => (ackWrite_frame (wLoadCommand_frame h0))))

theorem placeRest_frame {m a a0 a1 a2 a3 a4} (g0 : Leaves m a a4) (hm : FieldsIn 0x80000000000183c0000000000000 m := by first | assumption | exact FieldsIn.of (by assumption) (by decide) | exact FieldsIn.refl _) : Leaves m a (placeRest a0 a1 a2 a3 a4) := by
  unfold placeRest
  try dsimp only
  exact (foldl_snd_frame (fun _ _ h0 => (placeBytes_frame h0)) g0)

theorem writePages_frame {m a a0 a1 a2} (g0 : Leaves m a a2) (hm : FieldsIn 0xc000000000004 m := by first | assumption | exact FieldsIn.of (by assumption) (by decide) | exact FieldsIn.refl _) : Leaves m a (writePages a0 a1 a2) := by
  unfold writePages
  try dsimp only
  exact (setObj_frame (mapAll_frame g0))

theorem writeRest_frame {m a a0 a1 a2} (g0 : Leaves m a a2) (hm : FieldsIn 0x80000000000583c0000000000000 m := by first | assumption | exact FieldsIn.of (by assumption) (by decide) | exact FieldsIn.refl _) : Leaves m a (writeRest a0 a1 a2) := by
  unfold writeRest
  try dsimp only
  exact (updPart_frame (placeRest_frame g0))

theorem leavePhase_frame {m a a0 a1 a2 a3} (g0 : Leaves m a a3) (hm : FieldsIn 0x80000000000583cc000000000004 m := by first | assumption | exact FieldsIn.of (by assumption) (by decide) | exact FieldsIn.refl _) : Leaves m a (leavePhase a0 a1 a2 a3) := by
  unfold leavePhase
  try dsimp only
  exact (by (try dsimp only); first | (split; exact (beginWrites_frame g0); exact (placeWeights_frame g0); exact (writePages_frame g0); exact (writeRest_frame g0); exact g0) | (split <;> first | exact (beginWrites_frame g0) | exact (placeWeights_frame g0) | exact (writePages_frame g0) | exact (writeRest_frame g0) | exact g0))

theorem leavePhases_frame {m a a0 a1 a2 a3 a4} (g0 : Leaves m a a4) (hm : FieldsIn 0x80000000000583cc000000000004 m := by first | assumption | exact FieldsIn.of (by assumption) (by decide) | exact FieldsIn.refl _) : Leaves m a (leavePhases a0 a1 a2 a3 a4) := by
  unfold leavePhases
  try dsimp only
  exact (foldl_frame (fun _ _ h0 => (leavePhase_frame h0)) g0)

theorem reachPhase_frame {m a a0 a1 a2} (g0 : Leaves m a a2) (hm : FieldsIn 0x8080003000000583cc020004000004 m := by first | assumption | exact FieldsIn.of (by assumption) (by decide) | exact FieldsIn.refl _) : Leaves m a (reachPhase a0 a1 a2) := by
  unfold reachPhase
  try dsimp only
  exact (by (try dsimp only); first | (split; exact (reportLoad_frame (noteImage_frame (upd_fab_frame g0))); exact (ite_frame (reportLoad_frame (setObj_frame (upd_fab_frame (leavePhases_frame (ite_frame (noteImage_frame g0) g0))))) (setObj_frame (upd_fab_frame (leavePhases_frame (ite_frame (noteImage_frame g0) g0)))))) | (split <;> first | exact (reportLoad_frame (noteImage_frame (upd_fab_frame g0))) | exact (ite_frame (reportLoad_frame (setObj_frame (upd_fab_frame (leavePhases_frame (ite_frame (noteImage_frame g0) g0))))) (setObj_frame (upd_fab_frame (leavePhases_frame (ite_frame (noteImage_frame g0) g0)))))))

theorem execLoadComplete_frame {m a a0 a1} (g0 : Leaves m a a1) (hm : FieldsIn 0x8080003000000583cc020004000004 m := by first | assumption | exact FieldsIn.of (by assumption) (by decide) | exact FieldsIn.refl _) : LeavesOut m a (execLoadComplete a0 a1) := by
  unfold execLoadComplete
  try dsimp only
  exact (whenLive_frame g0 (fun _ h0 => (by (try dsimp only); first | (split; exact (ite_frame (reachPhase_frame h0) h0); exact h0) | (split <;> first | exact (ite_frame (reachPhase_frame h0) h0) | exact h0))))

theorem loadReadFails_frame {m a a0 a1} (g0 : Leaves m a a1) (hm : FieldsIn 0x800000300000000000020004000004 m := by first | assumption | exact FieldsIn.of (by assumption) (by decide) | exact FieldsIn.refl _) : Leaves m a (loadReadFails a0 a1) := by
  unfold loadReadFails
  try dsimp only
  exact (by (try dsimp only); first | (split; exact (ite_frame g0 (reportLoad_frame (upd_fab_frame g0))); exact g0) | (split <;> first | exact (ite_frame g0 (reportLoad_frame (upd_fab_frame g0))) | exact g0))

theorem dropHeld_frame {m a a0 a1} (g0 : Leaves m a a1) (hm : FieldsIn 0x80000000000000000000 m := by first | assumption | exact FieldsIn.of (by assumption) (by decide) | exact FieldsIn.refl _) : Leaves m a (dropHeld a0 a1) := by
  unfold dropHeld
  try dsimp only
  exact (setOverlay_frame g0)

theorem leaveRing_frame {m a a0 a1} (g0 : Leaves m a a1) (hm : FieldsIn 0x80000000000000000000 m := by first | assumption | exact FieldsIn.of (by assumption) (by decide) | exact FieldsIn.refl _) : Leaves m a (leaveRing a0 a1) := by
  unfold leaveRing
  try dsimp only
  exact (dropHeld_frame (freeStrips_frame g0))

theorem stopRing_frame {m a a0 a1} (g0 : Leaves m a a1) (hm : FieldsIn 0x3080000000000000000004 m := by first | assumption | exact FieldsIn.of (by assumption) (by decide) | exact FieldsIn.refl _) : Leaves m a (stopRing a0 a1) := by
  unfold stopRing
  try dsimp only
  exact (foldl_frame (fun _ _ h0 => (leaveRing_frame h0)) (setPcie_frame (setRing_frame (setObj_frame (addObj_frame g0)))))

theorem stopRings_frame {m a a0 a1} (g0 : Leaves m a a1) (hm : FieldsIn 0x3080000000000000000004 m := by first | assumption | exact FieldsIn.of (by assumption) (by decide) | exact FieldsIn.refl _) : Leaves m a (stopRings a0 a1) := by
  unfold stopRings
  try dsimp only
  exact (addObj_frame (foldl_frame (fun _ _ h0 => (ite_frame (stopRing_frame h0) h0)) g0))

theorem wDmaPhase_frame {m a a0 a1 a2 a3} (g0 : Leaves m a a3) (hm : FieldsIn 0x800000301800000000000004000004 m := by first | assumption | exact FieldsIn.of (by assumption) (by decide) | exact FieldsIn.refl _) : Leaves m a (wDmaPhase a0 a1 a2 a3).1 := by
  unfold wDmaPhase
  try dsimp only
  exact (ite_fst_frame (fst_frame (refuse_frame g0)) (ite_fst_frame (fst_frame (applyPhase_frame (setObj_frame g0))) (fst_frame (refuse_frame g0))))

theorem takeInput_frame {m a a0 a1 a2 a3} (g0 : Leaves m a a3) (hm : FieldsIn 0x8d00003003638c02e1800004000004 m := by first | assumption | exact FieldsIn.of (by assumption) (by decide) | exact FieldsIn.refl _) : Leaves m a (takeInput a0 a1 a2 a3) := by
  unfold takeInput
  try dsimp only
  exact (sourceFrame_frame (ite_frame (foldl_frame (fun _ _ h0 => (goodSet_frame h0)) (by (try dsimp only); first | (split; exact g0; exact (foldl_frame (fun _ _ h0 => (writeRegion_frame h0)) g0)) | (split <;> first | exact g0 | exact (foldl_frame (fun _ _ h0 => (writeRegion_frame h0)) g0)))) (by (try dsimp only); first | (split; exact g0; exact (foldl_frame (fun _ _ h0 => (writeRegion_frame h0)) g0)) | (split <;> first | exact g0 | exact (foldl_frame (fun _ _ h0 => (writeRegion_frame h0)) g0)))))

theorem settleRing_frame {m a a0 a1} (g0 : Leaves m a a1) (hm : FieldsIn 0x4 m := by first | assumption | exact FieldsIn.of (by assumption) (by decide) | exact FieldsIn.refl _) : Leaves m a (settleRing a0 a1) := by
  unfold settleRing
  try dsimp only
  exact (ite_frame (setObj_frame g0) g0)

theorem abandonFrame_frame {m a a0 a1 a2} (g0 : Leaves m a a2) (hm : FieldsIn 0x3080000000000000000004 m := by first | assumption | exact FieldsIn.of (by assumption) (by decide) | exact FieldsIn.refl _) : Leaves m a (abandonFrame a0 a1 a2) := by
  unfold abandonFrame
  try dsimp only
  exact (by (try dsimp only); first | (split; exact g0; exact (leaveRing_frame (settleRing_frame (setPcie_frame (setRing_frame g0))))) | (split <;> first | exact g0 | exact (leaveRing_frame (settleRing_frame (setPcie_frame (setRing_frame g0))))))

theorem abandonRing_frame {m a a0 a1 a2 a3} (g0 : Leaves m a a3) (hm : FieldsIn 0x3080000000000000000004 m := by first | assumption | exact FieldsIn.of (by assumption) (by decide) | exact FieldsIn.refl _) : Leaves m a (abandonRing a0 a1 a2 a3) := by
  unfold abandonRing
  try dsimp only
  exact (foldl_frame (fun _ _ h0 => (abandonFrame_frame h0)) g0)

theorem sendPart_frame {m a a0 a1 a2} (g0 : Leaves m a a2) (hm : FieldsIn 0x1000000000000000000003 m := by first | assumption | exact FieldsIn.of (by assumption) (by decide) | exact FieldsIn.refl _) : Leaves m a (sendPart a0 a1 a2) := by
  unfold sendPart
  try dsimp only
  exact (by (try dsimp only); first | (split; exact g0; exact (ite_frame g0 (emit_frame (setRing_frame (upd_free_frame g0))))) | (split <;> first | exact g0 | exact (ite_frame g0 (emit_frame (setRing_frame (upd_free_frame g0))))))

theorem stallPort_frame {m a a0 a1 a2} (g0 : Leaves m a a2) (hm : FieldsIn 0x800000303080000000000004000007 m := by first | assumption | exact FieldsIn.of (by assumption) (by decide) | exact FieldsIn.refl _) : Leaves m a (stallPort a0 a1 a2) := by
  unfold stallPort
  try dsimp only
  exact (notePosted_frame (capture_frame (addObj_frame (foldl_frame (fun _ _ h0 => (abandonRing_frame h0)) (sendPart_frame g0)))))

theorem applyDma_frame {m a a0 a1 a2} (g0 : Leaves m a a2) (hm : FieldsIn 0x1000000000000000000004 m := by first | assumption | exact FieldsIn.of (by assumption) (by decide) | exact FieldsIn.refl _) : Leaves m a (applyDma a0 a1 a2) := by
  unfold applyDma
  try dsimp only
  exact (setObj_frame (setObj_frame (setRing_frame (setObj_frame g0))))

theorem completeDesc_frame {m a a0 a1 a2 a3 a4 a5} (g0 : Leaves m a a5) (hm : FieldsIn 0x3000000000000000000005 m := by first | assumption | exact FieldsIn.of (by assumption) (by decide) | exact FieldsIn.refl _) : Leaves m a (completeDesc a0 a1 a2 a3 a4 a5) := by
  unfold completeDesc
  try dsimp only
  exact (settleRing_frame (ite_frame (sendMsix_frame (ite_frame (addObj_frame (setField_frame (setRing_frame (emit_frame (notePosted_frame g0))))) (addObj_frame (setField_frame (setRing_frame (emit_frame (notePosted_frame g0))))))) (ite_frame (addObj_frame (setField_frame (setRing_frame (emit_frame (notePosted_frame g0))))) (addObj_frame (setField_frame (setRing_frame (emit_frame (notePosted_frame g0))))))))

theorem endFrame_frame {m a a0 a1 a2 a3} (g0 : Leaves m a a3) (hm : FieldsIn 0x3080000000000000000005 m := by first | assumption | exact FieldsIn.of (by assumption) (by decide) | exact FieldsIn.refl _) : Leaves m a (endFrame a0 a1 a2 a3) := by
  unfold endFrame
  try dsimp only
  exact (by (try dsimp only); first | (split; exact g0; exact (leaveRing_frame (completeDesc_frame (setRing_frame g0)))) | (split <;> first | exact g0 | exact (leaveRing_frame (completeDesc_frame (setRing_frame g0)))))

theorem writeBand_frame {m a a0 a1 a2 a3} (g0 : Leaves m a a3) (hm : FieldsIn 0x3180000000000000000007 m := by first | assumption | exact FieldsIn.of (by assumption) (by decide) | exact FieldsIn.refl _) : Leaves m a (writeBand a0 a1 a2 a3) := by
  unfold writeBand
  try dsimp only
  exact (ite_frame (endFrame_frame (setRing_frame (ite_frame (setOverlay_frame (ite_frame (takeSets_frame (notePosted_frame (emit_frame (upd_free_frame g0)))) (notePosted_frame (emit_frame (upd_free_frame g0))))) (ite_frame (takeSets_frame (notePosted_frame (emit_frame (upd_free_frame g0)))) (notePosted_frame (emit_frame (upd_free_frame g0))))))) (setRing_frame (ite_frame (setOverlay_frame (ite_frame (takeSets_frame (notePosted_frame (emit_frame (upd_free_frame g0)))) (notePosted_frame (emit_frame (upd_free_frame g0))))) (ite_frame (takeSets_frame (notePosted_frame (emit_frame (upd_free_frame g0)))) (notePosted_frame (emit_frame (upd_free_frame g0)))))))

theorem execDoorbellWrite_frame {m a a0 a1 a2 a3 a4} (g0 : Leaves m a a4) (hm : FieldsIn 0x800000301000000000000004000004 m := by first | assumption | exact FieldsIn.of (by assumption) (by decide) | exact FieldsIn.refl _) : LeavesOut m a (execDoorbellWrite a0 a1 a2 a3 a4) := by
  unfold execDoorbellWrite
  try dsimp only
  exact (whenLive_frame g0 (fun _ h0 => (ite_frame h0 (ite_frame (refuse_frame h0) (settleRing_frame (setField_frame (setRing_frame h0)))))))

theorem execInputReadCompletion_frame {m a a0 a1 a2} (g0 : Leaves m a a2) (hm : FieldsIn 0x8d00003033638c02e1800004000005 m := by first | assumption | exact FieldsIn.of (by assumption) (by decide) | exact FieldsIn.refl _) : LeavesOut m a (execInputReadCompletion a0 a1 a2) := by
  unfold execInputReadCompletion
  try dsimp only
  exact (whenLive_frame g0 (fun _ h0 => (by (try dsimp only); first | (split; exact h0; exact (ite_frame (completeDesc_frame h0) (ite_frame (completeDesc_frame h0) (completeDesc_frame (foldl_frame (fun _ _ h1 => (takeInput_frame h1)) h0))))) | (split <;> first | exact h0 | exact (ite_frame (completeDesc_frame h0) (ite_frame (completeDesc_frame h0) (completeDesc_frame (foldl_frame (fun _ _ h1 => (takeInput_frame h1)) h0))))))))

theorem execStallLimitExpiry_frame {m a a0 a1} (g0 : Leaves m a a1) (hm : FieldsIn 0x800000303080000000000004000007 m := by first | assumption | exact FieldsIn.of (by assumption) (by decide) | exact FieldsIn.refl _) : LeavesOut m a (execStallLimitExpiry a0 a1) := by
  unfold execStallLimitExpiry
  try dsimp only
  exact (whenLive_frame g0 (fun _ h0 => (ite_frame (stallPort_frame h0) h0)))

theorem execLateAbandon_frame {m a a0 a1} (g0 : Leaves m a a1) (hm : FieldsIn 0x800000303080000000000004000007 m := by first | assumption | exact FieldsIn.of (by assumption) (by decide) | exact FieldsIn.refl _) : LeavesOut m a (execLateAbandon a0 a1) := by
  unfold execLateAbandon
  try dsimp only
  exact (whenLive_frame g0 (fun _ h0 => (ite_frame (by (try dsimp only); first | (split; exact h0; exact (ite_frame h0 (ite_frame (stallPort_frame h0) (capture_frame (abandonFrame_frame h0))))) | (split <;> first | exact h0 | exact (ite_frame h0 (ite_frame (stallPort_frame h0) (capture_frame (abandonFrame_frame h0)))))) h0)))

theorem execPciePowerStateWrite_frame {m a a0 a1 a2} (g0 : Leaves m a a2) (hm : FieldsIn 0x2000000000000000000000 m := by first | assumption | exact FieldsIn.of (by assumption) (by decide) | exact FieldsIn.refl _) : LeavesOut m a (execPciePowerStateWrite a0 a1 a2) := by
  unfold execPciePowerStateWrite
  try dsimp only
  exact (whenLive_frame g0 (fun _ h0 => (setPcie_frame h0)))

theorem sendOwed_frame {m a a0 a1} (g0 : Leaves m a a1) (hm : FieldsIn 0x3000000000000000000005 m := by first | assumption | exact FieldsIn.of (by assumption) (by decide) | exact FieldsIn.refl _) : Leaves m a (sendOwed a0 a1) := by
  unfold sendOwed
  try dsimp only
  exact (foldl_frame (fun _ _ h0 => (completeDesc_frame (setRing_frame h0))) (setPcie_frame g0))

theorem execOutputBandWrite_frame {m a a0 a1} (g0 : Leaves m a a1) (hm : FieldsIn 0x3180000000000000000007 m := by first | assumption | exact FieldsIn.of (by assumption) (by decide) | exact FieldsIn.refl _) : LeavesOut m a (execOutputBandWrite a0 a1) := by
  unfold execOutputBandWrite
  try dsimp only
  exact (whenLive_frame g0 (fun _ h0 => (by (try dsimp only); first | (split; exact (ite_frame (sendOwed_frame h0) h0); exact (ite_frame (endFrame_frame (ite_frame (sendOwed_frame h0) h0)) (writeBand_frame (ite_frame (sendOwed_frame h0) h0)))) | (split <;> first | exact (ite_frame (sendOwed_frame h0) h0) | exact (ite_frame (endFrame_frame (ite_frame (sendOwed_frame h0) h0)) (writeBand_frame (ite_frame (sendOwed_frame h0) h0)))))))

theorem execCompletionTimeout_frame {m a a0 a1 a2} (g0 : Leaves m a a2) (hm : FieldsIn 0x800000303000000000020104000017 m := by first | assumption | exact FieldsIn.of (by assumption) (by decide) | exact FieldsIn.refl _) : LeavesOut m a (execCompletionTimeout a0 a1 a2) := by
  unfold execCompletionTimeout
  try dsimp only
  exact (whenLive_frame g0 (fun _ h0 => (by (try dsimp only); first | (split; exact (by (try dsimp only); first | (split; exact h0; exact (useFree_frame (completeDesc_frame h0))) | (split <;> first | exact h0 | exact (useFree_frame (completeDesc_frame h0)))); exact (loadReadFails_frame h0); exact (by (try dsimp only); first | (split; exact (ite_frame (fwResult_frame (spoilBlocks_frame (upd_fw_frame h0))) h0); exact h0) | (split <;> first | exact (ite_frame (fwResult_frame (spoilBlocks_frame (upd_fw_frame h0))) h0) | exact h0))) | (split <;> first | exact (by (try dsimp only); first | (split; exact h0; exact (useFree_frame (completeDesc_frame h0))) | (split <;> first | exact h0 | exact (useFree_frame (completeDesc_frame h0)))) | exact (loadReadFails_frame h0) | exact (by (try dsimp only); first | (split; exact (ite_frame (fwResult_frame (spoilBlocks_frame (upd_fw_frame h0))) h0); exact h0) | (split <;> first | exact (ite_frame (fwResult_frame (spoilBlocks_frame (upd_fw_frame h0))) h0) | exact h0))))))

theorem execFunctionLevelReset_frame {m a a0 a1} (g0 : Leaves m a a1) (hm : FieldsIn 0xb08000000000000000000c m := by first | assumption | exact FieldsIn.of (by assumption) (by decide) | exact FieldsIn.refl _) : LeavesOut m a (execFunctionLevelReset a0 a1) := by
  unfold execFunctionLevelReset
  try dsimp only
  exact (whenLive_frame g0 (fun _ h0 => (clearLatches_frame (setPcie_frame (upd_io_frame (stopRings_frame h0))))))

theorem wDmaConfig_frame {m a a0 a1 a2 a3} (g0 : Leaves m a a3) (hm : FieldsIn 0x800000301000000000000004000004 m := by first | assumption | exact FieldsIn.of (by assumption) (by decide) | exact FieldsIn.refl _) : Leaves m a (wDmaConfig a0 a1 a2 a3).1 := by
  unfold wDmaConfig
  try dsimp only
  exact (by (try dsimp only); first | (split; exact (fst_frame (refuse_frame g0)); exact (fst_frame (applyDma_frame g0))) | (split <;> first | exact (fst_frame (refuse_frame g0)) | exact (fst_frame (applyDma_frame g0))))

theorem execPcieFlitRetry_frame {m a a0 a1} (g0 : Leaves m a a1) : LeavesOut m a (execPcieFlitRetry a0 a1) := by
  unfold execPcieFlitRetry
  try dsimp only
  exact (whenLive_frame g0 (fun _ h0 => h0))

theorem wDmaRing_frame {m a a0 a1 a2 a3 a4} (g0 : Leaves m a a4) (hm : FieldsIn 0x800000300000000000000004000004 m := by first | assumption | exact FieldsIn.of (by assumption) (by decide) | exact FieldsIn.refl _) : Leaves m a (wDmaRing a0 a1 a2 a3 a4).1 := by
  unfold wDmaRing
  try dsimp only
  exact (ite_fst_frame (fst_frame (refuse_frame g0)) (ite_fst_frame (fst_frame (refuse_frame g0)) (fst_frame (setObj_frame g0))))

theorem execPcieLinkUp_frame {m a a0 a1 a2 a3} (g0 : Leaves m a a3) (hm : FieldsIn 0x4 m := by first | assumption | exact FieldsIn.of (by assumption) (by decide) | exact FieldsIn.refl _) : LeavesOut m a (execPcieLinkUp a0 a1 a2 a3) := by
  unfold execPcieLinkUp
  try dsimp only
  exact (whenLive_frame g0 (fun _ h0 => (setObj_frame h0)))

theorem execPcieLinkDown_frame {m a a0 a1} (g0 : Leaves m a a1) (hm : FieldsIn 0x3080000000000000000004 m := by first | assumption | exact FieldsIn.of (by assumption) (by decide) | exact FieldsIn.refl _) : LeavesOut m a (execPcieLinkDown a0 a1) := by
  unfold execPcieLinkDown
  try dsimp only
  exact (whenLive_frame g0 (fun _ h0 => (ite_frame (setObj_frame (stopRings_frame h0)) h0)))

theorem setLink_frame {m a a0 a1 a2} (g0 : Leaves m a a2) (hm : FieldsIn 0x10000000000 m := by first | assumption | exact FieldsIn.of (by assumption) (by decide) | exact FieldsIn.refl _) : Leaves m a (setLink a0 a1 a2) := by
  unfold setLink
  try dsimp only
  exact (upd_fab_frame g0)

theorem loseLane_frame {m a a0 a1 a2 a3 a4} (g0 : Leaves m a a4) (hm : FieldsIn 0x800000300000000000013004000004 m := by first | assumption | exact FieldsIn.of (by assumption) (by decide) | exact FieldsIn.refl _) : Leaves m a (loseLane a0 a1 a2 a3 a4) := by
  unfold loseLane
  try dsimp only
  exact (learn_frame (setLink_frame g0))

theorem startLinkRetrain_frame {m a a0 a1} (g0 : Leaves m a a1) (hm : FieldsIn 0x10000000004 m := by first | assumption | exact FieldsIn.of (by assumption) (by decide) | exact FieldsIn.refl _) : Leaves m a (startLinkRetrain a0 a1) := by
  unfold startLinkRetrain
  try dsimp only
  exact (setLinkState_frame (setLink_frame g0))

theorem rerouteLink_frame {m a a0 a1 a2} (g0 : Leaves m a a2) (hm : FieldsIn 0x800000300000200000010004000004 m := by first | assumption | exact FieldsIn.of (by assumption) (by decide) | exact FieldsIn.refl _) : Leaves m a (rerouteLink a0 a1 a2) := by
  unfold rerouteLink
  try dsimp only
  exact (ite_frame (perturb_frame (startLinkRetrain_frame g0)) (startLinkRetrain_frame g0))

theorem execLaneFailure_frame {m a a0 a1 a2 a3 a4} (g0 : Leaves m a a4) (hm : FieldsIn 0x800000300000200000013004000004 m := by first | assumption | exact FieldsIn.of (by assumption) (by decide) | exact FieldsIn.refl _) : LeavesOut m a (execLaneFailure a0 a1 a2 a3 a4) := by
  unfold execLaneFailure
  try dsimp only
  exact (whenLive_frame g0 (fun _ h0 => (ite_frame (ite_frame (ite_frame (loseLane_frame h0) (setLink_frame (loseLane_frame h0))) (ite_frame (rerouteLink_frame (loseLane_frame h0)) (loseLane_frame h0))) h0)))

theorem replayFlit_frame {m a a0 a1} (g0 : Leaves m a a1) (hm : FieldsIn 0x40000000000000010000000004 m := by first | assumption | exact FieldsIn.of (by assumption) (by decide) | exact FieldsIn.refl _) : Leaves m a (replayFlit a0 a1) := by
  unfold replayFlit
  try dsimp only
  exact (ite_frame (startLinkRetrain_frame (perfCount_frame g0)) (setLink_frame (perfCount_frame g0)))

theorem execFlitCheckFailure_frame {m a a0 a1 a2} (g0 : Leaves m a a2) (hm : FieldsIn 0x800040300000200000010004000004 m := by first | assumption | exact FieldsIn.of (by assumption) (by decide) | exact FieldsIn.refl _) : LeavesOut m a (execFlitCheckFailure a0 a1 a2) := by
  unfold execFlitCheckFailure
  try dsimp only
  exact (whenLive_frame g0 (fun _ h0 => (ite_frame (ite_frame (perturb_frame (replayFlit_frame h0)) (replayFlit_frame h0)) h0)))

theorem retrainRecord_frame {m a a0 a1 a2} (g0 : Leaves m a a2) (hm : FieldsIn 0x800000300000000000000004000004 m := by first | assumption | exact FieldsIn.of (by assumption) (by decide) | exact FieldsIn.refl _) : Leaves m a (retrainRecord a0 a1 a2) := by
  unfold retrainRecord
  try dsimp only
  exact (capture_frame g0)

theorem execLinkRetrainComplete_frame {m a a0 a1 a2 a3} (g0 : Leaves m a a3) (hm : FieldsIn 0x800000300000000000013004000004 m := by first | assumption | exact FieldsIn.of (by assumption) (by decide) | exact FieldsIn.refl _) : LeavesOut m a (execLinkRetrainComplete a0 a1 a2 a3) := by
  unfold execLinkRetrainComplete
  try dsimp only
  exact (whenLive_frame g0 (fun _ h0 => (ite_frame (ite_frame (retrainRecord_frame (setLinkState_frame (setLink_frame (foldl_frame (fun _ _ h1 => (ite_frame h1 (loseLane_frame h1))) h0)))) (retrainRecord_frame (setLinkState_frame (setLink_frame (foldl_frame (fun _ _ h1 => (ite_frame h1 (loseLane_frame h1))) h0))))) h0)))

theorem execLinkRetrain_frame {m a a0 a1 a2} (g0 : Leaves m a a2) (hm : FieldsIn 0x800000300000200000010004000004 m := by first | assumption | exact FieldsIn.of (by assumption) (by decide) | exact FieldsIn.refl _) : LeavesOut m a (execLinkRetrain a0 a1 a2) := by
  unfold execLinkRetrain
  try dsimp only
  exact (whenLive_frame g0 (fun _ h0 => (ite_frame (rerouteLink_frame h0) h0)))

theorem execLinkSlip_frame {m a a0 a1} (g0 : Leaves m a a1) (hm : FieldsIn 0x800000300000200000010004000004 m := by first | assumption | exact FieldsIn.of (by assumption) (by decide) | exact FieldsIn.refl _) : LeavesOut m a (execLinkSlip a0 a1) := by
  unfold execLinkSlip
  try dsimp only
  exact (whenLive_frame g0 (fun _ h0 => (ite_frame (rerouteLink_frame h0) h0)))

theorem execLinkRetrainRetry_frame {m a a0 a1} (g0 : Leaves m a a1) (hm : FieldsIn 0x10000000004 m := by first | assumption | exact FieldsIn.of (by assumption) (by decide) | exact FieldsIn.refl _) : LeavesOut m a (execLinkRetrainRetry a0 a1) := by
  unfold execLinkRetrainRetry
  try dsimp only
  exact (whenLive_frame g0 (fun _ h0 => (by (try dsimp only); first | (split; exact (ite_frame (setLinkState_frame (setLink_frame h0)) h0); exact h0) | (split <;> first | exact (ite_frame (setLinkState_frame (setLink_frame h0)) h0) | exact h0))))

theorem execGroupRetrainComplete_frame {m a a0 a1 a2 a3} (g0 : Leaves m a a3) (hm : FieldsIn 0x10000000000 m := by first | assumption | exact FieldsIn.of (by assumption) (by decide) | exact FieldsIn.refl _) : LeavesOut m a (execGroupRetrainComplete a0 a1 a2 a3) := by
  unfold execGroupRetrainComplete
  try dsimp only
  exact (whenLive_frame g0 (fun _ h0 => (setLink_frame h0)))

theorem spoilWord_frame {m a a0 a1 a2} (g0 : Leaves m a a2) (hm : FieldsIn 0x8000000000002 m := by first | assumption | exact FieldsIn.of (by assumption) (by decide) | exact FieldsIn.refl _) : Leaves m a (spoilWord a0 a1 a2) := by
  unfold spoilWord
  try dsimp only
  exact (useFree_frame (writeFrame_frame g0))

theorem concealDelayed_frame {m a a0 a1 a2} (g0 : Leaves m a a2) (hm : FieldsIn 0x100000000000000000004 m := by first | assumption | exact FieldsIn.of (by assumption) (by decide) | exact FieldsIn.refl _) : Leaves m a (concealDelayed a0 a1 a2) := by
  unfold concealDelayed
  try dsimp only
  exact (by (try dsimp only); first | (split; exact g0; exact (addObj_frame (setAudio_frame g0))) | (split <;> first | exact g0 | exact (addObj_frame (setAudio_frame g0))))

theorem movePins_frame {m a a0 a1} (g0 : Leaves m a a1) (hm : FieldsIn 0x1000000000000 m := by first | assumption | exact FieldsIn.of (by assumption) (by decide) | exact FieldsIn.refl _) : Leaves m a (movePins a0 a1) := by
  unfold movePins
  try dsimp only
  exact (foldl_frame (fun _ _ h0 => (foldl_frame (fun _ _ h1 => (updSlot_frame h1)) h0)) g0)

theorem moveSite_frame {m a a0 a1 a2} (g0 : Leaves m a a2) (hm : FieldsIn 0xd080000000004 m := by first | assumption | exact FieldsIn.of (by assumption) (by decide) | exact FieldsIn.refl _) : Leaves m a (moveSite a0 a1 a2) := by
  unfold moveSite
  try dsimp only
  exact (foldl_frame (fun _ _ h0 => (setObj_frame (setObj_frame h0))) (foldl_frame (fun _ _ h0 => (upd_fab_frame h0)) (movePins_frame (foldl_frame (fun _ _ h0 => (setPageMap_frame h0)) (foldl_frame (fun _ _ h0 => (freeFrameAt_frame (setFrame_frame h0))) g0)))))

theorem killSite_frame {m a a0 a1} (g0 : Leaves m a a1) (hm : FieldsIn 0x80021800000000000 m := by first | assumption | exact FieldsIn.of (by assumption) (by decide) | exact FieldsIn.refl _) : Leaves m a (killSite a0 a1) := by
  unfold killSite
  try dsimp only
  exact (foldl_frame (fun _ _ h0 => (foldl_frame (fun _ _ h1 => (ite_frame (startKill_frame h1) h1)) h0)) g0)

theorem stopLoadOf_frame {m a a0 a1} (g0 : Leaves m a a1) (hm : FieldsIn 0x80000030000000000c020004000004 m := by first | assumption | exact FieldsIn.of (by assumption) (by decide) | exact FieldsIn.refl _) : Leaves m a (stopLoadOf a0 a1) := by
  unfold stopLoadOf
  try dsimp only
  exact (by (try dsimp only); first | (split; exact (ite_frame (stopLoad_frame g0) g0); exact g0) | (split <;> first | exact (ite_frame (stopLoad_frame g0) g0) | exact g0))

theorem tileRecord_frame {m a a0 a1 a2 a3} (g0 : Leaves m a a3) (hm : FieldsIn 0x800000300000000000000004000004 m := by first | assumption | exact FieldsIn.of (by assumption) (by decide) | exact FieldsIn.refl _) : Leaves m a (tileRecord a0 a1 a2 a3) := by
  unfold tileRecord
  try dsimp only
  exact (capture_frame g0)

theorem loseSite_frame {m a a0 a1} (g0 : Leaves m a a1) (hm : FieldsIn 0x8000003000000c002da23004000004 m := by first | assumption | exact FieldsIn.of (by assumption) (by decide) | exact FieldsIn.refl _) : Leaves m a (loseSite a0 a1) := by
  unfold loseSite
  try dsimp only
  exact (by (try dsimp only); first | (split; exact (jobFault_frame (stopLoadOf_frame (tileRecord_frame (learn_frame (foldl_frame (fun _ _ h0 => (setObj_frame h0)) (killSite_frame g0)))))); exact (tileRecord_frame (learn_frame (foldl_frame (fun _ _ h0 => (setObj_frame h0)) (killSite_frame g0))))) | (split <;> first | exact (jobFault_frame (stopLoadOf_frame (tileRecord_frame (learn_frame (foldl_frame (fun _ _ h0 => (setObj_frame h0)) (killSite_frame g0)))))) | exact (tileRecord_frame (learn_frame (foldl_frame (fun _ _ h0 => (setObj_frame h0)) (killSite_frame g0))))))

theorem loseMoves_frame {m a a0 a1} (g0 : Leaves m a a1) (hm : FieldsIn 0x8000003000000c002da63004000004 m := by first | assumption | exact FieldsIn.of (by assumption) (by decide) | exact FieldsIn.refl _) : Leaves m a (loseMoves a0 a1) := by
  unfold loseMoves
  try dsimp only
  exact (foldl_frame (fun _ _ h0 => (loseSite_frame (ite_frame h0 (updPart_frame h0)))) (upd_fab_frame g0))

theorem reclaimTile_frame {m a a0 a1 a2} (g0 : Leaves m a a2) (hm : FieldsIn 0xc0021800000000004 m := by first | assumption | exact FieldsIn.of (by assumption) (by decide) | exact FieldsIn.refl _) : Leaves m a (reclaimTile a0 a1 a2) := by
  unfold reclaimTile
  try dsimp only
  exact (ite_frame g0 (ite_frame (startReclaim_frame g0) (updPart_frame g0)))

theorem startMove_frame {m a a0 a1 a2 a3} (g0 : Leaves m a a3) (hm : FieldsIn 0x8000003000002c002d860004000004 m := by first | assumption | exact FieldsIn.of (by assumption) (by decide) | exact FieldsIn.refl _) : Leaves m a (startMove a0 a1 a2 a3) := by
  unfold startMove
  try dsimp only
  exact (perturb_frame (foldl_frame (fun _ _ h0 => (reclaimTile_frame h0)) (killSite_frame (updPart_frame (upd_fab_frame (stopLoadOf_frame g0))))))

theorem failSite_frame {m a a0 a1 a2} (g0 : Leaves m a a2) (hm : FieldsIn 0x8000003000002c002de63004000004 m := by first | assumption | exact FieldsIn.of (by assumption) (by decide) | exact FieldsIn.refl _) : Leaves m a (failSite a0 a1 a2) := by
  unfold failSite
  try dsimp only
  exact (ite_frame (by (try dsimp only); first | (split; exact (ite_frame (startMove_frame (loseMoves_frame g0)) (ite_frame g0 (upd_fab_frame g0))); exact (releaseResets_frame (loseSite_frame (loseMoves_frame g0)))) | (split <;> first | exact (ite_frame (startMove_frame (loseMoves_frame g0)) (ite_frame g0 (upd_fab_frame g0))) | exact (releaseResets_frame (loseSite_frame (loseMoves_frame g0))))) g0)

theorem resumeFaults_frame {m a a0} (g0 : Leaves m a a0) (hm : FieldsIn 0x8000003000002c002de63004000004 m := by first | assumption | exact FieldsIn.of (by assumption) (by decide) | exact FieldsIn.refl _) : Leaves m a (resumeFaults a0) := by
  unfold resumeFaults
  try dsimp only
  exact (foldl_frame (fun _ _ h0 => (failSite_frame h0)) (upd_fab_frame g0))

theorem execWeirRestartComplete_frame {m a a0} (g0 : Leaves m a a0) (hm : FieldsIn 0x80001ffc00002c002de63406000004 m := by first | assumption | exact FieldsIn.of (by assumption) (by decide) | exact FieldsIn.refl _) : LeavesOut m a (execWeirRestartComplete a0) := by
  unfold execWeirRestartComplete
  try dsimp only
  exact (whenLive_frame g0 (fun _ h0 => (by (try dsimp only); first | (split; exact h0; exact (by (try dsimp only); first | (split; exact (resumeFaults_frame (runWeir_frame h0)); exact (upd_fw_frame h0)) | (split <;> first | exact (resumeFaults_frame (runWeir_frame h0)) | exact (upd_fw_frame h0)))) | (split <;> first | exact h0 | exact (by (try dsimp only); first | (split; exact (resumeFaults_frame (runWeir_frame h0)); exact (upd_fw_frame h0)) | (split <;> first | exact (resumeFaults_frame (runWeir_frame h0)) | exact (upd_fw_frame h0)))))))

theorem binError_frame {m a a0 a1} (g0 : Leaves m a a1) (hm : FieldsIn 0x800000300080000000000004000004 m := by first | assumption | exact FieldsIn.of (by assumption) (by decide) | exact FieldsIn.refl _) : Leaves m a (binError a0 a1) := by
  unfold binError
  try dsimp only
  exact (ite_frame (setOverlay_frame g0) (by (try dsimp only); first | (split; exact g0; exact (capture_frame (setObj_frame (addObj_frame (addObj_frame (setOverlay_frame g0)))))) | (split <;> first | exact g0 | exact (capture_frame (setObj_frame (addObj_frame (addObj_frame (setOverlay_frame g0))))))))

theorem execTileMoveComplete_frame {m a a0 a1} (g0 : Leaves m a a1) (hm : FieldsIn 0x8000003000000c002dac3004000004 m := by first | assumption | exact FieldsIn.of (by assumption) (by decide) | exact FieldsIn.refl _) : LeavesOut m a (execTileMoveComplete a0 a1) := by
  unfold execTileMoveComplete
  try dsimp only
  exact (whenLive_frame g0 (fun _ h0 => (by (try dsimp only); first | (split; exact h0; exact (ite_frame (releaseResets_frame (ite_frame (tileRecord_frame (learn_frame (upd_fab_frame (moveSite_frame h0)))) (updPart_frame (tileRecord_frame (learn_frame (upd_fab_frame (moveSite_frame h0))))))) h0)) | (split <;> first | exact h0 | exact (ite_frame (releaseResets_frame (ite_frame (tileRecord_frame (learn_frame (upd_fab_frame (moveSite_frame h0)))) (updPart_frame (tileRecord_frame (learn_frame (upd_fab_frame (moveSite_frame h0))))))) h0)))))

theorem execTileFault_frame {m a a0 a1 a2} (g0 : Leaves m a a2) (hm : FieldsIn 0x8000003000002c002de63004000004 m := by first | assumption | exact FieldsIn.of (by assumption) (by decide) | exact FieldsIn.refl _) : LeavesOut m a (execTileFault a0 a1 a2) := by
  unfold execTileFault
  try dsimp only
  exact (whenLive_frame g0 (fun _ h0 => (failSite_frame h0)))

theorem reloadPage_frame {m a a0 a1 a2 a3 a4} (g0 : Leaves m a a4) (hm : FieldsIn 0x8000000000000 m := by first | assumption | exact FieldsIn.of (by assumption) (by decide) | exact FieldsIn.refl _) : Leaves m a (reloadPage a0 a1 a2 a3 a4) := by
  unfold reloadPage
  try dsimp only
  exact (setFrame_frame g0)

theorem tileWordError_frame {m a a0 a1 a2} (g0 : Leaves m a a2) (hm : FieldsIn 0xc0029a00000000006 m := by first | assumption | exact FieldsIn.of (by assumption) (by decide) | exact FieldsIn.refl _) : Leaves m a (tileWordError a0 a1 a2) := by
  unfold tileWordError
  try dsimp only
  exact (by (try dsimp only); first | (split; exact g0; exact (by (try dsimp only); first | (split; exact (spoilWord_frame g0); exact (by (try dsimp only); first | (split; exact (spoilWord_frame g0); exact (by (try dsimp only); first | (split; exact (reloadPage_frame g0); exact (jobFault_frame (spoilWord_frame g0))) | (split <;> first | exact (reloadPage_frame g0) | exact (jobFault_frame (spoilWord_frame g0))))) | (split <;> first | exact (spoilWord_frame g0) | exact (by (try dsimp only); first | (split; exact (reloadPage_frame g0); exact (jobFault_frame (spoilWord_frame g0))) | (split <;> first | exact (reloadPage_frame g0) | exact (jobFault_frame (spoilWord_frame g0))))))) | (split <;> first | exact (spoilWord_frame g0) | exact (by (try dsimp only); first | (split; exact (spoilWord_frame g0); exact (by (try dsimp only); first | (split; exact (reloadPage_frame g0); exact (jobFault_frame (spoilWord_frame g0))) | (split <;> first | exact (reloadPage_frame g0) | exact (jobFault_frame (spoilWord_frame g0))))) | (split <;> first | exact (spoilWord_frame g0) | exact (by (try dsimp only); first | (split; exact (reloadPage_frame g0); exact (jobFault_frame (spoilWord_frame g0))) | (split <;> first | exact (reloadPage_frame g0) | exact (jobFault_frame (spoilWord_frame g0))))))))) | (split <;> first | exact g0 | exact (by (try dsimp only); first | (split; exact (spoilWord_frame g0); exact (by (try dsimp only); first | (split; exact (spoilWord_frame g0); exact (by (try dsimp only); first | (split; exact (reloadPage_frame g0); exact (jobFault_frame (spoilWord_frame g0))) | (split <;> first | exact (reloadPage_frame g0) | exact (jobFault_frame (spoilWord_frame g0))))) | (split <;> first | exact (spoilWord_frame g0) | exact (by (try dsimp only); first | (split; exact (reloadPage_frame g0); exact (jobFault_frame (spoilWord_frame g0))) | (split <;> first | exact (reloadPage_frame g0) | exact (jobFault_frame (spoilWord_frame g0))))))) | (split <;> first | exact (spoilWord_frame g0) | exact (by (try dsimp only); first | (split; exact (spoilWord_frame g0); exact (by (try dsimp only); first | (split; exact (reloadPage_frame g0); exact (jobFault_frame (spoilWord_frame g0))) | (split <;> first | exact (reloadPage_frame g0) | exact (jobFault_frame (spoilWord_frame g0))))) | (split <;> first | exact (spoilWord_frame g0) | exact (by (try dsimp only); first | (split; exact (reloadPage_frame g0); exact (jobFault_frame (spoilWord_frame g0))) | (split <;> first | exact (reloadPage_frame g0) | exact (jobFault_frame (spoilWord_frame g0))))))))))

theorem lineError_frame {m a a0 a1 a2} (g0 : Leaves m a a2) (hm : FieldsIn 0x800000000000000000000 m := by first | assumption | exact FieldsIn.of (by assumption) (by decide) | exact FieldsIn.refl _) : Leaves m a (lineError a0 a1 a2) := by
  unfold lineError
  try dsimp only
  exact (setPort_frame g0)

theorem killUnits_frame {m a a0 a1} (g0 : Leaves m a a1) (hm : FieldsIn 0x80021800000000000 m := by first | assumption | exact FieldsIn.of (by assumption) (by decide) | exact FieldsIn.refl _) : Leaves m a (killUnits a0 a1) := by
  unfold killUnits
  try dsimp only
  exact (foldl_frame (fun _ _ h0 => (ite_frame h0 (startKill_frame h0))) g0)

theorem execMotionEngineFault_frame {m a a0 a1} (g0 : Leaves m a a1) (hm : FieldsIn 0x800000300000080021903004000004 m := by first | assumption | exact FieldsIn.of (by assumption) (by decide) | exact FieldsIn.refl _) : LeavesOut m a (execMotionEngineFault a0 a1) := by
  unfold execMotionEngineFault
  try dsimp only
  exact (whenLive_frame g0 (fun _ h0 => (ite_frame (capture_frame (learn_frame (setObj_frame (upd_fab_frame (killUnits_frame h0))))) h0)))

theorem slotWordError_frame {m a a0 a1 a2} (g0 : Leaves m a a2) (hm : FieldsIn 0x8100003000038c0021a00004000004 m := by first | assumption | exact FieldsIn.of (by assumption) (by decide) | exact FieldsIn.refl _) : Leaves m a (slotWordError a0 a1 a2) := by
  unfold slotWordError
  try dsimp only
  exact (ite_frame (refuseCommand_frame g0) g0)

theorem wordError_frame {m a a0 a1 a2 a3} (g0 : Leaves m a a3) (hm : FieldsIn 0x810040342997cc0029a000f400000f m := by first | assumption | exact FieldsIn.of (by assumption) (by decide) | exact FieldsIn.refl _) : Leaves m a (wordError a0 a1 a2 a3) := by
  have h1 : ∀ {u}, Leaves m a (applyUpdate u a3) := applyUpdate_frame g0
  unfold wordError
  split
  · exact ite_frame (tileWordError_frame g0) (slotWordError_frame g0)
  · dsimp only
    split
    · exact jobFault_frame h1
    · exact h1
  · exact concealDelayed_frame g0
  · exact binError_frame g0
  · exact lineError_frame g0
  · exact ite_frame (rillUnresponsive_frame g0) g0
  · exact putSlot_frame g0

theorem execUncorrectableSramError_frame {m a a0 a1 a2 a3} (g0 : Leaves m a a3) (hm : FieldsIn 0x810040342997cc0029a000f400000f m := by first | assumption | exact FieldsIn.of (by assumption) (by decide) | exact FieldsIn.refl _) : LeavesOut m a (execUncorrectableSramError a0 a1 a2 a3) := by
  unfold execUncorrectableSramError
  try dsimp only
  exact (whenLive_frame g0 (fun _ h0 => (ite_frame (restartWeir_frame h0) (ite_frame h0 (capture_frame (wordError_frame h0))))))

theorem execSramScrub_frame {m a a0 a1 a2 a3} (g0 : Leaves m a a3) (hm : FieldsIn 0x40000000000000000000000004 m := by first | assumption | exact FieldsIn.of (by assumption) (by decide) | exact FieldsIn.refl _) : LeavesOut m a (execSramScrub a0 a1 a2 a3) := by
  unfold execSramScrub
  try dsimp only
  exact (whenLive_frame g0 (fun _ h0 => (ite_frame (perfCount_frame h0) h0)))

theorem killDie_frame {m a a0 a1} (g0 : Leaves m a a1) (hm : FieldsIn 0x80021800000000000 m := by first | assumption | exact FieldsIn.of (by assumption) (by decide) | exact FieldsIn.refl _) : Leaves m a (killDie a0 a1) := by
  unfold killDie
  try dsimp only
  exact (foldl_frame (fun _ _ h0 => (foldl_frame (fun _ _ h1 => (foldl_frame (fun _ _ h2 => (startKill_frame h2)) h1)) h0)) (foldl_frame (fun _ _ h0 => (killSite_frame h0)) g0))

theorem execComputeDieFault_frame {m a a0 a1} (g0 : Leaves m a a1) (hm : FieldsIn 0x80000032000009bde1803004000005 m := by first | assumption | exact FieldsIn.of (by assumption) (by decide) | exact FieldsIn.refl _) : LeavesOut m a (execComputeDieFault a0 a1) := by
  unfold execComputeDieFault
  try dsimp only
  exact (whenLive_frame g0 (fun _ h0 => (ite_frame (ite_frame (loseStack_frame (ite_frame (loseStack_frame (learn_frame (foldl_frame (fun _ _ h1 => (setObj_frame h1)) (foldl_frame (fun _ _ h1 => (foldl_frame (fun _ _ h2 => (setObj_frame h2)) h1)) (killDie_frame (setField_frame h0)))))) (learn_frame (foldl_frame (fun _ _ h1 => (setObj_frame h1)) (foldl_frame (fun _ _ h1 => (foldl_frame (fun _ _ h2 => (setObj_frame h2)) h1)) (killDie_frame (setField_frame h0))))))) (ite_frame (loseStack_frame (learn_frame (foldl_frame (fun _ _ h1 => (setObj_frame h1)) (foldl_frame (fun _ _ h1 => (foldl_frame (fun _ _ h2 => (setObj_frame h2)) h1)) (killDie_frame (setField_frame h0)))))) (learn_frame (foldl_frame (fun _ _ h1 => (setObj_frame h1)) (foldl_frame (fun _ _ h1 => (foldl_frame (fun _ _ h2 => (setObj_frame h2)) h1)) (killDie_frame (setField_frame h0))))))) h0)))

theorem endStep_frame {m a a0 a1 a2 a3 a4 a5} (g0 : Leaves m a a5) (hm : FieldsIn 0x800000300000000000004004000004 m := by first | assumption | exact FieldsIn.of (by assumption) (by decide) | exact FieldsIn.refl _) : Leaves m a (endStep a0 a1 a2 a3 a4 a5) := by
  unfold endStep
  try dsimp only
  exact (capture_frame (setObj_frame (upd_fab_frame (setObj_frame (setObj_frame g0)))))

theorem bootWeir_frame {m a a0 a1} (g0 : Leaves m a a1) (hm : FieldsIn 0x80001ffc00000000000047fe000005 m := by first | assumption | exact FieldsIn.of (by assumption) (by decide) | exact FieldsIn.refl _) : Leaves m a (bootWeir a0 a1) := by
  have h1 : ∀ {v w}, Leaves m a (setObj oFwRillSlot v { restoreAlmanac a1 with fw := { (restoreAlmanac a1).fw with activeWeir := w } }) :=
    setObj_frame (upd_fw_frame (restoreAlmanac_frame g0))
  unfold bootWeir
  dsimp only
  split
  · exact endStep_frame (runWeir_frame (ite_frame h1 (setSlotState_frame h1)))
  · exact emit_frame (setObj_frame (setObj_frame (setSlotState_frame (setSlotState_frame h1))))

theorem commDefaults_frame {m a a0} (g0 : Leaves m a a0) (hm : FieldsIn 0x4 m := by first | assumption | exact FieldsIn.of (by assumption) (by decide) | exact FieldsIn.refl _) : Leaves m a (commDefaults a0) := by
  unfold commDefaults
  try dsimp only
  exact (foldl_frame (fun _ _ h0 => (setObj_frame h0)) (setObj_frame (dropObjs_frame g0)))

theorem canReset_frame {m a a0} (g0 : Leaves m a a0) (hm : FieldsIn 0x10000000000000000000005 m := by first | assumption | exact FieldsIn.of (by assumption) (by decide) | exact FieldsIn.refl _) : Leaves m a (canReset a0) := by
  unfold canReset
  try dsimp only
  exact (ite_frame (setField_frame (upd_io_frame (commDefaults_frame g0))) (emit_frame (setField_frame (upd_io_frame (commDefaults_frame g0)))))

theorem deliveredFlash_frame {m a a0 a1} (g0 : Leaves m a a1) (hm : FieldsIn 0x10 m := by first | assumption | exact FieldsIn.of (by assumption) (by decide) | exact FieldsIn.refl _) : Leaves m a (deliveredFlash a0 a1) := by
  unfold deliveredFlash
  try dsimp only
  exact (foldl_frame (fun _ _ h0 => (flashWrite_frame h0)) g0)

theorem takeBoard_frame {m a a0 a1} (g0 : Leaves m a a1) (hm : FieldsIn 0x800000010 m := by first | assumption | exact FieldsIn.of (by assumption) (by decide) | exact FieldsIn.refl _) : Leaves m a (takeBoard a0 a1) := by
  unfold takeBoard
  try dsimp only
  exact (upd_fab_frame (ite_frame (deliveredFlash_frame (upd_fab_frame g0)) g0))

theorem execPowerGood_frame {m a a0 a1 a2} (g0 : Leaves m a a2) (hm : FieldsIn 0x80001ffd0000000000004ffe040035 m := by first | assumption | exact FieldsIn.of (by assumption) (by decide) | exact FieldsIn.refl _) : LeavesOut m a (execPowerGood a0 a1 a2) := by
  have h1 : ∀ {s x y}, Leaves m a s → Leaves m a { s with clk := { s.clk with running := x }, pw := { s.pw with pwrgood := y } } :=
    fun {s x _} h => upd_pw_frame (s := { s with clk := { s.clk with running := x } }) (upd_clk_frame h)
  unfold execPowerGood
  exact ite_out_frame (next_frame g0) (next_frame (bootWeir_frame (addObj_frame (canReset_frame (setObj_frame (setObj_frame (h1 (takeBoard_frame g0))))))))

theorem quietPort_frame {m a a0 a1} (g0 : Leaves m a a1) (hm : FieldsIn 0x800000000000000000004 m := by first | assumption | exact FieldsIn.of (by assumption) (by decide) | exact FieldsIn.refl _) : Leaves m a (quietPort a0 a1) := by
  unfold quietPort
  try dsimp only
  exact (refreshLevel_frame (setPort_frame g0))

theorem tripSeq_frame {m a a0 a1} (g0 : Leaves m a a1) (hm : FieldsIn 0x38e0000000000000000004 m := by first | assumption | exact FieldsIn.of (by assumption) (by decide) | exact FieldsIn.refl _) : Leaves m a (tripSeq a0 a1) := by
  unfold tripSeq
  try dsimp only
  exact (ite_frame g0 (setWatched_frame (setSeq_frame (setObj_frame (foldl_frame (fun _ _ h0 => (ite_frame (quietPort_frame h0) (ite_frame (stopRing_frame h0) h0))) g0)))))

theorem dropLinks_frame {m a a0} (g0 : Leaves m a a0) (hm : FieldsIn 0x10000000004 m := by first | assumption | exact FieldsIn.of (by assumption) (by decide) | exact FieldsIn.refl _) : Leaves m a (dropLinks a0) := by
  unfold dropLinks
  try dsimp only
  exact (setObj_frame (upd_fab_frame g0))

theorem fillUnits_frame {m a a0} (g0 : Leaves m a a0) (hm : FieldsIn 0x4 m := by first | assumption | exact FieldsIn.of (by assumption) (by decide) | exact FieldsIn.refl _) : Leaves m a (fillUnits a0) := by
  unfold fillUnits
  try dsimp only
  exact (foldl_frame (fun _ _ h0 => (setObj_frame h0)) (foldl_frame (fun _ _ h0 => (setObj_frame (setObj_frame h0))) (setObj_frame (setObj_frame (setObj_frame (setObj_frame g0))))))

theorem loseCompute_frame {m a a0} (g0 : Leaves m a a0) (hm : FieldsIn 0x8000003007e03ffffffff804000004 m := by first | assumption | exact FieldsIn.of (by assumption) (by decide) | exact FieldsIn.refl _) : Leaves m a (loseCompute a0) := by
  have h1 : ∀ {s}, Leaves m a s → Leaves m a { s with tl := Tiles.init, ci := Cistern.init, st := Streams.init, pt := Parts.init } := fun {s} h =>
    upd_pt_frame (s := { s with tl := Tiles.init, ci := Cistern.init, st := Streams.init }) (upd_st_frame (s := { s with tl := Tiles.init, ci := Cistern.init })
      (upd_ci_frame (s := { s with tl := Tiles.init }) (upd_tl_frame h)))
  have h2 : ∀ {s x1 x2 x3 x4 x5}, Leaves m a s → Leaves m a { s with fab := { s.fab with siteOf := x1, evac := x2, motionFailed := x3, resetWaits := x4, faultWaits := x5 } } :=
    fun h => upd_fab_frame h
  have h3 : Leaves m a (match a0.fab.load with
      | some r => stopLoad r a0
      | none => a0) := by
    split
    · exact stopLoad_frame g0
    · exact g0
  unfold loseCompute
  exact foldl_frame (fun _ _ h0 => updPart_frame (setObj_frame h0)) (updateActive_frame (dropLinks_frame (h2 (h1 (setObj_frame
    (ite_frame (fillUnits_frame (dropObjs_frame h3)) (dropObjs_frame h3)))))))

theorem powerOff_frame {m a a0} (g0 : Leaves m a a0) (hm : FieldsIn 0xffffffffffffffffffffffffffffff m := by first | assumption | exact FieldsIn.of (by assumption) (by decide) | exact FieldsIn.refl _) : Leaves m a (powerOff a0) := by
  have h : ∀ i, i < 120 → m.testBit i = true := fun i hi => FieldsIn.bit hm (by
    have : ∀ i, i < 120 → (0xffffffffffffffffffffffffffffff : Nat).testBit i = true := by decide
    exact this i hi)
  constructor <;> intro hb <;> rw [h _ (by decide)] at hb <;> cases hb

theorem execHubPllLockLoss_frame {m a a0} (g0 : Leaves m a a0) (hm : FieldsIn 0xffffffffffffffffffffffffffffff m := by first | assumption | exact FieldsIn.of (by assumption) (by decide) | exact FieldsIn.refl _) : LeavesOut m a (execHubPllLockLoss a0) := by
  unfold execHubPllLockLoss
  try dsimp only
  exact (whenLive_frame g0 (fun _ h0 => (powerOff_frame h0)))

theorem setTripN_frame {m a a0 a1} (g0 : Leaves m a a1) (hm : FieldsIn 0x80001 m := by first | assumption | exact FieldsIn.of (by assumption) (by decide) | exact FieldsIn.refl _) : Leaves m a (setTripN a0 a1) := by
  unfold setTripN
  try dsimp only
  exact (ite_frame g0 (emit_frame (upd_pw_frame g0)))

theorem tripStep_frame {m a a0} (g0 : Leaves m a a0) (hm : FieldsIn 0x800000300000000000004004000006 m := by first | assumption | exact FieldsIn.of (by assumption) (by decide) | exact FieldsIn.refl _) : Leaves m a (tripStep a0) := by
  unfold tripStep
  try dsimp only
  exact (by (try dsimp only); first | (split; exact (useFree_frame (endStep_frame (ite_frame (setObj_frame g0) g0))); exact g0) | (split <;> first | exact (useFree_frame (endStep_frame (ite_frame (setObj_frame g0) g0))) | exact g0))

theorem startTrip_frame {m a a0 a1} (g0 : Leaves m a a1) (hm : FieldsIn 0x800000303ae0000000004005280007 m := by first | assumption | exact FieldsIn.of (by assumption) (by decide) | exact FieldsIn.refl _) : Leaves m a (startTrip a0 a1) := by
  unfold startTrip
  try dsimp only
  exact (upd_pw_frame (tripStep_frame (foldl_frame (fun _ _ h0 => (tripSeq_frame h0)) (upd_st_frame (setObj_frame (addObj_frame (setObj_frame (setTripN_frame g0))))))))

theorem hubTrip_frame {m a a0 a1} (g0 : Leaves m a a1) (hm : FieldsIn 0x800000307ae0000000004005680007 m := by first | assumption | exact FieldsIn.of (by assumption) (by decide) | exact FieldsIn.refl _) : Leaves m a (hubTrip a0 a1) := by
  unfold hubTrip
  try dsimp only
  exact (capture_frame (upd_pw_frame (setTripN_frame (foldl_frame (fun _ _ h0 => (ite_frame h0 (setPath_frame (setObj_frame h0)))) (ite_frame g0 (startTrip_frame g0))))))

theorem computeTrip_frame {m a a0 a1} (g0 : Leaves m a a1) (hm : FieldsIn 0x800000303ae0000000004005280007 m := by first | assumption | exact FieldsIn.of (by assumption) (by decide) | exact FieldsIn.refl _) : Leaves m a (computeTrip a0 a1) := by
  unfold computeTrip
  try dsimp only
  exact (capture_frame (startTrip_frame g0))

theorem noteHottest_frame {m a a0} (g0 : Leaves m a a0) (hm : FieldsIn 0x4 m := by first | assumption | exact FieldsIn.of (by assumption) (by decide) | exact FieldsIn.refl _) : Leaves m a (noteHottest a0) := by
  unfold noteHottest
  try dsimp only
  exact (by (try dsimp only); first | (split; exact (setObj_frame g0); exact (ite_frame (setObj_frame (setObj_frame g0)) (setObj_frame g0))) | (split <;> first | exact (setObj_frame g0) | exact (ite_frame (setObj_frame (setObj_frame g0)) (setObj_frame g0))))

theorem takeSample_frame {m a a0 a1 a2} (g0 : Leaves m a a2) (hm : FieldsIn 0x800000300000000000000004100004 m := by first | assumption | exact FieldsIn.of (by assumption) (by decide) | exact FieldsIn.refl _) : Leaves m a (takeSample a0 a1 a2) := by
  unfold takeSample
  try dsimp only
  exact (ite_frame g0 (ite_frame (upd_pw_frame (capture_frame g0)) (ite_frame (capture_frame (addObj_frame (upd_pw_frame g0))) (upd_pw_frame g0))))

theorem execSensorSample_frame {m a a0 a1} (g0 : Leaves m a a1) (hm : FieldsIn 0x800000307ae0000000004005780007 m := by first | assumption | exact FieldsIn.of (by assumption) (by decide) | exact FieldsIn.refl _) : LeavesOut m a (execSensorSample a0 a1) := by
  unfold execSensorSample
  try dsimp only
  exact (whenLive_frame g0 (fun _ h0 => (by (try dsimp only); first | (split; exact (ite_frame (by (try dsimp only); first | (split; exact (ite_frame (noteHottest_frame (foldl_frame (fun _ _ h1 => (takeSample_frame h1)) h0)) (computeTrip_frame (noteHottest_frame (foldl_frame (fun _ _ h1 => (takeSample_frame h1)) h0)))); exact (noteHottest_frame (foldl_frame (fun _ _ h1 => (takeSample_frame h1)) h0))) | (split <;> first | exact (ite_frame (noteHottest_frame (foldl_frame (fun _ _ h1 => (takeSample_frame h1)) h0)) (computeTrip_frame (noteHottest_frame (foldl_frame (fun _ _ h1 => (takeSample_frame h1)) h0)))) | exact (noteHottest_frame (foldl_frame (fun _ _ h1 => (takeSample_frame h1)) h0)))) (hubTrip_frame (by (try dsimp only); first | (split; exact (ite_frame (noteHottest_frame (foldl_frame (fun _ _ h1 => (takeSample_frame h1)) h0)) (computeTrip_frame (noteHottest_frame (foldl_frame (fun _ _ h1 => (takeSample_frame h1)) h0)))); exact (noteHottest_frame (foldl_frame (fun _ _ h1 => (takeSample_frame h1)) h0))) | (split <;> first | exact (ite_frame (noteHottest_frame (foldl_frame (fun _ _ h1 => (takeSample_frame h1)) h0)) (computeTrip_frame (noteHottest_frame (foldl_frame (fun _ _ h1 => (takeSample_frame h1)) h0)))) | exact (noteHottest_frame (foldl_frame (fun _ _ h1 => (takeSample_frame h1)) h0)))))); exact (by (try dsimp only); first | (split; exact (ite_frame (noteHottest_frame (foldl_frame (fun _ _ h1 => (takeSample_frame h1)) h0)) (computeTrip_frame (noteHottest_frame (foldl_frame (fun _ _ h1 => (takeSample_frame h1)) h0)))); exact (noteHottest_frame (foldl_frame (fun _ _ h1 => (takeSample_frame h1)) h0))) | (split <;> first | exact (ite_frame (noteHottest_frame (foldl_frame (fun _ _ h1 => (takeSample_frame h1)) h0)) (computeTrip_frame (noteHottest_frame (foldl_frame (fun _ _ h1 => (takeSample_frame h1)) h0)))) | exact (noteHottest_frame (foldl_frame (fun _ _ h1 => (takeSample_frame h1)) h0))))) | (split <;> first | exact (ite_frame (by (try dsimp only); first | (split; exact (ite_frame (noteHottest_frame (foldl_frame (fun _ _ h1 => (takeSample_frame h1)) h0)) (computeTrip_frame (noteHottest_frame (foldl_frame (fun _ _ h1 => (takeSample_frame h1)) h0)))); exact (noteHottest_frame (foldl_frame (fun _ _ h1 => (takeSample_frame h1)) h0))) | (split <;> first | exact (ite_frame (noteHottest_frame (foldl_frame (fun _ _ h1 => (takeSample_frame h1)) h0)) (computeTrip_frame (noteHottest_frame (foldl_frame (fun _ _ h1 => (takeSample_frame h1)) h0)))) | exact (noteHottest_frame (foldl_frame (fun _ _ h1 => (takeSample_frame h1)) h0)))) (hubTrip_frame (by (try dsimp only); first | (split; exact (ite_frame (noteHottest_frame (foldl_frame (fun _ _ h1 => (takeSample_frame h1)) h0)) (computeTrip_frame (noteHottest_frame (foldl_frame (fun _ _ h1 => (takeSample_frame h1)) h0)))); exact (noteHottest_frame (foldl_frame (fun _ _ h1 => (takeSample_frame h1)) h0))) | (split <;> first | exact (ite_frame (noteHottest_frame (foldl_frame (fun _ _ h1 => (takeSample_frame h1)) h0)) (computeTrip_frame (noteHottest_frame (foldl_frame (fun _ _ h1 => (takeSample_frame h1)) h0)))) | exact (noteHottest_frame (foldl_frame (fun _ _ h1 => (takeSample_frame h1)) h0)))))) | exact (by (try dsimp only); first | (split; exact (ite_frame (noteHottest_frame (foldl_frame (fun _ _ h1 => (takeSample_frame h1)) h0)) (computeTrip_frame (noteHottest_frame (foldl_frame (fun _ _ h1 => (takeSample_frame h1)) h0)))); exact (noteHottest_frame (foldl_frame (fun _ _ h1 => (takeSample_frame h1)) h0))) | (split <;> first | exact (ite_frame (noteHottest_frame (foldl_frame (fun _ _ h1 => (takeSample_frame h1)) h0)) (computeTrip_frame (noteHottest_frame (foldl_frame (fun _ _ h1 => (takeSample_frame h1)) h0)))) | exact (noteHottest_frame (foldl_frame (fun _ _ h1 => (takeSample_frame h1)) h0))))))))

theorem execHubTripClockStop_frame {m a a0} (g0 : Leaves m a a0) (hm : FieldsIn 0x20 m := by first | assumption | exact FieldsIn.of (by assumption) (by decide) | exact FieldsIn.refl _) : LeavesOut m a (execHubTripClockStop a0) := by
  unfold execHubTripClockStop
  try dsimp only
  exact (whenLive_frame g0 (fun _ h0 => (by (try dsimp only); first | (split; exact h0; exact (ite_frame (upd_clk_frame h0) h0)) | (split <;> first | exact h0 | exact (ite_frame (upd_clk_frame h0) h0)))))

theorem stepsNotDone_frame {m a a0 a1} (g0 : Leaves m a a1) (hm : FieldsIn 0x4 m := by first | assumption | exact FieldsIn.of (by assumption) (by decide) | exact FieldsIn.refl _) : Leaves m a (stepsNotDone a0 a1) := by
  unfold stepsNotDone
  try dsimp only
  exact (setObj_frame (foldl_frame (fun _ _ h0 => (ite_frame (setObj_frame h0) h0)) g0))

theorem execTripClockStop.stepsKeep_frame {m a a0} (g0 : Leaves m a a0) (hm : FieldsIn 0x4 m := by first | assumption | exact FieldsIn.of (by assumption) (by decide) | exact FieldsIn.refl _) : Leaves m a (execTripClockStop.stepsKeep a0) := by
  unfold execTripClockStop.stepsKeep
  try dsimp only
  exact (setObj_frame (foldl_frame (fun _ _ h0 => (ite_frame h0 (setObj_frame h0))) g0))

theorem execTripClockStop_frame {m a a0} (g0 : Leaves m a a0) (hm : FieldsIn 0x8000003207e03ffffffff804800005 m := by first | assumption | exact FieldsIn.of (by assumption) (by decide) | exact FieldsIn.refl _) : LeavesOut m a (execTripClockStop a0) := by
  unfold execTripClockStop
  try dsimp only
  exact (whenLive_frame g0 (fun _ h0 => (by (try dsimp only); first | (split; exact h0; exact (ite_frame (upd_pw_frame (ite_frame (execTripClockStop.stepsKeep_frame (setField_frame (setField_frame (refreshPins_frame (loseCompute_frame h0))))) (stepsNotDone_frame (setField_frame (setField_frame (refreshPins_frame (loseCompute_frame h0))))))) h0)) | (split <;> first | exact h0 | exact (ite_frame (upd_pw_frame (ite_frame (execTripClockStop.stepsKeep_frame (setField_frame (setField_frame (refreshPins_frame (loseCompute_frame h0))))) (stepsNotDone_frame (setField_frame (setField_frame (refreshPins_frame (loseCompute_frame h0))))))) h0)))))

theorem execPwrgoodLow_frame {m a a0} (g0 : Leaves m a a0) (hm : FieldsIn 0xffffffffffffffffffffffffffffff m := by first | assumption | exact FieldsIn.of (by assumption) (by decide) | exact FieldsIn.refl _) : LeavesOut m a (execPwrgoodLow a0) := by
  unfold execPwrgoodLow
  try dsimp only
  exact (next_frame (powerOff_frame g0))

theorem trainLink_frame {m a a0 a1 a2} (g0 : Leaves m a a2) (hm : FieldsIn 0x800000300000000000013004000004 m := by first | assumption | exact FieldsIn.of (by assumption) (by decide) | exact FieldsIn.refl _) : Leaves m a (trainLink a0 a1 a2) := by
  unfold trainLink
  try dsimp only
  exact (ite_frame (foldl_frame (fun _ _ h0 => (learn_frame h0)) (setLinkState_frame (setLink_frame g0))) (setLinkState_frame (setLink_frame g0)))

theorem startStep_frame {m a a0 a1} (g0 : Leaves m a a1) (hm : FieldsIn 0x800000300000000000004004000004 m := by first | assumption | exact FieldsIn.of (by assumption) (by decide) | exact FieldsIn.refl _) : Leaves m a (startStep a0 a1) := by
  unfold startStep
  try dsimp only
  exact (by (try dsimp only); first | (split; exact (endStep_frame (ite_frame (setObj_frame (setObj_frame (addObj_frame (setObj_frame (stepsNotDone_frame g0))))) (addObj_frame (setObj_frame (stepsNotDone_frame g0))))); exact (setObj_frame (ite_frame (upd_fab_frame (ite_frame (setObj_frame (setField_frame (addObj_frame (setObj_frame (stepsNotDone_frame g0))))) (addObj_frame (setObj_frame (stepsNotDone_frame g0))))) (ite_frame (setObj_frame (setField_frame (addObj_frame (setObj_frame (stepsNotDone_frame g0))))) (addObj_frame (setObj_frame (stepsNotDone_frame g0))))))) | (split <;> first | exact (endStep_frame (ite_frame (setObj_frame (setObj_frame (addObj_frame (setObj_frame (stepsNotDone_frame g0))))) (addObj_frame (setObj_frame (stepsNotDone_frame g0))))) | exact (setObj_frame (ite_frame (upd_fab_frame (ite_frame (setObj_frame (setField_frame (addObj_frame (setObj_frame (stepsNotDone_frame g0))))) (addObj_frame (setObj_frame (stepsNotDone_frame g0))))) (ite_frame (setObj_frame (setField_frame (addObj_frame (setObj_frame (stepsNotDone_frame g0))))) (addObj_frame (setObj_frame (stepsNotDone_frame g0))))))))

theorem wBring_frame {m a a0 a1 a2 a3} (g0 : Leaves m a a3) (hm : FieldsIn 0x800000300000000000004004000004 m := by first | assumption | exact FieldsIn.of (by assumption) (by decide) | exact FieldsIn.refl _) : Leaves m a (wBring a0 a1 a2 a3).1 := by
  unfold wBring
  try dsimp only
  exact (ite_fst_frame (fst_frame (refuse_frame g0)) (ite_fst_frame (fst_frame (startStep_frame g0)) (fst_frame (refuse_frame g0))))

theorem runStep_frame {m a a0 a1 a2 a3 a4} (g0 : ∀ y0, Leaves m a y0 → Leaves m a (a3 y0).2) (g1 : Leaves m a a4) (hm : FieldsIn 0x800000300000000000004004000004 m := by first | assumption | exact FieldsIn.of (by assumption) (by decide) | exact FieldsIn.refl _) : Leaves m a (runStep a0 a1 a2 a3 a4) := by
  unfold runStep
  try dsimp only
  exact (ite_frame (endStep_frame (g0 _ (ite_frame g1 (ackWrite_frame (wBring_frame g1))))) (ite_frame g1 (ackWrite_frame (wBring_frame g1))))

theorem loadRill_frame {m a a0} (g0 : Leaves m a a0) (hm : FieldsIn 0x800000300000000000000074000004 m := by first | assumption | exact FieldsIn.of (by assumption) (by decide) | exact FieldsIn.refl _) : Leaves m a (loadRill a0).2 := by
  unfold loadRill
  try dsimp only
  exact (finishRillStart_frame g0)

theorem setTrims_frame {m a a0 a1 a2 a3} (g0 : Leaves m a a3) (hm : FieldsIn 0x4 m := by first | assumption | exact FieldsIn.of (by assumption) (by decide) | exact FieldsIn.refl _) : Leaves m a (setTrims a0 a1 a2 a3) := by
  unfold setTrims
  try dsimp only
  exact (setField_frame g0)

theorem applyEngines_frame {m a a0} (g0 : Leaves m a a0) (hm : FieldsIn 0x100000000004 m := by first | assumption | exact FieldsIn.of (by assumption) (by decide) | exact FieldsIn.refl _) : Leaves m a (applyEngines a0) := by
  unfold applyEngines
  try dsimp only
  exact (upd_fab_frame (foldl_frame (fun _ _ h0 => (setObj_frame h0)) (foldl_frame (fun _ _ h0 => (setObj_frame (setObj_frame h0))) g0)))

theorem applyPorts_frame {m a a0} (g0 : Leaves m a a0) (hm : FieldsIn 0x20000000000000000000005 m := by first | assumption | exact FieldsIn.of (by assumption) (by decide) | exact FieldsIn.refl _) : Leaves m a (applyPorts a0) := by
  unfold applyPorts
  try dsimp only
  exact (refreshPins_frame (foldl_frame (fun _ _ h0 => (ite_frame (setObj_frame h0) (ite_frame (setObj_frame h0) h0))) g0))

theorem dropRegions_frame {m a a0} (g0 : Leaves m a a0) (hm : FieldsIn 0x4 m := by first | assumption | exact FieldsIn.of (by assumption) (by decide) | exact FieldsIn.refl _) : Leaves m a (dropRegions a0) := by
  unfold dropRegions
  try dsimp only
  exact (dropObjs_frame g0)

theorem trainStacks_frame {m a a0 a1 a2} (g0 : Leaves m a a2) (hm : FieldsIn 0x80000032000003ffc0003005000005 m := by first | assumption | exact FieldsIn.of (by assumption) (by decide) | exact FieldsIn.refl _) : Leaves m a (trainStacks a0 a1 a2).2 := by
  have h1 : ∀ {l1 : List Nat} {l2 : List (Nat × Nat)},
      Leaves m a (l2.foldl (fun s e => learn 4 e.1 e.2 0 0 s) (l1.foldl (fun s k => learn 3 k 0 0 0 s) a2)) :=
    foldl_frame (fun _ _ h0 => learn_frame h0) (foldl_frame (fun _ _ h0 => learn_frame h0) g0)
  have h2 : ∀ {s x}, Leaves m a s → Leaves m a { s with ci := { Cistern.init with lostPcs := x } } :=
    fun h => upd_ci_frame h
  have h3 : ∀ {s}, Leaves m a s → Leaves m a { s with pw := { s.pw with declLocked := true } } := fun h => upd_pw_frame h
  unfold trainStacks
  exact snd_frame (capture_frame (h3 (setObj_frame (setCisternState_frame (setObj_frame (dropRegions_frame (h2 (endMigration_frame h1))))))))

theorem setDefect_frame {m a a0 a1 a2} (g0 : Leaves m a a2) (hm : FieldsIn 0x1000000000 m := by first | assumption | exact FieldsIn.of (by assumption) (by decide) | exact FieldsIn.refl _) : Leaves m a (setDefect a0 a1 a2) := by
  unfold setDefect
  try dsimp only
  exact (upd_fab_frame g0)

theorem trainLinks_frame {m a a0 a1} (g0 : Leaves m a a1) (hm : FieldsIn 0x800000300000000000013004a80005 m := by first | assumption | exact FieldsIn.of (by assumption) (by decide) | exact FieldsIn.refl _) : Leaves m a (trainLinks a0 a1).2 := by
  unfold trainLinks
  try dsimp only
  exact (ite_snd_frame (snd_frame (upd_pw_frame (setTripN_frame (ite_frame (setObj_frame (setObj_frame (foldl_frame (fun _ _ h0 => (learn_frame h0)) (foldl_frame (fun _ _ h0 => (trainLink_frame h0)) g0)))) (setObj_frame (foldl_frame (fun _ _ h0 => (learn_frame h0)) (foldl_frame (fun _ _ h0 => (trainLink_frame h0)) g0))))))) (snd_frame (upd_pw_frame (setTripN_frame (ite_frame (setObj_frame (setObj_frame (foldl_frame (fun _ _ h0 => (learn_frame h0)) (foldl_frame (fun _ _ h0 => (trainLink_frame h0)) g0)))) (setObj_frame (foldl_frame (fun _ _ h0 => (learn_frame h0)) (foldl_frame (fun _ _ h0 => (trainLink_frame h0)) g0))))))))

theorem execLinkTraining_frame {m a a0 a1 a2 a3} (g0 : Leaves m a a3) (hm : FieldsIn 0x800000300004000000017004a80005 m := by first | assumption | exact FieldsIn.of (by assumption) (by decide) | exact FieldsIn.refl _) : LeavesOut m a (execLinkTraining a0 a1 a2 a3) := by
  unfold execLinkTraining
  try dsimp only
  exact (whenFree_frame g0 (fun _ h0 => (runStep_frame (fun _ h1 => (trainLinks_frame h1)) h0)))

theorem applyTile_frame {m a a0 a1 a2} (g0 : Leaves m a a2) (hm : FieldsIn 0x80000000004 m := by first | assumption | exact FieldsIn.of (by assumption) (by decide) | exact FieldsIn.refl _) : Leaves m a (applyTile a0 a1 a2) := by
  unfold applyTile
  try dsimp only
  exact (by (try dsimp only); first | (split; exact (setObj_frame (setObj_frame (setObj_frame (upd_fab_frame g0)))); exact (setObj_frame (setObj_frame (setObj_frame (upd_fab_frame g0))))) | (split <;> first | exact (setObj_frame (setObj_frame (setObj_frame (upd_fab_frame g0))))))

theorem applyMaps_frame {m a a0} (g0 : Leaves m a a0) (hm : FieldsIn 0x200000000001c8000000005 m := by first | assumption | exact FieldsIn.of (by assumption) (by decide) | exact FieldsIn.refl _) : Leaves m a (applyMaps a0).2 := by
  unfold applyMaps
  refine ite_snd_frame (snd_frame (applyPorts_frame (applyEngines_frame (foldl_frame (fun _ _ h => applyTile_frame h) g0)))) ?_
  split
  · exact g0
  · exact snd_frame (applyPorts_frame (applyEngines_frame (upd_fab_frame (foldl_frame (fun _ _ h => applyTile_frame h) g0))))

theorem execNetworkMapApply_frame {m a a0 a1 a2} (g0 : Leaves m a a2) (hm : FieldsIn 0x8000003200040000001cc004000005 m := by first | assumption | exact FieldsIn.of (by assumption) (by decide) | exact FieldsIn.refl _) : LeavesOut m a (execNetworkMapApply a0 a1 a2) := by
  unfold execNetworkMapApply
  try dsimp only
  exact (whenFree_frame g0 (fun _ h0 => (runStep_frame (fun _ h1 => (applyMaps_frame h1)) h0)))

theorem loadFactory_frame {m a a0} (g0 : Leaves m a a0) (hm : FieldsIn 0x9000000004 m := by first | assumption | exact FieldsIn.of (by assumption) (by decide) | exact FieldsIn.refl _) : Leaves m a (loadFactory a0) := by
  unfold loadFactory
  try dsimp only
  exact (setObj_frame (setObj_frame (foldl_frame (fun _ _ h0 => (setDefect_frame h0)) (upd_fab_frame g0))))

theorem fillFuses_frame {m a a0} (g0 : Leaves m a a0) (hm : FieldsIn 0x9000000004 m := by first | assumption | exact FieldsIn.of (by assumption) (by decide) | exact FieldsIn.refl _) : Leaves m a (fillFuses a0) := by
  unfold fillFuses
  try dsimp only
  exact (loadFactory_frame (fillUnits_frame (setObj_frame (setObj_frame (setObj_frame (setObj_frame (setObj_frame (setObj_frame g0))))))))

theorem wDefectData_frame {m a a0 a1 a2} (g0 : Leaves m a a2) (hm : FieldsIn 0x800000300000000000001004000004 m := by first | assumption | exact FieldsIn.of (by assumption) (by decide) | exact FieldsIn.refl _) : Leaves m a (wDefectData a0 a1 a2).1 := by
  unfold wDefectData
  try dsimp only
  exact (ite_fst_frame (fst_frame (setObj_frame (setDefect_frame g0))) (fst_frame (refuse_frame g0)))

theorem wFieldCount_frame {m a a0 a1 a2} (g0 : Leaves m a a2) (hm : FieldsIn 0x800000300000000000001004000004 m := by first | assumption | exact FieldsIn.of (by assumption) (by decide) | exact FieldsIn.refl _) : Leaves m a (wFieldCount a0 a1 a2).1 := by
  unfold wFieldCount
  try dsimp only
  exact (ite_fst_frame (fst_frame (refuse_frame g0)) (ite_fst_frame (fst_frame (refuse_frame g0)) (fst_frame (setObj_frame (setObj_frame (upd_fab_frame g0))))))

theorem hideSite_frame {m a a0 a1} (g0 : Leaves m a a1) (hm : FieldsIn 0x800000300000000000003004000004 m := by first | assumption | exact FieldsIn.of (by assumption) (by decide) | exact FieldsIn.refl _) : Leaves m a (hideSite a0 a1) := by
  unfold hideSite
  try dsimp only
  exact (ite_frame g0 (learn_frame g0))

theorem repairRow_frame {m a a0 a1} (g0 : Leaves m a a1) (hm : FieldsIn 0x80000030000000000000b004000004 m := by first | assumption | exact FieldsIn.of (by assumption) (by decide) | exact FieldsIn.refl _) : Leaves m a (repairRow a0 a1) := by
  unfold repairRow
  try dsimp only
  exact (ite_frame g0 (ite_frame (learn_frame (upd_fab_frame g0)) (hideSite_frame g0)))

theorem unbindAll_frame {m a a0} (g0 : Leaves m a a0) (hm : FieldsIn 0x4 m := by first | assumption | exact FieldsIn.of (by assumption) (by decide) | exact FieldsIn.refl _) : Leaves m a (unbindAll a0) := by
  unfold unbindAll
  try dsimp only
  exact (foldl_frame (fun _ _ h0 => (ite_frame (setObj_frame h0) h0)) g0)

theorem execFuseRead_frame {m a a0 a1 a2 a3} (g0 : Leaves m a a3) (hm : FieldsIn 0x80000030000400000000d004000004 m := by first | assumption | exact FieldsIn.of (by assumption) (by decide) | exact FieldsIn.refl _) : LeavesOut m a (execFuseRead a0 a1 a2 a3) := by
  unfold execFuseRead
  try dsimp only
  exact (whenFree_frame g0 (fun _ h0 => (runStep_frame (fun _ h1 => (ite_snd_frame (snd_frame (fillFuses_frame h1)) (ite_snd_frame (snd_frame h1) (snd_frame h1)))) h0)))

theorem alignDone_frame {m a a0 a1} (g0 : Leaves m a a1) (hm : FieldsIn 0x184 m := by first | assumption | exact FieldsIn.of (by assumption) (by decide) | exact FieldsIn.refl _) : Leaves m a (alignDone a0 a1) := by
  unfold alignDone
  try dsimp only
  exact (setObj_frame (setObj_frame (upd_clk_frame g0)))

theorem execDefectMapLoad_frame {m a a0 a1 a2} (g0 : Leaves m a a2) (hm : FieldsIn 0x800000300004000000004004000004 m := by first | assumption | exact FieldsIn.of (by assumption) (by decide) | exact FieldsIn.refl _) : LeavesOut m a (execDefectMapLoad a0 a1 a2) := by
  unfold execDefectMapLoad
  try dsimp only
  exact (whenFree_frame g0 (fun _ h0 => (runStep_frame (fun _ h1 => (snd_frame h1)) h0)))

theorem alignFails_frame {m a a0 a1 a2 a3 a4} (g0 : Leaves m a a4) (hm : FieldsIn 0x4 m := by first | assumption | exact FieldsIn.of (by assumption) (by decide) | exact FieldsIn.refl _) : Leaves m a (alignFails a0 a1 a2 a3 a4).2 := by
  unfold alignFails
  try dsimp only
  exact (setObj_frame (setObj_frame g0))

theorem alignReset_frame {m a a0 a1} (g0 : Leaves m a a1) (hm : FieldsIn 0x184 m := by first | assumption | exact FieldsIn.of (by assumption) (by decide) | exact FieldsIn.refl _) : Leaves m a (alignReset a0 a1).2 := by
  unfold alignReset
  try dsimp only
  exact (ite_snd_frame (snd_frame (alignDone_frame g0)) (by (try dsimp only); first | (split; exact (alignFails_frame (setObj_frame g0)); exact (ite_snd_frame (snd_frame (setObj_frame (setObj_frame (setObj_frame g0)))) (by (try dsimp only); first | (split; exact (alignFails_frame (setObj_frame g0)); exact (by (try dsimp only); first | (split; exact (alignFails_frame (foldl_frame (fun _ _ h0 => (setTrims_frame h0)) (upd_clk_frame (setObj_frame g0)))); exact (alignFails_frame (foldl_frame (fun _ _ h0 => (setTrims_frame h0)) (upd_clk_frame (setObj_frame g0)))); exact (snd_frame (alignDone_frame (foldl_frame (fun _ _ h0 => (setTrims_frame h0)) (upd_clk_frame (setObj_frame g0)))))) | (split <;> first | exact (alignFails_frame (foldl_frame (fun _ _ h0 => (setTrims_frame h0)) (upd_clk_frame (setObj_frame g0)))) | exact (snd_frame (alignDone_frame (foldl_frame (fun _ _ h0 => (setTrims_frame h0)) (upd_clk_frame (setObj_frame g0)))))))) | (split <;> first | exact (alignFails_frame (setObj_frame g0)) | exact (by (try dsimp only); first | (split; exact (alignFails_frame (foldl_frame (fun _ _ h0 => (setTrims_frame h0)) (upd_clk_frame (setObj_frame g0)))); exact (alignFails_frame (foldl_frame (fun _ _ h0 => (setTrims_frame h0)) (upd_clk_frame (setObj_frame g0)))); exact (snd_frame (alignDone_frame (foldl_frame (fun _ _ h0 => (setTrims_frame h0)) (upd_clk_frame (setObj_frame g0)))))) | (split <;> first | exact (alignFails_frame (foldl_frame (fun _ _ h0 => (setTrims_frame h0)) (upd_clk_frame (setObj_frame g0)))) | exact (snd_frame (alignDone_frame (foldl_frame (fun _ _ h0 => (setTrims_frame h0)) (upd_clk_frame (setObj_frame g0))))))))))) | (split <;> first | exact (alignFails_frame (setObj_frame g0)) | exact (ite_snd_frame (snd_frame (setObj_frame (setObj_frame (setObj_frame g0)))) (by (try dsimp only); first | (split; exact (alignFails_frame (setObj_frame g0)); exact (by (try dsimp only); first | (split; exact (alignFails_frame (foldl_frame (fun _ _ h0 => (setTrims_frame h0)) (upd_clk_frame (setObj_frame g0)))); exact (alignFails_frame (foldl_frame (fun _ _ h0 => (setTrims_frame h0)) (upd_clk_frame (setObj_frame g0)))); exact (snd_frame (alignDone_frame (foldl_frame (fun _ _ h0 => (setTrims_frame h0)) (upd_clk_frame (setObj_frame g0)))))) | (split <;> first | exact (alignFails_frame (foldl_frame (fun _ _ h0 => (setTrims_frame h0)) (upd_clk_frame (setObj_frame g0)))) | exact (snd_frame (alignDone_frame (foldl_frame (fun _ _ h0 => (setTrims_frame h0)) (upd_clk_frame (setObj_frame g0)))))))) | (split <;> first | exact (alignFails_frame (setObj_frame g0)) | exact (by (try dsimp only); first | (split; exact (alignFails_frame (foldl_frame (fun _ _ h0 => (setTrims_frame h0)) (upd_clk_frame (setObj_frame g0)))); exact (alignFails_frame (foldl_frame (fun _ _ h0 => (setTrims_frame h0)) (upd_clk_frame (setObj_frame g0)))); exact (snd_frame (alignDone_frame (foldl_frame (fun _ _ h0 => (setTrims_frame h0)) (upd_clk_frame (setObj_frame g0)))))) | (split <;> first | exact (alignFails_frame (foldl_frame (fun _ _ h0 => (setTrims_frame h0)) (upd_clk_frame (setObj_frame g0)))) | exact (snd_frame (alignDone_frame (foldl_frame (fun _ _ h0 => (setTrims_frame h0)) (upd_clk_frame (setObj_frame g0)))))))))))))

theorem execResetAlignment_frame {m a a0 a1 a2 a3} (g0 : Leaves m a a3) (hm : FieldsIn 0x800000300004000000004004000184 m := by first | assumption | exact FieldsIn.of (by assumption) (by decide) | exact FieldsIn.refl _) : LeavesOut m a (execResetAlignment a0 a1 a2 a3) := by
  unfold execResetAlignment
  try dsimp only
  exact (whenFree_frame g0 (fun _ h0 => (runStep_frame (fun _ h1 => (alignReset_frame h1)) h0)))

theorem openPartitions_frame {m a a0} (g0 : Leaves m a a0) (hm : FieldsIn 0x7e03fe1c0000000000004 m := by first | assumption | exact FieldsIn.of (by assumption) (by decide) | exact FieldsIn.refl _) : Leaves m a (openPartitions a0).2 := by
  have h1 : ∀ {s x1 x2 x3 x4 x5 x6}, Leaves m a s →
      Leaves m a { s with pt := Parts.init, st := Streams.init, ci := { s.ci with slots := x1, pages := x2, tags := x3, stale := x4, rebuilding := x5, damaged := x6 } } := fun {s _ _ _ _ _ _} h =>
    upd_ci_frame (s := { s with pt := Parts.init, st := Streams.init }) (upd_st_frame (s := { s with pt := Parts.init }) (upd_pt_frame h))
  unfold openPartitions
  exact snd_frame (setObj_frame (updateActive_frame (h1 (endMigration_frame (unbindAll_frame (dropObjs_frame g0))))))

theorem execPartitionConfiguration_frame {m a a0 a1 a2} (g0 : Leaves m a a2) (hm : FieldsIn 0x8000003007e43fe1c0004004000004 m := by first | assumption | exact FieldsIn.of (by assumption) (by decide) | exact FieldsIn.refl _) : LeavesOut m a (execPartitionConfiguration a0 a1 a2) := by
  unfold execPartitionConfiguration
  try dsimp only
  exact (whenFree_frame g0 (fun _ h0 => (runStep_frame (fun _ h1 => (openPartitions_frame h1)) h0)))

theorem readDefect_frame {m a a0} (g0 : Leaves m a a0) (hm : FieldsIn 0x4 m := by first | assumption | exact FieldsIn.of (by assumption) (by decide) | exact FieldsIn.refl _) : Leaves m a (readDefect a0).2 := by
  unfold readDefect
  try dsimp only
  exact (setObj_frame g0)

theorem execDefectDataAccess_frame {m a a0 a1 a2} (g0 : Leaves m a a2) (hm : FieldsIn 0x80000030000400000000100400000d m := by first | assumption | exact FieldsIn.of (by assumption) (by decide) | exact FieldsIn.refl _) : LeavesOut m a (execDefectDataAccess a0 a1 a2) := by
  unfold execDefectDataAccess
  try dsimp only
  exact (whenFree_frame g0 (fun _ h0 => (by (try dsimp only); first | (split; exact (ackWrite_frame (wDefectData_frame h0)); exact (answer_frame (readDefect_frame h0))) | (split <;> first | exact (ackWrite_frame (wDefectData_frame h0)) | exact (answer_frame (readDefect_frame h0))))))

theorem execHbmTraining_frame {m a a0 a1 a2 a3 a4} (g0 : Leaves m a a4) (hm : FieldsIn 0x80000032000403ffc0007005000005 m := by first | assumption | exact FieldsIn.of (by assumption) (by decide) | exact FieldsIn.refl _) : LeavesOut m a (execHbmTraining a0 a1 a2 a3 a4) := by
  unfold execHbmTraining
  try dsimp only
  exact (whenFree_frame g0 (fun _ h0 => (runStep_frame (fun _ h1 => (trainStacks_frame h1)) h0)))

theorem execRillLoad_frame {m a a0 a1 a2} (g0 : Leaves m a a2) (hm : FieldsIn 0x800000300004000000004074000004 m := by first | assumption | exact FieldsIn.of (by assumption) (by decide) | exact FieldsIn.refl _) : LeavesOut m a (execRillLoad a0 a1 a2) := by
  unfold execRillLoad
  try dsimp only
  exact (whenFree_frame g0 (fun _ h0 => (runStep_frame (fun _ h1 => (loadRill_frame h1)) h0)))

theorem selfTest_frame {m a a0 a1 a2} (g0 : Leaves m a a2) (hm : FieldsIn 0x80000030000000002f80b004000004 m := by first | assumption | exact FieldsIn.of (by assumption) (by decide) | exact FieldsIn.refl _) : Leaves m a (selfTest a0 a1 a2).2 := by
  unfold selfTest
  try dsimp only
  exact (by (try dsimp only); first | (split; exact (snd_frame (upd_tl_frame (foldl_frame (fun _ _ h0 => (hideSite_frame h0)) (foldl_frame (fun _ _ h0 => (repairRow_frame h0)) g0)))); exact (snd_frame (upd_tl_frame (foldl_frame (fun _ _ h0 => (hideSite_frame h0)) (foldl_frame (fun _ _ h0 => (repairRow_frame h0)) g0))))) | (split <;> first | exact (snd_frame (upd_tl_frame (foldl_frame (fun _ _ h0 => (hideSite_frame h0)) (foldl_frame (fun _ _ h0 => (repairRow_frame h0)) g0))))))

theorem execTileSelfTest_frame {m a a0 a1 a2 a3 a4} (g0 : Leaves m a a4) (hm : FieldsIn 0x80000030000400002f80f004000004 m := by first | assumption | exact FieldsIn.of (by assumption) (by decide) | exact FieldsIn.refl _) : LeavesOut m a (execTileSelfTest a0 a1 a2 a3 a4) := by
  unfold execTileSelfTest
  try dsimp only
  exact (whenFree_frame g0 (fun _ h0 => (runStep_frame (fun _ h1 => (selfTest_frame h1)) h0)))

theorem setI2cByte_frame {m a a0 a1 a2} (g0 : Leaves m a a2) (hm : FieldsIn 0x20000000000000000000000 m := by first | assumption | exact FieldsIn.of (by assumption) (by decide) | exact FieldsIn.refl _) : Leaves m a (setI2cByte a0 a1 a2) := by
  unfold setI2cByte
  try dsimp only
  exact (upd_io_frame g0)

theorem fillI2c_frame {m a a0 a1 a2} (g0 : Leaves m a a2) (hm : FieldsIn 0x20000000000000000000000 m := by first | assumption | exact FieldsIn.of (by assumption) (by decide) | exact FieldsIn.refl _) : Leaves m a (fillI2c a0 a1 a2) := by
  induction a1 generalizing a0 a2 with
  | nil => exact g0
  | cons b bs ih => exact ih (setI2cByte_frame g0)

theorem execI2cTransactionComplete_frame {m a a0 a1 a2} (g0 : Leaves m a a2) (hm : FieldsIn 0x20000000000000000000004 m := by first | assumption | exact FieldsIn.of (by assumption) (by decide) | exact FieldsIn.refl _) : LeavesOut m a (execI2cTransactionComplete a0 a1 a2) := by
  unfold execI2cTransactionComplete
  try dsimp only
  exact (whenLive_frame g0 (fun _ h0 => (ite_frame (setObj_frame (fillI2c_frame h0)) h0)))

theorem startSwitch_frame {m a a0 a1 a2} (g0 : Leaves m a a2) (hm : FieldsIn 0x20000000000000000000005 m := by first | assumption | exact FieldsIn.of (by assumption) (by decide) | exact FieldsIn.refl _) : Leaves m a (startSwitch a0 a1 a2) := by
  unfold startSwitch
  try dsimp only
  exact (refreshPin_frame (upd_io_frame (setObj_frame (ite_frame (releaseMute_frame g0) g0))))

theorem wPinmux_frame {m a a0 a1 a2 a3} (g0 : Leaves m a a3) (hm : FieldsIn 0x800000320000000000000004000005 m := by first | assumption | exact FieldsIn.of (by assumption) (by decide) | exact FieldsIn.refl _) : Leaves m a (wPinmux a0 a1 a2 a3).1 := by
  unfold wPinmux
  try dsimp only
  exact (ite_fst_frame (fst_frame (refuse_frame g0)) (ite_fst_frame (fst_frame (refuse_frame g0)) (ite_fst_frame (fst_frame g0) (fst_frame (startSwitch_frame g0)))))

theorem execI2cStretchTimeout_frame {m a a0} (g0 : Leaves m a a0) (hm : FieldsIn 0x5 m := by first | assumption | exact FieldsIn.of (by assumption) (by decide) | exact FieldsIn.refl _) : LeavesOut m a (execI2cStretchTimeout a0) := by
  unfold execI2cStretchTimeout
  try dsimp only
  exact (whenLive_frame g0 (fun _ h0 => (ite_frame (emit_frame (setObj_frame h0)) h0)))

theorem execPinFunctionSwitch_frame {m a a0 a1 a2 a3} (g0 : Leaves m a a3) (hm : FieldsIn 0x800000320004000000000004000005 m := by first | assumption | exact FieldsIn.of (by assumption) (by decide) | exact FieldsIn.refl _) : LeavesOut m a (execPinFunctionSwitch a0 a1 a2 a3) := by
  unfold execPinFunctionSwitch
  try dsimp only
  exact (whenFree_frame g0 (fun _ h0 => (ite_frame (ackWrite_frame (wPinmux_frame h0)) h0)))

theorem i2cNext_frame {m a a0} (g0 : Leaves m a a0) (hm : FieldsIn 0x4 m := by first | assumption | exact FieldsIn.of (by assumption) (by decide) | exact FieldsIn.refl _) : Leaves m a (i2cNext a0) := by
  unfold i2cNext
  try dsimp only
  exact (setObj_frame g0)

theorem readI2cData_frame {m a a0} (g0 : Leaves m a a0) (hm : FieldsIn 0x4 m := by first | assumption | exact FieldsIn.of (by assumption) (by decide) | exact FieldsIn.refl _) : Leaves m a (readI2cData a0).2 := by
  unfold readI2cData
  try dsimp only
  exact (i2cNext_frame g0)

theorem setPps_frame {m a a0 a1} (g0 : Leaves m a a1) (hm : FieldsIn 0x800000300000000000000004000004 m := by first | assumption | exact FieldsIn.of (by assumption) (by decide) | exact FieldsIn.refl _) : Leaves m a (setPps a0 a1) := by
  unfold setPps
  try dsimp only
  exact (ite_frame g0 (capture_frame (setObj_frame g0)))

theorem ppsMeasure_frame {m a a0 a1 a2} (g0 : Leaves m a a2) (hm : FieldsIn 0x800000300000000000000004007c06 m := by first | assumption | exact FieldsIn.of (by assumption) (by decide) | exact FieldsIn.refl _) : Leaves m a (ppsMeasure a0 a1 a2) := by
  unfold ppsMeasure
  try dsimp only
  exact (ite_frame (setPps_frame (upd_clk_frame (setObj_frame (setObj_frame (ite_frame (useFree_frame g0) g0))))) (ite_frame (setPps_frame (upd_clk_frame (setObj_frame (setObj_frame (ite_frame (useFree_frame g0) g0))))) (setPps_frame (upd_clk_frame (setObj_frame (setObj_frame (ite_frame (useFree_frame g0) g0)))))))

theorem wI2cCommand_frame {m a a0 a1 a2} (g0 : Leaves m a a2) (hm : FieldsIn 0x800000300000000000000004000005 m := by first | assumption | exact FieldsIn.of (by assumption) (by decide) | exact FieldsIn.refl _) : Leaves m a (wI2cCommand a0 a1 a2).1 := by
  unfold wI2cCommand
  try dsimp only
  exact (ite_fst_frame (fst_frame (refuse_frame g0)) (ite_fst_frame (fst_frame (refuse_frame g0)) (fst_frame (emit_frame (setObj_frame g0)))))

theorem execI2cStart_frame {m a a0 a1} (g0 : Leaves m a a1) (hm : FieldsIn 0x800000300004000000000004000005 m := by first | assumption | exact FieldsIn.of (by assumption) (by decide) | exact FieldsIn.refl _) : LeavesOut m a (execI2cStart a0 a1) := by
  unfold execI2cStart
  try dsimp only
  exact (whenFree_frame g0 (fun _ h0 => (ackWrite_frame (wI2cCommand_frame h0))))

theorem execPpsLoss_frame {m a a0} (g0 : Leaves m a a0) (hm : FieldsIn 0x800000300000000000000004001404 m := by first | assumption | exact FieldsIn.of (by assumption) (by decide) | exact FieldsIn.refl _) : LeavesOut m a (execPpsLoss a0) := by
  unfold execPpsLoss
  try dsimp only
  exact (whenLive_frame g0 (fun _ h0 => (ite_frame (setPps_frame (upd_clk_frame h0)) h0)))

theorem endSwitches_frame {m a a0} (g0 : Leaves m a a0) (hm : FieldsIn 0x20000000000000000000001 m := by first | assumption | exact FieldsIn.of (by assumption) (by decide) | exact FieldsIn.refl _) : Leaves m a (endSwitches a0) := by
  unfold endSwitches
  try dsimp only
  exact (ite_frame g0 (foldl_frame (fun _ _ h0 => (refreshPin_frame h0)) (upd_io_frame g0)))

theorem wI2cData_frame {m a a0 a1 a2} (g0 : Leaves m a a2) (hm : FieldsIn 0x800000320000000000000004000004 m := by first | assumption | exact FieldsIn.of (by assumption) (by decide) | exact FieldsIn.refl _) : Leaves m a (wI2cData a0 a1 a2).1 := by
  unfold wI2cData
  try dsimp only
  exact (ite_fst_frame (fst_frame (refuse_frame g0)) (fst_frame (i2cNext_frame (setI2cByte_frame g0))))

theorem ppsAccepted_frame {m a a0} (g0 : Leaves m a a0) (hm : FieldsIn 0xc00000300000000000000004007c06 m := by first | assumption | exact FieldsIn.of (by assumption) (by decide) | exact FieldsIn.refl _) : Leaves m a (ppsAccepted a0) := by
  unfold ppsAccepted
  try dsimp only
  exact (ppsMeasure_frame (upd_now_frame g0))

theorem execPpsEdge_frame {m a a0} (g0 : Leaves m a a0) (hm : FieldsIn 0xc00000300000000000000004007c06 m := by first | assumption | exact FieldsIn.of (by assumption) (by decide) | exact FieldsIn.refl _) : LeavesOut m a (execPpsEdge a0) := by
  unfold execPpsEdge
  try dsimp only
  exact (whenLive_frame g0 (fun _ h0 => (ite_frame (addObj_frame h0) (ite_frame (ppsAccepted_frame (addObj_frame h0)) (addObj_frame (addObj_frame h0))))))

theorem readGpioIn_frame {m a a0} (g0 : Leaves m a a0) (hm : FieldsIn 0x2 m := by first | assumption | exact FieldsIn.of (by assumption) (by decide) | exact FieldsIn.refl _) : Leaves m a (readGpioIn a0).2 := by
  unfold readGpioIn
  try dsimp only
  exact (useFree_frame g0)

theorem wPpsEnable_frame {m a a0 a1} (g0 : Leaves m a a1) (hm : FieldsIn 0x800000300000000000000004007c04 m := by first | assumption | exact FieldsIn.of (by assumption) (by decide) | exact FieldsIn.refl _) : Leaves m a (wPpsEnable a0 a1).1 := by
  unfold wPpsEnable
  try dsimp only
  exact (ite_fst_frame (fst_frame (setObj_frame g0)) (ite_fst_frame (fst_frame (setPps_frame (setObj_frame (upd_clk_frame (setObj_frame g0))))) (fst_frame (setPps_frame (upd_clk_frame (setObj_frame g0))))))

theorem execI2cDataAccess_frame {m a a0 a1 a2} (g0 : Leaves m a a2) (hm : FieldsIn 0x80000032000400000000000400000d m := by first | assumption | exact FieldsIn.of (by assumption) (by decide) | exact FieldsIn.refl _) : LeavesOut m a (execI2cDataAccess a0 a1 a2) := by
  unfold execI2cDataAccess
  try dsimp only
  exact (whenFree_frame g0 (fun _ h0 => (by (try dsimp only); first | (split; exact (ackWrite_frame (wI2cData_frame h0)); exact (answer_frame (readI2cData_frame h0))) | (split <;> first | exact (ackWrite_frame (wI2cData_frame h0)) | exact (answer_frame (readI2cData_frame h0))))))

theorem deny_frame {m a a0 a1 a2 a3 a4} (g0 : Leaves m a a4) (hm : FieldsIn 0x800000300000000000000004000004 m := by first | assumption | exact FieldsIn.of (by assumption) (by decide) | exact FieldsIn.refl _) : Leaves m a (deny a0 a1 a2 a3 a4).1 := by
  unfold deny
  try dsimp only
  exact (ite_fst_frame (fst_frame (refuse_frame g0)) (fst_frame (refuse_frame g0)))

theorem wPlain_frame {m a a0 a1 a2 a3 a4 a5 a6} (g0 : Leaves m a a6) (hm : FieldsIn 0x800000300000000000000004000004 m := by first | assumption | exact FieldsIn.of (by assumption) (by decide) | exact FieldsIn.refl _) : Leaves m a (wPlain a0 a1 a2 a3 a4 a5 a6).1 := by
  unfold wPlain
  try dsimp only
  exact (ite_fst_frame (deny_frame g0) (ite_fst_frame (deny_frame g0) (fst_frame (setObj_frame g0))))

theorem wSeq_frame {m a a0 a1 a2 a3 a4 a5} (g0 : Leaves m a a5) (hm : FieldsIn 0x8100003007e3880021800004000004 m := by first | assumption | exact FieldsIn.of (by assumption) (by decide) | exact FieldsIn.refl _) : Leaves m a (wSeq a0 a1 a2 a3 a4 a5).1 := by
  unfold wSeq
  try dsimp only
  exact (ite_fst_frame (wSeqCommand_frame g0) (ite_fst_frame (wPlain_frame g0) (ite_fst_frame (wPlain_frame g0) (ite_fst_frame (wPlain_frame g0) (ite_fst_frame (wPlain_frame g0) (ite_fst_frame (wPlain_frame g0) (ite_fst_frame (wPlain_frame g0) (ite_fst_frame (wPlain_frame g0) (wPlain_frame g0)))))))))

theorem wStep_frame {m a a0 a1 a2 a3 a4 a5} (g0 : Leaves m a a5) (hm : FieldsIn 0x800000300000000000000004000004 m := by first | assumption | exact FieldsIn.of (by assumption) (by decide) | exact FieldsIn.refl _) : Leaves m a (wStep a0 a1 a2 a3 a4 a5).1 := by
  unfold wStep
  try dsimp only
  exact (ite_fst_frame (fst_frame (ite_frame (setObj_frame (setObj_frame g0)) (setObj_frame g0))) (deny_frame g0))

theorem wRaster_frame {m a a0 a1 a2 a3 a4 a5 a6} (g0 : Leaves m a a6) (hm : FieldsIn 0x800000301800000000000004000004 m := by first | assumption | exact FieldsIn.of (by assumption) (by decide) | exact FieldsIn.refl _) : Leaves m a (wRaster a0 a1 a2 a3 a4 a5 a6).1 := by
  unfold wRaster
  try dsimp only
  exact (ite_fst_frame (ite_fst_frame (wRasterConfig_frame g0) (wRasterPhase_frame g0)) (ite_fst_frame (wPlain_frame g0) (ite_fst_frame (ite_fst_frame (wPlain_frame g0) (wPlain_frame g0)) (ite_fst_frame (wPlain_frame g0) (ite_fst_frame (wPlain_frame g0) (wPlain_frame g0))))))

theorem wDefects_frame {m a a0 a1 a2 a3 a4} (g0 : Leaves m a a4) (hm : FieldsIn 0x800000300000000000001004000004 m := by first | assumption | exact FieldsIn.of (by assumption) (by decide) | exact FieldsIn.refl _) : Leaves m a (wDefects a0 a1 a2 a3 a4).1 := by
  unfold wDefects
  try dsimp only
  exact (ite_fst_frame (wFieldCount_frame g0) (ite_fst_frame (wDefectData_frame g0) (ite_fst_frame (wPlain_frame g0) (wPlain_frame g0))))

theorem wAcct_frame {m a a0 a1 a2 a3 a4 a5} (g0 : Leaves m a a5) (hm : FieldsIn 0x8900003000038c0021800004000004 m := by first | assumption | exact FieldsIn.of (by assumption) (by decide) | exact FieldsIn.refl _) : Leaves m a (wAcct a0 a1 a2 a3 a4 a5).1 := by
  unfold wAcct
  try dsimp only
  exact (ite_fst_frame (wAcctClear_frame g0) (ite_fst_frame (wAcctWithdraw_frame g0) (ite_fst_frame (wAcctRestore_frame g0) (wPlain_frame g0))))

theorem wDeclare_frame {m a a0 a1 a2 a3 a4 a5} (g0 : Leaves m a a5) (hm : FieldsIn 0x800000300000000000000004000004 m := by first | assumption | exact FieldsIn.of (by assumption) (by decide) | exact FieldsIn.refl _) : Leaves m a (wDeclare a0 a1 a2 a3 a4 a5).1 := by
  unfold wDeclare
  try dsimp only
  exact (ite_fst_frame (deny_frame g0) (ite_fst_frame (deny_frame g0) (fst_frame (ite_frame (setObj_frame (setObj_frame g0)) (setObj_frame g0)))))

theorem wEnv_frame {m a a0 a1 a2 a3 a4} (g0 : Leaves m a a4) (hm : FieldsIn 0x800000300000000000000004000004 m := by first | assumption | exact FieldsIn.of (by assumption) (by decide) | exact FieldsIn.refl _) : Leaves m a (wEnv a0 a1 a2 a3 a4).1 := by
  unfold wEnv
  try dsimp only
  exact (ite_fst_frame (wDeclare_frame g0) (ite_fst_frame (wDeclare_frame g0) (ite_fst_frame (wDeclare_frame g0) (ite_fst_frame (wDeclare_frame g0) (ite_fst_frame (wPlain_frame g0) (ite_fst_frame (wPlain_frame g0) (wPlain_frame g0)))))))

theorem readEngine_frame {m a a0 a1 a2 a3 a4} (g0 : Leaves m a a4) (hm : FieldsIn 0x4 m := by first | assumption | exact FieldsIn.of (by assumption) (by decide) | exact FieldsIn.refl _) : Leaves m a (readEngine a0 a1 a2 a3 a4).2 := by
  unfold readEngine
  try dsimp only
  exact (ite_snd_frame (snd_frame g0) (ite_snd_frame (snd_frame g0) (ite_snd_frame (snd_frame g0) (ite_snd_frame (snd_frame g0) (ite_snd_frame (readCmdData_frame g0) (snd_frame g0))))))

theorem readOf_frame {m a a0 a1 a2 a3 a4} (g0 : Leaves m a a4) (hm : FieldsIn 0x1000000100000000200000006 m := by first | assumption | exact FieldsIn.of (by assumption) (by decide) | exact FieldsIn.refl _) : Leaves m a (readOf a0 a1 a2 a3 a4).2 := by
  unfold readOf
  try dsimp only
  exact (ite_snd_frame (ite_snd_frame (snd_frame g0) (readEngine_frame g0)) (ite_snd_frame (readEngine_frame g0) (ite_snd_frame (readEngine_frame g0) (ite_snd_frame (ite_snd_frame (snd_frame g0) (readEngine_frame g0)) (ite_snd_frame (ite_snd_frame (snd_frame g0) (ite_snd_frame (snd_frame g0) (snd_frame g0))) (ite_snd_frame (ite_snd_frame (snd_frame g0) (ite_snd_frame (snd_frame g0) (ite_snd_frame (snd_frame g0) (ite_snd_frame (snd_frame g0) (snd_frame g0))))) (ite_snd_frame (snd_frame g0) (ite_snd_frame (snd_frame g0) (ite_snd_frame (snd_frame g0) (ite_snd_frame (snd_frame g0) (ite_snd_frame (ite_snd_frame (readAcct_frame g0) (ite_snd_frame (snd_frame g0) (ite_snd_frame (snd_frame g0) (snd_frame g0)))) (ite_snd_frame (snd_frame g0) (ite_snd_frame (snd_frame (ite_frame g0 (syncNext_frame g0))) (ite_snd_frame (snd_frame g0) (ite_snd_frame (readPeek_frame g0) (ite_snd_frame (ite_snd_frame (snd_frame g0) (ite_snd_frame (snd_frame g0) (ite_snd_frame (snd_frame g0) (snd_frame g0)))) (ite_snd_frame (readI2cData_frame g0) (ite_snd_frame (readGpioIn_frame g0) (ite_snd_frame (compatRead_frame g0) (ite_snd_frame (fwDataAccess_frame g0) (ite_snd_frame (snd_frame g0) (ite_snd_frame (snd_frame g0) (ite_snd_frame (snd_frame g0) (ite_snd_frame (snd_frame g0) (ite_snd_frame (snd_frame g0) (ite_snd_frame (ite_snd_frame (readDefect_frame g0) (ite_snd_frame (snd_frame g0) (ite_snd_frame (snd_frame g0) (snd_frame g0)))) (ite_snd_frame (ite_snd_frame (almanacRead_frame g0) (ite_snd_frame (snd_frame g0) (ite_snd_frame (snd_frame g0) (ite_snd_frame (snd_frame g0) (ite_snd_frame (snd_frame g0) (snd_frame g0)))))) (snd_frame g0))))))))))))))))))))))))))))

theorem readWhole_frame {m a a0 a1} (g0 : Leaves m a a1) (hm : FieldsIn 0x1000000100000000200000006 m := by first | assumption | exact FieldsIn.of (by assumption) (by decide) | exact FieldsIn.refl _) : Leaves m a (readWhole a0 a1).2 := by
  unfold readWhole
  try dsimp only
  exact (by (try dsimp only); first | (split; exact (snd_frame g0); exact (by (try dsimp only); first | (split; exact (snd_frame g0); exact (ite_snd_frame (snd_frame g0) (readOf_frame g0))) | (split <;> first | exact (snd_frame g0) | exact (ite_snd_frame (snd_frame g0) (readOf_frame g0))))) | (split <;> first | exact (snd_frame g0) | exact (by (try dsimp only); first | (split; exact (snd_frame g0); exact (ite_snd_frame (snd_frame g0) (readOf_frame g0))) | (split <;> first | exact (snd_frame g0) | exact (ite_snd_frame (snd_frame g0) (readOf_frame g0))))))

theorem wGpio_frame {m a a0 a1 a2 a3 a4} (g0 : Leaves m a a4) (hm : FieldsIn 0x800000320000000000000004000005 m := by first | assumption | exact FieldsIn.of (by assumption) (by decide) | exact FieldsIn.refl _) : Leaves m a (wGpio a0 a1 a2 a3 a4).1 := by
  unfold wGpio
  try dsimp only
  exact (ite_fst_frame (fst_frame (refreshPins_frame (setObj_frame g0))) (wPlain_frame g0))

theorem wHeartbeat_frame {m a a0 a1 a2} (g0 : Leaves m a a2) (hm : FieldsIn 0x10000000000000000000004 m := by first | assumption | exact FieldsIn.of (by assumption) (by decide) | exact FieldsIn.refl _) : Leaves m a (wHeartbeat a0 a1 a2).1 := by
  unfold wHeartbeat
  try dsimp only
  exact (setObj_frame (upd_io_frame g0))

theorem busAnswer_frame {m a a0 a1 a2 a3 a4} (g0 : Leaves m a a4) (hm : FieldsIn 0x9 m := by first | assumption | exact FieldsIn.of (by assumption) (by decide) | exact FieldsIn.refl _) : Leaves m a (busAnswer a0 a1 a2 a3 a4) := by
  unfold busAnswer
  try dsimp only
  exact (by (try dsimp only); first | (split; exact (ite_frame (emit_frame g0) (answer_frame g0)); exact (answer_frame g0)) | (split <;> first | exact (ite_frame (emit_frame g0) (answer_frame g0)) | exact (answer_frame g0)))

theorem readWord_frame {m a a0 a1 a2 a3} (g0 : Leaves m a a3) (hm : FieldsIn 0x100000010000000020000000e m := by first | assumption | exact FieldsIn.of (by assumption) (by decide) | exact FieldsIn.refl _) : Leaves m a (readWord a0 a1 a2 a3).2 := by
  unfold readWord
  try dsimp only
  exact (by (try dsimp only); first | (split; exact (snd_frame (setLatches_frame (readWhole_frame g0))); exact (ite_snd_frame (snd_frame (setLatches_frame (readWhole_frame g0))) (ite_snd_frame (by (try dsimp only); first | (split; exact (snd_frame (setLatches_frame (readWhole_frame g0))); exact (snd_frame (setLatches_frame (readWhole_frame g0)))) | (split <;> first | exact (snd_frame (setLatches_frame (readWhole_frame g0))))) (snd_frame (setLatches_frame (readWhole_frame g0)))))) | (split <;> first | exact (snd_frame (setLatches_frame (readWhole_frame g0))) | exact (ite_snd_frame (snd_frame (setLatches_frame (readWhole_frame g0))) (ite_snd_frame (by (try dsimp only); first | (split; exact (snd_frame (setLatches_frame (readWhole_frame g0))); exact (snd_frame (setLatches_frame (readWhole_frame g0)))) | (split <;> first | exact (snd_frame (setLatches_frame (readWhole_frame g0))))) (snd_frame (setLatches_frame (readWhole_frame g0)))))))

theorem busRead_frame {m a a0 a1 a2 a3} (g0 : Leaves m a a3) (hm : FieldsIn 0x100000010000000020000000e m := by first | assumption | exact FieldsIn.of (by assumption) (by decide) | exact FieldsIn.refl _) : Leaves m a (busRead a0 a1 a2 a3).2 := by
  unfold busRead
  try dsimp only
  exact (by (try dsimp only); first | (split; exact (ite_snd_frame (readWord_frame g0) (snd_frame (addObj_frame g0))); exact (snd_frame g0); exact (snd_frame g0); exact (snd_frame (useFree_frame g0)); exact (snd_frame g0); exact (snd_frame g0)) | (split <;> first | exact (ite_snd_frame (readWord_frame g0) (snd_frame (addObj_frame g0))) | exact (snd_frame g0) | exact (snd_frame (useFree_frame g0))))

theorem absentObject_frame {m a a0 a1 a2 a3} (g0 : Leaves m a a3) (hm : FieldsIn 0xd m := by first | assumption | exact FieldsIn.of (by assumption) (by decide) | exact FieldsIn.refl _) : Leaves m a (absentObject a0 a1 a2 a3) := by
  unfold absentObject
  try dsimp only
  exact (ite_frame (emit_frame (addObj_frame g0)) (ite_frame (absentRead_frame g0) (addObj_frame g0)))

theorem wHistory_frame {m a a0 a1 a2 a3} (g0 : Leaves m a a3) (hm : FieldsIn 0x800000300000000000000004000004 m := by first | assumption | exact FieldsIn.of (by assumption) (by decide) | exact FieldsIn.refl _) : Leaves m a (wHistory a0 a1 a2 a3).1 := by
  unfold wHistory
  try dsimp only
  exact (ite_fst_frame (deny_frame g0) (fst_frame (setObj_frame (foldl_frame (fun _ _ h0 => (setObj_frame h0)) (setObj_frame g0)))))

theorem wTpdo_frame {m a a0 a1 a2 a3 a4 a5} (g0 : Leaves m a a5) (hm : FieldsIn 0x800000310000000000000004000004 m := by first | assumption | exact FieldsIn.of (by assumption) (by decide) | exact FieldsIn.refl _) : Leaves m a (wTpdo a0 a1 a2 a3 a4 a5).1 := by
  unfold wTpdo
  try dsimp only
  exact (ite_fst_frame (wPlain_frame g0) (ite_fst_frame (fst_frame (setObj_frame (upd_io_frame g0))) (wPlain_frame g0)))

theorem wTpdoMap_frame {m a a0 a1 a2 a3 a4 a5} (g0 : Leaves m a a5) (hm : FieldsIn 0x800000300000000000000004000004 m := by first | assumption | exact FieldsIn.of (by assumption) (by decide) | exact FieldsIn.refl _) : Leaves m a (wTpdoMap a0 a1 a2 a3 a4 a5).1 := by
  unfold wTpdoMap
  try dsimp only
  exact (ite_fst_frame (ite_fst_frame (deny_frame g0) (ite_fst_frame (deny_frame g0) (ite_fst_frame (fst_frame (setObj_frame g0)) (deny_frame g0)))) (ite_fst_frame (fst_frame (setObj_frame g0)) (deny_frame g0)))

theorem writeComm_frame {m a a0 a1 a2 a3 a4 a5 a6} (g0 : Leaves m a a6) (hm : FieldsIn 0x800000310000000000000004000004 m := by first | assumption | exact FieldsIn.of (by assumption) (by decide) | exact FieldsIn.refl _) : Leaves m a (writeComm a0 a1 a2 a3 a4 a5 a6).1 := by
  unfold writeComm
  try dsimp only
  exact (ite_fst_frame (wHistory_frame g0) (ite_fst_frame (wHeartbeat_frame g0) (ite_fst_frame (wTpdo_frame g0) (ite_fst_frame (wTpdoMap_frame g0) (wPlain_frame g0)))))

theorem wCistern_frame {m a a0 a1 a2 a3 a4} (g0 : Leaves m a a4) (hm : FieldsIn 0x80000032000009fde1800004000005 m := by first | assumption | exact FieldsIn.of (by assumption) (by decide) | exact FieldsIn.refl _) : Leaves m a (wCistern a0 a1 a2 a3 a4).1 := by
  unfold wCistern
  try dsimp only
  exact (ite_fst_frame (wMargin_frame g0) (ite_fst_frame (wPlain_frame g0) (ite_fst_frame (wPlain_frame g0) (ite_fst_frame (wMigrate_frame g0) (ite_fst_frame (wRetireStack_frame g0) (ite_fst_frame (wPlain_frame g0) (wPlain_frame g0)))))))

theorem wDet_frame {m a a0 a1 a2 a3 a4} (g0 : Leaves m a a4) (hm : FieldsIn 0x800000300000000000000004000004 m := by first | assumption | exact FieldsIn.of (by assumption) (by decide) | exact FieldsIn.refl _) : Leaves m a (wDet a0 a1 a2 a3 a4).1 := by
  unfold wDet
  try dsimp only
  exact (ite_fst_frame (wPlain_frame g0) (ite_fst_frame (wPlain_frame g0) (ite_fst_frame (wPlain_frame g0) (wPlain_frame g0))))

theorem wEngine_frame {m a a0 a1 a2 a3 a4 a5 a6 a7} (g0 : Leaves m a a7) (hm : FieldsIn 0x890600300063840021800004000004 m := by first | assumption | exact FieldsIn.of (by assumption) (by decide) | exact FieldsIn.refl _) : Leaves m a (wEngine a0 a1 a2 a3 a4 a5 a6 a7).1 := by
  unfold wEngine
  try dsimp only
  exact (ite_fst_frame (wBinding_frame g0) (ite_fst_frame (wTail_frame g0) (ite_fst_frame (wCmdCursor_frame g0) (ite_fst_frame (wCmdData_frame g0) (ite_fst_frame (wPlain_frame g0) (fst_frame g0))))))

theorem wFabric_frame {m a a0 a1 a2 a3 a4} (g0 : Leaves m a a4) (hm : FieldsIn 0x80000030000004000c020004000006 m := by first | assumption | exact FieldsIn.of (by assumption) (by decide) | exact FieldsIn.refl _) : Leaves m a (wFabric a0 a1 a2 a3 a4).1 := by
  unfold wFabric
  try dsimp only
  exact (ite_fst_frame (wPlain_frame g0) (ite_fst_frame (ite_fst_frame (fst_frame (useFree_frame (wLoadCommand_frame g0))) (wLoadCommand_frame g0)) (ite_fst_frame (wPlain_frame g0) (ite_fst_frame (wPlain_frame g0) (wPlain_frame g0)))))

theorem wLoan_frame {m a a0 a1 a2 a3 a4 a5} (g0 : Leaves m a a5) (hm : FieldsIn 0x8000003000000c0021800004000004 m := by first | assumption | exact FieldsIn.of (by assumption) (by decide) | exact FieldsIn.refl _) : Leaves m a (wLoan a0 a1 a2 a3 a4 a5).1 := by
  unfold wLoan
  try dsimp only
  exact (ite_fst_frame (wLoanCommand_frame g0) (ite_fst_frame (wPlain_frame g0) (ite_fst_frame (wPlain_frame g0) (ite_fst_frame (wPlain_frame g0) (wPlain_frame g0)))))

theorem wPartition_frame {m a a0 a1 a2 a3 a4 a5} (g0 : Leaves m a a5) (hm : FieldsIn 0x8800003000000c0021a00004000004 m := by first | assumption | exact FieldsIn.of (by assumption) (by decide) | exact FieldsIn.refl _) : Leaves m a (wPartition a0 a1 a2 a3 a4 a5).1 := by
  unfold wPartition
  try dsimp only
  exact (ite_fst_frame (wPartitionCommand_frame g0) (ite_fst_frame (wPlain_frame g0) (ite_fst_frame (wPlain_frame g0) (wPlain_frame g0))))

theorem wRegion_frame {m a a0 a1 a2 a3 a4} (g0 : Leaves m a a4) (hm : FieldsIn 0x8000003200000101c0000004000005 m := by first | assumption | exact FieldsIn.of (by assumption) (by decide) | exact FieldsIn.refl _) : Leaves m a (wRegion a0 a1 a2 a3 a4).1 := by
  unfold wRegion
  try dsimp only
  exact (ite_fst_frame (wSpan_frame g0) (ite_fst_frame (wReserve_frame g0) (wPlacement_frame g0)))

theorem wReplay_frame {m a a0 a1 a2 a3 a4 a5} (g0 : Leaves m a a5) (hm : FieldsIn 0x900000300000000000000004000004 m := by first | assumption | exact FieldsIn.of (by assumption) (by decide) | exact FieldsIn.refl _) : Leaves m a (wReplay a0 a1 a2 a3 a4 a5).1 := by
  unfold wReplay
  try dsimp only
  exact (ite_fst_frame (wPlain_frame (noteHold_frame g0)) (ite_fst_frame (wPlain_frame g0) (wPlain_frame (noteHold_frame g0))))

theorem wSyncWindow_frame {m a a0 a1 a2 a3 a4} (g0 : Leaves m a a4) (hm : FieldsIn 0x890000300009840000000004000004 m := by first | assumption | exact FieldsIn.of (by assumption) (by decide) | exact FieldsIn.refl _) : Leaves m a (wSyncWindow a0 a1 a2 a3 a4).1 := by
  unfold wSyncWindow
  try dsimp only
  exact (ite_fst_frame (wSync_frame g0) (ite_fst_frame (wSync_frame g0) (ite_fst_frame (wSyncFill_frame g0) (ite_fst_frame (deny_frame g0) (wSyncPlain_frame g0)))))

theorem wTile_frame {m a a0 a1 a2 a3 a4 a5} (g0 : Leaves m a a5) (hm : FieldsIn 0x890600300063840021800004000004 m := by first | assumption | exact FieldsIn.of (by assumption) (by decide) | exact FieldsIn.refl _) : Leaves m a (wTile a0 a1 a2 a3 a4 a5).1 := by
  unfold wTile
  try dsimp only
  exact (ite_fst_frame (wBankOwner_frame g0) (ite_fst_frame (wBankValid_frame g0) (ite_fst_frame (wPlain_frame g0) (wEngine_frame g0))))

theorem writeCompute_frame {m a a0 a1 a2 a3 a4 a5 a6} (g0 : Leaves m a a6) (hm : FieldsIn 0x9906003207fb8dfdeda20004000007 m := by first | assumption | exact FieldsIn.of (by assumption) (by decide) | exact FieldsIn.refl _) : Leaves m a (writeCompute a0 a1 a2 a3 a4 a5 a6).1 := by
  unfold writeCompute
  try dsimp only
  exact (ite_fst_frame (ite_fst_frame (fst_frame (setObj_frame g0)) (fst_frame (setObj_frame g0))) (ite_fst_frame (wTile_frame g0) (ite_fst_frame (wEngine_frame g0) (ite_fst_frame (wEngine_frame g0) (ite_fst_frame (wEngine_frame g0) (ite_fst_frame (wFabric_frame g0) (ite_fst_frame (wCistern_frame g0) (ite_fst_frame (wRegion_frame g0) (ite_fst_frame (wSeq_frame g0) (ite_fst_frame (wPartition_frame g0) (ite_fst_frame (wLoan_frame g0) (ite_fst_frame (wAcct_frame g0) (ite_fst_frame (wPlain_frame g0) (ite_fst_frame (wSyncWindow_frame g0) (ite_fst_frame (ite_fst_frame (wHostWatch_frame g0) (wPlain_frame g0)) (ite_fst_frame (wDet_frame g0) (ite_fst_frame (wReplay_frame g0) (fst_frame g0))))))))))))))))))

theorem wDma_frame {m a a0 a1 a2 a3 a4 a5} (g0 : Leaves m a a5) (hm : FieldsIn 0x800000301800000000000004000004 m := by first | assumption | exact FieldsIn.of (by assumption) (by decide) | exact FieldsIn.refl _) : Leaves m a (wDma a0 a1 a2 a3 a4 a5).1 := by
  unfold wDma
  try dsimp only
  exact (ite_fst_frame (wDmaConfig_frame g0) (ite_fst_frame (wDmaRing_frame g0) (ite_fst_frame (wDmaRing_frame g0) (ite_fst_frame (wDmaPhase_frame g0) (wPlain_frame g0)))))

theorem wFw_frame {m a a0 a1 a2 a3 a4} (g0 : Leaves m a a4) (hm : FieldsIn 0x800000300000000000000374000016 m := by first | assumption | exact FieldsIn.of (by assumption) (by decide) | exact FieldsIn.refl _) : Leaves m a (wFw a0 a1 a2 a3 a4).1 := by
  unfold wFw
  try dsimp only
  exact (ite_fst_frame (wRillKick_frame g0) (ite_fst_frame (ite_fst_frame (fst_frame (useFree_frame (wFwCommand_frame g0))) (wFwCommand_frame g0)) (ite_fst_frame (wPlain_frame g0) (ite_fst_frame (fst_frame (fwDataAccess_frame g0)) (ite_fst_frame (wPlain_frame g0) (ite_fst_frame (wPlain_frame g0) (ite_fst_frame (wPlain_frame g0) (wPlain_frame g0))))))))

theorem wI2c_frame {m a a0 a1 a2 a3 a4} (g0 : Leaves m a a4) (hm : FieldsIn 0x800000320000000000000004000005 m := by first | assumption | exact FieldsIn.of (by assumption) (by decide) | exact FieldsIn.refl _) : Leaves m a (wI2c a0 a1 a2 a3 a4).1 := by
  unfold wI2c
  try dsimp only
  exact (ite_fst_frame (wI2cCommand_frame g0) (ite_fst_frame (wI2cData_frame g0) (ite_fst_frame (wPlain_frame g0) (ite_fst_frame (wPlain_frame g0) (wPlain_frame g0)))))

theorem wImg_frame {m a a0 a1 a2 a3 a4 a5} (g0 : Leaves m a a5) (hm : FieldsIn 0x800000300000000000000004000004 m := by first | assumption | exact FieldsIn.of (by assumption) (by decide) | exact FieldsIn.refl _) : Leaves m a (wImg a0 a1 a2 a3 a4 a5).1 := by
  unfold wImg
  try dsimp only
  exact (ite_fst_frame (wPlain_frame g0) (ite_fst_frame (wPlain_frame g0) (wPlain_frame g0)))

theorem wOverlay_frame {m a a0 a1 a2 a3 a4 a5} (g0 : Leaves m a a5) (hm : FieldsIn 0x800000300000000000000004000004 m := by first | assumption | exact FieldsIn.of (by assumption) (by decide) | exact FieldsIn.refl _) : Leaves m a (wOverlay a0 a1 a2 a3 a4 a5).1 := by
  unfold wOverlay
  try dsimp only
  exact (ite_fst_frame (wPlain_frame g0) (ite_fst_frame (wPlain_frame g0) (ite_fst_frame (wPlain_frame g0) (ite_fst_frame (wPlain_frame g0) (ite_fst_frame (wPlain_frame g0) (ite_fst_frame (wPlain_frame g0) (wPlain_frame g0)))))))

theorem wPath_frame {m a a0 a1 a2 a3 a4 a5} (g0 : Leaves m a a5) (hm : FieldsIn 0x800000304000000000000004000004 m := by first | assumption | exact FieldsIn.of (by assumption) (by decide) | exact FieldsIn.refl _) : Leaves m a (wPath a0 a1 a2 a3 a4 a5).1 := by
  unfold wPath
  try dsimp only
  exact (ite_fst_frame (wPassthru_frame g0) (wPlain_frame g0))

theorem wTimeNow_frame {m a a0 a1} (g0 : Leaves m a a1) (hm : FieldsIn 0x800000300000000000000004007e06 m := by first | assumption | exact FieldsIn.of (by assumption) (by decide) | exact FieldsIn.refl _) : Leaves m a (wTimeNow a0 a1).1 := by
  unfold wTimeNow
  try dsimp only
  exact (by (try dsimp only); first | (split; exact (ppsMeasure_frame (capture_frame (restampCaptures_frame (addObj_frame (setObj_frame (upd_clk_frame g0)))))); exact (capture_frame (restampCaptures_frame (addObj_frame (setObj_frame (upd_clk_frame g0)))))) | (split <;> first | exact (ppsMeasure_frame (capture_frame (restampCaptures_frame (addObj_frame (setObj_frame (upd_clk_frame g0)))))) | exact (capture_frame (restampCaptures_frame (addObj_frame (setObj_frame (upd_clk_frame g0)))))))

theorem wTime_frame {m a a0 a1 a2 a3 a4} (g0 : Leaves m a a4) (hm : FieldsIn 0x800000300000000000000004007e06 m := by first | assumption | exact FieldsIn.of (by assumption) (by decide) | exact FieldsIn.refl _) : Leaves m a (wTime a0 a1 a2 a3 a4).1 := by
  unfold wTime
  try dsimp only
  exact (ite_fst_frame (wTimeNow_frame g0) (ite_fst_frame (wPpsEnable_frame g0) (ite_fst_frame (wPlain_frame g0) (wPlain_frame g0))))

theorem writeInterface_frame {m a a0 a1 a2 a3 a4 a5 a6} (g0 : Leaves m a a6) (hm : FieldsIn 0x8000cefe5800000000005374007e17 m := by first | assumption | exact FieldsIn.of (by assumption) (by decide) | exact FieldsIn.refl _) : Leaves m a (writeInterface a0 a1 a2 a3 a4 a5 a6).1 := by
  unfold writeInterface
  try dsimp only
  exact (ite_fst_frame (wRaster_frame g0) (ite_fst_frame (wMutePorts_frame g0) (ite_fst_frame (wPlain_frame g0) (ite_fst_frame (wAudio_frame g0) (ite_fst_frame (wOverlay_frame g0) (ite_fst_frame (wPlain_frame g0) (ite_fst_frame (wPlain_frame g0) (ite_fst_frame (wI2c_frame g0) (ite_fst_frame (wGpio_frame g0) (ite_fst_frame (wPinmux_frame g0) (ite_fst_frame (wPinmux_frame g0) (ite_fst_frame (wDma_frame g0) (ite_fst_frame (wPlain_frame g0) (ite_fst_frame (wFw_frame g0) (ite_fst_frame (wPath_frame g0) (ite_fst_frame (wImg_frame g0) (ite_fst_frame (wEnv_frame g0) (ite_fst_frame (ite_fst_frame (wPlain_frame g0) (wGenlockSlew_frame g0)) (ite_fst_frame (wTime_frame g0) (ite_fst_frame (wStep_frame g0) (ite_fst_frame (wBring_frame g0) (ite_fst_frame (wDefects_frame g0) (ite_fst_frame (ite_fst_frame (wAlmanacCommand_frame g0) (ite_fst_frame (wPlain_frame g0) (wPlain_frame g0))) (ite_fst_frame (wPerfCommand_frame g0) (ite_fst_frame (ite_fst_frame (wPerfEvent_frame g0) (fst_frame (perfLoad_frame g0))) (fst_frame g0))))))))))))))))))))))))))

theorem writeOf_frame {m a a0 a1 a2 a3 a4 a5 a6} (g0 : Leaves m a a6) (hm : FieldsIn 0x9906ceff5ffb8dfdeda25374007e17 m := by first | assumption | exact FieldsIn.of (by assumption) (by decide) | exact FieldsIn.refl _) : Leaves m a (writeOf a0 a1 a2 a3 a4 a5 a6).1 := by
  unfold writeOf
  try dsimp only
  exact (ite_fst_frame (writeComm_frame g0) (ite_fst_frame (writeCompute_frame g0) (writeInterface_frame g0)))

theorem writeWord_frame {m a a0 a1 a2 a3 a4} (g0 : Leaves m a a4) (hm : FieldsIn 0x9906ceff5ffb8dfdeda25374007e1f m := by first | assumption | exact FieldsIn.of (by assumption) (by decide) | exact FieldsIn.refl _) : Leaves m a (writeWord a0 a1 a2 a3 a4).1 := by
  unfold writeWord
  try dsimp only
  exact (by (try dsimp only); first | (split; exact (fst_frame g0); exact (by (try dsimp only); first | (split; exact (fst_frame g0); exact (ite_fst_frame (fst_frame g0) (ite_fst_frame (ite_fst_frame (writeHigh_frame (fun _ _ h0 => (writeOf_frame h0)) g0) (writeLow_frame g0)) (writeOf_frame g0)))) | (split <;> first | exact (fst_frame g0) | exact (ite_fst_frame (fst_frame g0) (ite_fst_frame (ite_fst_frame (writeHigh_frame (fun _ _ h0 => (writeOf_frame h0)) g0) (writeLow_frame g0)) (writeOf_frame g0)))))) | (split <;> first | exact (fst_frame g0) | exact (by (try dsimp only); first | (split; exact (fst_frame g0); exact (ite_fst_frame (fst_frame g0) (ite_fst_frame (ite_fst_frame (writeHigh_frame (fun _ _ h0 => (writeOf_frame h0)) g0) (writeLow_frame g0)) (writeOf_frame g0)))) | (split <;> first | exact (fst_frame g0) | exact (ite_fst_frame (fst_frame g0) (ite_fst_frame (ite_fst_frame (writeHigh_frame (fun _ _ h0 => (writeOf_frame h0)) g0) (writeLow_frame g0)) (writeOf_frame g0)))))))

theorem writeObject_frame {m a a0 a1 a2 a3 a4} (g0 : Leaves m a a4) (hm : FieldsIn 0x9906ceff5ffb8dfdeda25374007e1f m := by first | assumption | exact FieldsIn.of (by assumption) (by decide) | exact FieldsIn.refl _) : Leaves m a (writeObject a0 a1 a2 a3 a4) := by
  unfold writeObject
  try dsimp only
  exact (ite_frame (ackWrite_frame (writeWord_frame g0)) (absentObject_frame g0))

theorem busWrite_frame {m a a0 a1 a2 a3 a4} (g0 : Leaves m a a4) (hm : FieldsIn 0x9906cefffffb8dfdeda25374007e1f m := by first | assumption | exact FieldsIn.of (by assumption) (by decide) | exact FieldsIn.refl _) : Leaves m a (busWrite a0 a1 a2 a3 a4) := by
  unfold busWrite
  try dsimp only
  exact (by (try dsimp only); first | (split; exact (writeObject_frame g0); exact (writeMsixWord_frame g0); exact g0; exact g0; exact g0; exact g0) | (split <;> first | exact (writeObject_frame g0) | exact (writeMsixWord_frame g0) | exact g0))

theorem busAccess_frame {m a a0 a1 a2 a3 a4} (g0 : Leaves m a a4) (hm : FieldsIn 0x9906cfffffff9dfdeda25374007e1f m := by first | assumption | exact FieldsIn.of (by assumption) (by decide) | exact FieldsIn.refl _) : Leaves m a (busAccess a0 a1 a2 a3 a4) := by
  unfold busAccess
  try dsimp only
  exact (by (try dsimp only); first | (split; exact (apertureAccess_frame g0); exact (by (try dsimp only); first | (split; exact (ite_frame (answer_frame g0) (ite_frame (readSyncData_frame g0) (ite_frame (busAnswer_frame (busRead_frame g0)) (busAnswer_frame (busRead_frame (busRead_frame g0)))))); exact (ite_frame g0 (ite_frame (busWrite_frame g0) (busWrite_frame (busWrite_frame g0))))) | (split <;> first | exact (ite_frame (answer_frame g0) (ite_frame (readSyncData_frame g0) (ite_frame (busAnswer_frame (busRead_frame g0)) (busAnswer_frame (busRead_frame (busRead_frame g0)))))) | exact (ite_frame g0 (ite_frame (busWrite_frame g0) (busWrite_frame (busWrite_frame g0))))))) | (split <;> first | exact (apertureAccess_frame g0) | exact (by (try dsimp only); first | (split; exact (ite_frame (answer_frame g0) (ite_frame (readSyncData_frame g0) (ite_frame (busAnswer_frame (busRead_frame g0)) (busAnswer_frame (busRead_frame (busRead_frame g0)))))); exact (ite_frame g0 (ite_frame (busWrite_frame g0) (busWrite_frame (busWrite_frame g0))))) | (split <;> first | exact (ite_frame (answer_frame g0) (ite_frame (readSyncData_frame g0) (ite_frame (busAnswer_frame (busRead_frame g0)) (busAnswer_frame (busRead_frame (busRead_frame g0)))))) | exact (ite_frame g0 (ite_frame (busWrite_frame g0) (busWrite_frame (busWrite_frame g0))))))))

theorem execObjectWrite_frame {m a a0 a1 a2 a3 a4} (g0 : Leaves m a a4) (hm : FieldsIn 0x9906cfffffff9dfdeda25374007e1f m := by first | assumption | exact FieldsIn.of (by assumption) (by decide) | exact FieldsIn.refl _) : LeavesOut m a (execObjectWrite a0 a1 a2 a3 a4) := by
  unfold execObjectWrite
  try dsimp only
  exact (whenFree_frame g0 (fun _ h0 => (by (try dsimp only); split <;> first | exact (writeObject_frame h0) | exact (busAccess_frame h0))))

theorem execLowHalfWrite_frame {m a a0 a1 a2 a3 a4} (g0 : Leaves m a a4) (hm : FieldsIn 0x9906ceff5fff8dfdeda25374007e1f m := by first | assumption | exact FieldsIn.of (by assumption) (by decide) | exact FieldsIn.refl _) : LeavesOut m a (execLowHalfWrite a0 a1 a2 a3 a4) := by
  unfold execLowHalfWrite
  try dsimp only
  exact (whenFree_frame g0 (fun _ h0 => (ite_frame (writeObject_frame h0) h0)))

theorem execHighHalfWrite_frame {m a a0 a1 a2 a3 a4} (g0 : Leaves m a a4) (hm : FieldsIn 0x9906ceff5fff8dfdeda25374007e1f m := by first | assumption | exact FieldsIn.of (by assumption) (by decide) | exact FieldsIn.refl _) : LeavesOut m a (execHighHalfWrite a0 a1 a2 a3 a4) := by
  unfold execHighHalfWrite
  try dsimp only
  exact (whenFree_frame g0 (fun _ h0 => (ite_frame (writeObject_frame h0) h0)))

theorem execLowHalfRead_frame {m a a0 a1 a2 a3} (g0 : Leaves m a a3) (hm : FieldsIn 0x100000410000000020000000f m := by first | assumption | exact FieldsIn.of (by assumption) (by decide) | exact FieldsIn.refl _) : LeavesOut m a (execLowHalfRead a0 a1 a2 a3) := by
  unfold execLowHalfRead
  try dsimp only
  exact (whenFree_frame g0 (fun _ h0 => (ite_frame (ite_frame (emit_frame (readWord_frame h0)) (absentObject_frame h0)) h0)))

theorem execAbsentAccess_frame {m a a0 a1 a2 a3 a4} (g0 : Leaves m a a4) (hm : FieldsIn 0x400000000000000000d m := by first | assumption | exact FieldsIn.of (by assumption) (by decide) | exact FieldsIn.refl _) : LeavesOut m a (execAbsentAccess a0 a1 a2 a3 a4) := by
  unfold execAbsentAccess
  try dsimp only
  exact (whenFree_frame g0 (fun _ h0 => (ite_frame h0 (absentObject_frame h0))))

theorem updCan_frame {m a a0 a1} (g0 : Leaves m a a1) (hm : FieldsIn 0x10000000000000000000000 m := by first | assumption | exact FieldsIn.of (by assumption) (by decide) | exact FieldsIn.refl _) : Leaves m a (updCan a0 a1) := by
  unfold updCan
  try dsimp only
  exact (upd_io_frame g0)

theorem sendTpdo_frame {m a a0 a1} (g0 : Leaves m a a1) (hm : FieldsIn 0x10000000000000000000003 m := by first | assumption | exact FieldsIn.of (by assumption) (by decide) | exact FieldsIn.refl _) : Leaves m a (sendTpdo a0 a1) := by
  unfold sendTpdo
  try dsimp only
  exact (emit_frame (useFree_frame (updCan_frame g0)))

theorem syncTpdo_frame {m a a0 a1} (g0 : Leaves m a a1) (hm : FieldsIn 0x10000000000000000000003 m := by first | assumption | exact FieldsIn.of (by assumption) (by decide) | exact FieldsIn.refl _) : Leaves m a (syncTpdo a0 a1) := by
  unfold syncTpdo
  try dsimp only
  exact (ite_frame (ite_frame (sendTpdo_frame g0) (updCan_frame g0)) g0)

theorem execSyncMessage_frame {m a a0 a1} (g0 : Leaves m a a1) (hm : FieldsIn 0x10000000000000000000003 m := by first | assumption | exact FieldsIn.of (by assumption) (by decide) | exact FieldsIn.refl _) : LeavesOut m a (execSyncMessage a0 a1) := by
  unfold execSyncMessage
  try dsimp only
  exact (whenLive_frame g0 (fun _ h0 => (ite_frame (foldl_frame (fun _ _ h1 => (syncTpdo_frame h1)) h0) h0)))

theorem usdoReply_frame {m a a0 a1 a2} (g0 : Leaves m a a2) (hm : FieldsIn 0x1 m := by first | assumption | exact FieldsIn.of (by assumption) (by decide) | exact FieldsIn.refl _) : Leaves m a (usdoReply a0 a1 a2) := by
  unfold usdoReply
  try dsimp only
  exact (by (try dsimp only); first | (split; exact (emit_frame g0); exact (ite_frame (emit_frame g0) (emit_frame g0)); exact (emit_frame g0)) | (split <;> first | exact (emit_frame g0) | exact (ite_frame (emit_frame g0) (emit_frame g0))))

theorem execNmtResetCommunication_frame {m a a0} (g0 : Leaves m a a0) (hm : FieldsIn 0x10000000000000000000005 m := by first | assumption | exact FieldsIn.of (by assumption) (by decide) | exact FieldsIn.refl _) : LeavesOut m a (execNmtResetCommunication a0) := by
  unfold execNmtResetCommunication
  try dsimp only
  exact (whenLive_frame g0 (fun _ h0 => (ite_frame (canReset_frame h0) h0)))

theorem execNmtStop_frame {m a a0} (g0 : Leaves m a a0) (hm : FieldsIn 0x10000000000000000000000 m := by first | assumption | exact FieldsIn.of (by assumption) (by decide) | exact FieldsIn.refl _) : LeavesOut m a (execNmtStop a0) := by
  unfold execNmtStop
  try dsimp only
  exact (whenLive_frame g0 (fun _ h0 => (ite_frame (updCan_frame h0) h0)))

theorem uploadWords_frame {m a a0 a1 a2 a3 a4} (g0 : Leaves m a a4) (hm : FieldsIn 0x100000010000000020000000e m := by first | assumption | exact FieldsIn.of (by assumption) (by decide) | exact FieldsIn.refl _) : Leaves m a (uploadWords a0 a1 a2 a3 a4).2 := by
  induction a3 generalizing a4 with
  | zero => exact g0
  | succ n ih => exact ih (readWord_frame g0)

theorem usdoRead_frame {m a a0 a1 a2 a3} (g0 : Leaves m a a3) (hm : FieldsIn 0x100000410000000020000000f m := by first | assumption | exact FieldsIn.of (by assumption) (by decide) | exact FieldsIn.refl _) : Leaves m a (usdoRead a0 a1 a2 a3) := by
  unfold usdoRead
  try dsimp only
  exact (ite_frame (absentObject_frame g0) (ite_frame (emit_frame g0) (ite_frame (readSyncData_frame g0) (emit_frame (uploadWords_frame g0)))))

theorem execHeartbeatTimer_frame {m a a0} (g0 : Leaves m a a0) (hm : FieldsIn 0x10000000000000000000001 m := by first | assumption | exact FieldsIn.of (by assumption) (by decide) | exact FieldsIn.refl _) : LeavesOut m a (execHeartbeatTimer a0) := by
  unfold execHeartbeatTimer
  try dsimp only
  exact (whenLive_frame g0 (fun _ h0 => (ite_frame (emit_frame (updCan_frame h0)) h0)))

theorem execNmtPreOperational_frame {m a a0} (g0 : Leaves m a a0) (hm : FieldsIn 0x10000000000000000000000 m := by first | assumption | exact FieldsIn.of (by assumption) (by decide) | exact FieldsIn.refl _) : LeavesOut m a (execNmtPreOperational a0) := by
  unfold execNmtPreOperational
  try dsimp only
  exact (whenLive_frame g0 (fun _ h0 => (ite_frame (updCan_frame h0) h0)))

theorem execNmtResetNode_frame {m a a0} (g0 : Leaves m a a0) (hm : FieldsIn 0x10000000000000000000005 m := by first | assumption | exact FieldsIn.of (by assumption) (by decide) | exact FieldsIn.refl _) : LeavesOut m a (execNmtResetNode a0) := by
  unfold execNmtResetNode
  try dsimp only
  exact (whenLive_frame g0 (fun _ h0 => (ite_frame (canReset_frame h0) h0)))

theorem execUsdoUpload_frame {m a a0 a1 a2 a3} (g0 : Leaves m a a3) (hm : FieldsIn 0x100000410000000020000000f m := by first | assumption | exact FieldsIn.of (by assumption) (by decide) | exact FieldsIn.refl _) : LeavesOut m a (execUsdoUpload a0 a1 a2 a3) := by
  unfold execUsdoUpload
  try dsimp only
  exact (whenLive_frame g0 (fun _ h0 => (ite_frame (usdoRead_frame h0) h0)))

theorem nmtOperational_frame {m a a0} (g0 : Leaves m a a0) (hm : FieldsIn 0x10000000000000000000000 m := by first | assumption | exact FieldsIn.of (by assumption) (by decide) | exact FieldsIn.refl _) : Leaves m a (nmtOperational a0) := by
  unfold nmtOperational
  try dsimp only
  exact (ite_frame g0 (updCan_frame g0))

theorem downloadWords_frame {m a a0 a1 a2 a3} (g0 : Leaves m a a3) (hm : FieldsIn 0x9906ceff5ffb8dfdeda25374007e1f m := by first | assumption | exact FieldsIn.of (by assumption) (by decide) | exact FieldsIn.refl _) : Leaves m a (downloadWords a0 a1 a2 a3).1 := by
  induction a2 generalizing a3 with
  | nil => exact g0
  | cons v vs ih =>
    have h := ackWrite_frame (a0 := a0 * 256 + a1) (writeWord_frame (a0 := 0) (a1 := a0) (a2 := a1) (a3 := v) g0)
    simp only [downloadWords]
    split
    · exact ih h
    · exact h

theorem usdoWrite_frame {m a a0 a1 a2 a3} (g0 : Leaves m a a3) (hm : FieldsIn 0x9906ceff5ffb8dfdeda25374007e1f m := by first | assumption | exact FieldsIn.of (by assumption) (by decide) | exact FieldsIn.refl _) : Leaves m a (usdoWrite a0 a1 a2 a3) := by
  unfold usdoWrite
  try dsimp only
  exact (ite_frame (absentObject_frame g0) (ite_frame (emit_frame g0) (ite_frame (emit_frame (refuse_frame g0)) (ite_frame (emit_frame (refuse_frame g0)) (usdoReply_frame (downloadWords_frame g0))))))

theorem execCanBusError_frame {m a a0 a1 a2 a3} (g0 : Leaves m a a3) (hm : FieldsIn 0x10000000000000000000004 m := by first | assumption | exact FieldsIn.of (by assumption) (by decide) | exact FieldsIn.refl _) : LeavesOut m a (execCanBusError a0 a1 a2 a3) := by
  unfold execCanBusError
  try dsimp only
  exact (whenLive_frame g0 (fun _ h0 => (ite_frame h0 (setObj_frame (updCan_frame h0)))))

theorem execNmtStart_frame {m a a0} (g0 : Leaves m a a0) (hm : FieldsIn 0x10000000000000000000000 m := by first | assumption | exact FieldsIn.of (by assumption) (by decide) | exact FieldsIn.refl _) : LeavesOut m a (execNmtStart a0) := by
  unfold execNmtStart
  try dsimp only
  exact (whenLive_frame g0 (fun _ h0 => (ite_frame (nmtOperational_frame h0) h0)))

theorem execTpdoEventTimer_frame {m a a0 a1} (g0 : Leaves m a a1) (hm : FieldsIn 0x10000000000000000000003 m := by first | assumption | exact FieldsIn.of (by assumption) (by decide) | exact FieldsIn.refl _) : LeavesOut m a (execTpdoEventTimer a0 a1) := by
  unfold execTpdoEventTimer
  try dsimp only
  exact (whenLive_frame g0 (fun _ h0 => (ite_frame (sendTpdo_frame h0) h0)))

theorem execUsdoDownload_frame {m a a0 a1 a2 a3} (g0 : Leaves m a a3) (hm : FieldsIn 0x9906ceff5ffb8dfdeda25374007e1f m := by first | assumption | exact FieldsIn.of (by assumption) (by decide) | exact FieldsIn.refl _) : LeavesOut m a (execUsdoDownload a0 a1 a2 a3) := by
  unfold execUsdoDownload
  try dsimp only
  exact (whenLive_frame g0 (fun _ h0 => (ite_frame (usdoWrite_frame h0) h0)))

theorem tickFill_frame {m a a0} (g0 : Leaves m a a0) (hm : FieldsIn 0x10000000009800000000000000004 m := by first | assumption | exact FieldsIn.of (by assumption) (by decide) | exact FieldsIn.refl _) : Leaves m a (tickFill a0) := by
  unfold tickFill
  try dsimp only
  exact (by (try dsimp only); first | (split; exact g0; exact (fillSome_frame g0)) | (split <;> first | exact g0 | exact (fillSome_frame g0)))

theorem tickCalendar_frame {m a a0} (g0 : Leaves m a a0) (hm : FieldsIn 0x204 m := by first | assumption | exact FieldsIn.of (by assumption) (by decide) | exact FieldsIn.refl _) : Leaves m a (tickCalendar a0) := by
  unfold tickCalendar
  try dsimp only
  exact (setObj_frame (upd_clk_frame g0))

theorem tickClocks_frame {m a a0} (g0 : Leaves m a a0) (hm : FieldsIn 0x244 m := by first | assumption | exact FieldsIn.of (by assumption) (by decide) | exact FieldsIn.refl _) : Leaves m a (tickClocks a0) := by
  unfold tickClocks
  try dsimp only
  exact (tickCalendar_frame (ite_frame (addObj_frame (ite_frame (addObj_frame (upd_clk_frame g0)) (upd_clk_frame g0))) (ite_frame (addObj_frame (upd_clk_frame g0)) (upd_clk_frame g0))))

theorem tickEmcy_frame {m a a0} (g0 : Leaves m a a0) (hm : FieldsIn 0x10000000000000000000001 m := by first | assumption | exact FieldsIn.of (by assumption) (by decide) | exact FieldsIn.refl _) : Leaves m a (tickEmcy a0) := by
  unfold tickEmcy
  try dsimp only
  exact (by (try dsimp only); first | (split; exact g0; exact (ite_frame (sendEmcy_frame (updCan_frame g0)) g0)) | (split <;> first | exact g0 | exact (ite_frame (sendEmcy_frame (updCan_frame g0)) g0)))

theorem tickLands_frame {m a a0} (g0 : Leaves m a a0) (hm : FieldsIn 0x20000000000000000000001 m := by first | assumption | exact FieldsIn.of (by assumption) (by decide) | exact FieldsIn.refl _) : Leaves m a (tickLands a0) := by
  unfold tickLands
  try dsimp only
  exact (endSwitches_frame (by (try dsimp only); first | (split; exact (ite_frame (refreshPins_frame (upd_io_frame g0)) g0); exact g0) | (split <;> first | exact (ite_frame (refreshPins_frame (upd_io_frame g0)) g0) | exact g0)))

theorem tickPerf_frame {m a a0} (g0 : Leaves m a a0) (hm : FieldsIn 0x40000000000000000000000004 m := by first | assumption | exact FieldsIn.of (by assumption) (by decide) | exact FieldsIn.refl _) : Leaves m a (tickPerf a0) := by
  unfold tickPerf
  try dsimp only
  exact (foldl_frame (fun _ _ h0 => (ite_frame (perfAdd_frame h0) h0)) g0)

theorem tickWaits_frame {m a a0} (g0 : Leaves m a a0) (hm : FieldsIn 0x80000000000000000 m := by first | assumption | exact FieldsIn.of (by assumption) (by decide) | exact FieldsIn.refl _) : Leaves m a (tickWaits a0) := by
  unfold tickWaits
  try dsimp only
  exact (foldl_frame (fun _ _ h0 => (by (try dsimp only); first | (split; exact (chargeWait_frame h0); exact h0) | (split <;> first | exact (chargeWait_frame h0) | exact h0))) g0)

theorem tick_frame {m a a0} (g0 : Leaves m a a0) (hm : FieldsIn 0xffffe0330029a80008000004000245 m := by first | assumption | exact FieldsIn.of (by assumption) (by decide) | exact FieldsIn.refl _) : Leaves m a (tick a0) := by
  unfold tick
  try dsimp only
  exact (tickLands_frame (tickEmcy_frame (tickFill_frame (tickPerf_frame (tickClocks_frame (endWarms_frame (passCycle_frame (tickWaits_frame g0))))))))

end Sys2Proof.Machine
end

