-- ==== Sys2Proof/Laws/Kept.lean ====
section
/-!
SUPPORT. No operation touches the command queue, recalls what was sent, or takes a free value back. One lemma for each operation over the state.
-/

namespace Sys2Proof.Machine

set_option maxRecDepth 10000
set_option linter.unusedTactic false
set_option linter.unusedVariables false

/-- Every next state of an outcome keeps the queue, what was sent and the free values used. -/
def KeptOut (a : State) (o : Out) : Prop := ∀ t, o = .next t → Kept a t

theorem Kept.refl (a : State) : Kept a a := ⟨rfl, ⟨[], rfl⟩, Nat.le_refl _⟩

theorem next_kept {a t : State} (h : Kept a t) : KeptOut a (.next t) := by
  intro u hu; cases hu; exact h

theorem ite_kept {a : State} {c : Prop} [Decidable c] {x y : State} (ha : Kept a x) (hb : Kept a y) : Kept a (if c then x else y) := by
  split <;> assumption

theorem ite_fst_kept {a : State} {β : Type} {c : Prop} [Decidable c] {x y : State × β} (ha : Kept a x.1) (hb : Kept a y.1) :
    Kept a (if c then x else y).1 := by
  split <;> assumption

theorem ite_snd_kept {a : State} {β : Type} {c : Prop} [Decidable c] {x y : β × State} (ha : Kept a x.2) (hb : Kept a y.2) :
    Kept a (if c then x else y).2 := by
  split <;> assumption

theorem foldl_kept {a : State} {α : Type} {f : State → α → State} (hf : ∀ s x, Kept a s → Kept a (f s x)) {l : List α} {s : State}
    (h : Kept a s) : Kept a (l.foldl f s) := by
  induction l generalizing s with
  | nil => exact h
  | cons x l ih => exact ih (hf s x h)

theorem foldl_fst_kept {a : State} {α β : Type} {f : State × β → α → State × β} (hf : ∀ s x, Kept a s.1 → Kept a (f s x).1) {l : List α}
    {s : State × β} (h : Kept a s.1) : Kept a (l.foldl f s).1 := by
  induction l generalizing s with
  | nil => exact h
  | cons x l ih => exact ih (hf s x h)

theorem foldl_snd_kept {a : State} {α β : Type} {f : β × State → α → β × State} (hf : ∀ s x, Kept a s.2 → Kept a (f s x).2) {l : List α}
    {s : β × State} (h : Kept a s.2) : Kept a (l.foldl f s).2 := by
  induction l generalizing s with
  | nil => exact h
  | cons x l ih => exact ih (hf s x h)

/-! ### Updates of one part of the state -/

theorem upd_clk_kept {a s : State} {x : Clocks} (h : Kept a s) : Kept a { s with clk := x } := { h with }
theorem upd_now_kept {a s : State} {x : Now} (h : Kept a s) : Kept a { s with now := x } := { h with }
theorem upd_objs_kept {a s : State} {x : SMap DWord} (h : Kept a s) : Kept a { s with objs := x } := { h with }
theorem upd_latches_kept {a s : State} {x : SMap Latches} (h : Kept a s) : Kept a { s with latches := x } := { h with }
theorem upd_flash_kept {a s : State} {x : Cells} (h : Kept a s) : Kept a { s with flash := x } := { h with }
theorem upd_pw_kept {a s : State} {x : Power} (h : Kept a s) : Kept a { s with pw := x } := { h with }
theorem upd_fw_kept {a s : State} {x : Firmware} (h : Kept a s) : Kept a { s with fw := x } := { h with }
theorem upd_alm_kept {a s : State} {x : Almanac} (h : Kept a s) : Kept a { s with alm := x } := { h with }
theorem upd_fab_kept {a s : State} {x : Fabric} (h : Kept a s) : Kept a { s with fab := x } := { h with }
theorem upd_tl_kept {a s : State} {x : Tiles} (h : Kept a s) : Kept a { s with tl := x } := { h with }
theorem upd_ci_kept {a s : State} {x : Cistern} (h : Kept a s) : Kept a { s with ci := x } := { h with }
theorem upd_pt_kept {a s : State} {x : Parts} (h : Kept a s) : Kept a { s with pt := x } := { h with }
theorem upd_sy_kept {a s : State} {x : SyncStore} (h : Kept a s) : Kept a { s with sy := x } := { h with }
theorem upd_st_kept {a s : State} {x : Streams} (h : Kept a s) : Kept a { s with st := x } := { h with }
theorem upd_io_kept {a s : State} {x : Ports} (h : Kept a s) : Kept a { s with io := x } := { h with }
theorem upd_free_kept {a s : State} {n : Nat} (h : Kept a s) : Kept a { s with free := s.free + n } :=
  { h with free := Nat.le_trans h.free (Nat.le_add_right _ _) }
theorem upd_out_kept {a s : State} {e : Emission} (h : Kept a s) : Kept a { s with out := e :: s.out } :=
  { h with out := by obtain ⟨l, hl⟩ := h.out; exact ⟨e :: l, by simp [hl]⟩ }
theorem upd_many_kept {a s : State} {x1 x2 x3 x4 x5 x6 x7 x8 x9 x10 x11 x12 x13 x14 x15} (h : Kept a s) :
    Kept a { s with clk := x1, objs := x2, latches := x3, flash := x4, pw := x5, fw := x6, alm := x7, fab := x8, tl := x9, ci := x10,
                    pt := x11, sy := x12, st := x13, io := x14, now := x15 } := { h with }
theorem ite_out_kept {a : State} {c : Prop} [Decidable c] {x y : Out} (hx : KeptOut a x) (hy : KeptOut a y) : KeptOut a (if c then x else y) := by
  split <;> assumption
theorem fst_kept {a : State} {β : Type} {s : State} {b : β} (h : Kept a s) : Kept a (s, b).1 := h
theorem snd_kept {a : State} {β : Type} {s : State} {b : β} (h : Kept a s) : Kept a (b, s).2 := h

/-! ### The operations -/

theorem setSlot_kept {a a0 a1 a2 a3 a4} (g0 : Kept a a4) : Kept a (setSlot a0 a1 a2 a3 a4) := by
  unfold setSlot
  try dsimp only
  exact (upd_tl_kept g0)

theorem updSlot_kept {a a0 a1 a2 a3 a4} (g0 : Kept a a4) : Kept a (updSlot a0 a1 a2 a3 a4) := by
  unfold updSlot
  try dsimp only
  exact (setSlot_kept g0)

theorem setFrame_kept {a a0 a1 a2} (g0 : Kept a a2) : Kept a (setFrame a0 a1 a2) := by
  unfold setFrame
  try dsimp only
  exact (upd_tl_kept g0)

theorem freeFrameAt_kept {a a0 a1} (g0 : Kept a a1) : Kept a (freeFrameAt a0 a1) := by
  unfold freeFrameAt
  try dsimp only
  exact (setFrame_kept g0)

theorem dropObjs_kept {a a0 a1} (g0 : Kept a a1) : Kept a (dropObjs a0 a1) := by
  unfold dropObjs
  try dsimp only
  exact (upd_objs_kept g0)

theorem setQueue_kept {a a0 a1 a2 a3} (g0 : Kept a a3) : Kept a (setQueue a0 a1 a2 a3) := by
  unfold setQueue
  try dsimp only
  exact (upd_tl_kept g0)

theorem setObj_kept {a a0 a1 a2} (g0 : Kept a a2) : Kept a (setObj a0 a1 a2) := by
  unfold setObj
  try dsimp only
  exact (upd_objs_kept g0)

theorem perfLoad_kept {a a0 a1 a2} (g0 : Kept a a2) : Kept a (perfLoad a0 a1 a2) := by
  unfold perfLoad
  try dsimp only
  exact (setObj_kept g0)

theorem basicWrite_kept {a a0 a1} (g0 : Kept a a1) : Kept a (basicWrite a0 a1) := by
  unfold basicWrite
  try dsimp only
  exact (dropObjs_kept g0)

theorem addObj_kept {a a0 a1 a2} (g0 : Kept a a2) : Kept a (addObj a0 a1 a2) := by
  unfold addObj
  try dsimp only
  exact (setObj_kept g0)

theorem enterCapture_kept {a a0 a1} (g0 : Kept a a1) : Kept a (enterCapture a0 a1) := by
  unfold enterCapture
  try dsimp only
  exact (upd_many_kept g0)

theorem capture_kept {a a0 a1 a2 a3 a4 a5 a6} (g0 : Kept a a6) : Kept a (capture a0 a1 a2 a3 a4 a5 a6) := by
  unfold capture
  try dsimp only
  exact (ite_kept (enterCapture_kept g0) (upd_many_kept (addObj_kept g0)))

theorem refuse_kept {a a0 a1 a2 a3 a4} (g0 : Kept a a4) : Kept a (refuse a0 a1 a2 a3 a4) := by
  unfold refuse
  try dsimp only
  exact (capture_kept (setObj_kept g0))

theorem expertWrite_kept {a a0 a1} (g0 : Kept a a1) : Kept a (expertWrite a0 a1) := by
  unfold expertWrite
  try dsimp only
  exact (setObj_kept g0)

theorem touch_kept {a a0 a1} (g0 : Kept a a1) : Kept a (touch a0 a1) := by
  unfold touch
  try dsimp only
  exact (ite_kept (expertWrite_kept g0) (basicWrite_kept g0))

theorem ackWrite_kept {a a0 a1} (g0 : Kept a a1.1) : Kept a (ackWrite a0 a1).1 := by
  unfold ackWrite
  try dsimp only
  exact (ite_kept (touch_kept g0) g0)

theorem refuseEngine_kept {a a0 a1 a2 a3 a4} (g0 : Kept a a4) : Kept a (refuseEngine a0 a1 a2 a3 a4) := by
  unfold refuseEngine
  try dsimp only
  exact (capture_kept (setObj_kept g0))

theorem useFree_kept {a a0} (g0 : Kept a a0) : Kept a (useFree a0) := by
  unfold useFree
  try dsimp only
  exact (upd_free_kept g0)

theorem setParked_kept {a a0 a1 a2} (g0 : Kept a a2) : Kept a (setParked a0 a1 a2) := by
  unfold setParked
  try dsimp only
  exact (upd_sy_kept g0)

theorem whenLive_kept {a a0 a1} (g0 : Kept a a0) (g1 : ∀ y0, Kept a y0 → Kept a (a1 y0)) : KeptOut a (whenLive a0 a1) := by
  unfold whenLive
  try dsimp only
  exact (next_kept (ite_kept (g1 _ g0) g0))

theorem whenFree_kept {a a0 a1 a2 a3} (g0 : Kept a a2) (g1 : ∀ y0, Kept a y0 → Kept a (a3 y0)) : KeptOut a (whenFree a0 a1 a2 a3) := by
  unfold whenFree
  try dsimp only
  exact (whenLive_kept g0 (fun _ h0 => (ite_kept h0 (ite_kept (g1 _ h0) (setParked_kept h0)))))

theorem refuseQuiet_kept {a a0 a1 a2} (g0 : Kept a a2) : Kept a (refuseQuiet a0 a1 a2) := by
  unfold refuseQuiet
  try dsimp only
  exact (setObj_kept g0)

theorem restampCaptures_kept {a a0} (g0 : Kept a a0) : Kept a (restampCaptures a0) := by
  unfold restampCaptures
  try dsimp only
  exact (upd_alm_kept g0)

theorem emit_kept {a a0 a1} (g0 : Kept a a1) : Kept a (emit a0 a1) := by
  unfold emit
  try dsimp only
  exact (upd_out_kept g0)

theorem refreshPin_kept {a a0 a1} (g0 : Kept a a1) : Kept a (refreshPin a0 a1) := by
  unfold refreshPin
  try dsimp only
  exact (by (try dsimp only); first | (split; exact (upd_io_kept g0); exact (ite_kept g0 (emit_kept (upd_io_kept g0)))) | (split <;> first | exact (upd_io_kept g0) | exact (ite_kept g0 (emit_kept (upd_io_kept g0)))))

theorem updateActive_kept {a a0} (g0 : Kept a a0) : Kept a (updateActive a0) := by
  unfold updateActive
  try dsimp only
  exact (ite_kept g0 (setObj_kept (upd_pt_kept g0)))

theorem settleFlips_kept {a a0} (g0 : Kept a a0) : Kept a (settleFlips a0) := by
  unfold settleFlips
  try dsimp only
  exact (foldl_kept (fun _ _ h0 => (by (try dsimp only); first | (split; exact h0; exact (ite_kept (freeFrameAt_kept h0) h0)) | (split <;> first | exact h0 | exact (ite_kept (freeFrameAt_kept h0) h0)))) g0)

theorem passCycle_kept {a a0} (g0 : Kept a a0) : Kept a (passCycle a0) := by
  unfold passCycle
  try dsimp only
  exact (updateActive_kept (upd_now_kept (settleFlips_kept g0)))

theorem satAddObj_kept {a a0 a1 a2} (g0 : Kept a a2) : Kept a (satAddObj a0 a1 a2) := by
  unfold satAddObj
  try dsimp only
  exact (setObj_kept g0)

theorem setPcie_kept {a a0 a1 a2} (g0 : Kept a a2) : Kept a (setPcie a0 a1 a2) := by
  unfold setPcie
  try dsimp only
  exact (upd_io_kept g0)

theorem notePosted_kept {a a0 a1} (g0 : Kept a a1) : Kept a (notePosted a0 a1) := by
  unfold notePosted
  try dsimp only
  exact (setPcie_kept g0)

theorem sendMsix_kept {a a0 a1 a2} (g0 : Kept a a2) : Kept a (sendMsix a0 a1 a2) := by
  unfold sendMsix
  try dsimp only
  exact (ite_kept (emit_kept (notePosted_kept g0)) (ite_kept g0 (setPcie_kept g0)))

theorem refreshPins_kept {a a0} (g0 : Kept a a0) : Kept a (refreshPins a0) := by
  unfold refreshPins
  try dsimp only
  exact (foldl_kept (fun _ _ h0 => (refreshPin_kept h0)) g0)

theorem setCisternState_kept {a a0 a1} (g0 : Kept a a1) : Kept a (setCisternState a0 a1) := by
  unfold setCisternState
  try dsimp only
  exact (refreshPins_kept (setObj_kept g0))

theorem noteFlip_kept {a a0 a1 a2 a3} (g0 : Kept a a3) : Kept a (noteFlip a0 a1 a2 a3) := by
  unfold noteFlip
  try dsimp only
  exact (upd_now_kept g0)

theorem setRing_kept {a a0 a1 a2} (g0 : Kept a a2) : Kept a (setRing a0 a1 a2) := by
  unfold setRing
  try dsimp only
  exact (upd_io_kept g0)

theorem perfAdd_kept {a a0 a1 a2} (g0 : Kept a a2) : Kept a (perfAdd a0 a1 a2) := by
  unfold perfAdd
  try dsimp only
  exact (ite_kept g0 (setObj_kept (upd_now_kept g0)))

theorem setWatched_kept {a a0 a1 a2} (g0 : Kept a a2) : Kept a (setWatched a0 a1 a2) := by
  unfold setWatched
  try dsimp only
  exact (upd_st_kept g0)

theorem setPort_kept {a a0 a1 a2} (g0 : Kept a a2) : Kept a (setPort a0 a1 a2) := by
  unfold setPort
  try dsimp only
  exact (upd_io_kept g0)

theorem retireFrame_kept {a a0 a1} (g0 : Kept a a1) : Kept a (retireFrame a0 a1) := by
  unfold retireFrame
  try dsimp only
  exact (setFrame_kept g0)

theorem setLatches_kept {a a0 a1 a2} (g0 : Kept a a2) : Kept a (setLatches a0 a1 a2) := by
  unfold setLatches
  try dsimp only
  exact (upd_latches_kept g0)

theorem answer_kept {a a0 a1 a2} (g0 : Kept a a2) : Kept a (answer a0 a1 a2) := by
  unfold answer
  try dsimp only
  exact (emit_kept (setLatches_kept g0))

theorem absentRead_kept {a a0 a1} (g0 : Kept a a1) : Kept a (absentRead a0 a1) := by
  unfold absentRead
  try dsimp only
  exact (answer_kept (addObj_kept g0))

theorem setPart_kept {a a0 a1 a2} (g0 : Kept a a2) : Kept a (setPart a0 a1 a2) := by
  unfold setPart
  try dsimp only
  exact (upd_pt_kept g0)

theorem dropPage_kept {a a0 a1} (g0 : Kept a a1) : Kept a (dropPage a0 a1) := by
  unfold dropPage
  try dsimp only
  exact (ite_kept (freeFrameAt_kept g0) (retireFrame_kept g0))

theorem setSeq_kept {a a0 a1 a2} (g0 : Kept a a2) : Kept a (setSeq a0 a1 a2) := by
  unfold setSeq
  try dsimp only
  exact (upd_st_kept g0)

theorem updPart_kept {a a0 a1 a2} (g0 : Kept a a2) : Kept a (updPart a0 a1 a2) := by
  unfold updPart
  try dsimp only
  exact (setPart_kept g0)

theorem deferEvent_kept {a a0 a1 a2} (g0 : Kept a a2) : Kept a (deferEvent a0 a1 a2) := by
  unfold deferEvent
  try dsimp only
  exact (updPart_kept (upd_now_kept g0))

theorem unpinFrame_kept {a a0 a1} (g0 : Kept a a1) : Kept a (unpinFrame a0 a1) := by
  unfold unpinFrame
  try dsimp only
  exact (ite_kept (freeFrameAt_kept g0) (setFrame_kept g0))

theorem perfCount_kept {a a0 a1 a2 a3} (g0 : Kept a a3) : Kept a (perfCount a0 a1 a2 a3) := by
  unfold perfCount
  try dsimp only
  exact (foldl_kept (fun _ _ h0 => (ite_kept (perfAdd_kept h0) h0)) g0)

theorem setPageMap_kept {a a0 a1 a2 a3} (g0 : Kept a a3) : Kept a (setPageMap a0 a1 a2 a3) := by
  unfold setPageMap
  try dsimp only
  exact (upd_tl_kept g0)

theorem setField_kept {a a0 a1 a2 a3 a4} (g0 : Kept a a4) : Kept a (setField a0 a1 a2 a3 a4) := by
  unfold setField
  try dsimp only
  exact (setObj_kept g0)

theorem setTag_kept {a a0 a1 a2} (g0 : Kept a a2) : Kept a (setTag a0 a1 a2) := by
  unfold setTag
  try dsimp only
  exact (upd_ci_kept g0)

theorem countLines_kept {a a0 a1 a2 a3} (g0 : Kept a a3) : Kept a (countLines a0 a1 a2 a3) := by
  unfold countLines
  try dsimp only
  exact (ite_kept (ite_kept g0 (perfCount_kept g0)) (perfCount_kept (ite_kept g0 (perfCount_kept g0))))

theorem readMembers_kept {a a0 a1 a2} (g0 : Kept a a2) : Kept a (readMembers a0 a1 a2) := by
  unfold readMembers
  try dsimp only
  exact (foldl_kept (fun _ _ h0 => (ite_kept h0 (countLines_kept h0))) g0)

theorem writeLine_kept {a a0 a1 a2} (g0 : Kept a a2) : Kept a (writeLine a0 a1 a2) := by
  unfold writeLine
  try dsimp only
  exact (ite_kept (ite_kept (upd_ci_kept (readMembers_kept g0)) (countLines_kept g0)) (countLines_kept (ite_kept (upd_ci_kept (readMembers_kept g0)) (countLines_kept g0))))

theorem writeLines_kept {a a0 a1 a2} (g0 : Kept a a2) : Kept a (writeLines a0 a1 a2) := by
  unfold writeLines
  try dsimp only
  exact (ite_kept (foldl_kept (fun _ _ h0 => (writeLine_kept h0)) g0) (countLines_kept (countLines_kept g0)))

theorem readLines_kept {a a0 a1 a2} (g0 : Kept a a2) : Kept a (readLines a0 a1 a2) := by
  unfold readLines
  try dsimp only
  exact (ite_kept (foldl_kept (fun _ _ h0 => (ite_kept (readMembers_kept h0) (countLines_kept h0))) g0) (countLines_kept g0))

theorem copyLines_kept {a a0 a1 a2} (g0 : Kept a a2) : Kept a (copyLines a0 a1 a2) := by
  unfold copyLines
  try dsimp only
  exact (writeLines_kept (readLines_kept g0))

theorem setC_kept {a a0 a1 a2} (g0 : Kept a a2) : Kept a (setC a0 a1 a2) := by
  unfold setC
  try dsimp only
  exact (upd_ci_kept g0)

theorem skipMove_kept {a a0 a1 a2 a3} (g0 : Kept a a3) : Kept a (skipMove a0 a1 a2 a3).2 := by
  unfold skipMove
  try dsimp only
  exact (by (try dsimp only); first | (split; exact (ite_snd_kept (snd_kept (by (try dsimp only); first | (split; exact (setC_kept g0); exact g0) | (split <;> first | exact (setC_kept g0) | exact g0))) (snd_kept g0)); exact (snd_kept g0)) | (split <;> first | exact (ite_snd_kept (snd_kept (by (try dsimp only); first | (split; exact (setC_kept g0); exact g0) | (split <;> first | exact (setC_kept g0) | exact g0))) (snd_kept g0)) | exact (snd_kept g0)))

theorem setVersions_kept {a a0 a1 a2 a3} (g0 : Kept a a3) : Kept a (setVersions a0 a1 a2 a3) := by
  unfold setVersions
  try dsimp only
  exact (upd_ci_kept g0)

theorem undoSwitch_kept {a a0 a1 a2} (g0 : Kept a a2) : Kept a (undoSwitch a0 a1 a2) := by
  unfold undoSwitch
  try dsimp only
  exact (by (try dsimp only); first | (split; exact (upd_now_kept (setC_kept (setC_kept (setVersions_kept g0)))); exact g0) | (split <;> first | exact (upd_now_kept (setC_kept (setC_kept (setVersions_kept g0)))) | exact g0))

theorem skipMoves_kept {a a0 a1 a2} (g0 : Kept a a2) : Kept a (skipMoves a0 a1 a2) := by
  unfold skipMoves
  try dsimp only
  exact (upd_ci_kept (skipMove_kept (upd_ci_kept (skipMove_kept (undoSwitch_kept g0)))))

theorem freeTag_kept {a a0 a1} (g0 : Kept a a1) : Kept a (freeTag a0 a1) := by
  unfold freeTag
  try dsimp only
  exact (upd_ci_kept g0)

theorem freeSlotAt_kept {a a0 a1} (g0 : Kept a a1) : Kept a (freeSlotAt a0 a1) := by
  unfold freeSlotAt
  try dsimp only
  exact (setC_kept (setVersions_kept g0))

theorem retireSlot_kept {a a0 a1 a2 a3} (g0 : Kept a a3) : Kept a (retireSlot a0 a1 a2 a3) := by
  unfold retireSlot
  try dsimp only
  exact (ite_kept (setC_kept g0) g0)

theorem settleEntry_kept {a a0 a1 a2} (g0 : Kept a a2) : Kept a (settleEntry a0 a1 a2) := by
  unfold settleEntry
  try dsimp only
  exact (by (try dsimp only); first | (split; exact g0; exact (freeSlotAt_kept g0); exact (by (try dsimp only); first | (split; exact (retireSlot_kept (setC_kept g0)); exact (setC_kept g0)) | (split <;> first | exact (retireSlot_kept (setC_kept g0)) | exact (setC_kept g0)))) | (split <;> first | exact g0 | exact (freeSlotAt_kept g0) | exact (by (try dsimp only); first | (split; exact (retireSlot_kept (setC_kept g0)); exact (setC_kept g0)) | (split <;> first | exact (retireSlot_kept (setC_kept g0)) | exact (setC_kept g0)))))

theorem settlePage_kept {a a0 a1 a2} (g0 : Kept a a2) : Kept a (settlePage a0 a1 a2) := by
  unfold settlePage
  try dsimp only
  exact (foldl_kept (fun _ _ h0 => (by (try dsimp only); first | (split; exact (ite_kept (ite_kept (freeTag_kept (foldl_kept (fun _ _ h1 => (settleEntry_kept h1)) h0)) (setTag_kept (foldl_kept (fun _ _ h1 => (settleEntry_kept h1)) h0))) h0); exact h0) | (split <;> first | exact (ite_kept (ite_kept (freeTag_kept (foldl_kept (fun _ _ h1 => (settleEntry_kept h1)) h0)) (setTag_kept (foldl_kept (fun _ _ h1 => (settleEntry_kept h1)) h0))) h0) | exact h0))) g0)

theorem pushVersion_kept {a a0 a1 a2 a3 a4} (g0 : Kept a a4) : Kept a (pushVersion a0 a1 a2 a3 a4) := by
  unfold pushVersion
  try dsimp only
  exact (setVersions_kept g0)

theorem commitTag_kept {a a0 a1 a2} (g0 : Kept a a2) : Kept a (commitTag a0 a1 a2) := by
  unfold commitTag
  split
  · exact g0
  · refine upd_ci_kept (setTag_kept (foldl_kept (fun s e h => ?_) g0))
    exact ite_kept (upd_ci_kept (pushVersion_kept h)) (pushVersion_kept h)

theorem shadowFill_kept {a a0 a1 a2} (g0 : Kept a a0) : Kept a (shadowFill a0 a1 a2).2 := by
  unfold shadowFill
  try dsimp only
  exact (by (try dsimp only); first | (split; exact (snd_kept g0); exact (snd_kept (useFree_kept g0))) | (split <;> first | exact (snd_kept g0) | exact (snd_kept (useFree_kept g0))))

theorem unmapRange_kept {a a0 a1 a2 a3 a4} (g0 : Kept a a4) : Kept a (unmapRange a0 a1 a2 a3 a4) := by
  unfold unmapRange
  try dsimp only
  exact (upd_ci_kept (foldl_kept (fun _ _ h0 => (by (try dsimp only); first | (split; exact (upd_ci_kept (retireSlot_kept (pushVersion_kept (settlePage_kept h0)))); exact (settlePage_kept h0)) | (split <;> first | exact (upd_ci_kept (retireSlot_kept (pushVersion_kept (settlePage_kept h0)))) | exact (settlePage_kept h0)))) g0))

theorem ensureShadow_kept {a a0 a1 a2 a3} (g0 : Kept a a3) : ∀ r, ensureShadow a0 a1 a2 a3 = some r → Kept a r.2 := by
  intro r hr
  unfold ensureShadow at hr
  split at hr
  · simp at hr
  · split at hr
    · cases hr; exact g0
    · simp only at hr
      split at hr
      · simp at hr
      · split at hr
        · simp at hr
        · cases hr
          rename_i tag _ _ _ _ _ _ _
          have h1 := skipMoves_kept (a0 := tag.part) (a1 := a2) (settlePage_kept (a0 := tag.part) (a1 := a2) g0)
          exact setTag_kept (setC_kept (shadowFill_kept h1))

theorem setStackState_kept {a a0 a1 a2} (g0 : Kept a a2) : Kept a (setStackState a0 a1 a2) := by
  unfold setStackState
  try dsimp only
  exact (setField_kept g0)

theorem writeShadowSlot_kept {a a0 a1 a2 a3} (g0 : Kept a a3) : Kept a (writeShadowSlot a0 a1 a2 a3) := by
  unfold writeShadowSlot
  try dsimp only
  exact (setC_kept g0)

theorem killTag_kept {a a0 a1} (g0 : Kept a a1) : Kept a (killTag a0 a1) := by
  unfold killTag
  try dsimp only
  exact (by (try dsimp only); first | (split; exact g0; exact (setTag_kept g0)) | (split <;> first | exact g0 | exact (setTag_kept g0)))

theorem settleTag_kept {a a0 a1} (g0 : Kept a a1) : Kept a (settleTag a0 a1) := by
  unfold settleTag
  try dsimp only
  exact (by (try dsimp only); first | (split; exact g0; exact (ite_kept g0 (freeTag_kept (foldl_kept (fun _ _ h0 => (settleEntry_kept h0)) g0)))) | (split <;> first | exact g0 | exact (ite_kept g0 (freeTag_kept (foldl_kept (fun _ _ h0 => (settleEntry_kept h0)) g0)))))

theorem crossLinks_kept {a a0 a1 a2 a3} (g0 : Kept a a3) : Kept a (crossLinks a0 a1 a2 a3) := by
  unfold crossLinks
  try dsimp only
  exact (foldl_kept (fun _ _ h0 => (perfCount_kept h0)) g0)

theorem setLinkState_kept {a a0 a1 a2} (g0 : Kept a a2) : Kept a (setLinkState a0 a1 a2) := by
  unfold setLinkState
  try dsimp only
  exact (setField_kept g0)

theorem haltTile_kept {a a0 a1 a2} (g0 : Kept a a2) : Kept a (haltTile a0 a1 a2) := by
  unfold haltTile
  try dsimp only
  exact (ite_kept g0 (setObj_kept (updPart_kept g0)))

theorem writeFrame_kept {a a0 a1 a2 a3} (g0 : Kept a a3) : Kept a (writeFrame a0 a1 a2 a3) := by
  unfold writeFrame
  try dsimp only
  exact (setFrame_kept g0)

theorem setWeightLoad_kept {a a0 a1 a2} (g0 : Kept a a2) : Kept a (setWeightLoad a0 a1 a2) := by
  unfold setWeightLoad
  try dsimp only
  exact (upd_tl_kept g0)

theorem dropLoad_kept {a a0 a1 a2 a3} (g0 : Kept a a3) : Kept a (dropLoad a0 a1 a2 a3) := by
  unfold dropLoad
  try dsimp only
  exact (ite_kept (setWeightLoad_kept g0) g0)

theorem dropWaiting_kept {a a0 a1 a2 a3} (g0 : Kept a a3) : Kept a (dropWaiting a0 a1 a2 a3) := by
  unfold dropWaiting
  try dsimp only
  exact (dropLoad_kept (ite_kept (setQueue_kept g0) g0))

theorem setNotices_kept {a a0 a1 a2} (g0 : Kept a a2) : Kept a (setNotices a0 a1 a2) := by
  unfold setNotices
  try dsimp only
  exact (upd_sy_kept g0)

theorem dropNotice_kept {a a0 a1 a2} (g0 : Kept a a2) : Kept a (dropNotice a0 a1 a2) := by
  unfold dropNotice
  try dsimp only
  exact (setNotices_kept g0)

theorem execWatchNotification_kept {a a0 a1 a2} (g0 : Kept a a2) : KeptOut a (execWatchNotification a0 a1 a2) := by
  unfold execWatchNotification
  try dsimp only
  exact (whenLive_kept g0 (fun _ h0 => (ite_kept (ite_kept (setQueue_kept (dropNotice_kept h0)) (dropNotice_kept h0)) h0)))

theorem setBank_kept {a a0 a1 a2} (g0 : Kept a a2) : Kept a (setBank a0 a1 a2) := by
  unfold setBank
  try dsimp only
  exact (upd_sy_kept g0)

theorem enterUpdate_kept {a a0 a1} (g0 : Kept a a1) : Kept a (enterUpdate a0 a1) := by
  unfold enterUpdate
  try dsimp only
  exact (setBank_kept (ite_kept (upd_now_kept g0) g0))

theorem sendUpdate_kept {a a0 a1} (g0 : Kept a a1) : Kept a (sendUpdate a0 a1) := by
  unfold sendUpdate
  try dsimp only
  exact (ite_kept (upd_sy_kept g0) (enterUpdate_kept g0))

theorem sendSignal_kept {a a0 a1 a2 a3 a4} (g0 : Kept a a4) : Kept a (sendSignal a0 a1 a2 a3 a4) := by
  unfold sendSignal
  try dsimp only
  exact (ite_kept g0 (sendUpdate_kept g0))

theorem sendCommitSignals_kept {a a0 a1 a2} (g0 : Kept a a2) : Kept a (sendCommitSignals a0 a1 a2) := by
  unfold sendCommitSignals
  try dsimp only
  exact (ite_kept (sendSignal_kept g0) (sendSignal_kept (sendSignal_kept g0)))

theorem setAcct_kept {a a0 a1 a2} (g0 : Kept a a2) : Kept a (setAcct a0 a1 a2) := by
  unfold setAcct
  try dsimp only
  exact (upd_pt_kept g0)

theorem chargeLost_kept {a a0 a1 a2} (g0 : Kept a a2) : Kept a (chargeLost a0 a1 a2) := by
  unfold chargeLost
  try dsimp only
  exact (setAcct_kept g0)

theorem killOne_kept {a a0 a1 a2 a3 a4 a5 a6} (g0 : Kept a a6) : Kept a (killOne a0 a1 a2 a3 a4 a5 a6) := by
  unfold killOne
  try dsimp only
  exact (ite_kept (by (try dsimp only); first | (split; exact (setSlot_kept g0); exact (chargeLost_kept (dropWaiting_kept (setSlot_kept g0)))) | (split <;> first | exact (setSlot_kept g0) | exact (chargeLost_kept (dropWaiting_kept (setSlot_kept g0))))) g0)

theorem startKill_kept {a a0 a1 a2 a3 a4 a5 a6} (g0 : Kept a a6) : Kept a (startKill a0 a1 a2 a3 a4 a5 a6) := by
  unfold startKill
  try dsimp only
  exact (ite_kept (foldl_kept (fun _ _ h0 => (killOne_kept h0)) (killOne_kept g0)) g0)

theorem killPart_kept {a a0 a1} (g0 : Kept a a1) : Kept a (killPart a0 a1) := by
  unfold killPart
  try dsimp only
  exact (foldl_kept (fun _ _ h0 => (foldl_kept (fun _ _ h1 => (startKill_kept h1)) h0)) g0)

theorem startReset_kept {a a0 a1 a2 a3} (g0 : Kept a a3) : Kept a (startReset a0 a1 a2 a3) := by
  unfold startReset
  try dsimp only
  exact (ite_kept (upd_fab_kept (updPart_kept g0)) (killPart_kept (setObj_kept (updPart_kept g0))))

theorem fireHostWatch_kept {a a0 a1} (g0 : Kept a a1) : Kept a (fireHostWatch a0 a1) := by
  unfold fireHostWatch
  try dsimp only
  exact (sendMsix_kept (addObj_kept (setObj_kept (upd_sy_kept g0))))

theorem notifyHosts_kept {a a0 a1} (g0 : Kept a a1) : Kept a (notifyHosts a0 a1) := by
  unfold notifyHosts
  try dsimp only
  exact (foldl_kept (fun _ _ h0 => (by (try dsimp only); first | (split; exact (ite_kept (fireHostWatch_kept h0) h0); exact h0) | (split <;> first | exact (ite_kept (fireHostWatch_kept h0) h0) | exact h0))) g0)

theorem perturb_kept {a a0} (g0 : Kept a a0) : Kept a (perturb a0) := by
  unfold perturb
  try dsimp only
  exact (ite_kept (ite_kept (addObj_kept g0) (capture_kept (upd_pt_kept (addObj_kept g0)))) g0)

theorem requestCommit_kept {a a0 a1 a2 a3} (g0 : Kept a a3) : Kept a (requestCommit a0 a1 a2 a3) := by
  unfold requestCommit
  try dsimp only
  exact (ite_kept (setSlot_kept g0) g0)

theorem execWriteAcknowledgement_kept {a a0 a1 a2 a3} (g0 : Kept a a3) : KeptOut a (execWriteAcknowledgement a0 a1 a2 a3) := by
  unfold execWriteAcknowledgement
  try dsimp only
  exact (whenLive_kept g0 (fun _ h0 => (by (try dsimp only); first | (split; exact (ite_kept (perturb_kept (requestCommit_kept (setSlot_kept h0))) (requestCommit_kept (setSlot_kept h0))); exact h0) | (split <;> first | exact (ite_kept (perturb_kept (requestCommit_kept (setSlot_kept h0))) (requestCommit_kept (setSlot_kept h0))) | exact h0))))

theorem refreshLoad_kept {a a0 a1} (g0 : Kept a a1) : Kept a (refreshLoad a0 a1) := by
  unfold refreshLoad
  try dsimp only
  exact (ite_kept (setWeightLoad_kept g0) g0)

theorem sendProbe_kept {a a0 a1 a2 a3} (g0 : Kept a a3) : Kept a (sendProbe a0 a1 a2 a3) := by
  unfold sendProbe
  try dsimp only
  exact (sendUpdate_kept g0)

theorem armHead_kept {a a0 a1 a2} (g0 : Kept a a2) : Kept a (armHead a0 a1 a2) := by
  unfold armHead
  try dsimp only
  exact (by (try dsimp only); first | (split; exact g0; exact (ite_kept (sendProbe_kept (setQueue_kept g0)) g0)) | (split <;> first | exact g0 | exact (ite_kept (sendProbe_kept (setQueue_kept g0)) g0)))

theorem moveHead_kept {a a0 a1 a2 a3} (g0 : Kept a a3) : Kept a (moveHead a0 a1 a2 a3) := by
  unfold moveHead
  try dsimp only
  exact (ite_kept (armHead_kept (refreshLoad_kept g0)) (armHead_kept (refreshLoad_kept (setQueue_kept (ite_kept (dropNotice_kept g0) g0)))))

theorem settleHead_kept {a a0 a1 a2} (g0 : Kept a a2) : Kept a (settleHead a0 a1 a2) := by
  unfold settleHead
  try dsimp only
  exact (moveHead_kept g0)

theorem advanceCommit_kept {a a0 a1 a2} (g0 : Kept a a2) : Kept a (advanceCommit a0 a1 a2) := by
  unfold advanceCommit
  try dsimp only
  exact (setQueue_kept (foldl_kept (fun _ _ h0 => (updSlot_kept h0)) g0))

theorem doomSlot_kept {a a0 a1 a2 a3} (g0 : Kept a a3) : Kept a (doomSlot a0 a1 a2 a3) := by
  unfold doomSlot
  try dsimp only
  exact (ite_kept g0 (setQueue_kept g0))

theorem chargeWithdrawal_kept {a a0 a1} (g0 : Kept a a1) : Kept a (chargeWithdrawal a0 a1) := by
  unfold chargeWithdrawal
  try dsimp only
  exact (setAcct_kept g0)

theorem withdrawSlot_kept {a a0 a1 a2 a3} (g0 : Kept a a3) : Kept a (withdrawSlot a0 a1 a2 a3) := by
  unfold withdrawSlot
  try dsimp only
  exact (chargeWithdrawal_kept (updPart_kept (dropWaiting_kept (setSlot_kept g0))))

theorem withdrawOrDoom_kept {a a0 a1 a2 a3} (g0 : Kept a a3) : Kept a (withdrawOrDoom a0 a1 a2 a3) := by
  unfold withdrawOrDoom
  try dsimp only
  exact (ite_kept (withdrawSlot_kept g0) (doomSlot_kept g0))

theorem withdrawOne_kept {a a0 a1 a2 a3} (g0 : Kept a a3) : Kept a (withdrawOne a0 a1 a2 a3) := by
  unfold withdrawOne
  try dsimp only
  exact (by (try dsimp only); first | (split; exact (withdrawOrDoom_kept g0); exact (withdrawOrDoom_kept g0); exact (startKill_kept g0); exact (startKill_kept g0); exact (startKill_kept g0); exact g0) | (split <;> first | exact (withdrawOrDoom_kept g0) | exact (startKill_kept g0) | exact g0))

theorem withdrawJob_kept {a a0 a1 a2} (g0 : Kept a a2) : Kept a (withdrawJob a0 a1 a2) := by
  unfold withdrawJob
  try dsimp only
  exact (foldl_kept (fun _ _ h0 => (advanceCommit_kept (settleHead_kept (foldl_kept (fun _ _ h1 => (ite_kept (withdrawOne_kept h1) h1)) h0)))) g0)

theorem setUnit_kept {a a0 a1 a2} (g0 : Kept a a2) : Kept a (setUnit a0 a1 a2) := by
  unfold setUnit
  try dsimp only
  exact (upd_tl_kept g0)

theorem freeUnit_kept {a a0 a1 a2 a3} (g0 : Kept a a3) : Kept a (freeUnit a0 a1 a2 a3) := by
  unfold freeUnit
  try dsimp only
  exact (ite_kept (setUnit_kept g0) g0)

theorem abandonSlot_kept {a a0 a1 a2 a3} (g0 : Kept a a3) : Kept a (abandonSlot a0 a1 a2 a3) := by
  unfold abandonSlot
  try dsimp only
  exact (dropWaiting_kept (updSlot_kept g0))

theorem releasePins_kept {a a0 a1 a2 a3} (g0 : Kept a a3) : Kept a (releasePins a0 a1 a2 a3) := by
  unfold releasePins
  try dsimp only
  exact (updSlot_kept (foldl_kept (fun _ _ h0 => (unpinFrame_kept h0)) g0))

theorem chargeKill_kept {a a0 a1} (g0 : Kept a a1) : Kept a (chargeKill a0 a1) := by
  unfold chargeKill
  try dsimp only
  exact (setAcct_kept g0)

theorem releaseShadows_kept {a a0 a1 a2 a3} (g0 : Kept a a3) : Kept a (releaseShadows a0 a1 a2 a3) := by
  unfold releaseShadows
  try dsimp only
  exact (by (try dsimp only); first | (split; exact (killTag_kept (foldl_kept (fun _ _ h0 => (freeFrameAt_kept h0)) g0)); exact (foldl_kept (fun _ _ h0 => (freeFrameAt_kept h0)) g0)) | (split <;> first | exact (killTag_kept (foldl_kept (fun _ _ h0 => (freeFrameAt_kept h0)) g0)) | exact (foldl_kept (fun _ _ h0 => (freeFrameAt_kept h0)) g0)))

theorem completeKill_kept {a a0 a1 a2 a3} (g0 : Kept a a3) : Kept a (completeKill a0 a1 a2 a3) := by
  unfold completeKill
  try dsimp only
  exact (by (try dsimp only); first | (split; exact (ite_kept (withdrawOrDoom_kept (updSlot_kept (ite_kept (chargeKill_kept (releaseShadows_kept (releasePins_kept (freeUnit_kept g0)))) (releaseShadows_kept (releasePins_kept (freeUnit_kept g0)))))) (ite_kept (abandonSlot_kept (updSlot_kept (ite_kept (chargeKill_kept (releaseShadows_kept (releasePins_kept (freeUnit_kept g0)))) (releaseShadows_kept (releasePins_kept (freeUnit_kept g0)))))) (updSlot_kept (ite_kept (chargeKill_kept (releaseShadows_kept (releasePins_kept (freeUnit_kept g0)))) (releaseShadows_kept (releasePins_kept (freeUnit_kept g0))))))); exact g0) | (split <;> first | exact (ite_kept (withdrawOrDoom_kept (updSlot_kept (ite_kept (chargeKill_kept (releaseShadows_kept (releasePins_kept (freeUnit_kept g0)))) (releaseShadows_kept (releasePins_kept (freeUnit_kept g0)))))) (ite_kept (abandonSlot_kept (updSlot_kept (ite_kept (chargeKill_kept (releaseShadows_kept (releasePins_kept (freeUnit_kept g0)))) (releaseShadows_kept (releasePins_kept (freeUnit_kept g0)))))) (updSlot_kept (ite_kept (chargeKill_kept (releaseShadows_kept (releasePins_kept (freeUnit_kept g0)))) (releaseShadows_kept (releasePins_kept (freeUnit_kept g0))))))) | exact g0))

theorem restamp_kept {a a0 a1 a2 a3 a4} (g0 : Kept a a4) : Kept a (restamp a0 a1 a2 a3 a4) := by
  unfold restamp
  try dsimp only
  exact (foldl_kept (fun _ _ h0 => (setWatched_kept h0)) (foldl_kept (fun _ _ h0 => (setSeq_kept h0)) (updPart_kept (foldl_kept (fun _ _ h0 => (updSlot_kept h0)) g0))))

theorem stampStep_kept {a a0 a1 a2 a3 a4} (g0 : Kept a a4) : Kept a (stampStep a0 a1 a2 a3 a4) := by
  unfold stampStep
  try dsimp only
  exact (ite_kept (upd_now_kept (addObj_kept (updSlot_kept g0))) (restamp_kept (upd_now_kept (addObj_kept (updSlot_kept g0)))))

theorem stampSlots_kept {a a0 a1 a2 a3 a4 a5} (g0 : Kept a a5) : Kept a (stampSlots a0 a1 a2 a3 a4 a5) := by
  unfold stampSlots
  try dsimp only
  exact (foldl_kept (fun _ _ h0 => (ite_kept (updPart_kept (updSlot_kept h0)) (stampStep_kept h0))) g0)

theorem tileFill_kept {a a0 a1 a2} (g0 : Kept a a0) : Kept a (tileFill a0 a1 a2).2 := by
  unfold tileFill
  try dsimp only
  exact (by (try dsimp only); first | (split; exact (snd_kept g0); exact (snd_kept (useFree_kept g0))) | (split <;> first | exact (snd_kept g0) | exact (snd_kept (useFree_kept g0))))

theorem allocShadow_kept {a a0 a1 a2 a3 a4 a5} (g0 : Kept a a5) : ∀ r, allocShadow a0 a1 a2 a3 a4 a5 = some r → Kept a r.2 := by
  intro r hr
  unfold allocShadow at hr
  split at hr
  · simp at hr
  · split at hr
    · simp at hr
    · cases hr
      dsimp only
      exact updSlot_kept (setFrame_kept (tileFill_kept g0))

theorem execWithdrawHead_kept {a a0 a1 a2} (g0 : Kept a a2) : KeptOut a (execWithdrawHead a0 a1 a2) := by
  unfold execWithdrawHead
  try dsimp only
  exact (whenLive_kept g0 (fun _ h0 => (by (try dsimp only); first | (split; exact (ite_kept (advanceCommit_kept (settleHead_kept (withdrawOrDoom_kept h0))) h0); exact h0) | (split <;> first | exact (ite_kept (advanceCommit_kept (settleHead_kept (withdrawOrDoom_kept h0))) h0) | exact h0))))

theorem sentWrite_kept {a a0 a1 a2 a3 a4 a5} (g0 : Kept a a5) : Kept a (sentWrite a0 a1 a2 a3 a4 a5) := by
  unfold sentWrite
  try dsimp only
  exact (updSlot_kept g0)

theorem execRemoteWrite_kept {a a0 a1 a2 a3 a4} (g0 : Kept a a4) : KeptOut a (execRemoteWrite a0 a1 a2 a3 a4) := by
  unfold execRemoteWrite
  refine whenLive_kept g0 (fun s h => ?_)
  dsimp only
  split
  · split
    · exact h
    · split
      · exact sentWrite_kept (writeFrame_kept (crossLinks_kept h))
      · split
        · rename_i hq
          exact sentWrite_kept (writeFrame_kept (crossLinks_kept (allocShadow_kept h _ hq)))
        · exact h
  · exact h

theorem noteLanded_kept {a a0 a1 a2 a3} (g0 : Kept a a3) : Kept a (noteLanded a0 a1 a2 a3) := by
  unfold noteLanded
  try dsimp only
  exact (upd_now_kept g0)

theorem flipPin_kept {a a0 a1} (g0 : Kept a a1) : Kept a (flipPin a0 a1) := by
  have h1 := setFrame_kept (a0 := a0.frame) (a1 := { getFrame (setPageMap a0.tile a0.page (a0.frame % 768 + 1) a1) a0.frame with st := .mapped })
    (setPageMap_kept (a0 := a0.tile) (a1 := a0.page) (a2 := a0.frame % 768 + 1) g0)
  unfold flipPin
  dsimp only
  split
  · exact retireFrame_kept (noteFlip_kept h1)
  · exact noteFlip_kept h1

theorem execRemoteCommitMessage_kept {a a0 a1 a2 a3 a4} (g0 : Kept a a4) : KeptOut a (execRemoteCommitMessage a0 a1 a2 a3 a4) := by
  unfold execRemoteCommitMessage
  try dsimp only
  exact (whenLive_kept g0 (fun _ h0 => (ite_kept (updSlot_kept (foldl_kept (fun _ _ h1 => (flipPin_kept h1)) (noteLanded_kept h0))) h0)))

theorem publishTail_kept {a a0 a1 a2 a3 a4 a5} (g0 : Kept a a5) : Kept a (publishTail a0 a1 a2 a3 a4 a5) := by
  unfold publishTail
  try dsimp only
  exact (settleHead_kept (setQueue_kept (upd_now_kept (stampSlots_kept g0))))

theorem applyTail_kept {a a0 a1 a2 a3} (g0 : Kept a a3) : Kept a (applyTail a0 a1 a2 a3).1 := by
  unfold applyTail
  try dsimp only
  exact (ite_fst_kept (fst_kept (publishTail_kept g0)) (fst_kept (refuseEngine_kept g0)))

theorem releaseResets_kept {a a0} (g0 : Kept a a0) : Kept a (releaseResets a0) := by
  unfold releaseResets
  try dsimp only
  exact (foldl_kept (fun _ _ h0 => (killPart_kept (setObj_kept h0))) (upd_fab_kept g0))

theorem pinFrame_kept {a a0 a1} (g0 : Kept a a1) : Kept a (pinFrame a0 a1) := by
  unfold pinFrame
  try dsimp only
  exact (setFrame_kept g0)

theorem enterHeld_kept {a a0 a1} (g0 : Kept a a1) : Kept a (enterHeld a0 a1) := by
  induction a0 generalizing a1 with
  | zero => exact g0
  | succ n ih =>
    simp only [enterHeld]
    split
    · exact g0
    · exact ih (enterUpdate_kept (upd_sy_kept g0))

theorem setSyncCount_kept {a a0 a1 a2} (g0 : Kept a a2) : Kept a (setSyncCount a0 a1 a2) := by
  unfold setSyncCount
  try dsimp only
  exact (upd_sy_kept g0)

theorem notifyQueues_kept {a a0 a1} (g0 : Kept a a1) : Kept a (notifyQueues a0 a1) := by
  unfold notifyQueues
  try dsimp only
  exact (foldl_kept (fun _ _ h0 => (by (try dsimp only); first | (split; exact (ite_kept (setNotices_kept (setQueue_kept h0)) h0); exact h0) | (split <;> first | exact (ite_kept (setNotices_kept (setQueue_kept h0)) h0) | exact h0))) g0)

theorem applyUpdate_kept {a a0 a1} (g0 : Kept a a1) : Kept a (applyUpdate a0 a1) := by
  unfold applyUpdate
  try dsimp only
  exact (notifyHosts_kept (notifyQueues_kept (perfCount_kept (setSyncCount_kept g0))))

theorem applyFrom_kept {a a0 a1 a2} (g0 : Kept a a2) : Kept a (applyFrom a0 a1 a2) := by
  unfold applyFrom
  try dsimp only
  exact (by (try dsimp only); first | (split; exact (enterHeld_kept (applyUpdate_kept (setBank_kept g0))); exact g0) | (split <;> first | exact (enterHeld_kept (applyUpdate_kept (setBank_kept g0))) | exact g0))

theorem endReset_kept {a a0 a1} (g0 : Kept a a1) : Kept a (endReset a0 a1) := by
  unfold endReset
  try dsimp only
  exact (capture_kept (addObj_kept (setObj_kept g0)))

theorem noteCommit_kept {a a0 a1} (g0 : Kept a a1) : Kept a (noteCommit a0 a1) := by
  unfold noteCommit
  try dsimp only
  exact (upd_now_kept g0)

theorem markJob_kept {a a0 a1 a2} (g0 : Kept a a2) : Kept a (markJob a0 a1 a2) := by
  unfold markJob
  try dsimp only
  exact (withdrawJob_kept (ite_kept g0 (updPart_kept g0)))

theorem wAcctWithdraw_kept {a a0 a1 a2} (g0 : Kept a a2) : Kept a (wAcctWithdraw a0 a1 a2).1 := by
  unfold wAcctWithdraw
  try dsimp only
  exact (ite_fst_kept (fst_kept (deferEvent_kept g0)) (fst_kept (markJob_kept g0)))

theorem execAcctWithdraw_kept {a a0 a1 a2 a3} (g0 : Kept a a3) : KeptOut a (execAcctWithdraw a0 a1 a2 a3) := by
  unfold execAcctWithdraw
  try dsimp only
  exact (whenFree_kept g0 (fun _ h0 => (ackWrite_kept (wAcctWithdraw_kept h0))))

theorem unmarkJob_kept {a a0 a1 a2} (g0 : Kept a a2) : Kept a (unmarkJob a0 a1 a2) := by
  unfold unmarkJob
  try dsimp only
  exact (updPart_kept g0)

theorem wAcctRestore_kept {a a0 a1 a2} (g0 : Kept a a2) : Kept a (wAcctRestore a0 a1 a2).1 := by
  unfold wAcctRestore
  try dsimp only
  exact (ite_fst_kept (fst_kept (deferEvent_kept g0)) (fst_kept (unmarkJob_kept g0)))

theorem unhaltTiles_kept {a a0 a1} (g0 : Kept a a1) : Kept a (unhaltTiles a0 a1) := by
  unfold unhaltTiles
  try dsimp only
  exact (updPart_kept (foldl_kept (fun _ _ h0 => (ite_kept (setObj_kept h0) h0)) g0))

theorem chargeWait_kept {a a0 a1 a2} (g0 : Kept a a2) : Kept a (chargeWait a0 a1 a2) := by
  unfold chargeWait
  try dsimp only
  exact (setAcct_kept g0)

theorem execAcctRestore_kept {a a0 a1 a2 a3} (g0 : Kept a a3) : KeptOut a (execAcctRestore a0 a1 a2 a3) := by
  unfold execAcctRestore
  try dsimp only
  exact (whenFree_kept g0 (fun _ h0 => (ackWrite_kept (wAcctRestore_kept h0))))

theorem bumpStep_kept {a a0 a1} (g0 : Kept a a1) : Kept a (bumpStep a0 a1) := by
  unfold bumpStep
  try dsimp only
  exact (ite_kept (addObj_kept g0) (addObj_kept g0))

theorem finishCommand_kept {a a0 a1 a2 a3 a4 a5} (g0 : Kept a a5) : Kept a (finishCommand a0 a1 a2 a3 a4 a5) := by
  unfold finishCommand
  try dsimp only
  exact (requestCommit_kept (updSlot_kept (freeUnit_kept g0)))

theorem chargeExec_kept {a a0 a1 a2} (g0 : Kept a a2) : Kept a (chargeExec a0 a1 a2) := by
  unfold chargeExec
  try dsimp only
  exact (setAcct_kept g0)

theorem chargeCommit_kept {a a0 a1 a2} (g0 : Kept a a2) : Kept a (chargeCommit a0 a1 a2) := by
  unfold chargeCommit
  try dsimp only
  exact (chargeExec_kept (upd_now_kept g0))

theorem orNumfmt_kept {a a0 a1 a2} (g0 : Kept a a2) : Kept a (orNumfmt a0 a1 a2) := by
  unfold orNumfmt
  try dsimp only
  exact (ite_kept g0 (setObj_kept (upd_now_kept g0)))

theorem grantCommit_kept {a a0 a1 a2 a3} (g0 : Kept a a3) : Kept a (grantCommit a0 a1 a2 a3) := by
  unfold grantCommit
  try dsimp only
  exact (updSlot_kept (chargeCommit_kept (releasePins_kept (orNumfmt_kept (by (try dsimp only); first | (split; exact (unmapRange_kept (by (try dsimp only); first | (split; exact (commitTag_kept (foldl_kept (fun _ _ h0 => (flipPin_kept h0)) (perfCount_kept (bumpStep_kept (noteCommit_kept (noteLanded_kept g0)))))); exact (foldl_kept (fun _ _ h0 => (flipPin_kept h0)) (perfCount_kept (bumpStep_kept (noteCommit_kept (noteLanded_kept g0)))))) | (split <;> first | exact (commitTag_kept (foldl_kept (fun _ _ h0 => (flipPin_kept h0)) (perfCount_kept (bumpStep_kept (noteCommit_kept (noteLanded_kept g0)))))) | exact (foldl_kept (fun _ _ h0 => (flipPin_kept h0)) (perfCount_kept (bumpStep_kept (noteCommit_kept (noteLanded_kept g0)))))))); exact (by (try dsimp only); first | (split; exact (commitTag_kept (foldl_kept (fun _ _ h0 => (flipPin_kept h0)) (perfCount_kept (bumpStep_kept (noteCommit_kept (noteLanded_kept g0)))))); exact (foldl_kept (fun _ _ h0 => (flipPin_kept h0)) (perfCount_kept (bumpStep_kept (noteCommit_kept (noteLanded_kept g0)))))) | (split <;> first | exact (commitTag_kept (foldl_kept (fun _ _ h0 => (flipPin_kept h0)) (perfCount_kept (bumpStep_kept (noteCommit_kept (noteLanded_kept g0)))))) | exact (foldl_kept (fun _ _ h0 => (flipPin_kept h0)) (perfCount_kept (bumpStep_kept (noteCommit_kept (noteLanded_kept g0)))))))) | (split <;> first | exact (unmapRange_kept (by (try dsimp only); first | (split; exact (commitTag_kept (foldl_kept (fun _ _ h0 => (flipPin_kept h0)) (perfCount_kept (bumpStep_kept (noteCommit_kept (noteLanded_kept g0)))))); exact (foldl_kept (fun _ _ h0 => (flipPin_kept h0)) (perfCount_kept (bumpStep_kept (noteCommit_kept (noteLanded_kept g0)))))) | (split <;> first | exact (commitTag_kept (foldl_kept (fun _ _ h0 => (flipPin_kept h0)) (perfCount_kept (bumpStep_kept (noteCommit_kept (noteLanded_kept g0)))))) | exact (foldl_kept (fun _ _ h0 => (flipPin_kept h0)) (perfCount_kept (bumpStep_kept (noteCommit_kept (noteLanded_kept g0)))))))) | exact (by (try dsimp only); first | (split; exact (commitTag_kept (foldl_kept (fun _ _ h0 => (flipPin_kept h0)) (perfCount_kept (bumpStep_kept (noteCommit_kept (noteLanded_kept g0)))))); exact (foldl_kept (fun _ _ h0 => (flipPin_kept h0)) (perfCount_kept (bumpStep_kept (noteCommit_kept (noteLanded_kept g0)))))) | (split <;> first | exact (commitTag_kept (foldl_kept (fun _ _ h0 => (flipPin_kept h0)) (perfCount_kept (bumpStep_kept (noteCommit_kept (noteLanded_kept g0)))))) | exact (foldl_kept (fun _ _ h0 => (flipPin_kept h0)) (perfCount_kept (bumpStep_kept (noteCommit_kept (noteLanded_kept g0)))))))))))))

theorem jobFault_kept {a a0 a1 a2 a3 a4} (g0 : Kept a a4) : Kept a (jobFault a0 a1 a2 a3 a4) := by
  unfold jobFault
  try dsimp only
  exact (ite_kept (ite_kept g0 (startReset_kept (foldl_kept (fun _ _ h0 => (haltTile_kept h0)) g0))) g0)

theorem withdrawDoomed_kept {a a0 a1} (g0 : Kept a a1) : Kept a (withdrawDoomed a0 a1) := by
  unfold withdrawDoomed
  try dsimp only
  exact (foldl_kept (fun _ _ h0 => (ite_kept h0 (advanceCommit_kept (settleHead_kept (foldl_kept (fun _ _ h1 => (ite_kept (withdrawSlot_kept h1) h1)) h0))))) g0)

theorem clearQueue_kept {a a0 a1 a2} (g0 : Kept a a2) : Kept a (clearQueue a0 a1 a2) := by
  unfold clearQueue
  try dsimp only
  exact (refreshLoad_kept (setQueue_kept (ite_kept (dropNotice_kept (foldl_kept (fun _ _ h0 => (updSlot_kept h0)) (advanceCommit_kept g0))) (foldl_kept (fun _ _ h0 => (updSlot_kept h0)) (advanceCommit_kept g0)))))

theorem clearQueues_kept {a a0 a1} (g0 : Kept a a1) : Kept a (clearQueues a0 a1) := by
  unfold clearQueues
  try dsimp only
  exact (unhaltTiles_kept (setObj_kept (updPart_kept (upd_now_kept (foldl_kept (fun _ _ h0 => (clearQueue_kept h0)) g0)))))

theorem noteRerun_kept {a a0 a1 a2 a3} (g0 : Kept a a3) : Kept a (noteRerun a0 a1 a2 a3) := by
  unfold noteRerun
  try dsimp only
  exact (ite_kept (setQueue_kept g0) g0)

theorem noteHold_kept {a a0 a1} (g0 : Kept a a1) : Kept a (noteHold a0 a1) := by
  unfold noteHold
  try dsimp only
  exact (ite_kept g0 (upd_now_kept g0))

theorem wTail_kept {a a0 a1 a2 a3 a4} (g0 : Kept a a4) : Kept a (wTail a0 a1 a2 a3 a4).1 := by
  unfold wTail
  try dsimp only
  exact (ite_fst_kept (fst_kept (deferEvent_kept g0)) (applyTail_kept g0))

theorem execTailWrite_kept {a a0 a1 a2 a3 a4} (g0 : Kept a a4) : KeptOut a (execTailWrite a0 a1 a2 a3 a4) := by
  unfold execTailWrite
  try dsimp only
  exact (whenFree_kept g0 (fun _ h0 => (ite_kept (ackWrite_kept (wTail_kept h0)) (addObj_kept h0))))

theorem fillShadow_kept {a a0 a1 a2 a3 a4} (g0 : Kept a a4) : Kept a (fillShadow a0 a1 a2 a3 a4) := by
  unfold fillShadow
  try dsimp only
  exact (by (try dsimp only); first | (split; exact (ite_kept g0 (copyLines_kept g0)); exact g0) | (split <;> first | exact (ite_kept g0 (copyLines_kept g0)) | exact g0))

theorem refuseCommand_kept {a a0 a1 a2 a3 a4} (g0 : Kept a a4) : Kept a (refuseCommand a0 a1 a2 a3 a4) := by
  unfold refuseCommand
  try dsimp only
  exact (ite_kept (jobFault_kept (settleHead_kept (capture_kept (setObj_kept (dropWaiting_kept (setSlot_kept g0)))))) (settleHead_kept (capture_kept (setObj_kept (dropWaiting_kept (setSlot_kept g0))))))

theorem completeKills_kept {a a0 a1 a2} (g0 : Kept a a2) : Kept a (completeKills a0 a1 a2) := by
  unfold completeKills
  try dsimp only
  exact (by (try dsimp only); first | (split; exact g0; exact (noteRerun_kept (moveHead_kept (foldl_kept (fun _ _ h0 => (completeKill_kept h0)) g0)))) | (split <;> first | exact g0 | exact (noteRerun_kept (moveHead_kept (foldl_kept (fun _ _ h0 => (completeKill_kept h0)) g0)))))

theorem execKillComplete_kept {a a0 a1 a2 a3} (g0 : Kept a a3) : KeptOut a (execKillComplete a0 a1 a2 a3) := by
  unfold execKillComplete
  try dsimp only
  exact (whenLive_kept g0 (fun _ h0 => (ite_kept (advanceCommit_kept (completeKills_kept h0)) h0)))

theorem execParityUpdate_kept {a a0 a1 a2 a3 a4} (g0 : Kept a a4) : KeptOut a (execParityUpdate a0 a1 a2 a3 a4) := by
  unfold execParityUpdate
  refine whenLive_kept g0 (fun s h => ?_)
  dsimp only
  split
  · split
    · exact h
    · split
      · rename_i hq
        have h1 := ensureShadow_kept h _ hq
        refine sentWrite_kept (writeShadowSlot_kept (writeLines_kept (crossLinks_kept ?_)))
        exact ite_kept h1 (fillShadow_kept h1)
      · exact h
  · exact h

theorem deliver_kept {a a0 a1 a2 a3 a4 a5} (g0 : Kept a a5) : Kept a (deliver a0 a1 a2 a3 a4 a5) := by
  unfold deliver
  try dsimp only
  exact (finishCommand_kept (foldl_kept (fun _ _ h0 => (by (try dsimp only); first | (split; exact (writeFrame_kept h0); exact h0) | (split <;> first | exact (writeFrame_kept h0) | exact h0))) g0))

theorem execGroupedSlidingWindow_kept {a a0 a1 a2 a3} (g0 : Kept a a3) : KeptOut a (execGroupedSlidingWindow a0 a1 a2 a3) := by
  unfold execGroupedSlidingWindow
  try dsimp only
  exact (whenLive_kept g0 (fun _ h0 => (ite_kept (deliver_kept h0) h0)))

theorem execSlidingWindow_kept {a a0 a1 a2 a3} (g0 : Kept a a3) : KeptOut a (execSlidingWindow a0 a1 a2 a3) := by
  unfold execSlidingWindow
  try dsimp only
  exact (whenLive_kept g0 (fun _ h0 => (ite_kept (deliver_kept h0) h0)))

theorem execMatrixMultiply_kept {a a0 a1 a2 a3} (g0 : Kept a a3) : KeptOut a (execMatrixMultiply a0 a1 a2 a3) := by
  unfold execMatrixMultiply
  try dsimp only
  exact (whenLive_kept g0 (fun _ h0 => (ite_kept (deliver_kept h0) h0)))

theorem execElement_kept {a a0 a1 a2 a3 a4 a5} (g0 : Kept a a5) : Kept a (execElement a0 a1 a2 a3 a4 a5) := by
  unfold execElement
  try dsimp only
  exact (ite_kept (deliver_kept g0) g0)

theorem execElementConvert_kept {a a0 a1 a2 a3} (g0 : Kept a a3) : KeptOut a (execElementConvert a0 a1 a2 a3) := by
  unfold execElementConvert
  try dsimp only
  exact (whenLive_kept g0 (fun _ h0 => (execElement_kept h0)))

theorem execPool_kept {a a0 a1 a2 a3 a4 a5} (g0 : Kept a a5) : Kept a (execPool a0 a1 a2 a3 a4 a5) := by
  unfold execPool
  try dsimp only
  exact (ite_kept (deliver_kept g0) g0)

theorem execElementScaleAdd_kept {a a0 a1 a2 a3} (g0 : Kept a a3) : KeptOut a (execElementScaleAdd a0 a1 a2 a3) := by
  unfold execElementScaleAdd
  try dsimp only
  exact (whenLive_kept g0 (fun _ h0 => (execElement_kept h0)))

theorem execReduce_kept {a a0 a1 a2 a3 a4 a5} (g0 : Kept a a5) : Kept a (execReduce a0 a1 a2 a3 a4 a5) := by
  unfold execReduce
  try dsimp only
  exact (ite_kept (deliver_kept g0) g0)

theorem execRowSum_kept {a a0 a1 a2 a3} (g0 : Kept a a3) : KeptOut a (execRowSum a0 a1 a2 a3) := by
  unfold execRowSum
  try dsimp only
  exact (whenLive_kept g0 (fun _ h0 => (execReduce_kept h0)))

theorem execRowMaximum_kept {a a0 a1 a2 a3} (g0 : Kept a a3) : KeptOut a (execRowMaximum a0 a1 a2 a3) := by
  unfold execRowMaximum
  try dsimp only
  exact (whenLive_kept g0 (fun _ h0 => (execReduce_kept h0)))

theorem execRectifier_kept {a a0 a1 a2 a3} (g0 : Kept a a3) : KeptOut a (execRectifier a0 a1 a2 a3) := by
  unfold execRectifier
  try dsimp only
  exact (whenLive_kept g0 (fun _ h0 => (execElement_kept h0)))

theorem execElementMin_kept {a a0 a1 a2 a3} (g0 : Kept a a3) : KeptOut a (execElementMin a0 a1 a2 a3) := by
  unfold execElementMin
  try dsimp only
  exact (whenLive_kept g0 (fun _ h0 => (execElement_kept h0)))

theorem execPerPixelArgmax_kept {a a0 a1 a2 a3} (g0 : Kept a a3) : KeptOut a (execPerPixelArgmax a0 a1 a2 a3) := by
  unfold execPerPixelArgmax
  try dsimp only
  exact (whenLive_kept g0 (fun _ h0 => (ite_kept (deliver_kept h0) h0)))

theorem execRowMinimum_kept {a a0 a1 a2 a3} (g0 : Kept a a3) : KeptOut a (execRowMinimum a0 a1 a2 a3) := by
  unfold execRowMinimum
  try dsimp only
  exact (whenLive_kept g0 (fun _ h0 => (execReduce_kept h0)))

theorem execZeroRunCompression_kept {a a0 a1 a2 a3} (g0 : Kept a a3) : KeptOut a (execZeroRunCompression a0 a1 a2 a3) := by
  unfold execZeroRunCompression
  try dsimp only
  exact (whenLive_kept g0 (fun _ h0 => (ite_kept (deliver_kept (ite_kept (useFree_kept h0) h0)) h0)))

theorem execResample_kept {a a0 a1 a2 a3 a4} (g0 : Kept a a4) : Kept a (execResample a0 a1 a2 a3 a4) := by
  unfold execResample
  try dsimp only
  exact (ite_kept (deliver_kept g0) g0)

theorem execBicubicResampling_kept {a a0 a1 a2 a3} (g0 : Kept a a3) : KeptOut a (execBicubicResampling a0 a1 a2 a3) := by
  unfold execBicubicResampling
  try dsimp only
  exact (whenLive_kept g0 (fun _ h0 => (execResample_kept h0)))

theorem execZeroRunExpansion_kept {a a0 a1 a2 a3} (g0 : Kept a a3) : KeptOut a (execZeroRunExpansion a0 a1 a2 a3) := by
  unfold execZeroRunExpansion
  try dsimp only
  exact (whenLive_kept g0 (fun _ h0 => (ite_kept (deliver_kept h0) h0)))

theorem execPiecewiseLinearTable_kept {a a0 a1 a2 a3} (g0 : Kept a a3) : KeptOut a (execPiecewiseLinearTable a0 a1 a2 a3) := by
  unfold execPiecewiseLinearTable
  try dsimp only
  exact (whenLive_kept g0 (fun _ h0 => (execElement_kept h0)))

theorem execElementAffine_kept {a a0 a1 a2 a3} (g0 : Kept a a3) : KeptOut a (execElementAffine a0 a1 a2 a3) := by
  unfold execElementAffine
  try dsimp only
  exact (whenLive_kept g0 (fun _ h0 => (execElement_kept h0)))

theorem execLeakyRectifier_kept {a a0 a1 a2 a3} (g0 : Kept a a3) : KeptOut a (execLeakyRectifier a0 a1 a2 a3) := by
  unfold execLeakyRectifier
  try dsimp only
  exact (whenLive_kept g0 (fun _ h0 => (execElement_kept h0)))

theorem execRowSumOfSquares_kept {a a0 a1 a2 a3} (g0 : Kept a a3) : KeptOut a (execRowSumOfSquares a0 a1 a2 a3) := by
  unfold execRowSumOfSquares
  try dsimp only
  exact (whenLive_kept g0 (fun _ h0 => (execReduce_kept h0)))

theorem execElementMax_kept {a a0 a1 a2 a3} (g0 : Kept a a3) : KeptOut a (execElementMax a0 a1 a2 a3) := by
  unfold execElementMax
  try dsimp only
  exact (whenLive_kept g0 (fun _ h0 => (execElement_kept h0)))

theorem execAveragePoolingInput_kept {a a0 a1 a2 a3} (g0 : Kept a a3) : KeptOut a (execAveragePoolingInput a0 a1 a2 a3) := by
  unfold execAveragePoolingInput
  try dsimp only
  exact (whenLive_kept g0 (fun _ h0 => (execPool_kept h0)))

theorem execMaxPooling_kept {a a0 a1 a2 a3} (g0 : Kept a a3) : KeptOut a (execMaxPooling a0 a1 a2 a3) := by
  unfold execMaxPooling
  try dsimp only
  exact (whenLive_kept g0 (fun _ h0 => (execPool_kept h0)))

theorem execElementSubtract_kept {a a0 a1 a2 a3} (g0 : Kept a a3) : KeptOut a (execElementSubtract a0 a1 a2 a3) := by
  unfold execElementSubtract
  try dsimp only
  exact (whenLive_kept g0 (fun _ h0 => (execElement_kept h0)))

theorem execAveragePoolingWindow_kept {a a0 a1 a2 a3} (g0 : Kept a a3) : KeptOut a (execAveragePoolingWindow a0 a1 a2 a3) := by
  unfold execAveragePoolingWindow
  try dsimp only
  exact (whenLive_kept g0 (fun _ h0 => (execPool_kept h0)))

theorem execShuffle_kept {a a0 a1 a2 a3 a4} (g0 : Kept a a4) : Kept a (execShuffle a0 a1 a2 a3 a4) := by
  unfold execShuffle
  try dsimp only
  exact (ite_kept (deliver_kept g0) g0)

theorem execPixelUnshuffle_kept {a a0 a1 a2 a3} (g0 : Kept a a3) : KeptOut a (execPixelUnshuffle a0 a1 a2 a3) := by
  unfold execPixelUnshuffle
  try dsimp only
  exact (whenLive_kept g0 (fun _ h0 => (execShuffle_kept h0)))

theorem execElementMultiply_kept {a a0 a1 a2 a3} (g0 : Kept a a3) : KeptOut a (execElementMultiply a0 a1 a2 a3) := by
  unfold execElementMultiply
  try dsimp only
  exact (whenLive_kept g0 (fun _ h0 => (execElement_kept h0)))

theorem execElementClamp_kept {a a0 a1 a2 a3} (g0 : Kept a a3) : KeptOut a (execElementClamp a0 a1 a2 a3) := by
  unfold execElementClamp
  try dsimp only
  exact (whenLive_kept g0 (fun _ h0 => (execElement_kept h0)))

theorem execBilinearResampling_kept {a a0 a1 a2 a3} (g0 : Kept a a3) : KeptOut a (execBilinearResampling a0 a1 a2 a3) := by
  unfold execBilinearResampling
  try dsimp only
  exact (whenLive_kept g0 (fun _ h0 => (execResample_kept h0)))

theorem execElementAdd_kept {a a0 a1 a2 a3} (g0 : Kept a a3) : KeptOut a (execElementAdd a0 a1 a2 a3) := by
  unfold execElementAdd
  try dsimp only
  exact (whenLive_kept g0 (fun _ h0 => (execElement_kept h0)))

theorem execPixelShuffle_kept {a a0 a1 a2 a3} (g0 : Kept a a3) : KeptOut a (execPixelShuffle a0 a1 a2 a3) := by
  unfold execPixelShuffle
  try dsimp only
  exact (whenLive_kept g0 (fun _ h0 => (execShuffle_kept h0)))

theorem execTransform_kept {a a0 a1 a2 a3 a4} (g0 : Kept a a4) : Kept a (execTransform a0 a1 a2 a3 a4) := by
  unfold execTransform
  try dsimp only
  exact (ite_kept (deliver_kept g0) g0)

theorem execConvolution2dTransform_kept {a a0 a1 a2 a3} (g0 : Kept a a3) : KeptOut a (execConvolution2dTransform a0 a1 a2 a3) := by
  unfold execConvolution2dTransform
  try dsimp only
  exact (whenLive_kept g0 (fun _ h0 => (execTransform_kept h0)))

theorem execMulticastCopy_kept {a a0 a1 a2 a3} (g0 : Kept a a3) : KeptOut a (execMulticastCopy a0 a1 a2 a3) := by
  unfold execMulticastCopy
  try dsimp only
  exact (whenLive_kept g0 (fun _ h0 => (ite_kept (deliver_kept h0) h0)))

theorem execConvolutionAlongColumns_kept {a a0 a1 a2 a3} (g0 : Kept a a3) : KeptOut a (execConvolutionAlongColumns a0 a1 a2 a3) := by
  unfold execConvolutionAlongColumns
  try dsimp only
  exact (whenLive_kept g0 (fun _ h0 => (execTransform_kept h0)))

theorem execCisternStore_kept {a a0 a1 a2 a3} (g0 : Kept a a3) : KeptOut a (execCisternStore a0 a1 a2 a3) := by
  unfold execCisternStore
  try dsimp only
  exact (whenLive_kept g0 (fun _ h0 => (ite_kept (deliver_kept h0) h0)))

theorem execCisternLoad_kept {a a0 a1 a2 a3} (g0 : Kept a a3) : KeptOut a (execCisternLoad a0 a1 a2 a3) := by
  unfold execCisternLoad
  try dsimp only
  exact (whenLive_kept g0 (fun _ h0 => (ite_kept (deliver_kept h0) h0)))

theorem execConvolutionAlongLines_kept {a a0 a1 a2 a3} (g0 : Kept a a3) : KeptOut a (execConvolutionAlongLines a0 a1 a2 a3) := by
  unfold execConvolutionAlongLines
  try dsimp only
  exact (whenLive_kept g0 (fun _ h0 => (execTransform_kept h0)))

theorem execRegionCopy_kept {a a0 a1 a2 a3} (g0 : Kept a a3) : KeptOut a (execRegionCopy a0 a1 a2 a3) := by
  unfold execRegionCopy
  try dsimp only
  exact (whenLive_kept g0 (fun _ h0 => (ite_kept (deliver_kept h0) h0)))

theorem execStem_kept {a a0 a1 a2 a3} (g0 : Kept a a3) : KeptOut a (execStem a0 a1 a2 a3) := by
  unfold execStem
  try dsimp only
  exact (whenLive_kept g0 (fun _ h0 => (ite_kept (deliver_kept h0) h0)))

theorem pictureOut_kept {a a0 a1 a2 a3 a4 a5 a6 a7} (g0 : Kept a a7) : Kept a (pictureOut a0 a1 a2 a3 a4 a5 a6 a7) := by
  unfold pictureOut
  try dsimp only
  exact (deliver_kept g0)

theorem execHead_kept {a a0 a1 a2 a3} (g0 : Kept a a3) : KeptOut a (execHead a0 a1 a2 a3) := by
  unfold execHead
  try dsimp only
  exact (whenLive_kept g0 (fun _ h0 => (ite_kept (pictureOut_kept h0) h0)))

theorem execScaleAndSharpen_kept {a a0 a1 a2 a3} (g0 : Kept a a3) : KeptOut a (execScaleAndSharpen a0 a1 a2 a3) := by
  unfold execScaleAndSharpen
  try dsimp only
  exact (whenLive_kept g0 (fun _ h0 => (ite_kept (pictureOut_kept (ite_kept (useFree_kept h0) h0)) h0)))

theorem execGather_kept {a a0 a1 a2 a3} (g0 : Kept a a3) : KeptOut a (execGather a0 a1 a2 a3) := by
  unfold execGather
  try dsimp only
  exact (whenLive_kept g0 (fun _ h0 => (ite_kept (ite_kept (deliver_kept h0) (deliver_kept (ite_kept (useFree_kept h0) h0))) h0)))

theorem execAdvance_kept {a a0 a1 a2 a3} (g0 : Kept a a3) : KeptOut a (execAdvance a0 a1 a2 a3) := by
  unfold execAdvance
  try dsimp only
  exact (whenLive_kept g0 (fun _ h0 => (ite_kept (deliver_kept h0) h0)))

theorem execRelease_kept {a a0 a1 a2 a3} (g0 : Kept a a3) : KeptOut a (execRelease a0 a1 a2 a3) := by
  unfold execRelease
  try dsimp only
  exact (whenLive_kept g0 (fun _ h0 => (ite_kept (deliver_kept h0) h0)))

theorem execCopyA_kept {a a0 a1 a2 a3} (g0 : Kept a a3) : KeptOut a (execCopyA a0 a1 a2 a3) := by
  unfold execCopyA
  try dsimp only
  exact (whenLive_kept g0 (fun _ h0 => (ite_kept (deliver_kept h0) h0)))

theorem execEstimate_kept {a a0 a1 a2 a3} (g0 : Kept a a3) : KeptOut a (execEstimate a0 a1 a2 a3) := by
  unfold execEstimate
  try dsimp only
  exact (whenLive_kept g0 (fun _ h0 => (ite_kept (deliver_kept (updSlot_kept h0)) h0)))

theorem execMatchCorners_kept {a a0 a1 a2 a3} (g0 : Kept a a3) : KeptOut a (execMatchCorners a0 a1 a2 a3) := by
  unfold execMatchCorners
  try dsimp only
  exact (whenLive_kept g0 (fun _ h0 => (ite_kept (deliver_kept (useFree_kept h0)) h0)))

theorem execPyramidBuild_kept {a a0 a1 a2 a3} (g0 : Kept a a3) : KeptOut a (execPyramidBuild a0 a1 a2 a3) := by
  unfold execPyramidBuild
  try dsimp only
  exact (whenLive_kept g0 (fun _ h0 => (ite_kept (deliver_kept h0) h0)))

theorem execCorners_kept {a a0 a1 a2 a3} (g0 : Kept a a3) : KeptOut a (execCorners a0 a1 a2 a3) := by
  unfold execCorners
  try dsimp only
  exact (whenLive_kept g0 (fun _ h0 => (ite_kept (deliver_kept h0) h0)))

theorem execWarpAndBlend_kept {a a0 a1 a2 a3} (g0 : Kept a a3) : KeptOut a (execWarpAndBlend a0 a1 a2 a3) := by
  unfold execWarpAndBlend
  try dsimp only
  exact (whenLive_kept g0 (fun _ h0 => (ite_kept (deliver_kept h0) h0)))

theorem takeShadows_kept {a a0 a1 a2 a3 a4} (g0 : Kept a a4) : Kept a (takeShadows a0 a1 a2 a3 a4) := by
  unfold takeShadows
  try dsimp only
  exact (foldl_kept (fun _ _ h0 => (by (try dsimp only); split; rename_i hq2; exact ((allocShadow_kept h0) _ hq2); exact h0)) g0)

theorem takeTag_kept {a a0 a1 a2 a3 a4} (g0 : Kept a a4) : Kept a (takeTag a0 a1 a2 a3 a4) := by
  unfold takeTag
  try dsimp only
  exact (by (try dsimp only); first | (split; exact (updSlot_kept (setTag_kept g0)); exact g0) | (split <;> first | exact (updSlot_kept (setTag_kept g0)) | exact g0))

theorem takePins_kept {a a0 a1 a2 a3 a4} (g0 : Kept a a4) : Kept a (takePins a0 a1 a2 a3 a4) := by
  unfold takePins
  try dsimp only
  exact (foldl_kept (fun _ _ h0 => (by (try dsimp only); first | (split; exact (updSlot_kept (pinFrame_kept h0)); exact h0) | (split <;> first | exact (updSlot_kept (pinFrame_kept h0)) | exact h0))) g0)

theorem startCommand_kept {a a0 a1 a2 a3} (g0 : Kept a a3) : Kept a (startCommand a0 a1 a2 a3) := by
  have h1 : ∀ {x pl}, Kept a (takeTag a0 a1 a2 pl (takeShadows a0 a1 a2 pl (takePins a0 a1 a2 pl (setSlot a0 a1 a2 x a3)))) :=
    takeTag_kept (takeShadows_kept (takePins_kept (setSlot_kept g0)))
  have h2 : ∀ {s point v w}, Kept a s → Kept a { s with tl := { s.tl with turns := mapSet 0 s.tl.turns point v }, now := { s.now with won := w } } :=
    fun h => { h with }
  unfold startCommand
  refine moveHead_kept (ite_kept (perturb_kept (h2 ?_)) (h2 ?_)) <;>
    (split <;> [exact setUnit_kept h1; exact h1])

theorem execFence_kept {a a0 a1 a2 a3} (g0 : Kept a a3) : KeptOut a (execFence a0 a1 a2 a3) := by
  unfold execFence
  try dsimp only
  exact (whenLive_kept g0 (fun _ h0 => (ite_kept (finishCommand_kept h0) h0)))

theorem preempt_kept {a a0 a1 a2 a3} (g0 : Kept a a3) : Kept a (preempt a0 a1 a2 a3) := by
  unfold preempt
  try dsimp only
  exact (by (try dsimp only); first | (split; exact g0; exact (startKill_kept g0)) | (split <;> first | exact g0 | exact (startKill_kept g0)))

theorem execDispatch_kept {a a0 a1 a2} (g0 : Kept a a2) : KeptOut a (execDispatch a0 a1 a2) := by
  unfold execDispatch
  try dsimp only
  exact (whenLive_kept g0 (fun _ h0 => (by (try dsimp only); first | (split; exact h0; exact (by (try dsimp only); first | (split; exact (refuseCommand_kept h0); exact (by (try dsimp only); first | (split; exact h0; exact (ite_kept (ite_kept (startCommand_kept h0) (preempt_kept h0)) h0)) | (split <;> first | exact h0 | exact (ite_kept (ite_kept (startCommand_kept h0) (preempt_kept h0)) h0)))) | (split <;> first | exact (refuseCommand_kept h0) | exact (by (try dsimp only); first | (split; exact h0; exact (ite_kept (ite_kept (startCommand_kept h0) (preempt_kept h0)) h0)) | (split <;> first | exact h0 | exact (ite_kept (ite_kept (startCommand_kept h0) (preempt_kept h0)) h0)))))) | (split <;> first | exact h0 | exact (by (try dsimp only); first | (split; exact (refuseCommand_kept h0); exact (by (try dsimp only); first | (split; exact h0; exact (ite_kept (ite_kept (startCommand_kept h0) (preempt_kept h0)) h0)) | (split <;> first | exact h0 | exact (ite_kept (ite_kept (startCommand_kept h0) (preempt_kept h0)) h0)))) | (split <;> first | exact (refuseCommand_kept h0) | exact (by (try dsimp only); first | (split; exact h0; exact (ite_kept (ite_kept (startCommand_kept h0) (preempt_kept h0)) h0)) | (split <;> first | exact h0 | exact (ite_kept (ite_kept (startCommand_kept h0) (preempt_kept h0)) h0)))))))))

theorem setSyncStatus_kept {a a0 a1 a2} (g0 : Kept a a2) : Kept a (setSyncStatus a0 a1 a2) := by
  unfold setSyncStatus
  try dsimp only
  exact (setObj_kept g0)

theorem fillSome_kept {a a0 a1 a2} (g0 : Kept a a2) : Kept a (fillSome a0 a1 a2) := by
  have h0 : ∀ {f s}, Kept a s → Kept a (fillSome 0 f s) := by
    intro f s h
    unfold fillSome
    exact setSyncStatus_kept (upd_sy_kept h)
  induction a0 generalizing a1 a2 with
  | zero => exact h0 g0
  | succ n ih =>
    unfold fillSome
    split
    · exact h0 g0
    · exact ih (sendUpdate_kept g0)

theorem softUpdate_kept {a a0 a1 a2 a3 a4} (g0 : Kept a a4) : Kept a (softUpdate a0 a1 a2 a3 a4) := by
  unfold softUpdate
  try dsimp only
  exact (by (try dsimp only); first | (split; exact (ite_kept (deferEvent_kept g0) (sendUpdate_kept g0)); exact (sendUpdate_kept g0)) | (split <;> first | exact (ite_kept (deferEvent_kept g0) (sendUpdate_kept g0)) | exact (sendUpdate_kept g0)))

theorem answerCount_kept {a a0 a1 a2 a3} (g0 : Kept a a3) : Kept a (answerCount a0 a1 a2 a3) := by
  unfold answerCount
  try dsimp only
  exact (ite_kept (emit_kept g0) (answer_kept g0))

theorem readCount_kept {a a0 a1 a2 a3} (g0 : Kept a a3) : Kept a (readCount a0 a1 a2 a3) := by
  unfold readCount
  try dsimp only
  exact (ite_kept (setParked_kept g0) (answerCount_kept g0))

theorem apertureAccess_kept {a a0 a1 a2 a3 a4} (g0 : Kept a a4) : Kept a (apertureAccess a0 a1 a2 a3 a4) := by
  unfold apertureAccess
  try dsimp only
  exact (by (try dsimp only); first | (split; exact (ite_kept (readCount_kept g0) (answer_kept g0)); exact (ite_kept (softUpdate_kept g0) (ite_kept (softUpdate_kept (softUpdate_kept g0)) g0))) | (split <;> first | exact (ite_kept (readCount_kept g0) (answer_kept g0)) | exact (ite_kept (softUpdate_kept g0) (ite_kept (softUpdate_kept (softUpdate_kept g0)) g0))))

theorem execApertureAdd_kept {a a0 a1 a2 a3} (g0 : Kept a a3) : KeptOut a (execApertureAdd a0 a1 a2 a3) := by
  unfold execApertureAdd
  try dsimp only
  exact (whenFree_kept g0 (fun _ h0 => (apertureAccess_kept h0)))

theorem syncNext_kept {a a0} (g0 : Kept a a0) : Kept a (syncNext a0) := by
  unfold syncNext
  try dsimp only
  exact (setObj_kept g0)

theorem readSyncData_kept {a a0 a1 a2} (g0 : Kept a a2) : Kept a (readSyncData a0 a1 a2) := by
  unfold readSyncData
  try dsimp only
  exact (readCount_kept (ite_kept g0 (syncNext_kept g0)))

theorem writeLow_kept {a a0 a1 a2 a3} (g0 : Kept a a3) : Kept a (writeLow a0 a1 a2 a3).1 := by
  unfold writeLow
  try dsimp only
  exact (setLatches_kept g0)

theorem readHigh_kept {a a0 a1 a2 a3} (g0 : Kept a a3) : Kept a (readHigh a0 a1 a2 a3) := by
  unfold readHigh
  try dsimp only
  exact (by (try dsimp only); first | (split; exact (answer_kept g0); exact (answer_kept g0)) | (split <;> first | exact (answer_kept g0)))

theorem wHostWatch_kept {a a0 a1 a2 a3} (g0 : Kept a a3) : Kept a (wHostWatch a0 a1 a2 a3).1 := by
  unfold wHostWatch
  try dsimp only
  exact (ite_fst_kept (fst_kept (sendProbe_kept (upd_sy_kept (setObj_kept g0)))) (fst_kept (upd_sy_kept (setObj_kept g0))))

theorem execHostWatchDisarm_kept {a a0 a1 a2 a3} (g0 : Kept a a3) : KeptOut a (execHostWatchDisarm a0 a1 a2 a3) := by
  unfold execHostWatchDisarm
  try dsimp only
  exact (whenFree_kept g0 (fun _ h0 => (ackWrite_kept (wHostWatch_kept h0))))

theorem writeHigh_kept {a a0 a1 a2 a3 a4} (g0 : ∀ y0 y1, Kept a y1 → Kept a (a3 y0 y1).1) (g1 : Kept a a4) : Kept a (writeHigh a0 a1 a2 a3 a4).1 := by
  unfold writeHigh
  try dsimp only
  exact (by (try dsimp only); first | (split; exact (ite_fst_kept (g0 _ _ (setLatches_kept g1)) (fst_kept (refuse_kept g1))); exact (fst_kept (refuse_kept g1))) | (split <;> first | exact (ite_fst_kept (g0 _ _ (setLatches_kept g1)) (fst_kept (refuse_kept g1))) | exact (fst_kept (refuse_kept g1))))

theorem unmaskVector_kept {a a0 a1 a2} (g0 : Kept a a2) : Kept a (unmaskVector a0 a1 a2) := by
  unfold unmaskVector
  try dsimp only
  exact (ite_kept (emit_kept (notePosted_kept (setPcie_kept g0))) (setPcie_kept g0))

theorem execMsixVectorUnmask_kept {a a0 a1 a2} (g0 : Kept a a2) : KeptOut a (execMsixVectorUnmask a0 a1 a2) := by
  unfold execMsixVectorUnmask
  try dsimp only
  exact (whenLive_kept g0 (fun _ h0 => (unmaskVector_kept h0)))

theorem onObject_kept {a a0 a1 a2} (g0 : ∀ y0, Kept a y0 → Kept a (a1 y0)) (g1 : Kept a a2) : Kept a (onObject a0 a1 a2) := by
  unfold onObject
  try dsimp only
  exact (ite_kept (g0 _ g1) (addObj_kept g1))

theorem wCmdData_kept {a a0 a1 a2 a3} (g0 : Kept a a3) : Kept a (wCmdData a0 a1 a2 a3).1 := by
  unfold wCmdData
  try dsimp only
  exact (ite_fst_kept (fst_kept g0) (ite_fst_kept (fst_kept (refuseEngine_kept g0)) (fst_kept (setObj_kept (updSlot_kept g0)))))

theorem execCmdDataWrite_kept {a a0 a1 a2 a3} (g0 : Kept a a3) : KeptOut a (execCmdDataWrite a0 a1 a2 a3) := by
  unfold execCmdDataWrite
  try dsimp only
  exact (whenFree_kept g0 (fun _ h0 => (onObject_kept (fun _ h1 => (ackWrite_kept (wCmdData_kept h1))) h0)))

theorem wSync_kept {a a0 a1 a2 a3 a4} (g0 : Kept a a4) : Kept a (wSync a0 a1 a2 a3 a4).1 := by
  unfold wSync
  try dsimp only
  exact (ite_fst_kept (fst_kept (refuse_kept g0)) (fst_kept (syncNext_kept (softUpdate_kept g0))))

theorem execSyncDataWrite_kept {a a0 a1 a2} (g0 : Kept a a2) : KeptOut a (execSyncDataWrite a0 a1 a2) := by
  unfold execSyncDataWrite
  try dsimp only
  exact (whenFree_kept g0 (fun _ h0 => (ackWrite_kept (wSync_kept h0))))

theorem execApertureSet_kept {a a0 a1 a2 a3} (g0 : Kept a a3) : KeptOut a (execApertureSet a0 a1 a2 a3) := by
  unfold execApertureSet
  try dsimp only
  exact (whenFree_kept g0 (fun _ h0 => (apertureAccess_kept h0)))

theorem wCmdCursor_kept {a a0 a1 a2 a3} (g0 : Kept a a3) : Kept a (wCmdCursor a0 a1 a2 a3).1 := by
  unfold wCmdCursor
  try dsimp only
  exact (ite_fst_kept (fst_kept (refuseEngine_kept g0)) (fst_kept (setObj_kept g0)))

theorem maskVector_kept {a a0 a1 a2} (g0 : Kept a a2) : Kept a (maskVector a0 a1 a2) := by
  unfold maskVector
  try dsimp only
  exact (setPcie_kept g0)

theorem execSyncAdd_kept {a a0 a1 a2} (g0 : Kept a a2) : KeptOut a (execSyncAdd a0 a1 a2) := by
  unfold execSyncAdd
  try dsimp only
  exact (whenFree_kept g0 (fun _ h0 => (ackWrite_kept (wSync_kept h0))))

theorem readCmdData_kept {a a0 a1} (g0 : Kept a a1) : Kept a (readCmdData a0 a1).2 := by
  unfold readCmdData
  try dsimp only
  exact (setObj_kept g0)

theorem onRead_kept {a a0 a1 a2 a3} (g0 : ∀ y0, Kept a y0 → Kept a (a2 y0).2) (g1 : Kept a a3) : Kept a (onRead a0 a1 a2 a3) := by
  unfold onRead
  try dsimp only
  exact (ite_kept (answer_kept (g0 _ g1)) (absentRead_kept g1))

theorem execCmdDataRead_kept {a a0 a1 a2} (g0 : Kept a a2) : KeptOut a (execCmdDataRead a0 a1 a2) := by
  unfold execCmdDataRead
  try dsimp only
  exact (whenFree_kept g0 (fun _ h0 => (onRead_kept (fun _ h1 => (readCmdData_kept h1)) h0)))

theorem wBankOwner_kept {a a0 a1 a2 a3} (g0 : Kept a a3) : Kept a (wBankOwner a0 a1 a2 a3).1 := by
  unfold wBankOwner
  try dsimp only
  exact (ite_fst_kept (fst_kept (refuse_kept g0)) (fst_kept (setObj_kept g0)))

theorem wBankValid_kept {a a0 a1 a2 a3} (g0 : Kept a a3) : Kept a (wBankValid a0 a1 a2 a3).1 := by
  unfold wBankValid
  try dsimp only
  exact (ite_fst_kept (fst_kept (refuse_kept g0)) (fst_kept (setObj_kept g0)))

theorem execBankOwnerWrite_kept {a a0 a1 a2 a3 a4 a5} (g0 : Kept a a5) : KeptOut a (execBankOwnerWrite a0 a1 a2 a3 a4 a5) := by
  unfold execBankOwnerWrite
  try dsimp only
  exact (whenFree_kept g0 (fun _ h0 => (ite_kept (ackWrite_kept (wBankValid_kept h0)) (ite_kept (ackWrite_kept (writeHigh_kept (fun _ _ h1 => (wBankOwner_kept h1)) h0)) (ackWrite_kept (writeLow_kept h0))))))

theorem wSyncFill_kept {a a0 a1 a2} (g0 : Kept a a2) : Kept a (wSyncFill a0 a1 a2).1 := by
  unfold wSyncFill
  try dsimp only
  exact (ite_fst_kept (fst_kept (refuse_kept g0)) (ite_fst_kept (fst_kept (refuse_kept g0)) (ite_fst_kept (fst_kept (refuse_kept g0)) (fst_kept (setSyncStatus_kept (upd_sy_kept g0))))))

theorem execSyncFill_kept {a a0 a1} (g0 : Kept a a1) : KeptOut a (execSyncFill a0 a1) := by
  unfold execSyncFill
  try dsimp only
  exact (whenFree_kept g0 (fun _ h0 => (ackWrite_kept (wSyncFill_kept h0))))

theorem execHostWatchArm_kept {a a0 a1 a2 a3} (g0 : Kept a a3) : KeptOut a (execHostWatchArm a0 a1 a2 a3) := by
  unfold execHostWatchArm
  try dsimp only
  exact (whenFree_kept g0 (fun _ h0 => (ackWrite_kept (wHostWatch_kept h0))))

theorem readPeek_kept {a a0 a1} (g0 : Kept a a1) : Kept a (readPeek a0 a1).2 := by
  unfold readPeek
  try dsimp only
  exact (by (try dsimp only); first | (split; exact (snd_kept (setObj_kept g0)); exact (snd_kept g0)) | (split <;> first | exact (snd_kept (setObj_kept g0)) | exact (snd_kept g0)))

theorem execPeekDataRead_kept {a a0 a1 a2} (g0 : Kept a a2) : KeptOut a (execPeekDataRead a0 a1 a2) := by
  unfold execPeekDataRead
  try dsimp only
  exact (whenFree_kept g0 (fun _ h0 => (answer_kept (readPeek_kept h0))))

theorem wSyncPlain_kept {a a0 a1 a2 a3} (g0 : Kept a a3) : Kept a (wSyncPlain a0 a1 a2 a3).1 := by
  unfold wSyncPlain
  try dsimp only
  exact (ite_fst_kept (fst_kept (refuse_kept g0)) (fst_kept (setObj_kept g0)))

theorem execSyncDataRead_kept {a a0 a1} (g0 : Kept a a1) : KeptOut a (execSyncDataRead a0 a1) := by
  unfold execSyncDataRead
  try dsimp only
  exact (whenFree_kept g0 (fun _ h0 => (readSyncData_kept h0)))

theorem execSyncFillComplete_kept {a a0} (g0 : Kept a a0) : KeptOut a (execSyncFillComplete a0) := by
  unfold execSyncFillComplete
  try dsimp only
  exact (whenLive_kept g0 (fun _ h0 => (by (try dsimp only); first | (split; exact h0; exact (ite_kept (setSyncStatus_kept (setObj_kept (upd_sy_kept h0))) h0)) | (split <;> first | exact h0 | exact (ite_kept (setSyncStatus_kept (setObj_kept (upd_sy_kept h0))) h0)))))

theorem readLow_kept {a a0 a1 a2 a3} (g0 : Kept a a3) : Kept a (readLow a0 a1 a2 a3) := by
  unfold readLow
  try dsimp only
  exact (emit_kept (setLatches_kept g0))

theorem writeMsixWord_kept {a a0 a1 a2 a3} (g0 : Kept a a3) : Kept a (writeMsixWord a0 a1 a2 a3) := by
  unfold writeMsixWord
  try dsimp only
  exact (ite_kept (upd_io_kept g0) (ite_kept (maskVector_kept (upd_io_kept g0)) (unmaskVector_kept (upd_io_kept g0))))

theorem wBinding_kept {a a0 a1 a2 a3 a4} (g0 : Kept a a4) : Kept a (wBinding a0 a1 a2 a3 a4).1 := by
  unfold wBinding
  try dsimp only
  exact (ite_fst_kept (fst_kept (setObj_kept (setQueue_kept g0))) (fst_kept (refuseEngine_kept g0)))

theorem execQueueBindingWrite_kept {a a0 a1 a2 a3 a4} (g0 : Kept a a4) : KeptOut a (execQueueBindingWrite a0 a1 a2 a3 a4) := by
  unfold execQueueBindingWrite
  try dsimp only
  exact (whenFree_kept g0 (fun _ h0 => (ite_kept (onObject_kept (fun _ h1 => (ackWrite_kept (wBinding_kept h1))) h0) (addObj_kept h0))))

theorem perfClearAll_kept {a a0} (g0 : Kept a a0) : Kept a (perfClearAll a0) := by
  unfold perfClearAll
  try dsimp only
  exact (foldl_kept (fun _ _ h0 => (perfLoad_kept h0)) g0)

theorem perfSampleAll_kept {a a0} (g0 : Kept a a0) : Kept a (perfSampleAll a0) := by
  unfold perfSampleAll
  try dsimp only
  exact (setObj_kept (foldl_kept (fun _ _ h0 => (setObj_kept h0)) g0))

theorem wPerfCommand_kept {a a0 a1 a2} (g0 : Kept a a2) : Kept a (wPerfCommand a0 a1 a2).1 := by
  unfold wPerfCommand
  try dsimp only
  exact (ite_fst_kept (fst_kept (perfSampleAll_kept g0)) (ite_fst_kept (fst_kept (perfClearAll_kept g0)) (fst_kept (refuse_kept g0))))

theorem execPerfClear_kept {a a0 a1} (g0 : Kept a a1) : KeptOut a (execPerfClear a0 a1) := by
  unfold execPerfClear
  try dsimp only
  exact (whenFree_kept g0 (fun _ h0 => (ackWrite_kept (wPerfCommand_kept h0))))

theorem clearCirculatingAction_kept {a a0} (g0 : Kept a a0) : Kept a (clearCirculatingAction a0) := by
  unfold clearCirculatingAction
  try dsimp only
  exact (setObj_kept (upd_alm_kept g0))

theorem almanacDone_kept {a a0 a1} (g0 : Kept a a1) : Kept a (almanacDone a0 a1) := by
  unfold almanacDone
  try dsimp only
  exact (capture_kept g0)

theorem clearPermanentAction_kept {a a0 a1} (g0 : Kept a a1) : Kept a (clearPermanentAction a0 a1) := by
  unfold clearPermanentAction
  try dsimp only
  exact (setObj_kept (upd_alm_kept g0))

theorem wAlmanacCommand_kept {a a0 a1 a2} (g0 : Kept a a2) : Kept a (wAlmanacCommand a0 a1 a2).1 := by
  unfold wAlmanacCommand
  try dsimp only
  exact (ite_fst_kept (fst_kept (almanacDone_kept (upd_alm_kept g0))) (ite_fst_kept (fst_kept (almanacDone_kept (upd_alm_kept g0))) (ite_fst_kept (fst_kept (almanacDone_kept (clearCirculatingAction_kept g0))) (ite_fst_kept (by (try dsimp only); first | (split; exact (fst_kept (almanacDone_kept (clearPermanentAction_kept g0))); exact (fst_kept (refuse_kept g0))) | (split <;> first | exact (fst_kept (almanacDone_kept (clearPermanentAction_kept g0))) | exact (fst_kept (refuse_kept g0)))) (fst_kept (refuse_kept g0))))))

theorem execClearCirculating_kept {a a0 a1} (g0 : Kept a a1) : KeptOut a (execClearCirculating a0 a1) := by
  unfold execClearCirculating
  try dsimp only
  exact (whenFree_kept g0 (fun _ h0 => (ackWrite_kept (wAlmanacCommand_kept h0))))

theorem wPerfEvent_kept {a a0 a1 a2 a3} (g0 : Kept a a3) : Kept a (wPerfEvent a0 a1 a2 a3).1 := by
  unfold wPerfEvent
  try dsimp only
  exact (ite_fst_kept (fst_kept (setObj_kept (setObj_kept (upd_now_kept g0)))) (fst_kept (refuse_kept g0)))

theorem execPerfEventWrite_kept {a a0 a1 a2 a3} (g0 : Kept a a3) : KeptOut a (execPerfEventWrite a0 a1 a2 a3) := by
  unfold execPerfEventWrite
  try dsimp only
  exact (whenFree_kept g0 (fun _ h0 => (ackWrite_kept (wPerfEvent_kept h0))))

theorem flashErase_kept {a a0 a1 a2} (g0 : Kept a a2) : Kept a (flashErase a0 a1 a2) := by
  unfold flashErase
  try dsimp only
  exact (upd_flash_kept g0)

theorem execMirrorRegionEraseComplete_kept {a a0 a1} (g0 : Kept a a1) : KeptOut a (execMirrorRegionEraseComplete a0 a1) := by
  unfold execMirrorRegionEraseComplete
  try dsimp only
  exact (whenLive_kept g0 (fun _ h0 => (ite_kept (upd_alm_kept (flashErase_kept h0)) h0)))

theorem putSlot_kept {a a0 a1 a2} (g0 : Kept a a2) : Kept a (putSlot a0 a1 a2) := by
  unfold putSlot
  try dsimp only
  exact (setObj_kept (upd_alm_kept g0))

theorem placeCirculating_kept {a a0 a1} (g0 : Kept a a1) : Kept a (placeCirculating a0 a1) := by
  unfold placeCirculating
  try dsimp only
  exact (ite_kept (addObj_kept g0) (upd_alm_kept (putSlot_kept (ite_kept (addObj_kept g0) g0))))

theorem execFreeze_kept {a a0 a1} (g0 : Kept a a1) : KeptOut a (execFreeze a0 a1) := by
  unfold execFreeze
  try dsimp only
  exact (whenFree_kept g0 (fun _ h0 => (ackWrite_kept (wAlmanacCommand_kept h0))))

theorem pushHistory_kept {a a0 a1} (g0 : Kept a a1) : Kept a (pushHistory a0 a1) := by
  unfold pushHistory
  try dsimp only
  exact (setObj_kept (foldl_kept (fun _ _ h0 => (setObj_kept h0)) (setObj_kept g0)))

theorem sendEmcy_kept {a a0 a1} (g0 : Kept a a1) : Kept a (sendEmcy a0 a1) := by
  unfold sendEmcy
  try dsimp only
  exact (upd_io_kept (emit_kept g0))

theorem emcy_kept {a a0 a1} (g0 : Kept a a1) : Kept a (emcy a0 a1) := by
  unfold emcy
  try dsimp only
  exact (ite_kept (ite_kept (sendEmcy_kept (pushHistory_kept (setObj_kept g0))) (upd_io_kept (pushHistory_kept (setObj_kept g0)))) (pushHistory_kept (setObj_kept g0)))

theorem placePermanent_kept {a a0 a1 a2 a3} (g0 : Kept a a3) : Kept a (placePermanent a0 a1 a2 a3) := by
  unfold placePermanent
  try dsimp only
  exact (ite_kept (upd_alm_kept (putSlot_kept g0)) (upd_alm_kept (putSlot_kept g0)))

theorem placeRecord_kept {a a0 a1 a2} (g0 : Kept a a2) : Kept a (placeRecord a0 a1 a2) := by
  unfold placeRecord
  try dsimp only
  exact (by (try dsimp only); first | (split; exact (placePermanent_kept g0); exact (placeCirculating_kept (ite_kept (addObj_kept g0) g0))) | (split <;> first | exact (placePermanent_kept g0) | exact (placeCirculating_kept (ite_kept (addObj_kept g0) g0))))

theorem appendRecord_kept {a a0 a1} (g0 : Kept a a1) : Kept a (appendRecord a0 a1) := by
  unfold appendRecord
  try dsimp only
  exact (ite_kept (upd_alm_kept (ite_kept (emcy_kept (placeRecord_kept (addObj_kept g0))) (placeRecord_kept (addObj_kept g0)))) (ite_kept (emcy_kept (placeRecord_kept (addObj_kept g0))) (placeRecord_kept (addObj_kept g0))))

theorem captureDiscarded_kept {a a0} (g0 : Kept a a0) : Kept a (captureDiscarded a0) := by
  unfold captureDiscarded
  try dsimp only
  exact (ite_kept g0 (capture_kept (upd_alm_kept g0)))

theorem execRecordAppend_kept {a a0} (g0 : Kept a a0) : KeptOut a (execRecordAppend a0) := by
  unfold execRecordAppend
  try dsimp only
  exact (whenLive_kept g0 (fun _ h0 => (ite_kept (by (try dsimp only); first | (split; exact h0; exact (captureDiscarded_kept (appendRecord_kept (upd_alm_kept h0)))) | (split <;> first | exact h0 | exact (captureDiscarded_kept (appendRecord_kept (upd_alm_kept h0))))) h0)))

theorem restoreAlmanac_kept {a a0} (g0 : Kept a a0) : Kept a (restoreAlmanac a0) := by
  unfold restoreAlmanac
  try dsimp only
  exact (setObj_kept (setObj_kept (upd_alm_kept g0)))

theorem flashWrite_kept {a a0 a1 a2} (g0 : Kept a a2) : Kept a (flashWrite a0 a1 a2) := by
  induction a1 generalizing a0 a2 with
  | nil => exact g0
  | cons b bs ih => exact ih (upd_flash_kept g0)

theorem almanacRead_kept {a a0} (g0 : Kept a a0) : Kept a (almanacRead a0).2 := by
  unfold almanacRead
  try dsimp only
  exact (setObj_kept (ite_kept (upd_alm_kept g0) g0))

theorem execAlmanacDataRead_kept {a a0 a1} (g0 : Kept a a1) : KeptOut a (execAlmanacDataRead a0 a1) := by
  unfold execAlmanacDataRead
  try dsimp only
  exact (whenFree_kept g0 (fun _ h0 => (answer_kept (almanacRead_kept h0))))

theorem execMirrorProgram_kept {a a0 a1} (g0 : Kept a a1) : KeptOut a (execMirrorProgram a0 a1) := by
  unfold execMirrorProgram
  try dsimp only
  exact (whenLive_kept g0 (fun _ h0 => (ite_kept (by (try dsimp only); first | (split; exact h0; exact (ite_kept (flashWrite_kept (upd_alm_kept h0)) (capture_kept (flashWrite_kept (useFree_kept (upd_alm_kept h0)))))) | (split <;> first | exact h0 | exact (ite_kept (flashWrite_kept (upd_alm_kept h0)) (capture_kept (flashWrite_kept (useFree_kept (upd_alm_kept h0))))))) h0)))

theorem execThaw_kept {a a0 a1} (g0 : Kept a a1) : KeptOut a (execThaw a0 a1) := by
  unfold execThaw
  try dsimp only
  exact (whenFree_kept g0 (fun _ h0 => (ackWrite_kept (wAlmanacCommand_kept h0))))

theorem execClearPermanent_kept {a a0 a1} (g0 : Kept a a1) : KeptOut a (execClearPermanent a0 a1) := by
  unfold execClearPermanent
  try dsimp only
  exact (whenFree_kept g0 (fun _ h0 => (ackWrite_kept (wAlmanacCommand_kept h0))))

theorem execPerfSample_kept {a a0 a1} (g0 : Kept a a1) : KeptOut a (execPerfSample a0 a1) := by
  unfold execPerfSample
  try dsimp only
  exact (whenFree_kept g0 (fun _ h0 => (ackWrite_kept (wPerfCommand_kept h0))))

theorem setPStatus_kept {a a0 a1 a2} (g0 : Kept a a2) : Kept a (setPStatus a0 a1 a2) := by
  unfold setPStatus
  try dsimp only
  exact (setObj_kept g0)

theorem applyConfigure_kept {a a0 a1} (g0 : Kept a a1) : Kept a (applyConfigure a0 a1) := by
  unfold applyConfigure
  try dsimp only
  exact (setObj_kept (setObj_kept (updPart_kept (foldl_kept (fun _ _ h0 => (ite_kept (setObj_kept (setObj_kept h0)) (ite_kept (setObj_kept h0) h0))) g0))))

theorem doConfigure_kept {a a0 a1} (g0 : Kept a a1) : Kept a (doConfigure a0 a1).1 := by
  unfold doConfigure
  try dsimp only
  exact (by (try dsimp only); first | (split; exact (fst_kept (setPStatus_kept g0)); exact (fst_kept (setPStatus_kept (applyConfigure_kept g0)))) | (split <;> first | exact (fst_kept (setPStatus_kept g0)) | exact (fst_kept (setPStatus_kept (applyConfigure_kept g0)))))

theorem doStart_kept {a a0 a1} (g0 : Kept a a1) : Kept a (doStart a0 a1).1 := by
  unfold doStart
  try dsimp only
  exact (ite_fst_kept (fst_kept (setPStatus_kept g0)) (fst_kept (setPStatus_kept (setObj_kept g0))))

theorem doStop_kept {a a0 a1} (g0 : Kept a a1) : Kept a (doStop a0 a1).1 := by
  unfold doStop
  try dsimp only
  exact (ite_fst_kept (fst_kept (setPStatus_kept g0)) (fst_kept (setPStatus_kept (startReset_kept g0))))

theorem doReset_kept {a a0 a1} (g0 : Kept a a1) : Kept a (doReset a0 a1).1 := by
  unfold doReset
  try dsimp only
  exact (ite_fst_kept (fst_kept (setPStatus_kept (startReset_kept g0))) (fst_kept (setPStatus_kept g0)))

theorem doPartition_kept {a a0 a1 a2} (g0 : Kept a a2) : Kept a (doPartition a0 a1 a2).1 := by
  unfold doPartition
  try dsimp only
  exact (ite_fst_kept (doConfigure_kept g0) (ite_fst_kept (doStart_kept g0) (ite_fst_kept (doStop_kept g0) (doReset_kept g0))))

theorem wPartitionCommand_kept {a a0 a1 a2 a3} (g0 : Kept a a3) : Kept a (wPartitionCommand a0 a1 a2 a3).1 := by
  unfold wPartitionCommand
  try dsimp only
  exact (ite_fst_kept (fst_kept (refuse_kept g0)) (ite_fst_kept (fst_kept (refuse_kept g0)) (ite_fst_kept (fst_kept (deferEvent_kept g0)) (doPartition_kept g0))))

theorem execPartitionReset_kept {a a0 a1 a2} (g0 : Kept a a2) : KeptOut a (execPartitionReset a0 a1 a2) := by
  unfold execPartitionReset
  try dsimp only
  exact (whenFree_kept g0 (fun _ h0 => (ackWrite_kept (wPartitionCommand_kept h0))))

theorem setLoanStatus_kept {a a0 a1 a2 a3 a4} (g0 : Kept a a4) : Kept a (setLoanStatus a0 a1 a2 a3 a4) := by
  unfold setLoanStatus
  try dsimp only
  exact (setObj_kept g0)

theorem handOver_kept {a a0 a1 a2 a3 a4 a5} (g0 : Kept a a5) : Kept a (handOver a0 a1 a2 a3 a4 a5) := by
  unfold handOver
  try dsimp only
  exact (foldl_kept (fun _ _ h0 => (setObj_kept h0)) (foldl_kept (fun _ _ h0 => (setField_kept h0)) g0))

theorem lendTile_kept {a a0 a1 a2 a3 a4 a5} (g0 : Kept a a5) : Kept a (lendTile a0 a1 a2 a3 a4 a5) := by
  unfold lendTile
  try dsimp only
  exact (ite_kept (handOver_kept g0) (updPart_kept (handOver_kept g0)))

theorem clearAcct_kept {a a0 a1} (g0 : Kept a a1) : Kept a (clearAcct a0 a1) := by
  unfold clearAcct
  try dsimp only
  exact (setAcct_kept g0)

theorem wAcctClear_kept {a a0 a1 a2 a3} (g0 : Kept a a3) : Kept a (wAcctClear a0 a1 a2 a3).1 := by
  unfold wAcctClear
  try dsimp only
  exact (ite_fst_kept (fst_kept (foldl_kept (fun _ _ h0 => (clearAcct_kept h0)) (upd_pt_kept g0))) (ite_fst_kept (fst_kept (clearAcct_kept g0)) (fst_kept (refuse_kept g0))))

theorem execAcctClear_kept {a a0 a1 a2 a3} (g0 : Kept a a3) : KeptOut a (execAcctClear a0 a1 a2 a3) := by
  unfold execAcctClear
  try dsimp only
  exact (whenFree_kept g0 (fun _ h0 => (ackWrite_kept (wAcctClear_kept h0))))

theorem execPartitionStart_kept {a a0 a1 a2} (g0 : Kept a a2) : KeptOut a (execPartitionStart a0 a1 a2) := by
  unfold execPartitionStart
  try dsimp only
  exact (whenFree_kept g0 (fun _ h0 => (ackWrite_kept (wPartitionCommand_kept h0))))

theorem returnLoan_kept {a a0 a1 a2} (g0 : Kept a a2) : Kept a (returnLoan a0 a1 a2) := by
  unfold returnLoan
  try dsimp only
  exact (handOver_kept (foldl_kept (fun _ _ h0 => (setQueue_kept h0)) (foldl_kept (fun _ _ h0 => (by (try dsimp only); first | (split; exact (setPageMap_kept (dropPage_kept h0)); exact h0) | (split <;> first | exact (setPageMap_kept (dropPage_kept h0)) | exact h0))) g0)))

theorem beginReclaim_kept {a a0 a1 a2} (g0 : Kept a a2) : Kept a (beginReclaim a0 a1 a2) := by
  unfold beginReclaim
  try dsimp only
  exact (foldl_kept (fun _ _ h0 => (foldl_kept (fun _ _ h1 => (foldl_kept (fun _ _ h2 => (ite_kept (startKill_kept h2) h2)) h1)) (foldl_kept (fun _ _ h1 => (foldl_kept (fun _ _ h2 => (startKill_kept h2)) (setQueue_kept h1))) h0))) g0)

theorem startReclaim_kept {a a0 a1 a2} (g0 : Kept a a2) : Kept a (startReclaim a0 a1 a2) := by
  unfold startReclaim
  try dsimp only
  exact (by (try dsimp only); first | (split; exact g0; exact (beginReclaim_kept (setLoanStatus_kept (updPart_kept g0)))) | (split <;> first | exact g0 | exact (beginReclaim_kept (setLoanStatus_kept (updPart_kept g0)))))

theorem finishReclaim_kept {a a0 a1 a2} (g0 : Kept a a2) : Kept a (finishReclaim a0 a1 a2) := by
  unfold finishReclaim
  try dsimp only
  exact (releaseResets_kept (ite_kept (setLoanStatus_kept (updPart_kept (foldl_kept (fun _ _ h0 => (returnLoan_kept h0)) g0))) (startReclaim_kept (updPart_kept (foldl_kept (fun _ _ h0 => (returnLoan_kept h0)) g0)))))

theorem markLent_kept {a a0 a1 a2} (g0 : Kept a a2) : Kept a (markLent a0 a1 a2) := by
  unfold markLent
  try dsimp only
  exact (foldl_kept (fun _ _ h0 => (foldl_kept (fun _ _ h1 => (markJob_kept h1)) h0)) g0)

theorem execReclaimComplete_kept {a a0 a1} (g0 : Kept a a1) : KeptOut a (execReclaimComplete a0 a1) := by
  unfold execReclaimComplete
  try dsimp only
  exact (whenLive_kept g0 (fun _ h0 => (by (try dsimp only); first | (split; exact h0; exact (ite_kept (ite_kept (finishReclaim_kept (markLent_kept h0)) (markLent_kept h0)) h0)) | (split <;> first | exact h0 | exact (ite_kept (ite_kept (finishReclaim_kept (markLent_kept h0)) (markLent_kept h0)) h0)))))

theorem readAcct_kept {a a0 a1} (g0 : Kept a a1) : Kept a (readAcct a0 a1).2 := by
  unfold readAcct
  try dsimp only
  exact (setObj_kept (upd_pt_kept g0))

theorem execAcctDataRead_kept {a a0 a1 a2} (g0 : Kept a a2) : KeptOut a (execAcctDataRead a0 a1 a2) := by
  unfold execAcctDataRead
  try dsimp only
  exact (whenFree_kept g0 (fun _ h0 => (answer_kept (readAcct_kept h0))))

theorem execPartitionStop_kept {a a0 a1 a2} (g0 : Kept a a2) : KeptOut a (execPartitionStop a0 a1 a2) := by
  unfold execPartitionStop
  try dsimp only
  exact (whenFree_kept g0 (fun _ h0 => (ackWrite_kept (wPartitionCommand_kept h0))))

theorem wLoanCommand_kept {a a0 a1 a2 a3} (g0 : Kept a a3) : Kept a (wLoanCommand a0 a1 a2 a3).1 := by
  unfold wLoanCommand
  try dsimp only
  exact (ite_fst_kept (fst_kept (refuse_kept g0)) (ite_fst_kept (fst_kept (refuse_kept g0)) (ite_fst_kept (by (try dsimp only); first | (split; exact (fst_kept (setLoanStatus_kept g0)); exact (fst_kept (setLoanStatus_kept (foldl_kept (fun _ _ h0 => (lendTile_kept h0)) g0)))) | (split <;> first | exact (fst_kept (setLoanStatus_kept g0)) | exact (fst_kept (setLoanStatus_kept (foldl_kept (fun _ _ h0 => (lendTile_kept h0)) g0))))) (ite_fst_kept (ite_fst_kept (fst_kept (setLoanStatus_kept g0)) (fst_kept (startReclaim_kept g0))) (ite_fst_kept (fst_kept (setLoanStatus_kept g0)) (fst_kept (startReclaim_kept g0)))))))

theorem execLend_kept {a a0 a1 a2} (g0 : Kept a a2) : KeptOut a (execLend a0 a1 a2) := by
  unfold execLend
  try dsimp only
  exact (whenFree_kept g0 (fun _ h0 => (ackWrite_kept (wLoanCommand_kept h0))))

theorem execPartitionConfigure_kept {a a0 a1 a2} (g0 : Kept a a2) : KeptOut a (execPartitionConfigure a0 a1 a2) := by
  unfold execPartitionConfigure
  try dsimp only
  exact (whenFree_kept g0 (fun _ h0 => (ackWrite_kept (wPartitionCommand_kept h0))))

theorem execReclaimTile_kept {a a0 a1 a2} (g0 : Kept a a2) : KeptOut a (execReclaimTile a0 a1 a2) := by
  unfold execReclaimTile
  try dsimp only
  exact (whenFree_kept g0 (fun _ h0 => (ackWrite_kept (wLoanCommand_kept h0))))

theorem execReclaimAll_kept {a a0 a1 a2} (g0 : Kept a a2) : KeptOut a (execReclaimAll a0 a1 a2) := by
  unfold execReclaimAll
  try dsimp only
  exact (whenFree_kept g0 (fun _ h0 => (ackWrite_kept (wLoanCommand_kept h0))))

theorem beginMove_kept {a a0 a1 a2 a3} (g0 : Kept a a3) : Kept a (beginMove a0 a1 a2 a3).2 := by
  unfold beginMove
  try dsimp only
  exact (by (try dsimp only); first | (split; exact (snd_kept (settlePage_kept g0)); exact (ite_snd_kept (snd_kept (settlePage_kept g0)) (ite_snd_kept (snd_kept (settlePage_kept g0)) (by (try dsimp only); first | (split; exact (snd_kept (settlePage_kept g0)); exact (snd_kept (setC_kept (settlePage_kept g0)))) | (split <;> first | exact (snd_kept (settlePage_kept g0)) | exact (snd_kept (setC_kept (settlePage_kept g0)))))))) | (split <;> first | exact (snd_kept (settlePage_kept g0)) | exact (ite_snd_kept (snd_kept (settlePage_kept g0)) (ite_snd_kept (snd_kept (settlePage_kept g0)) (by (try dsimp only); first | (split; exact (snd_kept (settlePage_kept g0)); exact (snd_kept (setC_kept (settlePage_kept g0)))) | (split <;> first | exact (snd_kept (settlePage_kept g0)) | exact (snd_kept (setC_kept (settlePage_kept g0)))))))))

theorem beginRebuild_kept {a a0} (g0 : Kept a a0) : Kept a (beginRebuild a0) := by
  unfold beginRebuild
  try dsimp only
  exact (by (try dsimp only); first | (split; exact (upd_ci_kept g0); exact (ite_kept (upd_ci_kept g0) (upd_ci_kept (beginMove_kept g0)))) | (split <;> first | exact (upd_ci_kept g0) | exact (ite_kept (upd_ci_kept g0) (upd_ci_kept (beginMove_kept g0)))))

theorem startRebuild_kept {a a0} (g0 : Kept a a0) : Kept a (startRebuild a0) := by
  unfold startRebuild
  try dsimp only
  exact (beginRebuild_kept (setCisternState_kept g0))

theorem redoMove_kept {a a0 a1 a2} (g0 : Kept a a2) : Kept a (redoMove a0 a1 a2).2 := by
  unfold redoMove
  try dsimp only
  exact (by (try dsimp only); first | (split; exact (by (try dsimp only); first | (split; exact (ite_snd_kept (snd_kept (setC_kept g0)) (snd_kept g0)); exact (snd_kept g0)) | (split <;> first | exact (ite_snd_kept (snd_kept (setC_kept g0)) (snd_kept g0)) | exact (snd_kept g0))); exact (snd_kept g0)) | (split <;> first | exact (by (try dsimp only); first | (split; exact (ite_snd_kept (snd_kept (setC_kept g0)) (snd_kept g0)); exact (snd_kept g0)) | (split <;> first | exact (ite_snd_kept (snd_kept (setC_kept g0)) (snd_kept g0)) | exact (snd_kept g0))) | exact (snd_kept g0)))

theorem dropMove_kept {a a0 a1} (g0 : Kept a a1) : Kept a (dropMove a0 a1) := by
  unfold dropMove
  try dsimp only
  exact (by (try dsimp only); first | (split; exact (setC_kept g0); exact g0) | (split <;> first | exact (setC_kept g0) | exact g0))

theorem tryRebuild_kept {a a0 a1} (g0 : Kept a a1) : Kept a (tryRebuild a0 a1) := by
  unfold tryRebuild
  try dsimp only
  exact (ite_kept (startRebuild_kept g0) (capture_kept (capture_kept g0)))

theorem killWriters_kept {a a0 a1} (g0 : Kept a a1) : Kept a (killWriters a0 a1) := by
  unfold killWriters
  try dsimp only
  exact (foldl_kept (fun _ _ h0 => (foldl_kept (fun _ _ h1 => (ite_kept (startKill_kept h1) h1)) h0)) g0)

theorem loseStack_kept {a a0 a1} (g0 : Kept a a1) : Kept a (loseStack a0 a1) := by
  have h1 : ∀ {s x y z w}, Kept a s → Kept a { s with ci := { s.ci with pcRetrain := x, pcWaiting := y, lostPcs := z, stale := w } } :=
    fun h => upd_ci_kept h
  have h2 : ∀ {s x}, Kept a s → Kept a { s with ci := { s.ci with moving := x } } := fun h => upd_ci_kept h
  have h3 : ∀ {s x}, Kept a s → Kept a { s with ci := { s.ci with rebuilding := x } } := fun h => upd_ci_kept h
  have h4 : ∀ {x s}, Kept a s → Kept a { (redoMove a0 x s).2 with ci := { (redoMove a0 x s).2.ci with moving := (redoMove a0 x s).1 } } :=
    fun h => h2 (redoMove_kept h)
  have h5 := fun {x} {y} {z} {w} => h1 (x := x) (y := y) (z := z) (w := w) (setStackState_kept (a0 := a0) (a1 := 4) g0)
  unfold loseStack
  exact ite_kept (capture_kept (setCisternState_kept (h3 (dropMove_kept (killWriters_kept (h4 h5))))))
    (tryRebuild_kept (capture_kept (setCisternState_kept (killWriters_kept (h4 h5)))))

theorem learn_kept {a a0 a1 a2 a3 a4 a5} (g0 : Kept a a5) : Kept a (learn a0 a1 a2 a3 a4 a5) := by
  unfold learn
  try dsimp only
  exact (ite_kept (capture_kept (setObj_kept (upd_fab_kept g0))) (capture_kept (addObj_kept (upd_fab_kept g0))))

theorem execStackLost_kept {a a0 a1} (g0 : Kept a a1) : KeptOut a (execStackLost a0 a1) := by
  unfold execStackLost
  try dsimp only
  exact (whenLive_kept g0 (fun _ h0 => (ite_kept (loseStack_kept (learn_kept h0)) h0)))

theorem setLastError_kept {a a0 a1 a2} (g0 : Kept a a2) : Kept a (setLastError a0 a1 a2) := by
  unfold setLastError
  try dsimp only
  exact (setObj_kept g0)

theorem wRetireStack_kept {a a0 a1 a2} (g0 : Kept a a2) : Kept a (wRetireStack a0 a1 a2).1 := by
  unfold wRetireStack
  try dsimp only
  exact (ite_fst_kept (fst_kept (refuse_kept g0)) (ite_fst_kept (fst_kept (refuse_kept g0)) (fst_kept (loseStack_kept g0))))

theorem damagePage_kept {a a0 a1} (g0 : Kept a a1) : Kept a (damagePage a0 a1) := by
  unfold damagePage
  try dsimp only
  exact (ite_kept (capture_kept g0) (jobFault_kept (capture_kept (addObj_kept (upd_ci_kept g0)))))

theorem reconstruct_kept {a a0 a1 a2} (g0 : Kept a a2) : Kept a (reconstruct a0 a1 a2) := by
  unfold reconstruct
  try dsimp only
  exact (ite_kept (readMembers_kept g0) (countLines_kept (readMembers_kept g0)))

theorem zeroLine_kept {a a0 a1 a2} (g0 : Kept a a2) : Kept a (zeroLine a0 a1 a2) := by
  unfold zeroLine
  try dsimp only
  exact (setC_kept g0)

theorem lineRead_kept {a a0 a1 a2 a3} (g0 : Kept a a3) : Kept a (lineRead a0 a1 a2 a3) := by
  unfold lineRead
  try dsimp only
  exact (by (try dsimp only); first | (split; exact (ite_kept g0 (countLines_kept g0)); exact (setLastError_kept (countLines_kept (perfCount_kept (ite_kept g0 (countLines_kept g0))))); exact (setLastError_kept (reconstruct_kept (ite_kept g0 (countLines_kept g0)))); exact (damagePage_kept (zeroLine_kept (setLastError_kept (ite_kept g0 (countLines_kept g0)))))) | (split <;> first | exact (ite_kept g0 (countLines_kept g0)) | exact (setLastError_kept (countLines_kept (perfCount_kept (ite_kept g0 (countLines_kept g0))))) | exact (setLastError_kept (reconstruct_kept (ite_kept g0 (countLines_kept g0)))) | exact (damagePage_kept (zeroLine_kept (setLastError_kept (ite_kept g0 (countLines_kept g0)))))))

theorem execCisternLineRead_kept {a a0 a1 a2 a3 a4} (g0 : Kept a a4) : KeptOut a (execCisternLineRead a0 a1 a2 a3 a4) := by
  unfold execCisternLineRead
  try dsimp only
  exact (whenLive_kept g0 (fun _ h0 => (ite_kept (ite_kept (perturb_kept (ite_kept (perturb_kept (lineRead_kept h0)) (lineRead_kept h0))) (ite_kept (perturb_kept (lineRead_kept h0)) (lineRead_kept h0))) h0)))

theorem refuseCapacity_kept {a a0 a1 a2 a3 a4} (g0 : Kept a a4) : Kept a (refuseCapacity a0 a1 a2 a3 a4).1 := by
  unfold refuseCapacity
  try dsimp only
  exact (refuse_kept (capture_kept g0))

theorem retryRebuild_kept {a a0} (g0 : Kept a a0) : Kept a (retryRebuild a0) := by
  unfold retryRebuild
  try dsimp only
  exact (ite_kept (startRebuild_kept g0) g0)

theorem wMargin_kept {a a0 a1 a2} (g0 : Kept a a2) : Kept a (wMargin a0 a1 a2).1 := by
  unfold wMargin
  try dsimp only
  exact (ite_fst_kept (fst_kept (refuse_kept g0)) (ite_fst_kept (fst_kept (retryRebuild_kept (setObj_kept g0))) (refuseCapacity_kept g0)))

theorem beginPage_kept {a a0} (g0 : Kept a a0) : Kept a (beginPage a0) := by
  unfold beginPage
  try dsimp only
  exact (by (try dsimp only); first | (split; exact g0; exact (upd_ci_kept (beginMove_kept g0))) | (split <;> first | exact g0 | exact (upd_ci_kept (beginMove_kept g0))))

theorem movePage_kept {a a0 a1 a2} (g0 : Kept a a2) : Kept a (movePage a0 a1 a2) := by
  have h1 : ∀ {s x y}, Kept a s → Kept a { s with ci := { s.ci with serial := x }, now := y } := fun h => { h with }
  unfold movePage
  exact h1 (setC_kept (pushVersion_kept (setC_kept g0)))

theorem switchPage_kept {a a0 a1} (g0 : Kept a a1) : Kept a (switchPage a0 a1) := by
  unfold switchPage
  split
  · exact movePage_kept g0
  · exact setC_kept g0
  · exact g0

theorem setMigrateStatus_kept {a a0 a1 a2} (g0 : Kept a a2) : Kept a (setMigrateStatus a0 a1 a2) := by
  unfold setMigrateStatus
  try dsimp only
  exact (setObj_kept g0)

theorem migrateStep_kept {a a0} (g0 : Kept a a0) : Kept a (migrateStep a0) := by
  unfold migrateStep
  try dsimp only
  exact (by (try dsimp only); first | (split; exact (ite_kept (ite_kept (setMigrateStatus_kept (upd_ci_kept (switchPage_kept g0))) (beginPage_kept (setMigrateStatus_kept (upd_ci_kept (switchPage_kept g0))))) (beginPage_kept g0)); exact g0) | (split <;> first | exact (ite_kept (ite_kept (setMigrateStatus_kept (upd_ci_kept (switchPage_kept g0))) (beginPage_kept (setMigrateStatus_kept (upd_ci_kept (switchPage_kept g0))))) (beginPage_kept g0)) | exact g0))

theorem wMigrate_kept {a a0 a1 a2} (g0 : Kept a a2) : Kept a (wMigrate a0 a1 a2).1 := by
  unfold wMigrate
  try dsimp only
  exact (ite_fst_kept (ite_fst_kept (fst_kept (refuse_kept g0)) (ite_fst_kept (fst_kept (beginPage_kept (setMigrateStatus_kept (upd_ci_kept g0)))) (fst_kept (refuse_kept (setMigrateStatus_kept g0))))) (ite_fst_kept (ite_fst_kept (fst_kept (setMigrateStatus_kept (upd_ci_kept (dropMove_kept g0)))) (fst_kept (refuse_kept g0))) (fst_kept (refuse_kept g0))))

theorem execMigrateAbort_kept {a a0 a1} (g0 : Kept a a1) : KeptOut a (execMigrateAbort a0 a1) := by
  unfold execMigrateAbort
  try dsimp only
  exact (whenFree_kept g0 (fun _ h0 => (ackWrite_kept (wMigrate_kept h0))))

theorem rebuildStep_kept {a a0} (g0 : Kept a a0) : Kept a (rebuildStep a0) := by
  unfold rebuildStep
  try dsimp only
  exact (by (try dsimp only); first | (split; exact (ite_kept (beginRebuild_kept (switchPage_kept g0)) (beginRebuild_kept g0)); exact (beginRebuild_kept g0)) | (split <;> first | exact (ite_kept (beginRebuild_kept (switchPage_kept g0)) (beginRebuild_kept g0)) | exact (beginRebuild_kept g0)))

theorem wPlacement_kept {a a0 a1 a2 a3} (g0 : Kept a a3) : Kept a (wPlacement a0 a1 a2 a3).1 := by
  unfold wPlacement
  try dsimp only
  exact (ite_fst_kept (fst_kept (refuse_kept g0)) (ite_fst_kept (fst_kept (refuse_kept g0)) (fst_kept (setObj_kept g0))))

theorem wReserve_kept {a a0 a1 a2 a3} (g0 : Kept a a3) : Kept a (wReserve a0 a1 a2 a3).1 := by
  unfold wReserve
  try dsimp only
  exact (ite_fst_kept (fst_kept (refuse_kept g0)) (ite_fst_kept (fst_kept (refuse_kept g0)) (ite_fst_kept (fst_kept (retryRebuild_kept (setObj_kept g0))) (refuseCapacity_kept g0))))

theorem wSpan_kept {a a0 a1 a2 a3} (g0 : Kept a a3) : Kept a (wSpan a0 a1 a2 a3).1 := by
  unfold wSpan
  try dsimp only
  exact (ite_fst_kept (fst_kept (refuse_kept g0)) (ite_fst_kept (fst_kept (refuse_kept g0)) (fst_kept (setObj_kept g0))))

theorem execRegionWrite_kept {a a0 a1 a2 a3 a4} (g0 : Kept a a4) : KeptOut a (execRegionWrite a0 a1 a2 a3 a4) := by
  unfold execRegionWrite
  try dsimp only
  exact (whenFree_kept g0 (fun _ h0 => (ite_kept (ackWrite_kept (wSpan_kept h0)) (ite_kept (ackWrite_kept (wReserve_kept h0)) (ackWrite_kept (wPlacement_kept h0))))))

theorem execRetiredSlotFree_kept {a a0 a1} (g0 : Kept a a1) : KeptOut a (execRetiredSlotFree a0 a1) := by
  unfold execRetiredSlotFree
  try dsimp only
  exact (whenLive_kept g0 (fun _ h0 => (ite_kept (freeSlotAt_kept h0) h0)))

theorem execTagSettle_kept {a a0 a1} (g0 : Kept a a1) : KeptOut a (execTagSettle a0 a1) := by
  unfold execTagSettle
  try dsimp only
  exact (whenLive_kept g0 (fun _ h0 => (settleTag_kept h0)))

theorem startRetrain_kept {a a0 a1 a2} (g0 : Kept a a2) : Kept a (startRetrain a0 a1 a2) := by
  unfold startRetrain
  try dsimp only
  exact (setStackState_kept (upd_ci_kept g0))

theorem nextRetrain_kept {a a0} (g0 : Kept a a0) : Kept a (nextRetrain a0) := by
  unfold nextRetrain
  try dsimp only
  exact (by (try dsimp only); first | (split; exact (ite_kept (startRetrain_kept (upd_ci_kept g0)) g0); exact g0) | (split <;> first | exact (ite_kept (startRetrain_kept (upd_ci_kept g0)) g0) | exact g0))

theorem execPcRetrainComplete_kept {a a0 a1 a2 a3} (g0 : Kept a a3) : KeptOut a (execPcRetrainComplete a0 a1 a2 a3) := by
  unfold execPcRetrainComplete
  try dsimp only
  exact (whenLive_kept g0 (fun _ h0 => (ite_kept (nextRetrain_kept (ite_kept (loseStack_kept (learn_kept (capture_kept (ite_kept (setStackState_kept (upd_ci_kept h0)) (learn_kept (setStackState_kept (upd_ci_kept h0))))))) (capture_kept (ite_kept (setStackState_kept (upd_ci_kept h0)) (learn_kept (setStackState_kept (upd_ci_kept h0))))))) h0)))

theorem execMigrateStart_kept {a a0 a1} (g0 : Kept a a1) : KeptOut a (execMigrateStart a0 a1) := by
  unfold execMigrateStart
  try dsimp only
  exact (whenFree_kept g0 (fun _ h0 => (ackWrite_kept (wMigrate_kept h0))))

theorem execScrubRead_kept {a a0 a1 a2 a3} (g0 : Kept a a3) : KeptOut a (execScrubRead a0 a1 a2 a3) := by
  unfold execScrubRead
  try dsimp only
  exact (whenLive_kept g0 (fun _ h0 => (ite_kept (lineRead_kept h0) h0)))

theorem endMigration_kept {a a0} (g0 : Kept a a0) : Kept a (endMigration a0) := by
  unfold endMigration
  try dsimp only
  exact (ite_kept (setMigrateStatus_kept (upd_ci_kept g0)) g0)

theorem execPcRetrainStart_kept {a a0 a1 a2} (g0 : Kept a a2) : KeptOut a (execPcRetrainStart a0 a1 a2) := by
  unfold execPcRetrainStart
  try dsimp only
  exact (whenLive_kept g0 (fun _ h0 => (ite_kept h0 (ite_kept (upd_ci_kept h0) (startRetrain_kept h0)))))

theorem execPageMigrationSwitch_kept {a a0} (g0 : Kept a a0) : KeptOut a (execPageMigrationSwitch a0) := by
  unfold execPageMigrationSwitch
  try dsimp only
  exact (whenLive_kept g0 (fun _ h0 => (ite_kept (ite_kept (ite_kept (rebuildStep_kept (useFree_kept h0)) (migrateStep_kept (useFree_kept h0))) (rebuildStep_kept h0)) (migrateStep_kept h0))))

theorem execRebuildComplete_kept {a a0} (g0 : Kept a a0) : KeptOut a (execRebuildComplete a0) := by
  have h3 : ∀ {s x}, Kept a s → Kept a { s with ci := { s.ci with rebuilding := x } } := fun h => upd_ci_kept h
  unfold execRebuildComplete
  refine whenLive_kept g0 (fun s h => ?_)
  exact ite_kept (capture_kept (h3 (setObj_kept (setCisternState_kept (foldl_kept (fun _ _ h1 => setStackState_kept h1) h))))) h

theorem execRetireStack_kept {a a0 a1 a2} (g0 : Kept a a2) : KeptOut a (execRetireStack a0 a1 a2) := by
  unfold execRetireStack
  try dsimp only
  exact (whenFree_kept g0 (fun _ h0 => (ackWrite_kept (wRetireStack_kept h0))))

theorem updSeq_kept {a a0 a1 a2} (g0 : Kept a a2) : Kept a (updSeq a0 a1 a2) := by
  unfold updSeq
  try dsimp only
  exact (setSeq_kept g0)

theorem updWatched_kept {a a0 a1 a2 a3} (g0 : Kept a a3) : Kept a (updWatched a0 a1 a2 a3) := by
  unfold updWatched
  try dsimp only
  exact (setWatched_kept g0)

theorem startFallback_kept {a a0 a1 a2} (g0 : Kept a a2) : Kept a (startFallback a0 a1 a2) := by
  unfold startFallback
  try dsimp only
  exact (by (try dsimp only); first | (split; exact g0; exact (by (try dsimp only); first | (split; exact g0; exact (upd_st_kept (updWatched_kept g0))) | (split <;> first | exact g0 | exact (upd_st_kept (updWatched_kept g0))))) | (split <;> first | exact g0 | exact (by (try dsimp only); first | (split; exact g0; exact (upd_st_kept (updWatched_kept g0))) | (split <;> first | exact g0 | exact (upd_st_kept (updWatched_kept g0))))))

theorem abandonStep_kept {a a0 a1 a2} (g0 : Kept a a2) : Kept a (abandonStep a0 a1 a2) := by
  unfold abandonStep
  try dsimp only
  exact (ite_kept (by (try dsimp only); first | (split; exact (settleHead_kept (abandonSlot_kept g0)); exact (startKill_kept g0); exact (startKill_kept g0); exact (startKill_kept g0); exact g0) | (split <;> first | exact (settleHead_kept (abandonSlot_kept g0)) | exact (startKill_kept g0) | exact g0)) g0)

theorem abandonOutputs_kept {a a0 a1 a2} (g0 : Kept a a2) : Kept a (abandonOutputs a0 a1 a2) := by
  unfold abandonOutputs
  try dsimp only
  exact (foldl_kept (fun _ _ h0 => (abandonStep_kept h0)) (setSeq_kept g0))

theorem decideFallback_kept {a a0 a1 a2 a3} (g0 : Kept a a3) : Kept a (decideFallback a0 a1 a2 a3) := by
  unfold decideFallback
  try dsimp only
  exact (startFallback_kept (abandonOutputs_kept (updWatched_kept g0)))

theorem handFrame_kept {a a0 a1 a2} (g0 : Kept a a2) : Kept a (handFrame a0 a1 a2) := by
  unfold handFrame
  try dsimp only
  exact (ite_kept (decideFallback_kept (updSeq_kept (setWatched_kept g0))) (by (try dsimp only); first | (split; exact (ite_kept (decideFallback_kept g0) g0); exact g0) | (split <;> first | exact (ite_kept (decideFallback_kept g0) g0) | exact g0)))

theorem pruneWatched_kept {a a0 a1} (g0 : Kept a a1) : Kept a (pruneWatched a0 a1) := by
  unfold pruneWatched
  try dsimp only
  exact (setWatched_kept g0)

theorem ringPresent_kept {a a0 a1 a2} (g0 : Kept a a2) : Kept a (ringPresent a0 a1 a2) := by
  unfold ringPresent
  try dsimp only
  exact (ite_kept (setRing_kept (addObj_kept g0)) (ite_kept g0 (by (try dsimp only); first | (split; exact (setRing_kept (setObj_kept g0)); exact (setRing_kept (addObj_kept g0))) | (split <;> first | exact (setRing_kept (setObj_kept g0)) | exact (setRing_kept (addObj_kept g0))))))

theorem presentFrame_kept {a a0 a1 a2 a3} (g0 : Kept a a3) : Kept a (presentFrame a0 a1 a2 a3) := by
  unfold presentFrame
  try dsimp only
  exact (pruneWatched_kept (ite_kept (setPort_kept (ite_kept (addObj_kept (setObj_kept (updWatched_kept g0))) (setObj_kept (updWatched_kept g0)))) (ringPresent_kept (ite_kept (addObj_kept (setObj_kept (updWatched_kept g0))) (setObj_kept (updWatched_kept g0))))))

theorem execLateCheck_kept {a a0 a1} (g0 : Kept a a1) : KeptOut a (execLateCheck a0 a1) := by
  unfold execLateCheck
  try dsimp only
  exact (whenLive_kept g0 (fun _ h0 => (by (try dsimp only); first | (split; exact h0; exact (ite_kept (presentFrame_kept h0) (presentFrame_kept (capture_kept (addObj_kept (addObj_kept h0)))))) | (split <;> first | exact h0 | exact (ite_kept (presentFrame_kept h0) (presentFrame_kept (capture_kept (addObj_kept (addObj_kept h0)))))))))

theorem handFrames_kept {a a0 a1 a2 a3} (g0 : Kept a a3) : Kept a (handFrames a0 a1 a2 a3) := by
  unfold handFrames
  try dsimp only
  exact (foldl_kept (fun _ _ h0 => (handFrame_kept h0)) g0)

theorem setOverlay_kept {a a0 a1 a2} (g0 : Kept a a2) : Kept a (setOverlay a0 a1 a2) := by
  unfold setOverlay
  try dsimp only
  exact (upd_st_kept g0)

theorem noteSlack_kept {a a0 a1 a2} (g0 : Kept a a2) : Kept a (noteSlack a0 a1 a2) := by
  unfold noteSlack
  try dsimp only
  exact (ite_kept (setObj_kept g0) g0)

theorem switchFrame_kept {a a0 a1 a2} (g0 : Kept a a2) : Kept a (switchFrame a0 a1 a2) := by
  unfold switchFrame
  have h1 : ∀ {x y p q r}, Kept a (decideFallback a0 a1.o true (useFree (capture 0x0407 p a0 q r 0 (setObj x y (addObj (oDlmSwitches a0) 1 (addObj oDlmSwitchesTotal 1 a2)))))) :=
    decideFallback_kept (useFree_kept (capture_kept (setObj_kept (addObj_kept (addObj_kept g0)))))
  dsimp only
  split
  · exact noteSlack_kept h1
  · exact h1

theorem execFallbackPublishStep_kept {a a0 a1} (g0 : Kept a a1) : KeptOut a (execFallbackPublishStep a0 a1) := by
  unfold execFallbackPublishStep
  try dsimp only
  exact (whenLive_kept g0 (fun _ h0 => (by (try dsimp only); first | (split; exact h0; exact (by (try dsimp only); first | (split; exact (upd_st_kept h0); exact (by (try dsimp only); first | (split; exact (upd_st_kept h0); exact (ite_kept h0 (ite_kept (updWatched_kept (upd_st_kept (publishTail_kept (updSlot_kept h0)))) (upd_st_kept (publishTail_kept (updSlot_kept h0)))))) | (split <;> first | exact (upd_st_kept h0) | exact (ite_kept h0 (ite_kept (updWatched_kept (upd_st_kept (publishTail_kept (updSlot_kept h0)))) (upd_st_kept (publishTail_kept (updSlot_kept h0)))))))) | (split <;> first | exact (upd_st_kept h0) | exact (by (try dsimp only); first | (split; exact (upd_st_kept h0); exact (ite_kept h0 (ite_kept (updWatched_kept (upd_st_kept (publishTail_kept (updSlot_kept h0)))) (upd_st_kept (publishTail_kept (updSlot_kept h0)))))) | (split <;> first | exact (upd_st_kept h0) | exact (ite_kept h0 (ite_kept (updWatched_kept (upd_st_kept (publishTail_kept (updSlot_kept h0)))) (upd_st_kept (publishTail_kept (updSlot_kept h0)))))))))) | (split <;> first | exact h0 | exact (by (try dsimp only); first | (split; exact (upd_st_kept h0); exact (by (try dsimp only); first | (split; exact (upd_st_kept h0); exact (ite_kept h0 (ite_kept (updWatched_kept (upd_st_kept (publishTail_kept (updSlot_kept h0)))) (upd_st_kept (publishTail_kept (updSlot_kept h0)))))) | (split <;> first | exact (upd_st_kept h0) | exact (ite_kept h0 (ite_kept (updWatched_kept (upd_st_kept (publishTail_kept (updSlot_kept h0)))) (upd_st_kept (publishTail_kept (updSlot_kept h0)))))))) | (split <;> first | exact (upd_st_kept h0) | exact (by (try dsimp only); first | (split; exact (upd_st_kept h0); exact (ite_kept h0 (ite_kept (updWatched_kept (upd_st_kept (publishTail_kept (updSlot_kept h0)))) (upd_st_kept (publishTail_kept (updSlot_kept h0)))))) | (split <;> first | exact (upd_st_kept h0) | exact (ite_kept h0 (ite_kept (updWatched_kept (upd_st_kept (publishTail_kept (updSlot_kept h0)))) (upd_st_kept (publishTail_kept (updSlot_kept h0)))))))))))))

theorem execCheckpoint_kept {a a0 a1} (g0 : Kept a a1) : KeptOut a (execCheckpoint a0 a1) := by
  unfold execCheckpoint
  try dsimp only
  exact (whenLive_kept g0 (fun _ h0 => (by (try dsimp only); first | (split; exact h0; exact (ite_kept h0 (ite_kept (presentFrame_kept (noteSlack_kept (updWatched_kept h0))) (switchFrame_kept h0)))) | (split <;> first | exact h0 | exact (ite_kept h0 (ite_kept (presentFrame_kept (noteSlack_kept (updWatched_kept h0))) (switchFrame_kept h0)))))))

theorem addSource_kept {a a0 a1 a2} (g0 : Kept a a2) : Kept a (addSource a0 a1 a2) := by
  unfold addSource
  try dsimp only
  exact (by (try dsimp only); first | (split; exact g0; exact (by (try dsimp only); first | (split; exact g0; exact (updSeq_kept g0)) | (split <;> first | exact g0 | exact (updSeq_kept g0)))) | (split <;> first | exact g0 | exact (by (try dsimp only); first | (split; exact g0; exact (updSeq_kept g0)) | (split <;> first | exact g0 | exact (updSeq_kept g0)))))

theorem execSourceGap_kept {a a0 a1} (g0 : Kept a a1) : KeptOut a (execSourceGap a0 a1) := by
  unfold execSourceGap
  try dsimp only
  exact (whenLive_kept g0 (fun _ h0 => (ite_kept (handFrames_kept (capture_kept (setObj_kept (addObj_kept (updSeq_kept h0))))) h0)))

theorem deferFrame_kept {a a0 a1 a2} (g0 : Kept a a2) : Kept a (deferFrame a0 a1 a2) := by
  unfold deferFrame
  try dsimp only
  exact (deferEvent_kept (updSeq_kept g0))

theorem setSeqStatus_kept {a a0 a1 a2 a3 a4} (g0 : Kept a a4) : Kept a (setSeqStatus a0 a1 a2 a3 a4) := by
  unfold setSeqStatus
  try dsimp only
  exact (setObj_kept g0)

theorem publishOne_kept {a a0 a1 a2 a3 a4 a5 a6 a7} (g0 : Kept a a7) : Kept a (publishOne a0 a1 a2 a3 a4 a5 a6 a7) := by
  unfold publishOne
  try dsimp only
  exact (ite_kept (ite_kept (abandonStep_kept (publishTail_kept (updSlot_kept (ite_kept (updWatched_kept (setSeq_kept g0)) (setSeq_kept g0))))) (publishTail_kept (updSlot_kept (ite_kept (updWatched_kept (setSeq_kept g0)) (setSeq_kept g0))))) (upd_st_kept (ite_kept (abandonStep_kept (publishTail_kept (updSlot_kept (ite_kept (updWatched_kept (setSeq_kept g0)) (setSeq_kept g0))))) (publishTail_kept (updSlot_kept (ite_kept (updWatched_kept (setSeq_kept g0)) (setSeq_kept g0)))))))

theorem startWarm_kept {a a0 a1 a2} (g0 : Kept a a2) : Kept a (startWarm a0 a1 a2) := by
  unfold startWarm
  try dsimp only
  exact (capture_kept (setObj_kept (setSeq_kept g0)))

theorem dropFresh_kept {a a0 a1} (g0 : Kept a a1) : Kept a (dropFresh a0 a1) := by
  unfold dropFresh
  try dsimp only
  exact (by (try dsimp only); first | (split; exact g0; exact (updSeq_kept g0)) | (split <;> first | exact g0 | exact (updSeq_kept g0)))

theorem declareCut_kept {a a0 a1 a2 a3} (g0 : Kept a a3) : Kept a (declareCut a0 a1 a2 a3) := by
  unfold declareCut
  try dsimp only
  exact (ite_kept g0 (capture_kept (startWarm_kept (handFrames_kept (dropFresh_kept (setSeq_kept g0))))))

theorem compareCut_kept {a a0 a1 a2} (g0 : Kept a a2) : Kept a (compareCut a0 a1 a2) := by
  unfold compareCut
  try dsimp only
  exact (ite_kept (declareCut_kept (updSeq_kept g0)) (updSeq_kept g0))

theorem noticeCuts_kept {a a0} (g0 : Kept a a0) : Kept a (noticeCuts a0) := by
  unfold noticeCuts
  try dsimp only
  exact (foldl_kept (fun _ _ h0 => (foldl_kept (fun _ _ h1 => (compareCut_kept h1)) h0)) g0)

theorem execSyncUpdateApply_kept {a a0 a1} (g0 : Kept a a1) : KeptOut a (execSyncUpdateApply a0 a1) := by
  unfold execSyncUpdateApply
  try dsimp only
  exact (whenLive_kept g0 (fun _ h0 => (noticeCuts_kept (applyFrom_kept h0))))

theorem stopNow_kept {a a0 a1} (g0 : Kept a a1) : Kept a (stopNow a0 a1) := by
  unfold stopNow
  try dsimp only
  exact (setObj_kept (updSeq_kept (foldl_kept (fun _ _ h0 => (handFrame_kept h0)) (setWatched_kept g0))))

theorem addOutput_kept {a a0 a1 a2 a3} (g0 : Kept a a3) : Kept a (addOutput a0 a1 a2 a3) := by
  unfold addOutput
  try dsimp only
  exact (by (try dsimp only); first | (split; exact (handFrame_kept g0); exact (by (try dsimp only); first | (split; exact (handFrame_kept g0); exact (updSeq_kept (setWatched_kept g0))) | (split <;> first | exact (handFrame_kept g0) | exact (updSeq_kept (setWatched_kept g0))))) | (split <;> first | exact (handFrame_kept g0) | exact (by (try dsimp only); first | (split; exact (handFrame_kept g0); exact (updSeq_kept (setWatched_kept g0))) | (split <;> first | exact (handFrame_kept g0) | exact (updSeq_kept (setWatched_kept g0))))))

theorem noticeWatched_kept {a a0 a1 a2} (g0 : Kept a a2) : Kept a (noticeWatched a0 a1 a2) := by
  unfold noticeWatched
  try dsimp only
  exact (pruneWatched_kept (foldl_kept (fun _ _ h0 => (ite_kept (noteSlack_kept h0) h0)) (setWatched_kept g0)))

theorem noticeSteps_kept {a a0 a1} (g0 : Kept a a1) : Kept a (noticeSteps a0 a1) := by
  unfold noticeSteps
  try dsimp only
  exact (foldl_kept (fun _ _ h0 => (ite_kept h0 (setSeq_kept (noticeWatched_kept h0)))) g0)

theorem storeRing_kept {a a0 a1 a2 a3} (g0 : Kept a a3) : Kept a (storeRing a0 a1 a2 a3) := by
  unfold storeRing
  try dsimp only
  exact (updSeq_kept g0)

theorem undoAdmission_kept {a a0 a1 a2} (g0 : Kept a a2) : Kept a (undoAdmission a0 a1 a2) := by
  unfold undoAdmission
  try dsimp only
  exact (upd_st_kept (setWatched_kept (updSeq_kept g0)))

theorem finishStop_kept {a a0 a1} (g0 : Kept a a1) : Kept a (finishStop a0 a1) := by
  unfold finishStop
  try dsimp only
  exact (capture_kept (setSeqStatus_kept (setObj_kept (upd_st_kept (setWatched_kept (setSeq_kept (setObj_kept g0)))))))

theorem seqStop_kept {a a0 a1} (g0 : Kept a a1) : Kept a (seqStop a0 a1) := by
  unfold seqStop
  try dsimp only
  exact (ite_kept (finishStop_kept g0) (ite_kept (by (try dsimp only); first | (split; exact (stopNow_kept (undoAdmission_kept g0)); exact (updSeq_kept g0)) | (split <;> first | exact (stopNow_kept (undoAdmission_kept g0)) | exact (updSeq_kept g0))) g0))

theorem noteAdmitted_kept {a a0 a1 a2} (g0 : Kept a a2) : Kept a (noteAdmitted a0 a1 a2) := by
  unfold noteAdmitted
  try dsimp only
  exact (setObj_kept (updSeq_kept (upd_now_kept g0)))

theorem joinStream_kept {a a0 a1 a2} (g0 : Kept a a2) : Kept a (joinStream a0 a1 a2) := by
  unfold joinStream
  try dsimp only
  exact (handFrame_kept (addSource_kept (ite_kept (declareCut_kept (noteAdmitted_kept (setObj_kept (setObj_kept (setSeq_kept g0))))) (startWarm_kept (noteAdmitted_kept (setObj_kept (setObj_kept (setSeq_kept g0))))))))

theorem admitFrame_kept {a a0 a1 a2} (g0 : Kept a a2) : Kept a (admitFrame a0 a1 a2) := by
  unfold admitFrame
  try dsimp only
  exact (ite_kept (stopNow_kept (noteAdmitted_kept g0)) (ite_kept (handFrames_kept (updSeq_kept (addSource_kept (ite_kept (declareCut_kept (updSeq_kept (noteAdmitted_kept g0))) (ite_kept (startWarm_kept (updSeq_kept (noteAdmitted_kept g0))) (noteAdmitted_kept g0)))))) (addOutput_kept (foldl_kept (fun _ _ h0 => (ite_kept (addOutput_kept h0) (handFrame_kept h0))) (addSource_kept (ite_kept (declareCut_kept (updSeq_kept (noteAdmitted_kept g0))) (ite_kept (startWarm_kept (updSeq_kept (noteAdmitted_kept g0))) (noteAdmitted_kept g0))))))))

theorem takeFrameIn_kept {a a0 a1} (g0 : Kept a a1) : Kept a (takeFrameIn a0 a1) := by
  unfold takeFrameIn
  try dsimp only
  exact (by (try dsimp only); first | (split; exact g0; exact (by (try dsimp only); first | (split; exact (joinStream_kept (updSeq_kept g0)); exact (admitFrame_kept (updSeq_kept g0)); exact (admitFrame_kept (updSeq_kept g0)); exact (updSeq_kept g0)) | (split <;> first | exact (joinStream_kept (updSeq_kept g0)) | exact (admitFrame_kept (updSeq_kept g0)) | exact (updSeq_kept g0)))) | (split <;> first | exact g0 | exact (by (try dsimp only); first | (split; exact (joinStream_kept (updSeq_kept g0)); exact (admitFrame_kept (updSeq_kept g0)); exact (admitFrame_kept (updSeq_kept g0)); exact (updSeq_kept g0)) | (split <;> first | exact (joinStream_kept (updSeq_kept g0)) | exact (admitFrame_kept (updSeq_kept g0)) | exact (updSeq_kept g0)))))

theorem dropFrame_kept {a a0 a1 a2} (g0 : Kept a a2) : Kept a (dropFrame a0 a1 a2) := by
  unfold dropFrame
  try dsimp only
  exact (capture_kept (addObj_kept g0))

theorem sourceFrame_kept {a a0 a1 a2 a3} (g0 : Kept a a3) : Kept a (sourceFrame a0 a1 a2 a3) := by
  unfold sourceFrame
  try dsimp only
  exact (by (try dsimp only); first | (split; exact (updSeq_kept (storeRing_kept g0)); exact (ite_kept (dropFrame_kept (storeRing_kept g0)) (ite_kept (deferFrame_kept (storeRing_kept g0)) (joinStream_kept (storeRing_kept g0)))); exact (ite_kept (dropFrame_kept (storeRing_kept g0)) (ite_kept (ite_kept (deferFrame_kept (storeRing_kept g0)) (admitFrame_kept (storeRing_kept g0))) (ite_kept (dropFrame_kept (storeRing_kept g0)) g0))); exact (ite_kept (dropFrame_kept (storeRing_kept g0)) (ite_kept (ite_kept (deferFrame_kept (storeRing_kept g0)) (admitFrame_kept (storeRing_kept g0))) (ite_kept (dropFrame_kept (storeRing_kept g0)) g0))); exact g0) | (split <;> first | exact (updSeq_kept (storeRing_kept g0)) | exact (ite_kept (dropFrame_kept (storeRing_kept g0)) (ite_kept (deferFrame_kept (storeRing_kept g0)) (joinStream_kept (storeRing_kept g0)))) | exact (ite_kept (dropFrame_kept (storeRing_kept g0)) (ite_kept (ite_kept (deferFrame_kept (storeRing_kept g0)) (admitFrame_kept (storeRing_kept g0))) (ite_kept (dropFrame_kept (storeRing_kept g0)) g0))) | exact g0))

theorem takeEvent_kept {a a0 a1 a2} (g0 : Kept a a2) : Kept a (takeEvent a0 a1 a2) := by
  unfold takeEvent
  try dsimp only
  exact (by (try dsimp only); first | (split; exact (doPartition_kept g0); exact (sendUpdate_kept g0); exact (applyTail_kept g0); exact (markJob_kept g0); exact (unmarkJob_kept g0); exact (takeFrameIn_kept g0)) | (split <;> first | exact (doPartition_kept g0) | exact (sendUpdate_kept g0) | exact (applyTail_kept g0) | exact (markJob_kept g0) | exact (unmarkJob_kept g0) | exact (takeFrameIn_kept g0)))

theorem execAdmissionPoint_kept {a a0} (g0 : Kept a a0) : KeptOut a (execAdmissionPoint a0) := by
  unfold execAdmissionPoint
  try dsimp only
  exact (whenLive_kept g0 (fun _ h0 => (ite_kept (noticeCuts_kept (foldl_kept (fun _ _ h1 => (takeEvent_kept h1)) (foldl_kept (fun _ _ h1 => (updPart_kept h1)) h0))) h0)))

theorem countCut_kept {a a0 a1 a2} (g0 : Kept a a2) : Kept a (countCut a0 a1 a2) := by
  unfold countCut
  try dsimp only
  exact (ite_kept (addObj_kept (addObj_kept g0)) g0)

theorem execCommitGrant_kept {a a0 a1 a2 a3} (g0 : Kept a a3) : KeptOut a (execCommitGrant a0 a1 a2 a3) := by
  unfold execCommitGrant
  try dsimp only
  exact (whenLive_kept g0 (fun _ h0 => (ite_kept (noticeSteps_kept (countCut_kept (grantCommit_kept h0))) h0)))

theorem startAudio_kept {a a0 a1} (g0 : Kept a a1) : Kept a (startAudio a0 a1) := by
  unfold startAudio
  try dsimp only
  exact (ite_kept (setObj_kept g0) (ite_kept (capture_kept (setObj_kept g0)) (setObj_kept g0)))

theorem seqStart_kept {a a0 a1} (g0 : Kept a a1) : Kept a (seqStart a0 a1).1 := by
  unfold seqStart
  try dsimp only
  exact (ite_fst_kept (fst_kept (capture_kept (startAudio_kept (setObj_kept (upd_st_kept (setObj_kept (setObj_kept (setObj_kept (setObj_kept (setObj_kept (setObj_kept (setObj_kept (setSeqStatus_kept g0))))))))))))) (fst_kept (capture_kept (ite_kept (updSeq_kept (setSeqStatus_kept g0)) (setSeqStatus_kept g0)))))

theorem seqForce_kept {a a0 a1} (g0 : Kept a a1) : Kept a (seqForce a0 a1) := by
  unfold seqForce
  try dsimp only
  exact (ite_kept g0 (updSeq_kept g0))

theorem wSeqCommand_kept {a a0 a1 a2 a3} (g0 : Kept a a3) : Kept a (wSeqCommand a0 a1 a2 a3).1 := by
  unfold wSeqCommand
  try dsimp only
  exact (by (try dsimp only); first | (split; exact (seqStart_kept g0); exact (fst_kept (seqStop_kept g0)); exact (fst_kept (seqForce_kept g0)); exact (fst_kept (refuse_kept g0))) | (split <;> first | exact (seqStart_kept g0) | exact (fst_kept (seqStop_kept g0)) | exact (fst_kept (seqForce_kept g0)) | exact (fst_kept (refuse_kept g0))))

theorem execForceCut_kept {a a0 a1 a2} (g0 : Kept a a2) : KeptOut a (execForceCut a0 a1 a2) := by
  unfold execForceCut
  try dsimp only
  exact (whenFree_kept g0 (fun _ h0 => (ackWrite_kept (wSeqCommand_kept h0))))

theorem execAbandonedRetire_kept {a a0 a1 a2 a3} (g0 : Kept a a3) : KeptOut a (execAbandonedRetire a0 a1 a2 a3) := by
  unfold execAbandonedRetire
  try dsimp only
  exact (whenLive_kept g0 (fun _ h0 => (ite_kept (noticeSteps_kept (advanceCommit_kept (setSlot_kept (sendSignal_kept (bumpStep_kept h0))))) h0)))

theorem execCommitSignal_kept {a a0 a1 a2 a3} (g0 : Kept a a3) : KeptOut a (execCommitSignal a0 a1 a2 a3) := by
  unfold execCommitSignal
  try dsimp only
  exact (whenLive_kept g0 (fun _ h0 => (ite_kept (noticeCuts_kept (advanceCommit_kept (updSlot_kept (sendCommitSignals_kept (ite_kept (passCycle_kept h0) h0))))) h0)))

theorem execStreamStop_kept {a a0 a1 a2} (g0 : Kept a a2) : KeptOut a (execStreamStop a0 a1 a2) := by
  unfold execStreamStop
  try dsimp only
  exact (whenFree_kept g0 (fun _ h0 => (ackWrite_kept (wSeqCommand_kept h0))))

theorem execPublishStep_kept {a a0 a1} (g0 : Kept a a1) : KeptOut a (execPublishStep a0 a1) := by
  unfold execPublishStep
  try dsimp only
  exact (whenLive_kept g0 (fun _ h0 => (ite_kept (by (try dsimp only); first | (split; exact (publishOne_kept h0); exact h0) | (split <;> first | exact (publishOne_kept h0) | exact h0)) h0)))

theorem resumeSeq_kept {a a0 a1} (g0 : Kept a a1) : Kept a (resumeSeq a0 a1) := by
  unfold resumeSeq
  try dsimp only
  exact (by (try dsimp only); first | (split; exact g0; exact (by (try dsimp only); first | (split; exact (foldl_kept (fun _ _ h0 => (handFrame_kept h0)) (setSeq_kept g0)); exact (ite_kept (startWarm_kept (foldl_kept (fun _ _ h0 => (handFrame_kept h0)) (setSeq_kept g0))) (foldl_kept (fun _ _ h0 => (handFrame_kept h0)) (setSeq_kept g0)))) | (split <;> first | exact (foldl_kept (fun _ _ h0 => (handFrame_kept h0)) (setSeq_kept g0)) | exact (ite_kept (startWarm_kept (foldl_kept (fun _ _ h0 => (handFrame_kept h0)) (setSeq_kept g0))) (foldl_kept (fun _ _ h0 => (handFrame_kept h0)) (setSeq_kept g0)))))) | (split <;> first | exact g0 | exact (by (try dsimp only); first | (split; exact (foldl_kept (fun _ _ h0 => (handFrame_kept h0)) (setSeq_kept g0)); exact (ite_kept (startWarm_kept (foldl_kept (fun _ _ h0 => (handFrame_kept h0)) (setSeq_kept g0))) (foldl_kept (fun _ _ h0 => (handFrame_kept h0)) (setSeq_kept g0)))) | (split <;> first | exact (foldl_kept (fun _ _ h0 => (handFrame_kept h0)) (setSeq_kept g0)) | exact (ite_kept (startWarm_kept (foldl_kept (fun _ _ h0 => (handFrame_kept h0)) (setSeq_kept g0))) (foldl_kept (fun _ _ h0 => (handFrame_kept h0)) (setSeq_kept g0)))))))

theorem execResetQueueClear_kept {a a0 a1} (g0 : Kept a a1) : KeptOut a (execResetQueueClear a0 a1) := by
  unfold execResetQueueClear
  try dsimp only
  exact (whenLive_kept g0 (fun _ h0 => (ite_kept (foldl_kept (fun _ _ h1 => (ite_kept (resumeSeq_kept h1) h1)) (endReset_kept (clearQueues_kept h0))) h0)))

theorem endWarms_kept {a a0} (g0 : Kept a a0) : Kept a (endWarms a0) := by
  unfold endWarms
  try dsimp only
  exact (foldl_kept (fun _ _ h0 => (by (try dsimp only); first | (split; exact (ite_kept (capture_kept (setObj_kept (setSeq_kept h0))) (setSeq_kept h0)); exact h0) | (split <;> first | exact (ite_kept (capture_kept (setObj_kept (setSeq_kept h0))) (setSeq_kept h0)) | exact h0))) g0)

theorem execWithdrawalListRetire_kept {a a0 a1} (g0 : Kept a a1) : KeptOut a (execWithdrawalListRetire a0 a1) := by
  unfold execWithdrawalListRetire
  try dsimp only
  exact (whenLive_kept g0 (fun _ h0 => (by (try dsimp only); first | (split; exact (ite_kept h0 (noticeSteps_kept (withdrawDoomed_kept (sendSignal_kept (addObj_kept (updPart_kept h0)))))); exact h0) | (split <;> first | exact (ite_kept h0 (noticeSteps_kept (withdrawDoomed_kept (sendSignal_kept (addObj_kept (updPart_kept h0)))))) | exact h0))))

theorem execStreamStart_kept {a a0 a1 a2} (g0 : Kept a a2) : KeptOut a (execStreamStart a0 a1 a2) := by
  unfold execStreamStart
  try dsimp only
  exact (whenFree_kept g0 (fun _ h0 => (ackWrite_kept (wSeqCommand_kept h0))))

theorem execRetireRefused_kept {a a0 a1 a2 a3} (g0 : Kept a a3) : KeptOut a (execRetireRefused a0 a1 a2 a3) := by
  unfold execRetireRefused
  try dsimp only
  exact (whenLive_kept g0 (fun _ h0 => (by (try dsimp only); first | (split; exact (ite_kept (noticeCuts_kept (noticeSteps_kept (advanceCommit_kept (setSlot_kept (bumpStep_kept h0))))) h0); exact h0) | (split <;> first | exact (ite_kept (noticeCuts_kept (noticeSteps_kept (advanceCommit_kept (setSlot_kept (bumpStep_kept h0))))) h0) | exact h0))))

theorem execStopComplete_kept {a a0 a1} (g0 : Kept a a1) : KeptOut a (execStopComplete a0 a1) := by
  unfold execStopComplete
  try dsimp only
  exact (whenLive_kept g0 (fun _ h0 => (ite_kept (finishStop_kept h0) h0)))

theorem execBinningStart_kept {a a0 a1} (g0 : Kept a a1) : KeptOut a (execBinningStart a0 a1) := by
  unfold execBinningStart
  try dsimp only
  exact (whenLive_kept g0 (fun _ h0 => (ite_kept (addObj_kept (setOverlay_kept h0)) h0)))

theorem attachRings_kept {a a0 a1 a2} (g0 : Kept a a2) : Kept a (attachRings a0 a1 a2) := by
  unfold attachRings
  try dsimp only
  exact (ite_kept (setRing_kept g0) g0)

theorem execBinningDeadline_kept {a a0 a1} (g0 : Kept a a1) : KeptOut a (execBinningDeadline a0 a1) := by
  unfold execBinningDeadline
  try dsimp only
  exact (whenLive_kept g0 (fun _ h0 => (by (try dsimp only); first | (split; exact h0; exact (ite_kept (by (try dsimp only); first | (split; exact (attachRings_kept (addObj_kept (setOverlay_kept h0))); exact (attachRings_kept (capture_kept (setObj_kept (addObj_kept (addObj_kept (setOverlay_kept h0))))))) | (split <;> first | exact (attachRings_kept (addObj_kept (setOverlay_kept h0))) | exact (attachRings_kept (capture_kept (setObj_kept (addObj_kept (addObj_kept (setOverlay_kept h0)))))))) h0)) | (split <;> first | exact h0 | exact (ite_kept (by (try dsimp only); first | (split; exact (attachRings_kept (addObj_kept (setOverlay_kept h0))); exact (attachRings_kept (capture_kept (setObj_kept (addObj_kept (addObj_kept (setOverlay_kept h0))))))) | (split <;> first | exact (attachRings_kept (addObj_kept (setOverlay_kept h0))) | exact (attachRings_kept (capture_kept (setObj_kept (addObj_kept (addObj_kept (setOverlay_kept h0)))))))) h0)))))

theorem setStrip_kept {a a0 a1 a2 a3 a4} (g0 : Kept a a4) : Kept a (setStrip a0 a1 a2 a3 a4) := by
  unfold setStrip
  try dsimp only
  exact (useFree_kept (setOverlay_kept g0))

theorem setOutGen_kept {a a0 a1 a2} (g0 : Kept a a2) : Kept a (setOutGen a0 a1 a2) := by
  unfold setOutGen
  try dsimp only
  exact (ite_kept (setPort_kept g0) (setRing_kept g0))

theorem pulseGen_kept {a a0 a1 a2 a3} (g0 : Kept a a3) : Kept a (pulseGen a0 a1 a2 a3) := by
  unfold pulseGen
  try dsimp only
  exact (by (try dsimp only); first | (split; exact g0; exact (by (try dsimp only); first | (split; exact (setOutGen_kept g0); exact (setOutGen_kept g0)) | (split <;> first | exact (setOutGen_kept g0)))) | (split <;> first | exact g0 | exact (by (try dsimp only); first | (split; exact (setOutGen_kept g0); exact (setOutGen_kept g0)) | (split <;> first | exact (setOutGen_kept g0)))))

theorem wGenlockSlew_kept {a a0 a1 a2} (g0 : Kept a a2) : Kept a (wGenlockSlew a0 a1 a2).1 := by
  unfold wGenlockSlew
  try dsimp only
  exact (ite_fst_kept (fst_kept (refuse_kept g0)) (fst_kept (foldl_kept (fun _ _ h0 => (by (try dsimp only); first | (split; exact (setOutGen_kept h0); exact h0) | (split <;> first | exact (setOutGen_kept h0) | exact h0))) (setObj_kept g0))))

theorem setGenlock_kept {a a0 a1} (g0 : Kept a a1) : Kept a (setGenlock a0 a1) := by
  unfold setGenlock
  try dsimp only
  exact (ite_kept g0 (capture_kept (setObj_kept g0)))

theorem execGenlockLoss_kept {a a0} (g0 : Kept a a0) : KeptOut a (execGenlockLoss a0) := by
  unfold execGenlockLoss
  try dsimp only
  exact (whenLive_kept g0 (fun _ h0 => (by (try dsimp only); first | (split; exact h0; exact (ite_kept h0 (foldl_kept (fun _ _ h1 => (by (try dsimp only); first | (split; exact (ite_kept (by (try dsimp only); first | (split; exact (setOutGen_kept h1); exact (setOutGen_kept h1)) | (split <;> first | exact (setOutGen_kept h1))) h1); exact h1) | (split <;> first | exact (ite_kept (by (try dsimp only); first | (split; exact (setOutGen_kept h1); exact (setOutGen_kept h1)) | (split <;> first | exact (setOutGen_kept h1))) h1) | exact h1))) (setGenlock_kept (upd_clk_kept h0))))) | (split <;> first | exact h0 | exact (ite_kept h0 (foldl_kept (fun _ _ h1 => (by (try dsimp only); first | (split; exact (ite_kept (by (try dsimp only); first | (split; exact (setOutGen_kept h1); exact (setOutGen_kept h1)) | (split <;> first | exact (setOutGen_kept h1))) h1); exact h1) | (split <;> first | exact (ite_kept (by (try dsimp only); first | (split; exact (setOutGen_kept h1); exact (setOutGen_kept h1)) | (split <;> first | exact (setOutGen_kept h1))) h1) | exact h1))) (setGenlock_kept (upd_clk_kept h0))))))))

theorem slavedPulse_kept {a a0 a1 a2} (g0 : Kept a a2) : Kept a (slavedPulse a0 a1 a2) := by
  unfold slavedPulse
  try dsimp only
  exact (foldl_kept (fun _ _ h0 => (ite_kept (pulseGen_kept h0) h0)) g0)

theorem execGenlockPulse_kept {a a0} (g0 : Kept a a0) : KeptOut a (execGenlockPulse a0) := by
  unfold execGenlockPulse
  try dsimp only
  exact (whenLive_kept g0 (fun _ h0 => (by (try dsimp only); first | (split; exact (setGenlock_kept (upd_clk_kept h0)); exact (ite_kept (upd_clk_kept h0) (ite_kept (setObj_kept (upd_clk_kept h0)) (foldl_kept (fun _ _ h1 => (ite_kept (pulseGen_kept h1) h1)) (setGenlock_kept (setObj_kept (upd_clk_kept h0))))))) | (split <;> first | exact (setGenlock_kept (upd_clk_kept h0)) | exact (ite_kept (upd_clk_kept h0) (ite_kept (setObj_kept (upd_clk_kept h0)) (foldl_kept (fun _ _ h1 => (ite_kept (pulseGen_kept h1) h1)) (setGenlock_kept (setObj_kept (upd_clk_kept h0))))))))))

theorem execBinRowRender_kept {a a0 a1 a2} (g0 : Kept a a2) : KeptOut a (execBinRowRender a0 a1 a2) := by
  unfold execBinRowRender
  try dsimp only
  exact (whenLive_kept g0 (fun _ h0 => (ite_kept (by (try dsimp only); first | (split; exact (ite_kept (setStrip_kept h0) h0); exact h0) | (split <;> first | exact (ite_kept (setStrip_kept h0) h0) | exact h0)) (by (try dsimp only); first | (split; exact (by (try dsimp only); first | (split; exact h0; exact (by (try dsimp only); first | (split; exact h0; exact (ite_kept (setStrip_kept h0) h0)) | (split <;> first | exact h0 | exact (ite_kept (setStrip_kept h0) h0)))) | (split <;> first | exact h0 | exact (by (try dsimp only); first | (split; exact h0; exact (ite_kept (setStrip_kept h0) h0)) | (split <;> first | exact h0 | exact (ite_kept (setStrip_kept h0) h0))))); exact h0) | (split <;> first | exact (by (try dsimp only); first | (split; exact h0; exact (by (try dsimp only); first | (split; exact h0; exact (ite_kept (setStrip_kept h0) h0)) | (split <;> first | exact h0 | exact (ite_kept (setStrip_kept h0) h0)))) | (split <;> first | exact h0 | exact (by (try dsimp only); first | (split; exact h0; exact (ite_kept (setStrip_kept h0) h0)) | (split <;> first | exact h0 | exact (ite_kept (setStrip_kept h0) h0))))) | exact h0)))))

theorem setPath_kept {a a0 a1 a2} (g0 : Kept a a2) : Kept a (setPath a0 a1 a2) := by
  unfold setPath
  try dsimp only
  exact (upd_io_kept g0)

theorem stopPaths_kept {a a0 a1} (g0 : Kept a a1) : Kept a (stopPaths a0 a1) := by
  unfold stopPaths
  try dsimp only
  exact (by (try dsimp only); first | (split; exact (ite_kept (setPath_kept (setObj_kept g0)) g0); exact g0) | (split <;> first | exact (ite_kept (setPath_kept (setObj_kept g0)) g0) | exact g0))

theorem refreshLevel_kept {a a0 a1} (g0 : Kept a a1) : Kept a (refreshLevel a0 a1) := by
  unfold refreshLevel
  try dsimp only
  exact (setObj_kept (setObj_kept g0))

theorem freeStrips_kept {a a0 a1 a2} (g0 : Kept a a2) : Kept a (freeStrips a0 a1 a2) := by
  unfold freeStrips
  try dsimp only
  exact (setOverlay_kept g0)

theorem beginFrame_kept {a a0 a1 a2} (g0 : Kept a a2) : Kept a (beginFrame a0 a1 a2) := by
  unfold beginFrame
  try dsimp only
  exact (ite_kept (refreshPins_kept (upd_io_kept (refreshLevel_kept (ite_kept (addObj_kept (by (try dsimp only); first | (split; exact (ite_kept (freeStrips_kept (addObj_kept (setObj_kept (setObj_kept (setPort_kept g0))))) (setObj_kept (setObj_kept (setPort_kept g0)))); exact (setObj_kept (setObj_kept (setPort_kept g0)))) | (split <;> first | exact (ite_kept (freeStrips_kept (addObj_kept (setObj_kept (setObj_kept (setPort_kept g0))))) (setObj_kept (setObj_kept (setPort_kept g0)))) | exact (setObj_kept (setObj_kept (setPort_kept g0)))))) (by (try dsimp only); first | (split; exact (ite_kept (freeStrips_kept (addObj_kept (setObj_kept (setObj_kept (setPort_kept g0))))) (setObj_kept (setObj_kept (setPort_kept g0)))); exact (setObj_kept (setObj_kept (setPort_kept g0)))) | (split <;> first | exact (ite_kept (freeStrips_kept (addObj_kept (setObj_kept (setObj_kept (setPort_kept g0))))) (setObj_kept (setObj_kept (setPort_kept g0)))) | exact (setObj_kept (setObj_kept (setPort_kept g0))))))))) (refreshLevel_kept (ite_kept (addObj_kept (by (try dsimp only); first | (split; exact (ite_kept (freeStrips_kept (addObj_kept (setObj_kept (setObj_kept (setPort_kept g0))))) (setObj_kept (setObj_kept (setPort_kept g0)))); exact (setObj_kept (setObj_kept (setPort_kept g0)))) | (split <;> first | exact (ite_kept (freeStrips_kept (addObj_kept (setObj_kept (setObj_kept (setPort_kept g0))))) (setObj_kept (setObj_kept (setPort_kept g0)))) | exact (setObj_kept (setObj_kept (setPort_kept g0)))))) (by (try dsimp only); first | (split; exact (ite_kept (freeStrips_kept (addObj_kept (setObj_kept (setObj_kept (setPort_kept g0))))) (setObj_kept (setObj_kept (setPort_kept g0)))); exact (setObj_kept (setObj_kept (setPort_kept g0)))) | (split <;> first | exact (ite_kept (freeStrips_kept (addObj_kept (setObj_kept (setObj_kept (setPort_kept g0))))) (setObj_kept (setObj_kept (setPort_kept g0)))) | exact (setObj_kept (setObj_kept (setPort_kept g0))))))))

theorem noteBoundary_kept {a a0 a1 a2} (g0 : Kept a a2) : Kept a (noteBoundary a0 a1 a2) := by
  unfold noteBoundary
  try dsimp only
  exact (updSeq_kept g0)

theorem execOutputFrameBoundary_kept {a a0 a1} (g0 : Kept a a1) : KeptOut a (execOutputFrameBoundary a0 a1) := by
  unfold execOutputFrameBoundary
  try dsimp only
  exact (whenLive_kept g0 (fun _ h0 => (by (try dsimp only); first | (split; exact h0; exact (ite_kept h0 (ite_kept (beginFrame_kept (stopPaths_kept (by (try dsimp only); first | (split; exact (noteBoundary_kept (setOutGen_kept h0)); exact (setOutGen_kept h0)) | (split <;> first | exact (noteBoundary_kept (setOutGen_kept h0)) | exact (setOutGen_kept h0))))) (by (try dsimp only); first | (split; exact (noteBoundary_kept (setOutGen_kept h0)); exact (setOutGen_kept h0)) | (split <;> first | exact (noteBoundary_kept (setOutGen_kept h0)) | exact (setOutGen_kept h0)))))) | (split <;> first | exact h0 | exact (ite_kept h0 (ite_kept (beginFrame_kept (stopPaths_kept (by (try dsimp only); first | (split; exact (noteBoundary_kept (setOutGen_kept h0)); exact (setOutGen_kept h0)) | (split <;> first | exact (noteBoundary_kept (setOutGen_kept h0)) | exact (setOutGen_kept h0))))) (by (try dsimp only); first | (split; exact (noteBoundary_kept (setOutGen_kept h0)); exact (setOutGen_kept h0)) | (split <;> first | exact (noteBoundary_kept (setOutGen_kept h0)) | exact (setOutGen_kept h0)))))))))

theorem setAudio_kept {a a0 a1 a2} (g0 : Kept a a2) : Kept a (setAudio a0 a1 a2) := by
  unfold setAudio
  try dsimp only
  exact (upd_st_kept g0)

theorem takeSets_kept {a a0 a1 a2 a3} (g0 : Kept a a3) : Kept a (takeSets a0 a1 a2 a3) := by
  unfold takeSets
  try dsimp only
  exact (setAudio_kept g0)

theorem fillBlank_kept {a a0 a1} (g0 : Kept a a1) : Kept a (fillBlank a0 a1) := by
  unfold fillBlank
  try dsimp only
  exact (by (try dsimp only); first | (split; exact (setPort_kept g0); exact (by (try dsimp only); first | (split; exact (setPort_kept g0); exact (takeSets_kept (setPort_kept g0))) | (split <;> first | exact (setPort_kept g0) | exact (takeSets_kept (setPort_kept g0))))) | (split <;> first | exact (setPort_kept g0) | exact (by (try dsimp only); first | (split; exact (setPort_kept g0); exact (takeSets_kept (setPort_kept g0))) | (split <;> first | exact (setPort_kept g0) | exact (takeSets_kept (setPort_kept g0))))))

theorem pushSet_kept {a a0 a1 a2 a3} (g0 : Kept a a3) : Kept a (pushSet a0 a1 a2 a3) := by
  unfold pushSet
  try dsimp only
  exact (ite_kept (addObj_kept (setAudio_kept g0)) (setAudio_kept g0))

theorem releaseMute_kept {a a0} (g0 : Kept a a0) : Kept a (releaseMute a0) := by
  unfold releaseMute
  try dsimp only
  exact (ite_kept (upd_io_kept g0) g0)

theorem noteFill_kept {a a0 a1} (g0 : Kept a a1) : Kept a (noteFill a0 a1) := by
  unfold noteFill
  try dsimp only
  exact (setObj_kept g0)

theorem countSegment_kept {a a0 a1 a2} (g0 : Kept a a2) : Kept a (countSegment a0 a1 a2) := by
  unfold countSegment
  try dsimp only
  exact (ite_kept (addObj_kept (addObj_kept g0)) (addObj_kept g0))

theorem countNext_kept {a a0 a1 a2} (g0 : Kept a a2) : Kept a (countNext a0 a1 a2) := by
  unfold countNext
  try dsimp only
  exact (setPort_kept (countSegment_kept g0))

theorem pathTake_kept {a a0 a1 a2 a3} (g0 : Kept a a3) : Kept a (pathTake a0 a1 a2 a3) := by
  unfold pathTake
  try dsimp only
  exact (by (try dsimp only); first | (split; exact g0; exact (setPath_kept g0)) | (split <;> first | exact g0 | exact (setPath_kept g0)))

theorem writeRegionPage_kept {a a0 a1 a2 a3 a4} (g0 : Kept a a4) : Kept a (writeRegionPage a0 a1 a2 a3 a4) := by
  unfold writeRegionPage
  split
  · exact setC_kept g0
  · refine ite_kept g0 ?_
    split
    · exact g0
    · exact upd_ci_kept (pushVersion_kept (setC_kept g0))

theorem writeRegion_kept {a a0 a1 a2 a3} (g0 : Kept a a3) : Kept a (writeRegion a0 a1 a2 a3) := by
  unfold writeRegion
  try dsimp only
  exact (foldl_kept (fun _ _ h0 => (writeRegionPage_kept h0)) g0)

theorem concealVideo_kept {a a0 a1 a2 a3 a4 a5} (g0 : Kept a a5) : Kept a (concealVideo a0 a1 a2 a3 a4 a5) := by
  unfold concealVideo
  try dsimp only
  exact (foldl_kept (fun _ _ h0 => (by (try dsimp only); first | (split; exact (writeRegion_kept h0); exact h0) | (split <;> first | exact (writeRegion_kept h0) | exact h0))) g0)

theorem concealRange_kept {a a0 a1 a2} (g0 : Kept a a2) : Kept a (concealRange a0 a1 a2) := by
  unfold concealRange
  try dsimp only
  exact (by (try dsimp only); first | (split; exact g0; exact (addObj_kept (setPort_kept (concealVideo_kept (pathTake_kept g0))))) | (split <;> first | exact g0 | exact (addObj_kept (setPort_kept (concealVideo_kept (pathTake_kept g0))))))

theorem concealTo_kept {a a0 a1 a2 a3} (g0 : Kept a a3) : Kept a (concealTo a0 a1 a2 a3) := by
  unfold concealTo
  try dsimp only
  exact (by (try dsimp only); first | (split; exact g0; exact (by (try dsimp only); first | (split; exact (setPort_kept (foldl_kept (fun _ _ h0 => (concealRange_kept h0)) g0)); exact (foldl_kept (fun _ _ h0 => (concealRange_kept h0)) g0)) | (split <;> first | exact (setPort_kept (foldl_kept (fun _ _ h0 => (concealRange_kept h0)) g0)) | exact (foldl_kept (fun _ _ h0 => (concealRange_kept h0)) g0)))) | (split <;> first | exact g0 | exact (by (try dsimp only); first | (split; exact (setPort_kept (foldl_kept (fun _ _ h0 => (concealRange_kept h0)) g0)); exact (foldl_kept (fun _ _ h0 => (concealRange_kept h0)) g0)) | (split <;> first | exact (setPort_kept (foldl_kept (fun _ _ h0 => (concealRange_kept h0)) g0)) | exact (foldl_kept (fun _ _ h0 => (concealRange_kept h0)) g0)))))

theorem finishFrame_kept {a a0 a1} (g0 : Kept a a1) : Kept a (finishFrame a0 a1) := by
  unfold finishFrame
  try dsimp only
  exact (by (try dsimp only); first | (split; exact g0; exact (ite_kept (capture_kept (addObj_kept (ite_kept (addObj_kept (setPort_kept g0)) (capture_kept (addObj_kept (setPort_kept g0)))))) (foldl_kept (fun _ _ h0 => (sourceFrame_kept h0)) (ite_kept (addObj_kept (setPort_kept g0)) (capture_kept (addObj_kept (setPort_kept g0))))))) | (split <;> first | exact g0 | exact (ite_kept (capture_kept (addObj_kept (ite_kept (addObj_kept (setPort_kept g0)) (capture_kept (addObj_kept (setPort_kept g0)))))) (foldl_kept (fun _ _ h0 => (sourceFrame_kept h0)) (ite_kept (addObj_kept (setPort_kept g0)) (capture_kept (addObj_kept (setPort_kept g0))))))))

theorem frameDone_kept {a a0 a1} (g0 : Kept a a1) : Kept a (frameDone a0 a1) := by
  unfold frameDone
  try dsimp only
  exact (by (try dsimp only); first | (split; exact (ite_kept (finishFrame_kept g0) g0); exact g0) | (split <;> first | exact (ite_kept (finishFrame_kept g0) g0) | exact g0))

theorem concealSet_kept {a a0 a1 a2} (g0 : Kept a a2) : Kept a (concealSet a0 a1 a2) := by
  unfold concealSet
  try dsimp only
  exact (addObj_kept (pushSet_kept g0))

theorem concealSets_kept {a a0 a1 a2 a3 a4} (g0 : Kept a a4) : Kept a (concealSets a0 a1 a2 a3 a4) := by
  unfold concealSets
  try dsimp only
  exact (foldl_kept (fun _ _ h0 => (concealSet_kept h0)) g0)

theorem concealMissing_kept {a a0 a1 a2 a3} (g0 : Kept a a3) : Kept a (concealMissing a0 a1 a2 a3) := by
  unfold concealMissing
  try dsimp only
  exact (ite_kept g0 (foldl_kept (fun _ _ h0 => (concealSets_kept h0)) (countNext_kept g0)))

theorem startFrame_kept {a a0 a1 a2 a3} (g0 : Kept a a3) : Kept a (startFrame a0 a1 a2 a3) := by
  unfold startFrame
  try dsimp only
  exact (slavedPulse_kept (setPort_kept (concealMissing_kept (frameDone_kept (concealTo_kept g0)))))

theorem takeTiming_kept {a a0 a1 a2 a3} (g0 : Kept a a3) : Kept a (takeTiming a0 a1 a2 a3) := by
  unfold takeTiming
  try dsimp only
  exact (ite_kept (pathTake_kept (ite_kept (startFrame_kept g0) g0)) (setPort_kept (countNext_kept g0)))

theorem countConcealed_kept {a a0 a1 a2} (g0 : Kept a a2) : Kept a (countConcealed a0 a1 a2) := by
  unfold countConcealed
  try dsimp only
  exact (by (try dsimp only); first | (split; exact (setPort_kept (countSegment_kept g0)); exact (countNext_kept g0)) | (split <;> first | exact (setPort_kept (countSegment_kept g0)) | exact (countNext_kept g0)))

theorem storeVideo_kept {a a0 a1 a2 a3 a4 a5} (g0 : Kept a a5) : Kept a (storeVideo a0 a1 a2 a3 a4 a5) := by
  unfold storeVideo
  try dsimp only
  exact (foldl_kept (fun _ _ h0 => (by (try dsimp only); first | (split; exact (writeRegion_kept h0); exact h0) | (split <;> first | exact (writeRegion_kept h0) | exact h0))) g0)

theorem countCrc_kept {a a0 a1} (g0 : Kept a a1) : Kept a (countCrc a0 a1) := by
  unfold countCrc
  try dsimp only
  exact (by (try dsimp only); first | (split; exact (setPort_kept (addObj_kept g0)); exact (addObj_kept g0)) | (split <;> first | exact (setPort_kept (addObj_kept g0)) | exact (addObj_kept g0)))

theorem takeVideo_kept {a a0 a1 a2 a3} (g0 : Kept a a3) : Kept a (takeVideo a0 a1 a2 a3) := by
  unfold takeVideo
  try dsimp only
  exact (by (try dsimp only); first | (split; exact (ite_kept g0 (countConcealed_kept g0)); exact (ite_kept (ite_kept g0 (by (try dsimp only); first | (split; exact (frameDone_kept (setPort_kept (storeVideo_kept (pathTake_kept (concealTo_kept g0))))); exact (storeVideo_kept (pathTake_kept (concealTo_kept g0)))) | (split <;> first | exact (frameDone_kept (setPort_kept (storeVideo_kept (pathTake_kept (concealTo_kept g0))))) | exact (storeVideo_kept (pathTake_kept (concealTo_kept g0)))))) (ite_kept (by (try dsimp only); first | (split; exact (frameDone_kept (setPort_kept (concealRange_kept (ite_kept g0 (countCrc_kept g0))))); exact (concealRange_kept (ite_kept g0 (countCrc_kept g0)))) | (split <;> first | exact (frameDone_kept (setPort_kept (concealRange_kept (ite_kept g0 (countCrc_kept g0))))) | exact (concealRange_kept (ite_kept g0 (countCrc_kept g0))))) (ite_kept g0 (countCrc_kept g0))))) | (split <;> first | exact (ite_kept g0 (countConcealed_kept g0)) | exact (ite_kept (ite_kept g0 (by (try dsimp only); first | (split; exact (frameDone_kept (setPort_kept (storeVideo_kept (pathTake_kept (concealTo_kept g0))))); exact (storeVideo_kept (pathTake_kept (concealTo_kept g0)))) | (split <;> first | exact (frameDone_kept (setPort_kept (storeVideo_kept (pathTake_kept (concealTo_kept g0))))) | exact (storeVideo_kept (pathTake_kept (concealTo_kept g0)))))) (ite_kept (by (try dsimp only); first | (split; exact (frameDone_kept (setPort_kept (concealRange_kept (ite_kept g0 (countCrc_kept g0))))); exact (concealRange_kept (ite_kept g0 (countCrc_kept g0)))) | (split <;> first | exact (frameDone_kept (setPort_kept (concealRange_kept (ite_kept g0 (countCrc_kept g0))))) | exact (concealRange_kept (ite_kept g0 (countCrc_kept g0))))) (ite_kept g0 (countCrc_kept g0))))))

theorem goodSet_kept {a a0 a1 a2 a3} (g0 : Kept a a3) : Kept a (goodSet a0 a1 a2 a3) := by
  unfold goodSet
  try dsimp only
  exact (setAudio_kept (pushSet_kept g0))

theorem takeAudio_kept {a a0 a1 a2 a3} (g0 : Kept a a3) : Kept a (takeAudio a0 a1 a2 a3) := by
  have h4 : ∀ {s x}, Kept a s → Kept a (countNext a0 x s) := fun h => countNext_kept h
  unfold takeAudio
  dsimp only
  split
  · refine ite_kept ?_ (h4 ?_) <;>
      (split <;> [exact ite_kept (pathTake_kept g0) (pathTake_kept g0); exact g0])
  · refine ite_kept ?_ (h4 ?_) <;>
    · refine setPort_kept (foldl_kept (fun s k h => ?_) ?_)
      · split
        · exact foldl_kept (fun _ _ h => goodSet_kept h) h
        · exact concealSets_kept h
      · split
        · exact ite_kept (pathTake_kept g0) (pathTake_kept g0)
        · exact g0

theorem takeAncillary_kept {a a0 a1 a2 a3} (g0 : Kept a a3) : Kept a (takeAncillary a0 a1 a2 a3) := by
  unfold takeAncillary
  try dsimp only
  exact (ite_kept (setPort_kept (pathTake_kept g0)) (countNext_kept g0))

theorem execInputSegment_kept {a a0 a1 a2 a3} (g0 : Kept a a3) : KeptOut a (execInputSegment a0 a1 a2 a3) := by
  unfold execInputSegment
  try dsimp only
  exact (whenLive_kept g0 (fun _ h0 => (ite_kept (by (try dsimp only); first | (split; exact (takeVideo_kept h0); exact (takeAncillary_kept h0); exact (takeAudio_kept h0); exact (takeTiming_kept h0); exact (countConcealed_kept h0)) | (split <;> first | exact (takeVideo_kept h0) | exact (takeAncillary_kept h0) | exact (takeAudio_kept h0) | exact (takeTiming_kept h0) | exact (countConcealed_kept h0))) h0)))

theorem wAudio_kept {a a0 a1 a2 a3 a4} (g0 : Kept a a4) : Kept a (wAudio a0 a1 a2 a3 a4).1 := by
  unfold wAudio
  try dsimp only
  exact (ite_fst_kept (fst_kept (refuse_kept g0)) (ite_fst_kept (fst_kept (refuse_kept g0)) (ite_fst_kept (fst_kept (refuse_kept g0)) (fst_kept (setObj_kept (setObj_kept g0))))))

theorem refreshMute_kept {a a0} (g0 : Kept a a0) : Kept a (refreshMute a0) := by
  unfold refreshMute
  try dsimp only
  exact (setObj_kept g0)

theorem wMutePorts_kept {a a0 a1} (g0 : Kept a a1) : Kept a (wMutePorts a0 a1).1 := by
  unfold wMutePorts
  try dsimp only
  exact (refreshMute_kept (setObj_kept g0))

theorem execLaneBlockLock_kept {a a0 a1 a2 a3} (g0 : Kept a a3) : KeptOut a (execLaneBlockLock a0 a1 a2 a3) := by
  unfold execLaneBlockLock
  try dsimp only
  exact (whenLive_kept g0 (fun _ h0 => (ite_kept (ite_kept (setObj_kept (setObj_kept (ite_kept (setPort_kept h0) (setField_kept (setPort_kept h0))))) (ite_kept (setPort_kept h0) (setField_kept (setPort_kept h0)))) h0)))

theorem setRasterStatus_kept {a a0 a1 a2} (g0 : Kept a a2) : Kept a (setRasterStatus a0 a1 a2) := by
  unfold setRasterStatus
  try dsimp only
  exact (setObj_kept g0)

theorem applyConfig_kept {a a0 a1 a2} (g0 : Kept a a2) : Kept a (applyConfig a0 a1 a2) := by
  unfold applyConfig
  try dsimp only
  exact (ite_kept (refreshMute_kept (setObj_kept (ite_kept (refreshLevel_kept (setObj_kept (setObj_kept (setObj_kept (setObj_kept (ite_kept (setObj_kept (setObj_kept (setObj_kept (setPort_kept (setRasterStatus_kept (setObj_kept g0)))))) (setPort_kept (setRasterStatus_kept (setObj_kept g0))))))))) (setObj_kept (setObj_kept (setObj_kept (setObj_kept (ite_kept (setObj_kept (setObj_kept (setObj_kept (setPort_kept (setRasterStatus_kept (setObj_kept g0)))))) (setPort_kept (setRasterStatus_kept (setObj_kept g0))))))))))) (setObj_kept (refreshMute_kept (setObj_kept (ite_kept (refreshLevel_kept (setObj_kept (setObj_kept (setObj_kept (setObj_kept (ite_kept (setObj_kept (setObj_kept (setObj_kept (setPort_kept (setRasterStatus_kept (setObj_kept g0)))))) (setPort_kept (setRasterStatus_kept (setObj_kept g0))))))))) (setObj_kept (setObj_kept (setObj_kept (setObj_kept (ite_kept (setObj_kept (setObj_kept (setObj_kept (setPort_kept (setRasterStatus_kept (setObj_kept g0)))))) (setPort_kept (setRasterStatus_kept (setObj_kept g0)))))))))))))

theorem wRasterConfig_kept {a a0 a1 a2 a3} (g0 : Kept a a3) : Kept a (wRasterConfig a0 a1 a2 a3).1 := by
  unfold wRasterConfig
  try dsimp only
  exact (by (try dsimp only); first | (split; exact (fst_kept (refuse_kept (setRasterStatus_kept g0))); exact (fst_kept (applyConfig_kept g0))) | (split <;> first | exact (fst_kept (refuse_kept (setRasterStatus_kept g0))) | exact (fst_kept (applyConfig_kept g0))))

theorem execMuteRelease_kept {a a0} (g0 : Kept a a0) : KeptOut a (execMuteRelease a0) := by
  unfold execMuteRelease
  try dsimp only
  exact (whenLive_kept g0 (fun _ h0 => (ite_kept (releaseMute_kept h0) h0)))

theorem sendSegment_kept {a a0 a1 a2} (g0 : Kept a a2) : Kept a (sendSegment a0 a1 a2) := by
  unfold sendSegment
  try dsimp only
  exact (emit_kept g0)

theorem sendBlank_kept {a a0 a1 a2 a3} (g0 : Kept a a3) : Kept a (sendBlank a0 a1 a2 a3) := by
  unfold sendBlank
  try dsimp only
  exact (ite_kept (sendSegment_kept (setPort_kept g0)) (sendSegment_kept g0))

theorem blankLine_kept {a a0 a1 a2} (g0 : Kept a a2) : Kept a (blankLine a0 a1 a2) := by
  unfold blankLine
  try dsimp only
  exact (foldl_kept (fun _ _ h0 => (sendBlank_kept h0)) (setPort_kept (ite_kept (fillBlank_kept g0) g0)))

theorem execMuteHoldExpiry_kept {a a0} (g0 : Kept a a0) : KeptOut a (execMuteHoldExpiry a0) := by
  unfold execMuteHoldExpiry
  try dsimp only
  exact (whenLive_kept g0 (fun _ h0 => (by (try dsimp only); first | (split; exact (ite_kept (refreshMute_kept (upd_io_kept h0)) h0); exact h0) | (split <;> first | exact (ite_kept (refreshMute_kept (upd_io_kept h0)) h0) | exact h0))))

theorem applyPhase_kept {a a0 a1 a2} (g0 : Kept a a2) : Kept a (applyPhase a0 a1 a2) := by
  unfold applyPhase
  try dsimp only
  exact (by (try dsimp only); first | (split; exact (ite_kept (setOutGen_kept g0) g0); exact g0) | (split <;> first | exact (ite_kept (setOutGen_kept g0) g0) | exact g0))

theorem wPassthru_kept {a a0 a1 a2 a3} (g0 : Kept a a3) : Kept a (wPassthru a0 a1 a2 a3).1 := by
  unfold wPassthru
  try dsimp only
  exact (by (try dsimp only); first | (split; exact (ite_fst_kept (fst_kept (refuse_kept g0)) (ite_fst_kept (fst_kept (setPath_kept (setObj_kept (setObj_kept g0)))) (fst_kept (setObj_kept g0)))); exact (fst_kept (ite_kept (setObj_kept (setObj_kept g0)) (setObj_kept g0))); exact (fst_kept (refuse_kept g0))) | (split <;> first | exact (ite_fst_kept (fst_kept (refuse_kept g0)) (ite_fst_kept (fst_kept (setPath_kept (setObj_kept (setObj_kept g0)))) (fst_kept (setObj_kept g0)))) | exact (fst_kept (ite_kept (setObj_kept (setObj_kept g0)) (setObj_kept g0))) | exact (fst_kept (refuse_kept g0))))

theorem execPassthruStart_kept {a a0 a1 a2} (g0 : Kept a a2) : KeptOut a (execPassthruStart a0 a1 a2) := by
  unfold execPassthruStart
  try dsimp only
  exact (whenFree_kept g0 (fun _ h0 => (ackWrite_kept (wPassthru_kept h0))))

theorem wRasterPhase_kept {a a0 a1 a2 a3} (g0 : Kept a a3) : Kept a (wRasterPhase a0 a1 a2 a3).1 := by
  unfold wRasterPhase
  try dsimp only
  exact (ite_fst_kept (fst_kept (refuse_kept (setRasterStatus_kept g0))) (ite_fst_kept (fst_kept (applyPhase_kept (setRasterStatus_kept (setObj_kept g0)))) (fst_kept (refuse_kept (setRasterStatus_kept g0)))))

theorem sendSegments_kept {a a0 a1 a2} (g0 : Kept a a2) : Kept a (sendSegments a0 a1 a2) := by
  unfold sendSegments
  try dsimp only
  exact (foldl_kept (fun _ _ h0 => (sendSegment_kept h0)) g0)

theorem sendLine_kept {a a0 a1 a2 a3} (g0 : Kept a a3) : Kept a (sendLine a0 a1 a2 a3) := by
  unfold sendLine
  try dsimp only
  exact (by (try dsimp only); first | (split; exact (refreshLevel_kept (sendSegments_kept (setPort_kept g0))); exact (refreshLevel_kept (sendSegments_kept (setPort_kept (ite_kept (addObj_kept g0) (capture_kept (addObj_kept g0))))))) | (split <;> first | exact (refreshLevel_kept (sendSegments_kept (setPort_kept g0))) | exact (refreshLevel_kept (sendSegments_kept (setPort_kept (ite_kept (addObj_kept g0) (capture_kept (addObj_kept g0))))))))

theorem execLineFetchComplete_kept {a a0 a1 a2} (g0 : Kept a a2) : KeptOut a (execLineFetchComplete a0 a1 a2) := by
  unfold execLineFetchComplete
  try dsimp only
  exact (whenLive_kept g0 (fun _ h0 => (by (try dsimp only); first | (split; exact h0; exact (ite_kept (refreshLevel_kept (setPort_kept h0)) h0)) | (split <;> first | exact h0 | exact (ite_kept (refreshLevel_kept (setPort_kept h0)) h0)))))

theorem pathSlot_kept {a a0 a1 a2 a3} (g0 : Kept a a3) : Kept a (pathSlot a0 a1 a2 a3) := by
  unfold pathSlot
  try dsimp only
  exact (foldl_kept (fun _ _ h0 => (sendBlank_kept h0)) (setPath_kept g0))

theorem startMute_kept {a a0} (g0 : Kept a a0) : Kept a (startMute a0) := by
  unfold startMute
  try dsimp only
  exact (ite_kept (capture_kept (addObj_kept (refreshMute_kept (upd_many_kept g0)))) (refreshMute_kept (upd_many_kept g0)))

theorem execMuteRequest_kept {a a0} (g0 : Kept a a0) : KeptOut a (execMuteRequest a0) := by
  unfold execMuteRequest
  try dsimp only
  exact (whenLive_kept g0 (fun _ h0 => (ite_kept (startMute_kept h0) h0)))

theorem execLaneLockLoss_kept {a a0 a1 a2} (g0 : Kept a a2) : KeptOut a (execLaneLockLoss a0 a1 a2) := by
  unfold execLaneLockLoss
  try dsimp only
  exact (whenLive_kept g0 (fun _ h0 => (ite_kept (ite_kept (setObj_kept (addObj_kept (setField_kept h0))) (addObj_kept (setField_kept h0))) h0)))

theorem execStaticCompareComplete_kept {a a0 a1} (g0 : Kept a a1) : KeptOut a (execStaticCompareComplete a0 a1) := by
  unfold execStaticCompareComplete
  try dsimp only
  exact (whenLive_kept g0 (fun _ h0 => (by (try dsimp only); first | (split; exact (ite_kept (setPort_kept h0) h0); exact h0) | (split <;> first | exact (ite_kept (setPort_kept h0) h0) | exact h0))))

theorem execInputSlotGridFrameStart_kept {a a0 a1} (g0 : Kept a a1) : KeptOut a (execInputSlotGridFrameStart a0 a1) := by
  unfold execInputSlotGridFrameStart
  try dsimp only
  exact (whenLive_kept g0 (fun _ h0 => (ite_kept (pathTake_kept (startFrame_kept (ite_kept h0 (countNext_kept h0)))) h0)))

theorem execPassthruStop_kept {a a0 a1 a2} (g0 : Kept a a2) : KeptOut a (execPassthruStop a0 a1 a2) := by
  unfold execPassthruStop
  try dsimp only
  exact (whenFree_kept g0 (fun _ h0 => (ackWrite_kept (wPassthru_kept h0))))

theorem execLineSlot_kept {a a0 a1} (g0 : Kept a a1) : KeptOut a (execLineSlot a0 a1) := by
  unfold execLineSlot
  try dsimp only
  exact (whenLive_kept g0 (fun _ h0 => (ite_kept h0 (by (try dsimp only); first | (split; exact (pathSlot_kept (setPort_kept h0)); exact (ite_kept (by (try dsimp only); first | (split; exact (ite_kept (ite_kept (sendSegment_kept (setPort_kept h0)) (setPort_kept h0)) (noteFill_kept (sendLine_kept (ite_kept (sendSegment_kept (setPort_kept h0)) (setPort_kept h0))))); exact (ite_kept (sendSegment_kept (setPort_kept h0)) (setPort_kept h0))) | (split <;> first | exact (ite_kept (ite_kept (sendSegment_kept (setPort_kept h0)) (setPort_kept h0)) (noteFill_kept (sendLine_kept (ite_kept (sendSegment_kept (setPort_kept h0)) (setPort_kept h0))))) | exact (ite_kept (sendSegment_kept (setPort_kept h0)) (setPort_kept h0)))) (blankLine_kept (ite_kept (sendSegment_kept (setPort_kept h0)) (setPort_kept h0))))) | (split <;> first | exact (pathSlot_kept (setPort_kept h0)) | exact (ite_kept (by (try dsimp only); first | (split; exact (ite_kept (ite_kept (sendSegment_kept (setPort_kept h0)) (setPort_kept h0)) (noteFill_kept (sendLine_kept (ite_kept (sendSegment_kept (setPort_kept h0)) (setPort_kept h0))))); exact (ite_kept (sendSegment_kept (setPort_kept h0)) (setPort_kept h0))) | (split <;> first | exact (ite_kept (ite_kept (sendSegment_kept (setPort_kept h0)) (setPort_kept h0)) (noteFill_kept (sendLine_kept (ite_kept (sendSegment_kept (setPort_kept h0)) (setPort_kept h0))))) | exact (ite_kept (sendSegment_kept (setPort_kept h0)) (setPort_kept h0)))) (blankLine_kept (ite_kept (sendSegment_kept (setPort_kept h0)) (setPort_kept h0)))))))))

theorem execLineFetch_kept {a a0 a1} (g0 : Kept a a1) : KeptOut a (execLineFetch a0 a1) := by
  unfold execLineFetch
  try dsimp only
  exact (whenLive_kept g0 (fun _ h0 => (ite_kept h0 (ite_kept (ite_kept (setPort_kept h0) h0) (by (try dsimp only); first | (split; exact (ite_kept (setPort_kept h0) h0); exact (ite_kept (setPort_kept h0) h0); exact h0) | (split <;> first | exact (ite_kept (setPort_kept h0) h0) | exact h0))))))

theorem setSlotState_kept {a a0 a1 a2} (g0 : Kept a a2) : Kept a (setSlotState a0 a1 a2) := by
  unfold setSlotState
  try dsimp only
  exact (setField_kept g0)

theorem runWeir_kept {a a0 a1 a2} (g0 : Kept a a2) : Kept a (runWeir a0 a1 a2) := by
  unfold runWeir
  try dsimp only
  exact (setSlotState_kept (upd_many_kept (setObj_kept (setObj_kept (setObj_kept g0)))))

theorem programBlocks_kept {a a0 a1 a2 a3} (g0 : Kept a a3) : Kept a (programBlocks a0 a1 a2 a3) := by
  unfold programBlocks
  try dsimp only
  exact (flashWrite_kept (flashErase_kept g0))

theorem setFwStatus_kept {a a0 a1 a2} (g0 : Kept a a2) : Kept a (setFwStatus a0 a1 a2) := by
  unfold setFwStatus
  try dsimp only
  exact (setObj_kept g0)

theorem fwProgram_kept {a a0 a1 a2 a3} (g0 : Kept a a3) : Kept a (fwProgram a0 a1 a2 a3).1 := by
  unfold fwProgram
  try dsimp only
  exact (by (try dsimp only); first | (split; exact (fst_kept (setFwStatus_kept (setSlotState_kept (programBlocks_kept (upd_fw_kept g0))))); exact (fst_kept (setFwStatus_kept (upd_fw_kept g0)))) | (split <;> first | exact (fst_kept (setFwStatus_kept (setSlotState_kept (programBlocks_kept (upd_fw_kept g0))))) | exact (fst_kept (setFwStatus_kept (upd_fw_kept g0)))))

theorem fwResult_kept {a a0 a1 a2} (g0 : Kept a a2) : Kept a (fwResult a0 a1 a2) := by
  unfold fwResult
  try dsimp only
  exact (capture_kept (setFwStatus_kept g0))

theorem fwRefuseBusy_kept {a a0} (g0 : Kept a a0) : Kept a (fwRefuseBusy a0).1 := by
  unfold fwRefuseBusy
  try dsimp only
  exact (refuseQuiet_kept (capture_kept g0))

theorem fwProgramBlock_kept {a a0} (g0 : Kept a a0) : Kept a (fwProgramBlock a0).1 := by
  unfold fwProgramBlock
  try dsimp only
  exact (ite_fst_kept (fwRefuseBusy_kept g0) (by (try dsimp only); first | (split; exact (fst_kept (fwResult_kept g0)); exact (fwProgram_kept g0)) | (split <;> first | exact (fst_kept (fwResult_kept g0)) | exact (fwProgram_kept g0))))

theorem fwCopy_kept {a a0 a1} (g0 : Kept a a1) : Kept a (fwCopy a0 a1).1 := by
  unfold fwCopy
  try dsimp only
  exact (ite_fst_kept (fwRefuseBusy_kept g0) (by (try dsimp only); first | (split; exact (fst_kept (fwResult_kept g0)); exact (fwProgram_kept g0)) | (split <;> first | exact (fst_kept (fwResult_kept g0)) | exact (fwProgram_kept g0))))

theorem fwVerify_kept {a a0} (g0 : Kept a a0) : Kept a (fwVerify a0).1 := by
  unfold fwVerify
  try dsimp only
  exact (ite_fst_kept (fwRefuseBusy_kept g0) (ite_fst_kept (fst_kept (fwResult_kept g0)) (fst_kept (setFwStatus_kept (setSlotState_kept (upd_fw_kept g0))))))

theorem fwStart_kept {a a0} (g0 : Kept a a0) : Kept a (fwStart a0).1 := by
  unfold fwStart
  try dsimp only
  exact (ite_fst_kept (fwRefuseBusy_kept g0) (fst_kept (setFwStatus_kept (upd_fw_kept g0))))

theorem writeActivation_kept {a a0 a1 a2} (g0 : Kept a a2) : Kept a (writeActivation a0 a1 a2) := by
  unfold writeActivation
  try dsimp only
  exact (flashWrite_kept (flashErase_kept g0))

theorem fwActivate_kept {a a0} (g0 : Kept a a0) : Kept a (fwActivate a0).1 := by
  unfold fwActivate
  try dsimp only
  exact (ite_fst_kept (fwRefuseBusy_kept g0) (ite_fst_kept (fst_kept (fwResult_kept g0)) (ite_fst_kept (fst_kept (setFwStatus_kept (setSlotState_kept (upd_fw_kept (ite_kept (writeActivation_kept g0) (setObj_kept (writeActivation_kept g0))))))) (fst_kept (setFwStatus_kept (setSlotState_kept (upd_fw_kept g0)))))))

theorem rillGone_kept {a a0} (g0 : Kept a a0) : Kept a (rillGone a0) := by
  unfold rillGone
  try dsimp only
  exact (setObj_kept (setObj_kept (upd_fw_kept g0)))

theorem fwStop_kept {a a0} (g0 : Kept a a0) : Kept a (fwStop a0).1 := by
  unfold fwStop
  try dsimp only
  exact (ite_kept (setObj_kept (rillGone_kept (upd_fw_kept g0))) (setFwStatus_kept (setObj_kept (rillGone_kept (upd_fw_kept g0)))))

theorem wFwCommand_kept {a a0 a1 a2 a3} (g0 : Kept a a3) : Kept a (wFwCommand a0 a1 a2 a3).1 := by
  unfold wFwCommand
  try dsimp only
  exact (ite_fst_kept (fst_kept (refuse_kept g0)) (ite_fst_kept (fst_kept (refuse_kept g0)) (ite_fst_kept (fwStart_kept g0) (ite_fst_kept (fwStop_kept g0) (ite_fst_kept (fwProgramBlock_kept g0) (ite_fst_kept (fwCopy_kept g0) (ite_fst_kept (fwActivate_kept g0) (fwVerify_kept g0))))))))

theorem execStartRill_kept {a a0 a1} (g0 : Kept a a1) : KeptOut a (execStartRill a0 a1) := by
  unfold execStartRill
  try dsimp only
  exact (whenFree_kept g0 (fun _ h0 => (ackWrite_kept (wFwCommand_kept h0))))

theorem rillRecord_kept {a a0} (g0 : Kept a a0) : Kept a (rillRecord a0) := by
  unfold rillRecord
  try dsimp only
  exact (capture_kept g0)

theorem finishRillStart_kept {a a0 a1} (g0 : Kept a a1) : Kept a (finishRillStart a0 a1) := by
  unfold finishRillStart
  try dsimp only
  exact (ite_kept (ite_kept (rillRecord_kept (setObj_kept (setObj_kept (setObj_kept (upd_fw_kept (setSlotState_kept (setObj_kept (upd_fw_kept g0)))))))) (rillRecord_kept (setObj_kept (setObj_kept (rillGone_kept (setSlotState_kept (setObj_kept (upd_fw_kept g0)))))))) (rillRecord_kept (setObj_kept (rillGone_kept (setSlotState_kept (upd_fw_kept g0))))))

theorem wRillKick_kept {a a0 a1 a2} (g0 : Kept a a2) : Kept a (wRillKick a0 a1 a2).1 := by
  unfold wRillKick
  try dsimp only
  exact (ite_fst_kept (fst_kept (refuse_kept g0)) (ite_fst_kept (fst_kept g0) (fst_kept (setObj_kept (upd_fw_kept g0)))))

theorem execRillKick_kept {a a0 a1 a2} (g0 : Kept a a2) : KeptOut a (execRillKick a0 a1 a2) := by
  unfold execRillKick
  try dsimp only
  exact (whenFree_kept g0 (fun _ h0 => (ackWrite_kept (wRillKick_kept h0))))

theorem spoilBlocks_kept {a a0 a1} (g0 : Kept a a1) : Kept a (spoilBlocks a0 a1) := by
  unfold spoilBlocks
  try dsimp only
  exact (flashWrite_kept (useFree_kept g0))

theorem clearLatches_kept {a a0 a1} (g0 : Kept a a1) : Kept a (clearLatches a0 a1) := by
  unfold clearLatches
  try dsimp only
  exact (upd_latches_kept g0)

theorem rillUnresponsive_kept {a a0 a1} (g0 : Kept a a1) : Kept a (rillUnresponsive a0 a1) := by
  unfold rillUnresponsive
  try dsimp only
  exact (ite_kept (capture_kept (upd_fw_kept (addObj_kept (setObj_kept (setParked_kept (clearLatches_kept (rillGone_kept g0))))))) (capture_kept (setObj_kept (rillGone_kept g0))))

theorem restartWeir_kept {a a0} (g0 : Kept a a0) : Kept a (restartWeir a0) := by
  unfold restartWeir
  try dsimp only
  exact (ite_kept (setParked_kept (clearLatches_kept (capture_kept (upd_fw_kept g0)))) g0)

theorem fwDataAccess_kept {a a0 a1} (g0 : Kept a a1) : Kept a (fwDataAccess a0 a1).2 := by
  unfold fwDataAccess
  try dsimp only
  exact (setObj_kept (by (try dsimp only); first | (split; exact (basicWrite_kept (upd_fw_kept g0)); exact g0) | (split <;> first | exact (basicWrite_kept (upd_fw_kept g0)) | exact g0)))

theorem execFwDataAccess_kept {a a0 a1 a2} (g0 : Kept a a2) : KeptOut a (execFwDataAccess a0 a1 a2) := by
  unfold execFwDataAccess
  try dsimp only
  exact (whenFree_kept g0 (fun _ h0 => (ite_kept (fwDataAccess_kept h0) (answer_kept (fwDataAccess_kept h0)))))

theorem execFlashCommandComplete_kept {a a0 a1} (g0 : Kept a a1) : KeptOut a (execFlashCommandComplete a0 a1) := by
  unfold execFlashCommandComplete
  try dsimp only
  exact (whenLive_kept g0 (fun _ h0 => (by (try dsimp only); first | (split; exact h0; exact (by (try dsimp only); first | (split; exact (fwResult_kept (upd_fw_kept h0)); exact (ite_kept (ite_kept (fwResult_kept (upd_fw_kept h0)) (fwResult_kept (spoilBlocks_kept (upd_fw_kept h0)))) (fwResult_kept (upd_fw_kept h0)))) | (split <;> first | exact (fwResult_kept (upd_fw_kept h0)) | exact (ite_kept (ite_kept (fwResult_kept (upd_fw_kept h0)) (fwResult_kept (spoilBlocks_kept (upd_fw_kept h0)))) (fwResult_kept (upd_fw_kept h0)))))) | (split <;> first | exact h0 | exact (by (try dsimp only); first | (split; exact (fwResult_kept (upd_fw_kept h0)); exact (ite_kept (ite_kept (fwResult_kept (upd_fw_kept h0)) (fwResult_kept (spoilBlocks_kept (upd_fw_kept h0)))) (fwResult_kept (upd_fw_kept h0)))) | (split <;> first | exact (fwResult_kept (upd_fw_kept h0)) | exact (ite_kept (ite_kept (fwResult_kept (upd_fw_kept h0)) (fwResult_kept (spoilBlocks_kept (upd_fw_kept h0)))) (fwResult_kept (upd_fw_kept h0)))))))))

theorem execStopRill_kept {a a0 a1} (g0 : Kept a a1) : KeptOut a (execStopRill a0 a1) := by
  unfold execStopRill
  try dsimp only
  exact (whenFree_kept g0 (fun _ h0 => (ackWrite_kept (wFwCommand_kept h0))))

theorem compatRead_kept {a a0} (g0 : Kept a a0) : Kept a (compatRead a0).2 := by
  unfold compatRead
  try dsimp only
  exact (setObj_kept g0)

theorem execCompatDataRead_kept {a a0 a1} (g0 : Kept a a1) : KeptOut a (execCompatDataRead a0 a1) := by
  unfold execCompatDataRead
  try dsimp only
  exact (whenFree_kept g0 (fun _ h0 => (answer_kept (compatRead_kept h0))))

theorem execRillWatchdogExpiry_kept {a a0} (g0 : Kept a a0) : KeptOut a (execRillWatchdogExpiry a0) := by
  unfold execRillWatchdogExpiry
  try dsimp only
  exact (whenLive_kept g0 (fun _ h0 => (ite_kept (rillUnresponsive_kept h0) h0)))

theorem execVerify_kept {a a0 a1} (g0 : Kept a a1) : KeptOut a (execVerify a0 a1) := by
  unfold execVerify
  try dsimp only
  exact (whenFree_kept g0 (fun _ h0 => (ackWrite_kept (wFwCommand_kept h0))))

theorem execRillImageReadComplete_kept {a a0} (g0 : Kept a a0) : KeptOut a (execRillImageReadComplete a0) := by
  unfold execRillImageReadComplete
  try dsimp only
  exact (whenLive_kept g0 (fun _ h0 => (by (try dsimp only); first | (split; exact h0; exact (ite_kept (finishRillStart_kept h0) (setFwStatus_kept (finishRillStart_kept h0)))) | (split <;> first | exact h0 | exact (ite_kept (finishRillStart_kept h0) (setFwStatus_kept (finishRillStart_kept h0)))))))

theorem execCopyFromHost_kept {a a0 a1 a2} (g0 : Kept a a2) : KeptOut a (execCopyFromHost a0 a1 a2) := by
  unfold execCopyFromHost
  try dsimp only
  exact (whenFree_kept g0 (fun _ h0 => (ackWrite_kept (wFwCommand_kept h0))))

theorem execProgramBlock_kept {a a0 a1} (g0 : Kept a a1) : KeptOut a (execProgramBlock a0 a1) := by
  unfold execProgramBlock
  try dsimp only
  exact (whenFree_kept g0 (fun _ h0 => (ackWrite_kept (wFwCommand_kept h0))))

theorem execLockstepMismatch_kept {a a0} (g0 : Kept a a0) : KeptOut a (execLockstepMismatch a0) := by
  unfold execLockstepMismatch
  try dsimp only
  exact (whenLive_kept g0 (fun _ h0 => (restartWeir_kept h0)))

theorem execRillException_kept {a a0} (g0 : Kept a a0) : KeptOut a (execRillException a0) := by
  unfold execRillException
  try dsimp only
  exact (whenLive_kept g0 (fun _ h0 => (ite_kept (rillUnresponsive_kept h0) h0)))

theorem execActivate_kept {a a0 a1} (g0 : Kept a a1) : KeptOut a (execActivate a0 a1) := by
  unfold execActivate
  try dsimp only
  exact (whenFree_kept g0 (fun _ h0 => (ackWrite_kept (wFwCommand_kept h0))))

theorem unmapPage_kept {a a0 a1 a2} (g0 : Kept a a2) : Kept a (unmapPage a0 a1 a2) := by
  unfold unmapPage
  try dsimp only
  exact (by (try dsimp only); first | (split; exact (setPageMap_kept (dropPage_kept g0)); exact g0) | (split <;> first | exact (setPageMap_kept (dropPage_kept g0)) | exact g0))

theorem unmapTiles_kept {a a0 a1} (g0 : Kept a a1) : Kept a (unmapTiles a0 a1) := by
  unfold unmapTiles
  try dsimp only
  exact (foldl_kept (fun _ _ h0 => (foldl_kept (fun _ _ h1 => (unmapPage_kept h1)) h0)) g0)

theorem reportLoad_kept {a a0 a1 a2 a3 a4} (g0 : Kept a a4) : Kept a (reportLoad a0 a1 a2 a3 a4) := by
  unfold reportLoad
  try dsimp only
  exact (capture_kept (setObj_kept g0))

theorem unloadPart_kept {a a0 a1} (g0 : Kept a a1) : Kept a (unloadPart a0 a1) := by
  unfold unloadPart
  try dsimp only
  exact (reportLoad_kept (updPart_kept (unmapTiles_kept g0)))

theorem beginWrites_kept {a a0 a1} (g0 : Kept a a1) : Kept a (beginWrites a0 a1) := by
  unfold beginWrites
  try dsimp only
  exact (updPart_kept (unmapTiles_kept g0))

theorem refuseLoad_kept {a a0} (g0 : Kept a a0) : Kept a (refuseLoad a0).1 := by
  unfold refuseLoad
  try dsimp only
  exact (refuseQuiet_kept (capture_kept g0))

theorem stopLoad_kept {a a0 a1} (g0 : Kept a a1) : Kept a (stopLoad a0 a1) := by
  unfold stopLoad
  try dsimp only
  exact (reportLoad_kept (upd_fab_kept (ite_kept g0 (unmapTiles_kept g0))))

theorem startLoad_kept {a a0 a1 a2} (g0 : Kept a a2) : Kept a (startLoad a0 a1 a2).1 := by
  unfold startLoad
  try dsimp only
  exact (ite_fst_kept (fst_kept (reportLoad_kept (setObj_kept g0))) (fst_kept (setObj_kept (upd_fab_kept (setObj_kept g0)))))

theorem wLoadCommand_kept {a a0 a1 a2 a3} (g0 : Kept a a3) : Kept a (wLoadCommand a0 a1 a2 a3).1 := by
  unfold wLoadCommand
  try dsimp only
  exact (ite_fst_kept (fst_kept (refuse_kept g0)) (by (try dsimp only); first | (split; exact (ite_fst_kept (fst_kept (stopLoad_kept g0)) (refuseLoad_kept g0)); exact (ite_fst_kept (fst_kept (reportLoad_kept g0)) (ite_fst_kept (startLoad_kept g0) (ite_fst_kept (ite_fst_kept (fst_kept (unloadPart_kept g0)) (fst_kept (reportLoad_kept g0))) (fst_kept g0))))) | (split <;> first | exact (ite_fst_kept (fst_kept (stopLoad_kept g0)) (refuseLoad_kept g0)) | exact (ite_fst_kept (fst_kept (reportLoad_kept g0)) (ite_fst_kept (startLoad_kept g0) (ite_fst_kept (ite_fst_kept (fst_kept (unloadPart_kept g0)) (fst_kept (reportLoad_kept g0))) (fst_kept g0)))))))

theorem execLoad_kept {a a0 a1 a2} (g0 : Kept a a2) : KeptOut a (execLoad a0 a1 a2) := by
  unfold execLoad
  try dsimp only
  exact (whenFree_kept g0 (fun _ h0 => (ackWrite_kept (wLoadCommand_kept h0))))

theorem execAbortLoad_kept {a a0 a1} (g0 : Kept a a1) : KeptOut a (execAbortLoad a0 a1) := by
  unfold execAbortLoad
  try dsimp only
  exact (whenFree_kept g0 (fun _ h0 => (ackWrite_kept (wLoadCommand_kept h0))))

theorem loadPage_kept {a a0 a1 a2 a3 a4} (g0 : Kept a a4) : Kept a (loadPage a0 a1 a2 a3 a4) := by
  unfold loadPage
  try dsimp only
  exact (by (try dsimp only); first | (split; exact (by (try dsimp only); first | (split; exact (freeSlotAt_kept (skipMoves_kept (settlePage_kept g0))); exact (skipMoves_kept (settlePage_kept g0))) | (split <;> first | exact (freeSlotAt_kept (skipMoves_kept (settlePage_kept g0))) | exact (skipMoves_kept (settlePage_kept g0)))); exact (upd_ci_kept (pushVersion_kept (setC_kept (by (try dsimp only); first | (split; exact (freeSlotAt_kept (skipMoves_kept (settlePage_kept g0))); exact (skipMoves_kept (settlePage_kept g0))) | (split <;> first | exact (freeSlotAt_kept (skipMoves_kept (settlePage_kept g0))) | exact (skipMoves_kept (settlePage_kept g0)))))))) | (split <;> first | exact (by (try dsimp only); first | (split; exact (freeSlotAt_kept (skipMoves_kept (settlePage_kept g0))); exact (skipMoves_kept (settlePage_kept g0))) | (split <;> first | exact (freeSlotAt_kept (skipMoves_kept (settlePage_kept g0))) | exact (skipMoves_kept (settlePage_kept g0)))) | exact (upd_ci_kept (pushVersion_kept (setC_kept (by (try dsimp only); first | (split; exact (freeSlotAt_kept (skipMoves_kept (settlePage_kept g0))); exact (skipMoves_kept (settlePage_kept g0))) | (split <;> first | exact (freeSlotAt_kept (skipMoves_kept (settlePage_kept g0))) | exact (skipMoves_kept (settlePage_kept g0)))))))))

theorem placeBytes_kept {a a0 a1 a2 a3} (g0 : Kept a a3) : Kept a (placeBytes a0 a1 a2 a3) := by
  unfold placeBytes
  try dsimp only
  exact (foldl_kept (fun _ _ h0 => (loadPage_kept h0)) g0)

theorem placeWeights_kept {a a0 a1 a2} (g0 : Kept a a2) : Kept a (placeWeights a0 a1 a2) := by
  unfold placeWeights
  try dsimp only
  exact (foldl_kept (fun _ _ h0 => (loadPage_kept h0)) (placeBytes_kept g0))

theorem noteImage_kept {a a0 a1} (g0 : Kept a a1) : Kept a (noteImage a0 a1) := by
  unfold noteImage
  try dsimp only
  exact (ite_kept (setObj_kept (setObj_kept g0)) g0)

theorem mapResident_kept {a a0 a1 a2 a3} (g0 : Kept a a3) : Kept a (mapResident a0 a1 a2 a3) := by
  unfold mapResident
  try dsimp only
  exact (by (try dsimp only); first | (split; exact g0; exact (by (try dsimp only); first | (split; exact g0; exact (setPageMap_kept (setFrame_kept g0))) | (split <;> first | exact g0 | exact (setPageMap_kept (setFrame_kept g0))))) | (split <;> first | exact g0 | exact (by (try dsimp only); first | (split; exact g0; exact (setPageMap_kept (setFrame_kept g0))) | (split <;> first | exact g0 | exact (setPageMap_kept (setFrame_kept g0))))))

theorem mapAll_kept {a a0 a1 a2} (g0 : Kept a a2) : Kept a (mapAll a0 a1 a2) := by
  unfold mapAll
  try dsimp only
  exact (foldl_kept (fun _ _ h0 => (foldl_kept (fun _ _ h1 => (mapResident_kept h1)) h0)) g0)

theorem execUnload_kept {a a0 a1} (g0 : Kept a a1) : KeptOut a (execUnload a0 a1) := by
  unfold execUnload
  try dsimp only
  exact (whenFree_kept g0 (fun _ h0 => (ackWrite_kept (wLoadCommand_kept h0))))

theorem placeRest_kept {a a0 a1 a2 a3 a4} (g0 : Kept a a4) : Kept a (placeRest a0 a1 a2 a3 a4) := by
  unfold placeRest
  try dsimp only
  exact (foldl_snd_kept (fun _ _ h0 => (placeBytes_kept h0)) g0)

theorem writeRest_kept {a a0 a1 a2} (g0 : Kept a a2) : Kept a (writeRest a0 a1 a2) := by
  unfold writeRest
  try dsimp only
  exact (updPart_kept (placeRest_kept g0))

theorem writePages_kept {a a0 a1 a2} (g0 : Kept a a2) : Kept a (writePages a0 a1 a2) := by
  unfold writePages
  try dsimp only
  exact (setObj_kept (mapAll_kept g0))

theorem leavePhase_kept {a a0 a1 a2 a3} (g0 : Kept a a3) : Kept a (leavePhase a0 a1 a2 a3) := by
  unfold leavePhase
  try dsimp only
  exact (by (try dsimp only); first | (split; exact (beginWrites_kept g0); exact (placeWeights_kept g0); exact (writePages_kept g0); exact (writeRest_kept g0); exact g0) | (split <;> first | exact (beginWrites_kept g0) | exact (placeWeights_kept g0) | exact (writePages_kept g0) | exact (writeRest_kept g0) | exact g0))

theorem leavePhases_kept {a a0 a1 a2 a3 a4} (g0 : Kept a a4) : Kept a (leavePhases a0 a1 a2 a3 a4) := by
  unfold leavePhases
  try dsimp only
  exact (foldl_kept (fun _ _ h0 => (leavePhase_kept h0)) g0)

theorem reachPhase_kept {a a0 a1 a2} (g0 : Kept a a2) : Kept a (reachPhase a0 a1 a2) := by
  unfold reachPhase
  try dsimp only
  exact (by (try dsimp only); first | (split; exact (reportLoad_kept (noteImage_kept (upd_fab_kept g0))); exact (ite_kept (reportLoad_kept (setObj_kept (upd_fab_kept (leavePhases_kept (ite_kept (noteImage_kept g0) g0))))) (setObj_kept (upd_fab_kept (leavePhases_kept (ite_kept (noteImage_kept g0) g0)))))) | (split <;> first | exact (reportLoad_kept (noteImage_kept (upd_fab_kept g0))) | exact (ite_kept (reportLoad_kept (setObj_kept (upd_fab_kept (leavePhases_kept (ite_kept (noteImage_kept g0) g0))))) (setObj_kept (upd_fab_kept (leavePhases_kept (ite_kept (noteImage_kept g0) g0)))))))

theorem execLoadComplete_kept {a a0 a1} (g0 : Kept a a1) : KeptOut a (execLoadComplete a0 a1) := by
  unfold execLoadComplete
  try dsimp only
  exact (whenLive_kept g0 (fun _ h0 => (by (try dsimp only); first | (split; exact (ite_kept (reachPhase_kept h0) h0); exact h0) | (split <;> first | exact (ite_kept (reachPhase_kept h0) h0) | exact h0))))

theorem loadReadFails_kept {a a0 a1} (g0 : Kept a a1) : Kept a (loadReadFails a0 a1) := by
  unfold loadReadFails
  try dsimp only
  exact (by (try dsimp only); first | (split; exact (ite_kept g0 (reportLoad_kept (upd_fab_kept g0))); exact g0) | (split <;> first | exact (ite_kept g0 (reportLoad_kept (upd_fab_kept g0))) | exact g0))

theorem dropHeld_kept {a a0 a1} (g0 : Kept a a1) : Kept a (dropHeld a0 a1) := by
  unfold dropHeld
  try dsimp only
  exact (setOverlay_kept g0)

theorem leaveRing_kept {a a0 a1} (g0 : Kept a a1) : Kept a (leaveRing a0 a1) := by
  unfold leaveRing
  try dsimp only
  exact (dropHeld_kept (freeStrips_kept g0))

theorem stopRing_kept {a a0 a1} (g0 : Kept a a1) : Kept a (stopRing a0 a1) := by
  unfold stopRing
  try dsimp only
  exact (foldl_kept (fun _ _ h0 => (leaveRing_kept h0)) (setPcie_kept (setRing_kept (setObj_kept (addObj_kept g0)))))

theorem stopRings_kept {a a0 a1} (g0 : Kept a a1) : Kept a (stopRings a0 a1) := by
  unfold stopRings
  try dsimp only
  exact (addObj_kept (foldl_kept (fun _ _ h0 => (ite_kept (stopRing_kept h0) h0)) g0))

theorem wDmaPhase_kept {a a0 a1 a2 a3} (g0 : Kept a a3) : Kept a (wDmaPhase a0 a1 a2 a3).1 := by
  unfold wDmaPhase
  try dsimp only
  exact (ite_fst_kept (fst_kept (refuse_kept g0)) (ite_fst_kept (fst_kept (applyPhase_kept (setObj_kept g0))) (fst_kept (refuse_kept g0))))

theorem takeInput_kept {a a0 a1 a2 a3} (g0 : Kept a a3) : Kept a (takeInput a0 a1 a2 a3) := by
  unfold takeInput
  try dsimp only
  exact (sourceFrame_kept (ite_kept (foldl_kept (fun _ _ h0 => (goodSet_kept h0)) (by (try dsimp only); first | (split; exact g0; exact (foldl_kept (fun _ _ h0 => (writeRegion_kept h0)) g0)) | (split <;> first | exact g0 | exact (foldl_kept (fun _ _ h0 => (writeRegion_kept h0)) g0)))) (by (try dsimp only); first | (split; exact g0; exact (foldl_kept (fun _ _ h0 => (writeRegion_kept h0)) g0)) | (split <;> first | exact g0 | exact (foldl_kept (fun _ _ h0 => (writeRegion_kept h0)) g0)))))

theorem sendPart_kept {a a0 a1 a2} (g0 : Kept a a2) : Kept a (sendPart a0 a1 a2) := by
  unfold sendPart
  try dsimp only
  exact (by (try dsimp only); first | (split; exact g0; exact (ite_kept g0 (emit_kept (setRing_kept (upd_free_kept g0))))) | (split <;> first | exact g0 | exact (ite_kept g0 (emit_kept (setRing_kept (upd_free_kept g0))))))

theorem settleRing_kept {a a0 a1} (g0 : Kept a a1) : Kept a (settleRing a0 a1) := by
  unfold settleRing
  try dsimp only
  exact (ite_kept (setObj_kept g0) g0)

theorem abandonFrame_kept {a a0 a1 a2} (g0 : Kept a a2) : Kept a (abandonFrame a0 a1 a2) := by
  unfold abandonFrame
  try dsimp only
  exact (by (try dsimp only); first | (split; exact g0; exact (leaveRing_kept (settleRing_kept (setPcie_kept (setRing_kept g0))))) | (split <;> first | exact g0 | exact (leaveRing_kept (settleRing_kept (setPcie_kept (setRing_kept g0))))))

theorem abandonRing_kept {a a0 a1 a2 a3} (g0 : Kept a a3) : Kept a (abandonRing a0 a1 a2 a3) := by
  unfold abandonRing
  try dsimp only
  exact (foldl_kept (fun _ _ h0 => (abandonFrame_kept h0)) g0)

theorem stallPort_kept {a a0 a1 a2} (g0 : Kept a a2) : Kept a (stallPort a0 a1 a2) := by
  unfold stallPort
  try dsimp only
  exact (notePosted_kept (capture_kept (addObj_kept (foldl_kept (fun _ _ h0 => (abandonRing_kept h0)) (sendPart_kept g0)))))

theorem applyDma_kept {a a0 a1 a2} (g0 : Kept a a2) : Kept a (applyDma a0 a1 a2) := by
  unfold applyDma
  try dsimp only
  exact (setObj_kept (setObj_kept (setRing_kept (setObj_kept g0))))

theorem completeDesc_kept {a a0 a1 a2 a3 a4 a5} (g0 : Kept a a5) : Kept a (completeDesc a0 a1 a2 a3 a4 a5) := by
  unfold completeDesc
  try dsimp only
  exact (settleRing_kept (ite_kept (sendMsix_kept (ite_kept (addObj_kept (setField_kept (setRing_kept (emit_kept (notePosted_kept g0))))) (addObj_kept (setField_kept (setRing_kept (emit_kept (notePosted_kept g0))))))) (ite_kept (addObj_kept (setField_kept (setRing_kept (emit_kept (notePosted_kept g0))))) (addObj_kept (setField_kept (setRing_kept (emit_kept (notePosted_kept g0))))))))

theorem endFrame_kept {a a0 a1 a2 a3} (g0 : Kept a a3) : Kept a (endFrame a0 a1 a2 a3) := by
  unfold endFrame
  try dsimp only
  exact (by (try dsimp only); first | (split; exact g0; exact (leaveRing_kept (completeDesc_kept (setRing_kept g0)))) | (split <;> first | exact g0 | exact (leaveRing_kept (completeDesc_kept (setRing_kept g0)))))

theorem writeBand_kept {a a0 a1 a2 a3} (g0 : Kept a a3) : Kept a (writeBand a0 a1 a2 a3) := by
  unfold writeBand
  try dsimp only
  exact (ite_kept (endFrame_kept (setRing_kept (ite_kept (setOverlay_kept (ite_kept (takeSets_kept (notePosted_kept (emit_kept (upd_free_kept g0)))) (notePosted_kept (emit_kept (upd_free_kept g0))))) (ite_kept (takeSets_kept (notePosted_kept (emit_kept (upd_free_kept g0)))) (notePosted_kept (emit_kept (upd_free_kept g0))))))) (setRing_kept (ite_kept (setOverlay_kept (ite_kept (takeSets_kept (notePosted_kept (emit_kept (upd_free_kept g0)))) (notePosted_kept (emit_kept (upd_free_kept g0))))) (ite_kept (takeSets_kept (notePosted_kept (emit_kept (upd_free_kept g0)))) (notePosted_kept (emit_kept (upd_free_kept g0)))))))

theorem execDoorbellWrite_kept {a a0 a1 a2 a3 a4} (g0 : Kept a a4) : KeptOut a (execDoorbellWrite a0 a1 a2 a3 a4) := by
  unfold execDoorbellWrite
  try dsimp only
  exact (whenLive_kept g0 (fun _ h0 => (ite_kept h0 (ite_kept (refuse_kept h0) (settleRing_kept (setField_kept (setRing_kept h0)))))))

theorem execInputReadCompletion_kept {a a0 a1 a2} (g0 : Kept a a2) : KeptOut a (execInputReadCompletion a0 a1 a2) := by
  unfold execInputReadCompletion
  try dsimp only
  exact (whenLive_kept g0 (fun _ h0 => (by (try dsimp only); first | (split; exact h0; exact (ite_kept (completeDesc_kept h0) (ite_kept (completeDesc_kept h0) (completeDesc_kept (foldl_kept (fun _ _ h1 => (takeInput_kept h1)) h0))))) | (split <;> first | exact h0 | exact (ite_kept (completeDesc_kept h0) (ite_kept (completeDesc_kept h0) (completeDesc_kept (foldl_kept (fun _ _ h1 => (takeInput_kept h1)) h0))))))))

theorem execStallLimitExpiry_kept {a a0 a1} (g0 : Kept a a1) : KeptOut a (execStallLimitExpiry a0 a1) := by
  unfold execStallLimitExpiry
  try dsimp only
  exact (whenLive_kept g0 (fun _ h0 => (ite_kept (stallPort_kept h0) h0)))

theorem execLateAbandon_kept {a a0 a1} (g0 : Kept a a1) : KeptOut a (execLateAbandon a0 a1) := by
  unfold execLateAbandon
  try dsimp only
  exact (whenLive_kept g0 (fun _ h0 => (ite_kept (by (try dsimp only); first | (split; exact h0; exact (ite_kept h0 (ite_kept (stallPort_kept h0) (capture_kept (abandonFrame_kept h0))))) | (split <;> first | exact h0 | exact (ite_kept h0 (ite_kept (stallPort_kept h0) (capture_kept (abandonFrame_kept h0)))))) h0)))

theorem execPciePowerStateWrite_kept {a a0 a1 a2} (g0 : Kept a a2) : KeptOut a (execPciePowerStateWrite a0 a1 a2) := by
  unfold execPciePowerStateWrite
  try dsimp only
  exact (whenLive_kept g0 (fun _ h0 => (setPcie_kept h0)))

theorem sendOwed_kept {a a0 a1} (g0 : Kept a a1) : Kept a (sendOwed a0 a1) := by
  unfold sendOwed
  try dsimp only
  exact (foldl_kept (fun _ _ h0 => (completeDesc_kept (setRing_kept h0))) (setPcie_kept g0))

theorem execOutputBandWrite_kept {a a0 a1} (g0 : Kept a a1) : KeptOut a (execOutputBandWrite a0 a1) := by
  unfold execOutputBandWrite
  try dsimp only
  exact (whenLive_kept g0 (fun _ h0 => (by (try dsimp only); first | (split; exact (ite_kept (sendOwed_kept h0) h0); exact (ite_kept (endFrame_kept (ite_kept (sendOwed_kept h0) h0)) (writeBand_kept (ite_kept (sendOwed_kept h0) h0)))) | (split <;> first | exact (ite_kept (sendOwed_kept h0) h0) | exact (ite_kept (endFrame_kept (ite_kept (sendOwed_kept h0) h0)) (writeBand_kept (ite_kept (sendOwed_kept h0) h0)))))))

theorem execCompletionTimeout_kept {a a0 a1 a2} (g0 : Kept a a2) : KeptOut a (execCompletionTimeout a0 a1 a2) := by
  unfold execCompletionTimeout
  try dsimp only
  exact (whenLive_kept g0 (fun _ h0 => (by (try dsimp only); first | (split; exact (by (try dsimp only); first | (split; exact h0; exact (useFree_kept (completeDesc_kept h0))) | (split <;> first | exact h0 | exact (useFree_kept (completeDesc_kept h0)))); exact (loadReadFails_kept h0); exact (by (try dsimp only); first | (split; exact (ite_kept (fwResult_kept (spoilBlocks_kept (upd_fw_kept h0))) h0); exact h0) | (split <;> first | exact (ite_kept (fwResult_kept (spoilBlocks_kept (upd_fw_kept h0))) h0) | exact h0))) | (split <;> first | exact (by (try dsimp only); first | (split; exact h0; exact (useFree_kept (completeDesc_kept h0))) | (split <;> first | exact h0 | exact (useFree_kept (completeDesc_kept h0)))) | exact (loadReadFails_kept h0) | exact (by (try dsimp only); first | (split; exact (ite_kept (fwResult_kept (spoilBlocks_kept (upd_fw_kept h0))) h0); exact h0) | (split <;> first | exact (ite_kept (fwResult_kept (spoilBlocks_kept (upd_fw_kept h0))) h0) | exact h0))))))

theorem execFunctionLevelReset_kept {a a0 a1} (g0 : Kept a a1) : KeptOut a (execFunctionLevelReset a0 a1) := by
  unfold execFunctionLevelReset
  try dsimp only
  exact (whenLive_kept g0 (fun _ h0 => (clearLatches_kept (setPcie_kept (upd_io_kept (stopRings_kept h0))))))

theorem wDmaConfig_kept {a a0 a1 a2 a3} (g0 : Kept a a3) : Kept a (wDmaConfig a0 a1 a2 a3).1 := by
  unfold wDmaConfig
  try dsimp only
  exact (by (try dsimp only); first | (split; exact (fst_kept (refuse_kept g0)); exact (fst_kept (applyDma_kept g0))) | (split <;> first | exact (fst_kept (refuse_kept g0)) | exact (fst_kept (applyDma_kept g0))))

theorem execPcieFlitRetry_kept {a a0 a1} (g0 : Kept a a1) : KeptOut a (execPcieFlitRetry a0 a1) := by
  unfold execPcieFlitRetry
  try dsimp only
  exact (whenLive_kept g0 (fun _ h0 => h0))

theorem wDmaRing_kept {a a0 a1 a2 a3 a4} (g0 : Kept a a4) : Kept a (wDmaRing a0 a1 a2 a3 a4).1 := by
  unfold wDmaRing
  try dsimp only
  exact (ite_fst_kept (fst_kept (refuse_kept g0)) (ite_fst_kept (fst_kept (refuse_kept g0)) (fst_kept (setObj_kept g0))))

theorem execPcieLinkUp_kept {a a0 a1 a2 a3} (g0 : Kept a a3) : KeptOut a (execPcieLinkUp a0 a1 a2 a3) := by
  unfold execPcieLinkUp
  try dsimp only
  exact (whenLive_kept g0 (fun _ h0 => (setObj_kept h0)))

theorem execPcieLinkDown_kept {a a0 a1} (g0 : Kept a a1) : KeptOut a (execPcieLinkDown a0 a1) := by
  unfold execPcieLinkDown
  try dsimp only
  exact (whenLive_kept g0 (fun _ h0 => (ite_kept (setObj_kept (stopRings_kept h0)) h0)))

theorem setLink_kept {a a0 a1 a2} (g0 : Kept a a2) : Kept a (setLink a0 a1 a2) := by
  unfold setLink
  try dsimp only
  exact (upd_fab_kept g0)

theorem loseLane_kept {a a0 a1 a2 a3 a4} (g0 : Kept a a4) : Kept a (loseLane a0 a1 a2 a3 a4) := by
  unfold loseLane
  try dsimp only
  exact (learn_kept (setLink_kept g0))

theorem startLinkRetrain_kept {a a0 a1} (g0 : Kept a a1) : Kept a (startLinkRetrain a0 a1) := by
  unfold startLinkRetrain
  try dsimp only
  exact (setLinkState_kept (setLink_kept g0))

theorem rerouteLink_kept {a a0 a1 a2} (g0 : Kept a a2) : Kept a (rerouteLink a0 a1 a2) := by
  unfold rerouteLink
  try dsimp only
  exact (ite_kept (perturb_kept (startLinkRetrain_kept g0)) (startLinkRetrain_kept g0))

theorem execLaneFailure_kept {a a0 a1 a2 a3 a4} (g0 : Kept a a4) : KeptOut a (execLaneFailure a0 a1 a2 a3 a4) := by
  unfold execLaneFailure
  try dsimp only
  exact (whenLive_kept g0 (fun _ h0 => (ite_kept (ite_kept (ite_kept (loseLane_kept h0) (setLink_kept (loseLane_kept h0))) (ite_kept (rerouteLink_kept (loseLane_kept h0)) (loseLane_kept h0))) h0)))

theorem replayFlit_kept {a a0 a1} (g0 : Kept a a1) : Kept a (replayFlit a0 a1) := by
  unfold replayFlit
  try dsimp only
  exact (ite_kept (startLinkRetrain_kept (perfCount_kept g0)) (setLink_kept (perfCount_kept g0)))

theorem execFlitCheckFailure_kept {a a0 a1 a2} (g0 : Kept a a2) : KeptOut a (execFlitCheckFailure a0 a1 a2) := by
  unfold execFlitCheckFailure
  try dsimp only
  exact (whenLive_kept g0 (fun _ h0 => (ite_kept (ite_kept (perturb_kept (replayFlit_kept h0)) (replayFlit_kept h0)) h0)))

theorem retrainRecord_kept {a a0 a1 a2} (g0 : Kept a a2) : Kept a (retrainRecord a0 a1 a2) := by
  unfold retrainRecord
  try dsimp only
  exact (capture_kept g0)

theorem execLinkRetrainComplete_kept {a a0 a1 a2 a3} (g0 : Kept a a3) : KeptOut a (execLinkRetrainComplete a0 a1 a2 a3) := by
  unfold execLinkRetrainComplete
  try dsimp only
  exact (whenLive_kept g0 (fun _ h0 => (ite_kept (ite_kept (retrainRecord_kept (setLinkState_kept (setLink_kept (foldl_kept (fun _ _ h1 => (ite_kept h1 (loseLane_kept h1))) h0)))) (retrainRecord_kept (setLinkState_kept (setLink_kept (foldl_kept (fun _ _ h1 => (ite_kept h1 (loseLane_kept h1))) h0))))) h0)))

theorem execLinkRetrain_kept {a a0 a1 a2} (g0 : Kept a a2) : KeptOut a (execLinkRetrain a0 a1 a2) := by
  unfold execLinkRetrain
  try dsimp only
  exact (whenLive_kept g0 (fun _ h0 => (ite_kept (rerouteLink_kept h0) h0)))

theorem execLinkSlip_kept {a a0 a1} (g0 : Kept a a1) : KeptOut a (execLinkSlip a0 a1) := by
  unfold execLinkSlip
  try dsimp only
  exact (whenLive_kept g0 (fun _ h0 => (ite_kept (rerouteLink_kept h0) h0)))

theorem execLinkRetrainRetry_kept {a a0 a1} (g0 : Kept a a1) : KeptOut a (execLinkRetrainRetry a0 a1) := by
  unfold execLinkRetrainRetry
  try dsimp only
  exact (whenLive_kept g0 (fun _ h0 => (by (try dsimp only); first | (split; exact (ite_kept (setLinkState_kept (setLink_kept h0)) h0); exact h0) | (split <;> first | exact (ite_kept (setLinkState_kept (setLink_kept h0)) h0) | exact h0))))

theorem execGroupRetrainComplete_kept {a a0 a1 a2 a3} (g0 : Kept a a3) : KeptOut a (execGroupRetrainComplete a0 a1 a2 a3) := by
  unfold execGroupRetrainComplete
  try dsimp only
  exact (whenLive_kept g0 (fun _ h0 => (setLink_kept h0)))

theorem spoilWord_kept {a a0 a1 a2} (g0 : Kept a a2) : Kept a (spoilWord a0 a1 a2) := by
  unfold spoilWord
  try dsimp only
  exact (useFree_kept (writeFrame_kept g0))

theorem concealDelayed_kept {a a0 a1 a2} (g0 : Kept a a2) : Kept a (concealDelayed a0 a1 a2) := by
  unfold concealDelayed
  try dsimp only
  exact (by (try dsimp only); first | (split; exact g0; exact (addObj_kept (setAudio_kept g0))) | (split <;> first | exact g0 | exact (addObj_kept (setAudio_kept g0))))

theorem movePins_kept {a a0 a1} (g0 : Kept a a1) : Kept a (movePins a0 a1) := by
  unfold movePins
  try dsimp only
  exact (foldl_kept (fun _ _ h0 => (foldl_kept (fun _ _ h1 => (updSlot_kept h1)) h0)) g0)

theorem moveSite_kept {a a0 a1 a2} (g0 : Kept a a2) : Kept a (moveSite a0 a1 a2) := by
  unfold moveSite
  try dsimp only
  exact (foldl_kept (fun _ _ h0 => (setObj_kept (setObj_kept h0))) (foldl_kept (fun _ _ h0 => (upd_fab_kept h0)) (movePins_kept (foldl_kept (fun _ _ h0 => (setPageMap_kept h0)) (foldl_kept (fun _ _ h0 => (freeFrameAt_kept (setFrame_kept h0))) g0)))))

theorem stopLoadOf_kept {a a0 a1} (g0 : Kept a a1) : Kept a (stopLoadOf a0 a1) := by
  unfold stopLoadOf
  try dsimp only
  exact (by (try dsimp only); first | (split; exact (ite_kept (stopLoad_kept g0) g0); exact g0) | (split <;> first | exact (ite_kept (stopLoad_kept g0) g0) | exact g0))

theorem killSite_kept {a a0 a1} (g0 : Kept a a1) : Kept a (killSite a0 a1) := by
  unfold killSite
  try dsimp only
  exact (foldl_kept (fun _ _ h0 => (foldl_kept (fun _ _ h1 => (ite_kept (startKill_kept h1) h1)) h0)) g0)

theorem tileRecord_kept {a a0 a1 a2 a3} (g0 : Kept a a3) : Kept a (tileRecord a0 a1 a2 a3) := by
  unfold tileRecord
  try dsimp only
  exact (capture_kept g0)

theorem loseSite_kept {a a0 a1} (g0 : Kept a a1) : Kept a (loseSite a0 a1) := by
  unfold loseSite
  try dsimp only
  exact (by (try dsimp only); first | (split; exact (jobFault_kept (stopLoadOf_kept (tileRecord_kept (learn_kept (foldl_kept (fun _ _ h0 => (setObj_kept h0)) (killSite_kept g0)))))); exact (tileRecord_kept (learn_kept (foldl_kept (fun _ _ h0 => (setObj_kept h0)) (killSite_kept g0))))) | (split <;> first | exact (jobFault_kept (stopLoadOf_kept (tileRecord_kept (learn_kept (foldl_kept (fun _ _ h0 => (setObj_kept h0)) (killSite_kept g0)))))) | exact (tileRecord_kept (learn_kept (foldl_kept (fun _ _ h0 => (setObj_kept h0)) (killSite_kept g0))))))

theorem loseMoves_kept {a a0 a1} (g0 : Kept a a1) : Kept a (loseMoves a0 a1) := by
  unfold loseMoves
  try dsimp only
  exact (foldl_kept (fun _ _ h0 => (loseSite_kept (ite_kept h0 (updPart_kept h0)))) (upd_fab_kept g0))

theorem reclaimTile_kept {a a0 a1 a2} (g0 : Kept a a2) : Kept a (reclaimTile a0 a1 a2) := by
  unfold reclaimTile
  try dsimp only
  exact (ite_kept g0 (ite_kept (startReclaim_kept g0) (updPart_kept g0)))

theorem startMove_kept {a a0 a1 a2 a3} (g0 : Kept a a3) : Kept a (startMove a0 a1 a2 a3) := by
  unfold startMove
  try dsimp only
  exact (perturb_kept (foldl_kept (fun _ _ h0 => (reclaimTile_kept h0)) (killSite_kept (updPart_kept (upd_fab_kept (stopLoadOf_kept g0))))))

theorem failSite_kept {a a0 a1 a2} (g0 : Kept a a2) : Kept a (failSite a0 a1 a2) := by
  unfold failSite
  try dsimp only
  exact (ite_kept (by (try dsimp only); first | (split; exact (ite_kept (startMove_kept (loseMoves_kept g0)) (ite_kept g0 (upd_fab_kept g0))); exact (releaseResets_kept (loseSite_kept (loseMoves_kept g0)))) | (split <;> first | exact (ite_kept (startMove_kept (loseMoves_kept g0)) (ite_kept g0 (upd_fab_kept g0))) | exact (releaseResets_kept (loseSite_kept (loseMoves_kept g0))))) g0)

theorem resumeFaults_kept {a a0} (g0 : Kept a a0) : Kept a (resumeFaults a0) := by
  unfold resumeFaults
  try dsimp only
  exact (foldl_kept (fun _ _ h0 => (failSite_kept h0)) (upd_fab_kept g0))

theorem execWeirRestartComplete_kept {a a0} (g0 : Kept a a0) : KeptOut a (execWeirRestartComplete a0) := by
  unfold execWeirRestartComplete
  try dsimp only
  exact (whenLive_kept g0 (fun _ h0 => (by (try dsimp only); first | (split; exact h0; exact (by (try dsimp only); first | (split; exact (resumeFaults_kept (runWeir_kept h0)); exact (upd_fw_kept h0)) | (split <;> first | exact (resumeFaults_kept (runWeir_kept h0)) | exact (upd_fw_kept h0)))) | (split <;> first | exact h0 | exact (by (try dsimp only); first | (split; exact (resumeFaults_kept (runWeir_kept h0)); exact (upd_fw_kept h0)) | (split <;> first | exact (resumeFaults_kept (runWeir_kept h0)) | exact (upd_fw_kept h0)))))))

theorem binError_kept {a a0 a1} (g0 : Kept a a1) : Kept a (binError a0 a1) := by
  unfold binError
  try dsimp only
  exact (ite_kept (setOverlay_kept g0) (by (try dsimp only); first | (split; exact g0; exact (capture_kept (setObj_kept (addObj_kept (addObj_kept (setOverlay_kept g0)))))) | (split <;> first | exact g0 | exact (capture_kept (setObj_kept (addObj_kept (addObj_kept (setOverlay_kept g0))))))))

theorem execTileMoveComplete_kept {a a0 a1} (g0 : Kept a a1) : KeptOut a (execTileMoveComplete a0 a1) := by
  unfold execTileMoveComplete
  try dsimp only
  exact (whenLive_kept g0 (fun _ h0 => (by (try dsimp only); first | (split; exact h0; exact (ite_kept (releaseResets_kept (ite_kept (tileRecord_kept (learn_kept (upd_fab_kept (moveSite_kept h0)))) (updPart_kept (tileRecord_kept (learn_kept (upd_fab_kept (moveSite_kept h0))))))) h0)) | (split <;> first | exact h0 | exact (ite_kept (releaseResets_kept (ite_kept (tileRecord_kept (learn_kept (upd_fab_kept (moveSite_kept h0)))) (updPart_kept (tileRecord_kept (learn_kept (upd_fab_kept (moveSite_kept h0))))))) h0)))))

theorem execTileFault_kept {a a0 a1 a2} (g0 : Kept a a2) : KeptOut a (execTileFault a0 a1 a2) := by
  unfold execTileFault
  try dsimp only
  exact (whenLive_kept g0 (fun _ h0 => (failSite_kept h0)))

theorem reloadPage_kept {a a0 a1 a2 a3 a4} (g0 : Kept a a4) : Kept a (reloadPage a0 a1 a2 a3 a4) := by
  unfold reloadPage
  try dsimp only
  exact (setFrame_kept g0)

theorem tileWordError_kept {a a0 a1 a2} (g0 : Kept a a2) : Kept a (tileWordError a0 a1 a2) := by
  unfold tileWordError
  try dsimp only
  exact (by (try dsimp only); first | (split; exact g0; exact (by (try dsimp only); first | (split; exact (spoilWord_kept g0); exact (by (try dsimp only); first | (split; exact (spoilWord_kept g0); exact (by (try dsimp only); first | (split; exact (reloadPage_kept g0); exact (jobFault_kept (spoilWord_kept g0))) | (split <;> first | exact (reloadPage_kept g0) | exact (jobFault_kept (spoilWord_kept g0))))) | (split <;> first | exact (spoilWord_kept g0) | exact (by (try dsimp only); first | (split; exact (reloadPage_kept g0); exact (jobFault_kept (spoilWord_kept g0))) | (split <;> first | exact (reloadPage_kept g0) | exact (jobFault_kept (spoilWord_kept g0))))))) | (split <;> first | exact (spoilWord_kept g0) | exact (by (try dsimp only); first | (split; exact (spoilWord_kept g0); exact (by (try dsimp only); first | (split; exact (reloadPage_kept g0); exact (jobFault_kept (spoilWord_kept g0))) | (split <;> first | exact (reloadPage_kept g0) | exact (jobFault_kept (spoilWord_kept g0))))) | (split <;> first | exact (spoilWord_kept g0) | exact (by (try dsimp only); first | (split; exact (reloadPage_kept g0); exact (jobFault_kept (spoilWord_kept g0))) | (split <;> first | exact (reloadPage_kept g0) | exact (jobFault_kept (spoilWord_kept g0))))))))) | (split <;> first | exact g0 | exact (by (try dsimp only); first | (split; exact (spoilWord_kept g0); exact (by (try dsimp only); first | (split; exact (spoilWord_kept g0); exact (by (try dsimp only); first | (split; exact (reloadPage_kept g0); exact (jobFault_kept (spoilWord_kept g0))) | (split <;> first | exact (reloadPage_kept g0) | exact (jobFault_kept (spoilWord_kept g0))))) | (split <;> first | exact (spoilWord_kept g0) | exact (by (try dsimp only); first | (split; exact (reloadPage_kept g0); exact (jobFault_kept (spoilWord_kept g0))) | (split <;> first | exact (reloadPage_kept g0) | exact (jobFault_kept (spoilWord_kept g0))))))) | (split <;> first | exact (spoilWord_kept g0) | exact (by (try dsimp only); first | (split; exact (spoilWord_kept g0); exact (by (try dsimp only); first | (split; exact (reloadPage_kept g0); exact (jobFault_kept (spoilWord_kept g0))) | (split <;> first | exact (reloadPage_kept g0) | exact (jobFault_kept (spoilWord_kept g0))))) | (split <;> first | exact (spoilWord_kept g0) | exact (by (try dsimp only); first | (split; exact (reloadPage_kept g0); exact (jobFault_kept (spoilWord_kept g0))) | (split <;> first | exact (reloadPage_kept g0) | exact (jobFault_kept (spoilWord_kept g0))))))))))

theorem lineError_kept {a a0 a1 a2} (g0 : Kept a a2) : Kept a (lineError a0 a1 a2) := by
  unfold lineError
  try dsimp only
  exact (setPort_kept g0)

theorem killUnits_kept {a a0 a1} (g0 : Kept a a1) : Kept a (killUnits a0 a1) := by
  unfold killUnits
  try dsimp only
  exact (foldl_kept (fun _ _ h0 => (ite_kept h0 (startKill_kept h0))) g0)

theorem execMotionEngineFault_kept {a a0 a1} (g0 : Kept a a1) : KeptOut a (execMotionEngineFault a0 a1) := by
  unfold execMotionEngineFault
  try dsimp only
  exact (whenLive_kept g0 (fun _ h0 => (ite_kept (capture_kept (learn_kept (setObj_kept (upd_fab_kept (killUnits_kept h0))))) h0)))

theorem slotWordError_kept {a a0 a1 a2} (g0 : Kept a a2) : Kept a (slotWordError a0 a1 a2) := by
  unfold slotWordError
  try dsimp only
  exact (ite_kept (refuseCommand_kept g0) g0)

theorem wordError_kept {a a0 a1 a2 a3} (g0 : Kept a a3) : Kept a (wordError a0 a1 a2 a3) := by
  unfold wordError
  try dsimp only
  exact (by (try dsimp only); first | (split; exact (ite_kept (tileWordError_kept g0) (slotWordError_kept g0)); exact (by (try dsimp only); first | (split; exact (jobFault_kept (applyUpdate_kept g0)); exact (applyUpdate_kept g0)) | (split <;> first | exact (jobFault_kept (applyUpdate_kept g0)) | exact (applyUpdate_kept g0))); exact (concealDelayed_kept g0); exact (binError_kept g0); exact (lineError_kept g0); exact (ite_kept (rillUnresponsive_kept g0) g0); exact (putSlot_kept g0)) | (split <;> first | exact (ite_kept (tileWordError_kept g0) (slotWordError_kept g0)) | exact (by (try dsimp only); first | (split; exact (jobFault_kept (applyUpdate_kept g0)); exact (applyUpdate_kept g0)) | (split <;> first | exact (jobFault_kept (applyUpdate_kept g0)) | exact (applyUpdate_kept g0))) | exact (concealDelayed_kept g0) | exact (binError_kept g0) | exact (lineError_kept g0) | exact (ite_kept (rillUnresponsive_kept g0) g0) | exact (putSlot_kept g0)))

theorem execUncorrectableSramError_kept {a a0 a1 a2 a3} (g0 : Kept a a3) : KeptOut a (execUncorrectableSramError a0 a1 a2 a3) := by
  unfold execUncorrectableSramError
  try dsimp only
  exact (whenLive_kept g0 (fun _ h0 => (ite_kept (restartWeir_kept h0) (ite_kept h0 (capture_kept (wordError_kept h0))))))

theorem execSramScrub_kept {a a0 a1 a2 a3} (g0 : Kept a a3) : KeptOut a (execSramScrub a0 a1 a2 a3) := by
  unfold execSramScrub
  try dsimp only
  exact (whenLive_kept g0 (fun _ h0 => (ite_kept (perfCount_kept h0) h0)))

theorem killDie_kept {a a0 a1} (g0 : Kept a a1) : Kept a (killDie a0 a1) := by
  unfold killDie
  try dsimp only
  exact (foldl_kept (fun _ _ h0 => (foldl_kept (fun _ _ h1 => (foldl_kept (fun _ _ h2 => (startKill_kept h2)) h1)) h0)) (foldl_kept (fun _ _ h0 => (killSite_kept h0)) g0))

theorem execComputeDieFault_kept {a a0 a1} (g0 : Kept a a1) : KeptOut a (execComputeDieFault a0 a1) := by
  unfold execComputeDieFault
  try dsimp only
  exact (whenLive_kept g0 (fun _ h0 => (ite_kept (ite_kept (loseStack_kept (ite_kept (loseStack_kept (learn_kept (foldl_kept (fun _ _ h1 => (setObj_kept h1)) (foldl_kept (fun _ _ h1 => (foldl_kept (fun _ _ h2 => (setObj_kept h2)) h1)) (killDie_kept (setField_kept h0)))))) (learn_kept (foldl_kept (fun _ _ h1 => (setObj_kept h1)) (foldl_kept (fun _ _ h1 => (foldl_kept (fun _ _ h2 => (setObj_kept h2)) h1)) (killDie_kept (setField_kept h0))))))) (ite_kept (loseStack_kept (learn_kept (foldl_kept (fun _ _ h1 => (setObj_kept h1)) (foldl_kept (fun _ _ h1 => (foldl_kept (fun _ _ h2 => (setObj_kept h2)) h1)) (killDie_kept (setField_kept h0)))))) (learn_kept (foldl_kept (fun _ _ h1 => (setObj_kept h1)) (foldl_kept (fun _ _ h1 => (foldl_kept (fun _ _ h2 => (setObj_kept h2)) h1)) (killDie_kept (setField_kept h0))))))) h0)))

theorem deliveredFlash_kept {a a0 a1} (g0 : Kept a a1) : Kept a (deliveredFlash a0 a1) := by
  unfold deliveredFlash
  try dsimp only
  exact (foldl_kept (fun _ _ h0 => (flashWrite_kept h0)) g0)

theorem takeBoard_kept {a a0 a1} (g0 : Kept a a1) : Kept a (takeBoard a0 a1) := by
  unfold takeBoard
  try dsimp only
  exact (upd_fab_kept (ite_kept (deliveredFlash_kept (upd_fab_kept g0)) g0))

theorem commDefaults_kept {a a0} (g0 : Kept a a0) : Kept a (commDefaults a0) := by
  unfold commDefaults
  try dsimp only
  exact (foldl_kept (fun _ _ h0 => (setObj_kept h0)) (setObj_kept (dropObjs_kept g0)))

theorem canReset_kept {a a0} (g0 : Kept a a0) : Kept a (canReset a0) := by
  unfold canReset
  try dsimp only
  exact (ite_kept (setField_kept (upd_io_kept (commDefaults_kept g0))) (emit_kept (setField_kept (upd_io_kept (commDefaults_kept g0)))))

theorem endStep_kept {a a0 a1 a2 a3 a4 a5} (g0 : Kept a a5) : Kept a (endStep a0 a1 a2 a3 a4 a5) := by
  unfold endStep
  try dsimp only
  exact (capture_kept (setObj_kept (upd_fab_kept (setObj_kept (setObj_kept g0)))))

theorem bootWeir_kept {a a0 a1} (g0 : Kept a a1) : Kept a (bootWeir a0 a1) := by
  unfold bootWeir
  try dsimp only
  exact (by (try dsimp only); first | (split; exact (endStep_kept (runWeir_kept (ite_kept (setObj_kept (upd_fw_kept (restoreAlmanac_kept g0))) (setSlotState_kept (setObj_kept (upd_fw_kept (restoreAlmanac_kept g0))))))); exact (emit_kept (setObj_kept (setObj_kept (setSlotState_kept (setSlotState_kept (setObj_kept (upd_fw_kept (restoreAlmanac_kept g0))))))))) | (split <;> first | exact (endStep_kept (runWeir_kept (ite_kept (setObj_kept (upd_fw_kept (restoreAlmanac_kept g0))) (setSlotState_kept (setObj_kept (upd_fw_kept (restoreAlmanac_kept g0))))))) | exact (emit_kept (setObj_kept (setObj_kept (setSlotState_kept (setSlotState_kept (setObj_kept (upd_fw_kept (restoreAlmanac_kept g0))))))))))

theorem execPowerGood_kept {a a0 a1 a2} (g0 : Kept a a2) : KeptOut a (execPowerGood a0 a1 a2) := by
  unfold execPowerGood
  try dsimp only
  exact (ite_out_kept (next_kept g0) (next_kept (bootWeir_kept (addObj_kept (canReset_kept (setObj_kept (setObj_kept (upd_many_kept (takeBoard_kept g0)))))))))

theorem quietPort_kept {a a0 a1} (g0 : Kept a a1) : Kept a (quietPort a0 a1) := by
  unfold quietPort
  try dsimp only
  exact (refreshLevel_kept (setPort_kept g0))

theorem tripSeq_kept {a a0 a1} (g0 : Kept a a1) : Kept a (tripSeq a0 a1) := by
  unfold tripSeq
  try dsimp only
  exact (ite_kept g0 (setWatched_kept (setSeq_kept (setObj_kept (foldl_kept (fun _ _ h0 => (ite_kept (quietPort_kept h0) (ite_kept (stopRing_kept h0) h0))) g0)))))

theorem dropLinks_kept {a a0} (g0 : Kept a a0) : Kept a (dropLinks a0) := by
  unfold dropLinks
  try dsimp only
  exact (setObj_kept (upd_fab_kept g0))

theorem fillUnits_kept {a a0} (g0 : Kept a a0) : Kept a (fillUnits a0) := by
  unfold fillUnits
  try dsimp only
  exact (foldl_kept (fun _ _ h0 => (setObj_kept h0)) (foldl_kept (fun _ _ h0 => (setObj_kept (setObj_kept h0))) (setObj_kept (setObj_kept (setObj_kept (setObj_kept g0))))))

theorem loseCompute_kept {a a0} (g0 : Kept a a0) : Kept a (loseCompute a0) := by
  unfold loseCompute
  try dsimp only
  exact (foldl_kept (fun _ _ h0 => (updPart_kept (setObj_kept h0))) (updateActive_kept (dropLinks_kept (upd_many_kept (setObj_kept (ite_kept (fillUnits_kept (dropObjs_kept (by (try dsimp only); first | (split; exact (stopLoad_kept g0); exact g0) | (split <;> first | exact (stopLoad_kept g0) | exact g0)))) (dropObjs_kept (by (try dsimp only); first | (split; exact (stopLoad_kept g0); exact g0) | (split <;> first | exact (stopLoad_kept g0) | exact g0)))))))))

theorem powerOff_kept {a a0} (g0 : Kept a a0) : Kept a (powerOff a0) := by
  unfold powerOff
  try dsimp only
  exact (upd_many_kept g0)

theorem execHubPllLockLoss_kept {a a0} (g0 : Kept a a0) : KeptOut a (execHubPllLockLoss a0) := by
  unfold execHubPllLockLoss
  try dsimp only
  exact (whenLive_kept g0 (fun _ h0 => (powerOff_kept h0)))

theorem setTripN_kept {a a0 a1} (g0 : Kept a a1) : Kept a (setTripN a0 a1) := by
  unfold setTripN
  try dsimp only
  exact (ite_kept g0 (emit_kept (upd_pw_kept g0)))

theorem tripStep_kept {a a0} (g0 : Kept a a0) : Kept a (tripStep a0) := by
  unfold tripStep
  try dsimp only
  exact (by (try dsimp only); first | (split; exact (useFree_kept (endStep_kept (ite_kept (setObj_kept g0) g0))); exact g0) | (split <;> first | exact (useFree_kept (endStep_kept (ite_kept (setObj_kept g0) g0))) | exact g0))

theorem startTrip_kept {a a0 a1} (g0 : Kept a a1) : Kept a (startTrip a0 a1) := by
  unfold startTrip
  try dsimp only
  exact (upd_pw_kept (tripStep_kept (foldl_kept (fun _ _ h0 => (tripSeq_kept h0)) (upd_st_kept (setObj_kept (addObj_kept (setObj_kept (setTripN_kept g0))))))))

theorem hubTrip_kept {a a0 a1} (g0 : Kept a a1) : Kept a (hubTrip a0 a1) := by
  unfold hubTrip
  try dsimp only
  exact (capture_kept (upd_pw_kept (setTripN_kept (foldl_kept (fun _ _ h0 => (ite_kept h0 (setPath_kept (setObj_kept h0)))) (ite_kept g0 (startTrip_kept g0))))))

theorem takeSample_kept {a a0 a1 a2} (g0 : Kept a a2) : Kept a (takeSample a0 a1 a2) := by
  unfold takeSample
  try dsimp only
  exact (ite_kept g0 (ite_kept (upd_pw_kept (capture_kept g0)) (ite_kept (capture_kept (addObj_kept (upd_pw_kept g0))) (upd_pw_kept g0))))

theorem computeTrip_kept {a a0 a1} (g0 : Kept a a1) : Kept a (computeTrip a0 a1) := by
  unfold computeTrip
  try dsimp only
  exact (capture_kept (startTrip_kept g0))

theorem noteHottest_kept {a a0} (g0 : Kept a a0) : Kept a (noteHottest a0) := by
  unfold noteHottest
  try dsimp only
  exact (by (try dsimp only); first | (split; exact (setObj_kept g0); exact (ite_kept (setObj_kept (setObj_kept g0)) (setObj_kept g0))) | (split <;> first | exact (setObj_kept g0) | exact (ite_kept (setObj_kept (setObj_kept g0)) (setObj_kept g0))))

theorem execSensorSample_kept {a a0 a1} (g0 : Kept a a1) : KeptOut a (execSensorSample a0 a1) := by
  unfold execSensorSample
  try dsimp only
  exact (whenLive_kept g0 (fun _ h0 => (by (try dsimp only); first | (split; exact (ite_kept (by (try dsimp only); first | (split; exact (ite_kept (noteHottest_kept (foldl_kept (fun _ _ h1 => (takeSample_kept h1)) h0)) (computeTrip_kept (noteHottest_kept (foldl_kept (fun _ _ h1 => (takeSample_kept h1)) h0)))); exact (noteHottest_kept (foldl_kept (fun _ _ h1 => (takeSample_kept h1)) h0))) | (split <;> first | exact (ite_kept (noteHottest_kept (foldl_kept (fun _ _ h1 => (takeSample_kept h1)) h0)) (computeTrip_kept (noteHottest_kept (foldl_kept (fun _ _ h1 => (takeSample_kept h1)) h0)))) | exact (noteHottest_kept (foldl_kept (fun _ _ h1 => (takeSample_kept h1)) h0)))) (hubTrip_kept (by (try dsimp only); first | (split; exact (ite_kept (noteHottest_kept (foldl_kept (fun _ _ h1 => (takeSample_kept h1)) h0)) (computeTrip_kept (noteHottest_kept (foldl_kept (fun _ _ h1 => (takeSample_kept h1)) h0)))); exact (noteHottest_kept (foldl_kept (fun _ _ h1 => (takeSample_kept h1)) h0))) | (split <;> first | exact (ite_kept (noteHottest_kept (foldl_kept (fun _ _ h1 => (takeSample_kept h1)) h0)) (computeTrip_kept (noteHottest_kept (foldl_kept (fun _ _ h1 => (takeSample_kept h1)) h0)))) | exact (noteHottest_kept (foldl_kept (fun _ _ h1 => (takeSample_kept h1)) h0)))))); exact (by (try dsimp only); first | (split; exact (ite_kept (noteHottest_kept (foldl_kept (fun _ _ h1 => (takeSample_kept h1)) h0)) (computeTrip_kept (noteHottest_kept (foldl_kept (fun _ _ h1 => (takeSample_kept h1)) h0)))); exact (noteHottest_kept (foldl_kept (fun _ _ h1 => (takeSample_kept h1)) h0))) | (split <;> first | exact (ite_kept (noteHottest_kept (foldl_kept (fun _ _ h1 => (takeSample_kept h1)) h0)) (computeTrip_kept (noteHottest_kept (foldl_kept (fun _ _ h1 => (takeSample_kept h1)) h0)))) | exact (noteHottest_kept (foldl_kept (fun _ _ h1 => (takeSample_kept h1)) h0))))) | (split <;> first | exact (ite_kept (by (try dsimp only); first | (split; exact (ite_kept (noteHottest_kept (foldl_kept (fun _ _ h1 => (takeSample_kept h1)) h0)) (computeTrip_kept (noteHottest_kept (foldl_kept (fun _ _ h1 => (takeSample_kept h1)) h0)))); exact (noteHottest_kept (foldl_kept (fun _ _ h1 => (takeSample_kept h1)) h0))) | (split <;> first | exact (ite_kept (noteHottest_kept (foldl_kept (fun _ _ h1 => (takeSample_kept h1)) h0)) (computeTrip_kept (noteHottest_kept (foldl_kept (fun _ _ h1 => (takeSample_kept h1)) h0)))) | exact (noteHottest_kept (foldl_kept (fun _ _ h1 => (takeSample_kept h1)) h0)))) (hubTrip_kept (by (try dsimp only); first | (split; exact (ite_kept (noteHottest_kept (foldl_kept (fun _ _ h1 => (takeSample_kept h1)) h0)) (computeTrip_kept (noteHottest_kept (foldl_kept (fun _ _ h1 => (takeSample_kept h1)) h0)))); exact (noteHottest_kept (foldl_kept (fun _ _ h1 => (takeSample_kept h1)) h0))) | (split <;> first | exact (ite_kept (noteHottest_kept (foldl_kept (fun _ _ h1 => (takeSample_kept h1)) h0)) (computeTrip_kept (noteHottest_kept (foldl_kept (fun _ _ h1 => (takeSample_kept h1)) h0)))) | exact (noteHottest_kept (foldl_kept (fun _ _ h1 => (takeSample_kept h1)) h0)))))) | exact (by (try dsimp only); first | (split; exact (ite_kept (noteHottest_kept (foldl_kept (fun _ _ h1 => (takeSample_kept h1)) h0)) (computeTrip_kept (noteHottest_kept (foldl_kept (fun _ _ h1 => (takeSample_kept h1)) h0)))); exact (noteHottest_kept (foldl_kept (fun _ _ h1 => (takeSample_kept h1)) h0))) | (split <;> first | exact (ite_kept (noteHottest_kept (foldl_kept (fun _ _ h1 => (takeSample_kept h1)) h0)) (computeTrip_kept (noteHottest_kept (foldl_kept (fun _ _ h1 => (takeSample_kept h1)) h0)))) | exact (noteHottest_kept (foldl_kept (fun _ _ h1 => (takeSample_kept h1)) h0))))))))

theorem execHubTripClockStop_kept {a a0} (g0 : Kept a a0) : KeptOut a (execHubTripClockStop a0) := by
  unfold execHubTripClockStop
  try dsimp only
  exact (whenLive_kept g0 (fun _ h0 => (by (try dsimp only); first | (split; exact h0; exact (ite_kept (upd_clk_kept h0) h0)) | (split <;> first | exact h0 | exact (ite_kept (upd_clk_kept h0) h0)))))

theorem stepsNotDone_kept {a a0 a1} (g0 : Kept a a1) : Kept a (stepsNotDone a0 a1) := by
  unfold stepsNotDone
  try dsimp only
  exact (setObj_kept (foldl_kept (fun _ _ h0 => (ite_kept (setObj_kept h0) h0)) g0))

theorem execTripClockStop.stepsKeep_kept {a a0} (g0 : Kept a a0) : Kept a (execTripClockStop.stepsKeep a0) := by
  unfold execTripClockStop.stepsKeep
  try dsimp only
  exact (setObj_kept (foldl_kept (fun _ _ h0 => (ite_kept h0 (setObj_kept h0))) g0))

theorem execTripClockStop_kept {a a0} (g0 : Kept a a0) : KeptOut a (execTripClockStop a0) := by
  unfold execTripClockStop
  try dsimp only
  exact (whenLive_kept g0 (fun _ h0 => (by (try dsimp only); first | (split; exact h0; exact (ite_kept (upd_pw_kept (ite_kept (execTripClockStop.stepsKeep_kept (setField_kept (setField_kept (refreshPins_kept (loseCompute_kept h0))))) (stepsNotDone_kept (setField_kept (setField_kept (refreshPins_kept (loseCompute_kept h0))))))) h0)) | (split <;> first | exact h0 | exact (ite_kept (upd_pw_kept (ite_kept (execTripClockStop.stepsKeep_kept (setField_kept (setField_kept (refreshPins_kept (loseCompute_kept h0))))) (stepsNotDone_kept (setField_kept (setField_kept (refreshPins_kept (loseCompute_kept h0))))))) h0)))))

theorem execPwrgoodLow_kept {a a0} (g0 : Kept a a0) : KeptOut a (execPwrgoodLow a0) := by
  unfold execPwrgoodLow
  try dsimp only
  exact (next_kept (powerOff_kept g0))

theorem trainLink_kept {a a0 a1 a2} (g0 : Kept a a2) : Kept a (trainLink a0 a1 a2) := by
  unfold trainLink
  try dsimp only
  exact (ite_kept (foldl_kept (fun _ _ h0 => (learn_kept h0)) (setLinkState_kept (setLink_kept g0))) (setLinkState_kept (setLink_kept g0)))

theorem startStep_kept {a a0 a1} (g0 : Kept a a1) : Kept a (startStep a0 a1) := by
  unfold startStep
  try dsimp only
  exact (by (try dsimp only); first | (split; exact (endStep_kept (ite_kept (setObj_kept (setObj_kept (addObj_kept (setObj_kept (stepsNotDone_kept g0))))) (addObj_kept (setObj_kept (stepsNotDone_kept g0))))); exact (setObj_kept (ite_kept (upd_fab_kept (ite_kept (setObj_kept (setField_kept (addObj_kept (setObj_kept (stepsNotDone_kept g0))))) (addObj_kept (setObj_kept (stepsNotDone_kept g0))))) (ite_kept (setObj_kept (setField_kept (addObj_kept (setObj_kept (stepsNotDone_kept g0))))) (addObj_kept (setObj_kept (stepsNotDone_kept g0))))))) | (split <;> first | exact (endStep_kept (ite_kept (setObj_kept (setObj_kept (addObj_kept (setObj_kept (stepsNotDone_kept g0))))) (addObj_kept (setObj_kept (stepsNotDone_kept g0))))) | exact (setObj_kept (ite_kept (upd_fab_kept (ite_kept (setObj_kept (setField_kept (addObj_kept (setObj_kept (stepsNotDone_kept g0))))) (addObj_kept (setObj_kept (stepsNotDone_kept g0))))) (ite_kept (setObj_kept (setField_kept (addObj_kept (setObj_kept (stepsNotDone_kept g0))))) (addObj_kept (setObj_kept (stepsNotDone_kept g0))))))))

theorem wBring_kept {a a0 a1 a2 a3} (g0 : Kept a a3) : Kept a (wBring a0 a1 a2 a3).1 := by
  unfold wBring
  try dsimp only
  exact (ite_fst_kept (fst_kept (refuse_kept g0)) (ite_fst_kept (fst_kept (startStep_kept g0)) (fst_kept (refuse_kept g0))))

theorem runStep_kept {a a0 a1 a2 a3 a4} (g0 : ∀ y0, Kept a y0 → Kept a (a3 y0).2) (g1 : Kept a a4) : Kept a (runStep a0 a1 a2 a3 a4) := by
  unfold runStep
  try dsimp only
  exact (ite_kept (endStep_kept (g0 _ (ite_kept g1 (ackWrite_kept (wBring_kept g1))))) (ite_kept g1 (ackWrite_kept (wBring_kept g1))))

theorem loadRill_kept {a a0} (g0 : Kept a a0) : Kept a (loadRill a0).2 := by
  unfold loadRill
  try dsimp only
  exact (finishRillStart_kept g0)

theorem setTrims_kept {a a0 a1 a2 a3} (g0 : Kept a a3) : Kept a (setTrims a0 a1 a2 a3) := by
  unfold setTrims
  try dsimp only
  exact (setField_kept g0)

theorem applyEngines_kept {a a0} (g0 : Kept a a0) : Kept a (applyEngines a0) := by
  unfold applyEngines
  try dsimp only
  exact (upd_fab_kept (foldl_kept (fun _ _ h0 => (setObj_kept h0)) (foldl_kept (fun _ _ h0 => (setObj_kept (setObj_kept h0))) g0)))

theorem applyPorts_kept {a a0} (g0 : Kept a a0) : Kept a (applyPorts a0) := by
  unfold applyPorts
  try dsimp only
  exact (refreshPins_kept (foldl_kept (fun _ _ h0 => (ite_kept (setObj_kept h0) (ite_kept (setObj_kept h0) h0))) g0))

theorem dropRegions_kept {a a0} (g0 : Kept a a0) : Kept a (dropRegions a0) := by
  unfold dropRegions
  try dsimp only
  exact (dropObjs_kept g0)

theorem trainStacks_kept {a a0 a1 a2} (g0 : Kept a a2) : Kept a (trainStacks a0 a1 a2).2 := by
  have h1 : ∀ {l1 : List Nat} {l2 : List (Nat × Nat)},
      Kept a (l2.foldl (fun s e => learn 4 e.1 e.2 0 0 s) (l1.foldl (fun s k => learn 3 k 0 0 0 s) a2)) :=
    foldl_kept (fun _ _ h0 => learn_kept h0) (foldl_kept (fun _ _ h0 => learn_kept h0) g0)
  have h2 : ∀ {s x}, Kept a s → Kept a { s with ci := { Cistern.init with lostPcs := x } } :=
    fun h => upd_ci_kept h
  have h3 : ∀ {s}, Kept a s → Kept a { s with pw := { s.pw with declLocked := true } } := fun h => upd_pw_kept h
  unfold trainStacks
  exact snd_kept (capture_kept (h3 (setObj_kept (setCisternState_kept (setObj_kept (dropRegions_kept (h2 (endMigration_kept h1))))))))

theorem setDefect_kept {a a0 a1 a2} (g0 : Kept a a2) : Kept a (setDefect a0 a1 a2) := by
  unfold setDefect
  try dsimp only
  exact (upd_fab_kept g0)

theorem trainLinks_kept {a a0 a1} (g0 : Kept a a1) : Kept a (trainLinks a0 a1).2 := by
  unfold trainLinks
  try dsimp only
  exact (ite_snd_kept (snd_kept (upd_pw_kept (setTripN_kept (ite_kept (setObj_kept (setObj_kept (foldl_kept (fun _ _ h0 => (learn_kept h0)) (foldl_kept (fun _ _ h0 => (trainLink_kept h0)) g0)))) (setObj_kept (foldl_kept (fun _ _ h0 => (learn_kept h0)) (foldl_kept (fun _ _ h0 => (trainLink_kept h0)) g0))))))) (snd_kept (upd_pw_kept (setTripN_kept (ite_kept (setObj_kept (setObj_kept (foldl_kept (fun _ _ h0 => (learn_kept h0)) (foldl_kept (fun _ _ h0 => (trainLink_kept h0)) g0)))) (setObj_kept (foldl_kept (fun _ _ h0 => (learn_kept h0)) (foldl_kept (fun _ _ h0 => (trainLink_kept h0)) g0))))))))

theorem execLinkTraining_kept {a a0 a1 a2 a3} (g0 : Kept a a3) : KeptOut a (execLinkTraining a0 a1 a2 a3) := by
  unfold execLinkTraining
  try dsimp only
  exact (whenFree_kept g0 (fun _ h0 => (runStep_kept (fun _ h1 => (trainLinks_kept h1)) h0)))

theorem applyTile_kept {a a0 a1 a2} (g0 : Kept a a2) : Kept a (applyTile a0 a1 a2) := by
  unfold applyTile
  try dsimp only
  exact (by (try dsimp only); first | (split; exact (setObj_kept (setObj_kept (setObj_kept (upd_fab_kept g0)))); exact (setObj_kept (setObj_kept (setObj_kept (upd_fab_kept g0))))) | (split <;> first | exact (setObj_kept (setObj_kept (setObj_kept (upd_fab_kept g0))))))

theorem applyMaps_kept {a a0} (g0 : Kept a a0) : Kept a (applyMaps a0).2 := by
  unfold applyMaps
  refine ite_snd_kept (snd_kept (applyPorts_kept (applyEngines_kept (foldl_kept (fun _ _ h => applyTile_kept h) g0)))) ?_
  split
  · exact g0
  · exact snd_kept (applyPorts_kept (applyEngines_kept (upd_fab_kept (foldl_kept (fun _ _ h => applyTile_kept h) g0))))

theorem execNetworkMapApply_kept {a a0 a1 a2} (g0 : Kept a a2) : KeptOut a (execNetworkMapApply a0 a1 a2) := by
  unfold execNetworkMapApply
  try dsimp only
  exact (whenFree_kept g0 (fun _ h0 => (runStep_kept (fun _ h1 => (applyMaps_kept h1)) h0)))

theorem loadFactory_kept {a a0} (g0 : Kept a a0) : Kept a (loadFactory a0) := by
  unfold loadFactory
  try dsimp only
  exact (setObj_kept (setObj_kept (foldl_kept (fun _ _ h0 => (setDefect_kept h0)) (upd_fab_kept g0))))

theorem fillFuses_kept {a a0} (g0 : Kept a a0) : Kept a (fillFuses a0) := by
  unfold fillFuses
  try dsimp only
  exact (loadFactory_kept (fillUnits_kept (setObj_kept (setObj_kept (setObj_kept (setObj_kept (setObj_kept (setObj_kept g0))))))))

theorem wDefectData_kept {a a0 a1 a2} (g0 : Kept a a2) : Kept a (wDefectData a0 a1 a2).1 := by
  unfold wDefectData
  try dsimp only
  exact (ite_fst_kept (fst_kept (setObj_kept (setDefect_kept g0))) (fst_kept (refuse_kept g0)))

theorem wFieldCount_kept {a a0 a1 a2} (g0 : Kept a a2) : Kept a (wFieldCount a0 a1 a2).1 := by
  unfold wFieldCount
  try dsimp only
  exact (ite_fst_kept (fst_kept (refuse_kept g0)) (ite_fst_kept (fst_kept (refuse_kept g0)) (fst_kept (setObj_kept (setObj_kept (upd_fab_kept g0))))))

theorem hideSite_kept {a a0 a1} (g0 : Kept a a1) : Kept a (hideSite a0 a1) := by
  unfold hideSite
  try dsimp only
  exact (ite_kept g0 (learn_kept g0))

theorem repairRow_kept {a a0 a1} (g0 : Kept a a1) : Kept a (repairRow a0 a1) := by
  unfold repairRow
  try dsimp only
  exact (ite_kept g0 (ite_kept (learn_kept (upd_fab_kept g0)) (hideSite_kept g0)))

theorem unbindAll_kept {a a0} (g0 : Kept a a0) : Kept a (unbindAll a0) := by
  unfold unbindAll
  try dsimp only
  exact (foldl_kept (fun _ _ h0 => (ite_kept (setObj_kept h0) h0)) g0)

theorem execFuseRead_kept {a a0 a1 a2 a3} (g0 : Kept a a3) : KeptOut a (execFuseRead a0 a1 a2 a3) := by
  unfold execFuseRead
  try dsimp only
  exact (whenFree_kept g0 (fun _ h0 => (runStep_kept (fun _ h1 => (ite_snd_kept (snd_kept (fillFuses_kept h1)) (ite_snd_kept (snd_kept h1) (snd_kept h1)))) h0)))

theorem alignDone_kept {a a0 a1} (g0 : Kept a a1) : Kept a (alignDone a0 a1) := by
  unfold alignDone
  try dsimp only
  exact (setObj_kept (setObj_kept (upd_clk_kept g0)))

theorem execDefectMapLoad_kept {a a0 a1 a2} (g0 : Kept a a2) : KeptOut a (execDefectMapLoad a0 a1 a2) := by
  unfold execDefectMapLoad
  try dsimp only
  exact (whenFree_kept g0 (fun _ h0 => (runStep_kept (fun _ h1 => (snd_kept h1)) h0)))

theorem alignFails_kept {a a0 a1 a2 a3 a4} (g0 : Kept a a4) : Kept a (alignFails a0 a1 a2 a3 a4).2 := by
  unfold alignFails
  try dsimp only
  exact (setObj_kept (setObj_kept g0))

theorem alignReset_kept {a a0 a1} (g0 : Kept a a1) : Kept a (alignReset a0 a1).2 := by
  unfold alignReset
  try dsimp only
  exact (ite_snd_kept (snd_kept (alignDone_kept g0)) (by (try dsimp only); first | (split; exact (alignFails_kept (setObj_kept g0)); exact (ite_snd_kept (snd_kept (setObj_kept (setObj_kept (setObj_kept g0)))) (by (try dsimp only); first | (split; exact (alignFails_kept (setObj_kept g0)); exact (by (try dsimp only); first | (split; exact (alignFails_kept (foldl_kept (fun _ _ h0 => (setTrims_kept h0)) (upd_clk_kept (setObj_kept g0)))); exact (alignFails_kept (foldl_kept (fun _ _ h0 => (setTrims_kept h0)) (upd_clk_kept (setObj_kept g0)))); exact (snd_kept (alignDone_kept (foldl_kept (fun _ _ h0 => (setTrims_kept h0)) (upd_clk_kept (setObj_kept g0)))))) | (split <;> first | exact (alignFails_kept (foldl_kept (fun _ _ h0 => (setTrims_kept h0)) (upd_clk_kept (setObj_kept g0)))) | exact (snd_kept (alignDone_kept (foldl_kept (fun _ _ h0 => (setTrims_kept h0)) (upd_clk_kept (setObj_kept g0)))))))) | (split <;> first | exact (alignFails_kept (setObj_kept g0)) | exact (by (try dsimp only); first | (split; exact (alignFails_kept (foldl_kept (fun _ _ h0 => (setTrims_kept h0)) (upd_clk_kept (setObj_kept g0)))); exact (alignFails_kept (foldl_kept (fun _ _ h0 => (setTrims_kept h0)) (upd_clk_kept (setObj_kept g0)))); exact (snd_kept (alignDone_kept (foldl_kept (fun _ _ h0 => (setTrims_kept h0)) (upd_clk_kept (setObj_kept g0)))))) | (split <;> first | exact (alignFails_kept (foldl_kept (fun _ _ h0 => (setTrims_kept h0)) (upd_clk_kept (setObj_kept g0)))) | exact (snd_kept (alignDone_kept (foldl_kept (fun _ _ h0 => (setTrims_kept h0)) (upd_clk_kept (setObj_kept g0))))))))))) | (split <;> first | exact (alignFails_kept (setObj_kept g0)) | exact (ite_snd_kept (snd_kept (setObj_kept (setObj_kept (setObj_kept g0)))) (by (try dsimp only); first | (split; exact (alignFails_kept (setObj_kept g0)); exact (by (try dsimp only); first | (split; exact (alignFails_kept (foldl_kept (fun _ _ h0 => (setTrims_kept h0)) (upd_clk_kept (setObj_kept g0)))); exact (alignFails_kept (foldl_kept (fun _ _ h0 => (setTrims_kept h0)) (upd_clk_kept (setObj_kept g0)))); exact (snd_kept (alignDone_kept (foldl_kept (fun _ _ h0 => (setTrims_kept h0)) (upd_clk_kept (setObj_kept g0)))))) | (split <;> first | exact (alignFails_kept (foldl_kept (fun _ _ h0 => (setTrims_kept h0)) (upd_clk_kept (setObj_kept g0)))) | exact (snd_kept (alignDone_kept (foldl_kept (fun _ _ h0 => (setTrims_kept h0)) (upd_clk_kept (setObj_kept g0)))))))) | (split <;> first | exact (alignFails_kept (setObj_kept g0)) | exact (by (try dsimp only); first | (split; exact (alignFails_kept (foldl_kept (fun _ _ h0 => (setTrims_kept h0)) (upd_clk_kept (setObj_kept g0)))); exact (alignFails_kept (foldl_kept (fun _ _ h0 => (setTrims_kept h0)) (upd_clk_kept (setObj_kept g0)))); exact (snd_kept (alignDone_kept (foldl_kept (fun _ _ h0 => (setTrims_kept h0)) (upd_clk_kept (setObj_kept g0)))))) | (split <;> first | exact (alignFails_kept (foldl_kept (fun _ _ h0 => (setTrims_kept h0)) (upd_clk_kept (setObj_kept g0)))) | exact (snd_kept (alignDone_kept (foldl_kept (fun _ _ h0 => (setTrims_kept h0)) (upd_clk_kept (setObj_kept g0)))))))))))))

theorem execResetAlignment_kept {a a0 a1 a2 a3} (g0 : Kept a a3) : KeptOut a (execResetAlignment a0 a1 a2 a3) := by
  unfold execResetAlignment
  try dsimp only
  exact (whenFree_kept g0 (fun _ h0 => (runStep_kept (fun _ h1 => (alignReset_kept h1)) h0)))

theorem openPartitions_kept {a a0} (g0 : Kept a a0) : Kept a (openPartitions a0).2 := by
  unfold openPartitions
  try dsimp only
  exact (setObj_kept (updateActive_kept (upd_many_kept (endMigration_kept (unbindAll_kept (dropObjs_kept g0))))))

theorem execPartitionConfiguration_kept {a a0 a1 a2} (g0 : Kept a a2) : KeptOut a (execPartitionConfiguration a0 a1 a2) := by
  unfold execPartitionConfiguration
  try dsimp only
  exact (whenFree_kept g0 (fun _ h0 => (runStep_kept (fun _ h1 => (openPartitions_kept h1)) h0)))

theorem readDefect_kept {a a0} (g0 : Kept a a0) : Kept a (readDefect a0).2 := by
  unfold readDefect
  try dsimp only
  exact (setObj_kept g0)

theorem execDefectDataAccess_kept {a a0 a1 a2} (g0 : Kept a a2) : KeptOut a (execDefectDataAccess a0 a1 a2) := by
  unfold execDefectDataAccess
  try dsimp only
  exact (whenFree_kept g0 (fun _ h0 => (by (try dsimp only); first | (split; exact (ackWrite_kept (wDefectData_kept h0)); exact (answer_kept (readDefect_kept h0))) | (split <;> first | exact (ackWrite_kept (wDefectData_kept h0)) | exact (answer_kept (readDefect_kept h0))))))

theorem execHbmTraining_kept {a a0 a1 a2 a3 a4} (g0 : Kept a a4) : KeptOut a (execHbmTraining a0 a1 a2 a3 a4) := by
  unfold execHbmTraining
  try dsimp only
  exact (whenFree_kept g0 (fun _ h0 => (runStep_kept (fun _ h1 => (trainStacks_kept h1)) h0)))

theorem execRillLoad_kept {a a0 a1 a2} (g0 : Kept a a2) : KeptOut a (execRillLoad a0 a1 a2) := by
  unfold execRillLoad
  try dsimp only
  exact (whenFree_kept g0 (fun _ h0 => (runStep_kept (fun _ h1 => (loadRill_kept h1)) h0)))

theorem selfTest_kept {a a0 a1 a2} (g0 : Kept a a2) : Kept a (selfTest a0 a1 a2).2 := by
  unfold selfTest
  try dsimp only
  exact (by (try dsimp only); first | (split; exact (snd_kept (upd_tl_kept (foldl_kept (fun _ _ h0 => (hideSite_kept h0)) (foldl_kept (fun _ _ h0 => (repairRow_kept h0)) g0)))); exact (snd_kept (upd_tl_kept (foldl_kept (fun _ _ h0 => (hideSite_kept h0)) (foldl_kept (fun _ _ h0 => (repairRow_kept h0)) g0))))) | (split <;> first | exact (snd_kept (upd_tl_kept (foldl_kept (fun _ _ h0 => (hideSite_kept h0)) (foldl_kept (fun _ _ h0 => (repairRow_kept h0)) g0))))))

theorem execTileSelfTest_kept {a a0 a1 a2 a3 a4} (g0 : Kept a a4) : KeptOut a (execTileSelfTest a0 a1 a2 a3 a4) := by
  unfold execTileSelfTest
  try dsimp only
  exact (whenFree_kept g0 (fun _ h0 => (runStep_kept (fun _ h1 => (selfTest_kept h1)) h0)))

theorem setI2cByte_kept {a a0 a1 a2} (g0 : Kept a a2) : Kept a (setI2cByte a0 a1 a2) := by
  unfold setI2cByte
  try dsimp only
  exact (upd_io_kept g0)

theorem fillI2c_kept {a a0 a1 a2} (g0 : Kept a a2) : Kept a (fillI2c a0 a1 a2) := by
  induction a1 generalizing a0 a2 with
  | nil => exact g0
  | cons b bs ih => exact ih (setI2cByte_kept g0)

theorem execI2cTransactionComplete_kept {a a0 a1 a2} (g0 : Kept a a2) : KeptOut a (execI2cTransactionComplete a0 a1 a2) := by
  unfold execI2cTransactionComplete
  try dsimp only
  exact (whenLive_kept g0 (fun _ h0 => (ite_kept (setObj_kept (fillI2c_kept h0)) h0)))

theorem startSwitch_kept {a a0 a1 a2} (g0 : Kept a a2) : Kept a (startSwitch a0 a1 a2) := by
  unfold startSwitch
  try dsimp only
  exact (refreshPin_kept (upd_io_kept (setObj_kept (ite_kept (releaseMute_kept g0) g0))))

theorem wPinmux_kept {a a0 a1 a2 a3} (g0 : Kept a a3) : Kept a (wPinmux a0 a1 a2 a3).1 := by
  unfold wPinmux
  try dsimp only
  exact (ite_fst_kept (fst_kept (refuse_kept g0)) (ite_fst_kept (fst_kept (refuse_kept g0)) (ite_fst_kept (fst_kept g0) (fst_kept (startSwitch_kept g0)))))

theorem execI2cStretchTimeout_kept {a a0} (g0 : Kept a a0) : KeptOut a (execI2cStretchTimeout a0) := by
  unfold execI2cStretchTimeout
  try dsimp only
  exact (whenLive_kept g0 (fun _ h0 => (ite_kept (emit_kept (setObj_kept h0)) h0)))

theorem execPinFunctionSwitch_kept {a a0 a1 a2 a3} (g0 : Kept a a3) : KeptOut a (execPinFunctionSwitch a0 a1 a2 a3) := by
  unfold execPinFunctionSwitch
  try dsimp only
  exact (whenFree_kept g0 (fun _ h0 => (ite_kept (ackWrite_kept (wPinmux_kept h0)) h0)))

theorem i2cNext_kept {a a0} (g0 : Kept a a0) : Kept a (i2cNext a0) := by
  unfold i2cNext
  try dsimp only
  exact (setObj_kept g0)

theorem readI2cData_kept {a a0} (g0 : Kept a a0) : Kept a (readI2cData a0).2 := by
  unfold readI2cData
  try dsimp only
  exact (i2cNext_kept g0)

theorem setPps_kept {a a0 a1} (g0 : Kept a a1) : Kept a (setPps a0 a1) := by
  unfold setPps
  try dsimp only
  exact (ite_kept g0 (capture_kept (setObj_kept g0)))

theorem ppsMeasure_kept {a a0 a1 a2} (g0 : Kept a a2) : Kept a (ppsMeasure a0 a1 a2) := by
  unfold ppsMeasure
  try dsimp only
  exact (ite_kept (setPps_kept (upd_clk_kept (setObj_kept (setObj_kept (ite_kept (useFree_kept g0) g0))))) (ite_kept (setPps_kept (upd_clk_kept (setObj_kept (setObj_kept (ite_kept (useFree_kept g0) g0))))) (setPps_kept (upd_clk_kept (setObj_kept (setObj_kept (ite_kept (useFree_kept g0) g0)))))))

theorem wI2cCommand_kept {a a0 a1 a2} (g0 : Kept a a2) : Kept a (wI2cCommand a0 a1 a2).1 := by
  unfold wI2cCommand
  try dsimp only
  exact (ite_fst_kept (fst_kept (refuse_kept g0)) (ite_fst_kept (fst_kept (refuse_kept g0)) (fst_kept (emit_kept (setObj_kept g0)))))

theorem execI2cStart_kept {a a0 a1} (g0 : Kept a a1) : KeptOut a (execI2cStart a0 a1) := by
  unfold execI2cStart
  try dsimp only
  exact (whenFree_kept g0 (fun _ h0 => (ackWrite_kept (wI2cCommand_kept h0))))

theorem execPpsLoss_kept {a a0} (g0 : Kept a a0) : KeptOut a (execPpsLoss a0) := by
  unfold execPpsLoss
  try dsimp only
  exact (whenLive_kept g0 (fun _ h0 => (ite_kept (setPps_kept (upd_clk_kept h0)) h0)))

theorem endSwitches_kept {a a0} (g0 : Kept a a0) : Kept a (endSwitches a0) := by
  unfold endSwitches
  try dsimp only
  exact (ite_kept g0 (foldl_kept (fun _ _ h0 => (refreshPin_kept h0)) (upd_io_kept g0)))

theorem wI2cData_kept {a a0 a1 a2} (g0 : Kept a a2) : Kept a (wI2cData a0 a1 a2).1 := by
  unfold wI2cData
  try dsimp only
  exact (ite_fst_kept (fst_kept (refuse_kept g0)) (fst_kept (i2cNext_kept (setI2cByte_kept g0))))

theorem ppsAccepted_kept {a a0} (g0 : Kept a a0) : Kept a (ppsAccepted a0) := by
  unfold ppsAccepted
  try dsimp only
  exact (ppsMeasure_kept (upd_now_kept g0))

theorem execPpsEdge_kept {a a0} (g0 : Kept a a0) : KeptOut a (execPpsEdge a0) := by
  unfold execPpsEdge
  try dsimp only
  exact (whenLive_kept g0 (fun _ h0 => (ite_kept (addObj_kept h0) (ite_kept (ppsAccepted_kept (addObj_kept h0)) (addObj_kept (addObj_kept h0))))))

theorem readGpioIn_kept {a a0} (g0 : Kept a a0) : Kept a (readGpioIn a0).2 := by
  unfold readGpioIn
  try dsimp only
  exact (useFree_kept g0)

theorem wPpsEnable_kept {a a0 a1} (g0 : Kept a a1) : Kept a (wPpsEnable a0 a1).1 := by
  unfold wPpsEnable
  try dsimp only
  exact (ite_fst_kept (fst_kept (setObj_kept g0)) (ite_fst_kept (fst_kept (setPps_kept (setObj_kept (upd_clk_kept (setObj_kept g0))))) (fst_kept (setPps_kept (upd_clk_kept (setObj_kept g0))))))

theorem execI2cDataAccess_kept {a a0 a1 a2} (g0 : Kept a a2) : KeptOut a (execI2cDataAccess a0 a1 a2) := by
  unfold execI2cDataAccess
  try dsimp only
  exact (whenFree_kept g0 (fun _ h0 => (by (try dsimp only); first | (split; exact (ackWrite_kept (wI2cData_kept h0)); exact (answer_kept (readI2cData_kept h0))) | (split <;> first | exact (ackWrite_kept (wI2cData_kept h0)) | exact (answer_kept (readI2cData_kept h0))))))

theorem deny_kept {a a0 a1 a2 a3 a4} (g0 : Kept a a4) : Kept a (deny a0 a1 a2 a3 a4).1 := by
  unfold deny
  try dsimp only
  exact (ite_fst_kept (fst_kept (refuse_kept g0)) (fst_kept (refuse_kept g0)))

theorem wPlain_kept {a a0 a1 a2 a3 a4 a5 a6} (g0 : Kept a a6) : Kept a (wPlain a0 a1 a2 a3 a4 a5 a6).1 := by
  unfold wPlain
  try dsimp only
  exact (ite_fst_kept (deny_kept g0) (ite_fst_kept (deny_kept g0) (fst_kept (setObj_kept g0))))

theorem wSeq_kept {a a0 a1 a2 a3 a4 a5} (g0 : Kept a a5) : Kept a (wSeq a0 a1 a2 a3 a4 a5).1 := by
  unfold wSeq
  try dsimp only
  exact (ite_fst_kept (wSeqCommand_kept g0) (ite_fst_kept (wPlain_kept g0) (ite_fst_kept (wPlain_kept g0) (ite_fst_kept (wPlain_kept g0) (ite_fst_kept (wPlain_kept g0) (ite_fst_kept (wPlain_kept g0) (ite_fst_kept (wPlain_kept g0) (ite_fst_kept (wPlain_kept g0) (wPlain_kept g0)))))))))

theorem wStep_kept {a a0 a1 a2 a3 a4 a5} (g0 : Kept a a5) : Kept a (wStep a0 a1 a2 a3 a4 a5).1 := by
  unfold wStep
  try dsimp only
  exact (ite_fst_kept (fst_kept (ite_kept (setObj_kept (setObj_kept g0)) (setObj_kept g0))) (deny_kept g0))

theorem wRaster_kept {a a0 a1 a2 a3 a4 a5 a6} (g0 : Kept a a6) : Kept a (wRaster a0 a1 a2 a3 a4 a5 a6).1 := by
  unfold wRaster
  try dsimp only
  exact (ite_fst_kept (ite_fst_kept (wRasterConfig_kept g0) (wRasterPhase_kept g0)) (ite_fst_kept (wPlain_kept g0) (ite_fst_kept (ite_fst_kept (wPlain_kept g0) (wPlain_kept g0)) (ite_fst_kept (wPlain_kept g0) (ite_fst_kept (wPlain_kept g0) (wPlain_kept g0))))))

theorem wDefects_kept {a a0 a1 a2 a3 a4} (g0 : Kept a a4) : Kept a (wDefects a0 a1 a2 a3 a4).1 := by
  unfold wDefects
  try dsimp only
  exact (ite_fst_kept (wFieldCount_kept g0) (ite_fst_kept (wDefectData_kept g0) (ite_fst_kept (wPlain_kept g0) (wPlain_kept g0))))

theorem wAcct_kept {a a0 a1 a2 a3 a4 a5} (g0 : Kept a a5) : Kept a (wAcct a0 a1 a2 a3 a4 a5).1 := by
  unfold wAcct
  try dsimp only
  exact (ite_fst_kept (wAcctClear_kept g0) (ite_fst_kept (wAcctWithdraw_kept g0) (ite_fst_kept (wAcctRestore_kept g0) (wPlain_kept g0))))

theorem wDeclare_kept {a a0 a1 a2 a3 a4 a5} (g0 : Kept a a5) : Kept a (wDeclare a0 a1 a2 a3 a4 a5).1 := by
  unfold wDeclare
  try dsimp only
  exact (ite_fst_kept (deny_kept g0) (ite_fst_kept (deny_kept g0) (fst_kept (ite_kept (setObj_kept (setObj_kept g0)) (setObj_kept g0)))))

theorem wEnv_kept {a a0 a1 a2 a3 a4} (g0 : Kept a a4) : Kept a (wEnv a0 a1 a2 a3 a4).1 := by
  unfold wEnv
  try dsimp only
  exact (ite_fst_kept (wDeclare_kept g0) (ite_fst_kept (wDeclare_kept g0) (ite_fst_kept (wDeclare_kept g0) (ite_fst_kept (wDeclare_kept g0) (ite_fst_kept (wPlain_kept g0) (ite_fst_kept (wPlain_kept g0) (wPlain_kept g0)))))))

theorem readEngine_kept {a a0 a1 a2 a3 a4} (g0 : Kept a a4) : Kept a (readEngine a0 a1 a2 a3 a4).2 := by
  unfold readEngine
  try dsimp only
  exact (ite_snd_kept (snd_kept g0) (ite_snd_kept (snd_kept g0) (ite_snd_kept (snd_kept g0) (ite_snd_kept (snd_kept g0) (ite_snd_kept (readCmdData_kept g0) (snd_kept g0))))))

theorem readOf_kept {a a0 a1 a2 a3 a4} (g0 : Kept a a4) : Kept a (readOf a0 a1 a2 a3 a4).2 := by
  unfold readOf
  try dsimp only
  exact (ite_snd_kept (ite_snd_kept (snd_kept g0) (readEngine_kept g0)) (ite_snd_kept (readEngine_kept g0) (ite_snd_kept (readEngine_kept g0) (ite_snd_kept (ite_snd_kept (snd_kept g0) (readEngine_kept g0)) (ite_snd_kept (ite_snd_kept (snd_kept g0) (ite_snd_kept (snd_kept g0) (snd_kept g0))) (ite_snd_kept (ite_snd_kept (snd_kept g0) (ite_snd_kept (snd_kept g0) (ite_snd_kept (snd_kept g0) (ite_snd_kept (snd_kept g0) (snd_kept g0))))) (ite_snd_kept (snd_kept g0) (ite_snd_kept (snd_kept g0) (ite_snd_kept (snd_kept g0) (ite_snd_kept (snd_kept g0) (ite_snd_kept (ite_snd_kept (readAcct_kept g0) (ite_snd_kept (snd_kept g0) (ite_snd_kept (snd_kept g0) (snd_kept g0)))) (ite_snd_kept (snd_kept g0) (ite_snd_kept (snd_kept (ite_kept g0 (syncNext_kept g0))) (ite_snd_kept (snd_kept g0) (ite_snd_kept (readPeek_kept g0) (ite_snd_kept (ite_snd_kept (snd_kept g0) (ite_snd_kept (snd_kept g0) (ite_snd_kept (snd_kept g0) (snd_kept g0)))) (ite_snd_kept (readI2cData_kept g0) (ite_snd_kept (readGpioIn_kept g0) (ite_snd_kept (compatRead_kept g0) (ite_snd_kept (fwDataAccess_kept g0) (ite_snd_kept (snd_kept g0) (ite_snd_kept (snd_kept g0) (ite_snd_kept (snd_kept g0) (ite_snd_kept (snd_kept g0) (ite_snd_kept (snd_kept g0) (ite_snd_kept (ite_snd_kept (readDefect_kept g0) (ite_snd_kept (snd_kept g0) (ite_snd_kept (snd_kept g0) (snd_kept g0)))) (ite_snd_kept (ite_snd_kept (almanacRead_kept g0) (ite_snd_kept (snd_kept g0) (ite_snd_kept (snd_kept g0) (ite_snd_kept (snd_kept g0) (ite_snd_kept (snd_kept g0) (snd_kept g0)))))) (snd_kept g0))))))))))))))))))))))))))))

theorem readWhole_kept {a a0 a1} (g0 : Kept a a1) : Kept a (readWhole a0 a1).2 := by
  unfold readWhole
  try dsimp only
  exact (by (try dsimp only); first | (split; exact (snd_kept g0); exact (by (try dsimp only); first | (split; exact (snd_kept g0); exact (ite_snd_kept (snd_kept g0) (readOf_kept g0))) | (split <;> first | exact (snd_kept g0) | exact (ite_snd_kept (snd_kept g0) (readOf_kept g0))))) | (split <;> first | exact (snd_kept g0) | exact (by (try dsimp only); first | (split; exact (snd_kept g0); exact (ite_snd_kept (snd_kept g0) (readOf_kept g0))) | (split <;> first | exact (snd_kept g0) | exact (ite_snd_kept (snd_kept g0) (readOf_kept g0))))))

theorem wGpio_kept {a a0 a1 a2 a3 a4} (g0 : Kept a a4) : Kept a (wGpio a0 a1 a2 a3 a4).1 := by
  unfold wGpio
  try dsimp only
  exact (ite_fst_kept (fst_kept (refreshPins_kept (setObj_kept g0))) (wPlain_kept g0))

theorem wHeartbeat_kept {a a0 a1 a2} (g0 : Kept a a2) : Kept a (wHeartbeat a0 a1 a2).1 := by
  unfold wHeartbeat
  try dsimp only
  exact (setObj_kept (upd_io_kept g0))

theorem wTpdoMap_kept {a a0 a1 a2 a3 a4 a5} (g0 : Kept a a5) : Kept a (wTpdoMap a0 a1 a2 a3 a4 a5).1 := by
  unfold wTpdoMap
  try dsimp only
  exact (ite_fst_kept (ite_fst_kept (deny_kept g0) (ite_fst_kept (deny_kept g0) (ite_fst_kept (fst_kept (setObj_kept g0)) (deny_kept g0)))) (ite_fst_kept (fst_kept (setObj_kept g0)) (deny_kept g0)))

theorem wTpdo_kept {a a0 a1 a2 a3 a4 a5} (g0 : Kept a a5) : Kept a (wTpdo a0 a1 a2 a3 a4 a5).1 := by
  unfold wTpdo
  try dsimp only
  exact (ite_fst_kept (wPlain_kept g0) (ite_fst_kept (fst_kept (setObj_kept (upd_io_kept g0))) (wPlain_kept g0)))

theorem wHistory_kept {a a0 a1 a2 a3} (g0 : Kept a a3) : Kept a (wHistory a0 a1 a2 a3).1 := by
  unfold wHistory
  try dsimp only
  exact (ite_fst_kept (deny_kept g0) (fst_kept (setObj_kept (foldl_kept (fun _ _ h0 => (setObj_kept h0)) (setObj_kept g0)))))

theorem writeComm_kept {a a0 a1 a2 a3 a4 a5 a6} (g0 : Kept a a6) : Kept a (writeComm a0 a1 a2 a3 a4 a5 a6).1 := by
  unfold writeComm
  try dsimp only
  exact (ite_fst_kept (wHistory_kept g0) (ite_fst_kept (wHeartbeat_kept g0) (ite_fst_kept (wTpdo_kept g0) (ite_fst_kept (wTpdoMap_kept g0) (wPlain_kept g0)))))

theorem wCistern_kept {a a0 a1 a2 a3 a4} (g0 : Kept a a4) : Kept a (wCistern a0 a1 a2 a3 a4).1 := by
  unfold wCistern
  try dsimp only
  exact (ite_fst_kept (wMargin_kept g0) (ite_fst_kept (wPlain_kept g0) (ite_fst_kept (wPlain_kept g0) (ite_fst_kept (wMigrate_kept g0) (ite_fst_kept (wRetireStack_kept g0) (ite_fst_kept (wPlain_kept g0) (wPlain_kept g0)))))))

theorem wEngine_kept {a a0 a1 a2 a3 a4 a5 a6 a7} (g0 : Kept a a7) : Kept a (wEngine a0 a1 a2 a3 a4 a5 a6 a7).1 := by
  unfold wEngine
  try dsimp only
  exact (ite_fst_kept (wBinding_kept g0) (ite_fst_kept (wTail_kept g0) (ite_fst_kept (wCmdCursor_kept g0) (ite_fst_kept (wCmdData_kept g0) (ite_fst_kept (wPlain_kept g0) (fst_kept g0))))))

theorem wTile_kept {a a0 a1 a2 a3 a4 a5} (g0 : Kept a a5) : Kept a (wTile a0 a1 a2 a3 a4 a5).1 := by
  unfold wTile
  try dsimp only
  exact (ite_fst_kept (wBankOwner_kept g0) (ite_fst_kept (wBankValid_kept g0) (ite_fst_kept (wPlain_kept g0) (wEngine_kept g0))))

theorem wDet_kept {a a0 a1 a2 a3 a4} (g0 : Kept a a4) : Kept a (wDet a0 a1 a2 a3 a4).1 := by
  unfold wDet
  try dsimp only
  exact (ite_fst_kept (wPlain_kept g0) (ite_fst_kept (wPlain_kept g0) (ite_fst_kept (wPlain_kept g0) (wPlain_kept g0))))

theorem wRegion_kept {a a0 a1 a2 a3 a4} (g0 : Kept a a4) : Kept a (wRegion a0 a1 a2 a3 a4).1 := by
  unfold wRegion
  try dsimp only
  exact (ite_fst_kept (wSpan_kept g0) (ite_fst_kept (wReserve_kept g0) (wPlacement_kept g0)))

theorem wFabric_kept {a a0 a1 a2 a3 a4} (g0 : Kept a a4) : Kept a (wFabric a0 a1 a2 a3 a4).1 := by
  unfold wFabric
  try dsimp only
  exact (ite_fst_kept (wPlain_kept g0) (ite_fst_kept (ite_fst_kept (fst_kept (useFree_kept (wLoadCommand_kept g0))) (wLoadCommand_kept g0)) (ite_fst_kept (wPlain_kept g0) (ite_fst_kept (wPlain_kept g0) (wPlain_kept g0)))))

theorem wLoan_kept {a a0 a1 a2 a3 a4 a5} (g0 : Kept a a5) : Kept a (wLoan a0 a1 a2 a3 a4 a5).1 := by
  unfold wLoan
  try dsimp only
  exact (ite_fst_kept (wLoanCommand_kept g0) (ite_fst_kept (wPlain_kept g0) (ite_fst_kept (wPlain_kept g0) (ite_fst_kept (wPlain_kept g0) (wPlain_kept g0)))))

theorem wReplay_kept {a a0 a1 a2 a3 a4 a5} (g0 : Kept a a5) : Kept a (wReplay a0 a1 a2 a3 a4 a5).1 := by
  unfold wReplay
  try dsimp only
  exact (ite_fst_kept (wPlain_kept (noteHold_kept g0)) (ite_fst_kept (wPlain_kept g0) (wPlain_kept (noteHold_kept g0))))

theorem wSyncWindow_kept {a a0 a1 a2 a3 a4} (g0 : Kept a a4) : Kept a (wSyncWindow a0 a1 a2 a3 a4).1 := by
  unfold wSyncWindow
  try dsimp only
  exact (ite_fst_kept (wSync_kept g0) (ite_fst_kept (wSync_kept g0) (ite_fst_kept (wSyncFill_kept g0) (ite_fst_kept (deny_kept g0) (wSyncPlain_kept g0)))))

theorem wPartition_kept {a a0 a1 a2 a3 a4 a5} (g0 : Kept a a5) : Kept a (wPartition a0 a1 a2 a3 a4 a5).1 := by
  unfold wPartition
  try dsimp only
  exact (ite_fst_kept (wPartitionCommand_kept g0) (ite_fst_kept (wPlain_kept g0) (ite_fst_kept (wPlain_kept g0) (wPlain_kept g0))))

theorem writeCompute_kept {a a0 a1 a2 a3 a4 a5 a6} (g0 : Kept a a6) : Kept a (writeCompute a0 a1 a2 a3 a4 a5 a6).1 := by
  unfold writeCompute
  try dsimp only
  exact (ite_fst_kept (ite_fst_kept (fst_kept (setObj_kept g0)) (fst_kept (setObj_kept g0))) (ite_fst_kept (wTile_kept g0) (ite_fst_kept (wEngine_kept g0) (ite_fst_kept (wEngine_kept g0) (ite_fst_kept (wEngine_kept g0) (ite_fst_kept (wFabric_kept g0) (ite_fst_kept (wCistern_kept g0) (ite_fst_kept (wRegion_kept g0) (ite_fst_kept (wSeq_kept g0) (ite_fst_kept (wPartition_kept g0) (ite_fst_kept (wLoan_kept g0) (ite_fst_kept (wAcct_kept g0) (ite_fst_kept (wPlain_kept g0) (ite_fst_kept (wSyncWindow_kept g0) (ite_fst_kept (ite_fst_kept (wHostWatch_kept g0) (wPlain_kept g0)) (ite_fst_kept (wDet_kept g0) (ite_fst_kept (wReplay_kept g0) (fst_kept g0))))))))))))))))))

theorem wImg_kept {a a0 a1 a2 a3 a4 a5} (g0 : Kept a a5) : Kept a (wImg a0 a1 a2 a3 a4 a5).1 := by
  unfold wImg
  try dsimp only
  exact (ite_fst_kept (wPlain_kept g0) (ite_fst_kept (wPlain_kept g0) (wPlain_kept g0)))

theorem wFw_kept {a a0 a1 a2 a3 a4} (g0 : Kept a a4) : Kept a (wFw a0 a1 a2 a3 a4).1 := by
  unfold wFw
  try dsimp only
  exact (ite_fst_kept (wRillKick_kept g0) (ite_fst_kept (ite_fst_kept (fst_kept (useFree_kept (wFwCommand_kept g0))) (wFwCommand_kept g0)) (ite_fst_kept (wPlain_kept g0) (ite_fst_kept (fst_kept (fwDataAccess_kept g0)) (ite_fst_kept (wPlain_kept g0) (ite_fst_kept (wPlain_kept g0) (ite_fst_kept (wPlain_kept g0) (wPlain_kept g0))))))))

theorem wI2c_kept {a a0 a1 a2 a3 a4} (g0 : Kept a a4) : Kept a (wI2c a0 a1 a2 a3 a4).1 := by
  unfold wI2c
  try dsimp only
  exact (ite_fst_kept (wI2cCommand_kept g0) (ite_fst_kept (wI2cData_kept g0) (ite_fst_kept (wPlain_kept g0) (ite_fst_kept (wPlain_kept g0) (wPlain_kept g0)))))

theorem wPath_kept {a a0 a1 a2 a3 a4 a5} (g0 : Kept a a5) : Kept a (wPath a0 a1 a2 a3 a4 a5).1 := by
  unfold wPath
  try dsimp only
  exact (ite_fst_kept (wPassthru_kept g0) (wPlain_kept g0))

theorem wOverlay_kept {a a0 a1 a2 a3 a4 a5} (g0 : Kept a a5) : Kept a (wOverlay a0 a1 a2 a3 a4 a5).1 := by
  unfold wOverlay
  try dsimp only
  exact (ite_fst_kept (wPlain_kept g0) (ite_fst_kept (wPlain_kept g0) (ite_fst_kept (wPlain_kept g0) (ite_fst_kept (wPlain_kept g0) (ite_fst_kept (wPlain_kept g0) (ite_fst_kept (wPlain_kept g0) (wPlain_kept g0)))))))

theorem wDma_kept {a a0 a1 a2 a3 a4 a5} (g0 : Kept a a5) : Kept a (wDma a0 a1 a2 a3 a4 a5).1 := by
  unfold wDma
  try dsimp only
  exact (ite_fst_kept (wDmaConfig_kept g0) (ite_fst_kept (wDmaRing_kept g0) (ite_fst_kept (wDmaRing_kept g0) (ite_fst_kept (wDmaPhase_kept g0) (wPlain_kept g0)))))

theorem wTimeNow_kept {a a0 a1} (g0 : Kept a a1) : Kept a (wTimeNow a0 a1).1 := by
  unfold wTimeNow
  try dsimp only
  exact (by (try dsimp only); first | (split; exact (ppsMeasure_kept (capture_kept (restampCaptures_kept (addObj_kept (setObj_kept (upd_clk_kept g0)))))); exact (capture_kept (restampCaptures_kept (addObj_kept (setObj_kept (upd_clk_kept g0)))))) | (split <;> first | exact (ppsMeasure_kept (capture_kept (restampCaptures_kept (addObj_kept (setObj_kept (upd_clk_kept g0)))))) | exact (capture_kept (restampCaptures_kept (addObj_kept (setObj_kept (upd_clk_kept g0)))))))

theorem wTime_kept {a a0 a1 a2 a3 a4} (g0 : Kept a a4) : Kept a (wTime a0 a1 a2 a3 a4).1 := by
  unfold wTime
  try dsimp only
  exact (ite_fst_kept (wTimeNow_kept g0) (ite_fst_kept (wPpsEnable_kept g0) (ite_fst_kept (wPlain_kept g0) (wPlain_kept g0))))

theorem writeInterface_kept {a a0 a1 a2 a3 a4 a5 a6} (g0 : Kept a a6) : Kept a (writeInterface a0 a1 a2 a3 a4 a5 a6).1 := by
  unfold writeInterface
  try dsimp only
  exact (ite_fst_kept (wRaster_kept g0) (ite_fst_kept (wMutePorts_kept g0) (ite_fst_kept (wPlain_kept g0) (ite_fst_kept (wAudio_kept g0) (ite_fst_kept (wOverlay_kept g0) (ite_fst_kept (wPlain_kept g0) (ite_fst_kept (wPlain_kept g0) (ite_fst_kept (wI2c_kept g0) (ite_fst_kept (wGpio_kept g0) (ite_fst_kept (wPinmux_kept g0) (ite_fst_kept (wPinmux_kept g0) (ite_fst_kept (wDma_kept g0) (ite_fst_kept (wPlain_kept g0) (ite_fst_kept (wFw_kept g0) (ite_fst_kept (wPath_kept g0) (ite_fst_kept (wImg_kept g0) (ite_fst_kept (wEnv_kept g0) (ite_fst_kept (ite_fst_kept (wPlain_kept g0) (wGenlockSlew_kept g0)) (ite_fst_kept (wTime_kept g0) (ite_fst_kept (wStep_kept g0) (ite_fst_kept (wBring_kept g0) (ite_fst_kept (wDefects_kept g0) (ite_fst_kept (ite_fst_kept (wAlmanacCommand_kept g0) (ite_fst_kept (wPlain_kept g0) (wPlain_kept g0))) (ite_fst_kept (wPerfCommand_kept g0) (ite_fst_kept (ite_fst_kept (wPerfEvent_kept g0) (fst_kept (perfLoad_kept g0))) (fst_kept g0))))))))))))))))))))))))))

theorem writeOf_kept {a a0 a1 a2 a3 a4 a5 a6} (g0 : Kept a a6) : Kept a (writeOf a0 a1 a2 a3 a4 a5 a6).1 := by
  unfold writeOf
  try dsimp only
  exact (ite_fst_kept (writeComm_kept g0) (ite_fst_kept (writeCompute_kept g0) (writeInterface_kept g0)))

theorem writeWord_kept {a a0 a1 a2 a3 a4} (g0 : Kept a a4) : Kept a (writeWord a0 a1 a2 a3 a4).1 := by
  unfold writeWord
  try dsimp only
  exact (by (try dsimp only); first | (split; exact (fst_kept g0); exact (by (try dsimp only); first | (split; exact (fst_kept g0); exact (ite_fst_kept (fst_kept g0) (ite_fst_kept (ite_fst_kept (writeHigh_kept (fun _ _ h0 => (writeOf_kept h0)) g0) (writeLow_kept g0)) (writeOf_kept g0)))) | (split <;> first | exact (fst_kept g0) | exact (ite_fst_kept (fst_kept g0) (ite_fst_kept (ite_fst_kept (writeHigh_kept (fun _ _ h0 => (writeOf_kept h0)) g0) (writeLow_kept g0)) (writeOf_kept g0)))))) | (split <;> first | exact (fst_kept g0) | exact (by (try dsimp only); first | (split; exact (fst_kept g0); exact (ite_fst_kept (fst_kept g0) (ite_fst_kept (ite_fst_kept (writeHigh_kept (fun _ _ h0 => (writeOf_kept h0)) g0) (writeLow_kept g0)) (writeOf_kept g0)))) | (split <;> first | exact (fst_kept g0) | exact (ite_fst_kept (fst_kept g0) (ite_fst_kept (ite_fst_kept (writeHigh_kept (fun _ _ h0 => (writeOf_kept h0)) g0) (writeLow_kept g0)) (writeOf_kept g0)))))))

theorem absentObject_kept {a a0 a1 a2 a3} (g0 : Kept a a3) : Kept a (absentObject a0 a1 a2 a3) := by
  unfold absentObject
  try dsimp only
  exact (ite_kept (emit_kept (addObj_kept g0)) (ite_kept (absentRead_kept g0) (addObj_kept g0)))

theorem writeObject_kept {a a0 a1 a2 a3 a4} (g0 : Kept a a4) : Kept a (writeObject a0 a1 a2 a3 a4) := by
  unfold writeObject
  try dsimp only
  exact (ite_kept (ackWrite_kept (writeWord_kept g0)) (absentObject_kept g0))

theorem busWrite_kept {a a0 a1 a2 a3 a4} (g0 : Kept a a4) : Kept a (busWrite a0 a1 a2 a3 a4) := by
  unfold busWrite
  try dsimp only
  exact (by (try dsimp only); first | (split; exact (writeObject_kept g0); exact (writeMsixWord_kept g0); exact g0; exact g0; exact g0; exact g0) | (split <;> first | exact (writeObject_kept g0) | exact (writeMsixWord_kept g0) | exact g0))

theorem busAnswer_kept {a a0 a1 a2 a3 a4} (g0 : Kept a a4) : Kept a (busAnswer a0 a1 a2 a3 a4) := by
  unfold busAnswer
  try dsimp only
  exact (by (try dsimp only); first | (split; exact (ite_kept (emit_kept g0) (answer_kept g0)); exact (answer_kept g0)) | (split <;> first | exact (ite_kept (emit_kept g0) (answer_kept g0)) | exact (answer_kept g0)))

theorem readWord_kept {a a0 a1 a2 a3} (g0 : Kept a a3) : Kept a (readWord a0 a1 a2 a3).2 := by
  unfold readWord
  try dsimp only
  exact (by (try dsimp only); first | (split; exact (snd_kept (setLatches_kept (readWhole_kept g0))); exact (ite_snd_kept (snd_kept (setLatches_kept (readWhole_kept g0))) (ite_snd_kept (by (try dsimp only); first | (split; exact (snd_kept (setLatches_kept (readWhole_kept g0))); exact (snd_kept (setLatches_kept (readWhole_kept g0)))) | (split <;> first | exact (snd_kept (setLatches_kept (readWhole_kept g0))))) (snd_kept (setLatches_kept (readWhole_kept g0)))))) | (split <;> first | exact (snd_kept (setLatches_kept (readWhole_kept g0))) | exact (ite_snd_kept (snd_kept (setLatches_kept (readWhole_kept g0))) (ite_snd_kept (by (try dsimp only); first | (split; exact (snd_kept (setLatches_kept (readWhole_kept g0))); exact (snd_kept (setLatches_kept (readWhole_kept g0)))) | (split <;> first | exact (snd_kept (setLatches_kept (readWhole_kept g0))))) (snd_kept (setLatches_kept (readWhole_kept g0)))))))

theorem busRead_kept {a a0 a1 a2 a3} (g0 : Kept a a3) : Kept a (busRead a0 a1 a2 a3).2 := by
  unfold busRead
  try dsimp only
  exact (by (try dsimp only); first | (split; exact (ite_snd_kept (readWord_kept g0) (snd_kept (addObj_kept g0))); exact (snd_kept g0); exact (snd_kept g0); exact (snd_kept (useFree_kept g0)); exact (snd_kept g0); exact (snd_kept g0)) | (split <;> first | exact (ite_snd_kept (readWord_kept g0) (snd_kept (addObj_kept g0))) | exact (snd_kept g0) | exact (snd_kept (useFree_kept g0))))

theorem busAccess_kept {a a0 a1 a2 a3 a4} (g0 : Kept a a4) : Kept a (busAccess a0 a1 a2 a3 a4) := by
  unfold busAccess
  try dsimp only
  exact (by (try dsimp only); first | (split; exact (apertureAccess_kept g0); exact (by (try dsimp only); first | (split; exact (ite_kept (answer_kept g0) (ite_kept (readSyncData_kept g0) (ite_kept (busAnswer_kept (busRead_kept g0)) (busAnswer_kept (busRead_kept (busRead_kept g0)))))); exact (ite_kept g0 (ite_kept (busWrite_kept g0) (busWrite_kept (busWrite_kept g0))))) | (split <;> first | exact (ite_kept (answer_kept g0) (ite_kept (readSyncData_kept g0) (ite_kept (busAnswer_kept (busRead_kept g0)) (busAnswer_kept (busRead_kept (busRead_kept g0)))))) | exact (ite_kept g0 (ite_kept (busWrite_kept g0) (busWrite_kept (busWrite_kept g0))))))) | (split <;> first | exact (apertureAccess_kept g0) | exact (by (try dsimp only); first | (split; exact (ite_kept (answer_kept g0) (ite_kept (readSyncData_kept g0) (ite_kept (busAnswer_kept (busRead_kept g0)) (busAnswer_kept (busRead_kept (busRead_kept g0)))))); exact (ite_kept g0 (ite_kept (busWrite_kept g0) (busWrite_kept (busWrite_kept g0))))) | (split <;> first | exact (ite_kept (answer_kept g0) (ite_kept (readSyncData_kept g0) (ite_kept (busAnswer_kept (busRead_kept g0)) (busAnswer_kept (busRead_kept (busRead_kept g0)))))) | exact (ite_kept g0 (ite_kept (busWrite_kept g0) (busWrite_kept (busWrite_kept g0))))))))

theorem execObjectWrite_kept {a a0 a1 a2 a3 a4} (g0 : Kept a a4) : KeptOut a (execObjectWrite a0 a1 a2 a3 a4) := by
  unfold execObjectWrite
  try dsimp only
  exact (whenFree_kept g0 (fun _ h0 => (by (try dsimp only); split <;> first | exact (writeObject_kept h0) | exact (busAccess_kept h0))))

theorem execLowHalfWrite_kept {a a0 a1 a2 a3 a4} (g0 : Kept a a4) : KeptOut a (execLowHalfWrite a0 a1 a2 a3 a4) := by
  unfold execLowHalfWrite
  try dsimp only
  exact (whenFree_kept g0 (fun _ h0 => (ite_kept (writeObject_kept h0) h0)))

theorem execHighHalfWrite_kept {a a0 a1 a2 a3 a4} (g0 : Kept a a4) : KeptOut a (execHighHalfWrite a0 a1 a2 a3 a4) := by
  unfold execHighHalfWrite
  try dsimp only
  exact (whenFree_kept g0 (fun _ h0 => (ite_kept (writeObject_kept h0) h0)))

theorem execLowHalfRead_kept {a a0 a1 a2 a3} (g0 : Kept a a3) : KeptOut a (execLowHalfRead a0 a1 a2 a3) := by
  unfold execLowHalfRead
  try dsimp only
  exact (whenFree_kept g0 (fun _ h0 => (ite_kept (ite_kept (emit_kept (readWord_kept h0)) (absentObject_kept h0)) h0)))

theorem execAbsentAccess_kept {a a0 a1 a2 a3 a4} (g0 : Kept a a4) : KeptOut a (execAbsentAccess a0 a1 a2 a3 a4) := by
  unfold execAbsentAccess
  try dsimp only
  exact (whenFree_kept g0 (fun _ h0 => (ite_kept h0 (absentObject_kept h0))))

theorem updCan_kept {a a0 a1} (g0 : Kept a a1) : Kept a (updCan a0 a1) := by
  unfold updCan
  try dsimp only
  exact (upd_io_kept g0)

theorem sendTpdo_kept {a a0 a1} (g0 : Kept a a1) : Kept a (sendTpdo a0 a1) := by
  unfold sendTpdo
  try dsimp only
  exact (emit_kept (useFree_kept (updCan_kept g0)))

theorem syncTpdo_kept {a a0 a1} (g0 : Kept a a1) : Kept a (syncTpdo a0 a1) := by
  unfold syncTpdo
  try dsimp only
  exact (ite_kept (ite_kept (sendTpdo_kept g0) (updCan_kept g0)) g0)

theorem execSyncMessage_kept {a a0 a1} (g0 : Kept a a1) : KeptOut a (execSyncMessage a0 a1) := by
  unfold execSyncMessage
  try dsimp only
  exact (whenLive_kept g0 (fun _ h0 => (ite_kept (foldl_kept (fun _ _ h1 => (syncTpdo_kept h1)) h0) h0)))

theorem usdoReply_kept {a a0 a1 a2} (g0 : Kept a a2) : Kept a (usdoReply a0 a1 a2) := by
  unfold usdoReply
  try dsimp only
  exact (by (try dsimp only); first | (split; exact (emit_kept g0); exact (ite_kept (emit_kept g0) (emit_kept g0)); exact (emit_kept g0)) | (split <;> first | exact (emit_kept g0) | exact (ite_kept (emit_kept g0) (emit_kept g0))))

theorem execNmtResetCommunication_kept {a a0} (g0 : Kept a a0) : KeptOut a (execNmtResetCommunication a0) := by
  unfold execNmtResetCommunication
  try dsimp only
  exact (whenLive_kept g0 (fun _ h0 => (ite_kept (canReset_kept h0) h0)))

theorem execNmtStop_kept {a a0} (g0 : Kept a a0) : KeptOut a (execNmtStop a0) := by
  unfold execNmtStop
  try dsimp only
  exact (whenLive_kept g0 (fun _ h0 => (ite_kept (updCan_kept h0) h0)))

theorem uploadWords_kept {a a0 a1 a2 a3 a4} (g0 : Kept a a4) : Kept a (uploadWords a0 a1 a2 a3 a4).2 := by
  induction a3 generalizing a4 with
  | zero => exact g0
  | succ n ih => exact ih (readWord_kept g0)

theorem usdoRead_kept {a a0 a1 a2 a3} (g0 : Kept a a3) : Kept a (usdoRead a0 a1 a2 a3) := by
  unfold usdoRead
  try dsimp only
  exact (ite_kept (absentObject_kept g0) (ite_kept (emit_kept g0) (ite_kept (readSyncData_kept g0) (emit_kept (uploadWords_kept g0)))))

theorem execHeartbeatTimer_kept {a a0} (g0 : Kept a a0) : KeptOut a (execHeartbeatTimer a0) := by
  unfold execHeartbeatTimer
  try dsimp only
  exact (whenLive_kept g0 (fun _ h0 => (ite_kept (emit_kept (updCan_kept h0)) h0)))

theorem execNmtPreOperational_kept {a a0} (g0 : Kept a a0) : KeptOut a (execNmtPreOperational a0) := by
  unfold execNmtPreOperational
  try dsimp only
  exact (whenLive_kept g0 (fun _ h0 => (ite_kept (updCan_kept h0) h0)))

theorem execNmtResetNode_kept {a a0} (g0 : Kept a a0) : KeptOut a (execNmtResetNode a0) := by
  unfold execNmtResetNode
  try dsimp only
  exact (whenLive_kept g0 (fun _ h0 => (ite_kept (canReset_kept h0) h0)))

theorem execUsdoUpload_kept {a a0 a1 a2 a3} (g0 : Kept a a3) : KeptOut a (execUsdoUpload a0 a1 a2 a3) := by
  unfold execUsdoUpload
  try dsimp only
  exact (whenLive_kept g0 (fun _ h0 => (ite_kept (usdoRead_kept h0) h0)))

theorem nmtOperational_kept {a a0} (g0 : Kept a a0) : Kept a (nmtOperational a0) := by
  unfold nmtOperational
  try dsimp only
  exact (ite_kept g0 (updCan_kept g0))

theorem downloadWords_kept {a a0 a1 a2 a3} (g0 : Kept a a3) : Kept a (downloadWords a0 a1 a2 a3).1 := by
  induction a2 generalizing a3 with
  | nil => exact g0
  | cons v vs ih =>
    have h := ackWrite_kept (a0 := a0 * 256 + a1) (writeWord_kept (a0 := 0) (a1 := a0) (a2 := a1) (a3 := v) g0)
    simp only [downloadWords]
    split
    · exact ih h
    · exact h

theorem usdoWrite_kept {a a0 a1 a2 a3} (g0 : Kept a a3) : Kept a (usdoWrite a0 a1 a2 a3) := by
  unfold usdoWrite
  try dsimp only
  exact (ite_kept (absentObject_kept g0) (ite_kept (emit_kept g0) (ite_kept (emit_kept (refuse_kept g0)) (ite_kept (emit_kept (refuse_kept g0)) (usdoReply_kept (downloadWords_kept g0))))))

theorem execCanBusError_kept {a a0 a1 a2 a3} (g0 : Kept a a3) : KeptOut a (execCanBusError a0 a1 a2 a3) := by
  unfold execCanBusError
  try dsimp only
  exact (whenLive_kept g0 (fun _ h0 => (ite_kept h0 (setObj_kept (updCan_kept h0)))))

theorem execNmtStart_kept {a a0} (g0 : Kept a a0) : KeptOut a (execNmtStart a0) := by
  unfold execNmtStart
  try dsimp only
  exact (whenLive_kept g0 (fun _ h0 => (ite_kept (nmtOperational_kept h0) h0)))

theorem execTpdoEventTimer_kept {a a0 a1} (g0 : Kept a a1) : KeptOut a (execTpdoEventTimer a0 a1) := by
  unfold execTpdoEventTimer
  try dsimp only
  exact (whenLive_kept g0 (fun _ h0 => (ite_kept (sendTpdo_kept h0) h0)))

theorem execUsdoDownload_kept {a a0 a1 a2 a3} (g0 : Kept a a3) : KeptOut a (execUsdoDownload a0 a1 a2 a3) := by
  unfold execUsdoDownload
  try dsimp only
  exact (whenLive_kept g0 (fun _ h0 => (ite_kept (usdoWrite_kept h0) h0)))

theorem tickFill_kept {a a0} (g0 : Kept a a0) : Kept a (tickFill a0) := by
  unfold tickFill
  try dsimp only
  exact (by (try dsimp only); first | (split; exact g0; exact (fillSome_kept g0)) | (split <;> first | exact g0 | exact (fillSome_kept g0)))

theorem tickPerf_kept {a a0} (g0 : Kept a a0) : Kept a (tickPerf a0) := by
  unfold tickPerf
  try dsimp only
  exact (foldl_kept (fun _ _ h0 => (ite_kept (perfAdd_kept h0) h0)) g0)

theorem tickLands_kept {a a0} (g0 : Kept a a0) : Kept a (tickLands a0) := by
  unfold tickLands
  try dsimp only
  exact (endSwitches_kept (by (try dsimp only); first | (split; exact (ite_kept (refreshPins_kept (upd_io_kept g0)) g0); exact g0) | (split <;> first | exact (ite_kept (refreshPins_kept (upd_io_kept g0)) g0) | exact g0)))

theorem tickWaits_kept {a a0} (g0 : Kept a a0) : Kept a (tickWaits a0) := by
  unfold tickWaits
  try dsimp only
  exact (foldl_kept (fun _ _ h0 => (by (try dsimp only); first | (split; exact (chargeWait_kept h0); exact h0) | (split <;> first | exact (chargeWait_kept h0) | exact h0))) g0)

theorem tickEmcy_kept {a a0} (g0 : Kept a a0) : Kept a (tickEmcy a0) := by
  unfold tickEmcy
  try dsimp only
  exact (by (try dsimp only); first | (split; exact g0; exact (ite_kept (sendEmcy_kept (updCan_kept g0)) g0)) | (split <;> first | exact g0 | exact (ite_kept (sendEmcy_kept (updCan_kept g0)) g0)))

theorem tickCalendar_kept {a a0} (g0 : Kept a a0) : Kept a (tickCalendar a0) := by
  unfold tickCalendar
  try dsimp only
  exact (setObj_kept (upd_clk_kept g0))

theorem tickClocks_kept {a a0} (g0 : Kept a a0) : Kept a (tickClocks a0) := by
  unfold tickClocks
  try dsimp only
  exact (tickCalendar_kept (ite_kept (addObj_kept (ite_kept (addObj_kept (upd_clk_kept g0)) (upd_clk_kept g0))) (ite_kept (addObj_kept (upd_clk_kept g0)) (upd_clk_kept g0))))

theorem tick_kept {a a0} (g0 : Kept a a0) : Kept a (tick a0) := by
  unfold tick
  try dsimp only
  exact (tickLands_kept (tickEmcy_kept (tickFill_kept (tickPerf_kept (tickClocks_kept (endWarms_kept (passCycle_kept (tickWaits_kept g0))))))))

end Sys2Proof.Machine
end

