-- ==== Sys2Proof/Laws/State.lean ====
section
/-!
SUPPORT. One lemma for each field that an update leaves as it was, and what an accessor reads after each update.
-/

namespace Sys2Proof.Machine

/-! ### flashErase -/

@[simp] theorem flashErase_pending (a n : Nat) (s : State) : (flashErase a n s).pending = s.pending := rfl
@[simp] theorem flashErase_out (a n : Nat) (s : State) : (flashErase a n s).out = s.out := rfl
@[simp] theorem flashErase_free (a n : Nat) (s : State) : (flashErase a n s).free = s.free := rfl
@[simp] theorem flashErase_objs (a n : Nat) (s : State) : (flashErase a n s).objs = s.objs := rfl
@[simp] theorem flashErase_latches (a n : Nat) (s : State) : (flashErase a n s).latches = s.latches := rfl
@[simp] theorem flashErase_clk (a n : Nat) (s : State) : (flashErase a n s).clk = s.clk := rfl
@[simp] theorem flashErase_pw (a n : Nat) (s : State) : (flashErase a n s).pw = s.pw := rfl
@[simp] theorem flashErase_fw (a n : Nat) (s : State) : (flashErase a n s).fw = s.fw := rfl
@[simp] theorem flashErase_fab (a n : Nat) (s : State) : (flashErase a n s).fab = s.fab := rfl
@[simp] theorem flashErase_tl (a n : Nat) (s : State) : (flashErase a n s).tl = s.tl := rfl
@[simp] theorem flashErase_ci (a n : Nat) (s : State) : (flashErase a n s).ci = s.ci := rfl
@[simp] theorem flashErase_pt (a n : Nat) (s : State) : (flashErase a n s).pt = s.pt := rfl
@[simp] theorem flashErase_sy (a n : Nat) (s : State) : (flashErase a n s).sy = s.sy := rfl
@[simp] theorem flashErase_st (a n : Nat) (s : State) : (flashErase a n s).st = s.st := rfl
@[simp] theorem flashErase_io (a n : Nat) (s : State) : (flashErase a n s).io = s.io := rfl
@[simp] theorem flashErase_alm (a n : Nat) (s : State) : (flashErase a n s).alm = s.alm := rfl
@[simp] theorem flashErase_now (a n : Nat) (s : State) : (flashErase a n s).now = s.now := rfl

/-! ### setDefect -/

@[simp] theorem setDefect_pending (e : Nat) (w : Nat × Nat) (s : State) : (setDefect e w s).pending = s.pending := rfl
@[simp] theorem setDefect_out (e : Nat) (w : Nat × Nat) (s : State) : (setDefect e w s).out = s.out := rfl
@[simp] theorem setDefect_free (e : Nat) (w : Nat × Nat) (s : State) : (setDefect e w s).free = s.free := rfl
@[simp] theorem setDefect_objs (e : Nat) (w : Nat × Nat) (s : State) : (setDefect e w s).objs = s.objs := rfl
@[simp] theorem setDefect_latches (e : Nat) (w : Nat × Nat) (s : State) : (setDefect e w s).latches = s.latches := rfl
@[simp] theorem setDefect_flash (e : Nat) (w : Nat × Nat) (s : State) : (setDefect e w s).flash = s.flash := rfl
@[simp] theorem setDefect_clk (e : Nat) (w : Nat × Nat) (s : State) : (setDefect e w s).clk = s.clk := rfl
@[simp] theorem setDefect_pw (e : Nat) (w : Nat × Nat) (s : State) : (setDefect e w s).pw = s.pw := rfl
@[simp] theorem setDefect_fw (e : Nat) (w : Nat × Nat) (s : State) : (setDefect e w s).fw = s.fw := rfl
@[simp] theorem setDefect_tl (e : Nat) (w : Nat × Nat) (s : State) : (setDefect e w s).tl = s.tl := rfl
@[simp] theorem setDefect_ci (e : Nat) (w : Nat × Nat) (s : State) : (setDefect e w s).ci = s.ci := rfl
@[simp] theorem setDefect_pt (e : Nat) (w : Nat × Nat) (s : State) : (setDefect e w s).pt = s.pt := rfl
@[simp] theorem setDefect_sy (e : Nat) (w : Nat × Nat) (s : State) : (setDefect e w s).sy = s.sy := rfl
@[simp] theorem setDefect_st (e : Nat) (w : Nat × Nat) (s : State) : (setDefect e w s).st = s.st := rfl
@[simp] theorem setDefect_io (e : Nat) (w : Nat × Nat) (s : State) : (setDefect e w s).io = s.io := rfl
@[simp] theorem setDefect_alm (e : Nat) (w : Nat × Nat) (s : State) : (setDefect e w s).alm = s.alm := rfl
@[simp] theorem setDefect_fab_board (e : Nat) (w : Nat × Nat) (s : State) : (setDefect e w s).fab.board = s.fab.board := rfl
@[simp] theorem setDefect_fab_repairs (e : Nat) (w : Nat × Nat) (s : State) : (setDefect e w s).fab.repairs = s.fab.repairs := rfl
@[simp] theorem setDefect_fab_links (e : Nat) (w : Nat × Nat) (s : State) : (setDefect e w s).fab.links = s.fab.links := rfl
@[simp] theorem setDefect_fab_load (e : Nat) (w : Nat × Nat) (s : State) : (setDefect e w s).fab.load = s.fab.load := rfl
@[simp] theorem setDefect_fab_evac (e : Nat) (w : Nat × Nat) (s : State) : (setDefect e w s).fab.evac = s.fab.evac := rfl
@[simp] theorem setDefect_fab_siteOf (e : Nat) (w : Nat × Nat) (s : State) : (setDefect e w s).fab.siteOf = s.fab.siteOf := rfl
@[simp] theorem setDefect_fab_motionFailed (e : Nat) (w : Nat × Nat) (s : State) : (setDefect e w s).fab.motionFailed = s.fab.motionFailed := rfl
@[simp] theorem setDefect_fab_resetWaits (e : Nat) (w : Nat × Nat) (s : State) : (setDefect e w s).fab.resetWaits = s.fab.resetWaits := rfl
@[simp] theorem setDefect_fab_unlisted (e : Nat) (w : Nat × Nat) (s : State) : (setDefect e w s).fab.unlisted = s.fab.unlisted := rfl
@[simp] theorem setDefect_fab_stepMap (e : Nat) (w : Nat × Nat) (s : State) : (setDefect e w s).fab.stepMap = s.fab.stepMap := rfl
@[simp] theorem setDefect_fab_faultWaits (e : Nat) (w : Nat × Nat) (s : State) : (setDefect e w s).fab.faultWaits = s.fab.faultWaits := rfl
@[simp] theorem setDefect_now (e : Nat) (w : Nat × Nat) (s : State) : (setDefect e w s).now = s.now := rfl

/-! ### updCan -/

@[simp] theorem updCan_pending (f : Can → Can) (s : State) : (updCan f s).pending = s.pending := rfl
@[simp] theorem updCan_out (f : Can → Can) (s : State) : (updCan f s).out = s.out := rfl
@[simp] theorem updCan_free (f : Can → Can) (s : State) : (updCan f s).free = s.free := rfl
@[simp] theorem updCan_objs (f : Can → Can) (s : State) : (updCan f s).objs = s.objs := rfl
@[simp] theorem updCan_latches (f : Can → Can) (s : State) : (updCan f s).latches = s.latches := rfl
@[simp] theorem updCan_flash (f : Can → Can) (s : State) : (updCan f s).flash = s.flash := rfl
@[simp] theorem updCan_clk (f : Can → Can) (s : State) : (updCan f s).clk = s.clk := rfl
@[simp] theorem updCan_pw (f : Can → Can) (s : State) : (updCan f s).pw = s.pw := rfl
@[simp] theorem updCan_fw (f : Can → Can) (s : State) : (updCan f s).fw = s.fw := rfl
@[simp] theorem updCan_fab (f : Can → Can) (s : State) : (updCan f s).fab = s.fab := rfl
@[simp] theorem updCan_tl (f : Can → Can) (s : State) : (updCan f s).tl = s.tl := rfl
@[simp] theorem updCan_ci (f : Can → Can) (s : State) : (updCan f s).ci = s.ci := rfl
@[simp] theorem updCan_pt (f : Can → Can) (s : State) : (updCan f s).pt = s.pt := rfl
@[simp] theorem updCan_sy (f : Can → Can) (s : State) : (updCan f s).sy = s.sy := rfl
@[simp] theorem updCan_st (f : Can → Can) (s : State) : (updCan f s).st = s.st := rfl
@[simp] theorem updCan_alm (f : Can → Can) (s : State) : (updCan f s).alm = s.alm := rfl
@[simp] theorem updCan_io_raster (f : Can → Can) (s : State) : (updCan f s).io.raster = s.io.raster := rfl
@[simp] theorem updCan_io_rings (f : Can → Can) (s : State) : (updCan f s).io.rings = s.io.rings := rfl
@[simp] theorem updCan_io_pcie (f : Can → Can) (s : State) : (updCan f s).io.pcie = s.io.pcie := rfl
@[simp] theorem updCan_io_paths (f : Can → Can) (s : State) : (updCan f s).io.paths = s.io.paths := rfl
@[simp] theorem updCan_io_lands (f : Can → Can) (s : State) : (updCan f s).io.lands = s.io.lands := rfl
@[simp] theorem updCan_io_msixTable (f : Can → Can) (s : State) : (updCan f s).io.msixTable = s.io.msixTable := rfl
@[simp] theorem updCan_now (f : Can → Can) (s : State) : (updCan f s).now = s.now := rfl

/-! ### clearLatches -/

@[simp] theorem clearLatches_pending (m : Nat) (s : State) : (clearLatches m s).pending = s.pending := rfl
@[simp] theorem clearLatches_out (m : Nat) (s : State) : (clearLatches m s).out = s.out := rfl
@[simp] theorem clearLatches_free (m : Nat) (s : State) : (clearLatches m s).free = s.free := rfl
@[simp] theorem clearLatches_objs (m : Nat) (s : State) : (clearLatches m s).objs = s.objs := rfl
@[simp] theorem clearLatches_flash (m : Nat) (s : State) : (clearLatches m s).flash = s.flash := rfl
@[simp] theorem clearLatches_clk (m : Nat) (s : State) : (clearLatches m s).clk = s.clk := rfl
@[simp] theorem clearLatches_pw (m : Nat) (s : State) : (clearLatches m s).pw = s.pw := rfl
@[simp] theorem clearLatches_fw (m : Nat) (s : State) : (clearLatches m s).fw = s.fw := rfl
@[simp] theorem clearLatches_fab (m : Nat) (s : State) : (clearLatches m s).fab = s.fab := rfl
@[simp] theorem clearLatches_tl (m : Nat) (s : State) : (clearLatches m s).tl = s.tl := rfl
@[simp] theorem clearLatches_ci (m : Nat) (s : State) : (clearLatches m s).ci = s.ci := rfl
@[simp] theorem clearLatches_pt (m : Nat) (s : State) : (clearLatches m s).pt = s.pt := rfl
@[simp] theorem clearLatches_sy (m : Nat) (s : State) : (clearLatches m s).sy = s.sy := rfl
@[simp] theorem clearLatches_st (m : Nat) (s : State) : (clearLatches m s).st = s.st := rfl
@[simp] theorem clearLatches_io (m : Nat) (s : State) : (clearLatches m s).io = s.io := rfl
@[simp] theorem clearLatches_alm (m : Nat) (s : State) : (clearLatches m s).alm = s.alm := rfl
@[simp] theorem clearLatches_now (m : Nat) (s : State) : (clearLatches m s).now = s.now := rfl

/-! ### setI2cByte -/

@[simp] theorem setI2cByte_pending (i v : Nat) (s : State) : (setI2cByte i v s).pending = s.pending := rfl
@[simp] theorem setI2cByte_out (i v : Nat) (s : State) : (setI2cByte i v s).out = s.out := rfl
@[simp] theorem setI2cByte_free (i v : Nat) (s : State) : (setI2cByte i v s).free = s.free := rfl
@[simp] theorem setI2cByte_objs (i v : Nat) (s : State) : (setI2cByte i v s).objs = s.objs := rfl
@[simp] theorem setI2cByte_latches (i v : Nat) (s : State) : (setI2cByte i v s).latches = s.latches := rfl
@[simp] theorem setI2cByte_flash (i v : Nat) (s : State) : (setI2cByte i v s).flash = s.flash := rfl
@[simp] theorem setI2cByte_clk (i v : Nat) (s : State) : (setI2cByte i v s).clk = s.clk := rfl
@[simp] theorem setI2cByte_pw (i v : Nat) (s : State) : (setI2cByte i v s).pw = s.pw := rfl
@[simp] theorem setI2cByte_fw (i v : Nat) (s : State) : (setI2cByte i v s).fw = s.fw := rfl
@[simp] theorem setI2cByte_fab (i v : Nat) (s : State) : (setI2cByte i v s).fab = s.fab := rfl
@[simp] theorem setI2cByte_tl (i v : Nat) (s : State) : (setI2cByte i v s).tl = s.tl := rfl
@[simp] theorem setI2cByte_ci (i v : Nat) (s : State) : (setI2cByte i v s).ci = s.ci := rfl
@[simp] theorem setI2cByte_pt (i v : Nat) (s : State) : (setI2cByte i v s).pt = s.pt := rfl
@[simp] theorem setI2cByte_sy (i v : Nat) (s : State) : (setI2cByte i v s).sy = s.sy := rfl
@[simp] theorem setI2cByte_st (i v : Nat) (s : State) : (setI2cByte i v s).st = s.st := rfl
@[simp] theorem setI2cByte_alm (i v : Nat) (s : State) : (setI2cByte i v s).alm = s.alm := rfl
@[simp] theorem setI2cByte_io_raster (i v : Nat) (s : State) : (setI2cByte i v s).io.raster = s.io.raster := rfl
@[simp] theorem setI2cByte_io_rings (i v : Nat) (s : State) : (setI2cByte i v s).io.rings = s.io.rings := rfl
@[simp] theorem setI2cByte_io_pcie (i v : Nat) (s : State) : (setI2cByte i v s).io.pcie = s.io.pcie := rfl
@[simp] theorem setI2cByte_io_paths (i v : Nat) (s : State) : (setI2cByte i v s).io.paths = s.io.paths := rfl
@[simp] theorem setI2cByte_io_can (i v : Nat) (s : State) : (setI2cByte i v s).io.can = s.io.can := rfl
@[simp] theorem setI2cByte_io_msixTable (i v : Nat) (s : State) : (setI2cByte i v s).io.msixTable = s.io.msixTable := rfl
@[simp] theorem setI2cByte_now (i v : Nat) (s : State) : (setI2cByte i v s).now = s.now := rfl

/-! ### setLink -/

@[simp] theorem setLink_pending (k : Nat) (x : Link) (s : State) : (setLink k x s).pending = s.pending := rfl
@[simp] theorem setLink_out (k : Nat) (x : Link) (s : State) : (setLink k x s).out = s.out := rfl
@[simp] theorem setLink_free (k : Nat) (x : Link) (s : State) : (setLink k x s).free = s.free := rfl
@[simp] theorem setLink_objs (k : Nat) (x : Link) (s : State) : (setLink k x s).objs = s.objs := rfl
@[simp] theorem setLink_latches (k : Nat) (x : Link) (s : State) : (setLink k x s).latches = s.latches := rfl
@[simp] theorem setLink_flash (k : Nat) (x : Link) (s : State) : (setLink k x s).flash = s.flash := rfl
@[simp] theorem setLink_clk (k : Nat) (x : Link) (s : State) : (setLink k x s).clk = s.clk := rfl
@[simp] theorem setLink_pw (k : Nat) (x : Link) (s : State) : (setLink k x s).pw = s.pw := rfl
@[simp] theorem setLink_fw (k : Nat) (x : Link) (s : State) : (setLink k x s).fw = s.fw := rfl
@[simp] theorem setLink_tl (k : Nat) (x : Link) (s : State) : (setLink k x s).tl = s.tl := rfl
@[simp] theorem setLink_ci (k : Nat) (x : Link) (s : State) : (setLink k x s).ci = s.ci := rfl
@[simp] theorem setLink_pt (k : Nat) (x : Link) (s : State) : (setLink k x s).pt = s.pt := rfl
@[simp] theorem setLink_sy (k : Nat) (x : Link) (s : State) : (setLink k x s).sy = s.sy := rfl
@[simp] theorem setLink_st (k : Nat) (x : Link) (s : State) : (setLink k x s).st = s.st := rfl
@[simp] theorem setLink_io (k : Nat) (x : Link) (s : State) : (setLink k x s).io = s.io := rfl
@[simp] theorem setLink_alm (k : Nat) (x : Link) (s : State) : (setLink k x s).alm = s.alm := rfl
@[simp] theorem setLink_fab_board (k : Nat) (x : Link) (s : State) : (setLink k x s).fab.board = s.fab.board := rfl
@[simp] theorem setLink_fab_defects (k : Nat) (x : Link) (s : State) : (setLink k x s).fab.defects = s.fab.defects := rfl
@[simp] theorem setLink_fab_repairs (k : Nat) (x : Link) (s : State) : (setLink k x s).fab.repairs = s.fab.repairs := rfl
@[simp] theorem setLink_fab_load (k : Nat) (x : Link) (s : State) : (setLink k x s).fab.load = s.fab.load := rfl
@[simp] theorem setLink_fab_evac (k : Nat) (x : Link) (s : State) : (setLink k x s).fab.evac = s.fab.evac := rfl
@[simp] theorem setLink_fab_siteOf (k : Nat) (x : Link) (s : State) : (setLink k x s).fab.siteOf = s.fab.siteOf := rfl
@[simp] theorem setLink_fab_motionFailed (k : Nat) (x : Link) (s : State) : (setLink k x s).fab.motionFailed = s.fab.motionFailed := rfl
@[simp] theorem setLink_fab_resetWaits (k : Nat) (x : Link) (s : State) : (setLink k x s).fab.resetWaits = s.fab.resetWaits := rfl
@[simp] theorem setLink_fab_unlisted (k : Nat) (x : Link) (s : State) : (setLink k x s).fab.unlisted = s.fab.unlisted := rfl
@[simp] theorem setLink_fab_stepMap (k : Nat) (x : Link) (s : State) : (setLink k x s).fab.stepMap = s.fab.stepMap := rfl
@[simp] theorem setLink_fab_faultWaits (k : Nat) (x : Link) (s : State) : (setLink k x s).fab.faultWaits = s.fab.faultWaits := rfl
@[simp] theorem setLink_now (k : Nat) (x : Link) (s : State) : (setLink k x s).now = s.now := rfl

/-! ### setWatched -/

@[simp] theorem setWatched_pending (k : Nat) (ws : List Watched) (s : State) : (setWatched k ws s).pending = s.pending := rfl
@[simp] theorem setWatched_out (k : Nat) (ws : List Watched) (s : State) : (setWatched k ws s).out = s.out := rfl
@[simp] theorem setWatched_free (k : Nat) (ws : List Watched) (s : State) : (setWatched k ws s).free = s.free := rfl
@[simp] theorem setWatched_objs (k : Nat) (ws : List Watched) (s : State) : (setWatched k ws s).objs = s.objs := rfl
@[simp] theorem setWatched_latches (k : Nat) (ws : List Watched) (s : State) : (setWatched k ws s).latches = s.latches := rfl
@[simp] theorem setWatched_flash (k : Nat) (ws : List Watched) (s : State) : (setWatched k ws s).flash = s.flash := rfl
@[simp] theorem setWatched_clk (k : Nat) (ws : List Watched) (s : State) : (setWatched k ws s).clk = s.clk := rfl
@[simp] theorem setWatched_pw (k : Nat) (ws : List Watched) (s : State) : (setWatched k ws s).pw = s.pw := rfl
@[simp] theorem setWatched_fw (k : Nat) (ws : List Watched) (s : State) : (setWatched k ws s).fw = s.fw := rfl
@[simp] theorem setWatched_fab (k : Nat) (ws : List Watched) (s : State) : (setWatched k ws s).fab = s.fab := rfl
@[simp] theorem setWatched_tl (k : Nat) (ws : List Watched) (s : State) : (setWatched k ws s).tl = s.tl := rfl
@[simp] theorem setWatched_ci (k : Nat) (ws : List Watched) (s : State) : (setWatched k ws s).ci = s.ci := rfl
@[simp] theorem setWatched_pt (k : Nat) (ws : List Watched) (s : State) : (setWatched k ws s).pt = s.pt := rfl
@[simp] theorem setWatched_sy (k : Nat) (ws : List Watched) (s : State) : (setWatched k ws s).sy = s.sy := rfl
@[simp] theorem setWatched_io (k : Nat) (ws : List Watched) (s : State) : (setWatched k ws s).io = s.io := rfl
@[simp] theorem setWatched_alm (k : Nat) (ws : List Watched) (s : State) : (setWatched k ws s).alm = s.alm := rfl
@[simp] theorem setWatched_st_seqs (k : Nat) (ws : List Watched) (s : State) : (setWatched k ws s).st.seqs = s.st.seqs := rfl
@[simp] theorem setWatched_st_overlays (k : Nat) (ws : List Watched) (s : State) : (setWatched k ws s).st.overlays = s.st.overlays := rfl
@[simp] theorem setWatched_st_audio (k : Nat) (ws : List Watched) (s : State) : (setWatched k ws s).st.audio = s.st.audio := rfl
@[simp] theorem setWatched_st_fallback (k : Nat) (ws : List Watched) (s : State) : (setWatched k ws s).st.fallback = s.st.fallback := rfl
@[simp] theorem setWatched_st_served (k : Nat) (ws : List Watched) (s : State) : (setWatched k ws s).st.served = s.st.served := rfl
@[simp] theorem setWatched_now (k : Nat) (ws : List Watched) (s : State) : (setWatched k ws s).now = s.now := rfl

/-! ### setObj -/

@[simp] theorem setObj_pending (key v : Nat) (s : State) : (setObj key v s).pending = s.pending := rfl
@[simp] theorem setObj_out (key v : Nat) (s : State) : (setObj key v s).out = s.out := rfl
@[simp] theorem setObj_free (key v : Nat) (s : State) : (setObj key v s).free = s.free := rfl
@[simp] theorem setObj_latches (key v : Nat) (s : State) : (setObj key v s).latches = s.latches := rfl
@[simp] theorem setObj_flash (key v : Nat) (s : State) : (setObj key v s).flash = s.flash := rfl
@[simp] theorem setObj_clk (key v : Nat) (s : State) : (setObj key v s).clk = s.clk := rfl
@[simp] theorem setObj_pw (key v : Nat) (s : State) : (setObj key v s).pw = s.pw := rfl
@[simp] theorem setObj_fw (key v : Nat) (s : State) : (setObj key v s).fw = s.fw := rfl
@[simp] theorem setObj_fab (key v : Nat) (s : State) : (setObj key v s).fab = s.fab := rfl
@[simp] theorem setObj_tl (key v : Nat) (s : State) : (setObj key v s).tl = s.tl := rfl
@[simp] theorem setObj_ci (key v : Nat) (s : State) : (setObj key v s).ci = s.ci := rfl
@[simp] theorem setObj_pt (key v : Nat) (s : State) : (setObj key v s).pt = s.pt := rfl
@[simp] theorem setObj_sy (key v : Nat) (s : State) : (setObj key v s).sy = s.sy := rfl
@[simp] theorem setObj_st (key v : Nat) (s : State) : (setObj key v s).st = s.st := rfl
@[simp] theorem setObj_io (key v : Nat) (s : State) : (setObj key v s).io = s.io := rfl
@[simp] theorem setObj_alm (key v : Nat) (s : State) : (setObj key v s).alm = s.alm := rfl
@[simp] theorem setObj_now (key v : Nat) (s : State) : (setObj key v s).now = s.now := rfl

/-! ### dropObjs -/

@[simp] theorem dropObjs_pending (f : Nat → Bool) (s : State) : (dropObjs f s).pending = s.pending := rfl
@[simp] theorem dropObjs_out (f : Nat → Bool) (s : State) : (dropObjs f s).out = s.out := rfl
@[simp] theorem dropObjs_free (f : Nat → Bool) (s : State) : (dropObjs f s).free = s.free := rfl
@[simp] theorem dropObjs_latches (f : Nat → Bool) (s : State) : (dropObjs f s).latches = s.latches := rfl
@[simp] theorem dropObjs_flash (f : Nat → Bool) (s : State) : (dropObjs f s).flash = s.flash := rfl
@[simp] theorem dropObjs_clk (f : Nat → Bool) (s : State) : (dropObjs f s).clk = s.clk := rfl
@[simp] theorem dropObjs_pw (f : Nat → Bool) (s : State) : (dropObjs f s).pw = s.pw := rfl
@[simp] theorem dropObjs_fw (f : Nat → Bool) (s : State) : (dropObjs f s).fw = s.fw := rfl
@[simp] theorem dropObjs_fab (f : Nat → Bool) (s : State) : (dropObjs f s).fab = s.fab := rfl
@[simp] theorem dropObjs_tl (f : Nat → Bool) (s : State) : (dropObjs f s).tl = s.tl := rfl
@[simp] theorem dropObjs_ci (f : Nat → Bool) (s : State) : (dropObjs f s).ci = s.ci := rfl
@[simp] theorem dropObjs_pt (f : Nat → Bool) (s : State) : (dropObjs f s).pt = s.pt := rfl
@[simp] theorem dropObjs_sy (f : Nat → Bool) (s : State) : (dropObjs f s).sy = s.sy := rfl
@[simp] theorem dropObjs_st (f : Nat → Bool) (s : State) : (dropObjs f s).st = s.st := rfl
@[simp] theorem dropObjs_io (f : Nat → Bool) (s : State) : (dropObjs f s).io = s.io := rfl
@[simp] theorem dropObjs_alm (f : Nat → Bool) (s : State) : (dropObjs f s).alm = s.alm := rfl
@[simp] theorem dropObjs_now (f : Nat → Bool) (s : State) : (dropObjs f s).now = s.now := rfl

/-! ### emit -/

@[simp] theorem emit_pending (e : Emission) (s : State) : (emit e s).pending = s.pending := rfl
@[simp] theorem emit_free (e : Emission) (s : State) : (emit e s).free = s.free := rfl
@[simp] theorem emit_objs (e : Emission) (s : State) : (emit e s).objs = s.objs := rfl
@[simp] theorem emit_latches (e : Emission) (s : State) : (emit e s).latches = s.latches := rfl
@[simp] theorem emit_flash (e : Emission) (s : State) : (emit e s).flash = s.flash := rfl
@[simp] theorem emit_clk (e : Emission) (s : State) : (emit e s).clk = s.clk := rfl
@[simp] theorem emit_pw (e : Emission) (s : State) : (emit e s).pw = s.pw := rfl
@[simp] theorem emit_fw (e : Emission) (s : State) : (emit e s).fw = s.fw := rfl
@[simp] theorem emit_fab (e : Emission) (s : State) : (emit e s).fab = s.fab := rfl
@[simp] theorem emit_tl (e : Emission) (s : State) : (emit e s).tl = s.tl := rfl
@[simp] theorem emit_ci (e : Emission) (s : State) : (emit e s).ci = s.ci := rfl
@[simp] theorem emit_pt (e : Emission) (s : State) : (emit e s).pt = s.pt := rfl
@[simp] theorem emit_sy (e : Emission) (s : State) : (emit e s).sy = s.sy := rfl
@[simp] theorem emit_st (e : Emission) (s : State) : (emit e s).st = s.st := rfl
@[simp] theorem emit_io (e : Emission) (s : State) : (emit e s).io = s.io := rfl
@[simp] theorem emit_alm (e : Emission) (s : State) : (emit e s).alm = s.alm := rfl
@[simp] theorem emit_now (e : Emission) (s : State) : (emit e s).now = s.now := rfl

/-! ### setLatches -/

@[simp] theorem setLatches_pending (m : Nat) (l : Latches) (s : State) : (setLatches m l s).pending = s.pending := rfl
@[simp] theorem setLatches_out (m : Nat) (l : Latches) (s : State) : (setLatches m l s).out = s.out := rfl
@[simp] theorem setLatches_free (m : Nat) (l : Latches) (s : State) : (setLatches m l s).free = s.free := rfl
@[simp] theorem setLatches_objs (m : Nat) (l : Latches) (s : State) : (setLatches m l s).objs = s.objs := rfl
@[simp] theorem setLatches_flash (m : Nat) (l : Latches) (s : State) : (setLatches m l s).flash = s.flash := rfl
@[simp] theorem setLatches_clk (m : Nat) (l : Latches) (s : State) : (setLatches m l s).clk = s.clk := rfl
@[simp] theorem setLatches_pw (m : Nat) (l : Latches) (s : State) : (setLatches m l s).pw = s.pw := rfl
@[simp] theorem setLatches_fw (m : Nat) (l : Latches) (s : State) : (setLatches m l s).fw = s.fw := rfl
@[simp] theorem setLatches_fab (m : Nat) (l : Latches) (s : State) : (setLatches m l s).fab = s.fab := rfl
@[simp] theorem setLatches_tl (m : Nat) (l : Latches) (s : State) : (setLatches m l s).tl = s.tl := rfl
@[simp] theorem setLatches_ci (m : Nat) (l : Latches) (s : State) : (setLatches m l s).ci = s.ci := rfl
@[simp] theorem setLatches_pt (m : Nat) (l : Latches) (s : State) : (setLatches m l s).pt = s.pt := rfl
@[simp] theorem setLatches_sy (m : Nat) (l : Latches) (s : State) : (setLatches m l s).sy = s.sy := rfl
@[simp] theorem setLatches_st (m : Nat) (l : Latches) (s : State) : (setLatches m l s).st = s.st := rfl
@[simp] theorem setLatches_io (m : Nat) (l : Latches) (s : State) : (setLatches m l s).io = s.io := rfl
@[simp] theorem setLatches_alm (m : Nat) (l : Latches) (s : State) : (setLatches m l s).alm = s.alm := rfl
@[simp] theorem setLatches_now (m : Nat) (l : Latches) (s : State) : (setLatches m l s).now = s.now := rfl

/-! ### useFree -/

@[simp] theorem useFree_pending (s : State) : (useFree s).pending = s.pending := rfl
@[simp] theorem useFree_now (s : State) : (useFree s).now = s.now := rfl
@[simp] theorem useFree_out (s : State) : (useFree s).out = s.out := rfl
@[simp] theorem useFree_objs (s : State) : (useFree s).objs = s.objs := rfl
@[simp] theorem useFree_latches (s : State) : (useFree s).latches = s.latches := rfl
@[simp] theorem useFree_flash (s : State) : (useFree s).flash = s.flash := rfl
@[simp] theorem useFree_clk (s : State) : (useFree s).clk = s.clk := rfl
@[simp] theorem useFree_pw (s : State) : (useFree s).pw = s.pw := rfl
@[simp] theorem useFree_fw (s : State) : (useFree s).fw = s.fw := rfl
@[simp] theorem useFree_fab (s : State) : (useFree s).fab = s.fab := rfl
@[simp] theorem useFree_tl (s : State) : (useFree s).tl = s.tl := rfl
@[simp] theorem useFree_ci (s : State) : (useFree s).ci = s.ci := rfl
@[simp] theorem useFree_pt (s : State) : (useFree s).pt = s.pt := rfl
@[simp] theorem useFree_sy (s : State) : (useFree s).sy = s.sy := rfl
@[simp] theorem useFree_st (s : State) : (useFree s).st = s.st := rfl
@[simp] theorem useFree_io (s : State) : (useFree s).io = s.io := rfl
@[simp] theorem useFree_alm (s : State) : (useFree s).alm = s.alm := rfl

/-! ### setPcie -/

@[simp] theorem setPcie_pending (i : Nat) (p : Pcie) (s : State) : (setPcie i p s).pending = s.pending := rfl
@[simp] theorem setPcie_out (i : Nat) (p : Pcie) (s : State) : (setPcie i p s).out = s.out := rfl
@[simp] theorem setPcie_free (i : Nat) (p : Pcie) (s : State) : (setPcie i p s).free = s.free := rfl
@[simp] theorem setPcie_objs (i : Nat) (p : Pcie) (s : State) : (setPcie i p s).objs = s.objs := rfl
@[simp] theorem setPcie_latches (i : Nat) (p : Pcie) (s : State) : (setPcie i p s).latches = s.latches := rfl
@[simp] theorem setPcie_flash (i : Nat) (p : Pcie) (s : State) : (setPcie i p s).flash = s.flash := rfl
@[simp] theorem setPcie_clk (i : Nat) (p : Pcie) (s : State) : (setPcie i p s).clk = s.clk := rfl
@[simp] theorem setPcie_pw (i : Nat) (p : Pcie) (s : State) : (setPcie i p s).pw = s.pw := rfl
@[simp] theorem setPcie_fw (i : Nat) (p : Pcie) (s : State) : (setPcie i p s).fw = s.fw := rfl
@[simp] theorem setPcie_fab (i : Nat) (p : Pcie) (s : State) : (setPcie i p s).fab = s.fab := rfl
@[simp] theorem setPcie_tl (i : Nat) (p : Pcie) (s : State) : (setPcie i p s).tl = s.tl := rfl
@[simp] theorem setPcie_ci (i : Nat) (p : Pcie) (s : State) : (setPcie i p s).ci = s.ci := rfl
@[simp] theorem setPcie_pt (i : Nat) (p : Pcie) (s : State) : (setPcie i p s).pt = s.pt := rfl
@[simp] theorem setPcie_sy (i : Nat) (p : Pcie) (s : State) : (setPcie i p s).sy = s.sy := rfl
@[simp] theorem setPcie_st (i : Nat) (p : Pcie) (s : State) : (setPcie i p s).st = s.st := rfl
@[simp] theorem setPcie_alm (i : Nat) (p : Pcie) (s : State) : (setPcie i p s).alm = s.alm := rfl
@[simp] theorem setPcie_io_raster (i : Nat) (p : Pcie) (s : State) : (setPcie i p s).io.raster = s.io.raster := rfl
@[simp] theorem setPcie_io_rings (i : Nat) (p : Pcie) (s : State) : (setPcie i p s).io.rings = s.io.rings := rfl
@[simp] theorem setPcie_io_paths (i : Nat) (p : Pcie) (s : State) : (setPcie i p s).io.paths = s.io.paths := rfl
@[simp] theorem setPcie_io_can (i : Nat) (p : Pcie) (s : State) : (setPcie i p s).io.can = s.io.can := rfl
@[simp] theorem setPcie_io_lands (i : Nat) (p : Pcie) (s : State) : (setPcie i p s).io.lands = s.io.lands := rfl
@[simp] theorem setPcie_io_msixTable (i : Nat) (p : Pcie) (s : State) : (setPcie i p s).io.msixTable = s.io.msixTable := rfl
@[simp] theorem setPcie_now (i : Nat) (p : Pcie) (s : State) : (setPcie i p s).now = s.now := rfl

/-! ### setPart -/

@[simp] theorem setPart_pending (p : Nat) (x : Part) (s : State) : (setPart p x s).pending = s.pending := rfl
@[simp] theorem setPart_out (p : Nat) (x : Part) (s : State) : (setPart p x s).out = s.out := rfl
@[simp] theorem setPart_free (p : Nat) (x : Part) (s : State) : (setPart p x s).free = s.free := rfl
@[simp] theorem setPart_objs (p : Nat) (x : Part) (s : State) : (setPart p x s).objs = s.objs := rfl
@[simp] theorem setPart_latches (p : Nat) (x : Part) (s : State) : (setPart p x s).latches = s.latches := rfl
@[simp] theorem setPart_flash (p : Nat) (x : Part) (s : State) : (setPart p x s).flash = s.flash := rfl
@[simp] theorem setPart_clk (p : Nat) (x : Part) (s : State) : (setPart p x s).clk = s.clk := rfl
@[simp] theorem setPart_pw (p : Nat) (x : Part) (s : State) : (setPart p x s).pw = s.pw := rfl
@[simp] theorem setPart_fw (p : Nat) (x : Part) (s : State) : (setPart p x s).fw = s.fw := rfl
@[simp] theorem setPart_fab (p : Nat) (x : Part) (s : State) : (setPart p x s).fab = s.fab := rfl
@[simp] theorem setPart_tl (p : Nat) (x : Part) (s : State) : (setPart p x s).tl = s.tl := rfl
@[simp] theorem setPart_ci (p : Nat) (x : Part) (s : State) : (setPart p x s).ci = s.ci := rfl
@[simp] theorem setPart_sy (p : Nat) (x : Part) (s : State) : (setPart p x s).sy = s.sy := rfl
@[simp] theorem setPart_st (p : Nat) (x : Part) (s : State) : (setPart p x s).st = s.st := rfl
@[simp] theorem setPart_io (p : Nat) (x : Part) (s : State) : (setPart p x s).io = s.io := rfl
@[simp] theorem setPart_alm (p : Nat) (x : Part) (s : State) : (setPart p x s).alm = s.alm := rfl
@[simp] theorem setPart_pt_accts (p : Nat) (x : Part) (s : State) : (setPart p x s).pt.accts = s.pt.accts := rfl
@[simp] theorem setPart_pt_acctLatch (p : Nat) (x : Part) (s : State) : (setPart p x s).pt.acctLatch = s.pt.acctLatch := rfl
@[simp] theorem setPart_pt_perturbed (p : Nat) (x : Part) (s : State) : (setPart p x s).pt.perturbed = s.pt.perturbed := rfl
@[simp] theorem setPart_now (p : Nat) (x : Part) (s : State) : (setPart p x s).now = s.now := rfl

/-! ### setSeq -/

@[simp] theorem setSeq_pending (k : Nat) (x : Seq) (s : State) : (setSeq k x s).pending = s.pending := rfl
@[simp] theorem setSeq_out (k : Nat) (x : Seq) (s : State) : (setSeq k x s).out = s.out := rfl
@[simp] theorem setSeq_free (k : Nat) (x : Seq) (s : State) : (setSeq k x s).free = s.free := rfl
@[simp] theorem setSeq_objs (k : Nat) (x : Seq) (s : State) : (setSeq k x s).objs = s.objs := rfl
@[simp] theorem setSeq_latches (k : Nat) (x : Seq) (s : State) : (setSeq k x s).latches = s.latches := rfl
@[simp] theorem setSeq_flash (k : Nat) (x : Seq) (s : State) : (setSeq k x s).flash = s.flash := rfl
@[simp] theorem setSeq_clk (k : Nat) (x : Seq) (s : State) : (setSeq k x s).clk = s.clk := rfl
@[simp] theorem setSeq_pw (k : Nat) (x : Seq) (s : State) : (setSeq k x s).pw = s.pw := rfl
@[simp] theorem setSeq_fw (k : Nat) (x : Seq) (s : State) : (setSeq k x s).fw = s.fw := rfl
@[simp] theorem setSeq_fab (k : Nat) (x : Seq) (s : State) : (setSeq k x s).fab = s.fab := rfl
@[simp] theorem setSeq_tl (k : Nat) (x : Seq) (s : State) : (setSeq k x s).tl = s.tl := rfl
@[simp] theorem setSeq_ci (k : Nat) (x : Seq) (s : State) : (setSeq k x s).ci = s.ci := rfl
@[simp] theorem setSeq_pt (k : Nat) (x : Seq) (s : State) : (setSeq k x s).pt = s.pt := rfl
@[simp] theorem setSeq_sy (k : Nat) (x : Seq) (s : State) : (setSeq k x s).sy = s.sy := rfl
@[simp] theorem setSeq_io (k : Nat) (x : Seq) (s : State) : (setSeq k x s).io = s.io := rfl
@[simp] theorem setSeq_alm (k : Nat) (x : Seq) (s : State) : (setSeq k x s).alm = s.alm := rfl
@[simp] theorem setSeq_st_watched (k : Nat) (x : Seq) (s : State) : (setSeq k x s).st.watched = s.st.watched := rfl
@[simp] theorem setSeq_st_overlays (k : Nat) (x : Seq) (s : State) : (setSeq k x s).st.overlays = s.st.overlays := rfl
@[simp] theorem setSeq_st_audio (k : Nat) (x : Seq) (s : State) : (setSeq k x s).st.audio = s.st.audio := rfl
@[simp] theorem setSeq_st_fallback (k : Nat) (x : Seq) (s : State) : (setSeq k x s).st.fallback = s.st.fallback := rfl
@[simp] theorem setSeq_st_served (k : Nat) (x : Seq) (s : State) : (setSeq k x s).st.served = s.st.served := rfl
@[simp] theorem setSeq_now (k : Nat) (x : Seq) (s : State) : (setSeq k x s).now = s.now := rfl

/-! ### setPort -/

@[simp] theorem setPort_pending (p : Nat) (x : Port) (s : State) : (setPort p x s).pending = s.pending := rfl
@[simp] theorem setPort_out (p : Nat) (x : Port) (s : State) : (setPort p x s).out = s.out := rfl
@[simp] theorem setPort_free (p : Nat) (x : Port) (s : State) : (setPort p x s).free = s.free := rfl
@[simp] theorem setPort_objs (p : Nat) (x : Port) (s : State) : (setPort p x s).objs = s.objs := rfl
@[simp] theorem setPort_latches (p : Nat) (x : Port) (s : State) : (setPort p x s).latches = s.latches := rfl
@[simp] theorem setPort_flash (p : Nat) (x : Port) (s : State) : (setPort p x s).flash = s.flash := rfl
@[simp] theorem setPort_clk (p : Nat) (x : Port) (s : State) : (setPort p x s).clk = s.clk := rfl
@[simp] theorem setPort_pw (p : Nat) (x : Port) (s : State) : (setPort p x s).pw = s.pw := rfl
@[simp] theorem setPort_fw (p : Nat) (x : Port) (s : State) : (setPort p x s).fw = s.fw := rfl
@[simp] theorem setPort_fab (p : Nat) (x : Port) (s : State) : (setPort p x s).fab = s.fab := rfl
@[simp] theorem setPort_tl (p : Nat) (x : Port) (s : State) : (setPort p x s).tl = s.tl := rfl
@[simp] theorem setPort_ci (p : Nat) (x : Port) (s : State) : (setPort p x s).ci = s.ci := rfl
@[simp] theorem setPort_pt (p : Nat) (x : Port) (s : State) : (setPort p x s).pt = s.pt := rfl
@[simp] theorem setPort_sy (p : Nat) (x : Port) (s : State) : (setPort p x s).sy = s.sy := rfl
@[simp] theorem setPort_st (p : Nat) (x : Port) (s : State) : (setPort p x s).st = s.st := rfl
@[simp] theorem setPort_alm (p : Nat) (x : Port) (s : State) : (setPort p x s).alm = s.alm := rfl
@[simp] theorem setPort_io_rings (p : Nat) (x : Port) (s : State) : (setPort p x s).io.rings = s.io.rings := rfl
@[simp] theorem setPort_io_pcie (p : Nat) (x : Port) (s : State) : (setPort p x s).io.pcie = s.io.pcie := rfl
@[simp] theorem setPort_io_paths (p : Nat) (x : Port) (s : State) : (setPort p x s).io.paths = s.io.paths := rfl
@[simp] theorem setPort_io_can (p : Nat) (x : Port) (s : State) : (setPort p x s).io.can = s.io.can := rfl
@[simp] theorem setPort_io_lands (p : Nat) (x : Port) (s : State) : (setPort p x s).io.lands = s.io.lands := rfl
@[simp] theorem setPort_io_msixTable (p : Nat) (x : Port) (s : State) : (setPort p x s).io.msixTable = s.io.msixTable := rfl
@[simp] theorem setPort_now (p : Nat) (x : Port) (s : State) : (setPort p x s).now = s.now := rfl

/-! ### setRing -/

@[simp] theorem setRing_pending (r : Nat) (x : Ring) (s : State) : (setRing r x s).pending = s.pending := rfl
@[simp] theorem setRing_out (r : Nat) (x : Ring) (s : State) : (setRing r x s).out = s.out := rfl
@[simp] theorem setRing_free (r : Nat) (x : Ring) (s : State) : (setRing r x s).free = s.free := rfl
@[simp] theorem setRing_objs (r : Nat) (x : Ring) (s : State) : (setRing r x s).objs = s.objs := rfl
@[simp] theorem setRing_latches (r : Nat) (x : Ring) (s : State) : (setRing r x s).latches = s.latches := rfl
@[simp] theorem setRing_flash (r : Nat) (x : Ring) (s : State) : (setRing r x s).flash = s.flash := rfl
@[simp] theorem setRing_clk (r : Nat) (x : Ring) (s : State) : (setRing r x s).clk = s.clk := rfl
@[simp] theorem setRing_pw (r : Nat) (x : Ring) (s : State) : (setRing r x s).pw = s.pw := rfl
@[simp] theorem setRing_fw (r : Nat) (x : Ring) (s : State) : (setRing r x s).fw = s.fw := rfl
@[simp] theorem setRing_fab (r : Nat) (x : Ring) (s : State) : (setRing r x s).fab = s.fab := rfl
@[simp] theorem setRing_tl (r : Nat) (x : Ring) (s : State) : (setRing r x s).tl = s.tl := rfl
@[simp] theorem setRing_ci (r : Nat) (x : Ring) (s : State) : (setRing r x s).ci = s.ci := rfl
@[simp] theorem setRing_pt (r : Nat) (x : Ring) (s : State) : (setRing r x s).pt = s.pt := rfl
@[simp] theorem setRing_sy (r : Nat) (x : Ring) (s : State) : (setRing r x s).sy = s.sy := rfl
@[simp] theorem setRing_st (r : Nat) (x : Ring) (s : State) : (setRing r x s).st = s.st := rfl
@[simp] theorem setRing_alm (r : Nat) (x : Ring) (s : State) : (setRing r x s).alm = s.alm := rfl
@[simp] theorem setRing_io_raster (r : Nat) (x : Ring) (s : State) : (setRing r x s).io.raster = s.io.raster := rfl
@[simp] theorem setRing_io_pcie (r : Nat) (x : Ring) (s : State) : (setRing r x s).io.pcie = s.io.pcie := rfl
@[simp] theorem setRing_io_paths (r : Nat) (x : Ring) (s : State) : (setRing r x s).io.paths = s.io.paths := rfl
@[simp] theorem setRing_io_can (r : Nat) (x : Ring) (s : State) : (setRing r x s).io.can = s.io.can := rfl
@[simp] theorem setRing_io_lands (r : Nat) (x : Ring) (s : State) : (setRing r x s).io.lands = s.io.lands := rfl
@[simp] theorem setRing_io_msixTable (r : Nat) (x : Ring) (s : State) : (setRing r x s).io.msixTable = s.io.msixTable := rfl
@[simp] theorem setRing_now (r : Nat) (x : Ring) (s : State) : (setRing r x s).now = s.now := rfl

/-! ### setQueue -/

@[simp] theorem setQueue_pending (eng q : Nat) (x : Queue) (s : State) : (setQueue eng q x s).pending = s.pending := rfl
@[simp] theorem setQueue_out (eng q : Nat) (x : Queue) (s : State) : (setQueue eng q x s).out = s.out := rfl
@[simp] theorem setQueue_free (eng q : Nat) (x : Queue) (s : State) : (setQueue eng q x s).free = s.free := rfl
@[simp] theorem setQueue_objs (eng q : Nat) (x : Queue) (s : State) : (setQueue eng q x s).objs = s.objs := rfl
@[simp] theorem setQueue_latches (eng q : Nat) (x : Queue) (s : State) : (setQueue eng q x s).latches = s.latches := rfl
@[simp] theorem setQueue_flash (eng q : Nat) (x : Queue) (s : State) : (setQueue eng q x s).flash = s.flash := rfl
@[simp] theorem setQueue_clk (eng q : Nat) (x : Queue) (s : State) : (setQueue eng q x s).clk = s.clk := rfl
@[simp] theorem setQueue_pw (eng q : Nat) (x : Queue) (s : State) : (setQueue eng q x s).pw = s.pw := rfl
@[simp] theorem setQueue_fw (eng q : Nat) (x : Queue) (s : State) : (setQueue eng q x s).fw = s.fw := rfl
@[simp] theorem setQueue_fab (eng q : Nat) (x : Queue) (s : State) : (setQueue eng q x s).fab = s.fab := rfl
@[simp] theorem setQueue_ci (eng q : Nat) (x : Queue) (s : State) : (setQueue eng q x s).ci = s.ci := rfl
@[simp] theorem setQueue_pt (eng q : Nat) (x : Queue) (s : State) : (setQueue eng q x s).pt = s.pt := rfl
@[simp] theorem setQueue_sy (eng q : Nat) (x : Queue) (s : State) : (setQueue eng q x s).sy = s.sy := rfl
@[simp] theorem setQueue_st (eng q : Nat) (x : Queue) (s : State) : (setQueue eng q x s).st = s.st := rfl
@[simp] theorem setQueue_io (eng q : Nat) (x : Queue) (s : State) : (setQueue eng q x s).io = s.io := rfl
@[simp] theorem setQueue_alm (eng q : Nat) (x : Queue) (s : State) : (setQueue eng q x s).alm = s.alm := rfl
@[simp] theorem setQueue_tl_slots (eng q : Nat) (x : Queue) (s : State) : (setQueue eng q x s).tl.slots = s.tl.slots := rfl
@[simp] theorem setQueue_tl_units (eng q : Nat) (x : Queue) (s : State) : (setQueue eng q x s).tl.units = s.tl.units := rfl
@[simp] theorem setQueue_tl_pageMap (eng q : Nat) (x : Queue) (s : State) : (setQueue eng q x s).tl.pageMap = s.tl.pageMap := rfl
@[simp] theorem setQueue_tl_frames (eng q : Nat) (x : Queue) (s : State) : (setQueue eng q x s).tl.frames = s.tl.frames := rfl
@[simp] theorem setQueue_tl_turns (eng q : Nat) (x : Queue) (s : State) : (setQueue eng q x s).tl.turns = s.tl.turns := rfl
@[simp] theorem setQueue_tl_loads (eng q : Nat) (x : Queue) (s : State) : (setQueue eng q x s).tl.loads = s.tl.loads := rfl
@[simp] theorem setQueue_now (eng q : Nat) (x : Queue) (s : State) : (setQueue eng q x s).now = s.now := rfl

/-! ### setSlot -/

@[simp] theorem setSlot_pending (eng q sl : Nat) (x : Slot) (s : State) : (setSlot eng q sl x s).pending = s.pending := rfl
@[simp] theorem setSlot_out (eng q sl : Nat) (x : Slot) (s : State) : (setSlot eng q sl x s).out = s.out := rfl
@[simp] theorem setSlot_free (eng q sl : Nat) (x : Slot) (s : State) : (setSlot eng q sl x s).free = s.free := rfl
@[simp] theorem setSlot_objs (eng q sl : Nat) (x : Slot) (s : State) : (setSlot eng q sl x s).objs = s.objs := rfl
@[simp] theorem setSlot_latches (eng q sl : Nat) (x : Slot) (s : State) : (setSlot eng q sl x s).latches = s.latches := rfl
@[simp] theorem setSlot_flash (eng q sl : Nat) (x : Slot) (s : State) : (setSlot eng q sl x s).flash = s.flash := rfl
@[simp] theorem setSlot_clk (eng q sl : Nat) (x : Slot) (s : State) : (setSlot eng q sl x s).clk = s.clk := rfl
@[simp] theorem setSlot_pw (eng q sl : Nat) (x : Slot) (s : State) : (setSlot eng q sl x s).pw = s.pw := rfl
@[simp] theorem setSlot_fw (eng q sl : Nat) (x : Slot) (s : State) : (setSlot eng q sl x s).fw = s.fw := rfl
@[simp] theorem setSlot_fab (eng q sl : Nat) (x : Slot) (s : State) : (setSlot eng q sl x s).fab = s.fab := rfl
@[simp] theorem setSlot_ci (eng q sl : Nat) (x : Slot) (s : State) : (setSlot eng q sl x s).ci = s.ci := rfl
@[simp] theorem setSlot_pt (eng q sl : Nat) (x : Slot) (s : State) : (setSlot eng q sl x s).pt = s.pt := rfl
@[simp] theorem setSlot_sy (eng q sl : Nat) (x : Slot) (s : State) : (setSlot eng q sl x s).sy = s.sy := rfl
@[simp] theorem setSlot_st (eng q sl : Nat) (x : Slot) (s : State) : (setSlot eng q sl x s).st = s.st := rfl
@[simp] theorem setSlot_io (eng q sl : Nat) (x : Slot) (s : State) : (setSlot eng q sl x s).io = s.io := rfl
@[simp] theorem setSlot_alm (eng q sl : Nat) (x : Slot) (s : State) : (setSlot eng q sl x s).alm = s.alm := rfl
@[simp] theorem setSlot_tl_queues (eng q sl : Nat) (x : Slot) (s : State) : (setSlot eng q sl x s).tl.queues = s.tl.queues := rfl
@[simp] theorem setSlot_tl_units (eng q sl : Nat) (x : Slot) (s : State) : (setSlot eng q sl x s).tl.units = s.tl.units := rfl
@[simp] theorem setSlot_tl_pageMap (eng q sl : Nat) (x : Slot) (s : State) : (setSlot eng q sl x s).tl.pageMap = s.tl.pageMap := rfl
@[simp] theorem setSlot_tl_frames (eng q sl : Nat) (x : Slot) (s : State) : (setSlot eng q sl x s).tl.frames = s.tl.frames := rfl
@[simp] theorem setSlot_tl_turns (eng q sl : Nat) (x : Slot) (s : State) : (setSlot eng q sl x s).tl.turns = s.tl.turns := rfl
@[simp] theorem setSlot_tl_loads (eng q sl : Nat) (x : Slot) (s : State) : (setSlot eng q sl x s).tl.loads = s.tl.loads := rfl
@[simp] theorem setSlot_now (eng q sl : Nat) (x : Slot) (s : State) : (setSlot eng q sl x s).now = s.now := rfl

/-! ### setFrame -/

@[simp] theorem setFrame_pending (k : Nat) (f : Frame) (s : State) : (setFrame k f s).pending = s.pending := rfl
@[simp] theorem setFrame_out (k : Nat) (f : Frame) (s : State) : (setFrame k f s).out = s.out := rfl
@[simp] theorem setFrame_free (k : Nat) (f : Frame) (s : State) : (setFrame k f s).free = s.free := rfl
@[simp] theorem setFrame_objs (k : Nat) (f : Frame) (s : State) : (setFrame k f s).objs = s.objs := rfl
@[simp] theorem setFrame_latches (k : Nat) (f : Frame) (s : State) : (setFrame k f s).latches = s.latches := rfl
@[simp] theorem setFrame_flash (k : Nat) (f : Frame) (s : State) : (setFrame k f s).flash = s.flash := rfl
@[simp] theorem setFrame_clk (k : Nat) (f : Frame) (s : State) : (setFrame k f s).clk = s.clk := rfl
@[simp] theorem setFrame_pw (k : Nat) (f : Frame) (s : State) : (setFrame k f s).pw = s.pw := rfl
@[simp] theorem setFrame_fw (k : Nat) (f : Frame) (s : State) : (setFrame k f s).fw = s.fw := rfl
@[simp] theorem setFrame_fab (k : Nat) (f : Frame) (s : State) : (setFrame k f s).fab = s.fab := rfl
@[simp] theorem setFrame_ci (k : Nat) (f : Frame) (s : State) : (setFrame k f s).ci = s.ci := rfl
@[simp] theorem setFrame_pt (k : Nat) (f : Frame) (s : State) : (setFrame k f s).pt = s.pt := rfl
@[simp] theorem setFrame_sy (k : Nat) (f : Frame) (s : State) : (setFrame k f s).sy = s.sy := rfl
@[simp] theorem setFrame_st (k : Nat) (f : Frame) (s : State) : (setFrame k f s).st = s.st := rfl
@[simp] theorem setFrame_io (k : Nat) (f : Frame) (s : State) : (setFrame k f s).io = s.io := rfl
@[simp] theorem setFrame_alm (k : Nat) (f : Frame) (s : State) : (setFrame k f s).alm = s.alm := rfl
@[simp] theorem setFrame_tl_queues (k : Nat) (f : Frame) (s : State) : (setFrame k f s).tl.queues = s.tl.queues := rfl
@[simp] theorem setFrame_tl_slots (k : Nat) (f : Frame) (s : State) : (setFrame k f s).tl.slots = s.tl.slots := rfl
@[simp] theorem setFrame_tl_units (k : Nat) (f : Frame) (s : State) : (setFrame k f s).tl.units = s.tl.units := rfl
@[simp] theorem setFrame_tl_pageMap (k : Nat) (f : Frame) (s : State) : (setFrame k f s).tl.pageMap = s.tl.pageMap := rfl
@[simp] theorem setFrame_tl_turns (k : Nat) (f : Frame) (s : State) : (setFrame k f s).tl.turns = s.tl.turns := rfl
@[simp] theorem setFrame_tl_loads (k : Nat) (f : Frame) (s : State) : (setFrame k f s).tl.loads = s.tl.loads := rfl
@[simp] theorem setFrame_now (k : Nat) (f : Frame) (s : State) : (setFrame k f s).now = s.now := rfl

/-! ### setPageMap -/

@[simp] theorem setPageMap_pending (tile lp v : Nat) (s : State) : (setPageMap tile lp v s).pending = s.pending := rfl
@[simp] theorem setPageMap_out (tile lp v : Nat) (s : State) : (setPageMap tile lp v s).out = s.out := rfl
@[simp] theorem setPageMap_free (tile lp v : Nat) (s : State) : (setPageMap tile lp v s).free = s.free := rfl
@[simp] theorem setPageMap_objs (tile lp v : Nat) (s : State) : (setPageMap tile lp v s).objs = s.objs := rfl
@[simp] theorem setPageMap_latches (tile lp v : Nat) (s : State) : (setPageMap tile lp v s).latches = s.latches := rfl
@[simp] theorem setPageMap_flash (tile lp v : Nat) (s : State) : (setPageMap tile lp v s).flash = s.flash := rfl
@[simp] theorem setPageMap_clk (tile lp v : Nat) (s : State) : (setPageMap tile lp v s).clk = s.clk := rfl
@[simp] theorem setPageMap_pw (tile lp v : Nat) (s : State) : (setPageMap tile lp v s).pw = s.pw := rfl
@[simp] theorem setPageMap_fw (tile lp v : Nat) (s : State) : (setPageMap tile lp v s).fw = s.fw := rfl
@[simp] theorem setPageMap_fab (tile lp v : Nat) (s : State) : (setPageMap tile lp v s).fab = s.fab := rfl
@[simp] theorem setPageMap_ci (tile lp v : Nat) (s : State) : (setPageMap tile lp v s).ci = s.ci := rfl
@[simp] theorem setPageMap_pt (tile lp v : Nat) (s : State) : (setPageMap tile lp v s).pt = s.pt := rfl
@[simp] theorem setPageMap_sy (tile lp v : Nat) (s : State) : (setPageMap tile lp v s).sy = s.sy := rfl
@[simp] theorem setPageMap_st (tile lp v : Nat) (s : State) : (setPageMap tile lp v s).st = s.st := rfl
@[simp] theorem setPageMap_io (tile lp v : Nat) (s : State) : (setPageMap tile lp v s).io = s.io := rfl
@[simp] theorem setPageMap_alm (tile lp v : Nat) (s : State) : (setPageMap tile lp v s).alm = s.alm := rfl
@[simp] theorem setPageMap_tl_queues (tile lp v : Nat) (s : State) : (setPageMap tile lp v s).tl.queues = s.tl.queues := rfl
@[simp] theorem setPageMap_tl_slots (tile lp v : Nat) (s : State) : (setPageMap tile lp v s).tl.slots = s.tl.slots := rfl
@[simp] theorem setPageMap_tl_units (tile lp v : Nat) (s : State) : (setPageMap tile lp v s).tl.units = s.tl.units := rfl
@[simp] theorem setPageMap_tl_frames (tile lp v : Nat) (s : State) : (setPageMap tile lp v s).tl.frames = s.tl.frames := rfl
@[simp] theorem setPageMap_tl_turns (tile lp v : Nat) (s : State) : (setPageMap tile lp v s).tl.turns = s.tl.turns := rfl
@[simp] theorem setPageMap_tl_loads (tile lp v : Nat) (s : State) : (setPageMap tile lp v s).tl.loads = s.tl.loads := rfl
@[simp] theorem setPageMap_now (tile lp v : Nat) (s : State) : (setPageMap tile lp v s).now = s.now := rfl

/-! ### setOverlay -/

@[simp] theorem setOverlay_pending (k : Nat) (x : Overlay) (s : State) : (setOverlay k x s).pending = s.pending := rfl
@[simp] theorem setOverlay_out (k : Nat) (x : Overlay) (s : State) : (setOverlay k x s).out = s.out := rfl
@[simp] theorem setOverlay_free (k : Nat) (x : Overlay) (s : State) : (setOverlay k x s).free = s.free := rfl
@[simp] theorem setOverlay_objs (k : Nat) (x : Overlay) (s : State) : (setOverlay k x s).objs = s.objs := rfl
@[simp] theorem setOverlay_latches (k : Nat) (x : Overlay) (s : State) : (setOverlay k x s).latches = s.latches := rfl
@[simp] theorem setOverlay_flash (k : Nat) (x : Overlay) (s : State) : (setOverlay k x s).flash = s.flash := rfl
@[simp] theorem setOverlay_clk (k : Nat) (x : Overlay) (s : State) : (setOverlay k x s).clk = s.clk := rfl
@[simp] theorem setOverlay_pw (k : Nat) (x : Overlay) (s : State) : (setOverlay k x s).pw = s.pw := rfl
@[simp] theorem setOverlay_fw (k : Nat) (x : Overlay) (s : State) : (setOverlay k x s).fw = s.fw := rfl
@[simp] theorem setOverlay_fab (k : Nat) (x : Overlay) (s : State) : (setOverlay k x s).fab = s.fab := rfl
@[simp] theorem setOverlay_tl (k : Nat) (x : Overlay) (s : State) : (setOverlay k x s).tl = s.tl := rfl
@[simp] theorem setOverlay_ci (k : Nat) (x : Overlay) (s : State) : (setOverlay k x s).ci = s.ci := rfl
@[simp] theorem setOverlay_pt (k : Nat) (x : Overlay) (s : State) : (setOverlay k x s).pt = s.pt := rfl
@[simp] theorem setOverlay_sy (k : Nat) (x : Overlay) (s : State) : (setOverlay k x s).sy = s.sy := rfl
@[simp] theorem setOverlay_io (k : Nat) (x : Overlay) (s : State) : (setOverlay k x s).io = s.io := rfl
@[simp] theorem setOverlay_alm (k : Nat) (x : Overlay) (s : State) : (setOverlay k x s).alm = s.alm := rfl
@[simp] theorem setOverlay_st_seqs (k : Nat) (x : Overlay) (s : State) : (setOverlay k x s).st.seqs = s.st.seqs := rfl
@[simp] theorem setOverlay_st_watched (k : Nat) (x : Overlay) (s : State) : (setOverlay k x s).st.watched = s.st.watched := rfl
@[simp] theorem setOverlay_st_audio (k : Nat) (x : Overlay) (s : State) : (setOverlay k x s).st.audio = s.st.audio := rfl
@[simp] theorem setOverlay_st_fallback (k : Nat) (x : Overlay) (s : State) : (setOverlay k x s).st.fallback = s.st.fallback := rfl
@[simp] theorem setOverlay_st_served (k : Nat) (x : Overlay) (s : State) : (setOverlay k x s).st.served = s.st.served := rfl
@[simp] theorem setOverlay_now (k : Nat) (x : Overlay) (s : State) : (setOverlay k x s).now = s.now := rfl

/-! ### setSyncCount -/

@[simp] theorem setSyncCount_pending (i v : Nat) (s : State) : (setSyncCount i v s).pending = s.pending := rfl
@[simp] theorem setSyncCount_out (i v : Nat) (s : State) : (setSyncCount i v s).out = s.out := rfl
@[simp] theorem setSyncCount_free (i v : Nat) (s : State) : (setSyncCount i v s).free = s.free := rfl
@[simp] theorem setSyncCount_objs (i v : Nat) (s : State) : (setSyncCount i v s).objs = s.objs := rfl
@[simp] theorem setSyncCount_latches (i v : Nat) (s : State) : (setSyncCount i v s).latches = s.latches := rfl
@[simp] theorem setSyncCount_flash (i v : Nat) (s : State) : (setSyncCount i v s).flash = s.flash := rfl
@[simp] theorem setSyncCount_clk (i v : Nat) (s : State) : (setSyncCount i v s).clk = s.clk := rfl
@[simp] theorem setSyncCount_pw (i v : Nat) (s : State) : (setSyncCount i v s).pw = s.pw := rfl
@[simp] theorem setSyncCount_fw (i v : Nat) (s : State) : (setSyncCount i v s).fw = s.fw := rfl
@[simp] theorem setSyncCount_fab (i v : Nat) (s : State) : (setSyncCount i v s).fab = s.fab := rfl
@[simp] theorem setSyncCount_tl (i v : Nat) (s : State) : (setSyncCount i v s).tl = s.tl := rfl
@[simp] theorem setSyncCount_ci (i v : Nat) (s : State) : (setSyncCount i v s).ci = s.ci := rfl
@[simp] theorem setSyncCount_pt (i v : Nat) (s : State) : (setSyncCount i v s).pt = s.pt := rfl
@[simp] theorem setSyncCount_st (i v : Nat) (s : State) : (setSyncCount i v s).st = s.st := rfl
@[simp] theorem setSyncCount_io (i v : Nat) (s : State) : (setSyncCount i v s).io = s.io := rfl
@[simp] theorem setSyncCount_alm (i v : Nat) (s : State) : (setSyncCount i v s).alm = s.alm := rfl
@[simp] theorem setSyncCount_sy_banks (i v : Nat) (s : State) : (setSyncCount i v s).sy.banks = s.sy.banks := rfl
@[simp] theorem setSyncCount_sy_fill (i v : Nat) (s : State) : (setSyncCount i v s).sy.fill = s.sy.fill := rfl
@[simp] theorem setSyncCount_sy_hostArmed (i v : Nat) (s : State) : (setSyncCount i v s).sy.hostArmed = s.sy.hostArmed := rfl
@[simp] theorem setSyncCount_sy_held (i v : Nat) (s : State) : (setSyncCount i v s).sy.held = s.sy.held := rfl
@[simp] theorem setSyncCount_sy_notices (i v : Nat) (s : State) : (setSyncCount i v s).sy.notices = s.sy.notices := rfl
@[simp] theorem setSyncCount_sy_parked (i v : Nat) (s : State) : (setSyncCount i v s).sy.parked = s.sy.parked := rfl
@[simp] theorem setSyncCount_now (i v : Nat) (s : State) : (setSyncCount i v s).now = s.now := rfl

/-! ### setBank -/

@[simp] theorem setBank_pending (b : Nat) (x : Bank) (s : State) : (setBank b x s).pending = s.pending := rfl
@[simp] theorem setBank_out (b : Nat) (x : Bank) (s : State) : (setBank b x s).out = s.out := rfl
@[simp] theorem setBank_free (b : Nat) (x : Bank) (s : State) : (setBank b x s).free = s.free := rfl
@[simp] theorem setBank_objs (b : Nat) (x : Bank) (s : State) : (setBank b x s).objs = s.objs := rfl
@[simp] theorem setBank_latches (b : Nat) (x : Bank) (s : State) : (setBank b x s).latches = s.latches := rfl
@[simp] theorem setBank_flash (b : Nat) (x : Bank) (s : State) : (setBank b x s).flash = s.flash := rfl
@[simp] theorem setBank_clk (b : Nat) (x : Bank) (s : State) : (setBank b x s).clk = s.clk := rfl
@[simp] theorem setBank_pw (b : Nat) (x : Bank) (s : State) : (setBank b x s).pw = s.pw := rfl
@[simp] theorem setBank_fw (b : Nat) (x : Bank) (s : State) : (setBank b x s).fw = s.fw := rfl
@[simp] theorem setBank_fab (b : Nat) (x : Bank) (s : State) : (setBank b x s).fab = s.fab := rfl
@[simp] theorem setBank_tl (b : Nat) (x : Bank) (s : State) : (setBank b x s).tl = s.tl := rfl
@[simp] theorem setBank_ci (b : Nat) (x : Bank) (s : State) : (setBank b x s).ci = s.ci := rfl
@[simp] theorem setBank_pt (b : Nat) (x : Bank) (s : State) : (setBank b x s).pt = s.pt := rfl
@[simp] theorem setBank_st (b : Nat) (x : Bank) (s : State) : (setBank b x s).st = s.st := rfl
@[simp] theorem setBank_io (b : Nat) (x : Bank) (s : State) : (setBank b x s).io = s.io := rfl
@[simp] theorem setBank_alm (b : Nat) (x : Bank) (s : State) : (setBank b x s).alm = s.alm := rfl
@[simp] theorem setBank_sy_counts (b : Nat) (x : Bank) (s : State) : (setBank b x s).sy.counts = s.sy.counts := rfl
@[simp] theorem setBank_sy_fill (b : Nat) (x : Bank) (s : State) : (setBank b x s).sy.fill = s.sy.fill := rfl
@[simp] theorem setBank_sy_hostArmed (b : Nat) (x : Bank) (s : State) : (setBank b x s).sy.hostArmed = s.sy.hostArmed := rfl
@[simp] theorem setBank_sy_held (b : Nat) (x : Bank) (s : State) : (setBank b x s).sy.held = s.sy.held := rfl
@[simp] theorem setBank_sy_notices (b : Nat) (x : Bank) (s : State) : (setBank b x s).sy.notices = s.sy.notices := rfl
@[simp] theorem setBank_sy_parked (b : Nat) (x : Bank) (s : State) : (setBank b x s).sy.parked = s.sy.parked := rfl
@[simp] theorem setBank_now (b : Nat) (x : Bank) (s : State) : (setBank b x s).now = s.now := rfl

/-! ### setAcct -/

@[simp] theorem setAcct_pending (k : Nat) (a : Acct) (s : State) : (setAcct k a s).pending = s.pending := rfl
@[simp] theorem setAcct_out (k : Nat) (a : Acct) (s : State) : (setAcct k a s).out = s.out := rfl
@[simp] theorem setAcct_free (k : Nat) (a : Acct) (s : State) : (setAcct k a s).free = s.free := rfl
@[simp] theorem setAcct_objs (k : Nat) (a : Acct) (s : State) : (setAcct k a s).objs = s.objs := rfl
@[simp] theorem setAcct_latches (k : Nat) (a : Acct) (s : State) : (setAcct k a s).latches = s.latches := rfl
@[simp] theorem setAcct_flash (k : Nat) (a : Acct) (s : State) : (setAcct k a s).flash = s.flash := rfl
@[simp] theorem setAcct_clk (k : Nat) (a : Acct) (s : State) : (setAcct k a s).clk = s.clk := rfl
@[simp] theorem setAcct_pw (k : Nat) (a : Acct) (s : State) : (setAcct k a s).pw = s.pw := rfl
@[simp] theorem setAcct_fw (k : Nat) (a : Acct) (s : State) : (setAcct k a s).fw = s.fw := rfl
@[simp] theorem setAcct_fab (k : Nat) (a : Acct) (s : State) : (setAcct k a s).fab = s.fab := rfl
@[simp] theorem setAcct_tl (k : Nat) (a : Acct) (s : State) : (setAcct k a s).tl = s.tl := rfl
@[simp] theorem setAcct_ci (k : Nat) (a : Acct) (s : State) : (setAcct k a s).ci = s.ci := rfl
@[simp] theorem setAcct_sy (k : Nat) (a : Acct) (s : State) : (setAcct k a s).sy = s.sy := rfl
@[simp] theorem setAcct_st (k : Nat) (a : Acct) (s : State) : (setAcct k a s).st = s.st := rfl
@[simp] theorem setAcct_io (k : Nat) (a : Acct) (s : State) : (setAcct k a s).io = s.io := rfl
@[simp] theorem setAcct_alm (k : Nat) (a : Acct) (s : State) : (setAcct k a s).alm = s.alm := rfl
@[simp] theorem setAcct_pt_parts (k : Nat) (a : Acct) (s : State) : (setAcct k a s).pt.parts = s.pt.parts := rfl
@[simp] theorem setAcct_pt_acctLatch (k : Nat) (a : Acct) (s : State) : (setAcct k a s).pt.acctLatch = s.pt.acctLatch := rfl
@[simp] theorem setAcct_pt_perturbed (k : Nat) (a : Acct) (s : State) : (setAcct k a s).pt.perturbed = s.pt.perturbed := rfl
@[simp] theorem setAcct_now (k : Nat) (a : Acct) (s : State) : (setAcct k a s).now = s.now := rfl

/-! ### setUnit -/

@[simp] theorem setUnit_pending (u v : Nat) (s : State) : (setUnit u v s).pending = s.pending := rfl
@[simp] theorem setUnit_out (u v : Nat) (s : State) : (setUnit u v s).out = s.out := rfl
@[simp] theorem setUnit_free (u v : Nat) (s : State) : (setUnit u v s).free = s.free := rfl
@[simp] theorem setUnit_objs (u v : Nat) (s : State) : (setUnit u v s).objs = s.objs := rfl
@[simp] theorem setUnit_latches (u v : Nat) (s : State) : (setUnit u v s).latches = s.latches := rfl
@[simp] theorem setUnit_flash (u v : Nat) (s : State) : (setUnit u v s).flash = s.flash := rfl
@[simp] theorem setUnit_clk (u v : Nat) (s : State) : (setUnit u v s).clk = s.clk := rfl
@[simp] theorem setUnit_pw (u v : Nat) (s : State) : (setUnit u v s).pw = s.pw := rfl
@[simp] theorem setUnit_fw (u v : Nat) (s : State) : (setUnit u v s).fw = s.fw := rfl
@[simp] theorem setUnit_fab (u v : Nat) (s : State) : (setUnit u v s).fab = s.fab := rfl
@[simp] theorem setUnit_ci (u v : Nat) (s : State) : (setUnit u v s).ci = s.ci := rfl
@[simp] theorem setUnit_pt (u v : Nat) (s : State) : (setUnit u v s).pt = s.pt := rfl
@[simp] theorem setUnit_sy (u v : Nat) (s : State) : (setUnit u v s).sy = s.sy := rfl
@[simp] theorem setUnit_st (u v : Nat) (s : State) : (setUnit u v s).st = s.st := rfl
@[simp] theorem setUnit_io (u v : Nat) (s : State) : (setUnit u v s).io = s.io := rfl
@[simp] theorem setUnit_alm (u v : Nat) (s : State) : (setUnit u v s).alm = s.alm := rfl
@[simp] theorem setUnit_tl_queues (u v : Nat) (s : State) : (setUnit u v s).tl.queues = s.tl.queues := rfl
@[simp] theorem setUnit_tl_slots (u v : Nat) (s : State) : (setUnit u v s).tl.slots = s.tl.slots := rfl
@[simp] theorem setUnit_tl_pageMap (u v : Nat) (s : State) : (setUnit u v s).tl.pageMap = s.tl.pageMap := rfl
@[simp] theorem setUnit_tl_frames (u v : Nat) (s : State) : (setUnit u v s).tl.frames = s.tl.frames := rfl
@[simp] theorem setUnit_tl_turns (u v : Nat) (s : State) : (setUnit u v s).tl.turns = s.tl.turns := rfl
@[simp] theorem setUnit_tl_loads (u v : Nat) (s : State) : (setUnit u v s).tl.loads = s.tl.loads := rfl
@[simp] theorem setUnit_now (u v : Nat) (s : State) : (setUnit u v s).now = s.now := rfl

/-! ### setAudio -/

@[simp] theorem setAudio_pending (k : Nat) (x : Audio) (s : State) : (setAudio k x s).pending = s.pending := rfl
@[simp] theorem setAudio_out (k : Nat) (x : Audio) (s : State) : (setAudio k x s).out = s.out := rfl
@[simp] theorem setAudio_free (k : Nat) (x : Audio) (s : State) : (setAudio k x s).free = s.free := rfl
@[simp] theorem setAudio_objs (k : Nat) (x : Audio) (s : State) : (setAudio k x s).objs = s.objs := rfl
@[simp] theorem setAudio_latches (k : Nat) (x : Audio) (s : State) : (setAudio k x s).latches = s.latches := rfl
@[simp] theorem setAudio_flash (k : Nat) (x : Audio) (s : State) : (setAudio k x s).flash = s.flash := rfl
@[simp] theorem setAudio_clk (k : Nat) (x : Audio) (s : State) : (setAudio k x s).clk = s.clk := rfl
@[simp] theorem setAudio_pw (k : Nat) (x : Audio) (s : State) : (setAudio k x s).pw = s.pw := rfl
@[simp] theorem setAudio_fw (k : Nat) (x : Audio) (s : State) : (setAudio k x s).fw = s.fw := rfl
@[simp] theorem setAudio_fab (k : Nat) (x : Audio) (s : State) : (setAudio k x s).fab = s.fab := rfl
@[simp] theorem setAudio_tl (k : Nat) (x : Audio) (s : State) : (setAudio k x s).tl = s.tl := rfl
@[simp] theorem setAudio_ci (k : Nat) (x : Audio) (s : State) : (setAudio k x s).ci = s.ci := rfl
@[simp] theorem setAudio_pt (k : Nat) (x : Audio) (s : State) : (setAudio k x s).pt = s.pt := rfl
@[simp] theorem setAudio_sy (k : Nat) (x : Audio) (s : State) : (setAudio k x s).sy = s.sy := rfl
@[simp] theorem setAudio_io (k : Nat) (x : Audio) (s : State) : (setAudio k x s).io = s.io := rfl
@[simp] theorem setAudio_alm (k : Nat) (x : Audio) (s : State) : (setAudio k x s).alm = s.alm := rfl
@[simp] theorem setAudio_st_seqs (k : Nat) (x : Audio) (s : State) : (setAudio k x s).st.seqs = s.st.seqs := rfl
@[simp] theorem setAudio_st_watched (k : Nat) (x : Audio) (s : State) : (setAudio k x s).st.watched = s.st.watched := rfl
@[simp] theorem setAudio_st_overlays (k : Nat) (x : Audio) (s : State) : (setAudio k x s).st.overlays = s.st.overlays := rfl
@[simp] theorem setAudio_st_fallback (k : Nat) (x : Audio) (s : State) : (setAudio k x s).st.fallback = s.st.fallback := rfl
@[simp] theorem setAudio_st_served (k : Nat) (x : Audio) (s : State) : (setAudio k x s).st.served = s.st.served := rfl
@[simp] theorem setAudio_now (k : Nat) (x : Audio) (s : State) : (setAudio k x s).now = s.now := rfl

/-! ### setPath -/

@[simp] theorem setPath_pending (j : Nat) (x : Path) (s : State) : (setPath j x s).pending = s.pending := rfl
@[simp] theorem setPath_out (j : Nat) (x : Path) (s : State) : (setPath j x s).out = s.out := rfl
@[simp] theorem setPath_free (j : Nat) (x : Path) (s : State) : (setPath j x s).free = s.free := rfl
@[simp] theorem setPath_objs (j : Nat) (x : Path) (s : State) : (setPath j x s).objs = s.objs := rfl
@[simp] theorem setPath_latches (j : Nat) (x : Path) (s : State) : (setPath j x s).latches = s.latches := rfl
@[simp] theorem setPath_flash (j : Nat) (x : Path) (s : State) : (setPath j x s).flash = s.flash := rfl
@[simp] theorem setPath_clk (j : Nat) (x : Path) (s : State) : (setPath j x s).clk = s.clk := rfl
@[simp] theorem setPath_pw (j : Nat) (x : Path) (s : State) : (setPath j x s).pw = s.pw := rfl
@[simp] theorem setPath_fw (j : Nat) (x : Path) (s : State) : (setPath j x s).fw = s.fw := rfl
@[simp] theorem setPath_fab (j : Nat) (x : Path) (s : State) : (setPath j x s).fab = s.fab := rfl
@[simp] theorem setPath_tl (j : Nat) (x : Path) (s : State) : (setPath j x s).tl = s.tl := rfl
@[simp] theorem setPath_ci (j : Nat) (x : Path) (s : State) : (setPath j x s).ci = s.ci := rfl
@[simp] theorem setPath_pt (j : Nat) (x : Path) (s : State) : (setPath j x s).pt = s.pt := rfl
@[simp] theorem setPath_sy (j : Nat) (x : Path) (s : State) : (setPath j x s).sy = s.sy := rfl
@[simp] theorem setPath_st (j : Nat) (x : Path) (s : State) : (setPath j x s).st = s.st := rfl
@[simp] theorem setPath_alm (j : Nat) (x : Path) (s : State) : (setPath j x s).alm = s.alm := rfl
@[simp] theorem setPath_io_raster (j : Nat) (x : Path) (s : State) : (setPath j x s).io.raster = s.io.raster := rfl
@[simp] theorem setPath_io_rings (j : Nat) (x : Path) (s : State) : (setPath j x s).io.rings = s.io.rings := rfl
@[simp] theorem setPath_io_pcie (j : Nat) (x : Path) (s : State) : (setPath j x s).io.pcie = s.io.pcie := rfl
@[simp] theorem setPath_io_can (j : Nat) (x : Path) (s : State) : (setPath j x s).io.can = s.io.can := rfl
@[simp] theorem setPath_io_lands (j : Nat) (x : Path) (s : State) : (setPath j x s).io.lands = s.io.lands := rfl
@[simp] theorem setPath_io_msixTable (j : Nat) (x : Path) (s : State) : (setPath j x s).io.msixTable = s.io.msixTable := rfl
@[simp] theorem setPath_now (j : Nat) (x : Path) (s : State) : (setPath j x s).now = s.now := rfl

/-! ### State.enqueueFront -/

@[simp] theorem State.enqueueFront_out (s : State) (c : Instr) : (s.enqueueFront c).out = s.out := rfl
@[simp] theorem State.enqueueFront_now (s : State) (c : Instr) : (s.enqueueFront c).now = s.now := rfl
@[simp] theorem State.enqueueFront_free (s : State) (c : Instr) : (s.enqueueFront c).free = s.free := rfl
@[simp] theorem State.enqueueFront_objs (s : State) (c : Instr) : (s.enqueueFront c).objs = s.objs := rfl
@[simp] theorem State.enqueueFront_latches (s : State) (c : Instr) : (s.enqueueFront c).latches = s.latches := rfl
@[simp] theorem State.enqueueFront_flash (s : State) (c : Instr) : (s.enqueueFront c).flash = s.flash := rfl
@[simp] theorem State.enqueueFront_clk (s : State) (c : Instr) : (s.enqueueFront c).clk = s.clk := rfl
@[simp] theorem State.enqueueFront_pw (s : State) (c : Instr) : (s.enqueueFront c).pw = s.pw := rfl
@[simp] theorem State.enqueueFront_fw (s : State) (c : Instr) : (s.enqueueFront c).fw = s.fw := rfl
@[simp] theorem State.enqueueFront_fab (s : State) (c : Instr) : (s.enqueueFront c).fab = s.fab := rfl
@[simp] theorem State.enqueueFront_tl (s : State) (c : Instr) : (s.enqueueFront c).tl = s.tl := rfl
@[simp] theorem State.enqueueFront_ci (s : State) (c : Instr) : (s.enqueueFront c).ci = s.ci := rfl
@[simp] theorem State.enqueueFront_pt (s : State) (c : Instr) : (s.enqueueFront c).pt = s.pt := rfl
@[simp] theorem State.enqueueFront_sy (s : State) (c : Instr) : (s.enqueueFront c).sy = s.sy := rfl
@[simp] theorem State.enqueueFront_st (s : State) (c : Instr) : (s.enqueueFront c).st = s.st := rfl
@[simp] theorem State.enqueueFront_io (s : State) (c : Instr) : (s.enqueueFront c).io = s.io := rfl
@[simp] theorem State.enqueueFront_alm (s : State) (c : Instr) : (s.enqueueFront c).alm = s.alm := rfl

/-! ### setC -/

@[simp] theorem setC_pending (key : Nat) (c : CSlot) (s : State) : (setC key c s).pending = s.pending := rfl
@[simp] theorem setC_out (key : Nat) (c : CSlot) (s : State) : (setC key c s).out = s.out := rfl
@[simp] theorem setC_free (key : Nat) (c : CSlot) (s : State) : (setC key c s).free = s.free := rfl
@[simp] theorem setC_objs (key : Nat) (c : CSlot) (s : State) : (setC key c s).objs = s.objs := rfl
@[simp] theorem setC_latches (key : Nat) (c : CSlot) (s : State) : (setC key c s).latches = s.latches := rfl
@[simp] theorem setC_flash (key : Nat) (c : CSlot) (s : State) : (setC key c s).flash = s.flash := rfl
@[simp] theorem setC_clk (key : Nat) (c : CSlot) (s : State) : (setC key c s).clk = s.clk := rfl
@[simp] theorem setC_pw (key : Nat) (c : CSlot) (s : State) : (setC key c s).pw = s.pw := rfl
@[simp] theorem setC_fw (key : Nat) (c : CSlot) (s : State) : (setC key c s).fw = s.fw := rfl
@[simp] theorem setC_fab (key : Nat) (c : CSlot) (s : State) : (setC key c s).fab = s.fab := rfl
@[simp] theorem setC_tl (key : Nat) (c : CSlot) (s : State) : (setC key c s).tl = s.tl := rfl
@[simp] theorem setC_pt (key : Nat) (c : CSlot) (s : State) : (setC key c s).pt = s.pt := rfl
@[simp] theorem setC_sy (key : Nat) (c : CSlot) (s : State) : (setC key c s).sy = s.sy := rfl
@[simp] theorem setC_st (key : Nat) (c : CSlot) (s : State) : (setC key c s).st = s.st := rfl
@[simp] theorem setC_io (key : Nat) (c : CSlot) (s : State) : (setC key c s).io = s.io := rfl
@[simp] theorem setC_alm (key : Nat) (c : CSlot) (s : State) : (setC key c s).alm = s.alm := rfl
@[simp] theorem setC_ci_pages (key : Nat) (c : CSlot) (s : State) : (setC key c s).ci.pages = s.ci.pages := rfl
@[simp] theorem setC_ci_tags (key : Nat) (c : CSlot) (s : State) : (setC key c s).ci.tags = s.ci.tags := rfl
@[simp] theorem setC_ci_serial (key : Nat) (c : CSlot) (s : State) : (setC key c s).ci.serial = s.ci.serial := rfl
@[simp] theorem setC_ci_lostPcs (key : Nat) (c : CSlot) (s : State) : (setC key c s).ci.lostPcs = s.ci.lostPcs := rfl
@[simp] theorem setC_ci_pcRetrain (key : Nat) (c : CSlot) (s : State) : (setC key c s).ci.pcRetrain = s.ci.pcRetrain := rfl
@[simp] theorem setC_ci_pcWaiting (key : Nat) (c : CSlot) (s : State) : (setC key c s).ci.pcWaiting = s.ci.pcWaiting := rfl
@[simp] theorem setC_ci_migrate (key : Nat) (c : CSlot) (s : State) : (setC key c s).ci.migrate = s.ci.migrate := rfl
@[simp] theorem setC_ci_damaged (key : Nat) (c : CSlot) (s : State) : (setC key c s).ci.damaged = s.ci.damaged := rfl
@[simp] theorem setC_ci_stale (key : Nat) (c : CSlot) (s : State) : (setC key c s).ci.stale = s.ci.stale := rfl
@[simp] theorem setC_ci_moving (key : Nat) (c : CSlot) (s : State) : (setC key c s).ci.moving = s.ci.moving := rfl
@[simp] theorem setC_ci_rebuilding (key : Nat) (c : CSlot) (s : State) : (setC key c s).ci.rebuilding = s.ci.rebuilding := rfl
@[simp] theorem setC_now (key : Nat) (c : CSlot) (s : State) : (setC key c s).now = s.now := rfl

/-! ### setVersions -/

@[simp] theorem setVersions_pending (p q : Nat) (vs : List Version) (s : State) : (setVersions p q vs s).pending = s.pending := rfl
@[simp] theorem setVersions_out (p q : Nat) (vs : List Version) (s : State) : (setVersions p q vs s).out = s.out := rfl
@[simp] theorem setVersions_free (p q : Nat) (vs : List Version) (s : State) : (setVersions p q vs s).free = s.free := rfl
@[simp] theorem setVersions_objs (p q : Nat) (vs : List Version) (s : State) : (setVersions p q vs s).objs = s.objs := rfl
@[simp] theorem setVersions_latches (p q : Nat) (vs : List Version) (s : State) : (setVersions p q vs s).latches = s.latches := rfl
@[simp] theorem setVersions_flash (p q : Nat) (vs : List Version) (s : State) : (setVersions p q vs s).flash = s.flash := rfl
@[simp] theorem setVersions_clk (p q : Nat) (vs : List Version) (s : State) : (setVersions p q vs s).clk = s.clk := rfl
@[simp] theorem setVersions_pw (p q : Nat) (vs : List Version) (s : State) : (setVersions p q vs s).pw = s.pw := rfl
@[simp] theorem setVersions_fw (p q : Nat) (vs : List Version) (s : State) : (setVersions p q vs s).fw = s.fw := rfl
@[simp] theorem setVersions_fab (p q : Nat) (vs : List Version) (s : State) : (setVersions p q vs s).fab = s.fab := rfl
@[simp] theorem setVersions_tl (p q : Nat) (vs : List Version) (s : State) : (setVersions p q vs s).tl = s.tl := rfl
@[simp] theorem setVersions_pt (p q : Nat) (vs : List Version) (s : State) : (setVersions p q vs s).pt = s.pt := rfl
@[simp] theorem setVersions_sy (p q : Nat) (vs : List Version) (s : State) : (setVersions p q vs s).sy = s.sy := rfl
@[simp] theorem setVersions_st (p q : Nat) (vs : List Version) (s : State) : (setVersions p q vs s).st = s.st := rfl
@[simp] theorem setVersions_io (p q : Nat) (vs : List Version) (s : State) : (setVersions p q vs s).io = s.io := rfl
@[simp] theorem setVersions_alm (p q : Nat) (vs : List Version) (s : State) : (setVersions p q vs s).alm = s.alm := rfl
@[simp] theorem setVersions_ci_slots (p q : Nat) (vs : List Version) (s : State) : (setVersions p q vs s).ci.slots = s.ci.slots := rfl
@[simp] theorem setVersions_ci_tags (p q : Nat) (vs : List Version) (s : State) : (setVersions p q vs s).ci.tags = s.ci.tags := rfl
@[simp] theorem setVersions_ci_serial (p q : Nat) (vs : List Version) (s : State) : (setVersions p q vs s).ci.serial = s.ci.serial := rfl
@[simp] theorem setVersions_ci_lostPcs (p q : Nat) (vs : List Version) (s : State) : (setVersions p q vs s).ci.lostPcs = s.ci.lostPcs := rfl
@[simp] theorem setVersions_ci_pcRetrain (p q : Nat) (vs : List Version) (s : State) : (setVersions p q vs s).ci.pcRetrain = s.ci.pcRetrain := rfl
@[simp] theorem setVersions_ci_pcWaiting (p q : Nat) (vs : List Version) (s : State) : (setVersions p q vs s).ci.pcWaiting = s.ci.pcWaiting := rfl
@[simp] theorem setVersions_ci_migrate (p q : Nat) (vs : List Version) (s : State) : (setVersions p q vs s).ci.migrate = s.ci.migrate := rfl
@[simp] theorem setVersions_ci_damaged (p q : Nat) (vs : List Version) (s : State) : (setVersions p q vs s).ci.damaged = s.ci.damaged := rfl
@[simp] theorem setVersions_ci_stale (p q : Nat) (vs : List Version) (s : State) : (setVersions p q vs s).ci.stale = s.ci.stale := rfl
@[simp] theorem setVersions_ci_moving (p q : Nat) (vs : List Version) (s : State) : (setVersions p q vs s).ci.moving = s.ci.moving := rfl
@[simp] theorem setVersions_ci_rebuilding (p q : Nat) (vs : List Version) (s : State) : (setVersions p q vs s).ci.rebuilding = s.ci.rebuilding := rfl
@[simp] theorem setVersions_now (p q : Nat) (vs : List Version) (s : State) : (setVersions p q vs s).now = s.now := rfl

/-! ### setTag -/

@[simp] theorem setTag_pending (t : Nat) (x : Tag) (s : State) : (setTag t x s).pending = s.pending := rfl
@[simp] theorem setTag_out (t : Nat) (x : Tag) (s : State) : (setTag t x s).out = s.out := rfl
@[simp] theorem setTag_free (t : Nat) (x : Tag) (s : State) : (setTag t x s).free = s.free := rfl
@[simp] theorem setTag_objs (t : Nat) (x : Tag) (s : State) : (setTag t x s).objs = s.objs := rfl
@[simp] theorem setTag_latches (t : Nat) (x : Tag) (s : State) : (setTag t x s).latches = s.latches := rfl
@[simp] theorem setTag_flash (t : Nat) (x : Tag) (s : State) : (setTag t x s).flash = s.flash := rfl
@[simp] theorem setTag_clk (t : Nat) (x : Tag) (s : State) : (setTag t x s).clk = s.clk := rfl
@[simp] theorem setTag_pw (t : Nat) (x : Tag) (s : State) : (setTag t x s).pw = s.pw := rfl
@[simp] theorem setTag_fw (t : Nat) (x : Tag) (s : State) : (setTag t x s).fw = s.fw := rfl
@[simp] theorem setTag_fab (t : Nat) (x : Tag) (s : State) : (setTag t x s).fab = s.fab := rfl
@[simp] theorem setTag_tl (t : Nat) (x : Tag) (s : State) : (setTag t x s).tl = s.tl := rfl
@[simp] theorem setTag_pt (t : Nat) (x : Tag) (s : State) : (setTag t x s).pt = s.pt := rfl
@[simp] theorem setTag_sy (t : Nat) (x : Tag) (s : State) : (setTag t x s).sy = s.sy := rfl
@[simp] theorem setTag_st (t : Nat) (x : Tag) (s : State) : (setTag t x s).st = s.st := rfl
@[simp] theorem setTag_io (t : Nat) (x : Tag) (s : State) : (setTag t x s).io = s.io := rfl
@[simp] theorem setTag_alm (t : Nat) (x : Tag) (s : State) : (setTag t x s).alm = s.alm := rfl
@[simp] theorem setTag_ci_slots (t : Nat) (x : Tag) (s : State) : (setTag t x s).ci.slots = s.ci.slots := rfl
@[simp] theorem setTag_ci_pages (t : Nat) (x : Tag) (s : State) : (setTag t x s).ci.pages = s.ci.pages := rfl
@[simp] theorem setTag_ci_serial (t : Nat) (x : Tag) (s : State) : (setTag t x s).ci.serial = s.ci.serial := rfl
@[simp] theorem setTag_ci_lostPcs (t : Nat) (x : Tag) (s : State) : (setTag t x s).ci.lostPcs = s.ci.lostPcs := rfl
@[simp] theorem setTag_ci_pcRetrain (t : Nat) (x : Tag) (s : State) : (setTag t x s).ci.pcRetrain = s.ci.pcRetrain := rfl
@[simp] theorem setTag_ci_pcWaiting (t : Nat) (x : Tag) (s : State) : (setTag t x s).ci.pcWaiting = s.ci.pcWaiting := rfl
@[simp] theorem setTag_ci_migrate (t : Nat) (x : Tag) (s : State) : (setTag t x s).ci.migrate = s.ci.migrate := rfl
@[simp] theorem setTag_ci_damaged (t : Nat) (x : Tag) (s : State) : (setTag t x s).ci.damaged = s.ci.damaged := rfl
@[simp] theorem setTag_ci_stale (t : Nat) (x : Tag) (s : State) : (setTag t x s).ci.stale = s.ci.stale := rfl
@[simp] theorem setTag_ci_moving (t : Nat) (x : Tag) (s : State) : (setTag t x s).ci.moving = s.ci.moving := rfl
@[simp] theorem setTag_ci_rebuilding (t : Nat) (x : Tag) (s : State) : (setTag t x s).ci.rebuilding = s.ci.rebuilding := rfl
@[simp] theorem setTag_now (t : Nat) (x : Tag) (s : State) : (setTag t x s).now = s.now := rfl

/-! ### freeTag -/

@[simp] theorem freeTag_pending (t : Nat) (s : State) : (freeTag t s).pending = s.pending := rfl
@[simp] theorem freeTag_out (t : Nat) (s : State) : (freeTag t s).out = s.out := rfl
@[simp] theorem freeTag_free (t : Nat) (s : State) : (freeTag t s).free = s.free := rfl
@[simp] theorem freeTag_objs (t : Nat) (s : State) : (freeTag t s).objs = s.objs := rfl
@[simp] theorem freeTag_latches (t : Nat) (s : State) : (freeTag t s).latches = s.latches := rfl
@[simp] theorem freeTag_flash (t : Nat) (s : State) : (freeTag t s).flash = s.flash := rfl
@[simp] theorem freeTag_clk (t : Nat) (s : State) : (freeTag t s).clk = s.clk := rfl
@[simp] theorem freeTag_pw (t : Nat) (s : State) : (freeTag t s).pw = s.pw := rfl
@[simp] theorem freeTag_fw (t : Nat) (s : State) : (freeTag t s).fw = s.fw := rfl
@[simp] theorem freeTag_fab (t : Nat) (s : State) : (freeTag t s).fab = s.fab := rfl
@[simp] theorem freeTag_tl (t : Nat) (s : State) : (freeTag t s).tl = s.tl := rfl
@[simp] theorem freeTag_pt (t : Nat) (s : State) : (freeTag t s).pt = s.pt := rfl
@[simp] theorem freeTag_sy (t : Nat) (s : State) : (freeTag t s).sy = s.sy := rfl
@[simp] theorem freeTag_st (t : Nat) (s : State) : (freeTag t s).st = s.st := rfl
@[simp] theorem freeTag_io (t : Nat) (s : State) : (freeTag t s).io = s.io := rfl
@[simp] theorem freeTag_alm (t : Nat) (s : State) : (freeTag t s).alm = s.alm := rfl
@[simp] theorem freeTag_ci_slots (t : Nat) (s : State) : (freeTag t s).ci.slots = s.ci.slots := rfl
@[simp] theorem freeTag_ci_pages (t : Nat) (s : State) : (freeTag t s).ci.pages = s.ci.pages := rfl
@[simp] theorem freeTag_ci_serial (t : Nat) (s : State) : (freeTag t s).ci.serial = s.ci.serial := rfl
@[simp] theorem freeTag_ci_lostPcs (t : Nat) (s : State) : (freeTag t s).ci.lostPcs = s.ci.lostPcs := rfl
@[simp] theorem freeTag_ci_pcRetrain (t : Nat) (s : State) : (freeTag t s).ci.pcRetrain = s.ci.pcRetrain := rfl
@[simp] theorem freeTag_ci_pcWaiting (t : Nat) (s : State) : (freeTag t s).ci.pcWaiting = s.ci.pcWaiting := rfl
@[simp] theorem freeTag_ci_migrate (t : Nat) (s : State) : (freeTag t s).ci.migrate = s.ci.migrate := rfl
@[simp] theorem freeTag_ci_damaged (t : Nat) (s : State) : (freeTag t s).ci.damaged = s.ci.damaged := rfl
@[simp] theorem freeTag_ci_stale (t : Nat) (s : State) : (freeTag t s).ci.stale = s.ci.stale := rfl
@[simp] theorem freeTag_ci_moving (t : Nat) (s : State) : (freeTag t s).ci.moving = s.ci.moving := rfl
@[simp] theorem freeTag_ci_rebuilding (t : Nat) (s : State) : (freeTag t s).ci.rebuilding = s.ci.rebuilding := rfl
@[simp] theorem freeTag_now (t : Nat) (s : State) : (freeTag t s).now = s.now := rfl

/-! ### addObj -/

@[simp] theorem addObj_pending (key n : Nat) (s : State) : (addObj key n s).pending = s.pending := rfl
@[simp] theorem addObj_out (key n : Nat) (s : State) : (addObj key n s).out = s.out := rfl
@[simp] theorem addObj_free (key n : Nat) (s : State) : (addObj key n s).free = s.free := rfl
@[simp] theorem addObj_latches (key n : Nat) (s : State) : (addObj key n s).latches = s.latches := rfl
@[simp] theorem addObj_flash (key n : Nat) (s : State) : (addObj key n s).flash = s.flash := rfl
@[simp] theorem addObj_clk (key n : Nat) (s : State) : (addObj key n s).clk = s.clk := rfl
@[simp] theorem addObj_pw (key n : Nat) (s : State) : (addObj key n s).pw = s.pw := rfl
@[simp] theorem addObj_fw (key n : Nat) (s : State) : (addObj key n s).fw = s.fw := rfl
@[simp] theorem addObj_fab (key n : Nat) (s : State) : (addObj key n s).fab = s.fab := rfl
@[simp] theorem addObj_tl (key n : Nat) (s : State) : (addObj key n s).tl = s.tl := rfl
@[simp] theorem addObj_ci (key n : Nat) (s : State) : (addObj key n s).ci = s.ci := rfl
@[simp] theorem addObj_pt (key n : Nat) (s : State) : (addObj key n s).pt = s.pt := rfl
@[simp] theorem addObj_sy (key n : Nat) (s : State) : (addObj key n s).sy = s.sy := rfl
@[simp] theorem addObj_st (key n : Nat) (s : State) : (addObj key n s).st = s.st := rfl
@[simp] theorem addObj_io (key n : Nat) (s : State) : (addObj key n s).io = s.io := rfl
@[simp] theorem addObj_alm (key n : Nat) (s : State) : (addObj key n s).alm = s.alm := rfl
@[simp] theorem addObj_now (key n : Nat) (s : State) : (addObj key n s).now = s.now := rfl

/-! ### setField -/

@[simp] theorem setField_pending (key msb lsb v : Nat) (s : State) : (setField key msb lsb v s).pending = s.pending := rfl
@[simp] theorem setField_out (key msb lsb v : Nat) (s : State) : (setField key msb lsb v s).out = s.out := rfl
@[simp] theorem setField_free (key msb lsb v : Nat) (s : State) : (setField key msb lsb v s).free = s.free := rfl
@[simp] theorem setField_latches (key msb lsb v : Nat) (s : State) : (setField key msb lsb v s).latches = s.latches := rfl
@[simp] theorem setField_flash (key msb lsb v : Nat) (s : State) : (setField key msb lsb v s).flash = s.flash := rfl
@[simp] theorem setField_clk (key msb lsb v : Nat) (s : State) : (setField key msb lsb v s).clk = s.clk := rfl
@[simp] theorem setField_pw (key msb lsb v : Nat) (s : State) : (setField key msb lsb v s).pw = s.pw := rfl
@[simp] theorem setField_fw (key msb lsb v : Nat) (s : State) : (setField key msb lsb v s).fw = s.fw := rfl
@[simp] theorem setField_fab (key msb lsb v : Nat) (s : State) : (setField key msb lsb v s).fab = s.fab := rfl
@[simp] theorem setField_tl (key msb lsb v : Nat) (s : State) : (setField key msb lsb v s).tl = s.tl := rfl
@[simp] theorem setField_ci (key msb lsb v : Nat) (s : State) : (setField key msb lsb v s).ci = s.ci := rfl
@[simp] theorem setField_pt (key msb lsb v : Nat) (s : State) : (setField key msb lsb v s).pt = s.pt := rfl
@[simp] theorem setField_sy (key msb lsb v : Nat) (s : State) : (setField key msb lsb v s).sy = s.sy := rfl
@[simp] theorem setField_st (key msb lsb v : Nat) (s : State) : (setField key msb lsb v s).st = s.st := rfl
@[simp] theorem setField_io (key msb lsb v : Nat) (s : State) : (setField key msb lsb v s).io = s.io := rfl
@[simp] theorem setField_alm (key msb lsb v : Nat) (s : State) : (setField key msb lsb v s).alm = s.alm := rfl
@[simp] theorem setField_now (key msb lsb v : Nat) (s : State) : (setField key msb lsb v s).now = s.now := rfl

/-! ### satAddObj -/

@[simp] theorem satAddObj_pending (key n : Nat) (s : State) : (satAddObj key n s).pending = s.pending := rfl
@[simp] theorem satAddObj_out (key n : Nat) (s : State) : (satAddObj key n s).out = s.out := rfl
@[simp] theorem satAddObj_free (key n : Nat) (s : State) : (satAddObj key n s).free = s.free := rfl
@[simp] theorem satAddObj_latches (key n : Nat) (s : State) : (satAddObj key n s).latches = s.latches := rfl
@[simp] theorem satAddObj_flash (key n : Nat) (s : State) : (satAddObj key n s).flash = s.flash := rfl
@[simp] theorem satAddObj_clk (key n : Nat) (s : State) : (satAddObj key n s).clk = s.clk := rfl
@[simp] theorem satAddObj_pw (key n : Nat) (s : State) : (satAddObj key n s).pw = s.pw := rfl
@[simp] theorem satAddObj_fw (key n : Nat) (s : State) : (satAddObj key n s).fw = s.fw := rfl
@[simp] theorem satAddObj_fab (key n : Nat) (s : State) : (satAddObj key n s).fab = s.fab := rfl
@[simp] theorem satAddObj_tl (key n : Nat) (s : State) : (satAddObj key n s).tl = s.tl := rfl
@[simp] theorem satAddObj_ci (key n : Nat) (s : State) : (satAddObj key n s).ci = s.ci := rfl
@[simp] theorem satAddObj_pt (key n : Nat) (s : State) : (satAddObj key n s).pt = s.pt := rfl
@[simp] theorem satAddObj_sy (key n : Nat) (s : State) : (satAddObj key n s).sy = s.sy := rfl
@[simp] theorem satAddObj_st (key n : Nat) (s : State) : (satAddObj key n s).st = s.st := rfl
@[simp] theorem satAddObj_io (key n : Nat) (s : State) : (satAddObj key n s).io = s.io := rfl
@[simp] theorem satAddObj_alm (key n : Nat) (s : State) : (satAddObj key n s).alm = s.alm := rfl
@[simp] theorem satAddObj_now (key n : Nat) (s : State) : (satAddObj key n s).now = s.now := rfl

/-! ### updPart -/

@[simp] theorem updPart_pending (p : Nat) (f : Part → Part) (s : State) : (updPart p f s).pending = s.pending := rfl
@[simp] theorem updPart_out (p : Nat) (f : Part → Part) (s : State) : (updPart p f s).out = s.out := rfl
@[simp] theorem updPart_free (p : Nat) (f : Part → Part) (s : State) : (updPart p f s).free = s.free := rfl
@[simp] theorem updPart_objs (p : Nat) (f : Part → Part) (s : State) : (updPart p f s).objs = s.objs := rfl
@[simp] theorem updPart_latches (p : Nat) (f : Part → Part) (s : State) : (updPart p f s).latches = s.latches := rfl
@[simp] theorem updPart_flash (p : Nat) (f : Part → Part) (s : State) : (updPart p f s).flash = s.flash := rfl
@[simp] theorem updPart_clk (p : Nat) (f : Part → Part) (s : State) : (updPart p f s).clk = s.clk := rfl
@[simp] theorem updPart_pw (p : Nat) (f : Part → Part) (s : State) : (updPart p f s).pw = s.pw := rfl
@[simp] theorem updPart_fw (p : Nat) (f : Part → Part) (s : State) : (updPart p f s).fw = s.fw := rfl
@[simp] theorem updPart_fab (p : Nat) (f : Part → Part) (s : State) : (updPart p f s).fab = s.fab := rfl
@[simp] theorem updPart_tl (p : Nat) (f : Part → Part) (s : State) : (updPart p f s).tl = s.tl := rfl
@[simp] theorem updPart_ci (p : Nat) (f : Part → Part) (s : State) : (updPart p f s).ci = s.ci := rfl
@[simp] theorem updPart_sy (p : Nat) (f : Part → Part) (s : State) : (updPart p f s).sy = s.sy := rfl
@[simp] theorem updPart_st (p : Nat) (f : Part → Part) (s : State) : (updPart p f s).st = s.st := rfl
@[simp] theorem updPart_io (p : Nat) (f : Part → Part) (s : State) : (updPart p f s).io = s.io := rfl
@[simp] theorem updPart_alm (p : Nat) (f : Part → Part) (s : State) : (updPart p f s).alm = s.alm := rfl
@[simp] theorem updPart_pt_accts (p : Nat) (f : Part → Part) (s : State) : (updPart p f s).pt.accts = s.pt.accts := rfl
@[simp] theorem updPart_pt_acctLatch (p : Nat) (f : Part → Part) (s : State) : (updPart p f s).pt.acctLatch = s.pt.acctLatch := rfl
@[simp] theorem updPart_pt_perturbed (p : Nat) (f : Part → Part) (s : State) : (updPart p f s).pt.perturbed = s.pt.perturbed := rfl
@[simp] theorem updPart_now (p : Nat) (f : Part → Part) (s : State) : (updPart p f s).now = s.now := rfl

/-! ### updSlot -/

@[simp] theorem updSlot_pending (eng q sl : Nat) (f : Slot → Slot) (s : State) : (updSlot eng q sl f s).pending = s.pending := rfl
@[simp] theorem updSlot_out (eng q sl : Nat) (f : Slot → Slot) (s : State) : (updSlot eng q sl f s).out = s.out := rfl
@[simp] theorem updSlot_free (eng q sl : Nat) (f : Slot → Slot) (s : State) : (updSlot eng q sl f s).free = s.free := rfl
@[simp] theorem updSlot_objs (eng q sl : Nat) (f : Slot → Slot) (s : State) : (updSlot eng q sl f s).objs = s.objs := rfl
@[simp] theorem updSlot_latches (eng q sl : Nat) (f : Slot → Slot) (s : State) : (updSlot eng q sl f s).latches = s.latches := rfl
@[simp] theorem updSlot_flash (eng q sl : Nat) (f : Slot → Slot) (s : State) : (updSlot eng q sl f s).flash = s.flash := rfl
@[simp] theorem updSlot_clk (eng q sl : Nat) (f : Slot → Slot) (s : State) : (updSlot eng q sl f s).clk = s.clk := rfl
@[simp] theorem updSlot_pw (eng q sl : Nat) (f : Slot → Slot) (s : State) : (updSlot eng q sl f s).pw = s.pw := rfl
@[simp] theorem updSlot_fw (eng q sl : Nat) (f : Slot → Slot) (s : State) : (updSlot eng q sl f s).fw = s.fw := rfl
@[simp] theorem updSlot_fab (eng q sl : Nat) (f : Slot → Slot) (s : State) : (updSlot eng q sl f s).fab = s.fab := rfl
@[simp] theorem updSlot_ci (eng q sl : Nat) (f : Slot → Slot) (s : State) : (updSlot eng q sl f s).ci = s.ci := rfl
@[simp] theorem updSlot_pt (eng q sl : Nat) (f : Slot → Slot) (s : State) : (updSlot eng q sl f s).pt = s.pt := rfl
@[simp] theorem updSlot_sy (eng q sl : Nat) (f : Slot → Slot) (s : State) : (updSlot eng q sl f s).sy = s.sy := rfl
@[simp] theorem updSlot_st (eng q sl : Nat) (f : Slot → Slot) (s : State) : (updSlot eng q sl f s).st = s.st := rfl
@[simp] theorem updSlot_io (eng q sl : Nat) (f : Slot → Slot) (s : State) : (updSlot eng q sl f s).io = s.io := rfl
@[simp] theorem updSlot_alm (eng q sl : Nat) (f : Slot → Slot) (s : State) : (updSlot eng q sl f s).alm = s.alm := rfl
@[simp] theorem updSlot_tl_queues (eng q sl : Nat) (f : Slot → Slot) (s : State) : (updSlot eng q sl f s).tl.queues = s.tl.queues := rfl
@[simp] theorem updSlot_tl_units (eng q sl : Nat) (f : Slot → Slot) (s : State) : (updSlot eng q sl f s).tl.units = s.tl.units := rfl
@[simp] theorem updSlot_tl_pageMap (eng q sl : Nat) (f : Slot → Slot) (s : State) : (updSlot eng q sl f s).tl.pageMap = s.tl.pageMap := rfl
@[simp] theorem updSlot_tl_frames (eng q sl : Nat) (f : Slot → Slot) (s : State) : (updSlot eng q sl f s).tl.frames = s.tl.frames := rfl
@[simp] theorem updSlot_tl_turns (eng q sl : Nat) (f : Slot → Slot) (s : State) : (updSlot eng q sl f s).tl.turns = s.tl.turns := rfl
@[simp] theorem updSlot_tl_loads (eng q sl : Nat) (f : Slot → Slot) (s : State) : (updSlot eng q sl f s).tl.loads = s.tl.loads := rfl
@[simp] theorem updSlot_now (eng q sl : Nat) (f : Slot → Slot) (s : State) : (updSlot eng q sl f s).now = s.now := rfl

/-! ### updSeq -/

@[simp] theorem updSeq_pending (k : Nat) (f : Seq → Seq) (s : State) : (updSeq k f s).pending = s.pending := rfl
@[simp] theorem updSeq_out (k : Nat) (f : Seq → Seq) (s : State) : (updSeq k f s).out = s.out := rfl
@[simp] theorem updSeq_free (k : Nat) (f : Seq → Seq) (s : State) : (updSeq k f s).free = s.free := rfl
@[simp] theorem updSeq_objs (k : Nat) (f : Seq → Seq) (s : State) : (updSeq k f s).objs = s.objs := rfl
@[simp] theorem updSeq_latches (k : Nat) (f : Seq → Seq) (s : State) : (updSeq k f s).latches = s.latches := rfl
@[simp] theorem updSeq_flash (k : Nat) (f : Seq → Seq) (s : State) : (updSeq k f s).flash = s.flash := rfl
@[simp] theorem updSeq_clk (k : Nat) (f : Seq → Seq) (s : State) : (updSeq k f s).clk = s.clk := rfl
@[simp] theorem updSeq_pw (k : Nat) (f : Seq → Seq) (s : State) : (updSeq k f s).pw = s.pw := rfl
@[simp] theorem updSeq_fw (k : Nat) (f : Seq → Seq) (s : State) : (updSeq k f s).fw = s.fw := rfl
@[simp] theorem updSeq_fab (k : Nat) (f : Seq → Seq) (s : State) : (updSeq k f s).fab = s.fab := rfl
@[simp] theorem updSeq_tl (k : Nat) (f : Seq → Seq) (s : State) : (updSeq k f s).tl = s.tl := rfl
@[simp] theorem updSeq_ci (k : Nat) (f : Seq → Seq) (s : State) : (updSeq k f s).ci = s.ci := rfl
@[simp] theorem updSeq_pt (k : Nat) (f : Seq → Seq) (s : State) : (updSeq k f s).pt = s.pt := rfl
@[simp] theorem updSeq_sy (k : Nat) (f : Seq → Seq) (s : State) : (updSeq k f s).sy = s.sy := rfl
@[simp] theorem updSeq_io (k : Nat) (f : Seq → Seq) (s : State) : (updSeq k f s).io = s.io := rfl
@[simp] theorem updSeq_alm (k : Nat) (f : Seq → Seq) (s : State) : (updSeq k f s).alm = s.alm := rfl
@[simp] theorem updSeq_st_watched (k : Nat) (f : Seq → Seq) (s : State) : (updSeq k f s).st.watched = s.st.watched := rfl
@[simp] theorem updSeq_st_overlays (k : Nat) (f : Seq → Seq) (s : State) : (updSeq k f s).st.overlays = s.st.overlays := rfl
@[simp] theorem updSeq_st_audio (k : Nat) (f : Seq → Seq) (s : State) : (updSeq k f s).st.audio = s.st.audio := rfl
@[simp] theorem updSeq_st_fallback (k : Nat) (f : Seq → Seq) (s : State) : (updSeq k f s).st.fallback = s.st.fallback := rfl
@[simp] theorem updSeq_st_served (k : Nat) (f : Seq → Seq) (s : State) : (updSeq k f s).st.served = s.st.served := rfl
@[simp] theorem updSeq_now (k : Nat) (f : Seq → Seq) (s : State) : (updSeq k f s).now = s.now := rfl

/-! ### updWatched -/

@[simp] theorem updWatched_pending (k o : Nat) (f : Watched → Watched) (s : State) : (updWatched k o f s).pending = s.pending := rfl
@[simp] theorem updWatched_out (k o : Nat) (f : Watched → Watched) (s : State) : (updWatched k o f s).out = s.out := rfl
@[simp] theorem updWatched_free (k o : Nat) (f : Watched → Watched) (s : State) : (updWatched k o f s).free = s.free := rfl
@[simp] theorem updWatched_objs (k o : Nat) (f : Watched → Watched) (s : State) : (updWatched k o f s).objs = s.objs := rfl
@[simp] theorem updWatched_latches (k o : Nat) (f : Watched → Watched) (s : State) : (updWatched k o f s).latches = s.latches := rfl
@[simp] theorem updWatched_flash (k o : Nat) (f : Watched → Watched) (s : State) : (updWatched k o f s).flash = s.flash := rfl
@[simp] theorem updWatched_clk (k o : Nat) (f : Watched → Watched) (s : State) : (updWatched k o f s).clk = s.clk := rfl
@[simp] theorem updWatched_pw (k o : Nat) (f : Watched → Watched) (s : State) : (updWatched k o f s).pw = s.pw := rfl
@[simp] theorem updWatched_fw (k o : Nat) (f : Watched → Watched) (s : State) : (updWatched k o f s).fw = s.fw := rfl
@[simp] theorem updWatched_fab (k o : Nat) (f : Watched → Watched) (s : State) : (updWatched k o f s).fab = s.fab := rfl
@[simp] theorem updWatched_tl (k o : Nat) (f : Watched → Watched) (s : State) : (updWatched k o f s).tl = s.tl := rfl
@[simp] theorem updWatched_ci (k o : Nat) (f : Watched → Watched) (s : State) : (updWatched k o f s).ci = s.ci := rfl
@[simp] theorem updWatched_pt (k o : Nat) (f : Watched → Watched) (s : State) : (updWatched k o f s).pt = s.pt := rfl
@[simp] theorem updWatched_sy (k o : Nat) (f : Watched → Watched) (s : State) : (updWatched k o f s).sy = s.sy := rfl
@[simp] theorem updWatched_io (k o : Nat) (f : Watched → Watched) (s : State) : (updWatched k o f s).io = s.io := rfl
@[simp] theorem updWatched_alm (k o : Nat) (f : Watched → Watched) (s : State) : (updWatched k o f s).alm = s.alm := rfl
@[simp] theorem updWatched_st_seqs (k o : Nat) (f : Watched → Watched) (s : State) : (updWatched k o f s).st.seqs = s.st.seqs := rfl
@[simp] theorem updWatched_st_overlays (k o : Nat) (f : Watched → Watched) (s : State) : (updWatched k o f s).st.overlays = s.st.overlays := rfl
@[simp] theorem updWatched_st_audio (k o : Nat) (f : Watched → Watched) (s : State) : (updWatched k o f s).st.audio = s.st.audio := rfl
@[simp] theorem updWatched_st_fallback (k o : Nat) (f : Watched → Watched) (s : State) : (updWatched k o f s).st.fallback = s.st.fallback := rfl
@[simp] theorem updWatched_st_served (k o : Nat) (f : Watched → Watched) (s : State) : (updWatched k o f s).st.served = s.st.served := rfl
@[simp] theorem updWatched_now (k o : Nat) (f : Watched → Watched) (s : State) : (updWatched k o f s).now = s.now := rfl

/-! ### setParked -/

@[simp] theorem setParked_pending (m : Nat) (l : List Parked) (s : State) : (setParked m l s).pending = s.pending := rfl
@[simp] theorem setParked_out (m : Nat) (l : List Parked) (s : State) : (setParked m l s).out = s.out := rfl
@[simp] theorem setParked_free (m : Nat) (l : List Parked) (s : State) : (setParked m l s).free = s.free := rfl
@[simp] theorem setParked_objs (m : Nat) (l : List Parked) (s : State) : (setParked m l s).objs = s.objs := rfl
@[simp] theorem setParked_latches (m : Nat) (l : List Parked) (s : State) : (setParked m l s).latches = s.latches := rfl
@[simp] theorem setParked_flash (m : Nat) (l : List Parked) (s : State) : (setParked m l s).flash = s.flash := rfl
@[simp] theorem setParked_clk (m : Nat) (l : List Parked) (s : State) : (setParked m l s).clk = s.clk := rfl
@[simp] theorem setParked_pw (m : Nat) (l : List Parked) (s : State) : (setParked m l s).pw = s.pw := rfl
@[simp] theorem setParked_fw (m : Nat) (l : List Parked) (s : State) : (setParked m l s).fw = s.fw := rfl
@[simp] theorem setParked_fab (m : Nat) (l : List Parked) (s : State) : (setParked m l s).fab = s.fab := rfl
@[simp] theorem setParked_tl (m : Nat) (l : List Parked) (s : State) : (setParked m l s).tl = s.tl := rfl
@[simp] theorem setParked_ci (m : Nat) (l : List Parked) (s : State) : (setParked m l s).ci = s.ci := rfl
@[simp] theorem setParked_pt (m : Nat) (l : List Parked) (s : State) : (setParked m l s).pt = s.pt := rfl
@[simp] theorem setParked_st (m : Nat) (l : List Parked) (s : State) : (setParked m l s).st = s.st := rfl
@[simp] theorem setParked_io (m : Nat) (l : List Parked) (s : State) : (setParked m l s).io = s.io := rfl
@[simp] theorem setParked_alm (m : Nat) (l : List Parked) (s : State) : (setParked m l s).alm = s.alm := rfl
@[simp] theorem setParked_now (m : Nat) (l : List Parked) (s : State) : (setParked m l s).now = s.now := rfl
@[simp] theorem setParked_sy_counts (m : Nat) (l : List Parked) (s : State) : (setParked m l s).sy.counts = s.sy.counts := rfl
@[simp] theorem setParked_sy_banks (m : Nat) (l : List Parked) (s : State) : (setParked m l s).sy.banks = s.sy.banks := rfl
@[simp] theorem setParked_sy_held (m : Nat) (l : List Parked) (s : State) : (setParked m l s).sy.held = s.sy.held := rfl
@[simp] theorem setParked_sy_notices (m : Nat) (l : List Parked) (s : State) : (setParked m l s).sy.notices = s.sy.notices := rfl
@[simp] theorem setParked_sy_fill (m : Nat) (l : List Parked) (s : State) : (setParked m l s).sy.fill = s.sy.fill := rfl
@[simp] theorem setParked_sy_hostArmed (m : Nat) (l : List Parked) (s : State) : (setParked m l s).sy.hostArmed = s.sy.hostArmed := rfl

/-! ### noteFlip -/

@[simp] theorem noteFlip_pending (tile lp old : Nat) (s : State) : (noteFlip tile lp old s).pending = s.pending := rfl
@[simp] theorem noteFlip_out (tile lp old : Nat) (s : State) : (noteFlip tile lp old s).out = s.out := rfl
@[simp] theorem noteFlip_free (tile lp old : Nat) (s : State) : (noteFlip tile lp old s).free = s.free := rfl
@[simp] theorem noteFlip_objs (tile lp old : Nat) (s : State) : (noteFlip tile lp old s).objs = s.objs := rfl
@[simp] theorem noteFlip_latches (tile lp old : Nat) (s : State) : (noteFlip tile lp old s).latches = s.latches := rfl
@[simp] theorem noteFlip_flash (tile lp old : Nat) (s : State) : (noteFlip tile lp old s).flash = s.flash := rfl
@[simp] theorem noteFlip_clk (tile lp old : Nat) (s : State) : (noteFlip tile lp old s).clk = s.clk := rfl
@[simp] theorem noteFlip_pw (tile lp old : Nat) (s : State) : (noteFlip tile lp old s).pw = s.pw := rfl
@[simp] theorem noteFlip_fw (tile lp old : Nat) (s : State) : (noteFlip tile lp old s).fw = s.fw := rfl
@[simp] theorem noteFlip_fab (tile lp old : Nat) (s : State) : (noteFlip tile lp old s).fab = s.fab := rfl
@[simp] theorem noteFlip_tl (tile lp old : Nat) (s : State) : (noteFlip tile lp old s).tl = s.tl := rfl
@[simp] theorem noteFlip_ci (tile lp old : Nat) (s : State) : (noteFlip tile lp old s).ci = s.ci := rfl
@[simp] theorem noteFlip_pt (tile lp old : Nat) (s : State) : (noteFlip tile lp old s).pt = s.pt := rfl
@[simp] theorem noteFlip_sy (tile lp old : Nat) (s : State) : (noteFlip tile lp old s).sy = s.sy := rfl
@[simp] theorem noteFlip_st (tile lp old : Nat) (s : State) : (noteFlip tile lp old s).st = s.st := rfl
@[simp] theorem noteFlip_io (tile lp old : Nat) (s : State) : (noteFlip tile lp old s).io = s.io := rfl
@[simp] theorem noteFlip_alm (tile lp old : Nat) (s : State) : (noteFlip tile lp old s).alm = s.alm := rfl
@[simp] theorem noteFlip_now_numfmt (tile lp old : Nat) (s : State) : (noteFlip tile lp old s).now.numfmt = s.now.numfmt := rfl
@[simp] theorem noteFlip_now_perf (tile lp old : Nat) (s : State) : (noteFlip tile lp old s).now.perf = s.now.perf := rfl
@[simp] theorem noteFlip_now_perfNew (tile lp old : Nat) (s : State) : (noteFlip tile lp old s).now.perfNew = s.now.perfNew := rfl
@[simp] theorem noteFlip_now_charged (tile lp old : Nat) (s : State) : (noteFlip tile lp old s).now.charged = s.now.charged := rfl
@[simp] theorem noteFlip_now_stamped (tile lp old : Nat) (s : State) : (noteFlip tile lp old s).now.stamped = s.now.stamped := rfl
@[simp] theorem noteFlip_now_published (tile lp old : Nat) (s : State) : (noteFlip tile lp old s).now.published = s.now.published := rfl
@[simp] theorem noteFlip_now_landed (tile lp old : Nat) (s : State) : (noteFlip tile lp old s).now.landed = s.now.landed := rfl
@[simp] theorem noteFlip_now_serial (tile lp old : Nat) (s : State) : (noteFlip tile lp old s).now.serial = s.now.serial := rfl
@[simp] theorem noteFlip_now_steps (tile lp old : Nat) (s : State) : (noteFlip tile lp old s).now.steps = s.now.steps := rfl
@[simp] theorem noteFlip_now_switched (tile lp old : Nat) (s : State) : (noteFlip tile lp old s).now.switched = s.now.switched := rfl
@[simp] theorem noteFlip_now_sets (tile lp old : Nat) (s : State) : (noteFlip tile lp old s).now.sets = s.now.sets := rfl
@[simp] theorem noteFlip_now_won (tile lp old : Nat) (s : State) : (noteFlip tile lp old s).now.won = s.now.won := rfl
@[simp] theorem noteFlip_now_admitted (tile lp old : Nat) (s : State) : (noteFlip tile lp old s).now.admitted = s.now.admitted := rfl
@[simp] theorem noteFlip_now_arrived (tile lp old : Nat) (s : State) : (noteFlip tile lp old s).now.arrived = s.now.arrived := rfl
@[simp] theorem noteFlip_now_holds (tile lp old : Nat) (s : State) : (noteFlip tile lp old s).now.holds = s.now.holds := rfl
@[simp] theorem noteFlip_now_mute (tile lp old : Nat) (s : State) : (noteFlip tile lp old s).now.mute = s.now.mute := rfl
@[simp] theorem noteFlip_now_pps (tile lp old : Nat) (s : State) : (noteFlip tile lp old s).now.pps = s.now.pps := rfl
@[simp] theorem noteFlip_now_captures (tile lp old : Nat) (s : State) : (noteFlip tile lp old s).now.captures = s.now.captures := rfl

/-! ### Operations with a choice -/

@[simp] theorem capture_pending (code part inst p0 p1 p2 : Nat) (s : State) : (capture code part inst p0 p1 p2 s).pending = s.pending := by
  unfold capture; split <;> rfl
@[simp] theorem refuse_pending (m key reason value : Nat) (s : State) : (refuse m key reason value s).pending = s.pending := by
  simp [refuse]
@[simp] theorem capture_out (code part inst p0 p1 p2 : Nat) (s : State) : (capture code part inst p0 p1 p2 s).out = s.out := by
  unfold capture; split <;> rfl
@[simp] theorem refuse_out (m key reason value : Nat) (s : State) : (refuse m key reason value s).out = s.out := by
  simp [refuse]
@[simp] theorem capture_free (code part inst p0 p1 p2 : Nat) (s : State) : (capture code part inst p0 p1 p2 s).free = s.free := by
  unfold capture; split <;> rfl
@[simp] theorem refuse_free (m key reason value : Nat) (s : State) : (refuse m key reason value s).free = s.free := by
  simp [refuse]
@[simp] theorem capture_latches (code part inst p0 p1 p2 : Nat) (s : State) : (capture code part inst p0 p1 p2 s).latches = s.latches := by
  unfold capture; split <;> rfl
@[simp] theorem refuse_latches (m key reason value : Nat) (s : State) : (refuse m key reason value s).latches = s.latches := by
  simp [refuse]
@[simp] theorem capture_flash (code part inst p0 p1 p2 : Nat) (s : State) : (capture code part inst p0 p1 p2 s).flash = s.flash := by
  unfold capture; split <;> rfl
@[simp] theorem refuse_flash (m key reason value : Nat) (s : State) : (refuse m key reason value s).flash = s.flash := by
  simp [refuse]
@[simp] theorem capture_clk (code part inst p0 p1 p2 : Nat) (s : State) : (capture code part inst p0 p1 p2 s).clk = s.clk := by
  unfold capture; split <;> rfl
@[simp] theorem refuse_clk (m key reason value : Nat) (s : State) : (refuse m key reason value s).clk = s.clk := by
  simp [refuse]
@[simp] theorem capture_pw (code part inst p0 p1 p2 : Nat) (s : State) : (capture code part inst p0 p1 p2 s).pw = s.pw := by
  unfold capture; split <;> rfl
@[simp] theorem refuse_pw (m key reason value : Nat) (s : State) : (refuse m key reason value s).pw = s.pw := by
  simp [refuse]
@[simp] theorem capture_fab (code part inst p0 p1 p2 : Nat) (s : State) : (capture code part inst p0 p1 p2 s).fab = s.fab := by
  unfold capture; split <;> rfl
@[simp] theorem refuse_fab (m key reason value : Nat) (s : State) : (refuse m key reason value s).fab = s.fab := by
  simp [refuse]
@[simp] theorem capture_tl (code part inst p0 p1 p2 : Nat) (s : State) : (capture code part inst p0 p1 p2 s).tl = s.tl := by
  unfold capture; split <;> rfl
@[simp] theorem refuse_tl (m key reason value : Nat) (s : State) : (refuse m key reason value s).tl = s.tl := by
  simp [refuse]
@[simp] theorem capture_ci (code part inst p0 p1 p2 : Nat) (s : State) : (capture code part inst p0 p1 p2 s).ci = s.ci := by
  unfold capture; split <;> rfl
@[simp] theorem refuse_ci (m key reason value : Nat) (s : State) : (refuse m key reason value s).ci = s.ci := by
  simp [refuse]
@[simp] theorem capture_pt (code part inst p0 p1 p2 : Nat) (s : State) : (capture code part inst p0 p1 p2 s).pt = s.pt := by
  unfold capture; split <;> rfl
@[simp] theorem refuse_pt (m key reason value : Nat) (s : State) : (refuse m key reason value s).pt = s.pt := by
  simp [refuse]
@[simp] theorem capture_sy (code part inst p0 p1 p2 : Nat) (s : State) : (capture code part inst p0 p1 p2 s).sy = s.sy := by
  unfold capture; split <;> rfl
@[simp] theorem refuse_sy (m key reason value : Nat) (s : State) : (refuse m key reason value s).sy = s.sy := by
  simp [refuse]
@[simp] theorem capture_st (code part inst p0 p1 p2 : Nat) (s : State) : (capture code part inst p0 p1 p2 s).st = s.st := by
  unfold capture; split <;> rfl
@[simp] theorem refuse_st (m key reason value : Nat) (s : State) : (refuse m key reason value s).st = s.st := by
  simp [refuse]
@[simp] theorem capture_io (code part inst p0 p1 p2 : Nat) (s : State) : (capture code part inst p0 p1 p2 s).io = s.io := by
  unfold capture; split <;> rfl
@[simp] theorem refuse_io (m key reason value : Nat) (s : State) : (refuse m key reason value s).io = s.io := by
  simp [refuse]
@[simp] theorem touch_pending (key : Nat) (s : State) : (touch key s).pending = s.pending := by
  unfold touch expertWrite basicWrite; split <;> rfl
@[simp] theorem touch_out (key : Nat) (s : State) : (touch key s).out = s.out := by
  unfold touch expertWrite basicWrite; split <;> rfl
@[simp] theorem touch_free (key : Nat) (s : State) : (touch key s).free = s.free := by
  unfold touch expertWrite basicWrite; split <;> rfl
@[simp] theorem touch_latches (key : Nat) (s : State) : (touch key s).latches = s.latches := by
  unfold touch expertWrite basicWrite; split <;> rfl
@[simp] theorem touch_flash (key : Nat) (s : State) : (touch key s).flash = s.flash := by
  unfold touch expertWrite basicWrite; split <;> rfl
@[simp] theorem touch_clk (key : Nat) (s : State) : (touch key s).clk = s.clk := by
  unfold touch expertWrite basicWrite; split <;> rfl
@[simp] theorem touch_pw (key : Nat) (s : State) : (touch key s).pw = s.pw := by
  unfold touch expertWrite basicWrite; split <;> rfl
@[simp] theorem touch_fw (key : Nat) (s : State) : (touch key s).fw = s.fw := by
  unfold touch expertWrite basicWrite; split <;> rfl
@[simp] theorem touch_fab (key : Nat) (s : State) : (touch key s).fab = s.fab := by
  unfold touch expertWrite basicWrite; split <;> rfl
@[simp] theorem touch_tl (key : Nat) (s : State) : (touch key s).tl = s.tl := by
  unfold touch expertWrite basicWrite; split <;> rfl
@[simp] theorem touch_ci (key : Nat) (s : State) : (touch key s).ci = s.ci := by
  unfold touch expertWrite basicWrite; split <;> rfl
@[simp] theorem touch_pt (key : Nat) (s : State) : (touch key s).pt = s.pt := by
  unfold touch expertWrite basicWrite; split <;> rfl
@[simp] theorem touch_sy (key : Nat) (s : State) : (touch key s).sy = s.sy := by
  unfold touch expertWrite basicWrite; split <;> rfl
@[simp] theorem touch_st (key : Nat) (s : State) : (touch key s).st = s.st := by
  unfold touch expertWrite basicWrite; split <;> rfl
@[simp] theorem touch_io (key : Nat) (s : State) : (touch key s).io = s.io := by
  unfold touch expertWrite basicWrite; split <;> rfl
@[simp] theorem touch_now (key : Nat) (s : State) : (touch key s).now = s.now := by
  unfold touch expertWrite basicWrite; split <;> rfl
@[simp] theorem touch_alm (key : Nat) (s : State) : (touch key s).alm = s.alm := by
  unfold touch expertWrite basicWrite; split <;> rfl

/-! ### What an accessor reads after its update -/

@[simp] theorem getFrame_setFrame (k : Nat) (x : Frame) (s : State) : getFrame (setFrame k x s) k = x := by
  simp [getFrame, setFrame]
theorem getFrame_setFrame_other {j k : Nat} (x : Frame) (s : State) (h : j ≠ k) : getFrame (setFrame k x s) j = getFrame s j := by
  simp [getFrame, setFrame, mapGet_mapSet_other _ _ _ h]
@[simp] theorem getPart_setPart (k : Nat) (x : Part) (s : State) : getPart (setPart k x s) k = x := by
  simp [getPart, setPart]
theorem getPart_setPart_other {j k : Nat} (x : Part) (s : State) (h : j ≠ k) : getPart (setPart k x s) j = getPart s j := by
  simp [getPart, setPart, mapGet_mapSet_other _ _ _ h]
@[simp] theorem getSeq_setSeq (k : Nat) (x : Seq) (s : State) : getSeq (setSeq k x s) k = x := by
  simp [getSeq, setSeq]
theorem getSeq_setSeq_other {j k : Nat} (x : Seq) (s : State) (h : j ≠ k) : getSeq (setSeq k x s) j = getSeq s j := by
  simp [getSeq, setSeq, mapGet_mapSet_other _ _ _ h]
@[simp] theorem getPort_setPort (k : Nat) (x : Port) (s : State) : getPort (setPort k x s) k = x := by
  simp [getPort, setPort]
theorem getPort_setPort_other {j k : Nat} (x : Port) (s : State) (h : j ≠ k) : getPort (setPort k x s) j = getPort s j := by
  simp [getPort, setPort, mapGet_mapSet_other _ _ _ h]
@[simp] theorem getRing_setRing (k : Nat) (x : Ring) (s : State) : getRing (setRing k x s) k = x := by
  simp [getRing, setRing]
theorem getRing_setRing_other {j k : Nat} (x : Ring) (s : State) (h : j ≠ k) : getRing (setRing k x s) j = getRing s j := by
  simp [getRing, setRing, mapGet_mapSet_other _ _ _ h]
@[simp] theorem getAcct_setAcct (k : Nat) (x : Acct) (s : State) : getAcct (setAcct k x s) k = x := by
  simp [getAcct, setAcct]
theorem getAcct_setAcct_other {j k : Nat} (x : Acct) (s : State) (h : j ≠ k) : getAcct (setAcct k x s) j = getAcct s j := by
  simp [getAcct, setAcct, mapGet_mapSet_other _ _ _ h]
@[simp] theorem getBank_setBank (k : Nat) (x : Bank) (s : State) : getBank (setBank k x s) k = x := by
  simp [getBank, setBank]
theorem getBank_setBank_other {j k : Nat} (x : Bank) (s : State) (h : j ≠ k) : getBank (setBank k x s) j = getBank s j := by
  simp [getBank, setBank, mapGet_mapSet_other _ _ _ h]
@[simp] theorem getAudio_setAudio (k : Nat) (x : Audio) (s : State) : getAudio (setAudio k x s) k = x := by
  simp [getAudio, setAudio]
theorem getAudio_setAudio_other {j k : Nat} (x : Audio) (s : State) (h : j ≠ k) : getAudio (setAudio k x s) j = getAudio s j := by
  simp [getAudio, setAudio, mapGet_mapSet_other _ _ _ h]
@[simp] theorem getPath_setPath (k : Nat) (x : Path) (s : State) : getPath (setPath k x s) k = x := by
  simp [getPath, setPath]
theorem getPath_setPath_other {j k : Nat} (x : Path) (s : State) (h : j ≠ k) : getPath (setPath k x s) j = getPath s j := by
  simp [getPath, setPath, mapGet_mapSet_other _ _ _ h]
@[simp] theorem getC_setC (k : Nat) (x : CSlot) (s : State) : getC (setC k x s) k = x := by
  simp [getC, setC]
theorem getC_setC_other {j k : Nat} (x : CSlot) (s : State) (h : j ≠ k) : getC (setC k x s) j = getC s j := by
  simp [getC, setC, mapGet_mapSet_other _ _ _ h]
@[simp] theorem getOverlay_setOverlay (k : Nat) (x : Overlay) (s : State) : getOverlay (setOverlay k x s) k = x := by
  simp [getOverlay, setOverlay]
theorem getOverlay_setOverlay_other {j k : Nat} (x : Overlay) (s : State) (h : j ≠ k) : getOverlay (setOverlay k x s) j = getOverlay s j := by
  simp [getOverlay, setOverlay, mapGet_mapSet_other _ _ _ h]
@[simp] theorem getPcie_setPcie (k : Nat) (x : Pcie) (s : State) : getPcie (setPcie k x s) k = x := by
  simp [getPcie, setPcie]
theorem getPcie_setPcie_other {j k : Nat} (x : Pcie) (s : State) (h : j ≠ k) : getPcie (setPcie k x s) j = getPcie s j := by
  simp [getPcie, setPcie, mapGet_mapSet_other _ _ _ h]
@[simp] theorem getLink_setLink (k : Nat) (x : Link) (s : State) : getLink (setLink k x s) k = x := by
  simp [getLink, setLink]
theorem getLink_setLink_other {j k : Nat} (x : Link) (s : State) (h : j ≠ k) : getLink (setLink k x s) j = getLink s j := by
  simp [getLink, setLink, mapGet_mapSet_other _ _ _ h]
@[simp] theorem getWatched_setWatched (k : Nat) (x : List Watched) (s : State) : getWatched (setWatched k x s) k = x := by
  simp [getWatched, setWatched]
theorem getWatched_setWatched_other {j k : Nat} (x : List Watched) (s : State) (h : j ≠ k) : getWatched (setWatched k x s) j = getWatched s j := by
  simp [getWatched, setWatched, mapGet_mapSet_other _ _ _ h]
@[simp] theorem getLatches_setLatches (k : Nat) (x : Latches) (s : State) : getLatches (setLatches k x s) k = x := by
  simp [getLatches, setLatches]
theorem getLatches_setLatches_other {j k : Nat} (x : Latches) (s : State) (h : j ≠ k) : getLatches (setLatches k x s) j = getLatches s j := by
  simp [getLatches, setLatches, mapGet_mapSet_other _ _ _ h]
@[simp] theorem parkedOf_setParked (m : Nat) (l : List Parked) (s : State) : parkedOf (setParked m l s) m = l := by
  simp [parkedOf, setParked]
theorem parkedOf_setParked_other {j m : Nat} (l : List Parked) (s : State) (h : j ≠ m) : parkedOf (setParked m l s) j = parkedOf s j := by
  simp [parkedOf, setParked, mapGet_mapSet_other _ _ _ h]
@[simp] theorem unitHolder_setUnit (u v : Nat) (s : State) : unitHolder (setUnit u v s) u = v := by
  simp [unitHolder, setUnit]
theorem unitHolder_setUnit_other {j u : Nat} (v : Nat) (s : State) (h : j ≠ u) : unitHolder (setUnit u v s) j = unitHolder s j := by
  simp [unitHolder, setUnit, mapGet_mapSet_other _ _ _ h]
@[simp] theorem getQueue_setQueue (eng q : Nat) (x : Queue) (s : State) : getQueue (setQueue eng q x s) eng q = x := by
  simp [getQueue, setQueue]
theorem getQueue_setQueue_other {e f q r : Nat} (x : Queue) (s : State) (h : qKey e q ≠ qKey f r) : getQueue (setQueue f r x s) e q = getQueue s e q := by
  simp [getQueue, setQueue, mapGet_mapSet_other _ _ _ h]
@[simp] theorem getSlot_setSlot (eng q sl : Nat) (x : Slot) (s : State) : getSlot (setSlot eng q sl x s) eng q sl = x := by
  simp [getSlot, setSlot]
theorem getSlot_setSlot_other {e q l f r k : Nat} (x : Slot) (s : State) (h : sKey e q l ≠ sKey f r k) :
    getSlot (setSlot f r k x s) e q l = getSlot s e q l := by
  simp [getSlot, setSlot, mapGet_mapSet_other _ _ _ h]
@[simp] theorem getTag_setTag (t : Nat) (x : Tag) (s : State) : getTag (setTag t x s) t = some x := by
  simp [getTag, setTag]
theorem getTag_setTag_other {t u : Nat} (x : Tag) (s : State) (h : u ≠ t) : getTag (setTag t x s) u = getTag s u := by
  simp [getTag, setTag, mapFind_mapPut_other _ _ h]
@[simp] theorem getTag_freeTag (t : Nat) (s : State) : getTag (freeTag t s) t = none := by
  simp [getTag, freeTag, mapFind_mapErase]
@[simp] theorem getLatches_clearLatches (m : Nat) (s : State) : getLatches (clearLatches m s) m = Latches.init := by
  simp [getLatches, clearLatches]

/-- The keys of two slots agree only where engine, queue and slot do. -/
theorem sKey_inj {e q l f r k : Nat} (hq : q < 8) (hl : l < 256) (hr : r < 8) (hk : k < 256) : sKey e q l = sKey f r k ↔ e = f ∧ q = r ∧ l = k := by
  unfold sKey; omega

/-- The keys of two queues agree only where engine and queue do. -/
theorem qKey_inj {e q f r : Nat} (hq : q < 8) (hr : r < 8) : qKey e q = qKey f r ↔ e = f ∧ q = r := by
  unfold qKey; omega


/-! ### Accessors of other parts -/

@[simp] theorem getObj_flashErase (a n : Nat) (s : State) (k : Nat) : getObj (flashErase a n s) k = getObj s k := rfl
@[simp] theorem getQueue_flashErase (a n : Nat) (s : State) (e r : Nat) : getQueue (flashErase a n s) e r = getQueue s e r := rfl
@[simp] theorem getSlot_flashErase (a n : Nat) (s : State) (e r l : Nat) : getSlot (flashErase a n s) e r l = getSlot s e r l := rfl
@[simp] theorem getFrame_flashErase (a n : Nat) (s : State) (j : Nat) : getFrame (flashErase a n s) j = getFrame s j := rfl
@[simp] theorem unitHolder_flashErase (a n : Nat) (s : State) (j : Nat) : unitHolder (flashErase a n s) j = unitHolder s j := rfl
@[simp] theorem getPart_flashErase (a n : Nat) (s : State) (j : Nat) : getPart (flashErase a n s) j = getPart s j := rfl
@[simp] theorem getSeq_flashErase (a n : Nat) (s : State) (j : Nat) : getSeq (flashErase a n s) j = getSeq s j := rfl
@[simp] theorem getPort_flashErase (a n : Nat) (s : State) (j : Nat) : getPort (flashErase a n s) j = getPort s j := rfl
@[simp] theorem getRing_flashErase (a n : Nat) (s : State) (j : Nat) : getRing (flashErase a n s) j = getRing s j := rfl
@[simp] theorem getC_flashErase (a n : Nat) (s : State) (j : Nat) : getC (flashErase a n s) j = getC s j := rfl
@[simp] theorem getTag_flashErase (a n : Nat) (s : State) (j : Nat) : getTag (flashErase a n s) j = getTag s j := rfl
@[simp] theorem getObj_setDefect (e : Nat) (w : Nat × Nat) (s : State) (k : Nat) : getObj (setDefect e w s) k = getObj s k := rfl
@[simp] theorem getQueue_setDefect (e : Nat) (w : Nat × Nat) (s : State) (e' r : Nat) : getQueue (setDefect e w s) e' r = getQueue s e' r := rfl
@[simp] theorem getSlot_setDefect (e : Nat) (w : Nat × Nat) (s : State) (e' r l : Nat) : getSlot (setDefect e w s) e' r l = getSlot s e' r l := rfl
@[simp] theorem getFrame_setDefect (e : Nat) (w : Nat × Nat) (s : State) (j : Nat) : getFrame (setDefect e w s) j = getFrame s j := rfl
@[simp] theorem unitHolder_setDefect (e : Nat) (w : Nat × Nat) (s : State) (j : Nat) : unitHolder (setDefect e w s) j = unitHolder s j := rfl
@[simp] theorem getPart_setDefect (e : Nat) (w : Nat × Nat) (s : State) (j : Nat) : getPart (setDefect e w s) j = getPart s j := rfl
@[simp] theorem getSeq_setDefect (e : Nat) (w : Nat × Nat) (s : State) (j : Nat) : getSeq (setDefect e w s) j = getSeq s j := rfl
@[simp] theorem getPort_setDefect (e : Nat) (w : Nat × Nat) (s : State) (j : Nat) : getPort (setDefect e w s) j = getPort s j := rfl
@[simp] theorem getRing_setDefect (e : Nat) (w : Nat × Nat) (s : State) (j : Nat) : getRing (setDefect e w s) j = getRing s j := rfl
@[simp] theorem getC_setDefect (e : Nat) (w : Nat × Nat) (s : State) (j : Nat) : getC (setDefect e w s) j = getC s j := rfl
@[simp] theorem getTag_setDefect (e : Nat) (w : Nat × Nat) (s : State) (j : Nat) : getTag (setDefect e w s) j = getTag s j := rfl
@[simp] theorem getObj_updCan (f : Can → Can) (s : State) (k : Nat) : getObj (updCan f s) k = getObj s k := rfl
@[simp] theorem getQueue_updCan (f : Can → Can) (s : State) (e r : Nat) : getQueue (updCan f s) e r = getQueue s e r := rfl
@[simp] theorem getSlot_updCan (f : Can → Can) (s : State) (e r l : Nat) : getSlot (updCan f s) e r l = getSlot s e r l := rfl
@[simp] theorem getFrame_updCan (f : Can → Can) (s : State) (j : Nat) : getFrame (updCan f s) j = getFrame s j := rfl
@[simp] theorem unitHolder_updCan (f : Can → Can) (s : State) (j : Nat) : unitHolder (updCan f s) j = unitHolder s j := rfl
@[simp] theorem getPart_updCan (f : Can → Can) (s : State) (j : Nat) : getPart (updCan f s) j = getPart s j := rfl
@[simp] theorem getSeq_updCan (f : Can → Can) (s : State) (j : Nat) : getSeq (updCan f s) j = getSeq s j := rfl
@[simp] theorem getPort_updCan (f : Can → Can) (s : State) (j : Nat) : getPort (updCan f s) j = getPort s j := rfl
@[simp] theorem getRing_updCan (f : Can → Can) (s : State) (j : Nat) : getRing (updCan f s) j = getRing s j := rfl
@[simp] theorem getC_updCan (f : Can → Can) (s : State) (j : Nat) : getC (updCan f s) j = getC s j := rfl
@[simp] theorem getTag_updCan (f : Can → Can) (s : State) (j : Nat) : getTag (updCan f s) j = getTag s j := rfl
@[simp] theorem getObj_clearLatches (m : Nat) (s : State) (k : Nat) : getObj (clearLatches m s) k = getObj s k := rfl
@[simp] theorem getQueue_clearLatches (m : Nat) (s : State) (e r : Nat) : getQueue (clearLatches m s) e r = getQueue s e r := rfl
@[simp] theorem getSlot_clearLatches (m : Nat) (s : State) (e r l : Nat) : getSlot (clearLatches m s) e r l = getSlot s e r l := rfl
@[simp] theorem getFrame_clearLatches (m : Nat) (s : State) (j : Nat) : getFrame (clearLatches m s) j = getFrame s j := rfl
@[simp] theorem unitHolder_clearLatches (m : Nat) (s : State) (j : Nat) : unitHolder (clearLatches m s) j = unitHolder s j := rfl
@[simp] theorem getPart_clearLatches (m : Nat) (s : State) (j : Nat) : getPart (clearLatches m s) j = getPart s j := rfl
@[simp] theorem getSeq_clearLatches (m : Nat) (s : State) (j : Nat) : getSeq (clearLatches m s) j = getSeq s j := rfl
@[simp] theorem getPort_clearLatches (m : Nat) (s : State) (j : Nat) : getPort (clearLatches m s) j = getPort s j := rfl
@[simp] theorem getRing_clearLatches (m : Nat) (s : State) (j : Nat) : getRing (clearLatches m s) j = getRing s j := rfl
@[simp] theorem getC_clearLatches (m : Nat) (s : State) (j : Nat) : getC (clearLatches m s) j = getC s j := rfl
@[simp] theorem getTag_clearLatches (m : Nat) (s : State) (j : Nat) : getTag (clearLatches m s) j = getTag s j := rfl
@[simp] theorem getObj_setI2cByte (i v : Nat) (s : State) (k : Nat) : getObj (setI2cByte i v s) k = getObj s k := rfl
@[simp] theorem getQueue_setI2cByte (i v : Nat) (s : State) (e r : Nat) : getQueue (setI2cByte i v s) e r = getQueue s e r := rfl
@[simp] theorem getSlot_setI2cByte (i v : Nat) (s : State) (e r l : Nat) : getSlot (setI2cByte i v s) e r l = getSlot s e r l := rfl
@[simp] theorem getFrame_setI2cByte (i v : Nat) (s : State) (j : Nat) : getFrame (setI2cByte i v s) j = getFrame s j := rfl
@[simp] theorem unitHolder_setI2cByte (i v : Nat) (s : State) (j : Nat) : unitHolder (setI2cByte i v s) j = unitHolder s j := rfl
@[simp] theorem getPart_setI2cByte (i v : Nat) (s : State) (j : Nat) : getPart (setI2cByte i v s) j = getPart s j := rfl
@[simp] theorem getSeq_setI2cByte (i v : Nat) (s : State) (j : Nat) : getSeq (setI2cByte i v s) j = getSeq s j := rfl
@[simp] theorem getPort_setI2cByte (i v : Nat) (s : State) (j : Nat) : getPort (setI2cByte i v s) j = getPort s j := rfl
@[simp] theorem getRing_setI2cByte (i v : Nat) (s : State) (j : Nat) : getRing (setI2cByte i v s) j = getRing s j := rfl
@[simp] theorem getC_setI2cByte (i v : Nat) (s : State) (j : Nat) : getC (setI2cByte i v s) j = getC s j := rfl
@[simp] theorem getTag_setI2cByte (i v : Nat) (s : State) (j : Nat) : getTag (setI2cByte i v s) j = getTag s j := rfl
@[simp] theorem getObj_setLink (k : Nat) (x : Link) (s : State) (k' : Nat) : getObj (setLink k x s) k' = getObj s k' := rfl
@[simp] theorem getQueue_setLink (k : Nat) (x : Link) (s : State) (e r : Nat) : getQueue (setLink k x s) e r = getQueue s e r := rfl
@[simp] theorem getSlot_setLink (k : Nat) (x : Link) (s : State) (e r l : Nat) : getSlot (setLink k x s) e r l = getSlot s e r l := rfl
@[simp] theorem getFrame_setLink (k : Nat) (x : Link) (s : State) (j : Nat) : getFrame (setLink k x s) j = getFrame s j := rfl
@[simp] theorem unitHolder_setLink (k : Nat) (x : Link) (s : State) (j : Nat) : unitHolder (setLink k x s) j = unitHolder s j := rfl
@[simp] theorem getPart_setLink (k : Nat) (x : Link) (s : State) (j : Nat) : getPart (setLink k x s) j = getPart s j := rfl
@[simp] theorem getSeq_setLink (k : Nat) (x : Link) (s : State) (j : Nat) : getSeq (setLink k x s) j = getSeq s j := rfl
@[simp] theorem getPort_setLink (k : Nat) (x : Link) (s : State) (j : Nat) : getPort (setLink k x s) j = getPort s j := rfl
@[simp] theorem getRing_setLink (k : Nat) (x : Link) (s : State) (j : Nat) : getRing (setLink k x s) j = getRing s j := rfl
@[simp] theorem getC_setLink (k : Nat) (x : Link) (s : State) (j : Nat) : getC (setLink k x s) j = getC s j := rfl
@[simp] theorem getTag_setLink (k : Nat) (x : Link) (s : State) (j : Nat) : getTag (setLink k x s) j = getTag s j := rfl
@[simp] theorem getObj_setWatched (k : Nat) (ws : List Watched) (s : State) (k' : Nat) : getObj (setWatched k ws s) k' = getObj s k' := rfl
@[simp] theorem getQueue_setWatched (k : Nat) (ws : List Watched) (s : State) (e r : Nat) : getQueue (setWatched k ws s) e r = getQueue s e r := rfl
@[simp] theorem getSlot_setWatched (k : Nat) (ws : List Watched) (s : State) (e r l : Nat) : getSlot (setWatched k ws s) e r l = getSlot s e r l := rfl
@[simp] theorem getFrame_setWatched (k : Nat) (ws : List Watched) (s : State) (j : Nat) : getFrame (setWatched k ws s) j = getFrame s j := rfl
@[simp] theorem unitHolder_setWatched (k : Nat) (ws : List Watched) (s : State) (j : Nat) : unitHolder (setWatched k ws s) j = unitHolder s j := rfl
@[simp] theorem getPart_setWatched (k : Nat) (ws : List Watched) (s : State) (j : Nat) : getPart (setWatched k ws s) j = getPart s j := rfl
@[simp] theorem getSeq_setWatched (k : Nat) (ws : List Watched) (s : State) (j : Nat) : getSeq (setWatched k ws s) j = getSeq s j := rfl
@[simp] theorem getPort_setWatched (k : Nat) (ws : List Watched) (s : State) (j : Nat) : getPort (setWatched k ws s) j = getPort s j := rfl
@[simp] theorem getRing_setWatched (k : Nat) (ws : List Watched) (s : State) (j : Nat) : getRing (setWatched k ws s) j = getRing s j := rfl
@[simp] theorem getC_setWatched (k : Nat) (ws : List Watched) (s : State) (j : Nat) : getC (setWatched k ws s) j = getC s j := rfl
@[simp] theorem getTag_setWatched (k : Nat) (ws : List Watched) (s : State) (j : Nat) : getTag (setWatched k ws s) j = getTag s j := rfl
@[simp] theorem getQueue_setObj (key v : Nat) (s : State) (e r : Nat) : getQueue (setObj key v s) e r = getQueue s e r := rfl
@[simp] theorem getSlot_setObj (key v : Nat) (s : State) (e r l : Nat) : getSlot (setObj key v s) e r l = getSlot s e r l := rfl
@[simp] theorem getFrame_setObj (key v : Nat) (s : State) (j : Nat) : getFrame (setObj key v s) j = getFrame s j := rfl
@[simp] theorem unitHolder_setObj (key v : Nat) (s : State) (j : Nat) : unitHolder (setObj key v s) j = unitHolder s j := rfl
@[simp] theorem getPart_setObj (key v : Nat) (s : State) (j : Nat) : getPart (setObj key v s) j = getPart s j := rfl
@[simp] theorem getSeq_setObj (key v : Nat) (s : State) (j : Nat) : getSeq (setObj key v s) j = getSeq s j := rfl
@[simp] theorem getPort_setObj (key v : Nat) (s : State) (j : Nat) : getPort (setObj key v s) j = getPort s j := rfl
@[simp] theorem getRing_setObj (key v : Nat) (s : State) (j : Nat) : getRing (setObj key v s) j = getRing s j := rfl
@[simp] theorem getC_setObj (key v : Nat) (s : State) (j : Nat) : getC (setObj key v s) j = getC s j := rfl
@[simp] theorem getTag_setObj (key v : Nat) (s : State) (j : Nat) : getTag (setObj key v s) j = getTag s j := rfl
@[simp] theorem getQueue_dropObjs (f : Nat → Bool) (s : State) (e r : Nat) : getQueue (dropObjs f s) e r = getQueue s e r := rfl
@[simp] theorem getSlot_dropObjs (f : Nat → Bool) (s : State) (e r l : Nat) : getSlot (dropObjs f s) e r l = getSlot s e r l := rfl
@[simp] theorem getFrame_dropObjs (f : Nat → Bool) (s : State) (j : Nat) : getFrame (dropObjs f s) j = getFrame s j := rfl
@[simp] theorem unitHolder_dropObjs (f : Nat → Bool) (s : State) (j : Nat) : unitHolder (dropObjs f s) j = unitHolder s j := rfl
@[simp] theorem getPart_dropObjs (f : Nat → Bool) (s : State) (j : Nat) : getPart (dropObjs f s) j = getPart s j := rfl
@[simp] theorem getSeq_dropObjs (f : Nat → Bool) (s : State) (j : Nat) : getSeq (dropObjs f s) j = getSeq s j := rfl
@[simp] theorem getPort_dropObjs (f : Nat → Bool) (s : State) (j : Nat) : getPort (dropObjs f s) j = getPort s j := rfl
@[simp] theorem getRing_dropObjs (f : Nat → Bool) (s : State) (j : Nat) : getRing (dropObjs f s) j = getRing s j := rfl
@[simp] theorem getC_dropObjs (f : Nat → Bool) (s : State) (j : Nat) : getC (dropObjs f s) j = getC s j := rfl
@[simp] theorem getTag_dropObjs (f : Nat → Bool) (s : State) (j : Nat) : getTag (dropObjs f s) j = getTag s j := rfl
@[simp] theorem getObj_emit (e : Emission) (s : State) (k : Nat) : getObj (emit e s) k = getObj s k := rfl
@[simp] theorem getQueue_emit (e : Emission) (s : State) (e' r : Nat) : getQueue (emit e s) e' r = getQueue s e' r := rfl
@[simp] theorem getSlot_emit (e : Emission) (s : State) (e' r l : Nat) : getSlot (emit e s) e' r l = getSlot s e' r l := rfl
@[simp] theorem getFrame_emit (e : Emission) (s : State) (j : Nat) : getFrame (emit e s) j = getFrame s j := rfl
@[simp] theorem unitHolder_emit (e : Emission) (s : State) (j : Nat) : unitHolder (emit e s) j = unitHolder s j := rfl
@[simp] theorem getPart_emit (e : Emission) (s : State) (j : Nat) : getPart (emit e s) j = getPart s j := rfl
@[simp] theorem getSeq_emit (e : Emission) (s : State) (j : Nat) : getSeq (emit e s) j = getSeq s j := rfl
@[simp] theorem getPort_emit (e : Emission) (s : State) (j : Nat) : getPort (emit e s) j = getPort s j := rfl
@[simp] theorem getRing_emit (e : Emission) (s : State) (j : Nat) : getRing (emit e s) j = getRing s j := rfl
@[simp] theorem getC_emit (e : Emission) (s : State) (j : Nat) : getC (emit e s) j = getC s j := rfl
@[simp] theorem getTag_emit (e : Emission) (s : State) (j : Nat) : getTag (emit e s) j = getTag s j := rfl
@[simp] theorem getObj_setLatches (m : Nat) (l : Latches) (s : State) (k : Nat) : getObj (setLatches m l s) k = getObj s k := rfl
@[simp] theorem getQueue_setLatches (m : Nat) (l : Latches) (s : State) (e r : Nat) : getQueue (setLatches m l s) e r = getQueue s e r := rfl
@[simp] theorem getSlot_setLatches (m : Nat) (l : Latches) (s : State) (e r l' : Nat) : getSlot (setLatches m l s) e r l' = getSlot s e r l' := rfl
@[simp] theorem getFrame_setLatches (m : Nat) (l : Latches) (s : State) (j : Nat) : getFrame (setLatches m l s) j = getFrame s j := rfl
@[simp] theorem unitHolder_setLatches (m : Nat) (l : Latches) (s : State) (j : Nat) : unitHolder (setLatches m l s) j = unitHolder s j := rfl
@[simp] theorem getPart_setLatches (m : Nat) (l : Latches) (s : State) (j : Nat) : getPart (setLatches m l s) j = getPart s j := rfl
@[simp] theorem getSeq_setLatches (m : Nat) (l : Latches) (s : State) (j : Nat) : getSeq (setLatches m l s) j = getSeq s j := rfl
@[simp] theorem getPort_setLatches (m : Nat) (l : Latches) (s : State) (j : Nat) : getPort (setLatches m l s) j = getPort s j := rfl
@[simp] theorem getRing_setLatches (m : Nat) (l : Latches) (s : State) (j : Nat) : getRing (setLatches m l s) j = getRing s j := rfl
@[simp] theorem getC_setLatches (m : Nat) (l : Latches) (s : State) (j : Nat) : getC (setLatches m l s) j = getC s j := rfl
@[simp] theorem getTag_setLatches (m : Nat) (l : Latches) (s : State) (j : Nat) : getTag (setLatches m l s) j = getTag s j := rfl
@[simp] theorem getObj_useFree (s : State) (k : Nat) : getObj (useFree s) k = getObj s k := rfl
@[simp] theorem getQueue_useFree (s : State) (e r : Nat) : getQueue (useFree s) e r = getQueue s e r := rfl
@[simp] theorem getSlot_useFree (s : State) (e r l : Nat) : getSlot (useFree s) e r l = getSlot s e r l := rfl
@[simp] theorem getFrame_useFree (s : State) (j : Nat) : getFrame (useFree s) j = getFrame s j := rfl
@[simp] theorem unitHolder_useFree (s : State) (j : Nat) : unitHolder (useFree s) j = unitHolder s j := rfl
@[simp] theorem getPart_useFree (s : State) (j : Nat) : getPart (useFree s) j = getPart s j := rfl
@[simp] theorem getSeq_useFree (s : State) (j : Nat) : getSeq (useFree s) j = getSeq s j := rfl
@[simp] theorem getPort_useFree (s : State) (j : Nat) : getPort (useFree s) j = getPort s j := rfl
@[simp] theorem getRing_useFree (s : State) (j : Nat) : getRing (useFree s) j = getRing s j := rfl
@[simp] theorem getC_useFree (s : State) (j : Nat) : getC (useFree s) j = getC s j := rfl
@[simp] theorem getTag_useFree (s : State) (j : Nat) : getTag (useFree s) j = getTag s j := rfl
@[simp] theorem getObj_setPcie (i : Nat) (p : Pcie) (s : State) (k : Nat) : getObj (setPcie i p s) k = getObj s k := rfl
@[simp] theorem getQueue_setPcie (i : Nat) (p : Pcie) (s : State) (e r : Nat) : getQueue (setPcie i p s) e r = getQueue s e r := rfl
@[simp] theorem getSlot_setPcie (i : Nat) (p : Pcie) (s : State) (e r l : Nat) : getSlot (setPcie i p s) e r l = getSlot s e r l := rfl
@[simp] theorem getFrame_setPcie (i : Nat) (p : Pcie) (s : State) (j : Nat) : getFrame (setPcie i p s) j = getFrame s j := rfl
@[simp] theorem unitHolder_setPcie (i : Nat) (p : Pcie) (s : State) (j : Nat) : unitHolder (setPcie i p s) j = unitHolder s j := rfl
@[simp] theorem getPart_setPcie (i : Nat) (p : Pcie) (s : State) (j : Nat) : getPart (setPcie i p s) j = getPart s j := rfl
@[simp] theorem getSeq_setPcie (i : Nat) (p : Pcie) (s : State) (j : Nat) : getSeq (setPcie i p s) j = getSeq s j := rfl
@[simp] theorem getPort_setPcie (i : Nat) (p : Pcie) (s : State) (j : Nat) : getPort (setPcie i p s) j = getPort s j := rfl
@[simp] theorem getRing_setPcie (i : Nat) (p : Pcie) (s : State) (j : Nat) : getRing (setPcie i p s) j = getRing s j := rfl
@[simp] theorem getC_setPcie (i : Nat) (p : Pcie) (s : State) (j : Nat) : getC (setPcie i p s) j = getC s j := rfl
@[simp] theorem getTag_setPcie (i : Nat) (p : Pcie) (s : State) (j : Nat) : getTag (setPcie i p s) j = getTag s j := rfl
@[simp] theorem getObj_setPart (p : Nat) (x : Part) (s : State) (k : Nat) : getObj (setPart p x s) k = getObj s k := rfl
@[simp] theorem getQueue_setPart (p : Nat) (x : Part) (s : State) (e r : Nat) : getQueue (setPart p x s) e r = getQueue s e r := rfl
@[simp] theorem getSlot_setPart (p : Nat) (x : Part) (s : State) (e r l : Nat) : getSlot (setPart p x s) e r l = getSlot s e r l := rfl
@[simp] theorem getFrame_setPart (p : Nat) (x : Part) (s : State) (j : Nat) : getFrame (setPart p x s) j = getFrame s j := rfl
@[simp] theorem unitHolder_setPart (p : Nat) (x : Part) (s : State) (j : Nat) : unitHolder (setPart p x s) j = unitHolder s j := rfl
@[simp] theorem getSeq_setPart (p : Nat) (x : Part) (s : State) (j : Nat) : getSeq (setPart p x s) j = getSeq s j := rfl
@[simp] theorem getPort_setPart (p : Nat) (x : Part) (s : State) (j : Nat) : getPort (setPart p x s) j = getPort s j := rfl
@[simp] theorem getRing_setPart (p : Nat) (x : Part) (s : State) (j : Nat) : getRing (setPart p x s) j = getRing s j := rfl
@[simp] theorem getC_setPart (p : Nat) (x : Part) (s : State) (j : Nat) : getC (setPart p x s) j = getC s j := rfl
@[simp] theorem getTag_setPart (p : Nat) (x : Part) (s : State) (j : Nat) : getTag (setPart p x s) j = getTag s j := rfl
@[simp] theorem getObj_setSeq (k : Nat) (x : Seq) (s : State) (k' : Nat) : getObj (setSeq k x s) k' = getObj s k' := rfl
@[simp] theorem getQueue_setSeq (k : Nat) (x : Seq) (s : State) (e r : Nat) : getQueue (setSeq k x s) e r = getQueue s e r := rfl
@[simp] theorem getSlot_setSeq (k : Nat) (x : Seq) (s : State) (e r l : Nat) : getSlot (setSeq k x s) e r l = getSlot s e r l := rfl
@[simp] theorem getFrame_setSeq (k : Nat) (x : Seq) (s : State) (j : Nat) : getFrame (setSeq k x s) j = getFrame s j := rfl
@[simp] theorem unitHolder_setSeq (k : Nat) (x : Seq) (s : State) (j : Nat) : unitHolder (setSeq k x s) j = unitHolder s j := rfl
@[simp] theorem getPart_setSeq (k : Nat) (x : Seq) (s : State) (j : Nat) : getPart (setSeq k x s) j = getPart s j := rfl
@[simp] theorem getPort_setSeq (k : Nat) (x : Seq) (s : State) (j : Nat) : getPort (setSeq k x s) j = getPort s j := rfl
@[simp] theorem getRing_setSeq (k : Nat) (x : Seq) (s : State) (j : Nat) : getRing (setSeq k x s) j = getRing s j := rfl
@[simp] theorem getC_setSeq (k : Nat) (x : Seq) (s : State) (j : Nat) : getC (setSeq k x s) j = getC s j := rfl
@[simp] theorem getTag_setSeq (k : Nat) (x : Seq) (s : State) (j : Nat) : getTag (setSeq k x s) j = getTag s j := rfl
@[simp] theorem getObj_setPort (p : Nat) (x : Port) (s : State) (k : Nat) : getObj (setPort p x s) k = getObj s k := rfl
@[simp] theorem getQueue_setPort (p : Nat) (x : Port) (s : State) (e r : Nat) : getQueue (setPort p x s) e r = getQueue s e r := rfl
@[simp] theorem getSlot_setPort (p : Nat) (x : Port) (s : State) (e r l : Nat) : getSlot (setPort p x s) e r l = getSlot s e r l := rfl
@[simp] theorem getFrame_setPort (p : Nat) (x : Port) (s : State) (j : Nat) : getFrame (setPort p x s) j = getFrame s j := rfl
@[simp] theorem unitHolder_setPort (p : Nat) (x : Port) (s : State) (j : Nat) : unitHolder (setPort p x s) j = unitHolder s j := rfl
@[simp] theorem getPart_setPort (p : Nat) (x : Port) (s : State) (j : Nat) : getPart (setPort p x s) j = getPart s j := rfl
@[simp] theorem getSeq_setPort (p : Nat) (x : Port) (s : State) (j : Nat) : getSeq (setPort p x s) j = getSeq s j := rfl
@[simp] theorem getRing_setPort (p : Nat) (x : Port) (s : State) (j : Nat) : getRing (setPort p x s) j = getRing s j := rfl
@[simp] theorem getC_setPort (p : Nat) (x : Port) (s : State) (j : Nat) : getC (setPort p x s) j = getC s j := rfl
@[simp] theorem getTag_setPort (p : Nat) (x : Port) (s : State) (j : Nat) : getTag (setPort p x s) j = getTag s j := rfl
@[simp] theorem getObj_setRing (r : Nat) (x : Ring) (s : State) (k : Nat) : getObj (setRing r x s) k = getObj s k := rfl
@[simp] theorem getQueue_setRing (r : Nat) (x : Ring) (s : State) (e r' : Nat) : getQueue (setRing r x s) e r' = getQueue s e r' := rfl
@[simp] theorem getSlot_setRing (r : Nat) (x : Ring) (s : State) (e r' l : Nat) : getSlot (setRing r x s) e r' l = getSlot s e r' l := rfl
@[simp] theorem getFrame_setRing (r : Nat) (x : Ring) (s : State) (j : Nat) : getFrame (setRing r x s) j = getFrame s j := rfl
@[simp] theorem unitHolder_setRing (r : Nat) (x : Ring) (s : State) (j : Nat) : unitHolder (setRing r x s) j = unitHolder s j := rfl
@[simp] theorem getPart_setRing (r : Nat) (x : Ring) (s : State) (j : Nat) : getPart (setRing r x s) j = getPart s j := rfl
@[simp] theorem getSeq_setRing (r : Nat) (x : Ring) (s : State) (j : Nat) : getSeq (setRing r x s) j = getSeq s j := rfl
@[simp] theorem getPort_setRing (r : Nat) (x : Ring) (s : State) (j : Nat) : getPort (setRing r x s) j = getPort s j := rfl
@[simp] theorem getC_setRing (r : Nat) (x : Ring) (s : State) (j : Nat) : getC (setRing r x s) j = getC s j := rfl
@[simp] theorem getTag_setRing (r : Nat) (x : Ring) (s : State) (j : Nat) : getTag (setRing r x s) j = getTag s j := rfl
@[simp] theorem getObj_setQueue (eng q : Nat) (x : Queue) (s : State) (k : Nat) : getObj (setQueue eng q x s) k = getObj s k := rfl
@[simp] theorem getSlot_setQueue (eng q : Nat) (x : Queue) (s : State) (e r l : Nat) : getSlot (setQueue eng q x s) e r l = getSlot s e r l := rfl
@[simp] theorem getFrame_setQueue (eng q : Nat) (x : Queue) (s : State) (j : Nat) : getFrame (setQueue eng q x s) j = getFrame s j := rfl
@[simp] theorem unitHolder_setQueue (eng q : Nat) (x : Queue) (s : State) (j : Nat) : unitHolder (setQueue eng q x s) j = unitHolder s j := rfl
@[simp] theorem getPart_setQueue (eng q : Nat) (x : Queue) (s : State) (j : Nat) : getPart (setQueue eng q x s) j = getPart s j := rfl
@[simp] theorem getSeq_setQueue (eng q : Nat) (x : Queue) (s : State) (j : Nat) : getSeq (setQueue eng q x s) j = getSeq s j := rfl
@[simp] theorem getPort_setQueue (eng q : Nat) (x : Queue) (s : State) (j : Nat) : getPort (setQueue eng q x s) j = getPort s j := rfl
@[simp] theorem getRing_setQueue (eng q : Nat) (x : Queue) (s : State) (j : Nat) : getRing (setQueue eng q x s) j = getRing s j := rfl
@[simp] theorem getC_setQueue (eng q : Nat) (x : Queue) (s : State) (j : Nat) : getC (setQueue eng q x s) j = getC s j := rfl
@[simp] theorem getTag_setQueue (eng q : Nat) (x : Queue) (s : State) (j : Nat) : getTag (setQueue eng q x s) j = getTag s j := rfl
@[simp] theorem getObj_setSlot (eng q sl : Nat) (x : Slot) (s : State) (k : Nat) : getObj (setSlot eng q sl x s) k = getObj s k := rfl
@[simp] theorem getQueue_setSlot (eng q sl : Nat) (x : Slot) (s : State) (e r : Nat) : getQueue (setSlot eng q sl x s) e r = getQueue s e r := rfl
@[simp] theorem getFrame_setSlot (eng q sl : Nat) (x : Slot) (s : State) (j : Nat) : getFrame (setSlot eng q sl x s) j = getFrame s j := rfl
@[simp] theorem unitHolder_setSlot (eng q sl : Nat) (x : Slot) (s : State) (j : Nat) : unitHolder (setSlot eng q sl x s) j = unitHolder s j := rfl
@[simp] theorem getPart_setSlot (eng q sl : Nat) (x : Slot) (s : State) (j : Nat) : getPart (setSlot eng q sl x s) j = getPart s j := rfl
@[simp] theorem getSeq_setSlot (eng q sl : Nat) (x : Slot) (s : State) (j : Nat) : getSeq (setSlot eng q sl x s) j = getSeq s j := rfl
@[simp] theorem getPort_setSlot (eng q sl : Nat) (x : Slot) (s : State) (j : Nat) : getPort (setSlot eng q sl x s) j = getPort s j := rfl
@[simp] theorem getRing_setSlot (eng q sl : Nat) (x : Slot) (s : State) (j : Nat) : getRing (setSlot eng q sl x s) j = getRing s j := rfl
@[simp] theorem getC_setSlot (eng q sl : Nat) (x : Slot) (s : State) (j : Nat) : getC (setSlot eng q sl x s) j = getC s j := rfl
@[simp] theorem getTag_setSlot (eng q sl : Nat) (x : Slot) (s : State) (j : Nat) : getTag (setSlot eng q sl x s) j = getTag s j := rfl
@[simp] theorem getObj_setFrame (k : Nat) (f : Frame) (s : State) (k' : Nat) : getObj (setFrame k f s) k' = getObj s k' := rfl
@[simp] theorem getQueue_setFrame (k : Nat) (f : Frame) (s : State) (e r : Nat) : getQueue (setFrame k f s) e r = getQueue s e r := rfl
@[simp] theorem getSlot_setFrame (k : Nat) (f : Frame) (s : State) (e r l : Nat) : getSlot (setFrame k f s) e r l = getSlot s e r l := rfl
@[simp] theorem unitHolder_setFrame (k : Nat) (f : Frame) (s : State) (j : Nat) : unitHolder (setFrame k f s) j = unitHolder s j := rfl
@[simp] theorem getPart_setFrame (k : Nat) (f : Frame) (s : State) (j : Nat) : getPart (setFrame k f s) j = getPart s j := rfl
@[simp] theorem getSeq_setFrame (k : Nat) (f : Frame) (s : State) (j : Nat) : getSeq (setFrame k f s) j = getSeq s j := rfl
@[simp] theorem getPort_setFrame (k : Nat) (f : Frame) (s : State) (j : Nat) : getPort (setFrame k f s) j = getPort s j := rfl
@[simp] theorem getRing_setFrame (k : Nat) (f : Frame) (s : State) (j : Nat) : getRing (setFrame k f s) j = getRing s j := rfl
@[simp] theorem getC_setFrame (k : Nat) (f : Frame) (s : State) (j : Nat) : getC (setFrame k f s) j = getC s j := rfl
@[simp] theorem getTag_setFrame (k : Nat) (f : Frame) (s : State) (j : Nat) : getTag (setFrame k f s) j = getTag s j := rfl
@[simp] theorem getObj_setPageMap (tile lp v : Nat) (s : State) (k : Nat) : getObj (setPageMap tile lp v s) k = getObj s k := rfl
@[simp] theorem getQueue_setPageMap (tile lp v : Nat) (s : State) (e r : Nat) : getQueue (setPageMap tile lp v s) e r = getQueue s e r := rfl
@[simp] theorem getSlot_setPageMap (tile lp v : Nat) (s : State) (e r l : Nat) : getSlot (setPageMap tile lp v s) e r l = getSlot s e r l := rfl
@[simp] theorem getFrame_setPageMap (tile lp v : Nat) (s : State) (j : Nat) : getFrame (setPageMap tile lp v s) j = getFrame s j := rfl
@[simp] theorem unitHolder_setPageMap (tile lp v : Nat) (s : State) (j : Nat) : unitHolder (setPageMap tile lp v s) j = unitHolder s j := rfl
@[simp] theorem getPart_setPageMap (tile lp v : Nat) (s : State) (j : Nat) : getPart (setPageMap tile lp v s) j = getPart s j := rfl
@[simp] theorem getSeq_setPageMap (tile lp v : Nat) (s : State) (j : Nat) : getSeq (setPageMap tile lp v s) j = getSeq s j := rfl
@[simp] theorem getPort_setPageMap (tile lp v : Nat) (s : State) (j : Nat) : getPort (setPageMap tile lp v s) j = getPort s j := rfl
@[simp] theorem getRing_setPageMap (tile lp v : Nat) (s : State) (j : Nat) : getRing (setPageMap tile lp v s) j = getRing s j := rfl
@[simp] theorem getC_setPageMap (tile lp v : Nat) (s : State) (j : Nat) : getC (setPageMap tile lp v s) j = getC s j := rfl
@[simp] theorem getTag_setPageMap (tile lp v : Nat) (s : State) (j : Nat) : getTag (setPageMap tile lp v s) j = getTag s j := rfl
@[simp] theorem getObj_setOverlay (k : Nat) (x : Overlay) (s : State) (k' : Nat) : getObj (setOverlay k x s) k' = getObj s k' := rfl
@[simp] theorem getQueue_setOverlay (k : Nat) (x : Overlay) (s : State) (e r : Nat) : getQueue (setOverlay k x s) e r = getQueue s e r := rfl
@[simp] theorem getSlot_setOverlay (k : Nat) (x : Overlay) (s : State) (e r l : Nat) : getSlot (setOverlay k x s) e r l = getSlot s e r l := rfl
@[simp] theorem getFrame_setOverlay (k : Nat) (x : Overlay) (s : State) (j : Nat) : getFrame (setOverlay k x s) j = getFrame s j := rfl
@[simp] theorem unitHolder_setOverlay (k : Nat) (x : Overlay) (s : State) (j : Nat) : unitHolder (setOverlay k x s) j = unitHolder s j := rfl
@[simp] theorem getPart_setOverlay (k : Nat) (x : Overlay) (s : State) (j : Nat) : getPart (setOverlay k x s) j = getPart s j := rfl
@[simp] theorem getSeq_setOverlay (k : Nat) (x : Overlay) (s : State) (j : Nat) : getSeq (setOverlay k x s) j = getSeq s j := rfl
@[simp] theorem getPort_setOverlay (k : Nat) (x : Overlay) (s : State) (j : Nat) : getPort (setOverlay k x s) j = getPort s j := rfl
@[simp] theorem getRing_setOverlay (k : Nat) (x : Overlay) (s : State) (j : Nat) : getRing (setOverlay k x s) j = getRing s j := rfl
@[simp] theorem getC_setOverlay (k : Nat) (x : Overlay) (s : State) (j : Nat) : getC (setOverlay k x s) j = getC s j := rfl
@[simp] theorem getTag_setOverlay (k : Nat) (x : Overlay) (s : State) (j : Nat) : getTag (setOverlay k x s) j = getTag s j := rfl
@[simp] theorem getObj_setSyncCount (i v : Nat) (s : State) (k : Nat) : getObj (setSyncCount i v s) k = getObj s k := rfl
@[simp] theorem getQueue_setSyncCount (i v : Nat) (s : State) (e r : Nat) : getQueue (setSyncCount i v s) e r = getQueue s e r := rfl
@[simp] theorem getSlot_setSyncCount (i v : Nat) (s : State) (e r l : Nat) : getSlot (setSyncCount i v s) e r l = getSlot s e r l := rfl
@[simp] theorem getFrame_setSyncCount (i v : Nat) (s : State) (j : Nat) : getFrame (setSyncCount i v s) j = getFrame s j := rfl
@[simp] theorem unitHolder_setSyncCount (i v : Nat) (s : State) (j : Nat) : unitHolder (setSyncCount i v s) j = unitHolder s j := rfl
@[simp] theorem getPart_setSyncCount (i v : Nat) (s : State) (j : Nat) : getPart (setSyncCount i v s) j = getPart s j := rfl
@[simp] theorem getSeq_setSyncCount (i v : Nat) (s : State) (j : Nat) : getSeq (setSyncCount i v s) j = getSeq s j := rfl
@[simp] theorem getPort_setSyncCount (i v : Nat) (s : State) (j : Nat) : getPort (setSyncCount i v s) j = getPort s j := rfl
@[simp] theorem getRing_setSyncCount (i v : Nat) (s : State) (j : Nat) : getRing (setSyncCount i v s) j = getRing s j := rfl
@[simp] theorem getC_setSyncCount (i v : Nat) (s : State) (j : Nat) : getC (setSyncCount i v s) j = getC s j := rfl
@[simp] theorem getTag_setSyncCount (i v : Nat) (s : State) (j : Nat) : getTag (setSyncCount i v s) j = getTag s j := rfl
@[simp] theorem getObj_setBank (b : Nat) (x : Bank) (s : State) (k : Nat) : getObj (setBank b x s) k = getObj s k := rfl
@[simp] theorem getQueue_setBank (b : Nat) (x : Bank) (s : State) (e r : Nat) : getQueue (setBank b x s) e r = getQueue s e r := rfl
@[simp] theorem getSlot_setBank (b : Nat) (x : Bank) (s : State) (e r l : Nat) : getSlot (setBank b x s) e r l = getSlot s e r l := rfl
@[simp] theorem getFrame_setBank (b : Nat) (x : Bank) (s : State) (j : Nat) : getFrame (setBank b x s) j = getFrame s j := rfl
@[simp] theorem unitHolder_setBank (b : Nat) (x : Bank) (s : State) (j : Nat) : unitHolder (setBank b x s) j = unitHolder s j := rfl
@[simp] theorem getPart_setBank (b : Nat) (x : Bank) (s : State) (j : Nat) : getPart (setBank b x s) j = getPart s j := rfl
@[simp] theorem getSeq_setBank (b : Nat) (x : Bank) (s : State) (j : Nat) : getSeq (setBank b x s) j = getSeq s j := rfl
@[simp] theorem getPort_setBank (b : Nat) (x : Bank) (s : State) (j : Nat) : getPort (setBank b x s) j = getPort s j := rfl
@[simp] theorem getRing_setBank (b : Nat) (x : Bank) (s : State) (j : Nat) : getRing (setBank b x s) j = getRing s j := rfl
@[simp] theorem getC_setBank (b : Nat) (x : Bank) (s : State) (j : Nat) : getC (setBank b x s) j = getC s j := rfl
@[simp] theorem getTag_setBank (b : Nat) (x : Bank) (s : State) (j : Nat) : getTag (setBank b x s) j = getTag s j := rfl
@[simp] theorem getObj_setAcct (k : Nat) (a : Acct) (s : State) (k' : Nat) : getObj (setAcct k a s) k' = getObj s k' := rfl
@[simp] theorem getQueue_setAcct (k : Nat) (a : Acct) (s : State) (e r : Nat) : getQueue (setAcct k a s) e r = getQueue s e r := rfl
@[simp] theorem getSlot_setAcct (k : Nat) (a : Acct) (s : State) (e r l : Nat) : getSlot (setAcct k a s) e r l = getSlot s e r l := rfl
@[simp] theorem getFrame_setAcct (k : Nat) (a : Acct) (s : State) (j : Nat) : getFrame (setAcct k a s) j = getFrame s j := rfl
@[simp] theorem unitHolder_setAcct (k : Nat) (a : Acct) (s : State) (j : Nat) : unitHolder (setAcct k a s) j = unitHolder s j := rfl
@[simp] theorem getPart_setAcct (k : Nat) (a : Acct) (s : State) (j : Nat) : getPart (setAcct k a s) j = getPart s j := rfl
@[simp] theorem getSeq_setAcct (k : Nat) (a : Acct) (s : State) (j : Nat) : getSeq (setAcct k a s) j = getSeq s j := rfl
@[simp] theorem getPort_setAcct (k : Nat) (a : Acct) (s : State) (j : Nat) : getPort (setAcct k a s) j = getPort s j := rfl
@[simp] theorem getRing_setAcct (k : Nat) (a : Acct) (s : State) (j : Nat) : getRing (setAcct k a s) j = getRing s j := rfl
@[simp] theorem getC_setAcct (k : Nat) (a : Acct) (s : State) (j : Nat) : getC (setAcct k a s) j = getC s j := rfl
@[simp] theorem getTag_setAcct (k : Nat) (a : Acct) (s : State) (j : Nat) : getTag (setAcct k a s) j = getTag s j := rfl
@[simp] theorem getObj_setUnit (u v : Nat) (s : State) (k : Nat) : getObj (setUnit u v s) k = getObj s k := rfl
@[simp] theorem getQueue_setUnit (u v : Nat) (s : State) (e r : Nat) : getQueue (setUnit u v s) e r = getQueue s e r := rfl
@[simp] theorem getSlot_setUnit (u v : Nat) (s : State) (e r l : Nat) : getSlot (setUnit u v s) e r l = getSlot s e r l := rfl
@[simp] theorem getFrame_setUnit (u v : Nat) (s : State) (j : Nat) : getFrame (setUnit u v s) j = getFrame s j := rfl
@[simp] theorem getPart_setUnit (u v : Nat) (s : State) (j : Nat) : getPart (setUnit u v s) j = getPart s j := rfl
@[simp] theorem getSeq_setUnit (u v : Nat) (s : State) (j : Nat) : getSeq (setUnit u v s) j = getSeq s j := rfl
@[simp] theorem getPort_setUnit (u v : Nat) (s : State) (j : Nat) : getPort (setUnit u v s) j = getPort s j := rfl
@[simp] theorem getRing_setUnit (u v : Nat) (s : State) (j : Nat) : getRing (setUnit u v s) j = getRing s j := rfl
@[simp] theorem getC_setUnit (u v : Nat) (s : State) (j : Nat) : getC (setUnit u v s) j = getC s j := rfl
@[simp] theorem getTag_setUnit (u v : Nat) (s : State) (j : Nat) : getTag (setUnit u v s) j = getTag s j := rfl
@[simp] theorem getObj_setAudio (k : Nat) (x : Audio) (s : State) (k' : Nat) : getObj (setAudio k x s) k' = getObj s k' := rfl
@[simp] theorem getQueue_setAudio (k : Nat) (x : Audio) (s : State) (e r : Nat) : getQueue (setAudio k x s) e r = getQueue s e r := rfl
@[simp] theorem getSlot_setAudio (k : Nat) (x : Audio) (s : State) (e r l : Nat) : getSlot (setAudio k x s) e r l = getSlot s e r l := rfl
@[simp] theorem getFrame_setAudio (k : Nat) (x : Audio) (s : State) (j : Nat) : getFrame (setAudio k x s) j = getFrame s j := rfl
@[simp] theorem unitHolder_setAudio (k : Nat) (x : Audio) (s : State) (j : Nat) : unitHolder (setAudio k x s) j = unitHolder s j := rfl
@[simp] theorem getPart_setAudio (k : Nat) (x : Audio) (s : State) (j : Nat) : getPart (setAudio k x s) j = getPart s j := rfl
@[simp] theorem getSeq_setAudio (k : Nat) (x : Audio) (s : State) (j : Nat) : getSeq (setAudio k x s) j = getSeq s j := rfl
@[simp] theorem getPort_setAudio (k : Nat) (x : Audio) (s : State) (j : Nat) : getPort (setAudio k x s) j = getPort s j := rfl
@[simp] theorem getRing_setAudio (k : Nat) (x : Audio) (s : State) (j : Nat) : getRing (setAudio k x s) j = getRing s j := rfl
@[simp] theorem getC_setAudio (k : Nat) (x : Audio) (s : State) (j : Nat) : getC (setAudio k x s) j = getC s j := rfl
@[simp] theorem getTag_setAudio (k : Nat) (x : Audio) (s : State) (j : Nat) : getTag (setAudio k x s) j = getTag s j := rfl
@[simp] theorem getObj_setPath (j : Nat) (x : Path) (s : State) (k : Nat) : getObj (setPath j x s) k = getObj s k := rfl
@[simp] theorem getQueue_setPath (j : Nat) (x : Path) (s : State) (e r : Nat) : getQueue (setPath j x s) e r = getQueue s e r := rfl
@[simp] theorem getSlot_setPath (j : Nat) (x : Path) (s : State) (e r l : Nat) : getSlot (setPath j x s) e r l = getSlot s e r l := rfl
@[simp] theorem getFrame_setPath (j : Nat) (x : Path) (s : State) (j' : Nat) : getFrame (setPath j x s) j' = getFrame s j' := rfl
@[simp] theorem unitHolder_setPath (j : Nat) (x : Path) (s : State) (j' : Nat) : unitHolder (setPath j x s) j' = unitHolder s j' := rfl
@[simp] theorem getPart_setPath (j : Nat) (x : Path) (s : State) (j' : Nat) : getPart (setPath j x s) j' = getPart s j' := rfl
@[simp] theorem getSeq_setPath (j : Nat) (x : Path) (s : State) (j' : Nat) : getSeq (setPath j x s) j' = getSeq s j' := rfl
@[simp] theorem getPort_setPath (j : Nat) (x : Path) (s : State) (j' : Nat) : getPort (setPath j x s) j' = getPort s j' := rfl
@[simp] theorem getRing_setPath (j : Nat) (x : Path) (s : State) (j' : Nat) : getRing (setPath j x s) j' = getRing s j' := rfl
@[simp] theorem getC_setPath (j : Nat) (x : Path) (s : State) (j' : Nat) : getC (setPath j x s) j' = getC s j' := rfl
@[simp] theorem getTag_setPath (j : Nat) (x : Path) (s : State) (j' : Nat) : getTag (setPath j x s) j' = getTag s j' := rfl
@[simp] theorem getObj_setC (key : Nat) (c : CSlot) (s : State) (k : Nat) : getObj (setC key c s) k = getObj s k := rfl
@[simp] theorem getQueue_setC (key : Nat) (c : CSlot) (s : State) (e r : Nat) : getQueue (setC key c s) e r = getQueue s e r := rfl
@[simp] theorem getSlot_setC (key : Nat) (c : CSlot) (s : State) (e r l : Nat) : getSlot (setC key c s) e r l = getSlot s e r l := rfl
@[simp] theorem getFrame_setC (key : Nat) (c : CSlot) (s : State) (j : Nat) : getFrame (setC key c s) j = getFrame s j := rfl
@[simp] theorem unitHolder_setC (key : Nat) (c : CSlot) (s : State) (j : Nat) : unitHolder (setC key c s) j = unitHolder s j := rfl
@[simp] theorem getPart_setC (key : Nat) (c : CSlot) (s : State) (j : Nat) : getPart (setC key c s) j = getPart s j := rfl
@[simp] theorem getSeq_setC (key : Nat) (c : CSlot) (s : State) (j : Nat) : getSeq (setC key c s) j = getSeq s j := rfl
@[simp] theorem getPort_setC (key : Nat) (c : CSlot) (s : State) (j : Nat) : getPort (setC key c s) j = getPort s j := rfl
@[simp] theorem getRing_setC (key : Nat) (c : CSlot) (s : State) (j : Nat) : getRing (setC key c s) j = getRing s j := rfl
@[simp] theorem getTag_setC (key : Nat) (c : CSlot) (s : State) (j : Nat) : getTag (setC key c s) j = getTag s j := rfl
@[simp] theorem getObj_setVersions (p q : Nat) (vs : List Version) (s : State) (k : Nat) : getObj (setVersions p q vs s) k = getObj s k := rfl
@[simp] theorem getQueue_setVersions (p q : Nat) (vs : List Version) (s : State) (e r : Nat) : getQueue (setVersions p q vs s) e r = getQueue s e r := rfl
@[simp] theorem getSlot_setVersions (p q : Nat) (vs : List Version) (s : State) (e r l : Nat) : getSlot (setVersions p q vs s) e r l = getSlot s e r l := rfl
@[simp] theorem getFrame_setVersions (p q : Nat) (vs : List Version) (s : State) (j : Nat) : getFrame (setVersions p q vs s) j = getFrame s j := rfl
@[simp] theorem unitHolder_setVersions (p q : Nat) (vs : List Version) (s : State) (j : Nat) : unitHolder (setVersions p q vs s) j = unitHolder s j := rfl
@[simp] theorem getPart_setVersions (p q : Nat) (vs : List Version) (s : State) (j : Nat) : getPart (setVersions p q vs s) j = getPart s j := rfl
@[simp] theorem getSeq_setVersions (p q : Nat) (vs : List Version) (s : State) (j : Nat) : getSeq (setVersions p q vs s) j = getSeq s j := rfl
@[simp] theorem getPort_setVersions (p q : Nat) (vs : List Version) (s : State) (j : Nat) : getPort (setVersions p q vs s) j = getPort s j := rfl
@[simp] theorem getRing_setVersions (p q : Nat) (vs : List Version) (s : State) (j : Nat) : getRing (setVersions p q vs s) j = getRing s j := rfl
@[simp] theorem getC_setVersions (p q : Nat) (vs : List Version) (s : State) (j : Nat) : getC (setVersions p q vs s) j = getC s j := rfl
@[simp] theorem getTag_setVersions (p q : Nat) (vs : List Version) (s : State) (j : Nat) : getTag (setVersions p q vs s) j = getTag s j := rfl
@[simp] theorem getObj_setTag (t : Nat) (x : Tag) (s : State) (k : Nat) : getObj (setTag t x s) k = getObj s k := rfl
@[simp] theorem getQueue_setTag (t : Nat) (x : Tag) (s : State) (e r : Nat) : getQueue (setTag t x s) e r = getQueue s e r := rfl
@[simp] theorem getSlot_setTag (t : Nat) (x : Tag) (s : State) (e r l : Nat) : getSlot (setTag t x s) e r l = getSlot s e r l := rfl
@[simp] theorem getFrame_setTag (t : Nat) (x : Tag) (s : State) (j : Nat) : getFrame (setTag t x s) j = getFrame s j := rfl
@[simp] theorem unitHolder_setTag (t : Nat) (x : Tag) (s : State) (j : Nat) : unitHolder (setTag t x s) j = unitHolder s j := rfl
@[simp] theorem getPart_setTag (t : Nat) (x : Tag) (s : State) (j : Nat) : getPart (setTag t x s) j = getPart s j := rfl
@[simp] theorem getSeq_setTag (t : Nat) (x : Tag) (s : State) (j : Nat) : getSeq (setTag t x s) j = getSeq s j := rfl
@[simp] theorem getPort_setTag (t : Nat) (x : Tag) (s : State) (j : Nat) : getPort (setTag t x s) j = getPort s j := rfl
@[simp] theorem getRing_setTag (t : Nat) (x : Tag) (s : State) (j : Nat) : getRing (setTag t x s) j = getRing s j := rfl
@[simp] theorem getC_setTag (t : Nat) (x : Tag) (s : State) (j : Nat) : getC (setTag t x s) j = getC s j := rfl
@[simp] theorem getObj_freeTag (t : Nat) (s : State) (k : Nat) : getObj (freeTag t s) k = getObj s k := rfl
@[simp] theorem getQueue_freeTag (t : Nat) (s : State) (e r : Nat) : getQueue (freeTag t s) e r = getQueue s e r := rfl
@[simp] theorem getSlot_freeTag (t : Nat) (s : State) (e r l : Nat) : getSlot (freeTag t s) e r l = getSlot s e r l := rfl
@[simp] theorem getFrame_freeTag (t : Nat) (s : State) (j : Nat) : getFrame (freeTag t s) j = getFrame s j := rfl
@[simp] theorem unitHolder_freeTag (t : Nat) (s : State) (j : Nat) : unitHolder (freeTag t s) j = unitHolder s j := rfl
@[simp] theorem getPart_freeTag (t : Nat) (s : State) (j : Nat) : getPart (freeTag t s) j = getPart s j := rfl
@[simp] theorem getSeq_freeTag (t : Nat) (s : State) (j : Nat) : getSeq (freeTag t s) j = getSeq s j := rfl
@[simp] theorem getPort_freeTag (t : Nat) (s : State) (j : Nat) : getPort (freeTag t s) j = getPort s j := rfl
@[simp] theorem getRing_freeTag (t : Nat) (s : State) (j : Nat) : getRing (freeTag t s) j = getRing s j := rfl
@[simp] theorem getC_freeTag (t : Nat) (s : State) (j : Nat) : getC (freeTag t s) j = getC s j := rfl
@[simp] theorem getQueue_addObj (key n : Nat) (s : State) (e r : Nat) : getQueue (addObj key n s) e r = getQueue s e r := rfl
@[simp] theorem getSlot_addObj (key n : Nat) (s : State) (e r l : Nat) : getSlot (addObj key n s) e r l = getSlot s e r l := rfl
@[simp] theorem getFrame_addObj (key n : Nat) (s : State) (j : Nat) : getFrame (addObj key n s) j = getFrame s j := rfl
@[simp] theorem unitHolder_addObj (key n : Nat) (s : State) (j : Nat) : unitHolder (addObj key n s) j = unitHolder s j := rfl
@[simp] theorem getPart_addObj (key n : Nat) (s : State) (j : Nat) : getPart (addObj key n s) j = getPart s j := rfl
@[simp] theorem getSeq_addObj (key n : Nat) (s : State) (j : Nat) : getSeq (addObj key n s) j = getSeq s j := rfl
@[simp] theorem getPort_addObj (key n : Nat) (s : State) (j : Nat) : getPort (addObj key n s) j = getPort s j := rfl
@[simp] theorem getRing_addObj (key n : Nat) (s : State) (j : Nat) : getRing (addObj key n s) j = getRing s j := rfl
@[simp] theorem getC_addObj (key n : Nat) (s : State) (j : Nat) : getC (addObj key n s) j = getC s j := rfl
@[simp] theorem getTag_addObj (key n : Nat) (s : State) (j : Nat) : getTag (addObj key n s) j = getTag s j := rfl
@[simp] theorem getQueue_setField (key msb lsb v : Nat) (s : State) (e r : Nat) : getQueue (setField key msb lsb v s) e r = getQueue s e r := rfl
@[simp] theorem getSlot_setField (key msb lsb v : Nat) (s : State) (e r l : Nat) : getSlot (setField key msb lsb v s) e r l = getSlot s e r l := rfl
@[simp] theorem getFrame_setField (key msb lsb v : Nat) (s : State) (j : Nat) : getFrame (setField key msb lsb v s) j = getFrame s j := rfl
@[simp] theorem unitHolder_setField (key msb lsb v : Nat) (s : State) (j : Nat) : unitHolder (setField key msb lsb v s) j = unitHolder s j := rfl
@[simp] theorem getPart_setField (key msb lsb v : Nat) (s : State) (j : Nat) : getPart (setField key msb lsb v s) j = getPart s j := rfl
@[simp] theorem getSeq_setField (key msb lsb v : Nat) (s : State) (j : Nat) : getSeq (setField key msb lsb v s) j = getSeq s j := rfl
@[simp] theorem getPort_setField (key msb lsb v : Nat) (s : State) (j : Nat) : getPort (setField key msb lsb v s) j = getPort s j := rfl
@[simp] theorem getRing_setField (key msb lsb v : Nat) (s : State) (j : Nat) : getRing (setField key msb lsb v s) j = getRing s j := rfl
@[simp] theorem getC_setField (key msb lsb v : Nat) (s : State) (j : Nat) : getC (setField key msb lsb v s) j = getC s j := rfl
@[simp] theorem getTag_setField (key msb lsb v : Nat) (s : State) (j : Nat) : getTag (setField key msb lsb v s) j = getTag s j := rfl
@[simp] theorem getQueue_satAddObj (key n : Nat) (s : State) (e r : Nat) : getQueue (satAddObj key n s) e r = getQueue s e r := rfl
@[simp] theorem getSlot_satAddObj (key n : Nat) (s : State) (e r l : Nat) : getSlot (satAddObj key n s) e r l = getSlot s e r l := rfl
@[simp] theorem getFrame_satAddObj (key n : Nat) (s : State) (j : Nat) : getFrame (satAddObj key n s) j = getFrame s j := rfl
@[simp] theorem unitHolder_satAddObj (key n : Nat) (s : State) (j : Nat) : unitHolder (satAddObj key n s) j = unitHolder s j := rfl
@[simp] theorem getPart_satAddObj (key n : Nat) (s : State) (j : Nat) : getPart (satAddObj key n s) j = getPart s j := rfl
@[simp] theorem getSeq_satAddObj (key n : Nat) (s : State) (j : Nat) : getSeq (satAddObj key n s) j = getSeq s j := rfl
@[simp] theorem getPort_satAddObj (key n : Nat) (s : State) (j : Nat) : getPort (satAddObj key n s) j = getPort s j := rfl
@[simp] theorem getRing_satAddObj (key n : Nat) (s : State) (j : Nat) : getRing (satAddObj key n s) j = getRing s j := rfl
@[simp] theorem getC_satAddObj (key n : Nat) (s : State) (j : Nat) : getC (satAddObj key n s) j = getC s j := rfl
@[simp] theorem getTag_satAddObj (key n : Nat) (s : State) (j : Nat) : getTag (satAddObj key n s) j = getTag s j := rfl
@[simp] theorem getObj_updPart (p : Nat) (f : Part → Part) (s : State) (k : Nat) : getObj (updPart p f s) k = getObj s k := rfl
@[simp] theorem getQueue_updPart (p : Nat) (f : Part → Part) (s : State) (e r : Nat) : getQueue (updPart p f s) e r = getQueue s e r := rfl
@[simp] theorem getSlot_updPart (p : Nat) (f : Part → Part) (s : State) (e r l : Nat) : getSlot (updPart p f s) e r l = getSlot s e r l := rfl
@[simp] theorem getFrame_updPart (p : Nat) (f : Part → Part) (s : State) (j : Nat) : getFrame (updPart p f s) j = getFrame s j := rfl
@[simp] theorem unitHolder_updPart (p : Nat) (f : Part → Part) (s : State) (j : Nat) : unitHolder (updPart p f s) j = unitHolder s j := rfl
@[simp] theorem getSeq_updPart (p : Nat) (f : Part → Part) (s : State) (j : Nat) : getSeq (updPart p f s) j = getSeq s j := rfl
@[simp] theorem getPort_updPart (p : Nat) (f : Part → Part) (s : State) (j : Nat) : getPort (updPart p f s) j = getPort s j := rfl
@[simp] theorem getRing_updPart (p : Nat) (f : Part → Part) (s : State) (j : Nat) : getRing (updPart p f s) j = getRing s j := rfl
@[simp] theorem getC_updPart (p : Nat) (f : Part → Part) (s : State) (j : Nat) : getC (updPart p f s) j = getC s j := rfl
@[simp] theorem getTag_updPart (p : Nat) (f : Part → Part) (s : State) (j : Nat) : getTag (updPart p f s) j = getTag s j := rfl
@[simp] theorem getObj_updSlot (eng q sl : Nat) (f : Slot → Slot) (s : State) (k : Nat) : getObj (updSlot eng q sl f s) k = getObj s k := rfl
@[simp] theorem getQueue_updSlot (eng q sl : Nat) (f : Slot → Slot) (s : State) (e r : Nat) : getQueue (updSlot eng q sl f s) e r = getQueue s e r := rfl
@[simp] theorem getFrame_updSlot (eng q sl : Nat) (f : Slot → Slot) (s : State) (j : Nat) : getFrame (updSlot eng q sl f s) j = getFrame s j := rfl
@[simp] theorem unitHolder_updSlot (eng q sl : Nat) (f : Slot → Slot) (s : State) (j : Nat) : unitHolder (updSlot eng q sl f s) j = unitHolder s j := rfl
@[simp] theorem getPart_updSlot (eng q sl : Nat) (f : Slot → Slot) (s : State) (j : Nat) : getPart (updSlot eng q sl f s) j = getPart s j := rfl
@[simp] theorem getSeq_updSlot (eng q sl : Nat) (f : Slot → Slot) (s : State) (j : Nat) : getSeq (updSlot eng q sl f s) j = getSeq s j := rfl
@[simp] theorem getPort_updSlot (eng q sl : Nat) (f : Slot → Slot) (s : State) (j : Nat) : getPort (updSlot eng q sl f s) j = getPort s j := rfl
@[simp] theorem getRing_updSlot (eng q sl : Nat) (f : Slot → Slot) (s : State) (j : Nat) : getRing (updSlot eng q sl f s) j = getRing s j := rfl
@[simp] theorem getC_updSlot (eng q sl : Nat) (f : Slot → Slot) (s : State) (j : Nat) : getC (updSlot eng q sl f s) j = getC s j := rfl
@[simp] theorem getTag_updSlot (eng q sl : Nat) (f : Slot → Slot) (s : State) (j : Nat) : getTag (updSlot eng q sl f s) j = getTag s j := rfl
@[simp] theorem getObj_updSeq (k : Nat) (f : Seq → Seq) (s : State) (k' : Nat) : getObj (updSeq k f s) k' = getObj s k' := rfl
@[simp] theorem getQueue_updSeq (k : Nat) (f : Seq → Seq) (s : State) (e r : Nat) : getQueue (updSeq k f s) e r = getQueue s e r := rfl
@[simp] theorem getSlot_updSeq (k : Nat) (f : Seq → Seq) (s : State) (e r l : Nat) : getSlot (updSeq k f s) e r l = getSlot s e r l := rfl
@[simp] theorem getFrame_updSeq (k : Nat) (f : Seq → Seq) (s : State) (j : Nat) : getFrame (updSeq k f s) j = getFrame s j := rfl
@[simp] theorem unitHolder_updSeq (k : Nat) (f : Seq → Seq) (s : State) (j : Nat) : unitHolder (updSeq k f s) j = unitHolder s j := rfl
@[simp] theorem getPart_updSeq (k : Nat) (f : Seq → Seq) (s : State) (j : Nat) : getPart (updSeq k f s) j = getPart s j := rfl
@[simp] theorem getPort_updSeq (k : Nat) (f : Seq → Seq) (s : State) (j : Nat) : getPort (updSeq k f s) j = getPort s j := rfl
@[simp] theorem getRing_updSeq (k : Nat) (f : Seq → Seq) (s : State) (j : Nat) : getRing (updSeq k f s) j = getRing s j := rfl
@[simp] theorem getC_updSeq (k : Nat) (f : Seq → Seq) (s : State) (j : Nat) : getC (updSeq k f s) j = getC s j := rfl
@[simp] theorem getTag_updSeq (k : Nat) (f : Seq → Seq) (s : State) (j : Nat) : getTag (updSeq k f s) j = getTag s j := rfl
@[simp] theorem getObj_updWatched (k o : Nat) (f : Watched → Watched) (s : State) (k' : Nat) : getObj (updWatched k o f s) k' = getObj s k' := rfl
@[simp] theorem getQueue_updWatched (k o : Nat) (f : Watched → Watched) (s : State) (e r : Nat) : getQueue (updWatched k o f s) e r = getQueue s e r := rfl
@[simp] theorem getSlot_updWatched (k o : Nat) (f : Watched → Watched) (s : State) (e r l : Nat) : getSlot (updWatched k o f s) e r l = getSlot s e r l := rfl
@[simp] theorem getFrame_updWatched (k o : Nat) (f : Watched → Watched) (s : State) (j : Nat) : getFrame (updWatched k o f s) j = getFrame s j := rfl
@[simp] theorem unitHolder_updWatched (k o : Nat) (f : Watched → Watched) (s : State) (j : Nat) : unitHolder (updWatched k o f s) j = unitHolder s j := rfl
@[simp] theorem getPart_updWatched (k o : Nat) (f : Watched → Watched) (s : State) (j : Nat) : getPart (updWatched k o f s) j = getPart s j := rfl
@[simp] theorem getSeq_updWatched (k o : Nat) (f : Watched → Watched) (s : State) (j : Nat) : getSeq (updWatched k o f s) j = getSeq s j := rfl
@[simp] theorem getPort_updWatched (k o : Nat) (f : Watched → Watched) (s : State) (j : Nat) : getPort (updWatched k o f s) j = getPort s j := rfl
@[simp] theorem getRing_updWatched (k o : Nat) (f : Watched → Watched) (s : State) (j : Nat) : getRing (updWatched k o f s) j = getRing s j := rfl
@[simp] theorem getC_updWatched (k o : Nat) (f : Watched → Watched) (s : State) (j : Nat) : getC (updWatched k o f s) j = getC s j := rfl
@[simp] theorem getTag_updWatched (k o : Nat) (f : Watched → Watched) (s : State) (j : Nat) : getTag (updWatched k o f s) j = getTag s j := rfl

end Sys2Proof.Machine
end

