-- ==== Sys2Proof/Laws/Ops.lean ====
section
/-!
SUPPORT. What each shared operation can do, said once: objects, fields, latches, answers, refused writes, records, acknowledgements, and the outcome of a command with the clocks running or stopped.
-/

namespace Sys2Proof.Machine

/-! ### Objects -/

theorem objWidth_le (key : Nat) : objWidth key ≤ 64 := by
  unfold objWidth; split <;> omega

/-- An object reads what was written, in its width (R448). -/
@[simp] theorem getObj_setObj (key v : Nat) (s : State) : getObj (setObj key v s) key = v % 2 ^ objWidth key := by
  have h : 2 ^ objWidth key ≤ 2 ^ 64 := Nat.pow_le_pow_right (by decide) (objWidth_le key)
  have h2 : v % 2 ^ objWidth key < 2 ^ 64 := Nat.lt_of_lt_of_le (Nat.mod_lt _ (Nat.two_pow_pos _)) h
  simpa [getObj, setObj] using h2

/-- Other objects read as before. -/
theorem getObj_setObj_other {j key : Nat} (v : Nat) (s : State) (h : j ≠ key) : getObj (setObj key v s) j = getObj s j := by
  simp [getObj, setObj, mapFind_mapPut_other _ _ h]

@[simp] theorem getObj_addObj (key n : Nat) (s : State) : getObj (addObj key n s) key = (getObj s key + n) % 2 ^ objWidth key := by
  simp [addObj]

theorem getObj_addObj_other {j key : Nat} (n : Nat) (s : State) (h : j ≠ key) : getObj (addObj key n s) j = getObj s j := getObj_setObj_other _ _ h

theorem getObj_setField_other {j key : Nat} (a b v : Nat) (s : State) (h : j ≠ key) : getObj (setField key a b v s) j = getObj s j :=
  getObj_setObj_other _ _ h

/-- An object of a sound state fits its width. -/
theorem mapFind_mem {α : Type} {m : SMap α} {i : Nat} {v : α} (h : mapFind m i = some v) : (i, v) ∈ m := by
  induction m with
  | nil => simp [mapFind] at h
  | cons e m ih =>
    obtain ⟨k, w⟩ := e
    simp only [mapFind] at h
    split at h
    · simp_all
    · exact List.mem_cons_of_mem _ (ih h)

/-- A listed object of a sound state is below two to its width (R448). -/
theorem listed_lt {s : State} (hc : Canonical s) {key : Nat} {v : DWord} (h : mapFind s.objs key = some v) : getObj s key < 2 ^ objWidth key := by
  have := hc.width _ (mapFind_mem h)
  simpa [getObj, h] using this

/-! ### Fields of an object -/

/-- A field is below two to its width. -/
theorem bits_lt (v a b : Nat) : bits v a b < 2 ^ (a + 1 - b) := Nat.mod_lt _ (Nat.two_pow_pos _)

/-- A value with a field replaced is its rest plus the field. -/
theorem setBits_split (v a b x : Nat) :
    setBits v a b x = v % 2 ^ b + 2 ^ b * (x % 2 ^ (a + 1 - b)) + 2 ^ b * (2 ^ (a + 1 - b) * (v / 2 ^ b / 2 ^ (a + 1 - b))) := by
  have h1 := Nat.mod_add_div v (2 ^ b)
  have h2 := Nat.mod_add_div (v / 2 ^ b) (2 ^ (a + 1 - b))
  have h3 : 2 ^ b * (v / 2 ^ b) =
      2 ^ b * (v / 2 ^ b % 2 ^ (a + 1 - b)) + 2 ^ b * (2 ^ (a + 1 - b) * (v / 2 ^ b / 2 ^ (a + 1 - b))) := by
    rw [← Nat.mul_add, h2]
  unfold setBits bits
  rw [Nat.mul_comm (v / 2 ^ b % 2 ^ (a + 1 - b)), Nat.mul_comm (x % 2 ^ (a + 1 - b))]
  omega

/-- The field that was set reads the value, in the field's width (R6). -/
theorem bits_setBits (v a b x : Nat) : bits (setBits v a b x) a b = x % 2 ^ (a + 1 - b) := by
  rw [setBits_split]
  unfold bits
  rw [Nat.add_assoc, ← Nat.mul_add, Nat.add_mul_div_left _ _ (Nat.two_pow_pos b), Nat.div_eq_of_lt (Nat.mod_lt _ (Nat.two_pow_pos b)), Nat.zero_add,
    Nat.add_mul_mod_self_left, Nat.mod_mod]

/-- A field below the one that was set reads as before. -/
theorem bits_setBits_below (v a b x c d : Nat) (h : c < b) : bits (setBits v a b x) c d = bits v c d := by
  by_cases hd : d ≤ c
  · have hb : 2 ^ b = 2 ^ d * 2 ^ (b - d) := by rw [← Nat.pow_add]; congr 1; omega
    have hw : 2 ^ (b - d) = 2 ^ (c + 1 - d) * 2 ^ (b - (c + 1)) := by rw [← Nat.pow_add]; congr 1; omega
    have key : ∀ y r, bits (r + 2 ^ b * y) c d = bits r c d := by
      intro y r
      unfold bits
      rw [hb, Nat.mul_assoc, Nat.add_mul_div_left _ _ (Nat.two_pow_pos d), hw, Nat.mul_assoc, Nat.add_mul_mod_self_left]
    have hv : v = v % 2 ^ b + 2 ^ b * (v / 2 ^ b) := (Nat.mod_add_div v (2 ^ b)).symm
    rw [setBits_split, Nat.add_assoc, ← Nat.mul_add, key]
    conv_rhs => rw [hv, key]
  · unfold bits
    have : c + 1 - d = 0 := by omega
    rw [this]; simp [Nat.mod_one]

/-- A field above the one that was set reads as before. -/
theorem bits_setBits_above (v a b x c d : Nat) (hab : b ≤ a + 1) (h : a < d) : bits (setBits v a b x) c d = bits v c d := by
  have hd : 2 ^ d = 2 ^ b * (2 ^ (a + 1 - b) * 2 ^ (d - (a + 1))) := by rw [← Nat.pow_add, ← Nat.pow_add]; congr 1; omega
  have key : ∀ r y, r < 2 ^ b → ∀ z, z < 2 ^ (a + 1 - b) → (r + 2 ^ b * z + 2 ^ b * (2 ^ (a + 1 - b) * y)) / 2 ^ d = y / 2 ^ (d - (a + 1)) := by
    intro r y hr z hz
    rw [hd, ← Nat.div_div_eq_div_mul, Nat.add_assoc, ← Nat.mul_add, Nat.add_mul_div_left _ _ (Nat.two_pow_pos b), Nat.div_eq_of_lt hr, Nat.zero_add,
      ← Nat.div_div_eq_div_mul, Nat.add_mul_div_left _ _ (Nat.two_pow_pos _), Nat.div_eq_of_lt hz, Nat.zero_add]
  have hv : v = v % 2 ^ b + 2 ^ b * (v / 2 ^ b % 2 ^ (a + 1 - b)) + 2 ^ b * (2 ^ (a + 1 - b) * (v / 2 ^ b / 2 ^ (a + 1 - b))) := by
    rw [Nat.add_assoc, ← Nat.mul_add, Nat.mod_add_div, Nat.mod_add_div]
  unfold bits
  rw [setBits_split, key _ _ (Nat.mod_lt _ (Nat.two_pow_pos _)) _ (Nat.mod_lt _ (Nat.two_pow_pos _))]
  conv_rhs => rw [hv, key _ _ (Nat.mod_lt _ (Nat.two_pow_pos _)) _ (Nat.mod_lt _ (Nat.two_pow_pos _))]

/-- A field inside the width reads the same from the truncated value. -/
theorem bits_mod (v w a b : Nat) (h : a < w) : bits (v % 2 ^ w) a b = bits v a b := by
  by_cases hb : b ≤ a
  · have hw : 2 ^ w = 2 ^ b * 2 ^ (w - b) := by rw [← Nat.pow_add]; congr 1; omega
    have hd : 2 ^ (w - b) = 2 ^ (a + 1 - b) * 2 ^ (w - (a + 1)) := by rw [← Nat.pow_add]; congr 1; omega
    unfold bits
    rw [hw, Nat.mod_mul_right_div_self, hd, Nat.mod_mul_right_mod]
  · unfold bits
    have : a + 1 - b = 0 := by omega
    rw [this]; simp [Nat.mod_one]

/-- A field of an object that was set reads the value, in the field's width. -/
theorem getField_setField (key a b v : Nat) (s : State) (h : a < objWidth key) : getField (setField key a b v s) key a b = v % 2 ^ (a + 1 - b) := by
  rw [getField, setField, getObj_setObj, bits_mod _ _ _ _ h, bits_setBits]

theorem getField_setField_below (key a b v c d : Nat) (s : State) (h : c < objWidth key) (h2 : c < b) :
    getField (setField key a b v s) key c d = getField s key c d := by
  rw [getField, setField, getObj_setObj, bits_mod _ _ _ _ h, bits_setBits_below _ _ _ _ _ _ h2]; rfl

theorem getField_setField_above (key a b v c d : Nat) (s : State) (h : c < objWidth key) (hab : b ≤ a + 1) (h2 : a < d) :
    getField (setField key a b v s) key c d = getField s key c d := by
  rw [getField, setField, getObj_setObj, bits_mod _ _ _ _ h, bits_setBits_above _ _ _ _ _ _ hab h2]; rfl

/-! ### Records, refusals and answers -/

/-- A capture changes no object but the count of lost ones. -/
theorem getObj_capture_other {k : Nat} (code part inst p0 p1 p2 : Nat) (s : State) (h : k ≠ oAlmanacLost) :
    getObj (capture code part inst p0 p1 p2 s) k = getObj s k := by
  unfold capture; split
  · rfl
  · exact getObj_setObj_other _ _ h

/-- A refused write changes no object but the word of the last one and the count of lost records. -/
theorem getObj_refuse_other {k : Nat} (m key reason value : Nat) (s : State) (h : k ≠ oOdLastRefused) (h2 : k ≠ oAlmanacLost) :
    getObj (refuse m key reason value s) k = getObj s k := by
  simp only [refuse]
  rw [getObj_capture_other _ _ _ _ _ _ _ h2, getObj_setObj_other _ _ h]

/-- The first capture of a cycle, with room in the queue, is the last of it. -/
theorem capture_room {s : State} (code part inst p0 p1 p2 : Nat) (h : s.alm.queue.length < 256) (hn : s.now.captures = 0) :
    (capture code part inst p0 p1 p2 s).alm.queue =
      s.alm.queue ++ [{ code := code, part := part, inst := inst, p0 := p0 % 2 ^ 32, p1 := p1 % 2 ^ 32, p2 := p2 % 2 ^ 32, time := calendar s }] := by
  simp [capture, h, enterCapture, queuedBefore, hn, placeCapture]

@[simp] theorem answer_out (m v : Nat) (s : State) : (answer m v s).out = .readData m v :: s.out := by simp [answer, emit]

@[simp] theorem answer_objs (m v : Nat) (s : State) : (answer m v s).objs = s.objs := rfl

@[simp] theorem emit_out (e : Emission) (s : State) : (emit e s).out = e :: s.out := rfl

/-! ### Acknowledgements -/

/-- A write that took effect sets its function's mode; the others leave what they made. -/
theorem ackWrite_done (key : Nat) (s : State) : (ackWrite key (s, .done)).1 = touch key s := rfl

theorem ackWrite_quiet (key : Nat) (s : State) : (ackWrite key (s, .quiet)).1 = s := rfl

theorem ackWrite_refused (key r : Nat) (s : State) : (ackWrite key (s, .refused r)).1 = s := rfl

/-! ### Commands and the clocks -/

/-- With the clocks running a command has its effect. -/
theorem whenLive_live {s : State} (f : State → State) (h : Live s) : whenLive s f = .next (f s) := by
  unfold whenLive; rw [if_pos (show s.clk.running = true from h)]

/-- With the clocks stopped it has none. -/
theorem whenLive_stopped {s : State} (f : State → State) (h : s.clk.running = false) : whenLive s f = .next s := by
  unfold whenLive; rw [h]; rfl

/-- An access of a master that is awake and waits for nothing has its effect. -/
theorem whenFree_free {m : Nat} {c : Instr} {s : State} (f : State → State) (h : Live s) (ha : asleep s m = false) (hp : parkedOf s m = []) :
    whenFree m c s f = .next (f s) := by
  simp [whenFree, whenLive_live _ h, ha, hp]

/-- An access behind a read that waits joins the accesses that wait. -/
theorem whenFree_parked {m : Nat} {c : Instr} {s : State} (f : State → State) (h : Live s) (ha : asleep s m = false) (hp : parkedOf s m ≠ []) :
    whenFree m c s f = .next (setParked m (parkedOf s m ++ [.access c]) s) := by
  simp [whenFree, whenLive_live _ h, ha, hp]

/-- A port in D3hot takes no access. -/
theorem whenFree_asleep {m : Nat} {c : Instr} {s : State} (f : State → State) (h : Live s) (ha : asleep s m = true) :
    whenFree m c s f = .next s := by
  simp [whenFree, whenLive_live _ h, ha]

theorem whenFree_stopped {m : Nat} {c : Instr} {s : State} (f : State → State) (h : s.clk.running = false) : whenFree m c s f = .next s :=
  whenLive_stopped _ h

/-! ### Pages -/

/-- A write into a page frame changes its page and nothing else of it. -/
theorem getFrame_writeFrame (k off : Nat) (bs : List Byte) (s : State) :
    (getFrame (writeFrame k off bs s) k).page = pageWrite (getFrame s k).page off bs := by
  simp [writeFrame]

theorem getFrame_writeFrame_other {j k : Nat} (off : Nat) (bs : List Byte) (s : State) (h : j ≠ k) : getFrame (writeFrame k off bs s) j = getFrame s j := by
  simp only [writeFrame]; exact getFrame_setFrame_other _ _ h

end Sys2Proof.Machine
end

