-- ==== Sys2Proof/Laws/PerInstr.lean ====
section
/-!
SUPPORT. A law of every command as syntax: a well-formed command of a master names one of the five masters, and a command of a queue slot names a slot inside its engine's queue.
-/

namespace Sys2Proof.Laws.Operand

/-- The master that sends a command (R456). -/
def master : Instr → Option Nat
  | .fuseRead m _ _ => some m
  | .defectMapLoad m _ => some m
  | .linkTraining m _ _ => some m
  | .hbmTraining m _ _ _ => some m
  | .networkMapApply m _ => some m
  | .tileSelfTest m _ _ _ => some m
  | .resetAlignment m _ _ => some m
  | .rillLoad m _ => some m
  | .partitionConfiguration m _ => some m
  | .defectDataAccess m _ => some m
  | .tailWrite m _ _ _ => some m
  | .cmdDataRead m _ => some m
  | .cmdDataWrite m _ _ => some m
  | .queueBindingWrite m _ _ _ => some m
  | .bankOwnerWrite m _ _ _ _ => some m
  | .load m _ => some m
  | .unload m => some m
  | .abortLoad m => some m
  | .migrateStart m => some m
  | .migrateAbort m => some m
  | .retireStack m _ => some m
  | .regionWrite m _ _ _ => some m
  | .streamStart m _ => some m
  | .streamStop m _ => some m
  | .forceCut m _ => some m
  | .partitionConfigure m _ => some m
  | .partitionStart m _ => some m
  | .partitionStop m _ => some m
  | .partitionReset m _ => some m
  | .lend m _ => some m
  | .reclaimTile m _ => some m
  | .reclaimAll m _ => some m
  | .acctWithdraw m _ _ => some m
  | .acctRestore m _ _ => some m
  | .acctClear m _ _ => some m
  | .acctDataRead m _ => some m
  | .syncDataRead m => some m
  | .syncDataWrite m _ => some m
  | .syncAdd m _ => some m
  | .syncFill m => some m
  | .hostWatchArm m _ _ => some m
  | .hostWatchDisarm m _ _ => some m
  | .peekDataRead m _ => some m
  | .i2cStart m => some m
  | .i2cDataAccess m _ => some m
  | .pinFunctionSwitch m _ _ => some m
  | .lowHalfWrite m _ _ _ => some m
  | .highHalfWrite m _ _ _ => some m
  | .lowHalfRead m _ _ => some m
  | .absentAccess m _ _ _ => some m
  | .objectWrite m _ _ _ => some m
  | .compatDataRead m => some m
  | .fwDataAccess m _ => some m
  | .startRill m => some m
  | .stopRill m => some m
  | .programBlock m => some m
  | .copyFromHost m _ => some m
  | .activate m => some m
  | .verify m => some m
  | .rillKick m _ => some m
  | .passthruStart m _ => some m
  | .passthruStop m _ => some m
  | .almanacDataRead m => some m
  | .freeze m => some m
  | .thaw m => some m
  | .clearCirculating m => some m
  | .clearPermanent m => some m
  | .perfSample m => some m
  | .perfClear m => some m
  | .perfEventWrite m _ _ => some m
  | _ => none

/-- The engine, queue and slot that a command names. -/
def place : Instr → Option (Nat × Nat × Nat)
  | .retireRefused eng q sl => some (eng, q, sl)
  | .killComplete eng q sl => some (eng, q, sl)
  | .matrixMultiply eng q sl => some (eng, q, sl)
  | .slidingWindow eng q sl => some (eng, q, sl)
  | .fence eng q sl => some (eng, q, sl)
  | .elementAdd eng q sl => some (eng, q, sl)
  | .elementSubtract eng q sl => some (eng, q, sl)
  | .elementMultiply eng q sl => some (eng, q, sl)
  | .elementMax eng q sl => some (eng, q, sl)
  | .elementMin eng q sl => some (eng, q, sl)
  | .elementScaleAdd eng q sl => some (eng, q, sl)
  | .elementAffine eng q sl => some (eng, q, sl)
  | .rectifier eng q sl => some (eng, q, sl)
  | .leakyRectifier eng q sl => some (eng, q, sl)
  | .elementClamp eng q sl => some (eng, q, sl)
  | .piecewiseLinearTable eng q sl => some (eng, q, sl)
  | .elementConvert eng q sl => some (eng, q, sl)
  | .rowSum eng q sl => some (eng, q, sl)
  | .rowMaximum eng q sl => some (eng, q, sl)
  | .rowSumOfSquares eng q sl => some (eng, q, sl)
  | .rowMinimum eng q sl => some (eng, q, sl)
  | .maxPooling eng q sl => some (eng, q, sl)
  | .averagePoolingWindow eng q sl => some (eng, q, sl)
  | .averagePoolingInput eng q sl => some (eng, q, sl)
  | .bilinearResampling eng q sl => some (eng, q, sl)
  | .bicubicResampling eng q sl => some (eng, q, sl)
  | .pixelShuffle eng q sl => some (eng, q, sl)
  | .pixelUnshuffle eng q sl => some (eng, q, sl)
  | .perPixelArgmax eng q sl => some (eng, q, sl)
  | .zeroRunCompression eng q sl => some (eng, q, sl)
  | .zeroRunExpansion eng q sl => some (eng, q, sl)
  | .groupedSlidingWindow eng q sl => some (eng, q, sl)
  | .convolution2dTransform eng q sl => some (eng, q, sl)
  | .convolutionAlongLines eng q sl => some (eng, q, sl)
  | .convolutionAlongColumns eng q sl => some (eng, q, sl)
  | .regionCopy eng q sl => some (eng, q, sl)
  | .cisternLoad eng q sl => some (eng, q, sl)
  | .cisternStore eng q sl => some (eng, q, sl)
  | .multicastCopy eng q sl => some (eng, q, sl)
  | .stem eng q sl => some (eng, q, sl)
  | .head eng q sl => some (eng, q, sl)
  | .scaleAndSharpen eng q sl => some (eng, q, sl)
  | .gather eng q sl => some (eng, q, sl)
  | .advance eng q sl => some (eng, q, sl)
  | .release eng q sl => some (eng, q, sl)
  | .pyramidBuild eng q sl => some (eng, q, sl)
  | .estimate eng q sl => some (eng, q, sl)
  | .corners eng q sl => some (eng, q, sl)
  | .matchCorners eng q sl => some (eng, q, sl)
  | .warpAndBlend eng q sl => some (eng, q, sl)
  | .copyA eng q sl => some (eng, q, sl)
  | .remoteWrite eng q sl _ => some (eng, q, sl)
  | .writeAcknowledgement eng q a => some (eng, q, a.slot)
  | .commitGrant eng q sl => some (eng, q, sl)
  | .remoteCommitMessage eng q sl _ => some (eng, q, sl)
  | .commitSignal eng q sl => some (eng, q, sl)
  | .parityUpdate eng q sl _ => some (eng, q, sl)
  | .abandonedRetire eng q sl => some (eng, q, sl)
  | _ => none

/-- A command in range names a master that there is, and a slot that there is. -/
def Statement (i : Instr) : Prop :=
  i.wellFormed = true → (∀ m, master i = some m → m < 5) ∧ (∀ e q l, place i = some (e, q, l) → e < 48 ∧ q < queuesOf e ∧ l < slotsOf e)

theorem andL {a b : Bool} (h : (a && b) = true) : a = true := (Bool.and_eq_true_iff.mp h).1

theorem andR {a b : Bool} (h : (a && b) = true) : b = true := (Bool.and_eq_true_iff.mp h).2

theorem of_none {i : Instr} (h : master i = none) (h2 : place i = none) : Statement i := by
  intro _; simp [h, h2]

theorem of_master {i : Instr} {m : Nat} (h : master i = some m) (h2 : place i = none) (h3 : i.wellFormed = true → wfMaster m = true) : Statement i := by
  intro hw; simpa [h, h2, wfMaster] using h3 hw

theorem of_place {i : Instr} {e q l : Nat} (h : master i = none) (h2 : place i = some (e, q, l)) (h3 : i.wellFormed = true → wfSlot e q l = true) :
    Statement i := by
  intro hw
  have h4 := h3 hw
  simp only [wfSlot, wfQueue, Bool.and_eq_true, decide_eq_true_eq] at h4
  refine ⟨by simp [h], fun e' q' l' h5 => ?_⟩
  rw [h2] at h5; cases h5
  exact ⟨h4.1.1, h4.1.2, h4.2⟩

theorem powerGood (board : Board) (elapsed : Nat) : Statement (.powerGood board elapsed) := of_none rfl rfl
theorem pwrgoodLow : Statement .pwrgoodLow := of_none rfl rfl
theorem fuseRead (m : Nat) (elapsed : Nat) (verdict : Nat) : Statement (.fuseRead m elapsed verdict) := of_master rfl rfl fun h => (andL (andL h))
theorem defectMapLoad (m : Nat) (elapsed : Nat) : Statement (.defectMapLoad m elapsed) := of_master rfl rfl fun h => (andL h)
theorem linkTraining (m : Nat) (elapsed : Nat) (bad : List (Nat × Nat × Nat × Nat)) : Statement (.linkTraining m elapsed bad) := of_master rfl rfl fun h => (andL (andL h))
theorem hbmTraining (m : Nat) (elapsed : Nat) (badStacks : List Nat) (badPcs : List (Nat × Nat)) : Statement (.hbmTraining m elapsed badStacks badPcs) := of_master rfl rfl fun h => (andL (andL (andL h)))
theorem networkMapApply (m : Nat) (elapsed : Nat) : Statement (.networkMapApply m elapsed) := of_master rfl rfl fun h => (andL h)
theorem tileSelfTest (m : Nat) (elapsed : Nat) (rows : List (Nat × Nat × Nat)) (fails : List Nat) : Statement (.tileSelfTest m elapsed rows fails) := of_master rfl rfl fun h => (andL (andL (andL h)))
theorem resetAlignment (m : Nat) (elapsed : Nat) (facts : AlignFacts) : Statement (.resetAlignment m elapsed facts) := of_master rfl rfl fun h => (andL h)
theorem rillLoad (m : Nat) (elapsed : Nat) : Statement (.rillLoad m elapsed) := of_master rfl rfl fun h => (andL h)
theorem partitionConfiguration (m : Nat) (elapsed : Nat) : Statement (.partitionConfiguration m elapsed) := of_master rfl rfl fun h => (andL h)
theorem defectDataAccess (m : Nat) (wr : Option Nat) : Statement (.defectDataAccess m wr) := of_master rfl rfl fun h => (andL h)
theorem tailWrite (m : Nat) (eng : Nat) (q : Nat) (value : Nat) : Statement (.tailWrite m eng q value) := of_master rfl rfl fun h => (andR (andL h))
theorem dispatch (eng : Nat) (q : Nat) : Statement (.dispatch eng q) := of_none rfl rfl
theorem retireRefused (eng : Nat) (q : Nat) (sl : Nat) : Statement (.retireRefused eng q sl) := of_place rfl rfl fun h => h
theorem killComplete (eng : Nat) (q : Nat) (sl : Nat) : Statement (.killComplete eng q sl) := of_place rfl rfl fun h => h
theorem matrixMultiply (eng : Nat) (q : Nat) (sl : Nat) : Statement (.matrixMultiply eng q sl) := of_place rfl rfl fun h => h
theorem slidingWindow (eng : Nat) (q : Nat) (sl : Nat) : Statement (.slidingWindow eng q sl) := of_place rfl rfl fun h => h
theorem fence (eng : Nat) (q : Nat) (sl : Nat) : Statement (.fence eng q sl) := of_place rfl rfl fun h => h
theorem elementAdd (eng : Nat) (q : Nat) (sl : Nat) : Statement (.elementAdd eng q sl) := of_place rfl rfl fun h => h
theorem elementSubtract (eng : Nat) (q : Nat) (sl : Nat) : Statement (.elementSubtract eng q sl) := of_place rfl rfl fun h => h
theorem elementMultiply (eng : Nat) (q : Nat) (sl : Nat) : Statement (.elementMultiply eng q sl) := of_place rfl rfl fun h => h
theorem elementMax (eng : Nat) (q : Nat) (sl : Nat) : Statement (.elementMax eng q sl) := of_place rfl rfl fun h => h
theorem elementMin (eng : Nat) (q : Nat) (sl : Nat) : Statement (.elementMin eng q sl) := of_place rfl rfl fun h => h
theorem elementScaleAdd (eng : Nat) (q : Nat) (sl : Nat) : Statement (.elementScaleAdd eng q sl) := of_place rfl rfl fun h => h
theorem elementAffine (eng : Nat) (q : Nat) (sl : Nat) : Statement (.elementAffine eng q sl) := of_place rfl rfl fun h => h
theorem rectifier (eng : Nat) (q : Nat) (sl : Nat) : Statement (.rectifier eng q sl) := of_place rfl rfl fun h => h
theorem leakyRectifier (eng : Nat) (q : Nat) (sl : Nat) : Statement (.leakyRectifier eng q sl) := of_place rfl rfl fun h => h
theorem elementClamp (eng : Nat) (q : Nat) (sl : Nat) : Statement (.elementClamp eng q sl) := of_place rfl rfl fun h => h
theorem piecewiseLinearTable (eng : Nat) (q : Nat) (sl : Nat) : Statement (.piecewiseLinearTable eng q sl) := of_place rfl rfl fun h => h
theorem elementConvert (eng : Nat) (q : Nat) (sl : Nat) : Statement (.elementConvert eng q sl) := of_place rfl rfl fun h => h
theorem rowSum (eng : Nat) (q : Nat) (sl : Nat) : Statement (.rowSum eng q sl) := of_place rfl rfl fun h => h
theorem rowMaximum (eng : Nat) (q : Nat) (sl : Nat) : Statement (.rowMaximum eng q sl) := of_place rfl rfl fun h => h
theorem rowSumOfSquares (eng : Nat) (q : Nat) (sl : Nat) : Statement (.rowSumOfSquares eng q sl) := of_place rfl rfl fun h => h
theorem rowMinimum (eng : Nat) (q : Nat) (sl : Nat) : Statement (.rowMinimum eng q sl) := of_place rfl rfl fun h => h
theorem maxPooling (eng : Nat) (q : Nat) (sl : Nat) : Statement (.maxPooling eng q sl) := of_place rfl rfl fun h => h
theorem averagePoolingWindow (eng : Nat) (q : Nat) (sl : Nat) : Statement (.averagePoolingWindow eng q sl) := of_place rfl rfl fun h => h
theorem averagePoolingInput (eng : Nat) (q : Nat) (sl : Nat) : Statement (.averagePoolingInput eng q sl) := of_place rfl rfl fun h => h
theorem bilinearResampling (eng : Nat) (q : Nat) (sl : Nat) : Statement (.bilinearResampling eng q sl) := of_place rfl rfl fun h => h
theorem bicubicResampling (eng : Nat) (q : Nat) (sl : Nat) : Statement (.bicubicResampling eng q sl) := of_place rfl rfl fun h => h
theorem pixelShuffle (eng : Nat) (q : Nat) (sl : Nat) : Statement (.pixelShuffle eng q sl) := of_place rfl rfl fun h => h
theorem pixelUnshuffle (eng : Nat) (q : Nat) (sl : Nat) : Statement (.pixelUnshuffle eng q sl) := of_place rfl rfl fun h => h
theorem perPixelArgmax (eng : Nat) (q : Nat) (sl : Nat) : Statement (.perPixelArgmax eng q sl) := of_place rfl rfl fun h => h
theorem zeroRunCompression (eng : Nat) (q : Nat) (sl : Nat) : Statement (.zeroRunCompression eng q sl) := of_place rfl rfl fun h => h
theorem zeroRunExpansion (eng : Nat) (q : Nat) (sl : Nat) : Statement (.zeroRunExpansion eng q sl) := of_place rfl rfl fun h => h
theorem groupedSlidingWindow (eng : Nat) (q : Nat) (sl : Nat) : Statement (.groupedSlidingWindow eng q sl) := of_place rfl rfl fun h => h
theorem convolution2dTransform (eng : Nat) (q : Nat) (sl : Nat) : Statement (.convolution2dTransform eng q sl) := of_place rfl rfl fun h => h
theorem convolutionAlongLines (eng : Nat) (q : Nat) (sl : Nat) : Statement (.convolutionAlongLines eng q sl) := of_place rfl rfl fun h => h
theorem convolutionAlongColumns (eng : Nat) (q : Nat) (sl : Nat) : Statement (.convolutionAlongColumns eng q sl) := of_place rfl rfl fun h => h
theorem regionCopy (eng : Nat) (q : Nat) (sl : Nat) : Statement (.regionCopy eng q sl) := of_place rfl rfl fun h => h
theorem cisternLoad (eng : Nat) (q : Nat) (sl : Nat) : Statement (.cisternLoad eng q sl) := of_place rfl rfl fun h => h
theorem cisternStore (eng : Nat) (q : Nat) (sl : Nat) : Statement (.cisternStore eng q sl) := of_place rfl rfl fun h => h
theorem multicastCopy (eng : Nat) (q : Nat) (sl : Nat) : Statement (.multicastCopy eng q sl) := of_place rfl rfl fun h => h
theorem stem (eng : Nat) (q : Nat) (sl : Nat) : Statement (.stem eng q sl) := of_place rfl rfl fun h => h
theorem head (eng : Nat) (q : Nat) (sl : Nat) : Statement (.head eng q sl) := of_place rfl rfl fun h => h
theorem scaleAndSharpen (eng : Nat) (q : Nat) (sl : Nat) : Statement (.scaleAndSharpen eng q sl) := of_place rfl rfl fun h => h
theorem gather (eng : Nat) (q : Nat) (sl : Nat) : Statement (.gather eng q sl) := of_place rfl rfl fun h => h
theorem advance (eng : Nat) (q : Nat) (sl : Nat) : Statement (.advance eng q sl) := of_place rfl rfl fun h => h
theorem release (eng : Nat) (q : Nat) (sl : Nat) : Statement (.release eng q sl) := of_place rfl rfl fun h => h
theorem pyramidBuild (eng : Nat) (q : Nat) (sl : Nat) : Statement (.pyramidBuild eng q sl) := of_place rfl rfl fun h => h
theorem estimate (eng : Nat) (q : Nat) (sl : Nat) : Statement (.estimate eng q sl) := of_place rfl rfl fun h => h
theorem corners (eng : Nat) (q : Nat) (sl : Nat) : Statement (.corners eng q sl) := of_place rfl rfl fun h => h
theorem matchCorners (eng : Nat) (q : Nat) (sl : Nat) : Statement (.matchCorners eng q sl) := of_place rfl rfl fun h => h
theorem warpAndBlend (eng : Nat) (q : Nat) (sl : Nat) : Statement (.warpAndBlend eng q sl) := of_place rfl rfl fun h => h
theorem copyA (eng : Nat) (q : Nat) (sl : Nat) : Statement (.copyA eng q sl) := of_place rfl rfl fun h => h
theorem remoteWrite (eng : Nat) (q : Nat) (sl : Nat) (k : Nat) : Statement (.remoteWrite eng q sl k) := of_place rfl rfl fun h => h
theorem writeAcknowledgement (eng q : Nat) (a : WriteAck) : Statement (.writeAcknowledgement eng q a) := of_place rfl rfl fun h => h
theorem commitGrant (eng : Nat) (q : Nat) (sl : Nat) : Statement (.commitGrant eng q sl) := of_place rfl rfl fun h => h
theorem remoteCommitMessage (eng : Nat) (q : Nat) (sl : Nat) (tile : Nat) : Statement (.remoteCommitMessage eng q sl tile) := of_place rfl rfl fun h => andL h
theorem commitSignal (eng : Nat) (q : Nat) (sl : Nat) : Statement (.commitSignal eng q sl) := of_place rfl rfl fun h => h
theorem syncUpdateApply (bank : Nat) : Statement (.syncUpdateApply bank) := of_none rfl rfl
theorem watchNotification (eng : Nat) (q : Nat) : Statement (.watchNotification eng q) := of_none rfl rfl
theorem cmdDataRead (m : Nat) (eng : Nat) : Statement (.cmdDataRead m eng) := of_master rfl rfl fun h => (andR h)
theorem cmdDataWrite (m : Nat) (eng : Nat) (value : Nat) : Statement (.cmdDataWrite m eng value) := of_master rfl rfl fun h => (andR (andL h))
theorem queueBindingWrite (m : Nat) (eng : Nat) (q : Nat) (value : Nat) : Statement (.queueBindingWrite m eng q value) := of_master rfl rfl fun h => (andR (andL h))
theorem bankOwnerWrite (m : Nat) (tile : Nat) (high : Bool) (valid : Bool) (value : Nat) : Statement (.bankOwnerWrite m tile high valid value) := of_master rfl rfl fun h => (andL (andL h))
theorem load (m : Nat) (image : List Byte) : Statement (.load m image) := of_master rfl rfl fun h => h
theorem loadComplete (phase : Nat) : Statement (.loadComplete phase) := of_none rfl rfl
theorem unload (m : Nat) : Statement (.unload m) := of_master rfl rfl fun h => h
theorem abortLoad (m : Nat) : Statement (.abortLoad m) := of_master rfl rfl fun h => h
theorem flitCheckFailure (link : Nat) (det : Bool) : Statement (.flitCheckFailure link det) := of_none rfl rfl
theorem laneFailure (link dir group : Nat) (lost : LaneLoss) : Statement (.laneFailure link dir group lost) := of_none rfl rfl
theorem groupRetrainComplete (link : Nat) (dir : Nat) (group : Nat) : Statement (.groupRetrainComplete link dir group) := of_none rfl rfl
theorem linkRetrain (link : Nat) (det : Bool) : Statement (.linkRetrain link det) := of_none rfl rfl
theorem linkRetrainComplete (link : Nat) (bad : List (Nat × Nat × Nat)) (agree : Bool) : Statement (.linkRetrainComplete link bad agree) := of_none rfl rfl
theorem linkRetrainRetry (link : Nat) : Statement (.linkRetrainRetry link) := of_none rfl rfl
theorem linkSlip (x : SlippedLink) : Statement (.linkSlip x) := of_none rfl rfl
theorem cisternLineRead (slot line : Nat) (verdict : LineVerdict) (use : LineUse) : Statement (.cisternLineRead slot line verdict use) := of_none rfl rfl
theorem scrubRead (slot : Nat) (line : Nat) (verdict : LineVerdict) : Statement (.scrubRead slot line verdict) := of_none rfl rfl
theorem parityUpdate (eng : Nat) (q : Nat) (sl : Nat) (k : Nat) : Statement (.parityUpdate eng q sl k) := of_place rfl rfl fun h => h
theorem tagSettle (tag : Nat) : Statement (.tagSettle tag) := of_none rfl rfl
theorem retiredSlotFree (slot : Nat) : Statement (.retiredSlotFree slot) := of_none rfl rfl
theorem migrateStart (m : Nat) : Statement (.migrateStart m) := of_master rfl rfl fun h => h
theorem migrateAbort (m : Nat) : Statement (.migrateAbort m) := of_master rfl rfl fun h => h
theorem pageMigrationSwitch : Statement .pageMigrationSwitch := of_none rfl rfl
theorem retireStack (m : Nat) (value : Nat) : Statement (.retireStack m value) := of_master rfl rfl fun h => (andL h)
theorem pcRetrainStart (stack : Nat) (ch : Nat) : Statement (.pcRetrainStart stack ch) := of_none rfl rfl
theorem pcRetrainComplete (stack : Nat) (ch : Nat) (ok : Bool) : Statement (.pcRetrainComplete stack ch ok) := of_none rfl rfl
theorem stackLost (stack : Nat) : Statement (.stackLost stack) := of_none rfl rfl
theorem rebuildComplete : Statement .rebuildComplete := of_none rfl rfl
theorem regionWrite (m : Nat) (p : Nat) (sub : Nat) (value : Nat) : Statement (.regionWrite m p sub value) := of_master rfl rfl fun h => (andL (andL (andL h)))
theorem sourceGap (k : Nat) : Statement (.sourceGap k) := of_none rfl rfl
theorem publishStep (k : Nat) : Statement (.publishStep k) := of_none rfl rfl
theorem streamStart (m : Nat) (k : Nat) : Statement (.streamStart m k) := of_master rfl rfl fun h => (andL h)
theorem streamStop (m : Nat) (k : Nat) : Statement (.streamStop m k) := of_master rfl rfl fun h => (andL h)
theorem stopComplete (k : Nat) : Statement (.stopComplete k) := of_none rfl rfl
theorem forceCut (m : Nat) (k : Nat) : Statement (.forceCut m k) := of_master rfl rfl fun h => (andL h)
theorem checkpoint (k : Nat) : Statement (.checkpoint k) := of_none rfl rfl
theorem fallbackPublishStep (k : Nat) : Statement (.fallbackPublishStep k) := of_none rfl rfl
theorem abandonedRetire (eng : Nat) (q : Nat) (sl : Nat) : Statement (.abandonedRetire eng q sl) := of_place rfl rfl fun h => h
theorem lateCheck (k : Nat) : Statement (.lateCheck k) := of_none rfl rfl
theorem outputFrameBoundary (output : Nat) : Statement (.outputFrameBoundary output) := of_none rfl rfl
theorem partitionConfigure (m : Nat) (p : Nat) : Statement (.partitionConfigure m p) := of_master rfl rfl fun h => (andL h)
theorem partitionStart (m : Nat) (p : Nat) : Statement (.partitionStart m p) := of_master rfl rfl fun h => (andL h)
theorem partitionStop (m : Nat) (p : Nat) : Statement (.partitionStop m p) := of_master rfl rfl fun h => (andL h)
theorem partitionReset (m : Nat) (p : Nat) : Statement (.partitionReset m p) := of_master rfl rfl fun h => (andL h)
theorem resetQueueClear (p : Nat) : Statement (.resetQueueClear p) := of_none rfl rfl
theorem lend (m : Nat) (p : Nat) : Statement (.lend m p) := of_master rfl rfl fun h => (andL h)
theorem reclaimTile (m : Nat) (p : Nat) : Statement (.reclaimTile m p) := of_master rfl rfl fun h => (andL h)
theorem reclaimAll (m : Nat) (p : Nat) : Statement (.reclaimAll m p) := of_master rfl rfl fun h => (andL h)
theorem reclaimComplete (p : Nat) : Statement (.reclaimComplete p) := of_none rfl rfl
theorem acctWithdraw (m : Nat) (p : Nat) (value : Nat) : Statement (.acctWithdraw m p value) := of_master rfl rfl fun h => (andL (andL h))
theorem acctRestore (m : Nat) (p : Nat) (value : Nat) : Statement (.acctRestore m p value) := of_master rfl rfl fun h => (andL (andL h))
theorem withdrawHead (eng : Nat) (q : Nat) : Statement (.withdrawHead eng q) := of_none rfl rfl
theorem withdrawalListRetire (p : Nat) : Statement (.withdrawalListRetire p) := of_none rfl rfl
theorem acctClear (m : Nat) (p : Nat) (value : Nat) : Statement (.acctClear m p value) := of_master rfl rfl fun h => (andL (andL h))
theorem acctDataRead (m : Nat) (p : Nat) : Statement (.acctDataRead m p) := of_master rfl rfl fun h => (andL h)
theorem syncDataRead (m : Nat) : Statement (.syncDataRead m) := of_master rfl rfl fun h => h
theorem syncDataWrite (m : Nat) (value : Nat) : Statement (.syncDataWrite m value) := of_master rfl rfl fun h => (andL h)
theorem syncAdd (m : Nat) (value : Nat) : Statement (.syncAdd m value) := of_master rfl rfl fun h => (andL h)
theorem syncFill (m : Nat) : Statement (.syncFill m) := of_master rfl rfl fun h => h
theorem syncFillComplete : Statement .syncFillComplete := of_none rfl rfl
theorem apertureAdd (port offset : Nat) (a : BusOp) : Statement (.apertureAdd port offset a) := of_none rfl rfl
theorem apertureSet (port offset : Nat) (a : BusOp) : Statement (.apertureSet port offset a) := of_none rfl rfl
theorem hostWatchArm (m : Nat) (w : Nat) (value : Nat) : Statement (.hostWatchArm m w value) := of_master rfl rfl fun h => (andL (andL h))
theorem hostWatchDisarm (m : Nat) (w : Nat) (value : Nat) : Statement (.hostWatchDisarm m w value) := of_master rfl rfl fun h => (andL (andL h))
theorem admissionPoint : Statement .admissionPoint := of_none rfl rfl
theorem peekDataRead (m : Nat) (p : Nat) : Statement (.peekDataRead m p) := of_master rfl rfl fun h => (andL h)
theorem laneBlockLock (port : Nat) (lane : Nat) (seq : Nat) : Statement (.laneBlockLock port lane seq) := of_none rfl rfl
theorem laneLockLoss (port : Nat) (lane : Nat) : Statement (.laneLockLoss port lane) := of_none rfl rfl
theorem inputSegment (port : Nat) (lane : Nat) (seg : SegmentData) : Statement (.inputSegment port lane seg) := of_none rfl rfl
theorem lineSlot (port : Nat) : Statement (.lineSlot port) := of_none rfl rfl
theorem lineFetch (port : Nat) : Statement (.lineFetch port) := of_none rfl rfl
theorem lineFetchComplete (port : Nat) (line : Nat) : Statement (.lineFetchComplete port line) := of_none rfl rfl
theorem staticCompareComplete (port : Nat) : Statement (.staticCompareComplete port) := of_none rfl rfl
theorem genlockPulse : Statement .genlockPulse := of_none rfl rfl
theorem genlockLoss : Statement .genlockLoss := of_none rfl rfl
theorem muteRequest : Statement .muteRequest := of_none rfl rfl
theorem muteRelease : Statement .muteRelease := of_none rfl rfl
theorem muteHoldExpiry : Statement .muteHoldExpiry := of_none rfl rfl
theorem binningStart (k : Nat) : Statement (.binningStart k) := of_none rfl rfl
theorem binningDeadline (k : Nat) : Statement (.binningDeadline k) := of_none rfl rfl
theorem binRowRender (k : Nat) (row : Nat) : Statement (.binRowRender k row) := of_none rfl rfl
theorem doorbellWrite (port : Nat) (ring : Nat) (tail : Nat) (descs : List HostDesc) : Statement (.doorbellWrite port ring tail descs) := of_none rfl rfl
theorem outputBandWrite (port : Nat) : Statement (.outputBandWrite port) := of_none rfl rfl
theorem inputReadCompletion (ring : Nat) (data : List Byte) : Statement (.inputReadCompletion ring data) := of_none rfl rfl
theorem stallLimitExpiry (x : StalledPort) : Statement (.stallLimitExpiry x) := of_none rfl rfl
theorem lateAbandon (ring : Nat) : Statement (.lateAbandon ring) := of_none rfl rfl
theorem pcieLinkDown (port : Nat) : Statement (.pcieLinkDown port) := of_none rfl rfl
theorem functionLevelReset (port : Nat) : Statement (.functionLevelReset port) := of_none rfl rfl
theorem pcieFlitRetry (port : Nat) : Statement (.pcieFlitRetry port) := of_none rfl rfl
theorem nmtResetNode : Statement .nmtResetNode := of_none rfl rfl
theorem nmtResetCommunication : Statement .nmtResetCommunication := of_none rfl rfl
theorem nmtStart : Statement .nmtStart := of_none rfl rfl
theorem nmtStop : Statement .nmtStop := of_none rfl rfl
theorem nmtPreOperational : Statement .nmtPreOperational := of_none rfl rfl
theorem usdoDownload (index : Nat) (sub : Nat) (data : List Byte) : Statement (.usdoDownload index sub data) := of_none rfl rfl
theorem usdoUpload (index : Nat) (sub : Nat) (len : Option Nat) : Statement (.usdoUpload index sub len) := of_none rfl rfl
theorem syncMessage (cobId : Nat) : Statement (.syncMessage cobId) := of_none rfl rfl
theorem tpdoEventTimer (t : Nat) : Statement (.tpdoEventTimer t) := of_none rfl rfl
theorem heartbeatTimer : Statement .heartbeatTimer := of_none rfl rfl
theorem i2cStart (m : Nat) : Statement (.i2cStart m) := of_master rfl rfl fun h => h
theorem i2cTransactionComplete (result : Nat) (data : List Byte) : Statement (.i2cTransactionComplete result data) := of_none rfl rfl
theorem i2cStretchTimeout : Statement .i2cStretchTimeout := of_none rfl rfl
theorem i2cDataAccess (m : Nat) (wr : Option Nat) : Statement (.i2cDataAccess m wr) := of_master rfl rfl fun h => (andL h)
theorem pinFunctionSwitch (m : Nat) (land : Nat) (value : Nat) : Statement (.pinFunctionSwitch m land value) := of_master rfl rfl fun h => (andL (andL h))
theorem ppsEdge : Statement .ppsEdge := of_none rfl rfl
theorem ppsLoss : Statement .ppsLoss := of_none rfl rfl
theorem lowHalfWrite (m : Nat) (index : Nat) (sub : Nat) (value : Nat) : Statement (.lowHalfWrite m index sub value) := of_master rfl rfl fun h => (andL (andL (andL h)))
theorem highHalfWrite (m : Nat) (index : Nat) (sub : Nat) (value : Nat) : Statement (.highHalfWrite m index sub value) := of_master rfl rfl fun h => (andL (andL (andL h)))
theorem lowHalfRead (m : Nat) (index : Nat) (sub : Nat) : Statement (.lowHalfRead m index sub) := of_master rfl rfl fun h => (andL (andL h))
theorem absentAccess (m : Nat) (index : Nat) (sub : Nat) (wr : Option Nat) : Statement (.absentAccess m index sub wr) := of_master rfl rfl fun h => (andL (andL (andL h)))
theorem objectWrite (m x y : Nat) (a : ObjAccess) : Statement (.objectWrite m x y a) := by
  cases a with
  | word value => exact of_master rfl rfl fun h => andL (andL (andL h))
  | bus op =>
    refine of_master rfl rfl fun h => ?_
    have h1 : (m == 1 || m == 2) = true := andL (andL h)
    have h2 : m = 1 ∨ m = 2 := by simpa using h1
    exact decide_eq_true (by omega)
theorem compatDataRead (m : Nat) : Statement (.compatDataRead m) := of_master rfl rfl fun h => h
theorem fwDataAccess (m : Nat) (wr : Option Nat) : Statement (.fwDataAccess m wr) := of_master rfl rfl fun h => (andL h)
theorem startRill (m : Nat) : Statement (.startRill m) := of_master rfl rfl fun h => h
theorem rillImageReadComplete : Statement .rillImageReadComplete := of_none rfl rfl
theorem stopRill (m : Nat) : Statement (.stopRill m) := of_master rfl rfl fun h => h
theorem programBlock (m : Nat) : Statement (.programBlock m) := of_master rfl rfl fun h => h
theorem copyFromHost (m : Nat) (data : Option (List Byte)) : Statement (.copyFromHost m data) := of_master rfl rfl fun h => h
theorem activate (m : Nat) : Statement (.activate m) := of_master rfl rfl fun h => h
theorem verify (m : Nat) : Statement (.verify m) := of_master rfl rfl fun h => h
theorem flashCommandComplete (same : Bool) : Statement (.flashCommandComplete same) := of_none rfl rfl
theorem rillKick (m : Nat) (value : Nat) : Statement (.rillKick m value) := of_master rfl rfl fun h => (andL h)
theorem rillWatchdogExpiry : Statement .rillWatchdogExpiry := of_none rfl rfl
theorem rillException : Statement .rillException := of_none rfl rfl
theorem passthruStart (m : Nat) (j : Nat) : Statement (.passthruStart m j) := of_master rfl rfl fun h => (andL h)
theorem passthruStop (m : Nat) (j : Nat) : Statement (.passthruStop m j) := of_master rfl rfl fun h => (andL h)
theorem sensorSample (readings : List (Option Int)) : Statement (.sensorSample readings) := of_none rfl rfl
theorem tripClockStop : Statement .tripClockStop := of_none rfl rfl
theorem hubTripClockStop : Statement .hubTripClockStop := of_none rfl rfl
theorem lockstepMismatch : Statement .lockstepMismatch := of_none rfl rfl
theorem tileFault (site : Nat) (compute : Bool) : Statement (.tileFault site compute) := of_none rfl rfl
theorem tileMoveComplete (site : Nat) : Statement (.tileMoveComplete site) := of_none rfl rfl
theorem uncorrectableSramError (kind : Nat) (address : Nat) (unit : Nat) : Statement (.uncorrectableSramError kind address unit) := of_none rfl rfl
theorem sramScrub (kind : Nat) (unit : Nat) (corrected : Bool) : Statement (.sramScrub kind unit corrected) := of_none rfl rfl
theorem motionEngineFault (engine : Nat) : Statement (.motionEngineFault engine) := of_none rfl rfl
theorem recordAppend : Statement .recordAppend := of_none rfl rfl
theorem mirrorProgram (same : Bool) : Statement (.mirrorProgram same) := of_none rfl rfl
theorem mirrorRegionEraseComplete (region : Nat) : Statement (.mirrorRegionEraseComplete region) := of_none rfl rfl
theorem almanacDataRead (m : Nat) : Statement (.almanacDataRead m) := of_master rfl rfl fun h => h
theorem freeze (m : Nat) : Statement (.freeze m) := of_master rfl rfl fun h => h
theorem thaw (m : Nat) : Statement (.thaw m) := of_master rfl rfl fun h => h
theorem clearCirculating (m : Nat) : Statement (.clearCirculating m) := of_master rfl rfl fun h => h
theorem clearPermanent (m : Nat) : Statement (.clearPermanent m) := of_master rfl rfl fun h => h
theorem perfSample (m : Nat) : Statement (.perfSample m) := of_master rfl rfl fun h => h
theorem perfClear (m : Nat) : Statement (.perfClear m) := of_master rfl rfl fun h => h
theorem perfEventWrite (m : Nat) (c : Nat) (value : Nat) : Statement (.perfEventWrite m c value) := of_master rfl rfl fun h => (andL (andL h))
theorem inputSlotGridFrameStart (port : Nat) : Statement (.inputSlotGridFrameStart port) := of_none rfl rfl
theorem pcieLinkUp (port : Nat) (width : Nat) (speed : Nat) : Statement (.pcieLinkUp port width speed) := of_none rfl rfl
theorem completionTimeout (kind : Nat) (unit : Nat) : Statement (.completionTimeout kind unit) := of_none rfl rfl
theorem msixVectorUnmask (port : Nat) (vector : Nat) : Statement (.msixVectorUnmask port vector) := of_none rfl rfl
theorem pciePowerStateWrite (port : Nat) (d3 : Bool) : Statement (.pciePowerStateWrite port d3) := of_none rfl rfl
theorem canBusError (tec : Nat) (rec : Nat) (busOff : Bool) : Statement (.canBusError tec rec busOff) := of_none rfl rfl
theorem weirRestartComplete : Statement .weirRestartComplete := of_none rfl rfl
theorem computeDieFault (die : Nat) : Statement (.computeDieFault die) := of_none rfl rfl
theorem hubPllLockLoss : Statement .hubPllLockLoss := of_none rfl rfl

end Sys2Proof.Laws.Operand
end

