-- ==== Sys2Proof/Tests/Slice0.lean ====
section
/-!
SUPPORT. Tests of the model: ill-formed commands are refused, the hypotheses of every statement can be met, and commands do what the spec's rules and examples say.
-/

set_option Elab.async false

open Sys2Proof Sys2Proof.Machine

namespace Sys2Proof.Tests

/-! ### States -/

/-- Powered up, with logical tile 0 on site 0. -/
def on : State :=
  { State.reset with
    clk := { Clocks.init with running := true }, pw := { Power.init with pwrgood := true, computeOff := false }
    fab := { Fabric.init with siteOf := [(0, 1)] } }

/-- `s` with these objects written. -/
def withObjs (vs : List (Nat × Nat)) (s : State) : State := vs.foldl (fun s e => setObj e.1 e.2 s) s

/-- Command words, zero where not given. -/
def wordsOf (vs : List (Nat × Nat)) : List Word := vs.foldl (fun w e => w.set e.1 (BitVec.ofNat 32 e.2)) (List.replicate 16 0)

/-- `s` with a command in a phase in slot 0 of queue 0. -/
def put (eng : Nat) (ph : Phase) (vs : List (Nat × Nat)) (s : State) : State := setSlot eng 0 0 { Slot.init with words := wordsOf vs, phase := ph } s

/-- A command that runs in slot 0 of queue 0 of an engine: unit, opcode and further words. -/
def issued (eng unit opcode : Nat) (vs : List (Nat × Nat)) : State := put eng .running ((0, unit * 2 ^ 28 + opcode * 2 ^ 20) :: vs) on

/-- Its slot. -/
def slotOf (s : State) (eng : Nat) : Slot := getSlot s eng 0 0

/-! ### Ill-formed commands are refused -/

/-- Commands out of range, one for each check. -/
def illFormedBringUp : List Instr :=
  [.powerGood { Board.blank with grade := 3 } 0, .powerGood { Board.blank with nodeId := 128 } 0, .fuseRead 5 0 0, .fuseRead 0 0 3, .fuseRead 0 (2 ^ 32) 0,
    .linkTraining 0 0 [(8, 0, 0, 0)], .linkTraining 0 0 [(0, 2, 0, 0)], .laneFailure 0 0 16 ⟨0, false⟩, .laneFailure 0 0 0 ⟨17, false⟩, .hbmTraining 0 0 [8] [], .hbmTraining 0 0 [] [(0, 64)],
    .tileSelfTest 0 0 [(0, 16, 0)] [], .tileSelfTest 0 0 [] [32], .defectDataAccess 0 (some (2 ^ 32)), .tailWrite 0 48 0 0, .tailWrite 0 0 4 0]

/-- Commands out of range, one for each check. -/
def illFormedQueues : List Instr :=
  [.dispatch 36 4, .fence 0 0 256, .stem 32 4 64, .remoteCommitMessage 0 0 0 32, .syncUpdateApply 16, .cmdDataRead 0 48, .bankOwnerWrite 0 32 false false 0, .loadComplete 1,
    .loadComplete 6, .flitCheckFailure 8 false, .cisternLineRead (8 * 732421) 0 .clean ⟨false, false⟩, .cisternLineRead 0 1024 .clean ⟨false, false⟩, .tagSettle 4096, .stackLost 8,
    .pcRetrainStart 0 64, .regionWrite 0 16 0 0, .regionWrite 0 0 256 0, .sourceGap 128, .outputFrameBoundary 136, .partitionStart 0 16]

/-- Commands out of range, one for each check. -/
def illFormedPorts : List Instr :=
  [.apertureAdd 2 0 (.read 4), .apertureAdd 0 0x40000 (.read 4), .apertureSet 0 0 (.write 4 16 0), .objectWrite 1 1 0 (.bus (.read 4)), .objectWrite 1 2 0x800000 (.bus (.read 4)), .objectWrite 0 0 0 (.bus (.read 4)), .objectWrite 5 0 0 (.word 0),
    .hostWatchArm 0 16 0, .laneBlockLock 8 0 0, .laneBlockLock 0 4 0, .lineFetchComplete 0 65536, .binRowRender 0 135,
    .doorbellWrite 0 128 0 [], .doorbellWrite 0 0 65536 [], .inputSegment 0 0 { kind := 16, flags := 0, line := 0, offset := 0, frame := 0, crc := 0, damaged := false, bytes := [0] },
    .inputSegment 0 0 { kind := 0, flags := 0, line := 0, offset := 0, frame := 0, crc := 0, damaged := false, bytes := [] },
    .usdoDownload 65536 0 [], .syncMessage 2048, .tpdoEventTimer 8, .i2cTransactionComplete 4 [], .pinFunctionSwitch 0 32 0, .passthruStart 0 4]

/-- Commands out of range, one for each check. -/
def illFormedFaults : List Instr :=
  [.sensorSample (List.replicate 65 none), .tileFault 32 false, .uncorrectableSramError 8 0 0, .motionEngineFault 8, .mirrorRegionEraseComplete 3, .perfEventWrite 0 64 0,
    .completionTimeout 3 0, .msixVectorUnmask 0 2048, .canBusError 65536 0 false, .computeDieFault 4]

theorem test_ill_formed_commands_are_refused :
    illFormedBringUp.all (fun i => !i.wellFormed) = true ∧
    illFormedQueues.all (fun i => !i.wellFormed) = true ∧
    illFormedPorts.all (fun i => !i.wellFormed) = true ∧
    illFormedFaults.all (fun i => !i.wellFormed) = true := by decide +kernel

theorem test_boundary_commands_are_well_formed :
    [Instr.tailWrite 4 47 4 0, .fence 31 3 255, .stem 35 4 63, .laneFailure 7 1 15 ⟨16, true⟩, .cisternLineRead (8 * 732421 - 1) 1023 .clean ⟨true, true⟩, .streamStart 0 127,
      .apertureSet 1 0x3FFFF (.write 8 0xFF (2 ^ 64 - 1)), .objectWrite 2 2 0x7FFFFF (.bus (.write 1 1 0xFF))].all
      Instr.wellFormed = true := by decide +kernel

theorem test_words_spell_no_command : decodeTableWord 32 0xFFFFFFFF = none ∧ on.withFetchWord 32 0xFFFFFFFF = on := by decide +kernel

/-! ### The hypotheses of the statements can be met -/

theorem witness_StepRunsFrontCommand : { on with pending := [.pwrgoodLow, .muteRequest] }.pending = .pwrgoodLow :: [.muteRequest] := rfl

theorem witness_EmptyQueueAndStoppedClocks :
    on.pending = [] ∧ Live on ∧ (tick on).sy.parked = [] ∧ State.reset.pending = [] ∧ ¬ Live State.reset ∧ (∀ b n, Instr.muteRequest ≠ .powerGood b n) ∧ Instr.muteRequest ≠ .pwrgoodLow := by
  refine ⟨?_, ?_, ?_, ?_, ?_, ?_, ?_⟩
  case refine_6 => intro b n h; cases h
  all_goals decide +kernel

/-- Empty maps are canonical. -/
theorem nothing_tidy {α : Type} (d : α) : Tidy d [] := ⟨.nil, fun _ h => nomatch h⟩

/-- A powered state with nothing but objects, and a mute level, is sound when its objects are. -/
theorem sound (o : SMap DWord) (b : Bool) (rising : Rising o) (width : ∀ e ∈ o, e.2.toNat < 2 ^ objWidth e.1) :
    Canonical { on with objs := o, io := { on.io with lands := { Lands.init with muteLevel := b } } } where
  objs := rising
  width := width
  latches := nothing_tidy _
  flash := nothing_tidy _
  sensors := .nil
  staging := nothing_tidy _
  fab := ⟨.nil, nothing_tidy _, by show Tidy 0 [(0, 1)]; decide⟩
  tl := ⟨nothing_tidy _, nothing_tidy _, nothing_tidy _, nothing_tidy _, nothing_tidy _, (fun _ h => nomatch h), nothing_tidy _, nothing_tidy _⟩
  ci := ⟨nothing_tidy _, (fun _ h => nomatch h), nothing_tidy _, .nil⟩
  pt := ⟨nothing_tidy _, nothing_tidy _, nothing_tidy _⟩
  sy := ⟨nothing_tidy _, nothing_tidy _, .nil, nothing_tidy _, nothing_tidy _⟩
  st := ⟨nothing_tidy _, nothing_tidy _, nothing_tidy _, nothing_tidy _⟩
  io := ⟨nothing_tidy _, nothing_tidy _, nothing_tidy _, nothing_tidy _, nothing_tidy _, ⟨.nil, .nil⟩, ⟨nothing_tidy _, .nil, .nil⟩⟩
  alm := nothing_tidy _

/-- Partition 0 runs and nothing else happened. -/
def plain : State := { on with objs := (withObjs [(oPartitionState 0, 2)] on).objs }

theorem plain_sound : Canonical plain := sound _ false (by decide +kernel) (by decide +kernel)

theorem witness_StepKeepsCanonical :
    Canonical plain ∧ ∃ t, step plain = .next t := ⟨plain_sound, _, rfl⟩

theorem witness_StepKeepsQueueOrder : ∃ t, step { on with pending := [.nmtStart] } = .next t := ⟨_, rfl⟩

theorem witness_OutputRowsArePlaced :
    (opC (slotOf (issued 0 1 1 []) 0)).mx = false ∧ (opC (slotOf (issued 0 1 1 [(8, 18 * 2 ^ 27)]) 0)).mx = true := by and_intros <;> decide +kernel

theorem witness_ElementWiseResults :
    ∀ op < 12, Issues (issued 0 1 1 [(13, op * 2 ^ 28)]) 0 0 0 1 1 ∧ vOp (slotOf (issued 0 1 1 [(13, op * 2 ^ 28)]) 0) = op := by decide +kernel

theorem witness_ReductionPoolingAndResamplingResults :
    (∀ op < 4, Issues (issued 0 1 2 [(13, op * 2 ^ 28)]) 0 0 0 1 2 ∧ vOp (slotOf (issued 0 1 2 [(13, op * 2 ^ 28)]) 0) = op) ∧
    (∀ m < 3, Issues (issued 0 1 0x10 [(13, m * 2 ^ 4)]) 0 0 0 1 0x10 ∧ bits (cw (slotOf (issued 0 1 0x10 [(13, m * 2 ^ 4)]) 0) 13) 5 4 = m) ∧
    (∀ m < 2, Issues (issued 0 1 0x11 [(13, m * 2 ^ 18)]) 0 0 0 1 0x11 ∧ rsMode (slotOf (issued 0 1 0x11 [(13, m * 2 ^ 18)]) 0) = m) := by
  and_intros <;> decide +kernel

theorem witness_ShuffleAndArgmaxResults :
    (∀ m ∈ [2, 3], Issues (issued 0 1 0x11 [(13, m * 2 ^ 18)]) 0 0 0 1 0x11 ∧ rsMode (slotOf (issued 0 1 0x11 [(13, m * 2 ^ 18)]) 0) = m ∧
      (opC (slotOf (issued 0 1 0x11 [(13, m * 2 ^ 18)]) 0)).mx = false) ∧
    Issues (issued 0 1 0x12 []) 0 0 0 1 0x12 ∧ (opC (slotOf (issued 0 1 0x12 []) 0)).mx = false ∧ (opX (slotOf (issued 0 1 0x12 []) 0)).mx = false ∧
    ([numZero] : List Machine.Num) ≠ [] := by and_intros <;> decide +kernel

theorem witness_ZeroRunResults :
    (Issues (issued 0 1 0x20 [(12, 2 ^ 12)]) 0 0 0 1 0x20 ∧ zrSegments (slotOf (issued 0 1 0x20 [(12, 2 ^ 12)]) 0) % 2 = 0) ∧
    (Issues (issued 0 1 0x20 []) 0 0 0 1 0x20 ∧ zrSegments (slotOf (issued 0 1 0x20 []) 0) % 2 = 1) ∧
    Issues (issued 0 1 0x21 []) 0 0 0 1 0x21 := by and_intros <;> decide +kernel

theorem witness_ZeroRunExpansionInvertsCompression :
    ((1 : Nat) = 1 ∨ (1 : Nat) = 2) ∧ ((2 : Nat) = 1 ∨ (2 : Nat) = 2) ∧ (List.replicate 256 (0 : Byte)).length = 256 := by and_intros <;> decide +kernel

theorem witness_MatrixAndWindowResults :
    Issues (issued 0 0 1 []) 0 0 0 0 1 ∧ Issues (issued 0 0 2 []) 0 0 0 0 2 ∧ Issues (issued 0 1 0x30 []) 0 0 0 1 0x30 ∧
    (opC (slotOf (issued 0 0 1 []) 0)).mx = false := by and_intros <;> decide +kernel

theorem witness_TransformResults :
    ∀ op ∈ [1, 2, 3], Issues (issued 0 2 op []) 0 0 0 2 op ∧ (opC (slotOf (issued 0 2 op []) 0)).mx = false := by decide +kernel

theorem witness_TransferFenceAndReleaseResults :
    (∀ op ∈ [1, 2, 3, 4], Issues (issued 0 3 op []) 0 0 0 3 op) ∧ Issues (issued 0 4 1 []) 0 0 0 4 1 ∧ Issues (issued 36 6 3 []) 36 0 0 6 3 := by
  and_intros <;> decide +kernel

theorem witness_RimResults :
    (∀ op ∈ [1, 2, 3], Issues (issued 32 5 op []) 32 0 0 5 op) ∧
    (let y := slotOf (issued 32 5 3 []) 32; picBits (rA y).fmt = picBits (rC y).fmt ∧ picChannels (rC y).fmt ≤ picChannels (rA y).fmt) ∧
    (let y := slotOf (issued 32 5 3 [(4, 2 * 2 ^ 26)]) 32; Issues (issued 32 5 3 [(4, 2 * 2 ^ 26)]) 32 0 0 5 3 ∧ picBits (rA y).fmt ≠ picBits (rC y).fmt) ∧
    (let y := slotOf (issued 32 5 3 [(8, 2 ^ 26)]) 32; picChannels (rA y).fmt < picChannels (rC y).fmt) := by and_intros <;> decide +kernel

/-- A gather whose history table holds one byte, so that a pixel takes 256 bytes. -/
def gatherOdd : State :=
  let s := issued 36 6 1 [(4, 2 ^ 30)]
  let y := slotOf s 36
  setFrame 0 { Frame.init with st := .mapped, page := { Page.zero with cells := [(5, 1)] } }
    (setSlot 36 0 0 { y with run := { y.run with pins := [{ tile := 0, page := 0, frame := 0 }] } } s)

/-- The segments of a gather, as its meaning reads them. -/
def segsOf (s : State) : List (Nat × List Byte) :=
  let y := slotOf s 36
  gatherSegs (rdOp s y (rA y)) (fun a => regionByte s y.part y.run.serial a) (rdOp s y (rB y)) y

theorem witness_GatherAndAdvanceResults :
    (Issues (issued 36 6 1 [(14, 2 ^ 31)]) 36 0 0 6 1 ∧ gaExpand (slotOf (issued 36 6 1 [(14, 2 ^ 31)]) 36) = true) ∧
    (Issues (issued 36 6 1 []) 36 0 0 6 1 ∧ gaExpand (slotOf (issued 36 6 1 []) 36) = false ∧ (segsOf (issued 36 6 1 [])).length % 2 = 0 ∧
      ((segsOf (issued 36 6 1 [])).all fun e => decide (e.1 ≤ 8)) = true) ∧
    (Issues gatherOdd 36 0 0 6 1 ∧ gaExpand (slotOf gatherOdd 36) = false ∧ (segsOf gatherOdd).length % 2 = 1) ∧
    Issues (issued 36 6 2 []) 36 0 0 6 2 := by and_intros <;> decide +kernel

theorem witness_MotionEngineResults :
    (∀ op ∈ [1, 2, 3, 4, 5], Issues (issued 40 7 op []) 40 0 0 7 op) ∧ waCopy (slotOf (issued 40 7 5 []) 40) = false ∧
    (Issues (issued 40 7 5 [(14, 2 ^ 16)]) 40 0 0 7 5 ∧ waCopy (slotOf (issued 40 7 5 [(14, 2 ^ 16)]) 40) = true) ∧
    esPacked (slotOf (issued 40 7 2 []) 40) = false ∧ esPacked (slotOf (issued 40 7 2 [(13, 2 ^ 25)]) 40) = true := by and_intros <;> decide +kernel

theorem witness_FinishingDeliversOutputs : sKey 47 4 63 ≠ sKey 0 0 0 := by decide

theorem witness_PowerLossResets : ((2 : Nat) ≤ 2 ∧ (2 : Nat) ≤ 10) ∧ ((2 : Nat) ≤ 10 ∧ (10 : Nat) ≤ 10) := by decide

/-- A partition that runs, with queue 0 of tile 0 bound to it and enabled. -/
def running : State := withObjs [(oPartitionState 0, 2), (oBinding 0 0, 0x8000)] on

/-- It, with a command waiting at the head of queue 0 of tile 0. -/
def waiting (vs : List (Nat × Nat)) : State :=
  setQueue 0 0 { Queue.init with tail := 1 } (put 0 .waiting vs (setObj (oTileState 0) 1 running))

/-- A latency-critical load of the region waits while a transfer of partition 1 holds the unit. -/
def contested : State :=
  setQueue 0 1 { Queue.init with head := 1, tail := 1 }
    (setSlot 0 1 0 { Slot.init with words := wordsOf [(0, 3 * 2 ^ 28 + 2 ^ 20)], part := 1, phase := .running, run := { Run.init with unit := 3 } }
      (updPart 0 (fun x => { x with latencyCritical := true })
        (let s := withObjs [(oRegionSpan 0, 1), (oTileBankValid 0, 0xFFFF)]
            (waiting [(0, 3 * 2 ^ 28 + 2 * 2 ^ 20), (8, 2 ^ 27 + 2 ^ 26), (9, 2 ^ 13), (14, 2 ^ 10)])
         { s with tl := { s.tl with units := [(3, sKey 0 1 0 + 1)] } })))

theorem witness_TailWritePublishesInOrder :
    Serves 1 plain ∧ plain.now.stamped = [] ∧ (0 : Nat) < 4 ∧ objExists plain (engIndex 0) (0x0C + 0) = true ∧ isDet plain (queuePart plain 0 0) = false ∧
    (let x := getQueue plain 0 0; let tail := 256 % 65536 % ptrMod 0; let n := (tail + ptrMod 0 - x.tail) % ptrMod 0
     queueHeld 0 { x with tail := tail } ≤ slotsOf 0 ∧ queueHeld 0 x ≤ queueHeld 0 { x with tail := tail } ∧ n ≤ slotsOf 0 ∧ n = 256) ∧
    Canonical plain := by
  refine ⟨?_, ?_, ?_, ?_, ?_, ?_, plain_sound⟩ <;> decide +kernel

theorem witness_DispatchStartsRefusesOrKills :
    (Live (waiting [(0, 4 * 2 ^ 28 + 2 ^ 20)]) ∧ judgeable (waiting [(0, 4 * 2 ^ 28 + 2 ^ 20)]) 0 0 = some 0) ∧
    refusalOf (waiting [(0, 3 * 2 ^ 28 + 2 ^ 20)]) 0 0 (slotOf (waiting [(0, 3 * 2 ^ 28 + 2 ^ 20)]) 0) = some 4 ∧
    (let s := waiting [(0, 4 * 2 ^ 28 + 2 ^ 20)]
     refusalOf s 0 0 (slotOf s 0) = none ∧ ready s 0 0 = some 0 ∧ wins s 0 0 0 = true ∧ unitFree s 0 0 (slotOf s 0) = true) ∧
    (Live contested ∧ judgeable contested 0 0 = some 0 ∧ refusalOf contested 0 0 (slotOf contested 0) = none ∧ ready contested 0 0 = some 0 ∧
      wins contested 0 0 0 = true ∧ unitFree contested 0 0 (slotOf contested 0) = false) := by
  and_intros <;> decide +kernel

/-- A finished command with a write for another tile, one for the region, and a tag. -/
def writing (shadows : List Pin) (w : Write) : State :=
  let s := setObj oCisternState 1 (put 0 .finished [] on)
  { setSlot 0 0 0 { slotOf s 0 with run := { Run.init with outbox := [w], tag := some 0, shadows := shadows } } s with
    ci := { s.ci with tags := [(0, { part := 0, fallback := false, st := .live, step := 0, first := 0, last := 0, need := 1, entries := [(0, 5)] })] } }

/-- A write of one byte to tile 0. -/
def toTile : Write := { tile := some 0, page := 0, off := 65535, bytes := [7] }

/-- A write of one byte to the region. -/
def toRegion : Write := { tile := none, page := 0, off := 0, bytes := [7] }

theorem witness_WritesLandInShadows :
    (let s := writing [{ tile := 0, page := 0, frame := 9 }] toTile
     Live s ∧ (slotOf s 0).phase = .finished ∧ (slotOf s 0).run.outbox[0]? = some toTile ∧ shadowOf (slotOf s 0).run 0 0 = some 9) ∧
    (let s := writing [] toTile
     Live s ∧ shadowOf (slotOf s 0).run 0 0 = none ∧ ((allocShadow 0 0 0 0 0 s).map (·.1)) = some 0 ∧ allocShadow 0 0 0 1 0 s = none) ∧
    (let s := writing [] toRegion
     (slotOf s 0).run.outbox[0]? = some toRegion ∧ toRegion.tile = none ∧ (slotOf s 0).run.tag = some 0 ∧ ensureShadow 0 (engineDie s 0) 0 s = some (5, s)) ∧
    (let s := setSlot 0 0 0 { Slot.init with phase := .finished, run := { Run.init with acks := [some 5, none] } } on
     Live s ∧ (slotOf s 0).phase = .finished ∧ (slotOf s 0).run.acks[0]? = some (some 5) ∧ (slotOf s 0).run.acks[1]? = some none) := by
  and_intros <;> decide +kernel

/-- A kill is signalled to slot 0 of queue 0 of tile 0. -/
def beingKilled : State := setQueue 0 0 { Queue.init with head := 1, tail := 1 } (put 0 (.killing false 0) [] on)

theorem witness_KillsNotificationsAndWithdrawals :
    (Live beingKilled ∧ 0 ∈ killingSlots beingKilled 0 0) ∧
    (let s := setNotices 0 [(0, 0)] (setQueue 0 0 { Queue.init with notified := true } on)
     Live s ∧ noticeTurn s 0 0 = true ∧ (getQueue s 0 0).notified = true) ∧
    (let s := updPart 0 (fun x => { x with marks := [3] }) (waiting [(3, 3 * 2 ^ 16)])
     Live s ∧ headSlot s 0 0 = some 0 ∧ (slotOf s 0).phase = .waiting ∧ cJob (slotOf s 0) ∈ (getPart s (slotOf s 0).part).marks ∧
      (getPart s (slotOf s 0).part).withdrawals.length < 1024) := by
  and_intros <;> decide +kernel

theorem witness_GrantCommits :
    let s := put 0 .requested [] plain
    Canonical s ∧ Live s ∧ (slotOf s 0).phase = .requested ∧ stepTurn s (slotOf s 0) = true := by
  refine ⟨⟨plain_sound.objs, plain_sound.width, plain_sound.latches, plain_sound.flash, plain_sound.sensors, plain_sound.staging, plain_sound.fab,
    ⟨?_, ?_, ?_, ?_, ?_, ?_, ?_, ?_⟩, plain_sound.ci, plain_sound.pt, plain_sound.sy, plain_sound.st, plain_sound.io, plain_sound.alm⟩, ?_, ?_, ?_⟩ <;>
  decide +kernel

theorem witness_CommitSequenceRetires :
    (let s := setSlot 0 0 0 { Slot.init with phase := .granted, run := { Run.init with flips := [31] } } on
     Live s ∧ (slotOf s 0).phase = .granted ∧ 31 ∈ (slotOf s 0).run.flips) ∧
    (let s := put 0 .granted [] on; (slotOf s 0).phase = .granted ∧ (slotOf s 0).run.flips = [] ∧ sourceHolds s (.engine 0) = false) ∧
    (let s := put 0 (.refused 4) [] on; (slotOf s 0).phase = .refused 4 ∧ stepTurn s (slotOf s 0) = true) ∧
    (let s := put 0 .abandoned [] on; (slotOf s 0).phase = .abandoned ∧ stepTurn s (slotOf s 0) = true ∧ sourceHolds s (.retire 0) = false) ∧
    (let s := updPart 0 (fun x => { x with withdrawals := [{ step := 0, object := 1, increment := 1 }] }) running
     Live s ∧ ((getPart s 0).withdrawals.find? fun w => w.step == getObj s (oStepCounter 0)) = some { step := 0, object := 1, increment := 1 } ∧
      replayHeld s 0 = false ∧ (getPart s 0).grantsHeld = false ∧ pState s 0 ≠ 4 ∧ sourceHolds s (.retire 0) = false) ∧
    (let s := withObjs [(oPartitionState 0, 4)] on; Live s ∧ pState s 0 = 4 ∧ resetReady s 0 = true) := by
  and_intros <;> decide +kernel

theorem witness_CommandDataBindingAndBanks :
    (Serves 1 on ∧ objExists on (oCmdData 47 / 256) (oCmdData 47 % 256) = true ∧
      (let p := cursorParts 47 (getObj on (oCmdCursor 47)); p.2.2 < 16 ∧ p.1 ≠ 4 ∧ slotPublished on 47 p.1 p.2.1 = false) ∧
      (let s := setObj (oCmdCursor 47) (4 * 2 ^ 16 + 15) on; let p := cursorParts 47 (getObj s (oCmdCursor 47)); p.2.2 < 16 ∧ p.1 = 4) ∧
      (let s := setQueue 0 0 { Queue.init with tail := 1 } on; slotPublished s 0 0 0 = true ∧ (cursorParts 0 (getObj s (oCmdCursor 0))).2.2 < 16) ∧
      (16 ≤ (cursorParts 0 (getObj (setObj (oCmdCursor 0) 16 on) (oCmdCursor 0))).2.2) ∧
      (let s := { on with fab := { on.fab with board := { Board.blank with grade := 2 } } }; objExists s (oCmdData 39 / 256) (oCmdData 39 % 256) = false)) ∧
    (objExists on (oBinding 0 3 / 256) (oBinding 0 3 % 256) = true ∧ (bit 5 15 = false ∧ bits 0x0000 3 0 = bits (getObj on (oBinding 0 3)) 3 0) ∧
      ((getQueue on 0 3).tail = (getQueue on 0 3).commit ∧ bit (getObj on (oBinding 0 3)) 15 = false) ∧ bit (getObj running (oBinding 0 0)) 15 = true ∧
      (let s := setQueue 0 3 { Queue.init with tail := 1, rerun := true } on
       (getQueue s 0 3).rerun = true ∧ bit 0x8000 15 = true ∧ bit (getObj s (oBinding 0 3)) 15 = false ∧ bits 0x8000 3 0 = bits (getObj s (oBinding 0 3)) 3 0)) ∧
    (bankBusy on 0 15 = false ∧ bankBusy (setFrame 720 { Frame.init with st := .retired } on) 0 15 = true ∧ bit 0x8000 15 ≠ bit (getObj on (oTileBankValid 0)) 15) ∧
    (getLatches (setLatches 1 { Latches.init with write := some (oTileBankOwner 31, 5) } on) 1).write = some (oTileBankOwner 31, 5) := by
  and_intros <;> decide +kernel

theorem witness_SyncWindowsWatchesAndVectors :
    (Serves 1 on ∧ masterWaits (syncNext on) 1 0 = false ∧ on.sy.fill = none ∧
      (let s := setBank 0 { Bank.init with be := [{ object := 0, set := true, value := 1, source := .master 1, part := 16 }] } on
       Serves 1 s ∧ masterWaits (syncNext s) 1 0 = true ∧ s.sy.fill = none) ∧
      (let s := setObj oSyncFillCount 65536 on; s.sy.fill = none ∧ 0 < getObj s oSyncFillCount ∧ getObj s oSyncFillCount ≤ 65536) ∧
      (let f : Fill := { next := 65535, left := 2, value := 3, master := 1 }; let s := { on with sy := { on.sy with fill := some f } }
       s.sy.fill ≠ none ∧ Serves 1 s ∧ f.left ≠ 0 ∧ sourceHolds s (.fill f.master) = false) ∧
      (let f : Fill := { next := 1, left := 0, value := 3, master := 1 }; let s := { on with sy := { on.sy with fill := some f } }
       s.sy.fill = some f ∧ f.left = 0 ∧ sourceHolds s (.fill f.master) = false ∧ Live s)) ∧
    (Serves (1 + 1) on ∧ (0x3FFFC : Nat) % 4 = 0 ∧ (0x3FFF8 : Nat) % 8 = 0 ∧ masterWaits on (1 + 1) (0x3FFFC / 4 % 65536) = false ∧ ((2 : Nat) ≠ 4 ∨ (1 : Nat) % 4 ≠ 0) ∧ (7 : Nat) ≠ 0xF) ∧
    (2047 ∈ (getPcie (setPcie 0 { Pcie.init with msixPending := [2047] } on) 0).msixPending) := by
  and_intros <;> decide +kernel

theorem witness_UpdatesAreApplied :
    (let u : Update := { object := 16, set := false, value := 1, source := .engine 0, part := 0 }
     Live on ∧ classQueue (getBank (setBank 0 { Bank.init with lc := [u] } on) 0) .lc = [u] ∧ on.sy.held = [] ∧ getObj on oDetActive = 0 ∧ (17 : Nat) ≠ u.object ∧
      (let s := setBank 0 { Bank.init with be := [u] } on; classQueue (getBank s 0) .be = [u] ∧ (getBank s 0).det = []) ∧
      (let s := setBank 0 { Bank.init with det := [u] } on; classQueue (getBank s 0) .det = [u] ∧ (getBank s 0).det ≠ []) ∧
      getObj (setObj oDetActive 1 on) oDetActive = 1) := by
  and_intros <;> decide +kernel

/-- Bring-up is done: partition commands are open. -/
def opened : State := withObjs [(oBringStatus 10, 0), (oPartitionTiles 0, 1), (oTileState 0, 1), (oCompatState, 1)] on

/-- A loan stands: tile 0 of partition 0 is lent to partition 1. -/
def lent : State := updPart 0 (fun x => { x with tiles := 1, loans := [{ tile := 0, banks := 1, queues := 1, borrower := 1 }] }) on

theorem witness_PartitionAndLoanCommands :
    (Serves 1 opened ∧ stepDone opened 10 = true ∧ isDet opened 0 = false ∧ configureRefusal opened 0 = none ∧
      configureRefusal (setObj (oPartitionState 0) 2 opened) 0 = some 1 ∧
      startRefused (setObj (oPartitionState 0) 1 opened) 0 = false ∧ startRefused opened 0 = true ∧
      stopRefused (setObj (oPartitionState 0) 3 opened) 0 = false ∧ stopRefused opened 0 = true ∧
      pState (setObj (oPartitionState 0) 3 opened) 0 = 3 ∧ pState (setObj (oPartitionState 0) 4 opened) 0 ≠ 2 ∧
      pState (setObj (oPartitionState 0) 4 opened) 0 ≠ 3) ∧
    (Serves 1 on ∧ (getPart on 0).reclaiming = []) ∧
    (let s := updPart 0 (fun x => { x with tiles := 1 }) (withObjs [(oPartitionState 0, 1), (oPartitionState 1, 1), (oLoanBorrower 0, 1)] on)
     lendRefusal s 0 = none ∧ (getPart s 0).reclaiming = []) ∧
    lendRefusal on 0 = some 1 ∧ (loansOn lent 0 0 ≠ [] ∧ lentList lent 0 ≠ [] ∧ (getPart lent 0).reclaiming = []) ∧
    (let s := updPart 0 (fun x => { x with reclaiming := [0] }) lent
     Live s ∧ (getPart s 0).reclaiming ≠ [] ∧ (getPart s 0).reclaiming = [0] ∧ (loansOn s 0 0).all (loanKilled s) = true ∧
      ((loansOn (markLent 0 0 s) 0 0).all fun l => loanEmpty (markLent 0 0 s) l && loanKilled (markLent 0 0 s) l) = true) := by
  and_intros <;> decide +kernel

theorem witness_AccountingPeekAndAdmission :
    (Serves 1 on ∧ isDet on 0 = false ∧ on.now.charged = [] ∧ (1023 : Nat) % 65536 < 1024 ∧ (0xFFFF : Nat) % 65536 = 0xFFFF ∧
      acctLatched on 0 (getObj on (oAcctCursor 0) % 8192) = none) ∧
    (let s := { withObjs [(oReplayControl 0, 1), (oReplayStopStep 0, 0)] (updPart 0 (fun x => { x with tiles := 1 }) on) with
        tl := { on.tl with pageMap := [(0, 1)] } }
     peekWord s 0 = some 0) ∧ peekWord on 0 = none ∧
    (let s := setObj (oPartitionLatched 3) 1 { on with clk := { on.clk with started := true } }
     Live s ∧ s.clk.started = true ∧ cycle s % getObj s oDetQuantum = 0 ∧ detParts s ≠ []) := by
  and_intros <;> decide +kernel

/-- A Cistern in service with all eight stacks. -/
def cistern : State := withObjs [(oCisternState, 1), (oCisternStackState, 0x11111111)] on

/-- A region page of partition 0 in a slot of stack 1. -/
def oneSlot : State :=
  { cistern with ci := { cistern.ci with
      slots := [(stackSlots, { CSlot.init with st := .mapped })], pages := [(0, [{ slot := some stackSlots, step := some 0, serial := 0 }])], serial := 1 } }

theorem witness_LineReadsHealOrZero :
    Live cistern ∧ slotThere cistern 0 = true ∧ slotThere cistern (8 * stackSlots - 1) = true ∧
    (∀ v ∈ [LineVerdict.clean, .corrected, .bad false, .bad true], lineOut cistern 0 0 = false ∧ memberOut cistern 0 0 = false ∧ lineVerdict cistern 0 0 v = v) ∧
    (let s := setObj oCisternStackState 0x11111114 cistern; Live s ∧ slotThere s 0 = true ∧ lineOut s 0 0 = true) ∧
    mended .corrected = true ∧ mended (.bad false) = true ∧ (63 : Nat) < 64 ∧ (64 : Nat) * 1 + 64 ≤ 128 ∧ (1 : Nat) ≠ 0 := by
  and_intros <;> decide +kernel

theorem witness_TagsAndSlotsAreFreed :
    (∀ st ∈ [TagState.committed, TagState.killed],
      let x : Tag := { part := 0, fallback := false, st := st, step := 0, first := 0, last := 0, need := 1, entries := [(0, 5)] }
      let s := { on with ci := { on.ci with tags := [(127, x)] } }
      Live s ∧ getTag s 127 = some x ∧ x.st ≠ .live) ∧
    (let s := setC 5 { CSlot.init with st := .retired, replStep := some 0 } (setObj (oStepCounter 0) 1 on)
     Live s ∧ (getC s 5).st = .retired ∧ slotUnread s (getC s 5) = true) := by
  and_intros <;> decide +kernel

theorem witness_MigrationMovesPages :
    (let s := withObjs [(oCisternMigrateCount, 1), (oRegionSpan 0, 1), (oCisternMigrateTarget, 0x10)] cistern
     Serves 1 s ∧ s.ci.migrate = none ∧ getObj s oCisternState ≠ 0 ∧ migrateOk s = true) ∧
    migrateOk cistern = false ∧ { on.ci with migrate := some (0, 0, 1, 0) }.migrate ≠ none ∧
    (∀ left ∈ [1, 2], ∀ x ∈ [({ part := 0, page := 0, slot := some 7, skip := false } : PageMove), { part := 0, page := 0, slot := none, skip := true }],
      let s := { cistern with ci := { cistern.ci with migrate := some (0, 0, left, 0), moving := some x } }
      Live s ∧ getObj s oCisternState ≠ 3 ∧ s.ci.migrate = some (0, 0, left, 0) ∧ s.ci.moving = some x ∧ moveReady x = true) ∧
    (let x : PageMove := { part := 0, page := 0, slot := some 7, skip := false }
     let s := { setObj oCisternState 3 cistern with ci := { cistern.ci with rebuilding := some x } }
     Live s ∧ getObj s oCisternState = 3 ∧ s.ci.migrate = none ∧ s.ci.rebuilding = some x ∧ moveReady x = true ∧
       { s.ci with migrate := some (0, 0, 1, 0) }.migrate.isSome = true) ∧
    (weightPages oneSlot (getC oneSlot stackSlots).part ≤ (getC oneSlot stackSlots).rpage ∧ 65535 / 65536 = (getC oneSlot stackSlots).rpage) ∧ (0 : Nat) ≠ 1 := by
  and_intros <;> decide +kernel

theorem witness_StacksAndChannels :
    (Serves 1 cistern ∧ stackUp cistern 7 = true ∧ (7 : Nat) % 256 < 8 ∧ (presentStacks cistern).contains (7 % 256) = true ∧ someLost cistern = false) ∧
    someLost (setObj oCisternStackState 0x41111111 cistern) = true ∧
    (let s := withObjs [(oCisternState, 3), (oCisternStackState, 0x41111111)] cistern
     Live s ∧ getObj s oCisternState = 3 ∧ rebuildMoves s = []) ∧
    ((7, 31) ∉ cistern.ci.lostPcs ∧ (7, 31) ∉ cistern.ci.pcWaiting ∧ cistern.ci.pcRetrain = none) ∧
    (let s := { cistern with ci := { cistern.ci with pcRetrain := some (0, 0), lostPcs := [(0, 1), (0, 2)] } }
     s.ci.pcRetrain = some (0, 0) ∧ ((0 : Nat), (0 : Nat)) ≠ (7, 31) ∧ (s.ci.lostPcs.filter fun e => e.1 == 0).length < 3) := by
  and_intros <;> decide +kernel

theorem witness_RegionWrites :
    (Serves 1 running ∧ 2 ≤ pState running 0) ∧
    (let s := withObjs [(oRegionReserve 0, 4), (oRegionSpan 0, 2), (oCisternAllocatable, 20490)] oneSlot
     Serves 1 s ∧ pState s 0 < 2 ∧ mappedTop s 0 ≤ 1 ∧ 4 ≤ getObj s (oRegionReserve 0) ∧ 0 < mappedTop s 0 ∧ getObj s (oRegionReserve 0) < 5 ∧
      getObj s (oRegionSpan 0) ≤ 2 ∧ regionUse s 0 ≤ 2 ∧
      reservedTotal s - getObj s (oRegionReserve 0) + 10 + getObj s oCisternFallbackMargin ≤ getObj s oCisternAllocatable ∧
      getObj s oCisternAllocatable < reservedTotal s - getObj s (oRegionReserve 0) + 11 + getObj s oCisternFallbackMargin ∧
      (1 : Nat) % 256 ≤ 1 ∧ 1 < (2 : Nat) % 256) := by
  and_intros <;> decide +kernel

/-- A load that has left its checks. -/
def loading (phase : Nat) : LoadRun := { part := 0, slot := 4, phase := phase, image := [] }

/-- An image of one tile with no resident page, no weights and no code: its header, the table of a tile plan and of weights, and the plan. -/
def imageFile : List Byte :=
  let plan : List Byte := List.replicate 128 0
  let entry (type crc offset length : Nat) : List Byte := leBytes 2 type ++ leBytes 2 0 ++ leBytes 4 crc ++ leBytes 8 offset ++ leBytes 8 length ++ leBytes 8 0
  let table := entry 1 (crc32c plan) 128 128 ++ entry 3 (crc32c []) 256 0
  let head := leBytes 4 0x49505847 ++ leBytes 4 1 ++ leBytes 2 64 ++ leBytes 2 2 ++ [1, 0, 0, 0] ++ leBytes 8 0 ++ leBytes 8 1 ++ leBytes 8 9 ++ List.replicate 16 0 ++
    leBytes 4 (crc32c table)
  head ++ leBytes 4 (crc32c head) ++ table ++ plan

/-- It is being checked for partition 0, and the pair that runs is tested with its version. -/
def checking : State :=
  let s := updPart 0 (fun x => { x with tiles := 1, syncCount := 1 }) on
  { s with fab := { s.fab with load := some { loading 1 with image := imageFile } }, fw := { s.fw with compat := [[0, 0, 0, 0x10000]] } }

theorem witness_LoadCommands :
    (let s := setObj (oPartitionState 0) 1 { on with flash := [(0x500000, 0)] }
     Serves 1 s ∧ s.fab.load = none ∧ pState s (loadPart s) = 1 ∧ slotEmpty s 4 = true ∧ (getPart s (loadPart s)).loans = []) ∧
    (let s := withObjs [(oPartitionState 0, 1), (oFabricLoadSlot, 4), (oImgLength 4, 64)] on
     s.fab.load = none ∧ pState s (loadPart s) = 1 ∧ slotEmpty s (getObj s oFabricLoadSlot) = false) ∧
    (Serves 1 on ∧ pState on (loadPart on) ≠ 1) ∧
    (let s := setObj (oPartitionState 0) 1 lent; s.fab.load = none ∧ pState s (loadPart s) = 1 ∧ (getPart s (loadPart s)).loans ≠ []) ∧
    (let s := { on with fab := { on.fab with load := some (loading 1) } }
     Serves 1 s ∧ s.fab.load = some (loading 1) ∧ (loading 1).part = loadPart s ∧ (loading 1).phase < 2 ∧ (5 : Nat) ≤ 5 ∧ (loading 1).phase = 1 ∧
      loadFail s 0 (loadFile s (loading 1)) = some (failPlain 2)) ∧
    (let s := { on with fab := { on.fab with load := some (loading 4) } }
     s.fab.load = some (loading 4) ∧ (loading 4).phase < 5 ∧ (loading 4).phase ≠ 1 ∧ (loading 2).phase < 3 ∧ (3 : Nat) < 5) ∧
    (Live checking ∧ (1 : Nat) < 2 ∧ (4 : Nat) < 5 ∧ checking.fab.load = some { loading 1 with image := imageFile } ∧
      loadFail checking 0 (loadFile checking { loading 1 with image := imageFile }) = none) := by
  and_intros <;> decide +kernel

theorem witness_LinkEvents :
    (let s := setObj oFabricLinks 0x11111111 on
     Live s ∧ linkUp s 7 = true ∧ (7 : Nat) < 8 ∧ (1, 15, 16) ∉ (getLink s 7).out ∧ groupOut (getLink s 7) 1 15 = 0) ∧
    (let s := setLink 7 { Link.init with out := [(1, 15, 0), (1, 15, 1)] } (setObj oFabricLinks 0x11111111 on)
     linkUp s 7 = true ∧ 2 ≤ groupOut (getLink s 7) 1 15 ∧ (1, 15, 2) ∉ (getLink s 7).out) ∧
    groupOut { Link.init with out := [(1, 15, 0)] } 1 15 = 1 ∧
    (let s := setObj oFabricLinks 0x33333333 on
     linkState s 7 = 3 ∧ s.pw.computeOff = false ∧ trainedState (getLink s 7) ≠ 4) ∧
    (let s := setLink 0 { Link.init with failedAt := some 0 } (setObj oFabricLinks 4 { on with clk := { on.clk with ticks := 140000000 } })
     linkState s 0 = 4 ∧ (getLink s 0).failedAt = some 0 ∧ 0 + 100 * 1400000 ≤ ticks s ∧ s.pw.computeOff = false) := by
  and_intros <;> decide +kernel

/-! ### Streams -/

/-- A graph descriptor (R279): kind, steps and the offset of the first. -/
def graphBytes (kind count steps : Nat) : List Byte :=
  [BitVec.ofNat 8 kind, 0, 1, 0] ++ leBytes 2 count ++ leBytes 2 0 ++ leBytes 4 steps ++ List.replicate 20 0

/-- A section header: so many graphs. -/
def sectionBytes (graphs : Nat) : List Byte := leBytes 2 graphs ++ List.replicate 30 0

/-- An image of one family: a source graph, an output graph of one step on tile 0, a warm-up graph, and a fallback graph of one step on a rim engine. -/
def plan : Loaded :=
  { imageId := 1, binding := [0], rims := [32], plan := [], resident := [], weights := 0
    templates := sectionBytes 3 ++ graphBytes 0 0 128 ++ graphBytes 1 1 128 ++ graphBytes 2 0 128 ++ List.replicate 160 0
    fallbacks := sectionBytes 1 ++ graphBytes 3 1 64 ++ (leBytes 4 (2 ^ 27 + 32 * 2 ^ 21) ++ List.replicate 156 0) }

/-- Partition 0 runs with that image; stream 0 takes ring 0 at 24 Hz and gives ring 1. -/
def streamed (vs : List (Nat × Nat)) : State :=
  updPart 0 (fun x => { x with loaded := some plan, syncCount := 1 })
    (withObjs ([(oBinding 0 0, 0x8000), (oPartitionState 0, 2), (oSeqRates 0, 0x1100), (oSeqLatency 0, 2), (oSeqSrcRing 0, 4), (oSeqChunkRate 0, 1),
        (oSeqInput 0, 0x2000), (oSeqOutput 0, 0x2001), (oDmaState 0, 1), (oDmaState 1, 1),
        (oDmaConfig 0, 2 ^ 31 + 2 ^ 17), (oDmaConfig 1, 2 ^ 31 + 2 ^ 30 + 2 ^ 17)] ++ vs) on)

/-- An instance of the output graph and one of the fallback graph. -/
def instOf (kind graph : Nat) : Inst :=
  { kind := kind, graph := graph, o := 0, m := 0, t8 := 0, chunk := 0, next := 0, steps := [], finish := none, passed := false, cutCount := 0, copy := false,
    firstAdvance := false, dropped := false }

/-- Stream 0 publishes its output graph. -/
def publishing : State := setSeq 0 { Seq.init with pending := [instOf 1 1] } (streamed [(oSeqState 0, 2)])


theorem witness_StreamCommands :
    (Serves 1 (streamed []) ∧ (127 : Nat) < 128 ∧ (startResult (streamed []) 0).1 = 0 ∧ (startResult on 0).1 ≠ 0) ∧
    (∀ st ∈ [1, 2, 3], let s := setObj (oSeqState 0) st on; Serves 1 s ∧ seqState s 0 = st ∧ seqState s 0 ≠ 4 ∧ admittedNow s 0 = none) ∧
    (∀ st ∈ [2, 3], let s := { setObj (oSeqState 0) st on with now := { on.now with admitted := [(0, 7)] } }; Serves 1 s ∧ seqState s 0 = st ∧ admittedNow s 0 = some 7) ∧
    (let s := setObj (oSeqState 127) 4 on; Serves 1 s ∧ seqState s 127 = 4 ∧ ∀ w ∈ getWatched s 127, w.presented = true) := by
  and_intros <;> decide +kernel

theorem witness_FramesArePublished :
    (let s := setSeq 0 { Seq.init with mNext := 1 } (streamed [(oSeqState 0, 2), (oClockCycle, 10 ^ 9)])
     Live s ∧ seqState s 0 = 2 ∧ (getSeq s 0).waits = none ∧ 4 * dueOf s 0 (getSeq s 0).mNext + sourceSpan s 0 < 4 * cycle s) ∧
    (Live publishing ∧ portChoice publishing = some 0 ∧ seqLoaded publishing 0 = some plan ∧
      (seqHead publishing 0).map (·.2) = some (instOf 1 1, 0, 0, 0) ∧ (getQueue publishing 0 0).tail < ptrMod 0 ∧
      queueHeld 0 (getQueue publishing 0 0) < slotsOf 0 ∧ (instOf 1 1).dropped = false ∧ publishing.now.stamped = []) ∧
    (let s := { streamed [] with st := { on.st with fallback := [(0, instOf 3 0)] } }
     s.st.fallback = [(0, instOf 3 0)] ∧ seqLoaded s 0 = some plan ∧ instNext plan (instOf 3 0) = some 0 ∧
      stepEngine s plan (stepHead plan.fallbacks (graphDesc plan.fallbacks 0) 0) = 32 ∧ (getQueue s 32 4).tail < ptrMod 32 ∧
      queueHeld 32 (getQueue s 32 4) < slotsOf 32 ∧ instNext plan { instOf 3 0 with next := 1 } = none) ∧
    (let p := { plan with fallbacks := sectionBytes 1 ++ graphBytes 3 2 64 ++ List.replicate 320 0 }; instNext p { instOf 3 0 with next := 1 } ≠ none) := by
  and_intros <;> decide +kernel

/-- A watched frame. -/
def frame0 : Watched :=
  { o := 0, finish := some 5, finishedAt := some 0, fallback := none, switched := false, fbLast := some 0, primary := none, fb := none, presented := false }

theorem witness_CheckpointsAndLateFrames :
    (let s := setWatched 0 [frame0] (streamed [(oSeqState 0, 2)])
     Live s ∧ dueCheckpoint s 0 = some frame0 ∧ completeAt s 0 frame0 = true ∧ ∀ j < 0, dueCheckpoint s j = none) ∧
    (let s := setWatched 0 [{ frame0 with finishedAt := none }] (streamed [(oSeqState 0, 2)])
     dueCheckpoint s 0 = some { frame0 with finishedAt := none } ∧ completeAt s 0 { frame0 with finishedAt := none } = false) ∧
    (let w := { frame0 with fallback := some true }
     let s := setWatched 0 [w] (streamed [(oSeqState 0, 2), (oStepFallback 0, 1)])
     ((getWatched s 0).find? fun w => w.fallback == some true && !w.presented && decide (dOf s 0 w.o ≤ cycle s + 50 * usTicks)) = some w ∧
      w.fbLast = some 0 ∧ 0 < getObj s (oStepFallback (seqPart s 0)) ∧ getObj (streamed []) (oStepFallback 0) ≤ 0) ∧
    getObj (setObj (oSeqOutput 0) 0x1007 on) (oSeqOutput 0) / 4096 = 1 := by
  and_intros <;> decide +kernel

/-! ### Raster ports and timing -/

/-- Input port 7 at 24 Hz, in this state. -/
def inputPort (st : Nat) : State := withObjs [(oRasterConfig 7, 2 ^ 31 + 2 ^ 18), (oRasterState 7, st)] on

/-- A segment that comes in. -/
def segment (kind flags : Nat) (good : Bool) : SegmentData :=
  let x : SegmentData := { kind := kind, flags := flags, line := 0, offset := 0, frame := 0, crc := 0, damaged := false, bytes := List.replicate 8 1 }
  { x with crc := if good then crc32c (leBytes 8 (segmentHeader x) ++ padBlocks x.bytes) else 0 }

/-- The frame that the port is receiving. -/
def receiving : InFrame := { counter := 0, targets := [], start := 1, line := 0, off := 0, concealed := 0, crcs := 0, anc := [] }

theorem witness_InputLanesAndSegments :
    (let s := inputPort 1; Live s ∧ (7 : Nat) < 8 ∧ inputOn s 7 = true ∧ (3 : Nat) < 4 ∧ getObj s (oRasterState 7) ≠ 4 ∧ laneState s 7 3 ≠ 3) ∧
    (∀ l ∈ [1, 3], let s := setObj (oRasterLanes 7) (l * 0x1000) (inputPort 2); 1 ≤ laneState s 7 3 ∧ laneState s 7 3 ≤ 3) ∧
    (let s := setPort 7 { Port.init with inFrame := some receiving } (inputPort 2)
     getObj s (oRasterState 7) = 2 ∧ (∀ k ∈ [0, 1, 2, 3], (segment k 1 true).kind = k ∧ crcGood (segment k 1 true) = true ∧ (segment k 1 true).damaged = false) ∧
      (getPort s 7).inFrame = some receiving ∧ receiving.line = (segment 0 0 true).line ∧ receiving.off ≤ (segment 0 0 true).offset ∧
      (segment 0 0 true).line < (portLines s 7).1 ∧ (segment 0 0 true).offset < ceilDiv (portLineBytes s 7) 8 ∧
      bit (segment 3 1 true).flags 0 = true ∧ bit (segment 3 0 true).flags 0 = false ∧ (∀ k ∈ inputStreams s 7, seqState s k = 0)) ∧
    (crcGood (segment 3 1 false) = false ∧ getObj (inputPort 3) (oRasterState 7) ≠ 2 ∧ getObj (inputPort 3) (oRasterState 7) = 3 ∧ 3 < (segment 4 0 true).kind) ∧
    (let s := setPort 7 { Port.init with lastStart := 1 } (setObj oClockCycle (10 ^ 9) (inputPort 2))
     2 ≤ getObj s (oRasterState 7) ∧ (getPort s 7).lastStart ≠ 0 ∧ (getPort s 7).lastStart + portFrame s 7 ≤ cycle s) := by
  and_intros <;> decide +kernel

/-- A present of stream 0 from the start of region 0. -/
def shown : Present :=
  { k := 0, o := 0, d := 5, pic := { part := 0, offset := 0, stride := 4096, code := 0, w := 1280, h := 720 }, fallback := false, late := false, cd := 0,
    serial := 0, half := none, reading := false }

/-- Output port 7 at 24 Hz with this machinery. -/
def outputPort (x : Port) : State := setPort 7 x (withObjs [(oRasterConfig 7, 2 ^ 31 + 2 ^ 30 + 2 ^ 18)] on)

/-- Its line slots are due. -/
def sendingLines (line : Nat) : State :=
  setObj oClockCycle (10 ^ 9) (outputPort { Port.init with start := 1, slotLine := line, current := some shown })

theorem witness_OutputLinesAndFrames :
    (let s := outputPort { Port.init with current := some shown, nextFetch := 15, entries := [{ line := 14, st := .fetching, bytes := [] }] }
     let x := getPort s 7
     Live s ∧ outputOn s 7 = true ∧ x.entries.length < 16 ∧ x.loading = none ∧ x.held = false ∧ x.current = some shown ∧ x.nextFetch < (portLines s 7).1 ∧
      x.nextFetch < x.slotLine + 16 ∧ x.slotLine ≤ 14 ∧ { line := 14, st := .fetching, bytes := [] } ∈ x.entries) ∧
    (let s := withObjs [(oRasterVtDeclared 7, 1), (oRasterVtEnable 7, 1)] (outputPort { Port.init with waiting := [shown], lastFull := some shown })
     let x := getPort s 7
     x.loading = none ∧ x.waiting = [shown] ∧ x.lastFull = some shown ∧ vtOn s 7 = true ∧ cycle s < shown.d) ∧
    (∀ line ∈ [1, 719, 720, 749], let s := sendingLines line; let x := getPort s 7
      outputOn s 7 = true ∧ x.start ≠ 0 ∧ x.start + portSpan s 7 x.slotLine ≤ cycle s ∧ pathOut s 7 = none ∧ 0 < x.slotLine ∧ x.slotLine < (portLines s 7).2) ∧
    (portLines (sendingLines 720) 7).1 = 720 ∧
    (let g : Gen := { next := 0, exact := 0, period := 7 * 10 ^ 9, corr := [], error := 0, holdover := false, aligned := false }
     let s := outputPort { Port.init with gen := some g }
     (getPort s 7).gen = some g ∧ genAt (rateHz (outParams s 7).1) g g.next ≤ cycle s ∧ streamOf s true 1 7 = none) ∧
    (let g : Gen := { next := 0, exact := 0, period := 7 * 10 ^ 9, corr := [], error := 0, holdover := false, aligned := false }
     let s := setRing 1 { Ring.init with gen := some g } (streamed [(oSeqState 0, 2)])
     Live s ∧ (getRing s 1).gen = some g ∧ genAt (rateHz (outParams s (8 + 1)).1) g g.next ≤ cycle s ∧ streamOf s true 2 1 = some 0) := by
  and_intros <;> decide +kernel

/-- So many ticks after power-on, with this genlock history. -/
def pulsed (ticks : Nat) (c : Clocks) : State := { on with clk := { c with running := true, ticks := ticks } }

theorem witness_TimingReferences :
    (pulsed 5 Clocks.init).clk.pulse = none ∧
    (∀ n ∈ [1, 2, 3], let s := pulsed 58334334 { Clocks.init with pulse := some 0, pulses := n, periods := [58333334] }
      Live s ∧ s.clk.pulse = some 0 ∧ s.clk.periods = [58333334] ∧ ticks s - 0 ≤ 58333334 + usTicks ∧ 58333334 ≤ ticks s - 0 + usTicks ∧ s.clk.pulses = n) ∧
    (let s := pulsed 70000000 { Clocks.init with pulse := some 0, pulses := 2, periods := [58333334] }; 58333334 + usTicks < ticks s - 0) ∧
    (let s := pulsed 116666668 { Clocks.init with pulse := some 0, pulses := 4, periods := [58333334] }; 0 + 2 * s.clk.periods.headD 58333334 ≤ ticks s) ∧
    getObj on oTimePpsEnable = 0 ∧
    (let s := setObj oTimePpsEnable 1 (pulsed 0 Clocks.init); getObj s oTimePpsEnable ≠ 0 ∧ ppsAccepts s = true) ∧
    (let s := setObj oTimePpsEnable 1 (pulsed 1 { Clocks.init with ppsEdge := some 0 }); getObj s oTimePpsEnable ≠ 0 ∧ ppsAccepts s = false) ∧
    (let s := setObj oTimePpsState 1 (pulsed 4200000000 Clocks.init); getObj s oTimePpsState = 1 ∧ s.clk.ppsFrom + 3000000 * usTicks ≤ ticks s) := by
  and_intros <;> decide +kernel

/-- Land 0 is the mute request, at this level. -/
def muting (level : Bool) : State :=
  { on with objs := (withObjs [(oPinmux 0, 3)] on).objs, io := { on.io with lands := { Lands.init with muteLevel := level } } }

/-- Input port 0 and output port 1 genlocked to it. -/
def passing : State :=
  { withObjs [(oRasterConfig 0, 2 ^ 31), (oRasterConfig 1, 2 ^ 31 + 2 ^ 30 + 2 ^ 28), (oPassthruIn 0, 0), (oPassthruOut 0, 1), (oPassthruDelayLines 0, 14)] on with
    fw := { Firmware.init with weirUp := true } }

theorem witness_MuteAndPassthrough :
    (∀ b, Canonical (muting b) ∧ (muting b).io.lands.muteLevel = b) ∧ (Live (muting true) ∧ muteLand (muting false) = true ∧ muteLand (muting true) = true) ∧
    (let s := { on with io := { on.io with lands := { Lands.init with muteHold := some 0 } } }; s.io.lands.muteHold = some 0 ∧ 0 ≤ ticks s) ∧
    (Serves 1 passing ∧ passing.fw.weirUp = true ∧ passing.fw.weirRestart = none ∧ pathResult passing 0 = 0 ∧ pathResult (setObj (oPassthruDelayLines 0) 15 passing) 0 ≠ 0) ∧
    getObj (setObj (oPassthruState 3) 1 on) (oPassthruState 3) = 1 := by
  refine ⟨fun b => ⟨sound _ b (by decide +kernel) (by decide +kernel), rfl⟩, ?_, ?_, ?_, ?_⟩ <;> decide +kernel

/-- An overlay half of one bin row. -/
def half0 : Half := { id := 1, o := 0, w := 1280, h := 32, heads := [], prims := [] }

/-- Stream 0 runs towards port 0, with this overlay. -/
def drawn (x : Overlay) : State :=
  { withObjs [(oSeqState 0, 2), (oSeqOutput 0, 0x1000), (oOverlayEngine 0, 0), (oOverlayEngineState 0, 0)] on with st := { on.st with overlays := [(0, x)] } }

theorem witness_OverlayHalves :
    (let s := withObjs [(oSeqState 0, 2), (oSeqOutput 0, 0x1000), (oOverlayEngine 0, 0), (oOverlayEngineState 0, 0)] on; let x := getOverlay s 0; let o := (getSeq s 0).oNext
     Live s ∧ 2 ≤ seqState s 0 ∧ overlayServed s 0 = true ∧ x.binned ≠ some o ∧ x.frame ≠ some o ∧ x.held = none ∧ dOf s 0 o ≤ cycle s + leadSpan s 0 ∧
      dOf s 0 o ≤ cycle s + outLines s 0 32 ∧ (if x.binned = some o then x.fail else some (4, 0, 0)) = some (4, 0, 0)) ∧
    (let s := drawn { Overlay.init with binned := some 0 }; let x := getOverlay s 0; let o := (getSeq s 0).oNext
     x.frame ≠ some o ∧ dOf s 0 o ≤ cycle s + outLines s 0 32 ∧ x.binned = some o ∧ x.fail = none) ∧
    (let s := drawn { Overlay.init with frame := some 0, current := some half0 }
     getObj s (oSeqOutput 0) / 4096 = 1 ∧ (getOverlay s 0).frame = some 0 ∧ (getOverlay s 0).current = some half0 ∧ 32 * 0 < half0.h ∧
      portD s (getObj s (oSeqOutput 0) % 256) 0 0 + outLines s 0 (32 * 0) ≤ cycle s + outLines s 0 32 ∧ frameHeld s (getObj s (oSeqOutput 0) % 256) 0 0 = false) ∧
    (let f : DmaFrame := { index := 0, desc := { address := 0, length := 0, irq := false }, present := { shown with half := some 1 }, d := 0, band := 0, sent := 0 }
     let s := setRing 1 { Ring.init with frames := [f] } (setObj (oSeqOutput 0) 0x2001 (drawn { Overlay.init with current := some half0 }))
     Live s ∧ getObj s (oSeqOutput 0) / 4096 ≠ 1 ∧ (getRing s (getObj s (oSeqOutput 0) % 256)).frames = [f] ∧ f.present.half = some 1 ∧
      halfById (getOverlay s 0) 1 = some half0 ∧ f.present.k = 0 ∧ f.band = 0 ∧ mapFind (getOverlay s 0).strips 0 = none ∧
      f.d + outLines s 0 (32 * 0) ≤ cycle s + outLines s 0 32) := by
  and_intros <;> decide +kernel

/-! ### The host -/

/-- Ring 0 of port 0 at 24 Hz, on, in this direction, with this machinery, late enough for every band. -/
def ring (out : Bool) (x : Ring) : State :=
  setRing 0 x (withObjs [(oPcieLink 0, 1), (oDmaState 0, 1), (oDmaConfig 0, 2 ^ 31 + (if out then 2 ^ 30 else 0) + 2 ^ 17), (oClockCycle, 10 ^ 9)] on)

/-- A descriptor of a buffer of so many bytes. -/
def buffer (length : Nat) : HostDesc := { address := 0, length := length, irq := false }

/-- A frame at its band, in a buffer of so many bytes. -/
def dmaFrame (length band : Nat) : DmaFrame := { index := 0, desc := buffer length, present := shown, d := 0, band := band, sent := 0 }

/-- A header for 1280 by 720 with line stride 0. -/
def headerBytes : List Byte := leBytes 4 0 ++ leBytes 2 1280 ++ leBytes 2 720 ++ List.replicate 56 0

theorem witness_RingTransfers :
    (let s := ring true { Ring.init with held := [buffer 0] }; let n := (1 + 65536 - getField s (oDmaPointers 0) 15 0) % 65536
     Live s ∧ hostReads s 0 = true ∧ n ≤ 2 ^ getObj s (oDmaRingLog2 0) ∧ (getRing s 0).held.length ≤ n ∧ n - (getRing s 0).held.length ≤ [buffer 0].length) ∧
    (let s := ring true { Ring.init with held := [buffer 0, buffer 0] }; (1 + 65536 - getField s (oDmaPointers 0) 15 0) % 65536 ≤ (getRing s 0).held.length) ∧
    (let s := ring true Ring.init; 2 ^ getObj s (oDmaRingLog2 0) < (65535 + 65536 - getField s (oDmaPointers 0) 15 0) % 65536) ∧
    (∀ e ∈ [(0, 0), (10 ^ 8, 1), (10 ^ 8, 22)], let f := dmaFrame e.1 e.2; let s := ring true { Ring.init with frames := [f] }
      nextBand (sendOwed 0 s) 0 = some (0, f)) ∧
    nextBand (sendOwed 0 (ring true Ring.init)) 0 = none ∧
    (let s := ring true Ring.init; let full := picAt s 0 + (ringSize s 0).2 * ringStride s 0
     0 < full ∧ full ≤ 10 ^ 8 ∧ 0 < (dmaFrame 0 1).band ∧ 32 * (1 + 1) < (ringSize s 0).2 ∧ (ringSize s 0).2 ≤ 32 * (22 + 1)) ∧
    (let s := ring false { Ring.init with held := [buffer 63] }; readingRing s 0 = some (buffer 63) ∧ (buffer 63).length < 64 ∧ ([] : List Byte).length < 64) ∧
    (let s := ring false { Ring.init with held := [buffer 16448] }
     readingRing s 0 = some (buffer 16448) ∧ 64 ≤ headerBytes.length ∧ badHeader s 0 16448 headerBytes = false ∧ badHeader s 0 16447 headerBytes = true ∧
      headerBytes.length < picAt s 0 + (ringSize s 0).2 * natAt headerBytes 0x10 4 ∧
      (let data := headerBytes ++ List.replicate 16384 0; badHeader s 0 16448 data = false ∧ picAt s 0 + (ringSize s 0).2 * natAt data 0x10 4 ≤ data.length)) ∧
    (let s := { on with fab := { on.fab with load := some (loading 1) }, fw := { on.fw with cmd := some { code := 4, target := 0, block := 0, bytes := [], failed := none } } }
     s.fab.load = some (loading 1) ∧ 4 ≤ (loading 1).slot ∧ (loading 1).phase = 1 ∧
      s.fw.cmd = some { code := 4, target := 0, block := 0, bytes := [], failed := none }) ∧ (127 : Nat) < 128 := by
  and_intros <;> decide +kernel

theorem witness_PortEvents :
    (let s := ring true { Ring.init with frames := [dmaFrame 0 0] }
     Live s ∧ (1 : Nat) < 2 ∧ stallDue s 0 = true ∧ stallDue s (ringPort s 0) = true ∧ stallDue s 1 = false ∧ objBit s (oPcieLink 0) 0 = true ∧ ringPort s 0 = 0 ∧ ringPort s 127 = 0) ∧
    (let s := setPcie 0 { Pcie.init with lastSent := 10 ^ 9 } (ring true { Ring.init with frames := [dmaFrame 0 0] })
     ringOn s 0 = true ∧ ringOut s 0 = true ∧ (getRing s 0).frames = [dmaFrame 0 0] ∧ (dmaFrame 0 0).d + 2 * ringFrame s 0 ≤ cycle s ∧ stallDue s (ringPort s 0) = false) := by
  and_intros <;> decide +kernel

/-! ### The node and the dictionary -/

/-- The node is operational, with TPDO 7 valid and this transmission type. -/
def node (transmission : Nat) : State :=
  { withObjs [(oCanNodeId, 127), (oCommHeartbeat, 1), (oCanTimestamp, 10 ^ 6), (oCommTpdoCob 7, 0x487), (oCommTpdoTransmission 7, transmission), (oCommTpdoTimer 7, 1)] on with
    io := { on.io with can := { Can.init with nmt := 5 } } }

theorem witness_NodeEvents :
    (let s := node 2
     Live s ∧ canTalks s = true ∧ 0 < getObj s oCommHeartbeat ∧ getObj s oCommHeartbeat * 1000 ≤ canSince s s.io.can.heartbeatAt ∧ tpdoOn s 7 = true ∧
      1 ≤ getObj s (oCommTpdoTransmission 7) ∧ getObj s (oCommTpdoTransmission 7) ≤ 240 ∧ mapGet 0 s.io.can.syncs 7 + 1 < getObj s (oCommTpdoTransmission 7) ∧
      getObj (node 1) (oCommTpdoTransmission 7) ≤ mapGet 0 (node 1).io.can.syncs 7 + 1 ∧ getObj s oCanNodeId ≠ 0) ∧
    (let s := node 0xFE; let since := canSince s (mapGet 0 s.io.can.tpdoAt 7)
     tpdoOn s 7 = true ∧ 0xFE ≤ getObj s (oCommTpdoTransmission 7) ∧ 0 < getObj s (oCommTpdoTimer 7) ∧ getObj s (oCommTpdoTimer 7) * 1000 ≤ since ∧
      getObj s (oCommTpdoInhibit 7) * 100 ≤ since) := by
  and_intros <;> decide +kernel

/-- The access and the width of an object's row. -/
def rowShape (key : Nat) : Option (Acc × Nat) := (objRow key).map fun r => (r.acc, r.width)

theorem witness_ObjectAccesses :
    (∀ key ∈ [oTileBankOwner 31, oTileBankOwner 31 + 1, oClockCycle, oPinmux 31], objExists on (key / 256) (key % 256) = true) ∧
    (rowShape oClockCycle = some (.ro, 64) ∧ rowShape (oTileBankOwner 31) = some (.rw, 64) ∧ rowShape (oTileBankOwner 31 + 1) = some (.rw, 64)) ∧
    (pairHalf (oTileBankOwner 31 / 256) (oTileBankOwner 31 % 256) false = true ∧ pairHalf (oTileBankOwner 31 / 256) (oTileBankOwner 31 % 256 + 1) true = true) ∧
    ((getLatches on 2).write = none ∧ (getLatches (setLatches 2 { Latches.init with write := some (oTileBankOwner 31, 9) } on) 2).write = some (oTileBankOwner 31, 9)) ∧
    (Serves 4 on ∧ Serves 2 on ∧ Serves 0 on ∧ objExists on 0x2FFF 1 = false ∧ (4 : Nat) ≠ 0) ∧
    (((2 : Nat) = 1 ∨ (2 : Nat) = 2) ∧ barTarget 0 0xFFFFFC = .object 0x5FFF 255 ∧ barTarget 2 0x7FFFFC = .object 0x1FFF 255 ∧ barTarget 2 0x88100 = .unassigned ∧
      barTarget 2 0x8FFFC = .unassigned ∧ (0x88100 : Nat) % 4 = 0 ∧ busWhole 2 (.read 4) = false ∧ busWhole 4 (.read 8) = false ∧ busWhole 0 (.read 2) = false ∧
      busWhole 0 (.write 4 7 0) = false) ∧
    (let s := node 1; let i := oPinmux 31 / 256; let b := oPinmux 31 % 256
     Serves 0 s ∧ usdoOn s = true ∧ objExists s i b = true ∧ readOnly i b = false ∧ [(5 : Byte)].length = usdoLength i b ∧ boolBad i b (leNat [(5 : Byte)]) = false ∧
      (writeWord 0 i b (leNat [(5 : Byte)]) s).2 = .done ∧ (writeWord 0 i b (leNat [(6 : Byte)]) s).2 = .refused 1 ∧ oPinmux 31 ≠ oSyncData) := by
  and_intros <;> decide +kernel

theorem witness_ReadOnlyAndWriteOnlyObjects :
    (Serves 1 on ∧ oClockCycle % 256 < 256 ∧ objExists on (oClockCycle / 256) (oClockCycle % 256) = true ∧ rowShape oClockCycle = some (.ro, 64) ∧
      pairHalf (oClockCycle / 256) (oClockCycle % 256) false = true ∧ pairHalf (oClockCycle / 256) (oClockCycle % 256 + 1) true = true) ∧
    (Serves 1 (node 1) ∧ objExists (node 1) (oFwCommand / 256) (oFwCommand % 256) = true ∧ (rowShape oFwCommand).map (·.1) = some .wo ∧ usdoOn (node 1) = true) := by
  and_intros <;> decide +kernel

theorem witness_LowSpeedLands :
    (Serves 1 on ∧ Serves 1 (muting false) ∧ i2cRuns on = false ∧ i2cRuns (setObj oI2cStatus 0xFF on) = true ∧ (3 : Nat) ≤ 3 ∧ (31 : Nat) < 32) ∧
    (6 ≤ 6 % 256 % 16 ∧ 5 % 256 % 16 < 6 ∧ 5 % 256 % 16 ≠ 3 ∧ 5 % 256 % 16 ≠ muxCode on 31 ∧ (3 : Nat) % 256 % 16 = 3 ∧
      (0 : Nat) ≠ 31 ∧ muxCode (muting false) 0 = 3) ∧
    (let s := setObj oI2cReadLen 1 on; 0 < [(7 : Byte)].length ∧ 0 < getObj s oI2cReadLen ∧ getObj s oI2cReadLen ≤ 1) := by
  and_intros <;> decide +kernel

/-! ### Firmware images -/

/-- The public key of the private key 1. -/
def keyBytes : List Byte := [4] ++ beBytes 48 p384gx ++ beBytes 48 p384gy

/-- An image of 32 zero bytes with this magic number and this second half of a signature. -/
def imageBytes (magic sig : Nat) : List Byte :=
  leBytes 4 magic ++ List.replicate 4 0 ++ leBytes 4 32 ++ List.replicate 52 0 ++ keyBytes ++ List.replicate 63 0 ++ beBytes 48 p384gx ++ beBytes 48 sig

/-- Digest of the key. -/
def keyDigest : List Byte := beBytes 48 0x8c4f262412b7f9ed867606705a130de5212fd048fbaf8c3842f4a240f4b45ba0c90f82194ccdda3ed89c96b0afe1d51d

/-- Weir runs, and the flash holds an image at this offset. -/
def flashed (offset : Nat) (image : List Byte) : State :=
  { on with
    flash := (List.range 320).zipWith (fun i b => (offset + i, b)) image
    fw := { Firmware.init with weirUp := true }
    fab := { on.fab with board := { Board.blank with digests := [keyDigest] } } }

/-- Weir slot 0 holds a Weir image signed with the private key 1 (the signature is computed outside). -/
def signedFlash : State :=
  flashed 0x10000 (imageBytes 0x52494557 0x8edfa8664e10d05abacf73c3fff7a31bd29dad11eeef5b33a6106996c91ecb10fa3b663bad839791c9d859e61c8102dd)

/-- Rill slot 0 holds a Rill image signed the same way, and is the target. -/
def signedRill : State :=
  setObj oFwTarget 2 (flashed 0x100000 (imageBytes 0x4C4C4952 0xbe7671b0085626d620cffa814c52f59b8557fff797e958ec8a48b9c2f00eae27604572587804a799ab3d6aeeef877687))

theorem test_signed_image_verifies : slotVerifies signedFlash 0 = true ∧ slotVerifies signedFlash 1 = false := by decide +kernel

theorem test_signed_rill_image_verifies : slotVerifies signedRill 2 = true ∧ slotVerifies signedRill 3 = false := by decide +kernel

/-- Weir waits for a command with the staging and target objects at their defaults, and this command in progress. -/
def weirWith (c : Option FwCmd) : State := { setObj oFwTarget 0x10 on with fw := { Firmware.init with weirUp := true, cmd := c } }

/-- A firmware command in progress. -/
def fwCmd (code : Nat) (failed : Option Nat) : FwCmd := { code := code, target := 0x10, block := 0, bytes := [1], failed := failed }

theorem witness_FirmwareCommands :
    (let s := weirWith none
     Serves 1 s ∧ weirReady s = true ∧ fwBusy (setObj (oBringStatus 9) 0 s) = false ∧ programRefusal s false = none ∧ programRefusal s true = none ∧
      getObj s oFwSourceLength ≤ 0 ∧ programRefusal (setObj oFwTarget 4 s) false = some 3) ∧
    (Serves 1 signedFlash ∧ weirReady signedFlash = true ∧ fwBusy (setObj (oBringStatus 9) 0 signedFlash) = false ∧ getObj signedFlash oFwTarget < 2 ∧
      slotVerifies signedFlash (getObj signedFlash oFwTarget) = true) ∧
    (Serves 1 signedRill ∧ weirReady signedRill = true ∧ fwBusy (setObj (oBringStatus 9) 0 signedRill) = false ∧ getObj signedRill oFwTarget = 2 ∧ slotVerifies signedRill 2 = true) ∧
    4 ≤ getObj (weirWith none) oFwTarget ∧
    (let s := setObj oFwTarget 3 on; getObj s oFwTarget < 4 ∧ slotVerifies s 3 = false) ∧
    (weirReady (weirWith (some (fwCmd 3 none))) = true ∧ fwBusy (weirWith (some (fwCmd 3 none))) = true ∧ weirReady on = false) ∧
    (∀ c ∈ [fwCmd 3 none, fwCmd 4 (some 5), fwCmd 6 none], (weirWith (some c)).fw.cmd = some c) ∧
    ({ on.fw with reading := some (0, false) }.reading = some (0, false) ∧ { on.fw with reading := some (1, true) }.reading = some (1, true)) := by
  refine ⟨?_, ⟨?_, ?_, ?_, ?_, ?_⟩, ⟨?_, ?_, ?_, ?_, ?_⟩, ?_, ?_, ?_, ?_, ?_⟩
  case refine_6 => exact test_signed_image_verifies.1
  case refine_11 => exact test_signed_rill_image_verifies.1
  all_goals decide +kernel

theorem witness_FirmwareSupervision :
    (∀ st ∈ [1, 2], Serves 1 (setObj oFwRillState st on) ∧ getObj (setObj oFwRillState st on) oFwRillState = st) ∧ 3 ≤ getObj (setObj oFwRillState 3 on) oFwRillState ∧
    (let s := setObj oFwRillState 2 { on with clk := { on.clk with ticks := 10 ^ 12 }, fw := { Firmware.init with weirUp := true, released := some 0 } }
     Live s ∧ rillSupervised s = true ∧ rillDeadline s ≤ ticks s ∧ s.fw.weirUp = true) ∧
    ((on.fw.restarts.filter fun t => decide (ticks on < t + minuteTicks)).length < getObj on oFwRestartLimit) ∧
    (let s := setObj oFwRestartLimit 0 on; getObj s oFwRestartLimit ≤ (s.fw.restarts.filter fun t => decide (ticks s < t + minuteTicks)).length) ∧
    (let s := { signedFlash with fw := { signedFlash.fw with weirRestart := some 0 } }; Live s ∧ s.fw.weirRestart = some 0 ∧ bootSlot s = some 0) ∧
    (let s := { on with fw := { on.fw with weirRestart := some 0 } }; Live s ∧ s.fw.weirRestart = some 0 ∧ bootSlot s = none) := by
  refine ⟨?_, ?_, ?_, ?_, ?_, ⟨?_, ?_, ?_⟩, ?_⟩
  case refine_8 => exact if_pos test_signed_image_verifies.1
  all_goals decide +kernel

/-! ### Power, bring-up and faults -/

/-- Readings of every sensor: the first at this value, the others at 25 degrees. -/
def readings (i : Nat) (v : Int) : List (Option Int) := (List.range 64).map fun k => some (if k = i then v else 100)

/-- Sensor `i` read 110 degrees the last time. -/
def hot (i : Nat) : State := { on with pw := { on.pw with sensors := [(i, { seen := true, reading := 440, failed := false, hot := true })] } }

/-- After a sample of these readings. -/
def sampled (s : State) (rs : List (Option Int)) : State := noteHottest ((List.range 64).foldl (fun s i => takeSample i (rs.getD i none) s) s)

/-- Sensors that are hot. -/
def hots (s : State) : List Nat := (List.range 64).filter fun i => (getSensor s i).hot

theorem witness_PowerEvents :
    State.reset.pw.pwrgood = false ∧ Live on ∧
    (let u := sampled on (readings 0 440); tripOf u (hots on) false = none ∧ tripOf u (hots on) true = none) ∧
    (let u := sampled (hot 0) (readings 0 440)
     tripOf u (hots (hot 0)) false = some (1, 0, 440) ∧ getObj u oEnvState ≠ 2 ∧ tripOf (computeTrip (1, 0, 440) u) (hots (hot 0)) true = none) ∧
    (let u := sampled (hot 56) (readings 56 440)
     tripOf u (hots (hot 56)) false = none ∧ tripOf u (hots (hot 56)) true = some (1, 56, 440) ∧ u.pw.hubTrip = none) ∧
    (let s := { on with clk := { on.clk with ticks := 2 * usTicks }, pw := { on.pw with computeTrip := some 0 } }
     s.pw.computeTrip = some 0 ∧ s.pw.computeOff = false ∧ 0 + 2 * usTicks ≤ ticks s) ∧
    (let s := { on with clk := { on.clk with ticks := 2000 * usTicks }, pw := { on.pw with hubTrip := some 0 } }
     s.pw.hubTrip = some 0 ∧ 0 + 2000 * usTicks ≤ ticks s) := by
  and_intros <;> decide +kernel

/-- Weir runs, and this bring-up step runs. -/
def stepping (i : Nat) : State := { setObj (oBringStatus i) (0xFF * 2 ^ 24) on with fw := { Firmware.init with weirUp := true } }

/-- Weir runs, steps 1 and 2 are done and no other has run. -/
def twoDone : State :=
  { withObjs ([(oBringStatus 1, 0), (oBringStatus 2, 0)] ++ (List.range 8).map fun i => (oBringStatus (i + 3), 0xFE * 2 ^ 24)) on with
    fw := { Firmware.init with weirUp := true } }

theorem witness_BringUpSteps :
    (∀ i ∈ [2, 3, 4, 5, 6, 7, 8, 9, 10], Serves 4 (stepping i) ∧ stepRuns (stepping i) i = true) ∧
    (stepRuns twoDone 3 = false ∧ stepAccepted twoDone 3 = true ∧ stepRuns on 3 = false ∧ stepAccepted on 3 = false) ∧
    (let s := withObjs [(oDefectFieldCount, 1), (oDefectCursor, 1)] on; let c := getObj s oDefectCursor % 2048
     fieldOpen s = true ∧ getObj s oDefectFactoryCount ≤ c / 2 ∧ c / 2 < getObj s oDefectFactoryCount + getObj s oDefectFieldCount) ∧
    (fieldOpen (setObj (oBringStatus 3) 0 on) = false ∧ ((1 : Nat) ≤ 10 ∧ (0 : Nat) < 256 ∧ (0 : Nat) ≠ 0xFF)) := by
  and_intros <;> decide +kernel

/-- Weir runs and partition 0 owns the tile on site 0. -/
def owned : State :=
  { updPart 0 (fun x => { x with tiles := 1 }) (withObjs [(oPartitionState 0, 2), (oTileState 0, 1)] on) with fw := { Firmware.init with weirUp := true } }


/-- Tiles 0 and 1 of partition 0 on sites 0 and 1. -/
def pair : State :=
  let s := updPart 0 (fun x => { x with tiles := 3 }) (setObj (oTileState 1) 1 owned)
  { s with fab := { s.fab with siteOf := [(0, 1), (1, 2)] } }

theorem witness_FaultEvents :
    (Live pair ∧ weirReady pair = true ∧ pair.pw.computeOff = false ∧ liveTiles pair 0 ≠ [] ∧ (∀ e ∈ pair.fab.evac, e.site ≠ 0) ∧
      foldTarget pair 0 = some (0, 1)) ∧
    (let s := { pair with fw := { pair.fw with weirRestart := some 0 } }; Live s ∧ weirReady s = false ∧ foldTarget s 0 = some (0, 1) ∧ 0 ∉ s.fab.faultWaits) ∧
    (Live owned ∧ owned.pw.computeOff = false ∧ foldTarget owned 0 = none ∧ liveTiles owned 0 ≠ [] ∧ ∀ e ∈ owned.fab.evac, e.site ≠ 0) ∧
    (let s := { owned with fab := { owned.fab with evac := [{ site := 0, target := 1, start := 0, part := 0 }] } }
     siteQuiet s 0 = true ∧ moveFits s 0 1 = true ∧ s.fab.evac = [{ site := 0, target := 1, start := 0, part := 0 }] ∧
      ∀ t ∈ siteTiles s 0, loansOn s 0 t = [] ∧ t ∉ (getPart s 0).reclaiming) ∧
    (7 : Nat) ≠ 0 ∧ (objExists on (0x2810 + 7) 1 = true ∧ getObj on (oMotionState 7) ≠ 3) ∧ objBit (setObj oMapDies 8 on) oMapDies 3 = true := by
  and_intros <;> decide +kernel

/-- A captured event. -/
def event : Capture := { code := 0x0302, part := 31, inst := 0, p0 := 0, p1 := 0, p2 := 0, time := 0 }

theorem witness_RecorderAndCounters :
    (let s := { on with fw := { Firmware.init with weirUp := true }, alm := { Almanac.init with queue := [event], pending := [(0, true)], erasing := [2] } }
     Serves 1 s ∧ s.now.perf = [] ∧ weirReady s = true ∧ s.alm.queue = [event] ∧ s.alm.discarded = 0 ∧ s.alm.mirrorFailed = false ∧ nextMirror s.alm = some (0, true) ∧ 2 ∈ s.alm.erasing) ∧
    (getObj on oAlmanacCursor % 8 = 0 ∧ getObj (setObj oAlmanacCursor 7 on) oAlmanacCursor % 8 ≠ 0) ∧ nextErased on = some 1 ∧
    nextErased { on with alm := { Almanac.init with erasing := [1, 2] } } = none ∧ (perfEventOk on (0x0D1F % 65536) = true ∧ (63 : Nat) < 64) := by
  and_intros <;> decide +kernel

/-! ### The spec's worked examples -/

/-- The example of 02 behind R56: 0.3 in E4M3, rounded to nearest and stochastically on either side of the draw, and a block of largest magnitude 3.7. -/
theorem test_e4m3_example :
    (encodeElem 3 false .rne (decodeFloat fmtFP32 0x3E99999A)).1 = 0x2A ∧
    (encodeElem 3 false (.stochastic 26215) (decodeFloat fmtFP32 0x3E99999A)).1 = 0x2A ∧
    (encodeElem 3 false (.stochastic 26214) (decodeFloat fmtFP32 0x3E99999A)).1 = 0x29 ∧
    (let b := encodeBlock 3 (List.replicate 32 .rne) (numOfRat (37 / 10) false :: List.replicate 31 numZero)
     b.1 = 0x78 ∧ b.2.1.head? = some 0x7E ∧ b.2.2.saturation = true) := by decide +kernel

/-- The example behind R131: the four inputs sum to 65. -/
theorem test_average_pool_example :
    (encodeElem 1 true .rne (poolMean true ([8, 12, 20, 25].map numOfInt) 9).1).1 = 7 ∧
    (encodeElem 1 true .rne (poolMean true ([8, 12, 20, 25].map numOfInt) 4).1).1 = 16 := by decide +kernel

/-- The example behind R133: output column 0 of 3,840 from 1,280. -/
theorem test_resampling_example :
    sourcePos false 3840 1280 0 = (-1, 43690) ∧ (resampleTaps true false 3840 1280 0).map (·.1) = [0, 0, 0, 1] := by decide +kernel

/-- The example behind R137: 81 bytes take 3 granules. -/
theorem test_zero_run_example :
    let z := zrSegment 1 (List.replicate 20 1 ++ List.replicate 100 0 ++ List.replicate 36 1 ++ List.replicate 80 0 ++ List.replicate 20 (1 : Byte))
    z.1 = 3 ∧ z.2.length = 96 := by decide +kernel

/-- The example of 08: the fraction of one block's vector, its output, cost and confidence. -/
theorem test_motion_example :
    refine 37 520 400 460 = 5 ∧ rne ((32 * 37 + 5) * 1) 2 = 594 ∧ rne 400 128 = 3 ∧ 256 * (700 - 400) / (700 + 128 * 4) = 63 := by decide +kernel

/-- The example behind R331. -/
theorem test_wait_condition_example : waitHolds 3 0xFFFFFFFE = true ∧ waitHolds 3 4 = false := by decide +kernel

/-- The example behind R279: a head band of stream slot 5 and frame 1,000,001. -/
theorem test_patch_example :
    let x := { instOf 1 0 with o := 1000001 }
    let h : StepH := { kind := 0, cls := 1, anchor := 32, sub := 0, queue := 0, output := true, chunk := 0, patches := 4 }
    let w0 := wordsOf [(1, 0x2010 * 2 ^ 16), (2, 1), (8, 76592440 % 2 ^ 26), (9, 76592440 / 2 ^ 26)]
    let w1 := applyPatch 5 0 0 x h 0 (75497472 * 2 ^ 32 + 2 * 2 ^ 21 + 2 ^ 18 + 8 * 2 ^ 14) w0
    let w2 := applyPatch 5 0 0 x h 1 (649216 * 2 ^ 32 + 8 * 2 ^ 24 + 2 ^ 21 + 2 ^ 18 + 8 * 2 ^ 14) w1
    let w3 := applyPatch 5 0 0 x h 2 (2 ^ 32 + 2 * 2 ^ 14 + 31 * 2 ^ 4) w2
    let w4 := applyPatch 5 0 0 x h 3 (16 * 2 ^ 32 + 2 * 2 ^ 21 + 2 ^ 14 + 16 * 2 ^ 9 + 15 * 2 ^ 4) w3
    bits (wordAt w4 8) 25 0 = 0x31A9D38 ∧ bits (wordAt w4 9) 7 0 = 6 ∧ wordAt w4 2 = 1000002 ∧ bits (wordAt w4 1) 31 16 = 0x2060 := by decide +kernel

/-- The check value that R178 gives. -/
theorem test_check_value : crc32c ([49, 50, 51, 52, 53, 54, 55, 56, 57].map (BitVec.ofNat 8)) = 0xE3069283 := by decide +kernel

/-- The digest of "abc" that FIPS 180-4 gives (R479, log entry 8). -/
theorem test_digest :
    beNat (sha384 [97, 98, 99]) = 0xcb00753f45a35e8bb5a03d699ac65007272c32ab0eded1631a8b605a43ff5bed8086072ba1e7cc2358baeca134c825a7 := by decide +kernel

/-- The examples of the interface maps: index and subindex of objects. -/
theorem test_object_numbers :
    oStepCounter 3 = 0x221301 ∧ oDlmMargin 5 = 0x318501 ∧ oRasterCriticalWatermark 5 = 0x255221 ∧ oOverlayLayerObject 5 1 = 0x26850D ∧ oHostWatchControl 2 = 0x401203 ∧
    oDmaConfig 5 = 0x518502 ∧ oFwRillKick = 0x500005 ∧ oCisternScrubPeriod = 0x2A0021 := by decide +kernel

/-- The example behind R512: the hottest sensor is position 5 of die 2, at 82.25 degrees. -/
theorem test_sensor_word : sensorWord 29 329 = 0x001D0149 := by decide +kernel

/-- The example of 15: the picture of a 2160p120 frame with 16 channels starts at byte 42,112. -/
theorem test_picture_offset : picAt (setObj (oDmaConfig 0) (2 * 2 ^ 21 + 8 * 2 ^ 17 + 16 * 2 ^ 6) on) 0 = 42112 := by decide +kernel

/-- The state that a command answers. -/
def after (o : Out) : State :=
  match o with
  | .next t => t
  | _ => State.reset

/-- The example of 16: the low half of cistern.scrub_period waits in the latch, and the high half takes effect with it and sets the expert mode (R460). -/
theorem test_scrub_period_example :
    let t := after (exec (.lowHalfWrite 1 0x2A00 0x21 0x98EA8000) on)
    let u := after (exec (.highHalfWrite 1 0x2A00 0x22 0x00003701) t)
    getObj t oCisternMode = 0 ∧ getObj t oCisternScrubPeriod = 120960000000000 ∧ getObj u oCisternMode = 1 ∧ getObj u oCisternScrubPeriod = 60480000000000 := by
  decide +kernel

/-! ### Single commands -/

/-- Bytes 100, -100 and 1 at address 0 and 100, -100 and -1 at address 32 of the command's tile. -/
def added : State :=
  let s := issued 0 1 1 [(4, 2 ^ 27 + 2 ^ 26), (6, 2 ^ 27 + 2 ^ 26 + 32), (8, 2 ^ 27 + 2 ^ 26 + 64), (12, 2), (13, 2 ^ 24)]
  setFrame 0 { Frame.init with st := .mapped, page := { Page.zero with cells := [(0, 100), (1, 156), (2, 1), (32, 100), (33, 156), (34, 255)] } }
    (setSlot 0 0 0 { slotOf s 0 with run := { Run.init with pins := [{ tile := 0, page := 0, frame := 0 }] } } s)

/-- Element-wise addition saturates to INT8 and its flag waits for the commit (R54, R58, R126). -/
theorem test_element_add :
    let y := slotOf (after (exec (.elementAdd 0 0 0) added)) 0
    y.run.outbox = [{ tile := some 0, page := 0, off := 64, bytes := [0x7F, 0x80, 0x00] }] ∧ y.phase = .finished ∧ y.run.flags = flagSaturation := by decide +kernel

/-- Matrix multiply of one row by one weight row: 2 times 3 and 4 times 5 (R67). -/
theorem test_matrix_multiply :
    let s := issued 0 0 1 [(4, 2 ^ 27 + 2 ^ 26), (6, 2 ^ 27 + 2 ^ 26 + 32), (8, 2 ^ 27 + 2 ^ 26 + 64), (13, 2 ^ 16)]
    let u := setFrame 0 { Frame.init with st := .mapped, page := { Page.zero with cells := [(0, 2), (1, 4), (32, 3), (33, 5)] } }
      (setSlot 0 0 0 { slotOf s 0 with run := { Run.init with pins := [{ tile := 0, page := 0, frame := 0 }] } } s)
    (slotOf (after (exec (.matrixMultiply 0 0 0) u)) 0).run.outbox = [{ tile := some 0, page := 0, off := 64, bytes := [26] }] := by decide +kernel

/-- A waiting fence at the head starts at its dispatch (R82). -/
theorem test_dispatch : (slotOf (after (exec (.dispatch 0 0) (waiting [(0, 4 * 2 ^ 28 + 2 ^ 20)]))) 0).phase = .running := by decide +kernel

/-- An unmapped operand is refused with reason 0x04 and noted in the engine's last_refusal (R78, R620). -/
theorem test_refusal :
    let t := after (exec (.dispatch 0 0) (waiting [(0, 3 * 2 ^ 28 + 2 ^ 20)]))
    (slotOf t 0).phase = .refused 4 ∧ getObj t (oLastRefusal 0) = 4 := by decide +kernel

/-- A tail write publishes two commands with consecutive step numbers (R80, R81). -/
theorem test_tail_write :
    let t := after (exec (.tailWrite 1 0 0 2) running)
    (getSlot t 0 0 0).step = 0 ∧ (getSlot t 0 0 1).step = 1 ∧ getObj t (oStepAllocator 0) = 2 := by decide +kernel

/-- Counts wrap (R333). -/
theorem test_update_wraps :
    let s := setBank 0 { Bank.init with be := [{ object := 16, set := false, value := 2, source := .master 1, part := 16 }] } { on with sy := { on.sy with counts := [(16, 0xFFFFFFFF)] } }
    syncCount (after (exec (.syncUpdateApply 0) s)) 16 = 1 := by decide +kernel

/-- A write of a read-only object over CAN is aborted (R452). -/
theorem test_read_only_abort :
    (after (exec (.usdoDownload (oClockCycle / 256) (oClockCycle % 256) [1, 0, 0, 0]) (node 1))).out = [.usdoAbort 0x06010002] := by decide +kernel

/-- A heartbeat carries the state (R436). -/
theorem test_heartbeat : (after (exec .heartbeatTimer (node 1))).out = [.can 0x77F [5]] := by decide +kernel

/-- A start of a stream whose objects are right puts it into state 1 (R294, R295). -/
theorem test_stream_start : getObj (after (exec (.streamStart 1 0) (streamed []))) (oSeqState 0) = 1 := by decide +kernel

/-- The published step stands in the queue of tile 0 (R277). -/
theorem test_publish_step : (getQueue (after (exec (.publishStep 0) publishing)) 0 0).tail = 1 := by decide +kernel

/-- An output line goes out in segments of up to 128 blocks: 1,280 pixels of 8 bits in three channels are 3,840 bytes, 480 blocks, four segments (R372, R376). -/
theorem test_line_slot : (after (exec (.lineSlot 7) (sendingLines 1))).out.length = 4 := by decide +kernel

/-- A second mute request is refused with reason 2 (R440). -/
theorem test_second_mute_land : getObj (after (exec (.pinFunctionSwitch 1 31 3) (muting false))) oOdLastRefused = refusalWord (oPinmux 31) 2 := by decide +kernel

/-- The loss of power leaves flash (R506). -/
theorem test_power_loss : (after (exec .pwrgoodLow signedFlash)).flash.length = 320 ∧ (after (exec .pwrgoodLow signedFlash)).clk.running = false := by decide +kernel

/-- The front of the queue runs first (log entry 1). -/
theorem test_step_order : (match step { on with pending := [.nmtStart, .nmtStop] } with
    | .next t => t.pending
    | _ => []) = [.nmtStop] := by decide +kernel


end Sys2Proof.Tests
end

section
namespace Sys2Proof.Proofs.TensorTile
open Sys2Proof Sys2Proof.Machine

/-! ### Every command answers -/

/-- Power good answers whether or not the device already has power (R505). -/
theorem execPowerGood_answers (b : Board) (n : Nat) (s : State) : Answers (execPowerGood b n s) := by
  unfold execPowerGood
  split
  · exact ⟨_, rfl⟩
  · exact ⟨_, rfl⟩

/-- Every command answers a next state: all but power good are a `whenLive`, a `whenFree` or a plain `.next`, whose outcome is a next state whatever the
effect. -/
theorem exec_answers (i : Instr) (s : State) : Answers (exec i s) := by
  cases i with
  | powerGood b n => exact execPowerGood_answers b n s
  | _ => exact ⟨_, rfl⟩

/-- Settles O7: with no command waiting a step is a plain next state, and with one it is that command's. -/
theorem everyStepAnswers : Obligations.EveryStepAnswers := by
  intro s
  unfold step
  split
  · exact ⟨_, rfl⟩
  · exact exec_answers _ _

/-! ### Rows of an output -/

/-- The piece of row `r` that holds its data (R71). -/
def dataPiece (tile : Nat) (o : TOp) (f : Nat → List Nat × List Nat × Flags) (r : Nat) : Piece :=
  { tile := some tile, addr := o.addr + r * o.stride, bytes := packElems o.code (f r).1 }

/-- The piece of row `r` of `n` that holds its block scales: they follow the data (R71). -/
def scalePiece (tile : Nat) (o : TOp) (n len : Nat) (f : Nat → List Nat × List Nat × Flags) (r : Nat) : Piece :=
  { tile := some tile, addr := o.addr + n * o.stride + r * scaleRow len, bytes := (f r).2.1.map fun b => BitVec.ofNat 8 b }

/-- Entry `r` of a list of `n` rows. -/
theorem getD_map_range {α : Type} (f : Nat → α) (d : α) {r n : Nat} (h : r < n) : ((List.range n).map f).getD r d = f r := by
  simp [List.getD_eq_getElem?_getD, h]

/-- Without block scales an output is one piece per row. -/
theorem rowPieces_plain {o : TOp} (h : o.mx = false) (tile n len : Nat) (f : Nat → List Nat × List Nat × Flags) :
    rowPieces tile o ((List.range n).map f) len = (List.range n).map (dataPiece tile o f) := by
  simp only [rowPieces, h, Bool.false_eq_true, if_false, List.length_map, List.length_range]
  refine (List.flatMap_congr fun r hr => ?_).trans List.map_eq_flatMap.symm
  rw [getD_map_range f _ (List.mem_range.1 hr), dataPiece]

/-- Under the modifier each row is two pieces: its data, and its block scales. -/
theorem rowPieces_scaled {o : TOp} (h : o.mx = true) (tile n len : Nat) (f : Nat → List Nat × List Nat × Flags) :
    rowPieces tile o ((List.range n).map f) len = (List.range n).flatMap fun r => [dataPiece tile o f r, scalePiece tile o n len f r] := by
  simp only [rowPieces, h, if_true, List.length_map, List.length_range]
  exact List.flatMap_congr fun r hr => by rw [getD_map_range f _ (List.mem_range.1 hr), dataPiece, scalePiece]

/-- A list made of pairs holds twice as many entries. -/
theorem length_flatMap_pair {α : Type} (a b : Nat → α) (n : Nat) : ((List.range n).flatMap fun r => [a r, b r]).length = 2 * n := by
  simp [List.length_flatMap, Nat.mul_comm]

/-- The second entry of pair `r` stands at place `2 r + 1`. -/
theorem getElem?_flatMap_pair {α : Type} (a b : Nat → α) {r n : Nat} (h : r < n) :
    ((List.range n).flatMap fun r => [a r, b r])[2 * r + 1]? = some (b r) := by
  induction n with
  | zero => omega
  | succ n ih =>
    rw [List.range_succ, List.flatMap_append]
    rcases Nat.lt_succ_iff_lt_or_eq.1 h with h | rfl
    · rw [List.getElem?_append_left (by rw [length_flatMap_pair]; omega), ih h]
    · rw [List.getElem?_append_right (by rw [length_flatMap_pair]; omega), length_flatMap_pair]
      simp

/-- The rows that a vector command writes, before they are placed. -/
def vecRowAt (s : State) (y : Slot) (len : Nat) (accInt round sat : Bool) (val : Nat → Nat → Machine.Num × Flags) (r : Nat) : List Nat × List Nat × Flags :=
  let vs := (List.range len).map fun c => val r c
  let e := vecRow (opC y) accInt sat ((List.range len).map fun c => outRounding s y round (r * len + c)) (vs.map (·.1))
  (e.1, e.2.1, orFlags e.2.2 (allFlags (vs.map (·.2))))

theorem vecRows_pieces (s : State) (y : Slot) (eng rows len : Nat) (accInt round sat : Bool) (val : Nat → Nat → Machine.Num × Flags) :
    (vecRows s y eng rows len accInt round sat val).1 =
      rowPieces (destTile eng (opC y)) (opC y) ((List.range rows).map (vecRowAt s y len accInt round sat val)) len := rfl

/-- The data of an unscaled row are its converted values. -/
theorem vecRowAt_plain {y : Slot} (h : (opC y).mx = false) (s : State) (len : Nat) (accInt round sat : Bool) (val : Nat → Nat → Machine.Num × Flags) (r : Nat) :
    (vecRowAt s y len accInt round sat val r).1 =
      (List.range len).map fun i => (encodeOut (opC y).code accInt sat (outRounding s y round (r * len + i)) (val r i).1).1 := by
  simp only [vecRowAt, vecRow, h, Bool.false_eq_true, if_false, List.map_map, List.zipWith_map, List.zipWith_self, Function.comp_def]

/-- Settles O8: the placement is `rowPieces`', without and under the modifier. -/
theorem outputRowsArePlaced : Obligations.OutputRowsArePlaced := by
  intro s y eng rows len accInt round sat val
  rw [vecRows_pieces]
  refine ⟨fun h => ?_, fun h => ?_⟩
  · rw [rowPieces_plain h]
    exact List.map_congr_left fun r _ => by rw [dataPiece, vecRowAt_plain h]
  · rw [rowPieces_scaled h]
    exact ⟨length_flatMap_pair _ _ _, fun r hr => ⟨_, getElem?_flatMap_pair _ _ hr, rfl, rfl⟩⟩

/-! ### Matrix multiply and windows -/

/-- The rows that a matrix or window command writes, before they are placed. -/
def accRowAt (s : State) (y : Slot) (isInt : Bool) (eng len : Nat) (round sat : Bool) (acc : Nat → Nat → Machine.Num × Flags) (ch : Nat → Nat) (r : Nat) :
    List Nat × List Nat × Flags :=
  let as := (List.range len).map fun c => acc r c
  let e := outRow isInt (opC y) sat ((List.range len).map fun c => outRounding s y round (r * len + c))
    (List.zipWith (fun c a => (convOf (rdTile s y eng) y (ch c), a.1)) (List.range len) as)
  (e.1, e.2.1, orFlags e.2.2 (allFlags (as.map (·.2))))

theorem writeRows_pieces (s : State) (y : Slot) (isInt : Bool) (eng rows len : Nat) (round sat : Bool) (acc : Nat → Nat → Machine.Num × Flags) (ch : Nat → Nat) :
    (writeRows s y isInt eng rows len round sat acc ch).1 =
      rowPieces (destTile eng (opC y)) (opC y) ((List.range rows).map (accRowAt s y isInt eng len round sat acc ch)) len := rfl

/-- The data of an unscaled row are its accumulators, each converted by its channel's entry (R54, R55, R76). -/
theorem accRowAt_plain {y : Slot} (h : (opC y).mx = false) (s : State) (isInt : Bool) (eng len : Nat) (round sat : Bool)
    (acc : Nat → Nat → Machine.Num × Flags) (ch : Nat → Nat) (r : Nat) :
    (accRowAt s y isInt eng len round sat acc ch r).1 =
      (List.range len).map fun i =>
        (convertAcc isInt (opC y).code sat (outRounding s y round (r * len + i)) (convOf (rdTile s y eng) y (ch i)) (acc r i).1).1 := by
  simp only [accRowAt, outRow, h, Bool.false_eq_true, if_false, List.zipWith_map_left, List.zipWith_map_right, List.zipWith_self, List.map_map, Function.comp_def]

/-- Settles O14: the commands deliver what `writeRows` makes, and an unscaled row of it is its converted accumulators. -/
theorem matrixAndWindowResults : Obligations.MatrixAndWindowResults := by
  refine ⟨fun eng q sl s he => ⟨?_, ?_, ?_⟩, fun s y isInt eng rows len round sat acc ch h => ?_⟩
  · rintro ⟨hl, hr⟩
    exact (whenLive_live _ hl).trans (by rw [if_pos ⟨he, hr⟩])
  · rintro ⟨hl, hr⟩
    exact (whenLive_live _ hl).trans (by rw [if_pos ⟨he, hr⟩])
  · rintro ⟨hl, hr⟩
    exact (whenLive_live _ hl).trans (by rw [if_pos ⟨he, hr⟩])
  · rw [writeRows_pieces, rowPieces_plain h]
    exact List.map_congr_left fun r _ => by rw [dataPiece, accRowAt_plain h]

end Sys2Proof.Proofs.TensorTile
end

section
namespace Sys2Proof.Proofs.TensorTile
open Sys2Proof Sys2Proof.Machine

/-! ### Slots and units -/

@[simp] theorem getSlot_updSlot (eng q sl : Nat) (f : Slot → Slot) (s : State) :
    getSlot (updSlot eng q sl f s) eng q sl = f (getSlot s eng q sl) :=
  getSlot_setSlot _ _ _ _ _

theorem getSlot_updSlot_other {e q l f r k : Nat} (g : Slot → Slot) (s : State) (h : sKey e q l ≠ sKey f r k) :
    getSlot (updSlot f r k g s) e q l = getSlot s e q l :=
  getSlot_setSlot_other _ _ h

/-- A command gives its unit back where it holds it. -/
theorem freeUnit_cases (eng q sl : Nat) (s : State) :
    freeUnit eng q sl s = setUnit (getSlot s eng q sl).run.unit 0 s ∧ unitHolder s (getSlot s eng q sl).run.unit = sKey eng q sl + 1 ∨
      freeUnit eng q sl s = s ∧ unitHolder s (getSlot s eng q sl).run.unit ≠ sKey eng q sl + 1 := by
  by_cases h : unitHolder s (getSlot s eng q sl).run.unit = sKey eng q sl + 1
  · exact .inl ⟨if_pos h, h⟩
  · exact .inr ⟨if_neg h, h⟩

@[simp] theorem getSlot_freeUnit (eng q sl : Nat) (s : State) (e r l : Nat) : getSlot (freeUnit eng q sl s) e r l = getSlot s e r l := by
  rcases freeUnit_cases eng q sl s with ⟨h, -⟩ | ⟨h, -⟩ <;> simp [h]

@[simp] theorem getFrame_freeUnit (eng q sl : Nat) (s : State) (k : Nat) : getFrame (freeUnit eng q sl s) k = getFrame s k := by
  rcases freeUnit_cases eng q sl s with ⟨h, -⟩ | ⟨h, -⟩ <;> simp [h]

@[simp] theorem cycle_freeUnit (eng q sl : Nat) (s : State) : cycle (freeUnit eng q sl s) = cycle s := by
  rcases freeUnit_cases eng q sl s with ⟨h, -⟩ | ⟨h, -⟩ <;> simp [h, cycle]

/-- A unit is given back by the command that holds it, and by no other. -/
theorem unitHolder_freeUnit (eng q sl : Nat) (s : State) (u : Nat) :
    unitHolder (freeUnit eng q sl s) u =
      if u = (getSlot s eng q sl).run.unit ∧ unitHolder s u = sKey eng q sl + 1 then 0 else unitHolder s u := by
  rcases freeUnit_cases eng q sl s with ⟨h, hu⟩ | ⟨h, hu⟩
  · rw [h]
    by_cases he : u = (getSlot s eng q sl).run.unit
    · subst he
      rw [unitHolder_setUnit, if_pos ⟨rfl, hu⟩]
    · rw [unitHolder_setUnit_other _ _ he, if_neg fun h' => he h'.1]
  · rw [h, if_neg]
    rintro ⟨rfl, h'⟩
    exact hu h'

/-! ### What a tile's work may change -/

/-- From `s` to `t` only slots, units and page frames differ. -/
def OnlyTileWork (s t : State) : Prop := t = { s with tl := { s.tl with slots := t.tl.slots, units := t.tl.units, frames := t.tl.frames } }

theorem OnlyTileWork.refl (s : State) : OnlyTileWork s s := rfl

theorem OnlyTileWork.trans {s t u : State} (h : OnlyTileWork s t) (h2 : OnlyTileWork t u) : OnlyTileWork s u := by
  unfold OnlyTileWork at *
  rw [h2, h]

theorem onlyTileWork_setSlot (eng q sl : Nat) (y : Slot) (s : State) : OnlyTileWork s (setSlot eng q sl y s) := rfl

theorem onlyTileWork_freeUnit (eng q sl : Nat) (s : State) : OnlyTileWork s (freeUnit eng q sl s) := by
  rcases freeUnit_cases eng q sl s with ⟨h, -⟩ | ⟨h, -⟩
  · rw [h]; rfl
  · rw [h]; rfl

theorem onlyTileWork_requestCommit (eng q sl : Nat) (s : State) : OnlyTileWork s (requestCommit eng q sl s) := by
  unfold requestCommit
  dsimp only
  split
  · rfl
  · rfl

/-! ### Finishing (R85, R86) -/

/-- A slot once its command has finished in cycle `now` with these writes and flags: it requests its commit at once where nothing is outstanding. -/
def finishedSlot (y : Slot) (now : Nat) (ws : List Write) (f : Flags) : Slot :=
  { y with phase := if ws = [] ∧ y.run.acks = [] then .requested else .finished,
           run := { y.run with finishedAt := now, outbox := ws, flags := f } }

/-- A request sets the phase of a finished command with nothing outstanding. -/
theorem getSlot_requestCommit (eng q sl : Nat) (s : State) :
    getSlot (requestCommit eng q sl s) eng q sl =
      { getSlot s eng q sl with phase :=
          if (getSlot s eng q sl).phase = .finished ∧ (getSlot s eng q sl).run.outbox = [] ∧ (getSlot s eng q sl).run.acks = [] then .requested
          else (getSlot s eng q sl).phase } := by
  unfold requestCommit
  dsimp only
  split
  · rw [getSlot_setSlot]
  · rfl

theorem getSlot_requestCommit_other {e r l eng q sl : Nat} (s : State) (h : sKey e r l ≠ sKey eng q sl) :
    getSlot (requestCommit eng q sl s) e r l = getSlot s e r l := by
  unfold requestCommit
  dsimp only
  split
  · exact getSlot_setSlot_other _ _ h
  · rfl

@[simp] theorem getFrame_requestCommit (eng q sl : Nat) (s : State) (k : Nat) : getFrame (requestCommit eng q sl s) k = getFrame s k := by
  unfold requestCommit
  dsimp only
  split
  · rfl
  · rfl

@[simp] theorem unitHolder_requestCommit (eng q sl : Nat) (s : State) (u : Nat) : unitHolder (requestCommit eng q sl s) u = unitHolder s u := by
  unfold requestCommit
  dsimp only
  split
  · rfl
  · rfl

theorem getSlot_finishCommand (eng q sl : Nat) (ws : List Write) (f : Flags) (s : State) :
    getSlot (finishCommand eng q sl ws f s) eng q sl = finishedSlot (getSlot s eng q sl) (cycle s) ws f := by
  simp [finishCommand, getSlot_requestCommit, finishedSlot]

theorem getSlot_finishCommand_other {e r l eng q sl : Nat} (ws : List Write) (f : Flags) (s : State) (h : sKey e r l ≠ sKey eng q sl) :
    getSlot (finishCommand eng q sl ws f s) e r l = getSlot s e r l := by
  simp [finishCommand, getSlot_requestCommit_other _ h, getSlot_updSlot_other _ _ h]

theorem getFrame_finishCommand (eng q sl : Nat) (ws : List Write) (f : Flags) (s : State) (k : Nat) :
    getFrame (finishCommand eng q sl ws f s) k = getFrame s k := by
  simp [finishCommand]

theorem unitHolder_finishCommand (eng q sl : Nat) (ws : List Write) (f : Flags) (s : State) (u : Nat) :
    unitHolder (finishCommand eng q sl ws f s) u = unitHolder (freeUnit eng q sl s) u := by
  simp [finishCommand]

theorem onlyTileWork_finishCommand (eng q sl : Nat) (ws : List Write) (f : Flags) (s : State) : OnlyTileWork s (finishCommand eng q sl ws f s) :=
  (onlyTileWork_freeUnit eng q sl s).trans ((onlyTileWork_setSlot eng q sl _ _).trans (onlyTileWork_requestCommit _ _ _ _))

/-! ### Delivery (R86, R88) -/

/-- The shadow frame of the command's own tile that takes a write; none for a write that goes out. -/
def ownFrame (r : Run) (eng : Nat) (w : Write) : Option Nat := if eng < 32 ∧ w.tile = some eng then shadowOf r eng w.page else none

/-- A write lands in its own frame, if it has one. -/
def landOwn (own : Write → Option Nat) (s : State) (w : Write) : State :=
  match own w with
  | some k => writeFrame k w.off w.bytes s
  | none => s

theorem deliver_eq (eng q sl : Nat) (ps : List Piece) (f : Flags) (s : State) :
    deliver eng q sl ps f s =
      finishCommand eng q sl ((ps.flatMap pieceWrites).filter fun w => (ownFrame (getSlot s eng q sl).run eng w).isNone) f
        ((ps.flatMap pieceWrites).foldl (landOwn (ownFrame (getSlot s eng q sl).run eng)) s) := rfl

theorem onlyTileWork_landOwn (own : Write → Option Nat) (s : State) (w : Write) : OnlyTileWork s (landOwn own s w) := by
  unfold landOwn
  split
  · rfl
  · rfl

theorem onlyTileWork_foldl_landOwn (own : Write → Option Nat) (ws : List Write) (s : State) : OnlyTileWork s (ws.foldl (landOwn own) s) := by
  induction ws generalizing s with
  | nil => rfl
  | cons w ws ih => exact (onlyTileWork_landOwn own s w).trans (ih _)

/-- Landing writes changes page frames alone. -/
theorem foldl_landOwn_tl (own : Write → Option Nat) (ws : List Write) (s : State) :
    (ws.foldl (landOwn own) s).tl = { s.tl with frames := (ws.foldl (landOwn own) s).tl.frames } := by
  induction ws generalizing s with
  | nil => rfl
  | cons w ws ih =>
    have h : (landOwn own s w).tl = { s.tl with frames := (landOwn own s w).tl.frames } := by
      unfold landOwn
      split
      · rfl
      · rfl
    rw [List.foldl_cons, ih, h]

/-- A frame after one write has landed: its page takes the bytes where the write is its own. -/
theorem getFrame_landOwn (own : Write → Option Nat) (s : State) (w : Write) (k : Nat) :
    getFrame (landOwn own s w) k =
      if own w = some k then { getFrame s k with page := pageWrite (getFrame s k).page w.off w.bytes } else getFrame s k := by
  unfold landOwn
  cases h : own w with
  | none => rfl
  | some j =>
    by_cases hj : j = k
    · subst hj
      rw [if_pos rfl]
      exact getFrame_setFrame _ _ _
    · rw [if_neg fun h' => hj (Option.some.inj h')]
      exact getFrame_writeFrame_other _ _ _ fun h' => hj h'.symm

/-- A frame after every write has landed: its page takes the bytes of its own, in their order. -/
theorem getFrame_foldl_landOwn (own : Write → Option Nat) (ws : List Write) (s : State) (k : Nat) :
    getFrame (ws.foldl (landOwn own) s) k =
      { getFrame s k with page := (ws.filter fun w => own w == some k).foldl (fun p w => pageWrite p w.off w.bytes) (getFrame s k).page } := by
  induction ws generalizing s with
  | nil => rfl
  | cons w ws ih =>
    rw [List.foldl_cons, ih, getFrame_landOwn]
    by_cases h : own w = some k
    · simp [h]
    · simp [h]

/-- Settles O20: the writes land first, and finishing then touches the slot and its unit alone. -/
theorem finishingDeliversOutputs : Obligations.FinishingDeliversOutputs := by
  intro eng q sl ps f s
  dsimp only
  generalize hl : ((ps.flatMap pieceWrites).foldl (landOwn (ownFrame (getSlot s eng q sl).run eng)) s) = l
  have htl := foldl_landOwn_tl (ownFrame (getSlot s eng q sl).run eng) (ps.flatMap pieceWrites) s
  have hwork := onlyTileWork_foldl_landOwn (ownFrame (getSlot s eng q sl).run eng) (ps.flatMap pieceWrites) s
  have hframe := getFrame_foldl_landOwn (ownFrame (getSlot s eng q sl).run eng) (ps.flatMap pieceWrites) s
  rw [hl] at htl hwork hframe
  have hslot : ∀ e r l', getSlot l e r l' = getSlot s e r l' := fun e r l' => by rw [getSlot, htl, getSlot]
  have hunit : ∀ u, unitHolder l u = unitHolder s u := fun u => by rw [unitHolder, htl, unitHolder]
  have hcycle : cycle l = cycle s := by rw [hwork]; rfl
  rw [deliver_eq, hl]
  refine ⟨?_, fun k => ?_, fun u => ?_, fun e' q' sl' h => ?_, hwork.trans (onlyTileWork_finishCommand _ _ _ _ _ _)⟩
  · rw [getSlot_finishCommand, hslot, hcycle]
    rfl
  · rw [getFrame_finishCommand, hframe]
    rfl
  · rw [unitHolder_finishCommand, unitHolder_freeUnit, hslot, hunit]
  · rw [getSlot_finishCommand_other _ _ _ h, hslot]

end Sys2Proof.Proofs.TensorTile
end

section
namespace Sys2Proof.Proofs.TensorTile
open Sys2Proof Sys2Proof.Machine

/-! ### Whole parts of the state that an operation leaves -/

theorem leaves_ci {m : Nat} {s t : State} (h : Leaves m s t) (hm : ∀ i < 12, m.testBit (54 + i) = false) : t.ci = s.ci := by
  have h0 := h.ci_slots (hm 0 (by omega))
  have h1 := h.ci_pages (hm 1 (by omega))
  have h2 := h.ci_tags (hm 2 (by omega))
  have h3 := h.ci_serial (hm 3 (by omega))
  have h4 := h.ci_lostPcs (hm 4 (by omega))
  have h5 := h.ci_pcRetrain (hm 5 (by omega))
  have h6 := h.ci_pcWaiting (hm 6 (by omega))
  have h7 := h.ci_stale (hm 7 (by omega))
  have h8 := h.ci_migrate (hm 8 (by omega))
  have h9 := h.ci_moving (hm 9 (by omega))
  have h10 := h.ci_rebuilding (hm 10 (by omega))
  have h11 := h.ci_damaged (hm 11 (by omega))
  revert h0 h1 h2 h3 h4 h5 h6 h7 h8 h9 h10 h11
  cases t.ci; cases s.ci; simp_all

theorem leaves_fab {m : Nat} {s t : State} (h : Leaves m s t) (hm : ∀ i < 12, m.testBit (35 + i) = false) : t.fab = s.fab := by
  have h0 := h.fab_board (hm 0 (by omega))
  have h1 := h.fab_defects (hm 1 (by omega))
  have h2 := h.fab_unlisted (hm 2 (by omega))
  have h3 := h.fab_stepMap (hm 3 (by omega))
  have h4 := h.fab_repairs (hm 4 (by omega))
  have h5 := h.fab_links (hm 5 (by omega))
  have h6 := h.fab_load (hm 6 (by omega))
  have h7 := h.fab_evac (hm 7 (by omega))
  have h8 := h.fab_siteOf (hm 8 (by omega))
  have h9 := h.fab_motionFailed (hm 9 (by omega))
  have h10 := h.fab_resetWaits (hm 10 (by omega))
  have h11 := h.fab_faultWaits (hm 11 (by omega))
  revert h0 h1 h2 h3 h4 h5 h6 h7 h8 h9 h10 h11
  cases t.fab; cases s.fab; simp_all

theorem leaves_io {m : Nat} {s t : State} (h : Leaves m s t) (hm : ∀ i < 7, m.testBit (83 + i) = false) : t.io = s.io := by
  have h0 := h.io_raster (hm 0 (by omega))
  have h1 := h.io_rings (hm 1 (by omega))
  have h2 := h.io_pcie (hm 2 (by omega))
  have h3 := h.io_paths (hm 3 (by omega))
  have h4 := h.io_msixTable (hm 4 (by omega))
  have h5 := h.io_can (hm 5 (by omega))
  have h6 := h.io_lands (hm 6 (by omega))
  revert h0 h1 h2 h3 h4 h5 h6
  cases t.io; cases s.io; simp_all

theorem leaves_alm {m : Nat} {s t : State} (h : Leaves m s t) (hm : ∀ i < 11, m.testBit (90 + i) = false) : t.alm = s.alm := by
  have h0 := h.alm_slots (hm 0 (by omega))
  have h1 := h.alm_used (hm 1 (by omega))
  have h2 := h.alm_queue (hm 2 (by omega))
  have h3 := h.alm_discarded (hm 3 (by omega))
  have h4 := h.alm_lastCirc (hm 4 (by omega))
  have h5 := h.alm_frozen (hm 5 (by omega))
  have h6 := h.alm_snapshot (hm 6 (by omega))
  have h7 := h.alm_pending (hm 7 (by omega))
  have h8 := h.alm_region (hm 8 (by omega))
  have h9 := h.alm_erasing (hm 9 (by omega))
  have h10 := h.alm_mirrorFailed (hm 10 (by omega))
  revert h0 h1 h2 h3 h4 h5 h6 h7 h8 h9 h10
  cases t.alm; cases s.alm; simp_all

/-- An operation that leaves the slots leaves what every slot reads. -/
theorem getSlot_of_leaves {m : Nat} {s t : State} (h : Leaves m s t) (hm : m.testBit 48 = false) (e r l : Nat) : getSlot t e r l = getSlot s e r l := by
  rw [getSlot, h.tl_slots hm, getSlot]

theorem getQueue_of_leaves {m : Nat} {s t : State} (h : Leaves m s t) (hm : m.testBit 47 = false) (e r : Nat) : getQueue t e r = getQueue s e r := by
  rw [getQueue, h.tl_queues hm, getQueue]

theorem getFrame_of_leaves {m : Nat} {s t : State} (h : Leaves m s t) (hm : m.testBit 51 = false) (k : Nat) : getFrame t k = getFrame s k := by
  rw [getFrame, h.tl_frames hm, getFrame]

theorem getObj_of_leaves {m : Nat} {s t : State} (h : Leaves m s t) (hm : m.testBit 2 = false) (k : Nat) : getObj t k = getObj s k := by
  rw [getObj, h.objs hm, getObj]

theorem unitHolder_of_leaves {m : Nat} {s t : State} (h : Leaves m s t) (hm : m.testBit 49 = false) (u : Nat) : unitHolder t u = unitHolder s u := by
  rw [unitHolder, h.tl_units hm, unitHolder]

/-! ### The tail of a queue -/

/-- Setting a queue with the tail that it has leaves the tail of every queue. -/
theorem tail_setQueue (eng q : Nat) (x : Queue) (s : State) (h : x.tail = (getQueue s eng q).tail) (e r : Nat) :
    (getQueue (setQueue eng q x s) e r).tail = (getQueue s e r).tail := by
  by_cases hk : qKey e r = qKey eng q
  · unfold getQueue at h ⊢
    simpa [setQueue, hk] using h
  · rw [getQueue_setQueue_other _ _ hk]

theorem tail_armHead (eng q : Nat) (s : State) (e r : Nat) : (getQueue (armHead eng q s) e r).tail = (getQueue s e r).tail := by
  unfold armHead
  split
  · rfl
  · dsimp only
    split
    · rw [getQueue_of_leaves (sendProbe_frame (Leaves.refl _ _) (FieldsIn.refl _)) (by decide)]
      exact tail_setQueue eng q _ s (by rfl) e r
    · rfl

theorem tail_moveHead (eng q h : Nat) (s : State) (e r : Nat) : (getQueue (moveHead eng q h s) e r).tail = (getQueue s e r).tail := by
  unfold moveHead
  dsimp only
  split
  · rw [tail_armHead, getQueue_of_leaves (refreshLoad_frame (Leaves.refl _ _) (FieldsIn.refl _)) (by decide)]
  · have hd : ∀ e r, getQueue (if (getQueue s eng q).notified = true then dropNotice eng q s else s) e r = getQueue s e r :=
      getQueue_of_leaves (ite_frame (dropNotice_frame (Leaves.refl _ _) (FieldsIn.refl _)) (Leaves.refl _ _)) (by decide)
    rw [tail_armHead, getQueue_of_leaves (refreshLoad_frame (Leaves.refl _ _) (FieldsIn.refl _)) (by decide), tail_setQueue _ _ _ _ (by rw [hd]), hd]

theorem tail_settleHead (eng q : Nat) (s : State) (e r : Nat) : (getQueue (settleHead eng q s) e r).tail = (getQueue s e r).tail := tail_moveHead _ _ _ _ _ _

/-! ### Stamping (R81) -/

/-- The step allocators are 64-bit counts. -/
theorem stepAllocator_width : ∀ p < 16, objWidth (oStepAllocator p) = 64 ∧ objDefault (oStepAllocator p) = 0 := by decide +kernel

theorem stepAllocator_lt {p : Nat} (hp : p < 16) (s : State) : getObj s (oStepAllocator p) < 2 ^ 64 := by
  unfold getObj
  split
  · exact BitVec.isLt _
  · rw [(stepAllocator_width p hp).2]; decide

/-- A queue is bound to one of the 16 partitions. -/
theorem queuePart_lt (s : State) (eng q : Nat) : queuePart s eng q < 16 := bits_lt _ 3 0

/-- A command that comes after all others of its cycle takes the last place. -/
theorem placeStamp_last (e : Nat × Nat × Nat) (l : List (Nat × Nat × Nat)) (h : ∀ f ∈ l, qKey f.1 f.2.1 ≤ qKey e.1 e.2.1) : placeStamp e l = l ++ [e] := by
  induction l with
  | nil => rfl
  | cons f fs ih =>
    have hf : qKey f.1 f.2.1 ≤ qKey e.1 e.2.1 := h f (by simp)
    rw [placeStamp, if_pos hf, ih fun g hg => h g (by simp [hg]), List.cons_append]

/-- A slot once its command is stamped for a partition with a step. -/
def stampedSlot (p step : Nat) (y : Slot) : Slot := { y with part := p, step := step, fallback := false, phase := .waiting, run := Run.init }

/-- Every command stamped in this cycle stands in one queue. -/
def StampsOf (eng q : Nat) (s : State) : Prop := ∀ e ∈ s.now.stamped, e.1 = eng ∧ e.2.1 = q

/-- Where only this queue has stamped commands in this cycle, a command takes the allocator's step and no other command's changes. -/
theorem stampStep_own {eng q : Nat} {s : State} (p sl : Nat) (h : StampsOf eng q s) :
    stampStep eng q p sl s =
      { addObj (oStepAllocator p) 1 (updSlot eng q sl (stampedSlot p (getObj s (oStepAllocator p))) s) with
        now := { s.now with stamped := s.now.stamped.filter (fun x => !((stampedNow s p ++ [(eng, q, sl)]).contains x)) ++ (stampedNow s p ++ [(eng, q, sl)]) } } := by
  have hp : placeStamp (eng, q, sl) (stampedNow s p) = stampedNow s p ++ [(eng, q, sl)] :=
    placeStamp_last _ _ fun f hf => by
      obtain ⟨h1, h2⟩ := h f (List.mem_of_mem_filter hf)
      rw [h1, h2]
  unfold stampStep
  dsimp only
  rw [hp, if_pos rfl]
  rfl

theorem stampsOf_stampStep {eng q : Nat} {s : State} (p sl : Nat) (h : StampsOf eng q s) : StampsOf eng q (stampStep eng q p sl s) := by
  rw [stampStep_own p sl h]
  intro e he
  rcases List.mem_append.1 he with he | he
  · exact h e (List.mem_of_mem_filter he)
  · rcases List.mem_append.1 he with he | he
    · exact h e (List.mem_of_mem_filter he)
    · rw [List.mem_singleton.1 he]
      exact ⟨rfl, rfl⟩

/-- Stamping the slots of a list, no slot twice: slot `i` takes the `i`th step from the allocator, and every slot outside the list reads as before. -/
theorem stampSlots_own {eng q p : Nat} (hp : p < 16) (sls : List Nat) (hn : sls.Nodup) (s : State) (h : StampsOf eng q s) :
    (∀ i (hi : i < sls.length), getSlot (stampSlots eng q p false sls s) eng q sls[i] =
      stampedSlot p ((getObj s (oStepAllocator p) + i) % 2 ^ 64) (getSlot s eng q sls[i])) ∧
    ∀ e r l, (∀ sl ∈ sls, sKey e r l ≠ sKey eng q sl) → getSlot (stampSlots eng q p false sls s) e r l = getSlot s e r l := by
  induction sls generalizing s with
  | nil => exact ⟨fun i hi => absurd hi (by simp), fun _ _ _ _ => rfl⟩
  | cons sl sls ih =>
    obtain ⟨hsl, hn⟩ := List.nodup_cons.1 hn
    obtain ⟨hin, hout⟩ := ih hn (stampStep eng q p sl s) (stampsOf_stampStep p sl h)
    have hfold : stampSlots eng q p false (sl :: sls) s = stampSlots eng q p false sls (stampStep eng q p sl s) := rfl
    have hsame : getSlot (stampStep eng q p sl s) eng q sl = stampedSlot p (getObj s (oStepAllocator p)) (getSlot s eng q sl) := by
      rw [stampStep_own p sl h]
      exact getSlot_updSlot _ _ _ _ _
    have hother : ∀ e r l, sKey e r l ≠ sKey eng q sl → getSlot (stampStep eng q p sl s) e r l = getSlot s e r l := fun e r l hk => by
      rw [stampStep_own p sl h]
      exact getSlot_updSlot_other _ _ hk
    have halloc : getObj (stampStep eng q p sl s) (oStepAllocator p) = (getObj s (oStepAllocator p) + 1) % 2 ^ 64 := by
      rw [stampStep_own p sl h, ← (stepAllocator_width p hp).1]
      exact getObj_addObj _ _ _
    have hkey : ∀ l, l ≠ sl → sKey eng q l ≠ sKey eng q sl := fun l hl hk => hl (by unfold sKey at hk; omega)
    rw [hfold]
    refine ⟨fun i hi => ?_, fun e r l hk => ?_⟩
    · cases i with
      | zero =>
        rw [List.getElem_cons_zero, hout _ _ _ fun x hx => (hkey x (fun he => hsl (he ▸ hx))).symm, hsame, Nat.add_zero, Nat.mod_eq_of_lt (stepAllocator_lt hp s)]
      | succ i =>
        have hi' : i < sls.length := by simpa using hi
        rw [List.getElem_cons_succ, hin i hi', halloc, hother _ _ _ (hkey _ fun he => hsl (he ▸ List.getElem_mem hi')), Nat.mod_add_mod]
        congr 2
        omega
    · rw [hout e r l fun x hx => hk x (by simp [hx]), hother e r l (hk sl (by simp))]

/-! ### Publication (R79 to R81) -/

/-- The slots of as many commands as a queue has slots, from a pointer on, are all different. -/
theorem slotsBetween_nodup {eng a b : Nat} (h : (b + ptrMod eng - a) % ptrMod eng ≤ slotsOf eng) : (slotsBetween eng a b).Nodup := by
  refine List.Nodup.map_on (fun i hi j hj hij => ?_) List.nodup_range
  have hi' := List.mem_range.1 hi
  have hj' := List.mem_range.1 hj
  have : ∀ m, (b + ptrMod eng - a) % ptrMod eng ≤ m → (a + i) % m = (a + j) % m → i = j := fun m hm hij =>
    (Nat.ModEq.add_left_cancel' a hij).eq_of_lt_of_lt (by omega) (by omega)
  exact this _ h hij

theorem getSlot_publishTail (eng q p tail : Nat) (s : State) (e r l : Nat) :
    getSlot (publishTail eng q p tail false s) e r l =
      getSlot (stampSlots eng q p false (slotsBetween eng (getQueue s eng q).tail tail) s) e r l := by
  unfold publishTail
  exact getSlot_of_leaves (settleHead_frame (Leaves.refl _ _) (FieldsIn.refl _)) (by decide) e r l

theorem tail_publishTail (eng q p tail : Nat) (s : State) : (getQueue (publishTail eng q p tail false s) eng q).tail = tail := by
  unfold publishTail
  dsimp only
  rw [tail_settleHead, getQueue_setQueue]

@[simp] theorem getSlot_touch (key : Nat) (s : State) (e r l : Nat) : getSlot (touch key s) e r l = getSlot s e r l := by simp [getSlot]

@[simp] theorem getQueue_touch (key : Nat) (s : State) (e r : Nat) : getQueue (touch key s) e r = getQueue s e r := by simp [getQueue]

/-- An accepted tail write of a partition outside DET publishes the commands up to the new tail. -/
theorem execTailWrite_accepted {m eng q value : Nat} {s : State} (hs : Serves m s) (hq : q < 4) (hobj : objExists s (engIndex eng) (0x0C + q) = true)
    (hdet : isDet s (queuePart s eng q) = false) (hok : tailOk s eng q (value % 65536 % ptrMod eng) = true) :
    exec (.tailWrite m eng q value) s =
      .next (touch (oTail eng q) (publishTail eng q (queuePart s eng q) (value % 65536 % ptrMod eng) false s)) := by
  obtain ⟨hlive, hawake, hparked⟩ := hs
  show execTailWrite m eng q value s = _
  unfold execTailWrite
  rw [whenFree_free _ hlive hawake hparked, if_pos ⟨hq, hobj⟩]
  simp only [wTail, hdet, applyTail, hok, Bool.false_eq_true, if_false, if_true, ackWrite_done, pubPart]

/-- Settles O22: nothing else was stamped in this cycle, so that the stamps follow the allocator in slot order. -/
theorem tailWritePublishesInOrder : Obligations.TailWritePublishesInOrder := by
  intro m eng q value s hs _ hnow hq hobj hdet x tail p n hroom hgrow hn
  have hown : StampsOf eng q s := fun e he => by rw [hnow] at he; cases he
  have hok : tailOk s eng q tail = true := by simp [tailOk, hroom, hgrow, x]
  obtain ⟨hin, hout⟩ := stampSlots_own (queuePart_lt s eng q) _ (slotsBetween_nodup (a := x.tail) hn) s hown
  have hlen : (slotsBetween eng x.tail tail).length = n := by simp [slotsBetween, n]
  have hf := touch_frame (a0 := oTail eng q) (publishTail_frame (a0 := eng) (a1 := q) (a2 := p) (a3 := tail) (a4 := false) (Leaves.refl _ s)
    (FieldsIn.refl _)) (FieldsIn.of (FieldsIn.refl _) (by decide))
  refine ⟨_, execTailWrite_accepted hs hq hobj hdet hok, ?_, fun i hi => ?_, fun e' q' sl' hk => ?_,
    hf.tl_frames (by decide), hf.tl_pageMap (by decide), hf.tl_units (by decide), leaves_ci hf (by decide), leaves_io hf (by decide),
    leaves_fab hf (by decide), leaves_alm hf (by decide)⟩
  · rw [getQueue_touch, tail_publishTail]
  · have hi' : i < (slotsBetween eng x.tail tail).length := hlen.symm ▸ hi
    have hslot : (slotsBetween eng x.tail tail)[i] = (x.tail + i) % slotsOf eng := by simp [slotsBetween]
    dsimp only
    rw [getSlot_touch, getSlot_publishTail, ← hslot]
    exact hin i hi'
  · rw [getSlot_touch, getSlot_publishTail]
    refine hout _ _ _ fun sl hsl => ?_
    obtain ⟨i, hi, rfl⟩ := List.mem_map.1 hsl
    exact hk i (List.mem_range.1 hi)

end Sys2Proof.Proofs.TensorTile
end

section
namespace Sys2Proof.Proofs.TensorTile
open Sys2Proof Sys2Proof.Machine

/-! ### Slots by their keys -/

theorem getSlot_of_key {e q l f r k : Nat} (h : sKey e q l = sKey f r k) (s : State) : getSlot s e q l = getSlot s f r k := by
  rw [getSlot, h, getSlot]

/-- A slot after a change of one slot: changed where the keys agree. -/
theorem getSlot_updSlot_ite (e q l f r k : Nat) (g : Slot → Slot) (s : State) :
    getSlot (updSlot f r k g s) e q l = if sKey e q l = sKey f r k then g (getSlot s e q l) else getSlot s e q l := by
  by_cases h : sKey e q l = sKey f r k
  · rw [if_pos h, getSlot_of_key h, getSlot_updSlot, getSlot_of_key h]
  · rw [if_neg h, getSlot_updSlot_other _ _ h]

/-! ### Operations that leave every slot -/

@[simp] theorem getSlot_dropWaiting (eng q sl : Nat) (s : State) (e r l : Nat) : getSlot (dropWaiting eng q sl s) e r l = getSlot s e r l :=
  getSlot_of_leaves (dropWaiting_frame (Leaves.refl _ _) (FieldsIn.refl _)) (by decide) e r l

@[simp] theorem getSlot_chargeLost (k n : Nat) (s : State) (e r l : Nat) : getSlot (chargeLost k n s) e r l = getSlot s e r l := rfl

@[simp] theorem getSlot_capture (code part inst p0 p1 p2 : Nat) (s : State) (e r l : Nat) :
    getSlot (capture code part inst p0 p1 p2 s) e r l = getSlot s e r l := by simp [getSlot]

@[simp] theorem getSlot_moveHead (eng q h : Nat) (s : State) (e r l : Nat) : getSlot (moveHead eng q h s) e r l = getSlot s e r l :=
  getSlot_of_leaves (moveHead_frame (Leaves.refl _ _) (FieldsIn.refl _)) (by decide) e r l

@[simp] theorem getSlot_settleHead (eng q : Nat) (s : State) (e r l : Nat) : getSlot (settleHead eng q s) e r l = getSlot s e r l :=
  getSlot_moveHead _ _ _ _ _ _ _

@[simp] theorem getSlot_perturb (s : State) (e r l : Nat) : getSlot (perturb s) e r l = getSlot s e r l :=
  getSlot_of_leaves (perturb_frame (Leaves.refl _ _) (FieldsIn.refl _)) (by decide) e r l

@[simp] theorem unitHolder_perturb (s : State) (u : Nat) : unitHolder (perturb s) u = unitHolder s u :=
  unitHolder_of_leaves (perturb_frame (Leaves.refl _ _) (FieldsIn.refl _)) (by decide) u

@[simp] theorem unitHolder_moveHead (eng q h : Nat) (s : State) (u : Nat) : unitHolder (moveHead eng q h s) u = unitHolder s u :=
  unitHolder_of_leaves (moveHead_frame (Leaves.refl _ _) (FieldsIn.refl _)) (by decide) u

@[simp] theorem getObj_settleHead (eng q : Nat) (s : State) (k : Nat) : getObj (settleHead eng q s) k = getObj s k :=
  getObj_of_leaves (settleHead_frame (Leaves.refl _ _) (FieldsIn.refl _)) (by decide) k

/-! ### Kills leave what cannot be killed (R89) -/

/-- A command that stands where no kill reaches it keeps its slot. -/
theorem getSlot_killOne {asReset : Bool} {e r l : Nat} {s : State} (h : killable asReset (getSlot s e r l).phase = false) (charged : Bool) (n eng q sl : Nat) :
    getSlot (killOne asReset charged n eng q sl s) e r l = getSlot s e r l := by
  unfold killOne
  dsimp only
  split
  · next hk =>
    have hkey : sKey e r l ≠ sKey eng q sl := fun he => by rw [getSlot_of_key he, hk] at h; cases h
    split
    · exact getSlot_setSlot_other _ _ hkey
    · rw [getSlot_chargeLost, getSlot_dropWaiting, getSlot_setSlot_other _ _ hkey]
  · rfl

theorem getSlot_startKill {asReset : Bool} {e r l : Nat} {s : State} (h : killable asReset (getSlot s e r l).phase = false) (charged : Bool) (n eng q sl : Nat) :
    getSlot (startKill asReset charged n eng q sl s) e r l = getSlot s e r l := by
  unfold startKill
  dsimp only
  split
  · refine List.foldlRecOn (motive := fun t => getSlot t e r l = getSlot s e r l) _ _ (getSlot_killOne h _ _ _ _ _) fun t ht k _ => ?_
    rw [getSlot_killOne (by rw [ht]; exact h), ht]
  · rfl

theorem getSlot_killPart {e r l : Nat} {s : State} (h : killable true (getSlot s e r l).phase = false) (p : Nat) :
    getSlot (killPart p s) e r l = getSlot s e r l := by
  unfold killPart
  refine List.foldlRecOn (motive := fun t => getSlot t e r l = getSlot s e r l) _ _ rfl fun t ht k _ => ?_
  refine List.foldlRecOn (motive := fun u => getSlot u e r l = getSlot s e r l) _ _ ht fun u hu j _ => ?_
  rw [getSlot_startKill (by rw [hu]; exact h), hu]

/-! ### Job faults (R317) -/

theorem getSlot_startReset {e r l : Nat} {s : State} (h : killable true (getSlot s e r l).phase = false) (p dest cause : Nat) :
    getSlot (startReset p dest cause s) e r l = getSlot s e r l := by
  unfold startReset
  dsimp only
  split
  · rfl
  · exact getSlot_killPart (s := setObj _ _ (updPart p _ s)) h p

theorem getObj_startReset {k p : Nat} (h : k ≠ oPartitionState p) (dest cause : Nat) (s : State) : getObj (startReset p dest cause s) k = getObj s k := by
  unfold startReset
  dsimp only
  split
  · rfl
  · rw [getObj_of_leaves (killPart_frame (Leaves.refl _ _) (FieldsIn.refl _)) (by decide), getObj_setObj_other _ _ h]
    rfl

theorem getObj_haltTile {k t : Nat} (h : k ≠ oTileState t) (p : Nat) (s : State) : getObj (haltTile p t s) k = getObj s k := by
  unfold haltTile
  split
  · rfl
  · exact getObj_setObj_other _ _ h

/-- A job fault leaves a slot that no kill reaches. -/
theorem getSlot_jobFault {e r l : Nat} {s : State} (h : killable true (getSlot s e r l).phase = false) (p cause : Nat) (tiles : List Nat) (always : Bool) :
    getSlot (jobFault p cause tiles always s) e r l = getSlot s e r l := by
  have hhalt : getSlot (tiles.foldl (fun s t => haltTile p t s) s) e r l = getSlot s e r l :=
    getSlot_of_leaves (foldl_frame (fun _ _ h0 => haltTile_frame h0 (hm := FieldsIn.refl _)) (Leaves.refl _ s)) (by decide) e r l
  unfold jobFault
  dsimp only
  split
  · split
    · rfl
    · rw [getSlot_startReset (by rw [hhalt]; exact h), hhalt]
  · rfl

/-- A job fault writes the states of its tiles and of its partition, and no other object. -/
theorem getObj_jobFault {k p : Nat} {tiles : List Nat} (hp : k ≠ oPartitionState p) (ht : ∀ t ∈ tiles, k ≠ oTileState t) (cause : Nat) (always : Bool) (s : State) :
    getObj (jobFault p cause tiles always s) k = getObj s k := by
  unfold jobFault
  dsimp only
  split
  · split
    · rfl
    · rw [getObj_startReset hp]
      refine List.foldlRecOn (motive := fun u => getObj u k = getObj s k) _ _ rfl fun u hu t hmem => ?_
      rw [getObj_haltTile (ht t hmem), hu]
  · rfl

/-! ### Refusal (R78) -/

/-- `last_refusal` is an object of its own, of 32 bits. -/
theorem lastRefusal_own : ∀ eng < 48, objWidth (oLastRefusal eng) = 32 ∧ oLastRefusal eng ≠ oAlmanacLost ∧ (∀ p < 16, oLastRefusal eng ≠ oPartitionState p) ∧
    oLastRefusal eng ≠ oTileState eng := by decide +kernel

/-- A refused command's slot carries the reason, and its run is given up; the job fault that follows does not reach it. -/
theorem getSlot_refuseCommand (eng q sl r : Nat) (s : State) :
    getSlot (refuseCommand eng q sl r s) eng q sl = { getSlot s eng q sl with phase := .refused r, run := Run.init } := by
  unfold refuseCommand
  dsimp only
  split
  · rw [getSlot_jobFault (by simp [killable])]
    simp
  · simp

/-- The refusal stands in the engine's last_refusal (R93, R154, R238, R269). -/
theorem getObj_refuseCommand {eng q sl : Nat} (he : eng < 48) {s : State} (hp : (getSlot s eng q sl).part < 16) (r : Nat) :
    getObj (refuseCommand eng q sl r s) (oLastRefusal eng) = lastRefusal q sl r % 2 ^ 32 := by
  obtain ⟨hw, hlost, hpart, htile⟩ := lastRefusal_own eng he
  have hset : ∀ u : State, getObj (settleHead eng q (capture 0x0301 (getSlot s eng q sl).part (engRecord eng) (lastRefusal q sl r) (getSlot s eng q sl).step 0
      (setObj (oLastRefusal eng) (lastRefusal q sl r) u))) (oLastRefusal eng) = lastRefusal q sl r % 2 ^ 32 := fun u => by
    rw [getObj_settleHead, getObj_capture_other _ _ _ _ _ _ _ hlost, getObj_setObj, hw]
  unfold refuseCommand
  dsimp only
  split
  · rw [getObj_jobFault (hpart _ hp) (fun t ht => ?_), hset]
    split at ht
    · rw [List.mem_singleton.1 ht]
      exact htile
    · cases ht
  · exact hset _

/-! ### Shadow pages (R82, R88, R107) -/

/-- A shadow page joins those that a command holds. -/
def withShadow (p : Pin) (y : Slot) : Slot := { y with run := { y.run with shadows := y.run.shadows ++ [p] } }

/-- A shadow page that is allocated takes a free frame and its fill; the fill may use a free value. -/
theorem allocShadow_some {eng q sl tile lp k : Nat} {s t : State} (h : allocShadow eng q sl tile lp s = some (k, t)) :
    ∃ pg, ∃ u, (u = s ∨ u = useFree s) ∧
      t = updSlot eng q sl (withShadow { tile := tile, page := lp, frame := k }) (setFrame k { st := .shadow, pins := 0, page := pg } u) := by
  unfold allocShadow at h
  split at h
  · cases h
  · split at h
    · cases h
    · cases h
      refine ⟨_, (tileFill s tile lp).2, ?_, rfl⟩
      unfold tileFill
      split
      · exact .inl rfl
      · exact .inr rfl

theorem getSlot_allocShadow {eng q sl tile lp k : Nat} {s t : State} (h : allocShadow eng q sl tile lp s = some (k, t)) :
    getSlot t eng q sl = withShadow { tile := tile, page := lp, frame := k } (getSlot s eng q sl) := by
  obtain ⟨pg, u, rfl | rfl, rfl⟩ := allocShadow_some h
  · rw [getSlot_updSlot]; rfl
  · rw [getSlot_updSlot]; rfl

theorem getFrame_allocShadow_other {eng q sl tile lp k j : Nat} {s t : State} (h : allocShadow eng q sl tile lp s = some (k, t)) (hj : j ≠ k) :
    getFrame t j = getFrame s j := by
  obtain ⟨pg, u, rfl | rfl, rfl⟩ := allocShadow_some h
  · rw [getFrame_updSlot, getFrame_setFrame_other _ _ hj]
  · rw [getFrame_updSlot, getFrame_setFrame_other _ _ hj, getFrame_useFree]

/-! ### Dispatch (R82) -/

/-- What stays of a dispatched command while it takes its pins, shadows and tag: its standing, the cycle of its dispatch, its words and its step. -/
def standing (y : Slot) : Phase × Nat × List Word × Nat := (y.phase, y.run.dispatched, y.words, y.step)

theorem standing_takePins (eng q sl : Nat) (pl : Plan) (s : State) :
    standing (getSlot (takePins eng q sl pl s) eng q sl) = standing (getSlot s eng q sl) := by
  unfold takePins
  refine List.foldlRecOn (motive := fun t => standing (getSlot t eng q sl) = standing (getSlot s eng q sl)) _ _ rfl fun t ht e _ => ?_
  split
  · rw [getSlot_updSlot]
    exact ht
  · exact ht

theorem standing_takeShadows (eng q sl : Nat) (pl : Plan) (s : State) :
    standing (getSlot (takeShadows eng q sl pl s) eng q sl) = standing (getSlot s eng q sl) := by
  unfold takeShadows
  refine List.foldlRecOn (motive := fun t => standing (getSlot t eng q sl) = standing (getSlot s eng q sl)) _ _ rfl fun t ht lp _ => ?_
  split
  · next h =>
    rw [getSlot_allocShadow h]
    exact ht
  · exact ht

theorem standing_takeTag (eng q sl : Nat) (pl : Plan) (s : State) :
    standing (getSlot (takeTag eng q sl pl s) eng q sl) = standing (getSlot s eng q sl) := by
  unfold takeTag
  split
  · rw [getSlot_updSlot]
    rfl
  · rfl

/-- The slot of a command that is dispatched, before it takes its pins, shadows and tag. -/
def dispatchedSlot (s : State) (eng q sl : Nat) : Slot :=
  let x := getSlot s eng q sl
  { x with phase := .running,
           run := { Run.init with unit := (unitOf s eng q x).getD 0, dispatched := cycle s, cd := seenStep s x.part, serial := seenSerial s,
                                  readsCistern := (planOf s eng q x).cuses.any fun c => !c.write, unmap := (planOf s eng q x).unmap } }

/-- A command takes its unit, if it has one. -/
def takeUnit (u : Option Nat) (v : Nat) (s : State) : State :=
  match u with
  | some u => setUnit u v s
  | none => s

/-- A selection point notes its winner of this cycle (R300, R301). -/
def noteWinner (eng q point : Nat) (s : State) : State :=
  { s with tl := { s.tl with turns := mapSet 0 s.tl.turns point (qKey eng q + 1) }, now := { s.now with won := point :: s.now.won } }

/-- A fallback command on an engine of a DET partition perturbs it (R356). -/
def perturbFallback (eng q : Nat) (s : State) : State := if q = 4 ∧ engineDet s eng = true then perturb s else s

/-- The state in which a starting command leaves its slot, its pages, its unit and its selection point. -/
def started (eng q sl : Nat) (s : State) : State :=
  let x := getSlot s eng q sl
  let pl := planOf s eng q x
  perturbFallback eng q (noteWinner eng q (pointOf s eng q x) (takeUnit (unitOf s eng q x) (sKey eng q sl + 1)
    (takeTag eng q sl pl (takeShadows eng q sl pl (takePins eng q sl pl (setSlot eng q sl (dispatchedSlot s eng q sl) s))))))

theorem startCommand_eq (eng q sl : Nat) (s : State) :
    startCommand eng q sl s = moveHead eng q (((getQueue (started eng q sl s) eng q).head + 1) % ptrMod eng) (started eng q sl s) := rfl

@[simp] theorem getSlot_takeUnit (u : Option Nat) (v : Nat) (s : State) (e r l : Nat) : getSlot (takeUnit u v s) e r l = getSlot s e r l := by
  cases u <;> rfl

@[simp] theorem getSlot_noteWinner (eng q point : Nat) (s : State) (e r l : Nat) : getSlot (noteWinner eng q point s) e r l = getSlot s e r l := rfl

@[simp] theorem unitHolder_noteWinner (eng q point : Nat) (s : State) (u : Nat) : unitHolder (noteWinner eng q point s) u = unitHolder s u := rfl

@[simp] theorem getSlot_perturbFallback (eng q : Nat) (s : State) (e r l : Nat) : getSlot (perturbFallback eng q s) e r l = getSlot s e r l := by
  unfold perturbFallback
  split
  · exact getSlot_perturb _ _ _ _
  · rfl

@[simp] theorem unitHolder_perturbFallback (eng q : Nat) (s : State) (u : Nat) : unitHolder (perturbFallback eng q s) u = unitHolder s u := by
  unfold perturbFallback
  split
  · exact unitHolder_perturb _ _
  · rfl

/-- A command that starts runs, from this cycle on, with its words and its step. -/
theorem standing_startCommand (eng q sl : Nat) (s : State) :
    standing (getSlot (startCommand eng q sl s) eng q sl) = (.running, cycle s, (getSlot s eng q sl).words, (getSlot s eng q sl).step) := by
  rw [startCommand_eq, getSlot_moveHead, started, getSlot_perturbFallback, getSlot_noteWinner, getSlot_takeUnit, standing_takeTag, standing_takeShadows,
    standing_takePins, getSlot_setSlot]
  rfl

/-- A command that starts holds its unit. -/
theorem unitHolder_startCommand {eng q sl u : Nat} {s : State} (h : unitOf s eng q (getSlot s eng q sl) = some u) :
    unitHolder (startCommand eng q sl s) u = sKey eng q sl + 1 := by
  rw [startCommand_eq, unitHolder_moveHead, started, unitHolder_perturbFallback, unitHolder_noteWinner, h]
  exact unitHolder_setUnit _ _ _

/-- Settles O23: the three ends of `execDispatch`; what follows a refusal or a start does not reach the slot again. -/
theorem dispatchStartsRefusesOrKills : Obligations.DispatchStartsRefusesOrKills := by
  intro eng q sl s hl he _ hj x
  have hexec : exec (.dispatch eng q) s = _ := whenLive_live (fun s => _) hl
  simp only [hj] at hexec
  refine ⟨fun hp r hr => ?_, fun hr hready hwins hfree => ?_, fun hr hready hwins hfree => ?_⟩
  · simp only [x] at hr
    simp only [hr] at hexec
    refine ⟨_, hexec, ?_, ?_, getObj_refuseCommand he hp r⟩
    · rw [getSlot_refuseCommand]
    · rw [getSlot_refuseCommand]
  · simp only [x] at hr hfree
    simp only [hr, hready, hwins, hfree, if_true] at hexec
    have hslot := standing_startCommand eng q sl s
    simp only [standing, Prod.mk.injEq] at hslot
    obtain ⟨hphase, hcycle, hwords, hstep⟩ := hslot
    exact ⟨_, hexec, hphase, hcycle, hwords, hstep, fun u hu => unitHolder_startCommand hu⟩
  · simp only [x] at hr hfree
    simp only [hr, hready, hwins, hfree, if_true, Bool.false_eq_true, if_false] at hexec
    exact hexec

end Sys2Proof.Proofs.TensorTile
end

section
namespace Sys2Proof.Proofs.TensorTile
open Sys2Proof Sys2Proof.Machine

theorem leaves_st {m : Nat} {s t : State} (h : Leaves m s t) (hm : ∀ i < 6, m.testBit (77 + i) = false) : t.st = s.st := by
  have h0 := h.st_seqs (hm 0 (by omega))
  have h1 := h.st_watched (hm 1 (by omega))
  have h2 := h.st_overlays (hm 2 (by omega))
  have h3 := h.st_audio (hm 3 (by omega))
  have h4 := h.st_fallback (hm 4 (by omega))
  have h5 := h.st_served (hm 5 (by omega))
  revert h0 h1 h2 h3 h4 h5
  cases t.st; cases s.st; simp_all

theorem getC_of_leaves {m : Nat} {s t : State} (h : Leaves m s t) (hm : m.testBit 54 = false) (k : Nat) : getC t k = getC s k := by
  rw [getC, h.ci_slots hm, getC]

/-! ### Writes of a slot -/

/-- A second write of a key replaces the first. -/
theorem mapPut_mapPut {α : Type} (m : SMap α) (i : Nat) (v w : α) : mapPut (mapPut m i v) i w = mapPut m i w := by
  induction m with
  | nil => simp [mapPut]
  | cons e m ih =>
    obtain ⟨k, x⟩ := e
    simp only [mapPut]
    by_cases hlt : i < k
    · simp [mapPut, hlt]
    · by_cases heq : i = k
      · simp [mapPut, heq]
      · simp [mapPut, hlt, heq, ih]

/-- A second write of a slot replaces the first, where neither clears it. -/
theorem setSlot_setSlot {x y : Slot} (hx : x ≠ Slot.init) (hy : y ≠ Slot.init) (eng q sl : Nat) (s : State) :
    setSlot eng q sl y (setSlot eng q sl x s) = setSlot eng q sl y s := by
  simp only [setSlot, mapSet, hx, hy, if_false, mapPut_mapPut]

/-! ### Remote writes (R88) -/

/-- Write `k` of a command leaves its outbox and waits for an acknowledgement from `dst`. -/
def sentSlot (k : Nat) (dst : Option Nat) (y : Slot) : Slot := { y with run := { y.run with outbox := dropAt y.run.outbox k, acks := y.run.acks ++ [dst] } }

/-- The state in which write `w`, the `k`th of a command's outbox, has landed in frame `f` of a tile. -/
def remoteLanded (eng q sl k tile f : Nat) (w : Write) (s : State) : State :=
  sentWrite eng q sl k none (writeFrame f w.off w.bytes (crossLinks (engineDie s eng) (tileDie s tile) w.bytes.length s))

@[simp] theorem getSlot_writeFrame (j off : Nat) (bs : List Byte) (s : State) (e r l : Nat) : getSlot (writeFrame j off bs s) e r l = getSlot s e r l := rfl

@[simp] theorem getSlot_crossLinks (a b n : Nat) (s : State) (e r l : Nat) : getSlot (crossLinks a b n s) e r l = getSlot s e r l :=
  getSlot_of_leaves (crossLinks_frame (Leaves.refl _ _) (FieldsIn.refl _)) (by decide) e r l

@[simp] theorem getFrame_crossLinks (a b n : Nat) (s : State) (k : Nat) : getFrame (crossLinks a b n s) k = getFrame s k :=
  getFrame_of_leaves (crossLinks_frame (Leaves.refl _ _) (FieldsIn.refl _)) (by decide) k

@[simp] theorem getFrame_sentWrite (eng q sl k : Nat) (dst : Option Nat) (s : State) (j : Nat) : getFrame (sentWrite eng q sl k dst s) j = getFrame s j := rfl

theorem getSlot_sentWrite (eng q sl k : Nat) (dst : Option Nat) (s : State) :
    getSlot (sentWrite eng q sl k dst s) eng q sl = sentSlot k dst (getSlot s eng q sl) :=
  getSlot_updSlot eng q sl (sentSlot k dst) s

theorem getSlot_sentWrite_other {e r l eng q sl : Nat} (h : sKey e r l ≠ sKey eng q sl) (k : Nat) (dst : Option Nat) (s : State) :
    getSlot (sentWrite eng q sl k dst s) e r l = getSlot s e r l :=
  getSlot_updSlot_other (sentSlot k dst) s h

theorem page_remoteLanded (eng q sl k tile f : Nat) (w : Write) (s : State) :
    (getFrame (remoteLanded eng q sl k tile f w s) f).page = pageWrite (getFrame s f).page w.off w.bytes := by
  rw [remoteLanded, getFrame_sentWrite, getFrame_writeFrame, getFrame_crossLinks]

theorem getFrame_remoteLanded_other {f g : Nat} (h : g ≠ f) (eng q sl k tile : Nat) (w : Write) (s : State) :
    getFrame (remoteLanded eng q sl k tile f w s) g = getFrame s g := by
  rw [remoteLanded, getFrame_sentWrite, getFrame_writeFrame_other _ _ _ h, getFrame_crossLinks]

theorem getSlot_remoteLanded (eng q sl k tile f : Nat) (w : Write) (s : State) :
    getSlot (remoteLanded eng q sl k tile f w s) eng q sl = sentSlot k none (getSlot s eng q sl) := by
  rw [remoteLanded, getSlot_sentWrite, getSlot_writeFrame, getSlot_crossLinks]

theorem getSlot_remoteLanded_other {e r l eng q sl : Nat} (h : sKey e r l ≠ sKey eng q sl) (k tile f : Nat) (w : Write) (s : State) :
    getSlot (remoteLanded eng q sl k tile f w s) e r l = getSlot s e r l := by
  rw [remoteLanded, getSlot_sentWrite_other h, getSlot_writeFrame, getSlot_crossLinks]

/-- A remote write writes slots, page frames, objects and the counts of this cycle, and nothing else. -/
theorem leaves_remoteLanded (eng q sl k tile f : Nat) (w : Write) (s : State) :
    Leaves 0x40000000000009000000000004 s (remoteLanded eng q sl k tile f w s) := by
  have hm := FieldsIn.refl 0x40000000000009000000000004
  exact sentWrite_frame (writeFrame_frame (crossLinks_frame (Leaves.refl _ s) (FieldsIn.of hm (by decide))) (FieldsIn.of hm (by decide)))
    (FieldsIn.of hm (by decide))

/-- A write of a finished command that its shadow page awaits lands there. -/
theorem execRemoteWrite_held {eng q sl k tile f : Nat} {w : Write} {s : State} (hl : Live s) (hp : (getSlot s eng q sl).phase = .finished)
    (hk : (getSlot s eng q sl).run.outbox[k]? = some w) (ht : w.tile = some tile) (hf : shadowOf (getSlot s eng q sl).run tile w.page = some f) :
    exec (.remoteWrite eng q sl k) s = .next (remoteLanded eng q sl k tile f w s) := by
  have hexec : exec (.remoteWrite eng q sl k) s = _ := whenLive_live (fun s => _) hl
  simp only [writesLive, hp, hk, ht, hf, beq_self_eq_true] at hexec
  exact hexec

/-- The first write to a page takes a shadow page and lands there. -/
theorem execRemoteWrite_first {eng q sl k tile f : Nat} {w : Write} {s u : State} (hl : Live s) (hp : (getSlot s eng q sl).phase = .finished)
    (hk : (getSlot s eng q sl).run.outbox[k]? = some w) (ht : w.tile = some tile) (hf : shadowOf (getSlot s eng q sl).run tile w.page = none)
    (ha : allocShadow eng q sl tile w.page s = some (f, u)) :
    exec (.remoteWrite eng q sl k) s = .next (remoteLanded eng q sl k tile f w u) := by
  have hexec : exec (.remoteWrite eng q sl k) s = _ := whenLive_live (fun s => _) hl
  simp only [writesLive, hp, hk, ht, hf, ha, beq_self_eq_true] at hexec
  exact hexec

/-- With no free page the write waits. -/
theorem execRemoteWrite_waits {eng q sl k tile : Nat} {w : Write} {s : State} (hl : Live s) (hp : (getSlot s eng q sl).phase = .finished)
    (hk : (getSlot s eng q sl).run.outbox[k]? = some w) (ht : w.tile = some tile) (hf : shadowOf (getSlot s eng q sl).run tile w.page = none)
    (ha : allocShadow eng q sl tile w.page s = none) : exec (.remoteWrite eng q sl k) s = .next s := by
  have hexec : exec (.remoteWrite eng q sl k) s = _ := whenLive_live (fun s => _) hl
  simp only [writesLive, hp, hk, ht, hf, ha, beq_self_eq_true] at hexec
  exact hexec

/-- A page for which a command held no shadow has the one that joins. -/
theorem shadowOf_withShadow {y : Slot} {tile lp : Nat} (h : shadowOf y.run tile lp = none) (f : Nat) :
    shadowOf (withShadow { tile := tile, page := lp, frame := f } y).run tile lp = some f := by
  have hnone : y.run.shadows.find? (fun p => p.tile == tile && p.page == lp) = none := by simpa [shadowOf] using h
  simp [shadowOf, withShadow, List.find?_append, hnone]

/-! ### Cistern writes (R200, R205) -/

/-- The state in which write `w`, the `k`th of a command's outbox, has landed in a data slot. -/
def cisternLanded (eng q sl k c : Nat) (w : Write) (s : State) : State :=
  sentWrite eng q sl k (some c) (writeShadowSlot c w.off w.bytes (writeLines c (linesOfBytes w.off w.bytes.length)
    (crossLinks (engineDie s eng) (slotDie c) w.bytes.length s)))

/-- A new shadow slot is filled, a held one is not (R205). -/
def filled (y : Slot) (page c tag : Nat) (s t : State) : State :=
  if ((getTag s tag).bind fun x => tagShadow x page).isSome then t else fillShadow y page c (slotNow t y.part page) t

theorem execParityUpdate_lands {eng q sl k tag c : Nat} {w : Write} {s t : State} (hl : Live s) (hp : (getSlot s eng q sl).phase = .finished)
    (hk : (getSlot s eng q sl).run.outbox[k]? = some w) (ht : w.tile = none) (htag : (getSlot s eng q sl).run.tag = some tag)
    (he : ensureShadow tag (engineDie s eng) w.page s = some (c, t)) :
    exec (.parityUpdate eng q sl k) s = .next (cisternLanded eng q sl k c w (filled (getSlot s eng q sl) w.page c tag s t)) := by
  have hexec : exec (.parityUpdate eng q sl k) s = _ := whenLive_live (fun s => _) hl
  simp only [writesLive, hp, hk, ht, htag, he, beq_self_eq_true] at hexec
  exact hexec

/-- Filling a slot and sending a write on its way leaves every data slot, page frame and command slot: only counts and stale lines follow it. -/
theorem leaves_filled (y : Slot) (page c tag : Nat) (s t : State) : Leaves 0x40000000002000000000000004 t (filled y page c tag s t) :=
  have hm := FieldsIn.refl 0x40000000002000000000000004
  ite_frame (Leaves.refl _ t) (fillShadow_frame (Leaves.refl _ t) (FieldsIn.of hm (by decide)))

theorem page_cisternLanded (eng q sl k c : Nat) (w : Write) (s : State) :
    (getC (cisternLanded eng q sl k c w s) c).page = pageWrite (getC s c).page w.off w.bytes := by
  have hm := FieldsIn.refl 0x40000000002000000000000004
  have hlines : getC (writeLines c (linesOfBytes w.off w.bytes.length) (crossLinks (engineDie s eng) (slotDie c) w.bytes.length s)) c = getC s c :=
    getC_of_leaves (writeLines_frame (crossLinks_frame (Leaves.refl _ s) (FieldsIn.of hm (by decide))) (FieldsIn.of hm (by decide))) (by decide) c
  rw [cisternLanded, sentWrite, getC_updSlot, writeShadowSlot, getC_setC, hlines]

theorem leaves_writtenSlot (c off a b n : Nat) (bs : List Byte) (ls : List Nat) (s : State) :
    Leaves 0x40000000002040000000000004 s (writeShadowSlot c off bs (writeLines c ls (crossLinks a b n s))) := by
  have hm := FieldsIn.refl 0x40000000002040000000000004
  exact writeShadowSlot_frame (writeLines_frame (crossLinks_frame (Leaves.refl _ s) (FieldsIn.of hm (by decide))) (FieldsIn.of hm (by decide)))
    (FieldsIn.of hm (by decide))

theorem getSlot_cisternLanded (eng q sl k c : Nat) (w : Write) (s : State) :
    getSlot (cisternLanded eng q sl k c w s) eng q sl = sentSlot k (some c) (getSlot s eng q sl) := by
  rw [cisternLanded, getSlot_sentWrite, getSlot_of_leaves (leaves_writtenSlot _ _ _ _ _ _ _ _) (by decide)]

theorem getFrame_cisternLanded (eng q sl k c : Nat) (w : Write) (s : State) (g : Nat) :
    getFrame (cisternLanded eng q sl k c w s) g = getFrame s g := by
  rw [cisternLanded, getFrame_sentWrite, getFrame_of_leaves (leaves_writtenSlot _ _ _ _ _ _ _ _) (by decide)]

/-! ### Acknowledgements (R86, R167) -/

/-- A finished command's slot with these acknowledgements outstanding: the last one lets it request its commit. -/
def ackedSlot (y : Slot) (rest : List (Option Nat)) : Slot :=
  { y with phase := if y.run.outbox = [] ∧ rest = [] then .requested else .finished, run := { y.run with acks := rest } }

/-- A finished command requests its commit with its last acknowledgement. -/
theorem requestCommit_acked {y : Slot} (hp : y.phase = .finished) (rest : List (Option Nat)) (eng q sl : Nat) (s : State) :
    requestCommit eng q sl (setSlot eng q sl { y with run := { y.run with acks := rest } } s) = setSlot eng q sl (ackedSlot y rest) s := by
  have hx : ({ y with run := { y.run with acks := rest } } : Slot) ≠ Slot.init := fun h => by
    have := congrArg Slot.phase h
    simp [hp, Slot.init] at this
  have hy : ackedSlot y rest ≠ Slot.init := fun h => by
    have := congrArg Slot.phase h
    simp only [ackedSlot, Slot.init] at this
    split at this <;> cases this
  unfold requestCommit
  dsimp only
  rw [getSlot_setSlot]
  by_cases hdone : y.run.outbox = [] ∧ rest = []
  · rw [if_pos ⟨hp, hdone⟩, setSlot_setSlot hx (by simpa [ackedSlot, hdone] using hy)]
    simp [ackedSlot, hdone]
  · rw [if_neg fun h => hdone h.2, ackedSlot, if_neg hdone, ← hp]

/-- Inside a remote write each byte reads as written, outside it as before. -/
theorem pageByte_remoteLanded (eng q sl k tile f : Nat) (w : Write) (s : State) :
    (∀ (i : Nat) (h : i < w.bytes.length), pageByte (getFrame (remoteLanded eng q sl k tile f w s) f).page (w.off + i) = w.bytes[i]) ∧
    (∀ a, a < w.off ∨ w.off + w.bytes.length ≤ a → pageByte (getFrame (remoteLanded eng q sl k tile f w s) f).page a = pageByte (getFrame s f).page a) := by
  rw [page_remoteLanded]
  exact ⟨pageByte_write_inside _ _ _, fun _ => pageByte_write_outside _ _ _⟩

/-- An acknowledgement takes its entry; a late one of the Cistern perturbs a DET partition (R353). -/
theorem execWriteAcknowledgement_finished {eng q sl k : Nat} {dst : Option Nat} {s : State} (hl : Live s) (hp : (getSlot s eng q sl).phase = .finished)
    (hk : (getSlot s eng q sl).run.acks[k]? = some dst) (late : Bool) :
    exec (.writeAcknowledgement eng q ⟨sl, k, late⟩) s =
      .next (if (late && dst.isSome && isDet s (getSlot s eng q sl).part) = true
        then perturb (setSlot eng q sl (ackedSlot (getSlot s eng q sl) (dropAt (getSlot s eng q sl).run.acks k)) s)
        else setSlot eng q sl (ackedSlot (getSlot s eng q sl) (dropAt (getSlot s eng q sl).run.acks k)) s) := by
  show execWriteAcknowledgement eng q ⟨sl, k, late⟩ s = _
  unfold execWriteAcknowledgement
  rw [whenLive_live _ hl]
  dsimp only
  split
  · next dst' _ hk' =>
    obtain rfl : dst' = dst := Option.some.inj (hk'.symm.trans hk)
    rw [requestCommit_acked hp]
    rfl
  · next hne => exact absurd hk (hne _ hp)

/-- Settles O24: a write lands by `pageWrite`, in the frame that its command holds or takes for the page. -/
theorem writesLandInShadows : Obligations.WritesLandInShadows := by
  refine ⟨?_, ?_, ?_⟩
  · intro eng q sl k tile f w s hl y hp hk ht
    refine ⟨fun hf => ?_, fun u hf ha => ?_, fun hf ha => execRemoteWrite_waits hl hp hk ht hf ha⟩
    · have hleaves := leaves_remoteLanded eng q sl k tile f w s
      obtain ⟨hin, hout⟩ := pageByte_remoteLanded eng q sl k tile f w s
      exact ⟨_, execRemoteWrite_held hl hp hk ht hf, hin, hout, fun g hg => getFrame_remoteLanded_other hg _ _ _ _ _ _ _,
        getSlot_remoteLanded _ _ _ _ _ _ _ _, fun e' q' sl' h => getSlot_remoteLanded_other h _ _ _ _ _, leaves_ci hleaves (by decide),
        hleaves.tl_pageMap (by decide), leaves_st hleaves (by decide)⟩
    · obtain ⟨hin, -⟩ := pageByte_remoteLanded eng q sl k tile f w u
      have hslot : getSlot (remoteLanded eng q sl k tile f w u) eng q sl = sentSlot k none (withShadow { tile := tile, page := w.page, frame := f } y) := by
        rw [getSlot_remoteLanded, getSlot_allocShadow ha]
      refine ⟨_, execRemoteWrite_first hl hp hk ht hf ha, hin, fun g hg => ?_, ?_, ?_⟩
      · rw [getFrame_remoteLanded_other hg, getFrame_allocShadow_other ha hg]
      · rw [hslot]
        rfl
      · rw [hslot]
        exact shadowOf_withShadow hf f
  · intro eng q sl k tag c w s u hl y hp hk ht htag he
    have hens := ensureShadow_frame (Leaves.refl _ s) (hm := FieldsIn.refl _) _ he
    have hfill := leaves_filled y w.page c tag s u
    refine ⟨_, execParityUpdate_lands hl hp hk ht htag he, fun i h => ?_, fun a h => ?_, ?_, fun g => ?_⟩
    · rw [page_cisternLanded]
      exact pageByte_write_inside _ _ _ _ h
    · rw [page_cisternLanded, pageByte_write_outside _ _ _ h, getC_of_leaves hfill (by decide)]
    · rw [getSlot_cisternLanded, getSlot_of_leaves hfill (by decide), getSlot_of_leaves hens (by decide)]
      rfl
    · rw [getFrame_cisternLanded, getFrame_of_leaves hfill (by decide), getFrame_of_leaves hens (by decide)]
  · intro eng q sl k dst late s hl y hp hk rest done
    rw [execWriteAcknowledgement_finished hl hp hk late]
    simp only [Bool.and_eq_true, and_assoc]
    rfl

end Sys2Proof.Proofs.TensorTile
end

section
namespace Sys2Proof.Proofs.TensorTile
open Sys2Proof Sys2Proof.Machine

/-! ### Slots that the commit pointer passes (R79) -/

/-- A slot that is free again: nothing of its run is left. -/
def freedSlot (y : Slot) : Slot := { y with phase := .waiting, run := Run.init }

/-- The commit pointer frees the slots that it passes and leaves every other. -/
theorem getSlot_advanceCommit (eng q : Nat) (s : State) (e r l : Nat) :
    getSlot (advanceCommit eng q s) e r l = getSlot s e r l ∨ getSlot (advanceCommit eng q s) e r l = freedSlot (getSlot s e r l) := by
  unfold advanceCommit
  dsimp only
  rw [getSlot_setQueue]
  refine List.foldlRecOn (motive := fun t => getSlot t e r l = getSlot s e r l ∨ getSlot t e r l = freedSlot (getSlot s e r l)) _ _ (.inl rfl) fun t ht sl _ => ?_
  rw [getSlot_updSlot_ite]
  split
  · rcases ht with ht | ht
    · rw [ht]; exact .inr rfl
    · rw [ht]; exact .inr rfl
  · exact ht

@[simp] theorem unitHolder_advanceCommit (eng q : Nat) (s : State) (u : Nat) : unitHolder (advanceCommit eng q s) u = unitHolder s u :=
  unitHolder_of_leaves (advanceCommit_frame (Leaves.refl _ _) (FieldsIn.refl _)) (by decide) u

theorem getPart_of_leaves {m : Nat} {s t : State} (h : Leaves m s t) (hm : m.testBit 66 = false) (p : Nat) : getPart t p = getPart s p := by
  rw [getPart, h.pt_parts hm, getPart]

/-! ### Withdrawal (R307) -/

/-- The slot of a withdrawn command. -/
def withdrawnSlot (y : Slot) : Slot :=
  { y with phase := .withdrawn, run := Run.init, rec0 := BitVec.ofNat 32 0x20000000, rec1 := BitVec.ofNat 32 y.step }

/-- A withdrawn command's step, signal object and increment join the list of its partition. -/
def withListed (y : Slot) (x : Part) : Part :=
  { x with withdrawals := x.withdrawals ++ [{ step := y.step, object := cSignalObject y, increment := cIncrement y }] }

theorem withdrawSlot_eq (eng q sl : Nat) (s : State) :
    withdrawSlot eng q sl s =
      chargeWithdrawal (acctKey (getSlot s eng q sl).part (cJob (getSlot s eng q sl)))
        (updPart (getSlot s eng q sl).part (withListed (getSlot s eng q sl)) (dropWaiting eng q sl (setSlot eng q sl (withdrawnSlot (getSlot s eng q sl)) s))) := rfl

@[simp] theorem getSlot_chargeWithdrawal (k : Nat) (s : State) (e r l : Nat) : getSlot (chargeWithdrawal k s) e r l = getSlot s e r l :=
  getSlot_of_leaves (chargeWithdrawal_frame (Leaves.refl _ _) (FieldsIn.refl _)) (by decide) e r l

theorem getSlot_withdrawSlot (eng q sl : Nat) (s : State) (e r l : Nat) :
    getSlot (withdrawSlot eng q sl s) e r l = if sKey e r l = sKey eng q sl then withdrawnSlot (getSlot s e r l) else getSlot s e r l := by
  rw [withdrawSlot_eq, getSlot_chargeWithdrawal, updPart, getSlot_setPart, getSlot_dropWaiting]
  exact getSlot_updSlot_ite e r l eng q sl withdrawnSlot s

theorem getPart_withdrawSlot (eng q sl : Nat) (s : State) :
    getPart (withdrawSlot eng q sl s) (getSlot s eng q sl).part = withListed (getSlot s eng q sl) (getPart s (getSlot s eng q sl).part) := by
  rw [withdrawSlot_eq, getPart_of_leaves (chargeWithdrawal_frame (Leaves.refl _ _) (FieldsIn.refl _)) (by decide), updPart, getPart_setPart,
    getPart_of_leaves (dropWaiting_frame (Leaves.refl _ _) (FieldsIn.refl _)) (by decide), getPart_setSlot]

/-- A command of a marked job at the head of its queue is withdrawn while the list has room. -/
theorem execWithdrawHead_room {eng q sl : Nat} {s : State} (hl : Live s) (hq : q < 4) (hh : headSlot s eng q = some sl)
    (hp : (getSlot s eng q sl).phase = .waiting) (hj : cJob (getSlot s eng q sl) ∈ (getPart s (getSlot s eng q sl).part).marks)
    (hr : (getPart s (getSlot s eng q sl).part).withdrawals.length < 1024) :
    exec (.withdrawHead eng q) s = .next (advanceCommit eng q (settleHead eng q (withdrawSlot eng q sl s))) := by
  have hmark : jobMarked s (getSlot s eng q sl).part (cJob (getSlot s eng q sl)) = true := List.contains_iff_mem.2 hj
  have hroom : listRoom s (getSlot s eng q sl).part = true := decide_eq_true hr
  have hexec : exec (.withdrawHead eng q) s = _ := whenLive_live (fun s => _) hl
  simp only [hh, hq, hp, hmark, and_self, if_true, withdrawOrDoom, hroom] at hexec
  exact hexec

/-! ### Kills (R89) -/

/-- A slot whose kill has completed: its command waits again, or is withdrawn or abandoned, with its words and its step. -/
def KilledFrom (y z : Slot) : Prop := (z.phase = .waiting ∨ z.phase = .withdrawn ∨ z.phase = .abandoned) ∧ z.words = y.words ∧ z.step = y.step

theorem KilledFrom.freed {y z : Slot} (h : KilledFrom y z) : KilledFrom y (freedSlot z) := ⟨.inl rfl, h.2⟩

theorem getSlot_withdrawOrDoom_other {e r l eng q sl : Nat} (h : sKey e r l ≠ sKey eng q sl) (s : State) :
    getSlot (withdrawOrDoom eng q sl s) e r l = getSlot s e r l := by
  unfold withdrawOrDoom
  split
  · rw [getSlot_withdrawSlot, if_neg h]
  · exact getSlot_of_leaves (doomSlot_frame (Leaves.refl _ _) (FieldsIn.refl _)) (by decide) e r l

theorem killedFrom_withdrawOrDoom {y : Slot} {eng q sl : Nat} {s : State} (h : KilledFrom y (getSlot s eng q sl)) :
    KilledFrom y (getSlot (withdrawOrDoom eng q sl s) eng q sl) := by
  unfold withdrawOrDoom
  split
  · rw [getSlot_withdrawSlot, if_pos rfl]
    exact ⟨.inr (.inl rfl), h.2⟩
  · rw [getSlot_of_leaves (doomSlot_frame (Leaves.refl _ _) (FieldsIn.refl _)) (by decide)]
    exact h

/-- The slot of an abandoned command. -/
def abandonedSlot (y : Slot) : Slot :=
  { y with phase := .abandoned, run := Run.init, rec0 := BitVec.ofNat 32 0x30000000, rec1 := BitVec.ofNat 32 y.step }

theorem getSlot_abandonSlot (eng q sl : Nat) (s : State) (e r l : Nat) :
    getSlot (abandonSlot eng q sl s) e r l = if sKey e r l = sKey eng q sl then abandonedSlot (getSlot s e r l) else getSlot s e r l := by
  unfold abandonSlot
  rw [getSlot_dropWaiting, getSlot_updSlot_ite]
  rfl

/-- What a killed command holds is given back, and its slot waits again. -/
def killReleased (charged : Bool) (eng q sl : Nat) (s : State) : State :=
  let y := getSlot s eng q sl
  let t := releaseShadows eng q sl (releasePins eng q sl (freeUnit eng q sl s))
  updSlot eng q sl freedSlot (if charged then chargeKill (acctKey y.part (cJob y)) t else t)

/-- Completing a kill gives back what the command holds; then it is withdrawn, abandoned or waits. -/
theorem completeKill_killing {eng q sl n : Nat} {charged : Bool} {s : State} (h : (getSlot s eng q sl).phase = .killing charged n) :
    completeKill eng q sl s =
      if n = 1 then withdrawOrDoom eng q sl (killReleased charged eng q sl s)
      else if n = 2 then abandonSlot eng q sl (killReleased charged eng q sl s)
      else killReleased charged eng q sl s := by
  unfold completeKill
  simp only [h]
  rfl

/-- The pins of a killed command are dropped from its slot. -/
def unpinnedSlot (y : Slot) : Slot := { y with run := { y.run with pins := [] } }

theorem getSlot_releasePins (eng q sl : Nat) (s : State) (e r l : Nat) :
    getSlot (releasePins eng q sl s) e r l = if sKey e r l = sKey eng q sl then unpinnedSlot (getSlot s e r l) else getSlot s e r l := by
  have h : getSlot ((getSlot s eng q sl).run.pins.foldl (fun s p => unpinFrame p.frame s) s) e r l = getSlot s e r l :=
    getSlot_of_leaves (foldl_frame (fun _ _ h0 => unpinFrame_frame h0 (hm := FieldsIn.refl _)) (Leaves.refl _ s)) (by decide) e r l
  unfold releasePins
  dsimp only
  rw [getSlot_updSlot_ite, h]
  rfl

@[simp] theorem getSlot_releaseShadows (eng q sl : Nat) (s : State) (e r l : Nat) : getSlot (releaseShadows eng q sl s) e r l = getSlot s e r l :=
  getSlot_of_leaves (releaseShadows_frame (Leaves.refl _ _) (FieldsIn.refl _)) (by decide) e r l

theorem getSlot_killReleased (charged : Bool) (eng q sl : Nat) (s : State) (e r l : Nat) :
    getSlot (killReleased charged eng q sl s) e r l = if sKey e r l = sKey eng q sl then freedSlot (getSlot s e r l) else getSlot s e r l := by
  have h : getSlot (if charged = true then chargeKill (acctKey (getSlot s eng q sl).part (cJob (getSlot s eng q sl)))
        (releaseShadows eng q sl (releasePins eng q sl (freeUnit eng q sl s))) else releaseShadows eng q sl (releasePins eng q sl (freeUnit eng q sl s))) e r l =
      getSlot (releasePins eng q sl (freeUnit eng q sl s)) e r l := by
    split
    · rw [getSlot_of_leaves (chargeKill_frame (Leaves.refl _ _) (FieldsIn.refl _)) (by decide), getSlot_releaseShadows]
    · rw [getSlot_releaseShadows]
  unfold killReleased
  dsimp only
  rw [getSlot_updSlot_ite, h, getSlot_releasePins, getSlot_freeUnit]
  split
  · rfl
  · rfl

/-- A kill that releases its command gives back pins and shadow pages, and empties the slot's run. -/
theorem leaves_killReleased (charged : Bool) (eng q sl : Nat) (s : State) :
    Leaves 0x80109000000000000 (freeUnit eng q sl s) (killReleased charged eng q sl s) := by
  have hm := FieldsIn.refl 0x80109000000000000
  have hr := releaseShadows_frame (a0 := eng) (a1 := q) (a2 := sl) (releasePins_frame (a0 := eng) (a1 := q) (a2 := sl) (Leaves.refl _ (freeUnit eng q sl s))
    (FieldsIn.of hm (by decide))) (FieldsIn.of hm (by decide))
  exact updSlot_frame (ite_frame (chargeKill_frame hr (FieldsIn.of hm (by decide))) hr) (FieldsIn.of hm (by decide))

theorem unitHolder_killReleased (charged : Bool) (eng q sl : Nat) (s : State) (u : Nat) :
    unitHolder (killReleased charged eng q sl s) u = unitHolder (freeUnit eng q sl s) u := by
  exact unitHolder_of_leaves (leaves_killReleased charged eng q sl s) (by decide) u

/-- Completing a kill leaves every other slot. -/
theorem getSlot_completeKill_other {e r l eng q sl : Nat} (h : sKey e r l ≠ sKey eng q sl) (s : State) :
    getSlot (completeKill eng q sl s) e r l = getSlot s e r l := by
  have hrel : ∀ charged, getSlot (killReleased charged eng q sl s) e r l = getSlot s e r l := fun charged => by rw [getSlot_killReleased, if_neg h]
  cases hp : (getSlot s eng q sl).phase with
  | killing charged n =>
    rw [completeKill_killing hp]
    split
    · rw [getSlot_withdrawOrDoom_other h, hrel]
    · split
      · rw [getSlot_abandonSlot, if_neg h, hrel]
      · exact hrel _
  | _ => rw [completeKill]; simp only [hp]

/-- A completed kill leaves the command with its words and its step, waiting, withdrawn or abandoned. -/
theorem killedFrom_completeKill {eng q sl n : Nat} {charged : Bool} {s : State} (h : (getSlot s eng q sl).phase = .killing charged n) :
    KilledFrom (getSlot s eng q sl) (getSlot (completeKill eng q sl s) eng q sl) := by
  have hrel : KilledFrom (getSlot s eng q sl) (getSlot (killReleased charged eng q sl s) eng q sl) := by
    rw [getSlot_killReleased, if_pos rfl]
    exact ⟨.inl rfl, rfl, rfl⟩
  rw [completeKill_killing h]
  split
  · exact killedFrom_withdrawOrDoom hrel
  · split
    · rw [getSlot_abandonSlot, if_pos rfl]
      exact ⟨.inr (.inr rfl), hrel.2⟩
    · exact hrel

/-- A unit after a completed kill is as the command leaves it. -/
theorem unitHolder_completeKill {eng q sl n : Nat} {charged : Bool} {s : State} (h : (getSlot s eng q sl).phase = .killing charged n) (u : Nat) :
    unitHolder (completeKill eng q sl s) u = unitHolder (freeUnit eng q sl s) u := by
  rw [completeKill_killing h]
  split
  · rw [unitHolder_of_leaves (withdrawOrDoom_frame (Leaves.refl _ _) (FieldsIn.refl _)) (by decide), unitHolder_killReleased]
  · split
    · rw [unitHolder_of_leaves (abandonSlot_frame (Leaves.refl _ _) (FieldsIn.refl _)) (by decide), unitHolder_killReleased]
    · exact unitHolder_killReleased _ _ _ _ _ _

/-- Where no kill is under way, none completes. -/
theorem completeKill_idle {eng q sl : Nat} {s : State} (h : ∀ charged n, (getSlot s eng q sl).phase ≠ .killing charged n) : completeKill eng q sl s = s := by
  unfold completeKill
  dsimp only
  split
  · next charged n hp => exact absurd hp (h charged n)
  · rfl

/-- The kill of slot `sl`, as it stood at `s`, has completed: its command is as R89 says, and no longer holds its unit. -/
def KillDone (eng q sl : Nat) (s t : State) : Prop :=
  KilledFrom (getSlot s eng q sl) (getSlot t eng q sl) ∧ unitHolder t (getSlot s eng q sl).run.unit ≠ sKey eng q sl + 1

theorem unitHolder_freeUnit_ne {u v : Nat} {s : State} (h : unitHolder s u ≠ v + 1) (eng q sl : Nat) : unitHolder (freeUnit eng q sl s) u ≠ v + 1 := by
  rw [unitHolder_freeUnit]
  split
  · exact (Nat.succ_ne_zero v).symm
  · exact h

/-- A kill that is done stays done while others complete. -/
theorem killDone_completeKill {eng q sl : Nat} {s t : State} (h : KillDone eng q sl s t) (l : Nat) : KillDone eng q sl s (completeKill eng q l t) := by
  obtain ⟨hslot, hunit⟩ := h
  cases hp : (getSlot t eng q l).phase with
  | killing charged n =>
    have hkey : sKey eng q sl ≠ sKey eng q l := fun he => by
      rw [← getSlot_of_key he] at hp
      rcases hslot.1 with h | h | h <;> rw [hp] at h <;> cases h
    refine ⟨?_, ?_⟩
    · rw [getSlot_completeKill_other hkey]
      exact hslot
    · rw [unitHolder_completeKill hp]
      exact unitHolder_freeUnit_ne hunit _ _ _
  | _ => rw [completeKill_idle (by simp [hp])]; exact ⟨hslot, hunit⟩

/-- Of the kills of a queue that complete together, each is done. -/
theorem killDone_foldl {eng q sl n : Nat} {charged : Bool} {s : State} (hk : (getSlot s eng q sl).phase = .killing charged n) (sls : List Nat) (t : State)
    (ht : getSlot t eng q sl = getSlot s eng q sl) (hsl : sl ∈ sls) : KillDone eng q sl s (sls.foldl (fun s l => completeKill eng q l s) t) := by
  induction sls generalizing t with
  | nil => cases hsl
  | cons l sls ih =>
    rw [List.foldl_cons]
    by_cases hl : l = sl
    · subst hl
      have hk' : (getSlot t eng q l).phase = .killing charged n := by rw [ht, hk]
      have hdone : KillDone eng q l s (completeKill eng q l t) := by
        refine ⟨?_, ?_⟩
        · rw [← ht]
          exact killedFrom_completeKill hk'
        · rw [← ht, unitHolder_completeKill hk', unitHolder_freeUnit]
          split
          · exact (Nat.succ_ne_zero _).symm
          · next h => exact fun h' => h ⟨rfl, h'⟩
      exact List.foldlRecOn (motive := KillDone eng q l s) _ _ hdone fun u hu j _ => killDone_completeKill hu j
    · have hkey : sKey eng q sl ≠ sKey eng q l := fun he => hl (by unfold sKey at he; omega)
      exact ih _ (by rw [getSlot_completeKill_other hkey, ht]) (by simpa [Ne.symm hl] using hsl)

/-- It stays done under what leaves slots and units. -/
theorem KillDone.of_leaves {m eng q sl : Nat} {s t u : State} (h : KillDone eng q sl s t) (hl : Leaves m t u) (hs : m.testBit 48 = false)
    (hu : m.testBit 49 = false) : KillDone eng q sl s u := by
  obtain ⟨hslot, hunit⟩ := h
  refine ⟨?_, ?_⟩
  · rw [getSlot_of_leaves hl hs]
    exact hslot
  · rw [unitHolder_of_leaves hl hu]
    exact hunit

theorem phase_of_mem_killingSlots {s : State} {eng q sl : Nat} (h : sl ∈ killingSlots s eng q) : ∃ charged n, (getSlot s eng q sl).phase = .killing charged n := by
  have hp := (List.mem_filter.1 h).2
  split at hp
  · next charged n hp' => exact ⟨charged, n, hp'⟩
  · cases hp

theorem killDone_completeKills {eng q sl : Nat} {s : State} (h : sl ∈ killingSlots s eng q) : KillDone eng q sl s (completeKills eng q s) := by
  obtain ⟨charged, n, hp⟩ := phase_of_mem_killingSlots h
  unfold completeKills
  split
  · next hnil => rw [hnil] at h; cases h
  · next first rest hcons =>
    rw [hcons] at h
    exact ((killDone_foldl hp _ s rfl h).of_leaves (moveHead_frame (Leaves.refl _ _) (FieldsIn.refl _)) (by decide) (by decide)).of_leaves
      (noteRerun_frame (Leaves.refl _ _) (FieldsIn.refl _)) (by decide) (by decide)

/-- The commit pointer may then free the slot, which leaves its words and its step. -/
theorem killDone_advanceCommit {eng q sl : Nat} {s t : State} (h : KillDone eng q sl s t) : KillDone eng q sl s (advanceCommit eng q t) := by
  obtain ⟨hslot, hunit⟩ := h
  refine ⟨?_, by rw [unitHolder_advanceCommit]; exact hunit⟩
  rcases getSlot_advanceCommit eng q t eng q sl with h | h
  · rw [h]
    exact hslot
  · rw [h]
    exact hslot.freed

/-- The notification that its die's queue serves leaves that queue and latches the wait condition (R320, R332). -/
theorem execWatchNotification_served {eng q : Nat} {s : State} (hl : Live s) (ht : noticeTurn s eng q = true) (hn : (getQueue s eng q).notified = true) :
    exec (.watchNotification eng q) s =
      .next (setQueue eng q { getQueue s eng q with notified := false, latched := true } (dropNotice eng q s)) := by
  have hq : getQueue (dropNotice eng q s) eng q = getQueue s eng q := rfl
  have hexec : exec (.watchNotification eng q) s = _ := whenLive_live (fun s => _) hl
  simp only [ht, hq, hn, if_true] at hexec
  exact hexec

/-- Settles O25: the kills of a queue complete together, and what follows them reaches neither the words nor the step. -/
theorem killsNotificationsAndWithdrawals : Obligations.KillsNotificationsAndWithdrawals := by
  refine ⟨fun eng q sl s hl hsl => ?_, fun eng q s hl ht hn => execWatchNotification_served hl ht hn, ?_⟩
  · have hexec : exec (.killComplete eng q sl) s = _ := whenLive_live (fun s => _) hl
    simp only [List.contains_iff_mem.2 hsl, if_true] at hexec
    obtain ⟨⟨hphase, hwords, hstep⟩, hunit⟩ := killDone_advanceCommit (killDone_completeKills hsl)
    exact ⟨_, hexec, hphase, hwords, hstep, hunit⟩
  · intro eng q sl s hl hq hh y hp hj hr
    have hslot : getSlot (settleHead eng q (withdrawSlot eng q sl s)) eng q sl = withdrawnSlot y := by
      rw [getSlot_settleHead, getSlot_withdrawSlot, if_pos rfl]
    refine ⟨_, execWithdrawHead_room hl hq hh hp hj hr, ?_, ?_, ?_⟩
    · rcases getSlot_advanceCommit eng q (settleHead eng q (withdrawSlot eng q sl s)) eng q sl with h | h
      · rw [h, hslot]; rfl
      · rw [h, hslot]; rfl
    · rcases getSlot_advanceCommit eng q (settleHead eng q (withdrawSlot eng q sl s)) eng q sl with h | h
      · rw [h, hslot]; rfl
      · rw [h, hslot]; rfl
    · rw [getPart_of_leaves (advanceCommit_frame (Leaves.refl _ _) (FieldsIn.refl _)) (by decide), getPart_of_leaves (settleHead_frame (Leaves.refl _ _) (FieldsIn.refl _)) (by decide),
        getPart_withdrawSlot]
      rfl

end Sys2Proof.Proofs.TensorTile
end

section
namespace Sys2Proof.Proofs.TensorTile
open Sys2Proof Sys2Proof.Machine

/-! ### A tile flips a command's pages at its commit message (R86, R88) -/

theorem leaves_sy {m : Nat} {s t : State} (h : Leaves m s t) (hm : ∀ i < 7, m.testBit (70 + i) = false) : t.sy = s.sy := by
  have h0 := h.sy_counts (hm 0 (by omega))
  have h1 := h.sy_banks (hm 1 (by omega))
  have h2 := h.sy_held (hm 2 (by omega))
  have h3 := h.sy_notices (hm 3 (by omega))
  have h4 := h.sy_parked (hm 4 (by omega))
  have h5 := h.sy_fill (hm 5 (by omega))
  have h6 := h.sy_hostArmed (hm 6 (by omega))
  revert h0 h1 h2 h3 h4 h5 h6
  cases t.sy; cases s.sy; simp_all

/-- A tile has flipped its shadow pages of a command in this cycle. -/
def tileFlipped (eng q sl tile : Nat) (s : State) : State :=
  ((getSlot s eng q sl).run.shadows.filter (·.tile == tile)).foldl (fun s p => flipPin p s) (noteLanded eng q sl s)

/-- A slot whose pages of one tile have flipped. -/
def withoutTile (tile : Nat) (z : Slot) : Slot :=
  { z with run := { z.run with flips := z.run.flips.filter (· != tile), shadows := z.run.shadows.filter (·.tile != tile) } }

theorem leaves_tileFlipped (eng q sl tile : Nat) (s : State) : Leaves 0x180000000000000c000000000000 s (tileFlipped eng q sl tile s) := by
  have hm := FieldsIn.refl 0x180000000000000c000000000000
  exact foldl_frame (fun _ _ h => flipPin_frame h (FieldsIn.of hm (by decide))) (noteLanded_frame (Leaves.refl _ _) (FieldsIn.of hm (by decide)))

@[simp] theorem getSlot_tileFlipped (eng q sl tile : Nat) (s : State) (e r l : Nat) :
    getSlot (tileFlipped eng q sl tile s) e r l = getSlot s e r l :=
  getSlot_of_leaves (leaves_tileFlipped _ _ _ _ _) (by decide) e r l

/-- What the flips, and the slot written after them, leave of the state. -/
theorem rest_updSlot_tileFlipped (eng q sl tile : Nat) (s : State) :
    let t := updSlot eng q sl (withoutTile tile) (tileFlipped eng q sl tile s)
    t.ci = s.ci ∧ t.tl.units = s.tl.units ∧ t.tl.queues = s.tl.queues ∧ t.sy = s.sy ∧ t.io = s.io := by
  have hf := leaves_tileFlipped eng q sl tile s
  refine ⟨?_, ?_, ?_, ?_, ?_⟩
  · exact leaves_ci (t := tileFlipped eng q sl tile s) hf (by decide)
  · exact hf.tl_units (by decide)
  · exact hf.tl_queues (by decide)
  · exact leaves_sy (t := tileFlipped eng q sl tile s) hf (by decide)
  · exact leaves_io (t := tileFlipped eng q sl tile s) hf (by decide)

theorem execRemoteCommitMessage_granted {eng q sl tile : Nat} {s : State} (hl : Live s) (hp : (getSlot s eng q sl).phase = .granted)
    (ht : tile ∈ (getSlot s eng q sl).run.flips) :
    exec (.remoteCommitMessage eng q sl tile) s = .next (updSlot eng q sl (withoutTile tile) (tileFlipped eng q sl tile s)) := by
  exact (whenLive_live _ hl).trans (congrArg Host.Outcome.next (if_pos ⟨hp, List.contains_iff_mem.2 ht⟩))

/-! ### Signals and retirements (R77, R78, R307, R314, R318, R333) -/

theorem execCommitSignal_flipped {eng q sl : Nat} {s : State} (hl : Live s) (hp : (getSlot s eng q sl).phase = .granted)
    (hf : (getSlot s eng q sl).run.flips = []) (hh : sourceHolds s (.engine eng) = false) :
    exec (.commitSignal eng q sl) s = .next (noticeCuts (advanceCommit eng q (updSlot eng q sl (fun z => { z with phase := .done, run := Run.init })
      (sendCommitSignals eng (getSlot s eng q sl) (if s.now.landed.contains (eng, q, sl) then passCycle s else s))))) := by
  exact (whenLive_live _ hl).trans (congrArg Host.Outcome.next (if_pos ⟨hp, hf, hh⟩))

theorem execRetireRefused_turn {eng q sl r : Nat} {s : State} (hl : Live s) (hp : (getSlot s eng q sl).phase = .refused r)
    (ht : stepTurn s (getSlot s eng q sl) = true) :
    exec (.retireRefused eng q sl) s = .next (noticeCuts (noticeSteps (getSlot s eng q sl).part (advanceCommit eng q
      (setSlot eng q sl { getSlot s eng q sl with phase := .done, rec0 := BitVec.ofNat 32 (2 ^ 28 + r * 2 ^ 20), rec1 := BitVec.ofNat 32 (getSlot s eng q sl).step }
        (bumpStep (getSlot s eng q sl) s))))) := by
  have hexec : exec (.retireRefused eng q sl) s = _ := whenLive_live (fun s => _) hl
  simp only [hp, ht, if_true] at hexec
  exact hexec

theorem execAbandonedRetire_turn {eng q sl : Nat} {s : State} (hl : Live s) (hp : (getSlot s eng q sl).phase = .abandoned)
    (ht : stepTurn s (getSlot s eng q sl) = true) (hh : sourceHolds s (.retire (getSlot s eng q sl).part) = false) :
    exec (.abandonedRetire eng q sl) s = .next (noticeSteps (getSlot s eng q sl).part (advanceCommit eng q
      (setSlot eng q sl { getSlot s eng q sl with phase := .done } (sendSignal (.retire (getSlot s eng q sl).part) (getSlot s eng q sl).part
        (cSignalObject (getSlot s eng q sl)) (cIncrement (getSlot s eng q sl)) (bumpStep (getSlot s eng q sl) s))))) := by
  exact (whenLive_live _ hl).trans (congrArg Host.Outcome.next (if_pos ⟨hp, ht, hh⟩))

theorem execWithdrawalListRetire_listed {p : Nat} {w : Withdrawn} {s : State} (hl : Live s)
    (hw : (getPart s p).withdrawals.find? (fun w => w.step == getObj s (oStepCounter p)) = some w) (hr : replayHeld s p = false)
    (hg : (getPart s p).grantsHeld = false) (hp : pState s p ≠ 4) (hh : sourceHolds s (.retire p) = false) :
    exec (.withdrawalListRetire p) s = .next (noticeSteps p (withdrawDoomed p (sendSignal (.retire p) p w.object w.increment (addObj (oStepCounter p) 1
      (updPart p (fun x => { x with withdrawals := x.withdrawals.filter fun w => w.step != getObj s (oStepCounter p) }) s))))) := by
  have hexec : exec (.withdrawalListRetire p) s = _ := whenLive_live (fun s => _) hl
  simp only [hw, hr, hg, hh, beq_false_of_ne hp, Bool.or_self, Bool.false_eq_true, if_false] at hexec
  exact hexec

theorem execResetQueueClear_ready {p : Nat} {s : State} (hl : Live s) (hp : pState s p = 4) (hr : resetReady s p = true) :
    exec (.resetQueueClear p) s = .next ((List.range 128).foldl (fun s k => if seqState s k ≠ 0 ∧ seqPart s k = p then resumeSeq k s else s)
      (endReset p (clearQueues p s))) := by
  exact (whenLive_live _ hl).trans (congrArg Host.Outcome.next (if_pos ⟨hp, hr⟩))

/-- Settles O27: a flip writes only the page map, the frames and the notes of the cycle; each other step is its command where its condition holds. -/
theorem commitSequenceRetires : Obligations.CommitSequenceRetires := by
  refine ⟨?_, ?_, ?_, ?_, ?_, ?_⟩
  · intro eng q sl tile s hl y hp ht
    obtain ⟨hci, hunits, hqueues, hsy, hio⟩ := rest_updSlot_tileFlipped eng q sl tile s
    have hs : getSlot (updSlot eng q sl (withoutTile tile) (tileFlipped eng q sl tile s)) eng q sl = withoutTile tile y := by
      rw [getSlot_updSlot, getSlot_tileFlipped]
    refine ⟨_, execRemoteCommitMessage_granted hl hp ht, ?_, ?_, ?_, fun e r l hne => ?_, fun k => ?_, hci, hunits, hqueues, hsy, hio, rfl⟩
    · rw [hs]; exact hp
    · rw [hs]; rfl
    · rw [hs]; rfl
    · rw [getSlot_updSlot_other _ _ hne, getSlot_tileFlipped]
    · exact getObj_of_leaves (leaves_tileFlipped eng q sl tile s) (by decide) k
  · intro eng q sl s hl y hp hf hh
    exact execCommitSignal_flipped hl hp hf hh
  · intro eng q sl r s hl y hp ht
    exact execRetireRefused_turn hl hp ht
  · intro eng q sl s hl y hp ht hh
    exact execAbandonedRetire_turn hl hp ht hh
  · intro p w s hl hw hr hg hp hh
    exact execWithdrawalListRetire_listed hl hw hr hg hp hh
  · intro p s hl hp hr
    exact execResetQueueClear_ready hl hp hr

end Sys2Proof.Proofs.TensorTile
end

section
namespace Sys2Proof.Proofs.TensorTile
open Sys2Proof Sys2Proof.Machine

/-! ### The window on an engine's command data (R95, R154, R269) -/

/-- The next place of a cursor by its word: within a command or its record the word goes on, after either the slot does. -/
theorem cursorNext_eq (eng : Nat) (p : Nat × Nat × Nat) :
    cursorNext eng p = if p.2.2 < 15 ∨ p.2.2 = 16 then (p.1, p.2.1, p.2.2 + 1) else (p.1, (p.2.1 + 1) % slotsOf eng, if p.2.2 = 17 then 16 else 0) := by
  unfold cursorNext
  dsimp only
  by_cases hend : p.2.2 = 15
  · rw [if_pos hend, if_neg (by omega), if_neg (by omega)]
  rw [if_neg hend]
  by_cases hrec : p.2.2 = 17
  · rw [if_pos hrec, if_neg (by omega), if_pos hrec]
  rw [if_neg hrec]
  by_cases hpast : 18 ≤ p.2.2
  · rw [if_pos hpast, if_neg (by omega), if_neg hrec]
  · rw [if_neg hpast, if_pos (by omega)]

theorem execCmdDataRead_present {m eng : Nat} {s : State} (hs : Serves m s) (ho : objExists s (oCmdData eng / 256) (oCmdData eng % 256) = true) :
    exec (.cmdDataRead m eng) s = .next (answer m (readCmdData eng s).1 (readCmdData eng s).2) := by
  obtain ⟨hlive, hawake, hparked⟩ := hs
  exact (whenFree_free _ hlive hawake hparked).trans (congrArg Host.Outcome.next (if_pos ho))

theorem execCmdDataRead_absent {m eng : Nat} {s : State} (hs : Serves m s) (ho : objExists s (oCmdData eng / 256) (oCmdData eng % 256) = false) :
    exec (.cmdDataRead m eng) s = .next (answer m 0xFFFFFFFF (addObj oOdBadAccess 1 s)) := by
  obtain ⟨hlive, hawake, hparked⟩ := hs
  exact (whenFree_free _ hlive hawake hparked).trans (congrArg Host.Outcome.next (if_neg (by rw [ho]; exact Bool.false_ne_true)))

theorem execCmdDataWrite_present {m eng value : Nat} {s : State} (hs : Serves m s) (ho : objExists s (oCmdData eng / 256) (oCmdData eng % 256) = true) :
    exec (.cmdDataWrite m eng value) s = .next (ackWrite (oCmdData eng) (wCmdData m eng value s)).1 := by
  obtain ⟨hlive, hawake, hparked⟩ := hs
  exact (whenFree_free _ hlive hawake hparked).trans (congrArg Host.Outcome.next (if_pos ho))

theorem execCmdDataWrite_absent {m eng value : Nat} {s : State} (hs : Serves m s) (ho : objExists s (oCmdData eng / 256) (oCmdData eng % 256) = false) :
    exec (.cmdDataWrite m eng value) s = .next (addObj oOdBadAccess 1 s) := by
  obtain ⟨hlive, hawake, hparked⟩ := hs
  exact (whenFree_free _ hlive hawake hparked).trans (congrArg Host.Outcome.next (if_neg (by rw [ho]; exact Bool.false_ne_true)))

section
variable (m value : Nat) {eng : Nat} {s : State}

theorem wCmdData_record (hw : 16 ≤ (cursorParts eng (getObj s (oCmdCursor eng))).2.2) : wCmdData m eng value s = (s, .quiet) := if_pos hw

theorem wCmdData_published (hw : (cursorParts eng (getObj s (oCmdCursor eng))).2.2 < 16)
    (hp : (cursorParts eng (getObj s (oCmdCursor eng))).1 = 4 ∨
      slotPublished s eng (cursorParts eng (getObj s (oCmdCursor eng))).1 (cursorParts eng (getObj s (oCmdCursor eng))).2.1 = true) :
    wCmdData m eng value s = (refuseEngine (engRecord eng) (oCmdData eng) 2 value s, .refused 2) :=
  (if_neg (Nat.not_le.2 hw)).trans (if_pos hp)

theorem wCmdData_own {p : Nat × Nat × Nat} (hc : cursorParts eng (getObj s (oCmdCursor eng)) = p) (hw : p.2.2 < 16) (hq : p.1 ≠ 4)
    (hp : slotPublished s eng p.1 p.2.1 = false) :
    wCmdData m eng value s = (setObj (oCmdCursor eng) (cursorOf (cursorNext eng p))
      (setSlot eng p.1 p.2.1 { getSlot s eng p.1 p.2.1 with words := (getSlot s eng p.1 p.2.1).words.set p.2.2 (BitVec.ofNat 32 value) } s), .done) := by
  unfold wCmdData
  rw [hc]
  dsimp only
  rw [if_neg (Nat.not_le.2 hw), if_neg (by rw [hp]; exact fun h => h.elim hq Bool.false_ne_true)]
  rfl

end

/-! ### Bindings (R94, R96) -/

theorem bindingOk_iff (s : State) (eng q v : Nat) :
    bindingOk s eng q v = true ↔ (bit v 15 = false ∧ bits v 3 0 = bits (getObj s (oBinding eng q)) 3 0) ∨
      ((getQueue s eng q).tail = (getQueue s eng q).commit ∧ bit (getObj s (oBinding eng q)) 15 = false) ∨
      ((getQueue s eng q).rerun = true ∧ bit v 15 = true ∧ bit (getObj s (oBinding eng q)) 15 = false ∧
        bits v 3 0 = bits (getObj s (oBinding eng q)) 3 0) := by
  simp [bindingOk, or_assoc, and_assoc]

theorem execQueueBindingWrite_present {m eng q value : Nat} {s : State} (hs : Serves m s) (hq : q < 4)
    (ho : objExists s (oBinding eng q / 256) (oBinding eng q % 256) = true) :
    exec (.queueBindingWrite m eng q value) s = .next (ackWrite (oBinding eng q) (wBinding m eng q (value % 65536) s)).1 := by
  obtain ⟨hlive, hawake, hparked⟩ := hs
  have hexec : exec (.queueBindingWrite m eng q value) s = _ := whenFree_free (fun s => _) hlive hawake hparked
  exact hexec.trans (congrArg Host.Outcome.next ((if_pos hq).trans (if_pos ho)))

/-! ### Banks (R96, R460) -/

@[simp] theorem bankBusy_setLatches (m : Nat) (l : Latches) (s : State) (tile bank : Nat) : bankBusy (setLatches m l s) tile bank = bankBusy s tile bank := rfl

/-- A bank whose field changes is busy. -/
theorem any_busy_iff (changes busy : Nat → Bool) :
    ((List.range 16).any fun b => changes b && busy b) = true ↔ ∃ b < 16, changes b = true ∧ busy b = true := by
  simp

theorem wBankValid_quiet {m tile v : Nat} {s : State} (h : ∀ b < 16, bit v b ≠ bit (getObj s (oTileBankValid tile)) b → bankBusy s tile b = false) :
    wBankValid m tile v s = (setObj (oTileBankValid tile) v s, .done) := by
  refine if_neg fun hany => ?_
  obtain ⟨b, hb, hch, hbusy⟩ := (any_busy_iff _ _).1 hany
  rw [h b hb (bne_iff_ne.1 hch)] at hbusy
  cases hbusy

theorem wBankValid_busy {m tile v : Nat} {s : State} (h : ∃ b < 16, bit v b ≠ bit (getObj s (oTileBankValid tile)) b ∧ bankBusy s tile b = true) :
    wBankValid m tile v s = (refuse m (oTileBankValid tile) 2 v s, .refused 2) := by
  obtain ⟨b, hb, hch, hbusy⟩ := h
  exact if_pos ((any_busy_iff (fun b => bit v b != bit (getObj s (oTileBankValid tile)) b) _).2 ⟨b, hb, bne_iff_ne.2 hch, hbusy⟩)

theorem wBankOwner_quiet {m tile v : Nat} {s : State}
    (h : ∀ b < 16, bits v (4 * b + 3) (4 * b) ≠ bits (getObj s (oTileBankOwner tile)) (4 * b + 3) (4 * b) → bankBusy s tile b = false) :
    wBankOwner m tile v s = (setObj (oTileBankOwner tile) v s, .done) := by
  refine if_neg fun hany => ?_
  obtain ⟨b, hb, hch, hbusy⟩ := (any_busy_iff _ _).1 hany
  rw [h b hb (bne_iff_ne.1 hch)] at hbusy
  cases hbusy

theorem writeHigh_own {m key low : Nat} {s : State} (h : (getLatches s m).write = some (key, low)) (v : Nat) (w : Nat → State → State × Ack) :
    writeHigh m key v w s = w (v % 2 ^ 32 * 2 ^ 32 + low) (setLatches m { getLatches s m with write := none } s) := by
  unfold writeHigh
  rw [h]
  exact if_pos rfl

theorem execBankOwnerWrite_valid {m tile value : Nat} {high : Bool} {s : State} (hs : Serves m s) :
    exec (.bankOwnerWrite m tile high true value) s = .next (ackWrite (oTileBankValid tile) (wBankValid m tile (value % 65536) s)).1 := by
  obtain ⟨hlive, hawake, hparked⟩ := hs
  show execBankOwnerWrite m tile high true value s = _
  unfold execBankOwnerWrite
  rw [whenFree_free _ hlive hawake hparked, if_pos rfl]

theorem execBankOwnerWrite_low {m tile value : Nat} {s : State} (hs : Serves m s) :
    exec (.bankOwnerWrite m tile false false value) s =
      .next (setLatches m { getLatches s m with write := some (oTileBankOwner tile, value % 2 ^ 32) } s) := by
  obtain ⟨hlive, hawake, hparked⟩ := hs
  have hexec : exec (.bankOwnerWrite m tile false false value) s = _ := whenFree_free (fun s => _) hlive hawake hparked
  exact hexec.trans (congrArg Host.Outcome.next ((if_neg Bool.false_ne_true).trans (if_neg Bool.false_ne_true)))

theorem execBankOwnerWrite_high {m tile value : Nat} {s : State} (hs : Serves m s) :
    exec (.bankOwnerWrite m tile true false value) s =
      .next (ackWrite (oTileBankOwner tile) (writeHigh m (oTileBankOwner tile) value (wBankOwner m tile) s)).1 := by
  obtain ⟨hlive, hawake, hparked⟩ := hs
  have hexec : exec (.bankOwnerWrite m tile true false value) s = _ := whenFree_free (fun s => _) hlive hawake hparked
  exact hexec.trans (congrArg Host.Outcome.next ((if_neg Bool.false_ne_true).trans (if_pos rfl)))

/-- Settles O28: each access runs its write function, and each of these has one case per clause. -/
theorem commandDataBindingAndBanks : Obligations.CommandDataBindingAndBanks := by
  refine ⟨fun m eng value s hs => ?_, fun m eng q value s hs hq ho => ?_, fun m tile value high s hs => ?_, fun m tile value s hs => ?_,
    fun m tile value low s hs hlow => ?_⟩
  · intro p y next
    have hnext : cursorNext eng p = next := cursorNext_eq eng p
    refine ⟨fun ho => ⟨?_, fun hw hq hp => ?_, fun hw hp => ?_, fun hw => ?_⟩, fun ho => ⟨execCmdDataRead_absent hs ho, execCmdDataWrite_absent hs ho⟩⟩
    · rw [execCmdDataRead_present hs ho, ← hnext]
      rfl
    · rw [execCmdDataWrite_present hs ho, wCmdData_own m value rfl hw hq hp, ackWrite_done, ← hnext]
    · rw [execCmdDataWrite_present hs ho, wCmdData_published m value hw hp, ackWrite_refused]
    · rw [execCmdDataWrite_present hs ho, wCmdData_record m value hw, ackWrite_quiet]
  · intro old x v ok
    have hok : bindingOk s eng q v = true ↔ ok := bindingOk_iff s eng q v
    refine ⟨fun h => ?_, fun h => ?_⟩
    · rw [execQueueBindingWrite_present hs hq ho, wBinding, if_pos (hok.2 h), ackWrite_done]
    · rw [execQueueBindingWrite_present hs hq ho, wBinding, if_neg (mt hok.1 h), ackWrite_refused]
  · intro v
    refine ⟨fun h => ?_, fun h => ?_⟩
    · rw [execBankOwnerWrite_valid hs, wBankValid_quiet h, ackWrite_done]
    · rw [execBankOwnerWrite_valid hs, wBankValid_busy h, ackWrite_refused]
  · exact execBankOwnerWrite_low hs
  · intro v freed h
    have hquiet : wBankOwner m tile v freed = (setObj (oTileBankOwner tile) v freed, .done) := wBankOwner_quiet h
    rw [execBankOwnerWrite_high hs, writeHigh_own hlow]
    exact congrArg (fun r => Host.Outcome.next (ackWrite (oTileBankOwner tile) r).1) hquiet

end Sys2Proof.Proofs.TensorTile
end

section
namespace Sys2Proof.Proofs.TransformUnit
open Sys2Proof Sys2Proof.Machine
open Sys2Proof.Proofs.TensorTile

/-! ### Commands that issue -/

/-- With the clocks running, the outcome is the state that the effect makes of `s`. -/
theorem whenLive_eq_next {s t : State} {f : State → State} (hl : Live s) (h : f s = t) : whenLive s f = .next t :=
  (whenLive_live f hl).trans (congrArg Host.Outcome.next h)

/-! ### The transform convolutions (R113, R115) -/

/-- The inverse transform's value at line `r` and place `c` of an output with `nbx` blocks across: the element of its channel at its position in its
block. -/
def transformValue (rd : Nat → Byte) (y : Slot) (nbx r c : Nat) : Machine.Num :=
  let px := c / trCOut y
  let i := r / trVy y * nbx + px / trVx y
  ((trOutputs rd y (i % nbx) (i / nbx)).1.getD (c % trCOut y) []).getD (r % trVy y * trNx y + px % trVx y) .nan

/-- What stands at place `i` of a list made over a range is the value at `i`. -/
theorem eq_of_getElem?_map_range {α : Type} {f : Nat → α} {n i : Nat} {b : α} (h : ((List.range n).map f)[i]? = some b) : b = f i := by
  obtain ⟨hi, rfl⟩ := List.getElem?_eq_some_iff.1 h
  rw [List.getElem_map, List.getElem_range]

/-- The rows of a transform's unscaled output: the output stage of `transformValue` at each place. -/
def transformRows (s : State) (y : Slot) (eng nbx : Nat) : List Piece :=
  let rd := rdTile s y eng
  let len := trWOut y * trCOut y
  plainRows y eng (trHOut y) len fun r c =>
    (convertAcc false (opC y).code (bit (cw y 15) 12) (outRounding s y (bit (cw y 15) 13) (r * len + c)) (convOf rd y (c % trCOut y))
      (transformValue rd y nbx r c)).1

/-- A transform command that issues writes `transformRows`, whether or not a block was among those computed ahead. -/
theorem whenLive_execTransform {opcode eng q sl : Nat} {s : State} (he : eng < 32) (hi : Issues s eng q sl 2 opcode)
    (hc : (opC (getSlot s eng q sl)).mx = false) :
    let y := getSlot s eng q sl
    ∃ f, whenLive s (execTransform opcode eng q sl) = Writes s eng q sl (transformRows s y eng (if opcode = 3 then trWOut y else trBx y), f) := by
  intro y
  obtain ⟨hl, hr⟩ := hi
  obtain ⟨-, hplain⟩ := matrixAndWindowResults
  rw [whenLive_live _ hl]
  unfold execTransform
  dsimp only
  rw [if_pos ⟨he, hr⟩, hplain s _ false eng _ _ _ _ _ _ hc]
  refine ⟨_, congrArg (fun rows => Writes s eng q sl (rows, _)) (congrArg (plainRows y eng _ _) (funext fun r => funext fun c => ?_))⟩
  split
  next b hb => rw [eq_of_getElem?_map_range hb]; rfl
  next => rfl

/-- Settles O15: the three commands are `execTransform` at their opcodes. -/
theorem transformResults : Obligations.TransformResults := by
  unfold Obligations.TransformResults
  simp only [List.forall_mem_cons, List.not_mem_nil, false_imp_iff, implies_true, and_true]
  refine ⟨?_, ?_, ?_⟩
  · intro eng q sl s he hi hc
    exact whenLive_execTransform he hi hc
  · intro eng q sl s he hi hc
    exact whenLive_execTransform he hi hc
  · intro eng q sl s he hi hc
    exact whenLive_execTransform he hi hc

/-! ### Transfers, fence and release (R73, R110, R173, R174, R224) -/

/-- Settles O16: each command delivers its rows under the guard that it issues on an engine of its kind, the fence and the release none. -/
theorem transferFenceAndReleaseResults : Obligations.TransferFenceAndReleaseResults := by
  refine ⟨fun eng q sl s he => ⟨?regionCopy, ?cisternLoad, ?cisternStore, ?multicastCopy⟩, ?fence, ?release⟩
  case regionCopy => exact fun ⟨hl, hr⟩ => whenLive_eq_next hl (if_pos ⟨he, hr⟩)
  case cisternLoad => exact fun ⟨hl, hr⟩ => whenLive_eq_next hl (if_pos ⟨he, hr⟩)
  case cisternStore => exact fun ⟨hl, hr⟩ => whenLive_eq_next hl (if_pos ⟨he, hr⟩)
  case multicastCopy => exact fun ⟨hl, hr⟩ => whenLive_eq_next hl (if_pos ⟨he, hr⟩)
  case fence => exact fun eng q sl s ⟨hl, hr⟩ => whenLive_eq_next hl (if_pos hr)
  case release => exact fun eng q sl s h36 h40 ⟨hl, hr⟩ => whenLive_eq_next hl (if_pos ⟨h36, h40, hr⟩)

end Sys2Proof.Proofs.TransformUnit
end

section
namespace Sys2Proof.Proofs.VectorEngine
open Sys2Proof Sys2Proof.Machine
open Sys2Proof.Proofs.TensorTile Sys2Proof.Proofs.TransformUnit

/-! ### Element-wise commands and reductions (R125 to R128) -/

/-- The ops 0x0 to 0x5 take operand B. -/
theorem vTakesB_iff {y : Slot} {op : Nat} (h : vOp y = op) : vTakesB y = true ↔ op ≤ 5 := by
  rw [vTakesB, h, decide_eq_true_iff]

/-- An element-wise command that issues writes its op's value of the elements of A and B that meet. -/
theorem whenLive_execElement {op eng q sl : Nat} {s : State} (f : (Nat → Byte) → Slot → Machine.Num → Machine.Num → Machine.Num × Flags) (he : eng < 32)
    (hi : Issues s eng q sl 1 1) (ho : vOp (getSlot s eng q sl) = op) :
    let y := getSlot s eng q sl
    let rd := rdTile s y eng
    let a := fun r i => vA rd y r i
    let b := fun r i => if op ≤ 5 then vB rd y r i else (numZero, noFlags)
    whenLive s (execElement op eng q sl f) = Writes s eng q sl (vecRows s y eng (vRows y) (vLen y) (vAccInt y) (bit (cw y 13) 25) (bit (cw y 13) 24)
      fun r i => withFlags (orFlags (a r i).2 (b r i).2) (f rd y (a r i).1 (b r i).1)) := by
  intro y rd a b
  obtain ⟨hl, hr⟩ := hi
  have hb : ∀ r i, (if vTakesB y = true then vB rd y r i else (numZero, noFlags)) = b r i := fun r i => if_congr (vTakesB_iff ho) rfl rfl
  refine whenLive_eq_next hl ((if_pos ⟨he, hr, ho⟩).trans ?_)
  simp only [← hb]
  rfl

/-- Settles O9: every row of the table is `execElement` at its op, with its value. -/
theorem elementWiseResults : Obligations.ElementWiseResults := by
  unfold Obligations.ElementWiseResults
  simp only [List.forall_mem_cons, List.not_mem_nil, false_imp_iff, implies_true, and_true]
  refine ⟨?add, ?subtract, ?multiply, ?max, ?min, ?scaleAdd, ?affine, ?rectifier, ?leaky, ?clamp, ?table, ?convert⟩
  all_goals
    intro eng q sl s he hi ho
    exact whenLive_execElement _ he hi ho

/-- A reduction that issues writes one value for each row of A. -/
theorem whenLive_execReduce {op eng q sl : Nat} {s : State} (f : Slot → List Machine.Num → Machine.Num × Flags) (he : eng < 32)
    (hi : Issues s eng q sl 1 2) (ho : vOp (getSlot s eng q sl) = op) :
    let y := getSlot s eng q sl
    let row := fun r => (List.range (vLen y)).map fun i => vA (rdTile s y eng) y r i
    whenLive s (execReduce op eng q sl f) = Writes s eng q sl (vecRows s y eng (vRows y) 1 (vAccInt y) (bit (cw y 13) 25) (bit (cw y 13) 24)
      fun r _ => withFlags (allFlags ((row r).map (·.2))) (f y ((row r).map (·.1)))) :=
  whenLive_eq_next hi.1 (if_pos ⟨he, hi.2, ho⟩)

/-! ### Pooling and resampling (R131, R133) -/

/-- A pooling command that issues writes the value of each window's taps. -/
theorem whenLive_execPool {mode eng q sl : Nat} {s : State} (f : Bool → List Machine.Num → Nat → Machine.Num × Flags) (he : eng < 32)
    (hi : Issues s eng q sl 1 0x10) (hm : bits (cw (getSlot s eng q sl) 13) 5 4 = mode) :
    let y := getSlot s eng q sl
    let g := poolGeom y
    let taps := fun r c => poolTaps (rdTile s y eng) (opA y) (otherKind y) g (mode == 2) (c / g.cOut) r (c % g.cOut)
    whenLive s (execPool mode eng q sl f) = Writes s eng q sl (vecRows s y eng g.hOut (g.wOut * g.cOut) (otherKind y) (bit (cw y 13) 3) (bit (cw y 13) 2)
      fun r c => withFlags (allFlags ((taps r c).map (·.2))) (f (kindInt (opA y) (otherKind y)) ((taps r c).map (·.1)) (taps r c).length)) :=
  whenLive_eq_next hi.1 (if_pos ⟨he, hi.2, hm⟩)

/-- A resampling that issues writes the value of each element's weighted taps. -/
theorem whenLive_execResample {mode eng q sl : Nat} {s : State} (he : eng < 32) (hi : Issues s eng q sl 1 0x11) (hm : rsMode (getSlot s eng q sl) = mode) :
    let y := getSlot s eng q sl
    whenLive s (execResample mode eng q sl) = Writes s eng q sl (vecRows s y eng (rsH y) (rsW y * rsC y) (otherKind y) (bit (cw y 13) 14) (bit (cw y 13) 13)
      (resampleValue (rdTile s y eng) y (mode == 1))) :=
  whenLive_eq_next hi.1 (if_pos ⟨he, hi.2, hm⟩)

/-- Settles O10: every row of the three tables is its shared command at its mode or op. -/
theorem reductionPoolingAndResamplingResults : Obligations.ReductionPoolingAndResamplingResults := by
  unfold Obligations.ReductionPoolingAndResamplingResults
  simp only [List.forall_mem_cons, List.not_mem_nil, false_imp_iff, implies_true, and_true]
  refine ⟨⟨⟨?max, ?window, ?input⟩, ?bilinear, ?bicubic⟩, ?sum, ?maximum, ?squares, ?minimum⟩
  case max | window | input =>
    intro eng q sl s he hi hm
    exact whenLive_execPool _ he hi hm
  case bilinear | bicubic =>
    intro eng q sl s he hi hm
    exact whenLive_execResample he hi hm
  case sum | maximum | squares | minimum =>
    intro eng q sl s he hi ho
    exact whenLive_execReduce _ he hi ho

/-! ### Argmax (R135) -/

/-- Where argmax ranks a value: the numbers in their order, between the infinities, and NaN above all. -/
def rank : Machine.Num → Int ×ₗ Rat
  | .nan => toLex (2, 0)
  | .inf neg => toLex (if neg then -1 else 1, 0)
  | .fin neg m => toLex (0, (Machine.Num.fin neg m).toRat)

theorem ranksAbove_iff (a b : Machine.Num) : ranksAbove a b = true ↔ rank b < rank a := by
  cases b with
  | nan => cases a with
    | nan => simp [ranksAbove, rank]
    | inf p => cases p <;> simp [ranksAbove, rank, Prod.Lex.toLex_lt_toLex]
    | fin p x => simp [ranksAbove, rank, Prod.Lex.toLex_lt_toLex]
  | inf q => cases a with
    | nan => cases q <;> simp [ranksAbove, rank, Prod.Lex.toLex_lt_toLex]
    | inf p => cases p <;> cases q <;> simp [ranksAbove, rank, Num.lt, Prod.Lex.toLex_lt_toLex]
    | fin p x => cases q <;> simp [ranksAbove, rank, Num.lt, Prod.Lex.toLex_lt_toLex]
  | fin q y => cases a with
    | nan => simp [ranksAbove, rank, Prod.Lex.toLex_lt_toLex]
    | inf p => cases p <;> simp [ranksAbove, rank, Num.lt, Prod.Lex.toLex_lt_toLex]
    | fin p x => simp [ranksAbove, rank, Num.lt, Prod.Lex.toLex_lt_toLex]

theorem ranksAbove_eq_false_iff (a b : Machine.Num) : ranksAbove a b = false ↔ rank a ≤ rank b := by
  rw [← Bool.not_eq_true, ranksAbove_iff, not_lt]

/-- Among the first `n` values the one at `j` ranks highest, and is the first that does. -/
structure FirstHighest (vs : List Machine.Num) (n j : Nat) : Prop where
  lt : j < n
  highest : ∀ i < n, rank (vs.getD i numZero) ≤ rank (vs.getD j numZero)
  first : ∀ i < j, rank (vs.getD i numZero) < rank (vs.getD j numZero)

/-- One value of argmax's pass: it takes the place of the best so far when it ranks above it. -/
def argmaxStep (vs : List Machine.Num) (b : Nat × Machine.Num) (i : Nat) : Nat × Machine.Num :=
  if i = 0 ∨ ranksAbove (vs.getD i numZero) b.2 = true then (i, vs.getD i numZero) else b

theorem argmaxOf_eq (vs : List Machine.Num) : argmaxOf vs = ((List.range vs.length).foldl (argmaxStep vs) (0, numZero)).1 := rfl

/-- After `n + 1` values argmax's pass holds the first highest of them. -/
theorem argmax_pass (vs : List Machine.Num) (n : Nat) :
    ∃ j, (List.range (n + 1)).foldl (argmaxStep vs) (0, numZero) = (j, vs.getD j numZero) ∧ FirstHighest vs (n + 1) j := by
  induction n with
  | zero => exact ⟨0, rfl, Nat.one_pos, fun i hi => by rw [Nat.lt_one_iff.1 hi], fun i hi => absurd hi (Nat.not_lt_zero i)⟩
  | succ n ih =>
    obtain ⟨j, hpass, hlt, hhigh, hfirst⟩ := ih
    rw [List.range_succ, List.foldl_append, hpass, List.foldl_cons, List.foldl_nil, argmaxStep]
    split
    next h =>
      have habove := (ranksAbove_iff ..).1 (h.resolve_left (Nat.succ_ne_zero n))
      have hbelow : ∀ i < n + 1, rank (vs.getD i numZero) < rank (vs.getD (n + 1) numZero) := fun i hi => (hhigh i hi).trans_lt habove
      exact ⟨n + 1, rfl, Nat.lt_succ_self _, fun i hi => (Nat.lt_succ_iff_lt_or_eq.1 hi).elim (fun h => (hbelow i h).le) fun h => h ▸ le_rfl, hbelow⟩
    next h =>
      have hnot : rank (vs.getD (n + 1) numZero) ≤ rank (vs.getD j numZero) := not_lt.1 fun hlt => h (.inr ((ranksAbove_iff ..).2 hlt))
      exact ⟨j, rfl, hlt.trans (Nat.lt_succ_self _), fun i hi => (Nat.lt_succ_iff_lt_or_eq.1 hi).elim (hhigh i) fun h => h ▸ hnot, hfirst⟩

theorem argmaxOf_firstHighest {vs : List Machine.Num} (h : vs ≠ []) : FirstHighest vs vs.length (argmaxOf vs) := by
  obtain ⟨j, hpass, hj⟩ := argmax_pass vs (vs.length - 1)
  rw [Nat.sub_add_cancel (List.length_pos_iff.2 h)] at hpass hj
  rwa [argmaxOf_eq, hpass]

/-! ### Pixel shuffles and argmax -/

/-- An unscaled output of raw elements is one piece per row. -/
theorem rowPieces_raw {y : Slot} (h : (opC y).mx = false) (eng n len : Nat) (elem : Nat → Nat → Nat) :
    rowPieces (destTile eng (opC y)) (opC y) ((List.range n).map fun r => ((List.range len).map (elem r), [], noFlags)) len = plainRows y eng n len elem :=
  rowPieces_plain h _ _ _ _

/-- Argmax's output C: the winning channels of each row. -/
theorem rowPieces_channels {y : Slot} (h : (opC y).mx = false) (eng n w : Nat) (win : Nat → Nat → Nat) :
    rowPieces (destTile eng (opC y)) (opC y) (((List.range n).map fun r => (List.range w).map (win r)).map fun l => (l, [], noFlags)) w =
      plainRows y eng n w win := by
  rw [List.map_map]
  exact rowPieces_raw h eng n w win

/-- A shuffle that issues moves the bits of its elements. -/
theorem whenLive_execShuffle {mode eng q sl : Nat} {s : State} (he : eng < 32) (hi : Issues s eng q sl 1 0x11) (hm : rsMode (getSlot s eng q sl) = mode)
    (hc : (opC (getSlot s eng q sl)).mx = false) :
    let y := getSlot s eng q sl
    let a := opA y
    whenLive s (execShuffle mode eng q sl) = Writes s eng q sl (plainRows y eng (rsH y) (rsW y * rsC y) (fun r c =>
      let p := shuffleFrom y (c / rsC y) r (c % rsC y)
      readElem (rdTile s y eng) a.code (a.addr + p.2.1 * a.stride) (p.1 * rsCIn y + p.2.2)), noFlags) := by
  intro y a
  obtain ⟨hl, hr⟩ := hi
  refine whenLive_eq_next hl ((if_pos ⟨he, hr, hm⟩).trans ?_)
  exact congrArg (deliver eng q sl · noFlags s) (rowPieces_raw hc ..)

/-- The auxiliary output of argmax: the winning elements of each row. -/
theorem rowPieces_winners {k : TOp} (h : k.mx = false) (tile n w : Nat) (win : Nat → Nat → Nat) (elem : Nat → Nat → Nat → Nat) :
    rowPieces tile k ((List.range n).map fun r =>
        (List.zipWith (elem r) (List.range w) (((List.range n).map fun r => (List.range w).map (win r)).getD r []), [], noFlags)) w =
      (List.range n).map fun r => { tile := some tile, addr := k.addr + r * k.stride, bytes := packElems k.code ((List.range w).map fun x => elem r x (win r x)) } := by
  rw [rowPieces_plain h]
  refine List.map_congr_left fun r hr => ?_
  rw [dataPiece, getD_map_range _ _ (List.mem_range.1 hr), List.zipWith_map_right, List.zipWith_self]

/-- Settles O11: a shuffle by `whenLive_execShuffle`, argmax's outputs by its rows, and its choice by `argmaxOf_firstHighest`. -/
theorem shuffleAndArgmaxResults : Obligations.ShuffleAndArgmaxResults := by
  refine ⟨⟨?shuffles, ?argmax⟩, ?choice⟩
  case shuffles =>
    simp only [List.forall_mem_cons, List.not_mem_nil, false_imp_iff, implies_true, and_true]
    exact ⟨fun eng q sl s he hi hm hc => whenLive_execShuffle he hi hm hc, fun eng q sl s he hi hm hc => whenLive_execShuffle he hi hm hc⟩
  case argmax =>
    intro eng q sl s he hi hc hx y a k win
    obtain ⟨hl, hr⟩ := hi
    refine whenLive_eq_next hl ((if_pos ⟨he, hr⟩).trans ?_)
    have hchannels := rowPieces_channels hc eng (rsH y) (rsW y) win
    have hwinners := rowPieces_winners hx eng (rsH y) (rsW y) win fun r x i => readElem (rdTile s y eng) a.code (a.addr + r * a.stride) (x * rsC y + i)
    exact congrArg₂ (fun channels winners => deliver eng q sl (channels ++ if k.valid then winners else []) noFlags s) hchannels hwinners
  case choice =>
    intro vs hvs
    obtain ⟨hlt, hhigh, hfirst⟩ := argmaxOf_firstHighest hvs
    exact ⟨hlt, fun i hi => (ranksAbove_eq_false_iff ..).2 (hhigh i hi), fun i hi => (ranksAbove_iff ..).2 (hfirst i hi)⟩

end Sys2Proof.Proofs.VectorEngine
end

section
namespace Sys2Proof.Proofs.ZeroRun
open Sys2Proof Sys2Proof.Machine
open Sys2Proof.Proofs.TensorTile Sys2Proof.Proofs.TransformUnit

/-! ### Cutting a segment into elements (R136) -/

/-- The runs of `w` that a list is cut into give the list back. -/
theorem flatten_chunks {α : Type} (w n : Nat) (l : List α) (h : l.length ≤ n * w) : (chunks w n l).flatten = l := by
  induction n generalizing l with
  | zero => simp_all [chunks]
  | succ n ih =>
    rw [chunks]
    split
    · simp
    · rw [List.flatten_cons, ih _ (by rw [List.length_drop, Nat.sub_le_iff_le_add, ← Nat.succ_mul]; exact h), List.take_append_drop]

/-- A list of a whole number of runs is cut into runs of `w`. -/
theorem length_of_mem_chunks {α : Type} {w k n : Nat} {l e : List α} (hl : l.length = (k + 1) * w) (he : e ∈ chunks w n l) : e.length = w := by
  induction n generalizing k l with
  | zero => simp [chunks] at he
  | succ n ih =>
    rw [chunks] at he
    rw [Nat.succ_mul] at hl
    split at he
    next h => rw [List.mem_singleton.1 he]; omega
    next h =>
      rcases List.mem_cons.1 he with rfl | he
      · rw [List.length_take]; omega
      · cases k with
        | zero => omega
        | succ k => exact ih (k := k) (by rw [List.length_drop]; omega) he

/-- Lists of one length flatten to a list of as many times that length. -/
theorem length_flatten_of_forall {α : Type} {w : Nat} {es : List (List α)} (h : ∀ e ∈ es, e.length = w) : es.flatten.length = es.length * w := by
  rw [List.length_flatten, List.map_congr_left h, List.map_const', List.sum_replicate, smul_eq_mul]

/-- Zero elements of `w` bytes each flatten to zero bytes. -/
theorem flatten_of_zrZero {w : Nat} {es : List (List Byte)} (hw : ∀ e ∈ es, e.length = w) (hz : ∀ e ∈ es, zrZero e = true) :
    es.flatten = List.replicate (es.length * w) 0 := by
  refine List.eq_replicate_iff.2 ⟨length_flatten_of_forall hw, fun b hb => ?_⟩
  obtain ⟨e, he, hb⟩ := List.mem_flatten.1 hb
  exact eq_of_beq (List.all_eq_true.1 (hz e he) b hb)

/-! ### One run (R136) -/

/-- The elements of a run: those of the first one's kind at the front, at most 128. -/
def leadingRun (e : List Byte) (es : List (List Byte)) : List (List Byte) := ((e :: es).takeWhile fun x => zrZero x == zrZero e).take 128

theorem leadingRun_append_drop (e : List Byte) (es : List (List Byte)) :
    leadingRun e es ++ (e :: es).drop (leadingRun e es).length = e :: es := by
  rw [leadingRun, List.takeWhile_eq_take_findIdx_not, List.take_take, List.length_take, List.take_eq_take_min, List.take_append_drop]

theorem length_leadingRun_le (e : List Byte) (es : List (List Byte)) : (leadingRun e es).length ≤ 128 := List.length_take_le _ _

theorem length_leadingRun_pos (e : List Byte) (es : List (List Byte)) : 0 < (leadingRun e es).length := by
  simp [leadingRun]

/-- Every element of a run is zero, or none is. -/
theorem zrZero_of_mem_leadingRun {e x : List Byte} {es : List (List Byte)} (h : x ∈ leadingRun e es) : zrZero x = zrZero e :=
  eq_of_beq (List.mem_takeWhile_imp (p := fun x => zrZero x == zrZero e) (List.mem_of_mem_take h))

theorem zrEncode_cons (n : Nat) (e : List Byte) (es : List (List Byte)) :
    zrEncode (n + 1) (e :: es) =
      BitVec.ofNat 8 ((if zrZero e then 128 else 0) + ((leadingRun e es).length - 1)) ::
        ((if zrZero e then [] else (leadingRun e es).flatten) ++ zrEncode n ((e :: es).drop (leadingRun e es).length)) := rfl

theorem zrDecode_done {fuel : Nat} (w : Nat) (bs : List Byte) (h : 0 < fuel) : zrDecode fuel w 0 bs = some [] := by
  obtain ⟨f, rfl⟩ := Nat.exists_eq_add_of_lt h
  simp [zrDecode]

theorem zrDecode_cons {left : Nat} (fuel w : Nat) (b : Byte) (bs : List Byte) (h : left ≠ 0) :
    zrDecode (fuel + 1) w left (b :: bs) =
      if left < b.toNat % 128 + 1 then none
      else if 128 ≤ b.toNat then (zrDecode fuel w (left - (b.toNat % 128 + 1)) bs).map (List.replicate ((b.toNat % 128 + 1) * w) 0 ++ ·)
      else if bs.length < (b.toNat % 128 + 1) * w then none
      else (zrDecode fuel w (left - (b.toNat % 128 + 1)) (bs.drop ((b.toNat % 128 + 1) * w))).map (bs.take ((b.toNat % 128 + 1) * w) ++ ·) := by
  obtain ⟨left, rfl⟩ := Nat.exists_eq_succ_of_ne_zero h
  rfl

/-- Decoding a run of `n` zero elements. -/
theorem zrDecode_zeros {n left : Nat} (fuel w : Nat) (bs : List Byte) (h0 : 0 < n) (h128 : n ≤ 128) (hn : n ≤ left) :
    zrDecode (fuel + 1) w left (BitVec.ofNat 8 (128 + (n - 1)) :: bs) = (zrDecode fuel w (left - n) bs).map (List.replicate (n * w) 0 ++ ·) := by
  have hb : (BitVec.ofNat 8 (128 + (n - 1))).toNat = 128 + (n - 1) := by rw [BitVec.toNat_ofNat]; omega
  have hrun : (128 + (n - 1)) % 128 + 1 = n := by omega
  rw [zrDecode_cons _ _ _ _ (by omega), hb, hrun, if_neg (by omega), if_pos (by omega)]

/-- Decoding a run of `n` elements that are not zero, which stand in `xs`. -/
theorem zrDecode_literals {n w left : Nat} {xs : List Byte} (fuel : Nat) (bs : List Byte) (h0 : 0 < n) (h128 : n ≤ 128) (hn : n ≤ left)
    (hx : xs.length = n * w) :
    zrDecode (fuel + 1) w left (BitVec.ofNat 8 (0 + (n - 1)) :: (xs ++ bs)) = (zrDecode fuel w (left - n) bs).map (xs ++ ·) := by
  have hb : (BitVec.ofNat 8 (0 + (n - 1))).toNat = n - 1 := by rw [BitVec.toNat_ofNat]; omega
  have hrun : (n - 1) % 128 + 1 = n := by omega
  rw [zrDecode_cons _ _ _ _ (by omega), hb, hrun, if_neg (by omega), if_neg (by omega), if_neg (by rw [List.length_append]; omega),
    List.drop_left' hx, List.take_left' hx]

/-! ### A whole encoding (R136, R137) -/

/-- Decoding the encoding of elements of `w` bytes gives their bytes, whatever follows the encoding. -/
theorem zrDecode_zrEncode {w n fuel : Nat} {es : List (List Byte)} (rest : List Byte) (hw : ∀ e ∈ es, e.length = w) (hn : es.length ≤ n)
    (hfuel : es.length < fuel) : zrDecode fuel w es.length (zrEncode n es ++ rest) = some es.flatten := by
  induction n generalizing es fuel with
  | zero =>
    obtain rfl := List.length_eq_zero_iff.1 (Nat.le_zero.1 hn)
    exact zrDecode_done w _ hfuel
  | succ n ih =>
    cases es with
    | nil => exact zrDecode_done w _ hfuel
    | cons e es =>
      obtain ⟨f, rfl⟩ : ∃ f, fuel = f + 1 := ⟨fuel - 1, by omega⟩
      have hpos := length_leadingRun_pos e es
      have hle := length_leadingRun_le e es
      have hsplit := leadingRun_append_drop e es
      have hkind : ∀ x ∈ leadingRun e es, zrZero x = zrZero e := fun x => zrZero_of_mem_leadingRun
      rw [zrEncode_cons]
      generalize leadingRun e es = run at *
      generalize (e :: es).drop run.length = tail at *
      rw [← hsplit] at hw hn hfuel ⊢
      rw [List.forall_mem_append] at hw
      obtain ⟨hwrun, hwtail⟩ := hw
      rw [List.length_append] at hn hfuel ⊢
      have htail := ih hwtail (show tail.length ≤ n by omega) (show tail.length < f by omega)
      have hleft : run.length + tail.length - run.length = tail.length := Nat.add_sub_cancel_left ..
      rw [List.flatten_append, List.cons_append, List.append_assoc]
      by_cases hz : zrZero e = true
      · rw [if_pos hz, if_pos hz, List.nil_append, zrDecode_zeros _ _ _ hpos hle (Nat.le_add_right ..), hleft, htail,
          flatten_of_zrZero hwrun fun x hx => (hkind x hx).trans hz]
        rfl
      · rw [if_neg hz, if_neg hz, zrDecode_literals _ _ hpos hle (Nat.le_add_right ..) (length_flatten_of_forall hwrun), hleft, htail]
        rfl

theorem zrEncode_ne_nil {n : Nat} {es : List (List Byte)} (hn : 0 < n) (he : es ≠ []) : zrEncode n es ≠ [] := by
  obtain ⟨n, rfl⟩ := Nat.exists_eq_add_of_lt hn
  obtain ⟨e, es, rfl⟩ := List.exists_cons_of_ne_nil he
  rw [Nat.zero_add, zrEncode_cons]
  exact List.cons_ne_nil _ _

/-! ### A segment (R137) -/

/-- The elements of a segment are 256 / w lists of w bytes that hold its bytes in order. -/
theorem zrElems_spec {w : Nat} {bs : List Byte} (hw : w = 1 ∨ w = 2) (hbs : bs.length = 256) :
    (zrElems w bs).flatten = bs ∧ (∀ e ∈ zrElems w bs, e.length = w) ∧ (zrElems w bs).length = 256 / w := by
  have hmul : bs.length = (256 / w - 1 + 1) * w := by rcases hw with rfl | rfl <;> exact hbs
  have hflat : (zrElems w bs).flatten = bs := flatten_chunks w 256 bs (by rcases hw with rfl | rfl <;> omega)
  have hlen : ∀ e ∈ zrElems w bs, e.length = w := fun e => length_of_mem_chunks hmul
  refine ⟨hflat, hlen, ?_⟩
  have hcount := length_flatten_of_forall hlen
  rw [hflat, hbs] at hcount
  rcases hw with rfl | rfl <;> omega

/-- A segment of zeros has length code 0. -/
theorem zrSegment_zeros {w : Nat} {bs : List Byte} (h : (zrElems w bs).all zrZero = true) : zrSegment w bs = (0, []) := if_pos h

/-- A segment whose encoding takes more than 7 granules is stored as it is, with length code 8. -/
theorem zrSegment_raw {w : Nat} {bs : List Byte} (h : ¬ (zrElems w bs).all zrZero = true) (hlong : 224 < (zrEncode 256 (zrElems w bs)).length) :
    zrSegment w bs = (8, bs) := (if_neg h).trans (if_pos hlong)

/-- Any other segment is stored as its encoding, filled with zeros to whole granules, which its length code counts. -/
theorem zrSegment_runs {w : Nat} {bs e : List Byte} (h : ¬ (zrElems w bs).all zrZero = true) (he : zrEncode 256 (zrElems w bs) = e) (hshort : ¬ 224 < e.length) :
    zrSegment w bs = (ceilDiv e.length 32, e ++ List.replicate (32 * ceilDiv e.length 32 - e.length) 0) := by
  subst he
  exact (if_neg h).trans (if_neg hshort)

/-- A slot with a length code from 1 to 7 expands to what its granules decode to. -/
theorem zrExpand_of_decode {w code : Nat} {slot bs : List Byte} (h0 : code ≠ 0) (h8 : code < 8)
    (h : zrDecode 257 w (256 / w) (slot.take (32 * code)) = some bs) : zrExpand w code slot = (bs, true) := by
  rw [zrExpand, if_neg h0, if_neg h8.ne, if_neg h8.le.not_gt, h]

/-- Settles O13: the three forms of a stored segment expand to its bytes; the encoded one by `zrDecode_zrEncode`. -/
theorem zeroRunExpansionInvertsCompression : Obligations.ZeroRunExpansionInvertsCompression := by
  intro w bs rest hw hbs
  obtain ⟨hflat, hlen, hcount⟩ := zrElems_spec hw hbs
  by_cases hz : (zrElems w bs).all zrZero = true
  case pos =>
    have hzero : bs = List.replicate 256 0 := by
      have h := flatten_of_zrZero hlen (List.all_eq_true.1 hz)
      rwa [← length_flatten_of_forall hlen, hflat, hbs] at h
    rw [zrSegment_zeros hz, hzero]
    rfl
  obtain ⟨e, he⟩ : ∃ e, zrEncode 256 (zrElems w bs) = e := ⟨_, rfl⟩
  by_cases hlong : 224 < e.length
  case pos =>
    rw [zrSegment_raw hz (he ▸ hlong)]
    exact congrArg (·, true) (List.take_left' hbs)
  case neg =>
    have hne : zrElems w bs ≠ [] := fun h => hz (by rw [h]; rfl)
    have hpos : 0 < e.length := List.length_pos_iff.2 (he ▸ zrEncode_ne_nil (by decide) hne)
    have hgran : ceilDiv e.length 32 = (e.length + 31) / 32 := rfl
    have hdiv : 256 / w ≤ 256 := Nat.div_le_self ..
    rw [zrSegment_runs hz he hlong]
    refine zrExpand_of_decode (by omega) (by omega) ?_
    rw [List.take_left' (by rw [List.length_append, List.length_replicate]; omega), ← hcount, ← he,
      zrDecode_zrEncode _ hlen (by omega) (by omega), hflat]

/-! ### The commands (R138) -/

/-- Pieces made from the entries of a list over a range, each looked up at its place. -/
theorem map_range_getD {α β : Type} (n : Nat) (f : Nat → α) (d : α) (g : Nat → α → β) :
    ((List.range n).map fun i => g i (((List.range n).map f).getD i d)) = (List.range n).map fun i => g i (f i) :=
  List.map_congr_left fun i hi => by rw [getD_map_range f d (List.mem_range.1 hi)]

/-- A compression that issues: the segments' slots, then the table of their codes; an odd table is filled up with a free nibble (R138). -/
theorem whenLive_execZeroRunCompression {eng q sl : Nat} {s : State} (he : eng < 32) (hi : Issues s eng q sl 1 0x20) :
    let y := getSlot s eng q sl
    let n := zrSegments y
    let seg := fun i => zrSegment (zrWidth y) (readBytes (rdTile s y eng) ((opA y).addr + 256 * i) 256)
    execZeroRunCompression eng q sl s = Writes (if n % 2 = 1 then useFree s else s) eng q sl
      (((List.range n).map fun i => { tile := some (destTile eng (opC y)), addr := (opC y).addr + 256 * i, bytes := (seg i).2 }) ++
        [{ tile := some eng, addr := (opX y).addr,
           bytes := packNibbles (((List.range n).map fun i => (seg i).1) ++ if n % 2 = 1 then [freeNat s 4] else []) }], noFlags) := by
  intro y n seg
  obtain ⟨hl, hr⟩ := hi
  have hslots := map_range_getD n seg (0, []) fun i e =>
    ({ tile := some (destTile eng (opC y)), addr := (opC y).addr + 256 * i, bytes := e.2 } : Piece)
  have hcodes : ((List.range n).map seg).map (·.1) = (List.range n).map fun i => (seg i).1 := List.map_map
  refine whenLive_eq_next hl ((if_pos ⟨he, hr⟩).trans ?_)
  rw [← hslots, ← hcodes]

/-- An expansion that issues: the segments that the codes and slots stand for, and whether all were valid (R138). -/
theorem whenLive_execZeroRunExpansion {eng q sl : Nat} {s : State} (he : eng < 32) (hi : Issues s eng q sl 1 0x21) :
    let y := getSlot s eng q sl
    let rd := rdTile s y eng
    let n := zrSegments y
    let seg := fun i => zrExpand (zrWidth y) (readElem rd 0 (opX y).addr i) (readBytes rd ((opA y).addr + 256 * i) 256)
    execZeroRunExpansion eng q sl s = Writes s eng q sl
      ((List.range n).map fun i => { tile := some (destTile eng (opC y)), addr := (opC y).addr + 256 * i, bytes := (seg i).1 },
        if (List.range n).all (fun i => (seg i).2) then noFlags else flagInvalid) := by
  intro y rd n seg
  obtain ⟨hl, hr⟩ := hi
  have hslots := map_range_getD n seg ([], true) fun i e =>
    ({ tile := some (destTile eng (opC y)), addr := (opC y).addr + 256 * i, bytes := e.1 } : Piece)
  have hvalid : ((List.range n).map seg).all (·.2) = (List.range n).all fun i => (seg i).2 := List.all_map
  refine whenLive_eq_next hl ((if_pos ⟨he, hr⟩).trans ?_)
  rw [← hslots, ← hvalid]

/-- Settles O12: the two commands deliver their segments; the free nibble stands only in an odd table. -/
theorem zeroRunResults : Obligations.ZeroRunResults := by
  intro eng q sl s he y rd n slot
  refine ⟨?even, ?odd, ?expansion⟩
  case even =>
    intro hi hn seg
    have hodd : ¬ zrSegments y % 2 = 1 := (Nat.mod_two_ne_one ..).2 hn
    refine (whenLive_execZeroRunCompression he hi).trans ?_
    rw [if_neg hodd, if_neg hodd, List.append_nil]
  case odd =>
    intro hi hn seg
    have hodd : zrSegments y % 2 = 1 := hn
    refine (whenLive_execZeroRunCompression he hi).trans ?_
    rw [if_pos hodd, if_pos hodd]
  case expansion => exact whenLive_execZeroRunExpansion he

end Sys2Proof.Proofs.ZeroRun
end

section
namespace Sys2Proof.Proofs.RimEngine
open Sys2Proof Sys2Proof.Machine
open Sys2Proof.Proofs.TensorTile Sys2Proof.Proofs.TransformUnit

/-! ### Pictures -/

/-- A picture that goes out is one piece for each line. -/
theorem pictureOut_eq (eng q sl : Nat) (c : ROp) (w h : Nat) (value : Nat → Nat → Nat → Int × Flags) (s : State) :
    ∃ f, pictureOut eng q sl c w h value s =
      deliver eng q sl ((List.range h).map fun j => c.piece (j * c.stride) (packLine c.fmt w fun px ch => (value px j ch).1)) f s := ⟨_, rfl⟩

/-! ### Stem, head and scale-and-sharpen (R144 to R148) -/

/-- A line of a stem that is looked up among the lines it was computed with, packed. -/
theorem packElems_stemLine (fmt w len : Nat) (out : Nat → Nat → Int × Flags) {j h : Nat} (hj : j < h) :
    packElems fmt ((((List.range h).map fun j => (List.range len).map (out j)).getD j []).map fun v => ofSigned w v.1) =
      packElems fmt ((List.range len).map fun i => ofSigned w (out j i).1) := by
  rw [getD_map_range _ _ hj, List.map_map]
  rfl

/-- The sample of a head at pixel `px` of line `j`, channel `ch`: its convolution plus its skip sample, clamped to the channel's range (R145, R147). -/
def headValue (s : State) (y : Slot) (px j ch : Nat) : Int × Flags :=
  let k := skipSample (rdOp s y (rX y)) y px (rmY0 y + j) ch
  let r := chanRange (rmRange y) (picBits (rC y).fmt) ch
  let v := clampFlag r.1 r.2 (rimConv (rdOp s y (rA y)) (rdOp s y (rB y)) y px (rmY0 y + j) ch + k.1)
  (v.1, orFlags k.2 v.2)

/-- A head that issues sends the picture of `headValue`. -/
theorem execHead_eq {eng q sl : Nat} {s : State} {y : Slot} (hy : getSlot s eng q sl = y) (h32 : 32 ≤ eng) (h36 : eng < 36) (hi : Issues s eng q sl 5 2) :
    execHead eng q sl s = .next (pictureOut eng q sl (rC y) (rmW y) (rmH y) (headValue s y) s) := by
  subst hy
  exact whenLive_eq_next hi.1 (if_pos ⟨h32, h36, hi.2⟩)

/-- Whether a channel of scale-and-sharpen's output has a stated value: the sample widths agree and A has the channel (R148, log entry 21). -/
def channelStated (y : Slot) (ch : Nat) : Bool := picBits (rA y).fmt == picBits (rC y).fmt && decide (ch < picChannels (rA y).fmt)

/-- Some output channel has no stated value. -/
def channelsOpen (y : Slot) : Bool := (List.range (picChannels (rC y).fmt)).any fun ch => !(channelStated y ch)

theorem channelsOpen_iff (y : Slot) :
    channelsOpen y = true ↔ picBits (rA y).fmt ≠ picBits (rC y).fmt ∨ picChannels (rA y).fmt < picChannels (rC y).fmt := by
  have hpos : 0 < picChannels (rC y).fmt := by unfold picChannels; split <;> decide
  simp only [channelsOpen, channelStated, List.any_eq_true, List.mem_range, Bool.not_eq_true', Bool.and_eq_false_iff, beq_eq_false_iff_ne,
    decide_eq_false_iff_not, not_lt]
  constructor
  · rintro ⟨ch, hch, hbits | hle⟩
    · exact .inl hbits
    · exact .inr (hle.trans_lt hch)
  · rintro (hbits | hlt)
    · exact ⟨0, hpos, .inl hbits⟩
    · exact ⟨_, hlt, .inr le_rfl⟩

/-- The sample of scale-and-sharpen at pixel `px` of line `j`, channel `ch` (R148). -/
def scaledValue (s : State) (y : Slot) (px j ch : Nat) : Int × Flags :=
  let b := picBits (rC y).fmt
  let scaled := scaleSample (ssCubic y) (ssRange y) b ch (rmW y) (rmPicH y) (ssW y) (ssH y)
    (fun u v => fullSample (rdOp s y (rA y)) 0 (rA y).stride (rA y).fmt (ssW y) u v ch)
  if channelStated y ch then sharpen y b ch scaled px (rmY0 y + j) else (freeSample s.free b ((j * rmW y + px) * 4 + ch), noFlags)

/-- A scale-and-sharpen that issues sends the picture of `scaledValue`, and uses a free value when a channel is open. -/
theorem execScaleAndSharpen_eq {eng q sl : Nat} {s : State} {y : Slot} (hy : getSlot s eng q sl = y) (h32 : 32 ≤ eng) (h36 : eng < 36)
    (hi : Issues s eng q sl 5 3) :
    execScaleAndSharpen eng q sl s =
      .next (pictureOut eng q sl (rC y) (rmW y) (rmH y) (scaledValue s y) (if channelsOpen y then useFree s else s)) := by
  subst hy
  exact whenLive_eq_next hi.1 (if_pos ⟨h32, h36, hi.2⟩)

/-- A sample of scale-and-sharpen where the sample widths agree: sharpened in the channels that A has, free in the others. -/
theorem scaledValue_fst {y : Slot} (hbits : picBits (rA y).fmt = picBits (rC y).fmt) (s : State) (px j ch : Nat) :
    let b := picBits (rC y).fmt
    let scaled := scaleSample (ssCubic y) (ssRange y) b ch (rmW y) (rmPicH y) (ssW y) (ssH y)
      (fun u v => fullSample (rdOp s y (rA y)) 0 (rA y).stride (rA y).fmt (ssW y) u v ch)
    (scaledValue s y px j ch).1 =
      if ch < picChannels (rA y).fmt then (sharpen y b ch scaled px (rmY0 y + j)).1 else freeSample s.free b ((j * rmW y + px) * 4 + ch) := by
  intro b scaled
  have hstated : channelStated y ch = true ↔ ch < picChannels (rA y).fmt := by
    rw [channelStated, beq_iff_eq.2 hbits, Bool.true_and, decide_eq_true_iff]
  rw [scaledValue, apply_ite Prod.fst]
  exact if_congr hstated rfl rfl

/-- Settles O17: each command sends its lines; scale-and-sharpen uses a free value exactly when a channel is open. -/
theorem rimResults : Obligations.RimResults := by
  intro eng q sl s h32 h36 y a c conv
  refine ⟨?stem, ?head, ?stated, ?opened⟩
  case stem =>
    intro ⟨hl, hr⟩ w out
    have hlines := List.map_congr_left fun j (hj : j ∈ List.range (rmH y)) =>
      congrArg (c.piece (j * c.stride)) (packElems_stemLine c.fmt w (rmW y * rmCOut y) out (List.mem_range.1 hj))
    have hexec : ∃ f, exec (.stem eng q sl) s = Writes s eng q sl (_, f) := ⟨_, whenLive_eq_next hl (if_pos ⟨h32, h36, hr⟩)⟩
    rwa [hlines] at hexec
  case head =>
    intro hi out
    obtain ⟨f, hf⟩ := pictureOut_eq eng q sl c (rmW y) (rmH y) (headValue s y) s
    exact ⟨f, (execHead_eq (y := y) rfl h32 h36 hi).trans (congrArg Host.Outcome.next hf)⟩
  case stated =>
    intro hi hbits hchan b scaled
    have hclosed : ¬ channelsOpen y = true := by
      rw [channelsOpen_iff, not_or, not_not, not_lt]
      exact ⟨hbits, hchan⟩
    have hexec := execScaleAndSharpen_eq (y := y) rfl h32 h36 hi
    rw [if_neg hclosed] at hexec
    obtain ⟨f, hf⟩ := pictureOut_eq eng q sl c (rmW y) (rmH y) (scaledValue s y) s
    simp only [scaledValue_fst hbits] at hf
    exact ⟨f, hexec.trans (congrArg Host.Outcome.next hf)⟩
  case opened =>
    intro hi hopen
    have hexec := execScaleAndSharpen_eq (y := y) rfl h32 h36 hi
    rw [if_pos ((channelsOpen_iff y).2 hopen)] at hexec
    obtain ⟨f, hf⟩ := pictureOut_eq eng q sl c (rmW y) (rmH y) (scaledValue s y) (useFree s)
    exact ⟨_, f, hexec.trans (congrArg Host.Outcome.next hf), List.length_map _ |>.trans List.length_range⟩

end Sys2Proof.Proofs.RimEngine
end

section
namespace Sys2Proof.Proofs.ImageLoad
open Sys2Proof Sys2Proof.Machine
open Sys2Proof.Proofs.TransformUnit

/-! ### Objects across a dictionary write -/

/-- A filter that keeps every entry at a key does not change what is listed there. -/
theorem mapFind_filter_kept {α : Type} {keep : Nat → Bool} {k : Nat} (hk : keep k = true) (m : SMap α) :
    mapFind (m.filter fun e => keep e.1) k = mapFind m k := by
  induction m with
  | nil => rfl
  | cons e m ih =>
    obtain ⟨i, v⟩ := e
    by_cases hi : keep i = true
    · rw [List.filter_cons_of_pos (p := fun e : Nat × α => keep e.1) hi, mapFind, mapFind, ih]
    · have hne : k ≠ i := fun h => hi (h ▸ hk)
      rw [List.filter_cons_of_neg (p := fun e : Nat × α => keep e.1) hi, mapFind, if_neg hne, ih]

/-- Objects that do not return to their defaults read as before. -/
theorem getObj_dropObjs_kept {f : Nat → Bool} {k : Nat} (hk : f k = false) (s : State) : getObj (dropObjs f s) k = getObj s k := by
  have hfind : mapFind (dropObjs f s).objs k = mapFind s.objs k := mapFind_filter_kept (keep := fun i => !f i) (by rw [hk]; rfl) s.objs
  rw [getObj, hfind, getObj]

/-- A basic write drops the mode and the expert values alone (R465, R466). -/
theorem getObj_basicWrite_basic {k : Nat} (hk : k % 256 < 0x1F) (index : Nat) (s : State) : getObj (basicWrite index s) k = getObj s k :=
  getObj_dropObjs_kept (by rw [decide_eq_false (Nat.not_le.2 hk), Bool.and_false]) s

/-- The load command is a basic object of its function. -/
theorem touch_loadCommand (s : State) : touch oFabricLoadCommand s = basicWrite (oFabricLoadCommand / 256) s := if_neg (by decide)

/-- A command that took effect leaves the basic objects. -/
theorem getObj_touch_loadCommand {k : Nat} (hk : k % 256 < 0x1F) (s : State) : getObj (touch oFabricLoadCommand s) k = getObj s k :=
  (congrArg (getObj · k) (touch_loadCommand s)).trans (getObj_basicWrite_basic hk _ s)

theorem objWidth_loadStatus : objWidth oFabricLoadStatus = 32 := by decide +kernel

theorem objWidth_lastRefused : objWidth oOdLastRefused = 32 := by decide +kernel

theorem getObj_setLoadStatus (v : Nat) (s : State) : getObj (setObj oFabricLoadStatus v s) oFabricLoadStatus = v % 2 ^ 32 := by
  rw [getObj_setObj, objWidth_loadStatus]

/-! ### The write of the load command (R185, R186, R188) -/

/-- An access that is served writes the load command and sets its function's mode. -/
theorem whenFree_wLoadCommand {m : Nat} {s : State} (hs : Serves m s) (c : Instr) (v : Nat) (image : List Byte) :
    whenFree m c s (fun s => (ackWrite oFabricLoadCommand (wLoadCommand m v image s)).1) =
      .next (ackWrite oFabricLoadCommand (wLoadCommand m v image s)).1 := by
  obtain ⟨hlive, hawake, hparked⟩ := hs
  exact whenFree_free _ hlive hawake hparked

theorem execLoad_served {m : Nat} {s : State} (hs : Serves m s) (image : List Byte) :
    exec (.load m image) s = .next (ackWrite oFabricLoadCommand (wLoadCommand m 1 image s)).1 := whenFree_wLoadCommand hs _ 1 image

theorem execUnload_served {m : Nat} {s : State} (hs : Serves m s) :
    exec (.unload m) s = .next (ackWrite oFabricLoadCommand (wLoadCommand m 2 [] s)).1 := whenFree_wLoadCommand hs _ 2 []

theorem execAbortLoad_served {m : Nat} {s : State} (hs : Serves m s) :
    exec (.abortLoad m) s = .next (ackWrite oFabricLoadCommand (wLoadCommand m 3 [] s)).1 := whenFree_wLoadCommand hs _ 3 []

section
variable {v : Nat} {s : State} (m : Nat) (image : List Byte)

/-- While a load runs, a command is an abort of it or is refused. -/
theorem wLoadCommand_running {r : LoadRun} (hv : 1 ≤ v ∧ v ≤ 3) (hr : s.fab.load = some r) :
    wLoadCommand m v image s = if v = 3 ∧ r.part = loadPart s then (stopLoad r s, .done) else refuseLoad s := by
  rw [wLoadCommand, if_neg (not_not.2 hv), hr]

/-- With no load running and the partition not stopped, every command fails with result 5. -/
theorem wLoadCommand_notStopped (hv : 1 ≤ v ∧ v ≤ 3) (hr : s.fab.load = none) (hp : pState s (loadPart s) ≠ 1) :
    wLoadCommand m v image s = (reportLoad (failPlain 5) 0 (loadPart s) 0 s, .quiet) := by
  rw [wLoadCommand, if_neg (not_not.2 hv), hr]
  exact if_pos hp

theorem wLoadCommand_load (hr : s.fab.load = none) (hp : pState s (loadPart s) = 1) :
    wLoadCommand m 1 image s = startLoad (loadPart s) image s := by
  rw [wLoadCommand, if_neg (by decide), hr]
  exact (if_neg (not_not.2 hp)).trans (if_pos rfl)

theorem wLoadCommand_unload (hr : s.fab.load = none) (hp : pState s (loadPart s) = 1) :
    wLoadCommand m 2 image s = if (getPart s (loadPart s)).loans = [] then (unloadPart (loadPart s) s, .done)
      else (reportLoad (failPlain 6) 0 (loadPart s) 0 s, .quiet) := by
  rw [wLoadCommand, if_neg (by decide), hr]
  exact (if_neg (not_not.2 hp)).trans ((if_neg (by decide)).trans (if_pos rfl))

end

/-! ### A load that starts (R185) -/

/-- Whether a slot holds a file does not depend on the load's progress. -/
theorem slotEmpty_setProgress (v slot : Nat) (s : State) : slotEmpty (setObj oFabricLoadProgress v s) slot = slotEmpty s slot := by
  have hne : oImgLength slot ≠ oFabricLoadProgress := by unfold oImgLength oFabricLoadProgress; omega
  rw [slotEmpty, getObj_setObj_other v s hne]
  rfl

/-- A load from a slot that holds a file enters its checks with its progress at 0. -/
theorem startLoad_checks {s : State} (p : Nat) (image : List Byte) (hslot : slotEmpty s (getObj s oFabricLoadSlot) = false) :
    ∃ bs, startLoad p image s = (setObj oFabricLoadStatus (loadStatus (failPlain 0xFF) 1 p)
      { setObj oFabricLoadProgress 0 s with
        fab := { s.fab with load := some { part := p, slot := getObj s oFabricLoadSlot, phase := 1, image := bs } } }, .done) :=
  ⟨_, if_neg (by rw [slotEmpty_setProgress, hslot]; exact Bool.false_ne_true)⟩

/-! ### A command that meets a load (R186, R451) -/

theorem refuseLoad_fab (s : State) : (refuseLoad s).1.fab = s.fab := capture_fab ..

theorem getObj_refuseLoad_other {k : Nat} (h : k ≠ oOdLastRefused) (hlost : k ≠ oAlmanacLost) (s : State) : getObj (refuseLoad s).1 k = getObj s k :=
  (getObj_setObj_other _ _ h).trans (getObj_capture_other _ _ _ _ _ _ _ hlost)

theorem getObj_refuseLoad_lastRefused (s : State) : getObj (refuseLoad s).1 oOdLastRefused = refusalWord oFabricLoadCommand 2 % 2 ^ 32 :=
  (getObj_setObj _ _ _).trans (by rw [objWidth_lastRefused])

/-! ### The load engine's phases (R185, R186) -/

theorem execLoadComplete_later {phase : Nat} {r : LoadRun} {s : State} (hl : Live s) (hr : s.fab.load = some r) (hlater : r.phase < phase) (hlast : phase ≤ 5) :
    exec (.loadComplete phase) s = .next (reachPhase phase r s) := by
  show execLoadComplete phase s = _
  rw [execLoadComplete, whenLive_live _ hl, hr]
  exact congrArg Host.Outcome.next (if_pos ⟨hlater, hlast⟩)

/-- A check that fails ends the load. -/
theorem reachPhase_failed {r : LoadRun} {s : State} {f : LoadFail} (ph : Nat) (hchecks : r.phase = 1) (hfail : loadFail s r.part (loadFile s r) = some f) :
    reachPhase ph r s = reportLoad f 1 r.part (if headerOk (loadFile s r) then imId (loadFile s r) else 0)
      (noteImage (loadFile s r) { s with fab := { s.fab with load := none } }) := by
  rw [reachPhase, if_pos hchecks, hfail]

/-- Past its checks the load does the work of the phases it leaves, and ends with phase 5. -/
theorem reachPhase_passed {r : LoadRun} {s : State} (ph : Nat) (hpass : (if r.phase = 1 then loadFail s r.part (loadFile s r) else none) = none) :
    reachPhase ph r s =
      let t := leavePhases r.part (loadFile s r) r.phase ph (if r.phase = 1 then noteImage (loadFile s r) s else s)
      if ph = 5 then reportLoad (failPlain 0) 5 r.part (imId (loadFile s r))
        (setObj oFabricLoadImageId (imId (loadFile s r)) { t with fab := { t.fab with load := none } })
      else setObj oFabricLoadStatus (loadStatus (failPlain 0xFF) ph r.part) { t with fab := { t.fab with load := some { r with phase := ph } } } := by
  rw [reachPhase, hpass]

/-- A load into a stopped partition, from a slot that holds a file, runs its checks and changes the load objects alone. -/
theorem execLoad_checks {m : Nat} {s : State} (hs : Serves m s) (image : List Byte) (hr : s.fab.load = none) (hp : pState s (loadPart s) = 1)
    (hslot : slotEmpty s (getObj s oFabricLoadSlot) = false) :
    ∃ t bs, exec (.load m image) s = .next t ∧
      t.fab.load = some { part := loadPart s, slot := getObj s oFabricLoadSlot, phase := 1, image := bs } ∧
      getObj t oFabricLoadStatus = loadStatus (failPlain 0xFF) 1 (loadPart s) % 2 ^ 32 ∧ getObj t oFabricLoadProgress = 0 ∧
      t = { s with objs := t.objs, fab := { s.fab with load := t.fab.load } } := by
  obtain ⟨bs, hstart⟩ := startLoad_checks (loadPart s) image hslot
  have hexec := execLoad_served hs image
  rw [wLoadCommand_load m image hr hp, hstart, ackWrite_done] at hexec
  refine ⟨_, bs, hexec, ?load, ?status, ?progress, ?frame⟩
  case load => rw [touch_fab]; rfl
  case status => rw [getObj_touch_loadCommand (by decide), getObj_setLoadStatus]
  case progress =>
    rw [getObj_touch_loadCommand (by decide), getObj_setObj_other _ _ (by decide)]
    exact (getObj_setObj _ _ _).trans (Nat.zero_mod _)
  case frame => rw [touch_loadCommand]; rfl

/-- A load or an unload that meets a load is refused alike, and leaves the load and its objects. -/
theorem execLoad_running {m : Nat} {s : State} {r : LoadRun} (hs : Serves m s) (image : List Byte) (hr : s.fab.load = some r) :
    exec (.load m image) s = .next (refuseLoad s).1 ∧ exec (.unload m) s = .next (refuseLoad s).1 := by
  rw [execLoad_served hs, execUnload_served hs, wLoadCommand_running m _ (by decide) hr, wLoadCommand_running m _ (by decide) hr,
    if_neg (fun h => absurd h.1 (by decide)), if_neg (fun h => absurd h.1 (by decide))]
  exact ⟨rfl, rfl⟩

/-- Settles O38: a command's outcome is that of its write of the load command, and a later phase is reached by the two cases of the checks. -/
theorem loadCommands : Obligations.LoadCommands := by
  refine ⟨fun m image s hs => ?commands, fun s hl => ⟨fun r phase hr hlater hlast => ?later, fun r phase hr hchecks hpass hlater hlast => ?checked⟩⟩
  case commands =>
    intro p
    refine ⟨execLoad_checks hs image, ?notStopped, ?unload, ?lent, ?abort, ?running⟩
    case notStopped =>
      intro hr hp
      rw [execLoad_served hs, execUnload_served hs, wLoadCommand_notStopped m _ (by decide) hr hp, wLoadCommand_notStopped m _ (by decide) hr hp]
      exact ⟨rfl, rfl⟩
    case unload =>
      intro hr hp hloans
      rw [execUnload_served hs, wLoadCommand_unload m _ hr hp, if_pos hloans, ackWrite_done]
      rfl
    case lent =>
      intro hr hp hloans
      rw [execUnload_served hs, wLoadCommand_unload m _ hr hp, if_neg hloans, ackWrite_quiet]
    case abort =>
      intro r hr hpart
      rw [execAbortLoad_served hs, wLoadCommand_running m _ (by decide) hr, if_pos ⟨rfl, hpart⟩, ackWrite_done]
    case running =>
      intro r hr
      obtain ⟨hload, hunload⟩ := execLoad_running hs image hr
      exact ⟨_, hload, hunload, refuseLoad_fab s, getObj_refuseLoad_other (by decide) (by decide) s,
        getObj_refuseLoad_other (by decide) (by decide) s, getObj_refuseLoad_other (by decide) (by decide) s, getObj_refuseLoad_lastRefused s⟩
  case later =>
    intro d
    rw [execLoadComplete_later hl hr hlater hlast]
    refine ⟨fun f hchecks hfail => ?_, fun hwrites hrest => ?_, fun hwrites hdone => ?_⟩
    · rw [reachPhase_failed phase hchecks hfail]
    · rw [reachPhase_passed phase (if_neg hwrites), if_neg hwrites]
      exact congrArg Host.Outcome.next (if_neg (Nat.ne_of_lt hrest))
    · subst hdone
      rw [reachPhase_passed 5 (if_neg hwrites), if_neg hwrites]
      rfl
  case checked =>
    have hexec := execLoadComplete_later hl hr (hchecks.symm ▸ hlater) (Nat.le_of_lt hlast)
    rw [reachPhase_passed phase ((if_pos hchecks).trans hpass)] at hexec
    dsimp only at hexec
    rw [if_neg (Nat.ne_of_lt hlast)] at hexec
    exact ⟨_, hexec, rfl, getObj_setLoadStatus ..⟩

end Sys2Proof.Proofs.ImageLoad
end

section
namespace Sys2Proof.Proofs.Links
open Sys2Proof Sys2Proof.Machine
open Sys2Proof.Proofs.TransformUnit

/-! ### Link states (R192) -/

theorem objWidth_links : objWidth oFabricLinks = 32 := by decide +kernel

/-- A link's state reads what was set, in its four bits. -/
theorem linkState_setLinkState {k : Nat} (hk : k < 8) (v : Nat) (s : State) : linkState (setLinkState k v s) k = v % 2 ^ 4 := by
  have hwidth : 4 * k + 3 < objWidth oFabricLinks := by rw [objWidth_links]; omega
  have hbits : 4 * k + 3 + 1 - 4 * k = 4 := by omega
  rw [linkState, setLinkState, getField_setField _ _ _ _ _ hwidth, hbits]

theorem linkState_startLinkRetrain {k : Nat} (hk : k < 8) (s : State) : linkState (startLinkRetrain k s) k = 3 := linkState_setLinkState hk 3 _

/-! ### Events of a link that carries traffic (R169, R356, R530, R564) -/

section
variable {link : Nat} {s : State} (hl : Live s) (hup : linkUp s link = true)
include hl hup

theorem execFlitCheckFailure_up (det : Bool) :
    exec (.flitCheckFailure link det) s = .next (if det then perturb (replayFlit link s) else replayFlit link s) :=
  whenLive_eq_next hl (if_pos hup)

theorem execLinkRetrain_up (det : Bool) : exec (.linkRetrain link det) s = .next (rerouteLink link det s) :=
  whenLive_eq_next hl (if_pos hup)

theorem execLinkSlip_up (det : Bool) : exec (.linkSlip ⟨link, det⟩) s = .next (rerouteLink link det s) :=
  whenLive_eq_next hl (if_pos hup)

/-- A lane that fails is taken out; what retrains depends on how many lanes of its group were out before. -/
theorem execLaneFailure_up {dir group lane : Nat} (det : Bool) (hin : (dir, group, lane) ∉ (getLink s link).out) :
    exec (.laneFailure link dir group ⟨lane, det⟩) s = .next (
      let lost := loseLane link dir group lane s
      if groupOut (getLink s link) dir group = 0 then
        if lane = 16 then lost else setLink link { getLink lost link with groups := (dir, group) :: (getLink lost link).groups } lost
      else if groupOut (getLink s link) dir group = 1 then rerouteLink link det lost
      else lost) :=
  whenLive_eq_next hl (if_pos ⟨hup, by rw [List.contains_eq_mem, decide_eq_false hin]⟩)

end

/-! ### The end of a retrain and its retry (R530, R564) -/

/-- With no lane lost in training, a link comes back in the state its groups allow, or fails. -/
theorem execLinkRetrainComplete_retraining {link : Nat} {s : State} (hl : Live s) (hstate : linkState s link = 3) (hpower : s.pw.computeOff = false)
    (agree : Bool) :
    exec (.linkRetrainComplete link [] agree) s = .next (
      let x := getLink s link
      if agree = true ∧ trainedState x ≠ 4 then
        retrainRecord link 0 (setLinkState link (trainedState x) (setLink link { x with failedAt := none, retried := false } s))
      else retrainRecord link 1 (setLinkState link 4 (setLink link { x with failedAt := if x.retried then none else some (ticks s) } s))) :=
  whenLive_eq_next hl (if_pos ⟨hstate, hpower⟩)

theorem execLinkRetrainRetry_due {link failed : Nat} {s : State} (hl : Live s) (hstate : linkState s link = 4)
    (hfailed : (getLink s link).failedAt = some failed) (hdue : failed + 100 * msTicks ≤ ticks s) (hpower : s.pw.computeOff = false) :
    exec (.linkRetrainRetry link) s = .next (setLinkState link 3 (setLink link { getLink s link with failedAt := none, retried := true } s)) := by
  show execLinkRetrainRetry link s = _
  rw [execLinkRetrainRetry, whenLive_live _ hl]
  dsimp only
  rw [hfailed]
  exact congrArg Host.Outcome.next (if_pos ⟨hstate, hdue, hpower⟩)

/-- Settles O39: each event of a link in the state it needs has one outcome, picked by the case of the clause. -/
theorem linkEvents : Obligations.LinkEvents := by
  refine ⟨?traffic, ?lane, ?group, ?trained, ?retry⟩
  case traffic =>
    intro link det s hl hup
    exact ⟨execFlitCheckFailure_up hl hup det, execLinkRetrain_up hl hup det, execLinkSlip_up hl hup det, (linkState_startLinkRetrain · s)⟩
  case lane =>
    intro link dir group lane det s hl hup hin lost
    rw [execLaneFailure_up hl hup det hin]
    refine ⟨fun hnone hdata => ?_, fun hnone hspare => ?_, fun hone => ?_, fun hdown => ?_⟩
    · rw [if_pos hnone, if_neg hdata]
    · rw [if_pos hnone, if_pos hspare]
    · rw [if_neg (by omega), if_pos hone]
      rfl
    · rw [if_neg (by omega), if_neg (by omega)]
  case group =>
    intro link dir group s hl
    exact whenLive_eq_next hl rfl
  case trained =>
    intro link s hl hstate hpower x
    refine ⟨fun hgroups => ?_, ?_⟩
    · rw [execLinkRetrainComplete_retraining hl hstate hpower]
      exact congrArg Host.Outcome.next (if_pos ⟨rfl, hgroups⟩)
    · rw [execLinkRetrainComplete_retraining hl hstate hpower]
      exact congrArg Host.Outcome.next (if_neg fun h => Bool.false_ne_true h.1)
  case retry =>
    intro link failed s hl hstate hfailed hdue hpower
    exact execLinkRetrainRetry_due hl hstate hfailed hdue hpower

end Sys2Proof.Proofs.Links
end

section
namespace Sys2Proof.Proofs.LineReads
open Sys2Proof Sys2Proof.Machine
open Sys2Proof.Proofs.TensorTile Sys2Proof.Proofs.TransformUnit

/-! ### What a read of a line comes to (R198, R229, R230) -/

section
variable {s : State} {slot line : Nat}

/-- With its line and every other member in service a read comes to what its ECC finds. -/
theorem lineVerdict_served (hline : lineOut s slot line = false) (hmember : memberOut s slot line = false) (v : LineVerdict) :
    lineVerdict s slot line v = v := by
  cases v with
  | clean => simp [lineVerdict, hline]
  | corrected => simp [lineVerdict, hline]
  | bad second => simp [lineVerdict, hline, hmember]

/-- A line that is out is reconstructed, whatever its ECC would find. -/
theorem lineVerdict_out (hline : lineOut s slot line = true) (v : LineVerdict) :
    lineVerdict s slot line v = .bad (memberOut s slot line || v == .bad true) := by
  cases v with
  | clean => simp [lineVerdict, hline]
  | corrected => simp [lineVerdict, hline]
  | bad second => cases second <;> simp [lineVerdict, hline]

end

/-! ### Counts -/

/-- From `s` to `t` only objects and what the present cycle notes differ. -/
def OnlyCounts (s t : State) : Prop := t = { s with objs := t.objs, now := t.now }

theorem OnlyCounts.refl (s : State) : OnlyCounts s s := rfl

theorem OnlyCounts.trans {s t u : State} (h : OnlyCounts s t) (h2 : OnlyCounts t u) : OnlyCounts s u := by
  unfold OnlyCounts at *
  rw [h2, h]

theorem onlyCounts_setLastError (kind k : Nat) (s : State) : OnlyCounts s (setLastError kind k s) := rfl

theorem onlyCounts_perfAdd (c n : Nat) (s : State) : OnlyCounts s (perfAdd c n s) := by
  unfold perfAdd
  split
  · rfl
  · rfl

theorem onlyCounts_perfCount (code inst n : Nat) (s : State) : OnlyCounts s (perfCount code inst n s) := by
  refine List.foldlRecOn _ _ (motive := OnlyCounts s) (.refl s) fun t h c _ => ?_
  dsimp only
  split
  · exact h.trans (onlyCounts_perfAdd c n t)
  · exact h

theorem onlyCounts_countLines (stack reads writes : Nat) (s : State) : OnlyCounts s (countLines stack reads writes s) := by
  have hreads : OnlyCounts s (if reads = 0 then s else perfCount 0x08 stack reads s) := by
    split
    · rfl
    · exact onlyCounts_perfCount ..
  unfold countLines
  dsimp only
  split
  · exact hreads
  · exact hreads.trans (onlyCounts_perfCount ..)

theorem onlyCounts_readMembers (k line : Nat) (s : State) : OnlyCounts s (readMembers k line s) := by
  refine List.foldlRecOn _ _ (motive := OnlyCounts s) (.refl s) fun t h m _ => ?_
  split
  · exact h
  · exact h.trans (onlyCounts_countLines ..)

theorem onlyCounts_reconstruct (k line : Nat) (s : State) : OnlyCounts s (reconstruct k line s) := by
  unfold reconstruct
  dsimp only
  split
  · exact onlyCounts_readMembers ..
  · exact (onlyCounts_readMembers ..).trans (onlyCounts_countLines ..)

/-! ### Each outcome of a read (R198, R199, R237) -/

/-- The read of a line is counted at its stack, where the line is not out (R612). -/
def countRead (k line : Nat) (s : State) : State := if lineOut s k line then s else countLines (slotParts k).1 1 0 s

theorem onlyCounts_countRead (k line : Nat) (s : State) : OnlyCounts s (countRead k line s) := by
  unfold countRead
  split
  · rfl
  · exact onlyCounts_countLines ..

section
variable {s : State} {k line : Nat} {v : LineVerdict}

theorem lineRead_clean (h : lineVerdict s k line v = .clean) : lineRead k line v s = countRead k line s := by
  unfold lineRead
  rw [h]
  rfl

theorem lineRead_corrected (h : lineVerdict s k line v = .corrected) :
    lineRead k line v s = setLastError 1 k (countLines (slotParts k).1 0 1 (perfCount 0x0A (slotParts k).1 1 (countRead k line s))) := by
  unfold lineRead
  rw [h]
  rfl

theorem lineRead_reconstructed (h : lineVerdict s k line v = .bad false) :
    lineRead k line v s = setLastError 2 k (reconstruct k line (countRead k line s)) := by
  unfold lineRead
  rw [h]
  rfl

theorem lineRead_lost (h : lineVerdict s k line v = .bad true) :
    lineRead k line v s = damagePage k (zeroLine k line (setLastError 3 k (countRead k line s))) := by
  unfold lineRead
  rw [h]
  rfl

/-- A read that gives the line's bytes changes counts and last_error alone. -/
theorem onlyCounts_lineRead (h : lineVerdict s k line v ≠ .bad true) : OnlyCounts s (lineRead k line v s) := by
  have hread : OnlyCounts s (countRead k line s) := onlyCounts_countRead ..
  match hv : lineVerdict s k line v with
  | .clean => rw [lineRead_clean hv]; exact hread
  | .corrected =>
    rw [lineRead_corrected hv]
    exact ((hread.trans (onlyCounts_perfCount ..)).trans (onlyCounts_countLines ..)).trans (onlyCounts_setLastError ..)
  | .bad false =>
    rw [lineRead_reconstructed hv]
    exact (hread.trans (onlyCounts_reconstruct ..)).trans (onlyCounts_setLastError ..)
  | .bad true => exact absurd hv h

end

theorem objWidth_cisternLastError : objWidth oCisternLastError = 32 := by decide +kernel

/-- last_error names the kind of the error, its stack and its slot (R237). -/
theorem getObj_setLastError (kind k : Nat) (s : State) :
    getObj (setLastError kind k s) oCisternLastError = (kind * 2 ^ 28 + k / stackSlots * 2 ^ 24 + k % stackSlots) % 2 ^ 32 := by
  rw [setLastError, getObj_setObj, objWidth_cisternLastError]
  rfl

/-! ### A line that is lost (R198) -/

theorem getC_countRead (k line : Nat) (s : State) (j : Nat) : getC (countRead k line s) j = getC s j := by
  rw [onlyCounts_countRead k line s]
  rfl

theorem getC_damagePage (k : Nat) (s : State) (j : Nat) : getC (damagePage k s) j = getC s j :=
  getC_of_leaves (damagePage_frame (.refl _ s)) (by decide) j

/-- The slot of a lost line holds what it held, with 64 zero bytes at that line. -/
theorem page_lineRead_lost {s : State} {k line : Nat} {v : LineVerdict} (h : lineVerdict s k line v = .bad true) :
    (getC (lineRead k line v s) k).page = pageWrite (getC s k).page (line * 64) (List.replicate 64 0) := by
  rw [lineRead_lost h, getC_damagePage, zeroLine, getC_setC, setLastError, getC_setObj, getC_countRead]

theorem getC_lineRead_lost_other {s : State} {k line j : Nat} {v : LineVerdict} (h : lineVerdict s k line v = .bad true) (hj : j ≠ k) :
    getC (lineRead k line v s) j = getC s j := by
  rw [lineRead_lost h, getC_damagePage, zeroLine, getC_setC_other _ _ hj, setLastError, getC_setObj, getC_countRead]

/-! ### The commands (R198, R199, R353, R356) -/

theorem execCisternLineRead_there {slot line : Nat} {v : LineVerdict} {s : State} (hl : Live s) (hthere : slotThere s slot = true) (det late : Bool) :
    exec (.cisternLineRead slot line v ⟨det, late⟩) s = .next (
      let r := if det = true ∧ mended (lineVerdict s slot line v) = true then perturb (lineRead slot line v s) else lineRead slot line v s
      if det = true ∧ late = true then perturb r else r) := by
  refine whenLive_eq_next hl ((if_pos hthere).trans ?_)
  simp only [Bool.and_eq_true]

/-- Settles O33: a read has one outcome per verdict; only that of a lost line writes a slot, and of it that line. -/
theorem lineReadsHealOrZero : Obligations.LineReadsHealOrZero := by
  intro slot line v s hl hthere read seen noted
  refine ⟨execCisternLineRead_there hl hthere, ?scrub, fun hline hmember => lineVerdict_served hline hmember v, fun hline => lineVerdict_out hline v,
    onlyCounts_lineRead, fun hseen => ?corrected, fun hseen => ?reconstructed, fun hseen => ⟨fun i hi => ?zero, fun a ha => ?outside, fun j hj => ?other⟩⟩
  case scrub => exact whenLive_eq_next hl (if_pos hthere)
  case corrected =>
    show getObj (lineRead slot line v s) _ = _
    rw [lineRead_corrected hseen]
    exact getObj_setLastError ..
  case reconstructed =>
    show getObj (lineRead slot line v s) _ = _
    rw [lineRead_reconstructed hseen]
    exact getObj_setLastError ..
  case zero =>
    have hi' : i < (List.replicate 64 (0 : Byte)).length := by simpa using hi
    rw [page_lineRead_lost hseen, Nat.mul_comm, pageByte_write_inside _ _ _ i hi', List.getElem_replicate]
  case outside =>
    rw [page_lineRead_lost hseen, pageByte_write_outside]
    rw [List.length_replicate]
    omega
  case other => exact getC_lineRead_lost_other hseen hj

end Sys2Proof.Proofs.LineReads
end

section
namespace Sys2Proof.Proofs.CisternStore
open Sys2Proof Sys2Proof.Machine
open Sys2Proof.Proofs.TransformUnit

/-! ### Accesses that are served -/

/-- Where a master's accesses are served, the outcome is the state that the effect makes of `s`. -/
theorem whenFree_eq_next {m : Nat} {c : Instr} {s t : State} {f : State → State} (hs : Serves m s) (h : f s = t) : whenFree m c s f = .next t := by
  obtain ⟨hlive, hawake, hparked⟩ := hs
  rw [whenFree_free f hlive hawake hparked, h]

/-! ### What settling and freeing may change (R209 to R211) -/

/-- From `s` to `t` only data slots and the versions of region pages differ. -/
def OnlyStore (s t : State) : Prop := t = { s with ci := { s.ci with slots := t.ci.slots, pages := t.ci.pages } }

theorem OnlyStore.refl (s : State) : OnlyStore s s := rfl

theorem OnlyStore.trans {s t u : State} (h : OnlyStore s t) (h2 : OnlyStore t u) : OnlyStore s u := by
  unfold OnlyStore at *
  rw [h2, h]

theorem OnlyStore.getTag {s t : State} (h : OnlyStore s t) (tag : Nat) : getTag t tag = getTag s tag := by
  rw [h]
  rfl

theorem onlyStore_setC (k : Nat) (c : CSlot) (s : State) : OnlyStore s (setC k c s) := rfl

theorem onlyStore_freeSlotAt (k : Nat) (s : State) : OnlyStore s (freeSlotAt k s) := rfl

theorem onlyStore_retireSlot (k : Nat) (step : Option Nat) (serial : Nat) (s : State) : OnlyStore s (retireSlot k step serial s) := by
  unfold retireSlot
  dsimp only
  split
  · rfl
  · rfl

theorem onlyStore_settleEntry (x : Tag) (e : Nat × Nat) (s : State) : OnlyStore s (settleEntry x e s) := by
  unfold settleEntry
  split
  · rfl
  · exact onlyStore_freeSlotAt ..
  · dsimp only
    split
    · exact (onlyStore_setC ..).trans (onlyStore_retireSlot ..)
    · exact onlyStore_setC ..

/-- Every entry of a tag settled. -/
def settleEntries (x : Tag) (es : List (Nat × Nat)) (s : State) : State := es.foldl (fun s e => settleEntry x e s) s

theorem onlyStore_settleEntries (x : Tag) (es : List (Nat × Nat)) (s : State) : OnlyStore s (settleEntries x es s) :=
  List.foldlRecOn _ _ (motive := OnlyStore s) (.refl s) fun _ h e _ => h.trans (onlyStore_settleEntry x e _)

/-! ### A slot that is freed (R211) -/

@[simp] theorem getC_freeSlotAt (k : Nat) (s : State) : getC (freeSlotAt k s) k = CSlot.init := getC_setC ..

theorem getC_freeSlotAt_other {j k : Nat} (s : State) (h : j ≠ k) : getC (freeSlotAt k s) j = getC s j := getC_setC_other _ _ h

theorem mem_of_mem_trimVersions {v : Version} {vs : List Version} (h : v ∈ trimVersions vs) : v ∈ vs :=
  List.mem_reverse.1 ((List.dropWhile_sublist _).subset (List.mem_reverse.1 h))

theorem versions_setVersions (p q : Nat) (vs : List Version) (s : State) : versions (setVersions p q vs s) p q = trimVersions vs :=
  mapGet_mapSet_same ..

/-- No version of its page holds a slot that is freed. -/
theorem slot_ne_of_mem_versions_freeSlotAt {k : Nat} {s : State} {v : Version}
    (hv : v ∈ versions (freeSlotAt k s) (getC s k).part (getC s k).rpage) : v.slot ≠ some k := by
  have hkept : v ∈ trimVersions ((versions s (getC s k).part (getC s k).rpage).filter fun v => v.slot != some k) := by
    rw [← versions_setVersions (getC s k).part (getC s k).rpage]
    exact hv
  exact bne_iff_ne.1 (List.mem_filter.1 (mem_of_mem_trimVersions hkept)).2

/-! ### A tag that settles (R209, R210) -/

theorem getTag_freeTag_other {tag u : Nat} (s : State) (h : u ≠ tag) : getTag (freeTag tag s) u = getTag s u := mapFind_mapErase_other _ h

theorem settleTag_settled {tag : Nat} {x : Tag} {s : State} (hx : getTag s tag = some x) (hst : x.st ≠ .live) :
    settleTag tag s = freeTag tag (settleEntries x x.entries s) := by
  unfold settleTag
  rw [hx]
  exact if_neg hst

theorem settleEntry_killed {x : Tag} (h : x.st = .killed) (e : Nat × Nat) (s : State) : settleEntry x e s = freeSlotAt e.2 s := by
  unfold settleEntry
  rw [h]

/-- A killed tag's entries leave a free slot free, and free the slot of each entry. -/
theorem getC_settleEntries_killed {x : Tag} (hx : x.st = .killed) {k : Nat} (es : List (Nat × Nat)) (s : State)
    (h : getC s k = CSlot.init ∨ ∃ e ∈ es, e.2 = k) : getC (settleEntries x es s) k = CSlot.init := by
  induction es generalizing s with
  | nil => simpa [settleEntries] using h
  | cons e es ih =>
    refine ih (settleEntry x e s) ?_
    rw [settleEntry_killed hx]
    by_cases hk : k = e.2
    · subst hk
      exact .inl (getC_freeSlotAt ..)
    · rw [getC_freeSlotAt_other s hk]
      refine h.imp_right ?_
      rintro ⟨f, hf, rfl⟩
      rcases List.mem_cons.1 hf with rfl | hf
      · exact absurd rfl hk
      · exact ⟨f, hf, rfl⟩

/-- Settles O34: a tag settles entry by entry and leaves the pool of used ones; a retired slot is freed. -/
theorem tagsAndSlotsAreFreed : Obligations.TagsAndSlotsAreFreed := by
  refine ⟨fun tag x s hl hx hst => ?tag, fun slot s hl hst hunread => ?slot⟩
  case tag =>
    have hstore := onlyStore_settleEntries x x.entries s
    refine ⟨_, whenLive_eq_next hl (settleTag_settled hx hst), getTag_freeTag .., fun u hu => ?_, fun hk e he => ?_, ?_⟩
    · rw [getTag_freeTag_other _ hu, hstore.getTag]
    · exact getC_settleEntries_killed hk x.entries s (.inr ⟨e, he, rfl⟩)
    · rw [hstore]
      rfl
  case slot =>
    refine ⟨_, whenLive_eq_next hl (if_pos ⟨hst, hunread⟩), getC_freeSlotAt .., fun k hk => getC_freeSlotAt_other s hk, fun v hv => ?_, onlyStore_freeSlotAt ..⟩
    exact slot_ne_of_mem_versions_freeSlotAt hv

end Sys2Proof.Proofs.CisternStore
end

section
namespace Sys2Proof.Proofs.PageMigration
open Sys2Proof Sys2Proof.Machine
open Sys2Proof.Proofs.CisternStore

/-! ### A page that is moved (R232) -/

/-- A newest version that holds a slot stays the newest. -/
theorem trimVersions_cons {v : Version} (hv : v.slot.isSome = true) (vs : List Version) : trimVersions (v :: vs) = v :: trimVersions vs := by
  have hkeep : v.slot.isNone = false := by rw [← Option.not_isSome, hv]; rfl
  have hlast : (vs.reverse ++ [v]).dropWhile (fun v => v.slot.isNone) = vs.reverse.dropWhile (fun v => v.slot.isNone) ++ [v] := by
    rw [List.dropWhile_append]
    split
    next h => rw [List.isEmpty_iff.1 h, List.dropWhile_cons_of_neg (by rw [hkeep]; decide)]; rfl
    next => rfl
  rw [trimVersions, List.reverse_cons, hlast, List.reverse_append]
  rfl

theorem versionAt_cons {v : Version} {serial : Nat} (h : v.serial < serial) (vs : List Version) : versionAt (v :: vs) serial = v.slot := by
  rw [versionAt, List.find?_cons_of_pos (p := fun v : Version => decide (v.serial < serial)) (decide_eq_true h)]

theorem versions_movePage (k new : Nat) (s : State) :
    versions (movePage k new s) (getC s k).part (getC s k).rpage =
      { slot := some new, step := none, serial := s.ci.serial } :: trimVersions (versions s (getC s k).part (getC s k).rpage) :=
  (versions_setVersions ..).trans (trimVersions_cons rfl _)

/-- Readers of the serials after a move see the page in its new slot. -/
theorem slotAt_movePage (k new : Nat) (s : State) :
    slotAt (movePage k new s) (getC s k).part (getC s k).rpage (movePage k new s).ci.serial = some new := by
  rw [slotAt, versions_movePage]
  exact versionAt_cons (Nat.lt_succ_self _) _

theorem getC_movePage (k new : Nat) (s : State) (j : Nat) :
    getC (movePage k new s) j =
      getC (setC k { getC s k with st := .retired, replStep := none, replSerial := s.ci.serial }
        (setC new { getC s k with replStep := none, replSerial := 0 } s)) j := rfl

theorem getC_movePage_new {k new : Nat} (s : State) (h : k ≠ new) :
    getC (movePage k new s) new = { getC s k with replStep := none, replSerial := 0 } := by
  rw [getC_movePage, getC_setC_other _ _ h.symm, getC_setC]

theorem getC_movePage_old (k new : Nat) (s : State) :
    getC (movePage k new s) k = { getC s k with st := .retired, replStep := none, replSerial := s.ci.serial } := by
  rw [getC_movePage, getC_setC]

theorem getC_movePage_other {k new j : Nat} (s : State) (hk : j ≠ k) (hnew : j ≠ new) : getC (movePage k new s) j = getC s j := by
  rw [getC_movePage, getC_setC_other _ _ hk, getC_setC_other _ _ hnew]

/-- A page that is no page of the weights is read where it is mapped (R204, R213). -/
theorem regionByte_mapped {s : State} {p serial off k : Nat} (hweights : weightPages s p ≤ off / 65536) (hslot : slotAt s p (off / 65536) serial = some k) :
    regionByte s p serial off = pageByte (getC s k).page (off % 65536) := by
  have hpage : weightPage s p serial (off / 65536) = off / 65536 := by
    rw [weightPage, hslot]
    exact if_neg (by rw [decide_eq_false (Nat.not_lt.2 hweights), Bool.false_and]; exact Bool.false_ne_true)
  rw [regionByte, hpage, hslot]

/-! ### The migration command (R232, R236) -/

section
variable {m : Nat} {s : State}

theorem execMigrateStart_served (hs : Serves m s) : exec (.migrateStart m) s = .next (ackWrite oCisternMigrateCommand (wMigrate m 1 s)).1 := by
  show execMigrateStart m s = _
  rw [execMigrateStart, whenFree_eq_next hs rfl]

theorem execMigrateAbort_served (hs : Serves m s) : exec (.migrateAbort m) s = .next (ackWrite oCisternMigrateCommand (wMigrate m 2 s)).1 := by
  show execMigrateAbort m s = _
  rw [execMigrateAbort, whenFree_eq_next hs rfl]

/-- A start while a migration runs, or before the Cistern does, is refused. -/
theorem wMigrate_start_busy (h : s.ci.migrate.isSome = true ∨ getObj s oCisternState = 0) :
    wMigrate m 1 s = (refuse m oCisternMigrateCommand 2 1 s, .refused 2) :=
  (if_pos rfl).trans (if_pos h)

theorem wMigrate_start (hidle : s.ci.migrate = none) (hup : getObj s oCisternState ≠ 0) :
    wMigrate m 1 s =
      if migrateOk s then
        (beginPage (setMigrateStatus 1 0 { s with ci := { s.ci with
          migrate := some (getObj s oCisternMigratePartition, getObj s oCisternMigrateFirst, getObj s oCisternMigrateCount, getObj s oCisternMigrateTarget) } }), .done)
      else (refuse m oCisternMigrateCommand 1 1 (setMigrateStatus 3 0 s), .refused 1) := by
  refine (if_pos rfl).trans (if_neg ?_)
  rw [hidle]
  exact fun h => h.elim Bool.false_ne_true hup

theorem wMigrate_abort (hruns : s.ci.migrate.isSome = true) :
    wMigrate m 2 s =
      let freed := dropMove s.ci.moving s
      (setMigrateStatus 2 (migratePages freed) { freed with ci := { freed.ci with migrate := none, moving := none } }, .done) :=
  (if_neg (by decide)).trans ((if_pos rfl).trans (if_pos hruns))

theorem wMigrate_abort_idle (hidle : s.ci.migrate = none) : wMigrate m 2 s = (refuse m oCisternMigrateCommand 2 2 s, .refused 2) :=
  (if_neg (by decide)).trans ((if_pos rfl).trans (if_neg (by rw [hidle]; exact Bool.false_ne_true)))

end

/-! ### The switch of a page (R231, R232) -/

section
variable {s : State} {x : PageMove} (hready : moveReady x = true)
include hready

theorem migrateStep_ready {p q left target : Nat} (hruns : s.ci.migrate = some (p, q, left, target)) (hmoving : s.ci.moving = some x) :
    migrateStep s =
      let moved := switchPage x s
      let n := migratePages moved + 1
      if left ≤ 1 then setMigrateStatus 0 n { moved with ci := { moved.ci with moving := none, migrate := none } }
      else beginPage (setMigrateStatus 1 n { moved with ci := { moved.ci with moving := none, migrate := some (p, q + 1, left - 1, target) } }) := by
  unfold migrateStep
  rw [hruns, hmoving]
  exact if_pos hready

theorem rebuildStep_ready (hmoving : s.ci.rebuilding = some x) : rebuildStep s = beginRebuild (switchPage x s) := by
  unfold rebuildStep
  rw [hmoving]
  exact if_pos hready

end

theorem execPageMigrationSwitch_live {s : State} (hl : Live s) :
    exec .pageMigrationSwitch s = .next (
      if getObj s oCisternState = 3 then
        if s.ci.migrate.isSome then (if freeNat s 1 = 1 then rebuildStep (useFree s) else migrateStep (useFree s)) else rebuildStep s
      else migrateStep s) := by
  show execPageMigrationSwitch s = _
  rw [execPageMigrationSwitch, whenLive_live _ hl]

/-- Settles O35: each write of the command and each switch has one outcome in its case, and a moved page's newest version is its new slot. -/
theorem migrationMovesPages : Obligations.MigrationMovesPages := by
  refine ⟨fun m s hs => ⟨fun hidle hup hok => ?start, fun hidle hup hbad => ?invalid, fun hruns => ?running, fun hidle => ?idle⟩,
    fun x s hl hready => ⟨fun p q left target hstate hruns hmoving => ?migration, fun hstate hidle hmoving => ?rebuild, fun hstate hruns => ?both⟩,
    fun k new s hne => ?moved⟩
  case start => rw [execMigrateStart_served hs, wMigrate_start hidle hup, if_pos hok, ackWrite_done]
  case invalid => rw [execMigrateStart_served hs, wMigrate_start hidle hup, if_neg (by rw [hbad]; exact Bool.false_ne_true), ackWrite_refused]
  case running =>
    have hsome := Option.isSome_iff_ne_none.2 hruns
    rw [execMigrateStart_served hs, execMigrateAbort_served hs, wMigrate_start_busy (.inl hsome), wMigrate_abort hsome, ackWrite_refused]
    exact ⟨rfl, rfl⟩
  case idle => rw [execMigrateAbort_served hs, wMigrate_abort_idle hidle, ackWrite_refused]
  case migration => rw [execPageMigrationSwitch_live hl, if_neg hstate, migrateStep_ready hready hruns hmoving]
  case rebuild => rw [execPageMigrationSwitch_live hl, if_pos hstate, if_neg (by rw [hidle]; exact Bool.false_ne_true), rebuildStep_ready hready hmoving]
  case both => rw [execPageMigrationSwitch_live hl, if_pos hstate, if_pos hruns]
  case moved =>
    intro c t
    have hnew : (getC t new).page = c.page := by rw [getC_movePage_new s hne]
    refine ⟨rfl, slotAt_movePage k new s, hnew, fun hweights off hoff => ?_, ?_, ?_, fun j hk hj => getC_movePage_other s hk hj⟩
    · rw [← hnew]
      refine regionByte_mapped (hoff ▸ hweights) ?_
      rw [hoff]
      exact slotAt_movePage k new s
    · rw [getC_movePage_old]
    · rw [getC_movePage_old]

end Sys2Proof.Proofs.PageMigration
end

section
namespace Sys2Proof.Proofs.RegionObjects
open Sys2Proof Sys2Proof.Machine
open Sys2Proof.Proofs.CisternStore

/-! ### The size objects of a region (R202, R203, R239) -/

section
variable {m p value : Nat} {s : State}

theorem execRegionWrite_span (hs : Serves m s) : exec (.regionWrite m p 1 value) s = .next (ackWrite (oRegionSpan p) (wSpan m p value s)).1 := by
  show execRegionWrite m p 1 value s = _
  rw [execRegionWrite, whenFree_eq_next hs rfl]
  rfl

theorem execRegionWrite_reserve (hs : Serves m s) : exec (.regionWrite m p 2 value) s = .next (ackWrite (oRegionReserve p) (wReserve m p value s)).1 := by
  show execRegionWrite m p 2 value s = _
  rw [execRegionWrite, whenFree_eq_next hs rfl]
  rfl

theorem execRegionWrite_placement (hs : Serves m s) :
    exec (.regionWrite m p 3 value) s = .next (ackWrite (oRegionPlacement p) (wPlacement m p (value % 256) s)).1 := by
  show execRegionWrite m p 3 value s = _
  rw [execRegionWrite, whenFree_eq_next hs rfl]
  rfl

theorem partRuns_iff : partRuns s p = true ↔ 2 ≤ pState s p := decide_eq_true_iff

theorem capacityOk_iff (total margin : Nat) : capacityOk s total margin = true ↔ total + margin ≤ getObj s oCisternAllocatable := decide_eq_true_iff

theorem not_partRuns (hstopped : pState s p < 2) : ¬ partRuns s p = true := mt partRuns_iff.1 (Nat.not_le.2 hstopped)

theorem wReserve_stopped (hstopped : pState s p < 2) (hspan : getObj s (oRegionSpan p) ≤ value) (huse : regionUse s p ≤ value) :
    wReserve m p value s =
      if reservedTotal s - getObj s (oRegionReserve p) + value + getObj s oCisternFallbackMargin ≤ getObj s oCisternAllocatable then
        (retryRebuild (setObj (oRegionReserve p) value s), .done)
      else refuseCapacity m (oRegionReserve p) value (reservedTotal s - getObj s (oRegionReserve p) + value + getObj s oCisternFallbackMargin) s := by
  refine (if_neg (not_partRuns hstopped)).trans ((if_neg (by omega)).trans ?_)
  exact if_congr (capacityOk_iff ..) rfl rfl

end

/-- Settles O37: each write refuses a running partition, then what its own bounds leave out, and is done otherwise. -/
theorem regionWrites : Obligations.RegionWrites := by
  intro m p value s hs
  rw [execRegionWrite_span hs, execRegionWrite_reserve hs, execRegionWrite_placement hs]
  refine ⟨fun hruns => ?running, fun hstopped => ⟨fun hmapped hreserve => ?span, fun hout => ?spanOut,
    fun hspan huse => ⟨fun hfits => ?reserve, fun hfull => ?reserveFull⟩, fun hvalue => ?placement, fun hvalue => ?placementOut⟩⟩
  case running =>
    have hruns := partRuns_iff.2 hruns
    rw [wSpan, if_pos hruns, wReserve, if_pos hruns, wPlacement, if_pos hruns]
    exact ⟨rfl, rfl, rfl⟩
  case span => rw [wSpan, if_neg (not_partRuns hstopped), if_neg (by omega), ackWrite_done]
  case spanOut => rw [wSpan, if_neg (not_partRuns hstopped), if_pos hout, ackWrite_refused]
  case reserve => rw [wReserve_stopped hstopped hspan huse, if_pos hfits, ackWrite_done]
  case reserveFull =>
    rw [wReserve_stopped hstopped hspan huse, if_neg (Nat.not_le.2 hfull)]
    exact congrArg Host.Outcome.next (ackWrite_refused ..)
  case placement => rw [wPlacement, if_neg (not_partRuns hstopped), if_neg (Nat.not_lt.2 hvalue), ackWrite_done]
  case placementOut => rw [wPlacement, if_neg (not_partRuns hstopped), if_pos hvalue, ackWrite_refused]

end Sys2Proof.Proofs.RegionObjects
end

section
namespace Sys2Proof.Proofs.GatherEngine
open Sys2Proof Sys2Proof.Machine
open Sys2Proof.Proofs.TransformUnit

/-! ### Gather (R219 to R221) -/

/-- The segments that a gather command fetches. -/
def gathered (s : State) (y : Slot) : List (Nat × List Byte) := gatherSegs (rdOp s y (rA y)) (rdCist s y) (rdOp s y (rB y)) y

/-- The piece that tells for each block how many windows its trajectory fetched. -/
def countsPiece (s : State) (y : Slot) : Piece :=
  (rX y).piece (gaCounts y (hPs (rdOp s y (rA y))))
    ((List.range (gaBw y * gaBh y)).map fun b => BitVec.ofNat 8 (blockPath (rdOp s y (rA y)) (rdCist s y) (rdOp s y (rB y)) y b).length)

/-- What the compressed form stores of segment `i`; an invalid code leaves free bytes (R137). -/
def storedSegment (s : State) (segs : List (Nat × List Byte)) (i : Nat) : List Byte :=
  if 8 < (segs.getD i (0, [])).1 then (List.range 256).map fun j => Config.freeByte s.free (256 * i + j)
  else (segs.getD i (0, [])).2.take (32 * (segs.getD i (0, [])).1)

/-- Every code of the list is one that R137 knows. -/
def codesValid (segs : List (Nat × List Byte)) : Bool := segs.all fun e => decide (e.1 ≤ 8)

theorem storedSegment_valid {segs : List (Nat × List Byte)} (h : codesValid segs = true) (s : State) {i : Nat} (hi : i < segs.length) :
    storedSegment s segs i = (segs.getD i (0, [])).2.take (32 * (segs.getD i (0, [])).1) := by
  have hcode : segs[i].1 ≤ 8 := of_decide_eq_true (List.all_eq_true.1 h _ (List.getElem_mem hi))
  refine if_neg (Nat.not_lt.2 ?_)
  rwa [List.getD_eq_getElem _ _ hi]

/-- An invalid code is one above 8. -/
theorem any_invalid_eq (segs : List (Nat × List Byte)) : (segs.any fun e => decide (8 < e.1)) = !codesValid segs := by
  rw [codesValid, List.all_eq_not_any_not, Bool.not_not]
  exact congrArg segs.any (funext fun e => by rw [← decide_not, decide_eq_decide]; omega)

section
variable {eng q sl : Nat} {s : State} (h36 : 36 ≤ eng) (h40 : eng < 40) (hi : Issues s eng q sl 6 1)
include h36 h40 hi

/-- A gather with expanded output. -/
theorem execGather_expanded (he : gaExpand (getSlot s eng q sl) = true) :
    let y := getSlot s eng q sl
    let ex := (gathered s y).map fun e => zrExpand (if Config.wideTokens y.part (rA y).offset then 2 else 1) e.1 e.2
    exec (.gather eng q sl) s = Writes s eng q sl
      (((List.range (gathered s y).length).map fun i => (rC y).piece (256 * i) (ex.getD i ([], true)).1) ++ [countsPiece s y],
        if ex.all (·.2) then noFlags else flagInvalid) :=
  whenLive_eq_next hi.1 ((if_pos ⟨h36, h40, hi.2⟩).trans (if_pos he))

/-- A gather with compressed output; a free value is used where the table of codes is odd or a code invalid. -/
theorem execGather_compressed {y : Slot} {segs : List (Nat × List Byte)} (hy : getSlot s eng q sl = y) (hsegs : gathered s y = segs)
    (he : gaExpand y = false) :
    exec (.gather eng q sl) s = Writes (if segs.length % 2 == 1 || !codesValid segs then useFree s else s) eng q sl
      (((List.range segs.length).map fun i => (rC y).piece (256 * i) (storedSegment s segs i)) ++
        [(rX y).piece 0 (packNibbles (segs.map (·.1) ++ if segs.length % 2 == 1 then [freeNat s 4] else [])), countsPiece s y], noFlags) := by
  subst hy hsegs
  rw [← any_invalid_eq]
  exact whenLive_eq_next hi.1 ((if_pos ⟨h36, h40, hi.2⟩).trans (if_neg (by rw [he]; exact Bool.false_ne_true)))

end

/-- Settles O18: the expanded form, the compressed form with and without a free value, and the advance each deliver the pieces of their branch. -/
theorem gatherAndAdvanceResults : Obligations.GatherAndAdvanceResults := by
  refine ⟨fun eng q sl s h36 h40 hi => ?gather, fun eng q sl s h36 h40 hi => ?advance⟩
  case gather =>
    intro y c k rd reg start segs counts
    refine ⟨execGather_expanded h36 h40 hi, fun he heven hvalid => ?valid, fun he hfree => ?free⟩
    case valid =>
      have hodd : (segs.length % 2 == 1) = false := by rw [heven]; rfl
      have hcodes : codesValid segs = true := hvalid
      have hstored : ((List.range segs.length).map fun i => c.piece (256 * i) (storedSegment s segs i)) =
          (List.range segs.length).map fun i => c.piece (256 * i) ((segs.getD i (0, [])).2.take (32 * (segs.getD i (0, [])).1)) :=
        List.map_congr_left fun i hi => by rw [storedSegment_valid hcodes s (List.mem_range.1 hi)]
      rw [execGather_compressed h36 h40 hi (y := y) (segs := segs) rfl rfl he, hstored, hodd, hcodes, if_neg (by decide), if_neg (by decide), List.append_nil]
      rfl
    case free =>
      have hused : (segs.length % 2 == 1 || !codesValid segs) = true := by
        rcases hfree with hodd | hinvalid
        · rw [hodd]; rfl
        · rw [show codesValid segs = false from hinvalid]; exact Bool.or_true _
      rw [execGather_compressed h36 h40 hi (y := y) (segs := segs) rfl rfl he, if_pos hused, List.append_cons]
      refine ⟨_, rfl, ?_⟩
      rw [List.length_append, List.length_map, List.length_range]
      rfl
  case advance => exact whenLive_eq_next hi.1 (if_pos ⟨h36, h40, hi.2⟩)

end Sys2Proof.Proofs.GatherEngine
end

section
namespace Sys2Proof.Proofs.MotionEngine
open Sys2Proof Sys2Proof.Machine
open Sys2Proof.Proofs.TransformUnit

/-! ### Estimates (R250 to R256) -/

/-- A block's result: its output vector with flags, its cost and its confidence. -/
abbrev BlockResult := (Int × Flags) × (Int × Flags) × Nat × Nat

/-- The results of an estimate's finest level, in line order (R250). -/
def finestResults (s : State) (y : Slot) : List BlockResult :=
  let ref := rdOp s y (rA y)
  let tgt := rdOp s y (rB y)
  let above := if moLc y = moLow y then [] else resultsDown ref tgt y (moLc y - moLow y - 1)
  (List.range (esGw y (moLow y) * esGh y (moLow y))).map (blockResult ref tgt y above)

/-- Line `j` of the grid. -/
def gridLine (rs : List BlockResult) (y : Slot) (j : Nat) : List BlockResult :=
  (List.range (esGw y (moLow y))).map fun i => rs.getD (j * esGw y (moLow y) + i) ((0, noFlags), (0, noFlags), 0, 0)

/-- The packed form of line `j`: vector, cost and confidence in 8 bytes a block (R255). -/
def packedLine (rs : List BlockResult) (y : Slot) (j : Nat) : List Piece :=
  [(rC y).piece (j * (rC y).stride) ((gridLine rs y j).flatMap fun r => leBytes 8 (vectorWord r + r.2.2.1 * 2 ^ 32 + r.2.2.2 * 2 ^ 40))]

/-- The split form of line `j`: vectors in the output, costs and confidences in the second output (R255). -/
def splitLine (rs : List BlockResult) (y : Slot) (j : Nat) : List Piece :=
  [(rC y).piece (j * (rC y).stride) ((gridLine rs y j).flatMap fun r => leBytes 4 (vectorWord r)),
    (rX y).piece (j * (rX y).stride) ((gridLine rs y j).flatMap fun r => leBytes 2 (r.2.2.1 + r.2.2.2 * 256))]

/-- The pieces of an estimate in the form that its command names. -/
def estimatePieces (rs : List BlockResult) (y : Slot) : List Piece :=
  (List.range (esGh y (moLow y))).flatMap fun j => if esPacked y then packedLine rs y j else splitLine rs y j

theorem estimatePieces_packed (rs : List BlockResult) {y : Slot} (hp : esPacked y = true) :
    estimatePieces rs y = (List.range (esGh y (moLow y))).flatMap (packedLine rs y) :=
  List.flatMap_congr fun _ _ => if_pos hp

theorem estimatePieces_split (rs : List BlockResult) {y : Slot} (hp : esPacked y = false) :
    estimatePieces rs y = (List.range (esGh y (moLow y))).flatMap (splitLine rs y) :=
  List.flatMap_congr fun _ _ => if_neg (ne_true_of_eq_false hp)

/-- The share, in 256ths, of blocks whose cost reaches the cut cost (R256). -/
def cutScoreOf (rs : List BlockResult) (y : Slot) : Nat :=
  min 255 (256 * (rs.filter fun r => decide (bits (cw y 13) 15 8 ≤ r.2.2.1)).length / (esGw y (moLow y) * esGh y (moLow y)))

/-- The command's slot with the score and the cut that its commit record will carry (R256). -/
def scoredSlot (rs : List BlockResult) (y : Slot) : Slot :=
  { y with run := { y.run with
      cut := bit (cw y 13) 24 && decide (bits (cw y 13) 7 0 ≤ cutScoreOf rs y)
      cutScore := cutScoreOf rs y } }

/-- An estimate scores its slot and delivers its lines with the flags of all vectors. -/
theorem execEstimate_next {eng q sl : Nat} {s : State} (h40 : 40 ≤ eng) (hi : Issues s eng q sl 7 2) :
    let y := getSlot s eng q sl
    let rs := finestResults s y
    exec (.estimate eng q sl) s =
      Writes (setSlot eng q sl (scoredSlot rs y) s) eng q sl (estimatePieces rs y, allFlags (rs.map fun r => orFlags r.1.2 r.2.1.2)) :=
  whenLive_eq_next hi.1 (if_pos ⟨h40, hi.2⟩)

/-! ### Matches (R260) -/

/-- The header bytes of a match list after its count, which R260 leaves open. -/
def matchPadding (s : State) : List Byte := (List.range 28).map fun j => Config.freeByte s.free j

@[simp] theorem length_matchPadding (s : State) : (matchPadding s).length = 28 := (List.length_map ..).trans List.length_range

/-! ### The motion commands -/

/-- Settles O19: a command that issues delivers the pieces of its opcode and mode; an estimate's lines take the form that its packed bit names. -/
theorem motionEngineResults : Obligations.MotionEngineResults := by
  refine ⟨fun eng q sl s h40 => ⟨fun hi => ?pyramid, fun hi => ?corners, fun hi => ?matchList, fun hi hmode => ?warp, fun hi hmode => ?copy⟩,
    fun eng q sl s h40 hi => ⟨fun hp => ?packed, fun hp => ?split⟩⟩
  case pyramid => exact whenLive_eq_next hi.1 (if_pos ⟨h40, hi.2⟩)
  case corners => exact whenLive_eq_next hi.1 (if_pos ⟨h40, hi.2⟩)
  case matchList => exact ⟨matchPadding s, length_matchPadding s, whenLive_eq_next hi.1 (if_pos ⟨h40, hi.2⟩)⟩
  case warp => exact whenLive_eq_next hi.1 (if_pos ⟨h40, hi.2, hmode⟩)
  case copy => exact whenLive_eq_next hi.1 (if_pos ⟨h40, hi.2, hmode⟩)
  case packed =>
    rw [execEstimate_next h40 hi, estimatePieces_packed _ hp]
    rfl
  case split =>
    rw [execEstimate_next h40 hi, estimatePieces_split _ hp]
    rfl

end Sys2Proof.Proofs.MotionEngine
end

section
namespace Sys2Proof.Proofs.FrameStreams
open Sys2Proof Sys2Proof.Machine
open Sys2Proof.Proofs.TensorTile Sys2Proof.Proofs.TransformUnit Sys2Proof.Proofs.ImageLoad Sys2Proof.Proofs.CisternStore

/-! ### Whole parts of the state that an operation leaves -/

theorem leaves_tl {m : Nat} {s t : State} (h : Leaves m s t) (hm : ∀ i < 7, m.testBit (47 + i) = false) : t.tl = s.tl := by
  have h0 := h.tl_queues (hm 0 (by omega))
  have h1 := h.tl_slots (hm 1 (by omega))
  have h2 := h.tl_units (hm 2 (by omega))
  have h3 := h.tl_pageMap (hm 3 (by omega))
  have h4 := h.tl_frames (hm 4 (by omega))
  have h5 := h.tl_turns (hm 5 (by omega))
  have h6 := h.tl_loads (hm 6 (by omega))
  revert h0 h1 h2 h3 h4 h5 h6
  cases t.tl; cases s.tl; simp_all

theorem leaves_pt {m : Nat} {s t : State} (h : Leaves m s t) (hm : ∀ i < 4, m.testBit (66 + i) = false) : t.pt = s.pt := by
  have h0 := h.pt_parts (hm 0 (by omega))
  have h1 := h.pt_accts (hm 1 (by omega))
  have h2 := h.pt_acctLatch (hm 2 (by omega))
  have h3 := h.pt_perturbed (hm 3 (by omega))
  revert h0 h1 h2 h3
  cases t.pt; cases s.pt; simp_all

/-- A stream's command leaves the engines, the Cistern, the partitions and the ports. -/
theorem leaves_hardware {s t : State} (h : Leaves 0x8000003007e0000000000004000004 s t) : t.tl = s.tl ∧ t.ci = s.ci ∧ t.pt = s.pt ∧ t.io = s.io :=
  ⟨leaves_tl h (by decide), leaves_ci h (by decide), leaves_pt h (by decide), leaves_io h (by decide)⟩

/-! ### Objects of a stream -/

/-- A write of a basic object leaves every basic object (R465). -/
theorem getObj_touch_basic {j key : Nat} (hkey : key % 256 < 0x20) (hj : j % 256 < 0x1F) (s : State) : getObj (touch key s) j = getObj s j := by
  rw [touch, if_neg (Nat.not_le.2 hkey), getObj_basicWrite_basic hj]

theorem getObj_touch_seqCommand {j : Nat} (hj : j % 256 < 0x1F) (k : Nat) (s : State) : getObj (touch (oSeqCommand k) s) j = getObj s j :=
  getObj_touch_basic (by unfold oSeqCommand; omega) hj s

theorem objWidth_seqState : ∀ k < 128, objWidth (oSeqState k) = 8 := by decide +kernel

theorem objWidth_seqStatus : ∀ k < 128, objWidth (oSeqStatus k) = 32 := by decide +kernel

theorem objWidth_minSlack : ∀ k < 128, objWidth (oDlmMinSlack k) = 32 := by decide +kernel

/-! ### A start that is accepted (R294, R295) -/

/-- The counters of a stream as its start leaves them. -/
def clearedCounters (k : Nat) (s : State) : State :=
  setObj (oOverlayOverflows k) 0 (setObj (oDlmSwitches k) 0 (setObj (oDlmLate k) 0 (setObj (oDlmMinSlack k) 0x7FFFFFFF
    (setObj (oSeqFallbackFrames k) 0 (setObj (oSeqGaps k) 0 (setObj (oSeqDrops k) 0 s))))))

theorem getObj_clearedCounters (k : Nat) (s : State) :
    ∀ o ∈ [oSeqGaps k, oSeqDrops k, oSeqFallbackFrames k, oDlmSwitches k, oDlmLate k, oOverlayOverflows k], getObj (clearedCounters k s) o = 0 := by
  simp only [List.forall_mem_cons, clearedCounters, oSeqGaps, oSeqDrops, oSeqFallbackFrames, oDlmSwitches, oDlmLate, oOverlayOverflows, oDlmMinSlack]
  refine ⟨?_, ?_, ?_, ?_, ?_, ?_, List.forall_mem_nil _⟩ <;> simp (disch := omega) only [getObj_setObj_other, getObj_setObj, Nat.zero_mod]

theorem getObj_clearedCounters_minSlack {k : Nat} (hk : k < 128) (s : State) : getObj (clearedCounters k s) (oDlmMinSlack k) = 0x7FFFFFFF := by
  have hw := objWidth_minSlack k hk
  simp only [clearedCounters, oDlmSwitches, oDlmLate, oOverlayOverflows, oDlmMinSlack] at hw ⊢
  simp (disch := omega) only [getObj_setObj_other, getObj_setObj, hw]
  exact Nat.mod_eq_of_lt (by decide)

/-- A start that passes the checks of R295: counters cleared, the overlay as at first, state 1, audio, and the record. -/
theorem seqStart_accepted {k : Nat} {s : State} (h : (startResult s k).1 = 0) :
    ∃ p v, seqStart k s =
      (capture 0x0401 p k v 1 0 (startAudio k (setObj (oSeqState k) 1
        { clearedCounters k (setSeqStatus k (startResult s k).1 (startResult s k).2.1 (startResult s k).2.2 s) with
          st := { s.st with overlays := mapErase s.st.overlays k } })), .done) := by
  unfold seqStart
  dsimp only
  rw [if_pos h]
  exact ⟨_, _, rfl⟩

@[simp] theorem startAudio_st (k : Nat) (s : State) : (startAudio k s).st = s.st := by
  unfold startAudio
  dsimp only
  split
  · rfl
  · split
    · rw [capture_st, setObj_st]
    · rfl

theorem getObj_startAudio_other {j k : Nat} (h : j ≠ oAudioState k) (hl : j ≠ oAlmanacLost) (s : State) : getObj (startAudio k s) j = getObj s j := by
  unfold startAudio
  dsimp only
  split
  · exact getObj_setObj_other _ _ h
  · split
    · rw [getObj_capture_other _ _ _ _ _ _ _ hl, getObj_setObj_other _ _ h]
    · exact getObj_setObj_other _ _ h

theorem getObj_setObj_upd_st (key v j : Nat) (x : Streams) (s : State) : getObj (setObj key v { s with st := x }) j = getObj (setObj key v s) j := rfl

/-- What a stream's start does to the streams: its overlay is as at first. -/
theorem seqStart_accepted_st {k : Nat} {s : State} (h : (startResult s k).1 = 0) :
    (seqStart k s).1.st = { s.st with overlays := mapErase s.st.overlays k } := by
  obtain ⟨p, v, hstart⟩ := seqStart_accepted h
  rw [hstart, capture_st, startAudio_st, setObj_st]

/-- A counter or a state that an accepted start writes is read past its audio and its record. -/
theorem getObj_seqStart_accepted {j k : Nat} {s : State} (h : (startResult s k).1 = 0) (ha : j ≠ oAudioState k) (hl : j ≠ oAlmanacLost) :
    getObj (seqStart k s).1 j =
      getObj (setObj (oSeqState k) 1 (clearedCounters k (setSeqStatus k (startResult s k).1 (startResult s k).2.1 (startResult s k).2.2 s))) j := by
  obtain ⟨p, v, hstart⟩ := seqStart_accepted h
  rw [hstart, getObj_capture_other _ _ _ _ _ _ _ hl, getObj_startAudio_other ha hl, getObj_setObj_upd_st]

/-! ### A start that is refused (R295) -/

/-- A refused start leaves its result in the stream's status, and no other object but the count of lost records. -/
theorem seqStart_refused {k : Nat} {s : State} (h : (startResult s k).1 ≠ 0) :
    (seqStart k s).2 = .quiet ∧ ∀ j, j ≠ oAlmanacLost →
      getObj (seqStart k s).1 j = getObj (setSeqStatus k (startResult s k).1 (startResult s k).2.1 (startResult s k).2.2 s) j := by
  unfold seqStart
  dsimp only
  rw [if_neg h]
  refine ⟨rfl, fun j hj => ?_⟩
  rw [getObj_capture_other _ _ _ _ _ _ _ hj]
  split
  · rfl
  · rfl

/-! ### The commands of a stream -/

section
variable {m : Nat} {s : State} (hs : Serves m s) (k : Nat)
include hs

theorem execStreamStart_served : exec (.streamStart m k) s = .next (ackWrite (oSeqCommand k) (seqStart k s)).1 := by
  show execStreamStart m k s = _
  rw [execStreamStart, whenFree_eq_next hs rfl]
  rfl

theorem execStreamStop_served : exec (.streamStop m k) s = .next (touch (oSeqCommand k) (seqStop k s)) := by
  show execStreamStop m k s = _
  rw [execStreamStop, whenFree_eq_next hs rfl]
  rfl

theorem execForceCut_served : exec (.forceCut m k) s = .next (touch (oSeqCommand k) (seqForce k s)) := by
  show execForceCut m k s = _
  rw [execForceCut, whenFree_eq_next hs rfl]
  rfl

end

/-- An accepted start's state: state 1, counters cleared, the sequencer itself and all outside the streams as before. -/
theorem execStreamStart_accepted {m k : Nat} {s : State} (hs : Serves m s) (hk : k < 128) (h : (startResult s k).1 = 0) :
    ∃ t, exec (.streamStart m k) s = .next t ∧ getObj t (oSeqState k) = 1 ∧
      (∀ o ∈ [oSeqGaps k, oSeqDrops k, oSeqFallbackFrames k, oDlmSwitches k, oDlmLate k, oOverlayOverflows k], getObj t o = 0) ∧
      getObj t (oDlmMinSlack k) = 0x7FFFFFFF ∧ getOverlay t k = Overlay.init ∧ getSeq t k = getSeq s k ∧ t.tl = s.tl ∧ t.ci = s.ci ∧ t.pt = s.pt ∧ t.io = s.io := by
  have hexec : exec (.streamStart m k) s = .next (touch (oSeqCommand k) (seqStart k s).1) := by
    obtain ⟨p, v, hstart⟩ := seqStart_accepted h
    rw [execStreamStart_served hs, hstart, ackWrite_done]
  have hread : ∀ j, j % 256 < 0x1F → j ≠ oAudioState k → j ≠ oAlmanacLost → j ≠ oSeqState k → getObj (touch (oSeqCommand k) (seqStart k s).1) j =
      getObj (clearedCounters k (setSeqStatus k (startResult s k).1 (startResult s k).2.1 (startResult s k).2.2 s)) j := fun j hj ha hl hst => by
    rw [getObj_touch_seqCommand hj, getObj_seqStart_accepted h ha hl, getObj_setObj_other _ _ hst]
  have hst : (touch (oSeqCommand k) (seqStart k s).1).st = { s.st with overlays := mapErase s.st.overlays k } := by
    rw [touch_st, seqStart_accepted_st h]
  refine ⟨_, hexec, ?state, fun o ho => ?counters, ?slack, ?overlay, ?seq,
    leaves_hardware (touch_frame (seqStart_frame (Leaves.refl _ s) (FieldsIn.of (FieldsIn.refl _) (by decide))) (FieldsIn.of (FieldsIn.refl _) (by decide)))⟩
  case state =>
    rw [getObj_touch_seqCommand (by unfold oSeqState; omega), getObj_seqStart_accepted h (by unfold oSeqState oAudioState; omega) (by unfold oSeqState oAlmanacLost; omega),
      getObj_setObj, objWidth_seqState k hk]
    exact Nat.mod_eq_of_lt (by decide)
  case counters =>
    have hkeys : o % 256 < 0x1F ∧ o ≠ oAudioState k ∧ o ≠ oAlmanacLost ∧ o ≠ oSeqState k := by
      simp only [List.mem_cons, List.not_mem_nil, or_false, oSeqGaps, oSeqDrops, oSeqFallbackFrames, oDlmSwitches, oDlmLate, oOverlayOverflows] at ho
      unfold oAudioState oAlmanacLost oSeqState
      omega
    obtain ⟨hsub, ha, hl, hst⟩ := hkeys
    rw [hread o hsub ha hl hst, getObj_clearedCounters k _ o ho]
  case slack =>
    rw [hread _ (by unfold oDlmMinSlack; omega) (by unfold oDlmMinSlack oAudioState; omega) (by unfold oDlmMinSlack oAlmanacLost; omega)
      (by unfold oDlmMinSlack oSeqState; omega), getObj_clearedCounters_minSlack hk]
  case overlay => rw [getOverlay, hst]; exact mapGet_mapErase_same _ _ _
  case seq => rw [getSeq, hst, getSeq]

/-- A refused start's state: its result in the status, the stream's state and all outside the streams as before. -/
theorem execStreamStart_refused {m k : Nat} {s : State} (hs : Serves m s) (hk : k < 128) (h : (startResult s k).1 ≠ 0) :
    ∃ t, exec (.streamStart m k) s = .next t ∧ getObj t (oSeqState k) = getObj s (oSeqState k) ∧
      getObj t (oSeqStatus k) = ((startResult s k).1 * 2 ^ 24 + (startResult s k).2.1 * 2 ^ 15 + (startResult s k).2.2) % 2 ^ 32 ∧
      t.tl = s.tl ∧ t.ci = s.ci ∧ t.pt = s.pt ∧ t.io = s.io := by
  obtain ⟨hquiet, hobj⟩ := seqStart_refused h
  have hexec : exec (.streamStart m k) s = .next (seqStart k s).1 := by
    rw [execStreamStart_served hs, ← Prod.mk.eta (p := seqStart k s), hquiet, ackWrite_quiet]
  refine ⟨_, hexec, ?state, ?status, leaves_hardware (seqStart_frame (Leaves.refl _ s) (FieldsIn.of (FieldsIn.refl _) (by decide)))⟩
  case state => rw [hobj _ (by unfold oSeqState oAlmanacLost; omega), setSeqStatus, getObj_setObj_other _ _ (by unfold oSeqState oSeqStatus; omega)]
  case status => rw [hobj _ (by unfold oSeqStatus oAlmanacLost; omega), setSeqStatus, getObj_setObj, objWidth_seqStatus k hk]

/-! ### Stops and cuts (R286, R290, R291) -/

theorem seqStop_waiting {k : Nat} {s : State} (h : seqState s k = 1) : seqStop k s = finishStop k s := if_pos h

theorem seqStop_running {k : Nat} {s : State} (h : seqState s k = 2 ∨ seqState s k = 3) :
    seqStop k s = match admittedNow s k with
      | some f => stopNow k (undoAdmission k f s)
      | none => setSeq k { getSeq s k with stopReq := true } s := by
  rw [seqStop, if_neg (by omega), if_pos h]
  rfl

/-- The objects of a stopped stream: state 0. -/
theorem getObj_finishStop_state {k : Nat} (s : State) : getObj (finishStop k s) (oSeqState k) = 0 := by
  unfold finishStop
  dsimp only
  rw [getObj_capture_other _ _ _ _ _ _ _ (by unfold oSeqState oAlmanacLost; omega), setSeqStatus,
    getObj_setObj_other _ _ (by unfold oSeqState oSeqStatus; omega), getObj_setObj_other _ _ (by unfold oSeqState oAudioState; omega)]
  exact (getObj_setObj _ _ _).trans (Nat.zero_mod _)

/-- Of the streams a stop ends the watch, the sequencer and the audio of its own. -/
theorem finishStop_st (k : Nat) (s : State) :
    (finishStop k s).st = { (setWatched k [] (setSeq k Seq.init s)).st with audio := mapErase s.st.audio k } := by
  unfold finishStop
  dsimp only
  rw [capture_st]
  rfl

theorem getSeq_finishStop (k : Nat) (s : State) (j : Nat) : getSeq (finishStop k s) j = getSeq (setSeq k Seq.init s) j := by
  rw [getSeq, finishStop_st]
  rfl

theorem getWatched_finishStop (k : Nat) (s : State) (j : Nat) : getWatched (finishStop k s) j = getWatched (setWatched k [] s) j := by
  rw [getWatched, finishStop_st]
  rfl

/-- Settles O40: a start by its result, a stop by the stream's state and the admission of its cycle, and the end of a stop by what it resets. -/
theorem streamCommands : Obligations.StreamCommands := by
  refine ⟨fun m k s hs hk => ⟨execStreamStart_accepted hs hk, execStreamStart_refused hs hk⟩,
    fun m k s hs => ⟨fun h => ?waits, fun h hnone => ?runs, fun f h hsome => ?admits, fun h => ?cut, fun h => ?cutStopping, fun h hshown => ?complete⟩,
    fun k s _ => ⟨getObj_finishStop_state s, ?seq, ?watch, fun j hj => ⟨?otherSeq, ?otherWatch⟩,
      leaves_hardware (finishStop_frame (Leaves.refl _ s) (FieldsIn.of (FieldsIn.refl _) (by decide)))⟩⟩
  case waits => rw [execStreamStop_served hs, seqStop_waiting h]
  case runs => rw [execStreamStop_served hs, seqStop_running h, hnone]
  case admits => rw [execStreamStop_served hs, seqStop_running h, hsome]
  case cut => rw [execForceCut_served hs, seqForce, if_neg h]; rfl
  case cutStopping => rw [execForceCut_served hs, seqForce, if_pos h]
  case complete => exact whenLive_eq_next hs.1 (if_pos ⟨h, List.all_eq_true.2 hshown⟩)
  case seq => rw [getSeq_finishStop, getSeq_setSeq]
  case watch => rw [getWatched_finishStop, getWatched_setWatched]
  case otherSeq => rw [getSeq_finishStop, getSeq_setSeq_other _ _ hj]
  case otherWatch => rw [getWatched_finishStop, getWatched_setWatched_other _ _ hj]

end Sys2Proof.Proofs.FrameStreams
end

section
namespace Sys2Proof.Proofs.StepPublication
open Sys2Proof Sys2Proof.Machine
open Sys2Proof.Proofs.TensorTile Sys2Proof.Proofs.TransformUnit

/-! ### The publication of one command (R79 to R81, R313) -/

/-- The one slot between a pointer and the next is the pointer's own. -/
theorem slotsBetween_next {eng a : Nat} (h : a < ptrMod eng) : slotsBetween eng a ((a + 1) % ptrMod eng) = [a % slotsOf eng] := by
  have hmod : 2 ≤ ptrMod eng := by unfold ptrMod slotsOf; split <;> decide
  have hone : ((a + 1) % ptrMod eng + ptrMod eng - a) % ptrMod eng = 1 := by
    rcases Nat.lt_or_ge (a + 1) (ptrMod eng) with hlt | hge
    · rw [Nat.mod_eq_of_lt hlt, show a + 1 + ptrMod eng - a = 1 + ptrMod eng by omega, Nat.add_mod_right, Nat.mod_eq_of_lt hmod]
    · rw [show a + 1 = ptrMod eng by omega, Nat.mod_self, show 0 + ptrMod eng - a = 1 by omega, Nat.mod_eq_of_lt hmod]
  rw [slotsBetween, hone]
  rfl

theorem tail_publishTail_any (eng q p tail : Nat) (fallback : Bool) (s : State) : (getQueue (publishTail eng q p tail fallback s) eng q).tail = tail := by
  rw [publishTail, tail_settleHead, getQueue_setQueue]

/-- Publishing the command at the tail stamps its slot alone. -/
theorem getSlot_publishNext {eng q : Nat} {s : State} (h : (getQueue s eng q).tail < ptrMod eng) (p : Nat) (fallback : Bool) (e r l : Nat) :
    getSlot (publishTail eng q p (((getQueue s eng q).tail + 1) % ptrMod eng) fallback s) e r l =
      getSlot (stampSlots eng q p fallback [(getQueue s eng q).tail % slotsOf eng] s) e r l := by
  rw [publishTail, slotsBetween_next h, getSlot_settleHead]
  rfl

/-- Where only this queue has stamped commands in this cycle, the command at the tail takes the allocator's step and every other slot reads as before. -/
theorem getSlot_publishNext_own {eng q : Nat} {s : State} (h : (getQueue s eng q).tail < ptrMod eng) (hown : StampsOf eng q s) (p e r l : Nat) :
    getSlot (publishTail eng q p (((getQueue s eng q).tail + 1) % ptrMod eng) false s) e r l =
      getSlot (updSlot eng q ((getQueue s eng q).tail % slotsOf eng) (stampedSlot p (getObj s (oStepAllocator p))) s) e r l := by
  rw [getSlot_publishNext h, show stampSlots eng q p false [(getQueue s eng q).tail % slotsOf eng] s = stampStep eng q p ((getQueue s eng q).tail % slotsOf eng) s from rfl,
    stampStep_own p _ hown]
  rfl

/-- A slot once its command is stamped from the fallback counter (R313). -/
def fallbackSlot (p step : Nat) (y : Slot) : Slot := { y with part := p, step := step, fallback := true, phase := .waiting, run := Run.init }

theorem getSlot_publishNext_fallback {eng q : Nat} {s : State} (h : (getQueue s eng q).tail < ptrMod eng) (p e r l : Nat) :
    getSlot (publishTail eng q p (((getQueue s eng q).tail + 1) % ptrMod eng) true s) e r l =
      getSlot (updSlot eng q ((getQueue s eng q).tail % slotsOf eng) (fallbackSlot p (getPart s p).fbAllocator) s) e r l := by
  rw [getSlot_publishNext h]
  rfl

/-! ### Gaps (R274, R287) -/

/-- A stream's partition is not among what a gap writes. -/
theorem execSourceGap_missing {k : Nat} {s : State} (hl : Live s) (hrun : seqState s k = 2 ∨ seqState s k = 3) (hwaits : (getSeq s k).waits = none)
    (hlate : 4 * dueOf s k (getSeq s k).mNext + sourceSpan s k < 4 * cycle s) :
    let x := getSeq s k
    exec (.sourceGap k) s = .next (handFrames k (seqUp s k * (x.mNext - 1) + 1) (seqUp s k * x.mNext + 1)
      (capture 0x0402 (seqPart s k) k x.mNext 0 0 (setObj (oSeqSrcFrame k) x.mNext (addObj (oSeqGaps k) 1
        (setSeq k { x with mNext := x.mNext + 1, gapBefore := true } s))))) := by
  intro x
  have hpart : seqPart (setObj (oSeqSrcFrame k) x.mNext (addObj (oSeqGaps k) 1 (setSeq k { x with mNext := x.mNext + 1, gapBefore := true } s))) k = seqPart s k := by
    rw [seqPart, getObj_setObj_other _ _ (by unfold oSeqPartition oSeqSrcFrame; omega), getObj_addObj_other _ _ (by unfold oSeqPartition oSeqGaps; omega)]
    rfl
  rw [← hpart]
  exact whenLive_eq_next hl (if_pos ⟨hrun, hwaits, hlate⟩)

/-! ### A step of the frame graphs (R277, R282) -/

theorem execPublishStep_chosen {k n eng q : Nat} {l : Loaded} {x : Seq} {i : Inst} {s : State} (hl : Live s) (hchoice : portChoice s = some k)
    (hload : seqLoaded s k = some l) (hhead : seqHead s k = some (x, i, n, eng, q)) : exec (.publishStep k) s = .next (publishOne k l x i n eng q s) := by
  show execPublishStep k s = _
  rw [execPublishStep]
  refine whenLive_eq_next hl ?_
  rw [if_pos hchoice, hload, hhead]

/-- The step of a graph that is not abandoned is written into its slot and published; beside that only the streams change. -/
theorem publishOne_tl {i : Inst} (hkept : i.dropped = false) (k : Nat) (l : Loaded) (x : Seq) (n eng q : Nat) (s : State) :
    ∃ u : State, u.tl = (updSlot eng q ((getQueue s eng q).tail % slotsOf eng) (fun y => { y with words := stepCommand s k l i n }) s).tl ∧ u.now = s.now ∧
      (publishOne k l x i n eng q s).tl = (publishTail eng q (seqPart s k) (((getQueue s eng q).tail + 1) % ptrMod eng) false u).tl := by
  unfold publishOne
  simp only [hkept, Bool.false_and, Bool.false_eq_true, if_false]
  refine ⟨_, ?words, ?now, (apply_ite State.tl ..).trans (ite_self _)⟩
  case words => split <;> rfl
  case now => split <;> rfl

theorem getSlot_of_tl {s t : State} (h : s.tl = t.tl) (e r l : Nat) : getSlot s e r l = getSlot t e r l := by rw [getSlot, h, getSlot]

theorem getQueue_of_tl {s t : State} (h : s.tl = t.tl) (e r : Nat) : getQueue s e r = getQueue t e r := by rw [getQueue, h, getQueue]

/-- A published step: its words, and the stamp of its partition. -/
def publishedSlot (p step : Nat) (words : List Word) (y : Slot) : Slot := stampedSlot p step { y with words := words }

/-- The first step published in a cycle moves its queue's tail and changes its own slot alone. -/
theorem publishOne_first {k n eng q : Nat} {l : Loaded} {x : Seq} {i : Inst} {s : State} (htail : (getQueue s eng q).tail < ptrMod eng)
    (hkept : i.dropped = false) (hfirst : s.now.stamped = []) :
    (getQueue (publishOne k l x i n eng q s) eng q).tail = ((getQueue s eng q).tail + 1) % ptrMod eng ∧
    ∃ step, ∀ e r sl, getSlot (publishOne k l x i n eng q s) e r sl =
      if sKey e r sl = sKey eng q ((getQueue s eng q).tail % slotsOf eng) then publishedSlot (seqPart s k) step (stepCommand s k l i n) (getSlot s e r sl)
      else getSlot s e r sl := by
  obtain ⟨u, htl, hnow, hpub⟩ := publishOne_tl hkept k l x n eng q s
  have hqueue : getQueue u eng q = getQueue s eng q := getQueue_of_tl htl eng q
  have hown : StampsOf eng q u := fun e he => by rw [hnow, hfirst] at he; cases he
  rw [← hqueue] at hpub htail ⊢
  refine ⟨by rw [getQueue_of_tl hpub, tail_publishTail_any], getObj u (oStepAllocator (seqPart s k)), fun e r sl => ?_⟩
  rw [getSlot_of_tl hpub, getSlot_publishNext_own htail hown, getSlot_updSlot_ite, getSlot_of_tl htl, getSlot_updSlot_ite, ← hqueue]
  split
  · rfl
  · rfl

/-! ### A step of a fallback graph (R311 to R313) -/

/-- The next step of the port's first graph, written into queue 4 and published. -/
def fallbackPublished (k : Nat) (l : Loaded) (x : Inst) (i eng : Nat) (s : State) : State :=
  publishTail eng 4 (seqPart s k) (((getQueue s eng 4).tail + 1) % ptrMod eng) true
    (updSlot eng 4 ((getQueue s eng 4).tail % slotsOf eng) (fun y => { y with words := stepCommand s k l x i }) s)

/-- The graph leaves the port with its last step, and otherwise goes on with the next. -/
def fallbackAdvanced (k : Nat) (l : Loaded) (x : Inst) (i last : Nat) (rest : List (Nat × Inst)) (s : State) : State :=
  if (instNext l { x with next := i + 1 }).isNone then
    updWatched k x.o (fun w => { w with fbLast := some last }) { s with st := { s.st with fallback := rest } }
  else { s with st := { s.st with fallback := (k, { x with next := i + 1 }) :: rest } }

theorem fallbackAdvanced_tl (k : Nat) (l : Loaded) (x : Inst) (i last : Nat) (rest : List (Nat × Inst)) (s : State) :
    (fallbackAdvanced k l x i last rest s).tl = s.tl := by
  unfold fallbackAdvanced
  split
  · rfl
  · rfl

section
variable {k i : Nat} {l : Loaded} {x : Inst} {rest : List (Nat × Inst)} {s : State}

theorem execFallbackPublishStep_room (hl : Live s) (hport : s.st.fallback = (k, x) :: rest) (hload : seqLoaded s k = some l) (hnext : instNext l x = some i) :
    let eng := stepEngine s l (stepHead l.fallbacks (graphDesc l.fallbacks x.graph) i)
    queueHeld eng (getQueue s eng 4) < slotsOf eng →
    exec (.fallbackPublishStep k) s =
      .next (fallbackAdvanced k l x i (getPart s (seqPart s k)).fbAllocator rest (fallbackPublished k l x i eng s)) := by
  intro eng hroom
  show execFallbackPublishStep k s = _
  rw [execFallbackPublishStep]
  refine whenLive_eq_next hl ?_
  simp only [hport, hload, hnext]
  exact if_neg fun h => h.elim (fun hk => hk rfl) (Nat.not_le.2 hroom)

theorem fallbackAdvanced_done (last : Nat) (h : instNext l { x with next := i + 1 } = none) : (fallbackAdvanced k l x i last rest s).st.fallback = rest := by
  rw [fallbackAdvanced, h]
  rfl

theorem fallbackAdvanced_more (last : Nat) (h : instNext l { x with next := i + 1 } ≠ none) :
    (fallbackAdvanced k l x i last rest s).st.fallback = (k, { x with next := i + 1 }) :: rest := by
  rw [fallbackAdvanced, if_neg (mt Option.isNone_iff_eq_none.1 h)]

/-- The published step's slot: its words, and the stamp of the fallback counter. -/
theorem getSlot_fallbackPublished {eng : Nat} (htail : (getQueue s eng 4).tail < ptrMod eng) :
    getSlot (fallbackPublished k l x i eng s) eng 4 ((getQueue s eng 4).tail % slotsOf eng) =
      fallbackSlot (seqPart s k) (getPart s (seqPart s k)).fbAllocator
        { getSlot s eng 4 ((getQueue s eng 4).tail % slotsOf eng) with words := stepCommand s k l x i } := by
  have h := getSlot_publishNext_fallback (q := 4)
    (s := updSlot eng 4 ((getQueue s eng 4).tail % slotsOf eng) (fun y => { y with words := stepCommand s k l x i }) s) htail (seqPart s k) eng 4
    ((getQueue s eng 4).tail % slotsOf eng)
  simp only [getQueue_updSlot, getPart_updSlot, getSlot_updSlot] at h
  rw [fallbackPublished, h]

theorem tail_fallbackPublished (eng : Nat) : (getQueue (fallbackPublished k l x i eng s) eng 4).tail = ((getQueue s eng 4).tail + 1) % ptrMod eng :=
  tail_publishTail_any ..

end

/-- Settles O41: a gap by what it writes, and a step of either port by the one slot that its publication stamps. -/
theorem framesArePublished : Obligations.FramesArePublished := by
  refine ⟨fun k s hl hrun hwaits => execSourceGap_missing hl hrun hwaits,
    fun k n eng q l x i s hl hchoice hload hhead => ⟨execPublishStep_chosen hl hchoice hload hhead, fun _ _ htail _ hkept hfirst => ?step⟩,
    fun k i l x rest s hl hport hload hnext => ?fallback⟩
  case step =>
    have hf := publishOne_frame (a0 := k) (a1 := l) (a2 := x) (a3 := i) (a4 := n) (a5 := eng) (a6 := q) (Leaves.refl _ s) (FieldsIn.refl _)
    obtain ⟨hmoved, step, hslot⟩ := publishOne_first (k := k) (n := n) (l := l) (x := x) htail hkept hfirst
    refine ⟨hmoved, ?_, ?_, ?_, fun e q' sl hother => ?_, leaves_ci hf (by decide), leaves_io hf (by decide)⟩
    · rw [hslot, if_pos rfl]; rfl
    · rw [hslot, if_pos rfl]; rfl
    · rw [hslot, if_pos rfl]; rfl
    · rw [hslot, if_neg hother]
  case fallback =>
    intro eng qu htail hroom
    have htl := fallbackAdvanced_tl k l x i (getPart s (seqPart s k)).fbAllocator rest (fallbackPublished k l x i eng s)
    refine ⟨_, execFallbackPublishStep_room hl hport hload hnext hroom, ?_, ?_, ?_, ?_, fallbackAdvanced_done _, fallbackAdvanced_more _⟩
    · rw [getQueue_of_tl htl, tail_fallbackPublished]
    · rw [getSlot_of_tl htl, getSlot_fallbackPublished htail]; rfl
    · rw [getSlot_of_tl htl, getSlot_fallbackPublished htail]; rfl
    · rw [getSlot_of_tl htl, getSlot_fallbackPublished htail]; rfl

end Sys2Proof.Proofs.StepPublication
end

section
namespace Sys2Proof.Proofs.LateFrames
open Sys2Proof Sys2Proof.Machine
open Sys2Proof.Proofs.TensorTile Sys2Proof.Proofs.TransformUnit Sys2Proof.Proofs.FrameStreams

/-- A stream's partition is an object of its own. -/
theorem seqPart_addObj {k key : Nat} (h : oSeqPartition k ≠ key) (n : Nat) (s : State) : seqPart (addObj key n s) k = seqPart s k := getObj_addObj_other _ _ h

/-! ### Checkpoints (R283, R310, R311) -/

section
variable {k : Nat} {w : Watched} {s : State}

/-- The frame of the lowest sequencer that is due is presented from its own picture or switched. -/
theorem execCheckpoint_due (hl : Live s) (hdue : dueCheckpoint s k = some w) (hfirst : ∀ j < k, dueCheckpoint s j = none) :
    exec (.checkpoint k) s = .next (if completeAt s k w = true then
      presentFrame k { w with fallback := some false } false
        (noteSlack k (slackNs s k w.o (w.finishedAt.getD 0)) (updWatched k w.o (fun w => { w with fallback := some false }) s))
      else switchFrame k w s) := by
  have hnone : ¬ ((List.range k).any fun j => (dueCheckpoint s j).isSome) = true := by
    rw [List.any_eq_true]
    rintro ⟨j, hj, hsome⟩
    rw [hfirst j (List.mem_range.1 hj)] at hsome
    cases hsome
  show execCheckpoint k s = _
  rw [execCheckpoint]
  refine whenLive_eq_next hl ?_
  simp only [hdue]
  exact if_neg hnone

/-! ### The late check (R312, R315) -/

/-- The watched frame that is shown from fallback and whose deadline is 50 µs away. -/
def lateDue (s : State) (k : Nat) : Option Watched :=
  (getWatched s k).find? fun w => w.fallback == some true && !w.presented && decide (dOf s k w.o ≤ cycle s + 50 * usTicks)

/-- The last step of a frame's fallback graph has committed. -/
def fallbackDone (s : State) (k : Nat) (w : Watched) : Prop := ∃ n, w.fbLast = some n ∧ n < getObj s (oStepFallback (seqPart s k))

theorem execLateCheck_done (hl : Live s) (hdue : lateDue s k = some w) (hdone : fallbackDone s k w) :
    exec (.lateCheck k) s = .next (presentFrame k w false s) := by
  obtain ⟨n, hlast, hn⟩ := hdone
  rw [lateDue] at hdue
  show execLateCheck k s = _
  rw [execLateCheck]
  refine whenLive_eq_next hl ?_
  simp only [hdue, hlast]
  exact if_pos (decide_eq_true hn)

/-- The record names the frame's partition: counting a late frame changes no sequencer's partition object. -/
theorem execLateCheck_late (hk : k < 128) (hl : Live s) (hdue : lateDue s k = some w) (hlate : ¬ fallbackDone s k w) :
    exec (.lateCheck k) s = .next (presentFrame k w true (capture 0x0408 (seqPart s k) k w.o 0 0 (addObj (oDlmLate k) 1 (addObj oDlmLateTotal 1 s)))) := by
  have hcount : oSeqPartition k ≠ oDlmLate k := by unfold oSeqPartition oDlmLate; omega
  have htotal : oSeqPartition k ≠ oDlmLateTotal := by unfold oSeqPartition oDlmLateTotal; omega
  rw [lateDue] at hdue
  show execLateCheck k s = _
  rw [execLateCheck]
  refine whenLive_eq_next hl ?_
  simp only [hdue]
  rw [seqPart_addObj hcount, seqPart_addObj htotal]
  refine if_neg fun h => hlate ?_
  cases hlast : w.fbLast with
  | none => simp [hlast] at h
  | some n =>
    rw [hlast] at h
    exact ⟨n, hlast, of_decide_eq_true h⟩

end

/-! ### Presents on a raster port (R284) -/

/-- The present of a frame. -/
def presentOf (s : State) (k : Nat) (w : Watched) (late : Bool) : Present :=
  { k := k, o := w.o, d := dOf s k w.o
    pic := (if w.fallback == some true then w.fb else w.primary).getD (noPicture (seqPart s k))
    fallback := w.fallback == some true, late := late, cd := getObj s (oStepCounter (seqPart s k)), serial := s.ci.serial, half := none, reading := true }

/-- A frame counts as presented, in its watch and in the stream's objects. -/
def shownFrame (k : Nat) (w : Watched) (s : State) : State :=
  let t := setObj (oSeqOutFrame k) w.o (updWatched k w.o (fun w => { w with presented := true }) s)
  if w.fallback == some true then addObj (oSeqFallbackFrames k) 1 t else t

theorem getObj_shownFrame_output (k : Nat) (w : Watched) (s : State) : getObj (shownFrame k w s) (oSeqOutput k) = getObj s (oSeqOutput k) := by
  have hframe : oSeqOutput k ≠ oSeqOutFrame k := by unfold oSeqOutput oSeqOutFrame; omega
  have hcount : oSeqOutput k ≠ oSeqFallbackFrames k := by unfold oSeqOutput oSeqFallbackFrames; omega
  unfold shownFrame
  dsimp only
  split
  · rw [getObj_addObj_other _ _ hcount, getObj_setObj_other _ _ hframe, getObj_updWatched]
  · rw [getObj_setObj_other _ _ hframe, getObj_updWatched]

@[simp] theorem getPort_shownFrame (k : Nat) (w : Watched) (s : State) (p : Nat) : getPort (shownFrame k w s) p = getPort s p := by
  unfold shownFrame
  dsimp only
  split
  · rfl
  · rfl

/-- Where the stream's output is a raster port, the present joins those that wait there. -/
theorem presentFrame_port {k : Nat} {s : State} (hout : getObj s (oSeqOutput k) / 4096 = 1) (w : Watched) (late : Bool) :
    let out := getObj s (oSeqOutput k) % 256
    presentFrame k w late s =
      pruneWatched k (setPort out { getPort s out with waiting := (getPort s out).waiting ++ [presentOf s k w late] } (shownFrame k w s)) := by
  have h : presentFrame k w late s =
      let t := shownFrame k w s
      let out := getObj t (oSeqOutput k)
      pruneWatched k (if out / 4096 = 1 then setPort (out % 256) { getPort t (out % 256) with waiting := (getPort t (out % 256)).waiting ++ [presentOf s k w late] } t
        else ringPresent (out % 256) (attachHalf t (presentOf s k w late)) t) := rfl
  rw [h]
  dsimp only
  rw [getObj_shownFrame_output, if_pos hout, getPort_shownFrame]

@[simp] theorem getPort_pruneWatched (k : Nat) (s : State) (p : Nat) : getPort (pruneWatched k s) p = getPort s p := rfl

/-! ### The device's sequencers -/

/-- With the late check read for the 128 sequencers of R270, every clause holds: frames are presented and switched as R284, R310 to R312 and R315 say. -/
theorem checkpointsAndLateFrames_of_lt :
    (∀ (k : Nat) (w : Watched) (s : State), Live s → dueCheckpoint s k = some w → (∀ j < k, dueCheckpoint s j = none) →
      exec (.checkpoint k) s = .next (if completeAt s k w = true then
        presentFrame k { w with fallback := some false } false
          (noteSlack k (slackNs s k w.o (w.finishedAt.getD 0)) (updWatched k w.o (fun w => { w with fallback := some false }) s))
        else switchFrame k w s)) ∧
    (∀ k < 128, ∀ (w : Watched) (s : State), Live s → lateDue s k = some w →
      (fallbackDone s k w → exec (.lateCheck k) s = .next (presentFrame k w false s)) ∧
      (¬ fallbackDone s k w → exec (.lateCheck k) s =
        .next (presentFrame k w true (capture 0x0408 (seqPart s k) k w.o 0 0 (addObj (oDlmLate k) 1 (addObj oDlmLateTotal 1 s)))))) ∧
    (∀ (k : Nat) (w : Watched) (late : Bool) (s : State), getObj s (oSeqOutput k) / 4096 = 1 →
      let out := getObj s (oSeqOutput k) % 256
      let t := presentFrame k w late s
      (getPort t out).waiting = (getPort s out).waiting ++ [presentOf s k w late] ∧ (∀ p, p ≠ out → getPort t p = getPort s p) ∧
      t.tl = s.tl ∧ t.ci = s.ci ∧ t.pt = s.pt ∧ t.alm = s.alm) := by
  refine ⟨fun k w s hl hdue hfirst => execCheckpoint_due hl hdue hfirst,
    fun k hk w s hl hdue => ⟨execLateCheck_done hl hdue, execLateCheck_late hk hl hdue⟩, fun k w late s hout => ?present⟩
  case present =>
    have hf := presentFrame_frame (a0 := k) (a1 := w) (a2 := late) (Leaves.refl _ s) (FieldsIn.refl _)
    refine ⟨?_, fun p hp => ?_, leaves_tl hf (by decide), leaves_ci hf (by decide), leaves_pt hf (by decide), leaves_alm hf (by decide)⟩
    · rw [presentFrame_port hout, getPort_pruneWatched, getPort_setPort]
    · rw [presentFrame_port hout, getPort_pruneWatched, getPort_setPort_other _ _ hp, getPort_shownFrame]

/-! ### A sequencer that no device has -/

/-- A frame shown from fallback, of whose fallback graph nothing is published. -/
def unpublishedFrame : Watched :=
  { o := 0, finish := none, finishedAt := none, fallback := some true, switched := false, fbLast := none, primary := none, fb := none, presented := false }

/-- A running device that watches that frame for number 1536. -/
def strayWatch : State := setWatched 1536 [unpublishedFrame] { State.reset with clk := { State.reset.clk with running := true } }

/-- The partitions of the captures that wait after a command. -/
def capturedParts : Out → List Nat
  | .next t => t.alm.queue.map (·.part)
  | _ => []

/-- Refutes O42: its clause of the late check has no bound on the sequencer. The key of a sequencer's partition object, (0x2B00 + k) * 256 + 2, is at
k = 1536 that of the count of all late frames, 0x3100 * 256 + 2: the frame that is counted changes what that number reads as its partition, and the
record names partition 1 where the statement has 0. -/
theorem not_checkpointsAndLateFrames : ¬ Obligations.CheckpointsAndLateFrames := by
  unfold Obligations.CheckpointsAndLateFrames
  rintro ⟨-, hlate, -⟩
  have hexec := (hlate 1536 unpublishedFrame strayWatch rfl (by decide +kernel)).2 fun n hlast => nomatch hlast
  have hparts : capturedParts (exec (.lateCheck 1536) strayWatch) = [1] := by decide +kernel
  rw [hexec] at hparts
  exact absurd hparts (by decide +kernel)

end Sys2Proof.Proofs.LateFrames
end

section
namespace Sys2Proof.Proofs.SyncUpdates
open Sys2Proof Sys2Proof.Machine
open Sys2Proof.Proofs.TransformUnit

/-! ### Counts of the store -/

/-- A count reads the value that was set, in 32 bits (R330). -/
@[simp] theorem syncCount_setSyncCount (i v : Nat) (s : State) : syncCount (setSyncCount i v s) i = v % 2 ^ 32 := by
  rw [syncCount, setSyncCount, mapGet_mapSet_same, BitVec.toNat_ofNat]

theorem syncCount_setSyncCount_other {o i : Nat} (v : Nat) (s : State) (h : o ≠ i) : syncCount (setSyncCount i v s) o = syncCount s o := by
  rw [syncCount, setSyncCount, mapGet_mapSet_other _ _ _ h, syncCount]

/-! ### Queues of a bank -/

@[simp] theorem classQueue_setClassQueue (k : Bank) (l : List Update) (c : BankClass) : classQueue (setClassQueue k l c) c = l := by
  cases c with
  | lc => rfl
  | be => rfl
  | det => rfl

/-! ### An update that is applied (R333) -/

/-- The count that an update gives its object: its value, or the old count and its value, modulo 2^32 (R330, R333). -/
def newCount (u : Update) (s : State) : Nat := if u.set then u.value % 2 ^ 32 else (syncCount s u.object + u.value) % 2 ^ 32

theorem newCount_lt (u : Update) (s : State) : newCount u s < 2 ^ 32 := by
  unfold newCount
  split
  · exact Nat.mod_lt _ (Nat.two_pow_pos _)
  · exact Nat.mod_lt _ (Nat.two_pow_pos _)

/-- What follows the new count, the performance counter and the watches, writes neither counts nor banks nor held updates. -/
theorem applyUpdate_watches (u : Update) (s : State) :
    Leaves 0x40002012000000800000000005 (setSyncCount u.object (newCount u s) s) (applyUpdate u s) :=
  notifyHosts_frame (notifyQueues_frame (perfCount_frame (Leaves.refl _ _) (FieldsIn.of (FieldsIn.refl _) (by decide))) (FieldsIn.of (FieldsIn.refl _) (by decide)))
    (FieldsIn.of (FieldsIn.refl _) (by decide))

theorem syncCount_applyUpdate (u : Update) (s : State) (o : Nat) : syncCount (applyUpdate u s) o = syncCount (setSyncCount u.object (newCount u s) s) o :=
  congrArg (fun m => (mapGet 0 m o).toNat) ((applyUpdate_watches u s).sy_counts (by decide))

/-- The count of its object is set, or goes up modulo 2^32 (R330, R333). -/
theorem syncCount_applyUpdate_same (u : Update) (s : State) :
    syncCount (applyUpdate u s) u.object = (if u.set then u.value else syncCount s u.object + u.value) % 2 ^ 32 := by
  rw [syncCount_applyUpdate, syncCount_setSyncCount, Nat.mod_eq_of_lt (newCount_lt u s), newCount]
  split
  · rfl
  · rfl

theorem syncCount_applyUpdate_other {o : Nat} {u : Update} (s : State) (h : o ≠ u.object) : syncCount (applyUpdate u s) o = syncCount s o := by
  rw [syncCount_applyUpdate, syncCount_setSyncCount_other _ _ h]

@[simp] theorem getBank_applyUpdate (u : Update) (s : State) (b : Nat) : getBank (applyUpdate u s) b = getBank s b := by
  rw [getBank, (applyUpdate_watches u s).sy_banks (by decide), setSyncCount_sy_banks, getBank]

@[simp] theorem held_applyUpdate (u : Update) (s : State) : (applyUpdate u s).sy.held = s.sy.held := by
  rw [(applyUpdate_watches u s).sy_held (by decide), setSyncCount_sy_held]

/-! ### The update that a bank completes (R320, R352) -/

/-- The first update of a queue leaves it and is applied; then the held ones enter as there is room (R320). -/
theorem applyFrom_cons {b : Nat} {c : BankClass} {u : Update} {rest : List Update} {s : State} (h : classQueue (getBank s b) c = u :: rest) :
    applyFrom b c s = enterHeld s.sy.held.length (applyUpdate u (setBank b (setClassQueue (getBank s b) rest c) s)) := by
  simp only [applyFrom, h, held_applyUpdate, setBank_sy_held]

/-- What scheduled mode left in the DET queue goes before the other queues (log entry 19). -/
theorem nextClass_leftover {b : Nat} {s : State} (hmode : getObj s oDetActive = 0) (hleft : (getBank s b).det ≠ []) : nextClass s b = .det :=
  if_pos ⟨hmode, hleft⟩

/-- In scheduled mode, and with nothing left of it, the latency-critical queue goes first (R320). -/
theorem nextClass_plain {b : Nat} {s : State} (h : getObj s oDetActive = 1 ∨ (getBank s b).det = []) :
    nextClass s b = if (getBank s b).lc = [] then .be else .lc := by
  refine if_neg ?_
  rintro ⟨hmode, hleft⟩
  rcases h with hactive | hempty
  · omega
  · exact hleft hempty

/-- Settles O30: the counter and the watches that follow an update write neither counts nor banks nor held updates. -/
theorem updatesAreApplied : Obligations.UpdatesAreApplied := by
  unfold Obligations.UpdatesAreApplied
  refine ⟨fun b s hl => ?completes, fun u s => ⟨syncCount_applyUpdate_same u s, fun o ho => syncCount_applyUpdate_other s ho, getBank_applyUpdate u s⟩,
    fun b c u rest s hqueue => ?leaves, fun b s => ⟨nextClass_leftover, nextClass_plain⟩⟩
  case completes =>
    show execSyncUpdateApply b s = _
    rw [execSyncUpdateApply, whenLive_eq_next hl rfl]
  case leaves =>
    intro t
    have hheld : t.sy.held = s.sy.held := by rw [held_applyUpdate, setBank_sy_held]
    have happly : applyFrom b c s = enterHeld t.sy.held.length t := by rw [hheld]; exact applyFrom_cons hqueue
    refine ⟨happly, ?_, fun hnone => ?_⟩
    · rw [getBank_applyUpdate, getBank_setBank, classQueue_setClassQueue]
    · rw [happly, hheld, hnone]
      rfl

end Sys2Proof.Proofs.SyncUpdates
end

section
namespace Sys2Proof.Proofs.Partitions
open Sys2Proof Sys2Proof.Machine
open Sys2Proof.Proofs.TransformUnit Sys2Proof.Proofs.CisternStore

/-! ### Each partition command (R297, R298) -/

section
variable {p : Nat} {s : State}

theorem doConfigure_refused {r : Nat} (h : configureRefusal s p = some r) : doConfigure p s = (setPStatus p r s, .quiet) := by
  rw [doConfigure, h]

theorem doConfigure_accepted (h : configureRefusal s p = none) : doConfigure p s = (setPStatus p 0 (applyConfigure p s), .done) := by
  rw [doConfigure, h]

theorem doStart_refused (h : startRefused s p = true) : doStart p s = (setPStatus p 7 s, .quiet) := if_pos h

theorem doStart_accepted (h : startRefused s p = false) : doStart p s = (setPStatus p 0 (setObj (oPartitionState p) 2 s), .done) :=
  if_neg (Bool.eq_false_iff.1 h)

theorem doStop_refused (h : stopRefused s p = true) : doStop p s = (setPStatus p 8 s, .quiet) := if_pos h

theorem doStop_accepted (h : stopRefused s p = false) : doStop p s = (setPStatus p 0 (startReset p 1 0 s), .done) := if_neg (Bool.eq_false_iff.1 h)

theorem doReset_accepted (h : pState s p = 2 ∨ pState s p = 3) : doReset p s = (setPStatus p 0 (startReset p (faultState s p) 0 s), .done) := if_pos h

theorem doReset_refused (h2 : pState s p ≠ 2) (h3 : pState s p ≠ 3) : doReset p s = (setPStatus p 9 s, .quiet) := if_neg (not_or.2 ⟨h2, h3⟩)

end

/-! ### A partition command that is served (R298, R354, R560) -/

/-- With step 10 done and outside DET, a command of the register is carried out at once. -/
theorem wPartitionCommand_open {m p v : Nat} {s : State} (hv : 1 ≤ v ∧ v ≤ 4) (hstep : stepDone s 10 = true) (hdet : isDet s p = false) :
    wPartitionCommand m p v s = doPartition p v s := by
  rw [wPartitionCommand, if_neg (not_not.2 hv), if_neg (by rw [hstep]; exact Bool.noConfusion), if_neg (by rw [hdet]; exact Bool.noConfusion)]

section
variable {m p : Nat} {s : State} (hs : Serves m s) (hstep : stepDone s 10 = true) (hdet : isDet s p = false)
include hs hstep hdet

theorem execPartitionConfigure_open : exec (.partitionConfigure m p) s = .next (ackWrite (oPartitionCommand p) (doConfigure p s)).1 := by
  show execPartitionConfigure m p s = _
  rw [execPartitionConfigure, whenFree_eq_next hs rfl, wPartitionCommand_open (by decide) hstep hdet]
  rfl

theorem execPartitionStart_open : exec (.partitionStart m p) s = .next (ackWrite (oPartitionCommand p) (doStart p s)).1 := by
  show execPartitionStart m p s = _
  rw [execPartitionStart, whenFree_eq_next hs rfl, wPartitionCommand_open (by decide) hstep hdet]
  rfl

theorem execPartitionStop_open : exec (.partitionStop m p) s = .next (ackWrite (oPartitionCommand p) (doStop p s)).1 := by
  show execPartitionStop m p s = _
  rw [execPartitionStop, whenFree_eq_next hs rfl, wPartitionCommand_open (by decide) hstep hdet]
  rfl

theorem execPartitionReset_open : exec (.partitionReset m p) s = .next (ackWrite (oPartitionCommand p) (doReset p s)).1 := by
  show execPartitionReset m p s = _
  rw [execPartitionReset, whenFree_eq_next hs rfl, wPartitionCommand_open (by decide) hstep hdet]
  rfl

end

/-! ### Loans (R304 to R306) -/

/-- Every tile of the fold of the named one is lent (R160, R304). -/
def lendFold (p : Nat) (s : State) : State :=
  (foldTiles s (getObj s (oLoanTile p))).foldl
    (fun a u => lendTile p u (getObj s (oLoanBanks p)) (getField a (oLoanQueues p) 3 0) (getObj a (oLoanBorrower p)) a) s

section
variable {m p v : Nat} {s : State}

/-- While a reclaim runs no loan command is accepted (log entry 42). -/
theorem wLoanCommand_reclaiming (hv : 1 ≤ v ∧ v ≤ 3) (h : (getPart s p).reclaiming ≠ []) :
    wLoanCommand m p v s = (refuse m (oLoanCommand p) 2 v s, .refused 2) := by
  rw [wLoanCommand, if_neg (not_not.2 hv), if_pos h]

section
variable (hidle : (getPart s p).reclaiming = [])
include hidle

theorem wLoanCommand_lend_refused {r : Nat} (h : lendRefusal s p = some r) :
    wLoanCommand m p 1 s = (setLoanStatus p r (getObj s (oLoanTile p)) (getObj s (oLoanBanks p)) s, .quiet) := by
  rw [wLoanCommand, if_neg (by decide), if_neg (not_not.2 hidle), if_pos rfl, h]

theorem wLoanCommand_lend_accepted (h : lendRefusal s p = none) :
    wLoanCommand m p 1 s = (setLoanStatus p 0 (getObj s (oLoanTile p)) (getObj s (oLoanBanks p)) (lendFold p s), .done) := by
  rw [wLoanCommand, if_neg (by decide), if_neg (not_not.2 hidle), if_pos rfl, h, lendFold]

theorem wLoanCommand_reclaimTile (h : loansOn s p (getObj s (oLoanTile p)) ≠ []) :
    wLoanCommand m p 2 s = (startReclaim p [(foldTiles s (getObj s (oLoanTile p))).headD (getObj s (oLoanTile p))] s, .done) := by
  rw [wLoanCommand, if_neg (by decide), if_neg (not_not.2 hidle), if_neg (by decide), if_pos rfl, if_neg h]

theorem wLoanCommand_reclaimAll (h : lentList s p ≠ []) : wLoanCommand m p 3 s = (startReclaim p (lentList s p) s, .done) := by
  rw [wLoanCommand, if_neg (by decide), if_neg (not_not.2 hidle), if_neg (by decide), if_neg (by decide), if_neg h]

end

section
variable (hs : Serves m s)
include hs

theorem execLend_served : exec (.lend m p) s = .next (ackWrite (oLoanCommand p) (wLoanCommand m p 1 s)).1 := by
  show execLend m p s = _
  rw [execLend, whenFree_eq_next hs rfl]

theorem execReclaimTile_served : exec (.reclaimTile m p) s = .next (ackWrite (oLoanCommand p) (wLoanCommand m p 2 s)).1 := by
  show execReclaimTile m p s = _
  rw [execReclaimTile, whenFree_eq_next hs rfl]

theorem execReclaimAll_served : exec (.reclaimAll m p) s = .next (ackWrite (oLoanCommand p) (wLoanCommand m p 3 s)).1 := by
  show execReclaimAll m p s = _
  rw [execReclaimAll, whenFree_eq_next hs rfl]

end

/-- With its kills complete and its queues empty once the jobs are marked, the tile of a reclaim returns (R306). -/
theorem execReclaimComplete_empty {u : Nat} {rest : List Nat} (hl : Live s) (htile : (getPart s p).reclaiming = u :: rest)
    (hkilled : (loansOn s p u).all (loanKilled s) = true)
    (hempty : ((loansOn (markLent p u s) p u).all fun l => loanEmpty (markLent p u s) l && loanKilled (markLent p u s) l) = true) :
    exec (.reclaimComplete p) s = .next (finishReclaim p u (markLent p u s)) := by
  show execReclaimComplete p s = _
  rw [execReclaimComplete]
  refine whenLive_eq_next hl ?_
  simp only [htile]
  rw [if_pos hkilled, if_pos hempty]

end

/-- Settles O31: each command register, outside DET and with no reclaim under way, comes to the effect of its command or to its first failed check. -/
theorem partitionAndLoanCommands : Obligations.PartitionAndLoanCommands := by
  unfold Obligations.PartitionAndLoanCommands
  refine ⟨fun m p s hs hstep hdet => ?partition, fun m p s hs => ⟨fun hidle => ?loan, fun hreclaim => ?busy⟩,
    fun p s hl u rest htile hkilled hempty => execReclaimComplete_empty hl htile hkilled hempty⟩
  case partition =>
    rw [execPartitionConfigure_open hs hstep hdet, execPartitionStart_open hs hstep hdet, execPartitionStop_open hs hstep hdet,
      execPartitionReset_open hs hstep hdet]
    refine ⟨fun h => ?_, fun r h => ?_, fun h => ?_, fun h => ?_, fun h => ?_, fun h => ?_, fun h => ?_, fun h2 h3 => ?_⟩
    · rw [doConfigure_accepted h, ackWrite_done]
    · rw [doConfigure_refused h, ackWrite_quiet]
    · rw [doStart_accepted h, ackWrite_done]
    · rw [doStart_refused h, ackWrite_quiet]
    · rw [doStop_accepted h, ackWrite_done]
    · rw [doStop_refused h, ackWrite_quiet]
    · rw [doReset_accepted h, ackWrite_done, faultState]
    · rw [doReset_refused h2 h3, ackWrite_quiet]
  case loan =>
    rw [execLend_served hs, execReclaimTile_served hs, execReclaimAll_served hs]
    refine ⟨fun h => ?_, fun r h => ?_, fun h => ?_, fun h => ?_⟩
    · rw [wLoanCommand_lend_accepted hidle h, ackWrite_done, lendFold]
    · rw [wLoanCommand_lend_refused hidle h, ackWrite_quiet]
    · rw [wLoanCommand_reclaimTile hidle h, ackWrite_done]
    · rw [wLoanCommand_reclaimAll hidle h, ackWrite_done]
  case busy => rw [execLend_served hs, wLoanCommand_reclaiming (by decide) hreclaim, ackWrite_refused]

end Sys2Proof.Proofs.Partitions
end

section
namespace Sys2Proof.Proofs.Accounting
open Sys2Proof Sys2Proof.Machine
open Sys2Proof.Proofs.TransformUnit Sys2Proof.Proofs.CisternStore

/-! ### Marks of jobs (R307) -/

section
variable {m p : Nat} {s : State} (hs : Serves m s) (hdet : isDet s p = false) (value : Nat)
include hs hdet

theorem execAcctWithdraw_open : exec (.acctWithdraw m p value) s = .next (touch (oAcctWithdraw p) (markJob p (value % 65536) s)) := by
  show execAcctWithdraw m p value s = _
  rw [execAcctWithdraw, whenFree_eq_next hs rfl, wAcctWithdraw, if_neg (Bool.eq_false_iff.1 hdet), ackWrite_done]

theorem execAcctRestore_open : exec (.acctRestore m p value) s = .next (touch (oAcctRestore p) (unmarkJob p (value % 65536) s)) := by
  show execAcctRestore m p value s = _
  rw [execAcctRestore, whenFree_eq_next hs rfl, wAcctRestore, if_neg (Bool.eq_false_iff.1 hdet), ackWrite_done]

end

/-! ### Records that are cleared (R328, R616) -/

theorem wAcctClear_one {p job : Nat} (m : Nat) (s : State) (h : job < 1024) : wAcctClear m p job s = (clearAcct (p * 1024 + job) s, .done) := by
  rw [wAcctClear, if_neg (by omega), if_pos h]

/-- With nothing charged in this cycle, a clear of all leaves no record of the partition. -/
theorem wAcctClear_all {s : State} (m p : Nat) (h : s.now.charged = []) :
    wAcctClear m p 0xFFFF s = ({ s with pt := { s.pt with accts := s.pt.accts.filter fun e => e.1 / 1024 != p } }, .done) := by
  rw [wAcctClear, if_pos rfl, h]
  rfl

theorem execAcctClear_served {m p value : Nat} {s : State} (hs : Serves m s) :
    exec (.acctClear m p value) s = .next (ackWrite (oAcctClear p) (wAcctClear m p (value % 65536) s)).1 := by
  show execAcctClear m p value s = _
  rw [execAcctClear, whenFree_eq_next hs rfl]

/-! ### The window of the records (R328) -/

theorem objWidth_acctCursor : ∀ p < 16, objWidth (oAcctCursor p) = 32 := by decide +kernel

/-- With no latch at the cursor, the word of the record there is read. -/
theorem readAcct_value {p : Nat} {s : State} (h : acctLatched s p (getObj s (oAcctCursor p) % 8192) = none) :
    (readAcct p s).1 = acctWord (getAcct s (p * 1024 + getObj s (oAcctCursor p) % 8192 / 8)) (getObj s (oAcctCursor p) % 8192 % 8) := by
  simp only [readAcct, h, Option.getD_none]

@[simp] theorem readAcct_out (p : Nat) (s : State) : (readAcct p s).2.out = s.out := rfl

@[simp] theorem getAcct_readAcct (p : Nat) (s : State) (k : Nat) : getAcct (readAcct p s).2 k = getAcct s k := rfl

/-- The cursor moves on to the next of 8192 words. -/
theorem getObj_readAcct_cursor {p : Nat} (hp : p < 16) (s : State) :
    getObj (readAcct p s).2 (oAcctCursor p) = (getObj s (oAcctCursor p) % 8192 + 1) % 8192 := by
  have hword : (getObj s (oAcctCursor p) % 8192 + 1) % 8192 < 2 ^ 32 := by omega
  simp only [readAcct, getObj_setObj, objWidth_acctCursor p hp, Nat.mod_eq_of_lt hword]

@[simp] theorem getObj_answer (m v : Nat) (s : State) (k : Nat) : getObj (answer m v s) k = getObj s k := rfl

@[simp] theorem getAcct_answer (m v : Nat) (s : State) (k : Nat) : getAcct (answer m v s) k = getAcct s k := rfl

theorem execAcctDataRead_served {m : Nat} {s : State} (hs : Serves m s) (p : Nat) :
    exec (.acctDataRead m p) s = .next (answer m (readAcct p s).1 (readAcct p s).2) := by
  show execAcctDataRead m p s = _
  rw [execAcctDataRead, whenFree_eq_next hs rfl]

/-! ### The window of a page that is peeked at (R361) -/

theorem readPeek_some {p v : Nat} {s : State} (h : peekWord s p = some v) :
    readPeek p s = (v, setObj (oReplayPeekCursor p) (setBits (getObj s (oReplayPeekCursor p)) 38 2 (bits (getObj s (oReplayPeekCursor p)) 38 2 + 1)) s) := by
  rw [readPeek, h]

theorem readPeek_none {p : Nat} {s : State} (h : peekWord s p = none) : readPeek p s = (0, s) := by
  rw [readPeek, h]

theorem execPeekDataRead_served {m : Nat} {s : State} (hs : Serves m s) (p : Nat) :
    exec (.peekDataRead m p) s = .next (answer m (readPeek p s).1 (readPeek p s).2) := by
  show execPeekDataRead m p s = _
  rw [execPeekDataRead, whenFree_eq_next hs rfl]

/-! ### Admission points (R354, R363) -/

/-- The events that take effect at an admission point, each with its partition. -/
def pointEvents (s : State) : List (Nat × DetEvent) := (detParts s).flatMap fun p => (dueEvents s p).map fun e => (p, e)

/-- They wait no longer: those of the point's own cycle stay. -/
def withoutDue (s : State) : State :=
  (detParts s).foldl (fun s p => updPart p (fun x => { x with detPending := x.detPending.drop (dueEvents s p).length }) s) s

theorem execAdmissionPoint_due {s : State} (hl : Live s) (hstarted : s.clk.started = true) (hcycle : cycle s % getObj s oDetQuantum = 0) (hparts : detParts s ≠ []) :
    exec .admissionPoint s =
      .next (noticeCuts ((sortOn (fun e => eventRank e.2) (pointEvents s)).foldl (fun s e => takeEvent e.1 e.2 s) (withoutDue s))) := by
  show execAdmissionPoint s = _
  rw [execAdmissionPoint]
  exact whenLive_eq_next hl (if_pos ⟨hstarted, hcycle, hparts⟩)

/-- Settles O32: the accounting registers and windows, and the admission point with the conditions of its cycle met. -/
theorem accountingPeekAndAdmission : Obligations.AccountingPeekAndAdmission := by
  unfold Obligations.AccountingPeekAndAdmission
  refine ⟨fun m p value s hs => ⟨fun hdet => ⟨execAcctWithdraw_open hs hdet value, execAcctRestore_open hs hdet value⟩, fun hjob => ?clearOne, fun hall hnone => ?clearAll,
    fun hlatch => ?record, fun v hv => ?peek, fun hnone => ?nothing⟩, fun s hl hstarted hcycle hparts => execAdmissionPoint_due hl hstarted hcycle hparts⟩
  case clearOne => rw [execAcctClear_served hs, wAcctClear_one m s hjob, ackWrite_done, clearAcct]
  case clearAll => rw [execAcctClear_served hs, hall, wAcctClear_all m p hnone, ackWrite_done]
  case record =>
    refine ⟨_, execAcctDataRead_served hs p, ?_, fun hp => ?_, fun k => ?_⟩
    · rw [answer_out, readAcct_out, readAcct_value hlatch]
    · rw [getObj_answer, getObj_readAcct_cursor hp]
    · rw [getAcct_answer, getAcct_readAcct]
  case peek => rw [execPeekDataRead_served hs, readPeek_some hv]
  case nothing => rw [execPeekDataRead_served hs, readPeek_none hnone]

end Sys2Proof.Proofs.Accounting
end

section
namespace Sys2Proof.Proofs.SyncObjects
open Sys2Proof Sys2Proof.Machine
open Sys2Proof.Proofs.TransformUnit Sys2Proof.Proofs.CisternStore

/-! ### The wait condition (R331) -/

/-- On two words the model's difference is that of the words. -/
theorem waitHolds_toNat (count value : BitVec 32) : waitHolds count.toNat value.toNat = decide ((count - value).toNat < 2 ^ 31) := by
  have hcount := count.isLt
  have hvalue := value.isLt
  rw [waitHolds, BitVec.toNat_sub, Nat.mod_eq_of_lt hvalue,
    show count.toNat + 2 ^ 32 - value.toNat = 2 ^ 32 - value.toNat + count.toNat by omega]

/-- Settles O21: the model's difference of two words is theirs modulo 2^32. -/
theorem waitConditionIsModular : Obligations.WaitConditionIsModular := by
  unfold Obligations.WaitConditionIsModular
  intro count value
  rw [waitHolds_toNat, decide_eq_true_iff]

/-! ### Reads of a count (R335) -/

section
variable {m o : Nat} {s : State}

theorem readCount_applied (h : masterWaits s m o = false) : readCount m o false s = answer m (syncCount s o) s := by
  rw [readCount, if_neg (Bool.eq_false_iff.1 h)]
  rfl

theorem readCount_waits (usdo : Bool) (h : masterWaits s m o = true) : readCount m o usdo s = setParked m [.answer o usdo] s := if_pos h

end

/-! ### The sync window outside a fill and under one (R339, R340) -/

theorem filling_of_none {s : State} (h : s.sy.fill = none) : filling s = false := by rw [filling, h]; rfl

theorem filling_of_ne_none {s : State} (h : s.sy.fill ≠ none) : filling s = true := Option.isSome_iff_ne_none.2 h

section
variable {m : Nat} {s : State}

theorem readSyncData_idle (usdo : Bool) (h : s.sy.fill = none) :
    readSyncData m usdo s = readCount m (getObj s oSyncCursor % 65536) usdo (syncNext s) := by
  rw [readSyncData, filling_of_none h]
  rfl

theorem wSync_idle (key : Nat) (set : Bool) (v : Nat) (h : s.sy.fill = none) :
    wSync m key set v s = (syncNext (softUpdate m (getObj s oSyncCursor % 65536) set v s), .done) := by
  rw [wSync, filling_of_none h]
  rfl

theorem wSync_filling (key : Nat) (set : Bool) (v : Nat) (h : s.sy.fill ≠ none) : wSync m key set v s = (refuse m key 2 v s, .refused 2) := by
  rw [wSync, if_pos (filling_of_ne_none h)]

/-- A fill of 1 to 65536 objects starts at the cursor (R340). -/
theorem wSyncFill_start (h : s.sy.fill = none) (hpos : 0 < getObj s oSyncFillCount) (hle : getObj s oSyncFillCount ≤ 65536) :
    wSyncFill m 1 s =
      (setSyncStatus 0xFF (getObj s oSyncFillCount)
        { s with sy := { s.sy with fill := some { next := getObj s oSyncCursor % 65536, left := getObj s oSyncFillCount,
                                                  value := getObj s oSyncFillValue, master := m } } }, .done) := by
  have hcount : ¬(getObj s oSyncFillCount = 0 ∨ 65536 < getObj s oSyncFillCount) := by omega
  simp only [wSyncFill, filling_of_none h, hcount, ne_eq, not_true_eq_false, if_false, Bool.false_eq_true]

section
variable (hs : Serves m s)
include hs

theorem execSyncDataRead_served : exec (.syncDataRead m) s = .next (readSyncData m false s) := by
  show execSyncDataRead m s = _
  rw [execSyncDataRead, whenFree_eq_next hs rfl]

theorem execSyncDataWrite_served (value : Nat) : exec (.syncDataWrite m value) s = .next (ackWrite oSyncData (wSync m oSyncData true value s)).1 := by
  show execSyncDataWrite m value s = _
  rw [execSyncDataWrite, whenFree_eq_next hs rfl]

theorem execSyncAdd_served (value : Nat) : exec (.syncAdd m value) s = .next (ackWrite oSyncAdd (wSync m oSyncAdd false value s)).1 := by
  show execSyncAdd m value s = _
  rw [execSyncAdd, whenFree_eq_next hs rfl]

theorem execSyncFill_served : exec (.syncFill m) s = .next (ackWrite oSyncFillCommand (wSyncFill m 1 s)).1 := by
  show execSyncFill m s = _
  rw [execSyncFill, whenFree_eq_next hs rfl]

end

end

/-! ### A fill at work and over (R340, R345) -/

/-- While its source holds no update, a fill sends the set update of its next object. -/
theorem fillSome_sends {f : Fill} {s : State} (hleft : f.left ≠ 0) (hfree : sourceHolds s (.fill f.master) = false) (n : Nat) :
    fillSome (n + 1) f s = fillSome n { f with next := (f.next + 1) % 65536, left := f.left - 1 }
      (sendUpdate { object := f.next, set := true, value := f.value, source := .fill f.master, part := 16 } s) := by
  rw [fillSome, if_neg (not_or.2 ⟨hleft, Bool.eq_false_iff.1 hfree⟩)]

/-- The end of a fill: status 0 and the cursor after its last object. -/
def fillOver (f : Fill) (s : State) : State := setSyncStatus 0 0 (setObj oSyncCursor f.next { s with sy := { s.sy with fill := none } })

theorem execSyncFillComplete_over {f : Fill} {s : State} (hl : Live s) (hfill : s.sy.fill = some f) (hleft : f.left = 0)
    (hfree : sourceHolds s (.fill f.master) = false) : exec .syncFillComplete s = .next (fillOver f s) := by
  show execSyncFillComplete s = _
  rw [execSyncFillComplete]
  refine whenLive_eq_next hl ?_
  simp only [hfill]
  exact if_pos ⟨hleft, hfree⟩

theorem objWidth_syncCursor : objWidth oSyncCursor = 32 := by decide +kernel

theorem getObj_fillOver_cursor (f : Fill) (s : State) : getObj (fillOver f s) oSyncCursor = f.next % 2 ^ 32 := by
  rw [fillOver, setSyncStatus, getObj_setObj_other _ _ (by decide), getObj_setObj, objWidth_syncCursor]

theorem getObj_fillOver_status (f : Fill) (s : State) : getObj (fillOver f s) oSyncStatus = 0 := by
  rw [fillOver, setSyncStatus, getObj_setObj, Nat.zero_mul, Nat.zero_mod]

theorem fillOver_otherObjects (f : Fill) (s : State) : OtherObjects [oSyncCursor, oSyncStatus] s (fillOver f s) := by
  intro k hk
  obtain ⟨hcursor, hstatus⟩ : k ≠ oSyncCursor ∧ k ≠ oSyncStatus := by simpa using hk
  rw [fillOver, setSyncStatus, getObj_setObj_other _ _ hstatus, getObj_setObj_other _ _ hcursor]
  rfl

/-! ### The aperture (R341) -/

section
variable {port off : Nat} {set : Bool} {s : State}

theorem apertureAccess_write32 (v : Nat) (h : off % 4 = 0) :
    apertureAccess port set off (.write 4 0xF v) s = softUpdate (port + 1) (off / 4 % 65536) set (v % 2 ^ 32) s :=
  if_pos ⟨rfl, h, rfl⟩

/-- A 64-bit write is two updates, the lower address first. -/
theorem apertureAccess_write64 (v : Nat) (h : off % 8 = 0) :
    apertureAccess port set off (.write 8 0xFF v) s =
      softUpdate (port + 1) (off / 4 % 65536 + 1) set (v / 2 ^ 32 % 2 ^ 32) (softUpdate (port + 1) (off / 4 % 65536) set (v % 2 ^ 32) s) := by
  rw [apertureAccess, if_neg (by omega), if_pos ⟨rfl, h, rfl⟩]

theorem apertureAccess_write_ignored {n e : Nat} (v : Nat) (h32 : n ≠ 4 ∨ off % 4 ≠ 0 ∨ e ≠ 0xF) (h64 : n ≠ 8 ∨ off % 8 ≠ 0 ∨ e ≠ 0xFF) :
    apertureAccess port set off (.write n e v) s = s :=
  (if_neg (by omega)).trans (if_neg (by omega))

theorem apertureAccess_read32 (h : off % 4 = 0) : apertureAccess port set off (.read 4) s = readCount (port + 1) (off / 4 % 65536) false s :=
  if_pos ⟨rfl, h⟩

theorem apertureAccess_read_other {n : Nat} (h : n ≠ 4 ∨ off % 4 ≠ 0) :
    apertureAccess port set off (.read n) s = answer (port + 1) (2 ^ (8 * n) - 1) s :=
  if_neg (by omega)

theorem execApertureAdd_served (hs : Serves (port + 1) s) (a : BusOp) :
    exec (.apertureAdd port off a) s = .next (apertureAccess port false off a s) := by
  show execApertureAdd port off a s = _
  rw [execApertureAdd, whenFree_eq_next hs rfl]

theorem execApertureSet_served (hs : Serves (port + 1) s) (a : BusOp) :
    exec (.apertureSet port off a) s = .next (apertureAccess port true off a s) := by
  show execApertureSet port off a s = _
  rw [execApertureSet, whenFree_eq_next hs rfl]

end

/-! ### Host watches (R342, R346) -/

/-- The bit that was set reads the value (R6). -/
theorem bit_setBit (v n : Nat) (b : Bool) : bit (setBit v n b) n = b := by
  have hfield := bits_setBits v n n (if b then 1 else 0)
  rw [bits, Nat.add_sub_cancel_left, pow_one] at hfield
  rw [bit, setBit, hfield]
  cases b with
  | false => rfl
  | true => rfl

section
variable {m w v : Nat} {s : State}

theorem wHostWatch_arm (h : bit v 15 = true) :
    wHostWatch m w v s =
      (let t := setObj (oHostWatchControl w) (v &&& 0x8FFF) s
       let o := getObj t (oHostWatchObject w)
       sendProbe (.hostWatch w) 16 o { t with sy := { s.sy with hostArmed := mapPut s.sy.hostArmed w (o, getObj t (oHostWatchValue w)) } }, .done) :=
  if_pos h

theorem wHostWatch_disarm (h : bit v 15 = false) :
    wHostWatch m w v s =
      ({ setObj (oHostWatchControl w) (v &&& 0x8FFF) s with sy := { s.sy with hostArmed := mapErase s.sy.hostArmed w } }, .done) :=
  if_neg (Bool.eq_false_iff.1 h)

theorem execHostWatchArm_served (hs : Serves m s) (value : Nat) :
    exec (.hostWatchArm m w value) s = .next (ackWrite (oHostWatchControl w) (wHostWatch m w (setBit (value % 65536) 15 true) s)).1 := by
  show execHostWatchArm m w value s = _
  rw [execHostWatchArm, whenFree_eq_next hs rfl]

theorem execHostWatchDisarm_served (hs : Serves m s) (value : Nat) :
    exec (.hostWatchDisarm m w value) s = .next (ackWrite (oHostWatchControl w) (wHostWatch m w (setBit (value % 65536) 15 false) s)).1 := by
  show execHostWatchDisarm m w value s = _
  rw [execHostWatchDisarm, whenFree_eq_next hs rfl]

end

/-! ### Unmasking a vector (R346) -/

/-- A port with a vector unmasked and no message of it pending. -/
def openVector (vector : Nat) (p : Pcie) : Pcie :=
  { p with unmasked := if p.unmasked.contains vector then p.unmasked else vector :: p.unmasked, msixPending := p.msixPending.filter (· != vector) }

theorem mem_unmasked_openVector (vector : Nat) (p : Pcie) : vector ∈ (openVector vector p).unmasked := by
  unfold openVector
  split
  case isTrue h => exact List.contains_iff_mem.1 h
  case isFalse => exact List.mem_cons_self

theorem not_mem_msixPending_openVector (vector : Nat) (p : Pcie) : vector ∉ (openVector vector p).msixPending := by
  simp [openVector]

section
variable {port vector : Nat} {s : State}

theorem unmaskVector_pending (h : vector ∈ (getPcie s port).msixPending) :
    unmaskVector port vector s = emit (.msix port vector) (notePosted port (setPcie port (openVector vector (getPcie s port)) s)) :=
  if_pos (List.contains_iff_mem.2 h)

theorem unmaskVector_not_pending (h : vector ∉ (getPcie s port).msixPending) :
    unmaskVector port vector s = setPcie port (openVector vector (getPcie s port)) s :=
  if_neg (mt List.contains_iff_mem.1 h)

end

@[simp] theorem getPcie_emit (e : Emission) (s : State) (port : Nat) : getPcie (emit e s) port = getPcie s port := rfl

/-- The port afterwards, but for its stall timer. -/
theorem getPcie_unmaskVector (port vector : Nat) (s : State) :
    ∃ n, getPcie (unmaskVector port vector s) port = { openVector vector (getPcie s port) with lastSent := n } := by
  by_cases h : vector ∈ (getPcie s port).msixPending
  · exact ⟨cycle s, by rw [unmaskVector_pending h, getPcie_emit, notePosted, getPcie_setPcie, getPcie_setPcie]; rfl⟩
  · exact ⟨(getPcie s port).lastSent, by rw [unmaskVector_not_pending h, getPcie_setPcie]; rfl⟩

theorem getPcie_unmaskVector_other {port j : Nat} (vector : Nat) (s : State) (h : j ≠ port) :
    getPcie (unmaskVector port vector s) j = getPcie s j := by
  by_cases hp : vector ∈ (getPcie s port).msixPending
  · rw [unmaskVector_pending hp, getPcie_emit, notePosted, getPcie_setPcie_other _ _ h, getPcie_setPcie_other _ _ h]
  · rw [unmaskVector_not_pending hp, getPcie_setPcie_other _ _ h]

theorem unmaskVector_out (port vector : Nat) (s : State) :
    (unmaskVector port vector s).out = if vector ∈ (getPcie s port).msixPending then .msix port vector :: s.out else s.out := by
  split
  case isTrue h => rw [unmaskVector_pending h]; rfl
  case isFalse h => rw [unmaskVector_not_pending h]; rfl

/-- The dictionary, the tiles, the Cistern and the sync store stay as they are. -/
theorem unmaskVector_rest (port vector : Nat) (s : State) :
    (unmaskVector port vector s).objs = s.objs ∧ (unmaskVector port vector s).tl = s.tl ∧ (unmaskVector port vector s).ci = s.ci ∧
      (unmaskVector port vector s).sy = s.sy := by
  by_cases h : vector ∈ (getPcie s port).msixPending
  · rw [unmaskVector_pending h]
    exact ⟨rfl, rfl, rfl, rfl⟩
  · rw [unmaskVector_not_pending h]
    exact ⟨rfl, rfl, rfl, rfl⟩

theorem execMsixVectorUnmask_live {s : State} (hl : Live s) (port vector : Nat) :
    exec (.msixVectorUnmask port vector) s = .next (unmaskVector port vector s) := by
  show execMsixVectorUnmask port vector s = _
  rw [execMsixVectorUnmask, whenLive_eq_next hl rfl]

/-- Settles O29: each access of the window, the aperture and the watches has one outcome in its case; of a vector that is unmasked only its port changes. -/
theorem syncWindowsWatchesAndVectors : Obligations.SyncWindowsWatchesAndVectors := by
  unfold Obligations.SyncWindowsWatchesAndVectors
  refine ⟨fun m value s hs => ?window, fun f s hl hfill hleft hfree => ?complete, fun f s hleft hfree n => fillSome_sends hleft hfree n,
    fun port off a s hs => ?aperture, fun m w value s hs => ?watch, fun port vector s hl => ?vector⟩
  case window =>
    rw [execSyncDataRead_served hs, execSyncDataWrite_served hs, execSyncAdd_served hs, execSyncFill_served hs]
    refine ⟨fun hidle happlied => ?_, fun hidle hwaits => ?_, fun hidle => ⟨?_, ?_⟩, fun hfill => ⟨?_, ?_⟩, fun hidle hpos hle => ?_⟩
    · rw [readSyncData_idle false hidle, readCount_applied happlied]
      rfl
    · rw [readSyncData_idle false hidle, readCount_waits false hwaits]
    · rw [wSync_idle _ _ _ hidle, ackWrite_done]
    · rw [wSync_idle _ _ _ hidle, ackWrite_done]
    · rw [wSync_filling _ _ _ hfill, ackWrite_refused]
    · rw [wSync_filling _ _ _ hfill, ackWrite_refused]
    · rw [wSyncFill_start hidle hpos hle, ackWrite_done]
  case complete =>
    exact ⟨fillOver f s, execSyncFillComplete_over hl hfill hleft hfree, rfl, getObj_fillOver_cursor f s, getObj_fillOver_status f s, fillOver_otherObjects f s⟩
  case aperture =>
    rw [execApertureAdd_served hs, execApertureSet_served hs]
    refine ⟨?_, ?_, ?_, ?_, ?_⟩
    · rintro v hoff rfl
      exact ⟨by rw [apertureAccess_write32 v hoff], by rw [apertureAccess_write32 v hoff]⟩
    · rintro v hoff rfl
      exact ⟨by rw [apertureAccess_write64 v hoff], by rw [apertureAccess_write64 v hoff]⟩
    · rintro hoff rfl happlied
      exact ⟨by rw [apertureAccess_read32 hoff, readCount_applied happlied], by rw [apertureAccess_read32 hoff, readCount_applied happlied]⟩
    · rintro n hother rfl
      rw [apertureAccess_read_other hother]
    · rintro n e v h32 h64 rfl
      rw [apertureAccess_write_ignored v h32 h64]
  case watch =>
    rw [execHostWatchArm_served hs, execHostWatchDisarm_served hs, wHostWatch_arm (bit_setBit _ _ _), wHostWatch_disarm (bit_setBit _ _ _), ackWrite_done,
      ackWrite_done]
    exact ⟨rfl, rfl⟩
  case vector =>
    obtain ⟨n, hport⟩ := getPcie_unmaskVector port vector s
    refine ⟨unmaskVector port vector s, execMsixVectorUnmask_live hl port vector, ?_, ?_, unmaskVector_out port vector s,
      fun j hj => getPcie_unmaskVector_other vector s hj, unmaskVector_rest port vector s⟩
    · rw [hport]
      exact mem_unmasked_openVector vector (getPcie s port)
    · rw [hport]
      exact not_mem_msixPending_openVector vector (getPcie s port)

end Sys2Proof.Proofs.SyncObjects
end

section
namespace Sys2Proof.Proofs.RasterOutput
open Sys2Proof Sys2Proof.Machine
open Sys2Proof.Proofs.TransformUnit

/-! ### The fill of a line buffer (R384) -/

@[simp] theorem getPort_refreshLevel (p : Nat) (s : State) (j : Nat) : getPort (refreshLevel p s) j = getPort s j := rfl

theorem refreshLevel_otherObjects (p : Nat) (s : State) : OtherObjects [oRasterLevel p, oRasterFill p] s (refreshLevel p s) := by
  intro k hk
  obtain ⟨hlevel, hfill⟩ : k ≠ oRasterLevel p ∧ k ≠ oRasterFill p := by simpa using hk
  rw [refreshLevel, getObj_setObj_other _ _ hlevel, getObj_setObj_other _ _ hfill]

/-! ### What paths and streams read of a port -/

@[simp] theorem pathOut_setPort (p : Nat) (x : Port) (s : State) (q : Nat) : pathOut (setPort p x s) q = pathOut s q := rfl

@[simp] theorem streamOf_setPort (p : Nat) (x : Port) (s : State) (output : Bool) (kind index : Nat) :
    streamOf (setPort p x s) output kind index = streamOf s output kind index := rfl

@[simp] theorem streamOf_setRing (r : Nat) (x : Ring) (s : State) (output : Bool) (kind index : Nat) :
    streamOf (setRing r x s) output kind index = streamOf s output kind index := rfl

section
variable {port : Nat} {s : State}

/-! ### The fetch of a line (R383, R385) -/

theorem execLineFetch_current {pr : Present} (hl : Live s) (hon : outputOn s port = true) (hroom : (getPort s port).entries.length < 16)
    (hload : (getPort s port).loading = none) (hheld : (getPort s port).held = false) (hcur : (getPort s port).current = some pr)
    (hline : (getPort s port).nextFetch < (portLines s port).1) (hnear : (getPort s port).nextFetch < (getPort s port).slotLine + 16) :
    exec (.lineFetch port) s = .next (setPort port (addEntry (getPort s port) (getPort s port).nextFetch) s) := by
  have hready : ¬ (outputOn s port = false ∨ 16 ≤ (getPort s port).entries.length) := by
    simpa [hon] using hroom
  have hfront : (getPort s port).current.isSome ∧ (getPort s port).loading.isNone ∧ (getPort s port).held = false ∧
      (getPort s port).nextFetch < (portLines s port).1 := by
    simpa [hcur, hload, hheld] using hline
  show execLineFetch port s = _
  refine whenLive_eq_next hl ?_
  dsimp only
  rw [if_neg hready, if_pos hfront, if_pos hnear]

/-- The entries of a line buffer once a fetched line stands in its own. -/
def filledEntries (line : Nat) (bs : List Byte) (es : List LineEntry) : List LineEntry :=
  es.map fun e => if e.line = line ∧ e.st = .fetching then { e with st := .filled, bytes := bs } else e

/-- A line of the frame in progress stands in its entry; besides, at most the read epoch of the present closes. -/
theorem execLineFetchComplete_current {pr : Present} {line : Nat} (hl : Live s) (hload : (getPort s port).loading = none)
    (hcur : (getPort s port).current = some pr) (hline : (getPort s port).slotLine ≤ line)
    (hfetch : ∃ e ∈ (getPort s port).entries, e.line = line ∧ e.st = .fetching) :
    ∃ c, exec (.lineFetchComplete port line) s = .next (refreshLevel port (setPort port { getPort s port with
      entries := filledEntries line (pictureLine s pr line (portLineBytes s port)) (getPort s port).entries, current := c } s)) := by
  have hany : ((getPort s port).entries.any fun e => e.line == line && e.st == .fetching) = true := by
    simpa using hfetch
  have htimely : decide (line < (getPort s port).slotLine) = false := decide_eq_false (Nat.not_lt.2 hline)
  show ∃ c, execLineFetchComplete port line s = _
  by_cases hlast : (portLines s port).1 ≤ line + 1
  · refine ⟨some pr.closed, whenLive_eq_next hl ?_⟩
    simp [hload, hcur, hany, htimely, hlast, filledEntries]
  · refine ⟨some pr, whenLive_eq_next hl ?_⟩
    simp [hload, hcur, hany, htimely, hlast, filledEntries]

/-! ### The compare of two pictures (R389) -/

/-- Two presents have the same bytes in every line of a port. -/
def SamePicture (s : State) (port : Nat) (a b : Present) : Prop :=
  ∀ l < (portLines s port).1, pictureLine s a l (portLineBytes s port) = pictureLine s b l (portLineBytes s port)

theorem all_pictureLine_iff (a b : Present) :
    ((List.range (portLines s port).1).all fun l =>
      pictureLine s a l (portLineBytes s port) == pictureLine s b l (portLineBytes s port)) = true ↔ SamePicture s port a b := by
  simp [SamePicture]

theorem execStaticCompareComplete_waiting {pr old : Present} {rest : List Present} (hl : Live s) (hload : (getPort s port).loading = none)
    (hwait : (getPort s port).waiting = pr :: rest) (hfull : (getPort s port).lastFull = some old) (hvt : vtOn s port = true)
    (hbefore : cycle s < pr.d) :
    ∃ v, (v = some pr.o ∨ v = none) ∧ (v = some pr.o ↔ SamePicture s port pr old) ∧
      exec (.staticCompareComplete port) s = .next (setPort port { getPort s port with equalFor := v } s) := by
  show ∃ v, _ ∧ _ ∧ execStaticCompareComplete port s = _
  have hgo : vtOn s port = true ∧ cycle s < pr.d := ⟨hvt, hbefore⟩
  by_cases hsame : SamePicture s port pr old
  · refine ⟨some pr.o, .inl rfl, by simp [hsame], whenLive_eq_next hl ?_⟩
    simp [hload, hwait, hfull, hgo, (all_pictureLine_iff pr old).2 hsame]
  · refine ⟨none, .inr rfl, by simp [hsame], whenLive_eq_next hl ?_⟩
    simp only [hload, hwait, hfull, Option.toList_none, List.nil_append, List.head?_cons, if_pos hgo,
      if_neg (mt (all_pictureLine_iff pr old).1 hsame)]

/-! ### Line slots (R376, R388) -/

/-- A port whose next line slot has begun. -/
def slotBegun (port : Nat) (s : State) : State :=
  setPort port { getPort s port with slotLine := (getPort s port).slotLine + 1 } s

/-- The slot that is next on a port is due: not the first of the frame, and of no pass-through path. -/
structure SlotDue (port : Nat) (s : State) : Prop where
  on : outputOn s port = true
  started : (getPort s port).start ≠ 0
  time : (getPort s port).start + portSpan s port (getPort s port).slotLine ≤ cycle s
  path : pathOut s port = none
  behind : 0 < (getPort s port).slotLine
  inFrame : (getPort s port).slotLine < (portLines s port).2

theorem SlotDue.goes (h : SlotDue port s) :
    ¬ (outputOn s port = false ∨ (portLines s port).2 ≤ (getPort s port).slotLine ∨ (getPort s port).start = 0 ∨
      cycle s < (getPort s port).start + portSpan s port (getPort s port).slotLine) := by
  obtain ⟨on, started, time, -, -, inFrame⟩ := h
  simp [on, started, time, inFrame]

theorem execLineSlot_active {pr : Present} (hl : Live s) (h : SlotDue port s) (hactive : (getPort s port).slotLine < (portLines s port).1)
    (hcur : (getPort s port).current = some pr) (hheld : (getPort s port).held = false) :
    exec (.lineSlot port) s = .next (noteFill port (sendLine port (getPort s port).slotLine pr (slotBegun port s))) := by
  show execLineSlot port s = _
  refine whenLive_eq_next hl ?_
  simp [slotBegun, h.goes, h.path, h.behind.ne', hactive, hcur, hheld]

theorem execLineSlot_blank (hl : Live s) (h : SlotDue port s) (hblank : (portLines s port).1 ≤ (getPort s port).slotLine) :
    exec (.lineSlot port) s = .next (blankLine port (getPort s port).slotLine (slotBegun port s)) := by
  show execLineSlot port s = _
  refine whenLive_eq_next hl ?_
  simp [slotBegun, h.goes, h.path, h.behind.ne', hblank.not_gt]

/-! ### Frame boundaries (R288, R532) -/

/-- The boundary noted by the stream of an output, where one runs. -/
def noteStream (k : Option Nat) (idx : Nat) (s : State) : State := k.elim s fun k => noteBoundary k idx s

/-- The cycle of an output's next boundary. -/
def boundaryAt (s : State) (output : Nat) (g : Gen) : Nat := genAt (rateHz (outParams s output).1) g g.next

theorem execOutputFrameBoundary_port {g : Gen} (hl : Live s) (hp : port < 8) (hg : (getPort s port).gen = some g)
    (hdue : boundaryAt s port g ≤ cycle s) :
    exec (.outputFrameBoundary port) s = .next (beginFrame port (boundaryAt s port g) (stopPaths port
      (noteStream (streamOf s true 1 port) g.next (setPort port { getPort s port with gen := some g.advance } s)))) := by
  have hout : outGen s port = some g := by rw [outGen, if_pos hp, hg]
  show execOutputFrameBoundary port s = _
  refine whenLive_eq_next hl ?_
  unfold boundaryAt at hdue ⊢
  simp only [hout, hdue.not_gt, hp, if_true, if_false, setOutGen, streamOf_setPort, noteStream]
  cases streamOf s true 1 port <;> rfl

theorem execOutputFrameBoundary_ring {r k : Nat} {g : Gen} (hl : Live s) (hg : (getRing s r).gen = some g)
    (hdue : boundaryAt s (8 + r) g ≤ cycle s) (hk : streamOf s true 2 r = some k) :
    exec (.outputFrameBoundary (8 + r)) s = .next (noteBoundary k g.next (setRing r { getRing s r with gen := some g.advance } s)) := by
  have hr : ¬ 8 + r < 8 := by omega
  have hout : outGen s (8 + r) = some g := by rw [outGen, if_neg hr, Nat.add_sub_cancel_left, hg]
  show execOutputFrameBoundary (8 + r) s = _
  refine whenLive_eq_next hl ?_
  unfold boundaryAt at hdue
  simp only [hout, hdue.not_gt, hr, if_false, setOutGen, Nat.add_sub_cancel_left, streamOf_setRing, hk]

end

/-- Settles O44: each event of an output has one outcome in its case; the compare's rests on the lines of the two pictures. -/
theorem outputLinesAndFrames : Obligations.OutputLinesAndFrames := by
  unfold Obligations.OutputLinesAndFrames
  intro port s hl
  refine ⟨?fetch, ?complete, ?compare, ?slot, ?boundary, ?ring⟩
  case fetch =>
    rintro hon hroom hload hheld ⟨pr, hcur⟩ hline hnear
    exact execLineFetch_current hl hon hroom hload hheld hcur hline hnear
  case complete =>
    intro pr line hload hcur hline hfetch
    obtain ⟨c, hexec⟩ := execLineFetchComplete_current hl hload hcur hline hfetch
    exact ⟨_, hexec, by rw [getPort_refreshLevel, getPort_setPort]; rfl, rfl, refreshLevel_otherObjects port _⟩
  case compare =>
    intro pr rest old hload hwait hfull hvt hbefore
    obtain ⟨v, hv, hiff, hexec⟩ := execStaticCompareComplete_waiting hl hload hwait hfull hvt hbefore
    exact ⟨_, hexec, by rw [getPort_setPort]; exact hiff, by rw [getPort_setPort]; exact hv, rfl⟩
  case slot =>
    intro hon hstart htime hpath
    exact ⟨fun pr hbehind hactive hin hcur hheld => execLineSlot_active hl ⟨hon, hstart, htime, hpath, hbehind, hin⟩ hactive hcur hheld,
      fun hbehind hblank hin => execLineSlot_blank hl ⟨hon, hstart, htime, hpath, hbehind, hin⟩ hblank⟩
  case boundary =>
    intro g hp hg hdue
    rw [execOutputFrameBoundary_port hl hp hg hdue]
    cases streamOf s true 1 port <;> rfl
  case ring => exact fun r g k hg hdue hk => execOutputFrameBoundary_ring hl hg hdue hk

end Sys2Proof.Proofs.RasterOutput
end

section
namespace Sys2Proof.Proofs.MutePaths
open Sys2Proof Sys2Proof.Machine
open Sys2Proof.Proofs.TransformUnit Sys2Proof.Proofs.CisternStore

/-! ### A word of selected bits -/

/-- The word whose bits below `n` are those that `f` selects. -/
def selectWord (n : Nat) (f : Nat → Bool) : Nat := sumNat (((List.range n).filter f).map (2 ^ ·))

theorem selectWord_succ (n : Nat) (f : Nat → Bool) : selectWord (n + 1) f = if f n then 2 ^ n + selectWord n f else selectWord n f := by
  cases h : f n <;> simp [selectWord, sumNat, List.range_succ, h, Nat.add_comm]

theorem selectWord_lt (n : Nat) (f : Nat → Bool) : selectWord n f < 2 ^ n := by
  induction n with
  | zero => exact Nat.one_pos
  | succ n ih =>
    rw [selectWord_succ, Nat.pow_succ]
    split <;> omega

theorem testBit_selectWord {n p : Nat} (f : Nat → Bool) (h : p < n) : (selectWord n f).testBit p = f p := by
  induction n with
  | zero => omega
  | succ n ih =>
    have htop : (selectWord n f).testBit n = false := Nat.testBit_lt_two_pow (selectWord_lt n f)
    rw [selectWord_succ]
    obtain hp | rfl := Nat.lt_succ_iff_lt_or_eq.1 h
    · split
      · rw [Nat.testBit_two_pow_add_gt hp, ih hp]
      · exact ih hp
    · split
      case isTrue hf => rw [Nat.testBit_two_pow_add_eq, htop, hf]; rfl
      case isFalse hf => rw [htop, Bool.eq_false_of_not_eq_true hf]

theorem bit_eq_testBit (v n : Nat) : bit v n = v.testBit n := by
  rw [Nat.testBit_eq_decide_div_mod_eq]
  rfl

/-! ### The mute request (R396) -/

theorem objWidth_muteState : objWidth oAudioMuteState = 8 := by decide +kernel

theorem objWidth_muteEvents : objWidth oAudioMuteEvents = 32 := by decide +kernel

/-- A capture changes the Almanac and what counts its captures, and one object. -/
theorem capture_changes (code part inst p0 p1 p2 : Nat) (s : State) :
    let t := capture code part inst p0 p1 p2 s
    t = { s with objs := t.objs, now := t.now, alm := t.alm, fw := t.fw } := by
  unfold capture
  split <;> rfl

theorem refreshMute_standing {s : State} (h : muteStands s = true) :
    refreshMute s = setObj oAudioMuteState (selectWord 8 fun p => objBit s oAudioMutePorts p && outputOn s p) s := by
  rw [refreshMute, if_pos h]
  rfl

theorem refreshMute_idle {s : State} (h : muteStands s = false) : refreshMute s = setObj oAudioMuteState 0 s := by
  rw [refreshMute, if_neg (by simp [h])]

theorem refreshMute_otherObjects (s : State) : OtherObjects [oAudioMuteState] s (refreshMute s) :=
  fun k hk => getObj_setObj_other _ _ (by simpa using hk)

/-- While a mute stands, a port reads muted exactly where it is selected and an enabled output. -/
theorem objBit_refreshMute {s : State} {p : Nat} (h : muteStands s = true) (hp : p < 8) :
    objBit (refreshMute s) oAudioMuteState p = (objBit s oAudioMutePorts p && outputOn s p) := by
  rw [refreshMute_standing h, objBit, getObj_setObj, objWidth_muteState, bit_eq_testBit, Nat.testBit_mod_two_pow, decide_eq_true hp, Bool.true_and,
    testBit_selectWord _ hp]

/-- The state at a request that has come: muted, and neither counted nor recorded yet. -/
def muteRaised (s : State) : State :=
  refreshMute { s with
    now := { s.now with mute := some (s.now.mute.getD (getObj s oAudioMuteState)) }
    io := { s.io with lands := { s.io.lands with muteLevel := true, muteHold := none } } }

theorem muteRaised_otherObjects (s : State) : OtherObjects [oAudioMuteState] s (muteRaised s) := refreshMute_otherObjects _

/-- The request counted and recorded. -/
def muteCounted (s : State) : State :=
  capture 0x0504 31 0 (getObj (muteRaised s) oAudioMuteState) 0 0 (addObj oAudioMuteEvents 1 (muteRaised s))

theorem getObj_muteCounted_other {k : Nat} (s : State) (hevents : k ≠ oAudioMuteEvents) (hlost : k ≠ oAlmanacLost) :
    getObj (muteCounted s) k = getObj (muteRaised s) k := by
  rw [muteCounted, getObj_capture_other _ _ _ _ _ _ _ hlost, getObj_addObj_other _ _ hevents]

theorem getObj_muteCounted_events (s : State) : getObj (muteCounted s) oAudioMuteEvents = (getObj s oAudioMuteEvents + 1) % 2 ^ 32 := by
  rw [muteCounted, getObj_capture_other _ _ _ _ _ _ _ (by decide), getObj_addObj, objWidth_muteEvents, muteRaised_otherObjects s _ (by decide)]

theorem startMute_fresh {s : State} (h : muteStands s = false) (hmuted : getObj (muteRaised s) oAudioMuteState ≠ 0) :
    startMute s = muteCounted s :=
  if_pos ⟨by rw [h]; rfl, hmuted⟩

theorem startMute_eq_or (s : State) : startMute s = muteCounted s ∨ startMute s = muteRaised s :=
  ite_eq_or_eq ..

theorem getObj_startMute_state (s : State) : getObj (startMute s) oAudioMuteState = getObj (muteRaised s) oAudioMuteState := by
  obtain h | h := startMute_eq_or s <;> rw [h]
  exact getObj_muteCounted_other s (by decide) (by decide)

theorem startMute_otherObjects (s : State) : OtherObjects [oAudioMuteState, oAudioMuteEvents, oAlmanacLost] s (startMute s) := by
  intro k hk
  obtain ⟨hstate, hevents, hlost⟩ : k ≠ oAudioMuteState ∧ k ≠ oAudioMuteEvents ∧ k ≠ oAlmanacLost := by simpa using hk
  have hraised : getObj (muteRaised s) k = getObj s k := muteRaised_otherObjects s k (by simpa using hstate)
  obtain h | h := startMute_eq_or s <;> rw [h]
  · rw [getObj_muteCounted_other s hevents hlost, hraised]
  · exact hraised

theorem startMute_changes (s : State) :
    let t := startMute s
    t = { s with objs := t.objs, io := { s.io with lands := { s.io.lands with muteLevel := true, muteHold := none } }, now := t.now, alm := t.alm, fw := t.fw } := by
  obtain h | h := startMute_eq_or s <;> rw [h]
  · exact capture_changes ..
  · rfl

theorem startMute_lands (s : State) : (startMute s).io.lands = { s.io.lands with muteLevel := true, muteHold := none } := by
  rw [startMute_changes s]

section
variable {s : State}

theorem execMuteRequest_raised (hl : Live s) (hland : muteLand s = true) (hlow : s.io.lands.muteLevel = false) :
    exec .muteRequest s = .next (startMute s) := by
  show execMuteRequest s = _
  exact whenLive_eq_next hl (if_pos ⟨hland, hlow⟩)

theorem execMuteRelease_released (hl : Live s) (hland : muteLand s = true) (hhigh : s.io.lands.muteLevel = true) :
    exec .muteRelease s = .next { s with io := { s.io with lands := { s.io.lands with
      muteLevel := false, muteHold := some (ticks s + getObj s oAudioMuteHold * 1000 * usTicks) } } } := by
  show execMuteRelease s = _
  refine whenLive_eq_next hl ?_
  rw [if_pos hland, releaseMute, if_pos hhigh]

theorem execMuteHoldExpiry_over {h : Nat} (hl : Live s) (hhold : s.io.lands.muteHold = some h) (hover : h ≤ ticks s) :
    exec .muteHoldExpiry s = .next (refreshMute { s with io := { s.io with lands := { s.io.lands with muteHold := none } } }) := by
  show execMuteHoldExpiry s = _
  refine whenLive_eq_next hl ?_
  rw [hhold]
  exact if_pos hover

/-! ### Pass-through paths (R488) -/

theorem wPassthru_start (m j : Nat) (hup : s.fw.weirUp = true) (hrestart : s.fw.weirRestart = none) (h : pathResult s j = 0) :
    wPassthru m j 1 s = (setPath j Path.init (setObj (oPassthruState j) 1 (setObj (oPassthruStatus j) 0 s)), .done) := by
  simp [wPassthru, hup, hrestart, h]

theorem wPassthru_start_fails (m j : Nat) (hup : s.fw.weirUp = true) (hrestart : s.fw.weirRestart = none) (h : pathResult s j ≠ 0) :
    wPassthru m j 1 s = (setObj (oPassthruStatus j) (pathResult s j * 2 ^ 24) s, .quiet) := by
  simp [wPassthru, hup, hrestart, h]

/-- The status and the state of a path are two objects. -/
theorem getObj_passthruState_status (j v : Nat) (s : State) :
    getObj (setObj (oPassthruStatus j) v s) (oPassthruState j) = getObj s (oPassthruState j) :=
  getObj_setObj_other _ _ (by unfold oPassthruState oPassthruStatus; omega)

theorem wPassthru_stop (m j : Nat) (h : getObj s (oPassthruState j) = 1) :
    wPassthru m j 2 s = (setObj (oPassthruState j) 2 (setObj (oPassthruStatus j) 0 s), .done) := by
  simp [wPassthru, getObj_passthruState_status, h]

theorem wPassthru_stop_idle (m j : Nat) (h : getObj s (oPassthruState j) ≠ 1) :
    wPassthru m j 2 s = (setObj (oPassthruStatus j) 0 s, .done) := by
  simp [wPassthru, getObj_passthruState_status, h]

variable {m : Nat} (hs : Serves m s) (j : Nat)
include hs

theorem execPassthruStart_served : exec (.passthruStart m j) s = .next (ackWrite (oPassthruCommand j) (wPassthru m j 1 s)).1 := by
  show execPassthruStart m j s = _
  exact whenFree_eq_next hs rfl

theorem execPassthruStop_served : exec (.passthruStop m j) s = .next (ackWrite (oPassthruCommand j) (wPassthru m j 2 s)).1 := by
  show execPassthruStop m j s = _
  exact whenFree_eq_next hs rfl

end

/-- Settles O46: a request's mute word holds the selected ports bit by bit; release, hold and paths have one outcome in each case. -/
theorem muteAndPassthrough : Obligations.MuteAndPassthrough := by
  unfold Obligations.MuteAndPassthrough
  refine ⟨fun s hl _ hland => ⟨fun hlow => ?request, fun hhigh => execMuteRelease_released hl hland hhigh⟩, fun h s hl hhold hover => ?expiry,
    fun m j s hs hup hrestart => ?start, fun m j s hs _ => ?stop⟩
  case request =>
    refine ⟨startMute s, execMuteRequest_raised hl hland hlow, by rw [startMute_lands], by rw [startMute_lands], fun p hp => ?ports, fun hfresh hmuted => ?count,
      startMute_otherObjects s, startMute_changes s⟩
    case ports =>
      rw [objBit, getObj_startMute_state]
      exact objBit_refreshMute rfl hp
    case count =>
      rw [getObj_startMute_state] at hmuted
      rw [startMute_fresh hfresh hmuted, getObj_muteCounted_events]
  case expiry =>
    rw [execMuteHoldExpiry_over hl hhold hover]
    refine ⟨fun hlow => ?_, fun _ => rfl⟩
    rw [refreshMute_idle (by simp [muteStands, hlow])]
  case start =>
    rw [execPassthruStart_served hs]
    refine ⟨fun hgood => ?_, fun hbad => ?_⟩
    · rw [wPassthru_start m j hup hrestart hgood, ackWrite_done]
    · rw [wPassthru_start_fails m j hup hrestart hbad, ackWrite_quiet]
  case stop =>
    rw [execPassthruStop_served hs]
    refine ⟨fun hruns => ?_, fun hidle => ?_⟩
    · rw [wPassthru_stop m j hruns, ackWrite_done]
    · rw [wPassthru_stop_idle m j hidle, ackWrite_done]

end Sys2Proof.Proofs.MutePaths
end

section
namespace Sys2Proof.Proofs.OverlayRasteriser
open Sys2Proof Sys2Proof.Machine
open Sys2Proof.Proofs.TransformUnit Sys2Proof.Proofs.MutePaths

/-! ### The rings at a deadline (R284) -/

section
variable {k o : Nat} {s : State}

/-- A deadline reaches nothing but the rings. -/
theorem attachRings_changes (k o : Nat) (s : State) :
    attachRings k o s = { s with io := { s.io with rings := (attachRings k o s).io.rings } } := by
  unfold attachRings
  dsimp only
  split
  · rfl
  · rfl

theorem attachRings_no_ring (h : getObj s (oSeqOutput k) / 4096 ≠ 2) : attachRings k o s = s := if_neg h

theorem getObj_attachRings (k o : Nat) (s : State) (j : Nat) : getObj (attachRings k o s) j = getObj s j := by
  rw [attachRings_changes]
  rfl

theorem getOverlay_attachRings (k o : Nat) (s : State) (j : Nat) : getOverlay (attachRings k o s) j = getOverlay s j := by
  rw [attachRings_changes]
  rfl

/-! ### Binning (R410, R417) -/

theorem execBinningStart_due (hl : Live s) (hrun : 2 ≤ seqState s k) (hserved : overlayServed s k = true) (ho : (getSeq s k).oNext = o)
    (hbinned : (getOverlay s k).binned ≠ some o) (hframe : (getOverlay s k).frame ≠ some o) (hheld : (getOverlay s k).held = none)
    (hdue : dOf s k o ≤ cycle s + leadSpan s k) :
    let x := getOverlay s k
    let r := buildHalf s k o x.nextId
    exec (.binningStart k) s = .next (addObj (oOverlayDiscarded k) r.2.2 (setOverlay k { x with
      building := some r.1, fail := r.2.1, binned := some o, due := dOf s k o, epochs := layerEpochs s k, nextId := x.nextId + 1 } s)) := by
  subst ho
  show execBinningStart k s = _
  exact whenLive_eq_next hl (if_pos ⟨hrun, hserved, hbinned, hframe, hheld, hdue⟩)

/-! ### The deadline (R410, R419) -/

theorem dueFrame_running (hrun : 2 ≤ seqState s k) (hserved : overlayServed s k = true) (ho : (getSeq s k).oNext = o)
    (hframe : (getOverlay s k).frame ≠ some o) : dueFrame s k = some (o, dOf s k o) := by
  subst ho
  rw [dueFrame, if_pos hrun, if_pos ⟨hserved, hframe⟩]

/-- What the deadline of a frame finds wrong: its binning's failure, or that none has started. -/
def deadlineFail (x : Overlay) (o : Nat) : Option (Nat × Nat × Nat) := if x.binned = some o then x.fail else some (4, 0, 0)

/-- The good half current: counted, and the one before held while a ring uses it. -/
def halfTaken (k o : Nat) (s : State) : State :=
  let x := getOverlay s k
  addObj oOverlayFramesTotal 1 (setOverlay k { x with
    current := x.building, building := none, held := retireHalf s k x.current, frame := some o, epochs := [] } s)

/-- An overlay frame dropped, and the drop counted. -/
def frameDropped (k o : Nat) (f : Nat × Nat × Nat) (s : State) : State :=
  setObj (oOverlayLastOverflow k) (overflowWord f) (addObj (oOverlayOverflows k) 1 (addObj oOverlayOverflowsTotal 1
    (setOverlay k { getOverlay s k with building := none, frame := some o, epochs := [] } s)))

/-- The drop recorded. -/
def dropRecorded (k o : Nat) (f : Nat × Nat × Nat) (s : State) : State :=
  capture 0x0409 (seqPart (frameDropped k o f s) k) k o (overflowWord f) 0 (frameDropped k o f s)

theorem execBinningDeadline_good {d : Nat} (hl : Live s) (hframe : dueFrame s k = some (o, d)) (hdue : d ≤ cycle s + outLines s k 32)
    (hgood : deadlineFail (getOverlay s k) o = none) : exec (.binningDeadline k) s = .next (attachRings k o (halfTaken k o s)) := by
  unfold deadlineFail at hgood
  show execBinningDeadline k s = _
  refine whenLive_eq_next hl ?_
  simp only [hframe, if_pos hdue, hgood]
  rfl

theorem execBinningDeadline_dropped {d : Nat} {f : Nat × Nat × Nat} (hl : Live s) (hframe : dueFrame s k = some (o, d))
    (hdue : d ≤ cycle s + outLines s k 32) (hfail : deadlineFail (getOverlay s k) o = some f) :
    exec (.binningDeadline k) s = .next (attachRings k o (dropRecorded k o f s)) := by
  unfold deadlineFail at hfail
  show execBinningDeadline k s = _
  refine whenLive_eq_next hl ?_
  simp only [hframe, if_pos hdue, hfail]
  rfl

/-- A drop and its record reach the stream's overlay, objects, the Almanac and the recorder's marks. -/
theorem dropRecorded_changes (k o : Nat) (f : Nat × Nat × Nat) (s : State) :
    let t := dropRecorded k o f s
    t = { setOverlay k { getOverlay s k with building := none, frame := some o, epochs := [] } s with
      objs := t.objs, now := t.now, alm := t.alm, fw := t.fw } :=
  capture_changes ..

theorem getOverlay_dropRecorded (k o : Nat) (f : Nat × Nat × Nat) (s : State) :
    getOverlay (dropRecorded k o f s) k = { getOverlay s k with building := none, frame := some o, epochs := [] } := by
  rw [dropRecorded_changes]
  exact getOverlay_setOverlay ..

theorem getOverlay_dropRecorded_other {j : Nat} (f : Nat × Nat × Nat) (h : j ≠ k) :
    getOverlay (dropRecorded k o f s) j = getOverlay s j := by
  rw [dropRecorded_changes]
  exact getOverlay_setOverlay_other _ _ h

theorem objWidth_overlayOverflows : ∀ k < 128, objWidth (oOverlayOverflows k) = 32 := by decide +kernel

theorem objWidth_overlayLastOverflow : ∀ k < 128, objWidth (oOverlayLastOverflow k) = 32 := by decide +kernel

theorem getObj_dropRecorded_lastOverflow (o : Nat) (f : Nat × Nat × Nat) (s : State) (hk : k < 128) :
    getObj (dropRecorded k o f s) (oOverlayLastOverflow k) = overflowWord f % 2 ^ 32 := by
  have hlost : oOverlayLastOverflow k ≠ oAlmanacLost := by unfold oOverlayLastOverflow oAlmanacLost; omega
  rw [dropRecorded, getObj_capture_other _ _ _ _ _ _ _ hlost, frameDropped, getObj_setObj, objWidth_overlayLastOverflow k hk]

theorem getObj_dropRecorded_overflows (o : Nat) (f : Nat × Nat × Nat) (s : State) (hk : k < 128) :
    getObj (dropRecorded k o f s) (oOverlayOverflows k) = (getObj s (oOverlayOverflows k) + 1) % 2 ^ 32 := by
  have hlost : oOverlayOverflows k ≠ oAlmanacLost := by unfold oOverlayOverflows oAlmanacLost; omega
  have hlast : oOverlayOverflows k ≠ oOverlayLastOverflow k := by unfold oOverlayOverflows oOverlayLastOverflow; omega
  have htotal : oOverlayOverflows k ≠ oOverlayOverflowsTotal := by unfold oOverlayOverflows oOverlayOverflowsTotal; omega
  rw [dropRecorded, getObj_capture_other _ _ _ _ _ _ _ hlost, frameDropped, getObj_setObj_other _ _ hlast, getObj_addObj, getObj_addObj_other _ _ htotal,
    objWidth_overlayOverflows k hk, getObj_setOverlay]

theorem getObj_dropRecorded_output (o : Nat) (f : Nat × Nat × Nat) (s : State) (hk : k < 128) :
    getObj (dropRecorded k o f s) (oSeqOutput k) = getObj s (oSeqOutput k) := by
  have hlost : oSeqOutput k ≠ oAlmanacLost := by unfold oSeqOutput oAlmanacLost; omega
  have hlast : oSeqOutput k ≠ oOverlayLastOverflow k := by unfold oSeqOutput oOverlayLastOverflow; omega
  have hcount : oSeqOutput k ≠ oOverlayOverflows k := by unfold oSeqOutput oOverlayOverflows; omega
  have htotal : oSeqOutput k ≠ oOverlayOverflowsTotal := by unfold oSeqOutput oOverlayOverflowsTotal; omega
  rw [dropRecorded, getObj_capture_other _ _ _ _ _ _ _ hlost, frameDropped, getObj_setObj_other _ _ hlast, getObj_addObj_other _ _ hcount,
    getObj_addObj_other _ _ htotal, getObj_setOverlay]

/-- The deadline of a frame without a good half leaves a ring's frames aside where the output is no ring. -/
theorem attachRings_dropRecorded (f : Nat × Nat × Nat) (hk : k < 128) (hout : getObj s (oSeqOutput k) / 4096 ≠ 2) :
    attachRings k o (dropRecorded k o f s) = dropRecorded k o f s :=
  attachRings_no_ring (by rwa [getObj_dropRecorded_output o f s hk])

/-- It reaches no tile, no store, no partition and, of the ports, the rings alone. -/
theorem attachRings_dropRecorded_rest (k o : Nat) (f : Nat × Nat × Nat) (s : State) :
    let t := attachRings k o (dropRecorded k o f s)
    t.tl = s.tl ∧ t.ci = s.ci ∧ t.pt = s.pt ∧ t.io = { s.io with rings := t.io.rings } := by
  rw [attachRings_changes, dropRecorded_changes]
  exact ⟨rfl, rfl, rfl, rfl⟩

/-! ### Strips (R413, R417, R418) -/

theorem execBinRowRender_port {row : Nat} {h : Half} (hl : Live s) (hout : getObj s (oSeqOutput k) / 4096 = 1) (hframe : (getOverlay s k).frame = some o)
    (hcurrent : (getOverlay s k).current = some h) (hrow : 32 * row < h.h)
    (hdue : portD s (getObj s (oSeqOutput k) % 256) k o + outLines s k (32 * row) ≤ cycle s + outLines s k 32)
    (hmoves : frameHeld s (getObj s (oSeqOutput k) % 256) k o = false) : exec (.binRowRender k row) s = .next (setStrip k o row h s) := by
  show execBinRowRender k row s = _
  refine whenLive_eq_next hl ?_
  simp only [if_pos hout, hframe, hcurrent]
  exact if_pos ⟨hrow, hdue, hmoves⟩

theorem execBinRowRender_ring {id : Nat} {f : DmaFrame} {rest : List DmaFrame} {h : Half} (hl : Live s)
    (hout : getObj s (oSeqOutput k) / 4096 ≠ 1) (hfirst : (getRing s (getObj s (oSeqOutput k) % 256)).frames = f :: rest)
    (hattached : f.present.half = some id) (hhalf : halfById (getOverlay s k) id = some h) (hstream : f.present.k = k)
    (hfree : mapFind (getOverlay s k).strips (f.band % 2) = none) (hdue : f.d + outLines s k (32 * f.band) ≤ cycle s + outLines s k 32) :
    exec (.binRowRender k f.band) s = .next (setStrip k f.present.o f.band h s) := by
  show execBinRowRender k f.band s = _
  refine whenLive_eq_next hl ?_
  simp only [if_neg hout, hfirst, hattached, hhalf, true_and]
  exact if_pos ⟨hstream, Option.isNone_iff_eq_none.2 hfree, hdue⟩

theorem getOverlay_setStrip (k o row : Nat) (h : Half) (s : State) :
    getOverlay (setStrip k o row h s) k =
      { getOverlay s k with strips := mapPut (getOverlay s k).strips (row % 2) (o, row, renderRow s.free h row) } :=
  getOverlay_setOverlay ..

end

/-! ### The device's streams -/

/-- With the deadline read for the 128 streams of R423, every clause holds: a half is built, taken or dropped and rendered as R410 and R417 to R419 say. -/
theorem overlayHalves_of_lt :
    (∀ (k : Nat) (s : State), Live s → 2 ≤ seqState s k → overlayServed s k = true →
      let x := getOverlay s k
      let o := (getSeq s k).oNext
      (x.binned ≠ some o → x.frame ≠ some o → x.held = none → dOf s k o ≤ cycle s + leadSpan s k →
        exec (.binningStart k) s = .next (addObj (oOverlayDiscarded k) (buildHalf s k o x.nextId).2.2 (setOverlay k { x with
          building := some (buildHalf s k o x.nextId).1, fail := (buildHalf s k o x.nextId).2.1, binned := some o, due := dOf s k o, epochs := layerEpochs s k
          nextId := x.nextId + 1 } s))) ∧
      (x.frame ≠ some o → dOf s k o ≤ cycle s + outLines s k 32 →
        (deadlineFail x o = none → exec (.binningDeadline k) s = .next (attachRings k o (halfTaken k o s))) ∧
        (∀ f, k < 128 → deadlineFail x o = some f →
          ∃ t, exec (.binningDeadline k) s = .next t ∧ getOverlay t k = { x with building := none, frame := some o, epochs := [] } ∧
            (∀ j, j ≠ k → getOverlay t j = getOverlay s j) ∧ getObj t (oOverlayLastOverflow k) = overflowWord f % 2 ^ 32 ∧
            getObj t (oOverlayOverflows k) = (getObj s (oOverlayOverflows k) + 1) % 2 ^ 32 ∧ t.tl = s.tl ∧ t.ci = s.ci ∧ t.pt = s.pt ∧
            t.io = { s.io with rings := t.io.rings } ∧ (getObj s (oSeqOutput k) / 4096 ≠ 2 → t.io = s.io)))) ∧
    (∀ (k row o : Nat) (h : Half) (s : State), Live s → getObj s (oSeqOutput k) / 4096 = 1 →
      (getOverlay s k).frame = some o → (getOverlay s k).current = some h → 32 * row < h.h →
      portD s (getObj s (oSeqOutput k) % 256) k o + outLines s k (32 * row) ≤ cycle s + outLines s k 32 →
      frameHeld s (getObj s (oSeqOutput k) % 256) k o = false →
      ∃ t, exec (.binRowRender k row) s = .next t ∧ mapFind (getOverlay t k).strips (row % 2) = some (o, row, renderRow s.free h row) ∧
        mapFind (getOverlay t k).strips ((row + 1) % 2) = mapFind (getOverlay s k).strips ((row + 1) % 2) ∧
        t = { s with free := t.free, st := { s.st with overlays := t.st.overlays } }) ∧
    (∀ (k row id : Nat) (f : DmaFrame) (rest : List DmaFrame) (h : Half) (s : State), Live s → getObj s (oSeqOutput k) / 4096 ≠ 1 →
      (getRing s (getObj s (oSeqOutput k) % 256)).frames = f :: rest → f.present.half = some id → halfById (getOverlay s k) id = some h →
      f.present.k = k → f.band = row → mapFind (getOverlay s k).strips (row % 2) = none → f.d + outLines s k (32 * row) ≤ cycle s + outLines s k 32 →
      exec (.binRowRender k row) s = .next (setStrip k f.present.o row h s)) := by
  refine ⟨fun k s hl hrun hserved => ⟨fun hbinned hframe hheld hdue => execBinningStart_due hl hrun hserved rfl hbinned hframe hheld hdue,
      fun hframe hdue => ⟨fun hgood => execBinningDeadline_good hl (dueFrame_running hrun hserved rfl hframe) hdue hgood, fun f hk hfail => ?dropped⟩⟩,
    fun k row o h s hl hout hframe hcurrent hrow hdue hmoves => ?port,
    fun k row id f rest h s hl hout hfirst hattached hhalf hstream hband hfree hdue => ?ring⟩
  case dropped =>
    obtain ⟨htl, hci, hpt, hio⟩ := attachRings_dropRecorded_rest k (getSeq s k).oNext f s
    refine ⟨_, execBinningDeadline_dropped hl (dueFrame_running hrun hserved rfl hframe) hdue hfail, ?_, fun j hj => ?_, ?_, ?_, htl, hci, hpt, hio, fun hout => ?_⟩
    · rw [getOverlay_attachRings, getOverlay_dropRecorded]
    · rw [getOverlay_attachRings, getOverlay_dropRecorded_other f hj]
    · rw [getObj_attachRings, getObj_dropRecorded_lastOverflow _ f s hk]
    · rw [getObj_attachRings, getObj_dropRecorded_overflows _ f s hk]
    · rw [attachRings_dropRecorded f hk hout, dropRecorded_changes]
      rfl
  case port =>
    have hparity : (row + 1) % 2 ≠ row % 2 := by omega
    refine ⟨_, execBinRowRender_port hl hout hframe hcurrent hrow hdue hmoves, ?_, ?_, rfl⟩
    · rw [getOverlay_setStrip, mapFind_mapPut_same]
    · rw [getOverlay_setStrip, mapFind_mapPut_other _ _ hparity]
  case ring =>
    subst hband
    exact execBinRowRender_ring hl hout hfirst hattached hhalf hstream hfree hdue

/-! ### A stream that no device has -/

/-- A running device whose objects, read for a stream 128, show it in service; its count of dropped overlay frames reads 255. -/
def strayStream : State :=
  setObj (oSeqState 128) 2 (setObj (oOverlayEngine 128) 0 (setObj (oOverlayOverflows 128) 255
    { State.reset with clk := { State.reset.clk with running := true } }))

/-- The count of a stream's dropped overlay frames after a command. -/
def overflowsAfter (k : Nat) : Out → Option Nat
  | .next t => some (getObj t (oOverlayOverflows k))
  | _ => none

/-- Refutes O47: its clause of a missing half has no bound on the stream. The key of a stream's overflow count, (0x2680 + k) * 256 + 5, is at k = 128 the
object 0x2700.05, of 8 bits: from 255 the count wraps to 0 where the statement has 256. -/
theorem not_overlayHalves : ¬ Obligations.OverlayHalves := by
  unfold Obligations.OverlayHalves
  rintro ⟨hdeadline, -, -⟩
  obtain ⟨-, hoverlay⟩ := hdeadline 128 strayStream rfl (by decide +kernel) (by decide +kernel)
  obtain ⟨-, hdropped⟩ := hoverlay (by decide +kernel) (by decide +kernel)
  obtain ⟨t, hexec, -, -, -, hcount, -⟩ := hdropped (4, 0, 0) (by decide +kernel)
  have hwrapped : overflowsAfter 128 (exec (.binningDeadline 128) strayStream) = some 0 := by decide +kernel
  have h255 : getObj strayStream (oOverlayOverflows 128) = 255 := by decide +kernel
  rw [hexec, overflowsAfter, hcount, h255] at hwrapped
  exact absurd hwrapped (by decide)

end Sys2Proof.Proofs.OverlayRasteriser
end

section
namespace Sys2Proof.Proofs.Soundness
open Sys2Proof Sys2Proof.Machine

/-! ### What every command keeps -/

/-- Every command keeps a sound state sound: the lemma of its meaning. -/
theorem exec_canonical (i : Instr) {s : State} (h : Canonical s) : CanonOut (exec i s) := by
  cases i with
  | powerGood => exact execPowerGood_canonical h
  | pwrgoodLow => exact execPwrgoodLow_canonical h
  | fuseRead => exact execFuseRead_canonical h
  | defectMapLoad => exact execDefectMapLoad_canonical h
  | linkTraining => exact execLinkTraining_canonical h
  | hbmTraining => exact execHbmTraining_canonical h
  | networkMapApply => exact execNetworkMapApply_canonical h
  | tileSelfTest => exact execTileSelfTest_canonical h
  | resetAlignment => exact execResetAlignment_canonical h
  | rillLoad => exact execRillLoad_canonical h
  | partitionConfiguration => exact execPartitionConfiguration_canonical h
  | defectDataAccess => exact execDefectDataAccess_canonical h
  | tailWrite => exact execTailWrite_canonical h
  | dispatch => exact execDispatch_canonical h
  | retireRefused => exact execRetireRefused_canonical h
  | killComplete => exact execKillComplete_canonical h
  | matrixMultiply => exact execMatrixMultiply_canonical h
  | slidingWindow => exact execSlidingWindow_canonical h
  | fence => exact execFence_canonical h
  | elementAdd => exact execElementAdd_canonical h
  | elementSubtract => exact execElementSubtract_canonical h
  | elementMultiply => exact execElementMultiply_canonical h
  | elementMax => exact execElementMax_canonical h
  | elementMin => exact execElementMin_canonical h
  | elementScaleAdd => exact execElementScaleAdd_canonical h
  | elementAffine => exact execElementAffine_canonical h
  | rectifier => exact execRectifier_canonical h
  | leakyRectifier => exact execLeakyRectifier_canonical h
  | elementClamp => exact execElementClamp_canonical h
  | piecewiseLinearTable => exact execPiecewiseLinearTable_canonical h
  | elementConvert => exact execElementConvert_canonical h
  | rowSum => exact execRowSum_canonical h
  | rowMaximum => exact execRowMaximum_canonical h
  | rowSumOfSquares => exact execRowSumOfSquares_canonical h
  | rowMinimum => exact execRowMinimum_canonical h
  | maxPooling => exact execMaxPooling_canonical h
  | averagePoolingWindow => exact execAveragePoolingWindow_canonical h
  | averagePoolingInput => exact execAveragePoolingInput_canonical h
  | bilinearResampling => exact execBilinearResampling_canonical h
  | bicubicResampling => exact execBicubicResampling_canonical h
  | pixelShuffle => exact execPixelShuffle_canonical h
  | pixelUnshuffle => exact execPixelUnshuffle_canonical h
  | perPixelArgmax => exact execPerPixelArgmax_canonical h
  | zeroRunCompression => exact execZeroRunCompression_canonical h
  | zeroRunExpansion => exact execZeroRunExpansion_canonical h
  | groupedSlidingWindow => exact execGroupedSlidingWindow_canonical h
  | convolution2dTransform => exact execConvolution2dTransform_canonical h
  | convolutionAlongLines => exact execConvolutionAlongLines_canonical h
  | convolutionAlongColumns => exact execConvolutionAlongColumns_canonical h
  | regionCopy => exact execRegionCopy_canonical h
  | cisternLoad => exact execCisternLoad_canonical h
  | cisternStore => exact execCisternStore_canonical h
  | multicastCopy => exact execMulticastCopy_canonical h
  | stem => exact execStem_canonical h
  | head => exact execHead_canonical h
  | scaleAndSharpen => exact execScaleAndSharpen_canonical h
  | gather => exact execGather_canonical h
  | advance => exact execAdvance_canonical h
  | release => exact execRelease_canonical h
  | pyramidBuild => exact execPyramidBuild_canonical h
  | estimate => exact execEstimate_canonical h
  | corners => exact execCorners_canonical h
  | matchCorners => exact execMatchCorners_canonical h
  | warpAndBlend => exact execWarpAndBlend_canonical h
  | copyA => exact execCopyA_canonical h
  | remoteWrite => exact execRemoteWrite_canonical h
  | writeAcknowledgement => exact execWriteAcknowledgement_canonical h
  | commitGrant => exact execCommitGrant_canonical h
  | remoteCommitMessage => exact execRemoteCommitMessage_canonical h
  | commitSignal => exact execCommitSignal_canonical h
  | syncUpdateApply => exact execSyncUpdateApply_canonical h
  | watchNotification => exact execWatchNotification_canonical h
  | cmdDataRead => exact execCmdDataRead_canonical h
  | cmdDataWrite => exact execCmdDataWrite_canonical h
  | queueBindingWrite => exact execQueueBindingWrite_canonical h
  | bankOwnerWrite => exact execBankOwnerWrite_canonical h
  | load => exact execLoad_canonical h
  | loadComplete => exact execLoadComplete_canonical h
  | unload => exact execUnload_canonical h
  | abortLoad => exact execAbortLoad_canonical h
  | flitCheckFailure => exact execFlitCheckFailure_canonical h
  | laneFailure => exact execLaneFailure_canonical h
  | groupRetrainComplete => exact execGroupRetrainComplete_canonical h
  | linkRetrain => exact execLinkRetrain_canonical h
  | linkRetrainComplete => exact execLinkRetrainComplete_canonical h
  | linkRetrainRetry => exact execLinkRetrainRetry_canonical h
  | linkSlip => exact execLinkSlip_canonical h
  | cisternLineRead => exact execCisternLineRead_canonical h
  | scrubRead => exact execScrubRead_canonical h
  | parityUpdate => exact execParityUpdate_canonical h
  | tagSettle => exact execTagSettle_canonical h
  | retiredSlotFree => exact execRetiredSlotFree_canonical h
  | migrateStart => exact execMigrateStart_canonical h
  | migrateAbort => exact execMigrateAbort_canonical h
  | pageMigrationSwitch => exact execPageMigrationSwitch_canonical h
  | retireStack => exact execRetireStack_canonical h
  | pcRetrainStart => exact execPcRetrainStart_canonical h
  | pcRetrainComplete => exact execPcRetrainComplete_canonical h
  | stackLost => exact execStackLost_canonical h
  | rebuildComplete => exact execRebuildComplete_canonical h
  | regionWrite => exact execRegionWrite_canonical h
  | sourceGap => exact execSourceGap_canonical h
  | publishStep => exact execPublishStep_canonical h
  | streamStart => exact execStreamStart_canonical h
  | streamStop => exact execStreamStop_canonical h
  | stopComplete => exact execStopComplete_canonical h
  | forceCut => exact execForceCut_canonical h
  | checkpoint => exact execCheckpoint_canonical h
  | fallbackPublishStep => exact execFallbackPublishStep_canonical h
  | abandonedRetire => exact execAbandonedRetire_canonical h
  | lateCheck => exact execLateCheck_canonical h
  | outputFrameBoundary => exact execOutputFrameBoundary_canonical h
  | partitionConfigure => exact execPartitionConfigure_canonical h
  | partitionStart => exact execPartitionStart_canonical h
  | partitionStop => exact execPartitionStop_canonical h
  | partitionReset => exact execPartitionReset_canonical h
  | resetQueueClear => exact execResetQueueClear_canonical h
  | lend => exact execLend_canonical h
  | reclaimTile => exact execReclaimTile_canonical h
  | reclaimAll => exact execReclaimAll_canonical h
  | reclaimComplete => exact execReclaimComplete_canonical h
  | acctWithdraw => exact execAcctWithdraw_canonical h
  | acctRestore => exact execAcctRestore_canonical h
  | withdrawHead => exact execWithdrawHead_canonical h
  | withdrawalListRetire => exact execWithdrawalListRetire_canonical h
  | acctClear => exact execAcctClear_canonical h
  | acctDataRead => exact execAcctDataRead_canonical h
  | syncDataRead => exact execSyncDataRead_canonical h
  | syncDataWrite => exact execSyncDataWrite_canonical h
  | syncAdd => exact execSyncAdd_canonical h
  | syncFill => exact execSyncFill_canonical h
  | syncFillComplete => exact execSyncFillComplete_canonical h
  | apertureAdd => exact execApertureAdd_canonical h
  | apertureSet => exact execApertureSet_canonical h
  | hostWatchArm => exact execHostWatchArm_canonical h
  | hostWatchDisarm => exact execHostWatchDisarm_canonical h
  | admissionPoint => exact execAdmissionPoint_canonical h
  | peekDataRead => exact execPeekDataRead_canonical h
  | laneBlockLock => exact execLaneBlockLock_canonical h
  | laneLockLoss => exact execLaneLockLoss_canonical h
  | inputSegment port lane seg => exact execInputSegment_canonical (a1 := lane) h
  | lineSlot => exact execLineSlot_canonical h
  | lineFetch => exact execLineFetch_canonical h
  | lineFetchComplete => exact execLineFetchComplete_canonical h
  | staticCompareComplete => exact execStaticCompareComplete_canonical h
  | genlockPulse => exact execGenlockPulse_canonical h
  | genlockLoss => exact execGenlockLoss_canonical h
  | muteRequest => exact execMuteRequest_canonical h
  | muteRelease => exact execMuteRelease_canonical h
  | muteHoldExpiry => exact execMuteHoldExpiry_canonical h
  | binningStart => exact execBinningStart_canonical h
  | binningDeadline => exact execBinningDeadline_canonical h
  | binRowRender => exact execBinRowRender_canonical h
  | doorbellWrite => exact execDoorbellWrite_canonical h
  | outputBandWrite => exact execOutputBandWrite_canonical h
  | inputReadCompletion => exact execInputReadCompletion_canonical h
  | stallLimitExpiry => exact execStallLimitExpiry_canonical h
  | lateAbandon => exact execLateAbandon_canonical h
  | pcieLinkDown => exact execPcieLinkDown_canonical h
  | functionLevelReset => exact execFunctionLevelReset_canonical h
  | pcieFlitRetry port => exact execPcieFlitRetry_canonical (a0 := port) h
  | nmtResetNode => exact execNmtResetNode_canonical h
  | nmtResetCommunication => exact execNmtResetCommunication_canonical h
  | nmtStart => exact execNmtStart_canonical h
  | nmtStop => exact execNmtStop_canonical h
  | nmtPreOperational => exact execNmtPreOperational_canonical h
  | usdoDownload => exact execUsdoDownload_canonical h
  | usdoUpload => exact execUsdoUpload_canonical h
  | syncMessage => exact execSyncMessage_canonical h
  | tpdoEventTimer => exact execTpdoEventTimer_canonical h
  | heartbeatTimer => exact execHeartbeatTimer_canonical h
  | i2cStart => exact execI2cStart_canonical h
  | i2cTransactionComplete => exact execI2cTransactionComplete_canonical h
  | i2cStretchTimeout => exact execI2cStretchTimeout_canonical h
  | i2cDataAccess => exact execI2cDataAccess_canonical h
  | pinFunctionSwitch => exact execPinFunctionSwitch_canonical h
  | ppsEdge => exact execPpsEdge_canonical h
  | ppsLoss => exact execPpsLoss_canonical h
  | lowHalfWrite => exact execLowHalfWrite_canonical h
  | highHalfWrite => exact execHighHalfWrite_canonical h
  | lowHalfRead => exact execLowHalfRead_canonical h
  | absentAccess => exact execAbsentAccess_canonical h
  | objectWrite => exact execObjectWrite_canonical h
  | compatDataRead => exact execCompatDataRead_canonical h
  | fwDataAccess => exact execFwDataAccess_canonical h
  | startRill => exact execStartRill_canonical h
  | rillImageReadComplete => exact execRillImageReadComplete_canonical h
  | stopRill => exact execStopRill_canonical h
  | programBlock => exact execProgramBlock_canonical h
  | copyFromHost => exact execCopyFromHost_canonical h
  | activate => exact execActivate_canonical h
  | verify => exact execVerify_canonical h
  | flashCommandComplete => exact execFlashCommandComplete_canonical h
  | rillKick => exact execRillKick_canonical h
  | rillWatchdogExpiry => exact execRillWatchdogExpiry_canonical h
  | rillException => exact execRillException_canonical h
  | passthruStart => exact execPassthruStart_canonical h
  | passthruStop => exact execPassthruStop_canonical h
  | sensorSample => exact execSensorSample_canonical h
  | tripClockStop => exact execTripClockStop_canonical h
  | hubTripClockStop => exact execHubTripClockStop_canonical h
  | lockstepMismatch => exact execLockstepMismatch_canonical h
  | tileFault => exact execTileFault_canonical h
  | tileMoveComplete => exact execTileMoveComplete_canonical h
  | uncorrectableSramError => exact execUncorrectableSramError_canonical h
  | sramScrub => exact execSramScrub_canonical h
  | motionEngineFault => exact execMotionEngineFault_canonical h
  | recordAppend => exact execRecordAppend_canonical h
  | mirrorProgram => exact execMirrorProgram_canonical h
  | mirrorRegionEraseComplete => exact execMirrorRegionEraseComplete_canonical h
  | almanacDataRead => exact execAlmanacDataRead_canonical h
  | freeze => exact execFreeze_canonical h
  | thaw => exact execThaw_canonical h
  | clearCirculating => exact execClearCirculating_canonical h
  | clearPermanent => exact execClearPermanent_canonical h
  | perfSample => exact execPerfSample_canonical h
  | perfClear => exact execPerfClear_canonical h
  | perfEventWrite => exact execPerfEventWrite_canonical h
  | inputSlotGridFrameStart => exact execInputSlotGridFrameStart_canonical h
  | pcieLinkUp => exact execPcieLinkUp_canonical h
  | completionTimeout => exact execCompletionTimeout_canonical h
  | msixVectorUnmask => exact execMsixVectorUnmask_canonical h
  | pciePowerStateWrite => exact execPciePowerStateWrite_canonical h
  | canBusError => exact execCanBusError_canonical h
  | weirRestartComplete => exact execWeirRestartComplete_canonical h
  | computeDieFault => exact execComputeDieFault_canonical h
  | hubPllLockLoss => exact execHubPllLockLoss_canonical h

/-- Every command leaves the queue, recalls nothing and takes no free value back: the lemma of its meaning. -/
theorem exec_kept (i : Instr) {s : State} {a : State} (h : Kept a s) : KeptOut a (exec i s) := by
  cases i with
  | powerGood => exact execPowerGood_kept h
  | pwrgoodLow => exact execPwrgoodLow_kept h
  | fuseRead => exact execFuseRead_kept h
  | defectMapLoad => exact execDefectMapLoad_kept h
  | linkTraining => exact execLinkTraining_kept h
  | hbmTraining => exact execHbmTraining_kept h
  | networkMapApply => exact execNetworkMapApply_kept h
  | tileSelfTest => exact execTileSelfTest_kept h
  | resetAlignment => exact execResetAlignment_kept h
  | rillLoad => exact execRillLoad_kept h
  | partitionConfiguration => exact execPartitionConfiguration_kept h
  | defectDataAccess => exact execDefectDataAccess_kept h
  | tailWrite => exact execTailWrite_kept h
  | dispatch => exact execDispatch_kept h
  | retireRefused => exact execRetireRefused_kept h
  | killComplete => exact execKillComplete_kept h
  | matrixMultiply => exact execMatrixMultiply_kept h
  | slidingWindow => exact execSlidingWindow_kept h
  | fence => exact execFence_kept h
  | elementAdd => exact execElementAdd_kept h
  | elementSubtract => exact execElementSubtract_kept h
  | elementMultiply => exact execElementMultiply_kept h
  | elementMax => exact execElementMax_kept h
  | elementMin => exact execElementMin_kept h
  | elementScaleAdd => exact execElementScaleAdd_kept h
  | elementAffine => exact execElementAffine_kept h
  | rectifier => exact execRectifier_kept h
  | leakyRectifier => exact execLeakyRectifier_kept h
  | elementClamp => exact execElementClamp_kept h
  | piecewiseLinearTable => exact execPiecewiseLinearTable_kept h
  | elementConvert => exact execElementConvert_kept h
  | rowSum => exact execRowSum_kept h
  | rowMaximum => exact execRowMaximum_kept h
  | rowSumOfSquares => exact execRowSumOfSquares_kept h
  | rowMinimum => exact execRowMinimum_kept h
  | maxPooling => exact execMaxPooling_kept h
  | averagePoolingWindow => exact execAveragePoolingWindow_kept h
  | averagePoolingInput => exact execAveragePoolingInput_kept h
  | bilinearResampling => exact execBilinearResampling_kept h
  | bicubicResampling => exact execBicubicResampling_kept h
  | pixelShuffle => exact execPixelShuffle_kept h
  | pixelUnshuffle => exact execPixelUnshuffle_kept h
  | perPixelArgmax => exact execPerPixelArgmax_kept h
  | zeroRunCompression => exact execZeroRunCompression_kept h
  | zeroRunExpansion => exact execZeroRunExpansion_kept h
  | groupedSlidingWindow => exact execGroupedSlidingWindow_kept h
  | convolution2dTransform => exact execConvolution2dTransform_kept h
  | convolutionAlongLines => exact execConvolutionAlongLines_kept h
  | convolutionAlongColumns => exact execConvolutionAlongColumns_kept h
  | regionCopy => exact execRegionCopy_kept h
  | cisternLoad => exact execCisternLoad_kept h
  | cisternStore => exact execCisternStore_kept h
  | multicastCopy => exact execMulticastCopy_kept h
  | stem => exact execStem_kept h
  | head => exact execHead_kept h
  | scaleAndSharpen => exact execScaleAndSharpen_kept h
  | gather => exact execGather_kept h
  | advance => exact execAdvance_kept h
  | release => exact execRelease_kept h
  | pyramidBuild => exact execPyramidBuild_kept h
  | estimate => exact execEstimate_kept h
  | corners => exact execCorners_kept h
  | matchCorners => exact execMatchCorners_kept h
  | warpAndBlend => exact execWarpAndBlend_kept h
  | copyA => exact execCopyA_kept h
  | remoteWrite => exact execRemoteWrite_kept h
  | writeAcknowledgement => exact execWriteAcknowledgement_kept h
  | commitGrant => exact execCommitGrant_kept h
  | remoteCommitMessage => exact execRemoteCommitMessage_kept h
  | commitSignal => exact execCommitSignal_kept h
  | syncUpdateApply => exact execSyncUpdateApply_kept h
  | watchNotification => exact execWatchNotification_kept h
  | cmdDataRead => exact execCmdDataRead_kept h
  | cmdDataWrite => exact execCmdDataWrite_kept h
  | queueBindingWrite => exact execQueueBindingWrite_kept h
  | bankOwnerWrite => exact execBankOwnerWrite_kept h
  | load => exact execLoad_kept h
  | loadComplete => exact execLoadComplete_kept h
  | unload => exact execUnload_kept h
  | abortLoad => exact execAbortLoad_kept h
  | flitCheckFailure => exact execFlitCheckFailure_kept h
  | laneFailure => exact execLaneFailure_kept h
  | groupRetrainComplete => exact execGroupRetrainComplete_kept h
  | linkRetrain => exact execLinkRetrain_kept h
  | linkRetrainComplete => exact execLinkRetrainComplete_kept h
  | linkRetrainRetry => exact execLinkRetrainRetry_kept h
  | linkSlip => exact execLinkSlip_kept h
  | cisternLineRead => exact execCisternLineRead_kept h
  | scrubRead => exact execScrubRead_kept h
  | parityUpdate => exact execParityUpdate_kept h
  | tagSettle => exact execTagSettle_kept h
  | retiredSlotFree => exact execRetiredSlotFree_kept h
  | migrateStart => exact execMigrateStart_kept h
  | migrateAbort => exact execMigrateAbort_kept h
  | pageMigrationSwitch => exact execPageMigrationSwitch_kept h
  | retireStack => exact execRetireStack_kept h
  | pcRetrainStart => exact execPcRetrainStart_kept h
  | pcRetrainComplete => exact execPcRetrainComplete_kept h
  | stackLost => exact execStackLost_kept h
  | rebuildComplete => exact execRebuildComplete_kept h
  | regionWrite => exact execRegionWrite_kept h
  | sourceGap => exact execSourceGap_kept h
  | publishStep => exact execPublishStep_kept h
  | streamStart => exact execStreamStart_kept h
  | streamStop => exact execStreamStop_kept h
  | stopComplete => exact execStopComplete_kept h
  | forceCut => exact execForceCut_kept h
  | checkpoint => exact execCheckpoint_kept h
  | fallbackPublishStep => exact execFallbackPublishStep_kept h
  | abandonedRetire => exact execAbandonedRetire_kept h
  | lateCheck => exact execLateCheck_kept h
  | outputFrameBoundary => exact execOutputFrameBoundary_kept h
  | partitionConfigure => exact execPartitionConfigure_kept h
  | partitionStart => exact execPartitionStart_kept h
  | partitionStop => exact execPartitionStop_kept h
  | partitionReset => exact execPartitionReset_kept h
  | resetQueueClear => exact execResetQueueClear_kept h
  | lend => exact execLend_kept h
  | reclaimTile => exact execReclaimTile_kept h
  | reclaimAll => exact execReclaimAll_kept h
  | reclaimComplete => exact execReclaimComplete_kept h
  | acctWithdraw => exact execAcctWithdraw_kept h
  | acctRestore => exact execAcctRestore_kept h
  | withdrawHead => exact execWithdrawHead_kept h
  | withdrawalListRetire => exact execWithdrawalListRetire_kept h
  | acctClear => exact execAcctClear_kept h
  | acctDataRead => exact execAcctDataRead_kept h
  | syncDataRead => exact execSyncDataRead_kept h
  | syncDataWrite => exact execSyncDataWrite_kept h
  | syncAdd => exact execSyncAdd_kept h
  | syncFill => exact execSyncFill_kept h
  | syncFillComplete => exact execSyncFillComplete_kept h
  | apertureAdd => exact execApertureAdd_kept h
  | apertureSet => exact execApertureSet_kept h
  | hostWatchArm => exact execHostWatchArm_kept h
  | hostWatchDisarm => exact execHostWatchDisarm_kept h
  | admissionPoint => exact execAdmissionPoint_kept h
  | peekDataRead => exact execPeekDataRead_kept h
  | laneBlockLock => exact execLaneBlockLock_kept h
  | laneLockLoss => exact execLaneLockLoss_kept h
  | inputSegment port lane seg => exact execInputSegment_kept (a1 := lane) h
  | lineSlot => exact execLineSlot_kept h
  | lineFetch => exact execLineFetch_kept h
  | lineFetchComplete => exact execLineFetchComplete_kept h
  | staticCompareComplete => exact execStaticCompareComplete_kept h
  | genlockPulse => exact execGenlockPulse_kept h
  | genlockLoss => exact execGenlockLoss_kept h
  | muteRequest => exact execMuteRequest_kept h
  | muteRelease => exact execMuteRelease_kept h
  | muteHoldExpiry => exact execMuteHoldExpiry_kept h
  | binningStart => exact execBinningStart_kept h
  | binningDeadline => exact execBinningDeadline_kept h
  | binRowRender => exact execBinRowRender_kept h
  | doorbellWrite => exact execDoorbellWrite_kept h
  | outputBandWrite => exact execOutputBandWrite_kept h
  | inputReadCompletion => exact execInputReadCompletion_kept h
  | stallLimitExpiry => exact execStallLimitExpiry_kept h
  | lateAbandon => exact execLateAbandon_kept h
  | pcieLinkDown => exact execPcieLinkDown_kept h
  | functionLevelReset => exact execFunctionLevelReset_kept h
  | pcieFlitRetry port => exact execPcieFlitRetry_kept (a0 := port) h
  | nmtResetNode => exact execNmtResetNode_kept h
  | nmtResetCommunication => exact execNmtResetCommunication_kept h
  | nmtStart => exact execNmtStart_kept h
  | nmtStop => exact execNmtStop_kept h
  | nmtPreOperational => exact execNmtPreOperational_kept h
  | usdoDownload => exact execUsdoDownload_kept h
  | usdoUpload => exact execUsdoUpload_kept h
  | syncMessage => exact execSyncMessage_kept h
  | tpdoEventTimer => exact execTpdoEventTimer_kept h
  | heartbeatTimer => exact execHeartbeatTimer_kept h
  | i2cStart => exact execI2cStart_kept h
  | i2cTransactionComplete => exact execI2cTransactionComplete_kept h
  | i2cStretchTimeout => exact execI2cStretchTimeout_kept h
  | i2cDataAccess => exact execI2cDataAccess_kept h
  | pinFunctionSwitch => exact execPinFunctionSwitch_kept h
  | ppsEdge => exact execPpsEdge_kept h
  | ppsLoss => exact execPpsLoss_kept h
  | lowHalfWrite => exact execLowHalfWrite_kept h
  | highHalfWrite => exact execHighHalfWrite_kept h
  | lowHalfRead => exact execLowHalfRead_kept h
  | absentAccess => exact execAbsentAccess_kept h
  | objectWrite => exact execObjectWrite_kept h
  | compatDataRead => exact execCompatDataRead_kept h
  | fwDataAccess => exact execFwDataAccess_kept h
  | startRill => exact execStartRill_kept h
  | rillImageReadComplete => exact execRillImageReadComplete_kept h
  | stopRill => exact execStopRill_kept h
  | programBlock => exact execProgramBlock_kept h
  | copyFromHost => exact execCopyFromHost_kept h
  | activate => exact execActivate_kept h
  | verify => exact execVerify_kept h
  | flashCommandComplete => exact execFlashCommandComplete_kept h
  | rillKick => exact execRillKick_kept h
  | rillWatchdogExpiry => exact execRillWatchdogExpiry_kept h
  | rillException => exact execRillException_kept h
  | passthruStart => exact execPassthruStart_kept h
  | passthruStop => exact execPassthruStop_kept h
  | sensorSample => exact execSensorSample_kept h
  | tripClockStop => exact execTripClockStop_kept h
  | hubTripClockStop => exact execHubTripClockStop_kept h
  | lockstepMismatch => exact execLockstepMismatch_kept h
  | tileFault => exact execTileFault_kept h
  | tileMoveComplete => exact execTileMoveComplete_kept h
  | uncorrectableSramError => exact execUncorrectableSramError_kept h
  | sramScrub => exact execSramScrub_kept h
  | motionEngineFault => exact execMotionEngineFault_kept h
  | recordAppend => exact execRecordAppend_kept h
  | mirrorProgram => exact execMirrorProgram_kept h
  | mirrorRegionEraseComplete => exact execMirrorRegionEraseComplete_kept h
  | almanacDataRead => exact execAlmanacDataRead_kept h
  | freeze => exact execFreeze_kept h
  | thaw => exact execThaw_kept h
  | clearCirculating => exact execClearCirculating_kept h
  | clearPermanent => exact execClearPermanent_kept h
  | perfSample => exact execPerfSample_kept h
  | perfClear => exact execPerfClear_kept h
  | perfEventWrite => exact execPerfEventWrite_kept h
  | inputSlotGridFrameStart => exact execInputSlotGridFrameStart_kept h
  | pcieLinkUp => exact execPcieLinkUp_kept h
  | completionTimeout => exact execCompletionTimeout_kept h
  | msixVectorUnmask => exact execMsixVectorUnmask_kept h
  | pciePowerStateWrite => exact execPciePowerStateWrite_kept h
  | canBusError => exact execCanBusError_kept h
  | weirRestartComplete => exact execWeirRestartComplete_kept h
  | computeDieFault => exact execComputeDieFault_kept h
  | hubPllLockLoss => exact execHubPllLockLoss_kept h

/-! ### Accesses that wait (R335, R456) -/

/-- Serving what waits of a master keeps the state sound: an answer or a command at a time. -/
theorem serveParked_canonical (m : Nat) (ps : List Parked) {s : State} (h : Canonical s) : Canonical (serveParked m ps s) := by
  induction ps generalizing s with
  | nil => exact h
  | cons p rest ih =>
    cases p with
    | answer o usdo => exact ite_canonical (setParked_canonical h) (ih (answerCount_canonical h))
    | access c =>
      unfold serveParked
      split
      case h_1 t ht => exact ite_canonical (ih (exec_canonical c h t ht)) (setParked_canonical (exec_canonical c h t ht))
      case h_2 => exact ih h

theorem serveParked_kept (m : Nat) (ps : List Parked) {a s : State} (h : Kept a s) : Kept a (serveParked m ps s) := by
  induction ps generalizing s with
  | nil => exact h
  | cons p rest ih =>
    cases p with
    | answer o usdo => exact ite_kept (setParked_kept h) (ih (answerCount_kept h))
    | access c =>
      unfold serveParked
      split
      case h_1 t ht => exact ite_kept (ih (exec_kept c h t ht)) (setParked_kept (exec_kept c h t ht))
      case h_2 => exact ih h

theorem passTick_canonical {s : State} (h : Canonical s) : Canonical (passTick s) :=
  foldl_canonical (fun _ m hs => serveParked_canonical m _ (setParked_canonical hs)) (tick_canonical h)

theorem passTick_kept {a s : State} (h : Kept a s) : Kept a (passTick s) :=
  foldl_kept (fun _ m hs => serveParked_kept m _ (setParked_kept hs)) (tick_kept h)

/-! ### One step -/

theorem step_idle {s : State} (h : s.pending = []) : step s = .next (if s.clk.running then passTick s else s) := by
  unfold step; rw [h]

theorem step_front {c : Instr} {rest : List Instr} {s : State} (h : s.pending = c :: rest) : step s = exec c { s with pending := rest } := by
  unfold step; rw [h]

/-- Settles O1: the front command runs with the rest of the queue. -/
theorem stepRunsFrontCommand : Obligations.StepRunsFrontCommand := fun _ _ _ => step_front

/-- Settles O5: a step is a cycle, nothing, or the front command, and each keeps a sound state sound. -/
theorem stepKeepsCanonical : Obligations.StepKeepsCanonical := by
  intro s t h hstep
  cases hp : s.pending with
  | nil =>
    rw [step_idle hp] at hstep
    exact next_canonical (ite_canonical (passTick_canonical h) h) t hstep
  | cons c rest =>
    rw [step_front hp] at hstep
    exact exec_canonical c (upd_pending_canonical h) t hstep

/-- Settles O6: a cycle keeps the empty queue, and the front command the rest of it; neither recalls a message or a free value. -/
theorem stepKeepsQueueOrder : Obligations.StepKeepsQueueOrder := by
  intro s t hstep
  cases hp : s.pending with
  | nil =>
    rw [step_idle hp] at hstep
    obtain ⟨hpending, hout, hfree⟩ := next_kept (ite_kept (passTick_kept (Kept.refl s)) (Kept.refl s)) t hstep
    exact ⟨hpending.trans hp, hout, hfree⟩
  | cons c rest =>
    rw [step_front hp] at hstep
    obtain ⟨hpending, hout, hfree⟩ := exec_kept c (Kept.refl { s with pending := rest }) t hstep
    exact ⟨hpending, hout, hfree⟩

/-! ### Reset -/

/-- Settles O4: every map of the reset state is empty. -/
theorem resetIsCanonical : Obligations.ResetIsCanonical where
  objs := Rising.nil
  width := List.forall_mem_nil _
  latches := Tidy.nil _
  flash := Tidy.nil _
  sensors := Rising.nil
  staging := Tidy.nil _
  fab := fabric_init_ok
  tl := tiles_init_ok
  ci := cistern_init_ok
  pt := parts_init_ok
  sy := syncstore_init_ok
  st := streams_init_ok
  io := ports_init_ok
  alm := Tidy.nil _

/-- Settles O3: every map of the reset state is empty, so that each part reads as its default. -/
theorem resetHoldsDefaults : Obligations.ResetHoldsDefaults :=
  ⟨rfl, rfl, rfl, rfl, fun _ => rfl, fun _ => rfl, fun _ => rfl, fun _ _ _ => rfl, fun _ _ => rfl, fun _ => rfl⟩

end Sys2Proof.Proofs.Soundness
end

section
namespace Sys2Proof.Machine

/-! ### Operations that leave every object but a few -/

theorem OtherObjects.refl (ks : List Nat) (s : State) : OtherObjects ks s s := fun _ _ => rfl

section
variable {ks : List Nat} {s t u : State}

theorem OtherObjects.trans (h : OtherObjects ks s t) (h2 : OtherObjects ks t u) : OtherObjects ks s u := fun k hk => (h2 k hk).trans (h k hk)

theorem OtherObjects.mono {js : List Nat} (h : OtherObjects js s t) (hsub : ∀ k ∈ js, k ∈ ks) : OtherObjects ks s t :=
  fun k hk => h k fun hj => hk (hsub k hj)

theorem otherObjects_of_objs (h : t.objs = s.objs) : OtherObjects ks s t := fun k _ => by rw [getObj, h, getObj]

/-- An operation whose frame leaves the objects leaves each of them. -/
theorem otherObjects_of_leaves {m : Nat} (h : Leaves m s t) (hm : m.testBit 2 = false) : OtherObjects ks s t := otherObjects_of_objs (h.objs hm)

theorem otherObjects_setObj {key : Nat} (v : Nat) (s : State) (hkey : key ∈ ks) : OtherObjects ks s (setObj key v s) :=
  fun _ hk => getObj_setObj_other _ _ fun h => hk (h ▸ hkey)

theorem otherObjects_addObj {key : Nat} (n : Nat) (s : State) (hkey : key ∈ ks) : OtherObjects ks s (addObj key n s) := otherObjects_setObj _ s hkey

theorem otherObjects_setField {key : Nat} (a b v : Nat) (s : State) (hkey : key ∈ ks) : OtherObjects ks s (setField key a b v s) :=
  otherObjects_setObj _ s hkey

theorem otherObjects_capture (code part inst p0 p1 p2 : Nat) (s : State) (hlost : oAlmanacLost ∈ ks) :
    OtherObjects ks s (capture code part inst p0 p1 p2 s) :=
  fun _ hk => getObj_capture_other _ _ _ _ _ _ _ fun h => hk (h ▸ hlost)

theorem otherObjects_refuse (m key reason value : Nat) (s : State) (hword : oOdLastRefused ∈ ks) (hlost : oAlmanacLost ∈ ks) :
    OtherObjects ks s (refuse m key reason value s) :=
  (otherObjects_setObj _ s hword).trans (otherObjects_capture _ _ _ _ _ _ _ hlost)

theorem otherObjects_ite {c : Prop} [Decidable c] (ht : OtherObjects ks s t) (hu : OtherObjects ks s u) : OtherObjects ks s (if c then t else u) := by
  split <;> assumption

theorem otherObjects_foldl {α : Type} {f : State → α → State} {l : List α} (hf : ∀ s, ∀ x ∈ l, OtherObjects ks s (f s x)) (s : State) :
    OtherObjects ks s (l.foldl f s) := by
  induction l generalizing s with
  | nil => exact OtherObjects.refl ks s
  | cons x l ih => exact (hf s x List.mem_cons_self).trans (ih (fun s y hy => hf s y (List.mem_cons_of_mem _ hy)) _)

end

/-! ### The object map -/

/-- Objects of the control functions and their widths. -/
def controlWidths : List (Nat × Nat) :=
  [(oTimingGenlockState, 8), (oTimingGenlockPeriod, 32), (oI2cStatus, 8), (oI2cCursor, 8), (oCanErrors, 32), (oFwCursor, 32), (oFwRillState, 8), (oFwRillRestarts, 32),
    (oCompatCursor, 32)] ++ (List.range 32).map fun land => (oPinmux land, 8)

/-- The base index of the rings' function. -/
def ringBase : Nat := 0x5180

/-- The function of the 128 rings, with a row for the state and one for the pointers. -/
abbrev RingFn (f : DictFn) : Prop :=
  f.base = ringBase ∧ f.step = 1 ∧ f.first = 0 ∧ f.count = 128 ∧ (rowOf f.rows 1).map (·.width) = some 8 ∧ (rowOf f.rows 8).map (·.width) = some 32

/-- What later proofs need of the object map, read off it in one evaluation: widths, the defaults of the bring-up steps, the rows that are write-only, and the rings. -/
theorem objectMap_reads :
    (∀ e ∈ controlWidths, objWidth e.1 = e.2) ∧
    (∀ i < 11, 2 ≤ i → objDefault (oBringStatus i) = notDone) ∧
    ((∀ f ∈ dictFns, ∀ r ∈ f.rows, r.acc = .wo → r.width ≠ 64) ∧ ∀ r ∈ objRow oSyncData, r.acc ≠ .wo) ∧
    (∃ f ∈ dictFns, RingFn f) ∧ ∀ f ∈ dictFns, f.base + f.step * (f.first + (f.count - 1)) < ringBase ∨ RingFn f := by
  decide +kernel

theorem objWidth_of_mem_controlWidths : ∀ e ∈ controlWidths, objWidth e.1 = e.2 := objectMap_reads.1

end Sys2Proof.Machine
end

section
namespace Sys2Proof.Proofs.Timing
open Sys2Proof Sys2Proof.Machine
open Sys2Proof.Proofs.TensorTile Sys2Proof.Proofs.TransformUnit Sys2Proof.Proofs.FrameStreams

/-! ### The genlock state (R534, R535) -/

theorem objWidth_genlockState : objWidth oTimingGenlockState = 8 := objWidth_of_mem_controlWidths (oTimingGenlockState, 8) (by simp [controlWidths])

theorem objWidth_genlockPeriod : objWidth oTimingGenlockPeriod = 32 := objWidth_of_mem_controlWidths (oTimingGenlockPeriod, 32) (by simp [controlWidths])

/-- The genlock state reads what was set. -/
theorem getObj_setGenlock {v : Nat} (hv : v < 2 ^ 8) (s : State) : getObj (setGenlock v s) oTimingGenlockState = v := by
  unfold setGenlock
  split
  case isTrue h => exact h
  case isFalse => rw [getObj_capture_other _ _ _ _ _ _ _ (by decide), getObj_setObj, objWidth_genlockState, Nat.mod_eq_of_lt hv]

theorem setGenlock_otherObjects (v : Nat) (s : State) : OtherObjects [oTimingGenlockState, oAlmanacLost] s (setGenlock v s) :=
  otherObjects_ite (.refl _ s) ((otherObjects_setObj _ s (by simp)).trans (otherObjects_capture _ _ _ _ _ _ _ (by simp)))

/-! ### Genlock pulses (R438, R533, R534) -/

/-- A pulse taken up, with this many pulses and these periods counted. -/
def pulseTaken (n : Nat) (periods : List Nat) (s : State) : State :=
  { s with clk := { s.clk with pulse := some (ticks s), pulses := n, periods := periods } }

/-- A pulse that agrees: its period is listed and measured. -/
def pulseAgreed (per : Nat) (s : State) : State :=
  setObj oTimingGenlockPeriod (per * 5 / 7) (pulseTaken (min (s.clk.pulses + 1) 4) ((per :: s.clk.periods).take 16) s)

/-- Every genlocked generator measures a pulse of the locked input. -/
def pulseAll (s : State) : State :=
  (genOutputs s).foldl (fun s o =>
    let (code, frac, tm, _, _) := outParams s o
    if tm = 0 then pulseGen o (genlockRatio code frac (getObj s oTimingGenlockPeriod)) (cycle s - 37) s else s) s

theorem leaves_pulseAll (s : State) : Leaves 0x1800000000000000000000 s (pulseAll s) :=
  foldl_frame (fun _ _ h => ite_frame (pulseGen_frame h) h) (Leaves.refl _ s)

section
variable {s : State} {p : Nat} (hl : Live s)
include hl

theorem execGenlockPulse_first (h : s.clk.pulse = none) : exec .genlockPulse s = .next (setGenlock 1 (pulseTaken 1 [] s)) := by
  show execGenlockPulse s = _
  refine whenLive_eq_next hl ?_
  simp only [h]
  rfl

theorem execGenlockPulse_disagrees {q : Nat} {rest : List Nat} (h : s.clk.pulse = some p) (hq : s.clk.periods = q :: rest)
    (hfar : q + usTicks < ticks s - p ∨ ticks s - p + usTicks < q) :
    exec .genlockPulse s = .next (pulseTaken 2 [ticks s - p] s) := by
  have hno : (decide (ticks s - p ≤ q + usTicks) && decide (q ≤ ticks s - p + usTicks)) = false := by
    simp only [Bool.and_eq_false_iff, decide_eq_false_iff_not]; omega
  show execGenlockPulse s = _
  refine whenLive_eq_next hl ?_
  simp only [h, hq, hno, if_true]
  rfl

/-- A pulse agrees where no period is known yet, or where its period is within 1 µs of the last. -/
theorem execGenlockPulse_agrees (h : s.clk.pulse = some p)
    (hnear : ∀ q rest, s.clk.periods = q :: rest → ticks s - p ≤ q + usTicks ∧ q ≤ ticks s - p + usTicks) :
    exec .genlockPulse s =
      .next (if min (s.clk.pulses + 1) 4 < 4 then pulseAgreed (ticks s - p) s else pulseAll (setGenlock 2 (pulseAgreed (ticks s - p) s))) := by
  show execGenlockPulse s = _
  refine whenLive_eq_next hl ?_
  simp only [h]
  cases hq : s.clk.periods with
  | nil => simp only [Bool.true_eq_false, if_false]; rw [pulseAgreed, hq]; rfl
  | cons q rest =>
    obtain ⟨h1, h2⟩ := hnear q rest hq
    simp only [h1, h2, decide_true, Bool.and_true, Bool.true_eq_false, if_false]
    rw [pulseAgreed, hq]; rfl

theorem execGenlockPulse_near {q : Nat} {rest : List Nat} (h : s.clk.pulse = some p) (hq : s.clk.periods = q :: rest)
    (h1 : ticks s - p ≤ q + usTicks) (h2 : q ≤ ticks s - p + usTicks) :
    exec .genlockPulse s =
      .next (if min (s.clk.pulses + 1) 4 < 4 then pulseAgreed (ticks s - p) s else pulseAll (setGenlock 2 (pulseAgreed (ticks s - p) s))) := by
  refine execGenlockPulse_agrees hl h fun q' rest' he => ?_
  obtain ⟨rfl, rfl⟩ := List.cons.inj (hq.symm.trans he)
  exact ⟨h1, h2⟩

end

/-- The fourth pulse that agrees locks, and its period is the measured one. -/
theorem pulseAll_locked (per : Nat) (s : State) :
    let t := pulseAll (setGenlock 2 (pulseAgreed per s))
    getObj t oTimingGenlockState = 2 ∧ getObj t oTimingGenlockPeriod = per * 5 / 7 % 2 ^ 32 ∧ t.tl = s.tl ∧ t.ci = s.ci := by
  have hpulse := leaves_pulseAll (setGenlock 2 (pulseAgreed per s))
  have hset : Leaves 0x800000300000000000000004000004 (pulseAgreed per s) (setGenlock 2 (pulseAgreed per s)) := setGenlock_frame (Leaves.refl _ _)
  have htl : (pulseAgreed per s).tl = s.tl := rfl
  have hci : (pulseAgreed per s).ci = s.ci := rfl
  refine ⟨?_, ?_, (leaves_tl hpulse (by decide)).trans ((leaves_tl hset (by decide)).trans htl),
    (leaves_ci hpulse (by decide)).trans ((leaves_ci hset (by decide)).trans hci)⟩
  · rw [getObj_of_leaves hpulse (by decide), getObj_setGenlock (by decide)]
  · rw [getObj_of_leaves hpulse (by decide), setGenlock_otherObjects _ _ _ (by decide), pulseAgreed, getObj_setObj, objWidth_genlockPeriod]

/-! ### Holdover (R438, R535) -/

/-- A genlocked generator holds the mean period, measured where its ratio is accepted. -/
def holdOver (mean o : Nat) (s : State) : State :=
  let x := outParams s o
  match outGen s o with
  | some g =>
    if x.2.2.1 = 0 then
      match genlockRatio x.1 x.2.1 (mean * 5 / 7) with
      | some n => setOutGen o { g with holdover := true, corr := [], period := mean * genUnit x.1 / n } s
      | none => setOutGen o { g with holdover := true, corr := [] } s
    else s
  | none => s

theorem holdOver_frame {m : Nat} {a : State} {mean o : Nat} {s : State} (h : Leaves m a s) (hm : FieldsIn 0x1800000000000000000000 m := by exact FieldsIn.refl _) :
    Leaves m a (holdOver mean o s) := by
  unfold holdOver
  dsimp only
  split
  · refine ite_frame ?_ h
    split
    · exact setOutGen_frame h
    · exact setOutGen_frame h
  · exact h

/-- The input lost: holdover, with no pulse counted. -/
def genlockLost (s : State) : State := setGenlock 3 { s with clk := { s.clk with pulse := none, pulses := 0 } }

theorem execGenlockLoss_due {s : State} {p : Nat} (hl : Live s) (h : s.clk.pulse = some p) (hdue : p + 2 * s.clk.periods.headD 58333334 ≤ ticks s) :
    exec .genlockLoss s = .next ((genOutputs (genlockLost s)).foldl (fun t o => holdOver (meanOf s.clk.periods) o t) (genlockLost s)) := by
  show execGenlockLoss s = _
  refine whenLive_eq_next hl ?_
  dsimp only
  rw [h]
  dsimp only
  rw [if_neg (Nat.not_lt.2 hdue)]
  rfl

/-- An input that is lost reads as held over, with no pulse counted. -/
theorem genlockLost_held (mean : Nat) (os : List Nat) (s : State) :
    let t := os.foldl (fun t o => holdOver mean o t) (genlockLost s)
    getObj t oTimingGenlockState = 3 ∧ t.clk.pulse = none ∧ t.clk.pulses = 0 ∧ t.tl = s.tl ∧ t.ci = s.ci := by
  dsimp only
  have hlost : Leaves 0x800000300000000000000004000004 { s with clk := { s.clk with pulse := none, pulses := 0 } } (genlockLost s) :=
    setGenlock_frame (Leaves.refl _ _)
  have hhold : Leaves 0x1800000000000000000000 (genlockLost s) (os.foldl (fun t o => holdOver mean o t) (genlockLost s)) :=
    foldl_frame (fun _ _ h => holdOver_frame h) (Leaves.refl _ _)
  refine ⟨?_, ?_, ?_, ?_, ?_⟩
  · rw [getObj_of_leaves hhold (by decide), genlockLost, getObj_setGenlock (by decide)]
  · rw [hhold.clk_pulse (by decide), hlost.clk_pulse (by decide)]
  · rw [hhold.clk_pulses (by decide), hlost.clk_pulses (by decide)]
  · rw [leaves_tl hhold (by decide), leaves_tl hlost (by decide)]
  · rw [leaves_ci hhold (by decide), leaves_ci hlost (by decide)]

/-! ### 1PPS (R540) -/

/-- The edge counted, before it is judged. -/
theorem execPpsEdge_live {s : State} (hl : Live s) :
    exec .ppsEdge s = .next (
      if getObj s oTimePpsEnable = 0 then addObj oTimingPpsCount 1 s
      else if ppsAccepts s then ppsAccepted (addObj oTimingPpsCount 1 s)
      else addObj oTimePpsRejects 1 (addObj oTimingPpsCount 1 s)) := by
  have henable : getObj (addObj oTimingPpsCount 1 s) oTimePpsEnable = getObj s oTimePpsEnable := getObj_addObj_other _ _ (by decide)
  show execPpsEdge s = _
  refine whenLive_eq_next hl ?_
  dsimp only
  rw [henable]
  rfl

theorem execPpsLoss_due {s : State} (hl : Live s) (hstate : getObj s oTimePpsState = 1 ∨ getObj s oTimePpsState = 2)
    (hdue : s.clk.ppsFrom + 3000000 * usTicks ≤ ticks s) :
    exec .ppsLoss s = .next (setPps 3 { s with clk := { s.clk with ppsEdge := none, ppsGood := 0 } }) := by
  show execPpsLoss s = _
  exact whenLive_eq_next hl (if_pos ⟨hstate, hdue⟩)

/-- Settles O45: each pulse and edge has one outcome in its case; what the generators do leaves the objects. -/
theorem timingReferences : Obligations.TimingReferences := by
  intro s hl
  refine ⟨execGenlockPulse_first hl, fun p h hq hlow => ?_, fun p q rest h hq => ⟨execGenlockPulse_disagrees hl h hq, fun h1 h2 hlow => ?_, fun h1 h2 hhigh => ?_⟩,
    fun p h hdue => ⟨_, execGenlockLoss_due hl h hdue, genlockLost_held _ _ s⟩, ⟨fun h0 => ?_, fun h0 hno => ?_, fun h0 hyes => ?_⟩, execPpsLoss_due hl⟩
  · have hmin : min (s.clk.pulses + 1) 4 = s.clk.pulses + 1 := by omega
    rw [execGenlockPulse_agrees hl h (by simp [hq]), hmin, if_pos hlow, pulseAgreed, hmin, hq]
    rfl
  · have hmin : min (s.clk.pulses + 1) 4 = s.clk.pulses + 1 := by omega
    rw [execGenlockPulse_near hl h hq h1 h2, hmin, if_pos hlow, pulseAgreed, hmin]
    rfl
  · have hmin : min (s.clk.pulses + 1) 4 = 4 := by omega
    refine ⟨_, ?_, pulseAll_locked (ticks s - p) s⟩
    rw [execGenlockPulse_near hl h hq h1 h2, hmin]
    rfl
  · rw [execPpsEdge_live hl, if_pos h0]
  · rw [execPpsEdge_live hl, if_neg h0, hno]; rfl
  · rw [execPpsEdge_live hl, if_neg h0, hyes]; rfl

end Sys2Proof.Proofs.Timing
end

section
namespace Sys2Proof.Proofs.Power
open Sys2Proof Sys2Proof.Machine
open Sys2Proof.Proofs.TensorTile Sys2Proof.Proofs.TransformUnit Sys2Proof.Proofs.ImageLoad Sys2Proof.Proofs.Soundness

/-! ### Stopped clocks (R506, R517) -/

/-- With the clocks stopped every command but the two of PWRGOOD is a `whenLive`, whose condition fails. -/
theorem exec_stopped {c : Instr} {s : State} (h : s.clk.running = false) (hgood : ∀ b n, c ≠ .powerGood b n) (hlow : c ≠ .pwrgoodLow) :
    exec c s = .next s := by
  have hstopped : ¬ s.clk.running = true := Bool.not_eq_true _ ▸ h
  cases c with
  | powerGood b n => exact absurd rfl (hgood b n)
  | pwrgoodLow => exact absurd rfl hlow
  | _ => exact congrArg Host.Outcome.next (if_neg hstopped)

/-! ### One cycle (log entry 1) -/

theorem tickCalendar_ticks (s : State) : (tickCalendar s).clk.ticks = s.clk.ticks := rfl

theorem tickClocks_ticks (s : State) : (tickClocks s).clk.ticks = s.clk.ticks + 1 := by
  unfold tickClocks
  rw [tickCalendar_ticks]
  dsimp only
  split <;> split <;> rfl

/-- A tick counts itself: only the clocks' part of it writes the count. -/
theorem tick_ticks (s : State) : (tick s).clk.ticks = s.clk.ticks + 1 := by
  have hbefore : Leaves 0xffffe0300020280008000004000004 s (endWarms (passCycle (tickWaits s))) :=
    endWarms_frame (passCycle_frame (tickWaits_frame (Leaves.refl _ s) ⟨by decide⟩) ⟨by decide⟩) ⟨by decide⟩
  have hafter (u : State) : Leaves 0x10040030009800000000000000005 u (tickLands (tickEmcy (tickFill (tickPerf u)))) :=
    tickLands_frame (tickEmcy_frame (tickFill_frame (tickPerf_frame (Leaves.refl _ u) ⟨by decide⟩) ⟨by decide⟩) ⟨by decide⟩) ⟨by decide⟩
  rw [tick, (hafter _).clk_ticks (by decide), tickClocks_ticks, hbefore.clk_ticks (by decide)]

/-- A master that waits for nothing is served nothing. -/
theorem serveParked_idle {s : State} (h : s.sy.parked = []) (m : Nat) : serveParked m (parkedOf s m) (setParked m [] s) = s := by
  have hp : parkedOf s m = [] := by rw [parkedOf, h]; rfl
  have hput : (mapSet [] s.sy.parked m [] : SMap (List Parked)) = s.sy.parked := by rw [h]; rfl
  rw [hp, serveParked, setParked, hput]

theorem wake_idle {s : State} (h : s.sy.parked = []) : wake s = s := by
  have hfold (ms : List Nat) : ms.foldl (fun s m => serveParked m (parkedOf s m) (setParked m [] s)) s = s := by
    induction ms with
    | nil => rfl
    | cons m ms ih => rw [List.foldl_cons, serveParked_idle h, ih]
  exact hfold _

/-- Settles O2: an idle step is a cycle or nothing, and stopped clocks leave the two commands of PWRGOOD alone. -/
theorem emptyQueueAndStoppedClocks : Obligations.EmptyQueueAndStoppedClocks := by
  refine ⟨fun s hp => ⟨fun hl => ⟨?_, ?_, tick_ticks s, fun h => wake_idle h⟩, fun hl => ?_⟩, fun c s hl hgood hlow => ?_⟩
  · rw [step_idle hp, if_pos (show s.clk.running = true from hl)]
  · exact (passTick_kept (Kept.refl s)).pending.trans hp
  · rw [step_idle hp, if_neg hl]
  · exact exec_stopped (Bool.eq_false_iff.2 hl) hgood hlow

/-! ### The bring-up steps after power good (R506, R550) -/

/-- Steps 2 to 10 read in `t` as they do in `s`. -/
def SameSteps (s t : State) : Prop := ∀ i, 2 ≤ i → i ≤ 10 → getObj t (oBringStatus i) = getObj s (oBringStatus i)

theorem SameSteps.trans {s t u : State} (h : SameSteps s t) (h2 : SameSteps t u) : SameSteps s u := fun i hi hi' => (h2 i hi hi').trans (h i hi hi')

/-- An operation that writes no status of these steps. -/
theorem sameSteps_of_otherObjects {ks : List Nat} {s t : State} (h : OtherObjects ks s t) (hks : ∀ i < 11, 2 ≤ i → oBringStatus i ∉ ks) : SameSteps s t :=
  fun i hi hi' => h _ (hks i (Nat.lt_succ_of_le hi') hi)

theorem sameSteps_setObj {key : Nat} (v : Nat) (s : State) (h : ∀ i < 11, 2 ≤ i → oBringStatus i ∉ [key]) : SameSteps s (setObj key v s) :=
  sameSteps_of_otherObjects (otherObjects_setObj v s List.mem_cons_self) h

theorem sameSteps_setField {key : Nat} (a b v : Nat) (s : State) (h : ∀ i < 11, 2 ≤ i → oBringStatus i ∉ [key]) : SameSteps s (setField key a b v s) :=
  sameSteps_setObj _ s h

theorem sameSteps_of_leaves {m : Nat} {s t : State} (h : Leaves m s t) (hm : m.testBit 2 = false) : SameSteps s t :=
  fun _ _ _ => getObj_of_leaves h hm _

theorem inIndex_oBringStatus (i : Nat) : inIndex 0x1000 0x1FFF (oBringStatus i) = false := by
  have h : ¬ oBringStatus i < (0x1FFF + 1) * 256 := by unfold oBringStatus; omega
  rw [inIndex, decide_eq_false h, Bool.and_false]

/-- The defaults of the communication area are none of the steps'. -/
theorem sameSteps_dropComm (f : Nat → Bool) (s : State) : SameSteps s (dropObjs (fun k => inIndex 0x1000 0x1FFF k && f k) s) :=
  fun i _ _ => getObj_dropObjs_kept (by rw [inIndex_oBringStatus, Bool.false_and]) s

theorem sameSteps_setTpdoCobs (f : Nat → Nat) (s : State) : SameSteps s ((List.range 8).foldl (fun s t => setObj (oCommTpdoCob t) (f t) s) s) :=
  sameSteps_of_otherObjects (ks := (List.range 8).map oCommTpdoCob)
    (otherObjects_foldl (fun _ _ ht => otherObjects_setObj _ _ (List.mem_map_of_mem ht)) s) (by decide)

theorem sameSteps_commDefaults (s : State) : SameSteps s (commDefaults s) := by
  unfold commDefaults
  exact (sameSteps_dropComm _ s).trans ((sameSteps_setObj _ _ (by decide)).trans (sameSteps_setTpdoCobs _ _))

theorem sameSteps_canReset (s : State) : SameSteps s (canReset s) := by
  have hemit (c : Prop) [Decidable c] (e : Emission) (u : State) : SameSteps u (if c then u else emit e u) :=
    sameSteps_of_leaves (ite_frame (Leaves.refl 1 u) (emit_frame (Leaves.refl 1 u))) (by decide)
  have hcan (x : Can) (u : State) : SameSteps u { u with io := { u.io with can := x } } := fun _ _ _ => rfl
  exact (sameSteps_commDefaults s).trans ((hcan _ _).trans ((sameSteps_setField _ _ _ _ (by decide)).trans (hemit _ _ _)))

theorem sameSteps_restoreAlmanac (s : State) : SameSteps s (restoreAlmanac s) := by
  unfold restoreAlmanac
  exact (sameSteps_setObj _ _ (by decide)).trans (sameSteps_setObj _ _ (by decide))

theorem sameSteps_setSlotState (t v : Nat) (s : State) : SameSteps s (setSlotState t v s) := sameSteps_setField _ _ _ _ (by decide)

theorem sameSteps_runWeir (t lost : Nat) (s : State) : SameSteps s (runWeir t lost s) := by
  unfold runWeir
  exact (sameSteps_setObj _ _ (by decide)).trans ((sameSteps_setObj _ _ (by decide)).trans ((sameSteps_setObj _ _ (by decide)).trans
    (sameSteps_setSlotState t 1 _)))

/-- The end of step 1 writes its own status alone. -/
theorem sameSteps_endStep (result unit count elapsed : Nat) (s : State) : SameSteps s (endStep 1 result unit count elapsed s) := by
  unfold endStep
  exact (sameSteps_setObj _ _ (by decide)).trans ((sameSteps_setObj _ _ (by decide)).trans ((sameSteps_setObj _ _ (by decide)).trans
    (sameSteps_of_otherObjects (otherObjects_capture (ks := [oAlmanacLost]) _ _ _ _ _ _ _ (by simp)) (by decide))))

theorem sameSteps_bootWeir (elapsed : Nat) (s : State) : SameSteps s (bootWeir elapsed s) := by
  have hload : SameSteps s (setObj oFwRillSlot (activation s).1.2.2 { restoreAlmanac s with fw := { s.fw with activeWeir := (activation s).1.2.1 } }) :=
    (sameSteps_restoreAlmanac s).trans (sameSteps_setObj _ _ (by decide))
  unfold bootWeir
  dsimp only
  split
  · refine hload.trans (SameSteps.trans ?_ ((sameSteps_runWeir _ 0 _).trans (sameSteps_endStep _ _ _ _ _)))
    split
    · exact fun _ _ _ => rfl
    · exact sameSteps_setSlotState _ 2 _
  · exact hload.trans ((sameSteps_setSlotState 1 2 _).trans ((sameSteps_setSlotState 0 2 _).trans
      ((sameSteps_setObj _ _ (by decide)).trans (sameSteps_setObj _ _ (by decide)))))

/-! ### Power good and power loss (R505, R506) -/

/-- The board taken, the clocks running, and the identity of the node set. -/
def energised (b : Board) (s : State) : State :=
  let t := takeBoard b s
  let u := { t with clk := { t.clk with running := true }, pw := { t.pw with pwrgood := true } }
  setObj oCommRevision (u.fab.board.stepping * 2 ^ 16 + 1) (setObj oCanNodeId (u.fab.board.nodeId % 128) u)

/-- The device as power good starts it, before Weir boots. -/
def started (b : Board) (s : State) : State := addObj oBringupRuns 1 (canReset (energised b s))

theorem execPowerGood_off {s : State} (h : s.pw.pwrgood = false) (b : Board) (elapsed : Nat) :
    exec (.powerGood b elapsed) s = .next (bootWeir elapsed (started b s)) := by
  show execPowerGood b elapsed s = _
  rw [execPowerGood, if_neg (by rw [h]; decide)]
  rfl

theorem sameSteps_energised (b : Board) (s : State) : SameSteps s (energised b s) := by
  have htake : SameSteps s (takeBoard b s) := sameSteps_of_leaves (takeBoard_frame (Leaves.refl _ s) (FieldsIn.refl _)) (by decide)
  have hrun (c : Clocks) (p : Power) (u : State) : SameSteps u { u with clk := c, pw := p } := fun _ _ _ => rfl
  exact htake.trans ((hrun _ _ _).trans ((sameSteps_setObj _ _ (by decide)).trans (sameSteps_setObj _ _ (by decide))))

theorem sameSteps_started (b : Board) (s : State) : SameSteps s (started b s) :=
  (sameSteps_energised b s).trans ((sameSteps_canReset _).trans (sameSteps_setObj _ _ (by decide)))

/-- Neither the boot of Weir nor the reset of the CAN node stops the clocks. -/
theorem live_bootWeir_started (b : Board) (elapsed : Nat) (s : State) : Live (bootWeir elapsed (started b s)) := by
  have hboot : Leaves 0x80001ffc00000000000047fe000005 (started b s) (bootWeir elapsed (started b s)) := bootWeir_frame (Leaves.refl _ _)
  have hreset : Leaves 0x10000000000000000000005 (energised b s) (canReset (energised b s)) := canReset_frame (Leaves.refl _ _)
  calc (bootWeir elapsed (started b s)).clk.running = (started b s).clk.running := hboot.clk_running (by decide)
    _ = (canReset (energised b s)).clk.running := by rw [started, addObj_clk]
    _ = (energised b s).clk.running := hreset.clk_running (by decide)
    _ = true := by rw [energised, setObj_clk, setObj_clk]

theorem objDefault_oBringStatus : ∀ i < 11, 2 ≤ i → objDefault (oBringStatus i) = notDone := objectMap_reads.2.1

/-- Settles O56: what is lost reads its default, and power good writes the status of step 1 alone. -/
theorem powerLossResets : Obligations.PowerLossResets := by
  intro s
  have hoff : (powerOff s).pw.pwrgood = false := rfl
  have hdefault (key : Nat) : getObj (powerOff s) key = objDefault key := rfl
  refine ⟨powerOff s, rfl, rfl, hdefault, rfl, rfl, rfl, rfl, fun b elapsed => ⟨_, execPowerGood_off hoff b elapsed, live_bootWeir_started b elapsed _, fun i hi hi' => ?_⟩⟩
  rw [sameSteps_bootWeir elapsed _ i hi hi', sameSteps_started b _ i hi hi']
  exact (hdefault _).trans (objDefault_oBringStatus i (Nat.lt_succ_of_le hi') hi)

/-! ### A compute trip whose declaration is locked -/

/-- Refutes O57: the stop of the compute clocks does not unlock the declaration; that falls at the trip itself (R515). A state that a trip stands in with the
declaration locked still has it locked afterwards. -/
theorem not_powerEvents : ¬ Obligations.PowerEvents := by
  rintro ⟨-, -, -, htrip⟩
  let s : State := { State.reset with
    clk := { Clocks.init with running := true, ticks := 2 * usTicks }
    pw := { Power.init with computeTrip := some 0, computeOff := false, declLocked := true } }
  obtain ⟨t, hstop, -, hunlocked, -⟩ := (htrip 0 s rfl).1 rfl rfl (by decide)
  have hframe : Leaves 0x8000003207e03ffffffff804800005 s t := execTripClockStop_frame (Leaves.refl _ s) (FieldsIn.refl _) t hstop
  have hlocked : t.pw.declLocked = true := hframe.pw_declLocked (by decide)
  exact absurd (hlocked.symm.trans hunlocked) (by decide)

end Sys2Proof.Proofs.Power
end

section
namespace Sys2Proof.Proofs.Lands
open Sys2Proof Sys2Proof.Machine
open Sys2Proof.Proofs.TensorTile Sys2Proof.Proofs.TransformUnit Sys2Proof.Proofs.FrameStreams Sys2Proof.Proofs.CisternStore

/-- The mode that a write sets is an object. -/
theorem touch_changes (key : Nat) (s : State) : touch key s = { s with objs := (touch key s).objs } := by
  unfold touch
  split
  · rfl
  · rfl

/-! ### The I2C buffer (R439) -/

theorem objWidth_i2cStatus : objWidth oI2cStatus = 8 := objWidth_of_mem_controlWidths (oI2cStatus, 8) (by simp [controlWidths])

theorem objWidth_i2cCursor : objWidth oI2cCursor = 8 := objWidth_of_mem_controlWidths (oI2cCursor, 8) (by simp [controlWidths])

@[simp] theorem i2cByte_setObj (key v : Nat) (s : State) (i : Nat) : i2cByte (setObj key v s) i = i2cByte s i := rfl

@[simp] theorem i2cByte_touch (key : Nat) (s : State) (i : Nat) : i2cByte (touch key s) i = i2cByte s i := by rw [i2cByte, touch_io, i2cByte]

theorem i2cByte_setI2cByte (i v : Nat) (s : State) : i2cByte (setI2cByte i v s) i = v % 2 ^ 8 := by
  rw [i2cByte, setI2cByte, mapGet_mapSet_same, BitVec.toNat_ofNat]

theorem i2cByte_setI2cByte_other {i j : Nat} (v : Nat) (s : State) (h : j ≠ i) : i2cByte (setI2cByte i v s) j = i2cByte s j := by
  rw [i2cByte, setI2cByte, mapGet_mapSet_other _ _ _ h, i2cByte]

/-- A byte of the buffer after bytes are stored from `n` on. -/
theorem i2cByte_fillI2c (n : Nat) (bs : List Byte) (s : State) (i : Nat) :
    i2cByte (fillI2c n bs s) i = if n ≤ i ∧ i < n + bs.length then (bs.getD (i - n) 0).toNat else i2cByte s i := by
  induction bs generalizing n s with
  | nil => rw [fillI2c, if_neg (by simp)]
  | cons b bs ih =>
    rw [fillI2c, ih]
    rcases Nat.lt_trichotomy i n with h | rfl | h
    · rw [if_neg (by omega), if_neg (by omega), i2cByte_setI2cByte_other _ _ (by omega)]
    · have hb : b.toNat % 2 ^ 8 = b.toNat := Nat.mod_eq_of_lt b.isLt
      rw [if_neg (by omega), if_pos (by simp), i2cByte_setI2cByte, Nat.sub_self, List.getD_cons_zero, hb]
    · have hi : i - n = i - (n + 1) + 1 := by omega
      rw [List.length_cons, hi, List.getD_cons_succ]
      exact if_congr (by omega) rfl (i2cByte_setI2cByte_other _ _ (by omega))

theorem fillI2c_changes (n : Nat) (bs : List Byte) (s : State) :
    fillI2c n bs s = { s with io := { s.io with lands := { s.io.lands with i2cBuf := (fillI2c n bs s).io.lands.i2cBuf } } } := by
  induction bs generalizing n s with
  | nil => rfl
  | cons b bs ih => rw [fillI2c, ih]; rfl

/-! ### I2C transactions (R439, R444) -/

section
variable {m : Nat} {s : State}

theorem execI2cStart_idle (hs : Serves m s) (h : i2cRuns s = false) :
    exec (.i2cStart m) s = .next (touch oI2cCommand (emit (.i2c (getObj s oI2cAddress) ((List.range (getObj s oI2cWriteLen)).map fun i => BitVec.ofNat 8 (i2cByte s i))
      (getObj s oI2cReadLen)) (setObj oI2cStatus 0xFF s))) := by
  show execI2cStart m s = _
  refine whenFree_eq_next hs ?_
  rw [wI2cCommand, if_neg (by decide), if_neg (by rw [h]; decide), ackWrite_done]

theorem execI2cStart_running (hs : Serves m s) (h : i2cRuns s = true) : exec (.i2cStart m) s = .next (refuse m oI2cCommand 2 1 s) := by
  show execI2cStart m s = _
  refine whenFree_eq_next hs ?_
  rw [wI2cCommand, if_neg (by decide), if_pos h, ackWrite_refused]

theorem execI2cDataAccess_write (hs : Serves m s) (h : i2cRuns s = false) (v : Nat) :
    exec (.i2cDataAccess m (some v)) s = .next (touch oI2cData (i2cNext (setI2cByte (getObj s oI2cCursor) (v % 256) s))) := by
  show execI2cDataAccess m (some v) s = _
  refine whenFree_eq_next hs ?_
  dsimp only
  rw [wI2cData, if_neg (by rw [h]; decide), ackWrite_done]

theorem execI2cDataAccess_write_running (hs : Serves m s) (h : i2cRuns s = true) (v : Nat) :
    exec (.i2cDataAccess m (some v)) s = .next (refuse m oI2cData 2 (v % 256) s) := by
  show execI2cDataAccess m (some v) s = _
  refine whenFree_eq_next hs ?_
  dsimp only
  rw [wI2cData, if_pos h, ackWrite_refused]

theorem execI2cDataAccess_read (hs : Serves m s) :
    exec (.i2cDataAccess m none) s = .next (answer m (i2cByte s (getObj s oI2cCursor)) (i2cNext s)) := by
  show execI2cDataAccess m none s = _
  exact whenFree_eq_next hs rfl

theorem execI2cTransactionComplete_running (hl : Live s) (h : i2cRuns s = true) {result : Nat} (hr : result ≤ 3) (data : List Byte) :
    exec (.i2cTransactionComplete result data) s = .next (setObj oI2cStatus result (fillI2c 0 (data.take (getObj s oI2cReadLen)) s)) := by
  show execI2cTransactionComplete result data s = _
  exact whenLive_eq_next hl (if_pos ⟨h, hr⟩)

theorem execI2cStretchTimeout_running (hl : Live s) (h : i2cRuns s = true) : exec .i2cStretchTimeout s = .next (emit .i2cClear (setObj oI2cStatus 4 s)) := by
  show execI2cStretchTimeout s = _
  exact whenLive_eq_next hl (if_pos h)

end

/-- The cursor moves on by one byte. -/
theorem getObj_i2cNext (s : State) : getObj (i2cNext s) oI2cCursor = (getObj s oI2cCursor + 1) % 256 := by
  rw [i2cNext, getObj_setObj, objWidth_i2cCursor]
  exact Nat.mod_mod _ _

/-! ### The function mux (R440, R441) -/

theorem objWidth_pinmux : ∀ land < 32, objWidth (oPinmux land) = 8 := fun land hland =>
  objWidth_of_mem_controlWidths (oPinmux land, 8) (List.mem_append_right _ (List.mem_map_of_mem (List.mem_range.2 hland)))

/-- The lands' mux objects are basic objects. -/
theorem oPinmux_basic : ∀ land < 32, oPinmux land % 256 < 0x1F := by
  intro land hland
  unfold oPinmux oPinmuxFunction oPinmuxHiFunction
  split <;> omega

theorem oPinmux_injective : ∀ land < 32, ∀ l < 32, l ≠ land → oPinmux l ≠ oPinmux land := by
  intro land hland l hl hne
  unfold oPinmux oPinmuxFunction oPinmuxHiFunction
  split <;> split <;> omega

/-- A land's level follows; what the land carries and what switches stay. -/
theorem refreshPin_switching (land : Nat) (s : State) : (refreshPin land s).io.lands.switching = s.io.lands.switching := by
  unfold refreshPin
  dsimp only
  split
  · rfl
  · split <;> rfl

theorem refreshPin_objs (land : Nat) (s : State) : (refreshPin land s).objs = s.objs :=
  (refreshPin_frame (Leaves.refl 0x20000000000000000000001 s) (FieldsIn.refl _)).objs (by decide)

/-- The mute that a land carried is released when the land takes another function. -/
def muteLeft (land code : Nat) (s : State) : State := if muxCode s land = 3 ∧ code ≠ 3 then releaseMute s else s

theorem releaseMute_changes (s : State) :
    releaseMute s = { s with io := { s.io with lands := { s.io.lands with
      muteLevel := (releaseMute s).io.lands.muteLevel, muteHold := (releaseMute s).io.lands.muteHold } } } := by
  unfold releaseMute
  split <;> rfl

theorem muteLeft_changes (land code : Nat) (s : State) :
    muteLeft land code s = { s with io := { s.io with lands := { s.io.lands with
      muteLevel := (muteLeft land code s).io.lands.muteLevel, muteHold := (muteLeft land code s).io.lands.muteHold } } } := by
  unfold muteLeft
  split
  · exact releaseMute_changes s
  · rfl

/-- A land that switches: its object, and the tick at which the switch began. -/
def switchBegun (land code : Nat) (s : State) : State :=
  let u := setObj (oPinmux land) code (muteLeft land code s)
  { u with io := { u.io with lands := { u.io.lands with switching := mapPut u.io.lands.switching land (ticks u) } } }

theorem startSwitch_eq (land code : Nat) (s : State) : startSwitch land code s = refreshPin land (switchBegun land code s) := rfl

theorem switchBegun_objs (land code : Nat) (s : State) : (switchBegun land code s).objs = (setObj (oPinmux land) code s).objs := by
  show (setObj (oPinmux land) code (muteLeft land code s)).objs = _
  rw [muteLeft_changes]
  rfl

theorem mapFind_startSwitch (land code : Nat) (s : State) : mapFind (startSwitch land code s).io.lands.switching land = some (ticks s) := by
  have hticks : ticks (muteLeft land code s) = ticks s := by rw [muteLeft_changes]; rfl
  rw [startSwitch_eq, refreshPin_switching, switchBegun, mapFind_mapPut_same, ← hticks]
  rfl

theorem getObj_startSwitch (land code : Nat) (s : State) (k : Nat) : getObj (startSwitch land code s) k = getObj (setObj (oPinmux land) code s) k := by
  rw [getObj, startSwitch_eq, refreshPin_objs, switchBegun_objs, getObj]

theorem muxCode_startSwitch {land code : Nat} (hland : land < 32) (hcode : code < 16) (s : State) : muxCode (startSwitch land code s) land = code := by
  have h8 : code < 2 ^ 8 := by omega
  rw [muxCode, getField, getObj_startSwitch, getObj_setObj, objWidth_pinmux land hland, Nat.mod_eq_of_lt h8]
  unfold bits
  omega

theorem muxCode_startSwitch_other {land l : Nat} (hland : land < 32) (hl : l < 32) (h : l ≠ land) (code : Nat) (s : State) :
    muxCode (startSwitch land code s) l = muxCode s l := by
  rw [muxCode, getField, getObj_startSwitch, getObj_setObj_other _ _ (oPinmux_injective land hland l hl h)]
  rfl

/-- A land's code reads the same after a write that sets a mode. -/
theorem muxCode_touch {land l : Nat} (hland : land < 32) (hl : l < 32) (s : State) : muxCode (touch (oPinmux land) s) l = muxCode s l := by
  have hbasic := oPinmux_basic land hland
  rw [muxCode, getField, getObj_touch_basic (by omega) (oPinmux_basic l hl)]
  rfl

theorem execPinFunctionSwitch_served {m land : Nat} {s : State} (hs : Serves m s) (hland : land < 32) (value : Nat) :
    exec (.pinFunctionSwitch m land value) s = .next (ackWrite (oPinmux land) (wPinmux m land (value % 256) s)).1 := by
  show execPinFunctionSwitch m land value s = _
  exact whenFree_eq_next hs (if_pos hland)

section
variable {m land v : Nat} {s : State}

theorem wPinmux_bad_code (h : 6 ≤ v % 16) : wPinmux m land v s = (refuse m (oPinmux land) 1 v s, .refused 1) := if_pos h

theorem wPinmux_second_mute (h : v % 16 = 3) (hother : ∃ l < 32, l ≠ land ∧ muxCode s l = 3) :
    wPinmux m land v s = (refuse m (oPinmux land) 2 v s, .refused 2) := by
  obtain ⟨l, hl, hne, hcode⟩ := hother
  have hany : ((List.range 32).any fun l => l != land && muxCode s l == 3) = true :=
    List.any_eq_true.2 ⟨l, List.mem_range.2 hl, by simp [hne, hcode]⟩
  rw [wPinmux, if_neg (by omega), if_pos ⟨h, hany⟩]

theorem wPinmux_switch (hcode : v % 16 < 6) (hmute : v % 16 ≠ 3) (hnew : v % 16 ≠ muxCode s land) :
    wPinmux m land v s = (startSwitch land (v % 16) s, .done) := by
  rw [wPinmux, if_neg (Nat.not_le.2 hcode), if_neg fun h => hmute h.1, if_neg fun h => hnew h.1]

end

/-- A switch leaves the engines, the Cistern and the partitions. -/
theorem startSwitch_rest (land code : Nat) (s : State) :
    (startSwitch land code s).tl = s.tl ∧ (startSwitch land code s).ci = s.ci ∧ (startSwitch land code s).pt = s.pt := by
  have h : Leaves 0x20000000000000000000005 s (startSwitch land code s) := startSwitch_frame (Leaves.refl _ s)
  exact ⟨leaves_tl h (by decide), leaves_ci h (by decide), leaves_pt h (by decide)⟩

/-- Settles O53: each command has one outcome in its case; the buffer and the mux objects are read through their own lemmas. -/
theorem lowSpeedLands : Obligations.LowSpeedLands := by
  intro m s hs
  have hl : Live s := hs.1
  refine ⟨fun hidle => ?_, fun hrun => ⟨execI2cStart_running hs hrun, execI2cStretchTimeout_running hl hrun, execI2cDataAccess_write_running hs hrun,
    fun result data hr => ?_⟩, fun hidle v => ?_, ?_, fun land value hland => ⟨fun hbad => ?_, fun hcode hother => ?_, fun hcode hmute hnew => ?_⟩⟩
  · refine ⟨_, execI2cStart_idle hs hidle, ?_, by rw [touch_out]; rfl, by rw [touch_changes]; rfl⟩
    rw [getObj_touch_basic (by decide) (by decide)]
    exact (getObj_setObj _ _ _).trans (by rw [objWidth_i2cStatus]; decide)
  · refine ⟨_, execI2cTransactionComplete_running hl hrun hr data, ?_, fun i hi hlen => ?_, fun i hi => ?_, ?_, ?_⟩
    · rw [getObj_setObj, objWidth_i2cStatus]; omega
    · rw [i2cByte_setObj, i2cByte_fillI2c, if_pos (by simp; omega), Nat.sub_zero]
      simp [List.getD_eq_getElem?_getD, hlen]
    · rw [i2cByte_setObj, i2cByte_fillI2c, if_neg (by simp; omega)]
    · rw [fillI2c_changes]; rfl
    · exact (otherObjects_of_objs (by rw [fillI2c_changes])).trans (otherObjects_setObj _ _ (by simp))
  · refine ⟨_, execI2cDataAccess_write hs hidle v, ?_, ?_, fun i hi => ?_⟩
    · rw [i2cByte_touch, i2cNext, i2cByte_setObj, i2cByte_setI2cByte]; omega
    · rw [getObj_touch_basic (by decide) (by decide), getObj_i2cNext]; rfl
    · rw [i2cByte_touch, i2cNext, i2cByte_setObj, i2cByte_setI2cByte_other _ _ hi]
  · exact ⟨_, execI2cDataAccess_read hs, rfl, getObj_i2cNext s, otherObjects_setObj _ s (by simp)⟩
  · rw [execPinFunctionSwitch_served hs hland, wPinmux_bad_code hbad, ackWrite_refused]
  · rw [execPinFunctionSwitch_served hs hland, wPinmux_second_mute hcode hother, ackWrite_refused]
  · obtain ⟨htl, hci, hpt⟩ := startSwitch_rest land (value % 256 % 16) s
    refine ⟨_, by rw [execPinFunctionSwitch_served hs hland, wPinmux_switch hcode hmute hnew, ackWrite_done], ?_, ?_, fun l hlt hne => ?_, ?_, ?_, ?_⟩
    · rw [muxCode_touch hland hland, muxCode_startSwitch hland (by omega)]
    · rw [touch_io, mapFind_startSwitch]
    · rw [muxCode_touch hland hlt, muxCode_startSwitch_other hland hlt hne]
    · rw [touch_tl, htl]
    · rw [touch_ci, hci]
    · rw [touch_pt, hpt]

end Sys2Proof.Proofs.Lands
end

section
namespace Sys2Proof.Proofs.CanNode
open Sys2Proof Sys2Proof.Machine
open Sys2Proof.Proofs.TensorTile Sys2Proof.Proofs.TransformUnit Sys2Proof.Proofs.FrameStreams Sys2Proof.Proofs.ImageLoad

/-! ### Network management (R436) -/

/-- The node's number is none of the objects that its reset writes. -/
theorem getObj_commDefaults_nodeId (s : State) : getObj (commDefaults s) oCanNodeId = getObj s oCanNodeId := by
  have hindex : inIndex 0x1000 0x1FFF oCanNodeId = false := by decide
  have hcobs (f : Nat → Nat) (u : State) : OtherObjects ((List.range 8).map oCommTpdoCob) u ((List.range 8).foldl (fun s t => setObj (oCommTpdoCob t) (f t) s) u) :=
    otherObjects_foldl (fun _ _ ht => otherObjects_setObj _ _ (List.mem_map_of_mem ht)) u
  unfold commDefaults
  dsimp only
  rw [hcobs _ _ _ (by decide), getObj_setObj_other _ _ (by decide), getObj_dropObjs_kept (by rw [hindex, Bool.false_and])]

/-- The node reset, before its boot-up message goes out. -/
def canCleared (s : State) : State :=
  let u := commDefaults s
  setField oCanErrors 15 0 0 { u with io := { u.io with can :=
    { Can.init with nmt := 127, bitrate := getObj u oCanBitrate, heartbeatAt := getObj u oCanTimestamp } } }

theorem canReset_talking {s : State} (h : getObj s oCanNodeId ≠ 0) :
    canReset s = emit (.can (0x700 + getObj s oCanNodeId) [0]) (canCleared s) := by
  have hnode : getObj (canCleared s) oCanNodeId = getObj s oCanNodeId :=
    (getObj_setObj_other _ _ (by decide)).trans (getObj_commDefaults_nodeId s)
  have hreset : canReset s = if getObj (canCleared s) oCanNodeId = 0 then canCleared s
      else emit (.can (0x700 + getObj (canCleared s) oCanNodeId) [0]) (canCleared s) := rfl
  rw [hreset, hnode, if_neg h]

theorem canCleared_out (s : State) : (canCleared s).out = s.out :=
  (commDefaults_frame (Leaves.refl 4 s) (FieldsIn.refl _)).out (by decide)

theorem canReset_rest (s : State) : (canReset s).tl = s.tl ∧ (canReset s).ci = s.ci := by
  have h : Leaves 0x10000000000000000000005 s (canReset s) := canReset_frame (Leaves.refl _ s)
  exact ⟨leaves_tl h (by decide), leaves_ci h (by decide)⟩

theorem nodeId_of_canTalks {s : State} (h : canTalks s = true) : getObj s oCanNodeId ≠ 0 := by
  simp only [canTalks, Bool.and_eq_true, decide_eq_true_eq] at h
  exact h.1.1

theorem nmtOperational_changes (s : State) :
    (nmtOperational s).io.can.nmt = 5 ∧ nmtOperational s = { s with io := { s.io with can := (nmtOperational s).io.can } } := by
  unfold nmtOperational
  split
  case isTrue h => exact ⟨h, rfl⟩
  case isFalse => exact ⟨rfl, rfl⟩

/-- A talking node does what the command of a `whenLive` says. -/
theorem whenTalking {s : State} (hl : Live s) (ht : canTalks s = true) (f : State → State) :
    whenLive s (fun s => if canTalks s then f s else s) = .next (f s) := whenLive_eq_next hl (if_pos ht)

/-! ### TPDOs of a synchronous type (R436) -/

section
variable {s : State} {t : Nat} (hon : tpdoOn s t = true) (h1 : 1 ≤ getObj s (oCommTpdoTransmission t)) (h2 : getObj s (oCommTpdoTransmission t) ≤ 240)
include hon h1 h2

theorem syncTpdo_due (h : getObj s (oCommTpdoTransmission t) ≤ mapGet 0 s.io.can.syncs t + 1) : syncTpdo t s = sendTpdo t s := by
  rw [syncTpdo, if_pos ⟨hon, h1, h2⟩, if_pos h]

theorem syncTpdo_counts (h : mapGet 0 s.io.can.syncs t + 1 < getObj s (oCommTpdoTransmission t)) :
    syncTpdo t s = updCan (fun c => { c with syncs := mapPut c.syncs t (mapGet 0 s.io.can.syncs t + 1) }) s := by
  rw [syncTpdo, if_pos ⟨hon, h1, h2⟩, if_neg (Nat.not_le.2 h)]

end

/-! ### Bus errors (R444) -/

theorem objWidth_canErrors : objWidth oCanErrors = 32 := objWidth_of_mem_controlWidths (oCanErrors, 32) (by simp [controlWidths])

/-- The two error counts and the count of bus-off entries as the object packs them. -/
theorem getField_errorWord (n rec tec : Nat) (s : State) :
    let t := setObj oCanErrors (n % 65536 * 65536 + min rec 255 * 256 + min tec 255) s
    getField t oCanErrors 7 0 = min tec 255 ∧ getField t oCanErrors 15 8 = min rec 255 ∧ getField t oCanErrors 31 16 = n % 65536 := by
  dsimp only
  simp only [getField, getObj_setObj, objWidth_canErrors, bits]
  omega

theorem execCanBusError_node {s : State} (hl : Live s) (hnode : getObj s oCanNodeId ≠ 0) (tec rec : Nat) (off : Bool) :
    exec (.canBusError tec rec off) s = .next
      (setObj oCanErrors ((getField s oCanErrors 31 16 + b2n (off && !s.io.can.busOff)) % 65536 * 65536 + min rec 255 * 256 + min tec 255)
        (updCan (fun c => { c with busOff := off }) s)) := by
  show execCanBusError tec rec off s = _
  exact whenLive_eq_next hl (if_neg hnode)

/-- An entry into bus-off counts once. -/
theorem b2n_entersBusOff (off was : Bool) : b2n (off && !was) = if off = true ∧ was = false then 1 else 0 := by
  cases off <;> cases was <;> rfl

/-- Settles O50: each event of a node that talks has one outcome; a TPDO goes out through `sendTpdo` alone. -/
theorem nodeEvents : Obligations.NodeEvents := by
  refine ⟨fun s hl ht => ⟨?_, ?_, ?_, ?_, fun hon hdue => ?_⟩, fun s hl => ⟨?_, fun t hon h1 h2 => ?_, fun t hlt hon htype hon' hdue hinh => ?_, fun _ => rfl⟩,
    fun tec rec off s hl hnode => ?_⟩
  · have hreset := canReset_talking (nodeId_of_canTalks ht)
    refine ⟨whenTalking hl ht canReset, whenTalking hl ht canReset, ?_, ?_, canReset_rest s⟩
    · rw [hreset]; rfl
    · rw [hreset, emit_out, canCleared_out]
  · exact ⟨_, whenTalking hl ht nmtOperational, nmtOperational_changes s⟩
  · exact whenTalking hl ht _
  · exact whenTalking hl ht _
  · show execHeartbeatTimer s = _
    exact whenLive_eq_next hl (if_pos ⟨ht, hon, hdue⟩)
  · show execSyncMessage _ s = _
    exact whenLive_eq_next hl (if_pos rfl)
  · exact ⟨syncTpdo_due hon h1 h2, fun hlow => by rw [syncTpdo_counts hon h1 h2 hlow]; exact ⟨rfl, mapGet_mapPut_same _ _ _ _⟩⟩
  · show execTpdoEventTimer t s = _
    exact whenLive_eq_next hl (if_pos ⟨hlt, hon, htype, hon', hdue, hinh⟩)
  · obtain ⟨htec, hrec, hcount⟩ := getField_errorWord (getField s oCanErrors 31 16 + b2n (off && !s.io.can.busOff)) rec tec (updCan (fun c => { c with busOff := off }) s)
    exact ⟨_, execCanBusError_node hl hnode tec rec off, rfl, htec, hrec, by rw [hcount, b2n_entersBusOff], rfl, otherObjects_setObj _ _ (by simp)⟩

end Sys2Proof.Proofs.CanNode
end

section
namespace Sys2Proof.Proofs.FirmwareControl
open Sys2Proof Sys2Proof.Machine
open Sys2Proof.Proofs.TensorTile Sys2Proof.Proofs.TransformUnit Sys2Proof.Proofs.CisternStore Sys2Proof.Proofs.ImageLoad

/-! ### Firmware commands (R495, R621) -/

section
variable {m : Nat} {s : State} (data : Option (List Byte))

theorem wFwCommand_notReady {v : Nat} (hv : 1 ≤ v ∧ v ≤ 6) (h : weirReady s = false) : wFwCommand m v data s = (refuse m oFwCommand 2 v s, .refused 2) := by
  rw [wFwCommand, if_neg (not_not_intro hv), if_pos (by rw [h]; decide)]

/-- With Weir ready, the code picks the command. -/
theorem wFwCommand_ready {v : Nat} (hv : 1 ≤ v ∧ v ≤ 6) (h : weirReady s = true) :
    wFwCommand m v data s = if v = 1 then fwStart s else if v = 2 then fwStop s else if v = 3 then fwProgramBlock s
      else if v = 4 then fwCopy data s else if v = 5 then fwActivate s else fwVerify s := by
  rw [wFwCommand, if_neg (not_not_intro hv), if_neg (not_not_intro h)]

/-- A write of the command that is served, with what it comes to. -/
theorem whenFree_wFwCommand (hs : Serves m s) (c : Instr) {v : Nat} {r : State × Ack} (h : wFwCommand m v data s = r) :
    whenFree m c s (fun s => (ackWrite oFwCommand (wFwCommand m v data s)).1) = .next (ackWrite oFwCommand r).1 :=
  whenFree_eq_next hs (by rw [h])

end

section
variable {m : Nat} {s : State} (hs : Serves m s)
include hs

theorem execVerify_notReady (h : weirReady s = false) : exec (.verify m) s = .next (refuse m oFwCommand 2 6 s) :=
  whenFree_wFwCommand none hs _ (wFwCommand_notReady none (by decide) h)

theorem execFwDataAccess_read_served : exec (.fwDataAccess m none) s = .next (answer m (fwDataAccess none s).1 (fwDataAccess none s).2) := by
  show execFwDataAccess m none s = _
  exact whenFree_eq_next hs rfl

theorem execFwDataAccess_write_served (v : Nat) : exec (.fwDataAccess m (some v)) s = .next (fwDataAccess (some v) s).2 := by
  show execFwDataAccess m (some v) s = _
  exact whenFree_eq_next hs rfl

variable (h : weirReady s = true)
include h

theorem execStartRill_ready : exec (.startRill m) s = .next (ackWrite oFwCommand (fwStart s)).1 :=
  whenFree_wFwCommand none hs _ (wFwCommand_ready none (by decide) h)

theorem execStopRill_ready : exec (.stopRill m) s = .next (ackWrite oFwCommand (fwStop s)).1 :=
  whenFree_wFwCommand none hs _ (wFwCommand_ready none (by decide) h)

theorem execProgramBlock_ready : exec (.programBlock m) s = .next (ackWrite oFwCommand (fwProgramBlock s)).1 :=
  whenFree_wFwCommand none hs _ (wFwCommand_ready none (by decide) h)

theorem execCopyFromHost_ready (data : Option (List Byte)) : exec (.copyFromHost m data) s = .next (ackWrite oFwCommand (fwCopy data s)).1 :=
  whenFree_wFwCommand data hs _ (wFwCommand_ready data (by decide) h)

theorem execActivate_ready : exec (.activate m) s = .next (ackWrite oFwCommand (fwActivate s)).1 :=
  whenFree_wFwCommand none hs _ (wFwCommand_ready none (by decide) h)

theorem execVerify_ready : exec (.verify m) s = .next (ackWrite oFwCommand (fwVerify s)).1 :=
  whenFree_wFwCommand none hs _ (wFwCommand_ready none (by decide) h)

end

/-- A command that runs, on the target in force. -/
def withCommand (code block : Nat) (bytes : List Byte) (failed : Option Nat) (s : State) : State :=
  { s with fw := { s.fw with cmd := some { code := code, target := getObj s oFwTarget, block := block, bytes := bytes, failed := failed } } }

/-- The slot activated, in the record and, for a Rill slot, in its object. -/
def activated (s : State) : State :=
  if getObj s oFwTarget < 2 then writeActivation (getObj s oFwTarget) (activation s).1.2.2 s
  else setObj oFwRillSlot (getObj s oFwTarget - 2) (writeActivation (activation s).1.2.1 (getObj s oFwTarget - 2) s)

section
variable {s : State} (hidle : fwBusy s = false)
include hidle

theorem fwStart_idle : fwStart s = (setFwStatus 0xFF 0 { s with fw := { s.fw with reading := some ((activation s).1.2.2, false) } }, .done) :=
  if_neg (by rw [hidle]; decide)

theorem cmd_of_idle : s.fw.cmd = none := by
  simp only [fwBusy, Bool.or_eq_false_iff] at hidle
  exact Option.not_isSome_iff_eq_none.1 (by rw [hidle.1.1]; decide)

theorem fwStop_idle : fwStop s = (setFwStatus 0 0 (setObj oFwRillState 6 (rillGone { s with fw := { s.fw with reading := none } })), .done) := by
  have hcmd : (setObj oFwRillState 6 (rillGone { s with fw := { s.fw with reading := none } })).fw.cmd = none :=
    have hnone := cmd_of_idle hidle
    hnone
  rw [fwStop]
  dsimp only
  rw [if_neg (by rw [hcmd]; decide)]

theorem fwProgramBlock_refused {r : Nat} (h : programRefusal s false = some r) : fwProgramBlock s = (fwResult r 0 s, .quiet) := by
  rw [fwProgramBlock, if_neg (by rw [hidle]; decide), h]

theorem fwProgramBlock_starts (h : programRefusal s false = none) :
    fwProgramBlock s = (setFwStatus 0xFF 0 (setSlotState (getObj s oFwTarget) 3 (programBlocks (getObj s oFwTarget) (getObj s oFwBlock) (stagingBytes s)
      (withCommand 3 (getObj s oFwBlock) (stagingBytes s) none s))), .done) := by
  rw [fwProgramBlock, if_neg (by rw [hidle]; decide), h]
  rfl

theorem fwCopy_starts {bs : List Byte} (h : programRefusal s true = none) (hlen : getObj s oFwSourceLength ≤ bs.length) :
    fwCopy (some bs) s = (setFwStatus 0xFF 0 (setSlotState (getObj s oFwTarget) 3 (programBlocks (getObj s oFwTarget) 0 (bs.take (getObj s oFwSourceLength))
      (withCommand 4 0 (bs.take (getObj s oFwSourceLength)) none s))), .done) := by
  rw [fwCopy, if_neg (by rw [hidle]; decide), h]
  dsimp only
  rw [if_pos hlen]
  rfl

theorem fwVerify_known (ht : getObj s oFwTarget < 4) :
    fwVerify s = (setFwStatus 0xFF 0 (setSlotState (getObj s oFwTarget) (if slotVerifies s (getObj s oFwTarget) then 1 else 2)
      (withCommand 6 0 [] (if slotVerifies s (getObj s oFwTarget) then none else some 4) s)), .done) := by
  rw [fwVerify]
  dsimp only
  rw [if_neg (by rw [hidle]; decide), if_neg (not_not_intro ht)]
  rfl

theorem fwVerify_unknown (ht : 4 ≤ getObj s oFwTarget) : fwVerify s = (fwResult 3 0 s, .quiet) := by
  rw [fwVerify]
  dsimp only
  rw [if_neg (by rw [hidle]; decide), if_pos (Nat.not_lt.2 ht)]

theorem fwActivate_unknown (ht : 4 ≤ getObj s oFwTarget) : fwActivate s = (fwResult 3 0 s, .quiet) := by
  rw [fwActivate]
  dsimp only
  rw [if_neg (by rw [hidle]; decide), if_pos (Nat.not_lt.2 ht)]

theorem fwActivate_bad (ht : getObj s oFwTarget < 4) (hbad : slotVerifies s (getObj s oFwTarget) = false) :
    fwActivate s = (setFwStatus 0xFF 0 (setSlotState (getObj s oFwTarget) 2 (withCommand 5 0 [] (some 4) s)), .done) := by
  rw [fwActivate]
  dsimp only
  rw [if_neg (by rw [hidle]; decide), if_neg (not_not_intro ht), if_neg (by rw [hbad]; decide)]
  rfl

theorem fwActivate_good (ht : getObj s oFwTarget < 4) (hgood : slotVerifies s (getObj s oFwTarget) = true) :
    fwActivate s = (setFwStatus 0xFF 0 (setSlotState (getObj s oFwTarget) 1
      { activated s with fw := { (activated s).fw with cmd := (withCommand 5 0 [] none s).fw.cmd } }), .done) := by
  rw [fwActivate]
  dsimp only
  rw [if_neg (by rw [hidle]; decide), if_neg (not_not_intro ht), if_pos hgood]
  rfl

end

/-! ### A command that meets another (R451, R621) -/

section
variable {s : State} (hbusy : fwBusy s = true)
include hbusy

theorem fwStart_busy : fwStart s = fwRefuseBusy s := if_pos hbusy

theorem fwProgramBlock_busy : fwProgramBlock s = fwRefuseBusy s := if_pos hbusy

theorem fwActivate_busy : fwActivate s = fwRefuseBusy s := if_pos hbusy

theorem fwVerify_busy : fwVerify s = fwRefuseBusy s := if_pos hbusy

end

/-- The refusal is read in od.last_refused and touches nothing of the flash and of what runs. -/
theorem fwRefuseBusy_reads (s : State) :
    let t := (fwRefuseBusy s).1
    getObj t oOdLastRefused = refusalWord oFwCommand 2 % 2 ^ 32 ∧ t.flash = s.flash ∧ t.fw.cmd = s.fw.cmd ∧ t.fw.reading = s.fw.reading := by
  have hcapture : Leaves 0x800000300000000000000004000004 s (capture 0x0107 31 0 0x01000000 (getObj s oFwTarget) 0 s) :=
    capture_frame (Leaves.refl _ s)
  refine ⟨?_, hcapture.flash (by decide), hcapture.fw_cmd (by decide), hcapture.fw_reading (by decide)⟩
  exact (getObj_setObj _ _ _).trans (by rw [objWidth_lastRefused])

/-! ### The end of a command, and of a read of the Rill slot (R480, R492) -/

/-- The state with no firmware command in progress. -/
def withoutCommand (s : State) : State := { s with fw := { s.fw with cmd := none } }

section
variable {s : State} {c : FwCmd} (hl : Live s) (hc : s.fw.cmd = some c)
include hl hc

theorem execFlashCommandComplete_failed {r : Nat} (h : c.failed = some r) (same : Bool) :
    exec (.flashCommandComplete same) s = .next (fwResult r 0 (withoutCommand s)) := by
  show execFlashCommandComplete same s = _
  refine whenLive_eq_next hl ?_
  dsimp only
  rw [hc]
  dsimp only
  rw [h]
  rfl

theorem execFlashCommandComplete_programmed (h : c.failed = none) (hcode : c.code = 3 ∨ c.code = 4) (same : Bool) :
    exec (.flashCommandComplete same) s = .next (if same then fwResult 0 (ceilDiv c.bytes.length 65536) (withoutCommand s)
      else fwResult 5 0 (spoilBlocks c (withoutCommand s))) := by
  show execFlashCommandComplete same s = _
  refine whenLive_eq_next hl ?_
  dsimp only
  rw [hc]
  dsimp only
  rw [h]
  dsimp only
  rw [if_pos hcode]
  rfl

theorem execFlashCommandComplete_other (h : c.failed = none) (h3 : c.code ≠ 3) (h4 : c.code ≠ 4) (same : Bool) :
    exec (.flashCommandComplete same) s = .next (fwResult 0 0 (withoutCommand s)) := by
  show execFlashCommandComplete same s = _
  refine whenLive_eq_next hl ?_
  dsimp only
  rw [hc]
  dsimp only
  rw [h]
  dsimp only
  rw [if_neg (by simp [h3, h4])]
  rfl

end

theorem execRillImageReadComplete_reading {s : State} (hl : Live s) {slot : Nat} {restart : Bool} (h : s.fw.reading = some (slot, restart)) :
    exec .rillImageReadComplete s = .next (if restart then finishRillStart slot s
      else setFwStatus (if getObj (finishRillStart slot s) oFwRillState = 5 then 4 else 0) 0 (finishRillStart slot s)) := by
  show execRillImageReadComplete s = _
  refine whenLive_eq_next hl ?_
  dsimp only
  rw [h]

/-! ### The staging window (R495, R496) -/

theorem objWidth_fwCursor : objWidth oFwCursor = 32 := objWidth_of_mem_controlWidths (oFwCursor, 32) (by simp [controlWidths])

/-- The cursor moves on by a word of 4 bytes. -/
theorem getObj_fwDataAccess_cursor (wr : Option Nat) (s : State) :
    getObj (fwDataAccess wr s).2 oFwCursor = (getField s oFwCursor 15 2 + 1) % 16384 * 4 := by
  refine (getObj_setObj _ _ _).trans ?_
  rw [objWidth_fwCursor]
  omega

/-- Settles O54: with Weir ready each code is its own command; what a command in progress and the window do, by their cases. -/
theorem firmwareCommands : Obligations.FirmwareCommands := by
  intro m s hs
  have hl : Live s := hs.1
  refine ⟨fun hready hidle => ?_, fun hready hbusy => ?_, fun hdown => ?_, fun c hc => ⟨fun r same h => ?_, fun h hcode => ?_, fun same h h3 h4 => ?_⟩, ⟨?_, fun v => ?_⟩,
    fun slot h => ?_, fun slot h => ?_⟩
  · refine ⟨?_, ?_, fun h => ?_, fun r h => ?_, fun bs h hlen => ?_, fun ht => ?_, fun ht hgood => ?_, fun h2 ht hgood => ?_, fun ht => ⟨?_, ?_⟩, fun ht hbad => ?_⟩
    · rw [execStartRill_ready hs hready, fwStart_idle hidle, ackWrite_done]
    · rw [execStopRill_ready hs hready, fwStop_idle hidle, ackWrite_done]
    · rw [execProgramBlock_ready hs hready, fwProgramBlock_starts hidle h, ackWrite_done]; rfl
    · rw [execProgramBlock_ready hs hready, fwProgramBlock_refused hidle h, ackWrite_quiet]
    · rw [execCopyFromHost_ready hs hready, fwCopy_starts hidle h hlen, ackWrite_done]; rfl
    · rw [execVerify_ready hs hready, fwVerify_known hidle ht, ackWrite_done]; rfl
    · rw [execActivate_ready hs hready, fwActivate_good hidle (by omega) hgood, activated, if_pos ht, ackWrite_done]; rfl
    · rw [execActivate_ready hs hready, fwActivate_good hidle ht hgood, activated, if_neg (Nat.not_lt.2 h2), ackWrite_done]; rfl
    · rw [execActivate_ready hs hready, fwActivate_unknown hidle ht, ackWrite_quiet]
    · rw [execVerify_ready hs hready, fwVerify_unknown hidle ht, ackWrite_quiet]
    · rw [execActivate_ready hs hready, fwActivate_bad hidle ht hbad, ackWrite_done]; rfl
  · refine ⟨(fwRefuseBusy s).1, ?_, ?_, ?_, ?_, fwRefuseBusy_reads s⟩
    · rw [execProgramBlock_ready hs hready, fwProgramBlock_busy hbusy]; rfl
    · rw [execVerify_ready hs hready, fwVerify_busy hbusy]; rfl
    · rw [execActivate_ready hs hready, fwActivate_busy hbusy]; rfl
    · rw [execStartRill_ready hs hready, fwStart_busy hbusy]; rfl
  · exact execVerify_notReady hs hdown
  · exact execFlashCommandComplete_failed hl hc h same
  · exact ⟨(execFlashCommandComplete_programmed hl hc h hcode true).trans (congrArg _ (if_pos rfl)),
      (execFlashCommandComplete_programmed hl hc h hcode false).trans (congrArg _ (if_neg Bool.false_ne_true))⟩
  · exact execFlashCommandComplete_other hl hc h h3 h4 same
  · exact ⟨_, execFwDataAccess_read_served hs, rfl, getObj_fwDataAccess_cursor none s, rfl⟩
  · exact ⟨_, execFwDataAccess_write_served hs v, mapGet_mapSet_same _ _ _ _, fun j hj => mapGet_mapSet_other _ _ _ hj, getObj_fwDataAccess_cursor (some v) s⟩
  · rw [execRillImageReadComplete_reading hl h]; rfl
  · rw [execRillImageReadComplete_reading hl h]; rfl

end Sys2Proof.Proofs.FirmwareControl
end

section
namespace Sys2Proof.Proofs.Supervision
open Sys2Proof Sys2Proof.Machine
open Sys2Proof.Proofs.TensorTile Sys2Proof.Proofs.TransformUnit Sys2Proof.Proofs.CisternStore

/-! ### The activation record (R476) -/

/-- The activation record is read from the flash alone. -/
theorem activation_of_flash {s t : State} (h : t.flash = s.flash) : activation t = activation s := by
  have hbyte : flashByte t = flashByte s := funext fun a => by rw [flashByte, h, flashByte]
  have hread : flashRead t = flashRead s := funext fun a => funext fun n => by rw [flashRead, hbyte, flashRead]
  have hcopy (i : Nat) : recordCopy t i = recordCopy s i := by
    unfold recordCopy flashNat
    rw [hread]
  rw [activation, hcopy, hcopy, activation]

/-! ### Kicks (R483) -/

section
variable {m v : Nat} {s : State} (hs : Serves m s)
include hs

theorem execRillKick_served : exec (.rillKick m v) s = .next (ackWrite oFwRillKick (wRillKick m v s)).1 := by
  show execRillKick m v s = _
  exact whenFree_eq_next hs rfl

theorem execRillKick_running (h : getObj s oFwRillState = 1 ∨ getObj s oFwRillState = 2) :
    exec (.rillKick m v) s = .next (touch oFwRillKick (setObj oFwRillState 2 { s with fw := { s.fw with kicked := some (ticks s) } })) := by
  rw [execRillKick_served hs, wRillKick]
  dsimp only
  rw [if_neg (by omega), if_neg (by omega), ackWrite_done]

theorem execRillKick_refused (h : 3 ≤ getObj s oFwRillState) : exec (.rillKick m v) s = .next (refuse m oFwRillKick 2 v s) := by
  rw [execRillKick_served hs, wRillKick]
  dsimp only
  rw [if_pos h, ackWrite_refused]

end

/-! ### Unresponsive Rill (R484, R486) -/

theorem objWidth_rillState : objWidth oFwRillState = 8 := objWidth_of_mem_controlWidths (oFwRillState, 8) (by simp [controlWidths])

theorem objWidth_rillRestarts : objWidth oFwRillRestarts = 32 := objWidth_of_mem_controlWidths (oFwRillRestarts, 32) (by simp [controlWidths])

/-- Restarts within the last minute. -/
def recentRestarts (s : State) : List Nat := s.fw.restarts.filter fun t => decide (ticks s < t + minuteTicks)

/-- Rill made ready for a restart: state 3, its latches emptied, its waiting accesses discarded, and the restart counted. -/
def rillCleared (s : State) : State := addObj oFwRillRestarts 1 (setObj oFwRillState 3 (setParked 3 [] (clearLatches 3 (rillGone s))))

/-- The restart noted, with the slot that it reads. -/
def rillRestarted (s : State) : State :=
  { rillCleared s with fw := { (rillCleared s).fw with restarts := ticks s :: recentRestarts s, reading := some ((activation (rillCleared s)).1.2.2, true) } }

section
variable {s : State} (cause : Nat)

theorem rillUnresponsive_restarts (h : (recentRestarts s).length < getObj s oFwRestartLimit) :
    rillUnresponsive cause s = capture 0x0104 31 0 cause (getObj (rillRestarted s) oFwRillRestarts) 0 (rillRestarted s) := if_pos h

theorem rillUnresponsive_fails (h : getObj s oFwRestartLimit ≤ (recentRestarts s).length) :
    rillUnresponsive cause s = capture 0x0105 31 0 (getObj s oFwRillRestarts) 0 0 (setObj oFwRillState 5 (rillGone s)) := if_neg (Nat.not_lt.2 h)

end

/-- Where no Rill runs, only its version and the state of the pair read anew. -/
theorem rillGone_otherObjects (s : State) : OtherObjects [oIdentRillVersion, oCompatState] s (rillGone s) :=
  OtherObjects.trans (otherObjects_of_objs rfl) ((otherObjects_setObj _ _ (by simp)).trans (otherObjects_setObj _ _ (by simp)))

theorem rillRestarted_reads (s : State) :
    let t := rillRestarted s
    getObj t oFwRillState = 3 ∧ getObj t oFwRillRestarts = (getObj s oFwRillRestarts + 1) % 2 ^ 32 ∧ getLatches t 3 = Latches.init ∧ parkedOf t 3 = [] := by
  refine ⟨?_, ?_, mapGet_mapErase_same _ _ _, parkedOf_setParked 3 [] _⟩
  · show getObj (rillCleared s) oFwRillState = 3
    rw [rillCleared, getObj_addObj_other _ _ (by decide), getObj_setObj, objWidth_rillState]
    rfl
  · show getObj (rillCleared s) oFwRillRestarts = _
    rw [rillCleared, getObj_addObj, objWidth_rillRestarts, getObj_setObj_other _ _ (by decide)]
    show (getObj (rillGone s) oFwRillRestarts + 1) % 2 ^ 32 = _
    rw [rillGone_otherObjects s _ (by decide)]

/-! ### A restart of Weir (R584) -/

section
variable {s : State}

theorem execLockstepMismatch_up (hl : Live s) (hup : s.fw.weirUp = true) :
    exec .lockstepMismatch s = .next (setParked 4 [] (clearLatches 4 (capture 0x0106 31 0 0 0 0
      { s with fw := { s.fw with weirRestart := some (s.fw.weirRestart.getD 0) } }))) := by
  show execLockstepMismatch s = _
  exact whenLive_eq_next hl (if_pos hup)

/-- A capture while Weir restarts counts as lost where the queue is full; it ends no restart. -/
theorem capture_weirRestart (code part inst p0 p1 p2 : Nat) (s : State) :
    (capture code part inst p0 p1 p2 s).fw.weirRestart.isSome = s.fw.weirRestart.isSome := by
  unfold capture
  split
  · rfl
  · exact Option.isSome_map

section
variable {lost : Nat} (hl : Live s) (h : s.fw.weirRestart = some lost)
include hl h

theorem execWeirRestartComplete_boots {slot : Nat} (hslot : bootSlot s = some slot) :
    exec .weirRestartComplete s = .next (resumeFaults (runWeir slot lost s)) := by
  show execWeirRestartComplete s = _
  refine whenLive_eq_next hl ?_
  rw [h]
  dsimp only
  rw [hslot]

theorem execWeirRestartComplete_fails (hslot : bootSlot s = none) :
    exec .weirRestartComplete s = .next { s with fw := { s.fw with weirUp := false, weirRestart := none } } := by
  show execWeirRestartComplete s = _
  refine whenLive_eq_next hl ?_
  rw [h]
  dsimp only
  rw [hslot]

end

end

/-- Settles O55: a kick, an exception and the end of a restart have one outcome in each case; a restart is read through the state that it records. -/
theorem firmwareSupervision : Obligations.FirmwareSupervision := by
  refine ⟨fun m v s hs => ⟨execRillKick_running hs, execRillKick_refused hs⟩, fun s hl hsup => ⟨?_, fun hdue => ?_⟩, fun cause s => ⟨fun h => ?_, fun h => ?_⟩, fun s hl hup => ?_,
    fun lost slot s hl h hslot => ⟨execWeirRestartComplete_boots hl h hslot, rfl⟩, fun lost s hl h hslot => execWeirRestartComplete_fails hl h hslot⟩
  · show execRillException s = _
    exact whenLive_eq_next hl (if_pos hsup)
  · show execRillWatchdogExpiry s = _
    exact whenLive_eq_next hl (if_pos ⟨hsup, hdue⟩)
  · rw [rillUnresponsive_restarts cause h]
    have hcapture : Leaves 0x800000300000000000000004000004 (rillRestarted s)
      (capture 0x0104 31 0 cause (getObj (rillRestarted s) oFwRillRestarts) 0 (rillRestarted s)) := capture_frame (Leaves.refl _ _)
    obtain ⟨hstate, hrestarts, hlatches, hparked⟩ := rillRestarted_reads s
    refine ⟨?_, ?_, ?_, ?_, ?_, ?_, ?_, ?_, ?_, ?_⟩
    · rw [getObj_capture_other _ _ _ _ _ _ _ (by decide), hstate]
    · exact hcapture.fw_restarts (by decide)
    · have hactive : activation (rillCleared s) = activation s := activation_of_flash rfl
      rw [hcapture.fw_reading (by decide), ← hactive]
      rfl
    · rw [getObj_capture_other _ _ _ _ _ _ _ (by decide), hrestarts]
    · rw [getLatches, hcapture.latches (by decide)]; exact hlatches
    · rw [parkedOf, hcapture.sy_parked (by decide)]; exact hparked
    · rw [capture_tl]; rfl
    · rw [capture_ci]; rfl
    · rw [capture_pt]; rfl
    · rw [capture_io]; rfl
  · rw [rillUnresponsive_fails cause h]
    have hcapture : Leaves 0x800000300000000000000004000004 (setObj oFwRillState 5 (rillGone s))
      (capture 0x0105 31 0 (getObj s oFwRillRestarts) 0 0 (setObj oFwRillState 5 (rillGone s))) := capture_frame (Leaves.refl _ _)
    refine ⟨?_, hcapture.fw_restarts (by decide), by rw [capture_tl]; rfl, by rw [capture_ci]; rfl, by rw [capture_pt]; rfl, by rw [capture_io]; rfl⟩
    rw [getObj_capture_other _ _ _ _ _ _ _ (by decide), getObj_setObj, objWidth_rillState]
    rfl
  · refine ⟨_, execLockstepMismatch_up hl hup, ?_, ?_, mapGet_mapErase_same _ _ _, parkedOf_setParked 4 [] _, capture_tl .., capture_ci .., capture_pt .., capture_io .., capture_flash ..⟩
    · exact capture_weirRestart ..
    · have hrestart := capture_weirRestart 0x0106 31 0 0 0 0 { s with fw := { s.fw with weirRestart := some (s.fw.weirRestart.getD 0) } }
      rw [weirReady, Bool.and_eq_false_iff]
      exact .inr (Option.isNone_eq_false_iff.2 hrestart)

end Sys2Proof.Proofs.Supervision
end

section
namespace Sys2Proof.Proofs.Dictionary
open Sys2Proof Sys2Proof.Machine
open Sys2Proof.Proofs Sys2Proof.Proofs.TransformUnit Sys2Proof.Proofs.CisternStore

/-! ### Rows of objects (R446, R458) -/

theorem exists_fnOf_of_objRow {index sub : Nat} {r : DictRow} (hsub : sub < 256) (h : objRow (index * 256 + sub) = some r) :
    ∃ f i, fnOf index = some (f, i) ∧ rowOf f.rows sub = some r := by
  rw [objRow, show (index * 256 + sub) / 256 = index by omega, show (index * 256 + sub) % 256 = sub by omega] at h
  split at h
  · next f i hf => exact ⟨f, i, hf, h⟩
  · cases h

theorem pairHalf_iff {index sub : Nat} {high : Bool} {r : DictRow} (h : objRow (index * 256 + sub) = some r) :
    pairHalf index sub high = true ↔ r.width = 64 ∧ isHigh r sub = high := by
  rw [pairHalf, h]
  simp

theorem mem_rows_of_rowOf {rows : List DictRow} {sub : Nat} {r : DictRow} (h : rowOf rows sub = some r) : r ∈ rows := List.mem_of_find?_eq_some h

theorem mem_dictFns_of_fnOf {index : Nat} {f : DictFn} {i : Nat} (h : fnOf index = some (f, i)) : f ∈ dictFns := by
  obtain ⟨g, hg, he⟩ := Option.map_eq_some_iff.1 h
  cases he
  exact List.mem_of_find?_eq_some hg

/-- No pair of the map is write-only, and sync.data is not. -/
theorem rows_writeOnly : (∀ f ∈ dictFns, ∀ r ∈ f.rows, r.acc = .wo → r.width ≠ 64) ∧ ∀ r ∈ objRow oSyncData, r.acc ≠ .wo :=
  objectMap_reads.2.2.1

theorem width_of_writeOnly {index sub : Nat} {r : DictRow} (hsub : sub < 256) (h : objRow (index * 256 + sub) = some r) (hwo : r.acc = .wo) : r.width ≠ 64 := by
  obtain ⟨f, i, hf, hr⟩ := exists_fnOf_of_objRow hsub h
  exact rows_writeOnly.1 f (mem_dictFns_of_fnOf hf) r (mem_rows_of_rowOf hr) hwo

theorem objRow_of_fnOf {index sub : Nat} {f : DictFn} {i : Nat} (hsub : sub < 256) (h : fnOf index = some (f, i)) :
    objRow (index * 256 + sub) = rowOf f.rows sub := by
  rw [objRow, show (index * 256 + sub) / 256 = index by omega, show (index * 256 + sub) % 256 = sub by omega, h]

theorem objRow_of_fnOf_none {index sub : Nat} (hsub : sub < 256) (h : fnOf index = none) : objRow (index * 256 + sub) = none := by
  rw [objRow, show (index * 256 + sub) / 256 = index by omega, h]

/-! ### Words that are read (R452, R459) -/

section
variable {m index sub : Nat} {r : DictRow} {s : State}

theorem readWhole_writeOnly (hsub : sub < 256) (h : objRow (index * 256 + sub) = some r) (hwo : r.acc = .wo) : readWhole (index * 256 + sub) s = (0, s) := by
  obtain ⟨f, i, hf, hr⟩ := exists_fnOf_of_objRow hsub h
  rw [readWhole, show (index * 256 + sub) / 256 = index by omega, show (index * 256 + sub) % 256 = sub by omega, hf]
  dsimp only
  rw [hr]
  exact if_pos hwo

/-- A write-only object reads 0, which spends the master's read latch. -/
theorem readWord_writeOnly (hsub : sub < 256) (h : objRow (index * 256 + sub) = some r) (hwo : r.acc = .wo) :
    readWord m index sub s = (0, setLatches m { getLatches s m with read := none } s) := by
  rw [readWord, h]
  dsimp only
  rw [if_pos (width_of_writeOnly hsub h hwo), readWhole_writeOnly hsub h hwo]

/-- The low half of a pair reads its word and latches the high half. -/
theorem readWord_lowHalf (h : objRow (index * 256 + sub) = some r) (hpair : pairHalf index sub false = true) :
    readWord m index sub s = ((readWhole (index * 256 + sub) s).1 % 2 ^ 32,
      setLatches m { getLatches (readWhole (index * 256 + sub) s).2 m with read := some (index * 256 + sub, (readWhole (index * 256 + sub) s).1 / 2 ^ 32 % 2 ^ 32) }
        (readWhole (index * 256 + sub) s).2) := by
  obtain ⟨hwidth, hlow⟩ := (pairHalf_iff h).1 hpair
  rw [readWord, h]
  dsimp only
  rw [if_neg (not_not_intro hwidth), hlow]
  exact if_neg Bool.false_ne_true

end

/-! ### Words that are written (R451, R452, R460) -/

section
variable {m index sub : Nat} {f : DictFn} {i : Nat} {r : DictRow} {s : State}

theorem writeWord_readOnly (hf : fnOf index = some (f, i)) (hr : rowOf f.rows sub = some r) (hro : r.acc = .ro) (v : Nat) :
    writeWord m index sub v s = (s, .quiet) := by
  rw [writeWord, hf]
  dsimp only
  rw [hr]
  exact if_pos hro

theorem writeWord_lowHalf (hf : fnOf index = some (f, i)) (hr : rowOf f.rows sub = some r) (hacc : r.acc ≠ .ro) (hwidth : r.width = 64)
    (hlow : isHigh r sub = false) (v : Nat) : writeWord m index sub v s = writeLow m (index * 256 + sub) v s := by
  rw [writeWord, hf]
  dsimp only
  rw [hr]
  dsimp only
  rw [if_neg hacc, if_pos hwidth, hlow]
  exact if_neg Bool.false_ne_true

theorem writeWord_highHalf (hf : fnOf index = some (f, i)) (hr : rowOf f.rows sub = some r) (hacc : r.acc ≠ .ro) (hwidth : r.width = 64)
    (hhigh : isHigh r sub = true) (v : Nat) :
    writeWord m index sub v s = writeHigh m (index * 256 + sub - 1) v (writeOf m f.base i (sub - 1) (index * 256 + sub - 1)) s := by
  rw [writeWord, hf]
  dsimp only
  rw [hr]
  dsimp only
  rw [if_neg hacc, if_pos hwidth, hhigh]
  exact if_pos rfl

/-- A high half without its low half is refused with reason 3. -/
theorem writeHigh_empty {key : Nat} (h : (getLatches s m).write = none) (v : Nat) (w : Nat → State → State × Ack) :
    writeHigh m key v w s = (refuse m (key + 1) 3 v s, .refused 3) := by
  rw [writeHigh, h]

theorem writeObject_present (ho : objExists s index sub = true) (v : Nat) :
    writeObject m index sub v s = (ackWrite (index * 256 + sub) (writeWord m index sub v s)).1 := if_pos ho

theorem writeObject_readOnly (ho : objExists s index sub = true) (hf : fnOf index = some (f, i)) (hr : rowOf f.rows sub = some r) (hro : r.acc = .ro) (v : Nat) :
    writeObject m index sub v s = s := by
  rw [writeObject_present ho, writeWord_readOnly hf hr hro, ackWrite_quiet]

theorem exec_objectWrite_word (hs : Serves m s) (v : Nat) : exec (.objectWrite m index sub (.word v)) s = .next (writeObject m index sub v s) :=
  whenFree_eq_next hs rfl

theorem exec_lowHalfWrite (hs : Serves m s) (hpair : pairHalf index sub false = true) (v : Nat) :
    exec (.lowHalfWrite m index sub v) s = .next (writeObject m index sub v s) := whenFree_eq_next hs (if_pos hpair)

theorem exec_highHalfWrite (hs : Serves m s) (hpair : pairHalf index sub true = true) (v : Nat) :
    exec (.highHalfWrite m index sub v) s = .next (writeObject m index sub v s) := whenFree_eq_next hs (if_pos hpair)

end

/-! ### USDO transfers of one word (R448, R454) -/

section
variable {index sub : Nat} {s : State}

theorem usdoLength_pos (index sub : Nat) : 0 < usdoLength index sub := by
  unfold usdoLength
  split
  · decide
  · split
    · decide
    · split <;> decide

theorem usdoLengthOk_usdoLength (index sub : Nat) : usdoLengthOk index sub (usdoLength index sub) = true := by simp [usdoLengthOk]

theorem usdoWords_length {data : List Byte} (h : 0 < data.length) : usdoWords data.length data = [leNat data] := by
  simp [usdoWords, Nat.div_self h]

theorem exec_usdoDownload (hl : Live s) (hon : usdoOn s = true) (data : List Byte) : exec (.usdoDownload index sub data) s = .next (usdoWrite index sub data s) :=
  whenLive_eq_next hl (if_pos hon)

theorem usdoWrite_readOnly (ho : objExists s index sub = true) (hro : readOnly index sub = true) (data : List Byte) :
    usdoWrite index sub data s = emit (.usdoAbort 0x06010002) s := by
  rw [usdoWrite, if_neg (by simp [ho]), if_pos hro]

/-- A download of an object's own length writes its one word. -/
theorem usdoWrite_word {data : List Byte} (ho : objExists s index sub = true) (hro : readOnly index sub = false) (hlen : data.length = usdoLength index sub)
    (hbool : boolBad index sub (leNat data) = false) :
    usdoWrite index sub data s =
      usdoReply (downloadWords index sub [leNat data] s).2 (pairHalf index sub false) (downloadWords index sub [leNat data] s).1 := by
  have hok : usdoLengthOk index sub data.length = true := hlen ▸ usdoLengthOk_usdoLength index sub
  have hpos : 0 < data.length := hlen ▸ usdoLength_pos index sub
  rw [usdoWrite, if_neg (by simp [ho]), if_neg (by simp [hro]), if_neg (by simp [hok]), if_neg (by simp [hbool]), if_pos hlen]
  dsimp only
  rw [usdoWords_length hpos]

theorem downloadWords_done {v : Nat} {t : State} (h : writeWord 0 index sub v s = (t, .done)) :
    downloadWords index sub [v] s = (touch (index * 256 + sub) t, .done) := by
  rw [downloadWords, h]
  rfl

theorem downloadWords_refused {v r : Nat} {t : State} (h : writeWord 0 index sub v s = (t, .refused r)) :
    downloadWords index sub [v] s = (t, .refused r) := by
  rw [downloadWords, h]
  rfl

/-- An upload of an object's own length reads its one word. -/
theorem exec_usdoUpload_word (hl : Live s) (hon : usdoOn s = true) (ho : objExists s index sub = true) (hkey : index * 256 + sub ≠ oSyncData) :
    exec (.usdoUpload index sub none) s = .next (emit (.usdoData (leBytes (usdoLength index sub) (readWord 0 index sub s).1)) (readWord 0 index sub s).2) := by
  refine whenLive_eq_next hl ((if_pos hon).trans ?_)
  unfold usdoRead
  rw [Option.getD_none, if_neg (by simp [ho]), usdoLengthOk_usdoLength, if_neg (by simp), if_neg fun h => hkey h.1, if_pos rfl]
  dsimp only
  rw [Nat.div_self (usdoLength_pos index sub)]
  simp [uploadWords]

end

theorem leBytes_zero (n : Nat) : leBytes n 0 = List.replicate n 0 := by
  induction n with
  | zero => rfl
  | succ n ih => rw [leBytes, Nat.zero_div, ih]; rfl

/-- Settles O52: a read-only row turns every write away before its value is looked at, and a write-only one reads the constant 0. -/
theorem readOnlyAndWriteOnlyObjects : Obligations.ReadOnlyAndWriteOnlyObjects := by
  unfold Obligations.ReadOnlyAndWriteOnlyObjects
  intro m index sub v r s hs hsub ho hrow
  obtain ⟨f, i, hf, hr⟩ := exists_fnOf_of_objRow hsub hrow
  refine ⟨fun hro => ?_, fun hwo => ⟨by rw [readWord_writeOnly hsub hrow hwo], fun hon => ?_⟩⟩
  · have hkeep : writeObject m index sub v s = s := writeObject_readOnly ho hf hr hro v
    have hreadOnly : readOnly index sub = true := by rw [readOnly, hrow]; simp [hro]
    refine ⟨?_, fun hlow => ?_, fun hhigh => ?_, fun hon data => ?_⟩
    · rw [exec_objectWrite_word hs, hkeep]
    · rw [exec_lowHalfWrite hs hlow, hkeep]
    · rw [exec_highHalfWrite hs hhigh, hkeep]
    · rw [exec_usdoDownload hs.1 hon, usdoWrite_readOnly ho hreadOnly]
  · have hkey : index * 256 + sub ≠ oSyncData := by
      intro he
      rw [he] at hrow
      exact rows_writeOnly.2 r hrow hwo
    refine ⟨_, exec_usdoUpload_word hs.1 hon ho hkey, ?_, ?_, ?_⟩ <;> rw [readWord_writeOnly hsub hrow hwo]
    · rw [leBytes_zero]
      rfl
    · rfl
    · rfl

/-! ### Bus accesses (R425, R453) -/

section
variable {m bar off : Nat} {s : State}

/-- A port's access outside the sync aperture, by its master. -/
theorem exec_busRead (hs : Serves m s) (hm : m = 1 ∨ m = 2) (n : Nat) (hno : ∀ set o, barTarget bar off ≠ .aperture set o) :
    exec (.objectWrite m bar off (.bus (.read n))) s = .next (
      if busWhole off (.read n) = false then answer m (2 ^ (8 * n) - 1) s
      else if n = 4 ∧ barTarget bar off = .object (oSyncData / 256) (oSyncData % 256) then readSyncData m false s
      else if n = 4 then busAnswer (m - 1) bar off (busRead (m - 1) bar off s).1 (busRead (m - 1) bar off s).2
      else busAnswer (m - 1) bar (off + 4) ((busRead (m - 1) bar off s).1 + (busRead (m - 1) bar (off + 4) (busRead (m - 1) bar off s).2).1 * 2 ^ 32)
        (busRead (m - 1) bar (off + 4) (busRead (m - 1) bar off s).2).2) := by
  have hport : m - 1 + 1 = m := by omega
  refine whenFree_eq_next hs ?_
  unfold busAccess
  split
  · next set o h => exact absurd h (hno set o)
  · rw [hport]

theorem exec_busWrite (hs : Serves m s) (n enables v : Nat) (hno : ∀ set o, barTarget bar off ≠ .aperture set o) :
    exec (.objectWrite m bar off (.bus (.write n enables v))) s = .next (
      if busWhole off (.write n enables v) = false then s
      else if n = 4 then busWrite (m - 1) bar off (v % 2 ^ 32) s
      else busWrite (m - 1) bar (off + 4) (v / 2 ^ 32 % 2 ^ 32) (busWrite (m - 1) bar off (v % 2 ^ 32) s)) := by
  refine whenFree_eq_next hs ?_
  unfold busAccess
  split
  · next set o h => exact absurd h (hno set o)
  · rfl

theorem busWhole_read (h : off % 4 = 0) : busWhole off (.read 4) = true := by simp [busWhole, h]

theorem busWhole_write (h : off % 4 = 0) (v : Nat) : busWhole off (.write 4 15 v) = true := by simp [busWhole, h]

/-- A whole write of a word at an object's address is the master's write of that object. -/
theorem exec_busWrite_object {index sub : Nat} (hs : Serves m s) (hm : m = 1 ∨ m = 2) (hoff : off % 4 = 0) (ht : barTarget bar off = .object index sub) (w : Nat) :
    exec (.objectWrite m bar off (.bus (.write 4 15 w))) s = .next (writeObject m index sub (w % 2 ^ 32) s) := by
  have hport : m - 1 + 1 = m := by omega
  rw [exec_busWrite hs 4 15 w (by rw [ht]; exact fun _ _ => BarTarget.noConfusion), if_neg (by simp [busWhole_write hoff]), if_pos rfl, busWrite, ht, hport]

/-- A whole read of an address that nothing has answers all ones. -/
theorem exec_busRead_unassigned (hs : Serves m s) (hm : m = 1 ∨ m = 2) (hoff : off % 4 = 0) (ht : barTarget bar off = .unassigned) :
    exec (.objectWrite m bar off (.bus (.read 4))) s = .next (answer m 0xFFFFFFFF s) := by
  have hport : m - 1 + 1 = m := by omega
  rw [exec_busRead hs hm 4 (by rw [ht]; exact fun _ _ => BarTarget.noConfusion), if_neg (by simp [busWhole_read hoff]), if_neg (by simp [ht]), if_pos rfl,
    busRead, ht, busAnswer, ht, hport]

end

/-! ### Refusals and the cursor of the compatibility table (R451, R471) -/

theorem objWidth_compatCursor : objWidth oCompatCursor = 32 := objWidth_of_mem_controlWidths (oCompatCursor, 32) (by simp [controlWidths])

theorem getObj_lastRefused_refuse (m key reason v : Nat) (s : State) : getObj (refuse m key reason v s) oOdLastRefused = refusalWord key reason % 2 ^ 32 := by
  rw [refuse, getObj_capture_other _ _ _ _ _ _ _ (by decide), getObj_setObj, ImageLoad.objWidth_lastRefused]

/-- A refused write changes the word of the last refusal and what the Almanac's capture changes. -/
theorem refuse_changes (m key reason v : Nat) (s : State) :
    let t := refuse m key reason v s
    t = { s with objs := t.objs, now := t.now, alm := t.alm, fw := t.fw } :=
  MutePaths.capture_changes 0x0303 31 0 (refusalWord key reason) v m (setObj oOdLastRefused (refusalWord key reason) s)

theorem getObj_compatCursor_read (s : State) : getObj (compatRead s).2 oCompatCursor = (getObj s oCompatCursor + 1) % 1024 := by
  rw [compatRead, getObj_setObj, objWidth_compatCursor]
  exact Nat.mod_eq_of_lt (by omega)

/-- The access of an absent object is counted, and a read of it answers all ones (R447). -/
theorem exec_absentAccess {m index sub : Nat} {s : State} (hs : Serves m s) (ho : objExists s index sub = false) (wr : Option Nat) :
    exec (.absentAccess m index sub wr) s = .next (absentObject m index wr.isNone s) := by
  show execAbsentAccess m index sub wr s = _
  exact whenFree_eq_next hs (if_neg (by simp [ho]))

@[simp] theorem getLatches_emit (e : Emission) (s : State) (m : Nat) : getLatches (emit e s) m = getLatches s m := rfl

/-- The low half of a pair is answered. -/
theorem exec_lowHalfRead {m index sub : Nat} {s : State} (hs : Serves m s) (ho : objExists s index sub = true) (hpair : pairHalf index sub false = true) :
    exec (.lowHalfRead m index sub) s = .next (emit (.readData m (readWord m index sub s).1) (readWord m index sub s).2) := by
  show execLowHalfRead m index sub s = _
  exact whenFree_eq_next hs ((if_pos hpair).trans (if_pos ho))

theorem exec_compatDataRead {m : Nat} {s : State} (hs : Serves m s) :
    exec (.compatDataRead m) s = .next (answer m (compatRead s).1 (compatRead s).2) := by
  show execCompatDataRead m s = _
  exact whenFree_eq_next hs rfl

/-- Settles O51: each access is followed along the branch of the dictionary that serves it. -/
theorem objectAccesses : Obligations.ObjectAccesses := by
  unfold Obligations.ObjectAccesses
  intro m index sub v s hs key
  refine ⟨fun ho => ?_, fun f i r ho hf hr => ⟨fun hro => ?_, fun hacc hwidth hlow hpair => ?_, fun hacc hwidth hhigh hpair => ⟨fun low hlatch => ?_, fun hlatch => ?_⟩⟩,
    fun r ho hpair hrow => ?_, fun ho => ⟨fun hm => ⟨?_, ?_⟩, fun wr hm => ?_⟩, ?_, fun data hon ho hro hlen hbool => ⟨fun t hw => ?_, fun t r hw => ?_⟩,
    fun hon ho hkey => exec_usdoUpload_word hs.1 hon ho hkey, fun bar off hm hno => ⟨fun n hpart => ?_, fun n enables w hpart => ?_, fun w hoff ht => ?_, fun hoff ht => ?_⟩,
    fun reason => ⟨?_, ?_, ?_⟩⟩
  · rw [exec_objectWrite_word hs, writeObject_present ho]
  · rw [exec_objectWrite_word hs, writeObject_readOnly ho hf hr hro]
  · rw [exec_lowHalfWrite hs hpair, writeObject_present ho, writeWord_lowHalf hf hr hacc hwidth hlow]
    rfl
  · rw [exec_highHalfWrite hs hpair, writeObject_present ho, writeWord_highHalf hf hr hacc hwidth hhigh, TensorTile.writeHigh_own hlatch]
  · rw [exec_highHalfWrite hs hpair, writeObject_present ho, writeWord_highHalf hf hr hacc hwidth hhigh, writeHigh_empty hlatch, ackWrite_refused]
  · refine ⟨_, exec_lowHalfRead hs ho hpair, ?_, ?_⟩ <;> rw [readWord_lowHalf hrow hpair]
    · rfl
    · rw [getLatches_emit, getLatches_setLatches]
  · rw [exec_absentAccess hs ho, absentObject, if_neg hm]
    rfl
  · rw [exec_absentAccess hs ho, absentObject, if_neg hm]
    rfl
  · rw [exec_absentAccess hs ho, absentObject, if_pos hm]
  · refine ⟨answer m (compatRead s).1 (compatRead s).2, exec_compatDataRead hs, getObj_compatCursor_read s, answer_out _ _ _, ?_⟩
    exact (otherObjects_setObj _ s List.mem_cons_self).trans (otherObjects_of_objs (answer_objs _ _ _))
  · rw [exec_usdoDownload hs.1 hon, usdoWrite_word ho hro hlen hbool, downloadWords_done hw]
    rfl
  · rw [exec_usdoDownload hs.1 hon, usdoWrite_word ho hro hlen hbool, downloadWords_refused hw]
    rfl
  · rw [exec_busRead hs hm n hno, if_pos hpart]
  · rw [exec_busWrite hs n enables w hno, if_pos hpart]
  · exact exec_busWrite_object hs hm hoff ht w
  · exact exec_busRead_unassigned hs hm hoff ht
  · exact getObj_lastRefused_refuse m key reason v s
  · exact otherObjects_refuse m key reason v s (by simp) (by simp)
  · exact refuse_changes m key reason v s

end Sys2Proof.Proofs.Dictionary
end

section
namespace Sys2Proof.Proofs.HostRings
open Sys2Proof Sys2Proof.Machine
open Sys2Proof.Proofs Sys2Proof.Proofs.TensorTile Sys2Proof.Proofs.TransformUnit Sys2Proof.Proofs.FrameStreams

/-! ### What the operations on a ring leave -/

theorem getRing_of_rings {s t : State} (h : t.io.rings = s.io.rings) (j : Nat) : getRing t j = getRing s j := by rw [getRing, h, getRing]

theorem getPcie_of_pcie {s t : State} (h : t.io.pcie = s.io.pcie) (j : Nat) : getPcie t j = getPcie s j := by rw [getPcie, h, getPcie]

@[simp] theorem getPcie_setRing (r : Nat) (x : Ring) (s : State) (j : Nat) : getPcie (setRing r x s) j = getPcie s j := rfl

/-- A frame that leaves its ring changes nothing but its stream's overlay. -/
theorem leaveRing_changes (pr : Present) (s : State) : leaveRing pr s = { s with st := (leaveRing pr s).st } := rfl

@[simp] theorem getRing_leaveRing (pr : Present) (s : State) (j : Nat) : getRing (leaveRing pr s) j = getRing s j := rfl

@[simp] theorem getPcie_leaveRing (pr : Present) (s : State) (j : Nat) : getPcie (leaveRing pr s) j = getPcie s j := rfl

/-- Settling a ring's state is an object's write. -/
theorem settleRing_changes (r : Nat) (s : State) : settleRing r s = { s with objs := (settleRing r s).objs } := by
  unfold settleRing
  split
  · rfl
  · rfl

@[simp] theorem getRing_settleRing (r : Nat) (s : State) (j : Nat) : getRing (settleRing r s) j = getRing s j := by rw [settleRing_changes]; rfl

@[simp] theorem getPcie_settleRing (r : Nat) (s : State) (j : Nat) : getPcie (settleRing r s) j = getPcie s j := by rw [settleRing_changes]; rfl

theorem otherObjects_settleRing {ks : List Nat} (r : Nat) (s : State) (hstate : oDmaState r ∈ ks) : OtherObjects ks s (settleRing r s) :=
  otherObjects_ite (otherObjects_setObj _ s hstate) (OtherObjects.refl ks s)

theorem getField_of_otherObjects {ks : List Nat} {s t : State} (h : OtherObjects ks s t) {k : Nat} (hk : k ∉ ks) (a b : Nat) : getField t k a b = getField s k a b := by
  rw [getField, h k hk, getField]

/-! ### Doorbells (R426) -/

/-- The map has the rings' function, and nothing else from its base on. -/
theorem map_from_ringBase : (∃ f ∈ dictFns, RingFn f) ∧ ∀ f ∈ dictFns, f.base + f.step * (f.first + (f.count - 1)) < ringBase ∨ RingFn f :=
  objectMap_reads.2.2.2

theorem ringFn_of_fnOf {r i : Nat} {f : DictFn} (h : fnOf (ringBase + r) = some (f, i)) : RingFn f := by
  obtain ⟨g, hg, he⟩ := Option.map_eq_some_iff.1 h
  cases he
  have hany := List.find?_some hg
  obtain ⟨j, hj, heq⟩ := List.any_eq_true.1 hany
  have hle : f.step * (f.first + j) ≤ f.step * (f.first + (f.count - 1)) := Nat.mul_le_mul_left _ (by have := List.mem_range.1 hj; omega)
  have hindex := eq_of_beq heq
  exact (map_from_ringBase.2 f (List.mem_of_find?_eq_some hg)).resolve_left fun hbelow => by omega

/-- Every ring has its function. -/
theorem exists_fnOf_ring {r : Nat} (h : r < 128) : ∃ f i, fnOf (ringBase + r) = some (f, i) := by
  obtain ⟨f, hmem, hbase, hstep, hfirst, hcount, -⟩ := map_from_ringBase.1
  have hfound : (dictFns.find? fun f => (List.range f.count).any fun i => ringBase + r == f.base + f.step * (f.first + i)).isSome = true := by
    refine List.find?_isSome.2 ⟨f, hmem, List.any_eq_true.2 ⟨r, List.mem_range.2 (by omega), ?_⟩⟩
    rw [hbase, hstep, hfirst]
    simp
  obtain ⟨g, hg⟩ := Option.isSome_iff_exists.1 hfound
  exact ⟨_, _, by rw [fnOf, hg]; rfl⟩

theorem objWidth_of_objRow {key w : Nat} (h : (objRow key).map (·.width) = some w) (hw : w ≤ 64) : objWidth key = w := by
  obtain ⟨row, hrow, hwidth⟩ := Option.map_eq_some_iff.1 h
  rw [objWidth, hrow]
  dsimp only
  rw [hwidth, Nat.min_eq_left hw]

theorem objWidth_dmaState {r : Nat} (h : r < 128) : objWidth (oDmaState r) = 8 := by
  obtain ⟨f, i, hf⟩ := exists_fnOf_ring h
  obtain ⟨-, -, -, -, hstate, -⟩ := ringFn_of_fnOf hf
  exact objWidth_of_objRow ((congrArg _ (Dictionary.objRow_of_fnOf (by decide) hf)).trans hstate) (by decide)

/-- The pointers of every ring, of those that the map does not know too, have room for both of them. -/
theorem objWidth_dmaPointers (r : Nat) : 32 ≤ objWidth (oDmaPointers r) := by
  cases hf : fnOf (ringBase + r) with
  | none =>
    have hrow : objRow (oDmaPointers r) = none := Dictionary.objRow_of_fnOf_none (by decide) hf
    rw [objWidth, hrow]
    decide
  | some p =>
    obtain ⟨-, -, -, -, -, hpointers⟩ := ringFn_of_fnOf (f := p.1) (i := p.2) hf
    exact (objWidth_of_objRow ((congrArg _ (Dictionary.objRow_of_fnOf (by decide) hf)).trans hpointers) (by decide)).ge

/-- A descriptor that host memory does not give. -/
def noDesc : HostDesc := { address := 0, length := 0, irq := false }

/-- A ring's descriptors where `n` of them are posted: those held, and behind them the ones that the doorbell brings. -/
def postedDescs (held descs : List HostDesc) (n : Nat) : List HostDesc := held.take n ++ (List.range (n - held.length)).map fun i => descs.getD i noDesc

theorem range_map_getD {descs : List HostDesc} {n : Nat} (h : n ≤ descs.length) : ((List.range n).map fun i => descs.getD i noDesc) = descs.take n := by
  refine List.ext_getElem (by simp [h]) fun i hi hj => ?_
  have hlt : i < descs.length := by simp at hj; omega
  simp [List.getD_eq_getElem?_getD, hlt]

theorem postedDescs_more {held descs : List HostDesc} {n : Nat} (h : held.length ≤ n) (h2 : n - held.length ≤ descs.length) :
    postedDescs held descs n = held ++ descs.take (n - held.length) := by
  rw [postedDescs, List.take_of_length_le h, range_map_getD h2]

theorem postedDescs_fewer {held : List HostDesc} (descs : List HostDesc) {n : Nat} (h : n ≤ held.length) : postedDescs held descs n = held.take n := by
  rw [postedDescs, Nat.sub_eq_zero_of_le h]
  simp

/-- A ring with its new tail. -/
def doorbellPosted (ring tail n : Nat) (descs : List HostDesc) (s : State) : State :=
  settleRing ring (setField (oDmaPointers ring) 31 16 tail (setRing ring { getRing s ring with held := postedDescs (getRing s ring).held descs n } s))

section
variable (port ring tail : Nat) (descs : List HostDesc) {s : State}

theorem exec_doorbellWrite (hl : Live s) (hp : hostReads s port = true) :
    exec (.doorbellWrite port ring tail descs) s = .next (
      if 2 ^ getObj s (oDmaRingLog2 ring) < (tail + 65536 - getField s (oDmaPointers ring) 15 0) % 65536 then refuse (port + 1) (oDmaPointers ring) 2 tail s
      else doorbellPosted ring tail ((tail + 65536 - getField s (oDmaPointers ring) 15 0) % 65536) descs s) := by
  show execDoorbellWrite port ring tail descs s = _
  refine whenLive_eq_next hl ?_
  rw [if_neg (by simp [hp])]
  rfl

end

theorem getRing_doorbellPosted (ring tail n : Nat) (descs : List HostDesc) (s : State) :
    getRing (doorbellPosted ring tail n descs s) ring = { getRing s ring with held := postedDescs (getRing s ring).held descs n } := by
  rw [doorbellPosted, getRing_settleRing, getRing_setField, getRing_setRing]

theorem getRing_doorbellPosted_other {ring j : Nat} (tail n : Nat) (descs : List HostDesc) (s : State) (h : j ≠ ring) :
    getRing (doorbellPosted ring tail n descs s) j = getRing s j := by
  rw [doorbellPosted, getRing_settleRing, getRing_setField, getRing_setRing_other _ _ h]

theorem oDmaPointers_ne_oDmaState (r j : Nat) : oDmaPointers r ≠ oDmaState j := by unfold oDmaPointers oDmaState; omega

theorem getField_doorbellPosted (ring tail n : Nat) (descs : List HostDesc) (s : State) (a b : Nat) :
    getField (doorbellPosted ring tail n descs s) (oDmaPointers ring) a b =
      getField (setField (oDmaPointers ring) 31 16 tail (setRing ring { getRing s ring with held := postedDescs (getRing s ring).held descs n } s)) (oDmaPointers ring) a b :=
  getField_of_otherObjects (otherObjects_settleRing (ks := [oDmaState ring]) _ _ (by simp)) (by simp [oDmaPointers_ne_oDmaState]) a b

theorem doorbellPosted_changes (ring tail n : Nat) (descs : List HostDesc) (s : State) :
    doorbellPosted ring tail n descs s =
      { s with objs := (doorbellPosted ring tail n descs s).objs, io := { s.io with rings := (doorbellPosted ring tail n descs s).io.rings } } := by
  rw [doorbellPosted, settleRing_changes]
  rfl

theorem otherObjects_doorbellPosted (ring tail n : Nat) (descs : List HostDesc) (s : State) :
    OtherObjects [oDmaPointers ring, oDmaState ring] s (doorbellPosted ring tail n descs s) :=
  ((otherObjects_of_objs rfl).trans (otherObjects_setField 31 16 tail (setRing ring _ s) (by simp))).trans (otherObjects_settleRing _ _ (by simp))

/-! ### Completed descriptors (R427) -/

/-- Words 4 to 7 of a descriptor that is completed. -/
def descWords (result n frame skipped : Nat) : List Byte := leBytes 4 (result * 2 ^ 24) ++ leBytes 4 n ++ leBytes 4 frame ++ leBytes 4 skipped

/-- The descriptor at the head is written and leaves the ring. -/
def headMoved (r result n frame skipped : Nat) (s : State) : State :=
  let head := getField s (oDmaPointers r) 15 0
  setField (oDmaPointers r) 15 0 (head + 1) (setRing r { getRing s r with held := (getRing s r).held.drop 1 }
    (emit (.hostWrite (ringPort s r) (getObj s (oDmaRingBase r) + 32 * (head % 2 ^ getObj s (oDmaRingLog2 r)) + 16) (descWords result n frame skipped))
      (notePosted (ringPort s r) s)))

/-- Behind the head's move come the count, the vector and the ring's state. -/
def headCounted (r result : Nat) (irq : Bool) (port vector : Nat) (s : State) : State :=
  let s := if result = 1 then addObj (oDmaFrames r) 1 s else addObj (oDmaAbandoned r) 1 s
  if irq then sendMsix port vector s else s

section
variable (r result n frame skipped : Nat) (s : State)

theorem exists_completeDesc_eq :
    ∃ irq port vector, completeDesc r result n frame skipped s = settleRing r (headCounted r result irq port vector (headMoved r result n frame skipped s)) :=
  ⟨_, _, _, rfl⟩

theorem headCounted_frame (irq : Bool) (port vector : Nat) : Leaves 0x2000000000000000000005 s (headCounted r result irq port vector s) :=
  have hm : FieldsIn 0x2000000000000000000005 0x2000000000000000000005 := FieldsIn.refl _
  have hcount : Leaves 0x2000000000000000000005 s (if result = 1 then addObj (oDmaFrames r) 1 s else addObj (oDmaAbandoned r) 1 s) :=
    ite_frame (addObj_frame (Leaves.refl _ s)) (addObj_frame (Leaves.refl _ s))
  ite_frame (sendMsix_frame hcount) hcount

theorem headCounted_kept (irq : Bool) (port vector : Nat) : Kept s (headCounted r result irq port vector s) :=
  have hcount : Kept s (if result = 1 then addObj (oDmaFrames r) 1 s else addObj (oDmaAbandoned r) 1 s) :=
    ite_kept (addObj_kept (Kept.refl s)) (addObj_kept (Kept.refl s))
  ite_kept (sendMsix_kept hcount) hcount

theorem otherObjects_headCounted (irq : Bool) (port vector : Nat) : OtherObjects [oDmaFrames r, oDmaAbandoned r] s (headCounted r result irq port vector s) := by
  have hcount : OtherObjects [oDmaFrames r, oDmaAbandoned r] s (if result = 1 then addObj (oDmaFrames r) 1 s else addObj (oDmaAbandoned r) 1 s) :=
    otherObjects_ite (otherObjects_addObj 1 s (by simp)) (otherObjects_addObj 1 s (by simp))
  exact otherObjects_ite (hcount.trans (otherObjects_of_leaves (sendMsix_frame (Leaves.refl _ _) (FieldsIn.refl _)) (by decide))) hcount

theorem getRing_completeDesc (j : Nat) : getRing (completeDesc r result n frame skipped s) j = getRing (headMoved r result n frame skipped s) j := by
  obtain ⟨irq, port, vector, h⟩ := exists_completeDesc_eq r result n frame skipped s
  rw [h, getRing_settleRing]
  exact getRing_of_rings ((headCounted_frame r result _ irq port vector).io_rings (by decide)) j

theorem getField_completeDesc (a b : Nat) :
    getField (completeDesc r result n frame skipped s) (oDmaPointers r) a b = getField (headMoved r result n frame skipped s) (oDmaPointers r) a b := by
  obtain ⟨irq, port, vector, h⟩ := exists_completeDesc_eq r result n frame skipped s
  rw [h, getField_of_otherObjects (otherObjects_settleRing (ks := [oDmaState r]) _ _ (by simp)) (by simp [oDmaPointers_ne_oDmaState])]
  exact getField_of_otherObjects (otherObjects_headCounted r result _ irq port vector) (by simp [oDmaPointers, oDmaFrames, oDmaAbandoned]) a b

/-- Nothing behind the head's move takes back what it sent. -/
theorem mem_completeDesc_out {e : Emission} (h : e ∈ (headMoved r result n frame skipped s).out) : e ∈ (completeDesc r result n frame skipped s).out := by
  obtain ⟨irq, port, vector, heq⟩ := exists_completeDesc_eq r result n frame skipped s
  obtain ⟨l, hl⟩ := (settleRing_kept (a0 := r) (headCounted_kept r result (headMoved r result n frame skipped s) irq port vector)).out
  rw [heq, hl]
  exact List.mem_append_right l h

theorem getRing_headMoved : getRing (headMoved r result n frame skipped s) r = { getRing s r with held := (getRing s r).held.drop 1 } := by
  unfold headMoved
  dsimp only
  rw [getRing_setField, getRing_setRing]

theorem getRing_headMoved_other {j : Nat} (h : j ≠ r) : getRing (headMoved r result n frame skipped s) j = getRing s j := by
  unfold headMoved
  dsimp only
  rw [getRing_setField, getRing_setRing_other _ _ h]
  rfl

theorem getField_headMoved : getField (headMoved r result n frame skipped s) (oDmaPointers r) 15 0 = (getField s (oDmaPointers r) 15 0 + 1) % 65536 := by
  have hwidth := objWidth_dmaPointers r
  exact getField_setField _ 15 0 _ _ (by omega)

end

/-! ### Output frames (R429, R431) -/

/-- Once the descriptors that wait have left, the port's next band is written, or its frame ends in a buffer that is too short. -/
theorem exec_outputBandWrite {port r : Nat} {f : DmaFrame} {s : State} (hl : Live s) (hp : hostReads s port = true) (hband : nextBand (sendOwed port s) port = some (r, f)) :
    exec (.outputBandWrite port) s = .next (
      if f.desc.length < picAt (sendOwed port s) r + (ringSize (sendOwed port s) r).2 * ringStride (sendOwed port s) r then endFrame r 4 0 (sendOwed port s)
      else writeBand port r f (sendOwed port s)) := by
  show execOutputBandWrite port s = _
  refine whenLive_eq_next hl ?_
  rw [if_pos hp]
  dsimp only
  rw [hband]

theorem exec_outputBandWrite_none {port : Nat} {s : State} (hl : Live s) (hp : hostReads s port = true) (hband : nextBand (sendOwed port s) port = none) :
    exec (.outputBandWrite port) s = .next (sendOwed port s) := by
  show execOutputBandWrite port s = _
  refine whenLive_eq_next hl ?_
  rw [if_pos hp]
  dsimp only
  rw [hband]

/-- The strip that a band was blended from is free. -/
def stripFreed (f : DmaFrame) (s : State) : State :=
  if f.present.half.isSome then
    setOverlay f.present.k { getOverlay s f.present.k with strips := mapErase (getOverlay s f.present.k).strips (f.band % 2) } s
  else s

theorem stripFreed_changes (f : DmaFrame) (s : State) : stripFreed f s = { s with st := (stripFreed f s).st } := by
  unfold stripFreed
  split
  · rfl
  · rfl

/-- A band between the first and the last. -/
def bandWritten (port r : Nat) (f : DmaFrame) (s : State) : State :=
  let s' := stripFreed f (notePosted port (emit (.hostWrite port (f.desc.address + f.sent) (bandBytes s r f)) { s with free := s.free + 34 }))
  setRing r { getRing s' r with frames := { f with band := f.band + 1, sent := f.sent + (bandBytes s r f).length } :: (getRing s' r).frames.drop 1 } s'

theorem writeBand_between {port r : Nat} {f : DmaFrame} {s : State} (hlast : 32 * (f.band + 1) < (ringSize s r).2) (hfirst : 0 < f.band) :
    writeBand port r f s = bandWritten port r f s := by
  unfold writeBand
  simp only [if_neg (Nat.ne_of_gt hfirst), if_neg (Nat.not_le.2 hlast), List.nil_append, List.length_nil, Nat.add_zero]
  rfl

theorem getRing_stripFreed (f : DmaFrame) (s : State) (j : Nat) : getRing (stripFreed f s) j = getRing s j := by rw [stripFreed_changes]; rfl

theorem bandWritten_changes (port r : Nat) (f : DmaFrame) (s : State) :
    (bandWritten port r f s).out = .hostWrite port (f.desc.address + f.sent) (bandBytes s r f) :: s.out ∧
      (bandWritten port r f s).tl = s.tl ∧ (bandWritten port r f s).ci = s.ci ∧ (bandWritten port r f s).objs = s.objs := by
  unfold bandWritten
  rw [stripFreed_changes]
  exact ⟨rfl, rfl, rfl, rfl⟩

theorem getRing_bandWritten (port r : Nat) (f : DmaFrame) (s : State) :
    (getRing (bandWritten port r f s) r).frames =
      { f with band := f.band + 1, sent := f.sent + (bandBytes s r f).length } :: (getRing s r).frames.drop 1 := by
  unfold bandWritten
  dsimp only
  rw [getRing_setRing, getRing_stripFreed]
  rfl

theorem getRing_bandWritten_other {r j : Nat} (port : Nat) (f : DmaFrame) (s : State) (h : j ≠ r) : getRing (bandWritten port r f s) j = getRing s j := by
  unfold bandWritten
  dsimp only
  rw [getRing_setRing_other _ _ h, getRing_stripFreed]
  rfl

/-! ### Input frames and reads that time out (R187, R430, R492) -/

theorem exec_inputReadCompletion {ring : Nat} {desc : HostDesc} {s : State} (hl : Live s) (hr : readingRing s ring = some desc) (data : List Byte) :
    exec (.inputReadCompletion ring data) s = .next (
      if desc.length < 64 ∨ (64 ≤ data.length ∧ badHeader s ring desc.length data = true) then completeDesc ring 6 data.length (inputCounter s ring data) 0 s
      else if data.length < 64 ∨ data.length < picAt s ring + (ringSize s ring).2 * natAt data 0x10 4 then
        completeDesc ring 5 data.length (inputCounter s ring data) 0 s
      else completeDesc ring 1 (picAt s ring + (ringSize s ring).2 * natAt data 0x10 4) (inputCounter s ring data) 0
        ((ringStreams s ring).foldl (fun s k => takeInput ring data k s) s)) := by
  show execInputReadCompletion ring data s = _
  refine whenLive_eq_next hl ?_
  rw [hr]

/-- A buffer that the header does not turn away holds the header at least. -/
theorem header_fits {ring length : Nat} {data : List Byte} {s : State} (h : badHeader s ring length data = false) : 64 ≤ length := by
  simp only [badHeader, Bool.or_eq_false_iff, decide_eq_false_iff_not, Nat.not_lt] at h
  have hpic : 64 ≤ picAt s ring := by unfold picAt; omega
  omega

theorem exec_completionTimeout_ring {ring : Nat} {desc : HostDesc} {s : State} (hl : Live s) (hr : readingRing s ring = some desc) :
    exec (.completionTimeout 0 ring) s = .next (useFree (completeDesc ring 5 (freeNat s 32) (inputCounter s ring []) 0 s)) := by
  show execCompletionTimeout 0 ring s = _
  refine whenLive_eq_next hl ?_
  dsimp only
  rw [hr]
  rfl

theorem exec_completionTimeout_load {unit : Nat} {r : LoadRun} {s : State} (hl : Live s) (hload : s.fab.load = some r) (hslot : 4 ≤ r.slot) (hphase : r.phase = 1) :
    exec (.completionTimeout 1 unit) s =
      .next (reportLoad (if unit < 1024 then failSection 3 unit else failPlain 2) 1 r.part 0 { s with fab := { s.fab with load := none } }) := by
  show execCompletionTimeout 1 unit s = _
  refine whenLive_eq_next hl ?_
  dsimp only
  rw [loadReadFails, hload]
  exact if_neg (by omega)

theorem exec_completionTimeout_copy {unit : Nat} {c : FwCmd} {s : State} (hl : Live s) (hcmd : s.fw.cmd = some c) (hcode : c.code = 4) (hrun : c.failed = none) :
    exec (.completionTimeout 2 unit) s = .next (fwResult 6 0 (spoilBlocks c { s with fw := { s.fw with cmd := none } })) := by
  show execCompletionTimeout 2 unit s = _
  refine whenLive_eq_next hl ?_
  dsimp only
  rw [hcmd]
  exact if_pos ⟨hcode, hrun⟩

/-- Settles O48: the doorbell by the descriptors it posts, bands and inputs by the branch that serves them, and a completion by the head's move, behind which nothing touches the ring. -/
theorem ringTransfers : Obligations.RingTransfers := by
  unfold Obligations.RingTransfers
  refine ⟨fun port ring tail descs s hl hp => ?_, fun port r f s hl hp => ?_, fun ring desc data s hl hr => ?_, fun ring result n frame skipped s hring => ?_,
    fun unit s hl => ⟨fun r hload hslot hphase => exec_completionTimeout_load hl hload hslot hphase, fun c hcmd hcode hrun => exec_completionTimeout_copy hl hcmd hcode hrun⟩⟩
  · intro x n
    have hwidth := objWidth_dmaPointers ring
    have hexec := exec_doorbellWrite port ring tail descs hl hp
    refine ⟨fun hroom => ⟨doorbellPosted ring tail n descs s, hexec.trans (congrArg _ (if_neg (Nat.not_lt.2 hroom))), fun hmore hgiven => ?_, fun hfewer => ?_, ?_, ?_, ?_,
      fun j hj => getRing_doorbellPosted_other tail n descs s hj, doorbellPosted_changes ring tail n descs s, otherObjects_doorbellPosted ring tail n descs s⟩,
      fun hfull => hexec.trans (congrArg _ (if_pos hfull))⟩
    · rw [getRing_doorbellPosted]
      exact postedDescs_more hmore hgiven
    · rw [getRing_doorbellPosted]
      exact postedDescs_fewer descs hfewer
    · rw [getRing_doorbellPosted]
    · exact (getField_doorbellPosted ring tail n descs s 31 16).trans (getField_setField _ 31 16 tail _ (by omega))
    · rw [getField_doorbellPosted, getField_setField_below _ _ _ _ _ _ _ (by omega) (by decide)]
      rfl
  · intro u full
    refine ⟨fun hband hshort => ?_, fun hband hfits => ?_, fun hband => ?_, fun hlast hfirst => ?_⟩
    · exact (exec_outputBandWrite hl hp hband).trans (congrArg _ (if_pos hshort))
    · exact (exec_outputBandWrite hl hp hband).trans (congrArg _ (if_neg (Nat.not_lt.2 hfits)))
    · exact exec_outputBandWrite_none hl hp hband
    · intro t
      have ht : t = bandWritten port r f s := writeBand_between hlast hfirst
      obtain ⟨hout, htl, hci, hobjs⟩ := bandWritten_changes port r f s
      rw [ht]
      exact ⟨hout, getRing_bandWritten port r f s, fun j hj => getRing_bandWritten_other port f s hj, htl, hci, hobjs⟩
  · intro m size
    have hexec := exec_inputReadCompletion hl hr data
    refine ⟨fun hshort => hexec.trans (congrArg _ (if_pos (Or.inl hshort))), fun hlong hdata => ?_, fun hdata hbad => hexec.trans (congrArg _ (if_pos (Or.inr ⟨hdata, hbad⟩))),
      fun hdata hgood hshort => ?_, fun hdata hgood hfull => ?_, exec_completionTimeout_ring hl hr⟩
    · exact hexec.trans (congrArg _ ((if_neg (by omega)).trans (if_pos (Or.inl hdata))))
    · have hlong := header_fits hgood
      exact hexec.trans (congrArg _ ((if_neg (by simp [hgood, hlong])).trans (if_pos (Or.inr hshort))))
    · have hlong := header_fits hgood
      exact hexec.trans (congrArg _ ((if_neg (by simp [hgood, hlong])).trans (if_neg (not_or.2 ⟨Nat.not_lt.2 hdata, Nat.not_lt.2 hfull⟩))))
  · intro t head
    have hframe : Leaves 0x3000000000000000000005 s t := completeDesc_frame (Leaves.refl _ s) (FieldsIn.refl _)
    refine ⟨?_, ?_, ?_, fun j hj => ?_, leaves_tl hframe (by decide), leaves_ci hframe (by decide)⟩
    · rw [getRing_completeDesc, getRing_headMoved]
    · rw [getField_completeDesc, getField_headMoved]
    · exact mem_completeDesc_out ring result n frame skipped s List.mem_cons_self
    · rw [getRing_completeDesc, getRing_headMoved_other _ _ _ _ _ _ hj]

end Sys2Proof.Proofs.HostRings
end

section
namespace Sys2Proof.Proofs.PortLinks
open Sys2Proof Sys2Proof.Machine
open Sys2Proof.Proofs Sys2Proof.Proofs.TensorTile Sys2Proof.Proofs.TransformUnit Sys2Proof.Proofs.FrameStreams Sys2Proof.Proofs.HostRings

/-! ### The stall limit and late frames (R431) -/

section
variable {ring : Nat} {s : State} {f : DmaFrame} {rest : List DmaFrame}

theorem exec_stallLimitExpiry (hl : Live s) (port sent : Nat) :
    exec (.stallLimitExpiry ⟨port, sent⟩) s = .next (if stallDue s port then stallPort port sent s else s) := by
  show execStallLimitExpiry ⟨port, sent⟩ s = _
  exact whenLive_eq_next hl rfl

/-- An output frame that is two intervals late is abandoned, unless the port's stall limit comes first. -/
theorem exec_lateAbandon (hl : Live s) (hon : ringOn s ring = true) (hout : ringOut s ring = true) (hframes : (getRing s ring).frames = f :: rest)
    (hlate : f.d + 2 * ringFrame s ring ≤ cycle s) :
    exec (.lateAbandon ring) s = .next (if stallDue s (ringPort s ring) then stallPort (ringPort s ring) 0 s
      else capture 0x0506 31 (ringPort s ring) 1 3 0 (abandonFrame ring 3 s)) := by
  show execLateAbandon ring s = _
  refine whenLive_eq_next hl ?_
  dsimp only
  rw [if_pos ⟨hon, hout⟩, hframes]
  exact if_neg (Nat.not_lt.2 hlate)

/-- The descriptor of an abandoned frame, as it waits. -/
def owedFor (ring result : Nat) (f : DmaFrame) (s : State) : Owed := { ring := ring, result := result, bytes := f.sent, frame := f.present.o, since := cycle s }

/-- A port with one more descriptor that waits. -/
def addOwed (port : Nat) (o : Owed) (s : State) : State := setPcie port { getPcie s port with owed := (getPcie s port).owed ++ [o] } s

theorem abandonFrame_cons (result : Nat) (hframes : (getRing s ring).frames = f :: rest) :
    abandonFrame ring result s =
      leaveRing f.present (settleRing ring (addOwed (ringPort s ring) (owedFor ring result f s) (setRing ring { getRing s ring with frames := rest } s))) := by
  unfold abandonFrame
  dsimp only
  rw [hframes]
  rfl

theorem getRing_abandonFrame (result : Nat) (hframes : (getRing s ring).frames = f :: rest) :
    getRing (abandonFrame ring result s) ring = { getRing s ring with frames := rest } := by
  rw [abandonFrame_cons result hframes, getRing_leaveRing, getRing_settleRing, addOwed, getRing_setPcie, getRing_setRing]

theorem getPcie_abandonFrame (result : Nat) (hframes : (getRing s ring).frames = f :: rest) :
    (getPcie (abandonFrame ring result s) (ringPort s ring)).owed = (getPcie s (ringPort s ring)).owed ++ [owedFor ring result f s] := by
  rw [abandonFrame_cons result hframes, getPcie_leaveRing, getPcie_settleRing, addOwed, getPcie_setPcie, getPcie_setRing]

end

/-! ### Rings that stop (R433) -/

/-- A ring without frames, in the state of an error. -/
def Stopped (s : State) (r : Nat) : Prop := (getRing s r).frames = [] ∧ getObj s (oDmaState r) = 3

section
variable (r : Nat) (s : State)

/-- A ring without its frames, in the state of an error, and its count. -/
def ringHalted : State :=
  setRing r { getRing s r with frames := [] } (setObj (oDmaState r) 3 (addObj (oDmaAbandoned r) ((getRing s r).frames.length + owedDescs s r) s))

/-- A port without the descriptors of a ring that wait. -/
def dropOwed (port : Nat) : State := setPcie port { getPcie s port with owed := (getPcie s port).owed.filter fun e => e.ring != r } s

/-- A ring that stops, before its frames leave their streams' overlays. -/
def ringStopped : State := dropOwed r (ringHalted r s) (ringPort (ringHalted r s) r)

theorem stopRing_eq : stopRing r s = (getRing s r).frames.foldl (fun s f => leaveRing f.present s) (ringStopped r s) := rfl

theorem otherObjects_ringHalted : OtherObjects [oDmaState r, oDmaAbandoned r] s (ringHalted r s) :=
  have hcount : OtherObjects [oDmaState r, oDmaAbandoned r] s (addObj (oDmaAbandoned r) ((getRing s r).frames.length + owedDescs s r) s) :=
    otherObjects_addObj _ s (by simp)
  fun k hk => (getObj_setRing _ _ _ _).trans (hcount.trans (otherObjects_setObj 3 _ (by simp)) k hk)

theorem getRing_ringStopped : getRing (ringStopped r s) r = { getRing s r with frames := [] } := by
  rw [ringStopped, dropOwed, getRing_setPcie, ringHalted, getRing_setRing]

theorem ringPort_ringHalted (j : Nat) : ringPort (ringHalted r s) j = ringPort s j :=
  getField_of_otherObjects (otherObjects_ringHalted r s) (by simp [oDmaConfig, oDmaState, oDmaAbandoned]; omega) 29 29

/-- Frames that leave change overlays alone. -/
theorem ringStopped_frame : Leaves 0x80000000000000000000 (ringStopped r s) (stopRing r s) := by
  have hm : FieldsIn 0x80000000000000000000 0x80000000000000000000 := FieldsIn.refl _
  rw [stopRing_eq]
  exact foldl_frame (fun _ _ h => leaveRing_frame h) (Leaves.refl _ _)

theorem getRing_stopRing (j : Nat) : getRing (stopRing r s) j = getRing (ringStopped r s) j := getRing_of_rings ((ringStopped_frame r s).io_rings (by decide)) j

theorem getObj_stopRing (k : Nat) : getObj (stopRing r s) k = getObj (ringStopped r s) k := otherObjects_of_leaves (ks := []) (ringStopped_frame r s) (by decide) k (by simp)

theorem getPcie_stopRing (j : Nat) : getPcie (stopRing r s) j = getPcie (ringStopped r s) j := getPcie_of_pcie ((ringStopped_frame r s).io_pcie (by decide)) j

theorem otherObjects_stopRing : OtherObjects [oDmaState r, oDmaAbandoned r] s (stopRing r s) :=
  (otherObjects_ringHalted r s).trans fun k _ => (getObj_stopRing r s k).trans (by rw [ringStopped, dropOwed, getObj_setPcie])

theorem ringPort_stopRing (j : Nat) : ringPort (stopRing r s) j = ringPort s j :=
  getField_of_otherObjects (otherObjects_stopRing r s) (by simp [oDmaConfig, oDmaState, oDmaAbandoned]; omega) 29 29

theorem stopped_stopRing_same (hr : r < 128) : Stopped (stopRing r s) r := by
  refine ⟨?_, ?_⟩
  · rw [getRing_stopRing, getRing_ringStopped]
  · rw [getObj_stopRing, ringStopped, dropOwed, getObj_setPcie, ringHalted, getObj_setRing, getObj_setObj, objWidth_dmaState hr]
    rfl

variable {r s} {j : Nat}

theorem getRing_stopRing_other (h : j ≠ r) : getRing (stopRing r s) j = getRing s j := by
  rw [getRing_stopRing, ringStopped, dropOwed, getRing_setPcie, ringHalted, getRing_setRing_other _ _ h, getRing_setObj, getRing_addObj]

theorem getObj_dmaState_stopRing_other (h : j ≠ r) : getObj (stopRing r s) (oDmaState j) = getObj s (oDmaState j) :=
  otherObjects_stopRing r s _ (by simp [oDmaState, oDmaAbandoned]; omega)

theorem getPcie_stopRing_other (h : j ≠ ringPort s r) : getPcie (stopRing r s) j = getPcie s j := by
  rw [getPcie_stopRing, ringStopped, dropOwed, ringPort_ringHalted, getPcie_setPcie_other _ _ h]
  rfl

theorem stopped_stopRing (hj : j < 128) (h : Stopped s j) : Stopped (stopRing r s) j := by
  by_cases he : j = r
  · subst he
    exact stopped_stopRing_same j s hj
  · obtain ⟨hframes, hstate⟩ := h
    exact ⟨by rw [getRing_stopRing_other he, hframes], by rw [getObj_dmaState_stopRing_other he, hstate]⟩

end

/-- A ring stops if it is one of the port's. -/
def stopOwn (port : Nat) (s : State) (r : Nat) : State := if ringPort s r = port then stopRing r s else s

theorem stopRings_eq (port : Nat) (s : State) : stopRings port s = addObj (oPcieLinkDowns port) 1 ((List.range 128).foldl (stopOwn port) s) := rfl

section
variable {port r j : Nat} {s : State}

theorem ringPort_stopOwn : ringPort (stopOwn port s r) j = ringPort s j := by
  unfold stopOwn
  split
  · exact ringPort_stopRing r s j
  · rfl

theorem ringPort_foldl_stopOwn (l : List Nat) : ringPort (l.foldl (stopOwn port) s) j = ringPort s j := by
  induction l generalizing s with
  | nil => rfl
  | cons r l ih => rw [List.foldl_cons, ih, ringPort_stopOwn]

theorem stopped_stopOwn (hj : j < 128) (h : Stopped s j) : Stopped (stopOwn port s r) j := by
  unfold stopOwn
  split
  · exact stopped_stopRing hj h
  · exact h

theorem stopped_foldl_stopOwn_of_stopped {l : List Nat} (hj : j < 128) (h : Stopped s j) : Stopped (l.foldl (stopOwn port) s) j := by
  induction l generalizing s with
  | nil => exact h
  | cons r l ih => exact ih (stopped_stopOwn hj h)

/-- Every ring of the port that the list names stops. -/
theorem stopped_foldl_stopOwn {l : List Nat} (hj : j < 128) (hmem : j ∈ l) (hown : ringPort s j = port) : Stopped (l.foldl (stopOwn port) s) j := by
  induction l generalizing s with
  | nil => cases hmem
  | cons r l ih =>
    rw [List.foldl_cons]
    rcases List.mem_cons.1 hmem with he | hrest
    · subst he
      refine stopped_foldl_stopOwn_of_stopped hj ?_
      rw [stopOwn, if_pos hown]
      exact stopped_stopRing_same j s hj
    · exact ih hrest (ringPort_stopOwn.trans hown)

/-- A ring of the other port stays as it is. -/
theorem foldl_stopOwn_other_ring (l : List Nat) (hother : ringPort s j ≠ port) :
    getRing (l.foldl (stopOwn port) s) j = getRing s j ∧ getObj (l.foldl (stopOwn port) s) (oDmaState j) = getObj s (oDmaState j) := by
  induction l generalizing s with
  | nil => exact ⟨rfl, rfl⟩
  | cons r l ih =>
    obtain ⟨hring, hstate⟩ := ih (s := stopOwn port s r) (by rw [ringPort_stopOwn]; exact hother)
    rw [List.foldl_cons, hring, hstate]
    unfold stopOwn
    split
    · next hown =>
      have hne : j ≠ r := fun he => hother (he ▸ hown)
      exact ⟨getRing_stopRing_other hne, getObj_dmaState_stopRing_other hne⟩
    · exact ⟨rfl, rfl⟩

theorem getPcie_foldl_stopOwn_other (l : List Nat) (hother : j ≠ port) : getPcie (l.foldl (stopOwn port) s) j = getPcie s j := by
  induction l generalizing s with
  | nil => rfl
  | cons r l ih =>
    rw [List.foldl_cons, ih, stopOwn]
    split
    · next hown => exact getPcie_stopRing_other fun he => hother (he.trans hown)
    · rfl

theorem getObj_dmaState_stopRings :
    getObj (stopRings port s) (oDmaState r) = getObj ((List.range 128).foldl (stopOwn port) s) (oDmaState r) := by
  rw [stopRings_eq, getObj_addObj_other _ _ (by unfold oDmaState oPcieLinkDowns; omega)]

end

/-! ### Function-level resets (R433, R459, R460) -/

/-- A port with its configuration space, its part of the MSI-X table and its latches cleared. -/
def portCleared (port : Nat) (s : State) : State :=
  clearLatches (port + 1) (setPcie port Pcie.init { s with io := { s.io with msixTable := s.io.msixTable.filter fun e => e.1 / 8192 != port } })

theorem exec_functionLevelReset {s : State} (hl : Live s) (port : Nat) : exec (.functionLevelReset port) s = .next (portCleared port (stopRings port s)) := by
  show execFunctionLevelReset port s = _
  exact whenLive_eq_next hl rfl

section
variable (port : Nat) (s : State)

theorem getRing_portCleared (r : Nat) : getRing (portCleared port s) r = getRing s r := rfl

theorem getObj_portCleared (k : Nat) : getObj (portCleared port s) k = getObj s k := rfl

theorem getPcie_portCleared : getPcie (portCleared port s) port = Pcie.init := getPcie_setPcie port _ _

theorem getPcie_portCleared_other {j : Nat} (h : j ≠ port) : getPcie (portCleared port s) j = getPcie s j := getPcie_setPcie_other _ _ h

theorem getLatches_portCleared : getLatches (portCleared port s) (port + 1) = Latches.init := getLatches_clearLatches _ _

theorem portCleared_keeps : (portCleared port s).tl = s.tl ∧ (portCleared port s).ci = s.ci ∧ (portCleared port s).pt = s.pt := ⟨rfl, rfl, rfl⟩

end

theorem getPcie_stopRings_other {port j : Nat} (s : State) (h : j ≠ port) : getPcie (stopRings port s) j = getPcie s j := by
  rw [stopRings_eq]
  exact getPcie_foldl_stopOwn_other _ h

/-- A ring of the port has stopped. -/
theorem stopped_stopRings {port r : Nat} {s : State} (hr : r < 128) (hown : ringPort s r = port) : Stopped (stopRings port s) r := by
  obtain ⟨hempty, hstate⟩ := stopped_foldl_stopOwn hr (List.mem_range.2 hr) hown
  exact ⟨by rw [stopRings_eq, getRing_addObj, hempty], by rw [getObj_dmaState_stopRings, hstate]⟩

theorem stopRings_other_ring {port r : Nat} {s : State} (hother : ringPort s r ≠ port) :
    getRing (stopRings port s) r = getRing s r ∧ getObj (stopRings port s) (oDmaState r) = getObj s (oDmaState r) := by
  obtain ⟨hsame, hstate⟩ := foldl_stopOwn_other_ring (List.range 128) hother
  exact ⟨by rw [stopRings_eq, getRing_addObj, hsame], by rw [getObj_dmaState_stopRings, hstate]⟩

/-! ### The other link events (R424, R445) -/

section
variable {s : State} (hl : Live s) (port : Nat)
include hl

theorem exec_pcieFlitRetry : exec (.pcieFlitRetry port) s = .next s := by
  show execPcieFlitRetry port s = _
  exact whenLive_eq_next hl rfl

theorem exec_pcieLinkUp (width speed : Nat) :
    exec (.pcieLinkUp port width speed) s = .next (setObj (oPcieLink port) (width * 2 ^ 8 + speed * 2 ^ 4 + 1) s) := by
  show execPcieLinkUp port width speed s = _
  exact whenLive_eq_next hl rfl

theorem exec_pciePowerStateWrite (d3 : Bool) : exec (.pciePowerStateWrite port d3) s = .next (setPcie port { getPcie s port with d3 := d3 } s) := by
  show execPciePowerStateWrite port d3 s = _
  exact whenLive_eq_next hl rfl

end

/-- Settles O49: rings stop one after the other without touching those of the other port, and an abandoned frame leaves its descriptor behind. -/
theorem portEvents : Obligations.PortEvents := by
  unfold Obligations.PortEvents
  intro port s hl _
  refine ⟨fun sent hdue => ?_, fun sent hdue => ?_, fun ring f rest hon hout hframes hlate => ?_, fun hup => ?_, ?_, exec_pcieFlitRetry hl port, fun width speed => exec_pcieLinkUp hl port width speed,
    fun d3 => ⟨exec_pciePowerStateWrite hl port d3, ?_⟩⟩
  · rw [exec_stallLimitExpiry hl, if_pos hdue]
    rfl
  · rw [exec_stallLimitExpiry hl, if_neg (by simp [hdue])]
  · have hexec := exec_lateAbandon hl hon hout hframes hlate
    have hframe : Leaves 0x3080000000000000000004 s (abandonFrame ring 3 s) := abandonFrame_frame (Leaves.refl _ s) (FieldsIn.refl _)
    have hring := getRing_abandonFrame 3 hframes
    exact ⟨fun hdue => hexec.trans (congrArg _ (if_neg (by simp [hdue]))), fun hdue => hexec.trans (congrArg _ (if_pos hdue)), congrArg Ring.frames hring,
      (congrArg Ring.held hring : _), getPcie_abandonFrame 3 hframes, hframe.out (by decide), leaves_tl hframe (by decide), leaves_ci hframe (by decide)⟩
  · show execPcieLinkDown port s = _
    exact whenLive_eq_next hl (if_pos hup)
  · have hstop : Leaves 0x3080000000000000000004 s (stopRings port s) := stopRings_frame (Leaves.refl _ s) (FieldsIn.refl _)
    obtain ⟨htl, hci, hpt⟩ := portCleared_keeps port (stopRings port s)
    refine ⟨portCleared port (stopRings port s), exec_functionLevelReset hl port, getPcie_portCleared port (stopRings port s),
      fun j hj => (getPcie_portCleared_other port (stopRings port s) hj).trans (getPcie_stopRings_other s hj), fun r hr hown => ?_,
      fun r hr hother => ?_, getLatches_portCleared port (stopRings port s), htl.trans (leaves_tl hstop (by decide)),
      hci.trans (leaves_ci hstop (by decide)), hpt.trans (leaves_pt hstop (by decide))⟩
    · rw [getRing_portCleared, getObj_portCleared]
      exact stopped_stopRings hr hown
    · rw [getRing_portCleared, getObj_portCleared]
      exact stopRings_other_ring hother
  · rw [getPcie_setPcie]

end Sys2Proof.Proofs.PortLinks
end
